-- ==== Sys2Proof/Word.lean ====
section
/-!
DEFINITION. Word.lean: the word types of the machine and their plainest arithmetic.
Registers of a control core thread are 64-bit words (spec/01 R38), an instruction is a 32-bit word (spec/04 R102),
memory is bytes (spec/04 R88).
-/
namespace Sys2Proof

/-- A control core register, or any doubleword (R38). -/
abbrev Word := BitVec 64

/-- A byte of memory (R88). -/
abbrev Byte := BitVec 8

/-- A control core instruction word (R102). -/
abbrev IWord := BitVec 32

/-- A register number s0 to s31 (R38). -/
abbrev RegNo := BitVec 5

/-- The 16-bit immediate of an instruction word (R102). -/
abbrev Imm16 := BitVec 16

end Sys2Proof
end

