-- ==== Sys2Proof/Syntax.lean ====
section
/-!
DEFINITION. Syntax.lean: the steps of the part, one constructor per row of spec/opcode_table.json.
A control core row carries the fields of its word (spec/04 R102 to R105). A device step has no word: its operands name
the object it acts on (spec/95: "the part's steps, each whole and indivisible").
-/
namespace Sys2Proof

/-- An element or die-edge engine: package, die, page (or engine index), element code (R15). -/
structure Eng where
  pkg : Nat
  die : Nat
  page : Nat
  elem : Nat
  deriving DecidableEq, Repr, Inhabited

/-- A control core thread (R38). -/
structure Tid where
  pkg : Nat
  die : Nat
  thr : Nat
  deriving DecidableEq, Repr, Inhabited

/-- The ordering suffix of an atomic (R104). -/
inductive AmoOrd where
  | acq | rel | ar
  deriving DecidableEq, Repr, Inhabited

/-- A scope (R93, R303). -/
inductive Scope where
  | elem | page | die | pkg | dom | sys
  deriving DecidableEq, Repr, Inhabited

/-- A bank under a bank code (R385): a bank of a memory tile, or a bank of an HBM stack. -/
inductive BankId where
  | l0 (pkg die page mt bank : Nat)
  | hbm (pkg stack bank : Nat)
  deriving DecidableEq, Repr, Inhabited

/-- What the host does through BAR2 or in its own memory (R404, R314). -/
inductive HostAccess where
  | read (bytes : Nat)
  | write (data : List Byte)
  deriving DecidableEq, Repr, Inhabited

/-- Why a fetch failed (R221). -/
inductive FetchFault where
  | notPresent | permission | illegalAddress | dataError | misaligned
  deriving DecidableEq, Repr, Inhabited

/-- The steps of the part: one constructor per row of spec/opcode_table.json. -/
inductive Instr where
  /-- TOKEN_ARRIVAL (R28): An engine applies one arriving token to its matching-store row, setting the presence bit of the position it names. -/
  | tokenArrival (e : Eng) (n : Nat)
  /-- ARBITER_SELECT (R285): In one cycle the engine arbiter chooses a class and, by smooth weighted rotation, one ready activation for a unit that can take it. -/
  | arbiterSelect (e : Eng)
  /-- ARBITER_REWEIGHT (R286): At the end of each 1,024-cycle epoch the arbiter sets each operator's effective weight from its occupancy and clears the occupancy. -/
  | arbiterReweight (e : Eng)
  /-- LIVE_COUNT_UPDATE (R21): The home engine applies one increment or decrement of a colour's live count, acknowledging increments. -/
  | liveCountUpdate (n : Nat)
  /-- LAUNCH_COMPLETE (R281): Once a launch's writes are performed at system scope, its signal event is written, its trap thread's event bit is set and its LID is freed. -/
  | launchComplete (pkg lid : Nat)
  /-- SOURCE (R121): A SOURCE fires at launch or on INJECT and emits a signal, scalar or tile token to every consumer. -/
  | source (e : Eng) (n : Nat)
  /-- SINK (R122): A SINK consumes its token and emits nothing. -/
  | sink (e : Eng) (n : Nat)
  /-- DUP (R122): A DUP consumes its token and emits a copy to every consumer of every port. -/
  | dup (e : Eng) (n : Nat)
  /-- ENTER (R123): An ENTER draws or reuses a loop colour for its frame row and emits the token with that colour. -/
  | enterOp (e : Eng) (n : Nat)
  /-- NEXT (R123): A NEXT draws or uses the successor colour, emits the token under it and closes the current colour. -/
  | nextOp (e : Eng) (n : Nat)
  /-- EXIT (R123): An EXIT emits the token with the loop field cleared and closes the colour. -/
  | exitOp (e : Eng) (n : Nat)
  /-- CALL (R124): A CALL draws or reuses a callee context, sets the linkage slot on the lead and emits the argument under the new context. -/
  | callOp (e : Eng) (n : Nat)
  /-- RET (R125): A RET, once linkage is valid, emits the token under the caller's tag to its destination entry and closes the context. -/
  | retOp (e : Eng) (n : Nat)
  /-- GSTEER (R126): A GSTEER emits its left token on port 0 or port 1 according to the predicate. -/
  | gsteer (e : Eng) (n : Nat)
  /-- GMERGE (R126): A GMERGE emits the operand selected by the predicate, or any present operand in mode any. -/
  | gmerge (e : Eng) (n : Nat)
  /-- TRIGGER_ARRIVAL (R128): A scalar or signal arrival is consumed by a TRIGGER, counted, arms the row and may start the deadline; the condition is evaluated. -/
  | triggerArrival (e : Eng) (n : Nat)
  /-- TRIGGER_DEADLINE (R129): A TRIGGER's deadline is served at a bucket boundary and the condition is evaluated again. -/
  | triggerDeadline (e : Eng) (slot vrow : Nat)
  /-- BRIDGE (R130): A BRIDGE emits its token to every consumer once every covered write has been performed at the widest scope. -/
  | bridge (e : Eng) (n : Nat)
  /-- COPEN (R133): A COPEN opens a containment instance, keeps its operands, holds a live unit and emits them. -/
  | copen (e : Eng) (n : Nat)
  /-- CCLOSE (R134): A CCLOSE, with the instance open and pend zero, emits its operands, retires the kept references and sets the instance idle. -/
  | cclose (e : Eng) (n : Nat)
  /-- CONTAINMENT_HELD (R135): An unwinding instance whose pend reaches zero purges its member colours, becomes held and raises the containment-unwind trap. -/
  | containmentHeld (pkg graph rec row : Nat)
  /-- TIMER (R136): A TIMER consumes a scalar, computes the due time and holds a live unit. -/
  | timer (e : Eng) (n : Nat)
  /-- TIMER_EXPIRY (R136): A TIMER's due time is reached at a bucket boundary, so it emits a signal token with the consumed tag. -/
  | timerExpiry (pkg die n : Nat)
  /-- VBLOCK_ACTIVATION (R146): A VBLOCK activation starts on the block unit: the block is validated on its first run, state is zeroed and the destinations are allocated. -/
  | vblockActivation (e : Eng)
  /-- VBLOCK_STEP (R181): One step of a VBLOCK activation runs its instructions in stage and slot order, waiting for any input chunks it needs. -/
  | vblockStep (e : Eng)
  /-- VBLOCK_COMPLETE (R147): After the last step, unwritten destination elements are written absent, the chunks complete and each port emits its token. -/
  | vblockComplete (e : Eng)
  /-- MMUL (R152): An MMUL activation streams its activation rows through the bound bank, adds one chunk per element and may seal and drain. -/
  | mmul (e : Eng)
  /-- WLOAD (R149): A WLOAD writes a weight tile into the idle bank, latches its format and scales, sets valid and swp and signals. -/
  | wload (e : Eng)
  /-- GATHER (R156): A GATHER writes table rows selected by an index tile into its destination. -/
  | gather (e : Eng)
  /-- REPEAT (R157): A REPEAT writes a tile repeated c times along rows or columns. -/
  | repeatOp (e : Eng)
  /-- SWIN (R158): A SWIN stores an image row in its delay line and emits a window tile when the row completes a window. -/
  | swin (e : Eng)
  /-- TRANSP (R159): A TRANSP writes the transpose of its input tile. -/
  | transp (e : Eng)
  /-- CONV (R160): A CONV converts a tile to its output format, choosing block scales and rounding each element. -/
  | conv (e : Eng)
  /-- HLOAD (R165): An HLOAD allocates its destination, translates its pattern and issues sector reads. -/
  | hload (e : Eng) (n : Nat)
  /-- HLOAD_SECTOR_RETURN (R165): Returned sector data is written into its chunk; the tile token leaves when the tile is FULL and ctok when every read has returned. -/
  | hloadSectorReturn (e : Eng) (n : Nat)
  /-- HSTORE (R166): An HSTORE writes its tile to its HBM pattern. -/
  | hstore (e : Eng) (n : Nat)
  /-- HSTORE_COMPLETE (R166): Once every write is acknowledged at the edge's scope, the HSTORE emits its completion signal. -/
  | hstoreComplete (e : Eng) (n : Nat)
  /-- COPY (R171): A COPY activation enters its ranges in the scoreboard and hands a transfer to the copy engine. -/
  | copy (e : Eng) (n : Nat)
  /-- COPY_CHUNK_ACK (R172): A copy chunk's write is acknowledged: its chunk bit is set, the barrier is decremented and ctok follows after the last chunk. -/
  | copyChunkAck (pkg die n chunk : Nat)
  /-- COPY_PACKET_TAKE (R250): The copy engine takes the sealed slot at its read index, stores the new read index and executes the packet. -/
  | copyPacketTake (pkg die q : Nat)
  /-- CHW (R173): A CHW, once the channel can take a record, writes the tile or scalar as one record and may signal. -/
  | chw (e : Eng) (n : Nat)
  /-- CHR (R174): A CHR, once the channel holds a record, takes it and emits a tile or scalar, or signals end of stream. -/
  | chr (e : Eng) (n : Nat)
  /-- DISPATCH (R175): A DISPATCH places each row of its data tile on its first or second choice by credit, sends the rows and emits the report. -/
  | dispatch (e : Eng) (n : Nat)
  /-- DISPATCH_CREDIT_UPDATE (R325): The channel controller sends the writer's strait engine a raised credit after reads. -/
  | dispatchCreditUpdate (pkg die idx : Nat)
  /-- REDUCE (R178): A REDUCE contributes its tile to its group under its tag and waits in the transfer unit. -/
  | reduce (e : Eng) (n : Nat)
  /-- REDUCE_COMPLETE (R179): When every member has contributed, the tree result is written to each member's destination and emitted. -/
  | reduceComplete (group : Nat) (tag : Word)
  /-- CHUNK_WRITE_COMPLETE (R32): A chunk write completes and sets its chunk bit, making the tile FULL when every bit is set. -/
  | chunkWriteComplete (n : Nat)
  /-- TILE_READ_RETIRE (R32): A consumer retires its read of a tile token, lowering refs, and the entry goes to DRAINING and FREE. -/
  | tileReadRetire (n : Nat)
  /-- BURST_RECEIVE (R64): A consumer receives a chunk burst, latches its scales, or discards it with a burst-format fault. -/
  | burstReceive (e : Eng) (input chunk : Nat)
  /-- MEMORY_TILE_REQUEST (R298): A bank of a memory tile performs one 64-byte request from the head of a port queue in rotating order. -/
  | memoryTileRequest (e : Eng) (bank : Nat)
  /-- HBM_SECTOR_ACCESS (R375): The owning HBM port engine performs a sector read, write or atomic after scoreboard and range checks in its granted slot. -/
  | hbmSectorAccess (e : Eng) (n : Nat)
  /-- PAGE_WALK (R351): A walker reads page-table entries level by level and returns a translation or a fault. -/
  | pageWalk (e : Eng) (part vpage : Nat)
  /-- LAUNCH_ACCEPT (R278): The scheduler reads a sealed launch record into the queue window, advances the read index and assigns a LID. -/
  | launchAccept (pkg q : Nat)
  /-- LAUNCH_EVENT_POLL (R277): The scheduler reads a head record's wait events, at least every 1 µs and after completions. -/
  | launchEventPoll (pkg q : Nat)
  /-- LAUNCH_START (R278): An eligible head chosen by priority resolves names and draws root instances for its gang, or fails every member. -/
  | launchStart (pkg : Nat)
  /-- STREAM_COMMAND_BEGIN (R249): A started stream command begins once earlier overlapping and pre-barrier commands on its port have completed. -/
  | streamCommandBegin (e : Eng) (port slot : Nat)
  /-- STREAM_CIRCUIT_SETUP (R365): A setup flit reserves a circuit lane in each switch on the route, waiting where none is free. -/
  | streamCircuitSetup (e : Eng) (port slot : Nat)
  /-- STREAM_COMMAND_COMPLETE (R249): A command's last burst is accepted, so it frees its slot and sets the starting thread's event bit. -/
  | streamCommandComplete (e : Eng) (port slot : Nat)
  /-- TIMER_WHEEL_BOUNDARY (R288): At a 10 ns bucket boundary the wheel fires the entries due there in due-time order. -/
  | timerWheelBoundary (pkg die : Nat)
  /-- TWSET_EXPIRY (R258): A TWSET entry comes due and performs its injection or sets the thread's event bit. -/
  | twsetExpiry (pkg die n : Nat)
  /-- FAR_LIST_MOVE (R289): At each wheel revolution, far-list entries that have come within span are moved into their buckets. -/
  | farListMove (pkg die : Nat)
  /-- DEVICE_TIME_STEP (R290): The IEEE 1588 servo slews or steps device time forward, and passed entries fire at the next boundary. -/
  | deviceTimeStep (pkg ns : Nat)
  /-- QM_SAMPLE (R338): Every 1 µs the home monitor samples the per-LID counts and activity bits of a launch in two passes. -/
  | qmSample (pkg lid : Nat) (second : Bool)
  /-- QM_WINDOW_END (R339): A gang quiescent through a whole window reaches a quiescent episode and is judged for deadlock. -/
  | qmWindowEnd (pkg lid : Nat)
  /-- PENDING_REPORT_ARRIVAL (R330): An asynchronous report from an engine arrives and takes its place in the target thread's pending queue. -/
  | pendingReportArrival (n : Nat)
  /-- ASYNC_TRAP_ENTRY (R263): With ae 1 and ht 0, the thread takes a pending report between instructions, writing the trap registers and entering the handler. -/
  | asyncTrapEntry (t : Tid)
  /-- LOAD_RETURN (R227): A load's data returns, writes rd and clears its scoreboard bit, or is squashed and sets lsq. -/
  | loadReturn (t : Tid) (n : Nat)
  /-- LOAD_DATA_ERROR (R227): An uncorrectable load result is reported as a trap at the next instruction that uses rd, a fence, an atomic, HALT, WFE or trap entry. -/
  | loadDataError (t : Tid)
  /-- ASYNC_COMPLETION (R235): An async device instruction's operation completes and its result word lands in rd. -/
  | asyncCompletion (t : Tid) (n : Nat)
  /-- BLOCKING_WAIT_END (R235): The condition of a blocking instruction comes to hold and the thread resumes issue after writing rd. -/
  | blockingWaitEnd (t : Tid)
  /-- PAGE_SET_MOVE (R274): Compaction freezes a movable set, drains its tokens, shifts it through the save chain, rewrites handles and thaws it. -/
  | pageSetMove (pkg graph : Nat)
  /-- SLOT_BOUNDARY (R359): At each 32 ns slot boundary an engine grants the slot to its owner, to open traffic in rotation, or to a reserved class. -/
  | slotBoundary (e : Eng)
  /-- LINK_FLIT_RECEIVE (R362): A port checks a flit's CRCs and accepts it or discards it and requests a replay from the sender. -/
  | linkFlitReceive (e : Eng) (noise : BitVec 512)
  /-- LINK_DEATH (R362): After 8 failed resends or 1 µs without lane lock, the link is dead and its strait engines notify their service cores. -/
  | linkDeath (e : Eng) (lostLock : Bool)
  /-- MILESTONE_CHANGE (R368): The route master advances the milestone to the next set that avoids every dead link and broadcasts the notice. -/
  | milestoneChange (pkg : Nat)
  /-- MILESTONE_ADOPT (R368): An engine adopts a newer milestone from a notice or a packet and resends its unacknowledged packets. -/
  | milestoneAdopt (e : Eng)
  /-- PACKET_ARRIVAL (R367): A strait engine or switch checks a packet's path id, port, hops and milestone, forwarding it or dropping it. -/
  | packetArrival (n : Nat)
  /-- TERMINAL_ACCEPT (R371): The terminal engine accepts, re-acknowledges or ignores a packet by its seq and passes accepted ones on in order. -/
  | terminalAccept (n : Nat)
  /-- ACK_RECEIVE (R369): An end-to-end acknowledgement frees a packet from the retry buffer. -/
  | ackReceive (n : Nat)
  /-- NACK_RECEIVE (R369): A nack makes the source resend the packet with rply set on the current route set. -/
  | nackReceive (n : Nat)
  /-- RETRY_TIMEOUT (R369): A packet unacknowledged 16 µs after sending is resent. -/
  | retryTimeout (e : Eng) (n : Nat)
  /-- CHUNK_WRITE (R363): A transfer packet of op 0x1 delivers chunk bursts of a tile to the element that holds it. -/
  | chunkWrite (n : Nat)
  /-- READ_RESPONSE (R363): A transfer packet of op 0x3 returns a sector or an atomic's old value to the requester. -/
  | readResponse (n : Nat)
  /-- CHANNEL_WRITE (R364): A transfer packet of op 0x4 delivers record bursts that the channel controller places by ordinal. -/
  | channelWrite (n : Nat)
  /-- REDUCE_CONTRIBUTION (R376): A transfer packet of op 0x5 carries a REDUCE contribution along the group's tree. -/
  | reduceContribution (n : Nat)
  /-- HBM_READ (R376): A transfer packet of op 0x6 asks the owning engine to read a sector for a remote requester. -/
  | hbmRead (n : Nat)
  /-- HBM_WRITE (R376): A transfer packet of op 0x7 writes the masked bytes of a sector at the owning engine. -/
  | hbmWrite (n : Nat)
  /-- HBM_ATOMIC (R230): A transfer packet of op 0x8 performs an indivisible atomic at the owning engine and returns the old value. -/
  | hbmAtomic (n : Nat)
  /-- ELEMENT_CLOCK_GATE (R373): An element idle for 64 cycles is clock-gated. -/
  | elementClockGate (e : Eng)
  /-- ELEMENT_WAKE (R373): A token reaches a gated element or page, which wakes while the token waits. -/
  | elementWake (e : Eng)
  /-- PAGE_POWER_GATE (R373): Firmware policy power-gates a quiet page of a placed set. -/
  | pagePowerGate (pkg die page : Nat)
  /-- SCRUB_READ (R387): The scrubber reads a bank word, writes back a corrected word or poisons an uncorrectable HBM sector. -/
  | scrubRead (b : BankId) (word : Nat)
  /-- ECC_WINDOW_EXPIRY (R386): A bank's error window ends and its window count starts again. -/
  | eccWindowExpiry (b : BankId)
  /-- BANK_CONVERSION (R386): Once the lost eighth is free, the scrubber re-encodes a pending bank word by word under DEC-TED. -/
  | bankConversion (b : BankId)
  /-- TRACE_WRITE (R395): The trace unit writes a staged record to its partition's buffer in a trace slot, or counts it lost. -/
  | traceWrite (pkg die part : Nat)
  /-- ZBELL (R404): A write of zbell asks the service core to read the command ring at once. -/
  | zbell (pkg fn : Nat)
  /-- ZRING_WRITE (R404): A write of zring sets the command ring base and depth once outstanding commands complete. -/
  | zringWrite (pkg fn : Nat) (v : Word)
  /-- REGISTER_WRITE (R404): A host write of a BAR0 register without behaviour of its own, such as zvec, sets its writable fields. -/
  | registerWrite (pkg fn off : Nat) (v : Word)
  /-- BAR2_ACCESS (R404): A host access through BAR2 is translated in the partition's space on package 0 and performed, or completes as Unsupported Request. -/
  | bar2Access (pkg fn off : Nat) (acc : HostAccess)
  /-- ZCMD_RING_POLL (R405): The service core reads a command ring at a zbell write or at least every 10 µs and takes sealed commands in order. -/
  | zcmdRingPoll (pkg fn : Nat)
  /-- IDENT (R411): The IDENT command writes the identity block. -/
  | ident (pkg fn : Nat)
  /-- ATTEST (R412): The ATTEST command writes a signed attestation report over the nonce. -/
  | attest (pkg fn : Nat)
  /-- FWSTAGE (R410): The FWSTAGE command stages a signed patch image for the next cold reset. -/
  | fwstage (pkg fn : Nat)
  /-- PCREATE (R408): The PCREATE command creates a partition with no resources and enables its function. -/
  | pcreate (pkg fn : Nat)
  /-- PDESTROY (R408): The PDESTROY command runs FLR, returns every resource to partition 0 and disables the function. -/
  | pdestroy (pkg fn : Nat)
  /-- FLR (R355): The FLR command closes, kills, drains and scrubs a partition and writes the drain report. -/
  | flr (pkg fn : Nat)
  /-- PGRANT (R408): The PGRANT command moves free pages, threads, barriers and HBM between partition 0 and a partition. -/
  | pgrant (pkg fn : Nat)
  /-- ASPACE (R349): The ASPACE command sets a partition's root and virtual window. -/
  | aspace (pkg fn : Nat)
  /-- POOLS (R408): The POOLS command sets a partition's segment, frame-backing and L1 pools. -/
  | pools (pkg fn : Nat)
  /-- FAULTS (R408): The FAULTS command sets a partition's fault thread, quiescence window and break default. -/
  | faults (pkg fn : Nat)
  /-- SLOTS (R358): The SLOTS command writes a whole slot table that takes effect at the next frame boundary. -/
  | slots (pkg fn : Nat)
  /-- LQSET (R275): The LQSET command sets a launch queue's base and depth and zeroes its indices. -/
  | lqset (pkg fn : Nat)
  /-- CQSET (R250): The CQSET command sets a user copy queue's base, depth, partition and fault thread and zeroes its indices. -/
  | cqset (pkg fn : Nat)
  /-- ROUTES (R366): The ROUTES command installs routing table entries, active from the next milestone. -/
  | routes (pkg fn : Nat)
  /-- MSTONE (R368): The MSTONE command joins the package to its route and load-store domains and adopts their milestone. -/
  | mstone (pkg fn : Nat)
  /-- RGROUP (R408): The RGROUP command binds a REDUCE group with its rank, members and tree links. -/
  | rgroup (pkg fn : Nat)
  /-- TLBINV (R353): The TLBINV command drops matching TLB entries package-wide and completes once accesses through them are performed. -/
  | tlbinv (pkg fn : Nat)
  /-- READ (R402): The READ command writes the named device object to the buffer without changing state. -/
  | readObject (pkg fn : Nat)
  /-- DBGSET_STOP_ENTRY (R390): DBGSET object 0 writes a stop-table entry to every copy of the table. -/
  | dbgsetStopEntry (pkg fn : Nat)
  /-- DBGSET_TRACE (R395): DBGSET object 1 sets a partition's trace configuration on a die. -/
  | dbgsetTrace (pkg fn : Nat)
  /-- DBGSET_WATCH (R400): DBGSET object 2 replaces a whole watch filter. -/
  | dbgsetWatch (pkg fn : Nat)
  /-- DBGSET_BREAK_BIT (R393): DBGSET object 3 sets or clears a launch's break-enable bit. -/
  | dbgsetBreakBit (pkg fn : Nat)
  /-- DBGSET_PROFILE_CLEAR (R398): DBGSET object 4 zeroes the masked fields of an operator slot's profile record. -/
  | dbgsetProfileClear (pkg fn : Nat)
  /-- DBGSET_LOG_ENTRY (R169): DBGSET object 5 writes a deferred-error log entry zero and so frees it. -/
  | dbgsetLogEntry (pkg fn : Nat)
  /-- THREAD_NORMAL_STOP (R394): THREAD operation 0 stops a thread once its outstanding loads and async results have landed. -/
  | threadNormalStop (pkg fn : Nat)
  /-- THREAD_HARD_STOP (R394): THREAD operation 1 stops a thread's issue at once, abandoning any blocking wait. -/
  | threadHardStop (pkg fn : Nat)
  /-- THREAD_RESUME (R394): THREAD operation 2 resumes a stopped or halted thread at pc. -/
  | threadResume (pkg fn : Nat)
  /-- THREAD_REGISTER_WRITE (R409): THREAD operation 3 writes an s register, control register or pc of a halted or stopped thread. -/
  | threadRegisterWrite (pkg fn : Nat)
  /-- SCRUB (R386): The SCRUB command sets the adaptation threshold and window and the scrub pass periods. -/
  | scrub (pkg fn : Nat)
  /-- POWER (R414): The POWER command sets the module power limit. -/
  | power (pkg fn : Nat)
  /-- THERMAL_THROTTLE (R414): Power above the limit or a die at 95 °C lowers the fabric clock in 5 % steps, which return once under the limits. -/
  | thermalThrottle (pkg : Nat) (lower : Bool)
  /-- THERMAL_SHUTDOWN (R414): At 110 °C or with the input out of range, the module stops every clock and asserts its fault line. -/
  | thermalShutdown (pkg : Nat)
  /-- COLD_RESET (R413): A cold reset raises the rails, runs ROM, trains HBM and straits, enumerates PCIe and starts device time. -/
  | coldReset (pkg : Nat)
  /-- ADD (R222): s[rd] := s[rs1] + s[rs2] modulo 2^64. -/
  | add (rd rs1 rs2 : RegNo)
  /-- SUB (R222): s[rd] := s[rs1] − s[rs2] modulo 2^64. -/
  | sub (rd rs1 rs2 : RegNo)
  /-- AND (R222): Bitwise AND of two registers. -/
  | and (rd rs1 rs2 : RegNo)
  /-- OR (R222): Bitwise OR of two registers. -/
  | or (rd rs1 rs2 : RegNo)
  /-- XOR (R222): Bitwise XOR of two registers. -/
  | xor (rd rs1 rs2 : RegNo)
  /-- SHL (R222): Shift left by s[rs2][5:0]. -/
  | shl (rd rs1 rs2 : RegNo)
  /-- SHR (R222): Logical shift right by s[rs2][5:0]. -/
  | shr (rd rs1 rs2 : RegNo)
  /-- SAR (R222): Arithmetic shift right by s[rs2][5:0]. -/
  | sar (rd rs1 rs2 : RegNo)
  /-- MUL (R222): Low 64 bits of the product. -/
  | mul (rd rs1 rs2 : RegNo)
  /-- MULH (R222): High 64 bits of the signed 128-bit product. -/
  | mulh (rd rs1 rs2 : RegNo)
  /-- MULHN (R222): High 64 bits of the unsigned 128-bit product. -/
  | mulhn (rd rs1 rs2 : RegNo)
  /-- DIV (R222): Signed quotient truncated towards zero, never trapping. -/
  | div (rd rs1 rs2 : RegNo)
  /-- DIVN (R222): Unsigned quotient, all-ones for a zero divisor. -/
  | divn (rd rs1 rs2 : RegNo)
  /-- REM (R222): Signed remainder with the sign of the dividend. -/
  | rem (rd rs1 rs2 : RegNo)
  /-- REMN (R222): Unsigned remainder. -/
  | remn (rd rs1 rs2 : RegNo)
  /-- MIN (R222): Signed lesser of two registers. -/
  | min (rd rs1 rs2 : RegNo)
  /-- MAX (R222): Signed greater of two registers. -/
  | max (rd rs1 rs2 : RegNo)
  /-- MINN (R222): Unsigned lesser of two registers. -/
  | minn (rd rs1 rs2 : RegNo)
  /-- MAXN (R222): Unsigned greater of two registers. -/
  | maxn (rd rs1 rs2 : RegNo)
  /-- SLT (R222): 1 when s[rs1] < s[rs2] signed, else 0. -/
  | slt (rd rs1 rs2 : RegNo)
  /-- SLTN (R222): 1 when s[rs1] < s[rs2] unsigned, else 0. -/
  | sltn (rd rs1 rs2 : RegNo)
  /-- ADDI (R223): Adds the sign-extended immediate. -/
  | addi (rd rs1 : RegNo) (imm : Imm16)
  /-- ANDI (R223): ANDs the zero-extended immediate. -/
  | andi (rd rs1 : RegNo) (imm : Imm16)
  /-- ORI (R223): ORs the zero-extended immediate. -/
  | ori (rd rs1 : RegNo) (imm : Imm16)
  /-- XORI (R223): XORs the zero-extended immediate. -/
  | xori (rd rs1 : RegNo) (imm : Imm16)
  /-- SHLI (R223): Shift left by an immediate count. -/
  | shli (rd rs1 : RegNo) (sh : BitVec 6)
  /-- SHRI (R223): Logical shift right by an immediate count. -/
  | shri (rd rs1 : RegNo) (sh : BitVec 6)
  /-- SARI (R223): Arithmetic shift right by an immediate count. -/
  | sari (rd rs1 : RegNo) (sh : BitVec 6)
  /-- LUI (R223): Writes sign_extend_64(imm16 << 16). -/
  | lui (rd : RegNo) (imm : Imm16)
  /-- AUIP (R223): Writes its own address plus sign_extend_64(imm16 << 16). -/
  | auip (rd : RegNo) (imm : Imm16)
  /-- JAL (R224): Jumps by a word offset and writes the return address to rd. -/
  | jal (rd : RegNo) (imm : BitVec 21)
  /-- JALR (R224): Jumps to a register plus a word offset and writes the return address to rd. -/
  | jalr (rd rs1 : RegNo) (imm : Imm16)
  /-- BEQ (R224): Branches when the registers are equal. -/
  | beq (rs1 rs2 : RegNo) (imm : Imm16)
  /-- BNE (R224): Branches when the registers differ. -/
  | bne (rs1 rs2 : RegNo) (imm : Imm16)
  /-- BLT (R224): Branches when s[rs1] < s[rs2] signed. -/
  | blt (rs1 rs2 : RegNo) (imm : Imm16)
  /-- BGE (R224): Branches when s[rs1] ≥ s[rs2] signed. -/
  | bge (rs1 rs2 : RegNo) (imm : Imm16)
  /-- BLTN (R224): Branches when s[rs1] < s[rs2] unsigned. -/
  | bltn (rs1 rs2 : RegNo) (imm : Imm16)
  /-- BGEN (R224): Branches when s[rs1] ≥ s[rs2] unsigned. -/
  | bgen (rs1 rs2 : RegNo) (imm : Imm16)
  /-- LD8 (R226): Loads a byte sign-extended. -/
  | ld8 (rd rs1 : RegNo) (imm : Imm16)
  /-- LD8N (R226): Loads a byte zero-extended. -/
  | ld8n (rd rs1 : RegNo) (imm : Imm16)
  /-- LD16 (R226): Loads a halfword sign-extended. -/
  | ld16 (rd rs1 : RegNo) (imm : Imm16)
  /-- LD16N (R226): Loads a halfword zero-extended. -/
  | ld16n (rd rs1 : RegNo) (imm : Imm16)
  /-- LD32 (R226): Loads a word sign-extended. -/
  | ld32 (rd rs1 : RegNo) (imm : Imm16)
  /-- LD32N (R226): Loads a word zero-extended. -/
  | ld32n (rd rs1 : RegNo) (imm : Imm16)
  /-- LD64 (R226): Loads a doubleword. -/
  | ld64 (rd rs1 : RegNo) (imm : Imm16)
  /-- ST8 (R226): Stores the low byte of a register. -/
  | st8 (src rs1 : RegNo) (imm : Imm16)
  /-- ST16 (R226): Stores the low halfword of a register. -/
  | st16 (src rs1 : RegNo) (imm : Imm16)
  /-- ST32 (R226): Stores the low word of a register. -/
  | st32 (src rs1 : RegNo) (imm : Imm16)
  /-- ST64 (R226): Stores a register as a doubleword. -/
  | st64 (src rs1 : RegNo) (imm : Imm16)
  /-- AMOADD (R229): Atomically adds the operand and returns the old doubleword. -/
  | amoadd (rd rs1 rs2 : RegNo) (ord : AmoOrd)
  /-- AMOAND (R229): Atomically ANDs the operand and returns the old doubleword. -/
  | amoand (rd rs1 rs2 : RegNo) (ord : AmoOrd)
  /-- AMOOR (R229): Atomically ORs the operand and returns the old doubleword. -/
  | amoor (rd rs1 rs2 : RegNo) (ord : AmoOrd)
  /-- AMOXOR (R229): Atomically XORs the operand and returns the old doubleword. -/
  | amoxor (rd rs1 rs2 : RegNo) (ord : AmoOrd)
  /-- AMOSWP (R229): Atomically swaps in the operand and returns the old doubleword. -/
  | amoswp (rd rs1 rs2 : RegNo) (ord : AmoOrd)
  /-- AMOMIN (R229): Atomically writes the signed minimum and returns the old doubleword. -/
  | amomin (rd rs1 rs2 : RegNo) (ord : AmoOrd)
  /-- AMOMAX (R229): Atomically writes the signed maximum and returns the old doubleword. -/
  | amomax (rd rs1 rs2 : RegNo) (ord : AmoOrd)
  /-- AMOCAS (R229): Atomically writes the operand when memory equals the comparand in rd, returning the old doubleword. -/
  | amocas (rd rs1 rs2 : RegNo) (ord : AmoOrd)
  /-- AMOINC (R229): Atomically increments below a bound, or without one when the bound is 0, returning the old doubleword. -/
  | amoinc (rd rs1 rs2 : RegNo) (ord : AmoOrd)
  /-- FENCE (R231): Stops issue until earlier loads have returned and stores and atomics are performed at the scope. -/
  | fence (sc : Scope)
  /-- TRAP (R262): Raises the software trap with imm16 in cc_tval. -/
  | trap (imm : Imm16)
  /-- NOP (R232): Does nothing. -/
  | nop
  /-- HALT (R232): Waits as FENCE.sys does, then stops the thread. -/
  | halt
  /-- ERET (R264): Returns from a trap to cc_epc, restores ae and releases any held work. -/
  | eret
  /-- WFE (R232): Clears the event bit if set, otherwise waits for it to be set and then clears it. -/
  | wfe
  /-- SEV (R232): Sets the event bits of the threads selected by s[rs1][3:0]. -/
  | sev (rs1 : RegNo)
  /-- CSRRD (R265): Reads a control register into rd. -/
  | csrrd (rd : RegNo) (csr : BitVec 12)
  /-- CSRWR (R265): Writes s[rs1] into a control register. -/
  | csrwr (rs1 : RegNo) (csr : BitVec 12)
  /-- CSRSET (R265): Indivisibly ORs s[rs1] into a control register. -/
  | csrset (rs1 : RegNo) (csr : BitVec 12)
  /-- CSRCLR (R265): Indivisibly clears the bits of s[rs1] in a control register. -/
  | csrclr (rs1 : RegNo) (csr : BitVec 12)
  /-- GLOAD (R238): Checks and loads a graph onto a page set, committing all pages at once, and returns a handle. -/
  | gload (rd rs1 : RegNo)
  /-- GFREE (R239): Releases a graph's pages and tables and clears any blocked state. -/
  | gfree (rd rs1 : RegNo)
  /-- GLAUNCH (R240): Appends a launch record to a launch queue and returns its LID. -/
  | glaunch (rd rs1 rs2 : RegNo)
  /-- GKILL (R241): Ends a launch, cancels its transfers, waits for its writes and frees its tiles and colours. -/
  | gkill (rd rs1 : RegNo)
  /-- INJECT (R242): Makes a SOURCE fire once under the descriptor's tag, taking the colour off the free list where needed. -/
  | inject (rd rs1 : RegNo)
  /-- PURGE (R243): Removes every token of a colour and of its inner colours and returns the colour. -/
  | purge (rd rs1 rs2 : RegNo)
  /-- MSREAD (R244): Writes an operator's occupied rows, or a QM report, to a buffer. -/
  | msread (rd rs1 rs2 : RegNo)
  /-- CLREAD (R244): Writes a region descriptor, its colour records and its free list to a buffer. -/
  | clread (rd rs1 rs2 : RegNo)
  /-- FREEZE (R245): Closes a page set's ingress, lets transfers retire and gates its clocks. -/
  | freeze (rd rs1 : RegNo)
  /-- THAW (R245): Reopens a frozen set and evaluates passed deadlines and timers. -/
  | thaw (rd rs1 : RegNo)
  /-- SAVEC (R246): Shifts a frozen set through the save chain into an image buffer. -/
  | savec (rd rs1 rs2 : RegNo)
  /-- RESTC (R247): Checks a saved image and places it, frozen, on free pages of the package. -/
  | restc (rd rs1 : RegNo)
  /-- SBIND (R249): Waits for a free command slot on a port and binds a pattern to it. -/
  | sbind (rd rs1 rs2 : RegNo)
  /-- SSTART (R249): Starts a bound stream command slot. -/
  | sstart (rd rs1 rs2 : RegNo)
  /-- SBAR (R249): Places a barrier among a port's commands. -/
  | sbar (rd rs1 : RegNo)
  /-- CPYQ (R252): Claims a copy-queue slot with a bounded AMOINC, copies the body and stores the seal. -/
  | cpyq (rd rs1 rs2 : RegNo)
  /-- CPYWAIT (R253): Waits until every masked chunk bit of a tile is set. -/
  | cpywait (rd rs1 rs2 : RegNo)
  /-- BARARM (R254): Applies one re-arm update to a barrier. -/
  | bararm (rs1 rs2 : RegNo)
  /-- BARARRIVE (R254): Applies one arrival to a barrier, releasing at package scope. -/
  | bararrive (rs1 : RegNo)
  /-- BARWAIT (R254): Waits until a barrier's phase differs from the given phase and returns it. -/
  | barwait (rd rs1 rs2 : RegNo)
  /-- CHOPEN (R255): Opens a channel on the thread's die and optionally attaches the thread as an endpoint. -/
  | chopen (rd rs1 rs2 : RegNo)
  /-- CHWR (R256): Waits until the channel admits a record and writes one from memory. -/
  | chwr (rd rs1 rs2 : RegNo)
  /-- CHRD (R256): Waits for a record, removes it and writes it to memory. -/
  | chrd (rd rs1 rs2 : RegNo)
  /-- CHTRY (R256): Removes a record if one is present, otherwise reports empty. -/
  | chtry (rd rs1 rs2 : RegNo)
  /-- CHCLOSE (R257): Closes a channel for writing, or frees an entry that has no endpoint and no record. -/
  | chclose (rd rs1 : RegNo)
  /-- TWSET (R258): Enters a timer-wheel entry that will inject or set the event bit at its due time. -/
  | twset (rd rs1 rs2 : RegNo)
  /-- TWCLR (R258): Cancels a timer-wheel entry. -/
  | twclr (rd rs1 : RegNo)
  /-- TIME (R258): Returns the device time in nanoseconds. -/
  | time (rd : RegNo)
  /-- CRGNO (R259): Opens a thread containment level with a handler. -/
  | crgno (rd rs1 : RegNo)
  /-- CRGNC (R260): Closes the innermost level and releases its held effects, or replays or abandons a held graph instance. -/
  | crgnc (rd rs1 rs2 : RegNo)
  /-- QSET (R261): Sets an agent's quota and returns the old quota. -/
  | qset (rd rs1 rs2 : RegNo)
  /-- QGET (R261): Returns an agent's quota, usage or breach count. -/
  | qget (rd rs1 rs2 : RegNo)
  /-- ILLEGAL_INSTRUCTION (R106): A thread issues a word that no instruction encoding accepts, and a precise illegal-instruction trap is taken with the word in cc_tval. -/
  | illegalInstruction (w : IWord)
  /-- FETCH_FAULT (R225): The fetch of the instruction that would issue next fails translation or returns an uncorrectable error, and the fetch trap is taken at that address. -/
  | fetchFault (why : FetchFault)
  /-- WRITE_ACKNOWLEDGEMENT (R231): The acknowledgement that a control core store, or a write to host memory, has been performed reaches the thread, freeing its store slot and letting a waiting FENCE, HALT or release proceed. -/
  | writeAcknowledgement (t : Tid) (n : Nat)
  deriving DecidableEq, Repr, Inhabited

end Sys2Proof
end

