-- ==== Sys2Proof/WellFormed.lean ====
section
/-!
DEFINITION. WellFormed.lean: which terms of Instr name something the part has.
A control core instruction is well formed when a word of R102 to R106 stands for it; a device step when its operands
lie in the ranges the spec gives their objects.
-/
namespace Sys2Proof

/-- Why a word is refused (R106), or bytes that hold no whole word. -/
inductive DecodeError where
  | truncated
  | unassignedMajor
  | unassignedFunction
  | unassignedOrdering
  | unassignedScope
  | unassignedCsr
  | readOnlyCsr
  | nonzeroField
  deriving DecidableEq, Repr

/-- The control registers (R266): none for a number that names no register, else whether it is RW. -/
def csrAccess (c : BitVec 12) : Option Bool :=
  match c.toNat with
  | 0x000 => some true
  | 0x001 => some false
  | 0x002 => some true
  | 0x003 => some false
  | 0x004 => some false
  | 0x005 => some false
  | 0x006 => some true
  | 0x007 => some true
  | 0x010 => some true
  | 0x011 => some false
  | 0x012 => some false
  | 0x013 => some false
  | 0x014 => some true
  | 0x020 => some false
  | _ => none

/-- Packages are numbered in 19 bits (R13). -/
def pkgOk (p : Nat) : Bool := decide (p < 2 ^ 19)
/-- Four compute dies (R2). -/
def dieOk (d : Nat) : Bool := decide (d < 4)
/-- Sixteen pages of a die (R2). -/
def pageOk (p : Nat) : Bool := decide (p < 16)
/-- Thirty-two partitions (R354). -/
def partOk (p : Nat) : Bool := decide (p < 32)
/-- A PCIe function for each partition (R403). -/
def fnOk (f : Nat) : Bool := decide (f < 32)
/-- LIDs 1 to 4,095 (R240). -/
def lidOk (l : Nat) : Bool := decide (0 < l) && decide (l < 4096)
/-- Graph handles 0 to 255 (R238). -/
def graphOk (g : Nat) : Bool := decide (g < 256)
/-- An engine's coordinate (R15). -/
def engOk (e : Eng) : Bool := pkgOk e.pkg && dieOk e.die && pageOk e.page && decide (e.elem < 32)
/-- Four threads of each control core (R38). -/
def tidOk (t : Tid) : Bool := pkgOk t.pkg && dieOk t.die && decide (t.thr < 4)
/-- A bank code (R385). -/
def bankOk : BankId → Bool
  | .l0 p d pg mt b => pkgOk p && dieOk d && pageOk pg && decide (mt < 8) && decide (b < 16)
  | .hbm p st b => pkgOk p && decide (st < 12) && decide (b < 2 ^ 16)

/-- The term names something the part has. -/
def Instr.wellFormed : Instr → Bool
  | .tokenArrival e _ => engOk e
  | .arbiterSelect e => engOk e
  | .arbiterReweight e => engOk e
  | .liveCountUpdate _ => true
  | .launchComplete pkg lid => pkgOk pkg && lidOk lid
  | .source e _ => engOk e
  | .sink e _ => engOk e
  | .dup e _ => engOk e
  | .enterOp e _ => engOk e
  | .nextOp e _ => engOk e
  | .exitOp e _ => engOk e
  | .callOp e _ => engOk e
  | .retOp e _ => engOk e
  | .gsteer e _ => engOk e
  | .gmerge e _ => engOk e
  | .triggerArrival e _ => engOk e
  | .triggerDeadline e slot _ => engOk e && decide (slot < 64)
  | .bridge e _ => engOk e
  | .copen e _ => engOk e
  | .cclose e _ => engOk e
  | .containmentHeld pkg graph _ _ => pkgOk pkg && graphOk graph
  | .timer e _ => engOk e
  | .timerExpiry pkg die _ => pkgOk pkg && dieOk die
  | .vblockActivation e => engOk e
  | .vblockStep e => engOk e
  | .vblockComplete e => engOk e
  | .mmul e => engOk e
  | .wload e => engOk e
  | .gather e => engOk e
  | .repeatOp e => engOk e
  | .swin e => engOk e
  | .transp e => engOk e
  | .conv e => engOk e
  | .hload e _ => engOk e
  | .hloadSectorReturn e _ => engOk e
  | .hstore e _ => engOk e
  | .hstoreComplete e _ => engOk e
  | .copy e _ => engOk e
  | .copyChunkAck pkg die _ _ => pkgOk pkg && dieOk die
  | .copyPacketTake pkg die q => pkgOk pkg && dieOk die && decide (q < 16)
  | .chw e _ => engOk e
  | .chr e _ => engOk e
  | .dispatch e _ => engOk e
  | .dispatchCreditUpdate pkg die idx => pkgOk pkg && dieOk die && decide (idx < 4096)
  | .reduce e _ => engOk e
  | .reduceComplete _ _ => true
  | .chunkWriteComplete _ => true
  | .tileReadRetire _ => true
  | .burstReceive e _ _ => engOk e
  | .memoryTileRequest e bank => engOk e && decide (bank < 16)
  | .hbmSectorAccess e _ => engOk e
  | .pageWalk e part _ => engOk e && partOk part
  | .launchAccept pkg q => pkgOk pkg && decide (q < 32)
  | .launchEventPoll pkg q => pkgOk pkg && decide (q < 32)
  | .launchStart pkg => pkgOk pkg
  | .streamCommandBegin e port slot => engOk e && decide (port < 4) && decide (slot < 8)
  | .streamCircuitSetup e port slot => engOk e && decide (port < 4) && decide (slot < 8)
  | .streamCommandComplete e port slot => engOk e && decide (port < 4) && decide (slot < 8)
  | .timerWheelBoundary pkg die => pkgOk pkg && dieOk die
  | .twsetExpiry pkg die _ => pkgOk pkg && dieOk die
  | .farListMove pkg die => pkgOk pkg && dieOk die
  | .deviceTimeStep pkg _ => pkgOk pkg
  | .qmSample pkg lid _ => pkgOk pkg && lidOk lid
  | .qmWindowEnd pkg lid => pkgOk pkg && lidOk lid
  | .pendingReportArrival _ => true
  | .asyncTrapEntry t => tidOk t
  | .loadReturn t _ => tidOk t
  | .loadDataError t => tidOk t
  | .asyncCompletion t _ => tidOk t
  | .blockingWaitEnd t => tidOk t
  | .pageSetMove pkg graph => pkgOk pkg && graphOk graph
  | .slotBoundary e => engOk e
  | .linkFlitReceive e _ => engOk e
  | .linkDeath e _ => engOk e
  | .milestoneChange pkg => pkgOk pkg
  | .milestoneAdopt e => engOk e
  | .packetArrival _ => true
  | .terminalAccept _ => true
  | .ackReceive _ => true
  | .nackReceive _ => true
  | .retryTimeout e _ => engOk e
  | .chunkWrite _ => true
  | .readResponse _ => true
  | .channelWrite _ => true
  | .reduceContribution _ => true
  | .hbmRead _ => true
  | .hbmWrite _ => true
  | .hbmAtomic _ => true
  | .elementClockGate e => engOk e
  | .elementWake e => engOk e
  | .pagePowerGate pkg die page => pkgOk pkg && dieOk die && pageOk page
  | .scrubRead b _ => bankOk b
  | .eccWindowExpiry b => bankOk b
  | .bankConversion b => bankOk b
  | .traceWrite pkg die part => pkgOk pkg && dieOk die && partOk part
  | .zbell pkg fn => pkgOk pkg && fnOk fn
  | .zringWrite pkg fn _ => pkgOk pkg && fnOk fn
  | .registerWrite pkg fn _ _ => pkgOk pkg && fnOk fn
  | .bar2Access pkg fn _ _ => pkgOk pkg && fnOk fn
  | .zcmdRingPoll pkg fn => pkgOk pkg && fnOk fn
  | .ident pkg fn => pkgOk pkg && fnOk fn
  | .attest pkg fn => pkgOk pkg && fnOk fn
  | .fwstage pkg fn => pkgOk pkg && fnOk fn
  | .pcreate pkg fn => pkgOk pkg && fnOk fn
  | .pdestroy pkg fn => pkgOk pkg && fnOk fn
  | .flr pkg fn => pkgOk pkg && fnOk fn
  | .pgrant pkg fn => pkgOk pkg && fnOk fn
  | .aspace pkg fn => pkgOk pkg && fnOk fn
  | .pools pkg fn => pkgOk pkg && fnOk fn
  | .faults pkg fn => pkgOk pkg && fnOk fn
  | .slots pkg fn => pkgOk pkg && fnOk fn
  | .lqset pkg fn => pkgOk pkg && fnOk fn
  | .cqset pkg fn => pkgOk pkg && fnOk fn
  | .routes pkg fn => pkgOk pkg && fnOk fn
  | .mstone pkg fn => pkgOk pkg && fnOk fn
  | .rgroup pkg fn => pkgOk pkg && fnOk fn
  | .tlbinv pkg fn => pkgOk pkg && fnOk fn
  | .readObject pkg fn => pkgOk pkg && fnOk fn
  | .dbgsetStopEntry pkg fn => pkgOk pkg && fnOk fn
  | .dbgsetTrace pkg fn => pkgOk pkg && fnOk fn
  | .dbgsetWatch pkg fn => pkgOk pkg && fnOk fn
  | .dbgsetBreakBit pkg fn => pkgOk pkg && fnOk fn
  | .dbgsetProfileClear pkg fn => pkgOk pkg && fnOk fn
  | .dbgsetLogEntry pkg fn => pkgOk pkg && fnOk fn
  | .threadNormalStop pkg fn => pkgOk pkg && fnOk fn
  | .threadHardStop pkg fn => pkgOk pkg && fnOk fn
  | .threadResume pkg fn => pkgOk pkg && fnOk fn
  | .threadRegisterWrite pkg fn => pkgOk pkg && fnOk fn
  | .scrub pkg fn => pkgOk pkg && fnOk fn
  | .power pkg fn => pkgOk pkg && fnOk fn
  | .thermalThrottle pkg _ => pkgOk pkg
  | .thermalShutdown pkg => pkgOk pkg
  | .coldReset pkg => pkgOk pkg
  | .add _ _ _ => true
  | .sub _ _ _ => true
  | .and _ _ _ => true
  | .or _ _ _ => true
  | .xor _ _ _ => true
  | .shl _ _ _ => true
  | .shr _ _ _ => true
  | .sar _ _ _ => true
  | .mul _ _ _ => true
  | .mulh _ _ _ => true
  | .mulhn _ _ _ => true
  | .div _ _ _ => true
  | .divn _ _ _ => true
  | .rem _ _ _ => true
  | .remn _ _ _ => true
  | .min _ _ _ => true
  | .max _ _ _ => true
  | .minn _ _ _ => true
  | .maxn _ _ _ => true
  | .slt _ _ _ => true
  | .sltn _ _ _ => true
  | .addi _ _ _ => true
  | .andi _ _ _ => true
  | .ori _ _ _ => true
  | .xori _ _ _ => true
  | .shli _ _ _ => true
  | .shri _ _ _ => true
  | .sari _ _ _ => true
  | .lui _ _ => true
  | .auip _ _ => true
  | .jal _ _ => true
  | .jalr _ _ _ => true
  | .beq _ _ _ => true
  | .bne _ _ _ => true
  | .blt _ _ _ => true
  | .bge _ _ _ => true
  | .bltn _ _ _ => true
  | .bgen _ _ _ => true
  | .ld8 _ _ _ => true
  | .ld8n _ _ _ => true
  | .ld16 _ _ _ => true
  | .ld16n _ _ _ => true
  | .ld32 _ _ _ => true
  | .ld32n _ _ _ => true
  | .ld64 _ _ _ => true
  | .st8 _ _ _ => true
  | .st16 _ _ _ => true
  | .st32 _ _ _ => true
  | .st64 _ _ _ => true
  | .amoadd _ _ _ _ => true
  | .amoand _ _ _ _ => true
  | .amoor _ _ _ _ => true
  | .amoxor _ _ _ _ => true
  | .amoswp _ _ _ _ => true
  | .amomin _ _ _ _ => true
  | .amomax _ _ _ _ => true
  | .amocas _ _ _ _ => true
  | .amoinc _ _ _ _ => true
  | .fence _ => true
  | .trap _ => true
  | .nop => true
  | .halt => true
  | .eret => true
  | .wfe => true
  | .sev _ => true
  | .csrrd _ c => (csrAccess c).isSome
  | .csrwr _ c => csrAccess c == some true
  | .csrset _ c => csrAccess c == some true
  | .csrclr _ c => csrAccess c == some true
  | .gload _ _ => true
  | .gfree _ _ => true
  | .glaunch _ _ _ => true
  | .gkill _ _ => true
  | .inject _ _ => true
  | .purge _ _ _ => true
  | .msread _ _ _ => true
  | .clread _ _ _ => true
  | .freeze _ _ => true
  | .thaw _ _ => true
  | .savec _ _ _ => true
  | .restc _ _ => true
  | .sbind _ _ _ => true
  | .sstart _ _ _ => true
  | .sbar _ _ => true
  | .cpyq _ _ _ => true
  | .cpywait _ _ _ => true
  | .bararm _ _ => true
  | .bararrive _ => true
  | .barwait _ _ _ => true
  | .chopen _ _ _ => true
  | .chwr _ _ _ => true
  | .chrd _ _ _ => true
  | .chtry _ _ _ => true
  | .chclose _ _ => true
  | .twset _ _ _ => true
  | .twclr _ _ => true
  | .time _ => true
  | .crgno _ _ => true
  | .crgnc _ _ _ => true
  | .qset _ _ _ => true
  | .qget _ _ _ => true
  | .illegalInstruction _ => true
  | .fetchFault _ => true
  | .writeAcknowledgement t _ => tidOk t

end Sys2Proof
end

