-- ==== Sys2Proof/Decode.lean ====
section
/-!
DEFINITION. Decode.lean: control core words (spec/04 R102 to R106), the decoder and then the encoder.
Decoding is total: a word that R106 refuses is rejected by the name of the first ground that holds.
-/
namespace Sys2Proof

/-! ### Fields of a word (R102) -/

/-- [31:26], the major opcode. -/
def fMaj (w : IWord) : BitVec 6 := w.extractLsb' 26 6
/-- [25:21]: rd, a store's source, or a branch's rs1. -/
def fD (w : IWord) : RegNo := w.extractLsb' 21 5
/-- [20:16]: rs1, or a branch's rs2. -/
def fA (w : IWord) : RegNo := w.extractLsb' 16 5
/-- [15:11]: rs2 of form R. -/
def fB (w : IWord) : RegNo := w.extractLsb' 11 5
/-- [10:0]: the function field of form R. -/
def fFn (w : IWord) : BitVec 11 := w.extractLsb' 0 11
/-- [15:0]: imm16. -/
def fImm (w : IWord) : Imm16 := w.extractLsb' 0 16
/-- [20:0]: imm21 of form J. -/
def fJ (w : IWord) : BitVec 21 := w.extractLsb' 0 21

/-- Form R. -/
def packR (maj : BitVec 6) (d a b : RegNo) (fn : BitVec 11) : IWord := maj ++ d ++ a ++ b ++ fn
/-- Forms I, S, B, U, C and T. -/
def packI (maj : BitVec 6) (d a : RegNo) (imm : Imm16) : IWord := maj ++ d ++ a ++ imm
/-- Form J. -/
def packJ (maj : BitVec 6) (d : RegNo) (imm : BitVec 21) : IWord := maj ++ d ++ imm

/-- The ordering field of an atomic (R104): 01 .acq, 10 .rel, 11 .ar; 00 is unassigned. -/
def ordOf : Nat → Option AmoOrd
  | 1 => some .acq
  | 2 => some .rel
  | 3 => some .ar
  | _ => none

/-- The code of an ordering (R104). -/
def ordCode : AmoOrd → BitVec 2
  | .acq => 1
  | .rel => 2
  | .ar => 3

/-- The scope of FENCE (R104). -/
def scopeOf : Nat → Option Scope
  | 0 => some .elem
  | 1 => some .page
  | 2 => some .die
  | 3 => some .pkg
  | 4 => some .dom
  | 5 => some .sys
  | _ => none

/-- The code of a scope (R104). -/
def scopeCode : Scope → BitVec 3
  | .elem => 0
  | .page => 1
  | .die => 2
  | .pkg => 3
  | .dom => 4
  | .sys => 5

/-! ### The decoder -/

/-- Accept an instruction when the fields it does not use are zero (R106). -/
def whenZero (ok : Bool) (i : Instr) : Except DecodeError Instr :=
  if ok then .ok i else .error .nonzeroField

/-- Major 0x00: integer register operations, by function (R104, R222). -/
def decodeInt (d a b : RegNo) : Nat → Except DecodeError Instr
  | 1 => .ok (.add d a b)
  | 2 => .ok (.sub d a b)
  | 3 => .ok (.and d a b)
  | 4 => .ok (.or d a b)
  | 5 => .ok (.xor d a b)
  | 6 => .ok (.shl d a b)
  | 7 => .ok (.shr d a b)
  | 8 => .ok (.sar d a b)
  | 9 => .ok (.mul d a b)
  | 10 => .ok (.mulh d a b)
  | 11 => .ok (.mulhn d a b)
  | 12 => .ok (.div d a b)
  | 13 => .ok (.divn d a b)
  | 14 => .ok (.rem d a b)
  | 15 => .ok (.remn d a b)
  | 16 => .ok (.min d a b)
  | 17 => .ok (.max d a b)
  | 18 => .ok (.minn d a b)
  | 19 => .ok (.maxn d a b)
  | 20 => .ok (.slt d a b)
  | 21 => .ok (.sltn d a b)
  | _ => .error .unassignedFunction

/-- Major 0x1D: the atomics (R104): [10:6] zero, [5:4] ordering, [3:0] operation. -/
def decodeAmo (d a b : RegNo) (fn : BitVec 11) : Except DecodeError Instr :=
  if fn.extractLsb' 6 5 = 0 then
    match ordOf (fn.extractLsb' 4 2).toNat with
    | none => .error .unassignedOrdering
    | some o =>
      match (fn.extractLsb' 0 4).toNat with
      | 0 => .ok (.amoadd d a b o)
      | 1 => .ok (.amoand d a b o)
      | 2 => .ok (.amoor d a b o)
      | 3 => .ok (.amoxor d a b o)
      | 4 => .ok (.amoswp d a b o)
      | 5 => .ok (.amomin d a b o)
      | 6 => .ok (.amomax d a b o)
      | 7 => .ok (.amocas d a b o)
      | 8 => .ok (.amoinc d a b o)
      | _ => .error .unassignedFunction
  else .error .nonzeroField

/-- Major 0x1E: FENCE (R104). -/
def decodeFence (d a b : RegNo) (fn : BitVec 11) : Except DecodeError Instr :=
  match scopeOf (fn.extractLsb' 0 3).toNat with
  | none => .error .unassignedScope
  | some sc => whenZero (d = 0 && a = 0 && b = 0 && fn.extractLsb' 3 8 = 0) (.fence sc)

/-- Major 0x20: system functions (R232). -/
def decodeSys (d a b : RegNo) : Nat → Except DecodeError Instr
  | 0 => whenZero (d = 0 && a = 0 && b = 0) .nop
  | 1 => whenZero (d = 0 && a = 0 && b = 0) .halt
  | 2 => whenZero (d = 0 && a = 0 && b = 0) .eret
  | 3 => whenZero (d = 0 && a = 0 && b = 0) .wfe
  | 4 => whenZero (d = 0 && b = 0) (.sev a)
  | _ => .error .unassignedFunction

/-- Major 0x21: control registers (R265): [15:14] zero, [13:12] operation, [11:0] the register's number. -/
def decodeCsr (d a : RegNo) (imm : Imm16) : Except DecodeError Instr :=
  let c := imm.extractLsb' 0 12
  if imm.extractLsb' 14 2 = 0 then
    match csrAccess c with
    | none => .error .unassignedCsr
    | some rw =>
      match (imm.extractLsb' 12 2).toNat with
      | 0 => whenZero (a = 0) (.csrrd d c)
      | 1 => if rw then whenZero (d = 0) (.csrwr a c) else .error .readOnlyCsr
      | 2 => if rw then whenZero (d = 0) (.csrset a c) else .error .readOnlyCsr
      | _ => if rw then whenZero (d = 0) (.csrclr a c) else .error .readOnlyCsr
  else .error .nonzeroField

/-- Major 0x22 (R104, R233). -/
def decodeGraph (d a b : RegNo) : Nat → Except DecodeError Instr
  | 1 => whenZero (b = 0) (.gload d a)
  | 2 => whenZero (b = 0) (.gfree d a)
  | 3 => .ok (.glaunch d a b)
  | 4 => whenZero (b = 0) (.gkill d a)
  | 5 => whenZero (b = 0) (.inject d a)
  | 6 => .ok (.purge d a b)
  | 7 => .ok (.msread d a b)
  | 8 => .ok (.clread d a b)
  | 9 => whenZero (b = 0) (.freeze d a)
  | 10 => whenZero (b = 0) (.thaw d a)
  | 11 => .ok (.savec d a b)
  | 12 => whenZero (b = 0) (.restc d a)
  | _ => .error .unassignedFunction

/-- Major 0x23 (R104, R233). -/
def decodeStream (d a b : RegNo) : Nat → Except DecodeError Instr
  | 1 => .ok (.sbind d a b)
  | 2 => .ok (.sstart d a b)
  | 3 => whenZero (b = 0) (.sbar d a)
  | 4 => .ok (.cpyq d a b)
  | 5 => .ok (.cpywait d a b)
  | 6 => whenZero (d = 0) (.bararm a b)
  | 7 => whenZero (d = 0 && b = 0) (.bararrive a)
  | 8 => .ok (.barwait d a b)
  | _ => .error .unassignedFunction

/-- Major 0x24 (R104, R233). -/
def decodeChan (d a b : RegNo) : Nat → Except DecodeError Instr
  | 1 => .ok (.chopen d a b)
  | 2 => .ok (.chwr d a b)
  | 3 => .ok (.chrd d a b)
  | 4 => .ok (.chtry d a b)
  | 5 => whenZero (b = 0) (.chclose d a)
  | 6 => .ok (.twset d a b)
  | 7 => whenZero (b = 0) (.twclr d a)
  | 8 => whenZero (a = 0 && b = 0) (.time d)
  | 9 => whenZero (b = 0) (.crgno d a)
  | 10 => .ok (.crgnc d a b)
  | 11 => .ok (.qset d a b)
  | 12 => .ok (.qget d a b)
  | _ => .error .unassignedFunction

/-- The instruction a word stands for, by major opcode (R103), or the first ground of R106 that refuses it.
The grounds of R106 that need register values (BARARM, BARARRIVE) are met at issue. -/
def decode (w : IWord) : Except DecodeError Instr :=
  let d := fD w
  let a := fA w
  let b := fB w
  let imm := fImm w
  let fn := (fFn w).toNat
  match (fMaj w).toNat with
  | 0x00 => decodeInt d a b fn
  | 0x01 => .ok (.addi d a imm)
  | 0x02 => .ok (.andi d a imm)
  | 0x03 => .ok (.ori d a imm)
  | 0x04 => .ok (.xori d a imm)
  | 0x05 => whenZero (imm.extractLsb' 6 10 = 0) (.shli d a (imm.extractLsb' 0 6))
  | 0x06 => whenZero (imm.extractLsb' 6 10 = 0) (.shri d a (imm.extractLsb' 0 6))
  | 0x07 => whenZero (imm.extractLsb' 6 10 = 0) (.sari d a (imm.extractLsb' 0 6))
  | 0x08 => whenZero (a = 0) (.lui d imm)
  | 0x09 => whenZero (a = 0) (.auip d imm)
  | 0x0A => .ok (.jal d (fJ w))
  | 0x0B => .ok (.jalr d a imm)
  | 0x0c => .ok (.beq d a imm)
  | 0x0d => .ok (.bne d a imm)
  | 0x0e => .ok (.blt d a imm)
  | 0x0f => .ok (.bge d a imm)
  | 0x10 => .ok (.bltn d a imm)
  | 0x11 => .ok (.bgen d a imm)
  | 0x12 => .ok (.ld8 d a imm)
  | 0x13 => .ok (.ld8n d a imm)
  | 0x14 => .ok (.ld16 d a imm)
  | 0x15 => .ok (.ld16n d a imm)
  | 0x16 => .ok (.ld32 d a imm)
  | 0x17 => .ok (.ld32n d a imm)
  | 0x18 => .ok (.ld64 d a imm)
  | 0x19 => .ok (.st8 d a imm)
  | 0x1a => .ok (.st16 d a imm)
  | 0x1b => .ok (.st32 d a imm)
  | 0x1c => .ok (.st64 d a imm)
  | 0x1D => decodeAmo d a b (fFn w)
  | 0x1E => decodeFence d a b (fFn w)
  | 0x1F => whenZero (d = 0 && a = 0) (.trap imm)
  | 0x20 => decodeSys d a b fn
  | 0x21 => decodeCsr d a imm
  | 0x22 => decodeGraph d a b fn
  | 0x23 => decodeStream d a b fn
  | 0x24 => decodeChan d a b fn
  | _ => .error .unassignedMajor

/-- The word of four bytes, little-endian (R88). -/
def wordOfBytes (b0 b1 b2 b3 : Byte) : IWord := b3 ++ b2 ++ b1 ++ b0

/-- The four bytes of a word, little-endian (R88). -/
def bytesOfWord (w : IWord) : List Byte :=
  [w.extractLsb' 0 8, w.extractLsb' 8 8, w.extractLsb' 16 8, w.extractLsb' 24 8]

/-- Decode the instruction at the head of a list of bytes. -/
def decodeBytes : List Byte → Except DecodeError (Instr × List Byte)
  | b0 :: b1 :: b2 :: b3 :: rest =>
    match decode (wordOfBytes b0 b1 b2 b3) with
    | .ok i => .ok (i, rest)
    | .error e => .error e
  | _ => .error .truncated

/-- The first four bytes of the number w, low byte first: the layout of a word in memory. -/
def tableBytes (w : Nat) : List Byte := bytesOfWord (BitVec.ofNat 32 w)

/-- The instruction the decoder reads from an opcode-table word. -/
def decodeTableWord (nbits w : Nat) : Option Instr :=
  if nbits = 0 ∨ 32 < nbits then none
  else
    match decodeBytes (tableBytes w) with
    | .ok (i, _) => some i
    | .error _ => none

/-! ### The encoder -/

/-- The word of a control core instruction (R102 to R104). A device step has no word. -/
def encode : Instr → Option IWord
  | .add d a b => some (packR 0x00 d a b 1)
  | .sub d a b => some (packR 0x00 d a b 2)
  | .and d a b => some (packR 0x00 d a b 3)
  | .or d a b => some (packR 0x00 d a b 4)
  | .xor d a b => some (packR 0x00 d a b 5)
  | .shl d a b => some (packR 0x00 d a b 6)
  | .shr d a b => some (packR 0x00 d a b 7)
  | .sar d a b => some (packR 0x00 d a b 8)
  | .mul d a b => some (packR 0x00 d a b 9)
  | .mulh d a b => some (packR 0x00 d a b 10)
  | .mulhn d a b => some (packR 0x00 d a b 11)
  | .div d a b => some (packR 0x00 d a b 12)
  | .divn d a b => some (packR 0x00 d a b 13)
  | .rem d a b => some (packR 0x00 d a b 14)
  | .remn d a b => some (packR 0x00 d a b 15)
  | .min d a b => some (packR 0x00 d a b 16)
  | .max d a b => some (packR 0x00 d a b 17)
  | .minn d a b => some (packR 0x00 d a b 18)
  | .maxn d a b => some (packR 0x00 d a b 19)
  | .slt d a b => some (packR 0x00 d a b 20)
  | .sltn d a b => some (packR 0x00 d a b 21)
  | .addi d a imm => some (packI 0x01 d a imm)
  | .andi d a imm => some (packI 0x02 d a imm)
  | .ori d a imm => some (packI 0x03 d a imm)
  | .xori d a imm => some (packI 0x04 d a imm)
  | .shli d a sh => some (packI 0x05 d a (0#10 ++ sh))
  | .shri d a sh => some (packI 0x06 d a (0#10 ++ sh))
  | .sari d a sh => some (packI 0x07 d a (0#10 ++ sh))
  | .lui d imm => some (packI 0x08 d 0 imm)
  | .auip d imm => some (packI 0x09 d 0 imm)
  | .jal d imm => some (packJ 0x0A d imm)
  | .jalr d a imm => some (packI 0x0B d a imm)
  | .beq a b imm => some (packI 0x0c a b imm)
  | .bne a b imm => some (packI 0x0d a b imm)
  | .blt a b imm => some (packI 0x0e a b imm)
  | .bge a b imm => some (packI 0x0f a b imm)
  | .bltn a b imm => some (packI 0x10 a b imm)
  | .bgen a b imm => some (packI 0x11 a b imm)
  | .ld8 d a imm => some (packI 0x12 d a imm)
  | .ld8n d a imm => some (packI 0x13 d a imm)
  | .ld16 d a imm => some (packI 0x14 d a imm)
  | .ld16n d a imm => some (packI 0x15 d a imm)
  | .ld32 d a imm => some (packI 0x16 d a imm)
  | .ld32n d a imm => some (packI 0x17 d a imm)
  | .ld64 d a imm => some (packI 0x18 d a imm)
  | .st8 d a imm => some (packI 0x19 d a imm)
  | .st16 d a imm => some (packI 0x1a d a imm)
  | .st32 d a imm => some (packI 0x1b d a imm)
  | .st64 d a imm => some (packI 0x1c d a imm)
  | .amoadd d a b o => some (packR 0x1D d a b (0#5 ++ ordCode o ++ 0#4))
  | .amoand d a b o => some (packR 0x1D d a b (0#5 ++ ordCode o ++ 1#4))
  | .amoor d a b o => some (packR 0x1D d a b (0#5 ++ ordCode o ++ 2#4))
  | .amoxor d a b o => some (packR 0x1D d a b (0#5 ++ ordCode o ++ 3#4))
  | .amoswp d a b o => some (packR 0x1D d a b (0#5 ++ ordCode o ++ 4#4))
  | .amomin d a b o => some (packR 0x1D d a b (0#5 ++ ordCode o ++ 5#4))
  | .amomax d a b o => some (packR 0x1D d a b (0#5 ++ ordCode o ++ 6#4))
  | .amocas d a b o => some (packR 0x1D d a b (0#5 ++ ordCode o ++ 7#4))
  | .amoinc d a b o => some (packR 0x1D d a b (0#5 ++ ordCode o ++ 8#4))
  | .fence sc => some (packR 0x1E 0 0 0 (0#8 ++ scopeCode sc))
  | .trap imm => some (packI 0x1F 0 0 imm)
  | .nop => some (packR 0x20 0 0 0 0)
  | .halt => some (packR 0x20 0 0 0 1)
  | .eret => some (packR 0x20 0 0 0 2)
  | .wfe => some (packR 0x20 0 0 0 3)
  | .sev a => some (packR 0x20 0 a 0 4)
  | .csrrd d c => some (packI 0x21 d 0 (0#4 ++ c))
  | .csrwr a c => some (packI 0x21 0 a (1#4 ++ c))
  | .csrset a c => some (packI 0x21 0 a (2#4 ++ c))
  | .csrclr a c => some (packI 0x21 0 a (3#4 ++ c))
  | .gload d a => some (packR 0x22 d a 0 1)
  | .gfree d a => some (packR 0x22 d a 0 2)
  | .glaunch d a b => some (packR 0x22 d a b 3)
  | .gkill d a => some (packR 0x22 d a 0 4)
  | .inject d a => some (packR 0x22 d a 0 5)
  | .purge d a b => some (packR 0x22 d a b 6)
  | .msread d a b => some (packR 0x22 d a b 7)
  | .clread d a b => some (packR 0x22 d a b 8)
  | .freeze d a => some (packR 0x22 d a 0 9)
  | .thaw d a => some (packR 0x22 d a 0 10)
  | .savec d a b => some (packR 0x22 d a b 11)
  | .restc d a => some (packR 0x22 d a 0 12)
  | .sbind d a b => some (packR 0x23 d a b 1)
  | .sstart d a b => some (packR 0x23 d a b 2)
  | .sbar d a => some (packR 0x23 d a 0 3)
  | .cpyq d a b => some (packR 0x23 d a b 4)
  | .cpywait d a b => some (packR 0x23 d a b 5)
  | .bararm a b => some (packR 0x23 0 a b 6)
  | .bararrive a => some (packR 0x23 0 a 0 7)
  | .barwait d a b => some (packR 0x23 d a b 8)
  | .chopen d a b => some (packR 0x24 d a b 1)
  | .chwr d a b => some (packR 0x24 d a b 2)
  | .chrd d a b => some (packR 0x24 d a b 3)
  | .chtry d a b => some (packR 0x24 d a b 4)
  | .chclose d a => some (packR 0x24 d a 0 5)
  | .twset d a b => some (packR 0x24 d a b 6)
  | .twclr d a => some (packR 0x24 d a 0 7)
  | .time d => some (packR 0x24 d 0 0 8)
  | .crgno d a => some (packR 0x24 d a 0 9)
  | .crgnc d a b => some (packR 0x24 d a b 10)
  | .qset d a b => some (packR 0x24 d a b 11)
  | .qget d a b => some (packR 0x24 d a b 12)
  | _ => none

end Sys2Proof
end

