-- ==== Sys2Proof/Machine/State.lean ====
section
/-!
DEFINITION. Machine/State.lean: everything the spec gives the machine, as plain data (INVENTORY.md, "## State").
Tables are sparse lists of key and value: a key that is not listed holds the entry's reset value, so each structure's
field defaults are its reset values. Every table is keyed by package, so peer packages are part of the state.
-/
namespace Sys2Proof.Machine

/-- A sparse table: a list of keys and values. A key not listed holds the table's reset entry. -/
abbrev Tbl (κ α : Type) := List (κ × α)

/-- A memory: strictly rising addresses, no listed byte equal to what an unlisted address reads as (0). -/
abbrev Memory := List Host.Cell

/-! ### Tokens -/

/-- An operator position: the dst layout of R90. -/
structure Coord where
  eng : Eng := default
  slot : Nat := 0
  pos : Nat := 0
  deriving DecidableEq, Repr, Inhabited

/-- The token header flit (R13, R90). -/
structure Token where
  dst : Coord := default
  src : Coord := default
  tag : Word := 0
  lid : Nat := 0
  part : Nat := 0
  agid : Nat := 0
  /-- R14: 1 tile, 2 scalar, 3 signal, 4 predicate -/
  kind : Nat := 3
  opw : BitVec 128 := 0
  residue : Nat := 0
  poison : Bool := false
  urg : Bool := false
  rply : Bool := false
  path : Nat := 0
  milestone : Nat := 0
  seq : Nat := 0
  vc : Nat := 0
  hops : Nat := 0
  /-- the flit's reserved bits, as one number -/
  rsv : Nat := 0
  deriving DecidableEq, Repr, Inhabited

/-- A colour of a region of a loaded graph (R17, R19). -/
structure ColKey where
  pkg : Nat := 0
  graph : Nat := 0
  region : Nat := 0
  colour : Nat := 0
  deriving DecidableEq, Repr, Inhabited

/-- One increment or decrement of a live count on its way to the home engine (R21).
An increment releases its token; a decrement waits for every increment of its firing. -/
structure LiveUpdate where
  firing : Nat := 0
  key : ColKey := default
  inc : Bool := true
  tok : Option Token := none
  /-- change of pbal (R127) -/
  pb : Int := 0
  lid : Nat := 0
  deriving DecidableEq, Repr, Inhabited

/-- A tile: package, die and 16-bit handle (R30). -/
structure TileId where
  pkg : Nat := 0
  die : Nat := 0
  handle : Nat := 0
  deriving DecidableEq, Repr, Inhabited

/-! ### Matching stores, arbiters, activations -/

/-- The state of a TRIGGER row (R128). -/
structure Trig where
  counters : List Nat := [0, 0, 0, 0]
  deadline : Option Nat := none
  deriving DecidableEq, Repr, Inhabited

/-- A virtual row of a matching store, resident or backed (R24, R25). -/
structure Row where
  vrow : Nat := 0
  slot : Nat := 0
  lid : Nat := 0
  tag : Word := 0
  l : Option Token := none
  r : Option Token := none
  p : Option Token := none
  /-- arrival cycles of the three operands (R399) -/
  tl : Nat := 0
  tr : Nat := 0
  tp : Nat := 0
  /-- device time of the latest arrival (R136) -/
  dtime : Nat := 0
  trig : Option Trig := none
  backed : Bool := false
  /-- R391: not selected until THAW -/
  stopHeld : Bool := false
  deriving DecidableEq, Repr, Inhabited

/-- An activation: a completed row of an operator slot (R26). -/
structure Act where
  slot : Nat := 0
  vrow : Nat := 0
  id : Nat := 0
  /-- the bank an MMUL activation bound to when it was selected (R150) -/
  bank : Option Bool := none
  /-- the destinations allocated for it (R26) -/
  dests : List TileId := []
  deriving DecidableEq, Repr, Inhabited

/-- A token set aside in a fault record (R27): why 0 collision, 1 misdelivery, 2 fault, 3 poison (R340). -/
structure SetAside where
  tok : Token := default
  slot : Nat := 0
  vrow : Nat := 0
  why : Nat := 0
  /-- its reference to its tile has retired already, since an HSTORE had read the whole of it (R166) -/
  spent : Bool := false
  deriving DecidableEq, Repr, Inhabited

/-- The moving state of an operator slot: arbiter (R285, R286) and profile record (R398). -/
structure SlotDyn where
  credit : Int := 0
  weight : Nat := 1
  occ : Nat := 0
  fires : Nat := 0
  refills : Nat := 0
  spills : Nat := 0
  /-- sticky flag word (R29, R48) -/
  flags : Nat := 0
  bins : List Nat := List.replicate 16 0
  validated : Bool := false
  /-- SWIN: next expected row, columns of row 0; its delay line lies in its memory tile (R158) -/
  q : Nat := 0
  cols0 : Nat := 0
  deriving DecidableEq, Repr, Inhabited

/-- A chunk burst received by a consumer (R62 to R65): input, chunk, header words, data. -/
structure Burst where
  input : Nat := 0
  chunk : Nat := 0
  words : List (BitVec 64) := []
  data : List Byte := []
  /-- the residue of the chunk's bytes that the engine serving the read returns with them (R379) -/
  sum : Nat := 0
  deriving DecidableEq, Repr, Inhabited

/-- A value in the loop-back queue of a block (R183): consumer slot and position, the step that reads it, the vector. -/
structure LoopBack where
  slot : Nat := 0
  pos : Nat := 0
  step : Nat := 0
  vec : List Nat := []
  deriving DecidableEq, Repr, Inhabited

/-- A compute activation in progress on an element (R137): consumed tokens, bursts read so far, destinations, and for
a VBLOCK the step index, the loop-back queue, the elements written to each port and a break taken. -/
structure Run where
  act : Act := default
  toks : List Token := []
  recv : List Burst := []
  dests : List TileId := []
  steps : Nat := 0
  step : Nat := 0
  loop : List LoopBack := []
  /-- the end of the activation: 0 working, 1 its chunk writes are under way -/
  phase : Nat := 0
  resid : List Nat := []
  extra : Option Token := none
  out : List (List (Option Nat)) := []
  /-- a step stopped between two repeats (R210): the place of its next word, its forward deliveries, a break taken -/
  word : Nat := 0
  box : Tbl (Nat × Nat) (List Nat) := []
  brk : Option Nat := none
  /-- the next name when the bound-tile accesses of a step arrived and were held back (R301) -/
  arrived : Option Nat := none
  deriving DecidableEq, Repr, Inhabited

/-- An entry of the deferred-error log with the partition beside it (R169). -/
structure LogEntry where
  tag : Word := 0
  slot : Nat := 0
  sector : Nat := 0
  lid : Nat := 0
  part : Nat := 0
  deriving DecidableEq, Repr, Inhabited

/-- An entry record of an ENTER group or CALL site (R118). -/
structure EntryRec where
  value : Nat := 0
  count : Nat := 0
  deriving DecidableEq, Repr, Inhabited

/-- A block of 16 rows that an engine holds in a frame-backing area (R335): whose pool, who pays, the virtual rows. -/
structure BBlock where
  part : Nat := 0
  agid : Nat := 0
  vrows : List Nat := []
  deriving DecidableEq, Repr, Inhabited

/-- An engine with a matching store (R23 to R29, R283 to R286, R343, R373). -/
structure Engine where
  rows : List Row := []
  spills : Nat := 0
  refills : Nat := 0
  fault : List SetAside := []
  freeze : List Token := []
  /-- blocks of the frame-backing area in use (R335) -/
  blocks : List BBlock := []
  /-- arriving tokens held at ingress by MSOVF (R335) -/
  ingress : List Token := []
  /-- an MSOVF report is outstanding and pins the head of ingress until its ERET (R333, R335) -/
  ovf : Bool := false
  ready : List Act := []
  /-- activations selected for the flow unit, and those selected for the compute or transfer unit -/
  flow : List Act := []
  unit : List Act := []
  run : Option Run := none
  /-- a WLOAD that writes an island's idle bank while MMULs stream (R149) -/
  wload : Option Run := none
  /-- the copy queue that the copy engine served last: 0 to 15 a user queue, 16 its operator queue (R171) -/
  served : Nat := 16
  /-- an arithmetic error that the physical world puts into the unit's next sum with a mod-3 code (R381) -/
  arithErr : Option Int := none
  /-- a bit of an image that the physical world inverts on the way to the engine's next read of it (R378, R379) -/
  dataErr : Option Nat := none
  /-- arbiter: urgent count u, engine cycles, cycles of the epoch -/
  u : Nat := 0
  cycles : Nat := 0
  epoch : Nat := 0
  slots : Tbl Nat SlotDyn := []
  entries : Tbl (Nat × Nat) EntryRec := []
  /-- R101: operator slot × 128 + instruction slot of the illegal word -/
  blocked : Option Nat := none
  gated : Bool := false
  waking : Bool := false
  /-- the deferred-error log: its entries, the ring's next position, entries lost (R169) -/
  log : Tbl Nat LogEntry := []
  logPos : Nat := 0
  logLost : Nat := 0
  stamps : Nat := 0
  deriving DecidableEq, Repr, Inhabited

/-- A completed row that is not ready: it waits for a destination entry, L0 space, a channel, its row index or pend = 0,
in the order in which it began to wait (R26, R134, R158, R173, R174). -/
structure AllocWait where
  eng : Eng := default
  slot : Nat := 0
  vrow : Nat := 0
  /-- held by a QUOTA report until its ERET (R333) -/
  held : Bool := false
  deriving DecidableEq, Repr, Inhabited

/-! ### Graphs -/

/-- A consumer entry with its relocated destination (R94). -/
structure Cons where
  port : Nat := 0
  dst : Coord := default
  deriving DecidableEq, Repr, Inhabited

/-- A block copy of a VBLOCK: binding record, header, words (R96, R97, R145). -/
structure Block where
  binding : BitVec 256 := 0
  header : BitVec 128 := 0
  words : List (BitVec 64) := []
  deriving DecidableEq, Repr, Inhabited

/-- A loaded operator (R93, R109): word, place, configuration words, consumers, frame base, block. -/
structure Op where
  word : BitVec 256 := 0
  eng : Eng := default
  slot : Nat := 0
  cfg : List (BitVec 256) := []
  cons : List Cons := []
  frame : Nat := 0
  /-- the lowest unit of a SWIN's delay line in its memory tile (R158) -/
  lineOff : Nat := 0
  /-- the report and count entries of a DISPATCH (R176) -/
  disp : List TileId := []
  block : Option Block := none
  deriving DecidableEq, Repr, Inhabited

/-- A colour record (R19), with the enclosing colour it holds and the launch that drew it. -/
structure Colour where
  live : Nat := 0
  succ : Nat := 0
  closes : Nat := 0
  pbal : Int := 0
  spnd : Bool := false
  succv : Bool := false
  closed : Bool := false
  busy : Bool := false
  hold : Option ColKey := none
  lid : Nat := 0
  /-- the operator that closed it (R397, kind 0x03) -/
  closer : Option (Eng × Nat) := none
  deriving DecidableEq, Repr, Inhabited

/-- A draw waiting at a home engine (R117): who asked. -/
structure Draw where
  eng : Eng := default
  slot : Nat := 0
  vrow : Nat := 0
  lid : Nat := 0
  tag : Word := 0
  deriving DecidableEq, Repr, Inhabited

/-- A linkage slot (R124). -/
structure Linkage where
  tag : Word := 0
  /-- the return entries, in the 22-bit layout of R94 from the set origin -/
  dest : List Nat := []
  deriving DecidableEq, Repr, Inhabited

/-- A region of a loaded graph (R17, R18, R117). -/
structure Region where
  rid : Nat := 0
  parent : Nat := 0
  depth : Nat := 0
  func : Bool := false
  width : Nat := 1
  cap : Nat := 1
  head : Nat := 0
  tail : Nat := 0
  free : List Nat := []
  recs : List Colour := []
  draws : List Draw := []
  links : Tbl Nat Linkage := []
  deriving DecidableEq, Repr, Inhabited

/-- A containment instance (R132): state 0 idle, 1 open, 2 unwinding, 3 held. -/
structure Inst where
  key : Word := 0
  kl : Option Token := none
  kr : Option Token := none
  pend : Nat := 0
  tries : Nat := 0
  state : Nat := 0
  lid : Nat := 0
  /-- coordinates of the operator whose consumption failed (R135) -/
  bad : Coord := default
  deriving DecidableEq, Repr, Inhabited

/-- A containment record (R109). -/
structure Cont where
  copen : Nat := 0
  cclose : Nat := 0
  handler : Nat := 0
  /-- entry indices of the members (R132) -/
  members : List Nat := []
  insts : Tbl Nat Inst := []
  deriving DecidableEq, Repr, Inhabited

/-- A shape record (R109): extents e0 to e3. -/
structure Shape where
  e0 : Nat := 1
  e1 : Nat := 1
  e2 : Nat := 1
  e3 : Nat := 1
  deriving DecidableEq, Repr, Inhabited

/-- A tile record (R109) with its relocated place. -/
structure TileRec where
  tile : TileId := default
  rows : Nat := 1
  cols : Nat := 1
  fmt : Nat := 0
  level : Bool := false
  pin : Bool := false
  init : Option Nat := none
  /-- L1 backing: global HBM address (R296) -/
  back : Nat := 0
  deriving DecidableEq, Repr, Inhabited

/-- A loaded graph (R238, R271). -/
structure Graph where
  part : Nat := 0
  agid : Nat := 0
  ibase : Word := 0
  nd : Nat := 1
  prows : Nat := 1
  pcols : Nat := 1
  /-- relocation record: physical die, row origin, column origin of each die offset (R271) -/
  reloc : List (Nat × Nat × Nat) := []
  ops : List Op := []
  regions : List Region := []
  tiles : List TileRec := []
  chans : List (Nat × Nat) := []
  conts : List Cont := []
  shapes : Tbl Nat Shape := []
  frozen : Bool := false
  freezing : Bool := false
  /-- compaction has planned this relocation (R274) -/
  moveTo : Option (List (Nat × Nat × Nat)) := none
  /-- its planned move found no room, so the request that asked for it does not plan it again (R274) -/
  noRoom : Bool := false
  saved : Bool := false
  deriving DecidableEq, Repr, Inhabited

/-! ### Launches -/

/-- A launch record (R276). -/
structure LaunchRec where
  graph : Nat := 0
  prio : Nat := 0
  gang : Bool := false
  sv : Bool := false
  trap : Nat := 0
  agid : Nat := 0
  nwait : Nat := 0
  queue : Nat := 0
  wait : List Word := []
  thr : List Nat := []
  sig : Word := 0
  /-- a reserved bit was set (R278) -/
  bad : Bool := false
  deriving DecidableEq, Repr, Inhabited

/-- A live launch: an entry of the LID table (R278, R281, R436): state 0 accepted, 1 started, 2 completing. -/
structure Launch where
  record : LaunchRec := default
  part : Nat := 0
  queue : Nat := 0
  gang : List Nat := []
  order : Nat := 0
  state : Nat := 0
  waitOk : Bool := false
  root : Option Nat := none
  /-- the launch's own unit on the root instance until every SOURCE with launch 1 has emitted (R120) -/
  srcLeft : Nat := 0
  unitHeld : Bool := false
  status : Word := 0
  /-- why a GKILL of it would end it: 1 killed, 2 block fault, 3 operator fault (R281) -/
  why : Nat := 1
  killed : Bool := false
  /-- R337: activity bit; R338: first pass zero; R339: quiescent since, episode raised -/
  activity : Bool := false
  pass1 : Bool := false
  quiet : Option Nat := none
  episode : Bool := false
  /-- device time of the last sample, and whether the first pass of the next has been made (R338) -/
  sampled : Nat := 0
  half : Bool := false
  deriving DecidableEq, Repr, Inhabited

/-- A launch queue of the package (R275). -/
structure LaunchQ where
  set : Bool := false
  base : Word := 0
  log2 : Nat := 2
  part : Nat := 0
  num : Nat := 0
  window : List (Nat × Nat) := []
  /-- the records at its head belong to a gang of more than 8 members, of which earlier members have failed (R280) -/
  failing : Bool := false
  deriving DecidableEq, Repr, Inhabited

/-- A SOURCE firing asked for by a launch, an INJECT or a timer (R120, R121, R242). -/
structure SourceFire where
  pkg : Nat := 0
  graph : Nat := 0
  op : Nat := 0
  lid : Nat := 0
  tag : Word := 0
  value : Option Word := none
  atLaunch : Bool := false
  id : Nat := 0
  deriving DecidableEq, Repr, Inhabited

/-! ### Tiles, channels, barriers -/

/-- A tile table entry (R31): state 0 FREE, 1 EMPTY, 2 FILLING, 3 FULL, 4 DRAINING. -/
structure Tile where
  cmap : BitVec 128 := 0
  /-- L0: offset in 64-byte units and bank map; L1: global HBM byte address -/
  off : Nat := 0
  bankmap : Nat := 0
  loc : Nat := 0
  rows : Nat := 0
  cols : Nat := 0
  fmt : Nat := 0
  state : Nat := 0
  refs : Nat := 0
  level : Bool := false
  pinned : Bool := false
  olid : Nat := 0
  agid : Nat := 0
  /-- the activation that holds an EMPTY entry until it starts writing (R26) -/
  owner : Nat := 0
  /-- the partition whose quota was charged for it (R261) -/
  part : Nat := 0
  /-- L0 data written by GLOAD: consumers check chunk residues (R379) -/
  byLoad : Bool := false
  deriving DecidableEq, Repr, Inhabited

/-- A chunk write on its way to a tile (R32). -/
structure ChunkWrite where
  tile : TileId := default
  chunk : Nat := 0
  data : List Byte := []
  /-- the chunk's scale area, for a scaled format (R295) -/
  scale : List Byte := []
  /-- sectors still to be performed by the memory tile (R298) -/
  left : Nat := 0
  id : Nat := 0
  lid : Nat := 0
  by_ : Coord := default
  tag : Word := 0
  deriving DecidableEq, Repr, Inhabited

/-- A read of a tile token that its consumer has finished (R32). -/
structure Retire where
  tile : TileId := default
  /-- refs has reached 0: the last outstanding read retires -/
  last : Bool := false
  deriving DecidableEq, Repr, Inhabited

/-- A 64-byte request at a port of a memory tile (R298). -/
structure MtReq where
  port : Nat := 0
  bank : Nat := 0
  unit : Nat := 0
  data : List Byte := []
  /-- the chunk write it belongs to -/
  cw : Nat := 0
  deriving DecidableEq, Repr, Inhabited

/-- A memory tile's requests in the order in which they came to each port, and the port each bank served last. The first
32 of a port stand in its queue; what follows them is held back in the fabric (R298). -/
structure MemTile where
  queue : List MtReq := []
  last : Tbl Nat Nat := []
  deriving DecidableEq, Repr, Inhabited

/-- A record in a channel: where it lies, and what is stored with it (R322, R323, R380, R170). -/
structure Rec where
  /-- none: ring position; some s: segment number -/
  seg : Option Nat := none
  pos : Nat := 0
  ready : Bool := false
  /-- first chunks of the packets of it that have been placed (R364) -/
  landed : List Nat := []
  residue : Nat := 0
  poison : Bool := false
  ordinal : Nat := 0
  lid : Nat := 0
  deriving DecidableEq, Repr, Inhabited

/-- A channel endpoint (R316). -/
inductive Endpoint where
  | none
  | op (c : Coord) (lid : Nat)
  | thread (t : Tid)
  /-- of a launch that stays suspended in the image of a set that has been freed (R239, R345) -/
  | saved (c : Coord) (lid : Nat)
  deriving DecidableEq, Repr, Inhabited

/-- A channel table entry (R316): state 0 free, 1 open, 2 write-closed. -/
structure Chan where
  name : Nat := 0
  part : Nat := 0
  agid : Nat := 0
  state : Nat := 0
  rlog : Nat := 0
  glog : Nat := 0
  grow : Bool := false
  spl : Bool := false
  rpage : Nat := 0
  rmt : Nat := 0
  roff : Nat := 0
  wi : Nat := 0
  ri : Nat := 0
  cap : Nat := 0
  nseg : Nat := 0
  gcount : Nat := 0
  shead : Nat := 0
  stail : Nat := 0
  sfree : Nat := 0xFFFFFF
  hoff : Nat := 0
  toff : Nat := 0
  scount : Nat := 0
  wep : Endpoint := .none
  rep : Endpoint := .none
  /-- owner: a thread (CHOPEN) or the first graph handle (GLOAD) -/
  ownerThread : Option Tid := none
  ownerGraph : Nat := 0
  grefs : Nat := 0
  wrec : Nat := 0
  rrec : Nat := 0
  /-- successor of each segment of the spill list and of the spare list -/
  links : Tbl Nat Nat := []
  /-- the records, oldest first -/
  recs : List Rec := []
  /-- a writer got FULL and waits (R322, R327) -/
  full : Bool := false
  /-- credit last sent to the DISPATCH writer's engine (R325) -/
  credit : Nat := 0
  /-- records that the writer has numbered, modulo 2^32: those from wrec on travel or wait for their place (R364) -/
  sent : Nat := 0
  deriving DecidableEq, Repr, Inhabited

/-- A barrier table entry (R36). -/
structure Barrier where
  pend : Nat := 0
  abytes : Nat := 0
  expect : Nat := 0
  arrived : Nat := 0
  excess : Bool := false
  armed : Bool := false
  phase : Bool := false
  deriving DecidableEq, Repr, Inhabited

/-! ### HBM -/

/-- What the code of a stored 64-bit word finds (R385, R386): errors of one, two or three bits, or the poison code. -/
inductive Ecc where
  | sound | single | double | triple | poison
  deriving DecidableEq, Repr, Inhabited

/-- A bank's mode record (R385) with the host's acknowledgement (R386). -/
structure BankMode where
  wcount : Nat := 0
  ccount : Nat := 0
  ucount : Nat := 0
  mode : Nat := 0
  /-- device time at which the window began -/
  wstart : Nat := 0
  /-- the local 8 KiB pages that the lost eighth of an HBM bank backs, listed when the bank becomes pending, and the host's
  acknowledgement that no partition maps them (R386) -/
  listed : List Nat := []
  acked : Bool := false
  deriving DecidableEq, Repr, Inhabited

/-- What a sector request does. -/
inductive ReqOp where
  | read
  | write (data : List Byte) (poison : Bool)
  | atomic (op : Nat) (v c : Word)
  deriving DecidableEq, Repr, Inhabited

/-- Who issued a request and waits for it. -/
inductive ReqFrom where
  | load (t : Tid) (id : Nat)
  | store (t : Tid) (id : Nat)
  | hload (e : Eng) (x : Nat) (chunk : Nat)
  | hstore (e : Eng) (x : Nat)
  /-- a sector of a chunk of a copy, read or written as its operation says -/
  | copy (e : Eng) (job chunk : Nat)
  /-- a sector of a stream command's burst -/
  | stream (e : Eng) (cmd : Nat)
  deriving DecidableEq, Repr, Inhabited

/-- The stamp of a copy or access (R300). -/
structure Stamp where
  time : Nat := 0
  pkg : Nat := 0
  die : Nat := 0
  elem : Nat := 0
  page : Nat := 0
  count : Nat := 0
  deriving DecidableEq, Repr, Inhabited

/-- Where a request stands. -/
inductive ReqSt where
  | queued      -- at its owner
  | away        -- on its way to another package
  | held        -- held by a watchpoint or not-present report (R333, R401)
  | done        -- performed, its answer not yet taken
  deriving DecidableEq, Repr, Inhabited

/-- A memory request in flight (R227, R300, R375): inside one 64-byte sector. -/
structure Req where
  id : Nat := 0
  owner : Eng := default
  host : Bool := false
  op : ReqOp := .read
  pa : Nat := 0
  len : Nat := 0
  va : Nat := 0
  part : Nat := 0
  lid : Nat := 0
  from_ : ReqFrom := .load default 0
  stamp : Option Stamp := none
  st : ReqSt := .queued
  data : List Byte := []
  bad : Bool := false
  /-- refused by the owner's range check (R351) -/
  denied : Bool := false
  unfiltered : Bool := false
  /-- the next name when it arrived at its owner from another package: entries with a lower name were present (R301) -/
  arr : Option Nat := none
  deriving DecidableEq, Repr, Inhabited

/-- A range scoreboard entry (R300). -/
structure RangeEnt where
  copy : Bool := false
  owner : Eng := default
  lo : Nat := 0
  hi : Nat := 0
  /-- a tile and its chunks lo to hi - 1, instead of bytes of HBM -/
  tile : Option TileId := none
  lid : Nat := 0
  eng : Eng := default
  stamp : Stamp := default
  id : Nat := 0
  deriving DecidableEq, Repr, Inhabited

/-- A page walk in progress (R352): the die whose walker it is, the engines whose misses joined it, partition and virtual
page, the level of the next entry and the local address of its table, the fault that it has come to (0 none, 1 not present,
2 permission, 3 illegal address), and of the access that began it the virtual address and the tag, slot and LID (R351). -/
structure Walk where
  pkg : Nat := 0
  die : Nat := 0
  engs : List Eng := []
  part : Nat := 0
  vpage : Nat := 0
  lvl : Nat := 3
  table : Nat := 0
  fault : Nat := 0
  va : Nat := 0
  tag : Word := 0
  slot : Nat := 0
  lid : Nat := 0
  deriving DecidableEq, Repr, Inhabited

/-- A sector access of an activation, copy or record that a watch filter has hit (R400, R401): its name in the report, the
activity it is of, the sector, and whether it is held. One that is not held passes once (R333). -/
structure WatchHold where
  id : Nat := 0
  who : Nat := 0
  sector : Nat := 0
  held : Bool := true
  deriving DecidableEq, Repr, Inhabited

/-- A piece of translated memory inside one page: host memory or HBM, address, length, virtual address. -/
structure Piece where
  host : Bool := false
  addr : Nat := 0
  len : Nat := 0
  va : Nat := 0
  deriving DecidableEq, Repr, Inhabited

/-- An HLOAD or HSTORE activation in flight (R165, R166). -/
structure Xfer where
  id : Nat := 0
  eng : Eng := default
  slot : Nat := 0
  vrow : Nat := 0
  lid : Nat := 0
  tok : Token := default
  tok2 : Option Token := none
  dest : Option TileId := none
  store : Bool := false
  /-- the memory that it reads or writes, in image order -/
  pieces : List Piece := []
  /-- its completion token has left -/
  ctok : Bool := false
  /-- requests not yet answered -/
  left : Nat := 0
  /-- bytes returned: offset in the tile image (or chunk image) and data -/
  got : List (Nat × List Byte) := []
  /-- chunks whose writes have begun, and chunks that an uncorrectable sector touches -/
  begun : List Nat := []
  spoilt : List Nat := []
  /-- header words of each chunk in the chunk-image layout (R164); empty in the plain layout -/
  words : List Nat := []
  poison : Bool := false
  failed : Bool := false
  /-- of a store: the chunks that have not been read, the residue of those that have, the sum of the residues that came with
  them, and why it stopped: 0 a fault with its cause and cc_tval, 1 poison, 2 a mismatch with both residues -/
  todo : List Nat := []
  resid : Nat := 0
  sum : Nat := 0
  stop : Option (Nat × Nat × Nat) := none
  deriving DecidableEq, Repr, Inhabited

/-- One end of a copy: a tile, or the pieces of a pattern in image order, in the chunk-image layout or not. -/
inductive CopyEnd where
  | tile (t : TileId)
  | mem (ps : List Piece) (bs : Bool)
  deriving DecidableEq, Repr, Inhabited

/-- A copy in flight: a COPY activation or a copy packet (R171, R172, R251). -/
structure CopyJob where
  id : Nat := 0
  eng : Eng := default
  slot : Nat := 0
  vrow : Nat := 0
  tok : Option Token := none
  tok2 : Option Token := none
  packet : Option (Nat × Nat) := none
  src : CopyEnd := .mem [] false
  dst : CopyEnd := .mem [] false
  rows : Nat := 1
  rbytes : Nat := 0
  fmt : Nat := 0
  lid : Nat := 0
  part : Nat := 0
  agid : Nat := 0
  mode : Nat := 0
  /-- header words of each chunk at an end in the chunk-image layout -/
  words : List Nat := []
  /-- barrier completion: die, index, and whether on the package that holds the destination bytes -/
  bar : Option (Nat × Nat × Bool) := none
  dfm : Bool := false
  early : Bool := false
  /-- chunks not yet acknowledged -/
  left : List Nat := []
  /-- chunks whose sector reads, and whose sector writes, are under way -/
  reading : List Nat := []
  writing : List Nat := []
  poison : Bool := false
  /-- it has stopped; its entries leave with its last outstanding request (R168) -/
  failed : Bool := false
  stamp : Stamp := default
  residue : Nat := 0
  /-- the sum of the residues that came with the chunks read of a tile (R379), and the sectors in the deferred-error log -/
  sum : Nat := 0
  logged : List Nat := []
  deriving DecidableEq, Repr, Inhabited

/-- A user copy queue (R250). -/
structure CopyQ where
  set : Bool := false
  base : Word := 0
  log2 : Nat := 2
  part : Nat := 0
  faultThr : Nat := 0
  deriving DecidableEq, Repr, Inhabited

/-! ### Compute units -/

/-- An accumulator lane: 64 value bits and a present count (R39). -/
structure Lane where
  val : Word := 0
  cnt : Nat := 0
  deriving DecidableEq, Repr, Inhabited

/-- A vector tile (R39, R40). -/
structure VTile where
  regs : Tbl Nat (BitVec 512) := []
  acc : Tbl (Nat × Nat) Lane := []
  /-- lane flags: V, N, Z, C of each position, bit 0 C -/
  flags : Tbl Nat (BitVec 4) := []
  shapes : Tbl Nat Shape := []
  /-- repeat index kept when FREEZE stops between repeats (R210) -/
  rep : Nat := 0
  deriving DecidableEq, Repr, Inhabited

/-- A weight bank of an island (R148, R149). -/
structure WBank where
  valid : Bool := false
  fmt : Nat := 0
  k : Nat := 0
  n : Nat := 0
  sc : Bool := false
  data : List Byte := []
  bursts : List Burst := []
  deriving DecidableEq, Repr, Inhabited

/-- An island (R41, R148): acls 0 none, 1 f32, 2 i32, 3 LACC. An element not listed is absent with count 0. -/
structure Island where
  act : Bool := false
  swp : Bool := false
  load : Bool := false
  acls : Nat := 0
  bact : Nat := 0
  bidle : Nat := 0
  wb0 : WBank := {}
  wb1 : WBank := {}
  acc : Tbl (Nat × Nat) Lane := []
  deriving DecidableEq, Repr, Inhabited

/-- A contribution to a REDUCE group (R178). -/
structure Contrib where
  rank : Nat := 0
  tag : Word := 0
  rows : Nat := 0
  cols : Nat := 0
  fmt : Nat := 0
  op : Nat := 0
  data : List Byte := []
  deriving DecidableEq, Repr, Inhabited

/-- A REDUCE group of the package (R178, RGROUP of R408). -/
structure RGroup where
  bound : Bool := false
  rank : Nat := 0
  n : Nat := 2
  links : List Byte := []
  /-- the REDUCE operator that is bound to it, and its launch (R163) -/
  member : Option (Coord × Nat) := none
  /-- the member of a launch that stays suspended in the image of a set that has been freed (R239, R345) -/
  parked : Option (Coord × Nat) := none
  contribs : List Contrib := []
  deriving DecidableEq, Repr, Inhabited

/-- An activation in a strait engine's transfer unit (R434): DISPATCH or REDUCE in progress. -/
structure XUnit where
  id : Nat := 0
  eng : Eng := default
  slot : Nat := 0
  vrow : Nat := 0
  lid : Nat := 0
  tok : Token := default
  tok2 : Option Token := none
  dest : List TileId := []
  reduce : Option Nat := none
  row : Nat := 0
  report : List Nat := []
  counts : List Nat := []
  /-- 0 placing or waiting; 1 its tiles are being written, or its record is on its way; 2 a scalar is on its way -/
  phase : Nat := 0
  /-- the channel and ordinal of a record on its way to another package -/
  sent : Option ((Nat × Nat × Nat) × Nat) := none
  /-- of a DISPATCH: the images of its data and route tiles, as they were read and checked -/
  img : List Byte := []
  route : List Byte := []
  deriving DecidableEq, Repr, Inhabited

/-! ### Streams -/

/-- A burst of a stream on its way: the consuming port and slot with its command's name, how many bytes it moves, where an
HBM port engine reads them, the bytes once they are read, and whether their writes are under way. -/
structure BurstRun where
  port : Eng × Nat := default
  slot : Nat := 0
  peer : Nat := 0
  n : Nat := 0
  pieces : List Piece := []
  data : Option (List Byte) := none
  writing : Bool := false
  deriving DecidableEq, Repr, Inhabited

/-- A command slot of a stream port (R248, R249): phase 0 bound, 1 started, 2 its circuit is set,
3 begun. -/
structure StreamCmd where
  /-- the name its circuit lanes and reports know it by -/
  id : Nat := 0
  base : Word := 0
  ext : List Nat := []
  strides : List Int := []
  fmt : Nat := 0
  consumes : Bool := false
  peer : Nat := 0
  phase : Nat := 0
  order : Nat := 0
  part : Nat := 0
  lid : Nat := 0
  by_ : Tid := default
  /-- bytes of its range that have moved -/
  moved : Nat := 0
  /-- the order number of the port's latest SBAR when it was started: it follows every command before that (R249) -/
  bar : Nat := 0
  /-- a not-present report holds it (R333) -/
  held : Bool := false
  /-- the burst of a producing command that is under way -/
  burst : Option BurstRun := none
  deriving DecidableEq, Repr, Inhabited

/-- A stream port: 8 command slots and the order number of its latest SBAR (R249). -/
structure StreamPort where
  slots : Tbl Nat StreamCmd := []
  bar : Nat := 0
  order : Nat := 1
  deriving DecidableEq, Repr, Inhabited

/-! ### Fabric -/

/-- A packet (R363): its header flit, its operation, and its place. -/
inductive PktBody where
  | token
  | chunkWrite (tile : TileId) (chunk : Nat) (bursts : List Burst)
  | readResponse (req : Nat) (data : List Byte) (bad denied : Bool)
  /-- a record's bytes from chunk `chunk` on (R364), the record's size as rlog, the format of the row or tile -/
  | channelWrite (die idx ordinal rlog chunk fmt : Nat) (data : List Byte)
  | reduce (group : Nat) (c : Contrib)
  | hbmRead (r : Req)
  | hbmWrite (r : Req)
  | hbmAtomic (r : Req)
  /-- an end-to-end acknowledgement, or a nack, on vc 3 (R369, R370) -/
  | answer (seq : Nat) (nack : Bool)
  deriving DecidableEq, Repr, Inhabited

/-- An inter-package packet on its way (R363 to R371). -/
structure Pkt where
  hdr : Token := default
  body : PktBody := .token
  /-- source strait engine, and the engine it waits in or is arriving at -/
  src : Eng := default
  at_ : Eng := default
  /-- on the link that ends at at_; otherwise it waits in at_ -/
  link : Bool := false
  /-- flits that the link's receiving port has accepted (R362) -/
  flits : Nat := 0
  id : Nat := 0
  /-- a QUOTA report of the channel write that it carries holds it (R333) -/
  held : Bool := false
  deriving DecidableEq, Repr, Inhabited

/-- A packet kept in a retry buffer (R369). -/
structure Retry where
  pkt : Pkt := default
  sent : Nat := 0
  resends : Nat := 0
  deriving DecidableEq, Repr, Inhabited

/-- A routing table entry (R366): four sets of egress port and path number. -/
structure Route where
  src : Nat := 0
  dst : Nat := 0
  set0 : Nat × Nat := (0, 0)
  set1 : Nat × Nat := (0, 0)
  set2 : Nat × Nat := (0, 0)
  set3 : Nat × Nat := (0, 0)
  deriving DecidableEq, Repr, Inhabited

/-- A terminal engine's record of one pair (R371): next expected seq, accepted packets not yet passed on. -/
structure Terminal where
  e : Nat := 0
  win : List Pkt := []
  deriving DecidableEq, Repr, Inhabited

/-- An external strait engine (R366 to R371). -/
structure Strait where
  milestone : Nat := 0
  table : List Route := []
  newTable : List Route := []
  /-- tables have been installed that no milestone change has met yet (R368) -/
  fresh : Bool := false
  retry : List Retry := []
  /-- packets that their producers hold while the retry buffer is full (R369) -/
  waiting : List Pkt := []
  nextSeq : Tbl Nat Nat := []
  term : Tbl (Eng × Nat) Terminal := []
  dead : Bool := false
  resends : Nat := 0
  notified : Bool := false
  exhausted : Bool := false
  deriving DecidableEq, Repr, Inhabited

/-- An end-to-end acknowledgement or nack on vc 3 (R369, R370). -/
structure Answer where
  dest : Eng := default
  dpkg : Nat := 0
  seq : Nat := 0
  deriving DecidableEq, Repr, Inhabited

/-! ### Threads -/

/-- A load, or the read of an atomic, outstanding (R227). -/
structure Load where
  id : Nat := 0
  rd : RegNo := 0
  va : Word := 0
  size : Nat := 8
  sext : Bool := false
  squashed : Bool := false
  /-- performed before later accesses of an .acq atomic may be (R230) -/
  acq : Bool := false
  level : Nat := 0
  deriving DecidableEq, Repr, Inhabited

/-- A deferred error of a load, a store or an atomic (R227, R351): the register it would have written, if any, its
effective address, the containment level at its issue, and its cause. -/
structure DefErr where
  rd : Option RegNo := none
  va : Word := 0
  level : Nat := 0
  cause : Nat := 0x000A
  deriving DecidableEq, Repr, Inhabited

/-- A store or atomic not yet acknowledged (R227, R231). -/
structure StoreOut where
  id : Nat := 0
  va : Word := 0
  size : Nat := 8
  atomic : Bool := false
  deriving DecidableEq, Repr, Inhabited

/-- An injection descriptor (R242). -/
structure InjDesc where
  tag : Word := 0
  lid : Nat := 0
  graph : Nat := 0
  replace : Bool := false
  cl : Bool := false
  op : Nat := 0
  value : Word := 0
  bad : Bool := false
  deriving DecidableEq, Repr, Inhabited

/-- An effect held at a containment level (R259). -/
inductive HeldEffect where
  | chwr (pkg die idx : Nat) (data : List Byte)
  | inject (d : InjDesc)
  | twset (due : Word) (d : Option InjDesc) (handle : Nat)
  deriving DecidableEq, Repr, Inhabited

/-- An open containment level of a thread (R259). -/
structure Level where
  handler : Word := 0
  ret : Word := 0
  held : List HeldEffect := []
  deriving DecidableEq, Repr, Inhabited

/-- What an async device instruction still waits for (R235). -/
inductive AsyncWait where
  | ready (res : Word)
  | launch (q slot : Nat)
  | kill (lid cancelled : Nat)
  | purge (lid : Nat) (k : ColKey)
  | freeze (graph : Nat)
  | inject (id : Nat) (lid : Nat)
  deriving DecidableEq, Repr, Inhabited

/-- An async device instruction outstanding. -/
structure Async where
  rd : RegNo := 0
  wait : AsyncWait := .ready 0
  squashed : Bool := false
  deriving DecidableEq, Repr, Inhabited

/-- Work that a report pins until the ERET of its trap (R333). -/
inductive Held where
  | none
  | act (e : Eng) (slot vrow : Nat)
  | token (e : Eng) (t : Token)
  | request (id : Nat)
  | xlate (e : Eng) (a : Act)
  | report (pkg die n : Nat)
  deriving DecidableEq, Repr, Inhabited

/-- An asynchronous report (R263, R330 to R332). -/
structure Report where
  dest : Tid := default
  cause : Nat := 0
  tval : Word := 0
  tinfo : Word := 0
  tcoord : Nat := 0
  lid : Nat := 0
  held : Held := .none
  src : Eng := default
  /-- tinfo holds a tag, or the key of a containment cause (R331); else flags or a queue slot (R251, R329) -/
  tagged : Bool := true
  deriving DecidableEq, Repr, Inhabited

/-- A control core thread (R38, R232, R263, R266, R267, R436). -/
structure Thread where
  s : Vector Word 32 := Vector.replicate 32 0
  pc : Word := 0
  sb : BitVec 32 := 0
  lsq : Bool := false
  ht : Bool := false
  ae : Bool := false
  cause : Word := 0
  epc : Word := 0
  tval : Word := 0
  tinfo : Word := 0
  tcoord : Word := 0
  tvec : Word := 0
  hnote : Word := 0
  lid : Word := 0
  agid : Nat := 0
  part : Nat := 0
  ibase : Word := 0
  event : Bool := false
  halted : Bool := true
  stopped : Bool := false
  hard : Bool := false
  /-- a normal stop waits for outstanding results (R347) -/
  stopping : Bool := false
  wait : Option Instr := none
  /-- the tile of the CPYWAIT that waits has become FREE (R253) -/
  gone : Bool := false
  loads : List Load := []
  stores : List StoreOut := []
  /-- deferred errors (R227, R259) -/
  errs : List DefErr := []
  asyncs : List Async := []
  pend : List Report := []
  held : Held := .none
  /-- the launch of the report whose trap is in its handler: kept beside cc_lid, which software may write -/
  heldLid : Nat := 0
  levels : List Level := []
  ahead : Tbl Nat IWord := []
  /-- the words fetched ahead that the instruction cache can no longer correct (R221) -/
  spoilt : List Nat := []
  /-- the watch-filter check passed over after ERET (R333, R401): 0 none, 1 a fetch, 2 a data access; and which of them the
  latest watchpoint trap was for -/
  pass : Nat := 0
  watched : Nat := 0
  deriving DecidableEq, Repr, Inhabited

/-! ### Partitions, slots, time -/

/-- The pools of a partition on one die (R319, R335). -/
structure Pool where
  segBase : Nat := 0
  segs : Nat := 0
  segUsed : List Nat := []
  blocks : Nat := 0
  blocksUsed : Nat := 0
  deriving DecidableEq, Repr, Inhabited

/-- A partition on one package (R349, R354). -/
structure Partition where
  live : Bool := false
  ranges : List (Nat × Nat) := []
  root : Nat := 0
  vbase : Nat := 0
  vlimit : Nat := 0
  pools : Tbl Nat Pool := []
  l1Base : Nat := 0
  l1Size : Nat := 0
  /-- the L1 pool bytes in use: address and size -/
  l1Used : List (Nat × Nat) := []
  faultThr : Tbl Nat Nat := []
  windowUs : Nat := 20
  brk : Bool := false
  /-- FLR: 0 none, 1 draining; the drain report fields (R355) -/
  flr : Nat := 0
  drain : List Nat := [0, 0, 0, 0, 0]
  deriving DecidableEq, Repr, Inhabited

/-- An agent's quota (R261). -/
structure Quota where
  quota : Nat := 2 ^ 64 - 1
  usage : Nat := 0
  breaches : Nat := 0
  deriving DecidableEq, Repr, Inhabited

/-- What the current slot of an engine is granted to (R359). -/
inductive Grant where
  | none
  | part (p : Nat)
  | scrub
  | trace
  | walk
  deriving DecidableEq, Repr, Inhabited

/-- An engine's slot table and grant (R357 to R359). -/
structure SlotTab where
  /-- entries that differ from 0x40 (open) -/
  tab : Tbl Nat Nat := []
  pending : Option (Tbl Nat Nat) := none
  pendingFrame : Nat := 0
  grant : Grant := .none
  slot : Nat := 0
  last : Nat := 0
  deriving DecidableEq, Repr, Inhabited

/-- What a timer-wheel or far-list entry does (R288). -/
inductive TimerWhat where
  | twset (t : Tid) (d : Option InjDesc)
  | timer (e : Eng) (tok : Token)
  | trigger (e : Eng) (slot vrow : Nat)
  deriving DecidableEq, Repr, Inhabited

/-- An entry of the wheel or far list of a die (R288, R289). -/
structure TimerEnt where
  due : Nat := 0
  /-- the bucket boundary at which it fires (R288) -/
  bound : Nat := 0
  order : Nat := 0
  far : Bool := false
  handle : Option Nat := none
  fire : Bool := false
  what : TimerWhat := .twset default none
  deriving DecidableEq, Repr, Inhabited

/-- The timer wheel of a die: last boundary served, entries. -/
structure Wheel where
  boundary : Nat := 0
  ents : List TimerEnt := []
  /-- TWSET handles that have been given out since reset, the latest first (R258) -/
  used : List Nat := []
  deriving DecidableEq, Repr, Inhabited

/-- A DEADLOCK report kept by a QM (R340). -/
structure QmReport where
  entries : List (BitVec 512) := []
  more : Bool := false
  lid : Nat := 0
  deriving DecidableEq, Repr, Inhabited

/-- A translation kept in a TLB (R353): page size in bits, entry. -/
structure TlbEnt where
  eng : Eng := default
  part : Nat := 0
  vpage : Nat := 0
  bits : Nat := 13
  ent : Word := 0
  deriving DecidableEq, Repr, Inhabited

/-! ### Debug, host interface, package -/

/-- A partition's trace configuration on a die (R395). -/
structure TraceCfg where
  base : Nat := 0
  size : Nat := 0
  stopFull : Bool := false
  mask : Nat := 0
  wi : Nat := 0
  lost : Nat := 0
  seq : Nat := 0
  staged : List (BitVec 256) := []
  deriving DecidableEq, Repr, Inhabited

/-- A watch filter (R400). -/
structure Watch where
  bits : BitVec 4096 := 0
  ctl : Word := 0
  deriving DecidableEq, Repr, Inhabited

/-- A command record taken from a ring (R405). -/
structure Cmd where
  op : Nat := 0
  zero : Nat := 0
  cookie : Nat := 0
  args : List Byte := []
  done : Word := 0
  buf : Word := 0
  slot : Nat := 0
  deriving DecidableEq, Repr, Inhabited

/-- A PCIe function (R403 to R406). -/
structure Fn where
  zring : Word := 0
  zringNext : Option Word := none
  zvec : Word := 0
  bell : Bool := false
  cmds : List Cmd := []
  vectors : List Nat := []
  /-- the answer to the last BAR2 read; none for Unsupported Request (R404) -/
  answer : Option (List Byte) := none
  deriving DecidableEq, Repr, Inhabited

/-- A package's firmware, power and domain state (R368, R385 to R387, R404, R410, R414). -/
structure Package where
  time : Nat := 0
  fwReady : Bool := true
  pkgFault : Bool := false
  throttle : Bool := false
  /-- fabric clock in percent of nominal -/
  clock : Nat := 100
  limit : Nat := 3400
  off : Bool := false
  faultLine : Bool := false
  /-- measured power in W, hottest die in degrees, input in V: set by the world -/
  powerW : Nat := 0
  tempC : Nat := 25
  inputV : Nat := 54
  staged : Option (List Byte) := none
  patch : Option (List Byte) := none
  threshold : Nat := 32
  windowMs : Nat := 1000
  mtPassMs : Nat := 1
  hbmPassMin : Nat := 480
  routeDom : Option Nat := none
  lsDom : Option Nat := none
  milestone : Nat := 0
  exhausted : Bool := false
  stepping : Nat := 1
  /-- the answer at the management port to the board controller's last request: its result word and its data (R414) -/
  board : Option (Word × List Byte) := none
  deriving DecidableEq, Repr, Inhabited

/-- An object held under SEC-DED in which the physical world makes an error that cannot be corrected (R389). -/
inductive Coded where
  | opWord (e : Eng) (slot : Nat)
  | row (e : Eng) (vrow : Nat)
  | colour (k : ColKey)
  | tile (id : TileId)
  | chan (pkg die idx : Nat)
  | slotTab (e : Eng)
  /-- a page that the next GLOAD or RESTC writes -/
  | page (pkg die page : Nat)
  deriving DecidableEq, Repr, Inhabited

/-- Whose turn it is: a thread issues, a device step happens, or the physical world acts. -/
inductive Turn where
  | issue (t : Tid)
  | event (i : Instr)
  | fetchAhead (t : Tid) (va : Nat)
  | bitError (addr : Nat) (l0 : Bool) (e : Ecc)
  | arithError (e : Eng) (d : Int)
  | dataError (e : Eng) (bit : Nat)
  | cacheError (t : Tid) (va : Nat)
  | hostWrite (addr : Nat) (b : Byte)
  | world (pkg powerW tempC inputV : Nat)
  | cable (a b : Eng)
  | ackPages (b : BankId)
  | codeError (o : Coded)
  /-- the board controller asks over MCTP: the operation, and the bytes 8 to 39 of a command record (R414) -/
  | board (pkg op : Nat) (args : List Byte)
  deriving DecidableEq, Repr, Inhabited

/-- The state of the machine. -/
structure State where
  threads : Tbl Tid Thread := []
  /-- the thread that a die's control core tries first (R220) -/
  coreNext : Tbl (Nat × Nat) Nat := []
  engines : Tbl Eng Engine := []
  inFlight : List Token := []
  updates : List LiveUpdate := []
  allocWait : List AllocWait := []
  graphs : Tbl (Nat × Nat) Graph := []
  launches : Tbl (Nat × Nat) Launch := []
  launchQs : Tbl (Nat × Nat) LaunchQ := []
  /-- the break-enable bit of each LID of a package (R393) -/
  breaks : Tbl (Nat × Nat) Bool := []
  sources : List SourceFire := []
  tiles : Tbl TileId Tile := []
  chunkWrites : List ChunkWrite := []
  retires : List Retire := []
  memTiles : Tbl Eng MemTile := []
  chans : Tbl (Nat × Nat × Nat) Chan := []
  bars : Tbl (Nat × Nat × Nat) Barrier := []
  hbm : Memory := []
  l0 : Memory := []
  hostMem : Memory := []
  ecc : Tbl Nat Ecc := []
  eccL0 : Tbl Nat Ecc := []
  bankModes : Tbl BankId BankMode := []
  reqs : List Req := []
  watchHolds : List WatchHold := []
  walks : List Walk := []
  ranges : List RangeEnt := []
  xfers : List Xfer := []
  copies : List CopyJob := []
  copyQs : Tbl (Nat × Nat × Nat) CopyQ := []
  vtiles : Tbl Eng VTile := []
  islands : Tbl Eng Island := []
  groups : Tbl (Nat × Nat) RGroup := []
  xunits : List XUnit := []
  streams : Tbl (Eng × Nat) StreamPort := []
  lanes : Tbl (Nat × Nat × Nat × Nat) Nat := []
  packets : List Pkt := []
  inbox : List Pkt := []
  straits : Tbl Eng Strait := []
  acks : List Answer := []
  nacks : List Answer := []
  cables : List (Eng × Eng) := []
  /-- the strait engine (its index) through which the packets of an element for a package leave, kept from the first (R372) -/
  exits : Tbl (Eng × Nat) Nat := []
  /-- pages whose next write of a set's state fails (R389) -/
  badPages : List (Nat × Nat × Nat) := []
  partitions : Tbl (Nat × Nat) Partition := []
  pageOwner : Tbl (Nat × Nat × Nat) Nat := []
  pageOn : Tbl (Nat × Nat × Nat) Bool := []
  barRuns : List (Nat × Nat × Nat × Nat × Nat) := []
  quotas : Tbl (Nat × Nat × Nat) Quota := []
  slotTabs : Tbl Eng SlotTab := []
  wheels : Tbl (Nat × Nat) Wheel := []
  reports : List Report := []
  qmReports : Tbl (Nat × Nat × Nat) QmReport := []
  tlb : List TlbEnt := []
  stops : Tbl (Nat × Nat) (BitVec 256) := []
  traces : Tbl (Nat × Nat × Nat) TraceCfg := []
  watches : Tbl Eng Watch := []
  fns : Tbl (Nat × Nat) Fn := []
  packages : Tbl Nat Package := []
  /-- the model's own fields: log 1, 7, 8 -/
  agenda : List Turn := []
  tick : Nat := 0
  cur : Tid := ⟨0, 0, 0⟩
  freeCount : Nat := 0
  nextId : Nat := 1
  deriving DecidableEq, Repr, Inhabited

/-- The machine right after a cold reset (R413): partition 0 exists and owns every page, range, thread and barrier,
every slot is open, every page is free and power-gated, every thread is halted, HBM is zero, device time is 0.
Every table is empty, so every entry holds its reset value. -/
def State.reset : State := {}

/-- Why the machine stops. -/
inductive Fault where
  /-- Raised by step when the module of the thread or object concerned has stopped every clock (R414: "the module
  stops every clock and asserts its fault line, and all device state is lost"). Safe: nothing can happen there until a
  cold reset. -/
  | clocksStopped
  deriving DecidableEq, Repr

/-- Why a step has no meaning. -/
inductive Refusal where
  /-- The instruction has no meaning in the model yet, by its mnemonic. Safe: nothing can be proved of its effect. -/
  | notModelled (mnemonic : String)
  deriving DecidableEq, Repr

end Sys2Proof.Machine
end

