-- ==== Sys2Proof/Config.lean ====
section
/-!
DEFINITION. Config.lean: what an implementation fixes and the values the spec leaves free (log 1, log 7).
Each is an opaque constant with no body: a claim about the machine is true whatever it is.
-/
namespace Sys2Proof.Config

open Sys2Proof.Machine

/-- Whose turn comes next when no turn is on the agenda: agents run concurrently and the spec fixes no order among
them (R270). -/
opaque schedule : Nat → Turn

/-- A word that the spec leaves open, by a counter of State. -/
opaque freeWord : Nat → Word

/-- A byte that the spec leaves open, by a counter of State. -/
opaque freeByte : Nat → Byte

/-- The choice between allowed alternatives, by a counter of State (R270). -/
opaque freeNat : Nat → Nat

/-- The bank of a stack that backs a local HBM address; the spec gives banks a code, not an address map (R385). -/
opaque hbmBank : Nat → Nat

/-- The local 8 KiB pages that the highest eighth of an HBM bank's rows backs, by package, stack and bank; the spec gives no
address map of the rows (R386). -/
opaque lostPages : Nat → Nat → Nat → List Nat

/-- The addend of a product of two l6 elements under block scales when it is no integer of LACC, or a scale is 0xFF: codes
and scales. The spec gives LACC's addend without scales (R61). -/
opaque l6Scaled : Nat → Nat → Nat → Nat → Int

/-- The 64-bit serial of a package, its Falcon-1024 identity public key of 1,793 bytes, and the vendor's certificate over that
key (R411). -/
opaque serial : Nat → Word
opaque publicKey : Nat → Vector Byte 1793
opaque certificate : Nat → List Byte

/-- The layout of the identity block, which the spec does not give: part number, stepping, serial, key, certificate (R411). -/
opaque identityLayout : List Byte → Nat → Word → Vector Byte 1793 → List Byte → List Byte

/-- The ROM's 64-byte SHAKE256 digest of a package (R412). -/
opaque romDigest : Nat → Vector Byte 64

/-- The version of a patch image; of the ROM firmware alone when there is none (R410, R412). -/
opaque patchVersion : Option (List Byte) → Nat

/-- The stepping, serial and patch version as a report holds them, whose widths the spec does not give (R412). -/
opaque attestHead : Nat → Word → Nat → List Byte

/-- The Falcon-1024 signature of a package over a message; a report carries at most 1,280 bytes of it (R412). -/
opaque sign : Nat → List Byte → List Byte

/-- Whether a staged patch image passes its signature and version check (R410). -/
opaque patchValid : Nat → List Byte → Bool

/-- The reading of a ROUTES buffer of a given count, whose layout the spec does not give (R366, R408): die and strait
engine of each entry. -/
opaque readRoutes : List Byte → Nat → Option (List (Nat × Nat × Route))

/-- The bytes of a command's buffer whose layout the spec does not give, by op or DBGSET object, and count (R408). -/
opaque bufSize : Nat → Nat → Nat

/-- The trace configuration of a DBGSET buffer, whose layout the spec does not give (R395): base, size, stop when full,
class mask. -/
opaque readTrace : List Byte → Option (Nat × Nat × Bool × Nat)

/-- The watch filter of a DBGSET buffer, whose layout the spec does not give (R400). -/
opaque readWatch : List Byte → Option Watch

/-- Whether the inner straits of a package train at a cold reset: the physical world decides (R413). -/
opaque straitsTrain : Nat → Bool

/-- The tree links that a RGROUP buffer binds, whose layout the spec does not give (R408). -/
opaque readLinks : List Byte → List Byte

/-- The edge switch that a die-edge engine attaches to, by element and page code, as its place among the 12 edge switches;
the spec says only that they attach to edge switches (R360). -/
opaque edgeSwitch : Nat → Nat → Nat

/-- The link CRC of a flit, whose width and polynomial the spec does not give (R362). -/
opaque linkCrc : BitVec 512 → BitVec 32

/-- The layout of a readback class for which the spec gives content and no bit positions (R402): class, and the
content as numbers. -/
opaque readLayout : Nat → List Nat → List Byte

end Sys2Proof.Config
end

