-- ==== Sys2Proof/Machine/Table.lean ====
section
/-!
DEFINITION. Machine/Table.lean: sparse tables, memories in canonical form, and little-endian bytes (R4, R88).
-/
namespace Sys2Proof.Machine

/-! ### Sparse tables -/

/-- The entry of a key, if it is listed. -/
def tfind {κ α : Type} [DecidableEq κ] (k : κ) : Tbl κ α → Option α
  | [] => none
  | (k', v) :: t => if k' = k then some v else tfind k t

/-- The entry of a key, or the reset entry. -/
def tget {κ α : Type} [DecidableEq κ] (d : α) (k : κ) (t : Tbl κ α) : α := (tfind k t).getD d

/-- Write the entry of a key. -/
def tset {κ α : Type} [DecidableEq κ] (k : κ) (v : α) : Tbl κ α → Tbl κ α
  | [] => [(k, v)]
  | (k', v') :: t => if k' = k then (k, v) :: t else (k', v') :: tset k v t

/-- Put a key back to its reset entry. -/
def tdel {κ α : Type} [DecidableEq κ] (k : κ) (t : Tbl κ α) : Tbl κ α := t.filter fun e => e.1 != k

/-- Change the entry of a key. -/
def tmod {κ α : Type} [DecidableEq κ] (d : α) (k : κ) (f : α → α) (t : Tbl κ α) : Tbl κ α :=
  tset k (f (tget d k t)) t

/-- Change every listed entry. -/
def tmap {κ α : Type} (f : κ → α → α) (t : Tbl κ α) : Tbl κ α := t.map fun e => (e.1, f e.1 e.2)

/-- Change one element of a list. -/
def lmod {α : Type} (n : Nat) (f : α → α) (l : List α) : List α := l.modify n f

/-- The least natural number below n that p accepts. -/
def leastBelow (n : Nat) (p : Nat → Bool) : Option Nat := (List.range n).find? p

/-- Sum of a list. -/
def lsum (l : List Nat) : Nat := l.foldl (· + ·) 0

/-- Put x before the first element that it does not come after. -/
def putIn {α : Type} (le : α → α → Bool) (x : α) : List α → List α
  | [] => [x]
  | y :: l => if le x y then x :: y :: l else y :: putIn le x l

/-- A list in the order of le; equal elements keep their order. -/
def sortBy {α : Type} (le : α → α → Bool) (l : List α) : List α := l.foldr (putIn le) []

/-- Lexicographic order of number lists of one length. -/
def lexLt : List Nat → List Nat → Bool
  | a :: as, b :: bs => decide (a < b) || (decide (a = b) && lexLt as bs)
  | _, _ => false

/-! ### Memories -/

/-- The byte at an address; an unlisted address reads as 0 (log 6). -/
def memGet : Memory → Nat → Byte
  | [], _ => 0
  | (a, b) :: m, x => if x = a then b else memGet m x

/-- Write one byte, keeping the canonical form. -/
def memPut : Memory → Nat → Byte → Memory
  | [], x, v => if v = 0 then [] else [(x, v)]
  | (a, b) :: m, x, v =>
    if x < a then if v = 0 then (a, b) :: m else (x, v) :: (a, b) :: m
    else if x = a then if v = 0 then m else (x, v) :: m
    else (a, b) :: memPut m x v

/-- Write bytes at ascending addresses. -/
def memWrite (m : Memory) (x : Nat) : List Byte → Memory
  | [] => m
  | b :: bs => memWrite (memPut m x b) (x + 1) bs

/-- Read n bytes at ascending addresses. -/
def memRead (m : Memory) (x n : Nat) : List Byte := (List.range n).map fun k => memGet m (x + k)

/-- Every listed address is at least lo, addresses rise strictly, and no listed byte is what an unlisted one reads. -/
def memWfFrom : Nat → Memory → Bool
  | _, [] => true
  | lo, (a, b) :: m => decide (lo ≤ a) && b != 0 && memWfFrom (a + 1) m

/-- The canonical form of a memory. -/
def Memory.wf (m : Memory) : Bool := memWfFrom 0 m

/-! ### Bytes -/

/-- The number of a little-endian list of bytes. -/
def leNat : List Byte → Nat
  | [] => 0
  | b :: bs => b.toNat + 256 * leNat bs

/-- The low n bytes of a number, little-endian. -/
def leBytes : Nat → Nat → List Byte
  | 0, _ => []
  | n + 1, v => BitVec.ofNat 8 v :: leBytes n (v / 256)

/-- A 64-bit word of bytes. -/
def leWord (bs : List Byte) : Word := BitVec.ofNat 64 (leNat bs)

/-- Bytes k to k + n - 1 of a record. -/
def field (bs : List Byte) (k n : Nat) : Nat := leNat ((bs.drop k).take n)

/-- Bits hi to lo of a number. -/
def bits (v hi lo : Nat) : Nat := v / 2 ^ lo % 2 ^ (hi + 1 - lo)

/-- One bit of a number. -/
def bit (v k : Nat) : Bool := v / 2 ^ k % 2 = 1

/-- 1 for true, 0 for false. -/
def b2n (b : Bool) : Nat := if b then 1 else 0

/-- The two's complement value of the low w bits. -/
def sext (w v : Nat) : Int :=
  let u := v % 2 ^ w
  if 2 ^ (w - 1) ≤ u then (u : Int) - 2 ^ w else u

/-- The 64-bit word of an integer, modulo 2^64. -/
def wordOfInt (i : Int) : Word := BitVec.ofInt 64 i

/-- Signed value of a word. -/
def sgn (w : Word) : Int := w.toInt

/-- Ceiling of a quotient. -/
def cdiv (a b : Nat) : Nat := (a + b - 1) / b

end Sys2Proof.Machine
end

