-- ==== Sys2Proof/Machine/Access.lean ====
section
/-!
DEFINITION. Machine/Access.lean: one accessor and one update for every table of State; a key not listed holds its
reset entry.
-/
namespace Sys2Proof.Machine

/-- A control core thread (R38). -/
def getThr (s : State) (k : Tid) : Thread := tget {} k s.threads
/-- Write it. -/
def setThr (s : State) (k : Tid) (v : Thread) : State := { s with threads := tset k v s.threads }
/-- Change it. -/
def modThr (s : State) (k : Tid) (f : Thread → Thread) : State := setThr s k (f (getThr s k))

/-- An engine with a matching store (R23). -/
def getEng (s : State) (k : Eng) : Engine := tget {} k s.engines
/-- Write it. -/
def setEng (s : State) (k : Eng) (v : Engine) : State := { s with engines := tset k v s.engines }
/-- Change it. -/
def modEng (s : State) (k : Eng) (f : Engine → Engine) : State := setEng s k (f (getEng s k))

/-- A tile table entry (R31). -/
def getTile (s : State) (k : TileId) : Tile := tget {} k s.tiles
/-- Write it. -/
def setTile (s : State) (k : TileId) (v : Tile) : State := { s with tiles := tset k v s.tiles }
/-- Change it. -/
def modTile (s : State) (k : TileId) (f : Tile → Tile) : State := setTile s k (f (getTile s k))

/-- A memory tile's queues (R298). -/
def getMemTile (s : State) (k : Eng) : MemTile := tget {} k s.memTiles
/-- Write it. -/
def setMemTile (s : State) (k : Eng) (v : MemTile) : State := { s with memTiles := tset k v s.memTiles }
/-- Change it. -/
def modMemTile (s : State) (k : Eng) (f : MemTile → MemTile) : State := setMemTile s k (f (getMemTile s k))

/-- A channel table entry (R316): package, die, index. -/
def getChan (s : State) (k : Nat × Nat × Nat) : Chan := tget {} k s.chans
/-- Write it. -/
def setChan (s : State) (k : Nat × Nat × Nat) (v : Chan) : State := { s with chans := tset k v s.chans }
/-- Change it. -/
def modChan (s : State) (k : Nat × Nat × Nat) (f : Chan → Chan) : State := setChan s k (f (getChan s k))

/-- A barrier (R36): package, die, index. -/
def getBar (s : State) (k : Nat × Nat × Nat) : Barrier := tget {} k s.bars
/-- Write it. -/
def setBar (s : State) (k : Nat × Nat × Nat) (v : Barrier) : State := { s with bars := tset k v s.bars }
/-- Change it. -/
def modBar (s : State) (k : Nat × Nat × Nat) (f : Barrier → Barrier) : State := setBar s k (f (getBar s k))

/-- A launch queue (R275): package, queue. -/
def getLaunchQ (s : State) (k : Nat × Nat) : LaunchQ := tget {} k s.launchQs
/-- Write it. -/
def setLaunchQ (s : State) (k : Nat × Nat) (v : LaunchQ) : State := { s with launchQs := tset k v s.launchQs }
/-- Change it. -/
def modLaunchQ (s : State) (k : Nat × Nat) (f : LaunchQ → LaunchQ) : State := setLaunchQ s k (f (getLaunchQ s k))

/-- The break-enable bit of a LID (R393): package, LID. -/
def getBreak (s : State) (k : Nat × Nat) : Bool := tget false k s.breaks
/-- Write it. -/
def setBreak (s : State) (k : Nat × Nat) (v : Bool) : State := { s with breaks := tset k v s.breaks }

/-- A user copy queue (R250): package, die, queue. -/
def getCopyQ (s : State) (k : Nat × Nat × Nat) : CopyQ := tget {} k s.copyQs
/-- Write it. -/
def setCopyQ (s : State) (k : Nat × Nat × Nat) (v : CopyQ) : State := { s with copyQs := tset k v s.copyQs }
/-- Change it. -/
def modCopyQ (s : State) (k : Nat × Nat × Nat) (f : CopyQ → CopyQ) : State := setCopyQ s k (f (getCopyQ s k))

/-- A bank's mode record (R385). -/
def getMode (s : State) (k : BankId) : BankMode := tget {} k s.bankModes
/-- Write it. -/
def setMode (s : State) (k : BankId) (v : BankMode) : State := { s with bankModes := tset k v s.bankModes }
/-- Change it. -/
def modMode (s : State) (k : BankId) (f : BankMode → BankMode) : State := setMode s k (f (getMode s k))

/-- A vector tile (R39). -/
def getVTile (s : State) (k : Eng) : VTile := tget {} k s.vtiles
/-- Write it. -/
def setVTile (s : State) (k : Eng) (v : VTile) : State := { s with vtiles := tset k v s.vtiles }
/-- Change it. -/
def modVTile (s : State) (k : Eng) (f : VTile → VTile) : State := setVTile s k (f (getVTile s k))

/-- An island (R148). -/
def getIsland (s : State) (k : Eng) : Island := tget {} k s.islands
/-- Write it. -/
def setIsland (s : State) (k : Eng) (v : Island) : State := { s with islands := tset k v s.islands }
/-- Change it. -/
def modIsland (s : State) (k : Eng) (f : Island → Island) : State := setIsland s k (f (getIsland s k))

/-- A REDUCE group (R178): package, group. -/
def getGroup (s : State) (k : Nat × Nat) : RGroup := tget {} k s.groups
/-- Write it. -/
def setGroup (s : State) (k : Nat × Nat) (v : RGroup) : State := { s with groups := tset k v s.groups }
/-- Change it. -/
def modGroup (s : State) (k : Nat × Nat) (f : RGroup → RGroup) : State := setGroup s k (f (getGroup s k))

/-- A stream port (R249). -/
def getPort (s : State) (k : Eng × Nat) : StreamPort := tget {} k s.streams
/-- Write it. -/
def setPort (s : State) (k : Eng × Nat) (v : StreamPort) : State := { s with streams := tset k v s.streams }
/-- Change it. -/
def modPort (s : State) (k : Eng × Nat) (f : StreamPort → StreamPort) : State := setPort s k (f (getPort s k))

/-- An external strait engine (R366). -/
def getStrait (s : State) (k : Eng) : Strait := tget {} k s.straits
/-- Write it. -/
def setStrait (s : State) (k : Eng) (v : Strait) : State := { s with straits := tset k v s.straits }
/-- Change it. -/
def modStrait (s : State) (k : Eng) (f : Strait → Strait) : State := setStrait s k (f (getStrait s k))

/-- An agent's quota (R261): package, partition, agent. -/
def getQuota (s : State) (k : Nat × Nat × Nat) : Quota := tget {} k s.quotas
/-- Write it. -/
def setQuota (s : State) (k : Nat × Nat × Nat) (v : Quota) : State := { s with quotas := tset k v s.quotas }
/-- Change it. -/
def modQuota (s : State) (k : Nat × Nat × Nat) (f : Quota → Quota) : State := setQuota s k (f (getQuota s k))

/-- A slot table (R357). -/
def getSlotTab (s : State) (k : Eng) : SlotTab := tget {} k s.slotTabs
/-- Write it. -/
def setSlotTab (s : State) (k : Eng) (v : SlotTab) : State := { s with slotTabs := tset k v s.slotTabs }
/-- Change it. -/
def modSlotTab (s : State) (k : Eng) (f : SlotTab → SlotTab) : State := setSlotTab s k (f (getSlotTab s k))

/-- A die's timer wheel (R288). -/
def getWheel (s : State) (k : Nat × Nat) : Wheel := tget {} k s.wheels
/-- Write it. -/
def setWheel (s : State) (k : Nat × Nat) (v : Wheel) : State := { s with wheels := tset k v s.wheels }
/-- Change it. -/
def modWheel (s : State) (k : Nat × Nat) (f : Wheel → Wheel) : State := setWheel s k (f (getWheel s k))

/-- A stop entry (R390): package, entry. -/
def getStop (s : State) (k : Nat × Nat) : BitVec 256 := tget 0 k s.stops
/-- Write it. -/
def setStop (s : State) (k : Nat × Nat) (v : BitVec 256) : State := { s with stops := tset k v s.stops }
/-- Change it. -/
def modStop (s : State) (k : Nat × Nat) (f : BitVec 256 → BitVec 256) : State := setStop s k (f (getStop s k))

/-- A trace configuration (R395): package, die, partition. -/
def getTraceCfg (s : State) (k : Nat × Nat × Nat) : TraceCfg := tget {} k s.traces
/-- Write it. -/
def setTraceCfg (s : State) (k : Nat × Nat × Nat) (v : TraceCfg) : State := { s with traces := tset k v s.traces }
/-- Change it. -/
def modTraceCfg (s : State) (k : Nat × Nat × Nat) (f : TraceCfg → TraceCfg) : State := setTraceCfg s k (f (getTraceCfg s k))

/-- A watch filter (R400). -/
def getWatch (s : State) (k : Eng) : Watch := tget {} k s.watches
/-- Write it. -/
def setWatch (s : State) (k : Eng) (v : Watch) : State := { s with watches := tset k v s.watches }
/-- Change it. -/
def modWatch (s : State) (k : Eng) (f : Watch → Watch) : State := setWatch s k (f (getWatch s k))

/-- A PCIe function (R404): package, function. -/
def getFn (s : State) (k : Nat × Nat) : Fn := tget {} k s.fns
/-- Write it. -/
def setFn (s : State) (k : Nat × Nat) (v : Fn) : State := { s with fns := tset k v s.fns }
/-- Change it. -/
def modFn (s : State) (k : Nat × Nat) (f : Fn → Fn) : State := setFn s k (f (getFn s k))

/-- A package (R413). -/
def getPkg (s : State) (k : Nat) : Package := tget {} k s.packages
/-- Write it. -/
def setPkg (s : State) (k : Nat) (v : Package) : State := { s with packages := tset k v s.packages }
/-- Change it. -/
def modPkg (s : State) (k : Nat) (f : Package → Package) : State := setPkg s k (f (getPkg s k))

/-- Bytes of HBM of a package (R374): 12 stacks of 64 GiB. -/
def hbmSize : Nat := 768 * 2 ^ 30

/-- A partition on a package (R354). Partition 0 exists from reset and owns every HBM range (R413). -/
def getPart (s : State) (k : Nat × Nat) : Partition :=
  tget (if k.2 = 0 then { live := true, ranges := [(0, hbmSize)] } else {}) k s.partitions
/-- Write it. -/
def setPart (s : State) (k : Nat × Nat) (v : Partition) : State := { s with partitions := tset k v s.partitions }
/-- Change it. -/
def modPart (s : State) (k : Nat × Nat) (f : Partition → Partition) : State := setPart s k (f (getPart s k))

/-- A loaded graph (R238): package, handle. -/
def getGraph (s : State) (k : Nat × Nat) : Option Graph := tfind k s.graphs
/-- Write it. -/
def setGraph (s : State) (k : Nat × Nat) (g : Graph) : State := { s with graphs := tset k g s.graphs }
/-- Change it, if it is loaded. -/
def modGraph (s : State) (k : Nat × Nat) (f : Graph → Graph) : State :=
  match getGraph s k with
  | some g => setGraph s k (f g)
  | none => s

/-- A live launch (R278): package, LID. -/
def getLaunch (s : State) (k : Nat × Nat) : Option Launch := tfind k s.launches
/-- Write it. -/
def setLaunch (s : State) (k : Nat × Nat) (l : Launch) : State := { s with launches := tset k l s.launches }
/-- Change it, if it is live. -/
def modLaunch (s : State) (k : Nat × Nat) (f : Launch → Launch) : State :=
  match getLaunch s k with
  | some l => setLaunch s k (f l)
  | none => s

/-- The owner of a page (R354): partition 0 until PGRANT. -/
def pageOwnerOf (s : State) (pkg die page : Nat) : Nat := tget 0 (pkg, die, page) s.pageOwner

/-- The partition that owns a barrier index (R354): the latest grant that covers it, else partition 0. -/
def barOwner (s : State) (pkg die idx : Nat) : Nat :=
  match s.barRuns.find? fun r => r.1 = pkg ∧ r.2.1 = die ∧ r.2.2.1 ≤ idx ∧ idx < r.2.2.1 + r.2.2.2.1 with
  | some r => r.2.2.2.2
  | none => 0

/-- A name for a new request, firing or activation (log 8), and the state that has used it. -/
def fresh (s : State) : Nat × State := (s.nextId, { s with nextId := s.nextId + 1 })

/-- The next free word (log 7). -/
def freeStep (s : State) : State := { s with freeCount := s.freeCount + 1 }

end Sys2Proof.Machine
end

