-- ==== Sys2Proof/Machine/Ops.lean ====
section
/-!
DEFINITION. Machine/Ops.lean: the named operations over registers, memory and traps that the meanings share.
-/
namespace Sys2Proof.Machine

/-! ### Coordinates (R15, R90) -/

/-- A coordinate in the dst layout of R90. -/
def coordNat (c : Coord) : Nat :=
  c.eng.pkg * 2 ^ 19 + c.eng.die * 2 ^ 17 + c.eng.page * 2 ^ 13 + c.eng.elem * 2 ^ 8 + c.slot * 4 + c.pos

/-- The coordinate of a number in the dst layout. -/
def coordOf (v : Nat) : Coord :=
  { eng := ⟨bits v 37 19, bits v 18 17, bits v 16 13, bits v 12 8⟩, slot := bits v 7 2, pos := bits v 1 0 }

/-- The control core of a die (R15). -/
def ccEng (pkg die : Nat) : Eng := ⟨pkg, die, 0, 28⟩
/-- The copy engine of a die (R15). -/
def copyEng (pkg die : Nat) : Eng := ⟨pkg, die, 0, 27⟩
/-- The quiescence monitor of a die (R15). -/
def qmEng (pkg die : Nat) : Eng := ⟨pkg, die, 0, 29⟩

/-- Whether an engine's page field is inside its range (R15). -/
def engExists (e : Eng) : Bool :=
  if e.elem ≤ 21 then decide (e.page < 16)
  else match e.elem with
    | 24 => decide (e.page < 6)
    | 25 => decide (e.page < 8)
    | 26 => decide (e.page < 3)
    | 27 | 28 | 29 => e.page = 0
    | 30 => e.page = 0 && e.die = 0
    | _ => false

/-- An element of a page, not a die-edge engine (R15). -/
def onPage (e : Eng) : Bool := decide (e.elem ≤ 21)

/-! ### Global addresses (R374, R375) -/

/-- A global physical address. -/
def gpa (pkg loc : Nat) : Nat := pkg * 2 ^ 44 + loc
/-- Its package. -/
def gpaPkg (g : Nat) : Nat := g / 2 ^ 44
/-- Its local address. -/
def gpaLocal (g : Nat) : Nat := g % 2 ^ 44

/-- The HBM port engine that owns the sector of an address (R375). -/
def ownerOf (g : Nat) : Eng :=
  let l := gpaLocal g
  let st := l / 2 ^ 36
  ⟨gpaPkg g, st / 3, 2 * (st % 3) + l / 2 ^ 13 % 2, 24⟩

/-- The bank that holds an HBM address. -/
def hbmBankOf (g : Nat) : BankId := .hbm (gpaPkg g) (gpaLocal g / 2 ^ 36) (Config.hbmBank (gpaLocal g))

/-- The address of a scratchpad byte in the L0 memory: package, die, page, memory tile, bank, offset (R294). -/
def l0Addr (pkg die page mt bank off : Nat) : Nat :=
  ((((pkg * 4 + die) * 16 + page) * 8 + mt) * 16 + bank) * 65536 + off

/-- The bank of an address of the L0 memory. -/
def l0BankOf (a : Nat) : BankId :=
  let b := a / 65536
  .l0 (b / 16 / 8 / 16 / 4) (b / 16 / 8 / 16 % 4) (b / 16 / 8 % 16) (b / 16 % 8) (b % 16)

/-- The package of a bank. -/
def bankPkg : BankId → Nat
  | .l0 p _ _ _ _ => p
  | .hbm p _ _ => p

/-! ### Bank codes (R385) -/

/-- Add one saturating at 16 bits. -/
def sat16 (n : Nat) : Nat := Nat.min (n + 1) 65535

/-- A bank moves to pending (R386): the engine of an HBM bank lists the pages of its highest eighth, which firmware reports
to the host. -/
def toPending (b : BankId) (m : BankMode) : BankMode :=
  { m with mode := 1, acked := false,
           listed := match b with
             | .l0 _ _ _ _ _ => []
             | .hbm p k n => Config.lostPages p k n }

/-- A bank has corrected an error (R385, R386): both counts rise; at the threshold the bank becomes pending. -/
def bankCorrected (s : State) (b : BankId) : State :=
  let th := (getPkg s (bankPkg b)).threshold
  modMode s b fun m =>
    let w := sat16 m.wcount
    let m := { m with wcount := w, ccount := sat16 m.ccount }
    if m.mode = 0 ∧ th ≤ w then toPending b m else m

/-- A bank has found an uncorrectable word. -/
def bankUncorrected (s : State) (b : BankId) : State := modMode s b fun m => { m with ucount := sat16 m.ucount }

/-- The code state of a 64-bit word of HBM or of the L0 memory. -/
def eccOf (s : State) (l0 : Bool) (w : Nat) : Ecc := tget .sound w (if l0 then s.eccL0 else s.ecc)

/-- Set it. A sound word is not listed. -/
def setEcc (s : State) (l0 : Bool) (w : Nat) (e : Ecc) : State :=
  if l0 then { s with eccL0 := if e = .sound then tdel w s.eccL0 else tset w e s.eccL0 }
  else { s with ecc := if e = .sound then tdel w s.ecc else tset w e s.ecc }

/-- The bank of a word. -/
def wordBank (l0 : Bool) (w : Nat) : BankId := if l0 then l0BankOf (w * 8) else hbmBankOf (w * 8)

/-- A double-bit error is corrected under DEC-TED (R386). -/
def eccFix (s : State) (l0 : Bool) (w : Nat) : Bool :=
  match eccOf s l0 w with
  | .single => true
  | .double => (getMode s (wordBank l0 w)).mode = 2
  | _ => false

/-- The word cannot be corrected. -/
def eccBad (s : State) (l0 : Bool) (w : Nat) : Bool :=
  match eccOf s l0 w with
  | .double => !eccFix s l0 w
  | .triple | .poison => true
  | _ => false

/-- The counts of a read of one word (R385). -/
def eccRead (s : State) (l0 : Bool) (w : Nat) : State :=
  if eccFix s l0 w then bankCorrected s (wordBank l0 w)
  else if eccOf s l0 w = .double ∨ eccOf s l0 w = .triple then bankUncorrected s (wordBank l0 w)
  else s

/-- The code after a write to one word (R385): whole says that all eight bytes are written. -/
def eccWrite (s : State) (l0 whole : Bool) (w : Nat) : State :=
  if whole then setEcc s l0 w .sound
  else if eccBad s l0 w then setEcc (eccRead s l0 w) l0 w .poison
  else setEcc (eccRead s l0 w) l0 w .sound

/-- The words that the bytes x to x + n - 1 touch. -/
def wordsOf (x n : Nat) : List Nat :=
  if n = 0 then [] else (List.range ((x + n - 1) / 8 - x / 8 + 1)).map (· + x / 8)

/-- Bytes read from HBM, whether a word of them is uncorrectable, and the state with the banks' counts. -/
def readHbm (s : State) (g n : Nat) : List Byte × Bool × State :=
  (memRead s.hbm g n, (wordsOf g n).any (eccBad s false), (wordsOf g n).foldl (fun s w => eccRead s false w) s)

/-- Bytes written to HBM, and the words' codes (R385). -/
def writeHbm (s : State) (g : Nat) (bs : List Byte) : State :=
  let n := bs.length
  let s' := (wordsOf g n).foldl (fun s w => eccWrite s false (g ≤ w * 8 && w * 8 + 8 ≤ g + n) w) s
  { s' with hbm := memWrite s'.hbm g bs }

/-- Give every word of a range the poison code (R168, R387). -/
def poisonHbm (s : State) (g n : Nat) : State := (wordsOf g n).foldl (fun s w => setEcc s false w .poison) s

/-! ### Address translation (R348 to R353) -/

/-- What an access does (R351). -/
inductive Acc where
  | read | write | atomic | fetch
  deriving DecidableEq, Repr

/-- Who may reach host memory through a leaf of type 01 (R351). -/
inductive Agent where
  | cc | copy | op
  deriving DecidableEq, Repr

/-- Why a translation fails, or, for a miss, waits for a walk (R352). -/
inductive XFault where
  | notPresent | permission | illegal | miss
  deriving DecidableEq, Repr

/-- Where an access lands. -/
inductive Target where
  | hbm (g : Nat)
  | host (a : Nat)
  | fault (f : XFault)
  deriving DecidableEq, Repr

/-- A table entry that breaks R350 (a field marked reserved must be zero, R12), a leaf at level 3, or a table at level
0. -/
def pteBad (lvl e : Nat) : Bool :=
  bit e 63 || bits e 12 7 != 0 ||
  if bit e 1 then decide (lvl = 3) || bit e 6 || bits e (12 + 10 * lvl) 13 != 0
  else decide (lvl = 0) || bits e 6 2 != 0 || bits e 62 44 != 0

/-- The index of a virtual address in the table of a level (R349). -/
def vaIndex (va lvl : Nat) : Nat := if lvl = 3 then bits va 51 43 else bits va (22 + 10 * lvl) (13 + 10 * lvl)

/-- The walk from the table at local address t of a level (R351): a leaf with the size of its page in bits, or the
fault. The table entry is read from HBM of the executing package. -/
def walkFrom (s : State) (pkg va : Nat) : Nat → Nat → Except XFault (Nat × Nat)
  | lvl, t =>
    let a := t + vaIndex va lvl * 8
    if hbmSize ≤ a then .error .illegal
    else if (wordsOf (gpa pkg a) 8).any (eccBad s false) then .error .permission
    else
      let e := leNat (memRead s.hbm (gpa pkg a) 8)
      if !bit e 0 then .error .notPresent
      else if pteBad lvl e then .error .permission
      else if bit e 1 then .ok (e, 13 + 10 * lvl)
      else match lvl with
        | 0 => .error .permission
        | l + 1 => walkFrom s pkg va l (bits e 43 13 * 2 ^ 13)

/-- The engines with a TLB (R353): HBM ports, straits, copy engines, control cores. -/
def hasTlb (e : Eng) : Bool := decide (24 ≤ e.elem ∧ e.elem ≤ 28)

/-- A walk of a virtual page for a partition on an engine's die. -/
def walkFor (w : Walk) (e : Eng) (part vpage : Nat) : Bool :=
  decide (w.pkg = e.pkg) && decide (w.die = e.die) && decide (w.part = part) && decide (w.vpage = vpage)

/-- The fault that a walk has come to. -/
def walkFault (n : Nat) : XFault :=
  match n with
  | 1 => .notPresent
  | 2 => .permission
  | _ => .illegal

/-- A walk that an engine's access joined has come to a fault. -/
def walkFailed (e : Eng) (part va : Nat) (w : Walk) : Bool :=
  w.fault != 0 && walkFor w e part (va / 8192) && w.engs.contains e

/-- The leaf for a virtual page: the engine's TLB entry if it holds one (R353), else what a walk for it has come to, else a
miss (R352). The quiescence monitor's element, in whose name the scheduler and the service core read, has no TLB: its walk is
part of the access (log 130). -/
def leafOf (s : State) (e : Eng) (part va : Nat) : Except XFault (Nat × Nat) :=
  match s.tlb.find? fun t => t.eng = e ∧ t.part = part ∧ va / 2 ^ t.bits = t.vpage * 2 ^ 13 / 2 ^ t.bits with
  | some t => .ok (t.ent.toNat, t.bits)
  | none =>
    if hasTlb e then
      match s.walks.find? (walkFailed e part va) with
      | some w => .error (walkFault w.fault)
      | none => .error .miss
    else walkFrom s e.pkg va 3 (getPart s (e.pkg, part)).root

/-- An access whose translation misses joins the walk of its page in progress on its die, or asks for a walker (R352). -/
def noteMiss (s : State) (e : Eng) (part va : Nat) (tag : Word) (slot lid : Nat) : State :=
  let on := fun w : Walk => w.fault == 0 && walkFor w e part (va / 8192)
  if s.walks.any on then
    { s with walks := s.walks.map fun w => if on w && !w.engs.contains e then { w with engs := w.engs ++ [e] } else w }
  else
    { s with walks := s.walks ++ [{ pkg := e.pkg, die := e.die, engs := [e], part := part, vpage := va / 8192,
                                    table := (getPart s (e.pkg, part)).root, va := va, tag := tag, slot := slot, lid := lid }] }

/-- The access has met its walk's fault: a later access walks again. -/
def dropWalk (s : State) (e : Eng) (part va : Nat) : State :=
  { s with walks := s.walks.filter fun w => !walkFailed e part va w }

/-- The walks of a package that came to a fault are forgotten: what has been stored before is seen by the next (R353). -/
def forgetFaults (s : State) (pkg : Nat) : State :=
  { s with walks := s.walks.filter fun w => w.fault == 0 || decide (w.pkg ≠ pkg) }

/-- The leaf's permissions allow the access (R351). -/
def leafAllows (e : Nat) (acc : Acc) (ag : Agent) : Bool :=
  (match acc with
    | .read => bit e 2
    | .write => bit e 3
    | .atomic => bit e 2 && bit e 3
    | .fetch => bit e 4) &&
  (!bit e 5 || (ag != .op && acc != .atomic))

/-- Two packages share a load-store domain, or are one (R376). -/
def sameDomain (s : State) (p q : Nat) : Bool :=
  decide (p = q) ||
    match (getPkg s p).lsDom, (getPkg s q).lsDom with
    | some a, some b => decide (a = b)
    | _, _ => false

/-- The frame-backing pool of a die follows its segment pool (log 16). -/
def backingBase (q : Pool) : Nat := q.segBase + q.segs * 65536

/-- A local address inside one of the partition's pools on a package (R351, R296, R319, R335). -/
def inPools (p : Partition) (l : Nat) : Bool :=
  (decide (p.l1Base ≤ l) && decide (l < p.l1Base + p.l1Size)) ||
    p.pools.any fun q =>
      (decide (q.2.segBase ≤ l) && decide (l < backingBase q.2 + q.2.blocks * 1024))

/-- The owner's check of an address against the partition's ranges and pools on its package (R351). -/
def rangeOk (s : State) (part g : Nat) : Bool :=
  let p := getPart s (gpaPkg g, part)
  (p.ranges.any fun r => r.1 ≤ gpaLocal g ∧ gpaLocal g < r.1 + r.2) && !inPools p (gpaLocal g)

/-- The window check of R348. -/
def windowOk (s : State) (pkg part va : Nat) : Bool :=
  let p := getPart s (pkg, part)
  decide (va < 2 ^ 52) && decide (p.vbase ≤ va) && decide (va < p.vlimit)

/-- Translate one address for an engine, with every check of R348 to R351 and R374. -/
def translateOpen (s : State) (e : Eng) (part : Nat) (ag : Agent) (acc : Acc) (va : Nat) : Target :=
  if !windowOk s e.pkg part va then .fault .illegal
  else match leafOf s e part va with
    | .error f => .fault f
    | .ok (ent, sz) =>
      if !leafAllows ent acc ag then .fault .permission
      else
        let pa := bits ent 62 sz * 2 ^ sz + va % 2 ^ sz
        if bit ent 5 then .host pa
        else if !sameDomain s e.pkg (gpaPkg pa) then .fault .permission
        else if hbmSize ≤ gpaLocal pa then .fault (if acc = .atomic then .permission else .illegal)
        else if !rangeOk s part pa then .fault .permission
        else .hbm pa

/-- Translate one address for an engine. While function-level reset of its partition runs, every request is refused with
a permission fault (R355). -/
def translate (s : State) (e : Eng) (part : Nat) (ag : Agent) (acc : Acc) (va : Nat) : Target :=
  match translateOpen s e part ag acc va with
  | .fault .miss => if (getPart s (e.pkg, part)).flr = 0 then .fault .miss else .fault .permission
  | .fault f => .fault f
  | t => if (getPart s (e.pkg, part)).flr = 0 then t else .fault .permission

/-- The pieces of a virtual range by 8 KiB page: address and length. -/
def pagePieces (va len : Nat) : List (Nat × Nat) :=
  if len = 0 then []
  else (List.range ((va + len - 1) / 8192 - va / 8192 + 1)).map fun k =>
    let lo := Nat.max va ((va / 8192 + k) * 8192)
    (lo, Nat.min (va + len) ((va / 8192 + k + 1) * 8192) - lo)

/-- The first of n bytes from a global address that the owner's check refuses (R351). -/
def badByte (s : State) (part g n : Nat) : Option Nat :=
  if rangeOk s part g && rangeOk s part (g + n - 1) && !(getPart s (gpaPkg g, part)).pools.any (fun q =>
      decide (gpaLocal g < backingBase q.2 + q.2.blocks * 1024) && decide (q.2.segBase < gpaLocal g + n)) then none
  else (List.range n).find? fun k => !rangeOk s part (g + k)

/-- Translate a virtual range piece by piece; the first failure with its address. -/
def translateAll (s : State) (e : Eng) (part : Nat) (ag : Agent) (acc : Acc) :
    List (Nat × Nat) → Except (XFault × Nat) (List (Target × Nat))
  | [] => .ok []
  | (va, n) :: ps =>
    match translate s e part ag acc va with
    | .fault f => .error (f, va)
    | t =>
      match (match t with | .hbm g => badByte s part g n | _ => none) with
      | some k => .error (.permission, va + k)
      | none => match translateAll s e part ag acc ps with
      | .ok r => .ok ((t, n) :: r)
      | .error x => .error x

/-- Translate a virtual range. -/
def translateRange (s : State) (e : Eng) (part : Nat) (ag : Agent) (acc : Acc) (va len : Nat) :
    Except (XFault × Nat) (List (Target × Nat)) :=
  translateAll s e part ag acc (pagePieces va len)

/-- Read translated pieces: the bytes, whether a word is uncorrectable, the state. -/
def readPieces (s : State) : List (Target × Nat) → List Byte × Bool × State
  | [] => ([], false, s)
  | (.hbm g, n) :: ps =>
    let r := readHbm s g n
    let q := readPieces r.2.2 ps
    (r.1 ++ q.1, r.2.1 || q.2.1, q.2.2)
  | (.host a, n) :: ps =>
    let q := readPieces s ps
    (memRead s.hostMem a n ++ q.1, q.2.1, q.2.2)
  | (.fault _, _) :: ps => readPieces s ps

/-- Write bytes to translated pieces. -/
def writePieces (s : State) (bs : List Byte) : List (Target × Nat) → State
  | [] => s
  | (.hbm g, n) :: ps => writePieces (writeHbm s g (bs.take n)) (bs.drop n) ps
  | (.host a, n) :: ps => writePieces { s with hostMem := memWrite s.hostMem a (bs.take n) } (bs.drop n) ps
  | (.fault _, _) :: ps => writePieces s bs ps

/-! ### The deferred-error log (R169) -/

/-- A position of a deferred-error log is free: it has never been written, or has been written zero (R169). -/
def logFree (g : Engine) (k : Nat) : Bool := (tfind k g.log).all fun y => y.lid = 0 ∧ y.sector = 0

/-- Append an entry to an engine's deferred-error log, at the ring's next position when that is free, or count it lost
(R169). -/
def logError (s : State) (e : Eng) (x : LogEntry) : State :=
  let g := getEng s e
  if logFree g g.logPos then setEng s e { g with log := tset g.logPos x g.log, logPos := (g.logPos + 1) % 64 }
  else setEng s e { g with logLost := (g.logLost + 1) % 2 ^ 32 }

/-- The reads of a walk that is part of an access (log 130): an uncorrectable one appends an entry to the log of the engine that
owns the table entry's sector, with the virtual address being translated (R351, R385). -/
def noteWalk (s : State) (pkg part va : Nat) : Nat → Nat → State
  | lvl, t =>
    let a := t + vaIndex va lvl * 8
    if hbmSize ≤ a then s
    else
      let x := readHbm s (gpa pkg a) 8
      let e := leNat x.1
      if x.2.1 then logError x.2.2 (ownerOf (gpa pkg a)) { sector := va / 64 % 2 ^ 46, part := part }
      else if !bit e 0 || pteBad lvl e || bit e 1 then x.2.2
      else match lvl with
        | 0 => x.2.2
        | l + 1 => noteWalk x.2.2 pkg part va l (bits e 43 13 * 2 ^ 13)

/-- The walks of an access of the scheduler, the service core or the host, page by page as far as the first that faults. -/
def coreWalks (s : State) (pkg part : Nat) : List (Nat × Nat) → State
  | [] => s
  | p :: ps =>
    if !windowOk s pkg part p.1 then s
    else
      let t := noteWalk s pkg part p.1 3 (getPart s (pkg, part)).root
      match leafOf s (qmEng pkg 0) part p.1 with
      | .error _ => t
      | .ok _ => coreWalks t pkg part ps

/-- The walks of an access of the scheduler or the service core to n bytes, and its reads (R351, R385). -/
def coreReads (s : State) (pkg part va n : Nat) : State :=
  let s := coreWalks s pkg part (pagePieces va n)
  match translateRange s (qmEng pkg 0) part .op .read va n with
  | .ok ps => (readPieces s ps).2.2
  | .error _ => s

/-! ### Registers of a thread (R38, R218) -/

/-- Read an s register: s0 reads zero. -/
def readReg (th : Thread) (r : RegNo) : Word := if r = 0 then 0 else th.s.get r.toFin

/-- Write an s register: s0 ignores writes. -/
def writeReg (th : Thread) (r : RegNo) (v : Word) : Thread :=
  if r = 0 then th else { th with s := th.s.set r.toNat v r.isLt }

/-- The scoreboard bit of a register. -/
def sbBit (th : Thread) (r : RegNo) : Bool := th.sb.getLsbD r.toNat

/-- Set a scoreboard bit; s0 has none that matters. -/
def sbSet (th : Thread) (r : RegNo) : Thread :=
  if r = 0 then th else { th with sb := th.sb ||| BitVec.twoPow 32 r.toNat }

/-- Clear a scoreboard bit. -/
def sbClear (th : Thread) (r : RegNo) : Thread := { th with sb := th.sb &&& ~~~(BitVec.twoPow 32 r.toNat) }

/-- Continue at an address. The one watch-filter check passed over after ERET is used up (R333). -/
def goTo (th : Thread) (a : Word) : Thread := { th with pc := a, pass := 0 }

/-- Continue at the next word (R220). -/
def advance (th : Thread) : Thread := goTo th (th.pc + 4)

/-- The thread whose instruction exec runs. -/
def curThr (s : State) : Thread := getThr s s.cur
/-- Change it. -/
def modCur (s : State) (f : Thread → Thread) : State := modThr s s.cur f

/-- A register of the current thread. -/
def rs (s : State) (r : RegNo) : Word := readReg (curThr s) r

/-- The common end of an instruction: write rd and continue at the next word. -/
def finish (s : State) (rd : RegNo) (v : Word) : State := modCur s fun th => advance (writeReg th rd v)

/-! ### Taking a trap (R263, R331) and returning (R264) -/

/-- What a trap writes, besides cc_epc. -/
structure TrapInfo where
  cause : Nat
  async : Bool := false
  tval : Word := 0
  tinfo : Word := 0
  tcoord : Nat := 0
  lid : Nat := 0
  held : Held := .none
  tagged : Bool := true

/-- A trap holds work that its ERET evaluates again (R266, R333); a DEADLOCK report is only freed (R340). -/
def holdsWork (h : Held) : Bool :=
  match h with
  | .none | .report _ _ _ => false
  | _ => true

/-- The value of cc_cause at trap entry (R266). -/
def causeWord (tr : TrapInfo) (ae : Bool) : Word :=
  BitVec.ofNat 64 (tr.cause + 2 ^ 16 * b2n tr.async + 2 ^ 17 * b2n (holdsWork tr.held) + 2 ^ 18 * b2n ae)

/-- Trap entry of a thread (R263, R331), the one operation that takes every trap: cc_epc, cc_tval, cc_tinfo,
cc_tcoord, cc_lid and cc_cause are written, ae := 0, ht := 1, pc := the handler's address. A blocking instruction that
waits is abandoned (R235). -/
def trapEntry (th : Thread) (tr : TrapInfo) (epc handler : Word) : Thread :=
  { th with
    epc := epc &&& ~~~3#64
    cause := causeWord tr th.ae
    tval := tr.tval
    tinfo := tr.tinfo
    tcoord := BitVec.ofNat 64 tr.tcoord
    lid := BitVec.ofNat 64 tr.lid
    held := tr.held
    heldLid := tr.lid
    ae := false
    ht := true
    wait := none
    pc := handler }

/-- The trace unit of a die takes a record of a partition (R395): staged, or lost when 256 wait; a partition
without a buffer keeps none. -/
def stageTrace (s : State) (pkg die part : Nat) (tag : Word) (data coord lid kind : Nat) : State :=
  modTraceCfg s (pkg, die, part) fun c =>
    let rec0 : BitVec 256 := BitVec.ofNat 256
      (c.seq % 256 + kind * 2 ^ 8 + lid % 4096 * 2 ^ 14 + coord % 2 ^ 38 * 2 ^ 26 + data % 2 ^ 64 * 2 ^ 64 +
        (getPkg s pkg).time % 2 ^ 64 * 2 ^ 128 + tag.toNat * 2 ^ 192)
    if c.size = 0 then c
    else if 256 ≤ c.staged.length then { c with lost := (c.lost + 1) % 2 ^ 32, seq := (c.seq + 1) % 256 }
    else { c with staged := c.staged ++ [rec0], seq := (c.seq + 1) % 256 }

/-- A record of a class enabled by the mask (R397). -/
def traceClass (s : State) (pkg die part cls : Nat) (tag : Word) (data coord lid kind : Nat) : State :=
  let c := getTraceCfg s (pkg, die, part)
  if c.size ≠ 0 ∧ bit c.mask cls then stageTrace s pkg die part tag data coord lid kind else s

/-- A thread takes a trap, with its trace record (R396, R397, class 0): the tag, and the operator or engine, for a synchronous
trap the thread's core. -/
def enterTrap (s : State) (t : Tid) (tr : TrapInfo) (epc handler : Word) : State :=
  traceClass (modThr s t fun th => trapEntry th tr epc handler) t.pkg t.die (getThr s t).part 0
    (if tr.tagged then tr.tinfo else 0) tr.cause
    (if tr.async then tr.tcoord else coordNat { eng := ccEng t.pkg t.die }) tr.lid 0x06

/-- A synchronous trap while ht is 1 halts the thread (R263). -/
def syncTrapRaw (s : State) (t : Tid) (tr : TrapInfo) (epc handler : Word) : State :=
  if (getThr s t).ht then modThr s t fun th => { th with halted := true, wait := none }
  else enterTrap s t tr epc handler

/-- Unwinding of a thread containment level (R259): its held effects are discarded, inner levels are closed, and the
containment-unwind trap enters the level's handler. -/
def unwindLevel (s : State) (t : Tid) (lvl : Nat) : State :=
  match (getThr s t).levels[lvl - 1]? with
  | none => s
  | some l =>
    let s := modThr s t fun th => { th with levels := (th.levels.take lvl).modify (lvl - 1) fun l => { l with held := [] } }
    syncTrapRaw s t { cause := 0x000D, tval := BitVec.ofNat 64 lvl } l.ret l.handler

/-- The load data error of the first deferred error (R227): the trap of R221, or the unwinding of the level in which
the load was issued (R259). -/
def loadErrorTrap (s : State) (t : Tid) : State :=
  let th := getThr s t
  match th.errs with
  | [] => s
  | x :: rest =>
    let s := modThr s t fun th => { th with errs := rest }
    if x.cause = 0x000A ∧ 0 < x.level ∧ x.level ≤ th.levels.length then unwindLevel s t x.level
    else syncTrapRaw s t { cause := x.cause, tval := x.va } th.pc th.tvec

/-- A synchronous trap of a thread (R263). A deferred load data error is raised before trap entry for another cause
(R227), at the instruction. -/
def syncTrap (s : State) (t : Tid) (cause : Nat) (tval : Word) (epc : Word) : State :=
  if (getThr s t).errs.isEmpty then syncTrapRaw s t { cause := cause, tval := tval } epc (getThr s t).tvec
  else loadErrorTrap s t

/-- A synchronous trap of the current thread at its instruction. -/
def trapCur (s : State) (cause : Nat) (tval : Word) : State := syncTrap s s.cur cause tval (curThr s).pc

/-- A packet carries a memory request of a name. -/
def carriesReq (id : Nat) (p : Pkt) : Bool :=
  match p.body with
  | .hbmRead r | .hbmWrite r | .hbmAtomic r => decide (r.id = id)
  | _ => false

/-- Work that a trap held is evaluated again (R333). -/
def releaseHeld (s : State) : Held → State
  | .none => s
  | .act e slot vrow =>
    { s with allocWait := s.allocWait.map fun w =>
        if w.eng = e ∧ w.slot = slot ∧ w.vrow = vrow then { w with held := false } else w }
  | .token e _ => modEng s e fun x => { x with ovf := false }
  | .request id =>
    { s with
        reqs := s.reqs.map fun r => if r.id = id then
          { r with st := if s.inbox.any (carriesReq id) then .away else .queued, unfiltered := true } else r
        inbox := s.inbox.map fun p => if p.id = id then { p with held := false } else p
        watchHolds := s.watchHolds.map fun h => if h.id = id then { h with held := false } else h
        streams := tmap (fun _ p => { p with slots := tmap (fun _ c =>
          if c.id = id then { c with held := false } else c) p.slots }) s.streams }
  | .xlate e a => modEng s e fun x => { x with unit := x.unit ++ [a] }
  | .report pkg die n => { s with qmReports := tdel (pkg, die, n) s.qmReports }

/-- Set the activity bit of a launch (R337). -/
def touch (s : State) (pkg lid : Nat) : State := modLaunch s (pkg, lid) fun l => { l with activity := true }

/-- Return from a trap (R264): pc := cc_epc, ae := pae, ht := 0, and the held work is released. The instruction
resumed passes a watch filter once after a watchpoint trap (R333), the end of a held wait is activity of its launch (R337),
and an access that retries walks again (R353). -/
def trapReturn (s : State) (t : Tid) : State :=
  let th := getThr s t
  let s := modThr s t fun th =>
    { th with pc := th.epc, ae := th.cause.getLsbD 18, ht := false, held := .none,
              pass := if th.cause.toNat % 65536 = 0x000E then th.watched else 0 }
  releaseHeld (forgetFaults (if holdsWork th.held then touch s t.pkg th.heldLid else s) t.pkg) th.held

/-! ### Asynchronous reports (R330, R332) -/

/-- The trap thread of a launch (R276). -/
def trapThread (pkg : Nat) (r : LaunchRec) : Tid := ⟨pkg, bits r.trap 3 2, bits r.trap 1 0⟩

/-- The fault thread of a partition on a die (R330). -/
def faultThread (s : State) (pkg die part : Nat) : Tid := ⟨pkg, die, tget 0 die (getPart s (pkg, part)).faultThr⟩

/-- Where a report goes that engine e raises for a launch of package home (R330): the launch's trap thread, or the fault
thread of the partition on the die of e. -/
def reportFor (s : State) (home : Nat) (e : Eng) (part lid : Nat) : Tid :=
  match if lid = 0 then none else getLaunch s (home, lid) with
  | some l => trapThread home l.record
  | none => faultThread s e.pkg e.die part

/-- Where a report about a launch of the raising package goes (R330). -/
def reportTo (s : State) (pkg die part lid : Nat) : Tid := reportFor s pkg ⟨pkg, die, 0, 0⟩ part lid

/-- An engine raises a report: it travels on the control network until it takes its place in the queue. -/
def raise (s : State) (r : Report) : State := { s with reports := s.reports ++ [r] }

/-- A report of an operator's engine. -/
def raiseAt (s : State) (c : Coord) (part lid cause tval : Nat) (tag : Word) (held : Held := .none) : State :=
  raise s { dest := reportTo s c.eng.pkg c.eng.die part lid, cause := cause, tval := BitVec.ofNat 64 tval, tinfo := tag,
            tcoord := coordNat { c with pos := 0 }, lid := lid, held := held, src := c.eng }

/-- An operator fault or a block fault is remembered for the status of a GKILL (R281). -/
def noteFault (s : State) (pkg lid why : Nat) : State :=
  modLaunch s (pkg, lid) fun l => { l with why := if l.why = 2 then 2 else why }

/-! ### Thread memory accesses (R226, R227) -/

/-- An acquire of a thread (R225, R237): what it fetched ahead is fetched again. -/
def clearAhead (th : Thread) : Thread := { th with ahead := [], spoilt := [] }

/-- The trap cause of a translation fault of data (R332); 0 for a miss, which waits. -/
def dataCause : XFault → Nat
  | .miss => 0
  | .notPresent => 0x0004
  | .permission => 0x0005
  | .illegal => 0x0006

/-- The first failing check of a thread's access of size bytes (R226): alignment, canonical form and window, then
translation; else where it lands. -/
def threadAccess (s : State) (t : Tid) (acc : Acc) (va : Word) (size : Nat) : Except Nat Target :=
  if va.toNat % size ≠ 0 then .error 0x0002
  else match translate s (ccEng t.pkg t.die) (getThr s t).part .cc acc va.toNat with
    | .fault f => .error (dataCause f)
    | x => .ok x

/-- The three hash constants of the watch filters (R400). -/
def watchKeys : List Nat := [0x9E3779B97F4A7C15, 0xC2B2AE3D27D4EB4F, 0x165667B19E3779F9]

/-- A granule hits a filter (R400). -/
def watchGranule (w : Watch) (g : Nat) : Bool :=
  watchKeys.all fun k => w.bits.getLsbD (g * k % 2 ^ 64 / 2 ^ 52)

/-- An access to bytes a to a + n - 1 touches a granule that hits. -/
def watchHit (w : Watch) (a n : Nat) : Bool :=
  (List.range ((a + n - 1) / 512 - a / 512 + 1)).any fun k => watchGranule w (a / 512 + k)

/-- The kind of an access is watched (R400). -/
def watchKind (w : Watch) (acc : Acc) : Bool :=
  match acc with
  | .read => w.ctl.getLsbD 0
  | .write => w.ctl.getLsbD 1
  | .atomic => w.ctl.getLsbD 0 || w.ctl.getLsbD 1
  | .fetch => w.ctl.getLsbD 2

/-- The number by which a thread's watched access is known: 1 a fetch, 2 a data access. -/
def watchNum : Acc → Nat
  | .fetch => 1
  | _ => 2

/-- A control core access hits its core's filter (R401). After the ERET of a watchpoint trap the access that it was for is
passed over once (R333); the fetch of an instruction whose data access was trapped has passed its own check before. -/
def ccWatch (s : State) (t : Tid) (acc : Acc) (va n : Nat) : Bool :=
  let w := getWatch s (ccEng t.pkg t.die)
  decide ((getThr s t).pass < watchNum acc) && watchKind w acc && w.ctl.getLsbD (4 + t.thr) && watchHit w (va % 2 ^ 52) n

/-- The watchpoint trap of a thread's access (R401), before it is performed. -/
def watchTrap (s : State) (t : Tid) (acc : Acc) (va epc : Word) : State :=
  syncTrap (modThr s t fun th => { th with watched := watchNum acc }) t 0x000E va epc

/-! ### Requests (R227, R375, R376) -/

/-- The op field of a transfer packet's header (R363). -/
def packetOp : PktBody → Nat
  | .token => 0
  | .chunkWrite _ _ _ => 1
  | .readResponse _ _ _ _ => 3
  | .channelWrite _ _ _ _ _ _ _ => 4
  | .reduce _ _ => 5
  | .hbmRead _ => 6
  | .hbmWrite _ => 7
  | .hbmAtomic _ => 8
  | .answer _ _ => 0

/-- The switches on the edge of the 4×4 mesh (R360). -/
def edgeSwitches : List Nat := [0, 1, 2, 3, 4, 7, 8, 11, 12, 13, 14, 15]

/-- The switch of an engine: its page's, or the edge switch it attaches to. -/
def switchOf (e : Eng) : Nat :=
  if onPage e then e.page else (edgeSwitches[Config.edgeSwitch e.elem e.page % 12]?).getD 0

/-- The hops along a line of a 4×4 mesh from switch a to switch b: the row first, then the column. -/
def meshHops (n a b : Nat) : List (Nat × Nat) :=
  match n with
  | 0 => []
  | n + 1 =>
    let step := if a % 4 < b % 4 then some (a + 1) else if b % 4 < a % 4 then some (a - 1)
      else if a < b then some (a + 4) else if b < a then some (a - 4) else none
    match step with
    | some x => (a, x) :: meshHops n x b
    | none => []

/-- The link directions of a path in one die from switch a to switch b and out to an engine there: die and code. -/
def dieLinks (die a b out : Nat) : List (Nat × Nat) :=
  ((meshHops 6 a b).map fun h => (die, h.1 * 64 + h.2)) ++ [(die, b * 64 + out)]

/-- The code of an engine as a switch's neighbour. -/
def outCode (e : Eng) : Nat := 16 + e.elem

/-- The inner strait engine of die d towards die x (R360). -/
def innerStrait (pkg d x : Nat) : Eng := ⟨pkg, d, (x + 7 - d) % 4, 26⟩

/-- The link directions of the fixed route from one engine to another of its package, the inner strait among them. -/
def routeLinks (a b : Eng) : List (Nat × Nat) :=
  if a.die = b.die then dieLinks a.die (switchOf a) (switchOf b) (outCode b)
  else
    let x := innerStrait a.pkg a.die b.die
    let y := innerStrait a.pkg b.die a.die
    dieLinks a.die (switchOf a) (switchOf x) (48 + x.page) ++ [(a.die, 1024 + b.die)] ++
      dieLinks b.die (switchOf y) (switchOf b) (outCode b)

/-- The switches on that route (R90: hops). -/
def switchesBetween (a b : Eng) : Nat := (routeLinks a b).length - if a.die = b.die then 0 else 1

/-- More switches traversed; hops saturates at 255 (R90). -/
def addHops (t : Token) (k : Nat) : Token := { t with hops := Nat.min 255 (t.hops + k) }

/-- A set of a routing table entry: egress port and path number (R366). -/
def routeSet (r : Route) (m : Nat) : Nat × Nat :=
  match m % 4 with
  | 0 => r.set0
  | 1 => r.set1
  | 2 => r.set2
  | _ => r.set3

/-- The egress port and path number of the set of a milestone in an engine's table (R366, R367). -/
def pathNum (st : Strait) (src dst : Nat) (m : Nat) : Option (Nat × Nat) :=
  (st.table.find? fun r => r.src = src ∧ r.dst = dst).map fun r => routeSet r m

/-- The strait engine through which the packets of engine a for another package leave: a itself when it is one; else the one
that they have left through before, so that packets of one pair keep one order (R372); else the one of its die that the current
set of the die's ST0 names (log 17). None without a route. -/
def egress (s : State) (a : Eng) (dpkg : Nat) : Option Eng :=
  let st0 : Eng := ⟨a.pkg, a.die, 0, 25⟩
  let e := if a.elem = 25 then some a
    else match tfind (a, dpkg) s.exits with
      | some k => some { st0 with page := k }
      | none => (pathNum (getStrait s st0) a.pkg dpkg (getStrait s st0).milestone).map fun p => { st0 with page := p.1 % 8 }
  e.filter fun e => (pathNum (getStrait s e) a.pkg dpkg (getStrait s e).milestone).isSome

/-- The strait engine of an egress port: of the 8 on the die of the engine whose table names it (log 17). -/
def portEng (e : Eng) (port : Nat) : Eng := ⟨e.pkg, e.die, port % 8, 25⟩

/-- Data flits of a burst of n header words and d bytes. -/
def burstLen (n d : Nat) : Nat := cdiv (8 * n + d) 64

/-- The flits of a packet (R363, R364). -/
def pktFlits (p : Pkt) : Nat :=
  1 + match p.body with
    | .token | .hbmRead _ | .hbmAtomic _ | .answer _ _ => 0
    | .hbmWrite _ | .readResponse _ _ _ _ => 1
    | .chunkWrite _ _ bs => lsum (bs.map fun b => burstLen b.words.length b.data.length)
    | .channelWrite _ _ _ _ _ _ d => d.length / 512 * burstLen 1 512 + if d.length % 512 = 0 then 0 else burstLen 1 (d.length % 512)
    | .reduce _ c => burstLen 1 c.data.length

/-- The 16 MiB retry buffer of an engine has room for a packet (R369). -/
def retryRoom (st : Strait) (p : Pkt) : Bool := decide (lsum (st.retry.map fun r => pktFlits r.pkt) + pktFlits p ≤ 2 ^ 18)

/-- An engine takes a packet now: its buffer has room, and none waits before it. -/
def straitRoom (s : State) (e : Eng) (p : Pkt) : Bool := (getStrait s e).waiting.isEmpty && retryRoom (getStrait s e) p

/-- A packet enters the retry buffer of a strait engine, is stamped and is sent (R367, R369). -/
def takePkt (s : State) (e : Eng) (p : Pkt) : State :=
  let st := getStrait s e
  let dst := p.hdr.dst.eng.pkg
  let seq := tget 0 dst st.nextSeq
  let pn := (pathNum st e.pkg dst st.milestone).getD (0, 0)
  let hdr := addHops { p.hdr with path := pn.2, milestone := st.milestone, seq := seq } (switchesBetween p.hdr.src.eng e)
  let p := { p with hdr := hdr, src := e, at_ := portEng e pn.1, link := false }
  let s := setStrait s e { st with nextSeq := tset dst ((seq + 1) % 2 ^ 32) st.nextSeq,
                                   retry := st.retry ++ [{ pkt := p, sent := (getPkg s e.pkg).time }] }
  { s with packets := s.packets ++ [p] }

/-- A packet goes to a strait engine. While its retry buffer is full the engine takes no more, and the packet waits with its
producer (R369). -/
def sendPkt (s : State) (e : Eng) (p : Pkt) : State :=
  let (i, s) := fresh { s with exits := tset (p.hdr.src.eng, p.hdr.dst.eng.pkg) e.page s.exits }
  let p := { p with id := i }
  if straitRoom s e p then takePkt s e p
  else setStrait s e { getStrait s e with waiting := (getStrait s e).waiting ++ [p] }

/-- An engine whose buffer has room again takes waiting packets in order, at most n. -/
def admitPkts : Nat → State → Eng → State
  | 0, s, _ => s
  | n + 1, s, e =>
    let st := getStrait s e
    match st.waiting with
    | [] => s
    | p :: ps => if retryRoom st p then admitPkts n (takePkt (setStrait s e { st with waiting := ps }) e p) e else s

/-- The package where a request was issued. -/
def reqPkg : ReqFrom → Nat
  | .load t _ | .store t _ => t.pkg
  | .hload e _ _ | .hstore e _ | .copy e _ _ | .stream e _ => e.pkg

/-- The die where a request was issued. -/
def reqDie : ReqFrom → Nat
  | .load t _ | .store t _ => t.die
  | .hload e _ _ | .hstore e _ | .copy e _ _ | .stream e _ => e.die

/-- The engine whose request it is (R363): a thread's control core, an operator's engine, the copy engine of a die. -/
def reqSrc (pkg die : Nat) : ReqFrom → Eng
  | .load _ _ | .store _ _ => ccEng pkg die
  | .hload e _ _ | .hstore e _ | .stream e _ | .copy e _ _ => e

/-- The packet of ops 0x6 to 0x8 that carries a request (R363). -/
def reqPacket (pkg die : Nat) (r : Req) : Pkt :=
  let x : PktBody × Nat × Nat := match r.op with
    | .read => (.hbmRead r, r.pa / 64 * 64, 0)
    | .write _ _ => (.hbmWrite r, r.pa / 64 * 64, (2 ^ r.len - 1) * 2 ^ (r.pa % 64))
    | .atomic _ v c => (.hbmAtomic r, r.pa, c.toNat + v.toNat * 2 ^ 64)
  { hdr := { dst := { eng := r.owner }, src := { eng := reqSrc pkg die r.from_ }, kind := packetOp x.1,
             tag := BitVec.ofNat 64 x.2.1, lid := r.lid, part := r.part, vc := 2, opw := BitVec.ofNat 128 x.2.2 }
    body := x.1 }

/-- Issue a request: to its owner in this package, or as a packet of ops 0x6 to 0x8 to another (R376). -/
def issueReq (s : State) (pkg die : Nat) (r : Req) : State :=
  if r.host || decide (r.owner.pkg = pkg) then { s with reqs := s.reqs ++ [r] }
  else
    let s := { s with reqs := s.reqs ++ [{ r with st := .away }] }
    match egress s (reqSrc pkg die r.from_) r.owner.pkg with
    | none => { s with reqs := s.reqs.map fun q => if q.id = r.id then { q with st := .done, denied := true } else q }
    | some e => sendPkt s e (reqPacket pkg die r)

/-- The request of a target. -/
def mkReq (id : Nat) (tg : Target) (op : ReqOp) (len va part lid : Nat) (f : ReqFrom) : Req :=
  match tg with
  | .hbm g => { id := id, owner := ownerOf g, op := op, pa := g, len := len, va := va, part := part, lid := lid, from_ := f }
  | .host a => { id := id, host := true, op := op, pa := a, len := len, va := va, part := part, lid := lid, from_ := f }
  | .fault _ => { id := id, denied := true, op := op, len := len, va := va, part := part, lid := lid, from_ := f }

/-! ### Result words of device instructions (R234) -/

/-- Success with a value. -/
def okWord (v : Nat) : Word := BitVec.ofNat 64 (v % 2 ^ 63)

/-- Failure with a status code and a detail. -/
def errWord (code : Nat) (detail : Nat := 0) : Word :=
  BitVec.ofNat 64 (2 ^ 63 + code * 2 ^ 48 + detail % 2 ^ 48)

end Sys2Proof.Machine
end

