-- ==== Sys2Proof/Machine/Operands.lean ====
section
/-!
DEFINITION. Machine/Operands.lean: the operand forms of control core instructions: which registers a word names, and
the addresses its fields give (spec/04 R105, spec/10).
-/
namespace Sys2Proof.Machine

/-- The s registers that a control core instruction reads or writes, which the scoreboard guards (R220, R227); none for
a device step. -/
def regsOf : Instr → Option (List RegNo)
  | .add rd rs1 rs2 => some [rd, rs1, rs2]
  | .sub rd rs1 rs2 => some [rd, rs1, rs2]
  | .and rd rs1 rs2 => some [rd, rs1, rs2]
  | .or rd rs1 rs2 => some [rd, rs1, rs2]
  | .xor rd rs1 rs2 => some [rd, rs1, rs2]
  | .shl rd rs1 rs2 => some [rd, rs1, rs2]
  | .shr rd rs1 rs2 => some [rd, rs1, rs2]
  | .sar rd rs1 rs2 => some [rd, rs1, rs2]
  | .mul rd rs1 rs2 => some [rd, rs1, rs2]
  | .mulh rd rs1 rs2 => some [rd, rs1, rs2]
  | .mulhn rd rs1 rs2 => some [rd, rs1, rs2]
  | .div rd rs1 rs2 => some [rd, rs1, rs2]
  | .divn rd rs1 rs2 => some [rd, rs1, rs2]
  | .rem rd rs1 rs2 => some [rd, rs1, rs2]
  | .remn rd rs1 rs2 => some [rd, rs1, rs2]
  | .min rd rs1 rs2 => some [rd, rs1, rs2]
  | .max rd rs1 rs2 => some [rd, rs1, rs2]
  | .minn rd rs1 rs2 => some [rd, rs1, rs2]
  | .maxn rd rs1 rs2 => some [rd, rs1, rs2]
  | .slt rd rs1 rs2 => some [rd, rs1, rs2]
  | .sltn rd rs1 rs2 => some [rd, rs1, rs2]
  | .addi rd rs1 _ => some [rd, rs1]
  | .andi rd rs1 _ => some [rd, rs1]
  | .ori rd rs1 _ => some [rd, rs1]
  | .xori rd rs1 _ => some [rd, rs1]
  | .shli rd rs1 _ => some [rd, rs1]
  | .shri rd rs1 _ => some [rd, rs1]
  | .sari rd rs1 _ => some [rd, rs1]
  | .lui rd _ => some [rd]
  | .auip rd _ => some [rd]
  | .jal rd _ => some [rd]
  | .jalr rd rs1 _ => some [rd, rs1]
  | .beq rs1 rs2 _ => some [rs1, rs2]
  | .bne rs1 rs2 _ => some [rs1, rs2]
  | .blt rs1 rs2 _ => some [rs1, rs2]
  | .bge rs1 rs2 _ => some [rs1, rs2]
  | .bltn rs1 rs2 _ => some [rs1, rs2]
  | .bgen rs1 rs2 _ => some [rs1, rs2]
  | .ld8 rd rs1 _ => some [rd, rs1]
  | .ld8n rd rs1 _ => some [rd, rs1]
  | .ld16 rd rs1 _ => some [rd, rs1]
  | .ld16n rd rs1 _ => some [rd, rs1]
  | .ld32 rd rs1 _ => some [rd, rs1]
  | .ld32n rd rs1 _ => some [rd, rs1]
  | .ld64 rd rs1 _ => some [rd, rs1]
  | .st8 src rs1 _ => some [src, rs1]
  | .st16 src rs1 _ => some [src, rs1]
  | .st32 src rs1 _ => some [src, rs1]
  | .st64 src rs1 _ => some [src, rs1]
  | .amoadd rd rs1 rs2 _ => some [rd, rs1, rs2]
  | .amoand rd rs1 rs2 _ => some [rd, rs1, rs2]
  | .amoor rd rs1 rs2 _ => some [rd, rs1, rs2]
  | .amoxor rd rs1 rs2 _ => some [rd, rs1, rs2]
  | .amoswp rd rs1 rs2 _ => some [rd, rs1, rs2]
  | .amomin rd rs1 rs2 _ => some [rd, rs1, rs2]
  | .amomax rd rs1 rs2 _ => some [rd, rs1, rs2]
  | .amocas rd rs1 rs2 _ => some [rd, rs1, rs2]
  | .amoinc rd rs1 rs2 _ => some [rd, rs1, rs2]
  | .fence _ => some []
  | .trap _ => some []
  | .nop => some []
  | .halt => some []
  | .eret => some []
  | .wfe => some []
  | .sev rs1 => some [rs1]
  | .csrrd rd _ => some [rd]
  | .csrwr rs1 _ => some [rs1]
  | .csrset rs1 _ => some [rs1]
  | .csrclr rs1 _ => some [rs1]
  | .gload rd rs1 => some [rd, rs1]
  | .gfree rd rs1 => some [rd, rs1]
  | .glaunch rd rs1 rs2 => some [rd, rs1, rs2]
  | .gkill rd rs1 => some [rd, rs1]
  | .inject rd rs1 => some [rd, rs1]
  | .purge rd rs1 rs2 => some [rd, rs1, rs2]
  | .msread rd rs1 rs2 => some [rd, rs1, rs2]
  | .clread rd rs1 rs2 => some [rd, rs1, rs2]
  | .freeze rd rs1 => some [rd, rs1]
  | .thaw rd rs1 => some [rd, rs1]
  | .savec rd rs1 rs2 => some [rd, rs1, rs2]
  | .restc rd rs1 => some [rd, rs1]
  | .sbind rd rs1 rs2 => some [rd, rs1, rs2]
  | .sstart rd rs1 rs2 => some [rd, rs1, rs2]
  | .sbar rd rs1 => some [rd, rs1]
  | .cpyq rd rs1 rs2 => some [rd, rs1, rs2]
  | .cpywait rd rs1 rs2 => some [rd, rs1, rs2]
  | .bararm rs1 rs2 => some [rs1, rs2]
  | .bararrive rs1 => some [rs1]
  | .barwait rd rs1 rs2 => some [rd, rs1, rs2]
  | .chopen rd rs1 rs2 => some [rd, rs1, rs2]
  | .chwr rd rs1 rs2 => some [rd, rs1, rs2]
  | .chrd rd rs1 rs2 => some [rd, rs1, rs2]
  | .chtry rd rs1 rs2 => some [rd, rs1, rs2]
  | .chclose rd rs1 => some [rd, rs1]
  | .twset rd rs1 rs2 => some [rd, rs1, rs2]
  | .twclr rd rs1 => some [rd, rs1]
  | .time rd => some [rd]
  | .crgno rd rs1 => some [rd, rs1]
  | .crgnc rd rs1 rs2 => some [rd, rs1, rs2]
  | .qset rd rs1 rs2 => some [rd, rs1, rs2]
  | .qget rd rs1 rs2 => some [rd, rs1, rs2]
  | _ => none

/-- The package whose clocks a device step needs (R414); none where the object it names has already gone with them. -/
def stepPkg : Instr → Option Nat
  | .tokenArrival e _ => some e.pkg
  | .arbiterSelect e => some e.pkg
  | .arbiterReweight e => some e.pkg
  | .launchComplete pkg _ => some pkg
  | .source e _ => some e.pkg
  | .sink e _ => some e.pkg
  | .dup e _ => some e.pkg
  | .enterOp e _ => some e.pkg
  | .nextOp e _ => some e.pkg
  | .exitOp e _ => some e.pkg
  | .callOp e _ => some e.pkg
  | .retOp e _ => some e.pkg
  | .gsteer e _ => some e.pkg
  | .gmerge e _ => some e.pkg
  | .triggerArrival e _ => some e.pkg
  | .triggerDeadline e _ _ => some e.pkg
  | .bridge e _ => some e.pkg
  | .copen e _ => some e.pkg
  | .cclose e _ => some e.pkg
  | .containmentHeld pkg _ _ _ => some pkg
  | .timer e _ => some e.pkg
  | .timerExpiry pkg _ _ => some pkg
  | .vblockActivation e => some e.pkg
  | .vblockStep e => some e.pkg
  | .vblockComplete e => some e.pkg
  | .mmul e => some e.pkg
  | .wload e => some e.pkg
  | .gather e => some e.pkg
  | .repeatOp e => some e.pkg
  | .swin e => some e.pkg
  | .transp e => some e.pkg
  | .conv e => some e.pkg
  | .hload e _ => some e.pkg
  | .hloadSectorReturn e _ => some e.pkg
  | .hstore e _ => some e.pkg
  | .hstoreComplete e _ => some e.pkg
  | .copy e _ => some e.pkg
  | .copyChunkAck pkg _ _ _ => some pkg
  | .copyPacketTake pkg _ _ => some pkg
  | .chw e _ => some e.pkg
  | .chr e _ => some e.pkg
  | .dispatch e _ => some e.pkg
  | .dispatchCreditUpdate pkg _ _ => some pkg
  | .reduce e _ => some e.pkg
  | .burstReceive e _ _ => some e.pkg
  | .memoryTileRequest e _ => some e.pkg
  | .hbmSectorAccess e _ => some e.pkg
  | .pageWalk e _ _ => some e.pkg
  | .launchAccept pkg _ => some pkg
  | .launchEventPoll pkg _ => some pkg
  | .launchStart pkg => some pkg
  | .streamCommandBegin e _ _ => some e.pkg
  | .streamCircuitSetup e _ _ => some e.pkg
  | .streamCommandComplete e _ _ => some e.pkg
  | .timerWheelBoundary pkg _ => some pkg
  | .twsetExpiry pkg _ _ => some pkg
  | .farListMove pkg _ => some pkg
  | .deviceTimeStep pkg _ => some pkg
  | .qmSample pkg _ _ => some pkg
  | .qmWindowEnd pkg _ => some pkg
  | .asyncTrapEntry t => some t.pkg
  | .loadReturn t _ => some t.pkg
  | .loadDataError t => some t.pkg
  | .asyncCompletion t _ => some t.pkg
  | .blockingWaitEnd t => some t.pkg
  | .pageSetMove pkg _ => some pkg
  | .slotBoundary e => some e.pkg
  | .linkFlitReceive e _ => some e.pkg
  | .linkDeath e _ => some e.pkg
  | .milestoneChange pkg => some pkg
  | .milestoneAdopt e => some e.pkg
  | .retryTimeout e _ => some e.pkg
  | .elementClockGate e => some e.pkg
  | .elementWake e => some e.pkg
  | .pagePowerGate pkg _ _ => some pkg
  | .scrubRead b _ => some (bankPkg b)
  | .eccWindowExpiry b => some (bankPkg b)
  | .bankConversion b => some (bankPkg b)
  | .traceWrite pkg _ _ => some pkg
  | .zbell pkg _ => some pkg
  | .zringWrite pkg _ _ => some pkg
  | .registerWrite pkg _ _ _ => some pkg
  | .bar2Access pkg _ _ _ => some pkg
  | .zcmdRingPoll pkg _ => some pkg
  | .ident pkg _ => some pkg
  | .attest pkg _ => some pkg
  | .fwstage pkg _ => some pkg
  | .pcreate pkg _ => some pkg
  | .pdestroy pkg _ => some pkg
  | .flr pkg _ => some pkg
  | .pgrant pkg _ => some pkg
  | .aspace pkg _ => some pkg
  | .pools pkg _ => some pkg
  | .faults pkg _ => some pkg
  | .slots pkg _ => some pkg
  | .lqset pkg _ => some pkg
  | .cqset pkg _ => some pkg
  | .routes pkg _ => some pkg
  | .mstone pkg _ => some pkg
  | .rgroup pkg _ => some pkg
  | .tlbinv pkg _ => some pkg
  | .readObject pkg _ => some pkg
  | .dbgsetStopEntry pkg _ => some pkg
  | .dbgsetTrace pkg _ => some pkg
  | .dbgsetWatch pkg _ => some pkg
  | .dbgsetBreakBit pkg _ => some pkg
  | .dbgsetProfileClear pkg _ => some pkg
  | .dbgsetLogEntry pkg _ => some pkg
  | .threadNormalStop pkg _ => some pkg
  | .threadHardStop pkg _ => some pkg
  | .threadResume pkg _ => some pkg
  | .threadRegisterWrite pkg _ => some pkg
  | .scrub pkg _ => some pkg
  | .power pkg _ => some pkg
  | .thermalThrottle pkg _ => some pkg
  | .thermalShutdown pkg => some pkg
  | .coldReset pkg => some pkg
  | .writeAcknowledgement t _ => some t.pkg
  | _ => none

/-- The effective address of a load or store (R226). -/
def effAddr (base : Word) (imm : Imm16) : Word := base + imm.signExtend 64

/-- A branch's target (R105). -/
def branchTarget (pc : Word) (imm : Imm16) : Word := pc + imm.signExtend 64 * 4

/-- JAL's target (R105). -/
def jalTarget (pc : Word) (imm : BitVec 21) : Word := pc + imm.signExtend 64 * 4

/-- LUI's value: sign_extend_64(imm16 << 16) (R105). -/
def luiValue (imm : Imm16) : Word := (imm ++ 0#16).signExtend 64

end Sys2Proof.Machine
end

