-- ==== Sys2Proof/Machine/Issue.lean ====
section
/-!
DEFINITION. Machine/Issue.lean: how a thread comes to issue an instruction (spec/10 R220, R225, R227), and the turns of
the world outside the steps of the opcode table.
-/
namespace Sys2Proof.Machine

/-- What an issue turn comes to: the thread waits, or an instruction (or a fetch trap) runs. -/
inductive Issued where
  | wait (s : State)
  | run (i : Instr) (s : State)

/-- The fetch fault of a translation fault (R221); none for a miss, which waits for its walk (R352). -/
def fetchWhy : XFault → Option FetchFault
  | .notPresent => some .notPresent
  | .permission => some .permission
  | .illegal => some .illegalAddress
  | .miss => none

/-- Fetch a word from memory at a virtual address (R221, R225). -/
def fetchWord (s : State) (t : Tid) (va : Nat) : Except (Option FetchFault) IWord :=
  if va % 4 ≠ 0 then .error (some .misaligned)
  else match translate s (ccEng t.pkg t.die) (getThr s t).part .cc .fetch va with
    | .fault f => .error (fetchWhy f)
    | .hbm g =>
      if (wordsOf g 4).any (eccBad s false) then .error (some .dataError)
      else .ok (BitVec.ofNat 32 (leNat (memRead s.hbm g 4)))
    | .host a => .ok (BitVec.ofNat 32 (leNat (memRead s.hostMem a 4)))

/-- The word that the thread issues next: one fetched ahead (R225), which the instruction cache may have lost (R221), or
the one memory holds. -/
def nextWord (s : State) (t : Tid) : Except (Option FetchFault) IWord :=
  let th := getThr s t
  match tfind th.pc.toNat th.ahead with
  | some w => if th.spoilt.contains th.pc.toNat then .error (some .dataError) else .ok w
  | none => fetchWord s t th.pc.toNat

/-- An instruction waits for a register whose scoreboard bit is set (R220). -/
def hazard (th : Thread) (i : Instr) : Bool := ((regsOf i).getD []).any fun r => r != 0 && sbBit th r

/-- A deferred load data error is raised before this instruction issues (R227). -/
def raisesError (th : Thread) (i : Instr) : Bool :=
  !th.errs.isEmpty &&
    (match i with
      | .fence _ | .halt | .wfe => true
      | .amoadd _ _ _ _ | .amoand _ _ _ _ | .amoor _ _ _ _ | .amoxor _ _ _ _ | .amoswp _ _ _ _ | .amomin _ _ _ _
      | .amomax _ _ _ _ | .amocas _ _ _ _ | .amoinc _ _ _ _ => true
      | _ => th.errs.any fun e => e.rd.any ((regsOf i).getD []).contains)

/-- The thread may issue: it is not halted, stopped or in a blocking wait (R232, R235, R394). -/
def mayIssue (th : Thread) : Bool := !th.halted && !th.stopped && !th.stopping && th.wait.isNone

/-- The error whose destination the instruction names, brought to the head of the list (R227). -/
def errFirst (th : Thread) (i : Instr) : Thread :=
  let named := fun e : DefErr => e.rd.any ((regsOf i).getD []).contains
  { th with errs := th.errs.filter named ++ th.errs.filter fun e => !named e }

/-- A thread has an instruction ready (R220): what it would issue next can be fetched, or its trap taken, and waits for no
register. -/
def issueReady (s : State) (t : Tid) : Bool :=
  mayIssue (getThr s t) && match nextWord s t with
    | .error why => why.isSome
    | .ok w => match decode w with
      | .error _ => true
      | .ok i => !hazard (getThr s t) i

/-- The thread that a core issues from (R220): the first in rotating order that has an instruction ready; t when none has. -/
def issuer (s : State) (t : Tid) : Tid :=
  (((List.range 4).map fun k => { t with thr := (tget 0 (t.pkg, t.die) s.coreNext + k) % 4 }).find? (issueReady s)).getD t

/-- A thread that may issue and whose fetch misses asks for a walk (R352). -/
def fetchMiss (s : State) (t : Tid) : State :=
  let th := getThr s t
  match nextWord s t with
  | .error none => if mayIssue th then noteMiss s (ccEng t.pkg t.die) th.part th.pc.toNat 0 0 0 else s
  | _ => s

/-- A word read from memory is counted by its bank (R385). -/
def fetchRead (s : State) (t : Tid) (va : Nat) : State :=
  match translate s (ccEng t.pkg t.die) (getThr s t).part .cc .fetch va with
  | .hbm g => (readHbm s g 4).2.2
  | _ => s

/-- The read of the word that the thread issues, when it was not fetched ahead. -/
def issueRead (s : State) (t : Tid) : State :=
  let th := getThr s t
  if (tfind th.pc.toNat th.ahead).isSome then s else fetchRead s t th.pc.toNat

/-- A core's turn to issue, asked for in the name of one of its threads. -/
def issueOf (s : State) (t : Tid) : Issued :=
  let s := fetchMiss s t
  let t := issuer s t
  let th := getThr s t
  let s := { s with cur := t, coreNext := tset (t.pkg, t.die) ((t.thr + 1) % 4) s.coreNext }
  if !mayIssue th then .wait s
  else match nextWord s t with
    | .error none => .wait s
    | .error (some f) => .run (.fetchFault f) (issueRead s t)
    | .ok w =>
      if ccWatch s t .fetch th.pc.toNat 4 then .wait (watchTrap s t .fetch th.pc th.pc)
      else match decode w with
        | .error _ => .run (.illegalInstruction w) (issueRead s t)
        | .ok i =>
          if hazard th i then .wait s
          else if raisesError th i then .wait (loadErrorTrap (modThr s t (errFirst · i)) t)
          else .run i (issueRead s t)

/-- A device step that may be taken as a turn of its own: not an instruction word, nor a happening of issue. -/
def isStep (i : Instr) : Bool :=
  match i with
  | .illegalInstruction _ | .fetchFault _ => false
  | i => (regsOf i).isNone

/-- Fetch runs ahead of issue (R225): a word kept as memory holds it now. An error on a path fetched ahead reports
nothing. -/
def fetchAhead (s : State) (t : Tid) (va : Nat) : State :=
  match fetchWord s t va with
  | .ok w => modThr (fetchRead s t va) t fun th => { th with ahead := tset va w th.ahead, spoilt := th.spoilt.filter (· ≠ va) }
  | .error _ => s

/-- Whose turn it is: the head of the agenda, or the free schedule's choice (log 1). -/
def takeTurn (s : State) : Turn × State :=
  match s.agenda with
  | u :: us => (u, { s with agenda := us })
  | [] => (Config.schedule s.tick, { s with tick := s.tick + 1 })

/-- The package whose clocks a turn needs (R414). A cold reset needs none. -/
def turnPkg : Turn → Option Nat
  | .issue t => some t.pkg
  | .event (.coldReset _) => none
  | .event i => stepPkg i
  | _ => none

/-- The module of the turn has stopped every clock (R414). -/
def clocksOff (s : State) (u : Turn) : Bool :=
  match turnPkg u with
  | some p => (getPkg s p).off
  | none => false

/-- Where a placed program starts: the virtual address used by withFetchWord. -/
def placeVa : Nat := 0x1000

/-- The page tables of a placed program: the level-3 table at 0x10000 names the level-2 table at 0x20000, whose entry 0
maps the first 8 GiB of the space to the first 8 GiB of HBM with every permission (R349, R350). -/
def placeTables (m : Memory) (pkg : Nat) : Memory :=
  memWrite (memWrite m (gpa pkg 0x10000) (leBytes 8 0x20001)) (gpa pkg 0x20000)
    (leBytes 8 (pkg * 2 ^ 44 + 0x1F))

/-- The load from outside that withFetchWord stands for (log 3): the partition's window and tables, the leaf in the core's
TLB, the word at placeVa, and thread T0 of die 0 resumed there with the next turn, first in its core's rotation. -/
def placeWord (s : State) (bytes : List Byte) : State :=
  let t : Tid := ⟨0, 0, 0⟩
  let part := (getThr s t).part
  let s := modPart s (0, part) fun p => { p with root := 0x10000, vbase := 0, vlimit := 2 ^ 33 }
  let s := { s with hbm := memWrite (placeTables s.hbm 0) (gpa 0 placeVa) bytes }
  let s := modThr s t fun th =>
    { th with pc := BitVec.ofNat 64 placeVa, halted := false, stopped := false, stopping := false, wait := none,
              ahead := [], spoilt := [] }
  { s with coreNext := tset (0, 0) 0 s.coreNext
           agenda := .issue t :: s.agenda
           tlb := { eng := ccEng 0 0, part := part, vpage := 0, bits := 33, ent := 0x1F } ::
             s.tlb.filter fun e => e.eng != ccEng 0 0 }

end Sys2Proof.Machine
end

