-- ==== Sys2Proof/Machine/CcBase.lean ====
section
/-!
DEFINITION. Machine/CcBase.lean: the control core instructions of spec/10 and the control registers of spec/11.
-/
namespace Sys2Proof.Machine

/-- The outcome of a meaning. -/
abbrev Out := Host.Outcome State Fault Refusal

/-! ### Integer operations (R222) -/

/-- The signed quotient of R222. -/
def divS (a b : Word) : Word := if b = 0 then BitVec.allOnes 64 else BitVec.sdiv a b
/-- The signed remainder of R222. -/
def remS (a b : Word) : Word := if b = 0 then a else BitVec.srem a b
/-- The unsigned quotient of R222. -/
def divU (a b : Word) : Word := if b = 0 then BitVec.allOnes 64 else a / b
/-- The unsigned remainder of R222. -/
def remU (a b : Word) : Word := if b = 0 then a else a % b
/-- High 64 bits of the signed product. -/
def mulHigh (a b : Word) : Word := BitVec.ofInt 64 (a.toInt * b.toInt / 2 ^ 64)
/-- High 64 bits of the unsigned product. -/
def mulHighU (a b : Word) : Word := BitVec.ofNat 64 (a.toNat * b.toNat / 2 ^ 64)
/-- The lesser as signed numbers. -/
def minS (a b : Word) : Word := if a.slt b then a else b
/-- The greater as signed numbers. -/
def maxS (a b : Word) : Word := if a.slt b then b else a
/-- The lesser as unsigned numbers. -/
def minU (a b : Word) : Word := if a.ult b then a else b
/-- The greater as unsigned numbers. -/
def maxU (a b : Word) : Word := if a.ult b then b else a
/-- The shift count b[5:0]. -/
def shCount (b : Word) : Nat := b.toNat % 64
/-- 1 for true, 0 for false. -/
def flagWord (c : Bool) : Word := if c then 1 else 0

/-- A register operation: rd := f s[rs1] s[rs2]. -/
def regOp (f : Word → Word → Word) (rd rs1 rs2 : RegNo) (s : State) : State := finish s rd (f (rs s rs1) (rs s rs2))

/-- ADD (R222). -/
def execAdd (rd rs1 rs2 : RegNo) (s : State) : Out := .next (regOp (fun a b => a + b) rd rs1 rs2 s)
/-- SUB (R222). -/
def execSub (rd rs1 rs2 : RegNo) (s : State) : Out := .next (regOp (fun a b => a - b) rd rs1 rs2 s)
/-- AND (R222). -/
def execAnd (rd rs1 rs2 : RegNo) (s : State) : Out := .next (regOp (fun a b => a &&& b) rd rs1 rs2 s)
/-- OR (R222). -/
def execOr (rd rs1 rs2 : RegNo) (s : State) : Out := .next (regOp (fun a b => a ||| b) rd rs1 rs2 s)
/-- XOR (R222). -/
def execXor (rd rs1 rs2 : RegNo) (s : State) : Out := .next (regOp (fun a b => a ^^^ b) rd rs1 rs2 s)
/-- SHL (R222). -/
def execShl (rd rs1 rs2 : RegNo) (s : State) : Out := .next (regOp (fun a b => a <<< shCount b) rd rs1 rs2 s)
/-- SHR (R222). -/
def execShr (rd rs1 rs2 : RegNo) (s : State) : Out := .next (regOp (fun a b => a >>> shCount b) rd rs1 rs2 s)
/-- SAR (R222). -/
def execSar (rd rs1 rs2 : RegNo) (s : State) : Out := .next (regOp (fun a b => a.sshiftRight (shCount b)) rd rs1 rs2 s)
/-- MUL (R222). -/
def execMul (rd rs1 rs2 : RegNo) (s : State) : Out := .next (regOp (fun a b => a * b) rd rs1 rs2 s)
/-- MULH (R222). -/
def execMulh (rd rs1 rs2 : RegNo) (s : State) : Out := .next (regOp (fun a b => mulHigh a b) rd rs1 rs2 s)
/-- MULHN (R222). -/
def execMulhn (rd rs1 rs2 : RegNo) (s : State) : Out := .next (regOp (fun a b => mulHighU a b) rd rs1 rs2 s)
/-- DIV (R222). -/
def execDiv (rd rs1 rs2 : RegNo) (s : State) : Out := .next (regOp (fun a b => divS a b) rd rs1 rs2 s)
/-- DIVN (R222). -/
def execDivn (rd rs1 rs2 : RegNo) (s : State) : Out := .next (regOp (fun a b => divU a b) rd rs1 rs2 s)
/-- REM (R222). -/
def execRem (rd rs1 rs2 : RegNo) (s : State) : Out := .next (regOp (fun a b => remS a b) rd rs1 rs2 s)
/-- REMN (R222). -/
def execRemn (rd rs1 rs2 : RegNo) (s : State) : Out := .next (regOp (fun a b => remU a b) rd rs1 rs2 s)
/-- MIN (R222). -/
def execMin (rd rs1 rs2 : RegNo) (s : State) : Out := .next (regOp (fun a b => minS a b) rd rs1 rs2 s)
/-- MAX (R222). -/
def execMax (rd rs1 rs2 : RegNo) (s : State) : Out := .next (regOp (fun a b => maxS a b) rd rs1 rs2 s)
/-- MINN (R222). -/
def execMinn (rd rs1 rs2 : RegNo) (s : State) : Out := .next (regOp (fun a b => minU a b) rd rs1 rs2 s)
/-- MAXN (R222). -/
def execMaxn (rd rs1 rs2 : RegNo) (s : State) : Out := .next (regOp (fun a b => maxU a b) rd rs1 rs2 s)
/-- SLT (R222). -/
def execSlt (rd rs1 rs2 : RegNo) (s : State) : Out := .next (regOp (fun a b => flagWord (a.slt b)) rd rs1 rs2 s)
/-- SLTN (R222). -/
def execSltn (rd rs1 rs2 : RegNo) (s : State) : Out := .next (regOp (fun a b => flagWord (a.ult b)) rd rs1 rs2 s)

/-! ### Immediate forms (R223) -/

/-- ADDI (R223). -/
def execAddi (rd rs1 : RegNo) (imm : Imm16) (s : State) : Out := .next (finish s rd (rs s rs1 + imm.signExtend 64))
/-- ANDI (R223). -/
def execAndi (rd rs1 : RegNo) (imm : Imm16) (s : State) : Out := .next (finish s rd (rs s rs1 &&& imm.zeroExtend 64))
/-- ORI (R223). -/
def execOri (rd rs1 : RegNo) (imm : Imm16) (s : State) : Out := .next (finish s rd (rs s rs1 ||| imm.zeroExtend 64))
/-- XORI (R223). -/
def execXori (rd rs1 : RegNo) (imm : Imm16) (s : State) : Out := .next (finish s rd (rs s rs1 ^^^ imm.zeroExtend 64))
/-- SHLI (R223). -/
def execShli (rd rs1 : RegNo) (sh : BitVec 6) (s : State) : Out := .next (finish s rd (rs s rs1 <<< sh.toNat))
/-- SHRI (R223). -/
def execShri (rd rs1 : RegNo) (sh : BitVec 6) (s : State) : Out := .next (finish s rd (rs s rs1 >>> sh.toNat))
/-- SARI (R223). -/
def execSari (rd rs1 : RegNo) (sh : BitVec 6) (s : State) : Out := .next (finish s rd ((rs s rs1).sshiftRight sh.toNat))
/-- LUI (R223). -/
def execLui (rd : RegNo) (imm : Imm16) (s : State) : Out := .next (finish s rd (luiValue imm))
/-- AUIP (R223). -/
def execAuip (rd : RegNo) (imm : Imm16) (s : State) : Out := .next (finish s rd ((curThr s).pc + luiValue imm))

/-! ### Branches and jumps (R224) -/

/-- JAL (R224). -/
def execJal (rd : RegNo) (imm : BitVec 21) (s : State) : Out :=
  .next (modCur s fun th => goTo (writeReg th rd (th.pc + 4)) (jalTarget th.pc imm))
/-- JALR (R224): the base is sampled before rd is written. -/
def execJalr (rd rs1 : RegNo) (imm : Imm16) (s : State) : Out :=
  .next (modCur s fun th => goTo (writeReg th rd (th.pc + 4)) (branchTarget (readReg th rs1) imm))

/-- A branch: continue at the target when the test holds, else at the next word. -/
def branch (test : Bool) (imm : Imm16) (s : State) : State :=
  modCur s fun th => if test then goTo th (branchTarget th.pc imm) else advance th

/-- BEQ (R224). -/
def execBeq (rs1 rs2 : RegNo) (imm : Imm16) (s : State) : Out := .next (branch (rs s rs1 == rs s rs2) imm s)
/-- BNE (R224). -/
def execBne (rs1 rs2 : RegNo) (imm : Imm16) (s : State) : Out := .next (branch (rs s rs1 != rs s rs2) imm s)
/-- BLT (R224). -/
def execBlt (rs1 rs2 : RegNo) (imm : Imm16) (s : State) : Out := .next (branch ((rs s rs1).slt (rs s rs2)) imm s)
/-- BGE (R224). -/
def execBge (rs1 rs2 : RegNo) (imm : Imm16) (s : State) : Out := .next (branch (!(rs s rs1).slt (rs s rs2)) imm s)
/-- BLTN (R224). -/
def execBltn (rs1 rs2 : RegNo) (imm : Imm16) (s : State) : Out := .next (branch ((rs s rs1).ult (rs s rs2)) imm s)
/-- BGEN (R224). -/
def execBgen (rs1 rs2 : RegNo) (imm : Imm16) (s : State) : Out := .next (branch (!(rs s rs1).ult (rs s rs2)) imm s)

/-! ### Loads and stores (R226 to R228) -/

/-- A data trap of the current thread; an access that misses waits for its page's walk instead (R352). -/
def accessTrap (s : State) (c : Nat) (va : Word) : State :=
  let e := ccEng s.cur.pkg s.cur.die
  let part := (curThr s).part
  if c = 0 then noteMiss s e part va.toNat 0 0 0 else trapCur (dropWalk s e part va.toNat) c va

/-- An earlier atomic with .acq or .ar has not read memory yet, so no later access is performed (R230). -/
def acqWaits (th : Thread) : Bool := th.loads.any (·.acq)

/-- A load (R226, R227): its checks in order, the watch filter (R401), then its request. -/
def issueLoad (rd rs1 : RegNo) (imm : Imm16) (size : Nat) (sext : Bool) (s : State) : State :=
  let th := curThr s
  let va := effAddr (readReg th rs1) imm
  match threadAccess s s.cur .read va size with
  | .error c => accessTrap s c va
  | .ok tg =>
    if ccWatch s s.cur .read va.toNat size then watchTrap s s.cur .read va (curThr s).pc
    else if 8 ≤ th.loads.length ∨ acqWaits th then s
    else
      let (i, s) := fresh s
      let ld : Load := { id := i, rd := rd, va := va, size := size, sext := sext, level := th.levels.length }
      let s := modCur s fun th => advance (sbSet { th with loads := th.loads ++ [ld] } rd)
      issueReq s s.cur.pkg s.cur.die (mkReq i tg .read size va.toNat th.part 0 (.load s.cur i))

/-- A store (R226, R227): its checks in order, then its request with the low bytes of the source. -/
def issueStore (src rs1 : RegNo) (imm : Imm16) (size : Nat) (s : State) : State :=
  let th := curThr s
  let va := effAddr (readReg th rs1) imm
  match threadAccess s s.cur .write va size with
  | .error c => accessTrap s c va
  | .ok tg =>
    if ccWatch s s.cur .write va.toNat size then watchTrap s s.cur .write va (curThr s).pc
    else if 16 ≤ (th.stores.filter (!·.atomic)).length ∨ acqWaits th then s
    else
      let (i, s) := fresh s
      let st : StoreOut := { id := i, va := va, size := size }
      let s := modCur s fun th => advance { th with stores := th.stores ++ [st] }
      issueReq s s.cur.pkg s.cur.die
        (mkReq i tg (.write (leBytes size (readReg th src).toNat) false) size va.toNat th.part 0 (.store s.cur i))

/-- LD8 (R226). -/
def execLd8 (rd rs1 : RegNo) (imm : Imm16) (s : State) : Out := .next (issueLoad rd rs1 imm 1 true s)
/-- LD8N (R226). -/
def execLd8n (rd rs1 : RegNo) (imm : Imm16) (s : State) : Out := .next (issueLoad rd rs1 imm 1 false s)
/-- LD16 (R226). -/
def execLd16 (rd rs1 : RegNo) (imm : Imm16) (s : State) : Out := .next (issueLoad rd rs1 imm 2 true s)
/-- LD16N (R226). -/
def execLd16n (rd rs1 : RegNo) (imm : Imm16) (s : State) : Out := .next (issueLoad rd rs1 imm 2 false s)
/-- LD32 (R226). -/
def execLd32 (rd rs1 : RegNo) (imm : Imm16) (s : State) : Out := .next (issueLoad rd rs1 imm 4 true s)
/-- LD32N (R226). -/
def execLd32n (rd rs1 : RegNo) (imm : Imm16) (s : State) : Out := .next (issueLoad rd rs1 imm 4 false s)
/-- LD64 (R226). -/
def execLd64 (rd rs1 : RegNo) (imm : Imm16) (s : State) : Out := .next (issueLoad rd rs1 imm 8 false s)
/-- ST8 (R226). -/
def execSt8 (src rs1 : RegNo) (imm : Imm16) (s : State) : Out := .next (issueStore src rs1 imm 1 s)
/-- ST16 (R226). -/
def execSt16 (src rs1 : RegNo) (imm : Imm16) (s : State) : Out := .next (issueStore src rs1 imm 2 s)
/-- ST32 (R226). -/
def execSt32 (src rs1 : RegNo) (imm : Imm16) (s : State) : Out := .next (issueStore src rs1 imm 4 s)
/-- ST64 (R226). -/
def execSt64 (src rs1 : RegNo) (imm : Imm16) (s : State) : Out := .next (issueStore src rs1 imm 8 s)

/-! ### Atomics (R229, R230) -/

/-- The new value of an atomic, and whether it writes (R229). -/
def amoValue (op : Nat) (cur v c : Word) : Word × Bool :=
  match op with
  | 0 => (cur + v, true)
  | 1 => (cur &&& v, true)
  | 2 => (cur ||| v, true)
  | 3 => (cur ^^^ v, true)
  | 4 => (v, true)
  | 5 => (minS cur v, true)
  | 6 => (maxS cur v, true)
  | 7 => if cur = c then (v, v != cur) else (cur, false)
  | _ => if v = 0 ∨ cur.ult v then (cur + 1, true) else (cur, false)

/-- The ordering holds back later accesses until the atomic has read memory (R230). -/
def ordAcq : AmoOrd → Bool
  | .acq | .ar => true
  | .rel => false
/-- The ordering waits for earlier accesses (R230). -/
def ordRel : AmoOrd → Bool
  | .rel | .ar => true
  | .acq => false

/-- Earlier loads have returned and earlier stores and atomics are performed (R230, R231). -/
def quietThread (th : Thread) : Bool := th.loads.isEmpty && th.stores.isEmpty

/-- An atomic (R229): its checks in order, its ordering, then its request to the owner of the doubleword. -/
def issueAmo (op : Nat) (rd rs1 rs2 : RegNo) (ord : AmoOrd) (s : State) : State :=
  let th := curThr s
  let va := readReg th rs1
  match threadAccess s s.cur .atomic va 8 with
  | .error c => accessTrap s c va
  | .ok tg =>
    if ccWatch s s.cur .atomic va.toNat 8 then watchTrap s s.cur .atomic va (curThr s).pc
    else if 8 ≤ th.loads.length ∨ acqWaits th ∨ (ordRel ord ∧ !quietThread th) then s
    else
      let (i, s) := fresh s
      let ld : Load := { id := i, rd := rd, va := va, acq := ordAcq ord, level := th.levels.length }
      let st : StoreOut := { id := i, va := va, atomic := true }
      let s := modCur s fun th =>
        advance (sbSet { th with loads := th.loads ++ [ld], stores := th.stores ++ [st] } rd)
      issueReq s s.cur.pkg s.cur.die
        (mkReq i tg (.atomic op (readReg th rs2) (readReg th rd)) 8 va.toNat th.part 0 (.load s.cur i))

/-- AMOADD (R229). -/
def execAmoadd (rd rs1 rs2 : RegNo) (ord : AmoOrd) (s : State) : Out := .next (issueAmo 0 rd rs1 rs2 ord s)
/-- AMOAND (R229). -/
def execAmoand (rd rs1 rs2 : RegNo) (ord : AmoOrd) (s : State) : Out := .next (issueAmo 1 rd rs1 rs2 ord s)
/-- AMOOR (R229). -/
def execAmoor (rd rs1 rs2 : RegNo) (ord : AmoOrd) (s : State) : Out := .next (issueAmo 2 rd rs1 rs2 ord s)
/-- AMOXOR (R229). -/
def execAmoxor (rd rs1 rs2 : RegNo) (ord : AmoOrd) (s : State) : Out := .next (issueAmo 3 rd rs1 rs2 ord s)
/-- AMOSWP (R229). -/
def execAmoswp (rd rs1 rs2 : RegNo) (ord : AmoOrd) (s : State) : Out := .next (issueAmo 4 rd rs1 rs2 ord s)
/-- AMOMIN (R229). -/
def execAmomin (rd rs1 rs2 : RegNo) (ord : AmoOrd) (s : State) : Out := .next (issueAmo 5 rd rs1 rs2 ord s)
/-- AMOMAX (R229). -/
def execAmomax (rd rs1 rs2 : RegNo) (ord : AmoOrd) (s : State) : Out := .next (issueAmo 6 rd rs1 rs2 ord s)
/-- AMOCAS (R229). -/
def execAmocas (rd rs1 rs2 : RegNo) (ord : AmoOrd) (s : State) : Out := .next (issueAmo 7 rd rs1 rs2 ord s)
/-- AMOINC (R229). -/
def execAmoinc (rd rs1 rs2 : RegNo) (ord : AmoOrd) (s : State) : Out := .next (issueAmo 8 rd rs1 rs2 ord s)

/-! ### Fences, events, traps (R231, R232, R262 to R264) -/

/-- Fetch starts again from memory for every thread of a die (R225). -/
def dropAhead (s : State) (pkg die : Nat) : State :=
  { s with threads := s.threads.map fun e =>
      if e.1.pkg = pkg ∧ e.1.die = die then (e.1, clearAhead e.2) else e }

/-- FENCE (R231): issue stops until earlier loads have returned and earlier stores and atomics are performed. It may be
the thread's acquire of instructions (R225), so its words are fetched again; one of .page or wider empties what every thread of
the die has fetched ahead (DESIGN CHOICE, log 141). -/
def execFence (sc : Scope) (s : State) : Out :=
  .next <|
    if !quietThread (curThr s) then s
    else
      let s := modCur s fun th => clearAhead (advance th)
      let s := if sc = .elem then s else dropAhead s s.cur.pkg s.cur.die
      if sc = .pkg ∨ sc = .dom ∨ sc = .sys then forgetFaults s s.cur.pkg else s

/-- NOP (R232). -/
def execNop (s : State) : Out := .next (modCur s advance)

/-- HALT (R232): waits as FENCE.sys does, then stops the thread. -/
def execHalt (s : State) : Out :=
  .next <|
    if !quietThread (curThr s) then s
    else modCur s fun th => { advance th with halted := true }

/-- WFE (R232): clears the event bit when it is set, otherwise waits. The bit may be a stream's, and so an acquire (R313). -/
def execWfe (s : State) : Out :=
  .next <| if (curThr s).event then modCur s fun th => { clearAhead (advance th) with event := false } else s

/-- Set a thread's event bit (R232). -/
def setEvent (s : State) (t : Tid) : State := modThr s t fun th => { th with event := true }

/-- SEV (R232): the event bit of each thread Tk of this core with s[rs1][k] = 1. -/
def execSev (rs1 : RegNo) (s : State) : Out :=
  let v := rs s rs1
  let hit := fun (s : State) (k : Nat) => if v.getLsbD k then setEvent s ⟨s.cur.pkg, s.cur.die, k⟩ else s
  .next ([0, 1, 2, 3].foldl hit (modCur s advance))

/-- TRAP (R262): the software trap, with cc_epc after the instruction. -/
def execTrap (imm : Imm16) (s : State) : Out :=
  .next (syncTrap s s.cur 0x000C (imm.zeroExtend 64) ((curThr s).pc + 4))

/-- ERET (R264); with ht = 0 it is an illegal instruction. -/
def execEret (s : State) : Out :=
  .next <| if (curThr s).ht then trapReturn s s.cur else trapCur s 0x0001 0x80000002

/-- ILLEGAL_INSTRUCTION (R106): the precise trap with the word in cc_tval. -/
def execIllegalInstruction (w : IWord) (s : State) : Out := .next (trapCur s 0x0001 (w.zeroExtend 64))

/-- The cause of a fetch fault (R332). -/
def fetchCause : FetchFault → Nat
  | .misaligned => 0x0003
  | .notPresent => 0x0007
  | .permission => 0x0008
  | .illegalAddress => 0x0009
  | .dataError => 0x000B

/-- FETCH_FAULT (R221, R225): the trap at the address that would issue next. -/
def execFetchFault (why : FetchFault) (s : State) : Out :=
  .next <|
    let th := curThr s
    trapCur (dropWalk s (ccEng s.cur.pkg s.cur.die) th.part th.pc.toNat) (fetchCause why) th.pc

/-! ### Control registers (R265 to R267) -/

/-- cc_status (R267). -/
def statusWord (th : Thread) : Word :=
  BitVec.ofNat 64 (2 * b2n th.ae + 8 * b2n th.ht + 32 * b2n th.lsq + 2 ^ 16 * Nat.min 15 th.levels.length +
    2 ^ 20 * Nat.min 15 th.pend.length)

/-- Read a control register (R266). -/
def readCsr (s : State) (t : Tid) (c : Nat) : Word :=
  let th := getThr s t
  match c with
  | 0x000 => statusWord th
  | 0x001 => th.cause
  | 0x002 => th.epc &&& ~~~3#64
  | 0x003 => th.tval
  | 0x004 => th.tinfo
  | 0x005 => th.tcoord
  | 0x006 => th.tvec &&& ~~~3#64
  | 0x007 => th.hnote
  | 0x010 => th.lid
  | 0x011 => BitVec.ofNat 64 th.agid
  | 0x012 => BitVec.ofNat 64 th.part
  | 0x013 => BitVec.ofNat 64 (t.thr + 4 * t.die + 16 * t.pkg)
  | 0x014 => th.ibase
  | 0x020 => BitVec.ofNat 64 (getPkg s t.pkg).time
  | _ => 0

/-- Write a control register (R266, R267): fields marked RO are kept. -/
def writeCsr (th : Thread) (c : Nat) (v : Word) : Thread :=
  match c with
  | 0x000 => { th with ae := v.getLsbD 1, lsq := th.lsq && v.getLsbD 5 }
  | 0x002 => { th with epc := v &&& ~~~3#64 }
  | 0x006 => { th with tvec := v &&& ~~~3#64 }
  | 0x007 => { th with hnote := v }
  | 0x010 => { th with lid := v }
  | 0x014 => { th with ibase := v }
  | _ => th

/-- CSRRD (R265). -/
def execCsrrd (rd : RegNo) (csr : BitVec 12) (s : State) : Out := .next (finish s rd (readCsr s s.cur csr.toNat))
/-- CSRWR (R265). -/
def execCsrwr (rs1 : RegNo) (csr : BitVec 12) (s : State) : Out :=
  .next (modCur s fun th => advance (writeCsr th csr.toNat (readReg th rs1)))
/-- CSRSET (R265). -/
def execCsrset (rs1 : RegNo) (csr : BitVec 12) (s : State) : Out :=
  let old := readCsr s s.cur csr.toNat
  .next (modCur s fun th => advance (writeCsr th csr.toNat (old ||| readReg th rs1)))
/-- CSRCLR (R265). -/
def execCsrclr (rs1 : RegNo) (csr : BitVec 12) (s : State) : Out :=
  let old := readCsr s s.cur csr.toNat
  .next (modCur s fun th => advance (writeCsr th csr.toNat (old &&& ~~~(readReg th rs1))))

/-! ### What reaches a thread -/

/-- The value a load writes (R226). -/
def loadValue (ld : Load) (bs : List Byte) : Word :=
  if ld.sext then wordOfInt (sext (8 * ld.size) (leNat bs)) else leWord bs

/-- The answer of a thread's request, when it has been performed. -/
def answerOf (s : State) (f : ReqFrom) : Option Req := s.reqs.find? fun r => r.from_ = f ∧ r.st = .done

/-- Take a request out of the list. -/
def dropReq (s : State) (i : Nat) : State := { s with reqs := s.reqs.filter fun r => r.id != i }

/-- LOAD_RETURN (R227, R347): the data of the load named n is written to rd and its scoreboard bit cleared; a squashed
load is discarded and sets lsq; an uncorrectable result leaves rd unchanged and is deferred. So is a refusal that the owner
made on arrival, as data permission (log 18). The return of an acquiring atomic drops what was fetched ahead (R225). -/
def execLoadReturn (t : Tid) (n : Nat) (s : State) : Out :=
  .next <|
    match (getThr s t).loads.find? (·.id = n), answerOf s (.load t n) with
    | some ld, some r =>
      let s := dropReq s r.id
      modThr s t fun th =>
        let th := { th with loads := th.loads.filter (·.id != n), stores := th.stores.filter (·.id != n) }
        let th := if ld.acq then clearAhead th else th
        if ld.squashed then { th with lsq := true }
        else if r.bad ∨ r.denied then
          sbClear { th with errs := th.errs ++ [{ rd := some ld.rd, va := ld.va, level := ld.level,
                                                  cause := if r.denied then 0x0005 else 0x000A }] } ld.rd
        else sbClear (writeReg th ld.rd (loadValue ld r.data)) ld.rd
    | _, _ => s

/-- LOAD_DATA_ERROR (R227): the deferred error is raised before the instruction that would issue next, when that is one
of the events R227 names. -/
def execLoadDataError (t : Tid) (s : State) : Out :=
  .next <|
    let th := getThr s t
    if !mayIssue th then s
    else match nextWord s t with
      | .error _ => s
      | .ok w =>
        match decode w with
        | .error _ => s
        | .ok i => if !hazard th i && raisesError th i then loadErrorTrap (modThr s t (errFirst · i)) t else s

/-- The deferred error of a store that its owner refused on arrival (R351, log 18). -/
def storeErr (th : Thread) (n : Nat) (r : Req) : Thread :=
  match th.stores.find? (·.id = n) with
  | some st => if r.denied then { th with errs := th.errs ++ [{ va := st.va, cause := 0x0005 }] } else th
  | none => th

/-- WRITE_ACKNOWLEDGEMENT (R231): the store named n has been performed, so its slot is free. -/
def execWriteAcknowledgement (t : Tid) (n : Nat) (s : State) : Out :=
  .next <|
    match answerOf s (.store t n) with
    | some r =>
      modThr (dropReq s r.id) t fun th => { storeErr th n r with stores := th.stores.filter (·.id != n) }
    | none => s

/-- ASYNC_TRAP_ENTRY (R263): with ae 1 and ht 0 the thread takes the oldest pending report, between instructions or
during a blocking wait. A halted or stopped thread takes no trap (R232, R394); one whose pc is misaligned meets the
fetch-misaligned fault of its jump first (R221). -/
def execAsyncTrapEntry (t : Tid) (s : State) : Out :=
  .next <|
    let th := getThr s t
    match th.pend with
    | [] => s
    | r :: rest =>
      if !th.ae || th.ht || th.halted || th.stopped || decide (th.pc.toNat % 4 ≠ 0) then s
      else if !th.errs.isEmpty then loadErrorTrap s t
      else
        let s := modThr s t fun th => { th with pend := rest }
        enterTrap s t { cause := r.cause, async := true, tval := r.tval, tinfo := r.tinfo, tcoord := r.tcoord,
                        lid := r.lid, held := r.held, tagged := r.tagged } th.pc th.tvec

/-- PENDING_REPORT_ARRIVAL (R330, R263): report n takes its place in its thread's queue of 16, after the earlier reports
of its engine to that thread; when the queue is full the engine keeps it. -/
def execPendingReportArrival (n : Nat) (s : State) : Out :=
  .next <|
    match s.reports[n]? with
    | none => s
    | some r =>
      if (s.reports.take n).any (fun q => q.dest = r.dest ∧ q.src = r.src) ∨ 16 ≤ (getThr s r.dest).pend.length then s
      else
        let s := modThr s r.dest fun th => { th with pend := th.pend ++ [r] }
        { s with reports := s.reports.eraseIdx n }

end Sys2Proof.Machine
end

