-- ==== Sys2Proof/Machine/Graphs.lean ====
section
/-!
DEFINITION. Machine/Graphs.lean: operators of loaded graphs, tags, colours and live counts, and the emission and
consumption of tokens (spec/01 R16 to R22, spec/04 R93, R94, spec/05 R112 to R119, R132).
-/
namespace Sys2Proof.Machine

/-! ### Operator words (R93) -/

/-- An operator of a loaded graph: package and handle, graph, entry index, operator. -/
structure OpRef where
  key : Nat × Nat
  g : Graph
  i : Nat
  op : Op

/-- Bits of the operator word. -/
def opBits (o : Op) (hi lo : Nat) : Nat := bits o.word.toNat hi lo
/-- The kind code (R92). -/
def opKind (o : Op) : Nat := opBits o 255 248
/-- ctok. -/
def opCtok (o : Op) : Bool := o.word.getLsbD 242
/-- dfm. -/
def opDfm (o : Op) : Bool := o.word.getLsbD 241
/-- trc. -/
def opTrc (o : Op) : Bool := o.word.getLsbD 240
/-- rid. -/
def opRid (o : Op) : Nat := opBits o 239 232
/-- depth. -/
def opDepth (o : Op) : Nat := opBits o 231 229
/-- nout. -/
def opNout (o : Op) : Nat := opBits o 228 226
/-- pmask: bit 0 left, 1 right, 2 predicate. -/
def opPmask (o : Op) : Nat := opBits o 225 223
/-- prio: urgent. -/
def opPrio (o : Op) : Bool := o.word.getLsbD 222
/-- The share weight. -/
def opShare (o : Op) : Nat := opBits o 221 216 + 1
/-- The type (R89). -/
def opType (o : Op) : Nat := opBits o 211 208
/-- Configuration word k. -/
def opCfg (o : Op) (k : Nat) : Nat := ((o.cfg[k]?).getD 0).toNat

/-- The operator in a slot of an engine. -/
def findOp (s : State) (e : Eng) (slot : Nat) : Option OpRef :=
  s.graphs.findSome? fun k =>
    if k.1.1 ≠ e.pkg then none
    else
      match k.2.ops.findIdx? fun o => o.eng = e ∧ o.slot = slot with
      | some i => (k.2.ops[i]?).map fun o => { key := k.1, g := k.2, i := i, op := o }
      | none => none

/-- The operator of a graph by entry index. -/
def opRef (key : Nat × Nat) (g : Graph) (i : Nat) : Option OpRef :=
  (g.ops[i]?).map fun o => { key := key, g := g, i := i, op := o }

/-- The operator of a graph at a coordinate, by its entry index. -/
def opAtCoord (g : Graph) (c : Coord) : Option Nat := g.ops.findIdx? fun o => o.eng = c.eng ∧ o.slot = c.slot

/-- An operator's own coordinate. -/
def opCoord (o : Op) : Coord := { eng := o.eng, slot := o.slot }

/-- The physical page of a die offset and a page offset from the set origin (R271). -/
def relocPage (g : Graph) (k p : Nat) : Nat × Nat :=
  let r := (g.reloc[k]?).getD (0, 0, 0)
  (r.1, (r.2.1 + p / 4) * 4 + r.2.2 + p % 4)

/-- The coordinate that a 22-bit consumer entry names (R94). A die-edge engine keeps its index. -/
def entryCoord (pkg : Nat) (g : Graph) (v : Nat) : Coord :=
  let el := bits v 12 8
  let q := relocPage g (bits v 18 17) (bits v 16 13)
  { eng := ⟨pkg, q.1, if el ≤ 21 then q.2 else bits v 16 13, el⟩, slot := bits v 7 2, pos := bits v 1 0 }

/-- A tile named by die offset and handle from the set origin. -/
def relocTile (pkg : Nat) (g : Graph) (k h : Nat) : TileId :=
  let q := relocPage g k (h / 4096)
  { pkg := pkg, die := q.1, handle := q.2 * 4096 + h % 4096 }

/-! ### Tags (R16) -/

/-- Field d of a tag: ctx[7:0] for 0, colour cd for d. -/
def tagField (t : Word) (d : Nat) : Nat := bits t.toNat (55 - 8 * d) (48 - 8 * d)

/-- The function region a context names. -/
def tagFunc (t : Word) : Nat := bits t.toNat 63 56

/-- Write colour c into field d. -/
def setField (t : Word) (d c : Nat) : Word :=
  let lo := 48 - 8 * d
  BitVec.ofNat 64 (t.toNat - tagField t d * 2 ^ lo + c % 256 * 2 ^ lo)

/-- Clear the fields deeper than d. -/
def clearDeeper (t : Word) (d : Nat) : Word := BitVec.ofNat 64 (t.toNat / 2 ^ (48 - 8 * d) * 2 ^ (48 - 8 * d))

/-- Two tags agree in ctx and every field up to depth d. -/
def tagAgrees (a b : Word) (d : Nat) : Bool := clearDeeper a d == clearDeeper b d

/-- The virtual row of a token for an operator (R23). -/
def vrowOf (o : Op) (tag : Word) : Nat := o.frame + tagField tag (opDepth o)

/-! ### Colours (R17 to R22, R117) -/

/-- A region of a graph. -/
def getRegion (s : State) (k : ColKey) : Option Region := (getGraph s (k.pkg, k.graph)).bind fun g => g.regions[k.region]?

/-- Change a region. -/
def modRegion (s : State) (pkg graph region : Nat) (f : Region → Region) : State :=
  modGraph s (pkg, graph) fun g => { g with regions := lmod region f g.regions }

/-- A colour record. -/
def getCol (s : State) (k : ColKey) : Colour := ((getRegion s k).bind fun r => r.recs[k.colour]?).getD {}

/-- Change a colour record. -/
def modCol (s : State) (k : ColKey) (f : Colour → Colour) : State :=
  modRegion s k.pkg k.graph k.region fun r => { r with recs := lmod k.colour f r.recs }

/-- The colour that a token with a tag counts against at an operator (R116). -/
def colKeyAt (key : Nat × Nat) (o : Op) (tag : Word) : ColKey :=
  { pkg := key.1, graph := key.2, region := opRid o, colour := tagField tag (opDepth o) }

/-- The enclosing colour of a tag at depth d of a region: field d - 1 in the parent region (R20). -/
def enclosing (key : Nat × Nat) (g : Graph) (region : Nat) (tag : Word) (d : Nat) : ColKey :=
  { pkg := key.1, graph := key.2, region := ((g.regions[region]?).map (·.parent)).getD 0, colour := tagField tag (d - 1) }

/-- The operator of a list whose coordinate is lowest: die, page, element, slot. -/
def lowestOp (l : List Op) : Option Op :=
  l.foldl (fun b o => match b with
    | none => some o
    | some x => if coordNat (opCoord o) < coordNat (opCoord x) then some o else some x) none

/-- The operator on a region's home engine (R117): the lowest SOURCE for the root region, a NEXT or EXIT of a loop, and
the operator of inline entry 0 of the lead CALL of a function. -/
def homeOf (g : Graph) (region : Nat) : Option Op :=
  if region = 0 then lowestOp (g.ops.filter fun o => decide (opRid o = 0) && decide (opKind o = 0x01))
  else
    match g.ops.find? fun o => decide (opRid o = region) && decide (opKind o = 0x05 ∨ opKind o = 0x06) with
    | some o => some o
    | none =>
      match g.ops.find? fun o => decide (opKind o = 0x07) && decide (bits (opCfg o 0) 7 0 = region) &&
          decide (bits (opCfg o 0) 11 8 = 0) with
      | some c => (c.cons.head?).bind fun e => g.ops.find? fun o => o.eng = e.dst.eng ∧ o.slot = e.dst.slot
      | none => none

/-- The home engine's coordinate. -/
def homeCoord (s : State) (k : ColKey) : Coord :=
  (((getGraph s (k.pkg, k.graph)).bind fun g => homeOf g k.region).map opCoord).getD {}

/-- A root instance has returned, so its launch completes (R120, R281). -/
def rootReturned (s : State) (k : ColKey) : State :=
  { s with launches := s.launches.map fun e =>
      if e.1.1 = k.pkg ∧ e.2.record.graph = k.graph ∧ e.2.root = some k.colour ∧ e.2.state = 1
      then (e.1, { e.2 with state := 2, root := none }) else e }

/-- Return colours: a busy, closed colour with live 0 goes back to its list with its record zeroed and its linkage slot
cleared, and releases its hold, which may return the enclosing colour (R22, R124, R127). fuel bounds the chain. -/
def settle : Nat → State → ColKey → State
  | 0, s, _ => s
  | n + 1, s, k =>
    let c := getCol s k
    if c.busy && c.closed && decide (c.live = 0) then
      let home := homeCoord s k
      let part := ((getGraph s (k.pkg, k.graph)).map (·.part)).getD 0
      let s :=
        if c.pbal = 0 then s
        else
          raiseAt s home part c.lid 0x0107
            ((c.pbal % 2 ^ 16).toNat + k.colour * 2 ^ 16 + k.region * 2 ^ 24) 0
      let s := match c.closer with
        | some (e, slot) =>
          stageTrace s e.pkg e.die part 0 (k.colour + k.region * 256) (coordNat { eng := e, slot := slot }) c.lid 0x03
        | none => s
      let s := modRegion s k.pkg k.graph k.region fun r =>
        { r with recs := lmod k.colour (fun _ => {}) r.recs, free := r.free ++ [k.colour],
                 tail := (r.tail + 1) % Nat.max 1 r.cap, links := tdel k.colour r.links }
      let s := if k.region = 0 then rootReturned s k else s
      match c.hold with
      | some h => settle n (modCol s h fun x => { x with live := x.live - 1 }) h
      | none => s
    else s

/-- The longest chain of holds: one for each colour of a package's graphs would be enough. -/
def settleFuel : Nat := 65536

/-- The greatest live count (R21). -/
def liveMax : Nat := 2 ^ 24 - 1

/-- An increment would not carry live beyond its greatest value; else the producing operator waits (R21). -/
def liveRoom (s : State) (k : ColKey) : Bool := decide ((getCol s k).live < liveMax)

/-- Add one to a live count. -/
def holdLive (s : State) (k : ColKey) : State := modCol s k fun c => { c with live := c.live + 1 }

/-- Take one from a live count, and return the colour when it is due. -/
def dropLive (s : State) (k : ColKey) : State :=
  settle settleFuel (modCol s k fun c => { c with live := c.live - 1 }) k

/-- Draw the colour at the head of a region's list (R18); it is busy and holds its enclosing colour (R20). -/
def drawColour (s : State) (pkg graph region lid : Nat) (hold : Option ColKey) (closed : Bool) : Option (Nat × State) :=
  match (getRegion s { pkg := pkg, graph := graph, region := region }).map (·.free) with
  | some (c :: rest) =>
    let s := modRegion s pkg graph region fun r =>
      { r with free := rest, head := (r.head + 1) % Nat.max 1 r.cap,
               recs := lmod c (fun _ => { busy := true, closed := closed, hold := hold, lid := lid }) r.recs }
    let s := match hold with
      | some h => holdLive s h
      | none => s
    some (c, s)
  | _ => none

/-- The closing of a colour by one of its carried tokens (R123). -/
def closeColour (s : State) (k : ColKey) (by_ : Option (Eng × Nat)) : State :=
  let w := ((getRegion s k).map (·.width)).getD 1
  modCol s k fun c =>
    let n := c.closes + 1
    { c with closes := n, closed := c.closed || decide (n = w), closer := if n = w then by_ else c.closer }

/-! ### Tile tokens (R14, R91) -/

/-- The tile that a tile token names: on the package named in src. -/
def tokTile (t : Token) : TileId :=
  { pkg := t.src.eng.pkg, die := bits t.opw.toNat 17 16, handle := bits t.opw.toNat 15 0 }
/-- Its rows. -/
def tokRows (t : Token) : Nat := bits t.opw.toNat 39 32 + 1
/-- Its columns. -/
def tokCols (t : Token) : Nat := bits t.opw.toNat 47 40 + 1
/-- Its format. -/
def tokFmt (t : Token) : Nat := bits t.opw.toNat 51 48
/-- Its block-scale mode. -/
def tokMode (t : Token) : Nat := bits t.opw.toNat 53 52

/-- The operand word of a tile token. -/
def tileOpw (id : TileId) (rows cols fmt mode : Nat) : BitVec 128 :=
  BitVec.ofNat 128 (id.handle + id.die * 2 ^ 16 + (rows - 1) * 2 ^ 32 + (cols - 1) * 2 ^ 40 + fmt * 2 ^ 48 + mode * 2 ^ 52)

/-- The value of a scalar token. -/
def tokScalar (t : Token) : Nat := bits t.opw.toNat 63 0

/-! ### Containment membership (R132) -/

/-- The instances, not idle, of which an operator is a member and whose key a tag matches: record, frame row. -/
def instancesOf (r : OpRef) (tag : Word) : List (Nat × Nat) :=
  (r.g.conts.zipIdx).flatMap fun c =>
    if c.1.members.contains r.i then
      let d := ((r.g.ops[c.1.copen]?).map opDepth).getD 0
      (c.1.insts.filter fun x => decide (x.2.state ≠ 0) && tagAgrees x.2.key tag d).map fun x => (c.2, x.1)
    else []

/-- An instance of a graph. -/
def getInst (g : Graph) (rec row : Nat) : Inst := ((g.conts[rec]?).map fun c => tget {} row c.insts).getD {}

/-- Change an instance. -/
def modInst (s : State) (key : Nat × Nat) (rec row : Nat) (f : Inst → Inst) : State :=
  modGraph s key fun g => { g with conts := lmod rec (fun c => { c with insts := tmod {} row f c.insts }) g.conts }

/-- An operator is a member of an instance for a tag that has begun to unwind and has not been replayed or abandoned: "from
then on" takes in the time for which it is held (R135; log 139). -/
def unwindingAt (r : OpRef) (tag : Word) : Bool := (instancesOf r tag).any fun x => decide (2 ≤ (getInst r.g x.1 x.2).state)

/-- Add to pend of every instance that has the operator as a member for a tag. -/
def addPend (s : State) (r : OpRef) (tag : Word) (up : Bool) : State :=
  (instancesOf r tag).foldl (fun s x => modInst s r.key x.1 x.2 fun i =>
    { i with pend := if up then i.pend + 1 else i.pend - 1 }) s

/-! ### Emission and consumption (R21, R112) -/

/-- The path id of an in-package packet (R367). -/
def pathInPackage (src dst : Eng) : Nat := 0x800 + src.die * 512 + dst.die * 128 + dst.page * 8

/-- A token to a consumer: the fields of R112 from a template, with tag fields deeper than the consumer's depth clear. -/
def addressed (r : OpRef) (dst : Coord) (t : Token) : Token :=
  let d := (opAtCoord r.g dst).bind fun i => r.g.ops[i]?
  { t with dst := dst, src := opCoord r.op, tag := clearDeeper t.tag ((d.map opDepth).getD 0), urg := opPrio r.op,
           vc := if t.kind = 4 then 1 else 0, hops := 0, seq := 0, rply := false,
           path := pathInPackage r.op.eng dst.eng }

/-- The tokens of a port for its consumers, in entry order (R94). -/
def toPort (r : OpRef) (port : Nat) (t : Token) : List Token :=
  (r.op.cons.filter (·.port = port)).map fun c => addressed r c.dst t

/-- The tokens of every port. -/
def toAllPorts (r : OpRef) (t : Token) : List Token := r.op.cons.map fun c => addressed r c.dst t

/-- No emission would carry a tile's refs beyond 255 (R31). -/
def refsRoom (s : State) (toks : List Token) : Bool :=
  toks.all fun t => t.kind ≠ 1 ||
    decide ((getTile s (tokTile t)).refs + (toks.filter fun u => u.kind = 1 ∧ tokTile u = tokTile t).length ≤ 255)

/-- Emit one token of an activation with tag at_: its increment goes to the home engine of the colour it counts against
and releases it (R21). Its tile gains a reference, and a member token raises pend. Emissions of a member activation of an
unwinding instance are discarded (R135). -/
def emitTok (r : OpRef) (fid : Nat) (at_ : Word) (s : State) (t : Token) : State :=
  if unwindingAt r at_ then s
  else
    let s := if t.kind = 1 then modTile s (tokTile t) fun x => { x with refs := x.refs + 1 } else s
    match (getGraph s r.key).bind fun g => (opAtCoord g t.dst).bind fun i => opRef r.key g i with
    | some c =>
      let steer := decide (t.kind = 4) && decide (t.dst.pos = 2) && decide (opKind c.op = 0x09 ∨ opKind c.op = 0x0A)
      let s := addPend s c t.tag true
      { s with updates := s.updates ++ [{ firing := fid, key := colKeyAt r.key c.op t.tag, inc := true, tok := some t,
                                          pb := if steer then 1 else 0, lid := t.lid }] }
    | none => { s with inFlight := s.inFlight ++ [t] }

/-- Emit tokens of an activation with tag at_, in order. -/
def emitToks (s : State) (r : OpRef) (fid : Nat) (at_ : Word) (toks : List Token) : State := toks.foldl (emitTok r fid at_) s

/-- Consume one token at an operator: a decrement follows the increments of the same firing (R21). A predicate token of a
GSTEER or GMERGE takes one from pbal, whether a firing or an unwinding consumes it (R127 names only firings; log 26). -/
def consumeTok (r : OpRef) (fid : Nat) (retire : Bool) (s : State) (t : Token) : State :=
  let s := addPend s r t.tag false
  let steer := decide (t.kind = 4) && decide (t.dst.pos = 2) && decide (opKind r.op = 0x09 ∨ opKind r.op = 0x0A)
  let s := { s with updates := s.updates ++ [{ firing := fid, key := colKeyAt r.key r.op t.tag, inc := false,
                                               tok := if steer then some t else none,
                                               pb := if steer then -1 else 0, lid := t.lid }] }
  let s := touch s r.key.1 t.lid
  if retire && decide (t.kind = 1) then { s with retires := s.retires ++ [{ tile := tokTile t }] } else s

/-- Consume tokens. -/
def consumeToks (s : State) (r : OpRef) (fid : Nat) (retire : Bool) (toks : List Token) : State :=
  toks.foldl (consumeTok r fid retire) s

/-! ### Matching-store rows (R23, R24) -/

/-- The activations in progress in an engine's compute unit: the one that runs, and an island's WLOAD. -/
def runs (x : Engine) : List Run := x.run.toList ++ x.wload.toList

/-- The row of a virtual row and slot. -/
def findRow (x : Engine) (slot vrow : Nat) : Option Row := x.rows.find? fun r => r.slot = slot ∧ r.vrow = vrow

/-- The tokens a row holds, left, right, predicate. -/
def rowToks (r : Row) : List Token := r.l.toList ++ r.r.toList ++ r.p.toList

/-- Replace a row; an unoccupied row with no trigger is removed. -/
def putRow (x : Engine) (r : Row) : Engine :=
  let rest := x.rows.filter fun q => !(decide (q.slot = r.slot) && decide (q.vrow = r.vrow))
  if (rowToks r).isEmpty && r.trig.isNone then { x with rows := rest } else { x with rows := rest ++ [r] }

/-- Remove a row. -/
def dropRow (x : Engine) (slot vrow : Nat) : Engine :=
  { x with rows := x.rows.filter fun q => !(decide (q.slot = slot) && decide (q.vrow = vrow)) }

/-- Change the moving state of a slot. -/
def modSlot (s : State) (e : Eng) (slot : Nat) (f : SlotDyn → SlotDyn) : State :=
  modEng s e fun x => { x with slots := tmod {} slot f x.slots }

/-- Set sticky flags of a slot (R29, R48). -/
def setFlags (s : State) (e : Eng) (slot fl : Nat) : State := modSlot s e slot fun d => { d with flags := d.flags ||| fl }

/-- A firing is counted, and traced when trc is set (R397, R398). -/
def countFiring (s : State) (r : OpRef) (tag : Word) (lid wait : Nat) : State :=
  let s := modSlot s r.op.eng r.op.slot fun d => { d with fires := (d.fires + 1) % 2 ^ 32 }
  if opTrc r.op then
    stageTrace s r.op.eng.pkg r.op.eng.die r.g.part tag (Nat.min wait (2 ^ 32 - 1)) (coordNat (opCoord r.op)) lid 0x01
  else s

/-! ### Faults of operators (R27, R119, R142) -/

/-- Room in an engine's fault record of 64 tokens (R336). -/
def faultRoom (s : State) (e : Eng) (n : Nat) : Bool := decide ((getEng s e).fault.length + n ≤ 64)

/-- Set tokens aside in an engine's fault record, still counted live (R27). -/
def setAsideToks (s : State) (e : Eng) (slot vrow why : Nat) (toks : List Token) : State :=
  modEng s e fun x => { x with fault := x.fault ++ toks.map fun t => { tok := t, slot := slot, vrow := vrow, why := why } }

/-- An operator fault that cannot be resumed: its tokens are set aside and the report is raised (R336). -/
def opFault (s : State) (r : OpRef) (vrow : Nat) (toks : List Token) (cause tval : Nat) : State :=
  let lid := ((toks.head?).map (·.lid)).getD 0
  let tag := ((toks.head?).map (·.tag)).getD 0
  raiseAt (noteFault (setAsideToks s r.op.eng r.op.slot vrow 2 toks) r.key.1 lid 3) (opCoord r.op) r.g.part lid cause
    tval tag

/-- Tokens that a member of an instance consumed with a bad value make the innermost instance unwind (R135, R382): the
tokens are counted as consumed. A member activation still in progress that meets a bad value in an instance that unwinds
already completes the same way. -/
def unwindInst (s : State) (r : OpRef) (fid : Nat) (toks : List Token) (x : Nat × Nat) : State :=
  let s := modInst s r.key x.1 x.2 fun i => if i.state = 1 then { i with state := 2, bad := opCoord r.op } else i
  consumeToks s r fid true toks

/-- The innermost instance that an operator's tag is inside: the one whose COPEN is deepest (R135). -/
def innermost (r : OpRef) (tag : Word) : Option (Nat × Nat) :=
  let xs := (instancesOf r tag).filter fun x => decide ((getInst r.g x.1 x.2).state = 1 ∨ (getInst r.g x.1 x.2).state = 2)
  let size := fun x : Nat × Nat => ((r.g.conts[x.1]?).map fun c => c.members.length).getD 0
  xs.foldl (fun b x => match b with
    | none => some x
    | some y => if size x < size y then some x else some y) none

/-- A residue or mod-3 mismatch, or an uncorrectable read of a memory tile (R382): unwinding inside an open instance,
else silent-data with the residues expected and found. -/
def silentData (s : State) (r : OpRef) (vrow : Nat) (toks : List Token) (expected found : Nat) : State :=
  let tag := ((toks.head?).map (·.tag)).getD 0
  match innermost r tag with
  | some x => let (f, s) := fresh s; unwindInst s r f toks x
  | none => opFault s r vrow toks 0x0208 (expected + found * 2 ^ 16)

/-- Poison consumed by a kind that is no flow operator (R170): unwinding inside an open instance, else the tokens are
set aside with a poison status and no trap. -/
def poisonConsumed (s : State) (r : OpRef) (vrow : Nat) (toks : List Token) : State :=
  let tag := ((toks.head?).map (·.tag)).getD 0
  match innermost r tag with
  | some x => let (f, s) := fresh s; unwindInst s r f toks x
  | none => setAsideToks s r.op.eng r.op.slot vrow 3 toks

end Sys2Proof.Machine
end

