-- ==== Sys2Proof/Machine/NumFmt.lean ====
section
/-!
DEFINITION. Machine/NumFmt.lean: element formats, absent codes, exact values and rounding (spec/02 R43 to R65).
-/
namespace Sys2Proof.Machine

/-! ### Format codes (R89, R43) -/

/-- Bytes of an element of a format (R89). -/
def elemBytes (f : Nat) : Nat :=
  match f with
  | 0x0 | 0x8 | 0xB => 4
  | 0x1 | 0x2 | 0x7 | 0xA => 2
  | _ => 1

/-- Bits of an element of a format. -/
def elemBits (f : Nat) : Nat := 8 * elemBytes f

/-- A format accepted for tiles, tokens and bursts (R89). -/
def tileFormat (f : Nat) : Bool := decide (f ≤ 0xD)

/-- A floating-point format. -/
def isFloat (f : Nat) : Bool := decide (f ≤ 4)
/-- A signed integer format. -/
def isSigned (f : Nat) : Bool := decide (6 ≤ f) && decide (f ≤ 8)
/-- An unsigned integer format. -/
def isUnsigned (f : Nat) : Bool := decide (9 ≤ f) && decide (f ≤ 11)
/-- A format whose chunks have a scale area (R295). -/
def isScaled (f : Nat) : Bool := decide (3 ≤ f) && decide (f ≤ 5)

/-- The absent code of a format (R43); E8M0 and pred have none. -/
def absentCode (f : Nat) : Option Nat :=
  match f with
  | 0x0 | 0xB => some 0xFFFFFFFF
  | 0x1 | 0x2 | 0xA => some 0xFFFF
  | 0x3 | 0x4 | 0x9 => some 0xFF
  | 0x5 => some 0x20
  | 0x6 => some 0x80
  | 0x7 => some 0x8000
  | 0x8 => some 0x80000000
  | _ => none

/-- The bits written where a format has an absent code, else zero. -/
def absentOf (f : Nat) : Nat := (absentCode f).getD 0

/-- An element is absent (R42, R45). -/
def isAbsent (f c : Nat) : Bool :=
  if f = 5 then c % 64 = 0x20 else absentCode f = some c

/-! ### Exact values -/

/-- The number m / d × 2^e × 2^(r/4). Every present value of every format is one (R44, R45). -/
structure Num where
  m : Int := 0
  d : Nat := 1
  e : Int := 0
  r : Nat := 0
  deriving DecidableEq, Repr, Inhabited

/-- A decoded element. The sign of fin is that of its value, or of its zero. -/
inductive Val where
  | absent
  | nan
  | inf (neg : Bool)
  | fin (neg : Bool) (x : Num)
  deriving DecidableEq, Repr, Inhabited

/-- floor(2^(k/4) × 2^1024) for k = 0 to 3. -/
def root4 (k : Nat) : Nat :=
  match k with
  | 0 => 2 ^ 1024
  | 1 => 0x1306FE0A31B7152DE8D5A46305C85EDECBC27343629F502F1AF16CB97DF4F76DF7C8F869A7004A1509D3F29DC1921B77AC99AF6480FA535C4BCF5067CDE8AF5BFE88AB481AD0D1497113905116F1D93FE03D0F635F6A96FCA3345C344FC483E801284B29DB93DB819ADE11F9E687D94B855C89F45309B6F5EB739F514CD06223A
  | 2 => 0x16A09E667F3BCC908B2FB1366EA957D3E3ADEC17512775099DA2F590B0667322A95F90608757145875163FCDFB907B6721EE950BC8738F694F0090E6C7BF44ED1A4405D0E855E3E9CA60B38C0237866F7956379222D108B148C1578E45EF89C678DAB5147176FD3B99654C68663E7909BEA5E241F06DCB05DD549411320819495
  | _ => 0x1AE89F995AD3AD5E8734D1773205A7FBC3AE675EA440B162D6B8275B41CEF0533DF603FB4669795350248E8B1F6C3CAECE360AF48F58D99083FEEC2C4B5F406AF95DA59427183EB7E97348C1F091F5D490F3BC4335CD1F742FC885CF8C913A4131AC3F1B5DA52E1B8A9A38E50AB657E9447140D9368D2A0A159282B73F0E0E926

/-- A number of a whole. -/
def numOf (i : Int) : Num := { m := i }

/-- 2^k of a natural number k, as a factor with an integer exponent. -/
def pow2 (k : Int) : Nat := 2 ^ k.toNat

/-- A number without a fourth root: an irrational one is replaced by a rational one that lies strictly between the same
neighbours of 1024 bits, so it rounds alike. -/
def rational (x : Num) : Num :=
  if x.r % 4 = 0 ∨ x.m = 0 then { x with e := x.e + (x.r / 4 : Nat), r := 0 }
  else
    let s : Int := if x.m < 0 then -1 else 1
    { m := x.m * 2 * root4 (x.r % 4) + s, d := x.d, e := x.e + (x.r / 4 : Nat) - 1025, r := 0 }

/-- Exact product. -/
def numMul (x y : Num) : Num :=
  { m := x.m * y.m, d := x.d * y.d, e := x.e + y.e + ((x.r + y.r) / 4 : Nat), r := (x.r + y.r) % 4 }

/-- Sum, exact unless two different roots meet. -/
def numAdd (x y : Num) : Num :=
  if x.m = 0 then y
  else if y.m = 0 then x
  else
    let (x, y) := if x.r = y.r then (x, y) else (rational x, rational y)
    let e := min x.e y.e
    if x.d = y.d then { m := x.m * pow2 (x.e - e) + y.m * pow2 (y.e - e), d := x.d, e := e, r := x.r }
    else { m := x.m * pow2 (x.e - e) * y.d + y.m * pow2 (y.e - e) * x.d, d := x.d * y.d, e := e, r := x.r }

/-- Negation. -/
def numNeg (x : Num) : Num := { x with m := -x.m }
/-- Magnitude. -/
def numAbs (x : Num) : Num := { x with m := x.m.natAbs }
/-- x × 2^k. -/
def numShift (x : Num) (k : Int) : Num := { x with e := x.e + k }
/-- x ÷ y of rational numbers, y not zero. -/
def numDiv (x y : Num) : Num :=
  let x := rational x
  let y := rational y
  let s : Int := if y.m < 0 then -1 else 1
  { m := x.m * y.d * s, d := x.d * y.m.natAbs, e := x.e - y.e }
/-- The sign of a number: -1, 0 or 1. -/
def numSign (x : Num) : Int := x.m.sign
/-- The sign of x - y. -/
def numCmp (x y : Num) : Int := numSign (numAdd x (numNeg y))

/-- A finite value with the sign of its number; a zero takes the sign given. -/
def finOf (negZero : Bool) (x : Num) : Val := .fin (if x.m = 0 then negZero else x.m < 0 : Bool) x

/-! ### Decoding (R43 to R45) -/

/-- Exponent bits, fraction bits, bias, and the code of the largest finite magnitude of a floating-point format. -/
structure FloatFmt where
  eb : Nat
  fb : Nat
  bias : Nat
  maxCode : Nat

/-- The layouts of R43. -/
def floatFmt (f : Nat) : FloatFmt :=
  match f with
  | 0x0 => ⟨8, 23, 127, 0x7F7FFFFF⟩
  | 0x1 => ⟨8, 7, 127, 0x7F7F⟩
  | 0x2 => ⟨5, 10, 15, 0x7BFF⟩
  | 0x3 => ⟨4, 3, 7, 0x7E⟩
  | _ => ⟨5, 2, 15, 0x7B⟩

/-- The canonical NaN of a format (R46). -/
def canonNan (f : Nat) : Nat :=
  match f with
  | 0x0 => 0x7FC00000
  | 0x1 => 0x7FC0
  | 0x2 => 0x7E00
  | 0x3 => 0x7F
  | _ => 0x7E

/-- Decode a present or absent element of a floating-point format. -/
def decodeFloat (f c : Nat) : Val :=
  let p := floatFmt f
  let neg := c / 2 ^ (p.eb + p.fb) % 2 = 1
  let ex := c / 2 ^ p.fb % 2 ^ p.eb
  let fr := c % 2 ^ p.fb
  let s : Int := if neg then -1 else 1
  let qmin : Int := 1 - (p.bias : Int) - p.fb
  if isAbsent f c then .absent
  else if ex = 0 then .fin neg { m := s * fr, e := qmin }
  else if ex = 2 ^ p.eb - 1 ∧ (f ≠ 3 ∨ fr = 7) then if f ≠ 3 ∧ fr = 0 then .inf neg else .nan
  else .fin neg { m := s * (2 ^ p.fb + fr), e := qmin + (ex : Int) - 1 }

/-- Decode an element of any format. -/
def decodeElem (f c : Nat) : Val :=
  if isFloat f then decodeFloat f c
  else if f = 5 then
    let k := c % 32
    let neg : Bool := c / 32 % 2 = 1
    if k = 0 then if neg then .absent else .fin false {}
    else .fin neg { m := if neg then -1 else 1, e := (k / 4 : Nat) - 4, r := k % 4 }
  else if isAbsent f c then .absent
  else if isSigned f then let i := sext (elemBits f) c; .fin (i < 0 : Bool) { m := i }
  else if f = 0xC then if c % 256 = 0xFF then .nan else .fin false { m := 1, e := (c % 256 : Nat) - 127 }
  else if f = 0xD then .fin false { m := (c % 2 : Nat) }
  else .fin false { m := c }

/-! ### Flags (R48) -/

/-- bit 0 invalid. -/
def fInvalid : Nat := 1
/-- bit 1 divide-by-zero. -/
def fDivZero : Nat := 2
/-- bit 2 overflow. -/
def fOverflow : Nat := 4
/-- bit 3 underflow. -/
def fUnderflow : Nat := 8
/-- bit 4 inexact. -/
def fInexact : Nat := 16
/-- bit 5 saturated. -/
def fSaturated : Nat := 32

/-- Union of flag words. -/
def flagOr (a b : Nat) : Nat := a ||| b

/-! ### Rounding (R54 to R59) -/

/-- Rounding modes; sr carries its random word. -/
inductive Rm where
  | rne | rtz | rdn | rup
  | sr (r : Nat)
  deriving DecidableEq, Repr, Inhabited

/-- The mode of a two-bit or three-bit rm field. -/
def rmOf (v : Nat) : Rm :=
  match v with
  | 0 => .rne
  | 1 => .rtz
  | 2 => .rdn
  | 3 => .rup
  | _ => .sr 0

/-- floor(log2 (n / d)), n and d positive. -/
def ilog2 (n d : Nat) : Int :=
  let k : Int := (Nat.log2 n : Int) - Nat.log2 d
  if n * pow2 (-k) < d * pow2 k then k - 1 else k

/-- Whether to round the magnitude q + rem/den up, given the sign and the mode (R54, R56). -/
def roundsUp (rm : Rm) (neg : Bool) (q rem den : Nat) : Bool :=
  if rem = 0 then false
  else match rm with
    | .rne => decide (den < 2 * rem) || (decide (den = 2 * rem) && decide (q % 2 = 1))
    | .rtz => false
    | .rdn => neg
    | .rup => !neg
    | .sr r => decide (2 ^ 32 ≤ rem * 2 ^ 32 / den + r)

/-- Quotient and remainder of |x| in units of 2^q: whole part, remainder, denominator. -/
def inUnits (x : Num) (q : Int) : Nat × Nat × Nat :=
  let n := x.m.natAbs * pow2 (x.e - q)
  let d := x.d * pow2 (q - x.e)
  (n / d, n % d, d)

/-- Round a finite value to a floating-point format: code and flags. flush is R57's mode. -/
def roundFloat (f : Nat) (rm : Rm) (sat flush neg : Bool) (x0 : Num) : Nat × Nat :=
  let p := floatFmt f
  let sign := if neg then 2 ^ (p.eb + p.fb) else 0
  if x0.m = 0 then (sign, 0)
  else
    let x := rational x0
    let l := ilog2 (x.m.natAbs) x.d + x.e
    let emin : Int := 1 - (p.bias : Int)
    let qmin := emin - p.fb
    let q := max l emin - p.fb
    let u := inUnits x q
    let up := roundsUp rm neg u.1 u.2.1 u.2.2
    let k := u.1 + b2n up
    let code := (q - qmin).toNat * 2 ^ p.fb + k
    let inex := u.2.1 ≠ 0
    let fl := if inex then fInexact ||| (if l < emin then fUnderflow else 0) else 0
    if p.maxCode < code then
      let toMax := match rm with
        | .rtz => true
        | .rdn => !neg
        | .rup => neg
        | _ => false
      if f = 3 ∨ sat then (sign + p.maxCode, fOverflow ||| fInexact ||| fSaturated)
      else if toMax then (sign + p.maxCode, fOverflow ||| fInexact)
      else (sign + p.maxCode + 1, fOverflow ||| fInexact)
    else if flush && decide (code < 2 ^ p.fb) && decide (code ≠ 0) then (sign, fl ||| fUnderflow ||| fInexact)
    else (sign + code, fl)

/-- The range of the present values of an integer format. -/
def intRange (f : Nat) : Int × Int :=
  let w := elemBits f
  if isSigned f then (-(2 ^ (w - 1) - 1), 2 ^ (w - 1) - 1) else (0, 2 ^ w - 2)

/-- Clamp an integer to a format's present range (R47, R55). -/
def clampInt (f : Nat) (i : Int) : Nat × Nat :=
  let r := intRange f
  let c := max r.1 (min r.2 i)
  ((c % 2 ^ elemBits f).toNat, if c = i then 0 else fSaturated)

/-- Round a number to an integer. -/
def roundToInt (rm : Rm) (x0 : Num) : Int × Bool :=
  let x := rational x0
  let neg : Bool := x.m < 0
  let u := inUnits x 0
  let k := u.1 + b2n (roundsUp rm neg u.1 u.2.1 u.2.2)
  (if neg then -(k : Int) else k, u.2.1 ≠ 0)

/-- The fourth power of a positive number, as a rational number. -/
def pow4 (x : Num) : Num := { m := x.m ^ 4, d := x.d ^ 4, e := 4 * x.e + x.r }

/-- Round a finite value to l6 (R59). Between zero and code 1 there is no value, so a power of 2^(1/4) there is no code
either, and the directed modes and SR choose between zero and code 1 (R54, R56). A result that becomes code 1 from below
it is inexact and not tiny, for R57 gives l6 underflow only with a rounded code below 1 (DEDUCED, log 134). -/
def roundL6 (rm : Rm) (neg : Bool) (x : Num) : Nat × Nat :=
  if x.m = 0 then (0, 0)
  else
    let x4 := pow4 (numAbs x)
    let l := ilog2 x4.m.natAbs x4.d + x4.e
    let lo := l + 16
    let exact := 1 ≤ lo ∧ numCmp x4 { m := 1, e := l } = 0
    let hi := max (lo + 1) 1
    let code : Int :=
      if exact then lo
      else match rm with
        | .rne =>
          let x8 := numMul x4 x4
          if 0 ≤ numCmp x8 { m := 1, e := 2 * l + 1 } then lo + 1 else lo
        | .rtz => lo
        | .rdn => if neg then hi else lo
        | .rup => if neg then lo else hi
        | .sr r =>
          let mag := fun c : Int => if c < 1 then ({} : Num) else rational { m := 1, e := c / 4 - 4, r := (c % 4).toNat }
          let a := mag lo
          let f := numDiv (numAdd (rational (numAbs x)) (numNeg a)) (numAdd (mag hi) (numNeg a))
          let u := inUnits f (-32)
          if 2 ^ 32 ≤ u.1 + r then hi else lo
    if 31 < code then ((if neg then 32 else 0) + 31, fOverflow ||| fSaturated ||| fInexact)
    else if code < 1 then (0, fUnderflow ||| fInexact)
    else ((if neg then 32 else 0) + code.toNat, if exact then 0 else fInexact)

/-- Round an exact value to a format (R54 to R59): code and flags. -/
def roundVal (f : Nat) (rm : Rm) (sat flush : Bool) (v : Val) : Nat × Nat :=
  match v with
  | .absent => (absentOf f, 0)
  | .nan => if isFloat f then (canonNan f, 0) else (0, fInvalid)
  | .inf neg =>
    if isFloat f then
      let p := floatFmt f
      let sign := if neg then 2 ^ (p.eb + p.fb) else 0
      if f = 3 then (sign + p.maxCode, fSaturated) else (sign + p.maxCode + 1, 0)
    else if f = 5 then ((if neg then 32 else 0) + 31, fSaturated)
    else
      let r := intRange f
      (((if neg then r.1 else r.2) % 2 ^ elemBits f).toNat, fSaturated)
  | .fin neg x =>
    if isFloat f then roundFloat f rm sat flush neg x
    else if f = 5 then roundL6 rm neg x
    else
      let k := roundToInt rm x
      let c := clampInt f k.1
      (c.1, c.2 ||| (if k.2 then fInexact else 0))

/-- Round to f32 with RNE: the value of the code. -/
def roundF32 (v : Val) : Val :=
  match v with
  | .fin neg x => decodeFloat 0 (roundFloat 0 .rne false false neg x).1
  | v => v

/-- A NaN generated from operands that are not NaN sets invalid; the flags of a rounding otherwise. -/
def f32Flags (v : Val) : Nat :=
  match v with
  | .fin neg x => (roundFloat 0 .rne false false neg x).2
  | _ => 0

/-! ### Exact arithmetic on values -/

/-- The exact sum of present values; rdn says whether an exact zero is negative. -/
def valAdd (rdn : Bool) (a b : Val) : Val :=
  match a, b with
  | .nan, _ | _, .nan => .nan
  | .absent, _ | _, .absent => .absent
  | .inf x, .inf y => if x = y then .inf x else .nan
  | .inf x, _ => .inf x
  | _, .inf y => .inf y
  | .fin na x, .fin nb y =>
    let z := numAdd x y
    if z.m = 0 then .fin (if x.m = 0 && y.m = 0 && na == nb then na else rdn) {} else finOf false z

/-- The exact product of present values. -/
def valMul (a b : Val) : Val :=
  match a, b with
  | .nan, _ | _, .nan => .nan
  | .absent, _ | _, .absent => .absent
  | .inf x, .inf y => .inf (x != y)
  | .inf x, .fin nb y => if y.m = 0 then .nan else .inf (x != nb)
  | .fin na x, .inf y => if x.m = 0 then .nan else .inf (na != y)
  | .fin na x, .fin nb y => .fin (na != nb) (numMul x y)

/-- Negation. -/
def valNeg : Val → Val
  | .inf n => .inf !n
  | .fin n x => .fin (!n) (numNeg x)
  | v => v

/-- x × 2^k. -/
def valShift (v : Val) (k : Int) : Val :=
  match v with
  | .fin n x => .fin n (numShift x k)
  | v => v

/-- A present value is NaN. -/
def isNanV : Val → Bool
  | .nan => true
  | _ => false

/-- A value is absent. -/
def isAbsV : Val → Bool
  | .absent => true
  | _ => false

/-- The node of the trees of R67: absent is skipped, the sum is rounded to f32 with RNE. -/
def combF32 (x y : Val) : Val :=
  match x, y with
  | .absent, y => y
  | x, .absent => x
  | x, y => roundF32 (valAdd false x y)

/-- A NaN made from operands that are not NaN, in a sum. -/
def addInvalid (a b : Val) : Nat :=
  match a, b with
  | .inf x, .inf y => if x = y then 0 else fInvalid
  | _, _ => 0

/-- One level of a pairwise tree. -/
def treeLevel {α : Type} (comb : α → α → α) : List α → List α
  | a :: b :: l => comb a b :: treeLevel comb l
  | l => l

/-- The fixed pairwise tree (R67) of k levels. -/
def treeK {α : Type} (comb : α → α → α) : Nat → List α → List α
  | 0, l => l
  | k + 1, l => treeK comb k (treeLevel comb l)

/-- A value with the flags its computation has set. -/
abbrev Fl (α : Type) := α × Nat

/-- combF32 with flags. -/
def combF32Fl (x y : Fl Val) : Fl Val :=
  match x.1, y.1 with
  | .absent, _ => (y.1, x.2 ||| y.2)
  | _, .absent => (x.1, x.2 ||| y.2)
  | a, b =>
    let z := valAdd false a b
    (roundF32 z, x.2 ||| y.2 ||| addInvalid a b ||| f32Flags z)

/-! ### The mod-3 code of exact sums (R381) -/

/-- The residue mod 3 of an integer. -/
def mod3 (i : Int) : Nat := (i % 3).toNat

/-- 2^k mod 3: 1 for even k and 2 for odd k. -/
def pow2Mod3 (k : Nat) : Nat := if k % 2 = 0 then 1 else 2

/-- The integer significand of a product, from those of its factors. -/
def termSig (fs : List Num) : Int := fs.foldl (fun a x => a * x.m) 1

/-- The exponent of a product. -/
def termExp (fs : List Num) : Int := fs.foldl (fun a x => a + x.e) 0

/-- The unit of an exact fixed-point sum of products: its least exponent. -/
def sumExp (ts : List (List Num)) : Int :=
  match ts.map termExp with
  | [] => 0
  | e :: es => es.foldl min e

/-- The alignment shift of a product in a sum of unit 2^e. -/
def termShift (e : Int) (fs : List Num) : Nat := (termExp fs - e).toNat

/-- The exact fixed-point sum in its unit. -/
def exactFixed (e : Int) (ts : List (List Num)) : Int := ts.foldl (fun a fs => a + termSig fs * 2 ^ termShift e fs) 0

/-- The sum mod 3, predicted from the residues of the significands and the alignment shifts. -/
def predict3 (e : Int) (ts : List (List Num)) : Nat :=
  ts.foldl (fun a fs => (a + fs.foldl (fun b x => b * mod3 x.m % 3) 1 * pow2Mod3 (termShift e fs)) % 3) 0

/-- The check finds a computed sum, off by d units from the exact one, to differ from the prediction. -/
def mod3Finds (ts : List (List Num)) (d : Int) : Bool :=
  decide (mod3 (exactFixed (sumExp ts) ts + d) ≠ predict3 (sumExp ts) ts)

/-- A finite sum off by d units of its fixed-point form. -/
def withErr (ts : List (List Num)) (d : Int) (v : Val) : Val :=
  match v with
  | .fin n x => if d = 0 then v else finOf n (numAdd x { m := d, e := sumExp ts })
  | v => v

/-- The number of a finite value. -/
def numIn : Val → Num
  | .fin _ x => rational x
  | _ => {}

/-- The random word of stochastic rounding (R56). -/
def srBits (t : Word) (i : Nat) : Nat :=
  let x := t ^^^ BitVec.ofNat 64 (i * 0x9E3779B97F4A7C15)
  let x := x ^^^ (x >>> 33)
  let x := x * 0xFF51AFD7ED558CCD#64
  let x := x ^^^ (x >>> 33)
  let x := x * 0xC4CEB9FE1A85EC53#64
  let x := x ^^^ (x >>> 33)
  (x >>> 32).toNat

/-! ### LACC (R60, R61) -/

/-- The table T of R61. -/
def laccT (k : Nat) : Int :=
  match k % 4 with
  | 0 => 32768
  | 1 => 38968
  | 2 => 46341
  | _ => 55109

/-- The addend of a product of two l6 codes: none when a factor is absent; zero when a factor is zero. -/
def l6Addend (a b : Nat) : Option Int :=
  if isAbsent 5 a ∨ isAbsent 5 b then none
  else
    let ea := a % 32
    let eb := b % 32
    if ea = 0 ∨ eb = 0 then some 0
    else
      let q : Int := (ea : Int) + eb - 32
      let m := laccT (q % 4).toNat * 2 ^ (q / 4 + 9).toNat
      some (if a / 32 % 2 ≠ b / 32 % 2 then -m else m)

/-- Clamp to 48 bits (R61). -/
def sat48 (i : Int) : Int × Nat :=
  let c := max (-(2 ^ 47 - 1)) (min (2 ^ 47 - 1) i)
  (c, if c = i then 0 else fSaturated)

/-- Clamp a present count (R51). -/
def satCount (n : Nat) : Nat × Nat := if 65535 < n then (65535, fSaturated) else (n, 0)

/-- The value of a drained sum under a mode (R52): 0 raw, 1 normalised, 2 count; n is the present count. -/
def drainVal (mode n : Nat) (v : Val) : Val :=
  if mode = 2 then .fin false { m := n }
  else if n = 0 then .absent
  else if mode = 1 then
    match v with
    | .fin neg x => .fin neg { rational x with d := (rational x).d * n }
    | v => v
  else v

end Sys2Proof.Machine
end

