-- ==== Sys2Proof/Machine/Tiles.lean ====
section
/-!
DEFINITION. Machine/Tiles.lean: tile entries, where their bytes lie, chunk writes and reads, residues and quotas
(spec/01 R30 to R34, spec/11 R261, spec/13 R294 to R298, spec/18 R377 to R380).
-/
namespace Sys2Proof.Machine

/-! ### Sizes (R30, R31, R295) -/

/-- Data bytes of a tile entry. -/
def tileBytes (t : Tile) : Nat := t.rows * t.cols * elemBytes t.fmt
/-- Chunks of 512 bytes. -/
def tileChunks (t : Tile) : Nat := cdiv (tileBytes t) 512
/-- 64-byte units that an L0 tile takes: the data, then 512 bytes of scale area a chunk for a scaled format. -/
def tileUnits (t : Tile) : Nat := cdiv (tileBytes t) 64 + if isScaled t.fmt then 8 * tileChunks t else 0
/-- Bytes charged to an agent for an L0 tile (R261, R296). -/
def tileCharge (t : Tile) : Nat := tileChunks t * if isScaled t.fmt then 1024 else 512

/-- The chunk map of a whole tile. -/
def fullMap (t : Tile) : BitVec 128 := BitVec.ofNat 128 (2 ^ tileChunks t - 1)

/-! ### Quotas (R261, R334) -/

/-- The quota of an agent admits more bytes. -/
def quotaAdmits (s : State) (pkg part agid n : Nat) : Bool :=
  let q := getQuota s (pkg, part, agid)
  decide (q.usage + n ≤ q.quota)

/-- Charge bytes to an agent. -/
def charge (s : State) (pkg part agid n : Nat) : State :=
  modQuota s (pkg, part, agid) fun q => { q with usage := q.usage + n }

/-- Release bytes of an agent. -/
def uncharge (s : State) (pkg part agid n : Nat) : State :=
  modQuota s (pkg, part, agid) fun q => { q with usage := q.usage - n }

/-- Count a breach (R261). -/
def breach (s : State) (pkg part agid : Nat) : State :=
  modQuota s (pkg, part, agid) fun q => { q with breaches := (q.breaches + 1) % 2 ^ 32 }

/-- The cc_tval of a QUOTA trap (R332): bytes requested and the agent. -/
def quotaTval (agid n : Nat) : Nat := n + agid * 2 ^ 52

/-! ### Places (R294, R295) -/

/-- The memory tile of an L0 handle: page and M number. -/
def tileMt (id : TileId) : Eng := ⟨id.pkg, id.die, id.handle / 4096, 12 + id.handle / 512 % 8⟩

/-- The set bits of a bank map, ascending. -/
def setBanks (m : Nat) : List Nat := (List.range 16).filter fun k => bit m k

/-- l0_place of R294 for a unit u: bank and unit in the bank. -/
def l0Place (bankmap off u : Nat) : Nat × Nat :=
  let bs := setBanks bankmap
  let nb := Nat.max 1 bs.length
  ((bs[u % nb]?).getD 0, off + u / nb)

/-- Address in the L0 memory of byte i of a placed image. -/
def l0ByteAddr (mt : Eng) (bankmap off i : Nat) : Nat :=
  let p := l0Place bankmap off (i / 64)
  l0Addr mt.pkg mt.die mt.page (mt.elem - 12) p.1 (p.2 * 64 + i % 64)

/-- Address of byte i of a tile's linear image: in the L0 memory, or a global HBM address (R295). -/
def tileAddr (id : TileId) (t : Tile) (i : Nat) : Nat :=
  if t.level then
    if isScaled t.fmt then t.loc + 1024 * (i / 512) + 512 + i % 512 else t.loc + i
  else l0ByteAddr (tileMt id) t.bankmap t.off i

/-- Address of byte j of the scale area of chunk c. -/
def scaleAddr (id : TileId) (t : Tile) (c j : Nat) : Nat :=
  if t.level then t.loc + 1024 * c + j
  else l0ByteAddr (tileMt id) t.bankmap t.off (cdiv (tileBytes t) 64 * 64 + 512 * c + j)

/-- Read bytes of a tile image and whether a word of them is uncorrectable. -/
def readTileImage (s : State) (id : TileId) (t : Tile) (i n : Nat) : List Byte × Bool :=
  let as_ := (List.range n).map fun k => tileAddr id t (i + k)
  (as_.map fun a => memGet (if t.level then s.hbm else s.l0) a,
   (as_.map (· / 8)).dedup.any (eccBad s (!t.level)))

/-- Read the scale area of a chunk. -/
def readScale (s : State) (id : TileId) (t : Tile) (c : Nat) : List Byte :=
  (List.range 512).map fun j => memGet (if t.level then s.hbm else s.l0) (scaleAddr id t c j)

/-- The counts of a read of the words that bytes at addresses lie in (R385). -/
def countWords (s : State) (l0 : Bool) (as_ : List Nat) : State :=
  ((as_.map (· / 8)).dedup).foldl (fun s w => eccRead s l0 w) s

/-- The counts of a read of n bytes of a tile image from byte i. -/
def countImage (s : State) (id : TileId) (t : Tile) (i n : Nat) : State :=
  countWords s (!t.level) ((List.range n).map fun k => tileAddr id t (i + k))

/-- Write runs of bytes at addresses, 64-byte unit by unit. -/
def writeUnit (s : State) (l0 : Bool) (a : Nat) (bs : List Byte) : State :=
  if l0 then
    let n := bs.length
    let s' := (wordsOf a n).foldl (fun s w => eccWrite s true (a ≤ w * 8 && w * 8 + 8 ≤ a + n) w) s
    { s' with l0 := memWrite s'.l0 a bs }
  else writeHbm s a bs

/-- Cut a list into 64-byte pieces. -/
def units64 (bs : List Byte) : List (List Byte) :=
  (List.range (cdiv bs.length 64)).map fun k => (bs.drop (64 * k)).take 64

/-- Write bytes of a tile image from a 64-byte aligned offset. -/
def writeTileImage (s : State) (id : TileId) (t : Tile) (i : Nat) (bs : List Byte) : State :=
  ((units64 bs).zipIdx).foldl (fun s u => writeUnit s (!t.level) (tileAddr id t (i + 64 * u.2)) u.1) s

/-- Write bytes of a chunk's scale area. -/
def writeScale (s : State) (id : TileId) (t : Tile) (c : Nat) (bs : List Byte) : State :=
  ((units64 bs).zipIdx).foldl (fun s u => writeUnit s (!t.level) (scaleAddr id t c (64 * u.2)) u.1) s

/-- The bytes of the format's absent code for n elements. -/
def absentBytes (f n : Nat) : List Byte := (List.range n).flatMap fun _ => leBytes (elemBytes f) (absentOf f)

/-- The data bytes of a chunk of a tile image, padded with absent codes to 512 (R63). -/
def padChunk (f : Nat) (bs : List Byte) : List Byte :=
  bs ++ absentBytes f ((512 - bs.length) / elemBytes f)

/-! ### Residues (R377) -/

/-- Sum of the little-endian 32-bit words of bytes. -/
def wordSum : List Byte → Nat
  | a :: b :: c :: d :: l => a.toNat + 256 * b.toNat + 65536 * c.toNat + 16777216 * d.toNat + wordSum l
  | l => leNat l

/-- The residue of a byte image. -/
def residueOf (bs : List Byte) : Nat := wordSum bs % 65535

/-- Two residue fields are equal; 0xFFFF is the negative zero (R377). -/
def residueEq (a b : Nat) : Bool := a % 65535 = b % 65535

/-! ### L0 space (R294, R318, R386) -/

/-- The unit below which a bank may be allocated. -/
def bankLimit (s : State) (mt : Eng) (b : Nat) : Nat :=
  if (getMode s (.l0 mt.pkg mt.die mt.page (mt.elem - 12) b)).mode = 0 then 1024 else 896

/-- The unit ranges in use in every bank of a memory tile: L0 tiles, channel rings and delay lines. -/
def usedUnits (s : State) (mt : Eng) : List (Nat × Nat) :=
  (s.tiles.filter fun e => decide (e.2.state ≠ 0) && !e.2.level && decide (tileMt e.1 = mt)).map (fun e =>
    (e.2.off, e.2.off + cdiv (tileUnits e.2) (Nat.max 1 (setBanks e.2.bankmap).length))) ++
  (s.chans.filter fun e => decide (e.2.state ≠ 0) && decide ((⟨e.1.1, e.1.2.1, e.2.rpage, 12 + e.2.rmt⟩ : Eng) = mt)).map
    (fun e => (e.2.roff, e.2.roff + 2 ^ (e.2.glog + 2))) ++
  s.graphs.flatMap fun g => (g.2.ops.filter fun o => decide (o.eng = mt) && decide (opKind o = 0x15)).map fun o =>
    let n := 2 ^ (bits (opCfg o 0) 62 60 + 2)
    (o.lineOff, o.lineOff + n)

/-- The least offset at which n units in all 16 banks are free below the bank limits (log 9). -/
def findUnits (s : State) (mt : Eng) (n : Nat) : Option Nat :=
  let lim := (List.range 16).foldl (fun m b => Nat.min m (bankLimit s mt b)) 1024
  let used := usedUnits s mt
  leastBelow 1024 fun o => decide (o + n ≤ lim) && !used.any fun u => decide (u.1 < o + n) && decide (o < u.2)

/-! ### Allocation (R26, R32, R140) -/

/-- What comes of trying to allocate a destination. -/
inductive Alloc where
  | ok (s : State)
  | wait
  | quota (agid bytes : Nat)
  | shape (handle : Nat)

/-- A destination entry of a configuration word, for a frame index (R140): the tile. -/
def destTile (r : OpRef) (entry f : Nat) : TileId :=
  relocTile r.key.1 r.g (bits entry 17 16)
    (bits entry 15 12 * 4096 + (bits entry 11 0 + f % (bits entry 21 18 + 1)) % 4096)

/-- The binding record of a VBLOCK. -/
def bindingOf (o : Op) : Nat := ((o.block.map fun b : Block => b.binding).getD 0).toNat

/-- The tiles bound to a block. -/
def boundTiles (r : OpRef) : List TileId :=
  (List.range (bits ((r.op.block.map fun b : Block => b.header).getD 0).toNat 107 105)).map fun b =>
    destTile r (bits (bindingOf r.op) (32 * b + 159) (32 * b + 128)) 0

/-- The tile record of a graph for a tile. -/
def tileRecOf (g : Graph) (id : TileId) : Option TileRec := g.tiles.find? (·.tile = id)

/-- An entry's space and charge are given up. -/
def unmake (s : State) (id : TileId) : State :=
  let t := getTile s id
  let s := if t.state ≠ 0 ∧ !t.level then uncharge s id.pkg t.part t.agid (tileCharge t) else s
  { s with tiles := tdel id s.tiles }

/-- Try to make a tile's entry EMPTY with a shape, for an activation (R26): from FREE, or from EMPTY with refs 0, whose
space and charge it gives up. -/
def allocTile (s : State) (g : Graph) (id : TileId) (rows cols : Nat) (lid agid owner : Nat) : Alloc :=
  match tileRecOf g id with
  | none => .wait
  | some rec =>
    let t := getTile s id
    let new : Tile := { rows := rows, cols := cols, fmt := rec.fmt, state := 1, level := rec.level, olid := lid,
                        agid := agid, owner := owner, part := g.part, loc := rec.back }
    if rec.rows * rec.cols < rows * cols then .shape id.handle
    else if t.state ≠ 0 ∧ ¬(t.state = 1 ∧ t.refs = 0) then .wait
    else
      let s := unmake s id
      if rec.level then .ok (setTile s id new)
      else if !quotaAdmits s id.pkg g.part agid (tileCharge new) then .quota agid (tileCharge new)
      else
        match findUnits s (tileMt id) (cdiv (tileUnits new) 16) with
        | none => .wait
        | some o => .ok (charge (setTile s id { new with off := o, bankmap := 0xFFFF }) id.pkg g.part agid (tileCharge new))

/-- A thread waits in a CPYWAIT on a tile (R253). -/
def waitsOnTile (t : Tid) (th : Thread) (id : TileId) : Bool :=
  match th.wait with
  | some (.cpywait _ rs1 _) =>
    let v := (readReg th rs1).toNat
    decide (t.pkg = id.pkg) && decide (bits v 17 16 = id.die) && decide (bits v 15 0 = id.handle)
  | _ => false

/-- Return a tile's entry to FREE, with its charge. -/
def freeTile (s : State) (id : TileId) : State :=
  let s := { s with threads := tmap (fun k th => if waitsOnTile k th id then { th with gone := true } else th) s.threads }
  let s := unmake s id
  { s with chunkWrites := s.chunkWrites.filter fun w => decide (w.tile ≠ id),
           retires := s.retires.filter fun w => decide (w.tile ≠ id) }

/-! ### Chunk writes (R32, R298) -/

/-- A write to a chunk whose bit is set, or to a tile that is FULL and not pinned, is a tile-state fault (R32). So is a
write to an entry that is FREE or DRAINING, for which the table of R32 has no event (log 28). -/
def chunkRefused (t : Tile) (c : Nat) : Bool :=
  t.cmap.getLsbD c || (decide (t.state = 3) && !t.pinned) || decide (t.state = 0) || decide (t.state = 4)

/-- The first chunk of a whole image that a tile refuses. -/
def imageRefused (s : State) (id : TileId) : Option Nat :=
  let t := getTile s id
  if t.state = 0 then some 0 else (List.range (tileChunks t)).find? (chunkRefused t)

/-- The cc_tval of a tile-state fault (R332). -/
def stateTval (id : TileId) (c : Nat) : Nat := id.handle + id.die * 2 ^ 16 + c * 2 ^ 18

/-- Begin the write of a chunk: EMPTY becomes FILLING, and an L0 chunk's sectors go to a port of its memory tile. -/
def beginChunk (s : State) (id : TileId) (c port lid : Nat) (by_ : Coord) (tag : Word) (data scale : List Byte) : State :=
  let t := getTile s id
  let (i, s) := fresh s
  let s := if t.state = 1 then modTile s id fun t => { t with state := 2, owner := 0 } else s
  if t.level then
    { s with chunkWrites := s.chunkWrites ++ [{ tile := id, chunk := c, data := data, scale := scale, id := i, lid := lid,
                                                by_ := by_, tag := tag }] }
  else
    let req := fun (a : Nat) (bs : List Byte) =>
      ({ port := port, bank := a / 65536 % 16, unit := a % 65536 / 64, data := bs, cw := i } : MtReq)
    let rs := ((units64 data).zipIdx).map (fun u => req (tileAddr id t (512 * c + 64 * u.2)) u.1) ++
      ((units64 scale).zipIdx).map fun u => req (scaleAddr id t c (64 * u.2)) u.1
    let s := { s with chunkWrites := s.chunkWrites ++ [{ tile := id, chunk := c, left := rs.length, id := i, lid := lid,
                                                         by_ := by_, tag := tag }] }
    modMemTile s (tileMt id) fun m => { m with queue := m.queue ++ rs }

/-- The data bytes of chunk c of a whole image: a last chunk keeps its own length. -/
def chunkOf (bs : List Byte) (c : Nat) : List Byte := (bs.drop (512 * c)).take 512

/-- Begin every chunk of a tile from its whole image, with its scale words in burst order for a scaled format. -/
def beginImage (s : State) (id : TileId) (port lid : Nat) (by_ : Coord) (tag : Word) (img : List Byte)
    (scale : Nat → List Byte) : State :=
  (List.range (tileChunks (getTile s id))).foldl
    (fun s c => beginChunk s id c port lid by_ tag (chunkOf img c) (scale c)) s

/-- A chunk write completes in a FILLING tile (R32): its bit is set; FULL when every bit of the tile is set. In another
state the entry does not change. -/
def chunkDone (s : State) (id : TileId) (c : Nat) : State :=
  let t := getTile s id
  if t.state ≠ 2 then s
  else
    let m := t.cmap ||| BitVec.twoPow 128 c
    setTile s id { t with cmap := m, state := if m = fullMap t then 3 else 2 }

/-- The tile is FULL. -/
def tileFull (s : State) (id : TileId) : Bool := (getTile s id).state = 3

/-! ### Burst header words (R62, R63, R295) -/

/-- A burst header word. -/
def burstWord (chunk : Nat) (last : Bool) (fmt l scale : Nat) : BitVec 64 :=
  BitVec.ofNat 64 (scale % 256 + l % 16 * 2 ^ 8 + fmt % 16 * 2 ^ 12 + b2n last * 2 ^ 16 + chunk * 2 ^ 17)

/-- The scale area of a chunk: its header words in burst order, then zeros (R295). -/
def scaleArea (ws : List (BitVec 64)) : List Byte :=
  let bs := ws.flatMap fun w => leBytes 8 w.toNat
  bs ++ List.replicate (512 - bs.length) 0

/-- The header words of a mode-0 chunk of a tile. -/
def plainWords (t : Tile) (c : Nat) : List (BitVec 64) := [burstWord c (c + 1 = tileChunks t : Bool) t.fmt 0 0x7F]

/-- The scale area that a mode-0 chunk of a tile writes: none for an unscaled format. -/
def plainScale (t : Tile) (c : Nat) : List Byte := if isScaled t.fmt then scaleArea (plainWords t c) else []

/-- The words of a scale area: the first, and in mode 1 one for each block of 2^L bytes. -/
def wordsOfArea (mode : Nat) (area : List Byte) : List (BitVec 64) :=
  let w0 := leNat (area.take 8)
  let n := if mode = 1 then Nat.max 1 (512 / 2 ^ (bits w0 11 8)) else 1
  (List.range n).map fun k => BitVec.ofNat 64 (field area (8 * k) 8)

/-- The burst a consumer receives for a chunk of a tile (R295): rebuilt from data and scale area. -/
def burstOf (s : State) (id : TileId) (mode input c : Nat) : Burst × Bool :=
  let t := getTile s id
  let n := Nat.min 512 (tileBytes t - 512 * c)
  let d := readTileImage s id t (512 * c) n
  let ws := if isScaled t.fmt then wordsOfArea mode (readScale s id t c) else plainWords t c
  let as_ := if isScaled t.fmt then (List.range 512).map (scaleAddr id t c) else []
  ({ input := input, chunk := c, words := ws, data := d.1, sum := residueOf d.1 },
   d.2 || (as_.map (· / 8)).dedup.any (eccBad s (!t.level)))

/-- The slot of the present device time at an engine has a grant (R359). -/
def granted (s : State) (e : Eng) (g : Grant) : Bool :=
  let t := getSlotTab s e
  decide (t.slot = (getPkg s e.pkg).time / 32 + 1) && decide (t.grant = g)

/-- The entry of an engine's slot table for the present device time (R357). -/
def slotEntry (s : State) (e : Eng) : Nat := tget 0x40 ((getPkg s e.pkg).time / 32 % 256) (getSlotTab s e).tab

/-- It serves a partition (R359). One whose function-level reset drains is served in its own slots and in scrub slots only, not
in one lent or open (R356). -/
def slotGrants (s : State) (e : Eng) (part : Nat) : Bool :=
  if (getPart s (e.pkg, part)).flr = 0 then granted s e (.part part)
  else (granted s e (.part part) && decide (slotEntry s e % 32 = part) && decide (slotEntry s e / 64 = 0)) || granted s e .scrub

/-- The fixed route from a to b within a package leaves die a through the inner strait engine e (R361). -/
def crosses (a b e : Eng) : Bool := decide (a.pkg = b.pkg) && decide (a.die ≠ b.die) && decide (innerStrait a.pkg a.die b.die = e)

/-- The egress of the inner strait on the route from a to b grants a partition's traffic (R359, R361). -/
def crossGrants (s : State) (a b : Eng) (part : Nat) : Bool :=
  a.pkg ≠ b.pkg || a.die = b.die || slotGrants s (innerStrait a.pkg a.die b.die) part

/-- A token has not crossed to its package yet. -/
def mustCross (t : Token) : Bool := decide (t.dst.eng.pkg ≠ t.src.eng.pkg) && decide (t.hops = 0)

/-- Where a token is in its package before the inner straits: at its source, or at the terminal engine, of the source's die, when
it has come from another package (R361, R369). -/
def tokFrom (t : Token) : Eng := if mustCross t then t.src.eng else { t.src.eng with pkg := t.dst.eng.pkg }

/-- The HBM port engines that own the sectors of a chunk of an L1 tile (R296). -/
def chunkOwners (t : Tile) (c : Nat) : List Eng :=
  if !t.level then []
  else
    let n := if isScaled t.fmt then 1024 else 512
    let a := t.loc + n * c
    [ownerOf a, ownerOf (a + n - 1)].dedup

/-- The traffic of a chunk of an L1 tile passes in the slots of the tile's partition: every owner of its sectors grants
one (R296, R167; log 33). -/
def l1Grants (s : State) (id : TileId) (c : Nat) : Bool :=
  let t := getTile s id
  (chunkOwners t c).all fun e => slotGrants s e t.part

/-! ### Watch filters over the device's own sectors (R400, R401) -/

/-- The sectors of bytes a to a + n - 1. -/
def hbmSectors (a n : Nat) : List Nat :=
  if n = 0 then [] else (List.range ((a + n - 1) / 64 - a / 64 + 1)).map fun k => (a / 64 + k) * 64

/-- The filter of a sector's owner hits an access of a kind for a partition. -/
def sectorHit (s : State) (part : Nat) (acc : Acc) (x : Nat) : Bool :=
  let w := getWatch s (ownerOf x)
  watchKind { w with ctl := w.ctl &&& 3#64 } acc && w.ctl.getLsbD (32 + part) && watchHit w x 64

/-- The activity named who is about to access sectors xs of HBM, for a launch of package home. None when no filter holds it
back; else the state in which it waits: its first hit is reported, and after the ERET that sector passes once (R333). -/
def watchGate (s : State) (home who part lid : Nat) (acc : Acc) (xs : List Nat) : Option State :=
  match xs.find? fun x => sectorHit s part acc x &&
      !s.watchHolds.any fun h => decide (h.who = who) && decide (h.sector = x) && !h.held with
  | none => none
  | some x =>
    if s.watchHolds.any fun h => decide (h.who = who) && decide (h.sector = x) then some s
    else
      let e := ownerOf x
      let (i, s) := fresh s
      some (raise { s with watchHolds := s.watchHolds ++ [{ id := i, who := who, sector := x }] }
        { dest := reportFor s home e part lid, cause := 0x020C, tval := BitVec.ofNat 64 x, tcoord := coordNat { eng := e },
          lid := lid, held := .request i, src := e })

/-- The access to sectors xs has been performed: what its holds let pass is used up. -/
def watchPassed (s : State) (who : Nat) (xs : List Nat) : State :=
  { s with watchHolds := s.watchHolds.filter fun h => decide (h.who ≠ who) || !xs.contains h.sector }

/-- The HBM sectors of a chunk of an L1 tile, and none of an L0 tile (R296). -/
def chunkSectors (t : Tile) (c : Nat) : List Nat :=
  if !t.level then []
  else if isScaled t.fmt then hbmSectors (t.loc + 1024 * c) 1024
  else hbmSectors (t.loc + 512 * c) (Nat.min 512 (tileBytes t - 512 * c))

/-- The filters' hold on a chunk of a tile. -/
def chunkGate (s : State) (id : TileId) (c who lid : Nat) (acc : Acc) : Option State :=
  let t := getTile s id
  watchGate s id.pkg who t.part lid acc (chunkSectors t c)

/-- The counts of a read of a chunk: its data, and the scale area of a scaled format. -/
def countBurst (s : State) (id : TileId) (c : Nat) : State :=
  let t := getTile s id
  let s := countImage s id t (512 * c) (Nat.min 512 (tileBytes t - 512 * c))
  if isScaled t.fmt then countWords s (!t.level) ((List.range 512).map (scaleAddr id t c)) else s

/-- The faults of a burst (R64): reserved bits, L outside 3 to 7 in mode 1, a format other than the token's, mode 1 with
another format, a mode-0 scale other than 0x7F, a reserved mode, a last-of-tile mark on another chunk. A chunk index other
than the chunk's own, which R64 does not list, counts as one of them (DESIGN CHOICE, log 31). -/
def burstBad (mode fmt : Nat) (chunks c : Nat) (ws : List (BitVec 64)) : Bool :=
  decide (1 < mode) || (decide (mode = 1) && !isScaled fmt) ||
    ws.any fun w =>
      let v := w.toNat
      decide (bits v 63 24 ≠ 0) || decide (bits v 15 12 ≠ fmt) || decide (bits v 23 17 ≠ c) ||
        (decide (mode = 1) && (decide (bits v 11 8 < 3) || decide (7 < bits v 11 8))) ||
        (decide (mode = 0) && decide (bits v 7 0 ≠ 0x7F)) || (bit v 16 && decide (c + 1 ≠ chunks))

/-- A value with a block scale applied (R65): 0xFF reads as NaN. -/
def scaled (v : Val) (sc : Nat) : Val :=
  match v with
  | .absent => .absent
  | v => if sc = 0xFF then .nan else valShift v ((sc : Int) - 127)

/-- The scale of element k of a chunk, from the latched words of its burst. -/
def scaleAt (b : Burst) (mode k : Nat) : Nat :=
  if mode = 1 then
    let l := bits ((b.words[0]?).getD 0).toNat 11 8
    bits ((b.words[k / 2 ^ l]?).getD 0).toNat 7 0
  else 0x7F

/-! ### Retiring reads (R32) -/

/-- A consumer retires its last read for one token (R32): a FILLING or FULL entry drains when refs reaches 0, and its last
outstanding read frees it. An EMPTY entry, whose early token (R172) was consumed before its first chunk, stays EMPTY. -/
def retireStep (s : State) (n : Nat) : State :=
  match s.retires[n]? with
  | none => s
  | some r =>
    let s := { s with retires := s.retires.eraseIdx n }
    let t := getTile s r.tile
    if r.last then
      if t.state = 4 ∧ !(s.chunkWrites.any fun w => decide (w.tile = r.tile)) then freeTile s r.tile
      else { s with retires := s.retires ++ [r] }
    else
      let t' := { t with refs := t.refs - 1 }
      if t'.refs = 0 ∧ !t.pinned ∧ (t.state = 2 ∨ t.state = 3) then
        { setTile s r.tile { t' with state := 4 } with retires := s.retires ++ [{ r with last := true }] }
      else setTile s r.tile t'

end Sys2Proof.Machine
end

