-- ==== Sys2Proof/Machine/Chans.lean ====
section
/-!
DEFINITION. Machine/Chans.lean: the channel controller: where records lie, how positions are reserved and taken, how
endpoints attach and entries are freed (spec/14).
-/
namespace Sys2Proof.Machine

/-- The key of a channel: package, die, index. -/
abbrev ChanKey := Nat × Nat × Nat

/-- Bytes of a record. -/
def recBytes (c : Chan) : Nat := 2 ^ (c.rlog + 4)
/-- Records in the ring: n of R316. -/
def ringRecs (c : Chan) : Nat := 2 ^ (c.glog + 12) / recBytes c
/-- Records in a segment: g of R316. -/
def segRecs (c : Chan) : Nat := 65536 / recBytes c
/-- ring_count of R322. -/
def ringCount (c : Chan) : Nat := (c.wi + 32768 - c.ri) % 32768
/-- No spare segment. -/
def noSeg : Nat := 0xFFFFFF

/-- The channel id of R255, with the package of R329 above it. -/
def chanId (k : ChanKey) : Nat := k.2.2 + k.2.1 * 2 ^ 12 + k.1 * 2 ^ 14

/-- The pool of a partition on a die (R319, R335). -/
def poolOf (s : State) (pkg die part : Nat) : Pool := tget {} die (getPart s (pkg, part)).pools
/-- Change it. -/
def modPool (s : State) (pkg die part : Nat) (f : Pool → Pool) : State :=
  modPart s (pkg, part) fun p => { p with pools := tmod {} die f p.pools }

/-- The least free segment of a pool (log 9). -/
def freeSeg (q : Pool) : Option Nat := leastBelow q.segs fun k => !q.segUsed.contains k

/-- A segment may be added: quota first, then the pool (R322, R334). -/
inductive Grow where
  | ok (seg : Nat) (s : State)
  | full
  | quota

/-- The trace record of a growth (R397), with the channel's writer as its operator or engine (DEDUCED, log 148). -/
def traceGrowth (s : State) (k : ChanKey) (c : Chan) : State :=
  let w : Coord × Nat := match c.wep with
    | .op d l | .saved d l => (d, l)
    | .thread t => ({ eng := ccEng t.pkg t.die }, 0)
    | .none => ({ eng := ccEng k.1 k.2.1 }, 0)
  traceClass s k.1 k.2.1 c.part 2 0 (chanId k) (coordNat w.1) w.2 0x09

/-- pool_alloc of R322: the segment is held and charged to the channel's agent, and the growth is traced. -/
def poolAlloc (s : State) (k : ChanKey) (c : Chan) : Grow :=
  if !quotaAdmits s k.1 c.part c.agid 65536 then .quota
  else match freeSeg (poolOf s k.1 k.2.1 c.part) with
    | none => .full
    | some g =>
      .ok g (traceGrowth (modPool (charge s k.1 c.part c.agid 65536) k.1 k.2.1 c.part fun q =>
        { q with segUsed := g :: q.segUsed }) k c)

/-- What a write comes to. -/
inductive Placed where
  | ok (seg : Option Nat) (pos : Nat) (s : State)
  | full
  | quota (agid bytes : Nat)

/-- A segment joins the tail of the spill list, with its first position reserved. -/
def tailSeg (c : Chan) (g : Nat) : Chan :=
  let c := if c.spl then { c with links := tset c.stail g c.links } else { c with shead := g, hoff := 0, spl := true }
  { c with stail := g, toff := 1, scount := c.scount + 1 }

/-- write_place of R322. -/
def writePlace (s : State) (k : ChanKey) : Placed :=
  let c := getChan s k
  if !c.spl ∧ ringCount c < ringRecs c then .ok none (c.wi % ringRecs c) (setChan s k { c with wi := (c.wi + 1) % 32768 })
  else if c.spl ∧ c.toff < segRecs c then
    .ok (some c.stail) c.toff (setChan s k { c with toff := c.toff + 1, scount := c.scount + 1 })
  else if c.sfree ≠ noSeg then
    let c' := { c with sfree := tget noSeg c.sfree c.links }
    .ok (some c.sfree) 0 (setChan s k (tailSeg c' c.sfree))
  else if !c.grow ∨ c.nseg = c.cap then .full
  else match poolAlloc s k c with
    | .quota => .quota c.agid 65536
    | .full => .full
    | .ok g s => .ok (some g) 0 (setChan s k (tailSeg { c with nseg := c.nseg + 1 } g))

/-- Records that the writer has numbered and that have no place yet (R364). -/
def unplaced (c : Chan) : Nat := (c.sent + 2 ^ 32 - c.wrec) % 2 ^ 32

/-- A reserved record enters the channel's order; its bytes are performed later (R322, R323). A writer that numbers no record
ahead keeps its number at the records written. -/
def reserveRec (s : State) (k : ChanKey) (seg : Option Nat) (pos residue : Nat) (poison : Bool) (lid : Nat) : State :=
  modChan s k fun c =>
    let w := (c.wrec + 1) % 2 ^ 32
    { c with recs := c.recs ++ [{ seg := seg, pos := pos, residue := residue, poison := poison, ordinal := c.wrec, lid := lid }],
             wrec := w, sent := if unplaced c = 0 then w else c.sent, full := false }

/-- Put a segment on the spare list. -/
def sparePush (c : Chan) (g : Nat) : Chan := { c with links := tset g c.sfree c.links, sfree := g }

/-- read_take of R323 on the entry. -/
def readTake (c : Chan) : Chan :=
  let c := { c with recs := c.recs.drop 1, rrec := (c.rrec + 1) % 2 ^ 32 }
  if ringCount c ≠ 0 then { c with ri := (c.ri + 1) % 32768 }
  else if !c.spl then c
  else
    let c := { c with hoff := c.hoff + 1, scount := c.scount - 1 }
    if c.scount = 0 then { sparePush c c.shead with spl := false }
    else if c.hoff = segRecs c then
      let g := c.shead
      sparePush { c with shead := tget noSeg g c.links, hoff := 0 } g
    else c

/-- The oldest record whose bytes have been performed. -/
def headRec (c : Chan) : Option Rec := (c.recs.head?).bind fun r => if r.ready then some r else none

/-- The memory tile of a channel's ring. -/
def ringMt (k : ChanKey) (c : Chan) : Eng := ⟨k.1, k.2.1, c.rpage, 12 + c.rmt⟩

/-- Address of byte i of a record: in the L0 memory, or a global HBM address (R318, R319). -/
def recAddr (s : State) (k : ChanKey) (c : Chan) (r : Rec) (i : Nat) : Nat :=
  match r.seg with
  | none => l0ByteAddr (ringMt k c) 0xFFFF c.roff (r.pos * recBytes c + i)
  | some g => gpa k.1 ((poolOf s k.1 k.2.1 c.part).segBase + g * 65536 + r.pos * recBytes c + i)

/-- Write bytes of a record from offset o in pieces that lie in one 64-byte unit. -/
def writeRecBytes (s : State) (k : ChanKey) (r : Rec) (o : Nat) (bs : List Byte) : State :=
  let c := getChan s k
  let p := Nat.min 64 (recBytes c)
  (List.range (cdiv bs.length p)).foldl
    (fun s j => writeUnit s r.seg.isNone (recAddr s k c r (o + p * j)) ((bs.drop (p * j)).take p)) s

/-- The bytes of a record, and whether a word of them is uncorrectable. -/
def readRecBytes (s : State) (k : ChanKey) (r : Rec) : List Byte × Bool :=
  let c := getChan s k
  let as_ := (List.range (recBytes c)).map fun i => recAddr s k c r i
  (as_.map fun a => memGet (if r.seg.isNone then s.l0 else s.hbm) a, (as_.map (· / 8)).dedup.any (eccBad s r.seg.isNone))

/-- The counts of a read of a record's bytes (R385). -/
def countRec (s : State) (k : ChanKey) (r : Rec) : State :=
  let c := getChan s k
  countWords s r.seg.isNone ((List.range (recBytes c)).map (recAddr s k c r))

/-- The first chunks of the packets that a record goes in: at most 8 bursts of 512 bytes each (R364). -/
def recParts (c : Chan) : List Nat := (List.range (cdiv (recBytes c) 4096)).map (8 * ·)

/-- A packet's bytes of the record with an ordinal are performed at their place; the record is ready with the last. -/
def landPart (s : State) (k : ChanKey) (ordinal chunk : Nat) (bs : List Byte) : State :=
  match (getChan s k).recs.find? (·.ordinal = ordinal) with
  | none => s
  | some r =>
    modChan (writeRecBytes s k r (512 * chunk) bs) k fun c =>
      { c with recs := c.recs.map fun q => if q.ordinal ≠ ordinal then q else
          { q with landed := chunk :: q.landed, ready := (recParts c).all (chunk :: q.landed).contains } }

/-- The bytes of a whole record with an ordinal are performed. -/
def landRec (s : State) (k : ChanKey) (ordinal : Nat) (bs : List Byte) : State :=
  (recParts (getChan s k)).foldl (fun s c => landPart s k ordinal c ((bs.drop (512 * c)).take 4096)) s

/-- The HBM sectors of a record: none in the ring (R319). -/
def recSectors (s : State) (k : ChanKey) (c : Chan) (r : Rec) : List Nat :=
  if r.seg.isNone then [] else hbmSectors (recAddr s k c r 0) (recBytes c)

/-- The owners of a record's sectors grant the traffic of the channel's partition (R359, R375; log 33). -/
def recGrants (s : State) (k : ChanKey) (r : Rec) : Bool :=
  let c := getChan s k
  ((recSectors s k c r).map ownerOf).dedup.all fun e => slotGrants s e c.part

/-- The filters' hold on a record that an operator reads or writes (R400). -/
def recGate (s : State) (home : Nat) (k : ChanKey) (r : Rec) (who lid : Nat) (acc : Acc) : Option State :=
  let c := getChan s k
  watchGate s home who c.part lid acc (recSectors s k c r)

/-- Segments of the spill list. -/
def spillSegs (c : Chan) : Nat := if c.spl then cdiv (c.hoff + c.scount) (segRecs c) else 0

/-- A credit without limit (R325). -/
def noLimit : Nat := 2 ^ 32

/-- The channel can grow: R325 says while grow is 1 and nseg is below cap, and a pool with no free segment counts as a cap
(R322; DEDUCED, log 147). -/
def canGrow (s : State) (k : ChanKey) : Bool :=
  let c := getChan s k
  c.grow && decide (c.nseg < c.cap) && (freeSeg (poolOf s k.1 k.2.1 c.part)).isSome

/-- The number of write_place calls in a row that would succeed without growth (R325), less the records that have been numbered
and wait for their place; without limit while the channel can grow. -/
def creditOf (s : State) (k : ChanKey) : Nat :=
  let c := getChan s k
  if canGrow s k then noLimit
  else
    (c.nseg - spillSegs c) * segRecs c + (if c.spl then segRecs c - c.toff else ringRecs c - ringCount c) - unplaced c

/-- An endpoint is an operator at a coordinate. -/
def isOpEnd (x : Endpoint) (c : Coord) : Bool :=
  match x with
  | .op d _ => decide (d.eng = c.eng) && decide (d.slot = c.slot)
  | _ => false

/-- The channel that has an operator as its writer. -/
def chanOfWriter (s : State) (c : Coord) : Option ChanKey :=
  (s.chans.find? fun e => decide (e.2.state ≠ 0) && isOpEnd e.2.wep c).map (·.1)

/-- The channel with a name that has an operator as its writer: a destination of a DISPATCH. -/
def chanOfDispatch (s : State) (c : Coord) (name : Nat) : Option ChanKey :=
  (s.chans.find? fun e => decide (e.2.state ≠ 0) && decide (e.2.name = name) && isOpEnd e.2.wep c).map (·.1)

/-- The channel that has an operator as its reader. -/
def chanOfReader (s : State) (c : Coord) : Option ChanKey :=
  (s.chans.find? fun e => decide (e.2.state ≠ 0) && isOpEnd e.2.rep c).map (·.1)

/-- Free a channel's entry (R320): its segments return to the pool and its charge is released. -/
def freeChan (s : State) (k : ChanKey) : State :=
  let c := getChan s k
  let spill := c.recs.filterMap (·.seg)
  let held := (spill ++ c.links.map (·.1) ++ c.links.map (·.2) ++
    (if c.spl then [c.shead, c.stail] else []) ++ [c.sfree]).dedup.filter (· ≠ noSeg)
  let s := modPool s k.1 k.2.1 c.part fun q => { q with segUsed := q.segUsed.filter fun g => !held.contains g }
  let s := uncharge s k.1 c.part c.agid (c.nseg * 65536)
  { s with chans := tdel k s.chans }

/-- Detach an operator's or a launch's writer end: the channel becomes write-closed (R320). -/
def detachWriter (c : Chan) : Chan := { c with wep := .none, state := if c.state = 1 then 2 else c.state, full := false }

/-- Detach every operator endpoint of a launch of a package (R320), and its REDUCE operators from their groups (R163). -/
def detachLaunch (s : State) (pkg lid : Nat) : State :=
  { s with groups := tmap (fun _ g => if g.member.any fun m => decide (m.1.eng.pkg = pkg) && decide (m.2 = lid) then
             { g with member := none } else g) s.groups
           chans := tmap (fun _ c =>
      let c := match c.wep with
        | .op d l => if d.eng.pkg = pkg ∧ l = lid then detachWriter c else c
        | _ => c
      match c.rep with
      | .op d l => if d.eng.pkg = pkg ∧ l = lid then { c with rep := .none } else c
      | _ => c) s.chans }

/-- The least roff at the top of a memory tile that a ring of 2^(glog+2) units fits at: downward from unit 1,023
(R318). Banks that have lost their last eighth give the units below it (R386). -/
def ringRoff (s : State) (mt : Eng) (glog : Nat) : Option Nat :=
  let n := 2 ^ (glog + 2)
  let lim := (List.range 16).foldl (fun m b => Nat.min m (bankLimit s mt b)) 1024
  let used := usedUnits s mt
  (((List.range 1024).reverse).find? fun o => decide (o + n ≤ lim) && !used.any fun u => decide (u.1 < o + n) && decide (o < u.2))

/-- The place of a new ring (R318): pages of the die that the partition owns ascending, and M7 down to M0. -/
def placeRing (s : State) (pkg die part glog : Nat) : Option (Nat × Nat × Nat) :=
  ((List.range 16).filter fun p => pageOwnerOf s pkg die p = part).findSome? fun p =>
    ([7, 6, 5, 4, 3, 2, 1, 0] : List Nat).findSome? fun m =>
      (ringRoff s ⟨pkg, die, p, 12 + m⟩ glog).map fun o => (p, m, o)

/-- The least free channel index of a die. -/
def freeChanIdx (s : State) (pkg die : Nat) : Option Nat :=
  leastBelow 4096 fun i => (getChan s (pkg, die, i)).state = 0

/-- A channel record (R109): name hash, rlog, glog, cap, grow, and whether its fields are in range. -/
structure ChanRec where
  name : Nat
  rlog : Nat
  glog : Nat
  cap : Nat
  grow : Bool
  ok : Bool

end Sys2Proof.Machine
end

