-- ==== Sys2Proof/Machine/Rows.lean ====
section
/-!
DEFINITION. Machine/Rows.lean: matching-store rows, their backing, readiness and allocation, and the arrival of a token
(spec/01 R23 to R28, spec/15 R335, spec/19 R391, R399).
-/
namespace Sys2Proof.Machine

/-! ### Scopes of token edges (R303, R307) -/

/-- The smallest scope, as a code of R93, that contains two points: engines of the element, page, die or package, or none for
the host, which lies outside every package. Threads and the engines of a die's edge lie on their die, with no page. -/
def smallestScope (s : State) : Option Eng → Option Eng → Nat
  | some a, some b =>
    if a.pkg ≠ b.pkg then (if sameDomain s a.pkg b.pkg then 4 else 5)
    else if a.die ≠ b.die then 3
    else if !onPage a || !onPage b || decide (a.page ≠ b.page) then 2
    else if a.elem ≠ b.elem then 1
    else 0
  | _, _ => 5

/-- The scope of the edge between two operators: the widest of the producer's field, the consumer's field and the smallest
scope that contains their engines. An emission is performed at every scope at once in this model (log 4), so no step waits
by it. -/
def edgeScope (s : State) (p c : Op) : Nat :=
  Nat.max (Nat.max (opBits p 215 212) (opBits c 215 212)) (smallestScope s (some p.eng) (some c.eng))

/-! ### Frame backing (R25, R335) -/

/-- Rows that an engine holds in backing. -/
def rowsBacked (x : Engine) : Nat := lsum (x.blocks.map (·.vrows.length))

/-- A row leaves backing; a block that empties returns to the pool and releases its charge. -/
def unback (s : State) (e : Eng) (vrow : Nat) : State :=
  let x := getEng s e
  match x.blocks.find? (·.vrows.contains vrow) with
  | none => s
  | some b =>
    let b' : BBlock := { b with vrows := b.vrows.erase vrow }
    if b'.vrows.isEmpty then
      let s := setEng s e { x with blocks := x.blocks.erase b }
      modPool (uncharge s e.pkg b.part b.agid 1024) e.pkg e.die b.part fun q => { q with blocksUsed := q.blocksUsed - 1 }
    else setEng s e { x with blocks := x.blocks.map fun q => if q = b then b' else q }

/-- Clear a row, resident or backed. -/
def clearRow (s : State) (e : Eng) (slot vrow : Nat) : State :=
  modEng (unback s e vrow) e fun x => dropRow x slot vrow

/-- What a spill comes to. -/
inductive Spill where
  | ok (s : State)
  | msovf
  | quota (agid bytes : Nat)

/-- Put a row into backing (R25, R335): into a block of its partition with room, else into a new block charged to its
launch's agent. -/
def spillRow (s : State) (e : Eng) (row : Row) : Spill :=
  let x := getEng s e
  let t := ((rowToks row).head?).getD {}
  let into := fun (s : State) (bs : List BBlock) =>
    let s := modEng s e fun x =>
      { putRow x { row with backed := true } with blocks := bs, spills := (x.spills + 1) % 2 ^ 32 }
    let s := modSlot s e row.slot fun d => { d with spills := (d.spills + 1) % 2 ^ 32 }
    match findOp s e row.slot with
    | some r => if opTrc r.op then stageTrace s e.pkg e.die r.g.part row.tag row.vrow (coordNat (opCoord r.op)) row.lid 0x04 else s
    | none => s
  match x.blocks.find? fun b => b.part = t.part ∧ b.vrows.length < 16 with
  | some b => .ok (into s (x.blocks.map fun q => if q = b then { b with vrows := b.vrows ++ [row.vrow] } else q))
  | none =>
    let p := poolOf s e.pkg e.die t.part
    if p.blocks ≤ p.blocksUsed then .msovf
    else if !quotaAdmits s e.pkg t.part t.agid 1024 then .quota t.agid 1024
    else
      let s := modPool (charge s e.pkg t.part t.agid 1024) e.pkg e.die t.part fun q => { q with blocksUsed := q.blocksUsed + 1 }
      .ok (into s (x.blocks ++ [{ part := t.part, agid := t.agid, vrows := [row.vrow] }]))

/-- Bring a backed row into its physical row (R25). -/
def refillRow (s : State) (e : Eng) (row : Row) : State :=
  let s := modEng (unback s e row.vrow) e fun x =>
    { putRow x { row with backed := false } with refills := (x.refills + 1) % 2 ^ 32 }
  let s := modSlot s e row.slot fun d => { d with refills := (d.refills + 1) % 2 ^ 32 }
  match findOp s e row.slot with
  | some r => if opTrc r.op then stageTrace s e.pkg e.die r.g.part row.tag row.vrow (coordNat (opCoord r.op)) row.lid 0x05 else s
  | none => s

/-- The resident row of another virtual row in the physical row of vrow (R23). -/
def occupant (x : Engine) (vrow : Nat) : Option Row :=
  x.rows.find? fun q => !q.backed && decide (q.vrow % 4096 = vrow % 4096) && decide (q.vrow ≠ vrow)

/-- Make the physical row of a virtual row hold it: spill the occupant, refill the row if it is backed. -/
def makeRoom (s : State) (e : Eng) (slot vrow : Nat) : Spill :=
  let refill := fun s : State =>
    match findRow (getEng s e) slot vrow with
    | some q => if q.backed then refillRow s e q else s
    | none => s
  match occupant (getEng s e) vrow with
  | none => .ok (refill s)
  | some o => match spillRow s e o with
    | .ok s => .ok (refill s)
    | x => x

/-! ### What a row needs (R26, R113, R126, R138, R161) -/

/-- The kinds of token that a position accepts. -/
def kindOk (o : Op) (pos kind : Nat) : Bool :=
  let any := decide (1 ≤ kind) && decide (kind ≤ 4)
  let flow := decide (1 ≤ kind) && decide (kind ≤ 3)
  let idx := bits (opCfg o 0) 157 156
  match opKind o, pos with
  | 0x02, _ | 0x03, _ | 0x0C, _ => any
  | 0x04, _ | 0x05, _ | 0x06, _ | 0x07, _ | 0x08, _ | 0x0D, _ | 0x0E, _ => flow
  | 0x09, 0 => flow
  | 0x09, _ => kind = 4
  | 0x0A, 2 => kind = 4
  | 0x0A, _ => any
  | 0x0B, _ => kind = 2 || kind = 3
  | 0x0F, _ => kind = 2
  | 0x10, _ => kind = 1 || kind = 2
  | 0x11, 1 | 0x14, 1 | 0x15, 1 => kind = 2
  | 0x18, 0 => if idx = 2 then kind = 2 else any
  | 0x18, _ => any
  | 0x19, 1 => if idx = 2 then kind = 2 else any
  | 0x1A, 0 =>
    (if bit (opCfg o 0) 159 then any else kind = 1) &&
      ((idx ≠ 2 && bits (opCfg o 1) 157 156 ≠ 2 : Bool) || kind = 2)
  | 0x1A, _ => any
  | 0x1B, _ => kind = 2 || kind = 3
  | 0x1C, _ => kind = 1 || kind = 2
  | _, _ => kind = 1

/-- The predicate of a row is 1. -/
def predTrue (q : Row) : Bool := ((q.p.map fun t => t.opw.getLsbD 0)).getD false

/-- The tokens that an activation of a row consumes (R26, R126): none while the row is incomplete. -/
def consumes (o : Op) (q : Row) : Option (List Token) :=
  if opKind o = 0x0A then
    if opPmask o = 3 then
      match q.l, q.r with
      | some t, _ => some [t]
      | none, some t => some [t]
      | none, none => none
    else match q.p with
      | none => none
      | some p => (if predTrue q then q.l else q.r).map fun t => [t, p]
  else
    let m := opPmask o
    if opKind o = 0x0B ∨ m = 0 then none
    else if (bit m 0 && q.l.isNone) || (bit m 1 && q.r.isNone) || (bit m 2 && q.p.isNone) then none
    else some (rowToks q)

/-- The cycles from the earliest to the latest operand that an activation consumes (R399). -/
def waitOf (o : Op) (q : Row) : Nat :=
  let ts := if opKind o = 0x0A then
      (if opPmask o = 3 then [] else [if predTrue q then q.tl else q.tr, q.tp])
    else (q.l.map fun _ => q.tl).toList ++ (q.r.map fun _ => q.tr).toList ++ (q.p.map fun _ => q.tp).toList
  match ts with
  | [] => 0
  | t :: ts => ts.foldl Nat.max t - ts.foldl Nat.min t

/-- The bin of a wait (R399). -/
def waitBin (w : Nat) : Nat := if w = 0 then 0 else Nat.min 15 (Nat.log2 w)

/-- An operator whose activations record a wait: two or three declared positions, not a GMERGE in mode any. -/
def recordsWait (o : Op) : Bool :=
  let m := opPmask o
  decide (1 < b2n (bit m 0) + b2n (bit m 1) + b2n (bit m 2)) && !(decide (opKind o = 0x0A) && decide (m = 3))

/-- Record the wait of an activation. -/
def recordWait (s : State) (r : OpRef) (q : Row) : State :=
  if recordsWait r.op then
    modSlot s r.op.eng r.op.slot fun d =>
      { d with bins := lmod (waitBin (waitOf r.op q)) (fun n => Nat.min (n + 1) (2 ^ 32 - 1)) d.bins }
  else s

/-! ### Destinations (R26, R140, R156 to R159, R165, R171, R174, R176, R178) -/

/-- A SWIN's row completes a window (R158). -/
def winStart (c r : Nat) : Option Nat :=
  let kh := bits c 35 32 + 1
  let st := bits c 39 36 + 1
  let d := (kh - 1) * (bits c 43 40 + 1)
  if d ≤ r ∧ (r - d) % st = 0 then some ((r - d) / st) else none

/-- The control word of an MMUL activation (R151). -/
def mmulCtl (o : Op) (q : Row) : Nat := if bit (opPmask o) 1 then ((q.r.map tokScalar).getD 0) else 0x300

/-- The declared shape of a destination. -/
def declared (g : Graph) (id : TileId) : TileId × Nat × Nat :=
  match tileRecOf g id with
  | some t => (id, t.rows, t.cols)
  | none => (id, 0, 0)

/-- The destinations of an activation with their shapes; none when the inputs break a shape limit. -/
def wanted (s : State) (r : OpRef) (q : Row) : Option (List (TileId × Nat × Nat)) :=
  let o := r.op
  let f := tagField q.tag (opDepth o)
  let d := destTile r (bits (opCfg o 0) 31 0) f
  let l := q.l.getD {}
  let rt := q.r.getD {}
  let side := fun n : Nat => decide (1 ≤ n) && decide (n ≤ 128)
  let one := fun (h w : Nat) => if side h && side w then some [(d, h, w)] else none
  match opKind o with
  | 0x10 =>
    let b := ((o.block.map fun b : Block => b.binding).getD 0).toNat
    some (((List.range (opNout o)).filter fun p => bit b (32 * p + 22)).map fun p =>
      declared r.g (destTile r (bits b (32 * p + 31) (32 * p)) f))
  | 0x11 => if bit (mmulCtl o q) 9 then some [declared r.g d] else some []
  | 0x13 =>
    if tokRows rt = 1 ∨ tokCols rt = 1 then one (tokRows rt * tokCols rt) (tokCols l) else none
  | 0x14 =>
    let c := tokScalar rt
    if bit (opCfg o 0) 32 then one (tokRows l) (c * tokCols l) else one (c * tokRows l) (tokCols l)
  | 0x15 =>
    match winStart (opCfg o 0) (tokScalar rt) with
    | some _ => one (bits (opCfg o 0) 35 32 + 1) (tokCols l)
    | none => some []
  | 0x16 => one (tokCols l) (tokRows l)
  | 0x17 => one (tokRows l) (tokCols l)
  | 0x18 => some [declared r.g d]
  | 0x1A =>
    if bit (opCfg o 0) 160 then some []
    else
      let d := destTile r (bits (opCfg o 1) 31 0) f
      if bit (opCfg o 0) 159 then some [declared r.g d]
      else if side (tokRows l) && side (tokCols l) then some [(d, tokRows l, tokCols l)] else none
  | 0x1B =>
    if bit (opCfg o 0) 64 then some []
    else match (chanOfReader s (opCoord o)).bind fun k => headRec (getChan s k) with
      | some _ => some [declared r.g d]
      | none => some []
  | 0x1D =>
    match o.disp with
    | [a, b] => some ((a, tokRows l, 1) :: if opNout o = 2 then [(b, 1, bits (opCfg o 0) 5 0 + 1)] else [])
    | _ => some []
  | 0x1E => one (tokRows l) (tokCols l)
  | _ => some []

/-- What trying to make an activation ready comes to. -/
inductive Ready where
  | yes (s : State) (dests : List TileId)
  | no
  | quota (agid bytes : Nat)

/-- Allocate all destinations of an activation, or none of them. A shape that exceeds a capacity allocates nothing; the
activation is ready and faults when it runs (R140, R142). -/
def allocAll (s : State) (g : Graph) (lid agid owner : Nat) : List (TileId × Nat × Nat) → List TileId → Ready
  | [], done => .yes s done
  | (id, h, w) :: ds, done =>
    match allocTile s g id h w lid agid owner with
    | .ok s => allocAll s g lid agid owner ds (done ++ [id])
    | .wait => .no
    | .quota a n => .quota a n
    | .shape _ => .yes s []

/-- The instance of a containment record that a tag at its COPEN or CCLOSE names: record and frame row (R132). -/
def instAt (g : Graph) (rec : Nat) (tag : Word) : Nat × Nat :=
  let d := (((g.conts[rec]?).bind fun c => g.ops[c.copen]?).map opDepth).getD 0
  (rec, tagField tag d)

/-- An activation of a CHW, CHR or SWIN slot is ready or under way, so a later one of the operator waits (R158, R173). -/
def slotBusy (x : Engine) (slot : Nat) : Bool :=
  (x.ready ++ x.unit).any (fun a => decide (a.slot = slot)) || (runs x).any fun u => decide (u.act.slot = slot)

/-- The conditions of a kind beyond its positions and destinations (R134, R158, R173, R174). -/
def kindReady (s : State) (r : OpRef) (q : Row) : Option (Nat × Nat) ⊕ Bool :=
  let o := r.op
  let x := getEng s o.eng
  match opKind o with
  | 0x0E =>
    let k := instAt r.g (bits (opCfg o 0) 15 0) q.tag
    let i := getInst r.g k.1 k.2
    .inr (decide (i.state = 1) && decide (i.pend = 0))
  | 0x15 =>
    let d := tget {} o.slot x.slots
    .inr (decide (d.q = tokScalar (q.r.getD {})) && !slotBusy x o.slot)
  | 0x1C =>
    if slotBusy x o.slot then .inr false
    else match chanOfWriter s (opCoord o) with
      | none => .inr true
      | some k =>
        if k.1 ≠ o.eng.pkg then .inr (decide (0 < creditOf s k))
        else match writePlace s k with
          | .ok _ _ _ => .inr true
          | .full => .inr false
          | .quota a n => .inl (some (a, n))
  | 0x1B =>
    if slotBusy x o.slot then .inr false
    else match chanOfReader s (opCoord o) with
      | none => .inr true
      | some k =>
        let c := getChan s k
        .inr ((headRec c).isSome || (decide (c.state = 2) && c.recs.isEmpty))
  | _ => .inr true

/-- The readiness test of R26. -/
def readyNow (s : State) (r : OpRef) (q : Row) (owner : Nat) : Ready :=
  match kindReady s r q with
  | .inl (some (a, n)) => .quota a n
  | .inl none | .inr false => .no
  | .inr true =>
    match wanted s r q with
    | none => .yes s []
    | some ds =>
      let t := ((rowToks q).head?).getD {}
      allocAll s r.g t.lid t.agid owner ds []

/-- A CHW got FULL, so its channel's write is re-evaluated later (R322, R327). -/
def markFull (s : State) (r : OpRef) : State :=
  if opKind r.op = 0x1C then
    match chanOfWriter s (opCoord r.op) with
    | some k =>
      let full := match writePlace s k with
        | .full => true
        | _ => k.1 ≠ r.op.eng.pkg && decide (creditOf s k = 0)
      if full then modChan s k fun c => { c with full := true } else s
    | none => s
  else s

/-- An activation that is not ready begins to wait, or waits for the ERET of a QUOTA report (R26, R333): behind the
others, or, when it had been ready, before them, so that CHW and CHR keep the order of their arrivals (R173, R174). -/
def beginWait (s : State) (r : OpRef) (q : Row) (held : Option (Nat × Nat)) (front : Bool := false) : State :=
  let o := r.op
  let t := ((rowToks q).head?).getD {}
  let w : AllocWait := { eng := o.eng, slot := o.slot, vrow := q.vrow, held := held.isSome }
  let rest := s.allocWait.filter fun v => !(decide (v.eng = o.eng) && decide (v.slot = o.slot) && decide (v.vrow = q.vrow))
  let s := touch { s with allocWait := if front then w :: rest else rest ++ [w] } o.eng.pkg t.lid
  match held with
  | some (a, n) =>
    raiseAt (breach s o.eng.pkg t.part a) (opCoord o) t.part t.lid 0x0202 (quotaTval a n) q.tag (.act o.eng o.slot q.vrow)
  | none => markFull s r

/-- The activation joins the ready activations of its engine. -/
def joinReady (s : State) (r : OpRef) (q : Row) (owner : Nat) (dests : List TileId) : State :=
  touch (modEng s r.op.eng fun x =>
    { x with ready := x.ready ++ [{ slot := r.op.slot, vrow := q.vrow, id := owner, dests := dests }] }) r.key.1 q.lid

/-- A row already has an activation. -/
def hasAct (s : State) (e : Eng) (slot vrow : Nat) : Bool :=
  let x := getEng s e
  (x.ready ++ x.flow ++ x.unit).any (fun a => decide (a.slot = slot) && decide (a.vrow = vrow)) ||
    s.allocWait.any fun w => decide (w.eng = e) && decide (w.slot = slot) && decide (w.vrow = vrow)

/-- A row may have become complete: its activation becomes ready, or begins to wait (R26). -/
def considerRow (s : State) (r : OpRef) (vrow : Nat) : State :=
  let e := r.op.eng
  match findRow (getEng s e) r.op.slot vrow with
  | none => s
  | some q =>
    if (consumes r.op q).isNone ∨ hasAct s e r.op.slot vrow then s
    else
      let s := recordWait s r q
      let behind := (opKind r.op = 0x1B ∨ opKind r.op = 0x1C) ∧
        s.allocWait.any fun w => w.eng = e ∧ w.slot = r.op.slot
      let (i, s') := fresh s
      if behind then beginWait s r q none
      else match readyNow s' r q i with
        | .yes s ds => joinReady s r q i ds
        | .no => beginWait s r q none
        | .quota a n => beginWait s r q (some (a, n))

/-- Evaluate one waiting activation again (R26). -/
def reevalOne (s : State) (w : AllocWait) : State :=
  let mine := fun v : AllocWait => decide (v.eng = w.eng) && decide (v.slot = w.slot) && decide (v.vrow = w.vrow)
  match findOp s w.eng w.slot, findRow (getEng s w.eng) w.slot w.vrow, s.allocWait.find? mine with
  | some r, some q, some v =>
    let behind := (opKind r.op = 0x1B ∨ opKind r.op = 0x1C) ∧
      (s.allocWait.takeWhile fun v => !mine v).any fun v => v.eng = w.eng ∧ v.slot = w.slot
    if v.held ∨ behind then s
    else
      let (i, s') := fresh s
      match readyNow s' r q i with
      | .yes s ds => joinReady { s with allocWait := s.allocWait.filter fun v => !mine v } r q i ds
      | .no => markFull s r
      | .quota a n => { beginWait s r q (some (a, n)) with
          allocWait := s.allocWait.map fun v => if mine v then { v with held := true } else v }
  | _, _, _ => s

/-- Evaluate every waiting activation, in the order in which they began to wait (R26). -/
def reevalAll (s : State) : State := s.allocWait.foldl reevalOne s

/-! ### Arrival (R14, R15, R25 to R28, R91, R101, R391) -/

/-- A token's reserved bits: the flit's, and those of its operand word (R14, R91). -/
def tokReserved (t : Token) : Bool :=
  let v := t.opw.toNat
  decide (t.rsv ≠ 0) ||
    match t.kind with
    | 1 => decide (bits v 31 18 ≠ 0) || decide (bits v 127 54 ≠ 0)
    | 2 => decide (bits v 127 64 ≠ 0)
    | 3 => decide (v ≠ 0)
    | 4 => decide (1 < v)
    | _ => false

/-- The token-format fault of a token: its cc_tval (R332). -/
def formatFault (t : Token) : Option Nat :=
  let badKind := t.kind = 0 ∨ 5 ≤ t.kind
  let badFmt := t.kind = 1 ∧ !tileFormat (tokFmt t)
  if badKind ∨ tokReserved t ∨ badFmt then
    some (t.kind % 16 + 16 * b2n (tokReserved t) + 32 * b2n badFmt)
  else none

/-- A report about a token. -/
def raiseTok (s : State) (t : Token) (at_ : Coord) (cause tval : Nat) (held : Held := .none) : State :=
  raiseAt s at_ t.part t.lid cause tval t.tag held

/-- A token set aside with its fault: collision, misdelivery or another operator fault (R27, R113). -/
def asideFault (s : State) (t : Token) (e : Eng) (vrow why cause tval : Nat) : State :=
  raiseTok (noteFault (setAsideToks s e t.dst.slot vrow why [t]) e.pkg t.lid 3) t { eng := e, slot := t.dst.slot } cause tval

/-- A row with the token in its position. -/
def putTok (q : Row) (t : Token) (now : Nat) : Row :=
  match t.dst.pos with
  | 0 => { q with l := some t, tl := now }
  | 1 => { q with r := some t, tr := now }
  | _ => { q with p := some t, tp := now }

/-- The token in a position of a row. -/
def posTok (q : Row) (pos : Nat) : Option Token :=
  match pos with
  | 0 => q.l
  | 1 => q.r
  | _ => q.p

/-- A stop entry matches a token for an operator (R391). -/
def stopMatches (v : BitVec 256) (r : OpRef) (t : Token) : Bool :=
  let n := v.toNat
  v.getLsbD 0 && decide (bits n 52 48 = t.part) &&
    (!v.getLsbD 4 || (t.tag ^^^ BitVec.ofNat 64 (bits n 191 128)) &&& BitVec.ofNat 64 (bits n 255 192) == 0) &&
    (!v.getLsbD 5 || decide (bits n 127 90 / 4 = coordNat (opCoord r.op) / 4)) &&
    (!v.getLsbD 6 || decide (bits n 89 78 = t.lid)) &&
    (!v.getLsbD 7 || decide (bits n 77 70 = opRid r.op))

/-- One stop entry sees a token applied to a row (R391). -/
def stopEntry (r : OpRef) (t : Token) (vrow : Nat) (s : State) (k : Nat) : State :=
  let key := (r.key.1, k)
  let v := getStop s key
  if !stopMatches v r t then s
  else
    let n := bits v.toNat 69 54
    if 0 < n then setStop s key (v - BitVec.twoPow 256 54)
    else
      let w := (if v.getLsbD 2 then v &&& ~~~1#256 else v) ||| 2#256
      let s := setStop s key w
      let c := coordNat (opCoord r.op)
      if v.getLsbD 3 then stageTrace s r.key.1 r.op.eng.die r.g.part t.tag k c t.lid 0x0C
      else
        let s := modEng s r.op.eng fun x =>
          { x with rows := x.rows.map fun q => if q.slot = r.op.slot ∧ q.vrow = vrow then { q with stopHeld := true } else q }
        raiseTok (modGraph s r.key fun g => { g with freezing := true }) t (opCoord r.op) 0x020B k

/-- The stop table sees a token applied to a row. -/
def applyStops (s : State) (r : OpRef) (t : Token) (vrow : Nat) : State :=
  (List.range 64).foldl (stopEntry r t vrow) s

/-- Launches that deliver a token to a blocked element fail (R101). A launch that has failed so raises no second block-fault
report at another token or another blocked element (log 138). -/
def failBlocked (s : State) (t : Token) (e : Eng) (b : Nat) : State :=
  match getLaunch s (e.pkg, t.lid) with
  | some l =>
    if l.why = 2 then s
    else raiseTok (noteFault s e.pkg t.lid 2) t { eng := e, slot := b / 128 } 0x0206 (b % 128)
  | none => s

/-- The key of a page switch's fault record (R373): an element code that names no element. -/
def pageSwitch (e : Eng) : Eng := { e with elem := 22 }

/-- A page is powered (R373). -/
def pagePowered (s : State) (e : Eng) : Bool := tget false (e.pkg, e.die, e.page) s.pageOn

/-- A page belongs to the rectangle of a loaded graph (R271). -/
def inSet (g : Graph) (die page : Nat) : Bool :=
  g.reloc.any fun k => decide (k.1 = die) && decide (k.2.1 ≤ page / 4) && decide (page / 4 < k.2.1 + g.prows) &&
    decide (k.2.2 ≤ page % 4) && decide (page % 4 < k.2.2 + g.pcols)

/-- The loaded graph on a page. -/
def setOfPage (s : State) (e : Eng) : Option ((Nat × Nat) × Graph) :=
  s.graphs.find? fun g => decide (g.1.1 = e.pkg) && inSet g.2 e.die e.page

/-- A freeze buffer has room: 256 tokens for a page, and 256 for a die-edge engine (R343). -/
def freezeRoom (s : State) (e : Eng) : Bool :=
  if onPage e then
    decide (lsum ((s.engines.filter fun x => onPage x.1 && decide (x.1.pkg = e.pkg) && decide (x.1.die = e.die) &&
      decide (x.1.page = e.page)).map fun x => x.2.freeze.length) < 256)
  else decide ((getEng s e).freeze.length < 256)

/-- Outcome of the checks before a token reaches its row. -/
inductive Gate where
  /-- it waits where it is -/
  | wait (s : State)
  /-- it has landed: discarded, set aside, or in a freeze buffer -/
  | landed (s : State)
  | row (r : OpRef) (s : State)

/-- The checks of an arriving token, in order (log 19). The first switch that decodes a token whose element code or page
names no element is taken to be that of its source element, so its engine's fault record holds the token (R15; DESIGN
CHOICE, log 19). -/
def gate (s : State) (e : Eng) (t : Token) : Gate :=
  let aside := fun (s : State) (at_ : Eng) (why cause tval : Nat) =>
    if faultRoom s at_ 1 then Gate.landed (asideFault s t at_ 0 why cause tval) else .wait s
  if !engExists e then aside s t.src.eng 1 0x0102 (t.dst.pos + 4)
  else if (t.src.eng.pkg = e.pkg ∧ t.path ≠ pathInPackage t.src.eng e) ∨ 64 ≤ t.hops then
    let at_ := if t.src.eng.pkg = e.pkg then t.src.eng else e
    .landed (raise s { dest := faultThread s e.pkg at_.die t.part, cause := 0x0209, tval := BitVec.ofNat 64 (t.path % 4096),
                       tinfo := t.tag, tcoord := coordNat { eng := at_ }, lid := t.lid, src := at_ })
  else if onPage e ∧ (setOfPage s e).all (fun g => decide (g.2.part ≠ t.part)) then
    if faultRoom s (pageSwitch e) 1 then
      .landed (raiseTok (setAsideToks s (pageSwitch e) t.dst.slot 0 1 [t]) t { eng := e, slot := t.dst.slot } 0x0102
        (t.dst.pos + 8))
    else .wait s
  else
    let x := getEng s e
    let r := findOp s e t.dst.slot
    if onPage e ∧ !pagePowered s e then .wait s
    else if x.gated ∨ x.waking then .wait s
    else if (r.map fun r => r.g.frozen || r.g.freezing).getD ((setOfPage s e).any fun g => onPage e && (g.2.frozen || g.2.freezing)) then
      if freezeRoom s e then .landed (modEng s e fun x => { x with freeze := x.freeze ++ [t] }) else .wait s
    else match x.blocked with
      | some b => .wait (failBlocked s t e b)
      | none =>
        match formatFault t with
        | some v => .landed (raiseTok s t { eng := e, slot := t.dst.slot } 0x0103 v)
        | none =>
          match r with
          | none => aside s e 1 0x0102 t.dst.pos
          | some r =>
            if t.dst.pos = 3 ∨ !bit (opPmask r.op) t.dst.pos then aside s e 1 0x0102 t.dst.pos
            else .row r s

/-- A member token of an instance that unwinds or is held, or a token at its CCLOSE (R135; log 139). -/
def unwindDiscards (r : OpRef) (t : Token) : Bool :=
  unwindingAt r t.tag ||
    (decide (opKind r.op = 0x0E) &&
      let k := instAt r.g (bits (opCfg r.op 0) 15 0) t.tag
      let i := getInst r.g k.1 k.2
      let d := (((r.g.conts[k.1]?).bind fun c => r.g.ops[c.copen]?).map opDepth).getD 0
      decide (2 ≤ i.state) && tagAgrees i.key t.tag d)

/-- An arriving token that passed the gate meets its row: none when it must wait for a spill. -/
def meetRow (s : State) (r : OpRef) (t : Token) : State ⊕ Spill :=
  let e := r.op.eng
  let vrow := vrowOf r.op t.tag
  let x := getEng s e
  let q := (findRow x r.op.slot vrow).getD { vrow := vrow, slot := r.op.slot, lid := t.lid, tag := t.tag }
  if unwindDiscards r t then
    let (f, s) := fresh s
    .inl (consumeTok r f true s t)
  else if !kindOk r.op t.dst.pos t.kind then
    .inl (asideFault s t e vrow 2 0x0104 (t.kind % 16 + 16 * t.dst.pos))
  else if (posTok q t.dst.pos).isSome then .inl (asideFault s t e vrow 0 0x0101 t.dst.pos)
  else if opKind r.op = 0x15 ∧ t.dst.pos = 1 ∧
      (tokScalar t < (tget {} r.op.slot x.slots).q ∨ bits (opCfg r.op 0) 59 44 + 1 ≤ tokScalar t) then
    let s := clearRow s e r.op.slot vrow
    .inl (opFault s r vrow (rowToks { q with r := some t }) 0x010C 0)
  else match makeRoom s e r.op.slot vrow with
    | .ok s =>
      let x := getEng s e
      let q := (findRow x r.op.slot vrow).getD q
      let s := setEng s e (putRow x { putTok q t x.cycles with dtime := (getPkg s e.pkg).time })
      let s := touch s r.key.1 t.lid
      let s := applyStops s r t vrow
      .inl (considerRow s r vrow)
    | w => .inr w

/-- How many tokens an arrival sets aside: a token of a wrong kind or one that collides, and the operands of a SWIN row whose
index is out of range. -/
def arrivalAside (s : State) (r : OpRef) (t : Token) : Nat :=
  let x := getEng s r.op.eng
  let q := (findRow x r.op.slot (vrowOf r.op t.tag)).getD {}
  if unwindDiscards r t then 0
  else if !kindOk r.op t.dst.pos t.kind then 1
  else if opKind r.op = 0x0B then 0
  else if (posTok q t.dst.pos).isSome then 1
  else if opKind r.op = 0x15 ∧ t.dst.pos = 1 ∧
      (tokScalar t < (tget {} r.op.slot x.slots).q ∨ bits (opCfg r.op 0) 59 44 + 1 ≤ tokScalar t) then
    (rowToks { q with r := some t }).length
  else 0

/-- The fault record has room for what an arrival sets aside; an arrival that does not fault needs none (R336). -/
def roomFor (s : State) (r : OpRef) (t : Token) : Bool :=
  decide (arrivalAside s r t = 0) || faultRoom s r.op.eng (arrivalAside s r t)

end Sys2Proof.Machine
end

