-- ==== Sys2Proof/Machine/Hbm.lean ====
section
/-!
DEFINITION. Machine/Hbm.lean: HBM sector requests at their owners, the range scoreboard, page walks, slot tables and the
requests of other packages (spec/13 R300, R301; spec/16 R351 to R359; spec/17 R374 to R376).
-/
namespace Sys2Proof.Machine

/-! ### Stamps and ranges (R300, R301) -/

/-- A stamp's fields in the order of comparison. -/
def stampKey (t : Stamp) : List Nat := [t.time, t.pkg, t.die, t.elem, t.page, t.count]

/-- The lower of two stamps. -/
def stampLt (a b : Stamp) : Bool := lexLt (stampKey a) (stampKey b)

/-- A new stamp of an engine. -/
def newStamp (s : State) (e : Eng) : Stamp × State :=
  let x := getEng s e
  ({ time := (getPkg s e.pkg).time, pkg := e.pkg, die := e.die, elem := e.elem, page := e.page, count := x.stamps },
   modEng s e fun x => { x with stamps := (x.stamps + 1) % 2 ^ 16 })

/-- Sectors of bytes lo to hi - 1 and of x to x + n - 1 overlap. -/
def sectorsMeet (lo hi x n : Nat) : Bool :=
  decide (lo / 64 ≤ (x + n - 1) / 64) && decide (x / 64 ≤ (hi - 1) / 64) && decide (lo < hi) && decide (0 < n)

/-- The next name when a request arrived at its owner: a request of the owner's package arrives when it is issued. -/
def arrival (r : Req) : Nat := r.arr.getD r.id

/-- A scoreboard entry that holds a request back (R301, R228): it was present on the request's arrival and overlaps it. A
chunk of a copy waits for accesses of lower stamp, an access for copies of lower stamp, a control core access for every
copy; a stream waits for neither. -/
def entryHolds (r : Req) (x : RangeEnt) : Bool :=
  x.tile.isNone && decide (x.owner = r.owner) && decide (x.id < arrival r) && sectorsMeet x.lo x.hi r.pa r.len &&
    match r.from_, r.stamp with
    | .stream _ _, _ => false
    | .copy _ _ _, some t => !x.copy && stampLt x.stamp t
    | _, some t => x.copy && stampLt x.stamp t
    | _, none => x.copy

/-- The thread of a request. -/
def reqThread : ReqFrom → Option Tid
  | .load t _ | .store t _ => some t
  | _ => none

/-- An earlier access of the same thread to overlapping bytes has not been performed (R228). -/
def olderMeets (r q : Req) : Bool :=
  (reqThread r.from_).isSome && decide (reqThread q.from_ = reqThread r.from_) && decide (q.id < r.id) &&
    decide (q.st ≠ .done) && decide (q.host = r.host) && decide (q.pa < r.pa + r.len) && decide (r.pa < q.pa + q.len)

/-- A request waits before it is performed. -/
def reqWaits (s : State) (r : Req) : Bool := s.ranges.any (entryHolds r) || s.reqs.any (olderMeets r)

/-! ### Performing a request (R229, R375) -/

/-- Perform a request where its data lies; it carries its answer and is done. -/
def performReq (s : State) (r : Req) : Req × State :=
  if r.host then
    match r.op with
    | .read => ({ r with data := memRead s.hostMem r.pa r.len, st := .done }, s)
    | .write d _ => ({ r with st := .done }, { s with hostMem := memWrite s.hostMem r.pa d })
    | .atomic _ _ _ => ({ r with denied := true, st := .done }, s)
  else if !rangeOk s r.part r.pa then ({ r with denied := true, st := .done }, s)
  else match r.op with
    | .read =>
      let x := readHbm s r.pa r.len
      ({ r with data := x.1, bad := x.2.1, st := .done }, x.2.2)
    | .write d p =>
      let s := writeHbm s r.pa d
      ({ r with st := .done }, if p then poisonHbm s (r.pa / 64 * 64) 64 else s)
    | .atomic op v c =>
      let x := readHbm s r.pa 8
      let n := amoValue op (leWord x.1) v c
      ({ r with data := x.1, bad := x.2.1, st := .done },
       if x.2.1 || !n.2 then x.2.2 else writeHbm x.2.2 r.pa (leBytes 8 n.1.toNat))

/-- The transfer of an access's request. -/
def reqXfer : ReqFrom → Option Nat
  | .hload _ x _ | .hstore _ x => some x
  | _ => none

/-- A store has chunks left to read, so sectors of it are to come. -/
def storing (s : State) (x : Nat) : Bool := s.xfers.any fun y => decide (y.id = x) && !y.todo.isEmpty

/-- The entries of an access at an owner leave once its last sector there has been acknowledged (R300). -/
def leaveOwner (s : State) (r : Req) : State :=
  match reqXfer r.from_ with
  | none => s
  | some x =>
    if storing s x then s
    else if s.reqs.any fun q => decide (reqXfer q.from_ = some x) && decide (q.owner = r.owner) && decide (q.st ≠ .done) then s
    else { s with ranges := s.ranges.filter fun y => y.copy || decide (y.id ≠ x) || decide (y.owner ≠ r.owner) }

/-- Replace a request in the list. -/
def putReq (s : State) (r : Req) : State := { s with reqs := s.reqs.map fun q => if q.id = r.id then r else q }

/-- A request is done and its answer is with the requester. -/
def answerReq (s : State) (r : Req) : State := leaveOwner (putReq s r) r

/-- Whether the engine's watch filter holds a request of an operator, packet, stream or other package (R400, R401). -/
def hbmWatch (s : State) (e : Eng) (r : Req) : Bool :=
  let w := getWatch s e
  let k : Acc := match r.op with | .read => .read | .write _ _ => .write | .atomic _ _ _ => .atomic
  !r.unfiltered && (reqThread r.from_).isNone && watchKind { w with ctl := w.ctl &&& 3#64 } k &&
    w.ctl.getLsbD (32 + r.part) && watchHit w r.pa r.len

/-- Where a report about a request goes (R330): its launch's trap thread; for a copy packet without a launch the fault
thread of its queue (R251); else the partition's fault thread on the owner's die. -/
def reqReport (s : State) (r : Req) : Tid :=
  let job : Option CopyJob := match r.from_ with
    | .copy _ i _ => s.copies.find? fun j => decide (j.id = i)
    | _ => none
  match job.bind fun j : CopyJob => j.packet.map fun p => (j, p.1) with
  | some (j, q) => if j.lid = 0 then ⟨j.eng.pkg, j.eng.die, (getCopyQ s (j.eng.pkg, j.eng.die, q)).faultThr⟩
    else reportFor s j.eng.pkg r.owner r.part r.lid
  | none => reportFor s (reqPkg r.from_) r.owner r.part r.lid

/-- HBM_SECTOR_ACCESS (R375): the owner performs the request named n, in a slot granted to its partition, once the range
scoreboard and the thread's own order admit it. A request for host memory leaves through the package's PCIe port. -/
def execHbmSectorAccess (e : Eng) (n : Nat) (s : State) : Out :=
  .next <|
    match s.reqs.find? (·.id = n) with
    | none => s
    | some r =>
      if r.st ≠ .queued ∨ reqWaits s r then s
      else if r.host then let x := performReq s r; answerReq x.2 x.1
      else if r.owner ≠ e ∨ !slotGrants s e r.part ∨
          !crossGrants s (reqSrc e.pkg (reqDie r.from_) r.from_) e r.part then s
      else if hbmWatch s e r then
        raise (putReq s { r with st := .held })
          { dest := reqReport s r, cause := 0x020C, tval := BitVec.ofNat 64 (r.pa / 64 * 64),
            tcoord := coordNat { eng := e }, lid := r.lid, held := .request r.id, src := e }
      else let x := performReq s r; answerReq x.2 x.1

/-! ### Requests of other packages (R363, R376) -/

/-- A packet is an HBM request, which waits at the owner's engine among its other requests. -/
def isHbmReq (p : Pkt) : Bool := match p.body with
  | .hbmRead _ | .hbmWrite _ | .hbmAtomic _ => true
  | _ => false

/-- A packet that its engine or channel controller takes in and performs later: an HBM request waits for the owner's slots and
scoreboard, a channel write for its ordinal's turn. -/
def waitsInside (p : Pkt) : Bool := isHbmReq p || match p.body with
  | .channelWrite _ _ _ _ _ _ _ => true
  | _ => false

/-- A packet that has reached its package, by its place in the inbox. Packets of one source and one destination are delivered
in the order of emission (R361, R372). -/
def inboxAt (s : State) (n : Nat) : Option Pkt :=
  (s.inbox[n]?).filter fun p => waitsInside p || !(s.inbox.take n).any fun q =>
    decide (q.hdr.src.eng = p.hdr.src.eng) && decide (q.hdr.dst.eng = p.hdr.dst.eng) && !waitsInside q

/-- Take a packet out of the inbox. -/
def dropInbox (s : State) (n : Nat) : State := { s with inbox := s.inbox.eraseIdx n }

/-- What a response carries (R363): the aligned sector of a read, the old value of an atomic. -/
def wholeSector (s : State) (r : Req) (d : List Byte) : List Byte :=
  match r.op with
  | .read => memRead s.hbm (r.pa / 64 * 64) 64
  | _ => d

/-- The bytes of a request in its response. -/
def ofSector (r : Req) (d : List Byte) : List Byte :=
  match r.op with
  | .read => (d.drop (r.pa % 64)).take r.len
  | _ => d

/-- The owner performs a remote request and answers it. A read's or an atomic's answer returns as a read response, once a route
leads back; a write's acknowledgement returns on vc 3 (log 57). While the partition is being reset, it is refused (R355). -/
def performRemote (s : State) (n : Nat) (p : Pkt) (r0 : Req) (answer : Bool) : State :=
  let q := s.reqs.find? (·.id = r0.id)
  let r := { r0 with unfiltered := (q.map (·.unfiltered)).getD false }
  if r.owner.pkg ≠ p.hdr.dst.eng.pkg ∨ !slotGrants s r.owner r.part ∨
      !crossGrants s { p.src with pkg := r.owner.pkg } r.owner r.part ∨ reqWaits s r ∨
      (q.map (·.st)) = some .held then s
  else if hbmWatch s r.owner r then
    raise (putReq s { r with st := .held })
      { dest := reqReport s r, cause := 0x020C,
        tval := BitVec.ofNat 64 (r.pa / 64 * 64), tcoord := coordNat { eng := r.owner }, lid := r.lid,
        held := .request r.id, src := r.owner }
  else
    let x := if (getPart s (r.owner.pkg, r.part)).flr = 0 then performReq s r else ({ r with denied := true, st := .done }, s)
    if answer then
      let hdr : Token := { dst := p.hdr.src, src := { eng := r.owner }, kind := 3, lid := r.lid, part := r.part, vc := 2,
                           opw := BitVec.ofNat 128 p.hdr.seq }
      let out : Pkt := { hdr := hdr, body := .readResponse r.id (wholeSector s r x.1.data) x.1.bad x.1.denied }
      match (egress s r.owner p.hdr.src.eng.pkg).filter (straitRoom s · out) with
      | some e => sendPkt (dropInbox x.2 n) e out
      | none => s
    else answerReq (dropInbox x.2 n) x.1

/-- HBM_READ (R376): op 0x6 at the owner of the sector. -/
def execHbmRead (n : Nat) (s : State) : Out :=
  .next <|
    match inboxAt s n with
    | some p => match p.body with
      | .hbmRead r => performRemote s n p r true
      | _ => s
    | none => s

/-- HBM_WRITE (R376): op 0x7 writes the masked bytes of a sector at the owner. -/
def execHbmWrite (n : Nat) (s : State) : Out :=
  .next <|
    match inboxAt s n with
    | some p => match p.body with
      | .hbmWrite r => performRemote s n p r false
      | _ => s
    | none => s

/-- HBM_ATOMIC (R230): op 0x8 performs the atomic at the owner and returns the old value. -/
def execHbmAtomic (n : Nat) (s : State) : Out :=
  .next <|
    match inboxAt s n with
    | some p => match p.body with
      | .hbmAtomic r => performRemote s n p r true
      | _ => s
    | none => s

/-- READ_RESPONSE (R363): the answer reaches the requester, a request or a CHR activation (R321). -/
def execReadResponse (n : Nat) (s : State) : Out :=
  .next <|
    match inboxAt s n with
    | some p => match p.body with
      | .readResponse i d bad denied =>
        let s := dropInbox s n
        match s.reqs.find? (·.id = i) with
        | some q => answerReq s { q with st := .done, data := ofSector q d, bad := bad, denied := denied }
        | none => { s with xunits := s.xunits.map fun u => if u.id = i ∧ u.phase = 2 then
            { u with phase := 3, counts := [leNat (d.take 8)] } else u }
      | _ => s
    | none => s

/-! ### Page walks (R351 to R353) -/

/-- The walks that hold a walker of a die (R352): the first 192 in the order of their misses. -/
def walkers (s : State) (pkg die : Nat) : List Walk :=
  (s.walks.filter fun w => w.fault == 0 && decide (w.pkg = pkg) && decide (w.die = die)).take 192

/-- The global address of the table entry that a walk reads next; none outside HBM. -/
def walkEntry (w : Walk) : Option Nat :=
  let a := w.table + vaIndex (w.vpage * 8192) w.lvl * 8
  if hbmSize ≤ a then none else some (gpa w.pkg a)

/-- A walk's read may issue at an owner (R359): in a page-walk slot or in a slot of its partition. -/
def walkGrants (s : State) (e : Eng) (part : Nat) : Bool := granted s e .walk || slotGrants s e part

/-- A walk goes on level by level (R351), through at most n levels more: until a slot is missing, it faults, or it comes to a
leaf, answered with the size of its page in bits. -/
def walkOn (s : State) (w : Walk) : Nat → State × Walk × Option (Nat × Nat)
  | 0 => (s, w, none)
  | n + 1 =>
    match walkEntry w with
    | none => (s, { w with fault := 3 }, none)
    | some g =>
      if !walkGrants s (ownerOf g) w.part then (s, w, none)
      else
        let x := readHbm s g 8
        let e := leNat x.1
        if x.2.1 then
          (logError x.2.2 (ownerOf g) { tag := w.tag, slot := w.slot, sector := w.va / 64 % 2 ^ 46, lid := w.lid, part := w.part },
            { w with fault := 2 }, none)
        else if !bit e 0 then (x.2.2, { w with fault := 1 }, none)
        else if pteBad w.lvl e then (x.2.2, { w with fault := 2 }, none)
        else if bit e 1 then (x.2.2, w, some (e, 13 + 10 * w.lvl))
        else walkOn x.2.2 { w with lvl := w.lvl - 1, table := bits e 43 13 * 2 ^ 13 } n

/-- A leaf comes to the TLB of each engine that waits for it (R353), in place of an older entry of the page. -/
def fillTlb (t : List TlbEnt) (w : Walk) (ent sz : Nat) : List TlbEnt :=
  w.engs.foldl (fun t e => { eng := e, part := w.part, vpage := w.vpage, bits := sz, ent := BitVec.ofNat 64 ent } ::
    t.filter fun y => !(decide (y.eng = e) && decide (y.part = w.part) && decide (y.vpage = w.vpage))) t

/-- PAGE_WALK (R351 to R353): a walker that engine e waits on for a virtual page reads its table entries level by level, as
far as the slots of their owners allow, and returns a translation to the TLBs or a fault. An uncorrectable entry raises
permission and appends an entry to the log of the engine that owns it. -/
def execPageWalk (e : Eng) (part vpage : Nat) (s : State) : Out :=
  .next <|
    match (walkers s e.pkg e.die).find? fun w => walkFor w e part vpage && w.engs.contains e with
    | none => s
    | some w =>
      let r := walkOn s w (w.lvl + 1)
      match r.2.2 with
      | some (ent, sz) => { r.1 with walks := r.1.walks.filter (· ≠ w), tlb := fillTlb r.1.tlb w ent sz }
      | none => { r.1 with walks := r.1.walks.map fun y => if y = w then r.2.1 else y }

/-! ### Slots (R357 to R359) -/

/-- The partition of an L1 tile with a chunk at owner e that is readable and that `wanted` still wants. -/
def l1Wants (s : State) (e : Eng) (id : TileId) (wanted : Nat → Bool) : List Nat :=
  let t := getTile s id
  if t.level && (List.range (tileChunks t)).any fun c => wanted c && t.cmap.getLsbD c && (chunkOwners t c).contains e then
    [t.part] else []

/-- Partitions with an L1 chunk to read or write at owner e (R296): inputs of activations in progress or at their unit,
tiles bound to a block in progress, tile sources of copies, chunk writes. -/
def l1Ready (s : State) (e : Eng) : List Nat :=
  let toks := fun (l : List Token) (got : Nat → Nat → Bool) =>
    (l.filter (·.kind = 1)).flatMap fun t => l1Wants s e (tokTile t) fun c => !got t.dst.pos c
  (s.engines.flatMap fun x =>
    ((runs x.2).flatMap fun u => toks u.toks fun p c => u.recv.any fun b => decide (b.input = p) && decide (b.chunk = c)) ++
      (x.2.run.bind fun u => (findOp s x.1 u.act.slot).map fun r =>
        (boundTiles r).flatMap fun id => l1Wants s e id fun _ => true).getD [] ++
      x.2.unit.flatMap fun a => ((findRow x.2 a.slot a.vrow).map fun q => toks (rowToks q) fun _ _ => false).getD []) ++
  (s.copies.flatMap fun j => match j.src with
    | .tile id => l1Wants s e id fun c => j.left.contains c
    | _ => []) ++
  (s.xfers.flatMap fun x => l1Wants s e (tokTile x.tok) fun c => x.todo.contains c) ++
  (s.chunkWrites.filter fun w => decide (w.left = 0) && (chunkOwners (getTile s w.tile) w.chunk).contains e).map fun w =>
    (getTile s w.tile).part

/-- An endpoint of a channel acts on it now: its operator has an activation at the unit, or its thread waits. -/
def endActs (s : State) : Endpoint → Bool
  | .none => false
  | .op c _ => (getEng s c.eng).unit.any fun a => decide (a.slot = c.slot)
  | .thread t => (getThr s t).wait.isSome
  | .saved _ _ => false

/-- Partitions with a channel record to read or write in a segment at owner e (R375): one with a place and bytes to come, the
oldest for a reader, the next place for a writer. -/
def recReady (s : State) (e : Eng) : List Nat :=
  (s.chans.filter fun x =>
    let at_ := fun r : Rec => ((recSectors s x.1 x.2 r).map ownerOf).contains e
    (x.2.recs.any fun r => !r.ready && at_ r) || (endActs s x.2.rep && (headRec x.2).any at_) ||
      (endActs s x.2.wep && match writePlace s x.1 with
        | .ok seg pos _ => at_ { seg := seg, pos := pos }
        | _ => false)).map (·.2.part)

/-- The traffic of a package that crosses an inner strait and has not crossed it yet: tokens on their way, and requests of one
die to an owner on another (R359, R361). -/
def crossing (s : State) (e : Eng) : List Nat :=
  if e.elem ≠ 26 then []
  else
    (s.inFlight.filter fun t => crosses (tokFrom t) t.dst.eng e).map (·.part) ++
      (s.inbox.filter fun p => match p.body with
        | .hbmRead r | .hbmWrite r | .hbmAtomic r => crosses { p.src with pkg := e.pkg } r.owner e
        | _ => false).map (fun p => p.hdr.part) ++
      (s.reqs.filter fun r => decide (r.st = .queued) && crosses (reqSrc r.owner.pkg (reqDie r.from_) r.from_) r.owner e).map (·.part)

/-- The partitions of the walks on a package that would read a table entry at an owner. -/
def walksReady (s : State) (e : Eng) : List Nat :=
  ((List.range 4).flatMap fun d => (walkers s e.pkg d).filter fun w => (walkEntry w).any fun g => decide (ownerOf g = e)).map (·.part)

/-- Partitions with something ready at an engine: requests, L1 chunks, channel records and page walks at an HBM port engine,
packets at a strait engine, what crosses an inner strait. -/
def readyParts (s : State) (e : Eng) : List Nat :=
  l1Ready s e ++ walksReady s e ++ recReady s e ++ crossing s e ++
  (s.reqs.filter fun r => r.owner = e ∧ r.st = .queued).map (·.part) ++
  (s.inbox.filter fun p => match p.body with
    | .hbmRead r | .hbmWrite r | .hbmAtomic r => decide (r.owner = e)
    | _ => false).map (fun p => p.hdr.part) ++
  (s.packets.filter fun p => p.at_ = e ∧ !p.link).map (fun p => p.hdr.part)

/-- The next partition with something ready, from the one after the last served in an open slot (R359). A partition in
function-level reset drains in its own slots and in scrub slots only (R356). -/
def openTurn (s : State) (e : Eng) (last : Nat) (but : Option Nat) : Grant :=
  let r := (readyParts s e).filter fun p => some p != but && decide ((getPart s (e.pkg, p)).flr = 0)
  match ((List.range 32).map fun k => (last + 1 + k) % 32).find? fun p => r.contains p with
  | some p => .part p
  | none => .none

/-- The grant of a slot entry (R358, R359), and whether it served open traffic in an open slot. -/
def grantOf (s : State) (e : Eng) (t : SlotTab) (ent : Nat) : Grant :=
  let use := ent % 32
  match ent / 64 with
  | 0 => if bit ent 5 && !(readyParts s e).contains use then openTurn s e t.last (some use) else .part use
  | 1 => openTurn s e t.last none
  | _ => match use with
    | 0 => .scrub
    | 1 => .trace
    | _ => .walk

/-- An engine with a slot table: an HBM port engine or a strait egress (R357). -/
def hasSlots (e : Eng) : Bool := (e.elem = 24 || e.elem = 25 || e.elem = 26 : Bool)

/-- A new table takes effect at its frame boundary (R358). -/
def dueTab (t : SlotTab) (frame : Nat) : SlotTab :=
  match t.pending with
  | some x => if t.pendingFrame ≤ frame then { t with tab := x, pending := none } else t
  | none => t

/-- The grant of a slot that is asked for after its boundary: nothing was ready at the boundary, so an open slot and one that may
be lent serve nothing to their end (R359). -/
def lateGrant (ent : Nat) : Grant :=
  match ent / 64, ent % 32 with
  | 0, p => if bit ent 5 then .none else .part p
  | 1, _ => .none
  | _, 0 => .scrub
  | _, 1 => .trace
  | _, _ => .walk

/-- SLOT_BOUNDARY (R357 to R359): the slot of the present device time is granted; a new table takes effect at a frame
boundary. Each slot is granted once. -/
def execSlotBoundary (e : Eng) (s : State) : Out :=
  .next <|
    let now := (getPkg s e.pkg).time
    let n := now / 32
    let t := dueTab (getSlotTab s e) (n / 256)
    if !hasSlots e then s
    else if t.slot = n + 1 then setSlotTab s e t
    else
      let ent := tget 0x40 (n % 256) t.tab
      let g := if now % 32 = 0 then grantOf s e t ent else lateGrant ent
      let last := match g with
        | .part p => if ent / 64 = 1 then p else t.last
        | _ => t.last
      setSlotTab s e { t with slot := n + 1, grant := g, last := last }

end Sys2Proof.Machine
end

