-- ==== Sys2Proof/Machine/Flow.lean ====
section
/-!
DEFINITION. Machine/Flow.lean: token arrival, live counts, the arbiters and the flow kinds (spec/01, spec/05, spec/12).
-/
namespace Sys2Proof.Machine

/-! ### Tokens on their way (R15, R372) -/

/-- Two tokens of one pair, which stay in emission order (R372). -/
def samePair (a b : Token) : Bool :=
  decide (a.src.eng = b.src.eng) && decide (a.dst.eng = b.dst.eng) && decide (a.vc = b.vc)

/-- A token needs a spill: another virtual row is in its physical row (R25). -/
def needsSpill (s : State) (r : OpRef) (t : Token) : Bool := (occupant (getEng s r.op.eng) (vrowOf r.op t.tag)).isSome

/-- A token that could not spill is held at ingress, with its report (R334, R335); the wait is activity of its launch
(R337). -/
def holdSpill (s : State) (e : Eng) (t : Token) (w : Spill) : State :=
  let s := touch (modEng s e fun x => { x with ovf := true }) e.pkg t.lid
  match w with
  | .quota a n => raiseTok (breach s e.pkg t.part a) t { eng := e, slot := t.dst.slot } 0x0202 (quotaTval a n) (.token e t)
  | _ => raiseTok s t { eng := e, slot := t.dst.slot } 0x0201 (rowsBacked (getEng s e) / 16 % 4096) (.token e t)

/-- A token of another package leaves through the strait engine that carries it, once that takes it (R369), or is misdelivered
there (R15). -/
def leavePackage (s : State) (n : Nat) (t : Token) : State :=
  match egress s t.src.eng t.dst.eng.pkg with
  | some e =>
    if straitRoom s e { hdr := t } then sendPkt { s with inFlight := s.inFlight.eraseIdx n } e { hdr := t } else s
  | none =>
    let e : Eng := ⟨t.src.eng.pkg, t.src.eng.die, 0, 25⟩
    if faultRoom s e 1 then
      asideFault { s with inFlight := s.inFlight.eraseIdx n } t e 0 1 0x0102 (t.dst.pos + 4)
    else s

/-! ### Live counts (R21, R22, R127) -/

/-- An update would carry pbal outside its range (R119, R127). -/
def balOut (s : State) (k : ColKey) (d : Int) : Bool :=
  let b := (getCol s k).pbal + d
  decide (d ≠ 0) && !(decide (-32768 ≤ b) && decide (b ≤ 32767))

/-- Change pbal. -/
def addBal (s : State) (k : ColKey) (d : Int) : State :=
  if d = 0 then s else modCol s k fun c => { c with pbal := c.pbal + d }

/-- The cc_tval of a steer-balance fault (R332). -/
def balTval (s : State) (k : ColKey) : Nat :=
  ((getCol s k).pbal % 2 ^ 16).toNat + k.colour * 2 ^ 16 + k.region * 2 ^ 24

/-- Steer-balance of an update (R119): pbal keeps its value, and the predicate token is set aside, still counted as live,
at the GSTEER or GMERGE that it is addressed to (log 27). -/
def balFault (s : State) (k : ColKey) (t : Token) : State :=
  let v := ((findOp s t.dst.eng t.dst.slot).map fun r => vrowOf r.op t.tag).getD 0
  asideFault s t t.dst.eng v 2 0x0107 (balTval s k)

/-- Tokens released in one emission order of a pair (R372). -/
def samePairUpd (t : Token) (v : LiveUpdate) : Bool := (v.tok.map (samePair t)).getD false

/-- LIVE_COUNT_UPDATE (R21): the home engine applies update n. An increment releases its token; a decrement follows the
increments of its firing; an update that would carry pbal out of its range raises steer-balance (R119). -/
def execLiveCountUpdate (n : Nat) (s : State) : Out :=
  .next <|
    match s.updates[n]? with
    | none => s
    | some u =>
      let rest := { s with updates := s.updates.eraseIdx n }
      if u.inc then
        if !liveRoom s u.key then s
        else match u.tok with
          | some t =>
            if (s.updates.take n).any (samePairUpd t) then s
            else if balOut s u.key u.pb then
              if faultRoom s t.dst.eng 1 then balFault (holdLive rest u.key) u.key t else s
            else
              let s := addBal (holdLive rest u.key) u.key u.pb
              touch { s with inFlight := s.inFlight ++ [t] } u.key.pkg u.lid
          | none => holdLive rest u.key
      else if s.updates.any fun v => v.firing = u.firing ∧ v.inc then s
      else if balOut s u.key u.pb then
        match u.tok with
        | some t => if faultRoom s t.dst.eng 1 then balFault rest u.key t else s
        | none => dropLive rest u.key
      else dropLive (addBal rest u.key u.pb) u.key

/-- A unit of live on a colour is released after the increments of a firing. -/
def releaseUnit (s : State) (fid : Nat) (k : ColKey) (lid : Nat) : State :=
  { s with updates := s.updates ++ [{ firing := fid, key := k, inc := false, lid := lid }] }

/-! ### Arbiters (R283 to R286) -/

/-- A flow kind. -/
def isFlowKind (k : Nat) : Bool := decide (k ≤ 0x0F)

/-- The set of an operator takes part in arbitration. -/
def running (g : Graph) : Bool := !g.frozen && !g.freezing

/-- The unit of an activation can take it (R150, R165, R171, R283, R434): a compute unit holds at most 2 that wait, among
which a WLOAD does not count against an MMUL (R149). -/
def unitTakes (s : State) (r : OpRef) : Bool :=
  let x := getEng s r.op.eng
  let k := opKind r.op
  if isFlowKind k then true
  else if k ≤ 0x17 then
    let waiting := x.unit.filter fun a => k ≠ 0x11 || ((findOp s r.op.eng a.slot).map fun q => decide (opKind q.op ≠ 0x12)).getD true
    decide (waiting.length < 2) && (k ≠ 0x11 ||
      let i := getIsland s r.op.eng
      decide ((if i.swp then i.bidle else i.bact) < 255))
  else if k ≤ 0x19 then decide ((s.xfers.filter fun f => f.eng = r.op.eng).length + x.unit.length < 64)
  else if k = 0x1A then decide (x.unit.length < 16)
  else true

/-- The first ready activation of each operator of an engine that may be selected: its slot, operator and activation. -/
def candidates (s : State) (e : Eng) : List (OpRef × Act) :=
  let x := getEng s e
  (x.ready.zipIdx).filterMap fun p =>
    let a := p.1
    if (x.ready.take p.2).any fun b => b.slot = a.slot then none
    else match findOp s e a.slot, findRow x a.slot a.vrow with
      | some r, some q => if running r.g && !q.stopHeld && unitTakes s r then some (r, a) else none
      | _, _ => none

/-- choose_class of R284: urgent, and the new count u. -/
def chooseClass (urgent normal : Bool) (u : Nat) : Bool × Nat :=
  if !urgent then (false, u)
  else if !normal then (true, 0)
  else if u = 7 then (false, 0)
  else (true, u + 1)

/-- choose_operator of R285 over operators with their slots, credits and weights: the slot chosen. -/
def bestSlot : List (Nat × Int) → Option (Nat × Int)
  | [] => none
  | (k, c) :: l =>
    match bestSlot l with
    | none => some (k, c)
    | some (k', c') => if c' < c ∨ (c' = c ∧ k < k') then some (k, c) else some (k', c')

/-- The occupancy that a cycle adds (R286): occupied rows, resident or backed, and tokens at ingress, of sets not
frozen. -/
def addOcc (s : State) (e : Eng) : State :=
  let x := getEng s e
  let live := fun k : Nat => ((findOp s e k).map fun r => running r.g).getD false
  let ks := (x.rows.map (·.slot) ++ x.ingress.map (·.dst.slot)).filter live
  setEng s e { x with slots := ks.foldl (fun t k => tmod {} k (fun d : SlotDyn => { d with occ := d.occ + 1 }) t) x.slots }

/-- Bind an MMUL activation to a bank when it is selected (R150). -/
def bindBank (s : State) (e : Eng) (a : Act) : Act × State :=
  let i := getIsland s e
  if i.swp then ({ a with bank := some !i.act }, setIsland s e { i with bidle := i.bidle + 1 })
  else ({ a with bank := some i.act }, setIsland s e { i with bact := i.bact + 1 })

/-- Select an activation for its unit. -/
def selectAct (s : State) (r : OpRef) (a : Act) : State :=
  let e := r.op.eng
  let (b, s) := if opKind r.op = 0x11 then bindBank s e a else (a, s)
  modEng s e fun x =>
    let x := { x with ready := x.ready.erase a }
    if isFlowKind (opKind r.op) then { x with flow := x.flow ++ [b] } else { x with unit := x.unit ++ [b] }

/-- ARBITER_SELECT (R284, R285): one cycle of engine e. Waiting activations are evaluated again (R26), the occupancy is
counted, and at most one ready activation is selected. After the last cycle of an epoch of 1,024 the weights are formed
before the next (R286). -/
def execArbiterSelect (e : Eng) (s : State) : Out :=
  .next <|
    let s := reevalAll s
    if 1024 ≤ (getEng s e).epoch then s
    else
    let s := addOcc (modEng s e fun x => { x with cycles := x.cycles + 1, epoch := x.epoch + 1 }) e
    let c := candidates s e
    let x := getEng s e
    let ur := c.filter fun p => opPrio p.1.op
    let no := c.filter fun p => !opPrio p.1.op
    let cls := chooseClass (!ur.isEmpty) (!no.isEmpty) x.u
    let o := if cls.1 then ur else no
    let w := fun p : OpRef × Act => (tget {} p.2.slot x.slots).weight
    let total := lsum (o.map w)
    let cr := o.map fun p => (p.2.slot, (tget {} p.2.slot x.slots).credit + (w p : Int))
    match bestSlot cr with
    | none => s
    | some (k, best) =>
      let slots := cr.foldl (fun t p => tmod {} p.1 (fun d : SlotDyn => { d with credit := p.2 }) t) x.slots
      let slots := tmod {} k (fun d : SlotDyn => { d with credit := best - (total : Int) }) slots
      let s := setEng s e { x with u := cls.2, slots := slots }
      match o.find? fun p => p.2.slot = k with
      | some (r, a) => selectAct s r a
      | none => s

/-- The effective weight of R286. -/
def effWeight (share occ : Nat) : Nat := share * (1 + Nat.min 7 (Nat.log2 (1 + occ / 1024)))

/-- ARBITER_REWEIGHT (R286): at the end of an epoch of 1,024 cycles. -/
def execArbiterReweight (e : Eng) (s : State) : Out :=
  .next <|
    let x := getEng s e
    if x.epoch < 1024 then s
    else
      setEng s e { x with epoch := 0, slots := tmap (fun k d =>
        match findOp s e k with
        | some r => { d with weight := effWeight (opShare r.op) d.occ, occ := 0 }
        | none => { d with occ := 0 }) x.slots }

/-! ### Firings of the flow unit (R112) -/

/-- A flow activation about to fire: operator, activation, row and the tokens it consumes. -/
structure Firing where
  r : OpRef
  act : Act
  q : Row
  toks : List Token

/-- A kind whose entry states a wait, so a later activation of its operator may pass it. -/
def mayWait (k : Nat) : Bool := k = 4 || k = 5 || k = 7 || k = 8

/-- The activation at place n of engine e's flow unit, when it is of a kind and its set is not frozen. -/
def firing (s : State) (e : Eng) (n kind : Nat) : Option Firing :=
  let x := getEng s e
  match x.flow[n]? with
  | none => none
  | some a =>
    match findOp s e a.slot, findRow x a.slot a.vrow with
    | some r, some q =>
      if opKind r.op = kind ∧ !r.g.frozen ∧ (mayWait kind ∨ !(x.flow.take n).any fun b => b.slot = a.slot) then
        (consumes r.op q).map fun ts => { r := r, act := a, q := q, toks := ts }
      else none
    | _, _ => none

/-- The consumed positions of a row are cleared (R26); an unselected token stays (R126). -/
def takeOps (s : State) (f : Firing) : State :=
  let e := f.r.op.eng
  let has := fun p : Nat => f.toks.any fun t => t.dst.pos = p
  let q := { f.q with l := if has 0 then none else f.q.l, r := if has 1 then none else f.q.r,
                      p := if has 2 then none else f.q.p }
  if (rowToks q).isEmpty then clearRow s e f.q.slot f.q.vrow else modEng s e fun x => putRow x q

/-- The activation leaves the flow unit and its row. -/
def leaveFlow (s : State) (f : Firing) : State :=
  let s := modEng s f.r.op.eng fun x => { x with flow := x.flow.erase f.act }
  considerRow (takeOps s f) f.r f.q.vrow

/-- A firing: its emissions' increments, then its tokens' decrements (R21). -/
def fire (s : State) (f : Firing) (fid : Nat) (out : List Token) (retire : Bool) : State :=
  let s := countFiring s f.r f.q.tag f.q.lid (waitOf f.r.op f.q)
  let s := consumeToks (emitToks s f.r fid f.q.tag out) f.r fid retire f.toks
  leaveFlow s f

/-- The firing of a flow kind that only emits; it waits while a tile's refs have no room (R31). -/
def fireOut (s : State) (f : Firing) (out : List Token) : State :=
  if !refsRoom s out then s else let (i, s) := fresh s; fire s f i out true

/-- A faulting firing emits nothing and changes no record (R119). -/
def faultFire (s : State) (f : Firing) (cause tval : Nat) : State :=
  if !faultRoom s f.r.op.eng f.toks.length then s
  else leaveFlow (opFault s f.r f.q.vrow f.toks cause tval) f

/-- The left token of a firing. -/
def leftTok (f : Firing) : Token := f.q.l.getD {}

/-- Poison of a firing's tokens is copied into every token it emits (R170). -/
def poisoned (f : Firing) : Bool := f.toks.any (·.poison)

/-- SINK (R122). -/
def execSink (e : Eng) (n : Nat) (s : State) : Out :=
  .next <| match firing s e n 0x02 with
    | some f => fireOut s f []
    | none => s

/-- DUP (R122): a copy to every consumer of every port. -/
def execDup (e : Eng) (n : Nat) (s : State) : Out :=
  .next <| match firing s e n 0x03 with
    | some f => fireOut s f (toAllPorts f.r (leftTok f))
    | none => s

/-- GSTEER (R126). -/
def execGsteer (e : Eng) (n : Nat) (s : State) : Out :=
  .next <| match firing s e n 0x09 with
    | some f => fireOut s f (toPort f.r (if predTrue f.q then 0 else 1) { leftTok f with poison := poisoned f })
    | none => s

/-- GMERGE (R126): the selected token on port 0. -/
def execGmerge (e : Eng) (n : Nat) (s : State) : Out :=
  .next <| match firing s e n 0x0A with
    | some f => fireOut s f (toPort f.r 0 { (f.toks.head?).getD {} with poison := poisoned f })
    | none => s

/-- The packets on their way: on links, at their destinations, and those that a retry buffer keeps (R369). -/
def allPkts (s : State) : List Pkt :=
  s.packets ++ s.inbox ++ s.straits.flatMap fun x => x.2.retry.map (·.pkt) ++ x.2.waiting ++ x.2.term.flatMap fun t => t.2.win

/-- Writes of a launch that have not been performed yet. -/
def writesPending (s : State) (pkg lid : Nat) : Bool :=
  (s.reqs.any fun r => decide (r.lid = lid) && decide (reqPkg r.from_ = pkg) && decide (r.st ≠ .done) && match r.op with
    | .read => false
    | _ => decide (lid ≠ 0)) ||
  (s.chunkWrites.any fun w => decide (w.lid = lid) && decide (w.tile.pkg = pkg)) ||
  (allPkts s).any fun p => decide (p.hdr.lid = lid) && decide (p.hdr.src.eng.pkg = pkg) && match p.body with
    | .channelWrite _ _ _ _ _ _ _ | .chunkWrite _ _ _ => true
    | _ => false

/-- The package that counts a packet among its own: the one whose launch it belongs to. -/
def pktHome (p : Pkt) : Nat :=
  match p.body with
  | .readResponse _ _ _ _ => p.hdr.dst.eng.pkg
  | _ => p.hdr.src.eng.pkg

/-- BRIDGE (R130): emits once every write of the launch so covered has been performed (log 4). -/
def execBridge (e : Eng) (n : Nat) (s : State) : Out :=
  .next <| match firing s e n 0x0C with
    | some f => if writesPending s e.pkg f.q.lid then s else fireOut s f (toAllPorts f.r (leftTok f))
    | none => s

/-! ### Colours (R117, R118, R123 to R125) -/

/-- Draw a colour for an activation, in its turn (R117): the colour and state, or the state in which the draw waits. -/
def tryDraw (s : State) (f : Firing) (region : Nat) (hold : ColKey) : (Nat × State) ⊕ State :=
  let e := f.r.op.eng
  let mine := fun d : Draw => decide (d.eng = e) && decide (d.slot = f.q.slot) && decide (d.vrow = f.q.vrow)
  let ds := ((getRegion s { pkg := f.r.key.1, graph := f.r.key.2, region := region }).map (·.draws)).getD []
  let put := fun (s : State) (ds : List Draw) => modRegion s f.r.key.1 f.r.key.2 region fun r => { r with draws := ds }
  let wait := if ds.any mine then s
    else put (touch s f.r.key.1 f.q.lid) (ds ++ [{ eng := e, slot := f.q.slot, vrow := f.q.vrow, lid := f.q.lid, tag := f.q.tag }])
  if ((ds.head?).map mine).getD true then
    match drawColour (put s (ds.filter fun d => !mine d)) f.r.key.1 f.r.key.2 region f.q.lid (some hold) false with
    | some (c, s) =>
      .inl (c, if opTrc f.r.op then
        stageTrace s e.pkg e.die f.r.g.part f.q.tag (c + region * 256) (coordNat (opCoord f.r.op)) f.q.lid 0x02 else s)
    | none => .inr wait
  else .inr wait

/-- The members of an ENTER group or of a call site: operators of one kind on one engine with one value of a field. -/
def groupOf (g : Graph) (o : Op) (hi lo : Nat) : List Op :=
  g.ops.filter fun p => decide (opKind p = opKind o) && decide (p.eng = o.eng) && decide (opRid p = opRid o) &&
    decide (bits (opCfg p 0) hi lo = bits (opCfg o 0) hi lo)

/-- The lowest slot of a group. -/
def lowSlot (l : List Op) : Nat := (l.map (·.slot)).foldl Nat.min 63

/-- The draw of another member of the group waits for a frame row, so this member will use what it draws (R118). -/
def groupDraws (s : State) (e : Eng) (key : Nat × Nat) (region slot : Nat) (grp : List Op) (tag : Word) (depth : Nat) : Bool :=
  ((getRegion s { pkg := key.1, graph := key.2, region := region }).map fun r => r.draws.any fun d =>
    decide (d.eng = e) && decide (d.slot ≠ slot) && grp.any (fun p => decide (p.slot = d.slot)) &&
      decide (tagField d.tag depth = tagField tag depth)).getD false

/-- The region for whose colour an activation of the flow unit waits: by its own draw, by its group's draw (R118), or by
another NEXT's draw of the successor (R123). -/
def colourWait (s : State) (e : Eng) (a : Act) : Option Nat :=
  match findOp s e a.slot, findRow (getEng s e) a.slot a.vrow with
  | some r, some q =>
    let own := r.g.regions.zipIdx.findSome? fun x => if x.1.draws.any (fun d => decide (d.eng = e) &&
      decide (d.slot = a.slot) && decide (d.vrow = a.vrow)) then some x.2 else none
    let region := bits (opCfg r.op 0) 7 0
    let d := opDepth r.op
    match own, opKind r.op with
    | some x, _ => some x
    | none, 0x04 => if groupDraws s e r.key region a.slot (groupOf r.g r.op 7 0) q.tag d then some region else none
    | none, 0x07 => if groupDraws s e r.key region a.slot (groupOf r.g r.op 21 16) q.tag d then some region else none
    | none, 0x05 => if (getCol s (colKeyAt r.key r.op q.tag)).spnd then some (opRid r.op) else none
    | none, _ => none
  | _, _ => none

/-- A RET waits until the linkage of its context is valid (R125). -/
def linkageWait (s : State) (e : Eng) (a : Act) : Bool :=
  match findOp s e a.slot, findRow (getEng s e) a.slot a.vrow with
  | some r, some q =>
    let k := colKeyAt r.key r.op q.tag
    decide (opKind r.op = 0x08) && (getCol s k).busy && ((getRegion s k).bind fun r => tfind k.colour r.links).isNone
  | _, _ => false

/-- The entry record of a group for a firing is counted, and cleared when every member has fired (R118). -/
def countEntry (s : State) (e : Eng) (key : Nat × Nat) (value count size : Nat) : State :=
  modEng s e fun x =>
    { x with entries := (if count + 1 = size then tdel key x.entries
                         else tset key { value := value, count := count + 1 } x.entries) }

/-- ENTER (R123): enter_fire. -/
def execEnterOp (e : Eng) (n : Nat) (s : State) : Out :=
  .next <| match firing s e n 0x04 with
    | none => s
    | some f =>
      let o := f.r.op
      let t := leftTok f
      let lp := bits (opCfg o 0) 7 0
      let grp := groupOf f.r.g o 7 0
      let key := (lowSlot grp, tagField t.tag (opDepth o))
      let go := fun (s : State) (c count : Nat) =>
        let (i, s) := fresh s
        countEntry (fire s f i (toPort f.r 0 { t with tag := setField t.tag (opDepth o + 1) c }) true) e key c count grp.length
      if !refsRoom s (toPort f.r 0 t) then s
      else match tfind key (getEng s e).entries with
        | some x => go s x.value x.count
        | none =>
          if groupDraws s e f.r.key lp f.q.slot grp t.tag (opDepth o) ∨ !liveRoom s (colKeyAt f.r.key o t.tag) then s
          else match tryDraw s f lp (colKeyAt f.r.key o t.tag) with
          | .inl (c, s) => go s c 0
          | .inr s => s

/-- The cc_tval of a colour fault (R332). -/
def colTval (k : ColKey) : Nat := k.colour + k.region * 256

/-- NEXT (R123): next_fire. -/
def execNextOp (e : Eng) (n : Nat) (s : State) : Out :=
  .next <| match firing s e n 0x05 with
    | none => s
    | some f =>
      let o := f.r.op
      let t := leftTok f
      let d := opDepth o
      let k := colKeyAt f.r.key o t.tag
      let c := getCol s k
      let go := fun (s : State) (succ : Nat) =>
        let (i, s) := fresh s
        let s := closeColour s k (if opTrc o then some (o.eng, o.slot) else none)
        fire s f i (toPort f.r 0 { t with tag := setField t.tag d succ }) true
      let asked := ((getRegion s k).map fun r => r.draws.any fun w =>
        decide (w.eng = e) && decide (w.slot = f.q.slot) && decide (w.vrow = f.q.vrow)).getD false
      if !c.busy then faultFire s f 0x0105 (colTval k)
      else if 0 < c.closes ∧ !c.succv ∧ !c.spnd then faultFire s f 0x0106 (colTval k)
      else if !refsRoom s (toPort f.r 0 t) then s
      else if c.succv then go s c.succ
      else if (c.spnd ∧ !asked) ∨ !liveRoom s (enclosing f.r.key f.r.g (opRid o) t.tag d) then s
      else match tryDraw s f (opRid o) (enclosing f.r.key f.r.g (opRid o) t.tag d) with
        | .inl (x, s) => go (modCol s k fun c => { c with succ := x, succv := true, spnd := false }) x
        | .inr s => modCol s k fun c => { c with spnd := true }

/-- EXIT (R123): exit_fire. -/
def execExitOp (e : Eng) (n : Nat) (s : State) : Out :=
  .next <| match firing s e n 0x06 with
    | none => s
    | some f =>
      let o := f.r.op
      let t := leftTok f
      let k := colKeyAt f.r.key o t.tag
      let c := getCol s k
      let out := toPort f.r 0 { t with tag := setField t.tag (opDepth o) 0 }
      if !c.busy then faultFire s f 0x0105 (colTval k)
      else if c.succv ∨ c.spnd then faultFire s f 0x0106 (colTval k)
      else if !refsRoom s out then s
      else
        let (i, s) := fresh s
        fire (closeColour s k (if opTrc o then some (o.eng, o.slot) else none)) f i out true

/-- CALL (R124): call_fire. -/
def execCallOp (e : Eng) (n : Nat) (s : State) : Out :=
  .next <| match firing s e n 0x07 with
    | none => s
    | some f =>
      let o := f.r.op
      let t := leftTok f
      let v := opCfg o 0
      let fn := bits v 7 0
      let grp := groupOf f.r.g o 21 16
      let key := (lowSlot grp, tagField t.tag (opDepth o))
      let dests := (List.range (bits v 23 22 + 1)).map fun k => bits v (22 * k + 45) (22 * k + 24)
      let go := fun (s : State) (x count : Nat) =>
        let s := if bits v 11 8 = 0 then
            modRegion s f.r.key.1 f.r.key.2 fn fun r => { r with links := tset x { tag := t.tag, dest := dests } r.links }
          else s
        let (i, s) := fresh s
        let ctx := BitVec.ofNat 64 ((fn * 256 + x) * 2 ^ 48)
        countEntry (fire s f i (toPort f.r 0 { t with tag := ctx }) true) e key x count (bits v 15 12 + 1)
      if !refsRoom s (toPort f.r 0 t) then s
      else match tfind key (getEng s e).entries with
        | some x => go s x.value x.count
        | none =>
          if groupDraws s e f.r.key fn f.q.slot grp t.tag (opDepth o) ∨ !liveRoom s (colKeyAt f.r.key o t.tag) then s
          else match tryDraw s f fn (colKeyAt f.r.key o t.tag) with
          | .inl (x, s) => go s x 0
          | .inr s => s

/-- RET (R125): waits until linkage is valid, then emits to its destination entry under the caller's tag. -/
def execRetOp (e : Eng) (n : Nat) (s : State) : Out :=
  .next <| match firing s e n 0x08 with
    | none => s
    | some f =>
      let o := f.r.op
      let t := leftTok f
      let k := colKeyAt f.r.key o t.tag
      if !(getCol s k).busy then faultFire s f 0x0105 (colTval k)
      else match (getRegion s k).bind fun r => tfind k.colour r.links with
        | none => s
        | some l =>
          let out := ((l.dest[bits (opCfg o 0) 1 0]?).map fun d =>
            addressed f.r (entryCoord f.r.key.1 f.r.g d) { t with tag := l.tag }).toList
          if !refsRoom s out then s
          else
            let (i, s) := fresh s
            fire (closeColour s k (if opTrc o then some (o.eng, o.slot) else none)) f i out true

/-! ### Sources (R120, R121) -/

/-- The token of a SOURCE: signal, scalar or tile, with a value that INJECT may replace. -/
def sourceTok (r : OpRef) (x : SourceFire) (agid : Nat) : Token :=
  let v := opCfg r.op 0
  let t : Token := { tag := x.tag, lid := x.lid, part := r.g.part, agid := agid, src := opCoord r.op }
  match bits v 255 252 with
  | 0 => { t with kind := 3 }
  | 1 =>
    let w := (x.value.map (·.toNat)).getD (bits v 63 0)
    { t with kind := 2, opw := BitVec.ofNat 128 w, residue := residueOf (leBytes 8 w) }
  | _ =>
    let id : TileId := match x.value with
      | some w => { pkg := r.key.1, die := bits w.toNat 17 16, handle := bits w.toNat 15 0 }
      | none => relocTile r.key.1 r.g (bits v 81 80) (bits v 79 64)
    { t with kind := 1, opw := BitVec.ofNat 128 (id.handle + id.die * 2 ^ 16) }

/-- A tile token takes its tile's rows, columns and format (R121). -/
def withShape (s : State) (t : Token) : Token :=
  if t.kind = 1 then
    let x := getTile s (tokTile t)
    { t with opw := tileOpw (tokTile t) x.rows x.cols x.fmt 0 }
  else t

/-- A SOURCE's firing is done (R120, R242): the launch releases its unit when every launch SOURCE has emitted, and a
firing that INJECT asked for releases the unit that kept its colour busy. The launch SOURCEs of a launch share one firing
name, so the release follows the increments of all of them (R21). -/
def sourceDone (s : State) (r : OpRef) (x : SourceFire) : State :=
  if !x.atLaunch then releaseUnit s x.id (colKeyAt r.key r.op x.tag) x.lid
  else match getLaunch s (x.pkg, x.lid) with
    | none => s
    | some l =>
      let s := setLaunch s (x.pkg, x.lid) { l with srcLeft := l.srcLeft - 1, unitHeld := l.unitHeld && decide (l.srcLeft ≠ 1) }
      if l.srcLeft = 1 ∧ l.unitHeld then
        match l.root with
        | some c => releaseUnit s x.id { pkg := x.pkg, graph := x.graph, region := 0, colour := c } x.lid
        | none => s
      else s

/-- SOURCE (R121): the SOURCE firing asked for at place n fires on its engine. A tile that is not FULL any more raises
tile-state; such a SOURCE has not emitted, so the unit of live that waits for it stays (R34, R120). -/
def execSource (e : Eng) (n : Nat) (s : State) : Out :=
  .next <|
    match s.sources[n]? with
    | none => s
    | some x =>
      match (getGraph s (x.pkg, x.graph)).bind fun g => opRef (x.pkg, x.graph) g x.op with
      | none => s
      | some r =>
        if r.op.eng ≠ e ∨ !running r.g then s
        else
          let t := withShape s (sourceTok r x (((getLaunch s (x.pkg, x.lid)).map (·.record.agid)).getD 0))
          let gone := { s with sources := s.sources.eraseIdx n }
          let out := toAllPorts r t
          if t.kind = 1 ∧ (getTile s (tokTile t)).state ≠ 3 then
            raiseAt (noteFault gone x.pkg x.lid 3) (opCoord r.op) r.g.part x.lid 0x0109
              ((tokTile t).handle + (tokTile t).die * 2 ^ 16) x.tag
          else if !refsRoom s out then s
          else
            let s := countFiring gone r x.tag x.lid 0
            touch (sourceDone (emitToks s r x.id x.tag out) r x) x.pkg x.lid

/-! ### Containment (R133, R134) -/

/-- Retire the reference of a kept tile token (R134, R135). -/
def retireKept (s : State) (t : Option Token) : State :=
  match t with
  | some t => if t.kind = 1 then { s with retires := s.retires ++ [{ tile := tokTile t }] } else s
  | none => s

/-- The emissions of a COPEN or CCLOSE: left on port 0, right on port 1. Poison of either is copied into both (R170). -/
def bothPorts (r : OpRef) (l rt : Option Token) : List Token :=
  let p := ((l.map (·.poison)).getD false) || ((rt.map (·.poison)).getD false)
  (l.map fun t => toPort r 0 { t with poison := p }).getD [] ++ (rt.map fun t => toPort r 1 { t with poison := p }).getD []

/-- The tokens of an engine that have not been consumed: resident, held at ingress or by a freeze, set aside, or inputs of
the activation that runs. An armed TRIGGER has consumed its tokens (R128). -/
def engToks (x : Engine) : List Token :=
  (x.rows.filter fun q => q.trig.isNone).flatMap rowToks ++ x.ingress ++ x.freeze ++ x.fault.map (·.tok) ++ (runs x).flatMap (·.toks)

/-- The tokens that TIMERs hold until they emit (R136). -/
def timerToks (w : Wheel) : List Token :=
  w.ents.filterMap fun t => match t.what with
    | .timer _ tok => some tok
    | _ => none

/-- Every token of the machine that has been created and not consumed, transfers' inputs and what TIMERs hold included. -/
def liveToks (s : State) : List Token :=
  s.wheels.flatMap (fun w => timerToks w.2) ++ (s.updates.filter (·.inc)).filterMap (·.tok) ++ s.inFlight ++ s.engines.flatMap (fun x => engToks x.2) ++
    s.xfers.flatMap (fun x => x.tok :: x.tok2.toList) ++ s.copies.flatMap (fun j => j.tok.toList ++ j.tok2.toList) ++
    s.xunits.flatMap fun u => u.tok :: u.tok2.toList

/-- The member tokens of a containment record for a key (R132): those that a member has not consumed, with the inputs of
its activations in progress. -/
def memberToks (s : State) (r : OpRef) (rec : Nat) (key : Word) : Nat :=
  let ms := ((r.g.conts[rec]?).map (·.members)).getD []
  (liveToks s).countP fun t => tagAgrees key t.tag (opDepth r.op) && decide (t.dst.eng.pkg = r.key.1) &&
    ((opAtCoord r.g t.dst).map ms.contains).getD false

/-- COPEN (R133). -/
def execCopen (e : Eng) (n : Nat) (s : State) : Out :=
  .next <| match firing s e n 0x0D with
    | none => s
    | some f =>
      let t := leftTok f
      let k := instAt f.r.g (bits (opCfg f.r.op 0) 15 0) t.tag
      let out := bothPorts f.r f.q.l f.q.r
      if (getInst f.r.g k.1 k.2).state ≠ 0 then faultFire s f 0x0108 k.1
      else if !refsRoom s out ∨ !liveRoom s (colKeyAt f.r.key f.r.op t.tag) then s
      else
        let s := modInst s f.r.key k.1 k.2 fun _ =>
          { key := t.tag, kl := f.q.l, kr := f.q.r, state := 1, lid := t.lid, pend := memberToks s f.r k.1 t.tag }
        let s := holdLive s (colKeyAt f.r.key f.r.op t.tag)
        let (i, s) := fresh s
        fire s f i out false

/-- CCLOSE (R134). -/
def execCclose (e : Eng) (n : Nat) (s : State) : Out :=
  .next <| match firing s e n 0x0E with
    | none => s
    | some f =>
      let t := leftTok f
      let k := instAt f.r.g (bits (opCfg f.r.op 0) 15 0) t.tag
      let x := getInst f.r.g k.1 k.2
      let out := bothPorts f.r f.q.l f.q.r
      if x.state ≠ 1 ∨ x.pend ≠ 0 ∨ !refsRoom s out then s
      else
        let (i, s) := fresh s
        let s := fire s f i out true
        let s := retireKept (retireKept s x.kl) x.kr
        let s := modInst s f.r.key k.1 k.2 fun _ => {}
        match ((f.r.g.conts[k.1]?).bind fun c => f.r.g.ops[c.copen]?) with
        | some o => releaseUnit s i (colKeyAt f.r.key o x.key) t.lid
        | none => s

/-! ### Timers and triggers (R128, R129, R136, R288) -/

/-- The wheel's span in ns. -/
def wheelSpan : Nat := 10240

/-- The bucket boundary at which an entry due at a time fires, entered at device time now: the first at or after it; the
next one when it is due no later than the current boundary (R288). -/
def boundOf (now due : Nat) : Nat := if due ≤ now / 10 * 10 then now / 10 * 10 + 10 else cdiv due 10 * 10

/-- Enter an entry of the wheel or far list of a die (R288, R289). -/
def addTimer (s : State) (pkg die due : Nat) (handle : Option Nat) (w : TimerWhat) : State :=
  let (i, s) := fresh s
  modWheel s (pkg, die) fun x =>
    { x with ents := x.ents ++ [{ due := due, bound := boundOf (getPkg s pkg).time due, order := i, far := ((getPkg s pkg).time + wheelSpan < due : Bool),
                                  handle := handle, what := w }] }

/-- Entry a fires before entry b (R288): the earlier boundary first, then the earlier due time, then the order of entry. -/
def before (a b : TimerEnt) : Bool := lexLt [a.bound, a.due, a.order] [b.bound, b.due, b.order]

/-- The set of the operator that a timer entry belongs to is frozen. -/
def entFrozen (s : State) (t : TimerEnt) : Bool :=
  let at_ := fun (e : Eng) (slot : Nat) => ((findOp s e slot).map fun r => r.g.frozen || r.g.freezing).getD false
  match t.what with
  | .timer e tok => at_ e tok.dst.slot
  | .trigger e slot _ => at_ e slot
  | .twset _ _ => false

/-- The entry at place n of a die's wheel is due now: it has come to its boundary and no earlier one is left. -/
def dueEnt (s : State) (pkg die n : Nat) : Option TimerEnt :=
  let w := getWheel s (pkg, die)
  match w.ents[n]? with
  | none => none
  | some t =>
    if t.fire ∧ !entFrozen s t ∧ !w.ents.any (fun u => u.fire && before u t && !entFrozen s u) then some t else none

/-- Remove an entry. -/
def dropEnt (s : State) (pkg die : Nat) (t : TimerEnt) : State :=
  modWheel s (pkg, die) fun w => { w with ents := w.ents.filter fun u => decide (u.order ≠ t.order) }

/-- TIMER (R136): the consumed token stays as the unit of live that the TIMER holds until it emits. -/
def execTimer (e : Eng) (n : Nat) (s : State) : Out :=
  .next <| match firing s e n 0x0F with
    | none => s
    | some f =>
      let t := leftTok f
      let v := tokScalar t
      let due := if bit (opCfg f.r.op 0) 0 then Nat.min (f.q.dtime + v) (2 ^ 64 - 1) else v
      let s := countFiring s f.r f.q.tag f.q.lid 0
      addTimer (touch (leaveFlow s f) e.pkg t.lid) e.pkg e.die due none (.timer e t)

/-- TIMER_EXPIRY (R136): the entry at place n of the die's wheel emits a signal with the consumed tag. -/
def execTimerExpiry (pkg die n : Nat) (s : State) : Out :=
  .next <|
    match dueEnt s pkg die n with
    | some ent =>
      match ent.what with
      | .timer e t =>
        match findOp s e t.dst.slot with
        | none => dropEnt s pkg die ent
        | some r =>
          let (i, s) := fresh (dropEnt s pkg die ent)
          let out := toPort r 0 { t with kind := 3, opw := 0, residue := 0 }
          consumeToks (emitToks s r i t.tag out) r i true [t]
      | _ => s
    | none => s

/-- A term of a TRIGGER holds (R129). -/
def termHolds (v : Nat) (x : Trig) (now j : Nat) : Bool :=
  let m := bits v (5 * j + 164) (5 * j + 160)
  m ≠ 0 &&
    ([0, 1, 2, 3].all fun k => !bit m k || decide (bits v (32 * k + 31) (32 * k) ≤ (x.counters[k]?).getD 0)) &&
    (!bit m 4 || (x.deadline.map fun d => decide (d ≤ now)).getD false)

/-- The condition of a TRIGGER. -/
def trigHolds (v : Nat) (x : Trig) (now : Nat) : Bool := [0, 1, 2, 3].any (termHolds v x now)

/-- The TRIGGER of a row fires when its condition holds (R129), unless the row is stop-held (R391): it emits, the row is
zeroed, the hold is released. -/
def evalTrigger (s : State) (r : OpRef) (vrow : Nat) : State :=
  let e := r.op.eng
  match findRow (getEng s e) r.op.slot vrow with
  | none => s
  | some q =>
    match q.trig with
    | none => s
    | some x =>
      let v := opCfg r.op 0
      if q.stopHeld ∨ !trigHolds v x (getPkg s e.pkg).time then s
      else
        let t := q.l.getD {}
        let c := fun k : Nat => (x.counters[k]?).getD 0
        let n := c 0 + c 1 * 2 ^ 32
        let out := if bit v 180 then { t with kind := 2, opw := BitVec.ofNat 128 n, residue := residueOf (leBytes 8 n) }
          else { t with kind := 3, opw := 0, residue := 0 }
        let (i, s) := fresh s
        let s := emitToks (countFiring s r q.tag q.lid 0) r i q.tag (toPort r 0 out)
        let s := clearRow s e r.op.slot vrow
        let s := modWheel s (e.pkg, e.die) fun w =>
          { w with ents := w.ents.filter (fun u => decide (u.what ≠ .trigger e r.op.slot vrow)) }
        releaseUnit s i (colKeyAt r.key r.op q.tag) q.lid

/-- A counter saturates at 2^32 - 1 (R128). -/
def satCounter (n : Nat) : Nat := Nat.min n (2 ^ 32 - 1)

/-- An arrival is counted: a scalar in the counter it names, a signal in counter 0 (R128). -/
def countArrival (x : Trig) (t : Token) : Trig :=
  let v := tokScalar t
  let k := if t.kind = 2 then bits v 33 32 else 0
  let n := if t.kind = 2 then bits v 31 0 else 1
  { x with counters := lmod k (fun c => satCounter (c + n)) x.counters }

/-- TRIGGER_DEADLINE (R129): the deadline of a row is served at its bucket boundary. -/
def execTriggerDeadline (e : Eng) (slot vrow : Nat) (s : State) : Out :=
  .next <|
    let w := getWheel s (e.pkg, e.die)
    match w.ents.findIdx? fun u => decide (u.what = .trigger e slot vrow) && u.fire with
    | none => s
    | some n =>
      match dueEnt s e.pkg e.die n, findOp s e slot with
      | some ent, some r => evalTrigger (dropEnt s e.pkg e.die ent) r vrow
      | _, _ => s

/-- An arriving token of a TRIGGER that passed the gate is consumed at once and counted (R128); the first of a round arms
the row, which holds a unit of live, and may start the deadline. None when it must wait for a spill. -/
def meetTrigger (s : State) (r : OpRef) (t : Token) : State ⊕ Spill :=
  let e := r.op.eng
  let vrow := vrowOf r.op t.tag
  if unwindDiscards r t then
    let (f, s) := fresh s
    .inl (consumeTok r f true s t)
  else if !kindOk r.op t.dst.pos t.kind then .inl (asideFault s t e vrow 2 0x0104 (t.kind % 16 + 16 * t.dst.pos))
  else match makeRoom s e r.op.slot vrow with
    | .ok s =>
      let now := (getPkg s e.pkg).time
      let dl := bits (opCfg r.op 0) 159 128
      let (q, s) := match findRow (getEng s e) r.op.slot vrow with
        | some q => (q, s)
        | none =>
          let d := if dl = 0 then none else some (now + dl)
          let s := holdLive s (colKeyAt r.key r.op t.tag)
          let s := match d with
            | some d => addTimer s e.pkg e.die d none (.trigger e r.op.slot vrow)
            | none => s
          ({ vrow := vrow, slot := r.op.slot, lid := t.lid, tag := t.tag, l := some t,
             trig := some { deadline := d } }, s)
      let q := { q with trig := q.trig.map (countArrival · t),
                        l := q.l.map (fun u => { u with poison := u.poison || t.poison }) }
      let s := modEng s e fun x => putRow x q
      let (i, s) := fresh s
      let s := consumeTok r i true s t
      .inl (evalTrigger (applyStops s r t vrow) r vrow)
    | w => .inr w

/-! ### Arrival (R28, R335) -/

/-- Room for what an arrival may do: the fault record, and the live count of a TRIGGER's row that is not armed (R21). -/
def arrivalRoom (s : State) (r : OpRef) (t : Token) : Bool :=
  roomFor s r t && (decide (opKind r.op ≠ 0x0B) || liveRoom s (colKeyAt r.key r.op t.tag) ||
    (findRow (getEng s r.op.eng) r.op.slot (vrowOf r.op t.tag)).isSome)

/-- A token meets its row: a TRIGGER's is consumed at once. -/
def meet (s : State) (r : OpRef) (t : Token) : State ⊕ Spill :=
  if opKind r.op = 0x0B then meetTrigger s r t else meetRow s r t

/-- A token that has come along its route in the package (R90, R361); one of another package has its count from the strait. -/
def walked (t : Token) : Token :=
  if t.hops = 0 ∧ t.src.eng.pkg = t.dst.eng.pkg then addHops t (switchesBetween t.src.eng t.dst.eng) else t

/-- An earlier token of the pair among some that wait at an engine's ingress goes first: one that needs no spill itself. One
that needs a spill holds back only what needs a spill (R335). -/
def goesFirst (s : State) (e : Eng) (t : Token) (ws : List Token) : Bool :=
  ws.any fun u => samePair u t && !((findOp s e u.dst.slot).map fun r => needsSpill s r u).getD false

/-- The tokens at an engine's ingress that no report pins. -/
def unpinned (x : Engine) : List Token := x.ingress.drop (b2n x.ovf)

/-- The token in flight at place n arrives at an engine, whose TRIGGERs and other operators take their tokens by two
instructions. One that needs a spill waits behind the tokens that MSOVF holds at ingress (R335). -/
def arriveFlight (trig : Bool) (s : State) (e : Eng) (n : Nat) (t : Token) : State :=
  let t := walked t
  let gone := fun s : State => { s with inFlight := s.inFlight.eraseIdx n }
  let hold := fun s : State => modEng (gone s) e fun x => { x with ingress := x.ingress ++ [t] }
  if (s.inFlight.take n).any (samePair t) ∨ goesFirst s e t (unpinned (getEng s e)) ∨
      !crossGrants s (tokFrom t) t.dst.eng t.part then s
  else if mustCross t then leavePackage s n t
  else if t.dst.eng ≠ e then s
  else match gate s e t with
    | .wait s => s
    | .landed s => gone s
    | .row r s' =>
      if decide (opKind r.op = 0x0B) ≠ trig ∨ !arrivalRoom s' r t then s
      else if needsSpill s' r t ∧ !(getEng s' e).ingress.isEmpty then hold s'
      else match meet s' r t with
        | .inl s => gone s
        | .inr w => holdSpill (hold s') e t w

/-- The token that waits at place m of the ingress is applied: its head once its report's trap has returned (R333), the
others only when they need no spill (R335). -/
def arriveIngress (trig : Bool) (s : State) (e : Eng) (m : Nat) : State :=
  let x := getEng s e
  match x.ingress[m]? with
  | none => s
  | some t =>
    let gone := fun s : State => modEng s e fun x => { x with ingress := x.ingress.eraseIdx m }
    if (m = 0 ∧ x.ovf) ∨ goesFirst s e t ((x.ingress.take m).drop (b2n x.ovf)) then s
    else match gate s e t with
      | .wait s => s
      | .landed s => gone s
      | .row r s' =>
        if decide (opKind r.op = 0x0B) ≠ trig ∨ !arrivalRoom s' r t then s
        else if needsSpill s' r t ∧ m ≠ 0 then s
        else match meet s' r t with
          | .inl s => gone s
          | .inr w => holdSpill s' e t w

/-- Engine e applies the arriving token n. Tokens are numbered in flight first, then those held at e's ingress. -/
def arrive (trig : Bool) (e : Eng) (n : Nat) (s : State) : State :=
  match s.inFlight[n]? with
  | some t => arriveFlight trig s e n t
  | none => arriveIngress trig s e (n - s.inFlight.length)

/-- TOKEN_ARRIVAL (R28): engine e applies one arriving token to its matching store. -/
def execTokenArrival (e : Eng) (n : Nat) (s : State) : Out := .next (arrive false e n s)

/-- TRIGGER_ARRIVAL (R128): engine e applies one arriving token to a TRIGGER, which consumes it. -/
def execTriggerArrival (e : Eng) (n : Nat) (s : State) : Out := .next (arrive true e n s)

end Sys2Proof.Machine
end

