-- ==== Sys2Proof/Machine/Compute.lean ====
section
/-!
DEFINITION. Machine/Compute.lean: compute units, chunk writes and bursts, and the shared course of a compute activation
(spec/06 R137 to R142, spec/01 R32, R33, spec/02 R62 to R65, spec/13 R298).
-/
namespace Sys2Proof.Machine

/-! ### Chunk writes, memory tile requests, retiring reads -/

/-- The queue of a port: 32 requests, taken in order (R298). -/
def portQueue (m : MemTile) (p : Nat) : List MtReq := (m.queue.filter fun r => decide (r.port = p)).take 32

/-- MEMORY_TILE_REQUEST (R298): bank `bank` of memory tile e performs one 64-byte request, from the head of a port queue,
the ports taking turns from the one after the last served. -/
def execMemoryTileRequest (e : Eng) (bank : Nat) (s : State) : Out :=
  .next <|
    let m := getMemTile s e
    let heads := fun p : Nat => (portQueue m p).head?
    let last := tget 0 bank m.last
    let ports := (List.range 8).map fun k => (last + 1 + k) % 8
    match ports.find? fun p => ((heads p).map fun r => decide (r.bank = bank)).getD false with
    | none => s
    | some p =>
      match heads p with
      | none => s
      | some r =>
        let s := setMemTile s e { queue := m.queue.erase r, last := tset bank p m.last }
        if s.chunkWrites.any fun w => w.id = r.cw then
          let s := writeUnit s true (l0Addr e.pkg e.die e.page (e.elem - 12) r.bank (r.unit * 64)) r.data
          { s with chunkWrites := s.chunkWrites.map fun w => if w.id = r.cw then { w with left := w.left - 1 } else w }
        else s

/-- CHUNK_WRITE_COMPLETE (R32): the chunk write at place n completes, once its sectors are performed, and sets its bit.
An L1 chunk's bytes are written at their HBM addresses, in slots of the tile's partition (R296), once no watch filter holds
them (R401). -/
def execChunkWriteComplete (n : Nat) (s : State) : Out :=
  .next <|
    match s.chunkWrites[n]? with
    | none => s
    | some w =>
      if w.left ≠ 0 ∨ !l1Grants s w.tile w.chunk then s
      else match chunkGate s w.tile w.chunk w.id w.lid .write with
      | some v => v
      | none =>
        let t := getTile s w.tile
        let s := watchPassed { s with chunkWrites := s.chunkWrites.eraseIdx n } w.id (chunkSectors t w.chunk)
        let s := if t.level then
            let s := writeTileImage s w.tile t (512 * w.chunk) w.data
            if isScaled t.fmt then writeScale s w.tile t w.chunk w.scale else s
          else s
        chunkDone s w.tile w.chunk

/-- TILE_READ_RETIRE (R32): the retire at place n lowers refs, or frees the entry when it is the last; the activations
that wait are evaluated again (R26). -/
def execTileReadRetire (n : Nat) (s : State) : Out := .next (reevalAll (retireStep s n))

/-! ### Starting an activation (R137) -/

/-- A compute activation about to start. -/
structure Start where
  r : OpRef
  act : Act
  q : Row
  toks : List Token

/-- An activation at the head of the unit may start: a WLOAD waits for the idle bank without blocking MMUL (R149). -/
def canStart (s : State) (r : OpRef) : Bool :=
  if opKind r.op = 0x12 then
    let i := getIsland s r.op.eng
    !i.swp && decide (i.bidle = 0)
  else true

/-- The activation of a kind in progress in an engine's compute unit: a WLOAD has its own place (R149). -/
def unitRun (x : Engine) (kind : Nat) : Option Run := if kind = 0x12 then x.wload else x.run

/-- The next activation of engine e's compute unit, when the unit is idle, it is of a kind and its set runs. MMULs and
WLOADs of an island keep two orders of their own (R149, R150). -/
def starting (s : State) (e : Eng) (kind : Nat) : Option Start :=
  let x := getEng s e
  if (unitRun x kind).isSome then none
  else
    match x.unit.find? fun a => ((findOp s e a.slot).map fun r => decide ((opKind r.op = 0x12) ↔ (kind = 0x12))).getD false with
    | none => none
    | some a =>
      match findOp s e a.slot, findRow x a.slot a.vrow with
      | some r, some q =>
        if opKind r.op = kind ∧ running r.g ∧ canStart s r then
          (consumes r.op q).map fun ts => { r := r, act := a, q := q, toks := ts }
        else none
      | _, _ => none

/-- Return destinations that a faulting activation had allocated, but none that tokens name or a graph binds (R142,
R297). The activations that wait are evaluated again (R26). -/
def freeDests (s : State) (ds : List TileId) : State :=
  let own := ds.filter fun id => decide ((getTile s id).refs = 0) && !(getTile s id).pinned
  if own.isEmpty then s else reevalAll (own.foldl freeTile s)

/-- The swap of R150, when it is due. -/
def swapDue (i : Island) : Island :=
  if i.swp ∧ i.bact = 0 then { i with act := !i.act, bact := i.bidle, bidle := 0, swp := false } else i

/-- An MMUL activation releases its binding (R150). -/
def releaseBank (s : State) (e : Eng) (a : Act) : State :=
  match a.bank with
  | none => s
  | some b => modIsland s e fun i =>
      swapDue (if b = i.act then { i with bact := i.bact - 1 } else { i with bidle := i.bidle - 1 })

/-- The activation leaves its unit's queue and its row is cleared. -/
def takeStart (s : State) (f : Start) : State :=
  let e := f.r.op.eng
  clearRow (modEng s e fun x => { x with unit := x.unit.erase f.act }) e f.q.slot f.q.vrow

/-- A scalar operand whose residue does not match: the residues expected and found (R378). -/
def scalarMismatch (t : Token) : Option (Nat × Nat) :=
  let found := residueOf (leBytes 8 (tokScalar t))
  if t.kind ≠ 2 ∨ residueEq t.residue found then none else some (t.residue, found)

/-- An activation starts: poison, a scalar read with a mismatch and faults keep it from starting (R142, R170, R378), else
it runs. An MMUL that they keep from starting gives up its bank (R150; DEDUCED, log 140). -/
def startRun (s : State) (f : Start) (fault : Option (Nat × Nat)) (run : Run) : State :=
  let e := f.r.op.eng
  let bad := f.toks.any (·.poison) || (f.toks.any fun t => (scalarMismatch t).isSome) || fault.isSome
  if bad && !faultRoom s e f.toks.length then s
  else
    let s := takeStart s f
    let stop := fun s : State => releaseBank (freeDests s f.act.dests) e f.act
    if f.toks.any (·.poison) then poisonConsumed (stop s) f.r f.q.vrow f.toks
    else match f.toks.findSome? scalarMismatch, fault with
      | some (x, y), _ => silentData (stop s) f.r f.q.vrow f.toks x y
      | none, some (c, v) => opFault (stop s) f.r f.q.vrow f.toks c v
      | none, none =>
        let s := countFiring s f.r f.q.tag f.q.lid (waitOf f.r.op f.q)
        let u := { run with act := f.act, toks := f.toks, dests := f.act.dests }
        touch (modEng s e fun x => if opKind f.r.op = 0x12 then { x with wload := some u } else { x with run := some u })
          e.pkg f.q.lid

/-- A running activation and its operator, when its set runs. -/
def runningAct (s : State) (e : Eng) (kind : Nat) : Option (OpRef × Run) :=
  match unitRun (getEng s e) kind with
  | none => none
  | some u => match findOp s e u.act.slot with
    | some r => if opKind r.op = kind ∧ running r.g then some (r, u) else none
    | none => none

/-- Change the running activation. -/
def modRun (s : State) (e : Eng) (f : Run → Run) : State := modEng s e fun x => { x with run := x.run.map f }

/-- Change the activation in progress that an activation names. -/
def modAct (s : State) (e : Eng) (a : Act) (f : Run → Run) : State :=
  let g := fun u : Run => if u.act = a then f u else u
  modEng s e fun x => { x with run := x.run.map g, wload := x.wload.map g }

/-- An activation leaves the compute unit. -/
def dropRun (s : State) (e : Eng) (u : Run) : State :=
  modEng s e fun x => { x with run := x.run.filter (fun v => decide (v.act ≠ u.act)),
                               wload := x.wload.filter (fun v => decide (v.act ≠ u.act)) }

/-- A running activation stops without its result: its destinations return to FREE (R142, R383). -/
def abortRun (s : State) (e : Eng) (u : Run) : State :=
  let s := releaseBank (freeDests s u.dests) e u.act
  let s := if ((getEng s e).wload.map (·.act)) = some u.act then modIsland s e fun i => { i with load := false } else s
  dropRun s e u

/-- The activation's binding is gone. -/
def unbound (u : Run) : Run := { u with act := { u.act with bank := none } }

/-! ### Inputs (R33, R64, R65, R378) -/

/-- The token of an input. -/
def inputTok (u : Run) (pos : Nat) : Token := ((u.toks.find? fun t => t.dst.pos = pos)).getD {}

/-- The tile inputs of an activation. -/
def tileInputs (u : Run) : List Token := u.toks.filter (·.kind = 1)

/-- Data bytes of a tile token's tile. -/
def tokBytes (t : Token) : Nat := tokRows t * tokCols t * elemBytes (tokFmt t)

/-- Chunks of a tile token's tile. -/
def tokChunks (t : Token) : Nat := cdiv (tokBytes t) 512

/-- The burst of a chunk of an input, when it has been received. -/
def burstAt (u : Run) (pos c : Nat) : Option Burst := u.recv.find? fun b => b.input = pos ∧ b.chunk = c

/-- Every chunk of every tile input has been received. -/
def allReceived (u : Run) : Bool :=
  (tileInputs u).all fun t => (List.range (tokChunks t)).all fun c => (burstAt u t.dst.pos c).isSome

/-- The linear image of an input. -/
def inputImg (u : Run) (pos : Nat) : List Byte :=
  (List.range (tokChunks (inputTok u pos))).flatMap fun c => ((burstAt u pos c).map (·.data)).getD []

/-- A chunk can be read: its bit is set (R33); an L1 chunk passes in slots of the tile's partition (R296). -/
def chunkReadable (s : State) (t : Token) (c : Nat) : Bool :=
  let x := getTile s (tokTile t)
  decide (c < tokChunks t) && x.cmap.getLsbD c && l1Grants s (tokTile t) c

/-- What a fault of a running activation does to its tokens. -/
def faultRun (s : State) (e : Eng) (r : OpRef) (u : Run) (cause tval : Nat) : State :=
  if !faultRoom s e u.toks.length then s
  else opFault (abortRun s e u) r u.act.vrow u.toks cause tval

/-- An activation in progress can receive a chunk of an input: its bit is set and it has not been received. -/
def awaits (s : State) (e : Eng) (input chunk : Nat) (u : Run) : Bool :=
  decide (u.phase = 0) && match findOp s e u.act.slot, u.toks.find? fun t => t.dst.pos = input ∧ t.kind = 1 with
    | some r, some t => running r.g && chunkReadable s t chunk && (burstAt u input chunk).isNone
    | _, _ => false

/-- A burst as it arrives: the bit k of the image that the world inverts on the way lies in it or not (R378, R379). -/
def noisyBurst (err : Option Nat) (c : Nat) (b : Burst) : Burst :=
  match err with
  | some k => if k / 4096 = c ∧ k % 4096 / 8 < b.data.length then
      { b with data := b.data.modify (k % 4096 / 8) fun x => x ^^^ BitVec.twoPow 8 (k % 8) } else b
  | none => b

/-- The error has met its chunk. -/
def clearData (s : State) (e : Eng) (c : Nat) : State :=
  modEng s e fun x => { x with dataErr := x.dataErr.filter fun k => decide (k / 4096 ≠ c) }

/-- BURST_RECEIVE (R64, R65, R388): an activation in progress on e receives chunk `chunk` of its input; a burst that breaks
R64 is discarded with a burst-format fault, an uncorrectable one counts as poisoned. -/
def execBurstReceive (e : Eng) (input chunk : Nat) (s : State) : Out :=
  .next <|
    match (runs (getEng s e)).find? (awaits s e input chunk) with
    | none => s
    | some u =>
      match findOp s e u.act.slot, u.toks.find? fun t => t.dst.pos = input ∧ t.kind = 1 with
      | some r, some t =>
        match chunkGate s (tokTile t) chunk u.act.id t.lid .read with
        | some v => v
        | none =>
        let b := burstOf s (tokTile t) (tokMode t) input chunk
        let b := (noisyBurst (getEng s e).dataErr chunk b.1, b.2)
        let s := watchPassed (clearData s e chunk) u.act.id (chunkSectors (getTile s (tokTile t)) chunk)
        if b.2 then
          if !faultRoom s e u.toks.length then s
          else poisonConsumed (abortRun (countBurst s (tokTile t) chunk) e u) r u.act.vrow u.toks
        else if burstBad (tokMode t) (tokFmt t) (tokChunks t) chunk b.1.words then
          faultRun s e r u 0x010A ((tokTile t).handle + chunk * 2 ^ 16)
        else modAct (countBurst s (tokTile t) chunk) e u.act fun u => { u with recv := u.recv ++ [b.1] }
      | _, _ => s

/-- The tile's consumers check chunk residues instead of the token's (R379). -/
def chunkChecked (s : State) (t : Token) : Bool :=
  let x := getTile s (tokTile t)
  x.pinned || x.byLoad

/-- A mismatch of an input: the residues expected and found (R378). The bursts of a pinned or loaded tile are held against
the chunk residues that came with them (R379). -/
def mismatch (s : State) (t : Token) (bs : List Burst) : Option (Nat × Nat) :=
  if t.kind = 1 then
    let want := if chunkChecked s t then lsum (bs.map (·.sum)) % 65535 else t.residue
    let found := residueOf (bs.flatMap (·.data))
    if residueEq want found then none else some (want, found)
  else if t.kind = 2 then scalarMismatch t
  else if residueEq t.residue 0 then none else some (t.residue, 0)

/-- The first mismatch of an activation's inputs. -/
def runMismatch (s : State) (u : Run) : Option (Nat × Nat) :=
  u.toks.findSome? fun t => mismatch s t ((List.range (tokChunks t)).filterMap (burstAt u t.dst.pos))

/-- The inputs are complete: a mismatch ends the activation (R382), else it goes on. -/
def checked (s : State) (e : Eng) (r : OpRef) (u : Run) (go : State → State) : State :=
  match runMismatch s u with
  | some (x, f) =>
    if !faultRoom s e u.toks.length then s else silentData (abortRun s e u) r u.act.vrow u.toks x f
  | none => go s

/-- A mod-3 mismatch ends the activation as the consumption of a mismatched value (R381, R382). -/
def silent3 (s : State) (e : Eng) (r : OpRef) (u : Run) : State :=
  if !faultRoom s e u.toks.length then s
  else
    silentData (abortRun (modEng s e fun x => { x with arithErr := none }) e u) r u.act.vrow u.toks 0xFFFF 0xFFFF

/-! ### Results (R141) -/

/-- The template of an activation's emissions: its left token, not poisoned. -/
def baseTok (u : Run) : Token := { (u.toks.head?).getD {} with poison := false }

/-- A tile token of a destination. -/
def tileTok (s : State) (u : Run) (id : TileId) (mode residue : Nat) : Token :=
  let t := getTile s id
  { baseTok u with kind := 1, opw := tileOpw id t.rows t.cols t.fmt mode, residue := residue }

/-- A scalar token. -/
def scalarTok (u : Run) (v : Nat) : Token :=
  { baseTok u with kind := 2, opw := BitVec.ofNat 128 (v % 2 ^ 64), residue := residueOf (leBytes 8 v) }

/-- A signal token. -/
def signalTok (u : Run) : Token := { baseTok u with kind := 3, opw := 0, residue := 0 }

/-- The port of a memory tile through which a kind writes: shapers use their own (R298). -/
def writePort (kind : Nat) : Nat := if 0x13 ≤ kind ∧ kind ≤ 0x16 then 6 else 4

/-- An activation begins the chunk writes of its destination from an image and ends its work: phase 1, with the mode and
residue of the tile token. A chunk that the tile refuses is a tile-state fault (R32). -/
def writeOut (s : State) (e : Eng) (r : OpRef) (u : Run) (id : TileId) (img : List Byte) (scale : Nat → List Byte)
    (flags : Nat) (extra : Option Token) : State :=
  let t := baseTok u
  match imageRefused s id with
  | some c => faultRun s e r u 0x0109 (stateTval id c)
  | none =>
  let s := beginImage s id (writePort (opKind r.op)) t.lid (opCoord r.op) t.tag img scale
  modRun (setFlags s e r.op.slot flags) e fun u =>
    { u with phase := 1, resid := [residueOf img], extra := extra }

/-- The scale areas of an unscaled (mode 0) image. -/
def plainAreas (s : State) (id : TileId) : Nat → List Byte := plainScale (getTile s id)

/-- An activation ends: its tokens leave, then its inputs are consumed (R21, R137). Its own name is the name of the firing, so
the decrements follow every token that it has emitted. -/
def endRun (s : State) (e : Eng) (r : OpRef) (u : Run) (out : List Token) : State :=
  if !refsRoom s out then s
  else
    consumeToks (emitToks (dropRun s e u) r u.act.id ((u.toks.head?.map (·.tag)).getD 0) out) r u.act.id true u.toks

/-- An activation whose destination is FULL emits its tile token on port 0 and an extra token on port 1. -/
def emitTile (s : State) (e : Eng) (r : OpRef) (u : Run) (mode : Nat) : State :=
  match u.dests with
  | id :: _ =>
    if !tileFull s id then s
    else
      endRun s e r u (toPort r 0 (tileTok s u id mode ((u.resid.head?).getD 0)) ++ (u.extra.map (toPort r 1)).getD [])
  | [] => endRun s e r u ((u.extra.map (toPort r 1)).getD [])

/-- The course of a compute kind that reads its inputs whole: start, work once every burst is in, emit when FULL. -/
def course (s : State) (e : Eng) (kind mode : Nat) (fault : State → Start → Option (Nat × Nat))
    (work : State → OpRef → Run → State) : State :=
  match runningAct s e kind with
  | some (r, u) =>
    if u.phase ≠ 0 then emitTile s e r u mode
    else if !allReceived u then s
    else checked s e r u fun s => work s r u
  | none =>
    match starting s e kind with
    | some f => startRun s f (fault s f) {}
    | none => s

/-- A shape fault when the shape of the output breaks a limit or exceeds the destination (R142). -/
def shapeFault (s : State) (f : Start) : Option (Nat × Nat) :=
  match wanted s f.r f.q with
  | none => some (0x010C, 0)
  | some ds => if f.act.dests.length = ds.length then none else some (0x010C, ((ds.head?).map fun d => d.1.handle).getD 0)

/-- A format fault (R142); a reserved block-scale mode is a burst-format fault of the first burst (R64). -/
def formatAt (t : Token) (fmt : Nat) (mode0 : Bool) : Option (Nat × Nat) :=
  if tokFmt t ≠ fmt ∨ (mode0 ∧ tokMode t = 1) then some (0x010B, tokFmt t)
  else if 1 < tokMode t then some (0x010A, (tokTile t).handle)
  else none

/-! ### Shapers (R155 to R159) -/

/-- Row i of an image of w columns of n bytes. -/
def imgRow (img : List Byte) (w n i : Nat) : List Byte := (img.drop (i * w * n)).take (w * n)

/-- Element i of an image. -/
def imgElem (img : List Byte) (n i : Nat) : List Byte := (img.drop (i * n)).take n

/-- The index of a GATHER row: none for an absent one (R156). -/
def gatherIdx (fmt : Nat) (img : List Byte) (i : Nat) : Option Int :=
  let c := leNat (imgElem img (elemBytes fmt) i)
  if isAbsent fmt c then none else some (if fmt = 8 then sext 32 c else c)

/-- GATHER's output and its flags. -/
def gatherOut (fmt rows cols ifmt count : Nat) (tab idx : List Byte) : List Byte × Nat :=
  let n := elemBytes fmt
  (List.range count).foldl (fun (o : List Byte × Nat) i =>
    match gatherIdx ifmt idx i with
    | none => (o.1 ++ absentBytes fmt cols, o.2)
    | some k =>
      if k < 0 ∨ (rows : Int) ≤ k then (o.1 ++ absentBytes fmt cols, o.2 ||| fInvalid)
      else (o.1 ++ imgRow tab cols n k.toNat, o.2)) ([], 0)

/-- GATHER (R156). An activation that breaks a format and a shape limit raises the format fault; outside mmul_run the
spec gives no order (R142; DESIGN CHOICE, log 32). -/
def execGather (e : Eng) (s : State) : Out :=
  .next <| course s e 0x13 0
    (fun s f =>
      let l := f.q.l.getD {}
      let r := f.q.r.getD {}
      (formatAt l (opType f.r.op) true).orElse fun _ =>
        if tokFmt r ≠ 0x8 ∧ tokFmt r ≠ 0xA ∧ tokFmt r ≠ 0xB then some (0x010B, tokFmt r)
        else (formatAt r (tokFmt r) true).orElse fun _ => shapeFault s f)
    (fun s r u =>
      let l := inputTok u 0
      let x := inputTok u 1
      match u.dests with
      | id :: _ =>
        let o := gatherOut (tokFmt l) (tokRows l) (tokCols l) (tokFmt x) (tokRows x * tokCols x) (inputImg u 0) (inputImg u 1)
        writeOut s e r u id o.1 (plainAreas s id) o.2 none
      | [] => s)

/-- REPEAT's output: which input row and column each output place takes. -/
def repeatOut (fmt h w c : Nat) (cols each : Bool) (img : List Byte) : List Byte :=
  let n := elemBytes fmt
  let src := fun (i m : Nat) => if each then i / c else i % m
  let oh := if cols then h else c * h
  let ow := if cols then c * w else w
  (List.range oh).flatMap fun i => (List.range ow).flatMap fun j =>
    imgElem img n ((if cols then i else src i h) * w + if cols then src j w else j)

/-- REPEAT (R157). -/
def execRepeatOp (e : Eng) (s : State) : Out :=
  .next <| course s e 0x14 0
    (fun s f =>
      let c := tokScalar (f.q.r.getD {})
      (formatAt (f.q.l.getD {}) (opType f.r.op) true).orElse fun _ =>
        if c < 1 ∨ 128 < c then some (0x010C, 0) else shapeFault s f)
    (fun s r u =>
      let l := inputTok u 0
      match u.dests with
      | id :: _ =>
        writeOut s e r u id (repeatOut (tokFmt l) (tokRows l) (tokCols l) (tokScalar (inputTok u 1)) (bit (opCfg r.op 0) 32)
          (bit (opCfg r.op 0) 33) (inputImg u 0)) (plainAreas s id) 0 none
      | [] => s)

/-- TRANSP's output. -/
def transpOut (fmt h w : Nat) (img : List Byte) : List Byte :=
  (List.range w).flatMap fun j => (List.range h).flatMap fun i => imgElem img (elemBytes fmt) (i * w + j)

/-- TRANSP (R159). -/
def execTransp (e : Eng) (s : State) : Out :=
  .next <| course s e 0x16 0
    (fun s f => (formatAt (f.q.l.getD {}) (opType f.r.op) true).orElse fun _ => shapeFault s f)
    (fun s r u =>
      let l := inputTok u 0
      match u.dests with
      | id :: _ => writeOut s e r u id (transpOut (tokFmt l) (tokRows l) (tokCols l) (inputImg u 0)) (plainAreas s id) 0 none
      | [] => s)

/-- Rows of a SWIN's delay line. -/
def swinDepth (c : Nat) : Nat := bits c 35 32 * (bits c 43 40 + 1) + 1

/-- The addresses of n bytes of a SWIN's delay line from byte b of its region (log 39). -/
def lineAddrs (o : Op) (b n : Nat) : List Nat := (List.range n).map fun i => l0ByteAddr o.eng 0xFFFF o.lineOff (b + i)

/-- Write bytes of the delay line from byte b of its region, unit by unit. -/
def writeLine (s : State) (o : Op) (b : Nat) (bs : List Byte) : State :=
  (List.range (cdiv (b % 64 + bs.length) 64)).foldl (fun s j =>
    let lo := Nat.max b (64 * (b / 64 + j))
    writeUnit s true (l0ByteAddr o.eng 0xFFFF o.lineOff lo) ((bs.drop (lo - b)).take (64 - lo % 64))) s

/-- The addresses of the window of y in the delay line, row by row, for rows of n bytes (R158). -/
def windowAddrs (o : Op) (c y n : Nat) : List Nat :=
  (List.range (bits c 35 32 + 1)).flatMap fun t =>
    lineAddrs o ((y * (bits c 39 36 + 1) + t * (bits c 43 40 + 1)) % swinDepth c * n) n

/-- SWIN (R158): the row enters its delay line slot, q moves on, and a completed window is written; a window that holds an
uncorrectable word is poisoned input (R388). -/
def execSwin (e : Eng) (s : State) : Out :=
  .next <| course s e 0x15 0
    (fun s f =>
      let l := f.q.l.getD {}
      let c := opCfg f.r.op 0
      let x := tokScalar (f.q.r.getD {})
      let d := tget {} f.r.op.slot (getEng s e).slots
      (formatAt l (opType f.r.op) true).orElse fun _ =>
        if x ≠ d.q ∨ bits c 59 44 + 1 ≤ x ∨ tokRows l ≠ 1 ∨ (x ≠ 0 ∧ tokCols l ≠ d.cols0) ∨
            2 ^ (bits c 62 60 + 12) < swinDepth c * tokBytes l then some (0x010C, 0)
        else shapeFault s f)
    (fun s r u =>
      let c := opCfg r.op 0
      let l := inputTok u 0
      let x := tokScalar (inputTok u 1)
      let n := tokBytes l
      let s' := modSlot (writeLine s r.op (x % swinDepth c * n) (inputImg u 0)) e r.op.slot fun d =>
        { d with q := (x + 1) % (bits c 59 44 + 1), cols0 := if x = 0 then tokCols l else d.cols0 }
      match u.dests, winStart c x with
      | id :: _, some y =>
        let as_ := windowAddrs r.op c y n
        if (as_.map (· / 8)).dedup.any (eccBad s' true) then
          if !faultRoom s e u.toks.length then s
          else poisonConsumed (abortRun (countWords s' true as_) e u) r u.act.vrow u.toks
        else writeOut (countWords s' true as_) e r u id (as_.map (memGet s'.l0)) (plainAreas s' id) 0
          (if opNout r.op = 2 then some (scalarTok u y) else none)
      | _, _ => endRun s' e r u [])

/-! ### CONV (R160) -/

/-- The value of element i of an input tile with its scale applied (R65), and whether a scale of 0xFF makes it read as
NaN. -/
def inputVal (u : Run) (pos i : Nat) : Val × Bool :=
  let t := inputTok u pos
  let n := elemBytes (tokFmt t)
  let b := (burstAt u pos (i * n / 512)).getD {}
  let k := i % (512 / n)
  let v := decodeElem (tokFmt t) (leNat (imgElem b.data n k))
  let sc := scaleAt b (tokMode t) k
  (scaled v sc, decide (sc = 0xFF) && !isAbsV v)

/-- The largest finite magnitude of an output format that takes scales. -/
def maxFinite (f : Nat) : Num :=
  match f with
  | 3 => { m := 448 }
  | 4 => { m := 57344 }
  | _ => { m := 1, e := 3, r := 3 }

/-- The magnitude of a present finite value. -/
def finMag : Val → Option Num
  | .fin _ x => if x.m = 0 then none else some (numAbs x)
  | _ => none

/-- choose_scale of R160. -/
def chooseScale (f : Nat) (vs : List Val) : Nat :=
  match vs.filterMap finMag with
  | [] => 127
  | x :: xs =>
    let m := xs.foldl (fun a b => if numCmp a b < 0 then b else a) x
    ((List.range 255).find? fun e : Nat => decide (numCmp (numShift m (127 - (e : Int))) (maxFinite f) ≤ 0)).getD 254

/-- conv_run of R160: bytes, scale of each block, flags. -/
def convOut (u : Run) (c f : Nat) : List Byte × List Nat × Nat :=
  let t := inputTok u 0
  let n := tokRows t * tokCols t
  let om := bit c 36
  let blk := if om then 2 ^ bits c 39 37 else Nat.max 1 n
  let vals := (List.range n).map (inputVal u 0)
  let inv := if vals.any (·.2) then fInvalid else 0
  let scales := (List.range (cdiv n blk)).map fun b =>
    if om then chooseScale f (((vals.drop (b * blk)).take blk).map (·.1)) else 127
  let rnd := fun i : Nat =>
    let m := bits c 34 32
    if m = 4 then Rm.sr (srBits t.tag i) else rmOf m
  let outs := (vals.zipIdx).map fun p =>
    roundVal f (rnd p.2) (bit c 35) false (valShift p.1.1 (127 - ((scales[p.2 / blk]?).getD 127 : Int)))
  (outs.flatMap fun o => leBytes (elemBytes f) o.1, scales, outs.foldl (fun fl o => fl ||| o.2) inv)

/-- The scale area of chunk c of a tile under per-block scales of blocks of 2^l elements (R62, R63). -/
def blockArea (t : Tile) (l : Nat) (scales : List Nat) (c : Nat) : List Byte :=
  let nb := 512 / 2 ^ l
  scaleArea ((List.range nb).map fun b =>
    burstWord c (decide (c + 1 = tileChunks t)) t.fmt l ((scales[c * nb + b]?).getD 127))

/-- CONV (R160). -/
def execConv (e : Eng) (s : State) : Out :=
  let mode := match (getEng s e).run with
    | some u => ((findOp s e u.act.slot).map fun r => b2n (bit (opCfg r.op 0) 36)).getD 0
    | none => 0
  .next <| course s e 0x17 mode shapeFault
    (fun s r u =>
      let c := opCfg r.op 0
      match u.dests with
      | id :: _ =>
        let o := convOut u c (opType r.op)
        let t := getTile s id
        let area := if bit c 36 then blockArea t (bits c 39 37) o.2.1 else plainAreas s id
        writeOut s e r u id o.1 area o.2.2 none
      | [] => s)

end Sys2Proof.Machine
end

