-- ==== Sys2Proof/Machine/Island.lean ====
section
/-!
DEFINITION. Machine/Island.lean: MMUL and WLOAD on an island's array (spec/06 R148 to R153, spec/02 R60 to R68).
-/
namespace Sys2Proof.Machine

/-! ### Chunks of an element (R66 to R68) -/

/-- The accumulation class of an activation format (R152): 1 f32, 2 i32, 3 LACC. -/
def accClass (f : Nat) : Nat := if f = 6 then 2 else if f = 5 then 3 else 1

/-- The allowed pairs of activation and weight format (R152). -/
def pairOk (a w : Nat) : Bool :=
  if a = 3 ∨ a = 4 then w = 3 || w = 4 else (a = 1 || a = 2 || a = 5 || a = 6) && decide (a = w)

/-- A factor of a product: its code, its value without and with its scale, and its scale. -/
structure Factor where
  code : Nat
  scale : Nat
  val : Val

/-- A factor is absent. -/
def Factor.absent (x : Factor) : Bool := isAbsV x.val

/-- A NaN that a product of present factors generates. -/
def prodInvalid (a b : Val) : Nat :=
  match a, b with
  | .inf _, .fin _ x => if x.m = 0 then fInvalid else 0
  | .fin _ x, .inf _ => if x.m = 0 then fInvalid else 0
  | _, _ => 0

/-- Present products of a chunk. -/
def presentProds (ps : List (Factor × Factor)) : List (Factor × Factor) := ps.filter fun p => !p.1.absent && !p.2.absent

/-- The exact sum of a chunk of FP8 products (R66): a NaN or ∞ + (−∞) makes it NaN. -/
def fp8Chunk (ps : List (Factor × Factor)) : Fl Val :=
  ps.foldl (fun (a : Fl Val) p =>
    let x := valMul p.1.val p.2.val
    (valAdd false a.1 x, a.2 ||| prodInvalid p.1.val p.2.val ||| addInvalid a.1 x)) (.fin false {}, 0)

/-- The integer of an i8 code. -/
def i8Val (x : Factor) : Int := sext 8 x.code

/-- T[k] shifted left by sh, or right where that loses no bit of it (R61): none where the result is no integer. -/
def shiftT (k : Nat) (sh : Int) : Option Int :=
  let t := laccT k
  if 0 ≤ sh then some (t * 2 ^ sh.toNat)
  else if t % 2 ^ (-sh).toNat = 0 then some (t / 2 ^ (-sh).toNat)
  else none

/-- The addend of two l6 factors under their scales (R60, R61, R65). LACC has no NaN and no fraction of its unit: under a
block scale of 0xFF a zero factor adds 0, as R60 says of a zero, and every other product is a free value there, and so is
one whose scaled addend is no integer of LACC (DESIGN CHOICE, log 30). -/
def l6Scaled (a b : Factor) : Int :=
  if a.scale = 0x7F ∧ b.scale = 0x7F then (l6Addend (a.code % 64) (b.code % 64)).getD 0
  else if a.code % 32 = 0 ∨ b.code % 32 = 0 then 0
  else
    let q : Int := (a.code % 32 : Nat) + (b.code % 32 : Nat) - 32 + 4 * ((a.scale : Int) + b.scale - 254)
    match if a.scale = 0xFF ∨ b.scale = 0xFF then none else shiftT (q % 4).toNat (q / 4 + 9) with
    | none => Config.l6Scaled a.code b.code a.scale b.scale
    | some m => if a.code / 32 % 2 ≠ b.code / 32 % 2 then -m else m

/-- The value of an accumulator element under its class. -/
def laneVal (cls : Nat) (x : Lane) : Val :=
  if x.cnt = 0 then .absent
  else match cls with
    | 1 => decodeFloat 0 x.val.toNat
    | 2 => finOf false { m := sgn x.val }
    | _ => finOf false { m := sgn x.val, e := -24 }

/-- The products that the mod-3 check of a chunk covers (R381): of a tree, those of its first node; with the addition into
the i32 accumulator or LACC. -/
def chunkTerms (afmt : Nat) (x : Lane) (ps : List (Factor × Factor)) : List (List Num) :=
  let here := presentProds ps
  match accClass afmt with
  | 1 => (if afmt = 3 ∨ afmt = 4 then here else here.take 1).map fun p => [numIn p.1.val, numIn p.2.val]
  | 2 => (if x.cnt = 0 then [] else [[numOf (sgn x.val)]]) ++ here.map fun p => [numOf (i8Val p.1), numOf (i8Val p.2)]
  | _ => (if x.cnt = 0 then [] else [[numOf (sgn x.val)]]) ++ here.map fun p => [numOf (l6Scaled p.1 p.2)]

/-- The tree of a chunk of bf16 or f16 products over 128 positions (R67); an error enters the first present product. -/
def treeChunk (err : Int) (ps : List (Factor × Factor)) : Fl Val :=
  let leaf := fun p : Factor × Factor =>
    if p.1.absent || p.2.absent then ((Val.absent, 0) : Fl Val)
    else (valMul p.1.val p.2.val, prodInvalid p.1.val p.2.val)
  let first := ps.findIdx fun p => !p.1.absent && !p.2.absent
  let leaves := lmod first (fun v : Fl Val => (withErr (chunkTerms 1 {} ps) err v.1, v.2)) (ps.map leaf)
  ((treeK combF32Fl 7 (leaves ++ List.replicate (128 - ps.length) (Val.absent, 0))).head?).getD (.absent, 0)

/-- Add one chunk to an accumulator element (R66 to R68, R51): the element and flags. err is the error of its exact sum,
in units of its fixed-point form (R381). -/
def addChunk (afmt : Nat) (x : Lane) (ps : List (Factor × Factor)) (err : Int := 0) : Lane × Nat :=
  let here := presentProds ps
  if here.isEmpty then (x, 0)
  else
    let n := satCount (x.cnt + here.length)
    match accClass afmt with
    | 1 =>
      let c := if afmt = 3 ∨ afmt = 4 then
          let c := fp8Chunk here
          (withErr (chunkTerms afmt x ps) err c.1, c.2)
        else treeChunk err ps
      let cf := c.2 ||| f32Flags c.1
      let c := roundF32 c.1
      let old := laneVal 1 x
      let z := combF32Fl (old, 0) (c, 0)
      ({ val := BitVec.ofNat 64 (roundVal 0 .rne false false z.1).1, cnt := n.1 }, cf ||| z.2 ||| n.2)
    | 2 =>
      let sum := here.foldl (fun (a : Int) p => a + i8Val p.1 * i8Val p.2) (err + if x.cnt = 0 then 0 else sgn x.val)
      let m : Int := 2 ^ 31 - 1
      let c := max (-m) (min m sum)
      ({ val := wordOfInt c, cnt := n.1 }, n.2 ||| if c = sum then 0 else fSaturated)
    | _ =>
      let sum := here.foldl (fun (a : Int) p => a + l6Scaled p.1 p.2) err
      let r := sat48 ((if x.cnt = 0 then 0 else sgn x.val) + sum)
      let inv := if here.any fun p => p.1.scale = 0xFF ∨ p.2.scale = 0xFF then fInvalid else 0
      ({ val := wordOfInt r.1, cnt := n.1 }, r.2 ||| n.2 ||| inv)

/-! ### Banks -/

/-- A bank of an island: false wb0, true wb1. -/
def bankOf (i : Island) (b : Bool) : WBank := if b then i.wb1 else i.wb0

/-- Write a bank. -/
def setBank (i : Island) (b : Bool) (w : WBank) : Island := if b then { i with wb1 := w } else { i with wb0 := w }

/-- A factor of data with bursts: element i of an image. -/
def factorAt (fmt mode : Nat) (data : List Byte) (bursts : List Burst) (i : Nat) : Factor :=
  let n := elemBytes fmt
  let code := leNat (imgElem data n i)
  let b := (bursts.find? fun b => b.chunk = i * n / 512).getD {}
  let sc := scaleAt b mode (i % (512 / n))
  { code := code, scale := sc, val := scaled (decodeElem fmt code) sc }

/-- An element is a present NaN because its block scale is 0xFF (R65). -/
def scaleNan (x : Factor) : Bool := decide (x.scale = 0xFF) && !x.absent

/-- What adding rows makes: the accumulator table, flags, an arithmetic error still to come, a mod-3 mismatch found. -/
structure RowsOut where
  acc : Tbl (Nat × Nat) Lane
  fl : Nat
  err : Option Int
  bad : Bool := false

/-- Add one chunk to element `key`; a pending error enters the first sum that has a present product. -/
def addAt (afmt : Nat) (key : Nat × Nat) (ps : List (Factor × Factor)) (o : RowsOut) : RowsOut :=
  let old := tget {} key o.acc
  let d := if (presentProds ps).isEmpty then none else o.err
  let x := addChunk afmt old ps (d.getD 0)
  { o with
    acc := if x.1.cnt = 0 then o.acc else tset key x.1 o.acc
    fl := o.fl ||| x.2
    err := if d.isSome then none else o.err
    bad := o.bad || (d.map (mod3Finds (chunkTerms afmt old ps))).getD false }

/-- Add an activation's rows to the array (R152), each chunk under its mod-3 check (R381). -/
def addRows (afmt amode rows k base : Nat) (w : WBank) (img : List Byte) (bursts : List Burst)
    (acc : Tbl (Nat × Nat) Lane) (err : Option Int := none) : RowsOut :=
  let as_ := (List.range (rows * k)).map fun i => factorAt afmt amode img bursts i
  let ws := (List.range (w.n * w.k)).map fun i => factorAt w.fmt (b2n w.sc) w.data w.bursts i
  let inv := if (as_ ++ ws).any scaleNan then fInvalid else 0
  (List.range rows).foldl (fun o i =>
    (List.range w.n).foldl (fun o j =>
      addAt afmt (base + i, j) (((as_.drop (i * k)).take k).zip ((ws.drop (j * k)).take k)) o) o)
    { acc := acc, fl := inv, err := err }

/-- Drain the array to a destination shape and format (R153): bytes and flags. -/
def drainAcc (cls mode fmt rows cols : Nat) (acc : Tbl (Nat × Nat) Lane) : List Byte × Nat :=
  (List.range (rows * cols)).foldl (fun (o : List Byte × Nat) i =>
    let x := tget {} (i / cols, i % cols) acc
    let v := drainVal mode x.cnt (laneVal cls x)
    let c := roundVal fmt .rne false false v
    (o.1 ++ leBytes (elemBytes fmt) c.1, o.2 ||| c.2)) ([], 0)

/-! ### MMUL (R150 to R153) -/

/-- The faults of an MMUL activation, in the order of mmul_run (R152). -/
def mmulFault (s : State) (f : Start) : Option (Nat × Nat) :=
  let i := getIsland s f.r.op.eng
  let b := (f.act.bank).getD i.act
  let w := bankOf i b
  let l := f.q.l.getD {}
  let ctl := mmulCtl f.r.op f.q
  if !w.valid then some (0x010D, b2n b)
  else if tokFmt l ≠ opType f.r.op ∨ !pairOk (tokFmt l) w.fmt then some (0x010B, tokFmt l)
  else if ctl / 1024 ≠ 0 ∨ bit ctl 7 then some (0x010C, 0)
  else if tokCols l ≠ w.k ∨ 128 < bits ctl 6 0 + tokRows l then some (0x010C, 0)
  else if !bit ctl 8 ∧ i.acls ≠ 0 ∧ i.acls ≠ accClass (tokFmt l) then some (0x010B, tokFmt l)
  else if bit ctl 9 then shapeFault s f
  else none

/-- The control of a running MMUL. -/
def runCtl (r : OpRef) (u : Run) : Nat := if bit (opPmask r.op) 1 then tokScalar (inputTok u 1) else 0x300

/-- MMUL (R152, R153): mmul_run. A mod-3 mismatch of a chunk ends the activation with no token (R381, R382). -/
def execMmul (e : Eng) (s : State) : Out :=
  .next <| course s e 0x11 0 mmulFault
    (fun s r u =>
      let i := getIsland s e
      let w := bankOf i ((u.act.bank).getD i.act)
      let l := inputTok u 0
      let ctl := runCtl r u
      let start := bit ctl 8
      let a := addRows (tokFmt l) (tokMode l) (tokRows l) (tokCols l) (bits ctl 6 0) w (inputImg u 0)
        (u.recv.filter (·.input = 0)) (if start then [] else i.acc) (getEng s e).arithErr
      if a.bad then silent3 s e r u else
      let cls := accClass (tokFmt l)
      let s := setIsland (modEng s e fun x => { x with arithErr := a.err }) e { i with acc := a.acc, acls := cls }
      let s := modRun (setFlags (releaseBank s e u.act) e r.op.slot a.fl) e unbound
      let u := unbound u
      let s := if opCtok r.op then emitToks s r u.act.id l.tag (toPort r (opNout r.op - 1) (signalTok u)) else s
      if bit ctl 9 then
        match u.dests with
        | id :: _ =>
          let t := getTile s id
          let d := drainAcc cls (bits (opCfg r.op 0) 33 32) t.fmt t.rows t.cols a.acc
          let s := modIsland s e fun i => { i with acc := [], acls := 0 }
          writeOut s e r u id d.1 (plainAreas s id) d.2 none
        | [] => s
      else endRun s e r u [])

/-! ### WLOAD (R149) -/

/-- The faults of a WLOAD activation. -/
def wloadFault (f : Start) : Option (Nat × Nat) :=
  let l := f.q.l.getD {}
  if tokFmt l ≠ opType f.r.op then some (0x010B, tokFmt l)
  else if 32768 < tokBytes l then some (0x010C, 0)
  else none

/-- WLOAD (R149): the tile is written into the idle bank with its format, shape and scales; then valid, swp and the
signal. The bank holds no valid weights while it is written. -/
def execWload (e : Eng) (s : State) : Out :=
  .next <|
    match runningAct s e 0x12 with
    | some (r, u) =>
      if !allReceived u then s
      else
        checked s e r u fun s =>
          let l := inputTok u 0
          let out := if opNout r.op = 1 then toPort r 0 (signalTok u) else []
          let w : WBank := { valid := true, fmt := tokFmt l, k := tokCols l, n := tokRows l, sc := decide (tokMode l = 1),
                             data := inputImg u 0, bursts := u.recv }
          let s := modIsland s e fun i => swapDue { setBank i (!i.act) w with swp := true, load := false }
          endRun s e r u out
    | none =>
      match starting s e 0x12 with
      | some f =>
        let s' := startRun s f (wloadFault f) {}
        match (getEng s' e).wload with
        | some _ => modIsland s' e fun i => { setBank i (!i.act) { bankOf i (!i.act) with valid := false } with load := true }
        | none => s'
      | none => s

end Sys2Proof.Machine
end

