-- ==== Sys2Proof/Machine/Flags.lean ====
section
/-!
DEFINITION. Machine/Flags.lean: the lane flags C, Z, N, V of a vector tile (spec/01 R39, spec/08 R187).
-/
namespace Sys2Proof.Machine

/-- The flags of a position: bit 0 C, 1 Z, 2 N, 3 V. -/
def laneFlags (c z n v : Bool) : BitVec 4 := BitVec.ofNat 4 (b2n c + 2 * b2n z + 4 * b2n n + 8 * b2n v)

/-- Flag C of a position. -/
def flagC (f : Tbl Nat (BitVec 4)) (j : Nat) : Bool := (tget 0 j f).getLsbD 0

/-- The sign of an element: its sign bit, or an integer below 0. -/
def elemNeg (t c : Nat) : Bool :=
  if isFloat t then bit c (elemBits t - 1) else if t = 5 then bit c 5 else isSigned t && bit c (elemBits t - 1)

/-- An element is a zero of its type. -/
def elemZero (t c : Nat) : Bool :=
  match decodeElem t c with
  | .fin _ x => decide (x.m = 0)
  | _ => false

/-- The flags of an arithmetic result: C is kept; ef are the sticky flags that the element raised. -/
def arithFlags (t c ef : Nat) (old : BitVec 4) : BitVec 4 :=
  if isAbsent t c then laneFlags (old.getLsbD 0) false false false
  else laneFlags (old.getLsbD 0) (elemZero t c) (elemNeg t c)
    (decide (ef &&& (fInvalid ||| fOverflow ||| fSaturated) ≠ 0))

/-- The flags of a raw-bit result of width w: C is kept. -/
def rawFlags (w c : Nat) (old : BitVec 4) : BitVec 4 :=
  laneFlags (old.getLsbD 0) (decide (c % 2 ^ w = 0)) (bit c (w - 1)) false

/-- The flags of ADDC and SUBB: the result, carry or borrow, and the exact signed result. -/
def carryFlags (w c : Nat) (carry : Bool) (exact : Int) : BitVec 4 :=
  laneFlags carry (decide (c % 2 ^ w = 0)) (bit c (w - 1)) (decide (sext w c ≠ exact))

/-- The flags of a compare: the result and the order of its operands, none when either is NaN. -/
def cmpFlags (res : Bool) (ord : Option Int) : BitVec 4 :=
  laneFlags res (decide (ord = some 0)) (match ord with | some i => decide (i < 0) | none => false) ord.isNone

/-- The flags of a compare with an absent operand, of ISABS and ISNAN. -/
def testFlags (res : Bool) : BitVec 4 := laneFlags res false false false

end Sys2Proof.Machine
end

