-- ==== Sys2Proof/Machine/Special.lean ====
section
/-!
DEFINITION. Machine/Special.lean: the correctly rounded special functions (spec/09 R199, R200). A transcendental value
is formed in fixed point with `fxP` fraction bits and an odd last bit, so that it is never a tie: it rounds as the exact
value does (log 20).
-/
namespace Sys2Proof.Machine

/-- Fraction bits of the fixed-point values. -/
def fxP : Nat := 640
/-- One. -/
def fxOne : Int := 2 ^ 640

/-- Product of fixed-point values. -/
def fxMul (a b : Int) : Int := a * b / fxOne

/-- x + x^3/(3 q) ... : the series sum of sgn^k x^(2k+1)/(2k+1) of a fixed-point x, n terms from index k, y = x^2. -/
def oddSeries (sgn : Int) : Nat → Nat → Int → Int → Int
  | 0, _, _, _ => 0
  | n + 1, k, t, y => t / (2 * (k : Int) + 1) + oddSeries sgn n (k + 1) (sgn * fxMul t y) y

/-- atanh x for |x| at most 1/3. -/
def fxAtanh (x : Int) : Int := oddSeries 1 220 0 x (fxMul x x)

/-- arctan (1/q) for a whole q. -/
def fxAtanInv (q : Nat) : Int := oddSeries (-1) 160 0 (fxOne / q) (fxMul (fxOne / q) (fxOne / q))

/-- pi, by Machin's formula. -/
def fxPi : Int := 16 * fxAtanInv 5 - 4 * fxAtanInv 239

/-- ln 2 = 2 atanh (1/3). -/
def fxLn2 : Int := 2 * fxAtanh (fxOne / 3)

/-- The sum of terms t, t f/(k+1), t f^2/((k+1)(k+2)), ... -/
def expSeries (f : Int) : Nat → Nat → Int → Int
  | 0, _, _ => 0
  | n + 1, k, t => t + expSeries f n (k + 1) (fxMul t f / ((k : Int) + 1))

/-- e^y of a fixed-point y: a fixed-point value between 1 and 2, and an exponent of 2. -/
def fxExp (y : Int) : Int × Int :=
  let n := y / fxLn2
  (expSeries (y - n * fxLn2) 140 0 fxOne, n)

/-- The alternating sum of t, -t r^2/((k+1)(k+2)), ... -/
def trigSeries (r2 : Int) : Nat → Nat → Int → Int
  | 0, _, _ => 0
  | n + 1, k, t => t + trigSeries r2 n (k + 2) (-(fxMul t r2 / (((k : Int) + 1) * ((k : Int) + 2))))

/-- sin and cos of a fixed-point r of 0 to pi/2. -/
def fxSinCos (r : Int) : Int × Int :=
  (trigSeries (fxMul r r) 90 1 r, trigSeries (fxMul r r) 90 0 fxOne)

/-- A number in fixed point, toward minus infinity. The finite values of f32 and narrower are exact. -/
def toFx (x : Num) : Int :=
  let x := rational x
  x.m * pow2 (x.e + 640) / ((x.d : Int) * pow2 (-(x.e + 640)))

/-- A fixed-point value times 2^k that stands for an exact value strictly beside it. -/
def sticky (m k : Int) : Num := { m := 2 * m + 1, e := k - 641 }

/-- floor of the square root of n, below 2^(k+1). -/
def isqrtBits (n : Nat) : Nat → Nat → Nat
  | 0, r => r
  | k + 1, r => isqrtBits n k (if (r + 2 ^ k) * (r + 2 ^ k) ≤ n then r + 2 ^ k else r)

/-- floor of the square root. -/
def isqrt (n : Nat) : Nat := isqrtBits n (Nat.log2 n / 2 + 1) 0

/-- The square root of a positive number: exact, or strictly between the same neighbours. -/
def numSqrt (x0 : Num) : Num :=
  let x := rational x0
  let e := if x.e % 2 = 0 then x.e else x.e - 1
  let m := x.m.natAbs * pow2 (x.e - e)
  let q := m * 2 ^ 400 / x.d
  let r := isqrt q
  if r * r = q ∧ m * 2 ^ 400 % x.d = 0 then { m := r, e := e / 2 - 200 } else { m := 2 * r + 1, e := e / 2 - 201 }

/-- k of a positive number 2^k. -/
def exactLog2 (x0 : Num) : Option Int :=
  let x := rational x0
  let k := ilog2 x.m.natAbs x.d + x.e
  if numCmp x { m := 1, e := k } = 0 then some k else none

/-- The value of a special function: its sign for a zero is that of the value; whether R200 lists it as exact; and the
flags that are not of rounding. -/
structure SpVal where
  y : Val
  exact : Bool := true
  fl : Nat := 0

/-- 2^k, held to exponents that overflow or underflow alike. -/
def twoTo (k : Int) : Val := .fin false { m := 1, e := max (-1000) (min 1000 k) }

/-- One. -/
def oneVal (neg : Bool) : Val := .fin neg { m := if neg then -1 else 1 }

/-- EXP2. -/
def spExp2 : Val → SpVal
  | .inf neg => { y := if neg then .fin false {} else .inf false }
  | .fin _ x =>
    if x.m = 0 then { y := oneVal false }
    else
      let k := roundToInt .rdn x
      if !k.2 then { y := twoTo k.1 }
      else if 1000 < k.1.natAbs then { y := twoTo k.1, exact := false }
      else
        let p := fxExp (fxMul (toFx x - k.1 * fxOne) fxLn2)
        { y := .fin false (sticky p.1 (p.2 + k.1)), exact := false }
  | v => { y := v }

/-- LOG2. -/
def spLog2 : Val → SpVal
  | .inf neg => if neg then { y := .nan, fl := fInvalid } else { y := .inf false }
  | .fin neg x =>
    if x.m = 0 then { y := .inf true, fl := fDivZero }
    else if neg then { y := .nan, fl := fInvalid }
    else match exactLog2 x with
      | some k => { y := finOf false { m := k } }
      | none =>
        let x := rational x
        let k := ilog2 x.m.natAbs x.d + x.e
        let m := toFx (numShift x (-k))
        let l := 2 * fxAtanh ((m - fxOne) * fxOne / (m + fxOne))
        { y := finOf false (sticky (k * fxOne + l * fxOne / fxLn2) 0), exact := false }
  | v => { y := v }

/-- RCP. -/
def spRcp : Val → SpVal
  | .inf neg => { y := .fin neg {} }
  | .fin neg x =>
    if x.m = 0 then { y := .inf neg, fl := fDivZero }
    else { y := finOf false (numDiv { m := 1 } x), exact := (exactLog2 (numAbs x)).isSome }
  | v => { y := v }

/-- RSQRT. -/
def spRsqrt : Val → SpVal
  | .inf neg => if neg then { y := .nan, fl := fInvalid } else { y := .fin false {} }
  | .fin neg x =>
    if x.m = 0 then { y := .inf neg, fl := fDivZero }
    else if neg then { y := .nan, fl := fInvalid }
    else { y := finOf false (numSqrt (numDiv { m := 1 } x)),
           exact := match exactLog2 x with | some k => decide (k % 2 = 0) | none => false }
  | v => { y := v }

/-- SQRT sets inexact only when it rounds. -/
def spSqrt : Val → SpVal
  | .inf neg => if neg then { y := .nan, fl := fInvalid } else { y := .inf false }
  | .fin neg x =>
    if x.m = 0 then { y := .fin neg {} }
    else if neg then { y := .nan, fl := fInvalid }
    else { y := finOf false (numSqrt x) }
  | v => { y := v }

/-- TANH. -/
def spTanh : Val → SpVal
  | .inf neg => { y := oneVal neg }
  | .fin neg x =>
    if x.m = 0 then { y := .fin neg {} }
    else
      let a := toFx (numAbs x)
      let y : Num :=
        if 64 * fxOne < a then { m := 2 ^ 100 - 1, e := -100 }
        else
          let p := fxExp (2 * a)
          let ex := p.1 * 2 ^ p.2.toNat
          sticky ((ex - fxOne) * fxOne / (ex + fxOne)) 0
      { y := finOf false (if neg then numNeg y else y), exact := false }
  | v => { y := v }

/-- SIGM. -/
def spSigm : Val → SpVal
  | .inf neg => { y := if neg then .fin false {} else oneVal false }
  | .fin neg x =>
    if x.m = 0 then { y := .fin false { m := 1, e := -1 } }
    else
      let a := toFx (numAbs x)
      let y : Num :=
        if 200 * fxOne < a then if neg then { m := 1, e := -400 } else { m := 2 ^ 100 - 1, e := -100 }
        else
          let p := fxExp a
          let ex := p.1 * 2 ^ p.2.toNat
          sticky ((if neg then fxOne else ex) * fxOne / (ex + fxOne)) 0
      { y := finOf false y, exact := false }
  | v => { y := v }

/-- SIN and COS of a finite argument, reduced exactly. -/
def trigVal (cos : Bool) (x : Num) : Val :=
  let a := toFx (numAbs x)
  let n := 2 * a / fxPi
  let p := fxSinCos ((2 * a - n * fxPi) / 2)
  let y := match cos, (n % 4).toNat with
    | false, 0 => p.1
    | false, 1 => p.2
    | false, 2 => -p.1
    | false, _ => -p.2
    | true, 0 => p.2
    | true, 1 => -p.1
    | true, 2 => -p.2
    | true, _ => p.1
  finOf false (sticky (if !cos && decide (x.m < 0) then -y else y) 0)

/-- SIN and COS. -/
def spTrig (cos : Bool) : Val → SpVal
  | .inf _ => { y := .nan, fl := fInvalid }
  | .fin neg x =>
    if x.m = 0 then { y := if cos then oneVal false else .fin neg {} }
    else { y := trigVal cos x, exact := false }
  | v => { y := v }

/-- The special function of an opcode. -/
def spFun (op : Nat) (v : Val) : SpVal :=
  match op with
  | 0x0A0 => spExp2 v
  | 0x0A1 => spLog2 v
  | 0x0A2 => spRcp v
  | 0x0A3 => spRsqrt v
  | 0x0A4 => spSqrt v
  | 0x0A5 => spTanh v
  | 0x0A6 => spSigm v
  | 0x0A7 => spTrig false v
  | _ => spTrig true v

/-- A subnormal operand of f32, bf16 or f16 read under flush mode (R57). It sets no flag: R57 gives flags to flushed
results (DEDUCED, log 134). -/
def flushIn (t : Nat) (flush : Bool) (c : Nat) : Nat :=
  let p := floatFmt t
  if flush && decide (t ≤ 2) && decide (c / 2 ^ p.fb % 2 ^ p.eb = 0) then c / 2 ^ (p.eb + p.fb) * 2 ^ (p.eb + p.fb) else c

/-- special of R200: code and flags. -/
def specialElem (op t : Nat) (sat flush : Bool) (c : Nat) : Nat × Nat :=
  match decodeElem t (flushIn t flush c) with
  | .absent => (absentOf t, 0)
  | .nan => (canonNan t, 0)
  | v =>
    let p := spFun op v
    let y := roundVal 0 .rne sat (flush && t == 0) p.y
    let z := if t = 0 then y else roundVal t .rne sat (flush && decide (t ≤ 2)) (decodeElem 0 y.1)
    (z.1, p.fl ||| y.2 ||| z.2 ||| (if p.exact then 0 else fInexact))

end Sys2Proof.Machine
end

