-- ==== Sys2Proof/Machine/VWords.lean ====
section
/-!
DEFINITION. Machine/VWords.lean: block headers and words, and their validation (spec/04 R96 to R101, spec/08 R184 to
R197, spec/09 R198 to R217).
-/
namespace Sys2Proof.Machine

/-! ### Fields (R96, R97, R99) -/

/-- The opcode of a word. -/
def bwOp (w : Nat) : Nat := bits w 63 55
/-- Its stage. -/
def bwStage (w : Nat) : Nat := bits w 54 52
/-- Its predication: 0 always, 1 on true, 2 on false. -/
def bwPred (w : Nat) : Nat := bits w 51 50
/-- Its type. -/
def bwType (w : Nat) : Nat := bits w 49 46
/-- Its aux field. -/
def bwAux (w : Nat) : Nat := bits w 27 0
/-- No target. -/
def noTarget : Nat := 0x1FF
/-- A word has a second target field: every word but CONST. -/
def hasT1 (w : Nat) : Bool := bwOp w ≠ 0x00B
/-- Target 0. -/
def bwT0 (w : Nat) : Nat := bits w 45 37
/-- Target 1. -/
def bwT1 (w : Nat) : Nat := if hasT1 w then bits w 36 28 else noTarget
/-- The targets of a word. -/
def bwTargets (w : Nat) : List Nat := [bwT0 w, bwT1 w]

/-- A block being run or checked: header, words, the operator's type, formats of the bound tiles, shape table. -/
structure BlockCtx where
  hdr : Nat
  words : List Nat
  typ : Nat
  bfmt : List Nat
  shapes : Tbl Nat Shape

/-- cmode of the header: flag mode. -/
def BlockCtx.cmode (b : BlockCtx) : Bool := bit b.hdr 112
/-- Output ports. -/
def BlockCtx.nports (b : BlockCtx) : Nat := bits b.hdr 104 102
/-- Bound tiles. -/
def BlockCtx.nbind (b : BlockCtx) : Nat := bits b.hdr 107 105
/-- The default absent mode is identity. -/
def BlockCtx.amode (b : BlockCtx) : Bool := bit b.hdr 91
/-- Flush mode. -/
def BlockCtx.flush (b : BlockCtx) : Bool := bit b.hdr 90
/-- The first register of the window and its last. -/
def BlockCtx.window (b : BlockCtx) : Nat × Nat := (bits b.hdr 101 97, bits b.hdr 101 97 + bits b.hdr 96 92)
/-- The iteration shape. -/
def BlockCtx.shape (b : BlockCtx) : Shape := tget {} (bits b.hdr 111 108) b.shapes
/-- Element width in bits. -/
def BlockCtx.w (b : BlockCtx) : Nat := elemBits b.typ
/-- Element positions of a step: N, or lanes. -/
def BlockCtx.n (b : BlockCtx) : Nat := 512 / elemBits b.typ
/-- Word k. -/
def BlockCtx.word (b : BlockCtx) (k : Nat) : Nat := (b.words[k]?).getD 0

/-! ### What an opcode takes (R98, R99, R189 to R212) -/

/-- Aux forms of R99. -/
inductive AuxForm where
  | n | b | p | k | s | e | q | i | d | g | t | m
  deriving DecidableEq, Repr

/-- The form of an opcode; none when it is unassigned. -/
def formOf (op : Nat) : Option AuxForm :=
  let inR := fun (lo hi : Nat) => decide (lo ≤ op) && decide (op ≤ hi)
  if op = 0x001 then some .n
  else if op = 0x002 then some .b
  else if inR 0x008 0x00A then some .p
  else if op = 0x00B then some .k
  else if inR 0x00C 0x00D then some .s
  else if inR 0x020 0x02B || inR 0x040 0x048 || inR 0x060 0x068 || inR 0x080 0x085 || inR 0x0A0 0x0A8 then some .e
  else if inR 0x0C0 0x0C6 || inR 0x100 0x101 then some .q
  else if inR 0x0E0 0x0E6 then some .i
  else if op = 0x102 then some .d
  else if inR 0x108 0x10A then some .g
  else if op = 0x10B then some .t
  else if inR 0x120 0x122 then some .m
  else none

/-- The aux bits that a form defines. -/
def formMask : AuxForm → Nat
  | .n => 0
  | .b => 0xFFFF
  | .p | .s => 3
  | .k => 0xFFFFFFF
  | .e => 0xFC00000
  | .q => 0xFC00003
  | .i => 0xFC0003F
  | .d => 0xF
  | .g => 0x1FF800
  | .t => 0xFF
  | .m => 0x1FF3

/-- The positions that an opcode's entry lists: 0 left, 1 right, 2 predicate. -/
def entryPos (op : Nat) : List Nat :=
  let inR := fun (lo hi : Nat) => decide (lo ≤ op) && decide (op ≤ hi)
  if op = 0x023 ∨ op = 0x028 ∨ op = 0x080 then [0, 1, 2]
  else if op = 0x085 then [2]
  else if op = 0x081 ∨ op = 0x083 ∨ op = 0x0E4 ∨ op = 0x0E5 then [0, 2]
  else if op = 0x00A ∨ op = 0x024 ∨ op = 0x025 || inR 0x046 0x048 || inR 0x067 0x068 || inR 0x0A0 0x0A8 ||
      inR 0x0C0 0x0C6 || inR 0x0E1 0x0E3 || decide (op = 0x101) || decide (op = 0x109) || inR 0x121 0x122 then [0]
  else if inR 0x020 0x02B || inR 0x040 0x045 || inR 0x060 0x066 || inR 0x082 0x084 || decide (op = 0x0E0) ||
      decide (op = 0x0E6) then [0, 1]
  else []

/-- The predicate position of FMA and CLAMP is a value position. -/
def valueP (op : Nat) : Bool := op = 0x023 || op = 0x028

/-- Compares, ISABS and ISNAN deliver predicate vectors. -/
def makesPred (op : Nat) : Bool := decide (0x060 ≤ op) && decide (op ≤ 0x068)

/-- The instructions that select by their predicate position (R186, R197). -/
def selects (op : Nat) : Bool := op = 0x080 || op = 0x081 || op = 0x083 || op = 0x085 || op = 0x0E4 || op = 0x0E5

/-- The positions that a word requires (R184, R186); none when its predication is not allowed. -/
def needsPos (cmode : Bool) (w : Nat) : Option (List Nat) :=
  let op := bwOp w
  let own := entryPos op
  if cmode then
    if bwPred w ≠ 0 ∧ (selects op ∨ op = 0x029 ∨ op = 0x02A) then none
    else some (if valueP op then own else own.filter (· ≠ 2))
  else if bwPred w = 0 then some own
  else if own.contains 2 then none
  else some (own ++ [2])

/-- An integer type. -/
def isIntT (t : Nat) : Bool := decide (6 ≤ t) && decide (t ≤ 0xB)

/-- The types that an opcode accepts. -/
def typeOk (op t : Nat) : Bool :=
  let inR := fun (lo hi : Nat) => decide (lo ≤ op) && decide (op ≤ hi)
  if op = 0x001 ∨ op = 0x002 ∨ op = 0x10B then t = 0
  else if inR 0x00C 0x00D || inR 0x029 0x02B || inR 0x040 0x048 || decide (op = 0x085) then isIntT t
  else if inR 0x0A0 0x0A8 then isFloat t
  else if op = 0x0C4 then isFloat t || isIntT t
  else if op = 0x0C6 then t = 0 || t = 8 || t = 0xB
  else decide (t ≤ 0xB)

/-- The word has no targets (R189, R198). -/
def noTargets (op : Nat) : Bool :=
  op = 0x00A || op = 0x100 || op = 0x101 || op = 0x121 || op = 0x109 || op = 0x001 || op = 0x002 || op = 0x10B

/-! ### Accumulator classes (R201) -/

/-- The class that a word gives an accumulator: kind (0 sum, 1 max or min, 2 argmax, 3 count) and type class (0 float,
1 l6, 2 integer). -/
def accKind (w : Nat) : Option (Nat × Nat) :=
  let t := bwType w
  let tc := if isFloat t then 0 else if t = 5 then 1 else 2
  match bwOp w with
  | 0x0C0 | 0x0C3 | 0x0C5 | 0x101 => some (0, tc)
  | 0x0C1 | 0x0C2 => some (1, tc)
  | 0x0C6 => some (2, tc)
  | 0x0C4 => some (3, tc)
  | _ => none

/-- The accumulator that a word names. -/
def accNo (w : Nat) : Nat := bits (bwAux w) 1 0

/-- The class of an accumulator: that of the first word that gives one. -/
def accClassOf (words : List Nat) (a : Nat) : Option (Nat × Nat) :=
  (words.filter fun w => decide (accNo w = a)).findSome? accKind

/-- A drain is legal (R206). The lane's type of max, min and argmax is that of a word that names the accumulator. -/
def drainOk (b : BlockCtx) (w : Nat) : Bool :=
  let t := bwType w
  let mode := bits (bwAux w) 3 2
  match accClassOf b.words (accNo w) with
  | none => mode ≠ 3
  | some (k, tc) =>
    let same := if k = 0 then if tc = 0 then isFloat t else if tc = 1 then t = 5 else isIntT t
      else b.words.any fun x => decide (accNo x = accNo w) && decide (accKind x = some (k, tc)) && decide (bwType x = t)
    match mode with
    | 2 => if k = 0 && tc = 1 then t = 6 || t = 9 else isFloat t || isIntT t
    | 0 => k ≠ 3 && same
    | 1 => k = 0 && same
    | _ => false

/-! ### Validation (R100, R101, R184, R185, R198, R217) -/

/-- The aux fields of forms E, Q and I are admitted (R185, R198). -/
def auxEok (cmode : Bool) (w : Nat) : Bool :=
  let op := bwOp w
  let a := bwAux w
  let inR := fun (lo hi : Nat) => decide (lo ≤ op) && decide (op ≤ hi)
  let fl := decide (bwType w ≤ 5)
  let arith := inR 0x020 0x023
  let rmOk := bits a 27 26 = 0 || (arith && fl)
  let satOk := !bit a 22 || (arith && fl) || inR 0x0A0 0x0A8
  let amOk := bits a 25 24 = 0 || (bits a 25 24 ≠ 3 && (arith || inR 0x026 0x027))
  let fwOk := !bit a 23 || (cmode && (inR 0x020 0x02B || inR 0x040 0x048 || inR 0x060 0x068 || inR 0x0A0 0x0A8))
  rmOk && satOk && amOk && fwOk

/-- A register lies in the window. -/
def inWindow (b : BlockCtx) (r : Nat) : Bool := decide (b.window.1 ≤ r) && decide (r ≤ b.window.2)

/-- Some TST or TAMO makes port nports - 1 a completion port (R215). -/
def hasCompletion (b : BlockCtx) : Bool :=
  b.words.any fun w => (bwOp w = 0x121 || bwOp w = 0x122 : Bool) && bit (bwAux w) 8

/-- The feeders of a position: slots of the words whose targets name it, once for each target. -/
def feeders (b : BlockCtx) (slot pos : Nat) : List Nat :=
  (b.words.zipIdx).flatMap fun p =>
    (bwTargets p.1).filterMap fun t => if t = slot * 4 + pos then some p.2 else none

/-- A target of a word names a position that its consumer offers. -/
def targetOk (b : BlockCtx) (t : Nat) : Bool :=
  t = noTarget || (decide (t / 4 < b.words.length) && decide (t % 4 ≠ 3) &&
    match needsPos b.cmode (b.word (t / 4)) with
    | some ps => ps.contains (t % 4)
    | none => true)

/-- A required position is fed exactly once, by a word of the right kind (R184). -/
def fedOk (b : BlockCtx) (slot pos : Nat) : Bool :=
  match feeders b slot pos with
  | [k] => pos ≠ 2 || (makesPred (bwOp (b.word k)) != valueP (bwOp (b.word slot)))
  | _ => false

/-- What the entry of an instruction asks besides. A TLD or TST names no TAMO operation in bits 12 to 9 (DESIGN CHOICE, log 137). -/
def entryOk (b : BlockCtx) (slot w : Nat) : Bool :=
  let op := bwOp w
  let a := bwAux w
  let t := bwType w
  let n := bits a 5 0
  if op = 0x008 then decide (bits a 1 0 ≤ 1) && decide (t = b.typ)
  else if op = 0x009 then decide (bits a 1 0 < b.nbind) && decide ((b.bfmt[bits a 1 0]?) = some t)
  else if op = 0x00A then
    decide (bits a 1 0 < b.nports) && decide (t = b.typ) && !(hasCompletion b && decide (bits a 1 0 + 1 = b.nports))
  else if op = 0x00B then decide (bits w 36 32 = 0) && decide (bits w 31 0 < 2 ^ elemBits t)
  else if op = 0x00C then bits a 1 0 ≠ 3
  else if op = 0x029 ∨ op = 0x02A then b.cmode
  else if (accKind w).isSome then
    match accClassOf (b.words.take slot) (accNo w) with
    | some c => some c = accKind w
    | none => true
  else if op = 0x102 then drainOk b w
  else if op = 0x0E0 ∨ op = 0x0E4 ∨ op = 0x0E5 then n = 0 && (op = 0x0E0 || bwPred w = 0)
  else if op = 0x0E6 then decide (n ≤ 1)
  else if 0x0E1 ≤ op ∧ op ≤ 0x0E3 then decide (n < b.n)
  else if 0x108 ≤ op ∧ op ≤ 0x10A then
    inWindow b (bits a 20 16) && if op = 0x10A then inWindow b (bits a 15 11) else bits a 15 11 = 0
  else if op = 0x10B then
    let x := b.word (slot + 1)
    decide (slot + 1 < b.words.length) && decide (formOf (bwOp x) = some .g) && decide (bwStage x = bwStage w) &&
      decide (bwPred w = 0) && (!bit a 6 || inWindow b (bits (bwAux x) 20 16 + n)) &&
      (!bit a 7 || bwOp x ≠ 0x10A || inWindow b (bits (bwAux x) 15 11 + n))
  else if 0x120 ≤ op ∧ op ≤ 0x122 then
    decide (bits a 1 0 < b.nbind) && decide ((b.bfmt[bits a 1 0]?) = some t) && (tfind (bits a 7 4) b.shapes).isSome &&
      (if op = 0x122 then decide (bits a 12 9 ≤ 3) else bits a 12 9 = 0) && !(op = 0x120 && bit a 8)
  else true

/-- A word is legal. -/
def wordOk (b : BlockCtx) (slot : Nat) : Bool :=
  let w := b.word slot
  let op := bwOp w
  match formOf op, needsPos b.cmode w with
  | some f, some ps =>
    decide (bwStage w ≤ 5) && bit b.hdr (84 + bwStage w) && bwPred w ≠ 3 && typeOk op (bwType w) &&
      (op = 0x001 || op = 0x002 || op = 0x10B || elemBits (bwType w) = b.w) &&
      (bwTargets w).all (targetOk b) && (bwT0 w ≠ bwT1 w || bwT0 w = noTarget) &&
      (!noTargets op || (bwT0 w = noTarget && bwT1 w = noTarget)) &&
      decide (bwAux w &&& formMask f = bwAux w) &&
      (!(f = .e || f = .q || f = .i) || auxEok b.cmode w) && entryOk b slot w && ps.all (fedOk b slot)
  | _, _ => false

/-- The header is legal (R100). -/
def headerOk (b : BlockCtx) : Bool :=
  decide (bits b.hdr 127 120 = 0xB7) && decide (b.nbind ≤ 4) && decide (1 ≤ b.nports) && decide (b.nports ≤ 4) &&
    decide (b.window.2 ≤ 31) && decide (bits b.hdr 89 84 ≠ 0) && (tfind (bits b.hdr 111 108) b.shapes).isSome &&
    decide (bits b.hdr 83 0 = 0)

/-- The first illegal word of a block, the header as 0x7F (R101); none when the block is legal. -/
def firstIllegal (b : BlockCtx) : Option Nat :=
  if !headerOk b then some 0x7F else (List.range b.words.length).find? fun k => !wordOk b k

end Sys2Proof.Machine
end

