-- ==== Sys2Proof/Machine/VBlock.lean ====
section
/-!
DEFINITION. Machine/VBlock.lean: the block instructions and the three steps of a VBLOCK activation (spec/06 R145 to
R147, spec/08, spec/09).
-/
namespace Sys2Proof.Machine

/-! ### The context of a step -/

/-- What one step of an activation changes: memory through its bound tiles, its vector tile, its outputs, deliveries. -/
structure VStep where
  s : State
  vt : VTile
  out : List (List (Option Nat))
  box : Tbl (Nat × Nat) (List Nat) := []
  loop : List LoopBack := []
  fl : Nat := 0
  /-- the code of the first BRK that acted -/
  brk : Option Nat := none
  /-- an uncorrectable read of a bound tile (R388) -/
  bad : Bool := false
  /-- an arithmetic error that the next checked sum takes (R381), and a mod-3 mismatch found -/
  err : Option Int := none
  bad3 : Bool := false

/-- What a step's instructions read besides: the block, its operator and activation, and the step's coordinates. -/
structure VCtx where
  b : BlockCtx
  r : OpRef
  u : Run
  bound : List TileId
  x0 : Nat
  i1 : Nat
  i2 : Nat
  i3 : Nat

/-- The linear index of element position j (R146). -/
def VCtx.lin (c : VCtx) (j : Nat) : Nat :=
  let g := c.b.shape
  ((c.i3 * g.e2 + c.i2) * g.e1 + c.i1) * g.e0 + c.x0 * c.b.n + j

/-- Element position j is a padding lane. -/
def VCtx.pad (c : VCtx) (j : Nat) : Bool := decide (c.b.shape.e0 ≤ c.x0 * c.b.n + j)

/-- The element positions of a step. -/
def VCtx.js (c : VCtx) : List Nat := List.range c.b.n

/-- Element j of a vector. -/
def vAt (v : List Nat) (j : Nat) : Nat := (v[j]?).getD 0

/-- The vector at a position of an instruction (R182, R183): delivered in this step, out of the loop-back queue, or
all-absent, or all-false. -/
def operand (c : VCtx) (v : VStep) (slot pos : Nat) : List Nat :=
  match tfind (slot, pos) v.box with
  | some x => x
  | none =>
    match c.u.loop.find? fun l => decide (l.slot = slot) && decide (l.pos = pos) && decide (l.step = c.u.step) with
    | some l => l.vec
    | none =>
      let w := c.b.word slot
      List.replicate c.b.n (if pos = 2 ∧ !valueP (bwOp w) then 0 else absentOf (bwType w))

/-- The condition or selector of element j (R186). -/
def condAt (c : VCtx) (v : VStep) (slot : Nat) : List Bool :=
  if c.b.cmode then c.js.map (flagC v.vt.flags) else (operand c v slot 2).map (· ≠ 0)

/-- The enabled element positions of an instruction. -/
def enabledAt (c : VCtx) (v : VStep) (slot : Nat) : List Bool :=
  match bwPred (c.b.word slot) with
  | 1 => condAt c v slot
  | 2 => (condAt c v slot).map (!·)
  | _ => List.replicate c.b.n true

/-- Position j is enabled. -/
def onAt (en : List Bool) (j : Nat) : Bool := (en[j]?).getD false

/-- What a disabled position delivers. -/
def offCode (w : Nat) : Nat := if makesPred (bwOp w) then 0 else absentOf (bwType w)

/-- Deliver a vector to one target (R182, R183). -/
def deliverTo (c : VCtx) (slot t : Nat) (x : List Nat) (v : VStep) : VStep :=
  if t = noTarget then v
  else
    let k := t / 4
    let st := bwStage (c.b.word slot)
    let sk := bwStage (c.b.word k)
    if st < sk ∨ (st = sk ∧ slot < k) then { v with box := tset (k, t % 4) x v.box }
    else { v with loop := v.loop ++ [{ slot := k, pos := t % 4, step := c.u.step + 6, vec := x }] }

/-- Disabled positions masked. -/
def masked (w : Nat) (en : List Bool) (x : List Nat) : List Nat :=
  (x.zipIdx).map fun p => if onAt en p.2 then p.1 else offCode w

/-- Deliver two vectors to the two targets. -/
def deliver2 (c : VCtx) (slot : Nat) (en : List Bool) (x0 x1 : List Nat) (v : VStep) : VStep :=
  let w := c.b.word slot
  deliverTo c slot (bwT1 w) (masked w en x1) (deliverTo c slot (bwT0 w) (masked w en x0) v)

/-- Deliver one vector to both targets. -/
def deliver (c : VCtx) (slot : Nat) (en : List Bool) (x : List Nat) (v : VStep) : VStep := deliver2 c slot en x x v

/-- An element result with its sticky flags and its lane flags. -/
structure ElemOut where
  code : Nat
  fl : Nat := 0
  lane : Option (BitVec 4) := none

/-- The enabled elements of an element-wise instruction write their flags and deliver (R186, R187). -/
def elementwise (c : VCtx) (slot : Nat) (v : VStep) (f : Nat → BitVec 4 → ElemOut) : VStep :=
  let en := enabledAt c v slot
  let outs := c.js.map fun j => if onAt en j then f j (tget 0 j v.vt.flags) else { code := 0 }
  let fs := (outs.zipIdx).foldl (fun t p => match p.1.lane with
    | some x => tset p.2 x t
    | none => t) v.vt.flags
  deliver c slot en (outs.map (·.code))
    { v with fl := outs.foldl (fun a o => a ||| o.fl) v.fl, vt := { v.vt with flags := fs } }

/-- fw of a word. -/
def bwFw (w : Nat) : Bool := bit (bwAux w) 23

/-! ### Elements of arithmetic (R193, R194) -/

/-- The order of present values: none when either is NaN. -/
def valCmp (a b : Val) : Option Int :=
  match a, b with
  | .nan, _ | _, .nan | .absent, _ | _, .absent => none
  | .inf x, .inf y => some (if x = y then 0 else if x then -1 else 1)
  | .inf x, _ => some (if x then -1 else 1)
  | _, .inf y => some (if y then 1 else -1)
  | .fin _ x, .fin _ y => some (numCmp x y)

/-- a lies below b, −0 below +0. -/
def valBelow (a b : Val) : Bool :=
  match valCmp a b with
  | some i => if i = 0 then match a, b with
      | .fin true x, .fin false _ => decide (x.m = 0)
      | _, _ => false
    else decide (i < 0)
  | none => false

/-- An absent operand replaced by its identity (R49). -/
def identityOf (op k : Nat) : Val :=
  match op, k with
  | 0x022, _ | 0x023, 0 | 0x023, 1 => .fin false { m := 1 }
  | _, _ => .fin false {}

/-- The lesser or greater of two present codes. -/
def pickCode (t : Nat) (max : Bool) (a b : Nat) : Nat :=
  let x := decodeElem t a
  let y := decodeElem t b
  if max then if valBelow x y then b else a else if valBelow y x then b else a

/-- The exact value of an arithmetic instruction and its invalid flag. -/
def exactOf (op : Nat) (rdn : Bool) (vs : List Val) : Val × Nat :=
  let a := (vs[0]?).getD .absent
  let b := (vs[1]?).getD .absent
  let p := (vs[2]?).getD .absent
  match op with
  | 0x020 => (valAdd rdn a b, addInvalid a b)
  | 0x021 => (valAdd rdn a (valNeg b), addInvalid a (valNeg b))
  | 0x022 => (valMul a b, prodInvalid a b)
  | 0x023 =>
    let m := valMul a b
    (valAdd rdn m p, prodInvalid a b ||| addInvalid m p)
  | 0x024 => (valNeg a, 0)
  | _ => (match a with
    | .inf _ => .inf false
    | .fin _ x => .fin false (numAbs x)
    | v => v, 0)

/-- An element of l6 holds zero in bits 7 and 6 (R45). -/
def cleanCode (t c : Nat) : Nat := if t = 5 then c % 64 else c

/-- The integer of a code of an integer type. -/
def intCode (t c : Nat) : Int := if isSigned t then sext (elemBits t) c else (c : Int)

/-- The products of an exact sum that ADD, SUB, MUL, FMA and MULH form, which the mod-3 code checks (R381). -/
def arithTerms (op t : Nat) (ident : Bool) (flush : Bool) (xs : List Nat) : Option (List (List Num)) :=
  let xs := xs.map fun c => cleanCode t (flushIn t flush c)
  let vs := xs.map (decodeElem t)
  let nAbs := vs.countP isAbsV
  let fin := vs.all fun v => match v with | .fin _ _ | .absent => true | _ => false
  let v := ((vs.zipIdx).map fun p => if isAbsV p.1 then identityOf op p.2 else p.1).map numIn
  let a := (v[0]?).getD {}
  let b := (v[1]?).getD {}
  if !fin ∨ nAbs = xs.length ∨ (0 < nAbs ∧ (!ident ∨ op = 0x02B)) then none
  else match op with
    | 0x020 => some [[a], [b]]
    | 0x021 => some [[a], [numNeg b]]
    | 0x022 => some [[a, b]]
    | 0x023 => some [[a, b], [(v[2]?).getD {}]]
    | 0x02B => some [[numOf (intCode t ((xs[0]?).getD 0)), numOf (intCode t ((xs[1]?).getD 0))]]
    | _ => none

/-- arith of R194: code and sticky flags. err is the error of its exact result (R381). -/
def arithElem (op t : Nat) (ident : Bool) (rm : Rm) (sat flush : Bool) (xs : List Nat) (err : Int := 0) : Nat × Nat :=
  let ts := (arithTerms op t ident flush xs).getD []
  let xs := xs.map fun c => cleanCode t (flushIn t flush c)
  let vs := xs.map (decodeElem t)
  let ab := vs.map isAbsV
  let nAbs := ab.countP id
  let x := fun k : Nat => (xs[k]?).getD 0
  let a := fun k : Nat => (ab[k]?).getD false
  if vs.any isNanV then (canonNan t, 0)
  else if (op = 0x026 ∨ op = 0x027) ∧ nAbs = 1 then (if a 0 then x 1 else x 0, 0)
  else if op = 0x028 then
    if a 0 then (absentOf t, 0)
    else
      let lo := if a 1 then x 0 else pickCode t true (x 0) (x 1)
      (if a 2 then lo else pickCode t false lo (x 2), 0)
  else if nAbs = xs.length then (absentOf t, 0)
  else if 0 < nAbs ∧ (!ident ∨ ¬(0x020 ≤ op ∧ op ≤ 0x023)) then (absentOf t, 0)
  else if op = 0x026 ∨ op = 0x027 then (pickCode t (decide (op = 0x027)) (x 0) (x 1), 0)
  else if op = 0x02B then
    (((intCode t (x 0) * intCode t (x 1) + err) / 2 ^ elemBits t % 2 ^ elemBits t).toNat, 0)
  else
    let vs := (vs.zipIdx).map fun p => if isAbsV p.1 then identityOf op p.2 else p.1
    let e := exactOf op (decide (rm = .rdn)) vs
    let c := roundVal t rm sat (flush && decide (t ≤ 2)) (withErr ts err e.1)
    (c.1, e.2 ||| c.2)

/-- The absent mode of a word is identity (R49, R99). -/
def identMode (b : BlockCtx) (w : Nat) : Bool :=
  let am := bits (bwAux w) 25 24
  am = 2 || (decide (am = 0) && b.amode)

/-- A pending arithmetic error meets the first exact sum of an instruction: its place and size (R381). -/
def hitAt (v : VStep) (sums : List (Option (List (List Num)))) : Option (Nat × Int) :=
  v.err.bind fun d => if sums.any (·.isSome) then some (sums.findIdx (·.isSome), d) else none

/-- The error is spent, and the mod-3 check judges the sum that it met (R381). -/
def struck (sums : List (Option (List (List Num)))) (v : VStep) : VStep :=
  match hitAt v sums with
  | none => v
  | some (k, d) => { v with err := none, bad3 := v.bad3 || (((sums[k]?).getD none).map (mod3Finds · d)).getD false }

/-- The error of the exact sum at a place. -/
def errAt (v : VStep) (sums : List (Option (List (List Num)))) (j : Nat) : Int :=
  match hitAt v sums with
  | some (k, d) => if k = j then d else 0
  | none => 0

/-- ADD to CLAMP and MULH. -/
def runArith (c : VCtx) (slot : Nat) (v : VStep) : VStep :=
  let w := c.b.word slot
  let t := bwType w
  let xs := (entryPos (bwOp w)).map fun p => operand c v slot p
  let en := enabledAt c v slot
  let row := fun j : Nat => xs.map fun x => vAt x j
  let sums := if v.err.isNone then [] else c.js.map fun j =>
    if onAt en j then arithTerms (bwOp w) t (identMode c.b w) c.b.flush (row j) else none
  elementwise c slot (struck sums v) fun j old =>
    let o := arithElem (bwOp w) t (identMode c.b w) (rmOf (bits (bwAux w) 27 26)) (bit (bwAux w) 22) c.b.flush
      (row j) (errAt v sums j)
    { code := o.1, fl := o.2, lane := if bwFw w then some (arithFlags t o.1 o.2 old) else none }

/-! ### Raw bits (R195) -/

/-- Leading zero bits of a w-bit number. -/
def clz (w x : Nat) : Nat := if x = 0 then w else w - 1 - Nat.log2 x

/-- A raw-bit result of width w. -/
def rawElem (op w x y : Nat) : Nat :=
  match op with
  | 0x040 => if w ≤ y then 0 else x * 2 ^ y % 2 ^ w
  | 0x041 => if w ≤ y then 0 else x / 2 ^ y
  | 0x042 => (sext w x / 2 ^ Nat.min y w % 2 ^ w).toNat
  | 0x043 => x &&& y
  | 0x044 => x ||| y
  | 0x045 => x ^^^ y
  | 0x046 => 2 ^ w - 1 - x
  | 0x047 => (List.range w).countP fun k => bit x k
  | _ => clz w x

/-- SHL to CLZ. -/
def runRaw (c : VCtx) (slot : Nat) (v : VStep) : VStep :=
  let w := c.b.word slot
  let l := operand c v slot 0
  let r := if (entryPos (bwOp w)).contains 1 then operand c v slot 1 else []
  elementwise c slot v fun j old =>
    let x := rawElem (bwOp w) c.b.w (vAt l j) (vAt r j)
    { code := x, lane := if bwFw w then some (rawFlags c.b.w x old) else none }

/-- ADDC and SUBB. -/
def runCarry (c : VCtx) (slot : Nat) (v : VStep) : VStep :=
  let w := c.b.word slot
  let n := c.b.w
  let l := operand c v slot 0
  let r := operand c v slot 1
  let en := enabledAt c v slot
  let sums := if v.err.isNone then [] else c.js.map fun j =>
    if onAt en j then
      let cin := b2n ((tget 0 j v.vt.flags).getLsbD 0)
      let neg := fun k : Nat => numOf (if bwOp w = 0x029 then (k : Int) else -(k : Int))
      some [[numOf (vAt l j : Nat)], [neg (vAt r j)], [neg cin]]
    else none
  let off := fun j res : Nat => (((res : Int) + errAt v sums j) % 2 ^ n).toNat
  elementwise c slot (struck sums v) fun j old =>
    let x := vAt l j
    let y := vAt r j
    let cin := b2n (old.getLsbD 0)
    if bwOp w = 0x029 then
      let res := off j ((x + y + cin) % 2 ^ n)
      { code := res, lane := some (carryFlags n res (decide (2 ^ n ≤ x + y + cin)) (sext n x + sext n y + cin)) }
    else
      let res := off j ((x + 2 ^ (n + 1) - y - cin) % 2 ^ n)
      { code := res, lane := some (carryFlags n res (decide (x < y + cin)) (sext n x - sext n y - cin)) }

/-! ### Compares and tests (R196) -/

/-- The result of a compare of present operands. -/
def cmpHolds (op : Nat) (o : Option Int) : Bool :=
  match op, o with
  | 0x060, some i => decide (i = 0)
  | 0x061, some i => decide (i ≠ 0)
  | 0x061, none => true
  | 0x062, some i => decide (i < 0)
  | 0x063, some i => decide (i ≤ 0)
  | 0x064, some i => decide (0 < i)
  | 0x065, some i => decide (0 ≤ i)
  | 0x066, o => o.isNone
  | _, _ => false

/-- CMPEQ to CMPUN. -/
def runCmp (c : VCtx) (slot : Nat) (v : VStep) : VStep :=
  let w := c.b.word slot
  let t := bwType w
  let l := operand c v slot 0
  let r := operand c v slot 1
  elementwise c slot v fun j _ =>
    let x := decodeElem t (flushIn t c.b.flush (vAt l j))
    let y := decodeElem t (flushIn t c.b.flush (vAt r j))
    let gone := isAbsV x || isAbsV y
    let o := valCmp x y
    let res := !gone && cmpHolds (bwOp w) o
    { code := b2n res, lane := if bwFw w then some (if gone then testFlags false else cmpFlags res o) else none }

/-- ISABS and ISNAN. -/
def runTest (c : VCtx) (slot : Nat) (v : VStep) : VStep :=
  let w := c.b.word slot
  let t := bwType w
  let l := operand c v slot 0
  elementwise c slot v fun j _ =>
    let x := decodeElem t (vAt l j)
    let res := if bwOp w = 0x067 then isAbsV x else isFloat t && isNanV x
    { code := b2n res, lane := if bwFw w then some (testFlags res) else none }

/-! ### Select and absent handling (R197) -/

/-- SEL to PCOUNT. -/
def runSelect (c : VCtx) (slot : Nat) (v : VStep) : VStep :=
  let w := c.b.word slot
  let op := bwOp w
  let t := bwType w
  let en := enabledAt c v slot
  let has := fun p : Nat => (entryPos op).contains p
  let sel := if has 2 then condAt c v slot else []
  let l := if has 0 then operand c v slot 0 else []
  let r := if has 1 then operand c v slot 1 else []
  let gone := absentOf t
  let row := fun f : Nat → Nat => c.js.map f
  match op with
  | 0x080 => deliver c slot en (row fun j => if onAt sel j then vAt l j else vAt r j) v
  | 0x081 => deliver2 c slot en (row fun j => if onAt sel j then vAt l j else gone)
      (row fun j => if onAt sel j then gone else vAt l j) v
  | 0x082 => deliver c slot en (row fun j => if isAbsent t (vAt l j) then vAt r j else vAt l j) v
  | 0x083 => deliver c slot en (row fun j => if onAt sel j then gone else vAt l j) v
  | 0x084 => deliver c slot en (row fun j => if j < vAt l j then vAt r j else gone) v
  | _ => deliver c slot en (row fun _ => sel.countP id) v

/-! ### Special functions (R199, R200) -/

/-- EXP2 to COS. -/
def runSpecial (c : VCtx) (slot : Nat) (v : VStep) : VStep :=
  let w := c.b.word slot
  let t := bwType w
  let l := operand c v slot 0
  elementwise c slot v fun j old =>
    let o := specialElem (bwOp w) t (bit (bwAux w) 22) c.b.flush (vAt l j)
    { code := o.1, fl := o.2, lane := if bwFw w then some (arithFlags t o.1 o.2 old) else none }

/-! ### Streams and constants (R190 to R192) -/

/-- The code of element i of a tile image. -/
def codeAt (n : Nat) (bs : List Byte) (k : Nat) : Nat := leNat ((bs.drop (k * n)).take n)

/-- Element i of an input stream. -/
def streamElem (u : Run) (pos typ i : Nat) : Nat :=
  let t := inputTok u pos
  let n := elemBytes typ
  if tokRows t * tokCols t ≤ i then absentOf typ
  else codeAt n (((burstAt u pos (i * n / 512)).map (·.data)).getD []) (i % (512 / n))

/-- TIN. -/
def runTin (c : VCtx) (slot : Nat) (v : VStep) : VStep :=
  let w := c.b.word slot
  let pos := bits (bwAux w) 1 0
  let t := inputTok c.u pos
  let x := if t.kind = 2 then c.js.map fun _ => tokScalar t % 2 ^ c.b.w
    else c.js.map fun j => if c.pad j then absentOf c.b.typ else streamElem c.u pos c.b.typ (c.lin j)
  deliver c slot (enabledAt c v slot) x v

/-- Element i of a bound tile and whether its word is uncorrectable; none outside the tile. -/
def boundElem (s : State) (id : TileId) (i : Nat) : Option (Nat × Bool) :=
  let t := getTile s id
  if t.rows * t.cols ≤ i then none
  else
    let x := readTileImage s id t (i * elemBytes t.fmt) (elemBytes t.fmt)
    some (leNat x.1, x.2)

/-- The counts of a read of elements of a bound tile (R385). -/
def countBound (s : State) (id : TileId) (is_ : List Nat) : State :=
  let t := getTile s id
  let is_ := is_.filter fun i => decide (i < t.rows * t.cols)
  countWords s (!t.level) (is_.map fun i => tileAddr id t (i * elemBytes t.fmt))

/-- Write element i of a bound tile. -/
def putBound (s : State) (id : TileId) (i code : Nat) : State :=
  let t := getTile s id
  writeUnit s (!t.level) (tileAddr id t (i * elemBytes t.fmt)) (leBytes (elemBytes t.fmt) code)

/-- A bound tile. -/
def boundTile (c : VCtx) (k : Nat) : TileId := (c.bound[k]?).getD {}

/-- BIN. -/
def runBin (c : VCtx) (slot : Nat) (v : VStep) : VStep :=
  let w := c.b.word slot
  let id := boundTile c (bits (bwAux w) 1 0)
  let xs := c.js.map fun j => if c.pad j then none else boundElem v.s id (c.lin j)
  deliver c slot (enabledAt c v slot) (xs.map fun x => (x.map (·.1)).getD (absentOf (bwType w)))
    { v with
      bad := v.bad || xs.any fun x => (x.map (·.2)).getD false
      s := countBound v.s id (c.js.filterMap fun j => if c.pad j then none else some (c.lin j)) }

/-- TOUT. -/
def runTout (c : VCtx) (slot : Nat) (v : VStep) : VStep :=
  let w := c.b.word slot
  let en := enabledAt c v slot
  let l := operand c v slot 0
  { v with out := lmod (bits (bwAux w) 1 0) (fun o =>
      c.js.foldl (fun o j => if onAt en j && !c.pad j then o.set (c.lin j) (some (vAt l j)) else o) o) v.out }

/-- CONST. -/
def runConst (c : VCtx) (slot : Nat) (v : VStep) : VStep :=
  deliver c slot (enabledAt c v slot) (c.js.map fun _ => bits (c.b.word slot) 31 0 % 2 ^ c.b.w) v

/-- LANEID and STEPID: a value clamped to the type's present range. -/
def runIds (c : VCtx) (slot : Nat) (v : VStep) : VStep :=
  let w := c.b.word slot
  let en := enabledAt c v slot
  let d := bits (bwAux w) 1 0
  let x := fun j : Nat =>
    if bwOp w = 0x00C then match d with
      | 0 => j
      | 1 => c.x0 * c.b.n + j
      | _ => c.lin j
    else match d with
      | 0 => c.u.step
      | 1 => c.i1
      | 2 => c.i2
      | _ => c.i3
  let cs := c.js.map fun j => clampInt (bwType w) (x j)
  deliver c slot en (cs.map (·.1))
    { v with fl := (cs.zipIdx).foldl (fun a p => if onAt en p.2 then a ||| p.1.2 else a) v.fl }

/-! ### Accumulators (R201 to R206) -/

/-- The type class of a type: 0 float, 1 l6, 2 integer. -/
def typeClass (t : Nat) : Nat := if isFloat t then 0 else if t = 5 then 1 else 2

/-- The addend of one l6 code (R202). -/
def l6One (c : Nat) : Int :=
  let e := c % 32
  if e = 0 then 0
  else
    let q : Int := (e : Int) - 16
    let m := laccT (q % 4).toNat * 2 ^ (q / 4 + 9).toNat
    if bit c 5 then -m else m

/-- The value that an element brings to a sum: f32 value, LACC units or integer as a number. -/
def sumLeaf (t : Nat) (flush : Bool) (c : Nat) : Val :=
  match typeClass t with
  | 0 => decodeElem t (flushIn t flush c)
  | 1 => finOf false { m := l6One c, e := -24 }
  | _ => decodeElem t c

/-- Addition of two sums of a class: f32 nodes for floats, exact otherwise. Under flush mode a node keeps a subnormal sum:
only the elements read and the values delivered are flushed (the spec does not say whether R57 reaches the nodes of R69;
DESIGN CHOICE, log 29). -/
def sumComb (tc : Nat) (x y : Fl Val) : Fl Val :=
  if tc = 0 then combF32Fl x y
  else match x.1, y.1 with
    | .absent, _ => (y.1, x.2 ||| y.2)
    | _, .absent => (x.1, x.2 ||| y.2)
    | a, b => (valAdd false a b, x.2 ||| y.2)

/-- The first two present leaves of a tree, whose sum the mod-3 code checks (R381). -/
def treeTerms (t : Nat) (flush : Bool) (xs : List (Option Nat)) : Option (List (List Num)) :=
  match ((xs.filterMap id).map (sumLeaf t flush)).take 2 with
  | [] => none
  | ls => if ls.all fun v => match v with | .fin _ _ => true | _ => false then some (ls.map fun v => [numIn v]) else none

/-- The tree of R69 over optional elements: absent where none takes part. An error enters the first present leaf. -/
def sumTree (t : Nat) (flush : Bool) (xs : List (Option Nat)) (err : Int := 0) : Fl Val :=
  let leaves := xs.map fun x => (((x.map (sumLeaf t flush)).getD .absent, 0) : Fl Val)
  let leaves := if err = 0 then leaves else
    lmod (xs.findIdx (·.isSome)) (fun l => (withErr ((treeTerms t flush xs).getD []) err l.1, l.2)) leaves
  ((treeK (sumComb (typeClass t)) 6 leaves).head?).getD (.absent, 0)

/-- The value of a sum lane. -/
def sumLane (tc : Nat) (x : Lane) : Val :=
  if x.cnt = 0 then .absent
  else match tc with
    | 0 => decodeElem 0 (x.val.toNat % 2 ^ 32)
    | 1 => finOf false { m := sgn x.val, e := -24 }
    | _ => finOf false { m := sgn x.val }

/-- The bits of a sum lane, clamped for LACC and integers, and flags. -/
def sumBits (tc : Nat) (v : Val) : Word × Nat :=
  match tc with
  | 0 => (BitVec.ofNat 64 (roundVal 0 .rne false false v).1, 0)
  | 1 =>
    match v with
    | .fin _ x => let r := sat48 (x.m * pow2 (x.e + 24)); (wordOfInt r.1, r.2)
    | _ => (0, 0)
  | _ =>
    match v with
    | .fin _ x =>
      let i := x.m * pow2 x.e
      let m : Int := 2 ^ 63 - 1
      let c := max (-m) (min m i)
      (wordOfInt c, if c = i then 0 else fSaturated)
    | _ => (0, 0)

/-- Add a sum and a number of elements to a lane: the lane and flags. -/
def addLane (tc : Nat) (x : Lane) (r : Val) (k : Nat) : Lane × Nat :=
  let z := sumComb tc (sumLane tc x, 0) (r, 0)
  let b := sumBits tc z.1
  let n := satCount (x.cnt + k)
  ({ val := b.1, cnt := n.1 }, z.2 ||| b.2 ||| n.2)

/-- A result delivered in a type (R202). -/
def delivered (t : Nat) (flush : Bool) (v : Val) : Nat × Nat := roundVal t .rne false (flush && decide (t ≤ 2)) v

/-- The enabled, present elements of a vector, none elsewhere. -/
def present (c : VCtx) (t : Nat) (en : List Bool) (l : List Nat) : List (Option Nat) :=
  c.js.map fun j => if onAt en j && !isAbsent t (vAt l j) then some (vAt l j) else none

/-- Accumulator lane L of a step. -/
def laneKey (c : VCtx) (w : Nat) : Nat × Nat := (accNo w, c.i1 % 16)

/-- Write an accumulator lane. -/
def setLane (v : VStep) (k : Nat × Nat) (x : Lane) (fl : Nat) : VStep :=
  { v with vt := { v.vt with acc := tset k x v.vt.acc }, fl := v.fl ||| fl }

/-- The value of a max, min or argmax lane, read under a type. -/
def pickLane (t : Nat) (x : Lane) : Val :=
  let v := x.val.toNat % 2 ^ 32
  if x.cnt = 0 then .absent
  else match typeClass t with
    | 0 => decodeElem 0 v
    | 1 => decodeElem 5 v
    | _ => finOf false { m := if isSigned t then sext 32 v else (v : Int) }

/-- The 32 bits that hold a value in such a lane. -/
def pickBits (t : Nat) (v : Val) : Nat :=
  match typeClass t, v with
  | 0, v => (roundVal 0 .rne false false v).1
  | 1, v => (roundVal 5 .rne false false v).1
  | _, .fin _ x => (x.m * pow2 x.e % 2 ^ 32).toNat
  | _, _ => 0

/-- The greater or lesser of two values: NaN wins, the first one kept on a tie. -/
def pickVal (max : Bool) (a b : Val) : Val :=
  match a, b with
  | .absent, b => b
  | a, .absent => a
  | .nan, _ | _, .nan => .nan
  | a, b => if max then if valBelow a b then b else a else if valBelow b a then b else a

/-- RSUM and RMEAN. -/
def runSum (c : VCtx) (slot : Nat) (v : VStep) : VStep :=
  let w := c.b.word slot
  let t := bwType w
  let en := enabledAt c v slot
  let xs := present c t en (operand c v slot 0)
  let k := xs.countP (·.isSome)
  if k = 0 then deliver c slot en (c.js.map fun _ => absentOf t) v
  else
    let sums := [treeTerms t c.b.flush xs]
    let r := sumTree t c.b.flush xs (errAt v sums 0)
    let v := struck sums v
    let key := laneKey c w
    let x := addLane (typeClass t) (tget {} key v.vt.acc) r.1 k
    let d := delivered t c.b.flush (drainVal (if bwOp w = 0x0C3 then 1 else 0) k r.1)
    deliver c slot en (c.js.map fun _ => d.1) (setLane v key x.1 (r.2 ||| x.2 ||| d.2))

/-- RMAX and RMIN. -/
def runPick (c : VCtx) (slot : Nat) (v : VStep) : VStep :=
  let w := c.b.word slot
  let t := bwType w
  let en := enabledAt c v slot
  let xs := present c t en (operand c v slot 0)
  let k := xs.countP (·.isSome)
  if k = 0 then deliver c slot en (c.js.map fun _ => absentOf t) v
  else
    let mx := decide (bwOp w = 0x0C1)
    let r := (xs.filterMap id).foldl (fun a x => pickVal mx a (decodeElem t (flushIn t c.b.flush x))) .absent
    let key := laneKey c w
    let old := tget {} key v.vt.acc
    let n := satCount (old.cnt + k)
    let x : Lane := { val := BitVec.ofNat 64 (pickBits t (pickVal mx (pickLane t old) r)), cnt := n.1 }
    let d := delivered t c.b.flush r
    deliver c slot en (c.js.map fun _ => d.1) (setLane v key x (n.2 ||| d.2))

/-- RCOUNT. -/
def runCount (c : VCtx) (slot : Nat) (v : VStep) : VStep :=
  let w := c.b.word slot
  let t := bwType w
  let en := enabledAt c v slot
  let k := (present c t en (operand c v slot 0)).countP (·.isSome)
  if k = 0 then deliver c slot en (c.js.map fun _ => absentOf t) v
  else
    let key := laneKey c w
    let old := tget {} key v.vt.acc
    let n := satCount (old.cnt + k)
    let d := delivered t false (.fin false { m := k })
    deliver c slot en (c.js.map fun _ => d.1) (setLane v key { old with cnt := n.1 } (n.2 ||| d.2))

/-- scan of R204 over the elements in position order: outputs, lane, flags. -/
def scanGo (t : Nat) (flush : Bool) : List (Option Nat) → Lane → Nat → List Nat × Lane × Nat
  | [], x, fl => ([], x, fl)
  | none :: l, x, fl =>
    let r := scanGo t flush l x fl
    (absentOf t :: r.1, r.2)
  | some e :: l, x, fl =>
    let a := addLane (typeClass t) x (sumLeaf t flush e) 1
    let d := delivered t flush (sumLane (typeClass t) a.1)
    let r := scanGo t flush l a.1 (fl ||| a.2 ||| d.2)
    (d.1 :: r.1, r.2)

/-- SCAN. -/
def runScan (c : VCtx) (slot : Nat) (v : VStep) : VStep :=
  let w := c.b.word slot
  let t := bwType w
  let en := enabledAt c v slot
  let key := laneKey c w
  let r := scanGo t c.b.flush (present c t en (operand c v slot 0)) (tget {} key v.vt.acc) 0
  deliver c slot en r.1 (setLane v key r.2.1 r.2.2)

/-- z is strictly greater than y (R205): a NaN is greater than every value, and −0 equals +0. -/
def exceeds (z y : Val) : Bool := !isNanV y && (isNanV z || decide (valCmp y z = some (-1)))

/-- The greatest present element and its position: the first of equal ones, and the first NaN. -/
def argBest (t : Nat) (flush : Bool) (xs : List (Option Nat)) : Option (Val × Nat) :=
  (xs.zipIdx).foldl (fun b p => match p.1, b with
    | none, b => b
    | some x, none => some (decodeElem t (flushIn t flush x), p.2)
    | some x, some (y, k) =>
      let z := decodeElem t (flushIn t flush x)
      if exceeds z y then some (z, p.2) else some (y, k)) none

/-- ARGMAX (R205). -/
def runArgmax (c : VCtx) (slot : Nat) (v : VStep) : VStep :=
  let w := c.b.word slot
  let t := bwType w
  let en := enabledAt c v slot
  let xs := present c t en (operand c v slot 0)
  let key := laneKey c w
  let old := tget {} key v.vt.acc
  let show_ := fun (x : Lane) (v : VStep) =>
    deliver c slot en (c.js.map fun _ => if x.cnt = 0 then absentOf t else x.val.toNat / 2 ^ 32) v
  match argBest t c.b.flush xs with
  | none => show_ old v
  | some (z, j) =>
    let lim := if t = 8 then 0x7FFFFFFF else 0xFFFFFFFE
    let i := Nat.min (c.lin j) lim
    let n := satCount (old.cnt + xs.countP (·.isSome))
    let y := pickLane t old
    let better := decide (old.cnt = 0) || exceeds z y
    let x : Lane := { val := if better then BitVec.ofNat 64 (pickBits t z + i * 2 ^ 32) else old.val, cnt := n.1 }
    show_ x (setLane v key x (n.2 ||| if better ∧ c.lin j ≠ i then fSaturated else 0))

/-- AADD (R203). -/
def runAadd (c : VCtx) (slot : Nat) (v : VStep) : VStep :=
  let w := c.b.word slot
  let t := bwType w
  let xs := present c t (enabledAt c v slot) (operand c v slot 0)
  (List.range 16).foldl (fun (v : VStep) m =>
    let ys := (List.range (c.b.n / 16)).map fun q => (xs[q * 16 + m]?).getD none
    let k := ys.countP (·.isSome)
    if k = 0 then v
    else
      let sums := [treeTerms t c.b.flush ys]
      let r := sumTree t c.b.flush ys (errAt v sums 0)
      let v := struck sums v
      let x := addLane (typeClass t) (tget {} (accNo w, m) v.vt.acc) r.1 k
      setLane v (accNo w, m) x.1 (r.2 ||| x.2)) v

/-- ACLR (R203). -/
def runAclr (c : VCtx) (slot : Nat) (v : VStep) : VStep :=
  let en := enabledAt c v slot
  (List.range 16).foldl (fun (v : VStep) m =>
    if onAt en m then { v with vt := { v.vt with acc := tdel (accNo (c.b.word slot), m) v.vt.acc } } else v) v

/-- One drained lane (R52, R206). -/
def drainLane (b : BlockCtx) (w : Nat) (x : Lane) : Nat × Nat :=
  let t := bwType w
  let mode := bits (bwAux w) 3 2
  let val := match accClassOf b.words (accNo w) with
    | some (0, tc) => sumLane tc x
    | some (1, _) | some (2, _) => pickLane t x
    | _ => .absent
  delivered t b.flush (drainVal mode x.cnt val)

/-- ADRAIN. -/
def runDrain (c : VCtx) (slot : Nat) (v : VStep) : VStep :=
  let w := c.b.word slot
  let en := enabledAt c v slot
  let ds := (List.range 16).map fun j => drainLane c.b w (tget {} (accNo w, j) v.vt.acc)
  deliver c slot en (c.js.map fun j => if j < 16 then ((ds[j]?).map (·.1)).getD 0 else absentOf (bwType w))
    { v with fl := (ds.zipIdx).foldl (fun a p => if onAt en p.2 then a ||| p.1.2 else a) v.fl }

/-! ### Lane movement (R207) -/

/-- The positions of the true elements, ascending. -/
def trueAt (sel : List Bool) : List Nat := ((sel.zipIdx).filter (·.1)).map (·.2)

/-- PERM to PACK. -/
def runLane (c : VCtx) (slot : Nat) (v : VStep) : VStep :=
  let w := c.b.word slot
  let op := bwOp w
  let imm := bits (bwAux w) 5 0
  let has := fun p : Nat => (entryPos op).contains p
  let l := operand c v slot 0
  let r := if has 1 then operand c v slot 1 else []
  let sel := if has 2 then condAt c v slot else []
  let n := c.b.n
  let gone := absentOf (bwType w)
  let f := fun j : Nat => match op with
    | 0x0E0 => if vAt r j < n then vAt l (vAt r j) else gone
    | 0x0E1 => vAt l (j ^^^ imm)
    | 0x0E2 => vAt l imm
    | 0x0E3 => vAt l ((j + n - imm) % n)
    | 0x0E4 => match (trueAt sel)[j]? with
      | some k => vAt l k
      | none => gone
    | 0x0E5 => if onAt sel j then vAt l ((sel.take j).countP id) else gone
    | _ => if j < n / 2 then vAt l (2 * j + imm) else vAt r (2 * (j - n / 2) + imm)
  deliver c slot (enabledAt c v slot) (c.js.map f) v

/-! ### Stage registers (R208) -/

/-- The elements of a stage register. -/
def regElems (c : VCtx) (v : VStep) (k : Nat) : List Nat :=
  let x := (tget 0 k v.vt.regs).toNat
  c.js.map fun j => bits x (c.b.w * j + c.b.w - 1) (c.b.w * j)

/-- Write the enabled elements of a register. -/
def putReg (c : VCtx) (en : List Bool) (k : Nat) (x : List Nat) (v : VStep) : VStep :=
  let old := regElems c v k
  let n := c.js.foldl (fun a j => a + (if onAt en j then vAt x j else vAt old j) % 2 ^ c.b.w * 2 ^ (c.b.w * j)) 0
  { v with vt := { v.vt with regs := tset k (BitVec.ofNat 512 n) v.vt.regs } }

/-- VRD, VWR and VMOV with their register numbers; quiet when a later repeat delivers (R209). -/
def runReg (c : VCtx) (slot a b : Nat) (quiet : Bool) (v : VStep) : VStep :=
  let w := c.b.word slot
  let en := enabledAt c v slot
  let send := fun v : VStep => if quiet then v else deliver c slot en (regElems c v a) v
  match bwOp w with
  | 0x108 => send v
  | 0x109 => putReg c en a (operand c v slot 0) v
  | _ => send (putReg c en a (regElems c v b) v)

/-- The REP word before a word, when there is one (R209). -/
def repWord (b : BlockCtx) (slot : Nat) : Option Nat :=
  let pre := if slot = 0 then 0 else b.word (slot - 1)
  if bwOp pre = 0x10B then some (bwAux pre) else none

/-- How often a word executes in a step (R209). -/
def repeats (b : BlockCtx) (slot : Nat) : Nat := ((repWord b slot).map fun a => bits a 5 0 + 1).getD 1

/-- Repeat i of an instruction of form G (R209). -/
def runRegs (c : VCtx) (slot i : Nat) (v : VStep) : VStep :=
  let aux := bwAux (c.b.word slot)
  let steps := fun k : Nat => if (repWord c.b slot).any fun a => bit a k then i else 0
  runReg c slot (bits aux 20 16 + steps 6) (bits aux 15 11 + steps 7) (decide (i + 1 ≠ repeats c.b slot)) v

/-! ### Tile memory (R211, R212) -/

/-- m_index of R211. -/
def mIndex (c : VCtx) (g : Shape) (j : Nat) : Nat :=
  (((c.i3 % Nat.max 1 g.e3) * g.e2 + c.i2 % Nat.max 1 g.e2) * g.e1 + c.i1 % Nat.max 1 g.e1) * g.e0 +
    (c.x0 * c.b.n + j) % Nat.max 1 g.e0

/-- The new element of a TAMO and its flags (R212): a NaN comes first (R49), then an absent operand leaves the element
and an absent element takes the operand, read as flush mode reads it (R57), with bits [7:6] of an l6 result zero (R45). -/
def tamoElem (op t : Nat) (flush : Bool) (old x : Nat) : Nat × Nat :=
  let nan := fun c : Nat => isFloat t && isNanV (decodeElem t c)
  if op = 3 then (x, 0)
  else if nan x || nan old then (canonNan t, 0)
  else if isAbsent t x then (old, 0)
  else if isAbsent t old then (cleanCode t (flushIn t flush x), 0)
  else arithElem (match op with | 0 => 0x020 | 1 => 0x026 | _ => 0x027) t false .rne false flush [old, x]

/-- TLD, TST and TAMO. -/
def runMem (c : VCtx) (slot : Nat) (v : VStep) : VStep :=
  let w := c.b.word slot
  let a := bwAux w
  let op := bwOp w
  let t := bwType w
  let id := boundTile c (bits a 1 0)
  let g := tget {} (bits a 7 4) c.b.shapes
  let en := enabledAt c v slot
  let l := if op = 0x120 then [] else operand c v slot 0
  let r := c.js.foldl (fun (o : List Nat × VStep) j =>
    let i := mIndex c g j
    match if c.pad j || !onAt en j then none else boundElem o.2.s id i with
    | none => (o.1 ++ [absentOf t], o.2)
    | some (old, bad) =>
      let v := o.2
      let v := if op = 0x121 then v else { v with bad := v.bad || bad, s := countBound v.s id [i] }
      let v := match op with
        | 0x121 => { v with s := putBound v.s id i (vAt l j) }
        | 0x122 =>
          let x := tamoElem (bits a 12 9) t c.b.flush old (vAt l j)
          { v with s := putBound v.s id i x.1, fl := v.fl ||| x.2 }
        | _ => v
      (o.1 ++ [old], v)) ([], v)
  if op = 0x121 then r.2 else deliver c slot en r.1 r.2

/-! ### One instruction, one step -/

/-- BRK (R216). -/
def runBrk (c : VCtx) (slot : Nat) (v : VStep) : VStep :=
  let on := getBreak v.s (c.r.key.1, (inputTok c.u 0).lid)
  if on && (enabledAt c v slot).any id && v.brk.isNone then { v with brk := some (bits (bwAux (c.b.word slot)) 15 0) } else v

/-- Run repeat i of one instruction of a step; a word that no REP prefixes has repeat 0 alone. -/
def runWord (c : VCtx) (v : VStep) (p : Nat × Nat) : VStep :=
  let slot := p.1
  let op := bwOp (c.b.word slot)
  match op with
  | 0x001 => v
  | 0x002 => runBrk c slot v
  | 0x008 => runTin c slot v
  | 0x009 => runBin c slot v
  | 0x00A => runTout c slot v
  | 0x00B => runConst c slot v
  | 0x00C | 0x00D => runIds c slot v
  | 0x029 | 0x02A => runCarry c slot v
  | 0x067 | 0x068 => runTest c slot v
  | 0x0C0 | 0x0C3 => runSum c slot v
  | 0x0C1 | 0x0C2 => runPick c slot v
  | 0x0C4 => runCount c slot v
  | 0x0C5 => runScan c slot v
  | 0x0C6 => runArgmax c slot v
  | 0x100 => runAclr c slot v
  | 0x101 => runAadd c slot v
  | 0x102 => runDrain c slot v
  | 0x108 | 0x109 | 0x10A => runRegs c slot p.2 v
  | 0x10B => v
  | 0x120 | 0x121 | 0x122 => runMem c slot v
  | _ =>
    if op ≤ 0x02B then runArith c slot v
    else if op ≤ 0x048 then runRaw c slot v
    else if op ≤ 0x066 then runCmp c slot v
    else if op ≤ 0x085 then runSelect c slot v
    else if op ≤ 0x0A8 then runSpecial c slot v
    else runLane c slot v

/-- The execution order of a step: ascending stage, then ascending slot (R181), each word with its repeats (R209). -/
def stepOrder (b : BlockCtx) : List (Nat × Nat) :=
  (List.range 6).flatMap fun st => ((List.range b.words.length).filter fun k => decide (bwStage (b.word k) = st)).flatMap
    fun k => (List.range (repeats b k)).map fun i => (k, i)

/-- What a step has still to run: all of it, or from the repeat at which it stopped (R210). -/
def stepRest (b : BlockCtx) (word rep : Nat) : List (Nat × Nat) :=
  if rep = 0 then stepOrder b else (stepOrder b).dropWhile (· ≠ (word, rep))

/-- What runs before the stop that a free number asks for: the step may stop between two repeats (R210), nowhere else. -/
def stepPart (rest : List (Nat × Nat)) (k : Nat) : List (Nat × Nat) × Option (Nat × Nat) :=
  match rest[k + 1]? with
  | some p => if p.2 = 0 then (rest, none) else (rest.take (k + 1), some p)
  | none => (rest, none)

/-! ### The activation (R101, R145 to R147) -/

/-- The binding entry of output port p. -/
def portEntry (o : Op) (p : Nat) : Nat := bits (bindingOf o) (32 * p + 31) (32 * p)

/-- The block of an operator with its vector tile's shape table. -/
def blockCtx (s : State) (r : OpRef) : BlockCtx :=
  let b : Block := r.op.block.getD {}
  { hdr := b.header.toNat, words := b.words.map (·.toNat), typ := opType r.op,
    bfmt := (boundTiles r).map fun id => ((tileRecOf r.g id).map (·.fmt)).getD 16,
    shapes := (getVTile s r.op.eng).shapes }

/-- Steps of an activation (R146). -/
def blockSteps (b : BlockCtx) : Nat := cdiv b.shape.e0 b.n * b.shape.e1 * b.shape.e2 * b.shape.e3

/-- The ports that have a destination: a completion port has a zero entry (R215). -/
def destPorts (r : OpRef) : List Nat := (List.range (opNout r.op)).filter fun p => bit (portEntry r.op p) 22

/-- A bound tile read or written by a word whose format differs from the word's type (R190, R217). -/
def boundFault (s : State) (r : OpRef) (b : BlockCtx) : Option (Nat × Nat) :=
  b.words.findSome? fun w =>
    let op := bwOp w
    if op = 0x009 ∨ (0x120 ≤ op ∧ op ≤ 0x122) then
      let t := getTile s (((boundTiles r)[bits (bwAux w) 1 0]?).getD {})
      if t.fmt = bwType w then none else some (0x010B, t.fmt)
    else none

/-- The faults of a VBLOCK activation before step 0 (R142, R190). -/
def vblockFault (s : State) (f : Start) (b : BlockCtx) : Option (Nat × Nat) :=
  (f.toks.findSome? fun t => if t.kind = 1 then formatAt t b.typ true else none).orElse fun _ =>
    (boundFault s f.r b).orElse fun _ => shapeFault s f

/-- A block found illegal blocks its element, and the launch of the activation fails (R101). -/
def blockElement (s : State) (f : Start) (k : Nat) : State :=
  let e := f.r.op.eng
  let b := f.r.op.slot * 128 + k
  let s := modEng s e fun x => { x with blocked := some b }
  failBlocked s ((f.toks.head?).getD {}) e b

/-- VBLOCK_ACTIVATION (R101, R137, R146): the block is validated at its first activation, the window's registers, the
accumulators, the flags and the step index are set to zero, and the activation starts. -/
def execVblockActivation (e : Eng) (s : State) : Out :=
  .next <|
    match starting s e 0x10 with
    | none => s
    | some f =>
      if (getEng s e).blocked.isSome then s
      else
        let b := blockCtx s f.r
        let seen := (tget {} f.q.slot (getEng s e).slots).validated
        match if seen then none else firstIllegal b with
        | some k => blockElement s f k
        | none =>
          let s := modSlot s e f.q.slot fun d => { d with validated := true }
          let outs := (List.range (opNout f.r.op)).map fun p =>
            let t := tileRecOf f.r.g (destTile f.r (portEntry f.r.op p) (tagField f.q.tag (opDepth f.r.op)))
            List.replicate (((t.map fun t => t.rows * t.cols)).getD 0) (none : Option Nat)
          let s' := startRun s f (vblockFault s f b) { steps := blockSteps b, out := outs }
          match (getEng s' e).run with
          | some _ =>
            modVTile s' e fun v =>
              { v with regs := v.regs.filter (fun x => !(decide (b.window.1 ≤ x.1) && decide (x.1 ≤ b.window.2))),
                       acc := [], flags := [], rep := 0 }
          | none => s'

/-- The words of a block that read or write a bound tile (R190, R212). -/
def isBoundWord (w : Nat) : Bool := decide (bwOp w = 0x009) || (decide (0x120 ≤ bwOp w) && decide (bwOp w ≤ 0x122))

/-- The elements of a bound tile that a step's word reaches. -/
def boundElems (c : VCtx) (w : Nat) : List Nat :=
  let g := tget {} (bits (bwAux w) 7 4) c.b.shapes
  (c.js.filter fun j => !c.pad j).map fun j => if bwOp w = 0x009 then c.lin j else mIndex c g j

/-- The chunks of its bound tile that a word of a step reaches. -/
def wordChunks (s : State) (c : VCtx) (w : Nat) : List (TileId × Nat) :=
  let id := boundTile c (bits (bwAux w) 1 0)
  let t := getTile s id
  (((boundElems c w).filter fun i => decide (i < t.rows * t.cols)).map fun i => (id, i * elemBytes t.fmt / 512)).dedup

/-- The chunks of bound tiles that a step reaches. -/
def boundChunks (s : State) (c : VCtx) : List (TileId × Nat) := ((c.b.words.filter isBoundWord).flatMap (wordChunks s c)).dedup

/-- What a word does to a bound tile (R190, R212). -/
def boundAcc (w : Nat) : Acc :=
  match bwOp w with
  | 0x121 => .write
  | 0x122 => .atomic
  | _ => .read

/-- The filters' hold on a bound chunk that a step reaches (R401). -/
def boundGate (s : State) (c : VCtx) : Option State :=
  (c.b.words.filter isBoundWord).findSome? fun w =>
    (wordChunks s c w).findSome? fun x => chunkGate s x.1 x.2 c.u.act.id (inputTok c.u 0).lid (boundAcc w)

/-- The bound chunks of a step that lie in HBM pass in slots of their owners (R296). -/
def boundGrants (s : State) (c : VCtx) : Bool := (boundChunks s c).all fun x => l1Grants s x.1 x.2

/-- The chunks of an input stream that a step needs have been received (R33). -/
def stepInputs (c : VCtx) : Bool :=
  (c.b.words.filter fun w => decide (bwOp w = 0x008)).all fun w =>
    let pos := bits (bwAux w) 1 0
    let t := inputTok c.u pos
    t.kind ≠ 1 || c.js.all fun j =>
      c.pad j || decide (tokRows t * tokCols t ≤ c.lin j) ||
        (burstAt c.u pos (c.lin j * elemBytes c.b.typ / 512)).isSome

/-- The bound tiles that a block's words read or write, through port 5 (R298). -/
def portTiles (c : VCtx) : List TileId :=
  (c.b.words.filter isBoundWord).map fun w =>
    boundTile c (bits (bwAux w) 1 0)

/-- The copy entries that overlap the port-5 accesses of a step and are present on their arrival hold the step back
(R301); `arrived` is the next name at that arrival. -/
def portHeld (s : State) (c : VCtx) : Bool :=
  s.ranges.any fun x => x.copy && ((x.tile.map fun id => (portTiles c).contains id).getD false) &&
    ((c.u.arrived.map fun a => decide (x.id < a)).getD true)

/-- The context of the next step. -/
def stepCtx (s : State) (r : OpRef) (u : Run) : VCtx :=
  let b := blockCtx s r
  let g := b.shape
  let nx := Nat.max 1 (cdiv g.e0 b.n)
  let q := u.step / nx
  { b := b, r := r, u := u, bound := boundTiles r, x0 := u.step % nx, i1 := q % Nat.max 1 g.e1,
    i2 := q / Nat.max 1 g.e1 % Nat.max 1 g.e2, i3 := q / Nat.max 1 g.e1 / Nat.max 1 g.e2 }

/-- A break taken at the end of a step: the page set freezes and the trap names code and step (R216). -/
def takeBreak (s : State) (r : OpRef) (u : Run) (code : Nat) : State :=
  let t := inputTok u 0
  raiseAt (modGraph s r.key fun g => { g with freezing := true }) (opCoord r.op) r.g.part t.lid 0x020A
    (code + u.step % 2 ^ 32 * 2 ^ 16) t.tag

/-- The state that a step, or what is left of it, starts from. -/
def stepStart (s : State) (e : Eng) (u : Run) : VStep :=
  { s := s, vt := getVTile s e, out := u.out, box := u.box, brk := u.brk, err := (getEng s e).arithErr }

/-- The part of a step that has run is kept: its vector tile, flags, outputs and deliveries. -/
def keepStep (e : Eng) (r : OpRef) (u : Run) (v : VStep) : State :=
  let s := setFlags (setVTile v.s e v.vt) e r.op.slot v.fl
  modEng s e fun x => { x with arithErr := v.err, run := some { u with loop := u.loop ++ v.loop, out := v.out, arrived := none } }

/-- A step ends: its deliveries lapse, the next one follows; a break is taken (R216). -/
def endStep (s : State) (e : Eng) (r : OpRef) (u : Run) (brk : Option Nat) : State :=
  let s := modVTile s e fun v => { v with rep := 0 }
  let s := modRun s e fun u =>
    { u with step := u.step + 1, loop := u.loop.filter (fun l => decide (u.step < l.step)), word := 0, box := [], brk := none }
  match brk with
  | some k => takeBreak s r u k
  | none => s

/-- A step stops between two repeats: it goes on with `p` (R210). -/
def stopStep (s : State) (e : Eng) (p : Nat × Nat) (v : VStep) : State :=
  modRun (modVTile s e fun t => { t with rep := p.2 }) e fun u => { u with word := p.1, box := v.box, brk := v.brk }

/-- The counts of the reads of a step that ends its activation (R385). -/
def readCounts (s t : State) : State := { s with bankModes := t.bankModes }

/-- VBLOCK_STEP (R181): one step of the activation on e, once the input chunks it needs have been received and the owners
of the HBM chunks it reaches grant their slots (R296). A free choice
stops it between two repeats, where FREEZE may meet it (R210). A mod-3 mismatch or an uncorrectable read of a bound tile
ends the activation (R381, R388). -/
def execVblockStep (e : Eng) (s : State) : Out :=
  .next <|
    match runningAct s e 0x10 with
    | none => s
    | some (r, u) =>
      let c := stepCtx s r u
      if u.phase ≠ 0 ∨ u.steps ≤ u.step ∨ !stepInputs c ∨ !boundGrants s c then s
      else if portHeld s c then
        modRun s e fun u => { u with arrived := some (u.arrived.getD s.nextId) }
      else match boundGate s c with
      | some v => v
      | none =>
        let v0 := stepStart s e u
        let (i, s0) := fresh (watchPassed s u.act.id ((boundChunks s c).flatMap fun x => chunkSectors (getTile s x.1) x.2))
        let p := stepPart (stepRest c.b u.word v0.vt.rep) (Config.freeNat i)
        let v := p.1.foldl (runWord c) { v0 with s := s0 }
        if (v.bad3 || v.bad) && !faultRoom s e u.toks.length then s
        else if v.bad3 then silent3 (readCounts s v.s) e r u
        else if v.bad then poisonConsumed (abortRun (readCounts s v.s) e u) r u.act.vrow u.toks
        else match p.2 with
          | some q => stopStep (keepStep e r u v) e q v
          | none => endStep (keepStep e r u v) e r u v.brk

/-- The image of output port p: unwritten elements hold the absent code (R147). -/
def outImage (u : Run) (typ p : Nat) : List Byte :=
  ((u.out[p]?).getD []).flatMap fun x => leBytes (elemBytes typ) (x.getD (absentOf typ))

/-- VBLOCK_COMPLETE (R141, R147, R215): after the last step the inputs are checked and the destinations written; once
they are FULL each port emits its token, the completion port a signal beside the token of a tile that is bound to it (log 136). A chunk that a destination refuses is a tile-state
fault (R32). -/
def execVblockComplete (e : Eng) (s : State) : Out :=
  .next <|
    match runningAct s e 0x10 with
    | none => s
    | some (r, u) =>
      let ps := destPorts r
      if u.step < u.steps then s
      else if u.phase = 0 then
        if !allReceived u then s
        else checked s e r u fun s =>
          let t := baseTok u
          let imgs := ps.map fun p => outImage u (opType r.op) p
          match u.dests.findSome? fun id => (imageRefused s id).map fun c => stateTval id c with
          | some v => faultRun s e r u 0x0109 v
          | none =>
          let s := (u.dests.zip imgs).foldl (fun s d =>
            beginImage s d.1 4 t.lid (opCoord r.op) t.tag d.2 (plainAreas s d.1)) s
          modRun s e fun u => { u with phase := 1, loop := [], resid := imgs.map residueOf }
      else if !u.dests.all (tileFull s) then s
      else
        let toks := ((ps.zip u.dests).zip u.resid).flatMap fun d => toPort r d.1.1 (tileTok s u d.1.2 0 d.2)
        let fin := if hasCompletion (blockCtx s r) then toPort r (opNout r.op - 1) (signalTok u) else []
        endRun s e r u (toks ++ fin)

end Sys2Proof.Machine
end

