-- ==== Sys2Proof/Machine/Transfer.lean ====
section
/-!
DEFINITION. Machine/Transfer.lean: HLOAD, HSTORE, COPY and copy packets, and barrier updates (spec/07 R161 to R172,
spec/11 R250, R251, spec/01 R36, R37).
-/
namespace Sys2Proof.Machine

/-! ### Barriers (R37) -/

/-- The flip test after an update. -/
def barFlip (b : Barrier) : Barrier :=
  if b.armed ∧ b.arrived = b.expect ∧ b.pend = 0 then { b with phase := !b.phase, arrived := 0, pend := b.abytes } else b

/-- An arrival. -/
def barArrive (b : Barrier) : Barrier :=
  if !b.armed ∨ b.arrived = b.expect then { b with excess := true } else barFlip { b with arrived := b.arrived + 1 }

/-- A decrement of n bytes. -/
def barDec (n : Nat) (b : Barrier) : Barrier :=
  if !b.armed then { b with excess := true }
  else if b.pend < n then barFlip { b with pend := 0, excess := true }
  else barFlip { b with pend := b.pend - n }

/-- A re-arm. -/
def barArm (abytes expect : Nat) (b : Barrier) : Barrier :=
  barFlip { b with armed := true, arrived := 0, pend := abytes, abytes := abytes, expect := expect, excess := false }

/-! ### Patterns (R162, R164) -/

/-- The index of a pattern: none, frame or scalar; none for a scalar above 2^32 - 1. -/
def patIndex (c f scalar : Nat) : Option Nat :=
  match bits c 157 156 with
  | 0 => some 0
  | 1 => some f
  | _ => if scalar < 2 ^ 32 then some scalar else none

/-- pattern_addr(0, 0, i). -/
def patBase (c i : Nat) : Int := (bits c 83 32 : Nat) + ((bits c 155 140 + i : Nat) : Int) * sext 32 (bits c 115 84)

/-- The chunk-image layout. -/
def patBs (c : Nat) : Bool := bit c 158

/-- A fault of a pattern or its translation: cause and cc_tval. -/
abbrev XErr := Nat × Nat

/-- A run of bytes from an exact address: its alignment, then its range (R164). -/
def patRun (e : Nat) (a : Int) (len : Nat) : Except XErr (Nat × Nat) :=
  if a % (e : Int) ≠ 0 then .error (0x010E, (a % 2 ^ 64).toNat)
  else if a < 0 then .error (0x010F, (a % 2 ^ 64).toNat)
  else if 2 ^ 52 < a.toNat + len then .error (0x010F, Nat.max a.toNat (2 ^ 52))
  else .ok (a.toNat, len)

/-- The runs of the rows of a plain layout, in image order. -/
def patRows (e : Nat) (base stride : Int) (rbytes : Nat) : List Nat → Except XErr (List (Nat × Nat))
  | [] => .ok []
  | r :: rs =>
    match patRun e (base + stride * (r : Int)) rbytes with
    | .error x => .error x
    | .ok p => match patRows e base stride rbytes rs with
      | .error x => .error x
      | .ok ps => .ok (p :: ps)

/-- The cause of a translation fault of an engine (R180); 0 for a miss, which waits. -/
def xferCause : XFault → Nat
  | .miss => 0
  | .notPresent => 0x0111
  | .permission => 0x0110
  | .illegal => 0x010F

/-- Translate runs into pieces inside one page. -/
def translateRuns (s : State) (e : Eng) (part : Nat) (ag : Agent) (acc : Acc) :
    List (Nat × Nat) → Except XErr (List Piece)
  | [] => .ok []
  | (va, n) :: ps =>
    match translate s e part ag acc va with
    | .fault f => .error (xferCause f, va)
    | t =>
      match translateRuns s e part ag acc ps with
      | .error x => .error x
      | .ok r => match t with
        | .hbm g => .ok ({ addr := g, len := n, va := va } :: r)
        | .host a => .ok ({ host := true, addr := a, len := n, va := va } :: r)
        | .fault _ => .ok r

/-- The pieces of virtual runs. -/
def runsToPieces (s : State) (e : Eng) (part : Nat) (ag : Agent) (acc : Acc) (rs : List (Nat × Nat)) :
    Except XErr (List Piece) :=
  translateRuns s e part ag acc (rs.flatMap fun r => pagePieces r.1 r.2)

/-- The bytes of translated pieces as memory holds them. -/
def peekPieces (s : State) (ps : List Piece) : List Byte :=
  ps.flatMap fun p => memRead (if p.host then s.hostMem else s.hbm) p.addr p.len

/-- Header words of a chunk, given its first word, in mode 1: one for each block (R63). -/
def wordsIn (w0 : Nat) : Nat :=
  let l := bits w0 11 8
  if 3 ≤ l ∧ l ≤ 7 then 512 / 2 ^ l else 1

/-- Header words can be read before a transfer starts, in slots of its partition, once what the scoreboard holds them for has
left: a copy for an HLOAD, an access for a COPY (R167, R301; log 21). -/
def headerReady (s : State) (part : Nat) (copy : Bool) (p : Piece) : Bool :=
  p.host || (slotGrants s (ownerOf p.addr) part && s.ranges.all fun x =>
    decide (x.copy = copy) || x.tile.isSome || decide (x.owner ≠ ownerOf p.addr) || !sectorsMeet x.lo x.hi p.addr p.len)

/-- Header words of each chunk of a chunk image in memory: for a scaled format mode 1, read from the words themselves
(log 21). -/
def imageWords (s : State) (e : Eng) (part fmt : Nat) (ag : Agent) : Nat → Int → Except XErr (List Nat)
  | 0, _ => .ok []
  | n + 1, a =>
    if !isScaled fmt then
      match imageWords s e part fmt ag n a with
      | .ok l => .ok (1 :: l)
      | x => x
    else match patRun 8 a 8 with
      | .error x => .error x
      | .ok r => match runsToPieces s e part ag .read [r] with
        | .error x => .error x
        | .ok ps =>
          let k := wordsIn (leNat (peekPieces s ps))
          match imageWords s e part fmt ag n (a + 512 + 8 * (k : Int)) with
          | .ok l => .ok (k :: l)
          | x => x

/-- The first header words of the chunks of an image at an address can all be read. -/
def headersReady (s : State) (e : Eng) (part fmt : Nat) (ag : Agent) (copy : Bool) : Nat → Int → Bool
  | 0, _ => true
  | n + 1, a =>
    if !isScaled fmt then true
    else match patRun 8 a 8 with
      | .error _ => true
      | .ok r => match runsToPieces s e part ag .read [r] with
        | .error _ => true
        | .ok ps => ps.all (headerReady s part copy) &&
            headersReady s e part fmt ag copy n (a + 512 + 8 * (wordsIn (leNat (peekPieces s ps)) : Int))

/-- Where chunk c begins in a chunk image. -/
def imageOff (words : List Nat) (c : Nat) : Nat := lsum ((words.take c).map fun k => 512 + 8 * k)

/-- Bytes of a chunk image. -/
def imageLen (words : List Nat) : Nat := imageOff words words.length

/-- A chunk of a chunk image taken apart: its header words and its 512 data bytes (R62, R63). -/
def splitBurst (k : Nat) (bs : List Byte) : List (BitVec 64) × List Byte :=
  let b := 512 / Nat.max 1 k
  let at_ := fun j : Nat => j * (8 + b)
  ((List.range k).map fun j => BitVec.ofNat 64 (field bs (at_ j) 8),
   (List.range k).flatMap fun j => (bs.drop (at_ j + 8)).take b)

/-- The bytes of a chunk burst: its header words and padded data in burst order. -/
def joinBurst (fmt : Nat) (ws : List (BitVec 64)) (data : List Byte) : List Byte :=
  let d := padChunk fmt data
  let b := 512 / Nat.max 1 ws.length
  (ws.zipIdx).flatMap fun w => leBytes 8 w.1.toNat ++ (d.drop (w.2 * b)).take b

/-! ### Ranges (R300, R301) -/

/-- Every owner has room for new entries: 256 at an HBM port engine, 64 at a memory tile (R300). -/
def rangeRoom (s : State) (new : List RangeEnt) : Bool :=
  new.all fun x => decide ((s.ranges ++ new).countP (fun y => decide (y.owner = x.owner)) ≤ if x.tile.isSome then 64 else 256)

/-- The range entries of pieces: one each, or, of more than the 256 that an owner has, one from the first byte there to the
last (log 143). -/
def rangesOf (copy : Bool) (lid : Nat) (e : Eng) (st : Stamp) (id : Nat) (ps : List Piece) : List RangeEnt :=
  let ps := ps.filter (!·.host)
  let ent := fun (o : Eng) (lo hi : Nat) =>
    ({ copy := copy, owner := o, lo := lo, hi := hi, lid := lid, eng := e, stamp := st, id := id } : RangeEnt)
  (ps.map fun p => ownerOf p.addr).dedup.flatMap fun o =>
    let mine := ps.filter fun p => decide (ownerOf p.addr = o)
    if mine.length ≤ 256 then mine.map fun p => ent o p.addr (p.addr + p.len)
    else [ent o (mine.foldl (fun m p => Nat.min m p.addr) (2 ^ 64)) (mine.foldl (fun m p => Nat.max m (p.addr + p.len)) 0)]

/-- The entries of a copy or access leave. -/
def dropRanges (s : State) (st : Stamp) : State := { s with ranges := s.ranges.filter fun x => decide (x.stamp ≠ st) }

/-! ### Starting a transfer -/

/-- The activations of engine e's unit before place n whose sets run. -/
def unitBefore (s : State) (e : Eng) (n : Nat) : List Act :=
  ((getEng s e).unit.take n).filter fun a => ((findOp s e a.slot).map fun r => running r.g).getD false

/-- The activation at place n of a unit may act (R434): in a strait engine's unit it has an entry, by selection order, and
no activation of its operator was selected before it; the copy engine takes its operator queue in order (R171). -/
def unitTurn (s : State) (e : Eng) (n slot : Nat) : Bool :=
  let before := unitBefore s e n
  if e.elem = 25 then
    decide ((s.xunits.filter fun u => decide (u.eng = e)).length + before.length < 64) && before.all fun a => a.slot ≠ slot
  else if e = copyEng e.pkg e.die then before.isEmpty else true

/-- The activation at place n of engine e's transfer unit, when it is of a kind, its set runs and it may act. -/
def xferAt (s : State) (e : Eng) (n kind : Nat) : Option Start :=
  let x := getEng s e
  match x.unit[n]? with
  | none => none
  | some a =>
    match findOp s e a.slot, findRow x a.slot a.vrow with
    | some r, some q =>
      if opKind r.op = kind ∧ running r.g ∧ unitTurn s e n a.slot then
        (consumes r.op q).map fun ts => { r := r, act := a, q := q, toks := ts }
      else none
    | _, _ => none

/-- An activation that faults before it starts (R142, R180). A page not present holds it for its trap's ERET; one whose
translation misses waits for the walk (R352). -/
def failStart (s : State) (f : Start) (x : XErr) : State :=
  let e := f.r.op.eng
  let walked := dropWalk s e f.r.g.part x.2
  if x.1 = 0 then noteMiss s e f.r.g.part x.2 f.q.tag f.q.slot f.q.lid
  else if x.1 = 0x0111 then
    raiseAt (touch (modEng walked e fun y => { y with unit := y.unit.erase f.act }) e.pkg f.q.lid) (opCoord f.r.op) f.r.g.part f.q.lid x.1 x.2 f.q.tag
      (.xlate e f.act)
  else if !faultRoom s e f.toks.length then s
  else
    opFault (freeDests (takeStart walked f) f.act.dests) f.r f.q.vrow f.toks x.1 x.2

/-- Poison keeps an activation from starting (R170). -/
def poisonStart (s : State) (f : Start) : State :=
  if !faultRoom s f.r.op.eng f.toks.length then s
  else poisonConsumed (freeDests (takeStart s f) f.act.dests) f.r f.q.vrow f.toks

/-- A mismatched scalar (R378, R382). -/
def badStart (s : State) (f : Start) (x : Nat × Nat) : State :=
  if !faultRoom s f.r.op.eng f.toks.length then s
  else silentData (freeDests (takeStart s f) f.act.dests) f.r f.q.vrow f.toks x.1 x.2

/-- The mismatch of an index scalar. -/
def scalarBad (s : State) (f : Start) : Option (Nat × Nat) :=
  (f.toks.filter (·.kind = 2)).findSome? fun t => mismatch s t []

/-- A transfer starts: counted, its row cleared. -/
def beginXfer (s : State) (f : Start) : State :=
  touch (countFiring (takeStart s f) f.r f.q.tag f.q.lid (waitOf f.r.op f.q)) f.r.key.1 f.q.lid

/-- The frame index of an activation. -/
def frameOf (f : Start) : Nat := tagField f.q.tag (opDepth f.r.op)

/-- Sectors of pieces: each sector's part of a piece with the offset of its bytes in the image. -/
def sectorParts (ps : List Piece) : List (Nat × Piece) :=
  (ps.foldl (fun (o : Nat × List (Nat × Piece)) p =>
    let n := (p.addr + p.len - 1) / 64 - p.addr / 64 + 1
    (o.1 + p.len, o.2 ++ (List.range n).map fun k =>
      let lo := Nat.max p.addr ((p.addr / 64 + k) * 64)
      let hi := Nat.min (p.addr + p.len) ((p.addr / 64 + k + 1) * 64)
      (o.1 + (lo - p.addr), { p with addr := lo, len := hi - lo, va := p.va + (lo - p.addr) }))) (0, [])).2

/-- A part of a piece lies in a sector. -/
def inSector (q p : Piece) : Bool := decide (p.host = q.host) && decide (p.addr / 64 = q.addr / 64)

/-- The whole sectors that pieces touch, in order of first touch, each once; va is that of the first byte touched. -/
def sectorReads (ps : List Piece) : List Piece :=
  (sectorParts ps).foldl (fun o p =>
    if o.any (inSector p.2) then o else o ++ [{ p.2 with addr := p.2.addr / 64 * 64, len := 64 }]) []

/-- The request that reads a sector or writes bytes of one, by a stamped transfer. -/
def sectorReq (p : Piece) (op : ReqOp) (part lid : Nat) (f : ReqFrom) (st : Option Stamp) : Req :=
  { mkReq 0 (if p.host then .host p.addr else .hbm p.addr) op p.len p.va part lid f with stamp := st }

/-- The bytes of a part of a piece in the answer of its sector. -/
def partBytes (qs : List Req) (p : Piece) : List Byte :=
  match qs.find? fun q => inSector { host := q.host, addr := q.pa } p with
  | some q => (q.data.drop (p.addr - q.pa)).take p.len
  | none => []

/-- Issue a transfer's requests. -/
def issueAll (s : State) (e : Eng) (rs : List Req) : State :=
  rs.foldl (fun s r => let (i, s) := fresh s; issueReq s e.pkg e.die { r with id := i }) s

/-! ### HLOAD (R165, R168) -/

/-- The runs of a load or store: rows of the plain layout, or the chunk image with its words. -/
def xferRuns (s : State) (e : Eng) (part c i rows cols fmt : Nat) (ag : Agent) (words : Option (List Nat)) :
    Except XErr (List (Nat × Nat) × List Nat) :=
  let n := elemBytes fmt
  if !patBs c then
    match patRows n (patBase c i) (bits c 139 116) (cols * n) (List.range rows) with
    | .error x => .error x
    | .ok rs => .ok (rs, [])
  else
    let ws : Except XErr (List Nat) := match words with
      | some w => .ok w
      | none => imageWords s e part fmt ag (cdiv (rows * cols * n) 512) (patBase c i)
    match ws with
    | .error x => .error x
    | .ok w => match patRun 8 (patBase c i) (imageLen w) with
      | .error x => .error x
      | .ok r => .ok ([r], w)

/-- HLOAD (R165): the activation at place n of e's transfer unit translates its pattern, enters its ranges and issues
its sector reads. -/
def execHload (e : Eng) (n : Nat) (s : State) : Out :=
  .next <|
    match xferAt s e n 0x18 with
    | none => s
    | some f =>
      if f.toks.any (·.poison) then poisonStart s f
      else match scalarBad s f with
        | some x => badStart s f x
        | none =>
          let c := opCfg f.r.op 0
          match patIndex c (frameOf f) (tokScalar (f.q.l.getD {})), f.act.dests with
          | some i, id :: _ =>
            let t := getTile s id
            if patBs c ∧ !headersReady s e f.r.g.part t.fmt .op false (tileChunks t) (patBase c i) then s
            else match xferRuns s e f.r.g.part c i t.rows t.cols t.fmt .op none with
            | .error x => failStart s f x
            | .ok (rs, ws) => match runsToPieces s e f.r.g.part .op .read rs with
              | .error x => failStart s f x
              | .ok ps =>
                let (st, s') := newStamp s e
                let (x, s') := fresh s'
                let rg := rangesOf false f.q.lid e st x ps
                if !rangeRoom s rg then s
                else
                  let reqs := (sectorReads ps).map fun p => sectorReq p .read f.r.g.part f.q.lid (.hload e x 0) (some st)
                  let s := { s' with
                    ranges := s'.ranges ++ rg
                    xfers := s'.xfers ++ [{ id := x, eng := e, slot := f.q.slot, vrow := f.q.vrow, lid := f.q.lid,
                                            tok := (f.toks.head?).getD {}, tok2 := f.toks[1]?, dest := some id, pieces := ps,
                                            left := reqs.length, words := ws }] }
                  issueAll (beginXfer s f) e reqs
          | _, _ => failStart s f (0x010C, 0)

/-- Change a transfer. -/
def modXfer (s : State) (x : Nat) (f : Xfer → Xfer) : State :=
  { s with xfers := s.xfers.map fun y => if y.id = x then f y else y }

/-- The tokens of a transfer. -/
def xferToks (x : Xfer) : List Token := x.tok :: x.tok2.toList

/-- The stamp of a transfer's ranges leaves with it. -/
def dropXfer (s : State) (x : Xfer) : State :=
  { s with xfers := s.xfers.filter (fun y => decide (y.id ≠ x.id)), ranges := s.ranges.filter fun r => decide (r.id ≠ x.id) }

/-- The bytes of an image from offset o, as far as they have returned. -/
def gotBytes (x : Xfer) (o n : Nat) : List Byte :=
  (List.range n).map fun k =>
    ((x.got.find? fun g => decide (g.1 ≤ o + k) && decide (o + k < g.1 + g.2.length)).map fun g =>
      ((g.2[o + k - g.1]?).getD 0)).getD 0

/-- The bytes of an image that have returned between o and o + n. -/
def gotAll (x : Xfer) (o n : Nat) : Bool :=
  (List.range n).all fun k => x.got.any fun g => decide (g.1 ≤ o + k) && decide (o + k < g.1 + g.2.length)

/-- Offset and length of chunk c in the image that is read. -/
def xferChunk (x : Xfer) (t : Tile) (c : Nat) : Nat × Nat :=
  if x.words.isEmpty then (512 * c, Nat.min 512 (tileBytes t - 512 * c))
  else (imageOff x.words c, 512 + 8 * (x.words[c]?).getD 1)

/-- The chunk of an image offset. -/
def chunkOfOff (x : Xfer) (t : Tile) (o : Nat) : Nat :=
  ((List.range (tileChunks t)).find? fun c => decide (o < (xferChunk x t c).1 + (xferChunk x t c).2)).getD 0

/-- Data bytes and header words of chunk c of a load: absent codes where a sector of it was uncorrectable (R168). -/
def loadChunk (x : Xfer) (t : Tile) (c : Nat) : List Byte × List (BitVec 64) :=
  let n := Nat.min 512 (tileBytes t - 512 * c)
  if x.spoilt.contains c then (absentBytes t.fmt (n / elemBytes t.fmt), plainWords t c)
  else
    let p := xferChunk x t c
    let bs := gotBytes x p.1 p.2
    if x.words.isEmpty then (bs, plainWords t c)
    else
      let b := splitBurst ((x.words[c]?).getD 1) bs
      (b.2.take n, if isScaled t.fmt then b.1 else plainWords t c)

/-- The mode of a loaded tile. -/
def loadMode (x : Xfer) (t : Tile) : Nat := b2n (!x.words.isEmpty && isScaled t.fmt)

/-- Begin the write of a chunk whose bytes are all in. -/
def loadBegin (s : State) (r : OpRef) (x : Xfer) (id : TileId) (c : Nat) : State :=
  let t := getTile s id
  let b := loadChunk x t c
  beginChunk s id c 4 x.lid (opCoord r.op) x.tok.tag b.1 (if isScaled t.fmt then scaleArea b.2 else [])

/-- The completion token of a load leaves once every read has returned its data (R165). Its increments and those of the
tile token belong to one firing. -/
def loadDone (s : State) (r : OpRef) (x : Xfer) : State :=
  let done : Token := { x.tok with kind := 3, opw := 0, residue := 0, poison := x.poison }
  if x.ctok then s
  else
    emitToks (modXfer s x.id fun y => { y with ctok := true }) r x.id x.tok.tag
      (if opCtok r.op then toPort r (opNout r.op - 1) done else [])

/-- A transfer stops at a fault: its destination returns to FREE and its tokens are set aside (R142, R168). Its entries
stay until its last request has been acknowledged. The activations that wait are evaluated again (R26). -/
def failXfer (s : State) (r : OpRef) (x : Xfer) (cause tval : Nat) : State :=
  let s := match x.dest with
    | some id => reevalAll (freeTile s id)
    | none => s
  modXfer (opFault s r x.vrow (xferToks x) cause tval) x.id fun y => { y with failed := true, dest := none }

/-- The end of a load: its tile token leaves, then its tokens are consumed. -/
def finishLoad (s : State) (r : OpRef) (x : Xfer) (id : TileId) : State :=
  let t := getTile s id
  let img := (List.range (tileChunks t)).flatMap fun c => (loadChunk x t c).1
  let tile : Token := { x.tok with kind := 1, poison := x.poison, residue := residueOf img,
                                   opw := tileOpw id t.rows t.cols t.fmt (loadMode x t) }
  let out := toPort r 0 tile
  if !refsRoom s out then s
  else
    consumeToks (emitToks (dropXfer s x) r x.id x.tok.tag out) r x.id true (xferToks x)

/-- A failed transfer leaves with its last answer. -/
def dropFailed (s : State) (x : Xfer) : State :=
  if x.left ≤ 1 then dropXfer s x else modXfer s x.id fun y => { y with left := y.left - 1 }

/-- The chunks of an image that bytes o to o + n - 1 touch. -/
def chunksAt (x : Xfer) (t : Tile) (o n : Nat) : List Nat :=
  (List.range (tileChunks t)).filter fun c =>
    decide (o < (xferChunk x t c).1 + (xferChunk x t c).2) && decide ((xferChunk x t c).1 < o + n)

/-- A returned sector's bytes join a load; an uncorrectable one spoils every chunk that it touches (R168). -/
def gotSector (x : Xfer) (t : Tile) (q : Req) : Xfer :=
  let ps := (sectorParts x.pieces).filter fun p => inSector { host := q.host, addr := q.pa } p.2
  { x with
    got := x.got ++ ps.map fun p => (p.1, (q.data.drop (p.2.addr - q.pa)).take p.2.len)
    left := x.left - 1
    poison := x.poison || q.bad
    spoilt := (if q.bad then ps.flatMap fun p => chunksAt x t p.1 p.2.len else []) ++ x.spoilt }

/-- The chunks of a load whose bytes are all in and whose writes have not begun. -/
def loadReady (x : Xfer) (t : Tile) : List Nat :=
  (List.range (tileChunks t)).filter fun c => !x.begun.contains c && gotAll x (xferChunk x t c).1 (xferChunk x t c).2

/-- One returned sector of a load. A chunk that the destination refuses is a tile-state fault (R32). -/
def sectorBack (s : State) (r : OpRef) (x : Xfer) (q : Req) : State :=
  let s0 := s
  let s := dropReq s q.id
  let room := faultRoom s r.op.eng (xferToks x).length
  if x.failed then dropFailed s x
  else if q.denied ∨ (q.bad ∧ !opDfm r.op) then
    if !room then s0
    else dropFailed (failXfer s r x (if q.denied then 0x0110 else 0x0112) (if q.denied then q.va else q.va / 64 * 64)) x
  else match x.dest with
    | none => s
    | some id =>
      let t := getTile s id
      let y := gotSector x t q
      let go := loadReady y t
      match go.find? (chunkRefused t) with
      | some c => if !room then s0 else dropFailed (failXfer s r x 0x0109 (stateTval id c)) x
      | none =>
        let s := if q.bad then logError s r.op.eng { tag := x.tok.tag, slot := r.op.slot, sector := q.va / 64, lid := x.lid,
                                                     part := r.g.part } else s
        let s := go.foldl (fun s k => loadBegin s r y id k) s
        let y := { y with begun := y.begun ++ go }
        let s := modXfer s x.id fun _ => y
        if y.left = 0 then loadDone s r y else s

/-- HLOAD_SECTOR_RETURN (R165, R168): the answer of sector request n of e returns, or transfer n, all of whose sectors
have returned and whose tile is FULL, emits. -/
def execHloadSectorReturn (e : Eng) (n : Nat) (s : State) : Out :=
  .next <|
    match s.reqs.find? (fun q => decide (q.id = n) && decide (q.st = .done)) with
    | some q =>
      match q.from_ with
      | .hload e' x _ =>
        match s.xfers.find? (fun y => decide (y.id = x)), findOp s e' ((s.xfers.find? fun y => decide (y.id = x)).map
            (·.slot) |>.getD 64) with
        | some y, some r => if e' = e then sectorBack s r y q else s
        | _, _ => if e' = e then dropReq s q.id else s
      | _ => s
    | none =>
      match s.xfers.find? fun y => decide (y.id = n) && decide (y.eng = e) && !y.store && decide (y.left = 0) with
      | none => s
      | some x =>
        match findOp s e x.slot, x.dest with
        | some r, some id => if tileFull s id then finishLoad s r x id else s
        | _, _ => s

/-! ### HSTORE (R166, R170) -/

/-- The byte that a list of written pieces leaves at an address: the last piece that covers it. -/
def lastByte (ws : List (Nat × List Byte)) (a : Nat) : Option Byte :=
  ws.foldl (fun o w => if w.1 ≤ a ∧ a < w.1 + w.2.length then w.2[a - w.1]? else o) none

/-- Runs of bytes written inside a sector, of the addresses that count: start and bytes. -/
def sectorRuns (counts : Nat → Bool) (ws : List (Nat × List Byte)) (sec : Nat) : List (Nat × List Byte) :=
  ((List.range 64).foldl (fun (o : List (Nat × List Byte)) k =>
    let a := sec * 64 + k
    match if counts a then lastByte ws a else none with
    | none => o
    | some b => match o with
      | (x, bs) :: l => if x + bs.length = a then (x, bs ++ [b]) :: l else (a, [b]) :: o
      | [] => [(a, [b])]) []).reverse

/-- The sectors that pieces touch, in order of first touch. -/
def sectorsOf (ps : List Piece) : List Nat :=
  (ps.flatMap fun p => (List.range ((p.addr + p.len - 1) / 64 - p.addr / 64 + 1)).map (· + p.addr / 64)).dedup

/-- Pair pieces with their bytes of an image. -/
def withBytes : List Piece → List Byte → List (Nat × List Byte)
  | [], _ => []
  | p :: ps, bs => (p.addr, bs.take p.len) :: withBytes ps (bs.drop p.len)

/-- The part of an end's pieces that holds bytes o to o + n - 1. -/
def slicePieces : List Piece → Nat → Nat → List Piece
  | [], _, _ => []
  | p :: ps, o, n =>
    if n = 0 then []
    else if p.len ≤ o then slicePieces ps (o - p.len) n
    else
      let k := Nat.min n (p.len - o)
      { p with addr := p.addr + o, len := k, va := p.va + o } :: slicePieces ps 0 (n - k)

/-- The bursts of a tile token's chunks. -/
def tokBursts (s : State) (t : Token) : List (Burst × Bool) :=
  (List.range (tokChunks t)).map fun c => burstOf s (tokTile t) (tokMode t) 0 c

/-- The counts of a read of every chunk of a tile token's tile (R385). -/
def countTok (s : State) (t : Token) : State :=
  (List.range (tokChunks t)).foldl (fun s c => countBurst s (tokTile t) c) s

/-- Every chunk of a tile token's tile can be read. -/
def tokReadable (s : State) (t : Token) : Bool := (List.range (tokChunks t)).all (chunkReadable s t)

/-- The header words of each chunk of a tile token's tile: one in mode 0, what its scale areas hold in mode 1. -/
def tokWords (s : State) (t : Token) : List Nat :=
  if tokMode t = 1 then (tokBursts s t).map fun b => b.1.words.length else List.replicate (tokChunks t) 1

/-- An HSTORE starts (R166): it translates its pattern and enters its ranges. A graph may give it index=scalar and no right
position (R161); no rule gives the index then, and the model reads 0 (DESIGN CHOICE, log 34). The layout of a chunk image of
scaled chunks hangs on their header words, so such a store waits until it can read them (log 21). -/
def startStore (e : Eng) (f : Start) (s : State) : State :=
  let c := opCfg f.r.op 0
  let t := f.q.l.getD {}
  let pois := f.toks.any (·.poison)
  if pois ∧ ((innermost f.r f.q.tag).isSome ∨ !opDfm f.r.op) then poisonStart s f
  else match scalarBad s f with
    | some x => badStart s f x
    | none =>
      if 1 < tokMode t then failStart s f (0x010A, (tokTile t).handle)
      else if tokFmt t ≠ opType f.r.op ∨ (tokMode t ≠ 0 ∧ !patBs c) then failStart s f (0x010B, tokFmt t)
      else match patIndex c (frameOf f) (tokScalar (f.q.r.getD {})) with
        | none => failStart s f (0x010C, 0)
        | some i =>
          if tokMode t = 1 ∧ !tokReadable s t then s
          else match xferRuns s e f.r.g.part c i (tokRows t) (tokCols t) (tokFmt t) .op (some (tokWords s t)) with
            | .error x => failStart s f x
            | .ok (rs, ws) => match runsToPieces s e f.r.g.part .op .write rs with
              | .error x => failStart s f x
              | .ok ps =>
                let (st, s') := newStamp s e
                let (x, s') := fresh s'
                let rg := rangesOf false f.q.lid e st x ps
                if !rangeRoom s rg then s
                else beginXfer { s' with
                    ranges := s'.ranges ++ rg
                    xfers := s'.xfers ++ [{ id := x, eng := e, slot := f.q.slot, vrow := f.q.vrow, lid := f.q.lid, tok := t,
                                            tok2 := f.q.r, store := true, pieces := ps, words := ws, poison := pois,
                                            todo := List.range (tokChunks t) }] } f

/-- Offset and length of chunk c in the image that a store writes. -/
def storeChunk (x : Xfer) (c : Nat) : Nat × Nat :=
  if x.words.isEmpty then (512 * c, Nat.min 512 (tokBytes x.tok - 512 * c))
  else (imageOff x.words c, 512 + 8 * (x.words[c]?).getD 1)

/-- The offset in an image of the byte that an address ends with: the last that maps to it (R166). -/
def lastOffset (ps : List Piece) (a : Nat) : Nat :=
  (ps.foldl (fun (o : Nat × Nat) p => (o.1 + p.len, if p.addr ≤ a ∧ a < p.addr + p.len then o.1 + (a - p.addr) else o.2)) (0, 0)).2

/-- The sector writes of a chunk of a store: of its bytes, those that no later element of the activation overwrites (R166). -/
def storeWrites (x : Xfer) (part : Nat) (st : Option Stamp) (c : Nat) (bs : List Byte) : List Req :=
  let p := storeChunk x c
  let ps := slicePieces x.pieces p.1 p.2
  let counts := fun a : Nat => decide (p.1 ≤ lastOffset x.pieces a) && decide (lastOffset x.pieces a < p.1 + p.2)
  let va := fun a : Nat => ((ps.find? fun p => decide (p.addr ≤ a) && decide (a < p.addr + p.len)).map
    fun p => p.va + (a - p.addr)).getD 0
  (sectorsOf ps).flatMap fun k => (sectorRuns counts (withBytes ps bs) k).map fun w =>
    sectorReq { addr := w.1, len := w.2.length, va := va w.1 } (.write w.2 x.poison) part x.lid (.hstore x.eng x.id) st

/-- The store reads no more chunks; its tokens leave with its last write (R132, R383). -/
def haltStore (s : State) (x : Xfer) (why : Nat × Nat × Nat) : State :=
  modXfer s x.id fun y => { y with todo := [], stop := some why }

/-- The last chunk of a store has been read: its read of the tile retires (R166), and its entries leave the owners where it
has no sector under way (R300). -/
def storeRead (s : State) (x : Xfer) : State :=
  let busy := fun o : Eng => s.reqs.any fun q => decide (reqXfer q.from_ = some x.id) && decide (q.owner = o) && decide (q.st ≠ .done)
  { s with retires := s.retires ++ [{ tile := tokTile x.tok }],
           ranges := s.ranges.filter fun y => y.copy || decide (y.id ≠ x.id) || busy y.owner }

/-- A store reads chunk c of its tile (R64, R166, R378): its sector writes are issued. An uncorrectable chunk is poisoned input
(R388); with dfm outside an instance the writes from then on are poisoned (R170; log 144). After the last chunk the residue is
checked: what has been written remains (R383). -/
def readStore (s : State) (r : OpRef) (x : Xfer) (c : Nat) : State :=
  let t := x.tok
  let b0 := burstOf s (tokTile t) (tokMode t) 0 c
  let b := noisyBurst (getEng s x.eng).dataErr c b0.1
  let s := countBurst (clearData s x.eng c) (tokTile t) c
  if b0.2 ∧ ((innermost r t.tag).isSome ∨ !opDfm r.op) then haltStore s x (1, 0, 0)
  else if !b0.2 ∧ burstBad (tokMode t) (tokFmt t) (tokChunks t) c b.words then
    haltStore s x (0, 0x010A, (tokTile t).handle + c * 2 ^ 16)
  else
    let y := { x with todo := x.todo.erase c, poison := x.poison || b0.2,
                      resid := (x.resid + residueOf b.data) % 65535, sum := (x.sum + b.sum) % 65535 }
    let want := if chunkChecked s t then y.sum else t.residue
    if y.todo.isEmpty ∧ !y.poison ∧ !residueEq want y.resid then haltStore s x (2, want, y.resid)
    else
      let bs := if y.words.isEmpty then b.data else joinBurst (tokFmt t) b.words b.data
      let st := (s.ranges.find? fun z => decide (z.id = x.id)).map (·.stamp)
      let s := issueAll (modXfer s x.id fun _ => y) x.eng (storeWrites y r.g.part st c bs)
      if y.todo.isEmpty then storeRead s y else s

/-- HSTORE (R166): the activation at place n of e's transfer unit starts; the places after the unit's are the chunks of the
stores in flight, 128 to a store: one that is readable is read and written. -/
def execHstore (e : Eng) (n : Nat) (s : State) : Out :=
  .next <|
    let u := (getEng s e).unit.length
    if n < u then
      match xferAt s e n 0x19 with
      | some f => startStore e f s
      | none => s
    else
      match (s.xfers.filter fun x => decide (x.eng = e) && x.store)[(n - u) / 128]? with
      | none => s
      | some x => match findOp s e x.slot with
        | some r =>
          let c := (n - u) % 128
          if !x.todo.contains c ∨ !chunkReadable s x.tok c then s
          else match chunkGate s (tokTile x.tok) c x.id x.lid .read with
            | some v => v
            | none => readStore (watchPassed s x.id (chunkSectors (getTile s (tokTile x.tok)) c)) r x c
        | none => s

/-- A request belongs to a store. -/
def ofStore (e : Eng) (x : Nat) (q : Req) : Bool := q.from_ == .hstore e x

/-- The set-aside tokens of a store that had read the whole of its tile have no reference to it left (R166). -/
def spendStore (s : State) (x : Xfer) : State :=
  modEng s x.eng fun y => { y with fault := y.fault.map fun a => if a.tok = x.tok then { a with spent := true } else a }

/-- HSTORE_COMPLETE (R166): every chunk of transfer n has been read and every write acknowledged: its entries leave, its
completion token is emitted and its tokens are consumed. A store that stopped ends as it stopped; a write refused by its owner
raises permission. The completion token has the left token's poison bit: no rule says whether it does after a poisoned store
(R170; DESIGN CHOICE, log 36). -/
def execHstoreComplete (e : Eng) (n : Nat) (s : State) : Out :=
  .next <|
    match s.xfers.find? fun y => decide (y.id = n) && decide (y.eng = e) && y.store with
    | none => s
    | some x =>
      let mine := s.reqs.filter (ofStore e n)
      match findOp s e x.slot with
      | none => s
      | some r =>
        if !x.todo.isEmpty || mine.any fun q => decide (q.st ≠ .done) then s
        else
          let out := if opCtok r.op then toPort r (opNout r.op - 1) { x.tok with kind := 3, opw := 0, residue := 0 } else []
          let s' := dropXfer { s with reqs := s.reqs.filter fun q => !ofStore e n q } x
          let room := faultRoom s e (xferToks x).length
          match x.stop, mine.find? (·.denied) with
          | some (0, cause, v), _ => if !room then s else opFault s' r x.vrow (xferToks x) cause v
          | some (1, _, _), _ => if !room then s else poisonConsumed s' r x.vrow (xferToks x)
          | some (_, want, found), _ => if !room then s else silentData s' r x.vrow (xferToks x) want found
          | none, some q => if !room then s else spendStore (opFault s' r x.vrow (xferToks x) 0x0110 q.va) x
          | none, none => consumeToks (emitToks s' r x.id x.tok.tag out) r x.id false (xferToks x)

/-! ### Copies (R168, R171, R172, R251) -/

/-- A copy has a tile at an end. -/
def hasTileEnd (j : CopyJob) : Bool :=
  match j.src, j.dst with
  | .mem _ _, .mem _ _ => false
  | _, _ => true

/-- An end is in the chunk-image layout. -/
def endBs : CopyEnd → Bool
  | .mem _ b => b
  | .tile _ => false

/-- Offset and length of chunk c in the image: 512-byte chunks of a tile, else pieces of rows (R171). -/
def copyChunk (j : CopyJob) (c : Nat) : Nat × Nat :=
  if hasTileEnd j then (512 * c, Nat.min 512 (j.rows * j.rbytes - 512 * c))
  else
    let q := cdiv j.rbytes 512
    (c / q * j.rbytes + 512 * (c % q), Nat.min 512 (j.rbytes - 512 * (c % q)))

/-- Chunks of a copy. -/
def copyChunks (j : CopyJob) : Nat := if hasTileEnd j then cdiv (j.rows * j.rbytes) 512 else j.rows * cdiv j.rbytes 512

/-- The runs of a chunk image that hold the data bytes lo to hi - 1 of its image: the header word of each block that begins
among them, with the number of its chunk, and the bytes; offset and length of each (R62, R164). -/
def imageRuns (words : List Nat) (lo hi : Nat) : List (Option Nat × Nat × Nat) :=
  (List.range words.length).flatMap fun k =>
    let w := Nat.max 1 ((words[k]?).getD 1)
    let b := 512 / w
    (List.range w).flatMap fun j =>
      let g := 512 * k + j * b
      let at_ := imageOff words k + j * (8 + b)
      let l := Nat.max lo g
      let h := Nat.min hi (g + b)
      if h ≤ l then [] else (if lo ≤ g then [(some k, at_, 8)] else []) ++ [(none, at_ + 8 + (l - g), h - l)]

/-- The runs of chunk c at an end of a row-by-row transfer in the chunk-image layout; the last takes the padding of the last
chunk burst with it. -/
def copyRuns (j : CopyJob) (c : Nat) : List (Option Nat × Nat × Nat) :=
  let p := copyChunk j c
  imageRuns j.words p.1 (if c + 1 = copyChunks j then 512 * j.words.length else p.1 + p.2)

/-- The memory pieces of chunk c at an end. -/
def endPieces (j : CopyJob) (x : CopyEnd) (c : Nat) : List Piece :=
  match x with
  | .tile _ => []
  | .mem ps bs =>
    if !bs then slicePieces ps (copyChunk j c).1 (copyChunk j c).2
    else if hasTileEnd j then slicePieces ps (imageOff j.words c) (512 + 8 * (j.words[c]?).getD 1)
    else (copyRuns j c).flatMap fun r => slicePieces ps r.2.1 r.2.2

/-- The bytes of runs of a chunk image taken apart: header words and data. -/
def splitRuns : List (Option Nat × Nat × Nat) → List Byte → List (BitVec 64) × List Byte
  | [], _ => ([], [])
  | (h, _, n) :: rs, bs =>
    let o := splitRuns rs (bs.drop n)
    if h.isSome then (BitVec.ofNat 64 (leNat (bs.take n)) :: o.1, o.2) else (o.1, bs.take n ++ o.2)

/-- The bytes of runs of a chunk image from header words and data. -/
def joinRuns : List (Option Nat × Nat × Nat) → List (BitVec 64) → List Byte → List Byte
  | [], _, _ => []
  | (h, _, n) :: rs, ws, d =>
    if h.isSome then leBytes 8 ((ws.head?).getD 0).toNat ++ joinRuns rs ws.tail d
    else d.take n ++ joinRuns rs ws (d.drop n)

/-- Write bytes to pieces. -/
def writeCopy (s : State) : List Piece → List Byte → State
  | [], _ => s
  | p :: ps, bs =>
    let s := if p.host then { s with hostMem := memWrite s.hostMem p.addr (bs.take p.len) } else writeHbm s p.addr (bs.take p.len)
    writeCopy s ps (bs.drop p.len)

/-- A chunk of a copy as it is moved: data, header words, virtual addresses of uncorrectable sectors, and that of a sector
that its owner refused. -/
structure Moved where
  data : List Byte
  words : List (BitVec 64)
  bad : List Nat := []
  denied : Option Nat := none
  /-- the block-scale mode of a tile's chunk, and the residue that came with it (R379) -/
  mode : Nat := 0
  sum : Nat := 0
  /-- the padding of the last chunk burst of a source in the chunk-image layout -/
  pad : List Byte := []

/-- The opening word of a mode-0 chunk of a copy with a tile at an end. -/
def copyWords (j : CopyJob) (c : Nat) : List (BitVec 64) := [burstWord c (decide (c + 1 = copyChunks j)) j.fmt 0 0x7F]

/-- The opening words of the mode-0 chunk bursts that begin in chunk c of a row-by-row transfer. -/
def runWords (j : CopyJob) (c : Nat) : List (BitVec 64) :=
  (copyRuns j c).filterMap fun r => r.1.map fun k => burstWord k (decide (k + 1 = j.words.length)) j.fmt 0 0x7F

/-- The requests of a chunk of a copy. -/
def ofChunk (j : CopyJob) (c : Nat) (q : Req) : Bool := q.from_ == .copy j.eng j.id c

/-- The requests of a copy. -/
def ofCopy (j : CopyJob) (q : Req) : Bool :=
  match q.from_ with
  | .copy _ i _ => decide (i = j.id)
  | _ => false

/-- The block-scale mode of a chunk of a copy's source tile: the token's; a packet names no mode, so the chunk's first header
word, whose L is 0 in mode 0 alone, tells it (R63, R251; log 145). -/
def chunkMode (s : State) (j : CopyJob) (id : TileId) (c : Nat) : Nat :=
  let t := getTile s id
  if j.packet.isNone then j.mode
  else if isScaled t.fmt ∧ bits (leNat ((readScale s id t c).take 8)) 11 8 ≠ 0 then 1 else 0

/-- Chunk c of a copy whose source is a tile. An uncorrectable word has no virtual address: 0 stands for it (log 145). -/
def tileChunk (s : State) (j : CopyJob) (id : TileId) (c : Nat) : Moved :=
  let m := chunkMode s j id c
  let b0 := burstOf s id m 0 c
  let b := noisyBurst (getEng s j.eng).dataErr c b0.1
  { data := b.data, words := b.words, bad := if b0.2 then [0] else [], mode := m, sum := b.sum }

/-- Chunk c of a copy from its source's sectors as they were read. -/
def memChunk (j : CopyJob) (c : Nat) (qs : List Req) : Moved :=
  let n := (copyChunk j c).2
  let bs := (sectorParts (endPieces j j.src c)).flatMap fun p => partBytes qs p.2
  let bad := (qs.filter (·.bad)).map fun q => q.va / 64 * 64
  let denied := (qs.find? (·.denied)).map (·.va)
  let fresh := if hasTileEnd j then copyWords j c else runWords j c
  if endBs j.src then
    let b := if hasTileEnd j then splitBurst ((j.words[c]?).getD 1) bs else splitRuns (copyRuns j c) bs
    { data := b.2.take n, words := if isScaled j.fmt then b.1 else fresh, bad := bad, denied := denied, pad := b.2.drop n }
  else { data := bs, words := fresh, bad := bad, denied := denied }

/-- The data that a chunk writes into a tile: absent codes when its source was uncorrectable (R168). -/
def movedData (j : CopyJob) (m : Moved) : List Byte :=
  if m.bad.isEmpty then m.data else absentBytes j.fmt (m.data.length / elemBytes j.fmt)

/-- Write chunk c of a copy into its tile. -/
def writeTileChunk (s : State) (j : CopyJob) (id : TileId) (c : Nat) (m : Moved) : State :=
  let t := getTile s id
  let s := if t.state = 1 then modTile s id fun t => { t with state := 2, owner := 0 } else s
  let s := writeTileImage s id t (512 * c) (movedData j m)
  let s := if isScaled t.fmt then writeScale s id t c (scaleArea (if m.bad.isEmpty then m.words else copyWords j c)) else s
  chunkDone s id c

/-- The sector writes of chunk c of a copy; they poison their sectors when the source was uncorrectable (R168). -/
def chunkWrites (j : CopyJob) (c : Nat) (m : Moved) : List Req :=
  let bs := if !endBs j.dst then m.data
    else if hasTileEnd j then joinBurst j.fmt m.words m.data
    else joinRuns (copyRuns j c) m.words (m.data ++ (if m.pad.isEmpty then absentBytes j.fmt (512 / elemBytes j.fmt) else m.pad))
  (sectorParts (endPieces j j.dst c)).map fun p =>
    sectorReq p.2 (.write ((bs.drop p.1).take p.2.len) (!m.bad.isEmpty)) j.part j.lid (.copy j.eng j.id c) (some j.stamp)

/-- The entries of a copy: byte ranges at HBM port engines, the chunks of a tile at its memory tile (R300). -/
def copyRanges (j : CopyJob) : List RangeEnt :=
  let one := fun x : CopyEnd => match x with
    | .mem ps _ => rangesOf true j.lid j.eng j.stamp j.id ps
    | .tile t => [{ copy := true, owner := tileMt t, hi := copyChunks j, tile := some t, lid := j.lid, eng := j.eng,
                    stamp := j.stamp, id := j.id }]
  one j.src ++ one j.dst

/-- Change a copy. -/
def modCopy (s : State) (i : Nat) (f : CopyJob → CopyJob) : State :=
  { s with copies := s.copies.map fun j => if j.id = i then f j else j }

/-- A copy retires: its entries leave. -/
def dropCopy (s : State) (j : CopyJob) : State :=
  dropRanges { s with copies := s.copies.filter fun x => decide (x.id ≠ j.id) } j.stamp

/-- A copy has stopped: it retires once its outstanding requests have been acknowledged (R168). The chunks that have been read
are still written, and what is left of it is these. -/
def endCopy (s : State) (j : CopyJob) : State :=
  let mine := fun q : Req => j.writing.any fun c => ofChunk j c q
  let s := { s with reqs := s.reqs.filter fun q => !(ofCopy j q && !mine q && decide (q.st = .done)) }
  if s.reqs.any (ofCopy j) || !j.writing.isEmpty then
    modCopy s j.id fun j => { j with failed := true, tok := none, tok2 := none, left := j.writing }
  else dropCopy s j

/-- The tokens of a COPY activation. -/
def copyToks (j : CopyJob) : List Token := j.tok.toList ++ j.tok2.toList

/-- Where a packet's report goes: the launch's trap thread, or the queue's fault thread when lid is 0 (R251, R330). -/
def packetTo (s : State) (pkg die q lid : Nat) : Tid :=
  match if lid = 0 then none else getLaunch s (pkg, lid) with
  | some l => trapThread pkg l.record
  | none => ⟨pkg, die, (getCopyQ s (pkg, die, q)).faultThr⟩

/-- A report about a copy packet: its slot and queue. -/
def raisePacket (s : State) (pkg die q lid cause tval tinfo : Nat) : State :=
  raise s { dest := packetTo s pkg die q lid, cause := cause, tval := BitVec.ofNat 64 tval, tinfo := BitVec.ofNat 64 tinfo,
            tcoord := coordNat { eng := copyEng pkg die }, lid := lid, src := copyEng pkg die, tagged := false }

/-- The packet fault (R251, R332). -/
def packetFault (s : State) (pkg die q slot lid : Nat) (addr : Bool) : State :=
  raisePacket s pkg die q lid 0x0114 (slot % 4096 + q * 2 ^ 12 + 2 ^ 16 * b2n addr) 0

/-- The destination tile of a copy returns to FREE (R142), and the activations that wait are evaluated again (R26). -/
def freeCopyTile (s : State) (j : CopyJob) : State :=
  match j.dst, j.packet with
  | .tile id, none => if (getTile s id).refs = 0 then reevalAll (freeTile s id) else s
  | _, _ => s

/-- A copy stops at a fault: an uncorrectable or refused sector, a mismatch, a chunk that its tile refuses (R168, R383). -/
def stopCopy (s : State) (j : CopyJob) (cause tval : Nat) : State :=
  match j.packet with
  | some (q, slot) =>
    if cause = 0x0112 then
      raisePacket (endCopy s j) j.eng.pkg j.eng.die q j.lid cause tval (slot % 4096 + q * 2 ^ 12)
    else packetFault (endCopy s j) j.eng.pkg j.eng.die q slot j.lid (decide (cause = 0x0110))
  | none =>
    match findOp s j.eng j.slot with
    | none => endCopy s j
    | some r => opFault (endCopy (freeCopyTile s j) j) r j.vrow (copyToks j) cause tval

/-- A copy consumes poison, or an uncorrectable word of its tile (R170, R388). -/
def poisonCopy (s : State) (j : CopyJob) : State :=
  match findOp s j.eng j.slot, j.packet with
  | some r, none => poisonConsumed (endCopy (freeCopyTile s j) j) r j.vrow (copyToks j)
  | _, _ => stopCopy s j 0x0109 0

/-- A copy finds its tile's residue different (R382). -/
def mismatchCopy (s : State) (j : CopyJob) (x : Nat × Nat) : State :=
  match findOp s j.eng j.slot with
  | some r => silentData (endCopy (freeCopyTile s j) j) r j.vrow (copyToks j) x.1 x.2
  | none => endCopy s j

/-- The completion of a copy (R172). Its tokens and the early one are one firing's. -/
def finishCopy (s : State) (j : CopyJob) : State :=
  match j.packet with
  | some _ => dropCopy s j
  | none =>
    match findOp s j.eng j.slot with
    | none => dropCopy s j
    | some r =>
      let t := j.tok.getD {}
      let tile := match j.dst with
        | .tile id =>
          let x := getTile s id
          if j.early then []
          else toPort r 0 { t with kind := 1, poison := j.poison, residue := j.residue,
                                   opw := tileOpw id x.rows x.cols x.fmt j.mode }
        | _ => []
      let done := if opCtok r.op then
          toPort r (opNout r.op - 1) { t with kind := 3, opw := 0, residue := 0, poison := j.poison } else []
      if !refsRoom s tile then s
      else consumeToks (emitToks (dropCopy s j) r j.id t.tag (tile ++ done)) r j.id true (copyToks j)

/-- The barrier of a copy chunk: its decrement of n bytes (R172). -/
def copyBar (s : State) (j : CopyJob) (dst : List Piece) (n : Nat) : State :=
  match j.bar with
  | none => s
  | some (die, idx, far) =>
    let pkg := if far then ((dst.find? (!·.host)).map fun p => gpaPkg p.addr).getD j.eng.pkg else j.eng.pkg
    modBar s (pkg, die, idx) (barDec n)

/-- The source token of a tile copy is checked against the residue read (R378), or the chunk residues of a pinned or loaded
tile (R379). -/
def copyMismatch (s : State) (j : CopyJob) (resid sum : Nat) : Option (Nat × Nat) :=
  match j.tok, j.src with
  | some t, .tile _ =>
    let want := if chunkChecked s t then sum else t.residue
    if residueEq want resid then none else some (want, resid)
  | _, _ => none

/-- The write of a chunk is acknowledged: its barrier is decremented, and the copy completes with its last chunk. -/
def ackChunk (s : State) (j : CopyJob) (c : Nat) : State :=
  let j := { j with left := j.left.erase c, writing := j.writing.erase c }
  let s := copyBar (modCopy s j.id fun _ => j) j (endPieces j j.dst c) (copyChunk j c).2
  if j.left.isEmpty then finishCopy s j else s

/-- The deferred-error log entries of a chunk's uncorrectable sectors (R168): one for each failing sector of the copy. -/
def logChunk (s : State) (j : CopyJob) (m : Moved) : State :=
  (m.bad.dedup.filter fun a => !j.logged.contains a).foldl (fun s a => logError s j.eng
    { tag := ((j.tok.map (·.tag)).getD 0), slot := j.slot, sector := a / 64, lid := j.lid, part := j.part }) s

/-- What keeps a chunk that has been read from being written. -/
inductive ChunkStop where
  | fault (cause tval : Nat)
  | poison
  | mismatch (x : Nat × Nat)

/-- The destination is memory in the plain layout, which takes no block scales (R164). -/
def plainDst (j : CopyJob) : Bool :=
  match j.dst with
  | .mem _ bs => !bs
  | .tile _ => false

/-- The first of them that applies; `last` says that every other chunk has been read. -/
def chunkStop (s : State) (j : CopyJob) (c : Nat) (m : Moved) (last : Bool) : Option ChunkStop :=
  let resid := (j.residue + residueOf m.data) % 65535
  let refused := match j.dst with
    | .tile id => if (getTile s id).state = 0 ∨ chunkRefused (getTile s id) c then some (stateTval id c) else none
    | _ => none
  match m.denied, refused, j.src with
  | some va, _, _ => some (.fault 0x0110 va)
  | none, some v, _ => some (.fault 0x0109 v)
  | none, none, .tile id =>
    if !m.bad.isEmpty then (if j.packet.isNone then some .poison else if j.dfm then none else some (.fault 0x0112 0))
    else if burstBad m.mode j.fmt (copyChunks j) c m.words then some (.fault 0x010A (id.handle + c * 2 ^ 16))
    else if m.mode = 1 ∧ j.packet.isSome ∧ plainDst j then some (.fault 0x010B j.fmt)
    else if last then (copyMismatch s j resid ((j.sum + m.sum) % 65535)).map .mismatch else none
  | none, none, .mem _ _ =>
    match m.bad with
    | a :: _ => if j.dfm then none else some (.fault 0x0112 a)
    | [] => none

/-- The chunk's residue joins the copy's, that of absent codes for a spoilt one. -/
def addResidue (j : CopyJob) (m : Moved) : CopyJob :=
  let d := match j.dst with
    | .tile _ => residueOf (movedData j m)
    | _ => residueOf m.data
  { j with residue := (j.residue + d) % 65535, sum := (j.sum + m.sum) % 65535, poison := j.poison || !m.bad.isEmpty,
           logged := j.logged ++ m.bad }

/-- A chunk whose source has been read: the copy stops, or the chunk is written. -/
def moveChunk (s : State) (j : CopyJob) (c : Nat) (m : Moved) : State :=
  match chunkStop s j c m (j.left.all fun k => decide (k = c) || j.writing.contains k) with
  | some x =>
    if !faultRoom s j.eng (copyToks j).length then s
    else
      let s := modCopy { s with reqs := s.reqs.filter fun q => !ofChunk j c q } j.id fun j => { j with reading := j.reading.erase c }
      match x with
      | .fault cause tval => stopCopy s j cause tval
      | .poison => poisonCopy s j
      | .mismatch x => mismatchCopy s j x
  | none =>
    let s := logChunk { s with reqs := s.reqs.filter fun q => !ofChunk j c q } j m
    let j := addResidue { j with reading := j.reading.erase c } m
    match j.dst with
    | .tile id => ackChunk (writeTileChunk s j id c m) j c
    | .mem _ _ =>
      let j := { j with writing := c :: j.writing }
      issueAll (modCopy s j.id fun _ => j) j.eng (chunkWrites j c m)

/-- A write of a chunk that a stopped copy had read before it stopped is acknowledged: its barrier is decremented, and the copy
retires with the last (R168). -/
def lateAck (s : State) (j : CopyJob) (c : Nat) (denied : Bool) : State :=
  let j := { j with left := j.left.erase c, writing := j.writing.erase c }
  let s := modCopy s j.id fun _ => j
  endCopy (if denied then s else copyBar s j (endPieces j j.dst c) (copyChunk j c).2) j

/-- A chunk can enter its tile: an L1 tile takes it in slots of its partition (R296). -/
def dstGrants (s : State) (j : CopyJob) (c : Nat) : Bool :=
  match j.dst with
  | .tile id => l1Grants s id c
  | _ => true

/-- The filters' hold on a chunk of a copy that reads or writes an L1 tile. -/
def copyGate (s : State) (j : CopyJob) (c : Nat) : Option State :=
  let at_ := fun (x : CopyEnd) (acc : Acc) => match x with
    | .tile id => chunkGate s id c j.id j.lid acc
    | .mem _ _ => none
  (at_ j.src .read).orElse fun _ => at_ j.dst .write

/-- The sectors of a copy's chunk in L1 tiles. -/
def copySectors (s : State) (j : CopyJob) (c : Nat) : List Nat :=
  [j.src, j.dst].flatMap fun x => match x with
    | .tile id => chunkSectors (getTile s id) c
    | .mem _ _ => []

/-- A chunk whose source can be read and whose destination can take it moves once no watch filter holds it (R401). -/
def passChunk (s : State) (j : CopyJob) (c : Nat) (m : Moved) (count : State → State) : State :=
  match copyGate s j c with
  | some v => v
  | none => moveChunk (count (watchPassed s j.id (copySectors s j c))) j c m

/-- COPY_CHUNK_ACK (R168, R172): chunk `chunk` of copy n of the die's copy engine moves on: its sector reads are issued;
once they have returned, or its tile's chunk is readable, it is written; once its writes are performed it is acknowledged,
its barrier is decremented, and the copy completes with its last chunk. -/
def execCopyChunkAck (pkg die n chunk : Nat) (s : State) : Out :=
  .next <|
    match s.copies.find? fun j => decide (j.id = n) && decide (j.eng = copyEng pkg die) with
    | none => s
    | some j =>
      let mine := s.reqs.filter (ofChunk j chunk)
      let back := mine.all fun q => decide (q.st = .done)
      if j.failed then
        if j.writing.contains chunk ∧ back then lateAck { s with reqs := s.reqs.filter fun q => !ofChunk j chunk q } j chunk
            (mine.any (·.denied))
        else endCopy s j
      else if j.left.isEmpty then finishCopy s j
      else if !j.left.contains chunk then s
      else if j.writing.contains chunk then
        if !back then s
        else match mine.find? (·.denied) with
          | some q => if faultRoom s j.eng (copyToks j).length then stopCopy s j 0x0110 q.va else s
          | none => ackChunk { s with reqs := s.reqs.filter fun q => !ofChunk j chunk q } j chunk
      else match j.src with
        | .tile id =>
          if !(getTile s id).cmap.getLsbD chunk ∨ !l1Grants s id chunk ∨ !dstGrants s j chunk then s
          else passChunk s j chunk (tileChunk s j id chunk) fun s => countBurst (clearData s j.eng chunk) id chunk
        | .mem _ _ =>
          if !j.reading.contains chunk then
            issueAll (modCopy s j.id fun j => { j with reading := chunk :: j.reading }) j.eng
              ((sectorReads (endPieces j j.src chunk)).map fun p =>
                sectorReq p .read j.part j.lid (.copy j.eng j.id chunk) (some j.stamp))
          else if !back ∨ !dstGrants s j chunk then s
          else passChunk s j chunk (memChunk j chunk mine) id

/-- The shape of a COPY's transfer (R171): rows and columns. -/
def copyShape (s : State) (f : Start) (c0 : Nat) : Nat × Nat :=
  let l := f.q.l.getD {}
  if !bit c0 159 then (tokRows l, tokCols l)
  else if !bit c0 160 then
    match f.act.dests with
    | id :: _ => ((getTile s id).rows, (getTile s id).cols)
    | [] => (0, 0)
  else (bits c0 184 178 + 1, bits c0 191 185 + 1)

/-- One end of a COPY in memory: its pieces and the header words of its chunks. -/
def copyEndAt (s : State) (e : Eng) (part c i rows cols fmt : Nat) (acc : Acc) (words : Option (List Nat)) :
    Except XErr (List Piece × List Nat) :=
  match xferRuns s e part c i rows cols fmt .copy words with
  | .error x => .error x
  | .ok (rs, ws) => match runsToPieces s e part .copy acc rs with
    | .error x => .error x
    | .ok ps => .ok (ps, ws)

/-- The copy that a COPY activation forms, before its stamp and name. -/
def formCopy (s : State) (f : Start) : Except XErr CopyJob :=
  let e := f.r.op.eng
  let o := f.r.op
  let c0 := opCfg o 0
  let c1 := opCfg o 1
  let l := f.q.l.getD {}
  let sh := copyShape s f c0
  let fmt := opType o
  let j : CopyJob := { eng := e, slot := f.q.slot, vrow := f.q.vrow, tok := f.toks.head?, tok2 := f.toks[1]?,
                       rows := sh.1, rbytes := sh.2 * elemBytes fmt, fmt := fmt, lid := f.q.lid, part := f.r.g.part,
                       agid := l.agid, dfm := opDfm o, early := bit c0 161,
                       bar := if bit c0 162 then some (bits c0 165 164, bits c0 177 166, bit c0 163) else none }
  let fromTile := !bit c0 159
  match (if fromTile then .ok (CopyEnd.tile (tokTile l), [], tokMode l)
         else match patIndex c0 (frameOf f) (tokScalar l) with
           | none => .error (0x010C, 0)
           | some i => match copyEndAt s e f.r.g.part c0 i sh.1 sh.2 fmt .read none with
             | .error x => .error x
             | .ok (ps, ws) => .ok (CopyEnd.mem ps (patBs c0), ws, b2n (patBs c0 && isScaled fmt))
         : Except XErr (CopyEnd × List Nat × Nat)) with
  | .error x => .error x
  | .ok (src, ws, mode) =>
    if !bit c0 160 then
      match f.act.dests with
      | id :: _ => .ok { j with src := src, dst := .tile id, words := ws, mode := mode }
      | [] => .error (0x010C, 0)
    else match patIndex c1 (frameOf f) (tokScalar l) with
      | none => .error (0x010C, 0)
      | some i =>
        let n := cdiv (sh.1 * sh.2 * elemBytes fmt) 512
        let dw := if fromTile then tokWords s l
          else if ws.isEmpty then List.replicate n 1 else ws
        if mode ≠ 0 ∧ !patBs c1 then .error (0x010B, fmt)
        else match copyEndAt s e f.r.g.part c1 i sh.1 sh.2 fmt .write (some dw) with
          | .error x => .error x
          | .ok (ps, _) => .ok { j with src := src, dst := .mem ps (patBs c1), words := if patBs c1 then dw else ws, mode := mode }

/-- A copy enters its ranges, with its stamp. -/
def launchCopy (s : State) (j : CopyJob) : Option (CopyJob × State) :=
  let (st, s') := newStamp s j.eng
  let (i, s') := fresh s'
  let j := { j with id := i, stamp := st, left := List.range (copyChunks j) }
  let rg := copyRanges j
  if !rangeRoom s rg then none else some (j, { s' with ranges := s'.ranges ++ rg, copies := s'.copies ++ [j] })

/-! ### Copy packets (R250, R251) -/

/-- The bytes at a virtual range of a partition, for the copy engine; none when it faults. -/
def engineRead (s : State) (e : Eng) (part va n : Nat) : Option (List Byte) :=
  match runsToPieces s e part .copy .read (if n = 0 then [] else [(va, n)]) with
  | .ok ps => some (peekPieces s ps)
  | .error _ => none

/-- Write bytes at a virtual range for the copy engine. -/
def engineWrite (s : State) (e : Eng) (part va : Nat) (bs : List Byte) : State :=
  match runsToPieces s e part .copy .write [(va, bs.length)] with
  | .ok ps => writeCopy s ps bs
  | .error _ => s

/-- A COPY from or to a chunk image waits until it can read the header words that its layout hangs on (log 21). -/
def copyWaits (s : State) (f : Start) : Bool :=
  let l := f.q.l.getD {}
  let c0 := opCfg f.r.op 0
  let sh := copyShape s f c0
  let fmt := opType f.r.op
  if !bit c0 159 then patBs (opCfg f.r.op 1) && decide (tokMode l = 1) && !tokReadable s l
  else patBs c0 && match patIndex c0 (frameOf f) (tokScalar l) with
    | none => false
    | some i => !headersReady s f.r.op.eng f.r.g.part fmt .copy true (cdiv (sh.1 * sh.2 * elemBytes fmt) 512) (patBase c0 i)

/-- The residue of the bytes that a copy's source holds (R171, R380): for a tile the token's, or, for a pinned or loaded one,
that of its bytes (R379). -/
def sourceResidue (s : State) (j : CopyJob) (l : Token) : Nat :=
  match j.src with
  | .tile id => if chunkChecked s l then residueOf (readTileImage s id (getTile s id) 0 (tileBytes (getTile s id))).1 else l.residue
  | .mem _ _ => ((List.range (copyChunks j)).foldl (fun a c =>
      let bs := peekPieces s (endPieces j j.src c)
      a + residueOf (if endBs j.src then (splitBurst ((j.words[c]?).getD 1) bs).2.take (copyChunk j c).2 else bs)) 0) % 65535

/-- A read of a queue's memory by the copy engine, as its banks count it (R385). One that misses asks for a walk (R352); one that
faults is tried again. -/
def queueRead (s : State) (e : Eng) (part va n : Nat) : State :=
  match runsToPieces s e part .copy .read [(va, n)] with
  | .ok ps => ps.foldl (fun s p => if p.host then s else (readHbm s p.addr p.len).2.2) s
  | .error x => if x.1 = 0 then noteMiss s e part x.2 0 0 0 else dropWalk s e part x.2

/-- The reads of a copy queue's memory: its indices, then its slot. -/
def queueReads (s : State) (pkg die q : Nat) : State :=
  let c := getCopyQ s (pkg, die, q)
  let e := copyEng pkg die
  if !c.set then s
  else match engineRead s e c.part c.base.toNat 16 with
    | some ix => queueRead (queueRead s e c.part c.base.toNat 16) e c.part (c.base.toNat + 64 + 64 * (field ix 8 8 % 2 ^ c.log2)) 64
    | none => queueRead s e c.part c.base.toNat 16

/-- The copy engine's user queue q holds a sealed slot: its read index and its bytes (R250). -/
def copySlot (s : State) (pkg die q : Nat) : Option (Nat × List Byte) :=
  let c := getCopyQ s (pkg, die, q)
  let e := copyEng pkg die
  if !c.set ∨ (getPart s (pkg, c.part)).flr ≠ 0 then none
  else match engineRead s e c.part c.base.toNat 16 with
    | none => none
    | some ix =>
      let r := field ix 8 8
      match engineRead s e c.part (c.base.toNat + 64 + 64 * (r % 2 ^ c.log2)) 64 with
      | none => none
      | some b => if field b 56 8 ≠ (r + 1) % 2 ^ 64 then none else some (r, b)

/-- A queue of the copy engine has a copy to begin: 0 to 15 its user queues, 16 its operator queue. -/
def copyQReady (s : State) (pkg die q : Nat) : Bool :=
  if q < 16 then (copySlot s pkg die q).isSome
  else
    let e := copyEng pkg die
    (List.range (getEng s e).unit.length).any fun n => ((xferAt s e n 0x1A).map fun f => !copyWaits s f).getD false

/-- It is a queue's turn (R171): the first queue with a copy to begin, from the one after the last served. -/
def copyTurn (s : State) (pkg die q : Nat) : Bool :=
  let last := (getEng s (copyEng pkg die)).served
  decide (((List.range 17).map fun k => (last + 1 + k) % 17).find? (copyQReady s pkg die) = some q)

/-- The copy engine has served a queue. -/
def servedQ (s : State) (pkg die q : Nat) : State := modEng s (copyEng pkg die) fun x => { x with served := q }

/-- COPY (R171): the activation at place n of the copy engine's operator queue, at that queue's turn, enters its ranges and
begins its transfer; with early = 1 its tile token leaves at once, with the residue of the source's bytes (log 37). -/
def execCopy (e : Eng) (n : Nat) (s : State) : Out :=
  .next <|
    match xferAt s e n 0x1A with
    | none => s
    | some f =>
      let l := f.q.l.getD {}
      let fromTile := !bit (opCfg f.r.op 0) 159
      if f.toks.any (·.poison) then poisonStart s f
      else match scalarBad s f with
        | some x => badStart s f x
        | none =>
          if fromTile ∧ 1 < tokMode l then failStart s f (0x010A, (tokTile l).handle)
          else if fromTile ∧ tokFmt l ≠ opType f.r.op then failStart s f (0x010B, tokFmt l)
          else if copyWaits s f ∨ !copyTurn s e.pkg e.die 16 then s
          else match formCopy s f with
            | .error x => failStart s f x
            | .ok j => match launchCopy s j with
              | none => s
              | some (j, s') =>
                let tile := match j.early, j.dst with
                  | true, .tile id =>
                    let x := getTile s id
                    toPort f.r 0 { l with kind := 1, residue := sourceResidue s j l, opw := tileOpw id x.rows x.cols x.fmt j.mode }
                  | _, _ => []
                if !refsRoom s tile then s
                else
                  emitToks (servedQ (beginXfer s' f) e.pkg e.die 16) f.r j.id l.tag tile

/-- A tile endpoint of a packet. -/
def packetTile (pkg v : Nat) : TileId := { pkg := pkg, die := bits v 17 16, handle := bits v 15 0 }

/-- The copy that a packet forms: none when it breaks the rules of R251; an address fault is told apart. -/
def formPacket (s : State) (e : Eng) (part q slot : Nat) (b : List Byte) :
    Except (Option XErr) CopyJob :=
  let op := field b 0 1
  let fmt := field b 1 1
  let lid := field b 2 2
  let bar := field b 6 2
  let fromTile := bit op 0
  let toTile := bit op 2
  let src := field b 8 8
  let dst := field b 16 8
  let rb := field b 24 4
  let st := packetTile e.pkg src
  let dt := packetTile e.pkg dst
  let sT := getTile s st
  let dT := getTile s dt
  let tileWord := fun v : Nat => decide (v < 2 ^ 18)
  if bit op 1 ∨ bit op 3 ∨ bit op 7 ∨ 0xD < fmt ∨ 4096 ≤ lid ∨ 2 ^ 14 ≤ bar ∨ field b 28 4 ≠ 0 ∨ 4096 ≤ field b 48 2 ∨
      field b 50 6 ≠ 0 then .error none
  else if (fromTile ∧ (!tileWord src ∨ sT.fmt ≠ fmt ∨ sT.state = 0 ∨ sT.state = 4 ∨ sT.part ≠ part)) ∨
      (toTile ∧ (!tileWord dst ∨ dT.fmt ≠ fmt ∨ (dT.state ≠ 1 ∧ dT.state ≠ 2) ∨ dT.part ≠ part)) ∨
      (fromTile ∧ toTile ∧ (sT.rows ≠ dT.rows ∨ sT.cols ≠ dT.cols)) then .error none
  else if !fromTile ∧ !toTile ∧ (rb = 0 ∨ 2 ^ 24 < rb) then .error none
  else
    let rows := if fromTile then sT.rows else if toTile then dT.rows else field b 4 2 + 1
    let rbytes := if fromTile then sT.cols * elemBytes fmt else if toTile then dT.cols * elemBytes fmt else rb
    let al := if fromTile || toTile then elemBytes fmt else 1
    let j : CopyJob := { eng := e, packet := some (q, slot), rows := rows, rbytes := rbytes, fmt := fmt, lid := lid,
                         part := part, agid := field b 48 2, dfm := bit op 6,
                         bar := if bit op 4 then some (bits bar 13 12, bits bar 11 0, bit op 5) else none }
    let side := fun (tile : Bool) (t : TileId) (a : Nat) (stride : Int) (acc : Acc) =>
      if tile then (.ok (CopyEnd.tile t) : Except (Option XErr) CopyEnd)
      else match patRows al a stride rbytes (List.range rows) with
        | .error x => .error (some x)
        | .ok rs => match runsToPieces s e part .copy acc rs with
          | .error x => .error (some x)
          | .ok ps => .ok (.mem ps false)
    match side fromTile st src (sext 64 (field b 32 8)) .read, side toTile dt dst (sext 64 (field b 40 8)) .write with
    | .ok x, .ok y => .ok { j with src := x, dst := y }
    | .error x, _ => .error x
    | _, .error x => .error x

/-- A packet of a launch that is being killed is cancelled, and counted in the result of the GKILL (R241). -/
def cancelPacket (s : State) (pkg lid : Nat) : State :=
  { s with threads := tmap (fun t th => if t.pkg ≠ pkg then th else
      { th with asyncs := th.asyncs.map fun a => match a.wait with
          | .kill l n => if l = lid then { a with wait := .kill l (n + 1) } else a
          | _ => a }) s.threads }

/-- COPY_PACKET_TAKE (R250, R251): at its turn, the copy engine takes the sealed slot at the read index of queue q, stores
the new read index and executes the packet; one that breaks the rules is skipped with a packet fault. An address that misses
waits for its walk (R352). -/
def execCopyPacketTake (pkg die q : Nat) (s : State) : Out :=
  .next <|
    let c := getCopyQ s (pkg, die, q)
    let e := copyEng pkg die
    let found := if q < 16 ∧ copyTurn s pkg die q then copySlot s pkg die q else none
    let s := if q < 16 ∧ (getPart s (pkg, c.part)).flr = 0 then queueReads s pkg die q else s
    match found with
    | none => s
    | some (r, b) =>
      let took := servedQ (engineWrite s e c.part (c.base.toNat + 8) (leBytes 8 ((r + 1) % 2 ^ 64))) pkg die q
      let slot := r % 2 ^ c.log2
      let lid := field b 2 2 % 4096
      if (getLaunch s (pkg, lid)).any (·.killed) then cancelPacket took pkg lid
      else match formPacket took e c.part q slot b with
      | .error none => packetFault took pkg die q slot lid false
      | .error (some x) =>
        if x.1 = 0 then noteMiss s e c.part x.2 0 0 0
        else packetFault (dropWalk took e c.part x.2) pkg die q slot lid true
      | .ok j => match launchCopy took j with
        | none => s
        | some (_, s) => s

end Sys2Proof.Machine
end

