-- ==== Sys2Proof/Machine/ChanOps.lean ====
section
/-!
DEFINITION. Machine/ChanOps.lean: the transfer unit of a strait engine: CHW, CHR, DISPATCH, REDUCE, and the packets that
carry records, chunks and contributions (spec/07 R173 to R179, R434; spec/14 R322 to R325; spec/17 R363, R364).
-/
namespace Sys2Proof.Machine

/-- The activation in progress that event place n of engine e names, past the selected ones, when its operator is of a
kind and its set runs. -/
def xunitAt (s : State) (e : Eng) (n kind : Nat) : Option (OpRef × XUnit) :=
  let w := (getEng s e).unit.length
  if n < w then none
  else match (s.xunits.filter fun u => decide (u.eng = e))[n - w]? with
    | none => none
    | some u => match findOp s e u.slot with
      | some r => if opKind r.op = kind ∧ running r.g then some (r, u) else none
      | none => none

/-- The unit has a free entry (R434). -/
def xunitRoom (s : State) (e : Eng) : Bool := decide ((s.xunits.filter fun u => decide (u.eng = e)).length < 64)

/-- Change an activation in progress. -/
def modXUnit (s : State) (id : Nat) (f : XUnit → XUnit) : State :=
  { s with xunits := s.xunits.map fun u => if u.id = id then f u else u }

/-- An activation leaves the unit. -/
def dropXUnit (s : State) (id : Nat) : State := { s with xunits := s.xunits.filter fun u => decide (u.id ≠ id) }

/-- The tokens of an activation in progress. -/
def xunitToks (u : XUnit) : List Token := u.tok :: u.tok2.toList

/-- The activation of a started one. -/
def toXUnit (f : Start) (id : Nat) : XUnit :=
  { id := id, eng := f.r.op.eng, slot := f.q.slot, vrow := f.q.vrow, lid := f.q.lid, tok := (f.toks.head?).getD {},
    tok2 := f.toks[1]?, dest := f.act.dests }

/-- An activation in progress ends: its tokens leave, then its inputs are consumed. -/
def endXUnit (s : State) (r : OpRef) (u : XUnit) (out : List Token) (retire : Bool) : State :=
  if !refsRoom s out then s
  else
    consumeToks (emitToks (dropXUnit s u.id) r u.id u.tok.tag out) r u.id retire (xunitToks u)

/-- An activation that ends at once. -/
def fireXfer (s : State) (f : Start) (out : List Token) : State :=
  let (i, s) := fresh (beginXfer s f)
  consumeToks (emitToks s f.r i f.q.tag out) f.r i true f.toks

/-- An activation goes back to wait in its row (R173, R174, R333). -/
def backToRow (s : State) (f : Start) (held : Option (Nat × Nat)) : State :=
  beginWait (modEng s f.r.op.eng fun x => { x with unit := x.unit.erase f.act }) f.r f.q held true

/-- A signal from a token. -/
def signalFrom (t : Token) : Token := { t with kind := 3, opw := 0, residue := 0, poison := false }

/-- What reading a tile input whole finds before an activation acts: wait, poison, a fault, a mismatch, or its image. -/
inductive TileIn where
  | wait
  | poison
  | fault (x : XErr)
  | bad (x : Nat × Nat)
  | img (bs : List Byte)
  /-- a watch filter holds a chunk of it: the state in which it waits (R401) -/
  | held (s : State)

/-- The filters' hold on a read of a whole tile by an activity, at the first chunk that has one. -/
def tokGate (s : State) (t : Token) (who : Nat) : Option State :=
  (List.range (tokChunks t)).findSome? fun c => chunkGate s (tokTile t) c who t.lid .read

/-- A tile has been read whole by an activity: its words are counted, and what its watch holds let pass is used up. -/
def tokRead (s : State) (t : Token) (who : Nat) : State :=
  watchPassed (countTok s t) who ((List.range (tokChunks t)).flatMap (chunkSectors (getTile s (tokTile t))))

/-- Read a tile token whole for an activity (R64, R378, R388). -/
def readTileTok (s : State) (t : Token) (who : Nat) : TileIn :=
  if !tokReadable s t then .wait
  else match tokGate s t who with
  | some v => .held v
  | none =>
    let bs := tokBursts s t
    if bs.any (·.2) then .poison
    else match bs.find? fun b => burstBad (tokMode t) (tokFmt t) (tokChunks t) b.1.chunk b.1.words with
      | some b => .fault (0x010A, (tokTile t).handle + b.1.chunk * 2 ^ 16)
      | none =>
        match mismatch s t (bs.map (·.1)) with
        | some x => .bad x
        | none => .img (bs.flatMap fun b => b.1.data)

/-- The end of an activation whose tile input cannot be used: the read is counted with the stop (R385). -/
def tileInStop (s : State) (f : Start) (t : Token) (x : TileIn) : State :=
  let room := faultRoom s f.r.op.eng f.toks.length
  let read := tokRead s t f.act.id
  match x with
  | .wait | .img _ => s
  | .held v => v
  | .poison => if room then poisonStart read f else s
  | .fault x => if room then failStart read f x else s
  | .bad x => if room then badStart read f x else s

/-! ### CHW (R173) -/

/-- The record that a token makes: none when a tile is larger. -/
def recordOf (t : Token) (img : List Byte) (n : Nat) : Option (List Byte) :=
  if t.kind = 1 then
    if n < img.length then none
    else some (img ++ absentBytes (tokFmt t) ((n - img.length) / elemBytes (tokFmt t)))
  else
    let bs := leBytes 8 (tokScalar t)
    some (bs ++ List.replicate (n - 8) 0)

/-- The packets of a record to the strait engine of the channel's die, with its residue (R175, R363, R364). fmt is the format of
the row or tile, and 0 for a scalar's record (log 40). -/
def recordPkts (s : State) (src : Coord) (t : Token) (k : ChanKey) (ordinal fmt : Nat) (bs : List Byte) : List Pkt :=
  let c := getChan s k
  let hdr : Token := { t with dst := { eng := ⟨k.1, k.2.1, 0, 25⟩ }, src := src, kind := 4, vc := 2, residue := residueOf bs,
                              opw := BitVec.ofNat 128 (k.2.2 + k.2.1 * 2 ^ 12 + c.rlog * 2 ^ 14 + ordinal * 2 ^ 18) }
  (recParts c).map fun p =>
    { hdr := hdr, body := .channelWrite k.2.1 k.2.2 ordinal c.rlog p fmt ((bs.drop (512 * p)).take 4096) }

/-- A packet that stays on its package comes to its die's strait engine. -/
def landLocal (s : State) (p : Pkt) : State :=
  let (i, s) := fresh s
  { s with inbox := s.inbox ++ [{ p with id := i }] }

/-- Number the writer's next record and send its packets; none when no route leads to the channel, or its strait engine takes no
packet now (R369). Its place is reserved where
the channel is (R364). -/
def sendRecord (s : State) (src : Coord) (t : Token) (k : ChanKey) (fmt : Nat) (bs : List Byte) : Option State :=
  let ps := recordPkts s src t k (getChan s k).sent fmt bs
  let s := modChan s k fun c => { c with sent := (c.sent + 1) % 2 ^ 32 }
  if k.1 = src.eng.pkg then some (ps.foldl landLocal s)
  else ((egress s src.eng k.1).filter fun e => ps.all (straitRoom s e)).map fun e => ps.foldl (fun s p => sendPkt s e p) s

/-- The format of a token's record. -/
def recFmt (t : Token) : Nat := if t.kind = 1 then tokFmt t else 0

/-- A CHW writes its record in a channel of its package: the signal leaves once it is in the channel. -/
def writeLocal (s : State) (f : Start) (k : ChanKey) (bs : List Byte) : State :=
  let t := (f.toks.head?).getD {}
  match writePlace s k with
  | .full => backToRow s f none
  | .quota a n => backToRow s f (some (a, n))
  | .ok seg pos s' =>
    let q : Rec := { seg := seg, pos := pos }
    if !recGrants s k q then s
    else match recGate s f.r.op.eng.pkg k q f.act.id f.q.lid .write with
      | some v => v
      | none =>
        let s' := watchPassed s' f.act.id (recSectors s k (getChan s k) q)
        let s' := if t.kind = 1 then tokRead s' t f.act.id else s'
        let ord := (getChan s' k).wrec
        fireXfer (landRec (reserveRec s' k seg pos (residueOf bs) false f.q.lid) k ord bs) f (toPort f.r 0 (signalFrom t))

/-- A CHW sends its record to a channel on another package that can take it, and is in progress until it is in the channel. -/
def writeRemote (s : State) (f : Start) (k : ChanKey) (bs : List Byte) : State :=
  let t := (f.toks.head?).getD {}
  if creditOf s k = 0 then backToRow s f none
  else match sendRecord s (opCoord f.r.op) t k (recFmt t) bs with
    | none => s
    | some s' =>
      let s' := if t.kind = 1 then tokRead s' t f.act.id else s'
      let (i, s') := fresh (beginXfer s' f)
      { s' with xunits := s'.xunits ++ [{ toXUnit f i with phase := 1, sent := some (k, (getChan s k).sent) }] }

/-- The channel a CHW writes admits its record. -/
def writeRecord (s : State) (f : Start) (k : ChanKey) (bs : List Byte) : State :=
  if k.1 = f.r.op.eng.pkg then writeLocal s f k bs else writeRemote s f k bs

/-- The record with an ordinal has its place, or has been taken. -/
def placed (c : Chan) (ord : Nat) : Bool := decide ((c.wrec + 2 ^ 32 - 1 - ord) % 2 ^ 32 < 2 ^ 31)

/-- The record with an ordinal is in its channel, or has been taken; or the channel has been freed. -/
def recLanded (s : State) (k : ChanKey) (ord : Nat) : Bool :=
  let c := getChan s k
  decide (c.state = 0) || (placed c ord && c.recs.all fun r => decide (r.ordinal ≠ ord) || r.ready)

/-- CHW (R173): the activation at place n writes its record. A place past the selected activations names one whose
record was on its way to another package. -/
def execChw (e : Eng) (n : Nat) (s : State) : Out :=
  .next <|
    match xunitAt s e n 0x1C with
    | some (r, u) =>
      match u.sent with
      | some (k, ord) => if recLanded s k ord then endXUnit s r u (toPort r 0 (signalFrom u.tok)) true else s
      | none => s
    | none =>
      match xferAt s e n 0x1C with
      | none => s
      | some f =>
        let t := (f.toks.head?).getD {}
        if !xunitRoom s e then s
        else if t.poison then poisonStart s f
        else
          match (if t.kind = 1 then readTileTok s t f.act.id
                 else match mismatch s t [] with | some x => .bad x | none => .img []) with
          | .img img =>
            match chanOfWriter s (opCoord f.r.op) with
            | none => failStart s f (0x0113, 0)
            | some k =>
              let c := getChan s k
              if c.state ≠ 1 then failStart s f (0x0113, chanId k)
              else match recordOf t img (recBytes c) with
                | none => failStart s f (0x010C, (tokTile t).handle)
                | some bs => writeRecord s f k bs
          | x => tileInStop s f t x

/-! ### CHR (R174) -/

/-- The reader takes the oldest record. -/
def takeRec (s : State) (k : ChanKey) : State := modChan s k readTake

/-- The packets of a tile image to an operator on another package: chunk writes of at most 8 bursts (R363, R364). -/
def imagePkts (s : State) (src : Eng) (dst : Coord) (t : Token) (id : TileId) (img : List Byte) : List Pkt :=
  let x := getTile s id
  let n := tileChunks x
  (List.range (cdiv n 8)).map fun p =>
    { hdr := { t with dst := dst, src := { eng := src }, kind := 1, vc := 2, residue := residueOf img, poison := false,
                      opw := tileOpw id x.rows x.cols x.fmt 0 }
      body := .chunkWrite id (8 * p) ((List.range (Nat.min 8 (n - 8 * p))).map fun j =>
        { chunk := 8 * p + j, words := plainWords x (8 * p + j), data := chunkOf img (8 * p + j) }) }

/-- The packet of a record's first sector to the CHR activation of a name on another package (R363). -/
def scalarPkt (src : Eng) (dst : Coord) (t : Token) (name : Nat) (bs : List Byte) : Pkt :=
  { hdr := { t with dst := dst, src := { eng := src }, kind := 3, vc := 2, residue := 0, poison := false,
                    opw := BitVec.ofNat 128 name }
    body := .readResponse name (bs.take 64) false false }

/-- A CHR reads a record that it takes as a scalar: its first eight bytes, or the record's first sector on its way from the
channel's die (R321; log 146). -/
def chrScalar (s : State) (f : Start) (k : ChanKey) (bs : List Byte) (out : Option Eng) : State :=
  let t := (f.toks.head?).getD {}
  match out with
  | none =>
    fireXfer s f (toPort f.r 0 { t with kind := 2, opw := BitVec.ofNat 128 (leNat (bs.take 8)), residue := residueOf (bs.take 8),
                                        poison := false })
  | some e =>
    let (i, s) := fresh (beginXfer s f)
    sendPkt { s with xunits := s.xunits ++ [{ toXUnit f i with phase := 2 }] } e
      (scalarPkt ⟨k.1, k.2.1, 0, 25⟩ (opCoord f.r.op) t i bs)

/-- A CHR fills its destination from a record that it takes, in place or by chunk writes from the channel's die (R174, R321). -/
def chrTile (s : State) (f : Start) (k : ChanKey) (id : TileId) (img : List Byte) (out : Option Eng) : State :=
  let t := (f.toks.head?).getD {}
  let (i, s) := fresh (beginXfer s f)
  let s := { s with xunits := s.xunits ++ [{ toXUnit f i with phase := 1, counts := [residueOf img] }] }
  match out with
  | none => beginImage s id 4 t.lid (opCoord f.r.op) t.tag img (plainScale (getTile s id))
  | some e => (imagePkts s ⟨k.1, k.2.1, 0, 25⟩ (opCoord f.r.op) t id img).foldl (fun s p => sendPkt s e p) s

/-- A CHR acts on the record that it takes. It waits for a slot of the record's owners, for its watch holds, and, for a channel
on another package, for a route from there. -/
def chrTake (s : State) (f : Start) (k : ChanKey) (q : Rec) : State :=
  let r := f.r
  let d := readRecBytes s k q
  let far : Bool := k.1 ≠ r.op.eng.pkg
  let out := if far then (egress s ⟨k.1, k.2.1, 0, 25⟩ r.op.eng.pkg).filter (straitRoom s · {}) else none
  if !recGrants s k q ∨ (far ∧ out.isNone) then s
  else match recGate s r.op.eng.pkg k q f.act.id f.q.lid .read with
  | some v => v
  | none =>
    let room := faultRoom s r.op.eng f.toks.length
    let took := takeRec (watchPassed (countRec s k q) f.act.id (recSectors s k (getChan s k) q)) k
    if d.2 || q.poison then if room then poisonStart took f else s
    else if !residueEq q.residue (residueOf d.1) then
      if room then badStart took f (q.residue, residueOf d.1) else s
    else if bit (opCfg r.op 0) 64 then chrScalar took f k d.1 out
    else match f.act.dests with
      | [] => backToRow s f none
      | id :: _ =>
        let x := getTile s id
        if recBytes (getChan s k) < tileBytes x then failStart s f (0x010C, id.handle)
        else match imageRefused s id with
          | some c => failStart s f (0x0109, stateTval id c)
          | none => chrTile took f k id (d.1.take (tileBytes x)) out

/-- The tile token of an activation in progress whose destination is FULL. -/
def xunitTile (s : State) (u : XUnit) (id : TileId) (residue : Nat) : Token :=
  let x := getTile s id
  { u.tok with kind := 1, opw := tileOpw id x.rows x.cols x.fmt 0, residue := residue, poison := false }

/-- The scalar token of an activation in progress whose scalar has come. -/
def xunitScalar (u : XUnit) : Token :=
  let v := (u.counts.head?).getD 0
  { u.tok with kind := 2, opw := BitVec.ofNat 128 v, residue := residueOf (leBytes 8 v), poison := false }

/-- CHR (R174): the activation at place n takes a record, or signals the end of the stream. A place past the selected
activations names one whose tile is being written. -/
def execChr (e : Eng) (n : Nat) (s : State) : Out :=
  .next <|
    match xunitAt s e n 0x1B with
    | some (r, u) =>
      if u.phase = 3 then endXUnit s r u (toPort r 0 (xunitScalar u)) true
      else match u.dest with
      | id :: _ =>
        if u.phase = 1 ∧ tileFull s id then
          endXUnit s r u (toPort r 0 (xunitTile s u id ((u.counts.head?).getD 0))) true
        else s
      | [] => s
    | none =>
      match xferAt s e n 0x1B with
      | none => s
      | some f =>
        if !xunitRoom s e then s
        else if f.toks.any (·.poison) then poisonStart s f
        else match scalarBad s f with
          | some x => badStart s f x
          | none =>
            match chanOfReader s (opCoord f.r.op) with
            | none => failStart s f (0x0113, 0)
            | some k =>
              match headRec (getChan s k) with
              | some q => chrTake s f k q
              | none =>
                if (getChan s k).recs.isEmpty ∧ (getChan s k).state = 2 then
                  if opNout f.r.op = 2 then
                    fireXfer (freeDests s f.act.dests) f (toPort f.r 1 (signalFrom ((f.toks.head?).getD {})))
                  else failStart s f (0x0113, chanId k)
                else backToRow (freeDests s f.act.dests) f none

/-! ### DISPATCH (R175, R176, R325) -/

/-- The name hashes of a DISPATCH's destinations (R162). -/
def dispatchNames (o : Op) : List Nat :=
  (List.range (bits (opCfg o 0) 5 0 + 1)).map fun m => bits (opCfg o (1 + m / 8)) (32 * (m % 8) + 31) (32 * (m % 8))

/-- The channels of a DISPATCH, when every one is attached. -/
def dispatchChans (s : State) (o : Op) : Option (List ChanKey) :=
  (dispatchNames o).mapM fun h => chanOfDispatch s (opCoord o) h

/-- Destination choice m of a route row: none when absent. -/
def routeAt (fmt cols : Nat) (img : List Byte) (row m : Nat) : Option Int :=
  if cols ≤ m then none else gatherIdx fmt img (row * cols + m)

/-- The faults of a DISPATCH activation (R175). -/
def dispatchFault (s : State) (f : Start) (route : List Byte) : Option XErr :=
  let l := f.q.l.getD {}
  let t := f.q.r.getD {}
  let names := dispatchNames f.r.op
  let shape : XErr := (0x010C, 0)
  if tokFmt l ≠ opType f.r.op then some (0x010B, tokFmt l)
  else if (tokFmt t ≠ 8 ∧ tokFmt t ≠ 0xA ∧ tokFmt t ≠ 0xB) ∨ tokMode t ≠ 0 then some (0x010B, tokFmt t)
  else if tokRows t ≠ tokRows l ∨ 2 < tokCols t then some shape
  else if (List.range (tokRows t * tokCols t)).any (fun i =>
      ((gatherIdx (tokFmt t) route i).map fun k : Int => decide (k < 0) || decide ((names.length : Int) ≤ k)).getD false) then
    some shape
  else match dispatchChans s f.r.op with
    | none => some (0x0113, 0)
    | some ks =>
      if ks.any fun k => decide (recBytes (getChan s k) ≠ tokCols l * elemBytes (tokFmt l)) then some shape else none

/-- The credit that a DISPATCH's engine holds for a channel: never more than the true number (R325). -/
def heldCredit (s : State) (k : ChanKey) : Nat := Nat.min (getChan s k).credit (creditOf s k)

/-- An earlier activation of the operator still places rows (R434). -/
def dispatchBehind (s : State) (u : XUnit) : Bool :=
  (s.xunits.takeWhile fun v => decide (v.id ≠ u.id)).any fun v =>
    decide (v.eng = u.eng) && decide (v.slot = u.slot) && decide (v.phase = 0)

/-- The state after a row of u has been placed or passed over, with its report entry. -/
def rowDone (s : State) (u : XUnit) (rep : Nat) (d : Option Nat) : State :=
  modXUnit s u.id fun u =>
    { u with row := u.row + 1, report := u.report ++ [rep],
             counts := match d with | some m => lmod m (· + 1) u.counts | none => u.counts }

/-- Send a row to destination d as a record, fb for the second choice, and spend a credit (R175). -/
def placeRow (s : State) (r : OpRef) (u : XUnit) (ks : List ChanKey) (bs : List Byte) (d : Nat) (fb : Bool) : State :=
  match ks[d]? with
  | none => s
  | some k =>
    let have_ := heldCredit s k
    match sendRecord s (opCoord r.op) u.tok k (tokFmt u.tok) bs with
    | none => s
    | some s' =>
      rowDone (modChan s' k fun c => { c with credit := if have_ = noLimit then noLimit else have_ - 1 }) u
        (d + 256 * b2n fb) (some d)

/-- dispatch_run's choice for the next row of u. -/
def dispatchRow (s : State) (r : OpRef) (u : XUnit) (ks : List ChanKey) : State :=
  let l := u.tok
  let t := u.tok2.getD {}
  let bs := imgRow u.img (tokCols l) (elemBytes (tokFmt l)) u.row
  let credit := fun d : Int => ((ks[d.toNat]?).map (heldCredit s)).getD 0
  match routeAt (tokFmt t) (tokCols t) u.route u.row 0 with
  | none => rowDone s u 0xFFFF none
  | some c0 =>
    if 0 < credit c0 then placeRow s r u ks bs c0.toNat false
    else match routeAt (tokFmt t) (tokCols t) u.route u.row 1 with
      | none => s
      | some c1 => if 0 < credit c1 then placeRow s r u ks bs c1.toNat true else s

/-- Every row has been sent: the reads of both tiles retire and the report and count tiles are written. -/
def dispatchSent (s : State) (r : OpRef) (u : XUnit) : State :=
  let n16 := fun l : List Nat => l.flatMap (leBytes 2)
  let imgs := [n16 u.report, n16 u.counts]
  match u.dest.findSome? fun id => (imageRefused s id).map fun c => stateTval id c with
  | some v =>
    if faultRoom s u.eng (xunitToks u).length then
      opFault (freeDests (dropXUnit s u.id) u.dest) r u.vrow (xunitToks u) 0x0109 v
    else s
  | none =>
  let s := { s with retires := s.retires ++ ((xunitToks u).filter (·.kind = 1)).map fun t => { tile := tokTile t } }
  let s := (u.dest.zip imgs).foldl
    (fun s d => beginImage s d.1 4 u.lid (opCoord r.op) u.tok.tag d.2 (plainScale (getTile s d.1))) s
  modXUnit s u.id fun u => { u with phase := 1, counts := imgs.map residueOf }

/-- DISPATCH (R175): the activation at place n starts; past the selected ones, an activation in progress places its next
row, writes its report when all are sent, and emits it. -/
def execDispatch (e : Eng) (n : Nat) (s : State) : Out :=
  .next <|
    match xunitAt s e n 0x1D with
    | some (r, u) =>
      if dispatchBehind s u then s
      else if u.phase = 0 then
        if tokRows u.tok ≤ u.row then dispatchSent s r u
        else match dispatchChans s r.op with
          | none => s
          | some ks => dispatchRow s r u ks
      else if !u.dest.all (tileFull s) then s
      else
        let out := ((u.dest.zip u.counts).zipIdx).flatMap fun d => toPort r d.2 (xunitTile s u d.1.1 d.1.2)
        endXUnit s r u out false
    | none =>
      match xferAt s e n 0x1D with
      | none => s
      | some f =>
        if !xunitRoom s e then s
        else if f.toks.any (·.poison) then poisonStart s f
        else match readTileTok s (f.q.l.getD {}) f.act.id, readTileTok s (f.q.r.getD {}) f.act.id with
          | .img img, .img route =>
            match dispatchFault s f route with
            | some x => failStart s f x
            | none =>
              let s := tokRead (tokRead s (f.q.l.getD {}) f.act.id) (f.q.r.getD {}) f.act.id
              let (i, s) := fresh (beginXfer s f)
              { s with xunits := s.xunits ++
                  [{ toXUnit f i with img := img, route := route,
                                      counts := List.replicate (bits (opCfg f.r.op 0) 5 0 + 1) 0 }] }
          | .img _, x => tileInStop s f (f.q.r.getD {}) x
          | x, _ => tileInStop s f (f.q.l.getD {}) x

/-- DISPATCH_CREDIT_UPDATE (R325): the channel controller sends the writer's engine the true credit when it is higher
than the one it holds. -/
def execDispatchCreditUpdate (pkg die idx : Nat) (s : State) : Out :=
  .next <|
    let k : ChanKey := (pkg, die, idx)
    let c := getChan s k
    let isOp := match c.wep with | .op _ _ => true | _ => false
    if decide (c.state = 1) && isOp && decide (c.credit < creditOf s k) then setChan s k { c with credit := creditOf s k }
    else s

/-! ### REDUCE (R178, R179) -/

/-- The packages of the other members of a package's group (R178). -/
def groupPeers (s : State) (pkg g : Nat) : List Nat :=
  ((s.groups.filter fun x => decide (x.1.2 = g) && x.2.bound && decide (x.1.1 ≠ pkg) && sameDomain s pkg x.1.1).map (·.1.1))

/-- A contribution joins its group at a member's package. -/
def addContrib (s : State) (pkg g : Nat) (c : Contrib) : State :=
  modGroup s (pkg, g) fun x => { x with contribs := x.contribs ++ [c] }

/-- The member contributes while an earlier contribution of it under the tag has no result yet (R178). -/
def contributesTwice (s : State) (pkg g : Nat) (tag : Word) : Bool :=
  s.xunits.any fun u => decide (u.eng.pkg = pkg) && decide (u.reduce = some g) && decide (u.tok.tag = tag) &&
    decide (u.phase = 0)

/-- Send a packet of an engine to each of some packages: none while one of them has no route. -/
def sendAll (s : State) (src : Eng) (p : Nat → Pkt) : List Nat → Option State
  | [] => some s
  | q :: qs => ((egress s src q).filter (straitRoom s · (p q))).bind fun e => sendAll (sendPkt s e (p q)) src p qs

/-- A contribution goes to every member: at once on its own package, to the others as packets of op 0x5 (R376). Every member
forms the tree of R179 over the same contributions (DEDUCED, log 47: the result does not depend on the physical tree). -/
def sendContrib (s : State) (o : Op) (t : Token) (g : Nat) (c : Contrib) : Option State :=
  let hdr : Token := { t with src := opCoord o, kind := 5, vc := 2,
                              opw := BitVec.ofNat 128 (g + c.rank * 2 ^ 8 + c.op * 2 ^ 18 + c.fmt * 2 ^ 20) }
  (sendAll s o.eng (fun q => { hdr := { hdr with dst := { eng := ⟨q, 0, 0, 25⟩ } }, body := .reduce g c })
    (groupPeers s o.eng.pkg g)).map fun s => addContrib s o.eng.pkg g c

/-- REDUCE (R178): the activation at place n contributes its tile and waits; past the selected ones, an activation whose
result is FULL emits it. -/
def execReduce (e : Eng) (n : Nat) (s : State) : Out :=
  .next <|
    match xunitAt s e n 0x1E with
    | some (r, u) =>
      match u.dest with
      | id :: _ =>
        if u.phase = 1 ∧ tileFull s id then endXUnit s r u (toPort r 0 (xunitTile s u id ((u.counts.head?).getD 0))) true
        else s
      | [] => s
    | none =>
      match xferAt s e n 0x1E with
      | none => s
      | some f =>
        let t := f.q.l.getD {}
        let c0 := opCfg f.r.op 0
        let g := bits c0 39 32
        if !xunitRoom s e then s
        else if t.poison then poisonStart s f
        else if tokFmt t ≠ opType f.r.op then failStart s f (0x010B, tokFmt t)
        else if f.act.dests.isEmpty then failStart s f (0x010C, 0)
        else if contributesTwice s e.pkg g t.tag then failStart s f (0x010C, (tokTile t).handle)
        else match readTileTok s t f.act.id with
          | .img img =>
            let c : Contrib := { rank := (getGroup s (e.pkg, g)).rank, tag := t.tag, rows := tokRows t, cols := tokCols t,
                                 fmt := tokFmt t, op := bits c0 41 40, data := img }
            match sendContrib s f.r.op t g c with
            | none => s
            | some s' =>
              let (i, s') := fresh (beginXfer (tokRead s' t f.act.id) f)
              { s' with xunits := s'.xunits ++ [{ toXUnit f i with reduce := some g }] }
          | x => tileInStop s f t x

/-- The node of the tree of an operation (R179): 0 sum, 1 min, 2 max. -/
def reduceComb (fmt op : Nat) (x y : Fl Val) : Fl Val :=
  if op = 0 then sumComb (typeClass fmt) x y else (pickVal (decide (op = 2)) x.1 y.1, x.2 ||| y.2)

/-- The result at each position over the contributions in rank order: bytes and flags. -/
def reduceResult (cs : List Contrib) : List Byte × Nat :=
  match cs with
  | [] => ([], 0)
  | c :: _ =>
    let n := elemBytes c.fmt
    (List.range (c.rows * c.cols)).foldl (fun (o : List Byte × Nat) i =>
      let leaves := cs.map fun x => (decodeElem c.fmt (leNat (imgElem x.data n i)), 0)
      let r := ((treeK (reduceComb c.fmt c.op) 10 leaves).head?).getD (.absent, 0)
      let b := roundVal c.fmt .rne false false r.1
      (o.1 ++ leBytes n b.1, o.2 ||| r.2 ||| b.2)) ([], 0)

/-- The contributions that a member's package has under a tag, in rank order, when every member has contributed. -/
def fullRound (s : State) (pkg g : Nat) (tag : Word) : Option (List Contrib) :=
  let x := getGroup s (pkg, g)
  (List.range x.n).mapM fun r => x.contribs.find? fun c => decide (c.rank = r) && decide (c.tag = tag)

/-- The contributions agree in shape and format and are at most 256 bytes (R178). -/
def contribsAgree (cs : List Contrib) : Bool :=
  match cs with
  | [] => true
  | c :: _ => decide (c.data.length ≤ 256) &&
      cs.all fun x => decide (x.rows = c.rows) && decide (x.cols = c.cols) && decide (x.fmt = c.fmt)

/-- A member of a completed round: its result is written, or it raises the shape fault. -/
def reduceMember (cs : List Contrib) (s : State) (u : XUnit) : State :=
  match findOp s u.eng u.slot, u.dest with
  | some r, id :: _ =>
    if contribsAgree cs then
      match imageRefused s id with
      | some c => opFault (freeDests (dropXUnit s u.id) [id]) r u.vrow (xunitToks u) 0x0109 (stateTval id c)
      | none =>
      let o := reduceResult cs
      let s := beginImage (setFlags s u.eng u.slot o.2) id 4 u.lid (opCoord r.op) u.tok.tag o.1 (plainScale (getTile s id))
      modXUnit s u.id fun u => { u with phase := 1, counts := [residueOf o.1] }
    else opFault (freeDests (dropXUnit s u.id) [id]) r u.vrow (xunitToks u) 0x010C id.handle
  | _, _ => s

/-- A package that holds every contribution of a group under a tag ends its member's activation with the result, or with the
shape fault (R178, R179). -/
def reduceAt (g : Nat) (tag : Word) (s : State) (pkg : Nat) : State :=
  match fullRound s pkg g tag with
  | none => s
  | some cs =>
    let us := s.xunits.filter fun u => decide (u.eng.pkg = pkg) && decide (u.reduce = some g) && decide (u.tok.tag = tag) &&
      decide (u.phase = 0)
    if us.any fun u => !faultRoom s u.eng 1 then s
    else us.foldl (reduceMember cs)
      (modGroup s (pkg, g) fun x => { x with contribs := x.contribs.filter fun c => decide (c.tag ≠ tag) })

/-- REDUCE_COMPLETE (R178, R179): every member of a group has contributed under a tag, so the tree result is written to each
member's destination, or every member raises the shape fault. -/
def execReduceComplete (group : Nat) (tag : Word) (s : State) : Out :=
  .next <| ((s.groups.filter fun x => decide (x.1.2 = group) && x.2.bound).map (·.1.1)).foldl (reduceAt group tag) s

/-! ### Packets that land (R363, R364) -/

/-- REDUCE_CONTRIBUTION (R376): a contribution of packet n of the inbox joins its group. -/
def execReduceContribution (n : Nat) (s : State) : Out :=
  .next <|
    match inboxAt s n with
    | some p => match p.body with
      | .reduce g c => addContrib (dropInbox s n) p.hdr.dst.eng.pkg g c
      | _ => s
    | none => s

/-- The writer of a channel is the operator and launch that sent a packet. -/
def sentByWriter (c : Chan) (p : Pkt) : Bool :=
  isOpEnd c.wep p.hdr.src && match c.wep with
    | .op _ l => decide (l = p.hdr.lid)
    | _ => false

/-- The bytes of packet n are performed at the place of their record, in slots of its owners and once no watch filter holds
them. -/
def landWrite (s : State) (n : Nat) (p : Pkt) (k : ChanKey) (ord chunk : Nat) (bs : List Byte) : State :=
  match (getChan s k).recs.find? (·.ordinal = ord) with
  | none => dropInbox s n
  | some r =>
    if !recGrants s k r then s
    else match recGate s p.hdr.src.eng.pkg k r p.id p.hdr.lid .write with
      | some v => v
      | none => landPart (watchPassed (dropInbox s n) p.id (recSectors s k (getChan s k) r)) k ord chunk bs

/-- The record of packet n, next in its writer's order, reserves its place (R322). It waits while the channel is full, and a
QUOTA report of its operator holds it (R173, R333). -/
def placeWrite (s : State) (n : Nat) (p : Pkt) (k : ChanKey) (ord chunk : Nat) (bs : List Byte) : State :=
  match writePlace s k with
  | .full => modChan s k fun c => { c with full := true }
  | .quota a b =>
    raiseAt (breach { s with inbox := lmod n (fun q => { q with held := true }) s.inbox } k.1 p.hdr.part a) p.hdr.src p.hdr.part
      p.hdr.lid 0x0202 (quotaTval a b) p.hdr.tag (.request p.id)
  | .ok seg pos s' => landWrite (reserveRec s' k seg pos p.hdr.residue false p.hdr.lid) n p k ord chunk bs

/-- CHANNEL_WRITE (R364): the channel controller places the record of packet n of the inbox by its ordinal, and performs the
packet's bytes there by their chunk index. A record without a place whose writer is gone is discarded (R326). -/
def execChannelWrite (n : Nat) (s : State) : Out :=
  .next <|
    match inboxAt s n with
    | some p => match p.body with
      | .channelWrite die idx ord _ c _ bs =>
        let k : ChanKey := (p.hdr.dst.eng.pkg, die, idx)
        if p.held then s
        else if placed (getChan s k) ord then landWrite s n p k ord c bs
        else if (getChan s k).state = 0 ∨ !sentByWriter (getChan s k) p then dropInbox s n
        else if ord ≠ (getChan s k).wrec then s
        else placeWrite s n p k ord c bs
      | _ => s
    | none => s

/-- One chunk burst of a chunk write reaches its tile; a refused chunk raises tile-state (R32). -/
def landChunk (p : Pkt) (id : TileId) (s : State) (b : Burst) : State :=
  let t := getTile s id
  let n := Nat.min 512 (tileBytes t - 512 * b.chunk)
  if t.state = 0 ∨ tileChunks t ≤ b.chunk ∨ chunkRefused t b.chunk then
    raiseTok s p.hdr p.hdr.dst 0x0109 (id.handle + id.die * 2 ^ 16 + b.chunk * 2 ^ 18)
  else beginChunk s id b.chunk 4 p.hdr.lid p.hdr.src p.hdr.tag (b.data.take n) (if isScaled t.fmt then scaleArea b.words else [])

/-- CHUNK_WRITE (R363): packet n of the inbox delivers chunk bursts of a tile. -/
def execChunkWrite (n : Nat) (s : State) : Out :=
  .next <|
    match inboxAt s n with
    | some p => match p.body with
      | .chunkWrite id _ bursts => bursts.foldl (landChunk p id) (dropInbox s n)
      | _ => s
    | none => s

end Sys2Proof.Machine
end

