-- ==== Sys2Proof/Machine/DevBase.lean ====
section
/-!
DEFINITION. Machine/DevBase.lean: what the device instructions share: their memory operands, their three classes and
their lookups (spec/11 R233 to R237).
-/
namespace Sys2Proof.Machine

/-- The partition of the current thread. -/
def curPart (s : State) : Nat := (curThr s).part

/-- A memory operand of a device instruction (R236): its alignment, then its translation, then the core's watch filter (R401);
the cause and address of the first failure. -/
def opRange (s : State) (acc : Acc) (va : Word) (n : Nat) : Except (Nat × Word) (List (Target × Nat)) :=
  if va.toNat % 8 ≠ 0 then .error (0x0002, va)
  else match translateRange s (ccEng s.cur.pkg s.cur.die) (curPart s) .cc acc va.toNat n with
    | .error (f, a) => .error (dataCause f, BitVec.ofNat 64 a)
    | .ok ps => if ccWatch s s.cur acc va.toNat n then .error (0x000E, va) else .ok ps

/-- The precise data trap of a device instruction's operand (R236, R401). -/
def opTrap (s : State) (x : Nat × Word) : State :=
  if x.1 = 0x000E then watchTrap s s.cur .read x.2 (curThr s).pc else accessTrap s x.1 x.2

/-- Earlier loads, stores and atomics of the thread are not all performed: an instruction that reads memory or releases
waits (R236, R237). -/
def devWaits (s : State) : Bool := !quietThread (curThr s)

/-- An async instruction waits at issue while four are outstanding (R235). -/
def asyncFull (s : State) : Bool := decide (4 ≤ (curThr s).asyncs.length)

/-- An async instruction issues: rd's scoreboard bit is set and the thread goes on (R235). -/
def asyncIssue (s : State) (rd : RegNo) (w : AsyncWait) : State :=
  modCur s fun th => advance (sbSet { th with asyncs := th.asyncs ++ [{ rd := rd, wait := w }] } rd)

/-- An async instruction whose result is known. -/
def asyncDone (s : State) (rd : RegNo) (v : Word) : State := asyncIssue s rd (.ready v)

/-- A blocking instruction: it completes at once, or the thread stops issuing (R235). -/
def blockOn (s : State) (i : Instr) (r : Option State) : State :=
  match r with
  | some s => s
  | none => modCur s fun th => { th with wait := some i }

/-- The graph that a register names, for the thread's partition: 0x04 and 0x0A of R234. -/
def graphArg (s : State) (v : Nat) : Except Word Graph :=
  if 256 ≤ v then .error (errWord 0x04)
  else match getGraph s (s.cur.pkg, v) with
    | none => .error (errWord 0x04)
    | some g => if g.part ≠ curPart s then .error (errWord 0x0A) else .ok g

/-- The live channel that an id names, for the thread's partition (R234, R255). -/
def chanArg (s : State) (v : Nat) : Except Word ChanKey :=
  let k : ChanKey := (s.cur.pkg, bits v 13 12, bits v 11 0)
  if 2 ^ 14 ≤ v then .error (errWord 0x02)
  else if (getChan s k).state = 0 then .error (errWord 0x04)
  else if (getChan s k).part ≠ curPart s then .error (errWord 0x0A)
  else .ok k

/-- The first refusal of a list of checks. -/
def firstErr (l : List (Option Word)) : Option Word := l.findSome? id

/-- A check that refuses when its condition holds. -/
def refuseIf (c : Bool) (w : Word) : Option Word := if c then some w else none

/-- The launch is live on the package and of the thread's partition. -/
def launchArg (s : State) (v : Nat) : Except Word Launch :=
  if v = 0 ∨ 4096 ≤ v then .error (errWord 0x04)
  else match getLaunch s (s.cur.pkg, v) with
    | none => .error (errWord 0x04)
    | some l => if l.part ≠ curPart s then .error (errWord 0x0A) else .ok l

end Sys2Proof.Machine
end

