-- ==== Sys2Proof/Machine/Load.lean ====
section
/-!
DEFINITION. Machine/Load.lean: GLOAD and GFREE: the image, its checks, placement and the commit (spec/04 R85, R92 to R95,
R100, R107 to R110; spec/05 R115, R117, R132; spec/06 R140, R143, R144; spec/07 R162, R176; spec/11 R238, R239; spec/12
R271 to R274; spec/13 R296; spec/14 R317, R318).
-/
namespace Sys2Proof.Machine

/-! ### The image (R85, R107, R108) -/

/-- An image in memory: its bytes from the header on, and the 13 sections after the header: offset and size. -/
structure Image where
  bs : List Byte
  secs : List (Nat × Nat)

/-- Section k of R85, the header being 0. -/
def Image.sec (i : Image) (k : Nat) : Nat × Nat := (i.secs[k - 1]?).getD (0, 0)
/-- n bytes at an image offset. -/
def Image.at (i : Image) (o n : Nat) : List Byte := (i.bs.drop o).take n
/-- A little-endian number of n bytes at an image offset. -/
def Image.num (i : Image) (o n : Nat) : Nat := leNat (i.at o n)
/-- n bytes at an offset lie inside a section. -/
def Image.inSec (i : Image) (k o n : Nat) : Bool := decide ((i.sec k).1 ≤ o) && decide (o + n ≤ (i.sec k).1 + (i.sec k).2)

/-- A record refused (R110, R234): section and record index. -/
def recRefuse (sec idx : Nat) : Word := errWord 0x07 (sec * 2 ^ 40 + idx)

/-- The sections that a header names. -/
def headerSecs (hdr : List Byte) : List (Nat × Nat) := (List.range 13).map fun k => (field hdr (8 + 8 * k) 4, field hdr (12 + 8 * k) 4)

/-- Bytes of the image: the header and every section (DEDUCED, log 45: no field gives the size). -/
def imageBytes (secs : List (Nat × Nat)) : Nat := (secs.map fun x => if x.2 = 0 then 0 else x.1 + x.2).foldl Nat.max 128

/-- The checks of the header (R107, R110): magic, version, zero bytes, then the stepping. A section that is not empty and lies
inside the header is refused as well, as record 0 of section 0: no rule lists that refusal, and it is the model's choice
(log 43). -/
def headerRefuse (hdr : List Byte) (stepping : Nat) : Option Word :=
  firstErr [
    refuseIf (decide (field hdr 0 4 ≠ 0x4934445A) || decide (field hdr 4 2 ≠ 1) || decide (field hdr 112 16 ≠ 0)) (recRefuse 0 0),
    refuseIf (decide (field hdr 6 2 ≠ stepping)) (errWord 0x08 (field hdr 6 2)),
    refuseIf ((headerSecs hdr).any fun x => decide (x.2 ≠ 0) && (decide (x.1 < 128) || decide (2 ^ 32 < x.1 + x.2))) (recRefuse 0 0)]

/-- A graph descriptor (R108). -/
structure Desc where
  nd : Nat
  rows : Nat
  cols : Nat
  nreg : Nat
  nops : Nat
  ntile : Nat
  nchan : Nat
  ncont : Nat
  nshape : Nat
  offs : List Nat
  blocks : Nat

/-- Read the descriptor at an image offset. -/
def readDesc (i : Image) (o : Nat) : Desc :=
  let p := i.num o 1
  { nd := bits p 1 0 + 1, rows := bits p 3 2 + 1, cols := bits p 5 4 + 1, nreg := i.num (o + 1) 1 + 1,
    nops := i.num (o + 2) 2, ntile := i.num (o + 4) 2, nchan := i.num (o + 6) 2, ncont := i.num (o + 8) 2,
    nshape := i.num (o + 10) 1, offs := (List.range 7).map fun k => i.num (o + 16 + 4 * k) 4, blocks := i.num (o + 44) 4 }

/-- Table k of a descriptor. -/
def Desc.off (d : Desc) (k : Nat) : Nat := (d.offs[k]?).getD 0

/-- The words of a descriptor's operator entries. -/
def Desc.words (d : Desc) (i : Image) : List Nat := (List.range d.nops).map fun k => i.num (d.off 0 + 64 * k) 32

/-- The checks of the descriptor (R108, R110). One that does not stand at a multiple of 64 in gdesc is refused too (R85; log 135).
The edge table's offset and the blocks base must lie in their sections; a graph that has no edge table or no VBLOCK may give 0. -/
def descRefuse (i : Image) (o : Nat) : Option Word :=
  let g := i.sec 1
  let d := readDesc i o
  let base := fun (sec off n : Nat) (used : Bool) => !(if used then i.inSec sec off n else decide (off = 0) || i.inSec sec off 0)
  let out := fun (n k sz sec : Nat) => decide (n ≠ 0) && !i.inSec sec (d.off k) (n * sz)
  if !i.inSec 1 o 64 ∨ (o - g.1) % 64 ≠ 0 then some (recRefuse 1 0)
  else refuseIf (decide (bits (i.num o 1) 7 6 ≠ 0) || decide (i.num (o + 11) 5 ≠ 0) || decide (i.num (o + 48) 16 ≠ 0) ||
      decide (4096 < d.nchan) || decide (16 < d.nshape) || out d.nops 0 64 2 || out d.nreg 1 8 4 || out d.ntile 2 16 7 ||
      out d.nchan 3 16 8 || out d.ncont 4 16 9 || out d.nshape 5 16 6 ||
      base 3 (d.off 6) 4 ((d.words i).any fun w => bits w 159 156 ≠ 0) ||
      base 5 d.blocks 48 ((d.words i).any fun w => bits w 255 248 = 0x10)) (recRefuse 1 ((o - g.1) / 64))

/-! ### Operator entries (R109, R93, R94, R97) -/

/-- An operator entry as the image gives it: its place counts from the set origin. -/
structure Ent where
  word : BitVec 256 := 0
  die : Nat := 0
  page : Nat := 0
  elem : Nat := 0
  slot : Nat := 0
  extra : Bool := false
  cfg : List (BitVec 256) := []
  cfgOk : Bool := true
  cons : List Nat := []
  consOk : Bool := true
  block : Option Block := none

/-- The operator of an entry, with its image place, for the field accessors. -/
def Ent.op (e : Ent) : Op := { word := e.word, slot := e.slot, cfg := e.cfg, block := e.block }
/-- Its kind. -/
def Ent.kind (e : Ent) : Nat := opKind e.op
/-- Its coordinate from the set origin, in the layout of R234's detail. -/
def Ent.coord (e : Ent) : Nat := e.die * 2 ^ 17 + e.page * 2 ^ 13 + e.elem * 2 ^ 8 + e.slot * 4
/-- Two entries share an engine. -/
def Ent.sameEng (a b : Ent) : Bool := decide (a.coord / 256 = b.coord / 256)
/-- An operator refused. -/
def Ent.refuse (e : Ent) : Word := errWord 0x06 e.coord

/-- Configuration words of a kind (R114, R139, R162); a DISPATCH's first word gives its count. -/
def cfgWords (kind w0 : Nat) : Nat :=
  if kind = 0x1A then 2
  else if kind = 0x1D then 1 + cdiv (w0 % 64 + 1) 8
  else if kind ∈ [0x01, 0x04, 0x07, 0x08, 0x0B, 0x0D, 0x0E, 0x0F, 0x11, 0x13, 0x14, 0x15, 0x16, 0x17, 0x18, 0x19, 0x1B,
      0x1C, 0x1E] then 1
  else 0

/-- Read entry k of a graph (R93 to R95): its configuration words stand behind the entries, a VBLOCK's binding record at or
behind the graph's blocks base (R145), and etab names an entry of the edge table (R87: 0 when ecnt is 0). -/
def readEnt (i : Image) (d : Desc) (k : Nat) : Ent :=
  let o := d.off 0 + 64 * k
  let word := i.num o 32
  let pl := i.num (o + 32) 1
  let cf := bits word 207 184
  let kind := bits word 255 248
  let co := d.off 0 + 32 * cf
  let n := cfgWords kind (i.num co 32)
  let inl := (List.range 6).map fun e => bits word (22 * e + 21) (22 * e)
  let ecnt := bits word 159 156
  let etab := bits word 183 160
  let eo := d.off 6 + 4 * etab
  let tab := (List.range ecnt).map fun j => i.num (eo + 4 * j) 4
  let nv := (inl.takeWhile fun v => bit v 21).length
  let bo := d.blocks + 16 * cf
  let nw := bits (i.num bo 16) 119 113 + 1
  { word := BitVec.ofNat 256 word, die := bits pl 1 0, page := bits pl 5 2, elem := i.num (o + 33) 1,
    slot := i.num (o + 34) 1, extra := decide (bits pl 7 6 ≠ 0) || decide (i.num (o + 35) 29 ≠ 0),
    cfg := if kind = 0x10 then [] else (List.range n).map fun j => BitVec.ofNat 256 (i.num (co + 32 * j) 32)
    cfgOk := if kind = 0x10 then decide (2 ≤ cf) && i.inSec 5 (bo - 32) (48 + 8 * nw)
      else if n = 0 then decide (cf = 0)
      else decide (2 * d.nops ≤ cf) && i.inSec 2 co (32 * n)
    cons := (inl.filter fun v => bit v 21) ++ tab
    consOk := decide (ecnt ≤ 10) && (if ecnt = 0 then decide (etab = 0) || i.inSec 3 eo 4 else decide (nv = 6) && i.inSec 3 eo (4 * ecnt)) &&
      (inl.drop nv).all (fun v => !bit v 21) && tab.all fun v => bit v 21 && decide (v < 2 ^ 22)
    block := if kind = 0x10 then
        some { binding := BitVec.ofNat 256 (i.num (bo - 32) 32), header := BitVec.ofNat 128 (i.num bo 16),
               words := (List.range nw).map fun j => BitVec.ofNat 64 (i.num (bo + 16 + 8 * j) 8) }
      else none }

/-- Every entry of a graph. -/
def readEnts (i : Image) (d : Desc) : List Ent := (List.range d.nops).map (readEnt i d)

/-- The entry that a consumer entry names. -/
def consEnt (es : List Ent) (v : Nat) : Option Ent := es.find? fun e => decide (e.coord / 4 = bits v 20 2 % 2 ^ 17 ∧ e.coord < 2 ^ 19)

/-- Place of the entry that a consumer entry names: die, page, element and slot as R94 gives them. -/
def consAt (es : List Ent) (v : Nat) : Option Nat := es.findIdx? fun e => decide (e.coord = bits v 18 2 * 4)

/-! ### Regions, tiles, records (R17, R109) -/

/-- A region descriptor of the image. -/
def readRegion (i : Image) (d : Desc) (k : Nat) : Nat := i.num (d.off 1 + 8 * k) 8

/-- The region that a descriptor makes: every colour free (R17, R18). -/
def regionOf (v : Nat) : Region :=
  let cap := bits v 39 31
  { rid := bits v 63 56, parent := bits v 55 48, depth := bits v 47 45, func := bit v 44, width := bits v 43 40 + 1, cap := cap,
    free := List.range cap, recs := List.replicate cap {} }

/-- The regions of a graph. -/
def readRegions (i : Image) (d : Desc) : List Region := (List.range d.nreg).map fun k => regionOf (readRegion i d k)

/-- A region record is refused (R17, R77, R87, R110): its own number, a parent, a depth, a capacity. A function region stands
directly in the root region, which encloses every region (R77, R87). -/
def regionBad (rs : List Region) (v k : Nat) : Bool :=
  let r := regionOf v
  let p := (rs[r.parent]?).getD {}
  decide (r.rid ≠ k) || decide (rs.length ≤ r.parent) || decide (r.cap = 0) || decide (256 < r.cap) || decide (r.depth = 7) ||
    decide (bits v 5 0 ≠ 0) ||
    (if k = 0 then !r.func || decide (r.depth ≠ 0) || decide (r.parent ≠ 0)
     else if r.func then decide (r.depth ≠ 0) || decide (r.parent ≠ 0) else decide (r.depth ≠ p.depth + 1))

/-- A tile record of the image. -/
structure TRec where
  v : Nat

/-- Its handle. -/
def TRec.handle (t : TRec) : Nat := bits t.v 15 0
/-- Its rows. -/
def TRec.rows (t : TRec) : Nat := bits t.v 22 16 + 1
/-- Its columns. -/
def TRec.cols (t : TRec) : Nat := bits t.v 29 23 + 1
/-- Its format. -/
def TRec.fmt (t : TRec) : Nat := bits t.v 33 30
/-- It lies in L1. -/
def TRec.level (t : TRec) : Bool := bit t.v 34
/-- It is pinned. -/
def TRec.pin (t : TRec) : Bool := bit t.v 35
/-- It has an initialiser. -/
def TRec.init (t : TRec) : Bool := bit t.v 36
/-- Its bytes. -/
def TRec.bytes (t : TRec) : Nat := t.rows * t.cols * elemBytes t.fmt

/-- The tile records of a graph. -/
def readTiles (i : Image) (d : Desc) : List TRec := (List.range d.ntile).map fun k => ⟨i.num (d.off 2 + 16 * k) 16⟩

/-- A page offset lies in the set's rectangle. -/
def pageIn (d : Desc) (p : Nat) : Bool := decide (p / 4 < d.rows) && decide (p % 4 < d.cols)

/-- A tile record is refused (R109, R110). -/
def tileBad (i : Image) (d : Desc) (t : TRec) : Bool :=
  decide (bits t.v 63 37 ≠ 0) || decide (bits t.v 127 96 ≠ 0) || !tileFormat t.fmt || !pageIn d (t.handle / 4096) ||
    (t.init && !(i.inSec 10 (bits t.v 95 64) t.bytes || i.inSec 11 (bits t.v 95 64) t.bytes || i.inSec 12 (bits t.v 95 64) t.bytes))

/-- A channel record (R109). -/
def chanRecOf (v : Nat) : ChanRec :=
  { name := bits v 31 0, rlog := bits v 35 32, glog := bits v 39 36, cap := bits v 55 40, grow := bit v 56,
    ok := decide (bits v 35 32 ≤ 12) && decide (bits v 39 36 ≤ 6) && decide (bits v 35 32 + 4 ≤ bits v 39 36 + 12) &&
      decide (bits v 127 57 = 0) }

/-- The channel records of a graph. -/
def readChans (i : Image) (d : Desc) : List ChanRec := (List.range d.nchan).map fun k => chanRecOf (i.num (d.off 3 + 16 * k) 16)

/-- The shape records of a graph: number, shape, zero bits. -/
def readShapes (i : Image) (d : Desc) : List (Nat × Shape × Bool) :=
  (List.range d.nshape).map fun k =>
    let v := i.num (d.off 5 + 16 * k) 16
    (bits v 67 64, { e0 := bits v 15 0 + 1, e1 := bits v 31 16 + 1, e2 := bits v 47 32 + 1, e3 := bits v 63 48 + 1 },
     decide (bits v 127 68 = 0))

/-- The containment records of a graph: COPEN, CCLOSE, handler, zero bits. -/
def readConts (i : Image) (d : Desc) : List (Nat × Nat × Nat × Bool) :=
  (List.range d.ncont).map fun k =>
    let v := i.num (d.off 4 + 16 * k) 16
    (bits v 15 0, bits v 31 16, bits v 63 32, decide (bits v 127 64 = 0))

/-! ### Operator checks (R92, R95) -/

/-- The engine of a kind (R92): any engine with a matching store for the flow kinds. -/
def engineOk (kind elem : Nat) : Bool :=
  let inR := fun (lo hi : Nat) => decide (lo ≤ elem) && decide (elem ≤ hi)
  if kind ≤ 0x0F then decide (1 ≤ kind) && (inR 0 21 || inR 24 28)
  else if kind = 0x10 then inR 4 11
  else if kind ≤ 0x12 then inR 0 3
  else if kind ≤ 0x16 then inR 12 19
  else if kind = 0x17 then inR 20 21
  else if kind ≤ 0x19 then elem = 24
  else if kind = 0x1A then elem = 27
  else if kind ≤ 0x1E then elem = 25
  else false

/-- The positions and ports of a kind (R113, R138, R161). -/
def formOk (e : Ent) : Bool :=
  let o := e.op
  let m := opPmask o
  let n := opNout o
  let c := b2n (opCtok o)
  let one := decide (m = 1)
  let two := decide (m = 1) || decide (m = 3)
  match opKind o with
  | 0x01 => decide (m = 0) && decide (1 ≤ n) && decide (n ≤ 4)
  | 0x02 => one && decide (n = 0)
  | 0x03 | 0x0C => one && decide (1 ≤ n) && decide (n ≤ 4)
  | 0x04 | 0x05 | 0x06 | 0x07 | 0x0B | 0x0F => one && decide (n = 1)
  | 0x08 => one && decide (n = 0)
  | 0x09 => decide (m = 5) && decide (n = 2)
  | 0x0A => (decide (m = 7) || decide (m = 3)) && decide (n = 1)
  | 0x0D | 0x0E => two && decide (n = if m = 1 then 1 else 2)
  | 0x10 => two && decide (1 ≤ n) && decide (n ≤ 4)
  | 0x11 => two && decide (n = 1 + c)
  | 0x12 => one && decide (n ≤ 1)
  | 0x13 | 0x14 => decide (m = 3) && decide (n = 1)
  | 0x15 => decide (m = 3) && decide (1 ≤ n) && decide (n ≤ 2)
  | 0x16 | 0x17 => one && decide (n = 1)
  | 0x18 => two && decide (n = 1 + c)
  | 0x19 => two && decide (n = c)
  | 0x1A => two && decide (n = c + b2n (!bit (opCfg o 0) 160))
  | 0x1B => one && decide (1 ≤ n) && decide (n ≤ 2)
  | 0x1C => one && decide (n ≤ 1)
  | 0x1D => decide (m = 3) && decide (1 ≤ n) && decide (n ≤ 2)
  | 0x1E => one && decide (n = 1)
  | _ => false

/-- The types of a kind (R138, R161); a flow kind has none (DEDUCED, log 46: untyped). -/
def typeOkFor (e : Ent) : Bool :=
  let o := e.op
  let t := opType o
  match opKind o with
  | 0x10 | 0x17 => decide (t ≤ 0xB)
  | 0x11 | 0x12 => decide (1 ≤ t) && decide (t ≤ 6)
  | 0x13 | 0x14 | 0x15 | 0x16 | 0x18 | 0x19 | 0x1A | 0x1D => decide (t ≤ 0xD)
  | 0x1B => if bit (opCfg o 0) 64 then t = 0xF else decide (t ≤ 0xD)
  | 0x1E => t = 0 || t = 1 || t = 8
  | _ => t = 0xF

/-- The bits from lo to hi. -/
def maskBits (hi lo : Nat) : Nat := 2 ^ (hi + 1) - 2 ^ lo

/-- The defined bits of configuration word k of an operator (R114, R139, R162). A SOURCE's value, tile and die bits are defined
in every mode, also in one that does not use them: the model's choice (log 43). -/
def cfgMask (o : Op) (k : Nat) : Nat :=
  let w := opCfg o 0
  match opKind o with
  | 0x01 => maskBits 255 251 + maskBits 81 64 + maskBits 63 0
  | 0x04 => 0xFF
  | 0x07 => if bits w 11 8 = 0 then maskBits 111 0 else maskBits 21 0
  | 0x08 => 3
  | 0x0B => maskBits 180 0
  | 0x0D | 0x0E => 0xFFFF
  | 0x0F => 1
  | 0x11 | 0x14 => maskBits 33 0
  | 0x13 | 0x16 => maskBits 31 0
  | 0x15 => maskBits 62 0
  | 0x17 => maskBits 39 0
  | 0x18 => maskBits 158 0
  | 0x19 => maskBits 158 32
  | 0x1A =>
    let shape := if bit w 159 && bit w 160 then maskBits 191 178 else 0
    if k = 0 then (if bit w 159 then maskBits 158 32 else 0) + maskBits 177 159 + shape
    else if bit w 160 then maskBits 158 32 else maskBits 31 0
  | 0x1B => maskBits 64 0
  | 0x1C => maskBits 63 32
  | 0x1D =>
    if k = 0 then 0x3F
    else maskBits (32 * Nat.min 8 (bits w 5 0 + 1 - 8 * (k - 1)) - 1) 0
  | 0x1E => maskBits 41 0
  | _ => 0

/-- A refused value of a configuration word (R114, R139, R162). -/
def cfgRefused (o : Op) : Bool :=
  let w := opCfg o 0
  match opKind o with
  | 0x01 => decide (3 ≤ bits w 255 252)
  | 0x11 => decide (bits w 33 32 = 3)
  | 0x15 => decide (bits w 62 60 = 7)
  | 0x17 => decide (5 ≤ bits w 34 32) ||
      (if bit w 36 then decide (bits w 39 37 < 3) || !isScaled (opType o) else decide (bits w 39 37 ≠ 0))
  | 0x18 | 0x19 => decide (bits w 157 156 = 3)
  | 0x1A => decide (bits w 157 156 = 3) || decide (bits (opCfg o 1) 157 156 = 3)
  | 0x1E => decide (bits w 41 40 = 3)
  | _ => false

/-- Undefined bits or refused values of an operator's configuration. -/
def cfgBad (e : Ent) : Bool :=
  !e.cfgOk || cfgRefused e.op ||
    (e.cfg.zipIdx).any fun c => decide (c.1.toNat &&& cfgMask e.op c.2 ≠ c.1.toNat)

/-- The places of a consumer entry are good (R95): element, set, slot and position. -/
def consOkAt (d : Desc) (es : List Ent) (v : Nat) : Bool :=
  match (consAt es v).bind fun k => es[k]? with
  | some c => decide (bits v 1 0 ≠ 3) && bit (opPmask c.op) (bits v 1 0) && decide (bits v 18 17 < d.nd)
  | none => false

/-- The fields of an operator word and its entry (R95). Two entries with one coordinate and slot are refused too, for no element
holds two operators in a slot (DEDUCED, log 135). -/
def wordBad (d : Desc) (rs : List Region) (es : List Ent) (e : Ent) : Bool :=
  let o := e.op
  let w := o.word.toNat
  let k := opKind o
  !engineOk k e.elem || decide (d.nd ≤ e.die) || (decide (e.elem ≤ 21) && !pageIn d e.page) || decide (64 ≤ e.slot) ||
    !engExists ⟨0, 0, e.page, e.elem⟩ || e.extra || decide (bits w 247 244 ≠ 0) || decide (bits w 155 132 ≠ 0) ||
    (opDfm o && !(decide (0x18 ≤ k) && decide (k ≤ 0x1A))) ||
    (opCtok o && !(decide (k = 0x11) || (decide (0x18 ≤ k) && decide (k ≤ 0x1A)))) ||
    ((rs[opRid o]?).map fun r => decide (r.depth ≠ opDepth o)).getD true || !formOk e || decide (5 < opBits o 215 212) ||
    !typeOkFor e || !e.consOk || cfgBad e ||
    e.cons.any (fun v => decide (opNout o ≤ bits v 20 19) || !consOkAt d es v ||
      (((consAt es v).bind fun j => es[j]?).map fun c =>
        decide (opBits c.op 215 212 ≠ opBits o 215 212) && decide (k ≠ 0x0C) && decide (c.kind ≠ 0x0C)).getD true) ||
    (es.filter fun x => decide (x.coord = e.coord)).length != 1

/-! ### Flow and destination checks (R115, R140, R143, R34) -/

/-- The destination formats of MMUL (R153). -/
def drainFmt (o : Op) (f : Nat) : Bool :=
  let cnt := decide (bits (opCfg o 0) 33 32 = 2)
  match opType o with
  | 5 => f = 0 || (cnt && f = 8 : Bool)
  | 6 => if cnt then f = 0 || f = 8 else decide (6 ≤ f) && decide (f ≤ 8)
  | _ => if cnt then f = 0 || f = 8 else decide (f ≤ 2)

/-- The destination entries of an operator that a firing fills, with the formats they accept (R143, R162). A completion port's
entry is zero (R145); one that is not binds a destination like any other port's (DESIGN CHOICE, log 136). -/
def destEntries (o : Op) : List (Nat × (Nat → Bool)) :=
  let same := fun f : Nat => decide (f = opType o)
  let w := opCfg o 0
  match opKind o with
  | 0x10 =>
    let b := bindingOf o
    let last := hasCompletion { hdr := 0, words := ((o.block.map (·.words)).getD []).map fun x : BitVec 64 => x.toNat, typ := 0,
                                bfmt := [], shapes := [] }
    ((List.range (opNout o)).filter fun p => !(last && decide (p + 1 = opNout o) && decide (bits b (32 * p + 31) (32 * p) = 0))).map
      fun p => (bits b (32 * p + 31) (32 * p), same)
  | 0x11 => [(bits w 31 0, drainFmt o)]
  | 0x13 | 0x14 | 0x15 | 0x16 | 0x17 | 0x18 | 0x1E => [(bits w 31 0, same)]
  | 0x1A => if bit w 160 then [] else [(bits (opCfg o 1) 31 0, same)]
  | 0x1B => if bit w 64 then [] else [(bits w 31 0, same)]
  | _ => []

/-- The bound entries of a VBLOCK (R145). -/
def boundEntries (o : Op) : List Nat :=
  (List.range (bits ((o.block.map fun b : Block => b.header).getD 0).toNat 107 105)).map fun b =>
    bits (bindingOf o) (32 * b + 159) (32 * b + 128)

/-! ### Tile records and the dies they lie on (R87, R109, R140) -/

/-- The tiles that an operator names: die offset, handle, and the length of its ring: by destination entries, bound entries
and a SOURCE's tile. -/
def tileUses (o : Op) : List (Nat × Nat × Nat) :=
  ((destEntries o).map (·.1) ++ boundEntries o).map (fun v => (bits v 17 16, bits v 15 0, bits v 21 18 + 1)) ++
    if opKind o = 0x01 ∧ bits (opCfg o 0) 255 252 = 2 then [(bits (opCfg o 0) 81 80, bits (opCfg o 0) 79 64, 1)] else []

/-- The die offsets on which a handle is named, itself or as a sibling in a ring, in ascending order. -/
def namedDies (es : List Ent) (h : Nat) : List Nat :=
  let us := (es.flatMap fun e => tileUses e.op).filter fun u => decide (u.2.1 ≤ h) && decide (h < u.2.1 + u.2.2)
  (List.range 4).filter fun k => us.any fun u => decide (u.1 = k)

/-- The die offsets on which record j of n records of one handle declares its tile. A tile record has no die field, and R87
lets tiles on two die offsets have one handle; the spec does not say how GLOAD tells their records apart. The model's choice
(log 42): the records of a handle take, in their order, the die offsets on which operators name it, ascending, and then
those left; the last one also takes every named die offset that remains. A handle that nothing names lies on die offset 0. -/
def recDies (nd : Nat) (es : List Ent) (h j n : Nat) : List Nat :=
  let named := namedDies es h
  let order := named ++ (List.range nd).filter fun k => !named.contains k
  (order.drop j).take 1 ++ if j + 1 = n then named.drop (j + 1) else []

/-- Every tile record with the die offsets on which it declares its tile. -/
def recPlaces (nd : Nat) (es : List Ent) (ts : List TRec) : List (TRec × List Nat) :=
  (ts.zipIdx).map fun t =>
    (t.1, recDies nd es t.1.handle ((ts.take t.2).filter fun x => decide (x.handle = t.1.handle)).length
      (ts.filter fun x => decide (x.handle = t.1.handle)).length)

/-- The tile record that a die offset and handle name. -/
def recNamed (ps : List (TRec × List Nat)) (k h : Nat) : Option TRec :=
  (ps.find? fun p => decide (p.1.handle = h) && p.2.contains k).map (·.1)

/-- The length of the longest ring that starts at a tile. -/
def ringLen (es : List Ent) (k h : Nat) : Nat :=
  (((es.flatMap fun e => tileUses e.op).filter fun u => decide (u.1 = k) && decide (u.2.1 = h)).map (·.2.2)).foldl Nat.max 1

/-- The tiles that a record declares: die offset, handle: the record's own and the siblings of its ring that have no record
of their own (R87, R140). -/
def recTiles (es : List Ent) (ps : List (TRec × List Nat)) (p : TRec × List Nat) : List (Nat × Nat) :=
  p.2.flatMap fun k => ((List.range (ringLen es k p.1.handle)).filter fun j =>
    decide (j = 0) || (recNamed ps k (p.1.handle + j)).isNone).map fun j => (k, p.1.handle + j)

/-- A destination entry that a firing fills is refused (R34, R140, R143): it is valid, its die offset lies in the page set,
its ring ends below 0x1000, it names a tile record, and no record of its ring is pinned, initialised or of a format that the
kind does not write. -/
def destBad (nd : Nat) (ps : List (TRec × List Nat)) (ent : Nat) (fmtOk : Nat → Bool) : Bool :=
  let k := bits ent 17 16
  let h := bits ent 15 0
  !bit ent 22 || decide (bits ent 31 23 ≠ 0) || decide (0xFFF < bits ent 11 0 + bits ent 21 18) || decide (nd ≤ k) ||
    (recNamed ps k h).isNone ||
    (List.range (bits ent 21 18 + 1)).any fun j =>
      ((recNamed ps k (h + j)).map fun t => t.pin || t.init || !fmtOk t.fmt).getD false

/-- A VBLOCK's block is refused (R143). -/
def vblockBad (nd : Nat) (ps : List (TRec × List Nat)) (e : Ent) : Bool :=
  let o := e.op
  if opKind o ≠ 0x10 then false
  else
    let b : Block := o.block.getD {}
    let h := b.header.toNat
    let np := bits h 104 102
    let nb := bits h 107 105
    decide (np ≠ opNout o) ||
      (b.words.any fun w => decide (bwOp w.toNat = 0x008) && !bit (opPmask o) (bits (bwAux w.toNat) 1 0)) ||
      (boundEntries o).any (fun x => !bit x 22 || decide (bits x 31 18 ≠ 0x10) || decide (nd ≤ bits x 17 16) ||
        ((recNamed ps (bits x 17 16) (bits x 15 0)).map fun t => !t.pin).getD true) ||
      (List.range 4).any fun k =>
        (decide (nb ≤ k) && decide (bits (bindingOf o) (32 * k + 159) (32 * k + 128) ≠ 0)) ||
        (decide (np ≤ k) && decide (bits (bindingOf o) (32 * k + 31) (32 * k) ≠ 0))

/-- A region by number. -/
def regAt (rs : List Region) (k : Nat) : Region := (rs[k]?).getD {}

/-- The CALLs of the site of a CALL. -/
def siteOf (es : List Ent) (e : Ent) : List Ent :=
  es.filter fun x => decide (x.kind = 0x07) && x.sameEng e && decide (bits (opCfg x.op 0) 21 16 = bits (opCfg e.op 0) 21 16)

/-- A CALL is refused (R115). A lead's destination entries are edges from the callee's RETs, so that scopes differ there only
at a BRIDGE (R95, R307). -/
def callBad (d : Desc) (rs : List Region) (es : List Ent) (e : Ent) : Bool :=
  let v := opCfg e.op 0
  let fn := regAt rs (bits v 7 0)
  let site := siteOf es e
  let args := site.map fun x => bits (opCfg x.op 0) 11 8
  let n := bits v 15 12 + 1
  let nret := bits v 23 22 + 1
  let rets := es.filter fun x => decide (x.kind = 0x08) && decide (opRid x.op = bits v 7 0)
  decide (bits v 7 0 = 0) || decide (rs.length ≤ bits v 7 0) || !fn.func ||
    decide (site.length ≠ n) || !(List.range n).all (fun k => args.contains k) ||
    site.any (fun x => decide (bits (opCfg x.op 0) 7 0 ≠ bits v 7 0) || decide (bits (opCfg x.op 0) 15 12 ≠ bits v 15 12)) ||
    !site.any (fun x => decide (bits (opCfg x.op 0) 11 8 = 0) && decide (x.slot = bits v 21 16)) ||
    decide (4 < fn.width) || decide (rets.length ≠ fn.width) ||
    !(List.range fn.width).all (fun k => rets.any fun x => decide (bits (opCfg x.op 0) 1 0 = k)) ||
    (decide (bits v 11 8 = 0) &&
      (decide (nret ≠ fn.width) || (List.range 4).any fun k =>
        let c := bits v (22 * k + 45) (22 * k + 24)
        if k < nret then !bit c 21 || decide (bits c 20 19 ≠ 0) || !consOkAt d es c ||
          rets.any (fun x => decide (bits (opCfg x.op 0) 1 0 = k) && ((consAt es c).bind fun j => es[j]?).any fun t =>
            decide (t.kind ≠ 0x0C) && decide (opBits t.op 215 212 ≠ opBits x.op 215 212))
        else decide (c ≠ 0)))

/-- The members of a loop's groups. -/
def loopOps (es : List Ent) (k : Nat) (kind : Nat) : List Ent :=
  es.filter fun x => decide (x.kind = kind) && decide ((if kind = 4 then bits (opCfg x.op 0) 7 0 else opRid x.op) = k)

/-- A loop region's ENTERs, NEXTs and EXITs are refused (R115): its first one; a region without any is refused as its own record
(DEDUCED, log 135). -/
def loopBad (rs : List Region) (es : List Ent) (k : Nat) : Option Word :=
  let r := regAt rs k
  if r.func then none
  else
    let all := loopOps es k 4 ++ loopOps es k 5 ++ loopOps es k 6
    match all with
    | [] => some (recRefuse 4 k)
    | m :: _ =>
      refuseIf (([4, 5, 6] : List Nat).any (fun q => decide ((loopOps es k q).length ≠ r.width)) || all.any fun x => !x.sameEng m)
        m.refuse

/-- A flow operator is refused (R115, R34). -/
def flowBad (d : Desc) (rs : List Region) (es : List Ent) (ps : List (TRec × List Nat)) (cs : List (Nat × Nat × Nat × Bool)) (k : Nat)
    (e : Ent) : Bool :=
  let o := e.op
  let v := opCfg o 0
  let r := regAt rs (opRid o)
  match opKind o with
  | 0x01 =>
    (bit v 251 && (decide (opDepth o ≠ 0) || decide (opRid o ≠ 0))) ||
      (decide (bits v 255 252 = 2) && (decide (d.nd ≤ bits v 81 80) ||
        ((recNamed ps (bits v 81 80) (bits v 79 64)).map fun t => !(t.pin || t.init)).getD true))
  | 0x04 =>
    let l := bits v 7 0
    decide (rs.length ≤ l) || (regAt rs l).func || decide ((regAt rs l).parent ≠ opRid o)
  | 0x05 | 0x06 => r.func
  | 0x07 => callBad d rs es e
  | 0x08 => decide (opRid o = 0) || !r.func
  | 0x0B =>
    (List.range 4).all (fun j => decide (bits v (5 * j + 164) (5 * j + 160) = 0)) ||
      (decide (bits v 159 128 = 0) && (List.range 4).any fun j => bit v (5 * j + 164))
  | 0x0D => ((cs[bits v 15 0]?).map fun c => decide (c.1 ≠ k)).getD true
  | 0x0E => ((cs[bits v 15 0]?).map fun c => decide (c.2.1 ≠ k)).getD true
  | _ => false

/-! ### Containment members (R132, R384) -/

/-- The consumer entries along which a token of an operator may go: its own, and for a RET the destination entries of the
leads that call its region (R124, R125). -/
def edgesOf (es : List Ent) (e : Ent) : List Nat :=
  e.cons ++ if e.kind = 0x08 then
      (es.filter fun x => decide (x.kind = 0x07) && decide (bits (opCfg x.op 0) 7 0 = opRid e.op) &&
          decide (bits (opCfg x.op 0) 11 8 = 0)).map fun x =>
        let k := bits (opCfg e.op 0) 1 0
        bits (opCfg x.op 0) (22 * k + 45) (22 * k + 24)
    else []

/-- The operators that a token of an operator may reach next. -/
def nextOps (es : List Ent) (e : Ent) : List Nat := (edgesOf es e).filterMap (consAt es)

/-- Everything reached from a set in n rounds, not going past a stop. -/
def reachFrom (es : List Ent) (stop : Nat) : Nat → List Nat → List Nat
  | 0, l => l
  | n + 1, l =>
    let more := (l.filter fun k => decide (k ≠ stop)).flatMap fun k => ((es[k]?).map (nextOps es)).getD []
    let l' := (l ++ more).dedup
    if l'.length = l.length then l else reachFrom es stop n l'

/-- The members of a containment region. -/
def membersOf (es : List Ent) (op cl : Nat) : List Nat :=
  (List.range es.length).filter fun k =>
    decide (k ≠ op) && decide (k ≠ cl) &&
      (reachFrom es cl es.length (((es[op]?).map (nextOps es)).getD [])).contains k &&
      (reachFrom es cl es.length (((es[k]?).map (nextOps es)).getD [])).contains cl

/-- A containment record is refused (R77, R109, R110): its two operators, its zero bits, a handler that is no place in the
text section. -/
def contBad (i : Image) (es : List Ent) (c : Nat × Nat × Nat × Bool) : Bool :=
  match es[c.1]?, es[c.2.1]? with
  | some a, some b => decide (a.kind ≠ 0x0D) || decide (b.kind ≠ 0x0E) || decide (opRid a.op ≠ opRid b.op) || !c.2.2.2 ||
      !i.inSec 10 c.2.2.1 1
  | _, _ => true

/-- Two regions overlap without one nesting inside the other (R115). -/
def overlap (a b : List Nat) : Bool :=
  a.any (fun k => b.contains k) && !a.all (fun k => b.contains k) && !b.all (fun k => a.contains k)

/-- The refusals of containment regions: overlaps, and edges that leave a region (R384). -/
def contRefuse (es : List Ent) (ms : List (Nat × Nat × List Nat)) : Option Word :=
  ms.findSome? fun m =>
    ((ms.find? fun x => overlap m.2.2 x.2.2).bind fun _ => (es[m.1]?).map (·.refuse)).orElse fun _ =>
      m.2.2.findSome? fun k => match es[k]? with
        | some e => refuseIf ((nextOps es e).any fun j => decide (j ≠ m.2.1) && !m.2.2.contains j) e.refuse
        | none => none

/-! ### Formats along edges (R144) -/

/-- The format that a port of an operator produces: none when it carries no tile of a known format. -/
def portFmt (ps : List (TRec × List Nat)) (o : Op) (port : Nat) : Option Nat :=
  let fmtOf := fun k h : Nat => (recNamed ps k h).map (·.fmt)
  match opKind o with
  | 0x01 => if bits (opCfg o 0) 255 252 = 2 then fmtOf (bits (opCfg o 0) 81 80) (bits (opCfg o 0) 79 64) else none
  | 0x1D => some 0xA
  | 0x10 => if bit (bits (bindingOf o) (32 * port + 31) (32 * port)) 22 then some (opType o) else none
  | 0x11 => if port = 0 then fmtOf (bits (opCfg o 0) 17 16) (bits (opCfg o 0) 15 0) else none
  | 0x13 | 0x14 | 0x15 | 0x16 | 0x17 | 0x18 | 0x1E => if port = 0 then some (opType o) else none
  | 0x1A => if port = 0 ∧ !bit (opCfg o 0) 160 then some (opType o) else none
  | 0x1B => if port = 0 ∧ !bit (opCfg o 0) 64 then some (opType o) else none
  | _ => none

/-- The edges into a position of an operator, its callees' RETs' among them: producer and port. -/
def edgesInto (es : List Ent) (k pos : Nat) : List (Nat × Nat) :=
  (es.zipIdx).flatMap fun p => ((edgesOf es p.1).filter fun v => decide (bits v 1 0 = pos) && decide (consAt es v = some k)).map
    fun v => (p.2, bits v 20 19)

/-- The positions whose tokens a port of a flow operator emits (R122 to R134): none for a SOURCE, which fills its own tile,
nor for a TRIGGER, which emits signals and scalars; both for GMERGE; the port's own for COPEN and CCLOSE. -/
def passedFrom (kind port : Nat) : List Nat :=
  if kind = 0x01 ∨ kind = 0x0B then [] else if kind = 0x0A then [0, 1] else if kind = 0x0D ∨ kind = 0x0E then [port] else [0]

/-- The typed producers reached backward through flow operators, in n rounds: producer and port. -/
def producers (es : List Ent) : Nat → List (Nat × Nat) → List (Nat × Nat) → List (Nat × Nat)
  | 0, _, l => l
  | n + 1, seen, l =>
    let kindOf := fun k : Nat => ((es[k]?).map (·.kind)).getD 0
    let passes := fun p : Nat × Nat => isFlowKind (kindOf p.1) && !(passedFrom (kindOf p.1) p.2).isEmpty
    let new := ((l.filter passes).filter fun p => !seen.contains p).dedup
    let rest := l.filter fun p => !passes p
    if new.isEmpty then rest
    else producers es n (seen ++ new) (rest ++ new.flatMap fun p => (passedFrom (kindOf p.1) p.2).flatMap (edgesInto es p.1))

/-- The positions at which a kind requires its type as input format (R144). -/
def needsFmt (kind : Nat) : List Nat :=
  if kind = 0x10 then [0, 1] else if kind = 0x11 ∨ kind = 0x12 ∨ (0x13 ≤ kind ∧ kind ≤ 0x16) then [0] else []

/-- The first edge with no converter path. -/
def fmtRefuse (ps : List (TRec × List Nat)) (es : List Ent) : Option Word :=
  (es.zipIdx).findSome? fun c => (needsFmt c.1.kind).findSome? fun pos =>
    (producers es (4 * es.length + 1) [] (edgesInto es c.2 pos)).findSome? fun p =>
      match (es[p.1]?).bind fun e => portFmt ps e.op p.2 with
      | some f => refuseIf (decide (f ≠ opType c.1.op)) (errWord 0x0D (p.1 % 65536 * 2 ^ 24 + c.2 % 65536))
      | none => none

/-! ### Shapes of vector tiles (R100) -/

/-- The shape records that a block names. -/
def shapesNamed (o : Op) : List Nat :=
  match o.block with
  | none => []
  | some b => bits b.header.toNat 111 108 ::
      (b.words.filter fun w => decide (0x120 ≤ bwOp w.toNat) && decide (bwOp w.toNat ≤ 0x122)).map fun w => bits (bwAux w.toNat) 7 4

/-- Two shape records of one number would be loaded into one vector tile: the second one's index. -/
def shapeRefuse (es : List Ent) (sh : List (Nat × Shape × Bool)) : Option Word :=
  let used := (es.flatMap fun e => shapesNamed e.op)
  (sh.zipIdx).findSome? fun p =>
    if !p.1.2.2 then some (recRefuse 6 p.2)
    else refuseIf (used.contains p.1.1 && (sh.take p.2).any fun q => decide (q.1 = p.1.1)) (recRefuse 6 p.2)

/-! ### The whole check, in the order of the image's sections (R238) -/

/-- The first refusal of a graph after its header. -/
def graphRefuse (i : Image) (o : Nat) : Option Word :=
  match descRefuse i o with
  | some w => some w
  | none =>
    let d := readDesc i o
    let es := readEnts i d
    let rs := readRegions i d
    let ts := readTiles i d
    let cs := readConts i d
    let ps := recPlaces d.nd es ts
    let ms := cs.map fun c => (c.1, c.2.1, membersOf es c.1 c.2.1)
    firstErr [
      (es.zipIdx).findSome? (fun p => refuseIf (wordBad d rs es p.1 || flowBad d rs es ps cs p.2 p.1 ||
        (destEntries p.1.op).any fun x => destBad d.nd ps x.1 x.2) p.1.refuse),
      (List.range d.nreg).findSome? (fun k => (refuseIf (regionBad rs (readRegion i d k) k) (recRefuse 4 k)).orElse fun _ =>
        loopBad rs es k),
      es.findSome? (fun e => refuseIf (vblockBad d.nd ps e) e.refuse),
      shapeRefuse es (readShapes i d),
      (ts.zipIdx).findSome? (fun p => refuseIf (tileBad i d p.1) (recRefuse 7 p.2)),
      ((readChans i d).zipIdx).findSome? (fun p => refuseIf (!p.1.ok) (recRefuse 8 p.2)),
      (cs.zipIdx).findSome? (fun p => refuseIf (contBad i es p.1) (recRefuse 9 p.2)),
      contRefuse es ms,
      fmtRefuse ps es]

/-! ### Placement (R271 to R274) -/

/-- A page is free: no loaded graph holds it, and no set is on its way there (R271, R274). -/
def pageFree (gs : Tbl (Nat × Nat) Graph) (pkg die page : Nat) : Bool :=
  !gs.any fun g => decide (g.1.1 = pkg) &&
    (inSet g.2 die page || g.2.moveTo.any fun r => inSet { g.2 with reloc := r } die page)

/-- The least origin on a die at which a rectangle is free and owned. -/
def placeOn (s : State) (gs : Tbl (Nat × Nat) Graph) (pkg part die rows cols : Nat) : Option (Nat × Nat) :=
  (List.range 16).findSome? fun o =>
    let r0 := o / 4
    let c0 := o % 4
    if 4 < r0 + rows ∨ 4 < c0 + cols then none
    else
      let ok := (List.range (rows * cols)).all fun k =>
        let p := (r0 + k / cols) * 4 + c0 + k % cols
        pageFree gs pkg die p && decide (pageOwnerOf s pkg die p = part)
      if ok then some (r0, c0) else none

/-- place of R272. -/
def place (s : State) (gs : Tbl (Nat × Nat) Graph) (pkg part nd rows cols : Nat) : Option (List (Nat × Nat × Nat)) :=
  (List.range 4).findSome? fun d0 =>
    (List.range nd).mapM fun k =>
      (placeOn s gs pkg part ((d0 + k) % 4) rows cols).map fun o => ((d0 + k) % 4, o.1, o.2)

/-- A graph has a live launch. -/
def hasLaunch (s : State) (pkg h : Nat) : Bool := s.launches.any fun l => decide (l.1.1 = pkg) && decide (l.2.record.graph = h)

/-- A set is movable (R274): no launch of its graph is live, and software has not frozen it. A set whose planned move found
no room stays for the request that asked for it (log 25). -/
def movable (s : State) (h : Nat × Nat) (g : Graph) : Bool := !hasLaunch s h.1 h.2 && !g.frozen && !g.freezing && !g.noRoom

/-- The order of compaction: descending page count, ties by handle. -/
def packOrder (l : List (Nat × Graph)) : List (Nat × Graph) :=
  sortBy (fun a b =>
    let pa := a.2.nd * a.2.prows * a.2.pcols
    let pb := b.2.nd * b.2.prows * b.2.pcols
    decide (pb < pa) || (decide (pa = pb) && decide (a.1 ≤ b.1))) l

/-- Place sets one by one. -/
def packAll (s : State) (pkg part : Nat) : List (Nat × Graph) → Tbl (Nat × Nat) Graph →
    Option (List (Nat × List (Nat × Nat × Nat)) × Tbl (Nat × Nat) Graph)
  | [], gs => some ([], gs)
  | (h, g) :: l, gs =>
    match place s gs pkg part g.nd g.prows g.pcols with
    | none => none
    | some r => match packAll s pkg part l (gs ++ [((pkg, h), { g with reloc := r })]) with
      | none => none
      | some (m, gs) => some ((h, r) :: m, gs)

/-- The plan of compaction for a new set (R274): the sets that move, with their new relocations; none when it does not fit. -/
def compaction (s : State) (pkg part nd rows cols : Nat) : Option (List (Nat × List (Nat × Nat × Nat))) :=
  let mine := fun x : (Nat × Nat) × Graph => decide (x.1.1 = pkg) && decide (x.2.part = part) && movable s x.1 x.2
  let stay := s.graphs.filter fun x => !mine x
  let sets := packOrder ((s.graphs.filter mine).map fun x => (x.1.2, x.2))
  match packAll s pkg part sets stay with
  | none => none
  | some (m, gs) =>
    if (place s gs pkg part nd rows cols).isSome then
      some (m.filter fun x => ((getGraph s (pkg, x.1)).map fun g => decide (g.reloc ≠ x.2)).getD false)
    else none

/-- Plan the moves of a compaction. -/
def planMoves (s : State) (pkg : Nat) (ms : List (Nat × List (Nat × Nat × Nat))) : State :=
  ms.foldl (fun s m => modGraph s (pkg, m.1) fun g => { g with moveTo := some m.2 }) s

/-- The request that asked for a compaction has its answer. -/
def forgetRoom (s : State) (pkg : Nat) : State :=
  { s with graphs := tmap (fun k g => if k.1 = pkg then { g with noRoom := false } else g) s.graphs }

/-- A set that found no place waits for a compaction, or has no room (R272, R274). -/
def compactFor (s : State) (pkg part nd rows cols : Nat) : Option State :=
  if s.graphs.any fun g => decide (g.1.1 = pkg) && g.2.moveTo.isSome then some s
  else match compaction s pkg part nd rows cols with
    | some m => if m.isEmpty then none else some (planMoves s pkg m)
    | none => none

/-! ### Building the graph (R23, R94, R273, R176, R296) -/

/-- The relocated engine of an entry. -/
def entEng (pkg : Nat) (g : Graph) (e : Ent) : Eng :=
  let q := relocPage g e.die e.page
  ⟨pkg, q.1, if e.elem ≤ 21 then q.2 else e.page, e.elem⟩

/-- The operators of an engine, of every loaded graph. -/
def opsOn (s : State) (e : Eng) : List (Graph × Op) :=
  s.graphs.flatMap fun g => (g.2.ops.filter fun o => decide (o.eng = e)).map fun o => (g.2, o)

/-- Rows of an operator's frame: the capacity of its region. -/
def frameRows (rs : List Region) (o : Op) : Nat := (regAt rs (opRid o)).cap

/-- Rows from base on are free on an engine, given frames in use. -/
def frameFree (used : List (Nat × Nat)) (b n : Nat) : Bool :=
  decide (b + n ≤ 16384) && used.all fun u => decide (b + n ≤ u.1) || decide (u.1 + u.2 ≤ b)

/-- Give an entry its slot and frame: its own slot when it is free, else the least free one on a die-edge engine. -/
def placeOp (s : State) (pkg : Nat) (g : Graph) (rs : List Region) (done : List Op) (e : Ent) : Option Op :=
  let eng := entEng pkg g e
  let others := opsOn s eng
  let slots := others.map (fun o => o.2.slot) ++ (done.filter fun o => decide (o.eng = eng)).map (·.slot)
  let frames := others.map (fun o => (o.2.frame, frameRows o.1.regions o.2)) ++
    (done.filter fun o => decide (o.eng = eng)).map fun o => (o.frame, frameRows rs o)
  let o := e.op
  let n := frameRows rs o
  let slot := if slots.contains e.slot then leastBelow 64 fun k => !slots.contains k else some e.slot
  let starts := 0 :: frames.map fun u => u.1 + u.2
  let frame := (starts.filter fun b => frameFree frames b n).foldl
    (fun (m : Option Nat) b => match m with | none => some b | some x => some (Nat.min x b)) none
  match slot, frame with
  | some k, some b => some { o with eng := eng, slot := k, frame := b }
  | _, _ => none

/-- Place every entry in order. -/
def placeOps (s : State) (pkg : Nat) (g : Graph) (rs : List Region) : List Ent → List Op → Option (List Op)
  | [], done => some done
  | e :: es, done => match placeOp s pkg g rs done e with
    | none => none
    | some o => placeOps s pkg g rs es (done ++ [o])

/-- A consumer entry with the assigned slot of its operator. -/
def relocCons (es : List Ent) (ops : List Op) (v : Nat) : Option Coord :=
  ((consAt es v).bind fun k => ops[k]?).map fun o => { eng := o.eng, slot := o.slot, pos := bits v 1 0 }

/-- Replace the slot field of a consumer entry by the assigned slot. -/
def reslot (es : List Ent) (ops : List Op) (v : Nat) : Nat :=
  match (consAt es v).bind fun k => ops[k]? with
  | some o => v - bits v 7 2 * 4 + o.slot * 4
  | none => v

/-- A CALL's configuration with assigned slots: its lead and its destination entries. -/
def relocCall (es : List Ent) (ops : List Op) (e : Ent) (w : Nat) : Nat :=
  let lead := (es.findIdx? fun x => decide (x.kind = 0x07) && x.sameEng e && decide (x.slot = bits w 21 16)).bind fun k =>
    (ops[k]?).map (·.slot)
  let w := w - bits w 21 16 * 2 ^ 16 + (lead.getD (bits w 21 16)) * 2 ^ 16
  (List.range 4).foldl (fun w k =>
    let c := bits w (22 * k + 45) (22 * k + 24)
    if bit c 21 then w - c * 2 ^ (22 * k + 24) + reslot es ops c * 2 ^ (22 * k + 24) else w) w

/-- The operator with its consumers and its configuration relocated. -/
def wireOp (es : List Ent) (ops : List Op) (e : Ent) (o : Op) : Op :=
  { o with
    cons := e.cons.filterMap fun v => (relocCons es ops v).map fun c => { port := bits v 20 19, dst := c }
    cfg := if opKind o = 0x07 then o.cfg.map fun w => BitVec.ofNat 256 (relocCall es ops e w.toNat) else o.cfg }

/-- First fit in the L1 pool (R296): a 512-byte-aligned address below the pool's end. -/
def l1Fit (p : Partition) (n : Nat) : Option Nat :=
  let up := fun a : Nat => (a + 511) / 512 * 512
  let starts := up p.l1Base :: p.l1Used.map fun u => up (u.1 + u.2)
  (starts.filter fun a => decide (a + n ≤ p.l1Base + p.l1Size) && p.l1Used.all fun u =>
    decide (a + n ≤ u.1) || decide (u.1 + u.2 ≤ a)).foldl
      (fun (m : Option Nat) a => match m with | none => some a | some x => some (Nat.min x a)) none

/-- Bytes of an L1 backing. -/
def backBytes (t : TRec) : Nat := cdiv t.bytes 512 * if isScaled t.fmt then 1024 else 512

/-- Declare the tiles of a record: its relocated entries, with L1 backing taken from the pool. -/
def declareTiles (pkg part : Nat) (g : Graph) (t : TRec) : List (Nat × Nat) → State → List TileRec → Option (State × List TileRec)
  | [], s, l => some (s, l)
  | (k, h) :: ds, s, l =>
    let id := relocTile pkg g k h
    let r : TileRec := { tile := id, rows := t.rows, cols := t.cols, fmt := t.fmt, level := t.level, pin := t.pin,
                         init := if t.init then some (bits t.v 95 64) else none }
    if !t.level then declareTiles pkg part g t ds s (l ++ [r])
    else match l1Fit (getPart s (pkg, part)) (backBytes t) with
      | none => none
      | some a =>
        let s := modPart s (pkg, part) fun p => { p with l1Used := (a, backBytes t) :: p.l1Used }
        declareTiles pkg part g t ds s (l ++ [{ r with back := gpa pkg a }])

/-- Declare the tiles of every record. -/
def declareAll (pkg part : Nat) (g : Graph) (es : List Ent) (ps : List (TRec × List Nat)) : List (TRec × List Nat) → State → List TileRec →
    Option (State × List TileRec)
  | [], s, l => some (s, l)
  | t :: rest, s, l => match declareTiles pkg part g t.1 (recTiles es ps t) s l with
    | none => none
    | some (s, l) => declareAll pkg part g es ps rest s l

/-- The report and count entries of the DISPATCH operators (R176): pairs downward on page P00 of their die offset. -/
def dispatchTiles (pkg : Nat) (g : Graph) (named : List (Nat × Nat)) : List Ent → List (Nat × Nat) →
    Option (List (Option (List TileId)))
  | [], _ => some []
  | e :: rest, used =>
    if e.kind ≠ 0x1D then (dispatchTiles pkg g named rest used).map (none :: ·)
    else
      match (((List.range 4096).reverse).filter fun k => !(named.contains (e.die, k) || used.contains (e.die, k))).take 2 with
      | [a, b] => (dispatchTiles pkg g named rest ((e.die, a) :: (e.die, b) :: used)).map
          (some [relocTile pkg g e.die a, relocTile pkg g e.die b] :: ·)
      | _ => none

/-- The records of DISPATCH entries: L0, n16, of the shapes that R176 allows. -/
def dispatchRecs (l : List (Option (List TileId))) : List TileRec :=
  l.flatMap fun x => match x with
    | some [a, b] => [{ tile := a, rows := 128, cols := 1, fmt := 0xA }, { tile := b, rows := 1, cols := 64, fmt := 0xA }]
    | _ => []

/-- Reserve the delay lines of the SWINs (R158): units in every bank of their memory tile. -/
def reserveLines (s : State) (key : Nat × Nat) : List Nat → Option State
  | [] => some s
  | k :: ks =>
    match (getGraph s key).bind fun g => g.ops[k]? with
    | none => reserveLines s key ks
    | some o =>
      if opKind o ≠ 0x15 then reserveLines s key ks
      else
        let n := 2 ^ (bits (opCfg o 0) 62 60 + 2)
        let others := modGraph s key fun g => { g with ops := lmod k (fun o => { o with eng := default }) g.ops }
        match findUnits others o.eng n with
        | none => none
        | some u => reserveLines (modGraph s key fun g => { g with ops := lmod k (fun o => { o with lineOff := u }) g.ops }) key ks

/-- Open or share the channels of a graph (R317). -/
def openChans (pkg die part agid h : Nat) : List (ChanRec × Nat) → State → List (Nat × Nat) → Except Word (State × List (Nat × Nat))
  | [], s, l => .ok (s, l)
  | (c, idx) :: cs, s, l =>
    match s.chans.find? fun x => decide (x.1.1 = pkg) && decide (x.2.state ≠ 0) && decide (x.2.part = part) && decide (x.2.name = c.name) with
    | some (k, x) =>
      if x.ownerThread.isSome ∨ x.rlog ≠ c.rlog ∨ x.glog ≠ c.glog ∨ x.cap ≠ c.cap ∨ x.grow ≠ c.grow then .error (recRefuse 8 idx)
      else openChans pkg die part agid h cs (modChan s k fun x => { x with grefs := x.grefs + 1 }) (l ++ [(k.2.1, k.2.2)])
    | none =>
      match freeChanIdx s pkg die, placeRing s pkg die part c.glog with
      | some i, some (p, m, o) =>
        let new : Chan := { name := c.name, part := part, agid := agid, state := 1, rlog := c.rlog, glog := c.glog, grow := c.grow,
                            cap := c.cap, rpage := p, rmt := m, roff := o, ownerGraph := h, grefs := 1 }
        openChans pkg die part agid h cs (setChan s (pkg, die, i) new) (l ++ [(die, i)])
      | _, _ => .error (errWord 0x03)

/-- Allocate the tiles with an initialiser or pin (R34): FULL, with their bytes. -/
def initTile (i : Image) (g : Graph) (agid : Nat) (s : State) (r : TileRec) : Option State :=
  if !r.pin ∧ r.init.isNone then some s
  else
    let t : Tile := { rows := r.rows, cols := r.cols, fmt := r.fmt, state := 3, level := r.level, pinned := r.pin,
                      refs := b2n r.pin, agid := agid, part := g.part, loc := r.back, byLoad := true }
    let t := { t with cmap := fullMap t }
    let bytes := match r.init with
      | some o => i.at o (tileBytes t)
      | none => absentBytes r.fmt (r.rows * r.cols)
    let fill := fun (s : State) (t : Tile) =>
      let s := writeTileImage s r.tile t 0 bytes
      if isScaled t.fmt then (List.range (tileChunks t)).foldl (fun s c => writeScale s r.tile t c (plainScale t c)) s else s
    if r.level then some (fill (setTile s r.tile t) t)
    else match findUnits s (tileMt r.tile) (cdiv (tileUnits t) 16) with
      | none => none
      | some o =>
        let t := { t with off := o, bankmap := 0xFFFF }
        some (fill (charge (setTile s r.tile t) r.tile.pkg g.part agid (tileCharge t)) t)

/-- Allocate them all. -/
def initTiles (i : Image) (g : Graph) (agid : Nat) : List TileRec → State → Option State
  | [], s => some s
  | r :: rs, s => match initTile i g agid s r with
    | none => none
    | some s => initTiles i g agid rs s

/-- The quota admits the L0 tiles that GLOAD allocates (R34, R261). -/
def initQuota (s : State) (pkg part agid : Nat) (l : List TileRec) : Bool :=
  quotaAdmits s pkg part agid (lsum ((l.filter fun r => (r.pin || r.init.isSome) && !r.level).map fun r =>
    tileCharge { rows := r.rows, cols := r.cols, fmt := r.fmt }))

/-- The engines, slots and pages of a new graph start afresh: arbiter weights, flags, shape tables (R285, R286, R29,
R100). -/
def freshSlots (s : State) (g : Graph) : State :=
  let s := g.ops.foldl (fun s o => modSlot s o.eng o.slot fun _ => { weight := opShare o }) s
  let vs := (g.ops.filter fun o => decide (opKind o = 0x10)).map (·.eng)
  vs.dedup.foldl (fun s e =>
    let names := (g.ops.filter fun o => decide (o.eng = e)).flatMap shapesNamed
    modVTile s e fun v => { v with shapes := g.shapes.filter fun x => names.contains x.1 }) s

/-- The pages of a graph are powered. -/
def powerPages (s : State) (pkg : Nat) (g : Graph) (on : Bool) : State :=
  g.reloc.foldl (fun s k => (List.range (g.prows * g.pcols)).foldl (fun s j =>
    { s with pageOn := tset (pkg, k.1, (k.2.1 + j / g.pcols) * 4 + k.2.2 + j % g.pcols) on s.pageOn }) s) s

/-- The pages of a set placed at a relocation. -/
def relocPages (pkg : Nat) (g : Graph) (reloc : List (Nat × Nat × Nat)) : List (Nat × Nat × Nat) :=
  reloc.flatMap fun k => (List.range (g.prows * g.pcols)).map fun j =>
    (pkg, k.1, (k.2.1 + j / g.pcols) * 4 + k.2.2 + j % g.pcols)

/-- Writing a page meets an uncorrectable error (R389); the codes it met are written afresh. -/
def pageError (s : State) (ps : List (Nat × Nat × Nat)) : Option State :=
  if ps.any s.badPages.contains then some { s with badPages := s.badPages.filter fun p => !ps.contains p } else none

/-- What an attempt to load comes to: a result, or waiting for compaction's moves. -/
inductive Loaded where
  | done (s : State) (w : Word)
  | moving (s : State)

/-- The least free graph handle. -/
def freeHandle (s : State) (pkg : Nat) : Option Nat := leastBelow 256 fun h => (getGraph s (pkg, h)).isNone

/-- Commit a checked graph (R238); an uncorrectable error in writing a page leaves nothing placed (R389). -/
def commitGraph (s0 : State) (pkg part agid : Nat) (ibase : Word) (i : Image) (o : Nat) (reloc : List (Nat × Nat × Nat)) :
    State × Word :=
  let d := readDesc i o
  let es := readEnts i d
  let rs := readRegions i d
  let ts := readTiles i d
  let cs := readConts i d
  let ps := recPlaces d.nd es ts
  let full := (s0, errWord 0x03)
  let g0 : Graph := { part := part, agid := agid, ibase := ibase, nd := d.nd, prows := d.rows, pcols := d.cols, reloc := reloc,
                      regions := rs,
                      conts := cs.map fun c => { copen := c.1, cclose := c.2.1, handler := c.2.2.1, members := membersOf es c.1 c.2.1 },
                      shapes := (readShapes i d).map fun x => (x.1, x.2.1) }
  match freeHandle s0 pkg, placeOps s0 pkg g0 rs es [], dispatchTiles pkg g0 (ps.flatMap (recTiles es ps)) es [],
    declareAll pkg part g0 es ps ps s0 [] with
  | some h, some ops, some disp, some (s, recs) =>
    let ops := ((es.zip ops).map fun x => wireOp es ops x.1 x.2)
    let ops := (ops.zip disp).map fun x => { x.1 with disp := x.2.getD [] }
    let g := { g0 with ops := ops, tiles := recs ++ dispatchRecs disp }
    let die0 := ((reloc.head?).map (·.1)).getD 0
    match reserveLines (setGraph s (pkg, h) g) (pkg, h) (List.range ops.length) with
    | none => full
    | some s => match openChans pkg die0 part agid h ((readChans i d).zipIdx) s [] with
      | .error w => (s0, w)
      | .ok (s, ks) =>
        let s := modGraph s (pkg, h) fun g => { g with chans := ks }
        if !initQuota s pkg part agid recs then full
        else match initTiles i g agid recs s with
          | none => full
          | some s => match pageError s0 (relocPages pkg g reloc) with
            | some s0 => (s0, errWord 0x09)
            | none => (powerPages (freshSlots s g) pkg g true, okWord h)
  | _, _, _, _ => full

/-- Load a graph whose image has been read (R238): the checks, placement with compaction, the commit. -/
def loadGraph (s : State) (pkg part agid : Nat) (ibase : Word) (i : Image) (o : Nat) : Loaded :=
  match graphRefuse i o with
  | some w => .done s w
  | none =>
    let d := readDesc i o
    match place s s.graphs pkg part d.nd d.rows d.cols with
    | some r => let x := commitGraph (forgetRoom s pkg) pkg part agid ibase i o r; .done x.1 x.2
    | none => match compactFor s pkg part d.nd d.rows d.cols with
      | some s => .moving s
      | none => .done (forgetRoom s pkg) (errWord 0x03)

/-- The parts of the image that an operator entry's reading takes: its configuration, edges and block. -/
def entReads (i : Image) (d : Desc) (k : Nat) : List (Nat × Nat) :=
  let word := i.num (d.off 0 + 64 * k) 32
  let cf := bits word 207 184
  let co := d.off 0 + 32 * cf
  let bo := d.blocks + 16 * cf
  let edges := (d.off 6 + 4 * bits word 183 160, 4 * bits word 159 156)
  if bits word 255 248 = 0x10 then [edges, (bo - 32, 56 + 8 * bits (i.num bo 16) 119 113)]
  else [edges, (co, 32 * cfgWords (bits word 255 248) (i.num co 32))]

/-- The parts of the image that GLOAD reads for the graph whose descriptor stands at o: offsets and lengths. -/
def imageReads (i : Image) (o : Nat) : List (Nat × Nat) :=
  let d := readDesc i o
  [(0, 128), (o, 64), (d.off 0, 64 * d.nops), (d.off 1, 8 * d.nreg), (d.off 2, 16 * d.ntile), (d.off 3, 16 * d.nchan),
    (d.off 4, 16 * d.ncont), (d.off 5, 16 * d.nshape)] ++ (List.range d.nops).flatMap (entReads i d) ++
  (readTiles i d).filterMap fun t => if t.init then some (bits t.v 95 64, t.bytes) else none

/-- Read parts of an image: whether one holds an uncorrectable word, and the state that counts the reads (R385). -/
def readParts (s : State) (ibase : Word) : List (Nat × Nat) → Bool × State
  | [] => (false, s)
  | (o, n) :: l =>
    let r := match translateRange s (ccEng s.cur.pkg s.cur.die) (curPart s) .cc .read (ibase.toNat + o) n with
      | .ok ps => let x := readPieces s ps; (x.2.1, x.2.2)
      | .error _ => (false, s)
    let q := readParts r.2 ibase l
    (r.1 || q.1, q.2)

/-- GLOAD (R238): async; s[rs1] is the descriptor's address in the image whose header stands at cc_ibase. -/
def execGload (rd rs1 : RegNo) (s : State) : Out :=
  .next <|
    if asyncFull s ∨ devWaits s then s
    else
      let th := curThr s
      let va := readReg th rs1
      match opRange s .read va 64 with
      | .error x => opTrap s x
      | .ok dp => match opRange s .read th.ibase 128 with
        | .error x => opTrap s x
        | .ok hp =>
          let hdr := readPieces s hp
          if hdr.2.1 ∨ (readPieces s dp).2.1 then asyncDone hdr.2.2 rd (errWord 0x09)
          else match headerRefuse hdr.1 (getPkg s s.cur.pkg).stepping with
            | some w => asyncDone (readPieces hdr.2.2 dp).2.2 rd w
            | none =>
              let secs := headerSecs hdr.1
              match opRange s .read th.ibase (imageBytes secs) with
              | .error x => opTrap s x
              | .ok ps =>
                let im := readPieces s ps
                let i : Image := { bs := im.1, secs := secs }
                let o := va.toNat - th.ibase.toNat
                let u := (readPieces hdr.2.2 dp).2.2
                if va.toNat < th.ibase.toNat then asyncDone u rd (recRefuse 1 0)
                else match descRefuse i o with
                  | some w => asyncDone u rd w
                  | none =>
                    let r := readParts s th.ibase (imageReads i o)
                    if r.1 then asyncDone r.2 rd (errWord 0x09)
                    else match loadGraph s s.cur.pkg th.part th.agid th.ibase i o with
                      | .moving s => s
                      | .done s w => asyncDone (readParts s th.ibase (imageReads i o)).2 rd w

/-! ### GFREE (R239) -/

/-- Forget everything an engine holds for an operator slot. -/
def clearSlot (s : State) (e : Eng) (slot : Nat) : State :=
  let vr := ((getEng s e).rows.filter fun q => decide (q.slot = slot) && q.backed).map (·.vrow)
  let s := vr.foldl (fun s v => unback s e v) s
  modEng s e fun x =>
    { x with rows := x.rows.filter (fun q => decide (q.slot ≠ slot)), fault := x.fault.filter (fun q => decide (q.slot ≠ slot)),
             freeze := x.freeze.filter (fun t => decide (t.dst.slot ≠ slot)), ready := x.ready.filter (fun a => decide (a.slot ≠ slot)),
             flow := x.flow.filter (fun a => decide (a.slot ≠ slot)), unit := x.unit.filter (fun a => decide (a.slot ≠ slot)),
             run := x.run.filter fun u => decide (u.act.slot ≠ slot)
             wload := x.wload.filter fun u => decide (u.act.slot ≠ slot)
             ingress := x.ingress.filter (fun t => decide (t.dst.slot ≠ slot)), slots := tdel slot x.slots,
             entries := x.entries.filter (fun q => decide (q.1.1 ≠ slot)),
             u := if onPage e then 0 else x.u, epoch := if onPage e then 0 else x.epoch,
             blocked := match x.blocked with
               | some b => if onPage e then none else some b
               | none => none }

/-- A graph shares a channel no longer (R320): the entry is freed at 0 with no endpoint. -/
def unshare (s : State) (k : ChanKey) : State :=
  let c := getChan s k
  let s := setChan s k { c with grefs := c.grefs - 1 }
  if c.grefs ≤ 1 ∧ c.wep = .none ∧ c.rep = .none then freeChan s k else s

/-- A slot of an engine belongs to a graph. -/
def slotOf (g : Graph) (e : Eng) (slot : Nat) : Bool := g.ops.any fun o => decide (o.eng = e) && decide (o.slot = slot)

/-- A pinned tile of a graph has accesses outstanding (R34). -/
def pinnedBusy (s : State) (g : Graph) : Bool :=
  g.tiles.any fun r => r.pin && (s.retires.any (fun w => decide (w.tile = r.tile)) ||
    s.chunkWrites.any (fun w => decide (w.tile = r.tile)) || s.ranges.any fun x => decide (x.tile = some r.tile))

/-- The channel endpoints and group members of a freed set's launches wait in their image, and no other operator is taken for
them (R239, R345). The launches leave their queues' windows. -/
def parkEnds (s : State) (pkg h : Nat) (g : Graph) : State :=
  let ls := (s.launches.filter fun l => decide (l.1.1 = pkg) && decide (l.2.record.graph = h)).map (·.1.2)
  let mine := fun (d : Coord) (l : Nat) => ls.contains l && slotOf g d.eng d.slot
  let park := fun x : Endpoint => match x with
    | .op d l => if mine d l then Endpoint.saved d l else x
    | x => x
  { s with
    chans := tmap (fun _ c => { c with wep := park c.wep, rep := park c.rep }) s.chans
    groups := tmap (fun _ x => match x.member with
      | some (d, l) => if mine d l then { x with member := none, parked := some (d, l) } else x
      | none => x) s.groups
    launchQs := tmap (fun k q => if k.1 = pkg then { q with window := q.window.filter fun w => !ls.contains w.2 } else q) s.launchQs }

/-- Release a graph's pages, tables, tiles, channels and backings (R239, R296, R320). The L1 backings of a saved set stay
with its image (R344), and its launches stay suspended there. -/
def unloadGraph (s : State) (pkg h : Nat) (g : Graph) : State :=
  let s := g.ops.foldl (fun s o => clearSlot s o.eng o.slot) (parkEnds s pkg h g)
  let s := g.tiles.foldl (fun s r => freeTile s r.tile) s
  let s := g.chans.foldl (fun s c => unshare s (pkg, c.1, c.2)) s
  let s := if g.saved then s else (g.tiles.filter (·.level)).foldl (fun s r => modPart s (gpaPkg r.back, g.part) fun p =>
    { p with l1Used := p.l1Used.filter fun u => decide (u.1 ≠ gpaLocal r.back) }) s
  let vs := (g.ops.filter fun o => onPage o.eng).map (·.eng)
  let s := vs.foldl (fun s e => { s with vtiles := tdel e s.vtiles, islands := tdel e s.islands }) s
  let s := modWheels s pkg g
  let s := { s with launches := s.launches.filter fun l => !(decide (l.1.1 = pkg) && decide (l.2.record.graph = h))
                    sources := s.sources.filter fun x => !(decide (x.pkg = pkg) && decide (x.graph = h))
                    inFlight := s.inFlight.filter fun t => !slotOf g t.dst.eng t.dst.slot
                    allocWait := s.allocWait.filter fun w => !slotOf g w.eng w.slot
                    xunits := s.xunits.filter fun u => !slotOf g u.eng u.slot }
  powerPages { s with graphs := tdel (pkg, h) s.graphs } pkg g false
where
  /-- The timer entries of the graph's operators leave. -/
  modWheels (s : State) (pkg : Nat) (g : Graph) : State :=
    { s with wheels := tmap (fun k w => if k.1 ≠ pkg then w else { w with ents := w.ents.filter fun t => match t.what with
        | .timer e tok => !slotOf g e tok.dst.slot
        | .trigger e slot _ => !slotOf g e slot
        | .twset _ _ => true }) s.wheels }

/-- GFREE (R239): refused while a launch of the graph is live, unless the graph is frozen and saved; it waits for accesses
of the graph's pinned tiles, which R34 lets nothing free before (DEDUCED, log 142). -/
def execGfree (rd rs1 : RegNo) (s : State) : Out :=
  .next <|
    if asyncFull s then s
    else
      let h := (rs s rs1).toNat
      match graphArg s h with
      | .error w => asyncDone s rd w
      | .ok g =>
        if g.moveTo.isSome then s
        else if hasLaunch s s.cur.pkg h ∧ !(g.frozen && g.saved) then asyncDone s rd (errWord 0x05)
        else if pinnedBusy s g then s
        else asyncDone (reevalAll (unloadGraph s s.cur.pkg h g)) rd (okWord 0)

end Sys2Proof.Machine
end

