-- ==== Sys2Proof/Machine/Repair.lean ====
section
/-!
DEFINITION. Machine/Repair.lean: removing work: the sweep that PURGE, GKILL and an unwinding share, the purge of
colours, CONTAINMENT_HELD, and the end of a launch (spec/05 R135; spec/11 R241, R243; spec/12 R281; spec/15 R342, R346).
-/
namespace Sys2Proof.Machine

/-! ### Sweeps -/

/-- What a sweep removes: tokens, and rows of an engine; and whether it counts what it removes as consumed (R135). -/
structure Sweep where
  tok : Token → Bool
  row : Eng → Row → Bool
  counts : Bool := false

/-- A removed token: its tile reference retires (R32), and the instances it is a member token of count it (R132). -/
def removeTok (s : State) (t : Token) : State :=
  let s := match findOp s t.dst.eng t.dst.slot with
    | some r => addPend s r t.tag false
    | none => s
  retireKept s (some t)

/-- A token without its reference, when that has retired already (R166). -/
def unref (t : Token) (spent : Bool) : Token := if spent then { t with kind := 0 } else t

/-- The tokens of a row are counted as consumed, or the hold of an armed TRIGGER is released (R128, R135). -/
def consumeRow (s : State) (e : Eng) (q : Row) : State :=
  match findOp s e q.slot with
  | none => s
  | some r =>
    let (f, s) := fresh s
    if q.trig.isSome then releaseUnit s f (colKeyAt r.key r.op q.tag) q.lid else consumeToks s r f true (rowToks q)

/-- The waits of a row leave: its wait for a destination, its draw, its trigger's deadline. -/
def dropWaits (s : State) (e : Eng) (slot vrow : Nat) : State :=
  let s := { s with
    allocWait := s.allocWait.filter fun w => !(decide (w.eng = e) && decide (w.slot = slot) && decide (w.vrow = vrow))
    graphs := tmap (fun k g => if k.1 ≠ e.pkg then g else { g with regions := g.regions.map fun r =>
      { r with draws := r.draws.filter fun d => !(decide (d.eng = e) && decide (d.slot = slot) && decide (d.vrow = vrow)) } }) s.graphs }
  modWheel s (e.pkg, e.die) fun w => { w with ents := w.ents.filter fun u => decide (u.what ≠ .trigger e slot vrow) }

/-- A row is cleared, and its activation and its waits leave with it. -/
def takeRow (s : State) (e : Eng) (q : Row) : State :=
  let mine := fun a : Act => decide (a.slot = q.slot) && decide (a.vrow = q.vrow)
  let x := getEng s e
  let s := ((x.ready ++ x.flow ++ x.unit).filter mine).foldl (fun s a => releaseBank (freeDests s a.dests) e a) s
  let s := modEng s e fun x =>
    { x with ready := x.ready.filter (fun a => !mine a), flow := x.flow.filter (fun a => !mine a),
             unit := x.unit.filter (fun a => !mine a) }
  clearRow (dropWaits s e q.slot q.vrow) e q.slot q.vrow

/-- A row is removed with its activation; its tokens are counted in the result, a TRIGGER's hold is not (R243). -/
def sweepRow (w : Sweep) (e : Eng) (s : State × Nat) (q : Row) : State × Nat :=
  let s1 := takeRow s.1 e q
  if w.counts then (consumeRow s1 e q, s.2)
  else if q.trig.isSome then (s1, s.2) else ((rowToks q).foldl removeTok s1, s.2 + (rowToks q).length)

/-- One engine is swept: rows, set-aside tokens, freeze buffer, ingress. -/
def sweepEng (w : Sweep) (s : State × Nat) (e : Eng) : State × Nat :=
  let r := ((getEng s.1 e).rows.filter (w.row e)).foldl (sweepRow w e) s
  let x := getEng r.1 e
  let ts := ((x.fault.filter fun a => w.tok a.tok).map fun a => unref a.tok a.spent) ++ x.freeze.filter w.tok ++ x.ingress.filter w.tok
  let keep := fun t : Token => !w.tok t
  let s1 := setEng r.1 e { x with
    fault := x.fault.filter (fun a : SetAside => keep a.tok)
    freeze := x.freeze.filter keep
    ingress := x.ingress.filter keep
    ovf := x.ovf && ((x.ingress.head?).map keep).getD false }
  (ts.foldl removeTok s1, r.2 + ts.length)

/-- TIMER holds of swept tokens leave. -/
def sweepTimers (w : Sweep) (s : State) : State :=
  { s with wheels := tmap (fun _ x => { x with ents := x.ents.filter fun u => match u.what with
      | .timer _ t => !w.tok t
      | _ => true }) s.wheels }

/-- Sweep every engine and wheel: the state and the number of tokens removed. -/
def sweep (w : Sweep) (s : State) : State × Nat :=
  let r := (s.engines.map (·.1)).foldl (sweepEng w) (s, 0)
  (sweepTimers w r.1, r.2)

/-! ### Purging colours (R243) -/

/-- The busy colours of a graph. -/
def busyCols (pkg h : Nat) (g : Graph) : List (ColKey × Colour) :=
  (g.regions.zipIdx).flatMap fun r => (r.1.recs.zipIdx).filterMap fun c =>
    if c.1.busy then some ({ pkg := pkg, graph := h, region := r.2, colour := c.2 }, c.1) else none

/-- The colours whose chain of holds leads to one of ks, in n rounds, and ks. -/
def heldUnder (all : List (ColKey × Colour)) : Nat → List ColKey → List ColKey
  | 0, ks => ks
  | n + 1, ks =>
    let more := (all.filter fun c => !ks.contains c.1 && (c.2.hold.map fun h => ks.contains h).getD false).map (·.1)
    if more.isEmpty then ks else heldUnder all n (ks ++ more)

/-- The colour that a token of a launch counts against is one of cols. -/
def tokIn (s : State) (cols : List ColKey) (lid : Nat) (t : Token) : Bool :=
  decide (t.lid = lid) && match findOp s t.dst.eng t.dst.slot with
    | some r => cols.contains (colKeyAt r.key r.op t.tag)
    | none => false

/-- The sweep of a launch's tokens under colours. -/
def colSweep (s : State) (cols : List ColKey) (lid : Nat) : Sweep :=
  { tok := tokIn s cols lid,
    row := fun e q => decide (q.lid = lid) && match findOp s e q.slot with
      | some r => cols.contains (colKeyAt r.key r.op q.tag)
      | none => false }

/-- Tokens of a sweep are in flight, or an activation that consumes some is under way. -/
def underWay (s : State) (w : Sweep) : Bool :=
  s.inFlight.any w.tok || s.updates.any (fun u => u.inc && (u.tok.map w.tok).getD false) ||
    s.engines.any (fun x => (runs x.2).any fun r => r.toks.any w.tok) || s.xfers.any (fun x => w.tok x.tok) ||
    s.copies.any (fun j => (copyToks j).any w.tok) || s.xunits.any fun u => (xunitToks u).any w.tok

/-- A colour returns to its list with its record zeroed (R22). -/
def zeroCol (s : State) (k : ColKey) : State :=
  let s := modRegion s k.pkg k.graph k.region fun r =>
    { r with recs := lmod k.colour (fun _ => {}) r.recs, free := r.free ++ [k.colour],
             tail := (r.tail + 1) % Nat.max 1 r.cap, links := tdel k.colour r.links }
  if k.region = 0 then rootReturned s k else s

/-- The containment instances keyed under colours leave, with their kept references. -/
def dropInsts (s : State) (key : Nat × Nat) (g : Graph) (hit : Op → Inst → Bool) : State :=
  (g.conts.zipIdx).foldl (fun s c => match g.ops[c.1.copen]? with
    | none => s
    | some o => c.1.insts.foldl (fun s x =>
        if x.2.state ≠ 0 ∧ hit o x.2 then modInst (retireKept (retireKept s x.2.kl) x.2.kr) key c.2 x.1 fun _ => {} else s) s) s

/-- The entry records of ENTERs and CALLs under colours are cleared. -/
def dropEntries (s : State) (key : Nat × Nat) (g : Graph) (cols : List ColKey) : State :=
  (g.ops.filter fun o => decide (opKind o = 0x04 ∨ opKind o = 0x07)).foldl (fun s o =>
    modEng s o.eng fun x => { x with entries := x.entries.filter fun q =>
      !(decide (q.1.1 = o.slot) && cols.contains { pkg := key.1, graph := key.2, region := opRid o, colour := q.1.2 }) }) s

/-- Purge colours of a graph for a launch, with everything drawn under them: the state and the tokens removed (R243). -/
def purgeCols (s : State) (key : Nat × Nat) (g : Graph) (ks : List ColKey) (lid : Nat) : State × Nat :=
  let cols := heldUnder (busyCols key.1 key.2 g) settleFuel ks
  let r := sweep (colSweep s cols lid) s
  let s := dropInsts r.1 key g fun o x => cols.contains (colKeyAt key o x.key)
  let s := dropEntries s key g cols
  let s := { s with updates := s.updates.filter fun u => !cols.contains u.key }
  let holds := (ks.filterMap fun k => (getCol s k).hold).filter fun h => !cols.contains h
  (holds.foldl dropLive (cols.foldl zeroCol s), r.2)

/-- Another busy colour of the region that is not closed has this one as its successor (R342). -/
def isSuccessor (s : State) (k : ColKey) : Bool :=
  ((getRegion s k).map fun r => r.recs.any fun c => c.busy && !c.closed && c.succv && decide (c.succ = k.colour)).getD false

/-! ### Containment (R135) -/

/-- A colour was drawn by a member ENTER or CALL of a containment record. -/
def memberDrew (s : State) (g : Graph) (c : Cont) (k : ColKey) : Bool :=
  (c.members.filterMap fun i => g.ops[i]?).any fun o =>
    let lead := (groupOf g o 21 16).find? fun p => decide (bits (opCfg p 0) 11 8 = 0)
    if opKind o = 0x04 then decide (bits (opCfg o 0) 7 0 = k.region)
    else if opKind o = 0x07 ∧ bits (opCfg o 0) 7 0 = k.region then
      match (getRegion s k).bind fun r => tfind k.colour r.links, lead with
      | some l, some p =>
        decide (l.dest = (List.range (bits (opCfg p 0) 23 22 + 1)).map fun j =>
          bits (opCfg p 0) (22 * j + 45) (22 * j + 24))
      | _, _ => (getEng s o.eng).entries.any fun q =>
          decide (q.1.1 = lowSlot (groupOf g o 21 16)) && decide (q.2.value = k.colour)
    else false

/-- A row that an unwinding instance discards (R135): of a member or the CCLOSE, under its key, and not selected to fire. -/
def instRow (s : State) (rec row : Nat) (e : Eng) (q : Row) : Bool :=
  let x := getEng s e
  !((x.flow ++ x.unit).any fun a => decide (a.slot = q.slot) && decide (a.vrow = q.vrow)) &&
    match findOp s e q.slot with
    | none => false
    | some r => (instancesOf r q.tag).contains (rec, row) ||
        (decide (opKind r.op = 0x0E) && decide (instAt r.g (bits (opCfg r.op 0) 15 0) q.tag = (rec, row)) &&
          unwindDiscards r { tag := q.tag })

/-- The tokens that stand in those rows are discarded and counted as consumed, and armed TRIGGERs release their holds. -/
def sweepInst (s : State) (pkg graph rec row : Nat) : State :=
  (sweep { tok := fun _ => false,
           counts := true,
           row := fun e q => decide (e.pkg = pkg) && instRow s rec row e q &&
             ((findOp s e q.slot).map fun r => decide (r.key = (pkg, graph))).getD false } s).1

/-- CONTAINMENT_HELD (R135): an unwinding instance discards the member tokens that wait in rows; once its pend is zero and
nothing of the colours drawn by its members is in flight or under way, those are purged, and it becomes held and raises
the containment-unwind trap. -/
def execContainmentHeld (pkg graph rec row : Nat) (s : State) : Out :=
  .next <|
    match getGraph s (pkg, graph) with
    | none => s
    | some g => match g.conts[rec]?, (g.conts[rec]?).bind fun c => g.ops[c.copen]? with
      | some c, some o =>
        let s := if (getInst g rec row).state = 2 then sweepInst s pkg graph rec row else s
        let g := (getGraph s (pkg, graph)).getD g
        let x := getInst g rec row
        if x.state ≠ 2 ∨ x.pend ≠ 0 then s
        else
          let k := colKeyAt (pkg, graph) o x.key
          let ks := ((busyCols pkg graph g).filter fun y => decide (y.2.hold = some k) && memberDrew s g c y.1).map (·.1)
          let under := heldUnder (busyCols pkg graph g) settleFuel ks
          if !under.isEmpty && underWay s (colSweep s under x.lid) then s
          else
          let s := modInst (purgeCols s (pkg, graph) g ks x.lid).1 (pkg, graph) rec row fun i => { i with state := 3 }
          raise s { dest := reportTo s pkg o.eng.die g.part x.lid, cause := 0x0207,
                    tval := BitVec.ofNat 64 (rec % 2 ^ 16 + x.tries * 2 ^ 16), tinfo := x.key, tcoord := coordNat x.bad,
                    lid := x.lid, src := o.eng }
      | _, _ => s

/-- The tile tokens that COPEN emits again on a replay find room for their references (R31). -/
def replayRoom (s : State) (key : Nat × Nat) (g : Graph) (rec row : Nat) : Bool :=
  match (g.conts[rec]?).bind fun c => opRef key g c.copen with
  | none => true
  | some r => refsRoom s (bothPorts r (getInst g rec row).kl (getInst g rec row).kr)

/-- A held instance replays or is abandoned (R135): the state of CRGNC. -/
def resolveInst (s : State) (key : Nat × Nat) (g : Graph) (rec row : Nat) (replay : Bool) : State :=
  match (g.conts[rec]?).bind fun c => opRef key g c.copen with
  | none => s
  | some r =>
    let x := getInst g rec row
    let (i, s) := fresh s
    if replay then
      let s := modInst s key rec row fun y => { y with state := 1, tries := Nat.min 15 (y.tries + 1) }
      emitToks (countFiring s r x.key x.lid 0) r i x.key (bothPorts r x.kl x.kr)
    else
      let s := modInst (retireKept (retireKept s x.kl) x.kr) key rec row fun _ => {}
      releaseUnit s i (colKeyAt key r.op x.key) x.lid

/-! ### Ending a launch (R241, R281, R346) -/

/-- The status word of a launch that failed: reason and code (R281). -/
def failWord (lid reason code : Nat) : Word := errWord code (lid + reason * 2 ^ 12)

/-- Write a launch's status and advance the counter of its signal event (R281). -/
def signalEvent (s : State) (pkg : Nat) (l : Launch) : State :=
  let e := qmEng pkg 0
  if !l.record.sv then s
  else match translateOpen s e l.part .op .atomic l.record.sig.toNat with
    | .hbm g =>
      let s := writeHbm s (g + 8) (leBytes 8 l.status.toNat)
      let c := leNat (memRead s.hbm g 8)
      writeHbm s g (leBytes 8 ((c + 1) % 2 ^ 64))
    | _ => s

/-- A record leaves its launch queue's window (R278). With the last record of a failing gang the failing ends (R280). -/
def leaveQueue (l : Launch) (lid : Nat) (q : LaunchQ) : LaunchQ :=
  { q with window := q.window.filter fun w => decide (w.2 ≠ lid)
           failing := q.failing && (l.record.gang || decide (q.window.head?.map (·.2) ≠ some lid)) }

/-- The last acts of a completion (R281): endpoints detach, the signal event is written, the trap thread's event bit is
set, and the LID is free. -/
def finishLaunch (s : State) (pkg lid : Nat) : State :=
  match getLaunch s (pkg, lid) with
  | none => s
  | some l =>
    let s := signalEvent (detachLaunch s pkg lid) pkg l
    let t := trapThread pkg l.record
    let s := if (getThr s t).part = l.part then setEvent s t else s
    reevalAll { s with launches := tdel (pkg, lid) s.launches,
                       launchQs := tmap (fun k q => if k.1 = pkg then leaveQueue l lid q else q) s.launchQs }

/-- A transfer of a launch ends without its result: its entries leave; writes that have been issued are performed. A store that
has read the whole of its tile has no reference to it left (R166). -/
def cancelXfer (s : State) (x : Xfer) : State :=
  let s := x.tok2.toList.foldl removeTok (removeTok s (unref x.tok (x.store && x.todo.isEmpty && x.stop.isNone)))
  freeDests { dropXfer s x with reqs := s.reqs.filter fun r =>
    !(decide (reqXfer r.from_ = some x.id) && (!x.store || decide (r.st = .held))) } x.dest.toList

/-- A REDUCE of a launch ends: its contribution leaves its own package's unfinished round; what has been sent to other members
stays with them (log 47). -/
def cancelXUnit (s : State) (u : XUnit) : State :=
  let s := freeDests ((xunitToks u).foldl removeTok (dropXUnit s u.id)) u.dest
  match u.reduce with
  | some g =>
    if u.phase ≠ 0 then s
    else modGroup s (u.eng.pkg, g) fun x =>
      { x with contribs := x.contribs.filter fun c => !(decide (c.rank = x.rank) && decide (c.tag = u.tok.tag)) }
  | none => s

/-- Stream commands of a launch are cancelled: the state and how many. -/
def cancelStreams (s : State) (pkg lid : Nat) : State × Nat :=
  let mine := fun (k : Eng × Nat) (c : StreamCmd) => decide (k.1.pkg = pkg) && decide (c.lid = lid) && decide (lid ≠ 0)
  let n := lsum (s.streams.map fun p => (p.2.slots.filter fun c => mine p.1 c.2).length)
  ({ s with streams := tmap (fun k p => { p with slots := p.slots.filter fun c => !mine k c.2 }) s.streams,
            lanes := s.lanes.filter fun x => !s.streams.any fun p => decide (p.1.1.pkg = pkg) &&
              p.2.slots.any fun c => mine p.1 c.2 && decide (c.2.id = x.2) }, n)

/-- The access that a held work names. -/
def heldId (h : Held) : List Nat :=
  match h with
  | .request i => [i]
  | _ => []

/-- Reports of a launch, whichever package raised them, and the work they hold leave (R346). A record that a QUOTA report held at
its channel is held no longer. -/
def cancelReports (s : State) (pkg lid : Nat) : State :=
  let mine := fun r : Report => decide (r.lid = lid) && decide (r.dest.pkg = pkg)
  let taken := fun th : Thread => th.ht && decide (th.heldLid = lid)
  let ids := (s.reports.filter mine).flatMap (fun r => heldId r.held) ++ s.threads.flatMap fun t => if t.1.pkg ≠ pkg then [] else
    (t.2.pend.filter mine).flatMap (fun r => heldId r.held) ++ if taken t.2 then heldId t.2.held else []
  { s with
    reports := s.reports.filter fun r => !mine r
    watchHolds := s.watchHolds.filter fun w => !ids.contains w.id
    inbox := s.inbox.map fun p => if ids.contains p.id then { p with held := false } else p
    threads := tmap (fun t th => if t.pkg ≠ pkg then th else
      { th with pend := th.pend.filter (fun r => !mine r), held := if taken th then .none else th.held }) s.threads
    qmReports := s.qmReports.filter fun q => !(decide (q.1.1 = pkg) && decide (q.2.lid = lid)) }

/-- An INJECT of a launch whose tokens have not left emits nothing and answers 0x05 (R242). -/
def cancelInjects (s : State) (pkg lid : Nat) : State :=
  { s with
    sources := s.sources.filter fun x => !(decide (x.pkg = pkg) && decide (x.lid = lid))
    threads := tmap (fun t th => if t.pkg ≠ pkg then th else { th with asyncs := th.asyncs.map fun a => match a.wait with
      | .inject _ l => if l = lid then { a with wait := .ready (errWord 0x05) } else a
      | _ => a }) s.threads }

/-- A request that a kill drops: a read, or one that a report holds. Other writes have been issued and are performed. -/
def cancels (r : Req) : Bool := decide (r.st = .held) || match r.op with
  | .read => true
  | _ => false

/-- Steps 1 and 2 of a kill (R241, R346): every firing stops, every token and every transfer of the launch leaves, and its
channel endpoints close, so that records of it which wait for a place are discarded (R326). Its result counts the packets and
commands cancelled. -/
def stopLaunch (s : State) (pkg lid : Nat) : State × Nat :=
  let tok := fun t : Token => decide (t.lid = lid) && decide (t.dst.eng.pkg = pkg)
  let s := (sweep { tok := tok, row := fun e q => decide (e.pkg = pkg) && decide (q.lid = lid) } s).1
  let flying := s.inFlight.filter tok ++ (s.updates.filterMap (·.tok)).filter tok
  let s := flying.foldl removeTok { s with
    inFlight := s.inFlight.filter (fun t => !tok t)
    updates := s.updates.filter fun u => !(decide (u.key.pkg = pkg) && decide (u.lid = lid)) }
  let s := s.engines.foldl (fun s x => (runs x.2).foldl (fun s u =>
    if u.toks.any tok then u.toks.foldl removeTok (abortRun s x.1 u) else s) s) s
  let s := (s.xfers.filter fun x => decide (x.eng.pkg = pkg) && decide (x.lid = lid)).foldl cancelXfer s
  let cs := s.copies.filter fun j => decide (j.eng.pkg = pkg) && decide (j.lid = lid)
  let s := cs.foldl (fun s j => (copyToks j).foldl removeTok (dropCopy s j)) s
  let s := { s with reqs := s.reqs.filter fun q => !(cs.any (ofCopy · q) && cancels q) }
  let s := (s.xunits.filter fun u => decide (u.eng.pkg = pkg) && decide (u.lid = lid)).foldl cancelXUnit s
  let st := cancelStreams s pkg lid
  let s := detachLaunch (cancelInjects (cancelReports st.1 pkg lid) pkg lid) pkg lid
  let s := { s with
    reqs := s.reqs.filter fun r => !(decide (reqPkg r.from_ = pkg) && decide (r.lid = lid) && cancels r)
    graphs := tmap (fun k g => if k.1 ≠ pkg then g else { g with regions := g.regions.map fun r =>
      { r with draws := r.draws.filter fun d => decide (d.lid ≠ lid) } }) s.graphs }
  let s := match (getLaunch s (pkg, lid)).bind fun l => (getGraph s (pkg, l.record.graph)).map fun g => (l.record.graph, g) with
    | some (h, g) => dropInsts s (pkg, h) g fun _ x => decide (x.lid = lid)
    | none => s
  (s, (cs.filter (·.packet.isSome)).length + st.2)

/-- Step 4 of a kill: tile entries to FREE, colours and contexts to their lists (R241). -/
def returnLaunch (s : State) (pkg lid : Nat) : State :=
  let ts := (s.tiles.filter fun t => decide (t.1.pkg = pkg) && decide (t.2.olid = lid) && decide (t.2.state ≠ 0) && !t.2.pinned).map (·.1)
  let s := ts.foldl freeTile s
  let cols := s.graphs.flatMap fun g => if g.1.1 ≠ pkg then [] else
    (busyCols g.1.1 g.1.2 g.2).filter fun c => decide (c.2.lid = lid)
  let ks := cols.map (·.1)
  let s := match (getLaunch s (pkg, lid)).bind fun l => (getGraph s (pkg, l.record.graph)).map fun g => (l.record.graph, g) with
    | some (h, g) => dropEntries s (pkg, h) g ks
    | none => s
  let holds := (cols.filterMap fun c => c.2.hold).filter fun h => !ks.contains h
  let s := holds.foldl dropLive (ks.foldl zeroCol s)
  { s with reqs := s.reqs.filter fun r => !(decide (r.lid = lid) && decide (reqPkg r.from_ = pkg) && decide (r.st = .done)) }

end Sys2Proof.Machine
end

