-- ==== Sys2Proof/Machine/Launch.lean ====
section
/-!
DEFINITION. Machine/Launch.lean: launch queues, the scheduler and the end of launches (spec/07 R163; spec/12 R275 to
R281; spec/14 R320, R321).
-/
namespace Sys2Proof.Machine

/-! ### Records (R276) -/

/-- The launch record of 64 bytes. Its bad mark says that a reserved bit is set or a field is out of range (R278). -/
def recOfBytes (b : List Byte) : LaunchRec :=
  let fl := field b 1 1
  let nw := field b 6 1
  let sv := bit fl 3
  let sig := field b 48 8
  let ws := (List.range 4).map fun k => field b (8 + 8 * k) 8
  let badAddr := fun a : Nat => decide (a % 16 ≠ 0) || decide (2 ^ 52 ≤ a)
  { graph := field b 0 1, prio := fl % 4, gang := bit fl 2, sv := sv, trap := field b 2 2, agid := field b 4 2 % 4096,
    nwait := nw % 8, queue := field b 7 1 % 8, wait := ws.map (BitVec.ofNat 64),
    thr := (List.range 4).map (fun k => field b (40 + 2 * k) 2), sig := BitVec.ofNat 64 sig,
    bad := decide (16 ≤ fl) || decide (16 ≤ field b 2 2) || decide (4096 ≤ field b 4 2) || decide (4 < nw) ||
      decide (8 ≤ field b 7 1) || (ws.take nw).any badAddr || (if sv then badAddr sig else decide (sig ≠ 0)) }

/-- The bytes of a record, its seal aside (R276, R436). -/
def bytesOfRec (r : LaunchRec) : List Byte :=
  leBytes 1 r.graph ++ leBytes 1 (r.prio + 4 * b2n r.gang + 8 * b2n r.sv) ++ leBytes 2 r.trap ++ leBytes 2 r.agid ++
    leBytes 1 r.nwait ++ leBytes 1 r.queue ++
    (List.range 4).flatMap (fun k => leBytes 8 ((r.wait[k]?).getD 0).toNat) ++
    (List.range 4).flatMap (fun k => leBytes 2 ((r.thr[k]?).getD 0)) ++ leBytes 8 r.sig.toNat

/-- The record of a GLAUNCH with s[rs2] = 0 (R276). -/
def plainRec (graph trap agid : Nat) : LaunchRec :=
  { graph := graph, prio := 2, trap := trap, agid := agid, wait := [0, 0, 0, 0], thr := [0, 0, 0, 0] }

/-- The trap thread is a thread of the launch's partition (R278). -/
def trapOk (s : State) (pkg part : Nat) (r : LaunchRec) : Bool := decide ((getThr s (trapThread pkg r)).part = part)

/-- The checks of R278's first two items: the status code, or none. -/
def recCode (s : State) (pkg part : Nat) (r : LaunchRec) : Option Nat :=
  if r.bad then some 0x02 else if !trapOk s pkg part r then some 0x0A else none

/-! ### The scheduler's memory accesses (R275, R277) -/

/-- Bytes at a virtual range of a partition, for the scheduler of a package. -/
def schedRead (s : State) (pkg part va n : Nat) : Option (List Byte) :=
  match translateRange s (qmEng pkg 0) part .op .read va n with
  | .ok ps => some (readPieces s ps).1
  | .error _ => none

/-- Write bytes at a virtual range of a partition. -/
def schedWrite (s : State) (pkg part va : Nat) (bs : List Byte) : Option State :=
  match translateRange s (qmEng pkg 0) part .op .write va bs.length with
  | .ok ps => some (writePieces s bs ps)
  | .error _ => none

/-! ### Accepting (R278) -/

/-- The launch queue of a partition by its number: its number in the package. -/
def queueOf (s : State) (pkg part num : Nat) : Option (Nat × LaunchQ) :=
  (s.launchQs.find? fun q => decide (q.1.1 = pkg) && q.2.set && decide (q.2.part = part) && decide (q.2.num = num)).map
    fun q => (q.1.2, q.2)

/-- The GLAUNCH that appended a record receives its LID. -/
def answerLaunch (s : State) (pkg q idx lid : Nat) : State :=
  { s with threads := tmap (fun t th => if t.pkg ≠ pkg then th else
      { th with asyncs := th.asyncs.map fun a =>
          if a.wait = .launch q idx then { a with wait := .ready (okWord lid) } else a }) s.threads }

/-- LAUNCH_ACCEPT (R278): the scheduler reads the sealed record at the read index of queue q into the window of 16,
stores the index + 1 and assigns the LID. -/
def execLaunchAccept (pkg q : Nat) (s : State) : Out :=
  .next <|
    let lq := getLaunchQ s (pkg, q)
    if !lq.set ∨ 16 ≤ lq.window.length ∨ (getPart s (pkg, lq.part)).flr ≠ 0 then s
    else match schedRead s pkg lq.part (lq.base.toNat + 8) 8, leastBelow 4096 fun l => decide (l ≠ 0) && (getLaunch s (pkg, l)).isNone with
      | some ri, some lid =>
        let r := leNat ri
        let at_ := lq.base.toNat + 64 + 64 * (r % 2 ^ lq.log2)
        let s := coreReads (coreReads s pkg lq.part (lq.base.toNat + 8) 8) pkg lq.part at_ 64
        match schedRead s pkg lq.part at_ 64 with
        | none => s
        | some b =>
          if field b 56 8 ≠ (r + 1) % 2 ^ 64 then s
          else match schedWrite s pkg lq.part (lq.base.toNat + 8) (leBytes 8 ((r + 1) % 2 ^ 64)) with
            | none => s
            | some s =>
              let rec0 := recOfBytes b
              let (o, s) := fresh s
              let s := setLaunch s (pkg, lid)
                { record := rec0, part := lq.part, queue := q, order := o, waitOk := decide (rec0.nwait = 0) }
              answerLaunch (setLaunchQ s (pkg, q) { lq with window := lq.window ++ [(r, lid)] }) pkg q r lid
      | none, _ => coreReads s pkg lq.part (lq.base.toNat + 8) 8
      | _, _ => s

/-! ### Heads and gangs (R278, R280) -/

/-- The launches of a window, in slot order. -/
def windowOf (s : State) (pkg q : Nat) : List (Nat × Launch) :=
  (getLaunchQ s (pkg, q)).window.filterMap fun w => (getLaunch s (pkg, w.2)).map fun l => (w.2, l)

/-- The gang at the head of a queue: its members, and whether it is whole. A run of gang bits waits for its last record,
unless the window is full or the run has failed already (R280). -/
def headGang (s : State) (pkg q : Nat) : List (Nat × Launch) × Bool :=
  let w := windowOf s pkg q
  let run := w.takeWhile fun l => l.2.record.gang
  if run.length < w.length then (w.take (run.length + 1), true)
  else (w, decide (16 ≤ w.length) || (getLaunchQ s (pkg, q)).failing)

/-- A wait event of a record (R277): none when its address cannot be read. -/
def eventMet (s : State) (pkg : Nat) (l : Launch) (k : Nat) : Option Bool :=
  match schedRead s pkg l.part ((l.record.wait[k]?).getD 0).toNat 8 with
  | none => none
  | some b => some (decide (((leNat b + 2 ^ 64 - (l.record.thr[k]?).getD 0) % 2 ^ 16) < 2 ^ 15))

/-- LAUNCH_EVENT_POLL (R277): the wait events of the gang at the head of queue q are read. One that faults does not hold
the record back: it fails at start. -/
def execLaunchEventPoll (pkg q : Nat) (s : State) : Out :=
  .next <|
    (headGang s pkg q).1.foldl (fun s m =>
      let met := (List.range m.2.record.nwait).all fun k => (eventMet s pkg m.2 k).getD true
      let s := (m.2.record.wait.take m.2.record.nwait).foldl (fun s va => coreReads s pkg m.2.part va.toNat 8) s
      setLaunch s (pkg, m.1) { m.2 with waitOk := met }) s

/-- A member is eligible (R278): its events are satisfied, and its graph is loaded, not frozen and not being moved. A
handle that names no graph of the partition fails at start. -/
def memberReady (s : State) (pkg : Nat) (l : Launch) : Bool :=
  l.waitOk && match getGraph s (pkg, l.record.graph) with
    | some g => decide (g.part ≠ l.part) || (running g && g.moveTo.isNone)
    | none => true

/-- The queue's head gang, when it is eligible. The rest of a gang that has failed waits for nothing (R280). -/
def eligible (s : State) (pkg q : Nat) : Option (List (Nat × Launch)) :=
  let g := headGang s pkg q
  if g.2 ∧ !g.1.isEmpty ∧ ((getLaunchQ s (pkg, q)).failing || g.1.all fun m => memberReady s pkg m.2) then some g.1 else none

/-- The start order of two heads with their queues (R278): priority, then acceptance, then queue. -/
def headBefore (a b : Nat × List (Nat × Launch)) : Bool :=
  match a.2, b.2 with
  | x :: _, y :: _ =>
    decide (y.2.record.prio < x.2.record.prio) || (decide (y.2.record.prio = x.2.record.prio) &&
      (decide (x.2.order < y.2.order) || (decide (x.2.order = y.2.order) && decide (a.1 < b.1))))
  | _, _ => false

/-! ### Names (R163, R320, R321) -/

/-- The packages where a name is looked up: the launch's own, then the others of its domain, ascending. -/
def namePkgs (s : State) (pkg : Nat) : List Nat :=
  pkg :: sortBy (fun a b => decide (a ≤ b)) ((s.chans.map (·.1.1)).dedup.filter fun p => decide (p ≠ pkg) && sameDomain s pkg p)

/-- The open channel that a name resolves to. -/
def findName (s : State) (pkg part name : Nat) : Option ChanKey :=
  (namePkgs s pkg).findSome? fun p =>
    (s.chans.find? fun c => decide (c.1.1 = p) && decide (c.2.state ≠ 0) && decide (c.2.part = part) && decide (c.2.name = name)).map (·.1)

/-- Attach an operator of a launch as the writer of a channel. -/
def attachWriter (s : State) (k : ChanKey) (c : Coord) (lid : Nat) : Except Nat State :=
  let x := getChan s k
  if x.wep ≠ .none then .error 0x05
  else .ok (setChan s k { x with wep := .op c lid, state := 1, credit := creditOf s k, sent := x.wrec })

/-- Attach an operator as the reader of a channel. A declared tile larger than a record raises the shape fault (R174). -/
def attachReader (s : State) (r : OpRef) (k : ChanKey) (c : Coord) (lid : Nat) : Except Nat State :=
  let x := getChan s k
  let d := declared r.g (destTile r (bits (opCfg r.op 0) 31 0) 0)
  let fmt := ((tileRecOf r.g d.1).map (·.fmt)).getD 0
  let s' := setChan s k { x with rep := .op c lid }
  if x.rep ≠ .none then .error 0x05
  else if !bit (opCfg r.op 0) 64 ∧ recBytes x < d.2.1 * d.2.2 * elemBytes fmt then
    .ok (raiseAt (noteFault s' r.key.1 lid 3) c r.g.part lid 0x010C d.1.handle 0)
  else .ok s'

/-- Attach a REDUCE operator of a launch to its group on the package (R163). -/
def attachGroup (s : State) (pkg g : Nat) (c : Coord) (lid : Nat) : Except Nat State :=
  let x := getGroup s (pkg, g)
  if !x.bound then .error 0x04
  else if x.member.isSome then .error 0x05
  else .ok (setGroup s (pkg, g) { x with member := some (c, lid) })

/-- Resolve the names of one operator. -/
def resolveOp (s : State) (pkg part lid : Nat) (r : OpRef) : Except Nat State :=
  let c := opCoord r.op
  let named := fun (n : Nat) => (findName s pkg part n).elim (.error 0x04 : Except Nat ChanKey) .ok
  match opKind r.op with
  | 0x1B => (named (bits (opCfg r.op 0) 63 32)).bind fun k => attachReader s r k c lid
  | 0x1C => (named (bits (opCfg r.op 0) 63 32)).bind fun k => attachWriter s k c lid
  | 0x1D => (dispatchNames r.op).foldl (fun (x : Except Nat State) n => x.bind fun s =>
      match findName s pkg part n with
      | none => .error 0x04
      | some k => attachWriter s k c lid) (.ok s)
  | 0x1E => attachGroup s pkg (bits (opCfg r.op 0) 39 32) c lid
  | _ => .ok s

/-- Resolve the names of a member. -/
def resolveMember (pkg : Nat) (s : State) (m : Nat × Launch) : Except Nat State :=
  match getGraph s (pkg, m.2.record.graph) with
  | none => .error 0x04
  | some g => (List.range g.ops.length).foldl (fun (x : Except Nat State) i => x.bind fun s =>
      match opRef (pkg, m.2.record.graph) g i with
      | some r => resolveOp s pkg m.2.part m.1 r
      | none => .ok s) (.ok s)

/-! ### Starting (R120, R278) -/

/-- An event address faults in translation, or is host memory (R277). -/
def eventFault (s : State) (pkg : Nat) (l : Launch) : Bool :=
  let at_ := fun (acc : Acc) (va : Word) => match translate s (qmEng pkg 0) l.part .op acc va.toNat with
    | .hbm _ => false
    | _ => true
  (l.record.wait.take l.record.nwait).any (at_ .read) || (l.record.sv && at_ .atomic l.record.sig)

/-- The checks of a member at start, names aside. -/
def memberCode (s : State) (pkg : Nat) (l : Launch) : Option Nat :=
  (recCode s pkg l.part l.record).orElse fun _ =>
    match getGraph s (pkg, l.record.graph) with
    | none => some 0x04
    | some g => if g.part ≠ l.part then some 0x0A else if eventFault s pkg l then some 0x02 else none

/-- A failed member completes without firing, and raises launch-failed (R278, R281). -/
def failMember (pkg code : Nat) (s : State) (m : Nat × Launch) : State :=
  let st := failWord m.1 0 code
  let l := m.2
  let dest := if trapOk s pkg l.part l.record then trapThread pkg l.record else faultThread s pkg 0 l.part
  let s := setLaunch s (pkg, m.1) { l with state := 2, status := st }
  raise s { dest := dest, cause := 0x0205, tval := st, tcoord := coordNat { eng := qmEng pkg 0 }, lid := m.1,
            src := qmEng pkg 0 }

/-- Draw the root instance of a member (R120). -/
def drawRoot (pkg : Nat) (s : State) (m : Nat × Launch) : Option State :=
  (drawColour s pkg m.2.record.graph 0 m.1 none true).map fun x =>
    holdLive (modLaunch x.2 (pkg, m.1) fun l => { l with state := 1, root := some x.1, unitHeld := true })
      { pkg := pkg, graph := m.2.record.graph, region := 0, colour := x.1 }

/-- Draw the root instances of every member, or of none. -/
def drawRoots (pkg : Nat) : List (Nat × Launch) → State → Option State
  | [], s => some s
  | m :: ms, s => match drawRoot pkg s m with
    | none => none
    | some s => drawRoots pkg ms s

/-- A started member: its launch SOURCEs are asked to fire, all under one firing name (R120), and its break-enable bit takes
the partition's default (R393). With no such SOURCE, its own unit is released. -/
def fireMember (pkg : Nat) (gang : List Nat) (s : State) (m : Nat × Launch) : State :=
  match getGraph s (pkg, m.2.record.graph), getLaunch s (pkg, m.1) with
  | some g, some l =>
    let src := (List.range g.ops.length).filter fun i => (g.ops[i]?).any fun o => decide (opKind o = 0x01) && bit (opCfg o 0) 251
    let c := l.root.getD 0
    let tag := BitVec.ofNat 64 (c * 2 ^ 48)
    let s := setLaunch s (pkg, m.1) { l with gang := gang, srcLeft := src.length, unitHeld := !src.isEmpty, activity := true,
                                             sampled := (getPkg s pkg).time }
    let (f, s) := fresh s
    let s := setBreak s (pkg, m.1) (getPart s (pkg, l.part)).brk
    let s := src.foldl (fun s i =>
      { s with sources := s.sources ++ [{ pkg := pkg, graph := l.record.graph, op := i, lid := m.1, tag := tag, atLaunch := true, id := f }] }) s
    let s := traceClass s pkg (((g.reloc.head?).map (·.1)).getD 0) l.part 1 0 0 0 m.1 0x07
    if src.isEmpty then
      releaseUnit s f { pkg := pkg, graph := l.record.graph, region := 0, colour := c } m.1
    else s
  | _, _ => s

/-- Records of a queue leave its window. -/
def leaveWindow (s : State) (pkg q : Nat) (ms : List (Nat × Launch)) : State :=
  modLaunchQ s (pkg, q) fun x => { x with window := x.window.filter fun w => !(ms.map (·.1)).contains w.2 }

/-- Every member of a gang fails with a code (R278). -/
def failGang (s : State) (pkg q code : Nat) (ms : List (Nat × Launch)) : State :=
  ms.foldl (failMember pkg code) (leaveWindow s pkg q ms)

/-- Start a gang, or fail every member. A member whose root list is empty holds the whole gang at the head: none. A gang of
more than 8 members fails, those that are accepted later too (R280). -/
def startGang (s : State) (pkg q : Nat) (ms : List (Nat × Launch)) : Option State :=
  if 8 < ms.length ∨ (getLaunchQ s (pkg, q)).failing then
    some (failGang (modLaunchQ s (pkg, q) fun x => { x with failing := ms.all fun m => m.2.record.gang }) pkg q 0x02 ms)
  else match ms.findSome? fun m => memberCode s pkg m.2 with
    | some c => some (failGang s pkg q c ms)
    | none => match ms.foldl (fun (x : Except Nat State) m => x.bind fun s => resolveMember pkg s m) (.ok s) with
      | .error c => some (failGang s pkg q c ms)
      | .ok s1 => (drawRoots pkg ms s1).map fun s2 => ms.foldl (fireMember pkg (ms.map (·.1))) (leaveWindow s2 pkg q ms)

/-- The eligible heads of a package with their queues, in start order (R278). -/
def startOrder (s : State) (pkg : Nat) : List (Nat × List (Nat × Launch)) :=
  sortBy (fun a b => !headBefore b a) ((List.range 32).filterMap fun q => (eligible s pkg q).map fun g => (q, g))

/-- LAUNCH_START (R278, R279): of the eligible heads the highest priority, then the earliest accepted, then the lowest
queue, starts. A head that an empty root list holds does not hold the other queues. -/
def execLaunchStart (pkg : Nat) (s : State) : Out :=
  .next <| ((startOrder s pkg).findSome? fun h => startGang s pkg h.1 h.2).getD s

/-! ### Completion (R281) -/

/-- A copy or a started consuming stream command of a launch has not ended: its writes are to come (R268, R281). -/
def workPending (s : State) (pkg lid : Nat) : Bool :=
  (s.copies.any fun j => decide (j.eng.pkg = pkg) && decide (j.lid = lid)) ||
  s.streams.any fun p => decide (p.1.1.pkg = pkg) && p.2.slots.any fun c =>
    decide (c.2.lid = lid) && c.2.consumes && decide (c.2.phase ≠ 0)

/-- LAUNCH_COMPLETE (R281): the root instance of launch n has returned, or the launch failed at start: once every write
of it has been performed, its status and signal event are written, the trap thread is told, and the LID is freed. -/
def execLaunchComplete (pkg n : Nat) (s : State) : Out :=
  .next <|
    match getLaunch s (pkg, n) with
    | none => s
    | some l =>
      if l.state ≠ 2 ∨ l.killed ∨ writesPending s pkg n ∨ workPending s pkg n then s
      else
        let die := (((getGraph s (pkg, l.record.graph)).bind fun g => g.reloc.head?).map (·.1)).getD 0
        finishLaunch (traceClass s pkg die l.part 1 0 l.status.toNat 0 n 0x08) pkg n

end Sys2Proof.Machine
end

