-- ==== Sys2Proof/Machine/GraphOps.lean ====
section
/-!
DEFINITION. Machine/GraphOps.lean: GLAUNCH, GKILL, INJECT, PURGE, MSREAD, CLREAD, FREEZE and THAW (spec/11 R240 to
R245; spec/15 R340 to R343, R346).
-/
namespace Sys2Proof.Machine

/-! ### Queues in memory (R250, R252, R275) -/

/-- The doubleword that an operand range of 8 bytes holds. -/
def pieceWord (s : State) (ps : List (Target × Nat)) : Nat := leNat (readPieces s ps).1

/-- Append a body to a queue: a slot is claimed by a bounded AMOINC with bound read index + depth, filled and sealed (R250,
R252). Every range is checked before that has any effect (R236): the claimed index, the data trap of the first range that
faults, or 0x01 when the queue is full. -/
def appendSlot (s : State) (base log2 : Nat) (body : List Byte) : Except ((Nat × Word) ⊕ Word) (Nat × State) :=
  match opRange s .atomic (BitVec.ofNat 64 base) 8, opRange s .read (BitVec.ofNat 64 (base + 8)) 8 with
  | .error x, _ => .error (.inl x)
  | .ok _, .error x => .error (.inl x)
  | .ok wp, .ok rp =>
    let wi := pieceWord s wp
    let n := amoValue 8 (BitVec.ofNat 64 wi) (BitVec.ofNat 64 (pieceWord s rp + 2 ^ log2)) 0
    if !n.2 then .error (.inr (errWord 0x01))
    else match opRange s .write (BitVec.ofNat 64 (base + 64 + 64 * (wi % 2 ^ log2))) 64 with
      | .error x => .error (.inl x)
      | .ok ps =>
        .ok (wi, writePieces (writePieces s (leBytes 8 n.1.toNat) wp) (body.take 56 ++ leBytes 8 ((wi + 1) % 2 ^ 64)) ps)

/-! ### GLAUNCH (R240, R276, R278) -/

/-- A set is being moved (R274). -/
def setMoving (s : State) (pkg h : Nat) : Bool := ((getGraph s (pkg, h)).bind (·.moveTo)).isSome

/-- A set that a handle of the issuing thread names is being moved. -/
def moving (s : State) (h : Nat) : Bool := setMoving s s.cur.pkg h

/-- GLAUNCH on a record. -/
def launchRecord (s : State) (rd : RegNo) (r : LaunchRec) : State :=
  match recCode s s.cur.pkg (curPart s) r with
  | some c => asyncDone s rd (errWord c)
  | none => match queueOf s s.cur.pkg (curPart s) r.queue with
    | none => asyncDone s rd (errWord 0x04)
    | some (q, lq) => match appendSlot s lq.base.toNat lq.log2 (bytesOfRec r) with
      | .error (.inl x) => opTrap s x
      | .error (.inr w) => asyncDone s rd w
      | .ok (i, s) => asyncIssue s rd (.launch q i)

/-- GLAUNCH (R240): appends a record to a launch queue; its LID lands when the record is accepted. -/
def execGlaunch (rd rs1 rs2 : RegNo) (s : State) : Out :=
  .next <|
    let h := (rs s rs1).toNat
    let va := rs s rs2
    if asyncFull s ∨ devWaits s ∨ moving s h then s
    else if 256 ≤ h then asyncDone s rd (errWord 0x04)
    else if va = 0 then launchRecord s rd (plainRec h (s.cur.thr + 4 * s.cur.die) (curThr s).agid)
    else match opRange s .read va 64 with
      | .error x => opTrap s x
      | .ok ps =>
        let b := readPieces s ps
        if b.2.1 then asyncDone b.2.2 rd (errWord 0x09) else launchRecord b.2.2 rd { recOfBytes b.1 with graph := h }

/-! ### GKILL (R241, R346) -/

/-- Begin to end a launch for a reason (R281). -/
def beginKill (s : State) (pkg lid reason : Nat) : State × Nat :=
  let s := modLaunch s (pkg, lid) fun l =>
    { l with killed := true, status := if l.state = 2 then l.status else failWord lid reason 0x05 }
  let q := ((getLaunch s (pkg, lid)).map (·.queue)).getD 0
  let s := modLaunchQ s (pkg, q) fun x => { x with window := x.window.filter fun w => decide (w.2 ≠ lid) }
  stopLaunch s pkg lid

/-- GKILL (R241): its first two steps at issue; the result lands after the fourth. -/
def execGkill (rd rs1 : RegNo) (s : State) : Out :=
  .next <|
    if asyncFull s then s
    else
      let lid := (rs s rs1).toNat
      match launchArg s lid with
      | .error w => asyncDone s rd w
      | .ok l =>
        if moving s l.record.graph then s
        else if l.killed then asyncIssue s rd (.kill lid 0)
        else
          let r := beginKill s s.cur.pkg lid l.why
          asyncIssue r.1 rd (.kill lid r.2)

/-- Sealed packets of a launch that a copy queue has not taken yet, from read index r on, in n slots. -/
def sealedOf (s : State) (e : Eng) (c : CopyQ) (lid : Nat) : Nat → Nat → Bool
  | 0, _ => false
  | n + 1, r => match engineRead s e c.part (c.base.toNat + 64 + 64 * (r % 2 ^ c.log2)) 64 with
    | none => false
    | some b => decide (field b 56 8 = (r + 1) % 2 ^ 64) && (decide (field b 2 2 % 4096 = lid) || sealedOf s e c lid n (r + 1))

/-- A copy queue of the package still holds a sealed packet of a launch; the service core looks (log 130). -/
def packetsWait (s : State) (pkg lid : Nat) : Bool :=
  s.copyQs.any fun q => decide (q.1.1 = pkg) && q.2.set &&
    match engineRead s (qmEng pkg q.1.2.1) q.2.part (q.2.base.toNat + 8) 8 with
    | some ri => sealedOf s (qmEng pkg q.1.2.1) q.2 lid (2 ^ q.2.log2) (leNat ri)
    | none => false

/-- Every write of a killed launch has been performed, and no packet of it is left (R241 step 3, R326). -/
def killReady (s : State) (pkg lid : Nat) : Bool := !writesPending s pkg lid && !packetsWait s pkg lid

/-- Steps 3 and 4 of a kill, and the completion: every GKILL of the LID gets its result (R241). -/
def endKill (s : State) (pkg lid : Nat) : State :=
  let die := (((getLaunch s (pkg, lid)).bind fun l => getGraph s (pkg, l.record.graph)).bind fun g => g.reloc.head?.map (·.1)).getD 0
  let st := ((getLaunch s (pkg, lid)).map (·.status)).getD 0
  let part := ((getLaunch s (pkg, lid)).map (·.part)).getD 0
  let s := traceClass (returnLaunch s pkg lid) pkg die part 1 0 st.toNat 0 lid 0x08
  let s := finishLaunch s pkg lid
  let counts := s.threads.flatMap fun t => if t.1.pkg ≠ pkg then [] else t.2.asyncs.filterMap fun a => match a.wait with
    | .kill l n => if l = lid then some n else none
    | _ => none
  let n := counts.foldl Nat.max 0
  { s with threads := tmap (fun t th => if t.pkg ≠ pkg then th else
      { th with asyncs := th.asyncs.map fun a => match a.wait with
          | .kill l _ => if l = lid then { a with wait := .ready (okWord n) } else a
          | _ => a }) s.threads }

/-! ### INJECT (R242) -/

/-- The injection descriptor of 32 bytes. -/
def injOfBytes (b : List Byte) : InjDesc :=
  { tag := BitVec.ofNat 64 (field b 0 8), lid := field b 8 2 % 4096, graph := field b 10 1, replace := bit (field b 11 1) 0,
    cl := bit (field b 11 1) 1, op := field b 12 2, value := BitVec.ofNat 64 (field b 16 8),
    bad := decide (4096 ≤ field b 8 2) || decide (4 ≤ field b 11 1) || decide (field b 14 2 ≠ 0) || decide (field b 24 8 ≠ 0) }

/-- The regions of the chain of enclosing regions of a region, outermost first, within n rounds. -/
def chainOf (g : Graph) : Nat → Nat → List Nat
  | 0, k => [k]
  | n + 1, k =>
    let r := (g.regions[k]?).getD {}
    if r.func then [k] else chainOf g n r.parent ++ [k]

/-- The colour keys that a tag names along the chain of a region. -/
def chainKeys (key : Nat × Nat) (g : Graph) (region : Nat) (tag : Word) : List ColKey :=
  ((chainOf g 8 region).zipIdx).map fun x => { pkg := key.1, graph := key.2, region := x.1, colour := tagField tag x.2 }

/-- Make the colour at the SOURCE's depth busy, and keep it busy until the SOURCE fires (R242). A named colour may leave the
middle of its region's list: the spec does not say which of head, tail and the other positions move then. The model's choice
(DESIGN CHOICE, log 44): head stays, the entries behind it keep their order, and tail moves back by one. -/
def takeColour (s : State) (k : ColKey) (hold : Option ColKey) (lid : Nat) (cl : Bool) : State :=
  if (getCol s k).busy then holdLive (if cl then modCol s k fun c => { c with closed := true } else s) k
  else
    let s := modRegion s k.pkg k.graph k.region fun r =>
      { r with free := r.free.erase k.colour, tail := (r.tail + r.cap - 1) % Nat.max 1 r.cap,
               recs := lmod k.colour (fun _ => { busy := true, closed := cl, hold := hold, lid := lid }) r.recs }
    let s := match hold with
      | some h => holdLive s h
      | none => s
    holdLive s k

/-- INJECT's checks and its first acts (R242): the failure, or the state with the firing asked for under a name. -/
def inject (s : State) (pkg part : Nat) (d : InjDesc) (id : Nat) : Except Word State :=
  match getGraph s (pkg, d.graph), getLaunch s (pkg, d.lid) with
  | none, _ => .error (errWord (if d.bad then 0x02 else 0x04))
  | _, none => .error (errWord (if d.bad then 0x02 else 0x04))
  | some g, some l =>
    match g.ops[d.op]? with
    | none => .error (errWord 0x02)
    | some o =>
      let tile := decide (bits (opCfg o 0) 255 252 = 2)
      let ks := chainKeys (pkg, d.graph) g (opRid o) d.tag
      let k := (ks.getLast?).getD {}
      let outer := ks.dropLast
      let r := (getRegion s k).getD {}
      match firstErr [
        refuseIf (d.bad || decide (opKind o ≠ 0x01) || (d.replace && tile && decide (2 ^ 18 ≤ d.value.toNat))) (errWord 0x02),
        refuseIf (decide (g.part ≠ part) || decide (l.part ≠ part)) (errWord 0x0A),
        refuseIf (decide (l.record.graph ≠ d.graph)) (errWord 0x04),
        refuseIf l.killed (errWord 0x05),
        refuseIf (decide (tagFunc d.tag ≠ ((ks.head?).map (·.region)).getD 0) || decide (r.cap ≤ k.colour)) (errWord 0x02),
        refuseIf (outer.any fun q => !(getCol s q).busy) (errWord 0x05)] with
      | some w => .error w
      | none =>
        let s := takeColour s k outer.getLast? d.lid d.cl
        let x : SourceFire := { pkg := pkg, graph := d.graph, op := d.op, lid := d.lid, tag := d.tag,
                                value := (if d.replace then some d.value else none), id := id }
        .ok (touch { s with sources := s.sources ++ [x] } pkg d.lid)

/-- A live count that an injection would raise is at its greatest value, so the injection waits (R21). -/
def injectFull (s : State) (pkg : Nat) (d : InjDesc) : Bool :=
  match (getGraph s (pkg, d.graph)).bind fun g => (g.ops[d.op]?).map fun o => chainKeys (pkg, d.graph) g (opRid o) d.tag with
  | some ks => (ks.drop (ks.length - 2)).any fun k => !liveRoom s k
  | none => false

/-- A firing asked for under a name has emitted: its SOURCE has fired and its tokens have been counted. -/
def injected (s : State) (id : Nat) : Bool :=
  !s.sources.any (fun x => decide (x.id = id)) && !s.updates.any fun u => decide (u.firing = id) && u.inc

/-- At most 64 effects are held at a thread's levels (R259). -/
def heldCount (th : Thread) : Nat := lsum (th.levels.map (·.held.length))

/-- Hold an effect at the innermost level. -/
def holdEffect (th : Thread) (x : HeldEffect) : Thread :=
  { th with levels := th.levels.modify (th.levels.length - 1) fun l => { l with held := l.held ++ [x] } }

/-- INJECT (R242): a release; async. While a containment level is open it is held there (R259). -/
def execInject (rd rs1 : RegNo) (s : State) : Out :=
  .next <|
    if asyncFull s ∨ devWaits s then s
    else match opRange s .read (rs s rs1) 32 with
      | .error x => opTrap s x
      | .ok ps =>
        let b := readPieces s ps
        let d := injOfBytes b.1
        let u := b.2.2
        if b.2.1 then asyncDone u rd (errWord 0x09)
        else if d.bad then asyncDone u rd (errWord 0x02)
        else if !(curThr u).levels.isEmpty then
          if 64 ≤ heldCount (curThr u) then asyncDone u rd (errWord 0x03)
          else asyncDone (modCur u fun th => holdEffect th (.inject d)) rd (okWord 0)
        else
          let (i, u') := fresh u
          match inject u' u.cur.pkg (curPart u) d i with
          | .error w => asyncDone u rd w
          | .ok v => if injectFull u u.cur.pkg d then s else asyncIssue v rd (.inject i d.lid)

/-! ### PURGE (R243, R342) -/

/-- The colours that a PURGE of a colour removes. -/
def purgeSet (s : State) (k : ColKey) : List ColKey :=
  match getGraph s (k.pkg, k.graph) with
  | some g => heldUnder (busyCols k.pkg k.graph g) settleFuel [k]
  | none => []

/-- A PURGE waits: a token of its colours is in flight, or an activation or a firing that works on one is under way. -/
def purgeWaits (s : State) (k : ColKey) (lid : Nat) : Bool :=
  let cols := purgeSet s k
  underWay s (colSweep s cols lid) || s.sources.any fun x => decide (x.pkg = k.pkg) && decide (x.graph = k.graph) &&
    decide (x.lid = lid) && match (getGraph s (x.pkg, x.graph)).bind fun g => g.ops[x.op]? with
      | some o => cols.contains (colKeyAt (x.pkg, x.graph) o x.tag)
      | none => false

/-- A PURGE is refused in the state of its colour (R243, R342). -/
def purgeRefused (s : State) (k : ColKey) (lid : Nat) : Bool :=
  !(getCol s k).busy || decide ((getCol s k).lid ≠ lid) || isSuccessor s k

/-- Try a PURGE: none while it waits, else the state and its result. -/
def tryPurge (s : State) (k : ColKey) (lid : Nat) : Option (State × Word) :=
  if purgeRefused s k lid then some (s, errWord 0x05)
  else if purgeWaits s k lid then none
  else match getGraph s (k.pkg, k.graph) with
    | none => some (s, errWord 0x04)
    | some g =>
      let r := purgeCols s (k.pkg, k.graph) g [k] lid
      some (reevalAll r.1, okWord (r.2 % 2 ^ 32))

/-- PURGE (R243). -/
def execPurge (rd rs1 rs2 : RegNo) (s : State) : Out :=
  .next <|
    if asyncFull s then s
    else
      let v := (rs s rs1).toNat
      let c := (rs s rs2).toNat
      let lid := bits v 11 0
      let k : ColKey := { pkg := s.cur.pkg, graph := bits v 27 20, region := bits v 19 12, colour := c }
      if 2 ^ 28 ≤ v ∨ 256 ≤ c then asyncDone s rd (errWord 0x02)
      else match graphArg s k.graph with
        | .error w => asyncDone s rd w
        | .ok g => match launchArg s lid with
          | .error w => asyncDone s rd w
          | .ok _ =>
            if g.regions.length ≤ k.region then asyncDone s rd (errWord 0x04)
            else match tryPurge s k lid with
              | some (s, w) => asyncDone s rd w
              | none => asyncIssue s rd (.purge lid k)

/-! ### MSREAD and CLREAD (R244) -/

/-- A matching-store row in the layout of R24; a TRIGGER's row as R128 gives it. -/
def rowNat (q : Row) : Nat :=
  let w := fun t : Option Token => ((t.map fun u : Token => u.opw).getD 0).toNat
  let c := q.trig.map (·.counters)
  let l := match c with
    | some l => ((l.zipIdx).map fun x => x.1 % 2 ^ 32 * 2 ^ (32 * x.2)).foldl (· + ·) 0
    | none => w q.l
  let r := match q.trig with
    | some t => (t.deadline.map fun d => d % 2 ^ 64 + 2 ^ 64).getD 0
    | none => w q.r
  b2n (q.l.isSome || q.trig.isSome) + 2 * b2n q.r.isSome + 4 * b2n q.p.isSome + q.vrow / 4096 % 4 * 2 ^ 44 + q.slot * 2 ^ 46 +
    q.lid * 2 ^ 52 + q.tag.toNat * 2 ^ 64 + w q.p * 2 ^ 128 + r * 2 ^ 256 + l * 2 ^ 384

/-- The rows of an operator in ascending virtual row. -/
def slotRows (s : State) (e : Eng) (slot : Nat) : List Row :=
  sortBy (fun a b => decide (a.vrow ≤ b.vrow)) ((getEng s e).rows.filter fun q => decide (q.slot = slot))

/-- Write a result of an instruction to its buffer, after the thread's earlier accesses (R228, R304): 0x03 when the buffer is
too small (R236). -/
def toBuffer (s : State) (rd : RegNo) (va : Word) (room : Nat) (bs : List Byte) (value : Nat) : State :=
  if va.toNat % 8 ≠ 0 then opTrap s (0x0002, va)
  else if room < bs.length then asyncDone s rd (errWord 0x03)
  else if devWaits s then s
  else match opRange s .write va bs.length with
    | .error x => opTrap s x
    | .ok ps => asyncDone (writePieces s bs ps) rd (okWord value)

/-- MSREAD (R244, R340): the rows of an operator, or the entries of a QM report for element code 29. -/
def execMsread (rd rs1 rs2 : RegNo) (s : State) : Out :=
  .next <|
    if asyncFull s then s
    else
      let v := (rs s rs1).toNat
      let cap := (rs s rd).toNat
      let va := rs s rs2
      let e : Eng := ⟨s.cur.pkg, bits v 16 15, bits v 14 11, bits v 10 6⟩
      let out := fun rows : List Nat => toBuffer s rd va (64 * cap) (rows.flatMap (leBytes 64)) rows.length
      if 2 ^ 17 ≤ v then asyncDone s rd (errWord 0x02)
      else if e.elem = 29 then
        match tfind (s.cur.pkg, e.die, bits v 5 0) s.qmReports with
        | none => asyncDone s rd (errWord 0x04)
        | some q =>
          if ((getLaunch s (s.cur.pkg, q.lid)).map fun l => decide (l.part ≠ curPart s)).getD false then asyncDone s rd (errWord 0x0A)
          else out (q.entries.map fun x : BitVec 512 => x.toNat)
      else match findOp s e (bits v 5 0) with
        | none => asyncDone s rd (errWord 0x04)
        | some r =>
          if r.g.part ≠ curPart s then asyncDone s rd (errWord 0x0A)
          else out ((slotRows s e (bits v 5 0)).map rowNat)

/-- A region descriptor (R17). -/
def regionNat (r : Region) : Nat :=
  r.tail % 256 * 2 ^ 6 + r.head % 256 * 2 ^ 14 + r.free.length * 2 ^ 22 + r.cap * 2 ^ 31 + (r.width - 1) * 2 ^ 40 +
    b2n r.func * 2 ^ 44 + r.depth * 2 ^ 45 + r.parent * 2 ^ 48 + r.rid * 2 ^ 56

/-- A colour record (R19). -/
def colourNat (c : Colour) : Nat :=
  b2n c.busy + 2 * b2n c.closed + 4 * b2n c.succv + 8 * b2n c.spnd + (c.pbal % 2 ^ 16).toNat * 2 ^ 8 + c.closes % 256 * 2 ^ 24 +
    c.succ % 256 * 2 ^ 32 + c.live % 2 ^ 24 * 2 ^ 40

/-- What CLREAD writes of a region: its descriptor, its colour records, its free list padded to a multiple of 8. -/
def regionBytes (r : Region) : List Byte :=
  let f := r.free.flatMap (leBytes 1)
  leBytes 8 (regionNat r) ++ r.recs.flatMap (fun c => leBytes 8 (colourNat c)) ++ f ++
    List.replicate ((8 - f.length % 8) % 8) 0

/-- CLREAD (R244). -/
def execClread (rd rs1 rs2 : RegNo) (s : State) : Out :=
  .next <|
    if asyncFull s then s
    else
      let v := (rs s rs1).toNat
      if 2 ^ 16 ≤ v then asyncDone s rd (errWord 0x02)
      else match graphArg s (bits v 7 0) with
        | .error w => asyncDone s rd w
        | .ok g => match g.regions[bits v 15 8]? with
          | none => asyncDone s rd (errWord 0x04)
          | some r => let bs := regionBytes r; toBuffer s rd (rs s rs2) (rs s rd).toNat bs bs.length

/-! ### FREEZE and THAW (R245, R343) -/

/-- The live launches of a graph. -/
def launchesOf (s : State) (key : Nat × Nat) : List Nat :=
  (s.launches.filter fun l => decide (l.1.1 = key.1) && decide (l.2.record.graph = key.2)).map (·.1.2)

/-- A freeze has taken effect: every transfer of the set's launches has retired (R343). -/
def freezeDone (s : State) (key : Nat × Nat) : Bool :=
  let ls := launchesOf s key
  let mine := fun lid : Nat => ls.contains lid
  !(s.xfers.any fun x => decide (x.eng.pkg = key.1) && mine x.lid) &&
    !(s.copies.any fun j => decide (j.eng.pkg = key.1) && mine j.lid) &&
    !(s.xunits.any fun u => decide (u.eng.pkg = key.1) && decide (u.phase ≠ 0) && mine u.lid) &&
    !(s.chunkWrites.any fun w => decide (w.tile.pkg = key.1) && mine w.lid) &&
    !(s.streams.any fun p => decide (p.1.1.pkg = key.1) && p.2.slots.any fun c => decide (c.2.phase ≠ 0) && mine c.2.lid)

/-- A freeze that has taken effect leaves the set frozen. -/
def settleFreeze (s : State) (key : Nat × Nat) : State :=
  match getGraph s key with
  | some g => if g.freezing && freezeDone s key then setGraph s key { g with frozen := true, freezing := false } else s
  | none => s

/-- FREEZE (R245): async; a frozen set succeeds at once. -/
def execFreeze (rd rs1 : RegNo) (s : State) : Out :=
  .next <|
    let h := (rs s rs1).toNat
    if asyncFull s ∨ moving s h then s
    else match graphArg s h with
      | .error w => asyncDone s rd w
      | .ok g =>
        if g.frozen then asyncDone s rd (okWord 0)
        else asyncIssue (setGraph s (s.cur.pkg, h) { g with freezing := true }) rd (.freeze h)

/-- A timer or deadline entry of a thawed set whose due time has passed is evaluated (R129, R136). -/
def thawEnt (s : State) (pkg die : Nat) (t : TimerEnt) : State :=
  match t.what with
  | .trigger e slot vrow => match findOp s e slot with
    | some r => evalTrigger (dropEnt s pkg die t) r vrow
    | none => dropEnt s pkg die t
  | .timer e tok => match findOp s e tok.dst.slot with
    | some r =>
      let (i, s) := fresh (dropEnt s pkg die t)
      consumeToks (emitToks s r i tok.tag (toPort r 0 { tok with kind := 3, opw := 0, residue := 0 })) r i true [tok]
    | none => dropEnt s pkg die t
  | .twset _ _ => s

/-- The entries of a set on a package's wheels that have come due, in firing order. -/
def dueEnts (s : State) (key : Nat × Nat) (g : Graph) : List ((Nat × Nat) × TimerEnt) :=
  let of := fun (e : Eng) (slot : Nat) => g.ops.any fun o => decide (o.eng = e) && decide (o.slot = slot)
  (s.wheels.filter fun w => decide (w.1.1 = key.1)).flatMap fun w =>
    (sortBy before (w.2.ents.filter fun t => decide (t.due ≤ (getPkg s key.1).time) && match t.what with
      | .trigger e slot _ => of e slot
      | .timer e tok => of e tok.dst.slot
      | .twset _ _ => false)).map fun t => (w.1, t)

/-- A TRIGGER's row that a stop held is evaluated now (R128, R391). -/
def evalHeld (s : State) (e : Eng) (q : Row) : State :=
  match findOp s e q.slot with
  | some r => if q.trig.isSome then evalTrigger s r q.vrow else s
  | none => s

/-- Reopen a frozen set (R245, R392): stop-held marks go and the TRIGGERs so held are evaluated, the freeze buffers' tokens
arrive, due timers are evaluated. -/
def thaw (s : State) (key : Nat × Nat) (g : Graph) : State :=
  let s := setGraph s key { g with frozen := false, freezing := false, saved := false }
  let engs := (g.ops.map (·.eng)).dedup
  let slotsOn := fun e : Eng => (g.ops.filter fun o => decide (o.eng = e)).map (·.slot)
  let toks := engs.flatMap fun e => (getEng s e).freeze.filter fun t => onPage e || (slotsOn e).contains t.dst.slot
  let held := engs.flatMap fun e => ((getEng s e).rows.filter fun q => q.stopHeld && (slotsOn e).contains q.slot).map fun q => (e, q)
  let s := engs.foldl (fun s e => modEng s e fun x =>
    { x with freeze := x.freeze.filter (fun t => !(onPage e || (slotsOn e).contains t.dst.slot))
             rows := x.rows.map (fun q => if (slotsOn e).contains q.slot then { q with stopHeld := false } else q) }) s
  let s := held.foldl (fun s w => evalHeld s w.1 w.2) { s with inFlight := toks ++ s.inFlight }
  (dueEnts s key g).foldl (fun s w => thawEnt s w.1.1 w.1.2 w.2) s

/-- THAW (R245): immediate; a set that is not frozen gives 0x05. -/
def execThaw (rd rs1 : RegNo) (s : State) : Out :=
  .next <|
    let h := (rs s rs1).toNat
    match graphArg s h with
    | .error w => finish s rd w
    | .ok _ =>
      let s := settleFreeze s (s.cur.pkg, h)
      match getGraph s (s.cur.pkg, h) with
      | some g => if g.frozen then finish (thaw s (s.cur.pkg, h) g) rd (okWord 0) else finish s rd (errWord 0x05)
      | none => s

end Sys2Proof.Machine
end

