-- ==== Sys2Proof/Machine/Streams.lean ====
section
/-!
DEFINITION. Machine/Streams.lean: stream ports, their commands and circuits (spec/11 R248, R249; spec/17 R361, R365).
-/
namespace Sys2Proof.Machine

/-! ### Ports and patterns (R248) -/

/-- The port that a port id names on a package: none for a set stray bit or an engine without stream ports. -/
def portOf (pkg v : Nat) : Option (Eng × Nat) :=
  let e : Eng := ⟨pkg, bits v 10 9, bits v 8 5, bits v 4 0⟩
  let mt := decide (12 ≤ e.elem) && decide (e.elem ≤ 19)
  if v < 2 ^ 13 && (mt || (decide (e.elem = 24) && engExists e)) then some (e, bits v 12 11) else none

/-- The port id of a port. -/
def portNat (k : Eng × Nat) : Nat := k.1.elem + k.1.page * 2 ^ 5 + k.1.die * 2 ^ 9 + k.2 * 2 ^ 11

/-- A port lies on a page of another partition. -/
def portForeign (s : State) (k : Eng × Nat) (part : Nat) : Bool :=
  onPage k.1 && decide (pageOwnerOf s k.1.pkg k.1.die k.1.page ≠ part)

/-- The command of a pattern descriptor of 32 bytes: none when a reserved bit is set. -/
def patternOf (b : List Byte) : Option StreamCmd :=
  let w := field b 28 4
  if 0xD < w % 16 ∨ 2 ^ 18 ≤ w then none
  else some
    { base := BitVec.ofNat 64 (field b 0 8), ext := (List.range 4).map (fun k => field b (8 + 2 * k) 2 + 1),
      strides := (List.range 3).map (fun k => sext 32 (field b (16 + 4 * k) 4)), fmt := w % 16, consumes := bit w 4,
      peer := bits w 17 5 }

/-- The tile of a memory tile's command. -/
def cmdTile (e : Eng) (c : StreamCmd) : TileId := { pkg := e.pkg, die := e.die, handle := bits c.base.toNat 15 0 }

/-- The byte of its space at which a pattern begins. -/
def cmdBase (e : Eng) (c : StreamCmd) : Nat :=
  if e.elem = 24 then c.base.toNat else bits c.base.toNat 47 16 * elemBytes c.fmt

/-- The runs of a pattern in the order of its image: dimension 0 is dense. -/
def cmdRuns (e : Eng) (c : StreamCmd) : List (Int × Nat) :=
  let x := fun k : Nat => (c.ext[k]?).getD 1
  let d := fun k : Nat => (c.strides[k]?).getD 0
  (List.range (x 3)).flatMap fun i3 => (List.range (x 2)).flatMap fun i2 => (List.range (x 1)).map fun i1 =>
    ((cmdBase e c : Int) + (i1 : Int) * d 0 + (i2 : Int) * d 1 + (i3 : Int) * d 2, x 0 * elemBytes c.fmt)

/-- Bytes of a command. -/
def cmdLen (c : StreamCmd) : Nat := c.ext.foldl (· * ·) 1 * elemBytes c.fmt

/-- Every run of a memory tile's command lies in its tile. -/
def cmdInTile (s : State) (e : Eng) (c : StreamCmd) : Bool :=
  let n := tileBytes (getTile s (cmdTile e c))
  (cmdRuns e c).all fun r => decide (0 ≤ r.1) && decide (r.1 + (r.2 : Int) ≤ (n : Int))

/-- The refusal of a pattern, if there is one: its fields, the tile, then whose they are. -/
def patternErr (s : State) (k : Eng × Nat) (part : Nat) (c : StreamCmd) : Option Word :=
  let t := getTile s (cmdTile k.1 c)
  let tile := decide (k.1.elem ≠ 24)
  firstErr [
    refuseIf (portOf k.1.pkg c.peer).isNone (errWord 0x02),
    refuseIf (tile && (decide (2 ^ 48 ≤ c.base.toNat) || decide (tileMt (cmdTile k.1 c) ≠ k.1) || t.level ||
      !cmdInTile s k.1 c)) (errWord 0x02),
    refuseIf (portForeign s k part || ((portOf k.1.pkg c.peer).map fun q => portForeign s q part).getD false ||
      (tile && decide (t.part ≠ part))) (errWord 0x0A)]

/-- The least free command slot of a port. -/
def freeCmd (p : StreamPort) : Option Nat := leastBelow 8 fun k => (tfind k p.slots).isNone

/-! ### SBIND, SSTART, SBAR (R249) -/

/-- SBIND once its checks have passed: bound when a slot is free. -/
def bindCmd (s : State) (rd : RegNo) (k : Eng × Nat) (c : StreamCmd) : Option State :=
  match freeCmd (getPort s k) with
  | none => none
  | some n =>
    let (i, s) := fresh s
    let c := { c with id := i, part := curPart s, lid := bits (curThr s).lid.toNat 11 0 }
    some (finish (modPort s k fun p => { p with slots := tset n c p.slots }) rd (okWord n))

/-- Try SBIND (R249): its trap or its refusal at once, the binding when a slot is free; none while it waits. -/
def trySbind (rd rs1 rs2 : RegNo) (s : State) : Option State :=
  match portOf s.cur.pkg (rs s rs1).toNat, opRange s .read (rs s rs2) 32 with
  | none, _ => some (finish s rd (errWord 0x02))
  | some _, .error x => some (opTrap s x)
  | some k, .ok ps =>
    let b := readPieces s ps
    if b.2.1 then some (finish b.2.2 rd (errWord 0x09))
    else match patternOf b.1 with
      | some c => match patternErr s k (curPart s) c with
        | some w => some (finish b.2.2 rd w)
        | none => bindCmd b.2.2 rd k c
      | none => some (finish b.2.2 rd (errWord 0x02))

/-- SBIND (R249): blocking; waits for a free slot, binds the pattern and returns the slot number. It reads its descriptor
after the thread's earlier accesses (R236, R304). -/
def execSbind (rd rs1 rs2 : RegNo) (s : State) : Out :=
  .next (if devWaits s then s else blockOn s (.sbind rd rs1 rs2) (trySbind rd rs1 rs2 s))

/-- A command of a port by its slot. -/
def cmdAt (s : State) (k : Eng × Nat) (n : Nat) : Option StreamCmd := tfind n (getPort s k).slots

/-- Change a command. -/
def setCmd (s : State) (k : Eng × Nat) (n : Nat) (c : StreamCmd) : State :=
  modPort s k fun p => { p with slots := tset n c p.slots }

/-- SSTART (R249): starts a bound slot, after the earlier commands of the port; a slot not bound gives 0x05. The stream
reads its source after the thread's earlier accesses (R313). -/
def execSstart (rd rs1 rs2 : RegNo) (s : State) : Out :=
  .next <|
    if devWaits s then s
    else match portOf s.cur.pkg (rs s rs1).toNat with
    | none => finish s rd (errWord 0x02)
    | some k =>
      let n := (rs s rs2).toNat
      if 8 ≤ n then finish s rd (errWord 0x02)
      else match cmdAt s k n with
        | none => finish s rd (errWord (if portForeign s k (curPart s) then 0x0A else 0x05))
        | some c =>
          if portForeign s k (curPart s) ∨ c.part ≠ curPart s then finish s rd (errWord 0x0A)
          else if c.phase ≠ 0 then finish s rd (errWord 0x05)
          else
            let o := (getPort s k).order
            let s := setCmd s k n { c with phase := 1, order := o, by_ := s.cur, bar := (getPort s k).bar }
            finish (modPort s k fun p => { p with order := o + 1 }) rd (okWord 0)

/-- SBAR (R249): the commands started later wait for every command started before it. -/
def execSbar (rd rs1 : RegNo) (s : State) : Out :=
  .next <|
    match portOf s.cur.pkg (rs s rs1).toNat with
    | none => finish s rd (errWord 0x02)
    | some k =>
      if portForeign s k (curPart s) then finish s rd (errWord 0x0A)
      else finish (modPort s k fun p => { p with bar := p.order }) rd (okWord 0)

/-! ### Beginning (R249) -/

/-- Two runs share a byte. -/
def runsMeet (a b : Int × Nat) : Bool := decide (a.1 < b.1 + b.2) && decide (b.1 < a.1 + a.2)

/-- The byte ranges of two commands of a port overlap. -/
def cmdsMeet (e : Eng) (a b : StreamCmd) : Bool :=
  (if e.elem = 24 then decide (a.part = b.part) else decide (cmdTile e a = cmdTile e b)) &&
    (cmdRuns e a).any fun x => (cmdRuns e b).any (runsMeet x)

/-- A command may begin: no earlier started command that it must follow is left on its port, one before the latest SBAR that it
was started after or one whose bytes it overlaps (R249). -/
def mayBegin (p : StreamPort) (e : Eng) (c : StreamCmd) : Bool :=
  p.slots.all fun q => decide (q.2.phase = 0) || decide (c.order ≤ q.2.order) ||
    (!decide (q.2.order < c.bar) && !cmdsMeet e c q.2)

/-- A report about a command, to its launch's trap thread or the fault thread of its partition (R330). -/
def raiseCmd (s : State) (k : Eng × Nat) (c : StreamCmd) (cause tval : Nat) (held : Held) : State :=
  raise s { dest := reportTo s k.1.pkg k.1.die c.part c.lid, cause := cause, tval := BitVec.ofNat 64 tval,
            tcoord := coordNat { eng := k.1 }, lid := c.lid, held := held, src := k.1 }

/-- The circuit lanes of a command are released (R365). -/
def dropLanes (s : State) (id : Nat) : State := { s with lanes := s.lanes.filter fun x => decide (x.2 ≠ id) }

/-- A command leaves its slot. -/
def dropCmd (s : State) (k : Eng × Nat) (n id : Nat) : State :=
  dropLanes { modPort s k fun p => { p with slots := tdel n p.slots } with
    reqs := s.reqs.filter fun q => !(q.from_ == .stream k.1 id) } id

/-- A command stops at a fault. A page that is not present holds it for the ERET of its trap (R180, R333); an address that
misses waits for its walk (R352). -/
def failCmd (s : State) (k : Eng × Nat) (n : Nat) (c : StreamCmd) (x : XErr) : State :=
  if x.1 = 0 then noteMiss s k.1 c.part x.2 0 0 0
  else
    let s := dropWalk s k.1 c.part x.2
    if x.1 = 0x0111 then raiseCmd (setCmd s k n { c with held := true }) k c x.1 x.2 (.request c.id)
    else raiseCmd (dropCmd s k n c.id) k c x.1 x.2 .none

/-- The virtual runs of an HBM port engine's command with their checks (R164). -/
def cmdVaRuns (e : Nat) : List (Int × Nat) → Except XErr (List (Nat × Nat))
  | [] => .ok []
  | r :: rs => match patRun e r.1 r.2 with
    | .error x => .error x
    | .ok p => match cmdVaRuns e rs with
      | .error x => .error x
      | .ok ps => .ok (p :: ps)

/-- The pieces of an HBM port engine's command (R348). -/
def cmdPieces (s : State) (e : Eng) (c : StreamCmd) : Except XErr (List Piece) :=
  match cmdVaRuns (elemBytes c.fmt) (cmdRuns e c) with
  | .error x => .error x
  | .ok rs => runsToPieces s e c.part .op (if c.consumes then .write else .read) rs

/-- STREAM_COMMAND_BEGIN (R249, R365): a started command begins once earlier overlapping commands and those before the
port's latest SBAR have completed, a producing one once its circuit is set; its addresses are translated then. -/
def execStreamCommandBegin (e : Eng) (port slot : Nat) (s : State) : Out :=
  .next <|
    let k := (e, port)
    match cmdAt s k slot with
    | none => s
    | some c =>
      if c.phase ≠ (if c.consumes then 1 else 2) ∨ c.held ∨ !mayBegin (getPort s k) e c then s
      else if e.elem ≠ 24 then
        if (getTile s (cmdTile e c)).state = 0 ∨ !cmdInTile s e c then
          failCmd s k slot c (0x0109, stateTval (cmdTile e c) 0)
        else setCmd s k slot { c with phase := 3 }
      else match cmdPieces s e c with
        | .error x => failCmd s k slot c x
        | .ok _ => setCmd s k slot { c with phase := 3 }

/-! ### Circuits (R361, R365) -/

/-- A command holds a lane of a link direction. -/
def hasLane (t : Tbl (Nat × Nat × Nat × Nat) Nat) (pkg id : Nat) (l : Nat × Nat) : Bool :=
  (List.range 8).any fun k => decide (tfind (pkg, l.1, l.2, k) t = some id)

/-- Take a free lane of each link direction along a route, as far as the first one that has none. -/
def takeLanes (pkg id : Nat) : List (Nat × Nat) → Tbl (Nat × Nat × Nat × Nat) Nat → Tbl (Nat × Nat × Nat × Nat) Nat
  | [], t => t
  | l :: ls, t =>
    if hasLane t pkg id l then takeLanes pkg id ls t
    else match leastBelow 8 fun k => (tfind (pkg, l.1, l.2, k) t).isNone with
      | none => t
      | some k => takeLanes pkg id ls (tset (pkg, l.1, l.2, k) id t)

/-- STREAM_CIRCUIT_SETUP (R365): the setup of a started producing command reserves a lane in every switch and inner strait
on the route to its peer port; it waits at a switch where none is free and keeps the lanes before it. -/
def execStreamCircuitSetup (e : Eng) (port slot : Nat) (s : State) : Out :=
  .next <|
    match cmdAt s (e, port) slot with
    | none => s
    | some c =>
      if c.phase ≠ 1 ∨ c.consumes ∨ !mayBegin (getPort s (e, port)) e c then s
      else match portOf e.pkg c.peer with
        | none => s
        | some q =>
          let t := takeLanes e.pkg c.id (routeLinks e q.1) s.lanes
          let s := { s with lanes := t }
          if (routeLinks e q.1).all (hasLane t e.pkg c.id) then setCmd s (e, port) slot { c with phase := 2 } else s

/-! ### Bursts (R249, R298, R365) -/

/-- The consuming command of a port that takes the next bursts of a producing port: the earliest that has begun. -/
def consumerOf (s : State) (pkg : Nat) (q from_ : Eng × Nat) : Option (Nat × StreamCmd) :=
  let l := (getPort s q).slots.filter fun x =>
    decide (x.2.phase = 3) && x.2.consumes && !x.2.held && decide (portOf pkg x.2.peer = some from_)
  l.foldl (fun b x => match b with
    | none => some x
    | some y => if x.2.order < y.2.order then some x else some y) none

/-- Part of a list of runs: n bytes from byte o of the image. -/
def sliceRuns : List (Int × Nat) → Nat → Nat → List (Int × Nat)
  | [], _, _ => []
  | r :: rs, o, n =>
    if n = 0 then []
    else if r.2 ≤ o then sliceRuns rs (o - r.2) n
    else
      let k := Nat.min n (r.2 - o)
      (r.1 + (o : Int), k) :: sliceRuns rs 0 (n - k)

/-- The chunks of a tile that runs touch. -/
def runChunks (rs : List (Int × Nat)) : List Nat :=
  (rs.flatMap fun r => (List.range ((r.1.toNat + r.2 - 1) / 512 - r.1.toNat / 512 + 1)).map (· + r.1.toNat / 512)).dedup

/-- The bytes of runs of a tile image, and whether a word of them is uncorrectable. -/
def readRuns (s : State) (id : TileId) (t : Tile) (rs : List (Int × Nat)) : List Byte × Bool :=
  rs.foldl (fun (o : List Byte × Bool) r =>
    let x := readTileImage s id t r.1.toNat r.2
    (o.1 ++ x.1, o.2 || x.2)) ([], false)

/-- Write bytes to runs of a tile image, in pieces of one 64-byte unit. -/
def writeRuns (s : State) (id : TileId) (t : Tile) : List (Int × Nat) → List Byte → State
  | [], _ => s
  | r :: rs, bs =>
    let s := (List.range ((r.1.toNat + r.2 - 1) / 64 - r.1.toNat / 64 + 1)).foldl (fun s k =>
      let lo := Nat.max r.1.toNat ((r.1.toNat / 64 + k) * 64)
      let hi := Nat.min (r.1.toNat + r.2) ((r.1.toNat / 64 + k + 1) * 64)
      writeUnit s true (tileAddr id t lo) ((bs.drop (lo - r.1.toNat)).take (hi - lo))) s
    writeRuns s id t rs (bs.drop r.2)

/-- The tile fault of a memory tile's command, with the chunk concerned (R332). -/
def cmdTileVal (e : Eng) (c : StreamCmd) (chunk : Nat) : Nat := stateTval (cmdTile e c) chunk

/-- The requests of the command named id of an engine's port. -/
def ofCmd (e : Eng) (id : Nat) (q : Req) : Bool := q.from_ == .stream e id

/-- The unit of the first uncorrectable word of runs of a tile image: its address (log 38). -/
def badUnit (s : State) (id : TileId) (t : Tile) (rs : List (Int × Nat)) : Option Nat :=
  (rs.flatMap fun r => (List.range r.2).map fun k => tileAddr id t (r.1.toNat + k)).find? (fun a => eccBad s true (a / 8))
    |>.map (· / 64 * 64)

/-- The next n bytes of a memory tile's producing command: none while a chunk of them is not readable. -/
def cmdRead (s : State) (e : Eng) (c : StreamCmd) (n : Nat) : Except XErr (Option (List Byte × State)) :=
  let id := cmdTile e c
  let t := getTile s id
  let rs := sliceRuns (cmdRuns e c) c.moved n
  if t.state = 0 ∨ !cmdInTile s e c then .error (0x0109, cmdTileVal e c 0)
  else if (runChunks rs).any fun k => !t.cmap.getLsbD k then .ok none
  else match badUnit s id t rs with
    | some a => .error (0x0112, a)
    | none => .ok (some ((readRuns s id t rs).1, rs.foldl (fun s x => countImage s id t x.1.toNat x.2) s))

/-- Write the next bytes of a memory tile's consuming command. -/
def cmdWrite (s : State) (e : Eng) (c : StreamCmd) (bs : List Byte) : Except XErr State :=
  let id := cmdTile e c
  let t := getTile s id
  let rs := sliceRuns (cmdRuns e c) c.moved bs.length
  if t.state = 0 ∨ !cmdInTile s e c then .error (0x0109, cmdTileVal e c 0)
  else match (runChunks rs).find? (chunkRefused t) with
    | some k => .error (0x0109, cmdTileVal e c k)
    | none =>
      let s := if t.state = 1 then modTile s id fun t => { t with state := 2, owner := 0 } else s
      .ok (writeRuns s id t rs bs)

/-- The bytes of a chunk of a tile that a command's image covers. -/
def coveredBytes (rs : List (Int × Nat)) (lo hi : Nat) : Nat :=
  ((List.range (hi - lo)).filter fun i => rs.any fun r => decide (r.1 ≤ ((lo + i : Nat) : Int)) && decide (((lo + i : Nat) : Int) < r.1 + r.2)).length

/-- A consuming command into a tile that completes has written the chunks that its pattern covers: their bits are set
(log 22). -/
def cmdChunks (s : State) (e : Eng) (c : StreamCmd) : State :=
  if e.elem = 24 then s
  else
    let id := cmdTile e c
    let rs := cmdRuns e c
    let n := tileBytes (getTile s id)
    ((runChunks rs).filter fun k => decide (coveredBytes rs (512 * k) (Nat.min n (512 * k + 512)) = Nat.min n (512 * k + 512) - 512 * k)).foldl
      (fun s k => chunkDone s id k) s

/-- The event bit of a thread (R232). -/
def endCmd (s : State) (k : Eng × Nat) (n : Nat) (c : StreamCmd) : State :=
  setEvent (dropCmd s k n c.id) c.by_

/-- A command after some bytes: it completes with its last burst. -/
def stepCmd (s : State) (k : Eng × Nat) (n : Nat) (c : StreamCmd) (m : Nat) : State :=
  let c := { c with moved := c.moved + m, burst := none }
  if cmdLen c ≤ c.moved then endCmd (if c.consumes then cmdChunks s k.1 c else s) k n c else setCmd s k n c

/-- A burst of a producing command has been accepted: both commands go on. -/
def stepBoth (s : State) (k : Eng × Nat) (n : Nat) (c : StreamCmd) (b : BurstRun) (d : StreamCmd) : State :=
  stepCmd (stepCmd s k n c b.n) b.port b.slot d b.n

/-- A producing command sends its next burst, of at most 512 bytes, once its peer port takes it: a memory tile's is read at
once, the sectors of an HBM port engine's are asked for. -/
def takeBurst (s : State) (k : Eng × Nat) (slot : Nat) (c : StreamCmd) : State :=
  match (portOf k.1.pkg c.peer).bind fun q => (consumerOf s k.1.pkg q k).map fun x => (q, x) with
  | none => s
  | some (q, m, d) =>
    let n := Nat.min 512 (Nat.min (cmdLen c - c.moved) (cmdLen d - d.moved))
    let b : BurstRun := { port := q, slot := m, peer := d.id, n := n }
    if k.1.elem = 24 then
      match cmdPieces s k.1 c with
      | .error x => failCmd s k slot c x
      | .ok ps =>
        let ps := slicePieces ps c.moved n
        issueAll (setCmd s k slot { c with burst := some { b with pieces := ps } }) k.1
          ((sectorReads ps).map fun p => sectorReq p .read c.part c.lid (.stream k.1 c.id) none)
    else match cmdRead s k.1 c n with
      | .error x => failCmd s k slot c x
      | .ok none => s
      | .ok (some (bs, s)) => setCmd s k slot { c with burst := some { b with data := some bs } }

/-- The sectors of a burst have returned: its bytes are there, or the command stops (R168, R332). -/
def gotBurst (s : State) (k : Eng × Nat) (slot : Nat) (c : StreamCmd) (b : BurstRun) : State :=
  let mine := s.reqs.filter (ofCmd k.1 c.id)
  match mine.find? (·.denied), mine.find? (·.bad) with
  | some r, _ => failCmd s k slot c (0x0110, r.va)
  | none, some r => failCmd s k slot c (0x0112, r.va / 64 * 64)
  | none, none =>
    setCmd { s with reqs := s.reqs.filter fun q => !ofCmd k.1 c.id q } k slot
      { c with burst := some { b with data := some ((sectorParts b.pieces).flatMap fun p => partBytes mine p.2) } }

/-- The bytes of a burst go to the consuming command: a memory tile takes them at once, an HBM port engine as sector
writes. -/
def putBurst (s : State) (k : Eng × Nat) (slot : Nat) (c : StreamCmd) (b : BurstRun) (bs : List Byte) (d : StreamCmd) : State :=
  if b.port.1.elem = 24 then
    match cmdPieces s b.port.1 d with
    | .error x => failCmd s b.port b.slot d x
    | .ok ps => issueAll (setCmd s k slot { c with burst := some { b with writing := true } }) b.port.1
        ((sectorParts (slicePieces ps d.moved b.n)).map fun p =>
          sectorReq p.2 (.write ((bs.drop p.1).take p.2.len) false) d.part d.lid (.stream b.port.1 d.id) none)
  else match cmdWrite s b.port.1 d bs with
    | .error x => failCmd s b.port b.slot d x
    | .ok s => stepBoth s k slot c b d

/-- The writes of a burst have been performed: it is accepted, or its owner has refused the consuming command. -/
def ackBurst (s : State) (k : Eng × Nat) (slot : Nat) (c : StreamCmd) (b : BurstRun) (d : StreamCmd) : State :=
  match s.reqs.find? fun q => ofCmd b.port.1 d.id q && q.denied with
  | some r => failCmd (setCmd s k slot { c with burst := none }) b.port b.slot d (0x0110, r.va)
  | none => stepBoth { s with reqs := s.reqs.filter fun q => !ofCmd b.port.1 d.id q } k slot c b d

/-- A burst under way moves on. One whose consuming command has gone is sent again. -/
def moveBurst (s : State) (k : Eng × Nat) (slot : Nat) (c : StreamCmd) (b : BurstRun) : State :=
  let open_ := fun (e : Eng) (id : Nat) => s.reqs.any fun q => ofCmd e id q && decide (q.st ≠ .done)
  match (cmdAt s b.port b.slot).filter fun d => decide (d.id = b.peer) with
  | none => setCmd { s with reqs := s.reqs.filter fun q => !ofCmd k.1 c.id q } k slot { c with burst := none }
  | some d =>
    if d.held then s
    else match b.data with
      | none => if open_ k.1 c.id then s else gotBurst s k slot c b
      | some bs =>
        if !b.writing then putBurst s k slot c b bs d
        else if open_ b.port.1 d.id then s else ackBurst s k slot c b d

/-- STREAM_COMMAND_COMPLETE (R249): the next burst of a producing command is read, moves to its peer port and is accepted by
the command there; a command completes with its last burst, frees its slot and sets the event bit of the thread that
started it. -/
def execStreamCommandComplete (e : Eng) (port slot : Nat) (s : State) : Out :=
  .next <|
    match cmdAt s (e, port) slot with
    | none => s
    | some c =>
      if c.phase ≠ 3 ∨ c.held ∨ c.consumes then s
      else match c.burst with
        | none => takeBurst s (e, port) slot c
        | some b => moveBurst s (e, port) slot c b

end Sys2Proof.Machine
end

