-- ==== Sys2Proof/Machine/DevOps.lean ====
section
/-!
DEFINITION. Machine/DevOps.lean: copy queues, barriers, channels, time, containment levels and quotas of the control core
(spec/11 R250 to R261).
-/
namespace Sys2Proof.Machine

/-! ### Copy queues (R252, R253) -/

/-- CPYQ (R252): claims a slot of a copy queue, fills it and seals it; a release, async. -/
def execCpyq (rd rs1 rs2 : RegNo) (s : State) : Out :=
  .next <|
    let q := (rs s rs1).toNat
    let c := getCopyQ s (s.cur.pkg, s.cur.die, q)
    if asyncFull s ∨ devWaits s then s
    else if 16 ≤ q then asyncDone s rd (errWord 0x02)
    else if !c.set then asyncDone s rd (errWord 0x04)
    else if c.part ≠ curPart s then asyncDone s rd (errWord 0x0A)
    else match opRange s .read (rs s rs2) 56 with
      | .error x => opTrap s x
      | .ok ps =>
        let b := readPieces s ps
        if b.2.1 then asyncDone b.2.2 rd (errWord 0x09)
        else match appendSlot b.2.2 c.base.toNat c.log2 b.1 with
          | .error (.inl x) => opTrap s x
          | .error (.inr w) => asyncDone b.2.2 rd w
          | .ok (i, s) => asyncDone s rd (okWord i)

/-- Try CPYWAIT (R253): its refusal, or 0 once every masked chunk bit is set; none while it waits. -/
def tryCpywait (rd rs1 rs2 : RegNo) (s : State) : Option State :=
  let v := (rs s rs1).toNat
  let m := (rs s rd).toNat * 2 ^ 64 + (rs s rs2).toNat
  let t := getTile s (packetTile s.cur.pkg v)
  if 2 ^ 18 ≤ v then some (finish s rd (errWord 0x02))
  else if t.state = 0 ∨ (curThr s).gone then some (finish s rd (errWord 0x05))
  else if t.part ≠ curPart s then some (finish s rd (errWord 0x0A))
  else if 2 ^ tileChunks t ≤ m then some (finish s rd (errWord 0x02))
  else if BitVec.ofNat 128 m &&& ~~~t.cmap = 0 then some (finish (modCur s clearAhead) rd (okWord 0))
  else none

/-- CPYWAIT (R253): blocking, an acquire (R237). -/
def execCpywait (rd rs1 rs2 : RegNo) (s : State) : Out :=
  let t := modCur s fun th => { th with gone := false }
  .next (if acqWaits (curThr s) then s else blockOn t (.cpywait rd rs1 rs2) (tryCpywait rd rs1 rs2 t))

/-! ### Barriers (R37, R254) -/

/-- The barrier that a register names: the status code when it names none, or one of another partition. -/
def barArg (s : State) (v : Nat) : Except Nat (Nat × Nat × Nat) :=
  if 2 ^ 14 ≤ v then .error 0x02
  else if barOwner s s.cur.pkg (bits v 13 12) (bits v 11 0) ≠ curPart s then .error 0x0A
  else .ok (s.cur.pkg, bits v 13 12, bits v 11 0)

/-- The illegal-instruction trap of an instruction without rd (R106): cc_tval holds its word. -/
def illegalForm (s : State) (i : Instr) : State := trapCur s 0x0001 (((encode i).getD 0).zeroExtend 64)

/-- BARARM (R254): one re-arm update, after the thread's earlier acquires (R304). -/
def execBararm (rs1 rs2 : RegNo) (s : State) : Out :=
  .next <|
    let w := (rs s rs2).toNat
    match barArg s (rs s rs1).toNat with
    | .error _ => illegalForm s (.bararm rs1 rs2)
    | .ok k =>
      if 2 ^ 48 ≤ w then illegalForm s (.bararm rs1 rs2)
      else if acqWaits (curThr s) then s
      else modCur (modBar s k (barArm (bits w 31 0) (bits w 47 32))) advance

/-- BARARRIVE (R254, R311): one arrival, a release at package scope. -/
def execBararrive (rs1 : RegNo) (s : State) : Out :=
  .next <|
    match barArg s (rs s rs1).toNat with
    | .error _ => illegalForm s (.bararrive rs1)
    | .ok k => if devWaits s then s else modCur (modBar s k barArrive) advance

/-- Try BARWAIT (R254): its refusal, or the phase once it differs; none while it waits. -/
def tryBarwait (rd rs1 rs2 : RegNo) (s : State) : Option State :=
  match barArg s (rs s rs1).toNat with
  | .error c => some (finish s rd (errWord c))
  | .ok k =>
    let b := getBar s k
    if 2 ≤ (rs s rs2).toNat then some (finish s rd (errWord 0x02))
    else if !b.armed then some (finish s rd (errWord 0x05))
    else if b.phase ≠ (rs s rs2).getLsbD 0 then some (finish (modCur s clearAhead) rd (okWord (b2n b.phase)))
    else none

/-- BARWAIT (R254): blocking, an acquire (R237). -/
def execBarwait (rd rs1 rs2 : RegNo) (s : State) : Out :=
  .next (if acqWaits (curThr s) then s else blockOn s (.barwait rd rs1 rs2) (tryBarwait rd rs1 rs2 s))

/-! ### Channels (R255 to R257) -/

/-- Open a channel for a record: its id, or the failure. -/
def openChan (s : State) (c : ChanRec) (role : Nat) : Except Word (Nat × State) :=
  let p := s.cur.pkg
  let part := curPart s
  if s.chans.any fun x => decide (x.1.1 = p) && decide (x.2.state ≠ 0) && decide (x.2.part = part) && decide (x.2.name = c.name) then
    .error (errWord 0x05)
  else match freeChanIdx s p s.cur.die, placeRing s p s.cur.die part c.glog with
    | some i, some (page, m, o) =>
      let k : ChanKey := (p, s.cur.die, i)
      let new : Chan := { name := c.name, part := part, agid := (curThr s).agid, state := 1, rlog := c.rlog, glog := c.glog,
                          grow := c.grow, cap := c.cap, rpage := page, rmt := m, roff := o, ownerThread := some s.cur,
                          wep := if role = 1 then .thread s.cur else .none, rep := if role = 2 then .thread s.cur else .none }
      .ok (i + s.cur.die * 2 ^ 12, setChan s k new)
    | _, _ => .error (errWord 0x03)

/-- CHOPEN (R255). -/
def execChopen (rd rs1 rs2 : RegNo) (s : State) : Out :=
  .next <|
    let role := (rs s rs2).toNat
    if asyncFull s ∨ devWaits s then s
    else if 3 ≤ role then asyncDone s rd (errWord 0x02)
    else match opRange s .read (rs s rs1) 16 with
      | .error x => opTrap s x
      | .ok ps =>
        let b := readPieces s ps
        let c := chanRecOf (leNat b.1)
        if b.2.1 then asyncDone b.2.2 rd (errWord 0x09)
        else if !c.ok then asyncDone b.2.2 rd (errWord 0x02)
        else match openChan b.2.2 c role with
          | .error w => asyncDone b.2.2 rd w
          | .ok (i, s) => asyncDone s rd (okWord i)

/-- What a write of a record by a thread comes to: it waits, the quota refuses growth, or it is in the channel. -/
inductive PutRec where
  | wait
  | quota (agid bytes : Nat)
  | ok (s : State)

/-- Write a record for a thread (R322), in slots of its segment's owners (R359, R375). -/
def putRec (s : State) (k : ChanKey) (bs : List Byte) : PutRec :=
  match writePlace s k with
  | .full => .wait
  | .quota a n => .quota a n
  | .ok seg pos s' =>
    let ord := (getChan s' k).wrec
    if !recGrants s' k { seg := seg, pos := pos } then .wait
    else .ok (landRec (reserveRec s' k seg pos (residueOf bs) false 0) k ord bs)

/-- The QUOTA trap of a thread (R334): synchronous, at the instruction. -/
def quotaTrap (s : State) (k : ChanKey) (agid n : Nat) : State :=
  trapCur (breach s k.1 (getChan s k).part agid) 0x000F (BitVec.ofNat 64 (quotaTval agid n))

/-- The channel that the thread writes: the failure when it is not the writer or the channel is closed. -/
def writerArg (s : State) (v : Nat) : Except Word ChanKey :=
  match chanArg s v with
  | .error w => .error w
  | .ok k =>
    let c := getChan s k
    if c.wep ≠ .thread s.cur ∨ c.state ≠ 1 then .error (errWord 0x05) else .ok k

/-- Try CHWR (R256): its trap or refusal, the record held at a containment level, or the record written; none while it
waits. -/
def tryChwr (rd rs1 rs2 : RegNo) (s : State) : Option State :=
  match writerArg s (rs s rs1).toNat with
  | .error w => some (finish s rd w)
  | .ok k => match opRange s .read (rs s rs2) (recBytes (getChan s k)) with
    | .error x => some (opTrap s x)
    | .ok ps =>
      let b := readPieces s ps
      if devWaits s then none
      else if b.2.1 then some (finish b.2.2 rd (errWord 0x09))
      else if !(curThr s).levels.isEmpty then
        if 64 ≤ heldCount (curThr s) then some (finish b.2.2 rd (errWord 0x03))
        else some (finish (modCur b.2.2 fun th => holdEffect th (.chwr k.1 k.2.1 k.2.2 b.1)) rd (okWord 0))
      else match putRec b.2.2 k b.1 with
        | .wait => none
        | .quota a n => some (quotaTrap s k a n)
        | .ok s => some (finish s rd (okWord 0))

/-- CHWR (R256): blocking, a release. -/
def execChwr (rd rs1 rs2 : RegNo) (s : State) : Out := .next (blockOn s (.chwr rd rs1 rs2) (tryChwr rd rs1 rs2 s))

/-- The channel that the thread reads. -/
def readerArg (s : State) (v : Nat) : Except Word ChanKey :=
  match chanArg s v with
  | .error w => .error w
  | .ok k => if (getChan s k).rep ≠ .thread s.cur then .error (errWord 0x05) else .ok k

/-- What taking a record for a thread comes to: nothing to take, no slot yet to read it in, a result word, or a new state
without one (the unwinding of a containment level). -/
inductive TakeRec where
  | empty
  | wait
  | word (w : Word) (s : State)
  | unwound (s : State)

/-- Take the oldest record and write it to a buffer (R256), in slots of its segment's owners (R359, R375); a poisoned one is
removed and not written. Inside a level it unwinds; a load data error of the thread is raised before that trap (R227). -/
def takeFor (s : State) (k : ChanKey) (ps : List (Target × Nat)) : TakeRec :=
  match headRec (getChan s k) with
  | none => if (getChan s k).state = 2 ∧ (getChan s k).recs.isEmpty then .word (errWord 0x0B) s else .empty
  | some q =>
    if !recGrants s k q then .wait
    else
    let d := readRecBytes s k q
    let s0 := countRec s k q
    let s := takeRec s0 k
    if d.2 ∨ q.poison then
      if (curThr s).levels.isEmpty then .word (errWord 0x09) s
      else if !(curThr s).errs.isEmpty then .unwound (loadErrorTrap s0 s.cur)
      else .unwound (unwindLevel s s.cur (curThr s).levels.length)
    else .word (okWord 0) (modCur (writePieces s d.1 ps) clearAhead)

/-- Try CHRD (R256): none while it waits. -/
def tryChrd (rd rs1 rs2 : RegNo) (s : State) : Option State :=
  match readerArg s (rs s rs1).toNat with
  | .error w => some (finish s rd w)
  | .ok k => match opRange s .write (rs s rs2) (recBytes (getChan s k)) with
    | .error x => some (opTrap s x)
    | .ok ps => match takeFor s k ps with
      | .empty | .wait => none
      | .word w s => some (finish s rd w)
      | .unwound s => some s

/-- CHRD (R256): blocking, an acquire (R237). Its buffer is written after the thread's earlier accesses (R228, R304). -/
def execChrd (rd rs1 rs2 : RegNo) (s : State) : Out :=
  .next (if devWaits s then s else blockOn s (.chrd rd rs1 rs2) (tryChrd rd rs1 rs2 s))

/-- CHTRY (R256): async; 0x01 when the channel is empty. It waits as CHRD does. -/
def execChtry (rd rs1 rs2 : RegNo) (s : State) : Out :=
  .next <|
    if asyncFull s ∨ devWaits s then s
    else match readerArg s (rs s rs1).toNat with
      | .error w => asyncDone s rd w
      | .ok k => match opRange s .write (rs s rs2) (recBytes (getChan s k)) with
        | .error x => opTrap s x
        | .ok ps => match takeFor s k ps with
          | .empty => asyncDone s rd (errWord 0x01)
          | .wait => s
          | .word w s => asyncDone s rd w
          | .unwound s => s

/-- CHCLOSE (R257): by the writer, the channel becomes write-closed; by the opening thread, an idle entry is freed, and what waits
for room is evaluated again (R26). -/
def execChclose (rd rs1 : RegNo) (s : State) : Out :=
  .next <|
    if asyncFull s then s
    else match chanArg s (rs s rs1).toNat with
      | .error w => asyncDone s rd w
      | .ok k =>
        let c := getChan s k
        if c.wep = .thread s.cur then asyncDone (setChan s k (detachWriter c)) rd (okWord 0)
        else if c.ownerThread = some s.cur ∧ c.wep = .none ∧ c.rep = .none ∧ c.recs.isEmpty then
          asyncDone (reevalAll (freeChan s k)) rd (okWord 0)
        else asyncDone s rd (errWord 0x05)

/-! ### Time (R258, R288, R289) -/

/-- TIME (R258). -/
def execTime (rd : RegNo) (s : State) : Out := .next (finish s rd (okWord (getPkg s s.cur.pkg).time))

/-- The handles of TWSET entries held at containment levels of a die's threads. -/
def heldHandles (s : State) (pkg die : Nat) : List Nat :=
  s.threads.flatMap fun t => if t.1.pkg = pkg ∧ t.1.die = die then
      t.2.levels.flatMap fun l => l.held.filterMap fun x => match x with
        | .twset _ _ h => some h
        | _ => none
    else []

/-- The timer handles in use on a die. -/
def liveHandles (s : State) (pkg die : Nat) : List Nat :=
  ((getWheel s (pkg, die)).ents.filterMap (·.handle)) ++ heldHandles s pkg die

/-- The handle of a new entry: the least that has never been given out, else the free one given out longest ago, so that
a handle keeps naming an entry that has fired for as long as may be (log 9). -/
def freeTimer (s : State) (pkg die : Nat) : Option Nat :=
  let l := liveHandles s pkg die
  let u := (getWheel s (pkg, die)).used
  (leastBelow 1024 fun h => !l.contains h && !u.contains h).orElse fun _ => u.reverse.find? fun h => !l.contains h

/-- The start or the end of a TWSET's wait is activity of the launch that its descriptor names (R337). -/
def touchTwset (s : State) (pkg : Nat) (d : Option InjDesc) : State :=
  match d with
  | some x => touch s pkg x.lid
  | none => s

/-- Enter a TWSET of a thread, or hold it at its innermost containment level. -/
def enterTwset (s : State) (rd : RegNo) (due : Word) (d : Option InjDesc) : State :=
  let lv := !(curThr s).levels.isEmpty
  match freeTimer s s.cur.pkg s.cur.die with
  | none => finish s rd (errWord 0x03)
  | some h =>
    if lv ∧ 64 ≤ heldCount (curThr s) then finish s rd (errWord 0x03)
    else
      let s := modWheel s (s.cur.pkg, s.cur.die) fun w => { w with used := h :: w.used.filter fun g => decide (g ≠ h) }
      if lv then finish (modCur s fun th => holdEffect th (.twset due d h)) rd (okWord h)
      else finish (addTimer (touchTwset s s.cur.pkg d) s.cur.pkg s.cur.die due.toNat (some h) (.twset s.cur d)) rd (okWord h)

/-- TWSET (R258): a release, immediate. -/
def execTwset (rd rs1 rs2 : RegNo) (s : State) : Out :=
  .next <|
    let due := rs s rs1
    let va := rs s rs2
    if devWaits s then s
    else if va = 0 then enterTwset s rd due none
    else match opRange s .read va 32 with
      | .error x => opTrap s x
      | .ok ps =>
        let b := readPieces s ps
        if b.2.1 then finish b.2.2 rd (errWord 0x09) else enterTwset b.2.2 rd due (some (injOfBytes b.1))

/-- A held TWSET with a handle. -/
def isHeldTwset (h : Nat) (x : HeldEffect) : Bool :=
  match x with
  | .twset _ _ g => decide (g = h)
  | _ => false

/-- TWCLR (R258). -/
def execTwclr (rd rs1 : RegNo) (s : State) : Out :=
  .next <|
    let h := (rs s rs1).toNat
    let k := (s.cur.pkg, s.cur.die)
    let w := getWheel s k
    match w.ents.find? fun x => decide (x.handle = some h) with
    | some x => match x.what with
      | .twset t d =>
        if (getThr s t).part ≠ curPart s then finish s rd (errWord 0x0A)
        else finish (touchTwset (dropEnt s k.1 k.2 x) k.1 d) rd (okWord 0)
      | _ => finish s rd (errWord 0x04)
    | none =>
      if (heldHandles s k.1 k.2).contains h then
        if s.threads.any fun t => decide (t.1.pkg = k.1) && decide (t.1.die = k.2) && decide (t.2.part ≠ curPart s) &&
            t.2.levels.any fun l => l.held.any (isHeldTwset h) then finish s rd (errWord 0x0A)
        else
          let s := { s with threads := tmap (fun t th => if t.pkg ≠ k.1 ∨ t.die ≠ k.2 then th else
            { th with levels := th.levels.map fun l => { l with held := l.held.filter fun x => !isHeldTwset h x } }) s.threads }
          finish s rd (okWord 0)
      else if w.used.contains h then finish s rd (errWord 0x0C)
      else finish s rd (errWord 0x04)

/-- The entries of a wheel after a forward step to device time now (R290): one whose due time was passed fires at the next
boundary. -/
def reboundEnts (now : Nat) (w : Wheel) : Wheel :=
  { w with ents := w.ents.map fun x => if x.fire then x else { x with bound := boundOf now x.due } }

/-- TIMER_WHEEL_BOUNDARY (R288, R290): at a new 10 ns boundary the entries of it fire, wherever they wait. -/
def execTimerWheelBoundary (pkg die : Nat) (s : State) : Out :=
  .next <|
    let b := (getPkg s pkg).time / 10 * 10
    let w := getWheel s (pkg, die)
    if b ≤ w.boundary then s
    else setWheel s (pkg, die)
      { w with boundary := b, ents := w.ents.map fun x => if x.bound ≤ b then { x with fire := true, far := false } else x }

/-- FAR_LIST_MOVE (R289): the far entries that have come within span move into their buckets. -/
def execFarListMove (pkg die : Nat) (s : State) : Out :=
  .next <|
    let now := (getPkg s pkg).time
    modWheel s (pkg, die) fun w =>
      { w with ents := w.ents.map fun x => if x.due ≤ now + wheelSpan then { x with far := false } else x }

/-- TWSET_EXPIRY (R258): the due entry at place n sets its thread's event bit or performs its injection; one that fails
is reported to the thread. -/
def execTwsetExpiry (pkg die n : Nat) (s : State) : Out :=
  .next <|
    let s0 := s
    match dueEnt s pkg die n with
    | none => s
    | some x => match x.what with
      | .twset t none => setEvent (dropEnt s pkg die x) t
      | .twset t (some d) =>
        let (i, s) := fresh (touchTwset (dropEnt s pkg die x) pkg (some d))
        match inject s pkg (getThr s t).part d i with
        | .ok v => if injectFull s pkg d then s0 else v
        | .error w => raise s { dest := t, cause := 0x0210, tval := w, tinfo := d.tag,
                                  tcoord := coordNat { eng := ccEng pkg die }, lid := d.lid, src := ccEng pkg die }
      | _ => s

/-! ### Containment levels (R259, R260) -/

/-- CRGNO (R259). -/
def execCrgno (rd rs1 : RegNo) (s : State) : Out :=
  .next <|
    let th := curThr s
    if 8 ≤ th.levels.length then finish s rd (errWord 0x03)
    else finish (modCur s fun th => { th with levels := th.levels ++ [{ handler := rs s rs1, ret := th.pc + 4 }] }) rd
      (okWord (th.levels.length + 1))

/-- Perform one effect that a level held, at its release. A record for a channel that has been closed, and an injection
that fails, are dropped (log 23). -/
def performHeld (s : State) (x : HeldEffect) : PutRec :=
  match x with
  | .chwr pkg die idx bs =>
    let c := getChan s (pkg, die, idx)
    if c.state ≠ 1 ∨ c.wep ≠ .thread s.cur then .ok s else putRec s (pkg, die, idx) bs
  | .inject d =>
    let (i, s) := fresh s
    match inject s s.cur.pkg (curPart s) d i with
    | .ok v => if injectFull s s.cur.pkg d then .wait else .ok v
    | .error _ => .ok s
  | .twset due d h => .ok (addTimer (touchTwset s s.cur.pkg d) s.cur.pkg s.cur.die due.toNat (some h) (.twset s.cur d))

/-- Perform held effects in order, until one waits or the quota refuses it: the state, the rest, the refusal. -/
def performAll (s : State) : List HeldEffect → State × List HeldEffect × Option (Nat × Nat)
  | [] => (s, [], none)
  | x :: xs => match performHeld s x with
    | .ok s => performAll s xs
    | .wait => (s, x :: xs, none)
    | .quota a n => (s, x :: xs, some (a, n))

/-- The channel of an effect. -/
def effChan (x : HeldEffect) : ChanKey :=
  match x with
  | .chwr p d i _ => (p, d, i)
  | _ => (0, 0, 0)

/-- The outermost level closes: its effects are performed; while one waits the instruction waits with the rest (log 23). -/
def closeOuter (s : State) (rd : RegNo) (l : Level) : State :=
  if !l.held.isEmpty ∧ devWaits s then s
  else
    let r := performAll s l.held
    match r.2.1 with
    | [] => finish (modCur r.1 fun th => { th with levels := [] }) rd (okWord 0)
    | x :: xs =>
      let s := modCur r.1 fun th => { th with levels := [{ l with held := x :: xs }] }
      match r.2.2 with
      | some (a, n) => quotaTrap s (effChan x) a n
      | none => s

/-- CRGNC with s0 (R260): the innermost level closes. -/
def closeLevel (s : State) (rd : RegNo) : State :=
  let ls := (curThr s).levels
  match ls.getLast?, ls.dropLast.isEmpty with
  | none, _ => finish s rd (errWord 0x05)
  | some l, true => closeOuter s rd l
  | some l, false =>
    let up := ls.dropLast
    finish (modCur s fun th =>
      { th with levels := up.modify (up.length - 1) fun m => { m with held := m.held ++ l.held } }) rd (okWord 0)

/-- CRGNC on a held instance (R260, R135): replay or abandon. -/
def instanceAct (s : State) (rd : RegNo) (b : List Byte) (action : Nat) : State :=
  let key := BitVec.ofNat 64 (field b 0 8)
  let h := field b 10 1
  let rec0 := field b 12 2
  if 4096 ≤ field b 8 2 ∨ field b 11 1 ≠ 0 ∨ field b 14 2 ≠ 0 ∨ (action ≠ 1 ∧ action ≠ 2) then asyncDone s rd (errWord 0x02)
  else match graphArg s h with
    | .error w => asyncDone s rd w
    | .ok g =>
      if g.conts.length ≤ rec0 then asyncDone s rd (errWord 0x04)
      else
        let k := instAt g rec0 key
        let x := getInst g k.1 k.2
        if x.state ≠ 3 ∨ x.key ≠ key ∨ x.lid ≠ field b 8 2 then asyncDone s rd (errWord 0x05)
        else if action = 1 ∧ !replayRoom s (s.cur.pkg, h) g k.1 k.2 then s
        else asyncDone (resolveInst s (s.cur.pkg, h) g k.1 k.2 (decide (action = 1))) rd (okWord 0)

/-- CRGNC (R260): immediate with rs1 = s0, else async. -/
def execCrgnc (rd rs1 rs2 : RegNo) (s : State) : Out :=
  .next <|
    if rs1 = 0 then closeLevel s rd
    else if asyncFull s ∨ devWaits s then s
    else match opRange s .read (rs s rs1) 16 with
      | .error x => opTrap s x
      | .ok ps =>
        let b := readPieces s ps
        if b.2.1 then asyncDone b.2.2 rd (errWord 0x09) else instanceAct b.2.2 rd b.1 (rs s rs2).toNat

/-! ### Quotas (R261) -/

/-- QSET (R261): sets an agent's quota and returns the old one. -/
def execQset (rd rs1 rs2 : RegNo) (s : State) : Out :=
  .next <|
    let a := (rs s rs1).toNat
    let k := (s.cur.pkg, curPart s, a)
    if 4096 ≤ a then finish s rd (errWord 0x02)
    else finish (modQuota s k fun q => { q with quota := (rs s rs2).toNat }) rd (okWord (getQuota s k).quota)

/-- QGET (R261): an agent's quota, usage or count of breaches. -/
def execQget (rd rs1 rs2 : RegNo) (s : State) : Out :=
  .next <|
    let a := (rs s rs1).toNat
    let q := getQuota s (s.cur.pkg, curPart s, a)
    if 4096 ≤ a ∨ 3 ≤ (rs s rs2).toNat then finish s rd (errWord 0x02)
    else finish s rd (okWord (match (rs s rs2).toNat with
      | 0 => q.quota
      | 1 => q.usage
      | _ => q.breaches))

end Sys2Proof.Machine
end

