-- ==== Sys2Proof/Machine/Completion.lean ====
section
/-!
DEFINITION. Machine/Completion.lean: the end of async and of blocking device instructions (spec/11 R235).
-/
namespace Sys2Proof.Machine

/-- What an outstanding async instruction comes to now: its result with the state after its last act, or nothing yet. -/
def settleAsync (s : State) (pkg : Nat) (w : AsyncWait) : Option (Word × State) :=
  match w with
  | .ready r => some (r, s)
  | .launch _ _ => none
  | .kill lid n =>
    match getLaunch s (pkg, lid) with
    | none => some (okWord n, s)
    | some _ => if killReady s pkg lid then some (okWord n, s) else none
  | .purge lid k => (tryPurge s k lid).map fun r => (r.2, r.1)
  | .freeze h =>
    let s := settleFreeze s (pkg, h)
    match getGraph s (pkg, h) with
    | some g => if g.frozen then some (okWord 0, s) else none
    | none => some (errWord 0x04, s)
  | .inject i _ => if injected s i then some (okWord 0, s) else none

/-- The result word of an async instruction lands: a squashed one is discarded (R347). -/
def landAsync (s : State) (t : Tid) (n : Nat) (a : Async) (r : Word) : State :=
  modThr s t fun th =>
    let th := clearAhead { th with asyncs := th.asyncs.eraseIdx n }
    if a.squashed then { th with lsq := true } else sbClear (writeReg th a.rd r) a.rd

/-- ASYNC_COMPLETION (R235): the operation of the thread's async instruction n completes and its result lands. The last
acts of a GKILL are performed before it, and every GKILL of the launch has the same result. -/
def execAsyncCompletion (t : Tid) (n : Nat) (s : State) : Out :=
  .next <|
    match (getThr s t).asyncs[n]? with
    | none => s
    | some a0 =>
      let s' := match a0.wait with
        | .kill lid _ => if (getLaunch s (t.pkg, lid)).isSome && killReady s t.pkg lid then endKill s t.pkg lid else s
        | _ => s
      match (getThr s' t).asyncs[n]? with
      | none => s
      | some a => match settleAsync s' t.pkg a.wait with
        | some (r, s'') => landAsync s'' t n a r
        | none => s

/-- Try a blocking instruction again: its end when its condition holds. -/
def tryBlocked (i : Instr) (s : State) : Option State :=
  match i with
  | .sbind rd rs1 rs2 => trySbind rd rs1 rs2 s
  | .cpywait rd rs1 rs2 => tryCpywait rd rs1 rs2 s
  | .barwait rd rs1 rs2 => tryBarwait rd rs1 rs2 s
  | .chwr rd rs1 rs2 => tryChwr rd rs1 rs2 s
  | .chrd rd rs1 rs2 => tryChrd rd rs1 rs2 s
  | _ => none

/-- BLOCKING_WAIT_END (R235): the condition of the thread's blocking instruction has come to hold: it writes rd and
issue goes on. -/
def execBlockingWaitEnd (t : Tid) (s : State) : Out :=
  .next <|
    let th := getThr s t
    match th.wait with
    | none => s
    | some i =>
      if th.halted ∨ th.stopped then s
      else match tryBlocked i (modThr { s with cur := t } t fun th => { th with wait := none }) with
        | some s => s
        | none => s

end Sys2Proof.Machine
end

