-- ==== Sys2Proof/Machine/Flits.lean ====
section
/-!
DEFINITION. Machine/Flits.lean: the 64-byte flits of tokens and packets with their header CRC (spec/04 R90; spec/17 R362 to
R364). CRC-32C itself is taken from its public definition (log 40).
-/
namespace Sys2Proof.Machine

/-! ### CRC-32C (R90) -/

/-- One bit of the register, low bit first. -/
def crcStep (c : BitVec 32) : BitVec 32 := if c.getLsbD 0 then (c >>> 1) ^^^ 0x82F63B78#32 else c >>> 1

/-- One byte. -/
def crcByte (c : BitVec 32) (b : Byte) : BitVec 32 := (List.range 8).foldl (fun c _ => crcStep c) (c ^^^ b.setWidth 32)

/-- CRC-32C of bytes. -/
def crc32c (bs : List Byte) : BitVec 32 := ~~~ bs.foldl crcByte (~~~0#32)

/-! ### Header flits (R90, R363) -/

/-- Bits [479:0] of a header flit. Its reserved bits are those of `rsv`, low bits first. -/
def headerBits (t : Token) : Nat :=
  t.opw.toNat + t.tag.toNat * 2 ^ 128 + coordNat t.dst % 2 ^ 38 * 2 ^ 192 + t.kind % 16 * 2 ^ 230 + t.lid % 4096 * 2 ^ 234 +
    t.part % 32 * 2 ^ 246 + b2n t.urg * 2 ^ 251 + b2n t.rply * 2 ^ 252 + b2n t.poison * 2 ^ 253 + bits t.rsv 1 0 * 2 ^ 254 +
    coordNat t.src % 2 ^ 38 * 2 ^ 256 + t.agid % 4096 * 2 ^ 294 + t.path % 4096 * 2 ^ 306 + bits t.rsv 3 2 * 2 ^ 318 +
    t.seq % 2 ^ 32 * 2 ^ 320 + t.milestone % 65536 * 2 ^ 352 + t.residue % 65536 * 2 ^ 368 + t.hops % 256 * 2 ^ 384 +
    t.vc % 4 * 2 ^ 392 + bits t.rsv 89 4 * 2 ^ 394

/-- The CRC of a flit's bits [479:0]. -/
def hcrcOf (n : Nat) : Nat := (crc32c (leBytes 60 n)).toNat

/-- The header flit of a token header. -/
def headerFlit (t : Token) : BitVec 512 := BitVec.ofNat 512 (headerBits t + hcrcOf (headerBits t) * 2 ^ 480)

/-- The token header of a flit. -/
def flitToken (f : BitVec 512) : Token :=
  let n := f.toNat
  { opw := BitVec.ofNat 128 n, tag := BitVec.ofNat 64 (bits n 191 128), dst := coordOf (bits n 229 192), kind := bits n 233 230,
    lid := bits n 245 234, part := bits n 250 246, urg := bit n 251, rply := bit n 252, poison := bit n 253,
    src := coordOf (bits n 293 256), agid := bits n 305 294, path := bits n 317 306, seq := bits n 351 320,
    milestone := bits n 367 352, residue := bits n 383 368, hops := bits n 391 384, vc := bits n 393 392,
    rsv := bits n 255 254 + bits n 319 318 * 4 + bits n 479 394 * 16 }

/-- hcrc of a header flit holds. -/
def hcrcGood (f : BitVec 512) : Bool := decide (hcrcOf (f.toNat % 2 ^ 480) = f.toNat / 2 ^ 480)

/-! ### Packets (R363, R364) -/

/-- Bytes as 64-byte flits, the last padded with zeros. -/
def byteFlits (bs : List Byte) : List (BitVec 512) := (units64 bs).map fun u => BitVec.ofNat 512 (leNat u)

/-- A burst: its header words, then its data (R364). -/
def burstFlits (ws : List (BitVec 64)) (d : List Byte) : List (BitVec 512) :=
  byteFlits (ws.flatMap (fun w => leBytes 8 w.toNat) ++ d)

/-- The 512-byte bursts of a record's bytes, from chunk c on, of a record of 2^(rlog + 4) bytes in a format (R62, R364). -/
def recordBursts (rlog c fmt : Nat) (d : List Byte) : List (BitVec 512) :=
  (List.range (cdiv d.length 512)).flatMap fun k =>
    burstFlits [burstWord (c + k) (c + k + 1 = cdiv (2 ^ (rlog + 4)) 512 : Bool) fmt 0 0x7F] ((d.drop (512 * k)).take 512)

/-- A sector with bytes at an offset. -/
def sectorFlit (o : Nat) (d : List Byte) : List (BitVec 512) := [BitVec.ofNat 512 (leNat d * 256 ^ o)]

/-- The data flits of a packet (R363). -/
def dataFlits (b : PktBody) : List (BitVec 512) :=
  match b with
  | .token | .hbmRead _ | .hbmAtomic _ | .answer _ _ => []
  | .chunkWrite _ _ bs => bs.flatMap fun b => burstFlits b.words b.data
  | .readResponse _ d _ _ => sectorFlit 0 d
  | .channelWrite _ _ _ rlog c fmt d => recordBursts rlog c fmt d
  | .reduce _ c => burstFlits [burstWord 0 true c.fmt 0 0x7F] c.data
  | .hbmWrite r => match r.op with
    | .write d _ => sectorFlit (r.pa % 64) d
    | _ => sectorFlit 0 []

/-- nb and chunk of a transfer's header (R363), or the operation of an atomic. -/
def transferBits (b : PktBody) : Nat :=
  match b with
  | .chunkWrite _ c bs => c % 128 + (bs.length - 1) % 8 * 2 ^ 7
  | .channelWrite _ _ _ _ c _ d => c % 128 + (cdiv d.length 512 - 1) % 8 * 2 ^ 7
  | .hbmAtomic r => match r.op with
    | .atomic op _ _ => op % 16
    | _ => 0
  | _ => 0

/-- The header of a packet as it stands on a link. -/
def packetHeader (p : Pkt) : Token := { p.hdr with rsv := p.hdr.rsv + transferBits p.body * 16 }

/-- Flit k of a packet. -/
def flitOf (p : Pkt) (k : Nat) : BitVec 512 :=
  match k with
  | 0 => headerFlit (packetHeader p)
  | k + 1 => ((dataFlits p.body)[k]?).getD 0

/-- A transfer's header has an op that is not its body's, or a reserved bit (R363). -/
def headerBad (p : Pkt) : Bool := decide (p.hdr.kind ≠ packetOp p.body) || decide (p.hdr.rsv ≠ 0)

end Sys2Proof.Machine
end

