-- ==== Sys2Proof/Machine/Fabric.lean ====
section
/-!
DEFINITION. Machine/Fabric.lean: links, milestones, retry buffers, terminal engines, and elements whose clock or power is
off (spec/17 R360 to R373).
-/
namespace Sys2Proof.Machine

/-! ### Links (R360, R362) -/

/-- The engine at the other end of a cable (R360). -/
def cablePeer (s : State) (e : Eng) : Option Eng :=
  match s.cables.find? fun c => c.1 = e ∨ c.2 = e with
  | some c => some (if c.1 = e then c.2 else c.1)
  | none => none

/-- The inner strait at the other end: NSk of die d joins die d + k + 1 (R360). -/
def innerPeer (e : Eng) : Eng := { e with die := (e.die + e.page + 1) % 4, page := 2 - e.page }

/-- The engine at the other end of an engine's link. -/
def linkPeer (s : State) (e : Eng) : Option Eng := if e.elem = 26 then some (innerPeer e) else cablePeer s e

/-- The packet whose flits come next at an engine's port: the first on the link that has not come whole. -/
def incoming (s : State) (e : Eng) : Option (Nat × Pkt) :=
  (s.packets.findIdx? fun p => p.link && decide (p.at_ = e) && decide (p.flits < pktFlits p)).bind fun n =>
    (s.packets[n]?).map fun p => (n, p)

/-- The checks of a received flit x of a packet hold: the link CRC that came with it, and hcrc on a header flit (R362). -/
def flitGood (p : Pkt) (x : BitVec 512) : Bool :=
  decide (Config.linkCrc x = Config.linkCrc (flitOf p p.flits)) && (decide (p.flits ≠ 0) || hcrcGood x)

/-- LINK_FLIT_RECEIVE (R362): the next flit arrives with the bits of `noise` flipped. One whose checks hold is accepted; one
that fails is discarded and asked for again from the sender's replay buffer. After the first failure and 8 failed resends the
link is dead, and takes nothing more. -/
def execLinkFlitReceive (e : Eng) (noise : BitVec 512) (s : State) : Out :=
  .next <|
    match incoming s e with
    | none => s
    | some (n, p) =>
      if 9 ≤ (getStrait s e).resends ∨ (getStrait s e).dead then s
      else if flitGood p (flitOf p p.flits ^^^ noise) then
        modStrait { s with packets := lmod n (fun p => { p with flits := p.flits + 1 }) s.packets } e fun st => { st with resends := 0 }
      else modStrait s e fun st => { st with resends := st.resends + 1 }

/-- A link is dead at an engine: traffic stops, and its service core is notified (R368 item 1). -/
def killEnd (s : State) (e : Eng) : State := modStrait s e fun st => { st with dead := true, notified := true }

/-- LINK_DEATH (R362): after the first failure and 8 failed resends of one flit, or when a lane has lost lock, the link is
dead at both its ends and what was on it is lost. An inner strait's death is a package fault (R365). -/
def execLinkDeath (e : Eng) (lostLock : Bool) (s : State) : Out :=
  .next <|
    if (!lostLock ∧ (getStrait s e).resends ≤ 8) ∨ (getStrait s e).dead then s
    else if e.elem ≠ 25 then modPkg s e.pkg fun k => { k with pkgFault := true }
    else match cablePeer s e with
      | none => killEnd s e
      | some f =>
        killEnd (killEnd { s with packets := s.packets.filter fun p =>
          !(p.link && (decide (p.at_ = e) || decide (p.at_ = f))) } e) f

/-! ### Milestones (R366 to R370) -/

/-- Milestone a is older than b (R368). -/
def older (a b : Nat) : Bool :=
  let d := (b % 65536 + 65536 - a % 65536) % 65536
  decide (1 ≤ d) && decide (d ≤ 32767)

/-- Routes installed over a table: an entry replaces that of its pair. -/
def mergeRoutes (old new : List Route) : List Route :=
  new ++ old.filter fun r => !new.any fun q => decide (q.src = r.src) && decide (q.dst = r.dst)

/-- A kept packet is sent again: the same seq, rply, the current milestone and path (R369). After 8 resends without
acknowledgement the engine reports route-exhausted. -/
def resend (s : State) (e : Eng) (id : Nat) : State :=
  let st := getStrait s e
  match st.retry.find? (·.pkt.id = id) with
  | none => s
  | some r =>
    let pn := (pathNum st e.pkg r.pkt.hdr.dst.eng.pkg st.milestone).getD (0, 0)
    let p := { r.pkt with hdr := { r.pkt.hdr with rply := true, milestone := st.milestone, path := pn.2 },
                          at_ := portEng e pn.1, link := false }
    let worn : Bool := decide (8 ≤ r.resends)
    let q : Retry := { pkt := p, sent := (getPkg s e.pkg).time, resends := r.resends + 1 }
    let s := setStrait s e { st with retry := st.retry.map (fun x => if x.pkt.id = id then q else x),
                                     exhausted := st.exhausted || worn }
    let s := if worn then modPkg s e.pkg fun k => { k with exhausted := true } else s
    { s with packets := s.packets ++ [p] }

/-- Every unacknowledged packet of a retry buffer is resent (R369). -/
def resendAll (s : State) (e : Eng) : State := ((getStrait s e).retry.map (·.pkt.id)).foldl (fun s i => resend s e i) s

/-- A strait engine adopts a newer milestone (R368, R369): tables installed for it come into use, and every packet that
it keeps is resent. -/
def adoptMilestone (s : State) (e : Eng) (m : Nat) : State :=
  let st := getStrait s e
  if !older st.milestone m then s
  else
    let s := setStrait s e { st with milestone := m, table := mergeRoutes st.table st.newTable, newTable := [] }
    let s := (List.range 32).foldl
      (fun s p => traceClass s e.pkg e.die p 3 0 m (coordNat { eng := e }) 0 0x0A) s
    resendAll s e

/-- The packages of a route domain. -/
def domainPkgs (s : State) (d : Nat) : List Nat := (s.packages.filter fun k => k.2.routeDom = some d).map (·.1)

/-- Engines whose link is dead in a route domain. -/
def deadEnds (s : State) (ps : List Nat) : List Eng := (s.straits.filter fun k => ps.contains k.1.pkg && k.2.dead).map (·.1)

/-- A route set avoids every link then dead (R368): no table of the domain leaves through a dead engine in it. -/
def setAvoids (s : State) (ps : List Nat) (i : Nat) : Bool :=
  let dead := deadEnds s ps
  (s.straits.filter fun k => ps.contains k.1.pkg).all fun k =>
    (mergeRoutes k.2.table k.2.newTable).all fun r =>
      !dead.contains (portEng k.1 (routeSet r i).1)

/-- A change is due: a dead link not yet handled, or tables installed since the last change (R368 items 2 and 4). -/
def changeDue (s : State) (ps : List Nat) : Bool :=
  s.straits.any fun k => ps.contains k.1.pkg && (k.2.notified || k.2.fresh)

/-- MILESTONE_CHANGE (R368): the route master, the service core of the lowest-numbered package of the domain, moves to
the next set that avoids every dead link and broadcasts the notice; with none it reports route-exhausted. -/
def execMilestoneChange (pkg : Nat) (s : State) : Out :=
  .next <|
    match (getPkg s pkg).routeDom with
    | none => s
    | some d =>
      let ps := domainPkgs s d
      if ps.any (· < pkg) ∨ !changeDue s ps then s
      else
        let m := (getPkg s pkg).milestone
        let told := fun (e : Eng) (st : Strait) => if ps.contains e.pkg then { st with notified := false, fresh := false } else st
        let seen := { s with straits := tmap told s.straits }
        match [1, 2, 3].find? fun k => setAvoids s ps ((m + k) % 4) with
        | none => modPkg seen pkg fun k => { k with exhausted := true }
        | some k =>
          let move := fun (_ : Nat) (q : Package) => if q.routeDom = some d then { q with milestone := (m + k) % 65536 } else q
          { seen with packages := tmap move seen.packages }

/-- MILESTONE_ADOPT (R368): the notice reaches a strait engine. -/
def execMilestoneAdopt (e : Eng) (s : State) : Out :=
  .next <| if (getPkg s e.pkg).routeDom.isNone then s else adoptMilestone s e (getPkg s e.pkg).milestone

/-! ### Packets on their way (R367, R370) -/

/-- Take a packet out of the fabric. -/
def dropPkt (s : State) (n : Nat) : State := { s with packets := s.packets.eraseIdx n }

/-- Replace it. -/
def putPkt (s : State) (n : Nat) (p : Pkt) : State := { s with packets := lmod n (fun _ => p) s.packets }

/-- An answer reaches the engine that it is for: an acknowledgement or a nack of the pair's packet with a sequence number. -/
def landAnswer (s : State) (dest : Eng) (dpkg seq : Nat) (nack : Bool) : State :=
  let a : Answer := { dest := dest, dpkg := dpkg, seq := seq }
  if nack then { s with nacks := s.nacks ++ [a] } else { s with acks := s.acks ++ [a] }

/-- An engine answers a packet on vc 3: within the package at once, to another package as a packet of its own, which no retry
buffer keeps (R362, R369; log 52). Its header names the pair in opw. Without a route the answer is lost. -/
def sendAnswer (s : State) (e : Eng) (p : Pkt) (nack : Bool) : State :=
  let dpkg := p.hdr.dst.eng.pkg
  if e.pkg = p.src.pkg then landAnswer s p.src dpkg p.hdr.seq nack
  else
    let st := getStrait s e
    match pathNum st e.pkg p.src.pkg st.milestone with
    | none => s
    | some (port, pn) =>
      let f := portEng e port
      let (i, s) := fresh s
      let hdr : Token := { dst := { eng := p.src }, src := { eng := e }, vc := 3, part := p.hdr.part, path := pn,
                           milestone := st.milestone, opw := BitVec.ofNat 128 dpkg, hops := switchesBetween e f }
      { s with packets := s.packets ++ [{ hdr := hdr, body := .answer p.hdr.seq nack, src := e, at_ := f, id := i }] }

/-- A packet is an answer. -/
def isAnswer (p : Pkt) : Bool := match p.body with
  | .answer _ _ => true
  | _ => false

/-- A stale packet is dropped, and a nack returns to its source (R370). A copy still in its source engine is only replaced, for
that engine has resent it; an answer has no source that keeps it. -/
def staleDrop (s : State) (n : Nat) (p : Pkt) : State :=
  let s := dropPkt s n
  if isAnswer p ∨ (p.at_ = p.src ∧ !p.link) then s else sendAnswer s p.at_ p true

/-- The misroute report of an engine, to the fault thread of the packet's partition on its die (R367). -/
def reportMisroute (s : State) (e : Eng) (p : Pkt) : State :=
  raise s
    { dest := faultThread s e.pkg e.die p.hdr.part, cause := 0x0209, tval := BitVec.ofNat 64 (p.hdr.path % 4096),
      tinfo := p.hdr.tag, tcoord := coordNat { eng := e }, lid := p.hdr.lid, src := e }

/-- Misroute (R367): the packet is discarded without acknowledgement, and reported. -/
def misroute (s : State) (n : Nat) (p : Pkt) : State := reportMisroute (dropPkt s n) p.at_ p

/-- The terminal engine of a packet's pair (R369). -/
def terminalOf (p : Pkt) : Eng := { p.src with pkg := p.hdr.dst.eng.pkg }

/-- A packet has come to the terminal engine of its pair. -/
def atTerminal (p : Pkt) : Bool := !p.link && !isAnswer p && decide (p.at_ = terminalOf p)

/-- A packet that waits in a strait engine leaves through its link (R359, R368, R369). -/
def leaveEngine (s : State) (n : Nat) (p : Pkt) : State :=
  let st := getStrait s p.at_
  if older p.hdr.milestone st.milestone then staleDrop s n p
  else if st.dead ∨ !slotGrants s p.at_ p.hdr.part then s
  else match cablePeer s p.at_ with
    | none => s
    | some f => if (getPkg s f.pkg).off then s else putPkt s n { p with at_ := f, link := true, flits := 0 }

/-- A strait engine's check of a packet's path id (R367): the egress port of its route, when the engine's table names the route
and the path number is the packet's. Each engine drives one port, so an entry of its own table also says that its port is of that
route (DEDUCED, log 17). -/
def onRoute (s : State) (e : Eng) (p : Pkt) : Option Nat :=
  (pathNum (getStrait s e) p.src.pkg p.hdr.dst.eng.pkg p.hdr.milestone).bind fun x => if x.2 = p.hdr.path then some x.1 else none

/-- A packet whose last flit has come arrives at a strait engine: hops, milestone and path id are checked, and it goes on to its
terminal engine, an answer to its engine, or to the egress of its route (R367, R370). -/
def arriveEngine (s : State) (n : Nat) (p : Pkt) : State :=
  let e := p.at_
  if 64 ≤ p.hdr.hops then misroute s n p
  else if older p.hdr.milestone (getStrait s e).milestone then staleDrop s n p
  else
    let s := adoptMilestone s e p.hdr.milestone
    match onRoute s e p with
    | none => misroute s n p
    | some port =>
      if e.pkg = p.hdr.dst.eng.pkg then
        match p.body with
        | .answer seq nack => landAnswer (dropPkt s n) p.hdr.dst.eng p.hdr.opw.toNat seq nack
        | _ =>
          putPkt s n { p with at_ := terminalOf p, link := false, hdr := addHops p.hdr (switchesBetween e (terminalOf p)) }
      else
        let f := portEng e port
        putPkt s n { p with at_ := f, link := false, hdr := addHops p.hdr (switchesBetween e f) }

/-- PACKET_ARRIVAL (R367): the packet at place n leaves the strait engine it waits in, or arrives at the next. -/
def execPacketArrival (n : Nat) (s : State) : Out :=
  .next <|
    match s.packets[n]? with
    | none => s
    | some p =>
      if atTerminal p then s
      else if !p.link then leaveEngine s n p
      else if p.flits < pktFlits p then s else arriveEngine s n p

/-! ### Terminal engines (R371) -/

/-- A request that comes to its owner's package arrives now (R301). -/
def arriveReq (s : State) (b : PktBody) : PktBody :=
  match b with
  | .hbmRead r => .hbmRead { r with arr := some s.nextId }
  | .hbmWrite r => .hbmWrite { r with arr := some s.nextId }
  | .hbmAtomic r => .hbmAtomic { r with arr := some s.nextId }
  | b => b

/-- A packet passed on into the package over its switches, whose hops count (R90, R367). A transfer's header with another op than
its body's, or with a reserved bit, is discarded with a token-format fault (R363). -/
def passOn (s : State) (p : Pkt) : State :=
  let e := p.hdr.dst.eng
  let p := { p with hdr := addHops p.hdr (switchesBetween (terminalOf p) e) }
  match p.body with
  | .token => { s with inFlight := s.inFlight ++ [p.hdr] }
  | _ =>
    if 64 ≤ p.hdr.hops then reportMisroute s e p
    else if headerBad p then
      raise s { dest := reportFor s (pktHome p) e p.hdr.part p.hdr.lid, cause := 0x0103,
                tval := BitVec.ofNat 64 (p.hdr.kind % 16 + 16), tinfo := p.hdr.tag, tcoord := coordNat { eng := e },
                lid := p.hdr.lid, src := e }
    else { s with inbox := s.inbox ++ [{ p with body := arriveReq s p.body }] }

/-- Pass on accepted packets in seq order, each once its predecessors have been passed on. -/
def passInOrder : Nat → State → Terminal → State × Terminal
  | 0, s, t => (s, t)
  | f + 1, s, t =>
    match t.win.find? (·.hdr.seq = t.e) with
    | none => (s, t)
    | some p =>
      passInOrder f (passOn s p) { e := (t.e + 1) % 2 ^ 32, win := t.win.filter fun q => q.hdr.seq ≠ t.e }

/-- TERMINAL_ACCEPT (R371): the terminal engine checks the packet at place n as every strait engine does (R367, R370), and
accepts, acknowledges again or ignores it. -/
def execTerminalAccept (n : Nat) (s : State) : Out :=
  .next <|
    match s.packets[n]? with
    | none => s
    | some p =>
      let e := terminalOf p
      if !atTerminal p then s
      else if older p.hdr.milestone (getStrait s e).milestone then staleDrop s n p
      else
        let s := adoptMilestone s e p.hdr.milestone
        if 64 ≤ p.hdr.hops ∨ (onRoute s e p).isNone then misroute s n p
        else
        let s := dropPkt s n
        let st := getStrait s e
        let key := (p.src, p.hdr.dst.eng.pkg)
        let t := tget {} key st.term
        let k := (p.hdr.seq + 2 ^ 32 - t.e) % 2 ^ 32
        if 2 ^ 31 ≤ k ∨ t.win.any (fun q => q.hdr.seq = p.hdr.seq) then sendAnswer s e p false
        else if 256 ≤ k then s
        else
          let x := passInOrder 256 (sendAnswer s e p false) { t with win := p :: t.win }
          modStrait x.1 e fun st => { st with term := tset key x.2 st.term }

/-! ### Retry buffers (R369) -/

/-- The kept packet that an answer names. -/
def answered (s : State) (a : Answer) : Option Retry :=
  (getStrait s a.dest).retry.find? fun r => r.pkt.hdr.dst.eng.pkg = a.dpkg ∧ r.pkt.hdr.seq = a.seq

/-- ACK_RECEIVE (R369): an end-to-end acknowledgement frees the packet, and the engine takes packets that wait for room. -/
def execAckReceive (n : Nat) (s : State) : Out :=
  .next <|
    match s.acks[n]? with
    | none => s
    | some a =>
      let s := { s with acks := s.acks.eraseIdx n }
      match answered s a with
      | none => s
      | some r =>
        let s := modStrait s a.dest fun st => { st with retry := st.retry.filter fun x => x.pkt.id ≠ r.pkt.id }
        admitPkts (getStrait s a.dest).waiting.length s a.dest

/-- NACK_RECEIVE (R369): the source resends the packet. -/
def execNackReceive (n : Nat) (s : State) : Out :=
  .next <|
    match s.nacks[n]? with
    | none => s
    | some a =>
      let s := { s with nacks := s.nacks.eraseIdx n }
      match answered s a with
      | none => s
      | some r => resend s a.dest r.pkt.id

/-- RETRY_TIMEOUT (R369): the kept packet at place n, unacknowledged 16 µs after it was sent, is resent. -/
def execRetryTimeout (e : Eng) (n : Nat) (s : State) : Out :=
  .next <|
    match (getStrait s e).retry[n]? with
    | none => s
    | some r => if r.sent + 16000 ≤ (getPkg s e.pkg).time then resend s e r.pkt.id else s

/-! ### Clock gates and power gates (R373) -/

/-- Nothing is going on in an element. -/
def elementIdle (s : State) (e : Eng) : Bool :=
  let x := getEng s e
  x.ready.isEmpty && x.flow.isEmpty && x.unit.isEmpty && (runs x).isEmpty && x.ingress.isEmpty &&
    (getMemTile s e).queue.isEmpty && !s.xfers.any (fun t => t.eng = e) && !s.xunits.any (fun t => t.eng = e) &&
    !s.inFlight.any (fun t => t.dst.eng = e)

/-- ELEMENT_CLOCK_GATE (R373): an element idle for 64 cycles is clock-gated. -/
def execElementClockGate (e : Eng) (s : State) : Out :=
  .next <| if elementIdle s e ∧ engExists e then modEng s e fun x => { x with gated := true } else s

/-- ELEMENT_WAKE (R373): a token has reached a gated element or a gated page of a set, which begins to wake; or it has
woken. -/
def execElementWake (e : Eng) (s : State) : Out :=
  .next <|
    let x := getEng s e
    let reached := s.inFlight.any fun t => decide (t.dst.eng = e) && !mustCross t
    if x.waking then modEng s e fun x => { x with waking := false }
    else if !reached then s
    else if onPage e ∧ !pagePowered s e then
      if (setOfPage s e).isNone then s
      else modEng { s with pageOn := tset (e.pkg, e.die, e.page) true s.pageOn } e fun x =>
        { x with gated := false, waking := true }
    else if x.gated then modEng s e fun x => { x with gated := false, waking := true }
    else s

/-- PAGE_POWER_GATE (R373): firmware gates a page of a placed set whose elements hold no occupied row, no selected
activation and no tile in FILLING or DRAINING. -/
def execPagePowerGate (pkg die page : Nat) (s : State) : Out :=
  .next <|
    let here := fun e : Eng => decide (e.pkg = pkg) && decide (e.die = die) && decide (e.page = page) && onPage e
    let busy := s.engines.any fun x => here x.1 &&
      !(x.2.rows.all (·.backed) && x.2.ready.isEmpty && x.2.flow.isEmpty && x.2.unit.isEmpty && (runs x.2).isEmpty)
    let tiles := s.tiles.any fun t => decide (t.1.pkg = pkg) && decide (t.1.die = die) &&
      decide (t.1.handle / 4096 = page) && (decide (t.2.state = 2) || decide (t.2.state = 4))
    if busy ∨ tiles ∨ (setOfPage s ⟨pkg, die, page, 0⟩).isNone then s
    else { s with pageOn := tset (pkg, die, page) false s.pageOn }

end Sys2Proof.Machine
end

