-- ==== Sys2Proof/Machine/Host.lean ====
section
/-!
DEFINITION. Machine/Host.lean: the PCIe functions: BAR0, BAR2, the command rings and the completion of commands (spec/20
R403 to R407).
-/
namespace Sys2Proof.Machine

/-! ### BAR0 and BAR2 (R403, R404) -/

/-- A function is enabled: its partition exists, and firmware is ready with no package fault (R403, R413). -/
def fnEnabled (s : State) (pkg fn : Nat) : Bool :=
  (getPart s (pkg, fn)).live && (getPkg s pkg).fwReady && !(getPkg s pkg).pkgFault

/-- The function takes host transactions: it is enabled and its partition is not being reset (R355). -/
def fnOpen (s : State) (pkg fn : Nat) : Bool := fnEnabled s pkg fn && decide ((getPart s (pkg, fn)).flr = 0)

/-- zid (R404). -/
def zidWord (s : State) (pkg : Nat) : Word := BitVec.ofNat 64 (0x5A44 + (getPkg s pkg).stepping % 2 ^ 16 * 2 ^ 16)

/-- zstate (R404). -/
def zstateWord (s : State) (pkg fn : Nat) : Word :=
  let k := getPkg s pkg
  let p := getPart s (pkg, fn)
  BitVec.ofNat 64 (b2n k.fwReady + 2 * b2n p.live + 4 * b2n (decide (p.flr ≠ 0)) + 8 * b2n k.throttle + 16 * b2n k.pkgFault)

/-- What a host read of a BAR0 register returns (R404). -/
def barRead (s : State) (pkg fn off : Nat) : Word :=
  match off with
  | 0x000 => zidWord s pkg
  | 0x008 => (getFn s (pkg, fn)).zring
  | 0x018 => zstateWord s pkg fn
  | 0x020 => (getFn s (pkg, fn)).zvec
  | _ => 0

/-- ZBELL (R404): a write of zbell asks the service core to read the ring at once. -/
def execZbell (pkg fn : Nat) (s : State) : Out :=
  .next <| if fnOpen s pkg fn then modFn s (pkg, fn) fun f => { f with bell := true } else s

/-- The fields of zring: base and depth. -/
def zringFields (v : Word) : Word := v &&& 0xFFFFFFFFFFFFF00F#64

/-- ZRING_WRITE (R404): it takes effect at once, or after the outstanding commands complete. -/
def execZringWrite (pkg fn : Nat) (v : Word) (s : State) : Out :=
  .next <|
    if !fnOpen s pkg fn then s
    else modFn s (pkg, fn) fun f =>
      if f.cmds.isEmpty then { f with zring := zringFields v, zringNext := none } else { f with zringNext := some (zringFields v) }

/-- REGISTER_WRITE (R404): zvec takes its fields; the read-only registers keep theirs. -/
def execRegisterWrite (pkg fn off : Nat) (v : Word) (s : State) : Out :=
  .next <|
    if off = 0x020 ∧ fnOpen s pkg fn then modFn s (pkg, fn) fun f => { f with zvec := v &&& 0x3F#64 } else s

/-- Bytes whose value the spec leaves open (log 7). -/
def freeBytes (s : State) (n : Nat) : List Byte × State :=
  ((List.range n).map fun k => Config.freeByte (s.freeCount + k), { s with freeCount := s.freeCount + n })

/-- BAR2_ACCESS (R404): the host reaches virtual address off of the function's partition, or gets Unsupported Request,
which changes nothing. -/
def execBar2Access (pkg fn off : Nat) (acc : HostAccess) (s : State) : Out :=
  .next <|
    let reply := fun (s : State) (a : Option (List Byte)) => modFn s (pkg, fn) fun f => { f with answer := a }
    if !fnOpen s pkg fn then s
    else match acc with
      | .read n =>
        let s := coreWalks s pkg fn (pagePieces off n)
        match translateRange s (qmEng pkg 0) fn .op .read off n with
        | .error _ => reply s none
        | .ok ps =>
          let r := readPieces s ps
          if r.2.1 then let f := freeBytes r.2.2 n; reply f.2 (some f.1) else reply r.2.2 (some r.1)
      | .write d =>
        let s := coreWalks s pkg fn (pagePieces off d.length)
        match translateRange s (qmEng pkg 0) fn .op .write off d.length with
        | .error _ => reply s none
        | .ok ps => reply (writePieces s d ps) (some [])

/-! ### The ring's memory (R405) -/

/-- The base of a function's ring (R404). -/
def ringBase (s : State) (pkg fn : Nat) : Nat := (getFn s (pkg, fn)).zring.toNat / 4096 * 4096

/-- Memory of a ring, a completion or a buffer: where the ring lies, in what the function's partition maps or in host memory
outside its window (R405; log 109). -/
def svcPieces (s : State) (pkg fn : Nat) (acc : Acc) (va n : Nat) : Option (List (Target × Nat)) :=
  if windowOk s pkg fn (ringBase s pkg fn) then
    match translateRange s (qmEng pkg 0) fn .copy acc va n with
    | .ok ps => some ps
    | .error _ => none
  else some [(.host va, n)]

/-- The walks and reads of n bytes of that memory (R351, R385). -/
def svcReads (s : State) (pkg fn va n : Nat) : State :=
  if windowOk s pkg fn (ringBase s pkg fn) then
    let s := coreWalks s pkg fn (pagePieces va n)
    ((svcPieces s pkg fn .read va n).map fun ps => (readPieces s ps).2.2).getD s
  else s

/-- Read it; none when it faults or cannot be corrected. -/
def svcRead (s : State) (pkg fn va n : Nat) : Option (List Byte) :=
  match svcPieces s pkg fn .read va n with
  | none => none
  | some ps => if (readPieces s ps).2.1 then none else some (readPieces s ps).1

/-- Write it. -/
def svcWrite (s : State) (pkg fn va : Nat) (bs : List Byte) : Option State :=
  (svcPieces s pkg fn .write va bs.length).map fun ps => writePieces s bs ps

/-! ### Commands (R405 to R408) -/

/-- The op codes (R408). -/
def knownOps : List Nat :=
  [0x01, 0x02, 0x03, 0x10, 0x11, 0x12, 0x13, 0x14, 0x15, 0x16, 0x20, 0x28] ++
    [0x29, 0x30, 0x31, 0x32, 0x34, 0x40, 0x41, 0x42, 0x50, 0x58]

/-- The commands of the physical function only (R408). -/
def pfOps : List Nat := [0x03, 0x10, 0x11, 0x13, 0x14, 0x15, 0x16, 0x20, 0x28, 0x29, 0x30, 0x31, 0x32, 0x50, 0x58]

/-- A field of the command's args, by its byte in the record. -/
def arg (c : Cmd) (k n : Nat) : Nat := field c.args (k - 8) n

/-- The bytes that a command uses, as half-open ranges (R408, R409, R435); the others are reserved. -/
def usedBytes (c : Cmd) : List (Nat × Nat) :=
  match c.op with
  | 0x02 => [(8, 40)]
  | 0x03 | 0x30 => [(8, 12)]
  | 0x10 | 0x11 | 0x12 => [(8, 9)]
  | 0x13 => [(8, 13), (16, 37)]
  | 0x14 => [(8, 9), (16, 32)]
  | 0x15 => [(8, 10), (16, 40)]
  | 0x16 => [(8, 11), (12, 17)]
  | 0x20 => [(8, 11)]
  | 0x28 => [(8, 10), (16, 25)]
  | 0x29 => [(8, 12), (16, 25)]
  | 0x31 => [(8, 16)]
  | 0x32 => [(8, 9), (10, 14)]
  | 0x34 => [(8, 18)]
  | 0x40 => [(8, 10), (12, 16)] ++
      match arg c 8 1 with
      | 0x0D => [(16, 24)]
      | 0x13 => [(16, 28)]
      | 0x17 => if bits (arg c 12 4) 4 3 = 0 then [] else [(16, 19)]
      | _ => []
  | 0x41 => [(8, 10), (12, 16)] ++ if arg c 8 1 = 5 then [(10, 12)] else []
  | 0x42 => [(8, 11), (16, 28)]
  | 0x50 => [(8, 10), (12, 24)]
  | 0x58 => [(8, 10)]
  | _ => []

/-- A reserved byte of a record is not zero (R406). -/
def reservedSet (c : Cmd) : Bool :=
  decide (c.zero ≠ 0) ||
    (List.range 32).any fun k => arg c (8 + k) 1 != 0 && !(usedBytes c).any fun r => decide (r.1 ≤ 8 + k) && decide (8 + k < r.2)

/-- The refusal of a command before its own checks (R406). -/
def cmdRefusal (fn : Nat) (c : Cmd) : Option Word :=
  if reservedSet c ∨ !knownOps.contains c.op then some (errWord 0x02)
  else if fn ≠ 0 ∧ pfOps.contains c.op then some (errWord 0x0A)
  else none

/-- A command completes (R406): data to buf, the result word and the cookie to done, then the function's vector. A zring
write that waited takes effect (R404). -/
def complete (s : State) (pkg fn : Nat) (c : Cmd) (w : Word) (data : List Byte) : State :=
  let x : Word × State :=
    if data.isEmpty ∨ c.buf = 0 then (w, s)
    else match svcWrite s pkg fn c.buf.toNat data with
      | some s => (w, s)
      | none => (if c.op = 0x12 then w else errWord 0x02, s)
  let s := (svcWrite x.2 pkg fn c.done.toNat (leBytes 8 x.1.toNat ++ leBytes 8 c.cookie)).getD x.2
  modFn s (pkg, fn) fun f =>
    { f with
      cmds := f.cmds.tail
      zring := f.zringNext.getD f.zring
      zringNext := none
      vectors := if f.zvec.getLsbD 5 then f.vectors ++ [f.zvec.toNat % 32] else f.vectors }

/-- What a command comes to: it waits, or it completes with a result word and data. -/
inductive Answered where
  | wait (s : State)
  | done (w : Word) (data : List Byte) (s : State)

/-- A command fails. -/
def cmdFail (s : State) (code : Nat) : Answered := .done (errWord code) [] s
/-- A command succeeds. -/
def cmdDone (s : State) (data : List Byte := []) : Answered := .done (okWord 0) data s

/-- Run the command at the head of a function's ring when it is the one that the step performs. -/
def runCmd (s : State) (pkg fn : Nat) (mine : Cmd → Bool) (f : Cmd → Answered) : State :=
  match (getFn s (pkg, fn)).cmds with
  | [] => s
  | c :: _ =>
    if !mine c then s
    else match cmdRefusal fn c with
      | some w => complete s pkg fn c w []
      | none => match f c with
        | .wait s => s
        | .done w d s => complete s pkg fn c w d

/-- Run a command of an op. -/
def runOp (s : State) (pkg fn op : Nat) (f : Cmd → Answered) : State := runCmd s pkg fn (fun c => decide (c.op = op)) f

/-- Function-level reset of a partition is in progress, and a command that names it waits (R407). -/
def inFlr (s : State) (pkg p : Nat) : Bool := decide ((getPart s (pkg, p)).flr ≠ 0)

/-- The command record of a slot (R405). -/
def cmdOf (b : List Byte) (slot : Nat) : Cmd :=
  { op := field b 0 2, zero := field b 2 2, cookie := field b 4 4, args := (b.drop 8).take 32,
    done := BitVec.ofNat 64 (field b 40 8), buf := BitVec.ofNat 64 (field b 48 8), slot := slot }

/-- ZCMD_RING_POLL (R405, R407): the service core takes the sealed command at the ring's read index, one at a time. A
command of an unknown op fails (R406). -/
def execZcmdRingPoll (pkg fn : Nat) (s : State) : Out :=
  .next <|
    let f := getFn s (pkg, fn)
    let base := ringBase s pkg fn
    let depth := 2 ^ (2 + Nat.min 6 (f.zring.toNat % 16))
    if !fnEnabled s pkg fn ∨ !f.cmds.isEmpty then s
    else match svcRead s pkg fn (base + 8) 8 with
      | none => svcReads s pkg fn (base + 8) 8
      | some ri =>
        let r := leNat ri
        let s := svcReads (svcReads s pkg fn (base + 8) 8) pkg fn (base + 64 + 64 * (r % depth)) 64
        match svcRead s pkg fn (base + 64 + 64 * (r % depth)) 64 with
        | none => s
        | some b =>
          if field b 56 8 ≠ (r + 1) % 2 ^ 64 then modFn s (pkg, fn) fun f => { f with bell := false }
          else match svcWrite s pkg fn (base + 8) (leBytes 8 ((r + 1) % 2 ^ 64)) with
            | none => s
            | some s =>
              let c := cmdOf b (r % depth)
              let s := modFn s (pkg, fn) fun f => { f with cmds := [c] }
              if knownOps.contains c.op then s else complete s pkg fn c (errWord 0x02) []

end Sys2Proof.Machine
end

