-- ==== Sys2Proof/Machine/Partitions.lean ====
section
/-!
DEFINITION. Machine/Partitions.lean: partitions, their resources and function-level reset (spec/16 R348 to R358; spec/20
R407, R408).
-/
namespace Sys2Proof.Machine

/-! ### Ranges (R349, R354) -/

/-- A range lies inside one of a list. -/
def insideOne (rs : List (Nat × Nat)) (b n : Nat) : Bool :=
  rs.any fun r => decide (r.1 ≤ b) && decide (b + n ≤ r.1 + r.2)

/-- Take a range out of the one that holds it. -/
def cutRange (rs : List (Nat × Nat)) (b n : Nat) : List (Nat × Nat) :=
  rs.flatMap fun r =>
    if r.1 ≤ b ∧ b + n ≤ r.1 + r.2 then [(r.1, b - r.1), (b + n, r.1 + r.2 - (b + n))].filter (·.2 ≠ 0) else [r]

/-- Add a range, joined to its neighbours. -/
def joinRange (rs : List (Nat × Nat)) (b n : Nat) : List (Nat × Nat) :=
  let lo := ((rs.find? fun r => r.1 + r.2 = b).map (·.1)).getD b
  let hi := ((rs.find? fun r => r.1 = b + n).map fun r => r.1 + r.2).getD (b + n)
  (rs.filter fun r => r.1 + r.2 ≠ b ∧ r.1 ≠ b + n) ++ [(lo, hi - lo)]

/-- Two ranges overlap. -/
def rangesMeet (a n b m : Nat) : Bool := decide (a < b + m) && decide (b < a + n)

/-- A range of a partition is in use: it meets one of its pools. -/
def rangeUsed (p : Partition) (b n : Nat) : Bool :=
  rangesMeet b n p.l1Base p.l1Size ||
    p.pools.any fun q => rangesMeet b n q.2.segBase (q.2.segs * 65536 + q.2.blocks * 1024)

/-! ### PCREATE, ASPACE, FAULTS (R349, R354, R408) -/

/-- PCREATE (R408): a partition with no resources; its function is enabled. -/
def execPcreate (pkg fn : Nat) (s : State) : Out :=
  .next <| runOp s pkg fn 0x10 fun c =>
    let p := arg c 8 1
    if p = 0 ∨ 31 < p then cmdFail s 0x02
    else if inFlr s pkg p then .wait s
    else if (getPart s (pkg, p)).live then cmdFail s 0x05
    else cmdDone (setPart s (pkg, p) { live := true })

/-- A command on an existing partition: 0x04 when it does not exist, and it waits while the partition is being reset. -/
def onPart (s : State) (pkg p : Nat) (f : Partition → Answered) : Answered :=
  if 31 < p then cmdFail s 0x02
  else if inFlr s pkg p then .wait s
  else if !(getPart s (pkg, p)).live then cmdFail s 0x04
  else f (getPart s (pkg, p))

/-- ASPACE (R349, R408): root and virtual window. -/
def execAspace (pkg fn : Nat) (s : State) : Out :=
  .next <| runOp s pkg fn 0x14 fun c => onPart s pkg (arg c 8 1) fun p =>
    let root := arg c 16 8
    let vb := arg c 24 4
    let vl := arg c 28 4
    if root % 4096 ≠ 0 ∨ hbmSize ≤ root ∨ vl < vb ∨ 2 ^ 19 < vl then cmdFail s 0x02
    else cmdDone (setPart s (pkg, arg c 8 1) { p with root := root, vbase := vb * 2 ^ 33, vlimit := vl * 2 ^ 33 })

/-- FAULTS (R330, R339, R393, R408). -/
def execFaults (pkg fn : Nat) (s : State) : Out :=
  .next <| runOp s pkg fn 0x16 fun c => onPart s pkg (arg c 8 1) fun p =>
    let w := arg c 12 4
    if 3 < arg c 9 1 ∨ 3 < arg c 10 1 ∨ w < 2 ∨ 1000 < w ∨ 1 < arg c 16 1 then cmdFail s 0x02
    else cmdDone (setPart s (pkg, arg c 8 1)
      { p with faultThr := tset (arg c 9 1) (arg c 10 1) p.faultThr, windowUs := w, brk := decide (arg c 16 1 = 1) })

/-! ### PGRANT (R354, R408) -/

/-- A page holds a set or a ring. -/
def pageInUse (s : State) (pkg die page : Nat) : Bool :=
  !pageFree s.graphs pkg die page ||
    s.chans.any fun c => decide (c.1.1 = pkg) && decide (c.1.2.1 = die) && decide (c.2.state ≠ 0) && decide (c.2.rpage = page)

/-- The set bits of a mask below n. -/
def bitsOf (n m : Nat) : List Nat := (List.range n).filter fun k => bit m k

/-- A resource that PGRANT names is not a free one of the giver. -/
def grantBusy (s : State) (pkg src die : Nat) (pages ths : List Nat) (bf bn hb hn : Nat) : Bool :=
  pages.any (fun g => decide (pageOwnerOf s pkg die g ≠ src) || pageInUse s pkg die g) ||
    ths.any (fun t => decide ((getThr s ⟨pkg, die, t⟩).part ≠ src) || !(getThr s ⟨pkg, die, t⟩).halted) ||
    (List.range bn).any (fun k => (getBar s (pkg, die, bf + k)).armed) ||
    (decide (hn ≠ 0) && (!insideOne (getPart s (pkg, src)).ranges hb hn || rangeUsed (getPart s (pkg, src)) hb hn))

/-- Move resources from one partition to another. -/
def moveGrant (s : State) (pkg src dst die : Nat) (pages ths : List Nat) (bf bn hb hn : Nat) : State :=
  let s := { s with
    pageOwner := pages.foldl (fun t g => tset (pkg, die, g) dst t) s.pageOwner
    barRuns := if bn = 0 then s.barRuns else (pkg, die, bf, bn, dst) :: s.barRuns }
  let s := ths.foldl (fun s t => modThr s ⟨pkg, die, t⟩ fun th => { th with part := dst, agid := 0 }) s
  if hn = 0 then s
  else modPart (modPart s (pkg, src) fun p => { p with ranges := cutRange p.ranges hb hn }) (pkg, dst) fun p =>
    { p with ranges := joinRange p.ranges hb hn }

/-- PGRANT (R354, R408): free pages, threads, barriers and HBM of partition 0 move to a partition, or back. -/
def execPgrant (pkg fn : Nat) (s : State) : Out :=
  .next <| runOp s pkg fn 0x13 fun c => onPart s pkg (arg c 8 1) fun _ =>
    let p := arg c 8 1
    let die := arg c 9 1
    let back := arg c 36 1
    let src := if back = 1 then p else 0
    let dst := if back = 1 then 0 else p
    let pages := bitsOf 16 (arg c 10 2)
    let ths := bitsOf 4 (arg c 12 1)
    let bf := arg c 16 4
    let bn := arg c 20 4
    let hb := arg c 24 8
    let hn := arg c 32 4 * 2 ^ 23
    if p = 0 ∨ 3 < die ∨ 1 < back ∨ 15 < arg c 12 1 ∨ hb % 2 ^ 23 ≠ 0 ∨ 4096 < bf + bn then cmdFail s 0x02
    else if (List.range bn).any fun k => barOwner s pkg die (bf + k) ≠ src then cmdFail s 0x02
    else if grantBusy s pkg src die pages ths bf bn hb hn then cmdFail s 0x05
    else
      let s' := moveGrant s pkg src dst die pages ths bf bn hb hn
      if 12 < (getPart s' (pkg, src)).ranges.length ∨ 12 < (getPart s' (pkg, dst)).ranges.length then cmdFail s 0x03
      else cmdDone s'

/-! ### POOLS (R296, R319, R335, R408) -/

/-- A pool in use that would not only grow. -/
def poolShrinks (q : Pool) (base segs blocks : Nat) : Bool :=
  (!q.segUsed.isEmpty || decide (q.blocksUsed ≠ 0)) &&
    (decide (base ≠ q.segBase) || decide (segs < q.segs) || decide (blocks < q.blocks))

/-- POOLS (R408). The L1 fields are read only for die 0. -/
def execPools (pkg fn : Nat) (s : State) : Out :=
  .next <| runOp s pkg fn 0x15 fun c => onPart s pkg (arg c 8 1) fun p =>
    let die := arg c 9 1
    let base := arg c 16 8
    let segs := arg c 24 4
    let blocks := arg c 28 4
    let n := segs * 65536 + blocks * 1024
    let lb := arg c 32 4 * 2 ^ 23
    let ln := arg c 36 4 * 2 ^ 23
    let q := tget {} die p.pools
    if 3 < die ∨ (n ≠ 0 ∧ !insideOne p.ranges base n) ∨ (die = 0 ∧ ln ≠ 0 ∧ !insideOne p.ranges lb ln) then cmdFail s 0x02
    else if poolShrinks q base segs blocks ∨
        (die = 0 ∧ !p.l1Used.isEmpty ∧ !(lb ≤ p.l1Base ∧ p.l1Base + p.l1Size ≤ lb + ln)) then cmdFail s 0x05
    else
      let p := { p with pools := tset die { q with segBase := base, segs := segs, blocks := blocks } p.pools }
      let p := if die = 0 then { p with l1Base := lb, l1Size := ln } else p
      cmdDone (reevalAll (setPart s (pkg, arg c 8 1) p))

/-! ### Queues (R250, R275) -/

/-- LQSET (R275, R408): a launch queue's base and depth, its indices zeroed. -/
def execLqset (pkg fn : Nat) (s : State) : Out :=
  .next <| runOp s pkg fn 0x28 fun c => onPart s pkg (arg c 8 1) fun _ =>
    let p := arg c 8 1
    let num := arg c 9 1
    let base := arg c 16 8
    let k := arg c 24 1
    if 7 < num ∨ k < 2 ∨ 12 < k ∨ base % 8 ≠ 0 then cmdFail s 0x02
    else
      let slot := match queueOf s pkg p num with
        | some q => some q.1
        | none => leastBelow 32 fun q => !(getLaunchQ s (pkg, q)).set
      match slot, schedWrite s pkg p base (List.replicate 16 0) with
      | none, _ => cmdFail s 0x03
      | _, none => cmdFail s 0x02
      | some q, some s =>
        cmdDone (modLaunchQ s (pkg, q) fun x =>
          { x with set := true, base := BitVec.ofNat 64 base, log2 := k, part := p, num := num })

/-- CQSET (R250, R408): a user copy queue's base, depth, partition and fault thread, its indices zeroed. -/
def execCqset (pkg fn : Nat) (s : State) : Out :=
  .next <| runOp s pkg fn 0x29 fun c => onPart s pkg (arg c 8 1) fun _ =>
    let p := arg c 8 1
    let die := arg c 9 1
    let q := arg c 10 1
    let base := arg c 16 8
    let k := arg c 24 1
    if 3 < die ∨ 15 < q ∨ 3 < arg c 11 1 ∨ k < 2 ∨ 12 < k ∨ base % 8 ≠ 0 then cmdFail s 0x02
    else match runsToPieces s (qmEng pkg die) p .copy .write [(base, 16)] with
      | .error _ => cmdFail s 0x02
      | .ok ps =>
        cmdDone (setCopyQ (writeCopy s ps (List.replicate 16 0)) (pkg, die, q)
          { set := true, base := BitVec.ofNat 64 base, log2 := k, part := p, faultThr := arg c 11 1 })

/-! ### Slot tables (R357, R358) -/

/-- A slot entry that firmware accepts (R358). -/
def slotEntryOk (v : Nat) : Bool :=
  match v / 64 with
  | 0 => true
  | 1 => decide (v % 64 = 0)
  | 2 => decide (v % 64 ≤ 2)
  | _ => false

/-- SLOTS (R358, R408): a whole table, which takes effect at the next frame boundary. -/
def execSlots (pkg fn : Nat) (s : State) : Out :=
  .next <| runOp s pkg fn 0x20 fun c =>
    let e : Eng := ⟨pkg, arg c 8 1, arg c 10 1, arg c 9 1⟩
    if 3 < e.die ∨ !hasSlots e ∨ !engExists e ∨ c.buf = 0 then cmdFail s 0x02
    else
      let s := svcReads s pkg fn c.buf.toNat 256
      match svcRead s pkg fn c.buf.toNat 256 with
      | none => cmdFail s 0x02
      | some b =>
        if b.any fun x => !slotEntryOk x.toNat then cmdFail s 0x02
        else
          let tab : Tbl Nat Nat := ((b.zipIdx).filter fun x => x.1.toNat ≠ 0x40).map fun x => (x.2, x.1.toNat)
          cmdDone (modSlotTab s e fun t =>
            { dueTab t ((getPkg s pkg).time / 8192) with pending := some tab, pendingFrame := (getPkg s pkg).time / 8192 + 1 })

/-! ### Function-level reset (R355, R356) -/

/-- A packet of a partition that a strait engine of a package keeps or has waiting for room. -/
def straitPkts (s : State) (pkg p : Nat) : List Pkt :=
  (s.straits.filter fun x => decide (x.1.pkg = pkg)).flatMap fun x =>
    ((x.2.retry.map (·.pkt)) ++ x.2.waiting).filter fun k => decide (k.hdr.part = p)

/-- Requests of a partition that have come from other packages to HBM port engines of a package. -/
def remoteReqs (s : State) (pkg p : Nat) : List Pkt :=
  s.inbox.filter fun x => decide (x.hdr.dst.eng.pkg = pkg) && decide (x.hdr.part = p)

/-- Page walks of a partition in progress on a package. -/
def walksOf (s : State) (pkg p : Nat) : List Walk :=
  s.walks.filter fun w => w.fault == 0 && decide (w.pkg = pkg) && decide (w.part = p)

/-- Step 1 (R355): the function closes, and what drains is counted: requests at the HBM port engines, those that a report holds
and those of other packages among them; packets in retry buffers or before them; copy packets; walks. -/
def flrBegin (s : State) (pkg p code : Nat) : State :=
  let ls := s.launches.filter fun l => decide (l.1.1 = pkg) && decide (l.2.part = p)
  let nr := (s.reqs.filter fun r => decide (r.part = p) && decide (r.owner.pkg = pkg) && !r.host && decide (r.st = .queued ∨ r.st = .held)).length + (remoteReqs s pkg p).length
  let np := (straitPkts s pkg p).length
  let nc := (s.copies.filter fun j => decide (j.eng.pkg = pkg) && decide (j.part = p) && j.packet.isSome).length
  modPart s (pkg, p) fun q => { q with flr := code, drain := [ls.length, nr, np, nc, (walksOf s pkg p).length] }

/-- Step 2 (R355): every live launch is killed with reason 4, once no move of its set is under way (R346). Accesses held by a
report are discarded (R348), and stream commands and page walks are cancelled. -/
def flrKill (s : State) (pkg p : Nat) : State :=
  let ls := s.launches.filter fun l => decide (l.1.1 = pkg) && decide (l.2.part = p)
  let s := ls.foldl (fun s l =>
    if ((getLaunch s l.1).map (·.killed)).getD true || setMoving s pkg l.2.record.graph then s else (beginKill s pkg l.1.2 4).1) s
  let held := s.copies.filter fun j => decide (j.eng.pkg = pkg) && decide (j.part = p) &&
    s.reqs.any fun r => ofCopy j r && decide (r.st = .held)
  let s := held.foldl (fun s j => dropCopy s j) s
  let gone := fun (k : Eng × Nat) (c : StreamCmd) => decide (k.1.pkg = pkg) && decide (c.part = p)
  let ids := s.streams.flatMap fun q => (q.2.slots.filter fun c => gone q.1 c.2).map fun c => c.2.id
  { s with
    reqs := s.reqs.filter fun r => !(decide (r.part = p) && decide (reqPkg r.from_ = pkg) && decide (r.st = .held))
    streams := tmap (fun k q => { q with slots := q.slots.filter fun c => !gone k c.2 }) s.streams
    lanes := s.lanes.filter fun x => !ids.contains x.2
    walks := s.walks.filter fun w => !(decide (w.pkg = pkg) && decide (w.part = p)) }

/-- Step 3 (R355): every request tagged p has completed or been cancelled. -/
def flrDrained (s : State) (pkg p : Nat) : Bool :=
  (s.launches.filter fun l => decide (l.1.1 = pkg) && decide (l.2.part = p)).all (fun l => l.2.killed && killReady s pkg l.1.2) &&
    !s.reqs.any (fun r => decide (r.part = p) && decide (reqPkg r.from_ = pkg) && decide (r.st ≠ .done)) &&
    !s.copies.any (fun j => decide (j.eng.pkg = pkg) && decide (j.part = p)) &&
    (straitPkts s pkg p).isEmpty && (remoteReqs s pkg p).isEmpty && (walksOf s pkg p).isEmpty

/-- An element or an L0 address on a page that a partition owns. -/
def pageOf (s : State) (pkg p die page : Nat) : Bool := decide (pageOwnerOf s pkg die page = p)

/-- A thread after step 4 (R355): registers zero and halted, still its partition's. -/
def scrubThread (th : Thread) : Thread := { part := th.part, agid := th.agid }

/-- A die-edge engine after step 4: what it holds of p leaves. -/
def scrubEdge (p : Nat) (x : Engine) : Engine :=
  { x with
    fault := x.fault.filter fun a => a.tok.part ≠ p
    freeze := x.freeze.filter fun t => t.part ≠ p
    ingress := x.ingress.filter fun t => t.part ≠ p
    log := x.log.filter fun l => l.2.part ≠ p }

/-- The package, die and page of a byte of the L0 memory. -/
def l0Page (a : Nat) : Nat × Nat × Nat :=
  match l0BankOf a with
  | .l0 p d g _ _ => (p, d, g)
  | .hbm p _ _ => (p, 0, 0)

/-- Elements, scratchpads, tiles, channels and barriers of p are zeroed (R355 step 4). -/
def scrubPages (s : State) (pkg p : Nat) : State :=
  let mine := fun e : Eng => decide (e.pkg = pkg) && onPage e && pageOf s pkg p e.die e.page
  let l0mine := fun a : Nat => let k := l0Page a; decide (k.1 = pkg) && pageOf s pkg p k.2.1 k.2.2
  let ts := (s.tiles.filter fun t => decide (t.1.pkg = pkg) &&
    (decide (t.2.part = p ∧ p ≠ 0) || pageOf s pkg p t.1.die (t.1.handle / 4096))).map (·.1)
  let cs := (s.chans.filter fun c => decide (c.1.1 = pkg) && decide (c.2.part = p) && decide (c.2.state ≠ 0)).map (·.1)
  let s := cs.foldl freeChan (ts.foldl freeTile s)
  { s with
    engines := (s.engines.filter fun x => !mine x.1).map fun x => if x.1.pkg = pkg then (x.1, scrubEdge p x.2) else x
    vtiles := s.vtiles.filter fun x => !mine x.1
    islands := s.islands.filter fun x => !mine x.1
    memTiles := s.memTiles.filter fun x => !mine x.1
    l0 := s.l0.filter fun c => !l0mine c.1
    eccL0 := s.eccL0.filter fun w => !l0mine (w.1 * 8)
    bars := s.bars.filter fun b => !(decide (b.1.1 = pkg) && decide (barOwner s pkg b.1.2.1 b.1.2.2 = p)) }

/-- Threads, reports, timers, TLB entries and quotas of p (R355 step 4). -/
def scrubThreads (s : State) (pkg p : Nat) : State :=
  let mine := fun t : Tid => decide (t.pkg = pkg) && decide ((getThr s t).part = p)
  let held := (s.threads.filter fun x => mine x.1).flatMap fun x => (x.2.held :: x.2.pend.map (·.held)).filterMap fun h =>
    match h with
    | .report a b n => some (a, b, n)
    | _ => none
  { s with
    threads := tmap (fun t th => if mine t then scrubThread th else th) s.threads
    reports := s.reports.filter fun r => !mine r.dest
    qmReports := s.qmReports.filter fun q => !held.contains q.1
    reqs := s.reqs.filter fun r => !((reqThread r.from_).map mine).getD false
    inFlight := s.inFlight.filter fun t => !(decide (t.dst.eng.pkg = pkg) && decide (t.part = p))
    wheels := tmap (fun k w => if k.1 ≠ pkg then w else { w with ents := w.ents.filter fun u => match u.what with
      | .twset t _ => !mine t
      | .timer _ t => decide (t.part ≠ p)
      | .trigger _ _ _ => true }) s.wheels
    tlb := s.tlb.filter fun t => !(decide (t.eng.pkg = pkg) && decide (t.part = p))
    quotas := s.quotas.filter fun q => !(decide (q.1.1 = pkg) && decide (q.1.2.1 = p)) }

/-- The indices of p's queues are zeroed (R355 step 5). -/
def zeroQueues (s : State) (pkg p : Nat) : State :=
  let zero := List.replicate 16 (0 : Byte)
  let s := (s.launchQs.filter fun q => decide (q.1.1 = pkg) && q.2.set && decide (q.2.part = p)).foldl (fun s q =>
    modLaunchQ ((schedWrite s pkg p q.2.base.toNat zero).getD s) q.1 fun x => { x with window := [] }) s
  (s.copyQs.filter fun q => decide (q.1.1 = pkg) && q.2.set && decide (q.2.part = p)).foldl (fun s q =>
    engineWrite s (qmEng pkg q.1.2.1) p q.2.base.toNat zero) s

/-- Steps 4 and 5 (R355): the launches end, p is scrubbed, and its function opens again. -/
def flrFinish (s : State) (pkg p : Nat) : State :=
  let ls := (s.launches.filter fun l => decide (l.1.1 = pkg) && decide (l.2.part = p)).map (·.1.2)
  let s := ls.foldl (fun s l => endKill s pkg l) s
  let gs := s.graphs.filter fun g => decide (g.1.1 = pkg) && decide (g.2.part = p)
  let s := gs.foldl (fun s g => unloadGraph s pkg g.1.2 g.2) s
  let s := scrubThreads (scrubPages s pkg p) pkg p
  let s := modPart s (pkg, p) fun q =>
    { q with flr := 0, l1Used := [], pools := tmap (fun _ x => { x with segUsed := [], blocksUsed := 0 }) q.pools }
  reevalAll (zeroQueues s pkg p)

/-- The drain report (R355). -/
def drainReport (p : Partition) : List Byte := p.drain.flatMap (leBytes 4) ++ leBytes 4 0

/-- Complete the FLR commands of other functions that joined a reset of p (R356). -/
def completeJoined (s : State) (pkg p : Nat) (but : Nat) (data : List Byte) : State :=
  (List.range 32).foldl (fun s f =>
    match (getFn s (pkg, f)).cmds with
    | c :: _ =>
      if f ≠ but ∧ c.op = 0x12 ∧ arg c 8 1 = p ∧ cmdRefusal f c = none ∧ (f = 0 ∨ f = p) then
        complete s pkg f c (okWord 0) data
      else s
    | [] => s) s

/-- FLR (R355, R356): the first turn of the command closes and kills; once all has drained, a later one scrubs and
reports. A second FLR of p joins the first. -/
def execFlr (pkg fn : Nat) (s : State) : Out :=
  .next <| runOp s pkg fn 0x12 fun c =>
    let p := arg c 8 1
    let q := getPart s (pkg, p)
    if fn ≠ 0 ∧ p ≠ fn then cmdFail s 0x0A
    else if p = 0 ∨ 31 < p then cmdFail s 0x02
    else if !q.live then cmdFail s 0x04
    else if q.flr = 0 then .wait (flrKill (flrBegin s pkg p 1) pkg p)
    else
      let s := flrKill s pkg p
      if q.flr ≠ 1 ∨ !flrDrained s pkg p then .wait s
      else cmdDone (completeJoined (flrFinish s pkg p) pkg p fn (drainReport q)) (drainReport q)

/-- A slot table's entries of p are partition 0's. -/
def ownBack (p : Nat) (t : Tbl Nat Nat) : Tbl Nat Nat := tmap (fun _ v => if v / 64 = 0 ∧ v % 32 = p then v - p else v) t

/-- Every resource of p returns to partition 0, and its function is disabled (R408). -/
def dissolve (s : State) (pkg p : Nat) : State :=
  let rs := (getPart s (pkg, p)).ranges
  let s := { s with
    pageOwner := s.pageOwner.filter fun x => !(decide (x.1.1 = pkg) && decide (x.2 = p))
    barRuns := s.barRuns.filter fun r => !(decide (r.1 = pkg) && decide (r.2.2.2.2 = p))
    threads := tmap (fun t th => if t.pkg = pkg ∧ th.part = p then { th with part := 0, agid := 0 } else th) s.threads
    launchQs := s.launchQs.filter fun q => !(decide (q.1.1 = pkg) && decide (q.2.part = p))
    copyQs := s.copyQs.filter fun q => !(decide (q.1.1 = pkg) && decide (q.2.part = p))
    traces := s.traces.filter fun t => !(decide (t.1.1 = pkg) && decide (t.1.2.2 = p))
    slotTabs := tmap (fun e t => if e.pkg ≠ pkg then t else
      { t with tab := ownBack p t.tab, pending := t.pending.map (ownBack p) }) s.slotTabs
    partitions := tdel (pkg, p) s.partitions
    fns := tdel (pkg, p) s.fns }
  modPart s (pkg, 0) fun q => { q with ranges := rs.foldl (fun l r => joinRange l r.1 r.2) q.ranges }

/-- PDESTROY (R408): function-level reset, then the partition is no more. -/
def execPdestroy (pkg fn : Nat) (s : State) : Out :=
  .next <| runOp s pkg fn 0x11 fun c =>
    let p := arg c 8 1
    let q := getPart s (pkg, p)
    if p = 0 ∨ 31 < p then cmdFail s 0x02
    else if !q.live then cmdFail s 0x04
    else if q.flr = 0 then .wait (flrKill (flrBegin s pkg p 2) pkg p)
    else
      let s := flrKill s pkg p
      if q.flr ≠ 2 ∨ !flrDrained s pkg p then .wait s
      else cmdDone (dissolve (completeJoined (flrFinish s pkg p) pkg p fn (drainReport q)) pkg p)

end Sys2Proof.Machine
end

