-- ==== Sys2Proof/Machine/Sha.lean ====
section
/-!
DEFINITION. Machine/Sha.lean: SHAKE256, named by the image and attestation digests (spec/15 R344; spec/20 R412). The
function itself is taken from its public definition, FIPS 202 (log 24).
-/
namespace Sys2Proof.Machine

/-- The 24 round constants of Keccak-f[1600]. -/
def keccakRc : List Word :=
  [0x0000000000000001, 0x0000000000008082, 0x800000000000808A, 0x8000000080008000, 0x000000000000808B, 0x0000000080000001,
   0x8000000080008081, 0x8000000000008009, 0x000000000000008A, 0x0000000000000088, 0x0000000080008009, 0x000000008000000A] ++
  [0x000000008000808B, 0x800000000000008B, 0x8000000000008089, 0x8000000000008003, 0x8000000000008002, 0x8000000000000080,
   0x000000000000800A, 0x800000008000000A, 0x8000000080008081, 0x8000000000008080, 0x0000000080000001, 0x8000000080008008]

/-- The rotation of each lane, x + 5y. -/
def keccakRot : List Nat :=
  [0, 1, 62, 28, 27, 36, 44, 6, 55, 20, 3, 10, 43] ++ [25, 39, 41, 45, 15, 21, 8, 18, 2, 61, 56, 14]

/-- Lane k of a state. -/
def lane (a : List Word) (k : Nat) : Word := (a[k]?).getD 0

/-- One round of the permutation. -/
def keccakRound (a : List Word) (rc : Word) : List Word :=
  let c := (List.range 5).map fun x => lane a x ^^^ lane a (x + 5) ^^^ lane a (x + 10) ^^^ lane a (x + 15) ^^^ lane a (x + 20)
  let d := (List.range 5).map fun x => lane c ((x + 4) % 5) ^^^ (lane c ((x + 1) % 5)).rotateLeft 1
  let t := (List.range 25).map fun i => lane a i ^^^ lane d (i % 5)
  let b := (List.range 25).map fun i =>
    let k := (i % 5 + 3 * (i / 5)) % 5 + 5 * (i % 5)
    (lane t k).rotateLeft ((keccakRot[k]?).getD 0)
  let r := (List.range 25).map fun i =>
    lane b i ^^^ (~~~(lane b ((i % 5 + 1) % 5 + 5 * (i / 5))) &&& lane b ((i % 5 + 2) % 5 + 5 * (i / 5)))
  (lane r 0 ^^^ rc) :: r.drop 1

/-- Keccak-f[1600]. -/
def keccakF (a : List Word) : List Word := keccakRc.foldl keccakRound a

/-- Absorb n blocks of 136 bytes. -/
def absorb : Nat → List Byte → List Word → List Word
  | 0, _, a => a
  | n + 1, bs, a =>
    let x := (List.range 25).map fun k => if k < 17 then lane a k ^^^ leWord ((bs.drop (8 * k)).take 8) else lane a k
    absorb n (bs.drop 136) (keccakF x)

/-- The message with SHAKE's padding to a multiple of 136 bytes. -/
def shakePad (bs : List Byte) : List Byte :=
  let z := 136 - bs.length % 136
  if z = 1 then bs ++ [0x9F] else bs ++ 0x1F :: List.replicate (z - 2) 0 ++ [0x80]

/-- The first n bytes of SHAKE256, n at most 136. -/
def shake256 (bs : List Byte) (n : Nat) : List Byte :=
  let p := shakePad bs
  ((absorb (p.length / 136) p (List.replicate 25 0)).flatMap fun w => leBytes 8 w.toNat).take n

end Sys2Proof.Machine
end

