-- ==== Sys2Proof/Machine/Upkeep.lean ====
section
/-!
DEFINITION. Machine/Upkeep.lean: scrubbing, error windows, bank conversion, and the trace unit's writes (spec/18 R385 to
R387; spec/19 R395 to R397).
-/
namespace Sys2Proof.Machine

/-! ### Scrubbing (R387) -/

/-- The 8-byte word of a bank that a scrub reads: word k of a memory-tile bank, or word k of HBM when the bank holds it. -/
def scrubWord (b : BankId) (k : Nat) : Option (Bool × Nat) :=
  match b with
  | .l0 p d g m n => if k < 8192 then some (true, l0Addr p d g m n 0 / 8 + k) else none
  | .hbm _ _ _ => if hbmBankOf (k * 8) = b ∧ gpaLocal (k * 8) < hbmSize then some (false, k) else none

/-- The partition whose ranges hold an HBM address, or 0 (R169). -/
def rangeOwner (s : State) (g : Nat) : Nat :=
  (leastBelow 32 fun p => (getPart s (gpaPkg g, p)).ranges.any fun r => r.1 ≤ gpaLocal g ∧ gpaLocal g < r.1 + r.2).getD 0

/-- SCRUB_READ (R387): a corrected word is written back in the same operation; an uncorrectable HBM word's sector gets the
poison code and a log entry. An HBM scrub runs in a slot reserved for scrub (R359). -/
def execScrubRead (b : BankId) (word : Nat) (s : State) : Out :=
  .next <|
    match scrubWord b word with
    | none => s
    | some (l0, w) =>
      let e := ownerOf (w * 8)
      if !l0 ∧ !granted s e .scrub then s
      else if eccFix s l0 w then setEcc (eccRead s l0 w) l0 w .sound
      else if eccOf s l0 w = .double ∨ eccOf s l0 w = .triple then
        let s := eccRead s l0 w
        if l0 then s
        else logError (poisonHbm s (w * 8 / 64 * 64) 64) e
          { sector := w * 8 / 64 % 2 ^ 46, part := rangeOwner s (w * 8) }
      else s

/-! ### Adaptation (R386) -/

/-- A bank whose window has reached the threshold is pending (R386). -/
def pendIfDue (s : State) (b : BankId) : State :=
  let th := (getPkg s (bankPkg b)).threshold
  modMode s b fun m => if m.mode = 0 ∧ th ≤ m.wcount then toPending b m else m

/-- ECC_WINDOW_EXPIRY (R386): the bank's window ends, and the count starts again. -/
def execEccWindowExpiry (b : BankId) (s : State) : Out :=
  .next <|
    let k := getPkg s (bankPkg b)
    if k.time < (getMode s b).wstart + k.windowMs * 10 ^ 6 then s
    else modMode (pendIfDue s b) b fun m => { m with wcount := 0, wstart := k.time }

/-- The eighth that the code takes is free (R386): no tile or ring there, nor a SWIN's delay line, whose bytes it would lose
(log 111); of HBM, the host has acknowledged the listed pages. -/
def eighthFree (s : State) (b : BankId) : Bool :=
  match b with
  | .l0 p d g m _ => (usedUnits s ⟨p, d, g, 12 + m⟩).all fun u => decide (u.2 ≤ 896)
  | .hbm _ _ _ => (getMode s b).acked

/-- The words of a bank whose code is not sound. -/
def badWords (s : State) (b : BankId) : List (Bool × Nat) :=
  ((s.eccL0.filter fun w => l0BankOf (w.1 * 8) = b).map fun w => (true, w.1)) ++
    (s.ecc.filter fun w => hbmBankOf (w.1 * 8) = b).map fun w => (false, w.1)

/-- One word is read under the old code and written under the new: a corrected word is sound, one that is uncorrectable
stays so. -/
def reencode (s : State) (x : Bool × Nat) : State :=
  let bad := eccBad s x.1 x.2
  setEcc (eccRead s x.1 x.2) x.1 x.2 (if bad then .poison else .sound)

/-- BANK_CONVERSION (R386): a pending bank whose lost eighth is free is re-encoded under DEC-TED. -/
def execBankConversion (b : BankId) (s : State) : Out :=
  .next <|
    if (getMode s b).mode ≠ 1 ∨ !eighthFree s b then s
    else modMode ((badWords s b).foldl reencode s) b fun m => { m with mode := 2 }

/-! ### The trace unit (R395) -/

/-- Records that a trace buffer holds. -/
def traceRoom (c : TraceCfg) : Nat := Nat.max 1 (c.size / 32)

/-- TRACE_WRITE (R395): the oldest staged record is written at the write index in a slot reserved for trace at the port
engine that holds it; a full buffer in mode 1 refuses it, and it is counted lost. -/
def execTraceWrite (pkg die part : Nat) (s : State) : Out :=
  .next <|
    let c := getTraceCfg s (pkg, die, part)
    match c.staged with
    | [] => s
    | x :: rest =>
      let n := traceRoom c
      let a := c.base + 32 * (c.wi % n)
      if c.size = 0 then s
      else if c.stopFull ∧ n ≤ c.wi then
        setTraceCfg s (pkg, die, part) { c with staged := rest, lost := (c.lost + 1) % 2 ^ 32 }
      else if !granted s (ownerOf a) .trace then s
      else
        setTraceCfg (writeHbm s a (leBytes 32 x.toNat)) (pkg, die, part)
          { c with staged := rest, wi := if c.stopFull then c.wi + 1 else (c.wi + 1) % n }

end Sys2Proof.Machine
end

