-- ==== Sys2Proof/Machine/System.lean ====
section
/-!
DEFINITION. Machine/System.lean: route administration, TLB invalidation, scrub and power control, firmware and identity,
power events and the cold reset (spec/17 R366 to R368; spec/16 R353; spec/20 R408 to R414).
-/
namespace Sys2Proof.Machine

/-! ### Routes and groups (R366, R368, R178) -/

/-- The bytes of a command's buffer, n of them; none when there is no buffer or it cannot be read. -/
def bufBytes (s : State) (pkg fn : Nat) (c : Cmd) (n : Nat) : Option (List Byte) :=
  if c.buf = 0 then none else svcRead s pkg fn c.buf.toNat n

/-- The walks and reads of that buffer (R351, R385). -/
def bufReads (s : State) (pkg fn : Nat) (c : Cmd) (n : Nat) : State :=
  if c.buf = 0 then s else svcReads s pkg fn c.buf.toNat n

/-- A table entry as an engine holds it: four sets, each an egress port and an 11-bit path number (R366). -/
def routeEntry (r : Route) : Route :=
  let cut := fun p : Nat × Nat => (p.1 % 8, p.2 % 2048)
  { r with set0 := cut r.set0, set1 := cut r.set1, set2 := cut r.set2, set3 := cut r.set3 }

/-- ROUTES (R366, R408): table entries for the next milestone. -/
def execRoutes (pkg fn : Nat) (s : State) : Out :=
  .next <| runOp s pkg fn 0x30 fun c =>
    let n := arg c 8 4
    let s := bufReads s pkg fn c (Config.bufSize 0x30 n)
    match (bufBytes s pkg fn c (Config.bufSize 0x30 n)).bind fun b => Config.readRoutes b n with
    | none => cmdFail s 0x02
    | some rs =>
      cmdDone (rs.foldl (fun s r => modStrait s ⟨pkg, r.1 % 4, r.2.1 % 8, 25⟩ fun st =>
        { st with newTable := mergeRoutes st.newTable [routeEntry r.2.2], fresh := true }) s)

/-- The milestone of a route domain that other packages have joined: its route master's. -/
def domainMilestone (s : State) (pkg d : Nat) : Option Nat :=
  let ps := (domainPkgs s d).filter (· ≠ pkg)
  match ps with
  | [] => none
  | p :: l => some (getPkg s (l.foldl Nat.min p)).milestone

/-- A strait engine takes the milestone of the domain that its package joins, with the tables installed for it; where that is
another than its own, it resends every packet that it keeps (R369). -/
def joinMilestone (s : State) (e : Eng) (m : Nat) : State :=
  let t := modStrait s e fun st => { st with milestone := m, table := mergeRoutes st.table st.newTable, newTable := [] }
  if (getStrait s e).milestone = m then t else resendAll t e

/-- MSTONE (R368, R408): the package joins its domains and adopts their milestone. A load-store domain is a set of at
most 1,024 packages of one route domain (R376). -/
def execMstone (pkg fn : Nat) (s : State) : Out :=
  .next <| runOp s pkg fn 0x31 fun c =>
    let d := arg c 8 4
    let l := arg c 12 4
    let others := s.packages.filter fun k => decide (k.1 ≠ pkg) && decide (k.2.lsDom = some l)
    if others.any fun k => k.2.routeDom ≠ some d then cmdFail s 0x02
    else if 1024 ≤ others.length then cmdFail s 0x03
    else
      let m := (domainMilestone s pkg d).getD (getPkg s pkg).milestone
      let s := modPkg s pkg fun k => { k with routeDom := some d, lsDom := some l, milestone := m }
      cmdDone ((List.range 32).foldl (fun s k => joinMilestone s ⟨pkg, k / 8, k % 8, 25⟩ m) s)

/-- RGROUP (R178, R408): binds a REDUCE group with its rank, members and tree links. -/
def execRgroup (pkg fn : Nat) (s : State) : Out :=
  .next <| runOp s pkg fn 0x32 fun c =>
    let rank := arg c 10 2
    let n := arg c 12 2
    if n < 2 ∨ 1024 < n ∨ n ≤ rank then cmdFail s 0x02
    else
      let s := bufReads s pkg fn c (Config.bufSize 0x32 n)
      match bufBytes s pkg fn c (Config.bufSize 0x32 n) with
      | none => cmdFail s 0x02
      | some b => cmdDone (modGroup s (pkg, arg c 8 1) fun g =>
          { g with bound := true, rank := rank, n := n, links := Config.readLinks b })

/-! ### TLB invalidation (R353) -/

/-- A TLB entry that the command drops. -/
def tlbHit (pkg : Nat) (part : Option Nat) (page : Option Nat) (t : TlbEnt) : Bool :=
  decide (t.eng.pkg = pkg) && part.all (fun p => decide (t.part = p)) &&
    page.all fun v => decide (t.vpage * 2 ^ 13 / 2 ^ t.bits = v * 2 ^ 13 / 2 ^ t.bits)

/-- An access that such an entry may have translated has not been performed, one that a report holds among them; the entry's page
is of up to 8 GiB. -/
def throughTlb (s : State) (pkg : Nat) (part : Option Nat) (page : Option Nat) : Bool :=
  let hit := fun (p va : Nat) => part.all (fun q => decide (p = q)) && page.all fun v => decide (va / 2 ^ 33 = v / 2 ^ 20)
  s.reqs.any (fun r => decide (reqPkg r.from_ = pkg) && decide (r.st ≠ .done) && hit r.part r.va) ||
    s.copies.any fun j => decide (j.eng.pkg = pkg) && !j.failed && ([j.src, j.dst].any fun e => match e with
        | .tile _ => false
        | .mem ps _ => ps.any fun q => hit j.part q.va)

/-- A walk whose entry the command drops: it starts again (R353). -/
def walkHit (pkg : Nat) (part : Option Nat) (page : Option Nat) (w : Walk) : Bool :=
  decide (w.pkg = pkg) && part.all (fun p => decide (w.part = p)) && page.all fun v => decide (w.vpage / 2 ^ 20 = v / 2 ^ 20)

/-- TLBINV (R353, R408): every TLB of the package drops the matching entries, matching walks are dropped, and the command ends
once every access through them has been performed. -/
def execTlbinv (pkg fn : Nat) (s : State) : Out :=
  .next <| runOp s pkg fn 0x34 fun c =>
    let p := arg c 16 1
    let all := arg c 17 1
    if fn ≠ 0 ∧ p ≠ fn then cmdFail s 0x0A
    else if 31 < p ∨ 1 < all then cmdFail s 0x02
    else if inFlr s pkg p then .wait s
    else
      let part := if all = 1 ∧ fn = 0 then none else some p
      let page := if all = 1 then none else some (arg c 8 8)
      let s := { s with tlb := s.tlb.filter fun t => !tlbHit pkg part page t
                        walks := s.walks.filter fun w => !walkHit pkg part page w }
      if throughTlb s pkg part page then .wait s else cmdDone s

/-! ### Scrub and power control (R386, R387, R414) -/

/-- The banks of a package that have counted an error. -/
def countedBanks (s : State) (pkg : Nat) : List BankId := (s.bankModes.filter fun b => decide (bankPkg b.1 = pkg)).map (·.1)

/-- SCRUB (R386, R387, R408): threshold, window and pass periods. -/
def execScrub (pkg fn : Nat) (s : State) : Out :=
  .next <| runOp s pkg fn 0x50 fun c =>
    let th := arg c 8 2
    let w := arg c 12 4
    if th = 0 ∨ w = 0 ∨ 1000000 < w then cmdFail s 0x02
    else
      let s := modPkg s pkg fun k =>
        { k with threshold := th, windowMs := w, mtPassMs := arg c 16 4, hbmPassMin := arg c 20 4 }
      cmdDone ((countedBanks s pkg).foldl pendIfDue s)

/-- POWER (R408, R414): the module power limit. -/
def execPower (pkg fn : Nat) (s : State) : Out :=
  .next <| runOp s pkg fn 0x58 fun c =>
    let w := arg c 8 2
    if w < 1200 ∨ 3400 < w then cmdFail s 0x02 else cmdDone (modPkg s pkg fun k => { k with limit := w })

/-! ### Firmware and identity (R410 to R412) -/

/-- FWSTAGE (R408, R410): stages a patch image whose signature and version hold. -/
def execFwstage (pkg fn : Nat) (s : State) : Out :=
  .next <| runOp s pkg fn 0x03 fun c =>
    let s := bufReads s pkg fn c (arg c 8 4)
    match bufBytes s pkg fn c (arg c 8 4) with
    | none => cmdFail s 0x02
    | some b =>
      if !Config.patchValid pkg b then cmdFail s 0x05
      else cmdDone (modPkg s pkg fun k => { k with staged := some b })

/-- The part number (R2), as bytes. -/
def partNumber : List Byte := "ZD4-2250-LQ".toList.map fun c => BitVec.ofNat 8 c.toNat

/-- The identity block of a package (R411). -/
def identityBlock (s : State) (pkg : Nat) : List Byte :=
  Config.identityLayout partNumber (getPkg s pkg).stepping (Config.serial pkg) (Config.publicKey pkg) (Config.certificate pkg)

/-- IDENT (R408, R411): the identity block. -/
def execIdent (pkg fn : Nat) (s : State) : Out := .next <| runOp s pkg fn 0x01 fun _ => cmdDone s (identityBlock s pkg)

/-- The partition and slot configuration of a package, as numbers: what the third digest of a report covers (R412). -/
def configNumbers (s : State) (pkg : Nat) : List Nat :=
  (List.range 32).flatMap (fun k =>
    let p := getPart s (pkg, k)
    [b2n p.live, p.root, p.vbase, p.vlimit, p.l1Base, p.l1Size, p.windowUs, b2n p.brk] ++
      p.ranges.flatMap (fun r => [r.1, r.2]) ++
      (List.range 4).flatMap fun d =>
        let q := tget {} d p.pools
        [q.segBase, q.segs, q.blocks, tget 0 d p.faultThr]) ++
  (s.pageOwner.filter fun x => decide (x.1.1 = pkg)).flatMap (fun x => [x.1.2.1, x.1.2.2, x.2]) ++
  ((List.range 16).map fun k => (getThr s ⟨pkg, k / 4, k % 4⟩).part) ++
  (s.barRuns.filter fun r => decide (r.1 = pkg)).flatMap (fun r => [r.2.1, r.2.2.1, r.2.2.2.1, r.2.2.2.2]) ++
  (s.slotTabs.filter fun t => decide (t.1.pkg = pkg)).flatMap fun t =>
    [t.1.die, t.1.page, t.1.elem] ++ (List.range 256).map fun k => tget 0x40 k t.2.tab

/-- An attestation report before its signature (R412). -/
def reportBody (s : State) (pkg : Nat) (nonce : List Byte) : List Byte :=
  let k := getPkg s pkg
  nonce ++ Config.attestHead k.stepping (Config.serial pkg) (Config.patchVersion k.patch) ++ (Config.romDigest pkg).toList ++ shake256 (k.patch.getD []) 64 ++
    shake256 (Config.readLayout 0x100 (configNumbers s pkg)) 64 ++ leBytes 8 k.time

/-- The report over a nonce, with its signature of at most 1,280 bytes (R412). -/
def signedReport (s : State) (pkg : Nat) (nonce : List Byte) : List Byte :=
  let b := reportBody s pkg nonce
  b ++ (Config.sign pkg b).take 1280

/-- ATTEST (R408, R412): a signed report over the nonce. -/
def execAttest (pkg fn : Nat) (s : State) : Out :=
  .next <| runOp s pkg fn 0x02 fun c => cmdDone s (signedReport s pkg c.args)

/-! ### Power, cooling and the cold reset (R413, R414) -/

/-- THERMAL_THROTTLE (R414): firmware lowers the fabric clock a step when power exceeds the limit or a die reaches 95 °C,
and raises it a step when both are under their limits. -/
def execThermalThrottle (pkg : Nat) (lower : Bool) (s : State) : Out :=
  .next <|
    let k := getPkg s pkg
    if lower then
      if k.powerW ≤ k.limit ∧ k.tempC < 95 then s
      else modPkg s pkg fun k => { k with clock := Nat.max 5 (k.clock - 5), throttle := true }
    else if k.limit ≤ k.powerW ∨ 90 ≤ k.tempC ∨ 100 ≤ k.clock then s
    else modPkg s pkg fun k =>
      { k with clock := Nat.min 100 (k.clock + 5), throttle := decide (k.clock + 5 < 100) }

/-- The device state of a package is lost: every table that its package keys names returns to its reset entries, and the
bytes and packets there are gone. -/
def clearPkg (s : State) (pkg : Nat) : State :=
  let eng := fun e : Eng => decide (e.pkg ≠ pkg)
  let key2 := fun k : Nat × Nat => decide (k.1 ≠ pkg)
  let key3 := fun k : Nat × Nat × Nat => decide (k.1 ≠ pkg)
  { s with
    threads := s.threads.filter fun x => decide (x.1.pkg ≠ pkg)
    coreNext := s.coreNext.filter fun x => key2 x.1
    engines := s.engines.filter fun x => eng x.1
    inFlight := s.inFlight.filter fun t => eng t.dst.eng
    updates := s.updates.filter fun u => decide (u.key.pkg ≠ pkg)
    allocWait := s.allocWait.filter fun w => eng w.eng
    graphs := s.graphs.filter fun x => key2 x.1
    launches := s.launches.filter fun x => key2 x.1
    launchQs := s.launchQs.filter fun x => key2 x.1
    sources := s.sources.filter fun x => decide (x.pkg ≠ pkg)
    tiles := s.tiles.filter fun x => decide (x.1.pkg ≠ pkg)
    chunkWrites := s.chunkWrites.filter fun w => decide (w.tile.pkg ≠ pkg)
    retires := s.retires.filter fun w => decide (w.tile.pkg ≠ pkg)
    memTiles := s.memTiles.filter fun x => eng x.1
    chans := s.chans.filter fun x => key3 x.1
    bars := s.bars.filter fun x => key3 x.1
    hbm := s.hbm.filter fun c => decide (gpaPkg c.1 ≠ pkg)
    l0 := s.l0.filter fun c => decide ((l0Page c.1).1 ≠ pkg)
    ecc := s.ecc.filter fun w => decide (gpaPkg (w.1 * 8) ≠ pkg)
    eccL0 := s.eccL0.filter fun w => decide ((l0Page (w.1 * 8)).1 ≠ pkg)
    bankModes := s.bankModes.filter fun x => decide (bankPkg x.1 ≠ pkg)
    reqs := s.reqs.filter fun r => decide (reqPkg r.from_ ≠ pkg) && eng r.owner
    ranges := s.ranges.filter fun r => eng r.owner && eng r.eng
    xfers := s.xfers.filter fun x => eng x.eng
    copies := s.copies.filter fun x => eng x.eng
    copyQs := s.copyQs.filter fun x => key3 x.1
    vtiles := s.vtiles.filter fun x => eng x.1
    islands := s.islands.filter fun x => eng x.1
    groups := s.groups.filter fun x => key2 x.1
    xunits := s.xunits.filter fun x => eng x.eng
    streams := s.streams.filter fun x => eng x.1.1
    breaks := s.breaks.filter fun x => key2 x.1
    watchHolds := s.watchHolds.filter fun h => decide (gpaPkg h.sector ≠ pkg)
    walks := s.walks.filter fun w => decide (w.pkg ≠ pkg)
    exits := s.exits.filter fun x => eng x.1.1
    badPages := s.badPages.filter fun x => key3 x
    lanes := s.lanes.filter fun x => decide (x.1.1 ≠ pkg)
    packets := s.packets.filter fun p => eng p.at_
    inbox := s.inbox.filter fun p => eng p.hdr.dst.eng
    straits := s.straits.filter fun x => eng x.1
    acks := s.acks.filter fun a => eng a.dest
    nacks := s.nacks.filter fun a => eng a.dest
    partitions := s.partitions.filter fun x => key2 x.1
    pageOwner := s.pageOwner.filter fun x => key3 x.1
    pageOn := s.pageOn.filter fun x => key3 x.1
    barRuns := s.barRuns.filter fun r => decide (r.1 ≠ pkg)
    quotas := s.quotas.filter fun x => key3 x.1
    slotTabs := s.slotTabs.filter fun x => eng x.1
    wheels := s.wheels.filter fun x => key2 x.1
    reports := s.reports.filter fun r => decide (r.dest.pkg ≠ pkg)
    qmReports := s.qmReports.filter fun x => key3 x.1
    tlb := s.tlb.filter fun t => eng t.eng
    stops := s.stops.filter fun x => key2 x.1
    traces := s.traces.filter fun x => key3 x.1
    watches := s.watches.filter fun x => eng x.1
    fns := s.fns.filter fun x => key2 x.1 }

/-- THERMAL_SHUTDOWN (R414): at 110 °C, or with the input outside its range, the module stops every clock and asserts its
fault line, and its state is lost. -/
def execThermalShutdown (pkg : Nat) (s : State) : Out :=
  .next <|
    let k := getPkg s pkg
    if k.tempC < 110 ∧ 48 ≤ k.inputV ∧ k.inputV ≤ 58 then s
    else setPkg (clearPkg s pkg) pkg
      { off := true, faultLine := true, powerW := k.powerW, tempC := k.tempC, inputV := k.inputV, staged := k.staged,
        stepping := k.stepping }

/-- COLD_RESET (R413): with a valid input, every table of the package is as after reset, the staged patch is checked
(R410), and the inner straits train or the package is at fault. -/
def execColdReset (pkg : Nat) (s : State) : Out :=
  .next <|
    let k := getPkg s pkg
    if k.inputV < 48 ∨ 58 < k.inputV then s
    else
      let ok := Config.straitsTrain s.freeCount
      let patch := k.staged.filter (Config.patchValid pkg)
      freeStep (setPkg (clearPkg s pkg) pkg
        { powerW := k.powerW, tempC := k.tempC, inputV := k.inputV, staged := patch, patch := patch,
          stepping := k.stepping, pkgFault := !ok })

end Sys2Proof.Machine
end

