-- ==== Sys2Proof/Machine/Debug.lean ====
section
/-!
DEFINITION. Machine/Debug.lean: the debug commands DBGSET and THREAD (spec/19 R390 to R401; spec/15 R347; spec/20 R408,
R409).
-/
namespace Sys2Proof.Machine

/-! ### DBGSET (R408) -/

/-- A DBGSET of an object. -/
def runDbg (s : State) (pkg fn : Nat) (mine : Nat → Bool) (f : Cmd → Answered) : State :=
  runCmd s pkg fn (fun c => decide (c.op = 0x41) && mine (arg c 8 1)) fun c => if 3 < arg c 9 1 then cmdFail s 0x02 else f c

/-- A stop entry that DBGSET accepts (R390). -/
def stopEntryOk (v : Nat) : Bool :=
  decide (bits v 47 8 = 0) && !bit v 53 && (!bit v 0 || decide (bits v 7 4 ≠ 0))

/-- DBGSET_STOP_ENTRY (R390): every copy of the table takes the entry, its hit bit clear. A virtual function writes only
entries that are and stay its own. An object beyond the last fails here. -/
def execDbgsetStopEntry (pkg fn : Nat) (s : State) : Out :=
  .next <| runDbg s pkg fn (fun o => decide (o = 0 ∨ 5 < o)) fun c =>
    let k := arg c 12 4
    if arg c 8 1 ≠ 0 ∨ k % 4 ≠ 0 ∨ 256 ≤ k then cmdFail s 0x02
    else
      let s := bufReads s pkg fn c 32
      match bufBytes s pkg fn c 32 with
      | none => cmdFail s 0x02
      | some b =>
        let v := leNat b
        let old := (getStop s (pkg, k / 4)).toNat
        if !stopEntryOk v then cmdFail s 0x02
        else if fn ≠ 0 ∧ (bits v 52 48 ≠ fn ∨ bits old 52 48 ≠ fn) then cmdFail s 0x0A
        else cmdDone (setStop s (pkg, k / 4) (BitVec.ofNat 256 v &&& ~~~2#256))

/-- A trace buffer that R395 accepts: none, or 8 KiB aligned, a power of two from 64 KiB to 1 GiB, inside the ranges. -/
def traceOk (s : State) (p base size : Nat) : Bool :=
  decide (size = 0) ||
    (decide (base % 8192 = 0) && ((List.range 15).any fun k => decide (size = 2 ^ (16 + k))) &&
      insideOne (getPart s (gpaPkg base, p)).ranges (gpaLocal base) size)

/-- DBGSET_TRACE (R395, R407): the trace configuration of a partition on a die, with nothing written yet. -/
def execDbgsetTrace (pkg fn : Nat) (s : State) : Out :=
  .next <| runDbg s pkg fn (fun o => decide (o = 1)) fun c =>
    let k := arg c 12 4
    let p := k / 4
    if k % 4 ≠ 1 ∨ 32 ≤ p then cmdFail s 0x02
    else if fn ≠ 0 ∧ p ≠ fn then cmdFail s 0x0A
    else if inFlr s pkg p then .wait s
    else
      let s := bufReads s pkg fn c (Config.bufSize 1 0)
      match (bufBytes s pkg fn c (Config.bufSize 1 0)).bind Config.readTrace with
      | none => cmdFail s 0x02
      | some t =>
        if !traceOk s p t.1 t.2.1 then cmdFail s 0x02
        else cmdDone (setTraceCfg s (pkg, arg c 9 1, p)
          { base := t.1, size := t.2.1, stopFull := t.2.2.1, mask := t.2.2.2 })

/-- DBGSET_WATCH (R400): a whole filter of a control core or of an HBM port engine. Only the physical function has it. -/
def execDbgsetWatch (pkg fn : Nat) (s : State) : Out :=
  .next <| runDbg s pkg fn (fun o => decide (o = 2)) fun c =>
    let k := arg c 12 4
    let e : Eng := ⟨pkg, arg c 9 1, bits k 10 7, bits k 6 2⟩
    if k % 4 ≠ 2 ∨ 2048 ≤ k ∨ (e.elem ≠ 28 ∧ e.elem ≠ 24) ∨ !engExists e then cmdFail s 0x02
    else if fn ≠ 0 then cmdFail s 0x0A
    else
      let s := bufReads s pkg fn c (Config.bufSize 2 0)
      match (bufBytes s pkg fn c (Config.bufSize 2 0)).bind Config.readWatch with
      | none => cmdFail s 0x02
      | some w => cmdDone (setWatch s e w)

/-- DBGSET_BREAK_BIT (R393): the break-enable bit of a LID; a virtual function changes only its own launches'. -/
def execDbgsetBreakBit (pkg fn : Nat) (s : State) : Out :=
  .next <| runDbg s pkg fn (fun o => decide (o = 3)) fun c =>
    let k := arg c 12 4
    if k % 4 ≠ 3 ∨ 2 ^ 14 ≤ k then cmdFail s 0x02
    else if fn ≠ 0 ∧ (getLaunch s (pkg, k / 4)).map (·.part) ≠ some fn then cmdFail s 0x0A
    else
      let s := bufReads s pkg fn c 1
      match bufBytes s pkg fn c 1 with
      | none => cmdFail s 0x02
      | some b => cmdDone (setBreak s (pkg, k / 4) (bit (leNat b) 0))

/-- The engine and slot of a slot selector on a die (R244, R435). -/
def selEng (pkg die k : Nat) : Eng := ⟨pkg, die, bits k 14 11, bits k 10 6⟩

/-- Zero the named fields of a profile record (R398): bit 0 fires, 1 refills, 2 spills, 3 flags, 4 bins. -/
def clearProfile (m : Nat) (x : SlotDyn) : SlotDyn :=
  { x with
    fires := if bit m 0 then 0 else x.fires
    refills := if bit m 1 then 0 else x.refills
    spills := if bit m 2 then 0 else x.spills
    flags := if bit m 3 then 0 else x.flags
    bins := if bit m 4 then List.replicate 16 0 else x.bins }

/-- DBGSET_PROFILE_CLEAR (R398): the masked fields of an operator slot's profile record; every field without a buffer. -/
def execDbgsetProfileClear (pkg fn : Nat) (s : State) : Out :=
  .next <| runDbg s pkg fn (fun o => decide (o = 4)) fun c =>
    let k := arg c 12 4
    let e := selEng pkg (arg c 9 1) k
    if 2 ^ 15 ≤ k then cmdFail s 0x02
    else match findOp s e (bits k 5 0) with
      | none => cmdFail s 0x04
      | some r =>
        if fn ≠ 0 ∧ r.g.part ≠ fn then cmdFail s 0x0A
        else
          let s := bufReads s pkg fn c 8
          match if c.buf = 0 then some (leBytes 8 31) else bufBytes s pkg fn c 8 with
          | none => cmdFail s 0x02
          | some b =>
            if 32 ≤ leNat b then cmdFail s 0x02
            else cmdDone (modEng s e fun x =>
              { x with slots := tmod {} (bits k 5 0) (clearProfile (leNat b)) x.slots })

/-- DBGSET_LOG_ENTRY (R169): an entry of a deferred-error log is written zero and so freed. -/
def execDbgsetLogEntry (pkg fn : Nat) (s : State) : Out :=
  .next <| runDbg s pkg fn (fun o => decide (o = 5)) fun c =>
    let k := arg c 12 4
    let e : Eng := ⟨pkg, arg c 9 1, arg c 11 1, arg c 10 1⟩
    if (e.elem ≠ 24 ∧ e.elem ≠ 27) ∨ !engExists e ∨ 64 ≤ k then cmdFail s 0x02
    else if fn ≠ 0 ∧ ((tfind k (getEng s e).log).map (·.part)) ≠ some fn then cmdFail s 0x0A
    else cmdDone (modEng s e fun x => { x with log := tdel k x.log })

/-! ### THREAD (R394, R409) -/

/-- The thread of a command. -/
def cmdTid (pkg : Nat) (c : Cmd) : Tid := ⟨pkg, arg c 8 1, arg c 9 1⟩

/-- A THREAD command of an operation, on a thread that the function may command (R408, R409). -/
def runThr (s : State) (pkg fn : Nat) (mine : Nat → Bool) (f : Cmd → Tid → Answered) : State :=
  runCmd s pkg fn (fun c => decide (c.op = 0x42) && mine (arg c 10 1)) fun c =>
    let t := cmdTid pkg c
    if 3 < t.die ∨ 3 < t.thr ∨ 3 < arg c 10 1 then cmdFail s 0x02
    else if fn ≠ 0 ∧ (getThr s t).part ≠ fn then cmdFail s 0x0A
    else f c t

/-- THREAD_NORMAL_STOP (R347, R394): issue stops, and the thread is stopped once every outstanding load and async result
has landed; a blocking wait is abandoned. An operation beyond the last fails here. -/
def execThreadNormalStop (pkg fn : Nat) (s : State) : Out :=
  .next <| runThr s pkg fn (fun o => decide (o = 0 ∨ 3 < o)) fun _ t =>
    let th := getThr s t
    if th.loads.isEmpty ∧ th.asyncs.isEmpty then
      cmdDone (setThr s t { th with stopped := true, stopping := false, wait := none })
    else .wait (setThr s t { th with stopping := true, wait := none })

/-- THREAD_HARD_STOP (R394): issue stops at once. -/
def execThreadHardStop (pkg fn : Nat) (s : State) : Out :=
  .next <| runThr s pkg fn (fun o => decide (o = 1)) fun _ t =>
    cmdDone (modThr s t fun th => { th with stopped := true, hard := true, stopping := false, wait := none })

/-- THREAD_RESUME (R394, R408): a stopped or halted thread issues again at pc. -/
def execThreadResume (pkg fn : Nat) (s : State) : Out :=
  .next <| runThr s pkg fn (fun o => decide (o = 2)) fun _ t =>
    cmdDone (modThr s t fun th => { th with halted := false, stopped := false, hard := false, stopping := false })

/-- A debugger's write of an s register (R347): outstanding results for it are discarded when they arrive. -/
def pokeReg (th : Thread) (r : RegNo) (v : Word) : Thread :=
  sbClear (writeReg { th with
    loads := th.loads.map fun l => if l.rd = r then { l with squashed := true } else l
    asyncs := th.asyncs.map fun a => if a.rd = r then { a with squashed := true } else a } r v) r

/-- The control registers that software may write (R266). -/
def rwCsrs : List Nat := [0x000, 0x002, 0x006, 0x007, 0x010, 0x014]

/-- THREAD_REGISTER_WRITE (R409): an s register, a control register or pc of a halted or stopped thread. -/
def execThreadRegisterWrite (pkg fn : Nat) (s : State) : Out :=
  .next <| runThr s pkg fn (fun o => decide (o = 3)) fun c t =>
    let th := getThr s t
    let v := BitVec.ofNat 64 (arg c 16 8)
    let r := arg c 24 4
    if !th.halted ∧ !th.stopped then cmdFail s 0x05
    else if 1 ≤ r ∧ r ≤ 31 then cmdDone (setThr s t (pokeReg th (BitVec.ofNat 5 r) v))
    else if 0x1000 ≤ r ∧ rwCsrs.contains (r - 0x1000) then cmdDone (setThr s t (writeCsr th (r - 0x1000) v))
    else if r = 0x2000 then cmdDone (setThr s t { th with pc := v &&& ~~~3#64 })
    else cmdFail s 0x02

end Sys2Proof.Machine
end

