-- ==== Sys2Proof/Machine/Quiesce.lean ====
section
/-!
DEFINITION. Machine/Quiesce.lean: the quiescence monitors: sampling, windows, the artificial-deadlock detector and
DEADLOCK reports (spec/14 R327 to R329; spec/15 R337 to R340).
-/
namespace Sys2Proof.Machine

/-- The live members of a launch's gang, in the gang's order. -/
def gangOf (s : State) (pkg lid : Nat) : List (Nat × Launch) :=
  match getLaunch s (pkg, lid) with
  | none => []
  | some l =>
    let ms := if l.gang.isEmpty then [lid] else l.gang
    ms.filterMap fun m => (getLaunch s (pkg, m)).map fun x => (m, x)

/-- A token of a launch of a package. -/
def tokOf (pkg lid : Nat) (t : Token) : Bool := decide (t.lid = lid) && decide (t.dst.eng.pkg = pkg)

/-- An activation waits for a colour (R117) or for its context's linkage (R125). -/
def drawWaits (s : State) (e : Eng) (a : Act) : Bool := (colourWait s e a).isSome || linkageWait s e a

/-- The launch of an activation's row. -/
def actLid (x : Engine) (a : Act) : Nat := ((findRow x a.slot a.vrow).map (·.lid)).getD 0

/-- The count in flight of a launch (R337). -/
def flying (s : State) (pkg lid : Nat) : Bool :=
  s.inFlight.any (tokOf pkg lid) || s.updates.any (fun u => decide (u.key.pkg = pkg) && decide (u.lid = lid)) ||
    s.engines.any (fun x => decide (x.1.pkg = pkg) && x.2.ingress.any (tokOf pkg lid)) ||
    (allPkts s).any (fun p => decide (p.hdr.lid = lid) && decide (pktHome p = pkg)) ||
    s.chunkWrites.any (fun w => decide (w.tile.pkg = pkg) && decide (w.lid = lid))

/-- A write of a channel gets FULL now (R322). -/
def chanFull (s : State) (k : ChanKey) : Bool := match writePlace s k with
  | .full => true
  | _ => false

/-- The channel that an operator's row waits on: its key, whether it writes it, and whether it could go on now. -/
def chanWait (s : State) (w : AllocWait) : Option (ChanKey × Bool × Bool) :=
  match findOp s w.eng w.slot with
  | none => none
  | some r =>
    match opKind r.op with
    | 0x1C => (chanOfWriter s (opCoord r.op)).map fun k => (k, true, !chanFull s k)
    | 0x1B => (chanOfReader s (opCoord r.op)).map fun k =>
        let c := getChan s k
        (k, false, (headRec c).isSome || (decide (c.state = 2) && c.recs.isEmpty))
    | _ => none

/-- The other endpoint of a channel lies in a gang. -/
def otherIn (s : State) (pkg : Nat) (ms : List Nat) (k : ChanKey) (writes : Bool) : Bool :=
  let c := getChan s k
  match if writes then c.rep else c.wep with
  | .op d l => decide (d.eng.pkg = pkg) && ms.contains l
  | _ => false

/-- The waits of a launch's rows on channels. -/
def chanWaits (s : State) (pkg lid : Nat) : List (AllocWait × ChanKey × Bool × Bool) :=
  s.allocWait.filterMap fun w =>
    if w.eng.pkg = pkg ∧ ((findRow (getEng s w.eng) w.slot w.vrow).map (·.lid)).getD 0 = lid then
      (chanWait s w).map fun c => (w, c)
    else none

/-- The channels of the next row of a DISPATCH in progress, when none admits it: they are full (R175, R327). -/
def dispatchFull (s : State) (u : XUnit) : List ChanKey :=
  match findOp s u.eng u.slot with
  | none => []
  | some r =>
    if opKind r.op ≠ 0x1D ∨ u.phase ≠ 0 ∨ tokRows u.tok ≤ u.row ∨ dispatchBehind s u then []
    else match dispatchChans s r.op with
      | none => []
      | some ks =>
        let t := u.tok2.getD {}
        let cs := [0, 1].filterMap fun m => (routeAt (tokFmt t) (tokCols t) u.route u.row m).bind fun d => ks[d.toNat]?
        if (routeAt (tokFmt t) (tokCols t) u.route u.row 0).isNone ∨ cs.any (fun k => 0 < creditOf s k) then [] else cs

/-- An activation in progress in a strait engine waits on full channels, or behind one that does. -/
def xunitBlocked (s : State) (u : XUnit) : Bool := !(dispatchFull s u).isEmpty || dispatchBehind s u

/-- The count ready of a launch (R337): activations ready, selected or in progress that do not wait for a colour. -/
def readyCount (s : State) (pkg lid : Nat) : Bool :=
  s.engines.any (fun x => decide (x.1.pkg = pkg) &&
    ((x.2.ready ++ x.2.flow ++ x.2.unit).any (fun a => decide (actLid x.2 a = lid) && !drawWaits s x.1 a) ||
      (runs x.2).any fun r => r.toks.any fun t => decide (t.lid = lid))) ||
    s.sources.any (fun x => decide (x.pkg = pkg) && decide (x.lid = lid)) ||
    s.xunits.any (fun u => decide (u.eng.pkg = pkg) && decide (u.lid = lid) && !xunitBlocked s u) ||
    (chanWaits s pkg lid).any (fun w => w.2.2.2) ||
    s.graphs.any fun g => decide (g.1.1 = pkg) && g.2.conts.any fun c =>
      c.insts.any fun x => decide (x.2.lid = lid) && decide (x.2.state = 2) && decide (x.2.pend = 0)

/-- A timer entry names a launch. -/
def entOf (s : State) (pkg lid : Nat) (t : TimerEnt) : Bool :=
  match t.what with
  | .twset _ d => (d.map fun x => decide (x.lid = lid)).getD false
  | .timer _ tok => tokOf pkg lid tok
  | .trigger e slot vrow => decide (e.pkg = pkg) && decide (((findRow (getEng s e) slot vrow).map (·.lid)).getD 0 = lid)

/-- A report that holds work of a launch is on its way, pending or in a handler (R333). -/
def heldReport (s : State) (pkg lid : Nat) : Bool :=
  let mine := fun r : Report => decide (r.lid = lid) && decide (r.dest.pkg = pkg) && holdsWork r.held
  s.reports.any mine || s.threads.any fun t => decide (t.1.pkg = pkg) &&
    (t.2.pend.any mine || (t.2.ht && holdsWork t.2.held && decide (t.2.heldLid = lid)))

/-- The count external of a launch of a gang (R337). -/
def externalCount (s : State) (pkg lid : Nat) (ms : List Nat) : Bool :=
  s.xfers.any (fun x => decide (x.eng.pkg = pkg) && decide (x.lid = lid)) ||
    s.copies.any (fun j => decide (j.eng.pkg = pkg) && decide (j.lid = lid)) ||
    s.streams.any (fun p => decide (p.1.1.pkg = pkg) && p.2.slots.any fun c => decide (c.2.lid = lid) && decide (c.2.phase ≠ 0)) ||
    s.wheels.any (fun w => decide (w.1.1 = pkg) && w.2.ents.any (entOf s pkg lid)) ||
    heldReport s pkg lid ||
    (chanWaits s pkg lid).any (fun w => !w.2.2.2 && !otherIn s pkg ms w.2.1 w.2.2.1) ||
    s.xunits.any fun u => decide (u.eng.pkg = pkg) && decide (u.lid = lid) &&
      (dispatchFull s u).any fun k => !otherIn s pkg ms k true

/-- The three counts that a sample wants zero are zero (R338). -/
def countsZero (s : State) (pkg lid : Nat) : Bool :=
  let ms := (gangOf s pkg lid).map (·.1)
  !readyCount s pkg lid && !flying s pkg lid && !externalCount s pkg lid ms

/-- The set of a launch is frozen, so its samples are not taken (R343). -/
def launchFrozen (s : State) (pkg : Nat) (l : Launch) : Bool :=
  ((getGraph s (pkg, l.record.graph)).map fun g => !running g).getD true

/-- An activity bit of a member ends the gang's quiescent episode (R339). -/
def endEpisode (s : State) (pkg lid : Nat) : State :=
  (gangOf s pkg lid).foldl (fun s m => modLaunch s (pkg, m.1) fun l => { l with episode := false, quiet := none }) s

/-- QM_SAMPLE (R338): every 1 µs of device time, the home monitor's first pass reads the counts and clears the activity bits;
the second reads the counts again with the activity bits. -/
def execQmSample (pkg lid : Nat) (second : Bool) (s : State) : Out :=
  .next <|
    match getLaunch s (pkg, lid) with
    | none => s
    | some l =>
      if l.state ≠ 1 ∨ launchFrozen s pkg l ∨ l.half ≠ second ∨ (getPkg s pkg).time < l.sampled + 1000 then s
      else
        let z := countsZero s pkg lid
        let s := if l.activity then endEpisode s pkg lid else s
        if !second then modLaunch s (pkg, lid) fun l => { l with pass1 := z, activity := false, half := true }
        else
          let quiet := l.pass1 && z && !l.activity
          modLaunch s (pkg, lid) fun l =>
            { l with pass1 := false, half := false, sampled := (getPkg s pkg).time,
                     quiet := if quiet then some (l.quiet.getD (getPkg s pkg).time) else none }

/-! ### DEADLOCK reports (R340) -/

/-- The key by which the entries of a report are ordered. -/
def entryKey (e : Eng) (slot vrow : Nat) : List Nat := [e.die, e.page, e.elem, slot, vrow]

/-- An entry of a report. -/
def entryBits (tag : Word) (e : Eng) (slot lid ekind pres why chan rid : Nat) : BitVec 512 :=
  BitVec.ofNat 512 (rid % 256 * 2 ^ 365 + chan % 2 ^ 14 * 2 ^ 373 + why % 16 * 2 ^ 387 + pres % 8 * 2 ^ 391 + ekind * 2 ^ 394 +
    lid % 4096 * 2 ^ 398 + coordNat { eng := e, slot := slot } % 2 ^ 38 * 2 ^ 410 + tag.toNat * 2 ^ 448)

/-- pp, rp, lp of a row. -/
def presOf (q : Row) : Nat := b2n (q.l.isSome || q.trig.isSome) + 2 * b2n q.r.isSome + 4 * b2n q.p.isSome

/-- The entries of a launch's report, in their order: partial frames, set-aside tokens, waiting draws, and waits on full
and empty channels. -/
def reportEntries (s : State) (pkg lid : Nat) : List (BitVec 512) :=
  let engs := s.engines.filter fun x => decide (x.1.pkg = pkg)
  let waitsOn := fun (e : Eng) (q : Row) => (chanWaits s pkg lid).find? fun w =>
    decide (w.1.eng = e) && decide (w.1.slot = q.slot) && decide (w.1.vrow = q.vrow)
  let drawn := fun (e : Eng) (x : Engine) (q : Row) => (x.ready ++ x.flow).findSome? fun a =>
    if a.slot = q.slot ∧ a.vrow = q.vrow then colourWait s e a else none
  let busy := fun (e : Eng) (x : Engine) (q : Row) => (x.ready ++ x.flow ++ x.unit).any fun a =>
    decide (a.slot = q.slot) && decide (a.vrow = q.vrow) && !linkageWait s e a
  let rows := engs.flatMap fun x => (x.2.rows.filter fun q => decide (q.lid = lid)).filterMap fun q =>
    let key := entryKey x.1 q.slot q.vrow
    match waitsOn x.1 q, drawn x.1 x.2 q with
    | some w, _ =>
      some (key, entryBits q.tag x.1 q.slot lid (if w.2.2.1 then 3 else 4) 0 0 (w.2.1.2.2 + w.2.1.2.1 * 2 ^ 12) 0)
    | none, some rid => some (key, entryBits q.tag x.1 q.slot lid 2 0 0 0 rid)
    | none, none => if busy x.1 x.2 q then none else some (key, entryBits q.tag x.1 q.slot lid 0 (presOf q) 0 0 0)
  let aside := engs.flatMap fun x => (x.2.fault.filter fun a => decide (a.tok.lid = lid)).map fun a =>
    (entryKey x.1 a.slot a.vrow, entryBits a.tok.tag x.1 a.slot lid 1 0 a.why 0 0)
  let disp := (s.xunits.filter fun u => decide (u.eng.pkg = pkg) && decide (u.lid = lid)).flatMap fun u =>
    (dispatchFull s u).map fun k =>
      (entryKey u.eng u.slot u.vrow, entryBits u.tok.tag u.eng u.slot lid 3 0 0 (k.2.2 + k.2.1 * 2 ^ 12) 0)
  (sortBy (fun a b => !lexLt b.1 a.1) (rows ++ aside ++ disp)).map (·.2)

/-- The die of a launch's home monitor (R338). -/
def homeDie (s : State) (pkg : Nat) (l : Launch) : Nat :=
  (((getGraph s (pkg, l.record.graph)).bind fun g => g.reloc.head?).map (·.1)).getD 0

/-- Raise DEADLOCK for a member: none while its monitor's 64 reports are in use. -/
def raiseDeadlock (pkg : Nat) (s : State) (m : Nat × Launch) : Option State :=
  let die := homeDie s pkg m.2
  match leastBelow 64 fun n => (tfind (pkg, die, n) s.qmReports).isNone with
  | none => none
  | some n =>
    let es := reportEntries s pkg m.1
    let got := es.take 1024
    let more := decide (1024 < es.length)
    let s := { s with qmReports := tset (pkg, die, n) { entries := got, more := more, lid := m.1 } s.qmReports }
    let s := modLaunch s (pkg, m.1) fun l => { l with episode := true }
    some (raise s { dest := trapThread pkg m.2.record, cause := 0x0203,
                    tval := BitVec.ofNat 64 (n + die * 2 ^ 8 + got.length * 2 ^ 16 + b2n more * 2 ^ 32),
                    tcoord := coordNat { eng := qmEng pkg die }, lid := m.1, held := .report pkg die n, src := qmEng pkg die })

/-- Raise DEADLOCK for every member, or wait. -/
def raiseAll (pkg : Nat) : List (Nat × Launch) → State → Option State
  | [], s => some s
  | m :: ms, s => match raiseDeadlock pkg s m with
    | none => none
    | some s => raiseAll pkg ms s

/-! ### The detector (R327 to R329) -/

/-- The channels on which a writer of a gang waits with FULL. -/
def fullChans (s : State) (pkg : Nat) (ms : List Nat) : List ChanKey :=
  (ms.flatMap fun lid =>
    ((chanWaits s pkg lid).filter fun w => w.2.2.1 && !w.2.2.2).map (fun w => w.2.1) ++
      (s.xunits.filter fun u => decide (u.eng.pkg = pkg) && decide (u.lid = lid)).flatMap (dispatchFull s)).dedup

/-- The capacity of a channel in bytes. -/
def chanCapacity (c : Chan) : Nat := ringRecs c * recBytes c + c.nseg * 65536

/-- The order in which the detector tries channels. -/
def detectOrder (s : State) (a b : ChanKey) : Bool :=
  !lexLt [chanCapacity (getChan s b), b.1, b.2.1, b.2.2] [chanCapacity (getChan s a), a.1, a.2.1, a.2.2]

/-- Grow the first channel that admits it. -/
def growFirst (s : State) : List ChanKey → Option State
  | [] => none
  | k :: ks =>
    let c := getChan s k
    if c.cap ≤ c.nseg then growFirst s ks
    else match poolAlloc s k c with
      | .ok g s => some (modChan s k fun c =>
          { sparePush { c with nseg := c.nseg + 1 } g with gcount := sat16 c.gcount, full := false })
      | _ => growFirst s ks

/-- CHDEADLOCK of a gang (R329). -/
def raiseChDeadlock (s : State) (pkg : Nat) (m : Nat × Launch) (f : List ChanKey) : State :=
  let die := homeDie s pkg m.2
  raise s { dest := trapThread pkg m.2.record, cause := 0x0204, tval := BitVec.ofNat 64 (((f.head?).map chanId).getD 0),
            tinfo := flagWord (f.all fun k => decide ((getChan s k).nseg < (getChan s k).cap)),
            tcoord := coordNat { eng := qmEng pkg die }, lid := m.1, src := qmEng pkg die, tagged := false }

/-- The window of a member has passed with every sample in it quiescent, the latest one included (R339). -/
def windowPassed (s : State) (pkg : Nat) (l : Launch) : Bool :=
  match l.quiet with
  | some t => decide (t + (getPart s (pkg, l.part)).windowUs * 1000 ≤ l.sampled) && !l.half && !l.activity
  | none => false

/-- Judge a gang that has reached a quiescent episode (R328, R339). -/
def judge (s : State) (pkg : Nat) (g : List (Nat × Launch)) : State :=
  let ms := g.map (·.1)
  let f := sortBy (detectOrder s) (fullChans s pkg ms)
  let again := fun s : State => g.foldl (fun s m => modLaunch s (pkg, m.1) fun l => { l with quiet := some (getPkg s pkg).time }) s
  let done := g.any fun m => m.2.episode
  if f.isEmpty then
    if done then s else (raiseAll pkg g s).getD s
  else match growFirst s f with
    | some s => again s
    | none => match g with
      | m :: _ =>
        if done then again s
        else again (g.foldl (fun s m => modLaunch s (pkg, m.1) fun l => { l with episode := true }) (raiseChDeadlock s pkg m f))
      | [] => s

/-- The members of a launch's gang that are judged: those that run. -/
def windowGang (s : State) (pkg lid : Nat) : List (Nat × Launch) := (gangOf s pkg lid).filter fun m => decide (m.2.state = 1)

/-- The window of a gang has ended with every member quiescent. -/
def windowEnds (s : State) (pkg : Nat) (g : List (Nat × Launch)) : Bool :=
  !g.isEmpty && g.all fun m => windowPassed s pkg m.2 && !launchFrozen s pkg m.2

/-- QM_WINDOW_END (R339): a gang quiescent at every sample of a window is judged. -/
def execQmWindowEnd (pkg lid : Nat) (s : State) : Out :=
  .next <|
    let g := windowGang s pkg lid
    if windowEnds s pkg g then judge s pkg g else s

end Sys2Proof.Machine
end

