-- ==== Sys2Proof/Machine/Image.lean ====
section
/-!
DEFINITION. Machine/Image.lean: what a save image holds, section by section, and how it is written and read (spec/15 R344,
R345). The spec orders the sections and gives the header of a page record; how a section lays out what it holds is the
model's choice: every number is written in groups of seven bits, every list after its length (log 11).
-/
namespace Sys2Proof.Machine

/-! ### Codecs -/

/-- A way to write values as bytes and to read them back from the front of a list of bytes. -/
structure Codec (α : Type) where
  put : α → List Byte
  get : List Byte → Option (α × List Byte)

/-- A codec reads back what it writes, and leaves what follows. -/
def Codec.Ok {α : Type} (c : Codec α) : Prop := ∀ x r, c.get (c.put x ++ r) = some (x, r)

/-- A number in groups of seven bits, low groups first; k bounds the groups after the first. -/
def putNat : Nat → Nat → List Byte
  | 0, n => [BitVec.ofNat 8 n]
  | k + 1, n => if n < 128 then [BitVec.ofNat 8 n] else BitVec.ofNat 8 (128 + n % 128) :: putNat k (n / 128)

/-- Read such a number. -/
def getNat : List Byte → Option (Nat × List Byte)
  | [] => none
  | b :: bs =>
    if b.toNat < 128 then some (b.toNat, bs) else (getNat bs).map fun x => (b.toNat - 128 + 128 * x.1, x.2)

/-- A number. -/
def cNat : Codec Nat := ⟨fun n => putNat (Nat.log2 n) n, getNat⟩

/-- A value through another type: to it, and from it. -/
def Codec.map {α β : Type} (f : α → β) (g : β → α) (c : Codec α) : Codec β :=
  ⟨fun y => c.put (g y), fun bs => (c.get bs).map fun x => (f x.1, x.2)⟩

/-- A pair. -/
def Codec.prod {α β : Type} (a : Codec α) (b : Codec β) : Codec (α × β) :=
  ⟨fun x => a.put x.1 ++ b.put x.2, fun bs => (a.get bs).bind fun x => (b.get x.2).map fun y => ((x.1, y.1), y.2)⟩

/-- One of two. -/
def Codec.sum {α β : Type} (a : Codec α) (b : Codec β) : Codec (α ⊕ β) :=
  ⟨fun x => match x with
    | .inl x => 0 :: a.put x
    | .inr y => 1 :: b.put y,
   fun bs => match bs with
    | [] => none
    | t :: bs => if t = 0 then (a.get bs).map fun x => (.inl x.1, x.2) else (b.get bs).map fun y => (.inr y.1, y.2)⟩

/-- n values one after another. -/
def getMany {α : Type} (c : Codec α) : Nat → List Byte → Option (List α × List Byte)
  | 0, bs => some ([], bs)
  | n + 1, bs => (c.get bs).bind fun x => (getMany c n x.2).map fun l => (x.1 :: l.1, l.2)

/-- A list after its length. -/
def Codec.list {α : Type} (c : Codec α) : Codec (List α) :=
  ⟨fun l => cNat.put l.length ++ l.flatMap c.put, fun bs => (cNat.get bs).bind fun n => getMany c n.1 n.2⟩

/-- A value that may be absent. -/
def Codec.opt {α : Type} (c : Codec α) : Codec (Option α) :=
  .map (fun l => l.head?) (fun x => x.toList) (.list c)

/-- A Boolean. -/
def cBool : Codec Bool := .map (fun n => decide (n = 1)) (fun b => if b then 1 else 0) cNat

/-- Bits. -/
def cBV (n : Nat) : Codec (BitVec n) := .map (BitVec.ofNat n) BitVec.toNat cNat

/-- An integer: its sign and its magnitude. -/
def cInt : Codec Int :=
  .map (fun x => if x.1 then -(x.2 : Int) else (x.2 : Int)) (fun i => (decide (i < 0), i.natAbs)) (.prod cBool cNat)

/-! ### The parts of the state that an image holds -/

/-- The codec of Eng. -/def cEng : Codec Eng :=
  .map (fun (a0, a1, a2, a3) => ⟨a0, a1, a2, a3⟩)
    (fun x => (x.pkg, x.die, x.page, x.elem))
    (.prod cNat (.prod cNat (.prod cNat cNat)))

/-- The codec of Coord. -/def cCoord : Codec Coord :=
  .map (fun (a0, a1, a2) => ⟨a0, a1, a2⟩)
    (fun x => (x.eng, x.slot, x.pos))
    (.prod cEng (.prod cNat cNat))

/-- The codec of Cons. -/def cCons : Codec Cons :=
  .map (fun (a0, a1) => ⟨a0, a1⟩)
    (fun x => (x.port, x.dst))
    (.prod cNat cCoord)

/-- The codec of TileId. -/def cTileId : Codec TileId :=
  .map (fun (a0, a1, a2) => ⟨a0, a1, a2⟩)
    (fun x => (x.pkg, x.die, x.handle))
    (.prod cNat (.prod cNat cNat))

/-- The codec of Block. -/def cBlock : Codec Block :=
  .map (fun (a0, a1, a2) => ⟨a0, a1, a2⟩)
    (fun x => (x.binding, x.header, x.words))
    (.prod (cBV 256) (.prod (cBV 128) (.list (cBV 64))))

/-- The codec of Op. -/def cOp : Codec Op :=
  .map (fun (a0, a1, a2, a3, a4, a5, a6, a7, a8) => ⟨a0, a1, a2, a3, a4, a5, a6, a7, a8⟩)
    (fun x => (x.word, x.eng, x.slot, x.cfg, x.cons, x.frame, x.lineOff, x.disp, x.block))
    (.prod (cBV 256) (.prod cEng (.prod cNat (.prod (.list (cBV 256)) (.prod (.list cCons) (.prod cNat (.prod cNat
    (.prod (.list cTileId) (.opt cBlock)))))))))

/-- The codec of ColKey. -/def cColKey : Codec ColKey :=
  .map (fun (a0, a1, a2, a3) => ⟨a0, a1, a2, a3⟩)
    (fun x => (x.pkg, x.graph, x.region, x.colour))
    (.prod cNat (.prod cNat (.prod cNat cNat)))

/-- The codec of Colour. -/def cColour : Codec Colour :=
  .map (fun (a0, a1, a2, a3, a4, a5, a6, a7, a8, a9, a10) => ⟨a0, a1, a2, a3, a4, a5, a6, a7, a8, a9, a10⟩)
    (fun x => (x.live, x.succ, x.closes, x.pbal, x.spnd, x.succv, x.closed, x.busy, x.hold, x.lid, x.closer))
    (.prod cNat (.prod cNat (.prod cNat (.prod cInt (.prod cBool (.prod cBool (.prod cBool (.prod cBool (.prod (.opt
    cColKey) (.prod cNat (.opt (.prod cEng cNat))))))))))))

/-- The codec of Draw. -/def cDraw : Codec Draw :=
  .map (fun (a0, a1, a2, a3, a4) => ⟨a0, a1, a2, a3, a4⟩)
    (fun x => (x.eng, x.slot, x.vrow, x.lid, x.tag))
    (.prod cEng (.prod cNat (.prod cNat (.prod cNat (cBV 64)))))

/-- The codec of Linkage. -/def cLinkage : Codec Linkage :=
  .map (fun (a0, a1) => ⟨a0, a1⟩)
    (fun x => (x.tag, x.dest))
    (.prod (cBV 64) (.list cNat))

/-- The codec of Region. -/def cRegion : Codec Region :=
  .map (fun (a0, a1, a2, a3, a4, a5, a6, a7, a8, a9, a10, a11) => ⟨a0, a1, a2, a3, a4, a5, a6, a7, a8, a9, a10, a11⟩)
    (fun x => (x.rid, x.parent, x.depth, x.func, x.width, x.cap, x.head, x.tail, x.free, x.recs, x.draws, x.links))
    (.prod cNat (.prod cNat (.prod cNat (.prod cBool (.prod cNat (.prod cNat (.prod cNat (.prod cNat (.prod (.list
    cNat) (.prod (.list cColour) (.prod (.list cDraw) (.list (.prod cNat cLinkage)))))))))))))

/-- The codec of TileRec. -/def cTileRec : Codec TileRec :=
  .map (fun (a0, a1, a2, a3, a4, a5, a6, a7) => ⟨a0, a1, a2, a3, a4, a5, a6, a7⟩)
    (fun x => (x.tile, x.rows, x.cols, x.fmt, x.level, x.pin, x.init, x.back))
    (.prod cTileId (.prod cNat (.prod cNat (.prod cNat (.prod cBool (.prod cBool (.prod (.opt cNat) cNat)))))))

/-- The codec of Token. -/def cToken : Codec Token :=
  .map (fun (a0, a1, a2, a3, a4, a5, a6, a7, a8, a9, a10, a11, a12, a13, a14, a15, a16, a17) => ⟨a0, a1, a2, a3, a4, a5,
    a6, a7, a8, a9, a10, a11, a12, a13, a14, a15, a16, a17⟩)
    (fun x => (x.dst, x.src, x.tag, x.lid, x.part, x.agid, x.kind, x.opw, x.residue, x.poison, x.urg, x.rply, x.path,
    x.milestone, x.seq, x.vc, x.hops, x.rsv))
    (.prod cCoord (.prod cCoord (.prod (cBV 64) (.prod cNat (.prod cNat (.prod cNat (.prod cNat (.prod (cBV 128)
    (.prod cNat (.prod cBool (.prod cBool (.prod cBool (.prod cNat (.prod cNat (.prod cNat (.prod cNat (.prod cNat
    cNat)))))))))))))))))

/-- The codec of Inst. -/def cInst : Codec Inst :=
  .map (fun (a0, a1, a2, a3, a4, a5, a6, a7) => ⟨a0, a1, a2, a3, a4, a5, a6, a7⟩)
    (fun x => (x.key, x.kl, x.kr, x.pend, x.tries, x.state, x.lid, x.bad))
    (.prod (cBV 64) (.prod (.opt cToken) (.prod (.opt cToken) (.prod cNat (.prod cNat (.prod cNat (.prod cNat
    cCoord)))))))

/-- The codec of Cont. -/def cCont : Codec Cont :=
  .map (fun (a0, a1, a2, a3, a4) => ⟨a0, a1, a2, a3, a4⟩)
    (fun x => (x.copen, x.cclose, x.handler, x.members, x.insts))
    (.prod cNat (.prod cNat (.prod cNat (.prod (.list cNat) (.list (.prod cNat cInst))))))

/-- The codec of Shape. -/def cShape : Codec Shape :=
  .map (fun (a0, a1, a2, a3) => ⟨a0, a1, a2, a3⟩)
    (fun x => (x.e0, x.e1, x.e2, x.e3))
    (.prod cNat (.prod cNat (.prod cNat cNat)))

/-- The codec of Graph. -/def cGraph : Codec Graph :=
  .map (fun (a0, a1, a2, a3, a4, a5, a6, a7, a8, a9, a10, a11, a12, a13, a14, a15, a16, a17) => ⟨a0, a1, a2, a3, a4, a5,
    a6, a7, a8, a9, a10, a11, a12, a13, a14, a15, a16, a17⟩)
    (fun x => (x.part, x.agid, x.ibase, x.nd, x.prows, x.pcols, x.reloc, x.ops, x.regions, x.tiles, x.chans, x.conts,
    x.shapes, x.frozen, x.freezing, x.moveTo, x.noRoom, x.saved))
    (.prod cNat (.prod cNat (.prod (cBV 64) (.prod cNat (.prod cNat (.prod cNat (.prod (.list (.prod cNat (.prod cNat
    cNat))) (.prod (.list cOp) (.prod (.list cRegion) (.prod (.list cTileRec) (.prod (.list (.prod cNat cNat)) (.prod
    (.list cCont) (.prod (.list (.prod cNat cShape)) (.prod cBool (.prod cBool (.prod (.opt (.list (.prod cNat (.prod
    cNat cNat)))) (.prod cBool cBool)))))))))))))))))

/-- The codec of LaunchRec. -/def cLaunchRec : Codec LaunchRec :=
  .map (fun (a0, a1, a2, a3, a4, a5, a6, a7, a8, a9, a10, a11) => ⟨a0, a1, a2, a3, a4, a5, a6, a7, a8, a9, a10, a11⟩)
    (fun x => (x.graph, x.prio, x.gang, x.sv, x.trap, x.agid, x.nwait, x.queue, x.wait, x.thr, x.sig, x.bad))
    (.prod cNat (.prod cNat (.prod cBool (.prod cBool (.prod cNat (.prod cNat (.prod cNat (.prod cNat (.prod (.list
    (cBV 64)) (.prod (.list cNat) (.prod (cBV 64) cBool)))))))))))

/-- The codec of Launch. -/def cLaunch : Codec Launch :=
  .map (fun (a0, a1, a2, a3, a4, a5, a6, a7, a8, a9, a10, a11, a12, a13, a14, a15, a16, a17, a18) => ⟨a0, a1, a2, a3, a4,
    a5, a6, a7, a8, a9, a10, a11, a12, a13, a14, a15, a16, a17, a18⟩)
    (fun x => (x.record, x.part, x.queue, x.gang, x.order, x.state, x.waitOk, x.root, x.srcLeft, x.unitHeld, x.status,
    x.why, x.killed, x.activity, x.pass1, x.quiet, x.episode, x.sampled, x.half))
    (.prod cLaunchRec (.prod cNat (.prod cNat (.prod (.list cNat) (.prod cNat (.prod cNat (.prod cBool (.prod (.opt
    cNat) (.prod cNat (.prod cBool (.prod (cBV 64) (.prod cNat (.prod cBool (.prod cBool (.prod cBool (.prod (.opt
    cNat) (.prod cBool (.prod cNat cBool))))))))))))))))))

/-- The codec of SlotDyn. -/def cSlotDyn : Codec SlotDyn :=
  .map (fun (a0, a1, a2, a3, a4, a5, a6, a7, a8, a9, a10) => ⟨a0, a1, a2, a3, a4, a5, a6, a7, a8, a9, a10⟩)
    (fun x => (x.credit, x.weight, x.occ, x.fires, x.refills, x.spills, x.flags, x.bins, x.validated, x.q, x.cols0))
    (.prod cInt (.prod cNat (.prod cNat (.prod cNat (.prod cNat (.prod cNat (.prod cNat (.prod (.list cNat) (.prod
    cBool (.prod cNat cNat))))))))))

/-- The codec of EntryRec. -/def cEntryRec : Codec EntryRec :=
  .map (fun (a0, a1) => ⟨a0, a1⟩)
    (fun x => (x.value, x.count))
    (.prod cNat cNat)

/-- The codec of Tile. -/def cTile : Codec Tile :=
  .map (fun (a0, a1, a2, a3, a4, a5, a6, a7, a8, a9, a10, a11, a12, a13, a14, a15) => ⟨a0, a1, a2, a3, a4, a5, a6, a7,
    a8, a9, a10, a11, a12, a13, a14, a15⟩)
    (fun x => (x.cmap, x.off, x.bankmap, x.loc, x.rows, x.cols, x.fmt, x.state, x.refs, x.level, x.pinned, x.olid,
    x.agid, x.owner, x.part, x.byLoad))
    (.prod (cBV 128) (.prod cNat (.prod cNat (.prod cNat (.prod cNat (.prod cNat (.prod cNat (.prod cNat (.prod cNat
    (.prod cBool (.prod cBool (.prod cNat (.prod cNat (.prod cNat (.prod cNat cBool)))))))))))))))

/-- The codec of Tid. -/def cTid : Codec Tid :=
  .map (fun (a0, a1, a2) => ⟨a0, a1, a2⟩)
    (fun x => (x.pkg, x.die, x.thr))
    (.prod cNat (.prod cNat cNat))

/-- The codec of InjDesc. -/def cInjDesc : Codec InjDesc :=
  .map (fun (a0, a1, a2, a3, a4, a5, a6, a7) => ⟨a0, a1, a2, a3, a4, a5, a6, a7⟩)
    (fun x => (x.tag, x.lid, x.graph, x.replace, x.cl, x.op, x.value, x.bad))
    (.prod (cBV 64) (.prod cNat (.prod cNat (.prod cBool (.prod cBool (.prod cNat (.prod (cBV 64) cBool)))))))

/-- What a timer entry does. -/
def cTimerWhat : Codec TimerWhat :=
  .map (fun x => match x with
      | .inl (t, d) => .twset t d
      | .inr (.inl (e, t)) => .timer e t
      | .inr (.inr (e, k, v)) => .trigger e k v)
    (fun x => match x with
      | .twset t d => .inl (t, d)
      | .timer e t => .inr (.inl (e, t))
      | .trigger e k v => .inr (.inr (e, k, v)))
    (.sum (.prod cTid (.opt cInjDesc)) (.sum (.prod cEng cToken) (.prod cEng (.prod cNat cNat))))

/-- The codec of TimerEnt. -/def cTimerEnt : Codec TimerEnt :=
  .map (fun (a0, a1, a2, a3, a4, a5, a6) => ⟨a0, a1, a2, a3, a4, a5, a6⟩)
    (fun x => (x.due, x.bound, x.order, x.far, x.handle, x.fire, x.what))
    (.prod cNat (.prod cNat (.prod cNat (.prod cBool (.prod (.opt cNat) (.prod cBool cTimerWhat))))))

/-- A channel endpoint. -/
def cEndpoint : Codec Endpoint :=
  .map (fun x => match x with
      | none => .none
      | some (.inl c) => if c.2.2 then .saved c.1 c.2.1 else .op c.1 c.2.1
      | some (.inr t) => .thread t)
    (fun x => match x with
      | .none => none
      | .op c l => some (.inl (c, l, false))
      | .saved c l => some (.inl (c, l, true))
      | .thread t => some (.inr t)) (.opt (.sum (.prod cCoord (.prod cNat cBool)) cTid))

/-- The codec of Rec. -/def cRec : Codec Rec :=
  .map (fun (a0, a1, a2, a3, a4, a5, a6, a7) => ⟨a0, a1, a2, a3, a4, a5, a6, a7⟩)
    (fun x => (x.seg, x.pos, x.ready, x.landed, x.residue, x.poison, x.ordinal, x.lid))
    (.prod (.opt cNat) (.prod cNat (.prod cBool (.prod (.list cNat) (.prod cNat (.prod cBool (.prod cNat cNat)))))))

/-- The codec of Chan. -/def cChan : Codec Chan :=
  .map (fun (a0, a1, a2, a3, a4, a5, a6, a7, a8, a9, a10, a11, a12, a13, a14, a15, a16, a17, a18, a19, a20, a21, a22,
    a23, a24, a25, a26, a27, a28, a29, a30, a31, a32, a33) => ⟨a0, a1, a2, a3, a4, a5, a6, a7, a8, a9, a10, a11, a12,
    a13, a14, a15, a16, a17, a18, a19, a20, a21, a22, a23, a24, a25, a26, a27, a28, a29, a30, a31, a32, a33⟩)
    (fun x => (x.name, x.part, x.agid, x.state, x.rlog, x.glog, x.grow, x.spl, x.rpage, x.rmt, x.roff, x.wi, x.ri,
    x.cap, x.nseg, x.gcount, x.shead, x.stail, x.sfree, x.hoff, x.toff, x.scount, x.wep, x.rep, x.ownerThread,
    x.ownerGraph, x.grefs, x.wrec, x.rrec, x.links, x.recs, x.full, x.credit, x.sent))
    (.prod cNat (.prod cNat (.prod cNat (.prod cNat (.prod cNat (.prod cNat (.prod cBool (.prod cBool (.prod cNat
    (.prod cNat (.prod cNat (.prod cNat (.prod cNat (.prod cNat (.prod cNat (.prod cNat (.prod cNat (.prod cNat (.prod
    cNat (.prod cNat (.prod cNat (.prod cNat (.prod cEndpoint (.prod cEndpoint (.prod (.opt cTid) (.prod cNat (.prod
    cNat (.prod cNat (.prod cNat (.prod (.list (.prod cNat cNat)) (.prod (.list cRec) (.prod cBool (.prod cNat
    cNat)))))))))))))))))))))))))))))))))

/-- The codec of AllocWait. -/def cAllocWait : Codec AllocWait :=
  .map (fun (a0, a1, a2, a3) => ⟨a0, a1, a2, a3⟩)
    (fun x => (x.eng, x.slot, x.vrow, x.held))
    (.prod cEng (.prod cNat (.prod cNat cBool)))

/-- The codec of SourceFire. -/def cSourceFire : Codec SourceFire :=
  .map (fun (a0, a1, a2, a3, a4, a5, a6, a7) => ⟨a0, a1, a2, a3, a4, a5, a6, a7⟩)
    (fun x => (x.pkg, x.graph, x.op, x.lid, x.tag, x.value, x.atLaunch, x.id))
    (.prod cNat (.prod cNat (.prod cNat (.prod cNat (.prod (cBV 64) (.prod (.opt (cBV 64)) (.prod cBool cNat)))))))

/-- The codec of Trig. -/def cTrig : Codec Trig :=
  .map (fun (a0, a1) => ⟨a0, a1⟩)
    (fun x => (x.counters, x.deadline))
    (.prod (.list cNat) (.opt cNat))

/-- The codec of Row. -/def cRow : Codec Row :=
  .map (fun (a0, a1, a2, a3, a4, a5, a6, a7, a8, a9, a10, a11, a12, a13) => ⟨a0, a1, a2, a3, a4, a5, a6, a7, a8, a9, a10,
    a11, a12, a13⟩)
    (fun x => (x.vrow, x.slot, x.lid, x.tag, x.l, x.r, x.p, x.tl, x.tr, x.tp, x.dtime, x.trig, x.backed, x.stopHeld))
    (.prod cNat (.prod cNat (.prod cNat (.prod (cBV 64) (.prod (.opt cToken) (.prod (.opt cToken) (.prod (.opt cToken)
    (.prod cNat (.prod cNat (.prod cNat (.prod cNat (.prod (.opt cTrig) (.prod cBool cBool)))))))))))))

/-- The codec of SetAside. -/def cSetAside : Codec SetAside :=
  .map (fun (a0, a1, a2, a3, a4) => ⟨a0, a1, a2, a3, a4⟩)
    (fun x => (x.tok, x.slot, x.vrow, x.why, x.spent))
    (.prod cToken (.prod cNat (.prod cNat (.prod cNat cBool))))

/-- The codec of BBlock. -/def cBBlock : Codec BBlock :=
  .map (fun (a0, a1, a2) => ⟨a0, a1, a2⟩)
    (fun x => (x.part, x.agid, x.vrows))
    (.prod cNat (.prod cNat (.list cNat)))

/-- The codec of Act. -/def cAct : Codec Act :=
  .map (fun (a0, a1, a2, a3, a4) => ⟨a0, a1, a2, a3, a4⟩)
    (fun x => (x.slot, x.vrow, x.id, x.bank, x.dests))
    (.prod cNat (.prod cNat (.prod cNat (.prod (.opt cBool) (.list cTileId)))))

/-- The codec of Burst. -/def cBurst : Codec Burst :=
  .map (fun (a0, a1, a2, a3, a4) => ⟨a0, a1, a2, a3, a4⟩)
    (fun x => (x.input, x.chunk, x.words, x.data, x.sum))
    (.prod cNat (.prod cNat (.prod (.list (cBV 64)) (.prod (.list (cBV 8)) cNat))))

/-- The codec of LoopBack. -/def cLoopBack : Codec LoopBack :=
  .map (fun (a0, a1, a2, a3) => ⟨a0, a1, a2, a3⟩)
    (fun x => (x.slot, x.pos, x.step, x.vec))
    (.prod cNat (.prod cNat (.prod cNat (.list cNat))))

/-- The codec of Run. -/def cRun : Codec Run :=
  .map (fun (a0, a1, a2, a3, a4, a5, a6, a7, a8, a9, a10, a11, a12, a13, a14) => ⟨a0, a1, a2, a3, a4, a5, a6, a7, a8, a9,
    a10, a11, a12, a13, a14⟩)
    (fun x => (x.act, x.toks, x.recv, x.dests, x.steps, x.step, x.loop, x.phase, x.resid, x.extra, x.out, x.word,
    x.box, x.brk, x.arrived))
    (.prod cAct (.prod (.list cToken) (.prod (.list cBurst) (.prod (.list cTileId) (.prod cNat (.prod cNat (.prod
    (.list cLoopBack) (.prod cNat (.prod (.list cNat) (.prod (.opt cToken) (.prod (.list (.list (.opt cNat))) (.prod
    cNat (.prod (.list (.prod (.prod cNat cNat) (.list cNat))) (.prod (.opt cNat) (.opt cNat)))))))))))))))

/-- The codec of LogEntry. -/def cLogEntry : Codec LogEntry :=
  .map (fun (a0, a1, a2, a3, a4) => ⟨a0, a1, a2, a3, a4⟩)
    (fun x => (x.tag, x.slot, x.sector, x.lid, x.part))
    (.prod (cBV 64) (.prod cNat (.prod cNat (.prod cNat cNat))))

/-- The codec of Engine. -/def cEngine : Codec Engine :=
  .map (fun (a0, a1, a2, a3, a4, a5, a6, a7, a8, a9, a10, a11, a12, a13, a14, a15, a16, a17, a18, a19, a20, a21, a22,
    a23, a24, a25, a26, a27) => ⟨a0, a1, a2, a3, a4, a5, a6, a7, a8, a9, a10, a11, a12, a13, a14, a15, a16, a17, a18,
    a19, a20, a21, a22, a23, a24, a25, a26, a27⟩)
    (fun x => (x.rows, x.spills, x.refills, x.fault, x.freeze, x.blocks, x.ingress, x.ovf, x.ready, x.flow, x.unit,
    x.run, x.wload, x.served, x.arithErr, x.dataErr, x.u, x.cycles, x.epoch, x.slots, x.entries, x.blocked, x.gated,
    x.waking, x.log, x.logPos, x.logLost, x.stamps))
    (.prod (.list cRow) (.prod cNat (.prod cNat (.prod (.list cSetAside) (.prod (.list cToken) (.prod (.list cBBlock)
    (.prod (.list cToken) (.prod cBool (.prod (.list cAct) (.prod (.list cAct) (.prod (.list cAct) (.prod (.opt cRun)
    (.prod (.opt cRun) (.prod cNat (.prod (.opt cInt) (.prod (.opt cNat) (.prod cNat (.prod cNat (.prod cNat (.prod
    (.list (.prod cNat cSlotDyn)) (.prod (.list (.prod (.prod cNat cNat) cEntryRec)) (.prod (.opt cNat) (.prod cBool
    (.prod cBool (.prod (.list (.prod cNat cLogEntry)) (.prod cNat (.prod cNat cNat)))))))))))))))))))))))))))

/-- The codec of Lane. -/def cLane : Codec Lane :=
  .map (fun (a0, a1) => ⟨a0, a1⟩)
    (fun x => (x.val, x.cnt))
    (.prod (cBV 64) cNat)

/-- The codec of VTile. -/def cVTile : Codec VTile :=
  .map (fun (a0, a1, a2, a3, a4) => ⟨a0, a1, a2, a3, a4⟩)
    (fun x => (x.regs, x.acc, x.flags, x.shapes, x.rep))
    (.prod (.list (.prod cNat (cBV 512))) (.prod (.list (.prod (.prod cNat cNat) cLane)) (.prod (.list (.prod cNat
    (cBV 4))) (.prod (.list (.prod cNat cShape)) cNat))))

/-- The codec of WBank. -/def cWBank : Codec WBank :=
  .map (fun (a0, a1, a2, a3, a4, a5, a6) => ⟨a0, a1, a2, a3, a4, a5, a6⟩)
    (fun x => (x.valid, x.fmt, x.k, x.n, x.sc, x.data, x.bursts))
    (.prod cBool (.prod cNat (.prod cNat (.prod cNat (.prod cBool (.prod (.list (cBV 8)) (.list cBurst)))))))

/-- The codec of Island. -/def cIsland : Codec Island :=
  .map (fun (a0, a1, a2, a3, a4, a5, a6, a7, a8) => ⟨a0, a1, a2, a3, a4, a5, a6, a7, a8⟩)
    (fun x => (x.act, x.swp, x.load, x.acls, x.bact, x.bidle, x.wb0, x.wb1, x.acc))
    (.prod cBool (.prod cBool (.prod cBool (.prod cNat (.prod cNat (.prod cNat (.prod cWBank (.prod cWBank (.list
    (.prod (.prod cNat cNat) cLane))))))))))

/-- The codec of XUnit. -/def cXUnit : Codec XUnit :=
  .map (fun (a0, a1, a2, a3, a4, a5, a6, a7, a8, a9, a10, a11, a12, a13, a14, a15) => ⟨a0, a1, a2, a3, a4, a5, a6, a7,
    a8, a9, a10, a11, a12, a13, a14, a15⟩)
    (fun x => (x.id, x.eng, x.slot, x.vrow, x.lid, x.tok, x.tok2, x.dest, x.reduce, x.row, x.report, x.counts,
    x.phase, x.sent, x.img, x.route))
    (.prod cNat (.prod cEng (.prod cNat (.prod cNat (.prod cNat (.prod cToken (.prod (.opt cToken) (.prod (.list
    cTileId) (.prod (.opt cNat) (.prod cNat (.prod (.list cNat) (.prod (.list cNat) (.prod cNat (.prod (.opt (.prod
    (.prod cNat (.prod cNat cNat)) cNat)) (.prod (.list (cBV 8)) (.list (cBV 8)))))))))))))))))

/-! ### What an image holds (R344) -/

/-- The graph section: the graph under its handle; its launches by LID; arbiter and profile fields and entry records of its
operators; tile entries of its pages; its timer entries with their dies; its channels with their place; the rows that wait,
the sources asked for. -/
structure SaveGraph where
  key : Nat × Nat := (0, 0)
  graph : Graph := {}
  launches : List (Nat × Launch) := []
  slots : List ((Eng × Nat) × SlotDyn) := []
  entries : List ((Eng × Nat × Nat) × EntryRec) := []
  tiles : List (TileId × Tile) := []
  timers : List (Nat × TimerEnt) := []
  chans : List ((Nat × Nat) × Chan) := []
  waits : List AllocWait := []
  sources : List SourceFire := []
  deriving DecidableEq, Repr, Inhabited

/-- An element of a page: its engine, its vector tile or island; a memory tile's units by address / 64 with their bytes,
units of zeros left out (the unit map), and its uncorrectable words, which only a compaction's move meets (R246). -/
structure SaveElem where
  eng : Eng := default
  core : Option Engine := none
  vt : Option VTile := none
  isl : Option Island := none
  units : List (Nat × List Byte) := []
  bad : List Nat := []
  deriving DecidableEq, Repr, Inhabited

/-- The edge section: what die-edge engines hold of the set's operators. -/
structure SaveEdge where
  edge : List (Eng × Engine) := []
  xunits : List XUnit := []
  deriving DecidableEq, Repr, Inhabited

/-- A saved page set: the pages in set order. -/
structure SaveData extends SaveGraph, SaveEdge where
  pages : List (List SaveElem) := []
  deriving DecidableEq, Repr, Inhabited

/-- The codec of SaveGraph. -/def cSaveGraph : Codec SaveGraph :=
  .map (fun (a0, a1, a2, a3, a4, a5, a6, a7, a8, a9) => ⟨a0, a1, a2, a3, a4, a5, a6, a7, a8, a9⟩)
    (fun x => (x.key, x.graph, x.launches, x.slots, x.entries, x.tiles, x.timers, x.chans, x.waits, x.sources))
    (.prod (.prod cNat cNat) (.prod cGraph (.prod (.list (.prod cNat cLaunch)) (.prod (.list (.prod (.prod cEng cNat)
    cSlotDyn)) (.prod (.list (.prod (.prod cEng (.prod cNat cNat)) cEntryRec)) (.prod (.list (.prod cTileId cTile))
    (.prod (.list (.prod cNat cTimerEnt)) (.prod (.list (.prod (.prod cNat cNat) cChan)) (.prod (.list cAllocWait)
    (.list cSourceFire))))))))))

/-- The codec of SaveElem. -/def cSaveElem : Codec SaveElem :=
  .map (fun (a0, a1, a2, a3, a4, a5) => ⟨a0, a1, a2, a3, a4, a5⟩)
    (fun x => (x.eng, x.core, x.vt, x.isl, x.units, x.bad))
    (.prod cEng (.prod (.opt cEngine) (.prod (.opt cVTile) (.prod (.opt cIsland) (.prod (.list (.prod cNat (.list (cBV
    8)))) (.list cNat))))))

/-- The codec of SaveEdge. -/def cSaveEdge : Codec SaveEdge :=
  .map (fun (a0, a1) => ⟨a0, a1⟩)
    (fun x => (x.edge, x.xunits))
    (.prod (.list (.prod cEng cEngine)) (.list cXUnit))

/-! ### The sections (R344) -/

/-- Pages of a set. -/
def setPages (g : Graph) : Nat := g.nd * (g.prows * g.pcols)

/-- The record of page k in set order: its 16-byte header of die offset, row, column and length, then its elements in
ascending element code. -/
def putPage (g : Graph) (k : Nat) (els : List SaveElem) : List Byte :=
  let bs := (Codec.list cSaveElem).put els
  leBytes 4 (k / (g.prows * g.pcols)) ++ leBytes 4 (k / g.pcols % g.prows) ++ leBytes 4 (k % g.pcols) ++ leBytes 4 bs.length ++ bs

/-- The page records from page k on. -/
def putPages (g : Graph) : Nat → List (List SaveElem) → List Byte
  | _, [] => []
  | k, p :: ps => putPage g k p ++ putPages g (k + 1) ps

/-- Read n page records. -/
def getPages : Nat → List Byte → Option (List (List SaveElem) × List Byte)
  | 0, bs => some ([], bs)
  | n + 1, bs => ((Codec.list cSaveElem).get (bs.drop 16)).bind fun x => (getPages n x.2).map fun l => (x.1 :: l.1, l.2)

/-- Bytes of the L1 backing of a tile (R296). -/
def l1Length (t : TileRec) : Nat := cdiv (t.rows * t.cols * elemBytes t.fmt) 512 * if isScaled t.fmt then 1024 else 512

/-- The L1 section: the global physical address and the length of each L1 backing. -/
def l1Section (g : Graph) : List Byte :=
  (g.tiles.filter (·.level)).flatMap fun t => leBytes 8 t.back ++ leBytes 8 (l1Length t)

/-- The sections in their order. -/
def imageSections (d : SaveData) : List (List Byte) :=
  [cSaveGraph.put d.toSaveGraph, putPages d.graph 0 d.pages, cSaveEdge.put d.toSaveEdge, l1Section d.graph]

/-- The image after its header. -/
def imageBody (d : SaveData) : List Byte := (imageSections d).flatten

/-- The offset of section k from the start of the image. -/
def imageOffset (d : SaveData) (k : Nat) : Nat := 128 + ((imageSections d).take k).flatten.length

/-- Read an image after its header. -/
def imageRead (bs : List Byte) : Option SaveData :=
  (cSaveGraph.get bs).bind fun g => (getPages (setPages g.1.graph) g.2).bind fun p => (cSaveEdge.get p.2).bind fun e =>
    if e.2 = l1Section g.1.graph then some { toSaveGraph := g.1, toSaveEdge := e.1, pages := p.1 } else none

/-- A byte that a set holds of its scratchpads, by its address in the L0 memory. -/
def savedByte (d : SaveData) (a : Nat) : Byte :=
  (((d.pages.flatMap fun p => p.flatMap (·.units)).find? fun u => decide (u.1 = a / 64)).bind fun u => u.2[a % 64]?).getD 0

/-- The uncorrectable words that a set holds. -/
def savedBad (d : SaveData) : List Nat := d.pages.flatMap fun p => p.flatMap (·.bad)

end Sys2Proof.Machine
end

