-- ==== Sys2Proof/Machine/SetMove.lean ====
section
/-!
DEFINITION. Machine/SetMove.lean: page sets through the save chain: SAVEC, RESTC and compaction's moves (spec/11 R246,
R247; spec/12 R272 to R274; spec/15 R343 to R345).
-/
namespace Sys2Proof.Machine

/-! ### What a set holds (R344) -/

/-- An engine lies on a page of a set. -/
def engInSet (pkg : Nat) (g : Graph) (e : Eng) : Bool := decide (e.pkg = pkg) && onPage e && inSet g e.die e.page

/-- What an engine holds of a set beside its operator slots' own fields: everything on its pages, its slots of a die-edge
engine. Tokens still on their way to the engine stand in its freeze buffer. -/
def sliceEng (s : State) (g : Graph) (e : Eng) (x : Engine) : Engine :=
  let mine := slotOf g e
  let coming := s.inFlight.filter fun t => decide (t.dst.eng = e) && mine t.dst.slot
  { rows := x.rows.filter fun q => mine q.slot
    spills := if onPage e then x.spills else 0
    refills := if onPage e then x.refills else 0
    fault := x.fault.filter fun a => mine a.slot
    freeze := x.freeze.filter (fun t => mine t.dst.slot) ++ coming
    ingress := x.ingress.filter fun t => mine t.dst.slot
    ready := x.ready.filter fun a => mine a.slot
    flow := x.flow.filter fun a => mine a.slot
    unit := x.unit.filter fun a => mine a.slot
    run := x.run.filter fun u => mine u.act.slot
    wload := x.wload.filter fun u => mine u.act.slot
    u := if onPage e then x.u else 0
    cycles := if onPage e then x.cycles else 0
    epoch := if onPage e then x.epoch else 0
    blocked := if onPage e then x.blocked else none }

/-- The timer entries of a graph's operators: die and entry, in the order in which they were entered. -/
def setTimers (s : State) (pkg : Nat) (g : Graph) : List (Nat × TimerEnt) :=
  (s.wheels.filter fun w => decide (w.1.1 = pkg)).flatMap fun w =>
    (sortBy (fun a b => decide (a.order ≤ b.order)) (w.2.ents.filter fun t => match t.what with
      | .trigger e slot _ => slotOf g e slot
      | .timer e tok => slotOf g e tok.dst.slot
      | .twset _ _ => false)).map fun t => (w.1.2, t)

/-- The page that stands at place k of a set, in set order: die and page. -/
def pageAt (g : Graph) (k : Nat) : Nat × Nat :=
  let r := (g.reloc[k / (g.prows * g.pcols)]?).getD (0, 0, 0)
  (r.1, (r.2.1 + k / g.pcols % g.prows) * 4 + r.2.2 + k % g.pcols)

/-- Unit u of each bank of a memory tile lies in a channel ring (R318). -/
def inRing (s : State) (mt : Eng) (u : Nat) : Bool :=
  s.chans.any fun c => decide (c.2.state ≠ 0) && decide ((⟨c.1.1, c.1.2.1, c.2.rpage, 12 + c.2.rmt⟩ : Eng) = mt) &&
    decide (c.2.roff ≤ u) && decide (u < c.2.roff + 2 ^ (c.2.glog + 2))

/-- The units of a memory tile that an image saves, by their addresses / 64: every one of its sixteen banks outside the
channel rings (R344). -/
def savedUnits (s : State) (mt : Eng) : List Nat :=
  let base := l0Addr mt.pkg mt.die mt.page (mt.elem - 12) 0 0 / 64
  let us := (List.range 1024).filter fun u => !inRing s mt u
  (List.range 16).flatMap fun b => us.map fun u => base + 1024 * b + u

/-- An address of the L0 memory lies in a memory tile, outside its channel rings. -/
def savedHere (s : State) (mt : Eng) (a : Nat) : Bool :=
  decide (a / 2 ^ 20 = l0Addr mt.pkg mt.die mt.page (mt.elem - 12) 0 0 / 2 ^ 20) && !inRing s mt (a / 64 % 1024)

/-- An element of a page of a set (R344). -/
def saveElem (s : State) (g : Graph) (e : Eng) : SaveElem :=
  let mt := decide (12 ≤ e.elem ∧ e.elem ≤ 19)
  { eng := e
    core := (tfind e s.engines).map (sliceEng s g e)
    vt := tfind e s.vtiles
    isl := tfind e s.islands
    units := if mt then (savedUnits s e).map fun u => (u, memRead s.l0 (64 * u) 64) else []
    bad := if mt then (s.eccL0.filter fun w => savedHere s e (w.1 * 8) && eccBad s true w.1).map (·.1) else [] }

/-- Everything a set holds. -/
def saveSet (s : State) (key : Nat × Nat) (g : Graph) : SaveData :=
  let es := s.engines.filter fun x => engInSet key.1 g x.1 || g.ops.any fun o => decide (o.eng = x.1)
  { key := key
    graph := g
    launches := (s.launches.filter fun l => decide (l.1.1 = key.1) && decide (l.2.record.graph = key.2)).map fun l => (l.1.2, l.2)
    slots := es.flatMap fun x => (x.2.slots.filter fun q => slotOf g x.1 q.1).map fun q => ((x.1, q.1), q.2)
    entries := es.flatMap fun x => (x.2.entries.filter fun q => slotOf g x.1 q.1.1).map fun q => ((x.1, q.1), q.2)
    tiles := s.tiles.filter fun t => decide (t.1.pkg = key.1) && inSet g t.1.die (t.1.handle / 4096)
    timers := setTimers s key.1 g
    chans := g.chans.map fun c => (c, getChan s (key.1, c.1, c.2))
    waits := s.allocWait.filter fun w => slotOf g w.eng w.slot
    sources := s.sources.filter fun x => decide (x.pkg = key.1) && decide (x.graph = key.2)
    edge := (es.filter fun x => !onPage x.1).map fun x => (x.1, sliceEng s g x.1 x.2)
    xunits := s.xunits.filter fun u => slotOf g u.eng u.slot
    pages := (List.range (setPages g)).map fun k =>
      (List.range 22).map fun el => saveElem s g ⟨key.1, (pageAt g k).1, (pageAt g k).2, el⟩ }

/-- Nothing of a set is on its way: counts to apply, reads to retire, chunks to write, transfers. -/
def setQuiet (s : State) (key : Nat × Nat) (g : Graph) : Bool :=
  let mine := fun id : TileId => decide (id.pkg = key.1) && inSet g id.die (id.handle / 4096)
  !(s.updates.any fun u => decide (u.key.pkg = key.1) && decide (u.key.graph = key.2)) &&
    !(s.retires.any fun r => mine r.tile) && !(s.chunkWrites.any fun w => mine w.tile)

/-! ### The new coordinates (R271, R274, R345) -/

/-- A set before and after it moves: its operators keep their entry indices. -/
structure Remap where
  old : Graph
  new : Graph
  pkg : Nat
  key : Nat × Nat

/-- The page that a page of the set becomes: die and page. -/
def pageTo (old new : Graph) (die page : Nat) : Option (Nat × Nat) :=
  (old.reloc.zip new.reloc).findSome? fun p =>
    let a := p.1
    let b := p.2
    if a.1 = die ∧ a.2.1 ≤ page / 4 ∧ page / 4 < a.2.1 + old.prows ∧ a.2.2 ≤ page % 4 ∧ page % 4 < a.2.2 + old.pcols then
      some (b.1, (page / 4 - a.2.1 + b.2.1) * 4 + (page % 4 - a.2.2 + b.2.2))
    else none

/-- The engine that an engine of the set becomes: on its page, or the same die-edge engine of the new die. -/
def engTo (m : Remap) (e : Eng) : Eng :=
  if onPage e then
    match pageTo m.old m.new e.die e.page with
    | some p => ⟨m.key.1, p.1, p.2, e.elem⟩
    | none => e
  else
    match (m.old.reloc.zip m.new.reloc).find? fun p => decide (p.1.1 = e.die) with
    | some p => ⟨m.key.1, p.2.1, e.page, e.elem⟩
    | none => e

/-- The operator that stood at a place, before and after. -/
def opTo (m : Remap) (e : Eng) (slot : Nat) : Option (Op × Op) :=
  (m.old.ops.findIdx? fun o => decide (o.eng = e) && decide (o.slot = slot)).bind fun i =>
    match m.old.ops[i]?, m.new.ops[i]? with
    | some a, some b => some (a, b)
    | _, _ => none

/-- A coordinate after the move. -/
def coordTo (m : Remap) (c : Coord) : Coord :=
  match opTo m c.eng c.slot with
  | some o => { c with eng := o.2.eng, slot := o.2.slot }
  | none => c

/-- A tile after the move. -/
def tileTo (m : Remap) (id : TileId) : TileId :=
  if id.pkg ≠ m.pkg then id
  else match pageTo m.old m.new id.die (id.handle / 4096) with
    | some p => { pkg := m.key.1, die := p.1, handle := p.2 * 4096 + id.handle % 4096 }
    | none => id

/-- A token after the move: its coordinates and the handle it carries. -/
def tokTo (m : Remap) (t : Token) : Token :=
  let id := tileTo m (tokTile t)
  let v := t.opw.toNat
  let a := coordTo m t.src
  let b := coordTo m t.dst
  { t with dst := b, src := a, path := if a.eng.pkg = b.eng.pkg then pathInPackage a.eng b.eng else t.path,
           opw := if t.kind = 1 then BitVec.ofNat 128 (v / 2 ^ 18 * 2 ^ 18 + id.handle + id.die * 2 ^ 16) else t.opw }

/-- A slot and a virtual row after the move. -/
def rowTo (m : Remap) (e : Eng) (slot vrow : Nat) : Nat × Nat :=
  match opTo m e slot with
  | some o => (o.2.slot, vrow - o.1.frame + o.2.frame)
  | none => (slot, vrow)

/-- An activation after the move. -/
def actTo (m : Remap) (e : Eng) (a : Act) : Act :=
  let r := rowTo m e a.slot a.vrow
  { a with slot := r.1, vrow := r.2, dests := a.dests.map (tileTo m) }

/-- An activation in progress after the move. -/
def runTo (m : Remap) (e : Eng) (u : Run) : Run :=
  { u with act := actTo m e u.act, toks := u.toks.map (tokTo m), dests := u.dests.map (tileTo m),
           extra := u.extra.map (tokTo m) }

/-- What an engine holds, after the move. -/
def engineTo (m : Remap) (e : Eng) (x : Engine) : Engine :=
  { x with
    rows := x.rows.map fun q =>
      let r := rowTo m e q.slot q.vrow
      { q with slot := r.1, vrow := r.2, l := q.l.map (tokTo m), r := q.r.map (tokTo m), p := q.p.map (tokTo m) }
    fault := x.fault.map fun a =>
      let r := rowTo m e a.slot a.vrow
      { a with tok := tokTo m a.tok, slot := r.1, vrow := r.2 }
    freeze := x.freeze.map (tokTo m)
    ingress := x.ingress.map (tokTo m)
    ready := x.ready.map (actTo m e)
    flow := x.flow.map (actTo m e)
    unit := x.unit.map (actTo m e)
    run := x.run.map (runTo m e)
    wload := x.wload.map (runTo m e)
    ovf := false }

/-- A 22-bit destination entry with the new slot of its operator (R94): its offsets from the set origin stay. -/
def entryTo (m : Remap) (c : Nat) : Nat :=
  let d := entryCoord m.pkg m.old c
  match opTo m d.eng d.slot with
  | some p => if bit c 21 then c - bits c 7 2 * 4 + p.2.slot * 4 else c
  | none => c

/-- A CALL's configuration with the new slots of its lead and destinations (R124). -/
def callTo (m : Remap) (o : Op) (w : Nat) : Nat :=
  let lead := ((opTo m o.eng (bits w 21 16)).map (·.2.slot)).getD (bits w 21 16)
  let w := w - bits w 21 16 * 2 ^ 16 + lead * 2 ^ 16
  (List.range 4).foldl (fun w k =>
    let c := bits w (22 * k + 45) (22 * k + 24)
    w - c * 2 ^ (22 * k + 24) + entryTo m c * 2 ^ (22 * k + 24)) w

/-- A colour key of the set after the move. -/
def keyTo (m : Remap) (k : ColKey) : ColKey := { k with pkg := m.key.1, graph := m.key.2 }

/-- A region after the move. -/
def regionTo (m : Remap) (r : Region) : Region :=
  { r with
    recs := r.recs.map fun c =>
      { c with hold := c.hold.map (keyTo m), closer := c.closer.map fun x => ((engTo m x.1), (rowTo m x.1 x.2 0).1) }
    draws := r.draws.map fun d =>
      let q := rowTo m d.eng d.slot d.vrow
      { d with eng := engTo m d.eng, slot := q.1, vrow := q.2 }
    links := r.links.map fun l => (l.1, { l.2 with dest := l.2.dest.map (entryTo m) }) }

/-- A containment record after the move. -/
def contTo (m : Remap) (c : Cont) : Cont :=
  { c with insts := c.insts.map fun i =>
      (i.1, { i.2 with kl := i.2.kl.map (tokTo m), kr := i.2.kr.map (tokTo m), bad := coordTo m i.2.bad }) }

/-- The graph after the move. -/
def graphTo (m : Remap) : Graph :=
  { m.new with
    ops := (m.old.ops.zip m.new.ops).map fun p =>
      { p.2 with cons := p.1.cons.map (fun c => { c with dst := coordTo m c.dst }), disp := p.1.disp.map (tileTo m),
                 cfg := if opKind p.1 = 0x07 then p.1.cfg.map fun w => BitVec.ofNat 256 (callTo m p.1 w.toNat) else p.1.cfg }
    regions := m.old.regions.map (regionTo m)
    tiles := m.old.tiles.map fun t => { t with tile := tileTo m t.tile }
    conts := m.old.conts.map (contTo m) }

/-- What a timer entry does, after the move. -/
def whatTo (m : Remap) (w : TimerWhat) : TimerWhat :=
  match w with
  | .timer e t => .timer (engTo m e) (tokTo m t)
  | .trigger e slot vrow => let r := rowTo m e slot vrow; .trigger (engTo m e) r.1 r.2
  | w => w

/-! ### Placing a set (R272, R273, R294, R345) -/

/-- Give a saved operator its slot and frame: its own on a page; on a die-edge engine what is free there. -/
def placeSaved (s : State) (m : Remap) (done : List Op) (o : Op) : Option Op :=
  let e := engTo m o.eng
  if onPage e then some { o with eng := e }
  else
    let others := opsOn s e
    let here := done.filter fun p => decide (p.eng = e)
    let slots := others.map (fun p => p.2.slot) ++ here.map (·.slot)
    let frames := others.map (fun p => (p.2.frame, frameRows p.1.regions p.2)) ++
      here.map fun p => (p.frame, frameRows m.old.regions p)
    let n := frameRows m.old.regions o
    let slot := if slots.contains o.slot then leastBelow 64 fun k => !slots.contains k else some o.slot
    let starts := 0 :: frames.map fun u => u.1 + u.2
    let frame := (starts.filter fun b => frameFree frames b n).foldl
      (fun (x : Option Nat) b => match x with | none => some b | some y => some (Nat.min y b)) none
    match slot, frame with
    | some k, some b => some { o with eng := e, slot := k, frame := b }
    | _, _ => none

/-- Place every operator in order. -/
def placeAllSaved (s : State) (m : Remap) : List Op → List Op → Option (List Op)
  | [], done => some done
  | o :: os, done => match placeSaved s m done o with
    | none => none
    | some p => placeAllSaved s m os (done ++ [p])

/-- Units of a scratchpad image go from their old addresses to their new ones, with their uncorrectable words. -/
def restoreUnits (d : SaveData) (old new : Nat → Nat) (n : Nat) (s : State) : State :=
  (List.range n).foldl (fun s u =>
    let s := writeUnit s true (new (64 * u)) ((List.range 64).map fun i => savedByte d (old (64 * u + i)))
    (List.range 8).foldl (fun s w =>
      if (savedBad d).contains (old (64 * u + 8 * w) / 8) then setEcc s true (new (64 * u + 8 * w) / 8) .poison else s) s) s

/-- The delay lines of the set's SWINs take their new regions (R158). -/
def restoreLines (m : Remap) (d : SaveData) (s : State) : State :=
  (m.old.ops.zip m.new.ops).foldl (fun s p =>
    if opKind p.1 ≠ 0x15 then s
    else restoreUnits d (l0ByteAddr p.1.eng 0xFFFF p.1.lineOff) (l0ByteAddr p.2.eng 0xFFFF p.2.lineOff)
      (16 * 2 ^ (bits (opCfg p.1 0) 62 60 + 2)) s) s

/-- A tile entry of the set takes its place, its charge and its bytes; none when its memory tile has no room. -/
def restoreTile (m : Remap) (d : SaveData) (s : State) (x : TileId × Tile) : Option State :=
  let id := tileTo m x.1
  let t := x.2
  if t.state = 0 then some s
  else if t.level then some (setTile s id t)
  else match findUnits s (tileMt id) (cdiv (tileUnits t) 16) with
    | none => none
    | some o =>
      let t' := { t with off := o, bankmap := 0xFFFF }
      let s := charge (setTile s id t') id.pkg t.part t.agid (tileCharge t)
      some (restoreUnits d (l0ByteAddr (tileMt x.1) t.bankmap t.off) (l0ByteAddr (tileMt id) 0xFFFF o) (tileUnits t) s)

/-- Restore tiles one by one. -/
def restoreTiles (m : Remap) (d : SaveData) : List (TileId × Tile) → State → Option State
  | [], s => some s
  | x :: xs, s => match restoreTile m d s x with
    | none => none
    | some s => restoreTiles m d xs s

/-- Put a backed row's block back (R335); none when the pool has no block. -/
def restoreBlock (e : Eng) (s : State) (q : Row) : Option State :=
  let t := ((rowToks q).head?).getD {}
  let x := getEng s e
  match x.blocks.find? fun b => decide (b.part = t.part) && decide (b.vrows.length < 16) with
  | some b => some (setEng s e { x with blocks := x.blocks.map fun y => if y = b then { b with vrows := b.vrows ++ [q.vrow] } else y })
  | none =>
    let p := poolOf s e.pkg e.die t.part
    if p.blocks ≤ p.blocksUsed then none
    else
      let s := modPool (charge s e.pkg t.part t.agid 1024) e.pkg e.die t.part fun p => { p with blocksUsed := p.blocksUsed + 1 }
      some (modEng s e fun x => { x with blocks := x.blocks ++ [{ part := t.part, agid := t.agid, vrows := [q.vrow] }] })

/-- Blocks for every backed row. -/
def restoreBlocks (e : Eng) : List Row → State → Option State
  | [], s => some s
  | q :: qs, s => match restoreBlock e s q with
    | none => none
    | some s => restoreBlocks e qs s

/-- An engine takes back what it held. The arbiter's counts of a page's engine are the set's; those of a die-edge engine,
which others share, stay its own (R284, R286). A row whose physical row another set's row holds there takes a block
(R23, R25). -/
def joinEng (e : Eng) (a b : Engine) : Engine :=
  let c : Engine := if onPage e then b else a
  let rows := b.rows.map fun (q : Row) => { q with backed := q.backed || (!onPage e && (occupant a q.vrow).isSome) }
  { a with rows := a.rows ++ rows, fault := a.fault ++ b.fault, freeze := a.freeze ++ b.freeze, ingress := a.ingress ++ b.ingress,
           ready := a.ready ++ b.ready, flow := a.flow ++ b.flow, unit := a.unit ++ b.unit, run := a.run.orElse fun _ => b.run,
           wload := a.wload.orElse fun _ => b.wload,
           spills := a.spills + b.spills,
           refills := a.refills + b.refills, u := c.u, cycles := c.cycles, epoch := c.epoch,
           blocked := a.blocked.orElse fun _ => b.blocked }

/-- Restore engines one by one: no room where a fault record would pass 64 tokens, a freeze buffer 256, or a backed row
finds no block (R273, R336, R343). -/
def restoreEngs (m : Remap) : List (Eng × Engine) → State → Option State
  | [], s => some s
  | x :: xs, s =>
    let e := engTo m x.1
    let a := getEng s e
    let b := joinEng e a (engineTo m x.1 x.2)
    if 64 < b.fault.length ∨ 256 < b.freeze.length then none
    else match restoreBlocks e ((b.rows.drop a.rows.length).filter (·.backed)) (setEng s e b) with
      | none => none
      | some s => restoreEngs m xs s

/-- What a set holds of its engines. -/
def savedEngs (d : SaveData) : List (Eng × Engine) :=
  (d.pages.flatMap fun p => p.filterMap fun x => x.core.map fun c => (x.eng, c)) ++ d.edge

/-- Its operators' slots take back their fields. -/
def restoreSlots (m : Remap) (d : SaveData) (s : State) : State :=
  let s := d.slots.foldl (fun s x => modEng s (engTo m x.1.1) fun a =>
    { a with slots := tset (rowTo m x.1.1 x.1.2 0).1 x.2 a.slots }) s
  d.entries.foldl (fun s x => modEng s (engTo m x.1.1) fun a =>
    { a with entries := tset ((rowTo m x.1.1 x.1.2.1 0).1, x.1.2.2) x.2 a.entries }) s

/-- Restore the parts that need no room. -/
def restoreRest (m : Remap) (d : SaveData) (s : State) : State :=
  let els := d.pages.flatten
  let s := { restoreSlots m d s with
    vtiles := s.vtiles ++ els.filterMap fun x => x.vt.map fun v => (engTo m x.eng, v)
    islands := s.islands ++ els.filterMap fun x => x.isl.map fun v => (engTo m x.eng, v)
    allocWait := s.allocWait ++ d.waits.map fun w =>
      let r := rowTo m w.eng w.slot w.vrow
      { w with eng := engTo m w.eng, slot := r.1, vrow := r.2, held := false }
    sources := s.sources ++ d.sources.map fun x => { x with pkg := m.key.1, graph := m.key.2 } }
  let s := d.xunits.foldl (fun s u =>
    let (i, s) := fresh s
    let r := rowTo m u.eng u.slot u.vrow
    { s with xunits := s.xunits ++ [{ u with id := i, eng := engTo m u.eng, slot := r.1, vrow := r.2, tok := tokTo m u.tok,
                                             tok2 := u.tok2.map (tokTo m), dest := u.dest.map (tileTo m) }] }) s
  let s := d.launches.foldl (fun s l => setLaunch s (m.key.1, l.1) { l.2 with record := { l.2.record with graph := m.key.2 } }) s
  d.timers.foldl (fun s t =>
    let die := match whatTo m t.2.what with
      | .timer e _ => e.die
      | .trigger e _ _ => e.die
      | .twset _ _ => t.1
    addTimer s m.key.1 die t.2.due none (whatTo m t.2.what)) s

/-- The endpoints of a placed set's launches name its new operators (R274, R345). -/
def endsTo (m : Remap) (lids : List Nat) (s : State) : State :=
  let mine := fun (c : Coord) (l : Nat) => decide (c.eng.pkg = m.pkg) && lids.contains l && (opTo m c.eng c.slot).isSome
  let one := fun x : Endpoint => match x with
    | .op c l | .saved c l => if mine c l then Endpoint.op (coordTo m c) l else x
    | x => x
  { s with
    chans := tmap (fun _ c => { c with wep := one c.wep, rep := one c.rep }) s.chans
    groups := tmap (fun _ g => match (g.member.orElse fun _ => g.parked) with
      | some (c, l) => if mine c l then { g with member := some (coordTo m c, l), parked := none } else g
      | none => g) s.groups }

/-- Place a saved set at a relocation under a key, frozen: none when there is no room. -/
def restoreSet (s : State) (d : SaveData) (key : Nat × Nat) (reloc : List (Nat × Nat × Nat)) : Option State :=
  let g := { d.graph with reloc := reloc, moveTo := none, noRoom := false }
  let m0 : Remap := { old := d.graph, new := g, pkg := d.key.1, key := key }
  match placeAllSaved s m0 d.graph.ops [] with
  | none => none
  | some ops =>
    let m : Remap := { m0 with new := { g with ops := ops } }
    let g := graphTo m
    match reserveLines (setGraph s key g) key (List.range g.ops.length) with
    | none => none
    | some s =>
      let m : Remap := { m with new := (getGraph s key).getD g }
      match restoreTiles m d d.tiles (restoreLines m d s) with
      | none => none
      | some s => (restoreEngs m (savedEngs d) s).map fun s =>
        powerPages (endsTo m (d.launches.map (·.1)) (restoreRest m d s)) key.1 g true

/-- A page's engine when its set has left: its deferred-error log and what is still to be injected into it stay. -/
def stripEng (x : Engine) : Engine :=
  { log := x.log, logPos := x.logPos, logLost := x.logLost, stamps := x.stamps, served := x.served,
    arithErr := x.arithErr, dataErr := x.dataErr, gated := x.gated }

/-- Take a set off its pages and slots, with nothing of it given back. -/
def liftSet (s : State) (key : Nat × Nat) (g : Graph) : State :=
  let s := g.ops.foldl (fun s o => clearSlot s o.eng o.slot) s
  let s := (s.tiles.filter fun t => decide (t.1.pkg = key.1) && inSet g t.1.die (t.1.handle / 4096)).foldl (fun s t => freeTile s t.1) s
  let s := { s with
    vtiles := s.vtiles.filter fun v => !engInSet key.1 g v.1
    islands := s.islands.filter fun v => !engInSet key.1 g v.1
    engines := tmap (fun e x => if engInSet key.1 g e then stripEng x else x) s.engines
    inFlight := s.inFlight.filter fun t => !slotOf g t.dst.eng t.dst.slot
    allocWait := s.allocWait.filter fun w => !slotOf g w.eng w.slot
    xunits := s.xunits.filter fun u => !slotOf g u.eng u.slot
    sources := s.sources.filter fun x => !(decide (x.pkg = key.1) && decide (x.graph = key.2))
    graphs := tdel key s.graphs }
  powerPages (unloadGraph.modWheels s key.1 g) key.1 g false

/-! ### Compaction's moves (R274) -/

/-- The sets of a package whose moves are planned. -/
def planned (s : State) (pkg : Nat) : List ((Nat × Nat) × Graph × List (Nat × Nat × Nat)) :=
  s.graphs.filterMap fun g => if g.1.1 = pkg then g.2.moveTo.map fun r => (g.1, g.2, r) else none

/-- A set to be moved is at rest: every token addressed to it has landed. -/
def atRest (s : State) (key : Nat × Nat) (g : Graph) : Bool :=
  setQuiet s key g && freezeDone s key && !(s.inFlight.any fun t => slotOf g t.dst.eng t.dst.slot) &&
    !(s.engines.any fun x => (x.2.unit.any fun a => slotOf g x.1 a.slot) || (runs x.2).any fun u => slotOf g x.1 u.act.slot)

/-- Restore moved sets one by one. -/
def restoreMoved : List (SaveData × List (Nat × Nat × Nat)) → State → Option State
  | [], s => some s
  | x :: xs, s => match restoreSet s x.1 x.1.key x.2 with
    | none => none
    | some s => restoreMoved xs s

/-- PAGE_SET_MOVE (R274): once every planned set of the package is at rest, all are shifted to their new pages with every
handle and coordinate rewritten, and they run again. Sets that then find no room stay where they were (log 25). -/
def execPageSetMove (pkg graph : Nat) (s : State) : Out :=
  .next <|
    let ps := planned s pkg
    if !(ps.any fun p => decide (p.1.2 = graph)) ∨ !(ps.all fun p => atRest s p.1 p.2.1) then s
    else
      let ds := ps.map fun p => (saveSet s p.1 p.2.1, p.2.2)
      let s' := ps.foldl (fun s p => liftSet s p.1 p.2.1) s
      match restoreMoved ds s' with
      | some s => s
      | none => ps.foldl (fun s p => modGraph s p.1 fun g => { g with moveTo := none, noRoom := true }) s

/-! ### SAVEC (R246, R344) -/

/-- The image header's magic. -/
def saveMagic : Nat := 0x5653345A

/-- The header of a save image on a part of a given stepping, with a given digest. -/
def saveHeader (stepping : Nat) (d : SaveData) (size : Nat) (digest : List Byte) : List Byte :=
  let g := d.graph
  leBytes 4 saveMagic ++ leBytes 2 1 ++ leBytes 2 stepping ++
    leBytes 1 (g.nd - 1 + (g.prows - 1) * 4 + (g.pcols - 1) * 16) ++ leBytes 1 g.part ++ leBytes 2 d.launches.length ++
    leBytes 4 0 ++ leBytes 8 size ++ (List.range 4).flatMap (fun k => leBytes 4 (imageOffset d k)) ++ leBytes 8 0 ++
    digest ++ leBytes 48 0

/-- The image with the bytes of its digest given. -/
def imageWith (s : State) (d : SaveData) (digest : List Byte) : List Byte :=
  let body := imageBody d
  saveHeader (getPkg s d.key.1).stepping d (128 + body.length) digest ++ body

/-- The image with its digest (R344): SHAKE256 over the image with the digest's bytes zero. -/
def saveImage (s : State) (d : SaveData) : List Byte := imageWith s d (shake256 (imageWith s d (leBytes 32 0)) 32)

/-- An image's digest is that of the image with the digest's bytes zero (R344). -/
def digestOk (bs : List Byte) : Bool :=
  decide ((bs.drop 48).take 32 = shake256 (bs.take 48 ++ leBytes 32 0 ++ bs.drop 80) 32)

/-- SAVEC (R246). Its buffer is written after the thread's earlier accesses (R228, R304). -/
def execSavec (rd rs1 rs2 : RegNo) (s : State) : Out :=
  .next <|
    let h := (rs s rs1).toNat
    if asyncFull s ∨ moving s h then s
    else match graphArg s h with
      | .error w => asyncDone s rd w
      | .ok _ =>
        let key := (s.cur.pkg, h)
        let s := settleFreeze s key
        match getGraph s key with
        | none => s
        | some g =>
          if !g.frozen then asyncDone s rd (errWord 0x05)
          else if !setQuiet s key g then s
          else
            let d := saveSet s key g
            let bs := saveImage s d
            if !(savedBad d).isEmpty then asyncDone s rd (errWord 0x09)
            else if (rs s rd).toNat < bs.length then asyncDone s rd (errWord 0x03)
            else if devWaits s then s
            else match opRange s .write (rs s rs2) bs.length with
              | .error x => opTrap s x
              | .ok ps => asyncDone (setGraph (writePieces s bs ps) key { g with saved := true }) rd (okWord bs.length)

/-! ### RESTC (R247, R345) -/

/-- The checks of an image beside its digest, which is right or not: the failure, or what it holds. A field with the right digest
that is not what SAVEC writes there fails as a bad image (log 11). -/
def imageVerdict (s : State) (bs : List Byte) (digest : Bool) : Except Word SaveData :=
  let hdr := bs.take 128
  let pkg := s.cur.pkg
  let st := field hdr 6 2
  let body := bs.drop 128
  if st ≠ (getPkg s pkg).stepping then .error (errWord 0x08 st)
  else if field hdr 0 4 ≠ saveMagic ∨ field hdr 4 2 ≠ 1 ∨ !digest then .error (errWord 0x02)
  else if bit (field hdr 8 1) 6 ∨ bit (field hdr 8 1) 7 ∨ bit (field hdr 9 1) 5 ∨ bit (field hdr 9 1) 6 ∨ bit (field hdr 9 1) 7 ∨ field hdr 12 4 ≠ 0 ∨ field hdr 40 8 ≠ 0 ∨
      (hdr.drop 80).any (· ≠ 0) then .error (errWord 0x02)
  else match imageRead body with
    | none => .error (errWord 0x02)
    | some d =>
      if imageBody d ≠ body ∨ (saveHeader st d bs.length []).take 48 ≠ hdr.take 48 then .error (errWord 0x02)
      else if field hdr 9 1 ≠ curPart s ∨ d.graph.part ≠ curPart s then .error (errWord 0x0A)
      else if d.launches.any fun l => (getLaunch s (pkg, l.1)).isSome then .error (errWord 0x05)
      else if d.graph.tiles.any fun t => t.level && !sameDomain s pkg (gpaPkg t.back) then .error (errWord 0x05)
      else .ok d

/-- The checks of an image before anything is placed (R247, R344, R345). -/
def imageCheck (s : State) (bs : List Byte) : Except Word SaveData := imageVerdict s bs (digestOk bs)

/-- A channel record of a saved entry. -/
def chanRecSaved (c : Chan) : ChanRec := { name := c.name, rlog := c.rlog, glog := c.glog, cap := c.cap, grow := c.grow, ok := true }

/-- Place a checked image: the failure, or the state and its handle. -/
def restoreImage (s : State) (d : SaveData) (reloc : List (Nat × Nat × Nat)) : Except Word (State × Nat) :=
  let pkg := s.cur.pkg
  let die0 := ((reloc.head?).map (·.1)).getD 0
  match freeHandle s pkg with
  | none => .error (errWord 0x03)
  | some h => match restoreSet s { d with graph := { d.graph with frozen := true, freezing := false, saved := false } } (pkg, h) reloc with
    | none => .error (errWord 0x03)
    | some s1 =>
      match openChans pkg die0 d.graph.part (curThr s).agid h ((d.chans.map fun c => chanRecSaved c.2).zipIdx) s1 [] with
      | .error _ => .error (errWord 0x03)
      | .ok (s2, ks) =>
        .ok (modGraph s2 (pkg, h) fun g => { g with chans := ks }, h)

/-- RESTC (R247): async; the set is placed frozen, after compaction where that makes room. An uncorrectable error in writing a
page leaves nothing placed (R389). -/
def execRestc (rd rs1 : RegNo) (s : State) : Out :=
  .next <|
    if asyncFull s ∨ devWaits s then s
    else
      let va := rs s rs1
      match opRange s .read va 128 with
      | .error x => opTrap s x
      | .ok hp =>
        let n := Nat.max 128 (field (readPieces s hp).1 16 8)
        match opRange s .read va n with
        | .error x => opTrap s x
        | .ok ps =>
          let b := readPieces s ps
          if b.2.1 then asyncDone b.2.2 rd (errWord 0x09)
          else match imageCheck b.2.2 b.1 with
            | .error w => asyncDone b.2.2 rd w
            | .ok d =>
              let s := b.2.2
              let g := d.graph
              match place s s.graphs s.cur.pkg g.part g.nd g.prows g.pcols with
              | some r => match restoreImage (forgetRoom s s.cur.pkg) d r with
                | .error w => asyncDone (forgetRoom s s.cur.pkg) rd w
                | .ok (t, h) => match pageError (forgetRoom s s.cur.pkg) (relocPages s.cur.pkg g r) with
                  | some s => asyncDone s rd (errWord 0x09)
                  | none => asyncDone t rd (okWord h)
              | none => match compactFor s s.cur.pkg g.part g.nd g.prows g.pcols with
                | some s => s
                | none => asyncDone (forgetRoom s s.cur.pkg) rd (errWord 0x03)

end Sys2Proof.Machine
end

