-- ==== Sys2Proof/Machine/Readback.lean ====
section
/-!
DEFINITION. Machine/Readback.lean: the READ command (spec/19 R402, R435, R436). Where the spec gives an object's content
and no bit positions, Config.readLayout lays it out (log 12).
-/
namespace Sys2Proof.Machine

/-! ### Layouts -/

/-- A tile table entry (R31). -/
def tileNat (t : Tile) : Nat :=
  let place := if t.level then gpaLocal t.loc * 2 ^ 84 else t.off * 2 ^ 100 + t.bankmap * 2 ^ 84
  t.agid * 2 ^ 29 + t.olid * 2 ^ 41 + b2n t.pinned * 2 ^ 53 + b2n t.level * 2 ^ 54 + t.refs * 2 ^ 55 + t.state * 2 ^ 63 +
    t.fmt * 2 ^ 66 + (t.cols - 1) * 2 ^ 70 + (t.rows - 1) * 2 ^ 77 + place + t.cmap.toNat * 2 ^ 128

/-- cc_tid of a thread (R266). -/
def tidNat (t : Tid) : Nat := t.thr + 4 * t.die + 16 * t.pkg

/-- An endpoint of a channel (R316). -/
def endNat : Endpoint → Nat
  | .none => 0
  | .op c _ | .saved c _ => 2 ^ 39 + coordNat c
  | .thread t => 2 ^ 39 + 2 ^ 38 + tidNat t

/-- A channel table entry (R316). -/
def chanNat (c : Chan) : Nat :=
  let own := match c.ownerThread with
    | some t => 2 ^ 23 + tidNat t
    | none => c.ownerGraph
  c.rrec * 2 ^ 55 + c.wrec * 2 ^ 87 + c.grefs * 2 ^ 119 + own * 2 ^ 127 + endNat c.rep * 2 ^ 151 + endNat c.wep * 2 ^ 191 +
    c.scount * 2 ^ 231 + c.toff * 2 ^ 259 + c.hoff * 2 ^ 272 + c.sfree * 2 ^ 285 + c.stail * 2 ^ 309 + c.shead * 2 ^ 333 +
    c.gcount * 2 ^ 357 + c.nseg * 2 ^ 373 + c.cap * 2 ^ 389 + c.ri * 2 ^ 405 + c.wi * 2 ^ 420 + c.roff * 2 ^ 435 +
    c.rmt * 2 ^ 445 + c.rpage * 2 ^ 448 + b2n c.spl * 2 ^ 452 + b2n c.grow * 2 ^ 453 + c.glog * 2 ^ 454 + c.rlog * 2 ^ 457 +
    c.state * 2 ^ 461 + c.agid * 2 ^ 463 + c.part * 2 ^ 475 + c.name * 2 ^ 480

/-- A barrier table entry (R36). -/
def barNat (b : Barrier) : Nat :=
  b2n b.phase + 2 * b2n b.armed + 8 * b2n b.excess + b.arrived * 2 ^ 32 + b.expect * 2 ^ 48 + b.abytes * 2 ^ 64 +
    b.pend * 2 ^ 96

/-- A containment instance (R132). -/
def instNat (i : Inst) : Nat :=
  let w := fun t : Option Token => ((t.map fun u : Token => u.opw).getD 0).toNat
  i.state * 2 ^ 34 + i.tries * 2 ^ 36 + i.pend * 2 ^ 40 + i.key.toNat * 2 ^ 64 + w i.kl * 2 ^ 128 + w i.kr * 2 ^ 256

/-- A linkage slot (R124). -/
def linkNat (l : Option Linkage) : Nat :=
  match l with
  | none => 0
  | some l => 2 ^ 255 + l.tag.toNat * 2 ^ 128 +
      lsum ((l.dest.zipIdx).map fun d => d.1 * 2 ^ (22 * d.2))

/-- A profile record (R398). -/
def profileNat (x : SlotDyn) : Nat :=
  lsum ((x.bins.zipIdx).map fun b => b.1 * 2 ^ (32 * b.2)) + x.flags * 2 ^ 512 + x.spills * 2 ^ 544 + x.refills * 2 ^ 576 +
    x.fires * 2 ^ 608

/-- An island's status register (R148). -/
def islandNat (i : Island) : Nat :=
  let bank := fun (w : WBank) (lo : Nat) =>
    b2n w.valid * 2 ^ lo + b2n w.sc * 2 ^ (lo + 1) + w.fmt * 2 ^ (lo + 2) + (w.k - 1) * 2 ^ (lo + 6) + (w.n - 1) * 2 ^ (lo + 13)
  b2n i.act + 2 * b2n i.swp + 4 * b2n i.load + 8 * i.acls + i.bact * 2 ^ 8 + i.bidle * 2 ^ 16 + bank i.wb0 24 + bank i.wb1 44

/-- A bank's mode record (R385). -/
def modeNat (m : BankMode) : Nat := m.mode + m.ucount * 2 ^ 16 + m.ccount * 2 ^ 32 + m.wcount * 2 ^ 48

/-- A deferred-error log entry (R169). -/
def logNat (l : LogEntry) : Nat := l.lid + l.sector * 2 ^ 12 + l.slot * 2 ^ 58 + l.tag.toNat * 2 ^ 64

/-- A pending report in four doublewords (R436). -/
def reportDwords (r : Report) (ae : Bool) : List Nat :=
  [(causeWord { cause := r.cause, async := true, held := r.held } ae).toNat, r.tval.toNat, r.tinfo.toNat,
   r.tcoord % 2 ^ 38 + r.lid * 2 ^ 38]

/-- A control core thread (R436). An atomic is a load, whose result its register awaits. -/
def threadDwords (s : State) (t : Tid) : List Nat :=
  let th := getThr s t
  ((List.range 32).map fun k => (readReg th (BitVec.ofNat 5 k)).toNat) ++ [th.pc.toNat, th.sb.toNat] ++
    [b2n th.event + 2 * b2n th.halted + 4 * b2n th.stopped + 8 * b2n th.hard + th.asyncs.length * 2 ^ 8 +
      th.loads.length * 2 ^ 12 + (th.stores.filter fun x => !x.atomic).length * 2 ^ 20] ++
    ([0, 1, 2, 3, 4, 5, 6, 7, 0x10, 0x11, 0x12, 0x13, 0x14, 0x20].map fun c => (readCsr s t c).toNat) ++
    [th.pend.length] ++
    (List.range 16).flatMap fun k => ((th.pend[k]?).map fun r => reportDwords r th.ae).getD [0, 0, 0, 0]

/-- A relocation record (R436). -/
def relocDwords (h : Nat) (g : Graph) : List Nat :=
  [h + (g.nd - 1) * 2 ^ 8 + (g.prows - 1) * 2 ^ 10 + (g.pcols - 1) * 2 ^ 12,
   lsum ((g.reloc.zipIdx).map fun x => (x.1.1 + x.1.2.1 * 4 + x.1.2.2 * 16) * 2 ^ (8 * x.2))]

/-- A launch queue (R436). -/
def queueDwords (s : State) (pkg : Nat) (q : LaunchQ) : List Nat :=
  let ix := fun k : Nat => ((schedRead s pkg q.part (q.base.toNat + 8 * k) 8).map leNat).getD 0
  let recd := fun lid : Nat => match getLaunch s (pkg, lid) with
    | some l => (List.range 7).map (fun k => field (bytesOfRec l.record) (8 * k) 8) ++ [lid]
    | none => List.replicate 8 0
  [ix 0, ix 1, q.part + q.num * 2 ^ 5 + (q.log2 - 2) * 2 ^ 8 + q.window.length * 2 ^ 12] ++
    (List.range 16).flatMap fun k => match q.window[k]? with
      | some w => recd w.2
      | none => List.replicate 8 0

/-- A LID-table entry (R436). -/
def lidDwords (l : Option Launch) : List Nat :=
  match l with
  | none => [0, 0]
  | some l =>
    [1 + l.state * 2 + l.record.graph * 2 ^ 3 + l.part * 2 ^ 11 + l.queue * 2 ^ 16 + l.record.trap % 2 ^ 16 * 2 ^ 21 +
      l.record.agid * 2 ^ 37, l.status.toNat]

/-- Doublewords in bytes. -/
def dwords (l : List Nat) : List Byte := l.flatMap (leBytes 8)

/-! ### Objects -/

/-- What an index of READ comes to: a bit it may not have, no object, or an object with the partition that owns it (none:
the physical function's only) and its bytes. -/
inductive ReadRes where
  | bad
  | missing
  | obj (owner : Option Nat) (bs : List Byte)

/-- An object, if there is one. -/
def orMissing {α : Type} (x : Option α) (f : α → ReadRes) : ReadRes := match x with
  | some a => f a
  | none => .missing

/-- The partition of a launch. -/
def lidPart (s : State) (pkg lid : Nat) : Option Nat := (getLaunch s (pkg, lid)).map (·.part)

/-- The numbers of a token. -/
def tokenNumbers (t : Token) : List Nat :=
  [coordNat t.dst, coordNat t.src, t.tag.toNat, t.lid, t.part, t.agid, t.kind, t.opw.toNat, t.residue, b2n t.poison, b2n t.urg,
   b2n t.rply, t.path, t.milestone, t.seq, t.vc, t.hops, t.rsv]

/-- The entries of the directory (class 0x00): a kind, its numbers and its owner. -/
def directory (s : State) (pkg die : Nat) : List (List Nat × Nat) :=
  ((s.graphs.filter fun g => decide (g.1.1 = pkg)).map fun g => ([0, g.1.2], g.2.part)) ++
  ((s.launches.filter fun l => decide (l.1.1 = pkg)).map fun l => ([1, l.1.2], l.2.part)) ++
  ((s.chans.filter fun c => decide (c.1.1 = pkg) && decide (c.1.2.1 = die) && decide (c.2.state ≠ 0)).map fun c =>
    ([2, die, c.1.2.2], c.2.part)) ++
  (((List.range 32).filter fun p => (getPart s (pkg, p)).live).map fun p => ([3, p], p)) ++
  ((s.qmReports.filter fun q => decide (q.1.1 = pkg) && decide (q.1.2.1 = die)).map fun q =>
    ([4, die, q.1.2.2], (lidPart s pkg q.2.lid).getD 0))

/-- Timer entries of the wheel, or of the far list, of a die, in their order (R288, R289). -/
def timerList (s : State) (pkg die : Nat) (far : Bool) : List TimerEnt :=
  sortBy (fun a b =>
    if far then decide (a.order ≤ b.order) else decide (a.due < b.due) || (decide (a.due = b.due) && decide (a.order ≤ b.order)))
    ((getWheel s (pkg, die)).ents.filter fun u => u.far == far)

/-- The owner of a timer entry, and its numbers. -/
def timerNumbers (s : State) (u : TimerEnt) : Option Nat × List Nat :=
  match u.what with
  | .twset t d => (some (getThr s t).part, [u.due, u.handle.getD 0, tidNat t] ++ match d with
      | some x => [x.tag.toNat, x.lid, x.graph, b2n x.replace, b2n x.cl, x.op, x.value.toNat]
      | none => [])
  | .timer e t => (some t.part, [u.due, coordNat { eng := e, slot := t.dst.slot }, t.tag.toNat])
  | .trigger e k v => ((findOp s e k).map (·.g.part), [u.due, coordNat { eng := e, slot := k }, v])

/-- The freeze buffer of a page, or of a die-edge engine (R343). -/
def freezeOf (s : State) (e : Eng) : List Token :=
  if onPage e then (s.engines.filter fun x => onPage x.1 && decide (x.1.pkg = e.pkg) && decide (x.1.die = e.die) &&
    decide (x.1.page = e.page)).flatMap (·.2.freeze)
  else (getEng s e).freeze

/-- The owner of an element: of its page; a die-edge engine has none. -/
def elemOwner (s : State) (e : Eng) : Option Nat := if onPage e then some (pageOwnerOf s e.pkg e.die e.page) else none

/-- A memory-tile bank unit or a bank's mode record (R435 class 0x0B). -/
def readBank (s : State) (e : Eng) (bank unit : Nat) : ReadRes :=
  let b : BankId := .l0 e.pkg e.die e.page (e.elem - 12) bank
  if unit = 0x7FF then .obj (elemOwner s e) (leBytes 8 (modeNat (getMode s b)))
  else if 1024 ≤ unit then .missing
  else .obj (elemOwner s e) (memRead s.l0 (l0Addr e.pkg e.die e.page (e.elem - 12) bank (unit * 64)) 64)

/-- Fault record, QM report and deferred-error log (class 0x10). The count of lost entries follows an entry of the log and its
partition (R169; log 12). -/
def readFault (s : State) (pkg die idx : Nat) : ReadRes :=
  let e : Eng := ⟨pkg, die, bits idx 10 7, bits idx 6 2⟩
  let n := bits idx 16 11
  match idx % 4 with
  | 0 => if 2 ^ 17 ≤ idx then .bad else orMissing ((getEng s e).fault[n]?) fun a =>
      .obj (lidPart s pkg a.tok.lid) (leBytes 64 (entryBits a.tok.tag e a.slot a.tok.lid 1 0 a.why 0 0).toNat)
  | 1 => if 2 ^ 27 ≤ idx then .bad else if e ≠ qmEng pkg die then .missing else
      orMissing (tfind (pkg, die, n) s.qmReports) fun q => orMissing (q.entries[bits idx 26 17]?) fun x => .obj (lidPart s pkg q.lid) (leBytes 64 x.toNat)
  | 2 => if 2 ^ 17 ≤ idx then .bad else if (e.elem ≠ 24 ∧ e.elem ≠ 27) ∨ !engExists e then .missing else
      let l := (tfind n (getEng s e).log).getD {}
      .obj (some l.part) (leBytes 16 (logNat l) ++ leBytes 8 l.part ++ leBytes 8 (getEng s e).logLost)
  | _ => .missing

/-- Stop entry, trace configuration, watch filter and break bit (class 0x12). -/
def readDebug (s : State) (pkg die idx : Nat) : ReadRes :=
  match idx % 4 with
  | 0 => if 256 ≤ idx then .bad else
      let v := (getStop s (pkg, idx / 4)).toNat
      .obj (some (bits v 52 48)) (leBytes 32 v)
  | 1 => if 128 ≤ idx then .bad else
      let c := getTraceCfg s (pkg, die, idx / 4)
      .obj (some (idx / 4)) (Config.readLayout 0x12 [1, c.base, c.size, b2n c.stopFull, c.mask, c.wi, c.lost])
  | 2 =>
    let e : Eng := ⟨pkg, die, bits idx 10 7, bits idx 6 2⟩
    if 2048 ≤ idx then .bad
    else if (e.elem ≠ 28 ∧ e.elem ≠ 24) ∨ !engExists e then .missing
    else .obj none (Config.readLayout 0x12 [2, (getWatch s e).bits.toNat, (getWatch s e).ctl.toNat])
  | _ => if 2 ^ 14 ≤ idx then .bad else
      .obj (lidPart s pkg (idx / 4)) (Config.readLayout 0x12 [3, b2n (getBreak s (pkg, idx / 4))])

/-- A strait engine's credits, retry pair and terminal pair (class 0x17). The credits are those that it holds. -/
def readStrait (s : State) (pkg die idx q : Nat) : ReadRes :=
  let e : Eng := ⟨pkg, die, idx % 8, 25⟩
  let st := getStrait s e
  match bits idx 4 3 with
  | 0 => if 2 ^ 19 ≤ idx then .bad else
      .obj none (Config.readLayout 0x17 [0, heldCredit s (pkg, bits idx 18 17, bits idx 16 5)])
  | 1 => if 32 ≤ idx then .bad else
      let l := st.retry.filter fun r => decide (r.pkt.hdr.dst.eng.pkg = q)
      .obj none (Config.readLayout 0x17 [1, lsum (l.map fun r => pktFlits r.pkt), tget 0 q st.nextSeq])
  | 2 => if 32 ≤ idx then .bad else
      let t := tget {} ({ e with pkg := q }, pkg) st.term
      .obj none (Config.readLayout 0x17 ([2, t.e] ++ t.win.map fun p => p.hdr.seq))
  | _ => .missing

/-- The rest of the classes that a slot selector with slot zero names: 0x09, 0x0A, 0x0B, 0x0E, 0x16, 0x18, 0x19. -/
def readEngine (s : State) (cls : Nat) (e : Eng) (idx : Nat) : ReadRes :=
  if bits idx 5 0 ≠ 0 then .bad
  else if !engExists e then .missing
  else match cls with
    | 0x09 =>
      if 2 ^ 15 ≤ idx then .bad else if e.elem < 4 ∨ 11 < e.elem then .missing
      else
        let v := getVTile s e
        .obj (elemOwner s e) (Config.readLayout 0x09 ((List.range 32).map (fun k => (tget 0 k v.regs).toNat) ++
          (List.range 64).flatMap (fun k => [(tget {} (k / 16, k % 16) v.acc).val.toNat, (tget {} (k / 16, k % 16) v.acc).cnt]) ++
          (List.range 64).map (fun k => (tget 0 k v.flags).toNat) ++ [((getEng s e).run.map (·.step)).getD 0] ++
          (List.range 16).flatMap fun k => let x := tget {} k v.shapes; [x.e0, x.e1, x.e2, x.e3]))
    | 0x0A =>
      if 2 ^ 15 ≤ idx then .bad else if 3 < e.elem then .missing
      else
        let i := getIsland s e
        .obj (elemOwner s e) (leBytes 8 (islandNat i) ++ Config.readLayout 0x0A
          (i.wb0.data.map (·.toNat) ++ i.wb1.data.map (·.toNat) ++
            i.acc.flatMap fun a => [a.1.1, a.1.2, a.2.val.toNat, a.2.cnt]))
    | 0x0B =>
      if 2 ^ 30 ≤ idx then .bad else if e.elem < 12 ∨ 19 < e.elem then .missing
      else readBank s e (bits idx 18 15) (bits idx 29 19)
    | 0x0E =>
      if 2 ^ 23 ≤ idx then .bad
      else orMissing ((s.ranges.filter fun r => decide (r.owner = e))[bits idx 22 15]?) fun r =>
        .obj (lidPart s e.pkg r.lid) (Config.readLayout 0x0E ([b2n r.copy, r.lo, r.hi, r.lid, coordNat { eng := r.eng }] ++
          ((r.tile.map fun t => [t.die, t.handle]).getD []) ++ stampKey r.stamp))
    | 0x16 =>
      if 2 ^ 15 ≤ idx then .bad else
      let x := getEng s e
      .obj (elemOwner s e) (Config.readLayout 0x16 ([x.u] ++
        (List.range 64).flatMap fun k => let d := tget {} k x.slots; [(d.credit % 2 ^ 64).toNat, d.weight, d.occ]))
    | 0x18 =>
      if 2 ^ 23 ≤ idx then .bad
      else orMissing ((freezeOf s e)[bits idx 22 15]?) fun t =>
        .obj (elemOwner s e) (Config.readLayout 0x18 (tokenNumbers t))
    | _ =>
      if 2 ^ 25 ≤ idx then .bad
      else orMissing ((s.tlb.filter fun t => decide (t.eng = e))[bits idx 24 15]?) fun t =>
        .obj none (Config.readLayout 0x19 [t.part, t.vpage, t.bits, t.ent.toNat])

/-- Entry records, linkage slots and containment instances (class 0x04). -/
def readFlow (s : State) (pkg die idx : Nat) : ReadRes :=
  let e := selEng pkg die (bits idx 16 2)
  let row := bits idx 30 17
  match idx % 4 with
  | 0 => if 2 ^ 31 ≤ idx then .bad else orMissing (findOp s e (bits idx 7 2)) fun r =>
      let x := tfind (r.op.slot, row) (getEng s e).entries
      .obj (some r.g.part) (Config.readLayout 0x04 [0, b2n x.isSome, (x.getD {}).value, (x.getD {}).count])
  | 1 => if 2 ^ 26 ≤ idx then .bad else orMissing (getGraph s (pkg, bits idx 9 2)) fun g =>
      orMissing (g.regions[bits idx 17 10]?) fun r =>
        .obj (some g.part) (leBytes 32 (linkNat (tfind (bits idx 25 18) r.links)))
  | 2 => if 2 ^ 31 ≤ idx then .bad else orMissing (findOp s e (bits idx 7 2)) fun r =>
      orMissing ((r.g.conts.zipIdx).find? fun c => ((r.g.ops[c.1.copen]?).map fun o =>
        decide (o.eng = e) && decide (o.slot = r.op.slot)).getD false) fun c =>
          .obj (some r.g.part) (leBytes 48 (instNat (getInst r.g c.2 row)))
  | _ => .missing

/-- Launch queues and LID entries (class 0x11). -/
def readLaunch (s : State) (pkg idx : Nat) : ReadRes :=
  match idx % 4 with
  | 0 => if 128 ≤ idx then .bad else
      let q := getLaunchQ s (pkg, idx / 4)
      if q.set then .obj (some q.part) (dwords (queueDwords s pkg q)) else .missing
  | 1 => if 2 ^ 14 ≤ idx then .bad else .obj (lidPart s pkg (idx / 4)) (dwords (lidDwords (getLaunch s (pkg, idx / 4))))
  | _ => .missing

/-- The object that a class, die and index name, with the args beside the index (R435). -/
def readObj (s : State) (pkg fn : Nat) (cls die idx : Nat) (c : Cmd) : ReadRes :=
  match cls with
  | 0x00 =>
    if 2 ^ 16 ≤ idx then .bad
    else orMissing (((directory s pkg die).filter fun d => fn = 0 ∨ d.2 = fn)[idx]?) fun d =>
      .obj (some d.2) (Config.readLayout 0x00 d.1)
  | 0x01 =>
    if 2 ^ 29 ≤ idx then .bad else
    let e := selEng pkg die idx
    orMissing (findRow (getEng s e) (bits idx 5 0) (bits idx 28 15)) fun q =>
      .obj ((findOp s e (bits idx 5 0)).map (·.g.part)) (leBytes 64 (rowNat q))
  | 0x02 =>
    if 2 ^ 15 ≤ idx then .bad else
    let e := selEng pkg die idx
    orMissing (findOp s e (bits idx 5 0)) fun r =>
      .obj (some r.g.part) (leBytes 32 r.op.word.toNat ++ Config.readLayout 0x02 [r.op.frame] ++
        leBytes 80 (profileNat (tget {} (bits idx 5 0) (getEng s e).slots)))
  | 0x03 =>
    if 2 ^ 16 ≤ idx then .bad
    else orMissing (getGraph s (pkg, bits idx 7 0)) fun g =>
      orMissing (g.regions[bits idx 15 8]?) fun r => .obj (some g.part) (regionBytes r)
  | 0x04 => readFlow s pkg die idx
  | 0x05 =>
    if 2 ^ 16 ≤ idx then .bad
    else .obj (some (pageOwnerOf s pkg die (idx / 4096))) (leBytes 32 (tileNat (getTile s ⟨pkg, die, idx⟩)))
  | 0x06 =>
    if 2 ^ 12 ≤ idx then .bad
    else .obj (some (getChan s (pkg, die, idx)).part) (leBytes 64 (chanNat (getChan s (pkg, die, idx))))
  | 0x07 =>
    if 2 ^ 12 ≤ idx then .bad
    else .obj (some (barOwner s pkg die idx)) (leBytes 16 (barNat (getBar s (pkg, die, idx))))
  | 0x08 =>
    if 4 ≤ idx then .bad
    else .obj (some (getThr s ⟨pkg, die, idx⟩).part) (dwords (threadDwords s ⟨pkg, die, idx⟩))
  | 0x0C =>
    let e : Eng := ⟨pkg, die, bits idx 8 5, bits idx 4 0⟩
    if 2 ^ 9 ≤ idx then .bad
    else if !hasSlots e ∨ !engExists e then .missing
    else .obj none ((List.range 256).map fun k => BitVec.ofNat 8 (tget 0x40 k (getSlotTab s e).tab))
  | 0x0D =>
    let st := getStrait s ⟨pkg, die, idx % 8, 25⟩
    if 16 ≤ idx ∨ (if 8 ≤ idx then 1 else 2 ^ 38) ≤ arg c 16 8 then .bad
    else if 8 ≤ idx then .obj none (Config.readLayout 0x0D [st.milestone])
    else orMissing (st.table.find? fun r => decide (r.src = bits (arg c 16 8) 18 0) && decide (r.dst = bits (arg c 16 8) 37 19))
      fun r => .obj none (Config.readLayout 0x0D ([r.src, r.dst] ++ [r.set0, r.set1, r.set2, r.set3].flatMap fun x => [x.1, x.2]))
  | 0x0F =>
    if 2 ^ 8 ≤ idx then .bad
    else orMissing (getGraph s (pkg, idx)) fun g => .obj (some g.part) (dwords (relocDwords idx g))
  | 0x10 => readFault s pkg die idx
  | 0x11 => readLaunch s pkg idx
  | 0x12 => readDebug s pkg die idx
  | 0x13 =>
    if 2 ^ 8 ≤ idx then .bad
    else orMissing (getGraph (settleFreeze s (pkg, idx)) (pkg, idx)) fun g =>
      if !g.frozen then .missing
      else .obj (some g.part) (((saveImage s (saveSet s (pkg, idx) g)).drop (arg c 16 8)).take (arg c 24 4))
  | 0x14 =>
    if 2 ^ 17 ≤ idx then .bad
    else
      let q := getQuota s (pkg, idx / 2 ^ 12, idx % 2 ^ 12)
      .obj (some (idx / 2 ^ 12)) (Config.readLayout 0x14 [q.quota, q.usage, q.breaches])
  | 0x15 =>
    orMissing ((timerList s pkg die (bit idx 0))[idx / 2]?) fun u =>
      .obj (timerNumbers s u).1 (Config.readLayout 0x15 (timerNumbers s u).2)
  | 0x17 => if 2 ^ 19 ≤ arg c 16 3 then .bad else readStrait s pkg die idx (arg c 16 3)
  | 0x19 =>
    if !bit idx 31 then readEngine s 0x19 (selEng pkg die idx) idx
    else if 256 ≤ idx % 2 ^ 31 then .bad
    else orMissing ((walkers s pkg die)[idx % 2 ^ 31]?) fun w =>
      .obj none (Config.readLayout 0x19 [w.part, w.vpage, w.lvl, w.table])
  | 0x09 | 0x0A | 0x0B | 0x0E | 0x16 | 0x18 => readEngine s cls (selEng pkg die idx) idx
  | _ => .bad

/-- Classes of objects that only the physical function reads (R402). -/
def pfClasses : List Nat := [0x0C, 0x0D, 0x17, 0x19]

/-- The partition that the index of a READ names: of a trace configuration or of a quota table (R435). -/
def readPart (c : Cmd) : Option Nat :=
  match arg c 8 1 with
  | 0x12 => if arg c 12 4 % 4 = 1 ∧ arg c 12 4 < 128 then some (arg c 12 4 / 4) else none
  | 0x14 => if arg c 12 4 < 2 ^ 17 then some (arg c 12 4 / 2 ^ 12) else none
  | _ => none

/-- What a READ of a function comes to: the failure, or the object's bytes. -/
def readAnswer (s : State) (pkg fn : Nat) (c : Cmd) : Except Nat (List Byte) :=
  let cls := arg c 8 1
  if 3 < arg c 9 1 then .error 0x02
  else match readObj s pkg fn cls (arg c 9 1) (arg c 12 4) c with
    | .bad => .error 0x02
    | .missing => .error (if fn ≠ 0 ∧ pfClasses.contains cls then 0x0A else 0x04)
    | .obj owner bs => if fn ≠ 0 ∧ owner ≠ some fn then .error 0x0A else .ok bs

/-- READ (R402, R435, R436): the object goes to buf, and no state changes. One that names a partition of which it may read waits
for that partition's function-level reset (R407). -/
def execReadObject (pkg fn : Nat) (s : State) : Out :=
  .next <| runOp s pkg fn 0x40 fun c =>
    match readAnswer s pkg fn c with
    | .error e => cmdFail s e
    | .ok bs => if (readPart c).any (inFlr s pkg) then .wait s else cmdDone s bs

end Sys2Proof.Machine
end

