-- ==== Sys2Proof/Machine/Time.lean ====
section
/-!
DEFINITION. Machine/Time.lean: the passing of device time, and the events that it does not pass (spec/13 R288 to R290;
spec/15 R338, R339; spec/16 R357 to R359).
-/
namespace Sys2Proof.Machine

/-- The engines of a package that have a slot table (R357). -/
def slotted (pkg : Nat) : List Eng :=
  (List.range 4).flatMap fun d =>
    ((List.range 6).map fun k => ⟨pkg, d, k, 24⟩) ++ ((List.range 8).map fun k => ⟨pkg, d, k, 25⟩) ++
      (List.range 3).map fun k => ⟨pkg, d, k, 26⟩

/-- The slot of the present is to be granted at an engine: something waits for it there, at the slot's boundary. -/
def slotDue (s : State) (pkg : Nat) (e : Eng) : Bool :=
  decide ((getPkg s pkg).time % 32 = 0) && decide ((getSlotTab s e).slot ≠ (getPkg s pkg).time / 32 + 1) &&
    !(readyParts s e).isEmpty

/-- Slots are granted at their boundaries, while something waits for them (R359), and a new table takes effect at its frame
boundary (R358): the times that device time does not pass before that. -/
def slotStops (s : State) (pkg : Nat) : List Nat :=
  let t := (getPkg s pkg).time
  (slotted pkg).flatMap fun e =>
    (if slotDue s pkg e then [t] else if (readyParts s e).isEmpty then [] else [(t / 32 + 1) * 32]) ++
      if (getSlotTab s e).pending.isSome then [(getSlotTab s e).pendingFrame * 8192] else []

/-- The window of a gang has ended and its judging would do something (R339). -/
def windowDue (s : State) (pkg lid : Nat) : Bool :=
  let g := windowGang s pkg lid
  windowEnds s pkg g && (!(fullChans s pkg (g.map (·.1))).isEmpty ||
    (!(g.any fun m => m.2.episode) && (raiseAll pkg g s).isSome))

/-- Device time does not pass an event that is due at a time of its own before the event (R288, R338, R339, R358, R359): the
boundary of an entry that has not fired, the next sample of a launch that runs, the end of a gang's window, a slot boundary. -/
def timeStops (s : State) (pkg : Nat) : List Nat :=
  (s.wheels.filter fun w => decide (w.1.1 = pkg)).flatMap (fun w => (w.2.ents.filter fun x => !x.fire).map (·.bound)) ++
    ((s.launches.filter fun l => decide (l.1.1 = pkg) && decide (l.2.state = 1) &&
      ((getGraph s (pkg, l.2.record.graph)).map running).getD false).map fun l => l.2.sampled + 1000) ++
    ((s.launches.filter fun l => decide (l.1.1 = pkg) && windowDue s pkg l.1.2).map fun _ => (getPkg s pkg).time) ++
    slotStops s pkg

/-- DEVICE_TIME_STEP (R290): device time advances, as far as the next event that is due; it never runs backward. A forward
step of the servo by more than 1 ms passes such events. -/
def execDeviceTimeStep (pkg ns : Nat) (s : State) : Out :=
  .next <|
    let t := (getPkg s pkg).time
    if 10 ^ 6 < ns then
      let now := Nat.min (t + ns) (2 ^ 64 - 1)
      { modPkg s pkg fun p => { p with time := now } with
        wheels := tmap (fun k w => if k.1 = pkg then reboundEnts now w else w) s.wheels }
    else
      let lim := (timeStops s pkg).foldl Nat.min (2 ^ 64 - 1)
      modPkg s pkg fun p => { p with time := Nat.max t (Nat.min (t + ns) lim) }

end Sys2Proof.Machine
end

