-- ==== Sys2Proof/Machine/Dispatch.lean ====
section
/-!
DEFINITION. Machine/Dispatch.lean: one arm for each constructor of Instr.
-/
namespace Sys2Proof.Machine

def exec (i : Instr) (s : State) : Host.Outcome State Fault Refusal :=
  match i with
  | .tokenArrival e n => Sys2Proof.Machine.execTokenArrival e n s
  | .arbiterSelect e => Sys2Proof.Machine.execArbiterSelect e s
  | .arbiterReweight e => Sys2Proof.Machine.execArbiterReweight e s
  | .liveCountUpdate n => Sys2Proof.Machine.execLiveCountUpdate n s
  | .launchComplete pkg lid => Sys2Proof.Machine.execLaunchComplete pkg lid s
  | .source e n => Sys2Proof.Machine.execSource e n s
  | .sink e n => Sys2Proof.Machine.execSink e n s
  | .dup e n => Sys2Proof.Machine.execDup e n s
  | .enterOp e n => Sys2Proof.Machine.execEnterOp e n s
  | .nextOp e n => Sys2Proof.Machine.execNextOp e n s
  | .exitOp e n => Sys2Proof.Machine.execExitOp e n s
  | .callOp e n => Sys2Proof.Machine.execCallOp e n s
  | .retOp e n => Sys2Proof.Machine.execRetOp e n s
  | .gsteer e n => Sys2Proof.Machine.execGsteer e n s
  | .gmerge e n => Sys2Proof.Machine.execGmerge e n s
  | .triggerArrival e n => Sys2Proof.Machine.execTriggerArrival e n s
  | .triggerDeadline e slot vrow => Sys2Proof.Machine.execTriggerDeadline e slot vrow s
  | .bridge e n => Sys2Proof.Machine.execBridge e n s
  | .copen e n => Sys2Proof.Machine.execCopen e n s
  | .cclose e n => Sys2Proof.Machine.execCclose e n s
  | .containmentHeld pkg graph rec row => Sys2Proof.Machine.execContainmentHeld pkg graph rec row s
  | .timer e n => Sys2Proof.Machine.execTimer e n s
  | .timerExpiry pkg die n => Sys2Proof.Machine.execTimerExpiry pkg die n s
  | .vblockActivation e => Sys2Proof.Machine.execVblockActivation e s
  | .vblockStep e => Sys2Proof.Machine.execVblockStep e s
  | .vblockComplete e => Sys2Proof.Machine.execVblockComplete e s
  | .mmul e => Sys2Proof.Machine.execMmul e s
  | .wload e => Sys2Proof.Machine.execWload e s
  | .gather e => Sys2Proof.Machine.execGather e s
  | .repeatOp e => Sys2Proof.Machine.execRepeatOp e s
  | .swin e => Sys2Proof.Machine.execSwin e s
  | .transp e => Sys2Proof.Machine.execTransp e s
  | .conv e => Sys2Proof.Machine.execConv e s
  | .hload e n => Sys2Proof.Machine.execHload e n s
  | .hloadSectorReturn e n => Sys2Proof.Machine.execHloadSectorReturn e n s
  | .hstore e n => Sys2Proof.Machine.execHstore e n s
  | .hstoreComplete e n => Sys2Proof.Machine.execHstoreComplete e n s
  | .copy e n => Sys2Proof.Machine.execCopy e n s
  | .copyChunkAck pkg die n chunk => Sys2Proof.Machine.execCopyChunkAck pkg die n chunk s
  | .copyPacketTake pkg die q => Sys2Proof.Machine.execCopyPacketTake pkg die q s
  | .chw e n => Sys2Proof.Machine.execChw e n s
  | .chr e n => Sys2Proof.Machine.execChr e n s
  | .dispatch e n => Sys2Proof.Machine.execDispatch e n s
  | .dispatchCreditUpdate pkg die idx => Sys2Proof.Machine.execDispatchCreditUpdate pkg die idx s
  | .reduce e n => Sys2Proof.Machine.execReduce e n s
  | .reduceComplete group tag => Sys2Proof.Machine.execReduceComplete group tag s
  | .chunkWriteComplete n => Sys2Proof.Machine.execChunkWriteComplete n s
  | .tileReadRetire n => Sys2Proof.Machine.execTileReadRetire n s
  | .burstReceive e input chunk => Sys2Proof.Machine.execBurstReceive e input chunk s
  | .memoryTileRequest e bank => Sys2Proof.Machine.execMemoryTileRequest e bank s
  | .hbmSectorAccess e n => Sys2Proof.Machine.execHbmSectorAccess e n s
  | .pageWalk e part vpage => Sys2Proof.Machine.execPageWalk e part vpage s
  | .launchAccept pkg q => Sys2Proof.Machine.execLaunchAccept pkg q s
  | .launchEventPoll pkg q => Sys2Proof.Machine.execLaunchEventPoll pkg q s
  | .launchStart pkg => Sys2Proof.Machine.execLaunchStart pkg s
  | .streamCommandBegin e port slot => Sys2Proof.Machine.execStreamCommandBegin e port slot s
  | .streamCircuitSetup e port slot => Sys2Proof.Machine.execStreamCircuitSetup e port slot s
  | .streamCommandComplete e port slot => Sys2Proof.Machine.execStreamCommandComplete e port slot s
  | .timerWheelBoundary pkg die => Sys2Proof.Machine.execTimerWheelBoundary pkg die s
  | .twsetExpiry pkg die n => Sys2Proof.Machine.execTwsetExpiry pkg die n s
  | .farListMove pkg die => Sys2Proof.Machine.execFarListMove pkg die s
  | .deviceTimeStep pkg ns => Sys2Proof.Machine.execDeviceTimeStep pkg ns s
  | .qmSample pkg lid second => Sys2Proof.Machine.execQmSample pkg lid second s
  | .qmWindowEnd pkg lid => Sys2Proof.Machine.execQmWindowEnd pkg lid s
  | .pendingReportArrival n => Sys2Proof.Machine.execPendingReportArrival n s
  | .asyncTrapEntry t => Sys2Proof.Machine.execAsyncTrapEntry t s
  | .loadReturn t n => Sys2Proof.Machine.execLoadReturn t n s
  | .loadDataError t => Sys2Proof.Machine.execLoadDataError t s
  | .asyncCompletion t n => Sys2Proof.Machine.execAsyncCompletion t n s
  | .blockingWaitEnd t => Sys2Proof.Machine.execBlockingWaitEnd t s
  | .pageSetMove pkg graph => Sys2Proof.Machine.execPageSetMove pkg graph s
  | .slotBoundary e => Sys2Proof.Machine.execSlotBoundary e s
  | .linkFlitReceive e noise => Sys2Proof.Machine.execLinkFlitReceive e noise s
  | .linkDeath e lostLock => Sys2Proof.Machine.execLinkDeath e lostLock s
  | .milestoneChange pkg => Sys2Proof.Machine.execMilestoneChange pkg s
  | .milestoneAdopt e => Sys2Proof.Machine.execMilestoneAdopt e s
  | .packetArrival n => Sys2Proof.Machine.execPacketArrival n s
  | .terminalAccept n => Sys2Proof.Machine.execTerminalAccept n s
  | .ackReceive n => Sys2Proof.Machine.execAckReceive n s
  | .nackReceive n => Sys2Proof.Machine.execNackReceive n s
  | .retryTimeout e n => Sys2Proof.Machine.execRetryTimeout e n s
  | .chunkWrite n => Sys2Proof.Machine.execChunkWrite n s
  | .readResponse n => Sys2Proof.Machine.execReadResponse n s
  | .channelWrite n => Sys2Proof.Machine.execChannelWrite n s
  | .reduceContribution n => Sys2Proof.Machine.execReduceContribution n s
  | .hbmRead n => Sys2Proof.Machine.execHbmRead n s
  | .hbmWrite n => Sys2Proof.Machine.execHbmWrite n s
  | .hbmAtomic n => Sys2Proof.Machine.execHbmAtomic n s
  | .elementClockGate e => Sys2Proof.Machine.execElementClockGate e s
  | .elementWake e => Sys2Proof.Machine.execElementWake e s
  | .pagePowerGate pkg die page => Sys2Proof.Machine.execPagePowerGate pkg die page s
  | .scrubRead b word => Sys2Proof.Machine.execScrubRead b word s
  | .eccWindowExpiry b => Sys2Proof.Machine.execEccWindowExpiry b s
  | .bankConversion b => Sys2Proof.Machine.execBankConversion b s
  | .traceWrite pkg die part => Sys2Proof.Machine.execTraceWrite pkg die part s
  | .zbell pkg fn => Sys2Proof.Machine.execZbell pkg fn s
  | .zringWrite pkg fn v => Sys2Proof.Machine.execZringWrite pkg fn v s
  | .registerWrite pkg fn off v => Sys2Proof.Machine.execRegisterWrite pkg fn off v s
  | .bar2Access pkg fn off acc => Sys2Proof.Machine.execBar2Access pkg fn off acc s
  | .zcmdRingPoll pkg fn => Sys2Proof.Machine.execZcmdRingPoll pkg fn s
  | .ident pkg fn => Sys2Proof.Machine.execIdent pkg fn s
  | .attest pkg fn => Sys2Proof.Machine.execAttest pkg fn s
  | .fwstage pkg fn => Sys2Proof.Machine.execFwstage pkg fn s
  | .pcreate pkg fn => Sys2Proof.Machine.execPcreate pkg fn s
  | .pdestroy pkg fn => Sys2Proof.Machine.execPdestroy pkg fn s
  | .flr pkg fn => Sys2Proof.Machine.execFlr pkg fn s
  | .pgrant pkg fn => Sys2Proof.Machine.execPgrant pkg fn s
  | .aspace pkg fn => Sys2Proof.Machine.execAspace pkg fn s
  | .pools pkg fn => Sys2Proof.Machine.execPools pkg fn s
  | .faults pkg fn => Sys2Proof.Machine.execFaults pkg fn s
  | .slots pkg fn => Sys2Proof.Machine.execSlots pkg fn s
  | .lqset pkg fn => Sys2Proof.Machine.execLqset pkg fn s
  | .cqset pkg fn => Sys2Proof.Machine.execCqset pkg fn s
  | .routes pkg fn => Sys2Proof.Machine.execRoutes pkg fn s
  | .mstone pkg fn => Sys2Proof.Machine.execMstone pkg fn s
  | .rgroup pkg fn => Sys2Proof.Machine.execRgroup pkg fn s
  | .tlbinv pkg fn => Sys2Proof.Machine.execTlbinv pkg fn s
  | .readObject pkg fn => Sys2Proof.Machine.execReadObject pkg fn s
  | .dbgsetStopEntry pkg fn => Sys2Proof.Machine.execDbgsetStopEntry pkg fn s
  | .dbgsetTrace pkg fn => Sys2Proof.Machine.execDbgsetTrace pkg fn s
  | .dbgsetWatch pkg fn => Sys2Proof.Machine.execDbgsetWatch pkg fn s
  | .dbgsetBreakBit pkg fn => Sys2Proof.Machine.execDbgsetBreakBit pkg fn s
  | .dbgsetProfileClear pkg fn => Sys2Proof.Machine.execDbgsetProfileClear pkg fn s
  | .dbgsetLogEntry pkg fn => Sys2Proof.Machine.execDbgsetLogEntry pkg fn s
  | .threadNormalStop pkg fn => Sys2Proof.Machine.execThreadNormalStop pkg fn s
  | .threadHardStop pkg fn => Sys2Proof.Machine.execThreadHardStop pkg fn s
  | .threadResume pkg fn => Sys2Proof.Machine.execThreadResume pkg fn s
  | .threadRegisterWrite pkg fn => Sys2Proof.Machine.execThreadRegisterWrite pkg fn s
  | .scrub pkg fn => Sys2Proof.Machine.execScrub pkg fn s
  | .power pkg fn => Sys2Proof.Machine.execPower pkg fn s
  | .thermalThrottle pkg lower => Sys2Proof.Machine.execThermalThrottle pkg lower s
  | .thermalShutdown pkg => Sys2Proof.Machine.execThermalShutdown pkg s
  | .coldReset pkg => Sys2Proof.Machine.execColdReset pkg s
  | .add rd rs1 rs2 => Sys2Proof.Machine.execAdd rd rs1 rs2 s
  | .sub rd rs1 rs2 => Sys2Proof.Machine.execSub rd rs1 rs2 s
  | .and rd rs1 rs2 => Sys2Proof.Machine.execAnd rd rs1 rs2 s
  | .or rd rs1 rs2 => Sys2Proof.Machine.execOr rd rs1 rs2 s
  | .xor rd rs1 rs2 => Sys2Proof.Machine.execXor rd rs1 rs2 s
  | .shl rd rs1 rs2 => Sys2Proof.Machine.execShl rd rs1 rs2 s
  | .shr rd rs1 rs2 => Sys2Proof.Machine.execShr rd rs1 rs2 s
  | .sar rd rs1 rs2 => Sys2Proof.Machine.execSar rd rs1 rs2 s
  | .mul rd rs1 rs2 => Sys2Proof.Machine.execMul rd rs1 rs2 s
  | .mulh rd rs1 rs2 => Sys2Proof.Machine.execMulh rd rs1 rs2 s
  | .mulhn rd rs1 rs2 => Sys2Proof.Machine.execMulhn rd rs1 rs2 s
  | .div rd rs1 rs2 => Sys2Proof.Machine.execDiv rd rs1 rs2 s
  | .divn rd rs1 rs2 => Sys2Proof.Machine.execDivn rd rs1 rs2 s
  | .rem rd rs1 rs2 => Sys2Proof.Machine.execRem rd rs1 rs2 s
  | .remn rd rs1 rs2 => Sys2Proof.Machine.execRemn rd rs1 rs2 s
  | .min rd rs1 rs2 => Sys2Proof.Machine.execMin rd rs1 rs2 s
  | .max rd rs1 rs2 => Sys2Proof.Machine.execMax rd rs1 rs2 s
  | .minn rd rs1 rs2 => Sys2Proof.Machine.execMinn rd rs1 rs2 s
  | .maxn rd rs1 rs2 => Sys2Proof.Machine.execMaxn rd rs1 rs2 s
  | .slt rd rs1 rs2 => Sys2Proof.Machine.execSlt rd rs1 rs2 s
  | .sltn rd rs1 rs2 => Sys2Proof.Machine.execSltn rd rs1 rs2 s
  | .addi rd rs1 imm => Sys2Proof.Machine.execAddi rd rs1 imm s
  | .andi rd rs1 imm => Sys2Proof.Machine.execAndi rd rs1 imm s
  | .ori rd rs1 imm => Sys2Proof.Machine.execOri rd rs1 imm s
  | .xori rd rs1 imm => Sys2Proof.Machine.execXori rd rs1 imm s
  | .shli rd rs1 sh => Sys2Proof.Machine.execShli rd rs1 sh s
  | .shri rd rs1 sh => Sys2Proof.Machine.execShri rd rs1 sh s
  | .sari rd rs1 sh => Sys2Proof.Machine.execSari rd rs1 sh s
  | .lui rd imm => Sys2Proof.Machine.execLui rd imm s
  | .auip rd imm => Sys2Proof.Machine.execAuip rd imm s
  | .jal rd imm => Sys2Proof.Machine.execJal rd imm s
  | .jalr rd rs1 imm => Sys2Proof.Machine.execJalr rd rs1 imm s
  | .beq rs1 rs2 imm => Sys2Proof.Machine.execBeq rs1 rs2 imm s
  | .bne rs1 rs2 imm => Sys2Proof.Machine.execBne rs1 rs2 imm s
  | .blt rs1 rs2 imm => Sys2Proof.Machine.execBlt rs1 rs2 imm s
  | .bge rs1 rs2 imm => Sys2Proof.Machine.execBge rs1 rs2 imm s
  | .bltn rs1 rs2 imm => Sys2Proof.Machine.execBltn rs1 rs2 imm s
  | .bgen rs1 rs2 imm => Sys2Proof.Machine.execBgen rs1 rs2 imm s
  | .ld8 rd rs1 imm => Sys2Proof.Machine.execLd8 rd rs1 imm s
  | .ld8n rd rs1 imm => Sys2Proof.Machine.execLd8n rd rs1 imm s
  | .ld16 rd rs1 imm => Sys2Proof.Machine.execLd16 rd rs1 imm s
  | .ld16n rd rs1 imm => Sys2Proof.Machine.execLd16n rd rs1 imm s
  | .ld32 rd rs1 imm => Sys2Proof.Machine.execLd32 rd rs1 imm s
  | .ld32n rd rs1 imm => Sys2Proof.Machine.execLd32n rd rs1 imm s
  | .ld64 rd rs1 imm => Sys2Proof.Machine.execLd64 rd rs1 imm s
  | .st8 src rs1 imm => Sys2Proof.Machine.execSt8 src rs1 imm s
  | .st16 src rs1 imm => Sys2Proof.Machine.execSt16 src rs1 imm s
  | .st32 src rs1 imm => Sys2Proof.Machine.execSt32 src rs1 imm s
  | .st64 src rs1 imm => Sys2Proof.Machine.execSt64 src rs1 imm s
  | .amoadd rd rs1 rs2 ord => Sys2Proof.Machine.execAmoadd rd rs1 rs2 ord s
  | .amoand rd rs1 rs2 ord => Sys2Proof.Machine.execAmoand rd rs1 rs2 ord s
  | .amoor rd rs1 rs2 ord => Sys2Proof.Machine.execAmoor rd rs1 rs2 ord s
  | .amoxor rd rs1 rs2 ord => Sys2Proof.Machine.execAmoxor rd rs1 rs2 ord s
  | .amoswp rd rs1 rs2 ord => Sys2Proof.Machine.execAmoswp rd rs1 rs2 ord s
  | .amomin rd rs1 rs2 ord => Sys2Proof.Machine.execAmomin rd rs1 rs2 ord s
  | .amomax rd rs1 rs2 ord => Sys2Proof.Machine.execAmomax rd rs1 rs2 ord s
  | .amocas rd rs1 rs2 ord => Sys2Proof.Machine.execAmocas rd rs1 rs2 ord s
  | .amoinc rd rs1 rs2 ord => Sys2Proof.Machine.execAmoinc rd rs1 rs2 ord s
  | .fence sc => Sys2Proof.Machine.execFence sc s
  | .trap imm => Sys2Proof.Machine.execTrap imm s
  | .nop => Sys2Proof.Machine.execNop s
  | .halt => Sys2Proof.Machine.execHalt s
  | .eret => Sys2Proof.Machine.execEret s
  | .wfe => Sys2Proof.Machine.execWfe s
  | .sev rs1 => Sys2Proof.Machine.execSev rs1 s
  | .csrrd rd csr => Sys2Proof.Machine.execCsrrd rd csr s
  | .csrwr rs1 csr => Sys2Proof.Machine.execCsrwr rs1 csr s
  | .csrset rs1 csr => Sys2Proof.Machine.execCsrset rs1 csr s
  | .csrclr rs1 csr => Sys2Proof.Machine.execCsrclr rs1 csr s
  | .gload rd rs1 => Sys2Proof.Machine.execGload rd rs1 s
  | .gfree rd rs1 => Sys2Proof.Machine.execGfree rd rs1 s
  | .glaunch rd rs1 rs2 => Sys2Proof.Machine.execGlaunch rd rs1 rs2 s
  | .gkill rd rs1 => Sys2Proof.Machine.execGkill rd rs1 s
  | .inject rd rs1 => Sys2Proof.Machine.execInject rd rs1 s
  | .purge rd rs1 rs2 => Sys2Proof.Machine.execPurge rd rs1 rs2 s
  | .msread rd rs1 rs2 => Sys2Proof.Machine.execMsread rd rs1 rs2 s
  | .clread rd rs1 rs2 => Sys2Proof.Machine.execClread rd rs1 rs2 s
  | .freeze rd rs1 => Sys2Proof.Machine.execFreeze rd rs1 s
  | .thaw rd rs1 => Sys2Proof.Machine.execThaw rd rs1 s
  | .savec rd rs1 rs2 => Sys2Proof.Machine.execSavec rd rs1 rs2 s
  | .restc rd rs1 => Sys2Proof.Machine.execRestc rd rs1 s
  | .sbind rd rs1 rs2 => Sys2Proof.Machine.execSbind rd rs1 rs2 s
  | .sstart rd rs1 rs2 => Sys2Proof.Machine.execSstart rd rs1 rs2 s
  | .sbar rd rs1 => Sys2Proof.Machine.execSbar rd rs1 s
  | .cpyq rd rs1 rs2 => Sys2Proof.Machine.execCpyq rd rs1 rs2 s
  | .cpywait rd rs1 rs2 => Sys2Proof.Machine.execCpywait rd rs1 rs2 s
  | .bararm rs1 rs2 => Sys2Proof.Machine.execBararm rs1 rs2 s
  | .bararrive rs1 => Sys2Proof.Machine.execBararrive rs1 s
  | .barwait rd rs1 rs2 => Sys2Proof.Machine.execBarwait rd rs1 rs2 s
  | .chopen rd rs1 rs2 => Sys2Proof.Machine.execChopen rd rs1 rs2 s
  | .chwr rd rs1 rs2 => Sys2Proof.Machine.execChwr rd rs1 rs2 s
  | .chrd rd rs1 rs2 => Sys2Proof.Machine.execChrd rd rs1 rs2 s
  | .chtry rd rs1 rs2 => Sys2Proof.Machine.execChtry rd rs1 rs2 s
  | .chclose rd rs1 => Sys2Proof.Machine.execChclose rd rs1 s
  | .twset rd rs1 rs2 => Sys2Proof.Machine.execTwset rd rs1 rs2 s
  | .twclr rd rs1 => Sys2Proof.Machine.execTwclr rd rs1 s
  | .time rd => Sys2Proof.Machine.execTime rd s
  | .crgno rd rs1 => Sys2Proof.Machine.execCrgno rd rs1 s
  | .crgnc rd rs1 rs2 => Sys2Proof.Machine.execCrgnc rd rs1 rs2 s
  | .qset rd rs1 rs2 => Sys2Proof.Machine.execQset rd rs1 rs2 s
  | .qget rd rs1 rs2 => Sys2Proof.Machine.execQget rd rs1 rs2 s
  | .illegalInstruction w => Sys2Proof.Machine.execIllegalInstruction w s
  | .fetchFault why => Sys2Proof.Machine.execFetchFault why s
  | .writeAcknowledgement t n => Sys2Proof.Machine.execWriteAcknowledgement t n s

end Sys2Proof.Machine
end

