-- ==== Sys2Proof/Machine/World.lean ====
section
/-!
DEFINITION. Machine/World.lean: the turns of the physical world, the host and the board controller: errors of stored words and
of coded objects (spec/18 R378 to R389), host memory, the acknowledgement of listed pages (R386), and the management port
(spec/20 R414).
-/
namespace Sys2Proof.Machine

/-! ### Errors (R221, R385, R389) -/

/-- The instruction cache can no longer correct a word that it holds (R221). -/
def cacheError (s : State) (t : Tid) (va : Nat) : State := modThr s t fun th => { th with spoilt := va :: th.spoilt }

/-- The physical world flips a stored word's code state (R385). -/
def bitError (s : State) (w : Nat) (l0 : Bool) (e : Ecc) : State :=
  match e with
  | .single | .double | .triple => setEcc s l0 w e
  | _ => s

/-- An uncorrectable error in a record or a table entry is reported as silent-data for the launch that owns it, with both residue
fields 0 (R389). One that no launch owns goes to the partition's fault thread (log 150). -/
def tableError (s : State) (at_ : Coord) (part lid : Nat) : State :=
  raiseAt (noteFault s at_.eng.pkg lid 3) at_ part lid 0x0208 0 0

/-- The launch of an endpoint; 0 for a thread or none. -/
def endLid : Endpoint → Nat
  | .op _ l | .saved _ l => l
  | .none | .thread _ => 0

/-- An uncorrectable error in a matching-store row: its tokens are set aside with a silent-data report whose residue fields are 0
(R336, R389). A row whose operator has begun it holds nothing any more. -/
def rowError (s : State) (e : Eng) (vrow : Nat) : State :=
  match (getEng s e).rows.find? fun q => decide (q.vrow = vrow) with
  | none => s
  | some q => match findOp s e q.slot with
    | none => s
    | some r =>
      if (runs (getEng s e)).any (fun u => decide (u.act.slot = q.slot ∧ u.act.vrow = vrow)) ∨
          !faultRoom s e (rowToks q).length then s
      else opFault (takeRow s e q) r vrow (rowToks q) 0x0208 0

/-- An uncorrectable error after the commit (R389): in an operator word it blocks the element with that slot reported, as R101's
header does; in a row, record or table entry it is silent-data; in a page that is yet to be written it fails the next GLOAD or
RESTC there. The error is found at once (DESIGN CHOICE, log 150). -/
def codeError (s : State) : Coded → State
  | .opWord e slot =>
    if (findOp s e slot).isSome then
      modEng s e fun x => { x with blocked := x.blocked.orElse fun _ => some (slot * 128 + 0x7F) }
    else s
  | .row e vrow => rowError s e vrow
  | .colour k =>
    let c := getCol s k
    match (getGraph s (k.pkg, k.graph)).bind fun g => (homeOf g k.region).map fun o => (g, o) with
    | some (g, o) => if c.busy then tableError s (opCoord o) g.part c.lid else s
    | none => s
  | .tile id =>
    let t := getTile s id
    if t.state = 0 then s else tableError s { eng := tileMt id } t.part t.olid
  | .chan p d i =>
    let c := getChan s (p, d, i)
    if c.state = 0 then s
    else tableError s { eng := ⟨p, d, c.rpage, 12 + c.rmt⟩ } c.part (if endLid c.wep = 0 then endLid c.rep else endLid c.wep)
  | .slotTab e => if hasSlots e && engExists e then tableError s { eng := e } 0 0 else s
  | .page p d g => { s with badPages := (p, d, g) :: s.badPages }

/-! ### Adaptation: the host's acknowledgement (R386) -/

/-- A leaf whose page has 2^sz bytes maps one of a list of local 8 KiB pages of a package. -/
def leafCovers (home : Nat) (pages : List Nat) (e sz : Nat) : Bool :=
  let g := bits e 62 13 * 2 ^ 13
  decide (bits e 6 5 = 0) && decide (gpaPkg g = home) && pages.any fun k => decide (k * 8192 / 2 ^ sz = gpaLocal g / 2 ^ sz)

/-- A table of a level of a package maps one of a list of local pages of another (R349, R351). -/
def tableMaps (s : State) (pkg home : Nat) (pages : List Nat) : Nat → Nat → Bool
  | 0, t => (List.range 1024).any fun k =>
    let e := leNat (memRead s.hbm (gpa pkg (t + 8 * k)) 8)
    bit e 0 && bit e 1 && leafCovers home pages e 13
  | n + 1, t => (List.range 1024).any fun k =>
    let e := leNat (memRead s.hbm (gpa pkg (t + 8 * k)) 8)
    bit e 0 && (if bit e 1 then leafCovers home pages e (13 + 10 * (n + 1))
      else tableMaps s pkg home pages n (bits e 43 13 * 2 ^ 13))

/-- Some partition with a window maps a local page of a package (R349, R386). -/
def anyMaps (s : State) (home : Nat) (pages : List Nat) : Bool :=
  s.partitions.any fun p => p.2.live && decide (p.2.vbase < p.2.vlimit) && tableMaps s p.1.1 home pages 3 p.2.root

/-- The host acknowledges that no partition maps the listed pages of a pending bank; it cannot while one does (R386). -/
def ackPages (s : State) (b : BankId) : State :=
  let m := getMode s b
  if m.mode = 1 ∧ (m.listed.isEmpty ∨ !anyMaps s (bankPkg b) m.listed) then modMode s b fun m => { m with acked := true } else s

/-! ### The management port (R414) -/

/-- The board controller's request over MCTP: IDENT, ATTEST or a READ as the physical function's, answered at the port (log 150);
any other request is not answered. -/
def boardAsk (s : State) (pkg op : Nat) (args : List Byte) : State :=
  let c : Cmd := { op := op, args := args }
  let answer := fun (w : Word) (d : List Byte) => modPkg s pkg fun k => { k with board := some (w, d) }
  if (getPkg s pkg).off then s
  else match cmdRefusal 0 c with
    | some w => answer w []
    | none =>
      match op with
      | 0x01 => answer (okWord 0) (identityBlock s pkg)
      | 0x02 => answer (okWord 0) (signedReport s pkg args)
      | 0x40 => match readAnswer s pkg 0 c with
        | .ok d => answer (okWord 0) d
        | .error e => answer (errWord e) []
      | _ => s

/-! ### Turns -/

/-- A turn that no row of the opcode table names: the physical world, the host or the board controller acts. -/
def worldTurn (s : State) : Turn → State
  | .fetchAhead t va => fetchAhead s t va
  | .bitError a l0 e => bitError s a l0 e
  | .hostWrite a b => { s with hostMem := memPut s.hostMem a b }
  | .arithError e d => modEng s e fun x => { x with arithErr := some d }
  | .dataError e k => modEng s e fun x => { x with dataErr := some k }
  | .cacheError t va => cacheError s t va
  | .world p w c v => modPkg s p fun k => { k with powerW := w, tempC := c, inputV := v }
  | .cable a b => { s with cables := (a, b) :: s.cables }
  | .ackPages b => ackPages s b
  | .codeError o => codeError s o
  | .board p op args => boardAsk s p op args
  | .issue _ | .event _ => s

end Sys2Proof.Machine
end

