-- ==== Sys2Proof/Machine/Step.lean ====
section
/-!
DEFINITION. Machine/Step.lean: one step of the machine.
-/
namespace Sys2Proof.Machine

/-- Run one turn. -/
def runTurn (u : Turn) (s : State) : Host.Outcome State Fault Refusal :=
  if clocksOff s u then .fault .clocksStopped
  else match u with
    | .issue t =>
      match issueOf s t with
      | .wait s' => .next s'
      | .run i s' => exec i s'
    | .event i => if isStep i then exec i s else .next s
    | u => .next (worldTurn s u)

/-- One step: the turn at the head of the agenda, or the free schedule's choice. -/
def step (s : State) : Host.Outcome State Fault Refusal := runTurn (takeTurn s).1 (takeTurn s).2

/-- The state with an instruction word stored where the next step fetches it. -/
def State.withFetchWord (s : State) (nbits w : Nat) : State := placeWord s (tableBytes (w % 2 ^ nbits))

end Sys2Proof.Machine
end

