-- ==== Sys2Proof/Laws/Decode.lean ====
section
/-!
SUPPORT. Laws/Decode.lean: the fields of a packed word read back.
-/
namespace Sys2Proof.Laws

theorem extract_low {n m : Nat} (x : BitVec n) (y : BitVec m) (s l : Nat) (h : s + l ≤ m) :
    (x ++ y).extractLsb' s l = y.extractLsb' s l := by
  ext i hi; simp [BitVec.getLsbD_append]; omega

theorem extract_high {n m : Nat} (x : BitVec n) (y : BitVec m) (s l : Nat) (h : m ≤ s) :
    (x ++ y).extractLsb' s l = x.extractLsb' (s - m) l := by
  ext i hi
  simp only [BitVec.getElem_extractLsb', BitVec.getLsbD_append]
  rw [if_neg (by omega)]
  congr 1; omega

theorem extract_all {n : Nat} (x : BitVec n) : x.extractLsb' 0 n = x := by
  ext i hi; simp

section fields
variable (m : BitVec 6) (d a b : RegNo) (f : BitVec 11) (i : Imm16) (j : BitVec 21)

theorem fMaj_packR : fMaj (packR m d a b f) = m := by
  simp only [fMaj, packR]
  rw [extract_high _ f _ _ (by decide), extract_high _ b _ _ (by decide), extract_high _ a _ _ (by decide),
    extract_high m d _ _ (by decide)]
  exact extract_all m

theorem fD_packR : fD (packR m d a b f) = d := by
  simp only [fD, packR]
  rw [extract_high _ f _ _ (by decide), extract_high _ b _ _ (by decide), extract_high _ a _ _ (by decide),
    extract_low m d _ _ (by decide)]
  exact extract_all d

theorem fA_packR : fA (packR m d a b f) = a := by
  simp only [fA, packR]
  rw [extract_high _ f _ _ (by decide), extract_high _ b _ _ (by decide), extract_low _ a _ _ (by decide)]
  exact extract_all a

theorem fB_packR : fB (packR m d a b f) = b := by
  simp only [fB, packR]
  rw [extract_high _ f _ _ (by decide), extract_low _ b _ _ (by decide)]
  exact extract_all b

theorem fFn_packR : fFn (packR m d a b f) = f := by
  simp only [fFn, packR]
  rw [extract_low _ f _ _ (by decide)]
  exact extract_all f

theorem fMaj_packI : fMaj (packI m d a i) = m := by
  simp only [fMaj, packI]
  rw [extract_high _ i _ _ (by decide), extract_high _ a _ _ (by decide), extract_high m d _ _ (by decide)]
  exact extract_all m

theorem fD_packI : fD (packI m d a i) = d := by
  simp only [fD, packI]
  rw [extract_high _ i _ _ (by decide), extract_high _ a _ _ (by decide), extract_low m d _ _ (by decide)]
  exact extract_all d

theorem fA_packI : fA (packI m d a i) = a := by
  simp only [fA, packI]
  rw [extract_high _ i _ _ (by decide), extract_low _ a _ _ (by decide)]
  exact extract_all a

theorem fImm_packI : fImm (packI m d a i) = i := by
  simp only [fImm, packI]
  rw [extract_low _ i _ _ (by decide)]
  exact extract_all i

theorem fMaj_packJ : fMaj (packJ m d j) = m := by
  simp only [fMaj, packJ]
  rw [extract_high _ j _ _ (by decide), extract_high m d _ _ (by decide)]
  exact extract_all m

theorem fD_packJ : fD (packJ m d j) = d := by
  simp only [fD, packJ]
  rw [extract_high _ j _ _ (by decide), extract_low m d _ _ (by decide)]
  exact extract_all d

theorem fJ_packJ : fJ (packJ m d j) = j := by
  simp only [fJ, packJ]
  rw [extract_low _ j _ _ (by decide)]
  exact extract_all j

end fields

/-! The parts of an imm16 that holds a shift count or a control register. -/

theorem sh_top (sh : BitVec 6) : (0#10 ++ sh).extractLsb' 6 10 = 0#10 := by
  rw [extract_high _ sh _ _ (by decide)]; exact extract_all _

theorem sh_low (sh : BitVec 6) : (0#10 ++ sh).extractLsb' 0 6 = sh := by
  rw [extract_low _ sh _ _ (by decide)]; exact extract_all sh

theorem csr_top (k : BitVec 4) (c : BitVec 12) : (k ++ c).extractLsb' 14 2 = k.extractLsb' 2 2 :=
  extract_high _ c _ _ (by decide)

theorem csr_op (k : BitVec 4) (c : BitVec 12) : (k ++ c).extractLsb' 12 2 = k.extractLsb' 0 2 :=
  extract_high _ c _ _ (by decide)

theorem csr_num (k : BitVec 4) (c : BitVec 12) : (k ++ c).extractLsb' 0 12 = c := by
  rw [extract_low _ c _ _ (by decide)]; exact extract_all c

end Sys2Proof.Laws
end

