-- ==== Sys2Proof/Laws/PerInstr.lean ====
section
/-!
SUPPORT. Laws/PerInstr.lean: decoding undoes encoding, one lemma for each instruction.
-/
set_option Elab.async false

namespace Sys2Proof.Laws.RoundTrip

/-- The word of a well-formed instruction decodes to it; a device step has no word. -/
def Statement (i : Instr) : Prop :=
  i.wellFormed = true → ∀ w, encode i = some w → decode w = .ok i

theorem tokenArrival (e : Eng) (n : Nat) : Statement (.tokenArrival e n) := by
  intro _ w h
  cases h

theorem arbiterSelect (e : Eng) : Statement (.arbiterSelect e) := by
  intro _ w h
  cases h

theorem arbiterReweight (e : Eng) : Statement (.arbiterReweight e) := by
  intro _ w h
  cases h

theorem liveCountUpdate (n : Nat) : Statement (.liveCountUpdate n) := by
  intro _ w h
  cases h

theorem launchComplete (pkg : Nat) (lid : Nat) : Statement (.launchComplete pkg lid) := by
  intro _ w h
  cases h

theorem source (e : Eng) (n : Nat) : Statement (.source e n) := by
  intro _ w h
  cases h

theorem sink (e : Eng) (n : Nat) : Statement (.sink e n) := by
  intro _ w h
  cases h

theorem dup (e : Eng) (n : Nat) : Statement (.dup e n) := by
  intro _ w h
  cases h

theorem enterOp (e : Eng) (n : Nat) : Statement (.enterOp e n) := by
  intro _ w h
  cases h

theorem nextOp (e : Eng) (n : Nat) : Statement (.nextOp e n) := by
  intro _ w h
  cases h

theorem exitOp (e : Eng) (n : Nat) : Statement (.exitOp e n) := by
  intro _ w h
  cases h

theorem callOp (e : Eng) (n : Nat) : Statement (.callOp e n) := by
  intro _ w h
  cases h

theorem retOp (e : Eng) (n : Nat) : Statement (.retOp e n) := by
  intro _ w h
  cases h

theorem gsteer (e : Eng) (n : Nat) : Statement (.gsteer e n) := by
  intro _ w h
  cases h

theorem gmerge (e : Eng) (n : Nat) : Statement (.gmerge e n) := by
  intro _ w h
  cases h

theorem triggerArrival (e : Eng) (n : Nat) : Statement (.triggerArrival e n) := by
  intro _ w h
  cases h

theorem triggerDeadline (e : Eng) (slot : Nat) (vrow : Nat) : Statement (.triggerDeadline e slot vrow) := by
  intro _ w h
  cases h

theorem bridge (e : Eng) (n : Nat) : Statement (.bridge e n) := by
  intro _ w h
  cases h

theorem copen (e : Eng) (n : Nat) : Statement (.copen e n) := by
  intro _ w h
  cases h

theorem cclose (e : Eng) (n : Nat) : Statement (.cclose e n) := by
  intro _ w h
  cases h

theorem containmentHeld (pkg : Nat) (graph : Nat) (rec : Nat) (row : Nat) : Statement (.containmentHeld pkg graph rec row) := by
  intro _ w h
  cases h

theorem timer (e : Eng) (n : Nat) : Statement (.timer e n) := by
  intro _ w h
  cases h

theorem timerExpiry (pkg : Nat) (die : Nat) (n : Nat) : Statement (.timerExpiry pkg die n) := by
  intro _ w h
  cases h

theorem vblockActivation (e : Eng) : Statement (.vblockActivation e) := by
  intro _ w h
  cases h

theorem vblockStep (e : Eng) : Statement (.vblockStep e) := by
  intro _ w h
  cases h

theorem vblockComplete (e : Eng) : Statement (.vblockComplete e) := by
  intro _ w h
  cases h

theorem mmul (e : Eng) : Statement (.mmul e) := by
  intro _ w h
  cases h

theorem wload (e : Eng) : Statement (.wload e) := by
  intro _ w h
  cases h

theorem gather (e : Eng) : Statement (.gather e) := by
  intro _ w h
  cases h

theorem repeatOp (e : Eng) : Statement (.repeatOp e) := by
  intro _ w h
  cases h

theorem swin (e : Eng) : Statement (.swin e) := by
  intro _ w h
  cases h

theorem transp (e : Eng) : Statement (.transp e) := by
  intro _ w h
  cases h

theorem conv (e : Eng) : Statement (.conv e) := by
  intro _ w h
  cases h

theorem hload (e : Eng) (n : Nat) : Statement (.hload e n) := by
  intro _ w h
  cases h

theorem hloadSectorReturn (e : Eng) (n : Nat) : Statement (.hloadSectorReturn e n) := by
  intro _ w h
  cases h

theorem hstore (e : Eng) (n : Nat) : Statement (.hstore e n) := by
  intro _ w h
  cases h

theorem hstoreComplete (e : Eng) (n : Nat) : Statement (.hstoreComplete e n) := by
  intro _ w h
  cases h

theorem copy (e : Eng) (n : Nat) : Statement (.copy e n) := by
  intro _ w h
  cases h

theorem copyChunkAck (pkg : Nat) (die : Nat) (n : Nat) (chunk : Nat) : Statement (.copyChunkAck pkg die n chunk) := by
  intro _ w h
  cases h

theorem copyPacketTake (pkg : Nat) (die : Nat) (q : Nat) : Statement (.copyPacketTake pkg die q) := by
  intro _ w h
  cases h

theorem chw (e : Eng) (n : Nat) : Statement (.chw e n) := by
  intro _ w h
  cases h

theorem chr (e : Eng) (n : Nat) : Statement (.chr e n) := by
  intro _ w h
  cases h

theorem dispatch (e : Eng) (n : Nat) : Statement (.dispatch e n) := by
  intro _ w h
  cases h

theorem dispatchCreditUpdate (pkg : Nat) (die : Nat) (idx : Nat) : Statement (.dispatchCreditUpdate pkg die idx) := by
  intro _ w h
  cases h

theorem reduce (e : Eng) (n : Nat) : Statement (.reduce e n) := by
  intro _ w h
  cases h

theorem reduceComplete (group : Nat) (tag : Word) : Statement (.reduceComplete group tag) := by
  intro _ w h
  cases h

theorem chunkWriteComplete (n : Nat) : Statement (.chunkWriteComplete n) := by
  intro _ w h
  cases h

theorem tileReadRetire (n : Nat) : Statement (.tileReadRetire n) := by
  intro _ w h
  cases h

theorem burstReceive (e : Eng) (input : Nat) (chunk : Nat) : Statement (.burstReceive e input chunk) := by
  intro _ w h
  cases h

theorem memoryTileRequest (e : Eng) (bank : Nat) : Statement (.memoryTileRequest e bank) := by
  intro _ w h
  cases h

theorem hbmSectorAccess (e : Eng) (n : Nat) : Statement (.hbmSectorAccess e n) := by
  intro _ w h
  cases h

theorem pageWalk (e : Eng) (part : Nat) (vpage : Nat) : Statement (.pageWalk e part vpage) := by
  intro _ w h
  cases h

theorem launchAccept (pkg : Nat) (q : Nat) : Statement (.launchAccept pkg q) := by
  intro _ w h
  cases h

theorem launchEventPoll (pkg : Nat) (q : Nat) : Statement (.launchEventPoll pkg q) := by
  intro _ w h
  cases h

theorem launchStart (pkg : Nat) : Statement (.launchStart pkg) := by
  intro _ w h
  cases h

theorem streamCommandBegin (e : Eng) (port : Nat) (slot : Nat) : Statement (.streamCommandBegin e port slot) := by
  intro _ w h
  cases h

theorem streamCircuitSetup (e : Eng) (port : Nat) (slot : Nat) : Statement (.streamCircuitSetup e port slot) := by
  intro _ w h
  cases h

theorem streamCommandComplete (e : Eng) (port : Nat) (slot : Nat) : Statement (.streamCommandComplete e port slot) := by
  intro _ w h
  cases h

theorem timerWheelBoundary (pkg : Nat) (die : Nat) : Statement (.timerWheelBoundary pkg die) := by
  intro _ w h
  cases h

theorem twsetExpiry (pkg : Nat) (die : Nat) (n : Nat) : Statement (.twsetExpiry pkg die n) := by
  intro _ w h
  cases h

theorem farListMove (pkg : Nat) (die : Nat) : Statement (.farListMove pkg die) := by
  intro _ w h
  cases h

theorem deviceTimeStep (pkg : Nat) (ns : Nat) : Statement (.deviceTimeStep pkg ns) := by
  intro _ w h
  cases h

theorem qmSample (pkg : Nat) (lid : Nat) (second : Bool) : Statement (.qmSample pkg lid second) := by
  intro _ w h
  cases h

theorem qmWindowEnd (pkg : Nat) (lid : Nat) : Statement (.qmWindowEnd pkg lid) := by
  intro _ w h
  cases h

theorem pendingReportArrival (n : Nat) : Statement (.pendingReportArrival n) := by
  intro _ w h
  cases h

theorem asyncTrapEntry (t : Tid) : Statement (.asyncTrapEntry t) := by
  intro _ w h
  cases h

theorem loadReturn (t : Tid) (n : Nat) : Statement (.loadReturn t n) := by
  intro _ w h
  cases h

theorem loadDataError (t : Tid) : Statement (.loadDataError t) := by
  intro _ w h
  cases h

theorem asyncCompletion (t : Tid) (n : Nat) : Statement (.asyncCompletion t n) := by
  intro _ w h
  cases h

theorem blockingWaitEnd (t : Tid) : Statement (.blockingWaitEnd t) := by
  intro _ w h
  cases h

theorem pageSetMove (pkg : Nat) (graph : Nat) : Statement (.pageSetMove pkg graph) := by
  intro _ w h
  cases h

theorem slotBoundary (e : Eng) : Statement (.slotBoundary e) := by
  intro _ w h
  cases h

theorem linkFlitReceive (e : Eng) (noise : BitVec 512) : Statement (.linkFlitReceive e noise) := by
  intro _ w h
  cases h

theorem linkDeath (e : Eng) (lostLock : Bool) : Statement (.linkDeath e lostLock) := by
  intro _ w h
  cases h

theorem milestoneChange (pkg : Nat) : Statement (.milestoneChange pkg) := by
  intro _ w h
  cases h

theorem milestoneAdopt (e : Eng) : Statement (.milestoneAdopt e) := by
  intro _ w h
  cases h

theorem packetArrival (n : Nat) : Statement (.packetArrival n) := by
  intro _ w h
  cases h

theorem terminalAccept (n : Nat) : Statement (.terminalAccept n) := by
  intro _ w h
  cases h

theorem ackReceive (n : Nat) : Statement (.ackReceive n) := by
  intro _ w h
  cases h

theorem nackReceive (n : Nat) : Statement (.nackReceive n) := by
  intro _ w h
  cases h

theorem retryTimeout (e : Eng) (n : Nat) : Statement (.retryTimeout e n) := by
  intro _ w h
  cases h

theorem chunkWrite (n : Nat) : Statement (.chunkWrite n) := by
  intro _ w h
  cases h

theorem readResponse (n : Nat) : Statement (.readResponse n) := by
  intro _ w h
  cases h

theorem channelWrite (n : Nat) : Statement (.channelWrite n) := by
  intro _ w h
  cases h

theorem reduceContribution (n : Nat) : Statement (.reduceContribution n) := by
  intro _ w h
  cases h

theorem hbmRead (n : Nat) : Statement (.hbmRead n) := by
  intro _ w h
  cases h

theorem hbmWrite (n : Nat) : Statement (.hbmWrite n) := by
  intro _ w h
  cases h

theorem hbmAtomic (n : Nat) : Statement (.hbmAtomic n) := by
  intro _ w h
  cases h

theorem elementClockGate (e : Eng) : Statement (.elementClockGate e) := by
  intro _ w h
  cases h

theorem elementWake (e : Eng) : Statement (.elementWake e) := by
  intro _ w h
  cases h

theorem pagePowerGate (pkg : Nat) (die : Nat) (page : Nat) : Statement (.pagePowerGate pkg die page) := by
  intro _ w h
  cases h

theorem scrubRead (b : BankId) (word : Nat) : Statement (.scrubRead b word) := by
  intro _ w h
  cases h

theorem eccWindowExpiry (b : BankId) : Statement (.eccWindowExpiry b) := by
  intro _ w h
  cases h

theorem bankConversion (b : BankId) : Statement (.bankConversion b) := by
  intro _ w h
  cases h

theorem traceWrite (pkg : Nat) (die : Nat) (part : Nat) : Statement (.traceWrite pkg die part) := by
  intro _ w h
  cases h

theorem zbell (pkg : Nat) (fn : Nat) : Statement (.zbell pkg fn) := by
  intro _ w h
  cases h

theorem zringWrite (pkg : Nat) (fn : Nat) (v : Word) : Statement (.zringWrite pkg fn v) := by
  intro _ w h
  cases h

theorem registerWrite (pkg : Nat) (fn : Nat) (off : Nat) (v : Word) : Statement (.registerWrite pkg fn off v) := by
  intro _ w h
  cases h

theorem bar2Access (pkg : Nat) (fn : Nat) (off : Nat) (acc : HostAccess) : Statement (.bar2Access pkg fn off acc) := by
  intro _ w h
  cases h

theorem zcmdRingPoll (pkg : Nat) (fn : Nat) : Statement (.zcmdRingPoll pkg fn) := by
  intro _ w h
  cases h

theorem ident (pkg : Nat) (fn : Nat) : Statement (.ident pkg fn) := by
  intro _ w h
  cases h

theorem attest (pkg : Nat) (fn : Nat) : Statement (.attest pkg fn) := by
  intro _ w h
  cases h

theorem fwstage (pkg : Nat) (fn : Nat) : Statement (.fwstage pkg fn) := by
  intro _ w h
  cases h

theorem pcreate (pkg : Nat) (fn : Nat) : Statement (.pcreate pkg fn) := by
  intro _ w h
  cases h

theorem pdestroy (pkg : Nat) (fn : Nat) : Statement (.pdestroy pkg fn) := by
  intro _ w h
  cases h

theorem flr (pkg : Nat) (fn : Nat) : Statement (.flr pkg fn) := by
  intro _ w h
  cases h

theorem pgrant (pkg : Nat) (fn : Nat) : Statement (.pgrant pkg fn) := by
  intro _ w h
  cases h

theorem aspace (pkg : Nat) (fn : Nat) : Statement (.aspace pkg fn) := by
  intro _ w h
  cases h

theorem pools (pkg : Nat) (fn : Nat) : Statement (.pools pkg fn) := by
  intro _ w h
  cases h

theorem faults (pkg : Nat) (fn : Nat) : Statement (.faults pkg fn) := by
  intro _ w h
  cases h

theorem slots (pkg : Nat) (fn : Nat) : Statement (.slots pkg fn) := by
  intro _ w h
  cases h

theorem lqset (pkg : Nat) (fn : Nat) : Statement (.lqset pkg fn) := by
  intro _ w h
  cases h

theorem cqset (pkg : Nat) (fn : Nat) : Statement (.cqset pkg fn) := by
  intro _ w h
  cases h

theorem routes (pkg : Nat) (fn : Nat) : Statement (.routes pkg fn) := by
  intro _ w h
  cases h

theorem mstone (pkg : Nat) (fn : Nat) : Statement (.mstone pkg fn) := by
  intro _ w h
  cases h

theorem rgroup (pkg : Nat) (fn : Nat) : Statement (.rgroup pkg fn) := by
  intro _ w h
  cases h

theorem tlbinv (pkg : Nat) (fn : Nat) : Statement (.tlbinv pkg fn) := by
  intro _ w h
  cases h

theorem readObject (pkg : Nat) (fn : Nat) : Statement (.readObject pkg fn) := by
  intro _ w h
  cases h

theorem dbgsetStopEntry (pkg : Nat) (fn : Nat) : Statement (.dbgsetStopEntry pkg fn) := by
  intro _ w h
  cases h

theorem dbgsetTrace (pkg : Nat) (fn : Nat) : Statement (.dbgsetTrace pkg fn) := by
  intro _ w h
  cases h

theorem dbgsetWatch (pkg : Nat) (fn : Nat) : Statement (.dbgsetWatch pkg fn) := by
  intro _ w h
  cases h

theorem dbgsetBreakBit (pkg : Nat) (fn : Nat) : Statement (.dbgsetBreakBit pkg fn) := by
  intro _ w h
  cases h

theorem dbgsetProfileClear (pkg : Nat) (fn : Nat) : Statement (.dbgsetProfileClear pkg fn) := by
  intro _ w h
  cases h

theorem dbgsetLogEntry (pkg : Nat) (fn : Nat) : Statement (.dbgsetLogEntry pkg fn) := by
  intro _ w h
  cases h

theorem threadNormalStop (pkg : Nat) (fn : Nat) : Statement (.threadNormalStop pkg fn) := by
  intro _ w h
  cases h

theorem threadHardStop (pkg : Nat) (fn : Nat) : Statement (.threadHardStop pkg fn) := by
  intro _ w h
  cases h

theorem threadResume (pkg : Nat) (fn : Nat) : Statement (.threadResume pkg fn) := by
  intro _ w h
  cases h

theorem threadRegisterWrite (pkg : Nat) (fn : Nat) : Statement (.threadRegisterWrite pkg fn) := by
  intro _ w h
  cases h

theorem scrub (pkg : Nat) (fn : Nat) : Statement (.scrub pkg fn) := by
  intro _ w h
  cases h

theorem power (pkg : Nat) (fn : Nat) : Statement (.power pkg fn) := by
  intro _ w h
  cases h

theorem thermalThrottle (pkg : Nat) (lower : Bool) : Statement (.thermalThrottle pkg lower) := by
  intro _ w h
  cases h

theorem thermalShutdown (pkg : Nat) : Statement (.thermalShutdown pkg) := by
  intro _ w h
  cases h

theorem coldReset (pkg : Nat) : Statement (.coldReset pkg) := by
  intro _ w h
  cases h

theorem add (rd : RegNo) (rs1 : RegNo) (rs2 : RegNo) : Statement (.add rd rs1 rs2) := by
  intro _ w h
  cases h
  simp [decode, fMaj_packR, fD_packR, fA_packR, fB_packR, fFn_packR, decodeInt]

theorem sub (rd : RegNo) (rs1 : RegNo) (rs2 : RegNo) : Statement (.sub rd rs1 rs2) := by
  intro _ w h
  cases h
  simp [decode, fMaj_packR, fD_packR, fA_packR, fB_packR, fFn_packR, decodeInt]

theorem and (rd : RegNo) (rs1 : RegNo) (rs2 : RegNo) : Statement (.and rd rs1 rs2) := by
  intro _ w h
  cases h
  simp [decode, fMaj_packR, fD_packR, fA_packR, fB_packR, fFn_packR, decodeInt]

theorem or (rd : RegNo) (rs1 : RegNo) (rs2 : RegNo) : Statement (.or rd rs1 rs2) := by
  intro _ w h
  cases h
  simp [decode, fMaj_packR, fD_packR, fA_packR, fB_packR, fFn_packR, decodeInt]

theorem xor (rd : RegNo) (rs1 : RegNo) (rs2 : RegNo) : Statement (.xor rd rs1 rs2) := by
  intro _ w h
  cases h
  simp [decode, fMaj_packR, fD_packR, fA_packR, fB_packR, fFn_packR, decodeInt]

theorem shl (rd : RegNo) (rs1 : RegNo) (rs2 : RegNo) : Statement (.shl rd rs1 rs2) := by
  intro _ w h
  cases h
  simp [decode, fMaj_packR, fD_packR, fA_packR, fB_packR, fFn_packR, decodeInt]

theorem shr (rd : RegNo) (rs1 : RegNo) (rs2 : RegNo) : Statement (.shr rd rs1 rs2) := by
  intro _ w h
  cases h
  simp [decode, fMaj_packR, fD_packR, fA_packR, fB_packR, fFn_packR, decodeInt]

theorem sar (rd : RegNo) (rs1 : RegNo) (rs2 : RegNo) : Statement (.sar rd rs1 rs2) := by
  intro _ w h
  cases h
  simp [decode, fMaj_packR, fD_packR, fA_packR, fB_packR, fFn_packR, decodeInt]

theorem mul (rd : RegNo) (rs1 : RegNo) (rs2 : RegNo) : Statement (.mul rd rs1 rs2) := by
  intro _ w h
  cases h
  simp [decode, fMaj_packR, fD_packR, fA_packR, fB_packR, fFn_packR, decodeInt]

theorem mulh (rd : RegNo) (rs1 : RegNo) (rs2 : RegNo) : Statement (.mulh rd rs1 rs2) := by
  intro _ w h
  cases h
  simp [decode, fMaj_packR, fD_packR, fA_packR, fB_packR, fFn_packR, decodeInt]

theorem mulhn (rd : RegNo) (rs1 : RegNo) (rs2 : RegNo) : Statement (.mulhn rd rs1 rs2) := by
  intro _ w h
  cases h
  simp [decode, fMaj_packR, fD_packR, fA_packR, fB_packR, fFn_packR, decodeInt]

theorem div (rd : RegNo) (rs1 : RegNo) (rs2 : RegNo) : Statement (.div rd rs1 rs2) := by
  intro _ w h
  cases h
  simp [decode, fMaj_packR, fD_packR, fA_packR, fB_packR, fFn_packR, decodeInt]

theorem divn (rd : RegNo) (rs1 : RegNo) (rs2 : RegNo) : Statement (.divn rd rs1 rs2) := by
  intro _ w h
  cases h
  simp [decode, fMaj_packR, fD_packR, fA_packR, fB_packR, fFn_packR, decodeInt]

theorem rem (rd : RegNo) (rs1 : RegNo) (rs2 : RegNo) : Statement (.rem rd rs1 rs2) := by
  intro _ w h
  cases h
  simp [decode, fMaj_packR, fD_packR, fA_packR, fB_packR, fFn_packR, decodeInt]

theorem remn (rd : RegNo) (rs1 : RegNo) (rs2 : RegNo) : Statement (.remn rd rs1 rs2) := by
  intro _ w h
  cases h
  simp [decode, fMaj_packR, fD_packR, fA_packR, fB_packR, fFn_packR, decodeInt]

theorem min (rd : RegNo) (rs1 : RegNo) (rs2 : RegNo) : Statement (.min rd rs1 rs2) := by
  intro _ w h
  cases h
  simp [decode, fMaj_packR, fD_packR, fA_packR, fB_packR, fFn_packR, decodeInt]

theorem max (rd : RegNo) (rs1 : RegNo) (rs2 : RegNo) : Statement (.max rd rs1 rs2) := by
  intro _ w h
  cases h
  simp [decode, fMaj_packR, fD_packR, fA_packR, fB_packR, fFn_packR, decodeInt]

theorem minn (rd : RegNo) (rs1 : RegNo) (rs2 : RegNo) : Statement (.minn rd rs1 rs2) := by
  intro _ w h
  cases h
  simp [decode, fMaj_packR, fD_packR, fA_packR, fB_packR, fFn_packR, decodeInt]

theorem maxn (rd : RegNo) (rs1 : RegNo) (rs2 : RegNo) : Statement (.maxn rd rs1 rs2) := by
  intro _ w h
  cases h
  simp [decode, fMaj_packR, fD_packR, fA_packR, fB_packR, fFn_packR, decodeInt]

theorem slt (rd : RegNo) (rs1 : RegNo) (rs2 : RegNo) : Statement (.slt rd rs1 rs2) := by
  intro _ w h
  cases h
  simp [decode, fMaj_packR, fD_packR, fA_packR, fB_packR, fFn_packR, decodeInt]

theorem sltn (rd : RegNo) (rs1 : RegNo) (rs2 : RegNo) : Statement (.sltn rd rs1 rs2) := by
  intro _ w h
  cases h
  simp [decode, fMaj_packR, fD_packR, fA_packR, fB_packR, fFn_packR, decodeInt]

theorem addi (rd : RegNo) (rs1 : RegNo) (imm : Imm16) : Statement (.addi rd rs1 imm) := by
  intro _ w h
  cases h
  simp [decode, fMaj_packI, fD_packI, fA_packI, fImm_packI]

theorem andi (rd : RegNo) (rs1 : RegNo) (imm : Imm16) : Statement (.andi rd rs1 imm) := by
  intro _ w h
  cases h
  simp [decode, fMaj_packI, fD_packI, fA_packI, fImm_packI]

theorem ori (rd : RegNo) (rs1 : RegNo) (imm : Imm16) : Statement (.ori rd rs1 imm) := by
  intro _ w h
  cases h
  simp [decode, fMaj_packI, fD_packI, fA_packI, fImm_packI]

theorem xori (rd : RegNo) (rs1 : RegNo) (imm : Imm16) : Statement (.xori rd rs1 imm) := by
  intro _ w h
  cases h
  simp [decode, fMaj_packI, fD_packI, fA_packI, fImm_packI]

theorem shli (rd : RegNo) (rs1 : RegNo) (sh : BitVec 6) : Statement (.shli rd rs1 sh) := by
  intro _ w h
  cases h
  simp [decode, fMaj_packI, fD_packI, fA_packI, fImm_packI, sh_top, sh_low, whenZero]

theorem shri (rd : RegNo) (rs1 : RegNo) (sh : BitVec 6) : Statement (.shri rd rs1 sh) := by
  intro _ w h
  cases h
  simp [decode, fMaj_packI, fD_packI, fA_packI, fImm_packI, sh_top, sh_low, whenZero]

theorem sari (rd : RegNo) (rs1 : RegNo) (sh : BitVec 6) : Statement (.sari rd rs1 sh) := by
  intro _ w h
  cases h
  simp [decode, fMaj_packI, fD_packI, fA_packI, fImm_packI, sh_top, sh_low, whenZero]

theorem lui (rd : RegNo) (imm : Imm16) : Statement (.lui rd imm) := by
  intro _ w h
  cases h
  simp [decode, fMaj_packI, fD_packI, fA_packI, fImm_packI, whenZero]

theorem auip (rd : RegNo) (imm : Imm16) : Statement (.auip rd imm) := by
  intro _ w h
  cases h
  simp [decode, fMaj_packI, fD_packI, fA_packI, fImm_packI, whenZero]

theorem jal (rd : RegNo) (imm : BitVec 21) : Statement (.jal rd imm) := by
  intro _ w h
  cases h
  simp [decode, fMaj_packJ, fD_packJ, fJ_packJ]

theorem jalr (rd : RegNo) (rs1 : RegNo) (imm : Imm16) : Statement (.jalr rd rs1 imm) := by
  intro _ w h
  cases h
  simp [decode, fMaj_packI, fD_packI, fA_packI, fImm_packI]

theorem beq (rs1 : RegNo) (rs2 : RegNo) (imm : Imm16) : Statement (.beq rs1 rs2 imm) := by
  intro _ w h
  cases h
  simp [decode, fMaj_packI, fD_packI, fA_packI, fImm_packI]

theorem bne (rs1 : RegNo) (rs2 : RegNo) (imm : Imm16) : Statement (.bne rs1 rs2 imm) := by
  intro _ w h
  cases h
  simp [decode, fMaj_packI, fD_packI, fA_packI, fImm_packI]

theorem blt (rs1 : RegNo) (rs2 : RegNo) (imm : Imm16) : Statement (.blt rs1 rs2 imm) := by
  intro _ w h
  cases h
  simp [decode, fMaj_packI, fD_packI, fA_packI, fImm_packI]

theorem bge (rs1 : RegNo) (rs2 : RegNo) (imm : Imm16) : Statement (.bge rs1 rs2 imm) := by
  intro _ w h
  cases h
  simp [decode, fMaj_packI, fD_packI, fA_packI, fImm_packI]

theorem bltn (rs1 : RegNo) (rs2 : RegNo) (imm : Imm16) : Statement (.bltn rs1 rs2 imm) := by
  intro _ w h
  cases h
  simp [decode, fMaj_packI, fD_packI, fA_packI, fImm_packI]

theorem bgen (rs1 : RegNo) (rs2 : RegNo) (imm : Imm16) : Statement (.bgen rs1 rs2 imm) := by
  intro _ w h
  cases h
  simp [decode, fMaj_packI, fD_packI, fA_packI, fImm_packI]

theorem ld8 (rd : RegNo) (rs1 : RegNo) (imm : Imm16) : Statement (.ld8 rd rs1 imm) := by
  intro _ w h
  cases h
  simp [decode, fMaj_packI, fD_packI, fA_packI, fImm_packI]

theorem ld8n (rd : RegNo) (rs1 : RegNo) (imm : Imm16) : Statement (.ld8n rd rs1 imm) := by
  intro _ w h
  cases h
  simp [decode, fMaj_packI, fD_packI, fA_packI, fImm_packI]

theorem ld16 (rd : RegNo) (rs1 : RegNo) (imm : Imm16) : Statement (.ld16 rd rs1 imm) := by
  intro _ w h
  cases h
  simp [decode, fMaj_packI, fD_packI, fA_packI, fImm_packI]

theorem ld16n (rd : RegNo) (rs1 : RegNo) (imm : Imm16) : Statement (.ld16n rd rs1 imm) := by
  intro _ w h
  cases h
  simp [decode, fMaj_packI, fD_packI, fA_packI, fImm_packI]

theorem ld32 (rd : RegNo) (rs1 : RegNo) (imm : Imm16) : Statement (.ld32 rd rs1 imm) := by
  intro _ w h
  cases h
  simp [decode, fMaj_packI, fD_packI, fA_packI, fImm_packI]

theorem ld32n (rd : RegNo) (rs1 : RegNo) (imm : Imm16) : Statement (.ld32n rd rs1 imm) := by
  intro _ w h
  cases h
  simp [decode, fMaj_packI, fD_packI, fA_packI, fImm_packI]

theorem ld64 (rd : RegNo) (rs1 : RegNo) (imm : Imm16) : Statement (.ld64 rd rs1 imm) := by
  intro _ w h
  cases h
  simp [decode, fMaj_packI, fD_packI, fA_packI, fImm_packI]

theorem st8 (src : RegNo) (rs1 : RegNo) (imm : Imm16) : Statement (.st8 src rs1 imm) := by
  intro _ w h
  cases h
  simp [decode, fMaj_packI, fD_packI, fA_packI, fImm_packI]

theorem st16 (src : RegNo) (rs1 : RegNo) (imm : Imm16) : Statement (.st16 src rs1 imm) := by
  intro _ w h
  cases h
  simp [decode, fMaj_packI, fD_packI, fA_packI, fImm_packI]

theorem st32 (src : RegNo) (rs1 : RegNo) (imm : Imm16) : Statement (.st32 src rs1 imm) := by
  intro _ w h
  cases h
  simp [decode, fMaj_packI, fD_packI, fA_packI, fImm_packI]

theorem st64 (src : RegNo) (rs1 : RegNo) (imm : Imm16) : Statement (.st64 src rs1 imm) := by
  intro _ w h
  cases h
  simp [decode, fMaj_packI, fD_packI, fA_packI, fImm_packI]

theorem amoadd (rd : RegNo) (rs1 : RegNo) (rs2 : RegNo) (ord : AmoOrd) : Statement (.amoadd rd rs1 rs2 ord) := by
  intro _ w h
  cases h
  cases ord <;> simp [decode, fMaj_packR, fD_packR, fA_packR, fB_packR, fFn_packR, decodeAmo, ordCode, ordOf]

theorem amoand (rd : RegNo) (rs1 : RegNo) (rs2 : RegNo) (ord : AmoOrd) : Statement (.amoand rd rs1 rs2 ord) := by
  intro _ w h
  cases h
  cases ord <;> simp [decode, fMaj_packR, fD_packR, fA_packR, fB_packR, fFn_packR, decodeAmo, ordCode, ordOf]

theorem amoor (rd : RegNo) (rs1 : RegNo) (rs2 : RegNo) (ord : AmoOrd) : Statement (.amoor rd rs1 rs2 ord) := by
  intro _ w h
  cases h
  cases ord <;> simp [decode, fMaj_packR, fD_packR, fA_packR, fB_packR, fFn_packR, decodeAmo, ordCode, ordOf]

theorem amoxor (rd : RegNo) (rs1 : RegNo) (rs2 : RegNo) (ord : AmoOrd) : Statement (.amoxor rd rs1 rs2 ord) := by
  intro _ w h
  cases h
  cases ord <;> simp [decode, fMaj_packR, fD_packR, fA_packR, fB_packR, fFn_packR, decodeAmo, ordCode, ordOf]

theorem amoswp (rd : RegNo) (rs1 : RegNo) (rs2 : RegNo) (ord : AmoOrd) : Statement (.amoswp rd rs1 rs2 ord) := by
  intro _ w h
  cases h
  cases ord <;> simp [decode, fMaj_packR, fD_packR, fA_packR, fB_packR, fFn_packR, decodeAmo, ordCode, ordOf]

theorem amomin (rd : RegNo) (rs1 : RegNo) (rs2 : RegNo) (ord : AmoOrd) : Statement (.amomin rd rs1 rs2 ord) := by
  intro _ w h
  cases h
  cases ord <;> simp [decode, fMaj_packR, fD_packR, fA_packR, fB_packR, fFn_packR, decodeAmo, ordCode, ordOf]

theorem amomax (rd : RegNo) (rs1 : RegNo) (rs2 : RegNo) (ord : AmoOrd) : Statement (.amomax rd rs1 rs2 ord) := by
  intro _ w h
  cases h
  cases ord <;> simp [decode, fMaj_packR, fD_packR, fA_packR, fB_packR, fFn_packR, decodeAmo, ordCode, ordOf]

theorem amocas (rd : RegNo) (rs1 : RegNo) (rs2 : RegNo) (ord : AmoOrd) : Statement (.amocas rd rs1 rs2 ord) := by
  intro _ w h
  cases h
  cases ord <;> simp [decode, fMaj_packR, fD_packR, fA_packR, fB_packR, fFn_packR, decodeAmo, ordCode, ordOf]

theorem amoinc (rd : RegNo) (rs1 : RegNo) (rs2 : RegNo) (ord : AmoOrd) : Statement (.amoinc rd rs1 rs2 ord) := by
  intro _ w h
  cases h
  cases ord <;> simp [decode, fMaj_packR, fD_packR, fA_packR, fB_packR, fFn_packR, decodeAmo, ordCode, ordOf]

theorem fence (sc : Scope) : Statement (.fence sc) := by
  intro _ w h
  cases h
  cases sc <;> simp [decode, fMaj_packR, fD_packR, fA_packR, fB_packR, fFn_packR, decodeFence, scopeCode, scopeOf, whenZero]

theorem trap (imm : Imm16) : Statement (.trap imm) := by
  intro _ w h
  cases h
  simp [decode, fMaj_packI, fD_packI, fA_packI, fImm_packI, whenZero]

theorem nop : Statement (.nop) := by
  intro _ w h
  cases h
  simp [decode, fMaj_packR, fD_packR, fA_packR, fB_packR, fFn_packR, decodeSys, whenZero]

theorem halt : Statement (.halt) := by
  intro _ w h
  cases h
  simp [decode, fMaj_packR, fD_packR, fA_packR, fB_packR, fFn_packR, decodeSys, whenZero]

theorem eret : Statement (.eret) := by
  intro _ w h
  cases h
  simp [decode, fMaj_packR, fD_packR, fA_packR, fB_packR, fFn_packR, decodeSys, whenZero]

theorem wfe : Statement (.wfe) := by
  intro _ w h
  cases h
  simp [decode, fMaj_packR, fD_packR, fA_packR, fB_packR, fFn_packR, decodeSys, whenZero]

theorem sev (rs1 : RegNo) : Statement (.sev rs1) := by
  intro _ w h
  cases h
  simp [decode, fMaj_packR, fD_packR, fA_packR, fB_packR, fFn_packR, decodeSys, whenZero]

theorem csrrd (rd : RegNo) (csr : BitVec 12) : Statement (.csrrd rd csr) := by
  intro hw w h
  cases h
  simp only [Instr.wellFormed, Option.isSome_iff_exists] at hw
  obtain ⟨r, hr⟩ := hw
  simp [decode, decodeCsr, fMaj_packI, fD_packI, fA_packI, fImm_packI, csr_top, csr_op, csr_num, whenZero, hr]

theorem csrwr (rs1 : RegNo) (csr : BitVec 12) : Statement (.csrwr rs1 csr) := by
  intro hw w h
  cases h
  simp only [Instr.wellFormed, beq_iff_eq] at hw
  simp [decode, decodeCsr, fMaj_packI, fD_packI, fA_packI, fImm_packI, csr_top, csr_op, csr_num, whenZero, hw]

theorem csrset (rs1 : RegNo) (csr : BitVec 12) : Statement (.csrset rs1 csr) := by
  intro hw w h
  cases h
  simp only [Instr.wellFormed, beq_iff_eq] at hw
  simp [decode, decodeCsr, fMaj_packI, fD_packI, fA_packI, fImm_packI, csr_top, csr_op, csr_num, whenZero, hw]

theorem csrclr (rs1 : RegNo) (csr : BitVec 12) : Statement (.csrclr rs1 csr) := by
  intro hw w h
  cases h
  simp only [Instr.wellFormed, beq_iff_eq] at hw
  simp [decode, decodeCsr, fMaj_packI, fD_packI, fA_packI, fImm_packI, csr_top, csr_op, csr_num, whenZero, hw]

theorem gload (rd : RegNo) (rs1 : RegNo) : Statement (.gload rd rs1) := by
  intro _ w h
  cases h
  simp [decode, fMaj_packR, fD_packR, fA_packR, fB_packR, fFn_packR, decodeGraph, whenZero]

theorem gfree (rd : RegNo) (rs1 : RegNo) : Statement (.gfree rd rs1) := by
  intro _ w h
  cases h
  simp [decode, fMaj_packR, fD_packR, fA_packR, fB_packR, fFn_packR, decodeGraph, whenZero]

theorem glaunch (rd : RegNo) (rs1 : RegNo) (rs2 : RegNo) : Statement (.glaunch rd rs1 rs2) := by
  intro _ w h
  cases h
  simp [decode, fMaj_packR, fD_packR, fA_packR, fB_packR, fFn_packR, decodeGraph]

theorem gkill (rd : RegNo) (rs1 : RegNo) : Statement (.gkill rd rs1) := by
  intro _ w h
  cases h
  simp [decode, fMaj_packR, fD_packR, fA_packR, fB_packR, fFn_packR, decodeGraph, whenZero]

theorem inject (rd : RegNo) (rs1 : RegNo) : Statement (.inject rd rs1) := by
  intro _ w h
  cases h
  simp [decode, fMaj_packR, fD_packR, fA_packR, fB_packR, fFn_packR, decodeGraph, whenZero]

theorem purge (rd : RegNo) (rs1 : RegNo) (rs2 : RegNo) : Statement (.purge rd rs1 rs2) := by
  intro _ w h
  cases h
  simp [decode, fMaj_packR, fD_packR, fA_packR, fB_packR, fFn_packR, decodeGraph]

theorem msread (rd : RegNo) (rs1 : RegNo) (rs2 : RegNo) : Statement (.msread rd rs1 rs2) := by
  intro _ w h
  cases h
  simp [decode, fMaj_packR, fD_packR, fA_packR, fB_packR, fFn_packR, decodeGraph]

theorem clread (rd : RegNo) (rs1 : RegNo) (rs2 : RegNo) : Statement (.clread rd rs1 rs2) := by
  intro _ w h
  cases h
  simp [decode, fMaj_packR, fD_packR, fA_packR, fB_packR, fFn_packR, decodeGraph]

theorem freeze (rd : RegNo) (rs1 : RegNo) : Statement (.freeze rd rs1) := by
  intro _ w h
  cases h
  simp [decode, fMaj_packR, fD_packR, fA_packR, fB_packR, fFn_packR, decodeGraph, whenZero]

theorem thaw (rd : RegNo) (rs1 : RegNo) : Statement (.thaw rd rs1) := by
  intro _ w h
  cases h
  simp [decode, fMaj_packR, fD_packR, fA_packR, fB_packR, fFn_packR, decodeGraph, whenZero]

theorem savec (rd : RegNo) (rs1 : RegNo) (rs2 : RegNo) : Statement (.savec rd rs1 rs2) := by
  intro _ w h
  cases h
  simp [decode, fMaj_packR, fD_packR, fA_packR, fB_packR, fFn_packR, decodeGraph]

theorem restc (rd : RegNo) (rs1 : RegNo) : Statement (.restc rd rs1) := by
  intro _ w h
  cases h
  simp [decode, fMaj_packR, fD_packR, fA_packR, fB_packR, fFn_packR, decodeGraph, whenZero]

theorem sbind (rd : RegNo) (rs1 : RegNo) (rs2 : RegNo) : Statement (.sbind rd rs1 rs2) := by
  intro _ w h
  cases h
  simp [decode, fMaj_packR, fD_packR, fA_packR, fB_packR, fFn_packR, decodeStream]

theorem sstart (rd : RegNo) (rs1 : RegNo) (rs2 : RegNo) : Statement (.sstart rd rs1 rs2) := by
  intro _ w h
  cases h
  simp [decode, fMaj_packR, fD_packR, fA_packR, fB_packR, fFn_packR, decodeStream]

theorem sbar (rd : RegNo) (rs1 : RegNo) : Statement (.sbar rd rs1) := by
  intro _ w h
  cases h
  simp [decode, fMaj_packR, fD_packR, fA_packR, fB_packR, fFn_packR, decodeStream, whenZero]

theorem cpyq (rd : RegNo) (rs1 : RegNo) (rs2 : RegNo) : Statement (.cpyq rd rs1 rs2) := by
  intro _ w h
  cases h
  simp [decode, fMaj_packR, fD_packR, fA_packR, fB_packR, fFn_packR, decodeStream]

theorem cpywait (rd : RegNo) (rs1 : RegNo) (rs2 : RegNo) : Statement (.cpywait rd rs1 rs2) := by
  intro _ w h
  cases h
  simp [decode, fMaj_packR, fD_packR, fA_packR, fB_packR, fFn_packR, decodeStream]

theorem bararm (rs1 : RegNo) (rs2 : RegNo) : Statement (.bararm rs1 rs2) := by
  intro _ w h
  cases h
  simp [decode, fMaj_packR, fD_packR, fA_packR, fB_packR, fFn_packR, decodeStream, whenZero]

theorem bararrive (rs1 : RegNo) : Statement (.bararrive rs1) := by
  intro _ w h
  cases h
  simp [decode, fMaj_packR, fD_packR, fA_packR, fB_packR, fFn_packR, decodeStream, whenZero]

theorem barwait (rd : RegNo) (rs1 : RegNo) (rs2 : RegNo) : Statement (.barwait rd rs1 rs2) := by
  intro _ w h
  cases h
  simp [decode, fMaj_packR, fD_packR, fA_packR, fB_packR, fFn_packR, decodeStream]

theorem chopen (rd : RegNo) (rs1 : RegNo) (rs2 : RegNo) : Statement (.chopen rd rs1 rs2) := by
  intro _ w h
  cases h
  simp [decode, fMaj_packR, fD_packR, fA_packR, fB_packR, fFn_packR, decodeChan]

theorem chwr (rd : RegNo) (rs1 : RegNo) (rs2 : RegNo) : Statement (.chwr rd rs1 rs2) := by
  intro _ w h
  cases h
  simp [decode, fMaj_packR, fD_packR, fA_packR, fB_packR, fFn_packR, decodeChan]

theorem chrd (rd : RegNo) (rs1 : RegNo) (rs2 : RegNo) : Statement (.chrd rd rs1 rs2) := by
  intro _ w h
  cases h
  simp [decode, fMaj_packR, fD_packR, fA_packR, fB_packR, fFn_packR, decodeChan]

theorem chtry (rd : RegNo) (rs1 : RegNo) (rs2 : RegNo) : Statement (.chtry rd rs1 rs2) := by
  intro _ w h
  cases h
  simp [decode, fMaj_packR, fD_packR, fA_packR, fB_packR, fFn_packR, decodeChan]

theorem chclose (rd : RegNo) (rs1 : RegNo) : Statement (.chclose rd rs1) := by
  intro _ w h
  cases h
  simp [decode, fMaj_packR, fD_packR, fA_packR, fB_packR, fFn_packR, decodeChan, whenZero]

theorem twset (rd : RegNo) (rs1 : RegNo) (rs2 : RegNo) : Statement (.twset rd rs1 rs2) := by
  intro _ w h
  cases h
  simp [decode, fMaj_packR, fD_packR, fA_packR, fB_packR, fFn_packR, decodeChan]

theorem twclr (rd : RegNo) (rs1 : RegNo) : Statement (.twclr rd rs1) := by
  intro _ w h
  cases h
  simp [decode, fMaj_packR, fD_packR, fA_packR, fB_packR, fFn_packR, decodeChan, whenZero]

theorem time (rd : RegNo) : Statement (.time rd) := by
  intro _ w h
  cases h
  simp [decode, fMaj_packR, fD_packR, fA_packR, fB_packR, fFn_packR, decodeChan, whenZero]

theorem crgno (rd : RegNo) (rs1 : RegNo) : Statement (.crgno rd rs1) := by
  intro _ w h
  cases h
  simp [decode, fMaj_packR, fD_packR, fA_packR, fB_packR, fFn_packR, decodeChan, whenZero]

theorem crgnc (rd : RegNo) (rs1 : RegNo) (rs2 : RegNo) : Statement (.crgnc rd rs1 rs2) := by
  intro _ w h
  cases h
  simp [decode, fMaj_packR, fD_packR, fA_packR, fB_packR, fFn_packR, decodeChan]

theorem qset (rd : RegNo) (rs1 : RegNo) (rs2 : RegNo) : Statement (.qset rd rs1 rs2) := by
  intro _ w h
  cases h
  simp [decode, fMaj_packR, fD_packR, fA_packR, fB_packR, fFn_packR, decodeChan]

theorem qget (rd : RegNo) (rs1 : RegNo) (rs2 : RegNo) : Statement (.qget rd rs1 rs2) := by
  intro _ w h
  cases h
  simp [decode, fMaj_packR, fD_packR, fA_packR, fB_packR, fFn_packR, decodeChan]

theorem illegalInstruction (w : IWord) : Statement (.illegalInstruction w) := by
  intro _ w h
  cases h

theorem fetchFault (why : FetchFault) : Statement (.fetchFault why) := by
  intro _ w h
  cases h

theorem writeAcknowledgement (t : Tid) (n : Nat) : Statement (.writeAcknowledgement t n) := by
  intro _ w h
  cases h

end Sys2Proof.Laws.RoundTrip
end

