-- ==== Sys2Proof/Safety.lean ====
section
/-!
DEFINITION. Safety.lean: what counts as a safe run, and the terms in which claims say what an instruction leaves alone.
-/
namespace Sys2Proof.Machine

/-- The memories are in canonical form. -/
def State.MemOk (s : State) : Prop := s.hbm.wf = true ∧ s.l0.wf = true ∧ s.hostMem.wf = true

/-- A thread in order (R38, R227, R266): its trap vector and saved program counter are multiples of 4, and no more loads
and stores are outstanding than it may have. -/
def Thread.InOrder (th : Thread) : Prop :=
  th.tvec.toNat % 4 = 0 ∧ th.epc.toNat % 4 = 0 ∧ th.loads.length ≤ 8 ∧ (th.stores.filter (!·.atomic)).length ≤ 16

/-- Every thread is in order. -/
def State.Threads (s : State) : Prop := ∀ k, (getThr s k).InOrder

/-- A safe step: it neither faults nor is refused. A safe run is one of safe steps. -/
def State.Safe (s : State) : Prop := ∃ t, step s = .next t

/-- Every byte of HBM, of the scratchpads and of host memory reads as before. -/
def SameBytes (s t : State) : Prop :=
  ∀ a, memGet t.hbm a = memGet s.hbm a ∧ memGet t.l0 a = memGet s.l0 a ∧ memGet t.hostMem a = memGet s.hostMem a

/-- Nothing but the record of thread k has changed: every other thread, every table, every memory is as before. -/
def OnlyThread (k : Tid) (s t : State) : Prop :=
  t = { s with threads := t.threads } ∧ ∀ u, u ≠ k → getThr t u = getThr s u

/-- Of a thread's record, only the s registers, the program counter and the watch-filter pass of R333 may differ. -/
def OnlyRegsAndPc (a b : Thread) : Prop := b = { a with s := b.s, pc := b.pc, pass := b.pass }

/-- An instruction of the current thread answers a next state in which rd holds v (s0 keeps reading zero), every other s
register is as before, the program counter is npc, and nothing else has changed. -/
def Computes (i : Instr) (s : State) (rd : RegNo) (v npc : Word) : Prop :=
  ∃ t, exec i s = .next t ∧ readReg (curThr t) rd = (if rd = 0 then 0 else v) ∧
    (∀ r, r ≠ rd → readReg (curThr t) r = readReg (curThr s) r) ∧ (curThr t).pc = npc ∧
    OnlyRegsAndPc (curThr s) (curThr t) ∧ OnlyThread s.cur s t ∧ SameBytes s t

/-- An instruction of the current thread answers a next state in which no s register has changed, the program counter is
npc, and nothing else has changed. -/
def Jumps (i : Instr) (s : State) (npc : Word) : Prop :=
  ∃ t, exec i s = .next t ∧ (∀ r, readReg (curThr t) r = readReg (curThr s) r) ∧ (curThr t).pc = npc ∧
    OnlyRegsAndPc (curThr s) (curThr t) ∧ OnlyThread s.cur s t ∧ SameBytes s t

/-- A thread's trap entry (R263, R266): what it has written, and that its s registers are as before. -/
def Trapped (a b : Thread) (cause : Nat) (tval epc : Word) : Prop :=
  b = { a with cause := BitVec.ofNat 64 (cause + 2 ^ 18 * b2n a.ae), tval := tval, epc := epc &&& ~~~3#64, tinfo := 0,
               tcoord := 0, lid := 0, held := .none, heldLid := 0, ae := false, ht := true, wait := none, pc := a.tvec }

/-- A synchronous trap of the current thread, whose record is a at the entry, with no deferred load error waiting: with ht 0 the
thread has entered its handler, with ht 1 it has halted (R263); no other thread and no byte of memory has changed. -/
def TrapsFrom (i : Instr) (s : State) (a : Thread) (cause : Nat) (tval epc : Word) : Prop :=
  ∃ t, exec i s = .next t ∧
    (a.ht = false → Trapped a (curThr t) cause tval epc) ∧
    (a.ht = true → curThr t = { a with halted := true, wait := none }) ∧
    t.cur = s.cur ∧ (∀ u, u ≠ s.cur → getThr t u = getThr s u) ∧ SameBytes s t

/-- A synchronous trap of the current thread (R263). -/
def TakesTrap (i : Instr) (s : State) (cause : Nat) (tval epc : Word) : Prop := TrapsFrom i s (curThr s) cause tval epc

/-- The watchpoint trap of the current thread's data access (R401): the thread keeps that its data access was caught, so that it
passes once after the handler has returned (R333). -/
def WatchTraps (i : Instr) (s : State) (va : Word) : Prop :=
  TrapsFrom i s { curThr s with watched := 2 } 0x000E va (curThr s).pc

/-- An access of the current thread misses its core's TLB and waits (R352): a walk of its page is under way on its die, the core
waits for it, and of u, the state with its reads counted, nothing but the walks in progress has changed. -/
def AwaitsWalk (i : Instr) (s u : State) (va : Nat) : Prop :=
  let e := ccEng s.cur.pkg s.cur.die
  ∃ t, exec i s = .next t ∧ t = { u with walks := t.walks } ∧
    ∃ w ∈ t.walks, w.fault = 0 ∧ walkFor w e (curThr s).part (va / 8192) = true ∧ e ∈ w.engs

/-- A memory operand that fails with a cause and an address (R236): a miss waits for its walk, a watched one takes the watchpoint
trap, and any other takes the precise data trap. -/
def OpTraps (i : Instr) (s u : State) (x : Nat × Word) : Prop :=
  (x.1 = 0 → AwaitsWalk i s u x.2.toNat) ∧
  ((curThr s).errs = [] → (x.1 = 0x000E → WatchTraps i s x.2) ∧
    (x.1 ≠ 0 → x.1 ≠ 0x000E → TakesTrap i s x.1 x.2 (curThr s).pc))

/-- A packet with p's destination and body leaves through strait engine e: it is sent while the engine takes packets, and waits
there while its retry buffer is full (R369). -/
def Leaves (s t : State) (e : Eng) (p : Pkt) : Prop :=
  ∃ q, q.hdr.dst = p.hdr.dst ∧ q.body = p.body ∧
    if straitRoom s e p then t.packets = s.packets ++ [q]
    else t.packets = s.packets ∧ (getStrait t e).waiting = (getStrait s e).waiting ++ [q]

/-- An access of the current thread issues (R227): the thread's record becomes th, every other thread and every byte of
memory is as before, and the request stands at its owner in this package or with the host, or leaves for another package
as a packet that carries it; with no route to that package it is answered as refused. -/
def Issues (i : Instr) (s : State) (th : Thread) (r : Req) : Prop :=
  ∃ t, exec i s = .next t ∧ curThr t = th ∧ (∀ u, u ≠ s.cur → getThr t u = getThr s u) ∧ SameBytes s t ∧
    t = { s with threads := t.threads, reqs := t.reqs, packets := t.packets, straits := t.straits, exits := t.exits,
                 nextId := t.nextId } ∧
    if r.host = true ∨ r.owner.pkg = s.cur.pkg then t.reqs = s.reqs ++ [r] ∧ t.packets = s.packets
    else match egress s (reqSrc s.cur.pkg s.cur.die r.from_) r.owner.pkg with
      | some e => t.reqs = s.reqs ++ [{ r with st := .away }] ∧
          ∃ p, p.hdr.dst.eng = r.owner ∧ (p.body = .hbmRead r ∨ p.body = .hbmWrite r ∨ p.body = .hbmAtomic r) ∧ Leaves s t e p
      | none => (∀ q ∈ t.reqs, q.id = r.id → q.st = .done ∧ q.denied = true) ∧ (∃ q ∈ t.reqs, q.id = r.id) ∧
          t.packets = s.packets

/-- An instruction of the current thread writes its result at once (R235): from the state u that its own effect has left,
rd holds v, the program counter has advanced by 4, and nothing else of the thread and nothing else at all has changed. -/
def Gives (i : Instr) (s u : State) (rd : RegNo) (v : Word) : Prop :=
  ∃ t, exec i s = .next t ∧ readReg (curThr t) rd = (if rd = 0 then 0 else v) ∧
    (∀ r, r ≠ rd → readReg (curThr t) r = readReg (curThr u) r) ∧ (curThr t).pc = (curThr u).pc + 4 ∧
    OnlyRegsAndPc (curThr u) (curThr t) ∧ OnlyThread u.cur u t

/-- An async instruction of the current thread issues (R235): from the state u that its own effect has left, rd's
scoreboard bit is set, the instruction is outstanding with what it waits for, the program counter has advanced by 4, and
nothing else has changed. -/
def AsyncIssues (i : Instr) (s u : State) (rd : RegNo) (w : AsyncWait) : Prop :=
  ∃ t, exec i s = .next t ∧ OnlyThread u.cur u t ∧
    curThr t = { curThr u with pc := (curThr u).pc + 4, pass := 0,
                               sb := if rd = 0 then (curThr u).sb else (curThr u).sb ||| BitVec.twoPow 32 rd.toNat
                               asyncs := (curThr u).asyncs ++ [{ rd := rd, wait := w }] }

/-- A blocking instruction of the current thread waits (R235): the thread holds it and nothing else has changed. -/
def Blocks (i : Instr) (s : State) : Prop :=
  ∃ t, exec i s = .next t ∧ OnlyThread s.cur s t ∧ curThr t = { curThr s with wait := some i }

/-- The current thread may issue another async instruction (R235). -/
def AsyncRoom (s : State) : Prop := (curThr s).asyncs.length < 4

/-- Every earlier access of the current thread has been performed (R236, R237). -/
def Quiet (s : State) : Prop := (curThr s).loads = [] ∧ (curThr s).stores = []

/-- A memory operand of n bytes is readable and sound: its bytes, and the state with the banks' read counts. -/
def Reads (s : State) (va : Word) (n : Nat) (bs : List Byte) (u : State) : Prop :=
  ∃ ps, opRange s .read va n = .ok ps ∧ readPieces s ps = (bs, false, u)

/-! ### Firings -/

/-- The operator of r's graph that a token is addressed to. -/
def consumerOfTok (s : State) (r : OpRef) (t : Token) : Option OpRef :=
  (getGraph s r.key).bind fun g => (opAtCoord g t.dst).bind fun i => opRef r.key g i

/-- A predicate that a GSTEER or GMERGE reads, which the steering balance counts (R127). -/
def steers (o : Op) (t : Token) : Bool :=
  decide (t.kind = 4) && decide (t.dst.pos = 2) && decide (opKind o = 0x09 ∨ opKind o = 0x0A)

/-- The increment of an emitted token: it carries the token and counts at its consumer's colour (R21, R116). -/
def risesFor (s : State) (r : OpRef) (fid : Nat) (t : Token) : LiveUpdate :=
  let o := ((consumerOfTok s r t).map (·.op)).getD {}
  { firing := fid, key := colKeyAt r.key o t.tag, inc := true, tok := some t, pb := if steers o t then 1 else 0, lid := t.lid }

/-- The decrement of a consumed token, at the colour it counted against (R21, R116). -/
def fallsFor (r : OpRef) (fid : Nat) (t : Token) : LiveUpdate :=
  { firing := fid, key := colKeyAt r.key r.op t.tag, inc := false, tok := if steers r.op t then some t else none,
    pb := if steers r.op t then -1 else 0, lid := t.lid }

/-- Every token of an emission has a consumer in the graph, and the activation that emits, whose tag is at_, is no member of
an unwinding instance (R135). -/
def Emits (s : State) (r : OpRef) (at_ : Word) (out : List Token) : Prop :=
  unwindingAt r at_ = false ∧ ∀ t ∈ out, (consumerOfTok s r t).isSome = true

/-- A firing of a flow activation has happened (R21, R112): each emitted token's increment, in order, and after them each
consumed token's decrement, are on their way to the home engines; the activation has left the flow unit; no thread and no
byte of memory has changed. -/
def Fired (s t : State) (f : Firing) (fid : Nat) (out : List Token) : Prop :=
  t.updates = s.updates ++ out.map (risesFor s f.r fid) ++ f.toks.map (fallsFor f.r fid) ∧
    (getEng t f.r.op.eng).flow = (getEng s f.r.op.eng).flow.erase f.act ∧ t.threads = s.threads ∧ SameBytes s t

/-- A flow instruction fires a firing, emitting out. -/
def FiresOut (i : Instr) (s : State) (f : Firing) (out : List Token) : Prop :=
  refsRoom s out = true → Emits s f.r f.q.tag out → ∃ t, exec i s = .next t ∧ Fired s t f s.nextId out

/-- A firing ends in an operator fault (R119): nothing is emitted, the consumed tokens are set aside in the fault record,
and a report with the cause and value is raised. -/
def FaultsOp (i : Instr) (s : State) (f : Firing) (cause tval : Nat) : Prop :=
  faultRoom s f.r.op.eng f.toks.length = true → ∃ t, exec i s = .next t ∧ t.updates = s.updates ∧
    (getEng t f.r.op.eng).fault = (getEng s f.r.op.eng).fault ++
      f.toks.map (fun k => { tok := k, slot := f.r.op.slot, vrow := f.q.vrow, why := 2 }) ∧
    (∃ rep, t.reports = s.reports ++ [rep] ∧ rep.cause = cause ∧ rep.tval = BitVec.ofNat 64 tval) ∧
    t.threads = s.threads ∧ SameBytes s t

/-- A colour record exists and holds c. -/
def ColourIs (s : State) (k : ColKey) (c : Colour) : Prop := (getRegion s k).bind (fun r => r.recs[k.colour]?) = some c

/-! ### Compute activations -/

/-- A compute activation starts (R137): it leaves its unit's queue and runs with the tokens it consumes and the destinations
allocated for it; no thread and no byte of memory has changed. -/
def StartsRun (i : Instr) (s : State) (e : Eng) (f : Start) : Prop :=
  ∃ t, exec i s = .next t ∧
    unitRun (getEng t e) (opKind f.r.op) = some { act := f.act, toks := f.toks, dests := f.act.dests } ∧
    (getEng t e).unit = (getEng s e).unit.erase f.act ∧ t.threads = s.threads ∧ SameBytes s t

/-- A compute activation ends in an operator fault before it starts (R142): its tokens are set aside and a report with the
cause is raised. -/
def FaultsStart (i : Instr) (s : State) (e : Eng) (f : Start) (cause : Nat) : Prop :=
  ∃ t, exec i s = .next t ∧ (getEng t e).fault = (getEng s e).fault ++
      f.toks.map (fun k => { tok := k, slot := f.r.op.slot, vrow := f.q.vrow, why := 2 }) ∧
    (∃ rep, t.reports = s.reports ++ [rep] ∧ rep.cause = cause) ∧ t.updates = s.updates ∧ SameBytes s t

/-- A running activation has computed its image (R33, R141), whose destination refuses no chunk: the chunk writes of its destination begin, one for each chunk
of the tile in order, the image's residue is kept for the tile token, the sticky flags are or-ed in, and no thread and no
byte of memory has changed yet. -/
def WritesOut (i : Instr) (s : State) (e : Eng) (r : OpRef) (u : Run) (id : TileId) (img : List Byte) (flags : Nat)
    (extra : Option Token) : Prop :=
  imageRefused s id = none → ∃ t, exec i s = .next t ∧
    (getEng t e).run = some { u with phase := 1, resid := [residueOf img], extra := extra } ∧
    (∃ ws, t.chunkWrites = s.chunkWrites ++ ws ∧ ws.map (·.chunk) = List.range (tileChunks (getTile s id)) ∧
      ∀ w ∈ ws, w.tile = id) ∧
    (tget {} r.op.slot (getEng t e).slots).flags = (tget {} r.op.slot (getEng s e).slots).flags ||| flags ∧
    t.threads = s.threads ∧ SameBytes s t

/-- A running activation ends (R21, R137, R141): its emissions' increments and then its inputs' decrements are on their way,
each tile input is retired, and the unit is idle; no thread and no byte of memory has changed. -/
def EndsRun (i : Instr) (s : State) (e : Eng) (r : OpRef) (u : Run) (fid : Nat) (out : List Token) : Prop :=
  refsRoom s out = true → Emits s r ((u.toks.head?.map (·.tag)).getD 0) out → ∃ t, exec i s = .next t ∧
    unitRun (getEng t e) (opKind r.op) = none ∧
    t.updates = s.updates ++ out.map (risesFor s r fid) ++ u.toks.map (fallsFor r fid) ∧
    t.retires = s.retires ++ (u.toks.filter fun k => decide (k.kind = 1)).map (fun k => { tile := tokTile k }) ∧
    t.threads = s.threads ∧ SameBytes s t

/-! ### HBM -/

/-- The new value of an atomic's doubleword from the old one, the operand and the compare value (R229); the old one where
it does not write. -/
def atomicResult (op : Nat) (old v c : Word) : Word :=
  match op with
  | 0 => old + v
  | 1 => old &&& v
  | 2 => old ||| v
  | 3 => old ^^^ v
  | 4 => v
  | 5 => if old.toInt < v.toInt then old else v
  | 6 => if old.toInt < v.toInt then v else old
  | 7 => if old = c then v else old
  | _ => if v = 0 ∨ old.toNat < v.toNat then old + 1 else old

/-- Bytes bs stand in HBM from address a, and every other byte of every memory is as before. -/
def StoresHbm (s t : State) (a : Nat) (bs : List Byte) : Prop :=
  (∀ k (h : k < bs.length), memGet t.hbm (a + k) = bs[k]) ∧
    (∀ x, x < a ∨ a + bs.length ≤ x → memGet t.hbm x = memGet s.hbm x) ∧
    ∀ x, memGet t.l0 x = memGet s.l0 x ∧ memGet t.hostMem x = memGet s.hostMem x

/-! ### Commands -/

/-- A command stands at the head of a function's ring, and R406 does not refuse it. -/
def Heads (s : State) (pkg fn op : Nat) (c : Cmd) : Prop :=
  (∃ cs, (getFn s (pkg, fn)).cmds = c :: cs) ∧ cmdRefusal fn c = none ∧ c.op = op

/-- A command step ends the command (R406): from the state u that the command's own effect has left, it completes with a
result word and data. -/
def Ends (i : Instr) (s u : State) (pkg fn : Nat) (c : Cmd) (w : Word) (data : List Byte) : Prop :=
  exec i s = .next (complete u pkg fn c w data)

/-- The commands of R408 that one step performs, by op. -/
def cmdForms : List (Nat × (Nat → Nat → Instr)) :=
  [(0x01, .ident), (0x02, .attest), (0x03, .fwstage), (0x10, .pcreate), (0x11, .pdestroy), (0x12, .flr), (0x13, .pgrant),
   (0x14, .aspace), (0x15, .pools), (0x16, .faults), (0x20, .slots), (0x28, .lqset), (0x29, .cqset), (0x30, .routes),
   (0x31, .mstone), (0x32, .rgroup), (0x34, .tlbinv), (0x40, .readObject), (0x50, .scrub), (0x58, .power)]

/-! ### Families named by the claims -/

/-- The loads of R226 with their size in bytes and whether they extend the sign. -/
def loadForms : List ((RegNo → RegNo → Imm16 → Instr) × Nat × Bool) :=
  [(.ld8, 1, true), (.ld8n, 1, false), (.ld16, 2, true), (.ld16n, 2, false), (.ld32, 4, true), (.ld32n, 4, false),
   (.ld64, 8, false)]

/-- The stores of R226 with their size in bytes. -/
def storeForms : List ((RegNo → RegNo → Imm16 → Instr) × Nat) := [(.st8, 1), (.st16, 2), (.st32, 4), (.st64, 8)]

/-- The atomics of R229 with their operation code. -/
def amoForms : List ((RegNo → RegNo → RegNo → AmoOrd → Instr) × Nat) :=
  [(.amoadd, 0), (.amoand, 1), (.amoor, 2), (.amoxor, 3), (.amoswp, 4), (.amomin, 5), (.amomax, 6), (.amocas, 7),
   (.amoinc, 8)]

end Sys2Proof.Machine
end

