-- ==== Sys2Proof/Certificates/Slice0/Obligations.lean ====
section
/-!
DEFINITION. Certificates/Slice0/Obligations.lean: the statements for the provers.
-/
open Sys2Proof Sys2Proof.Machine

/-! ### Encoding and the step -/

/-- For every well-formed control core instruction, decode of encode is the instruction (R102 to R105). -/
def Obligations.DecodeEncode : Prop := ∀ i : Instr, Sys2Proof.Laws.RoundTrip.Statement i

/-- A core's turn runs a decoded instruction (R220, R225, R352). A thread whose fetch misses asks for a walk first. The core issues
from the first thread in rotating order that has an instruction ready, from the asked one when none has; the next turn starts
after that thread. If the thread may issue, its word is readable, no watch filter hits, no register of the instruction waits and no
deferred error is raised, the step is exec of the instruction, with the bank's count of the word's read; with the fetch missing, a
register waiting, or the thread not to issue, nothing else changes; a word that decodes to none is ILLEGAL_INSTRUCTION, a fetch
error FETCH_FAULT, a filter hit the watchpoint trap. An event turn is exec of that event; with no turn on the agenda the free
schedule names it (log 1). -/
def Obligations.StepRunsDecoded : Prop :=
  (∀ (s : State) (t u : Tid) (us : List Turn), s.agenda = .issue t :: us → (getPkg s t.pkg).off = false →
    let a := fetchMiss { s with agenda := us } t
    issuer a t = u →
    let v := { a with cur := u, coreNext := tset (u.pkg, u.die) ((u.thr + 1) % 4) a.coreNext }
    let th := getThr s u
    (mayIssue th = false → step s = .next v) ∧
    (mayIssue th = true →
      (nextWord v u = .error none → step s = .next v) ∧
      (∀ f, nextWord v u = .error (some f) → step s = exec (.fetchFault f) v) ∧
      (∀ w, nextWord v u = .ok w →
        (ccWatch v u .fetch th.pc.toNat 4 = true → step s = .next (watchTrap v u .fetch th.pc th.pc)) ∧
        (ccWatch v u .fetch th.pc.toNat 4 = false →
          (∀ x, decode w = .error x → step s = exec (.illegalInstruction w) (issueRead v u)) ∧
          ∀ i, decode w = .ok i →
            (hazard th i = true → step s = .next v) ∧
            (hazard th i = false → raisesError th i = false → step s = exec i (issueRead v u)))))) ∧
  (∀ (s : State) (t : Tid),
    (nextWord s t ≠ .error none ∨ mayIssue (getThr s t) = false → fetchMiss s t = s) ∧
    fetchMiss s t = { s with walks := (fetchMiss s t).walks } ∧
    issueRead s t = { s with bankModes := (issueRead s t).bankModes }) ∧
  (∀ (s : State) (t : Tid),
    let turn := fun k => { t with thr := (tget 0 (t.pkg, t.die) s.coreNext + k) % 4 }
    (∀ k, k < 4 → issueReady s (turn k) = true → (∀ j, j < k → issueReady s (turn j) = false) → issuer s t = turn k) ∧
    ((∀ k, k < 4 → issueReady s (turn k) = false) → issuer s t = t)) ∧
  (∀ (s : State) (us : List Turn) (i : Instr),
    s.agenda = .event i :: us → isStep i = true → (∀ p, stepPkg i = some p → (getPkg s p).off = false) →
    step s = exec i { s with agenda := us }) ∧
  (∀ s : State, s.agenda = [] →
    step s = step { s with agenda := [Config.schedule s.tick], tick := s.tick + 1 })

/-- Nothing stops but the clocks (R414): exec answers a next state for every instruction in every state; a step is never
refused, and is safe while no package has stopped its clocks; a thread's turn where its package has stopped them faults. -/
def Obligations.NothingStops : Prop :=
  (∀ (i : Instr) (s : State), ∃ t, exec i s = .next t) ∧
  (∀ s : State, (∀ r, step s ≠ .refused r) ∧ ((∀ p, (getPkg s p).off = false) → s.Safe)) ∧
  (∀ (s : State) (t : Tid) (us : List Turn), s.agenda = .issue t :: us → (getPkg s t.pkg).off = true →
    step s = .fault .clocksStopped)

/-- Words written out from the encodings of R102 to R106 and R233 decode to the instructions they stand for, a word or more of
each major's family; unassigned words and words with a stray bit decode to none. -/
def Obligations.DecodedWords : Prop :=
  decode 0x00221801 = .ok (.add 1 2 3) ∧ decode 0x0422FFFF = .ok (.addi 1 2 0xFFFF) ∧
  decode 0x1422003F = .ok (.shli 1 2 63) ∧ decode 0x20808000 = .ok (.lui 4 0x8000) ∧
  decode 0x2BFFFFFF = .ok (.jal 31 0x1FFFFF) ∧ decode 0x2C220004 = .ok (.jalr 1 2 4) ∧
  decode 0x3460FFFD = .ok (.bne 3 0 0xFFFD) ∧ decode 0x47DF7FFF = .ok (.bgen 30 31 0x7FFF) ∧
  decode 0x4CA60010 = .ok (.ld8n 5 6 0x10) ∧ decode 0x60A6FFF8 = .ok (.ld64 5 6 0xFFF8) ∧
  decode 0x6CE80020 = .ok (.st32 7 8 0x20) ∧ decode 0x74221810 = .ok (.amoadd 1 2 3 .acq) ∧
  decode 0x74E80038 = .ok (.amoinc 7 8 0 .ar) ∧ decode 0x78000005 = .ok (.fence .sys) ∧
  decode 0x7C00ABCD = .ok (.trap 0xABCD) ∧ decode 0x80000000 = .ok .nop ∧ decode 0x80000002 = .ok .eret ∧
  decode 0x80090004 = .ok (.sev 9) ∧ decode 0x84600006 = .ok (.csrrd 3 0x006) ∧
  decode 0x84042000 = .ok (.csrset 4 0x000) ∧ decode 0x88A40001 = .ok (.gload 5 4) ∧
  decode 0x88A43003 = .ok (.glaunch 5 4 6) ∧ decode 0x8C221808 = .ok (.barwait 1 2 3) ∧
  decode 0x90221801 = .ok (.chopen 1 2 3) ∧ decode 0x90E00008 = .ok (.time 7) ∧
  ∀ w ∈ [0x00000000, 0x94000000, 0x00221816, 0x14220040, 0x74221800, 0x78000006, 0x80200000, 0x84041001],
    ∃ x, decode (BitVec.ofNat 32 w) = .error x

/-! ### Integer instructions, jumps and branches -/

/-- The register operations (R222): rd holds the result, s0 keeps reading zero, the program counter advances by 4, and
no other register, flag, special register or byte changes. -/
def Obligations.IntegerOps : Prop := ∀ (s : State) (rd rs1 rs2 : RegNo),
  let a := rs s rs1; let b := rs s rs2; let n := b.toNat % 64; let npc := (curThr s).pc + 4
  Computes (.add rd rs1 rs2) s rd (a + b) npc ∧
  Computes (.sub rd rs1 rs2) s rd (a - b) npc ∧
  Computes (.and rd rs1 rs2) s rd (a &&& b) npc ∧
  Computes (.or rd rs1 rs2) s rd (a ||| b) npc ∧
  Computes (.xor rd rs1 rs2) s rd (a ^^^ b) npc ∧
  Computes (.shl rd rs1 rs2) s rd (BitVec.ofNat 64 (a.toNat * 2 ^ n)) npc ∧
  Computes (.shr rd rs1 rs2) s rd (BitVec.ofNat 64 (a.toNat / 2 ^ n)) npc ∧
  Computes (.sar rd rs1 rs2) s rd (BitVec.ofInt 64 (a.toInt / 2 ^ n)) npc ∧
  Computes (.mul rd rs1 rs2) s rd (BitVec.ofNat 64 (a.toNat * b.toNat)) npc ∧
  Computes (.mulh rd rs1 rs2) s rd (BitVec.ofInt 64 (a.toInt * b.toInt / 2 ^ 64)) npc ∧
  Computes (.mulhn rd rs1 rs2) s rd (BitVec.ofNat 64 (a.toNat * b.toNat / 2 ^ 64)) npc ∧
  Computes (.div rd rs1 rs2) s rd (if b = 0 then BitVec.allOnes 64 else BitVec.ofInt 64 (a.toInt.tdiv b.toInt)) npc ∧
  Computes (.divn rd rs1 rs2) s rd (if b = 0 then BitVec.allOnes 64 else BitVec.ofNat 64 (a.toNat / b.toNat)) npc ∧
  Computes (.rem rd rs1 rs2) s rd (if b = 0 then a else BitVec.ofInt 64 (a.toInt - b.toInt * a.toInt.tdiv b.toInt)) npc ∧
  Computes (.remn rd rs1 rs2) s rd (if b = 0 then a else BitVec.ofNat 64 (a.toNat % b.toNat)) npc ∧
  Computes (.min rd rs1 rs2) s rd (BitVec.ofInt 64 (min a.toInt b.toInt)) npc ∧
  Computes (.max rd rs1 rs2) s rd (BitVec.ofInt 64 (max a.toInt b.toInt)) npc ∧
  Computes (.minn rd rs1 rs2) s rd (BitVec.ofNat 64 (min a.toNat b.toNat)) npc ∧
  Computes (.maxn rd rs1 rs2) s rd (BitVec.ofNat 64 (max a.toNat b.toNat)) npc ∧
  Computes (.slt rd rs1 rs2) s rd (if a.toInt < b.toInt then 1 else 0) npc ∧
  Computes (.sltn rd rs1 rs2) s rd (if a.toNat < b.toNat then 1 else 0) npc

/-- The immediate forms (R223). -/
def Obligations.ImmediateOps : Prop := ∀ (s : State) (rd rs1 : RegNo) (imm : Imm16) (sh : BitVec 6),
  let a := rs s rs1; let n := sh.toNat; let pc := (curThr s).pc
  Computes (.addi rd rs1 imm) s rd (BitVec.ofInt 64 (a.toInt + imm.toInt)) (pc + 4) ∧
  Computes (.andi rd rs1 imm) s rd (a &&& BitVec.ofNat 64 imm.toNat) (pc + 4) ∧
  Computes (.ori rd rs1 imm) s rd (a ||| BitVec.ofNat 64 imm.toNat) (pc + 4) ∧
  Computes (.xori rd rs1 imm) s rd (a ^^^ BitVec.ofNat 64 imm.toNat) (pc + 4) ∧
  Computes (.shli rd rs1 sh) s rd (BitVec.ofNat 64 (a.toNat * 2 ^ n)) (pc + 4) ∧
  Computes (.shri rd rs1 sh) s rd (BitVec.ofNat 64 (a.toNat / 2 ^ n)) (pc + 4) ∧
  Computes (.sari rd rs1 sh) s rd (BitVec.ofInt 64 (a.toInt / 2 ^ n)) (pc + 4) ∧
  Computes (.lui rd imm) s rd (BitVec.ofInt 64 (imm.toInt * 2 ^ 16)) (pc + 4) ∧
  Computes (.auip rd imm) s rd (pc + BitVec.ofInt 64 (imm.toInt * 2 ^ 16)) (pc + 4)

/-- The jumps write the next address, the base being sampled first, and continue at their target; a branch whose test
holds continues at its own address plus four times its immediate, otherwise at the next word (R105, R224). -/
def Obligations.JumpsAndBranches : Prop :=
  ∀ (s : State) (rd rs1 rs2 : RegNo) (imm : Imm16) (off : BitVec 21),
  let a := rs s rs1; let b := rs s rs2; let pc := (curThr s).pc
  let tgt := pc + BitVec.ofInt 64 (imm.toInt * 4)
  Computes (.jal rd off) s rd (pc + 4) (pc + BitVec.ofInt 64 (off.toInt * 4)) ∧
  Computes (.jalr rd rs1 imm) s rd (pc + 4) (a + BitVec.ofInt 64 (imm.toInt * 4)) ∧
  Jumps (.beq rs1 rs2 imm) s (if a = b then tgt else pc + 4) ∧
  Jumps (.bne rs1 rs2 imm) s (if a = b then pc + 4 else tgt) ∧
  Jumps (.blt rs1 rs2 imm) s (if a.toInt < b.toInt then tgt else pc + 4) ∧
  Jumps (.bge rs1 rs2 imm) s (if a.toInt < b.toInt then pc + 4 else tgt) ∧
  Jumps (.bltn rs1 rs2 imm) s (if a.toNat < b.toNat then tgt else pc + 4) ∧
  Jumps (.bgen rs1 rs2 imm) s (if a.toNat < b.toNat then pc + 4 else tgt)

/-! ### Memory instructions -/

/-- A load (R226, R227): with its checks passed, room among the 8 outstanding loads and no earlier acquire pending, it
issues one read of its size at base plus offset, sets rd's scoreboard bit and advances; with the loads full or an
acquire pending it waits; a misaligned address, a failing translation and a watched address trap with the address; an address
whose page the core's TLB does not hold waits for its walk (R352). -/
def Obligations.LoadsIssue : Prop := ∀ f ∈ loadForms, ∀ (s : State) (rd rs1 : RegNo) (imm : Imm16),
  let i := f.1 rd rs1 imm; let n := f.2.1; let th := curThr s
  let va := readReg th rs1 + BitVec.ofInt 64 imm.toInt
  (∀ tg, threadAccess s s.cur .read va n = .ok tg → ccWatch s s.cur .read va.toNat n = false →
    (th.loads.length < 8 → (∀ l ∈ th.loads, l.acq = false) →
      Issues i s
        { th with pc := th.pc + 4, pass := 0, sb := if rd = 0 then th.sb else th.sb ||| BitVec.twoPow 32 rd.toNat,
                  loads := th.loads ++ [{ id := s.nextId, rd := rd, va := va, size := n, sext := f.2.2,
                                          level := th.levels.length }] }
        (mkReq s.nextId tg .read n va.toNat th.part 0 (.load s.cur s.nextId))) ∧
    (8 ≤ th.loads.length ∨ (∃ l ∈ th.loads, l.acq = true) → exec i s = .next s)) ∧
  (th.errs = [] → va.toNat % n ≠ 0 → TakesTrap i s 0x0002 va th.pc) ∧
  (th.errs = [] → ∀ c, c ≠ 0 → threadAccess s s.cur .read va n = .error c → TakesTrap i s c va th.pc) ∧
  (threadAccess s s.cur .read va n = .error 0 → AwaitsWalk i s s va.toNat) ∧
  (th.errs = [] → ∀ tg, threadAccess s s.cur .read va n = .ok tg → ccWatch s s.cur .read va.toNat n = true →
    WatchTraps i s va)

/-- A store (R226, R227): with its checks passed, room among the 16 outstanding stores and no earlier acquire pending,
it issues one write of the low bytes of its source at base plus offset and advances; it traps and waits as a load does. -/
def Obligations.StoresIssue : Prop := ∀ f ∈ storeForms, ∀ (s : State) (src rs1 : RegNo) (imm : Imm16),
  let i := f.1 src rs1 imm; let n := f.2; let th := curThr s
  let va := readReg th rs1 + BitVec.ofInt 64 imm.toInt
  let room := (th.stores.filter (!·.atomic)).length
  (∀ tg, threadAccess s s.cur .write va n = .ok tg → ccWatch s s.cur .write va.toNat n = false →
    (room < 16 → (∀ l ∈ th.loads, l.acq = false) →
      Issues i s
        { th with pc := th.pc + 4, pass := 0, stores := th.stores ++ [{ id := s.nextId, va := va, size := n }] }
        (mkReq s.nextId tg (.write (leBytes n (readReg th src).toNat) false) n va.toNat th.part 0
          (.store s.cur s.nextId))) ∧
    (16 ≤ room ∨ (∃ l ∈ th.loads, l.acq = true) → exec i s = .next s)) ∧
  (th.errs = [] → va.toNat % n ≠ 0 → TakesTrap i s 0x0002 va th.pc) ∧
  (th.errs = [] → ∀ c, c ≠ 0 → threadAccess s s.cur .write va n = .error c → TakesTrap i s c va th.pc) ∧
  (threadAccess s s.cur .write va n = .error 0 → AwaitsWalk i s s va.toNat) ∧
  (th.errs = [] → ∀ tg, threadAccess s s.cur .write va n = .ok tg → ccWatch s s.cur .write va.toNat n = true →
    WatchTraps i s va)

/-- An atomic (R229, R230): with its checks passed, a load slot free, no earlier acquire pending and, with .rel or .ar,
every earlier access performed, it issues one atomic request on the doubleword with the operand s[rs2] and the compare
value s[rd], and later accesses wait for it when it is .acq or .ar; it traps and waits as a load does. -/
def Obligations.AtomicsIssue : Prop := ∀ f ∈ amoForms, ∀ (s : State) (rd rs1 rs2 : RegNo) (ord : AmoOrd),
  let i := f.1 rd rs1 rs2 ord; let th := curThr s; let va := readReg th rs1
  let early := ord ≠ .acq ∧ (th.loads ≠ [] ∨ th.stores ≠ [])
  (∀ tg, threadAccess s s.cur .atomic va 8 = .ok tg → ccWatch s s.cur .atomic va.toNat 8 = false →
    (th.loads.length < 8 → (∀ l ∈ th.loads, l.acq = false) → ¬early →
      Issues i s
        { th with pc := th.pc + 4, pass := 0, sb := if rd = 0 then th.sb else th.sb ||| BitVec.twoPow 32 rd.toNat,
                  loads := th.loads ++ [{ id := s.nextId, rd := rd, va := va, acq := decide (ord ≠ .rel),
                                          level := th.levels.length }]
                  stores := th.stores ++ [{ id := s.nextId, va := va, atomic := true }] }
        (mkReq s.nextId tg (.atomic f.2 (readReg th rs2) (readReg th rd)) 8 va.toNat th.part 0
          (.load s.cur s.nextId))) ∧
    (8 ≤ th.loads.length ∨ (∃ l ∈ th.loads, l.acq = true) ∨ early → exec i s = .next s)) ∧
  (th.errs = [] → va.toNat % 8 ≠ 0 → TakesTrap i s 0x0002 va th.pc) ∧
  (th.errs = [] → ∀ c, c ≠ 0 → threadAccess s s.cur .atomic va 8 = .error c → TakesTrap i s c va th.pc) ∧
  (threadAccess s s.cur .atomic va 8 = .error 0 → AwaitsWalk i s s va.toNat) ∧
  (th.errs = [] → ∀ tg, threadAccess s s.cur .atomic va 8 = .ok tg → ccWatch s s.cur .atomic va.toNat 8 = true →
    WatchTraps i s va)

/-! ### Fences, events, traps and control registers -/

/-- NOP advances; HALT and FENCE wait until every earlier access is performed, HALT then halts the thread past itself and FENCE goes
on, with scope .pkg or wider forgetting the package's page walks that came to a fault, so that a retry walks again (R353); WFE clears
a set event bit, and otherwise waits; SEV sets the event bit of the threads its register names (R231, R232). That any FENCE and a
WFE that goes on make the thread fetch again, and that a FENCE of page or wider does so for every thread of the die, is the model's
choice (R225 asks a thread to acquire; log 141). Nothing else changes. -/
def Obligations.ThreadControl : Prop := ∀ (s : State),
  let th := curThr s; let adv : Thread := { th with pc := th.pc + 4, pass := 0 }
  let quiet := th.loads = [] ∧ th.stores = []
  (∃ t, exec .nop s = .next t ∧ curThr t = adv ∧ OnlyThread s.cur s t) ∧
  (quiet → ∃ t, exec .halt s = .next t ∧ curThr t = { adv with halted := true } ∧ OnlyThread s.cur s t) ∧
  (¬quiet → exec .halt s = .next s ∧ ∀ sc, exec (.fence sc) s = .next s) ∧
  (quiet → ∃ t, exec (.fence .elem) s = .next t ∧ curThr t = { adv with ahead := [], spoilt := [] } ∧
    OnlyThread s.cur s t) ∧
  (quiet → ∀ sc, sc ≠ .elem → ∃ t, exec (.fence sc) s = .next t ∧ t = { s with threads := t.threads, walks := t.walks } ∧
    t.walks = (if sc = .pkg ∨ sc = .dom ∨ sc = .sys then s.walks.filter fun w => w.fault == 0 || decide (w.pkg ≠ s.cur.pkg)
      else s.walks) ∧
    curThr t = { adv with ahead := [], spoilt := [] } ∧
    ∀ u, u ≠ s.cur → getThr t u = if u.pkg = s.cur.pkg ∧ u.die = s.cur.die
      then { getThr s u with ahead := [], spoilt := [] } else getThr s u) ∧
  (th.event = true → ∃ t, exec .wfe s = .next t ∧
    curThr t = { adv with event := false, ahead := [], spoilt := [] } ∧ OnlyThread s.cur s t) ∧
  (th.event = false → exec .wfe s = .next s) ∧
  (∀ rs1, ∃ t, exec (.sev rs1) s = .next t ∧ t = { s with threads := t.threads } ∧
    ∀ u, getThr t u =
      let v := if u = s.cur then adv else getThr s u
      if u.pkg = s.cur.pkg ∧ u.die = s.cur.die ∧ u.thr < 4 ∧ (rs s rs1).getLsbD u.thr = true then { v with event := true }
      else v)

/-- The software trap (R262): its word, its cause, cc_tval the immediate, cc_epc the next word. -/
def Obligations.TrapTaken : Prop := ∀ (s : State) (imm : Imm16),
  decode (0x7C000000#32 + imm.zeroExtend 32) = .ok (.trap imm) ∧
  ((curThr s).errs = [] → TakesTrap (.trap imm) s 0x000C (BitVec.ofNat 64 imm.toNat) ((curThr s).pc + 4))

/-- ERET (R264, R333): its word; with ht 1 the program counter is cc_epc, ae the pae bit, ht 0, the access that a watch filter
caught passes once, a walk that came to a fault is made again (R353), and what the trap held is released: an activation or a command
may go on, a token's engine takes arrivals again, a request stands at its owner (or on its way to it) and passes its filter once, a
held sector access goes on, a DEADLOCK report's place is free; with ht 0 it is an illegal instruction. -/
def Obligations.EretReturns : Prop := decode 0x80000002#32 = .ok .eret ∧ ∀ (s : State),
  let th := curThr s
  (th.ht = true → ∃ t, exec .eret s = .next t ∧
    curThr t = { th with pc := th.epc, ae := th.cause.getLsbD 18, ht := false, held := .none,
                         pass := if th.cause.toNat % 65536 = 0x000E then th.watched else 0 } ∧
    (∀ u, u ≠ s.cur → getThr t u = getThr s u) ∧ SameBytes s t ∧
    (∀ w ∈ t.walks, w.pkg = s.cur.pkg → w.fault = 0) ∧
    (th.held = .none → t = { s with threads := t.threads, walks := t.walks }) ∧
    (∀ e slot vrow, th.held = .act e slot vrow → ∀ w ∈ t.allocWait, w.eng = e → w.slot = slot → w.vrow = vrow →
      w.held = false) ∧
    (∀ e k, th.held = .token e k → (getEng t e).ovf = false) ∧
    (∀ n, th.held = .request n → (∀ r ∈ t.reqs, r.id = n → r.unfiltered = true ∧
        r.st = if s.inbox.any (carriesReq n) then .away else .queued) ∧
      (∀ h ∈ t.watchHolds, h.id = n → h.held = false) ∧ (∀ p ∈ t.inbox, p.id = n → p.held = false) ∧
      ∀ p ∈ t.streams, ∀ c ∈ p.2.slots, c.2.id = n → c.2.held = false) ∧
    (∀ e a, th.held = .xlate e a → (getEng t e).unit = (getEng s e).unit ++ [a]) ∧
    (∀ p d n, th.held = .report p d n → tfind (p, d, n) t.qmReports = none)) ∧
  (th.ht = false → th.errs = [] → TakesTrap .eret s 0x0001 0x80000002 th.pc)

/-- An illegal word traps with the word in cc_tval (R106); a fetch fault traps at the address that would issue, with its
cause (R221, R225, R332). -/
def Obligations.IllegalAndFetchFault : Prop := ∀ (s : State) (w : IWord),
  let th := curThr s
  th.errs = [] →
  TakesTrap (.illegalInstruction w) s 0x0001 (BitVec.ofNat 64 w.toNat) th.pc ∧
  TakesTrap (.fetchFault .misaligned) s 0x0003 th.pc th.pc ∧
  TakesTrap (.fetchFault .notPresent) s 0x0007 th.pc th.pc ∧
  TakesTrap (.fetchFault .permission) s 0x0008 th.pc th.pc ∧
  TakesTrap (.fetchFault .illegalAddress) s 0x0009 th.pc th.pc ∧
  TakesTrap (.fetchFault .dataError) s 0x000B th.pc th.pc

/-- The control registers (R265 to R267): CSRRD reads each; CSRWR, CSRSET and CSRCLR write the value, its or and its
and-not into the writable ones, keeping read-only fields; nothing else changes. -/
def Obligations.ControlRegisters : Prop := ∀ (s : State) (rd rs1 : RegNo),
  let th := curThr s; let npc := th.pc + 4; let a := rs s rs1
  Computes (.csrrd rd 0x000) s rd (BitVec.ofNat 64 ((if th.ae then 2 else 0) + (if th.ht then 8 else 0) +
    (if th.lsq then 32 else 0) + 2 ^ 16 * min 15 th.levels.length + 2 ^ 20 * min 15 th.pend.length)) npc ∧
  Computes (.csrrd rd 0x001) s rd th.cause npc ∧
  Computes (.csrrd rd 0x002) s rd (th.epc &&& ~~~3#64) npc ∧
  Computes (.csrrd rd 0x003) s rd th.tval npc ∧
  Computes (.csrrd rd 0x004) s rd th.tinfo npc ∧
  Computes (.csrrd rd 0x005) s rd th.tcoord npc ∧
  Computes (.csrrd rd 0x006) s rd (th.tvec &&& ~~~3#64) npc ∧
  Computes (.csrrd rd 0x007) s rd th.hnote npc ∧
  Computes (.csrrd rd 0x010) s rd th.lid npc ∧
  Computes (.csrrd rd 0x011) s rd (BitVec.ofNat 64 th.agid) npc ∧
  Computes (.csrrd rd 0x012) s rd (BitVec.ofNat 64 th.part) npc ∧
  Computes (.csrrd rd 0x013) s rd (BitVec.ofNat 64 (s.cur.thr + 4 * s.cur.die + 16 * s.cur.pkg)) npc ∧
  Computes (.csrrd rd 0x014) s rd th.ibase npc ∧
  Computes (.csrrd rd 0x020) s rd (BitVec.ofNat 64 (getPkg s s.cur.pkg).time) npc ∧
  (∀ (i : BitVec 12 → Instr) (v : Word → Word),
    (i = .csrwr rs1 ∧ v = fun _ => a) ∨ (i = .csrset rs1 ∧ v = fun old => old ||| a) ∨
      (i = .csrclr rs1 ∧ v = fun old => old &&& ~~~a) →
    let writes := fun (c : BitVec 12) (b : Thread) => ∃ t, exec (i c) s = .next t ∧ OnlyThread s.cur s t ∧
      curThr t = { b with pc := npc, pass := 0 }
    let st := v (statusWord th)
    writes 0x000 { th with ae := st.getLsbD 1, lsq := th.lsq && st.getLsbD 5 } ∧
    writes 0x002 { th with epc := v (th.epc &&& ~~~3#64) &&& ~~~3#64 } ∧
    writes 0x006 { th with tvec := v (th.tvec &&& ~~~3#64) &&& ~~~3#64 } ∧
    writes 0x007 { th with hnote := v th.hnote } ∧
    writes 0x010 { th with lid := v th.lid } ∧
    writes 0x014 { th with ibase := v th.ibase })
/-! ### Device instructions -/

/-- An async instruction waits at issue while four of its thread are outstanding, and a device instruction that reads
memory or releases waits while an earlier load, store or atomic is not performed; an acquire waits for an earlier
acquiring atomic (R235 to R237, R304): the state is unchanged. That a read of a descriptor waits for every outstanding access,
and not for those of overlapping bytes alone, is the model's choice (log 126). -/
def Obligations.AsyncInstructionsWait : Prop := ∀ (s : State) (rd rs1 rs2 : RegNo),
  (4 ≤ (curThr s).asyncs.length → ∀ i ∈ [Instr.gload rd rs1, .gfree rd rs1, .glaunch rd rs1 rs2, .gkill rd rs1, .inject rd rs1,
    .purge rd rs1 rs2, .msread rd rs1 rs2, .clread rd rs1 rs2, .freeze rd rs1, .savec rd rs1 rs2, .restc rd rs1,
    .cpyq rd rs1 rs2, .chopen rd rs1 rs2, .chtry rd rs1 rs2, .chclose rd rs1], exec i s = .next s) ∧
  (4 ≤ (curThr s).asyncs.length → rs1 ≠ 0 → exec (.crgnc rd rs1 rs2) s = .next s) ∧
  ((curThr s).loads ≠ [] ∨ (curThr s).stores ≠ [] → ∀ i ∈ [Instr.gload rd rs1, .glaunch rd rs1 rs2, .inject rd rs1,
    .restc rd rs1, .cpyq rd rs1 rs2, .chopen rd rs1 rs2, .chtry rd rs1 rs2, .chrd rd rs1 rs2, .twset rd rs1 rs2,
    .sbind rd rs1 rs2, .sstart rd rs1 rs2], exec i s = .next s) ∧
  ((∃ l ∈ (curThr s).loads, l.acq = true) →
    exec (.cpywait rd rs1 rs2) s = .next s ∧ exec (.barwait rd rs1 rs2) s = .next s)

/-- GLOAD and GFREE (R238, R239): for a header and a descriptor that pass their checks, GLOAD takes the outcome of loading
the graph of the image, and a handle it answers named no graph before and names one after; while compaction moves sets
it waits (the model's choice, log 98). GFREE of a graph with a live launch fails with 0x05, unless the graph is frozen and saved; it
waits while a pinned tile of the graph has accesses outstanding (the model's choice, log 142: R34 lets nothing free such a tile, and
R239 is silent); otherwise the graph is unloaded and its handle names none. That only the words that this load needs give 0x09 is
the model's reading (log 97). -/
def Obligations.GraphLoadAndFree : Prop := ∀ (s : State) (rd rs1 : RegNo), AsyncRoom s →
  let th := curThr s; let va := rs s rs1
  (Quiet s → ∀ dp hp ps w1 w2, opRange s .read va 64 = .ok dp → opRange s .read th.ibase 128 = .ok hp →
    (readPieces s dp).2.1 = false → readPieces s hp = (w1, false, w2) →
    headerRefuse w1 (getPkg s s.cur.pkg).stepping = none → th.ibase.toNat ≤ va.toNat →
    opRange s .read th.ibase (imageBytes (headerSecs w1)) = .ok ps →
    let im : Image := { bs := (readPieces s ps).1, secs := headerSecs w1 }
    let o := va.toNat - th.ibase.toNat
    descRefuse im o = none → (readParts s th.ibase (imageReads im o)).1 = false →
    (∀ u w, loadGraph s s.cur.pkg th.part th.agid th.ibase im o = .done u w →
      AsyncIssues (.gload rd rs1) s (readParts u th.ibase (imageReads im o)).2 rd (.ready w) ∧
      ∀ h, h < 256 → w = okWord h →
        getGraph s (s.cur.pkg, h) = none ∧ (getGraph u (s.cur.pkg, h)).isSome = true) ∧
    (∀ u, loadGraph s s.cur.pkg th.part th.agid th.ibase im o = .moving u → exec (.gload rd rs1) s = .next u)) ∧
  (∀ g, graphArg s va.toNat = .ok g → g.moveTo = none →
    (hasLaunch s s.cur.pkg va.toNat = true → (g.frozen && g.saved) = false →
      AsyncIssues (.gfree rd rs1) s s rd (.ready (errWord 0x05))) ∧
    (hasLaunch s s.cur.pkg va.toNat = false ∨ (g.frozen && g.saved) = true →
      (pinnedBusy s g = true → exec (.gfree rd rs1) s = .next s) ∧
      (pinnedBusy s g = false →
        AsyncIssues (.gfree rd rs1) s (reevalAll (unloadGraph s s.cur.pkg va.toNat g)) rd (.ready (okWord 0)) ∧
        getGraph (unloadGraph s s.cur.pkg va.toNat g) (s.cur.pkg, va.toNat) = none))) ∧
  (∀ w, graphArg s va.toNat = .error w → AsyncIssues (.gfree rd rs1) s s rd (.ready w))

/-- GLAUNCH and GKILL (R236, R240, R241): a record that passes its checks is appended to its launch queue and the result waits
for its acceptance; a refused one answers its code, a full queue 0x01, and a range of the queue that faults traps or waits for its walk. GKILL of
a live launch of the partition marks it killed with the status it will end with, and the result waits for the end. -/
def Obligations.LaunchAndKill : Prop := ∀ (s : State) (rd rs1 rs2 : RegNo), AsyncRoom s →
  let h := (rs s rs1).toNat; let va := rs s rs2
  let launches := fun (u : State) (r : LaunchRec) =>
    (∀ q lq, recCode u s.cur.pkg (curPart s) r = none → queueOf u s.cur.pkg (curPart s) r.queue = some (q, lq) →
      (∀ i v, appendSlot u lq.base.toNat lq.log2 (bytesOfRec r) = .ok (i, v) →
        AsyncIssues (.glaunch rd rs1 rs2) s v rd (.launch q i)) ∧
      (∀ w, appendSlot u lq.base.toNat lq.log2 (bytesOfRec r) = .error (.inr w) → w = errWord 0x01 ∧
        AsyncIssues (.glaunch rd rs1 rs2) s u rd (.ready w)) ∧
      (∀ x, appendSlot u lq.base.toNat lq.log2 (bytesOfRec r) = .error (.inl x) → OpTraps (.glaunch rd rs1 rs2) s u x)) ∧
    (∀ c, recCode u s.cur.pkg (curPart s) r = some c → AsyncIssues (.glaunch rd rs1 rs2) s u rd (.ready (errWord c)))
  (Quiet s → moving s h = false → h < 256 →
    (va = 0 → launches s { graph := h, prio := 2, trap := s.cur.thr + 4 * s.cur.die, agid := (curThr s).agid,
                           wait := [0, 0, 0, 0], thr := [0, 0, 0, 0] }) ∧
    (va ≠ 0 → ∀ bs u, Reads s va 64 bs u → launches u { recOfBytes bs with graph := h })) ∧
  (∀ l, launchArg s h = .ok l → moving s l.record.graph = false →
    (l.killed = true → AsyncIssues (.gkill rd rs1) s s rd (.kill h 0)) ∧
    (l.killed = false → AsyncIssues (.gkill rd rs1) s (beginKill s s.cur.pkg h l.why).1 rd
      (.kill h (beginKill s s.cur.pkg h l.why).2))) ∧
  (∀ w, launchArg s h = .error w → AsyncIssues (.gkill rd rs1) s s rd (.ready w))

/-- INJECT and PURGE (R21, R242, R243, R259): an accepted injection asks its SOURCE to fire and waits until it has, and waits at
issue while a live count it would raise is at its limit; one that fails answers its status, a descriptor with a reserved bit set
0x02 in every case (R12); inside a containment level another is held there with result 0. PURGE of a busy colour of the launch answers
when nothing of it is in flight, with the tokens removed, and otherwise waits; of another colour it answers 0x05 (that a colour of
another launch is refused so is the model's choice, log 99). -/
def Obligations.InjectAndPurge : Prop := ∀ (s : State) (rd rs1 rs2 : RegNo), AsyncRoom s →
  (Quiet s → ∀ bs u, Reads s (rs s rs1) 32 bs u →
    let d := injOfBytes bs
    ((curThr u).levels = [] → ∀ x, inject { u with nextId := u.nextId + 1 } s.cur.pkg (curPart s) d u.nextId = x →
      (∀ v, x = .ok v → injectFull u s.cur.pkg d = false → AsyncIssues (.inject rd rs1) s v rd (.inject u.nextId d.lid)) ∧
      (∀ v, x = .ok v → injectFull u s.cur.pkg d = true → exec (.inject rd rs1) s = .next s) ∧
      (∀ w, x = .error w → AsyncIssues (.inject rd rs1) s u rd (.ready w))) ∧
    (d.bad = true → AsyncIssues (.inject rd rs1) s u rd (.ready (errWord 0x02))) ∧
    (d.bad = false → (curThr u).levels ≠ [] → heldCount (curThr u) < 64 →
      AsyncIssues (.inject rd rs1) s (modCur u fun th => holdEffect th (.inject d)) rd (.ready (okWord 0)))) ∧
  (let v := (rs s rs1).toNat; let c := (rs s rs2).toNat; let lid := v % 4096
   let k : ColKey := { pkg := s.cur.pkg, graph := v / 2 ^ 20 % 256, region := v / 2 ^ 12 % 256, colour := c }
   v < 2 ^ 28 → c < 256 → ∀ g l, graphArg s k.graph = .ok g → launchArg s lid = .ok l → k.region < g.regions.length →
    (purgeRefused s k lid = true → AsyncIssues (.purge rd rs1 rs2) s s rd (.ready (errWord 0x05))) ∧
    (purgeRefused s k lid = false → purgeWaits s k lid = true → AsyncIssues (.purge rd rs1 rs2) s s rd (.purge lid k)) ∧
    (purgeRefused s k lid = false → purgeWaits s k lid = false →
      let r := purgeCols s (k.pkg, k.graph) g [k] lid
      AsyncIssues (.purge rd rs1 rs2) s (reevalAll r.1) rd (.ready (okWord (r.2 % 2 ^ 32)))))

/-- MSREAD and CLREAD (R244): the rows of an operator of the partition in ascending virtual row, 64 bytes each, and a
region's descriptor, colour records and free list, are written to the buffer and the count is the result, once every earlier access
of the thread is performed (R228, R304); a buffer too small answers 0x03 with nothing written. The buffer is written in the step that
completes the instruction: the model's choice (log 102). -/
def Obligations.ReadbackInstructions : Prop := ∀ (s : State) (rd rs1 rs2 : RegNo), AsyncRoom s →
  let v := (rs s rs1).toNat; let va := rs s rs2; let cap := (rs s rd).toNat
  let out := fun (i : Instr) (room : Nat) (bs : List Byte) (n : Nat) => va.toNat % 8 = 0 →
    (room < bs.length → AsyncIssues i s s rd (.ready (errWord 0x03))) ∧
    (bs.length ≤ room → ¬Quiet s → exec i s = .next s) ∧
    (bs.length ≤ room → Quiet s → ∀ ps, opRange s .write va bs.length = .ok ps →
      AsyncIssues i s (writePieces s bs ps) rd (.ready (okWord n)))
  (v < 2 ^ 17 → v / 2 ^ 6 % 32 ≠ 29 → ∀ r,
    findOp s ⟨s.cur.pkg, v / 2 ^ 15 % 4, v / 2 ^ 11 % 16, v / 2 ^ 6 % 32⟩ (v % 64) = some r → r.g.part = curPart s →
    let rows := slotRows s ⟨s.cur.pkg, v / 2 ^ 15 % 4, v / 2 ^ 11 % 16, v / 2 ^ 6 % 32⟩ (v % 64)
    out (.msread rd rs1 rs2) (64 * cap) ((rows.map rowNat).flatMap (leBytes 64)) rows.length) ∧
  (2 ^ 17 ≤ v → AsyncIssues (.msread rd rs1 rs2) s s rd (.ready (errWord 0x02))) ∧
  (v < 2 ^ 16 → ∀ g r, graphArg s (v % 256) = .ok g → g.regions[v / 256]? = some r →
    out (.clread rd rs1 rs2) cap (regionBytes r) (regionBytes r).length) ∧
  (2 ^ 16 ≤ v → AsyncIssues (.clread rd rs1 rs2) s s rd (.ready (errWord 0x02)))

/-- FREEZE, THAW, SAVEC and RESTC (R245 to R247): FREEZE of a running set marks it and waits, of a frozen set it
succeeds; THAW of a frozen set runs it again, of any other it fails with 0x05; SAVEC of a quiet frozen set with no
uncorrectable word writes its image, once the thread's earlier accesses are performed, marks it saved and answers the image's size,
in a buffer too small 0x03; RESTC of an image that passes its checks places the set and answers its handle, 0x03 where no place can
be made, 0x09 with nothing placed where writing a page fails (R389). The bytes inside an image's sections (log 11), the buffer's
writing in one step (log 102) and what becomes of a set that compaction cannot place (log 25) are the model's choices. -/
def Obligations.PageSetInstructions : Prop := ∀ (s : State) (rd rs1 rs2 : RegNo),
  let h := (rs s rs1).toNat; let key := (s.cur.pkg, h)
  (AsyncRoom s → moving s h = false → ∀ g, graphArg s h = .ok g →
    (g.frozen = true → AsyncIssues (.freeze rd rs1) s s rd (.ready (okWord 0))) ∧
    (g.frozen = false → AsyncIssues (.freeze rd rs1) s (setGraph s key { g with freezing := true }) rd (.freeze h)) ∧
    (g.freezing = false → g.frozen = false → AsyncIssues (.savec rd rs1 rs2) s s rd (.ready (errWord 0x05))) ∧
    (g.freezing = false → g.frozen = true → setQuiet s key g = true →
      let d := saveSet s key g; let bs := saveImage s d
      (savedBad d ≠ [] → AsyncIssues (.savec rd rs1 rs2) s s rd (.ready (errWord 0x09))) ∧
      (savedBad d = [] → (rs s rd).toNat < bs.length → AsyncIssues (.savec rd rs1 rs2) s s rd (.ready (errWord 0x03))) ∧
      (savedBad d = [] → bs.length ≤ (rs s rd).toNat → ¬Quiet s → exec (.savec rd rs1 rs2) s = .next s) ∧
      (∀ ps, savedBad d = [] → bs.length ≤ (rs s rd).toNat → Quiet s → opRange s .write (rs s rs2) bs.length = .ok ps →
        AsyncIssues (.savec rd rs1 rs2) s (setGraph (writePieces s bs ps) key { g with saved := true }) rd
          (.ready (okWord bs.length))))) ∧
  (∀ g, graphArg s h = .ok g → g.freezing = false →
    (g.frozen = true → Gives (.thaw rd rs1) s (thaw s key g) rd (okWord 0)) ∧
    (g.frozen = false → Gives (.thaw rd rs1) s s rd (errWord 0x05))) ∧
  (AsyncRoom s → Quiet s → ∀ hp ps bs u, opRange s .read (rs s rs1) 128 = .ok hp →
    opRange s .read (rs s rs1) (max 128 (field (readPieces s hp).1 16 8)) = .ok ps → readPieces s ps = (bs, false, u) →
    let ends := fun (v : State) (w : Word) => AsyncIssues (.restc rd rs1) s v rd (.ready w)
    let p := s.cur.pkg; let v := forgetRoom u p
    (∀ e, imageCheck u bs = .error e → ends u e) ∧
    (∀ d, imageCheck u bs = .ok d → let g := d.graph
      (∀ r, place u u.graphs p g.part g.nd g.prows g.pcols = some r →
        (∀ x n, restoreImage v d r = .ok (x, n) →
          (pageError v (relocPages p g r) = none → ends x (okWord n) ∧ (getGraph x (p, n)).isSome = true) ∧
          (∀ y, pageError v (relocPages p g r) = some y → ends y (errWord 0x09) ∧ y = { v with badPages := y.badPages })) ∧
        (∀ e, restoreImage v d r = .error e → ends v e)) ∧
      (place u u.graphs p g.part g.nd g.prows g.pcols = none → compactFor u p g.part g.nd g.prows g.pcols = none →
        ends v (errWord 0x03))))

/-- SBIND, SSTART and SBAR (R248, R249, R313): once the thread's earlier accesses are performed, a checked pattern takes the
least free slot of its port, which is the result, or the thread waits for one; a bound slot starts with the next order number and
behind the latest barrier; a barrier separates what starts later. That the slot is the least free one (log 9) and that the command's
launch is the one in cc_lid (log 72) are the model's choices. -/
def Obligations.StreamInstructions : Prop := ∀ (s : State) (rd rs1 rs2 : RegNo) (k : Eng × Nat),
  portOf s.cur.pkg (rs s rs1).toNat = some k →
  let n := (rs s rs2).toNat; let foreign := portForeign s k (curPart s)
  (Quiet s → ∀ bs u c, Reads s (rs s rs2) 32 bs u → patternOf bs = some c → patternErr s k (curPart s) c = none →
    (∀ m, freeCmd (getPort u k) = some m →
      Gives (.sbind rd rs1 rs2) s (modPort { u with nextId := u.nextId + 1 } k fun p =>
        { p with slots := tset m { c with id := u.nextId, part := curPart u, lid := (curThr u).lid.toNat % 4096 } p.slots })
        rd (okWord m)) ∧
    (freeCmd (getPort u k) = none → Blocks (.sbind rd rs1 rs2) s)) ∧
  (Quiet s → n < 8 → foreign = false →
    (cmdAt s k n = none → Gives (.sstart rd rs1 rs2) s s rd (errWord 0x05)) ∧
    (∀ c, cmdAt s k n = some c → c.part = curPart s →
      (c.phase = 0 → Gives (.sstart rd rs1 rs2) s
        (modPort (setCmd s k n { c with phase := 1, order := (getPort s k).order, by_ := s.cur, bar := (getPort s k).bar }) k fun p =>
          { p with order := (getPort s k).order + 1 }) rd (okWord 0)) ∧
      (c.phase ≠ 0 → Gives (.sstart rd rs1 rs2) s s rd (errWord 0x05)))) ∧
  (foreign = false → Gives (.sbar rd rs1) s (modPort s k fun p => { p with bar := p.order }) rd (okWord 0)) ∧
  (foreign = true → Gives (.sbar rd rs1) s s rd (errWord 0x0A))

/-- CPYQ and CPYWAIT (R236, R252, R253): a copy packet takes the next slot of a queue of the partition and its index is the
result, of a full queue 0x01; a range of the queue that faults traps or waits for its walk. CPYWAIT answers 0 once every masked chunk bit of its
tile is set, 0x05 for a free tile, and otherwise waits. Barriers (R37, R254): BARARM re-arms, BARARRIVE counts an arrival
or sets excess, each with its flip when every arrival and every byte is in; BARWAIT answers the phase once it differs and
otherwise waits; 0x02, 0x05 and 0x0A as R254 says; a stray bit or a foreign barrier is an illegal instruction for the two
without rd. The waits that succeed are acquires: the thread fetches again (R225, R237). -/
def Obligations.CopyAndBarrierInstructions : Prop :=
  (∀ (s : State) (rd rs1 rs2 : RegNo),
   (AsyncRoom s → Quiet s →
     let q := (rs s rs1).toNat; let c := getCopyQ s (s.cur.pkg, s.cur.die, q)
     (16 ≤ q → AsyncIssues (.cpyq rd rs1 rs2) s s rd (.ready (errWord 0x02))) ∧
     (q < 16 → c.set = false → AsyncIssues (.cpyq rd rs1 rs2) s s rd (.ready (errWord 0x04))) ∧
     (q < 16 → c.set = true → c.part ≠ curPart s → AsyncIssues (.cpyq rd rs1 rs2) s s rd (.ready (errWord 0x0A))) ∧
     (q < 16 → c.set = true → c.part = curPart s → ∀ bs u, Reads s (rs s rs2) 56 bs u →
       (∀ i v, appendSlot u c.base.toNat c.log2 bs = .ok (i, v) →
         AsyncIssues (.cpyq rd rs1 rs2) s v rd (.ready (okWord i))) ∧
       (∀ w, appendSlot u c.base.toNat c.log2 bs = .error (.inr w) → w = errWord 0x01 ∧
         AsyncIssues (.cpyq rd rs1 rs2) s u rd (.ready w)) ∧
       (∀ x, appendSlot u c.base.toNat c.log2 bs = .error (.inl x) → OpTraps (.cpyq rd rs1 rs2) s u x))) ∧
   (let v := (rs s rs1).toNat; let m := (rs s rd).toNat * 2 ^ 64 + (rs s rs2).toNat
    let t := getTile s { pkg := s.cur.pkg, die := v / 2 ^ 16, handle := v % 2 ^ 16 }
    let i := Instr.cpywait rd rs1 rs2
    let w := modCur s fun th => { th with gone := false }
    (∀ l ∈ (curThr s).loads, l.acq = false) →
    (2 ^ 18 ≤ v → Gives i s w rd (errWord 0x02)) ∧
    (v < 2 ^ 18 → t.state = 0 → Gives i s w rd (errWord 0x05)) ∧
    (v < 2 ^ 18 → t.state ≠ 0 → t.part ≠ curPart s → Gives i s w rd (errWord 0x0A)) ∧
    (v < 2 ^ 18 → t.state ≠ 0 → t.part = curPart s →
      (2 ^ tileChunks t ≤ m → Gives i s w rd (errWord 0x02)) ∧
      (m < 2 ^ tileChunks t → (∀ k, k < 128 → m.testBit k = true → t.cmap.getLsbD k = true) →
        Gives i s (modCur w clearAhead) rd (okWord 0)) ∧
      (m < 2 ^ tileChunks t → (∃ k, k < 128 ∧ m.testBit k = true ∧ t.cmap.getLsbD k = false) →
        ∃ t, exec i s = .next t ∧ OnlyThread s.cur s t ∧ curThr t = { curThr s with gone := false, wait := some i })))) ∧
  (∀ (s : State) (rd rs1 rs2 : RegNo),
   let v := (rs s rs1).toNat; let w := (rs s rs2).toNat; let th := curThr s
   let k := (s.cur.pkg, v / 2 ^ 12, v % 2 ^ 12); let b := getBar s k
   let mine := v < 2 ^ 14 ∧ barOwner s s.cur.pkg (v / 2 ^ 12) (v % 2 ^ 12) = curPart s
   let free := ∀ l ∈ th.loads, l.acq = false
   let becomes := fun (i : Instr) (c : Barrier) => ∃ t, exec i s = .next t ∧ getBar t k = c ∧
     (∀ j, j ≠ k → getBar t j = getBar s j) ∧ t = { s with threads := t.threads, bars := t.bars } ∧
     curThr t = { th with pc := th.pc + 4, pass := 0 } ∧ ∀ u, u ≠ s.cur → getThr t u = getThr s u
   (mine → w < 2 ^ 48 →
     let a := w % 2 ^ 32; let e := w / 2 ^ 32
     (free → becomes (.bararm rs1 rs2)
       { b with armed := true, arrived := 0, abytes := a, pend := a, expect := e, excess := false,
                phase := if e = 0 ∧ a = 0 then !b.phase else b.phase }) ∧
     (¬free → exec (.bararm rs1 rs2) s = .next s)) ∧
   (mine → Quiet s →
     (b.armed = false ∨ b.arrived = b.expect → becomes (.bararrive rs1) { b with excess := true }) ∧
     (b.armed = true → b.arrived ≠ b.expect →
       becomes (.bararrive rs1) (if b.arrived + 1 = b.expect ∧ b.pend = 0
         then { b with arrived := 0, pend := b.abytes, phase := !b.phase } else { b with arrived := b.arrived + 1 }))) ∧
   (mine → ¬Quiet s → exec (.bararrive rs1) s = .next s) ∧
   (free → mine →
     (2 ≤ w → Computes (.barwait rd rs1 rs2) s rd (errWord 0x02) (th.pc + 4)) ∧
     (w < 2 → b.armed = false → Computes (.barwait rd rs1 rs2) s rd (errWord 0x05) (th.pc + 4)) ∧
     (w < 2 → b.armed = true → b.phase ≠ decide (w = 1) →
       Gives (.barwait rd rs1 rs2) s (modCur s clearAhead) rd (if b.phase then 1 else 0)) ∧
     (w < 2 → b.armed = true → b.phase = decide (w = 1) → Blocks (.barwait rd rs1 rs2) s)) ∧
   (free → 2 ^ 14 ≤ v → Computes (.barwait rd rs1 rs2) s rd (errWord 0x02) (th.pc + 4)) ∧
   (free → v < 2 ^ 14 → ¬mine → Computes (.barwait rd rs1 rs2) s rd (errWord 0x0A) (th.pc + 4)) ∧
   (th.errs = [] → ¬mine → ∀ x, encode (.bararrive rs1) = some x →
     TakesTrap (.bararrive rs1) s 0x0001 (BitVec.ofNat 64 x.toNat) th.pc) ∧
   (th.errs = [] → ¬mine ∨ 2 ^ 48 ≤ w → ∀ x, encode (.bararm rs1 rs2) = some x →
     TakesTrap (.bararm rs1 rs2) s 0x0001 (BitVec.ofNat 64 x.toNat) th.pc))

/-- Channels (R255 to R257, R322, R323): CHOPEN of a fresh name opens a channel of the partition with its ring placed,
the thread as the end it names; a writer puts its record at the tail or waits, a reader takes the oldest record into its
buffer and fetches again (R225), or waits, CHTRY answers 0x01 on an empty channel, both 0x0B at the end of a closed one; a record in
a segment waits for the slots of its owners (R359, R375). CHCLOSE by the writer closes for writing, by the opener of an idle channel
frees it and evaluates again what waits for room (R26). That a thread's read checks no residue is the model's choice (log 78). -/
def Obligations.ChannelInstructions : Prop := ∀ (s : State) (rd rs1 rs2 : RegNo) (k : ChanKey),
  let v := (rs s rs1).toNat; let c := getChan s k
  (AsyncRoom s → Quiet s → ∀ bs u n x, (rs s rs2).toNat < 3 → Reads s (rs s rs1) 16 bs u →
    (chanRecOf (leNat bs)).ok = true → openChan u (chanRecOf (leNat bs)) (rs s rs2).toNat = .ok (n, x) →
    AsyncIssues (.chopen rd rs1 rs2) s x rd (.ready (okWord n)) ∧
    ∃ i, n = i + s.cur.die * 2 ^ 12 ∧ (getChan s (s.cur.pkg, s.cur.die, i)).state = 0 ∧
      (getChan x (s.cur.pkg, s.cur.die, i)).state = 1 ∧ (getChan x (s.cur.pkg, s.cur.die, i)).recs = [] ∧
      (getChan x (s.cur.pkg, s.cur.die, i)).name = (chanRecOf (leNat bs)).name) ∧
  (writerArg s v = .ok k → (curThr s).levels = [] → ∀ bs u, Reads s (rs s rs2) (recBytes c) bs u →
    (¬Quiet s → Blocks (.chwr rd rs1 rs2) s) ∧
    (∀ x, Quiet s → putRec u k bs = .ok x → Gives (.chwr rd rs1 rs2) s x rd (okWord 0)) ∧
    (Quiet s → putRec u k bs = .wait → Blocks (.chwr rd rs1 rs2) s)) ∧
  (Quiet s → readerArg s v = .ok k → ∀ ps, opRange s .write (rs s rs2) (recBytes c) = .ok ps →
    let taken := fun (q : Rec) =>
      modCur (writePieces (takeRec (countRec s k q) k) (readRecBytes s k q).1 ps) clearAhead
    (headRec c = none → (c.state ≠ 2 ∨ c.recs ≠ []) → Blocks (.chrd rd rs1 rs2) s) ∧
    (headRec c = none → c.state = 2 → c.recs = [] → Gives (.chrd rd rs1 rs2) s s rd (errWord 0x0B)) ∧
    (∀ q, headRec c = some q → recGrants s k q = false →
      Blocks (.chrd rd rs1 rs2) s ∧ (AsyncRoom s → exec (.chtry rd rs1 rs2) s = .next s)) ∧
    (∀ q, headRec c = some q → recGrants s k q = true → (readRecBytes s k q).2 = false → q.poison = false →
      Gives (.chrd rd rs1 rs2) s (taken q) rd (okWord 0)) ∧
    (AsyncRoom s → headRec c = none → (c.state ≠ 2 ∨ c.recs ≠ []) →
      AsyncIssues (.chtry rd rs1 rs2) s s rd (.ready (errWord 0x01))) ∧
    (AsyncRoom s → headRec c = none → c.state = 2 → c.recs = [] →
      AsyncIssues (.chtry rd rs1 rs2) s s rd (.ready (errWord 0x0B))) ∧
    (AsyncRoom s → ∀ q, headRec c = some q → recGrants s k q = true → (readRecBytes s k q).2 = false → q.poison = false →
      AsyncIssues (.chtry rd rs1 rs2) s (taken q) rd (.ready (okWord 0)))) ∧
  (AsyncRoom s → chanArg s v = .ok k →
    (c.wep = .thread s.cur → AsyncIssues (.chclose rd rs1) s (setChan s k
      { c with wep := .none, state := if c.state = 1 then 2 else c.state, full := false }) rd (.ready (okWord 0))) ∧
    (c.wep ≠ .thread s.cur → c.ownerThread = some s.cur → c.wep = .none → c.rep = .none → c.recs = [] →
      AsyncIssues (.chclose rd rs1) s (reevalAll (freeChan s k)) rd (.ready (okWord 0))) ∧
    (c.wep ≠ .thread s.cur → (c.ownerThread ≠ some s.cur ∨ c.wep ≠ .none ∨ c.rep ≠ .none ∨ c.recs ≠ []) →
      AsyncIssues (.chclose rd rs1) s s rd (.ready (errWord 0x05))))

/-- Timers, time and quotas (R258, R261): TIME answers the device time; TWSET enters a timer and answers its handle,
0x03 with none free; TWCLR takes a pending one of the partition away, 0x0C for one that has fired; QSET sets an agent's
quota and answers the old one; QGET answers quota, usage or breaches; bad items give 0x02. Containment levels (R259,
R260): CRGNO opens a level with its handler and answers its number, 0x03 past eight; CRGNC with s0 closes the innermost
level, an inner one handing what it held to the level around it, the outermost performing it; with none open it answers
0x05; on a held instance it replays, once the tiles of its tokens take another token, or abandons. The timer handle that TWSET gives
out (log 9), 0x04 for a handle that was never given out (log 76) and the old quota's low 63 bits (log 77) are the model's choices. -/
def Obligations.TimeQuotasAndLevels : Prop :=
  (∀ (s : State) (rd rs1 rs2 : RegNo),
   let npc := (curThr s).pc + 4; let a := (rs s rs1).toNat; let b := (rs s rs2).toNat
   let qk := (s.cur.pkg, curPart s, a); let q := getQuota s qk
   let wk := (s.cur.pkg, s.cur.die); let w := getWheel s wk
   Computes (.time rd) s rd (BitVec.ofNat 64 ((getPkg s s.cur.pkg).time % 2 ^ 63)) npc ∧
   (Quiet s → b = 0 → (curThr s).levels = [] → ∀ h, freeTimer s s.cur.pkg s.cur.die = some h →
     ∃ u, Gives (.twset rd rs1 rs2) s u rd (okWord h) ∧ getThr u s.cur = getThr s s.cur ∧
       u = { s with wheels := u.wheels, nextId := s.nextId + 1 } ∧
       (getWheel u wk).ents = w.ents ++ [{ due := a, order := s.nextId, handle := some h, what := .twset s.cur none
                                           bound := boundOf (getPkg s s.cur.pkg).time a
                                           far := decide ((getPkg s s.cur.pkg).time + wheelSpan < a) }]) ∧
   (Quiet s → b = 0 → freeTimer s s.cur.pkg s.cur.die = none → Computes (.twset rd rs1 rs2) s rd (errWord 0x03) npc) ∧
   (∀ x t d, w.ents.find? (fun x => decide (x.handle = some a)) = some x → x.what = .twset t d →
     ((getThr s t).part = curPart s →
       Gives (.twclr rd rs1) s (touchTwset (dropEnt s s.cur.pkg s.cur.die x) s.cur.pkg d) rd (okWord 0)) ∧
     ((getThr s t).part ≠ curPart s → Computes (.twclr rd rs1) s rd (errWord 0x0A) npc)) ∧
   (w.ents.find? (fun x => decide (x.handle = some a)) = none → (heldHandles s s.cur.pkg s.cur.die).contains a = false →
     (w.used.contains a = true → Computes (.twclr rd rs1) s rd (errWord 0x0C) npc) ∧
     (w.used.contains a = false → Computes (.twclr rd rs1) s rd (errWord 0x04) npc)) ∧
   (a < 4096 → Gives (.qset rd rs1 rs2) s (setQuota s qk { q with quota := b }) rd (BitVec.ofNat 64 (q.quota % 2 ^ 63))) ∧
   (4096 ≤ a → Computes (.qset rd rs1 rs2) s rd (errWord 0x02) npc) ∧
   (a < 4096 → b = 0 → Computes (.qget rd rs1 rs2) s rd (BitVec.ofNat 64 (q.quota % 2 ^ 63)) npc) ∧
   (a < 4096 → b = 1 → Computes (.qget rd rs1 rs2) s rd (BitVec.ofNat 64 (q.usage % 2 ^ 63)) npc) ∧
   (a < 4096 → b = 2 → Computes (.qget rd rs1 rs2) s rd (BitVec.ofNat 64 (q.breaches % 2 ^ 63)) npc) ∧
   (4096 ≤ a ∨ 3 ≤ b → Computes (.qget rd rs1 rs2) s rd (errWord 0x02) npc)) ∧
  (∀ (s : State) (rd rs1 rs2 : RegNo),
   let th := curThr s; let ls := th.levels; let npc := th.pc + 4
   (ls.length < 8 → Gives (.crgno rd rs1) s
     (modCur s fun th => { th with levels := ls ++ [{ handler := rs s rs1, ret := npc }] }) rd (okWord (ls.length + 1))) ∧
   (8 ≤ ls.length → Computes (.crgno rd rs1) s rd (errWord 0x03) npc) ∧
   (ls = [] → Computes (.crgnc rd 0 rs2) s rd (errWord 0x05) npc) ∧
   (∀ l, ls = [l] → l.held = [] → Gives (.crgnc rd 0 rs2) s (modCur s fun th => { th with levels := [] }) rd (okWord 0)) ∧
   (∀ l u, ls = [l] → Quiet s → performAll s l.held = (u, [], none) →
     Gives (.crgnc rd 0 rs2) s (modCur u fun th => { th with levels := [] }) rd (okWord 0)) ∧
   (∀ up m l, ls = up ++ [m, l] → Gives (.crgnc rd 0 rs2) s
     (modCur s fun th => { th with levels := up ++ [{ m with held := m.held ++ l.held }] }) rd (okWord 0)) ∧
   (rs1 ≠ 0 → AsyncRoom s → Quiet s → ∀ bs u, Reads s (rs s rs1) 16 bs u → ∀ g,
     let key := BitVec.ofNat 64 (field bs 0 8); let act := (rs s rs2).toNat
     field bs 8 2 < 4096 → field bs 11 1 = 0 → field bs 14 2 = 0 → act = 1 ∨ act = 2 →
     graphArg u (field bs 10 1) = .ok g → field bs 12 2 < g.conts.length →
     let k := instAt g (field bs 12 2) key; let x := getInst g k.1 k.2
     (x.state ≠ 3 ∨ x.key ≠ key ∨ x.lid ≠ field bs 8 2 →
       AsyncIssues (.crgnc rd rs1 rs2) s u rd (.ready (errWord 0x05))) ∧
     (x.state = 3 → x.key = key → x.lid = field bs 8 2 → let room := replayRoom u (u.cur.pkg, field bs 10 1) g k.1 k.2
       (act = 1 → room = false → exec (.crgnc rd rs1 rs2) s = .next u) ∧
       (act = 2 ∨ room = true →
         AsyncIssues (.crgnc rd rs1 rs2) s (resolveInst u (u.cur.pkg, field bs 10 1) g k.1 k.2 (decide (act = 1))) rd
           (.ready (okWord 0))))))

/-! ### What reaches a thread -/

/-- LOAD_RETURN and WRITE_ACKNOWLEDGEMENT (R226, R227, R231, R351): a performed load writes its register, extended as the load
says, clears the scoreboard bit and leaves; an uncorrectable one, or one its owner refused, leaves the register and is
deferred with its cause; a squashed one is discarded and sets lsq; the return of an acquiring atomic makes the thread fetch
again; an acknowledged store leaves, and is deferred where its owner refused it. LOAD_DATA_ERROR (R221, R227): before an
instruction that names the register of a deferred error, or a fence, an atomic, HALT or WFE, the error is raised at the
instruction, with the failed access's address; outside every level it is the trap of R221 and the error leaves. That an access that
its owner refuses is deferred, with cause 0x0005, is the model's choice (log 18). -/
def Obligations.LoadsReturn : Prop :=
  (∀ (s : State) (t : Tid) (n : Nat) (r : Req),
   let th := getThr s t
   let rest := fun q => q ≠ r.id
   (∀ ld, th.loads.find? (·.id = n) = some ld → answerOf s (.load t n) = some r →
     ∃ u, exec (.loadReturn t n) s = .next u ∧ OnlyThread t { s with reqs := s.reqs.filter fun q => rest q.id } u ∧
       let w := getThr u t
       w.loads = th.loads.filter (·.id != n) ∧ w.stores = th.stores.filter (·.id != n) ∧ w.pc = th.pc ∧
       w.ahead = (if ld.acq then [] else th.ahead) ∧
       (ld.squashed = true → w.lsq = true ∧ w.s = th.s ∧ w.sb = th.sb ∧ w.errs = th.errs) ∧
       (ld.squashed = false → (∀ q, w.sb.getLsbD q = (th.sb.getLsbD q && decide (q ≠ ld.rd.toNat))) ∧ w.lsq = th.lsq ∧
         (r.bad = true ∨ r.denied = true → w.s = th.s ∧ w.errs = th.errs ++
           [{ rd := some ld.rd, va := ld.va, level := ld.level, cause := if r.denied = true then 0x0005 else 0x000A }]) ∧
         (r.bad = false → r.denied = false → w.errs = th.errs ∧
           readReg w ld.rd = (if ld.rd = 0 then 0 else if ld.sext then
             BitVec.ofInt 64 (BitVec.ofNat (8 * ld.size) (leNat r.data)).toInt else BitVec.ofNat 64 (leNat r.data)) ∧
           ∀ q, q ≠ ld.rd → readReg w q = readReg th q))) ∧
   (answerOf s (.store t n) = some r → ∃ u, exec (.writeAcknowledgement t n) s = .next u ∧
     OnlyThread t { s with reqs := s.reqs.filter fun q => rest q.id } u ∧
     (r.denied = false → getThr u t = { th with stores := th.stores.filter (·.id != n) }) ∧
     (∀ st, r.denied = true → th.stores.find? (·.id = n) = some st → getThr u t =
       { th with stores := th.stores.filter (·.id != n), errs := th.errs ++ [{ va := st.va, cause := 0x0005 }] }))) ∧
  (∀ (s : State) (t : Tid) (w : IWord) (i : Instr) (e : DefErr),
   let th := getThr s t
   mayIssue th = true → nextWord s t = .ok w → decode w = .ok i → hazard th i = false → th.errs = [e] → e.level = 0 →
   (i = .halt ∨ i = .wfe ∨ (∃ sc, i = .fence sc) ∨ (∃ f ∈ amoForms, ∃ a b c o, i = f.1 a b c o) ∨
     (∃ l r, regsOf i = some l ∧ e.rd = some r ∧ r ∈ l)) →
   ∃ u, exec (.loadDataError t) s = .next u ∧ (getThr u t).errs = [] ∧
     (th.ht = false → Trapped { th with errs := [] } (getThr u t) e.cause e.va th.pc) ∧
     (th.ht = true → getThr u t = { th with errs := [], halted := true, wait := none }) ∧
     (∀ k, k ≠ t → getThr u k = getThr s k) ∧ SameBytes s u)

/-- Reports and completions reach their thread (R235, R263, R330, R347): a report takes its place in a queue with fewer
than 16; with ae 1 and ht 0 the oldest enters the handler with its values and the asynchronous bit; a known result lands
in its register and clears the scoreboard bit, a squashed one only sets lsq; a blocked BARWAIT or CPYWAIT whose condition
holds ends with its result. -/
def Obligations.ReportsAndCompletions : Prop := ∀ (s : State) (t : Tid),
  let th := getThr s t
  (∀ n r, s.reports[n]? = some r → r.dest = t → (∀ q ∈ s.reports.take n, ¬(q.dest = r.dest ∧ q.src = r.src)) →
    (th.pend.length < 16 → ∃ u, exec (.pendingReportArrival n) s = .next u ∧ getThr u t = { th with pend := th.pend ++ [r] } ∧
      OnlyThread t { s with reports := s.reports.eraseIdx n } u) ∧
    (16 ≤ th.pend.length → exec (.pendingReportArrival n) s = .next s)) ∧
  (∀ r rest, th.pend = r :: rest → th.ae = true → th.ht = false → th.halted = false → th.stopped = false → th.errs = [] →
    th.pc.toNat % 4 = 0 →
    ∃ u, exec (.asyncTrapEntry t) s = .next u ∧ (∀ k, k ≠ t → getThr u k = getThr s k) ∧ SameBytes s u ∧
      getThr u t = { th with
        pend := rest, epc := th.pc &&& ~~~3#64, tval := r.tval, tinfo := r.tinfo, tcoord := BitVec.ofNat 64 r.tcoord,
        lid := BitVec.ofNat 64 r.lid, held := r.held, heldLid := r.lid, ae := false, ht := true, wait := none, pc := th.tvec,
        cause := BitVec.ofNat 64 (r.cause + 2 ^ 16 + (if holdsWork r.held then 2 ^ 17 else 0) + 2 ^ 18) }) ∧
  (th.ae = false ∨ th.ht = true → exec (.asyncTrapEntry t) s = .next s) ∧
  (∀ n a v, th.asyncs[n]? = some a → a.wait = .ready v → ∃ u, exec (.asyncCompletion t n) s = .next u ∧ OnlyThread t s u ∧
    (getThr u t).asyncs = th.asyncs.eraseIdx n ∧ (getThr u t).pc = th.pc ∧
    (a.squashed = true → (getThr u t).lsq = true ∧ (getThr u t).s = th.s ∧ (getThr u t).sb = th.sb) ∧
    (a.squashed = false → (∀ q, (getThr u t).sb.getLsbD q = (th.sb.getLsbD q && decide (q ≠ a.rd.toNat))) ∧
      readReg (getThr u t) a.rd = (if a.rd = 0 then 0 else v) ∧
      ∀ q, q ≠ a.rd → readReg (getThr u t) q = readReg th q)) ∧
  (∀ rd rs1 rs2, th.halted = false → th.stopped = false →
    let ends := fun (v : Word) => ∃ u, exec (.blockingWaitEnd t) s = .next u ∧ (getThr u t).wait = none ∧
      (getThr u t).pc = th.pc + 4 ∧ readReg (getThr u t) rd = (if rd = 0 then 0 else v) ∧
      (∀ q, q ≠ rd → readReg (getThr u t) q = readReg th q) ∧ (∀ k, k ≠ t → getThr u k = getThr s k) ∧ SameBytes s u
    (th.wait = some (.barwait rd rs1 rs2) → ∀ k, barArg { s with cur := t } (readReg th rs1).toNat = .ok k →
      (readReg th rs2).toNat < 2 → (getBar s k).armed = true → (getBar s k).phase ≠ (readReg th rs2).getLsbD 0 →
      ends (if (getBar s k).phase then 1 else 0)) ∧
    (th.wait = some (.cpywait rd rs1 rs2) → th.gone = false →
      let v := (readReg th rs1).toNat; let m := (readReg th rd).toNat * 2 ^ 64 + (readReg th rs2).toNat
      let x := getTile s { pkg := t.pkg, die := v / 2 ^ 16, handle := v % 2 ^ 16 }
      v < 2 ^ 18 → x.state ≠ 0 → x.part = th.part → m < 2 ^ tileChunks x →
      (∀ k, k < 128 → m.testBit k = true → x.cmap.getLsbD k = true) → ends 0))

/-! ### Tokens and the matching store -/

/-- TOKEN_ARRIVAL (R23, R25 to R28, R113, R135, R335): a token that has come along its route and passed the checks at its
engine meets its row. One of a kind its position accepts, for a free position, is put in that position and the other
positions of the row are kept, once the physical row could be made to hold its virtual row; where that could not be for
want of a block, it is held at ingress with MSOVF. One for an occupied position is a collision, one of another kind a kind
mismatch: it is set aside in the fault record and reported. A member token of an unwinding instance is consumed; that a
predicate token so discarded takes one from its colour's steering balance is the model's choice (log 26). -/
def Obligations.TokenArrives : Prop := ∀ (s : State) (e : Eng) (n : Nat) (t0 : Token) (r : OpRef),
  let t := walked t0
  s.inFlight[n]? = some t0 → (∀ u ∈ s.inFlight.take n, samePair t u = false) → (getEng s e).ingress = [] →
  mustCross t = false → crossGrants s (tokFrom t) e t.part = true → t.dst.eng = e → r.op.eng = e → r.op.slot = t.dst.slot → t.dst.pos < 3 → gate s e t = .row r s →
  opKind r.op ≠ 0x0B → arrivalRoom s r t = true →
  let vrow := vrowOf r.op t.tag; let q := findRow (getEng s e) r.op.slot vrow
  let aside := fun (why cause tval : Nat) => ∃ u, exec (.tokenArrival e n) s = .next u ∧
    u.inFlight = s.inFlight.eraseIdx n ∧ (getEng u e).rows = (getEng s e).rows ∧
    (getEng u e).fault = (getEng s e).fault ++ [{ tok := t, slot := t.dst.slot, vrow := vrow, why := why }] ∧
    (∃ rep, u.reports = s.reports ++ [rep] ∧ rep.cause = cause ∧ rep.tval = BitVec.ofNat 64 tval ∧ rep.tinfo = t.tag) ∧
    u.threads = s.threads ∧ SameBytes s u
  (unwindDiscards r t = true → ∃ u, exec (.tokenArrival e n) s = .next u ∧ u.inFlight = s.inFlight.eraseIdx n ∧
    u.updates = s.updates ++ [fallsFor r s.nextId t] ∧ (getEng u e).rows = (getEng s e).rows ∧
    u.retires = s.retires ++ (if t.kind = 1 then [{ tile := tokTile t }] else []) ∧ u.threads = s.threads ∧ SameBytes s u) ∧
  (unwindDiscards r t = false → kindOk r.op t.dst.pos t.kind = false → aside 2 0x0104 (t.kind % 16 + 16 * t.dst.pos)) ∧
  (unwindDiscards r t = false → kindOk r.op t.dst.pos t.kind = true →
    (∀ x v, q = some x → posTok x t.dst.pos = some v → aside 0 0x0101 t.dst.pos) ∧
    ((q.bind fun x => posTok x t.dst.pos) = none →
     (opKind r.op = 0x15 → t.dst.pos = 1 → (tget {} r.op.slot (getEng s e).slots).q ≤ tokScalar t ∧
       tokScalar t ≤ bits (opCfg r.op 0) 59 44) →
     (∀ v, makeRoom s e r.op.slot vrow = .ok v → ∃ u, exec (.tokenArrival e n) s = .next u ∧
       u.inFlight = s.inFlight.eraseIdx n ∧ u.threads = s.threads ∧ SameBytes s u ∧
       ∃ x, findRow (getEng u e) r.op.slot vrow = some x ∧ posTok x t.dst.pos = some t ∧ x.backed = false ∧
         ∀ p, p < 3 → p ≠ t.dst.pos → posTok x p = q.bind fun y => posTok y p) ∧
     (makeRoom s e r.op.slot vrow = .msovf → ∃ u, exec (.tokenArrival e n) s = .next u ∧
       u.inFlight = s.inFlight.eraseIdx n ∧ (getEng u e).ingress = [t] ∧ (getEng u e).ovf = true ∧
       (getEng u e).rows = (getEng s e).rows ∧ (∃ rep, u.reports = s.reports ++ [rep] ∧ rep.cause = 0x0201 ∧
         rep.tval = BitVec.ofNat 64 (rowsBacked (getEng s e) / 16 % 4096) ∧ rep.tinfo = t.tag) ∧
       u.threads = s.threads ∧ SameBytes s u)))

/-- Live counts (R21, R22): an increment raises its colour's count and only then releases its token, behind the tokens of
its pair; at the greatest count it waits; a decrement waits for the increments of its firing and then lowers the count; a
closed colour whose count falls to zero returns to its region's list with its record zeroed. Updates of the steering
balance, R127, are not covered here. -/
def Obligations.LiveCounts : Prop := ∀ (s : State) (n : Nat) (u : LiveUpdate) (c : Colour),
  s.updates[n]? = some u → u.pb = 0 → ColourIs s u.key c →
  (u.inc = true → c.live = 2 ^ 24 - 1 → exec (.liveCountUpdate n) s = .next s) ∧
  (u.inc = true → c.live < 2 ^ 24 - 1 → ∀ t, u.tok = some t → (∀ v ∈ s.updates.take n, samePairUpd t v = false) →
    ∃ x, exec (.liveCountUpdate n) s = .next x ∧ x.updates = s.updates.eraseIdx n ∧ x.inFlight = s.inFlight ++ [t] ∧
      ColourIs x u.key { c with live := c.live + 1 } ∧ x.threads = s.threads ∧ SameBytes s x) ∧
  (u.inc = false → (∃ v ∈ s.updates, v.firing = u.firing ∧ v.inc = true) → exec (.liveCountUpdate n) s = .next s) ∧
  (u.inc = false → (∀ v ∈ s.updates, v.firing = u.firing → v.inc = false) →
    (c.busy = false ∨ c.closed = false ∨ c.live - 1 ≠ 0 → ∃ x, exec (.liveCountUpdate n) s = .next x ∧
      x.updates = s.updates.eraseIdx n ∧ ColourIs x u.key { c with live := c.live - 1 } ∧ x.inFlight = s.inFlight ∧
      x.threads = s.threads ∧ SameBytes s x) ∧
    (c.busy = true → c.closed = true → c.live = 1 → c.pbal = 0 → c.closer = none → c.hold = none →
      ∃ x, exec (.liveCountUpdate n) s = .next x ∧ x.updates = s.updates.eraseIdx n ∧ ColourIs x u.key {} ∧
        (getRegion x u.key).map (·.free) = (getRegion s u.key).map (fun r => r.free ++ [u.key.colour]) ∧
        x.threads = s.threads ∧ SameBytes s x))

/-- The arbiter (R26, R284 to R286). A cycle first evaluates the waiting activations again, and once an epoch of 1,024
cycles is over no cycle comes before the new weights. A cycle counts; with no candidate it selects nothing; otherwise the
class is the one that choose_class names over the classes that have a candidate, within it the operator goes whose credit
with its weight added is greatest, the lowest slot of equals; every operator of the class keeps its credit with its weight
added, the chosen one less the sum of the weights; the activation leaves ready for the flow unit or its compute or
transfer unit, an MMUL bound to the island's bank. At the end of an epoch each weight becomes its share times 1 +
min(7, log2(1 + occupancy / 1024)) and the occupancies are zeroed. -/
def Obligations.ArbiterSelects : Prop :=
  (∀ (s : State) (e : Eng),
    let v := reevalAll s; let x := getEng v e; let c := candidates v e
    let ur := c.filter fun p => opPrio p.1.op; let no := c.filter fun p => !opPrio p.1.op
    let cls := chooseClass (!ur.isEmpty) (!no.isEmpty) x.u; let o := if cls.1 then ur else no
    let weight := fun p : OpRef × Act => (tget {} p.2.slot x.slots).weight
    let score := fun p : OpRef × Act => (tget {} p.2.slot x.slots).credit + (weight p : Int)
    (1024 ≤ x.epoch → exec (.arbiterSelect e) s = .next v) ∧
    (x.epoch < 1024 → ∃ t, exec (.arbiterSelect e) s = .next t ∧ (getEng t e).cycles = x.cycles + 1 ∧
      (getEng t e).epoch = x.epoch + 1 ∧ (getEng t e).rows = x.rows ∧ t.threads = s.threads ∧ SameBytes s t ∧
      (∀ k, k ≠ e → getEng t k = getEng v k) ∧
      (c = [] → (getEng t e).ready = x.ready ∧ (getEng t e).flow = x.flow ∧ (getEng t e).unit = x.unit) ∧
      (c ≠ [] → ∃ r a, (r, a) ∈ o ∧ (∀ p ∈ o, score p < score (r, a) ∨ (score p = score (r, a) ∧ a.slot ≤ p.2.slot)) ∧
        (getEng t e).u = cls.2 ∧ (getEng t e).ready = x.ready.erase a ∧
        (∀ p ∈ o, (tget {} p.2.slot (getEng t e).slots).credit =
          score p - if p.2.slot = a.slot then (((o.map weight).sum : Nat) : Int) else 0) ∧
        (opKind r.op ≤ 0x0F → (getEng t e).flow = x.flow ++ [a] ∧ (getEng t e).unit = x.unit) ∧
        (0x0F < opKind r.op → (getEng t e).flow = x.flow ∧ (getEng t e).unit = x.unit ++
          [if opKind r.op = 0x11 then { a with bank := some ((getIsland v e).act != (getIsland v e).swp) } else a])))) ∧
  (∀ u, chooseClass false true u = (false, u) ∧ chooseClass true false u = (true, 0) ∧
    (u < 7 → chooseClass true true u = (true, u + 1)) ∧ chooseClass true true 7 = (false, 0)) ∧
  (∀ (s : State) (e : Eng),
    ((getEng s e).epoch < 1024 → exec (.arbiterReweight e) s = .next s) ∧
    (1024 ≤ (getEng s e).epoch → ∃ t, exec (.arbiterReweight e) s = .next t ∧ (getEng t e).epoch = 0 ∧
      t = { s with engines := t.engines } ∧ (∀ k, k ≠ e → getEng t k = getEng s k) ∧
      ∀ k d, tfind k (getEng s e).slots = some d → ∃ d', tfind k (getEng t e).slots = some d' ∧ d'.occ = 0 ∧
        d'.credit = d.credit ∧
        ∀ r, findOp s e k = some r → d'.weight = opShare r.op * (1 + min 7 (Nat.log2 (1 + d.occ / 1024)))))

/-! ### Flow operators -/

/-- SINK emits nothing, DUP a copy to every consumer of every port, GSTEER its left token on port 0 for a true predicate
and on port 1 for a false one, GMERGE the selected token on port 0, BRIDGE a copy to every consumer once every write of
its launch is performed, and until then waits (R122, R126, R130). That BRIDGE waits for every write of its launch, where R130
names only the writes acquired through its token, is the model's choice (log 4). -/
def Obligations.FlowOperators : Prop := ∀ (s : State) (e : Eng) (n : Nat) (f : Firing),
  (firing s e n 0x02 = some f → FiresOut (.sink e n) s f []) ∧
  (firing s e n 0x03 = some f → FiresOut (.dup e n) s f (toAllPorts f.r (leftTok f))) ∧
  (firing s e n 0x09 = some f → FiresOut (.gsteer e n) s f
    (toPort f.r (if predTrue f.q then 0 else 1) { leftTok f with poison := f.toks.any (·.poison) })) ∧
  (firing s e n 0x0A = some f → ∀ t, f.toks.head? = some t → FiresOut (.gmerge e n) s f
    (toPort f.r 0 { t with poison := f.toks.any (·.poison) })) ∧
  (firing s e n 0x0C = some f →
    (writesPending s e.pkg f.q.lid = true → exec (.bridge e n) s = .next s) ∧
    (writesPending s e.pkg f.q.lid = false → FiresOut (.bridge e n) s f (toAllPorts f.r (leftTok f))))

/-- Loops (R118, R123): ENTER uses the colour its group has drawn, or draws the head of the loop region's list, and waits
while another member of its group draws; the entry record counts the members that have fired and goes with the last. NEXT
draws its colour's successor once, or uses the one drawn, and closes its colour; EXIT clears the colour field and closes;
NEXT and EXIT on an idle colour fault with 0x0105, EXIT on a colour with a successor and NEXT after the last close without
one with 0x0106. -/
def Obligations.LoopOperators : Prop := ∀ (s : State) (e : Eng) (n : Nat) (f : Firing),
  let o := f.r.op; let t := leftTok f; let d := opDepth o; let k := colKeyAt f.r.key o t.tag; let c := getCol s k
  let closes := fun (x : State) => ∀ w, (getRegion s k).map (·.width) = some w → ColourIs s k c →
    (getCol x k).closes = c.closes + 1 ∧ (getCol x k).closed = (c.closed || decide (c.closes + 1 = w))
  (firing s e n 0x04 = some f →
    let lp := bits (opCfg o 0) 7 0; let grp := groupOf f.r.g o 7 0; let key := (lowSlot grp, tagField t.tag d)
    let lk : ColKey := { pkg := f.r.key.1, graph := f.r.key.2, region := lp }
    let out := fun x => toPort f.r 0 { t with tag := setField t.tag (d + 1) x }
    let counted := fun (u : State) (x m : Nat) => tfind key (getEng u e).entries =
      if m + 1 = grp.length then none else some { value := x, count := m + 1 }
    (∀ x, tfind key (getEng s e).entries = some x → refsRoom s (toPort f.r 0 t) = true → Emits s f.r f.q.tag (out x.value) →
      ∃ u, exec (.enterOp e n) s = .next u ∧ Fired s u f s.nextId (out x.value) ∧ counted u x.value x.count) ∧
    (tfind key (getEng s e).entries = none → groupDraws s e f.r.key lp f.q.slot grp t.tag d = true →
      exec (.enterOp e n) s = .next s) ∧
    (tfind key (getEng s e).entries = none → groupDraws s e f.r.key lp f.q.slot grp t.tag d = false →
      refsRoom s (toPort f.r 0 t) = true → liveRoom s k = true → ∀ x rest, (getRegion s lk).map (·.free) = some (x :: rest) →
      (getRegion s lk).map (·.draws) = some [] → Emits s f.r f.q.tag (out x) →
      ∃ u, exec (.enterOp e n) s = .next u ∧ Fired s u f s.nextId (out x) ∧ counted u x 0 ∧
        (getRegion u lk).map (·.free) = some rest)) ∧
  (firing s e n 0x05 = some f →
    let out := fun x => toPort f.r 0 { t with tag := setField t.tag d x }
    (c.busy = false → FaultsOp (.nextOp e n) s f 0x0105 (k.colour + k.region * 256)) ∧
    (c.busy = true → 0 < c.closes → c.succv = false → c.spnd = false →
      FaultsOp (.nextOp e n) s f 0x0106 (k.colour + k.region * 256)) ∧
    (c.busy = true → c.succv = true → refsRoom s (toPort f.r 0 t) = true → Emits s f.r f.q.tag (out c.succ) →
      ∃ u, exec (.nextOp e n) s = .next u ∧ closes u ∧ Fired s u f s.nextId (out c.succ)) ∧
    (c.busy = true → c.succv = false → c.spnd = false → c.closes = 0 → refsRoom s (toPort f.r 0 t) = true →
      liveRoom s (enclosing f.r.key f.r.g (opRid o) t.tag d) = true → ColourIs s k c →
      ∀ x rest, (getRegion s k).map (·.free) = some (x :: rest) → (getRegion s k).map (·.draws) = some [] → x ≠ k.colour →
      Emits s f.r f.q.tag (out x) → ∃ u, exec (.nextOp e n) s = .next u ∧ closes u ∧ Fired s u f s.nextId (out x) ∧
        (getCol u k).succ = x ∧ (getCol u k).succv = true ∧ (getRegion u k).map (·.free) = some rest)) ∧
  (firing s e n 0x06 = some f →
    (c.busy = false → FaultsOp (.exitOp e n) s f 0x0105 (k.colour + k.region * 256)) ∧
    (c.busy = true → c.succv = true ∨ c.spnd = true → FaultsOp (.exitOp e n) s f 0x0106 (k.colour + k.region * 256)) ∧
    (c.busy = true → c.succv = false → c.spnd = false →
      let out := toPort f.r 0 { t with tag := setField t.tag d 0 }
      refsRoom s out = true → Emits s f.r f.q.tag out →
      ∃ u, exec (.exitOp e n) s = .next u ∧ closes u ∧ Fired s u f s.nextId out))

/-- Calls (R118, R124, R125): CALL emits under the context its call site has drawn, or draws the head of the function
region's list; its lead member stores the caller's tag and the return entries in the linkage slot; the entry record counts
the members that have fired. RET waits for the linkage, then emits to the destination it names under the caller's tag and
closes its context; on an idle context it faults with 0x0105. -/
def Obligations.CallOperators : Prop := ∀ (s : State) (e : Eng) (n : Nat) (f : Firing),
  let o := f.r.op; let t := leftTok f; let v := opCfg o 0; let fn := bits v 7 0; let d := opDepth o
  (firing s e n 0x07 = some f →
    let grp := groupOf f.r.g o 21 16; let key := (lowSlot grp, tagField t.tag d)
    let out := fun x => toPort f.r 0 { t with tag := BitVec.ofNat 64 ((fn * 256 + x) * 2 ^ 48) }
    let fk : ColKey := { pkg := f.r.key.1, graph := f.r.key.2, region := fn }
    let counted := fun (u : State) (x m : Nat) => tfind key (getEng u e).entries =
      if m + 1 = bits v 15 12 + 1 then none else some { value := x, count := m + 1 }
    let linked := fun (u : State) (x : Nat) =>
      if bits v 11 8 = 0 then ((getRegion u fk).bind fun r => tfind x r.links) = some
        { tag := t.tag, dest := (List.range (bits v 23 22 + 1)).map fun j => bits v (22 * j + 45) (22 * j + 24) }
      else (getRegion u fk).map (·.links) = (getRegion s fk).map (·.links)
    (∀ x, tfind key (getEng s e).entries = some x → refsRoom s (toPort f.r 0 t) = true → (getRegion s fk).isSome = true →
      Emits s f.r f.q.tag (out x.value) → ∃ u, exec (.callOp e n) s = .next u ∧ Fired s u f s.nextId (out x.value) ∧
        counted u x.value x.count ∧ linked u x.value) ∧
    (tfind key (getEng s e).entries = none → groupDraws s e f.r.key fn f.q.slot grp t.tag d = true →
      exec (.callOp e n) s = .next s) ∧
    (tfind key (getEng s e).entries = none → groupDraws s e f.r.key fn f.q.slot grp t.tag d = false →
      refsRoom s (toPort f.r 0 t) = true → liveRoom s (colKeyAt f.r.key o t.tag) = true →
      ∀ x rest, (getRegion s fk).map (·.free) = some (x :: rest) → (getRegion s fk).map (·.draws) = some [] →
      Emits s f.r f.q.tag (out x) → ∃ u, exec (.callOp e n) s = .next u ∧ Fired s u f s.nextId (out x) ∧ counted u x 0 ∧
        linked u x ∧ (getRegion u fk).map (·.free) = some rest)) ∧
  (firing s e n 0x08 = some f →
    let k := colKeyAt f.r.key o t.tag; let c := getCol s k
    (c.busy = false → FaultsOp (.retOp e n) s f 0x0105 (k.colour + k.region * 256)) ∧
    (c.busy = true → ((getRegion s k).bind fun r => tfind k.colour r.links) = none → exec (.retOp e n) s = .next s) ∧
    (∀ l x, c.busy = true → ((getRegion s k).bind fun r => tfind k.colour r.links) = some l → l.dest[bits v 1 0]? = some x →
      let out := [addressed f.r (entryCoord f.r.key.1 f.r.g x) { t with tag := l.tag }]
      refsRoom s out = true → Emits s f.r f.q.tag out → ∃ u, exec (.retOp e n) s = .next u ∧ Fired s u f s.nextId out ∧
        ∀ w, (getRegion s k).map (·.width) = some w → ColourIs s k c →
          (getCol u k).closes = c.closes + 1 ∧ (getCol u k).closed = (c.closed || decide (c.closes + 1 = w))))

/-- Sources (R120, R121, R242): a SOURCE that fires for an injection emits its configured token, a signal, a scalar with
a residue, or its value replaced, under the injection's tag to every consumer, and then releases the unit that kept its
colour busy; a tile SOURCE of a tile that is FULL emits that tile with its shape and format; of one that is not, it
reports a tile-state fault and emits nothing, and the unit stays. That the unit is held until the SOURCE has fired is read
from R120 and R242 (log 68). -/
def Obligations.SourceFires : Prop := ∀ (s : State) (e : Eng) (n : Nat) (x : SourceFire) (r : OpRef),
  s.sources[n]? = some x → ((getGraph s (x.pkg, x.graph)).bind fun g => opRef (x.pkg, x.graph) g x.op) = some r →
  r.op.eng = e → running r.g = true → x.atLaunch = false →
  let v := opCfg r.op 0
  let base : Token := { tag := x.tag, lid := x.lid, part := r.g.part, src := opCoord r.op,
                        agid := ((getLaunch s (x.pkg, x.lid)).map (·.record.agid)).getD 0 }
  let fires := fun (t : Token) => refsRoom s (toAllPorts r t) = true → Emits s r x.tag (toAllPorts r t) →
    ∃ u, exec (.source e n) s = .next u ∧
      u.sources = s.sources.eraseIdx n ∧ u.threads = s.threads ∧ SameBytes s u ∧
      u.updates = s.updates ++ (toAllPorts r t).map (risesFor s r x.id) ++
        [{ firing := x.id, key := colKeyAt r.key r.op x.tag, inc := false, lid := x.lid }]
  (bits v 255 252 = 0 → fires { base with kind := 3 }) ∧
  (bits v 255 252 = 1 → x.value = none → fires { base with kind := 2, opw := BitVec.ofNat 128 (v % 2 ^ 64)
                                                           residue := residueOf (leBytes 8 (v % 2 ^ 64)) }) ∧
  (bits v 255 252 = 1 → ∀ w, x.value = some w → fires { base with kind := 2, opw := BitVec.ofNat 128 w.toNat
                                                                  residue := residueOf (leBytes 8 w.toNat) }) ∧
  (bits v 255 252 = 2 → r.op.eng.pkg = r.key.1 → ∀ w, x.value = some w →
    let id : TileId := { pkg := r.key.1, die := bits w.toNat 17 16, handle := bits w.toNat 15 0 }
    let y := getTile s id
    (y.state = 3 → fires { base with kind := 1, opw := tileOpw id y.rows y.cols y.fmt 0 }) ∧
    (y.state ≠ 3 → ∃ u, exec (.source e n) s = .next u ∧ u.sources = s.sources.eraseIdx n ∧ u.inFlight = s.inFlight ∧
      (∃ rep, u.reports = s.reports ++ [rep] ∧ rep.cause = 0x0109 ∧
        rep.tval = BitVec.ofNat 64 (id.handle + id.die * 2 ^ 16)) ∧
      u.updates = s.updates ∧ u.threads = s.threads ∧ SameBytes s u))

/-- Containment operators (R132 to R135, R170): COPEN of an idle instance opens it with its key, its kept tokens and the
member tokens that are under way, holds a unit of its colour and passes its tokens on; of an instance not idle it faults
with 0x0108; CCLOSE of an open instance with pend 0 passes its tokens on, empties the instance and releases its unit,
otherwise it waits; poison of either token is copied into both emitted. An unwinding instance first discards the tokens
that wait in its members' rows, which is the model's choice (log 100); with pend 0 and no colour drawn under it, it becomes
held and raises the containment-unwind report. At the opening pend is the number of member tokens under way, those that the
COPEN itself emits to members included. -/
def Obligations.ContainmentOperators : Prop := ∀ (s : State) (e : Eng) (n : Nat) (f : Firing),
  let t := leftTok f; let v := opCfg f.r.op 0; let k := instAt f.r.g (bits v 15 0) t.tag; let x := getInst f.r.g k.1 k.2
  let bad := (f.q.l.any (·.poison) || f.q.r.any (·.poison) : Bool)
  let out := (f.q.l.map fun t => toPort f.r 0 { t with poison := bad }).getD [] ++
    (f.q.r.map fun t => toPort f.r 1 { t with poison := bad }).getD []
  (firing s e n 0x0D = some f → getGraph s f.r.key = some f.r.g → k.1 < f.r.g.conts.length →
    (x.state ≠ 0 → FaultsOp (.copen e n) s f 0x0108 k.1) ∧
    (x.state = 0 → refsRoom s out = true → liveRoom s (colKeyAt f.r.key f.r.op t.tag) = true → Emits s f.r f.q.tag out →
      ∃ u, exec (.copen e n) s = .next u ∧ Fired s u f s.nextId out ∧
        (∀ c, ColourIs s (colKeyAt f.r.key f.r.op t.tag) c →
          ColourIs u (colKeyAt f.r.key f.r.op t.tag) { c with live := c.live + 1 }) ∧
        ∃ g, getGraph u f.r.key = some g ∧ (getInst g k.1 k.2).state = 1 ∧ (getInst g k.1 k.2).key = t.tag ∧
          (getInst g k.1 k.2).kl = f.q.l ∧ (getInst g k.1 k.2).kr = f.q.r ∧
          ∀ c, f.r.g.conts[k.1]? = some c → f.r.g.ops[c.copen]? = some f.r.op → (c.insts.map (·.1)).Nodup →
            (getInst g k.1 k.2).pend = memberToks s f.r k.1 t.tag + out.countP fun y =>
              (consumerOfTok s f.r y).any (fun o => c.members.contains o.i) && tagAgrees t.tag y.tag (opDepth f.r.op))) ∧
  (firing s e n 0x0E = some f → getGraph s f.r.key = some f.r.g → k.1 < f.r.g.conts.length →
    (x.state ≠ 1 ∨ x.pend ≠ 0 → exec (.cclose e n) s = .next s) ∧
    (∀ o, ((f.r.g.conts[k.1]?).bind fun c => f.r.g.ops[c.copen]?) = some o → x.state = 1 → x.pend = 0 →
      refsRoom s out = true → Emits s f.r f.q.tag out → ∃ u, exec (.cclose e n) s = .next u ∧
        u.updates = s.updates ++ out.map (risesFor s f.r s.nextId) ++ f.toks.map (fallsFor f.r s.nextId) ++
          [{ firing := s.nextId, key := colKeyAt f.r.key o x.key, inc := false, lid := t.lid }] ∧
        u.threads = s.threads ∧ SameBytes s u ∧ ∃ g, getGraph u f.r.key = some g ∧ getInst g k.1 k.2 = {})) ∧
  (∀ pkg gr rec row g c o, getGraph s (pkg, gr) = some g → g.conts[rec]? = some c → g.ops[c.copen]? = some o →
    let w := sweepInst s pkg gr rec row
    ((getInst g rec row).state ≠ 2 → exec (.containmentHeld pkg gr rec row) s = .next s) ∧
    ((getInst g rec row).state = 2 → ∀ h, getGraph w (pkg, gr) = some h → (getInst h rec row).state = 2 →
      ((getInst h rec row).pend ≠ 0 → exec (.containmentHeld pkg gr rec row) s = .next w) ∧
      ((getInst h rec row).pend = 0 →
        (∀ y ∈ busyCols pkg gr h, y.2.hold ≠ some (colKeyAt (pkg, gr) o (getInst h rec row).key)) →
        ∃ u, exec (.containmentHeld pkg gr rec row) s = .next u ∧
          (∃ h', getGraph u (pkg, gr) = some h' ∧ (getInst h' rec row).state = 3) ∧
          ∃ rep, u.reports = w.reports ++ [rep] ∧ rep.cause = 0x0207 ∧ rep.tinfo = (getInst h rec row).key ∧
            rep.tval = BitVec.ofNat 64 (rec % 2 ^ 16 + (getInst h rec row).tries * 2 ^ 16))))

/-- Timers (R136, R288): a TIMER consumes its token into an entry of its die's wheel, due at its value or that long
after the token's arrival, at the bucket boundary of R288; a due entry emits a signal with the consumed tag and leaves.
Triggers (R128, R129): an arrival is consumed and counted, a scalar by its low word in the counter it names and a signal by
one in counter 0, saturating; the first of a round arms the row, which holds a unit of live, and starts the deadline;
while no term of the condition holds the row stays; when one holds, after an arrival or at a due deadline, the TRIGGER
emits a signal or its counters and clears the row, unless a stop entry holds the row (R391). -/
def Obligations.TimersAndTriggers : Prop :=
  (∀ (s : State) (e : Eng) (n : Nat) (f : Firing),
   (firing s e n 0x0F = some f → f.r.op.eng = e →
     let t := leftTok f; let v := t.opw.toNat % 2 ^ 64
     let due := if bit (opCfg f.r.op 0) 0 then min (f.q.dtime + v) (2 ^ 64 - 1) else v
     ∃ u, exec (.timer e n) s = .next u ∧ u.updates = s.updates ∧ u.threads = s.threads ∧ SameBytes s u ∧
       (getEng u e).flow = (getEng s e).flow.erase f.act ∧
       ∃ x, (getWheel u (e.pkg, e.die)).ents = (getWheel s (e.pkg, e.die)).ents ++ [x] ∧ x.due = due ∧
         x.bound = boundOf (getPkg s e.pkg).time due ∧ x.what = .timer e t ∧ x.fire = false) ∧
   (∀ pkg die x t r, dueEnt s pkg die n = some x → x.what = .timer e t → findOp s e t.dst.slot = some r →
     let out := toPort r 0 { t with kind := 3, opw := 0, residue := 0 }
     Emits s r t.tag out → ∃ u, exec (.timerExpiry pkg die n) s = .next u ∧
       u.updates = s.updates ++ out.map (risesFor s r s.nextId) ++ [fallsFor r s.nextId t] ∧
       (getWheel u (pkg, die)).ents = (getWheel s (pkg, die)).ents.filter (fun y => decide (y.order ≠ x.order)) ∧
       u.threads = s.threads ∧ SameBytes s u)) ∧
  (∀ (s : State) (e : Eng) (r : OpRef) (vrow : Nat), r.op.eng = e →
   let cfg := opCfg r.op 0; let now := (getPkg s e.pkg).time
   let counted := fun (x : Trig) (t : Token) =>
     let k := if t.kind = 2 then t.opw.toNat / 2 ^ 32 % 4 else 0
     let m := if t.kind = 2 then t.opw.toNat % 2 ^ 32 else 1
     { x with counters := x.counters.modify k fun c => min (c + m) (2 ^ 32 - 1) }
   let emits := fun (x : Trig) (t : Token) =>
     let c := x.counters.getD 0 0 + x.counters.getD 1 0 * 2 ^ 32
     toPort r 0 (if bit cfg 180 then { t with kind := 2, opw := BitVec.ofNat 128 c, residue := residueOf (leBytes 8 c) }
       else { t with kind := 3, opw := 0, residue := 0 })
   let frees := fun (q : Row) (fid : Nat) =>
     ({ firing := fid, key := colKeyAt r.key r.op q.tag, inc := false, lid := q.lid } : LiveUpdate)
   (∀ n t0, let t := walked t0
     s.inFlight[n]? = some t0 → (∀ u ∈ s.inFlight.take n, samePair t u = false) → (getEng s e).ingress = [] →
     mustCross t = false → crossGrants s (tokFrom t) e t.part = true → t.dst.eng = e → gate s e t = .row r s → opKind r.op = 0x0B → arrivalRoom s r t = true →
     unwindDiscards r t = false → kindOk r.op t.dst.pos t.kind = true → vrow = vrowOf r.op t.tag →
     ∀ v, makeRoom s e r.op.slot vrow = .ok v →
     let arrives := fun (P : State → Prop) => ∃ u, exec (.triggerArrival e n) s = .next u ∧
       u.inFlight = s.inFlight.eraseIdx n ∧ u.threads = s.threads ∧ SameBytes s u ∧ P u
     (findRow (getEng s e) r.op.slot vrow = none →
       let dl := bits cfg 159 128
       let x := counted { deadline := if dl = 0 then none else some (now + dl) } t
       trigHolds cfg x now = false → arrives fun u =>
         u.updates = s.updates ++ [fallsFor r (if dl = 0 then s.nextId else s.nextId + 1) t] ∧
         (∃ w, findRow (getEng u e) r.op.slot vrow = some w ∧ w.trig = some x) ∧
         (∀ c, ColourIs s (colKeyAt r.key r.op t.tag) c →
           ColourIs u (colKeyAt r.key r.op t.tag) { c with live := c.live + 1 }) ∧
         (getWheel u (e.pkg, e.die)).ents.length = (getWheel s (e.pkg, e.die)).ents.length + (if dl = 0 then 0 else 1)) ∧
     (∀ q x, findRow (getEng s e) r.op.slot vrow = some q → q.trig = some x →
       let y := counted x t
       let out := emits y ((q.l.map fun k => { k with poison := k.poison || t.poison }).getD {})
       (trigHolds cfg y now = false → arrives fun u =>
         u.updates = s.updates ++ [fallsFor r s.nextId t] ∧
         ∃ w, findRow (getEng u e) r.op.slot vrow = some w ∧ w.trig = some y) ∧
       (trigHolds cfg y now = true → q.stopHeld = false → (∀ k, k < 64 → stopMatches (getStop s (r.key.1, k)) r t = false) →
        Emits s r q.tag out → arrives fun u =>
         u.updates = s.updates ++ [fallsFor r s.nextId t] ++ out.map (risesFor s r (s.nextId + 1)) ++
           [frees q (s.nextId + 1)] ∧
         findRow (getEng u e) r.op.slot vrow = none))) ∧
   (∀ q x m ent, findRow (getEng s e) r.op.slot vrow = some q → q.trig = some x →
     (getWheel s (e.pkg, e.die)).ents.findIdx? (fun u => decide (u.what = .trigger e r.op.slot vrow) && u.fire) = some m →
     dueEnt s e.pkg e.die m = some ent → findOp s e r.op.slot = some r →
     let out := emits x (q.l.getD {})
     (trigHolds cfg x now = false → ∃ u, exec (.triggerDeadline e r.op.slot vrow) s = .next u ∧
       (getEng u e).rows = (getEng s e).rows ∧ u.updates = s.updates ∧ u.threads = s.threads ∧ SameBytes s u) ∧
     (trigHolds cfg x now = true → q.stopHeld = true → ∃ u, exec (.triggerDeadline e r.op.slot vrow) s = .next u ∧
       (getEng u e).rows = (getEng s e).rows ∧ u.updates = s.updates ∧ u.threads = s.threads ∧ SameBytes s u) ∧
     (trigHolds cfg x now = true → q.stopHeld = false → Emits s r q.tag out → ∃ u, exec (.triggerDeadline e r.op.slot vrow) s = .next u ∧
       findRow (getEng u e) r.op.slot vrow = none ∧ u.threads = s.threads ∧ SameBytes s u ∧
       u.updates = s.updates ++ out.map (risesFor s r s.nextId) ++ [frees q s.nextId])))

/-! ### HBM, translation and slots -/

/-- HBM_SECTOR_ACCESS (R229, R300, R351, R359, R375): in a slot of its partition, at the owner and at the inner strait that it
crosses, with no earlier copy or access of its thread in the way and no watch filter hit, the owner performs a request: a read
takes the bytes, a write stores its bytes and no others, an atomic takes the old doubleword and stores the new one; an address
outside the partition's ranges is refused with nothing stored; a request in another partition's slot waits. -/
def Obligations.HbmSectorAccess : Prop := ∀ (s : State) (e : Eng) (n : Nat) (r : Req), s.MemOk →
  s.reqs.find? (·.id = n) = some r → r.st = .queued → reqWaits s r = false → r.host = false → r.owner = e →
  let i := Instr.hbmSectorAccess e n
  let ends := fun (t : State) (q : Req) => t.reqs = s.reqs.map (fun x => if x.id = r.id then q else x) ∧ t.threads = s.threads
  let slots := slotGrants s e r.part && crossGrants s (reqSrc e.pkg (reqDie r.from_) r.from_) e r.part
  (slots = false → exec i s = .next s) ∧
  (slots = true → hbmWatch s e r = false →
    (rangeOk s r.part r.pa = false → ∃ t, exec i s = .next t ∧ ends t { r with denied := true, st := .done } ∧ SameBytes s t) ∧
    (rangeOk s r.part r.pa = true →
      (r.op = .read → ∃ t, exec i s = .next t ∧ SameBytes s t ∧
        ends t { r with data := memRead s.hbm r.pa r.len, st := .done
                        bad := (wordsOf r.pa r.len).any (eccBad s false) }) ∧
      (∀ d, r.op = .write d false → ∃ t, exec i s = .next t ∧ ends t { r with st := .done } ∧ StoresHbm s t r.pa d) ∧
      (∀ op v c, r.op = .atomic op v c → (wordsOf r.pa 8).any (eccBad s false) = false →
        ∃ t, exec i s = .next t ∧ ends t { r with data := memRead s.hbm r.pa 8, bad := false, st := .done } ∧
          StoresHbm s t r.pa (leBytes 8 (atomicResult op (leWord (memRead s.hbm r.pa 8)) v c).toNat)))) ∧
  (slots = true → hbmWatch s e r = true → ∃ t, exec i s = .next t ∧ SameBytes s t ∧
    ends t { r with st := .held } ∧ ∃ rep, t.reports = s.reports ++ [rep] ∧ rep.cause = 0x020C ∧
      rep.tval = BitVec.ofNat 64 (r.pa / 64 * 64) ∧ rep.held = .request r.id)

/-- Requests of another package (R229, R363, R376): in a slot of its partition, with nothing in the way and no watch filter
hit, the owner performs a remote read, write or atomic as a local one; the answer of a read, its whole sector, or of an atomic
leaves as a read response through an engine that has a route back and room, and until there is one nothing is performed; it
ends the request at its requester with the bytes asked for; a write's request ends. -/
def Obligations.RemoteRequests : Prop := ∀ (s : State) (n : Nat) (p : Pkt) (r : Req), s.MemOk →
  s.inbox[n]? = some p →
  (r.owner.pkg = p.hdr.dst.eng.pkg → slotGrants s r.owner r.part = true →
    crossGrants s { p.src with pkg := r.owner.pkg } r.owner r.part = true → reqWaits s { r with unfiltered := false } = false →
    (∀ q, s.reqs.find? (·.id = r.id) = some q → q.st ≠ .held ∧ q.unfiltered = false) →
    hbmWatch s r.owner { r with unfiltered := false } = false →
    (getPart s (r.owner.pkg, r.part)).flr = 0 → r.host = false → rangeOk s r.part r.pa = true →
    let sector := memRead s.hbm (r.pa / 64 * 64) 64
    let hdr : Token := { dst := p.hdr.src, src := { eng := r.owner }, kind := 3, lid := r.lid, part := r.part, vc := 2,
                         opw := BitVec.ofNat 128 p.hdr.seq }
    let answers := fun (i : Instr) (d : List Byte) (bad : Bool) (P : State → Prop) =>
      let out : Pkt := { hdr := hdr, body := .readResponse r.id d bad r.denied }
      ((∀ e, egress s r.owner p.hdr.src.eng.pkg = some e → straitRoom s e out = false) → exec i s = .next s) ∧
      (∀ e, egress s r.owner p.hdr.src.eng.pkg = some e → straitRoom s e out = true →
        ∃ t, exec i s = .next t ∧ t.inbox = s.inbox.eraseIdx n ∧ t.threads = s.threads ∧ P t ∧
          ∃ q, t.packets = s.packets ++ [q] ∧ q.hdr.dst = p.hdr.src ∧ q.body = out.body)
    (p.body = .hbmRead r → r.op = .read →
      answers (.hbmRead n) sector ((wordsOf r.pa r.len).any (eccBad s false)) (SameBytes s)) ∧
    (∀ d, p.body = .hbmWrite r → r.op = .write d false →
      ∃ t, exec (.hbmWrite n) s = .next t ∧ t.inbox = s.inbox.eraseIdx n ∧ StoresHbm s t r.pa d ∧ t.threads = s.threads ∧
        t.reqs = s.reqs.map fun x => if x.id = r.id then { r with unfiltered := false, st := .done } else x) ∧
    (∀ op v c, p.body = .hbmAtomic r → r.op = .atomic op v c → (wordsOf r.pa 8).any (eccBad s false) = false →
      answers (.hbmAtomic n) (memRead s.hbm r.pa 8) false fun t =>
        StoresHbm s t r.pa (leBytes 8 (atomicResult op (leWord (memRead s.hbm r.pa 8)) v c).toNat))) ∧
  (∀ k d bad den q, p.body = .readResponse k d bad den → s.reqs.find? (·.id = k) = some q →
    (∀ x ∈ s.inbox.take n, waitsInside x = true ∨ x.hdr.src.eng ≠ p.hdr.src.eng ∨ x.hdr.dst.eng ≠ p.hdr.dst.eng) →
    let got := if q.op = .read then (d.drop (q.pa % 64)).take q.len else d
    ∃ t, exec (.readResponse n) s = .next t ∧ t.inbox = s.inbox.eraseIdx n ∧ SameBytes s t ∧ t.threads = s.threads ∧
      t.reqs = s.reqs.map fun x => if x.id = k then { q with st := .done, data := got, bad := bad, denied := den } else x)

/-- PAGE_WALK and SLOT_BOUNDARY (R348 to R353, R357 to R359): a walk that holds a walker reads the entry of its level in a slot
of its partition or for walks at the entry's owner, and waits without one; a valid leaf goes into the TLB of every engine that
waits for it, in place of an earlier entry for the page, and the walk ends; an entry not valid, or of a wrong form, is kept as
the fault that the access meets; a table entry leads to the next level. That a walk reads on in one step while its slots last
(log 15), and which reads walk, wait for a slot and are counted (logs 85, 130, 149), is the model's choice. At a boundary an engine's slot
is granted to what its table names for the time, a reserved slot to its partition or its use, an open one to a partition with
something ready, once for each slot; a slot asked for after its boundary is neither open nor lent (log 91); a new table takes
effect at its frame. -/
def Obligations.WalksAndSlots : Prop := ∀ (s : State) (e : Eng) (part vpage : Nat),
  (let mine := fun w : Walk => walkFor w e part vpage && w.engs.contains e
   let becomes := fun (w w' : Walk) => ∃ u, exec (.pageWalk e part vpage) s = .next u ∧
     u.walks = s.walks.map (fun y => if y = w then w' else y) ∧ u.tlb = s.tlb ∧ u.threads = s.threads ∧ SameBytes s u
   ((∀ w ∈ walkers s e.pkg e.die, mine w = false) → exec (.pageWalk e part vpage) s = .next s) ∧
   (∀ w, (walkers s e.pkg e.die).find? mine = some w →
     let a := w.table + vaIndex (vpage * 8192) w.lvl * 8
     let g := gpa e.pkg a; let ent := leNat (memRead s.hbm g 8)
     let grants := granted s (ownerOf g) .walk || slotGrants s (ownerOf g) part
     (hbmSize ≤ a → becomes w { w with fault := 3 }) ∧
     (a < hbmSize → grants = false → exec (.pageWalk e part vpage) s = .next s) ∧
     (a < hbmSize → grants = true → (wordsOf g 8).any (eccBad s false) = true → becomes w { w with fault := 2 }) ∧
     (a < hbmSize → grants = true → (wordsOf g 8).any (eccBad s false) = false →
       (bit ent 0 = false → becomes w { w with fault := 1 }) ∧
       (bit ent 0 = true → pteBad w.lvl ent = true → becomes w { w with fault := 2 }) ∧
       (bit ent 0 = true → pteBad w.lvl ent = false → bit ent 1 = true →
         ∃ u, exec (.pageWalk e part vpage) s = .next u ∧ u.walks = s.walks.filter (fun y => decide (y ≠ w)) ∧
           u.threads = s.threads ∧ SameBytes s u ∧
           (∀ k ∈ w.engs, u.tlb.find? (fun t => decide (t.eng = k) && decide (t.part = part) && decide (t.vpage = vpage)) =
             some { eng := k, part := part, vpage := vpage, bits := 13 + 10 * w.lvl, ent := BitVec.ofNat 64 ent }) ∧
           ∀ t, (t.eng ∉ w.engs ∨ t.part ≠ part ∨ t.vpage ≠ vpage) → (t ∈ u.tlb ↔ t ∈ s.tlb)) ∧
       (bit ent 0 = true → pteBad w.lvl ent = false → bit ent 1 = false →
         let t := bits ent 43 13 * 2 ^ 13; let b := t + vaIndex (vpage * 8192) (w.lvl - 1) * 8
         b < hbmSize → granted s (ownerOf (gpa e.pkg b)) .walk = false → slotGrants s (ownerOf (gpa e.pkg b)) part = false →
         becomes w { w with lvl := w.lvl - 1, table := t })))) ∧
  (let now := (getPkg s e.pkg).time; let n := now / 32; let t := getSlotTab s e
   (hasSlots e = false ∨ (t.slot = n + 1 ∧ t.pending = none) → exec (.slotBoundary e) s = .next s) ∧
   (t.slot ≠ n + 1 → hasSlots e = true → t.pending = none → ∃ u, exec (.slotBoundary e) s = .next u ∧
     u = { s with slotTabs := u.slotTabs } ∧ (∀ k, k ≠ e → getSlotTab u k = getSlotTab s k) ∧
     (getSlotTab u e).slot = n + 1 ∧ (getSlotTab u e).tab = t.tab ∧
     let ent := tget 0x40 (n % 256) t.tab
     (ent / 64 = 0 → bit ent 5 = false → (getSlotTab u e).grant = .part (ent % 32)) ∧
     (now % 32 = 0 → ent / 64 = 0 → bit ent 5 = true → (readyParts s e).contains (ent % 32) = true →
       (getSlotTab u e).grant = .part (ent % 32)) ∧
     (ent / 64 = 2 → ent % 32 = 0 → (getSlotTab u e).grant = .scrub) ∧
     (ent / 64 = 2 → ent % 32 = 1 → (getSlotTab u e).grant = .trace) ∧
     (ent / 64 = 2 → ent % 32 = 2 → (getSlotTab u e).grant = .walk) ∧
     (ent / 64 = 1 → readyParts s e = [] ∨ now % 32 ≠ 0 → (getSlotTab u e).grant = .none) ∧
     (ent / 64 = 0 → bit ent 5 = true → now % 32 ≠ 0 → (getSlotTab u e).grant = .none) ∧
     (∀ p, now % 32 = 0 → ent / 64 = 1 → p < 32 → p ∈ readyParts s e → (∀ q ∈ readyParts s e, q = p) →
       (getPart s (e.pkg, p)).flr = 0 → (getSlotTab u e).grant = .part p ∧ (getSlotTab u e).last = p)) ∧
   (∀ x, hasSlots e = true → t.pending = some x → t.pendingFrame ≤ n / 256 →
     ∃ u, exec (.slotBoundary e) s = .next u ∧ (getSlotTab u e).tab = x ∧ (getSlotTab u e).pending = none))

/-! ### Tiles and compute -/

/-- Chunks (R32, R298): a memory tile's bank performs the first request of a port in turn, storing its bytes and no
others; a chunk write of a FILLING scratchpad tile with no sector left sets its bit, and the tile is FULL when every bit is
set; a retired read lowers refs, the last of an unpinned FILLING or FULL tile drains it, and the drained entry becomes
FREE. BURST_RECEIVE (R33, R64, R388): a readable chunk of an input not received yet, that no watch filter holds and no bit
of which the transport inverts, joins the bursts of the activation in progress that awaits it; one that breaks R64 ends that
activation with a burst-format fault. -/
def Obligations.ChunkSteps : Prop :=
  ((∀ (s : State) (e : Eng) (r : MtReq), s.MemOk → (getMemTile s e).queue = [r] → r.port < 8 → r.data.length = 64 →
     s.chunkWrites.any (fun w => w.id = r.cw) = true →
     ∃ t, exec (.memoryTileRequest e r.bank) s = .next t ∧ (getMemTile t e).queue = [] ∧
       let a := l0Addr e.pkg e.die e.page (e.elem - 12) r.bank (r.unit * 64)
       (∀ k (h : k < r.data.length), memGet t.l0 (a + k) = r.data[k]) ∧
       (∀ x, x < a ∨ a + r.data.length ≤ x → memGet t.l0 x = memGet s.l0 x) ∧ t.hbm = s.hbm ∧ t.hostMem = s.hostMem ∧
       t.threads = s.threads ∧
       t.chunkWrites = s.chunkWrites.map fun w => if w.id = r.cw then { w with left := w.left - 1 } else w) ∧
   (∀ (s : State) (n : Nat) (w : ChunkWrite), s.chunkWrites[n]? = some w →
     (w.left ≠ 0 ∨ l1Grants s w.tile w.chunk = false → exec (.chunkWriteComplete n) s = .next s) ∧
     (w.left = 0 → (getTile s w.tile).level = false → ∃ t, exec (.chunkWriteComplete n) s = .next t ∧
       t.chunkWrites = s.chunkWrites.eraseIdx n ∧ SameBytes s t ∧ t.threads = s.threads ∧
       (∀ id, id ≠ w.tile → getTile t id = getTile s id) ∧
       let x := getTile s w.tile; let m := x.cmap ||| BitVec.twoPow 128 w.chunk
       getTile t w.tile = if x.state = 2 then
         { x with cmap := m, state := if m = BitVec.ofNat 128 (2 ^ tileChunks x - 1) then 3 else 2 } else x)) ∧
   (∀ (s : State) (n : Nat) (r : Retire), s.retires[n]? = some r → s.allocWait = [] →
     ∃ t, exec (.tileReadRetire n) s = .next t ∧ SameBytes s t ∧
       let x := getTile s r.tile
       (r.last = false → x.refs - 1 ≠ 0 ∨ x.pinned = true ∨ (x.state ≠ 2 ∧ x.state ≠ 3) →
         getTile t r.tile = { x with refs := x.refs - 1 } ∧ t.retires = s.retires.eraseIdx n ∧ t.threads = s.threads) ∧
       (r.last = false → x.refs - 1 = 0 → x.pinned = false → x.state = 2 ∨ x.state = 3 →
         getTile t r.tile = { x with refs := 0, state := 4 } ∧ t.threads = s.threads ∧
         t.retires = s.retires.eraseIdx n ++ [{ r with last := true }]) ∧
       (r.last = true → x.state = 4 → (∀ w ∈ s.chunkWrites, w.tile ≠ r.tile) → getTile t r.tile = {} ∧
         t.retires = (s.retires.eraseIdx n).filter fun y => decide (y.tile ≠ r.tile)))) ∧
  (∀ (s : State) (e : Eng) (input chunk : Nat) (u : Run) (r : OpRef) (t : Token),
   (runs (getEng s e)).find? (awaits s e input chunk) = some u → findOp s e u.act.slot = some r →
   (u.toks.find? fun t => t.dst.pos = input ∧ t.kind = 1) = some t →
   let b := burstOf s (tokTile t) (tokMode t) input chunk
   b.2 = false → chunkGate s (tokTile t) chunk u.act.id t.lid .read = none → (getEng s e).dataErr = none →
   (burstBad (tokMode t) (tokFmt t) (tokChunks t) chunk b.1.words = false → ∃ v, exec (.burstReceive e input chunk) s = .next v ∧
     runs (getEng v e) = (runs (getEng s e)).map (fun w => if w.act = u.act then { w with recv := w.recv ++ [b.1] } else w) ∧
     v.threads = s.threads ∧ SameBytes s v) ∧
   (burstBad (tokMode t) (tokFmt t) (tokChunks t) chunk b.1.words = true → faultRoom s e u.toks.length = true →
     u.dests = [] → ∃ v, exec (.burstReceive e input chunk) s = .next v ∧
       runs (getEng v e) = (runs (getEng s e)).filter (fun w => decide (w.act ≠ u.act)) ∧ SameBytes s v ∧
       ∃ rep, v.reports = s.reports ++ [rep] ∧ rep.cause = 0x010A ∧
         rep.tval = BitVec.ofNat 64 ((tokTile t).handle + chunk * 2 ^ 16)))

/-- The shapers and CONV start (R137, R142, R155 to R160): an activation whose inputs have the operator's format and
whose output has a shape that its destination takes starts; one of another format or with block scales ends in a format fault,
one of a reserved block-scale mode in a burst-format fault (R64); a REPEAT count of 0 or above 128, a SWIN row out of order or
of another shape, and a CONV output that breaks a shape limit end in a shape fault. That the format fault comes before the
shape fault is the model's choice (log 32). -/
def Obligations.ShapersStart : Prop := ∀ (s : State) (e : Eng) (f : Start),
  faultRoom s e f.toks.length = true → f.toks.any (·.poison) = false → (∀ t ∈ f.toks, scalarMismatch t = none) →
  let l := f.q.l.getD {}; let r := f.q.r.getD {}; let odd := tokFmt l ≠ opType f.r.op ∨ tokMode l = 1
  let plain := tokFmt l = opType f.r.op ∧ tokMode l = 0; let reserved := tokFmt l = opType f.r.op ∧ 1 < tokMode l
  let index := tokFmt r = 0x8 ∨ tokFmt r = 0xA ∨ tokFmt r = 0xB
  let d := tget {} f.r.op.slot (getEng s e).slots; let c := opCfg f.r.op 0
  let row := tokScalar r = d.q ∧ tokScalar r < bits c 59 44 + 1 ∧ tokRows l = 1 ∧ (tokScalar r = 0 ∨ tokCols l = d.cols0) ∧
    swinDepth c * tokBytes l ≤ 2 ^ (bits c 62 60 + 12)
  (∀ p ∈ [(0x13, Instr.gather e), (0x14, .repeatOp e), (0x15, .swin e), (0x16, .transp e)],
    starting s e p.1 = some f → f.act.dests = [] →
    (odd → FaultsStart p.2 s e f 0x010B) ∧ (reserved → FaultsStart p.2 s e f 0x010A)) ∧
  (starting s e 0x16 = some f → plain → shapeFault s f = none → StartsRun (.transp e) s e f) ∧
  (starting s e 0x13 = some f → plain → (index → tokMode r = 0 → shapeFault s f = none → StartsRun (.gather e) s e f) ∧
    (¬index ∨ tokMode r = 1 → f.act.dests = [] → FaultsStart (.gather e) s e f 0x010B) ∧
    (index → 1 < tokMode r → f.act.dests = [] → FaultsStart (.gather e) s e f 0x010A)) ∧
  (starting s e 0x14 = some f → plain →
    (1 ≤ tokScalar r → tokScalar r ≤ 128 → shapeFault s f = none → StartsRun (.repeatOp e) s e f) ∧
    (tokScalar r < 1 ∨ 128 < tokScalar r → f.act.dests = [] → FaultsStart (.repeatOp e) s e f 0x010C)) ∧
  (starting s e 0x15 = some f → plain → (row → shapeFault s f = none → StartsRun (.swin e) s e f) ∧
    (¬row → f.act.dests = [] → FaultsStart (.swin e) s e f 0x010C)) ∧
  (starting s e 0x17 = some f → (shapeFault s f = none → StartsRun (.conv e) s e f) ∧
    (shapeFault s f ≠ none → f.act.dests = [] → FaultsStart (.conv e) s e f 0x010C))

/-- The shapers and CONV work and end (R33, R141, R155 to R160): with every chunk received and no mismatch, GATHER,
REPEAT, TRANSP and CONV begin to write their image to a destination that refuses no chunk; a SWIN first writes its row into
its delay line, and if the row completes a window begins to write that window's rows, otherwise it ends; once the
destination is FULL, each emits its tile token with the image's residue, and a SWIN of two outputs its window number. -/
def Obligations.ShapersWork : Prop := ∀ (s : State) (e : Eng) (r : OpRef) (u : Run),
  let l := inputTok u 0; let x := inputTok u 1; let img := inputImg u 0; let c := opCfg r.op 0
  let works := fun (k : Nat) => runningAct s e k = some (r, u) ∧ u.phase = 0 ∧ allReceived u = true ∧ runMismatch s u = none
  let line := writeLine s r.op (tokScalar x % swinDepth c * tokBytes l) img
  let moved := fun (t : State) => t.threads = s.threads ∧
    (∀ a, memGet t.l0 a = memGet line.l0 a ∧ memGet t.hbm a = memGet s.hbm a ∧ memGet t.hostMem a = memGet s.hostMem a) ∧
    (tget {} r.op.slot (getEng t e).slots).q = (tokScalar x + 1) % (bits c 59 44 + 1)
  (∀ id ds, u.dests = id :: ds →
    (works 0x13 → WritesOut (.gather e) s e r u id
      (gatherOut (tokFmt l) (tokRows l) (tokCols l) (tokFmt x) (tokRows x * tokCols x) img (inputImg u 1)).1
      (gatherOut (tokFmt l) (tokRows l) (tokCols l) (tokFmt x) (tokRows x * tokCols x) img (inputImg u 1)).2 none) ∧
    (works 0x14 → WritesOut (.repeatOp e) s e r u id (repeatOut (tokFmt l) (tokRows l) (tokCols l) (tokScalar x)
      (bit c 32) (bit c 33) img) 0 none) ∧
    (works 0x16 → WritesOut (.transp e) s e r u id (transpOut (tokFmt l) (tokRows l) (tokCols l) img) 0 none) ∧
    (works 0x17 → WritesOut (.conv e) s e r u id (convOut u c (opType r.op)).1 (convOut u c (opType r.op)).2.2 none) ∧
    (∀ y, works 0x15 → winStart c (tokScalar x) = some y → imageRefused s id = none →
      let as_ := windowAddrs r.op c y (tokBytes l)
      (as_.map (· / 8)).dedup.any (eccBad line true) = false → ∃ t, exec (.swin e) s = .next t ∧ moved t ∧
        (getEng t e).run = some { u with phase := 1, resid := [residueOf (as_.map (memGet line.l0))]
                                         extra := if opNout r.op = 2 then some (scalarTok u y) else none } ∧
        ∃ ws, t.chunkWrites = s.chunkWrites ++ ws ∧ ws.map (·.chunk) = List.range (tileChunks (getTile s id)) ∧
          ∀ w ∈ ws, w.tile = id) ∧
    (∀ p ∈ [(0x13, 0, Instr.gather e), (0x14, 0, .repeatOp e), (0x15, 0, .swin e), (0x16, 0, .transp e),
            (0x17, b2n (bit c 36), .conv e)],
      runningAct s e p.1 = some (r, u) → u.phase ≠ 0 → tileFull s id = true →
      EndsRun p.2.2 s e r u u.act.id (toPort r 0 (tileTok s u id p.2.1 ((u.resid.head?).getD 0)) ++
        (u.extra.map (toPort r 1)).getD []))) ∧
  (works 0x15 → u.dests = [] → ∃ t, exec (.swin e) s = .next t ∧ (getEng t e).run = none ∧ moved t ∧
    t.updates = s.updates ++ u.toks.map (fallsFor r u.act.id))

/-- What GATHER, REPEAT and TRANSP compute (R156, R157, R159): row i of GATHER is the table row that index i names, and
absent for an index outside the table; element (i, j) of TRANSP is element (j, i) of its input; REPEAT along rows
repeats whole rows, each element of REPEAT taking row i mod h, or i div c when each row is repeated. -/
def Obligations.ShaperImages : Prop :=
  (∀ (fmt h w : Nat) (img : List Byte), img.length = h * w * elemBytes fmt → ∀ i j, i < h → j < w →
    imgElem (transpOut fmt h w img) (elemBytes fmt) (j * h + i) = imgElem img (elemBytes fmt) (i * w + j)) ∧
  (∀ (fmt h w c : Nat) (each : Bool) (img : List Byte), img.length = h * w * elemBytes fmt → ∀ i j, i < c * h → j < w →
    imgElem (repeatOut fmt h w c false each img) (elemBytes fmt) (i * w + j) =
      imgElem img (elemBytes fmt) ((if each then i / c else i % h) * w + j)) ∧
  (∀ (fmt rows cols ifmt n : Nat) (tab idx : List Byte), tab.length = rows * cols * elemBytes fmt → ∀ i, i < n →
    let out := (gatherOut fmt rows cols ifmt n tab idx).1
    (∀ k : Nat, gatherIdx ifmt idx i = some k → k < rows →
      (out.drop (i * cols * elemBytes fmt)).take (cols * elemBytes fmt) =
        (tab.drop (k * cols * elemBytes fmt)).take (cols * elemBytes fmt)) ∧
    (∀ k : Int, gatherIdx ifmt idx i = some k → (k < 0 ∨ (rows : Int) ≤ k) →
      (out.drop (i * cols * elemBytes fmt)).take (cols * elemBytes fmt) = absentBytes fmt cols ∧
        (gatherOut fmt rows cols ifmt n tab idx).2 &&& fInvalid ≠ 0))

/-- The array (R149 to R153, R381): WLOAD starts into the idle bank, writes it with its tile's format and shape, asks for
the swap, which follows at once when no MMUL is bound to the active bank, and emits its signal; MMUL starts when its bank
is valid and its formats and shape agree, adds its rows to the accumulators, and when it drains writes the drained image
and empties them, otherwise it ends; a wrong format or a tile too large for a bank, and an invalid bank, end in their
faults; an arithmetic error that the mod-3 check finds ends an MMUL with no token, its accumulators as they were, which is the
model's choice (log 41). -/
def Obligations.ArrayOperators : Prop := ∀ (s : State) (e : Eng),
  let i := getIsland s e
  (∀ f, starting s e 0x12 = some f → faultRoom s e f.toks.length = true → f.toks.any (·.poison) = false →
    (∀ t ∈ f.toks, scalarMismatch t = none) →
    let l := f.q.l.getD {}
    (tokFmt l = opType f.r.op → tokBytes l ≤ 32768 → StartsRun (.wload e) s e f ∧ ∃ t, exec (.wload e) s = .next t ∧
      (getIsland t e).load = true ∧ (bankOf (getIsland t e) (!i.act)).valid = false) ∧
    (tokFmt l ≠ opType f.r.op → f.act.dests = [] → FaultsStart (.wload e) s e f 0x010B) ∧
    (tokFmt l = opType f.r.op → 32768 < tokBytes l → f.act.dests = [] → FaultsStart (.wload e) s e f 0x010C)) ∧
  (∀ r u, runningAct s e 0x12 = some (r, u) → allReceived u = true → runMismatch s u = none →
    EndsRun (.wload e) s e r u u.act.id (if opNout r.op = 1 then toPort r 0 (signalTok u) else []) ∧
    ∃ t, exec (.wload e) s = .next t ∧ (getIsland t e).load = false ∧
      (getIsland t e).swp = decide (i.bact ≠ 0) ∧ (getIsland t e).act = (if i.bact = 0 then !i.act else i.act) ∧
      bankOf (getIsland t e) (!i.act) =
        { valid := true, fmt := tokFmt (inputTok u 0), k := tokCols (inputTok u 0), n := tokRows (inputTok u 0),
          sc := decide (tokMode (inputTok u 0) = 1), data := inputImg u 0, bursts := u.recv }) ∧
  (∀ f, starting s e 0x11 = some f → faultRoom s e f.toks.length = true → f.toks.any (·.poison) = false →
    (∀ t ∈ f.toks, scalarMismatch t = none) →
    (mmulFault s f = none → StartsRun (.mmul e) s e f) ∧
    (∀ b, f.act.bank = some b → (bankOf i b).valid = false → f.act.dests = [] → FaultsStart (.mmul e) s e f 0x010D)) ∧
  (∀ r u b, runningAct s e 0x11 = some (r, u) → u.phase = 0 → allReceived u = true → runMismatch s u = none →
    u.act.bank = some b → r.op.eng = e →
    let l := inputTok u 0; let ctl := runCtl r u
    let a := addRows (tokFmt l) (tokMode l) (tokRows l) (tokCols l) (bits ctl 6 0) (bankOf i b) (inputImg u 0)
      (u.recv.filter (·.input = 0)) (if bit ctl 8 then [] else i.acc) (getEng s e).arithErr
    ((getEng s e).arithErr = none → a.bad = false) ∧
    (a.bad = false → opCtok r.op = false → bit ctl 9 = false → EndsRun (.mmul e) s e r u u.act.id [] ∧
      ∃ t, exec (.mmul e) s = .next t ∧ (getIsland t e).acc = a.acc ∧ (getIsland t e).acls = accClass (tokFmt l)) ∧
    (∀ id ds, a.bad = false → opCtok r.op = false → bit ctl 9 = true → u.dests = id :: ds → imageRefused s id = none →
      ∃ t, exec (.mmul e) s = .next t ∧ (getIsland t e).acc = [] ∧ (getIsland t e).acls = 0 ∧ SameBytes s t ∧
      t.threads = s.threads ∧ ((getEng t e).run.map (·.resid)) = some [residueOf (drainAcc (accClass (tokFmt l))
        (bits (opCfg r.op 0) 33 32) (getTile s id).fmt (getTile s id).rows (getTile s id).cols a.acc).1]) ∧
    (a.bad = true → faultRoom s e u.toks.length = true → u.dests = [] → ∃ t, exec (.mmul e) s = .next t ∧
      (getEng t e).run = none ∧ (getIsland t e).acc = i.acc ∧ t.inFlight = s.inFlight ∧ SameBytes s t))

/-- Vector blocks (R101, R137, R146, R147, R181, R208 to R210, R215, R301): an activation whose block is legal starts with
the window's registers and the accumulators at zero, one whose block is illegal blocks its element; a step runs the words
in ascending stage, slot and repeat once its inputs are in, the owners of its bound tiles grant their slots (R296) and no copy
or watch filter holds them, to its end or to a stop
between two repeats, from where it goes on; the last step is followed by the destination images and then the tokens. VWR
writes the enabled elements of one stage register and nothing else of the registers. -/
def Obligations.VectorBlocks : Prop := ∀ (s : State) (e : Eng),
  (∀ f, starting s e 0x10 = some f → (getEng s e).blocked = none → faultRoom s e f.toks.length = true →
    f.toks.any (·.poison) = false → (∀ t ∈ f.toks, scalarMismatch t = none) →
    let b := blockCtx s f.r; let d := tget {} f.q.slot (getEng s e).slots
    let keep := (getVTile s e).regs.filter fun x => !(decide (b.window.1 ≤ x.1) && decide (x.1 ≤ b.window.2))
    ((d.validated = true ∨ firstIllegal b = none) → vblockFault s f b = none →
      ∃ t, exec (.vblockActivation e) s = .next t ∧
        (∃ o, (getEng t e).run =
          some { act := f.act, toks := f.toks, dests := f.act.dests, steps := blockSteps b, out := o }) ∧
        (getEng t e).unit = (getEng s e).unit.erase f.act ∧
        getVTile t e = { getVTile s e with regs := keep, acc := [], flags := [], rep := 0 } ∧
        t.threads = s.threads ∧ SameBytes s t) ∧
    (∀ k, d.validated = false → firstIllegal b = some k → ∃ t, exec (.vblockActivation e) s = .next t ∧
      (getEng t e).blocked = some (f.r.op.slot * 128 + k) ∧ (getEng t e).run = none ∧ SameBytes s t)) ∧
  (∀ r u, runningAct s e 0x10 = some (r, u) →
    let c := stepCtx s r u
    let own := boundGrants s c
    (u.phase ≠ 0 ∨ u.steps ≤ u.step ∨ stepInputs c = false ∨ own = false → exec (.vblockStep e) s = .next s) ∧
    (u.phase = 0 → u.step < u.steps → stepInputs c = true → own = true → portHeld s c = true →
      ∃ t, exec (.vblockStep e) s = .next t ∧ (getEng t e).run = some { u with arrived := some (u.arrived.getD s.nextId) } ∧
        getVTile t e = getVTile s e ∧ t.threads = s.threads ∧ SameBytes s t) ∧
    (u.phase = 0 → u.step < u.steps → stepInputs c = true → own = true → portHeld s c = false → boundGate s c = none →
      let p := stepPart (stepRest c.b u.word (getVTile s e).rep) (Config.freeNat s.nextId)
      let s0 := watchPassed s u.act.id ((boundChunks s c).flatMap fun x => chunkSectors (getTile s x.1) x.2)
      let v := p.1.foldl (runWord c) { stepStart s e u with s := { s0 with nextId := s.nextId + 1 } }
      v.bad3 = false → v.bad = false →
      (p.2 = none → v.brk = none → ∃ t, exec (.vblockStep e) s = .next t ∧ getVTile t e = { v.vt with rep := 0 } ∧
        (getEng t e).run = some { u with step := u.step + 1, out := v.out, word := 0, box := [], brk := none, arrived := none
                                         loop := (u.loop ++ v.loop).filter fun l => decide (u.step < l.step) } ∧
        t.threads = v.s.threads ∧ t.hbm = v.s.hbm ∧ t.l0 = v.s.l0 ∧ t.hostMem = v.s.hostMem) ∧
      (∀ q, p.2 = some q → ∃ t, exec (.vblockStep e) s = .next t ∧ getVTile t e = { v.vt with rep := q.2 } ∧
        (getEng t e).run = some { u with out := v.out, word := q.1, box := v.box, brk := v.brk, arrived := none
                                         loop := u.loop ++ v.loop } ∧
        t.threads = v.s.threads ∧ t.hbm = v.s.hbm ∧ t.l0 = v.s.l0 ∧ t.hostMem = v.s.hostMem)) ∧
    (u.step < u.steps → exec (.vblockComplete e) s = .next s) ∧
    (u.steps ≤ u.step → u.phase = 0 → allReceived u = true → runMismatch s u = none →
      (∀ id ∈ u.dests, imageRefused s id = none) →
      let imgs := (destPorts r).map fun p => outImage u (opType r.op) p
      ∃ t, exec (.vblockComplete e) s = .next t ∧
        (getEng t e).run = some { u with phase := 1, loop := [], resid := imgs.map residueOf } ∧
        (∃ ws, t.chunkWrites = s.chunkWrites ++ ws ∧ ws.map (fun w => (w.tile, w.chunk)) =
          (u.dests.zip imgs).flatMap fun d => (List.range (tileChunks (getTile s d.1))).map fun c => (d.1, c)) ∧
        t.threads = s.threads ∧ SameBytes s t) ∧
    (u.steps ≤ u.step → u.phase ≠ 0 → u.dests.all (tileFull s) = true →
      EndsRun (.vblockComplete e) s e r u u.act.id
        ((((destPorts r).zip u.dests).zip u.resid).flatMap (fun d => toPort r d.1.1 (tileTok s u d.1.2 0 d.2)) ++
          if hasCompletion (blockCtx s r) then toPort r (opNout r.op - 1) (signalTok u) else []))) ∧
  (∀ b : BlockCtx, (stepOrder b).Pairwise (fun i j => bwStage (b.word i.1) < bwStage (b.word j.1) ∨
      (bwStage (b.word i.1) = bwStage (b.word j.1) ∧ (i.1 < j.1 ∨ (i.1 = j.1 ∧ i.2 < j.2)))) ∧
    ∀ p, p ∈ stepOrder b ↔ p.1 < b.words.length ∧ bwStage (b.word p.1) < 6 ∧ p.2 < repeats b p.1) ∧
  (∀ (c : VCtx) (v : VStep) (slot : Nat), bwOp (c.b.word slot) = 0x109 →
    (slot = 0 ∨ bwOp (c.b.word (slot - 1)) ≠ 0x10B) →
    let a := bits (bwAux (c.b.word slot)) 20 16
    regElems c (runWord c v (slot, 0)) a = (c.js.map fun j =>
      if onAt (enabledAt c v slot) j then vAt (operand c v slot 0) j % 2 ^ c.b.w else vAt (regElems c v a) j) ∧
    ∀ k, k ≠ a → tget 0 k (runWord c v (slot, 0)).vt.regs = tget 0 k v.vt.regs)

/-! ### Transfers -/

/-- HLOAD and HSTORE (R162 to R168): a load whose pattern translates enters its ranges, leaves its unit and issues one read
for each 64-byte sector; the bytes of a sound sector that returns join the load and begin the chunks they complete, and
with the last the completion token leaves; when its tile is FULL, which is the model's choice (log 90), it emits the tile token
and its tokens are consumed. A store enters its ranges; each chunk of its tile that can be read is read, which issues a write
for each run of its bytes that no later element overwrites; the read of the tile retires with its last chunk, where a residue
that differs stops the store; it emits when all is read and acknowledged, its completion token with the poison bit of its left
token by the model's choice (log 36); a write that an owner refused is a fault (log 35: no reference is left to the set-aside
token). A pattern whose page misses waits for its walk; one that does not translate ends in a fault with its cause. -/
def Obligations.HbmTransfers : Prop := ∀ (s : State) (e : Eng) (n : Nat),
  let st := (newStamp s e).1
  (∀ f i id ds, xferAt s e n 0x18 = some f → f.toks.any (·.poison) = false → scalarBad s f = none →
    patIndex (opCfg f.r.op 0) (frameOf f) (tokScalar (f.q.l.getD {})) = some i → f.act.dests = id :: ds →
    let t := getTile s id
    (patBs (opCfg f.r.op 0) = true →
      headersReady s e f.r.g.part t.fmt .op false (tileChunks t) (patBase (opCfg f.r.op 0) i) = true) →
    ∀ rs ws, xferRuns s e f.r.g.part (opCfg f.r.op 0) i t.rows t.cols t.fmt .op none = .ok (rs, ws) →
    (∀ ps, runsToPieces s e f.r.g.part .op .read rs = .ok ps →
      let rg := rangesOf false f.q.lid e st s.nextId ps
      rangeRoom s rg = true → ∃ u, exec (.hload e n) s = .next u ∧ u.ranges = s.ranges ++ rg ∧
        u.xfers = s.xfers ++ [{ id := s.nextId, eng := e, slot := f.q.slot, vrow := f.q.vrow, lid := f.q.lid,
                                tok := (f.toks.head?).getD {}, tok2 := f.toks[1]?, dest := some id, pieces := ps,
                                left := (sectorReads ps).length, words := ws }] ∧
        (getEng u e).unit = (getEng s e).unit.erase f.act ∧ u.threads = s.threads ∧ SameBytes s u ∧
        ((∀ p ∈ sectorReads ps, p.host = true ∨ (ownerOf p.addr).pkg = e.pkg) → ∃ qs, u.reqs = s.reqs ++ qs ∧
          qs.map (fun q => (q.host, q.pa, q.len, q.op, q.from_, q.st)) =
            (sectorReads ps).map fun p => (p.host, p.addr, 64, .read, .hload e s.nextId 0, .queued))) ∧
    (∀ x, runsToPieces s e f.r.g.part .op .read rs = .error x → x.1 = 0 → ∃ u, exec (.hload e n) s = .next u ∧
      u = { s with walks := u.walks } ∧
      ∃ w ∈ u.walks, w.fault = 0 ∧ walkFor w e f.r.g.part (x.2 / 8192) = true ∧ e ∈ w.engs) ∧
    (∀ x, runsToPieces s e f.r.g.part .op .read rs = .error x → x.1 ≠ 0 → x.1 ≠ 0x0111 → faultRoom s e f.toks.length = true →
      s.allocWait = [] → FaultsStart (.hload e n) s e f x.1)) ∧
  (∀ q x y off r id, s.reqs.find? (fun q => decide (q.id = n) && decide (q.st = .done)) = some q → q.from_ = .hload e x off →
    s.xfers.find? (fun y => decide (y.id = x)) = some y → findOp s e y.slot = some r → y.failed = false →
    q.denied = false → q.bad = false → y.dest = some id →
    let z := gotSector y (getTile s id) q; let go := loadReady z (getTile s id)
    (∀ c ∈ go, chunkRefused (getTile s id) c = false) →
    let done := if opCtok r.op then
      toPort r (opNout r.op - 1) { y.tok with kind := 3, opw := 0, residue := 0, poison := z.poison } else []
    (z.left = 0 → y.ctok = false → Emits s r y.tok.tag done) →
    ∃ u ws, exec (.hloadSectorReturn e n) s = .next u ∧ u.reqs = s.reqs.filter (fun r => r.id != q.id) ∧
      u.xfers.find? (fun y => decide (y.id = x)) =
        some { z with begun := z.begun ++ go, ctok := (y.ctok || decide (z.left = 0) : Bool) } ∧
      u.chunkWrites = s.chunkWrites ++ ws ∧ ws.map (·.chunk) = go ∧ (∀ w ∈ ws, w.tile = id) ∧
      u.updates = s.updates ++ (if z.left = 0 ∧ y.ctok = false then done.map (risesFor s r x) else []) ∧
      u.threads = s.threads ∧ SameBytes s u) ∧
  (∀ x r id, s.reqs.find? (fun q => decide (q.id = n) && decide (q.st = .done)) = none →
    s.xfers.find? (fun y => decide (y.id = n) && decide (y.eng = e) && !y.store && decide (y.left = 0)) = some x →
    findOp s e x.slot = some r → x.dest = some id →
    (tileFull s id = false → exec (.hloadSectorReturn e n) s = .next s) ∧
    (tileFull s id = true →
      let t := getTile s id
      let img := (List.range (tileChunks t)).flatMap fun c => (loadChunk x t c).1
      let out := toPort r 0 { x.tok with kind := 1, poison := x.poison, residue := residueOf img,
                                         opw := tileOpw id t.rows t.cols t.fmt (loadMode x t) }
      refsRoom s out = true → Emits s r x.tok.tag out → ∃ u, exec (.hloadSectorReturn e n) s = .next u ∧
        u.updates = s.updates ++ out.map (risesFor s r n) ++ (xferToks x).map (fallsFor r n) ∧
        u.xfers = s.xfers.filter (fun y => decide (y.id ≠ n)) ∧ u.threads = s.threads ∧ SameBytes s u)) ∧
  (∀ f i, xferAt s e n 0x19 = some f → f.toks.any (·.poison) = false → scalarBad s f = none →
    let c := opCfg f.r.op 0; let t := f.q.l.getD {}
    tokFmt t = opType f.r.op → (tokMode t = 0 ∨ (tokMode t = 1 ∧ patBs c = true)) →
    patIndex c (frameOf f) (tokScalar (f.q.r.getD {})) = some i →
    (tokMode t = 1 → tokReadable s t = false → exec (.hstore e n) s = .next s) ∧
    ((tokMode t = 1 → tokReadable s t = true) → ∀ rs ws ps,
      xferRuns s e f.r.g.part c i (tokRows t) (tokCols t) (tokFmt t) .op (some (tokWords s t)) = .ok (rs, ws) →
      runsToPieces s e f.r.g.part .op .write rs = .ok ps → rangeRoom s (rangesOf false f.q.lid e st s.nextId ps) = true →
      ∃ u, exec (.hstore e n) s = .next u ∧ u.ranges = s.ranges ++ rangesOf false f.q.lid e st s.nextId ps ∧
        u.xfers = s.xfers ++ [{ id := s.nextId, eng := e, slot := f.q.slot, vrow := f.q.vrow, lid := f.q.lid, tok := t,
                                tok2 := f.q.r, store := true, pieces := ps, words := ws, todo := List.range (tokChunks t) }] ∧
        u.reqs = s.reqs ∧ u.retires = s.retires ∧ (getEng u e).unit = (getEng s e).unit.erase f.act ∧
        u.threads = s.threads ∧ SameBytes s u)) ∧
  (∀ x r, let k := n - (getEng s e).unit.length; let c := k % 128
    (getEng s e).unit.length ≤ n → (s.xfers.filter fun x => decide (x.eng = e) && x.store)[k / 128]? = some x →
    findOp s e x.slot = some r →
    (x.todo.contains c = false ∨ chunkReadable s x.tok c = false → exec (.hstore e n) s = .next s) ∧
    (x.todo.contains c = true → chunkReadable s x.tok c = true →
      chunkGate s (tokTile x.tok) c x.id x.lid .read = none → (getEng s e).dataErr = none →
      let t := x.tok; let b := burstOf s (tokTile t) (tokMode t) 0 c
      b.2 = false → burstBad (tokMode t) (tokFmt t) (tokChunks t) c b.1.words = false →
      let y := { x with todo := x.todo.erase c, resid := (x.resid + residueOf b.1.data) % 65535, sum := (x.sum + b.1.sum) % 65535 }
      let want := if chunkChecked s t then y.sum else t.residue
      let moved := fun (u : State) (z : Xfer) => u.xfers = s.xfers.map (fun w => if w.id = x.id then z else w) ∧
        u.threads = s.threads ∧ SameBytes s u
      (y.todo = [] → x.poison = false → residueEq want y.resid = false → ∃ u, exec (.hstore e n) s = .next u ∧
        u.reqs = s.reqs ∧ u.retires = s.retires ∧ u.xfers = s.xfers.map (fun w =>
          if w.id = x.id then { w with todo := [], stop := some (2, want, y.resid) } else w) ∧
        u.threads = s.threads ∧ SameBytes s u) ∧
      (y.todo ≠ [] ∨ x.poison = true ∨ residueEq want y.resid = true →
        let p := storeChunk x c; let ps := slicePieces x.pieces p.1 p.2
        let bs := if x.words.isEmpty then b.1.data else joinBurst (tokFmt t) b.1.words b.1.data
        let own := fun a : Nat => decide (p.1 ≤ lastOffset x.pieces a) && decide (lastOffset x.pieces a < p.1 + p.2)
        (∀ k ∈ sectorsOf ps, ∀ b, b < 64 → (ownerOf (k * 64 + b)).pkg = e.pkg) →
        ∃ u qs, exec (.hstore e n) s = .next u ∧ moved u y ∧ u.reqs = s.reqs ++ qs ∧
          qs.map (fun q => (q.pa, q.op, q.from_)) = ((sectorsOf ps).flatMap fun k =>
            (sectorRuns own (withBytes ps bs) k).map fun w => (w.1, .write w.2 x.poison, .hstore e x.id)) ∧
          u.retires = s.retires ++ if y.todo = [] then [{ tile := tokTile t }] else []))) ∧
  (∀ x r, s.xfers.find? (fun y => decide (y.id = n) && decide (y.eng = e) && y.store) = some x →
    findOp s e x.slot = some r →
    let faults := fun cause v => ∃ u, exec (.hstoreComplete e n) s = .next u ∧ u.updates = s.updates ∧
      u.xfers = s.xfers.filter (fun y => decide (y.id ≠ n)) ∧ u.threads = s.threads ∧ SameBytes s u ∧
      ∃ rep, u.reports = s.reports ++ [rep] ∧ rep.cause = cause ∧ rep.tval = BitVec.ofNat 64 v
    (x.todo ≠ [] ∨ s.reqs.any (fun q => ofStore e n q && decide (q.st ≠ .done)) = true →
      exec (.hstoreComplete e n) s = .next s) ∧
    (x.todo = [] → s.reqs.all (fun q => !ofStore e n q || decide (q.st = .done)) = true →
      (x.stop = none → s.reqs.any (fun q => ofStore e n q && q.denied) = false →
        let out := if opCtok r.op then toPort r (opNout r.op - 1) { x.tok with kind := 3, opw := 0, residue := 0 } else []
        Emits s r x.tok.tag out → ∃ u, exec (.hstoreComplete e n) s = .next u ∧
          u.updates = s.updates ++ out.map (risesFor s r n) ++ (xferToks x).map (fallsFor r n) ∧
          u.reqs = s.reqs.filter (fun q => !ofStore e n q) ∧ u.xfers = s.xfers.filter (fun y => decide (y.id ≠ n)) ∧
          u.retires = s.retires ∧ u.threads = s.threads ∧ SameBytes s u) ∧
      (∀ cause v, x.stop = some (0, cause, v) → faultRoom s e (xferToks x).length = true → faults cause v) ∧
      (∀ q, x.stop = none → (s.reqs.filter (ofStore e n)).find? (·.denied) = some q →
        faultRoom s e (xferToks x).length = true → faults 0x0110 q.va)))

/-- COPY and copy packets (R168, R171, R172, R250, R251): at its queue's turn a copy whose ends translate enters its ranges
and begins; with early set its tile token leaves at once. A chunk with a source in memory first reads its sectors and waits
for them, one of a tile waits for the chunk's bit; then it is written: to memory by a request for each sector, to a tile at
once, which sets its bit; an acknowledged chunk decrements the barrier and leaves the copy's list, and with the last one a
packet's copy retires. The sealed packet at a queue's read index becomes a copy at the queue's turn; without one nothing
is taken but for the counts and walks of the queue's reads; one that breaks the rules raises a packet fault. The residue of an
early token is that of the bytes at the copy's begin, and a turn starts after the queue served last, by the model's choice
(logs 37, 127); so does a packet take the block-scale mode of its tile from the chunk's words (log 145). -/
def Obligations.CopyOperators : Prop := ∀ (s : State), s.MemOk →
  (∀ (e : Eng) (n : Nat) f j, xferAt s e n 0x1A = some f → f.toks.any (·.poison) = false → scalarBad s f = none →
    let l := f.q.l.getD {}
    (bit (opCfg f.r.op 0) 159 = false → tokFmt l = opType f.r.op ∧ tokMode l ≤ 1) →
    copyWaits s f = false → copyTurn s e.pkg e.die 16 = true → formCopy s f = .ok j →
    let k := { j with id := s.nextId, stamp := (newStamp s j.eng).1, left := List.range (copyChunks j) }
    let tile := match j.early, j.dst with
      | true, .tile id =>
        let x := getTile s id
        toPort f.r 0 { l with kind := 1, residue := sourceResidue s j l, opw := tileOpw id x.rows x.cols x.fmt j.mode }
      | _, _ => []
    rangeRoom s (copyRanges k) = true → refsRoom s tile = true → Emits s f.r l.tag tile →
    ∃ u, exec (.copy e n) s = .next u ∧ u.copies = s.copies ++ [k] ∧
      u.ranges = s.ranges ++ copyRanges k ∧ (getEng u e).unit = (getEng s e).unit.erase f.act ∧
      u.updates = s.updates ++ tile.map (risesFor s f.r s.nextId) ∧ u.threads = s.threads ∧ SameBytes s u) ∧
  (∀ (pkg die n chunk : Nat) j,
    s.copies.find? (fun j => decide (j.id = n) && decide (j.eng = copyEng pkg die)) = some j → j.failed = false →
    j.left ≠ [] →
    let i := Instr.copyChunkAck pkg die n chunk
    let mine := s.reqs.filter (ofChunk j chunk); let rest := s.reqs.filter fun q => !ofChunk j chunk q
    let become := fun (u : State) (k : CopyJob) => u.copies = s.copies.map fun x => if x.id = n then k else x
    let local_ := fun ps : List Piece => ∀ p ∈ ps, p.host = true ∨ (ownerOf p.addr).pkg = pkg
    let counted := fun u : State => ∀ d b, j.bar = some (d, b, false) →
      getBar u (pkg, d, b) = barDec (copyChunk j chunk).2 (getBar s (pkg, d, b))
    (j.left.contains chunk = false → exec i s = .next s) ∧
    (j.left.contains chunk = true → j.writing.contains chunk = false →
      (∀ ps b, j.src = .mem ps b →
        (j.reading.contains chunk = false → local_ (sectorReads (endPieces j j.src chunk)) → ∃ u qs, exec i s = .next u ∧
          become u { j with reading := chunk :: j.reading } ∧ u.reqs = s.reqs ++ qs ∧ u.threads = s.threads ∧ SameBytes s u ∧
          qs.map (fun q => (q.host, q.pa, q.len, q.op, q.from_)) = (sectorReads (endPieces j j.src chunk)).map
            fun p => (p.host, p.addr, 64, .read, .copy j.eng j.id chunk)) ∧
        (j.reading.contains chunk = true → (∃ q ∈ mine, q.st ≠ .done) → exec i s = .next s)) ∧
      (∀ id, j.src = .tile id → (getTile s id).cmap.getLsbD chunk = false → exec i s = .next s) ∧
      (∀ m, (match j.src with
          | .tile id => m = tileChunk s j id chunk ∧ (getTile s id).cmap.getLsbD chunk = true ∧ l1Grants s id chunk = true
          | .mem _ _ => m = memChunk j chunk mine ∧ j.reading.contains chunk = true ∧ ∀ q ∈ mine, q.st = .done) →
        dstGrants s j chunk = true → copyGate s j chunk = none →
        chunkStop s j chunk m (j.left.all fun k => decide (k = chunk) || j.writing.contains k) = none →
        let k := addResidue { j with reading := j.reading.erase chunk } m
        (∀ ps b, j.dst = .mem ps b → local_ ((chunkWrites j chunk m).map fun q => { host := q.host, addr := q.pa }) →
          ∃ u qs, exec i s = .next u ∧ become u { k with writing := chunk :: j.writing } ∧ u.reqs = rest ++ qs ∧
            qs.map (fun q => (q.host, q.pa, q.op, q.from_)) = (chunkWrites j chunk m).map
              (fun q => (q.host, q.pa, q.op, q.from_)) ∧ u.threads = s.threads ∧ SameBytes s u) ∧
        (∀ id, j.dst = .tile id → (getTile s id).state = 1 ∨ (getTile s id).state = 2 → j.left.erase chunk ≠ [] →
          ∃ u, exec i s = .next u ∧ become u { k with left := j.left.erase chunk, writing := j.writing.erase chunk } ∧
            (getTile u id).cmap = (getTile s id).cmap ||| BitVec.twoPow 128 chunk ∧ counted u ∧ u.threads = s.threads))) ∧
    (j.left.contains chunk = true → j.writing.contains chunk = true →
      ((∃ q ∈ mine, q.st ≠ .done) → exec i s = .next s) ∧
      ((∀ q ∈ mine, q.st = .done ∧ q.denied = false) →
        (j.left.erase chunk ≠ [] → ∃ u, exec i s = .next u ∧ u.reqs = rest ∧ counted u ∧ u.threads = s.threads ∧ SameBytes s u ∧
          become u { j with left := j.left.erase chunk, writing := j.writing.erase chunk }) ∧
        (j.left = [chunk] → j.packet.isSome = true → ∃ u, exec i s = .next u ∧ u.reqs = rest ∧ counted u ∧
          u.threads = s.threads ∧ SameBytes s u ∧ (∀ x ∈ u.copies, x.id ≠ n) ∧ ∀ x ∈ u.ranges, x.stamp ≠ j.stamp)))) ∧
  (∀ (pkg die q : Nat),
    (copySlot s pkg die q = none → ∃ u, exec (.copyPacketTake pkg die q) s = .next u ∧
      u = { s with bankModes := u.bankModes, walks := u.walks }) ∧
    (∀ r b, q < 16 → copyTurn s pkg die q = true → copySlot s pkg die q = some (r, b) →
      (getLaunch s (pkg, field b 2 2 % 4096)).any (·.killed) = false →
      let c := getCopyQ s (pkg, die, q); let e := copyEng pkg die; let slot := r % 2 ^ c.log2
      let took := servedQ (engineWrite (queueReads s pkg die q) e c.part (c.base.toNat + 8) (leBytes 8 ((r + 1) % 2 ^ 64))) pkg die q
      (∀ j k t, formPacket took e c.part q slot b = .ok j → launchCopy took j = some (k, t) →
        exec (.copyPacketTake pkg die q) s = .next t ∧ t.copies = s.copies ++ [k] ∧ k.left = List.range (copyChunks j) ∧
          t.threads = s.threads) ∧
      (∀ a, formPacket took e c.part q slot b = .error a → (∀ x, a = some x → x.1 ≠ 0) → ∃ t rep, exec (.copyPacketTake pkg die q) s = .next t ∧
        t.copies = s.copies ∧ t.threads = s.threads ∧ t.reports = s.reports ++ [rep] ∧ rep.cause = 0x0114 ∧
        rep.tval = BitVec.ofNat 64 (slot % 4096 + q * 2 ^ 12 + 2 ^ 16 * b2n a.isSome))))

/-- Channel operators (R173 to R176, R322 to R325, R364): a CHW whose channel has a place writes its record there, ready
for the reader, and signals; with no place it goes back to its row; to a channel of another package it sends its record and
signals once that is there. A CHR takes the oldest record, from another package as an answer (log 146), or signals the end of
a closed stream, or goes back to its row. A DISPATCH row goes as a record to its first choice with credit, an absent row
nowhere; one whose first choice has no credit goes to its second with credit, or waits. A credit update tells the writer the
true credit, which a pool with no free segment bounds by the model's reading (log 147). The packet of the next record reserves
its place and a record's packet performs its bytes, and the record is ready with its last; a chunk's packet begins the chunk,
or raises tile-state. Records in HBM pass in slots of their owners (log 33) and once no watch filter holds them. -/
def Obligations.ChannelOperators : Prop := ∀ (s : State), s.MemOk →
  (∀ (e : Eng) (n : Nat), xunitRoom s e = true →
    let ends := fun (u : State) (f : Start) (out : List Token) =>
      u.updates = s.updates ++ out.map (risesFor s f.r s.nextId) ++ f.toks.map (fallsFor f.r s.nextId) ∧
        (getEng u e).unit = (getEng s e).unit.erase f.act ∧ u.threads = s.threads
    let waits := fun (u : State) (f : Start) => u.updates = s.updates ∧ (∀ j, (getChan u j).recs = (getChan s j).recs) ∧
        (getEng u e).unit = (getEng s e).unit.erase f.act ∧ u.threads = s.threads ∧ SameBytes s u
    (∀ f k bs, xunitAt s e n 0x1C = none → xferAt s e n 0x1C = some f →
      let t := (f.toks.head?).getD {}; let c := getChan s k; let out := toPort f.r 0 (signalFrom t)
      t.poison = false → t.kind ≠ 1 → mismatch s t [] = none → chanOfWriter s (opCoord f.r.op) = some k → c.state = 1 →
      recordOf t [] (recBytes c) = some bs →
      (∀ v, k.1 ≠ e.pkg → 0 < creditOf s k → sendRecord s (opCoord f.r.op) t k (recFmt t) bs = some v →
        ∃ u x, exec (.chw e n) s = .next u ∧ u.xunits = s.xunits ++ [x] ∧ x.sent = some (k, c.sent) ∧ u.packets = v.packets ∧
          (getChan u k).sent = (c.sent + 1) % 2 ^ 32 ∧ (getEng u e).unit = (getEng s e).unit.erase f.act ∧
          u.updates = s.updates ∧ u.threads = s.threads ∧ SameBytes s u) ∧
      (k.1 ≠ e.pkg → creditOf s k = 0 → ∃ u, exec (.chw e n) s = .next u ∧ waits u f) ∧
      (∀ seg pos v, k.1 = e.pkg → writePlace s k = .ok seg pos v → Emits s f.r f.q.tag out →
        c.recs.all (fun q => decide (q.ordinal ≠ c.wrec)) = true → recGrants s k { seg := seg, pos := pos } = true →
        recGate s e.pkg k { seg := seg, pos := pos } f.act.id f.q.lid .write = none → ∃ u q, exec (.chw e n) s = .next u ∧ ends u f out ∧
        (getChan u k).recs = c.recs ++ [q] ∧ q.ready = true ∧ q.residue = residueOf bs ∧ q.seg = seg ∧ q.pos = pos ∧
        (seg = none → c.rlog ≤ 2 →
          (∀ i (h : i < bs.length), memGet u.l0 (recAddr s k c q i) = bs[i]) ∧ u.hbm = s.hbm ∧
          ∀ a, (∀ i, i < bs.length → a ≠ recAddr s k c q i) → memGet u.l0 a = memGet s.l0 a)) ∧
      (k.1 = e.pkg → writePlace s k = .full → ∃ u, exec (.chw e n) s = .next u ∧ waits u f)) ∧
    (∀ r x k ord, xunitAt s e n 0x1C = some (r, x) → x.sent = some (k, ord) →
      let out := toPort r 0 (signalFrom x.tok)
      (recLanded s k ord = false → exec (.chw e n) s = .next s) ∧
      (recLanded s k ord = true → Emits s r x.tok.tag out → ∃ u, exec (.chw e n) s = .next u ∧
        u.updates = s.updates ++ out.map (risesFor s r x.id) ++ (xunitToks x).map (fallsFor r x.id) ∧
        u.xunits = s.xunits.filter (fun y => decide (y.id ≠ x.id)) ∧ u.threads = s.threads ∧ SameBytes s u)) ∧
    (∀ f k, xunitAt s e n 0x1B = none → xferAt s e n 0x1B = some f → f.toks.any (·.poison) = false → scalarBad s f = none →
      chanOfReader s (opCoord f.r.op) = some k →
      let t := (f.toks.head?).getD {}
      (∀ q o, k.1 ≠ e.pkg → headRec (getChan s k) = some q → recGrants s k q = true →
        recGate s e.pkg k q f.act.id f.q.lid .read = none → bit (opCfg f.r.op 0) 64 = true → q.poison = false →
        egress s ⟨k.1, k.2.1, 0, 25⟩ e.pkg = some o → straitRoom s o {} = true →
        let d := readRecBytes s k q
        d.2 = false → residueEq q.residue (residueOf d.1) = true →
        ∃ u x, exec (.chr e n) s = .next u ∧ u.xunits = s.xunits ++ [x] ∧ x.phase = 2 ∧ getChan u k = readTake (getChan s k) ∧
          Leaves s u o { hdr := { dst := opCoord f.r.op }, body := .readResponse x.id (d.1.take 64) false false } ∧
          u.updates = s.updates ∧ u.threads = s.threads ∧ SameBytes s u) ∧
      (∀ q, k.1 = e.pkg → headRec (getChan s k) = some q → recGrants s k q = true → recGate s e.pkg k q f.act.id f.q.lid .read = none → bit (opCfg f.r.op 0) 64 = true → q.poison = false →
        let d := readRecBytes s k q
        let out := toPort f.r 0 { t with kind := 2, opw := BitVec.ofNat 128 (leNat (d.1.take 8)),
                                         residue := residueOf (d.1.take 8), poison := false }
        d.2 = false → residueEq q.residue (residueOf d.1) = true → Emits s f.r f.q.tag out →
        ∃ u, exec (.chr e n) s = .next u ∧ ends u f out ∧ SameBytes s u ∧ getChan u k = readTake (getChan s k)) ∧
      (headRec (getChan s k) = none → f.act.dests = [] →
        ((getChan s k).recs = [] → (getChan s k).state = 2 → opNout f.r.op = 2 → Emits s f.r f.q.tag (toPort f.r 1 (signalFrom t)) →
          ∃ u, exec (.chr e n) s = .next u ∧ ends u f (toPort f.r 1 (signalFrom t)) ∧ SameBytes s u) ∧
        ((getChan s k).state = 1 → ∃ u, exec (.chr e n) s = .next u ∧ waits u f))) ∧
    (∀ r x ks, xunitAt s e n 0x1D = some (r, x) → dispatchBehind s x = false → x.phase = 0 →
      x.row < tokRows x.tok → dispatchChans s r.op = some ks → r.op.eng = e →
      let t := x.tok2.getD {}
      let choice := fun m : Nat => routeAt (tokFmt t) (tokCols t) x.route x.row m
      let bs := imgRow x.img (tokCols x.tok) (elemBytes (tokFmt x.tok)) x.row
      let advanced := fun (u : State) (rep : Nat) => ∃ y, u.xunits.find? (fun y => decide (y.id = x.id)) = some y ∧
        y.row = x.row + 1 ∧ y.report = x.report ++ [rep]
      let goes := fun (k : ChanKey) (rep : Nat) => ∃ u p, exec (.dispatch e n) s = .next u ∧
        advanced u rep ∧ u.inbox = s.inbox ++ [p] ∧ p.hdr.residue = residueOf bs ∧
        p.body = .channelWrite k.2.1 k.2.2 (getChan s k).sent (getChan s k).rlog 0 (tokFmt x.tok) (bs.take 4096) ∧
        (getChan u k).sent = ((getChan s k).sent + 1) % 2 ^ 32 ∧
        (getChan u k).credit = (if heldCredit s k = noLimit then noLimit else heldCredit s k - 1) ∧
        u.threads = s.threads ∧ SameBytes s u
      s.xunits.find? (fun y => decide (y.id = x.id)) = some x →
      (choice 0 = none → ∃ u, exec (.dispatch e n) s = .next u ∧ advanced u 0xFFFF ∧ u = { s with xunits := u.xunits }) ∧
      (∀ (m : Nat) k, choice 0 = some (m : Int) → ks[m]? = some k →
        (0 < heldCredit s k → k.1 = e.pkg → recParts (getChan s k) = [0] → goes k m) ∧
        (heldCredit s k = 0 → choice 1 = none → exec (.dispatch e n) s = .next s) ∧
        (∀ (d : Nat) j, heldCredit s k = 0 → choice 1 = some (d : Int) → ks[d]? = some j →
          (heldCredit s j = 0 → exec (.dispatch e n) s = .next s) ∧
          (0 < heldCredit s j → j.1 = e.pkg → recParts (getChan s j) = [0] → goes j (d + 256))))) ∧
    (∀ f a route, xunitAt s e n 0x1D = none → xferAt s e n 0x1D = some f → f.toks.any (·.poison) = false →
      readTileTok s (f.q.l.getD {}) f.act.id = .img a → readTileTok s (f.q.r.getD {}) f.act.id = .img route →
      dispatchFault s f route = none →
      ∃ u x, exec (.dispatch e n) s = .next u ∧ u.xunits = s.xunits ++ [x] ∧ x.row = 0 ∧ x.phase = 0 ∧ x.report = [] ∧
        x.img = a ∧ x.route = route ∧ x.dest = f.act.dests ∧ (getEng u e).unit = (getEng s e).unit.erase f.act ∧
        u.threads = s.threads ∧ SameBytes s u)) ∧
  (∀ pkg die i : Nat, let k : ChanKey := (pkg, die, i); let c := getChan s k
    (∀ d l, c.state = 1 → c.wep = .op d l → c.credit < creditOf s k → exec (.dispatchCreditUpdate pkg die i) s =
      .next (setChan s k { c with credit := creditOf s k })) ∧
    (creditOf s k ≤ c.credit → exec (.dispatchCreditUpdate pkg die i) s = .next s)) ∧
  (∀ (n : Nat) p, s.inbox[n]? = some p →
    (∀ x ∈ s.inbox.take n, waitsInside x = true ∨ x.hdr.src.eng ≠ p.hdr.src.eng ∨ x.hdr.dst.eng ≠ p.hdr.dst.eng) →
    (∀ die i ord rl ch fmt bs, p.body = .channelWrite die i ord rl ch fmt bs → p.held = false →
      let k : ChanKey := (p.hdr.dst.eng.pkg, die, i); let c := getChan s k
      let taken := fun u : State => u.inbox = s.inbox.eraseIdx n ∧ u.threads = s.threads ∧ ∀ j, j ≠ k → getChan u j = getChan s j
      (∀ q, placed c ord = true → c.recs.find? (·.ordinal = ord) = some q → recGrants s k q = true →
        recGate s p.hdr.src.eng.pkg k q p.id p.hdr.lid .write = none → ∃ u, exec (.channelWrite n) s = .next u ∧ taken u ∧
        (getChan u k).recs = c.recs.map (fun q => if q.ordinal = ord then
          { q with landed := ch :: q.landed, ready := (recParts c).all (ch :: q.landed).contains } else q)) ∧
      (placed c ord = false → c.state ≠ 0 → sentByWriter c p = true →
        (ord ≠ c.wrec → exec (.channelWrite n) s = .next s) ∧
        (ord = c.wrec → writePlace s k = .full →
          exec (.channelWrite n) s = .next (setChan s k { c with full := true })) ∧
        (∀ pos v, ord = c.wrec → writePlace s k = .ok none pos v → c.recs.all (fun q => decide (q.ordinal ≠ c.wrec)) = true →
          ∃ u q, exec (.channelWrite n) s = .next u ∧ taken u ∧ (getChan u k).recs = c.recs ++ [q] ∧ q.seg = none ∧ q.pos = pos ∧
            q.ordinal = ord ∧ q.residue = p.hdr.residue ∧ q.landed = [ch] ∧ q.ready = (recParts c).all [ch].contains))) ∧
    (∀ id l b, p.body = .chunkWrite id l [b] → let t := getTile s id
      (t.state ≠ 0 → b.chunk < tileChunks t → chunkRefused t b.chunk = false → ∃ u w, exec (.chunkWrite n) s = .next u ∧
        u.inbox = s.inbox.eraseIdx n ∧ u.chunkWrites = s.chunkWrites ++ [w] ∧ w.tile = id ∧ w.chunk = b.chunk ∧
        u.threads = s.threads ∧ SameBytes s u) ∧
      (t.state = 0 ∨ tileChunks t ≤ b.chunk ∨ chunkRefused t b.chunk = true → ∃ u rep, exec (.chunkWrite n) s = .next u ∧
        u.inbox = s.inbox.eraseIdx n ∧ u.chunkWrites = s.chunkWrites ∧ u.reports = s.reports ++ [rep] ∧ rep.cause = 0x0109 ∧
        rep.tval = BitVec.ofNat 64 (id.handle + id.die * 2 ^ 16 + b.chunk * 2 ^ 18))))

/-- REDUCE (R178, R179, R376): an activation contributes its tile to its group, on its package at once and to every other
member's as a packet, and waits; a member's round under a tag ends when its package holds the contribution of every rank: the
contributions leave and the member's destination is written with the result; a FULL result is emitted. A round with a
contribution missing goes on. That each member forms the tree over the contributions in rank order, whatever the links are, is
the model's reading (log 47). -/
def Obligations.Reductions : Prop := ∀ (s : State),
  (∀ (e : Eng) (n : Nat) f img, xunitRoom s e = true → xunitAt s e n 0x1E = none → xferAt s e n 0x1E = some f →
    let t := f.q.l.getD {}; let c0 := opCfg f.r.op 0; let g := bits c0 39 32
    let c : Contrib := { rank := (getGroup s (e.pkg, g)).rank, tag := t.tag, rows := tokRows t, cols := tokCols t,
                         fmt := tokFmt t, op := bits c0 41 40, data := img }
    t.poison = false → tokFmt t = opType f.r.op → f.act.dests ≠ [] → contributesTwice s e.pkg g t.tag = false →
    readTileTok s t f.act.id = .img img →
    (∀ v, sendContrib s f.r.op t g c = some v →
      ∃ u x, exec (.reduce e n) s = .next u ∧ u.xunits = s.xunits ++ [x] ∧ x.reduce = some g ∧ x.phase = 0 ∧
        (getGroup u (e.pkg, g)).contribs = (getGroup s (e.pkg, g)).contribs ++ [c] ∧ u.packets = v.packets ∧
        u.threads = s.threads ∧ SameBytes s u ∧ (groupPeers s e.pkg g = [] → u.packets = s.packets) ∧
        ∀ q k, groupPeers s e.pkg g = [q] → egress s e q = some k → straitRoom s k { body := .reduce g c } = true →
          ∃ p, u.packets = s.packets ++ [p] ∧ p.body = .reduce g c ∧ p.hdr.dst.eng = ⟨q, 0, 0, 25⟩) ∧
    (sendContrib s f.r.op t g c = none → exec (.reduce e n) s = .next s)) ∧
  (∀ (e : Eng) (n : Nat) r x id ds, xunitAt s e n 0x1E = some (r, x) → x.dest = id :: ds →
    (tileFull s id = false → exec (.reduce e n) s = .next s) ∧
    (tileFull s id = true → x.phase = 1 →
      let out := toPort r 0 (xunitTile s x id ((x.counts.head?).getD 0))
      refsRoom s out = true → Emits s r x.tok.tag out → ∃ u, exec (.reduce e n) s = .next u ∧
        u.updates = s.updates ++ out.map (risesFor s r x.id) ++ (xunitToks x).map (fallsFor r x.id) ∧
        u.xunits = s.xunits.filter (fun y => decide (y.id ≠ x.id)) ∧ u.threads = s.threads ∧ SameBytes s u)) ∧
  (∀ (g : Nat) (tag : Word),
    ((∀ x ∈ s.groups, x.1.2 = g → fullRound s x.1.1 g tag = none) → exec (.reduceComplete g tag) s = .next s) ∧
    (∀ q cs x r id ds, let members := (s.groups.filter fun y => decide (y.1.2 = g) && y.2.bound).map (·.1.1)
      q ∈ members → members.Nodup → (∀ p ∈ members, p ≠ q → fullRound s p g tag = none) → fullRound s q g tag = some cs →
      (s.xunits.filter fun u => decide (u.eng.pkg = q) && decide (u.reduce = some g) && decide (u.tok.tag = tag) &&
        decide (u.phase = 0)) = [x] →
      faultRoom s x.eng 1 = true → findOp s x.eng x.slot = some r → x.dest = id :: ds → contribsAgree cs = true →
      imageRefused s id = none →
      ∃ u ws, exec (.reduceComplete g tag) s = .next u ∧
        (getGroup u (q, g)).contribs = (getGroup s (q, g)).contribs.filter (fun c => decide (c.tag ≠ tag)) ∧
        u.chunkWrites = s.chunkWrites ++ ws ∧ ws.map (·.chunk) = List.range (tileChunks (getTile s id)) ∧
        (∀ w ∈ ws, w.tile = id) ∧ u.xunits = s.xunits.map (fun y => if y.id = x.id then
          { y with phase := 1, counts := [residueOf (reduceResult cs).1] } else y) ∧
        u.threads = s.threads ∧ SameBytes s u)) ∧
  (∀ (n : Nat) p g c, s.inbox[n]? = some p → p.body = .reduce g c →
    (∀ x ∈ s.inbox.take n, waitsInside x = true ∨ x.hdr.src.eng ≠ p.hdr.src.eng ∨ x.hdr.dst.eng ≠ p.hdr.dst.eng) →
    ∃ u, exec (.reduceContribution n) s = .next u ∧
    u.inbox = s.inbox.eraseIdx n ∧ u.threads = s.threads ∧ SameBytes s u ∧
    (getGroup u (p.hdr.dst.eng.pkg, g)).contribs = (getGroup s (p.hdr.dst.eng.pkg, g)).contribs ++ [c] ∧
    ∀ k, k ≠ (p.hdr.dst.eng.pkg, g) → getGroup u k = getGroup s k)

/-! ### Launches, streams and time -/

/-- The scheduler (R275 to R281): the sealed record at a queue's read index enters the window under the least free LID
and its GLAUNCH is answered; the events of the head gang are read. That the LID is the least free one (log 9), that the
scheduler translates as an operator on the monitor of die 0 (log 66) and that copies and stream commands with its LID count as
a launch's writes (log 62) is the model's choice. The eligible heads go in start order, by priority, then
acceptance, then queue, past those that an empty root list holds: a gang of one starts, and its launch SOURCEs are asked to
fire, or it fails with its code and a report; a launch that has returned, with its writes performed and its transfers
ended, writes its signal event, leaves its LID and its window and sets its trap thread's event bit. -/
def Obligations.LaunchSteps : Prop := ∀ (s : State) (pkg q : Nat),
  (let lq := getLaunchQ s (pkg, q)
   let at_ := lq.base.toNat + 8
   ∀ ri lid b, lq.set = true → lq.window.length < 16 → (getPart s (pkg, lq.part)).flr = 0 →
    schedRead s pkg lq.part at_ 8 = some ri →
    leastBelow 4096 (fun l => decide (l ≠ 0) && (getLaunch s (pkg, l)).isNone) = some lid →
    let r := leNat ri; let rec_ := lq.base.toNat + 64 + 64 * (r % 2 ^ lq.log2)
    let s' := coreReads (coreReads s pkg lq.part at_ 8) pkg lq.part rec_ 64
    schedRead s' pkg lq.part rec_ 64 = some b →
    (field b 56 8 ≠ (r + 1) % 2 ^ 64 → exec (.launchAccept pkg q) s = .next s' ∧ SameBytes s s' ∧ s'.threads = s.threads) ∧
    (∀ v, field b 56 8 = (r + 1) % 2 ^ 64 →
      schedWrite s' pkg lq.part at_ (leBytes 8 ((r + 1) % 2 ^ 64)) = some v →
      ∃ t, exec (.launchAccept pkg q) s = .next t ∧ t.hbm = v.hbm ∧ t.hostMem = v.hostMem ∧ t.l0 = s.l0 ∧
        (∃ l, getLaunch t (pkg, lid) = some l ∧ l.record = recOfBytes b ∧ l.part = lq.part ∧ l.queue = q ∧ l.state = 0 ∧
          l.waitOk = decide ((recOfBytes b).nwait = 0)) ∧
        (∀ k, k ≠ (pkg, lid) → getLaunch t k = getLaunch s k) ∧
        (getLaunchQ t (pkg, q)).window = lq.window ++ [(r, lid)] ∧
        ∀ k, (getThr t k).asyncs = (getThr s k).asyncs.map fun a =>
          if k.pkg = pkg ∧ a.wait = .launch q r then { a with wait := .ready (okWord lid) } else a)) ∧
  (∃ t, exec (.launchEventPoll pkg q) s = .next t ∧ t.threads = s.threads ∧ SameBytes s t ∧
    (∀ k, (∀ m ∈ (headGang s pkg q).1, k ≠ (pkg, m.1)) → getLaunch t k = getLaunch s k) ∧
    ∀ m ∈ (headGang s pkg q).1, getLaunch t (pkg, m.1) = some { m.2 with
      waitOk := (List.range m.2.record.nwait).all fun k => (eventMet s pkg m.2 k).getD true }) ∧
  (∀ h, (h ∈ startOrder s pkg ↔ h.1 < 32 ∧ eligible s pkg h.1 = some h.2)) ∧
  (startOrder s pkg).Pairwise (fun a b => headBefore b a = false) ∧
  ((∀ h ∈ startOrder s pkg, startGang s pkg h.1 h.2 = none) → exec (.launchStart pkg) s = .next s) ∧
  (∀ m pre post, startOrder s pkg = pre ++ (q, [m]) :: post → (∀ h ∈ pre, startGang s pkg h.1 h.2 = none) →
    (getLaunchQ s (pkg, q)).failing = false →
    (∀ c, memberCode s pkg m.2 = some c → ∃ t rep, exec (.launchStart pkg) s = .next t ∧
      getLaunch t (pkg, m.1) = some { m.2 with state := 2, status := failWord m.1 0 c } ∧
      (∀ w ∈ (getLaunchQ t (pkg, q)).window, w.2 ≠ m.1) ∧ t.sources = s.sources ∧ t.reports = s.reports ++ [rep] ∧
      rep.cause = 0x0205 ∧ rep.tval = failWord m.1 0 c ∧ t.threads = s.threads ∧ SameBytes s t) ∧
    (∀ g v w l, memberCode s pkg m.2 = none → getGraph s (pkg, m.2.record.graph) = some g → resolveMember pkg s m = .ok v →
      getLaunch v (pkg, m.1) = some l → drawRoot pkg v m = some w →
      let src := (List.range g.ops.length).filter fun i =>
        (g.ops[i]?).any fun o => decide (opKind o = 0x01) && bit (opCfg o 0) 251
      src ≠ [] → ∃ t c, exec (.launchStart pkg) s = .next t ∧
        getLaunch t (pkg, m.1) = some { l with state := 1, root := some c, unitHeld := true, gang := [m.1],
                                               srcLeft := src.length, activity := true, sampled := (getPkg s pkg).time } ∧
        getBreak t (pkg, m.1) = (getPart s (pkg, l.part)).brk ∧
        (∀ x ∈ (getLaunchQ t (pkg, q)).window, x.2 ≠ m.1) ∧
        t.sources.map (fun x => (x.graph, x.op, x.lid, x.atLaunch)) =
          s.sources.map (fun x => (x.graph, x.op, x.lid, x.atLaunch)) ++
            src.map (fun i => (l.record.graph, i, m.1, true)) ∧ t.threads = s.threads ∧ SameBytes s t)) ∧
  (∀ n l, getLaunch s (pkg, n) = some l →
    (l.state ≠ 2 ∨ l.killed = true ∨ writesPending s pkg n = true ∨ workPending s pkg n = true →
      exec (.launchComplete pkg n) s = .next s) ∧
    (l.state = 2 → l.killed = false → writesPending s pkg n = false → workPending s pkg n = false → s.allocWait = [] →
      ∃ t, exec (.launchComplete pkg n) s = .next t ∧ getLaunch t (pkg, n) = none ∧
        (∀ k, k ≠ (pkg, n) → getLaunch t k = getLaunch s k) ∧
        (∀ k, k.1 = pkg → ∀ w ∈ (getLaunchQ t k).window, w.2 ≠ n) ∧
        (let h := trapThread pkg l.record
         (getThr s h).part = l.part → getThr t h = { getThr s h with event := true }) ∧
        (∀ h, h ≠ trapThread pkg l.record → getThr t h = getThr s h) ∧ (l.record.sv = false → SameBytes s t) ∧
        ∀ g, s.MemOk → l.record.sv = true →
          translateOpen s (qmEng pkg 0) l.part .op .atomic l.record.sig.toNat = .hbm g →
          memRead t.hbm (g + 8) 8 = leBytes 8 l.status.toNat ∧
          memRead t.hbm g 8 = leBytes 8 ((leNat (memRead s.hbm g 8) + 1) % 2 ^ 64) ∧
          ∀ x, x < g ∨ g + 16 ≤ x → memGet t.hbm x = memGet s.hbm x))

/-- Streams (R249, R298, R361, R365): the setup of a started producing command takes a lane of each link of its route as far
as the first that has none, keeping all it has; a command begins when it may, a producing one with its circuit set, if its
tile takes its pattern, or is dropped with a report. A producer that has begun takes bursts of at most 512 bytes once its
peer takes them: a memory tile's at once, an HBM port engine's by sector reads; the consumer writes them, an HBM port
engine by sector writes; a command that has moved all its bytes frees its slot and sets the event bit of the thread that
started it. Nothing moves without a consumer. The model's choices: only the producing command takes lanes (log 73), and one
burst of a command is under way at a time (log 128). -/
def Obligations.StreamSteps : Prop := ∀ (s : State) (e : Eng) (port slot : Nat) (c : StreamCmd), s.MemOk →
  cmdAt s (e, port) slot = some c →
  (c.phase ≠ (if c.consumes then 1 else 2) ∨ c.held = true ∨ mayBegin (getPort s (e, port)) e c = false →
    exec (.streamCommandBegin e port slot) s = .next s) ∧
  (c.phase = (if c.consumes then 1 else 2) → c.held = false → mayBegin (getPort s (e, port)) e c = true →
    (e.elem ≠ 24 → (getTile s (cmdTile e c)).state ≠ 0 → cmdInTile s e c = true →
      exec (.streamCommandBegin e port slot) s = .next (setCmd s (e, port) slot { c with phase := 3 })) ∧
    (∀ ps, e.elem = 24 → cmdPieces s e c = .ok ps → exec (.streamCommandBegin e port slot) s =
      .next (setCmd s (e, port) slot { c with phase := 3 })) ∧
    (e.elem ≠ 24 → (getTile s (cmdTile e c)).state = 0 ∨ cmdInTile s e c = false →
      ∃ t rep, exec (.streamCommandBegin e port slot) s = .next t ∧ cmdAt t (e, port) slot = none ∧
        t.reports = s.reports ++ [rep] ∧ rep.cause = 0x0109 ∧ t.threads = s.threads ∧ SameBytes s t)) ∧
  (c.phase ≠ 1 ∨ c.consumes = true ∨ mayBegin (getPort s (e, port)) e c = false →
    exec (.streamCircuitSetup e port slot) s = .next s) ∧
  (∀ q, c.phase = 1 → c.consumes = false → mayBegin (getPort s (e, port)) e c = true → portOf e.pkg c.peer = some q →
    let l := takeLanes e.pkg c.id (routeLinks e q.1) s.lanes
    ((∃ x ∈ routeLinks e q.1, hasLane l e.pkg c.id x = false) →
      exec (.streamCircuitSetup e port slot) s = .next { s with lanes := l }) ∧
    ((∀ x ∈ routeLinks e q.1, hasLane l e.pkg c.id x = true) → exec (.streamCircuitSetup e port slot) s =
      .next (setCmd { s with lanes := l } (e, port) slot { c with phase := 2 }))) ∧
  (∀ ls t k v, tfind k t = some v → tfind k (takeLanes e.pkg c.id ls t) = some v) ∧
  (c.phase ≠ 3 ∨ c.held = true ∨ c.consumes = true → exec (.streamCommandComplete e port slot) s = .next s) ∧
  (∀ q, c.phase = 3 → c.held = false → c.consumes = false → c.burst = none → portOf e.pkg c.peer = some q →
    (consumerOf s e.pkg q (e, port) = none → exec (.streamCommandComplete e port slot) s = .next s) ∧
    (∀ m d, consumerOf s e.pkg q (e, port) = some (m, d) →
      let n := min 512 (min (cmdLen c - c.moved) (cmdLen d - d.moved))
      let b : BurstRun := { port := q, slot := m, peer := d.id, n := n }
      (∀ bs u, e.elem ≠ 24 → cmdRead s e c n = .ok (some (bs, u)) → exec (.streamCommandComplete e port slot) s =
        .next (setCmd u (e, port) slot { c with burst := some { b with data := some bs } })) ∧
      (∀ ps, e.elem = 24 → cmdPieces s e c = .ok ps → let ps := slicePieces ps c.moved n
        (∀ p ∈ sectorReads ps, p.host = true ∨ (ownerOf p.addr).pkg = e.pkg) →
        ∃ u qs, exec (.streamCommandComplete e port slot) s = .next u ∧ u.reqs = s.reqs ++ qs ∧
          cmdAt u (e, port) slot = some { c with burst := some { b with pieces := ps } } ∧ u.threads = s.threads ∧
          SameBytes s u ∧ qs.map (fun q => (q.host, q.pa, q.len, q.op, q.from_)) =
            (sectorReads ps).map fun p => (p.host, p.addr, 64, .read, .stream e c.id)))) ∧
  (∀ b d, c.phase = 3 → c.held = false → c.consumes = false → c.burst = some b → cmdAt s b.port b.slot = some d →
    d.id = b.peer → d.held = false → d.consumes = true →
    let mine := s.reqs.filter (ofCmd e c.id); let theirs := s.reqs.filter (ofCmd b.port.1 d.id)
    let fin := fun x : StreamCmd => cmdLen x ≤ x.moved + b.n
    let went := fun (u : State) => ∃ t, exec (.streamCommandComplete e port slot) s = .next t ∧
      t.hbm = u.hbm ∧ t.l0 = u.l0 ∧ t.hostMem = u.hostMem ∧
      cmdAt t (e, port) slot = (if fin c then none else some { c with moved := c.moved + b.n, burst := none }) ∧
      cmdAt t b.port b.slot = (if fin d then none else some { d with moved := d.moved + b.n, burst := none }) ∧
      (fin c → (getThr t c.by_).event = true) ∧ (fin d → (getThr t d.by_).event = true) ∧
      ∀ k, k ≠ c.by_ → k ≠ d.by_ → getThr t k = getThr s k
    (b.data = none → (∃ q ∈ mine, q.st ≠ .done) → exec (.streamCommandComplete e port slot) s = .next s) ∧
    (b.data = none → (∀ q ∈ mine, q.st = .done ∧ q.denied = false ∧ q.bad = false) →
      ∃ u, exec (.streamCommandComplete e port slot) s = .next u ∧ u.reqs = s.reqs.filter (fun q => !ofCmd e c.id q) ∧
        u.threads = s.threads ∧ SameBytes s u ∧ cmdAt u (e, port) slot = some { c with burst := some { b with
          data := some ((sectorParts b.pieces).flatMap fun p => partBytes mine p.2) } }) ∧
    (∀ bs u, b.data = some bs → b.writing = false → b.port.1.elem ≠ 24 → cmdWrite s b.port.1 d bs = .ok u → went u) ∧
    (∀ bs ps, b.data = some bs → b.writing = false → b.port.1.elem = 24 → cmdPieces s b.port.1 d = .ok ps →
      let ws := sectorParts (slicePieces ps d.moved b.n)
      (∀ p ∈ ws, p.2.host = true ∨ (ownerOf p.2.addr).pkg = b.port.1.pkg) →
      ∃ u qs, exec (.streamCommandComplete e port slot) s = .next u ∧ u.reqs = s.reqs ++ qs ∧
        cmdAt u (e, port) slot = some { c with burst := some { b with writing := true } } ∧ u.threads = s.threads ∧
        SameBytes s u ∧ qs.map (fun q => (q.host, q.pa, q.op, q.from_)) = ws.map fun p =>
          (p.2.host, p.2.addr, .write ((bs.drop p.1).take p.2.len) false, .stream b.port.1 d.id)) ∧
    (∀ bs, b.data = some bs → b.writing = true →
      ((∃ q ∈ theirs, q.st ≠ .done) → exec (.streamCommandComplete e port slot) s = .next s) ∧
      ((∀ q ∈ theirs, q.st = .done ∧ q.denied = false) → went s)))

/-- Time and the monitors (R258, R274, R288 to R290, R328, R338 to R340): device time only rises and does not pass what is
due before it is done, but for a forward step of more than 1 ms; at a boundary its timers fire, wherever they wait; a due
TWSET sets its thread's event bit, injects, or waits; a planned move waits until its set rests, then places it at its new
pages, or, by the model's choice (log 25), gives up where they have no room; a sample comes 1 µs after the last and keeps what it counted, and a window of
quiet samples ends in one DEADLOCK report, or in the growth of a full channel. -/
def Obligations.TimeSteps : Prop := ∀ (s : State) (pkg die : Nat),
  (let now := (getPkg s pkg).time
   let at_ := fun t => modPkg s pkg fun p => { p with time := t }
   (∀ ns, ns ≤ 10 ^ 6 → now + ns < 2 ^ 64 → (∀ x ∈ timeStops s pkg, now + ns ≤ x) →
      exec (.deviceTimeStep pkg ns) s = .next (at_ (now + ns))) ∧
   (∀ ns x, ns ≤ 10 ^ 6 → x ∈ timeStops s pkg → now ≤ x → x ≤ now + ns → x < 2 ^ 64 → (∀ y ∈ timeStops s pkg, x ≤ y) →
      exec (.deviceTimeStep pkg ns) s = .next (at_ x)) ∧
   (∀ ns x, ns ≤ 10 ^ 6 → x ∈ timeStops s pkg → x ≤ now → now < 2 ^ 64 → exec (.deviceTimeStep pkg ns) s = .next (at_ now)) ∧
   (∀ ns, 10 ^ 6 < ns → ∃ t, exec (.deviceTimeStep pkg ns) s = .next t ∧
      t = { s with packages := t.packages, wheels := t.wheels } ∧
      (getPkg t pkg).time = Nat.min (now + ns) (2 ^ 64 - 1) ∧ (∀ p, p ≠ pkg → getPkg t p = getPkg s p) ∧
      ∀ k w, tfind k s.wheels = some w → tfind k t.wheels = some (if k.1 = pkg then { w with ents := w.ents.map fun x =>
        if x.fire then x else { x with bound := boundOf (Nat.min (now + ns) (2 ^ 64 - 1)) x.due } } else w))) ∧
  (let w := getWheel s (pkg, die); let b := (getPkg s pkg).time / 10 * 10
   (b ≤ w.boundary → exec (.timerWheelBoundary pkg die) s = .next s) ∧
   (w.boundary < b → ∃ t, exec (.timerWheelBoundary pkg die) s = .next t ∧ t = { s with wheels := t.wheels } ∧
     (∀ k, k ≠ (pkg, die) → getWheel t k = getWheel s k) ∧ (getWheel t (pkg, die)).boundary = b ∧
     (getWheel t (pkg, die)).ents = w.ents.map fun x => if x.bound ≤ b then { x with fire := true, far := false } else x) ∧
   (∃ t, exec (.farListMove pkg die) s = .next t ∧ t = { s with wheels := t.wheels } ∧
     (∀ k, k ≠ (pkg, die) → getWheel t k = getWheel s k) ∧
     (getWheel t (pkg, die)).ents = w.ents.map fun x =>
       if x.due ≤ (getPkg s pkg).time + wheelSpan then { x with far := false } else x)) ∧
  (∀ n, (dueEnt s pkg die n = none → exec (.twsetExpiry pkg die n) s = .next s) ∧
    (∀ x k, dueEnt s pkg die n = some x → x.what = .twset k none → ∃ t, exec (.twsetExpiry pkg die n) s = .next t ∧
      getThr t k = { getThr s k with event := true } ∧ (∀ j, j ≠ k → getThr t j = getThr s j) ∧ SameBytes s t ∧
      (getWheel t (pkg, die)).ents = (getWheel s (pkg, die)).ents.filter fun y => decide (y.order ≠ x.order)) ∧
    (∀ x k d v, dueEnt s pkg die n = some x → x.what = .twset k (some d) →
      let f := fresh (touchTwset (dropEnt s pkg die x) pkg (some d)); let u := f.2
      (inject u pkg (getThr u k).part d f.1 = .ok v → injectFull u pkg d = false →
        exec (.twsetExpiry pkg die n) s = .next v) ∧
      (inject u pkg (getThr u k).part d f.1 = .ok v → injectFull u pkg d = true →
        exec (.twsetExpiry pkg die n) s = .next s) ∧
      (∀ w, inject u pkg (getThr u k).part d f.1 = .error w → ∃ t rep, exec (.twsetExpiry pkg die n) s = .next t ∧
        t.reports = s.reports ++ [rep] ∧ rep.cause = 0x0210 ∧ rep.tval = w ∧ rep.dest = k ∧
        rep.tcoord = coordNat { eng := ccEng pkg die } ∧ t.threads = s.threads))) ∧
  (∀ h, ((planned s pkg).any (fun p => decide (p.1.2 = h)) = false → exec (.pageSetMove pkg h) s = .next s) ∧
    (∀ p ∈ planned s pkg, atRest s p.1 p.2.1 = false → exec (.pageSetMove pkg h) s = .next s) ∧
    ∀ k g r, planned s pkg = [(k, g, r)] → k.2 = h → atRest s k g = true →
      (∀ v, restoreSet (liftSet s k g) (saveSet s k g) k r = some v →
        exec (.pageSetMove pkg h) s = .next v ∧ (getGraph v k).map (fun x => (x.reloc, x.moveTo)) = some (r, none)) ∧
      (restoreSet (liftSet s k g) (saveSet s k g) k r = none →
        exec (.pageSetMove pkg h) s = .next (modGraph s k fun g => { g with moveTo := none, noRoom := true }))) ∧
  (∀ n l, getLaunch s (pkg, n) = some l → ∀ second,
    let now := (getPkg s pkg).time
    (l.state ≠ 1 ∨ launchFrozen s pkg l = true ∨ l.half ≠ second ∨ now < l.sampled + 1000 →
      exec (.qmSample pkg n second) s = .next s) ∧
    (l.state = 1 → launchFrozen s pkg l = false → l.half = second → l.sampled + 1000 ≤ now →
      (l.activity = false → second = false → exec (.qmSample pkg n second) s =
        .next (setLaunch s (pkg, n) { l with pass1 := countsZero s pkg n, activity := false, half := true })) ∧
      (l.activity = false → second = true → exec (.qmSample pkg n second) s = .next (setLaunch s (pkg, n) { l with
        pass1 := false, half := false, sampled := now,
        quiet := if l.pass1 && countsZero s pkg n then some (l.quiet.getD now) else none })) ∧
      (l.activity = true → second = true → ∃ t, exec (.qmSample pkg n second) s = .next t ∧
        (getLaunch t (pkg, n)).map (fun x => (x.quiet, x.sampled)) = some (none, now)))) ∧
  (∀ n m, (gangOf s pkg n).filter (fun m => decide (m.2.state = 1)) = [m] →
    (windowPassed s pkg m.2 = false ∨ launchFrozen s pkg m.2 = true → exec (.qmWindowEnd pkg n) s = .next s) ∧
    (windowPassed s pkg m.2 = true → launchFrozen s pkg m.2 = false →
      (fullChans s pkg [m.1] = [] → m.2.episode = true → exec (.qmWindowEnd pkg n) s = .next s) ∧
      (∀ i, fullChans s pkg [m.1] = [] → m.2.episode = false →
        leastBelow 64 (fun i => (tfind (pkg, homeDie s pkg m.2, i) s.qmReports).isNone) = some i →
        ∃ t rep, exec (.qmWindowEnd pkg n) s = .next t ∧ t.reports = s.reports ++ [rep] ∧ rep.cause = 0x0203 ∧
          rep.dest = trapThread pkg m.2.record ∧ rep.lid = m.1 ∧
          (tfind (pkg, homeDie s pkg m.2, i) t.qmReports).map (·.entries) = some ((reportEntries s pkg m.1).take 1024) ∧
          t.threads = s.threads ∧ SameBytes s t) ∧
      (∀ k j v, fullChans s pkg [m.1] = [k] → (getChan s k).nseg < (getChan s k).cap →
        poolAlloc s k (getChan s k) = .ok j v → ∃ t, exec (.qmWindowEnd pkg n) s = .next t ∧
          (getChan t k).nseg = (getChan s k).nseg + 1 ∧ (getChan t k).recs = (getChan s k).recs ∧ t.reports = s.reports ∧
          t.threads = s.threads ∧ SameBytes s t)))

/-! ### Links, routes and packets -/

/-- Links, milestones and packets between packages (R362, R366 to R371): the next flit of a packet on a link is accepted
as it was sent, and one whose checks fail is only counted and asked for again; a link is dead only after the first failure
and 8 failed resends, or a lost lock, takes nothing more, and is then dead at both ends with what was on it lost (an inner
strait's death is a package fault); the lowest package of a route domain moves it to a set that avoids every dead link, and
an engine adopts the newer milestone and resends every packet that it keeps. A packet leaves only in a granted slot over a
live link and goes on when its last flit has come; after 64 hops, or off its route, it is discarded and reported to the
fault thread of its partition; a stale one is dropped, with a nack to its source. A terminal engine passes on each packet of
a pair once and in seq order and acknowledges it; an acknowledgement frees the kept packet and lets a waiting one in, a nack
or 16 µs resend it. The model's choices: the table that an emission looks in and the engine of an egress port (log 17), what
9 failures become and an answer as a packet of vc 3 (log 52), the order of an arrival's checks (log 57), and that an inner
strait's death changes no route (log 59). -/
def Obligations.LinksAndPackets : Prop := ∀ (s : State),
  (∀ e, (incoming s e = none ∨ 9 ≤ (getStrait s e).resends ∨ (getStrait s e).dead = true →
      ∀ x, exec (.linkFlitReceive e x) s = .next s) ∧
    ∀ n p, incoming s e = some (n, p) → (getStrait s e).resends < 9 → (getStrait s e).dead = false →
      let took := fun (t : State) => t.packets.length = s.packets.length ∧ t.packets[n]? = some { p with flits := p.flits + 1 } ∧
        (∀ k, k ≠ n → t.packets[k]? = s.packets[k]?) ∧ getStrait t e = { getStrait s e with resends := 0 } ∧
        (∀ g, g ≠ e → getStrait t g = getStrait s g) ∧ t.threads = s.threads ∧ SameBytes s t
      (∃ t, exec (.linkFlitReceive e 0) s = .next t ∧ took t) ∧
      ∀ x, (flitGood p (flitOf p p.flits ^^^ x) = true → ∃ t, exec (.linkFlitReceive e x) s = .next t ∧ took t) ∧
        (flitGood p (flitOf p p.flits ^^^ x) = false → exec (.linkFlitReceive e x) s =
          .next (modStrait s e fun st => { st with resends := st.resends + 1 }))) ∧
  (∀ (e : Eng), ((getStrait s e).resends ≤ 8 → exec (.linkDeath e false) s = .next s) ∧
    (∀ lost, (getStrait s e).dead = true → exec (.linkDeath e lost) s = .next s) ∧
    ∀ lost, lost = true ∨ 8 < (getStrait s e).resends → (getStrait s e).dead = false →
      (e.elem ≠ 25 → exec (.linkDeath e lost) s = .next (modPkg s e.pkg fun k => { k with pkgFault := true })) ∧
      ∀ f, e.elem = 25 → cablePeer s e = some f → ∃ t, exec (.linkDeath e lost) s = .next t ∧ (getStrait t e).dead = true ∧
        (getStrait t f).dead = true ∧ (getStrait t e).notified = true ∧ (getStrait t f).notified = true ∧
        (∀ g, g ≠ e → g ≠ f → getStrait t g = getStrait s g) ∧
        t.packets = s.packets.filter (fun p => !(p.link && (decide (p.at_ = e) || decide (p.at_ = f)))) ∧
        t.threads = s.threads ∧ SameBytes s t) ∧
  (∀ (pkg d : Nat), (getPkg s pkg).routeDom = some d →
    let ps := domainPkgs s d; let m := (getPkg s pkg).milestone
    (ps.any (· < pkg) = true ∨ changeDue s ps = false → exec (.milestoneChange pkg) s = .next s) ∧
    (∀ k, ps.any (· < pkg) = false → changeDue s ps = true → [1, 2, 3].find? (fun k => setAvoids s ps ((m + k) % 4)) = some k →
      ∃ t, exec (.milestoneChange pkg) s = .next t ∧
        (∀ p, (getPkg s p).routeDom = some d → (getPkg t p).milestone = (m + k) % 65536) ∧
        (∀ p, (getPkg s p).routeDom ≠ some d → getPkg t p = getPkg s p) ∧
        changeDue t ps = false ∧ t.threads = s.threads ∧ SameBytes s t)) ∧
  (∀ (e : Eng) d, (getPkg s e.pkg).routeDom = some d →
    let st := getStrait s e; let m := (getPkg s e.pkg).milestone
    (older st.milestone m = false → exec (.milestoneAdopt e) s = .next s) ∧
    (older st.milestone m = true → st.retry = [] → ∃ t, exec (.milestoneAdopt e) s = .next t ∧
      getStrait t e = { st with milestone := m, table := mergeRoutes st.table st.newTable, newTable := [] } ∧
      (∀ g, g ≠ e → getStrait t g = getStrait s g) ∧ t.packets = s.packets ∧ t.threads = s.threads ∧ SameBytes s t) ∧
    (older st.milestone m = true → (st.retry.map (·.pkt.id)).Nodup → ∃ t ps, exec (.milestoneAdopt e) s = .next t ∧
      t.packets = s.packets ++ ps ∧ ps.map (·.hdr.seq) = st.retry.map (·.pkt.hdr.seq) ∧
      ps.all (fun p => p.hdr.rply && decide (p.hdr.milestone = m)) = true ∧ t.threads = s.threads ∧ SameBytes s t)) ∧
  (∀ (n : Nat) p, s.packets[n]? = some p → atTerminal p = false →
    let st := getStrait s p.at_
    let moves := fun (q : Pkt) => ∃ t, exec (.packetArrival n) s = .next t ∧
      t = { s with packets := t.packets } ∧ t.packets[n]? = some q ∧ t.packets.length = s.packets.length ∧
      ∀ k, k ≠ n → t.packets[k]? = s.packets[k]?
    let lost := ∃ t rep, exec (.packetArrival n) s = .next t ∧ t.packets = s.packets.eraseIdx n ∧
      t.reports = s.reports ++ [rep] ∧ rep.cause = 0x0209 ∧ rep.tval = BitVec.ofNat 64 (p.hdr.path % 4096) ∧
      rep.dest = faultThread s p.at_.pkg p.at_.die p.hdr.part ∧ t.threads = s.threads ∧ SameBytes s t
    (p.link = false → older p.hdr.milestone st.milestone = false →
      (st.dead = true ∨ slotGrants s p.at_ p.hdr.part = false → exec (.packetArrival n) s = .next s) ∧
      (∀ f, st.dead = false → slotGrants s p.at_ p.hdr.part = true → cablePeer s p.at_ = some f →
        (getPkg s f.pkg).off = false → moves { p with at_ := f, link := true, flits := 0 })) ∧
    (p.link = false ∨ pktFlits p ≤ p.flits ∧ p.hdr.hops < 64 → older p.hdr.milestone st.milestone = true →
      (isAnswer p = true ∨ p.link = false ∧ p.at_ = p.src →
        exec (.packetArrival n) s = .next { s with packets := s.packets.eraseIdx n }) ∧
      (isAnswer p = false → p.link = true ∨ p.at_ ≠ p.src →
        (p.at_.pkg = p.src.pkg → exec (.packetArrival n) s = .next { s with
          packets := s.packets.eraseIdx n
          nacks := s.nacks ++ [{ dest := p.src, dpkg := p.hdr.dst.eng.pkg, seq := p.hdr.seq }] }) ∧
        (p.at_.pkg ≠ p.src.pkg → pathNum st p.at_.pkg p.src.pkg st.milestone ≠ none → ∃ t q,
          exec (.packetArrival n) s = .next t ∧ t.packets = s.packets.eraseIdx n ++ [q] ∧ q.body = .answer p.hdr.seq true ∧
          q.hdr.dst.eng = p.src ∧ q.hdr.vc = 3 ∧ t.threads = s.threads ∧ SameBytes s t))) ∧
    (p.link = true → p.flits < pktFlits p → exec (.packetArrival n) s = .next s) ∧
    (p.link = true → pktFlits p ≤ p.flits → 64 ≤ p.hdr.hops → lost) ∧
    (p.link = true → pktFlits p ≤ p.flits → p.hdr.hops < 64 → older p.hdr.milestone st.milestone = false →
      (older st.milestone p.hdr.milestone = true → ∃ t, exec (.packetArrival n) s = .next t ∧
        (getStrait t p.at_).milestone = p.hdr.milestone) ∧
      (older st.milestone p.hdr.milestone = false →
        (onRoute s p.at_ p = none → lost) ∧
        (∀ port, pathNum st p.src.pkg p.hdr.dst.eng.pkg p.hdr.milestone = some (port, p.hdr.path) →
          (∀ seq nack, p.at_.pkg = p.hdr.dst.eng.pkg → p.body = .answer seq nack → exec (.packetArrival n) s =
            .next (landAnswer { s with packets := s.packets.eraseIdx n } p.hdr.dst.eng p.hdr.opw.toNat seq nack)) ∧
          (p.at_.pkg ≠ p.hdr.dst.eng.pkg ∨ isAnswer p = false →
            let f := if p.at_.pkg = p.hdr.dst.eng.pkg then terminalOf p else portEng p.at_ port
            moves { p with at_ := f, link := false, hdr := addHops p.hdr (switchesBetween p.at_ f) }))))) ∧
  (∀ (n : Nat) p, s.packets[n]? = some p → atTerminal p = true →
    let e := terminalOf p; let st := getStrait s e; let key := (p.src, p.hdr.dst.eng.pkg); let w := tget {} key st.term
    let k := (p.hdr.seq + 2 ^ 32 - w.e) % 2 ^ 32
    let acked := fun (t : State) => (∃ q, t.packets = s.packets.eraseIdx n ++ [q] ∧ q.body = .answer p.hdr.seq false ∧
      q.hdr.dst.eng = p.src ∧ q.hdr.vc = 3 ∧ q.src = e ∧ q.link = false) ∧ t.threads = s.threads ∧ SameBytes s t
    older p.hdr.milestone st.milestone = false → older st.milestone p.hdr.milestone = false →
    (64 ≤ p.hdr.hops ∨ onRoute s e p = none → ∃ t rep, exec (.terminalAccept n) s = .next t ∧
      t.packets = s.packets.eraseIdx n ∧ t.reports = s.reports ++ [rep] ∧ rep.cause = 0x0209 ∧ t.inbox = s.inbox ∧
      t.inFlight = s.inFlight ∧ t.threads = s.threads ∧ SameBytes s t) ∧
    (p.hdr.hops < 64 → onRoute s e p ≠ none →
      (e.pkg ≠ p.src.pkg → pathNum st e.pkg p.src.pkg st.milestone ≠ none →
        (p.hdr.seq = w.e → w.win = [] → ∃ t, exec (.terminalAccept n) s = .next t ∧ acked t ∧
          tget {} key (getStrait t e).term = { e := (w.e + 1) % 2 ^ 32, win := [] } ∧
          (let h := addHops p.hdr (switchesBetween e p.hdr.dst.eng)
           (p.body = .token → t.inFlight = s.inFlight ++ [h] ∧ t.inbox = s.inbox) ∧
           (p.body ≠ .token → headerBad p = false → h.hops < 64 → (∃ u, t.inbox = s.inbox ++ [{ p with
             hdr := h, body := arriveReq u p.body }]) ∧ t.inFlight = s.inFlight) ∧
           (p.body ≠ .token → headerBad p = true → h.hops < 64 → ∃ rep, t.reports = s.reports ++ [rep] ∧ rep.cause = 0x0103 ∧
             t.inbox = s.inbox ∧ t.inFlight = s.inFlight))) ∧
        (2 ^ 31 ≤ k → ∃ t, exec (.terminalAccept n) s = .next t ∧ acked t ∧ t.inFlight = s.inFlight ∧ t.inbox = s.inbox)) ∧
      (256 ≤ k → k < 2 ^ 31 → w.win.any (fun q => decide (q.hdr.seq = p.hdr.seq)) = false →
        exec (.terminalAccept n) s = .next { s with packets := s.packets.eraseIdx n }))) ∧
  (∀ (n : Nat) a r, s.acks[n]? = some a → answered s a = some r →
    let left := (getStrait s a.dest).retry.filter (fun x => decide (x.pkt.id ≠ r.pkt.id))
    ∃ t, exec (.ackReceive n) s = .next t ∧ t.acks = s.acks.eraseIdx n ∧ t.threads = s.threads ∧ SameBytes s t ∧
      ((getStrait s a.dest).waiting = [] → (getStrait t a.dest).retry = left ∧ t.packets = s.packets) ∧
      ∀ p ps, (getStrait s a.dest).waiting = p :: ps → retryRoom { getStrait s a.dest with retry := left } p = true →
        ∃ q, t.packets[s.packets.length]? = some q ∧ q.body = p.body ∧ q.hdr.dst = p.hdr.dst ∧ q.src = a.dest) ∧
  (∀ (e : Eng) (r : Retry), (getStrait s e).retry.find? (fun x => decide (x.pkt.id = r.pkt.id)) = some r →
    let again := fun (t : State) => (∃ p, t.packets = s.packets ++ [p] ∧ p.hdr.rply = true ∧ p.hdr.seq = r.pkt.hdr.seq ∧
        p.body = r.pkt.body ∧ p.hdr.milestone = (getStrait s e).milestone ∧ p.link = false) ∧
      (getStrait t e).retry.length = (getStrait s e).retry.length ∧ t.threads = s.threads ∧ SameBytes s t
    (∀ (n : Nat) a, s.nacks[n]? = some a → a.dest = e → answered s a = some r →
      ∃ t, exec (.nackReceive n) s = .next t ∧ t.nacks = s.nacks.eraseIdx n ∧ again t) ∧
    (∀ n : Nat, (getStrait s e).retry[n]? = some r →
      ((getPkg s e.pkg).time < r.sent + 16000 → exec (.retryTimeout e n) s = .next s) ∧
      (r.sent + 16000 ≤ (getPkg s e.pkg).time → ∃ t, exec (.retryTimeout e n) s = .next t ∧ again t)))

/-! ### The host, firmware and the package -/

/-- PCIe functions (R403 to R407): an enabled function takes writes of zbell, zring and zvec; a host access through BAR2
reaches the partition's memory or is Unsupported Request and changes no byte; the service core takes the sealed command
at the ring's read index, one at a time; a refused command completes with its code; a completion stores the result word
and the cookie at done, the data at buf, and nothing else, and sends the vector when it is enabled. The model's choices (log
109): a ring that the partition's window holds lies, with the completions and buffers of its commands, in what the partition
maps, any other in host memory; the depth is at most 2^8; an unknown operation and a buffer that cannot be read complete with
0x02. -/
def Obligations.HostCommands : Prop := ∀ (s : State) (pkg fn : Nat),
  (fnOpen s pkg fn = false → exec (.zbell pkg fn) s = .next s ∧ (∀ v, exec (.zringWrite pkg fn v) s = .next s) ∧
    (∀ off v, exec (.registerWrite pkg fn off v) s = .next s) ∧ ∀ off a, exec (.bar2Access pkg fn off a) s = .next s) ∧
  (fnOpen s pkg fn = true →
    exec (.zbell pkg fn) s = .next (modFn s (pkg, fn) fun f => { f with bell := true }) ∧
    (∀ v, exec (.registerWrite pkg fn 0x020 v) s = .next (modFn s (pkg, fn) fun f => { f with zvec := v &&& 0x3F#64 })) ∧
    (∀ off v, off ≠ 0x020 → exec (.registerWrite pkg fn off v) s = .next s) ∧
    (∀ v, let f := getFn s (pkg, fn); let w := v &&& 0xFFFFFFFFFFFFF00F#64
      exec (.zringWrite pkg fn v) s = .next (setFn s (pkg, fn)
        (if f.cmds.isEmpty then { f with zring := w, zringNext := none } else { f with zringNext := some w }))) ∧
    (∀ off n, let w := coreWalks s pkg fn (pagePieces off n)
      (∀ x, translateRange w (qmEng pkg 0) fn .op .read off n = .error x → ∃ t,
        exec (.bar2Access pkg fn off (.read n)) s = .next t ∧ (getFn t (pkg, fn)).answer = none ∧ SameBytes s t) ∧
      (∀ ps bs u, translateRange w (qmEng pkg 0) fn .op .read off n = .ok ps → readPieces w ps = (bs, false, u) → ∃ t,
        exec (.bar2Access pkg fn off (.read n)) s = .next t ∧ (getFn t (pkg, fn)).answer = some bs ∧ SameBytes s t)) ∧
    (∀ off d g, let w := coreWalks s pkg fn (pagePieces off d.length)
      s.MemOk → translateRange w (qmEng pkg 0) fn .op .write off d.length = .ok [(.hbm g, d.length)] → ∃ t, exec (.bar2Access pkg fn off (.write d)) s = .next t ∧ StoresHbm s t g d ∧ (getFn t (pkg, fn)).answer = some [])) ∧
  (let f := getFn s (pkg, fn); let base := ringBase s pkg fn; let depth := 2 ^ (2 + Nat.min 6 (f.zring.toNat % 16))
   (f.cmds ≠ [] ∨ fnEnabled s pkg fn = false → exec (.zcmdRingPoll pkg fn) s = .next s) ∧
   (∀ ri b, f.cmds = [] → fnEnabled s pkg fn = true → svcRead s pkg fn (base + 8) 8 = some ri →
    let r := leNat ri; let u := svcReads (svcReads s pkg fn (base + 8) 8) pkg fn (base + 64 + 64 * (r % depth)) 64
    svcRead u pkg fn (base + 64 + 64 * (r % depth)) 64 = some b →
    (field b 56 8 ≠ (r + 1) % 2 ^ 64 →
      exec (.zcmdRingPoll pkg fn) s = .next (modFn u (pkg, fn) fun f => { f with bell := false })) ∧
    (∀ v, field b 56 8 = (r + 1) % 2 ^ 64 → svcWrite u pkg fn (base + 8) (leBytes 8 ((r + 1) % 2 ^ 64)) = some v →
      knownOps.contains (field b 0 2) = true → ∃ t, exec (.zcmdRingPoll pkg fn) s = .next t ∧
        (getFn t (pkg, fn)).cmds = [cmdOf b (r % depth)] ∧ t.hbm = v.hbm ∧ t.hostMem = v.hostMem ∧ t.threads = s.threads))) ∧
  (∀ c cs, (getFn s (pkg, fn)).cmds = c :: cs → ∀ p ∈ cmdForms,
    (c.op ≠ p.1 → exec (p.2 pkg fn) s = .next s) ∧
    (∀ w, c.op = p.1 → cmdRefusal fn c = some w → Ends (p.2 pkg fn) s s pkg fn c w [])) ∧
  (∀ (c : Cmd) (w : Word) g, s.MemOk → windowOk s pkg fn (ringBase s pkg fn) = true →
    translateRange s (qmEng pkg 0) fn .copy .write c.done.toNat 16 = .ok [(.hbm g, 16)] → let t := complete s pkg fn c w []
    StoresHbm s t g (leBytes 8 w.toNat ++ leBytes 8 c.cookie) ∧ (getFn t (pkg, fn)).cmds = (getFn s (pkg, fn)).cmds.tail) ∧
  (∀ (c : Cmd) (w : Word) (data : List Byte), s.MemOk → windowOk s pkg fn (ringBase s pkg fn) = false →
    let d := c.done.toNat; let b := c.buf.toNat; let t := complete s pkg fn c w data; let f := getFn s (pkg, fn)
    (data ≠ [] → c.buf ≠ 0 → b + data.length ≤ d ∨ d + 16 ≤ b) →
    memRead t.hostMem d 16 = leBytes 8 w.toNat ++ leBytes 8 c.cookie ∧
    (data ≠ [] → c.buf ≠ 0 → memRead t.hostMem b data.length = data) ∧
    (∀ a, a < d ∨ d + 16 ≤ a → (data = [] ∨ c.buf = 0 ∨ a < b ∨ b + data.length ≤ a) →
      memGet t.hostMem a = memGet s.hostMem a) ∧ t.hbm = s.hbm ∧ t.l0 = s.l0 ∧ t.threads = s.threads ∧
    (getFn t (pkg, fn)).cmds = f.cmds.tail ∧ (getFn t (pkg, fn)).vectors =
      if f.zvec.getLsbD 5 then f.vectors ++ [f.zvec.toNat % 32] else f.vectors)

/-- Partition commands (R349, R354 to R358, R408): PCREATE makes a partition with no resources; ASPACE, FAULTS, POOLS,
LQSET, CQSET and SLOTS set what they name; PGRANT moves every named page, thread and barrier; FLR closes the partition,
waits until all has drained, then scrubs it and reports, PDESTROY does so and dissolves it. The scrub leaves the
partition's threads with zero registers and halted, and none of its TLB entries, quotas or scratchpad bytes. The model's
choices: the least free queue (log 9), the engine through which the service core works (log 66) and where its buffers lie
(log 109), the alignment and room that LQSET, CQSET, PGRANT and POOLS ask for (log 107), the counts of what drains (log 104),
resets that join (log 105), and a scrub in one step (log 103). -/
def Obligations.PartitionCommands : Prop := ∀ (s : State) (pkg fn : Nat) (c : Cmd),
  let p := arg c 8 1; let q := getPart s (pkg, p)
  (Heads s pkg fn 0x10 c → 1 ≤ p → p ≤ 31 → q.flr = 0 →
    (q.live = false → Ends (.pcreate pkg fn) s (setPart s (pkg, p) { live := true }) pkg fn c (okWord 0) []) ∧
    (q.live = true → Ends (.pcreate pkg fn) s s pkg fn c (errWord 0x05) [])) ∧
  (p ≤ 31 → q.flr = 0 → q.live = true →
    (Heads s pkg fn 0x14 c → arg c 16 8 % 4096 = 0 → arg c 16 8 < hbmSize → arg c 24 4 ≤ arg c 28 4 → arg c 28 4 ≤ 2 ^ 19 →
      Ends (.aspace pkg fn) s (setPart s (pkg, p) { q with root := arg c 16 8, vbase := arg c 24 4 * 2 ^ 33,
                                                           vlimit := arg c 28 4 * 2 ^ 33 }) pkg fn c (okWord 0) []) ∧
    (Heads s pkg fn 0x16 c → arg c 9 1 ≤ 3 → arg c 10 1 ≤ 3 → 2 ≤ arg c 12 4 → arg c 12 4 ≤ 1000 → arg c 16 1 ≤ 1 →
      let th := tset (arg c 9 1) (arg c 10 1) q.faultThr; let b := decide (arg c 16 1 = 1)
      Ends (.faults pkg fn) s (setPart s (pkg, p) { q with faultThr := th, windowUs := arg c 12 4, brk := b })
        pkg fn c (okWord 0) []) ∧
    (Heads s pkg fn 0x15 c → 1 ≤ arg c 9 1 → arg c 9 1 ≤ 3 → s.allocWait = [] →
      let x := tget {} (arg c 9 1) q.pools
      insideOne q.ranges (arg c 16 8) (arg c 24 4 * 65536 + arg c 28 4 * 1024) = true →
      poolShrinks x (arg c 16 8) (arg c 24 4) (arg c 28 4) = false →
      let y := { x with segBase := arg c 16 8, segs := arg c 24 4, blocks := arg c 28 4 }
      Ends (.pools pkg fn) s (setPart s (pkg, p) { q with pools := tset (arg c 9 1) y q.pools }) pkg fn c (okWord 0) []) ∧
    (∀ k v, Heads s pkg fn 0x28 c → arg c 9 1 ≤ 7 → 2 ≤ arg c 24 1 → arg c 24 1 ≤ 12 → arg c 16 8 % 8 = 0 →
      queueOf s pkg p (arg c 9 1) = none → leastBelow 32 (fun k => !(getLaunchQ s (pkg, k)).set) = some k →
      schedWrite s pkg p (arg c 16 8) (List.replicate 16 0) = some v →
      Ends (.lqset pkg fn) s (modLaunchQ v (pkg, k) fun x => { x with
        set := true, base := BitVec.ofNat 64 (arg c 16 8), log2 := arg c 24 1, part := p, num := arg c 9 1 })
        pkg fn c (okWord 0) []) ∧
    (∀ ps, Heads s pkg fn 0x29 c → arg c 9 1 ≤ 3 → arg c 10 1 ≤ 15 → arg c 11 1 ≤ 3 → 2 ≤ arg c 24 1 → arg c 24 1 ≤ 12 →
      arg c 16 8 % 8 = 0 → runsToPieces s (qmEng pkg (arg c 9 1)) p .copy .write [(arg c 16 8, 16)] = .ok ps →
      Ends (.cqset pkg fn) s (setCopyQ (writeCopy s ps (List.replicate 16 0)) (pkg, arg c 9 1, arg c 10 1)
        { set := true, base := BitVec.ofNat 64 (arg c 16 8), log2 := arg c 24 1, part := p, faultThr := arg c 11 1 })
        pkg fn c (okWord 0) []) ∧
    (Heads s pkg fn 0x13 c →
      let src := if arg c 36 1 = 1 then p else 0; let dst := if arg c 36 1 = 1 then 0 else p
      let die := arg c 9 1; let pages := bitsOf 16 (arg c 10 2); let ths := bitsOf 4 (arg c 12 1)
      let bf := arg c 16 4; let bn := arg c 20 4
      1 ≤ p → die ≤ 3 → arg c 36 1 ≤ 1 → arg c 12 1 ≤ 15 → arg c 24 8 % 2 ^ 23 = 0 → bf + bn ≤ 4096 → arg c 32 4 = 0 →
      (List.range bn).any (fun k => decide (barOwner s pkg die (bf + k) ≠ src)) = false →
      grantBusy s pkg src die pages ths bf bn (arg c 24 8) 0 = false →
      (getPart s (pkg, src)).ranges.length ≤ 12 → (getPart s (pkg, dst)).ranges.length ≤ 12 →
      ∃ u, Ends (.pgrant pkg fn) s u pkg fn c (okWord 0) [] ∧ (∀ g ∈ pages, pageOwnerOf u pkg die g = dst) ∧
        (∀ t ∈ ths, (getThr u ⟨pkg, die, t⟩).part = dst) ∧
        (∀ k, bf ≤ k → k < bf + bn → barOwner u pkg die k = dst) ∧ SameBytes s u)) ∧
  (Heads s pkg fn 0x20 c → let e : Eng := ⟨pkg, arg c 8 1, arg c 10 1, arg c 9 1⟩
    let r := svcReads s pkg fn c.buf.toNat 256
    ∀ b, e.die ≤ 3 → hasSlots e = true → engExists e = true → c.buf ≠ 0 → svcRead r pkg fn c.buf.toNat 256 = some b →
    b.length = 256 →
    (b.any (fun x => !slotEntryOk x.toNat) = true → Ends (.slots pkg fn) s r pkg fn c (errWord 0x02) []) ∧
    (b.any (fun x => !slotEntryOk x.toNat) = false → ∃ u tab, Ends (.slots pkg fn) s u pkg fn c (okWord 0) [] ∧
      getSlotTab u e = { dueTab (getSlotTab r e) ((getPkg r pkg).time / 8192) with
        pending := some tab, pendingFrame := (getPkg r pkg).time / 8192 + 1 } ∧ u = { r with slotTabs := u.slotTabs } ∧ ∀ k (h : k < b.length), tget 0x40 k tab = b[k].toNat)) ∧
  (Heads s pkg fn 0x12 c → fn ≠ 0 → p ≠ fn → Ends (.flr pkg fn) s s pkg fn c (errWord 0x0A) []) ∧
  (1 ≤ p → p ≤ 31 → q.live = true → (Heads s pkg fn 0x12 c → fn = 0 ∨ p = fn →
      (q.flr = 0 → exec (.flr pkg fn) s = .next (flrKill (flrBegin s pkg p 1) pkg p) ∧
        getPart (flrBegin s pkg p 1) (pkg, p) = { q with flr := 1, drain := (getPart (flrBegin s pkg p 1) (pkg, p)).drain }) ∧
      let u := flrKill s pkg p
      (q.flr = 1 → flrDrained u pkg p = false → exec (.flr pkg fn) s = .next u) ∧
      (q.flr = 1 → flrDrained u pkg p = true →
        Ends (.flr pkg fn) s (completeJoined (flrFinish u pkg p) pkg p fn (drainReport q)) pkg fn c (okWord 0) (drainReport q))) ∧
    (Heads s pkg fn 0x11 c →
      let u := flrKill s pkg p
      (q.flr = 0 → exec (.pdestroy pkg fn) s = .next (flrKill (flrBegin s pkg p 2) pkg p)) ∧
      (q.flr = 2 → flrDrained u pkg p = false → exec (.pdestroy pkg fn) s = .next u) ∧
      (q.flr = 2 → flrDrained u pkg p = true → Ends (.pdestroy pkg fn) s
        (dissolve (completeJoined (flrFinish u pkg p) pkg p fn (drainReport q)) pkg p) pkg fn c (okWord 0) []))) ∧
  (∀ p : Nat, (∀ k, k.pkg = pkg → (getThr s k).part = p → getThr (scrubThreads s pkg p) k =
      if (tfind k s.threads).isSome then { part := p, agid := (getThr s k).agid } else {}) ∧
    (∀ t ∈ (scrubThreads s pkg p).tlb, t.eng.pkg = pkg → t.part ≠ p) ∧
    (∀ a, getQuota (scrubThreads s pkg p) (pkg, p, a) = {}) ∧
    (∀ a, (l0Page a).1 = pkg → pageOwnerOf s pkg (l0Page a).2.1 (l0Page a).2.2 = p → memGet (scrubPages s pkg p).l0 a = 0) ∧
    (p ≠ 0 → (pkg, p) ∉ (dissolve s pkg p).partitions.map (·.1)))

/-- Firmware, identity and debug commands (R353, R366, R368, R386, R390, R394, R402, R408 to R412): each has its effect
from its arguments and buffer and completes with success, or with 0x04 or 0x0A for an object that does not exist or is
not the function's. READ changes no state. The model's choices: the bytes of identity, reports and signatures (log 7), the
layout of the buffers of ROUTES, RGROUP and DBGSET (log 48) and of readback classes (log 12), MSTONE's milestone and codes
(log 107), the page and the entries that TLBINV waits on (log 106), the rights over debug tables (log 114), the place of the
break bit and a resume of a running thread (log 89), and where buffers lie (log 109). -/
def Obligations.FirmwareAndDebugCommands : Prop := ∀ (s : State) (pkg fn : Nat) (c : Cmd),
  let die := arg c 9 1; let k := arg c 12 4
  (Heads s pkg fn 0x01 c → Ends (.ident pkg fn) s s pkg fn c (okWord 0) (identityBlock s pkg)) ∧
  (Heads s pkg fn 0x02 c → let b := reportBody s pkg c.args
    Ends (.attest pkg fn) s s pkg fn c (okWord 0) (b ++ (Config.sign pkg b).take 1280)) ∧
  (∀ b, let r := bufReads s pkg fn c (arg c 8 4)
    Heads s pkg fn 0x03 c → bufBytes r pkg fn c (arg c 8 4) = some b →
    (Config.patchValid pkg b = true →
      Ends (.fwstage pkg fn) s (modPkg r pkg fun k => { k with staged := some b }) pkg fn c (okWord 0) []) ∧
    (Config.patchValid pkg b = false → Ends (.fwstage pkg fn) s r pkg fn c (errWord 0x05) [])) ∧
  (Heads s pkg fn 0x30 c → let n := Config.bufSize 0x30 (arg c 8 4); let v := bufReads s pkg fn c n
   ∃ u w, Ends (.routes pkg fn) s u pkg fn c w [] ∧
    ∀ b rs, bufBytes v pkg fn c n = some b → Config.readRoutes b (arg c 8 4) = some rs →
      w = okWord 0 ∧ u = { v with straits := u.straits } ∧ (∀ e, (getStrait u e).table = (getStrait s e).table) ∧
      ∀ r, rs = [r] → let e : Eng := ⟨pkg, r.1 % 4, r.2.1 % 8, 25⟩
        (getStrait u e).newTable = mergeRoutes (getStrait s e).newTable [routeEntry r.2.2]) ∧
  (Heads s pkg fn 0x31 c → (∀ x ∈ s.packages, x.1 ≠ pkg → x.2.lsDom ≠ some k) → domainMilestone s pkg (arg c 8 4) = none →
    ∃ u, Ends (.mstone pkg fn) s u pkg fn c (okWord 0) [] ∧
      getPkg u pkg = { getPkg s pkg with routeDom := some (arg c 8 4), lsDom := some k, exhausted := (getPkg u pkg).exhausted } ∧
      (∀ x, x ≠ pkg → getPkg u x = getPkg s x) ∧ SameBytes s u ∧ u.threads = s.threads) ∧
  (Heads s pkg fn 0x32 c → 2 ≤ k → k ≤ 1024 → arg c 10 2 < k → arg c 12 2 = k →
    let n := Config.bufSize 0x32 (arg c 12 2); let r := bufReads s pkg fn c n
    ∃ u w, Ends (.rgroup pkg fn) s u pkg fn c w [] ∧ ∀ b, bufBytes r pkg fn c n = some b → w = okWord 0 ∧
        u = modGroup r (pkg, arg c 8 1) fun g =>
          { g with bound := true, rank := arg c 10 2, n := k, links := Config.readLinks b }) ∧
  (Heads s pkg fn 0x34 c → fn ≠ 0 → arg c 16 1 ≠ fn → Ends (.tlbinv pkg fn) s s pkg fn c (errWord 0x0A) []) ∧
  (let p := arg c 16 1
   Heads s pkg fn 0x34 c → p ≤ 31 → arg c 17 1 = 0 → fn = 0 ∨ p = fn → (getPart s (pkg, p)).flr = 0 →
    let left := s.tlb.filter fun t => !tlbHit pkg (some p) (some (arg c 8 8)) t
    let u := { s with tlb := left, walks := s.walks.filter fun w => !walkHit pkg (some p) (some (arg c 8 8)) w }
    (throughTlb u pkg (some p) (some (arg c 8 8)) = true → exec (.tlbinv pkg fn) s = .next u) ∧
    (throughTlb u pkg (some p) (some (arg c 8 8)) = false → Ends (.tlbinv pkg fn) s u pkg fn c (okWord 0) [])) ∧
  (Heads s pkg fn 0x50 c → 1 ≤ arg c 8 2 → 1 ≤ k → k ≤ 1000000 → ∃ u, Ends (.scrub pkg fn) s u pkg fn c (okWord 0) [] ∧
    getPkg u pkg = { getPkg s pkg with threshold := arg c 8 2, windowMs := k, mtPassMs := arg c 16 4,
                                       hbmPassMin := arg c 20 4 } ∧ SameBytes s u ∧ u.threads = s.threads) ∧
  (Heads s pkg fn 0x58 c →
    (1200 ≤ arg c 8 2 → arg c 8 2 ≤ 3400 →
      Ends (.power pkg fn) s (modPkg s pkg fun x => { x with limit := arg c 8 2 }) pkg fn c (okWord 0) []) ∧
    (arg c 8 2 < 1200 ∨ 3400 < arg c 8 2 → Ends (.power pkg fn) s s pkg fn c (errWord 0x02) [])) ∧
  (Heads s pkg fn 0x40 c → die ≤ 3 →
    (∀ o bs, readObj s pkg fn (arg c 8 1) die k c = .obj o bs →
      (fn = 0 ∨ o = some fn →
        ((readPart c).any (inFlr s pkg) = false → Ends (.readObject pkg fn) s s pkg fn c (okWord 0) bs) ∧
        ((readPart c).any (inFlr s pkg) = true → exec (.readObject pkg fn) s = .next s)) ∧
      (fn ≠ 0 → o ≠ some fn → Ends (.readObject pkg fn) s s pkg fn c (errWord 0x0A) [])) ∧
    (readObj s pkg fn (arg c 8 1) die k c = .missing → fn = 0 → Ends (.readObject pkg fn) s s pkg fn c (errWord 0x04) [])) ∧
  (Heads s pkg fn 0x41 c → die ≤ 3 →
    (∀ b, let r := bufReads s pkg fn c 32
      arg c 8 1 = 0 → k % 4 = 0 → k < 256 → bufBytes r pkg fn c 32 = some b → stopEntryOk (leNat b) = true → fn = 0 →
      Ends (.dbgsetStopEntry pkg fn) s (setStop r (pkg, k / 4) (BitVec.ofNat 256 (leNat b) &&& ~~~2#256)) pkg fn c
        (okWord 0) []) ∧
    (arg c 8 1 = 1 → k % 4 = 1 → k < 128 → (fn = 0 ∨ k / 4 = fn) → let r := bufReads s pkg fn c (Config.bufSize 1 0)
     ((getPart s (pkg, k / 4)).flr ≠ 0 → exec (.dbgsetTrace pkg fn) s = .next s) ∧
     ((getPart s (pkg, k / 4)).flr = 0 → ∃ u w, Ends (.dbgsetTrace pkg fn) s u pkg fn c w [] ∧
      ∀ b t, bufBytes r pkg fn c (Config.bufSize 1 0) = some b → Config.readTrace b = some t →
        traceOk r (k / 4) t.1 t.2.1 = true → w = okWord 0 ∧ u = setTraceCfg r (pkg, die, k / 4)
          { base := t.1, size := t.2.1, stopFull := t.2.2.1, mask := t.2.2.2 })) ∧
    (let e : Eng := ⟨pkg, die, bits k 10 7, bits k 6 2⟩
     arg c 8 1 = 2 → k % 4 = 2 → k < 2048 → (e.elem = 28 ∨ e.elem = 24) → engExists e = true →
      (fn ≠ 0 → Ends (.dbgsetWatch pkg fn) s s pkg fn c (errWord 0x0A) []) ∧
      (fn = 0 → let r := bufReads s pkg fn c (Config.bufSize 2 0)
       ∃ u x, Ends (.dbgsetWatch pkg fn) s u pkg fn c x [] ∧
        ∀ b w, bufBytes r pkg fn c (Config.bufSize 2 0) = some b → Config.readWatch b = some w →
          x = okWord 0 ∧ u = setWatch r e w)) ∧
    (∀ b, let r := bufReads s pkg fn c 1
      arg c 8 1 = 3 → k % 4 = 3 → k < 2 ^ 14 → (fn = 0 ∨ (getLaunch s (pkg, k / 4)).map (·.part) = some fn) →
      bufBytes r pkg fn c 1 = some b →
      let u := setBreak r (pkg, k / 4) (bit (leNat b) 0)
      Ends (.dbgsetBreakBit pkg fn) s u pkg fn c (okWord 0) [] ∧ getBreak u (pkg, k / 4) = bit (leNat b) 0) ∧
    (∀ r, arg c 8 1 = 4 → k < 2 ^ 15 → findOp s (selEng pkg die k) (bits k 5 0) = some r → (fn = 0 ∨ r.g.part = fn) →
      c.buf = 0 → ∃ u, Ends (.dbgsetProfileClear pkg fn) s u pkg fn c (okWord 0) [] ∧
        let d := tget {} (bits k 5 0) (getEng u (selEng pkg die k)).slots
        d.fires = 0 ∧ d.refills = 0 ∧ d.spills = 0 ∧ d.flags = 0 ∧ d.bins = List.replicate 16 0 ∧ SameBytes s u) ∧
    (let e : Eng := ⟨pkg, die, arg c 11 1, arg c 10 1⟩
     arg c 8 1 = 5 → (e.elem = 24 ∨ e.elem = 27) → engExists e = true → k < 64 → fn = 0 →
      Ends (.dbgsetLogEntry pkg fn) s (modEng s e fun x => { x with log := tdel k x.log }) pkg fn c (okWord 0) [])) ∧
  (let h : Tid := ⟨pkg, arg c 8 1, die⟩; let th := getThr s h
   Heads s pkg fn 0x42 c → h.die ≤ 3 → h.thr ≤ 3 →
    (∀ o, o ≤ 3 → arg c 10 1 = o → fn ≠ 0 → th.part ≠ fn →
      Ends (([.threadNormalStop pkg fn, .threadHardStop pkg fn, .threadResume pkg fn, .threadRegisterWrite pkg fn] :
        List Instr).getD o (.threadResume pkg fn)) s s pkg fn c (errWord 0x0A) []) ∧
    (fn = 0 ∨ th.part = fn →
      (arg c 10 1 = 0 →
        (th.loads = [] → th.asyncs = [] → Ends (.threadNormalStop pkg fn) s
          (setThr s h { th with stopped := true, stopping := false, wait := none }) pkg fn c (okWord 0) []) ∧
        (th.loads ≠ [] ∨ th.asyncs ≠ [] → exec (.threadNormalStop pkg fn) s =
          .next (setThr s h { th with stopping := true, wait := none }))) ∧
      (arg c 10 1 = 1 → Ends (.threadHardStop pkg fn) s
        (setThr s h { th with stopped := true, hard := true, stopping := false, wait := none }) pkg fn c (okWord 0) []) ∧
      (arg c 10 1 = 2 → Ends (.threadResume pkg fn) s
        (setThr s h { th with halted := false, stopped := false, hard := false, stopping := false }) pkg fn c (okWord 0) []) ∧
      (arg c 10 1 = 3 → let v := BitVec.ofNat 64 (arg c 16 8); let r := arg c 24 4
        (th.halted = false → th.stopped = false → Ends (.threadRegisterWrite pkg fn) s s pkg fn c (errWord 0x05) []) ∧
        (th.halted = true ∨ th.stopped = true →
          (1 ≤ r → r ≤ 31 → ∃ u, Ends (.threadRegisterWrite pkg fn) s u pkg fn c (okWord 0) [] ∧
            readReg (getThr u h) (BitVec.ofNat 5 r) = v ∧ (∀ x, x ≠ h → getThr u x = getThr s x)) ∧
          (r = 0x2000 → Ends (.threadRegisterWrite pkg fn) s (setThr s h { th with pc := v &&& ~~~3#64 })
            pkg fn c (okWord 0) [])))))

/-- Clock gates, repair, trace and power (R359, R373, R385 to R387, R395, R413, R414): an idle element is gated and a
token wakes it, an idle page of a set is power-gated; a scrub corrects a single error and poisons the sector of an HBM
word it cannot correct, a window ends its count, a pending bank converts when its eighth is free; a staged trace record
is written in a trace slot or counted lost; firmware steps the clock only outside its limits; at the limits the module
stops and its state is lost; a cold reset puts every table of the package at its reset entries. The model's choices: when a
window begins and a conversion in one step (log 111), a least clock of 5 percent (log 112), and that a shutdown
clears the state at once and a valid staged image runs after a reset (log 113). -/
def Obligations.PackageUpkeep : Prop := ∀ (s : State),
  (∀ e, (elementIdle s e = false → exec (.elementClockGate e) s = .next s) ∧
    (elementIdle s e = true → engExists e = true →
      exec (.elementClockGate e) s = .next (modEng s e fun x => { x with gated := true })) ∧
    let reached := s.inFlight.any fun t => decide (t.dst.eng = e) && !mustCross t
    ((getEng s e).waking = true → exec (.elementWake e) s = .next (modEng s e fun x => { x with waking := false })) ∧
    ((getEng s e).waking = false → reached = false → exec (.elementWake e) s = .next s) ∧
    ((getEng s e).waking = false → reached = true → (onPage e = false ∨ pagePowered s e = true) →
      (getEng s e).gated = true → exec (.elementWake e) s =
        .next (modEng s e fun x => { x with gated := false, waking := true }))) ∧
  (∀ pkg die page, (setOfPage s ⟨pkg, die, page, 0⟩ = none → exec (.pagePowerGate pkg die page) s = .next s) ∧
    ((setOfPage s ⟨pkg, die, page, 0⟩).isSome = true →
      (∀ x ∈ s.engines, x.1.pkg = pkg → x.1.die = die → x.1.page = page → onPage x.1 = true →
        x.2.rows.all (·.backed) = true ∧ x.2.ready = [] ∧ x.2.flow = [] ∧ x.2.unit = [] ∧ runs x.2 = []) →
      (∀ t ∈ s.tiles, t.1.pkg = pkg → t.1.die = die → t.1.handle / 4096 = page → t.2.state ≠ 2 ∧ t.2.state ≠ 4) →
      exec (.pagePowerGate pkg die page) s = .next { s with pageOn := tset (pkg, die, page) false s.pageOn })) ∧
  (∀ b k, (scrubWord b k = none → exec (.scrubRead b k) s = .next s) ∧
    (∀ w, scrubWord b k = some (true, w) → eccOf s true w = .single → ∃ t, exec (.scrubRead b k) s = .next t ∧
      eccOf t true w = .sound ∧ (getMode t (l0BankOf (w * 8))).ccount = sat16 (getMode s (l0BankOf (w * 8))).ccount ∧
      SameBytes s t ∧ t.threads = s.threads) ∧
    (∀ w, scrubWord b k = some (false, w) →
      (granted s (ownerOf (w * 8)) .scrub = false → exec (.scrubRead b k) s = .next s) ∧
      (granted s (ownerOf (w * 8)) .scrub = true → eccOf s false w = .double →
        (getMode s (hbmBankOf (w * 8))).mode ≠ 2 → ∃ t, exec (.scrubRead b k) s = .next t ∧
          (∀ x ∈ wordsOf (w * 8 / 64 * 64) 64, eccOf t false x = .poison) ∧ SameBytes s t ∧
          (getMode t (hbmBankOf (w * 8))).ucount = sat16 (getMode s (hbmBankOf (w * 8))).ucount))) ∧
  (∀ b, let k := getPkg s (bankPkg b); let m := getMode s b
    (k.time < m.wstart + k.windowMs * 10 ^ 6 → exec (.eccWindowExpiry b) s = .next s) ∧
    (m.wstart + k.windowMs * 10 ^ 6 ≤ k.time → ∃ t, exec (.eccWindowExpiry b) s = .next t ∧ (getMode t b).wcount = 0 ∧
      (getMode t b).wstart = k.time ∧ (getMode t b).ccount = m.ccount ∧ SameBytes s t) ∧
    (m.mode ≠ 1 ∨ eighthFree s b = false → exec (.bankConversion b) s = .next s) ∧
    (m.mode = 1 → eighthFree s b = true → badWords s b = [] →
      exec (.bankConversion b) s = .next (setMode s b { m with mode := 2 }))) ∧
  (∀ pkg die part, let c := getTraceCfg s (pkg, die, part); let n := traceRoom c; let a := c.base + 32 * (c.wi % n)
    (c.staged = [] → exec (.traceWrite pkg die part) s = .next s) ∧
    (∀ x xs, c.staged = x :: xs → c.size ≠ 0 →
      (c.stopFull = true → n ≤ c.wi → exec (.traceWrite pkg die part) s =
        .next (setTraceCfg s (pkg, die, part) { c with staged := xs, lost := (c.lost + 1) % 2 ^ 32 })) ∧
      (c.stopFull = false → granted s (ownerOf a) .trace = false → exec (.traceWrite pkg die part) s = .next s) ∧
      (c.stopFull = false → granted s (ownerOf a) .trace = true → s.MemOk → ∃ t,
        exec (.traceWrite pkg die part) s = .next t ∧ StoresHbm s t a (leBytes 32 x.toNat) ∧
        getTraceCfg t (pkg, die, part) = { c with staged := xs, wi := (c.wi + 1) % n } ∧ t.threads = s.threads))) ∧
  (∀ pkg, let k := getPkg s pkg
    (k.powerW ≤ k.limit → k.tempC < 95 → exec (.thermalThrottle pkg true) s = .next s) ∧
    (k.limit < k.powerW ∨ 95 ≤ k.tempC → exec (.thermalThrottle pkg true) s =
      .next (setPkg s pkg { k with clock := Nat.max 5 (k.clock - 5), throttle := true })) ∧
    (k.limit ≤ k.powerW ∨ 90 ≤ k.tempC → exec (.thermalThrottle pkg false) s = .next s) ∧
    (k.powerW < k.limit → k.tempC < 90 → k.clock < 100 → exec (.thermalThrottle pkg false) s =
      .next (setPkg s pkg { k with clock := Nat.min 100 (k.clock + 5), throttle := decide (k.clock + 5 < 100) })) ∧
    let lost := fun (t : State) => (∀ h, h.pkg = pkg → getThr t h = {}) ∧
      (∀ a, gpaPkg a = pkg → memGet t.hbm a = 0) ∧ (∀ a, gpaPkg a ≠ pkg → memGet t.hbm a = memGet s.hbm a) ∧
      (∀ a, (l0Page a).1 = pkg → memGet t.l0 a = 0) ∧ (∀ g, getGraph t (pkg, g) = none) ∧
      (∀ h, h.pkg ≠ pkg → getThr t h = getThr s h) ∧ t.hostMem = s.hostMem
    (k.tempC < 110 → 48 ≤ k.inputV → k.inputV ≤ 58 → exec (.thermalShutdown pkg) s = .next s) ∧
    (110 ≤ k.tempC ∨ k.inputV < 48 ∨ 58 < k.inputV → ∃ t, exec (.thermalShutdown pkg) s = .next t ∧ lost t ∧
      (getPkg t pkg).off = true ∧ (getPkg t pkg).faultLine = true) ∧
    (k.inputV < 48 ∨ 58 < k.inputV → exec (.coldReset pkg) s = .next s) ∧
    (48 ≤ k.inputV → k.inputV ≤ 58 → ∃ t, exec (.coldReset pkg) s = .next t ∧ lost t ∧ (getPkg t pkg).off = false ∧
      (getPkg t pkg).time = 0 ∧ (getPkg t pkg).clock = 100 ∧ (getPkg t pkg).routeDom = none ∧
      ((getPkg t pkg).patch = none ∨ ∃ b, (getPkg t pkg).patch = some b ∧ Config.patchValid pkg b = true) ∧
      (∀ h, (getPart t (pkg, 0)).live = true ∧ (h ≠ 0 → (getPart t (pkg, h)).live = false))))

/-! ### Reset and the invariants -/

/-- The machine after reset (R31, R36, R261, R266, R290, R316, R349, R354, R358, R385, R413): every thread is halted,
HBM and the scratchpads list nothing, every slot is open, partition 0 owns every page, range and barrier, and device
time is 0. The s registers are zero and the scratchpads read zero by the model's choice (log 5, log 6). -/
def Obligations.ResetState : Prop :=
  (∀ t, (getThr .reset t).halted = true ∧ (getThr .reset t).part = 0 ∧ ∀ r, readReg (getThr .reset t) r = 0) ∧
  (∀ a, memGet State.reset.hbm a = 0) ∧ (∀ e n, tget 0x40 n (getSlotTab .reset e).tab = 0x40) ∧
  (∀ p, (getPkg .reset p).time = 0 ∧ (getPkg .reset p).routeDom = none ∧ (getPkg .reset p).off = false) ∧
  (∀ p, (getPart .reset (p, 0)).live = true ∧ (getPart .reset (p, 0)).ranges = [(0, hbmSize)] ∧
    ∀ k, k ≠ 0 → (getPart .reset (p, k)).live = false ∧ (getPart .reset (p, k)).ranges = []) ∧
  (∀ p d k, pageOwnerOf .reset p d k = 0 ∧ barOwner .reset p d k = 0) ∧ (∀ e, pagePowered .reset e = false) ∧
  (∀ i, (getTile .reset i).state = 0) ∧ (∀ k, (getBar .reset k).armed = false ∧ (getChan .reset k).state = 0) ∧
  (∀ b, (getMode .reset b).mode = 0) ∧ (∀ k, getGraph .reset k = none ∧ getLaunch .reset k = none) ∧
  State.reset.MemOk ∧ State.reset.Threads

/-- Every turn of a control core keeps its threads in order (R38, R227, R266): the registers that hold a handler or a
saved program counter stay aligned to 4, at most 8 loads are outstanding, and at most 16 stores. -/
def Obligations.TurnsKeepThreads : Prop := ∀ (s t : State) (k : Tid) (us : List Turn),
  s.agenda = .issue k :: us → s.Threads → step s = .next t → t.Threads

/-- Every step keeps every memory in its canonical form, so that equal memories are equal data. -/
def Obligations.StepsKeepMemories : Prop := ∀ (s t : State), s.MemOk → step s = .next t → t.MemOk
end

