-- ==== Sys2Proof/Laws/Flits.lean ====
section
/-!
SUPPORT. Laws/Flits.lean: the header CRC of flits (spec/04 R90; spec/17 R362).
-/
namespace Sys2Proof.Machine

/-- A header without its CRC has 480 bits. -/
theorem headerBits_lt (t : Token) : headerBits t < 2 ^ 480 := by
  have h1 := t.opw.isLt
  have h2 := t.tag.isLt
  have h3 : b2n t.urg < 2 := by cases t.urg <;> decide
  have h4 : b2n t.rply < 2 := by cases t.rply <;> decide
  have h5 : b2n t.poison < 2 := by cases t.poison <;> decide
  have b1 : bits t.rsv 1 0 < 4 := Nat.mod_lt _ (by decide)
  have b2 : bits t.rsv 3 2 < 4 := Nat.mod_lt _ (by decide)
  have b3 : bits t.rsv 89 4 < 2 ^ 86 := Nat.mod_lt _ (by decide)
  have m := fun (x n : Nat) (h : 0 < n) => Nat.mod_lt x h
  have m1 := m (coordNat t.dst) (2 ^ 38) (by decide)
  have m2 := m t.kind 16 (by decide)
  have m3 := m t.lid 4096 (by decide)
  have m4 := m t.part 32 (by decide)
  have m5 := m (coordNat t.src) (2 ^ 38) (by decide)
  have m6 := m t.agid 4096 (by decide)
  have m7 := m t.path 4096 (by decide)
  have m8 := m t.seq (2 ^ 32) (by decide)
  have m9 := m t.milestone 65536 (by decide)
  have m10 := m t.residue 65536 (by decide)
  have m11 := m t.hops 256 (by decide)
  have m12 := m t.vc 4 (by decide)
  unfold headerBits
  generalize t.opw.toNat = a1 at *
  generalize t.tag.toNat = a2 at *
  generalize b2n t.urg = a3 at *
  generalize b2n t.rply = a4 at *
  generalize b2n t.poison = a5 at *
  generalize bits t.rsv 1 0 = a6 at *
  generalize bits t.rsv 3 2 = a7 at *
  generalize bits t.rsv 89 4 = a8 at *
  generalize coordNat t.dst % 2 ^ 38 = a9 at *
  generalize coordNat t.src % 2 ^ 38 = a10 at *
  generalize t.kind % 16 = a11 at *
  generalize t.lid % 4096 = a12 at *
  generalize t.part % 32 = a13 at *
  generalize t.agid % 4096 = a14 at *
  generalize t.path % 4096 = a15 at *
  generalize t.seq % 2 ^ 32 = a16 at *
  generalize t.milestone % 65536 = a17 at *
  generalize t.residue % 65536 = a18 at *
  generalize t.hops % 256 = a19 at *
  generalize t.vc % 4 = a20 at *
  clear m
  omega

/-- The flit of a header: its CRC above its bits. -/
theorem headerFlit_toNat (t : Token) : (headerFlit t).toNat = headerBits t + hcrcOf (headerBits t) * 2 ^ 480 := by
  have h := headerBits_lt t
  have c : hcrcOf (headerBits t) < 2 ^ 32 := (crc32c _).isLt
  unfold headerFlit
  rw [BitVec.toNat_ofNat, Nat.mod_eq_of_lt]
  generalize hcrcOf (headerBits t) = y at *
  omega

/-- hcrc holds in the flit of every header. -/
theorem headerFlit_good (t : Token) : hcrcGood (headerFlit t) = true := by
  have h := headerBits_lt t
  unfold hcrcGood
  rw [headerFlit_toNat, decide_eq_true_iff, Nat.add_mul_mod_self_right, Nat.mod_eq_of_lt h, Nat.add_mul_div_right _ _ (by decide),
    Nat.div_eq_of_lt h, Nat.zero_add]

/-- A flit whose hcrc holds fails the check once noise flips bits of its hcrc only. -/
theorem noisy_hcrc (f x : BitVec 512) (good : hcrcGood f = true) (low : x.toNat % 2 ^ 480 = 0) (flips : x ≠ 0) :
    hcrcGood (f ^^^ x) = false := by
  rw [hcrcGood, decide_eq_true_iff] at good
  rw [hcrcGood, decide_eq_false_iff_not]
  intro bad
  have e : (f ^^^ x).toNat % 2 ^ 480 = f.toNat % 2 ^ 480 := by
    rw [BitVec.toNat_xor, Nat.xor_mod_two_pow, low, Nat.xor_zero]
  have q : (f ^^^ x).toNat = f.toNat := by
    rw [e, good] at bad
    have := Nat.div_add_mod (f ^^^ x).toNat (2 ^ 480)
    have := Nat.div_add_mod f.toNat (2 ^ 480)
    omega
  have z : f ^^^ x = f ^^^ 0#512 := by rw [BitVec.xor_zero]; exact BitVec.eq_of_toNat_eq q
  exact flips ((BitVec.xor_right_inj _).1 z)

end Sys2Proof.Machine
end

