-- ==== Sys2Proof/Laws/Image.lean ====
section
/-!
SUPPORT. Laws/Image.lean: a save image reads back as what was saved (spec/15 R344, R345).
-/
namespace Sys2Proof.Machine

theorem getNat_putNat (k n : Nat) (r : List Byte) (h : n < 128 ^ (k + 1)) : getNat (putNat k n ++ r) = some (n, r) := by
  induction k generalizing n with
  | zero => simp [putNat, getNat, BitVec.toNat_ofNat, Nat.mod_eq_of_lt (show n < 256 by omega)]; omega
  | succ k ih =>
    rw [putNat]
    split
    · next h' => simp [getNat, Nat.mod_eq_of_lt (show n < 256 by omega), h']
    · have h1 : n / 128 < 128 ^ (k + 1) := Nat.div_lt_of_lt_mul (by rw [Nat.pow_succ] at h; omega)
      have h2 : (128 + n % 128) % 256 = 128 + n % 128 := Nat.mod_eq_of_lt (by omega)
      simp [getNat, h2, ih _ h1, Nat.mod_add_div]

theorem cNat_ok : cNat.Ok := fun n r => getNat_putNat _ _ _ <| by
  calc n < 2 ^ (Nat.log2 n + 1) := Nat.lt_log2_self
    _ ≤ 128 ^ (Nat.log2 n + 1) := Nat.pow_le_pow_left (by omega) _

theorem Codec.map_ok {α β : Type} {f : α → β} {g : β → α} {c : Codec α} (h : c.Ok) (fg : ∀ y, f (g y) = y) : (c.map f g).Ok :=
  fun y r => by simp [Codec.map, h (g y) r, fg]

theorem Codec.prod_ok {α β : Type} {a : Codec α} {b : Codec β} (ha : a.Ok) (hb : b.Ok) : (a.prod b).Ok :=
  fun x r => by simp [Codec.prod, ha x.1, hb x.2]

theorem Codec.sum_ok {α β : Type} {a : Codec α} {b : Codec β} (ha : a.Ok) (hb : b.Ok) : (a.sum b).Ok
  | .inl x, r => by simp [Codec.sum, ha x r]
  | .inr y, r => by simp [Codec.sum, hb y r]

theorem getMany_ok {α : Type} {c : Codec α} (h : c.Ok) (l : List α) (r : List Byte) :
    getMany c l.length (l.flatMap c.put ++ r) = some (l, r) := by
  induction l with
  | nil => simp [getMany]
  | cons x l ih => simp [getMany, h x, ih]

theorem Codec.list_ok {α : Type} {c : Codec α} (h : c.Ok) : c.list.Ok :=
  fun l r => by simp [Codec.list, cNat_ok l.length, getMany_ok h]

theorem Codec.opt_ok {α : Type} {c : Codec α} (h : c.Ok) : c.opt.Ok :=
  Codec.map_ok (Codec.list_ok h) fun x => by cases x <;> rfl

theorem cBool_ok : cBool.Ok := Codec.map_ok cNat_ok (by decide)

theorem cBV_ok (n : Nat) : (cBV n).Ok := Codec.map_ok cNat_ok fun x => by simp

theorem cInt_ok : cInt.Ok := Codec.map_ok (Codec.prod_ok cBool_ok cNat_ok) fun i => by
  show (if decide (i < 0) = true then -(i.natAbs : Int) else (i.natAbs : Int)) = i
  rcases lt_or_ge i 0 with h | h
  · rw [if_pos (decide_eq_true h)]; omega
  · rw [if_neg (by simpa using h)]; omega

theorem cEng_ok : cEng.Ok :=
  Codec.map_ok (Codec.prod_ok cNat_ok (Codec.prod_ok cNat_ok (Codec.prod_ok cNat_ok cNat_ok))) fun _ => rfl

theorem cCoord_ok : cCoord.Ok :=
  Codec.map_ok (Codec.prod_ok cEng_ok (Codec.prod_ok cNat_ok cNat_ok)) fun _ => rfl

theorem cCons_ok : cCons.Ok :=
  Codec.map_ok (Codec.prod_ok cNat_ok cCoord_ok) fun _ => rfl

theorem cTileId_ok : cTileId.Ok :=
  Codec.map_ok (Codec.prod_ok cNat_ok (Codec.prod_ok cNat_ok cNat_ok)) fun _ => rfl

theorem cBlock_ok : cBlock.Ok :=
  Codec.map_ok (Codec.prod_ok (cBV_ok 256) (Codec.prod_ok (cBV_ok 128) (Codec.list_ok (cBV_ok 64)))) fun _ => rfl

theorem cOp_ok : cOp.Ok :=
  Codec.map_ok (Codec.prod_ok (cBV_ok 256) (Codec.prod_ok cEng_ok (Codec.prod_ok cNat_ok (Codec.prod_ok
    (Codec.list_ok (cBV_ok 256)) (Codec.prod_ok (Codec.list_ok cCons_ok) (Codec.prod_ok cNat_ok (Codec.prod_ok cNat_ok
    (Codec.prod_ok (Codec.list_ok cTileId_ok) (Codec.opt_ok cBlock_ok))))))))) fun _ => rfl

theorem cColKey_ok : cColKey.Ok :=
  Codec.map_ok (Codec.prod_ok cNat_ok (Codec.prod_ok cNat_ok (Codec.prod_ok cNat_ok cNat_ok))) fun _ => rfl

theorem cColour_ok : cColour.Ok :=
  Codec.map_ok (Codec.prod_ok cNat_ok (Codec.prod_ok cNat_ok (Codec.prod_ok cNat_ok (Codec.prod_ok cInt_ok
    (Codec.prod_ok cBool_ok (Codec.prod_ok cBool_ok (Codec.prod_ok cBool_ok (Codec.prod_ok cBool_ok (Codec.prod_ok
    (Codec.opt_ok cColKey_ok) (Codec.prod_ok cNat_ok (Codec.opt_ok (Codec.prod_ok cEng_ok cNat_ok)))))))))))) fun _ =>
    rfl

theorem cDraw_ok : cDraw.Ok :=
  Codec.map_ok (Codec.prod_ok cEng_ok (Codec.prod_ok cNat_ok (Codec.prod_ok cNat_ok (Codec.prod_ok cNat_ok (cBV_ok
    64))))) fun _ => rfl

theorem cLinkage_ok : cLinkage.Ok :=
  Codec.map_ok (Codec.prod_ok (cBV_ok 64) (Codec.list_ok cNat_ok)) fun _ => rfl

theorem cRegion_ok : cRegion.Ok :=
  Codec.map_ok (Codec.prod_ok cNat_ok (Codec.prod_ok cNat_ok (Codec.prod_ok cNat_ok (Codec.prod_ok cBool_ok
    (Codec.prod_ok cNat_ok (Codec.prod_ok cNat_ok (Codec.prod_ok cNat_ok (Codec.prod_ok cNat_ok (Codec.prod_ok
    (Codec.list_ok cNat_ok) (Codec.prod_ok (Codec.list_ok cColour_ok) (Codec.prod_ok (Codec.list_ok cDraw_ok)
    (Codec.list_ok (Codec.prod_ok cNat_ok cLinkage_ok))))))))))))) fun _ => rfl

theorem cTileRec_ok : cTileRec.Ok :=
  Codec.map_ok (Codec.prod_ok cTileId_ok (Codec.prod_ok cNat_ok (Codec.prod_ok cNat_ok (Codec.prod_ok cNat_ok
    (Codec.prod_ok cBool_ok (Codec.prod_ok cBool_ok (Codec.prod_ok (Codec.opt_ok cNat_ok) cNat_ok))))))) fun _ => rfl

theorem cToken_ok : cToken.Ok :=
  Codec.map_ok (Codec.prod_ok cCoord_ok (Codec.prod_ok cCoord_ok (Codec.prod_ok (cBV_ok 64) (Codec.prod_ok cNat_ok
    (Codec.prod_ok cNat_ok (Codec.prod_ok cNat_ok (Codec.prod_ok cNat_ok (Codec.prod_ok (cBV_ok 128) (Codec.prod_ok
    cNat_ok (Codec.prod_ok cBool_ok (Codec.prod_ok cBool_ok (Codec.prod_ok cBool_ok (Codec.prod_ok cNat_ok
    (Codec.prod_ok cNat_ok (Codec.prod_ok cNat_ok (Codec.prod_ok cNat_ok (Codec.prod_ok cNat_ok
    cNat_ok))))))))))))))))) fun _ => rfl

theorem cInst_ok : cInst.Ok :=
  Codec.map_ok (Codec.prod_ok (cBV_ok 64) (Codec.prod_ok (Codec.opt_ok cToken_ok) (Codec.prod_ok (Codec.opt_ok
    cToken_ok) (Codec.prod_ok cNat_ok (Codec.prod_ok cNat_ok (Codec.prod_ok cNat_ok (Codec.prod_ok cNat_ok
    cCoord_ok))))))) fun _ => rfl

theorem cCont_ok : cCont.Ok :=
  Codec.map_ok (Codec.prod_ok cNat_ok (Codec.prod_ok cNat_ok (Codec.prod_ok cNat_ok (Codec.prod_ok (Codec.list_ok
    cNat_ok) (Codec.list_ok (Codec.prod_ok cNat_ok cInst_ok)))))) fun _ => rfl

theorem cShape_ok : cShape.Ok :=
  Codec.map_ok (Codec.prod_ok cNat_ok (Codec.prod_ok cNat_ok (Codec.prod_ok cNat_ok cNat_ok))) fun _ => rfl

theorem cGraph_ok : cGraph.Ok :=
  Codec.map_ok (Codec.prod_ok cNat_ok (Codec.prod_ok cNat_ok (Codec.prod_ok (cBV_ok 64) (Codec.prod_ok cNat_ok
    (Codec.prod_ok cNat_ok (Codec.prod_ok cNat_ok (Codec.prod_ok (Codec.list_ok (Codec.prod_ok cNat_ok (Codec.prod_ok
    cNat_ok cNat_ok))) (Codec.prod_ok (Codec.list_ok cOp_ok) (Codec.prod_ok (Codec.list_ok cRegion_ok) (Codec.prod_ok
    (Codec.list_ok cTileRec_ok) (Codec.prod_ok (Codec.list_ok (Codec.prod_ok cNat_ok cNat_ok)) (Codec.prod_ok
    (Codec.list_ok cCont_ok) (Codec.prod_ok (Codec.list_ok (Codec.prod_ok cNat_ok cShape_ok)) (Codec.prod_ok cBool_ok
    (Codec.prod_ok cBool_ok (Codec.prod_ok (Codec.opt_ok (Codec.list_ok (Codec.prod_ok cNat_ok (Codec.prod_ok cNat_ok
    cNat_ok)))) (Codec.prod_ok cBool_ok cBool_ok))))))))))))))))) fun _ => rfl

theorem cLaunchRec_ok : cLaunchRec.Ok :=
  Codec.map_ok (Codec.prod_ok cNat_ok (Codec.prod_ok cNat_ok (Codec.prod_ok cBool_ok (Codec.prod_ok cBool_ok
    (Codec.prod_ok cNat_ok (Codec.prod_ok cNat_ok (Codec.prod_ok cNat_ok (Codec.prod_ok cNat_ok (Codec.prod_ok
    (Codec.list_ok (cBV_ok 64)) (Codec.prod_ok (Codec.list_ok cNat_ok) (Codec.prod_ok (cBV_ok 64) cBool_ok)))))))))))
    fun _ => rfl

theorem cLaunch_ok : cLaunch.Ok :=
  Codec.map_ok (Codec.prod_ok cLaunchRec_ok (Codec.prod_ok cNat_ok (Codec.prod_ok cNat_ok (Codec.prod_ok
    (Codec.list_ok cNat_ok) (Codec.prod_ok cNat_ok (Codec.prod_ok cNat_ok (Codec.prod_ok cBool_ok (Codec.prod_ok
    (Codec.opt_ok cNat_ok) (Codec.prod_ok cNat_ok (Codec.prod_ok cBool_ok (Codec.prod_ok (cBV_ok 64) (Codec.prod_ok
    cNat_ok (Codec.prod_ok cBool_ok (Codec.prod_ok cBool_ok (Codec.prod_ok cBool_ok (Codec.prod_ok (Codec.opt_ok
    cNat_ok) (Codec.prod_ok cBool_ok (Codec.prod_ok cNat_ok cBool_ok)))))))))))))))))) fun _ => rfl

theorem cSlotDyn_ok : cSlotDyn.Ok :=
  Codec.map_ok (Codec.prod_ok cInt_ok (Codec.prod_ok cNat_ok (Codec.prod_ok cNat_ok (Codec.prod_ok cNat_ok
    (Codec.prod_ok cNat_ok (Codec.prod_ok cNat_ok (Codec.prod_ok cNat_ok (Codec.prod_ok (Codec.list_ok cNat_ok)
    (Codec.prod_ok cBool_ok (Codec.prod_ok cNat_ok cNat_ok)))))))))) fun _ => rfl

theorem cEntryRec_ok : cEntryRec.Ok :=
  Codec.map_ok (Codec.prod_ok cNat_ok cNat_ok) fun _ => rfl

theorem cTile_ok : cTile.Ok :=
  Codec.map_ok (Codec.prod_ok (cBV_ok 128) (Codec.prod_ok cNat_ok (Codec.prod_ok cNat_ok (Codec.prod_ok cNat_ok
    (Codec.prod_ok cNat_ok (Codec.prod_ok cNat_ok (Codec.prod_ok cNat_ok (Codec.prod_ok cNat_ok (Codec.prod_ok cNat_ok
    (Codec.prod_ok cBool_ok (Codec.prod_ok cBool_ok (Codec.prod_ok cNat_ok (Codec.prod_ok cNat_ok (Codec.prod_ok
    cNat_ok (Codec.prod_ok cNat_ok cBool_ok))))))))))))))) fun _ => rfl

theorem cTid_ok : cTid.Ok :=
  Codec.map_ok (Codec.prod_ok cNat_ok (Codec.prod_ok cNat_ok cNat_ok)) fun _ => rfl

theorem cInjDesc_ok : cInjDesc.Ok :=
  Codec.map_ok (Codec.prod_ok (cBV_ok 64) (Codec.prod_ok cNat_ok (Codec.prod_ok cNat_ok (Codec.prod_ok cBool_ok
    (Codec.prod_ok cBool_ok (Codec.prod_ok cNat_ok (Codec.prod_ok (cBV_ok 64) cBool_ok))))))) fun _ => rfl

theorem cTimerWhat_ok : cTimerWhat.Ok :=
  Codec.map_ok (Codec.sum_ok (Codec.prod_ok cTid_ok (Codec.opt_ok cInjDesc_ok)) (Codec.sum_ok (Codec.prod_ok cEng_ok
    cToken_ok) (Codec.prod_ok cEng_ok (Codec.prod_ok cNat_ok cNat_ok)))) (by rintro (_ | _ | _) <;> rfl)

theorem cTimerEnt_ok : cTimerEnt.Ok :=
  Codec.map_ok (Codec.prod_ok cNat_ok (Codec.prod_ok cNat_ok (Codec.prod_ok cNat_ok (Codec.prod_ok cBool_ok
    (Codec.prod_ok (Codec.opt_ok cNat_ok) (Codec.prod_ok cBool_ok cTimerWhat_ok)))))) fun _ => rfl

theorem cEndpoint_ok : cEndpoint.Ok :=
  Codec.map_ok (Codec.opt_ok (Codec.sum_ok (Codec.prod_ok cCoord_ok (Codec.prod_ok cNat_ok cBool_ok)) cTid_ok))
    (by rintro (_ | _ | _ | _) <;> rfl)

theorem cRec_ok : cRec.Ok :=
  Codec.map_ok (Codec.prod_ok (Codec.opt_ok cNat_ok) (Codec.prod_ok cNat_ok (Codec.prod_ok cBool_ok (Codec.prod_ok
    (Codec.list_ok cNat_ok) (Codec.prod_ok cNat_ok (Codec.prod_ok cBool_ok (Codec.prod_ok cNat_ok cNat_ok))))))) fun _
    => rfl

theorem cChan_ok : cChan.Ok :=
  Codec.map_ok (Codec.prod_ok cNat_ok (Codec.prod_ok cNat_ok (Codec.prod_ok cNat_ok (Codec.prod_ok cNat_ok
    (Codec.prod_ok cNat_ok (Codec.prod_ok cNat_ok (Codec.prod_ok cBool_ok (Codec.prod_ok cBool_ok (Codec.prod_ok
    cNat_ok (Codec.prod_ok cNat_ok (Codec.prod_ok cNat_ok (Codec.prod_ok cNat_ok (Codec.prod_ok cNat_ok (Codec.prod_ok
    cNat_ok (Codec.prod_ok cNat_ok (Codec.prod_ok cNat_ok (Codec.prod_ok cNat_ok (Codec.prod_ok cNat_ok (Codec.prod_ok
    cNat_ok (Codec.prod_ok cNat_ok (Codec.prod_ok cNat_ok (Codec.prod_ok cNat_ok (Codec.prod_ok cEndpoint_ok
    (Codec.prod_ok cEndpoint_ok (Codec.prod_ok (Codec.opt_ok cTid_ok) (Codec.prod_ok cNat_ok (Codec.prod_ok cNat_ok
    (Codec.prod_ok cNat_ok (Codec.prod_ok cNat_ok (Codec.prod_ok (Codec.list_ok (Codec.prod_ok cNat_ok cNat_ok))
    (Codec.prod_ok (Codec.list_ok cRec_ok) (Codec.prod_ok cBool_ok (Codec.prod_ok cNat_ok
    cNat_ok))))))))))))))))))))))))))))))))) fun _ => rfl

theorem cAllocWait_ok : cAllocWait.Ok :=
  Codec.map_ok (Codec.prod_ok cEng_ok (Codec.prod_ok cNat_ok (Codec.prod_ok cNat_ok cBool_ok))) fun _ => rfl

theorem cSourceFire_ok : cSourceFire.Ok :=
  Codec.map_ok (Codec.prod_ok cNat_ok (Codec.prod_ok cNat_ok (Codec.prod_ok cNat_ok (Codec.prod_ok cNat_ok
    (Codec.prod_ok (cBV_ok 64) (Codec.prod_ok (Codec.opt_ok (cBV_ok 64)) (Codec.prod_ok cBool_ok cNat_ok))))))) fun _
    => rfl

theorem cTrig_ok : cTrig.Ok :=
  Codec.map_ok (Codec.prod_ok (Codec.list_ok cNat_ok) (Codec.opt_ok cNat_ok)) fun _ => rfl

theorem cRow_ok : cRow.Ok :=
  Codec.map_ok (Codec.prod_ok cNat_ok (Codec.prod_ok cNat_ok (Codec.prod_ok cNat_ok (Codec.prod_ok (cBV_ok 64)
    (Codec.prod_ok (Codec.opt_ok cToken_ok) (Codec.prod_ok (Codec.opt_ok cToken_ok) (Codec.prod_ok (Codec.opt_ok
    cToken_ok) (Codec.prod_ok cNat_ok (Codec.prod_ok cNat_ok (Codec.prod_ok cNat_ok (Codec.prod_ok cNat_ok
    (Codec.prod_ok (Codec.opt_ok cTrig_ok) (Codec.prod_ok cBool_ok cBool_ok))))))))))))) fun _ => rfl

theorem cSetAside_ok : cSetAside.Ok :=
  Codec.map_ok (Codec.prod_ok cToken_ok (Codec.prod_ok cNat_ok (Codec.prod_ok cNat_ok (Codec.prod_ok cNat_ok
    cBool_ok)))) fun _ => rfl

theorem cBBlock_ok : cBBlock.Ok :=
  Codec.map_ok (Codec.prod_ok cNat_ok (Codec.prod_ok cNat_ok (Codec.list_ok cNat_ok))) fun _ => rfl

theorem cAct_ok : cAct.Ok :=
  Codec.map_ok (Codec.prod_ok cNat_ok (Codec.prod_ok cNat_ok (Codec.prod_ok cNat_ok (Codec.prod_ok (Codec.opt_ok
    cBool_ok) (Codec.list_ok cTileId_ok))))) fun _ => rfl

theorem cBurst_ok : cBurst.Ok :=
  Codec.map_ok (Codec.prod_ok cNat_ok (Codec.prod_ok cNat_ok (Codec.prod_ok (Codec.list_ok (cBV_ok 64))
    (Codec.prod_ok (Codec.list_ok (cBV_ok 8)) cNat_ok)))) fun _ => rfl

theorem cLoopBack_ok : cLoopBack.Ok :=
  Codec.map_ok (Codec.prod_ok cNat_ok (Codec.prod_ok cNat_ok (Codec.prod_ok cNat_ok (Codec.list_ok cNat_ok)))) fun _
    => rfl

theorem cRun_ok : cRun.Ok :=
  Codec.map_ok (Codec.prod_ok cAct_ok (Codec.prod_ok (Codec.list_ok cToken_ok) (Codec.prod_ok (Codec.list_ok
    cBurst_ok) (Codec.prod_ok (Codec.list_ok cTileId_ok) (Codec.prod_ok cNat_ok (Codec.prod_ok cNat_ok (Codec.prod_ok
    (Codec.list_ok cLoopBack_ok) (Codec.prod_ok cNat_ok (Codec.prod_ok (Codec.list_ok cNat_ok) (Codec.prod_ok
    (Codec.opt_ok cToken_ok) (Codec.prod_ok (Codec.list_ok (Codec.list_ok (Codec.opt_ok cNat_ok))) (Codec.prod_ok
    cNat_ok (Codec.prod_ok (Codec.list_ok (Codec.prod_ok (Codec.prod_ok cNat_ok cNat_ok) (Codec.list_ok cNat_ok)))
    (Codec.prod_ok (Codec.opt_ok cNat_ok) (Codec.opt_ok cNat_ok))))))))))))))) fun _ => rfl

theorem cLogEntry_ok : cLogEntry.Ok :=
  Codec.map_ok (Codec.prod_ok (cBV_ok 64) (Codec.prod_ok cNat_ok (Codec.prod_ok cNat_ok (Codec.prod_ok cNat_ok
    cNat_ok)))) fun _ => rfl

theorem cEngine_ok : cEngine.Ok :=
  Codec.map_ok (Codec.prod_ok (Codec.list_ok cRow_ok) (Codec.prod_ok cNat_ok (Codec.prod_ok cNat_ok (Codec.prod_ok
    (Codec.list_ok cSetAside_ok) (Codec.prod_ok (Codec.list_ok cToken_ok) (Codec.prod_ok (Codec.list_ok cBBlock_ok)
    (Codec.prod_ok (Codec.list_ok cToken_ok) (Codec.prod_ok cBool_ok (Codec.prod_ok (Codec.list_ok cAct_ok)
    (Codec.prod_ok (Codec.list_ok cAct_ok) (Codec.prod_ok (Codec.list_ok cAct_ok) (Codec.prod_ok (Codec.opt_ok
    cRun_ok) (Codec.prod_ok (Codec.opt_ok cRun_ok) (Codec.prod_ok cNat_ok (Codec.prod_ok (Codec.opt_ok cInt_ok)
    (Codec.prod_ok (Codec.opt_ok cNat_ok) (Codec.prod_ok cNat_ok (Codec.prod_ok cNat_ok (Codec.prod_ok cNat_ok
    (Codec.prod_ok (Codec.list_ok (Codec.prod_ok cNat_ok cSlotDyn_ok)) (Codec.prod_ok (Codec.list_ok (Codec.prod_ok
    (Codec.prod_ok cNat_ok cNat_ok) cEntryRec_ok)) (Codec.prod_ok (Codec.opt_ok cNat_ok) (Codec.prod_ok cBool_ok
    (Codec.prod_ok cBool_ok (Codec.prod_ok (Codec.list_ok (Codec.prod_ok cNat_ok cLogEntry_ok)) (Codec.prod_ok cNat_ok
    (Codec.prod_ok cNat_ok cNat_ok))))))))))))))))))))))))))) fun _ => rfl

theorem cLane_ok : cLane.Ok :=
  Codec.map_ok (Codec.prod_ok (cBV_ok 64) cNat_ok) fun _ => rfl

theorem cVTile_ok : cVTile.Ok :=
  Codec.map_ok (Codec.prod_ok (Codec.list_ok (Codec.prod_ok cNat_ok (cBV_ok 512))) (Codec.prod_ok (Codec.list_ok
    (Codec.prod_ok (Codec.prod_ok cNat_ok cNat_ok) cLane_ok)) (Codec.prod_ok (Codec.list_ok (Codec.prod_ok cNat_ok
    (cBV_ok 4))) (Codec.prod_ok (Codec.list_ok (Codec.prod_ok cNat_ok cShape_ok)) cNat_ok)))) fun _ => rfl

theorem cWBank_ok : cWBank.Ok :=
  Codec.map_ok (Codec.prod_ok cBool_ok (Codec.prod_ok cNat_ok (Codec.prod_ok cNat_ok (Codec.prod_ok cNat_ok
    (Codec.prod_ok cBool_ok (Codec.prod_ok (Codec.list_ok (cBV_ok 8)) (Codec.list_ok cBurst_ok))))))) fun _ => rfl

theorem cIsland_ok : cIsland.Ok :=
  Codec.map_ok (Codec.prod_ok cBool_ok (Codec.prod_ok cBool_ok (Codec.prod_ok cBool_ok (Codec.prod_ok cNat_ok
    (Codec.prod_ok cNat_ok (Codec.prod_ok cNat_ok (Codec.prod_ok cWBank_ok (Codec.prod_ok cWBank_ok (Codec.list_ok
    (Codec.prod_ok (Codec.prod_ok cNat_ok cNat_ok) cLane_ok)))))))))) fun _ => rfl

theorem cXUnit_ok : cXUnit.Ok :=
  Codec.map_ok (Codec.prod_ok cNat_ok (Codec.prod_ok cEng_ok (Codec.prod_ok cNat_ok (Codec.prod_ok cNat_ok
    (Codec.prod_ok cNat_ok (Codec.prod_ok cToken_ok (Codec.prod_ok (Codec.opt_ok cToken_ok) (Codec.prod_ok
    (Codec.list_ok cTileId_ok) (Codec.prod_ok (Codec.opt_ok cNat_ok) (Codec.prod_ok cNat_ok (Codec.prod_ok
    (Codec.list_ok cNat_ok) (Codec.prod_ok (Codec.list_ok cNat_ok) (Codec.prod_ok cNat_ok (Codec.prod_ok (Codec.opt_ok
    (Codec.prod_ok (Codec.prod_ok cNat_ok (Codec.prod_ok cNat_ok cNat_ok)) cNat_ok)) (Codec.prod_ok (Codec.list_ok
    (cBV_ok 8)) (Codec.list_ok (cBV_ok 8))))))))))))))))) fun _ => rfl

theorem cSaveGraph_ok : cSaveGraph.Ok :=
  Codec.map_ok (Codec.prod_ok (Codec.prod_ok cNat_ok cNat_ok) (Codec.prod_ok cGraph_ok (Codec.prod_ok (Codec.list_ok
    (Codec.prod_ok cNat_ok cLaunch_ok)) (Codec.prod_ok (Codec.list_ok (Codec.prod_ok (Codec.prod_ok cEng_ok cNat_ok)
    cSlotDyn_ok)) (Codec.prod_ok (Codec.list_ok (Codec.prod_ok (Codec.prod_ok cEng_ok (Codec.prod_ok cNat_ok cNat_ok))
    cEntryRec_ok)) (Codec.prod_ok (Codec.list_ok (Codec.prod_ok cTileId_ok cTile_ok)) (Codec.prod_ok (Codec.list_ok
    (Codec.prod_ok cNat_ok cTimerEnt_ok)) (Codec.prod_ok (Codec.list_ok (Codec.prod_ok (Codec.prod_ok cNat_ok cNat_ok)
    cChan_ok)) (Codec.prod_ok (Codec.list_ok cAllocWait_ok) (Codec.list_ok cSourceFire_ok)))))))))) fun _ => rfl

theorem cSaveElem_ok : cSaveElem.Ok :=
  Codec.map_ok (Codec.prod_ok cEng_ok (Codec.prod_ok (Codec.opt_ok cEngine_ok) (Codec.prod_ok (Codec.opt_ok
    cVTile_ok) (Codec.prod_ok (Codec.opt_ok cIsland_ok) (Codec.prod_ok (Codec.list_ok (Codec.prod_ok cNat_ok
    (Codec.list_ok (cBV_ok 8)))) (Codec.list_ok cNat_ok)))))) fun _ => rfl

theorem cSaveEdge_ok : cSaveEdge.Ok :=
  Codec.map_ok (Codec.prod_ok (Codec.list_ok (Codec.prod_ok cEng_ok cEngine_ok)) (Codec.list_ok cXUnit_ok)) fun _ =>
    rfl

theorem getPages_ok (g : Graph) (k : Nat) (ps : List (List SaveElem)) (r : List Byte) :
    getPages ps.length (putPages g k ps ++ r) = some (ps, r) := by
  induction ps generalizing k with
  | nil => simp [putPages, getPages]
  | cons p ps ih =>
    have h : ∀ t, (putPage g k p ++ t).drop 16 = (Codec.list cSaveElem).put p ++ t := fun t => by
      simp [putPage, List.drop_append, leBytes]
    simp [putPages, getPages, h, Codec.list_ok cSaveElem_ok p, ih]

/-- The body of a save image reads back as the set that it was written from (R344, R345). -/
theorem imageRead_imageBody (d : SaveData) (h : d.pages.length = setPages d.graph) : imageRead (imageBody d) = some d := by
  have hp := fun r => getPages_ok d.graph 0 d.pages r
  rw [h] at hp
  simp [imageRead, imageBody, imageSections, cSaveGraph_ok d.toSaveGraph, hp, cSaveEdge_ok d.toSaveEdge]

end Sys2Proof.Machine
end

