-- ==== Sys2Proof/Laws/Table.lean ====
section
/-!
SUPPORT. Laws/Table.lean: sparse tables and memories: read after write, and that every write keeps the canonical form.
-/
set_option Elab.async false
namespace Sys2Proof.Machine

@[simp] theorem tfind_tset_same {κ α : Type} [DecidableEq κ] (k : κ) (v : α) (t : Tbl κ α) :
    tfind k (tset k v t) = some v := by
  induction t with
  | nil => simp [tset, tfind]
  | cons p t ih => by_cases h : p.1 = k <;> simp [tset, tfind, h, ih]

theorem tfind_tset_other {κ α : Type} [DecidableEq κ] {k j : κ} (v : α) (t : Tbl κ α) (h : j ≠ k) :
    tfind j (tset k v t) = tfind j t := by
  induction t with
  | nil => simp [tset, tfind, Ne.symm h]
  | cons p t ih =>
    obtain ⟨q, w⟩ := p
    by_cases hk : q = k
    · subst hk; simp [tset, tfind, Ne.symm h]
    · by_cases hj : q = j
      · simp only [tset, if_neg hk, tfind, if_pos hj]
      · simp only [tset, if_neg hk, tfind, if_neg hj]; exact ih

@[simp] theorem tget_tset_same {κ α : Type} [DecidableEq κ] (d : α) (k : κ) (v : α) (t : Tbl κ α) :
    tget d k (tset k v t) = v := by simp [tget]

theorem tget_tset_other {κ α : Type} [DecidableEq κ] (d : α) {k j : κ} (v : α) (t : Tbl κ α) (h : j ≠ k) :
    tget d j (tset k v t) = tget d j t := by simp [tget, tfind_tset_other v t h]

/-! ### Memories -/

theorem memGet_below {lo x : Nat} {m : Memory} (h : memWfFrom lo m = true) (hx : x < lo) : memGet m x = 0 := by
  induction m generalizing lo with
  | nil => rfl
  | cons p m ih =>
    obtain ⟨a, b⟩ := p
    simp only [memWfFrom, Bool.and_eq_true, decide_eq_true_eq] at h
    simp only [memGet]
    rw [if_neg (by omega)]
    exact ih h.2 (by omega)

theorem memWfFrom_mono {lo lo' : Nat} {m : Memory} (h : memWfFrom lo m = true) (hl : lo' ≤ lo) :
    memWfFrom lo' m = true := by
  cases m with
  | nil => rfl
  | cons p m =>
    simp only [memWfFrom, Bool.and_eq_true, decide_eq_true_eq] at h ⊢
    exact ⟨⟨by omega, h.1.2⟩, h.2⟩

theorem memPut_wfFrom {lo x : Nat} {m : Memory} (v : Byte) (h : memWfFrom lo m = true) (hx : lo ≤ x) :
    memWfFrom lo (memPut m x v) = true := by
  induction m generalizing lo with
  | nil =>
    by_cases hv : v = 0
    · simp only [memPut, if_pos hv]; exact h
    · simp only [memPut, if_neg hv, memWfFrom, Bool.and_eq_true, decide_eq_true_eq]
      exact ⟨⟨hx, by simpa using hv⟩, trivial⟩
  | cons p m ih =>
    obtain ⟨a, b⟩ := p
    simp only [memWfFrom, Bool.and_eq_true, decide_eq_true_eq] at h
    obtain ⟨⟨ha, hb⟩, hm⟩ := h
    by_cases h1 : x < a
    · by_cases hv : v = 0
      · simp only [memPut, if_pos h1, if_pos hv, memWfFrom, Bool.and_eq_true, decide_eq_true_eq]
        exact ⟨⟨ha, hb⟩, hm⟩
      · simp only [memPut, if_pos h1, if_neg hv, memWfFrom, Bool.and_eq_true, decide_eq_true_eq]
        exact ⟨⟨hx, by simpa using hv⟩, ⟨by omega, hb⟩, hm⟩
    · by_cases h2 : x = a
      · by_cases hv : v = 0
        · simp only [memPut, if_neg h1, if_pos h2, if_pos hv]; exact memWfFrom_mono hm (by omega)
        · simp only [memPut, if_neg h1, if_pos h2, if_neg hv, memWfFrom, Bool.and_eq_true, decide_eq_true_eq]
          exact ⟨⟨hx, by simpa using hv⟩, by subst h2; exact hm⟩
      · simp only [memPut, if_neg h1, if_neg h2, memWfFrom, Bool.and_eq_true, decide_eq_true_eq]
        exact ⟨⟨ha, hb⟩, ih hm (by omega)⟩

/-- A write of one byte keeps the canonical form. -/
theorem memPut_wf {m : Memory} (x : Nat) (v : Byte) (h : m.wf = true) : (memPut m x v).wf = true :=
  memPut_wfFrom v h (Nat.zero_le x)

/-- A write of bytes keeps the canonical form. -/
theorem memWrite_wf {m : Memory} (x : Nat) (bs : List Byte) (h : m.wf = true) : (memWrite m x bs).wf = true := by
  induction bs generalizing m x with
  | nil => exact h
  | cons b bs ih => exact ih (x + 1) (memPut_wf x b h)

/-- The empty memory is in canonical form. -/
theorem wf_nil : Memory.wf [] = true := rfl

theorem memGet_memPut_other {x y : Nat} (m : Memory) (v : Byte) (h : y ≠ x) : memGet (memPut m x v) y = memGet m y := by
  induction m with
  | nil =>
    simp only [memPut]
    split
    · rfl
    · simp only [memGet, if_neg h]
  | cons p m ih =>
    obtain ⟨a, b⟩ := p
    simp only [memPut]
    split
    · split
      · rfl
      · simp only [memGet, if_neg h]
    · split
      · next h2 =>
        split
        · simp only [memGet, if_neg (show ¬ y = a by omega)]
        · simp only [memGet, if_neg h, if_neg (show ¬ y = a by omega)]
      · simp only [memGet, ih]

theorem memGet_memPut_same {lo x : Nat} {m : Memory} (v : Byte) (h : memWfFrom lo m = true) :
    memGet (memPut m x v) x = v := by
  induction m generalizing lo with
  | nil =>
    simp only [memPut]
    split
    · next hv => rw [hv]; rfl
    · simp only [memGet, if_true]
  | cons p m ih =>
    obtain ⟨a, b⟩ := p
    simp only [memWfFrom, Bool.and_eq_true, decide_eq_true_eq] at h
    simp only [memPut]
    split
    · next h1 =>
      split
      · next hv =>
        subst hv
        simp only [memGet, if_neg (show ¬ x = a by omega)]
        exact memGet_below h.2 (by omega)
      · simp only [memGet, if_true]
    · split
      · next h2 =>
        split
        · next hv => subst hv; subst h2; exact memGet_below h.2 (by omega)
        · simp only [memGet, if_true]
      · next h2 => simp only [memGet, if_neg h2]; exact ih h.2

/-- A byte outside those written reads as before. -/
theorem memGet_memWrite_other {y : Nat} (m : Memory) (x : Nat) (bs : List Byte) (h : y < x ∨ x + bs.length ≤ y) :
    memGet (memWrite m x bs) y = memGet m y := by
  induction bs generalizing m x with
  | nil => rfl
  | cons b bs ih =>
    simp only [List.length_cons] at h
    simp only [memWrite]
    rw [ih _ _ (by omega), memGet_memPut_other _ _ (by omega)]

/-- A byte written reads as the byte written. -/
theorem memGet_memWrite_same {m : Memory} {bs : List Byte} {x k : Nat} (h : m.wf = true) (hk : k < bs.length) :
    memGet (memWrite m x bs) (x + k) = bs[k] := by
  induction bs generalizing m x k with
  | nil => simp at hk
  | cons b bs ih =>
    simp only [memWrite]
    cases k with
    | zero =>
      rw [memGet_memWrite_other _ _ _ (by omega)]
      exact memGet_memPut_same b h
    | succ k =>
      have := ih (x := x + 1) (memPut_wf x b h) (Nat.lt_of_succ_lt_succ hk)
      simpa [Nat.add_assoc, Nat.add_comm 1 k] using this

/-- The first bytes written read back. -/
theorem memRead_memWrite {m : Memory} {bs : List Byte} {x n : Nat} (h : m.wf = true) (hn : n ≤ bs.length) :
    memRead (memWrite m x bs) x n = bs.take n := by
  refine List.ext_getElem (by simp [memRead, hn]) fun k h1 _ => ?_
  have hk : k < n := by simpa [memRead] using h1
  simp only [memRead, List.getElem_map, List.getElem_range, List.getElem_take]
  exact memGet_memWrite_same h (Nat.lt_of_lt_of_le hk hn)

end Sys2Proof.Machine
end

