-- ==== Sys2Proof/Laws/State.lean ====
section
/-!
SUPPORT. Laws/State.lean: what each update of State leaves alone (one lemma per field per update, true by rfl), and
that each table reads back what was written.
-/
set_option Elab.async false
namespace Sys2Proof.Machine

/-! ### setThr -/

@[simp] theorem setThr_coreNext (s : State) (k : Tid) (v : Thread) : (setThr s k v).coreNext = s.coreNext := rfl
@[simp] theorem setThr_engines (s : State) (k : Tid) (v : Thread) : (setThr s k v).engines = s.engines := rfl
@[simp] theorem setThr_inFlight (s : State) (k : Tid) (v : Thread) : (setThr s k v).inFlight = s.inFlight := rfl
@[simp] theorem setThr_updates (s : State) (k : Tid) (v : Thread) : (setThr s k v).updates = s.updates := rfl
@[simp] theorem setThr_allocWait (s : State) (k : Tid) (v : Thread) : (setThr s k v).allocWait = s.allocWait := rfl
@[simp] theorem setThr_graphs (s : State) (k : Tid) (v : Thread) : (setThr s k v).graphs = s.graphs := rfl
@[simp] theorem setThr_launches (s : State) (k : Tid) (v : Thread) : (setThr s k v).launches = s.launches := rfl
@[simp] theorem setThr_launchQs (s : State) (k : Tid) (v : Thread) : (setThr s k v).launchQs = s.launchQs := rfl
@[simp] theorem setThr_breaks (s : State) (k : Tid) (v : Thread) : (setThr s k v).breaks = s.breaks := rfl
@[simp] theorem setThr_sources (s : State) (k : Tid) (v : Thread) : (setThr s k v).sources = s.sources := rfl
@[simp] theorem setThr_tiles (s : State) (k : Tid) (v : Thread) : (setThr s k v).tiles = s.tiles := rfl
@[simp] theorem setThr_chunkWrites (s : State) (k : Tid) (v : Thread) : (setThr s k v).chunkWrites = s.chunkWrites := rfl
@[simp] theorem setThr_retires (s : State) (k : Tid) (v : Thread) : (setThr s k v).retires = s.retires := rfl
@[simp] theorem setThr_memTiles (s : State) (k : Tid) (v : Thread) : (setThr s k v).memTiles = s.memTiles := rfl
@[simp] theorem setThr_chans (s : State) (k : Tid) (v : Thread) : (setThr s k v).chans = s.chans := rfl
@[simp] theorem setThr_bars (s : State) (k : Tid) (v : Thread) : (setThr s k v).bars = s.bars := rfl
@[simp] theorem setThr_hbm (s : State) (k : Tid) (v : Thread) : (setThr s k v).hbm = s.hbm := rfl
@[simp] theorem setThr_l0 (s : State) (k : Tid) (v : Thread) : (setThr s k v).l0 = s.l0 := rfl
@[simp] theorem setThr_hostMem (s : State) (k : Tid) (v : Thread) : (setThr s k v).hostMem = s.hostMem := rfl
@[simp] theorem setThr_ecc (s : State) (k : Tid) (v : Thread) : (setThr s k v).ecc = s.ecc := rfl
@[simp] theorem setThr_eccL0 (s : State) (k : Tid) (v : Thread) : (setThr s k v).eccL0 = s.eccL0 := rfl
@[simp] theorem setThr_bankModes (s : State) (k : Tid) (v : Thread) : (setThr s k v).bankModes = s.bankModes := rfl
@[simp] theorem setThr_reqs (s : State) (k : Tid) (v : Thread) : (setThr s k v).reqs = s.reqs := rfl
@[simp] theorem setThr_watchHolds (s : State) (k : Tid) (v : Thread) : (setThr s k v).watchHolds = s.watchHolds := rfl
@[simp] theorem setThr_walks (s : State) (k : Tid) (v : Thread) : (setThr s k v).walks = s.walks := rfl
@[simp] theorem setThr_ranges (s : State) (k : Tid) (v : Thread) : (setThr s k v).ranges = s.ranges := rfl
@[simp] theorem setThr_xfers (s : State) (k : Tid) (v : Thread) : (setThr s k v).xfers = s.xfers := rfl
@[simp] theorem setThr_copies (s : State) (k : Tid) (v : Thread) : (setThr s k v).copies = s.copies := rfl
@[simp] theorem setThr_copyQs (s : State) (k : Tid) (v : Thread) : (setThr s k v).copyQs = s.copyQs := rfl
@[simp] theorem setThr_vtiles (s : State) (k : Tid) (v : Thread) : (setThr s k v).vtiles = s.vtiles := rfl
@[simp] theorem setThr_islands (s : State) (k : Tid) (v : Thread) : (setThr s k v).islands = s.islands := rfl
@[simp] theorem setThr_groups (s : State) (k : Tid) (v : Thread) : (setThr s k v).groups = s.groups := rfl
@[simp] theorem setThr_xunits (s : State) (k : Tid) (v : Thread) : (setThr s k v).xunits = s.xunits := rfl
@[simp] theorem setThr_streams (s : State) (k : Tid) (v : Thread) : (setThr s k v).streams = s.streams := rfl
@[simp] theorem setThr_lanes (s : State) (k : Tid) (v : Thread) : (setThr s k v).lanes = s.lanes := rfl
@[simp] theorem setThr_packets (s : State) (k : Tid) (v : Thread) : (setThr s k v).packets = s.packets := rfl
@[simp] theorem setThr_inbox (s : State) (k : Tid) (v : Thread) : (setThr s k v).inbox = s.inbox := rfl
@[simp] theorem setThr_straits (s : State) (k : Tid) (v : Thread) : (setThr s k v).straits = s.straits := rfl
@[simp] theorem setThr_acks (s : State) (k : Tid) (v : Thread) : (setThr s k v).acks = s.acks := rfl
@[simp] theorem setThr_nacks (s : State) (k : Tid) (v : Thread) : (setThr s k v).nacks = s.nacks := rfl
@[simp] theorem setThr_cables (s : State) (k : Tid) (v : Thread) : (setThr s k v).cables = s.cables := rfl
@[simp] theorem setThr_exits (s : State) (k : Tid) (v : Thread) : (setThr s k v).exits = s.exits := rfl
@[simp] theorem setThr_badPages (s : State) (k : Tid) (v : Thread) : (setThr s k v).badPages = s.badPages := rfl
@[simp] theorem setThr_partitions (s : State) (k : Tid) (v : Thread) : (setThr s k v).partitions = s.partitions := rfl
@[simp] theorem setThr_pageOwner (s : State) (k : Tid) (v : Thread) : (setThr s k v).pageOwner = s.pageOwner := rfl
@[simp] theorem setThr_pageOn (s : State) (k : Tid) (v : Thread) : (setThr s k v).pageOn = s.pageOn := rfl
@[simp] theorem setThr_barRuns (s : State) (k : Tid) (v : Thread) : (setThr s k v).barRuns = s.barRuns := rfl
@[simp] theorem setThr_quotas (s : State) (k : Tid) (v : Thread) : (setThr s k v).quotas = s.quotas := rfl
@[simp] theorem setThr_slotTabs (s : State) (k : Tid) (v : Thread) : (setThr s k v).slotTabs = s.slotTabs := rfl
@[simp] theorem setThr_wheels (s : State) (k : Tid) (v : Thread) : (setThr s k v).wheels = s.wheels := rfl
@[simp] theorem setThr_reports (s : State) (k : Tid) (v : Thread) : (setThr s k v).reports = s.reports := rfl
@[simp] theorem setThr_qmReports (s : State) (k : Tid) (v : Thread) : (setThr s k v).qmReports = s.qmReports := rfl
@[simp] theorem setThr_tlb (s : State) (k : Tid) (v : Thread) : (setThr s k v).tlb = s.tlb := rfl
@[simp] theorem setThr_stops (s : State) (k : Tid) (v : Thread) : (setThr s k v).stops = s.stops := rfl
@[simp] theorem setThr_traces (s : State) (k : Tid) (v : Thread) : (setThr s k v).traces = s.traces := rfl
@[simp] theorem setThr_watches (s : State) (k : Tid) (v : Thread) : (setThr s k v).watches = s.watches := rfl
@[simp] theorem setThr_fns (s : State) (k : Tid) (v : Thread) : (setThr s k v).fns = s.fns := rfl
@[simp] theorem setThr_packages (s : State) (k : Tid) (v : Thread) : (setThr s k v).packages = s.packages := rfl
@[simp] theorem setThr_agenda (s : State) (k : Tid) (v : Thread) : (setThr s k v).agenda = s.agenda := rfl
@[simp] theorem setThr_tick (s : State) (k : Tid) (v : Thread) : (setThr s k v).tick = s.tick := rfl
@[simp] theorem setThr_cur (s : State) (k : Tid) (v : Thread) : (setThr s k v).cur = s.cur := rfl
@[simp] theorem setThr_freeCount (s : State) (k : Tid) (v : Thread) : (setThr s k v).freeCount = s.freeCount := rfl
@[simp] theorem setThr_nextId (s : State) (k : Tid) (v : Thread) : (setThr s k v).nextId = s.nextId := rfl
@[simp] theorem setThr_threads (s : State) (k : Tid) (v : Thread) : (setThr s k v).threads = tset k v s.threads := rfl
@[simp] theorem getThr_setThr (s : State) (k : Tid) (v : Thread) : getThr (setThr s k v) k = v := by
  simp [getThr]
theorem getThr_setThr_other (s : State) {k j : Tid} (v : Thread) (h : j ≠ k) : getThr (setThr s k v) j = getThr s j :=
  tget_tset_other _ v s.threads h

/-! ### setEng -/

@[simp] theorem setEng_threads (s : State) (k : Eng) (v : Engine) : (setEng s k v).threads = s.threads := rfl
@[simp] theorem setEng_coreNext (s : State) (k : Eng) (v : Engine) : (setEng s k v).coreNext = s.coreNext := rfl
@[simp] theorem setEng_inFlight (s : State) (k : Eng) (v : Engine) : (setEng s k v).inFlight = s.inFlight := rfl
@[simp] theorem setEng_updates (s : State) (k : Eng) (v : Engine) : (setEng s k v).updates = s.updates := rfl
@[simp] theorem setEng_allocWait (s : State) (k : Eng) (v : Engine) : (setEng s k v).allocWait = s.allocWait := rfl
@[simp] theorem setEng_graphs (s : State) (k : Eng) (v : Engine) : (setEng s k v).graphs = s.graphs := rfl
@[simp] theorem setEng_launches (s : State) (k : Eng) (v : Engine) : (setEng s k v).launches = s.launches := rfl
@[simp] theorem setEng_launchQs (s : State) (k : Eng) (v : Engine) : (setEng s k v).launchQs = s.launchQs := rfl
@[simp] theorem setEng_breaks (s : State) (k : Eng) (v : Engine) : (setEng s k v).breaks = s.breaks := rfl
@[simp] theorem setEng_sources (s : State) (k : Eng) (v : Engine) : (setEng s k v).sources = s.sources := rfl
@[simp] theorem setEng_tiles (s : State) (k : Eng) (v : Engine) : (setEng s k v).tiles = s.tiles := rfl
@[simp] theorem setEng_chunkWrites (s : State) (k : Eng) (v : Engine) : (setEng s k v).chunkWrites = s.chunkWrites := rfl
@[simp] theorem setEng_retires (s : State) (k : Eng) (v : Engine) : (setEng s k v).retires = s.retires := rfl
@[simp] theorem setEng_memTiles (s : State) (k : Eng) (v : Engine) : (setEng s k v).memTiles = s.memTiles := rfl
@[simp] theorem setEng_chans (s : State) (k : Eng) (v : Engine) : (setEng s k v).chans = s.chans := rfl
@[simp] theorem setEng_bars (s : State) (k : Eng) (v : Engine) : (setEng s k v).bars = s.bars := rfl
@[simp] theorem setEng_hbm (s : State) (k : Eng) (v : Engine) : (setEng s k v).hbm = s.hbm := rfl
@[simp] theorem setEng_l0 (s : State) (k : Eng) (v : Engine) : (setEng s k v).l0 = s.l0 := rfl
@[simp] theorem setEng_hostMem (s : State) (k : Eng) (v : Engine) : (setEng s k v).hostMem = s.hostMem := rfl
@[simp] theorem setEng_ecc (s : State) (k : Eng) (v : Engine) : (setEng s k v).ecc = s.ecc := rfl
@[simp] theorem setEng_eccL0 (s : State) (k : Eng) (v : Engine) : (setEng s k v).eccL0 = s.eccL0 := rfl
@[simp] theorem setEng_bankModes (s : State) (k : Eng) (v : Engine) : (setEng s k v).bankModes = s.bankModes := rfl
@[simp] theorem setEng_reqs (s : State) (k : Eng) (v : Engine) : (setEng s k v).reqs = s.reqs := rfl
@[simp] theorem setEng_watchHolds (s : State) (k : Eng) (v : Engine) : (setEng s k v).watchHolds = s.watchHolds := rfl
@[simp] theorem setEng_walks (s : State) (k : Eng) (v : Engine) : (setEng s k v).walks = s.walks := rfl
@[simp] theorem setEng_ranges (s : State) (k : Eng) (v : Engine) : (setEng s k v).ranges = s.ranges := rfl
@[simp] theorem setEng_xfers (s : State) (k : Eng) (v : Engine) : (setEng s k v).xfers = s.xfers := rfl
@[simp] theorem setEng_copies (s : State) (k : Eng) (v : Engine) : (setEng s k v).copies = s.copies := rfl
@[simp] theorem setEng_copyQs (s : State) (k : Eng) (v : Engine) : (setEng s k v).copyQs = s.copyQs := rfl
@[simp] theorem setEng_vtiles (s : State) (k : Eng) (v : Engine) : (setEng s k v).vtiles = s.vtiles := rfl
@[simp] theorem setEng_islands (s : State) (k : Eng) (v : Engine) : (setEng s k v).islands = s.islands := rfl
@[simp] theorem setEng_groups (s : State) (k : Eng) (v : Engine) : (setEng s k v).groups = s.groups := rfl
@[simp] theorem setEng_xunits (s : State) (k : Eng) (v : Engine) : (setEng s k v).xunits = s.xunits := rfl
@[simp] theorem setEng_streams (s : State) (k : Eng) (v : Engine) : (setEng s k v).streams = s.streams := rfl
@[simp] theorem setEng_lanes (s : State) (k : Eng) (v : Engine) : (setEng s k v).lanes = s.lanes := rfl
@[simp] theorem setEng_packets (s : State) (k : Eng) (v : Engine) : (setEng s k v).packets = s.packets := rfl
@[simp] theorem setEng_inbox (s : State) (k : Eng) (v : Engine) : (setEng s k v).inbox = s.inbox := rfl
@[simp] theorem setEng_straits (s : State) (k : Eng) (v : Engine) : (setEng s k v).straits = s.straits := rfl
@[simp] theorem setEng_acks (s : State) (k : Eng) (v : Engine) : (setEng s k v).acks = s.acks := rfl
@[simp] theorem setEng_nacks (s : State) (k : Eng) (v : Engine) : (setEng s k v).nacks = s.nacks := rfl
@[simp] theorem setEng_cables (s : State) (k : Eng) (v : Engine) : (setEng s k v).cables = s.cables := rfl
@[simp] theorem setEng_exits (s : State) (k : Eng) (v : Engine) : (setEng s k v).exits = s.exits := rfl
@[simp] theorem setEng_badPages (s : State) (k : Eng) (v : Engine) : (setEng s k v).badPages = s.badPages := rfl
@[simp] theorem setEng_partitions (s : State) (k : Eng) (v : Engine) : (setEng s k v).partitions = s.partitions := rfl
@[simp] theorem setEng_pageOwner (s : State) (k : Eng) (v : Engine) : (setEng s k v).pageOwner = s.pageOwner := rfl
@[simp] theorem setEng_pageOn (s : State) (k : Eng) (v : Engine) : (setEng s k v).pageOn = s.pageOn := rfl
@[simp] theorem setEng_barRuns (s : State) (k : Eng) (v : Engine) : (setEng s k v).barRuns = s.barRuns := rfl
@[simp] theorem setEng_quotas (s : State) (k : Eng) (v : Engine) : (setEng s k v).quotas = s.quotas := rfl
@[simp] theorem setEng_slotTabs (s : State) (k : Eng) (v : Engine) : (setEng s k v).slotTabs = s.slotTabs := rfl
@[simp] theorem setEng_wheels (s : State) (k : Eng) (v : Engine) : (setEng s k v).wheels = s.wheels := rfl
@[simp] theorem setEng_reports (s : State) (k : Eng) (v : Engine) : (setEng s k v).reports = s.reports := rfl
@[simp] theorem setEng_qmReports (s : State) (k : Eng) (v : Engine) : (setEng s k v).qmReports = s.qmReports := rfl
@[simp] theorem setEng_tlb (s : State) (k : Eng) (v : Engine) : (setEng s k v).tlb = s.tlb := rfl
@[simp] theorem setEng_stops (s : State) (k : Eng) (v : Engine) : (setEng s k v).stops = s.stops := rfl
@[simp] theorem setEng_traces (s : State) (k : Eng) (v : Engine) : (setEng s k v).traces = s.traces := rfl
@[simp] theorem setEng_watches (s : State) (k : Eng) (v : Engine) : (setEng s k v).watches = s.watches := rfl
@[simp] theorem setEng_fns (s : State) (k : Eng) (v : Engine) : (setEng s k v).fns = s.fns := rfl
@[simp] theorem setEng_packages (s : State) (k : Eng) (v : Engine) : (setEng s k v).packages = s.packages := rfl
@[simp] theorem setEng_agenda (s : State) (k : Eng) (v : Engine) : (setEng s k v).agenda = s.agenda := rfl
@[simp] theorem setEng_tick (s : State) (k : Eng) (v : Engine) : (setEng s k v).tick = s.tick := rfl
@[simp] theorem setEng_cur (s : State) (k : Eng) (v : Engine) : (setEng s k v).cur = s.cur := rfl
@[simp] theorem setEng_freeCount (s : State) (k : Eng) (v : Engine) : (setEng s k v).freeCount = s.freeCount := rfl
@[simp] theorem setEng_nextId (s : State) (k : Eng) (v : Engine) : (setEng s k v).nextId = s.nextId := rfl
@[simp] theorem setEng_engines (s : State) (k : Eng) (v : Engine) : (setEng s k v).engines = tset k v s.engines := rfl
@[simp] theorem getEng_setEng (s : State) (k : Eng) (v : Engine) : getEng (setEng s k v) k = v := by
  simp [getEng]
theorem getEng_setEng_other (s : State) {k j : Eng} (v : Engine) (h : j ≠ k) : getEng (setEng s k v) j = getEng s j :=
  tget_tset_other _ v s.engines h

/-! ### setTile -/

@[simp] theorem setTile_threads (s : State) (k : TileId) (v : Tile) : (setTile s k v).threads = s.threads := rfl
@[simp] theorem setTile_coreNext (s : State) (k : TileId) (v : Tile) : (setTile s k v).coreNext = s.coreNext := rfl
@[simp] theorem setTile_engines (s : State) (k : TileId) (v : Tile) : (setTile s k v).engines = s.engines := rfl
@[simp] theorem setTile_inFlight (s : State) (k : TileId) (v : Tile) : (setTile s k v).inFlight = s.inFlight := rfl
@[simp] theorem setTile_updates (s : State) (k : TileId) (v : Tile) : (setTile s k v).updates = s.updates := rfl
@[simp] theorem setTile_allocWait (s : State) (k : TileId) (v : Tile) : (setTile s k v).allocWait = s.allocWait := rfl
@[simp] theorem setTile_graphs (s : State) (k : TileId) (v : Tile) : (setTile s k v).graphs = s.graphs := rfl
@[simp] theorem setTile_launches (s : State) (k : TileId) (v : Tile) : (setTile s k v).launches = s.launches := rfl
@[simp] theorem setTile_launchQs (s : State) (k : TileId) (v : Tile) : (setTile s k v).launchQs = s.launchQs := rfl
@[simp] theorem setTile_breaks (s : State) (k : TileId) (v : Tile) : (setTile s k v).breaks = s.breaks := rfl
@[simp] theorem setTile_sources (s : State) (k : TileId) (v : Tile) : (setTile s k v).sources = s.sources := rfl
@[simp] theorem setTile_chunkWrites (s : State) (k : TileId) (v : Tile) : (setTile s k v).chunkWrites = s.chunkWrites := rfl
@[simp] theorem setTile_retires (s : State) (k : TileId) (v : Tile) : (setTile s k v).retires = s.retires := rfl
@[simp] theorem setTile_memTiles (s : State) (k : TileId) (v : Tile) : (setTile s k v).memTiles = s.memTiles := rfl
@[simp] theorem setTile_chans (s : State) (k : TileId) (v : Tile) : (setTile s k v).chans = s.chans := rfl
@[simp] theorem setTile_bars (s : State) (k : TileId) (v : Tile) : (setTile s k v).bars = s.bars := rfl
@[simp] theorem setTile_hbm (s : State) (k : TileId) (v : Tile) : (setTile s k v).hbm = s.hbm := rfl
@[simp] theorem setTile_l0 (s : State) (k : TileId) (v : Tile) : (setTile s k v).l0 = s.l0 := rfl
@[simp] theorem setTile_hostMem (s : State) (k : TileId) (v : Tile) : (setTile s k v).hostMem = s.hostMem := rfl
@[simp] theorem setTile_ecc (s : State) (k : TileId) (v : Tile) : (setTile s k v).ecc = s.ecc := rfl
@[simp] theorem setTile_eccL0 (s : State) (k : TileId) (v : Tile) : (setTile s k v).eccL0 = s.eccL0 := rfl
@[simp] theorem setTile_bankModes (s : State) (k : TileId) (v : Tile) : (setTile s k v).bankModes = s.bankModes := rfl
@[simp] theorem setTile_reqs (s : State) (k : TileId) (v : Tile) : (setTile s k v).reqs = s.reqs := rfl
@[simp] theorem setTile_watchHolds (s : State) (k : TileId) (v : Tile) : (setTile s k v).watchHolds = s.watchHolds := rfl
@[simp] theorem setTile_walks (s : State) (k : TileId) (v : Tile) : (setTile s k v).walks = s.walks := rfl
@[simp] theorem setTile_ranges (s : State) (k : TileId) (v : Tile) : (setTile s k v).ranges = s.ranges := rfl
@[simp] theorem setTile_xfers (s : State) (k : TileId) (v : Tile) : (setTile s k v).xfers = s.xfers := rfl
@[simp] theorem setTile_copies (s : State) (k : TileId) (v : Tile) : (setTile s k v).copies = s.copies := rfl
@[simp] theorem setTile_copyQs (s : State) (k : TileId) (v : Tile) : (setTile s k v).copyQs = s.copyQs := rfl
@[simp] theorem setTile_vtiles (s : State) (k : TileId) (v : Tile) : (setTile s k v).vtiles = s.vtiles := rfl
@[simp] theorem setTile_islands (s : State) (k : TileId) (v : Tile) : (setTile s k v).islands = s.islands := rfl
@[simp] theorem setTile_groups (s : State) (k : TileId) (v : Tile) : (setTile s k v).groups = s.groups := rfl
@[simp] theorem setTile_xunits (s : State) (k : TileId) (v : Tile) : (setTile s k v).xunits = s.xunits := rfl
@[simp] theorem setTile_streams (s : State) (k : TileId) (v : Tile) : (setTile s k v).streams = s.streams := rfl
@[simp] theorem setTile_lanes (s : State) (k : TileId) (v : Tile) : (setTile s k v).lanes = s.lanes := rfl
@[simp] theorem setTile_packets (s : State) (k : TileId) (v : Tile) : (setTile s k v).packets = s.packets := rfl
@[simp] theorem setTile_inbox (s : State) (k : TileId) (v : Tile) : (setTile s k v).inbox = s.inbox := rfl
@[simp] theorem setTile_straits (s : State) (k : TileId) (v : Tile) : (setTile s k v).straits = s.straits := rfl
@[simp] theorem setTile_acks (s : State) (k : TileId) (v : Tile) : (setTile s k v).acks = s.acks := rfl
@[simp] theorem setTile_nacks (s : State) (k : TileId) (v : Tile) : (setTile s k v).nacks = s.nacks := rfl
@[simp] theorem setTile_cables (s : State) (k : TileId) (v : Tile) : (setTile s k v).cables = s.cables := rfl
@[simp] theorem setTile_exits (s : State) (k : TileId) (v : Tile) : (setTile s k v).exits = s.exits := rfl
@[simp] theorem setTile_badPages (s : State) (k : TileId) (v : Tile) : (setTile s k v).badPages = s.badPages := rfl
@[simp] theorem setTile_partitions (s : State) (k : TileId) (v : Tile) : (setTile s k v).partitions = s.partitions := rfl
@[simp] theorem setTile_pageOwner (s : State) (k : TileId) (v : Tile) : (setTile s k v).pageOwner = s.pageOwner := rfl
@[simp] theorem setTile_pageOn (s : State) (k : TileId) (v : Tile) : (setTile s k v).pageOn = s.pageOn := rfl
@[simp] theorem setTile_barRuns (s : State) (k : TileId) (v : Tile) : (setTile s k v).barRuns = s.barRuns := rfl
@[simp] theorem setTile_quotas (s : State) (k : TileId) (v : Tile) : (setTile s k v).quotas = s.quotas := rfl
@[simp] theorem setTile_slotTabs (s : State) (k : TileId) (v : Tile) : (setTile s k v).slotTabs = s.slotTabs := rfl
@[simp] theorem setTile_wheels (s : State) (k : TileId) (v : Tile) : (setTile s k v).wheels = s.wheels := rfl
@[simp] theorem setTile_reports (s : State) (k : TileId) (v : Tile) : (setTile s k v).reports = s.reports := rfl
@[simp] theorem setTile_qmReports (s : State) (k : TileId) (v : Tile) : (setTile s k v).qmReports = s.qmReports := rfl
@[simp] theorem setTile_tlb (s : State) (k : TileId) (v : Tile) : (setTile s k v).tlb = s.tlb := rfl
@[simp] theorem setTile_stops (s : State) (k : TileId) (v : Tile) : (setTile s k v).stops = s.stops := rfl
@[simp] theorem setTile_traces (s : State) (k : TileId) (v : Tile) : (setTile s k v).traces = s.traces := rfl
@[simp] theorem setTile_watches (s : State) (k : TileId) (v : Tile) : (setTile s k v).watches = s.watches := rfl
@[simp] theorem setTile_fns (s : State) (k : TileId) (v : Tile) : (setTile s k v).fns = s.fns := rfl
@[simp] theorem setTile_packages (s : State) (k : TileId) (v : Tile) : (setTile s k v).packages = s.packages := rfl
@[simp] theorem setTile_agenda (s : State) (k : TileId) (v : Tile) : (setTile s k v).agenda = s.agenda := rfl
@[simp] theorem setTile_tick (s : State) (k : TileId) (v : Tile) : (setTile s k v).tick = s.tick := rfl
@[simp] theorem setTile_cur (s : State) (k : TileId) (v : Tile) : (setTile s k v).cur = s.cur := rfl
@[simp] theorem setTile_freeCount (s : State) (k : TileId) (v : Tile) : (setTile s k v).freeCount = s.freeCount := rfl
@[simp] theorem setTile_nextId (s : State) (k : TileId) (v : Tile) : (setTile s k v).nextId = s.nextId := rfl
@[simp] theorem setTile_tiles (s : State) (k : TileId) (v : Tile) : (setTile s k v).tiles = tset k v s.tiles := rfl
@[simp] theorem getTile_setTile (s : State) (k : TileId) (v : Tile) : getTile (setTile s k v) k = v := by
  simp [getTile]
theorem getTile_setTile_other (s : State) {k j : TileId} (v : Tile) (h : j ≠ k) : getTile (setTile s k v) j = getTile s j :=
  tget_tset_other _ v s.tiles h

/-! ### setMemTile -/

@[simp] theorem setMemTile_threads (s : State) (k : Eng) (v : MemTile) : (setMemTile s k v).threads = s.threads := rfl
@[simp] theorem setMemTile_coreNext (s : State) (k : Eng) (v : MemTile) : (setMemTile s k v).coreNext = s.coreNext := rfl
@[simp] theorem setMemTile_engines (s : State) (k : Eng) (v : MemTile) : (setMemTile s k v).engines = s.engines := rfl
@[simp] theorem setMemTile_inFlight (s : State) (k : Eng) (v : MemTile) : (setMemTile s k v).inFlight = s.inFlight := rfl
@[simp] theorem setMemTile_updates (s : State) (k : Eng) (v : MemTile) : (setMemTile s k v).updates = s.updates := rfl
@[simp] theorem setMemTile_allocWait (s : State) (k : Eng) (v : MemTile) : (setMemTile s k v).allocWait = s.allocWait := rfl
@[simp] theorem setMemTile_graphs (s : State) (k : Eng) (v : MemTile) : (setMemTile s k v).graphs = s.graphs := rfl
@[simp] theorem setMemTile_launches (s : State) (k : Eng) (v : MemTile) : (setMemTile s k v).launches = s.launches := rfl
@[simp] theorem setMemTile_launchQs (s : State) (k : Eng) (v : MemTile) : (setMemTile s k v).launchQs = s.launchQs := rfl
@[simp] theorem setMemTile_breaks (s : State) (k : Eng) (v : MemTile) : (setMemTile s k v).breaks = s.breaks := rfl
@[simp] theorem setMemTile_sources (s : State) (k : Eng) (v : MemTile) : (setMemTile s k v).sources = s.sources := rfl
@[simp] theorem setMemTile_tiles (s : State) (k : Eng) (v : MemTile) : (setMemTile s k v).tiles = s.tiles := rfl
@[simp] theorem setMemTile_chunkWrites (s : State) (k : Eng) (v : MemTile) : (setMemTile s k v).chunkWrites = s.chunkWrites := rfl
@[simp] theorem setMemTile_retires (s : State) (k : Eng) (v : MemTile) : (setMemTile s k v).retires = s.retires := rfl
@[simp] theorem setMemTile_chans (s : State) (k : Eng) (v : MemTile) : (setMemTile s k v).chans = s.chans := rfl
@[simp] theorem setMemTile_bars (s : State) (k : Eng) (v : MemTile) : (setMemTile s k v).bars = s.bars := rfl
@[simp] theorem setMemTile_hbm (s : State) (k : Eng) (v : MemTile) : (setMemTile s k v).hbm = s.hbm := rfl
@[simp] theorem setMemTile_l0 (s : State) (k : Eng) (v : MemTile) : (setMemTile s k v).l0 = s.l0 := rfl
@[simp] theorem setMemTile_hostMem (s : State) (k : Eng) (v : MemTile) : (setMemTile s k v).hostMem = s.hostMem := rfl
@[simp] theorem setMemTile_ecc (s : State) (k : Eng) (v : MemTile) : (setMemTile s k v).ecc = s.ecc := rfl
@[simp] theorem setMemTile_eccL0 (s : State) (k : Eng) (v : MemTile) : (setMemTile s k v).eccL0 = s.eccL0 := rfl
@[simp] theorem setMemTile_bankModes (s : State) (k : Eng) (v : MemTile) : (setMemTile s k v).bankModes = s.bankModes := rfl
@[simp] theorem setMemTile_reqs (s : State) (k : Eng) (v : MemTile) : (setMemTile s k v).reqs = s.reqs := rfl
@[simp] theorem setMemTile_watchHolds (s : State) (k : Eng) (v : MemTile) : (setMemTile s k v).watchHolds = s.watchHolds := rfl
@[simp] theorem setMemTile_walks (s : State) (k : Eng) (v : MemTile) : (setMemTile s k v).walks = s.walks := rfl
@[simp] theorem setMemTile_ranges (s : State) (k : Eng) (v : MemTile) : (setMemTile s k v).ranges = s.ranges := rfl
@[simp] theorem setMemTile_xfers (s : State) (k : Eng) (v : MemTile) : (setMemTile s k v).xfers = s.xfers := rfl
@[simp] theorem setMemTile_copies (s : State) (k : Eng) (v : MemTile) : (setMemTile s k v).copies = s.copies := rfl
@[simp] theorem setMemTile_copyQs (s : State) (k : Eng) (v : MemTile) : (setMemTile s k v).copyQs = s.copyQs := rfl
@[simp] theorem setMemTile_vtiles (s : State) (k : Eng) (v : MemTile) : (setMemTile s k v).vtiles = s.vtiles := rfl
@[simp] theorem setMemTile_islands (s : State) (k : Eng) (v : MemTile) : (setMemTile s k v).islands = s.islands := rfl
@[simp] theorem setMemTile_groups (s : State) (k : Eng) (v : MemTile) : (setMemTile s k v).groups = s.groups := rfl
@[simp] theorem setMemTile_xunits (s : State) (k : Eng) (v : MemTile) : (setMemTile s k v).xunits = s.xunits := rfl
@[simp] theorem setMemTile_streams (s : State) (k : Eng) (v : MemTile) : (setMemTile s k v).streams = s.streams := rfl
@[simp] theorem setMemTile_lanes (s : State) (k : Eng) (v : MemTile) : (setMemTile s k v).lanes = s.lanes := rfl
@[simp] theorem setMemTile_packets (s : State) (k : Eng) (v : MemTile) : (setMemTile s k v).packets = s.packets := rfl
@[simp] theorem setMemTile_inbox (s : State) (k : Eng) (v : MemTile) : (setMemTile s k v).inbox = s.inbox := rfl
@[simp] theorem setMemTile_straits (s : State) (k : Eng) (v : MemTile) : (setMemTile s k v).straits = s.straits := rfl
@[simp] theorem setMemTile_acks (s : State) (k : Eng) (v : MemTile) : (setMemTile s k v).acks = s.acks := rfl
@[simp] theorem setMemTile_nacks (s : State) (k : Eng) (v : MemTile) : (setMemTile s k v).nacks = s.nacks := rfl
@[simp] theorem setMemTile_cables (s : State) (k : Eng) (v : MemTile) : (setMemTile s k v).cables = s.cables := rfl
@[simp] theorem setMemTile_exits (s : State) (k : Eng) (v : MemTile) : (setMemTile s k v).exits = s.exits := rfl
@[simp] theorem setMemTile_badPages (s : State) (k : Eng) (v : MemTile) : (setMemTile s k v).badPages = s.badPages := rfl
@[simp] theorem setMemTile_partitions (s : State) (k : Eng) (v : MemTile) : (setMemTile s k v).partitions = s.partitions := rfl
@[simp] theorem setMemTile_pageOwner (s : State) (k : Eng) (v : MemTile) : (setMemTile s k v).pageOwner = s.pageOwner := rfl
@[simp] theorem setMemTile_pageOn (s : State) (k : Eng) (v : MemTile) : (setMemTile s k v).pageOn = s.pageOn := rfl
@[simp] theorem setMemTile_barRuns (s : State) (k : Eng) (v : MemTile) : (setMemTile s k v).barRuns = s.barRuns := rfl
@[simp] theorem setMemTile_quotas (s : State) (k : Eng) (v : MemTile) : (setMemTile s k v).quotas = s.quotas := rfl
@[simp] theorem setMemTile_slotTabs (s : State) (k : Eng) (v : MemTile) : (setMemTile s k v).slotTabs = s.slotTabs := rfl
@[simp] theorem setMemTile_wheels (s : State) (k : Eng) (v : MemTile) : (setMemTile s k v).wheels = s.wheels := rfl
@[simp] theorem setMemTile_reports (s : State) (k : Eng) (v : MemTile) : (setMemTile s k v).reports = s.reports := rfl
@[simp] theorem setMemTile_qmReports (s : State) (k : Eng) (v : MemTile) : (setMemTile s k v).qmReports = s.qmReports := rfl
@[simp] theorem setMemTile_tlb (s : State) (k : Eng) (v : MemTile) : (setMemTile s k v).tlb = s.tlb := rfl
@[simp] theorem setMemTile_stops (s : State) (k : Eng) (v : MemTile) : (setMemTile s k v).stops = s.stops := rfl
@[simp] theorem setMemTile_traces (s : State) (k : Eng) (v : MemTile) : (setMemTile s k v).traces = s.traces := rfl
@[simp] theorem setMemTile_watches (s : State) (k : Eng) (v : MemTile) : (setMemTile s k v).watches = s.watches := rfl
@[simp] theorem setMemTile_fns (s : State) (k : Eng) (v : MemTile) : (setMemTile s k v).fns = s.fns := rfl
@[simp] theorem setMemTile_packages (s : State) (k : Eng) (v : MemTile) : (setMemTile s k v).packages = s.packages := rfl
@[simp] theorem setMemTile_agenda (s : State) (k : Eng) (v : MemTile) : (setMemTile s k v).agenda = s.agenda := rfl
@[simp] theorem setMemTile_tick (s : State) (k : Eng) (v : MemTile) : (setMemTile s k v).tick = s.tick := rfl
@[simp] theorem setMemTile_cur (s : State) (k : Eng) (v : MemTile) : (setMemTile s k v).cur = s.cur := rfl
@[simp] theorem setMemTile_freeCount (s : State) (k : Eng) (v : MemTile) : (setMemTile s k v).freeCount = s.freeCount := rfl
@[simp] theorem setMemTile_nextId (s : State) (k : Eng) (v : MemTile) : (setMemTile s k v).nextId = s.nextId := rfl
@[simp] theorem setMemTile_memTiles (s : State) (k : Eng) (v : MemTile) : (setMemTile s k v).memTiles = tset k v s.memTiles := rfl
@[simp] theorem getMemTile_setMemTile (s : State) (k : Eng) (v : MemTile) : getMemTile (setMemTile s k v) k = v := by
  simp [getMemTile]
theorem getMemTile_setMemTile_other (s : State) {k j : Eng} (v : MemTile) (h : j ≠ k) : getMemTile (setMemTile s k v) j = getMemTile s j :=
  tget_tset_other _ v s.memTiles h

/-! ### setChan -/

@[simp] theorem setChan_threads (s : State) (k : Nat × Nat × Nat) (v : Chan) : (setChan s k v).threads = s.threads := rfl
@[simp] theorem setChan_coreNext (s : State) (k : Nat × Nat × Nat) (v : Chan) : (setChan s k v).coreNext = s.coreNext := rfl
@[simp] theorem setChan_engines (s : State) (k : Nat × Nat × Nat) (v : Chan) : (setChan s k v).engines = s.engines := rfl
@[simp] theorem setChan_inFlight (s : State) (k : Nat × Nat × Nat) (v : Chan) : (setChan s k v).inFlight = s.inFlight := rfl
@[simp] theorem setChan_updates (s : State) (k : Nat × Nat × Nat) (v : Chan) : (setChan s k v).updates = s.updates := rfl
@[simp] theorem setChan_allocWait (s : State) (k : Nat × Nat × Nat) (v : Chan) : (setChan s k v).allocWait = s.allocWait := rfl
@[simp] theorem setChan_graphs (s : State) (k : Nat × Nat × Nat) (v : Chan) : (setChan s k v).graphs = s.graphs := rfl
@[simp] theorem setChan_launches (s : State) (k : Nat × Nat × Nat) (v : Chan) : (setChan s k v).launches = s.launches := rfl
@[simp] theorem setChan_launchQs (s : State) (k : Nat × Nat × Nat) (v : Chan) : (setChan s k v).launchQs = s.launchQs := rfl
@[simp] theorem setChan_breaks (s : State) (k : Nat × Nat × Nat) (v : Chan) : (setChan s k v).breaks = s.breaks := rfl
@[simp] theorem setChan_sources (s : State) (k : Nat × Nat × Nat) (v : Chan) : (setChan s k v).sources = s.sources := rfl
@[simp] theorem setChan_tiles (s : State) (k : Nat × Nat × Nat) (v : Chan) : (setChan s k v).tiles = s.tiles := rfl
@[simp] theorem setChan_chunkWrites (s : State) (k : Nat × Nat × Nat) (v : Chan) : (setChan s k v).chunkWrites = s.chunkWrites := rfl
@[simp] theorem setChan_retires (s : State) (k : Nat × Nat × Nat) (v : Chan) : (setChan s k v).retires = s.retires := rfl
@[simp] theorem setChan_memTiles (s : State) (k : Nat × Nat × Nat) (v : Chan) : (setChan s k v).memTiles = s.memTiles := rfl
@[simp] theorem setChan_bars (s : State) (k : Nat × Nat × Nat) (v : Chan) : (setChan s k v).bars = s.bars := rfl
@[simp] theorem setChan_hbm (s : State) (k : Nat × Nat × Nat) (v : Chan) : (setChan s k v).hbm = s.hbm := rfl
@[simp] theorem setChan_l0 (s : State) (k : Nat × Nat × Nat) (v : Chan) : (setChan s k v).l0 = s.l0 := rfl
@[simp] theorem setChan_hostMem (s : State) (k : Nat × Nat × Nat) (v : Chan) : (setChan s k v).hostMem = s.hostMem := rfl
@[simp] theorem setChan_ecc (s : State) (k : Nat × Nat × Nat) (v : Chan) : (setChan s k v).ecc = s.ecc := rfl
@[simp] theorem setChan_eccL0 (s : State) (k : Nat × Nat × Nat) (v : Chan) : (setChan s k v).eccL0 = s.eccL0 := rfl
@[simp] theorem setChan_bankModes (s : State) (k : Nat × Nat × Nat) (v : Chan) : (setChan s k v).bankModes = s.bankModes := rfl
@[simp] theorem setChan_reqs (s : State) (k : Nat × Nat × Nat) (v : Chan) : (setChan s k v).reqs = s.reqs := rfl
@[simp] theorem setChan_watchHolds (s : State) (k : Nat × Nat × Nat) (v : Chan) : (setChan s k v).watchHolds = s.watchHolds := rfl
@[simp] theorem setChan_walks (s : State) (k : Nat × Nat × Nat) (v : Chan) : (setChan s k v).walks = s.walks := rfl
@[simp] theorem setChan_ranges (s : State) (k : Nat × Nat × Nat) (v : Chan) : (setChan s k v).ranges = s.ranges := rfl
@[simp] theorem setChan_xfers (s : State) (k : Nat × Nat × Nat) (v : Chan) : (setChan s k v).xfers = s.xfers := rfl
@[simp] theorem setChan_copies (s : State) (k : Nat × Nat × Nat) (v : Chan) : (setChan s k v).copies = s.copies := rfl
@[simp] theorem setChan_copyQs (s : State) (k : Nat × Nat × Nat) (v : Chan) : (setChan s k v).copyQs = s.copyQs := rfl
@[simp] theorem setChan_vtiles (s : State) (k : Nat × Nat × Nat) (v : Chan) : (setChan s k v).vtiles = s.vtiles := rfl
@[simp] theorem setChan_islands (s : State) (k : Nat × Nat × Nat) (v : Chan) : (setChan s k v).islands = s.islands := rfl
@[simp] theorem setChan_groups (s : State) (k : Nat × Nat × Nat) (v : Chan) : (setChan s k v).groups = s.groups := rfl
@[simp] theorem setChan_xunits (s : State) (k : Nat × Nat × Nat) (v : Chan) : (setChan s k v).xunits = s.xunits := rfl
@[simp] theorem setChan_streams (s : State) (k : Nat × Nat × Nat) (v : Chan) : (setChan s k v).streams = s.streams := rfl
@[simp] theorem setChan_lanes (s : State) (k : Nat × Nat × Nat) (v : Chan) : (setChan s k v).lanes = s.lanes := rfl
@[simp] theorem setChan_packets (s : State) (k : Nat × Nat × Nat) (v : Chan) : (setChan s k v).packets = s.packets := rfl
@[simp] theorem setChan_inbox (s : State) (k : Nat × Nat × Nat) (v : Chan) : (setChan s k v).inbox = s.inbox := rfl
@[simp] theorem setChan_straits (s : State) (k : Nat × Nat × Nat) (v : Chan) : (setChan s k v).straits = s.straits := rfl
@[simp] theorem setChan_acks (s : State) (k : Nat × Nat × Nat) (v : Chan) : (setChan s k v).acks = s.acks := rfl
@[simp] theorem setChan_nacks (s : State) (k : Nat × Nat × Nat) (v : Chan) : (setChan s k v).nacks = s.nacks := rfl
@[simp] theorem setChan_cables (s : State) (k : Nat × Nat × Nat) (v : Chan) : (setChan s k v).cables = s.cables := rfl
@[simp] theorem setChan_exits (s : State) (k : Nat × Nat × Nat) (v : Chan) : (setChan s k v).exits = s.exits := rfl
@[simp] theorem setChan_badPages (s : State) (k : Nat × Nat × Nat) (v : Chan) : (setChan s k v).badPages = s.badPages := rfl
@[simp] theorem setChan_partitions (s : State) (k : Nat × Nat × Nat) (v : Chan) : (setChan s k v).partitions = s.partitions := rfl
@[simp] theorem setChan_pageOwner (s : State) (k : Nat × Nat × Nat) (v : Chan) : (setChan s k v).pageOwner = s.pageOwner := rfl
@[simp] theorem setChan_pageOn (s : State) (k : Nat × Nat × Nat) (v : Chan) : (setChan s k v).pageOn = s.pageOn := rfl
@[simp] theorem setChan_barRuns (s : State) (k : Nat × Nat × Nat) (v : Chan) : (setChan s k v).barRuns = s.barRuns := rfl
@[simp] theorem setChan_quotas (s : State) (k : Nat × Nat × Nat) (v : Chan) : (setChan s k v).quotas = s.quotas := rfl
@[simp] theorem setChan_slotTabs (s : State) (k : Nat × Nat × Nat) (v : Chan) : (setChan s k v).slotTabs = s.slotTabs := rfl
@[simp] theorem setChan_wheels (s : State) (k : Nat × Nat × Nat) (v : Chan) : (setChan s k v).wheels = s.wheels := rfl
@[simp] theorem setChan_reports (s : State) (k : Nat × Nat × Nat) (v : Chan) : (setChan s k v).reports = s.reports := rfl
@[simp] theorem setChan_qmReports (s : State) (k : Nat × Nat × Nat) (v : Chan) : (setChan s k v).qmReports = s.qmReports := rfl
@[simp] theorem setChan_tlb (s : State) (k : Nat × Nat × Nat) (v : Chan) : (setChan s k v).tlb = s.tlb := rfl
@[simp] theorem setChan_stops (s : State) (k : Nat × Nat × Nat) (v : Chan) : (setChan s k v).stops = s.stops := rfl
@[simp] theorem setChan_traces (s : State) (k : Nat × Nat × Nat) (v : Chan) : (setChan s k v).traces = s.traces := rfl
@[simp] theorem setChan_watches (s : State) (k : Nat × Nat × Nat) (v : Chan) : (setChan s k v).watches = s.watches := rfl
@[simp] theorem setChan_fns (s : State) (k : Nat × Nat × Nat) (v : Chan) : (setChan s k v).fns = s.fns := rfl
@[simp] theorem setChan_packages (s : State) (k : Nat × Nat × Nat) (v : Chan) : (setChan s k v).packages = s.packages := rfl
@[simp] theorem setChan_agenda (s : State) (k : Nat × Nat × Nat) (v : Chan) : (setChan s k v).agenda = s.agenda := rfl
@[simp] theorem setChan_tick (s : State) (k : Nat × Nat × Nat) (v : Chan) : (setChan s k v).tick = s.tick := rfl
@[simp] theorem setChan_cur (s : State) (k : Nat × Nat × Nat) (v : Chan) : (setChan s k v).cur = s.cur := rfl
@[simp] theorem setChan_freeCount (s : State) (k : Nat × Nat × Nat) (v : Chan) : (setChan s k v).freeCount = s.freeCount := rfl
@[simp] theorem setChan_nextId (s : State) (k : Nat × Nat × Nat) (v : Chan) : (setChan s k v).nextId = s.nextId := rfl
@[simp] theorem setChan_chans (s : State) (k : Nat × Nat × Nat) (v : Chan) : (setChan s k v).chans = tset k v s.chans := rfl
@[simp] theorem getChan_setChan (s : State) (k : Nat × Nat × Nat) (v : Chan) : getChan (setChan s k v) k = v := by
  simp [getChan]
theorem getChan_setChan_other (s : State) {k j : Nat × Nat × Nat} (v : Chan) (h : j ≠ k) : getChan (setChan s k v) j = getChan s j :=
  tget_tset_other _ v s.chans h

/-! ### setBar -/

@[simp] theorem setBar_threads (s : State) (k : Nat × Nat × Nat) (v : Barrier) : (setBar s k v).threads = s.threads := rfl
@[simp] theorem setBar_coreNext (s : State) (k : Nat × Nat × Nat) (v : Barrier) : (setBar s k v).coreNext = s.coreNext := rfl
@[simp] theorem setBar_engines (s : State) (k : Nat × Nat × Nat) (v : Barrier) : (setBar s k v).engines = s.engines := rfl
@[simp] theorem setBar_inFlight (s : State) (k : Nat × Nat × Nat) (v : Barrier) : (setBar s k v).inFlight = s.inFlight := rfl
@[simp] theorem setBar_updates (s : State) (k : Nat × Nat × Nat) (v : Barrier) : (setBar s k v).updates = s.updates := rfl
@[simp] theorem setBar_allocWait (s : State) (k : Nat × Nat × Nat) (v : Barrier) : (setBar s k v).allocWait = s.allocWait := rfl
@[simp] theorem setBar_graphs (s : State) (k : Nat × Nat × Nat) (v : Barrier) : (setBar s k v).graphs = s.graphs := rfl
@[simp] theorem setBar_launches (s : State) (k : Nat × Nat × Nat) (v : Barrier) : (setBar s k v).launches = s.launches := rfl
@[simp] theorem setBar_launchQs (s : State) (k : Nat × Nat × Nat) (v : Barrier) : (setBar s k v).launchQs = s.launchQs := rfl
@[simp] theorem setBar_breaks (s : State) (k : Nat × Nat × Nat) (v : Barrier) : (setBar s k v).breaks = s.breaks := rfl
@[simp] theorem setBar_sources (s : State) (k : Nat × Nat × Nat) (v : Barrier) : (setBar s k v).sources = s.sources := rfl
@[simp] theorem setBar_tiles (s : State) (k : Nat × Nat × Nat) (v : Barrier) : (setBar s k v).tiles = s.tiles := rfl
@[simp] theorem setBar_chunkWrites (s : State) (k : Nat × Nat × Nat) (v : Barrier) : (setBar s k v).chunkWrites = s.chunkWrites := rfl
@[simp] theorem setBar_retires (s : State) (k : Nat × Nat × Nat) (v : Barrier) : (setBar s k v).retires = s.retires := rfl
@[simp] theorem setBar_memTiles (s : State) (k : Nat × Nat × Nat) (v : Barrier) : (setBar s k v).memTiles = s.memTiles := rfl
@[simp] theorem setBar_chans (s : State) (k : Nat × Nat × Nat) (v : Barrier) : (setBar s k v).chans = s.chans := rfl
@[simp] theorem setBar_hbm (s : State) (k : Nat × Nat × Nat) (v : Barrier) : (setBar s k v).hbm = s.hbm := rfl
@[simp] theorem setBar_l0 (s : State) (k : Nat × Nat × Nat) (v : Barrier) : (setBar s k v).l0 = s.l0 := rfl
@[simp] theorem setBar_hostMem (s : State) (k : Nat × Nat × Nat) (v : Barrier) : (setBar s k v).hostMem = s.hostMem := rfl
@[simp] theorem setBar_ecc (s : State) (k : Nat × Nat × Nat) (v : Barrier) : (setBar s k v).ecc = s.ecc := rfl
@[simp] theorem setBar_eccL0 (s : State) (k : Nat × Nat × Nat) (v : Barrier) : (setBar s k v).eccL0 = s.eccL0 := rfl
@[simp] theorem setBar_bankModes (s : State) (k : Nat × Nat × Nat) (v : Barrier) : (setBar s k v).bankModes = s.bankModes := rfl
@[simp] theorem setBar_reqs (s : State) (k : Nat × Nat × Nat) (v : Barrier) : (setBar s k v).reqs = s.reqs := rfl
@[simp] theorem setBar_watchHolds (s : State) (k : Nat × Nat × Nat) (v : Barrier) : (setBar s k v).watchHolds = s.watchHolds := rfl
@[simp] theorem setBar_walks (s : State) (k : Nat × Nat × Nat) (v : Barrier) : (setBar s k v).walks = s.walks := rfl
@[simp] theorem setBar_ranges (s : State) (k : Nat × Nat × Nat) (v : Barrier) : (setBar s k v).ranges = s.ranges := rfl
@[simp] theorem setBar_xfers (s : State) (k : Nat × Nat × Nat) (v : Barrier) : (setBar s k v).xfers = s.xfers := rfl
@[simp] theorem setBar_copies (s : State) (k : Nat × Nat × Nat) (v : Barrier) : (setBar s k v).copies = s.copies := rfl
@[simp] theorem setBar_copyQs (s : State) (k : Nat × Nat × Nat) (v : Barrier) : (setBar s k v).copyQs = s.copyQs := rfl
@[simp] theorem setBar_vtiles (s : State) (k : Nat × Nat × Nat) (v : Barrier) : (setBar s k v).vtiles = s.vtiles := rfl
@[simp] theorem setBar_islands (s : State) (k : Nat × Nat × Nat) (v : Barrier) : (setBar s k v).islands = s.islands := rfl
@[simp] theorem setBar_groups (s : State) (k : Nat × Nat × Nat) (v : Barrier) : (setBar s k v).groups = s.groups := rfl
@[simp] theorem setBar_xunits (s : State) (k : Nat × Nat × Nat) (v : Barrier) : (setBar s k v).xunits = s.xunits := rfl
@[simp] theorem setBar_streams (s : State) (k : Nat × Nat × Nat) (v : Barrier) : (setBar s k v).streams = s.streams := rfl
@[simp] theorem setBar_lanes (s : State) (k : Nat × Nat × Nat) (v : Barrier) : (setBar s k v).lanes = s.lanes := rfl
@[simp] theorem setBar_packets (s : State) (k : Nat × Nat × Nat) (v : Barrier) : (setBar s k v).packets = s.packets := rfl
@[simp] theorem setBar_inbox (s : State) (k : Nat × Nat × Nat) (v : Barrier) : (setBar s k v).inbox = s.inbox := rfl
@[simp] theorem setBar_straits (s : State) (k : Nat × Nat × Nat) (v : Barrier) : (setBar s k v).straits = s.straits := rfl
@[simp] theorem setBar_acks (s : State) (k : Nat × Nat × Nat) (v : Barrier) : (setBar s k v).acks = s.acks := rfl
@[simp] theorem setBar_nacks (s : State) (k : Nat × Nat × Nat) (v : Barrier) : (setBar s k v).nacks = s.nacks := rfl
@[simp] theorem setBar_cables (s : State) (k : Nat × Nat × Nat) (v : Barrier) : (setBar s k v).cables = s.cables := rfl
@[simp] theorem setBar_exits (s : State) (k : Nat × Nat × Nat) (v : Barrier) : (setBar s k v).exits = s.exits := rfl
@[simp] theorem setBar_badPages (s : State) (k : Nat × Nat × Nat) (v : Barrier) : (setBar s k v).badPages = s.badPages := rfl
@[simp] theorem setBar_partitions (s : State) (k : Nat × Nat × Nat) (v : Barrier) : (setBar s k v).partitions = s.partitions := rfl
@[simp] theorem setBar_pageOwner (s : State) (k : Nat × Nat × Nat) (v : Barrier) : (setBar s k v).pageOwner = s.pageOwner := rfl
@[simp] theorem setBar_pageOn (s : State) (k : Nat × Nat × Nat) (v : Barrier) : (setBar s k v).pageOn = s.pageOn := rfl
@[simp] theorem setBar_barRuns (s : State) (k : Nat × Nat × Nat) (v : Barrier) : (setBar s k v).barRuns = s.barRuns := rfl
@[simp] theorem setBar_quotas (s : State) (k : Nat × Nat × Nat) (v : Barrier) : (setBar s k v).quotas = s.quotas := rfl
@[simp] theorem setBar_slotTabs (s : State) (k : Nat × Nat × Nat) (v : Barrier) : (setBar s k v).slotTabs = s.slotTabs := rfl
@[simp] theorem setBar_wheels (s : State) (k : Nat × Nat × Nat) (v : Barrier) : (setBar s k v).wheels = s.wheels := rfl
@[simp] theorem setBar_reports (s : State) (k : Nat × Nat × Nat) (v : Barrier) : (setBar s k v).reports = s.reports := rfl
@[simp] theorem setBar_qmReports (s : State) (k : Nat × Nat × Nat) (v : Barrier) : (setBar s k v).qmReports = s.qmReports := rfl
@[simp] theorem setBar_tlb (s : State) (k : Nat × Nat × Nat) (v : Barrier) : (setBar s k v).tlb = s.tlb := rfl
@[simp] theorem setBar_stops (s : State) (k : Nat × Nat × Nat) (v : Barrier) : (setBar s k v).stops = s.stops := rfl
@[simp] theorem setBar_traces (s : State) (k : Nat × Nat × Nat) (v : Barrier) : (setBar s k v).traces = s.traces := rfl
@[simp] theorem setBar_watches (s : State) (k : Nat × Nat × Nat) (v : Barrier) : (setBar s k v).watches = s.watches := rfl
@[simp] theorem setBar_fns (s : State) (k : Nat × Nat × Nat) (v : Barrier) : (setBar s k v).fns = s.fns := rfl
@[simp] theorem setBar_packages (s : State) (k : Nat × Nat × Nat) (v : Barrier) : (setBar s k v).packages = s.packages := rfl
@[simp] theorem setBar_agenda (s : State) (k : Nat × Nat × Nat) (v : Barrier) : (setBar s k v).agenda = s.agenda := rfl
@[simp] theorem setBar_tick (s : State) (k : Nat × Nat × Nat) (v : Barrier) : (setBar s k v).tick = s.tick := rfl
@[simp] theorem setBar_cur (s : State) (k : Nat × Nat × Nat) (v : Barrier) : (setBar s k v).cur = s.cur := rfl
@[simp] theorem setBar_freeCount (s : State) (k : Nat × Nat × Nat) (v : Barrier) : (setBar s k v).freeCount = s.freeCount := rfl
@[simp] theorem setBar_nextId (s : State) (k : Nat × Nat × Nat) (v : Barrier) : (setBar s k v).nextId = s.nextId := rfl
@[simp] theorem setBar_bars (s : State) (k : Nat × Nat × Nat) (v : Barrier) : (setBar s k v).bars = tset k v s.bars := rfl
@[simp] theorem getBar_setBar (s : State) (k : Nat × Nat × Nat) (v : Barrier) : getBar (setBar s k v) k = v := by
  simp [getBar]
theorem getBar_setBar_other (s : State) {k j : Nat × Nat × Nat} (v : Barrier) (h : j ≠ k) : getBar (setBar s k v) j = getBar s j :=
  tget_tset_other _ v s.bars h

/-! ### setLaunchQ -/

@[simp] theorem setLaunchQ_threads (s : State) (k : Nat × Nat) (v : LaunchQ) : (setLaunchQ s k v).threads = s.threads := rfl
@[simp] theorem setLaunchQ_coreNext (s : State) (k : Nat × Nat) (v : LaunchQ) : (setLaunchQ s k v).coreNext = s.coreNext := rfl
@[simp] theorem setLaunchQ_engines (s : State) (k : Nat × Nat) (v : LaunchQ) : (setLaunchQ s k v).engines = s.engines := rfl
@[simp] theorem setLaunchQ_inFlight (s : State) (k : Nat × Nat) (v : LaunchQ) : (setLaunchQ s k v).inFlight = s.inFlight := rfl
@[simp] theorem setLaunchQ_updates (s : State) (k : Nat × Nat) (v : LaunchQ) : (setLaunchQ s k v).updates = s.updates := rfl
@[simp] theorem setLaunchQ_allocWait (s : State) (k : Nat × Nat) (v : LaunchQ) : (setLaunchQ s k v).allocWait = s.allocWait := rfl
@[simp] theorem setLaunchQ_graphs (s : State) (k : Nat × Nat) (v : LaunchQ) : (setLaunchQ s k v).graphs = s.graphs := rfl
@[simp] theorem setLaunchQ_launches (s : State) (k : Nat × Nat) (v : LaunchQ) : (setLaunchQ s k v).launches = s.launches := rfl
@[simp] theorem setLaunchQ_breaks (s : State) (k : Nat × Nat) (v : LaunchQ) : (setLaunchQ s k v).breaks = s.breaks := rfl
@[simp] theorem setLaunchQ_sources (s : State) (k : Nat × Nat) (v : LaunchQ) : (setLaunchQ s k v).sources = s.sources := rfl
@[simp] theorem setLaunchQ_tiles (s : State) (k : Nat × Nat) (v : LaunchQ) : (setLaunchQ s k v).tiles = s.tiles := rfl
@[simp] theorem setLaunchQ_chunkWrites (s : State) (k : Nat × Nat) (v : LaunchQ) : (setLaunchQ s k v).chunkWrites = s.chunkWrites := rfl
@[simp] theorem setLaunchQ_retires (s : State) (k : Nat × Nat) (v : LaunchQ) : (setLaunchQ s k v).retires = s.retires := rfl
@[simp] theorem setLaunchQ_memTiles (s : State) (k : Nat × Nat) (v : LaunchQ) : (setLaunchQ s k v).memTiles = s.memTiles := rfl
@[simp] theorem setLaunchQ_chans (s : State) (k : Nat × Nat) (v : LaunchQ) : (setLaunchQ s k v).chans = s.chans := rfl
@[simp] theorem setLaunchQ_bars (s : State) (k : Nat × Nat) (v : LaunchQ) : (setLaunchQ s k v).bars = s.bars := rfl
@[simp] theorem setLaunchQ_hbm (s : State) (k : Nat × Nat) (v : LaunchQ) : (setLaunchQ s k v).hbm = s.hbm := rfl
@[simp] theorem setLaunchQ_l0 (s : State) (k : Nat × Nat) (v : LaunchQ) : (setLaunchQ s k v).l0 = s.l0 := rfl
@[simp] theorem setLaunchQ_hostMem (s : State) (k : Nat × Nat) (v : LaunchQ) : (setLaunchQ s k v).hostMem = s.hostMem := rfl
@[simp] theorem setLaunchQ_ecc (s : State) (k : Nat × Nat) (v : LaunchQ) : (setLaunchQ s k v).ecc = s.ecc := rfl
@[simp] theorem setLaunchQ_eccL0 (s : State) (k : Nat × Nat) (v : LaunchQ) : (setLaunchQ s k v).eccL0 = s.eccL0 := rfl
@[simp] theorem setLaunchQ_bankModes (s : State) (k : Nat × Nat) (v : LaunchQ) : (setLaunchQ s k v).bankModes = s.bankModes := rfl
@[simp] theorem setLaunchQ_reqs (s : State) (k : Nat × Nat) (v : LaunchQ) : (setLaunchQ s k v).reqs = s.reqs := rfl
@[simp] theorem setLaunchQ_watchHolds (s : State) (k : Nat × Nat) (v : LaunchQ) : (setLaunchQ s k v).watchHolds = s.watchHolds := rfl
@[simp] theorem setLaunchQ_walks (s : State) (k : Nat × Nat) (v : LaunchQ) : (setLaunchQ s k v).walks = s.walks := rfl
@[simp] theorem setLaunchQ_ranges (s : State) (k : Nat × Nat) (v : LaunchQ) : (setLaunchQ s k v).ranges = s.ranges := rfl
@[simp] theorem setLaunchQ_xfers (s : State) (k : Nat × Nat) (v : LaunchQ) : (setLaunchQ s k v).xfers = s.xfers := rfl
@[simp] theorem setLaunchQ_copies (s : State) (k : Nat × Nat) (v : LaunchQ) : (setLaunchQ s k v).copies = s.copies := rfl
@[simp] theorem setLaunchQ_copyQs (s : State) (k : Nat × Nat) (v : LaunchQ) : (setLaunchQ s k v).copyQs = s.copyQs := rfl
@[simp] theorem setLaunchQ_vtiles (s : State) (k : Nat × Nat) (v : LaunchQ) : (setLaunchQ s k v).vtiles = s.vtiles := rfl
@[simp] theorem setLaunchQ_islands (s : State) (k : Nat × Nat) (v : LaunchQ) : (setLaunchQ s k v).islands = s.islands := rfl
@[simp] theorem setLaunchQ_groups (s : State) (k : Nat × Nat) (v : LaunchQ) : (setLaunchQ s k v).groups = s.groups := rfl
@[simp] theorem setLaunchQ_xunits (s : State) (k : Nat × Nat) (v : LaunchQ) : (setLaunchQ s k v).xunits = s.xunits := rfl
@[simp] theorem setLaunchQ_streams (s : State) (k : Nat × Nat) (v : LaunchQ) : (setLaunchQ s k v).streams = s.streams := rfl
@[simp] theorem setLaunchQ_lanes (s : State) (k : Nat × Nat) (v : LaunchQ) : (setLaunchQ s k v).lanes = s.lanes := rfl
@[simp] theorem setLaunchQ_packets (s : State) (k : Nat × Nat) (v : LaunchQ) : (setLaunchQ s k v).packets = s.packets := rfl
@[simp] theorem setLaunchQ_inbox (s : State) (k : Nat × Nat) (v : LaunchQ) : (setLaunchQ s k v).inbox = s.inbox := rfl
@[simp] theorem setLaunchQ_straits (s : State) (k : Nat × Nat) (v : LaunchQ) : (setLaunchQ s k v).straits = s.straits := rfl
@[simp] theorem setLaunchQ_acks (s : State) (k : Nat × Nat) (v : LaunchQ) : (setLaunchQ s k v).acks = s.acks := rfl
@[simp] theorem setLaunchQ_nacks (s : State) (k : Nat × Nat) (v : LaunchQ) : (setLaunchQ s k v).nacks = s.nacks := rfl
@[simp] theorem setLaunchQ_cables (s : State) (k : Nat × Nat) (v : LaunchQ) : (setLaunchQ s k v).cables = s.cables := rfl
@[simp] theorem setLaunchQ_exits (s : State) (k : Nat × Nat) (v : LaunchQ) : (setLaunchQ s k v).exits = s.exits := rfl
@[simp] theorem setLaunchQ_badPages (s : State) (k : Nat × Nat) (v : LaunchQ) : (setLaunchQ s k v).badPages = s.badPages := rfl
@[simp] theorem setLaunchQ_partitions (s : State) (k : Nat × Nat) (v : LaunchQ) : (setLaunchQ s k v).partitions = s.partitions := rfl
@[simp] theorem setLaunchQ_pageOwner (s : State) (k : Nat × Nat) (v : LaunchQ) : (setLaunchQ s k v).pageOwner = s.pageOwner := rfl
@[simp] theorem setLaunchQ_pageOn (s : State) (k : Nat × Nat) (v : LaunchQ) : (setLaunchQ s k v).pageOn = s.pageOn := rfl
@[simp] theorem setLaunchQ_barRuns (s : State) (k : Nat × Nat) (v : LaunchQ) : (setLaunchQ s k v).barRuns = s.barRuns := rfl
@[simp] theorem setLaunchQ_quotas (s : State) (k : Nat × Nat) (v : LaunchQ) : (setLaunchQ s k v).quotas = s.quotas := rfl
@[simp] theorem setLaunchQ_slotTabs (s : State) (k : Nat × Nat) (v : LaunchQ) : (setLaunchQ s k v).slotTabs = s.slotTabs := rfl
@[simp] theorem setLaunchQ_wheels (s : State) (k : Nat × Nat) (v : LaunchQ) : (setLaunchQ s k v).wheels = s.wheels := rfl
@[simp] theorem setLaunchQ_reports (s : State) (k : Nat × Nat) (v : LaunchQ) : (setLaunchQ s k v).reports = s.reports := rfl
@[simp] theorem setLaunchQ_qmReports (s : State) (k : Nat × Nat) (v : LaunchQ) : (setLaunchQ s k v).qmReports = s.qmReports := rfl
@[simp] theorem setLaunchQ_tlb (s : State) (k : Nat × Nat) (v : LaunchQ) : (setLaunchQ s k v).tlb = s.tlb := rfl
@[simp] theorem setLaunchQ_stops (s : State) (k : Nat × Nat) (v : LaunchQ) : (setLaunchQ s k v).stops = s.stops := rfl
@[simp] theorem setLaunchQ_traces (s : State) (k : Nat × Nat) (v : LaunchQ) : (setLaunchQ s k v).traces = s.traces := rfl
@[simp] theorem setLaunchQ_watches (s : State) (k : Nat × Nat) (v : LaunchQ) : (setLaunchQ s k v).watches = s.watches := rfl
@[simp] theorem setLaunchQ_fns (s : State) (k : Nat × Nat) (v : LaunchQ) : (setLaunchQ s k v).fns = s.fns := rfl
@[simp] theorem setLaunchQ_packages (s : State) (k : Nat × Nat) (v : LaunchQ) : (setLaunchQ s k v).packages = s.packages := rfl
@[simp] theorem setLaunchQ_agenda (s : State) (k : Nat × Nat) (v : LaunchQ) : (setLaunchQ s k v).agenda = s.agenda := rfl
@[simp] theorem setLaunchQ_tick (s : State) (k : Nat × Nat) (v : LaunchQ) : (setLaunchQ s k v).tick = s.tick := rfl
@[simp] theorem setLaunchQ_cur (s : State) (k : Nat × Nat) (v : LaunchQ) : (setLaunchQ s k v).cur = s.cur := rfl
@[simp] theorem setLaunchQ_freeCount (s : State) (k : Nat × Nat) (v : LaunchQ) : (setLaunchQ s k v).freeCount = s.freeCount := rfl
@[simp] theorem setLaunchQ_nextId (s : State) (k : Nat × Nat) (v : LaunchQ) : (setLaunchQ s k v).nextId = s.nextId := rfl
@[simp] theorem setLaunchQ_launchQs (s : State) (k : Nat × Nat) (v : LaunchQ) : (setLaunchQ s k v).launchQs = tset k v s.launchQs := rfl
@[simp] theorem getLaunchQ_setLaunchQ (s : State) (k : Nat × Nat) (v : LaunchQ) : getLaunchQ (setLaunchQ s k v) k = v := by
  simp [getLaunchQ]
theorem getLaunchQ_setLaunchQ_other (s : State) {k j : Nat × Nat} (v : LaunchQ) (h : j ≠ k) : getLaunchQ (setLaunchQ s k v) j = getLaunchQ s j :=
  tget_tset_other _ v s.launchQs h

/-! ### setBreak -/

@[simp] theorem setBreak_threads (s : State) (k : Nat × Nat) (v : Bool) : (setBreak s k v).threads = s.threads := rfl
@[simp] theorem setBreak_coreNext (s : State) (k : Nat × Nat) (v : Bool) : (setBreak s k v).coreNext = s.coreNext := rfl
@[simp] theorem setBreak_engines (s : State) (k : Nat × Nat) (v : Bool) : (setBreak s k v).engines = s.engines := rfl
@[simp] theorem setBreak_inFlight (s : State) (k : Nat × Nat) (v : Bool) : (setBreak s k v).inFlight = s.inFlight := rfl
@[simp] theorem setBreak_updates (s : State) (k : Nat × Nat) (v : Bool) : (setBreak s k v).updates = s.updates := rfl
@[simp] theorem setBreak_allocWait (s : State) (k : Nat × Nat) (v : Bool) : (setBreak s k v).allocWait = s.allocWait := rfl
@[simp] theorem setBreak_graphs (s : State) (k : Nat × Nat) (v : Bool) : (setBreak s k v).graphs = s.graphs := rfl
@[simp] theorem setBreak_launches (s : State) (k : Nat × Nat) (v : Bool) : (setBreak s k v).launches = s.launches := rfl
@[simp] theorem setBreak_launchQs (s : State) (k : Nat × Nat) (v : Bool) : (setBreak s k v).launchQs = s.launchQs := rfl
@[simp] theorem setBreak_sources (s : State) (k : Nat × Nat) (v : Bool) : (setBreak s k v).sources = s.sources := rfl
@[simp] theorem setBreak_tiles (s : State) (k : Nat × Nat) (v : Bool) : (setBreak s k v).tiles = s.tiles := rfl
@[simp] theorem setBreak_chunkWrites (s : State) (k : Nat × Nat) (v : Bool) : (setBreak s k v).chunkWrites = s.chunkWrites := rfl
@[simp] theorem setBreak_retires (s : State) (k : Nat × Nat) (v : Bool) : (setBreak s k v).retires = s.retires := rfl
@[simp] theorem setBreak_memTiles (s : State) (k : Nat × Nat) (v : Bool) : (setBreak s k v).memTiles = s.memTiles := rfl
@[simp] theorem setBreak_chans (s : State) (k : Nat × Nat) (v : Bool) : (setBreak s k v).chans = s.chans := rfl
@[simp] theorem setBreak_bars (s : State) (k : Nat × Nat) (v : Bool) : (setBreak s k v).bars = s.bars := rfl
@[simp] theorem setBreak_hbm (s : State) (k : Nat × Nat) (v : Bool) : (setBreak s k v).hbm = s.hbm := rfl
@[simp] theorem setBreak_l0 (s : State) (k : Nat × Nat) (v : Bool) : (setBreak s k v).l0 = s.l0 := rfl
@[simp] theorem setBreak_hostMem (s : State) (k : Nat × Nat) (v : Bool) : (setBreak s k v).hostMem = s.hostMem := rfl
@[simp] theorem setBreak_ecc (s : State) (k : Nat × Nat) (v : Bool) : (setBreak s k v).ecc = s.ecc := rfl
@[simp] theorem setBreak_eccL0 (s : State) (k : Nat × Nat) (v : Bool) : (setBreak s k v).eccL0 = s.eccL0 := rfl
@[simp] theorem setBreak_bankModes (s : State) (k : Nat × Nat) (v : Bool) : (setBreak s k v).bankModes = s.bankModes := rfl
@[simp] theorem setBreak_reqs (s : State) (k : Nat × Nat) (v : Bool) : (setBreak s k v).reqs = s.reqs := rfl
@[simp] theorem setBreak_watchHolds (s : State) (k : Nat × Nat) (v : Bool) : (setBreak s k v).watchHolds = s.watchHolds := rfl
@[simp] theorem setBreak_walks (s : State) (k : Nat × Nat) (v : Bool) : (setBreak s k v).walks = s.walks := rfl
@[simp] theorem setBreak_ranges (s : State) (k : Nat × Nat) (v : Bool) : (setBreak s k v).ranges = s.ranges := rfl
@[simp] theorem setBreak_xfers (s : State) (k : Nat × Nat) (v : Bool) : (setBreak s k v).xfers = s.xfers := rfl
@[simp] theorem setBreak_copies (s : State) (k : Nat × Nat) (v : Bool) : (setBreak s k v).copies = s.copies := rfl
@[simp] theorem setBreak_copyQs (s : State) (k : Nat × Nat) (v : Bool) : (setBreak s k v).copyQs = s.copyQs := rfl
@[simp] theorem setBreak_vtiles (s : State) (k : Nat × Nat) (v : Bool) : (setBreak s k v).vtiles = s.vtiles := rfl
@[simp] theorem setBreak_islands (s : State) (k : Nat × Nat) (v : Bool) : (setBreak s k v).islands = s.islands := rfl
@[simp] theorem setBreak_groups (s : State) (k : Nat × Nat) (v : Bool) : (setBreak s k v).groups = s.groups := rfl
@[simp] theorem setBreak_xunits (s : State) (k : Nat × Nat) (v : Bool) : (setBreak s k v).xunits = s.xunits := rfl
@[simp] theorem setBreak_streams (s : State) (k : Nat × Nat) (v : Bool) : (setBreak s k v).streams = s.streams := rfl
@[simp] theorem setBreak_lanes (s : State) (k : Nat × Nat) (v : Bool) : (setBreak s k v).lanes = s.lanes := rfl
@[simp] theorem setBreak_packets (s : State) (k : Nat × Nat) (v : Bool) : (setBreak s k v).packets = s.packets := rfl
@[simp] theorem setBreak_inbox (s : State) (k : Nat × Nat) (v : Bool) : (setBreak s k v).inbox = s.inbox := rfl
@[simp] theorem setBreak_straits (s : State) (k : Nat × Nat) (v : Bool) : (setBreak s k v).straits = s.straits := rfl
@[simp] theorem setBreak_acks (s : State) (k : Nat × Nat) (v : Bool) : (setBreak s k v).acks = s.acks := rfl
@[simp] theorem setBreak_nacks (s : State) (k : Nat × Nat) (v : Bool) : (setBreak s k v).nacks = s.nacks := rfl
@[simp] theorem setBreak_cables (s : State) (k : Nat × Nat) (v : Bool) : (setBreak s k v).cables = s.cables := rfl
@[simp] theorem setBreak_exits (s : State) (k : Nat × Nat) (v : Bool) : (setBreak s k v).exits = s.exits := rfl
@[simp] theorem setBreak_badPages (s : State) (k : Nat × Nat) (v : Bool) : (setBreak s k v).badPages = s.badPages := rfl
@[simp] theorem setBreak_partitions (s : State) (k : Nat × Nat) (v : Bool) : (setBreak s k v).partitions = s.partitions := rfl
@[simp] theorem setBreak_pageOwner (s : State) (k : Nat × Nat) (v : Bool) : (setBreak s k v).pageOwner = s.pageOwner := rfl
@[simp] theorem setBreak_pageOn (s : State) (k : Nat × Nat) (v : Bool) : (setBreak s k v).pageOn = s.pageOn := rfl
@[simp] theorem setBreak_barRuns (s : State) (k : Nat × Nat) (v : Bool) : (setBreak s k v).barRuns = s.barRuns := rfl
@[simp] theorem setBreak_quotas (s : State) (k : Nat × Nat) (v : Bool) : (setBreak s k v).quotas = s.quotas := rfl
@[simp] theorem setBreak_slotTabs (s : State) (k : Nat × Nat) (v : Bool) : (setBreak s k v).slotTabs = s.slotTabs := rfl
@[simp] theorem setBreak_wheels (s : State) (k : Nat × Nat) (v : Bool) : (setBreak s k v).wheels = s.wheels := rfl
@[simp] theorem setBreak_reports (s : State) (k : Nat × Nat) (v : Bool) : (setBreak s k v).reports = s.reports := rfl
@[simp] theorem setBreak_qmReports (s : State) (k : Nat × Nat) (v : Bool) : (setBreak s k v).qmReports = s.qmReports := rfl
@[simp] theorem setBreak_tlb (s : State) (k : Nat × Nat) (v : Bool) : (setBreak s k v).tlb = s.tlb := rfl
@[simp] theorem setBreak_stops (s : State) (k : Nat × Nat) (v : Bool) : (setBreak s k v).stops = s.stops := rfl
@[simp] theorem setBreak_traces (s : State) (k : Nat × Nat) (v : Bool) : (setBreak s k v).traces = s.traces := rfl
@[simp] theorem setBreak_watches (s : State) (k : Nat × Nat) (v : Bool) : (setBreak s k v).watches = s.watches := rfl
@[simp] theorem setBreak_fns (s : State) (k : Nat × Nat) (v : Bool) : (setBreak s k v).fns = s.fns := rfl
@[simp] theorem setBreak_packages (s : State) (k : Nat × Nat) (v : Bool) : (setBreak s k v).packages = s.packages := rfl
@[simp] theorem setBreak_agenda (s : State) (k : Nat × Nat) (v : Bool) : (setBreak s k v).agenda = s.agenda := rfl
@[simp] theorem setBreak_tick (s : State) (k : Nat × Nat) (v : Bool) : (setBreak s k v).tick = s.tick := rfl
@[simp] theorem setBreak_cur (s : State) (k : Nat × Nat) (v : Bool) : (setBreak s k v).cur = s.cur := rfl
@[simp] theorem setBreak_freeCount (s : State) (k : Nat × Nat) (v : Bool) : (setBreak s k v).freeCount = s.freeCount := rfl
@[simp] theorem setBreak_nextId (s : State) (k : Nat × Nat) (v : Bool) : (setBreak s k v).nextId = s.nextId := rfl
@[simp] theorem setBreak_breaks (s : State) (k : Nat × Nat) (v : Bool) : (setBreak s k v).breaks = tset k v s.breaks := rfl
@[simp] theorem getBreak_setBreak (s : State) (k : Nat × Nat) (v : Bool) : getBreak (setBreak s k v) k = v := by
  simp [getBreak]
theorem getBreak_setBreak_other (s : State) {k j : Nat × Nat} (v : Bool) (h : j ≠ k) : getBreak (setBreak s k v) j = getBreak s j :=
  tget_tset_other _ v s.breaks h

/-! ### setCopyQ -/

@[simp] theorem setCopyQ_threads (s : State) (k : Nat × Nat × Nat) (v : CopyQ) : (setCopyQ s k v).threads = s.threads := rfl
@[simp] theorem setCopyQ_coreNext (s : State) (k : Nat × Nat × Nat) (v : CopyQ) : (setCopyQ s k v).coreNext = s.coreNext := rfl
@[simp] theorem setCopyQ_engines (s : State) (k : Nat × Nat × Nat) (v : CopyQ) : (setCopyQ s k v).engines = s.engines := rfl
@[simp] theorem setCopyQ_inFlight (s : State) (k : Nat × Nat × Nat) (v : CopyQ) : (setCopyQ s k v).inFlight = s.inFlight := rfl
@[simp] theorem setCopyQ_updates (s : State) (k : Nat × Nat × Nat) (v : CopyQ) : (setCopyQ s k v).updates = s.updates := rfl
@[simp] theorem setCopyQ_allocWait (s : State) (k : Nat × Nat × Nat) (v : CopyQ) : (setCopyQ s k v).allocWait = s.allocWait := rfl
@[simp] theorem setCopyQ_graphs (s : State) (k : Nat × Nat × Nat) (v : CopyQ) : (setCopyQ s k v).graphs = s.graphs := rfl
@[simp] theorem setCopyQ_launches (s : State) (k : Nat × Nat × Nat) (v : CopyQ) : (setCopyQ s k v).launches = s.launches := rfl
@[simp] theorem setCopyQ_launchQs (s : State) (k : Nat × Nat × Nat) (v : CopyQ) : (setCopyQ s k v).launchQs = s.launchQs := rfl
@[simp] theorem setCopyQ_breaks (s : State) (k : Nat × Nat × Nat) (v : CopyQ) : (setCopyQ s k v).breaks = s.breaks := rfl
@[simp] theorem setCopyQ_sources (s : State) (k : Nat × Nat × Nat) (v : CopyQ) : (setCopyQ s k v).sources = s.sources := rfl
@[simp] theorem setCopyQ_tiles (s : State) (k : Nat × Nat × Nat) (v : CopyQ) : (setCopyQ s k v).tiles = s.tiles := rfl
@[simp] theorem setCopyQ_chunkWrites (s : State) (k : Nat × Nat × Nat) (v : CopyQ) : (setCopyQ s k v).chunkWrites = s.chunkWrites := rfl
@[simp] theorem setCopyQ_retires (s : State) (k : Nat × Nat × Nat) (v : CopyQ) : (setCopyQ s k v).retires = s.retires := rfl
@[simp] theorem setCopyQ_memTiles (s : State) (k : Nat × Nat × Nat) (v : CopyQ) : (setCopyQ s k v).memTiles = s.memTiles := rfl
@[simp] theorem setCopyQ_chans (s : State) (k : Nat × Nat × Nat) (v : CopyQ) : (setCopyQ s k v).chans = s.chans := rfl
@[simp] theorem setCopyQ_bars (s : State) (k : Nat × Nat × Nat) (v : CopyQ) : (setCopyQ s k v).bars = s.bars := rfl
@[simp] theorem setCopyQ_hbm (s : State) (k : Nat × Nat × Nat) (v : CopyQ) : (setCopyQ s k v).hbm = s.hbm := rfl
@[simp] theorem setCopyQ_l0 (s : State) (k : Nat × Nat × Nat) (v : CopyQ) : (setCopyQ s k v).l0 = s.l0 := rfl
@[simp] theorem setCopyQ_hostMem (s : State) (k : Nat × Nat × Nat) (v : CopyQ) : (setCopyQ s k v).hostMem = s.hostMem := rfl
@[simp] theorem setCopyQ_ecc (s : State) (k : Nat × Nat × Nat) (v : CopyQ) : (setCopyQ s k v).ecc = s.ecc := rfl
@[simp] theorem setCopyQ_eccL0 (s : State) (k : Nat × Nat × Nat) (v : CopyQ) : (setCopyQ s k v).eccL0 = s.eccL0 := rfl
@[simp] theorem setCopyQ_bankModes (s : State) (k : Nat × Nat × Nat) (v : CopyQ) : (setCopyQ s k v).bankModes = s.bankModes := rfl
@[simp] theorem setCopyQ_reqs (s : State) (k : Nat × Nat × Nat) (v : CopyQ) : (setCopyQ s k v).reqs = s.reqs := rfl
@[simp] theorem setCopyQ_watchHolds (s : State) (k : Nat × Nat × Nat) (v : CopyQ) : (setCopyQ s k v).watchHolds = s.watchHolds := rfl
@[simp] theorem setCopyQ_walks (s : State) (k : Nat × Nat × Nat) (v : CopyQ) : (setCopyQ s k v).walks = s.walks := rfl
@[simp] theorem setCopyQ_ranges (s : State) (k : Nat × Nat × Nat) (v : CopyQ) : (setCopyQ s k v).ranges = s.ranges := rfl
@[simp] theorem setCopyQ_xfers (s : State) (k : Nat × Nat × Nat) (v : CopyQ) : (setCopyQ s k v).xfers = s.xfers := rfl
@[simp] theorem setCopyQ_copies (s : State) (k : Nat × Nat × Nat) (v : CopyQ) : (setCopyQ s k v).copies = s.copies := rfl
@[simp] theorem setCopyQ_vtiles (s : State) (k : Nat × Nat × Nat) (v : CopyQ) : (setCopyQ s k v).vtiles = s.vtiles := rfl
@[simp] theorem setCopyQ_islands (s : State) (k : Nat × Nat × Nat) (v : CopyQ) : (setCopyQ s k v).islands = s.islands := rfl
@[simp] theorem setCopyQ_groups (s : State) (k : Nat × Nat × Nat) (v : CopyQ) : (setCopyQ s k v).groups = s.groups := rfl
@[simp] theorem setCopyQ_xunits (s : State) (k : Nat × Nat × Nat) (v : CopyQ) : (setCopyQ s k v).xunits = s.xunits := rfl
@[simp] theorem setCopyQ_streams (s : State) (k : Nat × Nat × Nat) (v : CopyQ) : (setCopyQ s k v).streams = s.streams := rfl
@[simp] theorem setCopyQ_lanes (s : State) (k : Nat × Nat × Nat) (v : CopyQ) : (setCopyQ s k v).lanes = s.lanes := rfl
@[simp] theorem setCopyQ_packets (s : State) (k : Nat × Nat × Nat) (v : CopyQ) : (setCopyQ s k v).packets = s.packets := rfl
@[simp] theorem setCopyQ_inbox (s : State) (k : Nat × Nat × Nat) (v : CopyQ) : (setCopyQ s k v).inbox = s.inbox := rfl
@[simp] theorem setCopyQ_straits (s : State) (k : Nat × Nat × Nat) (v : CopyQ) : (setCopyQ s k v).straits = s.straits := rfl
@[simp] theorem setCopyQ_acks (s : State) (k : Nat × Nat × Nat) (v : CopyQ) : (setCopyQ s k v).acks = s.acks := rfl
@[simp] theorem setCopyQ_nacks (s : State) (k : Nat × Nat × Nat) (v : CopyQ) : (setCopyQ s k v).nacks = s.nacks := rfl
@[simp] theorem setCopyQ_cables (s : State) (k : Nat × Nat × Nat) (v : CopyQ) : (setCopyQ s k v).cables = s.cables := rfl
@[simp] theorem setCopyQ_exits (s : State) (k : Nat × Nat × Nat) (v : CopyQ) : (setCopyQ s k v).exits = s.exits := rfl
@[simp] theorem setCopyQ_badPages (s : State) (k : Nat × Nat × Nat) (v : CopyQ) : (setCopyQ s k v).badPages = s.badPages := rfl
@[simp] theorem setCopyQ_partitions (s : State) (k : Nat × Nat × Nat) (v : CopyQ) : (setCopyQ s k v).partitions = s.partitions := rfl
@[simp] theorem setCopyQ_pageOwner (s : State) (k : Nat × Nat × Nat) (v : CopyQ) : (setCopyQ s k v).pageOwner = s.pageOwner := rfl
@[simp] theorem setCopyQ_pageOn (s : State) (k : Nat × Nat × Nat) (v : CopyQ) : (setCopyQ s k v).pageOn = s.pageOn := rfl
@[simp] theorem setCopyQ_barRuns (s : State) (k : Nat × Nat × Nat) (v : CopyQ) : (setCopyQ s k v).barRuns = s.barRuns := rfl
@[simp] theorem setCopyQ_quotas (s : State) (k : Nat × Nat × Nat) (v : CopyQ) : (setCopyQ s k v).quotas = s.quotas := rfl
@[simp] theorem setCopyQ_slotTabs (s : State) (k : Nat × Nat × Nat) (v : CopyQ) : (setCopyQ s k v).slotTabs = s.slotTabs := rfl
@[simp] theorem setCopyQ_wheels (s : State) (k : Nat × Nat × Nat) (v : CopyQ) : (setCopyQ s k v).wheels = s.wheels := rfl
@[simp] theorem setCopyQ_reports (s : State) (k : Nat × Nat × Nat) (v : CopyQ) : (setCopyQ s k v).reports = s.reports := rfl
@[simp] theorem setCopyQ_qmReports (s : State) (k : Nat × Nat × Nat) (v : CopyQ) : (setCopyQ s k v).qmReports = s.qmReports := rfl
@[simp] theorem setCopyQ_tlb (s : State) (k : Nat × Nat × Nat) (v : CopyQ) : (setCopyQ s k v).tlb = s.tlb := rfl
@[simp] theorem setCopyQ_stops (s : State) (k : Nat × Nat × Nat) (v : CopyQ) : (setCopyQ s k v).stops = s.stops := rfl
@[simp] theorem setCopyQ_traces (s : State) (k : Nat × Nat × Nat) (v : CopyQ) : (setCopyQ s k v).traces = s.traces := rfl
@[simp] theorem setCopyQ_watches (s : State) (k : Nat × Nat × Nat) (v : CopyQ) : (setCopyQ s k v).watches = s.watches := rfl
@[simp] theorem setCopyQ_fns (s : State) (k : Nat × Nat × Nat) (v : CopyQ) : (setCopyQ s k v).fns = s.fns := rfl
@[simp] theorem setCopyQ_packages (s : State) (k : Nat × Nat × Nat) (v : CopyQ) : (setCopyQ s k v).packages = s.packages := rfl
@[simp] theorem setCopyQ_agenda (s : State) (k : Nat × Nat × Nat) (v : CopyQ) : (setCopyQ s k v).agenda = s.agenda := rfl
@[simp] theorem setCopyQ_tick (s : State) (k : Nat × Nat × Nat) (v : CopyQ) : (setCopyQ s k v).tick = s.tick := rfl
@[simp] theorem setCopyQ_cur (s : State) (k : Nat × Nat × Nat) (v : CopyQ) : (setCopyQ s k v).cur = s.cur := rfl
@[simp] theorem setCopyQ_freeCount (s : State) (k : Nat × Nat × Nat) (v : CopyQ) : (setCopyQ s k v).freeCount = s.freeCount := rfl
@[simp] theorem setCopyQ_nextId (s : State) (k : Nat × Nat × Nat) (v : CopyQ) : (setCopyQ s k v).nextId = s.nextId := rfl
@[simp] theorem setCopyQ_copyQs (s : State) (k : Nat × Nat × Nat) (v : CopyQ) : (setCopyQ s k v).copyQs = tset k v s.copyQs := rfl
@[simp] theorem getCopyQ_setCopyQ (s : State) (k : Nat × Nat × Nat) (v : CopyQ) : getCopyQ (setCopyQ s k v) k = v := by
  simp [getCopyQ]
theorem getCopyQ_setCopyQ_other (s : State) {k j : Nat × Nat × Nat} (v : CopyQ) (h : j ≠ k) : getCopyQ (setCopyQ s k v) j = getCopyQ s j :=
  tget_tset_other _ v s.copyQs h

/-! ### setMode -/

@[simp] theorem setMode_threads (s : State) (k : BankId) (v : BankMode) : (setMode s k v).threads = s.threads := rfl
@[simp] theorem setMode_coreNext (s : State) (k : BankId) (v : BankMode) : (setMode s k v).coreNext = s.coreNext := rfl
@[simp] theorem setMode_engines (s : State) (k : BankId) (v : BankMode) : (setMode s k v).engines = s.engines := rfl
@[simp] theorem setMode_inFlight (s : State) (k : BankId) (v : BankMode) : (setMode s k v).inFlight = s.inFlight := rfl
@[simp] theorem setMode_updates (s : State) (k : BankId) (v : BankMode) : (setMode s k v).updates = s.updates := rfl
@[simp] theorem setMode_allocWait (s : State) (k : BankId) (v : BankMode) : (setMode s k v).allocWait = s.allocWait := rfl
@[simp] theorem setMode_graphs (s : State) (k : BankId) (v : BankMode) : (setMode s k v).graphs = s.graphs := rfl
@[simp] theorem setMode_launches (s : State) (k : BankId) (v : BankMode) : (setMode s k v).launches = s.launches := rfl
@[simp] theorem setMode_launchQs (s : State) (k : BankId) (v : BankMode) : (setMode s k v).launchQs = s.launchQs := rfl
@[simp] theorem setMode_breaks (s : State) (k : BankId) (v : BankMode) : (setMode s k v).breaks = s.breaks := rfl
@[simp] theorem setMode_sources (s : State) (k : BankId) (v : BankMode) : (setMode s k v).sources = s.sources := rfl
@[simp] theorem setMode_tiles (s : State) (k : BankId) (v : BankMode) : (setMode s k v).tiles = s.tiles := rfl
@[simp] theorem setMode_chunkWrites (s : State) (k : BankId) (v : BankMode) : (setMode s k v).chunkWrites = s.chunkWrites := rfl
@[simp] theorem setMode_retires (s : State) (k : BankId) (v : BankMode) : (setMode s k v).retires = s.retires := rfl
@[simp] theorem setMode_memTiles (s : State) (k : BankId) (v : BankMode) : (setMode s k v).memTiles = s.memTiles := rfl
@[simp] theorem setMode_chans (s : State) (k : BankId) (v : BankMode) : (setMode s k v).chans = s.chans := rfl
@[simp] theorem setMode_bars (s : State) (k : BankId) (v : BankMode) : (setMode s k v).bars = s.bars := rfl
@[simp] theorem setMode_hbm (s : State) (k : BankId) (v : BankMode) : (setMode s k v).hbm = s.hbm := rfl
@[simp] theorem setMode_l0 (s : State) (k : BankId) (v : BankMode) : (setMode s k v).l0 = s.l0 := rfl
@[simp] theorem setMode_hostMem (s : State) (k : BankId) (v : BankMode) : (setMode s k v).hostMem = s.hostMem := rfl
@[simp] theorem setMode_ecc (s : State) (k : BankId) (v : BankMode) : (setMode s k v).ecc = s.ecc := rfl
@[simp] theorem setMode_eccL0 (s : State) (k : BankId) (v : BankMode) : (setMode s k v).eccL0 = s.eccL0 := rfl
@[simp] theorem setMode_reqs (s : State) (k : BankId) (v : BankMode) : (setMode s k v).reqs = s.reqs := rfl
@[simp] theorem setMode_watchHolds (s : State) (k : BankId) (v : BankMode) : (setMode s k v).watchHolds = s.watchHolds := rfl
@[simp] theorem setMode_walks (s : State) (k : BankId) (v : BankMode) : (setMode s k v).walks = s.walks := rfl
@[simp] theorem setMode_ranges (s : State) (k : BankId) (v : BankMode) : (setMode s k v).ranges = s.ranges := rfl
@[simp] theorem setMode_xfers (s : State) (k : BankId) (v : BankMode) : (setMode s k v).xfers = s.xfers := rfl
@[simp] theorem setMode_copies (s : State) (k : BankId) (v : BankMode) : (setMode s k v).copies = s.copies := rfl
@[simp] theorem setMode_copyQs (s : State) (k : BankId) (v : BankMode) : (setMode s k v).copyQs = s.copyQs := rfl
@[simp] theorem setMode_vtiles (s : State) (k : BankId) (v : BankMode) : (setMode s k v).vtiles = s.vtiles := rfl
@[simp] theorem setMode_islands (s : State) (k : BankId) (v : BankMode) : (setMode s k v).islands = s.islands := rfl
@[simp] theorem setMode_groups (s : State) (k : BankId) (v : BankMode) : (setMode s k v).groups = s.groups := rfl
@[simp] theorem setMode_xunits (s : State) (k : BankId) (v : BankMode) : (setMode s k v).xunits = s.xunits := rfl
@[simp] theorem setMode_streams (s : State) (k : BankId) (v : BankMode) : (setMode s k v).streams = s.streams := rfl
@[simp] theorem setMode_lanes (s : State) (k : BankId) (v : BankMode) : (setMode s k v).lanes = s.lanes := rfl
@[simp] theorem setMode_packets (s : State) (k : BankId) (v : BankMode) : (setMode s k v).packets = s.packets := rfl
@[simp] theorem setMode_inbox (s : State) (k : BankId) (v : BankMode) : (setMode s k v).inbox = s.inbox := rfl
@[simp] theorem setMode_straits (s : State) (k : BankId) (v : BankMode) : (setMode s k v).straits = s.straits := rfl
@[simp] theorem setMode_acks (s : State) (k : BankId) (v : BankMode) : (setMode s k v).acks = s.acks := rfl
@[simp] theorem setMode_nacks (s : State) (k : BankId) (v : BankMode) : (setMode s k v).nacks = s.nacks := rfl
@[simp] theorem setMode_cables (s : State) (k : BankId) (v : BankMode) : (setMode s k v).cables = s.cables := rfl
@[simp] theorem setMode_exits (s : State) (k : BankId) (v : BankMode) : (setMode s k v).exits = s.exits := rfl
@[simp] theorem setMode_badPages (s : State) (k : BankId) (v : BankMode) : (setMode s k v).badPages = s.badPages := rfl
@[simp] theorem setMode_partitions (s : State) (k : BankId) (v : BankMode) : (setMode s k v).partitions = s.partitions := rfl
@[simp] theorem setMode_pageOwner (s : State) (k : BankId) (v : BankMode) : (setMode s k v).pageOwner = s.pageOwner := rfl
@[simp] theorem setMode_pageOn (s : State) (k : BankId) (v : BankMode) : (setMode s k v).pageOn = s.pageOn := rfl
@[simp] theorem setMode_barRuns (s : State) (k : BankId) (v : BankMode) : (setMode s k v).barRuns = s.barRuns := rfl
@[simp] theorem setMode_quotas (s : State) (k : BankId) (v : BankMode) : (setMode s k v).quotas = s.quotas := rfl
@[simp] theorem setMode_slotTabs (s : State) (k : BankId) (v : BankMode) : (setMode s k v).slotTabs = s.slotTabs := rfl
@[simp] theorem setMode_wheels (s : State) (k : BankId) (v : BankMode) : (setMode s k v).wheels = s.wheels := rfl
@[simp] theorem setMode_reports (s : State) (k : BankId) (v : BankMode) : (setMode s k v).reports = s.reports := rfl
@[simp] theorem setMode_qmReports (s : State) (k : BankId) (v : BankMode) : (setMode s k v).qmReports = s.qmReports := rfl
@[simp] theorem setMode_tlb (s : State) (k : BankId) (v : BankMode) : (setMode s k v).tlb = s.tlb := rfl
@[simp] theorem setMode_stops (s : State) (k : BankId) (v : BankMode) : (setMode s k v).stops = s.stops := rfl
@[simp] theorem setMode_traces (s : State) (k : BankId) (v : BankMode) : (setMode s k v).traces = s.traces := rfl
@[simp] theorem setMode_watches (s : State) (k : BankId) (v : BankMode) : (setMode s k v).watches = s.watches := rfl
@[simp] theorem setMode_fns (s : State) (k : BankId) (v : BankMode) : (setMode s k v).fns = s.fns := rfl
@[simp] theorem setMode_packages (s : State) (k : BankId) (v : BankMode) : (setMode s k v).packages = s.packages := rfl
@[simp] theorem setMode_agenda (s : State) (k : BankId) (v : BankMode) : (setMode s k v).agenda = s.agenda := rfl
@[simp] theorem setMode_tick (s : State) (k : BankId) (v : BankMode) : (setMode s k v).tick = s.tick := rfl
@[simp] theorem setMode_cur (s : State) (k : BankId) (v : BankMode) : (setMode s k v).cur = s.cur := rfl
@[simp] theorem setMode_freeCount (s : State) (k : BankId) (v : BankMode) : (setMode s k v).freeCount = s.freeCount := rfl
@[simp] theorem setMode_nextId (s : State) (k : BankId) (v : BankMode) : (setMode s k v).nextId = s.nextId := rfl
@[simp] theorem setMode_bankModes (s : State) (k : BankId) (v : BankMode) : (setMode s k v).bankModes = tset k v s.bankModes := rfl
@[simp] theorem getMode_setMode (s : State) (k : BankId) (v : BankMode) : getMode (setMode s k v) k = v := by
  simp [getMode]
theorem getMode_setMode_other (s : State) {k j : BankId} (v : BankMode) (h : j ≠ k) : getMode (setMode s k v) j = getMode s j :=
  tget_tset_other _ v s.bankModes h

/-! ### setVTile -/

@[simp] theorem setVTile_threads (s : State) (k : Eng) (v : VTile) : (setVTile s k v).threads = s.threads := rfl
@[simp] theorem setVTile_coreNext (s : State) (k : Eng) (v : VTile) : (setVTile s k v).coreNext = s.coreNext := rfl
@[simp] theorem setVTile_engines (s : State) (k : Eng) (v : VTile) : (setVTile s k v).engines = s.engines := rfl
@[simp] theorem setVTile_inFlight (s : State) (k : Eng) (v : VTile) : (setVTile s k v).inFlight = s.inFlight := rfl
@[simp] theorem setVTile_updates (s : State) (k : Eng) (v : VTile) : (setVTile s k v).updates = s.updates := rfl
@[simp] theorem setVTile_allocWait (s : State) (k : Eng) (v : VTile) : (setVTile s k v).allocWait = s.allocWait := rfl
@[simp] theorem setVTile_graphs (s : State) (k : Eng) (v : VTile) : (setVTile s k v).graphs = s.graphs := rfl
@[simp] theorem setVTile_launches (s : State) (k : Eng) (v : VTile) : (setVTile s k v).launches = s.launches := rfl
@[simp] theorem setVTile_launchQs (s : State) (k : Eng) (v : VTile) : (setVTile s k v).launchQs = s.launchQs := rfl
@[simp] theorem setVTile_breaks (s : State) (k : Eng) (v : VTile) : (setVTile s k v).breaks = s.breaks := rfl
@[simp] theorem setVTile_sources (s : State) (k : Eng) (v : VTile) : (setVTile s k v).sources = s.sources := rfl
@[simp] theorem setVTile_tiles (s : State) (k : Eng) (v : VTile) : (setVTile s k v).tiles = s.tiles := rfl
@[simp] theorem setVTile_chunkWrites (s : State) (k : Eng) (v : VTile) : (setVTile s k v).chunkWrites = s.chunkWrites := rfl
@[simp] theorem setVTile_retires (s : State) (k : Eng) (v : VTile) : (setVTile s k v).retires = s.retires := rfl
@[simp] theorem setVTile_memTiles (s : State) (k : Eng) (v : VTile) : (setVTile s k v).memTiles = s.memTiles := rfl
@[simp] theorem setVTile_chans (s : State) (k : Eng) (v : VTile) : (setVTile s k v).chans = s.chans := rfl
@[simp] theorem setVTile_bars (s : State) (k : Eng) (v : VTile) : (setVTile s k v).bars = s.bars := rfl
@[simp] theorem setVTile_hbm (s : State) (k : Eng) (v : VTile) : (setVTile s k v).hbm = s.hbm := rfl
@[simp] theorem setVTile_l0 (s : State) (k : Eng) (v : VTile) : (setVTile s k v).l0 = s.l0 := rfl
@[simp] theorem setVTile_hostMem (s : State) (k : Eng) (v : VTile) : (setVTile s k v).hostMem = s.hostMem := rfl
@[simp] theorem setVTile_ecc (s : State) (k : Eng) (v : VTile) : (setVTile s k v).ecc = s.ecc := rfl
@[simp] theorem setVTile_eccL0 (s : State) (k : Eng) (v : VTile) : (setVTile s k v).eccL0 = s.eccL0 := rfl
@[simp] theorem setVTile_bankModes (s : State) (k : Eng) (v : VTile) : (setVTile s k v).bankModes = s.bankModes := rfl
@[simp] theorem setVTile_reqs (s : State) (k : Eng) (v : VTile) : (setVTile s k v).reqs = s.reqs := rfl
@[simp] theorem setVTile_watchHolds (s : State) (k : Eng) (v : VTile) : (setVTile s k v).watchHolds = s.watchHolds := rfl
@[simp] theorem setVTile_walks (s : State) (k : Eng) (v : VTile) : (setVTile s k v).walks = s.walks := rfl
@[simp] theorem setVTile_ranges (s : State) (k : Eng) (v : VTile) : (setVTile s k v).ranges = s.ranges := rfl
@[simp] theorem setVTile_xfers (s : State) (k : Eng) (v : VTile) : (setVTile s k v).xfers = s.xfers := rfl
@[simp] theorem setVTile_copies (s : State) (k : Eng) (v : VTile) : (setVTile s k v).copies = s.copies := rfl
@[simp] theorem setVTile_copyQs (s : State) (k : Eng) (v : VTile) : (setVTile s k v).copyQs = s.copyQs := rfl
@[simp] theorem setVTile_islands (s : State) (k : Eng) (v : VTile) : (setVTile s k v).islands = s.islands := rfl
@[simp] theorem setVTile_groups (s : State) (k : Eng) (v : VTile) : (setVTile s k v).groups = s.groups := rfl
@[simp] theorem setVTile_xunits (s : State) (k : Eng) (v : VTile) : (setVTile s k v).xunits = s.xunits := rfl
@[simp] theorem setVTile_streams (s : State) (k : Eng) (v : VTile) : (setVTile s k v).streams = s.streams := rfl
@[simp] theorem setVTile_lanes (s : State) (k : Eng) (v : VTile) : (setVTile s k v).lanes = s.lanes := rfl
@[simp] theorem setVTile_packets (s : State) (k : Eng) (v : VTile) : (setVTile s k v).packets = s.packets := rfl
@[simp] theorem setVTile_inbox (s : State) (k : Eng) (v : VTile) : (setVTile s k v).inbox = s.inbox := rfl
@[simp] theorem setVTile_straits (s : State) (k : Eng) (v : VTile) : (setVTile s k v).straits = s.straits := rfl
@[simp] theorem setVTile_acks (s : State) (k : Eng) (v : VTile) : (setVTile s k v).acks = s.acks := rfl
@[simp] theorem setVTile_nacks (s : State) (k : Eng) (v : VTile) : (setVTile s k v).nacks = s.nacks := rfl
@[simp] theorem setVTile_cables (s : State) (k : Eng) (v : VTile) : (setVTile s k v).cables = s.cables := rfl
@[simp] theorem setVTile_exits (s : State) (k : Eng) (v : VTile) : (setVTile s k v).exits = s.exits := rfl
@[simp] theorem setVTile_badPages (s : State) (k : Eng) (v : VTile) : (setVTile s k v).badPages = s.badPages := rfl
@[simp] theorem setVTile_partitions (s : State) (k : Eng) (v : VTile) : (setVTile s k v).partitions = s.partitions := rfl
@[simp] theorem setVTile_pageOwner (s : State) (k : Eng) (v : VTile) : (setVTile s k v).pageOwner = s.pageOwner := rfl
@[simp] theorem setVTile_pageOn (s : State) (k : Eng) (v : VTile) : (setVTile s k v).pageOn = s.pageOn := rfl
@[simp] theorem setVTile_barRuns (s : State) (k : Eng) (v : VTile) : (setVTile s k v).barRuns = s.barRuns := rfl
@[simp] theorem setVTile_quotas (s : State) (k : Eng) (v : VTile) : (setVTile s k v).quotas = s.quotas := rfl
@[simp] theorem setVTile_slotTabs (s : State) (k : Eng) (v : VTile) : (setVTile s k v).slotTabs = s.slotTabs := rfl
@[simp] theorem setVTile_wheels (s : State) (k : Eng) (v : VTile) : (setVTile s k v).wheels = s.wheels := rfl
@[simp] theorem setVTile_reports (s : State) (k : Eng) (v : VTile) : (setVTile s k v).reports = s.reports := rfl
@[simp] theorem setVTile_qmReports (s : State) (k : Eng) (v : VTile) : (setVTile s k v).qmReports = s.qmReports := rfl
@[simp] theorem setVTile_tlb (s : State) (k : Eng) (v : VTile) : (setVTile s k v).tlb = s.tlb := rfl
@[simp] theorem setVTile_stops (s : State) (k : Eng) (v : VTile) : (setVTile s k v).stops = s.stops := rfl
@[simp] theorem setVTile_traces (s : State) (k : Eng) (v : VTile) : (setVTile s k v).traces = s.traces := rfl
@[simp] theorem setVTile_watches (s : State) (k : Eng) (v : VTile) : (setVTile s k v).watches = s.watches := rfl
@[simp] theorem setVTile_fns (s : State) (k : Eng) (v : VTile) : (setVTile s k v).fns = s.fns := rfl
@[simp] theorem setVTile_packages (s : State) (k : Eng) (v : VTile) : (setVTile s k v).packages = s.packages := rfl
@[simp] theorem setVTile_agenda (s : State) (k : Eng) (v : VTile) : (setVTile s k v).agenda = s.agenda := rfl
@[simp] theorem setVTile_tick (s : State) (k : Eng) (v : VTile) : (setVTile s k v).tick = s.tick := rfl
@[simp] theorem setVTile_cur (s : State) (k : Eng) (v : VTile) : (setVTile s k v).cur = s.cur := rfl
@[simp] theorem setVTile_freeCount (s : State) (k : Eng) (v : VTile) : (setVTile s k v).freeCount = s.freeCount := rfl
@[simp] theorem setVTile_nextId (s : State) (k : Eng) (v : VTile) : (setVTile s k v).nextId = s.nextId := rfl
@[simp] theorem setVTile_vtiles (s : State) (k : Eng) (v : VTile) : (setVTile s k v).vtiles = tset k v s.vtiles := rfl
@[simp] theorem getVTile_setVTile (s : State) (k : Eng) (v : VTile) : getVTile (setVTile s k v) k = v := by
  simp [getVTile]
theorem getVTile_setVTile_other (s : State) {k j : Eng} (v : VTile) (h : j ≠ k) : getVTile (setVTile s k v) j = getVTile s j :=
  tget_tset_other _ v s.vtiles h

/-! ### setIsland -/

@[simp] theorem setIsland_threads (s : State) (k : Eng) (v : Island) : (setIsland s k v).threads = s.threads := rfl
@[simp] theorem setIsland_coreNext (s : State) (k : Eng) (v : Island) : (setIsland s k v).coreNext = s.coreNext := rfl
@[simp] theorem setIsland_engines (s : State) (k : Eng) (v : Island) : (setIsland s k v).engines = s.engines := rfl
@[simp] theorem setIsland_inFlight (s : State) (k : Eng) (v : Island) : (setIsland s k v).inFlight = s.inFlight := rfl
@[simp] theorem setIsland_updates (s : State) (k : Eng) (v : Island) : (setIsland s k v).updates = s.updates := rfl
@[simp] theorem setIsland_allocWait (s : State) (k : Eng) (v : Island) : (setIsland s k v).allocWait = s.allocWait := rfl
@[simp] theorem setIsland_graphs (s : State) (k : Eng) (v : Island) : (setIsland s k v).graphs = s.graphs := rfl
@[simp] theorem setIsland_launches (s : State) (k : Eng) (v : Island) : (setIsland s k v).launches = s.launches := rfl
@[simp] theorem setIsland_launchQs (s : State) (k : Eng) (v : Island) : (setIsland s k v).launchQs = s.launchQs := rfl
@[simp] theorem setIsland_breaks (s : State) (k : Eng) (v : Island) : (setIsland s k v).breaks = s.breaks := rfl
@[simp] theorem setIsland_sources (s : State) (k : Eng) (v : Island) : (setIsland s k v).sources = s.sources := rfl
@[simp] theorem setIsland_tiles (s : State) (k : Eng) (v : Island) : (setIsland s k v).tiles = s.tiles := rfl
@[simp] theorem setIsland_chunkWrites (s : State) (k : Eng) (v : Island) : (setIsland s k v).chunkWrites = s.chunkWrites := rfl
@[simp] theorem setIsland_retires (s : State) (k : Eng) (v : Island) : (setIsland s k v).retires = s.retires := rfl
@[simp] theorem setIsland_memTiles (s : State) (k : Eng) (v : Island) : (setIsland s k v).memTiles = s.memTiles := rfl
@[simp] theorem setIsland_chans (s : State) (k : Eng) (v : Island) : (setIsland s k v).chans = s.chans := rfl
@[simp] theorem setIsland_bars (s : State) (k : Eng) (v : Island) : (setIsland s k v).bars = s.bars := rfl
@[simp] theorem setIsland_hbm (s : State) (k : Eng) (v : Island) : (setIsland s k v).hbm = s.hbm := rfl
@[simp] theorem setIsland_l0 (s : State) (k : Eng) (v : Island) : (setIsland s k v).l0 = s.l0 := rfl
@[simp] theorem setIsland_hostMem (s : State) (k : Eng) (v : Island) : (setIsland s k v).hostMem = s.hostMem := rfl
@[simp] theorem setIsland_ecc (s : State) (k : Eng) (v : Island) : (setIsland s k v).ecc = s.ecc := rfl
@[simp] theorem setIsland_eccL0 (s : State) (k : Eng) (v : Island) : (setIsland s k v).eccL0 = s.eccL0 := rfl
@[simp] theorem setIsland_bankModes (s : State) (k : Eng) (v : Island) : (setIsland s k v).bankModes = s.bankModes := rfl
@[simp] theorem setIsland_reqs (s : State) (k : Eng) (v : Island) : (setIsland s k v).reqs = s.reqs := rfl
@[simp] theorem setIsland_watchHolds (s : State) (k : Eng) (v : Island) : (setIsland s k v).watchHolds = s.watchHolds := rfl
@[simp] theorem setIsland_walks (s : State) (k : Eng) (v : Island) : (setIsland s k v).walks = s.walks := rfl
@[simp] theorem setIsland_ranges (s : State) (k : Eng) (v : Island) : (setIsland s k v).ranges = s.ranges := rfl
@[simp] theorem setIsland_xfers (s : State) (k : Eng) (v : Island) : (setIsland s k v).xfers = s.xfers := rfl
@[simp] theorem setIsland_copies (s : State) (k : Eng) (v : Island) : (setIsland s k v).copies = s.copies := rfl
@[simp] theorem setIsland_copyQs (s : State) (k : Eng) (v : Island) : (setIsland s k v).copyQs = s.copyQs := rfl
@[simp] theorem setIsland_vtiles (s : State) (k : Eng) (v : Island) : (setIsland s k v).vtiles = s.vtiles := rfl
@[simp] theorem setIsland_groups (s : State) (k : Eng) (v : Island) : (setIsland s k v).groups = s.groups := rfl
@[simp] theorem setIsland_xunits (s : State) (k : Eng) (v : Island) : (setIsland s k v).xunits = s.xunits := rfl
@[simp] theorem setIsland_streams (s : State) (k : Eng) (v : Island) : (setIsland s k v).streams = s.streams := rfl
@[simp] theorem setIsland_lanes (s : State) (k : Eng) (v : Island) : (setIsland s k v).lanes = s.lanes := rfl
@[simp] theorem setIsland_packets (s : State) (k : Eng) (v : Island) : (setIsland s k v).packets = s.packets := rfl
@[simp] theorem setIsland_inbox (s : State) (k : Eng) (v : Island) : (setIsland s k v).inbox = s.inbox := rfl
@[simp] theorem setIsland_straits (s : State) (k : Eng) (v : Island) : (setIsland s k v).straits = s.straits := rfl
@[simp] theorem setIsland_acks (s : State) (k : Eng) (v : Island) : (setIsland s k v).acks = s.acks := rfl
@[simp] theorem setIsland_nacks (s : State) (k : Eng) (v : Island) : (setIsland s k v).nacks = s.nacks := rfl
@[simp] theorem setIsland_cables (s : State) (k : Eng) (v : Island) : (setIsland s k v).cables = s.cables := rfl
@[simp] theorem setIsland_exits (s : State) (k : Eng) (v : Island) : (setIsland s k v).exits = s.exits := rfl
@[simp] theorem setIsland_badPages (s : State) (k : Eng) (v : Island) : (setIsland s k v).badPages = s.badPages := rfl
@[simp] theorem setIsland_partitions (s : State) (k : Eng) (v : Island) : (setIsland s k v).partitions = s.partitions := rfl
@[simp] theorem setIsland_pageOwner (s : State) (k : Eng) (v : Island) : (setIsland s k v).pageOwner = s.pageOwner := rfl
@[simp] theorem setIsland_pageOn (s : State) (k : Eng) (v : Island) : (setIsland s k v).pageOn = s.pageOn := rfl
@[simp] theorem setIsland_barRuns (s : State) (k : Eng) (v : Island) : (setIsland s k v).barRuns = s.barRuns := rfl
@[simp] theorem setIsland_quotas (s : State) (k : Eng) (v : Island) : (setIsland s k v).quotas = s.quotas := rfl
@[simp] theorem setIsland_slotTabs (s : State) (k : Eng) (v : Island) : (setIsland s k v).slotTabs = s.slotTabs := rfl
@[simp] theorem setIsland_wheels (s : State) (k : Eng) (v : Island) : (setIsland s k v).wheels = s.wheels := rfl
@[simp] theorem setIsland_reports (s : State) (k : Eng) (v : Island) : (setIsland s k v).reports = s.reports := rfl
@[simp] theorem setIsland_qmReports (s : State) (k : Eng) (v : Island) : (setIsland s k v).qmReports = s.qmReports := rfl
@[simp] theorem setIsland_tlb (s : State) (k : Eng) (v : Island) : (setIsland s k v).tlb = s.tlb := rfl
@[simp] theorem setIsland_stops (s : State) (k : Eng) (v : Island) : (setIsland s k v).stops = s.stops := rfl
@[simp] theorem setIsland_traces (s : State) (k : Eng) (v : Island) : (setIsland s k v).traces = s.traces := rfl
@[simp] theorem setIsland_watches (s : State) (k : Eng) (v : Island) : (setIsland s k v).watches = s.watches := rfl
@[simp] theorem setIsland_fns (s : State) (k : Eng) (v : Island) : (setIsland s k v).fns = s.fns := rfl
@[simp] theorem setIsland_packages (s : State) (k : Eng) (v : Island) : (setIsland s k v).packages = s.packages := rfl
@[simp] theorem setIsland_agenda (s : State) (k : Eng) (v : Island) : (setIsland s k v).agenda = s.agenda := rfl
@[simp] theorem setIsland_tick (s : State) (k : Eng) (v : Island) : (setIsland s k v).tick = s.tick := rfl
@[simp] theorem setIsland_cur (s : State) (k : Eng) (v : Island) : (setIsland s k v).cur = s.cur := rfl
@[simp] theorem setIsland_freeCount (s : State) (k : Eng) (v : Island) : (setIsland s k v).freeCount = s.freeCount := rfl
@[simp] theorem setIsland_nextId (s : State) (k : Eng) (v : Island) : (setIsland s k v).nextId = s.nextId := rfl
@[simp] theorem setIsland_islands (s : State) (k : Eng) (v : Island) : (setIsland s k v).islands = tset k v s.islands := rfl
@[simp] theorem getIsland_setIsland (s : State) (k : Eng) (v : Island) : getIsland (setIsland s k v) k = v := by
  simp [getIsland]
theorem getIsland_setIsland_other (s : State) {k j : Eng} (v : Island) (h : j ≠ k) : getIsland (setIsland s k v) j = getIsland s j :=
  tget_tset_other _ v s.islands h

/-! ### setGroup -/

@[simp] theorem setGroup_threads (s : State) (k : Nat × Nat) (v : RGroup) : (setGroup s k v).threads = s.threads := rfl
@[simp] theorem setGroup_coreNext (s : State) (k : Nat × Nat) (v : RGroup) : (setGroup s k v).coreNext = s.coreNext := rfl
@[simp] theorem setGroup_engines (s : State) (k : Nat × Nat) (v : RGroup) : (setGroup s k v).engines = s.engines := rfl
@[simp] theorem setGroup_inFlight (s : State) (k : Nat × Nat) (v : RGroup) : (setGroup s k v).inFlight = s.inFlight := rfl
@[simp] theorem setGroup_updates (s : State) (k : Nat × Nat) (v : RGroup) : (setGroup s k v).updates = s.updates := rfl
@[simp] theorem setGroup_allocWait (s : State) (k : Nat × Nat) (v : RGroup) : (setGroup s k v).allocWait = s.allocWait := rfl
@[simp] theorem setGroup_graphs (s : State) (k : Nat × Nat) (v : RGroup) : (setGroup s k v).graphs = s.graphs := rfl
@[simp] theorem setGroup_launches (s : State) (k : Nat × Nat) (v : RGroup) : (setGroup s k v).launches = s.launches := rfl
@[simp] theorem setGroup_launchQs (s : State) (k : Nat × Nat) (v : RGroup) : (setGroup s k v).launchQs = s.launchQs := rfl
@[simp] theorem setGroup_breaks (s : State) (k : Nat × Nat) (v : RGroup) : (setGroup s k v).breaks = s.breaks := rfl
@[simp] theorem setGroup_sources (s : State) (k : Nat × Nat) (v : RGroup) : (setGroup s k v).sources = s.sources := rfl
@[simp] theorem setGroup_tiles (s : State) (k : Nat × Nat) (v : RGroup) : (setGroup s k v).tiles = s.tiles := rfl
@[simp] theorem setGroup_chunkWrites (s : State) (k : Nat × Nat) (v : RGroup) : (setGroup s k v).chunkWrites = s.chunkWrites := rfl
@[simp] theorem setGroup_retires (s : State) (k : Nat × Nat) (v : RGroup) : (setGroup s k v).retires = s.retires := rfl
@[simp] theorem setGroup_memTiles (s : State) (k : Nat × Nat) (v : RGroup) : (setGroup s k v).memTiles = s.memTiles := rfl
@[simp] theorem setGroup_chans (s : State) (k : Nat × Nat) (v : RGroup) : (setGroup s k v).chans = s.chans := rfl
@[simp] theorem setGroup_bars (s : State) (k : Nat × Nat) (v : RGroup) : (setGroup s k v).bars = s.bars := rfl
@[simp] theorem setGroup_hbm (s : State) (k : Nat × Nat) (v : RGroup) : (setGroup s k v).hbm = s.hbm := rfl
@[simp] theorem setGroup_l0 (s : State) (k : Nat × Nat) (v : RGroup) : (setGroup s k v).l0 = s.l0 := rfl
@[simp] theorem setGroup_hostMem (s : State) (k : Nat × Nat) (v : RGroup) : (setGroup s k v).hostMem = s.hostMem := rfl
@[simp] theorem setGroup_ecc (s : State) (k : Nat × Nat) (v : RGroup) : (setGroup s k v).ecc = s.ecc := rfl
@[simp] theorem setGroup_eccL0 (s : State) (k : Nat × Nat) (v : RGroup) : (setGroup s k v).eccL0 = s.eccL0 := rfl
@[simp] theorem setGroup_bankModes (s : State) (k : Nat × Nat) (v : RGroup) : (setGroup s k v).bankModes = s.bankModes := rfl
@[simp] theorem setGroup_reqs (s : State) (k : Nat × Nat) (v : RGroup) : (setGroup s k v).reqs = s.reqs := rfl
@[simp] theorem setGroup_watchHolds (s : State) (k : Nat × Nat) (v : RGroup) : (setGroup s k v).watchHolds = s.watchHolds := rfl
@[simp] theorem setGroup_walks (s : State) (k : Nat × Nat) (v : RGroup) : (setGroup s k v).walks = s.walks := rfl
@[simp] theorem setGroup_ranges (s : State) (k : Nat × Nat) (v : RGroup) : (setGroup s k v).ranges = s.ranges := rfl
@[simp] theorem setGroup_xfers (s : State) (k : Nat × Nat) (v : RGroup) : (setGroup s k v).xfers = s.xfers := rfl
@[simp] theorem setGroup_copies (s : State) (k : Nat × Nat) (v : RGroup) : (setGroup s k v).copies = s.copies := rfl
@[simp] theorem setGroup_copyQs (s : State) (k : Nat × Nat) (v : RGroup) : (setGroup s k v).copyQs = s.copyQs := rfl
@[simp] theorem setGroup_vtiles (s : State) (k : Nat × Nat) (v : RGroup) : (setGroup s k v).vtiles = s.vtiles := rfl
@[simp] theorem setGroup_islands (s : State) (k : Nat × Nat) (v : RGroup) : (setGroup s k v).islands = s.islands := rfl
@[simp] theorem setGroup_xunits (s : State) (k : Nat × Nat) (v : RGroup) : (setGroup s k v).xunits = s.xunits := rfl
@[simp] theorem setGroup_streams (s : State) (k : Nat × Nat) (v : RGroup) : (setGroup s k v).streams = s.streams := rfl
@[simp] theorem setGroup_lanes (s : State) (k : Nat × Nat) (v : RGroup) : (setGroup s k v).lanes = s.lanes := rfl
@[simp] theorem setGroup_packets (s : State) (k : Nat × Nat) (v : RGroup) : (setGroup s k v).packets = s.packets := rfl
@[simp] theorem setGroup_inbox (s : State) (k : Nat × Nat) (v : RGroup) : (setGroup s k v).inbox = s.inbox := rfl
@[simp] theorem setGroup_straits (s : State) (k : Nat × Nat) (v : RGroup) : (setGroup s k v).straits = s.straits := rfl
@[simp] theorem setGroup_acks (s : State) (k : Nat × Nat) (v : RGroup) : (setGroup s k v).acks = s.acks := rfl
@[simp] theorem setGroup_nacks (s : State) (k : Nat × Nat) (v : RGroup) : (setGroup s k v).nacks = s.nacks := rfl
@[simp] theorem setGroup_cables (s : State) (k : Nat × Nat) (v : RGroup) : (setGroup s k v).cables = s.cables := rfl
@[simp] theorem setGroup_exits (s : State) (k : Nat × Nat) (v : RGroup) : (setGroup s k v).exits = s.exits := rfl
@[simp] theorem setGroup_badPages (s : State) (k : Nat × Nat) (v : RGroup) : (setGroup s k v).badPages = s.badPages := rfl
@[simp] theorem setGroup_partitions (s : State) (k : Nat × Nat) (v : RGroup) : (setGroup s k v).partitions = s.partitions := rfl
@[simp] theorem setGroup_pageOwner (s : State) (k : Nat × Nat) (v : RGroup) : (setGroup s k v).pageOwner = s.pageOwner := rfl
@[simp] theorem setGroup_pageOn (s : State) (k : Nat × Nat) (v : RGroup) : (setGroup s k v).pageOn = s.pageOn := rfl
@[simp] theorem setGroup_barRuns (s : State) (k : Nat × Nat) (v : RGroup) : (setGroup s k v).barRuns = s.barRuns := rfl
@[simp] theorem setGroup_quotas (s : State) (k : Nat × Nat) (v : RGroup) : (setGroup s k v).quotas = s.quotas := rfl
@[simp] theorem setGroup_slotTabs (s : State) (k : Nat × Nat) (v : RGroup) : (setGroup s k v).slotTabs = s.slotTabs := rfl
@[simp] theorem setGroup_wheels (s : State) (k : Nat × Nat) (v : RGroup) : (setGroup s k v).wheels = s.wheels := rfl
@[simp] theorem setGroup_reports (s : State) (k : Nat × Nat) (v : RGroup) : (setGroup s k v).reports = s.reports := rfl
@[simp] theorem setGroup_qmReports (s : State) (k : Nat × Nat) (v : RGroup) : (setGroup s k v).qmReports = s.qmReports := rfl
@[simp] theorem setGroup_tlb (s : State) (k : Nat × Nat) (v : RGroup) : (setGroup s k v).tlb = s.tlb := rfl
@[simp] theorem setGroup_stops (s : State) (k : Nat × Nat) (v : RGroup) : (setGroup s k v).stops = s.stops := rfl
@[simp] theorem setGroup_traces (s : State) (k : Nat × Nat) (v : RGroup) : (setGroup s k v).traces = s.traces := rfl
@[simp] theorem setGroup_watches (s : State) (k : Nat × Nat) (v : RGroup) : (setGroup s k v).watches = s.watches := rfl
@[simp] theorem setGroup_fns (s : State) (k : Nat × Nat) (v : RGroup) : (setGroup s k v).fns = s.fns := rfl
@[simp] theorem setGroup_packages (s : State) (k : Nat × Nat) (v : RGroup) : (setGroup s k v).packages = s.packages := rfl
@[simp] theorem setGroup_agenda (s : State) (k : Nat × Nat) (v : RGroup) : (setGroup s k v).agenda = s.agenda := rfl
@[simp] theorem setGroup_tick (s : State) (k : Nat × Nat) (v : RGroup) : (setGroup s k v).tick = s.tick := rfl
@[simp] theorem setGroup_cur (s : State) (k : Nat × Nat) (v : RGroup) : (setGroup s k v).cur = s.cur := rfl
@[simp] theorem setGroup_freeCount (s : State) (k : Nat × Nat) (v : RGroup) : (setGroup s k v).freeCount = s.freeCount := rfl
@[simp] theorem setGroup_nextId (s : State) (k : Nat × Nat) (v : RGroup) : (setGroup s k v).nextId = s.nextId := rfl
@[simp] theorem setGroup_groups (s : State) (k : Nat × Nat) (v : RGroup) : (setGroup s k v).groups = tset k v s.groups := rfl
@[simp] theorem getGroup_setGroup (s : State) (k : Nat × Nat) (v : RGroup) : getGroup (setGroup s k v) k = v := by
  simp [getGroup]
theorem getGroup_setGroup_other (s : State) {k j : Nat × Nat} (v : RGroup) (h : j ≠ k) : getGroup (setGroup s k v) j = getGroup s j :=
  tget_tset_other _ v s.groups h

/-! ### setPort -/

@[simp] theorem setPort_threads (s : State) (k : Eng × Nat) (v : StreamPort) : (setPort s k v).threads = s.threads := rfl
@[simp] theorem setPort_coreNext (s : State) (k : Eng × Nat) (v : StreamPort) : (setPort s k v).coreNext = s.coreNext := rfl
@[simp] theorem setPort_engines (s : State) (k : Eng × Nat) (v : StreamPort) : (setPort s k v).engines = s.engines := rfl
@[simp] theorem setPort_inFlight (s : State) (k : Eng × Nat) (v : StreamPort) : (setPort s k v).inFlight = s.inFlight := rfl
@[simp] theorem setPort_updates (s : State) (k : Eng × Nat) (v : StreamPort) : (setPort s k v).updates = s.updates := rfl
@[simp] theorem setPort_allocWait (s : State) (k : Eng × Nat) (v : StreamPort) : (setPort s k v).allocWait = s.allocWait := rfl
@[simp] theorem setPort_graphs (s : State) (k : Eng × Nat) (v : StreamPort) : (setPort s k v).graphs = s.graphs := rfl
@[simp] theorem setPort_launches (s : State) (k : Eng × Nat) (v : StreamPort) : (setPort s k v).launches = s.launches := rfl
@[simp] theorem setPort_launchQs (s : State) (k : Eng × Nat) (v : StreamPort) : (setPort s k v).launchQs = s.launchQs := rfl
@[simp] theorem setPort_breaks (s : State) (k : Eng × Nat) (v : StreamPort) : (setPort s k v).breaks = s.breaks := rfl
@[simp] theorem setPort_sources (s : State) (k : Eng × Nat) (v : StreamPort) : (setPort s k v).sources = s.sources := rfl
@[simp] theorem setPort_tiles (s : State) (k : Eng × Nat) (v : StreamPort) : (setPort s k v).tiles = s.tiles := rfl
@[simp] theorem setPort_chunkWrites (s : State) (k : Eng × Nat) (v : StreamPort) : (setPort s k v).chunkWrites = s.chunkWrites := rfl
@[simp] theorem setPort_retires (s : State) (k : Eng × Nat) (v : StreamPort) : (setPort s k v).retires = s.retires := rfl
@[simp] theorem setPort_memTiles (s : State) (k : Eng × Nat) (v : StreamPort) : (setPort s k v).memTiles = s.memTiles := rfl
@[simp] theorem setPort_chans (s : State) (k : Eng × Nat) (v : StreamPort) : (setPort s k v).chans = s.chans := rfl
@[simp] theorem setPort_bars (s : State) (k : Eng × Nat) (v : StreamPort) : (setPort s k v).bars = s.bars := rfl
@[simp] theorem setPort_hbm (s : State) (k : Eng × Nat) (v : StreamPort) : (setPort s k v).hbm = s.hbm := rfl
@[simp] theorem setPort_l0 (s : State) (k : Eng × Nat) (v : StreamPort) : (setPort s k v).l0 = s.l0 := rfl
@[simp] theorem setPort_hostMem (s : State) (k : Eng × Nat) (v : StreamPort) : (setPort s k v).hostMem = s.hostMem := rfl
@[simp] theorem setPort_ecc (s : State) (k : Eng × Nat) (v : StreamPort) : (setPort s k v).ecc = s.ecc := rfl
@[simp] theorem setPort_eccL0 (s : State) (k : Eng × Nat) (v : StreamPort) : (setPort s k v).eccL0 = s.eccL0 := rfl
@[simp] theorem setPort_bankModes (s : State) (k : Eng × Nat) (v : StreamPort) : (setPort s k v).bankModes = s.bankModes := rfl
@[simp] theorem setPort_reqs (s : State) (k : Eng × Nat) (v : StreamPort) : (setPort s k v).reqs = s.reqs := rfl
@[simp] theorem setPort_watchHolds (s : State) (k : Eng × Nat) (v : StreamPort) : (setPort s k v).watchHolds = s.watchHolds := rfl
@[simp] theorem setPort_walks (s : State) (k : Eng × Nat) (v : StreamPort) : (setPort s k v).walks = s.walks := rfl
@[simp] theorem setPort_ranges (s : State) (k : Eng × Nat) (v : StreamPort) : (setPort s k v).ranges = s.ranges := rfl
@[simp] theorem setPort_xfers (s : State) (k : Eng × Nat) (v : StreamPort) : (setPort s k v).xfers = s.xfers := rfl
@[simp] theorem setPort_copies (s : State) (k : Eng × Nat) (v : StreamPort) : (setPort s k v).copies = s.copies := rfl
@[simp] theorem setPort_copyQs (s : State) (k : Eng × Nat) (v : StreamPort) : (setPort s k v).copyQs = s.copyQs := rfl
@[simp] theorem setPort_vtiles (s : State) (k : Eng × Nat) (v : StreamPort) : (setPort s k v).vtiles = s.vtiles := rfl
@[simp] theorem setPort_islands (s : State) (k : Eng × Nat) (v : StreamPort) : (setPort s k v).islands = s.islands := rfl
@[simp] theorem setPort_groups (s : State) (k : Eng × Nat) (v : StreamPort) : (setPort s k v).groups = s.groups := rfl
@[simp] theorem setPort_xunits (s : State) (k : Eng × Nat) (v : StreamPort) : (setPort s k v).xunits = s.xunits := rfl
@[simp] theorem setPort_lanes (s : State) (k : Eng × Nat) (v : StreamPort) : (setPort s k v).lanes = s.lanes := rfl
@[simp] theorem setPort_packets (s : State) (k : Eng × Nat) (v : StreamPort) : (setPort s k v).packets = s.packets := rfl
@[simp] theorem setPort_inbox (s : State) (k : Eng × Nat) (v : StreamPort) : (setPort s k v).inbox = s.inbox := rfl
@[simp] theorem setPort_straits (s : State) (k : Eng × Nat) (v : StreamPort) : (setPort s k v).straits = s.straits := rfl
@[simp] theorem setPort_acks (s : State) (k : Eng × Nat) (v : StreamPort) : (setPort s k v).acks = s.acks := rfl
@[simp] theorem setPort_nacks (s : State) (k : Eng × Nat) (v : StreamPort) : (setPort s k v).nacks = s.nacks := rfl
@[simp] theorem setPort_cables (s : State) (k : Eng × Nat) (v : StreamPort) : (setPort s k v).cables = s.cables := rfl
@[simp] theorem setPort_exits (s : State) (k : Eng × Nat) (v : StreamPort) : (setPort s k v).exits = s.exits := rfl
@[simp] theorem setPort_badPages (s : State) (k : Eng × Nat) (v : StreamPort) : (setPort s k v).badPages = s.badPages := rfl
@[simp] theorem setPort_partitions (s : State) (k : Eng × Nat) (v : StreamPort) : (setPort s k v).partitions = s.partitions := rfl
@[simp] theorem setPort_pageOwner (s : State) (k : Eng × Nat) (v : StreamPort) : (setPort s k v).pageOwner = s.pageOwner := rfl
@[simp] theorem setPort_pageOn (s : State) (k : Eng × Nat) (v : StreamPort) : (setPort s k v).pageOn = s.pageOn := rfl
@[simp] theorem setPort_barRuns (s : State) (k : Eng × Nat) (v : StreamPort) : (setPort s k v).barRuns = s.barRuns := rfl
@[simp] theorem setPort_quotas (s : State) (k : Eng × Nat) (v : StreamPort) : (setPort s k v).quotas = s.quotas := rfl
@[simp] theorem setPort_slotTabs (s : State) (k : Eng × Nat) (v : StreamPort) : (setPort s k v).slotTabs = s.slotTabs := rfl
@[simp] theorem setPort_wheels (s : State) (k : Eng × Nat) (v : StreamPort) : (setPort s k v).wheels = s.wheels := rfl
@[simp] theorem setPort_reports (s : State) (k : Eng × Nat) (v : StreamPort) : (setPort s k v).reports = s.reports := rfl
@[simp] theorem setPort_qmReports (s : State) (k : Eng × Nat) (v : StreamPort) : (setPort s k v).qmReports = s.qmReports := rfl
@[simp] theorem setPort_tlb (s : State) (k : Eng × Nat) (v : StreamPort) : (setPort s k v).tlb = s.tlb := rfl
@[simp] theorem setPort_stops (s : State) (k : Eng × Nat) (v : StreamPort) : (setPort s k v).stops = s.stops := rfl
@[simp] theorem setPort_traces (s : State) (k : Eng × Nat) (v : StreamPort) : (setPort s k v).traces = s.traces := rfl
@[simp] theorem setPort_watches (s : State) (k : Eng × Nat) (v : StreamPort) : (setPort s k v).watches = s.watches := rfl
@[simp] theorem setPort_fns (s : State) (k : Eng × Nat) (v : StreamPort) : (setPort s k v).fns = s.fns := rfl
@[simp] theorem setPort_packages (s : State) (k : Eng × Nat) (v : StreamPort) : (setPort s k v).packages = s.packages := rfl
@[simp] theorem setPort_agenda (s : State) (k : Eng × Nat) (v : StreamPort) : (setPort s k v).agenda = s.agenda := rfl
@[simp] theorem setPort_tick (s : State) (k : Eng × Nat) (v : StreamPort) : (setPort s k v).tick = s.tick := rfl
@[simp] theorem setPort_cur (s : State) (k : Eng × Nat) (v : StreamPort) : (setPort s k v).cur = s.cur := rfl
@[simp] theorem setPort_freeCount (s : State) (k : Eng × Nat) (v : StreamPort) : (setPort s k v).freeCount = s.freeCount := rfl
@[simp] theorem setPort_nextId (s : State) (k : Eng × Nat) (v : StreamPort) : (setPort s k v).nextId = s.nextId := rfl
@[simp] theorem setPort_streams (s : State) (k : Eng × Nat) (v : StreamPort) : (setPort s k v).streams = tset k v s.streams := rfl
@[simp] theorem getPort_setPort (s : State) (k : Eng × Nat) (v : StreamPort) : getPort (setPort s k v) k = v := by
  simp [getPort]
theorem getPort_setPort_other (s : State) {k j : Eng × Nat} (v : StreamPort) (h : j ≠ k) : getPort (setPort s k v) j = getPort s j :=
  tget_tset_other _ v s.streams h

/-! ### setStrait -/

@[simp] theorem setStrait_threads (s : State) (k : Eng) (v : Strait) : (setStrait s k v).threads = s.threads := rfl
@[simp] theorem setStrait_coreNext (s : State) (k : Eng) (v : Strait) : (setStrait s k v).coreNext = s.coreNext := rfl
@[simp] theorem setStrait_engines (s : State) (k : Eng) (v : Strait) : (setStrait s k v).engines = s.engines := rfl
@[simp] theorem setStrait_inFlight (s : State) (k : Eng) (v : Strait) : (setStrait s k v).inFlight = s.inFlight := rfl
@[simp] theorem setStrait_updates (s : State) (k : Eng) (v : Strait) : (setStrait s k v).updates = s.updates := rfl
@[simp] theorem setStrait_allocWait (s : State) (k : Eng) (v : Strait) : (setStrait s k v).allocWait = s.allocWait := rfl
@[simp] theorem setStrait_graphs (s : State) (k : Eng) (v : Strait) : (setStrait s k v).graphs = s.graphs := rfl
@[simp] theorem setStrait_launches (s : State) (k : Eng) (v : Strait) : (setStrait s k v).launches = s.launches := rfl
@[simp] theorem setStrait_launchQs (s : State) (k : Eng) (v : Strait) : (setStrait s k v).launchQs = s.launchQs := rfl
@[simp] theorem setStrait_breaks (s : State) (k : Eng) (v : Strait) : (setStrait s k v).breaks = s.breaks := rfl
@[simp] theorem setStrait_sources (s : State) (k : Eng) (v : Strait) : (setStrait s k v).sources = s.sources := rfl
@[simp] theorem setStrait_tiles (s : State) (k : Eng) (v : Strait) : (setStrait s k v).tiles = s.tiles := rfl
@[simp] theorem setStrait_chunkWrites (s : State) (k : Eng) (v : Strait) : (setStrait s k v).chunkWrites = s.chunkWrites := rfl
@[simp] theorem setStrait_retires (s : State) (k : Eng) (v : Strait) : (setStrait s k v).retires = s.retires := rfl
@[simp] theorem setStrait_memTiles (s : State) (k : Eng) (v : Strait) : (setStrait s k v).memTiles = s.memTiles := rfl
@[simp] theorem setStrait_chans (s : State) (k : Eng) (v : Strait) : (setStrait s k v).chans = s.chans := rfl
@[simp] theorem setStrait_bars (s : State) (k : Eng) (v : Strait) : (setStrait s k v).bars = s.bars := rfl
@[simp] theorem setStrait_hbm (s : State) (k : Eng) (v : Strait) : (setStrait s k v).hbm = s.hbm := rfl
@[simp] theorem setStrait_l0 (s : State) (k : Eng) (v : Strait) : (setStrait s k v).l0 = s.l0 := rfl
@[simp] theorem setStrait_hostMem (s : State) (k : Eng) (v : Strait) : (setStrait s k v).hostMem = s.hostMem := rfl
@[simp] theorem setStrait_ecc (s : State) (k : Eng) (v : Strait) : (setStrait s k v).ecc = s.ecc := rfl
@[simp] theorem setStrait_eccL0 (s : State) (k : Eng) (v : Strait) : (setStrait s k v).eccL0 = s.eccL0 := rfl
@[simp] theorem setStrait_bankModes (s : State) (k : Eng) (v : Strait) : (setStrait s k v).bankModes = s.bankModes := rfl
@[simp] theorem setStrait_reqs (s : State) (k : Eng) (v : Strait) : (setStrait s k v).reqs = s.reqs := rfl
@[simp] theorem setStrait_watchHolds (s : State) (k : Eng) (v : Strait) : (setStrait s k v).watchHolds = s.watchHolds := rfl
@[simp] theorem setStrait_walks (s : State) (k : Eng) (v : Strait) : (setStrait s k v).walks = s.walks := rfl
@[simp] theorem setStrait_ranges (s : State) (k : Eng) (v : Strait) : (setStrait s k v).ranges = s.ranges := rfl
@[simp] theorem setStrait_xfers (s : State) (k : Eng) (v : Strait) : (setStrait s k v).xfers = s.xfers := rfl
@[simp] theorem setStrait_copies (s : State) (k : Eng) (v : Strait) : (setStrait s k v).copies = s.copies := rfl
@[simp] theorem setStrait_copyQs (s : State) (k : Eng) (v : Strait) : (setStrait s k v).copyQs = s.copyQs := rfl
@[simp] theorem setStrait_vtiles (s : State) (k : Eng) (v : Strait) : (setStrait s k v).vtiles = s.vtiles := rfl
@[simp] theorem setStrait_islands (s : State) (k : Eng) (v : Strait) : (setStrait s k v).islands = s.islands := rfl
@[simp] theorem setStrait_groups (s : State) (k : Eng) (v : Strait) : (setStrait s k v).groups = s.groups := rfl
@[simp] theorem setStrait_xunits (s : State) (k : Eng) (v : Strait) : (setStrait s k v).xunits = s.xunits := rfl
@[simp] theorem setStrait_streams (s : State) (k : Eng) (v : Strait) : (setStrait s k v).streams = s.streams := rfl
@[simp] theorem setStrait_lanes (s : State) (k : Eng) (v : Strait) : (setStrait s k v).lanes = s.lanes := rfl
@[simp] theorem setStrait_packets (s : State) (k : Eng) (v : Strait) : (setStrait s k v).packets = s.packets := rfl
@[simp] theorem setStrait_inbox (s : State) (k : Eng) (v : Strait) : (setStrait s k v).inbox = s.inbox := rfl
@[simp] theorem setStrait_acks (s : State) (k : Eng) (v : Strait) : (setStrait s k v).acks = s.acks := rfl
@[simp] theorem setStrait_nacks (s : State) (k : Eng) (v : Strait) : (setStrait s k v).nacks = s.nacks := rfl
@[simp] theorem setStrait_cables (s : State) (k : Eng) (v : Strait) : (setStrait s k v).cables = s.cables := rfl
@[simp] theorem setStrait_exits (s : State) (k : Eng) (v : Strait) : (setStrait s k v).exits = s.exits := rfl
@[simp] theorem setStrait_badPages (s : State) (k : Eng) (v : Strait) : (setStrait s k v).badPages = s.badPages := rfl
@[simp] theorem setStrait_partitions (s : State) (k : Eng) (v : Strait) : (setStrait s k v).partitions = s.partitions := rfl
@[simp] theorem setStrait_pageOwner (s : State) (k : Eng) (v : Strait) : (setStrait s k v).pageOwner = s.pageOwner := rfl
@[simp] theorem setStrait_pageOn (s : State) (k : Eng) (v : Strait) : (setStrait s k v).pageOn = s.pageOn := rfl
@[simp] theorem setStrait_barRuns (s : State) (k : Eng) (v : Strait) : (setStrait s k v).barRuns = s.barRuns := rfl
@[simp] theorem setStrait_quotas (s : State) (k : Eng) (v : Strait) : (setStrait s k v).quotas = s.quotas := rfl
@[simp] theorem setStrait_slotTabs (s : State) (k : Eng) (v : Strait) : (setStrait s k v).slotTabs = s.slotTabs := rfl
@[simp] theorem setStrait_wheels (s : State) (k : Eng) (v : Strait) : (setStrait s k v).wheels = s.wheels := rfl
@[simp] theorem setStrait_reports (s : State) (k : Eng) (v : Strait) : (setStrait s k v).reports = s.reports := rfl
@[simp] theorem setStrait_qmReports (s : State) (k : Eng) (v : Strait) : (setStrait s k v).qmReports = s.qmReports := rfl
@[simp] theorem setStrait_tlb (s : State) (k : Eng) (v : Strait) : (setStrait s k v).tlb = s.tlb := rfl
@[simp] theorem setStrait_stops (s : State) (k : Eng) (v : Strait) : (setStrait s k v).stops = s.stops := rfl
@[simp] theorem setStrait_traces (s : State) (k : Eng) (v : Strait) : (setStrait s k v).traces = s.traces := rfl
@[simp] theorem setStrait_watches (s : State) (k : Eng) (v : Strait) : (setStrait s k v).watches = s.watches := rfl
@[simp] theorem setStrait_fns (s : State) (k : Eng) (v : Strait) : (setStrait s k v).fns = s.fns := rfl
@[simp] theorem setStrait_packages (s : State) (k : Eng) (v : Strait) : (setStrait s k v).packages = s.packages := rfl
@[simp] theorem setStrait_agenda (s : State) (k : Eng) (v : Strait) : (setStrait s k v).agenda = s.agenda := rfl
@[simp] theorem setStrait_tick (s : State) (k : Eng) (v : Strait) : (setStrait s k v).tick = s.tick := rfl
@[simp] theorem setStrait_cur (s : State) (k : Eng) (v : Strait) : (setStrait s k v).cur = s.cur := rfl
@[simp] theorem setStrait_freeCount (s : State) (k : Eng) (v : Strait) : (setStrait s k v).freeCount = s.freeCount := rfl
@[simp] theorem setStrait_nextId (s : State) (k : Eng) (v : Strait) : (setStrait s k v).nextId = s.nextId := rfl
@[simp] theorem setStrait_straits (s : State) (k : Eng) (v : Strait) : (setStrait s k v).straits = tset k v s.straits := rfl
@[simp] theorem getStrait_setStrait (s : State) (k : Eng) (v : Strait) : getStrait (setStrait s k v) k = v := by
  simp [getStrait]
theorem getStrait_setStrait_other (s : State) {k j : Eng} (v : Strait) (h : j ≠ k) : getStrait (setStrait s k v) j = getStrait s j :=
  tget_tset_other _ v s.straits h

/-! ### setQuota -/

@[simp] theorem setQuota_threads (s : State) (k : Nat × Nat × Nat) (v : Quota) : (setQuota s k v).threads = s.threads := rfl
@[simp] theorem setQuota_coreNext (s : State) (k : Nat × Nat × Nat) (v : Quota) : (setQuota s k v).coreNext = s.coreNext := rfl
@[simp] theorem setQuota_engines (s : State) (k : Nat × Nat × Nat) (v : Quota) : (setQuota s k v).engines = s.engines := rfl
@[simp] theorem setQuota_inFlight (s : State) (k : Nat × Nat × Nat) (v : Quota) : (setQuota s k v).inFlight = s.inFlight := rfl
@[simp] theorem setQuota_updates (s : State) (k : Nat × Nat × Nat) (v : Quota) : (setQuota s k v).updates = s.updates := rfl
@[simp] theorem setQuota_allocWait (s : State) (k : Nat × Nat × Nat) (v : Quota) : (setQuota s k v).allocWait = s.allocWait := rfl
@[simp] theorem setQuota_graphs (s : State) (k : Nat × Nat × Nat) (v : Quota) : (setQuota s k v).graphs = s.graphs := rfl
@[simp] theorem setQuota_launches (s : State) (k : Nat × Nat × Nat) (v : Quota) : (setQuota s k v).launches = s.launches := rfl
@[simp] theorem setQuota_launchQs (s : State) (k : Nat × Nat × Nat) (v : Quota) : (setQuota s k v).launchQs = s.launchQs := rfl
@[simp] theorem setQuota_breaks (s : State) (k : Nat × Nat × Nat) (v : Quota) : (setQuota s k v).breaks = s.breaks := rfl
@[simp] theorem setQuota_sources (s : State) (k : Nat × Nat × Nat) (v : Quota) : (setQuota s k v).sources = s.sources := rfl
@[simp] theorem setQuota_tiles (s : State) (k : Nat × Nat × Nat) (v : Quota) : (setQuota s k v).tiles = s.tiles := rfl
@[simp] theorem setQuota_chunkWrites (s : State) (k : Nat × Nat × Nat) (v : Quota) : (setQuota s k v).chunkWrites = s.chunkWrites := rfl
@[simp] theorem setQuota_retires (s : State) (k : Nat × Nat × Nat) (v : Quota) : (setQuota s k v).retires = s.retires := rfl
@[simp] theorem setQuota_memTiles (s : State) (k : Nat × Nat × Nat) (v : Quota) : (setQuota s k v).memTiles = s.memTiles := rfl
@[simp] theorem setQuota_chans (s : State) (k : Nat × Nat × Nat) (v : Quota) : (setQuota s k v).chans = s.chans := rfl
@[simp] theorem setQuota_bars (s : State) (k : Nat × Nat × Nat) (v : Quota) : (setQuota s k v).bars = s.bars := rfl
@[simp] theorem setQuota_hbm (s : State) (k : Nat × Nat × Nat) (v : Quota) : (setQuota s k v).hbm = s.hbm := rfl
@[simp] theorem setQuota_l0 (s : State) (k : Nat × Nat × Nat) (v : Quota) : (setQuota s k v).l0 = s.l0 := rfl
@[simp] theorem setQuota_hostMem (s : State) (k : Nat × Nat × Nat) (v : Quota) : (setQuota s k v).hostMem = s.hostMem := rfl
@[simp] theorem setQuota_ecc (s : State) (k : Nat × Nat × Nat) (v : Quota) : (setQuota s k v).ecc = s.ecc := rfl
@[simp] theorem setQuota_eccL0 (s : State) (k : Nat × Nat × Nat) (v : Quota) : (setQuota s k v).eccL0 = s.eccL0 := rfl
@[simp] theorem setQuota_bankModes (s : State) (k : Nat × Nat × Nat) (v : Quota) : (setQuota s k v).bankModes = s.bankModes := rfl
@[simp] theorem setQuota_reqs (s : State) (k : Nat × Nat × Nat) (v : Quota) : (setQuota s k v).reqs = s.reqs := rfl
@[simp] theorem setQuota_watchHolds (s : State) (k : Nat × Nat × Nat) (v : Quota) : (setQuota s k v).watchHolds = s.watchHolds := rfl
@[simp] theorem setQuota_walks (s : State) (k : Nat × Nat × Nat) (v : Quota) : (setQuota s k v).walks = s.walks := rfl
@[simp] theorem setQuota_ranges (s : State) (k : Nat × Nat × Nat) (v : Quota) : (setQuota s k v).ranges = s.ranges := rfl
@[simp] theorem setQuota_xfers (s : State) (k : Nat × Nat × Nat) (v : Quota) : (setQuota s k v).xfers = s.xfers := rfl
@[simp] theorem setQuota_copies (s : State) (k : Nat × Nat × Nat) (v : Quota) : (setQuota s k v).copies = s.copies := rfl
@[simp] theorem setQuota_copyQs (s : State) (k : Nat × Nat × Nat) (v : Quota) : (setQuota s k v).copyQs = s.copyQs := rfl
@[simp] theorem setQuota_vtiles (s : State) (k : Nat × Nat × Nat) (v : Quota) : (setQuota s k v).vtiles = s.vtiles := rfl
@[simp] theorem setQuota_islands (s : State) (k : Nat × Nat × Nat) (v : Quota) : (setQuota s k v).islands = s.islands := rfl
@[simp] theorem setQuota_groups (s : State) (k : Nat × Nat × Nat) (v : Quota) : (setQuota s k v).groups = s.groups := rfl
@[simp] theorem setQuota_xunits (s : State) (k : Nat × Nat × Nat) (v : Quota) : (setQuota s k v).xunits = s.xunits := rfl
@[simp] theorem setQuota_streams (s : State) (k : Nat × Nat × Nat) (v : Quota) : (setQuota s k v).streams = s.streams := rfl
@[simp] theorem setQuota_lanes (s : State) (k : Nat × Nat × Nat) (v : Quota) : (setQuota s k v).lanes = s.lanes := rfl
@[simp] theorem setQuota_packets (s : State) (k : Nat × Nat × Nat) (v : Quota) : (setQuota s k v).packets = s.packets := rfl
@[simp] theorem setQuota_inbox (s : State) (k : Nat × Nat × Nat) (v : Quota) : (setQuota s k v).inbox = s.inbox := rfl
@[simp] theorem setQuota_straits (s : State) (k : Nat × Nat × Nat) (v : Quota) : (setQuota s k v).straits = s.straits := rfl
@[simp] theorem setQuota_acks (s : State) (k : Nat × Nat × Nat) (v : Quota) : (setQuota s k v).acks = s.acks := rfl
@[simp] theorem setQuota_nacks (s : State) (k : Nat × Nat × Nat) (v : Quota) : (setQuota s k v).nacks = s.nacks := rfl
@[simp] theorem setQuota_cables (s : State) (k : Nat × Nat × Nat) (v : Quota) : (setQuota s k v).cables = s.cables := rfl
@[simp] theorem setQuota_exits (s : State) (k : Nat × Nat × Nat) (v : Quota) : (setQuota s k v).exits = s.exits := rfl
@[simp] theorem setQuota_badPages (s : State) (k : Nat × Nat × Nat) (v : Quota) : (setQuota s k v).badPages = s.badPages := rfl
@[simp] theorem setQuota_partitions (s : State) (k : Nat × Nat × Nat) (v : Quota) : (setQuota s k v).partitions = s.partitions := rfl
@[simp] theorem setQuota_pageOwner (s : State) (k : Nat × Nat × Nat) (v : Quota) : (setQuota s k v).pageOwner = s.pageOwner := rfl
@[simp] theorem setQuota_pageOn (s : State) (k : Nat × Nat × Nat) (v : Quota) : (setQuota s k v).pageOn = s.pageOn := rfl
@[simp] theorem setQuota_barRuns (s : State) (k : Nat × Nat × Nat) (v : Quota) : (setQuota s k v).barRuns = s.barRuns := rfl
@[simp] theorem setQuota_slotTabs (s : State) (k : Nat × Nat × Nat) (v : Quota) : (setQuota s k v).slotTabs = s.slotTabs := rfl
@[simp] theorem setQuota_wheels (s : State) (k : Nat × Nat × Nat) (v : Quota) : (setQuota s k v).wheels = s.wheels := rfl
@[simp] theorem setQuota_reports (s : State) (k : Nat × Nat × Nat) (v : Quota) : (setQuota s k v).reports = s.reports := rfl
@[simp] theorem setQuota_qmReports (s : State) (k : Nat × Nat × Nat) (v : Quota) : (setQuota s k v).qmReports = s.qmReports := rfl
@[simp] theorem setQuota_tlb (s : State) (k : Nat × Nat × Nat) (v : Quota) : (setQuota s k v).tlb = s.tlb := rfl
@[simp] theorem setQuota_stops (s : State) (k : Nat × Nat × Nat) (v : Quota) : (setQuota s k v).stops = s.stops := rfl
@[simp] theorem setQuota_traces (s : State) (k : Nat × Nat × Nat) (v : Quota) : (setQuota s k v).traces = s.traces := rfl
@[simp] theorem setQuota_watches (s : State) (k : Nat × Nat × Nat) (v : Quota) : (setQuota s k v).watches = s.watches := rfl
@[simp] theorem setQuota_fns (s : State) (k : Nat × Nat × Nat) (v : Quota) : (setQuota s k v).fns = s.fns := rfl
@[simp] theorem setQuota_packages (s : State) (k : Nat × Nat × Nat) (v : Quota) : (setQuota s k v).packages = s.packages := rfl
@[simp] theorem setQuota_agenda (s : State) (k : Nat × Nat × Nat) (v : Quota) : (setQuota s k v).agenda = s.agenda := rfl
@[simp] theorem setQuota_tick (s : State) (k : Nat × Nat × Nat) (v : Quota) : (setQuota s k v).tick = s.tick := rfl
@[simp] theorem setQuota_cur (s : State) (k : Nat × Nat × Nat) (v : Quota) : (setQuota s k v).cur = s.cur := rfl
@[simp] theorem setQuota_freeCount (s : State) (k : Nat × Nat × Nat) (v : Quota) : (setQuota s k v).freeCount = s.freeCount := rfl
@[simp] theorem setQuota_nextId (s : State) (k : Nat × Nat × Nat) (v : Quota) : (setQuota s k v).nextId = s.nextId := rfl
@[simp] theorem setQuota_quotas (s : State) (k : Nat × Nat × Nat) (v : Quota) : (setQuota s k v).quotas = tset k v s.quotas := rfl
@[simp] theorem getQuota_setQuota (s : State) (k : Nat × Nat × Nat) (v : Quota) : getQuota (setQuota s k v) k = v := by
  simp [getQuota]
theorem getQuota_setQuota_other (s : State) {k j : Nat × Nat × Nat} (v : Quota) (h : j ≠ k) : getQuota (setQuota s k v) j = getQuota s j :=
  tget_tset_other _ v s.quotas h

/-! ### setSlotTab -/

@[simp] theorem setSlotTab_threads (s : State) (k : Eng) (v : SlotTab) : (setSlotTab s k v).threads = s.threads := rfl
@[simp] theorem setSlotTab_coreNext (s : State) (k : Eng) (v : SlotTab) : (setSlotTab s k v).coreNext = s.coreNext := rfl
@[simp] theorem setSlotTab_engines (s : State) (k : Eng) (v : SlotTab) : (setSlotTab s k v).engines = s.engines := rfl
@[simp] theorem setSlotTab_inFlight (s : State) (k : Eng) (v : SlotTab) : (setSlotTab s k v).inFlight = s.inFlight := rfl
@[simp] theorem setSlotTab_updates (s : State) (k : Eng) (v : SlotTab) : (setSlotTab s k v).updates = s.updates := rfl
@[simp] theorem setSlotTab_allocWait (s : State) (k : Eng) (v : SlotTab) : (setSlotTab s k v).allocWait = s.allocWait := rfl
@[simp] theorem setSlotTab_graphs (s : State) (k : Eng) (v : SlotTab) : (setSlotTab s k v).graphs = s.graphs := rfl
@[simp] theorem setSlotTab_launches (s : State) (k : Eng) (v : SlotTab) : (setSlotTab s k v).launches = s.launches := rfl
@[simp] theorem setSlotTab_launchQs (s : State) (k : Eng) (v : SlotTab) : (setSlotTab s k v).launchQs = s.launchQs := rfl
@[simp] theorem setSlotTab_breaks (s : State) (k : Eng) (v : SlotTab) : (setSlotTab s k v).breaks = s.breaks := rfl
@[simp] theorem setSlotTab_sources (s : State) (k : Eng) (v : SlotTab) : (setSlotTab s k v).sources = s.sources := rfl
@[simp] theorem setSlotTab_tiles (s : State) (k : Eng) (v : SlotTab) : (setSlotTab s k v).tiles = s.tiles := rfl
@[simp] theorem setSlotTab_chunkWrites (s : State) (k : Eng) (v : SlotTab) : (setSlotTab s k v).chunkWrites = s.chunkWrites := rfl
@[simp] theorem setSlotTab_retires (s : State) (k : Eng) (v : SlotTab) : (setSlotTab s k v).retires = s.retires := rfl
@[simp] theorem setSlotTab_memTiles (s : State) (k : Eng) (v : SlotTab) : (setSlotTab s k v).memTiles = s.memTiles := rfl
@[simp] theorem setSlotTab_chans (s : State) (k : Eng) (v : SlotTab) : (setSlotTab s k v).chans = s.chans := rfl
@[simp] theorem setSlotTab_bars (s : State) (k : Eng) (v : SlotTab) : (setSlotTab s k v).bars = s.bars := rfl
@[simp] theorem setSlotTab_hbm (s : State) (k : Eng) (v : SlotTab) : (setSlotTab s k v).hbm = s.hbm := rfl
@[simp] theorem setSlotTab_l0 (s : State) (k : Eng) (v : SlotTab) : (setSlotTab s k v).l0 = s.l0 := rfl
@[simp] theorem setSlotTab_hostMem (s : State) (k : Eng) (v : SlotTab) : (setSlotTab s k v).hostMem = s.hostMem := rfl
@[simp] theorem setSlotTab_ecc (s : State) (k : Eng) (v : SlotTab) : (setSlotTab s k v).ecc = s.ecc := rfl
@[simp] theorem setSlotTab_eccL0 (s : State) (k : Eng) (v : SlotTab) : (setSlotTab s k v).eccL0 = s.eccL0 := rfl
@[simp] theorem setSlotTab_bankModes (s : State) (k : Eng) (v : SlotTab) : (setSlotTab s k v).bankModes = s.bankModes := rfl
@[simp] theorem setSlotTab_reqs (s : State) (k : Eng) (v : SlotTab) : (setSlotTab s k v).reqs = s.reqs := rfl
@[simp] theorem setSlotTab_watchHolds (s : State) (k : Eng) (v : SlotTab) : (setSlotTab s k v).watchHolds = s.watchHolds := rfl
@[simp] theorem setSlotTab_walks (s : State) (k : Eng) (v : SlotTab) : (setSlotTab s k v).walks = s.walks := rfl
@[simp] theorem setSlotTab_ranges (s : State) (k : Eng) (v : SlotTab) : (setSlotTab s k v).ranges = s.ranges := rfl
@[simp] theorem setSlotTab_xfers (s : State) (k : Eng) (v : SlotTab) : (setSlotTab s k v).xfers = s.xfers := rfl
@[simp] theorem setSlotTab_copies (s : State) (k : Eng) (v : SlotTab) : (setSlotTab s k v).copies = s.copies := rfl
@[simp] theorem setSlotTab_copyQs (s : State) (k : Eng) (v : SlotTab) : (setSlotTab s k v).copyQs = s.copyQs := rfl
@[simp] theorem setSlotTab_vtiles (s : State) (k : Eng) (v : SlotTab) : (setSlotTab s k v).vtiles = s.vtiles := rfl
@[simp] theorem setSlotTab_islands (s : State) (k : Eng) (v : SlotTab) : (setSlotTab s k v).islands = s.islands := rfl
@[simp] theorem setSlotTab_groups (s : State) (k : Eng) (v : SlotTab) : (setSlotTab s k v).groups = s.groups := rfl
@[simp] theorem setSlotTab_xunits (s : State) (k : Eng) (v : SlotTab) : (setSlotTab s k v).xunits = s.xunits := rfl
@[simp] theorem setSlotTab_streams (s : State) (k : Eng) (v : SlotTab) : (setSlotTab s k v).streams = s.streams := rfl
@[simp] theorem setSlotTab_lanes (s : State) (k : Eng) (v : SlotTab) : (setSlotTab s k v).lanes = s.lanes := rfl
@[simp] theorem setSlotTab_packets (s : State) (k : Eng) (v : SlotTab) : (setSlotTab s k v).packets = s.packets := rfl
@[simp] theorem setSlotTab_inbox (s : State) (k : Eng) (v : SlotTab) : (setSlotTab s k v).inbox = s.inbox := rfl
@[simp] theorem setSlotTab_straits (s : State) (k : Eng) (v : SlotTab) : (setSlotTab s k v).straits = s.straits := rfl
@[simp] theorem setSlotTab_acks (s : State) (k : Eng) (v : SlotTab) : (setSlotTab s k v).acks = s.acks := rfl
@[simp] theorem setSlotTab_nacks (s : State) (k : Eng) (v : SlotTab) : (setSlotTab s k v).nacks = s.nacks := rfl
@[simp] theorem setSlotTab_cables (s : State) (k : Eng) (v : SlotTab) : (setSlotTab s k v).cables = s.cables := rfl
@[simp] theorem setSlotTab_exits (s : State) (k : Eng) (v : SlotTab) : (setSlotTab s k v).exits = s.exits := rfl
@[simp] theorem setSlotTab_badPages (s : State) (k : Eng) (v : SlotTab) : (setSlotTab s k v).badPages = s.badPages := rfl
@[simp] theorem setSlotTab_partitions (s : State) (k : Eng) (v : SlotTab) : (setSlotTab s k v).partitions = s.partitions := rfl
@[simp] theorem setSlotTab_pageOwner (s : State) (k : Eng) (v : SlotTab) : (setSlotTab s k v).pageOwner = s.pageOwner := rfl
@[simp] theorem setSlotTab_pageOn (s : State) (k : Eng) (v : SlotTab) : (setSlotTab s k v).pageOn = s.pageOn := rfl
@[simp] theorem setSlotTab_barRuns (s : State) (k : Eng) (v : SlotTab) : (setSlotTab s k v).barRuns = s.barRuns := rfl
@[simp] theorem setSlotTab_quotas (s : State) (k : Eng) (v : SlotTab) : (setSlotTab s k v).quotas = s.quotas := rfl
@[simp] theorem setSlotTab_wheels (s : State) (k : Eng) (v : SlotTab) : (setSlotTab s k v).wheels = s.wheels := rfl
@[simp] theorem setSlotTab_reports (s : State) (k : Eng) (v : SlotTab) : (setSlotTab s k v).reports = s.reports := rfl
@[simp] theorem setSlotTab_qmReports (s : State) (k : Eng) (v : SlotTab) : (setSlotTab s k v).qmReports = s.qmReports := rfl
@[simp] theorem setSlotTab_tlb (s : State) (k : Eng) (v : SlotTab) : (setSlotTab s k v).tlb = s.tlb := rfl
@[simp] theorem setSlotTab_stops (s : State) (k : Eng) (v : SlotTab) : (setSlotTab s k v).stops = s.stops := rfl
@[simp] theorem setSlotTab_traces (s : State) (k : Eng) (v : SlotTab) : (setSlotTab s k v).traces = s.traces := rfl
@[simp] theorem setSlotTab_watches (s : State) (k : Eng) (v : SlotTab) : (setSlotTab s k v).watches = s.watches := rfl
@[simp] theorem setSlotTab_fns (s : State) (k : Eng) (v : SlotTab) : (setSlotTab s k v).fns = s.fns := rfl
@[simp] theorem setSlotTab_packages (s : State) (k : Eng) (v : SlotTab) : (setSlotTab s k v).packages = s.packages := rfl
@[simp] theorem setSlotTab_agenda (s : State) (k : Eng) (v : SlotTab) : (setSlotTab s k v).agenda = s.agenda := rfl
@[simp] theorem setSlotTab_tick (s : State) (k : Eng) (v : SlotTab) : (setSlotTab s k v).tick = s.tick := rfl
@[simp] theorem setSlotTab_cur (s : State) (k : Eng) (v : SlotTab) : (setSlotTab s k v).cur = s.cur := rfl
@[simp] theorem setSlotTab_freeCount (s : State) (k : Eng) (v : SlotTab) : (setSlotTab s k v).freeCount = s.freeCount := rfl
@[simp] theorem setSlotTab_nextId (s : State) (k : Eng) (v : SlotTab) : (setSlotTab s k v).nextId = s.nextId := rfl
@[simp] theorem setSlotTab_slotTabs (s : State) (k : Eng) (v : SlotTab) : (setSlotTab s k v).slotTabs = tset k v s.slotTabs := rfl
@[simp] theorem getSlotTab_setSlotTab (s : State) (k : Eng) (v : SlotTab) : getSlotTab (setSlotTab s k v) k = v := by
  simp [getSlotTab]
theorem getSlotTab_setSlotTab_other (s : State) {k j : Eng} (v : SlotTab) (h : j ≠ k) : getSlotTab (setSlotTab s k v) j = getSlotTab s j :=
  tget_tset_other _ v s.slotTabs h

/-! ### setWheel -/

@[simp] theorem setWheel_threads (s : State) (k : Nat × Nat) (v : Wheel) : (setWheel s k v).threads = s.threads := rfl
@[simp] theorem setWheel_coreNext (s : State) (k : Nat × Nat) (v : Wheel) : (setWheel s k v).coreNext = s.coreNext := rfl
@[simp] theorem setWheel_engines (s : State) (k : Nat × Nat) (v : Wheel) : (setWheel s k v).engines = s.engines := rfl
@[simp] theorem setWheel_inFlight (s : State) (k : Nat × Nat) (v : Wheel) : (setWheel s k v).inFlight = s.inFlight := rfl
@[simp] theorem setWheel_updates (s : State) (k : Nat × Nat) (v : Wheel) : (setWheel s k v).updates = s.updates := rfl
@[simp] theorem setWheel_allocWait (s : State) (k : Nat × Nat) (v : Wheel) : (setWheel s k v).allocWait = s.allocWait := rfl
@[simp] theorem setWheel_graphs (s : State) (k : Nat × Nat) (v : Wheel) : (setWheel s k v).graphs = s.graphs := rfl
@[simp] theorem setWheel_launches (s : State) (k : Nat × Nat) (v : Wheel) : (setWheel s k v).launches = s.launches := rfl
@[simp] theorem setWheel_launchQs (s : State) (k : Nat × Nat) (v : Wheel) : (setWheel s k v).launchQs = s.launchQs := rfl
@[simp] theorem setWheel_breaks (s : State) (k : Nat × Nat) (v : Wheel) : (setWheel s k v).breaks = s.breaks := rfl
@[simp] theorem setWheel_sources (s : State) (k : Nat × Nat) (v : Wheel) : (setWheel s k v).sources = s.sources := rfl
@[simp] theorem setWheel_tiles (s : State) (k : Nat × Nat) (v : Wheel) : (setWheel s k v).tiles = s.tiles := rfl
@[simp] theorem setWheel_chunkWrites (s : State) (k : Nat × Nat) (v : Wheel) : (setWheel s k v).chunkWrites = s.chunkWrites := rfl
@[simp] theorem setWheel_retires (s : State) (k : Nat × Nat) (v : Wheel) : (setWheel s k v).retires = s.retires := rfl
@[simp] theorem setWheel_memTiles (s : State) (k : Nat × Nat) (v : Wheel) : (setWheel s k v).memTiles = s.memTiles := rfl
@[simp] theorem setWheel_chans (s : State) (k : Nat × Nat) (v : Wheel) : (setWheel s k v).chans = s.chans := rfl
@[simp] theorem setWheel_bars (s : State) (k : Nat × Nat) (v : Wheel) : (setWheel s k v).bars = s.bars := rfl
@[simp] theorem setWheel_hbm (s : State) (k : Nat × Nat) (v : Wheel) : (setWheel s k v).hbm = s.hbm := rfl
@[simp] theorem setWheel_l0 (s : State) (k : Nat × Nat) (v : Wheel) : (setWheel s k v).l0 = s.l0 := rfl
@[simp] theorem setWheel_hostMem (s : State) (k : Nat × Nat) (v : Wheel) : (setWheel s k v).hostMem = s.hostMem := rfl
@[simp] theorem setWheel_ecc (s : State) (k : Nat × Nat) (v : Wheel) : (setWheel s k v).ecc = s.ecc := rfl
@[simp] theorem setWheel_eccL0 (s : State) (k : Nat × Nat) (v : Wheel) : (setWheel s k v).eccL0 = s.eccL0 := rfl
@[simp] theorem setWheel_bankModes (s : State) (k : Nat × Nat) (v : Wheel) : (setWheel s k v).bankModes = s.bankModes := rfl
@[simp] theorem setWheel_reqs (s : State) (k : Nat × Nat) (v : Wheel) : (setWheel s k v).reqs = s.reqs := rfl
@[simp] theorem setWheel_watchHolds (s : State) (k : Nat × Nat) (v : Wheel) : (setWheel s k v).watchHolds = s.watchHolds := rfl
@[simp] theorem setWheel_walks (s : State) (k : Nat × Nat) (v : Wheel) : (setWheel s k v).walks = s.walks := rfl
@[simp] theorem setWheel_ranges (s : State) (k : Nat × Nat) (v : Wheel) : (setWheel s k v).ranges = s.ranges := rfl
@[simp] theorem setWheel_xfers (s : State) (k : Nat × Nat) (v : Wheel) : (setWheel s k v).xfers = s.xfers := rfl
@[simp] theorem setWheel_copies (s : State) (k : Nat × Nat) (v : Wheel) : (setWheel s k v).copies = s.copies := rfl
@[simp] theorem setWheel_copyQs (s : State) (k : Nat × Nat) (v : Wheel) : (setWheel s k v).copyQs = s.copyQs := rfl
@[simp] theorem setWheel_vtiles (s : State) (k : Nat × Nat) (v : Wheel) : (setWheel s k v).vtiles = s.vtiles := rfl
@[simp] theorem setWheel_islands (s : State) (k : Nat × Nat) (v : Wheel) : (setWheel s k v).islands = s.islands := rfl
@[simp] theorem setWheel_groups (s : State) (k : Nat × Nat) (v : Wheel) : (setWheel s k v).groups = s.groups := rfl
@[simp] theorem setWheel_xunits (s : State) (k : Nat × Nat) (v : Wheel) : (setWheel s k v).xunits = s.xunits := rfl
@[simp] theorem setWheel_streams (s : State) (k : Nat × Nat) (v : Wheel) : (setWheel s k v).streams = s.streams := rfl
@[simp] theorem setWheel_lanes (s : State) (k : Nat × Nat) (v : Wheel) : (setWheel s k v).lanes = s.lanes := rfl
@[simp] theorem setWheel_packets (s : State) (k : Nat × Nat) (v : Wheel) : (setWheel s k v).packets = s.packets := rfl
@[simp] theorem setWheel_inbox (s : State) (k : Nat × Nat) (v : Wheel) : (setWheel s k v).inbox = s.inbox := rfl
@[simp] theorem setWheel_straits (s : State) (k : Nat × Nat) (v : Wheel) : (setWheel s k v).straits = s.straits := rfl
@[simp] theorem setWheel_acks (s : State) (k : Nat × Nat) (v : Wheel) : (setWheel s k v).acks = s.acks := rfl
@[simp] theorem setWheel_nacks (s : State) (k : Nat × Nat) (v : Wheel) : (setWheel s k v).nacks = s.nacks := rfl
@[simp] theorem setWheel_cables (s : State) (k : Nat × Nat) (v : Wheel) : (setWheel s k v).cables = s.cables := rfl
@[simp] theorem setWheel_exits (s : State) (k : Nat × Nat) (v : Wheel) : (setWheel s k v).exits = s.exits := rfl
@[simp] theorem setWheel_badPages (s : State) (k : Nat × Nat) (v : Wheel) : (setWheel s k v).badPages = s.badPages := rfl
@[simp] theorem setWheel_partitions (s : State) (k : Nat × Nat) (v : Wheel) : (setWheel s k v).partitions = s.partitions := rfl
@[simp] theorem setWheel_pageOwner (s : State) (k : Nat × Nat) (v : Wheel) : (setWheel s k v).pageOwner = s.pageOwner := rfl
@[simp] theorem setWheel_pageOn (s : State) (k : Nat × Nat) (v : Wheel) : (setWheel s k v).pageOn = s.pageOn := rfl
@[simp] theorem setWheel_barRuns (s : State) (k : Nat × Nat) (v : Wheel) : (setWheel s k v).barRuns = s.barRuns := rfl
@[simp] theorem setWheel_quotas (s : State) (k : Nat × Nat) (v : Wheel) : (setWheel s k v).quotas = s.quotas := rfl
@[simp] theorem setWheel_slotTabs (s : State) (k : Nat × Nat) (v : Wheel) : (setWheel s k v).slotTabs = s.slotTabs := rfl
@[simp] theorem setWheel_reports (s : State) (k : Nat × Nat) (v : Wheel) : (setWheel s k v).reports = s.reports := rfl
@[simp] theorem setWheel_qmReports (s : State) (k : Nat × Nat) (v : Wheel) : (setWheel s k v).qmReports = s.qmReports := rfl
@[simp] theorem setWheel_tlb (s : State) (k : Nat × Nat) (v : Wheel) : (setWheel s k v).tlb = s.tlb := rfl
@[simp] theorem setWheel_stops (s : State) (k : Nat × Nat) (v : Wheel) : (setWheel s k v).stops = s.stops := rfl
@[simp] theorem setWheel_traces (s : State) (k : Nat × Nat) (v : Wheel) : (setWheel s k v).traces = s.traces := rfl
@[simp] theorem setWheel_watches (s : State) (k : Nat × Nat) (v : Wheel) : (setWheel s k v).watches = s.watches := rfl
@[simp] theorem setWheel_fns (s : State) (k : Nat × Nat) (v : Wheel) : (setWheel s k v).fns = s.fns := rfl
@[simp] theorem setWheel_packages (s : State) (k : Nat × Nat) (v : Wheel) : (setWheel s k v).packages = s.packages := rfl
@[simp] theorem setWheel_agenda (s : State) (k : Nat × Nat) (v : Wheel) : (setWheel s k v).agenda = s.agenda := rfl
@[simp] theorem setWheel_tick (s : State) (k : Nat × Nat) (v : Wheel) : (setWheel s k v).tick = s.tick := rfl
@[simp] theorem setWheel_cur (s : State) (k : Nat × Nat) (v : Wheel) : (setWheel s k v).cur = s.cur := rfl
@[simp] theorem setWheel_freeCount (s : State) (k : Nat × Nat) (v : Wheel) : (setWheel s k v).freeCount = s.freeCount := rfl
@[simp] theorem setWheel_nextId (s : State) (k : Nat × Nat) (v : Wheel) : (setWheel s k v).nextId = s.nextId := rfl
@[simp] theorem setWheel_wheels (s : State) (k : Nat × Nat) (v : Wheel) : (setWheel s k v).wheels = tset k v s.wheels := rfl
@[simp] theorem getWheel_setWheel (s : State) (k : Nat × Nat) (v : Wheel) : getWheel (setWheel s k v) k = v := by
  simp [getWheel]
theorem getWheel_setWheel_other (s : State) {k j : Nat × Nat} (v : Wheel) (h : j ≠ k) : getWheel (setWheel s k v) j = getWheel s j :=
  tget_tset_other _ v s.wheels h

/-! ### setStop -/

@[simp] theorem setStop_threads (s : State) (k : Nat × Nat) (v : BitVec 256) : (setStop s k v).threads = s.threads := rfl
@[simp] theorem setStop_coreNext (s : State) (k : Nat × Nat) (v : BitVec 256) : (setStop s k v).coreNext = s.coreNext := rfl
@[simp] theorem setStop_engines (s : State) (k : Nat × Nat) (v : BitVec 256) : (setStop s k v).engines = s.engines := rfl
@[simp] theorem setStop_inFlight (s : State) (k : Nat × Nat) (v : BitVec 256) : (setStop s k v).inFlight = s.inFlight := rfl
@[simp] theorem setStop_updates (s : State) (k : Nat × Nat) (v : BitVec 256) : (setStop s k v).updates = s.updates := rfl
@[simp] theorem setStop_allocWait (s : State) (k : Nat × Nat) (v : BitVec 256) : (setStop s k v).allocWait = s.allocWait := rfl
@[simp] theorem setStop_graphs (s : State) (k : Nat × Nat) (v : BitVec 256) : (setStop s k v).graphs = s.graphs := rfl
@[simp] theorem setStop_launches (s : State) (k : Nat × Nat) (v : BitVec 256) : (setStop s k v).launches = s.launches := rfl
@[simp] theorem setStop_launchQs (s : State) (k : Nat × Nat) (v : BitVec 256) : (setStop s k v).launchQs = s.launchQs := rfl
@[simp] theorem setStop_breaks (s : State) (k : Nat × Nat) (v : BitVec 256) : (setStop s k v).breaks = s.breaks := rfl
@[simp] theorem setStop_sources (s : State) (k : Nat × Nat) (v : BitVec 256) : (setStop s k v).sources = s.sources := rfl
@[simp] theorem setStop_tiles (s : State) (k : Nat × Nat) (v : BitVec 256) : (setStop s k v).tiles = s.tiles := rfl
@[simp] theorem setStop_chunkWrites (s : State) (k : Nat × Nat) (v : BitVec 256) : (setStop s k v).chunkWrites = s.chunkWrites := rfl
@[simp] theorem setStop_retires (s : State) (k : Nat × Nat) (v : BitVec 256) : (setStop s k v).retires = s.retires := rfl
@[simp] theorem setStop_memTiles (s : State) (k : Nat × Nat) (v : BitVec 256) : (setStop s k v).memTiles = s.memTiles := rfl
@[simp] theorem setStop_chans (s : State) (k : Nat × Nat) (v : BitVec 256) : (setStop s k v).chans = s.chans := rfl
@[simp] theorem setStop_bars (s : State) (k : Nat × Nat) (v : BitVec 256) : (setStop s k v).bars = s.bars := rfl
@[simp] theorem setStop_hbm (s : State) (k : Nat × Nat) (v : BitVec 256) : (setStop s k v).hbm = s.hbm := rfl
@[simp] theorem setStop_l0 (s : State) (k : Nat × Nat) (v : BitVec 256) : (setStop s k v).l0 = s.l0 := rfl
@[simp] theorem setStop_hostMem (s : State) (k : Nat × Nat) (v : BitVec 256) : (setStop s k v).hostMem = s.hostMem := rfl
@[simp] theorem setStop_ecc (s : State) (k : Nat × Nat) (v : BitVec 256) : (setStop s k v).ecc = s.ecc := rfl
@[simp] theorem setStop_eccL0 (s : State) (k : Nat × Nat) (v : BitVec 256) : (setStop s k v).eccL0 = s.eccL0 := rfl
@[simp] theorem setStop_bankModes (s : State) (k : Nat × Nat) (v : BitVec 256) : (setStop s k v).bankModes = s.bankModes := rfl
@[simp] theorem setStop_reqs (s : State) (k : Nat × Nat) (v : BitVec 256) : (setStop s k v).reqs = s.reqs := rfl
@[simp] theorem setStop_watchHolds (s : State) (k : Nat × Nat) (v : BitVec 256) : (setStop s k v).watchHolds = s.watchHolds := rfl
@[simp] theorem setStop_walks (s : State) (k : Nat × Nat) (v : BitVec 256) : (setStop s k v).walks = s.walks := rfl
@[simp] theorem setStop_ranges (s : State) (k : Nat × Nat) (v : BitVec 256) : (setStop s k v).ranges = s.ranges := rfl
@[simp] theorem setStop_xfers (s : State) (k : Nat × Nat) (v : BitVec 256) : (setStop s k v).xfers = s.xfers := rfl
@[simp] theorem setStop_copies (s : State) (k : Nat × Nat) (v : BitVec 256) : (setStop s k v).copies = s.copies := rfl
@[simp] theorem setStop_copyQs (s : State) (k : Nat × Nat) (v : BitVec 256) : (setStop s k v).copyQs = s.copyQs := rfl
@[simp] theorem setStop_vtiles (s : State) (k : Nat × Nat) (v : BitVec 256) : (setStop s k v).vtiles = s.vtiles := rfl
@[simp] theorem setStop_islands (s : State) (k : Nat × Nat) (v : BitVec 256) : (setStop s k v).islands = s.islands := rfl
@[simp] theorem setStop_groups (s : State) (k : Nat × Nat) (v : BitVec 256) : (setStop s k v).groups = s.groups := rfl
@[simp] theorem setStop_xunits (s : State) (k : Nat × Nat) (v : BitVec 256) : (setStop s k v).xunits = s.xunits := rfl
@[simp] theorem setStop_streams (s : State) (k : Nat × Nat) (v : BitVec 256) : (setStop s k v).streams = s.streams := rfl
@[simp] theorem setStop_lanes (s : State) (k : Nat × Nat) (v : BitVec 256) : (setStop s k v).lanes = s.lanes := rfl
@[simp] theorem setStop_packets (s : State) (k : Nat × Nat) (v : BitVec 256) : (setStop s k v).packets = s.packets := rfl
@[simp] theorem setStop_inbox (s : State) (k : Nat × Nat) (v : BitVec 256) : (setStop s k v).inbox = s.inbox := rfl
@[simp] theorem setStop_straits (s : State) (k : Nat × Nat) (v : BitVec 256) : (setStop s k v).straits = s.straits := rfl
@[simp] theorem setStop_acks (s : State) (k : Nat × Nat) (v : BitVec 256) : (setStop s k v).acks = s.acks := rfl
@[simp] theorem setStop_nacks (s : State) (k : Nat × Nat) (v : BitVec 256) : (setStop s k v).nacks = s.nacks := rfl
@[simp] theorem setStop_cables (s : State) (k : Nat × Nat) (v : BitVec 256) : (setStop s k v).cables = s.cables := rfl
@[simp] theorem setStop_exits (s : State) (k : Nat × Nat) (v : BitVec 256) : (setStop s k v).exits = s.exits := rfl
@[simp] theorem setStop_badPages (s : State) (k : Nat × Nat) (v : BitVec 256) : (setStop s k v).badPages = s.badPages := rfl
@[simp] theorem setStop_partitions (s : State) (k : Nat × Nat) (v : BitVec 256) : (setStop s k v).partitions = s.partitions := rfl
@[simp] theorem setStop_pageOwner (s : State) (k : Nat × Nat) (v : BitVec 256) : (setStop s k v).pageOwner = s.pageOwner := rfl
@[simp] theorem setStop_pageOn (s : State) (k : Nat × Nat) (v : BitVec 256) : (setStop s k v).pageOn = s.pageOn := rfl
@[simp] theorem setStop_barRuns (s : State) (k : Nat × Nat) (v : BitVec 256) : (setStop s k v).barRuns = s.barRuns := rfl
@[simp] theorem setStop_quotas (s : State) (k : Nat × Nat) (v : BitVec 256) : (setStop s k v).quotas = s.quotas := rfl
@[simp] theorem setStop_slotTabs (s : State) (k : Nat × Nat) (v : BitVec 256) : (setStop s k v).slotTabs = s.slotTabs := rfl
@[simp] theorem setStop_wheels (s : State) (k : Nat × Nat) (v : BitVec 256) : (setStop s k v).wheels = s.wheels := rfl
@[simp] theorem setStop_reports (s : State) (k : Nat × Nat) (v : BitVec 256) : (setStop s k v).reports = s.reports := rfl
@[simp] theorem setStop_qmReports (s : State) (k : Nat × Nat) (v : BitVec 256) : (setStop s k v).qmReports = s.qmReports := rfl
@[simp] theorem setStop_tlb (s : State) (k : Nat × Nat) (v : BitVec 256) : (setStop s k v).tlb = s.tlb := rfl
@[simp] theorem setStop_traces (s : State) (k : Nat × Nat) (v : BitVec 256) : (setStop s k v).traces = s.traces := rfl
@[simp] theorem setStop_watches (s : State) (k : Nat × Nat) (v : BitVec 256) : (setStop s k v).watches = s.watches := rfl
@[simp] theorem setStop_fns (s : State) (k : Nat × Nat) (v : BitVec 256) : (setStop s k v).fns = s.fns := rfl
@[simp] theorem setStop_packages (s : State) (k : Nat × Nat) (v : BitVec 256) : (setStop s k v).packages = s.packages := rfl
@[simp] theorem setStop_agenda (s : State) (k : Nat × Nat) (v : BitVec 256) : (setStop s k v).agenda = s.agenda := rfl
@[simp] theorem setStop_tick (s : State) (k : Nat × Nat) (v : BitVec 256) : (setStop s k v).tick = s.tick := rfl
@[simp] theorem setStop_cur (s : State) (k : Nat × Nat) (v : BitVec 256) : (setStop s k v).cur = s.cur := rfl
@[simp] theorem setStop_freeCount (s : State) (k : Nat × Nat) (v : BitVec 256) : (setStop s k v).freeCount = s.freeCount := rfl
@[simp] theorem setStop_nextId (s : State) (k : Nat × Nat) (v : BitVec 256) : (setStop s k v).nextId = s.nextId := rfl
@[simp] theorem setStop_stops (s : State) (k : Nat × Nat) (v : BitVec 256) : (setStop s k v).stops = tset k v s.stops := rfl
@[simp] theorem getStop_setStop (s : State) (k : Nat × Nat) (v : BitVec 256) : getStop (setStop s k v) k = v := by
  simp [getStop]
theorem getStop_setStop_other (s : State) {k j : Nat × Nat} (v : BitVec 256) (h : j ≠ k) : getStop (setStop s k v) j = getStop s j :=
  tget_tset_other _ v s.stops h

/-! ### setTraceCfg -/

@[simp] theorem setTraceCfg_threads (s : State) (k : Nat × Nat × Nat) (v : TraceCfg) : (setTraceCfg s k v).threads = s.threads := rfl
@[simp] theorem setTraceCfg_coreNext (s : State) (k : Nat × Nat × Nat) (v : TraceCfg) : (setTraceCfg s k v).coreNext = s.coreNext := rfl
@[simp] theorem setTraceCfg_engines (s : State) (k : Nat × Nat × Nat) (v : TraceCfg) : (setTraceCfg s k v).engines = s.engines := rfl
@[simp] theorem setTraceCfg_inFlight (s : State) (k : Nat × Nat × Nat) (v : TraceCfg) : (setTraceCfg s k v).inFlight = s.inFlight := rfl
@[simp] theorem setTraceCfg_updates (s : State) (k : Nat × Nat × Nat) (v : TraceCfg) : (setTraceCfg s k v).updates = s.updates := rfl
@[simp] theorem setTraceCfg_allocWait (s : State) (k : Nat × Nat × Nat) (v : TraceCfg) : (setTraceCfg s k v).allocWait = s.allocWait := rfl
@[simp] theorem setTraceCfg_graphs (s : State) (k : Nat × Nat × Nat) (v : TraceCfg) : (setTraceCfg s k v).graphs = s.graphs := rfl
@[simp] theorem setTraceCfg_launches (s : State) (k : Nat × Nat × Nat) (v : TraceCfg) : (setTraceCfg s k v).launches = s.launches := rfl
@[simp] theorem setTraceCfg_launchQs (s : State) (k : Nat × Nat × Nat) (v : TraceCfg) : (setTraceCfg s k v).launchQs = s.launchQs := rfl
@[simp] theorem setTraceCfg_breaks (s : State) (k : Nat × Nat × Nat) (v : TraceCfg) : (setTraceCfg s k v).breaks = s.breaks := rfl
@[simp] theorem setTraceCfg_sources (s : State) (k : Nat × Nat × Nat) (v : TraceCfg) : (setTraceCfg s k v).sources = s.sources := rfl
@[simp] theorem setTraceCfg_tiles (s : State) (k : Nat × Nat × Nat) (v : TraceCfg) : (setTraceCfg s k v).tiles = s.tiles := rfl
@[simp] theorem setTraceCfg_chunkWrites (s : State) (k : Nat × Nat × Nat) (v : TraceCfg) : (setTraceCfg s k v).chunkWrites = s.chunkWrites := rfl
@[simp] theorem setTraceCfg_retires (s : State) (k : Nat × Nat × Nat) (v : TraceCfg) : (setTraceCfg s k v).retires = s.retires := rfl
@[simp] theorem setTraceCfg_memTiles (s : State) (k : Nat × Nat × Nat) (v : TraceCfg) : (setTraceCfg s k v).memTiles = s.memTiles := rfl
@[simp] theorem setTraceCfg_chans (s : State) (k : Nat × Nat × Nat) (v : TraceCfg) : (setTraceCfg s k v).chans = s.chans := rfl
@[simp] theorem setTraceCfg_bars (s : State) (k : Nat × Nat × Nat) (v : TraceCfg) : (setTraceCfg s k v).bars = s.bars := rfl
@[simp] theorem setTraceCfg_hbm (s : State) (k : Nat × Nat × Nat) (v : TraceCfg) : (setTraceCfg s k v).hbm = s.hbm := rfl
@[simp] theorem setTraceCfg_l0 (s : State) (k : Nat × Nat × Nat) (v : TraceCfg) : (setTraceCfg s k v).l0 = s.l0 := rfl
@[simp] theorem setTraceCfg_hostMem (s : State) (k : Nat × Nat × Nat) (v : TraceCfg) : (setTraceCfg s k v).hostMem = s.hostMem := rfl
@[simp] theorem setTraceCfg_ecc (s : State) (k : Nat × Nat × Nat) (v : TraceCfg) : (setTraceCfg s k v).ecc = s.ecc := rfl
@[simp] theorem setTraceCfg_eccL0 (s : State) (k : Nat × Nat × Nat) (v : TraceCfg) : (setTraceCfg s k v).eccL0 = s.eccL0 := rfl
@[simp] theorem setTraceCfg_bankModes (s : State) (k : Nat × Nat × Nat) (v : TraceCfg) : (setTraceCfg s k v).bankModes = s.bankModes := rfl
@[simp] theorem setTraceCfg_reqs (s : State) (k : Nat × Nat × Nat) (v : TraceCfg) : (setTraceCfg s k v).reqs = s.reqs := rfl
@[simp] theorem setTraceCfg_watchHolds (s : State) (k : Nat × Nat × Nat) (v : TraceCfg) : (setTraceCfg s k v).watchHolds = s.watchHolds := rfl
@[simp] theorem setTraceCfg_walks (s : State) (k : Nat × Nat × Nat) (v : TraceCfg) : (setTraceCfg s k v).walks = s.walks := rfl
@[simp] theorem setTraceCfg_ranges (s : State) (k : Nat × Nat × Nat) (v : TraceCfg) : (setTraceCfg s k v).ranges = s.ranges := rfl
@[simp] theorem setTraceCfg_xfers (s : State) (k : Nat × Nat × Nat) (v : TraceCfg) : (setTraceCfg s k v).xfers = s.xfers := rfl
@[simp] theorem setTraceCfg_copies (s : State) (k : Nat × Nat × Nat) (v : TraceCfg) : (setTraceCfg s k v).copies = s.copies := rfl
@[simp] theorem setTraceCfg_copyQs (s : State) (k : Nat × Nat × Nat) (v : TraceCfg) : (setTraceCfg s k v).copyQs = s.copyQs := rfl
@[simp] theorem setTraceCfg_vtiles (s : State) (k : Nat × Nat × Nat) (v : TraceCfg) : (setTraceCfg s k v).vtiles = s.vtiles := rfl
@[simp] theorem setTraceCfg_islands (s : State) (k : Nat × Nat × Nat) (v : TraceCfg) : (setTraceCfg s k v).islands = s.islands := rfl
@[simp] theorem setTraceCfg_groups (s : State) (k : Nat × Nat × Nat) (v : TraceCfg) : (setTraceCfg s k v).groups = s.groups := rfl
@[simp] theorem setTraceCfg_xunits (s : State) (k : Nat × Nat × Nat) (v : TraceCfg) : (setTraceCfg s k v).xunits = s.xunits := rfl
@[simp] theorem setTraceCfg_streams (s : State) (k : Nat × Nat × Nat) (v : TraceCfg) : (setTraceCfg s k v).streams = s.streams := rfl
@[simp] theorem setTraceCfg_lanes (s : State) (k : Nat × Nat × Nat) (v : TraceCfg) : (setTraceCfg s k v).lanes = s.lanes := rfl
@[simp] theorem setTraceCfg_packets (s : State) (k : Nat × Nat × Nat) (v : TraceCfg) : (setTraceCfg s k v).packets = s.packets := rfl
@[simp] theorem setTraceCfg_inbox (s : State) (k : Nat × Nat × Nat) (v : TraceCfg) : (setTraceCfg s k v).inbox = s.inbox := rfl
@[simp] theorem setTraceCfg_straits (s : State) (k : Nat × Nat × Nat) (v : TraceCfg) : (setTraceCfg s k v).straits = s.straits := rfl
@[simp] theorem setTraceCfg_acks (s : State) (k : Nat × Nat × Nat) (v : TraceCfg) : (setTraceCfg s k v).acks = s.acks := rfl
@[simp] theorem setTraceCfg_nacks (s : State) (k : Nat × Nat × Nat) (v : TraceCfg) : (setTraceCfg s k v).nacks = s.nacks := rfl
@[simp] theorem setTraceCfg_cables (s : State) (k : Nat × Nat × Nat) (v : TraceCfg) : (setTraceCfg s k v).cables = s.cables := rfl
@[simp] theorem setTraceCfg_exits (s : State) (k : Nat × Nat × Nat) (v : TraceCfg) : (setTraceCfg s k v).exits = s.exits := rfl
@[simp] theorem setTraceCfg_badPages (s : State) (k : Nat × Nat × Nat) (v : TraceCfg) : (setTraceCfg s k v).badPages = s.badPages := rfl
@[simp] theorem setTraceCfg_partitions (s : State) (k : Nat × Nat × Nat) (v : TraceCfg) : (setTraceCfg s k v).partitions = s.partitions := rfl
@[simp] theorem setTraceCfg_pageOwner (s : State) (k : Nat × Nat × Nat) (v : TraceCfg) : (setTraceCfg s k v).pageOwner = s.pageOwner := rfl
@[simp] theorem setTraceCfg_pageOn (s : State) (k : Nat × Nat × Nat) (v : TraceCfg) : (setTraceCfg s k v).pageOn = s.pageOn := rfl
@[simp] theorem setTraceCfg_barRuns (s : State) (k : Nat × Nat × Nat) (v : TraceCfg) : (setTraceCfg s k v).barRuns = s.barRuns := rfl
@[simp] theorem setTraceCfg_quotas (s : State) (k : Nat × Nat × Nat) (v : TraceCfg) : (setTraceCfg s k v).quotas = s.quotas := rfl
@[simp] theorem setTraceCfg_slotTabs (s : State) (k : Nat × Nat × Nat) (v : TraceCfg) : (setTraceCfg s k v).slotTabs = s.slotTabs := rfl
@[simp] theorem setTraceCfg_wheels (s : State) (k : Nat × Nat × Nat) (v : TraceCfg) : (setTraceCfg s k v).wheels = s.wheels := rfl
@[simp] theorem setTraceCfg_reports (s : State) (k : Nat × Nat × Nat) (v : TraceCfg) : (setTraceCfg s k v).reports = s.reports := rfl
@[simp] theorem setTraceCfg_qmReports (s : State) (k : Nat × Nat × Nat) (v : TraceCfg) : (setTraceCfg s k v).qmReports = s.qmReports := rfl
@[simp] theorem setTraceCfg_tlb (s : State) (k : Nat × Nat × Nat) (v : TraceCfg) : (setTraceCfg s k v).tlb = s.tlb := rfl
@[simp] theorem setTraceCfg_stops (s : State) (k : Nat × Nat × Nat) (v : TraceCfg) : (setTraceCfg s k v).stops = s.stops := rfl
@[simp] theorem setTraceCfg_watches (s : State) (k : Nat × Nat × Nat) (v : TraceCfg) : (setTraceCfg s k v).watches = s.watches := rfl
@[simp] theorem setTraceCfg_fns (s : State) (k : Nat × Nat × Nat) (v : TraceCfg) : (setTraceCfg s k v).fns = s.fns := rfl
@[simp] theorem setTraceCfg_packages (s : State) (k : Nat × Nat × Nat) (v : TraceCfg) : (setTraceCfg s k v).packages = s.packages := rfl
@[simp] theorem setTraceCfg_agenda (s : State) (k : Nat × Nat × Nat) (v : TraceCfg) : (setTraceCfg s k v).agenda = s.agenda := rfl
@[simp] theorem setTraceCfg_tick (s : State) (k : Nat × Nat × Nat) (v : TraceCfg) : (setTraceCfg s k v).tick = s.tick := rfl
@[simp] theorem setTraceCfg_cur (s : State) (k : Nat × Nat × Nat) (v : TraceCfg) : (setTraceCfg s k v).cur = s.cur := rfl
@[simp] theorem setTraceCfg_freeCount (s : State) (k : Nat × Nat × Nat) (v : TraceCfg) : (setTraceCfg s k v).freeCount = s.freeCount := rfl
@[simp] theorem setTraceCfg_nextId (s : State) (k : Nat × Nat × Nat) (v : TraceCfg) : (setTraceCfg s k v).nextId = s.nextId := rfl
@[simp] theorem setTraceCfg_traces (s : State) (k : Nat × Nat × Nat) (v : TraceCfg) : (setTraceCfg s k v).traces = tset k v s.traces := rfl
@[simp] theorem getTraceCfg_setTraceCfg (s : State) (k : Nat × Nat × Nat) (v : TraceCfg) : getTraceCfg (setTraceCfg s k v) k = v := by
  simp [getTraceCfg]
theorem getTraceCfg_setTraceCfg_other (s : State) {k j : Nat × Nat × Nat} (v : TraceCfg) (h : j ≠ k) : getTraceCfg (setTraceCfg s k v) j = getTraceCfg s j :=
  tget_tset_other _ v s.traces h

/-! ### setWatch -/

@[simp] theorem setWatch_threads (s : State) (k : Eng) (v : Watch) : (setWatch s k v).threads = s.threads := rfl
@[simp] theorem setWatch_coreNext (s : State) (k : Eng) (v : Watch) : (setWatch s k v).coreNext = s.coreNext := rfl
@[simp] theorem setWatch_engines (s : State) (k : Eng) (v : Watch) : (setWatch s k v).engines = s.engines := rfl
@[simp] theorem setWatch_inFlight (s : State) (k : Eng) (v : Watch) : (setWatch s k v).inFlight = s.inFlight := rfl
@[simp] theorem setWatch_updates (s : State) (k : Eng) (v : Watch) : (setWatch s k v).updates = s.updates := rfl
@[simp] theorem setWatch_allocWait (s : State) (k : Eng) (v : Watch) : (setWatch s k v).allocWait = s.allocWait := rfl
@[simp] theorem setWatch_graphs (s : State) (k : Eng) (v : Watch) : (setWatch s k v).graphs = s.graphs := rfl
@[simp] theorem setWatch_launches (s : State) (k : Eng) (v : Watch) : (setWatch s k v).launches = s.launches := rfl
@[simp] theorem setWatch_launchQs (s : State) (k : Eng) (v : Watch) : (setWatch s k v).launchQs = s.launchQs := rfl
@[simp] theorem setWatch_breaks (s : State) (k : Eng) (v : Watch) : (setWatch s k v).breaks = s.breaks := rfl
@[simp] theorem setWatch_sources (s : State) (k : Eng) (v : Watch) : (setWatch s k v).sources = s.sources := rfl
@[simp] theorem setWatch_tiles (s : State) (k : Eng) (v : Watch) : (setWatch s k v).tiles = s.tiles := rfl
@[simp] theorem setWatch_chunkWrites (s : State) (k : Eng) (v : Watch) : (setWatch s k v).chunkWrites = s.chunkWrites := rfl
@[simp] theorem setWatch_retires (s : State) (k : Eng) (v : Watch) : (setWatch s k v).retires = s.retires := rfl
@[simp] theorem setWatch_memTiles (s : State) (k : Eng) (v : Watch) : (setWatch s k v).memTiles = s.memTiles := rfl
@[simp] theorem setWatch_chans (s : State) (k : Eng) (v : Watch) : (setWatch s k v).chans = s.chans := rfl
@[simp] theorem setWatch_bars (s : State) (k : Eng) (v : Watch) : (setWatch s k v).bars = s.bars := rfl
@[simp] theorem setWatch_hbm (s : State) (k : Eng) (v : Watch) : (setWatch s k v).hbm = s.hbm := rfl
@[simp] theorem setWatch_l0 (s : State) (k : Eng) (v : Watch) : (setWatch s k v).l0 = s.l0 := rfl
@[simp] theorem setWatch_hostMem (s : State) (k : Eng) (v : Watch) : (setWatch s k v).hostMem = s.hostMem := rfl
@[simp] theorem setWatch_ecc (s : State) (k : Eng) (v : Watch) : (setWatch s k v).ecc = s.ecc := rfl
@[simp] theorem setWatch_eccL0 (s : State) (k : Eng) (v : Watch) : (setWatch s k v).eccL0 = s.eccL0 := rfl
@[simp] theorem setWatch_bankModes (s : State) (k : Eng) (v : Watch) : (setWatch s k v).bankModes = s.bankModes := rfl
@[simp] theorem setWatch_reqs (s : State) (k : Eng) (v : Watch) : (setWatch s k v).reqs = s.reqs := rfl
@[simp] theorem setWatch_watchHolds (s : State) (k : Eng) (v : Watch) : (setWatch s k v).watchHolds = s.watchHolds := rfl
@[simp] theorem setWatch_walks (s : State) (k : Eng) (v : Watch) : (setWatch s k v).walks = s.walks := rfl
@[simp] theorem setWatch_ranges (s : State) (k : Eng) (v : Watch) : (setWatch s k v).ranges = s.ranges := rfl
@[simp] theorem setWatch_xfers (s : State) (k : Eng) (v : Watch) : (setWatch s k v).xfers = s.xfers := rfl
@[simp] theorem setWatch_copies (s : State) (k : Eng) (v : Watch) : (setWatch s k v).copies = s.copies := rfl
@[simp] theorem setWatch_copyQs (s : State) (k : Eng) (v : Watch) : (setWatch s k v).copyQs = s.copyQs := rfl
@[simp] theorem setWatch_vtiles (s : State) (k : Eng) (v : Watch) : (setWatch s k v).vtiles = s.vtiles := rfl
@[simp] theorem setWatch_islands (s : State) (k : Eng) (v : Watch) : (setWatch s k v).islands = s.islands := rfl
@[simp] theorem setWatch_groups (s : State) (k : Eng) (v : Watch) : (setWatch s k v).groups = s.groups := rfl
@[simp] theorem setWatch_xunits (s : State) (k : Eng) (v : Watch) : (setWatch s k v).xunits = s.xunits := rfl
@[simp] theorem setWatch_streams (s : State) (k : Eng) (v : Watch) : (setWatch s k v).streams = s.streams := rfl
@[simp] theorem setWatch_lanes (s : State) (k : Eng) (v : Watch) : (setWatch s k v).lanes = s.lanes := rfl
@[simp] theorem setWatch_packets (s : State) (k : Eng) (v : Watch) : (setWatch s k v).packets = s.packets := rfl
@[simp] theorem setWatch_inbox (s : State) (k : Eng) (v : Watch) : (setWatch s k v).inbox = s.inbox := rfl
@[simp] theorem setWatch_straits (s : State) (k : Eng) (v : Watch) : (setWatch s k v).straits = s.straits := rfl
@[simp] theorem setWatch_acks (s : State) (k : Eng) (v : Watch) : (setWatch s k v).acks = s.acks := rfl
@[simp] theorem setWatch_nacks (s : State) (k : Eng) (v : Watch) : (setWatch s k v).nacks = s.nacks := rfl
@[simp] theorem setWatch_cables (s : State) (k : Eng) (v : Watch) : (setWatch s k v).cables = s.cables := rfl
@[simp] theorem setWatch_exits (s : State) (k : Eng) (v : Watch) : (setWatch s k v).exits = s.exits := rfl
@[simp] theorem setWatch_badPages (s : State) (k : Eng) (v : Watch) : (setWatch s k v).badPages = s.badPages := rfl
@[simp] theorem setWatch_partitions (s : State) (k : Eng) (v : Watch) : (setWatch s k v).partitions = s.partitions := rfl
@[simp] theorem setWatch_pageOwner (s : State) (k : Eng) (v : Watch) : (setWatch s k v).pageOwner = s.pageOwner := rfl
@[simp] theorem setWatch_pageOn (s : State) (k : Eng) (v : Watch) : (setWatch s k v).pageOn = s.pageOn := rfl
@[simp] theorem setWatch_barRuns (s : State) (k : Eng) (v : Watch) : (setWatch s k v).barRuns = s.barRuns := rfl
@[simp] theorem setWatch_quotas (s : State) (k : Eng) (v : Watch) : (setWatch s k v).quotas = s.quotas := rfl
@[simp] theorem setWatch_slotTabs (s : State) (k : Eng) (v : Watch) : (setWatch s k v).slotTabs = s.slotTabs := rfl
@[simp] theorem setWatch_wheels (s : State) (k : Eng) (v : Watch) : (setWatch s k v).wheels = s.wheels := rfl
@[simp] theorem setWatch_reports (s : State) (k : Eng) (v : Watch) : (setWatch s k v).reports = s.reports := rfl
@[simp] theorem setWatch_qmReports (s : State) (k : Eng) (v : Watch) : (setWatch s k v).qmReports = s.qmReports := rfl
@[simp] theorem setWatch_tlb (s : State) (k : Eng) (v : Watch) : (setWatch s k v).tlb = s.tlb := rfl
@[simp] theorem setWatch_stops (s : State) (k : Eng) (v : Watch) : (setWatch s k v).stops = s.stops := rfl
@[simp] theorem setWatch_traces (s : State) (k : Eng) (v : Watch) : (setWatch s k v).traces = s.traces := rfl
@[simp] theorem setWatch_fns (s : State) (k : Eng) (v : Watch) : (setWatch s k v).fns = s.fns := rfl
@[simp] theorem setWatch_packages (s : State) (k : Eng) (v : Watch) : (setWatch s k v).packages = s.packages := rfl
@[simp] theorem setWatch_agenda (s : State) (k : Eng) (v : Watch) : (setWatch s k v).agenda = s.agenda := rfl
@[simp] theorem setWatch_tick (s : State) (k : Eng) (v : Watch) : (setWatch s k v).tick = s.tick := rfl
@[simp] theorem setWatch_cur (s : State) (k : Eng) (v : Watch) : (setWatch s k v).cur = s.cur := rfl
@[simp] theorem setWatch_freeCount (s : State) (k : Eng) (v : Watch) : (setWatch s k v).freeCount = s.freeCount := rfl
@[simp] theorem setWatch_nextId (s : State) (k : Eng) (v : Watch) : (setWatch s k v).nextId = s.nextId := rfl
@[simp] theorem setWatch_watches (s : State) (k : Eng) (v : Watch) : (setWatch s k v).watches = tset k v s.watches := rfl
@[simp] theorem getWatch_setWatch (s : State) (k : Eng) (v : Watch) : getWatch (setWatch s k v) k = v := by
  simp [getWatch]
theorem getWatch_setWatch_other (s : State) {k j : Eng} (v : Watch) (h : j ≠ k) : getWatch (setWatch s k v) j = getWatch s j :=
  tget_tset_other _ v s.watches h

/-! ### setFn -/

@[simp] theorem setFn_threads (s : State) (k : Nat × Nat) (v : Fn) : (setFn s k v).threads = s.threads := rfl
@[simp] theorem setFn_coreNext (s : State) (k : Nat × Nat) (v : Fn) : (setFn s k v).coreNext = s.coreNext := rfl
@[simp] theorem setFn_engines (s : State) (k : Nat × Nat) (v : Fn) : (setFn s k v).engines = s.engines := rfl
@[simp] theorem setFn_inFlight (s : State) (k : Nat × Nat) (v : Fn) : (setFn s k v).inFlight = s.inFlight := rfl
@[simp] theorem setFn_updates (s : State) (k : Nat × Nat) (v : Fn) : (setFn s k v).updates = s.updates := rfl
@[simp] theorem setFn_allocWait (s : State) (k : Nat × Nat) (v : Fn) : (setFn s k v).allocWait = s.allocWait := rfl
@[simp] theorem setFn_graphs (s : State) (k : Nat × Nat) (v : Fn) : (setFn s k v).graphs = s.graphs := rfl
@[simp] theorem setFn_launches (s : State) (k : Nat × Nat) (v : Fn) : (setFn s k v).launches = s.launches := rfl
@[simp] theorem setFn_launchQs (s : State) (k : Nat × Nat) (v : Fn) : (setFn s k v).launchQs = s.launchQs := rfl
@[simp] theorem setFn_breaks (s : State) (k : Nat × Nat) (v : Fn) : (setFn s k v).breaks = s.breaks := rfl
@[simp] theorem setFn_sources (s : State) (k : Nat × Nat) (v : Fn) : (setFn s k v).sources = s.sources := rfl
@[simp] theorem setFn_tiles (s : State) (k : Nat × Nat) (v : Fn) : (setFn s k v).tiles = s.tiles := rfl
@[simp] theorem setFn_chunkWrites (s : State) (k : Nat × Nat) (v : Fn) : (setFn s k v).chunkWrites = s.chunkWrites := rfl
@[simp] theorem setFn_retires (s : State) (k : Nat × Nat) (v : Fn) : (setFn s k v).retires = s.retires := rfl
@[simp] theorem setFn_memTiles (s : State) (k : Nat × Nat) (v : Fn) : (setFn s k v).memTiles = s.memTiles := rfl
@[simp] theorem setFn_chans (s : State) (k : Nat × Nat) (v : Fn) : (setFn s k v).chans = s.chans := rfl
@[simp] theorem setFn_bars (s : State) (k : Nat × Nat) (v : Fn) : (setFn s k v).bars = s.bars := rfl
@[simp] theorem setFn_hbm (s : State) (k : Nat × Nat) (v : Fn) : (setFn s k v).hbm = s.hbm := rfl
@[simp] theorem setFn_l0 (s : State) (k : Nat × Nat) (v : Fn) : (setFn s k v).l0 = s.l0 := rfl
@[simp] theorem setFn_hostMem (s : State) (k : Nat × Nat) (v : Fn) : (setFn s k v).hostMem = s.hostMem := rfl
@[simp] theorem setFn_ecc (s : State) (k : Nat × Nat) (v : Fn) : (setFn s k v).ecc = s.ecc := rfl
@[simp] theorem setFn_eccL0 (s : State) (k : Nat × Nat) (v : Fn) : (setFn s k v).eccL0 = s.eccL0 := rfl
@[simp] theorem setFn_bankModes (s : State) (k : Nat × Nat) (v : Fn) : (setFn s k v).bankModes = s.bankModes := rfl
@[simp] theorem setFn_reqs (s : State) (k : Nat × Nat) (v : Fn) : (setFn s k v).reqs = s.reqs := rfl
@[simp] theorem setFn_watchHolds (s : State) (k : Nat × Nat) (v : Fn) : (setFn s k v).watchHolds = s.watchHolds := rfl
@[simp] theorem setFn_walks (s : State) (k : Nat × Nat) (v : Fn) : (setFn s k v).walks = s.walks := rfl
@[simp] theorem setFn_ranges (s : State) (k : Nat × Nat) (v : Fn) : (setFn s k v).ranges = s.ranges := rfl
@[simp] theorem setFn_xfers (s : State) (k : Nat × Nat) (v : Fn) : (setFn s k v).xfers = s.xfers := rfl
@[simp] theorem setFn_copies (s : State) (k : Nat × Nat) (v : Fn) : (setFn s k v).copies = s.copies := rfl
@[simp] theorem setFn_copyQs (s : State) (k : Nat × Nat) (v : Fn) : (setFn s k v).copyQs = s.copyQs := rfl
@[simp] theorem setFn_vtiles (s : State) (k : Nat × Nat) (v : Fn) : (setFn s k v).vtiles = s.vtiles := rfl
@[simp] theorem setFn_islands (s : State) (k : Nat × Nat) (v : Fn) : (setFn s k v).islands = s.islands := rfl
@[simp] theorem setFn_groups (s : State) (k : Nat × Nat) (v : Fn) : (setFn s k v).groups = s.groups := rfl
@[simp] theorem setFn_xunits (s : State) (k : Nat × Nat) (v : Fn) : (setFn s k v).xunits = s.xunits := rfl
@[simp] theorem setFn_streams (s : State) (k : Nat × Nat) (v : Fn) : (setFn s k v).streams = s.streams := rfl
@[simp] theorem setFn_lanes (s : State) (k : Nat × Nat) (v : Fn) : (setFn s k v).lanes = s.lanes := rfl
@[simp] theorem setFn_packets (s : State) (k : Nat × Nat) (v : Fn) : (setFn s k v).packets = s.packets := rfl
@[simp] theorem setFn_inbox (s : State) (k : Nat × Nat) (v : Fn) : (setFn s k v).inbox = s.inbox := rfl
@[simp] theorem setFn_straits (s : State) (k : Nat × Nat) (v : Fn) : (setFn s k v).straits = s.straits := rfl
@[simp] theorem setFn_acks (s : State) (k : Nat × Nat) (v : Fn) : (setFn s k v).acks = s.acks := rfl
@[simp] theorem setFn_nacks (s : State) (k : Nat × Nat) (v : Fn) : (setFn s k v).nacks = s.nacks := rfl
@[simp] theorem setFn_cables (s : State) (k : Nat × Nat) (v : Fn) : (setFn s k v).cables = s.cables := rfl
@[simp] theorem setFn_exits (s : State) (k : Nat × Nat) (v : Fn) : (setFn s k v).exits = s.exits := rfl
@[simp] theorem setFn_badPages (s : State) (k : Nat × Nat) (v : Fn) : (setFn s k v).badPages = s.badPages := rfl
@[simp] theorem setFn_partitions (s : State) (k : Nat × Nat) (v : Fn) : (setFn s k v).partitions = s.partitions := rfl
@[simp] theorem setFn_pageOwner (s : State) (k : Nat × Nat) (v : Fn) : (setFn s k v).pageOwner = s.pageOwner := rfl
@[simp] theorem setFn_pageOn (s : State) (k : Nat × Nat) (v : Fn) : (setFn s k v).pageOn = s.pageOn := rfl
@[simp] theorem setFn_barRuns (s : State) (k : Nat × Nat) (v : Fn) : (setFn s k v).barRuns = s.barRuns := rfl
@[simp] theorem setFn_quotas (s : State) (k : Nat × Nat) (v : Fn) : (setFn s k v).quotas = s.quotas := rfl
@[simp] theorem setFn_slotTabs (s : State) (k : Nat × Nat) (v : Fn) : (setFn s k v).slotTabs = s.slotTabs := rfl
@[simp] theorem setFn_wheels (s : State) (k : Nat × Nat) (v : Fn) : (setFn s k v).wheels = s.wheels := rfl
@[simp] theorem setFn_reports (s : State) (k : Nat × Nat) (v : Fn) : (setFn s k v).reports = s.reports := rfl
@[simp] theorem setFn_qmReports (s : State) (k : Nat × Nat) (v : Fn) : (setFn s k v).qmReports = s.qmReports := rfl
@[simp] theorem setFn_tlb (s : State) (k : Nat × Nat) (v : Fn) : (setFn s k v).tlb = s.tlb := rfl
@[simp] theorem setFn_stops (s : State) (k : Nat × Nat) (v : Fn) : (setFn s k v).stops = s.stops := rfl
@[simp] theorem setFn_traces (s : State) (k : Nat × Nat) (v : Fn) : (setFn s k v).traces = s.traces := rfl
@[simp] theorem setFn_watches (s : State) (k : Nat × Nat) (v : Fn) : (setFn s k v).watches = s.watches := rfl
@[simp] theorem setFn_packages (s : State) (k : Nat × Nat) (v : Fn) : (setFn s k v).packages = s.packages := rfl
@[simp] theorem setFn_agenda (s : State) (k : Nat × Nat) (v : Fn) : (setFn s k v).agenda = s.agenda := rfl
@[simp] theorem setFn_tick (s : State) (k : Nat × Nat) (v : Fn) : (setFn s k v).tick = s.tick := rfl
@[simp] theorem setFn_cur (s : State) (k : Nat × Nat) (v : Fn) : (setFn s k v).cur = s.cur := rfl
@[simp] theorem setFn_freeCount (s : State) (k : Nat × Nat) (v : Fn) : (setFn s k v).freeCount = s.freeCount := rfl
@[simp] theorem setFn_nextId (s : State) (k : Nat × Nat) (v : Fn) : (setFn s k v).nextId = s.nextId := rfl
@[simp] theorem setFn_fns (s : State) (k : Nat × Nat) (v : Fn) : (setFn s k v).fns = tset k v s.fns := rfl
@[simp] theorem getFn_setFn (s : State) (k : Nat × Nat) (v : Fn) : getFn (setFn s k v) k = v := by
  simp [getFn]
theorem getFn_setFn_other (s : State) {k j : Nat × Nat} (v : Fn) (h : j ≠ k) : getFn (setFn s k v) j = getFn s j :=
  tget_tset_other _ v s.fns h

/-! ### setPkg -/

@[simp] theorem setPkg_threads (s : State) (k : Nat) (v : Package) : (setPkg s k v).threads = s.threads := rfl
@[simp] theorem setPkg_coreNext (s : State) (k : Nat) (v : Package) : (setPkg s k v).coreNext = s.coreNext := rfl
@[simp] theorem setPkg_engines (s : State) (k : Nat) (v : Package) : (setPkg s k v).engines = s.engines := rfl
@[simp] theorem setPkg_inFlight (s : State) (k : Nat) (v : Package) : (setPkg s k v).inFlight = s.inFlight := rfl
@[simp] theorem setPkg_updates (s : State) (k : Nat) (v : Package) : (setPkg s k v).updates = s.updates := rfl
@[simp] theorem setPkg_allocWait (s : State) (k : Nat) (v : Package) : (setPkg s k v).allocWait = s.allocWait := rfl
@[simp] theorem setPkg_graphs (s : State) (k : Nat) (v : Package) : (setPkg s k v).graphs = s.graphs := rfl
@[simp] theorem setPkg_launches (s : State) (k : Nat) (v : Package) : (setPkg s k v).launches = s.launches := rfl
@[simp] theorem setPkg_launchQs (s : State) (k : Nat) (v : Package) : (setPkg s k v).launchQs = s.launchQs := rfl
@[simp] theorem setPkg_breaks (s : State) (k : Nat) (v : Package) : (setPkg s k v).breaks = s.breaks := rfl
@[simp] theorem setPkg_sources (s : State) (k : Nat) (v : Package) : (setPkg s k v).sources = s.sources := rfl
@[simp] theorem setPkg_tiles (s : State) (k : Nat) (v : Package) : (setPkg s k v).tiles = s.tiles := rfl
@[simp] theorem setPkg_chunkWrites (s : State) (k : Nat) (v : Package) : (setPkg s k v).chunkWrites = s.chunkWrites := rfl
@[simp] theorem setPkg_retires (s : State) (k : Nat) (v : Package) : (setPkg s k v).retires = s.retires := rfl
@[simp] theorem setPkg_memTiles (s : State) (k : Nat) (v : Package) : (setPkg s k v).memTiles = s.memTiles := rfl
@[simp] theorem setPkg_chans (s : State) (k : Nat) (v : Package) : (setPkg s k v).chans = s.chans := rfl
@[simp] theorem setPkg_bars (s : State) (k : Nat) (v : Package) : (setPkg s k v).bars = s.bars := rfl
@[simp] theorem setPkg_hbm (s : State) (k : Nat) (v : Package) : (setPkg s k v).hbm = s.hbm := rfl
@[simp] theorem setPkg_l0 (s : State) (k : Nat) (v : Package) : (setPkg s k v).l0 = s.l0 := rfl
@[simp] theorem setPkg_hostMem (s : State) (k : Nat) (v : Package) : (setPkg s k v).hostMem = s.hostMem := rfl
@[simp] theorem setPkg_ecc (s : State) (k : Nat) (v : Package) : (setPkg s k v).ecc = s.ecc := rfl
@[simp] theorem setPkg_eccL0 (s : State) (k : Nat) (v : Package) : (setPkg s k v).eccL0 = s.eccL0 := rfl
@[simp] theorem setPkg_bankModes (s : State) (k : Nat) (v : Package) : (setPkg s k v).bankModes = s.bankModes := rfl
@[simp] theorem setPkg_reqs (s : State) (k : Nat) (v : Package) : (setPkg s k v).reqs = s.reqs := rfl
@[simp] theorem setPkg_watchHolds (s : State) (k : Nat) (v : Package) : (setPkg s k v).watchHolds = s.watchHolds := rfl
@[simp] theorem setPkg_walks (s : State) (k : Nat) (v : Package) : (setPkg s k v).walks = s.walks := rfl
@[simp] theorem setPkg_ranges (s : State) (k : Nat) (v : Package) : (setPkg s k v).ranges = s.ranges := rfl
@[simp] theorem setPkg_xfers (s : State) (k : Nat) (v : Package) : (setPkg s k v).xfers = s.xfers := rfl
@[simp] theorem setPkg_copies (s : State) (k : Nat) (v : Package) : (setPkg s k v).copies = s.copies := rfl
@[simp] theorem setPkg_copyQs (s : State) (k : Nat) (v : Package) : (setPkg s k v).copyQs = s.copyQs := rfl
@[simp] theorem setPkg_vtiles (s : State) (k : Nat) (v : Package) : (setPkg s k v).vtiles = s.vtiles := rfl
@[simp] theorem setPkg_islands (s : State) (k : Nat) (v : Package) : (setPkg s k v).islands = s.islands := rfl
@[simp] theorem setPkg_groups (s : State) (k : Nat) (v : Package) : (setPkg s k v).groups = s.groups := rfl
@[simp] theorem setPkg_xunits (s : State) (k : Nat) (v : Package) : (setPkg s k v).xunits = s.xunits := rfl
@[simp] theorem setPkg_streams (s : State) (k : Nat) (v : Package) : (setPkg s k v).streams = s.streams := rfl
@[simp] theorem setPkg_lanes (s : State) (k : Nat) (v : Package) : (setPkg s k v).lanes = s.lanes := rfl
@[simp] theorem setPkg_packets (s : State) (k : Nat) (v : Package) : (setPkg s k v).packets = s.packets := rfl
@[simp] theorem setPkg_inbox (s : State) (k : Nat) (v : Package) : (setPkg s k v).inbox = s.inbox := rfl
@[simp] theorem setPkg_straits (s : State) (k : Nat) (v : Package) : (setPkg s k v).straits = s.straits := rfl
@[simp] theorem setPkg_acks (s : State) (k : Nat) (v : Package) : (setPkg s k v).acks = s.acks := rfl
@[simp] theorem setPkg_nacks (s : State) (k : Nat) (v : Package) : (setPkg s k v).nacks = s.nacks := rfl
@[simp] theorem setPkg_cables (s : State) (k : Nat) (v : Package) : (setPkg s k v).cables = s.cables := rfl
@[simp] theorem setPkg_exits (s : State) (k : Nat) (v : Package) : (setPkg s k v).exits = s.exits := rfl
@[simp] theorem setPkg_badPages (s : State) (k : Nat) (v : Package) : (setPkg s k v).badPages = s.badPages := rfl
@[simp] theorem setPkg_partitions (s : State) (k : Nat) (v : Package) : (setPkg s k v).partitions = s.partitions := rfl
@[simp] theorem setPkg_pageOwner (s : State) (k : Nat) (v : Package) : (setPkg s k v).pageOwner = s.pageOwner := rfl
@[simp] theorem setPkg_pageOn (s : State) (k : Nat) (v : Package) : (setPkg s k v).pageOn = s.pageOn := rfl
@[simp] theorem setPkg_barRuns (s : State) (k : Nat) (v : Package) : (setPkg s k v).barRuns = s.barRuns := rfl
@[simp] theorem setPkg_quotas (s : State) (k : Nat) (v : Package) : (setPkg s k v).quotas = s.quotas := rfl
@[simp] theorem setPkg_slotTabs (s : State) (k : Nat) (v : Package) : (setPkg s k v).slotTabs = s.slotTabs := rfl
@[simp] theorem setPkg_wheels (s : State) (k : Nat) (v : Package) : (setPkg s k v).wheels = s.wheels := rfl
@[simp] theorem setPkg_reports (s : State) (k : Nat) (v : Package) : (setPkg s k v).reports = s.reports := rfl
@[simp] theorem setPkg_qmReports (s : State) (k : Nat) (v : Package) : (setPkg s k v).qmReports = s.qmReports := rfl
@[simp] theorem setPkg_tlb (s : State) (k : Nat) (v : Package) : (setPkg s k v).tlb = s.tlb := rfl
@[simp] theorem setPkg_stops (s : State) (k : Nat) (v : Package) : (setPkg s k v).stops = s.stops := rfl
@[simp] theorem setPkg_traces (s : State) (k : Nat) (v : Package) : (setPkg s k v).traces = s.traces := rfl
@[simp] theorem setPkg_watches (s : State) (k : Nat) (v : Package) : (setPkg s k v).watches = s.watches := rfl
@[simp] theorem setPkg_fns (s : State) (k : Nat) (v : Package) : (setPkg s k v).fns = s.fns := rfl
@[simp] theorem setPkg_agenda (s : State) (k : Nat) (v : Package) : (setPkg s k v).agenda = s.agenda := rfl
@[simp] theorem setPkg_tick (s : State) (k : Nat) (v : Package) : (setPkg s k v).tick = s.tick := rfl
@[simp] theorem setPkg_cur (s : State) (k : Nat) (v : Package) : (setPkg s k v).cur = s.cur := rfl
@[simp] theorem setPkg_freeCount (s : State) (k : Nat) (v : Package) : (setPkg s k v).freeCount = s.freeCount := rfl
@[simp] theorem setPkg_nextId (s : State) (k : Nat) (v : Package) : (setPkg s k v).nextId = s.nextId := rfl
@[simp] theorem setPkg_packages (s : State) (k : Nat) (v : Package) : (setPkg s k v).packages = tset k v s.packages := rfl
@[simp] theorem getPkg_setPkg (s : State) (k : Nat) (v : Package) : getPkg (setPkg s k v) k = v := by
  simp [getPkg]
theorem getPkg_setPkg_other (s : State) {k j : Nat} (v : Package) (h : j ≠ k) : getPkg (setPkg s k v) j = getPkg s j :=
  tget_tset_other _ v s.packages h

/-! ### setPart -/

@[simp] theorem setPart_threads (s : State) (k : Nat × Nat) (v : Partition) : (setPart s k v).threads = s.threads := rfl
@[simp] theorem setPart_coreNext (s : State) (k : Nat × Nat) (v : Partition) : (setPart s k v).coreNext = s.coreNext := rfl
@[simp] theorem setPart_engines (s : State) (k : Nat × Nat) (v : Partition) : (setPart s k v).engines = s.engines := rfl
@[simp] theorem setPart_inFlight (s : State) (k : Nat × Nat) (v : Partition) : (setPart s k v).inFlight = s.inFlight := rfl
@[simp] theorem setPart_updates (s : State) (k : Nat × Nat) (v : Partition) : (setPart s k v).updates = s.updates := rfl
@[simp] theorem setPart_allocWait (s : State) (k : Nat × Nat) (v : Partition) : (setPart s k v).allocWait = s.allocWait := rfl
@[simp] theorem setPart_graphs (s : State) (k : Nat × Nat) (v : Partition) : (setPart s k v).graphs = s.graphs := rfl
@[simp] theorem setPart_launches (s : State) (k : Nat × Nat) (v : Partition) : (setPart s k v).launches = s.launches := rfl
@[simp] theorem setPart_launchQs (s : State) (k : Nat × Nat) (v : Partition) : (setPart s k v).launchQs = s.launchQs := rfl
@[simp] theorem setPart_breaks (s : State) (k : Nat × Nat) (v : Partition) : (setPart s k v).breaks = s.breaks := rfl
@[simp] theorem setPart_sources (s : State) (k : Nat × Nat) (v : Partition) : (setPart s k v).sources = s.sources := rfl
@[simp] theorem setPart_tiles (s : State) (k : Nat × Nat) (v : Partition) : (setPart s k v).tiles = s.tiles := rfl
@[simp] theorem setPart_chunkWrites (s : State) (k : Nat × Nat) (v : Partition) : (setPart s k v).chunkWrites = s.chunkWrites := rfl
@[simp] theorem setPart_retires (s : State) (k : Nat × Nat) (v : Partition) : (setPart s k v).retires = s.retires := rfl
@[simp] theorem setPart_memTiles (s : State) (k : Nat × Nat) (v : Partition) : (setPart s k v).memTiles = s.memTiles := rfl
@[simp] theorem setPart_chans (s : State) (k : Nat × Nat) (v : Partition) : (setPart s k v).chans = s.chans := rfl
@[simp] theorem setPart_bars (s : State) (k : Nat × Nat) (v : Partition) : (setPart s k v).bars = s.bars := rfl
@[simp] theorem setPart_hbm (s : State) (k : Nat × Nat) (v : Partition) : (setPart s k v).hbm = s.hbm := rfl
@[simp] theorem setPart_l0 (s : State) (k : Nat × Nat) (v : Partition) : (setPart s k v).l0 = s.l0 := rfl
@[simp] theorem setPart_hostMem (s : State) (k : Nat × Nat) (v : Partition) : (setPart s k v).hostMem = s.hostMem := rfl
@[simp] theorem setPart_ecc (s : State) (k : Nat × Nat) (v : Partition) : (setPart s k v).ecc = s.ecc := rfl
@[simp] theorem setPart_eccL0 (s : State) (k : Nat × Nat) (v : Partition) : (setPart s k v).eccL0 = s.eccL0 := rfl
@[simp] theorem setPart_bankModes (s : State) (k : Nat × Nat) (v : Partition) : (setPart s k v).bankModes = s.bankModes := rfl
@[simp] theorem setPart_reqs (s : State) (k : Nat × Nat) (v : Partition) : (setPart s k v).reqs = s.reqs := rfl
@[simp] theorem setPart_watchHolds (s : State) (k : Nat × Nat) (v : Partition) : (setPart s k v).watchHolds = s.watchHolds := rfl
@[simp] theorem setPart_walks (s : State) (k : Nat × Nat) (v : Partition) : (setPart s k v).walks = s.walks := rfl
@[simp] theorem setPart_ranges (s : State) (k : Nat × Nat) (v : Partition) : (setPart s k v).ranges = s.ranges := rfl
@[simp] theorem setPart_xfers (s : State) (k : Nat × Nat) (v : Partition) : (setPart s k v).xfers = s.xfers := rfl
@[simp] theorem setPart_copies (s : State) (k : Nat × Nat) (v : Partition) : (setPart s k v).copies = s.copies := rfl
@[simp] theorem setPart_copyQs (s : State) (k : Nat × Nat) (v : Partition) : (setPart s k v).copyQs = s.copyQs := rfl
@[simp] theorem setPart_vtiles (s : State) (k : Nat × Nat) (v : Partition) : (setPart s k v).vtiles = s.vtiles := rfl
@[simp] theorem setPart_islands (s : State) (k : Nat × Nat) (v : Partition) : (setPart s k v).islands = s.islands := rfl
@[simp] theorem setPart_groups (s : State) (k : Nat × Nat) (v : Partition) : (setPart s k v).groups = s.groups := rfl
@[simp] theorem setPart_xunits (s : State) (k : Nat × Nat) (v : Partition) : (setPart s k v).xunits = s.xunits := rfl
@[simp] theorem setPart_streams (s : State) (k : Nat × Nat) (v : Partition) : (setPart s k v).streams = s.streams := rfl
@[simp] theorem setPart_lanes (s : State) (k : Nat × Nat) (v : Partition) : (setPart s k v).lanes = s.lanes := rfl
@[simp] theorem setPart_packets (s : State) (k : Nat × Nat) (v : Partition) : (setPart s k v).packets = s.packets := rfl
@[simp] theorem setPart_inbox (s : State) (k : Nat × Nat) (v : Partition) : (setPart s k v).inbox = s.inbox := rfl
@[simp] theorem setPart_straits (s : State) (k : Nat × Nat) (v : Partition) : (setPart s k v).straits = s.straits := rfl
@[simp] theorem setPart_acks (s : State) (k : Nat × Nat) (v : Partition) : (setPart s k v).acks = s.acks := rfl
@[simp] theorem setPart_nacks (s : State) (k : Nat × Nat) (v : Partition) : (setPart s k v).nacks = s.nacks := rfl
@[simp] theorem setPart_cables (s : State) (k : Nat × Nat) (v : Partition) : (setPart s k v).cables = s.cables := rfl
@[simp] theorem setPart_exits (s : State) (k : Nat × Nat) (v : Partition) : (setPart s k v).exits = s.exits := rfl
@[simp] theorem setPart_badPages (s : State) (k : Nat × Nat) (v : Partition) : (setPart s k v).badPages = s.badPages := rfl
@[simp] theorem setPart_pageOwner (s : State) (k : Nat × Nat) (v : Partition) : (setPart s k v).pageOwner = s.pageOwner := rfl
@[simp] theorem setPart_pageOn (s : State) (k : Nat × Nat) (v : Partition) : (setPart s k v).pageOn = s.pageOn := rfl
@[simp] theorem setPart_barRuns (s : State) (k : Nat × Nat) (v : Partition) : (setPart s k v).barRuns = s.barRuns := rfl
@[simp] theorem setPart_quotas (s : State) (k : Nat × Nat) (v : Partition) : (setPart s k v).quotas = s.quotas := rfl
@[simp] theorem setPart_slotTabs (s : State) (k : Nat × Nat) (v : Partition) : (setPart s k v).slotTabs = s.slotTabs := rfl
@[simp] theorem setPart_wheels (s : State) (k : Nat × Nat) (v : Partition) : (setPart s k v).wheels = s.wheels := rfl
@[simp] theorem setPart_reports (s : State) (k : Nat × Nat) (v : Partition) : (setPart s k v).reports = s.reports := rfl
@[simp] theorem setPart_qmReports (s : State) (k : Nat × Nat) (v : Partition) : (setPart s k v).qmReports = s.qmReports := rfl
@[simp] theorem setPart_tlb (s : State) (k : Nat × Nat) (v : Partition) : (setPart s k v).tlb = s.tlb := rfl
@[simp] theorem setPart_stops (s : State) (k : Nat × Nat) (v : Partition) : (setPart s k v).stops = s.stops := rfl
@[simp] theorem setPart_traces (s : State) (k : Nat × Nat) (v : Partition) : (setPart s k v).traces = s.traces := rfl
@[simp] theorem setPart_watches (s : State) (k : Nat × Nat) (v : Partition) : (setPart s k v).watches = s.watches := rfl
@[simp] theorem setPart_fns (s : State) (k : Nat × Nat) (v : Partition) : (setPart s k v).fns = s.fns := rfl
@[simp] theorem setPart_packages (s : State) (k : Nat × Nat) (v : Partition) : (setPart s k v).packages = s.packages := rfl
@[simp] theorem setPart_agenda (s : State) (k : Nat × Nat) (v : Partition) : (setPart s k v).agenda = s.agenda := rfl
@[simp] theorem setPart_tick (s : State) (k : Nat × Nat) (v : Partition) : (setPart s k v).tick = s.tick := rfl
@[simp] theorem setPart_cur (s : State) (k : Nat × Nat) (v : Partition) : (setPart s k v).cur = s.cur := rfl
@[simp] theorem setPart_freeCount (s : State) (k : Nat × Nat) (v : Partition) : (setPart s k v).freeCount = s.freeCount := rfl
@[simp] theorem setPart_nextId (s : State) (k : Nat × Nat) (v : Partition) : (setPart s k v).nextId = s.nextId := rfl
@[simp] theorem setPart_partitions (s : State) (k : Nat × Nat) (v : Partition) : (setPart s k v).partitions = tset k v s.partitions := rfl
@[simp] theorem getPart_setPart (s : State) (k : Nat × Nat) (v : Partition) : getPart (setPart s k v) k = v := by
  simp [getPart]
theorem getPart_setPart_other (s : State) {k j : Nat × Nat} (v : Partition) (h : j ≠ k) : getPart (setPart s k v) j = getPart s j :=
  tget_tset_other _ v s.partitions h

/-! ### setGraph -/

@[simp] theorem setGraph_threads (s : State) (k : Nat × Nat) (v : Graph) : (setGraph s k v).threads = s.threads := rfl
@[simp] theorem setGraph_coreNext (s : State) (k : Nat × Nat) (v : Graph) : (setGraph s k v).coreNext = s.coreNext := rfl
@[simp] theorem setGraph_engines (s : State) (k : Nat × Nat) (v : Graph) : (setGraph s k v).engines = s.engines := rfl
@[simp] theorem setGraph_inFlight (s : State) (k : Nat × Nat) (v : Graph) : (setGraph s k v).inFlight = s.inFlight := rfl
@[simp] theorem setGraph_updates (s : State) (k : Nat × Nat) (v : Graph) : (setGraph s k v).updates = s.updates := rfl
@[simp] theorem setGraph_allocWait (s : State) (k : Nat × Nat) (v : Graph) : (setGraph s k v).allocWait = s.allocWait := rfl
@[simp] theorem setGraph_launches (s : State) (k : Nat × Nat) (v : Graph) : (setGraph s k v).launches = s.launches := rfl
@[simp] theorem setGraph_launchQs (s : State) (k : Nat × Nat) (v : Graph) : (setGraph s k v).launchQs = s.launchQs := rfl
@[simp] theorem setGraph_breaks (s : State) (k : Nat × Nat) (v : Graph) : (setGraph s k v).breaks = s.breaks := rfl
@[simp] theorem setGraph_sources (s : State) (k : Nat × Nat) (v : Graph) : (setGraph s k v).sources = s.sources := rfl
@[simp] theorem setGraph_tiles (s : State) (k : Nat × Nat) (v : Graph) : (setGraph s k v).tiles = s.tiles := rfl
@[simp] theorem setGraph_chunkWrites (s : State) (k : Nat × Nat) (v : Graph) : (setGraph s k v).chunkWrites = s.chunkWrites := rfl
@[simp] theorem setGraph_retires (s : State) (k : Nat × Nat) (v : Graph) : (setGraph s k v).retires = s.retires := rfl
@[simp] theorem setGraph_memTiles (s : State) (k : Nat × Nat) (v : Graph) : (setGraph s k v).memTiles = s.memTiles := rfl
@[simp] theorem setGraph_chans (s : State) (k : Nat × Nat) (v : Graph) : (setGraph s k v).chans = s.chans := rfl
@[simp] theorem setGraph_bars (s : State) (k : Nat × Nat) (v : Graph) : (setGraph s k v).bars = s.bars := rfl
@[simp] theorem setGraph_hbm (s : State) (k : Nat × Nat) (v : Graph) : (setGraph s k v).hbm = s.hbm := rfl
@[simp] theorem setGraph_l0 (s : State) (k : Nat × Nat) (v : Graph) : (setGraph s k v).l0 = s.l0 := rfl
@[simp] theorem setGraph_hostMem (s : State) (k : Nat × Nat) (v : Graph) : (setGraph s k v).hostMem = s.hostMem := rfl
@[simp] theorem setGraph_ecc (s : State) (k : Nat × Nat) (v : Graph) : (setGraph s k v).ecc = s.ecc := rfl
@[simp] theorem setGraph_eccL0 (s : State) (k : Nat × Nat) (v : Graph) : (setGraph s k v).eccL0 = s.eccL0 := rfl
@[simp] theorem setGraph_bankModes (s : State) (k : Nat × Nat) (v : Graph) : (setGraph s k v).bankModes = s.bankModes := rfl
@[simp] theorem setGraph_reqs (s : State) (k : Nat × Nat) (v : Graph) : (setGraph s k v).reqs = s.reqs := rfl
@[simp] theorem setGraph_watchHolds (s : State) (k : Nat × Nat) (v : Graph) : (setGraph s k v).watchHolds = s.watchHolds := rfl
@[simp] theorem setGraph_walks (s : State) (k : Nat × Nat) (v : Graph) : (setGraph s k v).walks = s.walks := rfl
@[simp] theorem setGraph_ranges (s : State) (k : Nat × Nat) (v : Graph) : (setGraph s k v).ranges = s.ranges := rfl
@[simp] theorem setGraph_xfers (s : State) (k : Nat × Nat) (v : Graph) : (setGraph s k v).xfers = s.xfers := rfl
@[simp] theorem setGraph_copies (s : State) (k : Nat × Nat) (v : Graph) : (setGraph s k v).copies = s.copies := rfl
@[simp] theorem setGraph_copyQs (s : State) (k : Nat × Nat) (v : Graph) : (setGraph s k v).copyQs = s.copyQs := rfl
@[simp] theorem setGraph_vtiles (s : State) (k : Nat × Nat) (v : Graph) : (setGraph s k v).vtiles = s.vtiles := rfl
@[simp] theorem setGraph_islands (s : State) (k : Nat × Nat) (v : Graph) : (setGraph s k v).islands = s.islands := rfl
@[simp] theorem setGraph_groups (s : State) (k : Nat × Nat) (v : Graph) : (setGraph s k v).groups = s.groups := rfl
@[simp] theorem setGraph_xunits (s : State) (k : Nat × Nat) (v : Graph) : (setGraph s k v).xunits = s.xunits := rfl
@[simp] theorem setGraph_streams (s : State) (k : Nat × Nat) (v : Graph) : (setGraph s k v).streams = s.streams := rfl
@[simp] theorem setGraph_lanes (s : State) (k : Nat × Nat) (v : Graph) : (setGraph s k v).lanes = s.lanes := rfl
@[simp] theorem setGraph_packets (s : State) (k : Nat × Nat) (v : Graph) : (setGraph s k v).packets = s.packets := rfl
@[simp] theorem setGraph_inbox (s : State) (k : Nat × Nat) (v : Graph) : (setGraph s k v).inbox = s.inbox := rfl
@[simp] theorem setGraph_straits (s : State) (k : Nat × Nat) (v : Graph) : (setGraph s k v).straits = s.straits := rfl
@[simp] theorem setGraph_acks (s : State) (k : Nat × Nat) (v : Graph) : (setGraph s k v).acks = s.acks := rfl
@[simp] theorem setGraph_nacks (s : State) (k : Nat × Nat) (v : Graph) : (setGraph s k v).nacks = s.nacks := rfl
@[simp] theorem setGraph_cables (s : State) (k : Nat × Nat) (v : Graph) : (setGraph s k v).cables = s.cables := rfl
@[simp] theorem setGraph_exits (s : State) (k : Nat × Nat) (v : Graph) : (setGraph s k v).exits = s.exits := rfl
@[simp] theorem setGraph_badPages (s : State) (k : Nat × Nat) (v : Graph) : (setGraph s k v).badPages = s.badPages := rfl
@[simp] theorem setGraph_partitions (s : State) (k : Nat × Nat) (v : Graph) : (setGraph s k v).partitions = s.partitions := rfl
@[simp] theorem setGraph_pageOwner (s : State) (k : Nat × Nat) (v : Graph) : (setGraph s k v).pageOwner = s.pageOwner := rfl
@[simp] theorem setGraph_pageOn (s : State) (k : Nat × Nat) (v : Graph) : (setGraph s k v).pageOn = s.pageOn := rfl
@[simp] theorem setGraph_barRuns (s : State) (k : Nat × Nat) (v : Graph) : (setGraph s k v).barRuns = s.barRuns := rfl
@[simp] theorem setGraph_quotas (s : State) (k : Nat × Nat) (v : Graph) : (setGraph s k v).quotas = s.quotas := rfl
@[simp] theorem setGraph_slotTabs (s : State) (k : Nat × Nat) (v : Graph) : (setGraph s k v).slotTabs = s.slotTabs := rfl
@[simp] theorem setGraph_wheels (s : State) (k : Nat × Nat) (v : Graph) : (setGraph s k v).wheels = s.wheels := rfl
@[simp] theorem setGraph_reports (s : State) (k : Nat × Nat) (v : Graph) : (setGraph s k v).reports = s.reports := rfl
@[simp] theorem setGraph_qmReports (s : State) (k : Nat × Nat) (v : Graph) : (setGraph s k v).qmReports = s.qmReports := rfl
@[simp] theorem setGraph_tlb (s : State) (k : Nat × Nat) (v : Graph) : (setGraph s k v).tlb = s.tlb := rfl
@[simp] theorem setGraph_stops (s : State) (k : Nat × Nat) (v : Graph) : (setGraph s k v).stops = s.stops := rfl
@[simp] theorem setGraph_traces (s : State) (k : Nat × Nat) (v : Graph) : (setGraph s k v).traces = s.traces := rfl
@[simp] theorem setGraph_watches (s : State) (k : Nat × Nat) (v : Graph) : (setGraph s k v).watches = s.watches := rfl
@[simp] theorem setGraph_fns (s : State) (k : Nat × Nat) (v : Graph) : (setGraph s k v).fns = s.fns := rfl
@[simp] theorem setGraph_packages (s : State) (k : Nat × Nat) (v : Graph) : (setGraph s k v).packages = s.packages := rfl
@[simp] theorem setGraph_agenda (s : State) (k : Nat × Nat) (v : Graph) : (setGraph s k v).agenda = s.agenda := rfl
@[simp] theorem setGraph_tick (s : State) (k : Nat × Nat) (v : Graph) : (setGraph s k v).tick = s.tick := rfl
@[simp] theorem setGraph_cur (s : State) (k : Nat × Nat) (v : Graph) : (setGraph s k v).cur = s.cur := rfl
@[simp] theorem setGraph_freeCount (s : State) (k : Nat × Nat) (v : Graph) : (setGraph s k v).freeCount = s.freeCount := rfl
@[simp] theorem setGraph_nextId (s : State) (k : Nat × Nat) (v : Graph) : (setGraph s k v).nextId = s.nextId := rfl
@[simp] theorem setGraph_graphs (s : State) (k : Nat × Nat) (v : Graph) : (setGraph s k v).graphs = tset k v s.graphs := rfl
@[simp] theorem getGraph_setGraph (s : State) (k : Nat × Nat) (v : Graph) : getGraph (setGraph s k v) k = some v := by
  simp [getGraph]
theorem getGraph_setGraph_other (s : State) {k j : Nat × Nat} (v : Graph) (h : j ≠ k) : getGraph (setGraph s k v) j = getGraph s j :=
  tfind_tset_other v s.graphs h

/-! ### setLaunch -/

@[simp] theorem setLaunch_threads (s : State) (k : Nat × Nat) (v : Launch) : (setLaunch s k v).threads = s.threads := rfl
@[simp] theorem setLaunch_coreNext (s : State) (k : Nat × Nat) (v : Launch) : (setLaunch s k v).coreNext = s.coreNext := rfl
@[simp] theorem setLaunch_engines (s : State) (k : Nat × Nat) (v : Launch) : (setLaunch s k v).engines = s.engines := rfl
@[simp] theorem setLaunch_inFlight (s : State) (k : Nat × Nat) (v : Launch) : (setLaunch s k v).inFlight = s.inFlight := rfl
@[simp] theorem setLaunch_updates (s : State) (k : Nat × Nat) (v : Launch) : (setLaunch s k v).updates = s.updates := rfl
@[simp] theorem setLaunch_allocWait (s : State) (k : Nat × Nat) (v : Launch) : (setLaunch s k v).allocWait = s.allocWait := rfl
@[simp] theorem setLaunch_graphs (s : State) (k : Nat × Nat) (v : Launch) : (setLaunch s k v).graphs = s.graphs := rfl
@[simp] theorem setLaunch_launchQs (s : State) (k : Nat × Nat) (v : Launch) : (setLaunch s k v).launchQs = s.launchQs := rfl
@[simp] theorem setLaunch_breaks (s : State) (k : Nat × Nat) (v : Launch) : (setLaunch s k v).breaks = s.breaks := rfl
@[simp] theorem setLaunch_sources (s : State) (k : Nat × Nat) (v : Launch) : (setLaunch s k v).sources = s.sources := rfl
@[simp] theorem setLaunch_tiles (s : State) (k : Nat × Nat) (v : Launch) : (setLaunch s k v).tiles = s.tiles := rfl
@[simp] theorem setLaunch_chunkWrites (s : State) (k : Nat × Nat) (v : Launch) : (setLaunch s k v).chunkWrites = s.chunkWrites := rfl
@[simp] theorem setLaunch_retires (s : State) (k : Nat × Nat) (v : Launch) : (setLaunch s k v).retires = s.retires := rfl
@[simp] theorem setLaunch_memTiles (s : State) (k : Nat × Nat) (v : Launch) : (setLaunch s k v).memTiles = s.memTiles := rfl
@[simp] theorem setLaunch_chans (s : State) (k : Nat × Nat) (v : Launch) : (setLaunch s k v).chans = s.chans := rfl
@[simp] theorem setLaunch_bars (s : State) (k : Nat × Nat) (v : Launch) : (setLaunch s k v).bars = s.bars := rfl
@[simp] theorem setLaunch_hbm (s : State) (k : Nat × Nat) (v : Launch) : (setLaunch s k v).hbm = s.hbm := rfl
@[simp] theorem setLaunch_l0 (s : State) (k : Nat × Nat) (v : Launch) : (setLaunch s k v).l0 = s.l0 := rfl
@[simp] theorem setLaunch_hostMem (s : State) (k : Nat × Nat) (v : Launch) : (setLaunch s k v).hostMem = s.hostMem := rfl
@[simp] theorem setLaunch_ecc (s : State) (k : Nat × Nat) (v : Launch) : (setLaunch s k v).ecc = s.ecc := rfl
@[simp] theorem setLaunch_eccL0 (s : State) (k : Nat × Nat) (v : Launch) : (setLaunch s k v).eccL0 = s.eccL0 := rfl
@[simp] theorem setLaunch_bankModes (s : State) (k : Nat × Nat) (v : Launch) : (setLaunch s k v).bankModes = s.bankModes := rfl
@[simp] theorem setLaunch_reqs (s : State) (k : Nat × Nat) (v : Launch) : (setLaunch s k v).reqs = s.reqs := rfl
@[simp] theorem setLaunch_watchHolds (s : State) (k : Nat × Nat) (v : Launch) : (setLaunch s k v).watchHolds = s.watchHolds := rfl
@[simp] theorem setLaunch_walks (s : State) (k : Nat × Nat) (v : Launch) : (setLaunch s k v).walks = s.walks := rfl
@[simp] theorem setLaunch_ranges (s : State) (k : Nat × Nat) (v : Launch) : (setLaunch s k v).ranges = s.ranges := rfl
@[simp] theorem setLaunch_xfers (s : State) (k : Nat × Nat) (v : Launch) : (setLaunch s k v).xfers = s.xfers := rfl
@[simp] theorem setLaunch_copies (s : State) (k : Nat × Nat) (v : Launch) : (setLaunch s k v).copies = s.copies := rfl
@[simp] theorem setLaunch_copyQs (s : State) (k : Nat × Nat) (v : Launch) : (setLaunch s k v).copyQs = s.copyQs := rfl
@[simp] theorem setLaunch_vtiles (s : State) (k : Nat × Nat) (v : Launch) : (setLaunch s k v).vtiles = s.vtiles := rfl
@[simp] theorem setLaunch_islands (s : State) (k : Nat × Nat) (v : Launch) : (setLaunch s k v).islands = s.islands := rfl
@[simp] theorem setLaunch_groups (s : State) (k : Nat × Nat) (v : Launch) : (setLaunch s k v).groups = s.groups := rfl
@[simp] theorem setLaunch_xunits (s : State) (k : Nat × Nat) (v : Launch) : (setLaunch s k v).xunits = s.xunits := rfl
@[simp] theorem setLaunch_streams (s : State) (k : Nat × Nat) (v : Launch) : (setLaunch s k v).streams = s.streams := rfl
@[simp] theorem setLaunch_lanes (s : State) (k : Nat × Nat) (v : Launch) : (setLaunch s k v).lanes = s.lanes := rfl
@[simp] theorem setLaunch_packets (s : State) (k : Nat × Nat) (v : Launch) : (setLaunch s k v).packets = s.packets := rfl
@[simp] theorem setLaunch_inbox (s : State) (k : Nat × Nat) (v : Launch) : (setLaunch s k v).inbox = s.inbox := rfl
@[simp] theorem setLaunch_straits (s : State) (k : Nat × Nat) (v : Launch) : (setLaunch s k v).straits = s.straits := rfl
@[simp] theorem setLaunch_acks (s : State) (k : Nat × Nat) (v : Launch) : (setLaunch s k v).acks = s.acks := rfl
@[simp] theorem setLaunch_nacks (s : State) (k : Nat × Nat) (v : Launch) : (setLaunch s k v).nacks = s.nacks := rfl
@[simp] theorem setLaunch_cables (s : State) (k : Nat × Nat) (v : Launch) : (setLaunch s k v).cables = s.cables := rfl
@[simp] theorem setLaunch_exits (s : State) (k : Nat × Nat) (v : Launch) : (setLaunch s k v).exits = s.exits := rfl
@[simp] theorem setLaunch_badPages (s : State) (k : Nat × Nat) (v : Launch) : (setLaunch s k v).badPages = s.badPages := rfl
@[simp] theorem setLaunch_partitions (s : State) (k : Nat × Nat) (v : Launch) : (setLaunch s k v).partitions = s.partitions := rfl
@[simp] theorem setLaunch_pageOwner (s : State) (k : Nat × Nat) (v : Launch) : (setLaunch s k v).pageOwner = s.pageOwner := rfl
@[simp] theorem setLaunch_pageOn (s : State) (k : Nat × Nat) (v : Launch) : (setLaunch s k v).pageOn = s.pageOn := rfl
@[simp] theorem setLaunch_barRuns (s : State) (k : Nat × Nat) (v : Launch) : (setLaunch s k v).barRuns = s.barRuns := rfl
@[simp] theorem setLaunch_quotas (s : State) (k : Nat × Nat) (v : Launch) : (setLaunch s k v).quotas = s.quotas := rfl
@[simp] theorem setLaunch_slotTabs (s : State) (k : Nat × Nat) (v : Launch) : (setLaunch s k v).slotTabs = s.slotTabs := rfl
@[simp] theorem setLaunch_wheels (s : State) (k : Nat × Nat) (v : Launch) : (setLaunch s k v).wheels = s.wheels := rfl
@[simp] theorem setLaunch_reports (s : State) (k : Nat × Nat) (v : Launch) : (setLaunch s k v).reports = s.reports := rfl
@[simp] theorem setLaunch_qmReports (s : State) (k : Nat × Nat) (v : Launch) : (setLaunch s k v).qmReports = s.qmReports := rfl
@[simp] theorem setLaunch_tlb (s : State) (k : Nat × Nat) (v : Launch) : (setLaunch s k v).tlb = s.tlb := rfl
@[simp] theorem setLaunch_stops (s : State) (k : Nat × Nat) (v : Launch) : (setLaunch s k v).stops = s.stops := rfl
@[simp] theorem setLaunch_traces (s : State) (k : Nat × Nat) (v : Launch) : (setLaunch s k v).traces = s.traces := rfl
@[simp] theorem setLaunch_watches (s : State) (k : Nat × Nat) (v : Launch) : (setLaunch s k v).watches = s.watches := rfl
@[simp] theorem setLaunch_fns (s : State) (k : Nat × Nat) (v : Launch) : (setLaunch s k v).fns = s.fns := rfl
@[simp] theorem setLaunch_packages (s : State) (k : Nat × Nat) (v : Launch) : (setLaunch s k v).packages = s.packages := rfl
@[simp] theorem setLaunch_agenda (s : State) (k : Nat × Nat) (v : Launch) : (setLaunch s k v).agenda = s.agenda := rfl
@[simp] theorem setLaunch_tick (s : State) (k : Nat × Nat) (v : Launch) : (setLaunch s k v).tick = s.tick := rfl
@[simp] theorem setLaunch_cur (s : State) (k : Nat × Nat) (v : Launch) : (setLaunch s k v).cur = s.cur := rfl
@[simp] theorem setLaunch_freeCount (s : State) (k : Nat × Nat) (v : Launch) : (setLaunch s k v).freeCount = s.freeCount := rfl
@[simp] theorem setLaunch_nextId (s : State) (k : Nat × Nat) (v : Launch) : (setLaunch s k v).nextId = s.nextId := rfl
@[simp] theorem setLaunch_launches (s : State) (k : Nat × Nat) (v : Launch) : (setLaunch s k v).launches = tset k v s.launches := rfl
@[simp] theorem getLaunch_setLaunch (s : State) (k : Nat × Nat) (v : Launch) : getLaunch (setLaunch s k v) k = some v := by
  simp [getLaunch]
theorem getLaunch_setLaunch_other (s : State) {k j : Nat × Nat} (v : Launch) (h : j ≠ k) : getLaunch (setLaunch s k v) j = getLaunch s j :=
  tfind_tset_other v s.launches h

end Sys2Proof.Machine
end

