-- ==== Sys2Proof/Laws/Ops.lean ====
section
/-!
SUPPORT. Laws/Ops.lean: what the shared operations over registers and threads can do, said once for each.
-/
set_option Elab.async false
namespace Sys2Proof.Machine

@[simp] theorem getThr_modThr (s : State) (k : Tid) (f : Thread → Thread) : getThr (modThr s k f) k = f (getThr s k) :=
  getThr_setThr s k _

theorem getThr_modThr_other (s : State) {k j : Tid} (f : Thread → Thread) (h : j ≠ k) :
    getThr (modThr s k f) j = getThr s j := getThr_setThr_other s _ h

/-- A change of one thread's record leaves everything else alone. -/
theorem modThr_onlyThread (s : State) (k : Tid) (f : Thread → Thread) : OnlyThread k s (modThr s k f) :=
  ⟨rfl, fun _ h => getThr_modThr_other s f h⟩

/-- Where only a thread's record has changed, every byte reads as before. -/
theorem OnlyThread.sameBytes {k : Tid} {s t : State} (h : OnlyThread k s t) : SameBytes s t := by
  intro a; rw [h.1]; exact ⟨rfl, rfl, rfl⟩

theorem OnlyThread.cur_eq {k : Tid} {s t : State} (h : OnlyThread k s t) : t.cur = s.cur := by rw [h.1]

@[simp] theorem readReg_zero (th : Thread) : readReg th 0 = 0 := rfl

/-- Reading back a register that was written: s0 keeps reading zero. -/
@[simp] theorem readReg_writeReg (th : Thread) (r : RegNo) (v : Word) :
    readReg (writeReg th r v) r = if r = 0 then 0 else v := by
  unfold readReg writeReg
  by_cases h : r = 0
  · simp only [if_pos h]
  · simp only [if_neg h]
    show (th.s.set r.toNat v _).get r.toFin = v
    simp [Vector.get_eq_getElem]

/-- Every other register reads as before. -/
theorem readReg_writeReg_other (th : Thread) {r q : RegNo} (v : Word) (h : q ≠ r) :
    readReg (writeReg th r v) q = readReg th q := by
  unfold readReg writeReg
  by_cases h0 : r = 0
  · simp only [if_pos h0]
  · simp only [if_neg h0]
    by_cases hq : q = 0
    · simp only [if_pos hq]
    · simp only [if_neg hq]
      have hne : r.toNat ≠ q.toNat := fun e => h (BitVec.eq_of_toNat_eq e.symm)
      show (th.s.set r.toNat v _).get q.toFin = th.s.get q.toFin
      simp [Vector.get_eq_getElem, hne]

/-- What writing a register changes: the s registers alone. -/
theorem writeReg_eq (th : Thread) (r : RegNo) (v : Word) : writeReg th r v = { th with s := (writeReg th r v).s } := by
  unfold writeReg; split <;> rfl

@[simp] theorem writeReg_pc (th : Thread) (r : RegNo) (v : Word) : (writeReg th r v).pc = th.pc := by
  rw [writeReg_eq]

theorem readReg_congr {a b : Thread} (r : RegNo) (h : a.s = b.s) : readReg a r = readReg b r := by
  unfold readReg; rw [h]

/-- The common end of an instruction that writes rd (R220): rd holds the value, the program counter has advanced by 4,
nothing else has changed. -/
theorem finish_computes {i : Instr} {s : State} {rd : RegNo} {v w npc : Word}
    (h : exec i s = .next (finish s rd v)) (hv : v = w) (hp : npc = (curThr s).pc + 4) : Computes i s rd w npc := by
  subst hv hp
  have ho : OnlyThread s.cur s (finish s rd v) := modThr_onlyThread s s.cur fun th => advance (writeReg th rd v)
  have hc : curThr (finish s rd v) = advance (writeReg (curThr s) rd v) := getThr_modThr s s.cur _
  refine ⟨_, h, ?_, ?_, ?_, ?_, ho, ho.sameBytes⟩
  · rw [hc]; exact (readReg_congr rd rfl).trans (readReg_writeReg _ _ _)
  · intro r hr; rw [hc]; exact (readReg_congr r rfl).trans (readReg_writeReg_other _ _ hr)
  · rw [hc]; show (writeReg (curThr s) rd v).pc + 4 = _; rw [writeReg_pc]
  · rw [hc]; unfold OnlyRegsAndPc; rw [writeReg_eq]; rfl

/-- A jump that links: rd holds the address of the next word, the program counter is the target. -/
theorem link_computes {i : Instr} {s : State} {rd : RegNo} {v npc : Word}
    (h : exec i s = .next (modCur s fun th => goTo (writeReg th rd v) npc)) : Computes i s rd v npc := by
  have ho := modThr_onlyThread s s.cur fun th => goTo (writeReg th rd v) npc
  have hc : curThr (modCur s fun th => goTo (writeReg th rd v) npc) = goTo (writeReg (curThr s) rd v) npc :=
    getThr_modThr s s.cur _
  refine ⟨_, h, ?_, ?_, ?_, ?_, ho, ho.sameBytes⟩
  · rw [hc]; exact (readReg_congr rd rfl).trans (readReg_writeReg _ _ _)
  · intro r hr; rw [hc]; exact (readReg_congr r rfl).trans (readReg_writeReg_other _ _ hr)
  · rw [hc]; rfl
  · rw [hc]; unfold OnlyRegsAndPc; rw [writeReg_eq]; rfl

/-- A branch goes to its target or to the next word and changes nothing else. -/
theorem branch_jumps {i : Instr} {s : State} {c : Bool} {imm : Imm16} {npc : Word}
    (h : exec i s = .next (branch c imm s))
    (hp : npc = if c then branchTarget (curThr s).pc imm else (curThr s).pc + 4) : Jumps i s npc := by
  have ho := modThr_onlyThread s s.cur fun th => if c then goTo th (branchTarget th.pc imm) else advance th
  have hc : curThr (branch c imm s) = if c then goTo (curThr s) (branchTarget (curThr s).pc imm) else advance (curThr s) :=
    getThr_modThr s s.cur _
  refine ⟨_, h, ?_, ?_, ?_, ho, ho.sameBytes⟩
  · intro r; rw [hc]; cases c <;> exact readReg_congr r rfl
  · rw [hc, hp]; cases c <;> rfl
  · rw [hc]; cases c <;> rfl

end Sys2Proof.Machine
end

