-- ==== Sys2Proof/Laws/Reads.lean ====
section
/-!
SUPPORT. Laws/Reads.lean: what reading memory can change, said once: the counts of banks, and the logs of engines where a walk
meets an uncorrectable word (spec/16 R351; spec/18 R385).
-/
namespace Sys2Proof.Laws
open Sys2Proof.Machine

/-- A read of a word changes the counts of its bank and nothing else. -/
theorem eccRead_eq (s : State) (l0 : Bool) (w : Nat) :
    eccRead s l0 w = { s with bankModes := (eccRead s l0 w).bankModes } := by
  unfold eccRead bankCorrected bankUncorrected
  split
  · rfl
  · split <;> rfl

/-- So does a read of several words. -/
theorem eccReads_eq (l0 : Bool) : ∀ (ws : List Nat) (s : State), ∃ m,
    ws.foldl (fun s w => eccRead s l0 w) s = { s with bankModes := m }
  | [], s => ⟨_, rfl⟩
  | w :: ws, s => by
    obtain ⟨m, h⟩ := eccReads_eq l0 ws (eccRead s l0 w)
    refine ⟨m, ?_⟩
    rw [List.foldl_cons, h, eccRead_eq]

/-- A read of HBM. -/
theorem readHbm_eq (s : State) (g n : Nat) : ∃ m, (readHbm s g n).2.2 = { s with bankModes := m } := eccReads_eq _ _ _

/-- A read of translated pieces. -/
theorem readPieces_eq : ∀ (ps : List (Target × Nat)) (s : State), ∃ m, (readPieces s ps).2.2 = { s with bankModes := m }
  | [], s => ⟨_, rfl⟩
  | (.hbm g, n) :: ps, s => by
    obtain ⟨m, h⟩ := readHbm_eq s g n
    obtain ⟨m', h'⟩ := readPieces_eq ps (readHbm s g n).2.2
    exact ⟨m', by rw [readPieces, h', h]⟩
  | (.host _, _) :: ps, s => readPieces_eq ps s
  | (.fault _, _) :: ps, s => readPieces_eq ps s

/-- A read of one run of HBM gives its bytes. -/
theorem readPieces_hbm (s : State) (g n : Nat) : (readPieces s [(.hbm g, n)]).1 = memRead s.hbm g n := by
  simp [readPieces, readHbm]

/-- An entry in an engine's log changes that engine and nothing else. -/
theorem logError_eq (s : State) (e : Eng) (x : LogEntry) : ∃ es, logError s e x = { s with engines := es } := by
  unfold logError
  dsimp only
  split <;> exact ⟨_, rfl⟩

/-- The reads of a walk change counts and logs and nothing else. -/
theorem noteWalk_eq (pkg part va : Nat) : ∀ (lvl : Nat) (s : State) (t : Nat), ∃ m es,
    noteWalk s pkg part va lvl t = { s with bankModes := m, engines := es } := by
  intro lvl
  induction lvl with
  | zero =>
    intro s t
    unfold noteWalk
    dsimp only
    split
    · exact ⟨_, _, rfl⟩
    · obtain ⟨m, h⟩ := readHbm_eq s (gpa pkg (t + vaIndex va 0 * 8)) 8
      rw [h]
      split
      · obtain ⟨es, h'⟩ := logError_eq { s with bankModes := m } (ownerOf (gpa pkg (t + vaIndex va 0 * 8)))
          { sector := va / 64 % 2 ^ 46, part := part }
        exact ⟨m, es, h'⟩
      · split <;> exact ⟨m, _, rfl⟩
  | succ n ih =>
    intro s t
    unfold noteWalk
    dsimp only
    split
    · exact ⟨_, _, rfl⟩
    · obtain ⟨m, h⟩ := readHbm_eq s (gpa pkg (t + vaIndex va (n + 1) * 8)) 8
      rw [h]
      split
      · obtain ⟨es, h'⟩ := logError_eq { s with bankModes := m } (ownerOf (gpa pkg (t + vaIndex va (n + 1) * 8)))
          { sector := va / 64 % 2 ^ 46, part := part }
        exact ⟨m, es, h'⟩
      · split
        · exact ⟨m, _, rfl⟩
        · obtain ⟨m', es, h'⟩ := ih { s with bankModes := m } (bits (leNat (readHbm s (gpa pkg (t + vaIndex va (n + 1) * 8)) 8).1) 43 13 * 2 ^ 13)
          exact ⟨m', es, h'⟩

/-- The walks of an access of the scheduler, the service core or the host. -/
theorem coreWalks_eq (pkg part : Nat) : ∀ (ps : List (Nat × Nat)) (s : State), ∃ m es,
    coreWalks s pkg part ps = { s with bankModes := m, engines := es }
  | [], s => ⟨_, _, rfl⟩
  | p :: ps, s => by
    unfold coreWalks
    dsimp only
    split
    · exact ⟨_, _, rfl⟩
    · obtain ⟨m, es, h⟩ := noteWalk_eq pkg part p.1 3 s (getPart s (pkg, part)).root
      split
      · exact ⟨m, es, h⟩
      · obtain ⟨m', es', h'⟩ := coreWalks_eq pkg part ps (noteWalk s pkg part p.1 3 (getPart s (pkg, part)).root)
        exact ⟨m', es', by rw [h', h]⟩

/-- Its walks and reads. -/
theorem coreReads_eq (s : State) (pkg part va n : Nat) : ∃ m es,
    coreReads s pkg part va n = { s with bankModes := m, engines := es } := by
  unfold coreReads
  dsimp only
  obtain ⟨m, es, h⟩ := coreWalks_eq pkg part (pagePieces va n) s
  split
  · obtain ⟨m', h'⟩ := readPieces_eq (by assumption) (coreWalks s pkg part (pagePieces va n))
    exact ⟨m', es, by rw [h', h]⟩
  · exact ⟨m, es, h⟩

/-- The service core's walks and reads in a function's memory. -/
theorem svcReads_eq (s : State) (pkg fn va n : Nat) : ∃ m es,
    svcReads s pkg fn va n = { s with bankModes := m, engines := es } := by
  unfold svcReads
  split
  · dsimp only
    obtain ⟨m, es, h⟩ := coreWalks_eq pkg fn (pagePieces va n) s
    cases svcPieces (coreWalks s pkg fn (pagePieces va n)) pkg fn .read va n with
    | none => exact ⟨m, es, h⟩
    | some ps =>
      obtain ⟨m', h'⟩ := readPieces_eq ps (coreWalks s pkg fn (pagePieces va n))
      exact ⟨m', es, by show (readPieces _ ps).2.2 = _; rw [h', h]⟩
  · exact ⟨_, _, rfl⟩

/-- A walk that goes on changes counts and logs and nothing else. -/
theorem walkOn_eq : ∀ (n : Nat) (s : State) (w : Walk), ∃ m es, (walkOn s w n).1 = { s with bankModes := m, engines := es }
  | 0, s, _ => ⟨_, _, rfl⟩
  | n + 1, s, w => by
    unfold walkOn
    split
    · exact ⟨_, _, rfl⟩
    · rename_i g _
      split
      · exact ⟨_, _, rfl⟩
      · obtain ⟨m, h⟩ := readHbm_eq s g 8
        dsimp only
        split
        · obtain ⟨es, h'⟩ := logError_eq (readHbm s g 8).2.2 (ownerOf g)
            { tag := w.tag, slot := w.slot, sector := w.va / 64 % 2 ^ 46, lid := w.lid, part := w.part }
          exact ⟨m, es, by rw [h', h]⟩
        · split
          · exact ⟨m, _, h⟩
          · split
            · exact ⟨m, _, h⟩
            · split
              · exact ⟨m, _, h⟩
              · obtain ⟨m', es, h'⟩ := walkOn_eq n (readHbm s g 8).2.2 { w with lvl := w.lvl - 1, table := bits (leNat (readHbm s g 8).1) 43 13 * 2 ^ 13 }
                exact ⟨m', es, by rw [h', h]⟩

end Sys2Proof.Laws
end

