-- ==== Sys2Proof/Laws/Traps.lean ====
section
/-!
SUPPORT. Laws/Traps.lean: what taking a trap, returning from one and issuing an access can do, said once for each.
-/
set_option Elab.async false
namespace Sys2Proof.Machine

/-- A trace record touches the trace configurations alone. -/
theorem traceClass_eq (s : State) (pkg die part cls : Nat) (tag : Word) (data coord lid kind : Nat) :
    ∃ x, traceClass s pkg die part cls tag data coord lid kind = { s with traces := x } := by
  unfold traceClass
  dsimp only
  split
  · exact ⟨_, rfl⟩
  · exact ⟨s.traces, rfl⟩

/-- Trap entry touches the thread's record and the trace configurations. -/
theorem enterTrap_eq (s : State) (t : Tid) (tr : TrapInfo) (epc handler : Word) :
    ∃ x, enterTrap s t tr epc handler = { modThr s t fun th => trapEntry th tr epc handler with traces := x } :=
  traceClass_eq _ _ _ _ _ _ _ _ _ _

/-- A synchronous trap with no deferred load error: the thread enters its handler, or halts where ht is 1. -/
theorem syncTrap_eq {s : State} {t : Tid} (c : Nat) (v e : Word) (he : (getThr s t).errs = []) :
    ∃ x, syncTrap s t c v e = { modThr s t fun th =>
      if th.ht then { th with halted := true, wait := none }
      else trapEntry th { cause := c, tval := v } e th.tvec with traces := x } := by
  unfold syncTrap syncTrapRaw
  rw [he]
  simp only [List.isEmpty_nil, if_true]
  cases hh : (getThr s t).ht
  · obtain ⟨x, hx⟩ := enterTrap_eq s t { cause := c, tval := v } e (getThr s t).tvec
    exact ⟨x, by simp only [Bool.false_eq_true, if_false]; rw [hx]; simp only [modThr, hh, Bool.false_eq_true, if_false]⟩
  · exact ⟨s.traces, by simp only [if_true]; simp only [modThr, hh, if_true]; rfl⟩

/-- The trap of an instruction, from a state that differs at most in the current thread's record, which is a, and in tables that
no thread, memory or turn reads. -/
theorem traps_from {i : Instr} {s s' : State} {a : Thread} {c : Nat} {v e : Word} (he : a.errs = [])
    (ha : getThr s' s.cur = a) (ho : ∀ u, u ≠ s.cur → getThr s' u = getThr s u)
    (hs : s'.cur = s.cur ∧ s'.hbm = s.hbm ∧ s'.l0 = s.l0 ∧ s'.hostMem = s.hostMem)
    (h : exec i s = .next (syncTrap s' s.cur c v e)) : TrapsFrom i s a c v e := by
  obtain ⟨h2, h3, h4, h5⟩ := hs
  subst ha
  obtain ⟨x, hx⟩ := syncTrap_eq c v e he
  have hc : ∀ u, getThr (syncTrap s' s.cur c v e) u =
      getThr (modThr s' s.cur fun th => if th.ht then { th with halted := true, wait := none }
        else trapEntry th { cause := c, tval := v } e th.tvec) u := fun u => by rw [hx]; rfl
  have hcur : (syncTrap s' s.cur c v e).cur = s.cur := by rw [hx]; exact h2
  have hcc : curThr (syncTrap s' s.cur c v e) =
      if (getThr s' s.cur).ht then { getThr s' s.cur with halted := true, wait := none }
      else trapEntry (getThr s' s.cur) { cause := c, tval := v } e (getThr s' s.cur).tvec := by
    unfold curThr; rw [hcur, hc, getThr_modThr]
  refine ⟨_, h, ?_, ?_, hcur, ?_, ?_⟩
  · intro hh; rw [hcc, if_neg (by rw [hh]; simp)]; rfl
  · intro hh; rw [hcc, if_pos hh]
  · intro u hu; rw [hc, getThr_modThr_other _ _ hu, ho u hu]
  · intro a; rw [hx]; exact ⟨congrArg (memGet · a) h3, congrArg (memGet · a) h4, congrArg (memGet · a) h5⟩

/-- The trap of an instruction, from a state that differs at most in tables that no thread, memory or turn reads. -/
theorem takes_trap {i : Instr} {s s' : State} {c : Nat} {v e : Word} (he : (curThr s).errs = [])
    (hs : s'.threads = s.threads ∧ s'.cur = s.cur ∧ s'.hbm = s.hbm ∧ s'.l0 = s.l0 ∧ s'.hostMem = s.hostMem)
    (h : exec i s = .next (syncTrap s' s.cur c v e)) : TakesTrap i s c v e := by
  have hg : ∀ u, getThr s' u = getThr s u := fun u => by unfold getThr; rw [hs.1]
  exact traps_from he (hg s.cur) (fun u _ => hg u) hs.2 h

/-- The watchpoint trap of a data access. -/
theorem watchTrap_traps {i : Instr} {s : State} {acc : Acc} {va : Word} (hn : watchNum acc = 2) (he : (curThr s).errs = [])
    (h : exec i s = .next (watchTrap s s.cur acc va (curThr s).pc)) : WatchTraps i s va := by
  unfold watchTrap at h
  rw [hn] at h
  exact traps_from (s' := modThr s s.cur fun th => { th with watched := 2 }) he (by simp [curThr])
    (fun u hu => getThr_modThr_other _ _ hu) ⟨rfl, rfl, rfl, rfl⟩ h

/-- The trap of the current instruction. -/
theorem trapCur_takes {i : Instr} {s : State} {c : Nat} {v e : Word} (he : (curThr s).errs = [])
    (h : exec i s = .next (syncTrap s s.cur c v e)) : TakesTrap i s c v e :=
  takes_trap he ⟨rfl, rfl, rfl, rfl, rfl⟩ h

/-- A failing access traps with its cause and address. -/
theorem accessTrap_takes {i : Instr} {s : State} {c : Nat} {v : Word} (hc : c ≠ 0) (he : (curThr s).errs = [])
    (h : exec i s = .next (accessTrap s c v)) : TakesTrap i s c v (curThr s).pc := by
  unfold accessTrap trapCur at h
  rw [if_neg hc] at h
  exact takes_trap (s' := dropWalk s (ccEng s.cur.pkg s.cur.die) (curThr s).part v.toNat) he ⟨rfl, rfl, rfl, rfl, rfl⟩ h

/-- A miss asks for the walk of its page or joins the one in progress: only the walks change (R352). -/
theorem noteMiss_spec (s : State) (e : Eng) (part va : Nat) (tag : Word) (slot lid : Nat) :
    noteMiss s e part va tag slot lid = { s with walks := (noteMiss s e part va tag slot lid).walks } ∧
    ∃ w ∈ (noteMiss s e part va tag slot lid).walks, w.fault = 0 ∧ walkFor w e part (va / 8192) = true ∧ e ∈ w.engs := by
  unfold noteMiss
  dsimp only
  split
  · rename_i h
    refine ⟨rfl, ?_⟩
    obtain ⟨w, hw, hon⟩ := List.any_eq_true.1 h
    have hf : w.fault = 0 ∧ walkFor w e part (va / 8192) = true := by simpa using hon
    by_cases hc : e ∈ w.engs
    · exact ⟨w, List.mem_map.2 ⟨w, hw, by simp [hc]⟩, hf.1, hf.2, hc⟩
    · refine ⟨{ w with engs := w.engs ++ [e] }, List.mem_map.2 ⟨w, hw, by simp [hf, hc]⟩, hf.1, hf.2, by simp⟩
  · refine ⟨rfl, _, List.mem_append_right _ (List.mem_singleton.2 rfl), rfl, ?_, by simp⟩
    simp [walkFor]

/-- An access that misses waits for its page's walk (R352). -/
theorem accessTrap_waits {i : Instr} {s : State} {v : Word} (h : exec i s = .next (accessTrap s 0 v)) :
    AwaitsWalk i s s v.toNat := by
  unfold accessTrap at h
  rw [if_pos rfl] at h
  obtain ⟨h1, h2⟩ := noteMiss_spec s (ccEng s.cur.pkg s.cur.die) (curThr s).part v.toNat 0 0 0
  exact ⟨_, h, h1, h2⟩

/-- The precise data trap of a device instruction's operand, from a state whose threads are s's. -/
theorem opTrap_traps {i : Instr} {s u : State} {x : Nat × Word} {m : Tbl BankId BankMode}
    (hu : u = { s with bankModes := m })
    (h : exec i s = .next (opTrap u x)) : OpTraps i s u x := by
  have ht : u.threads = s.threads := by rw [hu]
  have hc : u.cur = s.cur := by rw [hu]
  have hg : ∀ k, getThr u k = getThr s k := fun k => by unfold getThr; rw [ht]
  have hcc : curThr u = curThr s := by unfold curThr; rw [hc, hg]
  have hm : u.hbm = s.hbm ∧ u.l0 = s.l0 ∧ u.hostMem = s.hostMem := by rw [hu]; exact ⟨rfl, rfl, rfl⟩
  clear hu
  unfold opTrap at h
  refine ⟨fun h0 => ?_, fun he => ⟨fun hw => ?_, fun h0 hw => ?_⟩⟩
  · rw [if_neg (by rw [h0]; decide), h0] at h
    unfold accessTrap at h
    rw [if_pos rfl] at h
    rw [hc, hcc] at h
    obtain ⟨h1, h2⟩ := noteMiss_spec u (ccEng s.cur.pkg s.cur.die) (curThr s).part x.2.toNat 0 0 0
    exact ⟨_, h, h1, h2⟩
  · rw [if_pos hw] at h
    unfold watchTrap at h
    rw [hc, hcc] at h
    exact traps_from (s' := modThr u s.cur fun th => { th with watched := watchNum .read }) he (by simp [hg, curThr, watchNum])
      (fun k hk => by rw [getThr_modThr_other _ _ hk, hg]) ⟨hc, hm⟩ h
  · rw [if_neg hw] at h
    unfold accessTrap trapCur at h
    rw [if_neg h0] at h
    have h' : exec i s = .next (syncTrap (dropWalk u (ccEng u.cur.pkg u.cur.die) (curThr u).part x.2.toNat) s.cur x.1 x.2
        (curThr s).pc) := by
      rw [h]
      show _ = Host.Outcome.next (syncTrap _ s.cur x.1 x.2 (curThr s).pc)
      have : curThr (dropWalk u (ccEng u.cur.pkg u.cur.die) (curThr u).part x.2.toNat) = curThr s := hcc
      rw [this]
      show Host.Outcome.next (syncTrap _ u.cur x.1 x.2 (curThr s).pc) = _
      rw [hc]
    exact takes_trap (s' := dropWalk u (ccEng u.cur.pkg u.cur.die) (curThr u).part x.2.toNat) he ⟨ht, hc, hm⟩ h'

/-- A packet that an engine takes enters its retry buffer and is on its way. -/
theorem takePkt_eq (s : State) (e : Eng) (p : Pkt) : ∃ q,
    takePkt s e p = { s with straits := (takePkt s e p).straits, packets := s.packets ++ [q] } ∧
    q.hdr.dst = p.hdr.dst ∧ q.body = p.body := ⟨_, rfl, rfl, rfl⟩

/-- An engine that takes waiting packets changes its own record and sends them, and nothing else (R369). -/
theorem admitPkts_eq : ∀ (n : Nat) (s : State) (e : Eng), ∃ st ps,
    admitPkts n s e = { s with straits := st, packets := s.packets ++ ps }
  | 0, s, _ => ⟨s.straits, [], by simp [admitPkts]⟩
  | n + 1, s, e => by
    unfold admitPkts
    dsimp only
    split
    · exact ⟨s.straits, [], by simp⟩
    · rename_i p ws _
      split
      · obtain ⟨q, hq, -, -⟩ := takePkt_eq (setStrait s e { getStrait s e with waiting := ws }) e p
        obtain ⟨st, ps, h⟩ := admitPkts_eq n (takePkt (setStrait s e { getStrait s e with waiting := ws }) e p) e
        refine ⟨st, q :: ps, ?_⟩
        rw [h, hq]
        simp [setStrait]
      · exact ⟨s.straits, [], by simp⟩

/-- A packet is sent through a strait engine, or waits there; threads, requests and memories are as before. -/
theorem sendPkt_eq (s : State) (e : Eng) (p : Pkt) :
    sendPkt s e p = { s with straits := (sendPkt s e p).straits, packets := (sendPkt s e p).packets,
                             exits := (sendPkt s e p).exits, nextId := s.nextId + 1 } ∧ Leaves s (sendPkt s e p) e p := by
  have hr : straitRoom { s with exits := tset (p.hdr.src.eng, p.hdr.dst.eng.pkg) e.page s.exits, nextId := s.nextId + 1 } e
      { p with id := s.nextId } = straitRoom s e p := rfl
  unfold sendPkt fresh
  dsimp only
  unfold Leaves
  rw [hr]
  by_cases h : straitRoom s e p = true
  · simp only [if_pos h]
    obtain ⟨q, hq, hd, hb⟩ := takePkt_eq { s with exits := tset (p.hdr.src.eng, p.hdr.dst.eng.pkg) e.page s.exits,
                                                  nextId := s.nextId + 1 } e { p with id := s.nextId }
    exact ⟨rfl, q, hd, hb, congrArg State.packets hq⟩
  · simp only [if_neg h]
    exact ⟨rfl, { p with id := s.nextId }, rfl, rfl, rfl, by rw [getStrait_setStrait]; rfl⟩

@[simp] theorem reqPacket_dst (pkg die : Nat) (r : Req) : (reqPacket pkg die r).hdr.dst = { eng := r.owner } := rfl

/-- The packet of a request carries the request. -/
theorem reqPacket_body (pkg die : Nat) (r : Req) :
    (reqPacket pkg die r).body = .hbmRead r ∨ (reqPacket pkg die r).body = .hbmWrite r ∨
      (reqPacket pkg die r).body = .hbmAtomic r := by
  unfold reqPacket
  cases r.op <;> simp

/-- An access that issues. -/
theorem issueReq_issues {i : Instr} {s : State} {f : Thread → Thread} {r : Req}
    (h : exec i s = .next (issueReq (modCur { s with nextId := s.nextId + 1 } f) s.cur.pkg s.cur.die r)) :
    Issues i s (f (curThr s)) r := by
  have hm : modCur { s with nextId := s.nextId + 1 } f =
      { s with threads := (modThr s s.cur f).threads, nextId := s.nextId + 1 } := rfl
  have hg : ∀ t : State, t.threads = (modThr s s.cur f).threads → ∀ u, getThr t u = getThr (modThr s s.cur f) u :=
    fun t ht u => by unfold getThr; rw [ht]
  have hcur : ∀ t : State, t.threads = (modThr s s.cur f).threads → t.cur = s.cur → curThr t = f (curThr s) :=
    fun t ht hc => by unfold curThr; rw [hc, hg t ht, getThr_modThr]
  have hoth : ∀ t : State, t.threads = (modThr s s.cur f).threads → ∀ u, u ≠ s.cur → getThr t u = getThr s u :=
    fun t ht u hu => by rw [hg t ht, getThr_modThr_other _ _ hu]
  rw [hm] at h
  unfold issueReq at h
  unfold Issues
  by_cases hl : r.host = true ∨ r.owner.pkg = s.cur.pkg
  · rw [if_pos (by simpa using hl)] at h
    refine ⟨_, h, hcur _ rfl rfl, hoth _ rfl, fun a => ⟨rfl, rfl, rfl⟩, rfl, ?_⟩
    rw [if_pos hl]; exact ⟨rfl, rfl⟩
  · rw [if_neg (by simpa using hl)] at h
    simp only [if_neg hl]
    have he : egress { s with threads := (modThr s s.cur f).threads, reqs := s.reqs ++ [{ r with st := ReqSt.away }],
                              nextId := s.nextId + 1 } (reqSrc s.cur.pkg s.cur.die r.from_) r.owner.pkg =
        egress s (reqSrc s.cur.pkg s.cur.die r.from_) r.owner.pkg := rfl
    dsimp only at h
    rw [he] at h
    cases hx : egress s (reqSrc s.cur.pkg s.cur.die r.from_) r.owner.pkg with
    | none =>
      rw [hx] at h
      refine ⟨_, h, hcur _ rfl rfl, hoth _ rfl, fun a => ⟨rfl, rfl, rfl⟩, rfl, ?_, ?_, rfl⟩
      · intro q hq hid
        obtain ⟨w, -, rfl⟩ := List.mem_map.1 hq
        split at hid
        · rw [if_pos ‹_›]; exact ⟨rfl, rfl⟩
        · exact absurd hid ‹_›
      · refine ⟨_, List.mem_map.2 ⟨{ r with st := ReqSt.away }, by simp, rfl⟩, ?_⟩
        split <;> rfl
    | some e =>
      rw [hx] at h
      dsimp only at h
      obtain ⟨hq, hl⟩ := sendPkt_eq
        { s with threads := (modThr s s.cur f).threads, reqs := s.reqs ++ [{ r with st := ReqSt.away }],
                 nextId := s.nextId + 1 } e
        (reqPacket s.cur.pkg s.cur.die r)
      have ht := congrArg State.threads hq
      have hc := congrArg State.cur hq
      refine ⟨_, h, hcur _ ht hc, hoth _ ht, fun a => ?_, ?_, by rw [hq], _, rfl, reqPacket_body _ _ r, hl⟩
      · rw [hq]; exact ⟨rfl, rfl, rfl⟩
      · rw [hq]

end Sys2Proof.Machine
end

