-- ==== Sys2Proof/Tests/Slice0.lean ====
section
/-!
SUPPORT. Tests/Slice0.lean: the model's own tests. Words are written out from the encodings of spec/04, expected results
come from the rules and worked examples of the spec. Each theorem named witness_… shows concrete data that meet all the
hypotheses of a clause of the obligation it names, together.
-/
set_option Elab.async false
namespace Sys2Proof.Tests
open Sys2Proof Sys2Proof.Machine

/-! ### Helpers -/

/-- Something is there, and it satisfies p. -/
def okAnd {ε α : Type} (x : Except ε α) (p : α → Bool) : Bool :=
  match x with
  | .ok a => p a
  | .error _ => false

/-- What an error says satisfies p. -/
def errAnd {ε α : Type} (x : Except ε α) (p : ε → Bool) : Bool :=
  match x with
  | .ok _ => false
  | .error e => p e

/-- An instruction answers a next state that satisfies p. -/
def after (i : Instr) (s : State) (p : State → Bool) : Bool :=
  match exec i s with
  | .next t => p t
  | _ => false

/-- A step answers a next state that satisfies p. -/
def afterStep (s : State) (p : State → Bool) : Bool :=
  match step s with
  | .next t => p t
  | _ => false

/-- Thread T0 of die 0 of package 0. -/
def t0 : Tid := ⟨0, 0, 0⟩

/-- T0 runs at 0x1000, the first 8 GiB of its window are the first 8 GiB of HBM (log 3). -/
def s0 : State := State.reset.withFetchWord 32 0x80000000

/-- s0 with registers of T0 set. -/
def regs0 (l : List (RegNo × Word)) : State := modThr s0 t0 fun th => l.foldl (fun th x => writeReg th x.1 x.2) th

/-- The word run from s0's place with registers set. -/
def run (w : Nat) (l : List (RegNo × Word)) : State :=
  modThr (State.reset.withFetchWord 32 w) t0 fun th => l.foldl (fun th x => writeReg th x.1 x.2) th

/-- After one step of that word, T0 satisfies p. -/
def runs (w : Nat) (l : List (RegNo × Word)) (p : Thread → Bool) : Bool := afterStep (run w l) fun t => p (getThr t t0)

/-- A register of a thread holds v. -/
def holds (r : RegNo) (v : Word) (th : Thread) : Bool := decide (readReg th r = v)

/-! ### WellFormed: one ill-formed term for each check -/

theorem test_wf_pkg : (Instr.launchStart (2 ^ 19)).wellFormed = false := by decide +kernel
theorem test_wf_die : (Instr.farListMove 0 4).wellFormed = false := by decide +kernel
theorem test_wf_page : (Instr.pagePowerGate 0 0 16).wellFormed = false := by decide +kernel
theorem test_wf_part : (Instr.traceWrite 0 0 32).wellFormed = false := by decide +kernel
theorem test_wf_fn : (Instr.zbell 0 32).wellFormed = false := by decide +kernel
theorem test_wf_lid : (Instr.launchComplete 0 0).wellFormed = false ∧ (Instr.qmWindowEnd 0 4096).wellFormed = false := by
  decide +kernel
theorem test_wf_graph : (Instr.containmentHeld 0 256 0 0).wellFormed = false := by decide +kernel
theorem test_wf_eng : (Instr.sink ⟨0, 0, 0, 32⟩ 0).wellFormed = false ∧ (Instr.sink ⟨0, 0, 16, 0⟩ 0).wellFormed = false ∧
    (Instr.sink ⟨0, 4, 0, 0⟩ 0).wellFormed = false ∧ (Instr.sink ⟨2 ^ 19, 0, 0, 0⟩ 0).wellFormed = false := by decide +kernel
theorem test_wf_tid : (Instr.asyncTrapEntry ⟨0, 0, 4⟩).wellFormed = false := by decide +kernel
theorem test_wf_bank : (Instr.scrubRead (.l0 0 0 0 8 0) 0).wellFormed = false ∧
    (Instr.scrubRead (.l0 0 0 0 0 16) 0).wellFormed = false ∧ (Instr.scrubRead (.hbm 0 12 0) 0).wellFormed = false := by
  decide +kernel
theorem test_wf_slot : (Instr.triggerDeadline ⟨0, 0, 0, 0⟩ 64 0).wellFormed = false := by decide +kernel
theorem test_wf_queues : (Instr.copyPacketTake 0 0 16).wellFormed = false ∧ (Instr.launchAccept 0 32).wellFormed = false ∧
    (Instr.dispatchCreditUpdate 0 0 4096).wellFormed = false ∧ (Instr.memoryTileRequest ⟨0, 0, 0, 12⟩ 16).wellFormed = false ∧
    (Instr.streamCommandBegin ⟨0, 0, 0, 12⟩ 4 0).wellFormed = false ∧
    (Instr.streamCommandBegin ⟨0, 0, 0, 12⟩ 0 8).wellFormed = false := by decide +kernel
theorem test_wf_csr : (Instr.csrrd 1 0x008).wellFormed = false ∧ (Instr.csrwr 1 0x001).wellFormed = false := by
  decide +kernel

/-! ### Decoding: words written out from R102 to R105 -/

/-- ADD s1, s2, s3: major 0x00, rd 1, rs1 2, rs2 3, function 1. -/
theorem test_decode_add : decode 0b000000_00001_00010_00011_00000000001 = .ok (.add 1 2 3) := by decide +kernel
/-- SLTN is function 21 of major 0x00. -/
theorem test_decode_sltn : decode 0b000000_00001_00010_00011_00000010101 = .ok (.sltn 1 2 3) := by decide +kernel
/-- ADDI: major 0x01. -/
theorem test_decode_addi : decode 0b000001_00001_00010_1111111111111111 = .ok (.addi 1 2 0xFFFF) := by decide +kernel
/-- SARI: major 0x07, a count of 63. -/
theorem test_decode_sari : decode 0b000111_00001_00010_0000000000_111111 = .ok (.sari 1 2 63) := by decide +kernel
/-- AUIP: major 0x09. -/
theorem test_decode_auip : decode 0b001001_00001_00000_1000000000000000 = .ok (.auip 1 0x8000) := by decide +kernel
/-- JAL: major 0x0A, imm21. -/
theorem test_decode_jal : decode 0b001010_11111_100000000000000000000 = .ok (.jal 31 0x100000) := by decide +kernel
/-- `BNE s3, s0, loop`, 12 bytes back, is 0x3460_FFFD (spec/04). -/
theorem test_decode_bne : decode 0x3460FFFD = .ok (.bne 3 0 0xFFFD) := by decide +kernel
/-- LD16N: major 0x15. -/
theorem test_decode_ld16n : decode 0b010101_00001_00010_0000000000000010 = .ok (.ld16n 1 2 2) := by decide +kernel
/-- ST64: major 0x1C, source 1, base 2. -/
theorem test_decode_st64 : decode 0b011100_00001_00010_1111111111111000 = .ok (.st64 1 2 0xFFF8) := by decide +kernel
/-- `AMOINC.ar s7, s8, s0` is 0x74E8_0038 (spec/04). -/
theorem test_decode_amoinc : decode 0x74E80038 = .ok (.amoinc 7 8 0 .ar) := by decide +kernel
/-- FENCE.dom: major 0x1E, scope 4. -/
theorem test_decode_fence : decode 0b011110_00000_00000_00000_00000000100 = .ok (.fence .dom) := by decide +kernel
/-- TRAP: major 0x1F. -/
theorem test_decode_trap : decode 0b011111_00000_00000_1000000000000001 = .ok (.trap 0x8001) := by decide +kernel
/-- WFE: function 3 of major 0x20. -/
theorem test_decode_wfe : decode 0b100000_00000_00000_00000_00000000011 = .ok .wfe := by decide +kernel
/-- CSRCLR of cc_hnote: major 0x21, operation 3, number 0x007. -/
theorem test_decode_csrclr : decode 0b100001_00000_00010_00_11_000000000111 = .ok (.csrclr 2 0x007) := by decide +kernel
/-- `GLOAD s5, s4` is 0x88A4_0001 (R233). -/
theorem test_decode_gload : decode 0x88A40001 = .ok (.gload 5 4) := by decide +kernel
/-- RESTC is function 12 of major 0x22. -/
theorem test_decode_restc : decode 0b100010_00001_00010_00000_00000001100 = .ok (.restc 1 2) := by decide +kernel
/-- BARARM is function 6 of major 0x23, with no rd. -/
theorem test_decode_bararm : decode 0b100011_00000_00010_00011_00000000110 = .ok (.bararm 2 3) := by decide +kernel
/-- QGET is function 12 of major 0x24. -/
theorem test_decode_qget : decode 0b100100_00001_00010_00011_00000001100 = .ok (.qget 1 2 3) := by decide +kernel
/-- A register field that the instruction does not use must be zero (R106): HALT with rd 1. -/
theorem test_decode_stray : decode 0b100000_00001_00000_00000_00000000001 = .error .nonzeroField := by decide +kernel
/-- Majors 0x25 to 0x3F are unassigned. -/
theorem test_decode_major : decode 0x94000000 = .error .unassignedMajor := by decide +kernel

/-! ### Control core instructions, one step each -/

/-- 2^63 + 2^63 wraps to 0 (R222). -/
theorem test_add_wraps : runs 0x00221801 [(2, 0x8000000000000000), (3, 0x8000000000000000)] (holds 1 0) = true := by
  decide +kernel
/-- A result for s0 is discarded and the program counter advances (R106). -/
theorem test_add_s0 : runs 0x00021801 [(2, 1), (3, 1)] (fun th => holds 0 0 th && decide (th.pc = 0x1004)) = true := by
  decide +kernel
/-- A source that is also the destination is read first: SUB s2, s2, s2. -/
theorem test_sub_same : runs 0x00421002 [(2, 7)] (holds 2 0) = true := by decide +kernel
/-- Shift counts use bits [5:0] (R222): a count of 64 shifts by 0. -/
theorem test_shl_64 : runs 0x00221806 [(2, 5), (3, 64)] (holds 1 5) = true := by decide +kernel
/-- SAR of the most negative number by 63 is −1. -/
theorem test_sar_63 : runs 0x00221808 [(2, 0x8000000000000000), (3, 63)] (holds 1 0xFFFFFFFFFFFFFFFF) = true := by
  decide +kernel
/-- The high half of (−1) × (−1) is 0 signed, 2^64 − 2 unsigned. -/
theorem test_mulh : runs 0x0022180A [(2, 0xFFFFFFFFFFFFFFFF), (3, 0xFFFFFFFFFFFFFFFF)] (holds 1 0) = true ∧
    runs 0x0022180B [(2, 0xFFFFFFFFFFFFFFFF), (3, 0xFFFFFFFFFFFFFFFF)] (holds 1 0xFFFFFFFFFFFFFFFE) = true := by
  decide +kernel
/-- −7 div 2 is −3, −7 rem 2 is −1: the quotient truncates toward zero. -/
theorem test_div_negative : runs 0x0022180C [(2, 0xFFFFFFFFFFFFFFF9), (3, 2)] (holds 1 0xFFFFFFFFFFFFFFFD) = true ∧
    runs 0x0022180E [(2, 0xFFFFFFFFFFFFFFF9), (3, 2)] (holds 1 0xFFFFFFFFFFFFFFFF) = true := by decide +kernel
/-- Division by zero gives all ones and the dividend. -/
theorem test_div_zero : runs 0x0022180D [(2, 9), (3, 0)] (holds 1 0xFFFFFFFFFFFFFFFF) = true ∧
    runs 0x0022180F [(2, 9), (3, 0)] (holds 1 9) = true := by decide +kernel
/-- SLT compares as signed, SLTN as unsigned. -/
theorem test_slt : runs 0x00221814 [(2, 0xFFFFFFFFFFFFFFFF), (3, 0)] (holds 1 1) = true ∧
    runs 0x00221815 [(2, 0xFFFFFFFFFFFFFFFF), (3, 0)] (holds 1 0) = true := by decide +kernel
/-- ADDI sign-extends, ORI zero-extends (R105). -/
theorem test_imm_extend : runs 0x0422FFFF [(2, 0)] (holds 1 0xFFFFFFFFFFFFFFFF) = true ∧
    runs 0x0C22FFFF [(2, 0)] (holds 1 0xFFFF) = true := by decide +kernel
/-- LUI writes sign_extend(imm16 << 16); AUIP adds it to its own address (R105). -/
theorem test_lui : runs 0x20808000 [] (holds 4 0xFFFFFFFF80000000) = true ∧
    runs 0x24200001 [] (holds 1 0x11000) = true := by decide +kernel
/-- JALR samples its base before it writes rd: JALR s2, s2, 1 (R224). -/
theorem test_jalr_same : runs 0x2C420001 [(2, 0x4000)] (fun th => holds 2 0x1004 th && decide (th.pc = 0x4004)) = true := by
  decide +kernel
/-- A branch 12 bytes back is taken, and not taken on equality with s0. -/
theorem test_bne : runs 0x3460FFFD [(3, 1)] (fun th => decide (th.pc = 0xFF4)) = true ∧
    runs 0x3460FFFD [] (fun th => decide (th.pc = 0x1004)) = true := by decide +kernel
/-- A misaligned LD32 traps with cause 0x0002 and the address (R226). -/
theorem test_ld_misaligned : runs 0x58220002 [(2, 0x2000)] (fun th =>
    decide (th.cause = 0x0002) && decide (th.tval = 0x2002) && decide (th.epc = 0x1000) && th.ht) = true := by decide +kernel
/-- A load issues, sets its scoreboard bit and advances. -/
theorem test_ld_issues : runs 0x60220008 [(2, 0x2000)] (fun th =>
    decide (th.loads.length = 1) && th.sb.getLsbD 1 && decide (th.pc = 0x1004)) = true := by decide +kernel
/-- A store of a byte at the top of the first page. -/
theorem test_st8 : afterStep (run 0x64221FFF [(1, 0x1AB), (2, 0x2000)]) (fun t =>
    (t.reqs.map fun r => (r.pa, r.op)) == [(0x3FFF, .write [0xAB] false)]) = true := by decide +kernel
/-- AMOSWP.acq waits for nothing and asks for one doubleword (R229). -/
theorem test_amoswp : afterStep (run 0x74221814 [(1, 5), (2, 0x2000), (3, 9)]) (fun t =>
    (t.reqs.map fun r => (r.pa, r.len, r.op)) == [(0x2000, 8, .atomic 4 9 5)]) = true := by decide +kernel
/-- TRAP 0x2A saves the next word's address, its code and cause 0x000C; the thread goes to cc_tvec (R262). -/
theorem test_trap : afterStep (modThr (run 0x7C00002A []) t0 fun th => { th with tvec := 0x9000 }) (fun t =>
    let th := getThr t t0
    decide (th.epc = 0x1004) && decide (th.tval = 0x2A) && decide (th.cause = 0x0C) && decide (th.pc = 0x9000)) = true := by
  decide +kernel
/-- ERET with ht 0 is an illegal instruction (R264). -/
theorem test_eret_illegal : runs 0x80000002 [] (fun th => decide (th.cause = 0x0001) && decide (th.tval = 0x80000002)) = true := by
  decide +kernel
/-- ERET restores ae from the pae bit of cc_cause. -/
theorem test_eret : afterStep (modThr (run 0x80000002 []) t0 fun th => { th with ht := true, epc := 0x5000, cause := 0x4000C })
    (fun t => let th := getThr t t0; decide (th.pc = 0x5000) && th.ae && !th.ht) = true := by decide +kernel
/-- A second synchronous trap with ht 1 halts the thread (R263). -/
theorem test_double_trap : afterStep (modThr (run 0x7C000000 []) t0 fun th => { th with ht := true }) (fun t =>
    let th := getThr t t0; th.halted && decide (th.pc = 0x1000) && decide (th.cause = 0)) = true := by decide +kernel
/-- HALT leaves the thread halted past itself (R232). -/
theorem test_halt : runs 0x80000001 [] (fun th => th.halted && decide (th.pc = 0x1004)) = true := by decide +kernel
/-- SEV sets the event bit of T2 of its die (R232). -/
theorem test_sev : afterStep (run 0x80090004 [(9, 4)]) (fun t => (getThr t ⟨0, 0, 2⟩).event && !(getThr t t0).event) = true := by
  decide +kernel
/-- CSRWR keeps the low bits of cc_tvec zero (R266). -/
theorem test_csrwr_tvec : runs 0x84041006 [(4, 0x1237)] (fun th => decide (th.tvec = 0x1234)) = true := by decide +kernel
/-- CSRWR of a read-only register is an illegal instruction (R106). -/
theorem test_csrwr_ro : runs 0x84041001 [] (fun th => decide (th.cause = 0x0001)) = true := by decide +kernel
/-- BARWAIT on an unarmed barrier gives 0x05 (R254). -/
theorem test_barwait_unarmed : runs 0x8C221808 [] (fun th => decide (readReg th 1 = errWord 0x05)) = true := by decide +kernel
/-- TIME answers the device time (R258). -/
theorem test_time : afterStep (modPkg (run 0x90E00008 []) 0 fun k => { k with time := 77 }) (fun t =>
    holds 7 77 (getThr t t0)) = true := by decide +kernel
/-- GFREE of a handle that names no graph gives 0x04 when it completes (R239). -/
theorem test_gfree_none : runs 0x88220002 [(2, 3)] (fun th =>
    (th.asyncs.map (·.wait)) == [.ready (errWord 0x04)] && th.sb.getLsbD 1) = true := by decide +kernel

/-! ### Witnesses: control core threads -/

/-- A watch filter that watches every address, kind and thread. -/
def watchAll : Watch := { bits := BitVec.allOnes 4096, ctl := 0xFF }
/-- s0 with s2 = 0x2000 and its control core watched. -/
def watched : State := { regs0 [(2, 0x2000)] with watches := [(ccEng 0 0, watchAll)] }
/-- s0 with n loads and m stores outstanding. -/
def busy0 (n m : Nat) : State :=
  modThr s0 t0 fun th => { th with
    loads := List.replicate n {}
    stores := List.replicate m {} }

theorem witness_DecodeEncode : (Instr.add 1 2 3).wellFormed = true ∧ encode (.add 1 2 3) = some 0x00221801 := by decide +kernel
theorem witness_StepRunsDecoded : s0.agenda = [.issue t0] ∧ (getPkg s0 0).off = false ∧ issuer { s0 with agenda := [] } t0 = t0 ∧
    issueReady s0 t0 = true ∧ issueReady s0 ⟨0, 0, 1⟩ = false ∧ issueReady .reset t0 = false ∧ mayIssue (getThr s0 t0) = true ∧
    okAnd (nextWord s0 t0) (fun w => okAnd (decode w) fun i => !hazard (getThr s0 t0) i && !raisesError (getThr s0 t0) i) = true ∧
    ccWatch s0 t0 .fetch (getThr s0 t0).pc.toNat 4 = false := by decide +kernel
/-- A thread halted; one at a misaligned address; an illegal word; a register waiting. -/
theorem witness_StepRunsDecoded_others : mayIssue (getThr .reset t0) = false ∧
    errAnd (nextWord (modThr s0 t0 fun th => { th with pc := 0x1002 }) t0) (fun _ => true) = true ∧
    okAnd (nextWord (run 0x94000000 []) t0) (fun w => errAnd (decode w) fun _ => true) = true ∧
    okAnd (nextWord (run 0x00221801 []) t0) (fun w => okAnd (decode w) fun i => hazard { sb := 4 } i) = true := by decide +kernel
/-- A device step's turn, an empty agenda, a package whose clocks are stopped. -/
theorem witness_NothingStops : isStep (.launchStart 0) = true ∧ stepPkg (.launchStart 0) = some 0 ∧
    (getPkg .reset 0).off = false ∧ State.reset.agenda = [] ∧
    (getPkg (modPkg s0 0 fun k => { k with off := true }) 0).off = true := by decide +kernel

/-- LD64 at the last doubleword of the window with 7 loads outstanding; with 8 it waits. -/
theorem witness_LoadsIssue : (Instr.ld64, 8, false).2.1 = 8 ∧
    okAnd (threadAccess (busy0 7 0) t0 .read 0x1FFFFFFF8 8) (fun _ => !ccWatch (busy0 7 0) t0 .read 0x1FFFFFFF8 8) = true ∧
    (getThr (busy0 7 0) t0).loads.length = 7 ∧ (∀ l ∈ (getThr (busy0 7 0) t0).loads, l.acq = false) ∧
    (getThr (busy0 8 0) t0).loads.length = 8 := by decide +kernel
/-- A misaligned address; one past the window; a watched one. -/
theorem witness_LoadsIssue_traps : (getThr s0 t0).errs = [] ∧ (0x2001 : Word).toNat % 2 ≠ 0 ∧
    errAnd (threadAccess s0 t0 .read 0x200000000 8) (fun _ => true) = true ∧
    okAnd (threadAccess watched t0 .read 0x2000 8) (fun _ => ccWatch watched t0 .read 0x2000 8) = true := by decide +kernel
/-- A store with 15 stores outstanding; with 16 it waits. -/
theorem witness_StoresIssue :
    okAnd (threadAccess (busy0 0 15) t0 .write 0x1FFFFFFFF 1) (fun _ => !ccWatch (busy0 0 15) t0 .write 0x1FFFFFFFF 1) = true ∧
    ((getThr (busy0 0 15) t0).stores.filter (!·.atomic)).length = 15 ∧ (getThr (busy0 0 15) t0).loads = [] ∧
    ((getThr (busy0 0 16) t0).stores.filter (!·.atomic)).length = 16 ∧
    errAnd (threadAccess s0 t0 .write 0x200000000 1) (fun _ => true) = true ∧
    okAnd (threadAccess watched t0 .write 0x2000 8) (fun _ => ccWatch watched t0 .write 0x2000 8) = true := by decide +kernel
/-- An atomic with .ar and nothing outstanding; with a store outstanding it waits. -/
theorem witness_AtomicsIssue :
    okAnd (threadAccess s0 t0 .atomic 0x2000 8) (fun _ => !ccWatch s0 t0 .atomic 0x2000 8) = true ∧
    (getThr s0 t0).loads = [] ∧ (getThr s0 t0).stores = [] ∧ (getThr (busy0 0 1) t0).stores ≠ [] ∧
    (0x2004 : Word).toNat % 8 ≠ 0 ∧ errAnd (threadAccess s0 t0 .atomic 0x200000000 8) (fun _ => true) = true ∧
    okAnd (threadAccess watched t0 .atomic 0x2000 8) (fun _ => ccWatch watched t0 .atomic 0x2000 8) = true := by decide +kernel
/-- Quiet and not quiet; the event bit set and clear. -/
theorem witness_ThreadControl : (getThr s0 t0).loads = [] ∧ (getThr s0 t0).stores = [] ∧ (getThr (busy0 1 0) t0).loads ≠ [] ∧
    (getThr s0 t0).event = false ∧ (getThr (setEvent s0 t0) t0).event = true := by decide +kernel
/-- A trap with ht 0 and with ht 1, no error deferred. -/
theorem witness_TrapTaken : (curThr s0).errs = [] ∧ (curThr s0).ht = false ∧
    (curThr (modCur s0 fun th => { th with ht := true })).ht = true := by decide +kernel
/-- ERET in a handler that holds an activation, a token, a request, a translation, a report. -/
theorem witness_EretReturns : ∀ h ∈ [Held.none, .act default 0 0, .token default {}, .request 1, .xlate default {}, .report 0 0 0],
    let s := modCur s0 fun th => { th with ht := true, held := h }
    (curThr s).ht = true ∧ (curThr s).held = h ∧ (curThr s0).ht = false ∧ (curThr s0).errs = [] := by decide +kernel
theorem witness_IllegalAndFetchFault : (curThr s0).errs = [] := by decide +kernel
/-- CSRWR, CSRSET and CSRCLR of s3. -/
theorem witness_ControlRegisters : ∃ (i : BitVec 12 → Instr) (v : Word → Word), i = .csrwr 3 ∧ v = fun _ => rs s0 3 :=
  ⟨_, _, rfl, rfl⟩

/-- s0 with n async instructions outstanding. -/
def asyncs0 (n : Nat) : State := modThr s0 t0 fun th => { th with asyncs := List.replicate n {} }

theorem witness_AsyncInstructionsWait : (∃ l ∈ (curThr (modCur s0 fun th => { th with loads := [{ acq := true }] })).loads,
      l.acq = true) ∧ 4 ≤ (curThr (asyncs0 4)).asyncs.length ∧ (curThr (busy0 0 1)).stores ≠ [] ∧
    (curThr (asyncs0 3)).asyncs.length < 4 := by decide +kernel

/-- A load performed, sound, uncorrectable, refused by its owner, and squashed; a store acknowledged or refused. -/
def answered0 (bad sq den : Bool) : State :=
  { busy0 0 0 with
    threads := [(t0, { loads := [{ id := 7, rd := 3, size := 1, sext := true, squashed := sq }], stores := [{ id := 8 }] })]
    reqs := [{ id := 7, from_ := .load t0 7, st := .done, data := [0x80], bad := bad, denied := den },
             { id := 8, from_ := .store t0 8, st := .done, denied := den, op := .write [1] false }] }

theorem witness_LoadsReturn : ∀ b ∈ [(false, false, false), (true, false, false), (false, true, false), (false, false, true)],
    let s := answered0 b.1 b.2.1 b.2.2
    ((getThr s t0).loads.find? (·.id = 7)).any (fun l => l.squashed == b.2.1) = true ∧
    (answerOf s (.load t0 7)).any (fun r => r.bad == b.1 && r.denied == b.2.2) = true ∧
    (answerOf s (.store t0 8)).any (fun r => r.denied == b.2.2) = true ∧ ((getThr s t0).stores.find? (·.id = 8)).isSome = true := by
  decide +kernel
/-- An error deferred for s3 at level 0, before a fence, before an instruction that names s3, and in a handler. -/
theorem witness_LoadsReturn_errors : ∀ w ∈ [0x78000000, 0x00230801, 0x80000001, 0x80000003],
    let s := modThr (run w []) t0 fun th => { th with errs := [{ rd := some 3, va := 0x2000 }] }
    mayIssue (getThr s t0) = true ∧ ((getThr s t0).errs.map (·.level)) = [0] ∧ okAnd (nextWord s t0) (fun x =>
      okAnd (decode x) fun i => !hazard (getThr s t0) i && (decide (i = .halt ∨ i = .wfe ∨ i = .fence .elem) ||
        (regsOf i).any (·.contains 3))) = true := by decide +kernel

/-- A report for T0, with room for it and without; the oldest report of a thread that takes it. -/
def reported (n : Nat) : State :=
  { s0 with
    reports := [{ dest := t0, cause := 0x0101 }]
    threads := [(t0, { pend := List.replicate n {}, ae := true, halted := false })] }

theorem witness_ReportsAndCompletions : (reported 15).reports[0]? = some { dest := t0, cause := 0x0101 } ∧
    (∀ q ∈ (reported 15).reports.take 0, ¬(q.dest = t0 ∧ q.src = default)) ∧
    (getThr (reported 15) t0).pend.length < 16 ∧ 16 ≤ (getThr (reported 16) t0).pend.length ∧
    (let th := getThr (reported 1) t0
     th.pend = [{}] ∧ th.ae = true ∧ th.ht = false ∧ th.halted = false ∧ th.stopped = false ∧ th.errs = [] ∧ th.pc.toNat % 4 = 0) ∧
    (getThr s0 t0).ae = false := by decide +kernel
/-- A result that is known, squashed or not; a BARWAIT whose phase has changed. -/
def ending (sq : Bool) : State :=
  { s0 with
    bars := [((0, 0, 0), { armed := true, phase := true })]
    threads := [(t0, { halted := false, wait := some (.barwait 1 2 3), asyncs := [{ rd := 4, wait := .ready 9, squashed := sq }] })] }

theorem witness_ReportsAndCompletions_ends : ((getThr (ending false) t0).asyncs[0]?).map (·.wait) = some (.ready 9) ∧
    ((getThr (ending true) t0).asyncs[0]?).map (·.squashed) = some true ∧
    (let th := getThr (ending false) t0
     th.wait = some (.barwait 1 2 3) ∧ th.halted = false ∧ th.stopped = false ∧
      okAnd (barArg { ending false with cur := t0 } (readReg th 2).toNat) (fun k =>
        (getBar (ending false) k).armed && ((getBar (ending false) k).phase != (readReg th 3).getLsbD 0)) = true ∧
      (readReg th 3).toNat < 2) := by decide +kernel

/-- A CPYWAIT of chunk 0 of a tile of two chunks. -/
def waiting : State :=
  modThr { s0 with tiles := [(⟨0, 0, 0⟩, { state := 2, rows := 4, cols := 64, cmap := 1 })] } t0 fun th =>
    writeReg { th with wait := some (.cpywait 1 2 3) } 3 1

theorem witness_ReportsAndCompletions_cpywait : let th := getThr waiting t0; let x := getTile waiting ⟨0, 0, 0⟩
    th.gone = false ∧ (readReg th 1).toNat * 2 ^ 64 + (readReg th 3).toNat = 1 ∧ (readReg th 2).toNat = 0 ∧ x.state ≠ 0 ∧
    x.part = th.part ∧ 1 < 2 ^ tileChunks x ∧ (∀ k ∈ List.range 128, (1 : Nat).testBit k = true → x.cmap.getLsbD k = true) := by
  decide +kernel
/-! ### Witnesses: device instructions -/

/-- A graph image (R107 to R109): a SOURCE with launch 1 that signals a SINK of the same island, one region with two
colours. Header, gdesc at 128, ops at 192, regions at 352. -/
def imgOf (pset : Nat) : List Byte :=
  let ent := fun kind w pl : Nat => leBytes 32 (kind * 2 ^ 248 + 0xF * 2 ^ 208 + w) ++ leBytes 32 pl
  leBytes 4 0x4934445A ++ leBytes 2 1 ++ leBytes 2 1 ++ leBytes 4 128 ++ leBytes 4 64 ++ leBytes 4 192 ++ leBytes 4 160 ++
    leBytes 8 0 ++ leBytes 4 352 ++ leBytes 4 8 ++ leBytes 88 0 ++
  leBytes 2 pset ++ leBytes 14 2 ++ leBytes 4 192 ++ leBytes 4 352 ++ leBytes 40 0 ++
  ent 0x01 (2 ^ 226 + 4 * 2 ^ 184 + 2 ^ 21 + 4) 0 ++ ent 0x02 (2 ^ 223) (2 ^ 16) ++ leBytes 32 (2 ^ 251) ++
  leBytes 8 (2 ^ 44 + 2 * 2 ^ 31)

/-- s0 with bytes at an address, registers of T0, and cc_ibase at 0x3000. -/
def mem0 (a : Nat) (bs : List Byte) (l : List (RegNo × Word)) : State :=
  let s := regs0 l
  modThr { s with hbm := memWrite s.hbm a bs } t0 fun th => { th with ibase := 0x3000 }

/-- The image in memory, its descriptor's address in s4. -/
def gload0 : State := mem0 0x3000 (imgOf 0) [(4, 0x3080)]

/-- A memory operand is readable and sound, and its bytes and the state after satisfy p. -/
def reads (s : State) (va : Word) (n : Nat) (p : List Byte → State → Bool) : Bool :=
  okAnd (opRange s .read va n) fun ps => !(readPieces s ps).2.1 && p (readPieces s ps).1 (readPieces s ps).2.2

/-- The hypotheses of GLOAD's clause, with p of what the load comes to. -/
def gloads (s : State) (bs : List Byte) (p : Loaded → Bool) : Bool :=
  let im : Image := { bs := bs, secs := headerSecs (bs.take 128) }
  reads s 0x3080 64 (fun _ _ => true) && reads s 0x3000 128 (fun w _ => w == bs.take 128 && (headerRefuse w 1).isNone) &&
    reads s 0x3000 bs.length (fun w _ => w == bs) && decide (imageBytes im.secs = bs.length) && (descRefuse im 128).isNone &&
    !(readParts s 0x3000 (imageReads im 128)).1 && p (loadGraph s 0 0 0 0x3000 im 128)

/-- A graph of one page at a die and column. -/
def onePage (d c : Nat) : Graph := { reloc := [(d, 0, c)] }
/-- A page set of one page stands in column 1 of each die, and a set of 4 by 4 pages is asked for. -/
def crowded : State := { mem0 0x3000 (imgOf 0x3C) [(4, 0x3080)] with
  graphs := (List.range 4).map fun d => ((0, d), onePage d 1) }

/-- A loaded graph: SOURCE with launch 1 in slot 0 and SINK in slot 1 of an island, one region of two colours. -/
def lg : Graph where
  reloc := [(0, 0, 0)]
  ops := [{ word := BitVec.ofNat 256 (1 * 2 ^ 248 + 2 ^ 226 + 0xF * 2 ^ 208), eng := ⟨0, 0, 0, 0⟩, slot := 0,
            cfg := [BitVec.ofNat 256 (2 ^ 251)], cons := [{ dst := { eng := ⟨0, 0, 0, 0⟩, slot := 1 } }] },
          { word := BitVec.ofNat 256 (2 * 2 ^ 248 + 2 ^ 223 + 0xF * 2 ^ 208), eng := ⟨0, 0, 0, 0⟩, slot := 1, frame := 2 }]
  regions := [{ cap := 2, free := [0, 1], recs := [{}, {}] }]

/-- lg is graph 0; launch 5 of it has started with root colour 0; launch queue 0 is set at 0x40000. -/
def launched (l : List (RegNo × Word)) (bs : List Byte) : State :=
  { mem0 0x2000 bs l with
    graphs := [((0, 0), { lg with regions := [{ cap := 2, free := [1], recs := [{ busy := true, live := 1, lid := 5 }, {}] }] })]
    launches := [((0, 5), { state := 1, root := some 0 })]
    launchQs := [((0, 0), { set := true, base := 0x40000, log2 := 2 })] }

theorem witness_GraphLoadAndFree : gloads gload0 (imgOf 0) (fun x => match x with
    | .done _ w => decide (w.toNat < 256)
    | .moving _ => false) = true ∧
    (curThr gload0).asyncs.length < 4 ∧ (curThr gload0).loads = [] ∧ (curThr gload0).stores = [] := by decide +kernel
theorem witness_GraphLoadAndFree_moves : gloads crowded (imgOf 0x3C) (fun x => match x with
    | .done _ _ => false
    | .moving _ => true) = true := by decide +kernel
/-- GFREE of a graph with and without a live launch, and of a handle that names none. -/
theorem witness_GraphLoadAndFree_frees : okAnd (graphArg (launched [] []) 0) (fun g => g.moveTo.isNone && !(g.frozen && g.saved)) = true ∧
    hasLaunch (launched [] []) 0 0 = true ∧ hasLaunch { launched [] [] with launches := [] } 0 0 = false ∧
    errAnd (graphArg (launched [] []) 256) (fun _ => true) = true := by decide +kernel

/-- The record of a GLAUNCH with no record address. -/
def rec0 (trap : Nat) : LaunchRec := { graph := 0, prio := 2, trap := trap, wait := [0, 0, 0, 0], thr := [0, 0, 0, 0] }

/-- A record is accepted by the checks and its queue has room; one with a reserved bit is not; one read from memory. -/
theorem witness_LaunchAndKill : let s := launched [(5, 0x2000)] (bytesOfRec (rec0 0))
    recCode s 0 0 (rec0 0) = none ∧ (queueOf s 0 0 0).any (fun q => okAnd (appendSlot s q.2.base.toNat q.2.log2
      (bytesOfRec (rec0 0))) fun _ => true) = true ∧ recCode s 0 0 { rec0 0 with bad := true } = some 2 ∧
    rs s 5 ≠ 0 ∧ rs s 6 = 0 ∧ moving s 0 = false ∧
    reads s (rs s 5) 64 (fun bs u => (recCode u 0 0 { recOfBytes bs with graph := 0 }).isNone) = true := by decide +kernel
theorem witness_LaunchAndKill_kills : let s := launched [] []
    okAnd (launchArg s 5) (fun l => !moving s l.record.graph && !l.killed) = true ∧
    okAnd (launchArg (modLaunch s (0, 5) fun l => { l with killed := true }) 5) (·.killed) = true ∧
    errAnd (launchArg s 4) (fun _ => true) = true := by decide +kernel

/-- A descriptor of an injection into SOURCE 0 of graph 0 for launch 5, or for launch 6. -/
def injBytes (lid : Nat) : List Byte := leBytes 8 0 ++ leBytes 2 lid ++ leBytes 22 0

theorem witness_InjectAndPurge : let s := fun lid => launched [(3, 0x2000)] (injBytes lid)
    reads (s 5) 0x2000 32 (fun bs u => (curThr u).levels.isEmpty && okAnd (inject u 0 0 (injOfBytes bs) u.nextId) fun _ => true) = true ∧
    reads (s 6) 0x2000 32 (fun bs u => (curThr u).levels.isEmpty && errAnd (inject u 0 0 (injOfBytes bs) u.nextId) fun _ => true) = true ∧
    reads (s 5) 0x2000 32 (fun bs u => !injectFull u 0 (injOfBytes bs)) = true ∧
    (let r : Region := { cap := 2, free := [1], recs := [{ busy := true, live := liveMax, lid := 5 }, {}] }
     let s := { s 5 with graphs := [((0, 0), { lg with regions := [r] })] }
     reads s 0x2000 32 (fun bs u => injectFull u 0 (injOfBytes bs) && okAnd (inject u 0 0 (injOfBytes bs) u.nextId) fun _ => true) = true) ∧
    (let s := modThr (s 5) t0 fun th => { th with levels := [{}] }
     reads s 0x2000 32 (fun _ u => !(curThr u).levels.isEmpty && decide (heldCount (curThr u) < 64)) = true) := by decide +kernel
/-- The root colour of launch 5; the same with a token of it in flight; a free colour. -/
theorem witness_InjectAndPurge_purges : let s := launched [] []
    okAnd (graphArg s 0) (fun g => decide (0 < g.regions.length)) = true ∧ okAnd (launchArg s 5) (fun _ => true) = true ∧
    purgeRefused s ⟨0, 0, 0, 0⟩ 5 = false ∧ purgeWaits s ⟨0, 0, 0, 0⟩ 5 = false ∧ purgeRefused s ⟨0, 0, 0, 1⟩ 5 = true ∧
    (let s := { s with inFlight := [{ dst := { eng := ⟨0, 0, 0, 0⟩, slot := 1 }, lid := 5 }] }
     purgeRefused s ⟨0, 0, 0, 0⟩ 5 = false ∧ purgeWaits s ⟨0, 0, 0, 0⟩ 5 = true) := by decide +kernel

/-- Slot 1 of element 0, and region 0 of graph 0: found, and their bytes fit or do not. -/
theorem witness_ReadbackInstructions : let s := modEng (launched [(4, 0x2000)] []) ⟨0, 0, 0, 0⟩ fun x =>
      { x with rows := [{ slot := 1, vrow := 2, l := some {} }] }
    (findOp s ⟨0, 0, 0, 0⟩ 1).any (fun r => decide (r.g.part = curPart s)) = true ∧ (slotRows s ⟨0, 0, 0, 0⟩ 1).length = 1 ∧
    (rs s 4).toNat % 8 = 0 ∧ okAnd (opRange s .write (rs s 4) 64) (fun _ => true) = true ∧
    okAnd (graphArg s 0) (fun g => (g.regions[0]?).any fun r => decide ((regionBytes r).length = 32)) = true ∧
    okAnd (opRange s .write (rs s 4) 32) (fun _ => true) = true := by decide +kernel

/-- A graph of SINK and a region. -/
def sg : Graph := { lg with ops := lg.ops.drop 1 }
/-- It is graph 0, running or frozen; rings of other channels fill the memory tiles of its page. -/
def frozen0 (fr : Bool) (l : List (RegNo × Word)) : State :=
  { mem0 0x3000 [] l with
    graphs := [((0, 0), { sg with frozen := fr })]
    chans := (List.range 8).map fun k => ((0, 0, k), { state := 1, glog := 8, rmt := k }) }
/-- The image that SAVEC writes of it, with its digest written out. -/
def savedImage : List Byte := imageWith (frozen0 true []) (saveSet (frozen0 true []) (0, 0) { sg with frozen := true })
  (leBytes 32 0x55000E06EC44975B8D8F99AC49EE7E46DF5F524FEDC66A35E29DA044C15A17A8)

/-- FREEZE, SAVEC and THAW of graph 0, running and frozen, with a buffer of the image's 461 bytes. -/
theorem witness_PageSetInstructions : (∀ fr ∈ [false, true], let s := frozen0 fr [(4, 0x2000), (3, 461)]
    okAnd (graphArg s 0) (fun g => g.frozen == fr && !g.freezing && setQuiet s (0, 0) g && (savedBad (saveSet s (0, 0) g)).isEmpty) = true ∧
    moving s 0 = false ∧ (curThr s).asyncs.length < 4) ∧
    okAnd (opRange (frozen0 true []) .write 0x2000 461) (fun _ => true) = true := by decide +kernel
/-- The image in memory, its address in s4, and what a read of the whole of it finds. -/
def restc0 : State := mem0 0x2000 savedImage [(4, 0x2000)]
def restcRead : List Byte × Bool × State := readPieces restc0 [(.hbm 0x2000, 461)]
theorem s0_hbm_wf : s0.hbm.wf = true := by decide +kernel
theorem savedImage_length : savedImage.length = 461 := by decide +kernel
theorem savedImage_reads {n : Nat} (h : n ≤ 461) : (readPieces restc0 [(.hbm 0x2000, n)]).1 = savedImage.take n := by
  have e : restc0.hbm = memWrite s0.hbm 0x2000 savedImage := by simp only [restc0, mem0, regs0, modThr, setThr_hbm]
  rw [Laws.readPieces_hbm, e]
  exact memRead_memWrite s0_hbm_wf (savedImage_length ▸ h)
/-- What its digest covers, and SHAKE256's state after each of the first three of its four blocks. -/
def covered : List Byte := shakePad (savedImage.take 48 ++ leBytes 32 0 ++ savedImage.drop 80)
def sponge : Nat → List Word
  | 0 => List.replicate 25 0
  | 1 => [0x5AB8669A0A27EF0D, 0xE7D97DDA8353D0CB, 0xDE73E253A03DE4D9, 0x48E56F81B4EF2A27, 0x2ACF984EEB97BF92] ++
   [0xF23A07571122F3D5, 0x9C47ED2FC13492BD, 0xB407EFC910AB85B5, 0xC2DB9608A1F9C5A8, 0xA07E38F431AB4752] ++
   [0xE8CFEDFCDC078DF, 0xA54DE88EAD84E0B3, 0xE648707ED9D3523B, 0xB8FE82E8509010D8, 0xAED99041ED5F9D92] ++
   [0xC327EED08D6ED3E1, 0xB3BB06620FFFA785, 0xE4E6545E3226B4CD, 0x568C72A33FCC7E1E, 0x111FF226FD792B03] ++
   [0x6233F7C151B7FC92, 0xFF5686307998D2D9, 0x71457495B2F33599, 0x12C36ACCE2FE3EC3, 0x6C2D0B36581B0872]
  | 2 => [0x362954B7520C6102, 0x90865D4F79CAE31C, 0x7F1C4D242A6B6440, 0xF6F0AD529223DADB, 0xD93C70C4E071215] ++
   [0xEB9C64EF254998BB, 0x45905474B8B8E32D, 0xF9EE4BE73049F841, 0xA9FA6DC271830DA5, 0x76BCBF8EC60CE420] ++
   [0xFC79DB558681B8BD, 0xA1549BA3D493DCC8, 0xFF322E0C1BC03944, 0x989E4E1CFBAAF615, 0x62DD6C7F5D64119A] ++
   [0x8729E60407E477A1, 0x1D4C845B029F9EA7, 0x68BE6E3E2AA72957, 0x1A95A2EE6AF202DE, 0xB222498C5171ADB3] ++
   [0x20CD3419D1079E81, 0xFCD212F812A8C67B, 0x1F8C35250BA247B7, 0xE41288A8C99533F6, 0xE54925BC277DD527]
  | _ => [0x2F5503A14FDD20C9, 0x51A3E6ADD24BC584, 0x8E619B5AD7969CF6, 0x34969B8A26FA0BFF, 0xB2840E2D8121E0F5] ++
   [0xAFD0F99D64A79CA7, 0x55C4F55709F68A82, 0x94E38EEC88956D7B, 0x60ACC30FEF3352B0, 0xB0D038B996C13B1] ++
   [0x35B35EF0FBDB95, 0x5B432F14F7E74173, 0x865B497D9386493C, 0x49FF09C9E14C0F84, 0xFF8FFDD5C7BCCB52] ++
   [0x2B14729F22329ABF, 0xE248154573F544D3, 0xB05F3246824A1AE, 0x833B2D51F00FF266, 0xFB9240D45DD5BF6C] ++
   [0x99B88B73716F4E89, 0x2E0FB623DDEC0753, 0x81241BC454715A09, 0x538839464B43CAF2, 0x4FB6C5626F5045AE]
theorem sponge_first : absorb 1 covered (sponge 0) = sponge 1 := by decide +kernel
theorem sponge_second : absorb 1 (covered.drop 136) (sponge 1) = sponge 2 := by decide +kernel
theorem sponge_third : absorb 1 (covered.drop 272) (sponge 2) = sponge 3 := by decide +kernel
theorem sponge_fourth : ((absorb 1 (covered.drop 408) (sponge 3)).flatMap fun w => leBytes 8 w.toNat).take 32 =
    (savedImage.drop 48).take 32 := by decide +kernel
theorem covered_blocks : covered.length / 136 = 4 := by decide +kernel
/-- Its digest is right. -/
theorem witness_PageSetInstructions_digest : digestOk savedImage = true := by
  have h : ∀ (n : Nat) bs a, absorb (n + 1) bs a = absorb n (bs.drop 136) (absorb 1 bs a) := fun _ _ _ => rfl
  have e : absorb (covered.length / 136) covered (List.replicate 25 0) = absorb 1 (covered.drop 408) (sponge 3) := by
    rw [covered_blocks, show List.replicate 25 0 = sponge 0 from rfl, h, sponge_first, h, sponge_second, List.drop_drop, h,
      sponge_third, List.drop_drop]
  have d : shake256 (savedImage.take 48 ++ leBytes 32 0 ++ savedImage.drop 80) 32 = (savedImage.drop 48).take 32 := by
    rw [← sponge_fourth, ← e, covered, shake256]
  rw [digestOk, d, decide_eq_true rfl]
/-- Every other check passes, a place is found for the set, and the set is placed. -/
theorem witness_PageSetInstructions_restores : okAnd (opRange restc0 .read (rs restc0 4) 128) (fun hp => hp == [(.hbm 0x2000, 128)]) = true ∧
    field (savedImage.take 128) 16 8 = 461 ∧ okAnd (opRange restc0 .read (rs restc0 4) 461) (fun ps => ps == [(.hbm 0x2000, 461)]) = true ∧
    restcRead.2.1 = false ∧ (let u := restcRead.2.2; okAnd (imageVerdict u savedImage true) (fun d => let g := d.graph
      (place u u.graphs 0 g.part g.nd g.prows g.pcols).any fun r => (pageError (forgetRoom u 0) (relocPages 0 g r)).isNone &&
        okAnd (restoreImage (forgetRoom u 0) d r) fun _ => true)) = true := by decide +kernel
/-- RESTC of 128 bytes of zeros; no place for a page where every page is taken, and nothing to compact. -/
theorem witness_PageSetInstructions_restc : let s := mem0 0x3000 [] [(4, 0x2000)]
    okAnd (opRange s .read (rs s 4) 128) (fun hp => decide (max 128 (field (readPieces s hp).1 16 8) = 128)) = true ∧
    reads s (rs s 4) 128 (fun bs u => errAnd (imageCheck u bs) fun _ => true) = true ∧
    (let u := { s with graphs := (List.range 4).map fun d => ((0, d), { prows := 4, pcols := 4, reloc := [(d, 0, 0)] }) }
     place u u.graphs 0 0 1 1 1 = none ∧ (compactFor u 0 0 1 1 1).isNone = true) := by decide +kernel

/-- The port of memory tile 12 of page 0, its first; a pattern of 4 bytes in tile 0 of that page that it consumes. -/
def port0 : Eng × Nat := (⟨0, 0, 0, 12⟩, 0)
/-- A tile stands at handle 0, commands in slots 0 to n - 1 of the port, the pattern in memory. -/
def streams0 (n : Nat) : State :=
  { mem0 0x2000 (leBytes 8 0 ++ leBytes 2 3 ++ leBytes 18 0 ++ leBytes 4 (2 ^ 4 + 12 * 2 ^ 5)) [(3, 12), (4, 0x2000), (5, 0)] with
    tiles := [(⟨0, 0, 0⟩, { state := 3, rows := 1, cols := 64, fmt := 0 })]
    streams := [(port0, { slots := (List.range n).map fun k => (k, { phase := k, peer := 12 }) })] }

theorem witness_StreamInstructions : portOf 0 12 = some port0 ∧ portForeign (streams0 0) port0 0 = false ∧
    (∀ n ∈ [7, 8], reads (streams0 n) 0x2000 32 (fun bs u => (patternOf bs).any fun c =>
      (patternErr (streams0 n) port0 0 c).isNone && decide ((freeCmd (getPort u port0)).isSome = decide (n = 7))) = true) ∧
    cmdAt (streams0 0) port0 7 = none ∧
    (cmdAt (streams0 2) port0 0).any (fun c => decide (c.phase = 0 ∧ c.part = curPart (streams0 2))) = true ∧
    (cmdAt (streams0 2) port0 1).any (fun c => decide (c.phase ≠ 0 ∧ c.part = curPart (streams0 2))) = true ∧
    portForeign { streams0 0 with pageOwner := [((0, 0, 0), 1)] } port0 0 = true := by decide +kernel

/-- Copy queue 0 of die 0 of partition p at 0x40000, not set with p = 9. -/
def copyq (p : Nat) (full : Bool) : State :=
  let s := mem0 0x2000 [] [(4, 0x2000)]
  { s with
    copyQs := if p = 9 then [] else [((0, 0, 0), { set := true, base := 0x40000, log2 := 2, part := p })]
    hbm := if full then memWrite s.hbm 0x40000 [4] else s.hbm }

theorem witness_CopyAndBarrierInstructions : (getCopyQ (copyq 9 false) (0, 0, 0)).set = false ∧
    (let c := getCopyQ (copyq 1 false) (0, 0, 0); c.set = true ∧ c.part ≠ curPart (copyq 1 false)) ∧
    (let c := getCopyQ (copyq 0 false) (0, 0, 0); c.set = true ∧ c.part = curPart (copyq 0 false)) ∧
    reads (copyq 0 false) 0x2000 56 (fun bs u => okAnd (appendSlot u 0x40000 2 bs) fun _ => true) = true ∧
    reads (copyq 0 true) 0x2000 56 (fun bs u => match appendSlot u 0x40000 2 bs with
      | .error (.inr w) => w == errWord 0x01
      | _ => false) = true ∧
    reads (copyq 0 false) 0x2000 56 (fun bs u => match appendSlot u 0x200000000 2 bs with
      | .error (.inl _) => true
      | _ => false) = true := by decide +kernel
/-- A free tile; one of another partition; one of two chunks with chunk 0 written and masks 0, 1, 3 and 4. -/
theorem witness_CopyAndBarrierInstructions_cpywait : let t : Tile := { state := 2, rows := 4, cols := 64, cmap := 1 }
    (({} : Tile).state = 0 ∧ { t with part := 1 }.part ≠ curPart s0) ∧ t.state ≠ 0 ∧ t.part = curPart s0 ∧ tileChunks t = 2 ∧
    2 ^ tileChunks t ≤ 4 ∧ (∀ k ∈ List.range 128, (1 : Nat).testBit k = true → t.cmap.getLsbD k = true) ∧
    (3 : Nat).testBit 1 = true ∧ t.cmap.getLsbD 1 = false := by decide +kernel
/-- Barrier 0: armed with arrivals to come, with all in, not armed; the least and the greatest words; a foreign one. -/
theorem witness_CopyAndBarrierInstructions_barriers : barOwner s0 0 0 0 = curPart s0 ∧ barOwner s0 0 3 4095 = curPart s0 ∧
    barOwner { s0 with barRuns := [(0, 0, 0, 16, 1)] } 0 0 0 ≠ curPart s0 ∧ (getBar s0 (0, 0, 0)).armed = false ∧
    (∀ n ∈ [1, 2], let b := getBar { s0 with bars := [((0, 0, 0), { armed := true, expect := 2, arrived := n })] } (0, 0, 0)
      b.armed = true ∧ (b.arrived = b.expect ∨ b.arrived + 1 = b.expect) ∧ b.phase = false) ∧
    (encode (.bararrive 1)).isSome = true ∧ (encode (.bararm 1 2)).isSome = true := by decide +kernel

/-- Channel 0 of die 0: T0 is both ends and its opener; n records of 256 bytes stand in its ring
of 16. -/
def chan1 (n : Nat) (st : Nat) : Chan where
  state := st
  rlog := 4
  wep := .thread t0
  rep := .thread t0
  ownerThread := some t0
  recs := (List.range n).map fun k => { pos := k, ready := true }
  wi := n
/-- It stands in s0, and the record 7 for a CHOPEN in memory at 0x2000. -/
def chans0 (c : Chan) : State := { mem0 0x2000 (leBytes 16 7) [(3, 0), (4, 0x2000)] with chans := [((0, 0, 0), c)] }

theorem witness_ChannelInstructions : let s := chans0 (chan1 0 1)
    reads s 0x2000 16 (fun bs u => (chanRecOf (leNat bs)).ok && [0, 1, 2].all fun r =>
      okAnd (openChan u (chanRecOf (leNat bs)) r) fun _ => true) = true ∧
    (∀ n ∈ [0, 16], let s := chans0 (chan1 n 1)
      okAnd (writerArg s 0) (fun k => k == (0, 0, 0)) = true ∧ (curThr s).levels = [] ∧
      reads s 0x2000 256 (fun bs u => match putRec u (0, 0, 0) bs with
        | .ok _ => n == 0
        | .wait => n == 16
        | .quota _ _ => false) = true) := by decide +kernel
/-- An empty channel open and write-closed, and one with a record that is ready and sound. -/
theorem witness_ChannelInstructions_reads : (∀ c ∈ [chan1 0 1, chan1 0 2, chan1 1 1], let s := chans0 c
      okAnd (readerArg s 0) (fun k => k == (0, 0, 0)) = true ∧ okAnd (opRange s .write 0x2000 256) (fun _ => true) = true) ∧
    headRec (chan1 0 1) = none ∧ (chan1 0 1).state ≠ 2 ∧ headRec (chan1 0 2) = none ∧ (chan1 0 2).recs = [] ∧
    (headRec (chan1 1 1)).any (fun q => !(readRecBytes (chans0 (chan1 1 1)) (0, 0, 0) q).2 && !q.poison) = true := by
  decide +kernel
theorem witness_ChannelInstructions_closes : (∀ c ∈ [chan1 0 1, { chan1 0 1 with wep := .none, rep := .none },
      { chan1 0 1 with wep := .none }], okAnd (chanArg (chans0 c) 0) (fun k => getChan (chans0 c) k == c) = true) ∧
    (chan1 0 1).wep = .thread s0.cur ∧ (chan1 0 1).ownerThread = some s0.cur := by decide +kernel

/-- Timer wheel of die 0 with an entry of T0 (partition p) for handle 0, and handles 0 and 1 given out. -/
def timers0 (p : Nat) : State :=
  { s0 with
    wheels := [((0, 0), { ents := [{ handle := some 0, what := .twset ⟨0, 0, 1⟩ none }], used := [1, 0] })]
    threads := [(t0, {}), (⟨0, 0, 1⟩, { part := p })] }
/-- Every handle is in use. -/
def timersFull : State :=
  { s0 with wheels := [((0, 0), { ents := (List.range 1024).map fun h => { handle := some h } })] }

theorem witness_TimeQuotasAndLevels_full : freeTimer timersFull 0 0 = none := by
  have h : liveHandles timersFull 0 0 = List.range 1024 := by decide +kernel
  have u : (getWheel timersFull (0, 0)).used = [] := by decide +kernel
  simp [freeTimer, h, u, leastBelow]
theorem witness_TimeQuotasAndLevels : freeTimer s0 0 0 = some 0 ∧ (curThr s0).levels = [] ∧
    (∀ p ∈ [0, 1], ((getWheel (timers0 p) (0, 0)).ents.find? (fun x => decide (x.handle = some 0))).any (fun x => match x.what with
      | .twset t _ => (getThr (timers0 p) t).part == p
      | _ => false) = true) ∧
    (∀ h ∈ [1, 2], (getWheel (timers0 0) (0, 0)).ents.find? (fun x => decide (x.handle = some h)) = none ∧
      (heldHandles (timers0 0) 0 0).contains h = false ∧ (getWheel (timers0 0) (0, 0)).used.contains h = decide (h = 1)) := by
  decide +kernel
/-- Seven and eight levels; one that holds a TWSET; an instance that is held, with launch 5 and key 0, and an idle one. -/
theorem witness_TimeQuotasAndLevels_levels : (List.replicate 7 ({} : Level)).length < 8 ∧ 8 ≤ (List.replicate 8 ({} : Level)).length ∧
    (let l : Level := { held := [.twset 0 none 3] }
     let s := modThr s0 t0 fun th => { th with levels := [l] }
     (performAll s l.held).2.1 = [] ∧ (performAll s l.held).2.2 = none) ∧
    (∀ st ∈ [0, 3], let s := { mem0 0x2000 (leBytes 8 0 ++ leBytes 2 5 ++ leBytes 6 0) [(3, 0x2000), (4, 2)] with
        graphs := [((0, 0), { lg with conts := [{ insts := [(0, { state := st, lid := 5 })] }] })] }
     reads s 0x2000 16 (fun bs u => okAnd (graphArg u (field bs 10 1)) fun g =>
       let k := instAt g (field bs 12 2) 0
       decide (field bs 8 2 = 5 ∧ field bs 11 1 = 0 ∧ field bs 14 2 = 0 ∧ field bs 12 2 < g.conts.length) &&
         decide ((getInst g k.1 k.2).state = st ∧ (st = 3 → (getInst g k.1 k.2).key = 0 ∧ (getInst g k.1 k.2).lid = 5))) = true) := by
  decide +kernel
/-- A held instance whose kept tile token finds its tile with 255 references. -/
theorem witness_TimeQuotasAndLevels_replay : let g := { lg with conts := [{ insts := [(0, { state := 3, kl := some { kind := 1 } })] }] }
    let s : State := { s0 with graphs := [((0, 0), g)], tiles := [(⟨0, 0, 0⟩, { state := 3, refs := 255 })] }
    replayRoom s (0, 0) g 0 0 = false ∧ replayRoom { s with tiles := [] } (0, 0) g 0 0 = true := by decide +kernel

/-! ### Witnesses: tokens, colours and the flow kinds -/

/-- Island 0 of page 0 of die 0 of package 0. -/
def ie : Eng := ⟨0, 0, 0, 0⟩
/-- An operator in slot 0 of an element of page 0: kind, positions, first configuration word, the port of each consumer
entry (all of them name slot 1 of the island), depth and region. -/
def mk (kind pmask cfg : Nat) (ports : List Nat) (elem : Nat := 0) (rid depth : Nat := 0) : Op where
  word := BitVec.ofNat 256 (kind * 2 ^ 248 + rid * 2 ^ 232 + depth * 2 ^ 229 + ports.length * 2 ^ 226 + pmask * 2 ^ 223 + 0xF * 2 ^ 208)
  eng := ⟨0, 0, 0, elem⟩
  cfg := [BitVec.ofNat 256 cfg]
  cons := ports.map fun p => { port := p, dst := { eng := ie, slot := 1 } }
/-- The SINK in slot 1. -/
def sinkOp : Op := { mk 0x02 1 0 [] with slot := 1, frame := 8 }
/-- Graph 0 with o and the SINK: the root region with a busy colour 0 (live n), a loop region and a function region with
the colour 0 as given and colour 1 free. Launch 5 has started. -/
def gs (o : Op) (c : Colour := { busy := true, live := 3, lid := 5 }) : State :=
  { s0 with
    graphs := [((0, 0), { reloc := [(0, 0, 0)], ops := [o, sinkOp], conts := [{ copen := 0, cclose := 0 }], regions := [
      { cap := 2, free := [1], recs := [if opRid o = 0 then c else { busy := true, live := 3, lid := 5 }, {}] },
      { rid := 1, depth := 1, cap := 2, free := [1], recs := [c, {}] },
      { rid := 2, func := true, cap := 2, free := [1], recs := [c, {}] }] })]
    launches := [((0, 5), { state := 1, root := some 0 })]
    pageOn := [((0, 0, 0), true)] }
/-- A token of launch 5 for a position of slot 0. -/
def tok (pos kind opw : Nat) (elem : Nat := 0) : Token :=
  { dst := { eng := ⟨0, 0, 0, elem⟩, pos := pos }, src := { eng := ie, slot := 2 }, kind := kind, opw := BitVec.ofNat 128 opw, lid := 5,
    path := pathInPackage ie ⟨0, 0, 0, elem⟩ }
/-- The operator's row 0 holds tokens and its activation is in the flow unit. -/
def fl (o : Op) (q : Row) (c : Colour := { busy := true, live := 3, lid := 5 }) : State :=
  modEng (gs o c) ie fun x => { x with rows := [{ q with lid := 5 }], flow := [{}] }
/-- Slot 0 fires as a kind, and its firing satisfies p. -/
def fires (s : State) (kind : Nat) (p : Firing → Bool) : Bool := (firing s ie 0 kind).any p
/-- The activation is no member of an unwinding instance, each token has a consumer, and tiles have room for references. -/
def emitsAt (s : State) (r : OpRef) (at_ : Word) (out : List Token) : Bool :=
  refsRoom s out && !unwindingAt r at_ && out.all fun t => (consumerOfTok s r t).isSome
/-- The same for an activation of tag 0. -/
def emits (s : State) (r : OpRef) (out : List Token) : Bool := emitsAt s r 0 out

/-- A token meets a DUP's row: empty, or holding a token there; an ENTER refuses a predicate. -/
def arriving (o : Op) (t : Token) (rows : List Row) : State := modEng { gs o with inFlight := [t] } ie fun x => { x with rows := rows }
/-- The premises of TokenArrives hold, with p of the operator. -/
def arrives (s : State) (t0 : Token) (p : OpRef → Bool) : Bool :=
  let t := walked t0
  match gate s ie t with
  | .row r u => decide (u = s) && !mustCross t && crossGrants s (tokFrom t) ie t.part && decide (r.op.eng = ie ∧ r.op.slot = t.dst.slot ∧ t.dst.pos < 3 ∧ opKind r.op ≠ 0x0B) &&
      arrivalRoom s r t && (getEng s ie).ingress.isEmpty && decide (s.inFlight[0]? = some t0) && p r
  | _ => false
/-- What makeRoom comes to. -/
def roomIs (k : Nat) (x : Spill) : Bool := match x with
  | .ok _ => k == 0
  | .msovf => k == 1
  | _ => k == 2

/-- A predicate for a free position, a second left token, a predicate at an ENTER, a token of an unwinding instance, and one
whose physical row another virtual row holds while no block is free. -/
theorem witness_TokenArrives : (let t := tok 0 2 7
      arrives (arriving (mk 0x09 5 0 [0, 1]) t [{ p := some (tok 2 4 1) }]) t (fun r => !unwindDiscards r t && kindOk r.op 0 2 &&
        roomIs 0 (makeRoom (arriving (mk 0x09 5 0 [0, 1]) t [{ p := some (tok 2 4 1) }]) ie 0 0)) = true ∧
      arrives (arriving (mk 0x03 1 0 [0]) t [{ l := some (tok 0 2 9) }]) t (fun r => !unwindDiscards r t && kindOk r.op 0 2) = true) ∧
    (let t := tok 0 4 1
     arrives (arriving (mk 0x04 1 1 [0]) t []) t (fun r => !unwindDiscards r t && !kindOk r.op 0 4) = true) ∧
    (let t := tok 0 3 0
     let c : Cont := { copen := 1, cclose := 1, members := [0], insts := [(0, { state := 2 })] }
     arrives (modGraph (arriving (mk 0x03 1 0 [0]) t []) (0, 0) fun g => { g with conts := [c] }) t (fun r => unwindDiscards r t) = true) ∧
    (let t := tok 0 3 0
     let s := arriving (mk 0x03 1 0 [0]) t [{ vrow := 4096 }]
     arrives s t (fun r => !unwindDiscards r t && kindOk r.op 0 3 && roomIs 1 (makeRoom s ie 0 0)) = true) := by decide +kernel
/-- MMUL's second operand in order: the count of tokens at its position, at the limit of its cfg. -/
theorem witness_TokenArrives_order : let t := tok 1 2 3
    arrives (arriving (mk 0x15 7 (3 * 2 ^ 44) [0]) t []) t (fun r => !unwindDiscards r t && kindOk r.op 1 2 &&
      decide ((tget {} 0 (getEng (arriving (mk 0x15 7 (3 * 2 ^ 44) [0]) t []) ie).slots).q ≤ tokScalar t ∧
        tokScalar t ≤ bits (opCfg r.op 0) 59 44)) = true := by decide +kernel

/-- Colour 0 of the root region with a live count, an update at place 0 and another of firing 1. -/
def updating (c : Colour) (u v : LiveUpdate) : State := { gs (mk 0x03 1 0 [0]) c with updates := [u, v] }
theorem witness_LiveCounts : let up : LiveUpdate := { firing := 1, key := {}, tok := some (tok 0 3 0) }
    let down : LiveUpdate := { firing := 1, key := {}, inc := false }
    (up.pb = 0 ∧ down.pb = 0) ∧ (∀ n ∈ [0, 2 ^ 24 - 2, 2 ^ 24 - 1], (getRegion (updating { busy := true, live := n } up down) {}).bind (fun r => r.recs[0]?) =
      some { busy := true, live := n }) ∧
    (∃ v ∈ (updating {} down up).updates, v.firing = down.firing ∧ v.inc = true) ∧
    (∀ v ∈ (updating {} down { up with firing := 2 }).updates, v.firing = down.firing → v.inc = false) ∧
    (getRegion (updating { busy := true, closed := true, live := 1 } down down) {}).bind (fun r => r.recs[0]?) =
      some { busy := true, closed := true, live := 1 } := by decide +kernel

theorem witness_ArbiterSelects : reevalAll (gs (mk 0x03 1 0 [0])) = gs (mk 0x03 1 0 [0]) ∧ (candidates (gs (mk 0x03 1 0 [0])) ie).isEmpty = true ∧
    (let s := modEng (fl (mk 0x03 1 0 [0]) { l := some (tok 0 3 0) }) ie fun x => { x with flow := [], ready := [{}] }
     (candidates s ie).length = 1 ∧ (candidates s ie).all (fun p => decide (p.1.op.eng = ie ∧ opKind p.1.op ≤ 0x0F ∧ p.2 = {})) = true) ∧
    (∀ n ∈ [1023, 1024], (getEng (modEng (gs (mk 0x03 1 0 [0])) ie fun x => { x with epoch := n }) ie).epoch = n) ∧
    (let s := modEng (gs (mk 0x03 1 0 [0])) ie fun x => { x with epoch := 1024, slots := [(0, { occ := 1024 })] }
     tfind 0 (getEng s ie).slots = some { occ := 1024 } ∧ (findOp s ie 0).isSome = true) := by decide +kernel

theorem witness_FlowOperators :
    fires (fl (mk 0x02 1 0 []) { l := some (tok 0 3 0) }) 0x02 (fun _ => true) = true ∧
    (let s := fl (mk 0x03 1 0 [0, 1]) { l := some (tok 0 1 0) }; fires s 0x03 fun f => emits s f.r (toAllPorts f.r (leftTok f))) = true ∧
    (let s := fl (mk 0x09 5 0 [0, 1]) { l := some (tok 0 2 7), p := some (tok 2 4 1) }
     fires s 0x09 fun f => emits s f.r (toPort f.r 0 (leftTok f))) = true ∧
    (let s := fl (mk 0x0A 3 0 [0]) { r := some (tok 1 2 7) }
     fires s 0x0A fun f => (f.toks.head?).any fun t => emits s f.r (toPort f.r 0 t)) = true ∧
    (let s := fl (mk 0x0C 1 0 [0]) { l := some (tok 0 3 0) }
     fires s 0x0C fun f => !writesPending s 0 f.q.lid && emits s f.r (toAllPorts f.r (leftTok f))) = true ∧
    (let s := { fl (mk 0x0C 1 0 [0]) { l := some (tok 0 3 0) } with chunkWrites := [{ lid := 5 }] }
     fires s 0x0C fun f => writesPending s 0 f.q.lid) = true := by decide +kernel

/-- Colour 0 of the loop region in a state, for a NEXT or EXIT. -/
def colours : List Colour := [{}, { busy := true, closes := 1 }, { busy := true, succv := true, succ := 1 }, { busy := true }]
theorem witness_LoopOperators :
    (let s := fl (mk 0x04 1 1 [0]) { l := some (tok 0 3 0) }
     fires s 0x04 fun f => decide (tfind (0, 0) (getEng s ie).entries = none ∧ lowSlot (groupOf f.r.g f.r.op 7 0) = 0) &&
       !groupDraws s ie f.r.key 1 f.q.slot (groupOf f.r.g f.r.op 7 0) 0 0 &&
       liveRoom s (colKeyAt f.r.key f.r.op 0) && (getRegion s { region := 1 }).any (fun r => decide (r.free = [1] ∧ r.draws = [])) &&
       emits s f.r (toPort f.r 0 { leftTok f with tag := setField 0 1 1 })) = true ∧
    (let s := modEng (fl (mk 0x04 1 1 [0]) { l := some (tok 0 3 0) }) ie fun x => { x with entries := [((0, 0), { value := 1 })] }
     fires s 0x04 fun f => (tfind (0, 0) (getEng s ie).entries).any fun x => emits s f.r (toPort f.r 0 { leftTok f with tag := setField 0 1 x.value })) =
       true ∧
    (∀ c ∈ colours, let s := fl (mk 0x05 1 0 [0] 0 1 1) { l := some (tok 0 3 0) } c
      fires s 0x05 (fun f => decide (getCol s (colKeyAt f.r.key f.r.op 0) = c) && (getRegion s { region := 1 }).any (fun r => decide (r.width = 1)) &&
        emits s f.r (toPort f.r 0 { leftTok f with tag := setField 0 1 1 })) = true) ∧
    (∀ c ∈ colours, let s := fl (mk 0x06 1 0 [0] 0 1 1) { l := some (tok 0 3 0) } c
      fires s 0x06 (fun f => decide (getCol s (colKeyAt f.r.key f.r.op 0) = c) && emits s f.r (toPort f.r 0 (leftTok f))) = true) := by
  decide +kernel

theorem witness_CallOperators :
    (let s := fl (mk 0x07 1 (2 + 2 ^ 24 * 4) [0]) { l := some (tok 0 3 0) }
     fires s 0x07 fun f => decide (tfind (0, 0) (getEng s ie).entries = none ∧ lowSlot (groupOf f.r.g f.r.op 21 16) = 0) &&
       !groupDraws s ie f.r.key 2 f.q.slot (groupOf f.r.g f.r.op 21 16) 0 0 &&
       liveRoom s (colKeyAt f.r.key f.r.op 0) && (getRegion s { region := 2 }).any (fun r => decide (r.free = [1] ∧ r.draws = [])) &&
       emits s f.r (toPort f.r 0 { leftTok f with tag := BitVec.ofNat 64 ((2 * 256 + 1) * 2 ^ 48) })) = true ∧
    (let s := modEng (fl (mk 0x07 1 (2 + 2 ^ 8) [0]) { l := some (tok 0 3 0) }) ie fun x => { x with entries := [((0, 0), { value := 1 })] }
     fires s 0x07 fun f => (tfind (0, 0) (getEng s ie).entries).any fun x =>
       emits s f.r (toPort f.r 0 { leftTok f with tag := BitVec.ofNat 64 ((2 * 256 + x.value) * 2 ^ 48) })) = true ∧
    (∀ b ∈ [false, true], let s := fl (mk 0x08 1 0 [0] 0 2) { l := some (tok 0 3 0) } { busy := b }
      fires s 0x08 (fun f => let k := colKeyAt f.r.key f.r.op 0
        ((getCol s k).busy == b) && ((getRegion s k).bind fun r => tfind k.colour r.links).isNone) = true) ∧
    (let s := modRegion (fl (mk 0x08 1 0 [0] 0 2) { l := some (tok 0 3 0) } { busy := true }) 0 0 2 fun r =>
       { r with links := [(0, { dest := [4] })] }
     fires s 0x08 fun f => ((getRegion s { region := 2 }).bind fun r => tfind 0 r.links).any fun l => (l.dest[0]?).any fun x =>
       emits s f.r [addressed f.r (entryCoord 0 f.r.g x) { leftTok f with tag := l.tag }]) = true := by decide +kernel

theorem witness_SourceFires : ∀ x ∈ [(0, (none : Option Word)), (1, none), (1, some 7), (2, some 0)],
    let s := { gs (mk 0x01 0 (x.1 * 2 ^ 252 + 9) [0]) with sources := [{ lid := 5, value := x.2, atLaunch := false }] }
    ((getGraph s (0, 0)).bind fun g => opRef (0, 0) g 0).any (fun r => decide (r.op.eng = ie ∧ bits (opCfg r.op 0) 255 252 = x.1) &&
      running r.g && emits s r (toAllPorts r { kind := 3, lid := 5 }) && decide ((getTile s {}).state ≠ 3)) = true := by decide +kernel
/-- A tile SOURCE whose tile is FULL. -/
theorem witness_SourceFires_tile :
    let s := { gs (mk 0x01 0 (2 * 2 ^ 252) [0]) with
      sources := [{ lid := 5, value := some 0, atLaunch := false }], tiles := [(default, { state := 3, rows := 1, cols := 16 })] }
    ((getGraph s (0, 0)).bind fun g => opRef (0, 0) g 0).any (fun r => decide (r.op.eng.pkg = r.key.1) &&
      emits s r (toAllPorts r { kind := 1, opw := tileOpw default 1 16 0 0, lid := 5 }) && decide ((getTile s {}).state = 3)) = true := by
  decide +kernel

/-- The instance at row 0 of record 0 in a state, with a pend. -/
def inst0 (o : Op) (st pend : Nat) : State :=
  modGraph (fl o { l := some (tok 0 3 0), r := some (tok 1 3 0) }) (0, 0) fun g =>
    { g with conts := [{ copen := 0, cclose := 0, insts := if st = 0 then [] else [(0, { state := st, pend := pend })] }] }
theorem witness_ContainmentOperators :
    (∀ st ∈ [0, 1], let s := inst0 (mk 0x0D 3 0 [0, 1]) st 0
      fires s 0x0D (fun f => decide (getGraph s f.r.key = some f.r.g ∧ instAt f.r.g 0 0 = (0, 0) ∧ 0 < f.r.g.conts.length ∧
        (getInst f.r.g 0 0).state = st) &&
        (f.r.g.conts[0]?).any (fun c => decide (f.r.g.ops[c.copen]? = some f.r.op ∧ (c.insts.map (·.1)).Nodup)) && liveRoom s (colKeyAt f.r.key f.r.op 0) && emits s f.r (bothPorts f.r f.q.l f.q.r)) = true) ∧
    (∀ p ∈ [0, 1], let s := inst0 (mk 0x0E 3 0 [0, 1]) 1 p
      fires s 0x0E (fun f => decide (getGraph s f.r.key = some f.r.g ∧ instAt f.r.g 0 0 = (0, 0) ∧ (getInst f.r.g 0 0).state = 1 ∧
        (getInst f.r.g 0 0).pend = p) && (f.r.g.ops[0]?).isSome && emits s f.r (bothPorts f.r f.q.l f.q.r)) = true) ∧
    (∀ p ∈ [0, 1], (getGraph (inst0 (mk 0x0E 3 0 [0, 1]) 2 p) (0, 0)).any (fun g => (g.conts[0]?).any fun c =>
      (g.ops[c.copen]?).any fun o => decide ((getInst g 0 0).state = 2) &&
        (getGraph (sweepInst (inst0 (mk 0x0E 3 0 [0, 1]) 2 p) 0 0 0 0) (0, 0)).any fun h =>
          decide ((getInst h 0 0).state = 2 ∧ (getInst h 0 0).pend = p) &&
          (busyCols 0 0 h).all fun y => y.2.hold != some (colKeyAt (0, 0) o (getInst h 0 0).key)) = true) := by decide +kernel

theorem witness_TimersAndTriggers : fires (fl (mk 0x0F 1 1 [0]) { l := some (tok 0 2 7) }) 0x0F (fun f => decide (f.r.op.eng = ie)) = true ∧
    (let s := { gs (mk 0x0F 1 0 [0]) with wheels := [((0, 0), { ents := [{ fire := true, what := .timer ie (tok 0 2 7) }] })] }
     (dueEnt s 0 0 0).any (fun x => decide (x.what = .timer ie (tok 0 2 7))) = true ∧
     (findOp s ie 0).any (fun r => emits s r (toPort r 0 (tok 0 3 0))) = true) := by decide +kernel
/-- A TRIGGER's row: its first term asks for count 2 in counter 0; the greatest count. -/
def trigRow (c : Nat) : Row := { l := some (tok 0 3 0), trig := some { counters := [c, 0, 0, 0] } }
theorem witness_TimersAndTriggers_triggers :
    (∀ c ∈ [0, 2 ^ 32 - 1], let o := mk 0x0B 3 (2 + 2 ^ 160 + if c = 0 then 0 else 2 ^ 164) [0]; let t := tok 1 3 0
     let s := arriving o t [trigRow c]
     (match gate s ie t with
       | .row r u => decide (u = s ∧ opKind r.op = 0x0B ∧ vrowOf r.op t.tag = 0) && roomFor s r t && !unwindDiscards r t && kindOk r.op 1 3 &&
           (occupant (getEng s ie) 0).isNone && (findRow (getEng s ie) 0 0).any (fun q => decide (q.trig.isSome ∧ q.backed = false ∧ q.stopHeld = false)) &&
           !trigHolds (opCfg r.op 0) { counters := [min (c + 1) (2 ^ 32 - 1), 0, 0, 0] } (getPkg s 0).time
       | _ => false) = true) ∧
    (∀ h ∈ [false, true], let s := { arriving (mk 0x0B 3 (2 + 2 ^ 160) [0]) (tok 1 3 0) [{ trigRow 2 with stopHeld := h }] with
        wheels := [((0, 0), { ents := [{ fire := true, what := .trigger ie 0 0 }] })] }
     (getWheel s (0, 0)).ents.findIdx? (fun u => decide (u.what = .trigger ie 0 0) && u.fire) = some 0 ∧ (dueEnt s 0 0 0).isSome = true ∧
     (findRow (getEng s ie) 0 0).any (fun q => q.stopHeld == h) = true ∧ (findOp s ie 0).any (fun r => trigHolds (opCfg r.op 0) { counters := [2, 0, 0, 0] } (getPkg s 0).time &&
       emits s r (toPort r 0 (tok 0 3 0))) = true) := by decide +kernel
/-- The first token of a round; and one that completes the count. -/
theorem witness_TimersAndTriggers_arrivals : let o := mk 0x0B 3 (2 + 2 ^ 160) [0]; let t := tok 1 3 0
    (∀ rows ∈ [[], [trigRow 1]], let s := arriving o t rows
      (match gate s ie (walked t) with
        | .row r u => decide (u = s ∧ opKind r.op = 0x0B) && crossGrants s (tokFrom t) ie t.part && arrivalRoom s r (walked t) &&
            (List.range 64).all (fun k => !stopMatches (getStop s (0, k)) r t) && !unwindDiscards r (walked t) &&
            kindOk r.op 1 3 && roomIs 0 (makeRoom s ie 0 0) && decide ((findRow (getEng s ie) 0 0).isNone = rows.isEmpty) &&
            (trigHolds (opCfg r.op 0) { counters := [if rows.isEmpty then 1 else 2, 0, 0, 0] } (getPkg s 0).time == !rows.isEmpty) &&
            emits s r (toPort r 0 (tok 0 3 0))
        | _ => false) = true) := by decide +kernel

/-! ### Witnesses: HBM, tiles and compute -/

/-- HBM port engine 0 of die 0. -/
def he : Eng := ⟨0, 0, 0, 24⟩
/-- A request of an operator at 0x4000. -/
def req0 (op : ReqOp) (pa : Nat) : Req := { id := 7, owner := he, op := op, pa := pa, len := 8, from_ := .hload ie 1 0 }
/-- It is queued at its owner, whose slot is granted to partition p; a watch filter is set or not; package 0 has a route
to package 1. -/
def sectors (r : Req) (p : Nat) (w : Bool) : State :=
  { s0 with
    reqs := [r]
    slotTabs := [(he, { slot := 1, grant := .part p })]
    watches := if w then [(he, { bits := BitVec.allOnes 4096, ctl := 2 ^ 32 + 3 })] else []
    straits := [(⟨0, 0, 0, 25⟩, { table := [{ src := 0, dst := 1 }] })] }

theorem witness_HbmSectorAccess : ∀ op ∈ [ReqOp.read, .write [1, 2] false, .atomic 0 1 0],
    let r := req0 op 0x4000; let s := sectors r 0 false
    s.hbm.wf = true ∧ s.l0.wf = true ∧ s.hostMem.wf = true ∧ (s.reqs.find? (·.id = 7)) = some r ∧ r.st = .queued ∧
    reqWaits s r = false ∧ slotGrants s he r.part = true ∧ slotGrants (sectors r 1 false) he r.part = false ∧
    crossGrants s (reqSrc 0 (reqDie r.from_) r.from_) he r.part = true ∧
    hbmWatch s he r = false ∧ hbmWatch (sectors r 0 true) he r = true ∧ rangeOk s r.part r.pa = true ∧
    rangeOk s r.part hbmSize = false ∧ (wordsOf r.pa 8).any (eccBad s false) = false := by decide +kernel

/-- A packet of package 1 for the engine has been passed on. -/
def remote (b : PktBody) : State :=
  { sectors {} 0 false with reqs := [], inbox := [{ hdr := { dst := { eng := he }, src := { eng := ⟨1, 0, 0, 28⟩ } }, body := b }] }
theorem witness_RemoteRequests : (∀ op ∈ [ReqOp.read, .write [1, 2] false, .atomic 0 1 0],
    let r := req0 op 0x4000; let s := remote (.hbmRead r)
    let out : Pkt := { hdr := { dst := { eng := ⟨1, 0, 0, 28⟩ }, src := { eng := he }, kind := 3, vc := 2 }, body := .readResponse 7 [] false false }
    s.inbox.length = 1 ∧ r.owner.pkg = he.pkg ∧ slotGrants s r.owner r.part = true ∧ s.reqs = [] ∧
    crossGrants s { (default : Eng) with pkg := r.owner.pkg } r.owner r.part = true ∧ reqWaits s { r with unfiltered := false } = false ∧
    hbmWatch s r.owner { r with unfiltered := false } = false ∧ r.host = false ∧
    (getPart s (0, r.part)).flr = 0 ∧ rangeOk s r.part r.pa = true ∧ (egress s he 1).any (fun e => straitRoom s e out) = true ∧
    egress { s with straits := [] } he 1 = none ∧ (wordsOf r.pa 8).any (eccBad s false) = false) ∧
    (let s := { remote (.readResponse 7 [1] false false) with reqs := [{ req0 .read 0x4000 with st := .away }] }
     (s.inbox[0]?).map (·.body) = some (.readResponse 7 [1] false false) ∧ (s.reqs.find? (·.id = 7)).isSome = true ∧
     s.inbox.take 0 = []) := by decide +kernel

/-- The engine's table names e for slot 0 of the frame; a table waits for its frame or not. -/
def slots0 (ent : Nat) (pend : Bool) : State :=
  { s0 with slotTabs := [(he, { tab := [(0, ent)], pending := if pend then some [(0, 3)] else none })] }
/-- A walk of level l that the HBM port engine waits for, whose next entry is ent at 0x8000; the slot there is granted to x. -/
def walking (l ent : Nat) (x : Grant) (table : Nat := 0x8000) : State :=
  { s0 with
    walks := [{ engs := [he], lvl := l, table := table }]
    hbm := memWrite s0.hbm 0x8000 (leBytes 8 ent)
    slotTabs := [(he, { slot := 1, grant := x })] }
/-- Slots for walks, for the partition and none; a leaf, an invalid entry, a leaf at level 3, a table whose entry's owner grants
nothing, a word that cannot be corrected, and an entry outside HBM. -/
theorem witness_WalksAndSlots_walks : (walkers s0 0 0 = []) ∧
    (∀ x ∈ [Grant.walk, .part 0, .none], ∀ y ∈ [(0, 31, true), (3, 0, true), (3, 31, false), (3, 1 + 5 * 2 ^ 13, true)],
      let s := walking y.1 y.2.1 x
      (walkers s 0 0).any (fun w => walkFor w he 0 0 && w.engs.contains he) = true ∧
      ownerOf (gpa 0 0x8000) = he ∧ (granted s he .walk || slotGrants s he 0) = decide (x ≠ .none) ∧
      leNat (memRead s.hbm (gpa 0 0x8000) 8) = y.2.1 ∧ (wordsOf (gpa 0 0x8000) 8).any (eccBad s false) = false ∧
      pteBad y.1 y.2.1 = !(y.2.1 = 0 || y.2.2)) ∧
    (granted (walking 3 (1 + 5 * 2 ^ 13) .walk) (ownerOf (gpa 0 0xA000)) .walk = false ∧
      slotGrants (walking 3 (1 + 5 * 2 ^ 13) .walk) (ownerOf (gpa 0 0xA000)) 0 = false) ∧
    (wordsOf (gpa 0 0x8000) 8).any (eccBad { walking 0 31 .walk with ecc := [(0x1000, .double)] } false) = true ∧
    (walkers (walking 3 0 .walk hbmSize) 0 0).all (fun w => decide (hbmSize ≤ w.table)) = true := by decide +kernel
theorem witness_WalksAndSlots : hasTlb he = true ∧ hasTlb ie = false ∧ windowOk s0 0 0 0 = true ∧
    windowOk s0 0 0 (2 ^ 39 * 8192) = false ∧ errAnd (walkFrom { s0 with hbm := [] } 0 0 3 0) (fun _ => true) = true ∧
    okAnd (walkFrom s0 0 0 3 (getPart s0 (0, 0)).root) (fun _ => true) = true ∧ hasSlots he = true ∧
    (∀ ent ∈ [0, 31, 0x40, 0x80, 0x81, 0x82], let t := getSlotTab (slots0 ent false) he
      t.slot ≠ 0 / 32 + 1 ∧ t.pending = none ∧ tget 0x40 0 t.tab = ent ∧ readyParts (slots0 ent false) he = []) ∧
    (readyParts { slots0 0x3F false with reqs := [{ req0 .read 0x4000 with part := 31 }] } he = [31] ∧
      readyParts { slots0 0x40 false with reqs := [{ req0 .read 0x4000 with part := 31 }] } he = [31]) ∧
    (getSlotTab { s0 with slotTabs := [(he, { slot := 1 })] } he).slot = 0 / 32 + 1 ∧
    (let t := getSlotTab (slots0 0 true) he; t.pending = some [(0, 3)] ∧ t.slot ≠ 1 ∧ t.pendingFrame ≤ 0 / 256) := by decide +kernel

/-- A tile token for a position: the tile at a handle of page 0, its shape, format and block-scale mode. -/
def ttok (pos handle rows cols fmt : Nat) (mode : Nat := 0) (elem : Nat := 0) : Token :=
  { tok pos 1 0 elem with opw := tileOpw ⟨0, 0, handle⟩ rows cols fmt mode }
/-- An operator of a numeric type. -/
def mt (kind pmask typ cfg : Nat) (ports : List Nat) (elem : Nat := 0) : Op :=
  let o := mk kind pmask cfg ports elem
  { o with word := o.word - BitVec.ofNat 256 ((0xF - typ) * 2 ^ 208) }

theorem witness_ChunkSteps : (let r : MtReq := { port := 7, bank := 15, unit := 1023, data := List.replicate 64 1, cw := 4 }
     let s : State := { s0 with memTiles := [(⟨0, 0, 0, 12⟩, { queue := [r] })], chunkWrites := [{ id := 4, left := 1 }] }
     s.hbm.wf = true ∧ s.l0.wf = true ∧ s.hostMem.wf = true ∧ (getMemTile s ⟨0, 0, 0, 12⟩).queue = [r] ∧ r.data.length = 64 ∧
     s.chunkWrites.any (fun w => w.id = r.cw) = true) ∧
    (let s : State := { s0 with chunkWrites := [{ chunk := 127 }] }
     (s.chunkWrites[0]?).any (fun w => decide (w.left = 0 ∧ (getTile s w.tile).level = false)) = true) ∧
    (∀ n ∈ [1, 2], ∀ p ∈ [false, true], let s : State := { s0 with retires := [{}], tiles := [(default, { refs := n, pinned := p })] }
      s.retires.length = 1 ∧ s.retires.all (fun r => !r.last) = true ∧ s.allocWait = [] ∧ (getTile s default).refs = n ∧ (getTile s default).pinned = p) := by decide +kernel
/-- The last read of a draining tile. -/
theorem witness_ChunkSteps_drains : let s : State := { s0 with retires := [{ last := true }], tiles := [(default, { state := 4 })] }
    s.retires.all (·.last) = true ∧ (getTile s default).state = 4 ∧ s.chunkWrites = [] ∧ s.allocWait = [] := by decide +kernel
theorem witness_ChunkSteps_bursts : ∀ mode ∈ [0, 1],
    let t := ttok 0 0 1 16 0 mode
    let s := { modEng (gs (mt 0x16 1 0 0 [0])) ie fun x => { x with run := some { toks := [t] } } with
      tiles := [(⟨0, 0, 0⟩, { state := 3, cmap := 1, rows := 1, cols := 16 })] }
    ((Machine.runs (getEng s ie)).find? (awaits s ie 0 0)).any (fun u => (findOp s ie u.act.slot).isSome &&
      (u.toks.find? fun t => t.dst.pos = 0 ∧ t.kind = 1) == some t && u.dests.isEmpty) = true ∧
    (burstOf s (tokTile t) (tokMode t) 0 0).2 = false ∧ faultRoom s ie 1 = true ∧
    chunkGate s (tokTile t) 0 0 t.lid .read = none ∧ (getEng s ie).dataErr = none ∧
    burstBad (tokMode t) (tokFmt t) (tokChunks t) 0 (burstOf s (tokTile t) (tokMode t) 0 0).1.words = decide (mode = 1) := by decide +kernel

/-- The activation of slot 0, with its row and destinations, heads the compute unit of the island. -/
def unit0 (o : Op) (q : Row) (dests : List TileId) : State :=
  modEng (gs o) o.eng fun x => { x with rows := [{ q with lid := 5 }], unit := [{ dests := dests }] }
/-- It may start as a kind, with nothing poisoned and room for its tokens, and satisfies p. -/
def starts (o : Op) (q : Row) (dests : List TileId) (p : State → Start → Bool) : Bool :=
  let s := unit0 o q dests
  (starting s o.eng (opKind o)).any fun f => faultRoom s o.eng f.toks.length && !f.toks.any (·.poison) &&
    f.toks.all (fun t => (scalarMismatch t).isNone) && p s f
/-- One destination tile. -/
def dest0 : List TileId := [⟨0, 0, 5⟩]

theorem witness_ShapersStart :
    starts (mt 0x16 1 0 0 [0]) { l := some (ttok 0 0 2 3 0) } dest0 (fun s f => (shapeFault s f).isNone &&
      decide (tokFmt (f.q.l.getD {}) = opType f.r.op ∧ tokMode (f.q.l.getD {}) = 0)) = true ∧
    starts (mt 0x16 1 0 0 [0]) { l := some (ttok 0 0 2 3 1) } [] (fun _ f => decide (tokFmt (f.q.l.getD {}) ≠ opType f.r.op)) = true ∧
    starts (mt 0x13 3 0 0 [0]) { l := some (ttok 0 0 2 3 0), r := some (ttok 1 1 1 2 8) } dest0 (fun s f => (shapeFault s f).isNone &&
      decide (tokFmt (f.q.r.getD {}) = 8 ∧ tokMode (f.q.r.getD {}) = 0)) = true ∧
    (∀ n ∈ [1, 128], starts (mt 0x14 3 0 0 [0]) { l := some (ttok 0 0 1 3 0), r := some { tok 1 2 n with residue := n } } dest0 (fun s f =>
      (shapeFault s f).isNone && decide (tokScalar (f.q.r.getD {}) = n)) = true) ∧
    (∀ n ∈ [0, 129], starts (mt 0x14 3 0 0 [0]) { l := some (ttok 0 0 1 3 0), r := some { tok 1 2 n with residue := n } } [] (fun _ f =>
      decide (tokScalar (f.q.r.getD {}) = n)) = true) ∧
    (∀ m ∈ [1, 2, 3], starts (mt 0x16 1 0 0 [0]) { l := some (ttok 0 0 2 3 0 m) } [] (fun _ f =>
      decide (tokFmt (f.q.l.getD {}) = opType f.r.op ∧ tokMode (f.q.l.getD {}) = m)) = true ∧
      starts (mt 0x13 3 0 0 [0]) { l := some (ttok 0 0 2 3 0), r := some (ttok 1 1 1 2 8 m) } [] (fun _ f =>
        decide (tokMode (f.q.r.getD {}) = m)) = true) ∧
    (∀ x ∈ [(5, 1), (0, 2)], starts (mt 0x15 3 0 0 [0]) { l := some (ttok 0 0 x.2 3 0), r := some { tok 1 2 x.1 with residue := x.1 } } []
      (fun s f => decide (tokScalar (f.q.r.getD {}) ≠ (tget {} 0 (getEng s ie).slots).q ∨ tokRows (f.q.l.getD {}) ≠ 1)) = true) ∧
    starts (mt 0x17 1 2 0 [0]) { l := some (ttok 0 0 2 3 0) } [] (fun s f => (shapeFault s f).isSome) = true ∧
    starts (mt 0x15 3 0 0 [0]) { l := some (ttok 0 0 1 3 0), r := some (tok 1 2 0) } dest0 (fun s f => (shapeFault s f).isNone &&
      let x := tokScalar (f.q.r.getD {}); let c := opCfg f.r.op 0
      decide (x = (tget {} 0 (getEng s ie).slots).q ∧ x < bits c 59 44 + 1 ∧ x = 0 ∧
        swinDepth c * tokBytes (f.q.l.getD {}) ≤ 2 ^ (bits c 62 60 + 12))) = true ∧
    starts (mt 0x17 1 2 0 [0]) { l := some (ttok 0 0 2 3 0) } dest0 (fun s f => (shapeFault s f).isNone) = true := by decide +kernel

/-- An activation of slot 0 runs: its tokens, with n bytes of zeros received of each tile input, and its destination,
which is FULL in phase 1. -/
def run0 (o : Op) (toks : List Token) (ds : List TileId) (phase : Nat) : State :=
  let bursts := (toks.filter (·.kind = 1)).map fun t => ({ input := t.dst.pos, data := List.replicate (tokBytes t) 0 } : Burst)
  let u : Run := { toks := toks, dests := ds, phase := phase, recv := bursts }
  { modEng (gs o) o.eng fun x => if opKind o = 0x12 then { x with wload := some u } else { x with run := some u } with
    tiles := ds.map fun d => (d, { state := if phase = 1 then 3 else 1, rows := 1, cols := 4 }) }
/-- It works on its inputs, and satisfies p. -/
def working (o : Op) (toks : List Token) (ds : List TileId) (phase : Nat) (p : State → OpRef → Run → Bool) : Bool :=
  let s := run0 o toks ds phase
  (runningAct s o.eng (opKind o)).any fun x => decide (x.2.phase = phase) && allReceived x.2 && (runMismatch s x.2).isNone && p s x.1 x.2

theorem witness_ShapersWork :
    working (mt 0x13 3 0 0 [0]) [ttok 0 0 2 3 0, ttok 1 1 1 2 8] dest0 0 (fun _ _ u => decide (u.dests = dest0)) = true ∧
    working (mt 0x14 3 0 0 [0]) [ttok 0 0 2 3 0, { tok 1 2 2 with residue := 2 }] dest0 0 (fun _ _ u => decide (u.dests = dest0)) = true ∧
    working (mt 0x16 1 0 0 [0]) [ttok 0 0 2 3 0] dest0 0 (fun _ _ u => decide (u.dests = dest0)) = true ∧
    working (mt 0x17 1 2 0 [0]) [ttok 0 0 2 3 0] dest0 0 (fun _ _ u => decide (u.dests = dest0)) = true ∧
    working (mt 0x15 3 0 0 [0]) [ttok 0 0 1 3 0, tok 1 2 0] [] 0 (fun _ _ u => decide (u.dests = [])) = true ∧
    working (mt 0x15 3 0 0 [0]) [ttok 0 0 1 4 0, tok 1 2 0] dest0 0 (fun s r u => (imageRefused s ⟨0, 0, 5⟩).isNone &&
      (winStart (opCfg r.op 0) 0).any fun y => !((windowAddrs r.op (opCfg r.op 0) y 16).map (· / 8)).dedup.any
        (eccBad (writeLine s r.op 0 (inputImg u 0)) true)) = true ∧
    (∀ k ∈ [0x13, 0x14, 0x16], working (mt k 1 0 0 [0]) [ttok 0 0 2 3 0] dest0 1 (fun s r u => decide (u.extra = none) &&
      tileFull s ⟨0, 0, 5⟩ && emits s r (toPort r 0 (tileTok s u ⟨0, 0, 5⟩ 0 ((u.resid.head?).getD 0)))) = true) := by decide +kernel
theorem witness_ShaperImages : (List.replicate 24 (1 : Byte)).length = 2 * 3 * elemBytes 0 ∧
    gatherIdx 8 [1, 0, 0, 0] 0 = some 1 ∧ gatherIdx 8 [0xFF, 0xFF, 0xFF, 0xFF] 0 = some (-1) ∧ gatherIdx 8 [2, 0, 0, 0] 0 = some 2 := by
  decide +kernel

/-- The island's active bank holds weights of a format, 3 columns deep. -/
def banked (s : State) (fmt : Nat) : State := { s with islands := [(ie, { bact := 1, wb0 := { valid := true, fmt := fmt, k := 3, n := 1, data := List.replicate 6 0 } })] }

theorem witness_ArrayOperators :
    starts (mt 0x12 1 1 0 []) { l := some (ttok 0 0 1 3 1) } [] (fun _ f => decide (tokFmt (f.q.l.getD {}) = opType f.r.op ∧
      tokBytes (f.q.l.getD {}) ≤ 32768)) = true ∧
    (let s := banked (run0 (mt 0x12 1 1 0 []) [ttok 0 0 1 3 1] [] 0) 1
     (runningAct s ie 0x12).any (fun x => allReceived x.2 && (runMismatch s x.2).isNone && decide ((getIsland s ie).bact ≠ 0 ∧ opNout x.1.op ≠ 1)) = true) ∧
    (let s := banked (modEng (unit0 (mt 0x11 1 1 0 [0]) { l := some (ttok 0 0 1 3 1) } []) ie fun x =>
       { x with unit := [{ bank := some false, dests := dest0 }] }) 1
     (starting s ie 0x11).any (fun f => faultRoom s ie 1 && !f.toks.any (·.poison) && f.toks.all (fun t => (scalarMismatch t).isNone) &&
       (mmulFault s f).isNone) = true) ∧
    (let s := modEng (unit0 (mt 0x11 1 1 0 [0]) { l := some (ttok 0 0 1 3 1) } []) ie fun x => { x with unit := [{ bank := some true }] }
     (starting s ie 0x11).any (fun f => decide (f.act.bank = some true ∧ (bankOf (getIsland s ie) true).valid = false ∧ f.act.dests = [])) = true) ∧
    (∀ c ∈ [0x100, 0x300], ∀ err ∈ [none, some (1 : Int)], ∀ ds ∈ [dest0, []],
     let s := banked (modEng (run0 (mt 0x11 3 1 0 [0]) [ttok 0 0 1 3 1, { tok 1 2 c with residue := c }] ds 0) ie fun x =>
       { x with arithErr := err, run := x.run.map fun u => { u with act := { u.act with bank := some false } } }) 1
     (runningAct s ie 0x11).any (fun x => allReceived x.2 && (runMismatch s x.2).isNone && decide (x.2.act.bank = some false ∧ x.2.phase = 0 ∧
       opCtok x.1.op = false ∧ x.1.op.eng = ie ∧ x.2.dests = ds) && (bit (runCtl x.1 x.2) 9 == decide (c = 0x300)) &&
       (ds.isEmpty || (imageRefused s ⟨0, 0, 5⟩).isNone) && let l := inputTok x.2 0
       ((addRows (tokFmt l) (tokMode l) (tokRows l) (tokCols l) (bits (runCtl x.1 x.2) 6 0) (bankOf (getIsland s ie) false)
         (inputImg x.2 0) (x.2.recv.filter (·.input = 0)) [] err).bad == err.isSome)) = true) := by decide +kernel

/-- A vector tile and a block of one NOP word on it, or of one word of no opcode. -/
def ve : Eng := ⟨0, 0, 0, 4⟩
def blockOp (legal : Bool) : Op :=
  { mt 0x10 1 0 0 [] 4 with
    block := some { header := BitVec.ofNat 128 (0xB7 * 2 ^ 120 + 2 ^ 102 + 2 ^ 84)
                    words := [BitVec.ofNat 64 ((if legal then 1 else 0x1F0) * 2 ^ 55 + 0x1FF * 2 ^ 37 + 0x1FF * 2 ^ 28)] } }
/-- The shape table of the vector tile holds one shape. -/
def shaped (s : State) : State := { s with vtiles := [(ve, { shapes := [(0, { e0 := 16 })] })] }

theorem witness_VectorBlocks : (∀ l ∈ [false, true], let s := shaped (unit0 (blockOp l) { l := some (ttok 0 0 1 16 0 0 4) } [])
     (starting s ve 0x10).any (fun f => faultRoom s ve 1 && !f.toks.any (·.poison) && f.toks.all (fun t => (scalarMismatch t).isNone) && decide ((getEng s ve).blocked = none) &&
       !(tget {} f.q.slot (getEng s ve).slots).validated && ((firstIllegal (blockCtx s f.r)).isNone == l) &&
       (vblockFault s f (blockCtx s f.r)).isNone) = true) ∧
    (∀ n ∈ [0, 1], ∀ p ∈ [0, 1], let s := shaped (modEng (run0 (blockOp true) [ttok 0 0 1 16 0 0 4] [] p) ve fun x =>
       { x with run := x.run.map fun u => { u with steps := 1, step := n } })
     (runningAct s ve 0x10).any (fun x => let c := stepCtx s x.1 x.2
       let s0 := watchPassed s x.2.act.id ((boundChunks s c).flatMap fun x => chunkSectors (getTile s x.1) x.2)
       let v := (stepOrder c.b).foldl (runWord c) { stepStart s ve x.2 with s := { s0 with nextId := s.nextId + 1 } }
       boundGrants s c && (boundGate s c).isNone && decide (x.2.phase = p ∧ x.2.step = n) && stepInputs c && !portHeld s c && !v.bad && !v.bad3 && v.brk.isNone &&
         stepRest c.b x.2.word (getVTile s ve).rep == [(0, 0)] && x.2.dests.all (fun id => (imageRefused s id).isNone) && allReceived x.2 &&
         (runMismatch s x.2).isNone && x.2.dests.all (tileFull s)) = true) ∧
    bwOp (0x109 * 2 ^ 55) = 0x109 := by decide +kernel
/-- A block of one repeat never stops between two repeats; one of two may, before its second. -/
theorem witness_VectorBlocks_parts : (∀ k, stepPart [(0, 0)] k = ([(0, 0)], none)) ∧
    stepPart [(0, 0), (0, 1)] 0 = ([(0, 0)], some (0, 1)) := ⟨fun _ => rfl, rfl⟩

/-! ### Witnesses: transfers, copies and channel operators -/

/-- A pattern whose base is va, its rows stride bytes apart. -/
def pat (va stride : Nat) : Nat := va * 2 ^ 32 + stride * 2 ^ 116
/-- The TLB of an engine holds the leaf of the page tables. -/
def withTlb (s : State) (e : Eng) : State := { s with tlb := { eng := e, vpage := 0, bits := 33, ent := 0x1F } :: s.tlb }
/-- An activation of slot 0 of its element heads the transfer unit, with its row and destinations, which are EMPTY, 1 by 4. -/
def xfer0 (o : Op) (q : Row) (dests : List TileId) : State :=
  withTlb { unit0 o q dests with tiles := dests.map fun d => (d, { state := 1, rows := 1, cols := 4 }) } o.eng
/-- It is sound and satisfies p. -/
def xfers (s : State) (e : Eng) (kind : Nat) (p : State → Start → Bool) : Bool :=
  (xferAt s e 0 kind).any fun f => !f.toks.any (·.poison) && (scalarBad s f).isNone && p s f
/-- An HLOAD of a pattern. -/
def hloadAt (va : Nat) : State := xfer0 (mt 0x18 1 0 (pat va 16) [0] 24) { l := some (tok 0 3 0 24) } dest0
/-- The runs of the HLOAD. -/
def hloadRuns (s : State) (f : Start) : Except XErr (List (Nat × Nat) × List Nat) :=
  let t := getTile s ⟨0, 0, 5⟩
  xferRuns s he f.r.g.part (opCfg f.r.op 0) 0 t.rows t.cols t.fmt .op none

theorem witness_HbmTransfers : xfers (hloadAt 0x2000) he 0x18 (fun s f =>
      decide (patIndex (opCfg f.r.op 0) (frameOf f) (tokScalar (f.q.l.getD {})) = some 0 ∧ f.act.dests = dest0) &&
        okAnd (hloadRuns s f) fun x => okAnd (runsToPieces s he f.r.g.part .op .read x.1) fun ps =>
          rangeRoom s (rangesOf false f.q.lid he (newStamp s he).1 s.nextId ps) &&
          (sectorReads ps).all fun p => decide ((ownerOf p.addr).pkg = he.pkg)) = true ∧
    xfers (hloadAt (2 ^ 33)) he 0x18 (fun s f => okAnd (hloadRuns s f) fun x =>
      errAnd (runsToPieces s he f.r.g.part .op .read x.1) fun y => decide (y.1 ≠ 0 ∧ y.1 ≠ 0x0111) && faultRoom s he f.toks.length) = true ∧
    xfers { hloadAt 0x2000 with tlb := [] } he 0x18 (fun s f => okAnd (hloadRuns s f) fun x =>
      errAnd (runsToPieces s he f.r.g.part .op .read x.1) fun y => decide (y.1 = 0)) = true ∧ (hloadAt (2 ^ 33)).allocWait = [] := by
  decide +kernel

/-- Transfer 9 of the HLOAD with n sectors to come; its tile is FULL or not. -/
def loading (n : Nat) (full : Bool) : State :=
  { hloadAt 0x2000 with
    reqs := if n = 0 then [] else [{ id := 7, from_ := .hload he 9 0, st := .done, data := List.replicate 64 1, pa := 0x2000 }]
    xfers := [{ id := 9, eng := he, tok := tok 0 3 0 24, dest := some ⟨0, 0, 5⟩, left := n, pieces := [{ addr := 0x2000, len := 16, va := 0x2000 }] }]
    tiles := [(⟨0, 0, 5⟩, { state := if full then 3 else 1, rows := 1, cols := 4 })] }

theorem witness_HbmTransfers_returns : (let s := loading 1 false
      (s.reqs.find? (fun q => decide (q.id = 7) && decide (q.st = .done))).any (fun q => !q.denied && !q.bad && decide (q.from_ = .hload he 9 0)) &&
      (s.xfers.find? (fun y => decide (y.id = 9))).any (fun y => !y.failed && (findOp s he y.slot).isSome && !y.ctok && decide (y.dest = some ⟨0, 0, 5⟩) &&
        let z := gotSector y (getTile s ⟨0, 0, 5⟩) { id := 7, data := List.replicate 64 1, pa := 0x2000 }
        decide (z.left = 0 ∧ loadReady z (getTile s ⟨0, 0, 5⟩) = [0]) && !chunkRefused (getTile s ⟨0, 0, 5⟩) 0 &&
          (findOp s he y.slot).any fun r => emits s r (if opCtok r.op then toPort r (opNout r.op - 1) { y.tok with kind := 3, opw := 0, residue := 0 } else []))) = true ∧
    (∀ full ∈ [false, true], let s := loading 0 full
      s.reqs.find? (fun q => decide (q.id = 9) && decide (q.st = .done)) = none ∧
      (s.xfers.find? (fun y => decide (y.id = 9) && decide (y.eng = he) && !y.store && decide (y.left = 0))).any (fun x =>
        (findOp s he x.slot).any fun r => decide (x.dest = some ⟨0, 0, 5⟩) &&
          let t := getTile s ⟨0, 0, 5⟩; let img := (List.range (tileChunks t)).flatMap fun c => (loadChunk x t c).1
          let out := toPort r 0 { x.tok with kind := 1, poison := x.poison, residue := residueOf img, opw := tileOpw ⟨0, 0, 5⟩ t.rows t.cols t.fmt (loadMode x t) }
          refsRoom s out && emits s r out) = true ∧
      tileFull s ⟨0, 0, 5⟩ = full) := by decide +kernel

/-- An HSTORE of the tile at handle 0, whose chunk is written or not. -/
def hstoreAt (written : Bool) : State :=
  { xfer0 (mt 0x19 1 0 (pat 0x2000 16) [0] 24) { l := some (ttok 0 0 1 4 0 0 24) } [] with
    tiles := [(⟨0, 0, 0⟩, { state := 3, rows := 1, cols := 4, cmap := if written then 1 else 0 })] }

theorem witness_HbmTransfers_stores : xfers (hstoreAt true) he 0x19 (fun s f =>
    let c := opCfg f.r.op 0; let t := f.q.l.getD {}
    decide (tokFmt t = opType f.r.op ∧ tokMode t = 0 ∧ patIndex c (frameOf f) (tokScalar (f.q.r.getD {})) = some 0) &&
    okAnd (xferRuns s he f.r.g.part c 0 (tokRows t) (tokCols t) (tokFmt t) .op (some (tokWords s t))) fun x =>
      okAnd (runsToPieces s he f.r.g.part .op .write x.1) fun ps =>
        rangeRoom s (rangesOf false f.q.lid he (newStamp s he).1 s.nextId ps)) = true := by decide +kernel
/-- Transfer 9 of the HSTORE reads its only chunk, written or not; the residue of its token agrees or not. -/
def storing0 (written : Bool) (res : Nat) : State :=
  { modEng (hstoreAt written) he (fun x => { x with unit := [] }) with
    xfers := [{ id := 9, eng := he, store := true, tok := { ttok 0 0 1 4 0 0 24 with residue := res }, todo := [0],
                pieces := [{ addr := 0x2000, len := 16, va := 0x2000 }] }] }
theorem witness_HbmTransfers_storeChunks : ∀ m ∈ [false, true], ∀ res ∈ [0, 5], let s := storing0 m res
    (getEng s he).unit.length = 0 ∧ ((s.xfers.filter fun x => decide (x.eng = he) && x.store)[0]?).any (fun x =>
      let t := x.tok; let b := burstOf s (tokTile t) (tokMode t) 0 0
      (findOp s he x.slot).isSome && decide (x.todo = [0]) && (chunkReadable s t 0 == m) &&
      decide (chunkGate s (tokTile t) 0 x.id x.lid .read = none ∧ (getEng s he).dataErr = none) &&
      !b.2 && !burstBad (tokMode t) (tokFmt t) (tokChunks t) 0 b.1.words && !x.poison &&
      (residueEq (if chunkChecked s t then (x.sum + b.1.sum) % 65535 else t.residue) ((x.resid + residueOf b.1.data) % 65535) == (res == 0)) &&
      (sectorsOf (slicePieces x.pieces (storeChunk x 0).1 (storeChunk x 0).2)).all fun k =>
        (List.range 64).all fun b => decide ((ownerOf (k * 64 + b)).pkg = he.pkg)) = true := by decide +kernel
/-- Transfer 9 of the HSTORE, with all read; its write is queued, acknowledged, or refused, or it has stopped at a fault. -/
theorem witness_HbmTransfers_ends : ∀ x ∈ [(ReqSt.queued, false), (.done, false), (.done, true)], ∀ stop ∈ [none, some (0, 0x0112, 5)],
    let q : Req := { id := 7, from_ := .hstore he 9, st := x.1, denied := x.2 }
    let s := { hstoreAt true with reqs := [q], xfers := [{ id := 9, eng := he, store := true, tok := tok 0 1 0 24, stop := stop }] }
    (s.xfers.find? (fun y => decide (y.id = 9) && decide (y.eng = he) && y.store)).any (fun x => decide (x.todo = [] ∧ x.stop = stop) && faultRoom s he (xferToks x).length &&
      (findOp s he x.slot).any fun r => emits s r (if opCtok r.op then toPort r (opNout r.op - 1) { x.tok with kind := 3, opw := 0, residue := 0 } else [])) = true ∧
    s.reqs.any (fun q => ofStore he 9 q && decide (q.st ≠ .done)) = decide (x.1 = .queued) ∧
    s.reqs.all (fun q => !ofStore he 9 q || decide (q.st = .done)) = decide (x.1 = .done) ∧
    (s.reqs.filter (ofStore he 9)).find? (·.denied) = if x.2 then some q else none := by decide +kernel

/-- The copy engine of die 0. -/
def ce : Eng := copyEng 0 0
/-- A COPY of the tile at handle 0 to the tile at handle 5, or of memory to memory. -/
def copyAt (mem : Bool) : State :=
  let o := mt 0x1A 1 0 (if mem then pat 0x2000 16 + 2 ^ 159 + 2 ^ 160 else 0) [0] ce.elem
  let o := if mem then { o with cfg := o.cfg ++ [BitVec.ofNat 256 (pat 0x4000 16)] } else o
  let s := xfer0 o { l := some (if mem then tok 0 3 0 ce.elem else ttok 0 0 1 4 0 0 ce.elem) } (if mem then [] else dest0)
  { s with tiles := (⟨0, 0, 0⟩, { state := 3, rows := 1, cols := 4, cmap := 1 }) :: s.tiles }

theorem witness_CopyOperators : ∀ m ∈ [false, true], (copyAt m).hbm.wf = true ∧ (copyAt m).l0.wf = true ∧ (copyAt m).hostMem.wf = true ∧
    copyTurn (copyAt m) 0 0 16 = true ∧
    xfers (copyAt m) ce 0x1A (fun s f => let l := f.q.l.getD {}
      (bit (opCfg f.r.op 0) 159 == m) && decide (m = true ∨ (tokFmt l = opType f.r.op ∧ tokMode l ≤ 1)) && !copyWaits s f &&
      okAnd (formCopy s f) fun j => !j.early && refsRoom s [] && rangeRoom s (copyRanges { j with
        id := s.nextId, stamp := (newStamp s j.eng).1, left := List.range (copyChunks j) })) = true := by
  decide +kernel

/-- Copy 9 of 2 rows of 16 bytes with its chunks left, and its requests; a packet's. -/
def copying (src dst : CopyEnd) (left reading writing : List Nat) (reqs : List Req) : State :=
  { copyAt true with
    copies := [{ id := 9, eng := ce, src := src, dst := dst, rows := 2, rbytes := 16, left := left, reading := reading
                 writing := writing, packet := some (0, 0), bar := some (0, 3, false) }]
    tiles := [(⟨0, 0, 0⟩, { state := 3, rows := 2, cols := 4, cmap := 1 }), (⟨0, 0, 5⟩, { state := 1, rows := 2, cols := 4 })]
    reqs := reqs }
/-- Two rows of 16 bytes in memory. -/
def rowsAt (a : Nat) : CopyEnd := .mem [{ addr := a, len := 16, va := a }, { addr := a + 16, len := 16, va := a + 16 }] false
/-- The request of chunk 0 of copy 9. -/
def creq (st : ReqSt) : Req := { id := 7, pa := 0x2000, len := 64, va := 0x2000, from_ := .copy ce 9 0, st := st, data := List.replicate 64 1 }
/-- Copy 9 is in progress on package 0 and satisfies p. -/
def copies (s : State) (p : CopyJob → Bool) : Bool :=
  (s.copies.find? fun j => decide (j.id = 9) && decide (j.eng = copyEng 0 0)).any fun j => !j.failed && !j.left.isEmpty && p j

theorem witness_CopyOperators_reads : copies (copying (rowsAt 0x2000) (rowsAt 0x4000) [0] [] [] []) (fun j =>
      j.left.contains 0 && !j.left.contains 2 && !j.writing.contains 0 && !j.reading.contains 0 &&
        (sectorReads (endPieces j j.src 0)).all fun p => decide ((ownerOf p.addr).pkg = 0)) = true ∧
    copies (copying (rowsAt 0x2000) (rowsAt 0x4000) [0] [0] [] [creq .queued]) (fun j => j.reading.contains 0 &&
      [creq .queued].any (ofChunk j 0)) = true ∧
    (getTile (copying (.tile ⟨0, 0, 5⟩) (rowsAt 0x4000) [0] [] [] []) ⟨0, 0, 5⟩).cmap.getLsbD 0 = false := by decide +kernel
theorem witness_CopyOperators_writes : ∀ x ∈ [(rowsAt 0x2000, rowsAt 0x4000, [0], [0]), (.tile ⟨0, 0, 0⟩, rowsAt 0x4000, [0], []),
      (rowsAt 0x2000, .tile ⟨0, 0, 5⟩, [0, 1], [0])],
    let s := copying x.1 x.2.1 x.2.2.1 x.2.2.2 [] [creq .done]
    copies s (fun j => j.left.contains 0 && !j.writing.contains 0 && dstGrants s j 0 && (copyGate s j 0).isNone &&
      let m := match j.src with
        | .tile id => tileChunk s j id 0
        | .mem _ _ => memChunk j 0 (s.reqs.filter (ofChunk j 0))
      (match j.src with | .tile id => (getTile s id).cmap.getLsbD 0 && l1Grants s id 0 | _ => j.reading.contains 0) &&
      (chunkStop s j 0 m (j.left.all fun k => decide (k = 0) || j.writing.contains k)).isNone &&
      (match j.dst with
       | .tile id => decide ((getTile s id).state = 1) && decide (j.left.erase 0 ≠ [])
       | .mem _ _ => (chunkWrites j 0 m).all fun q => decide ((ownerOf q.pa).pkg = 0))) = true := by decide +kernel
theorem witness_CopyOperators_acks : ∀ x ∈ [([0], ReqSt.queued), ([0], .done), ([0, 1], .done)],
    let s := copying (rowsAt 0x2000) (rowsAt 0x4000) x.1 [] [0] [creq x.2]
    copies s (fun j => j.left.contains 0 && j.writing.contains 0 && j.packet.isSome && (s.reqs.filter (ofChunk j 0) == [creq x.2])) = true ∧
    (creq x.2).denied = false := by decide +kernel

/-- The packet in slot 0 of copy queue 0, with its seal: 8 bytes from 0x2000 to 0x3000, or an operation the rules forbid. -/
def packetQ (op mark : Nat) : State :=
  let b := leBytes 8 op ++ leBytes 8 0x2000 ++ leBytes 8 0x3000 ++ leBytes 8 8 ++ leBytes 24 0 ++ leBytes 8 mark
  withTlb { copyq 0 false with hbm := memWrite (copyq 0 false).hbm 0x40040 b } ce

theorem witness_CopyOperators_packets : copySlot (packetQ 0 0) 0 0 0 = none ∧ ∀ x ∈ [0, 2], let s := packetQ x 1
    s.hbm.wf = true ∧ s.l0.wf = true ∧ s.hostMem.wf = true ∧ copyTurn s 0 0 0 = true ∧
    (copySlot s 0 0 0).any (fun rb => let b := rb.2; let c := getCopyQ s (0, 0, 0); let slot := rb.1 % 2 ^ c.log2
      !(getLaunch s (0, field b 2 2 % 4096)).any (·.killed) &&
      (let took := servedQ (engineWrite (queueReads s 0 0 0) ce c.part (c.base.toNat + 8) (leBytes 8 ((rb.1 + 1) % 2 ^ 64))) 0 0 0
       match formPacket took ce c.part 0 slot b with
       | .ok j => decide (x = 0) && (launchCopy took j).isSome
       | .error _ => decide (x = 2))) = true := by decide +kernel

/-- Strait engine 25 of die 0. -/
def xe : Eng := ⟨0, 0, 0, 25⟩
/-- An entry whose two ends are the operator in slot 0 of that engine; n records of 256 bytes stand in its ring of 16. -/
def chanE (n st rlog : Nat) : Chan :=
  { state := st, rlog := rlog, wep := .op { eng := xe } 0, rep := .op { eng := xe } 0, wi := n, wrec := n, sent := n, name := 7, credit := 3
    recs := (List.range n).map fun k => { pos := k, ready := true, ordinal := k } }
/-- Channel 0 of die 0 has it. -/
def chanOp (n st rlog : Nat) (s : State) : State := { s with chans := [((0, 0, 0), chanE n st rlog)] }
/-- It is on package 1, with a route there and back. -/
def chanAway (n st rlog : Nat) (s : State) : State :=
  { s with chans := [((1, 0, 0), chanE n st rlog)]
           straits := [(xe, { table := [{ src := 0, dst := 1 }] }), (⟨1, 0, 0, 25⟩, { table := [{ src := 1, dst := 0 }] })] }
/-- A CHW of the scalar 9, a CHR. -/
def chw0 : State := xfer0 (mt 0x1C 1 0 0 [0] 25) { l := some { tok 0 2 9 25 with residue := 9 } } []
def chr0 : State := xfer0 (mt 0x1B 1 0 (2 ^ 64) [0, 1] 25) { l := some (tok 0 3 0 25) } []

theorem witness_ChannelOperators_writes : (∀ x ∈ [(0, 2), (0, 4), (16, 4)], ∀ far ∈ [false, true],
    let s := if far then chanAway x.1 1 x.2 chw0 else chanOp x.1 1 x.2 chw0; let k : ChanKey := (if far then 1 else 0, 0, 0)
    xunitRoom s xe = true ∧ xunitAt s xe 0 0x1C = none ∧ xfers s xe 0x1C (fun s f => let t := (f.toks.head?).getD {}; let c := getChan s k
      decide (t.poison = false ∧ t.kind ≠ 1 ∧ mismatch s t [] = none ∧ chanOfWriter s (opCoord f.r.op) = some k ∧ c.state = 1) &&
        (recordOf t [] (recBytes c)).any (fun bs => (creditOf s k == 0) == (x.1 == 16) &&
          (!far || (sendRecord s (opCoord f.r.op) t k (recFmt t) bs).isSome)) &&
        c.recs.all (fun q => decide (q.ordinal ≠ c.wrec)) && emits s f.r (toPort f.r 0 (signalFrom t)) &&
        (match writePlace s k with
         | .ok seg pos _ => x.1 == 0 && recGrants s k { seg := seg, pos := pos } &&
             (recGate s 0 k { seg := seg, pos := pos } f.act.id f.q.lid .write).isNone
         | .full => x.1 == 16
         | .quota _ _ => false)) = true) ∧
    (∀ n ∈ [0, 1], let s := { chanAway n 1 4 chw0 with xunits := [{ id := 9, eng := xe, tok := tok 0 2 9 25, sent := some ((1, 0, 0), 0) }] }
     recLanded s (1, 0, 0) 0 = decide (n = 1) ∧ (xunitAt s xe 1 0x1C).any (fun y => decide (y.2.sent = some ((1, 0, 0), 0)) &&
       emits s y.1 (toPort y.1 0 (signalFrom y.2.tok))) = true) := by decide +kernel

theorem witness_ChannelOperators_reads : (∀ x ∈ [(1, 1), (0, 2), (0, 1)], ∀ far ∈ [false, true],
    let s := if far then chanAway x.1 x.2 4 chr0 else chanOp x.1 x.2 4 chr0; let k : ChanKey := (if far then 1 else 0, 0, 0)
    xunitRoom s xe = true ∧ xunitAt s xe 0 0x1B = none ∧ xfers s xe 0x1B (fun s f => let t := (f.toks.head?).getD {}; let c := getChan s k
      decide (chanOfReader s (opCoord f.r.op) = some k ∧ bit (opCfg f.r.op 0) 64 = true ∧ f.act.dests = [] ∧ opNout f.r.op = 2 ∧ c.state = x.2) &&
        (match headRec c with
         | some q => decide (x.1 = 1) && !q.poison && recGrants s k q && (recGate s 0 k q f.act.id f.q.lid .read).isNone &&
             !(readRecBytes s k q).2 && residueEq q.residue (residueOf (readRecBytes s k q).1)
         | none => decide (c.recs = [])) &&
        (!far || (egress s ⟨1, 0, 0, 25⟩ 0).any fun o => straitRoom s o {}) &&
        emits s f.r (toPort f.r 0 { t with kind := 2 }) && emits s f.r (toPort f.r 1 (signalFrom t))) = true) := by decide +kernel

/-- A DISPATCH of two rows of 64 to the channels 7 and 8, which hold n and m records; its activations in progress. -/
def dispatchAt (n m : Nat) (xs : List XUnit) : State :=
  let o := mt 0x1D 3 0 1 [0, 0] 25
  let o := { o with cfg := o.cfg ++ [BitVec.ofNat 256 (7 + 8 * 2 ^ 32)] }
  { xfer0 o { l := some (ttok 0 0 2 64 0 0 25), r := some (ttok 1 1 2 1 8 0 25) } [] with
    tiles := [(⟨0, 0, 0⟩, { state := 3, rows := 2, cols := 64, cmap := 1 }),
              (⟨0, 0, 1⟩, { state := 3, rows := 2, cols := 1, fmt := 8, cmap := 1, off := 64 })]
    chans := [((0, 0, 0), chanE n 1 4), ((0, 0, 1), { chanE m 1 4 with name := 8 })]
    xunits := xs }
/-- Activation 9 of it is in progress, with the choices of its first row. -/
def placing (route : List Nat) : XUnit :=
  { id := 9, eng := xe, tok := ttok 0 0 2 64 0 0 25, tok2 := some (ttok 1 1 2 route.length 8 0 25)
    img := List.replicate 512 0, route := (route ++ route).flatMap (leBytes 4) }

/-- An absent row; a first choice with credit; without credit and no second; with neither; the second with credit. -/
theorem witness_ChannelOperators_rows : (∀ y ∈ [([0x80000000], 0, 0), ([0], 0, 0), ([0], 16, 0), ([0, 1], 16, 16), ([0, 1], 16, 0)],
    let x := placing y.1; let s := dispatchAt y.2.1 y.2.2 [x]
    (xunitAt s xe 1 0x1D).any (fun z => decide (z.2 = x ∧ dispatchBehind s x = false ∧ x.phase = 0 ∧ x.row < tokRows x.tok ∧
      z.1.op.eng = xe ∧ dispatchChans s z.1.op = some [(0, 0, 0), (0, 0, 1)])) = true ∧
    s.xunits.find? (fun y => decide (y.id = x.id)) = some x ∧
    routeAt 8 y.1.length x.route 0 0 = (if y.1 = [0x80000000] then none else some 0) ∧
    routeAt 8 y.1.length x.route 0 1 = (if y.1.length = 2 then some 1 else none) ∧
    (heldCredit s (0, 0, 0) = 0 ↔ y.2.1 = 16) ∧ (heldCredit s (0, 0, 1) = 0 ↔ y.2.2 = 16) ∧
    recParts (getChan s (0, 0, 0)) = [0] ∧ recParts (getChan s (0, 0, 1)) = [0]) ∧
    (let s := dispatchAt 0 0 []
     xunitRoom s xe = true ∧ xunitAt s xe 0 0x1D = none ∧ xfers s xe 0x1D (fun s f =>
       match readTileTok s (f.q.l.getD {}) f.act.id, readTileTok s (f.q.r.getD {}) f.act.id with
       | .img _, .img route => (dispatchFault s f route).isNone
       | _, _ => false) = true) ∧
    (let s := dispatchAt 0 16 []; let c := getChan s (0, 0, 0); let d := getChan s (0, 0, 1)
     c.state = 1 ∧ isOpEnd c.wep { eng := xe } = true ∧ c.credit < creditOf s (0, 0, 0) ∧ creditOf s (0, 0, 1) ≤ d.credit) := by
  decide +kernel

/-- A packet of package 1 waits to be delivered: a record of channel 0, a chunk of the tile at handle 5. -/
def landing (b : PktBody) (st : Nat) : State :=
  { remote b with
    tiles := [(⟨0, 0, 5⟩, { state := st, rows := 1, cols := 4 })]
    chans := [((0, 0, 0), { state := 1, rlog := 4, wrec := 4, wep := .op { eng := ⟨1, 0, 0, 28⟩ } 0, recs := [{ ordinal := 3 }] })] }

theorem witness_ChannelOperators_lands : (let b : PktBody := .channelWrite 0 0 3 4 0 0 [1]; let k : ChanKey := (0, 0, 0)
     (∀ n ∈ [4, 3, 2], ∀ full ∈ [false, true], let s0 := landing b 1
      let s := setChan s0 k { getChan s0 k with
        wi := if full then 16 else 0, wrec := n, recs := if n = 4 then (getChan s0 k).recs else if full then (List.range 16).map fun j => { pos := j, ordinal := j + 8 } else [] }
      let c := getChan s k
      (s.inbox[0]?).any (fun p => decide (p.body = b ∧ p.hdr.dst.eng.pkg = 0 ∧ p.held = false) && sentByWriter c p &&
        (c.recs.find? (·.ordinal = 3)).all fun q => recGrants s k q && (recGate s p.hdr.src.eng.pkg k q p.id p.hdr.lid .write).isNone) = true ∧
      placed c 3 = decide (n = 4) ∧ (c.recs.find? (·.ordinal = 3)).isSome = decide (n = 4) ∧ c.state ≠ 0 ∧ s.inbox.take 0 = [] ∧
      (decide (n ≠ 3) || c.recs.all (fun q => decide (q.ordinal ≠ c.wrec)) && (match writePlace s k with
        | .ok none _ _ => !full
        | .full => full
        | _ => false)) = true)) ∧
    (∀ x ∈ [(1, 0), (0, 0), (1, 1), (3, 0)], let s := landing (.chunkWrite ⟨0, 0, 5⟩ 0 [{ chunk := x.2 }]) x.1
      let t := getTile s ⟨0, 0, 5⟩
      s.inbox.length = 1 ∧ (t.state ≠ 0 ∧ x.2 < tileChunks t ∧ chunkRefused t x.2 = false ↔ x = (1, 0))) := by decide +kernel

/-- A REDUCE of the tile at handle 0 in group 0 of n members with contributions; its activations in progress; a member on another
package or not. -/
def reduceOf (n : Nat) (cs : List Contrib) (xs : List XUnit) (peer : Bool := false) : State :=
  { xfer0 (mt 0x1E 1 0 0 [0] 25) { l := some (ttok 0 0 1 4 0 0 25) } dest0 with
    tiles := [(⟨0, 0, 0⟩, { state := 3, rows := 1, cols := 4, cmap := 1 }), (⟨0, 0, 5⟩, { state := if n = 0 then 3 else 1, rows := 1, cols := 4 })]
    groups := ((0, 0), { bound := true, n := n, contribs := cs }) :: if peer then [((1, 0), { bound := true, rank := 1, n := n })] else []
    packages := [(0, { lsDom := some 0 }), (1, { lsDom := some 0 })]
    straits := [(xe, { table := [{ src := 0, dst := 1 }] })]
    xunits := xs }
/-- Its contribution, and its activation 9 that waits. -/
def contrib0 : Contrib := { rows := 1, cols := 4, data := List.replicate 16 0 }
def reducing (phase : Nat) : XUnit := { id := 9, eng := xe, tok := ttok 0 0 1 4 0 0 25, dest := dest0, reduce := some 0, phase := phase }

theorem witness_Reductions : (∀ peer ∈ [false, true], ∀ out ∈ [false, true], let s := reduceOf 2 [] [] peer
      let s := if out then { s with straits := [] } else s
      xunitRoom s xe = true ∧ xunitAt s xe 0 0x1E = none ∧ xfers s xe 0x1E (fun s f => let t := f.q.l.getD {}
        let g := bits (opCfg f.r.op 0) 39 32
        decide (t.poison = false ∧ tokFmt t = opType f.r.op ∧ f.act.dests ≠ [] ∧ contributesTwice s 0 g t.tag = false ∧
          groupPeers s 0 g = if peer then [1] else []) &&
          match readTileTok s t f.act.id with
          | .img img => (sendContrib s f.r.op t g { tag := t.tag, data := img }).isSome == !(peer && out) &&
              (out || (egress s xe 1).any fun k => straitRoom s k { body := .reduce g { data := img } })
          | _ => false) = true) ∧
    (∀ n ∈ [0, 2], let s := reduceOf n [] [reducing 1]
      (xunitAt s xe 1 0x1E).any (fun y => decide (y.2.dest = dest0 ∧ tileFull s ⟨0, 0, 5⟩ = decide (n = 0) ∧ y.2.phase = 1) &&
        let out := toPort y.1 0 (xunitTile s y.2 ⟨0, 0, 5⟩ ((y.2.counts.head?).getD 0))
        refsRoom s out && emits s y.1 out) = true) ∧
    (∀ n ∈ [1, 2], let s := reduceOf n [contrib0] [reducing 0]
      (s.groups.filter fun y => decide (y.1.2 = 0) && y.2.bound).map (·.1.1) = [0] ∧
      fullRound s 0 0 0 = (if n = 1 then some [contrib0] else none) ∧
      (s.xunits.filter fun u => decide (u.eng.pkg = 0) && decide (u.reduce = some 0) && decide (u.tok.tag = 0) && decide (u.phase = 0)) = [reducing 0] ∧
      faultRoom s xe 1 = true ∧ (findOp s xe 0).isSome = true ∧ contribsAgree [contrib0] = true ∧ imageRefused s ⟨0, 0, 5⟩ = none) ∧
    ((landing (.reduce 0 contrib0) 1).inbox[0]?).map (·.body) = some (.reduce 0 contrib0) := by decide +kernel

/-! ### Witnesses: launches, streams -/

/-- A record stands in slot 0 of launch queue 0 with its seal. -/
def sealedAt (mark : Nat) : State :=
  let s := launched [] []
  { s with hbm := memWrite s.hbm 0x40040 ((bytesOfRec (rec0 0)).take 56 ++ leBytes 8 mark) }
/-- Launch 6 of graph 0, accepted, alone in the window of queue 0. -/
def accepted (r : LaunchRec) : State :=
  let s := launched [] []
  { s with launches := ((0, 6), { record := r, waitOk := true }) :: s.launches
           launchQs := [((0, 0), { set := true, base := 0x40000, log2 := 2, window := [(0, 6)] })] }

theorem witness_LaunchSteps : (∀ m ∈ [0, 1], let s := sealedAt m; let lq := getLaunchQ s (0, 0)
      lq.set = true ∧ lq.window.length < 16 ∧ (getPart s (0, lq.part)).flr = 0 ∧
      (schedRead s 0 lq.part (lq.base.toNat + 8) 8).any (fun b => decide (leNat b = 0)) = true ∧
      leastBelow 4096 (fun l => decide (l ≠ 0) && (getLaunch s (0, l)).isNone) = some 1 ∧
      let s' := coreReads (coreReads s 0 lq.part (lq.base.toNat + 8) 8) 0 lq.part (lq.base.toNat + 64) 64
      (schedRead s' 0 lq.part (lq.base.toNat + 64) 64).any (fun b => decide (field b 56 8 = m)) = true ∧
      (schedWrite s' 0 lq.part (lq.base.toNat + 8) (leBytes 8 1)).isSome = true) ∧
    startOrder s0 0 = [] ∧
    (∀ b ∈ [false, true], let r := { rec0 0 with bad := b }; let m : Nat × Launch := (6, { record := r, waitOk := true }); let s := accepted r
      startOrder s 0 = [(0, [m])] ∧ eligible s 0 0 = some [m] ∧ (getLaunchQ s (0, 0)).failing = false ∧
      memberCode s 0 m.2 = (if b then some 2 else none) ∧ (getGraph s (0, r.graph)).isSome = true ∧
      okAnd (resolveMember 0 s m) (fun v => (getLaunch v (0, 6)).isSome && (drawRoot 0 v m).isSome) = true) ∧
    ((List.range lg.ops.length).filter fun i => (lg.ops[i]?).any fun o => decide (opKind o = 0x01) && bit (opCfg o 0) 251) = [0] := by
  decide +kernel
/-- Launch 5 in a state, killed or not, with a signal event or none. -/
def ended (st : Nat) (killed sv : Bool) : State :=
  { launched [] [] with launches := [((0, 5), { record := { rec0 0 with sv := sv, sig := 0x2000 }, state := st, killed := killed })] }
theorem witness_LaunchSteps_completes : ∀ x ∈ [(1, false, false), (2, true, false), (2, false, false), (2, false, true)],
    let s := ended x.1 x.2.1 x.2.2
    (getLaunch s (0, 5)).any (fun l => decide (l.state = x.1 ∧ l.killed = x.2.1 ∧ l.record.sv = x.2.2) &&
      decide ((getThr s (trapThread 0 l.record)).part = l.part) && match translateOpen s (qmEng 0 0) l.part .op .atomic l.record.sig.toNat with
        | .hbm g => g == 0x2000
        | _ => false) = true ∧
    writesPending s 0 5 = false ∧ workPending s 0 5 = false ∧ s.allocWait = [] ∧ s.hbm.wf = true ∧ s.l0.wf = true ∧
    s.hostMem.wf = true := by decide +kernel

/-- The command c in slot 0 of port 0 of an element of page 0, another in slot 0 of port 0 of a second element; tiles stand
at handle 0 of page 0 in state st, and requests are out. -/
def cmds (a : Nat) (c : StreamCmd) (b : Nat) (d : StreamCmd) (st : Nat) (lanes : Nat) (reqs : List Req := []) : State :=
  { withTlb s0 he with
    tiles := [(⟨0, 0, 0⟩, { state := st, rows := 1, cols := 64, cmap := 1 })]
    streams := [((⟨0, 0, 0, a⟩, 0), { slots := [(0, c)] }), ((⟨0, 0, 0, b⟩, 0), { slots := [(0, d)] })]
    lanes := (List.range lanes).map fun k => ((0, 0, 16 + b, k), 99)
    reqs := reqs }
/-- A command of 16 bytes of a tile, or of HBM at 0x2000. -/
def made (a phase : Nat) (consumes : Bool) (peer : Nat) : StreamCmd :=
  { id := if consumes then 8 else 7, base := if a = 24 then 0x2000 else 0, ext := [4, 1, 1, 1], strides := [0, 0, 0]
    consumes := consumes, phase := phase, peer := peer }
/-- Memory tile 12 of page 0. -/
def m12 : Eng := ⟨0, 0, 0, 12⟩

theorem witness_StreamSteps : (∀ x ∈ [(12, 3, false), (12, 0, false), (24, 3, false), (12, 3, true), (24, 3, true)],
      let c := made x.1 (if x.2.2 then 1 else 2) x.2.2 13; let s := cmds x.1 c 13 {} x.2.1 0; let e : Eng := ⟨0, 0, 0, x.1⟩
      s.hbm.wf = true ∧ s.l0.wf = true ∧ s.hostMem.wf = true ∧ cmdAt s (e, 0) 0 = some c ∧ c.held = false ∧ mayBegin (getPort s (e, 0)) e c = true ∧
      (x.1 ≠ 24 → ((getTile s (cmdTile e c)).state ≠ 0 ∧ cmdInTile s e c = true ↔ x.2.1 = 3)) ∧
      (x.1 = 24 → okAnd (cmdPieces s e c) (fun _ => true) = true)) ∧
    (∀ n ∈ [7, 8], let c := made 12 1 false 13; let s := cmds 12 c 13 {} 3 n
      cmdAt s (m12, 0) 0 = some c ∧ mayBegin (getPort s (m12, 0)) m12 c = true ∧ portOf 0 13 = some (⟨0, 0, 0, 13⟩, 0) ∧
      let ls := routeLinks m12 ⟨0, 0, 0, 13⟩; let l := takeLanes 0 7 ls s.lanes
      ls.all (hasLane l 0 7) = decide (n = 7)) := by decide +kernel
/-- A producer that has no burst under way, and the consumer it feeds, or none that has begun. -/
theorem witness_StreamSteps_bursts : (∀ p ∈ [1, 3], let c := made 12 3 false 24; let d := made 24 p true 12; let s := cmds 12 c 24 d 3 0
      cmdAt s (m12, 0) 0 = some c ∧ portOf 0 24 = some (he, 0) ∧ consumerOf s 0 (he, 0) (m12, 0) = (if p = 3 then some (0, d) else none) ∧
      (match cmdRead s m12 c 16 with | .ok (some _) => true | _ => false) = true) ∧
    (let c := made 24 3 false 12; let d := made 12 3 true 24; let s := cmds 24 c 12 d 3 0
     cmdAt s (he, 0) 0 = some c ∧ portOf 0 12 = some (m12, 0) ∧ consumerOf s 0 (m12, 0) (he, 0) = some (0, d) ∧
      okAnd (cmdPieces s he c) (fun ps => (sectorReads (slicePieces ps 0 16)).all fun p => decide ((ownerOf p.addr).pkg = 0)) = true) := by
  decide +kernel
/-- A request of a command. -/
def sreq (e : Eng) (id : Nat) (st : ReqSt) : Req := { id := 9, from_ := .stream e id, st := st }
/-- The burst of a producer: 16 bytes for slot 0 of a port. -/
def burst16 (to_ : Eng) (data : Option (List Byte)) (writing : Bool) : BurstRun := { port := (to_, 0), peer := 8, n := 16, data := data, writing := writing }

theorem witness_StreamSteps_moves : (∀ st ∈ [ReqSt.queued, .done], let r := sreq he 7 st
      let c := { made 24 3 false 12 with burst := some (burst16 m12 none false) }; let d := made 12 3 true 24; let s := cmds 24 c 12 d 1 0 [r]
      cmdAt s (he, 0) 0 = some c ∧ cmdAt s (m12, 0) 0 = some d ∧ d.id = 8 ∧ s.reqs.filter (ofCmd he 7) = [r] ∧ r.denied = false ∧ r.bad = false) ∧
    (let bs := List.replicate 16 1; let c := { made 24 3 false 12 with burst := some (burst16 m12 (some bs) false) }; let d := made 12 3 true 24
     let s := { cmds 24 c 12 d 1 0 with tiles := [(⟨0, 0, 0⟩, { state := 1, rows := 1, cols := 64 })] }
     cmdAt s (he, 0) 0 = some c ∧ cmdAt s (m12, 0) 0 = some d ∧ okAnd (cmdWrite s m12 d bs) (fun _ => true) = true) ∧
    (∀ x ∈ [(false, ReqSt.done), (true, .queued), (true, .done)], let r := sreq he 8 x.2
      let c := { made 12 3 false 24 with burst := some (burst16 he (some (List.replicate 16 1)) x.1) }; let d := made 24 3 true 12
      let s := cmds 12 c 24 d 3 0 [r]
      cmdAt s (m12, 0) 0 = some c ∧ cmdAt s (he, 0) 0 = some d ∧ s.reqs.filter (ofCmd he 8) = [r] ∧ r.denied = false ∧
      okAnd (cmdPieces s he d) (fun ps => (sectorParts (slicePieces ps 0 16)).all fun p => decide ((ownerOf p.2.addr).pkg = 0)) = true) := by
  decide +kernel

/-! ### Witnesses: time, links, the host and the package -/

/-- Package 0 at device time n with launch 5 of graph 0 in its window, quiet since time 0 or not, and a wheel. -/
def timed (n : Nat) (quiet : Option Nat) (ents : List TimerEnt) : State :=
  let s := launched [] []
  { s with
    packages := [(0, { time := n })]
    launches := [((0, 5), { record := rec0 0, state := 1, root := some 0, quiet := quiet, sampled := if quiet.isSome then n else 0 })]
    wheels := [((0, 0), { boundary := 20, ents := ents })] }
/-- A due TWSET of T0, which sets its event bit or injects into SOURCE 0 for launch 5 or for none. -/
def due (d : Option InjDesc) : State := timed 40 none [{ due := 30, fire := true, what := .twset t0 d }]

/-- A launch is to be sampled at 1000. -/
theorem witness_TimeSteps_clock : ∀ n ∈ [0, 1000], (getPkg (timed n none []) 0).time = n ∧
    timeStops { timed n none [] with launches := [((0, 5), { record := rec0 0, state := 1 })] } 0 = [1000] := by decide +kernel
theorem witness_TimeSteps : (getWheel (timed 29 none []) (0, 0)).boundary = 20 ∧ (getPkg (timed 29 none []) 0).time / 10 * 10 = 20 ∧
    (getPkg (timed 30 none []) 0).time / 10 * 10 = 30 ∧ dueEnt (timed 29 none []) 0 0 0 = none ∧
    (dueEnt (due none) 0 0 0).map (·.what) = some (.twset t0 none) ∧
    (∀ l ∈ [5, 6], ∀ full ∈ [false, true], let d : InjDesc := { lid := l }
      let s := modCol (due (some d)) {} fun c => if full then { c with live := 2 ^ 24 - 1 } else c
      (dueEnt s 0 0 0).any (fun x => decide (x.what = .twset t0 (some d)) &&
        let u := (fresh (touchTwset (dropEnt s 0 0 x) 0 (some d))).2
        (injectFull u 0 d == full) && match inject u 0 (getThr s t0).part d s.nextId with
        | .ok _ => l == 5
        | .error _ => l == 6) = true) := by decide +kernel

/-- Graph 0 has one page and is to move to the page below; its set is at rest or not. -/
def toMove (rest : Bool) (ops : List Op := lg.ops) : State :=
  { s0 with
    graphs := [((0, 0), { lg with ops := ops, frozen := rest, freezing := !rest, moveTo := some [(0, 4, 0)] })]
    inFlight := if rest then [] else [tok 0 3 0] }

theorem witness_TimeSteps_moves : (planned s0 0).any (fun p => decide (p.1.2 = 0)) = false ∧
    (∀ r ∈ [false, true], (match planned (toMove r) 0 with
      | [(k, g, _)] => k == (0, 0) && (atRest (toMove r) k g == r) && decide ((saveSet (toMove r) k g).key = k)
      | _ => false) = true) ∧
    (match planned (toMove true) 0 with
      | [(k, g, r)] => (restoreSet (liftSet (toMove true) k g) (saveSet (toMove true) k g) k r).isSome
      | _ => false) = true := by decide +kernel
/-- Three delay lines of 512 KiB have no room on one memory tile. -/
theorem witness_TimeSteps_moves_noRoom : let s := toMove true (List.replicate 3 (mt 0x15 3 0 (7 * 2 ^ 60) [0]))
    (match planned s 0 with
      | [(k, g, r)] => k == (0, 0) && atRest s k g && (restoreSet (liftSet s k g) (saveSet s k g) k r).isNone
      | _ => false) = true := by decide +kernel

/-- A CHW of launch 5 waits in its row for channel 0, which is full and may grow by a segment of the partition's pool. -/
def fullChan : State :=
  let s := timed (10 ^ 6) (some 0) []
  let o := mt 0x1C 1 0 0 [0] 25
  let s := modEng s xe fun x => { x with rows := [{ lid := 5, l := some (tok 0 2 9 25) }] }
  let s := { s with
    graphs := [((0, 0), { lg with ops := [o, sinkOp] })]
    allocWait := [{ eng := xe }]
    partitions := [((0, 0), { live := true, ranges := [(0, hbmSize)], pools := [(0, { segBase := 0x100000, segs := 4 })] })] }
  modChan (chanOp 16 1 4 s) (0, 0, 0) fun c => { c with cap := 2, full := true }

theorem witness_TimeSteps_samples : (∀ a ∈ [false, true], ∀ h ∈ [false, true], ∀ n ∈ [999, 1000],
      let s := timed n none []; let s := modLaunch s (0, 5) fun l => { l with activity := a, half := h }
      (getLaunch s (0, 5)).any (fun l => decide (l.state = 1 ∧ l.activity = a ∧ launchFrozen s 0 l = false ∧ l.half = h ∧
        (l.sampled + 1000 ≤ (getPkg s 0).time ↔ n = 1000))) = true) ∧
    (∀ n ∈ [19999, 20000], ∀ ep ∈ [false, true], let s := modLaunch (timed n (some 0) []) (0, 5) fun l => { l with episode := ep }
      (match (gangOf s 0 5).filter (fun m => decide (m.2.state = 1)) with
       | [m] => (windowPassed s 0 m.2 == decide (n = 20000)) && !launchFrozen s 0 m.2 && decide (fullChans s 0 [m.1] = []) && (m.2.episode == ep) &&
           decide (leastBelow 64 (fun i => (tfind (0, homeDie s 0 m.2, i) s.qmReports).isNone) = some 0)
       | _ => false) = true) ∧
    (match (gangOf fullChan 0 5).filter (fun m => decide (m.2.state = 1)) with
     | [m] => windowPassed fullChan 0 m.2 && !launchFrozen fullChan 0 m.2 && decide (fullChans fullChan 0 [m.1] = [(0, 0, 0)])
     | _ => false) = true ∧
    (let c := getChan fullChan (0, 0, 0)
     c.nseg < c.cap ∧ (match poolAlloc fullChan (0, 0, 0) c with | .ok _ _ => true | _ => false) = true) := by decide +kernel

/-- The strait engines of packages 0 and 1 that a cable joins, and package 2's. -/
def sa : Eng := ⟨0, 0, 0, 25⟩
def sb : Eng := ⟨1, 0, 0, 25⟩
/-- Route domain 0 of packages 0 and 1 at milestone 1; engine a of package 0, an entry of its table, packets on the way. -/
def fabric (a : Strait) (ps : List Pkt) : State :=
  { s0 with
    cables := [(sa, sb)]
    packages := [(0, { routeDom := some 0, milestone := 1, time := 16000 }), (1, { routeDom := some 0, milestone := 1 })]
    slotTabs := [(sa, { slot := if a.notified then 1 else 16000 / 32 + 1, grant := .part 0 }), (sb, { slot := 1, grant := .part 0 })]
    straits := [(sa, a)]
    packets := ps }
/-- A packet from a to package 1, or to package 0, with its body, place and header. -/
def pkt (at_ : Eng) (link : Bool) (body : PktBody) (hdr : Token) : Pkt := { hdr := hdr, body := body, src := sa, at_ := at_, link := link, id := 7 }
def toB (hops seq : Nat) : Token := { dst := { eng := ⟨1, 0, 0, 0⟩ }, src := { eng := sa }, hops := hops, seq := seq }

/-- A hit on bit 0 of a header flit's CRC. -/
def crcHit : BitVec 512 := BitVec.ofNat 512 (2 ^ 480)
theorem crcHit_low : crcHit.toNat % 2 ^ 480 = 0 ∧ crcHit ≠ 0 := by decide +kernel
theorem flit_good (p : Pkt) (h : p.flits = 0) : flitGood p (flitOf p p.flits ^^^ 0#512) = true := by
  have q : flitOf p p.flits = headerFlit (packetHeader p) := by rw [h]; rfl
  rw [BitVec.xor_zero, flitGood, q, headerFlit_good]
  simp
theorem flit_hit (p : Pkt) (h : p.flits = 0) : flitGood p (flitOf p p.flits ^^^ crcHit) = false := by
  have q : flitOf p p.flits = headerFlit (packetHeader p) := by rw [h]; rfl
  rw [q, flitGood, noisy_hcrc _ _ (headerFlit_good _) crcHit_low.1 crcHit_low.2, h]
  rw [decide_eq_false (fun x : (0 : Nat) ≠ 0 => x rfl), Bool.or_false, Bool.and_false]
/-- A token on the link to package 1. -/
def onLink : Pkt := pkt sb true .token (toB 3 0)
theorem witness_LinksAndPackets_flits : incoming s0 sb = none ∧ incoming (fabric {} [onLink]) sb = some (0, onLink) ∧
    (getStrait (fabric {} [onLink]) sb).resends = 0 ∧ (getStrait (fabric {} [onLink]) sb).dead = false ∧
    (getStrait (fabric { resends := 9 } []) sa).resends = 9 := by decide +kernel
theorem witness_LinksAndPackets_noise : flitGood onLink (flitOf onLink onLink.flits ^^^ 0#512) = true ∧
    flitGood onLink (flitOf onLink onLink.flits ^^^ crcHit) = false := ⟨flit_good onLink rfl, flit_hit onLink rfl⟩
/-- A header comes back from its bits; CRC-32C of the digits 1 to 9, the check value of its public definition. -/
theorem test_headers : (let t : Token := { tok 2 1 77 with tag := 5, lid := 5, part := 3, agid := 4095, poison := true, seq := 7,
                                                           residue := 65534, hops := 9, path := 4095, vc := 2, rsv := 2 ^ 40 + 13 }
      flitToken (BitVec.ofNat 512 (headerBits t)) = t) ∧
    crc32c [0x31, 0x32, 0x33, 0x34, 0x35, 0x36, 0x37, 0x38, 0x39] = 0xE3069283#32 := by decide +kernel
theorem witness_LinksAndPackets : (∀ n ∈ [8, 9], let s := fabric { resends := n } []
      (getStrait s sa).resends = n ∧ sa.elem = 25 ∧ (getStrait s sa).dead = false ∧ cablePeer s sa = some sb) ∧
    ((getStrait (fabric { dead := true } []) sa).dead = true ∧ he.elem ≠ 25 ∧ (getStrait s0 he).dead = false) ∧
    (∀ b ∈ [false, true], let s := fabric { notified := b } []
      let ps := domainPkgs s 0
      ps.any (· < 0) = false ∧ ps.any (· < 1) = true ∧ changeDue s ps = b ∧ [1, 2, 3].find? (fun k => setAvoids s ps ((1 + k) % 4)) = some 1) ∧
    (older (getStrait (fabric { milestone := 1 } []) sa).milestone 1 = false ∧ older (getStrait (fabric {} []) sa).milestone 1 = true ∧
      (getStrait (fabric {} []) sa).retry = [] ∧ (getPkg (fabric {} []) sa.pkg).routeDom = some 0) := by decide +kernel
/-- A packet that waits in the engine of its cable, whose slot is granted or not; on the link, come whole or not. -/
theorem witness_LinksAndPackets_leaves : (∀ d ∈ [false, true], ∀ n ∈ [false, true], let p := pkt sa false .token (toB 3 0)
      let s := fabric { dead := d, notified := n } [p]
      s.packets[0]? = some p ∧ atTerminal p = false ∧ older p.hdr.milestone (getStrait s sa).milestone = false ∧
      (getStrait s p.at_).dead = d ∧ slotGrants s p.at_ p.hdr.part = !n ∧ cablePeer s p.at_ = some sb ∧ (getPkg s sb.pkg).off = false) ∧
    (∀ n ∈ [0, 1], let p := { pkt sb true .token (toB 3 0) with flits := n }; let s := fabric {} [p]
      s.packets[0]? = some p ∧ atTerminal p = false ∧ p.link = true ∧ (pktFlits p ≤ p.flits ↔ n = 1)) := by decide +kernel
/-- Strait engine sc of package 1 knows the way from package 0 and back: port 0, path 0. -/
def sc : Eng := ⟨1, 1, 0, 25⟩
def routed (m : Nat) : State := { s0 with straits := [(sc, { milestone := m, table := [{ src := 0, dst := 1 }, { src := 1, dst := 0 }] })] }
/-- A packet under milestone 0 at an engine that has adopted 1, in the source's package and in another. -/
theorem witness_LinksAndPackets_stale : (∀ e ∈ [sa, { sa with page := 1 }], ∀ seq ∈ [none, some 5],
      let p := pkt e false (if seq = none then .token else .answer 5 false) (toB 3 0)
      atTerminal p = false ∧ p.link = false ∧ older p.hdr.milestone 1 = true ∧ isAnswer p = seq.isSome ∧
      (p.at_ = p.src ↔ e = sa) ∧ p.at_.pkg = p.src.pkg) ∧
    (let p := { pkt sc true .token (toB 3 0) with flits := 1 }; let s := { routed 1 with packets := [p] }
     s.packets[0]? = some p ∧ p.at_ ≠ p.src ∧ atTerminal p = false ∧ pktFlits p ≤ p.flits ∧ p.hdr.hops < 64 ∧
     older p.hdr.milestone (getStrait s sc).milestone = true ∧ p.at_.pkg ≠ p.src.pkg ∧
     pathNum (getStrait s sc) 1 0 (getStrait s sc).milestone ≠ none) := by decide +kernel
/-- It has come whole: with 64 hops, under a newer milestone, off its route, and on it, an answer too. -/
theorem witness_LinksAndPackets_arrives : (∀ h ∈ [64, 255], let p := { pkt sc true .token (toB h 0) with flits := 1 }
      atTerminal p = false ∧ p.link = true ∧ pktFlits p ≤ p.flits ∧ 64 ≤ p.hdr.hops) ∧
    (∀ x ∈ [(1, 0, false), (0, 1, false), (0, 0, false), (0, 0, true)], let b : PktBody := if x.2.2 then .answer 5 true else .token
     let p := { pkt sc true b { toB 63 0 with milestone := x.1, path := x.2.1 } with flits := 1 }; let s := { routed 0 with packets := [p] }
     s.packets[0]? = some p ∧ p.hdr.hops < 64 ∧ pktFlits p ≤ p.flits ∧ atTerminal p = false ∧ isAnswer p = x.2.2 ∧
      older p.hdr.milestone (getStrait s sc).milestone = false ∧ p.at_.pkg = p.hdr.dst.eng.pkg ∧
      older (getStrait s sc).milestone p.hdr.milestone = decide (x.1 = 1) ∧
      (x.1 = 0 → onRoute s sc p = if x.2.1 = 0 then some 0 else none) ∧
      (x.1 = 0 → x.2.1 = 0 → pathNum (getStrait s sc) p.src.pkg p.hdr.dst.eng.pkg p.hdr.milestone = some (0, p.hdr.path))) := by decide +kernel
/-- At most 6 hops lead from a switch to another of its die. -/
theorem meshHops_length : ∀ n a b, (meshHops n a b).length ≤ n
  | 0, _, _ => Nat.le_refl 0
  | n + 1, a, b => by
    simp only [meshHops]
    split
    · exact Nat.succ_le_succ (meshHops_length n _ b)
    · exact Nat.zero_le _
/-- Within its die no packet of 3 hops reaches 64. -/
theorem witness_LinksAndPackets_hops (seq : Nat) :
    (addHops (toB 3 seq) (switchesBetween sb (toB 3 seq).dst.eng)).hops < 64 := by
  have h := meshHops_length 6 (switchOf ⟨1, 0, 0, 25⟩) (switchOf ⟨1, 0, 0, 0⟩)
  simp only [addHops, switchesBetween, routeLinks, toB, sb, dieLinks, if_true]
  rw [List.length_append, List.length_map]
  simp only [List.length_cons, List.length_nil]
  exact Nat.lt_of_le_of_lt (Nat.min_le_right 255 _) (by omega)
/-- At its terminal engine: off its route; on it, in turn, of a bad header, already passed on, and too far ahead. -/
theorem witness_LinksAndPackets_ends : (∀ x ∈ [(0, PktBody.token, 1), (0, .reduce 0 {}, 5), (0, .reduce 0 {}, 4), (2 ^ 32 - 1, .token, 1), (2 ^ 31, .token, 1), (256, .token, 1),
        (2 ^ 31 - 1, .token, 1)], ∀ on ∈ [false, true],
      let p := pkt sb false x.2.1 { toB 3 x.1 with kind := x.2.2 }
      let s := { fabric {} [p] with straits := if on then [(sb, { table := [{ src := 0, dst := 1 }, { src := 1, dst := 0 }] })] else [] }
      let w := tget {} (p.src, p.hdr.dst.eng.pkg) (getStrait s (terminalOf p)).term; let k := (p.hdr.seq + 2 ^ 32 - w.e) % 2 ^ 32
      s.packets[0]? = some p ∧ atTerminal p = true ∧ older p.hdr.milestone (getStrait s (terminalOf p)).milestone = false ∧
      older (getStrait s (terminalOf p)).milestone p.hdr.milestone = false ∧ w.win = [] ∧ (x.2.1 ≠ .token → (headerBad p = true ↔ x.2.2 = 4)) ∧
      p.hdr.hops < 64 ∧ (onRoute s (terminalOf p) p).isSome = on ∧
      (terminalOf p).pkg ≠ p.src.pkg ∧ (on = true → pathNum (getStrait s (terminalOf p)) 1 0 0 ≠ none) ∧
      ((p.hdr.seq = w.e ∧ x.1 = 0) ∨ (2 ^ 31 ≤ k ∧ 2 ^ 31 ≤ x.1) ∨ (256 ≤ k ∧ k < 2 ^ 31 ∧ 256 ≤ x.1 ∧ x.1 < 2 ^ 31))) ∧
    (∀ n ∈ [0, 1], ∀ ws ∈ [[], [pkt sa false .token (toB 3 0)]], let r : Retry := { pkt := pkt sa false .token (toB 3 5), sent := n }
      let s := { fabric { retry := [r], waiting := ws } [] with acks := [{ dest := sa, dpkg := 1, seq := 5 }], nacks := [{ dest := sa, dpkg := 1, seq := 5 }] }
      s.acks.length = 1 ∧ s.nacks.length = 1 ∧ answered s { dest := sa, dpkg := 1, seq := 5 } = some r ∧ (getStrait s sa).waiting = ws ∧
      ws.all (retryRoom { getStrait s sa with retry := [] }) = true ∧
      (getStrait s sa).retry.find? (fun x => decide (x.pkt.id = r.pkt.id)) = some r ∧ (getStrait s sa).retry[0]? = some r ∧
      ((getPkg s 0).time < r.sent + 16000 ↔ n = 1)) := by decide +kernel

/-- The command c heads function fn's ring; partition 1 is live or not; bytes stand in HBM at 0x2000. -/
def cmdS (fn : Nat) (c : Cmd) (live : Bool := true) (flr : Nat := 0) (bs : List Byte := []) : State :=
  { s0 with
    hbm := memWrite s0.hbm 0x2000 bs
    partitions := ((0, 1), { live := live, flr := flr }) :: s0.partitions
    fns := [((0, fn), { cmds := [c], zring := 0x10000 })] }
/-- A command of an op with its args from byte 8, its data at 0x2000. -/
def cmd (op : Nat) (args : List (Nat × Nat × Nat)) (buf : Word := 0x2000) : Cmd :=
  { op := op, buf := buf, done := 2 ^ 40, cookie := 9
    args := args.foldl (fun b a => b.take (a.1 - 8) ++ leBytes a.2.1 a.2.2 ++ b.drop (a.1 - 8 + a.2.1)) (List.replicate 32 0) }
/-- It heads its ring, and R406 does not refuse it. -/
def heads (fn : Nat) (c : Cmd) : Bool := (cmdRefusal fn c).isNone && decide ((getFn (cmdS fn c) (0, fn)).cmds = [c]) && knownOps.contains c.op

theorem witness_HostCommands : fnOpen s0 0 0 = true ∧ fnOpen s0 0 1 = false ∧
    (let w := coreWalks s0 0 0 (pagePieces (2 ^ 33) 8); errAnd (translateRange w (qmEng 0 0) 0 .op .read (2 ^ 33) 8) (fun _ => true) = true) ∧
    (let w := coreWalks s0 0 0 (pagePieces 0x2000 8)
     okAnd (translateRange w (qmEng 0 0) 0 .op .read 0x2000 8) (fun ps => !(readPieces w ps).2.1) = true ∧
     okAnd (translateRange w (qmEng 0 0) 0 .op .write 0x2000 8) (fun ps => match ps with
      | [(.hbm g, 8)] => g == 0x2000
      | _ => false) = true) ∧
    (∀ m ∈ [0, 1], let s := { s0 with fns := [((0, 0), { zring := 0x10000 })], hbm := memWrite s0.hbm 0x10040 (leBytes 2 1 ++ leBytes 54 0 ++ leBytes 8 m) }
      let u := svcReads (svcReads s 0 0 0x10008 8) 0 0 0x10040 64
      fnEnabled s 0 0 = true ∧ ringBase s 0 0 = 0x10000 ∧ (svcRead s 0 0 0x10008 8).any (fun b => decide (leNat b = 0)) = true ∧
      (svcRead u 0 0 0x10040 64).any (fun b => decide (field b 56 8 = m) && knownOps.contains (field b 0 2)) = true ∧
      (svcWrite u 0 0 0x10008 (leBytes 8 1)).isSome = true ∧ windowOk s 0 0 (ringBase s 0 0) = true ∧
      okAnd (translateRange s (qmEng 0 0) 0 .copy .write 0x2000 16) (fun ps => match ps with
        | [(.hbm g, 16)] => g == 0x2000
        | _ => false) = true) ∧
    cmdRefusal 1 (cmd 0x10 [(8, 1, 1)]) = some (errWord 0x0A) ∧
    (let s := { s0 with fns := [((0, 0), { zring := 2 ^ 40 })] }; windowOk s 0 0 (ringBase s 0 0) = false) ∧
    s0.hbm.wf = true ∧ s0.l0.wf = true ∧ s0.hostMem.wf = true := by decide +kernel

theorem witness_PartitionCommands : ([cmd 0x10 [(8, 1, 1)], cmd 0x14 [(8, 1, 1), (16, 8, 0x8000000), (28, 4, 1)], cmd 0x16 [(8, 1, 1), (9, 1, 3), (10, 1, 3), (12, 4, 2), (16, 1, 1)],
      cmd 0x15 [(8, 1, 1), (9, 1, 1), (16, 8, 0), (24, 4, 1)], cmd 0x28 [(8, 1, 1), (9, 1, 7), (16, 8, 0x3000), (24, 1, 2)],
      cmd 0x29 [(8, 1, 1), (9, 1, 3), (10, 1, 15), (16, 8, 0x3000), (24, 1, 12)], cmd 0x13 [(8, 1, 1), (10, 2, 2), (12, 1, 8), (16, 4, 4095), (20, 4, 1), (36, 1, 0)],
      cmd 0x20 [(8, 1, 3), (9, 1, 24)], cmd 0x12 [(8, 1, 1)], cmd 0x11 [(8, 1, 1)]].all (heads 0)) = true ∧
    (∀ l ∈ [false, true], let s := cmdS 0 (cmd 0x10 [(8, 1, 1)]) l
      (getPart s (0, 1)).live = l ∧ (getPart s (0, 1)).flr = 0) ∧
    (let c := cmd 0x14 [(8, 1, 1), (16, 8, 0x8000000), (28, 4, 1)]
     arg c 16 8 % 4096 = 0 ∧ arg c 16 8 < hbmSize ∧ arg c 24 4 ≤ arg c 28 4 ∧ arg c 28 4 ≤ 2 ^ 19 ∧ arg c 8 1 = 1) ∧
    (let s := { cmdS 0 {} with partitions := [((0, 1), { live := true, ranges := [(0, 2 ^ 23)] })] }
     s.allocWait = [] ∧ insideOne (getPart s (0, 1)).ranges 0 65536 = true ∧ poolShrinks (tget {} 1 (getPart s (0, 1)).pools) 0 1 0 = false) ∧
    (let s := { s0 with partitions := ((0, 1), { live := true, ranges := [(0, 2 ^ 23)], root := 0, vlimit := 2 ^ 33 }) :: s0.partitions }
     queueOf s 0 0 7 = none ∧ leastBelow 32 (fun k => !(getLaunchQ s (0, k)).set) = some 0 ∧
     (schedWrite s 0 0 0x3000 (List.replicate 16 0)).isSome = true ∧
     okAnd (runsToPieces s (qmEng 0 3) 0 .copy .write [(0x3000, 16)]) (fun _ => true) = true) ∧
    (let s := cmdS 0 {}
     (List.range 1).any (fun k => decide (barOwner s 0 0 (4095 + k) ≠ 0)) = false ∧ grantBusy s 0 0 0 [1] [3] 4095 1 0 0 = false ∧
     (getPart s (0, 0)).ranges.length ≤ 12 ∧ (getPart s (0, 1)).ranges.length ≤ 12 ∧ bitsOf 16 2 = [1] ∧ bitsOf 4 8 = [3]) ∧
    (∀ x ∈ [[], [0x83]], let s := cmdS 0 (cmd 0x20 [(8, 1, 3), (9, 1, 24)]) true 0 x
      hasSlots ⟨0, 3, 0, 24⟩ = true ∧ engExists ⟨0, 3, 0, 24⟩ = true ∧ (svcRead (svcReads s 0 0 0x2000 256) 0 0 0x2000 256).any (fun b => decide (b.length = 256) &&
        (b.any (fun x => !slotEntryOk x.toNat) == decide (x = [0x83]))) = true) ∧
    (∀ f ∈ [0, 1, 2], let s := cmdS 0 (cmd 0x12 [(8, 1, 1)]) true f
      (getPart s (0, 1)).flr = f ∧ flrDrained (flrKill s 0 1) 0 1 = true ∧
      flrDrained (flrKill { s with reqs := [{ part := 1, from_ := .load t0 0 }] } 0 1) 0 1 = false) := by decide +kernel

theorem witness_FirmwareAndDebugCommands : ([cmd 0x01 [], cmd 0x02 [], cmd 0x03 [(8, 4, 4)], cmd 0x30 [(8, 4, 1)], cmd 0x31 [(8, 4, 2), (12, 4, 3)],
      cmd 0x32 [(10, 2, 1), (12, 4, 2)], cmd 0x34 [(8, 8, 3)], cmd 0x50 [(8, 2, 1), (12, 4, 1000000)], cmd 0x58 [(8, 2, 1200)], cmd 0x58 [(8, 2, 3401)],
      cmd 0x40 [(8, 1, 1)], cmd 0x41 [(8, 1, 0), (12, 4, 252)], cmd 0x41 [(8, 1, 1), (12, 4, 125)], cmd 0x41 [(8, 1, 2), (12, 4, 98)],
      cmd 0x41 [(8, 1, 3), (12, 4, 23)], cmd 0x41 [(8, 1, 4), (12, 4, 0)] 0, cmd 0x41 [(8, 1, 5), (11, 1, 0), (10, 1, 24), (12, 4, 63)],
      cmd 0x42 [(8, 1, 0)], cmd 0x42 [(10, 1, 3), (24, 4, 0x2000)]].all (heads 0)) = true ∧
    (let s := cmdS 0 {}; bufBytes (bufReads s 0 0 (cmd 0x03 []) 4) 0 0 (cmd 0x03 []) 4 = some [0, 0, 0, 0]) ∧ domainMilestone s0 0 2 = none ∧ s0.packages = [] ∧
    throughTlb s0 0 (some 0) (some 3) = false ∧ throughTlb { s0 with reqs := [{ va := 0x6000 }] } 0 (some 0) (some 3) = true ∧
    (match readObj (launched [] []) 0 0 0x01 0 0 (cmd 0x40 [(8, 1, 1)]) with | .missing => true | _ => false) = true ∧
    (match readObj (launched [] []) 0 0 0x00 0 0 (cmd 0x40 []) with | .obj _ _ => true | _ => false) = true ∧
    stopEntryOk (leNat (List.replicate 32 (0 : Byte))) = true ∧
    (∀ n ∈ [0, 1, 2], let s := { s0 with partitions := [((0, 2), { live := true, flr := n })] }
      (readPart (cmd 0x40 [(8, 1, 0x12), (12, 4, 9)])) = some 2 ∧ inFlr s 0 2 = decide (n ≠ 0) ∧ (getPart s (0, 2)).flr = n) ∧
    (let e : Eng := ⟨0, 0, bits 98 10 7, bits 98 6 2⟩; e.elem = 24 ∧ engExists e = true) ∧
    (let e : Eng := ⟨0, 0, bits 0x72 10 7, bits 0x72 6 2⟩; e.elem = 28 ∧ engExists e = true) ∧
    (getLaunch (launched [] []) (0, 5)).isSome = true ∧ (findOp (launched [] []) (selEng 0 0 0) (bits 0 5 0)).isSome = true ∧
    (∀ h ∈ [false, true], (getThr (modThr s0 t0 fun th => { th with halted := h }) t0).halted = h) ∧
    (getThr s0 t0).loads = [] ∧ (getThr s0 t0).asyncs = [] ∧ (getThr (modThr s0 t0 fun th => { th with loads := [{}] }) t0).loads ≠ [] ∧ (getThr s0 t0).stopped = false := by decide +kernel

/-- Word 0 of a scratchpad bank, and word 0 of HBM in the bank that holds it. -/
def errs (e : Ecc) (g : Grant) : State :=
  { s0 with ecc := [(0, e)], eccL0 := [(0, e)], slotTabs := [(ownerOf 0, { slot := 1, grant := g })] }

theorem witness_PackageUpkeep_banks : scrubWord (hbmBankOf (0 * 8)) 0 = some (false, 0) := by simp [scrubWord, hbmBankOf, gpaLocal, hbmSize]
theorem witness_PackageUpkeep : elementIdle s0 ie = true ∧ engExists ie = true ∧
    elementIdle (modEng s0 ie fun x => { x with ready := [{}] }) ie = false ∧
    (let s := modEng { gs (mk 0x03 1 0 [0]) with inFlight := [tok 0 3 0] } ie fun x => { x with gated := true }
     (getEng s ie).waking = false ∧ (getEng s ie).gated = true ∧ pagePowered s ie = true ∧
      s.inFlight.any (fun t => decide (t.dst.eng = ie) && !mustCross t) = true ∧ (setOfPage s ⟨0, 0, 0, 0⟩).isSome = true) ∧
    setOfPage s0 ⟨0, 0, 0, 0⟩ = none ∧ (gs (mk 0x03 1 0 [0])).engines = [] ∧ (gs (mk 0x03 1 0 [0])).tiles = [] ∧
    scrubWord (.l0 0 0 0 0 0) 8192 = none ∧ scrubWord (.l0 0 0 0 0 0) 0 = some (true, 0) ∧ eccOf (errs .single .scrub) true 0 = .single ∧
    eccOf (errs .double .scrub) false 0 = .double ∧ granted (errs .double .none) (ownerOf 0) .scrub = false ∧
    granted (errs .double .scrub) (ownerOf (0 * 8)) .scrub = true ∧ (getMode (errs .double .scrub) (hbmBankOf (0 * 8))).mode ≠ 2 ∧
    (∀ n ∈ [999999999, 1000000000], let k := getPkg { s0 with packages := [(0, { time := n })] } 0
      (k.time < 0 + k.windowMs * 10 ^ 6 ↔ n = 999999999)) ∧
    (∀ m ∈ [0, 1], let s := { s0 with bankModes := [(.l0 0 0 0 0 0, { mode := m })] }
      (getMode s (.l0 0 0 0 0 0)).mode = m ∧ eighthFree s (.l0 0 0 0 0 0) = true ∧ badWords s (.l0 0 0 0 0 0) = []) ∧
    eighthFree s0 (.hbm 0 0 0) = false := by decide +kernel
theorem witness_PackageUpkeep_traces : (∀ x ∈ [(false, Grant.trace, 0), (false, .none, 0), (true, .none, 2048)],
      let s := { s0 with traces := [((0, 0, 0), { base := 0x10000, size := 65536, stopFull := x.1, wi := x.2.2, staged := [1] })], slotTabs := [(ownerOf 0x10000, { slot := 1, grant := x.2.1 })] }
      let c := getTraceCfg s (0, 0, 0)
      c.staged = [1] ∧ c.size ≠ 0 ∧ (c.stopFull = true ↔ traceRoom c ≤ c.wi) ∧
      (granted s (ownerOf (c.base + 32 * (c.wi % traceRoom c))) .trace = true ↔ x.2.1 = .trace) ∧ s.hbm.wf = true ∧ s.l0.wf = true ∧
      s.hostMem.wf = true) ∧
    (getTraceCfg s0 (0, 0, 0)).staged = [] ∧
    (∀ x ∈ [(3400, 94, 54), (3401, 89, 54), (0, 95, 58), (0, 110, 48), (0, 25, 47), (0, 25, 59)],
      let k := getPkg { s0 with packages := [(0, { powerW := x.1, tempC := x.2.1, inputV := x.2.2, clock := 95 })] } 0
      (k.limit < k.powerW ∨ 95 ≤ k.tempC ↔ x.1 = 3401 ∨ 95 ≤ x.2.1) ∧ (110 ≤ k.tempC ∨ k.inputV < 48 ∨ 58 < k.inputV ↔ x.2.1 = 110 ∨ x.2.2 = 47 ∨ x.2.2 = 59)) := by
  decide +kernel

/-- A step of T0 from a state whose threads and memories are in order. -/
theorem witness_TurnsKeepThreads : s0.agenda = [.issue t0] ∧ s0.Threads ∧ afterStep s0 (fun _ => true) = true := by
  refine ⟨by decide +kernel, fun k => ?_, by decide +kernel⟩
  obtain ⟨th, h, ok⟩ : ∃ th, s0.threads = [(t0, th)] ∧ th.InOrder :=
    ⟨getThr s0 t0, by decide +kernel, by unfold Thread.InOrder; decide +kernel⟩
  simp only [getThr, tget, tfind, h]
  split
  · exact ok
  · unfold Thread.InOrder; decide
theorem witness_StepsKeepMemories : s0.MemOk ∧ afterStep s0 (fun _ => true) = true := by
  unfold State.MemOk
  decide +kernel

end Sys2Proof.Tests
end

section
/-!
PROOFS. Proofs/JumpsAndBranches.lean: jumps link and continue at their target, branches continue where their test sends
them (spec/10 R224).
-/
namespace Sys2Proof.Machine

/-- R105 shifts an offset in words after extending its sign. -/
theorem ofInt_toInt_mul_four {n : Nat} (x : BitVec n) : BitVec.ofInt 64 (x.toInt * 4) = x.signExtend 64 * 4 :=
  BitVec.ofInt_mul x.toInt 4

theorem branchTarget_eq (pc : Word) (imm : Imm16) : branchTarget pc imm = pc + BitVec.ofInt 64 (imm.toInt * 4) := by
  rw [ofInt_toInt_mul_four]; rfl

theorem jalTarget_eq (pc : Word) (off : BitVec 21) : jalTarget pc off = pc + BitVec.ofInt 64 (off.toInt * 4) := by
  rw [ofInt_toInt_mul_four]; rfl

/-- A branch whose flag says that P holds is taken when P holds. -/
theorem branch_jumps_when {i : Instr} {s : State} {c : Bool} {imm : Imm16} {P : Prop} [Decidable P]
    (h : exec i s = .next (branch c imm s)) (hc : c = true ↔ P) :
    Jumps i s (if P then (curThr s).pc + BitVec.ofInt 64 (imm.toInt * 4) else (curThr s).pc + 4) :=
  branch_jumps h (by rw [branchTarget_eq]; exact if_congr hc.symm rfl rfl)

/-- A branch whose flag says that P fails is taken when P fails. -/
theorem branch_jumps_unless {i : Instr} {s : State} {c : Bool} {imm : Imm16} {P : Prop} [Decidable P]
    (h : exec i s = .next (branch (!c) imm s)) (hc : c = true ↔ P) :
    Jumps i s (if P then (curThr s).pc + 4 else (curThr s).pc + BitVec.ofInt 64 (imm.toInt * 4)) := by
  have hn : (!c) = true ↔ ¬P := by rw [Bool.not_eq_true', ← Bool.not_eq_true, hc]
  rw [← ite_not]
  exact branch_jumps_when h hn

/-- JAL links and continues at its own address plus four times its immediate. -/
theorem jal_computes (s : State) (rd : RegNo) (off : BitVec 21) :
    Computes (.jal rd off) s rd ((curThr s).pc + 4) ((curThr s).pc + BitVec.ofInt 64 (off.toInt * 4)) := by
  rw [← jalTarget_eq]
  exact link_computes rfl

/-- JALR's target is computed from the record before rd is written, so rd may name the base register. -/
theorem jalr_computes (s : State) (rd rs1 : RegNo) (imm : Imm16) :
    Computes (.jalr rd rs1 imm) s rd ((curThr s).pc + 4) (rs s rs1 + BitVec.ofInt 64 (imm.toInt * 4)) := by
  rw [← branchTarget_eq]
  exact link_computes rfl

/-- Settles O7: the two jumps link, and each of the six branches is taken when, or unless, one of the three comparisons
holds: equality, signed and unsigned order. -/
theorem jumpsAndBranches : Obligations.JumpsAndBranches := by
  intro s rd rs1 rs2 imm off
  have heq : (rs s rs1 == rs s rs2) = true ↔ rs s rs1 = rs s rs2 := beq_iff_eq
  have hslt : (rs s rs1).slt (rs s rs2) = true ↔ (rs s rs1).toInt < (rs s rs2).toInt := BitVec.slt_iff_toInt_lt
  have hult : (rs s rs1).ult (rs s rs2) = true ↔ (rs s rs1).toNat < (rs s rs2).toNat :=
    BitVec.ult_iff_lt.trans BitVec.lt_def
  exact ⟨jal_computes s rd off, jalr_computes s rd rs1 imm,
    branch_jumps_when rfl heq, branch_jumps_unless rfl heq,
    branch_jumps_when rfl hslt, branch_jumps_unless rfl hslt,
    branch_jumps_when rfl hult, branch_jumps_unless rfl hult⟩

end Sys2Proof.Machine
end

section
/-!
PROOFS. Proofs/Traps.lean: the software trap (spec/11 R262), and the return from a trap with the release of what it held
(spec/11 R264; spec/15 R333).
-/
namespace Sys2Proof.Machine

/-! ### TRAP -/

/-- Below TRAP's opcode and its two zero registers, the word is the immediate. -/
theorem packI_trap (imm : Imm16) : packI 0x1F 0 0 imm = 0x7C000000#32 + imm.zeroExtend 32 := by
  have hpack : packI 0x1F 0 0 imm = 0x7C00#16 ++ imm := rfl
  apply BitVec.eq_of_toNat_eq
  rw [hpack, BitVec.toNat_append, ← Nat.shiftLeft_add_eq_or_of_lt imm.isLt, Nat.shiftLeft_eq]
  bv_omega

theorem decode_trap (imm : Imm16) : decode (0x7C000000#32 + imm.zeroExtend 32) = .ok (.trap imm) :=
  Laws.RoundTrip.trap imm rfl _ (congrArg some (packI_trap imm))

/-- Settles O12: the word is that of the encoder, and the step is a synchronous trap of the current thread. -/
theorem trapTaken : Obligations.TrapTaken := by
  intro s imm
  refine ⟨decode_trap imm, fun he => ?_⟩
  rw [BitVec.ofNat_toNat]
  exact trapCur_takes he rfl

/-! ### Changing some entries of a list -/

/-- Where every element that meets P is changed into one that meets Q, an element of the result that meets P meets Q. -/
theorem of_mem_map_ite {α : Type} {P Q : α → Prop} [DecidablePred P] {f : α → α} {l : List α} {y : α}
    (hy : y ∈ l.map fun x => if P x then f x else x) (hf : ∀ x, Q (f x)) (hp : P y) : Q y := by
  obtain ⟨x, -, rfl⟩ := List.mem_map.1 hy
  by_cases hx : P x
  · rw [if_pos hx]; exact hf x
  · rw [if_neg hx] at hp; exact absurd hp hx

@[simp] theorem tfind_tdel_same {κ α : Type} [DecidableEq κ] (k : κ) (t : Tbl κ α) : tfind k (tdel k t) = none := by
  induction t with
  | nil => rfl
  | cons p t ih =>
    unfold tdel at ih ⊢
    by_cases h : p.1 = k
    · rw [List.filter_cons_of_neg (by simp [h])]; exact ih
    · rw [List.filter_cons_of_pos (by simp [h]), tfind, if_neg h]; exact ih

/-! ### What a trap held is released (R333) -/

/-- The release of held work touches the places where it stands: no thread, no walk and no memory. -/
theorem releaseHeld_eq (s : State) (h : Held) : ∃ aw en rq ib wh st qm, releaseHeld s h =
    { s with allocWait := aw, engines := en, reqs := rq, inbox := ib, watchHolds := wh, streams := st, qmReports := qm } := by
  cases h <;> exact ⟨_, _, _, _, _, _, _, rfl⟩

theorem releaseHeld_act {s : State} {e : Eng} {slot vrow : Nat} :
    ∀ w ∈ (releaseHeld s (.act e slot vrow)).allocWait, w.eng = e → w.slot = slot → w.vrow = vrow → w.held = false :=
  fun _ hw he hs hv => of_mem_map_ite (Q := fun w => w.held = false) hw (fun _ => rfl) ⟨he, hs, hv⟩

theorem releaseHeld_token (s : State) (e : Eng) (k : Token) : (getEng (releaseHeld s (.token e k)) e).ovf = false :=
  congrArg Engine.ovf (getEng_setEng s e _)

theorem releaseHeld_xlate (s : State) (e : Eng) (a : Act) :
    (getEng (releaseHeld s (.xlate e a)) e).unit = (getEng s e).unit ++ [a] :=
  congrArg Engine.unit (getEng_setEng s e _)

theorem releaseHeld_report (s : State) (pkg die n : Nat) :
    tfind (pkg, die, n) (releaseHeld s (.report pkg die n)).qmReports = none :=
  tfind_tdel_same _ _

section request
variable {s : State} {n : Nat}

theorem releaseHeld_reqs : ∀ r ∈ (releaseHeld s (.request n)).reqs, r.id = n →
    r.unfiltered = true ∧ r.st = if s.inbox.any (carriesReq n) then .away else .queued :=
  fun _ hr hn => of_mem_map_ite (P := fun r : Req => r.id = n)
    (Q := fun r : Req => r.unfiltered = true ∧ r.st = if s.inbox.any (carriesReq n) then .away else .queued)
    hr (fun _ => ⟨rfl, rfl⟩) hn

theorem releaseHeld_watchHolds : ∀ h ∈ (releaseHeld s (.request n)).watchHolds, h.id = n → h.held = false :=
  fun _ hh hn => of_mem_map_ite (P := fun h : WatchHold => h.id = n) (Q := fun h => h.held = false) hh (fun _ => rfl) hn

theorem releaseHeld_inbox : ∀ p ∈ (releaseHeld s (.request n)).inbox, p.id = n → p.held = false :=
  fun _ hp hn => of_mem_map_ite (P := fun p : Pkt => p.id = n) (Q := fun p => p.held = false) hp (fun _ => rfl) hn

theorem releaseHeld_streams : ∀ p ∈ (releaseHeld s (.request n)).streams, ∀ c ∈ p.2.slots, c.2.id = n → c.2.held = false := by
  intro p hp c hc hn
  obtain ⟨q, -, rfl⟩ := List.mem_map.1 hp
  obtain ⟨d, -, rfl⟩ := List.mem_map.1 hc
  by_cases hd : d.2.id = n
  · simp only [if_pos hd]
  · simp only [if_neg hd] at hn; exact absurd hn hd

end request

/-! ### ERET -/

/-- The record of a thread that has returned from its trap (R264): the watchpoint trap's access passes once (R333). -/
def resumed (th : Thread) : Thread :=
  { th with pc := th.epc, ae := th.cause.getLsbD 18, ht := false, held := .none,
            pass := if th.cause.toNat % 65536 = 0x000E then th.watched else 0 }

theorem touch_eq (s : State) (pkg lid : Nat) : ∃ ls, touch s pkg lid = { s with launches := ls } := by
  unfold touch modLaunch
  split <;> exact ⟨_, rfl⟩

theorem forgetFaults_walks {s : State} {pkg : Nat} : ∀ w ∈ (forgetFaults s pkg).walks, w.pkg = pkg → w.fault = 0 := by
  intro w hw hp
  simpa [hp] using (List.mem_filter.1 hw).2

/-- A returning thread's state before the release: the thread is resumed, its package's failed walks are forgotten, and the
launches are ls. -/
def beforeRelease (s : State) (t : Tid) (ls : Tbl (Nat × Nat) Launch) : State :=
  { modThr s t resumed with walks := (forgetFaults s t.pkg).walks, launches := ls }

/-- A return releases what the trap held; launches change, by their activity, only where it held work (R337). -/
theorem trapReturn_eq (s : State) (t : Tid) : ∃ ls,
    trapReturn s t = releaseHeld (beforeRelease s t ls) (getThr s t).held ∧
    (holdsWork (getThr s t).held = false → ls = s.launches) := by
  have hr : trapReturn s t = releaseHeld (forgetFaults
    (if holdsWork (getThr s t).held then touch (modThr s t resumed) t.pkg (getThr s t).heldLid else modThr s t resumed)
    t.pkg) (getThr s t).held := rfl
  cases hw : holdsWork (getThr s t).held with
  | false => exact ⟨s.launches, by rw [hr, hw]; rfl, fun _ => rfl⟩
  | true =>
    obtain ⟨ls, hl⟩ := touch_eq (modThr s t resumed) t.pkg (getThr s t).heldLid
    exact ⟨ls, by rw [hr, hw, if_pos rfl, hl]; rfl, fun h => nomatch h⟩

theorem execEret_returns {s : State} (h : (curThr s).ht = true) : exec .eret s = .next (trapReturn s s.cur) :=
  congrArg Host.Outcome.next (if_pos h)

theorem execEret_illegal {s : State} (h : (curThr s).ht = false) :
    exec .eret s = .next (syncTrap s s.cur 0x0001 0x80000002 (curThr s).pc) :=
  congrArg Host.Outcome.next (if_neg (ne_true_of_eq_false h))

/-- Settles O13: what a return leaves alone is said for whatever the trap held; each kind of held work then goes on from the
state in which the thread has resumed. -/
theorem eretReturns : Obligations.EretReturns := by
  refine ⟨Laws.RoundTrip.eret rfl _ rfl, fun s => ⟨fun hht => ?_, fun hht he => trapCur_takes he (execEret_illegal hht)⟩⟩
  obtain ⟨ls, hret, hls⟩ := trapReturn_eq s s.cur
  have hheld : ∀ h, (curThr s).held = h → trapReturn s s.cur = releaseHeld (beforeRelease s s.cur ls) h := by
    rintro _ rfl; exact hret
  obtain ⟨aw, en, rq, ib, wh, st, qm, hrel⟩ := releaseHeld_eq (beforeRelease s s.cur ls) (curThr s).held
  have hframe := hret.trans hrel
  have hthr : ∀ u, getThr (trapReturn s s.cur) u = getThr (modThr s s.cur resumed) u := fun u => by rw [hframe]; rfl
  refine ⟨trapReturn s s.cur, execEret_returns hht, ?resumes, ?others, ?bytes, ?walks, ?none, ?act, ?token, ?request, ?xlate,
    ?report⟩
  case resumes =>
    have hcur : (trapReturn s s.cur).cur = s.cur := by rw [hframe]; rfl
    rw [curThr, hcur, hthr, getThr_modThr]; rfl
  case others => intro u hu; rw [hthr, getThr_modThr_other _ _ hu]
  case bytes => intro a; rw [hframe]; exact ⟨rfl, rfl, rfl⟩
  case walks => rw [hframe]; exact forgetFaults_walks
  case none =>
    intro hh
    have hsame : ls = s.launches := hls (congrArg holdsWork hh)
    rw [hheld _ hh, hsame]; rfl
  case act => intro e slot vrow hh; rw [hheld _ hh]; exact releaseHeld_act
  case token => intro e k hh; rw [hheld _ hh]; exact releaseHeld_token _ e k
  case request =>
    intro n hh
    rw [hheld _ hh]
    exact ⟨releaseHeld_reqs, releaseHeld_watchHolds, releaseHeld_inbox, releaseHeld_streams⟩
  case xlate => intro e a hh; rw [hheld _ hh]; exact releaseHeld_xlate _ e a
  case report => intro p d n hh; rw [hheld _ hh]; exact releaseHeld_report _ p d n

end Sys2Proof.Machine
end

section
/-!
PROOFS. Proofs/DecodeEncode.lean: the round trip of every instruction (spec/04 R102 to R105).
-/
namespace Sys2Proof.Laws

/-- Settles O1: each instruction has its lemma; a device step has no word. -/
theorem decodeEncode : Obligations.DecodeEncode
  | .tokenArrival e n => RoundTrip.tokenArrival e n
  | .arbiterSelect e => RoundTrip.arbiterSelect e
  | .arbiterReweight e => RoundTrip.arbiterReweight e
  | .liveCountUpdate n => RoundTrip.liveCountUpdate n
  | .launchComplete pkg lid => RoundTrip.launchComplete pkg lid
  | .source e n => RoundTrip.source e n
  | .sink e n => RoundTrip.sink e n
  | .dup e n => RoundTrip.dup e n
  | .enterOp e n => RoundTrip.enterOp e n
  | .nextOp e n => RoundTrip.nextOp e n
  | .exitOp e n => RoundTrip.exitOp e n
  | .callOp e n => RoundTrip.callOp e n
  | .retOp e n => RoundTrip.retOp e n
  | .gsteer e n => RoundTrip.gsteer e n
  | .gmerge e n => RoundTrip.gmerge e n
  | .triggerArrival e n => RoundTrip.triggerArrival e n
  | .triggerDeadline e slot vrow => RoundTrip.triggerDeadline e slot vrow
  | .bridge e n => RoundTrip.bridge e n
  | .copen e n => RoundTrip.copen e n
  | .cclose e n => RoundTrip.cclose e n
  | .containmentHeld pkg graph rec row => RoundTrip.containmentHeld pkg graph rec row
  | .timer e n => RoundTrip.timer e n
  | .timerExpiry pkg die n => RoundTrip.timerExpiry pkg die n
  | .vblockActivation e => RoundTrip.vblockActivation e
  | .vblockStep e => RoundTrip.vblockStep e
  | .vblockComplete e => RoundTrip.vblockComplete e
  | .mmul e => RoundTrip.mmul e
  | .wload e => RoundTrip.wload e
  | .gather e => RoundTrip.gather e
  | .repeatOp e => RoundTrip.repeatOp e
  | .swin e => RoundTrip.swin e
  | .transp e => RoundTrip.transp e
  | .conv e => RoundTrip.conv e
  | .hload e n => RoundTrip.hload e n
  | .hloadSectorReturn e n => RoundTrip.hloadSectorReturn e n
  | .hstore e n => RoundTrip.hstore e n
  | .hstoreComplete e n => RoundTrip.hstoreComplete e n
  | .copy e n => RoundTrip.copy e n
  | .copyChunkAck pkg die n chunk => RoundTrip.copyChunkAck pkg die n chunk
  | .copyPacketTake pkg die q => RoundTrip.copyPacketTake pkg die q
  | .chw e n => RoundTrip.chw e n
  | .chr e n => RoundTrip.chr e n
  | .dispatch e n => RoundTrip.dispatch e n
  | .dispatchCreditUpdate pkg die idx => RoundTrip.dispatchCreditUpdate pkg die idx
  | .reduce e n => RoundTrip.reduce e n
  | .reduceComplete group tag => RoundTrip.reduceComplete group tag
  | .chunkWriteComplete n => RoundTrip.chunkWriteComplete n
  | .tileReadRetire n => RoundTrip.tileReadRetire n
  | .burstReceive e input chunk => RoundTrip.burstReceive e input chunk
  | .memoryTileRequest e bank => RoundTrip.memoryTileRequest e bank
  | .hbmSectorAccess e n => RoundTrip.hbmSectorAccess e n
  | .pageWalk e part vpage => RoundTrip.pageWalk e part vpage
  | .launchAccept pkg q => RoundTrip.launchAccept pkg q
  | .launchEventPoll pkg q => RoundTrip.launchEventPoll pkg q
  | .launchStart pkg => RoundTrip.launchStart pkg
  | .streamCommandBegin e port slot => RoundTrip.streamCommandBegin e port slot
  | .streamCircuitSetup e port slot => RoundTrip.streamCircuitSetup e port slot
  | .streamCommandComplete e port slot => RoundTrip.streamCommandComplete e port slot
  | .timerWheelBoundary pkg die => RoundTrip.timerWheelBoundary pkg die
  | .twsetExpiry pkg die n => RoundTrip.twsetExpiry pkg die n
  | .farListMove pkg die => RoundTrip.farListMove pkg die
  | .deviceTimeStep pkg ns => RoundTrip.deviceTimeStep pkg ns
  | .qmSample pkg lid second => RoundTrip.qmSample pkg lid second
  | .qmWindowEnd pkg lid => RoundTrip.qmWindowEnd pkg lid
  | .pendingReportArrival n => RoundTrip.pendingReportArrival n
  | .asyncTrapEntry t => RoundTrip.asyncTrapEntry t
  | .loadReturn t n => RoundTrip.loadReturn t n
  | .loadDataError t => RoundTrip.loadDataError t
  | .asyncCompletion t n => RoundTrip.asyncCompletion t n
  | .blockingWaitEnd t => RoundTrip.blockingWaitEnd t
  | .pageSetMove pkg graph => RoundTrip.pageSetMove pkg graph
  | .slotBoundary e => RoundTrip.slotBoundary e
  | .linkFlitReceive e noise => RoundTrip.linkFlitReceive e noise
  | .linkDeath e lostLock => RoundTrip.linkDeath e lostLock
  | .milestoneChange pkg => RoundTrip.milestoneChange pkg
  | .milestoneAdopt e => RoundTrip.milestoneAdopt e
  | .packetArrival n => RoundTrip.packetArrival n
  | .terminalAccept n => RoundTrip.terminalAccept n
  | .ackReceive n => RoundTrip.ackReceive n
  | .nackReceive n => RoundTrip.nackReceive n
  | .retryTimeout e n => RoundTrip.retryTimeout e n
  | .chunkWrite n => RoundTrip.chunkWrite n
  | .readResponse n => RoundTrip.readResponse n
  | .channelWrite n => RoundTrip.channelWrite n
  | .reduceContribution n => RoundTrip.reduceContribution n
  | .hbmRead n => RoundTrip.hbmRead n
  | .hbmWrite n => RoundTrip.hbmWrite n
  | .hbmAtomic n => RoundTrip.hbmAtomic n
  | .elementClockGate e => RoundTrip.elementClockGate e
  | .elementWake e => RoundTrip.elementWake e
  | .pagePowerGate pkg die page => RoundTrip.pagePowerGate pkg die page
  | .scrubRead b word => RoundTrip.scrubRead b word
  | .eccWindowExpiry b => RoundTrip.eccWindowExpiry b
  | .bankConversion b => RoundTrip.bankConversion b
  | .traceWrite pkg die part => RoundTrip.traceWrite pkg die part
  | .zbell pkg fn => RoundTrip.zbell pkg fn
  | .zringWrite pkg fn v => RoundTrip.zringWrite pkg fn v
  | .registerWrite pkg fn off v => RoundTrip.registerWrite pkg fn off v
  | .bar2Access pkg fn off acc => RoundTrip.bar2Access pkg fn off acc
  | .zcmdRingPoll pkg fn => RoundTrip.zcmdRingPoll pkg fn
  | .ident pkg fn => RoundTrip.ident pkg fn
  | .attest pkg fn => RoundTrip.attest pkg fn
  | .fwstage pkg fn => RoundTrip.fwstage pkg fn
  | .pcreate pkg fn => RoundTrip.pcreate pkg fn
  | .pdestroy pkg fn => RoundTrip.pdestroy pkg fn
  | .flr pkg fn => RoundTrip.flr pkg fn
  | .pgrant pkg fn => RoundTrip.pgrant pkg fn
  | .aspace pkg fn => RoundTrip.aspace pkg fn
  | .pools pkg fn => RoundTrip.pools pkg fn
  | .faults pkg fn => RoundTrip.faults pkg fn
  | .slots pkg fn => RoundTrip.slots pkg fn
  | .lqset pkg fn => RoundTrip.lqset pkg fn
  | .cqset pkg fn => RoundTrip.cqset pkg fn
  | .routes pkg fn => RoundTrip.routes pkg fn
  | .mstone pkg fn => RoundTrip.mstone pkg fn
  | .rgroup pkg fn => RoundTrip.rgroup pkg fn
  | .tlbinv pkg fn => RoundTrip.tlbinv pkg fn
  | .readObject pkg fn => RoundTrip.readObject pkg fn
  | .dbgsetStopEntry pkg fn => RoundTrip.dbgsetStopEntry pkg fn
  | .dbgsetTrace pkg fn => RoundTrip.dbgsetTrace pkg fn
  | .dbgsetWatch pkg fn => RoundTrip.dbgsetWatch pkg fn
  | .dbgsetBreakBit pkg fn => RoundTrip.dbgsetBreakBit pkg fn
  | .dbgsetProfileClear pkg fn => RoundTrip.dbgsetProfileClear pkg fn
  | .dbgsetLogEntry pkg fn => RoundTrip.dbgsetLogEntry pkg fn
  | .threadNormalStop pkg fn => RoundTrip.threadNormalStop pkg fn
  | .threadHardStop pkg fn => RoundTrip.threadHardStop pkg fn
  | .threadResume pkg fn => RoundTrip.threadResume pkg fn
  | .threadRegisterWrite pkg fn => RoundTrip.threadRegisterWrite pkg fn
  | .scrub pkg fn => RoundTrip.scrub pkg fn
  | .power pkg fn => RoundTrip.power pkg fn
  | .thermalThrottle pkg lower => RoundTrip.thermalThrottle pkg lower
  | .thermalShutdown pkg => RoundTrip.thermalShutdown pkg
  | .coldReset pkg => RoundTrip.coldReset pkg
  | .add rd rs1 rs2 => RoundTrip.add rd rs1 rs2
  | .sub rd rs1 rs2 => RoundTrip.sub rd rs1 rs2
  | .and rd rs1 rs2 => RoundTrip.and rd rs1 rs2
  | .or rd rs1 rs2 => RoundTrip.or rd rs1 rs2
  | .xor rd rs1 rs2 => RoundTrip.xor rd rs1 rs2
  | .shl rd rs1 rs2 => RoundTrip.shl rd rs1 rs2
  | .shr rd rs1 rs2 => RoundTrip.shr rd rs1 rs2
  | .sar rd rs1 rs2 => RoundTrip.sar rd rs1 rs2
  | .mul rd rs1 rs2 => RoundTrip.mul rd rs1 rs2
  | .mulh rd rs1 rs2 => RoundTrip.mulh rd rs1 rs2
  | .mulhn rd rs1 rs2 => RoundTrip.mulhn rd rs1 rs2
  | .div rd rs1 rs2 => RoundTrip.div rd rs1 rs2
  | .divn rd rs1 rs2 => RoundTrip.divn rd rs1 rs2
  | .rem rd rs1 rs2 => RoundTrip.rem rd rs1 rs2
  | .remn rd rs1 rs2 => RoundTrip.remn rd rs1 rs2
  | .min rd rs1 rs2 => RoundTrip.min rd rs1 rs2
  | .max rd rs1 rs2 => RoundTrip.max rd rs1 rs2
  | .minn rd rs1 rs2 => RoundTrip.minn rd rs1 rs2
  | .maxn rd rs1 rs2 => RoundTrip.maxn rd rs1 rs2
  | .slt rd rs1 rs2 => RoundTrip.slt rd rs1 rs2
  | .sltn rd rs1 rs2 => RoundTrip.sltn rd rs1 rs2
  | .addi rd rs1 imm => RoundTrip.addi rd rs1 imm
  | .andi rd rs1 imm => RoundTrip.andi rd rs1 imm
  | .ori rd rs1 imm => RoundTrip.ori rd rs1 imm
  | .xori rd rs1 imm => RoundTrip.xori rd rs1 imm
  | .shli rd rs1 sh => RoundTrip.shli rd rs1 sh
  | .shri rd rs1 sh => RoundTrip.shri rd rs1 sh
  | .sari rd rs1 sh => RoundTrip.sari rd rs1 sh
  | .lui rd imm => RoundTrip.lui rd imm
  | .auip rd imm => RoundTrip.auip rd imm
  | .jal rd imm => RoundTrip.jal rd imm
  | .jalr rd rs1 imm => RoundTrip.jalr rd rs1 imm
  | .beq rs1 rs2 imm => RoundTrip.beq rs1 rs2 imm
  | .bne rs1 rs2 imm => RoundTrip.bne rs1 rs2 imm
  | .blt rs1 rs2 imm => RoundTrip.blt rs1 rs2 imm
  | .bge rs1 rs2 imm => RoundTrip.bge rs1 rs2 imm
  | .bltn rs1 rs2 imm => RoundTrip.bltn rs1 rs2 imm
  | .bgen rs1 rs2 imm => RoundTrip.bgen rs1 rs2 imm
  | .ld8 rd rs1 imm => RoundTrip.ld8 rd rs1 imm
  | .ld8n rd rs1 imm => RoundTrip.ld8n rd rs1 imm
  | .ld16 rd rs1 imm => RoundTrip.ld16 rd rs1 imm
  | .ld16n rd rs1 imm => RoundTrip.ld16n rd rs1 imm
  | .ld32 rd rs1 imm => RoundTrip.ld32 rd rs1 imm
  | .ld32n rd rs1 imm => RoundTrip.ld32n rd rs1 imm
  | .ld64 rd rs1 imm => RoundTrip.ld64 rd rs1 imm
  | .st8 src rs1 imm => RoundTrip.st8 src rs1 imm
  | .st16 src rs1 imm => RoundTrip.st16 src rs1 imm
  | .st32 src rs1 imm => RoundTrip.st32 src rs1 imm
  | .st64 src rs1 imm => RoundTrip.st64 src rs1 imm
  | .amoadd rd rs1 rs2 ord => RoundTrip.amoadd rd rs1 rs2 ord
  | .amoand rd rs1 rs2 ord => RoundTrip.amoand rd rs1 rs2 ord
  | .amoor rd rs1 rs2 ord => RoundTrip.amoor rd rs1 rs2 ord
  | .amoxor rd rs1 rs2 ord => RoundTrip.amoxor rd rs1 rs2 ord
  | .amoswp rd rs1 rs2 ord => RoundTrip.amoswp rd rs1 rs2 ord
  | .amomin rd rs1 rs2 ord => RoundTrip.amomin rd rs1 rs2 ord
  | .amomax rd rs1 rs2 ord => RoundTrip.amomax rd rs1 rs2 ord
  | .amocas rd rs1 rs2 ord => RoundTrip.amocas rd rs1 rs2 ord
  | .amoinc rd rs1 rs2 ord => RoundTrip.amoinc rd rs1 rs2 ord
  | .fence sc => RoundTrip.fence sc
  | .trap imm => RoundTrip.trap imm
  | .nop => RoundTrip.nop
  | .halt => RoundTrip.halt
  | .eret => RoundTrip.eret
  | .wfe => RoundTrip.wfe
  | .sev rs1 => RoundTrip.sev rs1
  | .csrrd rd csr => RoundTrip.csrrd rd csr
  | .csrwr rs1 csr => RoundTrip.csrwr rs1 csr
  | .csrset rs1 csr => RoundTrip.csrset rs1 csr
  | .csrclr rs1 csr => RoundTrip.csrclr rs1 csr
  | .gload rd rs1 => RoundTrip.gload rd rs1
  | .gfree rd rs1 => RoundTrip.gfree rd rs1
  | .glaunch rd rs1 rs2 => RoundTrip.glaunch rd rs1 rs2
  | .gkill rd rs1 => RoundTrip.gkill rd rs1
  | .inject rd rs1 => RoundTrip.inject rd rs1
  | .purge rd rs1 rs2 => RoundTrip.purge rd rs1 rs2
  | .msread rd rs1 rs2 => RoundTrip.msread rd rs1 rs2
  | .clread rd rs1 rs2 => RoundTrip.clread rd rs1 rs2
  | .freeze rd rs1 => RoundTrip.freeze rd rs1
  | .thaw rd rs1 => RoundTrip.thaw rd rs1
  | .savec rd rs1 rs2 => RoundTrip.savec rd rs1 rs2
  | .restc rd rs1 => RoundTrip.restc rd rs1
  | .sbind rd rs1 rs2 => RoundTrip.sbind rd rs1 rs2
  | .sstart rd rs1 rs2 => RoundTrip.sstart rd rs1 rs2
  | .sbar rd rs1 => RoundTrip.sbar rd rs1
  | .cpyq rd rs1 rs2 => RoundTrip.cpyq rd rs1 rs2
  | .cpywait rd rs1 rs2 => RoundTrip.cpywait rd rs1 rs2
  | .bararm rs1 rs2 => RoundTrip.bararm rs1 rs2
  | .bararrive rs1 => RoundTrip.bararrive rs1
  | .barwait rd rs1 rs2 => RoundTrip.barwait rd rs1 rs2
  | .chopen rd rs1 rs2 => RoundTrip.chopen rd rs1 rs2
  | .chwr rd rs1 rs2 => RoundTrip.chwr rd rs1 rs2
  | .chrd rd rs1 rs2 => RoundTrip.chrd rd rs1 rs2
  | .chtry rd rs1 rs2 => RoundTrip.chtry rd rs1 rs2
  | .chclose rd rs1 => RoundTrip.chclose rd rs1
  | .twset rd rs1 rs2 => RoundTrip.twset rd rs1 rs2
  | .twclr rd rs1 => RoundTrip.twclr rd rs1
  | .time rd => RoundTrip.time rd
  | .crgno rd rs1 => RoundTrip.crgno rd rs1
  | .crgnc rd rs1 rs2 => RoundTrip.crgnc rd rs1 rs2
  | .qset rd rs1 rs2 => RoundTrip.qset rd rs1 rs2
  | .qget rd rs1 rs2 => RoundTrip.qget rd rs1 rs2
  | .illegalInstruction w => RoundTrip.illegalInstruction w
  | .fetchFault why => RoundTrip.fetchFault why
  | .writeAcknowledgement t n => RoundTrip.writeAcknowledgement t n

end Sys2Proof.Laws
end

section
/-!
PROOFS. Proofs/Integer.lean: the register operations and the immediate forms (spec/10 R222, R223).
-/
namespace Sys2Proof.Machine

/-! ### The operations on words, as arithmetic on the numbers they stand for -/

/-- A left shift multiplies by a power of two. -/
theorem shl_eq (a : Word) (n : Nat) : a <<< n = BitVec.ofNat 64 (a.toNat * 2 ^ n) :=
  BitVec.eq_of_toNat_eq (by rw [BitVec.toNat_shiftLeft, BitVec.toNat_ofNat, Nat.shiftLeft_eq])

/-- A logical right shift divides by a power of two. -/
theorem shr_eq (a : Word) (n : Nat) : a >>> n = BitVec.ofNat 64 (a.toNat / 2 ^ n) := by
  rw [← Nat.shiftRight_eq_div_pow, ← BitVec.toNat_ushiftRight, BitVec.ofNat_toNat, BitVec.setWidth_eq]

/-- An arithmetic right shift divides the signed number, rounding down. -/
theorem sar_eq (a : Word) (n : Nat) : a.sshiftRight n = BitVec.ofInt 64 (a.toInt / 2 ^ n) := by
  rw [BitVec.sshiftRight, Int.shiftRight_eq_div_pow]; norm_cast

theorem mul_eq (a b : Word) : a * b = BitVec.ofNat 64 (a.toNat * b.toNat) :=
  BitVec.eq_of_toNat_eq (by rw [BitVec.toNat_mul, BitVec.toNat_ofNat])

/-- Signed division rounds toward zero, and wraps where the quotient has no word. -/
theorem sdiv_eq (a b : Word) : BitVec.sdiv a b = BitVec.ofInt 64 (a.toInt.tdiv b.toInt) := by
  rw [← BitVec.toInt_inj, BitVec.toInt_sdiv, BitVec.toInt_ofInt]

theorem udiv_eq (a b : Word) : a / b = BitVec.ofNat 64 (a.toNat / b.toNat) := by
  rw [← BitVec.toNat_udiv, BitVec.ofNat_toNat, BitVec.setWidth_eq]

/-- The signed remainder is what the quotient toward zero leaves. -/
theorem srem_eq (a b : Word) : BitVec.srem a b = BitVec.ofInt 64 (a.toInt - b.toInt * a.toInt.tdiv b.toInt) := by
  rw [← Int.tmod_def, ← BitVec.toInt_srem, BitVec.ofInt_toInt]

theorem umod_eq (a b : Word) : a % b = BitVec.ofNat 64 (a.toNat % b.toNat) := by
  rw [← BitVec.toNat_umod, BitVec.ofNat_toNat, BitVec.setWidth_eq]

theorem minS_eq (a b : Word) : minS a b = BitVec.ofInt 64 (min a.toInt b.toInt) := by
  unfold minS
  by_cases h : a.toInt < b.toInt
  · rw [if_pos (BitVec.slt_iff_toInt_lt.2 h), min_eq_left h.le, BitVec.ofInt_toInt]
  · rw [if_neg (mt BitVec.slt_iff_toInt_lt.1 h), min_eq_right (not_lt.1 h), BitVec.ofInt_toInt]

theorem maxS_eq (a b : Word) : maxS a b = BitVec.ofInt 64 (max a.toInt b.toInt) := by
  unfold maxS
  by_cases h : a.toInt < b.toInt
  · rw [if_pos (BitVec.slt_iff_toInt_lt.2 h), max_eq_right h.le, BitVec.ofInt_toInt]
  · rw [if_neg (mt BitVec.slt_iff_toInt_lt.1 h), max_eq_left (not_lt.1 h), BitVec.ofInt_toInt]

theorem ult_iff (a b : Word) : a.ult b = true ↔ a.toNat < b.toNat := BitVec.ult_iff_lt.trans BitVec.lt_def

theorem ofNat_toNat_word (a : Word) : BitVec.ofNat 64 a.toNat = a := by rw [BitVec.ofNat_toNat, BitVec.setWidth_eq]

theorem minU_eq (a b : Word) : minU a b = BitVec.ofNat 64 (min a.toNat b.toNat) := by
  unfold minU
  by_cases h : a.toNat < b.toNat
  · rw [if_pos ((ult_iff a b).2 h), min_eq_left h.le, ofNat_toNat_word]
  · rw [if_neg (mt (ult_iff a b).1 h), min_eq_right (not_lt.1 h), ofNat_toNat_word]

theorem maxU_eq (a b : Word) : maxU a b = BitVec.ofNat 64 (max a.toNat b.toNat) := by
  unfold maxU
  by_cases h : a.toNat < b.toNat
  · rw [if_pos ((ult_iff a b).2 h), max_eq_right h.le, ofNat_toNat_word]
  · rw [if_neg (mt (ult_iff a b).1 h), max_eq_left (not_lt.1 h), ofNat_toNat_word]

/-- A flag word says whether its condition holds. -/
theorem flagWord_eq {c : Bool} {P : Prop} [Decidable P] (h : c = true ↔ P) : flagWord c = if P then 1 else 0 :=
  if_congr h rfl rfl

/-! ### Register operations -/

/-- A register operation computes its function of the two sources. -/
theorem regOp_computes {i : Instr} {s : State} {rd rs1 rs2 : RegNo} {f : Word → Word → Word} {w : Word}
    (h : exec i s = .next (regOp f rd rs1 rs2 s)) (hw : f (rs s rs1) (rs s rs2) = w) :
    Computes i s rd w ((curThr s).pc + 4) := finish_computes h hw rfl

/-- Settles O5: each operation is one function of two words, which is the arithmetic that R222 gives. -/
theorem integerOps : Obligations.IntegerOps := by
  intro s rd rs1 rs2
  have hslt : (rs s rs1).slt (rs s rs2) = true ↔ (rs s rs1).toInt < (rs s rs2).toInt := BitVec.slt_iff_toInt_lt
  exact ⟨regOp_computes rfl rfl, regOp_computes rfl rfl, regOp_computes rfl rfl, regOp_computes rfl rfl, regOp_computes rfl rfl,
    regOp_computes rfl (shl_eq _ _), regOp_computes rfl (shr_eq _ _), regOp_computes rfl (sar_eq _ _),
    regOp_computes rfl (mul_eq _ _), regOp_computes rfl rfl, regOp_computes rfl rfl,
    regOp_computes rfl (congrArg (ite _ _) (sdiv_eq _ _)), regOp_computes rfl (congrArg (ite _ _) (udiv_eq _ _)),
    regOp_computes rfl (congrArg (ite _ _) (srem_eq _ _)), regOp_computes rfl (congrArg (ite _ _) (umod_eq _ _)),
    regOp_computes rfl (minS_eq _ _), regOp_computes rfl (maxS_eq _ _),
    regOp_computes rfl (minU_eq _ _), regOp_computes rfl (maxU_eq _ _),
    regOp_computes rfl (flagWord_eq hslt), regOp_computes rfl (flagWord_eq (ult_iff _ _))⟩

/-! ### Immediate forms -/

theorem add_signExtend (a : Word) (imm : Imm16) : a + imm.signExtend 64 = BitVec.ofInt 64 (a.toInt + imm.toInt) := by
  rw [BitVec.ofInt_add, BitVec.ofInt_toInt]; rfl

theorem zeroExtend_eq (imm : Imm16) : imm.zeroExtend 64 = BitVec.ofNat 64 imm.toNat := (BitVec.ofNat_toNat 64 imm).symm

/-- LUI's value is the signed immediate shifted left by 16. -/
theorem luiValue_eq (imm : Imm16) : luiValue imm = BitVec.ofInt 64 (imm.toInt * 2 ^ 16) := by
  have h : (imm ++ 0#16).toInt = imm.toInt * 2 ^ 16 := by
    rw [BitVec.toInt_append, if_neg (by decide)]
    simp [Int.mul_comm]
  rw [luiValue, BitVec.signExtend, h]

/-- Settles O6: each immediate form is a function of the source and of the extended immediate. -/
theorem immediateOps : Obligations.ImmediateOps := by
  intro s rd rs1 imm sh
  exact ⟨finish_computes rfl (add_signExtend _ _) rfl, finish_computes rfl (congrArg _ (zeroExtend_eq imm)) rfl,
    finish_computes rfl (congrArg _ (zeroExtend_eq imm)) rfl, finish_computes rfl (congrArg _ (zeroExtend_eq imm)) rfl,
    finish_computes rfl (shl_eq _ _) rfl, finish_computes rfl (shr_eq _ _) rfl, finish_computes rfl (sar_eq _ _) rfl,
    finish_computes rfl (luiValue_eq imm) rfl, finish_computes rfl (congrArg _ (luiValue_eq imm)) rfl⟩

end Sys2Proof.Machine
end

section
/-!
PROOFS. Proofs/Accesses.lean: loads, stores and atomics issue, wait or trap (spec/10 R226 to R230).
-/
namespace Sys2Proof.Machine

/-! ### The one shape of a thread's memory access -/

/-- A thread's access of n bytes at va: its checks in order, the watch filter, the wait of a full or held queue, then what it
does at its target. -/
def accessStep (acc : Acc) (va : Word) (n : Nat) (full : Prop) [Decidable full] (go : Target → State) (s : State) : State :=
  match threadAccess s s.cur acc va n with
  | .error c => accessTrap s c va
  | .ok tg => if ccWatch s s.cur acc va.toNat n then watchTrap s s.cur acc va (curThr s).pc else if full then s else go tg

/-- What an access that its target takes becomes: the thread's record changes by f, and the request r goes out. -/
def sendAccess (f : Thread → Thread) (r : Target → Req) (s : State) (tg : Target) : State :=
  issueReq (modCur { s with nextId := s.nextId + 1 } f) s.cur.pkg s.cur.die (r tg)

section access
variable {i : Instr} {s : State} {acc : Acc} {va : Word} {n : Nat} {full : Prop} [Decidable full] {go : Target → State}

theorem accessStep_error {c : Nat} (h : threadAccess s s.cur acc va n = .error c) :
    accessStep acc va n full go s = accessTrap s c va := by rw [accessStep, h]

theorem accessStep_watched {tg : Target} (h : threadAccess s s.cur acc va n = .ok tg)
    (hw : ccWatch s s.cur acc va.toNat n = true) :
    accessStep acc va n full go s = watchTrap s s.cur acc va (curThr s).pc := by rw [accessStep, h]; exact if_pos hw

theorem accessStep_full {tg : Target} (h : threadAccess s s.cur acc va n = .ok tg)
    (hw : ccWatch s s.cur acc va.toNat n = false) (hf : full) : accessStep acc va n full go s = s := by
  rw [accessStep, h]
  exact (if_neg (ne_true_of_eq_false hw)).trans (if_pos hf)

theorem accessStep_goes {tg : Target} (h : threadAccess s s.cur acc va n = .ok tg)
    (hw : ccWatch s s.cur acc va.toNat n = false) (hf : ¬full) : accessStep acc va n full go s = go tg := by
  rw [accessStep, h]
  exact (if_neg (ne_true_of_eq_false hw)).trans (if_neg hf)

/-- The first check of R226. -/
theorem threadAccess_misaligned {t : Tid} (h : va.toNat % n ≠ 0) : threadAccess s t acc va n = .error 0x0002 := if_pos h

/-- The traps and waits that loads, stores and atomics share (R226, R352, R401). -/
theorem access_fails (hn : watchNum acc = 2) (hx : exec i s = .next (accessStep acc va n full go s)) :
    ((curThr s).errs = [] → va.toNat % n ≠ 0 → TakesTrap i s 0x0002 va (curThr s).pc) ∧
    ((curThr s).errs = [] → ∀ c, c ≠ 0 → threadAccess s s.cur acc va n = .error c → TakesTrap i s c va (curThr s).pc) ∧
    (threadAccess s s.cur acc va n = .error 0 → AwaitsWalk i s s va.toNat) ∧
    ((curThr s).errs = [] → ∀ tg, threadAccess s s.cur acc va n = .ok tg → ccWatch s s.cur acc va.toNat n = true →
      WatchTraps i s va) := by
  have traps : (curThr s).errs = [] → ∀ c, c ≠ 0 → threadAccess s s.cur acc va n = .error c →
      TakesTrap i s c va (curThr s).pc :=
    fun he c hc h => accessTrap_takes hc he (by rw [hx, accessStep_error h])
  exact ⟨fun he hm => traps he 2 (by decide) (threadAccess_misaligned hm), traps,
    fun h => accessTrap_waits (by rw [hx, accessStep_error h]),
    fun he tg h hw => watchTrap_traps hn he (by rw [hx, accessStep_watched h hw])⟩

/-- An access with its checks passed issues its request, unless it has to wait (R227). -/
theorem access_issues {f : Thread → Thread} {r : Target → Req} {tg : Target}
    (hx : exec i s = .next (accessStep acc va n full (sendAccess f r s) s)) (h : threadAccess s s.cur acc va n = .ok tg)
    (hw : ccWatch s s.cur acc va.toNat n = false) :
    (¬full → Issues i s (f (curThr s)) (r tg)) ∧ (full → exec i s = .next s) :=
  ⟨fun hf => issueReq_issues (by rw [hx, accessStep_goes h hw hf]; rfl), fun hf => by rw [hx, accessStep_full h hw hf]⟩

end access

/-! ### What the instructions add to it -/

theorem acqWaits_iff (th : Thread) : acqWaits th = true ↔ ∃ l ∈ th.loads, l.acq = true := List.any_eq_true

/-- No earlier acquire is pending. -/
theorem not_acqWaits {th : Thread} (h : ∀ l ∈ th.loads, l.acq = false) : ¬acqWaits th = true := by
  rw [acqWaits_iff]
  rintro ⟨l, hl, ha⟩
  exact Bool.false_ne_true ((h l hl).symm.trans ha)

theorem quietThread_iff (th : Thread) : quietThread th = true ↔ th.loads = [] ∧ th.stores = [] := by simp [quietThread]

/-- A load's record in its thread: rd waits for it. -/
theorem advance_sbSet (th : Thread) (rd : RegNo) : advance (sbSet th rd) =
    { th with pc := th.pc + 4, pass := 0, sb := if rd = 0 then th.sb else th.sb ||| BitVec.twoPow 32 rd.toNat } := by
  unfold sbSet advance goTo
  split <;> rfl

/-- Every load of R226 is one access with its size and extension. -/
theorem exec_load : ∀ f ∈ loadForms, ∀ (s : State) (rd rs1 : RegNo) (imm : Imm16),
    exec (f.1 rd rs1 imm) s = .next (issueLoad rd rs1 imm f.2.1 f.2.2 s) := by
  simp only [loadForms, List.forall_mem_cons]
  exact ⟨fun _ _ _ _ => rfl, fun _ _ _ _ => rfl, fun _ _ _ _ => rfl, fun _ _ _ _ => rfl, fun _ _ _ _ => rfl,
    fun _ _ _ _ => rfl, fun _ _ _ _ => rfl, fun _ h => nomatch h⟩

/-- Every store of R226 is one access with its size. -/
theorem exec_store : ∀ f ∈ storeForms, ∀ (s : State) (src rs1 : RegNo) (imm : Imm16),
    exec (f.1 src rs1 imm) s = .next (issueStore src rs1 imm f.2 s) := by
  simp only [storeForms, List.forall_mem_cons]
  exact ⟨fun _ _ _ _ => rfl, fun _ _ _ _ => rfl, fun _ _ _ _ => rfl, fun _ _ _ _ => rfl, fun _ h => nomatch h⟩

/-- Every atomic of R229 is one access with its operation. -/
theorem exec_amo : ∀ f ∈ amoForms, ∀ (s : State) (rd rs1 rs2 : RegNo) (ord : AmoOrd),
    exec (f.1 rd rs1 rs2 ord) s = .next (issueAmo f.2 rd rs1 rs2 ord s) := by
  simp only [amoForms, List.forall_mem_cons]
  exact ⟨fun _ _ _ _ _ => rfl, fun _ _ _ _ _ => rfl, fun _ _ _ _ _ => rfl, fun _ _ _ _ _ => rfl, fun _ _ _ _ _ => rfl,
    fun _ _ _ _ _ => rfl, fun _ _ _ _ _ => rfl, fun _ _ _ _ _ => rfl, fun _ _ _ _ _ => rfl, fun _ h => nomatch h⟩

/-! ### Loads -/

/-- The change a load of n bytes at va makes in its thread. -/
def loadRecord (i : Nat) (rd : RegNo) (va : Word) (n : Nat) (sx : Bool) (lvl : Nat) (th : Thread) : Thread :=
  advance (sbSet { th with loads := th.loads ++ [{ id := i, rd := rd, va := va, size := n, sext := sx, level := lvl }] } rd)

theorem issueLoad_eq (rd rs1 : RegNo) (imm : Imm16) (n : Nat) (sx : Bool) (s : State) :
    let va := readReg (curThr s) rs1 + BitVec.ofInt 64 imm.toInt
    issueLoad rd rs1 imm n sx s = accessStep .read va n (8 ≤ (curThr s).loads.length ∨ acqWaits (curThr s) = true)
      (sendAccess (loadRecord s.nextId rd va n sx (curThr s).levels.length)
        (fun tg => mkReq s.nextId tg .read n va.toNat (curThr s).part 0 (.load s.cur s.nextId)) s) s := rfl

/-- Settles O8: a load is an access that waits while eight loads or an acquire are outstanding. -/
theorem loadsIssue : Obligations.LoadsIssue := by
  intro f hf s rd rs1 imm
  have hx := (exec_load f hf s rd rs1 imm).trans (congrArg _ (issueLoad_eq ..))
  refine ⟨fun tg h hw => ?_, access_fails rfl hx⟩
  obtain ⟨goes, waits⟩ := access_issues hx h hw
  constructor
  · intro hr ha
    have hi := goes (not_or.2 ⟨Nat.not_le.2 hr, not_acqWaits ha⟩)
    rwa [loadRecord, advance_sbSet] at hi
  · rw [← acqWaits_iff]; exact waits

/-! ### Stores -/

/-- The change a store of n bytes at va makes in its thread. -/
def storeRecord (i : Nat) (va : Word) (n : Nat) (th : Thread) : Thread :=
  advance { th with stores := th.stores ++ [{ id := i, va := va, size := n }] }

theorem issueStore_eq (src rs1 : RegNo) (imm : Imm16) (n : Nat) (s : State) :
    let va := readReg (curThr s) rs1 + BitVec.ofInt 64 imm.toInt
    issueStore src rs1 imm n s = accessStep .write va n
      (16 ≤ ((curThr s).stores.filter (!·.atomic)).length ∨ acqWaits (curThr s) = true)
      (sendAccess (storeRecord s.nextId va n)
        (fun tg => mkReq s.nextId tg (.write (leBytes n (readReg (curThr s) src).toNat) false) n va.toNat (curThr s).part 0
          (.store s.cur s.nextId)) s) s := rfl

/-- Settles O9: a store is an access that waits while sixteen stores or an acquire are outstanding. -/
theorem storesIssue : Obligations.StoresIssue := by
  intro f hf s src rs1 imm
  have hx := (exec_store f hf s src rs1 imm).trans (congrArg _ (issueStore_eq ..))
  refine ⟨fun tg h hw => ?_, access_fails rfl hx⟩
  obtain ⟨goes, waits⟩ := access_issues hx h hw
  constructor
  · exact fun hr ha => goes (not_or.2 ⟨Nat.not_le.2 hr, not_acqWaits ha⟩)
  · rw [← acqWaits_iff]; exact waits

/-! ### Atomics -/

/-- The change an atomic at va makes in its thread. -/
def amoRecord (i : Nat) (rd : RegNo) (va : Word) (acq : Bool) (lvl : Nat) (th : Thread) : Thread :=
  advance (sbSet { th with loads := th.loads ++ [{ id := i, rd := rd, va := va, acq := acq, level := lvl }]
                           stores := th.stores ++ [{ id := i, va := va, atomic := true }] } rd)

theorem issueAmo_eq (op : Nat) (rd rs1 rs2 : RegNo) (ord : AmoOrd) (s : State) :
    let va := readReg (curThr s) rs1
    issueAmo op rd rs1 rs2 ord s = accessStep .atomic va 8
      (8 ≤ (curThr s).loads.length ∨ acqWaits (curThr s) = true ∨ (ordRel ord = true ∧ (!quietThread (curThr s)) = true))
      (sendAccess (amoRecord s.nextId rd va (ordAcq ord) (curThr s).levels.length)
        (fun tg => mkReq s.nextId tg (.atomic op (readReg (curThr s) rs2) (readReg (curThr s) rd)) 8 va.toNat (curThr s).part 0
          (.load s.cur s.nextId)) s) s := rfl

theorem ordAcq_eq (ord : AmoOrd) : ordAcq ord = decide (ord ≠ .rel) := by cases ord <;> rfl

theorem ordRel_iff (ord : AmoOrd) : ordRel ord = true ↔ ord ≠ .acq := by cases ord <;> decide

/-- An atomic is early when its ordering waits for accesses that are not performed yet (R230). -/
theorem amoEarly_iff (ord : AmoOrd) (th : Thread) :
    (ordRel ord = true ∧ (!quietThread th) = true) ↔ ord ≠ .acq ∧ (th.loads ≠ [] ∨ th.stores ≠ []) := by
  rw [ordRel_iff, Bool.not_eq_true', ← Bool.not_eq_true, quietThread_iff, not_and_or]

/-- Settles O10: an atomic is an access that waits as a load does, and with .rel or .ar until the thread is quiet. -/
theorem atomicsIssue : Obligations.AtomicsIssue := by
  intro f hf s rd rs1 rs2 ord
  have hx := (exec_amo f hf s rd rs1 rs2 ord).trans (congrArg _ (issueAmo_eq ..))
  refine ⟨fun tg h hw => ?_, access_fails rfl hx⟩
  obtain ⟨goes, waits⟩ := access_issues hx h hw
  rw [amoEarly_iff] at goes waits
  constructor
  · intro hr ha hn
    have hi := goes (not_or.2 ⟨Nat.not_le.2 hr, not_or.2 ⟨not_acqWaits ha, hn⟩⟩)
    rwa [amoRecord, advance_sbSet, ordAcq_eq] at hi
  · rw [← acqWaits_iff]; exact waits

end Sys2Proof.Machine
end

section
/-!
PROOFS. Proofs/Control.lean: fences, events, faults at issue and the control registers (spec/10 R221, R231, R232; spec/11 R265
to R267), and that every instruction answers a next state.
-/
namespace Sys2Proof.Machine

/-! ### Words from the encodings -/

/-- Settles O4: each word, and each word that stands for nothing, is decoded. -/
theorem decodedWords : Obligations.DecodedWords := by
  refine ⟨rfl, rfl, rfl, rfl, rfl, rfl, rfl, rfl, rfl, rfl, rfl, rfl, rfl, rfl, rfl, rfl, rfl, rfl, rfl, rfl, rfl, rfl, rfl, rfl,
    rfl, ?_⟩
  simp only [List.forall_mem_cons]
  exact ⟨⟨_, rfl⟩, ⟨_, rfl⟩, ⟨_, rfl⟩, ⟨_, rfl⟩, ⟨_, rfl⟩, ⟨_, rfl⟩, ⟨_, rfl⟩, ⟨_, rfl⟩, fun _ h => nomatch h⟩

/-! ### Every instruction answers -/

/-- No meaning faults or is refused. -/
theorem exec_next (i : Instr) (s : State) : ∃ t, exec i s = .next t := by cases i <;> exact ⟨_, rfl⟩

/-- A turn answers a next state unless its package has stopped its clocks. -/
theorem runTurn_next {u : Turn} {s : State} (h : clocksOff s u = false) : ∃ t, runTurn u s = .next t := by
  have hoff : ¬clocksOff s u = true := ne_true_of_eq_false h
  cases u with
  | issue t =>
    rw [runTurn, if_neg hoff]
    split
    · exact ⟨_, rfl⟩
    · exact exec_next _ _
  | event i =>
    rw [runTurn, if_neg hoff]
    split
    · exact exec_next i s
    · exact ⟨s, rfl⟩
  | _ => exact ⟨_, if_neg hoff⟩

/-- A turn that does not go on faults: the clocks of its package have stopped. -/
theorem runTurn_clocksOff {u : Turn} {s : State} (h : clocksOff s u = true) : runTurn u s = .fault .clocksStopped := if_pos h

theorem getPkg_takeTurn (s : State) (p : Nat) : getPkg (takeTurn s).2 p = getPkg s p := by
  unfold takeTurn
  cases s.agenda <;> rfl

/-- Where every package's clocks run, no turn meets stopped clocks. -/
theorem clocksOff_eq_false {s : State} (h : ∀ p, (getPkg s p).off = false) (u : Turn) : clocksOff s u = false := by
  unfold clocksOff
  cases turnPkg u with
  | none => rfl
  | some p => exact h p

/-- Settles O3: a turn goes on, or its clocks have stopped. -/
theorem nothingStops : Obligations.NothingStops := by
  refine ⟨exec_next, fun s => ⟨fun r => ?_, fun h => ?_⟩, fun s t us ha hoff => ?_⟩
  · rw [step]
    cases hc : clocksOff (takeTurn s).2 (takeTurn s).1 with
    | true => rw [runTurn_clocksOff hc]; exact fun h => nomatch h
    | false =>
      obtain ⟨t, ht⟩ := runTurn_next hc
      rw [ht]; exact fun h => nomatch h
  · exact runTurn_next (clocksOff_eq_false (fun p => by rw [getPkg_takeTurn]; exact h p) _)
  · rw [step, takeTurn, ha]
    exact runTurn_clocksOff hoff

/-! ### Faults at issue -/

/-- Settles O14: an illegal word and a fetch fault are synchronous traps of the current thread. -/
theorem illegalAndFetchFault : Obligations.IllegalAndFetchFault := by
  intro s w th he
  have fetch : ∀ why, TakesTrap (.fetchFault why) s (fetchCause why) th.pc th.pc := fun why =>
    takes_trap (s' := dropWalk s (ccEng s.cur.pkg s.cur.die) th.part th.pc.toNat) he ⟨rfl, rfl, rfl, rfl, rfl⟩ rfl
  refine ⟨?_, fetch .misaligned, fetch .notPresent, fetch .permission, fetch .illegalAddress, fetch .dataError⟩
  rw [BitVec.ofNat_toNat]
  exact trapCur_takes he rfl

/-! ### Changes of the current thread alone -/

/-- A change of the current thread's record is seen there and nowhere else. -/
theorem modCur_only {i : Instr} {s : State} {f : Thread → Thread} {a : Thread} (h : exec i s = .next (modCur s f))
    (ha : f (curThr s) = a) : ∃ t, exec i s = .next t ∧ curThr t = a ∧ OnlyThread s.cur s t :=
  ⟨_, h, (getThr_modThr s s.cur f).trans ha, modThr_onlyThread s s.cur f⟩

/-! ### Fences and events -/

/-- A table whose values of some keys are changed by f reads accordingly, where f keeps the value of a key that is not listed. -/
theorem tget_map_ite {κ α : Type} [DecidableEq κ] {P : κ → Prop} [DecidablePred P] {d : α} {f : α → α} (hf : f d = d)
    (t : Tbl κ α) (k : κ) :
    tget d k (t.map fun e => if P e.1 then (e.1, f e.2) else e) = if P k then f (tget d k t) else tget d k t := by
  induction t with
  | nil => split <;> [exact hf.symm; rfl]
  | cons e t ih =>
    obtain ⟨j, v⟩ := e
    unfold tget at ih ⊢
    by_cases hj : j = k
    · subst hj
      by_cases hp : P j <;> simp [tfind, hp]
    · by_cases hp : P j <;> simpa [tfind, hp, hj] using ih

/-- Every thread of the die fetches again, and no other. -/
theorem getThr_dropAhead (s : State) (pkg die : Nat) (u : Tid) : getThr (dropAhead s pkg die) u =
    if u.pkg = pkg ∧ u.die = die then clearAhead (getThr s u) else getThr s u :=
  tget_map_ite (P := fun k : Tid => k.pkg = pkg ∧ k.die = die) (f := clearAhead) rfl s.threads u

/-- What a FENCE does to its thread (R225, R231). -/
def fenced (th : Thread) : Thread := clearAhead (advance th)

theorem execFence_quiet {s : State} (hq : quietThread (curThr s) = true) (sc : Scope) (hsc : sc ≠ .elem) :
    exec (.fence sc) s = .next (
      let u := dropAhead (modCur s fenced) s.cur.pkg s.cur.die
      if sc = .pkg ∨ sc = .dom ∨ sc = .sys then forgetFaults u s.cur.pkg else u) := by
  show Host.Outcome.next _ = _
  rw [hq]
  simp only [Bool.not_true, Bool.false_eq_true, if_false, if_neg hsc] <;> rfl

/-- A FENCE that is not ready, as a HALT, leaves the state as it is. -/
theorem waits_unless_quiet {s : State} {x : State} (h : ¬quietThread (curThr s) = true) :
    (if !quietThread (curThr s) then s else x) = s := if_pos (by simpa using h)

theorem goes_if_quiet {s : State} {x : State} (h : quietThread (curThr s) = true) :
    (if !quietThread (curThr s) then s else x) = x := if_neg (by simp [h])

/-- What a SEV does with the bit of thread k (R232). -/
def sevHit (v : Word) (s : State) (k : Nat) : State :=
  if v.getLsbD k then setEvent s ⟨s.cur.pkg, s.cur.die, k⟩ else s

theorem sevHit_eq (v : Word) (s : State) (k : Nat) : sevHit v s k = { s with threads := (sevHit v s k).threads } := by
  unfold sevHit; split <;> rfl

/-- A SEV over a list of bits changes the records of threads and nothing else. -/
theorem sevHits_eq (v : Word) (ks : List Nat) (s : State) :
    ks.foldl (sevHit v) s = { s with threads := (ks.foldl (sevHit v) s).threads } := by
  induction ks generalizing s with
  | nil => rfl
  | cons k ks ih =>
    rw [List.foldl_cons, ih]
    have h := sevHit_eq v s k
    generalize sevHit v s k = x at h ⊢
    rw [h]

theorem getThr_sevHit (v : Word) (s : State) (k : Nat) (u : Tid) : getThr (sevHit v s k) u =
    if u = ⟨s.cur.pkg, s.cur.die, k⟩ ∧ v.getLsbD k = true then { getThr s u with event := true } else getThr s u := by
  unfold sevHit setEvent
  by_cases hv : v.getLsbD k = true
  · rw [if_pos hv]
    by_cases hu : u = ⟨s.cur.pkg, s.cur.die, k⟩
    · subst hu; rw [if_pos ⟨rfl, hv⟩, getThr_modThr]
    · rw [if_neg (fun h => hu h.1), getThr_modThr_other _ _ hu]
  · rw [if_neg hv, if_neg (fun h => hv h.2)]

/-- After a SEV over a list of bits a thread of this core has its event bit set when its own bit is among them and is 1. -/
theorem getThr_sevHits (v : Word) (ks : List Nat) (s : State) (u : Tid) : getThr (ks.foldl (sevHit v) s) u =
    if u.pkg = s.cur.pkg ∧ u.die = s.cur.die ∧ u.thr ∈ ks ∧ v.getLsbD u.thr = true
    then { getThr s u with event := true } else getThr s u := by
  induction ks generalizing s with
  | nil => simp
  | cons k ks ih =>
    have hcur : (sevHit v s k).cur = s.cur := by rw [sevHit_eq]
    rw [List.foldl_cons, ih, hcur, getThr_sevHit]
    obtain ⟨p, d, n⟩ := u
    simp only [Tid.mk.injEq, List.mem_cons]
    by_cases hp : p = s.cur.pkg <;> by_cases hd : d = s.cur.die <;> by_cases hn : n = k <;>
      by_cases hm : n ∈ ks <;> by_cases hv : v.getLsbD n = true <;> subst_vars <;> simp_all

/-- Settles O11: each of the instructions waits, or changes the record of its thread; a FENCE of a page or wider also those of
its die, and a SEV the event bits it names. -/
theorem threadControl : Obligations.ThreadControl := by
  intro s th adv quiet
  have hquiet : quietThread (curThr s) = true ↔ quiet := quietThread_iff th
  refine ⟨modCur_only (f := advance) rfl rfl, ?halt, ?notQuiet, ?fenceElem, ?fence, ?wfe, ?wfeWaits, ?sev⟩
  case halt => exact fun hq => modCur_only (congrArg Host.Outcome.next (goes_if_quiet (hquiet.2 hq))) rfl
  case notQuiet =>
    intro hq
    have hn := mt hquiet.1 hq
    exact ⟨congrArg Host.Outcome.next (waits_unless_quiet hn), fun _ => congrArg Host.Outcome.next (waits_unless_quiet hn)⟩
  case fenceElem => exact fun hq => modCur_only (f := fenced) (congrArg Host.Outcome.next (goes_if_quiet (hquiet.2 hq))) rfl
  case fence =>
    intro hq sc hsc
    refine ⟨_, execFence_quiet (hquiet.2 hq) sc hsc, ?_, ?_, ?_, ?_⟩
    · dsimp only; split <;> rfl
    · dsimp only; split <;> rfl
    · have hg : getThr (dropAhead (modCur s fenced) s.cur.pkg s.cur.die) s.cur = fenced th := by
        rw [getThr_dropAhead, if_pos ⟨rfl, rfl⟩]
        rw [modCur, getThr_modThr]
        rfl
      dsimp only; split <;> exact hg
    · intro u hu
      have hg : getThr (dropAhead (modCur s fenced) s.cur.pkg s.cur.die) u =
          if u.pkg = s.cur.pkg ∧ u.die = s.cur.die then clearAhead (getThr s u) else getThr s u := by
        rw [getThr_dropAhead, modCur, getThr_modThr_other _ _ hu]
      dsimp only; split <;> exact hg
  case wfe => exact fun he => modCur_only (congrArg Host.Outcome.next (if_pos he)) rfl
  case wfeWaits => exact fun he => congrArg Host.Outcome.next (if_neg (ne_true_of_eq_false he))
  case sev =>
    intro rs1
    refine ⟨[0, 1, 2, 3].foldl (sevHit (rs s rs1)) (modCur s advance), rfl, sevHits_eq _ _ _, fun u => ?_⟩
    have hthr : u.thr ∈ [0, 1, 2, 3] ↔ u.thr < 4 := by simp; omega
    have hadv : getThr (modCur s advance) u = if u = s.cur then adv else getThr s u := by
      by_cases hu : u = s.cur
      · subst hu; rw [if_pos rfl]; exact getThr_modThr s _ advance
      · rw [if_neg hu]; exact getThr_modThr_other s _ hu
    simp only [getThr_sevHits, hthr, hadv]
    rfl

/-! ### Control registers -/

theorem csrrd_computes {s : State} {rd : RegNo} {c : BitVec 12} {w : Word} (h : readCsr s s.cur c.toNat = w) :
    Computes (.csrrd rd c) s rd w ((curThr s).pc + 4) := finish_computes rfl h rfl

/-- The status word as R267 lays it out. -/
theorem statusWord_eq (th : Thread) : statusWord th = BitVec.ofNat 64 ((if th.ae then 2 else 0) + (if th.ht then 8 else 0) +
    (if th.lsq then 32 else 0) + 2 ^ 16 * min 15 th.levels.length + 2 ^ 20 * min 15 th.pend.length) := by
  unfold statusWord
  cases th.ae <;> cases th.ht <;> cases th.lsq <;> rfl

/-- The three instructions that write a control register write v of its old value (R265). -/
theorem csr_writes {s : State} {rs1 : RegNo} {i : BitVec 12 → Instr} {v : Word → Word}
    (hi : (i = .csrwr rs1 ∧ v = fun _ => rs s rs1) ∨ (i = .csrset rs1 ∧ v = fun old => old ||| rs s rs1) ∨
      (i = .csrclr rs1 ∧ v = fun old => old &&& ~~~(rs s rs1))) (c : BitVec 12) {b : Thread}
    (hb : writeCsr (curThr s) c.toNat (v (readCsr s s.cur c.toNat)) = b) :
    ∃ t, exec (i c) s = .next t ∧ OnlyThread s.cur s t ∧ curThr t = { b with pc := b.pc + 4, pass := 0 } := by
  subst hb
  have of_modCur : ∀ {j : Instr} {f : Thread → Thread} {a : Thread}, exec j s = .next (modCur s f) → f (curThr s) = a →
      ∃ t, exec j s = .next t ∧ OnlyThread s.cur s t ∧ curThr t = a :=
    fun h ha => (modCur_only h ha).imp fun _ ⟨h1, h2, h3⟩ => ⟨h1, h3, h2⟩
  rcases hi with ⟨rfl, rfl⟩ | ⟨rfl, rfl⟩ | ⟨rfl, rfl⟩ <;> exact of_modCur rfl rfl

/-- Settles O15: a read gives the register's value, a write changes its writable fields. -/
theorem controlRegisters : Obligations.ControlRegisters := by
  intro s rd rs1
  refine ⟨csrrd_computes (statusWord_eq _), csrrd_computes rfl, csrrd_computes rfl, csrrd_computes rfl, csrrd_computes rfl,
    csrrd_computes rfl, csrrd_computes rfl, csrrd_computes rfl, csrrd_computes rfl, csrrd_computes rfl, csrrd_computes rfl,
    csrrd_computes rfl, csrrd_computes rfl, csrrd_computes rfl, fun i v hi => ?_⟩
  exact ⟨csr_writes hi 0x000 rfl, csr_writes hi 0x002 rfl, csr_writes hi 0x006 rfl, csr_writes hi 0x007 rfl,
    csr_writes hi 0x010 rfl, csr_writes hi 0x014 rfl⟩

end Sys2Proof.Machine
end

section
/-!
PROOFS. Proofs/DeviceBase.lean: the ends that device instructions share (spec/11 R234 to R237), and their waits at issue.
-/
namespace Sys2Proof.Machine

/-! ### The three classes (R235) -/

/-- An async instruction that has issued. -/
theorem asyncIssue_issues {i : Instr} {s u : State} {rd : RegNo} {w : AsyncWait}
    (h : exec i s = .next (asyncIssue u rd w)) : AsyncIssues i s u rd w := by
  unfold asyncIssue modCur at h
  exact ⟨_, h, modThr_onlyThread u u.cur _, (getThr_modThr u u.cur _).trans (advance_sbSet _ rd)⟩

/-- An async instruction whose result is known at issue. -/
theorem asyncDone_issues {i : Instr} {s u : State} {rd : RegNo} {v : Word}
    (h : exec i s = .next (asyncDone u rd v)) : AsyncIssues i s u rd (.ready v) := asyncIssue_issues h

/-- An instruction whose result is written at once. -/
theorem finish_gives {i : Instr} {s u : State} {rd : RegNo} {v w : Word} (h : exec i s = .next (finish u rd v)) (hv : v = w) :
    Gives i s u rd w := by
  subst hv
  have hc : curThr (finish u rd v) = advance (writeReg (curThr u) rd v) := getThr_modThr u u.cur _
  have ho : OnlyThread u.cur u (finish u rd v) := modThr_onlyThread u u.cur fun th => advance (writeReg th rd v)
  refine ⟨_, h, ?_, ?_, ?_, ?_, ho⟩
  · rw [hc]; exact (readReg_congr rd rfl).trans (readReg_writeReg _ _ _)
  · intro r hr; rw [hc]; exact (readReg_congr r rfl).trans (readReg_writeReg_other _ _ hr)
  · rw [hc]; show (writeReg (curThr u) rd v).pc + 4 = _; rw [writeReg_pc]
  · rw [hc]; unfold OnlyRegsAndPc; rw [writeReg_eq]; rfl

/-- A blocking instruction that waits. -/
theorem blockOn_blocks {i : Instr} {s : State} (h : exec i s = .next (blockOn s i none)) : Blocks i s := by
  unfold blockOn modCur at h
  exact ⟨_, h, modThr_onlyThread s s.cur _, getThr_modThr s s.cur _⟩

/-! ### Conditions at issue -/

theorem asyncFull_of_room {s : State} (h : AsyncRoom s) : asyncFull s = false := decide_eq_false (Nat.not_le.2 h)

theorem asyncFull_of_full {s : State} (h : 4 ≤ (curThr s).asyncs.length) : asyncFull s = true := decide_eq_true h

theorem devWaits_iff (s : State) : devWaits s = true ↔ ¬Quiet s := by
  rw [devWaits, Bool.not_eq_true', ← Bool.not_eq_true, quietThread_iff]; rfl

theorem devWaits_of_quiet {s : State} (h : Quiet s) : devWaits s = false := by
  rw [← Bool.not_eq_true, devWaits_iff]; exact not_not_intro h

/-- The count of a thread's reads in the banks changes nothing that an instruction reads of its thread. -/
theorem Reads.eq {s u : State} {va : Word} {n : Nat} {bs : List Byte} (h : Reads s va n bs u) :
    ∃ m, u = { s with bankModes := m } := by
  obtain ⟨ps, -, hr⟩ := h
  obtain ⟨m, hm⟩ := Laws.readPieces_eq ps s
  exact ⟨m, by rw [← hm, hr]⟩

theorem next_if_pos {c : Prop} [Decidable c] {s t : State} (h : c) :
    Host.Outcome.next (φ := Fault) (ρ := Refusal) (if c then s else t) = .next s := congrArg _ (if_pos h)

theorem next_if_neg {c : Prop} [Decidable c] {s t : State} (h : ¬c) :
    Host.Outcome.next (φ := Fault) (ρ := Refusal) (if c then s else t) = .next t := congrArg _ (if_neg h)

/-- Settles O16: what waits at issue leaves the state as it is. -/
theorem asyncInstructionsWait : Obligations.AsyncInstructionsWait := by
  intro s rd rs1 rs2
  refine ⟨fun h => ?_, fun h h0 => ?_, fun h => ?_, fun h => ?_⟩
  · have hf := asyncFull_of_full h
    simp only [List.forall_mem_cons]
    exact ⟨next_if_pos (.inl hf), next_if_pos hf, next_if_pos (.inl hf), next_if_pos hf, next_if_pos (.inl hf), next_if_pos hf,
      next_if_pos hf, next_if_pos hf, next_if_pos (.inl hf), next_if_pos (.inl hf), next_if_pos (.inl hf), next_if_pos (.inl hf),
      next_if_pos (.inl hf), next_if_pos (.inl hf), next_if_pos hf, fun _ hn => nomatch hn⟩
  · exact (next_if_neg h0).trans (next_if_pos (.inl (asyncFull_of_full h)))
  · have hw : devWaits s = true := (devWaits_iff s).2 fun q => h.elim (· q.1) (· q.2)
    simp only [List.forall_mem_cons]
    exact ⟨next_if_pos (.inr hw), next_if_pos (.inr (.inl hw)), next_if_pos (.inr hw), next_if_pos (.inr hw),
      next_if_pos (.inr hw), next_if_pos (.inr hw), next_if_pos (.inr hw), next_if_pos hw, next_if_pos hw, next_if_pos hw,
      next_if_pos hw, fun _ hn => nomatch hn⟩
  · have ha := (acqWaits_iff _).2 h
    exact ⟨next_if_pos ha, next_if_pos ha⟩

end Sys2Proof.Machine
end

section
/-!
PROOFS. Proofs/StreamCommands.lean: SBIND, SSTART and SBAR (spec/11 R248, R249).
-/
namespace Sys2Proof.Machine

/-- The low 12 bits of a number. -/
theorem bits_11_0 (v : Nat) : bits v 11 0 = v % 4096 := by simp [bits]

/-- A bind whose pattern passes its checks takes a slot of its port. -/
theorem trySbind_reads {s u : State} {rd rs1 rs2 : RegNo} {k : Eng × Nat} {bs : List Byte} {c : StreamCmd}
    (hk : portOf s.cur.pkg (rs s rs1).toNat = some k) (hr : Reads s (rs s rs2) 32 bs u) (hc : patternOf bs = some c)
    (he : patternErr s k (curPart s) c = none) : trySbind rd rs1 rs2 s = bindCmd u rd k c := by
  obtain ⟨ps, hp, hb⟩ := hr
  simp only [trySbind, hk, hp, hb, hc, he, Bool.false_eq_true, if_false]

/-- Once the thread's earlier accesses are performed, a bind is tried. -/
theorem exec_sbind {s : State} (hq : Quiet s) (rd rs1 rs2 : RegNo) :
    exec (.sbind rd rs1 rs2) s = .next (blockOn s (.sbind rd rs1 rs2) (trySbind rd rs1 rs2 s)) :=
  next_if_neg (ne_true_of_eq_false (devWaits_of_quiet hq))

section
variable {s : State} {rd rs1 rs2 : RegNo} {k : Eng × Nat} (hk : portOf s.cur.pkg (rs s rs1).toNat = some k)
include hk

theorem exec_sbar_own (hf : portForeign s k (curPart s) = false) :
    exec (.sbar rd rs1) s = .next (finish (modPort s k fun p => { p with bar := p.order }) rd (okWord 0)) := by
  show execSbar rd rs1 s = _
  simp only [execSbar, hk, hf, Bool.false_eq_true, if_false]

theorem exec_sbar_foreign (hf : portForeign s k (curPart s) = true) :
    exec (.sbar rd rs1) s = .next (finish s rd (errWord 0x0A)) := by
  show execSbar rd rs1 s = _
  simp only [execSbar, hk, hf, if_true]

variable (hq : Quiet s) (hn : (rs s rs2).toNat < 8) (hf : portForeign s k (curPart s) = false)
include hq hn hf

theorem exec_sstart_unbound (hc : cmdAt s k (rs s rs2).toNat = none) :
    exec (.sstart rd rs1 rs2) s = .next (finish s rd (errWord 0x05)) := by
  show execSstart rd rs1 rs2 s = _
  simp only [execSstart, devWaits_of_quiet hq, hk, Nat.not_le.2 hn, hc, hf, Bool.false_eq_true, if_false]

variable {c : StreamCmd} (hc : cmdAt s k (rs s rs2).toNat = some c) (hp : c.part = curPart s)
include hc hp

theorem exec_sstart_started (h0 : c.phase ≠ 0) : exec (.sstart rd rs1 rs2) s = .next (finish s rd (errWord 0x05)) := by
  show execSstart rd rs1 rs2 s = _
  simp only [execSstart, devWaits_of_quiet hq, hk, Nat.not_le.2 hn, hc, hf, hp, h0, Bool.false_eq_true, ne_eq, not_true_eq_false,
    not_false_eq_true, or_self, if_false, if_true]

theorem exec_sstart_bound (h0 : c.phase = 0) : exec (.sstart rd rs1 rs2) s = .next (finish
    (modPort (setCmd s k (rs s rs2).toNat { c with phase := 1, order := (getPort s k).order, by_ := s.cur, bar := (getPort s k).bar })
      k fun p => { p with order := (getPort s k).order + 1 }) rd (okWord 0)) := by
  show execSstart rd rs1 rs2 s = _
  simp only [execSstart, devWaits_of_quiet hq, hk, Nat.not_le.2 hn, hc, hf, hp, h0, Bool.false_eq_true, ne_eq, not_true_eq_false,
    or_self, if_false]

end

/-- Settles O22: each instruction's port is that of its register, and its checks decide among the outcomes. -/
theorem streamInstructions : Obligations.StreamInstructions := by
  intro s rd rs1 rs2 k hk
  refine ⟨fun hq bs u c hr hc he => ⟨fun m hm => ?_, fun hm => ?_⟩,
    fun hq hn hf => ⟨fun hc => finish_gives (exec_sstart_unbound hk hq hn hf hc) rfl,
      fun c hc hp => ⟨fun h0 => finish_gives (exec_sstart_bound hk hq hn hf hc hp h0) rfl,
        fun h0 => finish_gives (exec_sstart_started hk hq hn hf hc hp h0) rfl⟩⟩,
    fun hf => finish_gives (exec_sbar_own hk hf) rfl, fun hf => finish_gives (exec_sbar_foreign hk hf) rfl⟩
  · refine finish_gives (v := okWord m) ?_ rfl
    rw [exec_sbind hq, trySbind_reads hk hr hc he, bindCmd, hm, ← bits_11_0]
    rfl
  · refine blockOn_blocks ?_
    rw [exec_sbind hq, trySbind_reads hk hr hc he, bindCmd, hm]

end Sys2Proof.Machine
end

section
/-!
PROOFS. Proofs/LaunchCommands.lean: GLAUNCH, GKILL, INJECT, PURGE, MSREAD and CLREAD (spec/11 R240 to R244).
-/
namespace Sys2Proof.Machine

/-! ### GLAUNCH and GKILL -/

/-- An append that its queue refuses gives 0x01: the queue is full (R252). -/
theorem appendSlot_refused {s : State} {base log2 : Nat} {body : List Byte} {w : Word}
    (h : appendSlot s base log2 body = .error (.inr w)) : w = errWord 0x01 := by
  unfold appendSlot at h
  split at h
  · nomatch h
  · nomatch h
  · dsimp only at h
    split at h
    · cases h; rfl
    · split at h
      · nomatch h
      · nomatch h

/-- A record that is appended to its queue, or refused (R240, R278). -/
theorem launchRecord_issues {i : Instr} {s u : State} {rd : RegNo} {r : LaunchRec} {m : Tbl BankId BankMode}
    (hu : u = { s with bankModes := m }) (hx : exec i s = .next (launchRecord u rd r)) :
    (∀ q lq, recCode u u.cur.pkg (curPart u) r = none → queueOf u u.cur.pkg (curPart u) r.queue = some (q, lq) →
      (∀ n v, appendSlot u lq.base.toNat lq.log2 (bytesOfRec r) = .ok (n, v) → AsyncIssues i s v rd (.launch q n)) ∧
      (∀ w, appendSlot u lq.base.toNat lq.log2 (bytesOfRec r) = .error (.inr w) → w = errWord 0x01 ∧
        AsyncIssues i s u rd (.ready w)) ∧
      (∀ x, appendSlot u lq.base.toNat lq.log2 (bytesOfRec r) = .error (.inl x) → OpTraps i s u x)) ∧
    (∀ c, recCode u u.cur.pkg (curPart u) r = some c → AsyncIssues i s u rd (.ready (errWord c))) := by
  unfold launchRecord at hx
  refine ⟨fun q lq hc hq => ?_, fun c hc => asyncDone_issues (by rw [hx, hc])⟩
  rw [hc] at hx
  simp only [hq] at hx
  exact ⟨fun n v h => asyncIssue_issues (by rw [hx, h]),
    fun w h => ⟨appendSlot_refused h, asyncDone_issues (by rw [hx, h])⟩, fun x h => opTrap_traps hu (by rw [hx, h])⟩

section
variable {s : State} {rd rs1 rs2 : RegNo} (hr : AsyncRoom s)
include hr

section
variable (hq : Quiet s) (hm : moving s (rs s rs1).toNat = false) (hh : (rs s rs1).toNat < 256)
include hq hm hh

theorem exec_glaunch_plain (hv : rs s rs2 = 0) : exec (.glaunch rd rs1 rs2) s = .next
    (launchRecord s rd (plainRec (rs s rs1).toNat (s.cur.thr + 4 * s.cur.die) (curThr s).agid)) := by
  show execGlaunch rd rs1 rs2 s = _
  simp only [execGlaunch, asyncFull_of_room hr, devWaits_of_quiet hq, hm, Nat.not_le.2 hh, hv, Bool.false_eq_true, or_self,
    if_false, if_true]

theorem exec_glaunch_record (hv : rs s rs2 ≠ 0) {bs : List Byte} {u : State} (hb : Reads s (rs s rs2) 64 bs u) :
    exec (.glaunch rd rs1 rs2) s = .next (launchRecord u rd { recOfBytes bs with graph := (rs s rs1).toNat }) := by
  obtain ⟨ps, hp, hb⟩ := hb
  show execGlaunch rd rs1 rs2 s = _
  simp only [execGlaunch, asyncFull_of_room hr, devWaits_of_quiet hq, hm, Nat.not_le.2 hh, hv, hp, hb, Bool.false_eq_true, or_self,
    if_false]

end

theorem exec_gkill_refused {w : Word} (hl : launchArg s (rs s rs1).toNat = .error w) :
    exec (.gkill rd rs1) s = .next (asyncDone s rd w) := by
  show execGkill rd rs1 s = _
  simp only [execGkill, asyncFull_of_room hr, hl, Bool.false_eq_true, if_false]

variable {l : Launch} (hl : launchArg s (rs s rs1).toNat = .ok l) (hm : moving s l.record.graph = false)
include hl hm

theorem exec_gkill_killed (hk : l.killed = true) :
    exec (.gkill rd rs1) s = .next (asyncIssue s rd (.kill (rs s rs1).toNat 0)) := by
  show execGkill rd rs1 s = _
  simp only [execGkill, asyncFull_of_room hr, hl, hm, hk, Bool.false_eq_true, if_false, if_true]

theorem exec_gkill_live (hk : l.killed = false) : exec (.gkill rd rs1) s = .next
    (asyncIssue (beginKill s s.cur.pkg (rs s rs1).toNat l.why).1 rd
      (.kill (rs s rs1).toNat (beginKill s s.cur.pkg (rs s rs1).toNat l.why).2)) := by
  show execGkill rd rs1 s = _
  simp only [execGkill, asyncFull_of_room hr, hl, hm, hk, Bool.false_eq_true, if_false]

end

/-- Settles O18: a record's checks and its queue decide what a GLAUNCH comes to, the launch what a GKILL does. -/
theorem launchAndKill : Obligations.LaunchAndKill := by
  intro s rd rs1 rs2 hr
  refine ⟨fun hq hm hh => ⟨fun hv => launchRecord_issues (m := s.bankModes) rfl (exec_glaunch_plain hr hq hm hh hv),
      fun hv bs u hb => ?_⟩,
    fun l hl hm => ⟨fun hk => asyncIssue_issues (exec_gkill_killed hr hl hm hk),
      fun hk => asyncIssue_issues (exec_gkill_live hr hl hm hk)⟩,
    fun w hl => asyncDone_issues (exec_gkill_refused hr hl)⟩
  obtain ⟨m, rfl⟩ := hb.eq
  exact launchRecord_issues rfl (exec_glaunch_record hr hq hm hh hv hb)

/-! ### INJECT and PURGE -/

@[simp] theorem firstErr_some (w : Word) (l : List (Option Word)) : firstErr (some w :: l) = some w := rfl

/-- A descriptor with a reserved bit set is refused with 0x02 in every case (R12). -/
theorem inject_bad {s : State} {pkg part : Nat} {d : InjDesc} (hb : d.bad = true) (fid : Nat) :
    inject s pkg part d fid = .error (errWord 0x02) := by
  unfold inject
  rw [hb]
  cases getGraph s (pkg, d.graph) with
  | none => rfl
  | some g =>
    cases getLaunch s (pkg, d.lid) with
    | none => rfl
    | some l =>
      cases ho : g.ops[d.op]? with
      | none => simp only [ho]
      | some o => simp only [ho, refuseIf, Bool.true_or, if_true, firstErr_some]

/-- What an injection outside every level comes to (R21, R242): its refusal, its wait at issue, or the wait for its SOURCE. -/
def injectEnd (s u : State) (rd : RegNo) (d : InjDesc) (x : Except Word State) : State :=
  match x with
  | .error w => asyncDone u rd w
  | .ok v => if injectFull u u.cur.pkg d then s else asyncIssue v rd (.inject u.nextId d.lid)

section
variable {s u : State} {rd rs1 rs2 : RegNo} (hr : AsyncRoom s)
include hr

section
variable (hq : Quiet s) {bs : List Byte} (hb : Reads s (rs s rs1) 32 bs u)
include hq hb

theorem exec_inject_bad (hd : (injOfBytes bs).bad = true) :
    exec (.inject rd rs1) s = .next (asyncDone u rd (errWord 0x02)) := by
  obtain ⟨ps, hp, hb⟩ := hb
  show execInject rd rs1 s = _
  simp only [execInject, asyncFull_of_room hr, devWaits_of_quiet hq, hp, hb, hd, Bool.false_eq_true, or_self, if_false, if_true]

theorem exec_inject_held (hd : (injOfBytes bs).bad = false) (hl : (curThr u).levels ≠ []) (hc : heldCount (curThr u) < 64) :
    exec (.inject rd rs1) s =
      .next (asyncDone (modCur u fun th => holdEffect th (.inject (injOfBytes bs))) rd (okWord 0)) := by
  obtain ⟨ps, hp, hb⟩ := hb
  show execInject rd rs1 s = _
  simp only [execInject, asyncFull_of_room hr, devWaits_of_quiet hq, hp, hb, hd, List.isEmpty_eq_false_iff.2 hl, Nat.not_le.2 hc,
    Bool.not_false, Bool.false_eq_true, or_self, if_false, if_true]

theorem exec_inject_outside (hd : (injOfBytes bs).bad = false) (hl : (curThr u).levels = []) {x : Except Word State}
    (hx : inject { u with nextId := u.nextId + 1 } u.cur.pkg (curPart u) (injOfBytes bs) u.nextId = x) :
    exec (.inject rd rs1) s = .next (injectEnd s u rd (injOfBytes bs) x) := by
  obtain ⟨ps, hp, hb⟩ := hb
  show execInject rd rs1 s = _
  simp only [execInject, asyncFull_of_room hr, devWaits_of_quiet hq, hp, hb, hd, hl, fresh, hx, List.isEmpty_nil,
    Bool.not_true, Bool.false_eq_true, or_self, if_false] <;> rfl

end

/-- A PURGE of a colour of a live launch, once its arguments have been read. -/
theorem exec_purge_tries {v c : Nat} {g : Graph} {l : Launch} (hv : (rs s rs1).toNat = v) (hc : (rs s rs2).toNat = c)
    (hv28 : v < 2 ^ 28) (hc8 : c < 256) (hg : graphArg s (v / 2 ^ 20 % 256) = .ok g) (hl : launchArg s (v % 4096) = .ok l)
    (hreg : v / 2 ^ 12 % 256 < g.regions.length) :
    let k : ColKey := { pkg := s.cur.pkg, graph := v / 2 ^ 20 % 256, region := v / 2 ^ 12 % 256, colour := c }
    exec (.purge rd rs1 rs2) s = .next (match tryPurge s k (v % 4096) with
      | some (t, w) => asyncDone t rd w
      | none => asyncIssue s rd (.purge (v % 4096) k)) := by
  have hb1 : bits v 27 20 = v / 2 ^ 20 % 256 := rfl
  have hb2 : bits v 19 12 = v / 2 ^ 12 % 256 := rfl
  show execPurge rd rs1 rs2 s = _
  simp only [execPurge, asyncFull_of_room hr, hv, hc, bits_11_0, hb1, hb2, Nat.not_le.2 hv28, Nat.not_le.2 hc8, hg, hl,
    Nat.not_le.2 hreg, Bool.false_eq_true, or_self, if_false] <;> rfl

end

section
variable {s : State} {k : ColKey} {lid : Nat}

theorem tryPurge_refused (h : purgeRefused s k lid = true) : tryPurge s k lid = some (s, errWord 0x05) := if_pos h

theorem tryPurge_waits (h : purgeRefused s k lid = false) (hw : purgeWaits s k lid = true) : tryPurge s k lid = none :=
  (if_neg (ne_true_of_eq_false h)).trans (if_pos hw)

theorem tryPurge_removes (h : purgeRefused s k lid = false) (hw : purgeWaits s k lid = false) {g : Graph}
    (hg : getGraph s (k.pkg, k.graph) = some g) : tryPurge s k lid =
      some (reevalAll (purgeCols s (k.pkg, k.graph) g [k] lid).1,
        okWord ((purgeCols s (k.pkg, k.graph) g [k] lid).2 % 2 ^ 32)) := by
  simp only [tryPurge, h, hw, hg, Bool.false_eq_true, if_false]

end

/-- A graph that a register names is a graph of the package. -/
theorem getGraph_of_graphArg {s : State} {v : Nat} {g : Graph} (h : graphArg s v = .ok g) :
    getGraph s (s.cur.pkg, v) = some g := by
  unfold graphArg at h
  split at h
  · nomatch h
  · cases hg : getGraph s (s.cur.pkg, v) with
    | none => rw [hg] at h; nomatch h
    | some x =>
      rw [hg] at h
      dsimp only at h
      split at h
      · nomatch h
      · cases h; rfl

/-- Settles O19: the descriptor and the thread's levels decide what an INJECT comes to, the state of its colour what a PURGE does. -/
theorem injectAndPurge : Obligations.InjectAndPurge := by
  intro s rd rs1 rs2 hr
  refine ⟨fun hq bs u hb => ⟨fun hl x hx => ?inject, fun hd => asyncDone_issues (exec_inject_bad hr hq hb hd),
    fun hd hl hc => asyncDone_issues (exec_inject_held hr hq hb hd hl hc)⟩, ?purge⟩
  case inject =>
    obtain ⟨m, rfl⟩ := hb.eq
    by_cases hd : (injOfBytes bs).bad = true
    · rw [inject_bad hd] at hx
      subst hx
      exact ⟨fun v h => (nomatch h), fun v h => (nomatch h), fun w h => by
        cases h; exact asyncDone_issues (exec_inject_bad hr hq hb hd)⟩
    · have hx' := exec_inject_outside (rd := rd) hr hq hb (Bool.eq_false_iff.2 hd) hl hx
      refine ⟨fun v hv hf => ?_, fun v hv hf => ?_, fun w hv => ?_⟩ <;> subst hv
      · exact asyncIssue_issues (hx'.trans (next_if_neg (ne_true_of_eq_false hf)))
      · exact hx'.trans (next_if_pos hf)
      · exact asyncDone_issues hx'
  case purge =>
    intro v c lid k hv hc g l hg hl hreg
    have hx := exec_purge_tries (rd := rd) hr rfl rfl hv hc hg hl hreg
    refine ⟨fun h => asyncDone_issues (hx.trans ?_), fun h hw => asyncIssue_issues (hx.trans ?_),
      fun h hw => asyncDone_issues (hx.trans ?_)⟩
    · rw [tryPurge_refused h]
    · rw [tryPurge_waits h hw]
    · rw [tryPurge_removes h hw (getGraph_of_graphArg hg)]

/-! ### MSREAD and CLREAD -/

/-- A result that is written to a buffer of the thread (R228, R236). -/
theorem toBuffer_issues {i : Instr} {s : State} {rd : RegNo} {va : Word} {room n : Nat} {bs : List Byte}
    (hx : exec i s = .next (toBuffer s rd va room bs n)) (ha : va.toNat % 8 = 0) :
    (room < bs.length → AsyncIssues i s s rd (.ready (errWord 0x03))) ∧
    (bs.length ≤ room → ¬Quiet s → exec i s = .next s) ∧
    (bs.length ≤ room → Quiet s → ∀ ps, opRange s .write va bs.length = .ok ps →
      AsyncIssues i s (writePieces s bs ps) rd (.ready (okWord n))) := by
  unfold toBuffer at hx
  rw [if_neg (not_not_intro ha)] at hx
  refine ⟨fun hl => asyncDone_issues (by rw [hx, if_pos hl]), fun hl hq => ?_, fun hl hq ps hp => asyncDone_issues ?_⟩
  · rw [hx, if_neg (Nat.not_lt.2 hl), if_pos ((devWaits_iff s).2 hq)]
  · rw [hx, if_neg (Nat.not_lt.2 hl), devWaits_of_quiet hq, hp]; rfl

section
variable {s : State} {rd rs1 rs2 : RegNo} (hr : AsyncRoom s) {v : Nat} (hv : (rs s rs1).toNat = v)
include hr hv

theorem exec_msread_bad (h : 2 ^ 17 ≤ v) : exec (.msread rd rs1 rs2) s = .next (asyncDone s rd (errWord 0x02)) := by
  show execMsread rd rs1 rs2 s = _
  simp only [execMsread, asyncFull_of_room hr, hv, h, Bool.false_eq_true, if_false, if_true]

theorem exec_msread_rows (h : v < 2 ^ 17) (he : v / 2 ^ 6 % 32 ≠ 29) {r : OpRef}
    (hf : findOp s ⟨s.cur.pkg, v / 2 ^ 15 % 4, v / 2 ^ 11 % 16, v / 2 ^ 6 % 32⟩ (v % 64) = some r) (hp : r.g.part = curPart s) :
    let rows := slotRows s ⟨s.cur.pkg, v / 2 ^ 15 % 4, v / 2 ^ 11 % 16, v / 2 ^ 6 % 32⟩ (v % 64)
    exec (.msread rd rs1 rs2) s = .next (toBuffer s rd (rs s rs2) (64 * (rs s rd).toNat) ((rows.map rowNat).flatMap (leBytes 64))
      rows.length) := by
  have hb1 : bits v 16 15 = v / 2 ^ 15 % 4 := rfl
  have hb2 : bits v 14 11 = v / 2 ^ 11 % 16 := rfl
  have hb3 : bits v 10 6 = v / 2 ^ 6 % 32 := rfl
  have hb4 : bits v 5 0 = v % 64 := by simp [bits]
  show execMsread rd rs1 rs2 s = _
  simp only [execMsread, asyncFull_of_room hr, hv, hb1, hb2, hb3, hb4, Nat.not_le.2 h, he, hf, hp, ne_eq, not_true_eq_false,
    Bool.false_eq_true, if_false, List.length_map]

theorem exec_clread_bad (h : 2 ^ 16 ≤ v) : exec (.clread rd rs1 rs2) s = .next (asyncDone s rd (errWord 0x02)) := by
  show execClread rd rs1 rs2 s = _
  simp only [execClread, asyncFull_of_room hr, hv, h, Bool.false_eq_true, if_false, if_true]

theorem exec_clread_region (h : v < 2 ^ 16) {g : Graph} {r : Region} (hg : graphArg s (v % 256) = .ok g)
    (hk : g.regions[v / 256]? = some r) : exec (.clread rd rs1 rs2) s = .next
      (toBuffer s rd (rs s rs2) (rs s rd).toNat (regionBytes r) (regionBytes r).length) := by
  have hb1 : bits v 7 0 = v % 256 := by simp [bits]
  have hb2 : bits v 15 8 = v / 256 := Nat.mod_eq_of_lt (by omega)
  show execClread rd rs1 rs2 s = _
  simp only [execClread, asyncFull_of_room hr, hv, Nat.not_le.2 h, hb1, hb2, hg, hk, Bool.false_eq_true, if_false]

end

/-- Settles O20: what is read is written to the thread's buffer. -/
theorem readbackInstructions : Obligations.ReadbackInstructions := by
  intro s rd rs1 rs2 hr
  exact ⟨fun h he r hf hp ha => toBuffer_issues (exec_msread_rows hr rfl h he hf hp) ha,
    fun h => asyncDone_issues (exec_msread_bad hr rfl h),
    fun h g r hg hk ha => toBuffer_issues (exec_clread_region hr rfl h hg hk) ha,
    fun h => asyncDone_issues (exec_clread_bad hr rfl h)⟩

end Sys2Proof.Machine
end

section
/-!
PROOFS. Proofs/CopyPackets.lean: a CPYQ whose queue misses the TLB loses the count of its packet's read (spec/11 R252; spec/18
R385).
-/
namespace Sys2Proof.Machine

/-- A CPYQ that has read its packet, where the first range of its queue fails with x (R236): the trap is taken from the state before
the read. -/
theorem exec_cpyq_fails {s u : State} {rd rs1 rs2 : RegNo} {c : CopyQ} (hr : AsyncRoom s) (hq : Quiet s)
    (hc : getCopyQ s (s.cur.pkg, s.cur.die, (rs s rs1).toNat) = c) (h : (rs s rs1).toNat < 16) (hs : c.set = true)
    (hp : c.part = curPart s) {bs : List Byte} (hb : Reads s (rs s rs2) 56 bs u) {x : Nat × Word}
    (ha : appendSlot u c.base.toNat c.log2 bs = .error (.inl x)) :
    exec (.cpyq rd rs1 rs2) s = .next (opTrap s x) := by
  obtain ⟨ps, hps, hb⟩ := hb
  show execCpyq rd rs1 rs2 s = _
  simp only [execCpyq, asyncFull_of_room hr, devWaits_of_quiet hq, hc, hs, hp, hps, hb, ha, Nat.not_le.2 h, Bool.not_true,
    Bool.false_eq_true, ne_eq, not_true_eq_false, or_self, if_false]

/-- An operand that misses changes the walks alone (R352). -/
theorem opTrap_miss_bankModes (s : State) (v : Word) : (opTrap s (0, v)).bankModes = s.bankModes := by
  have h : opTrap s (0, v) = noteMiss s (ccEng s.cur.pkg s.cur.die) (curThr s).part v.toNat 0 0 0 := rfl
  rw [h, (noteMiss_spec s _ _ _ _ _ _).1]

/-- The window of partition 0 spans 16 GiB, of which the core's TLB maps the first 8 GiB; copy queue 0 stands in the second half; the
first word of memory, which is the packet's, has an error that its bank corrects and counts. -/
def farQueue : State :=
  { modPart State.reset (0, 0) (fun p => { p with vlimit := 2 ^ 34 }) with
    tlb := [{ eng := ccEng 0 0, part := 0, vpage := 0, bits := 33, ent := 0x1F }]
    copyQs := [((0, 0, 0), { set := true, base := 0x200000000, log2 := 2 })]
    ecc := [(0, .single)] }

theorem farQueue_packet : opRange farQueue .read 0 56 = .ok [(.hbm 0, 56)] := by decide +kernel

/-- The state of farQueue with the packet's read counted, and the packet. -/
def farQueueRead : List Byte × Bool × State := readPieces farQueue [(.hbm 0, 56)]

theorem farQueue_reads : Reads farQueue 0 56 farQueueRead.1 farQueueRead.2.2 := by
  have h : farQueueRead.2.1 = false := rfl
  exact ⟨_, farQueue_packet, by rw [← h]; rfl⟩

/-- The read has been counted by its bank. -/
theorem farQueueRead_counted : farQueueRead.2.2.bankModes ≠ farQueue.bankModes := List.isEmpty_eq_false_iff.1 rfl

theorem farQueueRead_misses : appendSlot farQueueRead.2.2 0x200000000 2 farQueueRead.1 = .error (.inl (0, 0x200000000)) := rfl

/-- Refutes O23: in farQueue the packet's bank has counted a corrected error, the queue's page misses, and the step goes on from the
state without that count. -/
theorem not_copyAndBarrierInstructions : ¬ Obligations.CopyAndBarrierInstructions := by
  intro h
  have hroom : AsyncRoom farQueue := by unfold AsyncRoom; decide
  have hquiet : Quiet farQueue := ⟨rfl, rfl⟩
  obtain ⟨-, -, -, own⟩ := (h.1 farQueue 1 0 0).1 hroom hquiet
  obtain ⟨-, -, traps⟩ := own (by decide) rfl rfl _ _ farQueue_reads
  obtain ⟨t, hx, ht, -⟩ := (traps _ farQueueRead_misses).1 rfl
  have hs := exec_cpyq_fails (rd := 1) (rs1 := 0) (rs2 := 0) hroom hquiet (c := getCopyQ farQueue (0, 0, 0)) rfl (by decide) rfl rfl farQueue_reads
    farQueueRead_misses
  have hbm : t.bankModes = farQueueRead.2.2.bankModes := by rw [ht]
  rw [hs] at hx
  cases hx
  exact farQueueRead_counted (hbm.symm.trans (opTrap_miss_bankModes _ _))

end Sys2Proof.Machine
end

section
/-!
PROOFS. Proofs/ChannelCommands.lean: CHOPEN, CHWR, CHRD, CHTRY and CHCLOSE (spec/11 R255 to R257).
-/
namespace Sys2Proof.Machine

/-! ### CHOPEN -/

theorem exec_chopen_opens {s u x : State} {rd rs1 rs2 : RegNo} {bs : List Byte} {n : Nat} (hr : AsyncRoom s) (hq : Quiet s)
    (h3 : (rs s rs2).toNat < 3) (hb : Reads s (rs s rs1) 16 bs u) (hk : (chanRecOf (leNat bs)).ok = true)
    (ho : openChan u (chanRecOf (leNat bs)) (rs s rs2).toNat = .ok (n, x)) :
    exec (.chopen rd rs1 rs2) s = .next (asyncDone x rd (okWord n)) := by
  obtain ⟨ps, hp, hb⟩ := hb
  show execChopen rd rs1 rs2 s = _
  simp only [execChopen, asyncFull_of_room hr, devWaits_of_quiet hq, Nat.not_le.2 h3, hp, hb, hk, ho, Bool.not_true,
    Bool.false_eq_true, or_self, if_false]

/-- A channel that opens takes a free entry of the core's die and holds no record. -/
theorem openChan_opens {s u x : State} {c : ChanRec} {role n : Nat} (hcur : u.cur = s.cur) (hch : u.chans = s.chans)
    (h : openChan u c role = .ok (n, x)) :
    ∃ i, n = i + s.cur.die * 2 ^ 12 ∧ (getChan s (s.cur.pkg, s.cur.die, i)).state = 0 ∧
      (getChan x (s.cur.pkg, s.cur.die, i)).state = 1 ∧ (getChan x (s.cur.pkg, s.cur.die, i)).recs = [] ∧
      (getChan x (s.cur.pkg, s.cur.die, i)).name = c.name := by
  have hget : ∀ j, getChan u j = getChan s j := fun j => by unfold getChan; rw [hch]
  unfold openChan at h
  simp only [hcur] at h
  split at h
  · nomatch h
  · split at h
    · next i page m o hfree _ =>
      cases h
      have h0 : (getChan u (s.cur.pkg, s.cur.die, i)).state = 0 := of_decide_eq_true (List.find?_some (p := fun i =>
        decide ((getChan u (s.cur.pkg, s.cur.die, i)).state = 0)) hfree)
      rw [hget] at h0
      exact ⟨i, rfl, h0, by rw [getChan_setChan], by rw [getChan_setChan], by rw [getChan_setChan]⟩
    · nomatch h

/-! ### CHWR -/

section
variable {s u : State} {rd rs1 rs2 : RegNo} {k : ChanKey} {bs : List Byte} (hk : writerArg s (rs s rs1).toNat = .ok k)
  (hb : Reads s (rs s rs2) (recBytes (getChan s k)) bs u)
include hk hb

theorem tryChwr_waits (hq : ¬Quiet s) : tryChwr rd rs1 rs2 s = none := by
  obtain ⟨ps, hp, hb⟩ := hb
  simp only [tryChwr, hk, hp, (devWaits_iff s).2 hq, if_true]

theorem tryChwr_puts (hq : Quiet s) (hl : (curThr s).levels = []) : tryChwr rd rs1 rs2 s = match putRec u k bs with
    | .wait => none
    | .quota a n => some (quotaTrap s k a n)
    | .ok x => some (finish x rd (okWord 0)) := by
  obtain ⟨ps, hp, hb⟩ := hb
  simp only [tryChwr, hk, hp, hb, devWaits_of_quiet hq, hl, List.isEmpty_nil, Bool.not_true, Bool.false_eq_true, if_false] <;> rfl

end

/-! ### CHRD and CHTRY -/

section
variable {s : State} {k : ChanKey} {ps : List (Target × Nat)}

theorem takeFor_empty (h : headRec (getChan s k) = none) (hc : (getChan s k).state ≠ 2 ∨ (getChan s k).recs ≠ []) :
    takeFor s k ps = .empty := by
  unfold takeFor
  rw [h]
  exact if_neg fun hn => hc.elim (· hn.1) (· (List.isEmpty_iff.1 hn.2))

theorem takeFor_ended (h : headRec (getChan s k) = none) (h2 : (getChan s k).state = 2) (hr : (getChan s k).recs = []) :
    takeFor s k ps = .word (errWord 0x0B) s := by
  unfold takeFor
  rw [h]
  exact if_pos ⟨h2, List.isEmpty_iff.2 hr⟩

variable {q : Rec} (h : headRec (getChan s k) = some q)
include h

theorem takeFor_waits (hg : recGrants s k q = false) : takeFor s k ps = .wait := by
  simp only [takeFor, h, hg, Bool.not_false, if_true]

theorem takeFor_takes (hg : recGrants s k q = true) (hd : (readRecBytes s k q).2 = false) (hp : q.poison = false) :
    takeFor s k ps = .word (okWord 0)
      (modCur (writePieces (takeRec (countRec s k q) k) (readRecBytes s k q).1 ps) clearAhead) := by
  simp only [takeFor, h, hg, hd, hp, Bool.not_true, Bool.false_eq_true, or_self, if_false]

end

section
variable {s : State} {rd rs1 rs2 : RegNo} {k : ChanKey} {ps : List (Target × Nat)} (hq : Quiet s)
  (hk : readerArg s (rs s rs1).toNat = .ok k) (hp : opRange s .write (rs s rs2) (recBytes (getChan s k)) = .ok ps)
include hq hk hp

/-- A CHRD of a readable buffer blocks, or ends as the take of its record says. -/
theorem exec_chrd_takes : exec (.chrd rd rs1 rs2) s = .next (blockOn s (.chrd rd rs1 rs2) (match takeFor s k ps with
    | .empty | .wait => none
    | .word w s => some (finish s rd w)
    | .unwound s => some s)) := by
  refine (next_if_neg (ne_true_of_eq_false (devWaits_of_quiet hq))).trans ?_
  simp only [tryChrd, hk, hp] <;> rfl

/-- A CHTRY ends as the take of its record says. -/
theorem exec_chtry_takes (hr : AsyncRoom s) : exec (.chtry rd rs1 rs2) s = .next (match takeFor s k ps with
    | .empty => asyncDone s rd (errWord 0x01)
    | .wait => s
    | .word w s => asyncDone s rd w
    | .unwound s => s) := by
  show execChtry rd rs1 rs2 s = _
  simp only [execChtry, asyncFull_of_room hr, devWaits_of_quiet hq, hk, hp, Bool.false_eq_true, or_self, if_false] <;> rfl

end

/-! ### CHCLOSE -/

section
variable {s : State} {rd rs1 : RegNo} {k : ChanKey} (hr : AsyncRoom s) (hk : chanArg s (rs s rs1).toNat = .ok k)
include hr hk

theorem exec_chclose_writer (hw : (getChan s k).wep = .thread s.cur) :
    exec (.chclose rd rs1) s = .next (asyncDone (setChan s k (detachWriter (getChan s k))) rd (okWord 0)) := by
  show execChclose rd rs1 s = _
  simp only [execChclose, asyncFull_of_room hr, hk, hw, Bool.false_eq_true, if_false, if_true]

variable (hw : (getChan s k).wep ≠ .thread s.cur)
include hw

theorem exec_chclose_opener (ho : (getChan s k).ownerThread = some s.cur ∧ (getChan s k).wep = .none ∧ (getChan s k).rep = .none ∧
    (getChan s k).recs = []) :
    exec (.chclose rd rs1) s = .next (asyncDone (reevalAll (freeChan s k)) rd (okWord 0)) := by
  show execChclose rd rs1 s = _
  simp only [execChclose, asyncFull_of_room hr, hk, hw, List.isEmpty_iff, if_pos ho, Bool.false_eq_true, if_false]

theorem exec_chclose_refused (ho : ¬((getChan s k).ownerThread = some s.cur ∧ (getChan s k).wep = .none ∧
    (getChan s k).rep = .none ∧ (getChan s k).recs = [])) :
    exec (.chclose rd rs1) s = .next (asyncDone s rd (errWord 0x05)) := by
  show execChclose rd rs1 s = _
  simp only [execChclose, asyncFull_of_room hr, hk, hw, List.isEmpty_iff, if_neg ho, Bool.false_eq_true, if_false]

end

/-- Settles O24: an open channel's record and ends decide what each instruction comes to. -/
theorem channelInstructions : Obligations.ChannelInstructions := by
  intro s rd rs1 rs2 k
  refine ⟨?opens, ?writes, ?reads, ?closes⟩
  case opens =>
    intro hr hq bs u n x h3 hb hk ho
    have hu : u.cur = s.cur ∧ u.chans = s.chans := by obtain ⟨m, rfl⟩ := hb.eq; exact ⟨rfl, rfl⟩
    exact ⟨asyncDone_issues (exec_chopen_opens hr hq h3 hb hk ho), openChan_opens hu.1 hu.2 ho⟩
  case writes =>
    intro hk hl bs u hb
    have hx : exec (.chwr rd rs1 rs2) s = .next (blockOn s (.chwr rd rs1 rs2) (tryChwr rd rs1 rs2 s)) := rfl
    refine ⟨fun hq => blockOn_blocks (hx.trans ?_), fun x hq hput => finish_gives (hx.trans ?_) rfl,
      fun hq hput => blockOn_blocks (hx.trans ?_)⟩
    · rw [tryChwr_waits hk hb hq]
    · rw [tryChwr_puts hk hb hq hl, hput]; rfl
    · rw [tryChwr_puts hk hb hq hl, hput]
  case reads =>
    intro hq hk ps hp
    have hrd := exec_chrd_takes (rd := rd) hq hk hp
    have htry := exec_chtry_takes (rd := rd) hq hk hp
    refine ⟨fun h hc => blockOn_blocks (hrd.trans ?_), fun h h2 he => finish_gives (hrd.trans ?_) rfl,
      fun q h hg => ⟨blockOn_blocks (hrd.trans ?_), fun hr => (htry hr).trans ?_⟩,
      fun q h hg hd hp => finish_gives (hrd.trans ?_) rfl, fun hr h hc => asyncDone_issues ((htry hr).trans ?_),
      fun hr h h2 he => asyncDone_issues ((htry hr).trans ?_), fun hr q h hg hd hp => asyncDone_issues ((htry hr).trans ?_)⟩
    · rw [takeFor_empty h hc]
    · rw [takeFor_ended h h2 he]; rfl
    · rw [takeFor_waits h hg]
    · rw [takeFor_waits h hg]
    · rw [takeFor_takes h hg hd hp]; rfl
    · rw [takeFor_empty h hc]
    · rw [takeFor_ended h h2 he]
    · rw [takeFor_takes h hg hd hp]
  case closes =>
    intro hr hk
    refine ⟨fun hw => asyncDone_issues (exec_chclose_writer hr hk hw),
      fun hw h1 h2 h3 h4 => asyncDone_issues (exec_chclose_opener hr hk hw ⟨h1, h2, h3, h4⟩),
      fun hw ho => asyncDone_issues (exec_chclose_refused hr hk hw ?_)⟩
    rintro ⟨h1, h2, h3, h4⟩
    exact ho.elim (· h1) fun h => h.elim (· h2) fun h => h.elim (· h3) (· h4)

end Sys2Proof.Machine
end

section
/-!
PROOFS. Proofs/TimeAndLevels.lean: TIME, TWSET, TWCLR, QSET, QGET and the containment levels (spec/11 R258 to R261).
-/
namespace Sys2Proof.Machine

/-! ### Timers (R258) -/

section
variable {s : State} {rd rs1 rs2 : RegNo}

theorem exec_twset_plain (hq : Quiet s) (hv : rs s rs2 = 0) :
    exec (.twset rd rs1 rs2) s = .next (enterTwset s rd (rs s rs1) none) := by
  show execTwset rd rs1 rs2 s = _
  simp only [execTwset, devWaits_of_quiet hq, hv, Bool.false_eq_true, if_false, if_true]

theorem enterTwset_full (due : Word) (d : Option InjDesc) (hf : freeTimer s s.cur.pkg s.cur.die = none) :
    enterTwset s rd due d = finish s rd (errWord 0x03) := by
  unfold enterTwset
  rw [hf]

/-- The state in which a wheel has given out the handle h. -/
def handleUsed (s : State) (h : Nat) : State :=
  modWheel s (s.cur.pkg, s.cur.die) fun w => { w with used := h :: w.used.filter fun g => decide (g ≠ h) }

theorem enterTwset_enters (due : Word) {h : Nat} (hf : freeTimer s s.cur.pkg s.cur.die = some h) (hl : (curThr s).levels = []) :
    enterTwset s rd due none =
      finish (addTimer (handleUsed s h) s.cur.pkg s.cur.die due.toNat (some h) (.twset s.cur none)) rd (okWord h) := by
  have hn : ¬((!(curThr s).levels.isEmpty) = true) := by rw [hl]; decide
  unfold enterTwset
  rw [hf]
  exact (if_neg fun h => hn h.1).trans (if_neg hn)

/-- An entry stands behind those of its wheel. -/
theorem addTimer_handleUsed (h due : Nat) (what : TimerWhat) :
    let u := addTimer (handleUsed s h) s.cur.pkg s.cur.die due (some h) what
    u = { s with wheels := u.wheels, nextId := s.nextId + 1 } ∧ (getWheel u (s.cur.pkg, s.cur.die)).ents =
      (getWheel s (s.cur.pkg, s.cur.die)).ents ++ [{ due := due, order := s.nextId, handle := some h, what := what
                                                     bound := boundOf (getPkg s s.cur.pkg).time due
                                                     far := decide ((getPkg s s.cur.pkg).time + wheelSpan < due) }] := by
  refine ⟨rfl, ?_⟩
  have hw : getWheel (fresh (handleUsed s h)).2 (s.cur.pkg, s.cur.die) =
      { getWheel s (s.cur.pkg, s.cur.die) with
          used := h :: (getWheel s (s.cur.pkg, s.cur.die)).used.filter fun g => decide (g ≠ h) } := getWheel_setWheel s _ _
  have hget : ∀ f, getWheel (modWheel (fresh (handleUsed s h)).2 (s.cur.pkg, s.cur.die) f) (s.cur.pkg, s.cur.die) =
      f (getWheel (fresh (handleUsed s h)).2 (s.cur.pkg, s.cur.die)) := fun f => getWheel_setWheel _ _ _
  refine (congrArg Wheel.ents (hget _)).trans ?_
  rw [hw]
  rfl

variable {a : Nat} (ha : (rs s rs1).toNat = a)
include ha

section
variable {x : TimerEnt} {t : Tid} {d : Option InjDesc}
  (hx : (getWheel s (s.cur.pkg, s.cur.die)).ents.find? (fun x => decide (x.handle = some a)) = some x) (hw : x.what = .twset t d)
include hx hw

theorem exec_twclr_own (hp : (getThr s t).part = curPart s) : exec (.twclr rd rs1) s =
    .next (finish (touchTwset (dropEnt s s.cur.pkg s.cur.die x) s.cur.pkg d) rd (okWord 0)) := by
  show execTwclr rd rs1 s = _
  simp only [execTwclr, ha, hx, hw, hp, ne_eq, not_true_eq_false, if_false]

theorem exec_twclr_foreign (hp : (getThr s t).part ≠ curPart s) :
    exec (.twclr rd rs1) s = .next (finish s rd (errWord 0x0A)) := by
  show execTwclr rd rs1 s = _
  simp only [execTwclr, ha, hx, hw, if_pos hp]

end

theorem exec_twclr_none (hx : (getWheel s (s.cur.pkg, s.cur.die)).ents.find? (fun x => decide (x.handle = some a)) = none)
    (hh : (heldHandles s s.cur.pkg s.cur.die).contains a = false) : exec (.twclr rd rs1) s =
      .next (finish s rd (if (getWheel s (s.cur.pkg, s.cur.die)).used.contains a then errWord 0x0C else errWord 0x04)) := by
  show execTwclr rd rs1 s = _
  simp only [execTwclr, ha, hx, hh, Bool.false_eq_true, if_false, apply_ite (finish s rd)]

/-! ### Quotas (R261) -/

theorem exec_qset_sets (h : a < 4096) : exec (.qset rd rs1 rs2) s = .next
    (finish (modQuota s (s.cur.pkg, curPart s, a) fun q => { q with quota := (rs s rs2).toNat }) rd
      (okWord (getQuota s (s.cur.pkg, curPart s, a)).quota)) := by
  show execQset rd rs1 rs2 s = _
  simp only [execQset, ha, Nat.not_le.2 h, if_false]

theorem exec_qset_bad (h : 4096 ≤ a) : exec (.qset rd rs1 rs2) s = .next (finish s rd (errWord 0x02)) := by
  show execQset rd rs1 rs2 s = _
  simp only [execQset, ha, h, if_true]

theorem exec_qget_bad (h : 4096 ≤ a ∨ 3 ≤ (rs s rs2).toNat) :
    exec (.qget rd rs1 rs2) s = .next (finish s rd (errWord 0x02)) := by
  show execQget rd rs1 rs2 s = _
  simp only [execQget, ha, if_pos h]

/-- The three items of a quota (R261): the quota, its usage, its breaches. -/
def quotaItem (q : Quota) (b : Nat) : Nat :=
  match b with
  | 0 => q.quota
  | 1 => q.usage
  | _ => q.breaches

theorem exec_qget_reads (h : a < 4096) {b : Nat} (hb : (rs s rs2).toNat = b) (h3 : b < 3) :
    exec (.qget rd rs1 rs2) s = .next (finish s rd (okWord (quotaItem (getQuota s (s.cur.pkg, curPart s, a)) b))) := by
  show execQget rd rs1 rs2 s = _
  simp only [execQget, ha, hb, Nat.not_le.2 h, Nat.not_le.2 h3, or_self, if_false] <;> rfl

end

/-! ### Containment levels (R259, R260) -/

section
variable {s : State} {rd rs1 rs2 : RegNo}

theorem exec_crgno_opens (h : (curThr s).levels.length < 8) : exec (.crgno rd rs1) s = .next (finish
    (modCur s fun th => { th with levels := th.levels ++ [{ handler := rs s rs1, ret := th.pc + 4 }] }) rd
      (okWord ((curThr s).levels.length + 1))) := by
  show execCrgno rd rs1 s = _
  simp only [execCrgno, Nat.not_le.2 h, if_false]

theorem exec_crgno_full (h : 8 ≤ (curThr s).levels.length) :
    exec (.crgno rd rs1) s = .next (finish s rd (errWord 0x03)) := by
  show execCrgno rd rs1 s = _
  simp only [execCrgno, h, if_true]

theorem exec_crgnc_level : exec (.crgnc rd 0 rs2) s = .next (closeLevel s rd) := next_if_pos rfl

theorem closeLevel_none (h : (curThr s).levels = []) : closeLevel s rd = finish s rd (errWord 0x05) := by
  simp only [closeLevel, h, List.getLast?_nil]

theorem closeLevel_outer {l : Level} (h : (curThr s).levels = [l]) : closeLevel s rd = closeOuter s rd l := by
  simp only [closeLevel, h, List.getLast?_singleton, List.dropLast_singleton, List.isEmpty_nil]

theorem closeLevel_inner {up : List Level} {m l : Level} (h : (curThr s).levels = up ++ [m, l]) : closeLevel s rd = finish
    (modCur s fun th => { th with levels := up ++ [{ m with held := m.held ++ l.held }] }) rd (okWord 0) := by
  have hl : up ++ [m, l] = (up ++ [m]) ++ [l] := by rw [List.append_assoc]; rfl
  have he : (up ++ [m]).isEmpty = false := List.isEmpty_eq_false_iff.2 (List.append_ne_nil_of_right_ne_nil _ (by simp))
  have hm : (up ++ [m]).modify ((up ++ [m]).length - 1) (fun m => { m with held := m.held ++ l.held }) =
      up ++ [{ m with held := m.held ++ l.held }] := by
    rw [List.length_append, List.length_singleton, Nat.add_sub_cancel, List.modify_eq_take_cons_drop (by simp)]
    simp
  simp only [closeLevel, h, hl, List.getLast?_concat, List.dropLast_concat, he, hm]

/-- The outermost level closes once its effects have been performed. -/
theorem closeOuter_performs {l : Level} {u : State} (hq : l.held = [] ∨ Quiet s) (hp : performAll s l.held = (u, [], none)) :
    closeOuter s rd l = finish (modCur u fun th => { th with levels := [] }) rd (okWord 0) := by
  have hw : ¬((!l.held.isEmpty) = true ∧ devWaits s = true) := by
    rintro ⟨h1, h2⟩
    rcases hq with he | hq
    · rw [he] at h1; exact Bool.false_ne_true h1
    · exact (devWaits_iff s).1 h2 hq
  simp only [closeOuter, if_neg hw, hp]

/-- A CRGNC on a held containment, once its record has been read. -/
theorem exec_crgnc_reads {bs : List Byte} {u : State} (h0 : rs1 ≠ 0) (hr : AsyncRoom s) (hq : Quiet s)
    (hb : Reads s (rs s rs1) 16 bs u) : exec (.crgnc rd rs1 rs2) s = .next (instanceAct u rd bs (rs s rs2).toNat) := by
  obtain ⟨ps, hp, hb⟩ := hb
  show execCrgnc rd rs1 rs2 s = _
  simp only [execCrgnc, h0, asyncFull_of_room hr, devWaits_of_quiet hq, hp, hb, Bool.false_eq_true, or_self, if_false]

variable {bs : List Byte} {act : Nat} {g : Graph} (h1 : field bs 8 2 < 4096) (h2 : field bs 11 1 = 0) (h3 : field bs 14 2 = 0)
  (ha : act = 1 ∨ act = 2) (hg : graphArg s (field bs 10 1) = .ok g) (hc : field bs 12 2 < g.conts.length)
include h1 h2 h3 ha hg hc

/-- What a CRGNC does with the containment that its record names (R260). -/
theorem instanceAct_acts :
    let key := BitVec.ofNat 64 (field bs 0 8)
    let k := instAt g (field bs 12 2) key
    let x := getInst g k.1 k.2
    (x.state ≠ 3 ∨ x.key ≠ key ∨ x.lid ≠ field bs 8 2 → instanceAct s rd bs act = asyncDone s rd (errWord 0x05)) ∧
    (x.state = 3 → x.key = key → x.lid = field bs 8 2 →
      (act = 1 → replayRoom s (s.cur.pkg, field bs 10 1) g k.1 k.2 = false → instanceAct s rd bs act = s) ∧
      (act = 2 ∨ replayRoom s (s.cur.pkg, field bs 10 1) g k.1 k.2 = true → instanceAct s rd bs act =
        asyncDone (resolveInst s (s.cur.pkg, field bs 10 1) g k.1 k.2 (decide (act = 1))) rd (okWord 0))) := by
  intro key k x
  have hok : ¬(4096 ≤ field bs 8 2 ∨ field bs 11 1 ≠ 0 ∨ field bs 14 2 ≠ 0 ∨ (act ≠ 1 ∧ act ≠ 2)) := by omega
  have hact : instanceAct s rd bs act =
      if x.state ≠ 3 ∨ x.key ≠ key ∨ x.lid ≠ field bs 8 2 then asyncDone s rd (errWord 0x05)
      else if act = 1 ∧ !replayRoom s (s.cur.pkg, field bs 10 1) g k.1 k.2 then s
      else asyncDone (resolveInst s (s.cur.pkg, field bs 10 1) g k.1 k.2 (decide (act = 1))) rd (okWord 0) := by
    simp only [instanceAct, if_neg hok, hg, Nat.not_le.2 hc, if_false]
    rfl
  refine ⟨fun hne => hact.trans (if_pos hne), fun hs hk hl => ?_⟩
  have hrest := hact.trans (if_neg (by rw [hs, hk, hl]; simp))
  refine ⟨fun h h' => hrest.trans (if_pos ⟨h, by rw [h']; rfl⟩), fun h => hrest.trans (if_neg ?_)⟩
  rintro ⟨rfl, hn⟩
  rcases h with h | h
  · exact absurd h (by decide)
  · rw [h] at hn; exact Bool.false_ne_true hn

end

/-- Settles O25: the timers and the quotas of the thread's partition, then its containment levels. -/
theorem timeQuotasAndLevels : Obligations.TimeQuotasAndLevels := by
  refine ⟨fun s rd rs1 rs2 => ?_, fun s rd rs1 rs2 => ?_⟩
  · refine ⟨finish_computes rfl rfl rfl, fun hq hb hl h hf => ?_, fun hq hb hf => ?_, fun x t d hx hw => ⟨fun hp => ?_, fun hp => ?_⟩,
      fun hx hh => ⟨fun hu => ?_, fun hu => ?_⟩, fun ha => finish_gives (exec_qset_sets rfl ha) rfl,
      fun ha => finish_computes (exec_qset_bad rfl ha) rfl rfl,
      fun ha hb => finish_computes (exec_qget_reads rfl ha hb (by decide)) rfl rfl,
      fun ha hb => finish_computes (exec_qget_reads rfl ha hb (by decide)) rfl rfl,
      fun ha hb => finish_computes (exec_qget_reads rfl ha hb (by decide)) rfl rfl,
      fun h => finish_computes (exec_qget_bad rfl h) rfl rfl⟩
    · have hv : rs s rs2 = 0 := BitVec.eq_of_toNat_eq hb
      obtain ⟨he, hents⟩ := addTimer_handleUsed (s := s) h (rs s rs1).toNat (.twset s.cur none)
      exact ⟨_, finish_gives ((exec_twset_plain hq hv).trans (congrArg _ (enterTwset_enters _ hf hl))) rfl, rfl, he, hents⟩
    · have hv : rs s rs2 = 0 := BitVec.eq_of_toNat_eq hb
      exact finish_computes ((exec_twset_plain hq hv).trans (congrArg _ (enterTwset_full _ _ hf))) rfl rfl
    · exact finish_gives (exec_twclr_own rfl hx hw hp) rfl
    · exact finish_computes (exec_twclr_foreign rfl hx hw hp) rfl rfl
    · exact finish_computes (exec_twclr_none rfl hx hh) (if_pos hu) rfl
    · exact finish_computes (exec_twclr_none rfl hx hh) (if_neg (ne_true_of_eq_false hu)) rfl
  · have hx : exec (.crgnc rd 0 rs2) s = .next (closeLevel s rd) := exec_crgnc_level
    refine ⟨fun h => finish_gives (exec_crgno_opens h) rfl, fun h => finish_computes (exec_crgno_full h) rfl rfl,
      fun h => finish_computes (hx.trans (congrArg _ (closeLevel_none h))) rfl rfl, fun l h he => finish_gives (hx.trans ?_) rfl,
      fun l u h hq hp => finish_gives (hx.trans ?_) rfl, fun up m l h => finish_gives (hx.trans (congrArg _ (closeLevel_inner h))) rfl,
      fun h0 hr hq bs u hb g => ?_⟩
    · rw [closeLevel_outer h, closeOuter_performs (.inl he) (by rw [he]; rfl)]
    · rw [closeLevel_outer h, closeOuter_performs (.inr hq) hp]
    · intro key act h1 h2 h3 ha hg hc
      have hread := exec_crgnc_reads (rd := rd) (rs2 := rs2) h0 hr hq hb
      obtain ⟨refused, acts⟩ := instanceAct_acts (rd := rd) h1 h2 h3 ha hg hc
      refine ⟨fun hne => asyncDone_issues (hread.trans (congrArg _ (refused hne))), fun hs hk hl => ?_⟩
      obtain ⟨waits, resolves⟩ := acts hs hk hl
      exact ⟨fun h hr => hread.trans (congrArg _ (waits h hr)),
        fun h => asyncDone_issues (hread.trans (congrArg _ (resolves h)))⟩

end Sys2Proof.Machine
end

section
/-!
PROOFS. Proofs/Footprint.lean: which fields of the state an operation may change.
-/
namespace Sys2Proof.Machine

/-- The fields of the state. -/
inductive Field where
  | threads | coreNext | engines | inFlight | updates | allocWait | graphs | launches | launchQs | breaks | sources
  | tiles | chunkWrites | retires | memTiles | chans | bars | hbm | l0 | hostMem | ecc | eccL0 | bankModes | reqs
  | watchHolds | walks | ranges | xfers | copies | copyQs | vtiles | islands | groups | xunits | streams | lanes
  | packets | inbox | straits | acks | nacks | cables | exits | badPages | partitions | pageOwner | pageOn | barRuns
  | quotas | slotTabs | wheels | reports | qmReports | tlb | stops | traces | watches | fns | packages | agenda | tick
  | cur | freeCount | nextId
  deriving DecidableEq

/-- Two states agree on a field. -/
def Field.Same : Field → State → State → Prop
  | .threads, s, t => t.threads = s.threads
  | .coreNext, s, t => t.coreNext = s.coreNext
  | .engines, s, t => t.engines = s.engines
  | .inFlight, s, t => t.inFlight = s.inFlight
  | .updates, s, t => t.updates = s.updates
  | .allocWait, s, t => t.allocWait = s.allocWait
  | .graphs, s, t => t.graphs = s.graphs
  | .launches, s, t => t.launches = s.launches
  | .launchQs, s, t => t.launchQs = s.launchQs
  | .breaks, s, t => t.breaks = s.breaks
  | .sources, s, t => t.sources = s.sources
  | .tiles, s, t => t.tiles = s.tiles
  | .chunkWrites, s, t => t.chunkWrites = s.chunkWrites
  | .retires, s, t => t.retires = s.retires
  | .memTiles, s, t => t.memTiles = s.memTiles
  | .chans, s, t => t.chans = s.chans
  | .bars, s, t => t.bars = s.bars
  | .hbm, s, t => t.hbm = s.hbm
  | .l0, s, t => t.l0 = s.l0
  | .hostMem, s, t => t.hostMem = s.hostMem
  | .ecc, s, t => t.ecc = s.ecc
  | .eccL0, s, t => t.eccL0 = s.eccL0
  | .bankModes, s, t => t.bankModes = s.bankModes
  | .reqs, s, t => t.reqs = s.reqs
  | .watchHolds, s, t => t.watchHolds = s.watchHolds
  | .walks, s, t => t.walks = s.walks
  | .ranges, s, t => t.ranges = s.ranges
  | .xfers, s, t => t.xfers = s.xfers
  | .copies, s, t => t.copies = s.copies
  | .copyQs, s, t => t.copyQs = s.copyQs
  | .vtiles, s, t => t.vtiles = s.vtiles
  | .islands, s, t => t.islands = s.islands
  | .groups, s, t => t.groups = s.groups
  | .xunits, s, t => t.xunits = s.xunits
  | .streams, s, t => t.streams = s.streams
  | .lanes, s, t => t.lanes = s.lanes
  | .packets, s, t => t.packets = s.packets
  | .inbox, s, t => t.inbox = s.inbox
  | .straits, s, t => t.straits = s.straits
  | .acks, s, t => t.acks = s.acks
  | .nacks, s, t => t.nacks = s.nacks
  | .cables, s, t => t.cables = s.cables
  | .exits, s, t => t.exits = s.exits
  | .badPages, s, t => t.badPages = s.badPages
  | .partitions, s, t => t.partitions = s.partitions
  | .pageOwner, s, t => t.pageOwner = s.pageOwner
  | .pageOn, s, t => t.pageOn = s.pageOn
  | .barRuns, s, t => t.barRuns = s.barRuns
  | .quotas, s, t => t.quotas = s.quotas
  | .slotTabs, s, t => t.slotTabs = s.slotTabs
  | .wheels, s, t => t.wheels = s.wheels
  | .reports, s, t => t.reports = s.reports
  | .qmReports, s, t => t.qmReports = s.qmReports
  | .tlb, s, t => t.tlb = s.tlb
  | .stops, s, t => t.stops = s.stops
  | .traces, s, t => t.traces = s.traces
  | .watches, s, t => t.watches = s.watches
  | .fns, s, t => t.fns = s.fns
  | .packages, s, t => t.packages = s.packages
  | .agenda, s, t => t.agenda = s.agenda
  | .tick, s, t => t.tick = s.tick
  | .cur, s, t => t.cur = s.cur
  | .freeCount, s, t => t.freeCount = s.freeCount
  | .nextId, s, t => t.nextId = s.nextId

/-- From s to t nothing has changed but the fields of l. -/
structure Touches (l : List Field) (s t : State) : Prop where
  same : ∀ f, f ∉ l → f.Same s t

theorem Field.Same.rfl {f : Field} {s : State} : f.Same s s := by cases f <;> exact Eq.refl _

theorem Field.Same.trans {f : Field} {s t u : State} (h : f.Same s t) (k : f.Same t u) : f.Same s u := by
  cases f <;> exact Eq.trans k h

namespace Touches

theorem rfl {l : List Field} {s : State} : Touches l s s := ⟨fun _ _ => .rfl⟩

theorem trans {l : List Field} {s t u : State} (h : Touches l s t) (k : Touches l t u) : Touches l s u :=
  ⟨fun f hf => (h.same f hf).trans (k.same f hf)⟩

theorem mono {l m : List Field} {s t : State} (h : Touches l s t) (hl : l ⊆ m) : Touches m s t :=
  ⟨fun f hf => h.same f fun hn => hf (hl hn)⟩

/-- A change of fields of l alone. -/
theorem after {l m : List Field} {s u t : State} (k : Touches m u t) (hm : m ⊆ l) (h : Touches l s u) : Touches l s t :=
  h.trans (k.mono hm)

theorem of_snd {α : Type} {l : List Field} {s t : State} {a : α} {p : α × State} (h : p = (a, t))
    (k : Touches l s p.2) :
    Touches l s t := by subst h; exact k

theorem of_fst {α : Type} {l : List Field} {s t : State} {a : α} {p : State × α} (h : p = (t, a))
    (k : Touches l s p.1) :
    Touches l s t := by subst h; exact k

theorem of_thd {α β : Type} {l : List Field} {s t : State} {a : α} {b : β} {p : α × β × State} (h : p = (a, b, t))
    (k : Touches l s p.2.2) : Touches l s t := by subst h; exact k

/-- What holds of a value holds of the value it equals. -/
theorem carry {β : Type} {R : β → Prop} {x y : β} (h : x = y) (k : R x) : R y := h ▸ k

theorem foldl {α : Type} {l : List Field} {f : State → α → State} (h : ∀ u a, Touches l u (f u a)) :
    ∀ (as : List α) (s : State), Touches l s (as.foldl f s)
  | [], _ => .rfl
  | a :: as, s => (h s a).trans (foldl h as (f s a))

theorem foldl_fst {α β : Type} {l : List Field} {f : State × β → α → State × β} (h : ∀ u a, Touches l u.1 (f u a).1) :
    ∀ (as : List α) (s : State × β), Touches l s.1 (as.foldl f s).1
  | [], _ => .rfl
  | a :: as, s => (h s a).trans (foldl_fst h as (f s a))

theorem foldl_snd {α β : Type} {l : List Field} {f : β × VStep → α → β × VStep} (h : ∀ u a, Touches l u.2.s
    (f u a).2.s) :
    ∀ (as : List α) (v : β × VStep), Touches l v.2.s (as.foldl f v).2.s
  | [], _ => .rfl
  | a :: as, v => (h v a).trans (foldl_snd h as (f v a))

theorem foldl_vstep {α : Type} {l : List Field} {f : VStep → α → VStep} (h : ∀ u a, Touches l u.s (f u a).s) :
    ∀ (as : List α) (v : VStep), Touches l v.s (as.foldl f v).s
  | [], _ => .rfl
  | a :: as, v => (h v a).trans (foldl_vstep h as (f v a))

theorem getD {l : List Field} {s d : State} {o : Option State} (h : ∀ t, o = some t → Touches l s t)
    (k : Touches l s d) :
    Touches l s (o.getD d) := by
  cases o with
  | some t => exact h t (Eq.refl _)
  | none => exact k

end Touches

/-- The state that agrees with t on the fields of l, and with s on the others. -/
def overlay (l : List Field) (s t : State) : State where
  threads := if l.contains .threads then t.threads else s.threads
  coreNext := if l.contains .coreNext then t.coreNext else s.coreNext
  engines := if l.contains .engines then t.engines else s.engines
  inFlight := if l.contains .inFlight then t.inFlight else s.inFlight
  updates := if l.contains .updates then t.updates else s.updates
  allocWait := if l.contains .allocWait then t.allocWait else s.allocWait
  graphs := if l.contains .graphs then t.graphs else s.graphs
  launches := if l.contains .launches then t.launches else s.launches
  launchQs := if l.contains .launchQs then t.launchQs else s.launchQs
  breaks := if l.contains .breaks then t.breaks else s.breaks
  sources := if l.contains .sources then t.sources else s.sources
  tiles := if l.contains .tiles then t.tiles else s.tiles
  chunkWrites := if l.contains .chunkWrites then t.chunkWrites else s.chunkWrites
  retires := if l.contains .retires then t.retires else s.retires
  memTiles := if l.contains .memTiles then t.memTiles else s.memTiles
  chans := if l.contains .chans then t.chans else s.chans
  bars := if l.contains .bars then t.bars else s.bars
  hbm := if l.contains .hbm then t.hbm else s.hbm
  l0 := if l.contains .l0 then t.l0 else s.l0
  hostMem := if l.contains .hostMem then t.hostMem else s.hostMem
  ecc := if l.contains .ecc then t.ecc else s.ecc
  eccL0 := if l.contains .eccL0 then t.eccL0 else s.eccL0
  bankModes := if l.contains .bankModes then t.bankModes else s.bankModes
  reqs := if l.contains .reqs then t.reqs else s.reqs
  watchHolds := if l.contains .watchHolds then t.watchHolds else s.watchHolds
  walks := if l.contains .walks then t.walks else s.walks
  ranges := if l.contains .ranges then t.ranges else s.ranges
  xfers := if l.contains .xfers then t.xfers else s.xfers
  copies := if l.contains .copies then t.copies else s.copies
  copyQs := if l.contains .copyQs then t.copyQs else s.copyQs
  vtiles := if l.contains .vtiles then t.vtiles else s.vtiles
  islands := if l.contains .islands then t.islands else s.islands
  groups := if l.contains .groups then t.groups else s.groups
  xunits := if l.contains .xunits then t.xunits else s.xunits
  streams := if l.contains .streams then t.streams else s.streams
  lanes := if l.contains .lanes then t.lanes else s.lanes
  packets := if l.contains .packets then t.packets else s.packets
  inbox := if l.contains .inbox then t.inbox else s.inbox
  straits := if l.contains .straits then t.straits else s.straits
  acks := if l.contains .acks then t.acks else s.acks
  nacks := if l.contains .nacks then t.nacks else s.nacks
  cables := if l.contains .cables then t.cables else s.cables
  exits := if l.contains .exits then t.exits else s.exits
  badPages := if l.contains .badPages then t.badPages else s.badPages
  partitions := if l.contains .partitions then t.partitions else s.partitions
  pageOwner := if l.contains .pageOwner then t.pageOwner else s.pageOwner
  pageOn := if l.contains .pageOn then t.pageOn else s.pageOn
  barRuns := if l.contains .barRuns then t.barRuns else s.barRuns
  quotas := if l.contains .quotas then t.quotas else s.quotas
  slotTabs := if l.contains .slotTabs then t.slotTabs else s.slotTabs
  wheels := if l.contains .wheels then t.wheels else s.wheels
  reports := if l.contains .reports then t.reports else s.reports
  qmReports := if l.contains .qmReports then t.qmReports else s.qmReports
  tlb := if l.contains .tlb then t.tlb else s.tlb
  stops := if l.contains .stops then t.stops else s.stops
  traces := if l.contains .traces then t.traces else s.traces
  watches := if l.contains .watches then t.watches else s.watches
  fns := if l.contains .fns then t.fns else s.fns
  packages := if l.contains .packages then t.packages else s.packages
  agenda := if l.contains .agenda then t.agenda else s.agenda
  tick := if l.contains .tick then t.tick else s.tick
  cur := if l.contains .cur then t.cur else s.cur
  freeCount := if l.contains .freeCount then t.freeCount else s.freeCount
  nextId := if l.contains .nextId then t.nextId else s.nextId

theorem Field.same_overlay {f : Field} {l : List Field} (s t : State) (h : f ∉ l) : f.Same s (overlay l s t) := by
  have h : l.contains f = false := by simpa using h
  cases f <;> exact if_neg (by rw [h]; exact Bool.false_ne_true)

/-- A change of the fields of l as the definition of t writes it. -/
theorem Touches.put {l : List Field} {s t : State} (h : overlay l s t = t) : Touches l s t :=
  ⟨fun _ hf => h ▸ Field.same_overlay s t hf⟩


/-! ### Results that carry a state -/

/-- P holds of what an option carries. -/
def onSome {α : Type} (P : α → Prop) : Option α → Prop
  | some a => P a
  | none => True

theorem onSome.imp {α : Type} {P Q : α → Prop} {o : Option α} (h : ∀ a, P a → Q a) (k : onSome P o) : onSome Q o := by
  cases o with
  | some a => exact h a k
  | none => trivial

theorem onSome.map {α β : Type} {P : β → Prop} {f : α → β} {o : Option α} (h : ∀ a, o = some a → P (f a)) :
    onSome P (o.map f) := by
  cases o with
  | some a => exact h a rfl
  | none => trivial

theorem onSome.bind {α β : Type} {P : β → Prop} {f : α → Option β} {o : Option α} (h : ∀ a, o = some a → onSome P
    (f a)) :
    onSome P (o.bind f) := by
  cases o with
  | some a => exact h a rfl
  | none => trivial

theorem onSome.orElse {α : Type} {P : α → Prop} {f : Unit → Option α} {o : Option α} (h : onSome P o) (k : onSome P (f
    ())) :
    onSome P (o.orElse f) := by
  cases o with
  | some a => exact h
  | none => exact k

theorem onSome.findSome {α β : Type} {P : β → Prop} {f : α → Option β} (h : ∀ a, onSome P (f a)) :
    ∀ l : List α, onSome P (l.findSome? f)
  | [] => trivial
  | a :: l => by
    have k := h a
    rw [List.findSome?_cons]
    split
    · next b hb => rwa [hb] at k
    · exact findSome h l

/-- P holds of what a success carries. -/
def onOk {ε α : Type} (P : α → Prop) : Except ε α → Prop
  | .ok a => P a
  | .error _ => True

theorem onOk.imp {ε α : Type} {P Q : α → Prop} {o : Except ε α} (h : ∀ a, P a → Q a) (k : onOk P o) : onOk Q o := by
  cases o with
  | ok a => exact h a k
  | error _ => trivial

theorem onOk.bind {ε α β : Type} {P : β → Prop} {f : α → Except ε β} {o : Except ε α} (h : ∀ a, o = .ok a → onOk P
    (f a)) :
    onOk P (o.bind f) := by
  cases o with
  | ok a => exact h a rfl
  | error _ => trivial

theorem onOk.foldl_bind {ε α : Type} {l : List Field} {f : State → α → Except ε State}
    (h : ∀ u a, onOk (Touches l u) (f u a)) : ∀ (as : List α) (s : State) (o : Except ε State), onOk (Touches l s) o →
      onOk (Touches l s) (as.foldl (fun x a => x.bind fun u => f u a) o)
  | [], _, _, k => k
  | a :: as, s, o, k =>
      foldl_bind h as s _ (onOk.bind fun u hu => by subst hu; exact onOk.imp (fun _ q => k.trans q) (h u a))

/-- P or Q holds of what a sum carries. -/
def onSum {α β : Type} (P : α → Prop) (Q : β → Prop) : α ⊕ β → Prop
  | .inl a => P a
  | .inr b => Q b

/-- P holds of the states that the result carries. -/
def Spill.All (P : State → Prop) : Spill → Prop
  | .ok s => P s
  | _ => True

theorem Spill.All.imp {P Q : State → Prop} {r : Spill} (h : ∀ s, P s → Q s) (k : r.All P) : r.All Q := by
  cases r with
  | ok _ => exact h _ k
  | _ => trivial

/-- P holds of the states that the result carries. -/
def PutRec.All (P : State → Prop) : PutRec → Prop
  | .ok s => P s
  | _ => True

theorem PutRec.All.imp {P Q : State → Prop} {r : PutRec} (h : ∀ s, P s → Q s) (k : r.All P) : r.All Q := by
  cases r with
  | ok _ => exact h _ k
  | _ => trivial

/-- P holds of the states that the result carries. -/
def Grow.All (P : State → Prop) : Grow → Prop
  | .ok _ s => P s
  | _ => True

theorem Grow.All.imp {P Q : State → Prop} {r : Grow} (h : ∀ s, P s → Q s) (k : r.All P) : r.All Q := by
  cases r with
  | ok _ _ => exact h _ k
  | _ => trivial

/-- P holds of the states that the result carries. -/
def Gate.All (P : State → Prop) : Gate → Prop
  | .wait s => P s
  | .landed s => P s
  | .row _ s => P s

theorem Gate.All.imp {P Q : State → Prop} {r : Gate} (h : ∀ s, P s → Q s) (k : r.All P) : r.All Q := by
  cases r with
  | wait _ => exact h _ k
  | landed _ => exact h _ k
  | row _ _ => exact h _ k

/-- P holds of the states that the result carries. -/
def TakeRec.All (P : State → Prop) : TakeRec → Prop
  | .word _ s => P s
  | .unwound s => P s
  | _ => True

theorem TakeRec.All.imp {P Q : State → Prop} {r : TakeRec} (h : ∀ s, P s → Q s) (k : r.All P) : r.All Q := by
  cases r with
  | word _ _ => exact h _ k
  | unwound _ => exact h _ k
  | _ => trivial

/-- P holds of the states that the result carries. -/
def TileIn.All (P : State → Prop) : TileIn → Prop
  | .held s => P s
  | _ => True

theorem TileIn.All.imp {P Q : State → Prop} {r : TileIn} (h : ∀ s, P s → Q s) (k : r.All P) : r.All Q := by
  cases r with
  | held _ => exact h _ k
  | _ => trivial

/-- P holds of the states that the result carries. -/
def Alloc.All (P : State → Prop) : Alloc → Prop
  | .ok s => P s
  | _ => True

theorem Alloc.All.imp {P Q : State → Prop} {r : Alloc} (h : ∀ s, P s → Q s) (k : r.All P) : r.All Q := by
  cases r with
  | ok _ => exact h _ k
  | _ => trivial

/-- P holds of the states that the result carries. -/
def Answered.All (P : State → Prop) : Answered → Prop
  | .wait s => P s
  | .done _ _ s => P s

theorem Answered.All.imp {P Q : State → Prop} {r : Answered} (h : ∀ s, P s → Q s) (k : r.All P) : r.All Q := by
  cases r with
  | wait _ => exact h _ k
  | done _ _ _ => exact h _ k

/-- P holds of the states that the result carries. -/
def Issued.All (P : State → Prop) : Issued → Prop
  | .wait s => P s
  | .run _ s => P s

theorem Issued.All.imp {P Q : State → Prop} {r : Issued} (h : ∀ s, P s → Q s) (k : r.All P) : r.All Q := by
  cases r with
  | wait _ => exact h _ k
  | run _ _ => exact h _ k

/-- P holds of the states that the result carries. -/
def Loaded.All (P : State → Prop) : Loaded → Prop
  | .done s _ => P s
  | .moving s => P s

theorem Loaded.All.imp {P Q : State → Prop} {r : Loaded} (h : ∀ s, P s → Q s) (k : r.All P) : r.All Q := by
  cases r with
  | done _ _ => exact h _ k
  | moving _ => exact h _ k

/-- P holds of the states that the result carries. -/
def Ready.All (P : State → Prop) : Ready → Prop
  | .yes s _ => P s
  | _ => True

theorem Ready.All.imp {P Q : State → Prop} {r : Ready} (h : ∀ s, P s → Q s) (k : r.All P) : r.All Q := by
  cases r with
  | yes _ _ => exact h _ k
  | _ => trivial

/-- P holds of the states that the result carries. -/
def Placed.All (P : State → Prop) : Placed → Prop
  | .ok _ _ s => P s
  | _ => True

theorem Placed.All.imp {P Q : State → Prop} {r : Placed} (h : ∀ s, P s → Q s) (k : r.All P) : r.All Q := by
  cases r with
  | ok _ _ _ => exact h _ k
  | _ => trivial

end Sys2Proof.Machine
end

section
/-!
PROOFS. Proofs/Footprints.lean: the footprint of each operation of the model, in the order of the model's calls.
-/
namespace Sys2Proof.Machine

theorem setLaunch_touches (s k l) : Touches [.launches] s (setLaunch s k l) := .put rfl

theorem modLaunch_touches (s k f) : Touches [.launches] s (modLaunch s k f) := by
  unfold modLaunch
  split
  · exact (setLaunch_touches ..).after (by decide) .rfl
  · exact .rfl

theorem setLaunchQ_touches (s k v) : Touches [.launchQs] s (setLaunchQ s k v) := .put rfl

theorem modLaunchQ_touches (s k f) : Touches [.launchQs] s (modLaunchQ s k f) := by
  unfold modLaunchQ
  exact (setLaunchQ_touches ..).after (by decide) .rfl

theorem setIsland_touches (s k v) : Touches [.islands] s (setIsland s k v) := .put rfl

theorem modIsland_touches (s k f) : Touches [.islands] s (modIsland s k f) := by
  unfold modIsland
  exact (setIsland_touches ..).after (by decide) .rfl

theorem releaseBank_touches (s e a) : Touches [.islands] s (releaseBank s e a) := by
  unfold releaseBank
  split
  · exact .rfl
  · exact (modIsland_touches ..).after (by decide) .rfl

theorem fresh_touches (s) : Touches [.nextId] s (fresh s).2 := .put rfl

theorem setQuota_touches (s k v) : Touches [.quotas] s (setQuota s k v) := .put rfl

theorem modQuota_touches (s k f) : Touches [.quotas] s (modQuota s k f) := by
  unfold modQuota
  exact (setQuota_touches ..).after (by decide) .rfl

theorem uncharge_touches (s pkg part agid n) : Touches [.quotas] s (uncharge s pkg part agid n) := by
  unfold uncharge
  exact (modQuota_touches ..).after (by decide) .rfl

theorem unmake_touches (s id) : Touches [.tiles, .quotas] s (unmake s id) := by
  unfold unmake
  extract_lets +onlyGivenNames t s1
  have hs1 : Touches [.tiles, .quotas] s s1 := by
    unfold s1
    split
    · exact (uncharge_touches ..).after (by decide) .rfl
    · exact .rfl
  clear_value s1
  exact hs1.trans (.put rfl)

theorem setTile_touches (s k v) : Touches [.tiles] s (setTile s k v) := .put rfl

theorem charge_touches (s pkg part agid n) : Touches [.quotas] s (charge s pkg part agid n) := by
  unfold charge
  exact (modQuota_touches ..).after (by decide) .rfl

theorem allocTile_touches (s g id rows cols lid agid owner) : Alloc.All (Touches [.tiles, .quotas] s)
    (allocTile s g id rows cols lid agid owner) := by
  unfold allocTile
  split
  · trivial
  · extract_lets +onlyGivenNames t new s1
    have hs1 : Touches [.tiles, .quotas] s s1 := by
      unfold s1
      exact (unmake_touches ..).after (by decide) .rfl
    clear_value s1
    split
    · trivial
    · split
      · trivial
      · split
        · exact (setTile_touches ..).after (by decide) hs1
        · split
          · trivial
          · split
            · trivial
            · exact (charge_touches ..).after (by decide) ((setTile_touches ..).after (by decide) hs1)

theorem allocAll_touches (s g lid agid owner a a1) : Ready.All (Touches [.tiles, .quotas] s)
    (allocAll s g lid agid owner a a1) := by
  fun_induction allocAll s g lid agid owner a a1 with
  | case1 s done => exact .rfl
  | case2 s id h w ds done s1 h1 ih =>
    refine Ready.All.imp (fun _ k => .trans ?_ k) ih
    have k1 := Touches.carry h1 (allocTile_touches ..)
    exact Touches.after k1 (by decide) .rfl
  | case3 s id h w ds done h1 => trivial
  | case4 s id h w ds done a n h1 => trivial
  | case5 s id h w ds done handle h1 => exact .rfl

theorem readyNow_touches (s r q owner) : Ready.All (Touches [.tiles, .quotas] s) (readyNow s r q owner) := by
  unfold readyNow
  split
  · trivial
  · trivial
  · trivial
  · split
    · exact .rfl
    · extract_lets +onlyGivenNames t
      exact Ready.All.imp (fun _ k => k.after (by decide) .rfl) (allocAll_touches ..)

theorem touch_touches (s pkg lid) : Touches [.launches] s (touch s pkg lid) := by
  unfold touch
  exact (modLaunch_touches ..).after (by decide) .rfl

theorem setEng_touches (s k v) : Touches [.engines] s (setEng s k v) := .put rfl

theorem modEng_touches (s k f) : Touches [.engines] s (modEng s k f) := by
  unfold modEng
  exact (setEng_touches ..).after (by decide) .rfl

theorem joinReady_touches (s r q owner dests) : Touches [.engines, .launches] s (joinReady s r q owner dests) := by
  unfold joinReady
  exact (touch_touches ..).after (by decide) ((modEng_touches ..).after (by decide) .rfl)

theorem setChan_touches (s k v) : Touches [.chans] s (setChan s k v) := .put rfl

theorem setTraceCfg_touches (s k v) : Touches [.traces] s (setTraceCfg s k v) := .put rfl

theorem modTraceCfg_touches (s k f) : Touches [.traces] s (modTraceCfg s k f) := by
  unfold modTraceCfg
  exact (setTraceCfg_touches ..).after (by decide) .rfl

theorem stageTrace_touches (s pkg die part tag data coord lid kind) : Touches [.traces] s
    (stageTrace s pkg die part tag data coord lid kind) := by
  unfold stageTrace
  exact (modTraceCfg_touches ..).after (by decide) .rfl

theorem traceClass_touches (s pkg die part cls tag data coord lid kind) : Touches [.traces] s
    (traceClass s pkg die part cls tag data coord lid kind) := by
  unfold traceClass
  extract_lets +onlyGivenNames c
  split
  · exact (stageTrace_touches ..).after (by decide) .rfl
  · exact .rfl

theorem traceGrowth_touches (s k c) : Touches [.traces] s (traceGrowth s k c) := by
  unfold traceGrowth
  extract_lets +onlyGivenNames w
  exact (traceClass_touches ..).after (by decide) .rfl

theorem setPart_touches (s k v) : Touches [.partitions] s (setPart s k v) := .put rfl

theorem modPart_touches (s k f) : Touches [.partitions] s (modPart s k f) := by
  unfold modPart
  exact (setPart_touches ..).after (by decide) .rfl

theorem modPool_touches (s pkg die part f) : Touches [.partitions] s (modPool s pkg die part f) := by
  unfold modPool
  exact (modPart_touches ..).after (by decide) .rfl

theorem poolAlloc_touches (s k c) : Grow.All (Touches [.partitions, .quotas, .traces] s) (poolAlloc s k c) := by
  unfold poolAlloc
  split
  · trivial
  · split
    · trivial
    · exact (traceGrowth_touches ..).after (by decide) ((modPool_touches ..).after (by decide)
        ((charge_touches ..).after (by decide) .rfl))

theorem writePlace_touches (s k) : Placed.All (Touches [.chans, .partitions, .quotas, .traces] s) (writePlace s k) := by
  unfold writePlace
  extract_lets +onlyGivenNames c c'
  split
  · exact (setChan_touches ..).after (by decide) .rfl
  · split
    · exact (setChan_touches ..).after (by decide) .rfl
    · split
      · exact (setChan_touches ..).after (by decide) .rfl
      · split
        · trivial
        · split
          · trivial
          · trivial
          · next x g s1 h4 =>
              change Touches _ _ _
              refine (setChan_touches ..).after (by decide) ?_
              have k1 := Touches.carry h4 (poolAlloc_touches ..)
              exact Touches.after k1 (by decide) .rfl

theorem modChan_touches (s k f) : Touches [.chans] s (modChan s k f) := by
  unfold modChan
  exact (setChan_touches ..).after (by decide) .rfl

theorem markFull_touches (s r) : Touches [.chans, .partitions, .quotas, .traces] s (markFull s r) := by
  unfold markFull
  split
  · split
    · extract_lets +onlyGivenNames full
      split
      · exact (modChan_touches ..).after (by decide) .rfl
      · exact .rfl
    · exact .rfl
  · exact .rfl

theorem raise_touches (s r) : Touches [.reports] s (raise s r) := .put rfl

theorem raiseAt_touches (s c part lid cause tval tag held) : Touches [.reports] s
    (raiseAt s c part lid cause tval tag held) := by
  unfold raiseAt
  exact (raise_touches ..).after (by decide) .rfl

theorem breach_touches (s pkg part agid) : Touches [.quotas] s (breach s pkg part agid) := by
  unfold breach
  exact (modQuota_touches ..).after (by decide) .rfl

theorem beginWait_touches (s r q held front) : Touches [.allocWait, .launches, .chans, .partitions, .quotas, .reports,
    .traces] s (beginWait s r q held front) := by
  unfold beginWait
  extract_lets +onlyGivenNames o t w rest s1
  have hs1 : Touches [.allocWait, .launches, .chans, .partitions, .quotas, .reports, .traces] s s1 := by
    unfold s1
    exact (touch_touches ..).after (by decide) (.put rfl)
  clear_value s1
  split
  · exact (raiseAt_touches ..).after (by decide) ((breach_touches ..).after (by decide) hs1)
  · exact (markFull_touches ..).after (by decide) hs1

theorem reevalOne_touches (s w) : Touches [.engines, .allocWait, .launches, .tiles, .chans, .partitions, .quotas,
    .reports, .traces, .nextId] s (reevalOne s w) := by
  unfold reevalOne
  extract_lets +onlyGivenNames mine
  split
  · extract_lets +onlyGivenNames behind
    split
    · exact .rfl
    · split
      · next x3 i s1 h4 =>
          split
          · next x4 s2 ds h5 =>
              refine (joinReady_touches ..).after (by decide) ?_
              refine Touches.trans (t := s2) ?_ (.put rfl)
              have k := Touches.carry h5 (readyNow_touches ..)
              exact Touches.after k (by decide) ((Touches.of_snd h4 (fresh_touches ..)).after (by decide) .rfl)
          · exact (markFull_touches ..).after (by decide) .rfl
          · extract_lets +onlyGivenNames x5
            have hx5 : Touches [.engines, .allocWait, .launches, .tiles, .chans, .partitions, .quotas, .reports,
              .traces, .nextId] s x5 := by
              unfold x5
              exact (beginWait_touches ..).after (by decide) .rfl
            clear_value x5
            exact hx5.trans (.put rfl)
  · exact .rfl

theorem reevalAll_touches (s) : Touches [.engines, .allocWait, .launches, .tiles, .chans, .partitions, .quotas,
    .reports, .traces, .nextId] s (reevalAll s) := by
  unfold reevalAll
  refine .trans ?_ (.foldl (fun u a => ?_) _ _)
  · exact .rfl
  · exact (reevalOne_touches ..).after (by decide) .rfl

theorem freeTile_touches (s id) : Touches [.threads, .tiles, .chunkWrites, .retires, .quotas] s (freeTile s id) := by
  unfold freeTile
  extract_lets +onlyGivenNames s1
  have hs1 : Touches [.threads, .tiles, .chunkWrites, .retires, .quotas] s s1 := by
    unfold s1
    exact .put rfl
  clear_value s1
  extract_lets +onlyGivenNames s2
  have hs2 : Touches [.threads, .tiles, .chunkWrites, .retires, .quotas] s s2 := by
    unfold s2
    exact (unmake_touches ..).after (by decide) hs1
  clear_value s2
  exact hs2.trans (.put rfl)

theorem freeDests_touches (s ds) : Touches [.threads, .engines, .allocWait, .launches, .tiles, .chunkWrites, .retires,
    .chans, .partitions, .quotas, .reports, .traces, .nextId] s (freeDests s ds) := by
  unfold freeDests
  extract_lets +onlyGivenNames own
  split
  · exact .rfl
  · refine (reevalAll_touches ..).after (by decide) ?_
    refine .trans ?_ (.foldl (fun u a => ?_) _ _)
    · exact .rfl
    · exact (freeTile_touches ..).after (by decide) .rfl

theorem unback_touches (s e vrow) : Touches [.engines, .partitions, .quotas] s (unback s e vrow) := by
  unfold unback
  extract_lets +onlyGivenNames x
  split
  · exact .rfl
  · extract_lets +onlyGivenNames b' s1
    have hs1 : Touches [.engines, .partitions, .quotas] s s1 := by
      unfold s1
      exact (setEng_touches ..).after (by decide) .rfl
    clear_value s1
    split
    · exact (modPool_touches ..).after (by decide) ((uncharge_touches ..).after (by decide) hs1)
    · exact (setEng_touches ..).after (by decide) .rfl

theorem clearRow_touches (s e slot vrow) : Touches [.engines, .partitions, .quotas] s (clearRow s e slot vrow) := by
  unfold clearRow
  exact (modEng_touches ..).after (by decide) ((unback_touches ..).after (by decide) .rfl)

theorem setWheel_touches (s k v) : Touches [.wheels] s (setWheel s k v) := .put rfl

theorem modWheel_touches (s k f) : Touches [.wheels] s (modWheel s k f) := by
  unfold modWheel
  exact (setWheel_touches ..).after (by decide) .rfl

theorem dropWaits_touches (s e slot vrow) : Touches [.allocWait, .graphs, .wheels] s (dropWaits s e slot vrow) := by
  unfold dropWaits
  extract_lets +onlyGivenNames s1
  have hs1 : Touches [.allocWait, .graphs, .wheels] s s1 := by
    unfold s1
    exact .put rfl
  clear_value s1
  exact (modWheel_touches ..).after (by decide) hs1

theorem takeRow_touches (s e q) : Touches [.threads, .engines, .allocWait, .graphs, .launches, .tiles, .chunkWrites,
    .retires, .chans, .islands, .partitions, .quotas, .wheels, .reports, .traces, .nextId] s (takeRow s e q) := by
  unfold takeRow
  extract_lets +onlyGivenNames mine x s1
  have hs1 : Touches [.threads, .engines, .allocWait, .graphs, .launches, .tiles, .chunkWrites, .retires, .chans,
    .islands, .partitions, .quotas, .wheels, .reports, .traces, .nextId] s s1 := by
    unfold s1
    refine .trans ?_ (.foldl (fun u a => ?_) _ _)
    · exact .rfl
    · exact (releaseBank_touches ..).after (by decide) ((freeDests_touches ..).after (by decide) .rfl)
  clear_value s1
  extract_lets +onlyGivenNames s2
  have hs2 : Touches [.threads, .engines, .allocWait, .graphs, .launches, .tiles, .chunkWrites, .retires, .chans,
    .islands, .partitions, .quotas, .wheels, .reports, .traces, .nextId] s s2 := by
    unfold s2
    exact (modEng_touches ..).after (by decide) hs1
  clear_value s2
  exact (clearRow_touches ..).after (by decide) ((dropWaits_touches ..).after (by decide) hs2)

theorem releaseUnit_touches (s fid k lid) : Touches [.updates] s (releaseUnit s fid k lid) := .put rfl

theorem setGraph_touches (s k g) : Touches [.graphs] s (setGraph s k g) := .put rfl

theorem modGraph_touches (s k f) : Touches [.graphs] s (modGraph s k f) := by
  unfold modGraph
  split
  · exact (setGraph_touches ..).after (by decide) .rfl
  · exact .rfl

theorem modInst_touches (s key rec row f) : Touches [.graphs] s (modInst s key rec row f) := by
  unfold modInst
  exact (modGraph_touches ..).after (by decide) .rfl

theorem addPend_touches (s r tag up) : Touches [.graphs] s (addPend s r tag up) := by
  unfold addPend
  refine .trans ?_ (.foldl (fun u a => ?_) _ _)
  · exact .rfl
  · exact (modInst_touches ..).after (by decide) .rfl

theorem consumeTok_touches (r fid retire s t) : Touches [.updates, .graphs, .launches, .retires] s
    (consumeTok r fid retire s t) := by
  unfold consumeTok
  extract_lets +onlyGivenNames s1
  have hs1 : Touches [.updates, .graphs, .launches, .retires] s s1 := by
    unfold s1
    exact (addPend_touches ..).after (by decide) .rfl
  clear_value s1
  extract_lets +onlyGivenNames steer s2
  have hs2 : Touches [.updates, .graphs, .launches, .retires] s s2 := by
    unfold s2
    exact hs1.trans (.put rfl)
  clear_value s2
  extract_lets +onlyGivenNames s3
  have hs3 : Touches [.updates, .graphs, .launches, .retires] s s3 := by
    unfold s3
    exact (touch_touches ..).after (by decide) hs2
  clear_value s3
  split
  · exact hs3.trans (.put rfl)
  · exact hs3

theorem consumeToks_touches (s r fid retire toks) : Touches [.updates, .graphs, .launches, .retires] s
    (consumeToks s r fid retire toks) := by
  unfold consumeToks
  refine .trans ?_ (.foldl (fun u a => ?_) _ _)
  · exact .rfl
  · exact (consumeTok_touches ..).after (by decide) .rfl

theorem consumeRow_touches (s e q) : Touches [.updates, .graphs, .launches, .retires, .nextId] s
    (consumeRow s e q) := by
  unfold consumeRow
  split
  · exact .rfl
  · split
    · next x i s1 h1 =>
        split
        · exact (releaseUnit_touches ..).after (by decide) ((Touches.of_snd h1 (fresh_touches ..)).after
            (by decide) .rfl)
        · exact (consumeToks_touches ..).after (by decide) ((Touches.of_snd h1 (fresh_touches ..)).after
            (by decide) .rfl)

theorem retireKept_touches (s t) : Touches [.retires] s (retireKept s t) := by
  unfold retireKept
  split
  · split
    · exact .put rfl
    · exact .rfl
  · exact .rfl

theorem removeTok_touches (s t) : Touches [.graphs, .retires] s (removeTok s t) := by
  unfold removeTok
  extract_lets +onlyGivenNames s1
  have hs1 : Touches [.graphs, .retires] s s1 := by
    unfold s1
    split
    · exact (addPend_touches ..).after (by decide) .rfl
    · exact .rfl
  clear_value s1
  exact (retireKept_touches ..).after (by decide) hs1

theorem sweepRow_touches (w e s q) : Touches [.threads, .engines, .updates, .allocWait, .graphs, .launches, .tiles,
    .chunkWrites, .retires, .chans, .islands, .partitions, .quotas, .wheels, .reports, .traces, .nextId] s.1
    (sweepRow w e s q).1 := by
  unfold sweepRow
  extract_lets +onlyGivenNames s1
  have hs1 : Touches [.threads, .engines, .updates, .allocWait, .graphs, .launches, .tiles, .chunkWrites, .retires,
    .chans, .islands, .partitions, .quotas, .wheels, .reports, .traces, .nextId] s.1 s1 := by
    unfold s1
    exact (takeRow_touches ..).after (by decide) .rfl
  clear_value s1
  split
  · dsimp -zeta only
    exact (consumeRow_touches ..).after (by decide) hs1
  · split
    · exact hs1
    · dsimp -zeta only
      refine .trans ?_ (.foldl (fun u a => ?_) _ _)
      · exact hs1
      · exact (removeTok_touches ..).after (by decide) .rfl

theorem sweepEng_touches (w s e) : Touches [.threads, .engines, .updates, .allocWait, .graphs, .launches, .tiles,
    .chunkWrites, .retires, .chans, .islands, .partitions, .quotas, .wheels, .reports, .traces, .nextId] s.1
    (sweepEng w s e).1 := by
  unfold sweepEng
  extract_lets +onlyGivenNames r x ts keep s1
  have hs1 : Touches [.threads, .engines, .updates, .allocWait, .graphs, .launches, .tiles, .chunkWrites, .retires,
    .chans, .islands, .partitions, .quotas, .wheels, .reports, .traces, .nextId] s.1 s1 := by
    unfold s1
    refine (setEng_touches ..).after (by decide) ?_
    unfold r
    refine .trans ?_ (.foldl_fst (fun u a => ?_) _ _)
    · exact .rfl
    · exact (sweepRow_touches ..).after (by decide) .rfl
  clear_value s1
  dsimp -zeta only
  refine .trans ?_ (.foldl (fun u a => ?_) _ _)
  · exact hs1
  · exact (removeTok_touches ..).after (by decide) .rfl

theorem sweepTimers_touches (w s) : Touches [.wheels] s (sweepTimers w s) := .put rfl

theorem sweep_touches (w s) : Touches [.threads, .engines, .updates, .allocWait, .graphs, .launches, .tiles,
    .chunkWrites, .retires, .chans, .islands, .partitions, .quotas, .wheels, .reports, .traces, .nextId] s
    (sweep w s).1 := by
  unfold sweep
  extract_lets +onlyGivenNames r
  dsimp -zeta only
  refine (sweepTimers_touches ..).after (by decide) ?_
  unfold r
  refine .trans ?_ (.foldl_fst (fun u a => ?_) _ _)
  · dsimp -zeta only
    exact .rfl
  · exact (sweepEng_touches ..).after (by decide) .rfl

theorem dropRun_touches (s e u) : Touches [.engines] s (dropRun s e u) := by
  unfold dropRun
  exact (modEng_touches ..).after (by decide) .rfl

theorem abortRun_touches (s e u) : Touches [.threads, .engines, .allocWait, .launches, .tiles, .chunkWrites, .retires,
    .chans, .islands, .partitions, .quotas, .reports, .traces, .nextId] s (abortRun s e u) := by
  unfold abortRun
  extract_lets +onlyGivenNames s1
  have hs1 : Touches [.threads, .engines, .allocWait, .launches, .tiles, .chunkWrites, .retires, .chans, .islands,
    .partitions, .quotas, .reports, .traces, .nextId] s s1 := by
    unfold s1
    exact (releaseBank_touches ..).after (by decide) ((freeDests_touches ..).after (by decide) .rfl)
  clear_value s1
  extract_lets +onlyGivenNames s2
  have hs2 : Touches [.threads, .engines, .allocWait, .launches, .tiles, .chunkWrites, .retires, .chans, .islands,
    .partitions, .quotas, .reports, .traces, .nextId] s s2 := by
    unfold s2
    split
    · exact (modIsland_touches ..).after (by decide) hs1
    · exact hs1
  clear_value s2
  exact (dropRun_touches ..).after (by decide) hs2

theorem dropXfer_touches (s x) : Touches [.ranges, .xfers] s (dropXfer s x) := .put rfl

theorem cancelXfer_touches (s x) : Touches [.threads, .engines, .allocWait, .graphs, .launches, .tiles, .chunkWrites,
    .retires, .chans, .reqs, .ranges, .xfers, .partitions, .quotas, .reports, .traces, .nextId] s (cancelXfer s x) := by
  unfold cancelXfer
  extract_lets +onlyGivenNames s1
  have hs1 : Touches [.threads, .engines, .allocWait, .graphs, .launches, .tiles, .chunkWrites, .retires, .chans,
    .reqs, .ranges, .xfers, .partitions, .quotas, .reports, .traces, .nextId] s s1 := by
    unfold s1
    refine .trans ?_ (.foldl (fun u a => ?_) _ _)
    · exact (removeTok_touches ..).after (by decide) .rfl
    · exact (removeTok_touches ..).after (by decide) .rfl
  clear_value s1
  extract_lets +onlyGivenNames x1
  have hx1 : Touches [.threads, .engines, .allocWait, .graphs, .launches, .tiles, .chunkWrites, .retires, .chans,
    .reqs, .ranges, .xfers, .partitions, .quotas, .reports, .traces, .nextId] s x1 := by
    unfold x1
    exact (dropXfer_touches ..).after (by decide) hs1
  clear_value x1
  exact (freeDests_touches ..).after (by decide) (hx1.trans (.put rfl))

theorem dropRanges_touches (s st) : Touches [.ranges] s (dropRanges s st) := .put rfl

theorem dropCopy_touches (s j) : Touches [.ranges, .copies] s (dropCopy s j) := by
  unfold dropCopy
  exact (dropRanges_touches ..).after (by decide) (.put rfl)

theorem dropXUnit_touches (s id) : Touches [.xunits] s (dropXUnit s id) := .put rfl

theorem setGroup_touches (s k v) : Touches [.groups] s (setGroup s k v) := .put rfl

theorem modGroup_touches (s k f) : Touches [.groups] s (modGroup s k f) := by
  unfold modGroup
  exact (setGroup_touches ..).after (by decide) .rfl

theorem cancelXUnit_touches (s u) : Touches [.threads, .engines, .allocWait, .graphs, .launches, .tiles, .chunkWrites,
    .retires, .chans, .groups, .xunits, .partitions, .quotas, .reports, .traces, .nextId] s (cancelXUnit s u) := by
  unfold cancelXUnit
  extract_lets +onlyGivenNames s1
  have hs1 : Touches [.threads, .engines, .allocWait, .graphs, .launches, .tiles, .chunkWrites, .retires, .chans,
    .groups, .xunits, .partitions, .quotas, .reports, .traces, .nextId] s s1 := by
    unfold s1
    refine (freeDests_touches ..).after (by decide) ?_
    refine .trans ?_ (.foldl (fun u a => ?_) _ _)
    · exact (dropXUnit_touches ..).after (by decide) .rfl
    · exact (removeTok_touches ..).after (by decide) .rfl
  clear_value s1
  split
  · split
    · exact hs1
    · exact (modGroup_touches ..).after (by decide) hs1
  · exact hs1

theorem cancelStreams_touches (s pkg lid) : Touches [.streams, .lanes] s (cancelStreams s pkg lid).1 := .put rfl

theorem detachLaunch_touches (s pkg lid) : Touches [.chans, .groups] s (detachLaunch s pkg lid) := .put rfl

theorem cancelInjects_touches (s pkg lid) : Touches [.threads, .sources] s (cancelInjects s pkg lid) := .put rfl

theorem cancelReports_touches (s pkg lid) : Touches [.threads, .watchHolds, .inbox, .reports, .qmReports] s
    (cancelReports s pkg lid) := .put rfl

theorem dropInsts_touches (s key g hit) : Touches [.graphs, .retires] s (dropInsts s key g hit) := by
  unfold dropInsts
  refine .trans ?_ (.foldl (fun u a => ?_) _ _)
  · exact .rfl
  · split
    · exact .rfl
    · refine .trans ?_ (.foldl (fun u a => ?_) _ _)
      · exact .rfl
      · split
        · exact (modInst_touches ..).after (by decide) ((retireKept_touches ..).after (by decide)
            ((retireKept_touches ..).after (by decide) .rfl))
        · exact .rfl

theorem stopLaunch_touches (s pkg lid) : Touches [.threads, .engines, .inFlight, .updates, .allocWait, .graphs,
    .launches, .sources, .tiles, .chunkWrites, .retires, .chans, .reqs, .watchHolds, .ranges, .xfers, .copies,
    .islands, .groups, .xunits, .streams, .lanes, .inbox, .partitions, .quotas, .wheels, .reports, .qmReports, .traces,
    .nextId] s (stopLaunch s pkg lid).1 := by
  unfold stopLaunch
  extract_lets +onlyGivenNames tok s1
  have hs1 : Touches [.threads, .engines, .inFlight, .updates, .allocWait, .graphs, .launches, .sources, .tiles,
    .chunkWrites, .retires, .chans, .reqs, .watchHolds, .ranges, .xfers, .copies, .islands, .groups, .xunits, .streams,
    .lanes, .inbox, .partitions, .quotas, .wheels, .reports, .qmReports, .traces, .nextId] s s1 := by
    unfold s1
    exact (sweep_touches ..).after (by decide) .rfl
  clear_value s1
  extract_lets +onlyGivenNames flying s2
  have hs2 : Touches [.threads, .engines, .inFlight, .updates, .allocWait, .graphs, .launches, .sources, .tiles,
    .chunkWrites, .retires, .chans, .reqs, .watchHolds, .ranges, .xfers, .copies, .islands, .groups, .xunits, .streams,
    .lanes, .inbox, .partitions, .quotas, .wheels, .reports, .qmReports, .traces, .nextId] s s2 := by
    unfold s2
    refine .trans ?_ (.foldl (fun u a => ?_) _ _)
    · exact hs1.trans (.put rfl)
    · exact (removeTok_touches ..).after (by decide) .rfl
  clear_value s2
  extract_lets +onlyGivenNames s3
  have hs3 : Touches [.threads, .engines, .inFlight, .updates, .allocWait, .graphs, .launches, .sources, .tiles,
    .chunkWrites, .retires, .chans, .reqs, .watchHolds, .ranges, .xfers, .copies, .islands, .groups, .xunits, .streams,
    .lanes, .inbox, .partitions, .quotas, .wheels, .reports, .qmReports, .traces, .nextId] s s3 := by
    unfold s3
    refine .trans ?_ (.foldl (fun u a => ?_) _ _)
    · exact hs2
    · refine .trans ?_ (.foldl (fun u a => ?_) _ _)
      · exact .rfl
      · split
        · refine .trans ?_ (.foldl (fun u a => ?_) _ _)
          · exact (abortRun_touches ..).after (by decide) .rfl
          · exact (removeTok_touches ..).after (by decide) .rfl
        · exact .rfl
  clear_value s3
  extract_lets +onlyGivenNames s4
  have hs4 : Touches [.threads, .engines, .inFlight, .updates, .allocWait, .graphs, .launches, .sources, .tiles,
    .chunkWrites, .retires, .chans, .reqs, .watchHolds, .ranges, .xfers, .copies, .islands, .groups, .xunits, .streams,
    .lanes, .inbox, .partitions, .quotas, .wheels, .reports, .qmReports, .traces, .nextId] s s4 := by
    unfold s4
    refine .trans ?_ (.foldl (fun u a => ?_) _ _)
    · exact hs3
    · exact (cancelXfer_touches ..).after (by decide) .rfl
  clear_value s4
  extract_lets +onlyGivenNames cs s5
  have hs5 : Touches [.threads, .engines, .inFlight, .updates, .allocWait, .graphs, .launches, .sources, .tiles,
    .chunkWrites, .retires, .chans, .reqs, .watchHolds, .ranges, .xfers, .copies, .islands, .groups, .xunits, .streams,
    .lanes, .inbox, .partitions, .quotas, .wheels, .reports, .qmReports, .traces, .nextId] s s5 := by
    unfold s5
    refine .trans ?_ (.foldl (fun u a => ?_) _ _)
    · exact hs4
    · refine .trans ?_ (.foldl (fun u a => ?_) _ _)
      · exact (dropCopy_touches ..).after (by decide) .rfl
      · exact (removeTok_touches ..).after (by decide) .rfl
  clear_value s5
  extract_lets +onlyGivenNames s6
  have hs6 : Touches [.threads, .engines, .inFlight, .updates, .allocWait, .graphs, .launches, .sources, .tiles,
    .chunkWrites, .retires, .chans, .reqs, .watchHolds, .ranges, .xfers, .copies, .islands, .groups, .xunits, .streams,
    .lanes, .inbox, .partitions, .quotas, .wheels, .reports, .qmReports, .traces, .nextId] s s6 := by
    unfold s6
    exact hs5.trans (.put rfl)
  clear_value s6
  extract_lets +onlyGivenNames s7
  have hs7 : Touches [.threads, .engines, .inFlight, .updates, .allocWait, .graphs, .launches, .sources, .tiles,
    .chunkWrites, .retires, .chans, .reqs, .watchHolds, .ranges, .xfers, .copies, .islands, .groups, .xunits, .streams,
    .lanes, .inbox, .partitions, .quotas, .wheels, .reports, .qmReports, .traces, .nextId] s s7 := by
    unfold s7
    refine .trans ?_ (.foldl (fun u a => ?_) _ _)
    · exact hs6
    · exact (cancelXUnit_touches ..).after (by decide) .rfl
  clear_value s7
  extract_lets +onlyGivenNames st s8
  have hs8 : Touches [.threads, .engines, .inFlight, .updates, .allocWait, .graphs, .launches, .sources, .tiles,
    .chunkWrites, .retires, .chans, .reqs, .watchHolds, .ranges, .xfers, .copies, .islands, .groups, .xunits, .streams,
    .lanes, .inbox, .partitions, .quotas, .wheels, .reports, .qmReports, .traces, .nextId] s s8 := by
    unfold s8
    refine (detachLaunch_touches ..).after (by decide) ?_
    refine (cancelInjects_touches ..).after (by decide) ?_
    refine (cancelReports_touches ..).after (by decide) ?_
    unfold st
    exact (cancelStreams_touches ..).after (by decide) hs7
  clear_value s8
  extract_lets +onlyGivenNames s9
  have hs9 : Touches [.threads, .engines, .inFlight, .updates, .allocWait, .graphs, .launches, .sources, .tiles,
    .chunkWrites, .retires, .chans, .reqs, .watchHolds, .ranges, .xfers, .copies, .islands, .groups, .xunits, .streams,
    .lanes, .inbox, .partitions, .quotas, .wheels, .reports, .qmReports, .traces, .nextId] s s9 := by
    unfold s9
    exact hs8.trans (.put rfl)
  clear_value s9
  extract_lets +onlyGivenNames s10
  have hs10 : Touches [.threads, .engines, .inFlight, .updates, .allocWait, .graphs, .launches, .sources, .tiles,
    .chunkWrites, .retires, .chans, .reqs, .watchHolds, .ranges, .xfers, .copies, .islands, .groups, .xunits, .streams,
    .lanes, .inbox, .partitions, .quotas, .wheels, .reports, .qmReports, .traces, .nextId] s s10 := by
    unfold s10
    split
    · exact (dropInsts_touches ..).after (by decide) hs9
    · exact hs9
  clear_value s10
  exact hs10

theorem beginKill_touches (s pkg lid reason) : Touches [.threads, .engines, .inFlight, .updates, .allocWait, .graphs,
    .launches, .launchQs, .sources, .tiles, .chunkWrites, .retires, .chans, .reqs, .watchHolds, .ranges, .xfers,
    .copies, .islands, .groups, .xunits, .streams, .lanes, .inbox, .partitions, .quotas, .wheels, .reports, .qmReports,
    .traces, .nextId] s (beginKill s pkg lid reason).1 := by
  unfold beginKill
  extract_lets +onlyGivenNames s1
  have hs1 : Touches [.threads, .engines, .inFlight, .updates, .allocWait, .graphs, .launches, .launchQs, .sources,
    .tiles, .chunkWrites, .retires, .chans, .reqs, .watchHolds, .ranges, .xfers, .copies, .islands, .groups, .xunits,
    .streams, .lanes, .inbox, .partitions, .quotas, .wheels, .reports, .qmReports, .traces, .nextId] s s1 := by
    unfold s1
    exact (modLaunch_touches ..).after (by decide) .rfl
  clear_value s1
  extract_lets +onlyGivenNames q s2
  have hs2 : Touches [.threads, .engines, .inFlight, .updates, .allocWait, .graphs, .launches, .launchQs, .sources,
    .tiles, .chunkWrites, .retires, .chans, .reqs, .watchHolds, .ranges, .xfers, .copies, .islands, .groups, .xunits,
    .streams, .lanes, .inbox, .partitions, .quotas, .wheels, .reports, .qmReports, .traces, .nextId] s s2 := by
    unfold s2
    exact (modLaunchQ_touches ..).after (by decide) hs1
  clear_value s2
  exact (stopLaunch_touches ..).after (by decide) hs2

theorem backToRow_touches (s f held) : Touches [.engines, .allocWait, .launches, .chans, .partitions, .quotas,
    .reports, .traces] s (backToRow s f held) := by
  unfold backToRow
  exact (beginWait_touches ..).after (by decide) ((modEng_touches ..).after (by decide) .rfl)

theorem setStrait_touches (s k v) : Touches [.straits] s (setStrait s k v) := .put rfl

theorem takePkt_touches (s e p) : Touches [.packets, .straits] s (takePkt s e p) := by
  unfold takePkt
  extract_lets +onlyGivenNames st dst seq pn x hdr p1 s1
  have hs1 : Touches [.packets, .straits] s s1 := by
    unfold s1
    exact (setStrait_touches ..).after (by decide) .rfl
  clear_value s1
  exact hs1.trans (.put rfl)

theorem sendPkt_touches (s e p) : Touches [.packets, .straits, .exits, .nextId] s (sendPkt s e p) := by
  unfold sendPkt
  split
  · next x i s1 h =>
      extract_lets +onlyGivenNames p1 x1
      split
      · exact (takePkt_touches ..).after (by decide) ((Touches.of_snd h (fresh_touches ..)).after (by decide)
          (.put rfl))
      · exact (setStrait_touches ..).after (by decide) ((Touches.of_snd h (fresh_touches ..)).after (by decide)
          (.put rfl))

theorem modTile_touches (s k f) : Touches [.tiles] s (modTile s k f) := by
  unfold modTile
  exact (setTile_touches ..).after (by decide) .rfl

theorem emitTok_touches (r fid at_ s t) : Touches [.inFlight, .updates, .graphs, .tiles] s (emitTok r fid at_ s t) := by
  unfold emitTok
  split
  · exact .rfl
  · extract_lets +onlyGivenNames s1
    have hs1 : Touches [.inFlight, .updates, .graphs, .tiles] s s1 := by
      unfold s1
      split
      · exact (modTile_touches ..).after (by decide) .rfl
      · exact .rfl
    clear_value s1
    split
    · extract_lets +onlyGivenNames steer s2
      have hs2 : Touches [.inFlight, .updates, .graphs, .tiles] s s2 := by
        unfold s2
        exact (addPend_touches ..).after (by decide) hs1
      clear_value s2
      exact hs2.trans (.put rfl)
    · exact hs1.trans (.put rfl)

theorem emitToks_touches (s r fid at_ toks) : Touches [.inFlight, .updates, .graphs, .tiles] s
    (emitToks s r fid at_ toks) := by
  unfold emitToks
  refine .trans ?_ (.foldl (fun u a => ?_) _ _)
  · exact .rfl
  · exact (emitTok_touches ..).after (by decide) .rfl

theorem modSlot_touches (s e slot f) : Touches [.engines] s (modSlot s e slot f) := by
  unfold modSlot
  exact (modEng_touches ..).after (by decide) .rfl

theorem countFiring_touches (s r tag lid wait) : Touches [.engines, .traces] s (countFiring s r tag lid wait) := by
  unfold countFiring
  extract_lets +onlyGivenNames s1
  have hs1 : Touches [.engines, .traces] s s1 := by
    unfold s1
    exact (modSlot_touches ..).after (by decide) .rfl
  clear_value s1
  split
  · exact (stageTrace_touches ..).after (by decide) hs1
  · exact hs1

theorem evalTrigger_touches (s r vrow) : Touches [.engines, .inFlight, .updates, .graphs, .tiles, .partitions, .quotas,
    .wheels, .traces, .nextId] s (evalTrigger s r vrow) := by
  unfold evalTrigger
  extract_lets +onlyGivenNames e v
  split
  · exact .rfl
  · split
    · exact .rfl
    · split
      · exact .rfl
      · extract_lets +onlyGivenNames t c n out
        split
        · next x3 i s1 h3 =>
            extract_lets +onlyGivenNames s2
            have hs2 : Touches [.engines, .inFlight, .updates, .graphs, .tiles, .partitions, .quotas, .wheels, .traces,
              .nextId] s s2 := by
              unfold s2
              exact (emitToks_touches ..).after (by decide) ((countFiring_touches ..).after (by decide)
                ((Touches.of_snd h3 (fresh_touches ..)).after (by decide) .rfl))
            clear_value s2
            extract_lets +onlyGivenNames s3
            have hs3 : Touches [.engines, .inFlight, .updates, .graphs, .tiles, .partitions, .quotas, .wheels, .traces,
              .nextId] s s3 := by
              unfold s3
              exact (clearRow_touches ..).after (by decide) hs2
            clear_value s3
            extract_lets +onlyGivenNames s4
            have hs4 : Touches [.engines, .inFlight, .updates, .graphs, .tiles, .partitions, .quotas, .wheels, .traces,
              .nextId] s s4 := by
              unfold s4
              exact (modWheel_touches ..).after (by decide) hs3
            clear_value s4
            exact (releaseUnit_touches ..).after (by decide) hs4

theorem evalHeld_touches (s e q) : Touches [.engines, .inFlight, .updates, .graphs, .tiles, .partitions, .quotas,
    .wheels, .traces, .nextId] s (evalHeld s e q) := by
  unfold evalHeld
  split
  · split
    · exact (evalTrigger_touches ..).after (by decide) .rfl
    · exact .rfl
  · exact .rfl

theorem dropEnt_touches (s pkg die t) : Touches [.wheels] s (dropEnt s pkg die t) := by
  unfold dropEnt
  exact (modWheel_touches ..).after (by decide) .rfl

theorem thawEnt_touches (s pkg die t) : Touches [.engines, .inFlight, .updates, .graphs, .launches, .tiles, .retires,
    .partitions, .quotas, .wheels, .traces, .nextId] s (thawEnt s pkg die t) := by
  unfold thawEnt
  split
  · split
    · exact (evalTrigger_touches ..).after (by decide) ((dropEnt_touches ..).after (by decide) .rfl)
    · exact (dropEnt_touches ..).after (by decide) .rfl
  · split
    · split
      · next x2 i s1 h2 =>
          exact (consumeToks_touches ..).after (by decide) ((emitToks_touches ..).after (by decide) ((Touches.of_snd h2
            (fresh_touches ..)).after (by decide) ((dropEnt_touches ..).after (by decide) .rfl)))
    · exact (dropEnt_touches ..).after (by decide) .rfl
  · exact .rfl

theorem thaw_touches (s key g) : Touches [.engines, .inFlight, .updates, .graphs, .launches, .tiles, .retires,
    .partitions, .quotas, .wheels, .traces, .nextId] s (thaw s key g) := by
  unfold thaw
  extract_lets +onlyGivenNames s1
  have hs1 : Touches [.engines, .inFlight, .updates, .graphs, .launches, .tiles, .retires, .partitions, .quotas,
    .wheels, .traces, .nextId] s s1 := by
    unfold s1
    exact (setGraph_touches ..).after (by decide) .rfl
  clear_value s1
  extract_lets +onlyGivenNames engs slotsOn toks held s2
  have hs2 : Touches [.engines, .inFlight, .updates, .graphs, .launches, .tiles, .retires, .partitions, .quotas,
    .wheels, .traces, .nextId] s s2 := by
    unfold s2
    refine .trans ?_ (.foldl (fun u a => ?_) _ _)
    · exact hs1
    · exact (modEng_touches ..).after (by decide) .rfl
  clear_value s2
  extract_lets +onlyGivenNames s3
  have hs3 : Touches [.engines, .inFlight, .updates, .graphs, .launches, .tiles, .retires, .partitions, .quotas,
    .wheels, .traces, .nextId] s s3 := by
    unfold s3
    refine .trans ?_ (.foldl (fun u a => ?_) _ _)
    · exact hs2.trans (.put rfl)
    · exact (evalHeld_touches ..).after (by decide) .rfl
  clear_value s3
  refine .trans ?_ (.foldl (fun u a => ?_) _ _)
  · exact hs3
  · exact (thawEnt_touches ..).after (by decide) .rfl

theorem setEcc_touches (s l0 w e) : Touches [.ecc, .eccL0] s (setEcc s l0 w e) := by
  unfold setEcc
  split
  · exact .put rfl
  · exact .put rfl

theorem setMode_touches (s k v) : Touches [.bankModes] s (setMode s k v) := .put rfl

theorem modMode_touches (s k f) : Touches [.bankModes] s (modMode s k f) := by
  unfold modMode
  exact (setMode_touches ..).after (by decide) .rfl

theorem bankCorrected_touches (s b) : Touches [.bankModes] s (bankCorrected s b) := by
  unfold bankCorrected
  extract_lets +onlyGivenNames th
  exact (modMode_touches ..).after (by decide) .rfl

theorem bankUncorrected_touches (s b) : Touches [.bankModes] s (bankUncorrected s b) := by
  unfold bankUncorrected
  exact (modMode_touches ..).after (by decide) .rfl

theorem eccRead_touches (s l0 w) : Touches [.bankModes] s (eccRead s l0 w) := by
  unfold eccRead
  split
  · exact (bankCorrected_touches ..).after (by decide) .rfl
  · split
    · exact (bankUncorrected_touches ..).after (by decide) .rfl
    · exact .rfl

theorem eccWrite_touches (s l0 whole w) : Touches [.ecc, .eccL0, .bankModes] s (eccWrite s l0 whole w) := by
  unfold eccWrite
  split
  · exact (setEcc_touches ..).after (by decide) .rfl
  · split
    · exact (setEcc_touches ..).after (by decide) ((eccRead_touches ..).after (by decide) .rfl)
    · exact (setEcc_touches ..).after (by decide) ((eccRead_touches ..).after (by decide) .rfl)

theorem writeHbm_touches (s g bs) : Touches [.hbm, .ecc, .eccL0, .bankModes] s (writeHbm s g bs) := by
  unfold writeHbm
  extract_lets +onlyGivenNames n s'
  have hs' : Touches [.hbm, .ecc, .eccL0, .bankModes] s s' := by
    unfold s'
    refine .trans ?_ (.foldl (fun u a => ?_) _ _)
    · exact .rfl
    · exact (eccWrite_touches ..).after (by decide) .rfl
  clear_value s'
  exact hs'.trans (.put rfl)

theorem writeUnit_touches (s l0 a bs) : Touches [.hbm, .l0, .ecc, .eccL0, .bankModes] s (writeUnit s l0 a bs) := by
  unfold writeUnit
  split
  · extract_lets +onlyGivenNames n s'
    have hs' : Touches [.hbm, .l0, .ecc, .eccL0, .bankModes] s s' := by
      unfold s'
      refine .trans ?_ (.foldl (fun u a => ?_) _ _)
      · exact .rfl
      · exact (eccWrite_touches ..).after (by decide) .rfl
    clear_value s'
    exact hs'.trans (.put rfl)
  · exact (writeHbm_touches ..).after (by decide) .rfl

theorem landAnswer_touches (s dest dpkg seq nack) : Touches [.acks, .nacks] s (landAnswer s dest dpkg seq nack) := by
  unfold landAnswer
  extract_lets +onlyGivenNames a
  split
  · exact .put rfl
  · exact .put rfl

theorem sendAnswer_touches (s e p nack) : Touches [.packets, .acks, .nacks, .nextId] s (sendAnswer s e p nack) := by
  unfold sendAnswer
  extract_lets +onlyGivenNames dpkg st
  split
  · exact (landAnswer_touches ..).after (by decide) .rfl
  · split
    · exact .rfl
    · extract_lets +onlyGivenNames f hdr
      split
      · next x1 i s1 h2 =>
          exact Touches.trans (t := s1) ((Touches.of_snd h2 (fresh_touches ..)).after (by decide) .rfl) (.put rfl)

theorem setPort_touches (s k v) : Touches [.streams] s (setPort s k v) := .put rfl

theorem modPort_touches (s k f) : Touches [.streams] s (modPort s k f) := by
  unfold modPort
  exact (setPort_touches ..).after (by decide) .rfl

theorem setCmd_touches (s k n c) : Touches [.streams] s (setCmd s k n c) := by
  unfold setCmd
  exact (modPort_touches ..).after (by decide) .rfl

theorem setThr_touches (s k v) : Touches [.threads] s (setThr s k v) := .put rfl

theorem modThr_touches (s k f) : Touches [.threads] s (modThr s k f) := by
  unfold modThr
  exact (setThr_touches ..).after (by decide) .rfl

theorem moveGrant_touches (s pkg src dst die pages ths bf bn hb hn) : Touches [.threads, .partitions, .pageOwner,
    .barRuns] s (moveGrant s pkg src dst die pages ths bf bn hb hn) := by
  unfold moveGrant
  extract_lets +onlyGivenNames s1
  have hs1 : Touches [.threads, .partitions, .pageOwner, .barRuns] s s1 := by
    unfold s1
    exact .put rfl
  clear_value s1
  extract_lets +onlyGivenNames s2
  have hs2 : Touches [.threads, .partitions, .pageOwner, .barRuns] s s2 := by
    unfold s2
    refine .trans ?_ (.foldl (fun u a => ?_) _ _)
    · exact hs1
    · exact (modThr_touches ..).after (by decide) .rfl
  clear_value s2
  split
  · exact hs2
  · exact (modPart_touches ..).after (by decide) ((modPart_touches ..).after (by decide) hs2)

theorem servedQ_touches (s pkg die q) : Touches [.engines] s (servedQ s pkg die q) := by
  unfold servedQ
  exact (modEng_touches ..).after (by decide) .rfl

theorem chunkDone_touches (s id c) : Touches [.tiles] s (chunkDone s id c) := by
  unfold chunkDone
  extract_lets +onlyGivenNames t m
  split
  · exact .rfl
  · exact (setTile_touches ..).after (by decide) .rfl

theorem recordWait_touches (s r q) : Touches [.engines] s (recordWait s r q) := by
  unfold recordWait
  split
  · exact (modSlot_touches ..).after (by decide) .rfl
  · exact .rfl

theorem considerRow_touches (s r vrow) : Touches [.engines, .allocWait, .launches, .tiles, .chans, .partitions,
    .quotas, .reports, .traces, .nextId] s (considerRow s r vrow) := by
  unfold considerRow
  extract_lets +onlyGivenNames e
  split
  · exact .rfl
  · split
    · exact .rfl
    · extract_lets +onlyGivenNames s1
      have hs1 : Touches [.engines, .allocWait, .launches, .tiles, .chans, .partitions, .quotas, .reports, .traces,
        .nextId] s s1 := by
        unfold s1
        exact (recordWait_touches ..).after (by decide) .rfl
      clear_value s1
      extract_lets +onlyGivenNames behind
      split
      · next x1 i s2 h2 =>
          split
          · exact (beginWait_touches ..).after (by decide) hs1
          · split
            · next x2 s3 ds h4 =>
                refine (joinReady_touches ..).after (by decide) ?_
                have k := Touches.carry h4 (readyNow_touches ..)
                exact Touches.after k (by decide) ((Touches.of_snd h2 (fresh_touches ..)).after (by decide) hs1)
            · exact (beginWait_touches ..).after (by decide) hs1
            · exact (beginWait_touches ..).after (by decide) hs1

theorem takeOps_touches (s f) : Touches [.engines, .partitions, .quotas] s (takeOps s f) := by
  unfold takeOps
  extract_lets +onlyGivenNames e has x q
  split
  · exact (clearRow_touches ..).after (by decide) .rfl
  · exact (modEng_touches ..).after (by decide) .rfl

theorem leaveFlow_touches (s f) : Touches [.engines, .allocWait, .launches, .tiles, .chans, .partitions, .quotas,
    .reports, .traces, .nextId] s (leaveFlow s f) := by
  unfold leaveFlow
  extract_lets +onlyGivenNames s1
  have hs1 : Touches [.engines, .allocWait, .launches, .tiles, .chans, .partitions, .quotas, .reports, .traces,
    .nextId] s s1 := by
    unfold s1
    exact (modEng_touches ..).after (by decide) .rfl
  clear_value s1
  exact (considerRow_touches ..).after (by decide) ((takeOps_touches ..).after (by decide) hs1)

theorem fire_touches (s f fid out retire) : Touches [.engines, .inFlight, .updates, .allocWait, .graphs, .launches,
    .tiles, .retires, .chans, .partitions, .quotas, .reports, .traces, .nextId] s (fire s f fid out retire) := by
  unfold fire
  extract_lets +onlyGivenNames s1
  have hs1 : Touches [.engines, .inFlight, .updates, .allocWait, .graphs, .launches, .tiles, .retires, .chans,
    .partitions, .quotas, .reports, .traces, .nextId] s s1 := by
    unfold s1
    exact (countFiring_touches ..).after (by decide) .rfl
  clear_value s1
  extract_lets +onlyGivenNames s2
  have hs2 : Touches [.engines, .inFlight, .updates, .allocWait, .graphs, .launches, .tiles, .retires, .chans,
    .partitions, .quotas, .reports, .traces, .nextId] s s2 := by
    unfold s2
    exact (consumeToks_touches ..).after (by decide) ((emitToks_touches ..).after (by decide) hs1)
  clear_value s2
  exact (leaveFlow_touches ..).after (by decide) hs2

theorem deliverTo_touches (c slot t x v) : Touches [] v.s (deliverTo c slot t x v).s := by
  unfold deliverTo
  split
  · exact .rfl
  · extract_lets +onlyGivenNames k st sk
    split
    · dsimp -zeta only
      exact .rfl
    · dsimp -zeta only
      exact .rfl

theorem deliver2_touches (c slot en x0 x1 v) : Touches [] v.s (deliver2 c slot en x0 x1 v).s := by
  unfold deliver2
  extract_lets +onlyGivenNames w
  exact (deliverTo_touches ..).after (by decide) ((deliverTo_touches ..).after (by decide) .rfl)

theorem deliver_touches (c slot en x v) : Touches [] v.s (deliver c slot en x v).s := by
  unfold deliver
  exact (deliver2_touches ..).after (by decide) .rfl

theorem runTin_touches (c slot v) : Touches [] v.s (runTin c slot v).s := by
  unfold runTin
  extract_lets +onlyGivenNames w pos t x
  exact (deliver_touches ..).after (by decide) .rfl

theorem modCur_touches (s f) : Touches [.threads] s (modCur s f) := by
  unfold modCur
  exact (modThr_touches ..).after (by decide) .rfl

theorem asyncIssue_touches (s rd w) : Touches [.threads] s (asyncIssue s rd w) := by
  unfold asyncIssue
  exact (modCur_touches ..).after (by decide) .rfl

theorem asyncDone_touches (s rd v) : Touches [.threads] s (asyncDone s rd v) := by
  unfold asyncDone
  exact (asyncIssue_touches ..).after (by decide) .rfl

theorem enterTrap_touches (s t tr epc handler) : Touches [.threads, .traces] s (enterTrap s t tr epc handler) := by
  unfold enterTrap
  exact (traceClass_touches ..).after (by decide) ((modThr_touches ..).after (by decide) .rfl)

theorem syncTrapRaw_touches (s t tr epc handler) : Touches [.threads, .traces] s (syncTrapRaw s t tr epc handler) := by
  unfold syncTrapRaw
  split
  · exact (modThr_touches ..).after (by decide) .rfl
  · exact (enterTrap_touches ..).after (by decide) .rfl

theorem unwindLevel_touches (s t lvl) : Touches [.threads, .traces] s (unwindLevel s t lvl) := by
  unfold unwindLevel
  split
  · exact .rfl
  · extract_lets +onlyGivenNames s1
    have hs1 : Touches [.threads, .traces] s s1 := by
      unfold s1
      exact (modThr_touches ..).after (by decide) .rfl
    clear_value s1
    exact (syncTrapRaw_touches ..).after (by decide) hs1

theorem loadErrorTrap_touches (s t) : Touches [.threads, .traces] s (loadErrorTrap s t) := by
  unfold loadErrorTrap
  extract_lets +onlyGivenNames th
  split
  · exact .rfl
  · extract_lets +onlyGivenNames s1
    have hs1 : Touches [.threads, .traces] s s1 := by
      unfold s1
      exact (modThr_touches ..).after (by decide) .rfl
    clear_value s1
    split
    · exact (unwindLevel_touches ..).after (by decide) hs1
    · exact (syncTrapRaw_touches ..).after (by decide) hs1

theorem syncTrap_touches (s t cause tval epc) : Touches [.threads, .traces] s (syncTrap s t cause tval epc) := by
  unfold syncTrap
  split
  · exact (syncTrapRaw_touches ..).after (by decide) .rfl
  · exact (loadErrorTrap_touches ..).after (by decide) .rfl

theorem watchTrap_touches (s t acc va epc) : Touches [.threads, .traces] s (watchTrap s t acc va epc) := by
  unfold watchTrap
  exact (syncTrap_touches ..).after (by decide) ((modThr_touches ..).after (by decide) .rfl)

theorem noteMiss_touches (s e part va tag slot lid) : Touches [.walks] s (noteMiss s e part va tag slot lid) := by
  unfold noteMiss
  extract_lets +onlyGivenNames on
  split
  · exact .put rfl
  · exact .put rfl

theorem trapCur_touches (s cause tval) : Touches [.threads, .traces] s (trapCur s cause tval) := by
  unfold trapCur
  exact (syncTrap_touches ..).after (by decide) .rfl

theorem dropWalk_touches (s e part va) : Touches [.walks] s (dropWalk s e part va) := .put rfl

theorem accessTrap_touches (s c va) : Touches [.threads, .walks, .traces] s (accessTrap s c va) := by
  unfold accessTrap
  extract_lets +onlyGivenNames e part
  split
  · exact (noteMiss_touches ..).after (by decide) .rfl
  · exact (trapCur_touches ..).after (by decide) ((dropWalk_touches ..).after (by decide) .rfl)

theorem opTrap_touches (s x) : Touches [.threads, .walks, .traces] s (opTrap s x) := by
  unfold opTrap
  split
  · exact (watchTrap_touches ..).after (by decide) .rfl
  · exact (accessTrap_touches ..).after (by decide) .rfl

theorem writePieces_touches (s bs a) : Touches [.hbm, .hostMem, .ecc, .eccL0, .bankModes] s (writePieces s bs a) := by
  fun_induction writePieces s bs a with
  | case1 s bs => exact .rfl
  | case2 s bs g n ps ih => exact .trans ((writeHbm_touches ..).after (by decide) .rfl) ih
  | case3 s bs a n ps ih => exact .trans (.put rfl) ih
  | case4 s bs f snd ps ih => exact .trans .rfl ih

theorem toBuffer_touches (s rd va room bs value) : Touches [.threads, .hbm, .hostMem, .ecc, .eccL0, .bankModes, .walks,
    .traces] s (toBuffer s rd va room bs value) := by
  unfold toBuffer
  split
  · exact (opTrap_touches ..).after (by decide) .rfl
  · split
    · exact (asyncDone_touches ..).after (by decide) .rfl
    · split
      · exact .rfl
      · split
        · exact (opTrap_touches ..).after (by decide) .rfl
        · exact (asyncDone_touches ..).after (by decide) ((writePieces_touches ..).after (by decide) .rfl)

theorem issueReq_touches (s pkg die r) : Touches [.reqs, .packets, .straits, .exits, .nextId] s
    (issueReq s pkg die r) := by
  unfold issueReq
  split
  · exact .put rfl
  · extract_lets +onlyGivenNames s1
    have hs1 : Touches [.reqs, .packets, .straits, .exits, .nextId] s s1 := by
      unfold s1
      exact .put rfl
    clear_value s1
    split
    · exact hs1.trans (.put rfl)
    · exact (sendPkt_touches ..).after (by decide) hs1

theorem issueLoad_touches (rd rs1 imm size sext s) : Touches [.threads, .reqs, .walks, .packets, .straits, .exits,
    .traces, .nextId] s (issueLoad rd rs1 imm size sext s) := by
  unfold issueLoad
  extract_lets +onlyGivenNames th va
  split
  · exact (accessTrap_touches ..).after (by decide) .rfl
  · split
    · exact (watchTrap_touches ..).after (by decide) .rfl
    · split
      · exact .rfl
      · split
        · next x1 i s1 h3 =>
            extract_lets +onlyGivenNames ld s2
            have hs2 : Touches [.threads, .reqs, .walks, .packets, .straits, .exits, .traces, .nextId] s s2 := by
              unfold s2
              exact (modCur_touches ..).after (by decide) ((Touches.of_snd h3 (fresh_touches ..)).after
                (by decide) .rfl)
            clear_value s2
            exact (issueReq_touches ..).after (by decide) hs2

theorem finish_touches (s rd v) : Touches [.threads] s (finish s rd v) := by
  unfold finish
  exact (modCur_touches ..).after (by decide) .rfl

theorem regOp_touches (f rd rs1 rs2 s) : Touches [.threads] s (regOp f rd rs1 rs2 s) := by
  unfold regOp
  exact (finish_touches ..).after (by decide) .rfl

theorem bindBank_touches (s e a) : Touches [.islands] s (bindBank s e a).2 := by
  unfold bindBank
  extract_lets +onlyGivenNames i
  split
  · dsimp -zeta only
    exact (setIsland_touches ..).after (by decide) .rfl
  · dsimp -zeta only
    exact (setIsland_touches ..).after (by decide) .rfl

theorem selectAct_touches (s r a) : Touches [.engines, .islands] s (selectAct s r a) := by
  unfold selectAct
  extract_lets +onlyGivenNames e
  split
  · next x b s1 h =>
      refine (modEng_touches ..).after (by decide) ?_
      split at h
      · exact (Touches.of_snd h (bindBank_touches ..)).after (by decide) .rfl
      · cases h
        exact .rfl

theorem setSlotTab_touches (s k v) : Touches [.slotTabs] s (setSlotTab s k v) := .put rfl

theorem storeRead_touches (s x) : Touches [.retires, .ranges] s (storeRead s x) := .put rfl

theorem modRegion_touches (s pkg graph region f) : Touches [.graphs] s (modRegion s pkg graph region f) := by
  unfold modRegion
  exact (modGraph_touches ..).after (by decide) .rfl

theorem modCol_touches (s k f) : Touches [.graphs] s (modCol s k f) := by
  unfold modCol
  exact (modRegion_touches ..).after (by decide) .rfl

theorem holdLive_touches (s k) : Touches [.graphs] s (holdLive s k) := by
  unfold holdLive
  exact (modCol_touches ..).after (by decide) .rfl

theorem drawColour_touches (s pkg graph region lid hold closed) : onSome (fun p => Touches [.graphs] s (p).2)
    (drawColour s pkg graph region lid hold closed) := by
  unfold drawColour
  split
  · extract_lets +onlyGivenNames s1
    have hs1 : Touches [.graphs] s s1 := by
      unfold s1
      exact (modRegion_touches ..).after (by decide) .rfl
    clear_value s1
    extract_lets +onlyGivenNames s2
    have hs2 : Touches [.graphs] s s2 := by
      unfold s2
      split
      · exact (holdLive_touches ..).after (by decide) hs1
      · exact hs1
    clear_value s2
    exact hs2
  · trivial

theorem svcWrite_touches (s pkg fn va bs) : onSome (Touches [.hbm, .hostMem, .ecc, .eccL0, .bankModes] s)
    (svcWrite s pkg fn va bs) := by
  unfold svcWrite
  exact onSome.map fun a h => ((writePieces_touches ..).after (by decide) .rfl)

theorem setFn_touches (s k v) : Touches [.fns] s (setFn s k v) := .put rfl

theorem modFn_touches (s k f) : Touches [.fns] s (modFn s k f) := by
  unfold modFn
  exact (setFn_touches ..).after (by decide) .rfl

theorem complete_touches (s pkg fn c w data) : Touches [.hbm, .hostMem, .ecc, .eccL0, .bankModes, .fns] s
    (complete s pkg fn c w data) := by
  unfold complete
  extract_lets +onlyGivenNames x s1
  have hs1 : Touches [.hbm, .hostMem, .ecc, .eccL0, .bankModes, .fns] s s1 := by
    unfold s1
    refine .getD (fun u hu => ?_) ?_
    · have k := Touches.carry hu (svcWrite_touches ..)
      refine Touches.after k (by decide) ?_
      unfold x
      split
      · dsimp -zeta only
        exact .rfl
      · split
        · next x1 v h1 =>
            dsimp -zeta only
            have k1 := Touches.carry h1 (svcWrite_touches ..)
            exact Touches.after k1 (by decide) .rfl
        · dsimp -zeta only
          exact .rfl
    · unfold x
      split
      · dsimp -zeta only
        exact .rfl
      · split
        · next x1 v h1 =>
            dsimp -zeta only
            have k := Touches.carry h1 (svcWrite_touches ..)
            exact Touches.after k (by decide) .rfl
        · dsimp -zeta only
          exact .rfl
  clear_value s1
  exact (modFn_touches ..).after (by decide) hs1

theorem declareTiles_touches (pkg part g t a a1 a2) : onSome (fun p => Touches [.partitions] a1 (p).1)
    (declareTiles pkg part g t a a1 a2) := by
  fun_induction declareTiles pkg part g t a a1 a2 with
  | case1 s l =>
    change Touches _ _ _
    dsimp -zeta only
    exact .rfl
  | case2 k h ds s l id r h1 ih => exact onSome.imp (fun _ k => .trans .rfl k) ih
  | case3 k h ds s l h1 h2 => trivial
  | case4 k h ds s l id r h1 o h2 s1 ih =>
    refine onSome.imp (fun _ k => .trans ?_ k) ih
    unfold s1
    exact (modPart_touches ..).after (by decide) .rfl

theorem declareAll_touches (pkg part g es ps a a1 a2) : onSome (fun p => Touches [.partitions] a1 (p).1)
    (declareAll pkg part g es ps a a1 a2) := by
  fun_induction declareAll pkg part g es ps a a1 a2 with
  | case1 s l =>
    change Touches _ _ _
    dsimp -zeta only
    exact .rfl
  | case2 t rest s l h => trivial
  | case3 t rest s l s1 l1 h ih =>
    refine onSome.imp (fun _ k => .trans ?_ k) ih
    have k1 := Touches.carry h (declareTiles_touches ..)
    exact Touches.after k1 (by decide) .rfl

theorem writeTileImage_touches (s id t i bs) : Touches [.hbm, .l0, .ecc, .eccL0, .bankModes] s
    (writeTileImage s id t i bs) := by
  unfold writeTileImage
  refine .trans ?_ (.foldl (fun u a => ?_) _ _)
  · exact .rfl
  · exact (writeUnit_touches ..).after (by decide) .rfl

theorem writeScale_touches (s id t c bs) : Touches [.hbm, .l0, .ecc, .eccL0, .bankModes] s
    (writeScale s id t c bs) := by
  unfold writeScale
  refine .trans ?_ (.foldl (fun u a => ?_) _ _)
  · exact .rfl
  · exact (writeUnit_touches ..).after (by decide) .rfl

theorem initTile_touches (i g agid s r) : onSome (Touches [.tiles, .hbm, .l0, .ecc, .eccL0, .bankModes, .quotas] s)
    (initTile i g agid s r) := by
  unfold initTile
  split
  · exact .rfl
  · extract_lets +onlyGivenNames t t1 bytes fill
    have hfill : ∀ u0 a1, Touches [.tiles, .hbm, .l0, .ecc, .eccL0, .bankModes, .quotas] u0 (fill u0 a1) := by
      intro u0 a1
      unfold fill
      extract_lets +onlyGivenNames s1
      have hs1 : Touches [.tiles, .hbm, .l0, .ecc, .eccL0, .bankModes, .quotas] u0 s1 := by
        unfold s1
        exact (writeTileImage_touches ..).after (by decide) .rfl
      clear_value s1
      split
      · refine .trans ?_ (.foldl (fun u a => ?_) _ _)
        · exact hs1
        · exact (writeScale_touches ..).after (by decide) .rfl
      · exact hs1
    split
    · exact .trans ((setTile_touches ..).after (by decide) .rfl) (hfill ..)
    · split
      · trivial
      · extract_lets +onlyGivenNames t2
        exact .trans ((charge_touches ..).after (by decide) ((setTile_touches ..).after (by decide) .rfl)) (hfill ..)

theorem initTiles_touches (i g agid a a1) : onSome (Touches [.tiles, .hbm, .l0, .ecc, .eccL0, .bankModes, .quotas] a1)
    (initTiles i g agid a a1) := by
  fun_induction initTiles i g agid a a1 with
  | case1 s => exact .rfl
  | case2 r rs s h => trivial
  | case3 r rs s s' h ih =>
    refine onSome.imp (fun _ k => .trans ?_ k) ih
    have k1 := Touches.carry h (initTile_touches ..)
    exact Touches.after k1 (by decide) .rfl

theorem pageError_touches (s ps) : onSome (Touches [.badPages] s) (pageError s ps) := by
  unfold pageError
  split
  · exact .put rfl
  · trivial

theorem powerPages_touches (s pkg g on) : Touches [.pageOn] s (powerPages s pkg g on) := by
  unfold powerPages
  refine .trans ?_ (.foldl (fun u a => ?_) _ _)
  · exact .rfl
  · refine .trans ?_ (.foldl (fun u a => ?_) _ _)
    · exact .rfl
    · exact .put rfl

theorem setVTile_touches (s k v) : Touches [.vtiles] s (setVTile s k v) := .put rfl

theorem modVTile_touches (s k f) : Touches [.vtiles] s (modVTile s k f) := by
  unfold modVTile
  exact (setVTile_touches ..).after (by decide) .rfl

theorem freshSlots_touches (s g) : Touches [.engines, .vtiles] s (freshSlots s g) := by
  unfold freshSlots
  extract_lets +onlyGivenNames s1
  have hs1 : Touches [.engines, .vtiles] s s1 := by
    unfold s1
    refine .trans ?_ (.foldl (fun u a => ?_) _ _)
    · exact .rfl
    · exact (modSlot_touches ..).after (by decide) .rfl
  clear_value s1
  extract_lets +onlyGivenNames vs
  refine .trans ?_ (.foldl (fun u a => ?_) _ _)
  · exact hs1
  · extract_lets +onlyGivenNames names
    exact (modVTile_touches ..).after (by decide) .rfl

theorem forgetRoom_touches (s pkg) : Touches [.graphs] s (forgetRoom s pkg) := .put rfl

theorem planMoves_touches (s pkg ms) : Touches [.graphs] s (planMoves s pkg ms) := by
  unfold planMoves
  refine .trans ?_ (.foldl (fun u a => ?_) _ _)
  · exact .rfl
  · exact (modGraph_touches ..).after (by decide) .rfl

theorem compactFor_touches (s pkg part nd rows cols) : onSome (Touches [.graphs] s)
    (compactFor s pkg part nd rows cols) := by
  unfold compactFor
  split
  · exact .rfl
  · split
    · split
      · trivial
      · exact (planMoves_touches ..).after (by decide) .rfl
    · trivial

theorem modRun_touches (s e f) : Touches [.engines] s (modRun s e f) := by
  unfold modRun
  exact (modEng_touches ..).after (by decide) .rfl

theorem watchGate_touches (s home who part lid acc xs) : onSome (Touches [.watchHolds, .reports, .nextId] s)
    (watchGate s home who part lid acc xs) := by
  unfold watchGate
  split
  · trivial
  · split
    · exact .rfl
    · extract_lets +onlyGivenNames e
      split
      · next x1 i s1 h2 =>
          exact (raise_touches ..).after (by decide) (Touches.trans (t := s1) ((Touches.of_snd h2
            (fresh_touches ..)).after (by decide) .rfl) (.put rfl))

theorem chunkGate_touches (s id c who lid acc) : onSome (Touches [.watchHolds, .reports, .nextId] s)
    (chunkGate s id c who lid acc) := by
  unfold chunkGate
  extract_lets +onlyGivenNames t
  exact onSome.imp (fun _ k => k.after (by decide) .rfl) (watchGate_touches ..)

theorem boundGate_touches (s c) : onSome (Touches [.watchHolds, .reports, .nextId] s) (boundGate s c) := by
  unfold boundGate
  exact onSome.findSome (fun a => (onSome.findSome (fun a => (onSome.imp (fun _ k => k.after (by decide) .rfl)
    (chunkGate_touches ..))) _)) _

theorem stepStart_touches (s e u) : Touches [] s (stepStart s e u).s := .put rfl

theorem watchPassed_touches (s who xs) : Touches [.watchHolds] s (watchPassed s who xs) := .put rfl

theorem runBrk_touches (c slot v) : Touches [] v.s (runBrk c slot v).s := by
  unfold runBrk
  extract_lets +onlyGivenNames on
  split
  · dsimp -zeta only
    exact .rfl
  · exact .rfl

theorem countWords_touches (s l0 as_) : Touches [.bankModes] s (countWords s l0 as_) := by
  unfold countWords
  refine .trans ?_ (.foldl (fun u a => ?_) _ _)
  · exact .rfl
  · exact (eccRead_touches ..).after (by decide) .rfl

theorem countBound_touches (s id is_) : Touches [.bankModes] s (countBound s id is_) := by
  unfold countBound
  extract_lets +onlyGivenNames t is_1
  exact (countWords_touches ..).after (by decide) .rfl

theorem runBin_touches (c slot v) : Touches [.bankModes] v.s (runBin c slot v).s := by
  unfold runBin
  extract_lets +onlyGivenNames w id xs
  refine (deliver_touches ..).after (by decide) ?_
  dsimp -zeta only
  exact (countBound_touches ..).after (by decide) .rfl

theorem runTout_touches (c slot v) : Touches [] v.s (runTout c slot v).s := by
  unfold runTout
  extract_lets +onlyGivenNames w en l
  dsimp -zeta only
  exact .rfl

theorem runConst_touches (c slot v) : Touches [] v.s (runConst c slot v).s := by
  unfold runConst
  exact (deliver_touches ..).after (by decide) .rfl

theorem runIds_touches (c slot v) : Touches [] v.s (runIds c slot v).s := by
  unfold runIds
  extract_lets +onlyGivenNames w en d x cs
  refine (deliver_touches ..).after (by decide) ?_
  dsimp -zeta only
  exact .rfl

theorem elementwise_touches (c slot v f) : Touches [] v.s (elementwise c slot v f).s := by
  unfold elementwise
  extract_lets +onlyGivenNames en outs fs x
  refine (deliver_touches ..).after (by decide) ?_
  dsimp -zeta only
  exact .rfl

theorem struck_touches (sums v) : Touches [] v.s (struck sums v).s := by
  unfold struck
  split
  · exact .rfl
  · dsimp -zeta only
    exact .rfl

theorem runCarry_touches (c slot v) : Touches [] v.s (runCarry c slot v).s := by
  unfold runCarry
  extract_lets +onlyGivenNames w n l r en neg sums off
  exact (elementwise_touches ..).after (by decide) ((struck_touches ..).after (by decide) .rfl)

theorem runTest_touches (c slot v) : Touches [] v.s (runTest c slot v).s := by
  unfold runTest
  extract_lets +onlyGivenNames w t l
  exact (elementwise_touches ..).after (by decide) .rfl

theorem setLane_touches (v k x fl) : Touches [] v.s (setLane v k x fl).s := by
  unfold setLane
  dsimp -zeta only
  exact .rfl

theorem runSum_touches (c slot v) : Touches [] v.s (runSum c slot v).s := by
  unfold runSum
  extract_lets +onlyGivenNames w t en xs k sums r v1 key x d
  split
  · exact (deliver_touches ..).after (by decide) .rfl
  · refine (deliver_touches ..).after (by decide) ?_
    refine (setLane_touches ..).after (by decide) ?_
    unfold v1
    exact (struck_touches ..).after (by decide) .rfl

theorem runPick_touches (c slot v) : Touches [] v.s (runPick c slot v).s := by
  unfold runPick
  extract_lets +onlyGivenNames w t en xs k mx r key old n x d
  split
  · exact (deliver_touches ..).after (by decide) .rfl
  · exact (deliver_touches ..).after (by decide) ((setLane_touches ..).after (by decide) .rfl)

theorem runCount_touches (c slot v) : Touches [] v.s (runCount c slot v).s := by
  unfold runCount
  extract_lets +onlyGivenNames w t en k key old n d
  split
  · exact (deliver_touches ..).after (by decide) .rfl
  · exact (deliver_touches ..).after (by decide) ((setLane_touches ..).after (by decide) .rfl)

theorem runScan_touches (c slot v) : Touches [] v.s (runScan c slot v).s := by
  unfold runScan
  extract_lets +onlyGivenNames w t en key r
  exact (deliver_touches ..).after (by decide) ((setLane_touches ..).after (by decide) .rfl)

theorem runArgmax_touches (c slot v) : Touches [] v.s (runArgmax c slot v).s := by
  unfold runArgmax
  extract_lets +onlyGivenNames w t en xs key old show_ lim n y
  split
  · unfold show_
    exact (deliver_touches ..).after (by decide) .rfl
  · extract_lets +onlyGivenNames i better x1
    unfold show_
    exact (deliver_touches ..).after (by decide) ((setLane_touches ..).after (by decide) .rfl)

theorem runAclr_touches (c slot v) : Touches [] v.s (runAclr c slot v).s := by
  unfold runAclr
  extract_lets +onlyGivenNames en
  refine .trans ?_ (.foldl_vstep (fun u a => ?_) _ _)
  · exact .rfl
  · split
    · dsimp -zeta only
      exact .rfl
    · exact .rfl

theorem runAadd_touches (c slot v) : Touches [] v.s (runAadd c slot v).s := by
  unfold runAadd
  extract_lets +onlyGivenNames w t xs
  refine .trans ?_ (.foldl_vstep (fun u a => ?_) _ _)
  · exact .rfl
  · extract_lets +onlyGivenNames ys k sums r v1 x
    split
    · exact .rfl
    · refine (setLane_touches ..).after (by decide) ?_
      unfold v1
      exact (struck_touches ..).after (by decide) .rfl

theorem runDrain_touches (c slot v) : Touches [] v.s (runDrain c slot v).s := by
  unfold runDrain
  extract_lets +onlyGivenNames w en ds
  refine (deliver_touches ..).after (by decide) ?_
  dsimp -zeta only
  exact .rfl

theorem putReg_touches (c en k x v) : Touches [] v.s (putReg c en k x v).s := by
  unfold putReg
  extract_lets +onlyGivenNames old n x1
  dsimp -zeta only
  exact .rfl

theorem runReg_touches (c slot a b quiet v) : Touches [] v.s (runReg c slot a b quiet v).s := by
  unfold runReg
  extract_lets +onlyGivenNames w en send
  split
  · unfold send
    split
    · exact .rfl
    · exact (deliver_touches ..).after (by decide) .rfl
  · exact (putReg_touches ..).after (by decide) .rfl
  · unfold send
    split
    · exact (putReg_touches ..).after (by decide) .rfl
    · exact (deliver_touches ..).after (by decide) ((putReg_touches ..).after (by decide) .rfl)

theorem runRegs_touches (c slot i v) : Touches [] v.s (runRegs c slot i v).s := by
  unfold runRegs
  extract_lets +onlyGivenNames aux steps
  exact (runReg_touches ..).after (by decide) .rfl

theorem putBound_touches (s id i code) : Touches [.hbm, .l0, .ecc, .eccL0, .bankModes] s (putBound s id i code) := by
  unfold putBound
  extract_lets +onlyGivenNames t
  exact (writeUnit_touches ..).after (by decide) .rfl

theorem runArith_touches (c slot v) : Touches [] v.s (runArith c slot v).s := by
  unfold runArith
  extract_lets +onlyGivenNames w t xs en row sums
  exact (elementwise_touches ..).after (by decide) ((struck_touches ..).after (by decide) .rfl)

theorem runRaw_touches (c slot v) : Touches [] v.s (runRaw c slot v).s := by
  unfold runRaw
  extract_lets +onlyGivenNames w l r
  exact (elementwise_touches ..).after (by decide) .rfl

theorem runCmp_touches (c slot v) : Touches [] v.s (runCmp c slot v).s := by
  unfold runCmp
  extract_lets +onlyGivenNames w t l r
  exact (elementwise_touches ..).after (by decide) .rfl

theorem runSelect_touches (c slot v) : Touches [] v.s (runSelect c slot v).s := by
  unfold runSelect
  extract_lets +onlyGivenNames w op t en has sel l r gone row
  clear_value op t en sel l r gone
  split
  · exact (deliver_touches ..).after (by decide) .rfl
  · exact (deliver2_touches ..).after (by decide) .rfl
  · exact (deliver_touches ..).after (by decide) .rfl
  · exact (deliver_touches ..).after (by decide) .rfl
  · exact (deliver_touches ..).after (by decide) .rfl
  · exact (deliver_touches ..).after (by decide) .rfl

theorem runSpecial_touches (c slot v) : Touches [] v.s (runSpecial c slot v).s := by
  unfold runSpecial
  extract_lets +onlyGivenNames w t l
  exact (elementwise_touches ..).after (by decide) .rfl

theorem runLane_touches (c slot v) : Touches [] v.s (runLane c slot v).s := by
  unfold runLane
  extract_lets +onlyGivenNames w op imm has l r sel n gone f
  exact (deliver_touches ..).after (by decide) .rfl

theorem unwindInst_touches (s r fid toks x) : Touches [.updates, .graphs, .launches, .retires] s
    (unwindInst s r fid toks x) := by
  unfold unwindInst
  extract_lets +onlyGivenNames s1
  have hs1 : Touches [.updates, .graphs, .launches, .retires] s s1 := by
    unfold s1
    exact (modInst_touches ..).after (by decide) .rfl
  clear_value s1
  exact (consumeToks_touches ..).after (by decide) hs1

theorem noteFault_touches (s pkg lid why) : Touches [.launches] s (noteFault s pkg lid why) := by
  unfold noteFault
  exact (modLaunch_touches ..).after (by decide) .rfl

theorem setAsideToks_touches (s e slot vrow why toks) : Touches [.engines] s (setAsideToks s e slot vrow why toks) := by
  unfold setAsideToks
  exact (modEng_touches ..).after (by decide) .rfl

theorem opFault_touches (s r vrow toks cause tval) : Touches [.engines, .launches, .reports] s
    (opFault s r vrow toks cause tval) := by
  unfold opFault
  extract_lets +onlyGivenNames lid tag
  exact (raiseAt_touches ..).after (by decide) ((noteFault_touches ..).after (by decide)
    ((setAsideToks_touches ..).after (by decide) .rfl))

theorem silentData_touches (s r vrow toks expected found) : Touches [.engines, .updates, .graphs, .launches, .retires,
    .reports, .nextId] s (silentData s r vrow toks expected found) := by
  unfold silentData
  extract_lets +onlyGivenNames tag
  split
  · split
    · next x2 i s1 h1 =>
        exact (unwindInst_touches ..).after (by decide) ((Touches.of_snd h1 (fresh_touches ..)).after (by decide) .rfl)
  · exact (opFault_touches ..).after (by decide) .rfl

theorem silent3_touches (s e r u) : Touches [.threads, .engines, .updates, .allocWait, .graphs, .launches, .tiles,
    .chunkWrites, .retires, .chans, .islands, .partitions, .quotas, .reports, .traces, .nextId] s
    (silent3 s e r u) := by
  unfold silent3
  split
  · exact .rfl
  · exact (silentData_touches ..).after (by decide) ((abortRun_touches ..).after (by decide) ((modEng_touches ..).after
      (by decide) .rfl))

theorem poisonConsumed_touches (s r vrow toks) : Touches [.engines, .updates, .graphs, .launches, .retires, .nextId] s
    (poisonConsumed s r vrow toks) := by
  unfold poisonConsumed
  extract_lets +onlyGivenNames tag
  split
  · split
    · next x2 i s1 h1 =>
        exact (unwindInst_touches ..).after (by decide) ((Touches.of_snd h1 (fresh_touches ..)).after (by decide) .rfl)
  · exact (setAsideToks_touches ..).after (by decide) .rfl

theorem stopStep_touches (s e p v) : Touches [.engines, .vtiles] s (stopStep s e p v) := by
  unfold stopStep
  exact (modRun_touches ..).after (by decide) ((modVTile_touches ..).after (by decide) .rfl)

theorem setFlags_touches (s e slot fl) : Touches [.engines] s (setFlags s e slot fl) := by
  unfold setFlags
  exact (modSlot_touches ..).after (by decide) .rfl

theorem keepStep_touches (e r u v) : Touches [.engines, .vtiles] v.s (keepStep e r u v) := by
  unfold keepStep
  extract_lets +onlyGivenNames s
  have hs : Touches [.engines, .vtiles] v.s s := by
    unfold s
    exact (setFlags_touches ..).after (by decide) ((setVTile_touches ..).after (by decide) .rfl)
  clear_value s
  exact (modEng_touches ..).after (by decide) hs

theorem takeBreak_touches (s r u code) : Touches [.graphs, .reports] s (takeBreak s r u code) := by
  unfold takeBreak
  extract_lets +onlyGivenNames t
  exact (raiseAt_touches ..).after (by decide) ((modGraph_touches ..).after (by decide) .rfl)

theorem endStep_touches (s e r u brk) : Touches [.engines, .graphs, .vtiles, .reports] s (endStep s e r u brk) := by
  unfold endStep
  extract_lets +onlyGivenNames s1
  have hs1 : Touches [.engines, .graphs, .vtiles, .reports] s s1 := by
    unfold s1
    exact (modVTile_touches ..).after (by decide) .rfl
  clear_value s1
  extract_lets +onlyGivenNames s2
  have hs2 : Touches [.engines, .graphs, .vtiles, .reports] s s2 := by
    unfold s2
    exact (modRun_touches ..).after (by decide) hs1
  clear_value s2
  split
  · exact (takeBreak_touches ..).after (by decide) hs2
  · exact hs2

theorem tryBarwait_touches (rd rs1 rs2 s) : onSome (Touches [.threads] s) (tryBarwait rd rs1 rs2 s) := by
  unfold tryBarwait
  split
  · exact (finish_touches ..).after (by decide) .rfl
  · extract_lets +onlyGivenNames b
    split
    · exact (finish_touches ..).after (by decide) .rfl
    · split
      · exact (finish_touches ..).after (by decide) .rfl
      · split
        · exact (finish_touches ..).after (by decide) ((modCur_touches ..).after (by decide) .rfl)
        · trivial

theorem readHbm_touches (s g n) : Touches [.bankModes] s ((readHbm s g n).2).2 := by
  unfold readHbm
  dsimp -zeta only
  refine .trans ?_ (.foldl (fun u a => ?_) _ _)
  · exact .rfl
  · exact (eccRead_touches ..).after (by decide) .rfl

theorem fetchRead_touches (s t va) : Touches [.bankModes] s (fetchRead s t va) := by
  unfold fetchRead
  split
  · exact (readHbm_touches ..).after (by decide) .rfl
  · exact .rfl

theorem fetchAhead_touches (s t va) : Touches [.threads, .bankModes] s (fetchAhead s t va) := by
  unfold fetchAhead
  split
  · exact (modThr_touches ..).after (by decide) ((fetchRead_touches ..).after (by decide) .rfl)
  · exact .rfl

theorem bitError_touches (s w l0 e) : Touches [.ecc, .eccL0] s (bitError s w l0 e) := by
  unfold bitError
  split
  · exact (setEcc_touches ..).after (by decide) .rfl
  · exact (setEcc_touches ..).after (by decide) .rfl
  · exact (setEcc_touches ..).after (by decide) .rfl
  · exact .rfl

theorem cacheError_touches (s t va) : Touches [.threads] s (cacheError s t va) := by
  unfold cacheError
  exact (modThr_touches ..).after (by decide) .rfl

theorem setPkg_touches (s k v) : Touches [.packages] s (setPkg s k v) := .put rfl

theorem modPkg_touches (s k f) : Touches [.packages] s (modPkg s k f) := by
  unfold modPkg
  exact (setPkg_touches ..).after (by decide) .rfl

theorem ackPages_touches (s b) : Touches [.bankModes] s (ackPages s b) := by
  unfold ackPages
  extract_lets +onlyGivenNames m
  split
  · exact (modMode_touches ..).after (by decide) .rfl
  · exact .rfl

theorem rowError_touches (s e vrow) : Touches [.threads, .engines, .allocWait, .graphs, .launches, .tiles,
    .chunkWrites, .retires, .chans, .islands, .partitions, .quotas, .wheels, .reports, .traces, .nextId] s
    (rowError s e vrow) := by
  unfold rowError
  split
  · exact .rfl
  · split
    · exact .rfl
    · split
      · exact .rfl
      · exact (opFault_touches ..).after (by decide) ((takeRow_touches ..).after (by decide) .rfl)

theorem tableError_touches (s at_ part lid) : Touches [.launches, .reports] s (tableError s at_ part lid) := by
  unfold tableError
  exact (raiseAt_touches ..).after (by decide) ((noteFault_touches ..).after (by decide) .rfl)

theorem codeError_touches (s a) : Touches [.threads, .engines, .allocWait, .graphs, .launches, .tiles, .chunkWrites,
    .retires, .chans, .islands, .badPages, .partitions, .quotas, .wheels, .reports, .traces, .nextId] s
    (codeError s a) := by
  unfold codeError
  split
  · split
    · exact (modEng_touches ..).after (by decide) .rfl
    · exact .rfl
  · exact (rowError_touches ..).after (by decide) .rfl
  · extract_lets +onlyGivenNames c
    split
    · split
      · exact (tableError_touches ..).after (by decide) .rfl
      · exact .rfl
    · exact .rfl
  · extract_lets +onlyGivenNames t
    split
    · exact .rfl
    · exact (tableError_touches ..).after (by decide) .rfl
  · extract_lets +onlyGivenNames c
    split
    · exact .rfl
    · exact (tableError_touches ..).after (by decide) .rfl
  · split
    · exact (tableError_touches ..).after (by decide) .rfl
    · exact .rfl
  · exact .put rfl

theorem boardAsk_touches (s pkg op args) : Touches [.packages] s (boardAsk s pkg op args) := by
  unfold boardAsk
  extract_lets +onlyGivenNames c answer
  split
  · exact .rfl
  · split
    · unfold answer
      exact (modPkg_touches ..).after (by decide) .rfl
    · split
      · unfold answer
        exact (modPkg_touches ..).after (by decide) .rfl
      · unfold answer
        exact (modPkg_touches ..).after (by decide) .rfl
      · split
        · unfold answer
          exact (modPkg_touches ..).after (by decide) .rfl
        · unfold answer
          exact (modPkg_touches ..).after (by decide) .rfl
      · exact .rfl

theorem worldTurn_touches (s a) : Touches [.threads, .engines, .allocWait, .graphs, .launches, .tiles, .chunkWrites,
    .retires, .chans, .hostMem, .ecc, .eccL0, .bankModes, .islands, .cables, .badPages, .partitions, .quotas, .wheels,
    .reports, .traces, .packages, .nextId] s (worldTurn s a) := by
  unfold worldTurn
  split
  · exact (fetchAhead_touches ..).after (by decide) .rfl
  · exact (bitError_touches ..).after (by decide) .rfl
  · exact .put rfl
  · exact (modEng_touches ..).after (by decide) .rfl
  · exact (modEng_touches ..).after (by decide) .rfl
  · exact (cacheError_touches ..).after (by decide) .rfl
  · exact (modPkg_touches ..).after (by decide) .rfl
  · exact .put rfl
  · exact (ackPages_touches ..).after (by decide) .rfl
  · exact (codeError_touches ..).after (by decide) .rfl
  · exact (boardAsk_touches ..).after (by decide) .rfl
  · exact .rfl
  · exact .rfl

theorem countImage_touches (s id t i n) : Touches [.bankModes] s (countImage s id t i n) := by
  unfold countImage
  exact (countWords_touches ..).after (by decide) .rfl

theorem countBurst_touches (s id c) : Touches [.bankModes] s (countBurst s id c) := by
  unfold countBurst
  extract_lets +onlyGivenNames t s1
  have hs1 : Touches [.bankModes] s s1 := by
    unfold s1
    exact (countImage_touches ..).after (by decide) .rfl
  clear_value s1
  split
  · exact (countWords_touches ..).after (by decide) hs1
  · exact hs1

theorem clearData_touches (s e c) : Touches [.engines] s (clearData s e c) := by
  unfold clearData
  exact (modEng_touches ..).after (by decide) .rfl

theorem modXfer_touches (s x f) : Touches [.xfers] s (modXfer s x f) := .put rfl

theorem haltStore_touches (s x why) : Touches [.xfers] s (haltStore s x why) := by
  unfold haltStore
  exact (modXfer_touches ..).after (by decide) .rfl

theorem issueAll_touches (s e rs) : Touches [.reqs, .packets, .straits, .exits, .nextId] s (issueAll s e rs) := by
  unfold issueAll
  refine .trans ?_ (.foldl (fun u a => ?_) _ _)
  · exact .rfl
  · split
    · next x i s1 h =>
        exact (issueReq_touches ..).after (by decide) ((Touches.of_snd h (fresh_touches ..)).after (by decide) .rfl)

theorem readStore_touches (s r x c) : Touches [.engines, .retires, .bankModes, .reqs, .ranges, .xfers, .packets,
    .straits, .exits, .nextId] s (readStore s r x c) := by
  unfold readStore
  extract_lets +onlyGivenNames t b0 b s1
  have hs1 : Touches [.engines, .retires, .bankModes, .reqs, .ranges, .xfers, .packets, .straits, .exits,
    .nextId] s s1 := by
    unfold s1
    exact (countBurst_touches ..).after (by decide) ((clearData_touches ..).after (by decide) .rfl)
  extract_lets +onlyGivenNames y want bs st s2
  have hs2 : Touches [.engines, .retires, .bankModes, .reqs, .ranges, .xfers, .packets, .straits, .exits,
    .nextId] s s2 := by
    unfold s2
    exact (issueAll_touches ..).after (by decide) ((modXfer_touches ..).after (by decide) hs1)
  clear_value s2
  split
  · exact (haltStore_touches ..).after (by decide) hs1
  · split
    · exact (haltStore_touches ..).after (by decide) hs1
    · split
      · exact (haltStore_touches ..).after (by decide) hs1
      · split
        · exact (storeRead_touches ..).after (by decide) hs2
        · exact hs2

theorem drawRoot_touches (pkg s m) : onSome (Touches [.graphs, .launches] s) (drawRoot pkg s m) := by
  unfold drawRoot
  refine onSome.map fun a h => ?_
  refine (holdLive_touches ..).after (by decide) ?_
  refine (modLaunch_touches ..).after (by decide) ?_
  have k := Touches.carry h (drawColour_touches ..)
  exact Touches.after k (by decide) .rfl

theorem setMemTile_touches (s k v) : Touches [.memTiles] s (setMemTile s k v) := .put rfl

theorem modMemTile_touches (s k f) : Touches [.memTiles] s (modMemTile s k f) := by
  unfold modMemTile
  exact (setMemTile_touches ..).after (by decide) .rfl

theorem beginChunk_touches (s id c port lid by_ tag data scale) : Touches [.tiles, .chunkWrites, .memTiles, .nextId] s
    (beginChunk s id c port lid by_ tag data scale) := by
  unfold beginChunk
  extract_lets +onlyGivenNames t
  split
  · next x i s1 h =>
      extract_lets +onlyGivenNames s2
      have hs2 : Touches [.tiles, .chunkWrites, .memTiles, .nextId] s s2 := by
        unfold s2
        split
        · exact (modTile_touches ..).after (by decide) ((Touches.of_snd h (fresh_touches ..)).after (by decide) .rfl)
        · exact (Touches.of_snd h (fresh_touches ..)).after (by decide) .rfl
      clear_value s2
      extract_lets +onlyGivenNames req rs s3
      have hs3 : Touches [.tiles, .chunkWrites, .memTiles, .nextId] s s3 := by
        unfold s3
        exact hs2.trans (.put rfl)
      clear_value s3
      split
      · exact hs2.trans (.put rfl)
      · exact (modMemTile_touches ..).after (by decide) hs3

theorem beginImage_touches (s id port lid by_ tag img scale) : Touches [.tiles, .chunkWrites, .memTiles, .nextId] s
    (beginImage s id port lid by_ tag img scale) := by
  unfold beginImage
  refine .trans ?_ (.foldl (fun u a => ?_) _ _)
  · exact .rfl
  · exact (beginChunk_touches ..).after (by decide) .rfl

theorem modXUnit_touches (s id f) : Touches [.xunits] s (modXUnit s id f) := .put rfl

theorem reduceMember_touches (cs s u) : Touches [.threads, .engines, .allocWait, .launches, .tiles, .chunkWrites,
    .retires, .memTiles, .chans, .xunits, .partitions, .quotas, .reports, .traces, .nextId] s
    (reduceMember cs s u) := by
  unfold reduceMember
  split
  · split
    · split
      · exact (opFault_touches ..).after (by decide) ((freeDests_touches ..).after (by decide)
          ((dropXUnit_touches ..).after (by decide) .rfl))
      · extract_lets +onlyGivenNames o s1
        have hs1 : Touches [.threads, .engines, .allocWait, .launches, .tiles, .chunkWrites, .retires, .memTiles,
          .chans, .xunits, .partitions, .quotas, .reports, .traces, .nextId] s s1 := by
          unfold s1
          exact (beginImage_touches ..).after (by decide) ((setFlags_touches ..).after (by decide) .rfl)
        clear_value s1
        exact (modXUnit_touches ..).after (by decide) hs1
    · exact (opFault_touches ..).after (by decide) ((freeDests_touches ..).after (by decide)
        ((dropXUnit_touches ..).after (by decide) .rfl))
  · exact .rfl

theorem restoreUnits_touches (d old new n s) : Touches [.hbm, .l0, .ecc, .eccL0, .bankModes] s
    (restoreUnits d old new n s) := by
  unfold restoreUnits
  refine .trans ?_ (.foldl (fun u a => ?_) _ _)
  · exact .rfl
  · extract_lets +onlyGivenNames s1
    have hs1 : Touches [.hbm, .l0, .ecc, .eccL0, .bankModes] u s1 := by
      unfold s1
      exact (writeUnit_touches ..).after (by decide) .rfl
    clear_value s1
    refine .trans ?_ (.foldl (fun u a => ?_) _ _)
    · exact hs1
    · split
      · exact (setEcc_touches ..).after (by decide) .rfl
      · exact .rfl

theorem restoreTile_touches (m d s x) : onSome (Touches [.tiles, .hbm, .l0, .ecc, .eccL0, .bankModes, .quotas] s)
    (restoreTile m d s x) := by
  unfold restoreTile
  extract_lets +onlyGivenNames id t
  split
  · exact .rfl
  · split
    · exact (setTile_touches ..).after (by decide) .rfl
    · split
      · trivial
      · extract_lets +onlyGivenNames t' s1
        have hs1 : Touches [.tiles, .hbm, .l0, .ecc, .eccL0, .bankModes, .quotas] s s1 := by
          unfold s1
          exact (charge_touches ..).after (by decide) ((setTile_touches ..).after (by decide) .rfl)
        clear_value s1
        exact (restoreUnits_touches ..).after (by decide) hs1

theorem restoreTiles_touches (m d a a1) : onSome (Touches [.tiles, .hbm, .l0, .ecc, .eccL0, .bankModes, .quotas] a1)
    (restoreTiles m d a a1) := by
  fun_induction restoreTiles m d a a1 with
  | case1 s => exact .rfl
  | case2 x xs s h => trivial
  | case3 x xs s s' h ih =>
    refine onSome.imp (fun _ k => .trans ?_ k) ih
    have k1 := Touches.carry h (restoreTile_touches ..)
    exact Touches.after k1 (by decide) .rfl

theorem restoreLines_touches (m d s) : Touches [.hbm, .l0, .ecc, .eccL0, .bankModes] s (restoreLines m d s) := by
  unfold restoreLines
  refine .trans ?_ (.foldl (fun u a => ?_) _ _)
  · exact .rfl
  · split
    · exact .rfl
    · exact (restoreUnits_touches ..).after (by decide) .rfl

theorem endsTo_touches (m lids s) : Touches [.chans, .groups] s (endsTo m lids s) := .put rfl

theorem restoreSlots_touches (m d s) : Touches [.engines] s (restoreSlots m d s) := by
  unfold restoreSlots
  extract_lets +onlyGivenNames s1
  have hs1 : Touches [.engines] s s1 := by
    unfold s1
    refine .trans ?_ (.foldl (fun u a => ?_) _ _)
    · exact .rfl
    · exact (modEng_touches ..).after (by decide) .rfl
  clear_value s1
  refine .trans ?_ (.foldl (fun u a => ?_) _ _)
  · exact hs1
  · exact (modEng_touches ..).after (by decide) .rfl

theorem addTimer_touches (s pkg die due handle w) : Touches [.wheels, .nextId] s (addTimer s pkg die due handle w) := by
  unfold addTimer
  split
  · next x i s1 h =>
      exact (modWheel_touches ..).after (by decide) ((Touches.of_snd h (fresh_touches ..)).after (by decide) .rfl)

theorem restoreRest_touches (m d s) : Touches [.engines, .allocWait, .launches, .sources, .vtiles, .islands, .xunits,
    .wheels, .nextId] s (restoreRest m d s) := by
  unfold restoreRest
  extract_lets +onlyGivenNames els x
  have hx : Touches [.engines, .allocWait, .launches, .sources, .vtiles, .islands, .xunits, .wheels, .nextId] s x := by
    unfold x
    exact (restoreSlots_touches ..).after (by decide) .rfl
  clear_value x
  extract_lets +onlyGivenNames s1
  have hs1 : Touches [.engines, .allocWait, .launches, .sources, .vtiles, .islands, .xunits, .wheels,
    .nextId] s s1 := by
    unfold s1
    exact hx.trans (.put rfl)
  clear_value s1
  extract_lets +onlyGivenNames s2
  have hs2 : Touches [.engines, .allocWait, .launches, .sources, .vtiles, .islands, .xunits, .wheels,
    .nextId] s s2 := by
    unfold s2
    refine .trans ?_ (.foldl (fun u a => ?_) _ _)
    · exact hs1
    · split
      · next x1 i s3 h =>
          extract_lets +onlyGivenNames r
          exact Touches.trans (t := s3) ((Touches.of_snd h (fresh_touches ..)).after (by decide) .rfl) (.put rfl)
  clear_value s2
  extract_lets +onlyGivenNames s3
  have hs3 : Touches [.engines, .allocWait, .launches, .sources, .vtiles, .islands, .xunits, .wheels,
    .nextId] s s3 := by
    unfold s3
    refine .trans ?_ (.foldl (fun u a => ?_) _ _)
    · exact hs2
    · exact (setLaunch_touches ..).after (by decide) .rfl
  clear_value s3
  refine .trans ?_ (.foldl (fun u a => ?_) _ _)
  · exact hs3
  · extract_lets +onlyGivenNames die
    exact (addTimer_touches ..).after (by decide) .rfl

theorem restoreBlock_touches (e s q) : onSome (Touches [.engines, .partitions, .quotas] s) (restoreBlock e s q) := by
  unfold restoreBlock
  extract_lets +onlyGivenNames t x p s1
  have hs1 : Touches [.engines, .partitions, .quotas] s s1 := by
    unfold s1
    exact (modPool_touches ..).after (by decide) ((charge_touches ..).after (by decide) .rfl)
  clear_value s1
  split
  · exact (setEng_touches ..).after (by decide) .rfl
  · split
    · trivial
    · exact (modEng_touches ..).after (by decide) hs1

theorem restoreBlocks_touches (e a a1) : onSome (Touches [.engines, .partitions, .quotas] a1)
    (restoreBlocks e a a1) := by
  fun_induction restoreBlocks e a a1 with
  | case1 s => exact .rfl
  | case2 q qs s h => trivial
  | case3 q qs s s' h ih =>
    refine onSome.imp (fun _ k => .trans ?_ k) ih
    have k1 := Touches.carry h (restoreBlock_touches ..)
    exact Touches.after k1 (by decide) .rfl

theorem restoreEngs_touches (m a a1) : onSome (Touches [.engines, .partitions, .quotas] a1) (restoreEngs m a a1) := by
  fun_induction restoreEngs m a a1 with
  | case1 s => exact .rfl
  | case2 x xs s e a b h => trivial
  | case3 x xs s e a b h h1 => trivial
  | case4 x xs s e a b h s' h1 ih =>
    refine onSome.imp (fun _ k => .trans ?_ k) ih
    have k1 := Touches.carry h1 (restoreBlocks_touches ..)
    exact Touches.after k1 (by decide) ((setEng_touches ..).after (by decide) .rfl)

theorem sweepInst_touches (s pkg graph rec row) : Touches [.threads, .engines, .updates, .allocWait, .graphs,
    .launches, .tiles, .chunkWrites, .retires, .chans, .islands, .partitions, .quotas, .wheels, .reports, .traces,
    .nextId] s (sweepInst s pkg graph rec row) := by
  unfold sweepInst
  exact (sweep_touches ..).after (by decide) .rfl

theorem dropEntries_touches (s key g cols) : Touches [.engines] s (dropEntries s key g cols) := by
  unfold dropEntries
  refine .trans ?_ (.foldl (fun u a => ?_) _ _)
  · exact .rfl
  · exact (modEng_touches ..).after (by decide) .rfl

theorem rootReturned_touches (s k) : Touches [.launches] s (rootReturned s k) := .put rfl

theorem settle_touches (a a1 a2) : Touches [.graphs, .launches, .reports, .traces] a1 (settle a a1 a2) := by
  fun_induction settle a a1 a2 with
  | case1 s x => exact .rfl
  | case2 n s k c h home part s1 s2 s3 s4 h1 h2 ih =>
    refine .trans ?_ ih
    refine (modCol_touches ..).after (by decide) ?_
    unfold s4
    split
    · refine (rootReturned_touches ..).after (by decide) ?_
      unfold s3
      refine (modRegion_touches ..).after (by decide) ?_
      unfold s2
      split
      · refine (stageTrace_touches ..).after (by decide) ?_
        unfold s1
        split
        · exact .rfl
        · exact (raiseAt_touches ..).after (by decide) .rfl
      · unfold s1
        split
        · exact .rfl
        · exact (raiseAt_touches ..).after (by decide) .rfl
    · unfold s3
      refine (modRegion_touches ..).after (by decide) ?_
      unfold s2
      split
      · refine (stageTrace_touches ..).after (by decide) ?_
        unfold s1
        split
        · exact .rfl
        · exact (raiseAt_touches ..).after (by decide) .rfl
      · unfold s1
        split
        · exact .rfl
        · exact (raiseAt_touches ..).after (by decide) .rfl
  | case3 n s k c h home part s1 s2 s3 s4 h1 =>
    unfold s4
    split
    · refine (rootReturned_touches ..).after (by decide) ?_
      unfold s3
      refine (modRegion_touches ..).after (by decide) ?_
      unfold s2
      split
      · refine (stageTrace_touches ..).after (by decide) ?_
        unfold s1
        split
        · exact .rfl
        · exact (raiseAt_touches ..).after (by decide) .rfl
      · unfold s1
        split
        · exact .rfl
        · exact (raiseAt_touches ..).after (by decide) .rfl
    · unfold s3
      refine (modRegion_touches ..).after (by decide) ?_
      unfold s2
      split
      · refine (stageTrace_touches ..).after (by decide) ?_
        unfold s1
        split
        · exact .rfl
        · exact (raiseAt_touches ..).after (by decide) .rfl
      · unfold s1
        split
        · exact .rfl
        · exact (raiseAt_touches ..).after (by decide) .rfl
  | case4 n s k c h => exact .rfl

theorem dropLive_touches (s k) : Touches [.graphs, .launches, .reports, .traces] s (dropLive s k) := by
  unfold dropLive
  exact (settle_touches ..).after (by decide) ((modCol_touches ..).after (by decide) .rfl)

theorem zeroCol_touches (s k) : Touches [.graphs, .launches] s (zeroCol s k) := by
  unfold zeroCol
  extract_lets +onlyGivenNames s1
  have hs1 : Touches [.graphs, .launches] s s1 := by
    unfold s1
    exact (modRegion_touches ..).after (by decide) .rfl
  clear_value s1
  split
  · exact (rootReturned_touches ..).after (by decide) hs1
  · exact hs1

theorem purgeCols_touches (s key g ks lid) : Touches [.threads, .engines, .updates, .allocWait, .graphs, .launches,
    .tiles, .chunkWrites, .retires, .chans, .islands, .partitions, .quotas, .wheels, .reports, .traces, .nextId] s
    (purgeCols s key g ks lid).1 := by
  unfold purgeCols
  extract_lets +onlyGivenNames cols r s1
  have hs1 : Touches [.threads, .engines, .updates, .allocWait, .graphs, .launches, .tiles, .chunkWrites, .retires,
    .chans, .islands, .partitions, .quotas, .wheels, .reports, .traces, .nextId] s s1 := by
    unfold s1
    refine (dropInsts_touches ..).after (by decide) ?_
    unfold r
    exact (sweep_touches ..).after (by decide) .rfl
  clear_value s1
  extract_lets +onlyGivenNames s2
  have hs2 : Touches [.threads, .engines, .updates, .allocWait, .graphs, .launches, .tiles, .chunkWrites, .retires,
    .chans, .islands, .partitions, .quotas, .wheels, .reports, .traces, .nextId] s s2 := by
    unfold s2
    exact (dropEntries_touches ..).after (by decide) hs1
  clear_value s2
  extract_lets +onlyGivenNames s3
  have hs3 : Touches [.threads, .engines, .updates, .allocWait, .graphs, .launches, .tiles, .chunkWrites, .retires,
    .chans, .islands, .partitions, .quotas, .wheels, .reports, .traces, .nextId] s s3 := by
    unfold s3
    exact hs2.trans (.put rfl)
  clear_value s3
  extract_lets +onlyGivenNames holds
  dsimp -zeta only
  refine .trans ?_ (.foldl (fun u a => ?_) _ _)
  · refine .trans ?_ (.foldl (fun u a => ?_) _ _)
    · exact hs3
    · exact (zeroCol_touches ..).after (by decide) .rfl
  · exact (dropLive_touches ..).after (by decide) .rfl

theorem finishCopy_touches (s j) : Touches [.inFlight, .updates, .graphs, .launches, .tiles, .retires, .ranges,
    .copies] s (finishCopy s j) := by
  unfold finishCopy
  split
  · exact (dropCopy_touches ..).after (by decide) .rfl
  · split
    · exact (dropCopy_touches ..).after (by decide) .rfl
    · extract_lets +onlyGivenNames t tile done
      split
      · exact .rfl
      · exact (consumeToks_touches ..).after (by decide) ((emitToks_touches ..).after (by decide)
          ((dropCopy_touches ..).after (by decide) .rfl))

theorem raiseTok_touches (s t at_ cause tval held) : Touches [.reports] s (raiseTok s t at_ cause tval held) := by
  unfold raiseTok
  exact (raiseAt_touches ..).after (by decide) .rfl

theorem landChunk_touches (p id s b) : Touches [.tiles, .chunkWrites, .memTiles, .reports, .nextId] s
    (landChunk p id s b) := by
  unfold landChunk
  extract_lets +onlyGivenNames t n
  split
  · exact (raiseTok_touches ..).after (by decide) .rfl
  · exact (beginChunk_touches ..).after (by decide) .rfl

theorem dropInbox_touches (s n) : Touches [.inbox] s (dropInbox s n) := .put rfl

theorem spendStore_touches (s x) : Touches [.engines] s (spendStore s x) := by
  unfold spendStore
  exact (modEng_touches ..).after (by decide) .rfl

theorem endEpisode_touches (s pkg lid) : Touches [.launches] s (endEpisode s pkg lid) := by
  unfold endEpisode
  refine .trans ?_ (.foldl (fun u a => ?_) _ _)
  · exact .rfl
  · exact (modLaunch_touches ..).after (by decide) .rfl

theorem setBar_touches (s k v) : Touches [.bars] s (setBar s k v) := .put rfl

theorem modBar_touches (s k f) : Touches [.bars] s (modBar s k f) := by
  unfold modBar
  exact (setBar_touches ..).after (by decide) .rfl

theorem copyBar_touches (s j dst n) : Touches [.bars] s (copyBar s j dst n) := by
  unfold copyBar
  split
  · exact .rfl
  · extract_lets +onlyGivenNames pkg
    exact (modBar_touches ..).after (by decide) .rfl

theorem failMember_touches (pkg code s m) : Touches [.launches, .reports] s (failMember pkg code s m) := by
  unfold failMember
  extract_lets +onlyGivenNames st l dest s1
  have hs1 : Touches [.launches, .reports] s s1 := by
    unfold s1
    exact (setLaunch_touches ..).after (by decide) .rfl
  clear_value s1
  exact (raise_touches ..).after (by decide) hs1

theorem leaveWindow_touches (s pkg q ms) : Touches [.launchQs] s (leaveWindow s pkg q ms) := by
  unfold leaveWindow
  exact (modLaunchQ_touches ..).after (by decide) .rfl

theorem failGang_touches (s pkg q code ms) : Touches [.launches, .launchQs, .reports] s (failGang s pkg q code ms) := by
  unfold failGang
  refine .trans ?_ (.foldl (fun u a => ?_) _ _)
  · exact (leaveWindow_touches ..).after (by decide) .rfl
  · exact (failMember_touches ..).after (by decide) .rfl

theorem attachReader_touches (s r k c lid) : onOk (Touches [.launches, .chans, .reports] s)
    (attachReader s r k c lid) := by
  unfold attachReader
  extract_lets +onlyGivenNames x d fmt s'
  have hs' : Touches [.launches, .chans, .reports] s s' := by
    unfold s'
    exact (setChan_touches ..).after (by decide) .rfl
  clear_value s'
  split
  · trivial
  · split
    · exact (raiseAt_touches ..).after (by decide) ((noteFault_touches ..).after (by decide) hs')
    · exact hs'

theorem attachWriter_touches (s k c lid) : onOk (Touches [.chans] s) (attachWriter s k c lid) := by
  unfold attachWriter
  extract_lets +onlyGivenNames x
  split
  · trivial
  · exact (setChan_touches ..).after (by decide) .rfl

theorem attachGroup_touches (s pkg g c lid) : onOk (Touches [.groups] s) (attachGroup s pkg g c lid) := by
  unfold attachGroup
  extract_lets +onlyGivenNames x
  split
  · trivial
  · split
    · trivial
    · exact (setGroup_touches ..).after (by decide) .rfl

theorem resolveOp_touches (s pkg part lid r) : onOk (Touches [.launches, .chans, .groups, .reports] s)
    (resolveOp s pkg part lid r) := by
  unfold resolveOp
  extract_lets +onlyGivenNames c named
  split
  · next x h => exact onOk.bind fun a h => (onOk.imp (fun _ k => k.after (by decide) .rfl) (attachReader_touches ..))
  · next x h => exact onOk.bind fun a h => (onOk.imp (fun _ k => k.after (by decide) .rfl) (attachWriter_touches ..))
  · refine onOk.foldl_bind (fun u a => ?_) _ _ _ ?_
    · split
      · trivial
      · next x1 k h1 => exact onOk.imp (fun _ k => k.after (by decide) .rfl) (attachWriter_touches ..)
    · exact .rfl
  · exact onOk.imp (fun _ k => k.after (by decide) .rfl) (attachGroup_touches ..)
  · exact .rfl

theorem resolveMember_touches (pkg s m) : onOk (Touches [.launches, .chans, .groups, .reports] s)
    (resolveMember pkg s m) := by
  unfold resolveMember
  split
  · trivial
  · refine onOk.foldl_bind (fun u a => ?_) _ _ _ ?_
    · split
      · exact onOk.imp (fun _ k => k.after (by decide) .rfl) (resolveOp_touches ..)
      · exact .rfl
    · exact .rfl

theorem setBreak_touches (s k v) : Touches [.breaks] s (setBreak s k v) := .put rfl

theorem fireMember_touches (pkg gang s m) : Touches [.updates, .launches, .breaks, .sources, .traces, .nextId] s
    (fireMember pkg gang s m) := by
  unfold fireMember
  split
  · extract_lets +onlyGivenNames src c tag s1
    have hs1 : Touches [.updates, .launches, .breaks, .sources, .traces, .nextId] s s1 := by
      unfold s1
      exact (setLaunch_touches ..).after (by decide) .rfl
    clear_value s1
    split
    · next x2 i s2 h2 =>
        extract_lets +onlyGivenNames s3
        have hs3 : Touches [.updates, .launches, .breaks, .sources, .traces, .nextId] s s3 := by
          unfold s3
          exact (setBreak_touches ..).after (by decide) ((Touches.of_snd h2 (fresh_touches ..)).after (by decide) hs1)
        clear_value s3
        extract_lets +onlyGivenNames s4
        have hs4 : Touches [.updates, .launches, .breaks, .sources, .traces, .nextId] s s4 := by
          unfold s4
          refine .trans ?_ (.foldl (fun u a => ?_) _ _)
          · exact hs3
          · exact .put rfl
        clear_value s4
        extract_lets +onlyGivenNames s5
        have hs5 : Touches [.updates, .launches, .breaks, .sources, .traces, .nextId] s s5 := by
          unfold s5
          exact (traceClass_touches ..).after (by decide) hs4
        clear_value s5
        split
        · exact (releaseUnit_touches ..).after (by decide) hs5
        · exact hs5
  · exact .rfl

theorem drawRoots_touches (pkg a a1) : onSome (Touches [.graphs, .launches] a1) (drawRoots pkg a a1) := by
  fun_induction drawRoots pkg a a1 with
  | case1 s => exact .rfl
  | case2 m ms s h => trivial
  | case3 m ms s s' h ih =>
    refine onSome.imp (fun _ k => .trans ?_ k) ih
    have k1 := Touches.carry h (drawRoot_touches ..)
    exact Touches.after k1 (by decide) .rfl

theorem reportMisroute_touches (s e p) : Touches [.reports] s (reportMisroute s e p) := by
  unfold reportMisroute
  exact (raise_touches ..).after (by decide) .rfl

theorem passOn_touches (s p) : Touches [.inFlight, .inbox, .reports] s (passOn s p) := by
  unfold passOn
  extract_lets +onlyGivenNames e p1
  split
  · exact .put rfl
  · split
    · exact (reportMisroute_touches ..).after (by decide) .rfl
    · split
      · exact (raise_touches ..).after (by decide) .rfl
      · exact .put rfl

theorem passInOrder_touches (a a1 a2) : Touches [.inFlight, .inbox, .reports] a1 (passInOrder a a1 a2).1 := by
  fun_induction passInOrder a a1 a2 with
  | case1 s t =>
    dsimp -zeta only
    exact .rfl
  | case2 f s t h =>
    dsimp -zeta only
    exact .rfl
  | case3 f s t p h ih => exact .trans ((passOn_touches ..).after (by decide) .rfl) ih

theorem logError_touches (s e x) : Touches [.engines] s (logError s e x) := by
  unfold logError
  extract_lets +onlyGivenNames g
  split
  · exact (setEng_touches ..).after (by decide) .rfl
  · exact (setEng_touches ..).after (by decide) .rfl

theorem logChunk_touches (s j m) : Touches [.engines] s (logChunk s j m) := by
  unfold logChunk
  refine .trans ?_ (.foldl (fun u a => ?_) _ _)
  · exact .rfl
  · exact (logError_touches ..).after (by decide) .rfl

theorem faultFire_touches (s f cause tval) : Touches [.engines, .allocWait, .launches, .tiles, .chans, .partitions,
    .quotas, .reports, .traces, .nextId] s (faultFire s f cause tval) := by
  unfold faultFire
  split
  · exact .rfl
  · exact (leaveFlow_touches ..).after (by decide) ((opFault_touches ..).after (by decide) .rfl)

theorem closeColour_touches (s k by_) : Touches [.graphs] s (closeColour s k by_) := by
  unfold closeColour
  extract_lets +onlyGivenNames w
  exact (modCol_touches ..).after (by decide) .rfl

theorem endRun_touches (s e r u out) : Touches [.engines, .inFlight, .updates, .graphs, .launches, .tiles, .retires] s
    (endRun s e r u out) := by
  unfold endRun
  split
  · exact .rfl
  · exact (consumeToks_touches ..).after (by decide) ((emitToks_touches ..).after (by decide)
      ((dropRun_touches ..).after (by decide) .rfl))

theorem emitTile_touches (s e r u mode) : Touches [.engines, .inFlight, .updates, .graphs, .launches, .tiles,
    .retires] s (emitTile s e r u mode) := by
  unfold emitTile
  split
  · split
    · exact .rfl
    · exact (endRun_touches ..).after (by decide) .rfl
  · exact (endRun_touches ..).after (by decide) .rfl

theorem takeStart_touches (s f) : Touches [.engines, .partitions, .quotas] s (takeStart s f) := by
  unfold takeStart
  extract_lets +onlyGivenNames e
  exact (clearRow_touches ..).after (by decide) ((modEng_touches ..).after (by decide) .rfl)

theorem startRun_touches (s f fault run) : Touches [.threads, .engines, .updates, .allocWait, .graphs, .launches,
    .tiles, .chunkWrites, .retires, .chans, .islands, .partitions, .quotas, .reports, .traces, .nextId] s
    (startRun s f fault run) := by
  unfold startRun
  extract_lets +onlyGivenNames e bad s1
  have hs1 : Touches [.threads, .engines, .updates, .allocWait, .graphs, .launches, .tiles, .chunkWrites, .retires,
    .chans, .islands, .partitions, .quotas, .reports, .traces, .nextId] s s1 := by
    unfold s1
    exact (takeStart_touches ..).after (by decide) .rfl
  clear_value s1
  extract_lets +onlyGivenNames stop
  have hstop : ∀ u0, Touches [.threads, .engines, .updates, .allocWait, .graphs, .launches, .tiles, .chunkWrites,
    .retires, .chans, .islands, .partitions, .quotas, .reports, .traces, .nextId] u0 (stop u0) := by
    intro u0
    unfold stop
    exact (releaseBank_touches ..).after (by decide) ((freeDests_touches ..).after (by decide) .rfl)
  extract_lets +onlyGivenNames s2
  have hs2 : Touches [.threads, .engines, .updates, .allocWait, .graphs, .launches, .tiles, .chunkWrites, .retires,
    .chans, .islands, .partitions, .quotas, .reports, .traces, .nextId] s s2 := by
    unfold s2
    exact (countFiring_touches ..).after (by decide) hs1
  clear_value s2
  extract_lets +onlyGivenNames u
  split
  · exact .rfl
  · split
    · exact (poisonConsumed_touches ..).after (by decide) (.trans hs1 (hstop ..))
    · split
      · exact (silentData_touches ..).after (by decide) (.trans hs1 (hstop ..))
      · exact (opFault_touches ..).after (by decide) (.trans hs1 (hstop ..))
      · exact (touch_touches ..).after (by decide) ((modEng_touches ..).after (by decide) hs2)

theorem faultRun_touches (s e r u cause tval) : Touches [.threads, .engines, .allocWait, .launches, .tiles,
    .chunkWrites, .retires, .chans, .islands, .partitions, .quotas, .reports, .traces, .nextId] s
    (faultRun s e r u cause tval) := by
  unfold faultRun
  split
  · exact .rfl
  · exact (opFault_touches ..).after (by decide) ((abortRun_touches ..).after (by decide) .rfl)

theorem writeOut_touches (s e r u id img scale flags extra) : Touches [.threads, .engines, .allocWait, .launches,
    .tiles, .chunkWrites, .retires, .memTiles, .chans, .islands, .partitions, .quotas, .reports, .traces, .nextId] s
    (writeOut s e r u id img scale flags extra) := by
  unfold writeOut
  extract_lets +onlyGivenNames t s1
  have hs1 : Touches [.threads, .engines, .allocWait, .launches, .tiles, .chunkWrites, .retires, .memTiles, .chans,
    .islands, .partitions, .quotas, .reports, .traces, .nextId] s s1 := by
    unfold s1
    exact (beginImage_touches ..).after (by decide) .rfl
  clear_value s1
  split
  · exact (faultRun_touches ..).after (by decide) .rfl
  · exact (modRun_touches ..).after (by decide) ((setFlags_touches ..).after (by decide) hs1)

theorem touchTwset_touches (s pkg d) : Touches [.launches] s (touchTwset s pkg d) := by
  unfold touchTwset
  split
  · exact (touch_touches ..).after (by decide) .rfl
  · exact .rfl

theorem enterTwset_touches (s rd due d) : Touches [.threads, .launches, .wheels, .nextId] s
    (enterTwset s rd due d) := by
  unfold enterTwset
  extract_lets +onlyGivenNames lv
  split
  · exact (finish_touches ..).after (by decide) .rfl
  · split
    · exact (finish_touches ..).after (by decide) .rfl
    · extract_lets +onlyGivenNames s1
      have hs1 : Touches [.threads, .launches, .wheels, .nextId] s s1 := by
        unfold s1
        exact (modWheel_touches ..).after (by decide) .rfl
      clear_value s1
      split
      · exact (finish_touches ..).after (by decide) ((modCur_touches ..).after (by decide) hs1)
      · exact (finish_touches ..).after (by decide) ((addTimer_touches ..).after (by decide)
          ((touchTwset_touches ..).after (by decide) hs1))

theorem readPieces_touches (s a) : Touches [.bankModes] s ((readPieces s a).2).2 := by
  fun_induction readPieces s a with
  | case1 s =>
    dsimp -zeta only
    exact .rfl
  | case2 s g n ps r q ih =>
    dsimp -zeta only
    unfold q
    refine .trans ?_ ih
    unfold r
    exact (readHbm_touches ..).after (by decide) .rfl
  | case3 s a n ps q ih =>
    dsimp -zeta only
    unfold q
    exact .trans .rfl ih
  | case4 s f snd ps ih => exact .trans .rfl ih

theorem dropPkt_touches (s n) : Touches [.packets] s (dropPkt s n) := .put rfl

theorem misroute_touches (s n p) : Touches [.packets, .reports] s (misroute s n p) := by
  unfold misroute
  exact (reportMisroute_touches ..).after (by decide) ((dropPkt_touches ..).after (by decide) .rfl)

theorem issueStore_touches (src rs1 imm size s) : Touches [.threads, .reqs, .walks, .packets, .straits, .exits,
    .traces, .nextId] s (issueStore src rs1 imm size s) := by
  unfold issueStore
  extract_lets +onlyGivenNames th va
  split
  · exact (accessTrap_touches ..).after (by decide) .rfl
  · split
    · exact (watchTrap_touches ..).after (by decide) .rfl
    · split
      · exact .rfl
      · split
        · next x1 i s1 h3 =>
            extract_lets +onlyGivenNames st s2
            have hs2 : Touches [.threads, .reqs, .walks, .packets, .straits, .exits, .traces, .nextId] s s2 := by
              unfold s2
              exact (modCur_touches ..).after (by decide) ((Touches.of_snd h3 (fresh_touches ..)).after
                (by decide) .rfl)
            clear_value s2
            exact (issueReq_touches ..).after (by decide) hs2

theorem loadDone_touches (s r x) : Touches [.inFlight, .updates, .graphs, .tiles, .xfers] s (loadDone s r x) := by
  unfold loadDone
  extract_lets +onlyGivenNames x1 done
  split
  · exact .rfl
  · exact (emitToks_touches ..).after (by decide) ((modXfer_touches ..).after (by decide) .rfl)

theorem setEvent_touches (s t) : Touches [.threads] s (setEvent s t) := by
  unfold setEvent
  exact (modThr_touches ..).after (by decide) .rfl

theorem issueAmo_touches (op rd rs1 rs2 ord s) : Touches [.threads, .reqs, .walks, .packets, .straits, .exits, .traces,
    .nextId] s (issueAmo op rd rs1 rs2 ord s) := by
  unfold issueAmo
  extract_lets +onlyGivenNames th va
  split
  · exact (accessTrap_touches ..).after (by decide) .rfl
  · split
    · exact (watchTrap_touches ..).after (by decide) .rfl
    · split
      · exact .rfl
      · split
        · next x1 i s1 h3 =>
            extract_lets +onlyGivenNames ld st s2
            have hs2 : Touches [.threads, .reqs, .walks, .packets, .straits, .exits, .traces, .nextId] s s2 := by
              unfold s2
              exact (modCur_touches ..).after (by decide) ((Touches.of_snd h3 (fresh_touches ..)).after
                (by decide) .rfl)
            clear_value s2
            exact (issueReq_touches ..).after (by decide) hs2

theorem writeRecBytes_touches (s k r o bs) : Touches [.hbm, .l0, .ecc, .eccL0, .bankModes] s
    (writeRecBytes s k r o bs) := by
  unfold writeRecBytes
  extract_lets +onlyGivenNames c p
  refine .trans ?_ (.foldl (fun u a => ?_) _ _)
  · exact .rfl
  · exact (writeUnit_touches ..).after (by decide) .rfl

theorem landPart_touches (s k ordinal chunk bs) : Touches [.chans, .hbm, .l0, .ecc, .eccL0, .bankModes] s
    (landPart s k ordinal chunk bs) := by
  unfold landPart
  split
  · exact .rfl
  · exact (modChan_touches ..).after (by decide) ((writeRecBytes_touches ..).after (by decide) .rfl)

theorem landRec_touches (s k ordinal bs) : Touches [.chans, .hbm, .l0, .ecc, .eccL0, .bankModes] s
    (landRec s k ordinal bs) := by
  unfold landRec
  refine .trans ?_ (.foldl (fun u a => ?_) _ _)
  · exact .rfl
  · exact (landPart_touches ..).after (by decide) .rfl

theorem reserveRec_touches (s k seg pos residue poison lid) : Touches [.chans] s
    (reserveRec s k seg pos residue poison lid) := by
  unfold reserveRec
  exact (modChan_touches ..).after (by decide) .rfl

theorem putRec_touches (s k bs) : PutRec.All (Touches [.chans, .hbm, .l0, .ecc, .eccL0, .bankModes, .partitions,
    .quotas, .traces] s) (putRec s k bs) := by
  unfold putRec
  split
  · trivial
  · trivial
  · next x seg pos s' h =>
      extract_lets +onlyGivenNames ord
      split
      · trivial
      · change Touches _ _ _
        refine (landRec_touches ..).after (by decide) ?_
        refine (reserveRec_touches ..).after (by decide) ?_
        have k1 := Touches.carry h (writePlace_touches ..)
        exact Touches.after k1 (by decide) .rfl

theorem quotaTrap_touches (s k agid n) : Touches [.threads, .quotas, .traces] s (quotaTrap s k agid n) := by
  unfold quotaTrap
  exact (trapCur_touches ..).after (by decide) ((breach_touches ..).after (by decide) .rfl)

theorem tryChwr_touches (rd rs1 rs2 s) : onSome (Touches [.threads, .chans, .hbm, .l0, .ecc, .eccL0, .bankModes,
    .walks, .partitions, .quotas, .traces] s) (tryChwr rd rs1 rs2 s) := by
  unfold tryChwr
  split
  · exact (finish_touches ..).after (by decide) .rfl
  · split
    · exact (opTrap_touches ..).after (by decide) .rfl
    · extract_lets +onlyGivenNames b
      split
      · trivial
      · split
        · change Touches _ _ _
          refine (finish_touches ..).after (by decide) ?_
          unfold b
          exact (readPieces_touches ..).after (by decide) .rfl
        · split
          · split
            · change Touches _ _ _
              refine (finish_touches ..).after (by decide) ?_
              unfold b
              exact (readPieces_touches ..).after (by decide) .rfl
            · change Touches _ _ _
              refine (finish_touches ..).after (by decide) ?_
              refine (modCur_touches ..).after (by decide) ?_
              unfold b
              exact (readPieces_touches ..).after (by decide) .rfl
          · split
            · trivial
            · exact (quotaTrap_touches ..).after (by decide) .rfl
            · next x2 s1 h5 =>
                change Touches _ _ _
                refine (finish_touches ..).after (by decide) ?_
                have k1 := Touches.carry h5 (putRec_touches ..)
                refine Touches.after k1 (by decide) ?_
                unfold b
                exact (readPieces_touches ..).after (by decide) .rfl

theorem tokGate_touches (s t who) : onSome (Touches [.watchHolds, .reports, .nextId] s) (tokGate s t who) := by
  unfold tokGate
  exact onSome.findSome (fun a => (onSome.imp (fun _ k => k.after (by decide) .rfl) (chunkGate_touches ..))) _

theorem readTileTok_touches (s t who) : TileIn.All (Touches [.watchHolds, .reports, .nextId] s)
    (readTileTok s t who) := by
  unfold readTileTok
  split
  · trivial
  · split
    · next x v h1 =>
        change Touches _ _ _
        have k := Touches.carry h1 (tokGate_touches ..)
        exact Touches.after k (by decide) .rfl
    · extract_lets +onlyGivenNames bs
      split
      · trivial
      · split
        · trivial
        · split
          · trivial
          · trivial

theorem flrKill_touches (s pkg p) : Touches [.threads, .engines, .inFlight, .updates, .allocWait, .graphs, .launches,
    .launchQs, .sources, .tiles, .chunkWrites, .retires, .chans, .reqs, .watchHolds, .walks, .ranges, .xfers, .copies,
    .islands, .groups, .xunits, .streams, .lanes, .inbox, .partitions, .quotas, .wheels, .reports, .qmReports, .traces,
    .nextId] s (flrKill s pkg p) := by
  unfold flrKill
  extract_lets +onlyGivenNames ls s1
  have hs1 : Touches [.threads, .engines, .inFlight, .updates, .allocWait, .graphs, .launches, .launchQs, .sources,
    .tiles, .chunkWrites, .retires, .chans, .reqs, .watchHolds, .walks, .ranges, .xfers, .copies, .islands, .groups,
    .xunits, .streams, .lanes, .inbox, .partitions, .quotas, .wheels, .reports, .qmReports, .traces, .nextId] s s1 := by
    unfold s1
    refine .trans ?_ (.foldl (fun u a => ?_) _ _)
    · exact .rfl
    · split
      · exact .rfl
      · exact (beginKill_touches ..).after (by decide) .rfl
  clear_value s1
  extract_lets +onlyGivenNames held s2
  have hs2 : Touches [.threads, .engines, .inFlight, .updates, .allocWait, .graphs, .launches, .launchQs, .sources,
    .tiles, .chunkWrites, .retires, .chans, .reqs, .watchHolds, .walks, .ranges, .xfers, .copies, .islands, .groups,
    .xunits, .streams, .lanes, .inbox, .partitions, .quotas, .wheels, .reports, .qmReports, .traces, .nextId] s s2 := by
    unfold s2
    refine .trans ?_ (.foldl (fun u a => ?_) _ _)
    · exact hs1
    · exact (dropCopy_touches ..).after (by decide) .rfl
  clear_value s2
  extract_lets +onlyGivenNames gone ids
  exact hs2.trans (.put rfl)

theorem reduceAt_touches (g tag s pkg) : Touches [.threads, .engines, .allocWait, .launches, .tiles, .chunkWrites,
    .retires, .memTiles, .chans, .groups, .xunits, .partitions, .quotas, .reports, .traces, .nextId] s
    (reduceAt g tag s pkg) := by
  unfold reduceAt
  split
  · exact .rfl
  · extract_lets +onlyGivenNames us
    split
    · exact .rfl
    · refine .trans ?_ (.foldl (fun u a => ?_) _ _)
      · exact (modGroup_touches ..).after (by decide) .rfl
      · exact (reduceMember_touches ..).after (by decide) .rfl

theorem resend_touches (s e id) : Touches [.packets, .straits, .packages] s (resend s e id) := by
  unfold resend
  extract_lets +onlyGivenNames st
  split
  · exact .rfl
  · extract_lets +onlyGivenNames pn x1 x2 p worn q s1
    have hs1 : Touches [.packets, .straits, .packages] s s1 := by
      unfold s1
      exact (setStrait_touches ..).after (by decide) .rfl
    clear_value s1
    extract_lets +onlyGivenNames s2
    have hs2 : Touches [.packets, .straits, .packages] s s2 := by
      unfold s2
      split
      · exact (modPkg_touches ..).after (by decide) hs1
      · exact hs1
    clear_value s2
    exact hs2.trans (.put rfl)

theorem resendAll_touches (s e) : Touches [.packets, .straits, .packages] s (resendAll s e) := by
  unfold resendAll
  refine .trans ?_ (.foldl (fun u a => ?_) _ _)
  · exact .rfl
  · exact (resend_touches ..).after (by decide) .rfl

theorem tryCpywait_touches (rd rs1 rs2 s) : onSome (Touches [.threads] s) (tryCpywait rd rs1 rs2 s) := by
  unfold tryCpywait
  extract_lets +onlyGivenNames v m t
  split
  · exact (finish_touches ..).after (by decide) .rfl
  · split
    · exact (finish_touches ..).after (by decide) .rfl
    · split
      · exact (finish_touches ..).after (by decide) .rfl
      · split
        · exact (finish_touches ..).after (by decide) .rfl
        · split
          · exact (finish_touches ..).after (by decide) ((modCur_touches ..).after (by decide) .rfl)
          · trivial

theorem putPkt_touches (s n p) : Touches [.packets] s (putPkt s n p) := .put rfl

theorem freeChan_touches (s k) : Touches [.chans, .partitions, .quotas] s (freeChan s k) := by
  unfold freeChan
  extract_lets +onlyGivenNames c spill held s1
  have hs1 : Touches [.chans, .partitions, .quotas] s s1 := by
    unfold s1
    exact (modPool_touches ..).after (by decide) .rfl
  clear_value s1
  extract_lets +onlyGivenNames s2
  have hs2 : Touches [.chans, .partitions, .quotas] s s2 := by
    unfold s2
    exact (uncharge_touches ..).after (by decide) hs1
  clear_value s2
  exact hs2.trans (.put rfl)

theorem addOcc_touches (s e) : Touches [.engines] s (addOcc s e) := by
  unfold addOcc
  extract_lets +onlyGivenNames x live ks
  exact (setEng_touches ..).after (by decide) .rfl

theorem leaveOwner_touches (s r) : Touches [.ranges] s (leaveOwner s r) := by
  unfold leaveOwner
  split
  · exact .rfl
  · split
    · exact .rfl
    · split
      · exact .rfl
      · exact .put rfl

theorem putReq_touches (s r) : Touches [.reqs] s (putReq s r) := .put rfl

theorem answerReq_touches (s r) : Touches [.reqs, .ranges] s (answerReq s r) := by
  unfold answerReq
  exact (leaveOwner_touches ..).after (by decide) ((putReq_touches ..).after (by decide) .rfl)

theorem branch_touches (test imm s) : Touches [.threads] s (branch test imm s) := by
  unfold branch
  exact (modCur_touches ..).after (by decide) .rfl

theorem poisonHbm_touches (s g n) : Touches [.ecc, .eccL0] s (poisonHbm s g n) := by
  unfold poisonHbm
  refine .trans ?_ (.foldl (fun u a => ?_) _ _)
  · exact .rfl
  · exact (setEcc_touches ..).after (by decide) .rfl

theorem performReq_touches (s r) : Touches [.hbm, .hostMem, .ecc, .eccL0, .bankModes] s (performReq s r).2 := by
  unfold performReq
  split
  · split
    · dsimp -zeta only
      exact .rfl
    · dsimp -zeta only
      exact .put rfl
    · dsimp -zeta only
      exact .rfl
  · split
    · dsimp -zeta only
      exact .rfl
    · split
      · extract_lets +onlyGivenNames x1
        dsimp -zeta only
        unfold x1
        exact (readHbm_touches ..).after (by decide) .rfl
      · extract_lets +onlyGivenNames s1
        have hs1 : Touches [.hbm, .hostMem, .ecc, .eccL0, .bankModes] s s1 := by
          unfold s1
          exact (writeHbm_touches ..).after (by decide) .rfl
        clear_value s1
        dsimp -zeta only
        split
        · exact (poisonHbm_touches ..).after (by decide) hs1
        · exact hs1
      · extract_lets +onlyGivenNames x1 n
        dsimp -zeta only
        split
        · unfold x1
          exact (readHbm_touches ..).after (by decide) .rfl
        · refine (writeHbm_touches ..).after (by decide) ?_
          unfold x1
          exact (readHbm_touches ..).after (by decide) .rfl

theorem performRemote_touches (s n p r0 answer) : Touches [.hbm, .hostMem, .ecc, .eccL0, .bankModes, .reqs, .ranges,
    .packets, .inbox, .straits, .exits, .reports, .nextId] s (performRemote s n p r0 answer) := by
  unfold performRemote
  extract_lets +onlyGivenNames q r x x1 hdr out
  split
  · exact .rfl
  · split
    · exact (raise_touches ..).after (by decide) ((putReq_touches ..).after (by decide) .rfl)
    · split
      · split
        · refine (sendPkt_touches ..).after (by decide) ?_
          refine (dropInbox_touches ..).after (by decide) ?_
          unfold x1
          split
          · exact (performReq_touches ..).after (by decide) .rfl
          · dsimp -zeta only
            exact .rfl
        · exact .rfl
      · refine (answerReq_touches ..).after (by decide) ?_
        refine (dropInbox_touches ..).after (by decide) ?_
        unfold x1
        split
        · exact (performReq_touches ..).after (by decide) .rfl
        · dsimp -zeta only
          exact .rfl

theorem bindCmd_touches (s rd k c) : onSome (Touches [.threads, .streams, .nextId] s) (bindCmd s rd k c) := by
  unfold bindCmd
  split
  · trivial
  · split
    · next x1 i s1 h1 =>
        extract_lets +onlyGivenNames c1
        exact (finish_touches ..).after (by decide) ((modPort_touches ..).after (by decide) ((Touches.of_snd h1
          (fresh_touches ..)).after (by decide) .rfl))

theorem trySbind_touches (rd rs1 rs2 s) : onSome (Touches [.threads, .bankModes, .walks, .streams, .traces, .nextId] s)
    (trySbind rd rs1 rs2 s) := by
  unfold trySbind
  split
  · exact (finish_touches ..).after (by decide) .rfl
  · exact (opTrap_touches ..).after (by decide) .rfl
  · next x x1 k ps h h1 =>
      extract_lets +onlyGivenNames b
      split
      · change Touches _ _ _
        refine (finish_touches ..).after (by decide) ?_
        unfold b
        exact (readPieces_touches ..).after (by decide) .rfl
      · split
        · split
          · change Touches _ _ _
            refine (finish_touches ..).after (by decide) ?_
            unfold b
            exact (readPieces_touches ..).after (by decide) .rfl
          · refine onSome.imp (fun _ k => k.after (by decide) ?_) (bindCmd_touches ..)
            unfold b
            exact (readPieces_touches ..).after (by decide) .rfl
        · change Touches _ _ _
          refine (finish_touches ..).after (by decide) ?_
          unfold b
          exact (readPieces_touches ..).after (by decide) .rfl

theorem clearPkg_touches (s pkg) : Touches [.threads, .coreNext, .engines, .inFlight, .updates, .allocWait, .graphs,
    .launches, .launchQs, .breaks, .sources, .tiles, .chunkWrites, .retires, .memTiles, .chans, .bars, .hbm, .l0, .ecc,
    .eccL0, .bankModes, .reqs, .watchHolds, .walks, .ranges, .xfers, .copies, .copyQs, .vtiles, .islands, .groups,
    .xunits, .streams, .lanes, .packets, .inbox, .straits, .acks, .nacks, .exits, .badPages, .partitions, .pageOwner,
    .pageOn, .barRuns, .quotas, .slotTabs, .wheels, .reports, .qmReports, .tlb, .stops, .traces, .watches, .fns] s
    (clearPkg s pkg) := .put rfl

theorem clearSlot_touches (s e slot) : Touches [.engines, .partitions, .quotas] s (clearSlot s e slot) := by
  unfold clearSlot
  extract_lets +onlyGivenNames vr s1
  have hs1 : Touches [.engines, .partitions, .quotas] s s1 := by
    unfold s1
    refine .trans ?_ (.foldl (fun u a => ?_) _ _)
    · exact .rfl
    · exact (unback_touches ..).after (by decide) .rfl
  clear_value s1
  exact (modEng_touches ..).after (by decide) hs1

theorem parkEnds_touches (s pkg h g) : Touches [.launchQs, .chans, .groups] s (parkEnds s pkg h g) := .put rfl

theorem unshare_touches (s k) : Touches [.chans, .partitions, .quotas] s (unshare s k) := by
  unfold unshare
  extract_lets +onlyGivenNames c s1
  have hs1 : Touches [.chans, .partitions, .quotas] s s1 := by
    unfold s1
    exact (setChan_touches ..).after (by decide) .rfl
  clear_value s1
  split
  · exact (freeChan_touches ..).after (by decide) hs1
  · exact hs1

theorem unloadGraph.modWheels_touches (s pkg g) : Touches [.wheels] s (unloadGraph.modWheels s pkg g) := .put rfl

theorem unloadGraph_touches (s pkg h g) : Touches [.threads, .engines, .inFlight, .allocWait, .graphs, .launches,
    .launchQs, .sources, .tiles, .chunkWrites, .retires, .chans, .vtiles, .islands, .groups, .xunits, .partitions,
    .pageOn, .quotas, .wheels] s (unloadGraph s pkg h g) := by
  unfold unloadGraph
  extract_lets +onlyGivenNames s1
  have hs1 : Touches [.threads, .engines, .inFlight, .allocWait, .graphs, .launches, .launchQs, .sources, .tiles,
    .chunkWrites, .retires, .chans, .vtiles, .islands, .groups, .xunits, .partitions, .pageOn, .quotas,
    .wheels] s s1 := by
    unfold s1
    refine .trans ?_ (.foldl (fun u a => ?_) _ _)
    · exact (parkEnds_touches ..).after (by decide) .rfl
    · exact (clearSlot_touches ..).after (by decide) .rfl
  clear_value s1
  extract_lets +onlyGivenNames s2
  have hs2 : Touches [.threads, .engines, .inFlight, .allocWait, .graphs, .launches, .launchQs, .sources, .tiles,
    .chunkWrites, .retires, .chans, .vtiles, .islands, .groups, .xunits, .partitions, .pageOn, .quotas,
    .wheels] s s2 := by
    unfold s2
    refine .trans ?_ (.foldl (fun u a => ?_) _ _)
    · exact hs1
    · exact (freeTile_touches ..).after (by decide) .rfl
  clear_value s2
  extract_lets +onlyGivenNames s3
  have hs3 : Touches [.threads, .engines, .inFlight, .allocWait, .graphs, .launches, .launchQs, .sources, .tiles,
    .chunkWrites, .retires, .chans, .vtiles, .islands, .groups, .xunits, .partitions, .pageOn, .quotas,
    .wheels] s s3 := by
    unfold s3
    refine .trans ?_ (.foldl (fun u a => ?_) _ _)
    · exact hs2
    · exact (unshare_touches ..).after (by decide) .rfl
  clear_value s3
  extract_lets +onlyGivenNames s4
  have hs4 : Touches [.threads, .engines, .inFlight, .allocWait, .graphs, .launches, .launchQs, .sources, .tiles,
    .chunkWrites, .retires, .chans, .vtiles, .islands, .groups, .xunits, .partitions, .pageOn, .quotas,
    .wheels] s s4 := by
    unfold s4
    split
    · exact hs3
    · refine .trans ?_ (.foldl (fun u a => ?_) _ _)
      · exact hs3
      · exact (modPart_touches ..).after (by decide) .rfl
  clear_value s4
  extract_lets +onlyGivenNames vs s5
  have hs5 : Touches [.threads, .engines, .inFlight, .allocWait, .graphs, .launches, .launchQs, .sources, .tiles,
    .chunkWrites, .retires, .chans, .vtiles, .islands, .groups, .xunits, .partitions, .pageOn, .quotas,
    .wheels] s s5 := by
    unfold s5
    refine .trans ?_ (.foldl (fun u a => ?_) _ _)
    · exact hs4
    · exact .put rfl
  clear_value s5
  extract_lets +onlyGivenNames s6
  have hs6 : Touches [.threads, .engines, .inFlight, .allocWait, .graphs, .launches, .launchQs, .sources, .tiles,
    .chunkWrites, .retires, .chans, .vtiles, .islands, .groups, .xunits, .partitions, .pageOn, .quotas,
    .wheels] s s6 := by
    unfold s6
    exact (unloadGraph.modWheels_touches ..).after (by decide) hs5
  clear_value s6
  extract_lets +onlyGivenNames s7
  have hs7 : Touches [.threads, .engines, .inFlight, .allocWait, .graphs, .launches, .launchQs, .sources, .tiles,
    .chunkWrites, .retires, .chans, .vtiles, .islands, .groups, .xunits, .partitions, .pageOn, .quotas,
    .wheels] s s7 := by
    unfold s7
    exact hs6.trans (.put rfl)
  clear_value s7
  exact (powerPages_touches ..).after (by decide) (hs7.trans (.put rfl))

theorem landLocal_touches (s p) : Touches [.inbox, .nextId] s (landLocal s p) := by
  unfold landLocal
  split
  · next x i s1 h =>
      exact Touches.trans (t := s1) ((Touches.of_snd h (fresh_touches ..)).after (by decide) .rfl) (.put rfl)

theorem sendRecord_touches (s src t k fmt bs) : onSome (Touches [.chans, .packets, .inbox, .straits, .exits,
    .nextId] s) (sendRecord s src t k fmt bs) := by
  unfold sendRecord
  extract_lets +onlyGivenNames ps s1
  have hs1 : Touches [.chans, .packets, .inbox, .straits, .exits, .nextId] s s1 := by
    unfold s1
    exact (modChan_touches ..).after (by decide) .rfl
  clear_value s1
  split
  · change Touches _ _ _
    refine .trans ?_ (.foldl (fun u a => ?_) _ _)
    · exact hs1
    · exact (landLocal_touches ..).after (by decide) .rfl
  · next h =>
      refine onSome.map fun a h => ?_
      refine .trans ?_ (.foldl (fun u a => ?_) _ _)
      · exact hs1
      · exact (sendPkt_touches ..).after (by decide) .rfl

theorem countTok_touches (s t) : Touches [.bankModes] s (countTok s t) := by
  unfold countTok
  refine .trans ?_ (.foldl (fun u a => ?_) _ _)
  · exact .rfl
  · exact (countBurst_touches ..).after (by decide) .rfl

theorem tokRead_touches (s t who) : Touches [.bankModes, .watchHolds] s (tokRead s t who) := by
  unfold tokRead
  exact (watchPassed_touches ..).after (by decide) ((countTok_touches ..).after (by decide) .rfl)

theorem beginXfer_touches (s f) : Touches [.engines, .launches, .partitions, .quotas, .traces] s (beginXfer s f) := by
  unfold beginXfer
  exact (touch_touches ..).after (by decide) ((countFiring_touches ..).after (by decide) ((takeStart_touches ..).after
    (by decide) .rfl))

theorem writeRemote_touches (s f k bs) : Touches [.engines, .allocWait, .launches, .chans, .bankModes, .watchHolds,
    .xunits, .packets, .inbox, .straits, .exits, .partitions, .quotas, .reports, .traces, .nextId] s
    (writeRemote s f k bs) := by
  unfold writeRemote
  extract_lets +onlyGivenNames t
  split
  · exact (backToRow_touches ..).after (by decide) .rfl
  · split
    · exact .rfl
    · next x s' h1 =>
        extract_lets +onlyGivenNames s'1
        have hs'1 : Touches [.engines, .allocWait, .launches, .chans, .bankModes, .watchHolds, .xunits, .packets,
          .inbox, .straits, .exits, .partitions, .quotas, .reports, .traces, .nextId] s s'1 := by
          unfold s'1
          split
          · refine (tokRead_touches ..).after (by decide) ?_
            have k1 := Touches.carry h1 (sendRecord_touches ..)
            exact Touches.after k1 (by decide) .rfl
          · have k1 := Touches.carry h1 (sendRecord_touches ..)
            exact Touches.after k1 (by decide) .rfl
        clear_value s'1
        split
        · next x1 i s1 h2 =>
            exact Touches.trans (t := s1) ((Touches.of_snd h2 (fresh_touches ..)).after (by decide)
              ((beginXfer_touches ..).after (by decide) hs'1)) (.put rfl)

theorem returnLaunch_touches (s pkg lid) : Touches [.threads, .engines, .graphs, .launches, .tiles, .chunkWrites,
    .retires, .reqs, .quotas, .reports, .traces] s (returnLaunch s pkg lid) := by
  unfold returnLaunch
  extract_lets +onlyGivenNames ts s1
  have hs1 : Touches [.threads, .engines, .graphs, .launches, .tiles, .chunkWrites, .retires, .reqs, .quotas, .reports,
    .traces] s s1 := by
    unfold s1
    refine .trans ?_ (.foldl (fun u a => ?_) _ _)
    · exact .rfl
    · exact (freeTile_touches ..).after (by decide) .rfl
  clear_value s1
  extract_lets +onlyGivenNames cols ks s2
  have hs2 : Touches [.threads, .engines, .graphs, .launches, .tiles, .chunkWrites, .retires, .reqs, .quotas, .reports,
    .traces] s s2 := by
    unfold s2
    split
    · exact (dropEntries_touches ..).after (by decide) hs1
    · exact hs1
  clear_value s2
  extract_lets +onlyGivenNames holds s3
  have hs3 : Touches [.threads, .engines, .graphs, .launches, .tiles, .chunkWrites, .retires, .reqs, .quotas, .reports,
    .traces] s s3 := by
    unfold s3
    refine .trans ?_ (.foldl (fun u a => ?_) _ _)
    · refine .trans ?_ (.foldl (fun u a => ?_) _ _)
      · exact hs2
      · exact (zeroCol_touches ..).after (by decide) .rfl
    · exact (dropLive_touches ..).after (by decide) .rfl
  clear_value s3
  exact hs3.trans (.put rfl)

theorem modCopy_touches (s i f) : Touches [.copies] s (modCopy s i f) := .put rfl

theorem raisePacket_touches (s pkg die q lid cause tval tinfo) : Touches [.reports] s
    (raisePacket s pkg die q lid cause tval tinfo) := by
  unfold raisePacket
  exact (raise_touches ..).after (by decide) .rfl

theorem endCopy_touches (s j) : Touches [.reqs, .ranges, .copies] s (endCopy s j) := by
  unfold endCopy
  extract_lets +onlyGivenNames mine s1
  have hs1 : Touches [.reqs, .ranges, .copies] s s1 := by
    unfold s1
    exact .put rfl
  clear_value s1
  split
  · exact (modCopy_touches ..).after (by decide) hs1
  · exact (dropCopy_touches ..).after (by decide) hs1

theorem packetFault_touches (s pkg die q slot lid addr) : Touches [.reports] s
    (packetFault s pkg die q slot lid addr) := by
  unfold packetFault
  exact (raisePacket_touches ..).after (by decide) .rfl

theorem freeCopyTile_touches (s j) : Touches [.threads, .engines, .allocWait, .launches, .tiles, .chunkWrites,
    .retires, .chans, .partitions, .quotas, .reports, .traces, .nextId] s (freeCopyTile s j) := by
  unfold freeCopyTile
  split
  · split
    · exact (reevalAll_touches ..).after (by decide) ((freeTile_touches ..).after (by decide) .rfl)
    · exact .rfl
  · exact .rfl

theorem stopCopy_touches (s j cause tval) : Touches [.threads, .engines, .allocWait, .launches, .tiles, .chunkWrites,
    .retires, .chans, .reqs, .ranges, .copies, .partitions, .quotas, .reports, .traces, .nextId] s
    (stopCopy s j cause tval) := by
  unfold stopCopy
  split
  · split
    · exact (raisePacket_touches ..).after (by decide) ((endCopy_touches ..).after (by decide) .rfl)
    · exact (packetFault_touches ..).after (by decide) ((endCopy_touches ..).after (by decide) .rfl)
  · split
    · exact (endCopy_touches ..).after (by decide) .rfl
    · exact (opFault_touches ..).after (by decide) ((endCopy_touches ..).after (by decide)
        ((freeCopyTile_touches ..).after (by decide) .rfl))

theorem poisonCopy_touches (s j) : Touches [.threads, .engines, .updates, .allocWait, .graphs, .launches, .tiles,
    .chunkWrites, .retires, .chans, .reqs, .ranges, .copies, .partitions, .quotas, .reports, .traces, .nextId] s
    (poisonCopy s j) := by
  unfold poisonCopy
  split
  · exact (poisonConsumed_touches ..).after (by decide) ((endCopy_touches ..).after (by decide)
      ((freeCopyTile_touches ..).after (by decide) .rfl))
  · exact (stopCopy_touches ..).after (by decide) .rfl

theorem mismatchCopy_touches (s j x) : Touches [.threads, .engines, .updates, .allocWait, .graphs, .launches, .tiles,
    .chunkWrites, .retires, .chans, .reqs, .ranges, .copies, .partitions, .quotas, .reports, .traces, .nextId] s
    (mismatchCopy s j x) := by
  unfold mismatchCopy
  split
  · exact (silentData_touches ..).after (by decide) ((endCopy_touches ..).after (by decide)
      ((freeCopyTile_touches ..).after (by decide) .rfl))
  · exact (endCopy_touches ..).after (by decide) .rfl

theorem ackChunk_touches (s j c) : Touches [.inFlight, .updates, .graphs, .launches, .tiles, .retires, .bars, .ranges,
    .copies] s (ackChunk s j c) := by
  unfold ackChunk
  extract_lets +onlyGivenNames j1 s1
  have hs1 : Touches [.inFlight, .updates, .graphs, .launches, .tiles, .retires, .bars, .ranges, .copies] s s1 := by
    unfold s1
    exact (copyBar_touches ..).after (by decide) ((modCopy_touches ..).after (by decide) .rfl)
  clear_value s1
  split
  · exact (finishCopy_touches ..).after (by decide) hs1
  · exact hs1

theorem writeTileChunk_touches (s j id c m) : Touches [.tiles, .hbm, .l0, .ecc, .eccL0, .bankModes] s
    (writeTileChunk s j id c m) := by
  unfold writeTileChunk
  extract_lets +onlyGivenNames t s1
  have hs1 : Touches [.tiles, .hbm, .l0, .ecc, .eccL0, .bankModes] s s1 := by
    unfold s1
    split
    · exact (modTile_touches ..).after (by decide) .rfl
    · exact .rfl
  clear_value s1
  extract_lets +onlyGivenNames s2
  have hs2 : Touches [.tiles, .hbm, .l0, .ecc, .eccL0, .bankModes] s s2 := by
    unfold s2
    exact (writeTileImage_touches ..).after (by decide) hs1
  clear_value s2
  extract_lets +onlyGivenNames s3
  have hs3 : Touches [.tiles, .hbm, .l0, .ecc, .eccL0, .bankModes] s s3 := by
    unfold s3
    split
    · exact (writeScale_touches ..).after (by decide) hs2
    · exact hs2
  clear_value s3
  exact (chunkDone_touches ..).after (by decide) hs3

theorem moveChunk_touches (s j c m) : Touches [.threads, .engines, .inFlight, .updates, .allocWait, .graphs, .launches,
    .tiles, .chunkWrites, .retires, .chans, .bars, .hbm, .l0, .ecc, .eccL0, .bankModes, .reqs, .ranges, .copies,
    .packets, .straits, .exits, .partitions, .quotas, .reports, .traces, .nextId] s (moveChunk s j c m) := by
  unfold moveChunk
  split
  · next x x1 h =>
      split
      · exact .rfl
      · extract_lets +onlyGivenNames s1
        have hs1 : Touches [.threads, .engines, .inFlight, .updates, .allocWait, .graphs, .launches, .tiles,
          .chunkWrites, .retires, .chans, .bars, .hbm, .l0, .ecc, .eccL0, .bankModes, .reqs, .ranges, .copies,
          .packets, .straits, .exits, .partitions, .quotas, .reports, .traces, .nextId] s s1 := by
          unfold s1
          exact (modCopy_touches ..).after (by decide) (.put rfl)
        clear_value s1
        split
        · exact (stopCopy_touches ..).after (by decide) hs1
        · exact (poisonCopy_touches ..).after (by decide) hs1
        · exact (mismatchCopy_touches ..).after (by decide) hs1
  · extract_lets +onlyGivenNames s1
    have hs1 : Touches [.threads, .engines, .inFlight, .updates, .allocWait, .graphs, .launches, .tiles, .chunkWrites,
      .retires, .chans, .bars, .hbm, .l0, .ecc, .eccL0, .bankModes, .reqs, .ranges, .copies, .packets, .straits,
      .exits, .partitions, .quotas, .reports, .traces, .nextId] s s1 := by
      unfold s1
      exact (logChunk_touches ..).after (by decide) (.put rfl)
    clear_value s1
    extract_lets +onlyGivenNames j1 j2
    split
    · exact (ackChunk_touches ..).after (by decide) ((writeTileChunk_touches ..).after (by decide) hs1)
    · exact (issueAll_touches ..).after (by decide) ((modCopy_touches ..).after (by decide) hs1)

theorem openChan_touches (s c role) : onOk (fun p => Touches [.chans] s (p).2) (openChan s c role) := by
  unfold openChan
  extract_lets +onlyGivenNames p part
  split
  · trivial
  · split
    · extract_lets +onlyGivenNames k new
      change Touches _ _ _
      dsimp -zeta only
      exact (setChan_touches ..).after (by decide) .rfl
    · trivial

theorem releaseHeld_touches (s a) : Touches [.engines, .allocWait, .reqs, .watchHolds, .streams, .inbox, .qmReports] s
    (releaseHeld s a) := by
  unfold releaseHeld
  split
  · exact .rfl
  · exact .put rfl
  · exact (modEng_touches ..).after (by decide) .rfl
  · exact .put rfl
  · exact (modEng_touches ..).after (by decide) .rfl
  · exact .put rfl

theorem forgetFaults_touches (s pkg) : Touches [.walks] s (forgetFaults s pkg) := .put rfl

theorem trapReturn_touches (s t) : Touches [.threads, .engines, .allocWait, .launches, .reqs, .watchHolds, .walks,
    .streams, .inbox, .qmReports] s (trapReturn s t) := by
  unfold trapReturn
  extract_lets +onlyGivenNames th s1
  have hs1 : Touches [.threads, .engines, .allocWait, .launches, .reqs, .watchHolds, .walks, .streams, .inbox,
    .qmReports] s s1 := by
    unfold s1
    exact (modThr_touches ..).after (by decide) .rfl
  clear_value s1
  refine (releaseHeld_touches ..).after (by decide) ?_
  refine (forgetFaults_touches ..).after (by decide) ?_
  split
  · exact (touch_touches ..).after (by decide) hs1
  · exact hs1

theorem asideFault_touches (s t e vrow why cause tval) : Touches [.engines, .launches, .reports] s
    (asideFault s t e vrow why cause tval) := by
  unfold asideFault
  exact (raiseTok_touches ..).after (by decide) ((noteFault_touches ..).after (by decide)
    ((setAsideToks_touches ..).after (by decide) .rfl))

theorem failBlocked_touches (s t e b) : Touches [.launches, .reports] s (failBlocked s t e b) := by
  unfold failBlocked
  split
  · split
    · exact .rfl
    · exact (raiseTok_touches ..).after (by decide) ((noteFault_touches ..).after (by decide) .rfl)
  · exact .rfl

theorem gate_touches (s e t) : Gate.All (Touches [.engines, .launches, .reports] s) (gate s e t) := by
  unfold gate
  extract_lets +onlyGivenNames aside at_ x r
  split
  · unfold aside
    split
    · exact (asideFault_touches ..).after (by decide) .rfl
    · exact .rfl
  · split
    · exact (raise_touches ..).after (by decide) .rfl
    · split
      · split
        · exact (raiseTok_touches ..).after (by decide) ((setAsideToks_touches ..).after (by decide) .rfl)
        · exact .rfl
      · split
        · exact .rfl
        · split
          · exact .rfl
          · split
            · split
              · exact (modEng_touches ..).after (by decide) .rfl
              · exact .rfl
            · split
              · exact (failBlocked_touches ..).after (by decide) .rfl
              · split
                · exact (raiseTok_touches ..).after (by decide) .rfl
                · clear_value r
                  split
                  · unfold aside
                    split
                    · exact (asideFault_touches ..).after (by decide) .rfl
                    · exact .rfl
                  · split
                    · unfold aside
                      split
                      · exact (asideFault_touches ..).after (by decide) .rfl
                      · exact .rfl
                    · exact .rfl

theorem refillRow_touches (s e row) : Touches [.engines, .partitions, .quotas, .traces] s (refillRow s e row) := by
  unfold refillRow
  extract_lets +onlyGivenNames s1
  have hs1 : Touches [.engines, .partitions, .quotas, .traces] s s1 := by
    unfold s1
    exact (modEng_touches ..).after (by decide) ((unback_touches ..).after (by decide) .rfl)
  clear_value s1
  extract_lets +onlyGivenNames s2
  have hs2 : Touches [.engines, .partitions, .quotas, .traces] s s2 := by
    unfold s2
    exact (modSlot_touches ..).after (by decide) hs1
  clear_value s2
  split
  · split
    · exact (stageTrace_touches ..).after (by decide) hs2
    · exact hs2
  · exact hs2

theorem spillRow_touches (s e row) : Spill.All (Touches [.engines, .partitions, .quotas, .traces] s)
    (spillRow s e row) := by
  unfold spillRow
  extract_lets +onlyGivenNames x t into
  have hinto : ∀ u0 a1, Touches [.engines, .partitions, .quotas, .traces] u0 (into u0 a1) := by
    intro u0 a1
    unfold into
    extract_lets +onlyGivenNames s1
    have hs1 : Touches [.engines, .partitions, .quotas, .traces] u0 s1 := by
      unfold s1
      exact (modEng_touches ..).after (by decide) .rfl
    clear_value s1
    extract_lets +onlyGivenNames s2
    have hs2 : Touches [.engines, .partitions, .quotas, .traces] u0 s2 := by
      unfold s2
      exact (modSlot_touches ..).after (by decide) hs1
    clear_value s2
    split
    · split
      · exact (stageTrace_touches ..).after (by decide) hs2
      · exact hs2
    · exact hs2
  extract_lets +onlyGivenNames p s1
  have hs1 : Touches [.engines, .partitions, .quotas, .traces] s s1 := by
    unfold s1
    exact (modPool_touches ..).after (by decide) ((charge_touches ..).after (by decide) .rfl)
  clear_value s1
  split
  · exact .trans .rfl (hinto ..)
  · split
    · trivial
    · split
      · trivial
      · exact .trans hs1 (hinto ..)

theorem makeRoom_touches (s e slot vrow) : Spill.All (Touches [.engines, .partitions, .quotas, .traces] s)
    (makeRoom s e slot vrow) := by
  unfold makeRoom
  extract_lets +onlyGivenNames refill
  have hrefill : ∀ u0, Touches [.engines, .partitions, .quotas, .traces] u0 (refill u0) := by
    intro u0
    unfold refill
    split
    · split
      · exact (refillRow_touches ..).after (by decide) .rfl
      · exact .rfl
    · exact .rfl
  split
  · exact .trans .rfl (hrefill ..)
  · split
    · next x1 s1 h1 =>
        change Touches _ _ _
        refine .trans ?_ (hrefill ..)
        have k := Touches.carry h1 (spillRow_touches ..)
        exact Touches.after k (by decide) .rfl
    · exact Spill.All.imp (fun _ k => k.after (by decide) .rfl) (spillRow_touches ..)

theorem setStop_touches (s k v) : Touches [.stops] s (setStop s k v) := .put rfl

theorem stopEntry_touches (r t vrow s k) : Touches [.engines, .graphs, .reports, .stops, .traces] s
    (stopEntry r t vrow s k) := by
  unfold stopEntry
  extract_lets +onlyGivenNames key v n w s1
  have hs1 : Touches [.engines, .graphs, .reports, .stops, .traces] s s1 := by
    unfold s1
    exact (setStop_touches ..).after (by decide) .rfl
  clear_value s1
  extract_lets +onlyGivenNames c s2
  have hs2 : Touches [.engines, .graphs, .reports, .stops, .traces] s s2 := by
    unfold s2
    exact (modEng_touches ..).after (by decide) hs1
  clear_value s2
  split
  · exact .rfl
  · split
    · exact (setStop_touches ..).after (by decide) .rfl
    · split
      · exact (stageTrace_touches ..).after (by decide) hs1
      · exact (raiseTok_touches ..).after (by decide) ((modGraph_touches ..).after (by decide) hs2)

theorem applyStops_touches (s r t vrow) : Touches [.engines, .graphs, .reports, .stops, .traces] s
    (applyStops s r t vrow) := by
  unfold applyStops
  refine .trans ?_ (.foldl (fun u a => ?_) _ _)
  · exact .rfl
  · exact (stopEntry_touches ..).after (by decide) .rfl

theorem holdSpill_touches (s e t w) : Touches [.engines, .launches, .quotas, .reports] s (holdSpill s e t w) := by
  unfold holdSpill
  extract_lets +onlyGivenNames s1
  have hs1 : Touches [.engines, .launches, .quotas, .reports] s s1 := by
    unfold s1
    exact (touch_touches ..).after (by decide) ((modEng_touches ..).after (by decide) .rfl)
  clear_value s1
  split
  · exact (raiseTok_touches ..).after (by decide) ((breach_touches ..).after (by decide) hs1)
  · exact (raiseTok_touches ..).after (by decide) hs1

theorem noteWalk_touches (s pkg part va a a1) : Touches [.engines, .bankModes] s (noteWalk s pkg part va a a1) := by
  fun_induction noteWalk s pkg part va a a1 with
  | case1 s lvl t a h => exact .rfl
  | case2 s lvl t a h x h1 =>
    refine (logError_touches ..).after (by decide) ?_
    unfold x
    exact (readHbm_touches ..).after (by decide) .rfl
  | case3 s lvl t a h x e h1 h2 =>
    unfold x
    exact (readHbm_touches ..).after (by decide) .rfl
  | case4 s t a h x e h1 h2 =>
    unfold x
    exact (readHbm_touches ..).after (by decide) .rfl
  | case5 s t l a h x e h1 h2 ih =>
    refine .trans ?_ ih
    unfold x
    exact (readHbm_touches ..).after (by decide) .rfl

theorem coreWalks_touches (s pkg part a) : Touches [.engines, .bankModes] s (coreWalks s pkg part a) := by
  fun_induction coreWalks s pkg part a with
  | case1 s => exact .rfl
  | case2 s p ps h => exact .rfl
  | case3 s p ps h t a h1 =>
    unfold t
    exact (noteWalk_touches ..).after (by decide) .rfl
  | case4 s p ps h t a h1 ih =>
    refine .trans ?_ ih
    unfold t
    exact (noteWalk_touches ..).after (by decide) .rfl

theorem dropAhead_touches (s pkg die) : Touches [.threads] s (dropAhead s pkg die) := .put rfl

theorem recGate_touches (s home k r who lid acc) : onSome (Touches [.watchHolds, .reports, .nextId] s)
    (recGate s home k r who lid acc) := by
  unfold recGate
  extract_lets +onlyGivenNames c
  exact onSome.imp (fun _ k => k.after (by decide) .rfl) (watchGate_touches ..)

theorem loadBegin_touches (s r x id c) : Touches [.tiles, .chunkWrites, .memTiles, .nextId] s
    (loadBegin s r x id c) := by
  unfold loadBegin
  extract_lets +onlyGivenNames t b
  exact (beginChunk_touches ..).after (by decide) .rfl

theorem dropFailed_touches (s x) : Touches [.ranges, .xfers] s (dropFailed s x) := by
  unfold dropFailed
  split
  · exact (dropXfer_touches ..).after (by decide) .rfl
  · exact (modXfer_touches ..).after (by decide) .rfl

theorem fireOut_touches (s f out) : Touches [.engines, .inFlight, .updates, .allocWait, .graphs, .launches, .tiles,
    .retires, .chans, .partitions, .quotas, .reports, .traces, .nextId] s (fireOut s f out) := by
  unfold fireOut
  split
  · exact .rfl
  · split
    · next x i s1 h1 =>
        exact (fire_touches ..).after (by decide) ((Touches.of_snd h1 (fresh_touches ..)).after (by decide) .rfl)

theorem schedWrite_touches (s pkg part va bs) : onSome (Touches [.hbm, .hostMem, .ecc, .eccL0, .bankModes] s)
    (schedWrite s pkg part va bs) := by
  unfold schedWrite
  split
  · exact (writePieces_touches ..).after (by decide) .rfl
  · trivial

theorem writeCopy_touches (s a a1) : Touches [.hbm, .hostMem, .ecc, .eccL0, .bankModes] s (writeCopy s a a1) := by
  fun_induction writeCopy s a a1 with
  | case1 s x => exact .rfl
  | case2 s p ps bs s1 ih =>
    refine .trans ?_ ih
    unfold s1
    split
    · exact .put rfl
    · exact (writeHbm_touches ..).after (by decide) .rfl

theorem engineWrite_touches (s e part va bs) : Touches [.hbm, .hostMem, .ecc, .eccL0, .bankModes] s
    (engineWrite s e part va bs) := by
  unfold engineWrite
  split
  · exact (writeCopy_touches ..).after (by decide) .rfl
  · exact .rfl

theorem zeroQueues_touches (s pkg p) : Touches [.launchQs, .hbm, .hostMem, .ecc, .eccL0, .bankModes] s
    (zeroQueues s pkg p) := by
  unfold zeroQueues
  extract_lets +onlyGivenNames zero s1
  have hs1 : Touches [.launchQs, .hbm, .hostMem, .ecc, .eccL0, .bankModes] s s1 := by
    unfold s1
    refine .trans ?_ (.foldl (fun u a => ?_) _ _)
    · exact .rfl
    · refine (modLaunchQ_touches ..).after (by decide) ?_
      refine .getD (fun u hu => ?_) ?_
      · have k := Touches.carry hu (schedWrite_touches ..)
        exact Touches.after k (by decide) .rfl
      · exact .rfl
  clear_value s1
  refine .trans ?_ (.foldl (fun u a => ?_) _ _)
  · exact hs1
  · exact (engineWrite_touches ..).after (by decide) .rfl

theorem countRec_touches (s k r) : Touches [.bankModes] s (countRec s k r) := by
  unfold countRec
  extract_lets +onlyGivenNames c
  exact (countWords_touches ..).after (by decide) .rfl

theorem takeRec_touches (s k) : Touches [.chans] s (takeRec s k) := by
  unfold takeRec
  exact (modChan_touches ..).after (by decide) .rfl

theorem takeFor_touches (s k ps) : TakeRec.All (Touches [.threads, .chans, .hbm, .hostMem, .ecc, .eccL0, .bankModes,
    .traces] s) (takeFor s k ps) := by
  unfold takeFor
  split
  · split
    · exact .rfl
    · trivial
  · split
    · trivial
    · extract_lets +onlyGivenNames d s0
      have hs0 : Touches [.threads, .chans, .hbm, .hostMem, .ecc, .eccL0, .bankModes, .traces] s s0 := by
        unfold s0
        exact (countRec_touches ..).after (by decide) .rfl
      clear_value s0
      extract_lets +onlyGivenNames s1
      have hs1 : Touches [.threads, .chans, .hbm, .hostMem, .ecc, .eccL0, .bankModes, .traces] s s1 := by
        unfold s1
        exact (takeRec_touches ..).after (by decide) hs0
      clear_value s1
      split
      · split
        · exact hs1
        · split
          · exact (loadErrorTrap_touches ..).after (by decide) hs0
          · exact (unwindLevel_touches ..).after (by decide) hs1
      · exact (modCur_touches ..).after (by decide) ((writePieces_touches ..).after (by decide) hs1)

theorem liftSet_touches (s key g) : Touches [.threads, .engines, .inFlight, .allocWait, .graphs, .sources, .tiles,
    .chunkWrites, .retires, .vtiles, .islands, .xunits, .partitions, .pageOn, .quotas, .wheels] s
    (liftSet s key g) := by
  unfold liftSet
  extract_lets +onlyGivenNames s1
  have hs1 : Touches [.threads, .engines, .inFlight, .allocWait, .graphs, .sources, .tiles, .chunkWrites, .retires,
    .vtiles, .islands, .xunits, .partitions, .pageOn, .quotas, .wheels] s s1 := by
    unfold s1
    refine .trans ?_ (.foldl (fun u a => ?_) _ _)
    · exact .rfl
    · exact (clearSlot_touches ..).after (by decide) .rfl
  clear_value s1
  extract_lets +onlyGivenNames s2
  have hs2 : Touches [.threads, .engines, .inFlight, .allocWait, .graphs, .sources, .tiles, .chunkWrites, .retires,
    .vtiles, .islands, .xunits, .partitions, .pageOn, .quotas, .wheels] s s2 := by
    unfold s2
    refine .trans ?_ (.foldl (fun u a => ?_) _ _)
    · exact hs1
    · exact (freeTile_touches ..).after (by decide) .rfl
  clear_value s2
  extract_lets +onlyGivenNames s3
  have hs3 : Touches [.threads, .engines, .inFlight, .allocWait, .graphs, .sources, .tiles, .chunkWrites, .retires,
    .vtiles, .islands, .xunits, .partitions, .pageOn, .quotas, .wheels] s s3 := by
    unfold s3
    exact hs2.trans (.put rfl)
  clear_value s3
  exact (powerPages_touches ..).after (by decide) ((unloadGraph.modWheels_touches ..).after (by decide) hs3)

theorem copyGate_touches (s j c) : onSome (Touches [.watchHolds, .reports, .nextId] s) (copyGate s j c) := by
  unfold copyGate
  extract_lets +onlyGivenNames at_
  refine onSome.orElse ?_ ?_
  · unfold at_
    split
    · exact onSome.imp (fun _ k => k.after (by decide) .rfl) (chunkGate_touches ..)
    · trivial
  · unfold at_
    split
    · exact onSome.imp (fun _ k => k.after (by decide) .rfl) (chunkGate_touches ..)
    · trivial

theorem modStrait_touches (s k f) : Touches [.straits] s (modStrait s k f) := by
  unfold modStrait
  exact (setStrait_touches ..).after (by decide) .rfl

theorem dropLanes_touches (s id) : Touches [.lanes] s (dropLanes s id) := .put rfl

theorem dropCmd_touches (s k n id) : Touches [.reqs, .streams, .lanes] s (dropCmd s k n id) := by
  unfold dropCmd
  refine (dropLanes_touches ..).after (by decide) ?_
  extract_lets +onlyGivenNames x
  have hx : Touches [.reqs, .streams, .lanes] s x := by
    unfold x
    exact (modPort_touches ..).after (by decide) .rfl
  clear_value x
  exact hx.trans (.put rfl)

theorem endCmd_touches (s k n c) : Touches [.threads, .reqs, .streams, .lanes] s (endCmd s k n c) := by
  unfold endCmd
  exact (setEvent_touches ..).after (by decide) ((dropCmd_touches ..).after (by decide) .rfl)

theorem resolveInst_touches (s key g rec row replay) : Touches [.engines, .inFlight, .updates, .graphs, .tiles,
    .retires, .traces, .nextId] s (resolveInst s key g rec row replay) := by
  unfold resolveInst
  split
  · exact .rfl
  · extract_lets +onlyGivenNames x
    split
    · next x1 i s1 h1 =>
        split
        · extract_lets +onlyGivenNames s2
          have hs2 : Touches [.engines, .inFlight, .updates, .graphs, .tiles, .retires, .traces, .nextId] s s2 := by
            unfold s2
            exact (modInst_touches ..).after (by decide) ((Touches.of_snd h1 (fresh_touches ..)).after (by decide) .rfl)
          clear_value s2
          exact (emitToks_touches ..).after (by decide) ((countFiring_touches ..).after (by decide) hs2)
        · extract_lets +onlyGivenNames s2
          have hs2 : Touches [.engines, .inFlight, .updates, .graphs, .tiles, .retires, .traces, .nextId] s s2 := by
            unfold s2
            exact (modInst_touches ..).after (by decide) ((retireKept_touches ..).after (by decide)
              ((retireKept_touches ..).after (by decide) ((Touches.of_snd h1 (fresh_touches ..)).after
              (by decide) .rfl)))
          clear_value s2
          exact (releaseUnit_touches ..).after (by decide) hs2

theorem instanceAct_touches (s rd b action) : Touches [.threads, .engines, .inFlight, .updates, .graphs, .tiles,
    .retires, .traces, .nextId] s (instanceAct s rd b action) := by
  unfold instanceAct
  extract_lets +onlyGivenNames key h rec0
  split
  · exact (asyncDone_touches ..).after (by decide) .rfl
  · split
    · exact (asyncDone_touches ..).after (by decide) .rfl
    · split
      · exact (asyncDone_touches ..).after (by decide) .rfl
      · extract_lets +onlyGivenNames k x1
        split
        · exact (asyncDone_touches ..).after (by decide) .rfl
        · split
          · exact .rfl
          · exact (asyncDone_touches ..).after (by decide) ((resolveInst_touches ..).after (by decide) .rfl)

theorem coreReads_touches (s pkg part va n) : Touches [.engines, .bankModes] s (coreReads s pkg part va n) := by
  unfold coreReads
  extract_lets +onlyGivenNames s1
  have hs1 : Touches [.engines, .bankModes] s s1 := by
    unfold s1
    exact (coreWalks_touches ..).after (by decide) .rfl
  clear_value s1
  split
  · exact (readPieces_touches ..).after (by decide) hs1
  · exact hs1

theorem badStart_touches (s f x) : Touches [.threads, .engines, .updates, .allocWait, .graphs, .launches, .tiles,
    .chunkWrites, .retires, .chans, .partitions, .quotas, .reports, .traces, .nextId] s (badStart s f x) := by
  unfold badStart
  split
  · exact .rfl
  · exact (silentData_touches ..).after (by decide) ((freeDests_touches ..).after (by decide)
      ((takeStart_touches ..).after (by decide) .rfl))

theorem freeBytes_touches (s n) : Touches [.freeCount] s (freeBytes s n).2 := .put rfl

theorem sourceDone_touches (s r x) : Touches [.updates, .launches] s (sourceDone s r x) := by
  unfold sourceDone
  split
  · exact (releaseUnit_touches ..).after (by decide) .rfl
  · split
    · exact .rfl
    · extract_lets +onlyGivenNames s1
      have hs1 : Touches [.updates, .launches] s s1 := by
        unfold s1
        exact (setLaunch_touches ..).after (by decide) .rfl
      clear_value s1
      split
      · split
        · exact (releaseUnit_touches ..).after (by decide) hs1
        · exact hs1
      · exact hs1

theorem raiseDeadlock_touches (pkg s m) : onSome (Touches [.launches, .reports, .qmReports] s)
    (raiseDeadlock pkg s m) := by
  unfold raiseDeadlock
  extract_lets +onlyGivenNames die es got more
  split
  · trivial
  · extract_lets +onlyGivenNames s1
    have hs1 : Touches [.launches, .reports, .qmReports] s s1 := by
      unfold s1
      exact .put rfl
    clear_value s1
    extract_lets +onlyGivenNames s2
    have hs2 : Touches [.launches, .reports, .qmReports] s s2 := by
      unfold s2
      exact (modLaunch_touches ..).after (by decide) hs1
    clear_value s2
    exact (raise_touches ..).after (by decide) hs2

theorem raiseAll_touches (pkg a a1) : onSome (Touches [.launches, .reports, .qmReports] a1) (raiseAll pkg a a1) := by
  fun_induction raiseAll pkg a a1 with
  | case1 s => exact .rfl
  | case2 m ms s h => trivial
  | case3 m ms s s' h ih =>
    refine onSome.imp (fun _ k => .trans ?_ k) ih
    have k1 := Touches.carry h (raiseDeadlock_touches ..)
    exact Touches.after k1 (by decide) .rfl

theorem growFirst_touches (s a) : onSome (Touches [.chans, .partitions, .quotas, .traces] s) (growFirst s a) := by
  fun_induction growFirst s a with
  | case1 => trivial
  | case2 k ks c h ih => exact onSome.imp (fun _ k => .trans .rfl k) ih
  | case3 k ks c h g s1 h1 =>
    change Touches _ _ _
    refine (modChan_touches ..).after (by decide) ?_
    have k1 := Touches.carry h1 (poolAlloc_touches ..)
    exact Touches.after k1 (by decide) .rfl
  | case4 k ks c h h1 ih => exact onSome.imp (fun _ k => .trans .rfl k) ih

theorem raiseChDeadlock_touches (s pkg m f) : Touches [.reports] s (raiseChDeadlock s pkg m f) := by
  unfold raiseChDeadlock
  extract_lets +onlyGivenNames die
  exact (raise_touches ..).after (by decide) .rfl

theorem judge_touches (s pkg g) : Touches [.launches, .chans, .partitions, .quotas, .reports, .qmReports, .traces] s
    (judge s pkg g) := by
  unfold judge
  extract_lets +onlyGivenNames ms f again
  have hagain : ∀ u0, Touches [.launches, .chans, .partitions, .quotas, .reports, .qmReports, .traces] u0
    (again u0) := by
    intro u0
    unfold again
    refine .trans ?_ (.foldl (fun u a => ?_) _ _)
    · exact .rfl
    · exact (modLaunch_touches ..).after (by decide) .rfl
  extract_lets +onlyGivenNames done
  split
  · split
    · exact .rfl
    · refine .getD (fun u hu => ?_) ?_
      · have k := Touches.carry hu (raiseAll_touches ..)
        exact Touches.after k (by decide) .rfl
      · exact .rfl
  · split
    · next x v h1 =>
        refine .trans ?_ (hagain ..)
        have k := Touches.carry h1 (growFirst_touches ..)
        exact Touches.after k (by decide) .rfl
    · split
      · split
        · exact .trans .rfl (hagain ..)
        · refine .trans ?_ (hagain ..)
          refine .trans ?_ (.foldl (fun u a => ?_) _ _)
          · exact (raiseChDeadlock_touches ..).after (by decide) .rfl
          · exact (modLaunch_touches ..).after (by decide) .rfl
      · exact .rfl

theorem illegalForm_touches (s i) : Touches [.threads, .traces] s (illegalForm s i) := by
  unfold illegalForm
  exact (trapCur_touches ..).after (by decide) .rfl

theorem tryPurge_touches (s k lid) : onSome (fun p => Touches [.threads, .engines, .updates, .allocWait, .graphs,
    .launches, .tiles, .chunkWrites, .retires, .chans, .islands, .partitions, .quotas, .wheels, .reports, .traces,
    .nextId] s (p).1) (tryPurge s k lid) := by
  unfold tryPurge
  split
  · change Touches _ _ _
    dsimp -zeta only
    exact .rfl
  · split
    · trivial
    · split
      · change Touches _ _ _
        dsimp -zeta only
        exact .rfl
      · extract_lets +onlyGivenNames r
        change Touches _ _ _
        dsimp -zeta only
        refine (reevalAll_touches ..).after (by decide) ?_
        unfold r
        exact (purgeCols_touches ..).after (by decide) .rfl

theorem settleFreeze_touches (s key) : Touches [.graphs] s (settleFreeze s key) := by
  unfold settleFreeze
  split
  · split
    · exact (setGraph_touches ..).after (by decide) .rfl
    · exact .rfl
  · exact .rfl

theorem settleAsync_touches (s pkg w) : onSome (fun p => Touches [.threads, .engines, .updates, .allocWait, .graphs,
    .launches, .tiles, .chunkWrites, .retires, .chans, .islands, .partitions, .quotas, .wheels, .reports, .traces,
    .nextId] s (p).2) (settleAsync s pkg w) := by
  unfold settleAsync
  split
  · change Touches _ _ _
    dsimp -zeta only
    exact .rfl
  · trivial
  · split
    · change Touches _ _ _
      dsimp -zeta only
      exact .rfl
    · split
      · change Touches _ _ _
        dsimp -zeta only
        exact .rfl
      · trivial
  · next x a a1 =>
      refine onSome.map fun a h => ?_
      dsimp -zeta only
      have k := Touches.carry h (tryPurge_touches ..)
      exact Touches.after k (by decide) .rfl
  · extract_lets +onlyGivenNames s1
    have hs1 : Touches [.threads, .engines, .updates, .allocWait, .graphs, .launches, .tiles, .chunkWrites, .retires,
      .chans, .islands, .partitions, .quotas, .wheels, .reports, .traces, .nextId] s s1 := by
      unfold s1
      exact (settleFreeze_touches ..).after (by decide) .rfl
    clear_value s1
    split
    · split
      · exact hs1
      · trivial
    · exact hs1
  · split
    · change Touches _ _ _
      dsimp -zeta only
      exact .rfl
    · trivial

theorem pendIfDue_touches (s b) : Touches [.bankModes] s (pendIfDue s b) := by
  unfold pendIfDue
  extract_lets +onlyGivenNames th
  exact (modMode_touches ..).after (by decide) .rfl

theorem dropReq_touches (s i) : Touches [.reqs] s (dropReq s i) := .put rfl

theorem flrBegin_touches (s pkg p code) : Touches [.partitions] s (flrBegin s pkg p code) := by
  unfold flrBegin
  extract_lets +onlyGivenNames ls nr np nc
  exact (modPart_touches ..).after (by decide) .rfl

theorem staleDrop_touches (s n p) : Touches [.packets, .acks, .nacks, .nextId] s (staleDrop s n p) := by
  unfold staleDrop
  extract_lets +onlyGivenNames s1
  have hs1 : Touches [.packets, .acks, .nacks, .nextId] s s1 := by
    unfold s1
    exact (dropPkt_touches ..).after (by decide) .rfl
  clear_value s1
  split
  · exact hs1
  · exact (sendAnswer_touches ..).after (by decide) hs1

theorem adoptMilestone_touches (s e m) : Touches [.packets, .straits, .traces, .packages] s (adoptMilestone s e m) := by
  unfold adoptMilestone
  extract_lets +onlyGivenNames st s1
  have hs1 : Touches [.packets, .straits, .traces, .packages] s s1 := by
    unfold s1
    exact (setStrait_touches ..).after (by decide) .rfl
  clear_value s1
  extract_lets +onlyGivenNames s2
  have hs2 : Touches [.packets, .straits, .traces, .packages] s s2 := by
    unfold s2
    refine .trans ?_ (.foldl (fun u a => ?_) _ _)
    · exact hs1
    · exact (traceClass_touches ..).after (by decide) .rfl
  clear_value s2
  split
  · exact .rfl
  · exact (resendAll_touches ..).after (by decide) hs2

theorem arriveEngine_touches (s n p) : Touches [.packets, .straits, .acks, .nacks, .reports, .traces, .packages,
    .nextId] s (arriveEngine s n p) := by
  unfold arriveEngine
  extract_lets +onlyGivenNames e s1
  have hs1 : Touches [.packets, .straits, .acks, .nacks, .reports, .traces, .packages, .nextId] s s1 := by
    unfold s1
    exact (adoptMilestone_touches ..).after (by decide) .rfl
  clear_value s1
  split
  · exact (misroute_touches ..).after (by decide) .rfl
  · split
    · exact (staleDrop_touches ..).after (by decide) .rfl
    · split
      · exact (misroute_touches ..).after (by decide) hs1
      · split
        · split
          · exact (landAnswer_touches ..).after (by decide) ((dropPkt_touches ..).after (by decide) hs1)
          · exact (putPkt_touches ..).after (by decide) hs1
        · extract_lets +onlyGivenNames f
          exact (putPkt_touches ..).after (by decide) hs1

theorem setWatch_touches (s k v) : Touches [.watches] s (setWatch s k v) := .put rfl

theorem newStamp_touches (s e) : Touches [.engines] s (newStamp s e).2 := by
  unfold newStamp
  extract_lets +onlyGivenNames x
  dsimp -zeta only
  exact (modEng_touches ..).after (by decide) .rfl

theorem launchCopy_touches (s j) : onSome (fun p => Touches [.engines, .ranges, .copies, .nextId] s (p).2)
    (launchCopy s j) := by
  unfold launchCopy
  split
  · next x st s' h =>
      split
      · next x1 i s1 h1 =>
          extract_lets +onlyGivenNames j1 rg
          split
          · trivial
          · change Touches _ _ _
            dsimp -zeta only
            exact Touches.trans (t := s1) ((Touches.of_snd h1 (fresh_touches ..)).after (by decide) ((Touches.of_snd h
              (newStamp_touches ..)).after (by decide) .rfl)) (.put rfl)

theorem cmdChunks_touches (s e c) : Touches [.tiles] s (cmdChunks s e c) := by
  unfold cmdChunks
  split
  · exact .rfl
  · extract_lets +onlyGivenNames id rs n
    refine .trans ?_ (.foldl (fun u a => ?_) _ _)
    · exact .rfl
    · exact (chunkDone_touches ..).after (by decide) .rfl

theorem leavePackage_touches (s n t) : Touches [.engines, .inFlight, .launches, .packets, .straits, .exits, .reports,
    .nextId] s (leavePackage s n t) := by
  unfold leavePackage
  split
  · split
    · exact (sendPkt_touches ..).after (by decide) (.put rfl)
    · exact .rfl
  · extract_lets +onlyGivenNames e
    split
    · exact (asideFault_touches ..).after (by decide) (.put rfl)
    · exact .rfl

theorem admitPkts_touches (a a1 a2) : Touches [.packets, .straits] a1 (admitPkts a a1 a2) := by
  fun_induction admitPkts a a1 a2 with
  | case1 s x => exact .rfl
  | case2 n s e st h => exact .rfl
  | case3 n s e st p ps h h1 ih =>
      exact .trans ((takePkt_touches ..).after (by decide) ((setStrait_touches ..).after (by decide) .rfl)) ih
  | case4 n s e st p ps h h1 => exact .rfl

theorem fetchMiss_touches (s t) : Touches [.walks] s (fetchMiss s t) := by
  unfold fetchMiss
  extract_lets +onlyGivenNames th
  split
  · split
    · exact (noteMiss_touches ..).after (by decide) .rfl
    · exact .rfl
  · exact .rfl

theorem issueRead_touches (s t) : Touches [.bankModes] s (issueRead s t) := by
  unfold issueRead
  extract_lets +onlyGivenNames th
  split
  · exact .rfl
  · exact (fetchRead_touches ..).after (by decide) .rfl

theorem issueOf_touches (s t) : Issued.All (Touches [.threads, .coreNext, .bankModes, .walks, .traces, .cur] s)
    (issueOf s t) := by
  unfold issueOf
  extract_lets +onlyGivenNames s1
  have hs1 : Touches [.threads, .coreNext, .bankModes, .walks, .traces, .cur] s s1 := by
    unfold s1
    exact (fetchMiss_touches ..).after (by decide) .rfl
  clear_value s1
  extract_lets +onlyGivenNames t1 th s2
  have hs2 : Touches [.threads, .coreNext, .bankModes, .walks, .traces, .cur] s s2 := by
    unfold s2
    exact hs1.trans (.put rfl)
  clear_value s2
  split
  · exact hs2
  · split
    · exact hs2
    · exact (issueRead_touches ..).after (by decide) hs2
    · split
      · exact (watchTrap_touches ..).after (by decide) hs2
      · split
        · exact (issueRead_touches ..).after (by decide) hs2
        · split
          · exact hs2
          · split
            · exact (loadErrorTrap_touches ..).after (by decide) ((modThr_touches ..).after (by decide) hs2)
            · exact (issueRead_touches ..).after (by decide) hs2

theorem finishLoad_touches (s r x id) : Touches [.inFlight, .updates, .graphs, .launches, .tiles, .retires, .ranges,
    .xfers] s (finishLoad s r x id) := by
  unfold finishLoad
  extract_lets +onlyGivenNames t img x1 tile out
  split
  · exact .rfl
  · exact (consumeToks_touches ..).after (by decide) ((emitToks_touches ..).after (by decide)
      ((dropXfer_touches ..).after (by decide) .rfl))

theorem poisonStart_touches (s f) : Touches [.threads, .engines, .updates, .allocWait, .graphs, .launches, .tiles,
    .chunkWrites, .retires, .chans, .partitions, .quotas, .reports, .traces, .nextId] s (poisonStart s f) := by
  unfold poisonStart
  split
  · exact .rfl
  · exact (poisonConsumed_touches ..).after (by decide) ((freeDests_touches ..).after (by decide)
      ((takeStart_touches ..).after (by decide) .rfl))

theorem failStart_touches (s f x) : Touches [.threads, .engines, .allocWait, .launches, .tiles, .chunkWrites, .retires,
    .chans, .walks, .partitions, .quotas, .reports, .traces, .nextId] s (failStart s f x) := by
  unfold failStart
  extract_lets +onlyGivenNames e walked
  have hwalked : Touches [.threads, .engines, .allocWait, .launches, .tiles, .chunkWrites, .retires, .chans, .walks,
    .partitions, .quotas, .reports, .traces, .nextId] s walked := by
    unfold walked
    exact (dropWalk_touches ..).after (by decide) .rfl
  clear_value walked
  split
  · exact (noteMiss_touches ..).after (by decide) .rfl
  · split
    · exact (raiseAt_touches ..).after (by decide) ((touch_touches ..).after (by decide) ((modEng_touches ..).after
        (by decide) hwalked))
    · split
      · exact .rfl
      · exact (opFault_touches ..).after (by decide) ((freeDests_touches ..).after (by decide)
          ((takeStart_touches ..).after (by decide) hwalked))

theorem endXUnit_touches (s r u out retire) : Touches [.inFlight, .updates, .graphs, .launches, .tiles, .retires,
    .xunits] s (endXUnit s r u out retire) := by
  unfold endXUnit
  split
  · exact .rfl
  · exact (consumeToks_touches ..).after (by decide) ((emitToks_touches ..).after (by decide)
      ((dropXUnit_touches ..).after (by decide) .rfl))

theorem fireXfer_touches (s f out) : Touches [.engines, .inFlight, .updates, .graphs, .launches, .tiles, .retires,
    .partitions, .quotas, .traces, .nextId] s (fireXfer s f out) := by
  unfold fireXfer
  split
  · next x i s1 h =>
      exact (consumeToks_touches ..).after (by decide) ((emitToks_touches ..).after (by decide) ((Touches.of_snd h
        (fresh_touches ..)).after (by decide) ((beginXfer_touches ..).after (by decide) .rfl)))

theorem writeLocal_touches (s f k bs) : Touches [.engines, .inFlight, .updates, .allocWait, .graphs, .launches, .tiles,
    .retires, .chans, .hbm, .l0, .ecc, .eccL0, .bankModes, .watchHolds, .partitions, .quotas, .reports, .traces,
    .nextId] s (writeLocal s f k bs) := by
  unfold writeLocal
  extract_lets +onlyGivenNames t
  split
  · exact (backToRow_touches ..).after (by decide) .rfl
  · exact (backToRow_touches ..).after (by decide) .rfl
  · next x seg pos s' h =>
      extract_lets +onlyGivenNames q s'1
      have hs'1 : Touches [.engines, .inFlight, .updates, .allocWait, .graphs, .launches, .tiles, .retires, .chans,
        .hbm, .l0, .ecc, .eccL0, .bankModes, .watchHolds, .partitions, .quotas, .reports, .traces, .nextId] s s'1 := by
        unfold s'1
        refine (watchPassed_touches ..).after (by decide) ?_
        have k1 := Touches.carry h (writePlace_touches ..)
        exact Touches.after k1 (by decide) .rfl
      clear_value s'1
      extract_lets +onlyGivenNames s'2
      have hs'2 : Touches [.engines, .inFlight, .updates, .allocWait, .graphs, .launches, .tiles, .retires, .chans,
        .hbm, .l0, .ecc, .eccL0, .bankModes, .watchHolds, .partitions, .quotas, .reports, .traces, .nextId] s s'2 := by
        unfold s'2
        split
        · exact (tokRead_touches ..).after (by decide) hs'1
        · exact hs'1
      clear_value s'2
      extract_lets +onlyGivenNames ord
      split
      · exact .rfl
      · split
        · next x1 v h2 =>
            have k1 := Touches.carry h2 (recGate_touches ..)
            exact Touches.after k1 (by decide) .rfl
        · exact (fireXfer_touches ..).after (by decide) ((landRec_touches ..).after (by decide)
            ((reserveRec_touches ..).after (by decide) hs'2))

theorem writeRecord_touches (s f k bs) : Touches [.engines, .inFlight, .updates, .allocWait, .graphs, .launches,
    .tiles, .retires, .chans, .hbm, .l0, .ecc, .eccL0, .bankModes, .watchHolds, .xunits, .packets, .inbox, .straits,
    .exits, .partitions, .quotas, .reports, .traces, .nextId] s (writeRecord s f k bs) := by
  unfold writeRecord
  split
  · exact (writeLocal_touches ..).after (by decide) .rfl
  · exact (writeRemote_touches ..).after (by decide) .rfl

theorem queueRead_touches (s e part va n) : Touches [.bankModes, .walks] s (queueRead s e part va n) := by
  unfold queueRead
  split
  · refine .trans ?_ (.foldl (fun u a => ?_) _ _)
    · exact .rfl
    · split
      · exact .rfl
      · exact (readHbm_touches ..).after (by decide) .rfl
  · split
    · exact (noteMiss_touches ..).after (by decide) .rfl
    · exact (dropWalk_touches ..).after (by decide) .rfl

theorem queueReads_touches (s pkg die q) : Touches [.bankModes, .walks] s (queueReads s pkg die q) := by
  unfold queueReads
  extract_lets +onlyGivenNames c e
  split
  · exact .rfl
  · split
    · exact (queueRead_touches ..).after (by decide) ((queueRead_touches ..).after (by decide) .rfl)
    · exact (queueRead_touches ..).after (by decide) .rfl

theorem dispatchSent_touches (s r u) : Touches [.threads, .engines, .allocWait, .launches, .tiles, .chunkWrites,
    .retires, .memTiles, .chans, .xunits, .partitions, .quotas, .reports, .traces, .nextId] s (dispatchSent s r u) := by
  unfold dispatchSent
  extract_lets +onlyGivenNames n16 imgs s1
  have hs1 : Touches [.threads, .engines, .allocWait, .launches, .tiles, .chunkWrites, .retires, .memTiles, .chans,
    .xunits, .partitions, .quotas, .reports, .traces, .nextId] s s1 := by
    unfold s1
    exact .put rfl
  clear_value s1
  extract_lets +onlyGivenNames s2
  have hs2 : Touches [.threads, .engines, .allocWait, .launches, .tiles, .chunkWrites, .retires, .memTiles, .chans,
    .xunits, .partitions, .quotas, .reports, .traces, .nextId] s s2 := by
    unfold s2
    refine .trans ?_ (.foldl (fun u a => ?_) _ _)
    · exact hs1
    · exact (beginImage_touches ..).after (by decide) .rfl
  clear_value s2
  split
  · split
    · exact (opFault_touches ..).after (by decide) ((freeDests_touches ..).after (by decide)
        ((dropXUnit_touches ..).after (by decide) .rfl))
    · exact .rfl
  · exact (modXUnit_touches ..).after (by decide) hs2

theorem takeColour_touches (s k hold lid cl) : Touches [.graphs] s (takeColour s k hold lid cl) := by
  unfold takeColour
  split
  · refine (holdLive_touches ..).after (by decide) ?_
    split
    · exact (modCol_touches ..).after (by decide) .rfl
    · exact .rfl
  · extract_lets +onlyGivenNames s1
    have hs1 : Touches [.graphs] s s1 := by
      unfold s1
      exact (modRegion_touches ..).after (by decide) .rfl
    clear_value s1
    extract_lets +onlyGivenNames s2
    have hs2 : Touches [.graphs] s s2 := by
      unfold s2
      split
      · exact (holdLive_touches ..).after (by decide) hs1
      · exact hs1
    clear_value s2
    exact (holdLive_touches ..).after (by decide) hs2

theorem inject_touches (s pkg part d id) : onOk (Touches [.graphs, .launches, .sources] s)
    (inject s pkg part d id) := by
  unfold inject
  split
  · trivial
  · trivial
  · split
    · trivial
    · extract_lets +onlyGivenNames tile ks k outer r s1
      have hs1 : Touches [.graphs, .launches, .sources] s s1 := by
        unfold s1
        exact (takeColour_touches ..).after (by decide) .rfl
      clear_value s1
      extract_lets +onlyGivenNames x3
      split
      · trivial
      · exact (touch_touches ..).after (by decide) (hs1.trans (.put rfl))

theorem rowDone_touches (s u rep d) : Touches [.xunits] s (rowDone s u rep d) := by
  unfold rowDone
  exact (modXUnit_touches ..).after (by decide) .rfl

theorem reencode_touches (s x) : Touches [.ecc, .eccL0, .bankModes] s (reencode s x) := by
  unfold reencode
  extract_lets +onlyGivenNames bad
  exact (setEcc_touches ..).after (by decide) ((eccRead_touches ..).after (by decide) .rfl)

theorem stepCmd_touches (s k n c m) : Touches [.threads, .tiles, .reqs, .streams, .lanes] s (stepCmd s k n c m) := by
  unfold stepCmd
  extract_lets +onlyGivenNames c1
  split
  · refine (endCmd_touches ..).after (by decide) ?_
    split
    · exact (cmdChunks_touches ..).after (by decide) .rfl
    · exact .rfl
  · exact (setCmd_touches ..).after (by decide) .rfl

theorem stepBoth_touches (s k n c b d) : Touches [.threads, .tiles, .reqs, .streams, .lanes] s
    (stepBoth s k n c b d) := by
  unfold stepBoth
  exact (stepCmd_touches ..).after (by decide) ((stepCmd_touches ..).after (by decide) .rfl)

theorem performHeld_touches (s x) : PutRec.All (Touches [.graphs, .launches, .sources, .chans, .hbm, .l0, .ecc, .eccL0,
    .bankModes, .partitions, .quotas, .wheels, .traces, .nextId] s) (performHeld s x) := by
  unfold performHeld
  split
  · extract_lets +onlyGivenNames c
    split
    · exact .rfl
    · exact PutRec.All.imp (fun _ k => k.after (by decide) .rfl) (putRec_touches ..)
  · split
    · next x1 i s1 h =>
        split
        · next x2 v h1 =>
            split
            · trivial
            · change Touches _ _ _
              have k := Touches.carry h1 (inject_touches ..)
              exact Touches.after k (by decide) ((Touches.of_snd h (fresh_touches ..)).after (by decide) .rfl)
        · exact (Touches.of_snd h (fresh_touches ..)).after (by decide) .rfl
  · exact (addTimer_touches ..).after (by decide) ((touchTwset_touches ..).after (by decide) .rfl)

theorem performAll_touches (s a) : Touches [.graphs, .launches, .sources, .chans, .hbm, .l0, .ecc, .eccL0, .bankModes,
    .partitions, .quotas, .wheels, .traces, .nextId] s (performAll s a).1 := by
  fun_induction performAll s a with
  | case1 s =>
    dsimp -zeta only
    exact .rfl
  | case2 s x xs s1 h ih =>
    refine .trans ?_ ih
    have k := Touches.carry h (performHeld_touches ..)
    exact Touches.after k (by decide) .rfl
  | case3 s x xs h =>
    dsimp -zeta only
    exact .rfl
  | case4 s x xs a n h =>
    dsimp -zeta only
    exact .rfl

theorem closeOuter_touches (s rd l) : Touches [.threads, .graphs, .launches, .sources, .chans, .hbm, .l0, .ecc, .eccL0,
    .bankModes, .partitions, .quotas, .wheels, .traces, .nextId] s (closeOuter s rd l) := by
  unfold closeOuter
  split
  · exact .rfl
  · extract_lets +onlyGivenNames r
    split
    · refine (finish_touches ..).after (by decide) ?_
      refine (modCur_touches ..).after (by decide) ?_
      unfold r
      exact (performAll_touches ..).after (by decide) .rfl
    · extract_lets +onlyGivenNames s1
      have hs1 : Touches [.threads, .graphs, .launches, .sources, .chans, .hbm, .l0, .ecc, .eccL0, .bankModes,
        .partitions, .quotas, .wheels, .traces, .nextId] s s1 := by
        unfold s1
        refine (modCur_touches ..).after (by decide) ?_
        unfold r
        exact (performAll_touches ..).after (by decide) .rfl
      clear_value s1
      split
      · exact (quotaTrap_touches ..).after (by decide) hs1
      · exact hs1

theorem closeLevel_touches (s rd) : Touches [.threads, .graphs, .launches, .sources, .chans, .hbm, .l0, .ecc, .eccL0,
    .bankModes, .partitions, .quotas, .wheels, .traces, .nextId] s (closeLevel s rd) := by
  unfold closeLevel
  extract_lets +onlyGivenNames ls up
  split
  · exact (finish_touches ..).after (by decide) .rfl
  · exact (closeOuter_touches ..).after (by decide) .rfl
  · exact (finish_touches ..).after (by decide) ((modCur_touches ..).after (by decide) .rfl)

theorem landWrite_touches (s n p k ord chunk bs) : Touches [.chans, .hbm, .l0, .ecc, .eccL0, .bankModes, .watchHolds,
    .inbox, .reports, .nextId] s (landWrite s n p k ord chunk bs) := by
  unfold landWrite
  split
  · exact (dropInbox_touches ..).after (by decide) .rfl
  · split
    · exact .rfl
    · split
      · next x1 v h2 =>
          have k1 := Touches.carry h2 (recGate_touches ..)
          exact Touches.after k1 (by decide) .rfl
      · exact (landPart_touches ..).after (by decide) ((watchPassed_touches ..).after (by decide)
          ((dropInbox_touches ..).after (by decide) .rfl))

theorem modAct_touches (s e a f) : Touches [.engines] s (modAct s e a f) := by
  unfold modAct
  extract_lets +onlyGivenNames g
  exact (modEng_touches ..).after (by decide) .rfl

theorem addContrib_touches (s pkg g c) : Touches [.groups] s (addContrib s pkg g c) := by
  unfold addContrib
  exact (modGroup_touches ..).after (by decide) .rfl

theorem balFault_touches (s k t) : Touches [.engines, .launches, .reports] s (balFault s k t) := by
  unfold balFault
  extract_lets +onlyGivenNames v
  exact (asideFault_touches ..).after (by decide) .rfl

theorem addBal_touches (s k d) : Touches [.graphs] s (addBal s k d) := by
  unfold addBal
  split
  · exact .rfl
  · exact (modCol_touches ..).after (by decide) .rfl

theorem signalEvent_touches (s pkg l) : Touches [.hbm, .ecc, .eccL0, .bankModes] s (signalEvent s pkg l) := by
  unfold signalEvent
  extract_lets +onlyGivenNames e
  split
  · exact .rfl
  · split
    · extract_lets +onlyGivenNames s1
      have hs1 : Touches [.hbm, .ecc, .eccL0, .bankModes] s s1 := by
        unfold s1
        exact (writeHbm_touches ..).after (by decide) .rfl
      clear_value s1
      extract_lets +onlyGivenNames c
      exact (writeHbm_touches ..).after (by decide) hs1
    · exact .rfl

theorem finishLaunch_touches (s pkg lid) : Touches [.threads, .engines, .allocWait, .launches, .launchQs, .tiles,
    .chans, .hbm, .ecc, .eccL0, .bankModes, .groups, .partitions, .quotas, .reports, .traces, .nextId] s
    (finishLaunch s pkg lid) := by
  unfold finishLaunch
  split
  · exact .rfl
  · extract_lets +onlyGivenNames s1
    have hs1 : Touches [.threads, .engines, .allocWait, .launches, .launchQs, .tiles, .chans, .hbm, .ecc, .eccL0,
      .bankModes, .groups, .partitions, .quotas, .reports, .traces, .nextId] s s1 := by
      unfold s1
      exact (signalEvent_touches ..).after (by decide) ((detachLaunch_touches ..).after (by decide) .rfl)
    clear_value s1
    extract_lets +onlyGivenNames t s2
    have hs2 : Touches [.threads, .engines, .allocWait, .launches, .launchQs, .tiles, .chans, .hbm, .ecc, .eccL0,
      .bankModes, .groups, .partitions, .quotas, .reports, .traces, .nextId] s s2 := by
      unfold s2
      split
      · exact (setEvent_touches ..).after (by decide) hs1
      · exact hs1
    clear_value s2
    exact (reevalAll_touches ..).after (by decide) (hs2.trans (.put rfl))

theorem countEntry_touches (s e key value count size) : Touches [.engines] s (countEntry s e key value count size) := by
  unfold countEntry
  exact (modEng_touches ..).after (by decide) .rfl

theorem tryDraw_touches (s f region hold) : onSum (fun p => Touches [.graphs, .launches, .traces] s (p).2)
    (fun p => Touches [.graphs, .launches, .traces] s p) (tryDraw s f region hold) := by
  unfold tryDraw
  extract_lets +onlyGivenNames e mine ds put
  have hput : ∀ u0 a1, Touches [.graphs, .launches, .traces] u0 (put u0 a1) := by
    intro u0 a1
    unfold put
    exact (modRegion_touches ..).after (by decide) .rfl
  extract_lets +onlyGivenNames wait
  have hwait : Touches [.graphs, .launches, .traces] s wait := by
    unfold wait
    split
    · exact .rfl
    · exact .trans ((touch_touches ..).after (by decide) .rfl) (hput ..)
  clear_value wait
  split
  · split
    · next x c s1 h1 =>
        change Touches _ _ _
        dsimp -zeta only
        split
        · refine (stageTrace_touches ..).after (by decide) ?_
          have k := Touches.carry h1 (drawColour_touches ..)
          exact Touches.after k (by decide) (.trans .rfl (hput ..))
        · have k := Touches.carry h1 (drawColour_touches ..)
          exact Touches.after k (by decide) (.trans .rfl (hput ..))
    · exact hwait
  · exact hwait

theorem blockElement_touches (s f k) : Touches [.engines, .launches, .reports] s (blockElement s f k) := by
  unfold blockElement
  extract_lets +onlyGivenNames e b s1
  have hs1 : Touches [.engines, .launches, .reports] s s1 := by
    unfold s1
    exact (modEng_touches ..).after (by decide) .rfl
  clear_value s1
  exact (failBlocked_touches ..).after (by decide) hs1

theorem writeLine_touches (s o b bs) : Touches [.hbm, .l0, .ecc, .eccL0, .bankModes] s (writeLine s o b bs) := by
  unfold writeLine
  refine .trans ?_ (.foldl (fun u a => ?_) _ _)
  · exact .rfl
  · extract_lets +onlyGivenNames lo
    exact (writeUnit_touches ..).after (by decide) .rfl

theorem failXfer_touches (s r x cause tval) : Touches [.threads, .engines, .allocWait, .launches, .tiles, .chunkWrites,
    .retires, .chans, .xfers, .partitions, .quotas, .reports, .traces, .nextId] s (failXfer s r x cause tval) := by
  unfold failXfer
  extract_lets +onlyGivenNames s1
  have hs1 : Touches [.threads, .engines, .allocWait, .launches, .tiles, .chunkWrites, .retires, .chans, .xfers,
    .partitions, .quotas, .reports, .traces, .nextId] s s1 := by
    unfold s1
    split
    · exact (reevalAll_touches ..).after (by decide) ((freeTile_touches ..).after (by decide) .rfl)
    · exact .rfl
  clear_value s1
  exact (modXfer_touches ..).after (by decide) ((opFault_touches ..).after (by decide) hs1)

theorem sectorBack_touches (s r x q) : Touches [.threads, .engines, .inFlight, .updates, .allocWait, .graphs,
    .launches, .tiles, .chunkWrites, .retires, .memTiles, .chans, .reqs, .ranges, .xfers, .partitions, .quotas,
    .reports, .traces, .nextId] s (sectorBack s r x q) := by
  unfold sectorBack
  extract_lets +onlyGivenNames s0
  have hs0 : Touches [.threads, .engines, .inFlight, .updates, .allocWait, .graphs, .launches, .tiles, .chunkWrites,
    .retires, .memTiles, .chans, .reqs, .ranges, .xfers, .partitions, .quotas, .reports, .traces, .nextId] s s0 := by
    unfold s0
    exact .rfl
  clear_value s0
  extract_lets +onlyGivenNames s1
  have hs1 : Touches [.threads, .engines, .inFlight, .updates, .allocWait, .graphs, .launches, .tiles, .chunkWrites,
    .retires, .memTiles, .chans, .reqs, .ranges, .xfers, .partitions, .quotas, .reports, .traces, .nextId] s s1 := by
    unfold s1
    exact (dropReq_touches ..).after (by decide) .rfl
  clear_value s1
  extract_lets +onlyGivenNames room s2
  have hs2 : Touches [.threads, .engines, .inFlight, .updates, .allocWait, .graphs, .launches, .tiles, .chunkWrites,
    .retires, .memTiles, .chans, .reqs, .ranges, .xfers, .partitions, .quotas, .reports, .traces, .nextId] s s2 := by
    unfold s2
    split
    · exact (logError_touches ..).after (by decide) hs1
    · exact hs1
  clear_value s2
  split
  · exact (dropFailed_touches ..).after (by decide) hs1
  · split
    · split
      · exact hs0
      · exact (dropFailed_touches ..).after (by decide) ((failXfer_touches ..).after (by decide) hs1)
    · split
      · exact hs1
      · extract_lets +onlyGivenNames t y go s3
        have hs3 : Touches [.threads, .engines, .inFlight, .updates, .allocWait, .graphs, .launches, .tiles,
          .chunkWrites, .retires, .memTiles, .chans, .reqs, .ranges, .xfers, .partitions, .quotas, .reports, .traces,
          .nextId] s s3 := by
          unfold s3
          refine .trans ?_ (.foldl (fun u a => ?_) _ _)
          · exact hs2
          · exact (loadBegin_touches ..).after (by decide) .rfl
        clear_value s3
        extract_lets +onlyGivenNames y1 s4
        have hs4 : Touches [.threads, .engines, .inFlight, .updates, .allocWait, .graphs, .launches, .tiles,
          .chunkWrites, .retires, .memTiles, .chans, .reqs, .ranges, .xfers, .partitions, .quotas, .reports, .traces,
          .nextId] s s4 := by
          unfold s4
          exact (modXfer_touches ..).after (by decide) hs3
        clear_value s4
        split
        · split
          · exact hs0
          · exact (dropFailed_touches ..).after (by decide) ((failXfer_touches ..).after (by decide) hs1)
        · split
          · exact (loadDone_touches ..).after (by decide) hs4
          · exact hs4

theorem startStore_touches (e f s) : Touches [.threads, .engines, .updates, .allocWait, .graphs, .launches, .tiles,
    .chunkWrites, .retires, .chans, .walks, .ranges, .xfers, .partitions, .quotas, .reports, .traces, .nextId] s
    (startStore e f s) := by
  unfold startStore
  extract_lets +onlyGivenNames c t pois
  split
  · exact (poisonStart_touches ..).after (by decide) .rfl
  · split
    · exact (badStart_touches ..).after (by decide) .rfl
    · split
      · exact (failStart_touches ..).after (by decide) .rfl
      · split
        · exact (failStart_touches ..).after (by decide) .rfl
        · split
          · exact (failStart_touches ..).after (by decide) .rfl
          · split
            · exact .rfl
            · split
              · exact (failStart_touches ..).after (by decide) .rfl
              · split
                · exact (failStart_touches ..).after (by decide) .rfl
                · split
                  · next x4 st s' h8 =>
                      split
                      · next x5 i s1 h9 =>
                          extract_lets +onlyGivenNames rg
                          split
                          · exact .rfl
                          · exact (beginXfer_touches ..).after (by decide) (Touches.trans (t := s1) ((Touches.of_snd h9
                              (fresh_touches ..)).after (by decide) ((Touches.of_snd h8 (newStamp_touches ..)).after
                              (by decide) .rfl)) (.put rfl))

theorem lateAck_touches (s j c denied) : Touches [.bars, .reqs, .ranges, .copies] s (lateAck s j c denied) := by
  unfold lateAck
  extract_lets +onlyGivenNames j1 s1
  have hs1 : Touches [.bars, .reqs, .ranges, .copies] s s1 := by
    unfold s1
    exact (modCopy_touches ..).after (by decide) .rfl
  clear_value s1
  refine (endCopy_touches ..).after (by decide) ?_
  split
  · exact hs1
  · exact (copyBar_touches ..).after (by decide) hs1

theorem cancelPacket_touches (s pkg lid) : Touches [.threads] s (cancelPacket s pkg lid) := .put rfl

theorem chrScalar_touches (s f k bs out) : Touches [.engines, .inFlight, .updates, .graphs, .launches, .tiles,
    .retires, .xunits, .packets, .straits, .exits, .partitions, .quotas, .traces, .nextId] s
    (chrScalar s f k bs out) := by
  unfold chrScalar
  extract_lets +onlyGivenNames t
  split
  · exact (fireXfer_touches ..).after (by decide) .rfl
  · split
    · next x1 i s1 h =>
        exact (sendPkt_touches ..).after (by decide) (Touches.trans (t := s1) ((Touches.of_snd h
          (fresh_touches ..)).after (by decide) ((beginXfer_touches ..).after (by decide) .rfl)) (.put rfl))

theorem chrTile_touches (s f k id img out) : Touches [.engines, .launches, .tiles, .chunkWrites, .memTiles, .xunits,
    .packets, .straits, .exits, .partitions, .quotas, .traces, .nextId] s (chrTile s f k id img out) := by
  unfold chrTile
  extract_lets +onlyGivenNames t
  split
  · next x i s1 h =>
      extract_lets +onlyGivenNames x1 s2
      have hs2 : Touches [.engines, .launches, .tiles, .chunkWrites, .memTiles, .xunits, .packets, .straits, .exits,
        .partitions, .quotas, .traces, .nextId] s s2 := by
        unfold s2
        exact Touches.trans (t := s1) ((Touches.of_snd h (fresh_touches ..)).after (by decide)
          ((beginXfer_touches ..).after (by decide) .rfl)) (.put rfl)
      clear_value s2
      split
      · exact (beginImage_touches ..).after (by decide) hs2
      · refine .trans ?_ (.foldl (fun u a => ?_) _ _)
        · exact hs2
        · exact (sendPkt_touches ..).after (by decide) .rfl

theorem chrTake_touches (s f k q) : Touches [.threads, .engines, .inFlight, .updates, .allocWait, .graphs, .launches,
    .tiles, .chunkWrites, .retires, .memTiles, .chans, .bankModes, .watchHolds, .walks, .xunits, .packets, .straits,
    .exits, .partitions, .quotas, .reports, .traces, .nextId] s (chrTake s f k q) := by
  unfold chrTake
  extract_lets +onlyGivenNames r d far out room took
  have htook : Touches [.threads, .engines, .inFlight, .updates, .allocWait, .graphs, .launches, .tiles, .chunkWrites,
    .retires, .memTiles, .chans, .bankModes, .watchHolds, .walks, .xunits, .packets, .straits, .exits, .partitions,
    .quotas, .reports, .traces, .nextId] s took := by
    unfold took
    exact (takeRec_touches ..).after (by decide) ((watchPassed_touches ..).after (by decide)
      ((countRec_touches ..).after (by decide) .rfl))
  clear_value took
  split
  · exact .rfl
  · split
    · next x v h1 =>
        have k1 := Touches.carry h1 (recGate_touches ..)
        exact Touches.after k1 (by decide) .rfl
    · split
      · split
        · exact (poisonStart_touches ..).after (by decide) htook
        · exact .rfl
      · split
        · split
          · exact (badStart_touches ..).after (by decide) htook
          · exact .rfl
        · split
          · exact (chrScalar_touches ..).after (by decide) htook
          · split
            · exact (backToRow_touches ..).after (by decide) .rfl
            · extract_lets +onlyGivenNames x2
              split
              · exact (failStart_touches ..).after (by decide) .rfl
              · split
                · exact (failStart_touches ..).after (by decide) .rfl
                · exact (chrTile_touches ..).after (by decide) htook

theorem placeRow_touches (s r u ks bs d fb) : Touches [.chans, .xunits, .packets, .inbox, .straits, .exits, .nextId] s
    (placeRow s r u ks bs d fb) := by
  unfold placeRow
  split
  · exact .rfl
  · extract_lets +onlyGivenNames have_
    split
    · exact .rfl
    · next x1 s' h1 =>
        refine (rowDone_touches ..).after (by decide) ?_
        refine (modChan_touches ..).after (by decide) ?_
        have k1 := Touches.carry h1 (sendRecord_touches ..)
        exact Touches.after k1 (by decide) .rfl

theorem dispatchRow_touches (s r u ks) : Touches [.chans, .xunits, .packets, .inbox, .straits, .exits, .nextId] s
    (dispatchRow s r u ks) := by
  unfold dispatchRow
  extract_lets +onlyGivenNames l t bs credit
  split
  · exact (rowDone_touches ..).after (by decide) .rfl
  · split
    · exact (placeRow_touches ..).after (by decide) .rfl
    · split
      · exact .rfl
      · split
        · exact (placeRow_touches ..).after (by decide) .rfl
        · exact .rfl

theorem retireStep_touches (s n) : Touches [.threads, .tiles, .chunkWrites, .retires, .quotas] s (retireStep s n) := by
  unfold retireStep
  split
  · exact .rfl
  · extract_lets +onlyGivenNames s1
    have hs1 : Touches [.threads, .tiles, .chunkWrites, .retires, .quotas] s s1 := by
      unfold s1
      exact .put rfl
    extract_lets +onlyGivenNames t t' x1
    have hx1 : Touches [.threads, .tiles, .chunkWrites, .retires, .quotas] s x1 := by
      unfold x1
      exact (setTile_touches ..).after (by decide) hs1
    clear_value x1
    split
    · split
      · exact (freeTile_touches ..).after (by decide) hs1
      · exact hs1.trans (.put rfl)
    · split
      · exact hx1.trans (.put rfl)
      · exact (setTile_touches ..).after (by decide) hs1

theorem walkOn_touches (s w a) : Touches [.engines, .bankModes] s (walkOn s w a).1 := by
  fun_induction walkOn s w a with
  | case1 s w =>
    dsimp -zeta only
    exact .rfl
  | case2 s w l h =>
    dsimp -zeta only
    exact .rfl
  | case3 s w l o h h1 =>
    dsimp -zeta only
    exact .rfl
  | case4 s w l o h h1 x h2 =>
    dsimp -zeta only
    refine (logError_touches ..).after (by decide) ?_
    unfold x
    exact (readHbm_touches ..).after (by decide) .rfl
  | case5 s w l o h h1 x e h2 h3 =>
    dsimp -zeta only
    unfold x
    exact (readHbm_touches ..).after (by decide) .rfl
  | case6 s w l o h h1 x e h2 h3 h4 =>
    dsimp -zeta only
    unfold x
    exact (readHbm_touches ..).after (by decide) .rfl
  | case7 s w l o h h1 x e h2 h3 h4 h5 =>
    dsimp -zeta only
    unfold x
    exact (readHbm_touches ..).after (by decide) .rfl
  | case8 s w l o h h1 x e h2 h3 h4 h5 ih =>
    refine .trans ?_ ih
    unfold x
    exact (readHbm_touches ..).after (by decide) .rfl

theorem answerLaunch_touches (s pkg q idx lid) : Touches [.threads] s (answerLaunch s pkg q idx lid) := .put rfl

theorem raiseCmd_touches (s k c cause tval held) : Touches [.reports] s (raiseCmd s k c cause tval held) := by
  unfold raiseCmd
  exact (raise_touches ..).after (by decide) .rfl

theorem failCmd_touches (s k n c x) : Touches [.reqs, .walks, .streams, .lanes, .reports] s (failCmd s k n c x) := by
  unfold failCmd
  split
  · exact (noteMiss_touches ..).after (by decide) .rfl
  · extract_lets +onlyGivenNames s1
    have hs1 : Touches [.reqs, .walks, .streams, .lanes, .reports] s s1 := by
      unfold s1
      exact (dropWalk_touches ..).after (by decide) .rfl
    clear_value s1
    split
    · exact (raiseCmd_touches ..).after (by decide) ((setCmd_touches ..).after (by decide) hs1)
    · exact (raiseCmd_touches ..).after (by decide) ((dropCmd_touches ..).after (by decide) hs1)

theorem cmdRead_touches (s e c n) : onOk (fun p => onSome (fun p => Touches [.bankModes] s (p).2) p)
    (cmdRead s e c n) := by
  unfold cmdRead
  extract_lets +onlyGivenNames id t rs
  split
  · trivial
  · split
    · trivial
    · split
      · trivial
      · change Touches _ _ _
        dsimp -zeta only
        refine .trans ?_ (.foldl (fun u a => ?_) _ _)
        · exact .rfl
        · exact (countImage_touches ..).after (by decide) .rfl

theorem takeBurst_touches (s k slot c) : Touches [.bankModes, .reqs, .walks, .streams, .lanes, .packets, .straits,
    .exits, .reports, .nextId] s (takeBurst s k slot c) := by
  unfold takeBurst
  split
  · exact .rfl
  · extract_lets +onlyGivenNames n b
    split
    · split
      · exact (failCmd_touches ..).after (by decide) .rfl
      · extract_lets +onlyGivenNames ps
        exact (issueAll_touches ..).after (by decide) ((setCmd_touches ..).after (by decide) .rfl)
    · split
      · exact (failCmd_touches ..).after (by decide) .rfl
      · exact .rfl
      · next x1 bs s1 h2 =>
          refine (setCmd_touches ..).after (by decide) ?_
          have k1 := Touches.carry h2 (cmdRead_touches ..)
          exact Touches.after k1 (by decide) .rfl

theorem gotBurst_touches (s k slot c b) : Touches [.reqs, .walks, .streams, .lanes, .reports] s
    (gotBurst s k slot c b) := by
  unfold gotBurst
  extract_lets +onlyGivenNames mine
  split
  · exact (failCmd_touches ..).after (by decide) .rfl
  · exact (failCmd_touches ..).after (by decide) .rfl
  · exact (setCmd_touches ..).after (by decide) (.put rfl)

theorem writeRuns_touches (s id t a a1) : Touches [.hbm, .l0, .ecc, .eccL0, .bankModes] s (writeRuns s id t a a1) := by
  fun_induction writeRuns s id t a a1 with
  | case1 s x => exact .rfl
  | case2 s r rs bs s1 ih =>
    refine .trans ?_ ih
    unfold s1
    refine .trans ?_ (.foldl (fun u a => ?_) _ _)
    · exact .rfl
    · extract_lets +onlyGivenNames lo hi
      exact (writeUnit_touches ..).after (by decide) .rfl

theorem cmdWrite_touches (s e c bs) : onOk (Touches [.tiles, .hbm, .l0, .ecc, .eccL0, .bankModes] s)
    (cmdWrite s e c bs) := by
  unfold cmdWrite
  extract_lets +onlyGivenNames id t rs s1
  have hs1 : Touches [.tiles, .hbm, .l0, .ecc, .eccL0, .bankModes] s s1 := by
    unfold s1
    split
    · exact (modTile_touches ..).after (by decide) .rfl
    · exact .rfl
  clear_value s1
  split
  · trivial
  · split
    · trivial
    · exact (writeRuns_touches ..).after (by decide) hs1

theorem putBurst_touches (s k slot c b bs d) : Touches [.threads, .tiles, .hbm, .l0, .ecc, .eccL0, .bankModes, .reqs,
    .walks, .streams, .lanes, .packets, .straits, .exits, .reports, .nextId] s (putBurst s k slot c b bs d) := by
  unfold putBurst
  split
  · split
    · exact (failCmd_touches ..).after (by decide) .rfl
    · exact (issueAll_touches ..).after (by decide) ((setCmd_touches ..).after (by decide) .rfl)
  · split
    · exact (failCmd_touches ..).after (by decide) .rfl
    · next x s1 h1 =>
        refine (stepBoth_touches ..).after (by decide) ?_
        have k1 := Touches.carry h1 (cmdWrite_touches ..)
        exact Touches.after k1 (by decide) .rfl

theorem ackBurst_touches (s k slot c b d) : Touches [.threads, .tiles, .reqs, .walks, .streams, .lanes, .reports] s
    (ackBurst s k slot c b d) := by
  unfold ackBurst
  split
  · exact (failCmd_touches ..).after (by decide) ((setCmd_touches ..).after (by decide) .rfl)
  · exact (stepBoth_touches ..).after (by decide) (.put rfl)

theorem moveBurst_touches (s k slot c b) : Touches [.threads, .tiles, .hbm, .l0, .ecc, .eccL0, .bankModes, .reqs,
    .walks, .streams, .lanes, .packets, .straits, .exits, .reports, .nextId] s (moveBurst s k slot c b) := by
  unfold moveBurst
  extract_lets +onlyGivenNames open_
  split
  · exact (setCmd_touches ..).after (by decide) (.put rfl)
  · split
    · exact .rfl
    · split
      · split
        · exact .rfl
        · exact (gotBurst_touches ..).after (by decide) .rfl
      · split
        · exact (putBurst_touches ..).after (by decide) .rfl
        · split
          · exact .rfl
          · exact (ackBurst_touches ..).after (by decide) .rfl

theorem endKill_touches (s pkg lid) : Touches [.threads, .engines, .allocWait, .graphs, .launches, .launchQs, .tiles,
    .chunkWrites, .retires, .chans, .hbm, .ecc, .eccL0, .bankModes, .reqs, .groups, .partitions, .quotas, .reports,
    .traces, .nextId] s (endKill s pkg lid) := by
  unfold endKill
  extract_lets +onlyGivenNames die st part s1
  have hs1 : Touches [.threads, .engines, .allocWait, .graphs, .launches, .launchQs, .tiles, .chunkWrites, .retires,
    .chans, .hbm, .ecc, .eccL0, .bankModes, .reqs, .groups, .partitions, .quotas, .reports, .traces, .nextId] s s1 := by
    unfold s1
    exact (traceClass_touches ..).after (by decide) ((returnLaunch_touches ..).after (by decide) .rfl)
  clear_value s1
  extract_lets +onlyGivenNames s2
  have hs2 : Touches [.threads, .engines, .allocWait, .graphs, .launches, .launchQs, .tiles, .chunkWrites, .retires,
    .chans, .hbm, .ecc, .eccL0, .bankModes, .reqs, .groups, .partitions, .quotas, .reports, .traces, .nextId] s s2 := by
    unfold s2
    exact (finishLaunch_touches ..).after (by decide) hs1
  clear_value s2
  extract_lets +onlyGivenNames counts n
  exact hs2.trans (.put rfl)

theorem landAsync_touches (s t n a r) : Touches [.threads] s (landAsync s t n a r) := by
  unfold landAsync
  exact (modThr_touches ..).after (by decide) .rfl

theorem tryChrd_touches (rd rs1 rs2 s) : onSome (Touches [.threads, .chans, .hbm, .hostMem, .ecc, .eccL0, .bankModes,
    .walks, .traces] s) (tryChrd rd rs1 rs2 s) := by
  unfold tryChrd
  split
  · exact (finish_touches ..).after (by decide) .rfl
  · split
    · exact (opTrap_touches ..).after (by decide) .rfl
    · split
      · trivial
      · trivial
      · next x2 w s1 h2 =>
          change Touches _ _ _
          refine (finish_touches ..).after (by decide) ?_
          have k1 := Touches.carry h2 (takeFor_touches ..)
          exact Touches.after k1 (by decide) .rfl
      · next x2 s1 h2 =>
          change Touches _ _ _
          have k1 := Touches.carry h2 (takeFor_touches ..)
          exact Touches.after k1 (by decide) .rfl

theorem tryBlocked_touches (i s) : onSome (Touches [.threads, .chans, .hbm, .l0, .hostMem, .ecc, .eccL0, .bankModes,
    .walks, .streams, .partitions, .quotas, .traces, .nextId] s) (tryBlocked i s) := by
  unfold tryBlocked
  split
  · exact onSome.imp (fun _ k => k.after (by decide) .rfl) (trySbind_touches ..)
  · exact onSome.imp (fun _ k => k.after (by decide) .rfl) (tryCpywait_touches ..)
  · exact onSome.imp (fun _ k => k.after (by decide) .rfl) (tryBarwait_touches ..)
  · exact onSome.imp (fun _ k => k.after (by decide) .rfl) (tryChwr_touches ..)
  · exact onSome.imp (fun _ k => k.after (by decide) .rfl) (tryChrd_touches ..)
  · trivial

theorem killEnd_touches (s e) : Touches [.straits] s (killEnd s e) := by
  unfold killEnd
  exact (modStrait_touches ..).after (by decide) .rfl

theorem leaveEngine_touches (s n p) : Touches [.packets, .acks, .nacks, .nextId] s (leaveEngine s n p) := by
  unfold leaveEngine
  extract_lets +onlyGivenNames st
  split
  · exact (staleDrop_touches ..).after (by decide) .rfl
  · split
    · exact .rfl
    · split
      · exact .rfl
      · split
        · exact .rfl
        · exact (putPkt_touches ..).after (by decide) .rfl

theorem placeWrite_touches (s n p k ord chunk bs) : Touches [.chans, .hbm, .l0, .ecc, .eccL0, .bankModes, .watchHolds,
    .inbox, .partitions, .quotas, .reports, .traces, .nextId] s (placeWrite s n p k ord chunk bs) := by
  unfold placeWrite
  split
  · exact (modChan_touches ..).after (by decide) .rfl
  · exact (raiseAt_touches ..).after (by decide) ((breach_touches ..).after (by decide) (.put rfl))
  · next x seg pos s' h =>
      refine (landWrite_touches ..).after (by decide) ?_
      refine (reserveRec_touches ..).after (by decide) ?_
      have k1 := Touches.carry h (writePlace_touches ..)
      exact Touches.after k1 (by decide) .rfl

theorem dissolve_touches (s pkg p) : Touches [.threads, .launchQs, .copyQs, .partitions, .pageOwner, .barRuns,
    .slotTabs, .traces, .fns] s (dissolve s pkg p) := by
  unfold dissolve
  extract_lets +onlyGivenNames rs s1
  have hs1 : Touches [.threads, .launchQs, .copyQs, .partitions, .pageOwner, .barRuns, .slotTabs, .traces,
    .fns] s s1 := by
    unfold s1
    exact .put rfl
  clear_value s1
  exact (modPart_touches ..).after (by decide) hs1

theorem completeJoined_touches (s pkg p but data) : Touches [.hbm, .hostMem, .ecc, .eccL0, .bankModes, .fns] s
    (completeJoined s pkg p but data) := by
  unfold completeJoined
  refine .trans ?_ (.foldl (fun u a => ?_) _ _)
  · exact .rfl
  · split
    · split
      · exact (complete_touches ..).after (by decide) .rfl
      · exact .rfl
    · exact .rfl

theorem scrubThreads_touches (s pkg p) : Touches [.threads, .inFlight, .reqs, .quotas, .wheels, .reports, .qmReports,
    .tlb] s (scrubThreads s pkg p) := .put rfl

theorem scrubPages_touches (s pkg p) : Touches [.threads, .engines, .tiles, .chunkWrites, .retires, .memTiles, .chans,
    .bars, .l0, .eccL0, .vtiles, .islands, .partitions, .quotas] s (scrubPages s pkg p) := by
  unfold scrubPages
  extract_lets +onlyGivenNames mine l0mine ts cs s1
  have hs1 : Touches [.threads, .engines, .tiles, .chunkWrites, .retires, .memTiles, .chans, .bars, .l0, .eccL0,
    .vtiles, .islands, .partitions, .quotas] s s1 := by
    unfold s1
    refine .trans ?_ (.foldl (fun u a => ?_) _ _)
    · refine .trans ?_ (.foldl (fun u a => ?_) _ _)
      · exact .rfl
      · exact (freeTile_touches ..).after (by decide) .rfl
    · exact (freeChan_touches ..).after (by decide) .rfl
  clear_value s1
  exact hs1.trans (.put rfl)

theorem flrFinish_touches (s pkg p) : Touches [.threads, .engines, .inFlight, .allocWait, .graphs, .launches,
    .launchQs, .sources, .tiles, .chunkWrites, .retires, .memTiles, .chans, .bars, .hbm, .l0, .hostMem, .ecc, .eccL0,
    .bankModes, .reqs, .vtiles, .islands, .groups, .xunits, .partitions, .pageOn, .quotas, .wheels, .reports,
    .qmReports, .tlb, .traces, .nextId] s (flrFinish s pkg p) := by
  unfold flrFinish
  extract_lets +onlyGivenNames y y1 y2 y3 y4 y5 y6 ls s1
  have hs1 : Touches [.threads, .engines, .inFlight, .allocWait, .graphs, .launches, .launchQs, .sources, .tiles,
    .chunkWrites, .retires, .memTiles, .chans, .bars, .hbm, .l0, .hostMem, .ecc, .eccL0, .bankModes, .reqs, .vtiles,
    .islands, .groups, .xunits, .partitions, .pageOn, .quotas, .wheels, .reports, .qmReports, .tlb, .traces,
    .nextId] s s1 := by
    unfold s1
    refine .trans ?_ (.foldl (fun u a => ?_) _ _)
    · exact .rfl
    · exact (endKill_touches ..).after (by decide) .rfl
  clear_value s1
  extract_lets +onlyGivenNames gs s2
  have hs2 : Touches [.threads, .engines, .inFlight, .allocWait, .graphs, .launches, .launchQs, .sources, .tiles,
    .chunkWrites, .retires, .memTiles, .chans, .bars, .hbm, .l0, .hostMem, .ecc, .eccL0, .bankModes, .reqs, .vtiles,
    .islands, .groups, .xunits, .partitions, .pageOn, .quotas, .wheels, .reports, .qmReports, .tlb, .traces,
    .nextId] s s2 := by
    unfold s2
    refine .trans ?_ (.foldl (fun u a => ?_) _ _)
    · exact hs1
    · exact (unloadGraph_touches ..).after (by decide) .rfl
  clear_value s2
  extract_lets +onlyGivenNames s3
  have hs3 : Touches [.threads, .engines, .inFlight, .allocWait, .graphs, .launches, .launchQs, .sources, .tiles,
    .chunkWrites, .retires, .memTiles, .chans, .bars, .hbm, .l0, .hostMem, .ecc, .eccL0, .bankModes, .reqs, .vtiles,
    .islands, .groups, .xunits, .partitions, .pageOn, .quotas, .wheels, .reports, .qmReports, .tlb, .traces,
    .nextId] s s3 := by
    unfold s3
    exact (scrubThreads_touches ..).after (by decide) ((scrubPages_touches ..).after (by decide) hs2)
  clear_value s3
  extract_lets +onlyGivenNames s4
  have hs4 : Touches [.threads, .engines, .inFlight, .allocWait, .graphs, .launches, .launchQs, .sources, .tiles,
    .chunkWrites, .retires, .memTiles, .chans, .bars, .hbm, .l0, .hostMem, .ecc, .eccL0, .bankModes, .reqs, .vtiles,
    .islands, .groups, .xunits, .partitions, .pageOn, .quotas, .wheels, .reports, .qmReports, .tlb, .traces,
    .nextId] s s4 := by
    unfold s4
    exact (modPart_touches ..).after (by decide) hs3
  clear_value s4
  exact (reevalAll_touches ..).after (by decide) ((zeroQueues_touches ..).after (by decide) hs4)

theorem modSlotTab_touches (s k f) : Touches [.slotTabs] s (modSlotTab s k f) := by
  unfold modSlotTab
  exact (setSlotTab_touches ..).after (by decide) .rfl

theorem setCopyQ_touches (s k v) : Touches [.copyQs] s (setCopyQ s k v) := .put rfl

theorem joinMilestone_touches (s e m) : Touches [.packets, .straits, .packages] s (joinMilestone s e m) := by
  unfold joinMilestone
  extract_lets +onlyGivenNames t
  have ht : Touches [.packets, .straits, .packages] s t := by
    unfold t
    exact (modStrait_touches ..).after (by decide) .rfl
  clear_value t
  split
  · exact ht
  · exact (resendAll_touches ..).after (by decide) ht

theorem freeStep_touches (s) : Touches [.freeCount] s (freeStep s) := .put rfl

theorem readParts_touches (s ibase a) : Touches [.bankModes] s (readParts s ibase a).2 := by
  fun_induction readParts s ibase a with
  | case1 s =>
    dsimp -zeta only
    exact .rfl
  | case2 s va n ps r q ih =>
    dsimp -zeta only
    unfold q
    refine .trans ?_ ih
    unfold r
    split
    · extract_lets +onlyGivenNames x1
      dsimp -zeta only
      unfold x1
      exact (readPieces_touches ..).after (by decide) .rfl
    · dsimp -zeta only
      exact .rfl

theorem appendSlot_touches (s base log2 body) : onOk (fun p => Touches [.hbm, .hostMem, .ecc, .eccL0, .bankModes] s
    (p).2) (appendSlot s base log2 body) := by
  unfold appendSlot
  split
  · trivial
  · trivial
  · extract_lets +onlyGivenNames wi n
    split
    · trivial
    · split
      · trivial
      · change Touches _ _ _
        dsimp -zeta only
        exact (writePieces_touches ..).after (by decide) ((writePieces_touches ..).after (by decide) .rfl)

theorem launchRecord_touches (s rd r) : Touches [.threads, .hbm, .hostMem, .ecc, .eccL0, .bankModes, .walks, .traces] s
    (launchRecord s rd r) := by
  unfold launchRecord
  split
  · exact (asyncDone_touches ..).after (by decide) .rfl
  · split
    · exact (asyncDone_touches ..).after (by decide) .rfl
    · split
      · exact (opTrap_touches ..).after (by decide) .rfl
      · exact (asyncDone_touches ..).after (by decide) .rfl
      · next x2 i s1 h2 =>
          refine (asyncIssue_touches ..).after (by decide) ?_
          have k := Touches.carry h2 (appendSlot_touches ..)
          exact Touches.after k (by decide) .rfl

theorem takeTurn_touches (s) : Touches [.agenda, .tick] s (takeTurn s).2 := by
  unfold takeTurn
  split
  · dsimp -zeta only
    exact .put rfl
  · dsimp -zeta only
    exact .put rfl

end Sys2Proof.Machine
end

section
/-!
PROOFS. Proofs/FootprintsOfLoops.lean: the footprints of the operations that take a function,
  search or recur through others.
-/
namespace Sys2Proof.Machine

theorem runCmd_touches {l : List Field} {s : State} {pkg fn : Nat} {mine : Cmd → Bool} {f : Cmd → Answered}
    (hl : [.hbm, .hostMem, .ecc, .eccL0, .bankModes, .fns] ⊆ l) (hf : ∀ c, (f c).All (Touches l s)) :
    Touches l s (runCmd s pkg fn mine f) := by
  unfold runCmd
  split
  · exact .rfl
  · next c _ _ =>
      split
      · exact .rfl
      · split
        · exact (complete_touches ..).mono hl
        · have hc := hf c
          split
          · next h => rw [h] at hc; exact hc
          · next h => rw [h] at hc; exact (complete_touches ..).after hl hc

theorem blockOn_touches {l : List Field} {s : State} {i : Instr} {r : Option State} (hl : .threads ∈ l)
    (hr : onSome (Touches l s) r) : Touches l s (blockOn s i r) := by
  cases r with
  | some t => exact hr
  | none => exact (modCur_touches ..).mono (by simpa using hl)

/-! The equations of these two keep the search for a free place folded: unfolding would run it. -/

theorem reserveLines_cons (s : State) (key : Nat × Nat) (k : Nat) (ks : List Nat) : reserveLines s key (k :: ks) =
    match (getGraph s key).bind fun g => g.ops[k]? with
    | none => reserveLines s key ks
    | some o =>
      if opKind o ≠ 0x15 then reserveLines s key ks
      else
        let n := 2 ^ (bits (opCfg o 0) 62 60 + 2)
        let others := modGraph s key fun g => { g with ops := lmod k (fun o => { o with eng := default }) g.ops }
        match findUnits others o.eng n with
        | none => none
        | some u =>
          reserveLines (modGraph s key fun g => { g with ops := lmod k (fun o => { o with lineOff := u }) g.ops }) key
            ks := by
  delta reserveLines reserveLines._f
  generalize @findUnits = fu
  rfl

theorem openChans_cons (pkg die part agid h : Nat) (c : ChanRec × Nat) (cs : List (ChanRec × Nat)) (s : State)
    (l : List (Nat × Nat)) : openChans pkg die part agid h (c :: cs) s l =
    match s.chans.find? fun x => decide (x.1.1 = pkg) && decide (x.2.state ≠ 0) && decide (x.2.part = part) &&
        decide (x.2.name = c.1.name) with
    | some (k, x) =>
      if x.ownerThread.isSome ∨ x.rlog ≠ c.1.rlog ∨ x.glog ≠ c.1.glog ∨ x.cap ≠ c.1.cap ∨ x.grow ≠ c.1.grow then
        .error (recRefuse 8 c.2)
      else openChans pkg die part agid h cs (modChan s k fun x => { x with grefs := x.grefs + 1 })
        (l ++ [(k.2.1, k.2.2)])
    | none =>
      match freeChanIdx s pkg die, placeRing s pkg die part c.1.glog with
      | some i, some (p, m, o) =>
        let new : Chan := { name := c.1.name, part := part, agid := agid, state := 1, rlog := c.1.rlog,
                            glog := c.1.glog, grow := c.1.grow, cap := c.1.cap, rpage := p, rmt := m, roff := o,
                              ownerGraph := h, grefs := 1 }
        openChans pkg die part agid h cs (setChan s (pkg, die, i) new) (l ++ [(die, i)])
      | _, _ => .error (errWord 0x03) := by
  delta openChans openChans._f
  generalize @freeChanIdx = fc
  rfl

theorem reserveLines_touches (s key ks) : onSome (Touches [.graphs] s) (reserveLines s key ks) := by
  induction ks generalizing s with
  | nil => exact Touches.rfl
  | cons k ks ih =>
    rw [reserveLines_cons]
    split
    · exact ih s
    · split
      · exact ih s
      · extract_lets n others
        split
        · trivial
        · exact onSome.imp (fun _ k => (modGraph_touches ..).trans k) (ih _)

theorem openChans_touches (pkg die part agid h cs s l) :
    onOk (fun p => Touches [.chans] s p.1) (openChans pkg die part agid h cs s l) := by
  induction cs generalizing s l with
  | nil => exact Touches.rfl
  | cons c cs ih =>
    rw [openChans_cons]
    split
    · split
      · trivial
      · exact onOk.imp (fun _ k => (modChan_touches ..).trans k) (ih _ _)
    · split
      · exact onOk.imp (fun _ k => (setChan_touches ..).trans k) (ih _ _)
      · trivial

theorem commitGraph_touches (s0 pkg part agid ibase i o reloc) : Touches [.engines, .graphs, .tiles, .chans, .hbm, .l0,
    .ecc,
    .eccL0, .bankModes, .vtiles, .badPages, .partitions, .pageOn, .quotas] s0
    (commitGraph s0 pkg part agid ibase i o reloc).1 := by
  unfold commitGraph
  extract_lets d es rs ts cs ps full g0
  split
  · next _ _ _ s recs _ _ _ hd =>
      have hd := Touches.carry hd (declareAll_touches ..)
      extract_lets ops1 ops2 g _
      split
      · exact .rfl
      · next s1 h1 =>
          have h1 := Touches.carry h1 (reserveLines_touches ..)
          split
          · exact .rfl
          · next s2 ks h2 =>
              have h2 := Touches.carry h2 (openChans_touches ..)
              extract_lets s3
              have h3 : Touches [.graphs, .chans, .partitions] s0 s3 :=
                (modGraph_touches ..).after (by decide) (Touches.after h2 (by decide) (Touches.after h1 (by decide)
                  ((setGraph_touches ..).after (by decide) (Touches.after hd (by decide) .rfl))))
              split
              · exact .rfl
              · split
                · exact .rfl
                · next s4 h4 =>
                    have h4 := Touches.carry h4 (initTiles_touches ..)
                    split
                    · next h5 =>
                        have h5 := Touches.carry h5 (pageError_touches ..)
                        exact Touches.after h5 (by decide) .rfl
                    · exact (powerPages_touches ..).after (by decide) ((freshSlots_touches ..).after (by decide)
                        (Touches.after h4 (by decide) (h3.mono (by decide))))
  · exact .rfl

theorem restoreSet_touches (s d key reloc) : onSome (Touches [.engines, .allocWait, .graphs, .launches, .sources,
    .tiles,
    .chans, .hbm, .l0, .ecc, .eccL0, .bankModes, .vtiles, .islands, .groups, .xunits, .partitions, .pageOn, .quotas,
      .wheels,
    .nextId] s) (restoreSet s d key reloc) := by
  unfold restoreSet
  extract_lets g m0
  split
  · trivial
  · extract_lets m g1
    split
    · trivial
    · next h1 =>
        have h1 := Touches.carry h1 (reserveLines_touches ..)
        extract_lets m1
        split
        · trivial
        · next h2 =>
            have h2 := Touches.carry h2 (restoreTiles_touches ..)
            refine onSome.map fun a h3 => ?_
            have h3 := Touches.carry h3 (restoreEngs_touches ..)
            exact (powerPages_touches ..).after (by decide) ((endsTo_touches ..).after (by decide)
              ((restoreRest_touches ..).after (by decide) (Touches.after h3 (by decide) (Touches.after h2 (by decide)
              ((restoreLines_touches ..).after (by decide) (Touches.after h1 (by decide)
              ((setGraph_touches ..).after (by decide) .rfl)))))))

theorem startGang_touches (s pkg q ms) : onSome (Touches [.updates, .graphs, .launches, .launchQs, .breaks, .sources,
    .chans,
    .groups, .reports, .traces, .nextId] s) (startGang s pkg q ms) := by
  unfold startGang
  split
  · exact (failGang_touches ..).after (by decide) ((modLaunchQ_touches ..).after (by decide) .rfl)
  · split
    · exact (failGang_touches ..).after (by decide) .rfl
    · split
      · exact (failGang_touches ..).after (by decide) .rfl
      · next s1 h1 =>
          have h1 := Touches.carry h1 (onOk.foldl_bind (fun u m => resolveMember_touches pkg u m) ms s
            (.ok s) Touches.rfl)
          refine onSome.map fun s2 h2 => ?_
          have h2 := Touches.carry h2 (drawRoots_touches ..)
          exact .trans ((leaveWindow_touches ..).after (by decide) (Touches.after h2 (by decide) (Touches.mono h1
            (by decide))))
            (.foldl (fun _ _ => (fireMember_touches ..).mono (by decide)) _ _)

theorem checked_touches {l : List Field} {s : State} {e : Eng} {r : OpRef} {u : Run} {go : State → State}
    (hl : [.threads, .engines, .updates, .allocWait, .graphs, .launches, .tiles, .chunkWrites, .retires, .chans,
      .islands,
      .partitions, .quotas, .reports, .traces, .nextId] ⊆ l) (hg : Touches l s (go s)) : Touches l s
        (checked s e r u go) := by
  unfold checked
  split
  · split
    · exact .rfl
    · exact .mono ((silentData_touches ..).after (by decide) ((abortRun_touches ..).after (by decide) .rfl)) hl
  · exact hg

theorem course_touches {l : List Field} {s : State} {e : Eng} {kind mode : Nat} {fault : State → Start → Option
    (Nat × Nat)}
    {work : State → OpRef → Run → State}
    (hl : [.threads, .engines, .inFlight, .updates, .allocWait, .graphs, .launches, .tiles, .chunkWrites, .retires,
      .chans,
      .islands, .partitions, .quotas, .reports, .traces, .nextId] ⊆ l) (hw : ∀ r u, Touches l s (work s r u)) :
    Touches l s (course s e kind mode fault work) := by
  unfold course
  split
  · split
    · exact (emitTile_touches ..).after (List.Subset.trans (by decide) hl) .rfl
    · split
      · exact .rfl
      · exact checked_touches (List.Subset.trans (by decide) hl) (hw _ _)
  · split
    · exact (startRun_touches ..).after (List.Subset.trans (by decide) hl) .rfl
    · exact .rfl

theorem sendAll_touches (s src p qs) : onSome (Touches [.packets, .straits, .exits, .nextId] s)
    (sendAll s src p qs) := by
  induction qs generalizing s with
  | nil => unfold sendAll; exact Touches.rfl
  | cons q qs ih =>
    unfold sendAll
    exact onSome.bind fun e _ => onSome.imp (fun _ k => ((sendPkt_touches ..).mono (by decide)).trans k) (ih _)

theorem restoreMoved_touches (xs s) : onSome (Touches [.engines, .allocWait, .graphs, .launches, .sources, .tiles,
    .chans, .hbm, .l0, .ecc, .eccL0, .bankModes, .vtiles, .islands, .groups, .xunits, .partitions, .pageOn, .quotas,
      .wheels,
    .nextId] s) (restoreMoved xs s) := by
  induction xs generalizing s with
  | nil => unfold restoreMoved; exact Touches.rfl
  | cons x xs ih =>
    unfold restoreMoved
    split
    · trivial
    · next h =>
        have h := Touches.carry h (restoreSet_touches ..)
        exact onSome.imp (fun _ k => Touches.trans h k) (ih _)

theorem svcReads_touches (s pkg fn va n) : Touches [.engines, .bankModes] s (svcReads s pkg fn va n) := by
  unfold svcReads
  split
  · refine .getD (fun u hu => ?_) ((coreWalks_touches ..).after (by decide) .rfl)
    obtain ⟨ps, -, rfl⟩ := Option.map_eq_some_iff.1 hu
    exact (readPieces_touches ..).after (by decide) ((coreWalks_touches ..).after (by decide) .rfl)
  · exact .rfl

theorem meetTrigger_touches (s r t) : onSum (Touches [.engines, .inFlight, .updates, .graphs, .launches, .tiles,
    .retires,
    .partitions, .quotas, .wheels, .reports, .stops, .traces, .nextId] s) (fun _ => True) (meetTrigger s r t) := by
  unfold meetTrigger
  extract_lets e vrow dl
  split
  · split
    next h => exact (consumeTok_touches ..).after (by decide) ((Touches.of_snd h (fresh_touches ..)).mono (by decide))
  · split
    · exact (asideFault_touches ..).after (by decide) .rfl
    · split
      · next s1 h1 =>
          have h1 := Touches.carry h1 (makeRoom_touches ..)
          extract_lets now d u1 u2
          clear_value d
          have hu : Touches [.graphs, .wheels, .nextId] s1 u2 := by
            unfold u2
            split
            · exact (addTimer_touches ..).after (by decide) ((holdLive_touches ..).after (by decide) .rfl)
            · exact (holdLive_touches ..).after (by decide) .rfl
          clear_value u2
          split
          next q s2 h2 =>
          have h2 : Touches [.graphs, .wheels, .nextId] s1 s2 := by
            split at h2 <;> cases h2
            · exact .rfl
            · exact hu
          extract_lets q1 s3
          split
          next h4 =>
          exact (evalTrigger_touches ..).after (by decide) ((applyStops_touches ..).after (by decide)
            ((consumeTok_touches ..).after (by decide) (.trans ((modEng_touches ..).after (by decide)
            (.trans (Touches.mono h1 (by decide)) (h2.mono (by decide)))) ((Touches.of_snd h4 (fresh_touches ..)).mono
              (by decide)))))
      · trivial

theorem meetRow_touches (s r t) : onSum (Touches [.engines, .updates, .allocWait, .graphs, .launches, .tiles, .retires,
    .chans, .partitions, .quotas, .reports, .stops, .traces, .nextId] s) (fun _ => True) (meetRow s r t) := by
  unfold meetRow
  extract_lets e vrow x q
  split
  · split
    next h => exact (consumeTok_touches ..).after (by decide) ((Touches.of_snd h (fresh_touches ..)).mono (by decide))
  · split
    · exact (asideFault_touches ..).after (by decide) .rfl
    · split
      · exact (asideFault_touches ..).after (by decide) .rfl
      · split
        · exact (opFault_touches ..).after (by decide) ((clearRow_touches ..).after (by decide) .rfl)
        · split
          · next s1 h1 =>
              have h1 := Touches.carry h1 (makeRoom_touches ..)
              exact (considerRow_touches ..).after (by decide) ((applyStops_touches ..).after (by decide)
                ((touch_touches ..).after (by decide) ((setEng_touches ..).after (by decide)
                (Touches.after h1 (by decide) .rfl))))
          · trivial

theorem meet_touches (s r t) : onSum (Touches [.engines, .inFlight, .updates, .allocWait, .graphs, .launches, .tiles,
    .retires, .chans, .partitions, .quotas, .wheels, .reports, .stops, .traces, .nextId] s) (fun _ => True)
      (meet s r t) := by
  unfold meet
  split
  · have h := meetTrigger_touches s r t
    cases hm : meetTrigger s r t with
    | inl t => rw [hm] at h; exact Touches.mono h (by decide)
    | inr _ => trivial
  · have h := meetRow_touches s r t
    cases hm : meetRow s r t with
    | inl t => rw [hm] at h; exact Touches.mono h (by decide)
    | inr _ => trivial

theorem tileInStop_touches {l : List Field} {s : State} {f : Start} {t : Token} {x : TileIn}
    (hl : [.threads, .engines, .updates, .allocWait, .graphs, .launches, .tiles, .chunkWrites, .retires, .chans,
      .bankModes,
      .watchHolds, .walks, .partitions, .quotas, .reports, .traces, .nextId] ⊆ l) (hx : x.All (Touches l s)) :
    Touches l s (tileInStop s f t x) := by
  have hr : Touches l s (tokRead s t f.act.id) := (tokRead_touches ..).after (List.Subset.trans (by decide) hl) .rfl
  unfold tileInStop
  extract_lets room read
  split
  · exact .rfl
  · exact .rfl
  · exact hx
  · split
    · exact (poisonStart_touches ..).after (List.Subset.trans (by decide) hl) hr
    · exact .rfl
  · split
    · exact (failStart_touches ..).after (List.Subset.trans (by decide) hl) hr
    · exact .rfl
  · split
    · exact (badStart_touches ..).after (List.Subset.trans (by decide) hl) hr
    · exact .rfl

theorem passChunk_touches {s : State} {j : CopyJob} {c : Nat} {m : Moved} {count : State → State}
    (hc : ∀ u, Touches [.bankModes] u (count u)) : Touches [.threads, .engines, .inFlight, .updates, .allocWait,
      .graphs,
      .launches, .tiles, .chunkWrites, .retires, .chans, .bars, .hbm, .l0, .ecc, .eccL0, .bankModes, .reqs, .watchHolds,
      .ranges, .copies, .packets, .straits, .exits, .partitions, .quotas, .reports, .traces, .nextId] s
        (passChunk s j c m count) := by
  unfold passChunk
  split
  · next h =>
      have h := Touches.carry h (copyGate_touches ..)
      exact Touches.mono h (by decide)
  · exact (moveChunk_touches ..).after (by decide) ((hc _).after (by decide) ((watchPassed_touches ..).after
      (by decide) .rfl))

theorem runMem_touches (c slot v) : Touches [.hbm, .l0, .ecc, .eccL0, .bankModes] v.s (runMem c slot v).s := by
  unfold runMem
  extract_lets w a op t id g en l r
  have hr : Touches [.hbm, .l0, .ecc, .eccL0, .bankModes] v.s r.2.s := by
    unfold r
    refine Touches.foldl_snd (fun o j => ?_) c.js ([], v)
    extract_lets i
    generalize (if (c.pad j || !onAt en j) = true then none else boundElem o.2.s id i) = x
    cases x with
    | none => exact .rfl
    | some x =>
      dsimp only
      generalize hv : (if op = 0x121 then o.2 else _ : VStep) = v1
      have h1 : Touches [.hbm, .l0, .ecc, .eccL0, .bankModes] o.2.s v1.s := by
        subst hv
        split
        · exact .rfl
        · exact (countBound_touches ..).after (by decide) .rfl
      clear_value op
      split
      · exact (putBound_touches ..).after (by decide) h1
      · exact (putBound_touches ..).after (by decide) h1
      · exact h1
  split
  · exact hr
  · exact (deliver_touches ..).after (by decide) hr

theorem loadGraph_touches (s pkg part agid ibase i o) : Loaded.All (Touches [.engines, .graphs, .tiles, .chans, .hbm,
    .l0, .ecc, .eccL0, .bankModes, .vtiles, .badPages, .partitions, .pageOn, .quotas] s)
    (loadGraph s pkg part agid ibase i o) := by
  unfold loadGraph
  split
  · exact .rfl
  · extract_lets +onlyGivenNames d
    split
    · extract_lets +onlyGivenNames x2
      change Touches _ _ _
      unfold x2
      exact (commitGraph_touches ..).after (by decide) ((forgetRoom_touches ..).after (by decide) .rfl)
    · split
      · next x2 v h2 =>
          change Touches _ _ _
          have k := Touches.carry h2 (compactFor_touches ..)
          exact Touches.after k (by decide) .rfl
      · exact (forgetRoom_touches ..).after (by decide) .rfl

theorem runWord_touches (c v p) : Touches [.hbm, .l0, .ecc, .eccL0, .bankModes] v.s (runWord c v p).s := by
  unfold runWord
  extract_lets +onlyGivenNames slot op
  clear_value slot op
  split
  · exact .rfl
  · exact (runBrk_touches ..).after (by decide) .rfl
  · exact (runTin_touches ..).after (by decide) .rfl
  · exact (runBin_touches ..).after (by decide) .rfl
  · exact (runTout_touches ..).after (by decide) .rfl
  · exact (runConst_touches ..).after (by decide) .rfl
  · exact (runIds_touches ..).after (by decide) .rfl
  · exact (runIds_touches ..).after (by decide) .rfl
  · exact (runCarry_touches ..).after (by decide) .rfl
  · exact (runCarry_touches ..).after (by decide) .rfl
  · exact (runTest_touches ..).after (by decide) .rfl
  · exact (runTest_touches ..).after (by decide) .rfl
  · exact (runSum_touches ..).after (by decide) .rfl
  · exact (runSum_touches ..).after (by decide) .rfl
  · exact (runPick_touches ..).after (by decide) .rfl
  · exact (runPick_touches ..).after (by decide) .rfl
  · exact (runCount_touches ..).after (by decide) .rfl
  · exact (runScan_touches ..).after (by decide) .rfl
  · exact (runArgmax_touches ..).after (by decide) .rfl
  · exact (runAclr_touches ..).after (by decide) .rfl
  · exact (runAadd_touches ..).after (by decide) .rfl
  · exact (runDrain_touches ..).after (by decide) .rfl
  · exact (runRegs_touches ..).after (by decide) .rfl
  · exact (runRegs_touches ..).after (by decide) .rfl
  · exact (runRegs_touches ..).after (by decide) .rfl
  · exact .rfl
  · exact (runMem_touches ..).after (by decide) .rfl
  · exact (runMem_touches ..).after (by decide) .rfl
  · exact (runMem_touches ..).after (by decide) .rfl
  · split
    · exact (runArith_touches ..).after (by decide) .rfl
    · split
      · exact (runRaw_touches ..).after (by decide) .rfl
      · split
        · exact (runCmp_touches ..).after (by decide) .rfl
        · split
          · exact (runSelect_touches ..).after (by decide) .rfl
          · split
            · exact (runSpecial_touches ..).after (by decide) .rfl
            · exact (runLane_touches ..).after (by decide) .rfl

theorem arriveIngress_touches (trig s e m) : Touches [.engines, .inFlight, .updates, .allocWait, .graphs, .launches,
    .tiles, .retires, .chans, .partitions, .quotas, .wheels, .reports, .stops, .traces, .nextId] s
    (arriveIngress trig s e m) := by
  unfold arriveIngress
  extract_lets +onlyGivenNames x gone
  have hgone : ∀ u0, Touches [.engines, .inFlight, .updates, .allocWait, .graphs, .launches, .tiles, .retires, .chans,
    .partitions, .quotas, .wheels, .reports, .stops, .traces, .nextId] u0 (gone u0) := by
    intro u0
    unfold gone
    exact (modEng_touches ..).after (by decide) .rfl
  split
  · exact .rfl
  · split
    · exact .rfl
    · split
      · next x2 s1 h2 =>
          have k := Touches.carry h2 (gate_touches ..)
          exact Touches.after k (by decide) .rfl
      · next x2 s1 h2 =>
          refine .trans ?_ (hgone ..)
          have k := Touches.carry h2 (gate_touches ..)
          exact Touches.after k (by decide) .rfl
      · next x2 r s' h2 =>
          split
          · exact .rfl
          · split
            · exact .rfl
            · split
              · next x3 s1 h5 =>
                  refine .trans ?_ (hgone ..)
                  have k := Touches.carry h5 (meet_touches ..)
                  refine Touches.after k (by decide) ?_
                  have k1 := Touches.carry h2 (gate_touches ..)
                  exact Touches.after k1 (by decide) .rfl
              · refine (holdSpill_touches ..).after (by decide) ?_
                have k := Touches.carry h2 (gate_touches ..)
                exact Touches.after k (by decide) .rfl

theorem bufReads_touches (s pkg fn c n) : Touches [.engines, .bankModes] s (bufReads s pkg fn c n) := by
  unfold bufReads
  split
  · exact .rfl
  · exact (svcReads_touches ..).after (by decide) .rfl

theorem arriveFlight_touches (trig s e n t) : Touches [.engines, .inFlight, .updates, .allocWait, .graphs, .launches,
    .tiles, .retires, .chans, .packets, .straits, .exits, .partitions, .quotas, .wheels, .reports, .stops, .traces,
    .nextId] s (arriveFlight trig s e n t) := by
  unfold arriveFlight
  extract_lets +onlyGivenNames t1 gone
  have hgone : ∀ u0, Touches [.engines, .inFlight, .updates, .allocWait, .graphs, .launches, .tiles, .retires, .chans,
    .packets, .straits, .exits, .partitions, .quotas, .wheels, .reports, .stops, .traces, .nextId] u0 (gone u0) := by
    intro u0
    unfold gone
    exact .put rfl
  extract_lets +onlyGivenNames hold
  have hhold : ∀ u0, Touches [.engines, .inFlight, .updates, .allocWait, .graphs, .launches, .tiles, .retires, .chans,
    .packets, .straits, .exits, .partitions, .quotas, .wheels, .reports, .stops, .traces, .nextId] u0 (hold u0) := by
    intro u0
    unfold hold
    exact (modEng_touches ..).after (by decide) (.trans .rfl (hgone ..))
  split
  · exact .rfl
  · split
    · exact (leavePackage_touches ..).after (by decide) .rfl
    · split
      · exact .rfl
      · split
        · next x s1 h3 =>
            have k := Touches.carry h3 (gate_touches ..)
            exact Touches.after k (by decide) .rfl
        · next x s1 h3 =>
            refine .trans ?_ (hgone ..)
            have k := Touches.carry h3 (gate_touches ..)
            exact Touches.after k (by decide) .rfl
        · next x r s' h3 =>
            split
            · exact .rfl
            · split
              · refine .trans ?_ (hhold ..)
                have k := Touches.carry h3 (gate_touches ..)
                exact Touches.after k (by decide) .rfl
              · split
                · next x1 s1 h6 =>
                    refine .trans ?_ (hgone ..)
                    have k := Touches.carry h6 (meet_touches ..)
                    refine Touches.after k (by decide) ?_
                    have k1 := Touches.carry h3 (gate_touches ..)
                    exact Touches.after k1 (by decide) .rfl
                · refine (holdSpill_touches ..).after (by decide) ?_
                  refine .trans ?_ (hhold ..)
                  have k := Touches.carry h3 (gate_touches ..)
                  exact Touches.after k (by decide) .rfl

theorem arrive_touches (trig e n s) : Touches [.engines, .inFlight, .updates, .allocWait, .graphs, .launches, .tiles,
    .retires, .chans, .packets, .straits, .exits, .partitions, .quotas, .wheels, .reports, .stops, .traces, .nextId] s
    (arrive trig e n s) := by
  unfold arrive
  split
  · exact (arriveFlight_touches ..).after (by decide) .rfl
  · exact (arriveIngress_touches ..).after (by decide) .rfl

theorem sendContrib_touches (s o t g c) : onSome (Touches [.groups, .packets, .straits, .exits, .nextId] s)
    (sendContrib s o t g c) := by
  unfold sendContrib
  extract_lets +onlyGivenNames hdr
  refine onSome.map fun a h => ?_
  refine (addContrib_touches ..).after (by decide) ?_
  have k := Touches.carry h (sendAll_touches ..)
  exact Touches.after k (by decide) .rfl

theorem restoreImage_touches (s d reloc) : onOk (fun p => Touches [.engines, .allocWait, .graphs, .launches, .sources,
    .tiles, .chans, .hbm, .l0, .ecc, .eccL0, .bankModes, .vtiles, .islands, .groups, .xunits, .partitions, .pageOn,
    .quotas, .wheels, .nextId] s (p).1) (restoreImage s d reloc) := by
  unfold restoreImage
  extract_lets +onlyGivenNames pkg die0 x
  split
  · trivial
  · split
    · trivial
    · next x2 s' h1 =>
        split
        · trivial
        · next x3 s1 ks h2 =>
            change Touches _ _ _
            dsimp -zeta only
            refine (modGraph_touches ..).after (by decide) ?_
            have k := Touches.carry h2 (openChans_touches ..)
            refine Touches.after k (by decide) ?_
            have k1 := Touches.carry h1 (restoreSet_touches ..)
            exact Touches.after k1 (by decide) .rfl

theorem runOp_touches {l : List Field} {s : State} {pkg fn op : Nat} {f : Cmd → Answered}
    (hl : [.hbm, .hostMem, .ecc, .eccL0, .bankModes, .fns] ⊆ l) (hf : ∀ c, (f c).All (Touches l s)) :
    Touches l s (runOp s pkg fn op f) := runCmd_touches hl hf

theorem cmdFail_touches (l : List Field) (s : State) (code : Nat) : (cmdFail s code).All (Touches l s) := Touches.rfl

theorem runDbg_touches {l : List Field} {s : State} {pkg fn : Nat} {mine : Nat → Bool} {f : Cmd → Answered}
    (hl : [.hbm, .hostMem, .ecc, .eccL0, .bankModes, .fns] ⊆ l) (hf : ∀ c, (f c).All (Touches l s)) :
    Touches l s (runDbg s pkg fn mine f) := by
  refine runCmd_touches hl fun c => ?_
  split
  · exact cmdFail_touches ..
  · exact hf c

theorem runThr_touches {l : List Field} {s : State} {pkg fn : Nat} {mine : Nat → Bool} {f : Cmd → Tid → Answered}
    (hl : [.hbm, .hostMem, .ecc, .eccL0, .bankModes, .fns] ⊆ l) (hf : ∀ c t, (f c t).All (Touches l s)) :
    Touches l s (runThr s pkg fn mine f) := by
  refine runCmd_touches hl fun c => ?_
  extract_lets t
  split
  · exact cmdFail_touches ..
  · split
    · exact cmdFail_touches ..
    · exact hf c t

end Sys2Proof.Machine
end

section
/-!
PROOFS. Proofs/MemoryWrites.lean: what writes the memories keeps them canonical.
-/
namespace Sys2Proof.Machine

/-- P holds of the next state, if there is one. -/
def onNext (P : State → Prop) : Out → Prop
  | .next t => P t
  | _ => True

theorem onNext_next {P : State → Prop} {t : State} (h : P t) : onNext P (.next t) := h

/-- A change that leaves the memories alone keeps them canonical. -/
theorem Touches.memOk {l : List Field} {s t : State} (h : Touches l s t)
    (hl : (l.contains .hbm || l.contains .l0 || l.contains .hostMem) = false) (hs : s.MemOk) : t.MemOk := by
  simp only [Bool.or_eq_false_iff] at hl
  obtain ⟨⟨h1, h2⟩, h3⟩ := hl
  have e1 : t.hbm = s.hbm := h.same .hbm (by simpa using h1)
  have e2 : t.l0 = s.l0 := h.same .l0 (by simpa using h2)
  have e3 : t.hostMem = s.hostMem := h.same .hostMem (by simpa using h3)
  unfold State.MemOk
  rw [e1, e2, e3]
  exact hs

theorem State.MemOk.foldl {α : Type} {f : State → α → State} (h : ∀ u a, u.MemOk → (f u a).MemOk) :
    ∀ (as : List α) (s : State), s.MemOk → (as.foldl f s).MemOk
  | [], _, hs => hs
  | a :: as, s, hs => foldl h as (f s a) (h s a hs)

theorem State.MemOk.foldl_snd {α β : Type} {f : β × VStep → α → β × VStep} (h : ∀ u a, u.2.s.MemOk →
    (f u a).2.s.MemOk) :
    ∀ (as : List α) (v : β × VStep), v.2.s.MemOk → (as.foldl f v).2.s.MemOk
  | [], _, hs => hs
  | a :: as, v, hs => foldl_snd h as (f v a) (h v a hs)

theorem State.MemOk.foldl_vstep {α : Type} {f : VStep → α → VStep} (h : ∀ u a, u.s.MemOk → (f u a).s.MemOk) :
    ∀ (as : List α) (v : VStep), v.s.MemOk → (as.foldl f v).s.MemOk
  | [], _, hs => hs
  | a :: as, v, hs => foldl_vstep h as (f v a) (h v a hs)

theorem memOk_of_snd {α : Type} {t : State} {a : α} {p : α × State} (h : p = (a, t)) (k : p.2.MemOk) : t.MemOk := by
  subst h; exact k

theorem memOk_of_fst {α : Type} {t : State} {a : α} {p : State × α} (h : p = (t, a)) (k : p.1.MemOk) : t.MemOk := by
  subst h; exact k

theorem memOk_getD {o : Option State} {d : State} (h : ∀ t, o = some t → t.MemOk) (k : d.MemOk) : (o.getD d).MemOk := by
  cases o with
  | some t => exact h t rfl
  | none => exact k

/-! ### What writes the memories -/

/-- Entries may leave a canonical memory. -/
theorem memWfFrom_filter (p : Nat × Byte → Bool) {m : Memory} {lo : Nat} (h : memWfFrom lo m = true) :
    memWfFrom lo (m.filter p) = true := by
  induction m generalizing lo with
  | nil => rfl
  | cons c m ih =>
    obtain ⟨a, b⟩ := c
    simp only [memWfFrom, Bool.and_eq_true, decide_eq_true_eq] at h
    obtain ⟨⟨ha, hb⟩, hm⟩ := h
    rw [List.filter_cons]
    split
    · simp only [memWfFrom, Bool.and_eq_true, decide_eq_true_eq]
      exact ⟨⟨ha, hb⟩, ih hm⟩
    · exact memWfFrom_mono (ih hm) (by omega)

theorem wf_filter (p : Nat × Byte → Bool) {m : Memory} (h : m.wf = true) : Memory.wf (m.filter p) = true :=
  memWfFrom_filter p h

theorem writeHbm_memOk (s g bs) (hs : s.MemOk) : (writeHbm s g bs).MemOk := by
  have h : ((wordsOf g bs.length).foldl (fun s w => eccWrite s false (g ≤ w * 8 && w * 8 + 8 ≤ g + bs.length) w)
    s).MemOk :=
    .foldl (fun _ _ hu => (eccWrite_touches ..).memOk (by decide) hu) _ _ hs
  obtain ⟨h1, h2, h3⟩ := h
  exact ⟨memWrite_wf _ _ h1, h2, h3⟩

theorem writeUnit_memOk (s l0 a bs) (hs : s.MemOk) : (writeUnit s l0 a bs).MemOk := by
  unfold writeUnit
  split
  · have h : ((wordsOf a bs.length).foldl (fun s w => eccWrite s true (a ≤ w * 8 && w * 8 + 8 ≤ a + bs.length) w)
      s).MemOk :=
      .foldl (fun _ _ hu => (eccWrite_touches ..).memOk (by decide) hu) _ _ hs
    obtain ⟨h1, h2, h3⟩ := h
    exact ⟨h1, memWrite_wf _ _ h2, h3⟩
  · exact writeHbm_memOk _ _ _ hs

/-- A write of host memory keeps the memories canonical. -/
theorem memOk_hostWrite {s : State} (a : Nat) (bs : List Byte) (hs : s.MemOk) :
    State.MemOk { s with hostMem := memWrite s.hostMem a bs } := by
  obtain ⟨h1, h2, h3⟩ := hs
  exact ⟨h1, h2, memWrite_wf _ _ h3⟩

theorem writePieces_memOk (s bs ps) (hs : s.MemOk) : (writePieces s bs ps).MemOk := by
  fun_induction writePieces s bs ps with
  | case1 => exact hs
  | case2 s bs g n ps ih => exact ih (writeHbm_memOk _ _ _ hs)
  | case3 s bs a n ps ih => exact ih (memOk_hostWrite _ _ hs)
  | case4 s bs f n ps ih => exact ih hs

theorem performReq_memOk (s r) (hs : s.MemOk) : (performReq s r).2.MemOk := by
  unfold performReq
  split
  · split
    · exact hs
    · exact memOk_hostWrite _ _ hs
    · exact hs
  · split
    · exact hs
    · split
      · exact (readHbm_touches ..).memOk (by decide) hs
      · have h := fun d => writeHbm_memOk s r.pa d hs
        split
        · exact (poisonHbm_touches ..).memOk (by decide) (h _)
        · exact h _
      · have hr : (readHbm s r.pa 8).2.2.MemOk := (readHbm_touches ..).memOk (by decide) hs
        dsimp only
        split
        · exact hr
        · exact writeHbm_memOk _ _ _ hr

theorem writeCopy_memOk (s ps bs) (hs : s.MemOk) : (writeCopy s ps bs).MemOk := by
  fun_induction writeCopy s ps bs with
  | case1 => exact hs
  | case2 s p ps bs u ih =>
    refine ih ?_
    unfold u
    split
    · exact memOk_hostWrite _ _ hs
    · exact writeHbm_memOk _ _ _ hs

theorem scrubPages_memOk (s pkg p) (hs : s.MemOk) : (scrubPages s pkg p).MemOk := by
  unfold scrubPages
  extract_lets mine l0mine ts cs s1
  have h : s1.MemOk := .foldl (fun _ _ hu => (freeChan_touches ..).memOk (by decide) hu) _ _
    (.foldl (fun _ _ hu => (freeTile_touches ..).memOk (by decide) hu) _ _ hs)
  obtain ⟨h1, h2, h3⟩ := h
  exact ⟨h1, wf_filter _ h2, h3⟩

theorem clearPkg_memOk (s pkg) (hs : s.MemOk) : (clearPkg s pkg).MemOk := by
  obtain ⟨h1, h2, h3⟩ := hs
  exact ⟨wf_filter _ h1, wf_filter _ h2, h3⟩

theorem worldTurn_memOk (s t) (hs : s.MemOk) : (worldTurn s t).MemOk := by
  cases t with
  | fetchAhead t va => exact (fetchAhead_touches ..).memOk (by decide) hs
  | bitError a l0 e => exact (bitError_touches ..).memOk (by decide) hs
  | hostWrite a b => obtain ⟨h1, h2, h3⟩ := hs; exact ⟨h1, h2, memPut_wf _ _ h3⟩
  | arithError e d => exact (modEng_touches ..).memOk (by decide) hs
  | dataError e k => exact (modEng_touches ..).memOk (by decide) hs
  | cacheError t va => exact (cacheError_touches ..).memOk (by decide) hs
  | world p w c v => exact (modPkg_touches ..).memOk (by decide) hs
  | cable a b => exact hs
  | ackPages b => exact (ackPages_touches ..).memOk (by decide) hs
  | codeError o => exact (codeError_touches ..).memOk (by decide) hs
  | board p op args => exact (boardAsk_touches ..).memOk (by decide) hs
  | issue | event => exact hs

end Sys2Proof.Machine
end

section
/-!
PROOFS. Proofs/Canonical.lean: every operation keeps the memories canonical.
-/
namespace Sys2Proof.Machine

theorem execStreamCircuitSetup_memOk (e port slot s) (hs : State.MemOk s) : onNext State.MemOk
    (execStreamCircuitSetup e port slot s) := by
  unfold execStreamCircuitSetup
  change State.MemOk _
  split
  · exact hs
  · split
    · exact hs
    · split
      · exact hs
      · extract_lets +onlyGivenNames t s1
        have hs1 : s1.MemOk := by
          unfold s1
          exact hs
        clear_value s1
        split
        · exact (setCmd_touches ..).memOk (by decide) hs1
        · exact hs1

theorem execTimerWheelBoundary_memOk (pkg die s) (hs : State.MemOk s) : onNext State.MemOk
    (execTimerWheelBoundary pkg die s) := by
  unfold execTimerWheelBoundary
  change State.MemOk _
  extract_lets +onlyGivenNames b w
  split
  · exact hs
  · exact (setWheel_touches ..).memOk (by decide) hs

theorem execCclose_memOk (e n s) (hs : State.MemOk s) : onNext State.MemOk (execCclose e n s) := by
  unfold execCclose
  change State.MemOk _
  split
  · exact hs
  · extract_lets +onlyGivenNames t k x1 out
    split
    · exact hs
    · split
      · next x2 i s1 h2 =>
          extract_lets +onlyGivenNames s2
          have hs2 : s2.MemOk := (fire_touches ..).memOk (by decide) ((Touches.of_snd h2 (fresh_touches ..)).memOk
            (by decide) hs)
          clear_value s2
          extract_lets +onlyGivenNames s3
          have hs3 : s3.MemOk := (retireKept_touches ..).memOk (by decide) ((retireKept_touches ..).memOk
            (by decide) hs2)
          clear_value s3
          extract_lets +onlyGivenNames s4
          have hs4 : s4.MemOk := (modInst_touches ..).memOk (by decide) hs3
          clear_value s4
          split
          · exact (releaseUnit_touches ..).memOk (by decide) hs4
          · exact hs4

theorem toBuffer_memOk (s rd va room bs value) (hs : State.MemOk s) : State.MemOk (toBuffer s rd va room bs value) := by
  unfold toBuffer
  split
  · exact (opTrap_touches ..).memOk (by decide) hs
  · split
    · exact (asyncDone_touches ..).memOk (by decide) hs
    · split
      · exact hs
      · split
        · exact (opTrap_touches ..).memOk (by decide) hs
        · exact (asyncDone_touches ..).memOk (by decide) (writePieces_memOk (hs := hs) ..)

theorem execClread_memOk (rd rs1 rs2 s) (hs : State.MemOk s) : onNext State.MemOk (execClread rd rs1 rs2 s) := by
  unfold execClread
  change State.MemOk _
  split
  · exact hs
  · extract_lets +onlyGivenNames v
    split
    · exact (asyncDone_touches ..).memOk (by decide) hs
    · split
      · exact (asyncDone_touches ..).memOk (by decide) hs
      · split
        · exact (asyncDone_touches ..).memOk (by decide) hs
        · extract_lets +onlyGivenNames bs
          exact toBuffer_memOk (hs := hs) ..

theorem execLd32_memOk (rd rs1 imm s) (hs : State.MemOk s) : onNext State.MemOk (execLd32 rd rs1 imm s) := by
  unfold execLd32
  exact (issueLoad_touches ..).memOk (by decide) hs

theorem execMulhn_memOk (rd rs1 rs2 s) (hs : State.MemOk s) : onNext State.MemOk (execMulhn rd rs1 rs2 s) := by
  unfold execMulhn
  exact (regOp_touches ..).memOk (by decide) hs

theorem execDiv_memOk (rd rs1 rs2 s) (hs : State.MemOk s) : onNext State.MemOk (execDiv rd rs1 rs2 s) := by
  unfold execDiv
  exact (regOp_touches ..).memOk (by decide) hs

theorem svcWrite_memOk (s pkg fn va bs) (hs : State.MemOk s) : onSome State.MemOk (svcWrite s pkg fn va bs) := by
  unfold svcWrite
  exact onSome.map fun a h => (writePieces_memOk (hs := hs) ..)

theorem complete_memOk (s pkg fn c w data) (hs : State.MemOk s) : State.MemOk (complete s pkg fn c w data) := by
  unfold complete
  extract_lets +onlyGivenNames x s1
  have hs1 : s1.MemOk := by
    unfold s1
    refine memOk_getD (fun u hu => ?_) ?_
    · have k := fun hs => Touches.carry hu (svcWrite_memOk (hs := hs) ..)
      refine k ?_
      unfold x
      split
      · exact hs
      · split
        · next x1 v h1 =>
            dsimp -zeta only
            have k1 := fun hs => Touches.carry h1 (svcWrite_memOk (hs := hs) ..)
            exact k1 hs
        · exact hs
    · unfold x
      split
      · exact hs
      · split
        · next x1 v h1 =>
            dsimp -zeta only
            have k := fun hs => Touches.carry h1 (svcWrite_memOk (hs := hs) ..)
            exact k hs
        · exact hs
  clear_value s1
  exact (modFn_touches ..).memOk (by decide) hs1

theorem runCmd_memOk {s : State} {pkg fn : Nat} {mine : Cmd → Bool} {f : Cmd → Answered} (hs : State.MemOk s)
    (hf : ∀ c, (f c).All State.MemOk) : State.MemOk (runCmd s pkg fn mine f) := by
  unfold runCmd
  split
  · exact hs
  · next c _ _ =>
      split
      · exact hs
      · split
        · exact complete_memOk (hs := hs) ..
        · have hc := hf c
          split
          · next h => rw [h] at hc; exact hc
          · next h => rw [h] at hc; exact complete_memOk (hs := hc) ..

theorem cmdFail_memOk (s : State) (code : Nat) (hs : State.MemOk s) : (cmdFail s code).All State.MemOk := hs

theorem runDbg_memOk {s : State} {pkg fn : Nat} {mine : Nat → Bool} {f : Cmd → Answered} (hs : State.MemOk s)
    (hf : ∀ c, (f c).All State.MemOk) : State.MemOk (runDbg s pkg fn mine f) := by
  refine runCmd_memOk hs fun c => ?_
  split
  · exact cmdFail_memOk _ _ hs
  · exact hf c

theorem writeTileImage_memOk (s id t i bs) (hs : State.MemOk s) : State.MemOk (writeTileImage s id t i bs) := by
  unfold writeTileImage
  refine .foldl (fun u a hu => ?_) _ _ ?_
  · exact writeUnit_memOk (hs := hu) ..
  · exact hs

theorem writeScale_memOk (s id t c bs) (hs : State.MemOk s) : State.MemOk (writeScale s id t c bs) := by
  unfold writeScale
  refine .foldl (fun u a hu => ?_) _ _ ?_
  · exact writeUnit_memOk (hs := hu) ..
  · exact hs

theorem initTile_memOk (i g agid s r) (hs : State.MemOk s) : onSome State.MemOk (initTile i g agid s r) := by
  unfold initTile
  split
  · exact hs
  · extract_lets +onlyGivenNames t t1 bytes fill
    have hfill : ∀ u0 a1, State.MemOk u0 → State.MemOk (fill u0 a1) := by
      intro u0 a1 hu
      unfold fill
      extract_lets +onlyGivenNames s1
      have hs1 : s1.MemOk := writeTileImage_memOk (hs := hu) ..
      clear_value s1
      split
      · refine .foldl (fun u a hu1 => ?_) _ _ ?_
        · exact writeScale_memOk (hs := hu1) ..
        · exact hs1
      · exact hs1
    split
    · exact hfill _ _ ((setTile_touches ..).memOk (by decide) hs)
    · split
      · trivial
      · extract_lets +onlyGivenNames t2
        exact hfill _ _ ((charge_touches ..).memOk (by decide) ((setTile_touches ..).memOk (by decide) hs))

theorem initTiles_memOk (i g agid a a1) (hs : State.MemOk a1) : onSome State.MemOk (initTiles i g agid a a1) := by
  fun_induction initTiles i g agid a a1 with
  | case1 s => exact hs
  | case2 r rs s h => trivial
  | case3 r rs s s' h ih =>
    refine ih ?_
    have k := fun hs => Touches.carry h (initTile_memOk (hs := hs) ..)
    exact k hs

theorem commitGraph_memOk (s0 pkg part agid ibase i o reloc) (hs : State.MemOk s0) : State.MemOk
    (commitGraph s0 pkg part agid ibase i o reloc).1 := by
  unfold commitGraph
  extract_lets +onlyGivenNames d es rs ts cs ps full g0 die0
  split
  · next x x1 x2 x3 h ops disp s recs h1 h2 h3 h4 =>
      extract_lets +onlyGivenNames ops1 ops2 g
      split
      · exact hs
      · next x4 s' h5 =>
          split
          · exact hs
          · next x5 s1 ks h6 =>
              extract_lets +onlyGivenNames s2
              have hs2 : s2.MemOk := by
                unfold s2
                refine (modGraph_touches ..).memOk (by decide) ?_
                have k := Touches.carry h6 (openChans_touches ..)
                refine Touches.memOk k (by decide) ?_
                have k1 := Touches.carry h5 (reserveLines_touches ..)
                refine Touches.memOk k1 (by decide) ?_
                refine (setGraph_touches ..).memOk (by decide) ?_
                have k2 := Touches.carry h4 (declareAll_touches ..)
                exact Touches.memOk k2 (by decide) hs
              clear_value s2
              split
              · exact hs
              · split
                · exact hs
                · next x6 s'1 h8 =>
                    split
                    · next x7 v h9 =>
                        dsimp -zeta only
                        have k := Touches.carry h9 (pageError_touches ..)
                        exact Touches.memOk k (by decide) hs
                    · dsimp -zeta only
                      refine (powerPages_touches ..).memOk (by decide) ?_
                      refine (freshSlots_touches ..).memOk (by decide) ?_
                      have k := fun hs => Touches.carry h8 (initTiles_memOk (hs := hs) ..)
                      exact k hs2
  · exact hs

theorem loadGraph_memOk (s pkg part agid ibase i o) (hs : State.MemOk s) : Loaded.All State.MemOk
    (loadGraph s pkg part agid ibase i o) := by
  unfold loadGraph
  split
  · exact hs
  · extract_lets +onlyGivenNames d
    split
    · extract_lets +onlyGivenNames x2
      change State.MemOk _
      unfold x2
      exact commitGraph_memOk (hs := ((forgetRoom_touches ..).memOk (by decide) hs)) ..
    · split
      · next x2 v h2 =>
          change State.MemOk _
          have k := Touches.carry h2 (compactFor_touches ..)
          exact Touches.memOk k (by decide) hs
      · exact (forgetRoom_touches ..).memOk (by decide) hs

theorem execShr_memOk (rd rs1 rs2 s) (hs : State.MemOk s) : onNext State.MemOk (execShr rd rs1 rs2 s) := by
  unfold execShr
  exact (regOp_touches ..).memOk (by decide) hs

theorem putBound_memOk (s id i code) (hs : State.MemOk s) : State.MemOk (putBound s id i code) := by
  unfold putBound
  extract_lets +onlyGivenNames t
  exact writeUnit_memOk (hs := hs) ..

theorem runMem_memOk (c slot v) (hs : State.MemOk v.s) : State.MemOk (runMem c slot v).s := by
  unfold runMem
  extract_lets w a op t id g en l r
  have hr : r.2.s.MemOk := by
    unfold r
    refine State.MemOk.foldl_snd (fun o j ho => ?_) c.js ([], v) hs
    extract_lets i
    generalize (if (c.pad j || !onAt en j) = true then none else boundElem o.2.s id i) = x
    cases x with
    | none => exact ho
    | some x =>
      dsimp only
      generalize hv : (if op = 0x121 then o.2 else _ : VStep) = v1
      have h1 : v1.s.MemOk := by
        subst hv
        split
        · exact ho
        · exact (countBound_touches ..).memOk (by decide) ho
      clear_value op
      split
      · exact putBound_memOk (hs := h1) ..
      · exact putBound_memOk (hs := h1) ..
      · exact h1
  split
  · exact hr
  · exact (deliver_touches ..).memOk (by decide) hr

theorem runWord_memOk (c v p) (hs : State.MemOk v.s) : State.MemOk (runWord c v p).s := by
  unfold runWord
  extract_lets +onlyGivenNames slot op
  clear_value slot op
  split
  · exact hs
  · exact (runBrk_touches ..).memOk (by decide) hs
  · exact (runTin_touches ..).memOk (by decide) hs
  · exact (runBin_touches ..).memOk (by decide) hs
  · exact (runTout_touches ..).memOk (by decide) hs
  · exact (runConst_touches ..).memOk (by decide) hs
  · exact (runIds_touches ..).memOk (by decide) hs
  · exact (runIds_touches ..).memOk (by decide) hs
  · exact (runCarry_touches ..).memOk (by decide) hs
  · exact (runCarry_touches ..).memOk (by decide) hs
  · exact (runTest_touches ..).memOk (by decide) hs
  · exact (runTest_touches ..).memOk (by decide) hs
  · exact (runSum_touches ..).memOk (by decide) hs
  · exact (runSum_touches ..).memOk (by decide) hs
  · exact (runPick_touches ..).memOk (by decide) hs
  · exact (runPick_touches ..).memOk (by decide) hs
  · exact (runCount_touches ..).memOk (by decide) hs
  · exact (runScan_touches ..).memOk (by decide) hs
  · exact (runArgmax_touches ..).memOk (by decide) hs
  · exact (runAclr_touches ..).memOk (by decide) hs
  · exact (runAadd_touches ..).memOk (by decide) hs
  · exact (runDrain_touches ..).memOk (by decide) hs
  · exact (runRegs_touches ..).memOk (by decide) hs
  · exact (runRegs_touches ..).memOk (by decide) hs
  · exact (runRegs_touches ..).memOk (by decide) hs
  · exact hs
  · exact runMem_memOk (hs := hs) ..
  · exact runMem_memOk (hs := hs) ..
  · exact runMem_memOk (hs := hs) ..
  · split
    · exact (runArith_touches ..).memOk (by decide) hs
    · split
      · exact (runRaw_touches ..).memOk (by decide) hs
      · split
        · exact (runCmp_touches ..).memOk (by decide) hs
        · split
          · exact (runSelect_touches ..).memOk (by decide) hs
          · split
            · exact (runSpecial_touches ..).memOk (by decide) hs
            · exact (runLane_touches ..).memOk (by decide) hs

theorem readCounts_memOk (s t) (hs : State.MemOk s) : State.MemOk (readCounts s t) := hs

theorem execVblockStep_memOk (e s) (hs : State.MemOk s) : onNext State.MemOk (execVblockStep e s) := by
  unfold execVblockStep
  change State.MemOk _
  split
  · exact hs
  · extract_lets +onlyGivenNames c v0
    split
    · exact hs
    · split
      · exact (modRun_touches ..).memOk (by decide) hs
      · split
        · next x1 v h3 =>
            have k := Touches.carry h3 (boundGate_touches ..)
            exact Touches.memOk k (by decide) hs
        · split
          · next x2 i s1 h4 =>
              extract_lets +onlyGivenNames p v
              split
              · exact hs
              · split
                · exact (silent3_touches ..).memOk (by decide) (readCounts_memOk (hs := hs) ..)
                · split
                  · exact (poisonConsumed_touches ..).memOk (by decide) ((abortRun_touches ..).memOk (by decide)
                      (readCounts_memOk (hs := hs) ..))
                  · split
                    · refine (stopStep_touches ..).memOk (by decide) ?_
                      refine (keepStep_touches ..).memOk (by decide) ?_
                      unfold v
                      refine .foldl_vstep (fun u1 a hu => ?_) _ _ ?_
                      · exact runWord_memOk (hs := hu) ..
                      · dsimp -zeta only
                        exact (Touches.of_snd h4 (fresh_touches ..)).memOk (by decide) ((watchPassed_touches ..).memOk
                          (by decide) hs)
                    · refine (endStep_touches ..).memOk (by decide) ?_
                      refine (keepStep_touches ..).memOk (by decide) ?_
                      unfold v
                      refine .foldl_vstep (fun u1 a hu => ?_) _ _ ?_
                      · exact runWord_memOk (hs := hu) ..
                      · dsimp -zeta only
                        exact (Touches.of_snd h4 (fresh_touches ..)).memOk (by decide) ((watchPassed_touches ..).memOk
                          (by decide) hs)

theorem restoreUnits_memOk (d old new n s) (hs : State.MemOk s) : State.MemOk (restoreUnits d old new n s) := by
  unfold restoreUnits
  refine .foldl (fun u a hu => ?_) _ _ ?_
  · extract_lets +onlyGivenNames s1
    have hs1 : s1.MemOk := writeUnit_memOk (hs := hu) ..
    clear_value s1
    refine .foldl (fun u1 a1 hu1 => ?_) _ _ ?_
    · split
      · exact (setEcc_touches ..).memOk (by decide) hu1
      · exact hu1
    · exact hs1
  · exact hs

theorem restoreTile_memOk (m d s x) (hs : State.MemOk s) : onSome State.MemOk (restoreTile m d s x) := by
  unfold restoreTile
  extract_lets +onlyGivenNames id t
  split
  · exact hs
  · split
    · exact (setTile_touches ..).memOk (by decide) hs
    · split
      · trivial
      · extract_lets +onlyGivenNames t' s1
        have hs1 : s1.MemOk := (charge_touches ..).memOk (by decide) ((setTile_touches ..).memOk (by decide) hs)
        clear_value s1
        exact restoreUnits_memOk (hs := hs1) ..

theorem restoreTiles_memOk (m d a a1) (hs : State.MemOk a1) : onSome State.MemOk (restoreTiles m d a a1) := by
  fun_induction restoreTiles m d a a1 with
  | case1 s => exact hs
  | case2 x xs s h => trivial
  | case3 x xs s s' h ih =>
    refine ih ?_
    have k := fun hs => Touches.carry h (restoreTile_memOk (hs := hs) ..)
    exact k hs

theorem restoreLines_memOk (m d s) (hs : State.MemOk s) : State.MemOk (restoreLines m d s) := by
  unfold restoreLines
  refine .foldl (fun u a hu => ?_) _ _ ?_
  · split
    · exact hu
    · exact restoreUnits_memOk (hs := hu) ..
  · exact hs

theorem restoreSet_memOk (s d key reloc) (hs : State.MemOk s) : onSome State.MemOk (restoreSet s d key reloc) := by
  unfold restoreSet
  extract_lets +onlyGivenNames x g m0
  split
  · trivial
  · next x1 ops h =>
      extract_lets +onlyGivenNames m g1
      split
      · trivial
      · next x2 s' h1 =>
          extract_lets +onlyGivenNames m1
          split
          · trivial
          · next x3 s'1 h2 =>
              refine onSome.map fun a h => ?_
              refine (powerPages_touches ..).memOk (by decide) ?_
              refine (endsTo_touches ..).memOk (by decide) ?_
              refine (restoreRest_touches ..).memOk (by decide) ?_
              have k := Touches.carry h (restoreEngs_touches ..)
              refine Touches.memOk k (by decide) ?_
              have k1 := fun hs => Touches.carry h2 (restoreTiles_memOk (hs := hs) ..)
              refine k1 ?_
              refine restoreLines_memOk (hs := ?_) ..
              have k2 := Touches.carry h1 (reserveLines_touches ..)
              exact Touches.memOk k2 (by decide) ((setGraph_touches ..).memOk (by decide) hs)

theorem execContainmentHeld_memOk (pkg graph rec row s) (hs : State.MemOk s) : onNext State.MemOk
    (execContainmentHeld pkg graph rec row s) := by
  unfold execContainmentHeld
  change State.MemOk _
  split
  · exact hs
  · split
    · extract_lets +onlyGivenNames s1
      have hs1 : s1.MemOk := by
        unfold s1
        split
        · exact (sweepInst_touches ..).memOk (by decide) hs
        · exact hs
      extract_lets +onlyGivenNames g1 x3 k ks under s2
      have hs2 : s2.MemOk := (modInst_touches ..).memOk (by decide) ((purgeCols_touches ..).memOk (by decide) hs1)
      clear_value s2
      split
      · exact hs1
      · split
        · exact hs1
        · exact (raise_touches ..).memOk (by decide) hs2
    · exact hs

theorem execChunkWrite_memOk (n s) (hs : State.MemOk s) : onNext State.MemOk (execChunkWrite n s) := by
  unfold execChunkWrite
  change State.MemOk _
  split
  · split
    · refine .foldl (fun u a hu => ?_) _ _ ?_
      · exact (landChunk_touches ..).memOk (by decide) hu
      · exact (dropInbox_touches ..).memOk (by decide) hs
    · exact hs
  · exact hs

theorem execQmSample_memOk (pkg lid second s) (hs : State.MemOk s) : onNext State.MemOk
    (execQmSample pkg lid second s) := by
  unfold execQmSample
  change State.MemOk _
  split
  · exact hs
  · split
    · exact hs
    · extract_lets +onlyGivenNames z s1
      have hs1 : s1.MemOk := by
        unfold s1
        split
        · exact (endEpisode_touches ..).memOk (by decide) hs
        · exact hs
      clear_value s1
      extract_lets +onlyGivenNames quiet
      split
      · exact (modLaunch_touches ..).memOk (by decide) hs1
      · exact (modLaunch_touches ..).memOk (by decide) hs1

theorem execExitOp_memOk (e n s) (hs : State.MemOk s) : onNext State.MemOk (execExitOp e n s) := by
  unfold execExitOp
  change State.MemOk _
  split
  · exact hs
  · extract_lets +onlyGivenNames o t k c out
    split
    · exact (faultFire_touches ..).memOk (by decide) hs
    · split
      · exact (faultFire_touches ..).memOk (by decide) hs
      · split
        · exact hs
        · split
          · next x1 i s1 h4 =>
              exact (fire_touches ..).memOk (by decide) ((closeColour_touches ..).memOk (by decide) ((Touches.of_snd h4
                (fresh_touches ..)).memOk (by decide) hs))

theorem checked_memOk {s : State} {e : Eng} {r : OpRef} {u : Run} {go : State → State} (hs : State.MemOk s)
    (hg : (go s).MemOk) : State.MemOk (checked s e r u go) := by
  unfold checked
  split
  · split
    · exact hs
    · exact (silentData_touches ..).memOk (by decide) ((abortRun_touches ..).memOk (by decide) hs)
  · exact hg

theorem course_memOk {s : State} {e : Eng} {kind mode : Nat} {fault : State → Start → Option (Nat × Nat)}
    {work : State → OpRef → Run → State} (hs : State.MemOk s) (hw : ∀ r u, (work s r u).MemOk) :
    State.MemOk (course s e kind mode fault work) := by
  unfold course
  split
  · split
    · exact (emitTile_touches ..).memOk (by decide) hs
    · split
      · exact hs
      · exact checked_memOk hs (hw _ _)
  · split
    · exact (startRun_touches ..).memOk (by decide) hs
    · exact hs

theorem execMmul_memOk (e s) (hs : State.MemOk s) : onNext State.MemOk (execMmul e s) := by
  unfold execMmul
  change State.MemOk _
  refine course_memOk hs fun r u => ?_
  extract_lets +onlyGivenNames i w l ctl start a cls s1
  have hs1 : s1.MemOk := (setIsland_touches ..).memOk (by decide) ((modEng_touches ..).memOk (by decide) hs)
  clear_value s1
  extract_lets +onlyGivenNames s2
  have hs2 : s2.MemOk := (modRun_touches ..).memOk (by decide) ((setFlags_touches ..).memOk (by decide)
    ((releaseBank_touches ..).memOk (by decide) hs1))
  clear_value s2
  extract_lets +onlyGivenNames u1 s3
  have hs3 : s3.MemOk := by
    unfold s3
    split
    · exact (emitToks_touches ..).memOk (by decide) hs2
    · exact hs2
  clear_value s3
  extract_lets +onlyGivenNames s4
  have hs4 : s4.MemOk := (modIsland_touches ..).memOk (by decide) hs3
  clear_value s4
  split
  · exact (silent3_touches ..).memOk (by decide) hs
  · split
    · split
      · extract_lets +onlyGivenNames t d
        exact (writeOut_touches ..).memOk (by decide) hs4
      · exact hs3
    · exact (endRun_touches ..).memOk (by decide) hs3

theorem execTwset_memOk (rd rs1 rs2 s) (hs : State.MemOk s) : onNext State.MemOk (execTwset rd rs1 rs2 s) := by
  unfold execTwset
  change State.MemOk _
  extract_lets +onlyGivenNames due va
  split
  · exact hs
  · split
    · exact (enterTwset_touches ..).memOk (by decide) hs
    · split
      · exact (opTrap_touches ..).memOk (by decide) hs
      · extract_lets +onlyGivenNames b
        split
        · refine (finish_touches ..).memOk (by decide) ?_
          unfold b
          exact (readPieces_touches ..).memOk (by decide) hs
        · refine (enterTwset_touches ..).memOk (by decide) ?_
          unfold b
          exact (readPieces_touches ..).memOk (by decide) hs

theorem execLoadDataError_memOk (t s) (hs : State.MemOk s) : onNext State.MemOk (execLoadDataError t s) := by
  unfold execLoadDataError
  change State.MemOk _
  extract_lets +onlyGivenNames th
  split
  · exact hs
  · split
    · exact hs
    · split
      · exact hs
      · split
        · exact (loadErrorTrap_touches ..).memOk (by decide) ((modThr_touches ..).memOk (by decide) hs)
        · exact hs

theorem execSt8_memOk (src rs1 imm s) (hs : State.MemOk s) : onNext State.MemOk (execSt8 src rs1 imm s) := by
  unfold execSt8
  exact (issueStore_touches ..).memOk (by decide) hs

theorem execSev_memOk (rs1 s) (hs : State.MemOk s) : onNext State.MemOk (execSev rs1 s) := by
  unfold execSev
  extract_lets +onlyGivenNames v hit
  have hhit : ∀ u0 a1, State.MemOk u0 → State.MemOk (hit u0 a1) := by
    intro u0 a1 hu
    unfold hit
    split
    · exact (setEvent_touches ..).memOk (by decide) hu
    · exact hu
  change State.MemOk _
  refine .foldl (fun u a hu => ?_) _ _ ?_
  · exact hhit _ _ hu
  · exact (modCur_touches ..).memOk (by decide) hs

theorem execAmoand_memOk (rd rs1 rs2 ord s) (hs : State.MemOk s) : onNext State.MemOk
    (execAmoand rd rs1 rs2 ord s) := by
  unfold execAmoand
  exact (issueAmo_touches ..).memOk (by decide) hs

theorem blockOn_memOk {s : State} {i : Instr} {r : Option State} (hs : State.MemOk s) (hr : onSome State.MemOk r) :
    State.MemOk (blockOn s i r) := by
  cases r with
  | some t => exact hr
  | none => exact (modCur_touches ..).memOk (by decide) hs

theorem writeRecBytes_memOk (s k r o bs) (hs : State.MemOk s) : State.MemOk (writeRecBytes s k r o bs) := by
  unfold writeRecBytes
  extract_lets +onlyGivenNames c p
  refine .foldl (fun u a hu => ?_) _ _ ?_
  · exact writeUnit_memOk (hs := hu) ..
  · exact hs

theorem landPart_memOk (s k ordinal chunk bs) (hs : State.MemOk s) : State.MemOk (landPart s k ordinal chunk bs) := by
  unfold landPart
  split
  · exact hs
  · exact (modChan_touches ..).memOk (by decide) (writeRecBytes_memOk (hs := hs) ..)

theorem landRec_memOk (s k ordinal bs) (hs : State.MemOk s) : State.MemOk (landRec s k ordinal bs) := by
  unfold landRec
  refine .foldl (fun u a hu => ?_) _ _ ?_
  · exact landPart_memOk (hs := hu) ..
  · exact hs

theorem putRec_memOk (s k bs) (hs : State.MemOk s) : PutRec.All State.MemOk (putRec s k bs) := by
  unfold putRec
  split
  · trivial
  · trivial
  · next x seg pos s' h =>
      extract_lets +onlyGivenNames ord
      split
      · trivial
      · change State.MemOk _
        refine landRec_memOk (hs := ?_) ..
        refine (reserveRec_touches ..).memOk (by decide) ?_
        have k1 := Touches.carry h (writePlace_touches ..)
        exact Touches.memOk k1 (by decide) hs

theorem tryChwr_memOk (rd rs1 rs2 s) (hs : State.MemOk s) : onSome State.MemOk (tryChwr rd rs1 rs2 s) := by
  unfold tryChwr
  split
  · exact (finish_touches ..).memOk (by decide) hs
  · split
    · exact (opTrap_touches ..).memOk (by decide) hs
    · extract_lets +onlyGivenNames b
      split
      · trivial
      · split
        · change State.MemOk _
          refine (finish_touches ..).memOk (by decide) ?_
          unfold b
          exact (readPieces_touches ..).memOk (by decide) hs
        · split
          · split
            · change State.MemOk _
              refine (finish_touches ..).memOk (by decide) ?_
              unfold b
              exact (readPieces_touches ..).memOk (by decide) hs
            · change State.MemOk _
              refine (finish_touches ..).memOk (by decide) ?_
              refine (modCur_touches ..).memOk (by decide) ?_
              unfold b
              exact (readPieces_touches ..).memOk (by decide) hs
          · split
            · trivial
            · exact (quotaTrap_touches ..).memOk (by decide) hs
            · next x2 s1 h5 =>
                change State.MemOk _
                refine (finish_touches ..).memOk (by decide) ?_
                have k1 := fun hs => Touches.carry h5 (putRec_memOk (hs := hs) ..)
                refine k1 ?_
                unfold b
                exact (readPieces_touches ..).memOk (by decide) hs

theorem execChwr_memOk (rd rs1 rs2 s) (hs : State.MemOk s) : onNext State.MemOk (execChwr rd rs1 rs2 s) := by
  unfold execChwr
  exact blockOn_memOk hs (tryChwr_memOk (hs := hs) ..)

theorem execReduceComplete_memOk (group tag s) (hs : State.MemOk s) : onNext State.MemOk
    (execReduceComplete group tag s) := by
  unfold execReduceComplete
  change State.MemOk _
  refine .foldl (fun u a hu => ?_) _ _ ?_
  · exact (reduceAt_touches ..).memOk (by decide) hu
  · exact hs

theorem execCpywait_memOk (rd rs1 rs2 s) (hs : State.MemOk s) : onNext State.MemOk (execCpywait rd rs1 rs2 s) := by
  unfold execCpywait
  extract_lets +onlyGivenNames t
  have ht : t.MemOk := (modCur_touches ..).memOk (by decide) hs
  clear_value t
  change State.MemOk _
  split
  · exact hs
  · exact blockOn_memOk ht (onSome.imp (fun _ k => k.memOk (by decide) ht) (tryCpywait_touches ..))

theorem execChclose_memOk (rd rs1 s) (hs : State.MemOk s) : onNext State.MemOk (execChclose rd rs1 s) := by
  unfold execChclose
  change State.MemOk _
  split
  · exact hs
  · split
    · exact (asyncDone_touches ..).memOk (by decide) hs
    · extract_lets +onlyGivenNames c
      split
      · exact (asyncDone_touches ..).memOk (by decide) ((setChan_touches ..).memOk (by decide) hs)
      · split
        · exact (asyncDone_touches ..).memOk (by decide) ((reevalAll_touches ..).memOk (by decide)
            ((freeChan_touches ..).memOk (by decide) hs))
        · exact (asyncDone_touches ..).memOk (by decide) hs

theorem execSar_memOk (rd rs1 rs2 s) (hs : State.MemOk s) : onNext State.MemOk (execSar rd rs1 rs2 s) := by
  unfold execSar
  exact (regOp_touches ..).memOk (by decide) hs

theorem execBgen_memOk (rs1 rs2 imm s) (hs : State.MemOk s) : onNext State.MemOk (execBgen rs1 rs2 imm s) := by
  unfold execBgen
  exact (branch_touches ..).memOk (by decide) hs

theorem runThr_memOk {s : State} {pkg fn : Nat} {mine : Nat → Bool} {f : Cmd → Tid → Answered}
    (hs : State.MemOk s)
    (hf : ∀ c t, (f c t).All State.MemOk) : State.MemOk (runThr s pkg fn mine f) := by
  refine runCmd_memOk hs fun c => ?_
  extract_lets t
  split
  · exact cmdFail_memOk _ _ hs
  · split
    · exact cmdFail_memOk _ _ hs
    · exact hf c t

theorem cmdDone_memOk (s : State) (data : List Byte) (hs : State.MemOk s) : (cmdDone s data).All State.MemOk := hs

theorem execThreadHardStop_memOk (pkg fn s) (hs : State.MemOk s) : onNext State.MemOk
    (execThreadHardStop pkg fn s) := by
  unfold execThreadHardStop
  exact runThr_memOk hs fun c t => (cmdDone_memOk (hs := ((modThr_touches ..).memOk (by decide) hs)) ..)

theorem execFreeze_memOk (rd rs1 s) (hs : State.MemOk s) : onNext State.MemOk (execFreeze rd rs1 s) := by
  unfold execFreeze
  change State.MemOk _
  extract_lets +onlyGivenNames h
  split
  · exact hs
  · split
    · exact (asyncDone_touches ..).memOk (by decide) hs
    · split
      · exact (asyncDone_touches ..).memOk (by decide) hs
      · exact (asyncIssue_touches ..).memOk (by decide) ((setGraph_touches ..).memOk (by decide) hs)

theorem performRemote_memOk (s n p r0 answer) (hs : State.MemOk s) : State.MemOk (performRemote s n p r0 answer) := by
  unfold performRemote
  extract_lets +onlyGivenNames q r x x1 hdr out
  split
  · exact hs
  · split
    · exact (raise_touches ..).memOk (by decide) ((putReq_touches ..).memOk (by decide) hs)
    · split
      · split
        · refine (sendPkt_touches ..).memOk (by decide) ?_
          refine (dropInbox_touches ..).memOk (by decide) ?_
          unfold x1
          split
          · exact performReq_memOk (hs := hs) ..
          · exact hs
        · exact hs
      · refine (answerReq_touches ..).memOk (by decide) ?_
        refine (dropInbox_touches ..).memOk (by decide) ?_
        unfold x1
        split
        · exact performReq_memOk (hs := hs) ..
        · exact hs

theorem execHbmWrite_memOk (n s) (hs : State.MemOk s) : onNext State.MemOk (execHbmWrite n s) := by
  unfold execHbmWrite
  change State.MemOk _
  split
  · split
    · exact performRemote_memOk (hs := hs) ..
    · exact hs
  · exact hs

theorem execGfree_memOk (rd rs1 s) (hs : State.MemOk s) : onNext State.MemOk (execGfree rd rs1 s) := by
  unfold execGfree
  change State.MemOk _
  split
  · exact hs
  · extract_lets +onlyGivenNames h1
    split
    · exact (asyncDone_touches ..).memOk (by decide) hs
    · split
      · exact hs
      · split
        · exact (asyncDone_touches ..).memOk (by decide) hs
        · split
          · exact hs
          · exact (asyncDone_touches ..).memOk (by decide) ((reevalAll_touches ..).memOk (by decide)
              ((unloadGraph_touches ..).memOk (by decide) hs))

theorem writeTileChunk_memOk (s j id c m) (hs : State.MemOk s) : State.MemOk (writeTileChunk s j id c m) := by
  unfold writeTileChunk
  extract_lets +onlyGivenNames t s1
  have hs1 : s1.MemOk := by
    unfold s1
    split
    · exact (modTile_touches ..).memOk (by decide) hs
    · exact hs
  clear_value s1
  extract_lets +onlyGivenNames s2
  have hs2 : s2.MemOk := writeTileImage_memOk (hs := hs1) ..
  clear_value s2
  extract_lets +onlyGivenNames s3
  have hs3 : s3.MemOk := by
    unfold s3
    split
    · exact writeScale_memOk (hs := hs2) ..
    · exact hs2
  clear_value s3
  exact (chunkDone_touches ..).memOk (by decide) hs3

theorem moveChunk_memOk (s j c m) (hs : State.MemOk s) : State.MemOk (moveChunk s j c m) := by
  unfold moveChunk
  split
  · split
    · exact hs
    · extract_lets +onlyGivenNames s1
      have hs1 : s1.MemOk := (modCopy_touches ..).memOk (by decide) hs
      clear_value s1
      split
      · exact (stopCopy_touches ..).memOk (by decide) hs1
      · exact (poisonCopy_touches ..).memOk (by decide) hs1
      · exact (mismatchCopy_touches ..).memOk (by decide) hs1
  · extract_lets +onlyGivenNames s1
    have hs1 : s1.MemOk := (logChunk_touches ..).memOk (by decide) hs
    clear_value s1
    extract_lets +onlyGivenNames j1 j2
    split
    · exact (ackChunk_touches ..).memOk (by decide) (writeTileChunk_memOk (hs := hs1) ..)
    · exact (issueAll_touches ..).memOk (by decide) ((modCopy_touches ..).memOk (by decide) hs1)

theorem execPendingReportArrival_memOk (n s) (hs : State.MemOk s) : onNext State.MemOk
    (execPendingReportArrival n s) := by
  unfold execPendingReportArrival
  change State.MemOk _
  split
  · exact hs
  · split
    · exact hs
    · extract_lets +onlyGivenNames s1
      have hs1 : s1.MemOk := (modThr_touches ..).memOk (by decide) hs
      clear_value s1
      exact hs1

theorem execChopen_memOk (rd rs1 rs2 s) (hs : State.MemOk s) : onNext State.MemOk (execChopen rd rs1 rs2 s) := by
  unfold execChopen
  change State.MemOk _
  extract_lets +onlyGivenNames role
  split
  · exact hs
  · split
    · exact (asyncDone_touches ..).memOk (by decide) hs
    · split
      · exact (opTrap_touches ..).memOk (by decide) hs
      · extract_lets +onlyGivenNames b c
        split
        · refine (asyncDone_touches ..).memOk (by decide) ?_
          unfold b
          exact (readPieces_touches ..).memOk (by decide) hs
        · split
          · refine (asyncDone_touches ..).memOk (by decide) ?_
            unfold b
            exact (readPieces_touches ..).memOk (by decide) hs
          · split
            · refine (asyncDone_touches ..).memOk (by decide) ?_
              unfold b
              exact (readPieces_touches ..).memOk (by decide) hs
            · next x1 i s1 h5 =>
                refine (asyncDone_touches ..).memOk (by decide) ?_
                have k := Touches.carry h5 (openChan_touches ..)
                refine Touches.memOk k (by decide) ?_
                unfold b
                exact (readPieces_touches ..).memOk (by decide) hs

theorem execCopen_memOk (e n s) (hs : State.MemOk s) : onNext State.MemOk (execCopen e n s) := by
  unfold execCopen
  change State.MemOk _
  split
  · exact hs
  · extract_lets +onlyGivenNames t k out s1
    have hs1 : s1.MemOk := (modInst_touches ..).memOk (by decide) hs
    clear_value s1
    extract_lets +onlyGivenNames s2
    have hs2 : s2.MemOk := (holdLive_touches ..).memOk (by decide) hs1
    clear_value s2
    split
    · exact (faultFire_touches ..).memOk (by decide) hs
    · split
      · exact hs
      · split
        · next x1 i s3 h3 =>
            exact (fire_touches ..).memOk (by decide) ((Touches.of_snd h3 (fresh_touches ..)).memOk (by decide) hs2)

theorem execSbind_memOk (rd rs1 rs2 s) (hs : State.MemOk s) : onNext State.MemOk (execSbind rd rs1 rs2 s) := by
  unfold execSbind
  change State.MemOk _
  split
  · exact hs
  · exact blockOn_memOk hs (onSome.imp (fun _ k => k.memOk (by decide) hs) (trySbind_touches ..))

theorem execAuip_memOk (rd imm s) (hs : State.MemOk s) : onNext State.MemOk (execAuip rd imm s) := by
  unfold execAuip
  exact (finish_touches ..).memOk (by decide) hs

theorem execFence_memOk (sc s) (hs : State.MemOk s) : onNext State.MemOk (execFence sc s) := by
  unfold execFence
  change State.MemOk _
  split
  · exact hs
  · extract_lets +onlyGivenNames s1
    have hs1 : s1.MemOk := (modCur_touches ..).memOk (by decide) hs
    clear_value s1
    extract_lets +onlyGivenNames s2
    have hs2 : s2.MemOk := by
      unfold s2
      split
      · exact hs1
      · exact (dropAhead_touches ..).memOk (by decide) hs1
    clear_value s2
    split
    · exact (forgetFaults_touches ..).memOk (by decide) hs2
    · exact hs2

theorem execAnd_memOk (rd rs1 rs2 s) (hs : State.MemOk s) : onNext State.MemOk (execAnd rd rs1 rs2 s) := by
  unfold execAnd
  exact (regOp_touches ..).memOk (by decide) hs

theorem execBridge_memOk (e n s) (hs : State.MemOk s) : onNext State.MemOk (execBridge e n s) := by
  unfold execBridge
  change State.MemOk _
  split
  · split
    · exact hs
    · exact (fireOut_touches ..).memOk (by decide) hs
  · exact hs

theorem execMilestoneChange_memOk (pkg s) (hs : State.MemOk s) : onNext State.MemOk (execMilestoneChange pkg s) := by
  unfold execMilestoneChange
  change State.MemOk _
  split
  · exact hs
  · extract_lets +onlyGivenNames ps m told seen
    have hseen : seen.MemOk := by
      unfold seen
      exact hs
    clear_value seen
    split
    · exact hs
    · split
      · exact (modPkg_touches ..).memOk (by decide) hseen
      · extract_lets +onlyGivenNames move
        exact hseen

theorem schedWrite_memOk (s pkg part va bs) (hs : State.MemOk s) : onSome State.MemOk
    (schedWrite s pkg part va bs) := by
  unfold schedWrite
  split
  · exact writePieces_memOk (hs := hs) ..
  · trivial

theorem engineWrite_memOk (s e part va bs) (hs : State.MemOk s) : State.MemOk (engineWrite s e part va bs) := by
  unfold engineWrite
  split
  · exact writeCopy_memOk (hs := hs) ..
  · exact hs

theorem zeroQueues_memOk (s pkg p) (hs : State.MemOk s) : State.MemOk (zeroQueues s pkg p) := by
  unfold zeroQueues
  extract_lets +onlyGivenNames zero s1
  have hs1 : s1.MemOk := by
    unfold s1
    refine .foldl (fun u a hu => ?_) _ _ ?_
    · refine (modLaunchQ_touches ..).memOk (by decide) ?_
      refine memOk_getD (fun u1 hu1 => ?_) ?_
      · have k := fun hs => Touches.carry hu1 (schedWrite_memOk (hs := hs) ..)
        exact k hu
      · exact hu
    · exact hs
  clear_value s1
  refine .foldl (fun u a hu => ?_) _ _ ?_
  · exact engineWrite_memOk (hs := hu) ..
  · exact hs1

theorem takeFor_memOk (s k ps) (hs : State.MemOk s) : TakeRec.All State.MemOk (takeFor s k ps) := by
  unfold takeFor
  split
  · split
    · exact hs
    · trivial
  · split
    · trivial
    · extract_lets +onlyGivenNames d s0
      have hs0 : s0.MemOk := (countRec_touches ..).memOk (by decide) hs
      clear_value s0
      extract_lets +onlyGivenNames s1
      have hs1 : s1.MemOk := (takeRec_touches ..).memOk (by decide) hs0
      clear_value s1
      split
      · split
        · exact hs1
        · split
          · exact (loadErrorTrap_touches ..).memOk (by decide) hs0
          · exact (unwindLevel_touches ..).memOk (by decide) hs1
      · exact (modCur_touches ..).memOk (by decide) (writePieces_memOk (hs := hs1) ..)

theorem execBlt_memOk (rs1 rs2 imm s) (hs : State.MemOk s) : onNext State.MemOk (execBlt rs1 rs2 imm s) := by
  unfold execBlt
  exact (branch_touches ..).memOk (by decide) hs

theorem execBge_memOk (rs1 rs2 imm s) (hs : State.MemOk s) : onNext State.MemOk (execBge rs1 rs2 imm s) := by
  unfold execBge
  exact (branch_touches ..).memOk (by decide) hs

theorem execDivn_memOk (rd rs1 rs2 s) (hs : State.MemOk s) : onNext State.MemOk (execDivn rd rs1 rs2 s) := by
  unfold execDivn
  exact (regOp_touches ..).memOk (by decide) hs

theorem execRetOp_memOk (e n s) (hs : State.MemOk s) : onNext State.MemOk (execRetOp e n s) := by
  unfold execRetOp
  change State.MemOk _
  split
  · exact hs
  · extract_lets +onlyGivenNames o t k
    split
    · exact (faultFire_touches ..).memOk (by decide) hs
    · split
      · exact hs
      · extract_lets +onlyGivenNames out
        split
        · exact hs
        · split
          · next x2 i s1 h4 =>
              exact (fire_touches ..).memOk (by decide) ((closeColour_touches ..).memOk (by decide) ((Touches.of_snd h4
                (fresh_touches ..)).memOk (by decide) hs))

theorem execLd32n_memOk (rd rs1 imm s) (hs : State.MemOk s) : onNext State.MemOk (execLd32n rd rs1 imm s) := by
  unfold execLd32n
  exact (issueLoad_touches ..).memOk (by decide) hs

theorem execNackReceive_memOk (n s) (hs : State.MemOk s) : onNext State.MemOk (execNackReceive n s) := by
  unfold execNackReceive
  change State.MemOk _
  split
  · exact hs
  · extract_lets +onlyGivenNames s1
    have hs1 : s1.MemOk := by
      unfold s1
      exact hs
    clear_value s1
    split
    · exact hs1
    · exact (resend_touches ..).memOk (by decide) hs1

theorem execCsrrd_memOk (rd csr s) (hs : State.MemOk s) : onNext State.MemOk (execCsrrd rd csr s) := by
  unfold execCsrrd
  exact (finish_touches ..).memOk (by decide) hs

theorem execDup_memOk (e n s) (hs : State.MemOk s) : onNext State.MemOk (execDup e n s) := by
  unfold execDup
  change State.MemOk _
  split
  · exact (fireOut_touches ..).memOk (by decide) hs
  · exact hs

theorem execBar2Access_memOk (pkg fn off acc s) (hs : State.MemOk s) : onNext State.MemOk
    (execBar2Access pkg fn off acc s) := by
  unfold execBar2Access
  change State.MemOk _
  extract_lets +onlyGivenNames reply
  have hreply : ∀ u0 a1, State.MemOk u0 → State.MemOk (reply u0 a1) := by
    intro u0 a1 hu
    unfold reply
    exact (modFn_touches ..).memOk (by decide) hu
  split
  · exact hs
  · split
    · extract_lets +onlyGivenNames s1
      have hs1 : s1.MemOk := (coreWalks_touches ..).memOk (by decide) hs
      clear_value s1
      split
      · exact hreply _ _ hs1
      · extract_lets +onlyGivenNames r f
        split
        · refine hreply _ _ ?_
          unfold f
          refine (freeBytes_touches ..).memOk (by decide) ?_
          unfold r
          exact (readPieces_touches ..).memOk (by decide) hs1
        · refine hreply _ _ ?_
          unfold r
          exact (readPieces_touches ..).memOk (by decide) hs1
    · extract_lets +onlyGivenNames s1
      have hs1 : s1.MemOk := (coreWalks_touches ..).memOk (by decide) hs
      clear_value s1
      split
      · exact hreply _ _ hs1
      · exact hreply _ _ (writePieces_memOk (hs := hs1) ..)

theorem execSource_memOk (e n s) (hs : State.MemOk s) : onNext State.MemOk (execSource e n s) := by
  unfold execSource
  change State.MemOk _
  split
  · exact hs
  · split
    · exact hs
    · split
      · exact hs
      · extract_lets +onlyGivenNames t gone
        have hgone : gone.MemOk := by
          unfold gone
          exact hs
        clear_value gone
        extract_lets +onlyGivenNames out s1
        have hs1 : s1.MemOk := (countFiring_touches ..).memOk (by decide) hgone
        clear_value s1
        split
        · exact (raiseAt_touches ..).memOk (by decide) ((noteFault_touches ..).memOk (by decide) hgone)
        · split
          · exact hs
          · exact (touch_touches ..).memOk (by decide) ((sourceDone_touches ..).memOk (by decide)
              ((emitToks_touches ..).memOk (by decide) hs1))

theorem execRetryTimeout_memOk (e n s) (hs : State.MemOk s) : onNext State.MemOk (execRetryTimeout e n s) := by
  unfold execRetryTimeout
  change State.MemOk _
  split
  · exact hs
  · split
    · exact (resend_touches ..).memOk (by decide) hs
    · exact hs

theorem execQmWindowEnd_memOk (pkg lid s) (hs : State.MemOk s) : onNext State.MemOk (execQmWindowEnd pkg lid s) := by
  unfold execQmWindowEnd
  change State.MemOk _
  extract_lets +onlyGivenNames g
  split
  · exact (judge_touches ..).memOk (by decide) hs
  · exact hs

theorem execDbgsetProfileClear_memOk (pkg fn s) (hs : State.MemOk s) : onNext State.MemOk
    (execDbgsetProfileClear pkg fn s) := by
  unfold execDbgsetProfileClear
  change State.MemOk _
  refine runDbg_memOk hs fun c => ?_
  extract_lets +onlyGivenNames k e s1
  have hs1 : s1.MemOk := (bufReads_touches ..).memOk (by decide) hs
  clear_value s1
  split
  · exact cmdFail_memOk (hs := hs) ..
  · split
    · exact cmdFail_memOk (hs := hs) ..
    · split
      · exact cmdFail_memOk (hs := hs) ..
      · split
        · exact cmdFail_memOk (hs := hs1) ..
        · split
          · exact cmdFail_memOk (hs := hs1) ..
          · exact cmdDone_memOk (hs := ((modEng_touches ..).memOk (by decide) hs1)) ..

theorem execEccWindowExpiry_memOk (b s) (hs : State.MemOk s) : onNext State.MemOk (execEccWindowExpiry b s) := by
  unfold execEccWindowExpiry
  refine onNext_next ?_
  extract_lets +onlyGivenNames k
  split
  · exact hs
  · exact (modMode_touches ..).memOk (by decide) ((pendIfDue_touches ..).memOk (by decide) hs)

theorem execWriteAcknowledgement_memOk (t n s) (hs : State.MemOk s) : onNext State.MemOk
    (execWriteAcknowledgement t n s) := by
  unfold execWriteAcknowledgement
  change State.MemOk _
  split
  · exact (modThr_touches ..).memOk (by decide) ((dropReq_touches ..).memOk (by decide) hs)
  · exact hs

theorem execSari_memOk (rd rs1 sh s) (hs : State.MemOk s) : onNext State.MemOk (execSari rd rs1 sh s) := by
  unfold execSari
  exact (finish_touches ..).memOk (by decide) hs

theorem execTime_memOk (rd s) (hs : State.MemOk s) : onNext State.MemOk (execTime rd s) := by
  unfold execTime
  exact (finish_touches ..).memOk (by decide) hs

theorem execMsread_memOk (rd rs1 rs2 s) (hs : State.MemOk s) : onNext State.MemOk (execMsread rd rs1 rs2 s) := by
  unfold execMsread
  change State.MemOk _
  split
  · exact hs
  · extract_lets +onlyGivenNames v cap va e out
    split
    · exact (asyncDone_touches ..).memOk (by decide) hs
    · split
      · split
        · exact (asyncDone_touches ..).memOk (by decide) hs
        · split
          · exact (asyncDone_touches ..).memOk (by decide) hs
          · unfold out
            exact toBuffer_memOk (hs := hs) ..
      · split
        · exact (asyncDone_touches ..).memOk (by decide) hs
        · split
          · exact (asyncDone_touches ..).memOk (by decide) hs
          · unfold out
            exact toBuffer_memOk (hs := hs) ..

theorem runOp_memOk {s : State} {pkg fn op : Nat} {f : Cmd → Answered} (hs : State.MemOk s)
    (hf : ∀ c, (f c).All State.MemOk) : State.MemOk (runOp s pkg fn op f) := runCmd_memOk hs hf

theorem execPcreate_memOk (pkg fn s) (hs : State.MemOk s) : onNext State.MemOk (execPcreate pkg fn s) := by
  unfold execPcreate
  change State.MemOk _
  refine runOp_memOk hs fun c => ?_
  extract_lets +onlyGivenNames p
  split
  · exact cmdFail_memOk (hs := hs) ..
  · split
    · exact hs
    · split
      · exact cmdFail_memOk (hs := hs) ..
      · exact cmdDone_memOk (hs := ((setPart_touches ..).memOk (by decide) hs)) ..

theorem execTimer_memOk (e n s) (hs : State.MemOk s) : onNext State.MemOk (execTimer e n s) := by
  unfold execTimer
  change State.MemOk _
  split
  · exact hs
  · extract_lets +onlyGivenNames t v due s1
    have hs1 : s1.MemOk := (countFiring_touches ..).memOk (by decide) hs
    clear_value s1
    exact (addTimer_touches ..).memOk (by decide) ((touch_touches ..).memOk (by decide) ((leaveFlow_touches ..).memOk
      (by decide) hs1))

theorem execShli_memOk (rd rs1 sh s) (hs : State.MemOk s) : onNext State.MemOk (execShli rd rs1 sh s) := by
  unfold execShli
  exact (finish_touches ..).memOk (by decide) hs

theorem execCsrwr_memOk (rs1 csr s) (hs : State.MemOk s) : onNext State.MemOk (execCsrwr rs1 csr s) := by
  unfold execCsrwr
  exact (modCur_touches ..).memOk (by decide) hs

theorem execCsrclr_memOk (rs1 csr s) (hs : State.MemOk s) : onNext State.MemOk (execCsrclr rs1 csr s) := by
  unfold execCsrclr
  extract_lets +onlyGivenNames old
  exact (modCur_touches ..).memOk (by decide) hs

theorem execHbmAtomic_memOk (n s) (hs : State.MemOk s) : onNext State.MemOk (execHbmAtomic n s) := by
  unfold execHbmAtomic
  change State.MemOk _
  split
  · split
    · exact performRemote_memOk (hs := hs) ..
    · exact hs
  · exact hs

theorem execDbgsetLogEntry_memOk (pkg fn s) (hs : State.MemOk s) : onNext State.MemOk
    (execDbgsetLogEntry pkg fn s) := by
  unfold execDbgsetLogEntry
  change State.MemOk _
  refine runDbg_memOk hs fun c => ?_
  extract_lets +onlyGivenNames k e
  split
  · exact cmdFail_memOk (hs := hs) ..
  · split
    · exact cmdFail_memOk (hs := hs) ..
    · exact cmdDone_memOk (hs := ((modEng_touches ..).memOk (by decide) hs)) ..

theorem execThaw_memOk (rd rs1 s) (hs : State.MemOk s) : onNext State.MemOk (execThaw rd rs1 s) := by
  unfold execThaw
  change State.MemOk _
  extract_lets +onlyGivenNames h s1
  have hs1 : s1.MemOk := (settleFreeze_touches ..).memOk (by decide) hs
  clear_value s1
  split
  · exact (finish_touches ..).memOk (by decide) hs
  · split
    · split
      · exact (finish_touches ..).memOk (by decide) ((thaw_touches ..).memOk (by decide) hs1)
      · exact (finish_touches ..).memOk (by decide) hs1
    · exact hs1

theorem execCopy_memOk (e n s) (hs : State.MemOk s) : onNext State.MemOk (execCopy e n s) := by
  unfold execCopy
  change State.MemOk _
  split
  · exact hs
  · extract_lets +onlyGivenNames l fromTile
    split
    · exact (poisonStart_touches ..).memOk (by decide) hs
    · split
      · exact (badStart_touches ..).memOk (by decide) hs
      · split
        · exact (failStart_touches ..).memOk (by decide) hs
        · split
          · exact (failStart_touches ..).memOk (by decide) hs
          · split
            · exact hs
            · split
              · exact (failStart_touches ..).memOk (by decide) hs
              · split
                · exact hs
                · next x3 j1 s' h7 =>
                    extract_lets +onlyGivenNames tile
                    split
                    · exact hs
                    · refine (emitToks_touches ..).memOk (by decide) ?_
                      refine (servedQ_touches ..).memOk (by decide) ?_
                      refine (beginXfer_touches ..).memOk (by decide) ?_
                      have k := Touches.carry h7 (launchCopy_touches ..)
                      exact Touches.memOk k (by decide) hs

theorem execHstoreComplete_memOk (e n s) (hs : State.MemOk s) : onNext State.MemOk (execHstoreComplete e n s) := by
  unfold execHstoreComplete
  change State.MemOk _
  split
  · exact hs
  · extract_lets +onlyGivenNames mine x2 s'
    have hs' : s'.MemOk := (dropXfer_touches ..).memOk (by decide) hs
    clear_value s'
    extract_lets +onlyGivenNames room
    split
    · exact hs
    · split
      · exact hs
      · extract_lets +onlyGivenNames out
        split
        · split
          · exact hs
          · exact (opFault_touches ..).memOk (by decide) hs'
        · split
          · exact hs
          · exact (poisonConsumed_touches ..).memOk (by decide) hs'
        · split
          · exact hs
          · exact (silentData_touches ..).memOk (by decide) hs'
        · split
          · exact hs
          · exact (spendStore_touches ..).memOk (by decide) ((opFault_touches ..).memOk (by decide) hs')
        · exact (consumeToks_touches ..).memOk (by decide) ((emitToks_touches ..).memOk (by decide) hs')

theorem execHalt_memOk (s) (hs : State.MemOk s) : onNext State.MemOk (execHalt s) := by
  unfold execHalt
  change State.MemOk _
  split
  · exact hs
  · exact (modCur_touches ..).memOk (by decide) hs

theorem execLinkFlitReceive_memOk (e noise s) (hs : State.MemOk s) : onNext State.MemOk
    (execLinkFlitReceive e noise s) := by
  unfold execLinkFlitReceive
  change State.MemOk _
  split
  · exact hs
  · split
    · exact hs
    · split
      · exact (modStrait_touches ..).memOk (by decide) hs
      · exact (modStrait_touches ..).memOk (by decide) hs

theorem execAckReceive_memOk (n s) (hs : State.MemOk s) : onNext State.MemOk (execAckReceive n s) := by
  unfold execAckReceive
  change State.MemOk _
  split
  · exact hs
  · extract_lets +onlyGivenNames s1
    have hs1 : s1.MemOk := by
      unfold s1
      exact hs
    clear_value s1
    split
    · exact hs1
    · extract_lets +onlyGivenNames s2
      have hs2 : s2.MemOk := (modStrait_touches ..).memOk (by decide) hs1
      clear_value s2
      exact (admitPkts_touches ..).memOk (by decide) hs2

theorem writeLocal_memOk (s f k bs) (hs : State.MemOk s) : State.MemOk (writeLocal s f k bs) := by
  unfold writeLocal
  extract_lets +onlyGivenNames t
  split
  · exact (backToRow_touches ..).memOk (by decide) hs
  · exact (backToRow_touches ..).memOk (by decide) hs
  · next x seg pos s' h =>
      extract_lets +onlyGivenNames q s'1
      have hs'1 : s'1.MemOk := by
        unfold s'1
        refine (watchPassed_touches ..).memOk (by decide) ?_
        have k1 := Touches.carry h (writePlace_touches ..)
        exact Touches.memOk k1 (by decide) hs
      clear_value s'1
      extract_lets +onlyGivenNames s'2
      have hs'2 : s'2.MemOk := by
        unfold s'2
        split
        · exact (tokRead_touches ..).memOk (by decide) hs'1
        · exact hs'1
      clear_value s'2
      extract_lets +onlyGivenNames ord
      split
      · exact hs
      · split
        · next x1 v h2 =>
            have k1 := Touches.carry h2 (recGate_touches ..)
            exact Touches.memOk k1 (by decide) hs
        · exact (fireXfer_touches ..).memOk (by decide) (landRec_memOk (hs := ((reserveRec_touches ..).memOk
            (by decide) hs'2)) ..)

theorem writeRecord_memOk (s f k bs) (hs : State.MemOk s) : State.MemOk (writeRecord s f k bs) := by
  unfold writeRecord
  split
  · exact writeLocal_memOk (hs := hs) ..
  · exact (writeRemote_touches ..).memOk (by decide) hs

theorem tileInStop_memOk {s : State} {f : Start} {t : Token} {x : TileIn} (hs : State.MemOk s)
    (hx : x.All State.MemOk) : State.MemOk (tileInStop s f t x) := by
  have hr : (tokRead s t f.act.id).MemOk := (tokRead_touches ..).memOk (by decide) hs
  unfold tileInStop
  extract_lets room read
  split
  · exact hs
  · exact hs
  · exact hx
  · split
    · exact (poisonStart_touches ..).memOk (by decide) hr
    · exact hs
  · split
    · exact (failStart_touches ..).memOk (by decide) hr
    · exact hs
  · split
    · exact (badStart_touches ..).memOk (by decide) hr
    · exact hs

theorem execChw_memOk (e n s) (hs : State.MemOk s) : onNext State.MemOk (execChw e n s) := by
  unfold execChw
  change State.MemOk _
  split
  · split
    · split
      · exact (endXUnit_touches ..).memOk (by decide) hs
      · exact hs
    · exact hs
  · split
    · exact hs
    · extract_lets +onlyGivenNames t
      split
      · exact hs
      · split
        · exact (poisonStart_touches ..).memOk (by decide) hs
        · split
          · split
            · exact (failStart_touches ..).memOk (by decide) hs
            · extract_lets +onlyGivenNames c
              split
              · exact (failStart_touches ..).memOk (by decide) hs
              · split
                · exact (failStart_touches ..).memOk (by decide) hs
                · exact writeRecord_memOk (hs := hs) ..
          · refine tileInStop_memOk hs ?_
            split
            · exact TileIn.All.imp (fun _ k => k.memOk (by decide) hs) (readTileTok_touches ..)
            · split
              · trivial
              · trivial

theorem execHload_memOk (e n s) (hs : State.MemOk s) : onNext State.MemOk (execHload e n s) := by
  unfold execHload
  change State.MemOk _
  split
  · exact hs
  · split
    · exact (poisonStart_touches ..).memOk (by decide) hs
    · split
      · exact (badStart_touches ..).memOk (by decide) hs
      · extract_lets +onlyGivenNames c
        split
        · extract_lets +onlyGivenNames t
          split
          · exact hs
          · split
            · exact (failStart_touches ..).memOk (by decide) hs
            · split
              · exact (failStart_touches ..).memOk (by decide) hs
              · split
                · next x6 st s' h8 =>
                    split
                    · next x7 i1 s1 h9 =>
                        extract_lets +onlyGivenNames rg reqs s2
                        have hs2 : s2.MemOk := by
                          unfold s2
                          show State.MemOk s1
                          exact (Touches.of_snd h9 (fresh_touches ..)).memOk (by decide) ((Touches.of_snd h8
                            (newStamp_touches ..)).memOk (by decide) hs)
                        clear_value s2
                        split
                        · exact hs
                        · exact (issueAll_touches ..).memOk (by decide) ((beginXfer_touches ..).memOk (by decide) hs2)
        · exact (failStart_touches ..).memOk (by decide) hs

theorem execDbgsetStopEntry_memOk (pkg fn s) (hs : State.MemOk s) : onNext State.MemOk
    (execDbgsetStopEntry pkg fn s) := by
  unfold execDbgsetStopEntry
  change State.MemOk _
  refine runDbg_memOk hs fun c => ?_
  extract_lets +onlyGivenNames k s1
  have hs1 : s1.MemOk := (bufReads_touches ..).memOk (by decide) hs
  clear_value s1
  extract_lets +onlyGivenNames old
  split
  · exact cmdFail_memOk (hs := hs) ..
  · split
    · exact cmdFail_memOk (hs := hs1) ..
    · extract_lets +onlyGivenNames v
      split
      · exact cmdFail_memOk (hs := hs1) ..
      · split
        · exact cmdFail_memOk (hs := hs1) ..
        · exact cmdDone_memOk (hs := ((setStop_touches ..).memOk (by decide) hs1)) ..

theorem execSink_memOk (e n s) (hs : State.MemOk s) : onNext State.MemOk (execSink e n s) := by
  unfold execSink
  change State.MemOk _
  split
  · exact (fireOut_touches ..).memOk (by decide) hs
  · exact hs

theorem execXori_memOk (rd rs1 imm s) (hs : State.MemOk s) : onNext State.MemOk (execXori rd rs1 imm s) := by
  unfold execXori
  exact (finish_touches ..).memOk (by decide) hs

theorem execAmocas_memOk (rd rs1 rs2 ord s) (hs : State.MemOk s) : onNext State.MemOk
    (execAmocas rd rs1 rs2 ord s) := by
  unfold execAmocas
  exact (issueAmo_touches ..).memOk (by decide) hs

theorem execRgroup_memOk (pkg fn s) (hs : State.MemOk s) : onNext State.MemOk (execRgroup pkg fn s) := by
  unfold execRgroup
  change State.MemOk _
  refine runOp_memOk hs fun c => ?_
  extract_lets +onlyGivenNames rank n s1
  have hs1 : s1.MemOk := (bufReads_touches ..).memOk (by decide) hs
  clear_value s1
  split
  · exact cmdFail_memOk (hs := hs) ..
  · split
    · exact cmdFail_memOk (hs := hs1) ..
    · exact cmdDone_memOk (hs := ((modGroup_touches ..).memOk (by decide) hs1)) ..

theorem execTwsetExpiry_memOk (pkg die n s) (hs : State.MemOk s) : onNext State.MemOk
    (execTwsetExpiry pkg die n s) := by
  unfold execTwsetExpiry
  change State.MemOk _
  extract_lets +onlyGivenNames s0
  have hs0 : s0.MemOk := hs
  clear_value s0
  split
  · exact hs
  · split
    · exact (setEvent_touches ..).memOk (by decide) ((dropEnt_touches ..).memOk (by decide) hs)
    · split
      · next x2 i s1 h2 =>
          split
          · next x3 v h3 =>
              split
              · exact hs0
              · have k := Touches.carry h3 (inject_touches ..)
                exact Touches.memOk k (by decide) ((Touches.of_snd h2 (fresh_touches ..)).memOk (by decide)
                  ((touchTwset_touches ..).memOk (by decide) ((dropEnt_touches ..).memOk (by decide) hs)))
          · exact (raise_touches ..).memOk (by decide) ((Touches.of_snd h2 (fresh_touches ..)).memOk (by decide)
              ((touchTwset_touches ..).memOk (by decide) ((dropEnt_touches ..).memOk (by decide) hs)))
    · exact hs

theorem onPart_memOk {s : State} {pkg p : Nat} {f : Partition → Answered} (hs : State.MemOk s)
    (hf : ∀ q, (f q).All State.MemOk) : (onPart s pkg p f).All State.MemOk := by
  unfold onPart
  split
  · exact cmdFail_memOk _ _ hs
  · split
    · exact hs
    · split
      · exact cmdFail_memOk _ _ hs
      · exact hf _

theorem execPgrant_memOk (pkg fn s) (hs : State.MemOk s) : onNext State.MemOk (execPgrant pkg fn s) := by
  unfold execPgrant
  change State.MemOk _
  refine runOp_memOk hs fun c => ?_
  refine onPart_memOk hs fun p => ?_
  extract_lets +onlyGivenNames p1 die back src dst pages ths bf bn hb hn s'
  have hs' : s'.MemOk := (moveGrant_touches ..).memOk (by decide) hs
  clear_value s'
  split
  · exact cmdFail_memOk (hs := hs) ..
  · split
    · exact cmdFail_memOk (hs := hs) ..
    · split
      · exact cmdFail_memOk (hs := hs) ..
      · split
        · exact cmdFail_memOk (hs := hs) ..
        · exact cmdDone_memOk (hs := hs') ..

theorem execAspace_memOk (pkg fn s) (hs : State.MemOk s) : onNext State.MemOk (execAspace pkg fn s) := by
  unfold execAspace
  change State.MemOk _
  refine runOp_memOk hs fun c => ?_
  refine onPart_memOk hs fun p => ?_
  extract_lets +onlyGivenNames root vb vl
  split
  · exact cmdFail_memOk (hs := hs) ..
  · exact cmdDone_memOk (hs := ((setPart_touches ..).memOk (by decide) hs)) ..

theorem execSltn_memOk (rd rs1 rs2 s) (hs : State.MemOk s) : onNext State.MemOk (execSltn rd rs1 rs2 s) := by
  unfold execSltn
  exact (regOp_touches ..).memOk (by decide) hs

theorem execAmomin_memOk (rd rs1 rs2 ord s) (hs : State.MemOk s) : onNext State.MemOk
    (execAmomin rd rs1 rs2 ord s) := by
  unfold execAmomin
  exact (issueAmo_touches ..).memOk (by decide) hs

theorem execAdd_memOk (rd rs1 rs2 s) (hs : State.MemOk s) : onNext State.MemOk (execAdd rd rs1 rs2 s) := by
  unfold execAdd
  exact (regOp_touches ..).memOk (by decide) hs

theorem execSstart_memOk (rd rs1 rs2 s) (hs : State.MemOk s) : onNext State.MemOk (execSstart rd rs1 rs2 s) := by
  unfold execSstart
  change State.MemOk _
  split
  · exact hs
  · split
    · exact (finish_touches ..).memOk (by decide) hs
    · extract_lets +onlyGivenNames n o
      split
      · exact (finish_touches ..).memOk (by decide) hs
      · split
        · exact (finish_touches ..).memOk (by decide) hs
        · split
          · exact (finish_touches ..).memOk (by decide) hs
          · split
            · exact (finish_touches ..).memOk (by decide) hs
            · extract_lets +onlyGivenNames s1
              have hs1 : s1.MemOk := (setCmd_touches ..).memOk (by decide) hs
              clear_value s1
              exact (finish_touches ..).memOk (by decide) ((modPort_touches ..).memOk (by decide) hs1)

theorem execTerminalAccept_memOk (n s) (hs : State.MemOk s) : onNext State.MemOk (execTerminalAccept n s) := by
  unfold execTerminalAccept
  change State.MemOk _
  split
  · exact hs
  · extract_lets +onlyGivenNames e s1
    have hs1 : s1.MemOk := (adoptMilestone_touches ..).memOk (by decide) hs
    extract_lets +onlyGivenNames s2
    have hs2 : s2.MemOk := (dropPkt_touches ..).memOk (by decide) hs1
    extract_lets +onlyGivenNames st key t k x1
    split
    · exact hs
    · split
      · exact (staleDrop_touches ..).memOk (by decide) hs
      · split
        · exact (misroute_touches ..).memOk (by decide) hs1
        · split
          · exact (sendAnswer_touches ..).memOk (by decide) hs2
          · split
            · exact hs2
            · refine (modStrait_touches ..).memOk (by decide) ?_
              unfold x1
              exact (passInOrder_touches ..).memOk (by decide) ((sendAnswer_touches ..).memOk (by decide) hs2)

theorem execLaunchEventPoll_memOk (pkg q s) (hs : State.MemOk s) : onNext State.MemOk
    (execLaunchEventPoll pkg q s) := by
  unfold execLaunchEventPoll
  change State.MemOk _
  refine .foldl (fun u a hu => ?_) _ _ ?_
  · extract_lets +onlyGivenNames met s1
    have hs1 : s1.MemOk := by
      unfold s1
      refine .foldl (fun u1 a1 hu1 => ?_) _ _ ?_
      · exact (coreReads_touches ..).memOk (by decide) hu1
      · exact hu
    clear_value s1
    extract_lets +onlyGivenNames x
    exact (setLaunch_touches ..).memOk (by decide) hs1
  · exact hs

theorem execLd8_memOk (rd rs1 imm s) (hs : State.MemOk s) : onNext State.MemOk (execLd8 rd rs1 imm s) := by
  unfold execLd8
  exact (issueLoad_touches ..).memOk (by decide) hs

theorem performHeld_memOk (s x) (hs : State.MemOk s) : PutRec.All State.MemOk (performHeld s x) := by
  unfold performHeld
  split
  · extract_lets +onlyGivenNames c
    split
    · exact hs
    · exact putRec_memOk (hs := hs) ..
  · split
    · next x1 i s1 h =>
        split
        · next x2 v h1 =>
            split
            · trivial
            · change State.MemOk _
              have k := Touches.carry h1 (inject_touches ..)
              exact Touches.memOk k (by decide) ((Touches.of_snd h (fresh_touches ..)).memOk (by decide) hs)
        · exact (Touches.of_snd h (fresh_touches ..)).memOk (by decide) hs
  · exact (addTimer_touches ..).memOk (by decide) ((touchTwset_touches ..).memOk (by decide) hs)

theorem performAll_memOk (s a) (hs : State.MemOk s) : State.MemOk (performAll s a).1 := by
  fun_induction performAll s a with
  | case1 s => exact hs
  | case2 s x xs s1 h ih =>
    have k := Touches.carry h (performHeld_memOk _ _ hs)
    exact ih k
  | case3 s x xs h => exact hs
  | case4 s x xs a n h => exact hs

theorem closeOuter_memOk (s rd l) (hs : State.MemOk s) : State.MemOk (closeOuter s rd l) := by
  unfold closeOuter
  split
  · exact hs
  · extract_lets +onlyGivenNames r
    split
    · refine (finish_touches ..).memOk (by decide) ?_
      refine (modCur_touches ..).memOk (by decide) ?_
      unfold r
      exact performAll_memOk (hs := hs) ..
    · extract_lets +onlyGivenNames s1
      have hs1 : s1.MemOk := by
        unfold s1
        refine (modCur_touches ..).memOk (by decide) ?_
        unfold r
        exact performAll_memOk (hs := hs) ..
      clear_value s1
      split
      · exact (quotaTrap_touches ..).memOk (by decide) hs1
      · exact hs1

theorem closeLevel_memOk (s rd) (hs : State.MemOk s) : State.MemOk (closeLevel s rd) := by
  unfold closeLevel
  extract_lets +onlyGivenNames ls up
  split
  · exact (finish_touches ..).memOk (by decide) hs
  · exact closeOuter_memOk (hs := hs) ..
  · exact (finish_touches ..).memOk (by decide) ((modCur_touches ..).memOk (by decide) hs)

theorem landWrite_memOk (s n p k ord chunk bs) (hs : State.MemOk s) : State.MemOk (landWrite s n p k ord chunk bs) := by
  unfold landWrite
  split
  · exact (dropInbox_touches ..).memOk (by decide) hs
  · split
    · exact hs
    · split
      · next x1 v h2 =>
          have k1 := Touches.carry h2 (recGate_touches ..)
          exact Touches.memOk k1 (by decide) hs
      · exact landPart_memOk (hs := ((watchPassed_touches ..).memOk (by decide) ((dropInbox_touches ..).memOk
          (by decide) hs))) ..

theorem passChunk_memOk {s : State} {j : CopyJob} {c : Nat} {m : Moved} {count : State → State} (hs : State.MemOk s)
    (hc : ∀ u, State.MemOk u → (count u).MemOk) : State.MemOk (passChunk s j c m count) := by
  unfold passChunk
  split
  · next h =>
      have h := Touches.carry h (copyGate_touches ..)
      exact Touches.memOk h (by decide) hs
  · exact moveChunk_memOk (hs := hc _ ((watchPassed_touches ..).memOk (by decide) hs)) ..

theorem execAsyncTrapEntry_memOk (t s) (hs : State.MemOk s) : onNext State.MemOk (execAsyncTrapEntry t s) := by
  unfold execAsyncTrapEntry
  change State.MemOk _
  extract_lets +onlyGivenNames th
  split
  · exact hs
  · split
    · exact hs
    · split
      · exact (loadErrorTrap_touches ..).memOk (by decide) hs
      · extract_lets +onlyGivenNames s1
        have hs1 : s1.MemOk := (modThr_touches ..).memOk (by decide) hs
        clear_value s1
        exact (enterTrap_touches ..).memOk (by decide) hs1

theorem execFetchFault_memOk (why s) (hs : State.MemOk s) : onNext State.MemOk (execFetchFault why s) := by
  unfold execFetchFault
  change State.MemOk _
  extract_lets +onlyGivenNames th
  exact (trapCur_touches ..).memOk (by decide) ((dropWalk_touches ..).memOk (by decide) hs)

theorem execTokenArrival_memOk (e n s) (hs : State.MemOk s) : onNext State.MemOk (execTokenArrival e n s) := by
  unfold execTokenArrival
  exact (arrive_touches ..).memOk (by decide) hs

theorem execArbiterSelect_memOk (e s) (hs : State.MemOk s) : onNext State.MemOk (execArbiterSelect e s) := by
  unfold execArbiterSelect
  change State.MemOk _
  extract_lets +onlyGivenNames s1
  have hs1 : s1.MemOk := (reevalAll_touches ..).memOk (by decide) hs
  clear_value s1
  extract_lets +onlyGivenNames s2
  have hs2 : s2.MemOk := (addOcc_touches ..).memOk (by decide) ((modEng_touches ..).memOk (by decide) hs1)
  clear_value s2
  extract_lets +onlyGivenNames c x ur no cls o w total cr slots
  split
  · exact hs1
  · split
    · exact hs2
    · extract_lets +onlyGivenNames slots1 s3
      have hs3 : s3.MemOk := (setEng_touches ..).memOk (by decide) hs2
      clear_value s3
      split
      · exact (selectAct_touches ..).memOk (by decide) hs3
      · exact hs3

theorem execArbiterReweight_memOk (e s) (hs : State.MemOk s) : onNext State.MemOk (execArbiterReweight e s) := by
  unfold execArbiterReweight
  change State.MemOk _
  extract_lets +onlyGivenNames x
  split
  · exact hs
  · exact (setEng_touches ..).memOk (by decide) hs

theorem execLiveCountUpdate_memOk (n s) (hs : State.MemOk s) : onNext State.MemOk (execLiveCountUpdate n s) := by
  unfold execLiveCountUpdate
  change State.MemOk _
  split
  · exact hs
  · extract_lets +onlyGivenNames rest
    have hrest : rest.MemOk := by
      unfold rest
      exact hs
    clear_value rest
    extract_lets +onlyGivenNames s1
    have hs1 : s1.MemOk := (addBal_touches ..).memOk (by decide) ((holdLive_touches ..).memOk (by decide) hrest)
    clear_value s1
    split
    · split
      · exact hs
      · split
        · split
          · exact hs
          · split
            · split
              · exact (balFault_touches ..).memOk (by decide) ((holdLive_touches ..).memOk (by decide) hrest)
              · exact hs
            · exact (touch_touches ..).memOk (by decide) hs1
        · exact (holdLive_touches ..).memOk (by decide) hrest
    · split
      · exact hs
      · split
        · split
          · split
            · exact (balFault_touches ..).memOk (by decide) hrest
            · exact hs
          · exact (dropLive_touches ..).memOk (by decide) hrest
        · exact (dropLive_touches ..).memOk (by decide) ((addBal_touches ..).memOk (by decide) hrest)

theorem signalEvent_memOk (s pkg l) (hs : State.MemOk s) : State.MemOk (signalEvent s pkg l) := by
  unfold signalEvent
  extract_lets +onlyGivenNames e
  split
  · exact hs
  · split
    · extract_lets +onlyGivenNames s1
      have hs1 : s1.MemOk := writeHbm_memOk (hs := hs) ..
      clear_value s1
      extract_lets +onlyGivenNames c
      exact writeHbm_memOk (hs := hs1) ..
    · exact hs

theorem finishLaunch_memOk (s pkg lid) (hs : State.MemOk s) : State.MemOk (finishLaunch s pkg lid) := by
  unfold finishLaunch
  split
  · exact hs
  · extract_lets +onlyGivenNames s1
    have hs1 : s1.MemOk := signalEvent_memOk (hs := ((detachLaunch_touches ..).memOk (by decide) hs)) ..
    clear_value s1
    extract_lets +onlyGivenNames t s2
    have hs2 : s2.MemOk := by
      unfold s2
      split
      · exact (setEvent_touches ..).memOk (by decide) hs1
      · exact hs1
    clear_value s2
    exact (reevalAll_touches ..).memOk (by decide) hs2

theorem execLaunchComplete_memOk (pkg n s) (hs : State.MemOk s) : onNext State.MemOk (execLaunchComplete pkg n s) := by
  unfold execLaunchComplete
  change State.MemOk _
  split
  · exact hs
  · split
    · exact hs
    · extract_lets +onlyGivenNames die
      exact finishLaunch_memOk (hs := ((traceClass_touches ..).memOk (by decide) hs)) ..

theorem execEnterOp_memOk (e n s) (hs : State.MemOk s) : onNext State.MemOk (execEnterOp e n s) := by
  unfold execEnterOp
  change State.MemOk _
  split
  · exact hs
  · extract_lets +onlyGivenNames o t lp grp key go
    have hgo : ∀ u0 a1 a2, State.MemOk u0 → State.MemOk (go u0 a1 a2) := by
      intro u0 a1 a2 hu
      unfold go
      split
      · next x1 i s1 h1 =>
          exact (countEntry_touches ..).memOk (by decide) ((fire_touches ..).memOk (by decide) ((Touches.of_snd h1
            (fresh_touches ..)).memOk (by decide) hu))
    split
    · exact hs
    · split
      · exact hgo _ _ _ hs
      · split
        · exact hs
        · split
          · next x2 c s1 h4 =>
              refine hgo _ _ _ ?_
              have k := Touches.carry h4 (tryDraw_touches ..)
              exact Touches.memOk k (by decide) hs
          · next x2 s1 h4 =>
              have k := Touches.carry h4 (tryDraw_touches ..)
              exact Touches.memOk k (by decide) hs

theorem execNextOp_memOk (e n s) (hs : State.MemOk s) : onNext State.MemOk (execNextOp e n s) := by
  unfold execNextOp
  change State.MemOk _
  split
  · exact hs
  · extract_lets +onlyGivenNames o t d k c go
    have hgo : ∀ u0 a1, State.MemOk u0 → State.MemOk (go u0 a1) := by
      intro u0 a1 hu
      unfold go
      split
      · next x1 i s1 h1 =>
          extract_lets +onlyGivenNames s2
          have hs2 : s2.MemOk := (closeColour_touches ..).memOk (by decide) ((Touches.of_snd h1
            (fresh_touches ..)).memOk (by decide) hu)
          clear_value s2
          exact (fire_touches ..).memOk (by decide) hs2
    extract_lets +onlyGivenNames asked
    split
    · exact (faultFire_touches ..).memOk (by decide) hs
    · split
      · exact (faultFire_touches ..).memOk (by decide) hs
      · split
        · exact hs
        · split
          · exact hgo _ _ hs
          · split
            · exact hs
            · split
              · next x1 c1 s1 h6 =>
                  refine hgo _ _ ?_
                  refine (modCol_touches ..).memOk (by decide) ?_
                  have k1 := Touches.carry h6 (tryDraw_touches ..)
                  exact Touches.memOk k1 (by decide) hs
              · next x1 s1 h6 =>
                  refine (modCol_touches ..).memOk (by decide) ?_
                  have k1 := Touches.carry h6 (tryDraw_touches ..)
                  exact Touches.memOk k1 (by decide) hs

theorem execCallOp_memOk (e n s) (hs : State.MemOk s) : onNext State.MemOk (execCallOp e n s) := by
  unfold execCallOp
  change State.MemOk _
  split
  · exact hs
  · extract_lets +onlyGivenNames o t v fn grp key dests go
    have hgo : ∀ u0 a1 a2, State.MemOk u0 → State.MemOk (go u0 a1 a2) := by
      intro u0 a1 a2 hu
      unfold go
      extract_lets +onlyGivenNames s1
      have hs1 : s1.MemOk := by
        unfold s1
        split
        · exact (modRegion_touches ..).memOk (by decide) hu
        · exact hu
      clear_value s1
      extract_lets +onlyGivenNames ctx
      split
      · next x1 i s2 h1 =>
          exact (countEntry_touches ..).memOk (by decide) ((fire_touches ..).memOk (by decide) ((Touches.of_snd h1
            (fresh_touches ..)).memOk (by decide) hs1))
    split
    · exact hs
    · split
      · exact hgo _ _ _ hs
      · split
        · exact hs
        · split
          · next x2 c s1 h4 =>
              refine hgo _ _ _ ?_
              have k := Touches.carry h4 (tryDraw_touches ..)
              exact Touches.memOk k (by decide) hs
          · next x2 s1 h4 =>
              have k := Touches.carry h4 (tryDraw_touches ..)
              exact Touches.memOk k (by decide) hs

theorem execGsteer_memOk (e n s) (hs : State.MemOk s) : onNext State.MemOk (execGsteer e n s) := by
  unfold execGsteer
  change State.MemOk _
  split
  · exact (fireOut_touches ..).memOk (by decide) hs
  · exact hs

theorem execGmerge_memOk (e n s) (hs : State.MemOk s) : onNext State.MemOk (execGmerge e n s) := by
  unfold execGmerge
  change State.MemOk _
  split
  · exact (fireOut_touches ..).memOk (by decide) hs
  · exact hs

theorem execTriggerArrival_memOk (e n s) (hs : State.MemOk s) : onNext State.MemOk (execTriggerArrival e n s) := by
  unfold execTriggerArrival
  exact (arrive_touches ..).memOk (by decide) hs

theorem execTriggerDeadline_memOk (e slot vrow s) (hs : State.MemOk s) : onNext State.MemOk
    (execTriggerDeadline e slot vrow s) := by
  unfold execTriggerDeadline
  change State.MemOk _
  extract_lets +onlyGivenNames w
  split
  · exact hs
  · split
    · exact (evalTrigger_touches ..).memOk (by decide) ((dropEnt_touches ..).memOk (by decide) hs)
    · exact hs

theorem execTimerExpiry_memOk (pkg die n s) (hs : State.MemOk s) : onNext State.MemOk
    (execTimerExpiry pkg die n s) := by
  unfold execTimerExpiry
  change State.MemOk _
  split
  · split
    · split
      · exact (dropEnt_touches ..).memOk (by decide) hs
      · split
        · next x2 i s1 h3 =>
            extract_lets +onlyGivenNames out
            exact (consumeToks_touches ..).memOk (by decide) ((emitToks_touches ..).memOk (by decide)
              ((Touches.of_snd h3 (fresh_touches ..)).memOk (by decide) ((dropEnt_touches ..).memOk (by decide) hs)))
    · exact hs
  · exact hs

theorem execVblockActivation_memOk (e s) (hs : State.MemOk s) : onNext State.MemOk (execVblockActivation e s) := by
  unfold execVblockActivation
  change State.MemOk _
  split
  · exact hs
  · split
    · exact hs
    · extract_lets +onlyGivenNames b seen s1
      have hs1 : s1.MemOk := (modSlot_touches ..).memOk (by decide) hs
      clear_value s1
      extract_lets +onlyGivenNames outs s'
      have hs' : s'.MemOk := (startRun_touches ..).memOk (by decide) hs1
      clear_value s'
      split
      · exact (blockElement_touches ..).memOk (by decide) hs
      · split
        · exact (modVTile_touches ..).memOk (by decide) hs'
        · exact hs'

theorem execVblockComplete_memOk (e s) (hs : State.MemOk s) : onNext State.MemOk (execVblockComplete e s) := by
  unfold execVblockComplete
  change State.MemOk _
  split
  · exact hs
  · extract_lets +onlyGivenNames ps t imgs toks fin
    split
    · exact hs
    · split
      · split
        · exact hs
        · refine checked_memOk hs ?_
          split
          · exact (faultRun_touches ..).memOk (by decide) hs
          · extract_lets +onlyGivenNames s1
            have hs1 : s1.MemOk := by
              unfold s1
              refine .foldl (fun u1 a hu => ?_) _ _ ?_
              · exact (beginImage_touches ..).memOk (by decide) hu
              · exact hs
            clear_value s1
            exact (modRun_touches ..).memOk (by decide) hs1
      · split
        · exact hs
        · exact (endRun_touches ..).memOk (by decide) hs

theorem execWload_memOk (e s) (hs : State.MemOk s) : onNext State.MemOk (execWload e s) := by
  unfold execWload
  change State.MemOk _
  split
  · split
    · exact hs
    · refine checked_memOk hs ?_
      extract_lets +onlyGivenNames l out w s1
      have hs1 : s1.MemOk := (modIsland_touches ..).memOk (by decide) hs
      clear_value s1
      exact (endRun_touches ..).memOk (by decide) hs1
  · split
    · extract_lets +onlyGivenNames s'
      have hs' : s'.MemOk := (startRun_touches ..).memOk (by decide) hs
      clear_value s'
      split
      · exact (modIsland_touches ..).memOk (by decide) hs'
      · exact hs'
    · exact hs

theorem execGather_memOk (e s) (hs : State.MemOk s) : onNext State.MemOk (execGather e s) := by
  unfold execGather
  change State.MemOk _
  refine course_memOk hs fun r u => ?_
  extract_lets +onlyGivenNames l x o
  split
  · exact (writeOut_touches ..).memOk (by decide) hs
  · exact hs

theorem execRepeatOp_memOk (e s) (hs : State.MemOk s) : onNext State.MemOk (execRepeatOp e s) := by
  unfold execRepeatOp
  change State.MemOk _
  refine course_memOk hs fun r u => ?_
  extract_lets +onlyGivenNames l
  split
  · exact (writeOut_touches ..).memOk (by decide) hs
  · exact hs

theorem writeLine_memOk (s o b bs) (hs : State.MemOk s) : State.MemOk (writeLine s o b bs) := by
  unfold writeLine
  refine .foldl (fun u a hu => ?_) _ _ ?_
  · extract_lets +onlyGivenNames lo
    exact writeUnit_memOk (hs := hu) ..
  · exact hs

theorem execSwin_memOk (e s) (hs : State.MemOk s) : onNext State.MemOk (execSwin e s) := by
  unfold execSwin
  change State.MemOk _
  refine course_memOk hs fun r u => ?_
  extract_lets +onlyGivenNames c l x n s'
  have hs' : s'.MemOk := (modSlot_touches ..).memOk (by decide) (writeLine_memOk (hs := hs) ..)
  clear_value s'
  split
  · extract_lets +onlyGivenNames as_
    split
    · split
      · exact hs
      · exact (poisonConsumed_touches ..).memOk (by decide) ((abortRun_touches ..).memOk (by decide)
          ((countWords_touches ..).memOk (by decide) hs'))
    · exact (writeOut_touches ..).memOk (by decide) ((countWords_touches ..).memOk (by decide) hs')
  · exact (endRun_touches ..).memOk (by decide) hs'

theorem execTransp_memOk (e s) (hs : State.MemOk s) : onNext State.MemOk (execTransp e s) := by
  unfold execTransp
  change State.MemOk _
  refine course_memOk hs fun r u => ?_
  extract_lets +onlyGivenNames l
  split
  · exact (writeOut_touches ..).memOk (by decide) hs
  · exact hs

theorem execConv_memOk (e s) (hs : State.MemOk s) : onNext State.MemOk (execConv e s) := by
  unfold execConv
  extract_lets +onlyGivenNames mode
  change State.MemOk _
  refine course_memOk hs fun r u => ?_
  extract_lets +onlyGivenNames c o
  split
  · extract_lets +onlyGivenNames t area
    exact (writeOut_touches ..).memOk (by decide) hs
  · exact hs

theorem execHloadSectorReturn_memOk (e n s) (hs : State.MemOk s) : onNext State.MemOk
    (execHloadSectorReturn e n s) := by
  unfold execHloadSectorReturn
  change State.MemOk _
  split
  · split
    · split
      · split
        · exact (sectorBack_touches ..).memOk (by decide) hs
        · exact hs
      · split
        · exact (dropReq_touches ..).memOk (by decide) hs
        · exact hs
    · exact hs
  · split
    · exact hs
    · split
      · split
        · exact (finishLoad_touches ..).memOk (by decide) hs
        · exact hs
      · exact hs

theorem execHstore_memOk (e n s) (hs : State.MemOk s) : onNext State.MemOk (execHstore e n s) := by
  unfold execHstore
  change State.MemOk _
  extract_lets +onlyGivenNames u c
  split
  · split
    · exact (startStore_touches ..).memOk (by decide) hs
    · exact hs
  · split
    · exact hs
    · split
      · split
        · exact hs
        · split
          · next x3 v h4 =>
              have k := Touches.carry h4 (chunkGate_touches ..)
              exact Touches.memOk k (by decide) hs
          · exact (readStore_touches ..).memOk (by decide) ((watchPassed_touches ..).memOk (by decide) hs)
      · exact hs

theorem execCopyChunkAck_memOk (pkg die n chunk s) (hs : State.MemOk s) : onNext State.MemOk
    (execCopyChunkAck pkg die n chunk s) := by
  unfold execCopyChunkAck
  change State.MemOk _
  split
  · exact hs
  · extract_lets +onlyGivenNames mine back
    split
    · split
      · exact (lateAck_touches ..).memOk (by decide) hs
      · exact (endCopy_touches ..).memOk (by decide) hs
    · split
      · exact (finishCopy_touches ..).memOk (by decide) hs
      · split
        · exact hs
        · split
          · split
            · exact hs
            · split
              · split
                · exact (stopCopy_touches ..).memOk (by decide) hs
                · exact hs
              · exact (ackChunk_touches ..).memOk (by decide) hs
          · split
            · split
              · exact hs
              · exact passChunk_memOk hs fun u hu => ((countBurst_touches ..).memOk (by decide)
                  ((clearData_touches ..).memOk (by decide) hu))
            · split
              · exact (issueAll_touches ..).memOk (by decide) ((modCopy_touches ..).memOk (by decide) hs)
              · split
                · exact hs
                · refine passChunk_memOk hs fun u hu => ?_
                  dsimp only [id]
                  exact hu

theorem execCopyPacketTake_memOk (pkg die q s) (hs : State.MemOk s) : onNext State.MemOk
    (execCopyPacketTake pkg die q s) := by
  unfold execCopyPacketTake
  change State.MemOk _
  extract_lets +onlyGivenNames c e found s1
  have hs1 : s1.MemOk := by
    unfold s1
    split
    · exact (queueReads_touches ..).memOk (by decide) hs
    · exact hs
  clear_value s1
  clear_value c e found
  split
  · exact hs1
  · extract_lets +onlyGivenNames took
    have htook : took.MemOk := (servedQ_touches ..).memOk (by decide) (engineWrite_memOk (hs := hs1) ..)
    clear_value took
    extract_lets +onlyGivenNames slot lid
    split
    · exact (cancelPacket_touches ..).memOk (by decide) htook
    · split
      · exact (packetFault_touches ..).memOk (by decide) htook
      · split
        · exact (noteMiss_touches ..).memOk (by decide) hs1
        · exact (packetFault_touches ..).memOk (by decide) ((dropWalk_touches ..).memOk (by decide) htook)
      · split
        · exact hs1
        · next x1 j1 s' h2 =>
            have k := Touches.carry h2 (launchCopy_touches ..)
            exact Touches.memOk k (by decide) htook

theorem execChr_memOk (e n s) (hs : State.MemOk s) : onNext State.MemOk (execChr e n s) := by
  unfold execChr
  change State.MemOk _
  split
  · split
    · exact (endXUnit_touches ..).memOk (by decide) hs
    · split
      · split
        · exact (endXUnit_touches ..).memOk (by decide) hs
        · exact hs
      · exact hs
  · split
    · exact hs
    · split
      · exact hs
      · split
        · exact (poisonStart_touches ..).memOk (by decide) hs
        · split
          · exact (badStart_touches ..).memOk (by decide) hs
          · split
            · exact (failStart_touches ..).memOk (by decide) hs
            · split
              · exact (chrTake_touches ..).memOk (by decide) hs
              · split
                · split
                  · exact (fireXfer_touches ..).memOk (by decide) ((freeDests_touches ..).memOk (by decide) hs)
                  · exact (failStart_touches ..).memOk (by decide) hs
                · exact (backToRow_touches ..).memOk (by decide) ((freeDests_touches ..).memOk (by decide) hs)

theorem execDispatch_memOk (e n s) (hs : State.MemOk s) : onNext State.MemOk (execDispatch e n s) := by
  unfold execDispatch
  change State.MemOk _
  split
  · split
    · exact hs
    · split
      · split
        · exact (dispatchSent_touches ..).memOk (by decide) hs
        · split
          · exact hs
          · exact (dispatchRow_touches ..).memOk (by decide) hs
      · split
        · exact hs
        · extract_lets +onlyGivenNames out
          exact (endXUnit_touches ..).memOk (by decide) hs
  · split
    · exact hs
    · split
      · exact hs
      · split
        · exact (poisonStart_touches ..).memOk (by decide) hs
        · split
          · split
            · exact (failStart_touches ..).memOk (by decide) hs
            · extract_lets +onlyGivenNames s1
              have hs1 : s1.MemOk := (tokRead_touches ..).memOk (by decide) ((tokRead_touches ..).memOk (by decide) hs)
              clear_value s1
              split
              · next x5 i s2 h7 =>
                  show State.MemOk s2
                  exact (Touches.of_snd h7 (fresh_touches ..)).memOk (by decide) ((beginXfer_touches ..).memOk
                    (by decide) hs1)
          · exact tileInStop_memOk hs (TileIn.All.imp (fun _ k => k.memOk (by decide) hs) (readTileTok_touches ..))
          · exact tileInStop_memOk hs (TileIn.All.imp (fun _ k => k.memOk (by decide) hs) (readTileTok_touches ..))

theorem execDispatchCreditUpdate_memOk (pkg die idx s) (hs : State.MemOk s) : onNext State.MemOk
    (execDispatchCreditUpdate pkg die idx s) := by
  unfold execDispatchCreditUpdate
  change State.MemOk _
  extract_lets +onlyGivenNames k c isOp
  split
  · exact (setChan_touches ..).memOk (by decide) hs
  · exact hs

theorem execReduce_memOk (e n s) (hs : State.MemOk s) : onNext State.MemOk (execReduce e n s) := by
  unfold execReduce
  change State.MemOk _
  split
  · split
    · split
      · exact (endXUnit_touches ..).memOk (by decide) hs
      · exact hs
    · exact hs
  · split
    · exact hs
    · extract_lets +onlyGivenNames t c0 g
      split
      · exact hs
      · split
        · exact (poisonStart_touches ..).memOk (by decide) hs
        · split
          · exact (failStart_touches ..).memOk (by decide) hs
          · split
            · exact (failStart_touches ..).memOk (by decide) hs
            · split
              · exact (failStart_touches ..).memOk (by decide) hs
              · split
                · extract_lets +onlyGivenNames c
                  split
                  · exact hs
                  · next x3 s' h8 =>
                      split
                      · next x4 i s1 h9 =>
                          show State.MemOk s1
                          refine (Touches.of_snd h9 (fresh_touches ..)).memOk (by decide) ?_
                          refine (beginXfer_touches ..).memOk (by decide) ?_
                          refine (tokRead_touches ..).memOk (by decide) ?_
                          have k := Touches.carry h8 (sendContrib_touches ..)
                          exact Touches.memOk k (by decide) hs
                · exact tileInStop_memOk hs (TileIn.All.imp (fun _ k => k.memOk (by decide) hs)
                    (readTileTok_touches ..))

theorem execChunkWriteComplete_memOk (n s) (hs : State.MemOk s) : onNext State.MemOk (execChunkWriteComplete n s) := by
  unfold execChunkWriteComplete
  change State.MemOk _
  split
  · exact hs
  · split
    · exact hs
    · split
      · next x1 v h2 =>
          have k := Touches.carry h2 (chunkGate_touches ..)
          exact Touches.memOk k (by decide) hs
      · extract_lets +onlyGivenNames t s1
        have hs1 : s1.MemOk := (watchPassed_touches ..).memOk (by decide) hs
        clear_value s1
        extract_lets +onlyGivenNames s2
        have hs2 : s2.MemOk := writeTileImage_memOk (hs := hs1) ..
        clear_value s2
        extract_lets +onlyGivenNames s3
        have hs3 : s3.MemOk := by
          unfold s3
          split
          · split
            · exact writeScale_memOk (hs := hs2) ..
            · exact hs2
          · exact hs1
        clear_value s3
        exact (chunkDone_touches ..).memOk (by decide) hs3

theorem execTileReadRetire_memOk (n s) (hs : State.MemOk s) : onNext State.MemOk (execTileReadRetire n s) := by
  unfold execTileReadRetire
  exact (reevalAll_touches ..).memOk (by decide) ((retireStep_touches ..).memOk (by decide) hs)

theorem execBurstReceive_memOk (e input chunk s) (hs : State.MemOk s) : onNext State.MemOk
    (execBurstReceive e input chunk s) := by
  unfold execBurstReceive
  change State.MemOk _
  split
  · exact hs
  · split
    · split
      · next x3 v h3 =>
          have k := Touches.carry h3 (chunkGate_touches ..)
          exact Touches.memOk k (by decide) hs
      · extract_lets +onlyGivenNames b b1 s1
        have hs1 : s1.MemOk := (watchPassed_touches ..).memOk (by decide) ((clearData_touches ..).memOk (by decide) hs)
        clear_value s1
        split
        · split
          · exact hs1
          · exact (poisonConsumed_touches ..).memOk (by decide) ((abortRun_touches ..).memOk (by decide)
              ((countBurst_touches ..).memOk (by decide) hs1))
        · split
          · exact (faultRun_touches ..).memOk (by decide) hs1
          · exact (modAct_touches ..).memOk (by decide) ((countBurst_touches ..).memOk (by decide) hs1)
    · exact hs

theorem execMemoryTileRequest_memOk (e bank s) (hs : State.MemOk s) : onNext State.MemOk
    (execMemoryTileRequest e bank s) := by
  unfold execMemoryTileRequest
  change State.MemOk _
  extract_lets +onlyGivenNames m heads last ports
  split
  · exact hs
  · split
    · exact hs
    · extract_lets +onlyGivenNames s1
      have hs1 : s1.MemOk := (setMemTile_touches ..).memOk (by decide) hs
      clear_value s1
      extract_lets +onlyGivenNames s2
      have hs2 : s2.MemOk := writeUnit_memOk (hs := hs1) ..
      clear_value s2
      split
      · exact hs2
      · exact hs1

theorem execHbmSectorAccess_memOk (e n s) (hs : State.MemOk s) : onNext State.MemOk (execHbmSectorAccess e n s) := by
  unfold execHbmSectorAccess
  change State.MemOk _
  split
  · exact hs
  · split
    · exact hs
    · split
      · extract_lets +onlyGivenNames x1
        refine (answerReq_touches ..).memOk (by decide) ?_
        unfold x1
        exact performReq_memOk (hs := hs) ..
      · split
        · exact hs
        · split
          · exact (raise_touches ..).memOk (by decide) ((putReq_touches ..).memOk (by decide) hs)
          · extract_lets +onlyGivenNames x1
            refine (answerReq_touches ..).memOk (by decide) ?_
            unfold x1
            exact performReq_memOk (hs := hs) ..

theorem execPageWalk_memOk (e part vpage s) (hs : State.MemOk s) : onNext State.MemOk
    (execPageWalk e part vpage s) := by
  unfold execPageWalk
  change State.MemOk _
  split
  · exact hs
  · extract_lets +onlyGivenNames r x1
    have hx1 : x1.MemOk := by
      unfold x1
      unfold r
      exact (walkOn_touches ..).memOk (by decide) hs
    clear_value x1
    split
    · exact hx1
    · exact hx1

theorem execLaunchAccept_memOk (pkg q s) (hs : State.MemOk s) : onNext State.MemOk (execLaunchAccept pkg q s) := by
  unfold execLaunchAccept
  change State.MemOk _
  extract_lets +onlyGivenNames lq
  split
  · exact hs
  · split
    · extract_lets +onlyGivenNames r at_ s1
      have hs1 : s1.MemOk := (coreReads_touches ..).memOk (by decide) ((coreReads_touches ..).memOk (by decide) hs)
      clear_value s1
      split
      · exact hs1
      · split
        · exact hs1
        · split
          · exact hs1
          · next x3 s' h5 =>
              extract_lets +onlyGivenNames rec0
              split
              · next x4 i s2 h6 =>
                  extract_lets +onlyGivenNames s3
                  have hs3 : s3.MemOk := by
                    unfold s3
                    refine (setLaunch_touches ..).memOk (by decide) ?_
                    refine (Touches.of_snd h6 (fresh_touches ..)).memOk (by decide) ?_
                    have k := fun hs => Touches.carry h5 (schedWrite_memOk (hs := hs) ..)
                    exact k hs1
                  clear_value s3
                  exact (answerLaunch_touches ..).memOk (by decide) ((setLaunchQ_touches ..).memOk (by decide) hs3)
    · exact (coreReads_touches ..).memOk (by decide) hs
    · exact hs

theorem execLaunchStart_memOk (pkg s) (hs : State.MemOk s) : onNext State.MemOk (execLaunchStart pkg s) := by
  refine memOk_getD (fun u hu => ?_) hs
  have k := Touches.carry hu (onSome.findSome (fun h : Nat × List (Nat × Launch) => startGang_touches s pkg h.1 h.2) _)
  exact Touches.memOk k (by decide) hs

theorem execStreamCommandBegin_memOk (e port slot s) (hs : State.MemOk s) : onNext State.MemOk
    (execStreamCommandBegin e port slot s) := by
  unfold execStreamCommandBegin
  change State.MemOk _
  extract_lets +onlyGivenNames k
  split
  · exact hs
  · split
    · split
      · exact hs
      · split
        · split
          · exact (failCmd_touches ..).memOk (by decide) hs
          · exact (setCmd_touches ..).memOk (by decide) hs
        · split
          · exact (failCmd_touches ..).memOk (by decide) hs
          · exact (setCmd_touches ..).memOk (by decide) hs
    · split
      · exact hs
      · split
        · split
          · exact (failCmd_touches ..).memOk (by decide) hs
          · exact (setCmd_touches ..).memOk (by decide) hs
        · split
          · exact (failCmd_touches ..).memOk (by decide) hs
          · exact (setCmd_touches ..).memOk (by decide) hs

theorem writeRuns_memOk (s id t a a1) (hs : State.MemOk s) : State.MemOk (writeRuns s id t a a1) := by
  fun_induction writeRuns s id t a a1 with
  | case1 => exact hs
  | case2 s r rs bs s1 ih => exact ih (.foldl (fun _ _ hu => writeUnit_memOk _ _ _ _ hu) _ _ hs)

theorem cmdWrite_memOk (s e c bs) (hs : State.MemOk s) : onOk State.MemOk (cmdWrite s e c bs) := by
  unfold cmdWrite
  extract_lets +onlyGivenNames id t rs s1
  have hs1 : s1.MemOk := by
    unfold s1
    split
    · exact (modTile_touches ..).memOk (by decide) hs
    · exact hs
  clear_value s1
  split
  · trivial
  · split
    · trivial
    · exact writeRuns_memOk (hs := hs1) ..

theorem putBurst_memOk (s k slot c b bs d) (hs : State.MemOk s) : State.MemOk (putBurst s k slot c b bs d) := by
  unfold putBurst
  split
  · split
    · exact (failCmd_touches ..).memOk (by decide) hs
    · exact (issueAll_touches ..).memOk (by decide) ((setCmd_touches ..).memOk (by decide) hs)
  · split
    · exact (failCmd_touches ..).memOk (by decide) hs
    · next x s1 h1 =>
        refine (stepBoth_touches ..).memOk (by decide) ?_
        have k1 := fun hs => Touches.carry h1 (cmdWrite_memOk (hs := hs) ..)
        exact k1 hs

theorem moveBurst_memOk (s k slot c b) (hs : State.MemOk s) : State.MemOk (moveBurst s k slot c b) := by
  unfold moveBurst
  extract_lets +onlyGivenNames open_
  split
  · exact (setCmd_touches ..).memOk (by decide) hs
  · split
    · exact hs
    · split
      · split
        · exact hs
        · exact (gotBurst_touches ..).memOk (by decide) hs
      · split
        · exact putBurst_memOk (hs := hs) ..
        · split
          · exact hs
          · exact (ackBurst_touches ..).memOk (by decide) hs

theorem execStreamCommandComplete_memOk (e port slot s) (hs : State.MemOk s) : onNext State.MemOk
    (execStreamCommandComplete e port slot s) := by
  unfold execStreamCommandComplete
  change State.MemOk _
  split
  · exact hs
  · split
    · exact hs
    · split
      · exact (takeBurst_touches ..).memOk (by decide) hs
      · exact moveBurst_memOk (hs := hs) ..

theorem execFarListMove_memOk (pkg die s) (hs : State.MemOk s) : onNext State.MemOk (execFarListMove pkg die s) := by
  unfold execFarListMove
  change State.MemOk _
  extract_lets +onlyGivenNames now
  exact (modWheel_touches ..).memOk (by decide) hs

theorem execDeviceTimeStep_memOk (pkg ns s) (hs : State.MemOk s) : onNext State.MemOk
    (execDeviceTimeStep pkg ns s) := by
  unfold execDeviceTimeStep
  change State.MemOk _
  extract_lets +onlyGivenNames t now x
  have hx : x.MemOk := (modPkg_touches ..).memOk (by decide) hs
  clear_value x
  extract_lets +onlyGivenNames lim
  split
  · exact hx
  · exact (modPkg_touches ..).memOk (by decide) hs

theorem execLoadReturn_memOk (t n s) (hs : State.MemOk s) : onNext State.MemOk (execLoadReturn t n s) := by
  unfold execLoadReturn
  change State.MemOk _
  split
  · extract_lets +onlyGivenNames s1
    have hs1 : s1.MemOk := (dropReq_touches ..).memOk (by decide) hs
    clear_value s1
    exact (modThr_touches ..).memOk (by decide) hs1
  · exact hs

theorem endKill_memOk (s pkg lid) (hs : State.MemOk s) : State.MemOk (endKill s pkg lid) := by
  unfold endKill
  extract_lets +onlyGivenNames die st part s1
  have hs1 : s1.MemOk := (traceClass_touches ..).memOk (by decide) ((returnLaunch_touches ..).memOk (by decide) hs)
  clear_value s1
  extract_lets +onlyGivenNames s2
  have hs2 : s2.MemOk := finishLaunch_memOk (hs := hs1) ..
  clear_value s2
  extract_lets +onlyGivenNames counts n
  exact hs2

theorem execAsyncCompletion_memOk (t n s) (hs : State.MemOk s) : onNext State.MemOk (execAsyncCompletion t n s) := by
  unfold execAsyncCompletion
  change State.MemOk _
  split
  · exact hs
  · extract_lets +onlyGivenNames s'
    have hs' : s'.MemOk := by
      unfold s'
      split
      · split
        · exact endKill_memOk (hs := hs) ..
        · exact hs
      · exact hs
    clear_value s'
    split
    · exact hs
    · split
      · next x2 r s'' h2 =>
          refine (landAsync_touches ..).memOk (by decide) ?_
          have k := Touches.carry h2 (settleAsync_touches ..)
          exact Touches.memOk k (by decide) hs'
      · exact hs

theorem tryChrd_memOk (rd rs1 rs2 s) (hs : State.MemOk s) : onSome State.MemOk (tryChrd rd rs1 rs2 s) := by
  unfold tryChrd
  split
  · exact (finish_touches ..).memOk (by decide) hs
  · split
    · exact (opTrap_touches ..).memOk (by decide) hs
    · split
      · trivial
      · trivial
      · next x2 w s1 h2 =>
          change State.MemOk _
          refine (finish_touches ..).memOk (by decide) ?_
          have k1 := fun hs => Touches.carry h2 (takeFor_memOk (hs := hs) ..)
          exact k1 hs
      · next x2 s1 h2 =>
          change State.MemOk _
          have k1 := fun hs => Touches.carry h2 (takeFor_memOk (hs := hs) ..)
          exact k1 hs

theorem tryBlocked_memOk (i s) (hs : State.MemOk s) : onSome State.MemOk (tryBlocked i s) := by
  unfold tryBlocked
  split
  · exact onSome.imp (fun _ k => k.memOk (by decide) hs) (trySbind_touches ..)
  · exact onSome.imp (fun _ k => k.memOk (by decide) hs) (tryCpywait_touches ..)
  · exact onSome.imp (fun _ k => k.memOk (by decide) hs) (tryBarwait_touches ..)
  · exact tryChwr_memOk (hs := hs) ..
  · exact tryChrd_memOk (hs := hs) ..
  · trivial

theorem execBlockingWaitEnd_memOk (t s) (hs : State.MemOk s) : onNext State.MemOk (execBlockingWaitEnd t s) := by
  unfold execBlockingWaitEnd
  change State.MemOk _
  extract_lets +onlyGivenNames th
  split
  · exact hs
  · split
    · exact hs
    · split
      · next x1 v h2 =>
          have k := fun hs => Touches.carry h2 (tryBlocked_memOk (hs := hs) ..)
          exact k ((modThr_touches ..).memOk (by decide) hs)
      · exact hs

theorem restoreMoved_memOk (a a1) (hs : State.MemOk a1) : onSome State.MemOk (restoreMoved a a1) := by
  fun_induction restoreMoved a a1 with
  | case1 s => exact hs
  | case2 x xs s h => trivial
  | case3 x xs s s' h ih =>
    refine ih ?_
    have k := fun hs => Touches.carry h (restoreSet_memOk (hs := hs) ..)
    exact k hs

theorem execPageSetMove_memOk (pkg graph s) (hs : State.MemOk s) : onNext State.MemOk
    (execPageSetMove pkg graph s) := by
  unfold execPageSetMove
  change State.MemOk _
  extract_lets +onlyGivenNames ps ds s'
  have hs' : s'.MemOk := by
    unfold s'
    refine .foldl (fun u a hu => ?_) _ _ ?_
    · exact (liftSet_touches ..).memOk (by decide) hu
    · exact hs
  clear_value s'
  split
  · exact hs
  · split
    · next x v h1 =>
        have k := fun hs => Touches.carry h1 (restoreMoved_memOk (hs := hs) ..)
        exact k hs'
    · refine .foldl (fun u a hu => ?_) _ _ ?_
      · exact (modGraph_touches ..).memOk (by decide) hu
      · exact hs

theorem execSlotBoundary_memOk (e s) (hs : State.MemOk s) : onNext State.MemOk (execSlotBoundary e s) := by
  unfold execSlotBoundary
  change State.MemOk _
  extract_lets +onlyGivenNames now n t ent g last
  split
  · exact hs
  · split
    · exact (setSlotTab_touches ..).memOk (by decide) hs
    · exact (setSlotTab_touches ..).memOk (by decide) hs

theorem execLinkDeath_memOk (e lostLock s) (hs : State.MemOk s) : onNext State.MemOk (execLinkDeath e lostLock s) := by
  unfold execLinkDeath
  change State.MemOk _
  split
  · exact hs
  · split
    · exact (modPkg_touches ..).memOk (by decide) hs
    · split
      · exact (killEnd_touches ..).memOk (by decide) hs
      · exact (killEnd_touches ..).memOk (by decide) ((killEnd_touches ..).memOk (by decide) hs)

theorem execMilestoneAdopt_memOk (e s) (hs : State.MemOk s) : onNext State.MemOk (execMilestoneAdopt e s) := by
  unfold execMilestoneAdopt
  change State.MemOk _
  split
  · exact hs
  · exact (adoptMilestone_touches ..).memOk (by decide) hs

theorem execPacketArrival_memOk (n s) (hs : State.MemOk s) : onNext State.MemOk (execPacketArrival n s) := by
  unfold execPacketArrival
  change State.MemOk _
  split
  · exact hs
  · split
    · exact hs
    · split
      · exact (leaveEngine_touches ..).memOk (by decide) hs
      · split
        · exact hs
        · exact (arriveEngine_touches ..).memOk (by decide) hs

theorem execReadResponse_memOk (n s) (hs : State.MemOk s) : onNext State.MemOk (execReadResponse n s) := by
  unfold execReadResponse
  change State.MemOk _
  split
  · split
    · extract_lets +onlyGivenNames s1
      have hs1 : s1.MemOk := (dropInbox_touches ..).memOk (by decide) hs
      clear_value s1
      split
      · exact (answerReq_touches ..).memOk (by decide) hs1
      · exact hs1
    · exact hs
  · exact hs

theorem placeWrite_memOk (s n p k ord chunk bs) (hs : State.MemOk s) : State.MemOk
    (placeWrite s n p k ord chunk bs) := by
  unfold placeWrite
  split
  · exact (modChan_touches ..).memOk (by decide) hs
  · exact (raiseAt_touches ..).memOk (by decide) ((breach_touches ..).memOk (by decide) hs)
  · next x seg pos s' h =>
      refine landWrite_memOk (hs := ?_) ..
      refine (reserveRec_touches ..).memOk (by decide) ?_
      have k1 := Touches.carry h (writePlace_touches ..)
      exact Touches.memOk k1 (by decide) hs

theorem execChannelWrite_memOk (n s) (hs : State.MemOk s) : onNext State.MemOk (execChannelWrite n s) := by
  unfold execChannelWrite
  change State.MemOk _
  split
  · split
    · extract_lets +onlyGivenNames k
      split
      · exact hs
      · split
        · exact landWrite_memOk (hs := hs) ..
        · split
          · exact (dropInbox_touches ..).memOk (by decide) hs
          · split
            · exact hs
            · exact placeWrite_memOk (hs := hs) ..
    · exact hs
  · exact hs

theorem execReduceContribution_memOk (n s) (hs : State.MemOk s) : onNext State.MemOk (execReduceContribution n s) := by
  unfold execReduceContribution
  change State.MemOk _
  split
  · split
    · exact (addContrib_touches ..).memOk (by decide) ((dropInbox_touches ..).memOk (by decide) hs)
    · exact hs
  · exact hs

theorem execHbmRead_memOk (n s) (hs : State.MemOk s) : onNext State.MemOk (execHbmRead n s) := by
  unfold execHbmRead
  change State.MemOk _
  split
  · split
    · exact performRemote_memOk (hs := hs) ..
    · exact hs
  · exact hs

theorem execElementClockGate_memOk (e s) (hs : State.MemOk s) : onNext State.MemOk (execElementClockGate e s) := by
  unfold execElementClockGate
  change State.MemOk _
  split
  · exact (modEng_touches ..).memOk (by decide) hs
  · exact hs

theorem execElementWake_memOk (e s) (hs : State.MemOk s) : onNext State.MemOk (execElementWake e s) := by
  unfold execElementWake
  change State.MemOk _
  extract_lets +onlyGivenNames x reached
  split
  · exact (modEng_touches ..).memOk (by decide) hs
  · split
    · exact hs
    · split
      · split
        · exact hs
        · exact (modEng_touches ..).memOk (by decide) hs
      · split
        · exact (modEng_touches ..).memOk (by decide) hs
        · exact hs

theorem execPagePowerGate_memOk (pkg die page s) (hs : State.MemOk s) : onNext State.MemOk
    (execPagePowerGate pkg die page s) := by
  unfold execPagePowerGate
  change State.MemOk _
  extract_lets +onlyGivenNames here busy tiles
  split
  · exact hs
  · exact hs

theorem execScrubRead_memOk (b word s) (hs : State.MemOk s) : onNext State.MemOk (execScrubRead b word s) := by
  unfold execScrubRead
  change State.MemOk _
  split
  · exact hs
  · extract_lets +onlyGivenNames e s1
    have hs1 : s1.MemOk := (eccRead_touches ..).memOk (by decide) hs
    clear_value s1
    split
    · exact hs
    · split
      · exact (setEcc_touches ..).memOk (by decide) ((eccRead_touches ..).memOk (by decide) hs)
      · split
        · split
          · exact hs1
          · exact (logError_touches ..).memOk (by decide) ((poisonHbm_touches ..).memOk (by decide) hs1)
        · exact hs

theorem execBankConversion_memOk (b s) (hs : State.MemOk s) : onNext State.MemOk (execBankConversion b s) := by
  unfold execBankConversion
  change State.MemOk _
  split
  · exact hs
  · refine (modMode_touches ..).memOk (by decide) ?_
    refine .foldl (fun u a hu => ?_) _ _ ?_
    · exact (reencode_touches ..).memOk (by decide) hu
    · exact hs

theorem execTraceWrite_memOk (pkg die part s) (hs : State.MemOk s) : onNext State.MemOk
    (execTraceWrite pkg die part s) := by
  unfold execTraceWrite
  change State.MemOk _
  extract_lets +onlyGivenNames c n a
  split
  · exact hs
  · split
    · exact hs
    · split
      · exact (setTraceCfg_touches ..).memOk (by decide) hs
      · split
        · exact hs
        · exact (setTraceCfg_touches ..).memOk (by decide) (writeHbm_memOk (hs := hs) ..)

theorem execZbell_memOk (pkg fn s) (hs : State.MemOk s) : onNext State.MemOk (execZbell pkg fn s) := by
  unfold execZbell
  change State.MemOk _
  split
  · exact (modFn_touches ..).memOk (by decide) hs
  · exact hs

theorem execZringWrite_memOk (pkg fn v s) (hs : State.MemOk s) : onNext State.MemOk (execZringWrite pkg fn v s) := by
  unfold execZringWrite
  change State.MemOk _
  split
  · exact hs
  · exact (modFn_touches ..).memOk (by decide) hs

theorem execRegisterWrite_memOk (pkg fn off v s) (hs : State.MemOk s) : onNext State.MemOk
    (execRegisterWrite pkg fn off v s) := by
  unfold execRegisterWrite
  change State.MemOk _
  split
  · exact (modFn_touches ..).memOk (by decide) hs
  · exact hs

theorem execZcmdRingPoll_memOk (pkg fn s) (hs : State.MemOk s) : onNext State.MemOk (execZcmdRingPoll pkg fn s) := by
  unfold execZcmdRingPoll
  change State.MemOk _
  extract_lets +onlyGivenNames f base depth
  split
  · exact hs
  · split
    · exact (svcReads_touches ..).memOk (by decide) hs
    · extract_lets +onlyGivenNames r s1
      have hs1 : s1.MemOk := (svcReads_touches ..).memOk (by decide) ((svcReads_touches ..).memOk (by decide) hs)
      clear_value s1
      split
      · exact hs1
      · split
        · exact (modFn_touches ..).memOk (by decide) hs1
        · split
          · exact hs1
          · next x2 s' h4 =>
              extract_lets +onlyGivenNames c s2
              have hs2 : s2.MemOk := by
                unfold s2
                refine (modFn_touches ..).memOk (by decide) ?_
                have k := fun hs => Touches.carry h4 (svcWrite_memOk (hs := hs) ..)
                exact k hs1
              clear_value s2
              split
              · exact hs2
              · exact complete_memOk (hs := hs2) ..

theorem execIdent_memOk (pkg fn s) (hs : State.MemOk s) : onNext State.MemOk (execIdent pkg fn s) := by
  unfold execIdent
  exact runOp_memOk hs fun c => (cmdDone_memOk (hs := hs) ..)

theorem execAttest_memOk (pkg fn s) (hs : State.MemOk s) : onNext State.MemOk (execAttest pkg fn s) := by
  unfold execAttest
  exact runOp_memOk hs fun c => (cmdDone_memOk (hs := hs) ..)

theorem execFwstage_memOk (pkg fn s) (hs : State.MemOk s) : onNext State.MemOk (execFwstage pkg fn s) := by
  unfold execFwstage
  change State.MemOk _
  refine runOp_memOk hs fun c => ?_
  extract_lets +onlyGivenNames s1
  have hs1 : s1.MemOk := (bufReads_touches ..).memOk (by decide) hs
  clear_value s1
  split
  · exact cmdFail_memOk (hs := hs1) ..
  · split
    · exact cmdFail_memOk (hs := hs1) ..
    · exact cmdDone_memOk (hs := ((modPkg_touches ..).memOk (by decide) hs1)) ..

theorem completeJoined_memOk (s pkg p but data) (hs : State.MemOk s) : State.MemOk
    (completeJoined s pkg p but data) := by
  unfold completeJoined
  refine .foldl (fun u a hu => ?_) _ _ ?_
  · split
    · split
      · exact complete_memOk (hs := hu) ..
      · exact hu
    · exact hu
  · exact hs

theorem flrFinish_memOk (s pkg p) (hs : State.MemOk s) : State.MemOk (flrFinish s pkg p) := by
  unfold flrFinish
  extract_lets +onlyGivenNames ls s1
  have hs1 : s1.MemOk := by
    unfold s1
    refine .foldl (fun u a hu => ?_) _ _ ?_
    · exact endKill_memOk (hs := hu) ..
    · exact hs
  clear_value s1
  extract_lets +onlyGivenNames gs s2
  have hs2 : s2.MemOk := by
    unfold s2
    refine .foldl (fun u a hu => ?_) _ _ ?_
    · exact (unloadGraph_touches ..).memOk (by decide) hu
    · exact hs1
  clear_value s2
  extract_lets +onlyGivenNames s3
  have hs3 : s3.MemOk := (scrubThreads_touches ..).memOk (by decide) (scrubPages_memOk (hs := hs2) ..)
  clear_value s3
  extract_lets +onlyGivenNames s4
  have hs4 : s4.MemOk := (modPart_touches ..).memOk (by decide) hs3
  clear_value s4
  exact (reevalAll_touches ..).memOk (by decide) (zeroQueues_memOk (hs := hs4) ..)

theorem execPdestroy_memOk (pkg fn s) (hs : State.MemOk s) : onNext State.MemOk (execPdestroy pkg fn s) := by
  unfold execPdestroy
  change State.MemOk _
  refine runOp_memOk hs fun c => ?_
  extract_lets +onlyGivenNames p q s1
  have hs1 : s1.MemOk := (flrKill_touches ..).memOk (by decide) hs
  clear_value s1
  split
  · exact cmdFail_memOk (hs := hs) ..
  · split
    · exact cmdFail_memOk (hs := hs) ..
    · split
      · exact (flrKill_touches ..).memOk (by decide) ((flrBegin_touches ..).memOk (by decide) hs)
      · split
        · exact hs1
        · exact cmdDone_memOk (hs := ((dissolve_touches ..).memOk (by decide) (completeJoined_memOk (hs :=
            (flrFinish_memOk (hs := hs1) ..)) ..))) ..

theorem execFlr_memOk (pkg fn s) (hs : State.MemOk s) : onNext State.MemOk (execFlr pkg fn s) := by
  unfold execFlr
  change State.MemOk _
  refine runOp_memOk hs fun c => ?_
  extract_lets +onlyGivenNames p q s1
  have hs1 : s1.MemOk := (flrKill_touches ..).memOk (by decide) hs
  clear_value s1
  split
  · exact cmdFail_memOk (hs := hs) ..
  · split
    · exact cmdFail_memOk (hs := hs) ..
    · split
      · exact cmdFail_memOk (hs := hs) ..
      · split
        · exact (flrKill_touches ..).memOk (by decide) ((flrBegin_touches ..).memOk (by decide) hs)
        · split
          · exact hs1
          · exact cmdDone_memOk (hs := (completeJoined_memOk (hs := (flrFinish_memOk (hs := hs1) ..)) ..)) ..

theorem execPools_memOk (pkg fn s) (hs : State.MemOk s) : onNext State.MemOk (execPools pkg fn s) := by
  unfold execPools
  change State.MemOk _
  refine runOp_memOk hs fun c => ?_
  refine onPart_memOk hs fun p => ?_
  extract_lets +onlyGivenNames die base segs blocks n lb ln q p1 p2
  split
  · exact cmdFail_memOk (hs := hs) ..
  · split
    · exact cmdFail_memOk (hs := hs) ..
    · exact cmdDone_memOk (hs := ((reevalAll_touches ..).memOk (by decide) ((setPart_touches ..).memOk
        (by decide) hs))) ..

theorem execFaults_memOk (pkg fn s) (hs : State.MemOk s) : onNext State.MemOk (execFaults pkg fn s) := by
  unfold execFaults
  change State.MemOk _
  refine runOp_memOk hs fun c => ?_
  refine onPart_memOk hs fun p => ?_
  extract_lets +onlyGivenNames w
  split
  · exact cmdFail_memOk (hs := hs) ..
  · exact cmdDone_memOk (hs := ((setPart_touches ..).memOk (by decide) hs)) ..

theorem execSlots_memOk (pkg fn s) (hs : State.MemOk s) : onNext State.MemOk (execSlots pkg fn s) := by
  unfold execSlots
  change State.MemOk _
  refine runOp_memOk hs fun c => ?_
  extract_lets +onlyGivenNames e s1
  have hs1 : s1.MemOk := (svcReads_touches ..).memOk (by decide) hs
  clear_value s1
  split
  · exact cmdFail_memOk (hs := hs) ..
  · split
    · exact cmdFail_memOk (hs := hs1) ..
    · split
      · exact cmdFail_memOk (hs := hs1) ..
      · extract_lets +onlyGivenNames tab
        exact cmdDone_memOk (hs := ((modSlotTab_touches ..).memOk (by decide) hs1)) ..

theorem execLqset_memOk (pkg fn s) (hs : State.MemOk s) : onNext State.MemOk (execLqset pkg fn s) := by
  unfold execLqset
  change State.MemOk _
  refine runOp_memOk hs fun c => ?_
  refine onPart_memOk hs fun p => ?_
  extract_lets +onlyGivenNames p1 num base k slot
  split
  · exact cmdFail_memOk (hs := hs) ..
  · split
    · exact cmdFail_memOk (hs := hs) ..
    · exact cmdFail_memOk (hs := hs) ..
    · next slot1 x q s1 h1 h2 =>
        refine cmdDone_memOk (hs := ?_) ..
        refine (modLaunchQ_touches ..).memOk (by decide) ?_
        have k1 := fun hs => Touches.carry h2 (schedWrite_memOk (hs := hs) ..)
        exact k1 hs

theorem execCqset_memOk (pkg fn s) (hs : State.MemOk s) : onNext State.MemOk (execCqset pkg fn s) := by
  unfold execCqset
  change State.MemOk _
  refine runOp_memOk hs fun c => ?_
  refine onPart_memOk hs fun p => ?_
  extract_lets +onlyGivenNames p1 die q base k
  split
  · exact cmdFail_memOk (hs := hs) ..
  · split
    · exact cmdFail_memOk (hs := hs) ..
    · exact cmdDone_memOk (hs := ((setCopyQ_touches ..).memOk (by decide) (writeCopy_memOk (hs := hs) ..))) ..

theorem execRoutes_memOk (pkg fn s) (hs : State.MemOk s) : onNext State.MemOk (execRoutes pkg fn s) := by
  unfold execRoutes
  change State.MemOk _
  refine runOp_memOk hs fun c => ?_
  extract_lets +onlyGivenNames n s1
  have hs1 : s1.MemOk := (bufReads_touches ..).memOk (by decide) hs
  clear_value s1
  split
  · exact cmdFail_memOk (hs := hs1) ..
  · refine cmdDone_memOk (hs := ?_) ..
    refine .foldl (fun u a hu => ?_) _ _ ?_
    · exact (modStrait_touches ..).memOk (by decide) hu
    · exact hs1

theorem execMstone_memOk (pkg fn s) (hs : State.MemOk s) : onNext State.MemOk (execMstone pkg fn s) := by
  unfold execMstone
  change State.MemOk _
  refine runOp_memOk hs fun c => ?_
  extract_lets +onlyGivenNames d l others m s1
  have hs1 : s1.MemOk := (modPkg_touches ..).memOk (by decide) hs
  clear_value s1
  split
  · exact cmdFail_memOk (hs := hs) ..
  · split
    · exact cmdFail_memOk (hs := hs) ..
    · refine cmdDone_memOk (hs := ?_) ..
      refine .foldl (fun u a hu => ?_) _ _ ?_
      · exact (joinMilestone_touches ..).memOk (by decide) hu
      · exact hs1

theorem execTlbinv_memOk (pkg fn s) (hs : State.MemOk s) : onNext State.MemOk (execTlbinv pkg fn s) := by
  unfold execTlbinv
  change State.MemOk _
  refine runOp_memOk hs fun c => ?_
  extract_lets +onlyGivenNames p all part page s1
  have hs1 : s1.MemOk := by
    unfold s1
    exact hs
  clear_value s1
  split
  · exact cmdFail_memOk (hs := hs) ..
  · split
    · exact cmdFail_memOk (hs := hs) ..
    · split
      · exact hs
      · split
        · exact hs1
        · exact cmdDone_memOk (hs := hs1) ..

theorem execReadObject_memOk (pkg fn s) (hs : State.MemOk s) : onNext State.MemOk (execReadObject pkg fn s) := by
  unfold execReadObject
  change State.MemOk _
  refine runOp_memOk hs fun c => ?_
  split
  · exact cmdFail_memOk (hs := hs) ..
  · split
    · exact hs
    · exact cmdDone_memOk (hs := hs) ..

theorem execDbgsetTrace_memOk (pkg fn s) (hs : State.MemOk s) : onNext State.MemOk (execDbgsetTrace pkg fn s) := by
  unfold execDbgsetTrace
  change State.MemOk _
  refine runDbg_memOk hs fun c => ?_
  extract_lets +onlyGivenNames k p s1
  have hs1 : s1.MemOk := (bufReads_touches ..).memOk (by decide) hs
  clear_value s1
  split
  · exact cmdFail_memOk (hs := hs) ..
  · split
    · exact cmdFail_memOk (hs := hs) ..
    · split
      · exact hs
      · split
        · exact cmdFail_memOk (hs := hs1) ..
        · split
          · exact cmdFail_memOk (hs := hs1) ..
          · exact cmdDone_memOk (hs := ((setTraceCfg_touches ..).memOk (by decide) hs1)) ..

theorem execDbgsetWatch_memOk (pkg fn s) (hs : State.MemOk s) : onNext State.MemOk (execDbgsetWatch pkg fn s) := by
  unfold execDbgsetWatch
  change State.MemOk _
  refine runDbg_memOk hs fun c => ?_
  extract_lets +onlyGivenNames k e s1
  have hs1 : s1.MemOk := (bufReads_touches ..).memOk (by decide) hs
  clear_value s1
  split
  · exact cmdFail_memOk (hs := hs) ..
  · split
    · exact cmdFail_memOk (hs := hs) ..
    · split
      · exact cmdFail_memOk (hs := hs1) ..
      · exact cmdDone_memOk (hs := ((setWatch_touches ..).memOk (by decide) hs1)) ..

theorem execDbgsetBreakBit_memOk (pkg fn s) (hs : State.MemOk s) : onNext State.MemOk
    (execDbgsetBreakBit pkg fn s) := by
  unfold execDbgsetBreakBit
  change State.MemOk _
  refine runDbg_memOk hs fun c => ?_
  extract_lets +onlyGivenNames k s1
  have hs1 : s1.MemOk := (bufReads_touches ..).memOk (by decide) hs
  clear_value s1
  split
  · exact cmdFail_memOk (hs := hs) ..
  · split
    · exact cmdFail_memOk (hs := hs) ..
    · split
      · exact cmdFail_memOk (hs := hs1) ..
      · exact cmdDone_memOk (hs := ((setBreak_touches ..).memOk (by decide) hs1)) ..

theorem execThreadNormalStop_memOk (pkg fn s) (hs : State.MemOk s) : onNext State.MemOk
    (execThreadNormalStop pkg fn s) := by
  unfold execThreadNormalStop
  change State.MemOk _
  refine runThr_memOk hs fun c t => ?_
  extract_lets +onlyGivenNames th
  split
  · exact cmdDone_memOk (hs := ((setThr_touches ..).memOk (by decide) hs)) ..
  · exact (setThr_touches ..).memOk (by decide) hs

theorem execThreadResume_memOk (pkg fn s) (hs : State.MemOk s) : onNext State.MemOk (execThreadResume pkg fn s) := by
  unfold execThreadResume
  exact runThr_memOk hs fun c t => (cmdDone_memOk (hs := ((modThr_touches ..).memOk (by decide) hs)) ..)

theorem execThreadRegisterWrite_memOk (pkg fn s) (hs : State.MemOk s) : onNext State.MemOk
    (execThreadRegisterWrite pkg fn s) := by
  unfold execThreadRegisterWrite
  change State.MemOk _
  refine runThr_memOk hs fun c t => ?_
  extract_lets +onlyGivenNames th v r
  split
  · exact cmdFail_memOk (hs := hs) ..
  · split
    · exact cmdDone_memOk (hs := ((setThr_touches ..).memOk (by decide) hs)) ..
    · split
      · exact cmdDone_memOk (hs := ((setThr_touches ..).memOk (by decide) hs)) ..
      · split
        · exact cmdDone_memOk (hs := ((setThr_touches ..).memOk (by decide) hs)) ..
        · exact cmdFail_memOk (hs := hs) ..

theorem execScrub_memOk (pkg fn s) (hs : State.MemOk s) : onNext State.MemOk (execScrub pkg fn s) := by
  unfold execScrub
  change State.MemOk _
  refine runOp_memOk hs fun c => ?_
  extract_lets +onlyGivenNames th w s1
  have hs1 : s1.MemOk := (modPkg_touches ..).memOk (by decide) hs
  clear_value s1
  split
  · exact cmdFail_memOk (hs := hs) ..
  · refine cmdDone_memOk (hs := ?_) ..
    refine .foldl (fun u a hu => ?_) _ _ ?_
    · exact (pendIfDue_touches ..).memOk (by decide) hu
    · exact hs1

theorem execPower_memOk (pkg fn s) (hs : State.MemOk s) : onNext State.MemOk (execPower pkg fn s) := by
  unfold execPower
  change State.MemOk _
  refine runOp_memOk hs fun c => ?_
  extract_lets +onlyGivenNames w
  split
  · exact cmdFail_memOk (hs := hs) ..
  · exact cmdDone_memOk (hs := ((modPkg_touches ..).memOk (by decide) hs)) ..

theorem execThermalThrottle_memOk (pkg lower s) (hs : State.MemOk s) : onNext State.MemOk
    (execThermalThrottle pkg lower s) := by
  unfold execThermalThrottle
  change State.MemOk _
  extract_lets +onlyGivenNames k
  split
  · split
    · exact hs
    · exact (modPkg_touches ..).memOk (by decide) hs
  · split
    · exact hs
    · exact (modPkg_touches ..).memOk (by decide) hs

theorem execThermalShutdown_memOk (pkg s) (hs : State.MemOk s) : onNext State.MemOk (execThermalShutdown pkg s) := by
  unfold execThermalShutdown
  change State.MemOk _
  extract_lets +onlyGivenNames k
  split
  · exact hs
  · exact (setPkg_touches ..).memOk (by decide) (clearPkg_memOk (hs := hs) ..)

theorem execColdReset_memOk (pkg s) (hs : State.MemOk s) : onNext State.MemOk (execColdReset pkg s) := by
  unfold execColdReset
  change State.MemOk _
  extract_lets +onlyGivenNames k ok patch
  split
  · exact hs
  · exact (freeStep_touches ..).memOk (by decide) ((setPkg_touches ..).memOk (by decide) (clearPkg_memOk (hs := hs) ..))

theorem execSub_memOk (rd rs1 rs2 s) (hs : State.MemOk s) : onNext State.MemOk (execSub rd rs1 rs2 s) := by
  unfold execSub
  exact (regOp_touches ..).memOk (by decide) hs

theorem execOr_memOk (rd rs1 rs2 s) (hs : State.MemOk s) : onNext State.MemOk (execOr rd rs1 rs2 s) := by
  unfold execOr
  exact (regOp_touches ..).memOk (by decide) hs

theorem execXor_memOk (rd rs1 rs2 s) (hs : State.MemOk s) : onNext State.MemOk (execXor rd rs1 rs2 s) := by
  unfold execXor
  exact (regOp_touches ..).memOk (by decide) hs

theorem execShl_memOk (rd rs1 rs2 s) (hs : State.MemOk s) : onNext State.MemOk (execShl rd rs1 rs2 s) := by
  unfold execShl
  exact (regOp_touches ..).memOk (by decide) hs

theorem execMul_memOk (rd rs1 rs2 s) (hs : State.MemOk s) : onNext State.MemOk (execMul rd rs1 rs2 s) := by
  unfold execMul
  exact (regOp_touches ..).memOk (by decide) hs

theorem execMulh_memOk (rd rs1 rs2 s) (hs : State.MemOk s) : onNext State.MemOk (execMulh rd rs1 rs2 s) := by
  unfold execMulh
  exact (regOp_touches ..).memOk (by decide) hs

theorem execRem_memOk (rd rs1 rs2 s) (hs : State.MemOk s) : onNext State.MemOk (execRem rd rs1 rs2 s) := by
  unfold execRem
  exact (regOp_touches ..).memOk (by decide) hs

theorem execRemn_memOk (rd rs1 rs2 s) (hs : State.MemOk s) : onNext State.MemOk (execRemn rd rs1 rs2 s) := by
  unfold execRemn
  exact (regOp_touches ..).memOk (by decide) hs

theorem execMin_memOk (rd rs1 rs2 s) (hs : State.MemOk s) : onNext State.MemOk (execMin rd rs1 rs2 s) := by
  unfold execMin
  exact (regOp_touches ..).memOk (by decide) hs

theorem execMax_memOk (rd rs1 rs2 s) (hs : State.MemOk s) : onNext State.MemOk (execMax rd rs1 rs2 s) := by
  unfold execMax
  exact (regOp_touches ..).memOk (by decide) hs

theorem execMinn_memOk (rd rs1 rs2 s) (hs : State.MemOk s) : onNext State.MemOk (execMinn rd rs1 rs2 s) := by
  unfold execMinn
  exact (regOp_touches ..).memOk (by decide) hs

theorem execMaxn_memOk (rd rs1 rs2 s) (hs : State.MemOk s) : onNext State.MemOk (execMaxn rd rs1 rs2 s) := by
  unfold execMaxn
  exact (regOp_touches ..).memOk (by decide) hs

theorem execSlt_memOk (rd rs1 rs2 s) (hs : State.MemOk s) : onNext State.MemOk (execSlt rd rs1 rs2 s) := by
  unfold execSlt
  exact (regOp_touches ..).memOk (by decide) hs

theorem execAddi_memOk (rd rs1 imm s) (hs : State.MemOk s) : onNext State.MemOk (execAddi rd rs1 imm s) := by
  unfold execAddi
  exact (finish_touches ..).memOk (by decide) hs

theorem execAndi_memOk (rd rs1 imm s) (hs : State.MemOk s) : onNext State.MemOk (execAndi rd rs1 imm s) := by
  unfold execAndi
  exact (finish_touches ..).memOk (by decide) hs

theorem execOri_memOk (rd rs1 imm s) (hs : State.MemOk s) : onNext State.MemOk (execOri rd rs1 imm s) := by
  unfold execOri
  exact (finish_touches ..).memOk (by decide) hs

theorem execShri_memOk (rd rs1 sh s) (hs : State.MemOk s) : onNext State.MemOk (execShri rd rs1 sh s) := by
  unfold execShri
  exact (finish_touches ..).memOk (by decide) hs

theorem execLui_memOk (rd imm s) (hs : State.MemOk s) : onNext State.MemOk (execLui rd imm s) := by
  unfold execLui
  exact (finish_touches ..).memOk (by decide) hs

theorem execJal_memOk (rd imm s) (hs : State.MemOk s) : onNext State.MemOk (execJal rd imm s) := by
  unfold execJal
  exact (modCur_touches ..).memOk (by decide) hs

theorem execJalr_memOk (rd rs1 imm s) (hs : State.MemOk s) : onNext State.MemOk (execJalr rd rs1 imm s) := by
  unfold execJalr
  exact (modCur_touches ..).memOk (by decide) hs

theorem execBeq_memOk (rs1 rs2 imm s) (hs : State.MemOk s) : onNext State.MemOk (execBeq rs1 rs2 imm s) := by
  unfold execBeq
  exact (branch_touches ..).memOk (by decide) hs

theorem execBne_memOk (rs1 rs2 imm s) (hs : State.MemOk s) : onNext State.MemOk (execBne rs1 rs2 imm s) := by
  unfold execBne
  exact (branch_touches ..).memOk (by decide) hs

theorem execBltn_memOk (rs1 rs2 imm s) (hs : State.MemOk s) : onNext State.MemOk (execBltn rs1 rs2 imm s) := by
  unfold execBltn
  exact (branch_touches ..).memOk (by decide) hs

theorem execLd8n_memOk (rd rs1 imm s) (hs : State.MemOk s) : onNext State.MemOk (execLd8n rd rs1 imm s) := by
  unfold execLd8n
  exact (issueLoad_touches ..).memOk (by decide) hs

theorem execLd16_memOk (rd rs1 imm s) (hs : State.MemOk s) : onNext State.MemOk (execLd16 rd rs1 imm s) := by
  unfold execLd16
  exact (issueLoad_touches ..).memOk (by decide) hs

theorem execLd16n_memOk (rd rs1 imm s) (hs : State.MemOk s) : onNext State.MemOk (execLd16n rd rs1 imm s) := by
  unfold execLd16n
  exact (issueLoad_touches ..).memOk (by decide) hs

theorem execLd64_memOk (rd rs1 imm s) (hs : State.MemOk s) : onNext State.MemOk (execLd64 rd rs1 imm s) := by
  unfold execLd64
  exact (issueLoad_touches ..).memOk (by decide) hs

theorem execSt16_memOk (src rs1 imm s) (hs : State.MemOk s) : onNext State.MemOk (execSt16 src rs1 imm s) := by
  unfold execSt16
  exact (issueStore_touches ..).memOk (by decide) hs

theorem execSt32_memOk (src rs1 imm s) (hs : State.MemOk s) : onNext State.MemOk (execSt32 src rs1 imm s) := by
  unfold execSt32
  exact (issueStore_touches ..).memOk (by decide) hs

theorem execSt64_memOk (src rs1 imm s) (hs : State.MemOk s) : onNext State.MemOk (execSt64 src rs1 imm s) := by
  unfold execSt64
  exact (issueStore_touches ..).memOk (by decide) hs

theorem execAmoadd_memOk (rd rs1 rs2 ord s) (hs : State.MemOk s) : onNext State.MemOk
    (execAmoadd rd rs1 rs2 ord s) := by
  unfold execAmoadd
  exact (issueAmo_touches ..).memOk (by decide) hs

theorem execAmoor_memOk (rd rs1 rs2 ord s) (hs : State.MemOk s) : onNext State.MemOk (execAmoor rd rs1 rs2 ord s) := by
  unfold execAmoor
  exact (issueAmo_touches ..).memOk (by decide) hs

theorem execAmoxor_memOk (rd rs1 rs2 ord s) (hs : State.MemOk s) : onNext State.MemOk
    (execAmoxor rd rs1 rs2 ord s) := by
  unfold execAmoxor
  exact (issueAmo_touches ..).memOk (by decide) hs

theorem execAmoswp_memOk (rd rs1 rs2 ord s) (hs : State.MemOk s) : onNext State.MemOk
    (execAmoswp rd rs1 rs2 ord s) := by
  unfold execAmoswp
  exact (issueAmo_touches ..).memOk (by decide) hs

theorem execAmomax_memOk (rd rs1 rs2 ord s) (hs : State.MemOk s) : onNext State.MemOk
    (execAmomax rd rs1 rs2 ord s) := by
  unfold execAmomax
  exact (issueAmo_touches ..).memOk (by decide) hs

theorem execAmoinc_memOk (rd rs1 rs2 ord s) (hs : State.MemOk s) : onNext State.MemOk
    (execAmoinc rd rs1 rs2 ord s) := by
  unfold execAmoinc
  exact (issueAmo_touches ..).memOk (by decide) hs

theorem execTrap_memOk (imm s) (hs : State.MemOk s) : onNext State.MemOk (execTrap imm s) := by
  unfold execTrap
  exact (syncTrap_touches ..).memOk (by decide) hs

theorem execNop_memOk (s) (hs : State.MemOk s) : onNext State.MemOk (execNop s) := by
  unfold execNop
  exact (modCur_touches ..).memOk (by decide) hs

theorem execEret_memOk (s) (hs : State.MemOk s) : onNext State.MemOk (execEret s) := by
  unfold execEret
  change State.MemOk _
  split
  · exact (trapReturn_touches ..).memOk (by decide) hs
  · exact (trapCur_touches ..).memOk (by decide) hs

theorem execWfe_memOk (s) (hs : State.MemOk s) : onNext State.MemOk (execWfe s) := by
  unfold execWfe
  change State.MemOk _
  split
  · exact (modCur_touches ..).memOk (by decide) hs
  · exact hs

theorem execCsrset_memOk (rs1 csr s) (hs : State.MemOk s) : onNext State.MemOk (execCsrset rs1 csr s) := by
  unfold execCsrset
  extract_lets +onlyGivenNames old
  exact (modCur_touches ..).memOk (by decide) hs

theorem execGload_memOk (rd rs1 s) (hs : State.MemOk s) : onNext State.MemOk (execGload rd rs1 s) := by
  unfold execGload
  change State.MemOk _
  split
  · exact hs
  · extract_lets +onlyGivenNames th va o
    split
    · exact (opTrap_touches ..).memOk (by decide) hs
    · split
      · exact (opTrap_touches ..).memOk (by decide) hs
      · extract_lets +onlyGivenNames hdr secs u
        have hu : u.MemOk := by
          unfold u
          refine (readPieces_touches ..).memOk (by decide) ?_
          unfold hdr
          exact (readPieces_touches ..).memOk (by decide) hs
        clear_value u
        split
        · refine (asyncDone_touches ..).memOk (by decide) ?_
          unfold hdr
          exact (readPieces_touches ..).memOk (by decide) hs
        · split
          · refine (asyncDone_touches ..).memOk (by decide) ?_
            refine (readPieces_touches ..).memOk (by decide) ?_
            unfold hdr
            exact (readPieces_touches ..).memOk (by decide) hs
          · split
            · exact (opTrap_touches ..).memOk (by decide) hs
            · extract_lets +onlyGivenNames im i r
              split
              · exact (asyncDone_touches ..).memOk (by decide) hu
              · split
                · exact (asyncDone_touches ..).memOk (by decide) hu
                · split
                  · refine (asyncDone_touches ..).memOk (by decide) ?_
                    unfold r
                    exact (readParts_touches ..).memOk (by decide) hs
                  · split
                    · next x5 s1 h9 =>
                        have k := fun hs => Touches.carry h9 (loadGraph_memOk (hs := hs) ..)
                        exact k hs
                    · next x5 s1 w h9 =>
                        refine (asyncDone_touches ..).memOk (by decide) ?_
                        refine (readParts_touches ..).memOk (by decide) ?_
                        have k := fun hs => Touches.carry h9 (loadGraph_memOk (hs := hs) ..)
                        exact k hs

theorem appendSlot_memOk (s base log2 body) (hs : State.MemOk s) : onOk (fun p => State.MemOk (p).2)
    (appendSlot s base log2 body) := by
  unfold appendSlot
  split
  · trivial
  · trivial
  · extract_lets +onlyGivenNames wi n
    split
    · trivial
    · split
      · trivial
      · change State.MemOk _
        dsimp -zeta only
        exact writePieces_memOk (hs := (writePieces_memOk (hs := hs) ..)) ..

theorem launchRecord_memOk (s rd r) (hs : State.MemOk s) : State.MemOk (launchRecord s rd r) := by
  unfold launchRecord
  split
  · exact (asyncDone_touches ..).memOk (by decide) hs
  · split
    · exact (asyncDone_touches ..).memOk (by decide) hs
    · split
      · exact (opTrap_touches ..).memOk (by decide) hs
      · exact (asyncDone_touches ..).memOk (by decide) hs
      · next x2 i s1 h2 =>
          refine (asyncIssue_touches ..).memOk (by decide) ?_
          have k := fun hs => Touches.carry h2 (appendSlot_memOk (hs := hs) ..)
          exact k hs

theorem execGlaunch_memOk (rd rs1 rs2 s) (hs : State.MemOk s) : onNext State.MemOk (execGlaunch rd rs1 rs2 s) := by
  unfold execGlaunch
  change State.MemOk _
  extract_lets +onlyGivenNames h va
  split
  · exact hs
  · split
    · exact (asyncDone_touches ..).memOk (by decide) hs
    · split
      · exact launchRecord_memOk (hs := hs) ..
      · split
        · exact (opTrap_touches ..).memOk (by decide) hs
        · extract_lets +onlyGivenNames b x1
          split
          · refine (asyncDone_touches ..).memOk (by decide) ?_
            unfold b
            exact (readPieces_touches ..).memOk (by decide) hs
          · refine launchRecord_memOk (hs := ?_) ..
            unfold b
            exact (readPieces_touches ..).memOk (by decide) hs

theorem execGkill_memOk (rd rs1 s) (hs : State.MemOk s) : onNext State.MemOk (execGkill rd rs1 s) := by
  unfold execGkill
  change State.MemOk _
  split
  · exact hs
  · extract_lets +onlyGivenNames lid
    split
    · exact (asyncDone_touches ..).memOk (by decide) hs
    · split
      · exact hs
      · split
        · exact (asyncIssue_touches ..).memOk (by decide) hs
        · extract_lets +onlyGivenNames r
          refine (asyncIssue_touches ..).memOk (by decide) ?_
          unfold r
          exact (beginKill_touches ..).memOk (by decide) hs

theorem execInject_memOk (rd rs1 s) (hs : State.MemOk s) : onNext State.MemOk (execInject rd rs1 s) := by
  unfold execInject
  change State.MemOk _
  split
  · exact hs
  · split
    · exact (opTrap_touches ..).memOk (by decide) hs
    · extract_lets +onlyGivenNames b d u
      have hu : u.MemOk := by
        unfold u
        unfold b
        exact (readPieces_touches ..).memOk (by decide) hs
      clear_value u
      split
      · exact (asyncDone_touches ..).memOk (by decide) hu
      · split
        · exact (asyncDone_touches ..).memOk (by decide) hu
        · split
          · split
            · exact (asyncDone_touches ..).memOk (by decide) hu
            · exact (asyncDone_touches ..).memOk (by decide) ((modCur_touches ..).memOk (by decide) hu)
          · split
            · next x1 i s1 h5 =>
                split
                · exact (asyncDone_touches ..).memOk (by decide) hu
                · next x2 v h6 =>
                    split
                    · exact hs
                    · refine (asyncIssue_touches ..).memOk (by decide) ?_
                      have k := Touches.carry h6 (inject_touches ..)
                      exact Touches.memOk k (by decide) ((Touches.of_snd h5 (fresh_touches ..)).memOk (by decide) hu)

theorem execPurge_memOk (rd rs1 rs2 s) (hs : State.MemOk s) : onNext State.MemOk (execPurge rd rs1 rs2 s) := by
  unfold execPurge
  change State.MemOk _
  split
  · exact hs
  · extract_lets +onlyGivenNames v c lid k
    split
    · exact (asyncDone_touches ..).memOk (by decide) hs
    · split
      · exact (asyncDone_touches ..).memOk (by decide) hs
      · split
        · exact (asyncDone_touches ..).memOk (by decide) hs
        · split
          · exact (asyncDone_touches ..).memOk (by decide) hs
          · split
            · next x2 s1 w h5 =>
                refine (asyncDone_touches ..).memOk (by decide) ?_
                have k1 := Touches.carry h5 (tryPurge_touches ..)
                exact Touches.memOk k1 (by decide) hs
            · exact (asyncIssue_touches ..).memOk (by decide) hs

theorem execSavec_memOk (rd rs1 rs2 s) (hs : State.MemOk s) : onNext State.MemOk (execSavec rd rs1 rs2 s) := by
  unfold execSavec
  change State.MemOk _
  extract_lets +onlyGivenNames h key s1
  have hs1 : s1.MemOk := (settleFreeze_touches ..).memOk (by decide) hs
  clear_value s1
  split
  · exact hs
  · split
    · exact (asyncDone_touches ..).memOk (by decide) hs
    · split
      · exact hs1
      · split
        · exact (asyncDone_touches ..).memOk (by decide) hs1
        · split
          · exact hs1
          · extract_lets +onlyGivenNames d bs
            split
            · exact (asyncDone_touches ..).memOk (by decide) hs1
            · split
              · exact (asyncDone_touches ..).memOk (by decide) hs1
              · split
                · exact hs1
                · split
                  · exact (opTrap_touches ..).memOk (by decide) hs1
                  · exact (asyncDone_touches ..).memOk (by decide) ((setGraph_touches ..).memOk (by decide)
                      (writePieces_memOk (hs := hs1) ..))

theorem restoreImage_memOk (s d reloc) (hs : State.MemOk s) : onOk (fun p => State.MemOk (p).1)
    (restoreImage s d reloc) := by
  unfold restoreImage
  extract_lets +onlyGivenNames pkg die0 x
  split
  · trivial
  · split
    · trivial
    · next x2 s' h1 =>
        split
        · trivial
        · next x3 s1 ks h2 =>
            change State.MemOk _
            dsimp -zeta only
            refine (modGraph_touches ..).memOk (by decide) ?_
            have k := Touches.carry h2 (openChans_touches ..)
            refine Touches.memOk k (by decide) ?_
            have k1 := fun hs => Touches.carry h1 (restoreSet_memOk (hs := hs) ..)
            exact k1 hs

theorem execRestc_memOk (rd rs1 s) (hs : State.MemOk s) : onNext State.MemOk (execRestc rd rs1 s) := by
  unfold execRestc
  change State.MemOk _
  split
  · exact hs
  · extract_lets +onlyGivenNames va
    split
    · exact (opTrap_touches ..).memOk (by decide) hs
    · extract_lets +onlyGivenNames n
      split
      · exact (opTrap_touches ..).memOk (by decide) hs
      · extract_lets +onlyGivenNames b s1
        have hs1 : s1.MemOk := by
          unfold s1
          unfold b
          exact (readPieces_touches ..).memOk (by decide) hs
        clear_value s1
        split
        · refine (asyncDone_touches ..).memOk (by decide) ?_
          unfold b
          exact (readPieces_touches ..).memOk (by decide) hs
        · split
          · refine (asyncDone_touches ..).memOk (by decide) ?_
            unfold b
            exact (readPieces_touches ..).memOk (by decide) hs
          · extract_lets +onlyGivenNames g
            split
            · split
              · exact (asyncDone_touches ..).memOk (by decide) ((forgetRoom_touches ..).memOk (by decide) hs1)
              · next x4 t h6 h7 =>
                  split
                  · next x5 v h8 =>
                      refine (asyncDone_touches ..).memOk (by decide) ?_
                      have k := Touches.carry h8 (pageError_touches ..)
                      exact Touches.memOk k (by decide) ((forgetRoom_touches ..).memOk (by decide) hs1)
                  · refine (asyncDone_touches ..).memOk (by decide) ?_
                    have k := fun hs => Touches.carry h7 (restoreImage_memOk (hs := hs) ..)
                    exact k ((forgetRoom_touches ..).memOk (by decide) hs1)
            · split
              · next x4 v h6 =>
                  have k := Touches.carry h6 (compactFor_touches ..)
                  exact Touches.memOk k (by decide) hs1
              · exact (asyncDone_touches ..).memOk (by decide) ((forgetRoom_touches ..).memOk (by decide) hs1)

theorem execSbar_memOk (rd rs1 s) (hs : State.MemOk s) : onNext State.MemOk (execSbar rd rs1 s) := by
  unfold execSbar
  change State.MemOk _
  split
  · exact (finish_touches ..).memOk (by decide) hs
  · split
    · exact (finish_touches ..).memOk (by decide) hs
    · exact (finish_touches ..).memOk (by decide) ((modPort_touches ..).memOk (by decide) hs)

theorem execCpyq_memOk (rd rs1 rs2 s) (hs : State.MemOk s) : onNext State.MemOk (execCpyq rd rs1 rs2 s) := by
  unfold execCpyq
  change State.MemOk _
  extract_lets +onlyGivenNames q c
  split
  · exact hs
  · split
    · exact (asyncDone_touches ..).memOk (by decide) hs
    · split
      · exact (asyncDone_touches ..).memOk (by decide) hs
      · split
        · exact (asyncDone_touches ..).memOk (by decide) hs
        · split
          · exact (opTrap_touches ..).memOk (by decide) hs
          · extract_lets +onlyGivenNames b
            split
            · refine (asyncDone_touches ..).memOk (by decide) ?_
              unfold b
              exact (readPieces_touches ..).memOk (by decide) hs
            · split
              · exact (opTrap_touches ..).memOk (by decide) hs
              · refine (asyncDone_touches ..).memOk (by decide) ?_
                unfold b
                exact (readPieces_touches ..).memOk (by decide) hs
              · next x1 i s1 h6 =>
                  refine (asyncDone_touches ..).memOk (by decide) ?_
                  have k := fun hs => Touches.carry h6 (appendSlot_memOk (hs := hs) ..)
                  refine k ?_
                  unfold b
                  exact (readPieces_touches ..).memOk (by decide) hs

theorem execBararm_memOk (rs1 rs2 s) (hs : State.MemOk s) : onNext State.MemOk (execBararm rs1 rs2 s) := by
  unfold execBararm
  change State.MemOk _
  extract_lets +onlyGivenNames w
  split
  · exact (illegalForm_touches ..).memOk (by decide) hs
  · split
    · exact (illegalForm_touches ..).memOk (by decide) hs
    · split
      · exact hs
      · exact (modCur_touches ..).memOk (by decide) ((modBar_touches ..).memOk (by decide) hs)

theorem execBararrive_memOk (rs1 s) (hs : State.MemOk s) : onNext State.MemOk (execBararrive rs1 s) := by
  unfold execBararrive
  change State.MemOk _
  split
  · exact (illegalForm_touches ..).memOk (by decide) hs
  · split
    · exact hs
    · exact (modCur_touches ..).memOk (by decide) ((modBar_touches ..).memOk (by decide) hs)

theorem execBarwait_memOk (rd rs1 rs2 s) (hs : State.MemOk s) : onNext State.MemOk (execBarwait rd rs1 rs2 s) := by
  unfold execBarwait
  change State.MemOk _
  split
  · exact hs
  · exact blockOn_memOk hs (onSome.imp (fun _ k => k.memOk (by decide) hs) (tryBarwait_touches ..))

theorem execChrd_memOk (rd rs1 rs2 s) (hs : State.MemOk s) : onNext State.MemOk (execChrd rd rs1 rs2 s) := by
  unfold execChrd
  change State.MemOk _
  split
  · exact hs
  · exact blockOn_memOk hs (tryChrd_memOk (hs := hs) ..)

theorem execChtry_memOk (rd rs1 rs2 s) (hs : State.MemOk s) : onNext State.MemOk (execChtry rd rs1 rs2 s) := by
  unfold execChtry
  change State.MemOk _
  split
  · exact hs
  · split
    · exact (asyncDone_touches ..).memOk (by decide) hs
    · split
      · exact (opTrap_touches ..).memOk (by decide) hs
      · split
        · exact (asyncDone_touches ..).memOk (by decide) hs
        · exact hs
        · next x2 w s1 h3 =>
            refine (asyncDone_touches ..).memOk (by decide) ?_
            have k1 := fun hs => Touches.carry h3 (takeFor_memOk (hs := hs) ..)
            exact k1 hs
        · next x2 s1 h3 =>
            have k1 := fun hs => Touches.carry h3 (takeFor_memOk (hs := hs) ..)
            exact k1 hs

theorem execTwclr_memOk (rd rs1 s) (hs : State.MemOk s) : onNext State.MemOk (execTwclr rd rs1 s) := by
  unfold execTwclr
  change State.MemOk _
  extract_lets +onlyGivenNames h k w s1
  have hs1 : s1.MemOk := by
    unfold s1
    exact hs
  clear_value s1
  split
  · split
    · split
      · exact (finish_touches ..).memOk (by decide) hs
      · exact (finish_touches ..).memOk (by decide) ((touchTwset_touches ..).memOk (by decide)
          ((dropEnt_touches ..).memOk (by decide) hs))
    · exact (finish_touches ..).memOk (by decide) hs
  · split
    · split
      · exact (finish_touches ..).memOk (by decide) hs
      · exact (finish_touches ..).memOk (by decide) hs1
    · split
      · exact (finish_touches ..).memOk (by decide) hs
      · exact (finish_touches ..).memOk (by decide) hs

theorem execCrgno_memOk (rd rs1 s) (hs : State.MemOk s) : onNext State.MemOk (execCrgno rd rs1 s) := by
  unfold execCrgno
  change State.MemOk _
  extract_lets +onlyGivenNames th
  split
  · exact (finish_touches ..).memOk (by decide) hs
  · exact (finish_touches ..).memOk (by decide) ((modCur_touches ..).memOk (by decide) hs)

theorem execCrgnc_memOk (rd rs1 rs2 s) (hs : State.MemOk s) : onNext State.MemOk (execCrgnc rd rs1 rs2 s) := by
  unfold execCrgnc
  change State.MemOk _
  split
  · exact closeLevel_memOk (hs := hs) ..
  · split
    · exact hs
    · split
      · exact (opTrap_touches ..).memOk (by decide) hs
      · extract_lets +onlyGivenNames b
        split
        · refine (asyncDone_touches ..).memOk (by decide) ?_
          unfold b
          exact (readPieces_touches ..).memOk (by decide) hs
        · refine (instanceAct_touches ..).memOk (by decide) ?_
          unfold b
          exact (readPieces_touches ..).memOk (by decide) hs

theorem execQset_memOk (rd rs1 rs2 s) (hs : State.MemOk s) : onNext State.MemOk (execQset rd rs1 rs2 s) := by
  unfold execQset
  change State.MemOk _
  extract_lets +onlyGivenNames a k
  split
  · exact (finish_touches ..).memOk (by decide) hs
  · exact (finish_touches ..).memOk (by decide) ((modQuota_touches ..).memOk (by decide) hs)

theorem execQget_memOk (rd rs1 rs2 s) (hs : State.MemOk s) : onNext State.MemOk (execQget rd rs1 rs2 s) := by
  unfold execQget
  change State.MemOk _
  extract_lets +onlyGivenNames a q
  split
  · exact (finish_touches ..).memOk (by decide) hs
  · exact (finish_touches ..).memOk (by decide) hs

theorem execIllegalInstruction_memOk (w s) (hs : State.MemOk s) : onNext State.MemOk (execIllegalInstruction w s) := by
  unfold execIllegalInstruction
  exact (trapCur_touches ..).memOk (by decide) hs

theorem exec_memOk (i s) (hs : State.MemOk s) : onNext State.MemOk (exec i s) := by
  unfold exec
  split
  · exact execTokenArrival_memOk (hs := hs) ..
  · exact execArbiterSelect_memOk (hs := hs) ..
  · exact execArbiterReweight_memOk (hs := hs) ..
  · exact execLiveCountUpdate_memOk (hs := hs) ..
  · exact execLaunchComplete_memOk (hs := hs) ..
  · exact execSource_memOk (hs := hs) ..
  · exact execSink_memOk (hs := hs) ..
  · exact execDup_memOk (hs := hs) ..
  · exact execEnterOp_memOk (hs := hs) ..
  · exact execNextOp_memOk (hs := hs) ..
  · exact execExitOp_memOk (hs := hs) ..
  · exact execCallOp_memOk (hs := hs) ..
  · exact execRetOp_memOk (hs := hs) ..
  · exact execGsteer_memOk (hs := hs) ..
  · exact execGmerge_memOk (hs := hs) ..
  · exact execTriggerArrival_memOk (hs := hs) ..
  · exact execTriggerDeadline_memOk (hs := hs) ..
  · exact execBridge_memOk (hs := hs) ..
  · exact execCopen_memOk (hs := hs) ..
  · exact execCclose_memOk (hs := hs) ..
  · exact execContainmentHeld_memOk (hs := hs) ..
  · exact execTimer_memOk (hs := hs) ..
  · exact execTimerExpiry_memOk (hs := hs) ..
  · exact execVblockActivation_memOk (hs := hs) ..
  · exact execVblockStep_memOk (hs := hs) ..
  · exact execVblockComplete_memOk (hs := hs) ..
  · exact execMmul_memOk (hs := hs) ..
  · exact execWload_memOk (hs := hs) ..
  · exact execGather_memOk (hs := hs) ..
  · exact execRepeatOp_memOk (hs := hs) ..
  · exact execSwin_memOk (hs := hs) ..
  · exact execTransp_memOk (hs := hs) ..
  · exact execConv_memOk (hs := hs) ..
  · exact execHload_memOk (hs := hs) ..
  · exact execHloadSectorReturn_memOk (hs := hs) ..
  · exact execHstore_memOk (hs := hs) ..
  · exact execHstoreComplete_memOk (hs := hs) ..
  · exact execCopy_memOk (hs := hs) ..
  · exact execCopyChunkAck_memOk (hs := hs) ..
  · exact execCopyPacketTake_memOk (hs := hs) ..
  · exact execChw_memOk (hs := hs) ..
  · exact execChr_memOk (hs := hs) ..
  · exact execDispatch_memOk (hs := hs) ..
  · exact execDispatchCreditUpdate_memOk (hs := hs) ..
  · exact execReduce_memOk (hs := hs) ..
  · exact execReduceComplete_memOk (hs := hs) ..
  · exact execChunkWriteComplete_memOk (hs := hs) ..
  · exact execTileReadRetire_memOk (hs := hs) ..
  · exact execBurstReceive_memOk (hs := hs) ..
  · exact execMemoryTileRequest_memOk (hs := hs) ..
  · exact execHbmSectorAccess_memOk (hs := hs) ..
  · exact execPageWalk_memOk (hs := hs) ..
  · exact execLaunchAccept_memOk (hs := hs) ..
  · exact execLaunchEventPoll_memOk (hs := hs) ..
  · exact execLaunchStart_memOk (hs := hs) ..
  · exact execStreamCommandBegin_memOk (hs := hs) ..
  · exact execStreamCircuitSetup_memOk (hs := hs) ..
  · exact execStreamCommandComplete_memOk (hs := hs) ..
  · exact execTimerWheelBoundary_memOk (hs := hs) ..
  · exact execTwsetExpiry_memOk (hs := hs) ..
  · exact execFarListMove_memOk (hs := hs) ..
  · exact execDeviceTimeStep_memOk (hs := hs) ..
  · exact execQmSample_memOk (hs := hs) ..
  · exact execQmWindowEnd_memOk (hs := hs) ..
  · exact execPendingReportArrival_memOk (hs := hs) ..
  · exact execAsyncTrapEntry_memOk (hs := hs) ..
  · exact execLoadReturn_memOk (hs := hs) ..
  · exact execLoadDataError_memOk (hs := hs) ..
  · exact execAsyncCompletion_memOk (hs := hs) ..
  · exact execBlockingWaitEnd_memOk (hs := hs) ..
  · exact execPageSetMove_memOk (hs := hs) ..
  · exact execSlotBoundary_memOk (hs := hs) ..
  · exact execLinkFlitReceive_memOk (hs := hs) ..
  · exact execLinkDeath_memOk (hs := hs) ..
  · exact execMilestoneChange_memOk (hs := hs) ..
  · exact execMilestoneAdopt_memOk (hs := hs) ..
  · exact execPacketArrival_memOk (hs := hs) ..
  · exact execTerminalAccept_memOk (hs := hs) ..
  · exact execAckReceive_memOk (hs := hs) ..
  · exact execNackReceive_memOk (hs := hs) ..
  · exact execRetryTimeout_memOk (hs := hs) ..
  · exact execChunkWrite_memOk (hs := hs) ..
  · exact execReadResponse_memOk (hs := hs) ..
  · exact execChannelWrite_memOk (hs := hs) ..
  · exact execReduceContribution_memOk (hs := hs) ..
  · exact execHbmRead_memOk (hs := hs) ..
  · exact execHbmWrite_memOk (hs := hs) ..
  · exact execHbmAtomic_memOk (hs := hs) ..
  · exact execElementClockGate_memOk (hs := hs) ..
  · exact execElementWake_memOk (hs := hs) ..
  · exact execPagePowerGate_memOk (hs := hs) ..
  · exact execScrubRead_memOk (hs := hs) ..
  · exact execEccWindowExpiry_memOk (hs := hs) ..
  · exact execBankConversion_memOk (hs := hs) ..
  · exact execTraceWrite_memOk (hs := hs) ..
  · exact execZbell_memOk (hs := hs) ..
  · exact execZringWrite_memOk (hs := hs) ..
  · exact execRegisterWrite_memOk (hs := hs) ..
  · exact execBar2Access_memOk (hs := hs) ..
  · exact execZcmdRingPoll_memOk (hs := hs) ..
  · exact execIdent_memOk (hs := hs) ..
  · exact execAttest_memOk (hs := hs) ..
  · exact execFwstage_memOk (hs := hs) ..
  · exact execPcreate_memOk (hs := hs) ..
  · exact execPdestroy_memOk (hs := hs) ..
  · exact execFlr_memOk (hs := hs) ..
  · exact execPgrant_memOk (hs := hs) ..
  · exact execAspace_memOk (hs := hs) ..
  · exact execPools_memOk (hs := hs) ..
  · exact execFaults_memOk (hs := hs) ..
  · exact execSlots_memOk (hs := hs) ..
  · exact execLqset_memOk (hs := hs) ..
  · exact execCqset_memOk (hs := hs) ..
  · exact execRoutes_memOk (hs := hs) ..
  · exact execMstone_memOk (hs := hs) ..
  · exact execRgroup_memOk (hs := hs) ..
  · exact execTlbinv_memOk (hs := hs) ..
  · exact execReadObject_memOk (hs := hs) ..
  · exact execDbgsetStopEntry_memOk (hs := hs) ..
  · exact execDbgsetTrace_memOk (hs := hs) ..
  · exact execDbgsetWatch_memOk (hs := hs) ..
  · exact execDbgsetBreakBit_memOk (hs := hs) ..
  · exact execDbgsetProfileClear_memOk (hs := hs) ..
  · exact execDbgsetLogEntry_memOk (hs := hs) ..
  · exact execThreadNormalStop_memOk (hs := hs) ..
  · exact execThreadHardStop_memOk (hs := hs) ..
  · exact execThreadResume_memOk (hs := hs) ..
  · exact execThreadRegisterWrite_memOk (hs := hs) ..
  · exact execScrub_memOk (hs := hs) ..
  · exact execPower_memOk (hs := hs) ..
  · exact execThermalThrottle_memOk (hs := hs) ..
  · exact execThermalShutdown_memOk (hs := hs) ..
  · exact execColdReset_memOk (hs := hs) ..
  · exact execAdd_memOk (hs := hs) ..
  · exact execSub_memOk (hs := hs) ..
  · exact execAnd_memOk (hs := hs) ..
  · exact execOr_memOk (hs := hs) ..
  · exact execXor_memOk (hs := hs) ..
  · exact execShl_memOk (hs := hs) ..
  · exact execShr_memOk (hs := hs) ..
  · exact execSar_memOk (hs := hs) ..
  · exact execMul_memOk (hs := hs) ..
  · exact execMulh_memOk (hs := hs) ..
  · exact execMulhn_memOk (hs := hs) ..
  · exact execDiv_memOk (hs := hs) ..
  · exact execDivn_memOk (hs := hs) ..
  · exact execRem_memOk (hs := hs) ..
  · exact execRemn_memOk (hs := hs) ..
  · exact execMin_memOk (hs := hs) ..
  · exact execMax_memOk (hs := hs) ..
  · exact execMinn_memOk (hs := hs) ..
  · exact execMaxn_memOk (hs := hs) ..
  · exact execSlt_memOk (hs := hs) ..
  · exact execSltn_memOk (hs := hs) ..
  · exact execAddi_memOk (hs := hs) ..
  · exact execAndi_memOk (hs := hs) ..
  · exact execOri_memOk (hs := hs) ..
  · exact execXori_memOk (hs := hs) ..
  · exact execShli_memOk (hs := hs) ..
  · exact execShri_memOk (hs := hs) ..
  · exact execSari_memOk (hs := hs) ..
  · exact execLui_memOk (hs := hs) ..
  · exact execAuip_memOk (hs := hs) ..
  · exact execJal_memOk (hs := hs) ..
  · exact execJalr_memOk (hs := hs) ..
  · exact execBeq_memOk (hs := hs) ..
  · exact execBne_memOk (hs := hs) ..
  · exact execBlt_memOk (hs := hs) ..
  · exact execBge_memOk (hs := hs) ..
  · exact execBltn_memOk (hs := hs) ..
  · exact execBgen_memOk (hs := hs) ..
  · exact execLd8_memOk (hs := hs) ..
  · exact execLd8n_memOk (hs := hs) ..
  · exact execLd16_memOk (hs := hs) ..
  · exact execLd16n_memOk (hs := hs) ..
  · exact execLd32_memOk (hs := hs) ..
  · exact execLd32n_memOk (hs := hs) ..
  · exact execLd64_memOk (hs := hs) ..
  · exact execSt8_memOk (hs := hs) ..
  · exact execSt16_memOk (hs := hs) ..
  · exact execSt32_memOk (hs := hs) ..
  · exact execSt64_memOk (hs := hs) ..
  · exact execAmoadd_memOk (hs := hs) ..
  · exact execAmoand_memOk (hs := hs) ..
  · exact execAmoor_memOk (hs := hs) ..
  · exact execAmoxor_memOk (hs := hs) ..
  · exact execAmoswp_memOk (hs := hs) ..
  · exact execAmomin_memOk (hs := hs) ..
  · exact execAmomax_memOk (hs := hs) ..
  · exact execAmocas_memOk (hs := hs) ..
  · exact execAmoinc_memOk (hs := hs) ..
  · exact execFence_memOk (hs := hs) ..
  · exact execTrap_memOk (hs := hs) ..
  · exact execNop_memOk (hs := hs) ..
  · exact execHalt_memOk (hs := hs) ..
  · exact execEret_memOk (hs := hs) ..
  · exact execWfe_memOk (hs := hs) ..
  · exact execSev_memOk (hs := hs) ..
  · exact execCsrrd_memOk (hs := hs) ..
  · exact execCsrwr_memOk (hs := hs) ..
  · exact execCsrset_memOk (hs := hs) ..
  · exact execCsrclr_memOk (hs := hs) ..
  · exact execGload_memOk (hs := hs) ..
  · exact execGfree_memOk (hs := hs) ..
  · exact execGlaunch_memOk (hs := hs) ..
  · exact execGkill_memOk (hs := hs) ..
  · exact execInject_memOk (hs := hs) ..
  · exact execPurge_memOk (hs := hs) ..
  · exact execMsread_memOk (hs := hs) ..
  · exact execClread_memOk (hs := hs) ..
  · exact execFreeze_memOk (hs := hs) ..
  · exact execThaw_memOk (hs := hs) ..
  · exact execSavec_memOk (hs := hs) ..
  · exact execRestc_memOk (hs := hs) ..
  · exact execSbind_memOk (hs := hs) ..
  · exact execSstart_memOk (hs := hs) ..
  · exact execSbar_memOk (hs := hs) ..
  · exact execCpyq_memOk (hs := hs) ..
  · exact execCpywait_memOk (hs := hs) ..
  · exact execBararm_memOk (hs := hs) ..
  · exact execBararrive_memOk (hs := hs) ..
  · exact execBarwait_memOk (hs := hs) ..
  · exact execChopen_memOk (hs := hs) ..
  · exact execChwr_memOk (hs := hs) ..
  · exact execChrd_memOk (hs := hs) ..
  · exact execChtry_memOk (hs := hs) ..
  · exact execChclose_memOk (hs := hs) ..
  · exact execTwset_memOk (hs := hs) ..
  · exact execTwclr_memOk (hs := hs) ..
  · exact execTime_memOk (hs := hs) ..
  · exact execCrgno_memOk (hs := hs) ..
  · exact execCrgnc_memOk (hs := hs) ..
  · exact execQset_memOk (hs := hs) ..
  · exact execQget_memOk (hs := hs) ..
  · exact execIllegalInstruction_memOk (hs := hs) ..
  · exact execFetchFault_memOk (hs := hs) ..
  · exact execWriteAcknowledgement_memOk (hs := hs) ..

theorem runTurn_memOk (u s) (hs : State.MemOk s) : onNext State.MemOk (runTurn u s) := by
  unfold runTurn
  split
  · trivial
  · split
    · split
      · next x s' h1 =>
          change State.MemOk _
          have k := Touches.carry h1 (issueOf_touches ..)
          exact Touches.memOk k (by decide) hs
      · next x i s' h1 =>
          refine exec_memOk (hs := ?_) ..
          have k := Touches.carry h1 (issueOf_touches ..)
          exact Touches.memOk k (by decide) hs
    · split
      · exact exec_memOk (hs := hs) ..
      · exact hs
    · exact worldTurn_memOk (hs := hs) ..

theorem step_memOk (s) (hs : State.MemOk s) : onNext State.MemOk (step s) := by
  unfold step
  exact runTurn_memOk (hs := ((takeTurn_touches ..).memOk (by decide) hs)) ..

/-- Settles O60: every operation that a turn may run writes the memories by writes that keep them canonical. -/
theorem stepsKeepMemories : Obligations.StepsKeepMemories := by
  unfold Obligations.StepsKeepMemories
  intro s t hs ht
  have h := step_memOk s hs
  rw [ht] at h
  exact h

end Sys2Proof.Machine
end

section
/-!
PROOFS. Proofs/ThreadWrites.lean: what writes the threads keeps each of them in order.
-/
namespace Sys2Proof.Machine

/-- Every thread is in order (State.Threads), as a statement that is not a function. -/
structure State.ThreadsOk (s : State) : Prop where
  order : s.Threads

/-- The same threads are in order in another state. -/
theorem State.ThreadsOk.same {s t : State} (hs : s.ThreadsOk) (h : t.threads = s.threads) : t.ThreadsOk := by
  refine ⟨fun k => ?_⟩
  unfold getThr
  rw [h]
  exact hs.order k

/-- A change that leaves the threads alone keeps them in order. -/
theorem Touches.threads {l : List Field} {s t : State} (h : Touches l s t) (hl : l.contains .threads = false)
    (hs : s.ThreadsOk) : t.ThreadsOk := by
  refine hs.same (h.same .threads ?_)
  simpa using hl

theorem State.ThreadsOk.foldl {α : Type} {f : State → α → State} (h : ∀ u a, u.ThreadsOk → (f u a).ThreadsOk) :
    ∀ (as : List α) (s : State), s.ThreadsOk → (as.foldl f s).ThreadsOk
  | [], _, hs => hs
  | a :: as, s, hs => foldl h as (f s a) (h s a hs)

theorem State.ThreadsOk.foldl_fst {α β : Type} {f : State × β → α → State × β} (h : ∀ u a, u.1.ThreadsOk →
    (f u a).1.ThreadsOk) :
    ∀ (as : List α) (s : State × β), s.1.ThreadsOk → (as.foldl f s).1.ThreadsOk
  | [], _, hs => hs
  | a :: as, s, hs => foldl_fst h as (f s a) (h s a hs)

theorem threads_of_snd {α : Type} {t : State} {a : α} {p : α × State} (h : p = (a, t))
    (k : p.2.ThreadsOk) : t.ThreadsOk := by
  subst h; exact k

theorem threads_of_fst {α : Type} {t : State} {a : α} {p : State × α} (h : p = (t, a))
    (k : p.1.ThreadsOk) : t.ThreadsOk := by
  subst h; exact k

theorem threads_getD {o : Option State} {d : State} (h : ∀ t, o = some t → t.ThreadsOk) (k : d.ThreadsOk) :
    (o.getD d).ThreadsOk := by
  cases o with
  | some t => exact h t rfl
  | none => exact k

/-! ### Writes of a thread -/

theorem setThr_threads_of {s : State} {t : Tid} {v : Thread} (hs : s.ThreadsOk) (hv : v.InOrder) :
    (setThr s t v).ThreadsOk := by
  refine ⟨fun k => ?_⟩
  by_cases h : k = t
  · subst h; rw [getThr_setThr]; exact hv
  · rw [getThr_setThr_other _ _ h]; exact hs.order k

theorem modThr_keepsThreads {s : State} {t : Tid} {f : Thread → Thread} (hs : s.ThreadsOk)
    (hf : ∀ th, th.InOrder → (f th).InOrder) : (modThr s t f).ThreadsOk := setThr_threads_of hs (hf _ (hs.order t))

theorem modCur_keepsThreads {s : State} {f : Thread → Thread} (hs : s.ThreadsOk) (hf : ∀ th, th.InOrder →
    (f th).InOrder) :
    (modCur s f).ThreadsOk := modThr_keepsThreads hs hf

/-! ### Writes of the table of threads -/

theorem tfind_tmap {κ α : Type} [DecidableEq κ] (f : κ → α → α) (k : κ) (t : Tbl κ α) :
    tfind k (tmap f t) = (tfind k t).map (f k) := by
  induction t with
  | nil => rfl
  | cons e t ih =>
    obtain ⟨k', v⟩ := e
    rw [tmap, List.map_cons]
    unfold tfind
    split
    · next h => subst h; rfl
    · exact ih

theorem Thread.inOrder_reset : Thread.InOrder {} := by
  unfold Thread.InOrder
  decide

theorem threads_tmap {s t : State} {f : Tid → Thread → Thread} (ht : t.threads = tmap f s.threads) (hs : s.ThreadsOk)
    (hf : ∀ k th, th.InOrder → (f k th).InOrder) : t.ThreadsOk := by
  refine ⟨fun k => ?_⟩
  have h := hs.order k
  unfold getThr tget at h ⊢
  rw [ht, tfind_tmap]
  generalize tfind k s.threads = o at h ⊢
  cases o with
  | none => exact Thread.inOrder_reset
  | some th => exact hf k th h

theorem State.ThreadsOk.tmap {s : State} {f : Tid → Thread → Thread} (hs : s.ThreadsOk)
    (hf : ∀ k th, th.InOrder → (f k th).InOrder) : State.ThreadsOk { s with threads := Machine.tmap f s.threads } :=
  threads_tmap rfl hs hf

theorem tfind_filter {κ α : Type} [DecidableEq κ] (p : κ → Bool) (k : κ) (t : Tbl κ α) :
    tfind k (t.filter fun e => p e.1) = if p k then tfind k t else none := by
  induction t with
  | nil => exact (ite_self _).symm
  | cons e t ih =>
    obtain ⟨k', v⟩ := e
    rw [List.filter_cons]
    by_cases h : k' = k
    · subst h
      cases hp : p k' with
      | true => rw [if_pos rfl, if_pos rfl, tfind, if_pos rfl, tfind, if_pos rfl]
      | false => rw [hp] at ih; rw [if_neg Bool.false_ne_true, ih]; rfl
    · have e : tfind k ((k', v) :: t) = tfind k t := by
        rw [tfind]; exact if_neg h
      rw [e, ← ih]
      split
      · rw [tfind]; exact if_neg h
      · rfl

theorem threads_filter {s t : State} (p : Tid → Bool) (ht : t.threads = s.threads.filter fun e => p e.1)
    (hs : s.ThreadsOk) : t.ThreadsOk := by
  refine ⟨fun k => ?_⟩
  have h := hs.order k
  unfold getThr tget at h ⊢
  rw [ht, tfind_filter]
  split
  · exact h
  · exact Thread.inOrder_reset

/-! ### The parts of a thread that its order speaks of -/

theorem Thread.InOrder.put {th u : Thread} (h : th.InOrder) (h1 : u.tvec = th.tvec) (h2 : u.epc = th.epc)
    (h3 : u.loads.length ≤ th.loads.length)
    (h4 : (u.stores.filter (!·.atomic)).length ≤ (th.stores.filter (!·.atomic)).length) : u.InOrder := by
  obtain ⟨a, b, c, d⟩ := h
  exact ⟨h1 ▸ a, h2 ▸ b, h3.trans c, h4.trans d⟩

theorem Thread.InOrder.addLoad {th : Thread} (h : th.InOrder) (ld : Load) (h8 : th.loads.length < 8) :
    Thread.InOrder { th with loads := th.loads ++ [ld] } := by
  obtain ⟨a, b, _, d⟩ := h
  refine ⟨a, b, ?_, d⟩
  rw [List.length_append, List.length_singleton]
  omega

theorem Thread.InOrder.addStore {th : Thread} (h : th.InOrder) (st : StoreOut)
    (h16 : (th.stores.filter (!·.atomic)).length < 16) : Thread.InOrder { th with stores := th.stores ++ [st] } := by
  obtain ⟨a, b, c, _⟩ := h
  refine ⟨a, b, c, ?_⟩
  have hl : ([st].filter (!·.atomic)).length ≤ 1 := List.length_filter_le ..
  rw [List.filter_append, List.length_append]
  omega

theorem Thread.InOrder.addAtomic {th : Thread} (h : th.InOrder) (st : StoreOut) (hst : st.atomic = true) :
    Thread.InOrder { th with stores := th.stores ++ [st] } := by
  refine h.put rfl rfl le_rfl ?_
  have e : [st].filter (!·.atomic) = [] := by simp [hst]
  rw [List.filter_append, e, List.append_nil]

/-- Loads and stores may leave. -/
theorem Thread.InOrder.filter {th : Thread} (h : th.InOrder) (p : Load → Bool) (q : StoreOut → Bool) :
    Thread.InOrder { th with loads := th.loads.filter p, stores := th.stores.filter q } := by
  refine h.put rfl rfl (List.length_filter_le ..) ?_
  exact (List.filter_sublist.filter _).length_le

/-- A word with its two lowest bits cleared is a multiple of 4. -/
theorem aligned_mod (w : Word) : (w &&& ~~~3#64).toNat % 4 = 0 := by
  have h : (w &&& ~~~3#64) &&& 3#64 = 0#64 := by
    rw [BitVec.and_assoc]
    have : ~~~3#64 &&& 3#64 = 0#64 := by decide
    rw [this, BitVec.and_zero]
  have h2 := congrArg BitVec.toNat h
  rw [BitVec.toNat_and] at h2
  exact (Nat.and_two_pow_sub_one_eq_mod _ 2).symm.trans h2

theorem writeReg_inOrder {th : Thread} (h : th.InOrder) {r v} : (writeReg th r v).InOrder := by
  unfold writeReg
  split
  · exact h
  · exact h

theorem sbSet_inOrder {th : Thread} (h : th.InOrder) {r} : (sbSet th r).InOrder := by
  unfold sbSet
  split
  · exact h
  · exact h

theorem sbClear_inOrder {th : Thread} (h : th.InOrder) {r} : (sbClear th r).InOrder := h
theorem goTo_inOrder {th : Thread} (h : th.InOrder) {a} : (goTo th a).InOrder := h
theorem advance_inOrder {th : Thread} (h : th.InOrder) : (advance th).InOrder := h
theorem clearAhead_inOrder {th : Thread} (h : th.InOrder) : (clearAhead th).InOrder := h
theorem holdEffect_inOrder {th : Thread} (h : th.InOrder) {x} : (holdEffect th x).InOrder := h
theorem errFirst_inOrder {th : Thread} (h : th.InOrder) {i} : (errFirst th i).InOrder := h

theorem storeErr_inOrder {th : Thread} (h : th.InOrder) {n r} : (storeErr th n r).InOrder := by
  unfold storeErr
  split
  · split
    · exact h
    · exact h
  · exact h

theorem scrubThread_inOrder (th : Thread) : (scrubThread th).InOrder := Thread.inOrder_reset

theorem trapEntry_inOrder {th : Thread} (h : th.InOrder) {tr epc handler} : (trapEntry th tr epc handler).InOrder := by
  obtain ⟨h1, _, h3, h4⟩ := h
  exact ⟨h1, aligned_mod epc, h3, h4⟩

theorem writeCsr_inOrder {th : Thread} (h : th.InOrder) {c v} : (writeCsr th c v).InOrder := by
  obtain ⟨h1, h2, h3, h4⟩ := h
  unfold writeCsr
  split
  · exact ⟨h1, h2, h3, h4⟩
  · exact ⟨h1, aligned_mod v, h3, h4⟩
  · exact ⟨aligned_mod v, h2, h3, h4⟩
  all_goals exact ⟨h1, h2, h3, h4⟩

theorem pokeReg_inOrder {th : Thread} (h : th.InOrder) {r v} : (pokeReg th r v).InOrder := by
  unfold pokeReg
  refine sbClear_inOrder (writeReg_inOrder ?_)
  exact h.put rfl rfl (List.length_map ..).le le_rfl

end Sys2Proof.Machine
end

section
/-!
PROOFS. Proofs/ThreadsInOrder.lean: every operation keeps the threads in order.
-/
namespace Sys2Proof.Machine

theorem freeTile_keepsThreads (s id) (hs : State.ThreadsOk s) : State.ThreadsOk (freeTile s id) := by
  unfold freeTile
  extract_lets +onlyGivenNames s1
  have hs1 : s1.ThreadsOk := by
    unfold s1
    refine (State.ThreadsOk.tmap hs fun k th ht => ?_).same rfl
    split
    · exact ht
    · exact ht
  clear_value s1
  extract_lets +onlyGivenNames s2
  have hs2 : s2.ThreadsOk := (unmake_touches ..).threads (by decide) hs1
  clear_value s2
  exact hs2.same rfl

theorem freeDests_keepsThreads (s ds) (hs : State.ThreadsOk s) : State.ThreadsOk (freeDests s ds) := by
  unfold freeDests
  extract_lets +onlyGivenNames own
  split
  · exact hs
  · refine (reevalAll_touches ..).threads (by decide) ?_
    refine .foldl (fun u a hu => ?_) _ _ ?_
    · exact freeTile_keepsThreads (hs := hu) ..
    · exact hs

theorem takeRow_keepsThreads (s e q) (hs : State.ThreadsOk s) : State.ThreadsOk (takeRow s e q) := by
  unfold takeRow
  extract_lets +onlyGivenNames mine x s1
  have hs1 : s1.ThreadsOk := by
    unfold s1
    refine .foldl (fun u a hu => ?_) _ _ ?_
    · exact (releaseBank_touches ..).threads (by decide) (freeDests_keepsThreads (hs := hu) ..)
    · exact hs
  clear_value s1
  extract_lets +onlyGivenNames s2
  have hs2 : s2.ThreadsOk := (modEng_touches ..).threads (by decide) hs1
  clear_value s2
  exact (clearRow_touches ..).threads (by decide) ((dropWaits_touches ..).threads (by decide) hs2)

theorem sweepRow_keepsThreads (w e s q) (hs : State.ThreadsOk s.1) : State.ThreadsOk (sweepRow w e s q).1 := by
  unfold sweepRow
  extract_lets +onlyGivenNames s1
  have hs1 : s1.ThreadsOk := takeRow_keepsThreads (hs := hs) ..
  clear_value s1
  split
  · dsimp -zeta only
    exact (consumeRow_touches ..).threads (by decide) hs1
  · split
    · exact hs1
    · dsimp -zeta only
      refine .foldl (fun u a hu => ?_) _ _ ?_
      · exact (removeTok_touches ..).threads (by decide) hu
      · exact hs1

theorem sweepEng_keepsThreads (w s e) (hs : State.ThreadsOk s.1) : State.ThreadsOk (sweepEng w s e).1 := by
  unfold sweepEng
  extract_lets +onlyGivenNames r x ts keep s1
  have hs1 : s1.ThreadsOk := by
    unfold s1
    refine (setEng_touches ..).threads (by decide) ?_
    unfold r
    refine .foldl_fst (fun u a hu => ?_) _ _ ?_
    · exact sweepRow_keepsThreads (hs := hu) ..
    · exact hs
  clear_value s1
  dsimp -zeta only
  refine .foldl (fun u a hu => ?_) _ _ ?_
  · exact (removeTok_touches ..).threads (by decide) hu
  · exact hs1

theorem sweep_keepsThreads (w s) (hs : State.ThreadsOk s) : State.ThreadsOk (sweep w s).1 := by
  unfold sweep
  extract_lets +onlyGivenNames r
  dsimp -zeta only
  refine (sweepTimers_touches ..).threads (by decide) ?_
  unfold r
  refine .foldl_fst (fun u a hu => ?_) _ _ ?_
  · exact sweepEng_keepsThreads (hs := hu) ..
  · exact hs

theorem abortRun_keepsThreads (s e u) (hs : State.ThreadsOk s) : State.ThreadsOk (abortRun s e u) := by
  unfold abortRun
  extract_lets +onlyGivenNames s1
  have hs1 : s1.ThreadsOk := (releaseBank_touches ..).threads (by decide) (freeDests_keepsThreads (hs := hs) ..)
  clear_value s1
  extract_lets +onlyGivenNames s2
  have hs2 : s2.ThreadsOk := by
    unfold s2
    split
    · exact (modIsland_touches ..).threads (by decide) hs1
    · exact hs1
  clear_value s2
  exact (dropRun_touches ..).threads (by decide) hs2

theorem cancelXfer_keepsThreads (s x) (hs : State.ThreadsOk s) : State.ThreadsOk (cancelXfer s x) := by
  unfold cancelXfer
  extract_lets +onlyGivenNames s1
  have hs1 : s1.ThreadsOk := by
    unfold s1
    refine .foldl (fun u a hu => ?_) _ _ ?_
    · exact (removeTok_touches ..).threads (by decide) hu
    · exact (removeTok_touches ..).threads (by decide) hs
  clear_value s1
  extract_lets +onlyGivenNames x1
  have hx1 : x1.ThreadsOk := (dropXfer_touches ..).threads (by decide) hs1
  clear_value x1
  exact freeDests_keepsThreads (hs := (hx1.same rfl)) ..

theorem cancelXUnit_keepsThreads (s u) (hs : State.ThreadsOk s) : State.ThreadsOk (cancelXUnit s u) := by
  unfold cancelXUnit
  extract_lets +onlyGivenNames s1
  have hs1 : s1.ThreadsOk := by
    unfold s1
    refine freeDests_keepsThreads (hs := ?_) ..
    refine .foldl (fun u1 a hu => ?_) _ _ ?_
    · exact (removeTok_touches ..).threads (by decide) hu
    · exact (dropXUnit_touches ..).threads (by decide) hs
  clear_value s1
  split
  · split
    · exact hs1
    · exact (modGroup_touches ..).threads (by decide) hs1
  · exact hs1

theorem cancelInjects_keepsThreads (s pkg lid) (hs : State.ThreadsOk s) : State.ThreadsOk
    (cancelInjects s pkg lid) := by
  unfold cancelInjects
  refine (State.ThreadsOk.tmap hs fun k th ht => ?_).same rfl
  split
  · exact ht
  · exact ht

theorem cancelReports_keepsThreads (s pkg lid) (hs : State.ThreadsOk s) : State.ThreadsOk
    (cancelReports s pkg lid) := by
  unfold cancelReports
  extract_lets +onlyGivenNames mine taken ids
  refine (State.ThreadsOk.tmap hs fun k th ht => ?_).same rfl
  split
  · exact ht
  · exact ht

theorem stopLaunch_keepsThreads (s pkg lid) (hs : State.ThreadsOk s) : State.ThreadsOk (stopLaunch s pkg lid).1 := by
  unfold stopLaunch
  extract_lets +onlyGivenNames tok s1
  have hs1 : s1.ThreadsOk := sweep_keepsThreads (hs := hs) ..
  clear_value s1
  extract_lets +onlyGivenNames flying s2
  have hs2 : s2.ThreadsOk := by
    unfold s2
    refine .foldl (fun u a hu => ?_) _ _ ?_
    · exact (removeTok_touches ..).threads (by decide) hu
    · exact hs1.same rfl
  clear_value s2
  extract_lets +onlyGivenNames s3
  have hs3 : s3.ThreadsOk := by
    unfold s3
    refine .foldl (fun u a hu => ?_) _ _ ?_
    · refine .foldl (fun u1 a1 hu1 => ?_) _ _ ?_
      · split
        · refine .foldl (fun u2 a2 hu2 => ?_) _ _ ?_
          · exact (removeTok_touches ..).threads (by decide) hu2
          · exact abortRun_keepsThreads (hs := hu1) ..
        · exact hu1
      · exact hu
    · exact hs2
  clear_value s3
  extract_lets +onlyGivenNames s4
  have hs4 : s4.ThreadsOk := by
    unfold s4
    refine .foldl (fun u a hu => ?_) _ _ ?_
    · exact cancelXfer_keepsThreads (hs := hu) ..
    · exact hs3
  clear_value s4
  extract_lets +onlyGivenNames cs s5
  have hs5 : s5.ThreadsOk := by
    unfold s5
    refine .foldl (fun u a hu => ?_) _ _ ?_
    · refine .foldl (fun u1 a1 hu1 => ?_) _ _ ?_
      · exact (removeTok_touches ..).threads (by decide) hu1
      · exact (dropCopy_touches ..).threads (by decide) hu
    · exact hs4
  clear_value s5
  extract_lets +onlyGivenNames s6
  have hs6 : s6.ThreadsOk := by
    unfold s6
    exact hs5.same rfl
  clear_value s6
  extract_lets +onlyGivenNames s7
  have hs7 : s7.ThreadsOk := by
    unfold s7
    refine .foldl (fun u a hu => ?_) _ _ ?_
    · exact cancelXUnit_keepsThreads (hs := hu) ..
    · exact hs6
  clear_value s7
  extract_lets +onlyGivenNames st s8
  have hs8 : s8.ThreadsOk := by
    unfold s8
    refine (detachLaunch_touches ..).threads (by decide) ?_
    refine cancelInjects_keepsThreads (hs := ?_) ..
    refine cancelReports_keepsThreads (hs := ?_) ..
    unfold st
    exact (cancelStreams_touches ..).threads (by decide) hs7
  clear_value s8
  extract_lets +onlyGivenNames s9
  have hs9 : s9.ThreadsOk := by
    unfold s9
    exact hs8.same rfl
  clear_value s9
  extract_lets +onlyGivenNames s10
  have hs10 : s10.ThreadsOk := by
    unfold s10
    split
    · exact (dropInsts_touches ..).threads (by decide) hs9
    · exact hs9
  clear_value s10
  exact hs10

theorem beginKill_keepsThreads (s pkg lid reason) (hs : State.ThreadsOk s) : State.ThreadsOk
    (beginKill s pkg lid reason).1 := by
  unfold beginKill
  extract_lets +onlyGivenNames s1
  have hs1 : s1.ThreadsOk := (modLaunch_touches ..).threads (by decide) hs
  clear_value s1
  extract_lets +onlyGivenNames q s2
  have hs2 : s2.ThreadsOk := (modLaunchQ_touches ..).threads (by decide) hs1
  clear_value s2
  exact stopLaunch_keepsThreads (hs := hs2) ..

theorem execStreamCircuitSetup_keepsThreads (e port slot s) (hs : State.ThreadsOk s) : onNext State.ThreadsOk
    (execStreamCircuitSetup e port slot s) := by
  unfold execStreamCircuitSetup
  change State.ThreadsOk _
  split
  · exact hs
  · split
    · exact hs
    · split
      · exact hs
      · extract_lets +onlyGivenNames t s1
        have hs1 : s1.ThreadsOk := by
          unfold s1
          exact hs.same rfl
        clear_value s1
        split
        · exact (setCmd_touches ..).threads (by decide) hs1
        · exact hs1

theorem moveGrant_keepsThreads (s pkg src dst die pages ths bf bn hb hn) (hs : State.ThreadsOk s) : State.ThreadsOk
    (moveGrant s pkg src dst die pages ths bf bn hb hn) := by
  unfold moveGrant
  extract_lets +onlyGivenNames s1
  have hs1 : s1.ThreadsOk := by
    unfold s1
    exact hs.same rfl
  clear_value s1
  extract_lets +onlyGivenNames s2
  have hs2 : s2.ThreadsOk := by
    unfold s2
    refine .foldl (fun u a hu => ?_) _ _ ?_
    · exact modThr_keepsThreads hu fun th ht => ht
    · exact hs1
  clear_value s2
  split
  · exact hs2
  · exact (modPart_touches ..).threads (by decide) ((modPart_touches ..).threads (by decide) hs2)

theorem execTimerWheelBoundary_keepsThreads (pkg die s) (hs : State.ThreadsOk s) : onNext State.ThreadsOk
    (execTimerWheelBoundary pkg die s) := by
  unfold execTimerWheelBoundary
  change State.ThreadsOk _
  extract_lets +onlyGivenNames b w
  split
  · exact hs
  · exact (setWheel_touches ..).threads (by decide) hs

theorem execCclose_keepsThreads (e n s) (hs : State.ThreadsOk s) : onNext State.ThreadsOk (execCclose e n s) := by
  unfold execCclose
  change State.ThreadsOk _
  split
  · exact hs
  · extract_lets +onlyGivenNames t k x1 out
    split
    · exact hs
    · split
      · next x2 i s1 h2 =>
          extract_lets +onlyGivenNames s2
          have hs2 : s2.ThreadsOk := (fire_touches ..).threads (by decide) ((Touches.of_snd h2
            (fresh_touches ..)).threads (by decide) hs)
          clear_value s2
          extract_lets +onlyGivenNames s3
          have hs3 : s3.ThreadsOk := (retireKept_touches ..).threads (by decide) ((retireKept_touches ..).threads
            (by decide) hs2)
          clear_value s3
          extract_lets +onlyGivenNames s4
          have hs4 : s4.ThreadsOk := (modInst_touches ..).threads (by decide) hs3
          clear_value s4
          split
          · exact (releaseUnit_touches ..).threads (by decide) hs4
          · exact hs4

theorem asyncIssue_keepsThreads (s rd w) (hs : State.ThreadsOk s) : State.ThreadsOk (asyncIssue s rd w) := by
  unfold asyncIssue
  refine modCur_keepsThreads hs fun th ht => ?_
  refine advance_inOrder ?_ ..
  refine sbSet_inOrder ?_ ..
  exact ht

theorem asyncDone_keepsThreads (s rd v) (hs : State.ThreadsOk s) : State.ThreadsOk (asyncDone s rd v) := by
  unfold asyncDone
  exact asyncIssue_keepsThreads (hs := hs) ..

theorem enterTrap_keepsThreads (s t tr epc handler) (hs : State.ThreadsOk s) : State.ThreadsOk
    (enterTrap s t tr epc handler) := by
  unfold enterTrap
  refine (traceClass_touches ..).threads (by decide) ?_
  refine modThr_keepsThreads hs fun th ht => ?_
  refine trapEntry_inOrder ?_ ..
  exact ht

theorem syncTrapRaw_keepsThreads (s t tr epc handler) (hs : State.ThreadsOk s) : State.ThreadsOk
    (syncTrapRaw s t tr epc handler) := by
  unfold syncTrapRaw
  split
  · exact modThr_keepsThreads hs fun th ht => ht
  · exact enterTrap_keepsThreads (hs := hs) ..

theorem unwindLevel_keepsThreads (s t lvl) (hs : State.ThreadsOk s) : State.ThreadsOk (unwindLevel s t lvl) := by
  unfold unwindLevel
  split
  · exact hs
  · extract_lets +onlyGivenNames s1
    have hs1 : s1.ThreadsOk := modThr_keepsThreads hs fun th ht => ht
    clear_value s1
    exact syncTrapRaw_keepsThreads (hs := hs1) ..

theorem loadErrorTrap_keepsThreads (s t) (hs : State.ThreadsOk s) : State.ThreadsOk (loadErrorTrap s t) := by
  unfold loadErrorTrap
  extract_lets +onlyGivenNames th
  split
  · exact hs
  · extract_lets +onlyGivenNames s1
    have hs1 : s1.ThreadsOk := modThr_keepsThreads hs fun th1 ht => ht
    clear_value s1
    split
    · exact unwindLevel_keepsThreads (hs := hs1) ..
    · exact syncTrapRaw_keepsThreads (hs := hs1) ..

theorem syncTrap_keepsThreads (s t cause tval epc) (hs : State.ThreadsOk s) : State.ThreadsOk
    (syncTrap s t cause tval epc) := by
  unfold syncTrap
  split
  · exact syncTrapRaw_keepsThreads (hs := hs) ..
  · exact loadErrorTrap_keepsThreads (hs := hs) ..

theorem watchTrap_keepsThreads (s t acc va epc) (hs : State.ThreadsOk s) : State.ThreadsOk
    (watchTrap s t acc va epc) := by
  unfold watchTrap
  exact syncTrap_keepsThreads (hs := (modThr_keepsThreads hs fun th ht => ht)) ..

theorem trapCur_keepsThreads (s cause tval) (hs : State.ThreadsOk s) : State.ThreadsOk (trapCur s cause tval) := by
  unfold trapCur
  exact syncTrap_keepsThreads (hs := hs) ..

theorem accessTrap_keepsThreads (s c va) (hs : State.ThreadsOk s) : State.ThreadsOk (accessTrap s c va) := by
  unfold accessTrap
  extract_lets +onlyGivenNames e part
  split
  · exact (noteMiss_touches ..).threads (by decide) hs
  · exact trapCur_keepsThreads (hs := ((dropWalk_touches ..).threads (by decide) hs)) ..

theorem opTrap_keepsThreads (s x) (hs : State.ThreadsOk s) : State.ThreadsOk (opTrap s x) := by
  unfold opTrap
  split
  · exact watchTrap_keepsThreads (hs := hs) ..
  · exact accessTrap_keepsThreads (hs := hs) ..

theorem toBuffer_keepsThreads (s rd va room bs value) (hs : State.ThreadsOk s) : State.ThreadsOk
    (toBuffer s rd va room bs value) := by
  unfold toBuffer
  split
  · exact opTrap_keepsThreads (hs := hs) ..
  · split
    · exact asyncDone_keepsThreads (hs := hs) ..
    · split
      · exact hs
      · split
        · exact opTrap_keepsThreads (hs := hs) ..
        · exact asyncDone_keepsThreads (hs := ((writePieces_touches ..).threads (by decide) hs)) ..

theorem execClread_keepsThreads (rd rs1 rs2 s) (hs : State.ThreadsOk s) : onNext State.ThreadsOk
    (execClread rd rs1 rs2 s) := by
  unfold execClread
  change State.ThreadsOk _
  split
  · exact hs
  · extract_lets +onlyGivenNames v
    split
    · exact asyncDone_keepsThreads (hs := hs) ..
    · split
      · exact asyncDone_keepsThreads (hs := hs) ..
      · split
        · exact asyncDone_keepsThreads (hs := hs) ..
        · extract_lets +onlyGivenNames bs
          exact toBuffer_keepsThreads (hs := hs) ..

theorem issueLoad_keepsThreads (rd rs1 imm size sext s) (hs : State.ThreadsOk s) :
    State.ThreadsOk (issueLoad rd rs1 imm size sext s) := by
  unfold issueLoad
  extract_lets th va
  split
  · exact accessTrap_keepsThreads _ _ _ hs
  · split
    · exact watchTrap_keepsThreads _ _ _ _ _ hs
    · split
      · exact hs
      · next hf =>
        have h8 : th.loads.length < 8 := by
          by_contra h
          exact hf (.inl (by omega))
        refine (issueReq_touches ..).threads (by decide) (setThr_threads_of (hs.same rfl) ?_)
        exact advance_inOrder (sbSet_inOrder ((hs.order s.cur).addLoad _ h8))

theorem execLd32_keepsThreads (rd rs1 imm s) (hs : State.ThreadsOk s) : onNext State.ThreadsOk
    (execLd32 rd rs1 imm s) := by
  unfold execLd32
  exact issueLoad_keepsThreads (hs := hs) ..

theorem finish_keepsThreads (s rd v) (hs : State.ThreadsOk s) : State.ThreadsOk (finish s rd v) := by
  unfold finish
  refine modCur_keepsThreads hs fun th ht => ?_
  refine advance_inOrder ?_ ..
  refine writeReg_inOrder ?_ ..
  exact ht

theorem regOp_keepsThreads (f rd rs1 rs2 s) (hs : State.ThreadsOk s) : State.ThreadsOk (regOp f rd rs1 rs2 s) := by
  unfold regOp
  exact finish_keepsThreads (hs := hs) ..

theorem execMulhn_keepsThreads (rd rs1 rs2 s) (hs : State.ThreadsOk s) : onNext State.ThreadsOk
    (execMulhn rd rs1 rs2 s) := by
  unfold execMulhn
  exact regOp_keepsThreads (hs := hs) ..

theorem execDiv_keepsThreads (rd rs1 rs2 s) (hs : State.ThreadsOk s) : onNext State.ThreadsOk
    (execDiv rd rs1 rs2 s) := by
  unfold execDiv
  exact regOp_keepsThreads (hs := hs) ..

theorem runCmd_keepsThreads {s : State} {pkg fn : Nat} {mine : Cmd → Bool} {f : Cmd → Answered} (hs : State.ThreadsOk s)
    (hf : ∀ c, (f c).All State.ThreadsOk) : State.ThreadsOk (runCmd s pkg fn mine f) := by
  unfold runCmd
  split
  · exact hs
  · next c _ _ =>
      split
      · exact hs
      · split
        · exact (complete_touches ..).threads (by decide) hs
        · have hc := hf c
          split
          · next h => rw [h] at hc; exact hc
          · next h => rw [h] at hc; exact (complete_touches ..).threads (by decide) hc

theorem cmdFail_keepsThreads (s : State) (code : Nat) (hs : State.ThreadsOk s) :
    (cmdFail s code).All State.ThreadsOk := hs

theorem runDbg_keepsThreads {s : State} {pkg fn : Nat} {mine : Nat → Bool} {f : Cmd → Answered} (hs : State.ThreadsOk s)
    (hf : ∀ c, (f c).All State.ThreadsOk) : State.ThreadsOk (runDbg s pkg fn mine f) := by
  refine runCmd_keepsThreads hs fun c => ?_
  split
  · exact cmdFail_keepsThreads _ _ hs
  · exact hf c

theorem execShr_keepsThreads (rd rs1 rs2 s) (hs : State.ThreadsOk s) : onNext State.ThreadsOk
    (execShr rd rs1 rs2 s) := by
  unfold execShr
  exact regOp_keepsThreads (hs := hs) ..

theorem silent3_keepsThreads (s e r u) (hs : State.ThreadsOk s) : State.ThreadsOk (silent3 s e r u) := by
  unfold silent3
  split
  · exact hs
  · exact (silentData_touches ..).threads (by decide) (abortRun_keepsThreads (hs := ((modEng_touches ..).threads
      (by decide) hs)) ..)

theorem readCounts_keepsThreads (s t) (hs : State.ThreadsOk s) : State.ThreadsOk (readCounts s t) := hs.same rfl

theorem execVblockStep_keepsThreads (e s) (hs : State.ThreadsOk s) : onNext State.ThreadsOk (execVblockStep e s) := by
  unfold execVblockStep
  change State.ThreadsOk _
  split
  · exact hs
  · extract_lets +onlyGivenNames c v0
    split
    · exact hs
    · split
      · exact (modRun_touches ..).threads (by decide) hs
      · split
        · next x1 v h3 =>
            have k := Touches.carry h3 (boundGate_touches ..)
            exact Touches.threads k (by decide) hs
        · split
          · next x2 i s1 h4 =>
              extract_lets +onlyGivenNames p v
              split
              · exact hs
              · split
                · exact silent3_keepsThreads (hs := (readCounts_keepsThreads (hs := hs) ..)) ..
                · split
                  · exact (poisonConsumed_touches ..).threads (by decide) (abortRun_keepsThreads (hs :=
                      (readCounts_keepsThreads (hs := hs) ..)) ..)
                  · split
                    · refine (stopStep_touches ..).threads (by decide) ?_
                      refine (keepStep_touches ..).threads (by decide) ?_
                      unfold v
                      refine (Touches.foldl_vstep (fun _ _ => runWord_touches ..) _ _).threads (by decide) ?_
                      · dsimp -zeta only
                        exact (Touches.of_snd h4 (fresh_touches ..)).threads (by decide)
                          ((watchPassed_touches ..).threads (by decide) hs)
                    · refine (endStep_touches ..).threads (by decide) ?_
                      refine (keepStep_touches ..).threads (by decide) ?_
                      unfold v
                      refine (Touches.foldl_vstep (fun _ _ => runWord_touches ..) _ _).threads (by decide) ?_
                      · dsimp -zeta only
                        exact (Touches.of_snd h4 (fresh_touches ..)).threads (by decide)
                          ((watchPassed_touches ..).threads (by decide) hs)

theorem tryBarwait_keepsThreads (rd rs1 rs2 s) (hs : State.ThreadsOk s) : onSome State.ThreadsOk
    (tryBarwait rd rs1 rs2 s) := by
  unfold tryBarwait
  split
  · exact finish_keepsThreads (hs := hs) ..
  · extract_lets +onlyGivenNames b
    split
    · exact finish_keepsThreads (hs := hs) ..
    · split
      · exact finish_keepsThreads (hs := hs) ..
      · split
        · change State.ThreadsOk _
          refine finish_keepsThreads (hs := ?_) ..
          refine modCur_keepsThreads hs fun th ht => ?_
          refine clearAhead_inOrder ?_ ..
          exact ht
        · trivial

theorem fetchAhead_keepsThreads (s t va) (hs : State.ThreadsOk s) : State.ThreadsOk (fetchAhead s t va) := by
  unfold fetchAhead
  split
  · exact modThr_keepsThreads ((fetchRead_touches ..).threads (by decide) hs) fun th ht => ht
  · exact hs

theorem cacheError_keepsThreads (s t va) (hs : State.ThreadsOk s) : State.ThreadsOk (cacheError s t va) := by
  unfold cacheError
  exact modThr_keepsThreads hs fun th ht => ht

theorem rowError_keepsThreads (s e vrow) (hs : State.ThreadsOk s) : State.ThreadsOk (rowError s e vrow) := by
  unfold rowError
  split
  · exact hs
  · split
    · exact hs
    · split
      · exact hs
      · exact (opFault_touches ..).threads (by decide) (takeRow_keepsThreads (hs := hs) ..)

theorem codeError_keepsThreads (s a) (hs : State.ThreadsOk s) : State.ThreadsOk (codeError s a) := by
  unfold codeError
  split
  · split
    · exact (modEng_touches ..).threads (by decide) hs
    · exact hs
  · exact rowError_keepsThreads (hs := hs) ..
  · extract_lets +onlyGivenNames c
    split
    · split
      · exact (tableError_touches ..).threads (by decide) hs
      · exact hs
    · exact hs
  · extract_lets +onlyGivenNames t
    split
    · exact hs
    · exact (tableError_touches ..).threads (by decide) hs
  · extract_lets +onlyGivenNames c
    split
    · exact hs
    · exact (tableError_touches ..).threads (by decide) hs
  · split
    · exact (tableError_touches ..).threads (by decide) hs
    · exact hs
  · exact hs.same rfl

theorem worldTurn_keepsThreads (s a) (hs : State.ThreadsOk s) : State.ThreadsOk (worldTurn s a) := by
  unfold worldTurn
  split
  · exact fetchAhead_keepsThreads (hs := hs) ..
  · exact (bitError_touches ..).threads (by decide) hs
  · exact hs.same rfl
  · exact (modEng_touches ..).threads (by decide) hs
  · exact (modEng_touches ..).threads (by decide) hs
  · exact cacheError_keepsThreads (hs := hs) ..
  · exact (modPkg_touches ..).threads (by decide) hs
  · exact hs.same rfl
  · exact (ackPages_touches ..).threads (by decide) hs
  · exact codeError_keepsThreads (hs := hs) ..
  · exact (boardAsk_touches ..).threads (by decide) hs
  · exact hs
  · exact hs

theorem reduceMember_keepsThreads (cs s u) (hs : State.ThreadsOk s) : State.ThreadsOk (reduceMember cs s u) := by
  unfold reduceMember
  split
  · split
    · split
      · exact (opFault_touches ..).threads (by decide) (freeDests_keepsThreads (hs := ((dropXUnit_touches ..).threads
          (by decide) hs)) ..)
      · extract_lets +onlyGivenNames o s1
        have hs1 : s1.ThreadsOk := (beginImage_touches ..).threads (by decide) ((setFlags_touches ..).threads
          (by decide) hs)
        clear_value s1
        exact (modXUnit_touches ..).threads (by decide) hs1
    · exact (opFault_touches ..).threads (by decide) (freeDests_keepsThreads (hs := ((dropXUnit_touches ..).threads
        (by decide) hs)) ..)
  · exact hs

theorem sweepInst_keepsThreads (s pkg graph rec row) (hs : State.ThreadsOk s) : State.ThreadsOk
    (sweepInst s pkg graph rec row) := by
  unfold sweepInst
  exact sweep_keepsThreads (hs := hs) ..

theorem purgeCols_keepsThreads (s key g ks lid) (hs : State.ThreadsOk s) : State.ThreadsOk
    (purgeCols s key g ks lid).1 := by
  unfold purgeCols
  extract_lets +onlyGivenNames cols r s1
  have hs1 : s1.ThreadsOk := by
    unfold s1
    refine (dropInsts_touches ..).threads (by decide) ?_
    unfold r
    exact sweep_keepsThreads (hs := hs) ..
  clear_value s1
  extract_lets +onlyGivenNames s2
  have hs2 : s2.ThreadsOk := (dropEntries_touches ..).threads (by decide) hs1
  clear_value s2
  extract_lets +onlyGivenNames s3
  have hs3 : s3.ThreadsOk := by
    unfold s3
    exact hs2.same rfl
  clear_value s3
  extract_lets +onlyGivenNames holds
  dsimp -zeta only
  refine .foldl (fun u a hu => ?_) _ _ ?_
  · exact (dropLive_touches ..).threads (by decide) hu
  · refine .foldl (fun u a hu => ?_) _ _ ?_
    · exact (zeroCol_touches ..).threads (by decide) hu
    · exact hs3

theorem execContainmentHeld_keepsThreads (pkg graph rec row s) (hs : State.ThreadsOk s) : onNext State.ThreadsOk
    (execContainmentHeld pkg graph rec row s) := by
  unfold execContainmentHeld
  change State.ThreadsOk _
  split
  · exact hs
  · split
    · extract_lets +onlyGivenNames s1
      have hs1 : s1.ThreadsOk := by
        unfold s1
        split
        · exact sweepInst_keepsThreads (hs := hs) ..
        · exact hs
      extract_lets +onlyGivenNames g1 x3 k ks under s2
      have hs2 : s2.ThreadsOk := (modInst_touches ..).threads (by decide) (purgeCols_keepsThreads (hs := hs1) ..)
      clear_value s2
      split
      · exact hs1
      · split
        · exact hs1
        · exact (raise_touches ..).threads (by decide) hs2
    · exact hs

theorem execChunkWrite_keepsThreads (n s) (hs : State.ThreadsOk s) : onNext State.ThreadsOk (execChunkWrite n s) := by
  unfold execChunkWrite
  change State.ThreadsOk _
  split
  · split
    · refine .foldl (fun u a hu => ?_) _ _ ?_
      · exact (landChunk_touches ..).threads (by decide) hu
      · exact (dropInbox_touches ..).threads (by decide) hs
    · exact hs
  · exact hs

theorem execQmSample_keepsThreads (pkg lid second s) (hs : State.ThreadsOk s) : onNext State.ThreadsOk
    (execQmSample pkg lid second s) := by
  unfold execQmSample
  change State.ThreadsOk _
  split
  · exact hs
  · split
    · exact hs
    · extract_lets +onlyGivenNames z s1
      have hs1 : s1.ThreadsOk := by
        unfold s1
        split
        · exact (endEpisode_touches ..).threads (by decide) hs
        · exact hs
      clear_value s1
      extract_lets +onlyGivenNames quiet
      split
      · exact (modLaunch_touches ..).threads (by decide) hs1
      · exact (modLaunch_touches ..).threads (by decide) hs1

theorem execExitOp_keepsThreads (e n s) (hs : State.ThreadsOk s) : onNext State.ThreadsOk (execExitOp e n s) := by
  unfold execExitOp
  change State.ThreadsOk _
  split
  · exact hs
  · extract_lets +onlyGivenNames o t k c out
    split
    · exact (faultFire_touches ..).threads (by decide) hs
    · split
      · exact (faultFire_touches ..).threads (by decide) hs
      · split
        · exact hs
        · split
          · next x1 i s1 h4 =>
              exact (fire_touches ..).threads (by decide) ((closeColour_touches ..).threads (by decide)
                ((Touches.of_snd h4 (fresh_touches ..)).threads (by decide) hs))

theorem checked_keepsThreads {s : State} {e : Eng} {r : OpRef} {u : Run} {go : State → State} (hs : State.ThreadsOk s)
    (hg : (go s).ThreadsOk) : State.ThreadsOk (checked s e r u go) := by
  unfold checked
  split
  · split
    · exact hs
    · exact (silentData_touches ..).threads (by decide) (abortRun_keepsThreads (hs := hs) ..)
  · exact hg

theorem startRun_keepsThreads (s f fault run) (hs : State.ThreadsOk s) : State.ThreadsOk (startRun s f fault run) := by
  unfold startRun
  extract_lets +onlyGivenNames e bad s1
  have hs1 : s1.ThreadsOk := (takeStart_touches ..).threads (by decide) hs
  clear_value s1
  extract_lets +onlyGivenNames stop
  have hstop : ∀ u0, State.ThreadsOk u0 → State.ThreadsOk (stop u0) := by
    intro u0 hu
    unfold stop
    exact (releaseBank_touches ..).threads (by decide) (freeDests_keepsThreads (hs := hu) ..)
  extract_lets +onlyGivenNames s2
  have hs2 : s2.ThreadsOk := (countFiring_touches ..).threads (by decide) hs1
  clear_value s2
  extract_lets +onlyGivenNames u
  split
  · exact hs
  · split
    · exact (poisonConsumed_touches ..).threads (by decide) (hstop _ hs1)
    · split
      · exact (silentData_touches ..).threads (by decide) (hstop _ hs1)
      · exact (opFault_touches ..).threads (by decide) (hstop _ hs1)
      · exact (touch_touches ..).threads (by decide) ((modEng_touches ..).threads (by decide) hs2)

theorem course_keepsThreads {s : State} {e : Eng} {kind mode : Nat} {fault : State → Start → Option (Nat × Nat)}
    {work : State → OpRef → Run → State} (hs : State.ThreadsOk s) (hw : ∀ r u, (work s r u).ThreadsOk) :
    State.ThreadsOk (course s e kind mode fault work) := by
  unfold course
  split
  · split
    · exact (emitTile_touches ..).threads (by decide) hs
    · split
      · exact hs
      · exact checked_keepsThreads hs (hw _ _)
  · split
    · exact startRun_keepsThreads (hs := hs) ..
    · exact hs

theorem faultRun_keepsThreads (s e r u cause tval) (hs : State.ThreadsOk s) : State.ThreadsOk
    (faultRun s e r u cause tval) := by
  unfold faultRun
  split
  · exact hs
  · exact (opFault_touches ..).threads (by decide) (abortRun_keepsThreads (hs := hs) ..)

theorem writeOut_keepsThreads (s e r u id img scale flags extra) (hs : State.ThreadsOk s) : State.ThreadsOk
    (writeOut s e r u id img scale flags extra) := by
  unfold writeOut
  extract_lets +onlyGivenNames t s1
  have hs1 : s1.ThreadsOk := (beginImage_touches ..).threads (by decide) hs
  clear_value s1
  split
  · exact faultRun_keepsThreads (hs := hs) ..
  · exact (modRun_touches ..).threads (by decide) ((setFlags_touches ..).threads (by decide) hs1)

theorem execMmul_keepsThreads (e s) (hs : State.ThreadsOk s) : onNext State.ThreadsOk (execMmul e s) := by
  unfold execMmul
  change State.ThreadsOk _
  refine course_keepsThreads hs fun r u => ?_
  extract_lets +onlyGivenNames i w l ctl start a cls s1
  have hs1 : s1.ThreadsOk := (setIsland_touches ..).threads (by decide) ((modEng_touches ..).threads (by decide) hs)
  clear_value s1
  extract_lets +onlyGivenNames s2
  have hs2 : s2.ThreadsOk := (modRun_touches ..).threads (by decide) ((setFlags_touches ..).threads (by decide)
    ((releaseBank_touches ..).threads (by decide) hs1))
  clear_value s2
  extract_lets +onlyGivenNames u1 s3
  have hs3 : s3.ThreadsOk := by
    unfold s3
    split
    · exact (emitToks_touches ..).threads (by decide) hs2
    · exact hs2
  clear_value s3
  extract_lets +onlyGivenNames s4
  have hs4 : s4.ThreadsOk := (modIsland_touches ..).threads (by decide) hs3
  clear_value s4
  split
  · exact silent3_keepsThreads (hs := hs) ..
  · split
    · split
      · extract_lets +onlyGivenNames t d
        exact writeOut_keepsThreads (hs := hs4) ..
      · exact hs3
    · exact (endRun_touches ..).threads (by decide) hs3

theorem enterTwset_keepsThreads (s rd due d) (hs : State.ThreadsOk s) : State.ThreadsOk (enterTwset s rd due d) := by
  unfold enterTwset
  extract_lets +onlyGivenNames lv
  split
  · exact finish_keepsThreads (hs := hs) ..
  · split
    · exact finish_keepsThreads (hs := hs) ..
    · extract_lets +onlyGivenNames s1
      have hs1 : s1.ThreadsOk := (modWheel_touches ..).threads (by decide) hs
      clear_value s1
      split
      · refine finish_keepsThreads (hs := ?_) ..
        refine modCur_keepsThreads hs1 fun th ht => ?_
        refine holdEffect_inOrder ?_ ..
        exact ht
      · exact finish_keepsThreads (hs := ((addTimer_touches ..).threads (by decide) ((touchTwset_touches ..).threads
          (by decide) hs1))) ..

theorem execTwset_keepsThreads (rd rs1 rs2 s) (hs : State.ThreadsOk s) : onNext State.ThreadsOk
    (execTwset rd rs1 rs2 s) := by
  unfold execTwset
  change State.ThreadsOk _
  extract_lets +onlyGivenNames due va
  split
  · exact hs
  · split
    · exact enterTwset_keepsThreads (hs := hs) ..
    · split
      · exact opTrap_keepsThreads (hs := hs) ..
      · extract_lets +onlyGivenNames b
        split
        · refine finish_keepsThreads (hs := ?_) ..
          unfold b
          exact (readPieces_touches ..).threads (by decide) hs
        · refine enterTwset_keepsThreads (hs := ?_) ..
          unfold b
          exact (readPieces_touches ..).threads (by decide) hs

theorem execLoadDataError_keepsThreads (t s) (hs : State.ThreadsOk s) : onNext State.ThreadsOk
    (execLoadDataError t s) := by
  unfold execLoadDataError
  change State.ThreadsOk _
  extract_lets +onlyGivenNames th
  split
  · exact hs
  · split
    · exact hs
    · split
      · exact hs
      · split
        · refine loadErrorTrap_keepsThreads (hs := ?_) ..
          refine modThr_keepsThreads hs fun th1 ht => ?_
          refine errFirst_inOrder ?_ ..
          exact ht
        · exact hs

theorem issueStore_keepsThreads (src rs1 imm size s) (hs : State.ThreadsOk s) :
    State.ThreadsOk (issueStore src rs1 imm size s) := by
  unfold issueStore
  extract_lets th va
  split
  · exact accessTrap_keepsThreads _ _ _ hs
  · split
    · exact watchTrap_keepsThreads _ _ _ _ _ hs
    · split
      · exact hs
      · next hf =>
        have h16 : (th.stores.filter (!·.atomic)).length < 16 := by
          by_contra h
          exact hf (.inl (by omega))
        refine (issueReq_touches ..).threads (by decide) (setThr_threads_of (hs.same rfl) ?_)
        exact advance_inOrder ((hs.order s.cur).addStore _ h16)

theorem execSt8_keepsThreads (src rs1 imm s) (hs : State.ThreadsOk s) : onNext State.ThreadsOk
    (execSt8 src rs1 imm s) := by
  unfold execSt8
  exact issueStore_keepsThreads (hs := hs) ..

theorem setEvent_keepsThreads (s t) (hs : State.ThreadsOk s) : State.ThreadsOk (setEvent s t) := by
  unfold setEvent
  exact modThr_keepsThreads hs fun th ht => ht

theorem execSev_keepsThreads (rs1 s) (hs : State.ThreadsOk s) : onNext State.ThreadsOk (execSev rs1 s) := by
  unfold execSev
  extract_lets +onlyGivenNames v hit
  have hhit : ∀ u0 a1, State.ThreadsOk u0 → State.ThreadsOk (hit u0 a1) := by
    intro u0 a1 hu
    unfold hit
    split
    · exact setEvent_keepsThreads (hs := hu) ..
    · exact hu
  change State.ThreadsOk _
  refine .foldl (fun u a hu => ?_) _ _ ?_
  · exact hhit _ _ hu
  · refine modCur_keepsThreads hs fun th ht => ?_
    refine advance_inOrder ?_ ..
    exact ht

theorem issueAmo_keepsThreads (op rd rs1 rs2 ord s) (hs : State.ThreadsOk s) :
    State.ThreadsOk (issueAmo op rd rs1 rs2 ord s) := by
  unfold issueAmo
  extract_lets th va
  split
  · exact accessTrap_keepsThreads _ _ _ hs
  · split
    · exact watchTrap_keepsThreads _ _ _ _ _ hs
    · split
      · exact hs
      · next hf =>
        have h8 : th.loads.length < 8 := by
          by_contra h
          exact hf (.inl (by omega))
        refine (issueReq_touches ..).threads (by decide) (setThr_threads_of (hs.same rfl) ?_)
        exact advance_inOrder (sbSet_inOrder (((hs.order s.cur).addLoad _ h8).addAtomic _ rfl))

theorem execAmoand_keepsThreads (rd rs1 rs2 ord s) (hs : State.ThreadsOk s) : onNext State.ThreadsOk
    (execAmoand rd rs1 rs2 ord s) := by
  unfold execAmoand
  exact issueAmo_keepsThreads (hs := hs) ..

theorem blockOn_keepsThreads {s : State} {i : Instr} {r : Option State} (hs : State.ThreadsOk s)
    (hr : onSome State.ThreadsOk r) :
    State.ThreadsOk (blockOn s i r) := by
  cases r with
  | some t => exact hr
  | none => exact modCur_keepsThreads hs fun th ht => ht

theorem quotaTrap_keepsThreads (s k agid n) (hs : State.ThreadsOk s) : State.ThreadsOk (quotaTrap s k agid n) := by
  unfold quotaTrap
  exact trapCur_keepsThreads (hs := ((breach_touches ..).threads (by decide) hs)) ..

theorem tryChwr_keepsThreads (rd rs1 rs2 s) (hs : State.ThreadsOk s) : onSome State.ThreadsOk
    (tryChwr rd rs1 rs2 s) := by
  unfold tryChwr
  split
  · exact finish_keepsThreads (hs := hs) ..
  · split
    · exact opTrap_keepsThreads (hs := hs) ..
    · extract_lets +onlyGivenNames b
      split
      · trivial
      · split
        · change State.ThreadsOk _
          refine finish_keepsThreads (hs := ?_) ..
          unfold b
          exact (readPieces_touches ..).threads (by decide) hs
        · split
          · split
            · change State.ThreadsOk _
              refine finish_keepsThreads (hs := ?_) ..
              unfold b
              exact (readPieces_touches ..).threads (by decide) hs
            · change State.ThreadsOk _
              refine finish_keepsThreads (hs := ?_) ..
              refine modCur_keepsThreads ?_ fun th ht => ?_
              · unfold b
                exact (readPieces_touches ..).threads (by decide) hs
              · refine holdEffect_inOrder ?_ ..
                exact ht
          · split
            · trivial
            · exact quotaTrap_keepsThreads (hs := hs) ..
            · next x2 s1 h5 =>
                change State.ThreadsOk _
                refine finish_keepsThreads (hs := ?_) ..
                have k1 := Touches.carry h5 (putRec_touches ..)
                refine Touches.threads k1 (by decide) ?_
                unfold b
                exact (readPieces_touches ..).threads (by decide) hs

theorem execChwr_keepsThreads (rd rs1 rs2 s) (hs : State.ThreadsOk s) : onNext State.ThreadsOk
    (execChwr rd rs1 rs2 s) := by
  unfold execChwr
  exact blockOn_keepsThreads hs (tryChwr_keepsThreads (hs := hs) ..)

theorem flrKill_keepsThreads (s pkg p) (hs : State.ThreadsOk s) : State.ThreadsOk (flrKill s pkg p) := by
  unfold flrKill
  extract_lets +onlyGivenNames ls s1
  have hs1 : s1.ThreadsOk := by
    unfold s1
    refine .foldl (fun u a hu => ?_) _ _ ?_
    · split
      · exact hu
      · exact beginKill_keepsThreads (hs := hu) ..
    · exact hs
  clear_value s1
  extract_lets +onlyGivenNames held s2
  have hs2 : s2.ThreadsOk := by
    unfold s2
    refine .foldl (fun u a hu => ?_) _ _ ?_
    · exact (dropCopy_touches ..).threads (by decide) hu
    · exact hs1
  clear_value s2
  extract_lets +onlyGivenNames gone ids
  exact hs2.same rfl

theorem reduceAt_keepsThreads (g tag s pkg) (hs : State.ThreadsOk s) : State.ThreadsOk (reduceAt g tag s pkg) := by
  unfold reduceAt
  split
  · exact hs
  · extract_lets +onlyGivenNames us
    split
    · exact hs
    · refine .foldl (fun u a hu => ?_) _ _ ?_
      · exact reduceMember_keepsThreads (hs := hu) ..
      · exact (modGroup_touches ..).threads (by decide) hs

theorem execReduceComplete_keepsThreads (group tag s) (hs : State.ThreadsOk s) : onNext State.ThreadsOk
    (execReduceComplete group tag s) := by
  unfold execReduceComplete
  change State.ThreadsOk _
  refine .foldl (fun u a hu => ?_) _ _ ?_
  · exact reduceAt_keepsThreads (hs := hu) ..
  · exact hs

theorem tryCpywait_keepsThreads (rd rs1 rs2 s) (hs : State.ThreadsOk s) : onSome State.ThreadsOk
    (tryCpywait rd rs1 rs2 s) := by
  unfold tryCpywait
  extract_lets +onlyGivenNames v m t
  split
  · exact finish_keepsThreads (hs := hs) ..
  · split
    · exact finish_keepsThreads (hs := hs) ..
    · split
      · exact finish_keepsThreads (hs := hs) ..
      · split
        · exact finish_keepsThreads (hs := hs) ..
        · split
          · change State.ThreadsOk _
            refine finish_keepsThreads (hs := ?_) ..
            refine modCur_keepsThreads hs fun th ht => ?_
            refine clearAhead_inOrder ?_ ..
            exact ht
          · trivial

theorem execCpywait_keepsThreads (rd rs1 rs2 s) (hs : State.ThreadsOk s) : onNext State.ThreadsOk
    (execCpywait rd rs1 rs2 s) := by
  unfold execCpywait
  extract_lets +onlyGivenNames t
  have ht : t.ThreadsOk := modCur_keepsThreads hs fun th ht => ht
  clear_value t
  change State.ThreadsOk _
  split
  · exact hs
  · exact blockOn_keepsThreads ht (tryCpywait_keepsThreads (hs := ht) ..)

theorem execChclose_keepsThreads (rd rs1 s) (hs : State.ThreadsOk s) : onNext State.ThreadsOk
    (execChclose rd rs1 s) := by
  unfold execChclose
  change State.ThreadsOk _
  split
  · exact hs
  · split
    · exact asyncDone_keepsThreads (hs := hs) ..
    · extract_lets +onlyGivenNames c
      split
      · exact asyncDone_keepsThreads (hs := ((setChan_touches ..).threads (by decide) hs)) ..
      · split
        · exact asyncDone_keepsThreads (hs := ((reevalAll_touches ..).threads (by decide)
            ((freeChan_touches ..).threads (by decide) hs))) ..
        · exact asyncDone_keepsThreads (hs := hs) ..

theorem execSar_keepsThreads (rd rs1 rs2 s) (hs : State.ThreadsOk s) : onNext State.ThreadsOk
    (execSar rd rs1 rs2 s) := by
  unfold execSar
  exact regOp_keepsThreads (hs := hs) ..

theorem branch_keepsThreads (test imm s) (hs : State.ThreadsOk s) : State.ThreadsOk (branch test imm s) := by
  unfold branch
  refine modCur_keepsThreads hs fun th ht => ?_
  split
  · refine goTo_inOrder ?_ ..
    exact ht
  · refine advance_inOrder ?_ ..
    exact ht

theorem execBgen_keepsThreads (rs1 rs2 imm s) (hs : State.ThreadsOk s) : onNext State.ThreadsOk
    (execBgen rs1 rs2 imm s) := by
  unfold execBgen
  exact branch_keepsThreads (hs := hs) ..

theorem runThr_keepsThreads {s : State} {pkg fn : Nat} {mine : Nat → Bool} {f : Cmd → Tid → Answered}
    (hs : State.ThreadsOk s)
    (hf : ∀ c t, (f c t).All State.ThreadsOk) : State.ThreadsOk (runThr s pkg fn mine f) := by
  refine runCmd_keepsThreads hs fun c => ?_
  extract_lets t
  split
  · exact cmdFail_keepsThreads _ _ hs
  · split
    · exact cmdFail_keepsThreads _ _ hs
    · exact hf c t

theorem cmdDone_keepsThreads (s : State) (data : List Byte) (hs : State.ThreadsOk s) :
    (cmdDone s data).All State.ThreadsOk := hs

theorem execThreadHardStop_keepsThreads (pkg fn s) (hs : State.ThreadsOk s) : onNext State.ThreadsOk
    (execThreadHardStop pkg fn s) := by
  unfold execThreadHardStop
  exact runThr_keepsThreads hs fun c t => (cmdDone_keepsThreads (hs := (modThr_keepsThreads hs fun th ht => ht)) ..)

theorem execFreeze_keepsThreads (rd rs1 s) (hs : State.ThreadsOk s) : onNext State.ThreadsOk (execFreeze rd rs1 s) := by
  unfold execFreeze
  change State.ThreadsOk _
  extract_lets +onlyGivenNames h
  split
  · exact hs
  · split
    · exact asyncDone_keepsThreads (hs := hs) ..
    · split
      · exact asyncDone_keepsThreads (hs := hs) ..
      · exact asyncIssue_keepsThreads (hs := ((setGraph_touches ..).threads (by decide) hs)) ..

theorem execHbmWrite_keepsThreads (n s) (hs : State.ThreadsOk s) : onNext State.ThreadsOk (execHbmWrite n s) := by
  unfold execHbmWrite
  change State.ThreadsOk _
  split
  · split
    · exact (performRemote_touches ..).threads (by decide) hs
    · exact hs
  · exact hs

theorem bindCmd_keepsThreads (s rd k c) (hs : State.ThreadsOk s) : onSome State.ThreadsOk (bindCmd s rd k c) := by
  unfold bindCmd
  split
  · trivial
  · split
    · next x1 i s1 h1 =>
        extract_lets +onlyGivenNames c1
        exact finish_keepsThreads (hs := ((modPort_touches ..).threads (by decide) ((Touches.of_snd h1
          (fresh_touches ..)).threads (by decide) hs))) ..

theorem trySbind_keepsThreads (rd rs1 rs2 s) (hs : State.ThreadsOk s) : onSome State.ThreadsOk
    (trySbind rd rs1 rs2 s) := by
  unfold trySbind
  split
  · exact finish_keepsThreads (hs := hs) ..
  · exact opTrap_keepsThreads (hs := hs) ..
  · extract_lets +onlyGivenNames b
    split
    · change State.ThreadsOk _
      refine finish_keepsThreads (hs := ?_) ..
      unfold b
      exact (readPieces_touches ..).threads (by decide) hs
    · split
      · split
        · change State.ThreadsOk _
          refine finish_keepsThreads (hs := ?_) ..
          unfold b
          exact (readPieces_touches ..).threads (by decide) hs
        · refine bindCmd_keepsThreads (hs := ?_) ..
          unfold b
          exact (readPieces_touches ..).threads (by decide) hs
      · change State.ThreadsOk _
        refine finish_keepsThreads (hs := ?_) ..
        unfold b
        exact (readPieces_touches ..).threads (by decide) hs

theorem clearPkg_keepsThreads (s pkg) (hs : State.ThreadsOk s) : State.ThreadsOk (clearPkg s pkg) :=
  threads_filter (fun k => decide (k.pkg ≠ pkg)) rfl hs

theorem unloadGraph_keepsThreads (s pkg h g) (hs : State.ThreadsOk s) : State.ThreadsOk (unloadGraph s pkg h g) := by
  unfold unloadGraph
  extract_lets +onlyGivenNames s1
  have hs1 : s1.ThreadsOk := by
    unfold s1
    refine .foldl (fun u a hu => ?_) _ _ ?_
    · exact (clearSlot_touches ..).threads (by decide) hu
    · exact (parkEnds_touches ..).threads (by decide) hs
  clear_value s1
  extract_lets +onlyGivenNames s2
  have hs2 : s2.ThreadsOk := by
    unfold s2
    refine .foldl (fun u a hu => ?_) _ _ ?_
    · exact freeTile_keepsThreads (hs := hu) ..
    · exact hs1
  clear_value s2
  extract_lets +onlyGivenNames s3
  have hs3 : s3.ThreadsOk := by
    unfold s3
    refine .foldl (fun u a hu => ?_) _ _ ?_
    · exact (unshare_touches ..).threads (by decide) hu
    · exact hs2
  clear_value s3
  extract_lets +onlyGivenNames s4
  have hs4 : s4.ThreadsOk := by
    unfold s4
    split
    · exact hs3
    · refine .foldl (fun u a hu => ?_) _ _ ?_
      · exact (modPart_touches ..).threads (by decide) hu
      · exact hs3
  clear_value s4
  extract_lets +onlyGivenNames vs s5
  have hs5 : s5.ThreadsOk := by
    unfold s5
    refine .foldl (fun u a hu => ?_) _ _ ?_
    · exact hu.same rfl
    · exact hs4
  clear_value s5
  extract_lets +onlyGivenNames s6
  have hs6 : s6.ThreadsOk := (unloadGraph.modWheels_touches ..).threads (by decide) hs5
  clear_value s6
  extract_lets +onlyGivenNames s7
  have hs7 : s7.ThreadsOk := by
    unfold s7
    exact hs6.same rfl
  clear_value s7
  exact (powerPages_touches ..).threads (by decide) (hs7.same rfl)

theorem execGfree_keepsThreads (rd rs1 s) (hs : State.ThreadsOk s) : onNext State.ThreadsOk (execGfree rd rs1 s) := by
  unfold execGfree
  change State.ThreadsOk _
  split
  · exact hs
  · extract_lets +onlyGivenNames h1
    split
    · exact asyncDone_keepsThreads (hs := hs) ..
    · split
      · exact hs
      · split
        · exact asyncDone_keepsThreads (hs := hs) ..
        · split
          · exact hs
          · exact asyncDone_keepsThreads (hs := ((reevalAll_touches ..).threads (by decide) (unloadGraph_keepsThreads
              (hs := hs) ..))) ..

theorem returnLaunch_keepsThreads (s pkg lid) (hs : State.ThreadsOk s) : State.ThreadsOk (returnLaunch s pkg lid) := by
  unfold returnLaunch
  extract_lets +onlyGivenNames ts s1
  have hs1 : s1.ThreadsOk := by
    unfold s1
    refine .foldl (fun u a hu => ?_) _ _ ?_
    · exact freeTile_keepsThreads (hs := hu) ..
    · exact hs
  clear_value s1
  extract_lets +onlyGivenNames cols ks s2
  have hs2 : s2.ThreadsOk := by
    unfold s2
    split
    · exact (dropEntries_touches ..).threads (by decide) hs1
    · exact hs1
  clear_value s2
  extract_lets +onlyGivenNames holds s3
  have hs3 : s3.ThreadsOk := by
    unfold s3
    refine .foldl (fun u a hu => ?_) _ _ ?_
    · exact (dropLive_touches ..).threads (by decide) hu
    · refine .foldl (fun u a hu => ?_) _ _ ?_
      · exact (zeroCol_touches ..).threads (by decide) hu
      · exact hs2
  clear_value s3
  exact hs3.same rfl

theorem freeCopyTile_keepsThreads (s j) (hs : State.ThreadsOk s) : State.ThreadsOk (freeCopyTile s j) := by
  unfold freeCopyTile
  split
  · split
    · exact (reevalAll_touches ..).threads (by decide) (freeTile_keepsThreads (hs := hs) ..)
    · exact hs
  · exact hs

theorem stopCopy_keepsThreads (s j cause tval) (hs : State.ThreadsOk s) : State.ThreadsOk
    (stopCopy s j cause tval) := by
  unfold stopCopy
  split
  · split
    · exact (raisePacket_touches ..).threads (by decide) ((endCopy_touches ..).threads (by decide) hs)
    · exact (packetFault_touches ..).threads (by decide) ((endCopy_touches ..).threads (by decide) hs)
  · split
    · exact (endCopy_touches ..).threads (by decide) hs
    · exact (opFault_touches ..).threads (by decide) ((endCopy_touches ..).threads (by decide)
        (freeCopyTile_keepsThreads (hs := hs) ..))

theorem poisonCopy_keepsThreads (s j) (hs : State.ThreadsOk s) : State.ThreadsOk (poisonCopy s j) := by
  unfold poisonCopy
  split
  · exact (poisonConsumed_touches ..).threads (by decide) ((endCopy_touches ..).threads (by decide)
      (freeCopyTile_keepsThreads (hs := hs) ..))
  · exact stopCopy_keepsThreads (hs := hs) ..

theorem mismatchCopy_keepsThreads (s j x) (hs : State.ThreadsOk s) : State.ThreadsOk (mismatchCopy s j x) := by
  unfold mismatchCopy
  split
  · exact (silentData_touches ..).threads (by decide) ((endCopy_touches ..).threads (by decide)
      (freeCopyTile_keepsThreads (hs := hs) ..))
  · exact (endCopy_touches ..).threads (by decide) hs

theorem moveChunk_keepsThreads (s j c m) (hs : State.ThreadsOk s) : State.ThreadsOk (moveChunk s j c m) := by
  unfold moveChunk
  split
  · split
    · exact hs
    · extract_lets +onlyGivenNames s1
      have hs1 : s1.ThreadsOk := (modCopy_touches ..).threads (by decide) (hs.same rfl)
      clear_value s1
      split
      · exact stopCopy_keepsThreads (hs := hs1) ..
      · exact poisonCopy_keepsThreads (hs := hs1) ..
      · exact mismatchCopy_keepsThreads (hs := hs1) ..
  · extract_lets +onlyGivenNames s1
    have hs1 : s1.ThreadsOk := (logChunk_touches ..).threads (by decide) (hs.same rfl)
    clear_value s1
    extract_lets +onlyGivenNames j1 j2
    split
    · exact (ackChunk_touches ..).threads (by decide) ((writeTileChunk_touches ..).threads (by decide) hs1)
    · exact (issueAll_touches ..).threads (by decide) ((modCopy_touches ..).threads (by decide) hs1)

theorem execPendingReportArrival_keepsThreads (n s) (hs : State.ThreadsOk s) : onNext State.ThreadsOk
    (execPendingReportArrival n s) := by
  unfold execPendingReportArrival
  change State.ThreadsOk _
  split
  · exact hs
  · split
    · exact hs
    · extract_lets +onlyGivenNames s1
      have hs1 : s1.ThreadsOk := modThr_keepsThreads hs fun th ht => ht
      clear_value s1
      exact hs1.same rfl

theorem execChopen_keepsThreads (rd rs1 rs2 s) (hs : State.ThreadsOk s) : onNext State.ThreadsOk
    (execChopen rd rs1 rs2 s) := by
  unfold execChopen
  change State.ThreadsOk _
  extract_lets +onlyGivenNames role
  split
  · exact hs
  · split
    · exact asyncDone_keepsThreads (hs := hs) ..
    · split
      · exact opTrap_keepsThreads (hs := hs) ..
      · extract_lets +onlyGivenNames b c
        split
        · refine asyncDone_keepsThreads (hs := ?_) ..
          unfold b
          exact (readPieces_touches ..).threads (by decide) hs
        · split
          · refine asyncDone_keepsThreads (hs := ?_) ..
            unfold b
            exact (readPieces_touches ..).threads (by decide) hs
          · split
            · refine asyncDone_keepsThreads (hs := ?_) ..
              unfold b
              exact (readPieces_touches ..).threads (by decide) hs
            · next x1 i s1 h5 =>
                refine asyncDone_keepsThreads (hs := ?_) ..
                have k := Touches.carry h5 (openChan_touches ..)
                refine Touches.threads k (by decide) ?_
                unfold b
                exact (readPieces_touches ..).threads (by decide) hs

theorem execCopen_keepsThreads (e n s) (hs : State.ThreadsOk s) : onNext State.ThreadsOk (execCopen e n s) := by
  unfold execCopen
  change State.ThreadsOk _
  split
  · exact hs
  · extract_lets +onlyGivenNames t k out s1
    have hs1 : s1.ThreadsOk := (modInst_touches ..).threads (by decide) hs
    clear_value s1
    extract_lets +onlyGivenNames s2
    have hs2 : s2.ThreadsOk := (holdLive_touches ..).threads (by decide) hs1
    clear_value s2
    split
    · exact (faultFire_touches ..).threads (by decide) hs
    · split
      · exact hs
      · split
        · next x1 i s3 h3 =>
            exact (fire_touches ..).threads (by decide) ((Touches.of_snd h3 (fresh_touches ..)).threads (by decide) hs2)

theorem trapReturn_keepsThreads (s t) (hs : State.ThreadsOk s) : State.ThreadsOk (trapReturn s t) := by
  unfold trapReturn
  extract_lets +onlyGivenNames th s1
  have hs1 : s1.ThreadsOk := modThr_keepsThreads hs fun th1 ht => ht
  clear_value s1
  refine (releaseHeld_touches ..).threads (by decide) ?_
  refine (forgetFaults_touches ..).threads (by decide) ?_
  split
  · exact (touch_touches ..).threads (by decide) hs1
  · exact hs1

theorem execSbind_keepsThreads (rd rs1 rs2 s) (hs : State.ThreadsOk s) : onNext State.ThreadsOk
    (execSbind rd rs1 rs2 s) := by
  unfold execSbind
  change State.ThreadsOk _
  split
  · exact hs
  · exact blockOn_keepsThreads hs (trySbind_keepsThreads (hs := hs) ..)

theorem execAuip_keepsThreads (rd imm s) (hs : State.ThreadsOk s) : onNext State.ThreadsOk (execAuip rd imm s) := by
  unfold execAuip
  exact finish_keepsThreads (hs := hs) ..

theorem dropAhead_keepsThreads (s pkg die) (hs : State.ThreadsOk s) : State.ThreadsOk (dropAhead s pkg die) := by
  refine threads_tmap (f := fun k th => if k.pkg = pkg ∧ k.die = die then clearAhead th else th) ?_ hs fun k th ht => ?_
  · refine List.map_congr_left fun e _ => ?_
    by_cases h : e.1.pkg = pkg ∧ e.1.die = die
    · exact (if_pos h).trans (congrArg (Prod.mk e.1) (if_pos h).symm)
    · exact (if_neg h).trans (congrArg (Prod.mk e.1) (if_neg h).symm)
  · split
    · exact clearAhead_inOrder ht
    · exact ht

theorem execFence_keepsThreads (sc s) (hs : State.ThreadsOk s) : onNext State.ThreadsOk (execFence sc s) := by
  unfold execFence
  change State.ThreadsOk _
  split
  · exact hs
  · extract_lets +onlyGivenNames s1
    have hs1 : s1.ThreadsOk := by
      unfold s1
      refine modCur_keepsThreads hs fun th ht => ?_
      refine clearAhead_inOrder ?_ ..
      refine advance_inOrder ?_ ..
      exact ht
    clear_value s1
    extract_lets +onlyGivenNames s2
    have hs2 : s2.ThreadsOk := by
      unfold s2
      split
      · exact hs1
      · exact dropAhead_keepsThreads (hs := hs1) ..
    clear_value s2
    split
    · exact (forgetFaults_touches ..).threads (by decide) hs2
    · exact hs2

theorem execAnd_keepsThreads (rd rs1 rs2 s) (hs : State.ThreadsOk s) : onNext State.ThreadsOk
    (execAnd rd rs1 rs2 s) := by
  unfold execAnd
  exact regOp_keepsThreads (hs := hs) ..

theorem execBridge_keepsThreads (e n s) (hs : State.ThreadsOk s) : onNext State.ThreadsOk (execBridge e n s) := by
  unfold execBridge
  change State.ThreadsOk _
  split
  · split
    · exact hs
    · exact (fireOut_touches ..).threads (by decide) hs
  · exact hs

theorem execMilestoneChange_keepsThreads (pkg s) (hs : State.ThreadsOk s) : onNext State.ThreadsOk
    (execMilestoneChange pkg s) := by
  unfold execMilestoneChange
  change State.ThreadsOk _
  split
  · exact hs
  · extract_lets +onlyGivenNames ps m told seen
    have hseen : seen.ThreadsOk := by
      unfold seen
      exact hs.same rfl
    clear_value seen
    split
    · exact hs
    · split
      · exact (modPkg_touches ..).threads (by decide) hseen
      · extract_lets +onlyGivenNames move
        exact hseen.same rfl

theorem takeFor_keepsThreads (s k ps) (hs : State.ThreadsOk s) : TakeRec.All State.ThreadsOk (takeFor s k ps) := by
  unfold takeFor
  split
  · split
    · exact hs
    · trivial
  · split
    · trivial
    · extract_lets +onlyGivenNames d s0
      have hs0 : s0.ThreadsOk := (countRec_touches ..).threads (by decide) hs
      clear_value s0
      extract_lets +onlyGivenNames s1
      have hs1 : s1.ThreadsOk := (takeRec_touches ..).threads (by decide) hs0
      clear_value s1
      split
      · split
        · exact hs1
        · split
          · exact loadErrorTrap_keepsThreads (hs := hs0) ..
          · exact unwindLevel_keepsThreads (hs := hs1) ..
      · change State.ThreadsOk _
        refine modCur_keepsThreads ((writePieces_touches ..).threads (by decide) hs1) fun th ht => ?_
        refine clearAhead_inOrder ?_ ..
        exact ht

theorem liftSet_keepsThreads (s key g) (hs : State.ThreadsOk s) : State.ThreadsOk (liftSet s key g) := by
  unfold liftSet
  extract_lets +onlyGivenNames s1
  have hs1 : s1.ThreadsOk := by
    unfold s1
    refine .foldl (fun u a hu => ?_) _ _ ?_
    · exact (clearSlot_touches ..).threads (by decide) hu
    · exact hs
  clear_value s1
  extract_lets +onlyGivenNames s2
  have hs2 : s2.ThreadsOk := by
    unfold s2
    refine .foldl (fun u a hu => ?_) _ _ ?_
    · exact freeTile_keepsThreads (hs := hu) ..
    · exact hs1
  clear_value s2
  extract_lets +onlyGivenNames s3
  have hs3 : s3.ThreadsOk := by
    unfold s3
    exact hs2.same rfl
  clear_value s3
  exact (powerPages_touches ..).threads (by decide) ((unloadGraph.modWheels_touches ..).threads (by decide) hs3)

theorem execBlt_keepsThreads (rs1 rs2 imm s) (hs : State.ThreadsOk s) : onNext State.ThreadsOk
    (execBlt rs1 rs2 imm s) := by
  unfold execBlt
  exact branch_keepsThreads (hs := hs) ..

theorem execBge_keepsThreads (rs1 rs2 imm s) (hs : State.ThreadsOk s) : onNext State.ThreadsOk
    (execBge rs1 rs2 imm s) := by
  unfold execBge
  exact branch_keepsThreads (hs := hs) ..

theorem execDivn_keepsThreads (rd rs1 rs2 s) (hs : State.ThreadsOk s) : onNext State.ThreadsOk
    (execDivn rd rs1 rs2 s) := by
  unfold execDivn
  exact regOp_keepsThreads (hs := hs) ..

theorem execRetOp_keepsThreads (e n s) (hs : State.ThreadsOk s) : onNext State.ThreadsOk (execRetOp e n s) := by
  unfold execRetOp
  change State.ThreadsOk _
  split
  · exact hs
  · extract_lets +onlyGivenNames o t k
    split
    · exact (faultFire_touches ..).threads (by decide) hs
    · split
      · exact hs
      · extract_lets +onlyGivenNames out
        split
        · exact hs
        · split
          · next x2 i s1 h4 =>
              exact (fire_touches ..).threads (by decide) ((closeColour_touches ..).threads (by decide)
                ((Touches.of_snd h4 (fresh_touches ..)).threads (by decide) hs))

theorem execLd32n_keepsThreads (rd rs1 imm s) (hs : State.ThreadsOk s) : onNext State.ThreadsOk
    (execLd32n rd rs1 imm s) := by
  unfold execLd32n
  exact issueLoad_keepsThreads (hs := hs) ..

theorem endCmd_keepsThreads (s k n c) (hs : State.ThreadsOk s) : State.ThreadsOk (endCmd s k n c) := by
  unfold endCmd
  exact setEvent_keepsThreads (hs := ((dropCmd_touches ..).threads (by decide) hs)) ..

theorem execNackReceive_keepsThreads (n s) (hs : State.ThreadsOk s) : onNext State.ThreadsOk (execNackReceive n s) := by
  unfold execNackReceive
  change State.ThreadsOk _
  split
  · exact hs
  · extract_lets +onlyGivenNames s1
    have hs1 : s1.ThreadsOk := by
      unfold s1
      exact hs.same rfl
    clear_value s1
    split
    · exact hs1
    · exact (resend_touches ..).threads (by decide) hs1

theorem instanceAct_keepsThreads (s rd b action) (hs : State.ThreadsOk s) : State.ThreadsOk
    (instanceAct s rd b action) := by
  unfold instanceAct
  extract_lets +onlyGivenNames key h rec0
  split
  · exact asyncDone_keepsThreads (hs := hs) ..
  · split
    · exact asyncDone_keepsThreads (hs := hs) ..
    · split
      · exact asyncDone_keepsThreads (hs := hs) ..
      · extract_lets +onlyGivenNames k x1
        split
        · exact asyncDone_keepsThreads (hs := hs) ..
        · split
          · exact hs
          · exact asyncDone_keepsThreads (hs := ((resolveInst_touches ..).threads (by decide) hs)) ..

theorem execCsrrd_keepsThreads (rd csr s) (hs : State.ThreadsOk s) : onNext State.ThreadsOk (execCsrrd rd csr s) := by
  unfold execCsrrd
  exact finish_keepsThreads (hs := hs) ..

theorem badStart_keepsThreads (s f x) (hs : State.ThreadsOk s) : State.ThreadsOk (badStart s f x) := by
  unfold badStart
  split
  · exact hs
  · exact (silentData_touches ..).threads (by decide) (freeDests_keepsThreads (hs := ((takeStart_touches ..).threads
      (by decide) hs)) ..)

theorem execDup_keepsThreads (e n s) (hs : State.ThreadsOk s) : onNext State.ThreadsOk (execDup e n s) := by
  unfold execDup
  change State.ThreadsOk _
  split
  · exact (fireOut_touches ..).threads (by decide) hs
  · exact hs

theorem execBar2Access_keepsThreads (pkg fn off acc s) (hs : State.ThreadsOk s) : onNext State.ThreadsOk
    (execBar2Access pkg fn off acc s) := by
  unfold execBar2Access
  change State.ThreadsOk _
  extract_lets +onlyGivenNames reply
  have hreply : ∀ u0 a1, State.ThreadsOk u0 → State.ThreadsOk (reply u0 a1) := by
    intro u0 a1 hu
    unfold reply
    exact (modFn_touches ..).threads (by decide) hu
  split
  · exact hs
  · split
    · extract_lets +onlyGivenNames s1
      have hs1 : s1.ThreadsOk := (coreWalks_touches ..).threads (by decide) hs
      clear_value s1
      split
      · exact hreply _ _ hs1
      · extract_lets +onlyGivenNames r f
        split
        · refine hreply _ _ ?_
          unfold f
          refine (freeBytes_touches ..).threads (by decide) ?_
          unfold r
          exact (readPieces_touches ..).threads (by decide) hs1
        · refine hreply _ _ ?_
          unfold r
          exact (readPieces_touches ..).threads (by decide) hs1
    · extract_lets +onlyGivenNames s1
      have hs1 : s1.ThreadsOk := (coreWalks_touches ..).threads (by decide) hs
      clear_value s1
      split
      · exact hreply _ _ hs1
      · exact hreply _ _ ((writePieces_touches ..).threads (by decide) hs1)

theorem execSource_keepsThreads (e n s) (hs : State.ThreadsOk s) : onNext State.ThreadsOk (execSource e n s) := by
  unfold execSource
  change State.ThreadsOk _
  split
  · exact hs
  · split
    · exact hs
    · split
      · exact hs
      · extract_lets +onlyGivenNames t gone
        have hgone : gone.ThreadsOk := by
          unfold gone
          exact hs.same rfl
        clear_value gone
        extract_lets +onlyGivenNames out s1
        have hs1 : s1.ThreadsOk := (countFiring_touches ..).threads (by decide) hgone
        clear_value s1
        split
        · exact (raiseAt_touches ..).threads (by decide) ((noteFault_touches ..).threads (by decide) hgone)
        · split
          · exact hs
          · exact (touch_touches ..).threads (by decide) ((sourceDone_touches ..).threads (by decide)
              ((emitToks_touches ..).threads (by decide) hs1))

theorem execRetryTimeout_keepsThreads (e n s) (hs : State.ThreadsOk s) : onNext State.ThreadsOk
    (execRetryTimeout e n s) := by
  unfold execRetryTimeout
  change State.ThreadsOk _
  split
  · exact hs
  · split
    · exact (resend_touches ..).threads (by decide) hs
    · exact hs

theorem execQmWindowEnd_keepsThreads (pkg lid s) (hs : State.ThreadsOk s) : onNext State.ThreadsOk
    (execQmWindowEnd pkg lid s) := by
  unfold execQmWindowEnd
  change State.ThreadsOk _
  extract_lets +onlyGivenNames g
  split
  · exact (judge_touches ..).threads (by decide) hs
  · exact hs

theorem execDbgsetProfileClear_keepsThreads (pkg fn s) (hs : State.ThreadsOk s) : onNext State.ThreadsOk
    (execDbgsetProfileClear pkg fn s) := by
  unfold execDbgsetProfileClear
  change State.ThreadsOk _
  refine runDbg_keepsThreads hs fun c => ?_
  extract_lets +onlyGivenNames k e s1
  have hs1 : s1.ThreadsOk := (bufReads_touches ..).threads (by decide) hs
  clear_value s1
  split
  · exact cmdFail_keepsThreads (hs := hs) ..
  · split
    · exact cmdFail_keepsThreads (hs := hs) ..
    · split
      · exact cmdFail_keepsThreads (hs := hs) ..
      · split
        · exact cmdFail_keepsThreads (hs := hs1) ..
        · split
          · exact cmdFail_keepsThreads (hs := hs1) ..
          · exact cmdDone_keepsThreads (hs := ((modEng_touches ..).threads (by decide) hs1)) ..

theorem illegalForm_keepsThreads (s i) (hs : State.ThreadsOk s) : State.ThreadsOk (illegalForm s i) := by
  unfold illegalForm
  exact trapCur_keepsThreads (hs := hs) ..

theorem tryPurge_keepsThreads (s k lid) (hs : State.ThreadsOk s) : onSome (fun p => State.ThreadsOk (p).1)
    (tryPurge s k lid) := by
  unfold tryPurge
  split
  · exact hs
  · split
    · trivial
    · split
      · exact hs
      · extract_lets +onlyGivenNames r
        change State.ThreadsOk _
        dsimp -zeta only
        refine (reevalAll_touches ..).threads (by decide) ?_
        unfold r
        exact purgeCols_keepsThreads (hs := hs) ..

theorem settleAsync_keepsThreads (s pkg w) (hs : State.ThreadsOk s) :
    onSome (fun p => State.ThreadsOk p.2) (settleAsync s pkg w) := by
  unfold settleAsync
  split
  · exact hs
  · trivial
  · split
    · exact hs
    · split
      · exact hs
      · trivial
  · next lid k =>
    refine onSome.map fun a h => ?_
    have hp := tryPurge_keepsThreads s k lid hs
    rw [h] at hp
    exact hp
  · extract_lets s1
    have hs1 : State.ThreadsOk s1 := (settleFreeze_touches ..).threads (by decide) hs
    clear_value s1
    split
    · split
      · exact hs1
      · trivial
    · exact hs1
  · split
    · exact hs
    · trivial

theorem execEccWindowExpiry_keepsThreads (b s) (hs : State.ThreadsOk s) : onNext State.ThreadsOk
    (execEccWindowExpiry b s) := by
  unfold execEccWindowExpiry
  change State.ThreadsOk _
  extract_lets +onlyGivenNames k
  split
  · exact hs
  · exact (modMode_touches ..).threads (by decide) ((pendIfDue_touches ..).threads (by decide) hs)

theorem execWriteAcknowledgement_keepsThreads (t n s) (hs : State.ThreadsOk s) :
    onNext State.ThreadsOk (execWriteAcknowledgement t n s) := by
  unfold execWriteAcknowledgement
  refine onNext_next ?_
  split
  · next _ r _ =>
    refine modThr_keepsThreads ((dropReq_touches ..).threads (by decide) hs) fun th ht => ?_
    obtain ⟨h1, h2, h3, _⟩ := storeErr_inOrder (n := n) (r := r) ht
    obtain ⟨_, _, _, h4⟩ := ht
    exact ⟨h1, h2, h3, (List.filter_sublist.filter _).length_le.trans h4⟩
  · exact hs

theorem execSari_keepsThreads (rd rs1 sh s) (hs : State.ThreadsOk s) : onNext State.ThreadsOk
    (execSari rd rs1 sh s) := by
  unfold execSari
  exact finish_keepsThreads (hs := hs) ..

theorem execTime_keepsThreads (rd s) (hs : State.ThreadsOk s) : onNext State.ThreadsOk (execTime rd s) := by
  unfold execTime
  exact finish_keepsThreads (hs := hs) ..

theorem execMsread_keepsThreads (rd rs1 rs2 s) (hs : State.ThreadsOk s) : onNext State.ThreadsOk
    (execMsread rd rs1 rs2 s) := by
  unfold execMsread
  change State.ThreadsOk _
  split
  · exact hs
  · extract_lets +onlyGivenNames v cap va e out
    split
    · exact asyncDone_keepsThreads (hs := hs) ..
    · split
      · split
        · exact asyncDone_keepsThreads (hs := hs) ..
        · split
          · exact asyncDone_keepsThreads (hs := hs) ..
          · unfold out
            exact toBuffer_keepsThreads (hs := hs) ..
      · split
        · exact asyncDone_keepsThreads (hs := hs) ..
        · split
          · exact asyncDone_keepsThreads (hs := hs) ..
          · unfold out
            exact toBuffer_keepsThreads (hs := hs) ..

theorem runOp_keepsThreads {s : State} {pkg fn op : Nat} {f : Cmd → Answered} (hs : State.ThreadsOk s)
    (hf : ∀ c, (f c).All State.ThreadsOk) : State.ThreadsOk (runOp s pkg fn op f) := runCmd_keepsThreads hs hf

theorem execPcreate_keepsThreads (pkg fn s) (hs : State.ThreadsOk s) : onNext State.ThreadsOk
    (execPcreate pkg fn s) := by
  unfold execPcreate
  change State.ThreadsOk _
  refine runOp_keepsThreads hs fun c => ?_
  extract_lets +onlyGivenNames p
  split
  · exact cmdFail_keepsThreads (hs := hs) ..
  · split
    · exact hs
    · split
      · exact cmdFail_keepsThreads (hs := hs) ..
      · exact cmdDone_keepsThreads (hs := ((setPart_touches ..).threads (by decide) hs)) ..

theorem execTimer_keepsThreads (e n s) (hs : State.ThreadsOk s) : onNext State.ThreadsOk (execTimer e n s) := by
  unfold execTimer
  change State.ThreadsOk _
  split
  · exact hs
  · extract_lets +onlyGivenNames t v due s1
    have hs1 : s1.ThreadsOk := (countFiring_touches ..).threads (by decide) hs
    clear_value s1
    exact (addTimer_touches ..).threads (by decide) ((touch_touches ..).threads (by decide)
      ((leaveFlow_touches ..).threads (by decide) hs1))

theorem execShli_keepsThreads (rd rs1 sh s) (hs : State.ThreadsOk s) : onNext State.ThreadsOk
    (execShli rd rs1 sh s) := by
  unfold execShli
  exact finish_keepsThreads (hs := hs) ..

theorem execCsrwr_keepsThreads (rs1 csr s) (hs : State.ThreadsOk s) : onNext State.ThreadsOk (execCsrwr rs1 csr s) := by
  unfold execCsrwr
  change State.ThreadsOk _
  refine modCur_keepsThreads hs fun th ht => ?_
  refine advance_inOrder ?_ ..
  refine writeCsr_inOrder ?_ ..
  exact ht

theorem issueOf_keepsThreads (s t) (hs : State.ThreadsOk s) : Issued.All State.ThreadsOk (issueOf s t) := by
  unfold issueOf
  extract_lets +onlyGivenNames s1
  have hs1 : s1.ThreadsOk := (fetchMiss_touches ..).threads (by decide) hs
  clear_value s1
  extract_lets +onlyGivenNames t1 th s2
  have hs2 : s2.ThreadsOk := by
    unfold s2
    exact hs1.same rfl
  clear_value s2
  split
  · exact hs2
  · split
    · exact hs2
    · exact (issueRead_touches ..).threads (by decide) hs2
    · split
      · exact watchTrap_keepsThreads (hs := hs2) ..
      · split
        · exact (issueRead_touches ..).threads (by decide) hs2
        · split
          · exact hs2
          · split
            · change State.ThreadsOk _
              refine loadErrorTrap_keepsThreads (hs := ?_) ..
              refine modThr_keepsThreads hs2 fun th1 ht => ?_
              refine errFirst_inOrder ?_ ..
              exact ht
            · exact (issueRead_touches ..).threads (by decide) hs2

theorem execCsrclr_keepsThreads (rs1 csr s) (hs : State.ThreadsOk s) : onNext State.ThreadsOk
    (execCsrclr rs1 csr s) := by
  unfold execCsrclr
  extract_lets +onlyGivenNames old
  change State.ThreadsOk _
  refine modCur_keepsThreads hs fun th ht => ?_
  refine advance_inOrder ?_ ..
  refine writeCsr_inOrder ?_ ..
  exact ht

theorem execHbmAtomic_keepsThreads (n s) (hs : State.ThreadsOk s) : onNext State.ThreadsOk (execHbmAtomic n s) := by
  unfold execHbmAtomic
  change State.ThreadsOk _
  split
  · split
    · exact (performRemote_touches ..).threads (by decide) hs
    · exact hs
  · exact hs

theorem execDbgsetLogEntry_keepsThreads (pkg fn s) (hs : State.ThreadsOk s) : onNext State.ThreadsOk
    (execDbgsetLogEntry pkg fn s) := by
  unfold execDbgsetLogEntry
  change State.ThreadsOk _
  refine runDbg_keepsThreads hs fun c => ?_
  extract_lets +onlyGivenNames k e
  split
  · exact cmdFail_keepsThreads (hs := hs) ..
  · split
    · exact cmdFail_keepsThreads (hs := hs) ..
    · exact cmdDone_keepsThreads (hs := ((modEng_touches ..).threads (by decide) hs)) ..

theorem execThaw_keepsThreads (rd rs1 s) (hs : State.ThreadsOk s) : onNext State.ThreadsOk (execThaw rd rs1 s) := by
  unfold execThaw
  change State.ThreadsOk _
  extract_lets +onlyGivenNames h s1
  have hs1 : s1.ThreadsOk := (settleFreeze_touches ..).threads (by decide) hs
  clear_value s1
  split
  · exact finish_keepsThreads (hs := hs) ..
  · split
    · split
      · exact finish_keepsThreads (hs := ((thaw_touches ..).threads (by decide) hs1)) ..
      · exact finish_keepsThreads (hs := hs1) ..
    · exact hs1

theorem poisonStart_keepsThreads (s f) (hs : State.ThreadsOk s) : State.ThreadsOk (poisonStart s f) := by
  unfold poisonStart
  split
  · exact hs
  · exact (poisonConsumed_touches ..).threads (by decide) (freeDests_keepsThreads (hs :=
      ((takeStart_touches ..).threads (by decide) hs)) ..)

theorem failStart_keepsThreads (s f x) (hs : State.ThreadsOk s) : State.ThreadsOk (failStart s f x) := by
  unfold failStart
  extract_lets +onlyGivenNames e walked
  have hwalked : walked.ThreadsOk := (dropWalk_touches ..).threads (by decide) hs
  clear_value walked
  split
  · exact (noteMiss_touches ..).threads (by decide) hs
  · split
    · exact (raiseAt_touches ..).threads (by decide) ((touch_touches ..).threads (by decide)
        ((modEng_touches ..).threads (by decide) hwalked))
    · split
      · exact hs
      · exact (opFault_touches ..).threads (by decide) (freeDests_keepsThreads (hs := ((takeStart_touches ..).threads
          (by decide) hwalked)) ..)

theorem execCopy_keepsThreads (e n s) (hs : State.ThreadsOk s) : onNext State.ThreadsOk (execCopy e n s) := by
  unfold execCopy
  change State.ThreadsOk _
  split
  · exact hs
  · extract_lets +onlyGivenNames l fromTile
    split
    · exact poisonStart_keepsThreads (hs := hs) ..
    · split
      · exact badStart_keepsThreads (hs := hs) ..
      · split
        · exact failStart_keepsThreads (hs := hs) ..
        · split
          · exact failStart_keepsThreads (hs := hs) ..
          · split
            · exact hs
            · split
              · exact failStart_keepsThreads (hs := hs) ..
              · split
                · exact hs
                · next x3 j1 s' h7 =>
                    extract_lets +onlyGivenNames tile
                    split
                    · exact hs
                    · refine (emitToks_touches ..).threads (by decide) ?_
                      refine (servedQ_touches ..).threads (by decide) ?_
                      refine (beginXfer_touches ..).threads (by decide) ?_
                      have k := Touches.carry h7 (launchCopy_touches ..)
                      exact Touches.threads k (by decide) hs

theorem execHstoreComplete_keepsThreads (e n s) (hs : State.ThreadsOk s) : onNext State.ThreadsOk
    (execHstoreComplete e n s) := by
  unfold execHstoreComplete
  change State.ThreadsOk _
  split
  · exact hs
  · extract_lets +onlyGivenNames mine x2 s'
    have hs' : s'.ThreadsOk := (dropXfer_touches ..).threads (by decide) (hs.same rfl)
    clear_value s'
    extract_lets +onlyGivenNames room
    split
    · exact hs
    · split
      · exact hs
      · extract_lets +onlyGivenNames out
        split
        · split
          · exact hs
          · exact (opFault_touches ..).threads (by decide) hs'
        · split
          · exact hs
          · exact (poisonConsumed_touches ..).threads (by decide) hs'
        · split
          · exact hs
          · exact (silentData_touches ..).threads (by decide) hs'
        · split
          · exact hs
          · exact (spendStore_touches ..).threads (by decide) ((opFault_touches ..).threads (by decide) hs')
        · exact (consumeToks_touches ..).threads (by decide) ((emitToks_touches ..).threads (by decide) hs')

theorem execHalt_keepsThreads (s) (hs : State.ThreadsOk s) : onNext State.ThreadsOk (execHalt s) := by
  unfold execHalt
  change State.ThreadsOk _
  split
  · exact hs
  · refine modCur_keepsThreads hs fun th ht => ?_
    extract_lets x
    exact ht

theorem execLinkFlitReceive_keepsThreads (e noise s) (hs : State.ThreadsOk s) : onNext State.ThreadsOk
    (execLinkFlitReceive e noise s) := by
  unfold execLinkFlitReceive
  change State.ThreadsOk _
  split
  · exact hs
  · split
    · exact hs
    · split
      · exact (modStrait_touches ..).threads (by decide) (hs.same rfl)
      · exact (modStrait_touches ..).threads (by decide) hs

theorem execAckReceive_keepsThreads (n s) (hs : State.ThreadsOk s) : onNext State.ThreadsOk (execAckReceive n s) := by
  unfold execAckReceive
  change State.ThreadsOk _
  split
  · exact hs
  · extract_lets +onlyGivenNames s1
    have hs1 : s1.ThreadsOk := by
      unfold s1
      exact hs.same rfl
    clear_value s1
    split
    · exact hs1
    · extract_lets +onlyGivenNames s2
      have hs2 : s2.ThreadsOk := (modStrait_touches ..).threads (by decide) hs1
      clear_value s2
      exact (admitPkts_touches ..).threads (by decide) hs2

theorem tileInStop_keepsThreads {s : State} {f : Start} {t : Token} {x : TileIn} (hs : State.ThreadsOk s)
    (hx : x.All State.ThreadsOk) : State.ThreadsOk (tileInStop s f t x) := by
  have hr : (tokRead s t f.act.id).ThreadsOk := (tokRead_touches ..).threads (by decide) hs
  unfold tileInStop
  extract_lets room read
  split
  · exact hs
  · exact hs
  · exact hx
  · split
    · exact poisonStart_keepsThreads (hs := hr) ..
    · exact hs
  · split
    · exact failStart_keepsThreads (hs := hr) ..
    · exact hs
  · split
    · exact badStart_keepsThreads (hs := hr) ..
    · exact hs

theorem execChw_keepsThreads (e n s) (hs : State.ThreadsOk s) : onNext State.ThreadsOk (execChw e n s) := by
  unfold execChw
  change State.ThreadsOk _
  split
  · split
    · split
      · exact (endXUnit_touches ..).threads (by decide) hs
      · exact hs
    · exact hs
  · split
    · exact hs
    · extract_lets +onlyGivenNames t
      split
      · exact hs
      · split
        · exact poisonStart_keepsThreads (hs := hs) ..
        · split
          · split
            · exact failStart_keepsThreads (hs := hs) ..
            · extract_lets +onlyGivenNames c
              split
              · exact failStart_keepsThreads (hs := hs) ..
              · split
                · exact failStart_keepsThreads (hs := hs) ..
                · exact (writeRecord_touches ..).threads (by decide) hs
          · refine tileInStop_keepsThreads hs ?_
            split
            · exact TileIn.All.imp (fun _ k => k.threads (by decide) hs) (readTileTok_touches ..)
            · split
              · trivial
              · trivial

theorem execHload_keepsThreads (e n s) (hs : State.ThreadsOk s) : onNext State.ThreadsOk (execHload e n s) := by
  unfold execHload
  change State.ThreadsOk _
  split
  · exact hs
  · split
    · exact poisonStart_keepsThreads (hs := hs) ..
    · split
      · exact badStart_keepsThreads (hs := hs) ..
      · extract_lets +onlyGivenNames c
        split
        · extract_lets +onlyGivenNames t
          split
          · exact hs
          · split
            · exact failStart_keepsThreads (hs := hs) ..
            · split
              · exact failStart_keepsThreads (hs := hs) ..
              · split
                · next x6 st s' h8 =>
                    split
                    · next x7 i1 s1 h9 =>
                        extract_lets +onlyGivenNames rg reqs s2
                        have hs2 : s2.ThreadsOk := State.ThreadsOk.same (s := s1) ((Touches.of_snd h9
                          (fresh_touches ..)).threads (by decide) ((Touches.of_snd h8 (newStamp_touches ..)).threads
                          (by decide) hs)) rfl
                        clear_value s2
                        split
                        · exact hs
                        · exact (issueAll_touches ..).threads (by decide) ((beginXfer_touches ..).threads
                            (by decide) hs2)
        · exact failStart_keepsThreads (hs := hs) ..

theorem execDbgsetStopEntry_keepsThreads (pkg fn s) (hs : State.ThreadsOk s) : onNext State.ThreadsOk
    (execDbgsetStopEntry pkg fn s) := by
  unfold execDbgsetStopEntry
  change State.ThreadsOk _
  refine runDbg_keepsThreads hs fun c => ?_
  extract_lets +onlyGivenNames k s1
  have hs1 : s1.ThreadsOk := (bufReads_touches ..).threads (by decide) hs
  clear_value s1
  extract_lets +onlyGivenNames old
  split
  · exact cmdFail_keepsThreads (hs := hs) ..
  · split
    · exact cmdFail_keepsThreads (hs := hs1) ..
    · extract_lets +onlyGivenNames v
      split
      · exact cmdFail_keepsThreads (hs := hs1) ..
      · split
        · exact cmdFail_keepsThreads (hs := hs1) ..
        · exact cmdDone_keepsThreads (hs := ((setStop_touches ..).threads (by decide) hs1)) ..

theorem execSink_keepsThreads (e n s) (hs : State.ThreadsOk s) : onNext State.ThreadsOk (execSink e n s) := by
  unfold execSink
  change State.ThreadsOk _
  split
  · exact (fireOut_touches ..).threads (by decide) hs
  · exact hs

theorem execXori_keepsThreads (rd rs1 imm s) (hs : State.ThreadsOk s) : onNext State.ThreadsOk
    (execXori rd rs1 imm s) := by
  unfold execXori
  exact finish_keepsThreads (hs := hs) ..

theorem execAmocas_keepsThreads (rd rs1 rs2 ord s) (hs : State.ThreadsOk s) : onNext State.ThreadsOk
    (execAmocas rd rs1 rs2 ord s) := by
  unfold execAmocas
  exact issueAmo_keepsThreads (hs := hs) ..

theorem dispatchSent_keepsThreads (s r u) (hs : State.ThreadsOk s) : State.ThreadsOk (dispatchSent s r u) := by
  unfold dispatchSent
  extract_lets +onlyGivenNames n16 imgs s1
  have hs1 : s1.ThreadsOk := by
    unfold s1
    exact hs.same rfl
  clear_value s1
  extract_lets +onlyGivenNames s2
  have hs2 : s2.ThreadsOk := by
    unfold s2
    refine .foldl (fun u1 a hu => ?_) _ _ ?_
    · exact (beginImage_touches ..).threads (by decide) hu
    · exact hs1
  clear_value s2
  split
  · split
    · exact (opFault_touches ..).threads (by decide) (freeDests_keepsThreads (hs := ((dropXUnit_touches ..).threads
        (by decide) hs)) ..)
    · exact hs
  · exact (modXUnit_touches ..).threads (by decide) hs2

theorem execRgroup_keepsThreads (pkg fn s) (hs : State.ThreadsOk s) : onNext State.ThreadsOk (execRgroup pkg fn s) := by
  unfold execRgroup
  change State.ThreadsOk _
  refine runOp_keepsThreads hs fun c => ?_
  extract_lets +onlyGivenNames rank n s1
  have hs1 : s1.ThreadsOk := (bufReads_touches ..).threads (by decide) hs
  clear_value s1
  split
  · exact cmdFail_keepsThreads (hs := hs) ..
  · split
    · exact cmdFail_keepsThreads (hs := hs1) ..
    · exact cmdDone_keepsThreads (hs := ((modGroup_touches ..).threads (by decide) hs1)) ..

theorem execTwsetExpiry_keepsThreads (pkg die n s) (hs : State.ThreadsOk s) : onNext State.ThreadsOk
    (execTwsetExpiry pkg die n s) := by
  unfold execTwsetExpiry
  change State.ThreadsOk _
  extract_lets +onlyGivenNames s0
  have hs0 : s0.ThreadsOk := hs
  clear_value s0
  split
  · exact hs
  · split
    · exact setEvent_keepsThreads (hs := ((dropEnt_touches ..).threads (by decide) hs)) ..
    · split
      · next x2 i s1 h2 =>
          split
          · next x3 v h3 =>
              split
              · exact hs0
              · have k := Touches.carry h3 (inject_touches ..)
                exact Touches.threads k (by decide) ((Touches.of_snd h2 (fresh_touches ..)).threads (by decide)
                  ((touchTwset_touches ..).threads (by decide) ((dropEnt_touches ..).threads (by decide) hs)))
          · exact (raise_touches ..).threads (by decide) ((Touches.of_snd h2 (fresh_touches ..)).threads (by decide)
              ((touchTwset_touches ..).threads (by decide) ((dropEnt_touches ..).threads (by decide) hs)))
    · exact hs

theorem onPart_keepsThreads {s : State} {pkg p : Nat} {f : Partition → Answered} (hs : State.ThreadsOk s)
    (hf : ∀ q, (f q).All State.ThreadsOk) : (onPart s pkg p f).All State.ThreadsOk := by
  unfold onPart
  split
  · exact cmdFail_keepsThreads _ _ hs
  · split
    · exact hs
    · split
      · exact cmdFail_keepsThreads _ _ hs
      · exact hf _

theorem execPgrant_keepsThreads (pkg fn s) (hs : State.ThreadsOk s) : onNext State.ThreadsOk (execPgrant pkg fn s) := by
  unfold execPgrant
  change State.ThreadsOk _
  refine runOp_keepsThreads hs fun c => ?_
  refine onPart_keepsThreads hs fun p => ?_
  extract_lets +onlyGivenNames p1 die back src dst pages ths bf bn hb hn s'
  have hs' : s'.ThreadsOk := moveGrant_keepsThreads (hs := hs) ..
  clear_value s'
  split
  · exact cmdFail_keepsThreads (hs := hs) ..
  · split
    · exact cmdFail_keepsThreads (hs := hs) ..
    · split
      · exact cmdFail_keepsThreads (hs := hs) ..
      · split
        · exact cmdFail_keepsThreads (hs := hs) ..
        · exact cmdDone_keepsThreads (hs := hs') ..

theorem execAspace_keepsThreads (pkg fn s) (hs : State.ThreadsOk s) : onNext State.ThreadsOk (execAspace pkg fn s) := by
  unfold execAspace
  change State.ThreadsOk _
  refine runOp_keepsThreads hs fun c => ?_
  refine onPart_keepsThreads hs fun p => ?_
  extract_lets +onlyGivenNames root vb vl
  split
  · exact cmdFail_keepsThreads (hs := hs) ..
  · exact cmdDone_keepsThreads (hs := ((setPart_touches ..).threads (by decide) hs)) ..

theorem execSltn_keepsThreads (rd rs1 rs2 s) (hs : State.ThreadsOk s) : onNext State.ThreadsOk
    (execSltn rd rs1 rs2 s) := by
  unfold execSltn
  exact regOp_keepsThreads (hs := hs) ..

theorem execAmomin_keepsThreads (rd rs1 rs2 ord s) (hs : State.ThreadsOk s) : onNext State.ThreadsOk
    (execAmomin rd rs1 rs2 ord s) := by
  unfold execAmomin
  exact issueAmo_keepsThreads (hs := hs) ..

theorem execAdd_keepsThreads (rd rs1 rs2 s) (hs : State.ThreadsOk s) : onNext State.ThreadsOk
    (execAdd rd rs1 rs2 s) := by
  unfold execAdd
  exact regOp_keepsThreads (hs := hs) ..

theorem execSstart_keepsThreads (rd rs1 rs2 s) (hs : State.ThreadsOk s) : onNext State.ThreadsOk
    (execSstart rd rs1 rs2 s) := by
  unfold execSstart
  change State.ThreadsOk _
  split
  · exact hs
  · split
    · exact finish_keepsThreads (hs := hs) ..
    · extract_lets +onlyGivenNames n o
      split
      · exact finish_keepsThreads (hs := hs) ..
      · split
        · exact finish_keepsThreads (hs := hs) ..
        · split
          · exact finish_keepsThreads (hs := hs) ..
          · split
            · exact finish_keepsThreads (hs := hs) ..
            · extract_lets +onlyGivenNames s1
              have hs1 : s1.ThreadsOk := (setCmd_touches ..).threads (by decide) hs
              clear_value s1
              exact finish_keepsThreads (hs := ((modPort_touches ..).threads (by decide) hs1)) ..

theorem execTerminalAccept_keepsThreads (n s) (hs : State.ThreadsOk s) : onNext State.ThreadsOk
    (execTerminalAccept n s) := by
  unfold execTerminalAccept
  change State.ThreadsOk _
  split
  · exact hs
  · extract_lets +onlyGivenNames e s1
    have hs1 : s1.ThreadsOk := (adoptMilestone_touches ..).threads (by decide) hs
    extract_lets +onlyGivenNames s2
    have hs2 : s2.ThreadsOk := (dropPkt_touches ..).threads (by decide) hs1
    extract_lets +onlyGivenNames st key t k x1
    split
    · exact hs
    · split
      · exact (staleDrop_touches ..).threads (by decide) hs
      · split
        · exact (misroute_touches ..).threads (by decide) hs1
        · split
          · exact (sendAnswer_touches ..).threads (by decide) hs2
          · split
            · exact hs2
            · refine (modStrait_touches ..).threads (by decide) ?_
              unfold x1
              exact (passInOrder_touches ..).threads (by decide) ((sendAnswer_touches ..).threads (by decide) hs2)

theorem execLaunchEventPoll_keepsThreads (pkg q s) (hs : State.ThreadsOk s) : onNext State.ThreadsOk
    (execLaunchEventPoll pkg q s) := by
  unfold execLaunchEventPoll
  change State.ThreadsOk _
  refine .foldl (fun u a hu => ?_) _ _ ?_
  · extract_lets +onlyGivenNames met s1
    have hs1 : s1.ThreadsOk := by
      unfold s1
      refine .foldl (fun u1 a1 hu1 => ?_) _ _ ?_
      · exact (coreReads_touches ..).threads (by decide) hu1
      · exact hu
    clear_value s1
    extract_lets +onlyGivenNames x
    exact (setLaunch_touches ..).threads (by decide) hs1
  · exact hs

theorem execLd8_keepsThreads (rd rs1 imm s) (hs : State.ThreadsOk s) : onNext State.ThreadsOk
    (execLd8 rd rs1 imm s) := by
  unfold execLd8
  exact issueLoad_keepsThreads (hs := hs) ..

theorem stepCmd_keepsThreads (s k n c m) (hs : State.ThreadsOk s) : State.ThreadsOk (stepCmd s k n c m) := by
  unfold stepCmd
  extract_lets +onlyGivenNames c1
  split
  · refine endCmd_keepsThreads (hs := ?_) ..
    split
    · exact (cmdChunks_touches ..).threads (by decide) hs
    · exact hs
  · exact (setCmd_touches ..).threads (by decide) hs

theorem stepBoth_keepsThreads (s k n c b d) (hs : State.ThreadsOk s) : State.ThreadsOk (stepBoth s k n c b d) := by
  unfold stepBoth
  exact stepCmd_keepsThreads (hs := (stepCmd_keepsThreads (hs := hs) ..)) ..

theorem closeOuter_keepsThreads (s rd l) (hs : State.ThreadsOk s) : State.ThreadsOk (closeOuter s rd l) := by
  unfold closeOuter
  split
  · exact hs
  · extract_lets +onlyGivenNames r
    split
    · refine finish_keepsThreads (hs := ?_) ..
      refine modCur_keepsThreads ?_ fun th ht => ?_
      · unfold r
        exact (performAll_touches ..).threads (by decide) hs
      · exact ht
    · extract_lets +onlyGivenNames s1
      have hs1 : s1.ThreadsOk := by
        unfold s1
        refine modCur_keepsThreads ?_ fun th ht => ?_
        · unfold r
          exact (performAll_touches ..).threads (by decide) hs
        · exact ht
      clear_value s1
      split
      · exact quotaTrap_keepsThreads (hs := hs1) ..
      · exact hs1

theorem closeLevel_keepsThreads (s rd) (hs : State.ThreadsOk s) : State.ThreadsOk (closeLevel s rd) := by
  unfold closeLevel
  extract_lets +onlyGivenNames ls up
  split
  · exact finish_keepsThreads (hs := hs) ..
  · exact closeOuter_keepsThreads (hs := hs) ..
  · exact finish_keepsThreads (hs := (modCur_keepsThreads hs fun th ht => ht)) ..

theorem passChunk_keepsThreads {s : State} {j : CopyJob} {c : Nat} {m : Moved} {count : State → State}
    (hs : State.ThreadsOk s)
    (hc : ∀ u, State.ThreadsOk u → (count u).ThreadsOk) : State.ThreadsOk (passChunk s j c m count) := by
  unfold passChunk
  split
  · next h =>
      have h := Touches.carry h (copyGate_touches ..)
      exact Touches.threads h (by decide) hs
  · exact moveChunk_keepsThreads (hs := hc _ ((watchPassed_touches ..).threads (by decide) hs)) ..

theorem execAsyncTrapEntry_keepsThreads (t s) (hs : State.ThreadsOk s) : onNext State.ThreadsOk
    (execAsyncTrapEntry t s) := by
  unfold execAsyncTrapEntry
  change State.ThreadsOk _
  extract_lets +onlyGivenNames th
  split
  · exact hs
  · split
    · exact hs
    · split
      · exact loadErrorTrap_keepsThreads (hs := hs) ..
      · extract_lets +onlyGivenNames s1
        have hs1 : s1.ThreadsOk := modThr_keepsThreads hs fun th1 ht => ht
        clear_value s1
        exact enterTrap_keepsThreads (hs := hs1) ..

theorem execFetchFault_keepsThreads (why s) (hs : State.ThreadsOk s) : onNext State.ThreadsOk
    (execFetchFault why s) := by
  unfold execFetchFault
  change State.ThreadsOk _
  extract_lets +onlyGivenNames th
  exact trapCur_keepsThreads (hs := ((dropWalk_touches ..).threads (by decide) hs)) ..

theorem execTokenArrival_keepsThreads (e n s) (hs : State.ThreadsOk s) : onNext State.ThreadsOk
    (execTokenArrival e n s) := by
  unfold execTokenArrival
  exact (arrive_touches ..).threads (by decide) hs

theorem execArbiterSelect_keepsThreads (e s) (hs : State.ThreadsOk s) : onNext State.ThreadsOk
    (execArbiterSelect e s) := by
  unfold execArbiterSelect
  change State.ThreadsOk _
  extract_lets +onlyGivenNames s1
  have hs1 : s1.ThreadsOk := (reevalAll_touches ..).threads (by decide) hs
  clear_value s1
  extract_lets +onlyGivenNames s2
  have hs2 : s2.ThreadsOk := (addOcc_touches ..).threads (by decide) ((modEng_touches ..).threads (by decide) hs1)
  clear_value s2
  extract_lets +onlyGivenNames c x ur no cls o w total cr slots
  split
  · exact hs1
  · split
    · exact hs2
    · extract_lets +onlyGivenNames slots1 s3
      have hs3 : s3.ThreadsOk := (setEng_touches ..).threads (by decide) hs2
      clear_value s3
      split
      · exact (selectAct_touches ..).threads (by decide) hs3
      · exact hs3

theorem execArbiterReweight_keepsThreads (e s) (hs : State.ThreadsOk s) : onNext State.ThreadsOk
    (execArbiterReweight e s) := by
  unfold execArbiterReweight
  change State.ThreadsOk _
  extract_lets +onlyGivenNames x
  split
  · exact hs
  · exact (setEng_touches ..).threads (by decide) hs

theorem execLiveCountUpdate_keepsThreads (n s) (hs : State.ThreadsOk s) : onNext State.ThreadsOk
    (execLiveCountUpdate n s) := by
  unfold execLiveCountUpdate
  change State.ThreadsOk _
  split
  · exact hs
  · extract_lets +onlyGivenNames rest
    have hrest : rest.ThreadsOk := by
      unfold rest
      exact hs.same rfl
    clear_value rest
    extract_lets +onlyGivenNames s1
    have hs1 : s1.ThreadsOk := (addBal_touches ..).threads (by decide) ((holdLive_touches ..).threads (by decide) hrest)
    clear_value s1
    split
    · split
      · exact hs
      · split
        · split
          · exact hs
          · split
            · split
              · exact (balFault_touches ..).threads (by decide) ((holdLive_touches ..).threads (by decide) hrest)
              · exact hs
            · exact (touch_touches ..).threads (by decide) (hs1.same rfl)
        · exact (holdLive_touches ..).threads (by decide) hrest
    · split
      · exact hs
      · split
        · split
          · split
            · exact (balFault_touches ..).threads (by decide) hrest
            · exact hs
          · exact (dropLive_touches ..).threads (by decide) hrest
        · exact (dropLive_touches ..).threads (by decide) ((addBal_touches ..).threads (by decide) hrest)

theorem finishLaunch_keepsThreads (s pkg lid) (hs : State.ThreadsOk s) : State.ThreadsOk (finishLaunch s pkg lid) := by
  unfold finishLaunch
  split
  · exact hs
  · extract_lets +onlyGivenNames s1
    have hs1 : s1.ThreadsOk := (signalEvent_touches ..).threads (by decide) ((detachLaunch_touches ..).threads
      (by decide) hs)
    clear_value s1
    extract_lets +onlyGivenNames t s2
    have hs2 : s2.ThreadsOk := by
      unfold s2
      split
      · exact setEvent_keepsThreads (hs := hs1) ..
      · exact hs1
    clear_value s2
    exact (reevalAll_touches ..).threads (by decide) (hs2.same rfl)

theorem execLaunchComplete_keepsThreads (pkg n s) (hs : State.ThreadsOk s) : onNext State.ThreadsOk
    (execLaunchComplete pkg n s) := by
  unfold execLaunchComplete
  change State.ThreadsOk _
  split
  · exact hs
  · split
    · exact hs
    · extract_lets +onlyGivenNames die
      exact finishLaunch_keepsThreads (hs := ((traceClass_touches ..).threads (by decide) hs)) ..

theorem execEnterOp_keepsThreads (e n s) (hs : State.ThreadsOk s) : onNext State.ThreadsOk (execEnterOp e n s) := by
  unfold execEnterOp
  change State.ThreadsOk _
  split
  · exact hs
  · extract_lets +onlyGivenNames o t lp grp key go
    have hgo : ∀ u0 a1 a2, State.ThreadsOk u0 → State.ThreadsOk (go u0 a1 a2) := by
      intro u0 a1 a2 hu
      unfold go
      split
      · next x1 i s1 h1 =>
          exact (countEntry_touches ..).threads (by decide) ((fire_touches ..).threads (by decide) ((Touches.of_snd h1
            (fresh_touches ..)).threads (by decide) hu))
    split
    · exact hs
    · split
      · exact hgo _ _ _ hs
      · split
        · exact hs
        · split
          · next x2 c s1 h4 =>
              refine hgo _ _ _ ?_
              have k := Touches.carry h4 (tryDraw_touches ..)
              exact Touches.threads k (by decide) hs
          · next x2 s1 h4 =>
              have k := Touches.carry h4 (tryDraw_touches ..)
              exact Touches.threads k (by decide) hs

theorem execNextOp_keepsThreads (e n s) (hs : State.ThreadsOk s) : onNext State.ThreadsOk (execNextOp e n s) := by
  unfold execNextOp
  change State.ThreadsOk _
  split
  · exact hs
  · extract_lets +onlyGivenNames o t d k c go
    have hgo : ∀ u0 a1, State.ThreadsOk u0 → State.ThreadsOk (go u0 a1) := by
      intro u0 a1 hu
      unfold go
      split
      · next x1 i s1 h1 =>
          extract_lets +onlyGivenNames s2
          have hs2 : s2.ThreadsOk := (closeColour_touches ..).threads (by decide) ((Touches.of_snd h1
            (fresh_touches ..)).threads (by decide) hu)
          clear_value s2
          exact (fire_touches ..).threads (by decide) hs2
    extract_lets +onlyGivenNames asked
    split
    · exact (faultFire_touches ..).threads (by decide) hs
    · split
      · exact (faultFire_touches ..).threads (by decide) hs
      · split
        · exact hs
        · split
          · exact hgo _ _ hs
          · split
            · exact hs
            · split
              · next x1 c1 s1 h6 =>
                  refine hgo _ _ ?_
                  refine (modCol_touches ..).threads (by decide) ?_
                  have k1 := Touches.carry h6 (tryDraw_touches ..)
                  exact Touches.threads k1 (by decide) hs
              · next x1 s1 h6 =>
                  refine (modCol_touches ..).threads (by decide) ?_
                  have k1 := Touches.carry h6 (tryDraw_touches ..)
                  exact Touches.threads k1 (by decide) hs

theorem execCallOp_keepsThreads (e n s) (hs : State.ThreadsOk s) : onNext State.ThreadsOk (execCallOp e n s) := by
  unfold execCallOp
  change State.ThreadsOk _
  split
  · exact hs
  · extract_lets +onlyGivenNames o t v fn grp key dests go
    have hgo : ∀ u0 a1 a2, State.ThreadsOk u0 → State.ThreadsOk (go u0 a1 a2) := by
      intro u0 a1 a2 hu
      unfold go
      extract_lets +onlyGivenNames s1
      have hs1 : s1.ThreadsOk := by
        unfold s1
        split
        · exact (modRegion_touches ..).threads (by decide) hu
        · exact hu
      clear_value s1
      extract_lets +onlyGivenNames ctx
      split
      · next x1 i s2 h1 =>
          exact (countEntry_touches ..).threads (by decide) ((fire_touches ..).threads (by decide) ((Touches.of_snd h1
            (fresh_touches ..)).threads (by decide) hs1))
    split
    · exact hs
    · split
      · exact hgo _ _ _ hs
      · split
        · exact hs
        · split
          · next x2 c s1 h4 =>
              refine hgo _ _ _ ?_
              have k := Touches.carry h4 (tryDraw_touches ..)
              exact Touches.threads k (by decide) hs
          · next x2 s1 h4 =>
              have k := Touches.carry h4 (tryDraw_touches ..)
              exact Touches.threads k (by decide) hs

theorem execGsteer_keepsThreads (e n s) (hs : State.ThreadsOk s) : onNext State.ThreadsOk (execGsteer e n s) := by
  unfold execGsteer
  change State.ThreadsOk _
  split
  · exact (fireOut_touches ..).threads (by decide) hs
  · exact hs

theorem execGmerge_keepsThreads (e n s) (hs : State.ThreadsOk s) : onNext State.ThreadsOk (execGmerge e n s) := by
  unfold execGmerge
  change State.ThreadsOk _
  split
  · exact (fireOut_touches ..).threads (by decide) hs
  · exact hs

theorem execTriggerArrival_keepsThreads (e n s) (hs : State.ThreadsOk s) : onNext State.ThreadsOk
    (execTriggerArrival e n s) := by
  unfold execTriggerArrival
  exact (arrive_touches ..).threads (by decide) hs

theorem execTriggerDeadline_keepsThreads (e slot vrow s) (hs : State.ThreadsOk s) : onNext State.ThreadsOk
    (execTriggerDeadline e slot vrow s) := by
  unfold execTriggerDeadline
  change State.ThreadsOk _
  extract_lets +onlyGivenNames w
  split
  · exact hs
  · split
    · exact (evalTrigger_touches ..).threads (by decide) ((dropEnt_touches ..).threads (by decide) hs)
    · exact hs

theorem execTimerExpiry_keepsThreads (pkg die n s) (hs : State.ThreadsOk s) : onNext State.ThreadsOk
    (execTimerExpiry pkg die n s) := by
  unfold execTimerExpiry
  change State.ThreadsOk _
  split
  · split
    · split
      · exact (dropEnt_touches ..).threads (by decide) hs
      · split
        · next x2 i s1 h3 =>
            extract_lets +onlyGivenNames out
            exact (consumeToks_touches ..).threads (by decide) ((emitToks_touches ..).threads (by decide)
              ((Touches.of_snd h3 (fresh_touches ..)).threads (by decide) ((dropEnt_touches ..).threads
              (by decide) hs)))
    · exact hs
  · exact hs

theorem execVblockActivation_keepsThreads (e s) (hs : State.ThreadsOk s) : onNext State.ThreadsOk
    (execVblockActivation e s) := by
  unfold execVblockActivation
  change State.ThreadsOk _
  split
  · exact hs
  · split
    · exact hs
    · extract_lets +onlyGivenNames b seen s1
      have hs1 : s1.ThreadsOk := (modSlot_touches ..).threads (by decide) hs
      clear_value s1
      extract_lets +onlyGivenNames outs s'
      have hs' : s'.ThreadsOk := startRun_keepsThreads (hs := hs1) ..
      clear_value s'
      split
      · exact (blockElement_touches ..).threads (by decide) hs
      · split
        · exact (modVTile_touches ..).threads (by decide) hs'
        · exact hs'

theorem execVblockComplete_keepsThreads (e s) (hs : State.ThreadsOk s) : onNext State.ThreadsOk
    (execVblockComplete e s) := by
  unfold execVblockComplete
  change State.ThreadsOk _
  split
  · exact hs
  · extract_lets +onlyGivenNames ps t imgs toks fin
    split
    · exact hs
    · split
      · split
        · exact hs
        · refine checked_keepsThreads hs ?_
          split
          · exact faultRun_keepsThreads (hs := hs) ..
          · extract_lets +onlyGivenNames s1
            have hs1 : s1.ThreadsOk := by
              unfold s1
              refine .foldl (fun u1 a hu => ?_) _ _ ?_
              · exact (beginImage_touches ..).threads (by decide) hu
              · exact hs
            clear_value s1
            exact (modRun_touches ..).threads (by decide) hs1
      · split
        · exact hs
        · exact (endRun_touches ..).threads (by decide) hs

theorem execWload_keepsThreads (e s) (hs : State.ThreadsOk s) : onNext State.ThreadsOk (execWload e s) := by
  unfold execWload
  change State.ThreadsOk _
  split
  · split
    · exact hs
    · refine checked_keepsThreads hs ?_
      extract_lets +onlyGivenNames l out w s1
      have hs1 : s1.ThreadsOk := (modIsland_touches ..).threads (by decide) hs
      clear_value s1
      exact (endRun_touches ..).threads (by decide) hs1
  · split
    · extract_lets +onlyGivenNames s'
      have hs' : s'.ThreadsOk := startRun_keepsThreads (hs := hs) ..
      clear_value s'
      split
      · exact (modIsland_touches ..).threads (by decide) hs'
      · exact hs'
    · exact hs

theorem execGather_keepsThreads (e s) (hs : State.ThreadsOk s) : onNext State.ThreadsOk (execGather e s) := by
  unfold execGather
  change State.ThreadsOk _
  refine course_keepsThreads hs fun r u => ?_
  extract_lets +onlyGivenNames l x o
  split
  · exact writeOut_keepsThreads (hs := hs) ..
  · exact hs

theorem execRepeatOp_keepsThreads (e s) (hs : State.ThreadsOk s) : onNext State.ThreadsOk (execRepeatOp e s) := by
  unfold execRepeatOp
  change State.ThreadsOk _
  refine course_keepsThreads hs fun r u => ?_
  extract_lets +onlyGivenNames l
  split
  · exact writeOut_keepsThreads (hs := hs) ..
  · exact hs

theorem execSwin_keepsThreads (e s) (hs : State.ThreadsOk s) : onNext State.ThreadsOk (execSwin e s) := by
  unfold execSwin
  change State.ThreadsOk _
  refine course_keepsThreads hs fun r u => ?_
  extract_lets +onlyGivenNames c l x n s'
  have hs' : s'.ThreadsOk := (modSlot_touches ..).threads (by decide) ((writeLine_touches ..).threads (by decide) hs)
  clear_value s'
  split
  · extract_lets +onlyGivenNames as_
    split
    · split
      · exact hs
      · exact (poisonConsumed_touches ..).threads (by decide) (abortRun_keepsThreads (hs :=
          ((countWords_touches ..).threads (by decide) hs')) ..)
    · exact writeOut_keepsThreads (hs := ((countWords_touches ..).threads (by decide) hs')) ..
  · exact (endRun_touches ..).threads (by decide) hs'

theorem execTransp_keepsThreads (e s) (hs : State.ThreadsOk s) : onNext State.ThreadsOk (execTransp e s) := by
  unfold execTransp
  change State.ThreadsOk _
  refine course_keepsThreads hs fun r u => ?_
  extract_lets +onlyGivenNames l
  split
  · exact writeOut_keepsThreads (hs := hs) ..
  · exact hs

theorem execConv_keepsThreads (e s) (hs : State.ThreadsOk s) : onNext State.ThreadsOk (execConv e s) := by
  unfold execConv
  extract_lets +onlyGivenNames mode
  change State.ThreadsOk _
  refine course_keepsThreads hs fun r u => ?_
  extract_lets +onlyGivenNames c o
  split
  · extract_lets +onlyGivenNames t area
    exact writeOut_keepsThreads (hs := hs) ..
  · exact hs

theorem failXfer_keepsThreads (s r x cause tval) (hs : State.ThreadsOk s) : State.ThreadsOk
    (failXfer s r x cause tval) := by
  unfold failXfer
  extract_lets +onlyGivenNames s1
  have hs1 : s1.ThreadsOk := by
    unfold s1
    split
    · exact (reevalAll_touches ..).threads (by decide) (freeTile_keepsThreads (hs := hs) ..)
    · exact hs
  clear_value s1
  exact (modXfer_touches ..).threads (by decide) ((opFault_touches ..).threads (by decide) hs1)

theorem sectorBack_keepsThreads (s r x q) (hs : State.ThreadsOk s) : State.ThreadsOk (sectorBack s r x q) := by
  unfold sectorBack
  extract_lets +onlyGivenNames s0
  have hs0 : s0.ThreadsOk := hs
  clear_value s0
  extract_lets +onlyGivenNames s1
  have hs1 : s1.ThreadsOk := (dropReq_touches ..).threads (by decide) hs
  clear_value s1
  extract_lets +onlyGivenNames room s2
  have hs2 : s2.ThreadsOk := by
    unfold s2
    split
    · exact (logError_touches ..).threads (by decide) hs1
    · exact hs1
  clear_value s2
  split
  · exact (dropFailed_touches ..).threads (by decide) hs1
  · split
    · split
      · exact hs0
      · exact (dropFailed_touches ..).threads (by decide) (failXfer_keepsThreads (hs := hs1) ..)
    · split
      · exact hs1
      · extract_lets +onlyGivenNames t y go s3
        have hs3 : s3.ThreadsOk := by
          unfold s3
          refine .foldl (fun u a hu => ?_) _ _ ?_
          · exact (loadBegin_touches ..).threads (by decide) hu
          · exact hs2
        clear_value s3
        extract_lets +onlyGivenNames y1 s4
        have hs4 : s4.ThreadsOk := (modXfer_touches ..).threads (by decide) hs3
        clear_value s4
        split
        · split
          · exact hs0
          · exact (dropFailed_touches ..).threads (by decide) (failXfer_keepsThreads (hs := hs1) ..)
        · split
          · exact (loadDone_touches ..).threads (by decide) hs4
          · exact hs4

theorem execHloadSectorReturn_keepsThreads (e n s) (hs : State.ThreadsOk s) : onNext State.ThreadsOk
    (execHloadSectorReturn e n s) := by
  unfold execHloadSectorReturn
  change State.ThreadsOk _
  split
  · split
    · split
      · split
        · exact sectorBack_keepsThreads (hs := hs) ..
        · exact hs
      · split
        · exact (dropReq_touches ..).threads (by decide) hs
        · exact hs
    · exact hs
  · split
    · exact hs
    · split
      · split
        · exact (finishLoad_touches ..).threads (by decide) hs
        · exact hs
      · exact hs

theorem startStore_keepsThreads (e f s) (hs : State.ThreadsOk s) : State.ThreadsOk (startStore e f s) := by
  unfold startStore
  extract_lets +onlyGivenNames c t pois
  split
  · exact poisonStart_keepsThreads (hs := hs) ..
  · split
    · exact badStart_keepsThreads (hs := hs) ..
    · split
      · exact failStart_keepsThreads (hs := hs) ..
      · split
        · exact failStart_keepsThreads (hs := hs) ..
        · split
          · exact failStart_keepsThreads (hs := hs) ..
          · split
            · exact hs
            · split
              · exact failStart_keepsThreads (hs := hs) ..
              · split
                · exact failStart_keepsThreads (hs := hs) ..
                · split
                  · next x4 st s' h8 =>
                      split
                      · next x5 i s1 h9 =>
                          extract_lets +onlyGivenNames rg
                          split
                          · exact hs
                          · exact (beginXfer_touches ..).threads (by decide) (State.ThreadsOk.same (s := s1)
                              ((Touches.of_snd h9 (fresh_touches ..)).threads (by decide) ((Touches.of_snd h8
                              (newStamp_touches ..)).threads (by decide) hs)) rfl)

theorem execHstore_keepsThreads (e n s) (hs : State.ThreadsOk s) : onNext State.ThreadsOk (execHstore e n s) := by
  unfold execHstore
  change State.ThreadsOk _
  extract_lets +onlyGivenNames u c
  split
  · split
    · exact startStore_keepsThreads (hs := hs) ..
    · exact hs
  · split
    · exact hs
    · split
      · split
        · exact hs
        · split
          · next x3 v h4 =>
              have k := Touches.carry h4 (chunkGate_touches ..)
              exact Touches.threads k (by decide) hs
          · exact (readStore_touches ..).threads (by decide) ((watchPassed_touches ..).threads (by decide) hs)
      · exact hs

theorem execCopyChunkAck_keepsThreads (pkg die n chunk s) (hs : State.ThreadsOk s) : onNext State.ThreadsOk
    (execCopyChunkAck pkg die n chunk s) := by
  unfold execCopyChunkAck
  change State.ThreadsOk _
  split
  · exact hs
  · extract_lets +onlyGivenNames mine back
    split
    · split
      · exact (lateAck_touches ..).threads (by decide) (hs.same rfl)
      · exact (endCopy_touches ..).threads (by decide) hs
    · split
      · exact (finishCopy_touches ..).threads (by decide) hs
      · split
        · exact hs
        · split
          · split
            · exact hs
            · split
              · split
                · exact stopCopy_keepsThreads (hs := hs) ..
                · exact hs
              · exact (ackChunk_touches ..).threads (by decide) (hs.same rfl)
          · split
            · split
              · exact hs
              · exact passChunk_keepsThreads hs fun u hu => ((countBurst_touches ..).threads (by decide)
                  ((clearData_touches ..).threads (by decide) hu))
            · split
              · exact (issueAll_touches ..).threads (by decide) ((modCopy_touches ..).threads (by decide) hs)
              · split
                · exact hs
                · refine passChunk_keepsThreads hs fun u hu => ?_
                  dsimp only [id]
                  exact hu

theorem cancelPacket_keepsThreads (s pkg lid) (hs : State.ThreadsOk s) : State.ThreadsOk (cancelPacket s pkg lid) := by
  unfold cancelPacket
  refine (State.ThreadsOk.tmap hs fun k th ht => ?_).same rfl
  split
  · exact ht
  · exact ht

theorem execCopyPacketTake_keepsThreads (pkg die q s) (hs : State.ThreadsOk s) : onNext State.ThreadsOk
    (execCopyPacketTake pkg die q s) := by
  unfold execCopyPacketTake
  change State.ThreadsOk _
  extract_lets +onlyGivenNames c e found s1
  have hs1 : s1.ThreadsOk := by
    unfold s1
    split
    · exact (queueReads_touches ..).threads (by decide) hs
    · exact hs
  clear_value s1
  clear_value c e found
  split
  · exact hs1
  · extract_lets +onlyGivenNames took
    have htook : took.ThreadsOk := (servedQ_touches ..).threads (by decide) ((engineWrite_touches ..).threads
      (by decide) hs1)
    clear_value took
    extract_lets +onlyGivenNames slot lid
    split
    · exact cancelPacket_keepsThreads (hs := htook) ..
    · split
      · exact (packetFault_touches ..).threads (by decide) htook
      · split
        · exact (noteMiss_touches ..).threads (by decide) hs1
        · exact (packetFault_touches ..).threads (by decide) ((dropWalk_touches ..).threads (by decide) htook)
      · split
        · exact hs1
        · next x1 j1 s' h2 =>
            have k := Touches.carry h2 (launchCopy_touches ..)
            exact Touches.threads k (by decide) htook

theorem chrTake_keepsThreads (s f k q) (hs : State.ThreadsOk s) : State.ThreadsOk (chrTake s f k q) := by
  unfold chrTake
  extract_lets +onlyGivenNames r d far out room took
  have htook : took.ThreadsOk := (takeRec_touches ..).threads (by decide) ((watchPassed_touches ..).threads (by decide)
    ((countRec_touches ..).threads (by decide) hs))
  clear_value took
  split
  · exact hs
  · split
    · next x v h1 =>
        have k1 := Touches.carry h1 (recGate_touches ..)
        exact Touches.threads k1 (by decide) hs
    · split
      · split
        · exact poisonStart_keepsThreads (hs := htook) ..
        · exact hs
      · split
        · split
          · exact badStart_keepsThreads (hs := htook) ..
          · exact hs
        · split
          · exact (chrScalar_touches ..).threads (by decide) htook
          · split
            · exact (backToRow_touches ..).threads (by decide) hs
            · extract_lets +onlyGivenNames x2
              split
              · exact failStart_keepsThreads (hs := hs) ..
              · split
                · exact failStart_keepsThreads (hs := hs) ..
                · exact (chrTile_touches ..).threads (by decide) htook

theorem execChr_keepsThreads (e n s) (hs : State.ThreadsOk s) : onNext State.ThreadsOk (execChr e n s) := by
  unfold execChr
  change State.ThreadsOk _
  split
  · split
    · exact (endXUnit_touches ..).threads (by decide) hs
    · split
      · split
        · exact (endXUnit_touches ..).threads (by decide) hs
        · exact hs
      · exact hs
  · split
    · exact hs
    · split
      · exact hs
      · split
        · exact poisonStart_keepsThreads (hs := hs) ..
        · split
          · exact badStart_keepsThreads (hs := hs) ..
          · split
            · exact failStart_keepsThreads (hs := hs) ..
            · split
              · exact chrTake_keepsThreads (hs := hs) ..
              · split
                · split
                  · exact (fireXfer_touches ..).threads (by decide) (freeDests_keepsThreads (hs := hs) ..)
                  · exact failStart_keepsThreads (hs := hs) ..
                · exact (backToRow_touches ..).threads (by decide) (freeDests_keepsThreads (hs := hs) ..)

theorem execDispatch_keepsThreads (e n s) (hs : State.ThreadsOk s) : onNext State.ThreadsOk (execDispatch e n s) := by
  unfold execDispatch
  change State.ThreadsOk _
  split
  · split
    · exact hs
    · split
      · split
        · exact dispatchSent_keepsThreads (hs := hs) ..
        · split
          · exact hs
          · exact (dispatchRow_touches ..).threads (by decide) hs
      · split
        · exact hs
        · extract_lets +onlyGivenNames out
          exact (endXUnit_touches ..).threads (by decide) hs
  · split
    · exact hs
    · split
      · exact hs
      · split
        · exact poisonStart_keepsThreads (hs := hs) ..
        · split
          · split
            · exact failStart_keepsThreads (hs := hs) ..
            · extract_lets +onlyGivenNames s1
              have hs1 : s1.ThreadsOk := (tokRead_touches ..).threads (by decide) ((tokRead_touches ..).threads
                (by decide) hs)
              clear_value s1
              split
              · next x5 i s2 h7 =>
                  exact State.ThreadsOk.same (s := s2) ((Touches.of_snd h7 (fresh_touches ..)).threads (by decide)
                    ((beginXfer_touches ..).threads (by decide) hs1)) rfl
          · exact tileInStop_keepsThreads hs (TileIn.All.imp (fun _ k => k.threads (by decide) hs)
              (readTileTok_touches ..))
          · exact tileInStop_keepsThreads hs (TileIn.All.imp (fun _ k => k.threads (by decide) hs)
              (readTileTok_touches ..))

theorem execDispatchCreditUpdate_keepsThreads (pkg die idx s) (hs : State.ThreadsOk s) : onNext State.ThreadsOk
    (execDispatchCreditUpdate pkg die idx s) := by
  unfold execDispatchCreditUpdate
  change State.ThreadsOk _
  extract_lets +onlyGivenNames k c isOp
  split
  · exact (setChan_touches ..).threads (by decide) hs
  · exact hs

theorem execReduce_keepsThreads (e n s) (hs : State.ThreadsOk s) : onNext State.ThreadsOk (execReduce e n s) := by
  unfold execReduce
  change State.ThreadsOk _
  split
  · split
    · split
      · exact (endXUnit_touches ..).threads (by decide) hs
      · exact hs
    · exact hs
  · split
    · exact hs
    · extract_lets +onlyGivenNames t c0 g
      split
      · exact hs
      · split
        · exact poisonStart_keepsThreads (hs := hs) ..
        · split
          · exact failStart_keepsThreads (hs := hs) ..
          · split
            · exact failStart_keepsThreads (hs := hs) ..
            · split
              · exact failStart_keepsThreads (hs := hs) ..
              · split
                · extract_lets +onlyGivenNames c
                  split
                  · exact hs
                  · next x3 s' h8 =>
                      split
                      · next x4 i s1 h9 =>
                          refine State.ThreadsOk.same (s := s1) ?_ rfl
                          refine (Touches.of_snd h9 (fresh_touches ..)).threads (by decide) ?_
                          refine (beginXfer_touches ..).threads (by decide) ?_
                          refine (tokRead_touches ..).threads (by decide) ?_
                          have k := Touches.carry h8 (sendContrib_touches ..)
                          exact Touches.threads k (by decide) hs
                · exact tileInStop_keepsThreads hs (TileIn.All.imp (fun _ k => k.threads (by decide) hs)
                    (readTileTok_touches ..))

theorem execChunkWriteComplete_keepsThreads (n s) (hs : State.ThreadsOk s) : onNext State.ThreadsOk
    (execChunkWriteComplete n s) := by
  unfold execChunkWriteComplete
  change State.ThreadsOk _
  split
  · exact hs
  · split
    · exact hs
    · split
      · next x1 v h2 =>
          have k := Touches.carry h2 (chunkGate_touches ..)
          exact Touches.threads k (by decide) hs
      · extract_lets +onlyGivenNames t s1
        have hs1 : s1.ThreadsOk := (watchPassed_touches ..).threads (by decide) (hs.same rfl)
        clear_value s1
        extract_lets +onlyGivenNames s2
        have hs2 : s2.ThreadsOk := (writeTileImage_touches ..).threads (by decide) hs1
        clear_value s2
        extract_lets +onlyGivenNames s3
        have hs3 : s3.ThreadsOk := by
          unfold s3
          split
          · split
            · exact (writeScale_touches ..).threads (by decide) hs2
            · exact hs2
          · exact hs1
        clear_value s3
        exact (chunkDone_touches ..).threads (by decide) hs3

theorem retireStep_keepsThreads (s n) (hs : State.ThreadsOk s) : State.ThreadsOk (retireStep s n) := by
  unfold retireStep
  split
  · exact hs
  · extract_lets +onlyGivenNames s1
    have hs1 : s1.ThreadsOk := by
      unfold s1
      exact hs.same rfl
    extract_lets +onlyGivenNames t t' x1
    have hx1 : x1.ThreadsOk := (setTile_touches ..).threads (by decide) hs1
    clear_value x1
    split
    · split
      · exact freeTile_keepsThreads (hs := hs1) ..
      · exact hs1.same rfl
    · split
      · exact hx1.same rfl
      · exact (setTile_touches ..).threads (by decide) hs1

theorem execTileReadRetire_keepsThreads (n s) (hs : State.ThreadsOk s) : onNext State.ThreadsOk
    (execTileReadRetire n s) := by
  unfold execTileReadRetire
  exact (reevalAll_touches ..).threads (by decide) (retireStep_keepsThreads (hs := hs) ..)

theorem execBurstReceive_keepsThreads (e input chunk s) (hs : State.ThreadsOk s) : onNext State.ThreadsOk
    (execBurstReceive e input chunk s) := by
  unfold execBurstReceive
  change State.ThreadsOk _
  split
  · exact hs
  · split
    · split
      · next x3 v h3 =>
          have k := Touches.carry h3 (chunkGate_touches ..)
          exact Touches.threads k (by decide) hs
      · extract_lets +onlyGivenNames b b1 s1
        have hs1 : s1.ThreadsOk := (watchPassed_touches ..).threads (by decide) ((clearData_touches ..).threads
          (by decide) hs)
        clear_value s1
        split
        · split
          · exact hs1
          · exact (poisonConsumed_touches ..).threads (by decide) (abortRun_keepsThreads (hs :=
              ((countBurst_touches ..).threads (by decide) hs1)) ..)
        · split
          · exact faultRun_keepsThreads (hs := hs1) ..
          · exact (modAct_touches ..).threads (by decide) ((countBurst_touches ..).threads (by decide) hs1)
    · exact hs

theorem execMemoryTileRequest_keepsThreads (e bank s) (hs : State.ThreadsOk s) : onNext State.ThreadsOk
    (execMemoryTileRequest e bank s) := by
  unfold execMemoryTileRequest
  change State.ThreadsOk _
  extract_lets +onlyGivenNames m heads last ports
  split
  · exact hs
  · split
    · exact hs
    · extract_lets +onlyGivenNames s1
      have hs1 : s1.ThreadsOk := (setMemTile_touches ..).threads (by decide) hs
      clear_value s1
      extract_lets +onlyGivenNames s2
      have hs2 : s2.ThreadsOk := (writeUnit_touches ..).threads (by decide) hs1
      clear_value s2
      split
      · exact hs2.same rfl
      · exact hs1

theorem execHbmSectorAccess_keepsThreads (e n s) (hs : State.ThreadsOk s) : onNext State.ThreadsOk
    (execHbmSectorAccess e n s) := by
  unfold execHbmSectorAccess
  change State.ThreadsOk _
  split
  · exact hs
  · split
    · exact hs
    · split
      · extract_lets +onlyGivenNames x1
        refine (answerReq_touches ..).threads (by decide) ?_
        unfold x1
        exact (performReq_touches ..).threads (by decide) hs
      · split
        · exact hs
        · split
          · exact (raise_touches ..).threads (by decide) ((putReq_touches ..).threads (by decide) hs)
          · extract_lets +onlyGivenNames x1
            refine (answerReq_touches ..).threads (by decide) ?_
            unfold x1
            exact (performReq_touches ..).threads (by decide) hs

theorem execPageWalk_keepsThreads (e part vpage s) (hs : State.ThreadsOk s) : onNext State.ThreadsOk
    (execPageWalk e part vpage s) := by
  unfold execPageWalk
  change State.ThreadsOk _
  split
  · exact hs
  · extract_lets +onlyGivenNames r x1
    have hx1 : x1.ThreadsOk := by
      unfold x1
      unfold r
      exact (walkOn_touches ..).threads (by decide) hs
    clear_value x1
    split
    · exact hx1.same rfl
    · exact hx1.same rfl

theorem answerLaunch_keepsThreads (s pkg q idx lid) (hs : State.ThreadsOk s) : State.ThreadsOk
    (answerLaunch s pkg q idx lid) := by
  unfold answerLaunch
  refine (State.ThreadsOk.tmap hs fun k th ht => ?_).same rfl
  split
  · exact ht
  · exact ht

theorem execLaunchAccept_keepsThreads (pkg q s) (hs : State.ThreadsOk s) : onNext State.ThreadsOk
    (execLaunchAccept pkg q s) := by
  unfold execLaunchAccept
  change State.ThreadsOk _
  extract_lets +onlyGivenNames lq
  split
  · exact hs
  · split
    · extract_lets +onlyGivenNames r at_ s1
      have hs1 : s1.ThreadsOk := (coreReads_touches ..).threads (by decide) ((coreReads_touches ..).threads
        (by decide) hs)
      clear_value s1
      split
      · exact hs1
      · split
        · exact hs1
        · split
          · exact hs1
          · next x3 s' h5 =>
              extract_lets +onlyGivenNames rec0
              split
              · next x4 i s2 h6 =>
                  extract_lets +onlyGivenNames s3
                  have hs3 : s3.ThreadsOk := by
                    unfold s3
                    refine (setLaunch_touches ..).threads (by decide) ?_
                    refine (Touches.of_snd h6 (fresh_touches ..)).threads (by decide) ?_
                    have k := Touches.carry h5 (schedWrite_touches ..)
                    exact Touches.threads k (by decide) hs1
                  clear_value s3
                  exact answerLaunch_keepsThreads (hs := ((setLaunchQ_touches ..).threads (by decide) hs3)) ..
    · exact (coreReads_touches ..).threads (by decide) hs
    · exact hs

theorem execLaunchStart_keepsThreads (pkg s) (hs : State.ThreadsOk s) : onNext State.ThreadsOk
    (execLaunchStart pkg s) := by
  refine threads_getD (fun u hu => ?_) hs
  have k := Touches.carry hu (onSome.findSome (fun h : Nat × List (Nat × Launch) => startGang_touches s pkg h.1 h.2) _)
  exact Touches.threads k (by decide) hs

theorem execStreamCommandBegin_keepsThreads (e port slot s) (hs : State.ThreadsOk s) : onNext State.ThreadsOk
    (execStreamCommandBegin e port slot s) := by
  unfold execStreamCommandBegin
  change State.ThreadsOk _
  extract_lets +onlyGivenNames k
  split
  · exact hs
  · split
    · split
      · exact hs
      · split
        · split
          · exact (failCmd_touches ..).threads (by decide) hs
          · exact (setCmd_touches ..).threads (by decide) hs
        · split
          · exact (failCmd_touches ..).threads (by decide) hs
          · exact (setCmd_touches ..).threads (by decide) hs
    · split
      · exact hs
      · split
        · split
          · exact (failCmd_touches ..).threads (by decide) hs
          · exact (setCmd_touches ..).threads (by decide) hs
        · split
          · exact (failCmd_touches ..).threads (by decide) hs
          · exact (setCmd_touches ..).threads (by decide) hs

theorem putBurst_keepsThreads (s k slot c b bs d) (hs : State.ThreadsOk s) : State.ThreadsOk
    (putBurst s k slot c b bs d) := by
  unfold putBurst
  split
  · split
    · exact (failCmd_touches ..).threads (by decide) hs
    · exact (issueAll_touches ..).threads (by decide) ((setCmd_touches ..).threads (by decide) hs)
  · split
    · exact (failCmd_touches ..).threads (by decide) hs
    · next x s1 h1 =>
        refine stepBoth_keepsThreads (hs := ?_) ..
        have k1 := Touches.carry h1 (cmdWrite_touches ..)
        exact Touches.threads k1 (by decide) hs

theorem ackBurst_keepsThreads (s k slot c b d) (hs : State.ThreadsOk s) : State.ThreadsOk
    (ackBurst s k slot c b d) := by
  unfold ackBurst
  split
  · exact (failCmd_touches ..).threads (by decide) ((setCmd_touches ..).threads (by decide) hs)
  · exact stepBoth_keepsThreads (hs := (hs.same rfl)) ..

theorem moveBurst_keepsThreads (s k slot c b) (hs : State.ThreadsOk s) : State.ThreadsOk (moveBurst s k slot c b) := by
  unfold moveBurst
  extract_lets +onlyGivenNames open_
  split
  · exact (setCmd_touches ..).threads (by decide) (hs.same rfl)
  · split
    · exact hs
    · split
      · split
        · exact hs
        · exact (gotBurst_touches ..).threads (by decide) hs
      · split
        · exact putBurst_keepsThreads (hs := hs) ..
        · split
          · exact hs
          · exact ackBurst_keepsThreads (hs := hs) ..

theorem execStreamCommandComplete_keepsThreads (e port slot s) (hs : State.ThreadsOk s) : onNext State.ThreadsOk
    (execStreamCommandComplete e port slot s) := by
  unfold execStreamCommandComplete
  change State.ThreadsOk _
  split
  · exact hs
  · split
    · exact hs
    · split
      · exact (takeBurst_touches ..).threads (by decide) hs
      · exact moveBurst_keepsThreads (hs := hs) ..

theorem execFarListMove_keepsThreads (pkg die s) (hs : State.ThreadsOk s) : onNext State.ThreadsOk
    (execFarListMove pkg die s) := by
  unfold execFarListMove
  change State.ThreadsOk _
  extract_lets +onlyGivenNames now
  exact (modWheel_touches ..).threads (by decide) hs

theorem execDeviceTimeStep_keepsThreads (pkg ns s) (hs : State.ThreadsOk s) : onNext State.ThreadsOk
    (execDeviceTimeStep pkg ns s) := by
  unfold execDeviceTimeStep
  change State.ThreadsOk _
  extract_lets +onlyGivenNames t now x
  have hx : x.ThreadsOk := (modPkg_touches ..).threads (by decide) hs
  clear_value x
  extract_lets +onlyGivenNames lim
  split
  · exact hx.same rfl
  · exact (modPkg_touches ..).threads (by decide) hs

theorem execLoadReturn_keepsThreads (t n s) (hs : State.ThreadsOk s) :
    onNext State.ThreadsOk (execLoadReturn t n s) := by
  unfold execLoadReturn
  refine onNext_next ?_
  split
  · extract_lets s1
    refine modThr_keepsThreads ((dropReq_touches ..).threads (by decide) hs) fun th ht => ?_
    have h1 := ht.filter (·.id != n) (·.id != n)
    extract_lets th1 th2
    have h2 : th2.InOrder := by
      unfold th2
      split
      · exact clearAhead_inOrder h1
      · exact h1
    split
    · exact h2
    · split
      · exact h2
      · exact sbClear_inOrder (writeReg_inOrder h2)
  · exact hs

theorem endKill_keepsThreads (s pkg lid) (hs : State.ThreadsOk s) : State.ThreadsOk (endKill s pkg lid) := by
  unfold endKill
  extract_lets +onlyGivenNames die st part s1
  have hs1 : s1.ThreadsOk := (traceClass_touches ..).threads (by decide) (returnLaunch_keepsThreads (hs := hs) ..)
  clear_value s1
  extract_lets +onlyGivenNames s2
  have hs2 : s2.ThreadsOk := finishLaunch_keepsThreads (hs := hs1) ..
  clear_value s2
  extract_lets +onlyGivenNames counts n
  refine (State.ThreadsOk.tmap hs2 fun k th ht => ?_).same rfl
  split
  · exact ht
  · exact ht

theorem landAsync_keepsThreads (s t n a r) (hs : State.ThreadsOk s) : State.ThreadsOk (landAsync s t n a r) := by
  unfold landAsync
  refine modThr_keepsThreads hs fun th ht => ?_
  extract_lets th1
  split
  · exact ht
  · refine sbClear_inOrder ?_ ..
    refine writeReg_inOrder ?_ ..
    unfold th1
    refine clearAhead_inOrder ?_ ..
    exact ht

theorem execAsyncCompletion_keepsThreads (t n s) (hs : State.ThreadsOk s) : onNext State.ThreadsOk
    (execAsyncCompletion t n s) := by
  unfold execAsyncCompletion
  change State.ThreadsOk _
  split
  · exact hs
  · extract_lets +onlyGivenNames s'
    have hs' : s'.ThreadsOk := by
      unfold s'
      split
      · split
        · exact endKill_keepsThreads (hs := hs) ..
        · exact hs
      · exact hs
    clear_value s'
    split
    · exact hs
    · split
      · next x2 r s'' h2 =>
          refine landAsync_keepsThreads (hs := ?_) ..
          have k := fun hs => Touches.carry h2 (settleAsync_keepsThreads (hs := hs) ..)
          exact k hs'
      · exact hs

theorem tryChrd_keepsThreads (rd rs1 rs2 s) (hs : State.ThreadsOk s) : onSome State.ThreadsOk
    (tryChrd rd rs1 rs2 s) := by
  unfold tryChrd
  split
  · exact finish_keepsThreads (hs := hs) ..
  · split
    · exact opTrap_keepsThreads (hs := hs) ..
    · split
      · trivial
      · trivial
      · next x2 w s1 h2 =>
          change State.ThreadsOk _
          refine finish_keepsThreads (hs := ?_) ..
          have k1 := fun hs => Touches.carry h2 (takeFor_keepsThreads (hs := hs) ..)
          exact k1 hs
      · next x2 s1 h2 =>
          change State.ThreadsOk _
          have k1 := fun hs => Touches.carry h2 (takeFor_keepsThreads (hs := hs) ..)
          exact k1 hs

theorem tryBlocked_keepsThreads (i s) (hs : State.ThreadsOk s) : onSome State.ThreadsOk (tryBlocked i s) := by
  unfold tryBlocked
  split
  · exact trySbind_keepsThreads (hs := hs) ..
  · exact tryCpywait_keepsThreads (hs := hs) ..
  · exact tryBarwait_keepsThreads (hs := hs) ..
  · exact tryChwr_keepsThreads (hs := hs) ..
  · exact tryChrd_keepsThreads (hs := hs) ..
  · trivial

theorem execBlockingWaitEnd_keepsThreads (t s) (hs : State.ThreadsOk s) : onNext State.ThreadsOk
    (execBlockingWaitEnd t s) := by
  unfold execBlockingWaitEnd
  change State.ThreadsOk _
  extract_lets +onlyGivenNames th
  split
  · exact hs
  · split
    · exact hs
    · split
      · next x1 v h2 =>
          have k := fun hs => Touches.carry h2 (tryBlocked_keepsThreads (hs := hs) ..)
          exact k (modThr_keepsThreads (hs.same rfl) fun th1 ht => ht)
      · exact hs

theorem execPageSetMove_keepsThreads (pkg graph s) (hs : State.ThreadsOk s) : onNext State.ThreadsOk
    (execPageSetMove pkg graph s) := by
  unfold execPageSetMove
  change State.ThreadsOk _
  extract_lets +onlyGivenNames ps ds s'
  have hs' : s'.ThreadsOk := by
    unfold s'
    refine .foldl (fun u a hu => ?_) _ _ ?_
    · exact liftSet_keepsThreads (hs := hu) ..
    · exact hs
  clear_value s'
  split
  · exact hs
  · split
    · next x v h1 =>
        have k := Touches.carry h1 (restoreMoved_touches ..)
        exact Touches.threads k (by decide) hs'
    · refine .foldl (fun u a hu => ?_) _ _ ?_
      · exact (modGraph_touches ..).threads (by decide) hu
      · exact hs

theorem execSlotBoundary_keepsThreads (e s) (hs : State.ThreadsOk s) : onNext State.ThreadsOk
    (execSlotBoundary e s) := by
  unfold execSlotBoundary
  change State.ThreadsOk _
  extract_lets +onlyGivenNames now n t ent g last
  split
  · exact hs
  · split
    · exact (setSlotTab_touches ..).threads (by decide) hs
    · exact (setSlotTab_touches ..).threads (by decide) hs

theorem execLinkDeath_keepsThreads (e lostLock s) (hs : State.ThreadsOk s) : onNext State.ThreadsOk
    (execLinkDeath e lostLock s) := by
  unfold execLinkDeath
  change State.ThreadsOk _
  split
  · exact hs
  · split
    · exact (modPkg_touches ..).threads (by decide) hs
    · split
      · exact (killEnd_touches ..).threads (by decide) hs
      · exact (killEnd_touches ..).threads (by decide) ((killEnd_touches ..).threads (by decide) (hs.same rfl))

theorem execMilestoneAdopt_keepsThreads (e s) (hs : State.ThreadsOk s) : onNext State.ThreadsOk
    (execMilestoneAdopt e s) := by
  unfold execMilestoneAdopt
  change State.ThreadsOk _
  split
  · exact hs
  · exact (adoptMilestone_touches ..).threads (by decide) hs

theorem execPacketArrival_keepsThreads (n s) (hs : State.ThreadsOk s) : onNext State.ThreadsOk
    (execPacketArrival n s) := by
  unfold execPacketArrival
  change State.ThreadsOk _
  split
  · exact hs
  · split
    · exact hs
    · split
      · exact (leaveEngine_touches ..).threads (by decide) hs
      · split
        · exact hs
        · exact (arriveEngine_touches ..).threads (by decide) hs

theorem execReadResponse_keepsThreads (n s) (hs : State.ThreadsOk s) : onNext State.ThreadsOk
    (execReadResponse n s) := by
  unfold execReadResponse
  change State.ThreadsOk _
  split
  · split
    · extract_lets +onlyGivenNames s1
      have hs1 : s1.ThreadsOk := (dropInbox_touches ..).threads (by decide) hs
      clear_value s1
      split
      · exact (answerReq_touches ..).threads (by decide) hs1
      · exact hs1.same rfl
    · exact hs
  · exact hs

theorem execChannelWrite_keepsThreads (n s) (hs : State.ThreadsOk s) : onNext State.ThreadsOk
    (execChannelWrite n s) := by
  unfold execChannelWrite
  change State.ThreadsOk _
  split
  · split
    · extract_lets +onlyGivenNames k
      split
      · exact hs
      · split
        · exact (landWrite_touches ..).threads (by decide) hs
        · split
          · exact (dropInbox_touches ..).threads (by decide) hs
          · split
            · exact hs
            · exact (placeWrite_touches ..).threads (by decide) hs
    · exact hs
  · exact hs

theorem execReduceContribution_keepsThreads (n s) (hs : State.ThreadsOk s) : onNext State.ThreadsOk
    (execReduceContribution n s) := by
  unfold execReduceContribution
  change State.ThreadsOk _
  split
  · split
    · exact (addContrib_touches ..).threads (by decide) ((dropInbox_touches ..).threads (by decide) hs)
    · exact hs
  · exact hs

theorem execHbmRead_keepsThreads (n s) (hs : State.ThreadsOk s) : onNext State.ThreadsOk (execHbmRead n s) := by
  unfold execHbmRead
  change State.ThreadsOk _
  split
  · split
    · exact (performRemote_touches ..).threads (by decide) hs
    · exact hs
  · exact hs

theorem execElementClockGate_keepsThreads (e s) (hs : State.ThreadsOk s) : onNext State.ThreadsOk
    (execElementClockGate e s) := by
  unfold execElementClockGate
  change State.ThreadsOk _
  split
  · exact (modEng_touches ..).threads (by decide) hs
  · exact hs

theorem execElementWake_keepsThreads (e s) (hs : State.ThreadsOk s) : onNext State.ThreadsOk (execElementWake e s) := by
  unfold execElementWake
  change State.ThreadsOk _
  extract_lets +onlyGivenNames x reached
  split
  · exact (modEng_touches ..).threads (by decide) hs
  · split
    · exact hs
    · split
      · split
        · exact hs
        · exact (modEng_touches ..).threads (by decide) (hs.same rfl)
      · split
        · exact (modEng_touches ..).threads (by decide) hs
        · exact hs

theorem execPagePowerGate_keepsThreads (pkg die page s) (hs : State.ThreadsOk s) : onNext State.ThreadsOk
    (execPagePowerGate pkg die page s) := by
  unfold execPagePowerGate
  change State.ThreadsOk _
  extract_lets +onlyGivenNames here busy tiles
  split
  · exact hs
  · exact hs.same rfl

theorem execScrubRead_keepsThreads (b word s) (hs : State.ThreadsOk s) : onNext State.ThreadsOk
    (execScrubRead b word s) := by
  unfold execScrubRead
  change State.ThreadsOk _
  split
  · exact hs
  · extract_lets +onlyGivenNames e s1
    have hs1 : s1.ThreadsOk := (eccRead_touches ..).threads (by decide) hs
    clear_value s1
    split
    · exact hs
    · split
      · exact (setEcc_touches ..).threads (by decide) ((eccRead_touches ..).threads (by decide) hs)
      · split
        · split
          · exact hs1
          · exact (logError_touches ..).threads (by decide) ((poisonHbm_touches ..).threads (by decide) hs1)
        · exact hs

theorem execBankConversion_keepsThreads (b s) (hs : State.ThreadsOk s) : onNext State.ThreadsOk
    (execBankConversion b s) := by
  unfold execBankConversion
  change State.ThreadsOk _
  split
  · exact hs
  · refine (modMode_touches ..).threads (by decide) ?_
    refine .foldl (fun u a hu => ?_) _ _ ?_
    · exact (reencode_touches ..).threads (by decide) hu
    · exact hs

theorem execTraceWrite_keepsThreads (pkg die part s) (hs : State.ThreadsOk s) : onNext State.ThreadsOk
    (execTraceWrite pkg die part s) := by
  unfold execTraceWrite
  change State.ThreadsOk _
  extract_lets +onlyGivenNames c n a
  split
  · exact hs
  · split
    · exact hs
    · split
      · exact (setTraceCfg_touches ..).threads (by decide) hs
      · split
        · exact hs
        · exact (setTraceCfg_touches ..).threads (by decide) ((writeHbm_touches ..).threads (by decide) hs)

theorem execZbell_keepsThreads (pkg fn s) (hs : State.ThreadsOk s) : onNext State.ThreadsOk (execZbell pkg fn s) := by
  unfold execZbell
  change State.ThreadsOk _
  split
  · exact (modFn_touches ..).threads (by decide) hs
  · exact hs

theorem execZringWrite_keepsThreads (pkg fn v s) (hs : State.ThreadsOk s) : onNext State.ThreadsOk
    (execZringWrite pkg fn v s) := by
  unfold execZringWrite
  change State.ThreadsOk _
  split
  · exact hs
  · exact (modFn_touches ..).threads (by decide) hs

theorem execRegisterWrite_keepsThreads (pkg fn off v s) (hs : State.ThreadsOk s) : onNext State.ThreadsOk
    (execRegisterWrite pkg fn off v s) := by
  unfold execRegisterWrite
  change State.ThreadsOk _
  split
  · exact (modFn_touches ..).threads (by decide) hs
  · exact hs

theorem execZcmdRingPoll_keepsThreads (pkg fn s) (hs : State.ThreadsOk s) : onNext State.ThreadsOk
    (execZcmdRingPoll pkg fn s) := by
  unfold execZcmdRingPoll
  change State.ThreadsOk _
  extract_lets +onlyGivenNames f base depth
  split
  · exact hs
  · split
    · exact (svcReads_touches ..).threads (by decide) hs
    · extract_lets +onlyGivenNames r s1
      have hs1 : s1.ThreadsOk := (svcReads_touches ..).threads (by decide) ((svcReads_touches ..).threads
        (by decide) hs)
      clear_value s1
      split
      · exact hs1
      · split
        · exact (modFn_touches ..).threads (by decide) hs1
        · split
          · exact hs1
          · next x2 s' h4 =>
              extract_lets +onlyGivenNames c s2
              have hs2 : s2.ThreadsOk := by
                unfold s2
                refine (modFn_touches ..).threads (by decide) ?_
                have k := Touches.carry h4 (svcWrite_touches ..)
                exact Touches.threads k (by decide) hs1
              clear_value s2
              split
              · exact hs2
              · exact (complete_touches ..).threads (by decide) hs2

theorem execIdent_keepsThreads (pkg fn s) (hs : State.ThreadsOk s) : onNext State.ThreadsOk (execIdent pkg fn s) := by
  unfold execIdent
  exact runOp_keepsThreads hs fun c => (cmdDone_keepsThreads (hs := hs) ..)

theorem execAttest_keepsThreads (pkg fn s) (hs : State.ThreadsOk s) : onNext State.ThreadsOk (execAttest pkg fn s) := by
  unfold execAttest
  exact runOp_keepsThreads hs fun c => (cmdDone_keepsThreads (hs := hs) ..)

theorem execFwstage_keepsThreads (pkg fn s) (hs : State.ThreadsOk s) : onNext State.ThreadsOk
    (execFwstage pkg fn s) := by
  unfold execFwstage
  change State.ThreadsOk _
  refine runOp_keepsThreads hs fun c => ?_
  extract_lets +onlyGivenNames s1
  have hs1 : s1.ThreadsOk := (bufReads_touches ..).threads (by decide) hs
  clear_value s1
  split
  · exact cmdFail_keepsThreads (hs := hs1) ..
  · split
    · exact cmdFail_keepsThreads (hs := hs1) ..
    · exact cmdDone_keepsThreads (hs := ((modPkg_touches ..).threads (by decide) hs1)) ..

theorem dissolve_keepsThreads (s pkg p) (hs : State.ThreadsOk s) : State.ThreadsOk (dissolve s pkg p) := by
  unfold dissolve
  extract_lets +onlyGivenNames rs s1
  have hs1 : s1.ThreadsOk := by
    unfold s1
    refine (State.ThreadsOk.tmap hs fun k th ht => ?_).same rfl
    split
    · exact ht
    · exact ht
  clear_value s1
  exact (modPart_touches ..).threads (by decide) hs1

theorem scrubThreads_keepsThreads (s pkg p) (hs : State.ThreadsOk s) : State.ThreadsOk (scrubThreads s pkg p) := by
  unfold scrubThreads
  extract_lets +onlyGivenNames mine held
  refine (State.ThreadsOk.tmap hs fun k th ht => ?_).same rfl
  split
  · refine scrubThread_inOrder ?_ ..
  · exact ht

theorem scrubPages_keepsThreads (s pkg p) (hs : State.ThreadsOk s) : State.ThreadsOk (scrubPages s pkg p) := by
  unfold scrubPages
  extract_lets +onlyGivenNames mine l0mine ts cs s1
  have hs1 : s1.ThreadsOk := by
    unfold s1
    refine .foldl (fun u a hu => ?_) _ _ ?_
    · exact (freeChan_touches ..).threads (by decide) hu
    · refine .foldl (fun u a hu => ?_) _ _ ?_
      · exact freeTile_keepsThreads (hs := hu) ..
      · exact hs
  clear_value s1
  exact hs1.same rfl

theorem flrFinish_keepsThreads (s pkg p) (hs : State.ThreadsOk s) : State.ThreadsOk (flrFinish s pkg p) := by
  unfold flrFinish
  extract_lets +onlyGivenNames ls s1
  have hs1 : s1.ThreadsOk := by
    unfold s1
    refine .foldl (fun u a hu => ?_) _ _ ?_
    · exact endKill_keepsThreads (hs := hu) ..
    · exact hs
  clear_value s1
  extract_lets +onlyGivenNames gs s2
  have hs2 : s2.ThreadsOk := by
    unfold s2
    refine .foldl (fun u a hu => ?_) _ _ ?_
    · exact unloadGraph_keepsThreads (hs := hu) ..
    · exact hs1
  clear_value s2
  extract_lets +onlyGivenNames s3
  have hs3 : s3.ThreadsOk := scrubThreads_keepsThreads (hs := (scrubPages_keepsThreads (hs := hs2) ..)) ..
  clear_value s3
  extract_lets +onlyGivenNames s4
  have hs4 : s4.ThreadsOk := (modPart_touches ..).threads (by decide) hs3
  clear_value s4
  exact (reevalAll_touches ..).threads (by decide) ((zeroQueues_touches ..).threads (by decide) hs4)

theorem execPdestroy_keepsThreads (pkg fn s) (hs : State.ThreadsOk s) : onNext State.ThreadsOk
    (execPdestroy pkg fn s) := by
  unfold execPdestroy
  change State.ThreadsOk _
  refine runOp_keepsThreads hs fun c => ?_
  extract_lets +onlyGivenNames p q s1
  have hs1 : s1.ThreadsOk := flrKill_keepsThreads (hs := hs) ..
  clear_value s1
  split
  · exact cmdFail_keepsThreads (hs := hs) ..
  · split
    · exact cmdFail_keepsThreads (hs := hs) ..
    · split
      · exact flrKill_keepsThreads (hs := ((flrBegin_touches ..).threads (by decide) hs)) ..
      · split
        · exact hs1
        · exact cmdDone_keepsThreads (hs := (dissolve_keepsThreads (hs := ((completeJoined_touches ..).threads
            (by decide) (flrFinish_keepsThreads (hs := hs1) ..))) ..)) ..

theorem execFlr_keepsThreads (pkg fn s) (hs : State.ThreadsOk s) : onNext State.ThreadsOk (execFlr pkg fn s) := by
  unfold execFlr
  change State.ThreadsOk _
  refine runOp_keepsThreads hs fun c => ?_
  extract_lets +onlyGivenNames p q s1
  have hs1 : s1.ThreadsOk := flrKill_keepsThreads (hs := hs) ..
  clear_value s1
  split
  · exact cmdFail_keepsThreads (hs := hs) ..
  · split
    · exact cmdFail_keepsThreads (hs := hs) ..
    · split
      · exact cmdFail_keepsThreads (hs := hs) ..
      · split
        · exact flrKill_keepsThreads (hs := ((flrBegin_touches ..).threads (by decide) hs)) ..
        · split
          · exact hs1
          · exact cmdDone_keepsThreads (hs := ((completeJoined_touches ..).threads (by decide) (flrFinish_keepsThreads
              (hs := hs1) ..))) ..

theorem execPools_keepsThreads (pkg fn s) (hs : State.ThreadsOk s) : onNext State.ThreadsOk (execPools pkg fn s) := by
  unfold execPools
  change State.ThreadsOk _
  refine runOp_keepsThreads hs fun c => ?_
  refine onPart_keepsThreads hs fun p => ?_
  extract_lets +onlyGivenNames die base segs blocks n lb ln q p1 p2
  split
  · exact cmdFail_keepsThreads (hs := hs) ..
  · split
    · exact cmdFail_keepsThreads (hs := hs) ..
    · exact cmdDone_keepsThreads (hs := ((reevalAll_touches ..).threads (by decide) ((setPart_touches ..).threads
        (by decide) hs))) ..

theorem execFaults_keepsThreads (pkg fn s) (hs : State.ThreadsOk s) : onNext State.ThreadsOk (execFaults pkg fn s) := by
  unfold execFaults
  change State.ThreadsOk _
  refine runOp_keepsThreads hs fun c => ?_
  refine onPart_keepsThreads hs fun p => ?_
  extract_lets +onlyGivenNames w
  split
  · exact cmdFail_keepsThreads (hs := hs) ..
  · exact cmdDone_keepsThreads (hs := ((setPart_touches ..).threads (by decide) hs)) ..

theorem execSlots_keepsThreads (pkg fn s) (hs : State.ThreadsOk s) : onNext State.ThreadsOk (execSlots pkg fn s) := by
  unfold execSlots
  change State.ThreadsOk _
  refine runOp_keepsThreads hs fun c => ?_
  extract_lets +onlyGivenNames e s1
  have hs1 : s1.ThreadsOk := (svcReads_touches ..).threads (by decide) hs
  clear_value s1
  split
  · exact cmdFail_keepsThreads (hs := hs) ..
  · split
    · exact cmdFail_keepsThreads (hs := hs1) ..
    · split
      · exact cmdFail_keepsThreads (hs := hs1) ..
      · extract_lets +onlyGivenNames tab
        exact cmdDone_keepsThreads (hs := ((modSlotTab_touches ..).threads (by decide) hs1)) ..

theorem execLqset_keepsThreads (pkg fn s) (hs : State.ThreadsOk s) : onNext State.ThreadsOk (execLqset pkg fn s) := by
  unfold execLqset
  change State.ThreadsOk _
  refine runOp_keepsThreads hs fun c => ?_
  refine onPart_keepsThreads hs fun p => ?_
  extract_lets +onlyGivenNames p1 num base k slot
  split
  · exact cmdFail_keepsThreads (hs := hs) ..
  · split
    · exact cmdFail_keepsThreads (hs := hs) ..
    · exact cmdFail_keepsThreads (hs := hs) ..
    · next slot1 x q s1 h1 h2 =>
        refine cmdDone_keepsThreads (hs := ?_) ..
        refine (modLaunchQ_touches ..).threads (by decide) ?_
        have k1 := Touches.carry h2 (schedWrite_touches ..)
        exact Touches.threads k1 (by decide) hs

theorem execCqset_keepsThreads (pkg fn s) (hs : State.ThreadsOk s) : onNext State.ThreadsOk (execCqset pkg fn s) := by
  unfold execCqset
  change State.ThreadsOk _
  refine runOp_keepsThreads hs fun c => ?_
  refine onPart_keepsThreads hs fun p => ?_
  extract_lets +onlyGivenNames p1 die q base k
  split
  · exact cmdFail_keepsThreads (hs := hs) ..
  · split
    · exact cmdFail_keepsThreads (hs := hs) ..
    · exact cmdDone_keepsThreads (hs := ((setCopyQ_touches ..).threads (by decide) ((writeCopy_touches ..).threads
        (by decide) hs))) ..

theorem execRoutes_keepsThreads (pkg fn s) (hs : State.ThreadsOk s) : onNext State.ThreadsOk (execRoutes pkg fn s) := by
  unfold execRoutes
  change State.ThreadsOk _
  refine runOp_keepsThreads hs fun c => ?_
  extract_lets +onlyGivenNames n s1
  have hs1 : s1.ThreadsOk := (bufReads_touches ..).threads (by decide) hs
  clear_value s1
  split
  · exact cmdFail_keepsThreads (hs := hs1) ..
  · refine cmdDone_keepsThreads (hs := ?_) ..
    refine .foldl (fun u a hu => ?_) _ _ ?_
    · exact (modStrait_touches ..).threads (by decide) hu
    · exact hs1

theorem execMstone_keepsThreads (pkg fn s) (hs : State.ThreadsOk s) : onNext State.ThreadsOk (execMstone pkg fn s) := by
  unfold execMstone
  change State.ThreadsOk _
  refine runOp_keepsThreads hs fun c => ?_
  extract_lets +onlyGivenNames d l others m s1
  have hs1 : s1.ThreadsOk := (modPkg_touches ..).threads (by decide) hs
  clear_value s1
  split
  · exact cmdFail_keepsThreads (hs := hs) ..
  · split
    · exact cmdFail_keepsThreads (hs := hs) ..
    · refine cmdDone_keepsThreads (hs := ?_) ..
      refine .foldl (fun u a hu => ?_) _ _ ?_
      · exact (joinMilestone_touches ..).threads (by decide) hu
      · exact hs1

theorem execTlbinv_keepsThreads (pkg fn s) (hs : State.ThreadsOk s) : onNext State.ThreadsOk (execTlbinv pkg fn s) := by
  unfold execTlbinv
  change State.ThreadsOk _
  refine runOp_keepsThreads hs fun c => ?_
  extract_lets +onlyGivenNames p all part page s1
  have hs1 : s1.ThreadsOk := by
    unfold s1
    exact hs.same rfl
  clear_value s1
  split
  · exact cmdFail_keepsThreads (hs := hs) ..
  · split
    · exact cmdFail_keepsThreads (hs := hs) ..
    · split
      · exact hs
      · split
        · exact hs1
        · exact cmdDone_keepsThreads (hs := hs1) ..

theorem execReadObject_keepsThreads (pkg fn s) (hs : State.ThreadsOk s) : onNext State.ThreadsOk
    (execReadObject pkg fn s) := by
  unfold execReadObject
  change State.ThreadsOk _
  refine runOp_keepsThreads hs fun c => ?_
  split
  · exact cmdFail_keepsThreads (hs := hs) ..
  · split
    · exact hs
    · exact cmdDone_keepsThreads (hs := hs) ..

theorem execDbgsetTrace_keepsThreads (pkg fn s) (hs : State.ThreadsOk s) : onNext State.ThreadsOk
    (execDbgsetTrace pkg fn s) := by
  unfold execDbgsetTrace
  change State.ThreadsOk _
  refine runDbg_keepsThreads hs fun c => ?_
  extract_lets +onlyGivenNames k p s1
  have hs1 : s1.ThreadsOk := (bufReads_touches ..).threads (by decide) hs
  clear_value s1
  split
  · exact cmdFail_keepsThreads (hs := hs) ..
  · split
    · exact cmdFail_keepsThreads (hs := hs) ..
    · split
      · exact hs
      · split
        · exact cmdFail_keepsThreads (hs := hs1) ..
        · split
          · exact cmdFail_keepsThreads (hs := hs1) ..
          · exact cmdDone_keepsThreads (hs := ((setTraceCfg_touches ..).threads (by decide) hs1)) ..

theorem execDbgsetWatch_keepsThreads (pkg fn s) (hs : State.ThreadsOk s) : onNext State.ThreadsOk
    (execDbgsetWatch pkg fn s) := by
  unfold execDbgsetWatch
  change State.ThreadsOk _
  refine runDbg_keepsThreads hs fun c => ?_
  extract_lets +onlyGivenNames k e s1
  have hs1 : s1.ThreadsOk := (bufReads_touches ..).threads (by decide) hs
  clear_value s1
  split
  · exact cmdFail_keepsThreads (hs := hs) ..
  · split
    · exact cmdFail_keepsThreads (hs := hs) ..
    · split
      · exact cmdFail_keepsThreads (hs := hs1) ..
      · exact cmdDone_keepsThreads (hs := ((setWatch_touches ..).threads (by decide) hs1)) ..

theorem execDbgsetBreakBit_keepsThreads (pkg fn s) (hs : State.ThreadsOk s) : onNext State.ThreadsOk
    (execDbgsetBreakBit pkg fn s) := by
  unfold execDbgsetBreakBit
  change State.ThreadsOk _
  refine runDbg_keepsThreads hs fun c => ?_
  extract_lets +onlyGivenNames k s1
  have hs1 : s1.ThreadsOk := (bufReads_touches ..).threads (by decide) hs
  clear_value s1
  split
  · exact cmdFail_keepsThreads (hs := hs) ..
  · split
    · exact cmdFail_keepsThreads (hs := hs) ..
    · split
      · exact cmdFail_keepsThreads (hs := hs1) ..
      · exact cmdDone_keepsThreads (hs := ((setBreak_touches ..).threads (by decide) hs1)) ..

theorem execThreadNormalStop_keepsThreads (pkg fn s) (hs : State.ThreadsOk s) : onNext State.ThreadsOk
    (execThreadNormalStop pkg fn s) := by
  unfold execThreadNormalStop
  change State.ThreadsOk _
  refine runThr_keepsThreads hs fun c t => ?_
  extract_lets +onlyGivenNames th
  split
  · refine cmdDone_keepsThreads (hs := ?_) ..
    refine setThr_threads_of ?_ ?_
    · exact hs
    · exact hs.order _
  · change State.ThreadsOk _
    refine setThr_threads_of ?_ ?_
    · exact hs
    · exact hs.order _

theorem execThreadResume_keepsThreads (pkg fn s) (hs : State.ThreadsOk s) : onNext State.ThreadsOk
    (execThreadResume pkg fn s) := by
  unfold execThreadResume
  exact runThr_keepsThreads hs fun c t => (cmdDone_keepsThreads (hs := (modThr_keepsThreads hs fun th ht => ht)) ..)

theorem execThreadRegisterWrite_keepsThreads (pkg fn s) (hs : State.ThreadsOk s) : onNext State.ThreadsOk
    (execThreadRegisterWrite pkg fn s) := by
  unfold execThreadRegisterWrite
  change State.ThreadsOk _
  refine runThr_keepsThreads hs fun c t => ?_
  extract_lets +onlyGivenNames th v r
  split
  · exact cmdFail_keepsThreads (hs := hs) ..
  · split
    · refine cmdDone_keepsThreads (hs := ?_) ..
      refine setThr_threads_of ?_ ?_
      · exact hs
      · refine pokeReg_inOrder ?_ ..
        unfold th
        exact hs.order _
    · split
      · refine cmdDone_keepsThreads (hs := ?_) ..
        refine setThr_threads_of ?_ ?_
        · exact hs
        · refine writeCsr_inOrder ?_ ..
          unfold th
          exact hs.order _
      · split
        · refine cmdDone_keepsThreads (hs := ?_) ..
          refine setThr_threads_of ?_ ?_
          · exact hs
          · exact hs.order _
        · exact cmdFail_keepsThreads (hs := hs) ..

theorem execScrub_keepsThreads (pkg fn s) (hs : State.ThreadsOk s) : onNext State.ThreadsOk (execScrub pkg fn s) := by
  unfold execScrub
  change State.ThreadsOk _
  refine runOp_keepsThreads hs fun c => ?_
  extract_lets +onlyGivenNames th w s1
  have hs1 : s1.ThreadsOk := (modPkg_touches ..).threads (by decide) hs
  clear_value s1
  split
  · exact cmdFail_keepsThreads (hs := hs) ..
  · refine cmdDone_keepsThreads (hs := ?_) ..
    refine .foldl (fun u a hu => ?_) _ _ ?_
    · exact (pendIfDue_touches ..).threads (by decide) hu
    · exact hs1

theorem execPower_keepsThreads (pkg fn s) (hs : State.ThreadsOk s) : onNext State.ThreadsOk (execPower pkg fn s) := by
  unfold execPower
  change State.ThreadsOk _
  refine runOp_keepsThreads hs fun c => ?_
  extract_lets +onlyGivenNames w
  split
  · exact cmdFail_keepsThreads (hs := hs) ..
  · exact cmdDone_keepsThreads (hs := ((modPkg_touches ..).threads (by decide) hs)) ..

theorem execThermalThrottle_keepsThreads (pkg lower s) (hs : State.ThreadsOk s) : onNext State.ThreadsOk
    (execThermalThrottle pkg lower s) := by
  unfold execThermalThrottle
  change State.ThreadsOk _
  extract_lets +onlyGivenNames k
  split
  · split
    · exact hs
    · exact (modPkg_touches ..).threads (by decide) hs
  · split
    · exact hs
    · exact (modPkg_touches ..).threads (by decide) hs

theorem execThermalShutdown_keepsThreads (pkg s) (hs : State.ThreadsOk s) : onNext State.ThreadsOk
    (execThermalShutdown pkg s) := by
  unfold execThermalShutdown
  change State.ThreadsOk _
  extract_lets +onlyGivenNames k
  split
  · exact hs
  · exact (setPkg_touches ..).threads (by decide) (clearPkg_keepsThreads (hs := hs) ..)

theorem execColdReset_keepsThreads (pkg s) (hs : State.ThreadsOk s) : onNext State.ThreadsOk (execColdReset pkg s) := by
  unfold execColdReset
  change State.ThreadsOk _
  extract_lets +onlyGivenNames k ok patch
  split
  · exact hs
  · exact (freeStep_touches ..).threads (by decide) ((setPkg_touches ..).threads (by decide) (clearPkg_keepsThreads
      (hs := hs) ..))

theorem execSub_keepsThreads (rd rs1 rs2 s) (hs : State.ThreadsOk s) : onNext State.ThreadsOk
    (execSub rd rs1 rs2 s) := by
  unfold execSub
  exact regOp_keepsThreads (hs := hs) ..

theorem execOr_keepsThreads (rd rs1 rs2 s) (hs : State.ThreadsOk s) : onNext State.ThreadsOk (execOr rd rs1 rs2 s) := by
  unfold execOr
  exact regOp_keepsThreads (hs := hs) ..

theorem execXor_keepsThreads (rd rs1 rs2 s) (hs : State.ThreadsOk s) : onNext State.ThreadsOk
    (execXor rd rs1 rs2 s) := by
  unfold execXor
  exact regOp_keepsThreads (hs := hs) ..

theorem execShl_keepsThreads (rd rs1 rs2 s) (hs : State.ThreadsOk s) : onNext State.ThreadsOk
    (execShl rd rs1 rs2 s) := by
  unfold execShl
  exact regOp_keepsThreads (hs := hs) ..

theorem execMul_keepsThreads (rd rs1 rs2 s) (hs : State.ThreadsOk s) : onNext State.ThreadsOk
    (execMul rd rs1 rs2 s) := by
  unfold execMul
  exact regOp_keepsThreads (hs := hs) ..

theorem execMulh_keepsThreads (rd rs1 rs2 s) (hs : State.ThreadsOk s) : onNext State.ThreadsOk
    (execMulh rd rs1 rs2 s) := by
  unfold execMulh
  exact regOp_keepsThreads (hs := hs) ..

theorem execRem_keepsThreads (rd rs1 rs2 s) (hs : State.ThreadsOk s) : onNext State.ThreadsOk
    (execRem rd rs1 rs2 s) := by
  unfold execRem
  exact regOp_keepsThreads (hs := hs) ..

theorem execRemn_keepsThreads (rd rs1 rs2 s) (hs : State.ThreadsOk s) : onNext State.ThreadsOk
    (execRemn rd rs1 rs2 s) := by
  unfold execRemn
  exact regOp_keepsThreads (hs := hs) ..

theorem execMin_keepsThreads (rd rs1 rs2 s) (hs : State.ThreadsOk s) : onNext State.ThreadsOk
    (execMin rd rs1 rs2 s) := by
  unfold execMin
  exact regOp_keepsThreads (hs := hs) ..

theorem execMax_keepsThreads (rd rs1 rs2 s) (hs : State.ThreadsOk s) : onNext State.ThreadsOk
    (execMax rd rs1 rs2 s) := by
  unfold execMax
  exact regOp_keepsThreads (hs := hs) ..

theorem execMinn_keepsThreads (rd rs1 rs2 s) (hs : State.ThreadsOk s) : onNext State.ThreadsOk
    (execMinn rd rs1 rs2 s) := by
  unfold execMinn
  exact regOp_keepsThreads (hs := hs) ..

theorem execMaxn_keepsThreads (rd rs1 rs2 s) (hs : State.ThreadsOk s) : onNext State.ThreadsOk
    (execMaxn rd rs1 rs2 s) := by
  unfold execMaxn
  exact regOp_keepsThreads (hs := hs) ..

theorem execSlt_keepsThreads (rd rs1 rs2 s) (hs : State.ThreadsOk s) : onNext State.ThreadsOk
    (execSlt rd rs1 rs2 s) := by
  unfold execSlt
  exact regOp_keepsThreads (hs := hs) ..

theorem execAddi_keepsThreads (rd rs1 imm s) (hs : State.ThreadsOk s) : onNext State.ThreadsOk
    (execAddi rd rs1 imm s) := by
  unfold execAddi
  exact finish_keepsThreads (hs := hs) ..

theorem execAndi_keepsThreads (rd rs1 imm s) (hs : State.ThreadsOk s) : onNext State.ThreadsOk
    (execAndi rd rs1 imm s) := by
  unfold execAndi
  exact finish_keepsThreads (hs := hs) ..

theorem execOri_keepsThreads (rd rs1 imm s) (hs : State.ThreadsOk s) : onNext State.ThreadsOk
    (execOri rd rs1 imm s) := by
  unfold execOri
  exact finish_keepsThreads (hs := hs) ..

theorem execShri_keepsThreads (rd rs1 sh s) (hs : State.ThreadsOk s) : onNext State.ThreadsOk
    (execShri rd rs1 sh s) := by
  unfold execShri
  exact finish_keepsThreads (hs := hs) ..

theorem execLui_keepsThreads (rd imm s) (hs : State.ThreadsOk s) : onNext State.ThreadsOk (execLui rd imm s) := by
  unfold execLui
  exact finish_keepsThreads (hs := hs) ..

theorem execJal_keepsThreads (rd imm s) (hs : State.ThreadsOk s) : onNext State.ThreadsOk (execJal rd imm s) := by
  unfold execJal
  change State.ThreadsOk _
  refine modCur_keepsThreads hs fun th ht => ?_
  refine goTo_inOrder ?_ ..
  refine writeReg_inOrder ?_ ..
  exact ht

theorem execJalr_keepsThreads (rd rs1 imm s) (hs : State.ThreadsOk s) : onNext State.ThreadsOk
    (execJalr rd rs1 imm s) := by
  unfold execJalr
  change State.ThreadsOk _
  refine modCur_keepsThreads hs fun th ht => ?_
  refine goTo_inOrder ?_ ..
  refine writeReg_inOrder ?_ ..
  exact ht

theorem execBeq_keepsThreads (rs1 rs2 imm s) (hs : State.ThreadsOk s) : onNext State.ThreadsOk
    (execBeq rs1 rs2 imm s) := by
  unfold execBeq
  exact branch_keepsThreads (hs := hs) ..

theorem execBne_keepsThreads (rs1 rs2 imm s) (hs : State.ThreadsOk s) : onNext State.ThreadsOk
    (execBne rs1 rs2 imm s) := by
  unfold execBne
  exact branch_keepsThreads (hs := hs) ..

theorem execBltn_keepsThreads (rs1 rs2 imm s) (hs : State.ThreadsOk s) : onNext State.ThreadsOk
    (execBltn rs1 rs2 imm s) := by
  unfold execBltn
  exact branch_keepsThreads (hs := hs) ..

theorem execLd8n_keepsThreads (rd rs1 imm s) (hs : State.ThreadsOk s) : onNext State.ThreadsOk
    (execLd8n rd rs1 imm s) := by
  unfold execLd8n
  exact issueLoad_keepsThreads (hs := hs) ..

theorem execLd16_keepsThreads (rd rs1 imm s) (hs : State.ThreadsOk s) : onNext State.ThreadsOk
    (execLd16 rd rs1 imm s) := by
  unfold execLd16
  exact issueLoad_keepsThreads (hs := hs) ..

theorem execLd16n_keepsThreads (rd rs1 imm s) (hs : State.ThreadsOk s) : onNext State.ThreadsOk
    (execLd16n rd rs1 imm s) := by
  unfold execLd16n
  exact issueLoad_keepsThreads (hs := hs) ..

theorem execLd64_keepsThreads (rd rs1 imm s) (hs : State.ThreadsOk s) : onNext State.ThreadsOk
    (execLd64 rd rs1 imm s) := by
  unfold execLd64
  exact issueLoad_keepsThreads (hs := hs) ..

theorem execSt16_keepsThreads (src rs1 imm s) (hs : State.ThreadsOk s) : onNext State.ThreadsOk
    (execSt16 src rs1 imm s) := by
  unfold execSt16
  exact issueStore_keepsThreads (hs := hs) ..

theorem execSt32_keepsThreads (src rs1 imm s) (hs : State.ThreadsOk s) : onNext State.ThreadsOk
    (execSt32 src rs1 imm s) := by
  unfold execSt32
  exact issueStore_keepsThreads (hs := hs) ..

theorem execSt64_keepsThreads (src rs1 imm s) (hs : State.ThreadsOk s) : onNext State.ThreadsOk
    (execSt64 src rs1 imm s) := by
  unfold execSt64
  exact issueStore_keepsThreads (hs := hs) ..

theorem execAmoadd_keepsThreads (rd rs1 rs2 ord s) (hs : State.ThreadsOk s) : onNext State.ThreadsOk
    (execAmoadd rd rs1 rs2 ord s) := by
  unfold execAmoadd
  exact issueAmo_keepsThreads (hs := hs) ..

theorem execAmoor_keepsThreads (rd rs1 rs2 ord s) (hs : State.ThreadsOk s) : onNext State.ThreadsOk
    (execAmoor rd rs1 rs2 ord s) := by
  unfold execAmoor
  exact issueAmo_keepsThreads (hs := hs) ..

theorem execAmoxor_keepsThreads (rd rs1 rs2 ord s) (hs : State.ThreadsOk s) : onNext State.ThreadsOk
    (execAmoxor rd rs1 rs2 ord s) := by
  unfold execAmoxor
  exact issueAmo_keepsThreads (hs := hs) ..

theorem execAmoswp_keepsThreads (rd rs1 rs2 ord s) (hs : State.ThreadsOk s) : onNext State.ThreadsOk
    (execAmoswp rd rs1 rs2 ord s) := by
  unfold execAmoswp
  exact issueAmo_keepsThreads (hs := hs) ..

theorem execAmomax_keepsThreads (rd rs1 rs2 ord s) (hs : State.ThreadsOk s) : onNext State.ThreadsOk
    (execAmomax rd rs1 rs2 ord s) := by
  unfold execAmomax
  exact issueAmo_keepsThreads (hs := hs) ..

theorem execAmoinc_keepsThreads (rd rs1 rs2 ord s) (hs : State.ThreadsOk s) : onNext State.ThreadsOk
    (execAmoinc rd rs1 rs2 ord s) := by
  unfold execAmoinc
  exact issueAmo_keepsThreads (hs := hs) ..

theorem execTrap_keepsThreads (imm s) (hs : State.ThreadsOk s) : onNext State.ThreadsOk (execTrap imm s) := by
  unfold execTrap
  exact syncTrap_keepsThreads (hs := hs) ..

theorem execNop_keepsThreads (s) (hs : State.ThreadsOk s) : onNext State.ThreadsOk (execNop s) := by
  unfold execNop
  change State.ThreadsOk _
  refine modCur_keepsThreads hs fun th ht => ?_
  refine advance_inOrder ?_ ..
  exact ht

theorem execEret_keepsThreads (s) (hs : State.ThreadsOk s) : onNext State.ThreadsOk (execEret s) := by
  unfold execEret
  change State.ThreadsOk _
  split
  · exact trapReturn_keepsThreads (hs := hs) ..
  · exact trapCur_keepsThreads (hs := hs) ..

theorem execWfe_keepsThreads (s) (hs : State.ThreadsOk s) : onNext State.ThreadsOk (execWfe s) := by
  unfold execWfe
  change State.ThreadsOk _
  split
  · refine modCur_keepsThreads hs fun th ht => ?_
    extract_lets x
    exact ht
  · exact hs

theorem execCsrset_keepsThreads (rs1 csr s) (hs : State.ThreadsOk s) : onNext State.ThreadsOk
    (execCsrset rs1 csr s) := by
  unfold execCsrset
  extract_lets +onlyGivenNames old
  change State.ThreadsOk _
  refine modCur_keepsThreads hs fun th ht => ?_
  refine advance_inOrder ?_ ..
  refine writeCsr_inOrder ?_ ..
  exact ht

theorem execGload_keepsThreads (rd rs1 s) (hs : State.ThreadsOk s) : onNext State.ThreadsOk (execGload rd rs1 s) := by
  unfold execGload
  change State.ThreadsOk _
  split
  · exact hs
  · extract_lets +onlyGivenNames th va o
    split
    · exact opTrap_keepsThreads (hs := hs) ..
    · split
      · exact opTrap_keepsThreads (hs := hs) ..
      · extract_lets +onlyGivenNames hdr secs u
        have hu : u.ThreadsOk := by
          unfold u
          refine (readPieces_touches ..).threads (by decide) ?_
          unfold hdr
          exact (readPieces_touches ..).threads (by decide) hs
        clear_value u
        split
        · refine asyncDone_keepsThreads (hs := ?_) ..
          unfold hdr
          exact (readPieces_touches ..).threads (by decide) hs
        · split
          · refine asyncDone_keepsThreads (hs := ?_) ..
            refine (readPieces_touches ..).threads (by decide) ?_
            unfold hdr
            exact (readPieces_touches ..).threads (by decide) hs
          · split
            · exact opTrap_keepsThreads (hs := hs) ..
            · extract_lets +onlyGivenNames im i r
              split
              · exact asyncDone_keepsThreads (hs := hu) ..
              · split
                · exact asyncDone_keepsThreads (hs := hu) ..
                · split
                  · refine asyncDone_keepsThreads (hs := ?_) ..
                    unfold r
                    exact (readParts_touches ..).threads (by decide) hs
                  · split
                    · next x5 s1 h9 =>
                        have k := Touches.carry h9 (loadGraph_touches ..)
                        exact Touches.threads k (by decide) hs
                    · next x5 s1 w h9 =>
                        refine asyncDone_keepsThreads (hs := ?_) ..
                        refine (readParts_touches ..).threads (by decide) ?_
                        have k := Touches.carry h9 (loadGraph_touches ..)
                        exact Touches.threads k (by decide) hs

theorem launchRecord_keepsThreads (s rd r) (hs : State.ThreadsOk s) : State.ThreadsOk (launchRecord s rd r) := by
  unfold launchRecord
  split
  · exact asyncDone_keepsThreads (hs := hs) ..
  · split
    · exact asyncDone_keepsThreads (hs := hs) ..
    · split
      · exact opTrap_keepsThreads (hs := hs) ..
      · exact asyncDone_keepsThreads (hs := hs) ..
      · next x2 i s1 h2 =>
          refine asyncIssue_keepsThreads (hs := ?_) ..
          have k := Touches.carry h2 (appendSlot_touches ..)
          exact Touches.threads k (by decide) hs

theorem execGlaunch_keepsThreads (rd rs1 rs2 s) (hs : State.ThreadsOk s) : onNext State.ThreadsOk
    (execGlaunch rd rs1 rs2 s) := by
  unfold execGlaunch
  change State.ThreadsOk _
  extract_lets +onlyGivenNames h va
  split
  · exact hs
  · split
    · exact asyncDone_keepsThreads (hs := hs) ..
    · split
      · exact launchRecord_keepsThreads (hs := hs) ..
      · split
        · exact opTrap_keepsThreads (hs := hs) ..
        · extract_lets +onlyGivenNames b x1
          split
          · refine asyncDone_keepsThreads (hs := ?_) ..
            unfold b
            exact (readPieces_touches ..).threads (by decide) hs
          · refine launchRecord_keepsThreads (hs := ?_) ..
            unfold b
            exact (readPieces_touches ..).threads (by decide) hs

theorem execGkill_keepsThreads (rd rs1 s) (hs : State.ThreadsOk s) : onNext State.ThreadsOk (execGkill rd rs1 s) := by
  unfold execGkill
  change State.ThreadsOk _
  split
  · exact hs
  · extract_lets +onlyGivenNames lid
    split
    · exact asyncDone_keepsThreads (hs := hs) ..
    · split
      · exact hs
      · split
        · exact asyncIssue_keepsThreads (hs := hs) ..
        · extract_lets +onlyGivenNames r
          refine asyncIssue_keepsThreads (hs := ?_) ..
          unfold r
          exact beginKill_keepsThreads (hs := hs) ..

theorem execInject_keepsThreads (rd rs1 s) (hs : State.ThreadsOk s) : onNext State.ThreadsOk (execInject rd rs1 s) := by
  unfold execInject
  change State.ThreadsOk _
  split
  · exact hs
  · split
    · exact opTrap_keepsThreads (hs := hs) ..
    · extract_lets +onlyGivenNames b d u
      have hu : u.ThreadsOk := by
        unfold u
        unfold b
        exact (readPieces_touches ..).threads (by decide) hs
      clear_value u
      split
      · exact asyncDone_keepsThreads (hs := hu) ..
      · split
        · exact asyncDone_keepsThreads (hs := hu) ..
        · split
          · split
            · exact asyncDone_keepsThreads (hs := hu) ..
            · refine asyncDone_keepsThreads (hs := ?_) ..
              refine modCur_keepsThreads hu fun th ht => ?_
              refine holdEffect_inOrder ?_ ..
              exact ht
          · split
            · next x1 i s1 h5 =>
                split
                · exact asyncDone_keepsThreads (hs := hu) ..
                · next x2 v h6 =>
                    split
                    · exact hs
                    · refine asyncIssue_keepsThreads (hs := ?_) ..
                      have k := Touches.carry h6 (inject_touches ..)
                      exact Touches.threads k (by decide) ((Touches.of_snd h5 (fresh_touches ..)).threads
                        (by decide) hu)

theorem execPurge_keepsThreads (rd rs1 rs2 s) (hs : State.ThreadsOk s) : onNext State.ThreadsOk
    (execPurge rd rs1 rs2 s) := by
  unfold execPurge
  change State.ThreadsOk _
  split
  · exact hs
  · extract_lets +onlyGivenNames v c lid k
    split
    · exact asyncDone_keepsThreads (hs := hs) ..
    · split
      · exact asyncDone_keepsThreads (hs := hs) ..
      · split
        · exact asyncDone_keepsThreads (hs := hs) ..
        · split
          · exact asyncDone_keepsThreads (hs := hs) ..
          · split
            · next x2 s1 w h5 =>
                refine asyncDone_keepsThreads (hs := ?_) ..
                have k1 := fun hs => Touches.carry h5 (tryPurge_keepsThreads (hs := hs) ..)
                exact k1 hs
            · exact asyncIssue_keepsThreads (hs := hs) ..

theorem execSavec_keepsThreads (rd rs1 rs2 s) (hs : State.ThreadsOk s) : onNext State.ThreadsOk
    (execSavec rd rs1 rs2 s) := by
  unfold execSavec
  change State.ThreadsOk _
  extract_lets +onlyGivenNames h key s1
  have hs1 : s1.ThreadsOk := (settleFreeze_touches ..).threads (by decide) hs
  clear_value s1
  split
  · exact hs
  · split
    · exact asyncDone_keepsThreads (hs := hs) ..
    · split
      · exact hs1
      · split
        · exact asyncDone_keepsThreads (hs := hs1) ..
        · split
          · exact hs1
          · extract_lets +onlyGivenNames d bs
            split
            · exact asyncDone_keepsThreads (hs := hs1) ..
            · split
              · exact asyncDone_keepsThreads (hs := hs1) ..
              · split
                · exact hs1
                · split
                  · exact opTrap_keepsThreads (hs := hs1) ..
                  · exact asyncDone_keepsThreads (hs := ((setGraph_touches ..).threads (by decide)
                      ((writePieces_touches ..).threads (by decide) hs1))) ..

theorem execRestc_keepsThreads (rd rs1 s) (hs : State.ThreadsOk s) : onNext State.ThreadsOk (execRestc rd rs1 s) := by
  unfold execRestc
  change State.ThreadsOk _
  split
  · exact hs
  · extract_lets +onlyGivenNames va
    split
    · exact opTrap_keepsThreads (hs := hs) ..
    · extract_lets +onlyGivenNames n
      split
      · exact opTrap_keepsThreads (hs := hs) ..
      · extract_lets +onlyGivenNames b s1
        have hs1 : s1.ThreadsOk := by
          unfold s1
          unfold b
          exact (readPieces_touches ..).threads (by decide) hs
        clear_value s1
        split
        · refine asyncDone_keepsThreads (hs := ?_) ..
          unfold b
          exact (readPieces_touches ..).threads (by decide) hs
        · split
          · refine asyncDone_keepsThreads (hs := ?_) ..
            unfold b
            exact (readPieces_touches ..).threads (by decide) hs
          · extract_lets +onlyGivenNames g
            split
            · split
              · exact asyncDone_keepsThreads (hs := ((forgetRoom_touches ..).threads (by decide) hs1)) ..
              · next x4 t h6 h7 =>
                  split
                  · next x5 v h8 =>
                      refine asyncDone_keepsThreads (hs := ?_) ..
                      have k := Touches.carry h8 (pageError_touches ..)
                      exact Touches.threads k (by decide) ((forgetRoom_touches ..).threads (by decide) hs1)
                  · refine asyncDone_keepsThreads (hs := ?_) ..
                    have k := Touches.carry h7 (restoreImage_touches ..)
                    exact Touches.threads k (by decide) ((forgetRoom_touches ..).threads (by decide) hs1)
            · split
              · next x4 v h6 =>
                  have k := Touches.carry h6 (compactFor_touches ..)
                  exact Touches.threads k (by decide) hs1
              · exact asyncDone_keepsThreads (hs := ((forgetRoom_touches ..).threads (by decide) hs1)) ..

theorem execSbar_keepsThreads (rd rs1 s) (hs : State.ThreadsOk s) : onNext State.ThreadsOk (execSbar rd rs1 s) := by
  unfold execSbar
  change State.ThreadsOk _
  split
  · exact finish_keepsThreads (hs := hs) ..
  · split
    · exact finish_keepsThreads (hs := hs) ..
    · exact finish_keepsThreads (hs := ((modPort_touches ..).threads (by decide) hs)) ..

theorem execCpyq_keepsThreads (rd rs1 rs2 s) (hs : State.ThreadsOk s) : onNext State.ThreadsOk
    (execCpyq rd rs1 rs2 s) := by
  unfold execCpyq
  change State.ThreadsOk _
  extract_lets +onlyGivenNames q c
  split
  · exact hs
  · split
    · exact asyncDone_keepsThreads (hs := hs) ..
    · split
      · exact asyncDone_keepsThreads (hs := hs) ..
      · split
        · exact asyncDone_keepsThreads (hs := hs) ..
        · split
          · exact opTrap_keepsThreads (hs := hs) ..
          · extract_lets +onlyGivenNames b
            split
            · refine asyncDone_keepsThreads (hs := ?_) ..
              unfold b
              exact (readPieces_touches ..).threads (by decide) hs
            · split
              · exact opTrap_keepsThreads (hs := hs) ..
              · refine asyncDone_keepsThreads (hs := ?_) ..
                unfold b
                exact (readPieces_touches ..).threads (by decide) hs
              · next x1 i s1 h6 =>
                  refine asyncDone_keepsThreads (hs := ?_) ..
                  have k := Touches.carry h6 (appendSlot_touches ..)
                  refine Touches.threads k (by decide) ?_
                  unfold b
                  exact (readPieces_touches ..).threads (by decide) hs

theorem execBararm_keepsThreads (rs1 rs2 s) (hs : State.ThreadsOk s) : onNext State.ThreadsOk
    (execBararm rs1 rs2 s) := by
  unfold execBararm
  change State.ThreadsOk _
  extract_lets +onlyGivenNames w
  split
  · exact illegalForm_keepsThreads (hs := hs) ..
  · split
    · exact illegalForm_keepsThreads (hs := hs) ..
    · split
      · exact hs
      · refine modCur_keepsThreads ((modBar_touches ..).threads (by decide) hs) fun th ht => ?_
        refine advance_inOrder ?_ ..
        exact ht

theorem execBararrive_keepsThreads (rs1 s) (hs : State.ThreadsOk s) : onNext State.ThreadsOk (execBararrive rs1 s) := by
  unfold execBararrive
  change State.ThreadsOk _
  split
  · exact illegalForm_keepsThreads (hs := hs) ..
  · split
    · exact hs
    · refine modCur_keepsThreads ((modBar_touches ..).threads (by decide) hs) fun th ht => ?_
      refine advance_inOrder ?_ ..
      exact ht

theorem execBarwait_keepsThreads (rd rs1 rs2 s) (hs : State.ThreadsOk s) : onNext State.ThreadsOk
    (execBarwait rd rs1 rs2 s) := by
  unfold execBarwait
  change State.ThreadsOk _
  split
  · exact hs
  · exact blockOn_keepsThreads hs (tryBarwait_keepsThreads (hs := hs) ..)

theorem execChrd_keepsThreads (rd rs1 rs2 s) (hs : State.ThreadsOk s) : onNext State.ThreadsOk
    (execChrd rd rs1 rs2 s) := by
  unfold execChrd
  change State.ThreadsOk _
  split
  · exact hs
  · exact blockOn_keepsThreads hs (tryChrd_keepsThreads (hs := hs) ..)

theorem execChtry_keepsThreads (rd rs1 rs2 s) (hs : State.ThreadsOk s) : onNext State.ThreadsOk
    (execChtry rd rs1 rs2 s) := by
  unfold execChtry
  change State.ThreadsOk _
  split
  · exact hs
  · split
    · exact asyncDone_keepsThreads (hs := hs) ..
    · split
      · exact opTrap_keepsThreads (hs := hs) ..
      · split
        · exact asyncDone_keepsThreads (hs := hs) ..
        · exact hs
        · next x2 w s1 h3 =>
            refine asyncDone_keepsThreads (hs := ?_) ..
            have k1 := fun hs => Touches.carry h3 (takeFor_keepsThreads (hs := hs) ..)
            exact k1 hs
        · next x2 s1 h3 =>
            have k1 := fun hs => Touches.carry h3 (takeFor_keepsThreads (hs := hs) ..)
            exact k1 hs

theorem execTwclr_keepsThreads (rd rs1 s) (hs : State.ThreadsOk s) : onNext State.ThreadsOk (execTwclr rd rs1 s) := by
  unfold execTwclr
  change State.ThreadsOk _
  extract_lets +onlyGivenNames h k w s1
  have hs1 : s1.ThreadsOk := by
    unfold s1
    refine (State.ThreadsOk.tmap hs fun k th ht => ?_).same rfl
    split
    · exact ht
    · exact ht
  clear_value s1
  split
  · split
    · split
      · exact finish_keepsThreads (hs := hs) ..
      · exact finish_keepsThreads (hs := ((touchTwset_touches ..).threads (by decide) ((dropEnt_touches ..).threads
          (by decide) hs))) ..
    · exact finish_keepsThreads (hs := hs) ..
  · split
    · split
      · exact finish_keepsThreads (hs := hs) ..
      · exact finish_keepsThreads (hs := hs1) ..
    · split
      · exact finish_keepsThreads (hs := hs) ..
      · exact finish_keepsThreads (hs := hs) ..

theorem execCrgno_keepsThreads (rd rs1 s) (hs : State.ThreadsOk s) : onNext State.ThreadsOk (execCrgno rd rs1 s) := by
  unfold execCrgno
  change State.ThreadsOk _
  extract_lets +onlyGivenNames th
  split
  · exact finish_keepsThreads (hs := hs) ..
  · exact finish_keepsThreads (hs := (modCur_keepsThreads hs fun th1 ht => ht)) ..

theorem execCrgnc_keepsThreads (rd rs1 rs2 s) (hs : State.ThreadsOk s) : onNext State.ThreadsOk
    (execCrgnc rd rs1 rs2 s) := by
  unfold execCrgnc
  change State.ThreadsOk _
  split
  · exact closeLevel_keepsThreads (hs := hs) ..
  · split
    · exact hs
    · split
      · exact opTrap_keepsThreads (hs := hs) ..
      · extract_lets +onlyGivenNames b
        split
        · refine asyncDone_keepsThreads (hs := ?_) ..
          unfold b
          exact (readPieces_touches ..).threads (by decide) hs
        · refine instanceAct_keepsThreads (hs := ?_) ..
          unfold b
          exact (readPieces_touches ..).threads (by decide) hs

theorem execQset_keepsThreads (rd rs1 rs2 s) (hs : State.ThreadsOk s) : onNext State.ThreadsOk
    (execQset rd rs1 rs2 s) := by
  unfold execQset
  change State.ThreadsOk _
  extract_lets +onlyGivenNames a k
  split
  · exact finish_keepsThreads (hs := hs) ..
  · exact finish_keepsThreads (hs := ((modQuota_touches ..).threads (by decide) hs)) ..

theorem execQget_keepsThreads (rd rs1 rs2 s) (hs : State.ThreadsOk s) : onNext State.ThreadsOk
    (execQget rd rs1 rs2 s) := by
  unfold execQget
  change State.ThreadsOk _
  extract_lets +onlyGivenNames a q
  split
  · exact finish_keepsThreads (hs := hs) ..
  · exact finish_keepsThreads (hs := hs) ..

theorem execIllegalInstruction_keepsThreads (w s) (hs : State.ThreadsOk s) : onNext State.ThreadsOk
    (execIllegalInstruction w s) := by
  unfold execIllegalInstruction
  exact trapCur_keepsThreads (hs := hs) ..

theorem exec_keepsThreads (i s) (hs : State.ThreadsOk s) : onNext State.ThreadsOk (exec i s) := by
  unfold exec
  split
  · exact execTokenArrival_keepsThreads (hs := hs) ..
  · exact execArbiterSelect_keepsThreads (hs := hs) ..
  · exact execArbiterReweight_keepsThreads (hs := hs) ..
  · exact execLiveCountUpdate_keepsThreads (hs := hs) ..
  · exact execLaunchComplete_keepsThreads (hs := hs) ..
  · exact execSource_keepsThreads (hs := hs) ..
  · exact execSink_keepsThreads (hs := hs) ..
  · exact execDup_keepsThreads (hs := hs) ..
  · exact execEnterOp_keepsThreads (hs := hs) ..
  · exact execNextOp_keepsThreads (hs := hs) ..
  · exact execExitOp_keepsThreads (hs := hs) ..
  · exact execCallOp_keepsThreads (hs := hs) ..
  · exact execRetOp_keepsThreads (hs := hs) ..
  · exact execGsteer_keepsThreads (hs := hs) ..
  · exact execGmerge_keepsThreads (hs := hs) ..
  · exact execTriggerArrival_keepsThreads (hs := hs) ..
  · exact execTriggerDeadline_keepsThreads (hs := hs) ..
  · exact execBridge_keepsThreads (hs := hs) ..
  · exact execCopen_keepsThreads (hs := hs) ..
  · exact execCclose_keepsThreads (hs := hs) ..
  · exact execContainmentHeld_keepsThreads (hs := hs) ..
  · exact execTimer_keepsThreads (hs := hs) ..
  · exact execTimerExpiry_keepsThreads (hs := hs) ..
  · exact execVblockActivation_keepsThreads (hs := hs) ..
  · exact execVblockStep_keepsThreads (hs := hs) ..
  · exact execVblockComplete_keepsThreads (hs := hs) ..
  · exact execMmul_keepsThreads (hs := hs) ..
  · exact execWload_keepsThreads (hs := hs) ..
  · exact execGather_keepsThreads (hs := hs) ..
  · exact execRepeatOp_keepsThreads (hs := hs) ..
  · exact execSwin_keepsThreads (hs := hs) ..
  · exact execTransp_keepsThreads (hs := hs) ..
  · exact execConv_keepsThreads (hs := hs) ..
  · exact execHload_keepsThreads (hs := hs) ..
  · exact execHloadSectorReturn_keepsThreads (hs := hs) ..
  · exact execHstore_keepsThreads (hs := hs) ..
  · exact execHstoreComplete_keepsThreads (hs := hs) ..
  · exact execCopy_keepsThreads (hs := hs) ..
  · exact execCopyChunkAck_keepsThreads (hs := hs) ..
  · exact execCopyPacketTake_keepsThreads (hs := hs) ..
  · exact execChw_keepsThreads (hs := hs) ..
  · exact execChr_keepsThreads (hs := hs) ..
  · exact execDispatch_keepsThreads (hs := hs) ..
  · exact execDispatchCreditUpdate_keepsThreads (hs := hs) ..
  · exact execReduce_keepsThreads (hs := hs) ..
  · exact execReduceComplete_keepsThreads (hs := hs) ..
  · exact execChunkWriteComplete_keepsThreads (hs := hs) ..
  · exact execTileReadRetire_keepsThreads (hs := hs) ..
  · exact execBurstReceive_keepsThreads (hs := hs) ..
  · exact execMemoryTileRequest_keepsThreads (hs := hs) ..
  · exact execHbmSectorAccess_keepsThreads (hs := hs) ..
  · exact execPageWalk_keepsThreads (hs := hs) ..
  · exact execLaunchAccept_keepsThreads (hs := hs) ..
  · exact execLaunchEventPoll_keepsThreads (hs := hs) ..
  · exact execLaunchStart_keepsThreads (hs := hs) ..
  · exact execStreamCommandBegin_keepsThreads (hs := hs) ..
  · exact execStreamCircuitSetup_keepsThreads (hs := hs) ..
  · exact execStreamCommandComplete_keepsThreads (hs := hs) ..
  · exact execTimerWheelBoundary_keepsThreads (hs := hs) ..
  · exact execTwsetExpiry_keepsThreads (hs := hs) ..
  · exact execFarListMove_keepsThreads (hs := hs) ..
  · exact execDeviceTimeStep_keepsThreads (hs := hs) ..
  · exact execQmSample_keepsThreads (hs := hs) ..
  · exact execQmWindowEnd_keepsThreads (hs := hs) ..
  · exact execPendingReportArrival_keepsThreads (hs := hs) ..
  · exact execAsyncTrapEntry_keepsThreads (hs := hs) ..
  · exact execLoadReturn_keepsThreads (hs := hs) ..
  · exact execLoadDataError_keepsThreads (hs := hs) ..
  · exact execAsyncCompletion_keepsThreads (hs := hs) ..
  · exact execBlockingWaitEnd_keepsThreads (hs := hs) ..
  · exact execPageSetMove_keepsThreads (hs := hs) ..
  · exact execSlotBoundary_keepsThreads (hs := hs) ..
  · exact execLinkFlitReceive_keepsThreads (hs := hs) ..
  · exact execLinkDeath_keepsThreads (hs := hs) ..
  · exact execMilestoneChange_keepsThreads (hs := hs) ..
  · exact execMilestoneAdopt_keepsThreads (hs := hs) ..
  · exact execPacketArrival_keepsThreads (hs := hs) ..
  · exact execTerminalAccept_keepsThreads (hs := hs) ..
  · exact execAckReceive_keepsThreads (hs := hs) ..
  · exact execNackReceive_keepsThreads (hs := hs) ..
  · exact execRetryTimeout_keepsThreads (hs := hs) ..
  · exact execChunkWrite_keepsThreads (hs := hs) ..
  · exact execReadResponse_keepsThreads (hs := hs) ..
  · exact execChannelWrite_keepsThreads (hs := hs) ..
  · exact execReduceContribution_keepsThreads (hs := hs) ..
  · exact execHbmRead_keepsThreads (hs := hs) ..
  · exact execHbmWrite_keepsThreads (hs := hs) ..
  · exact execHbmAtomic_keepsThreads (hs := hs) ..
  · exact execElementClockGate_keepsThreads (hs := hs) ..
  · exact execElementWake_keepsThreads (hs := hs) ..
  · exact execPagePowerGate_keepsThreads (hs := hs) ..
  · exact execScrubRead_keepsThreads (hs := hs) ..
  · exact execEccWindowExpiry_keepsThreads (hs := hs) ..
  · exact execBankConversion_keepsThreads (hs := hs) ..
  · exact execTraceWrite_keepsThreads (hs := hs) ..
  · exact execZbell_keepsThreads (hs := hs) ..
  · exact execZringWrite_keepsThreads (hs := hs) ..
  · exact execRegisterWrite_keepsThreads (hs := hs) ..
  · exact execBar2Access_keepsThreads (hs := hs) ..
  · exact execZcmdRingPoll_keepsThreads (hs := hs) ..
  · exact execIdent_keepsThreads (hs := hs) ..
  · exact execAttest_keepsThreads (hs := hs) ..
  · exact execFwstage_keepsThreads (hs := hs) ..
  · exact execPcreate_keepsThreads (hs := hs) ..
  · exact execPdestroy_keepsThreads (hs := hs) ..
  · exact execFlr_keepsThreads (hs := hs) ..
  · exact execPgrant_keepsThreads (hs := hs) ..
  · exact execAspace_keepsThreads (hs := hs) ..
  · exact execPools_keepsThreads (hs := hs) ..
  · exact execFaults_keepsThreads (hs := hs) ..
  · exact execSlots_keepsThreads (hs := hs) ..
  · exact execLqset_keepsThreads (hs := hs) ..
  · exact execCqset_keepsThreads (hs := hs) ..
  · exact execRoutes_keepsThreads (hs := hs) ..
  · exact execMstone_keepsThreads (hs := hs) ..
  · exact execRgroup_keepsThreads (hs := hs) ..
  · exact execTlbinv_keepsThreads (hs := hs) ..
  · exact execReadObject_keepsThreads (hs := hs) ..
  · exact execDbgsetStopEntry_keepsThreads (hs := hs) ..
  · exact execDbgsetTrace_keepsThreads (hs := hs) ..
  · exact execDbgsetWatch_keepsThreads (hs := hs) ..
  · exact execDbgsetBreakBit_keepsThreads (hs := hs) ..
  · exact execDbgsetProfileClear_keepsThreads (hs := hs) ..
  · exact execDbgsetLogEntry_keepsThreads (hs := hs) ..
  · exact execThreadNormalStop_keepsThreads (hs := hs) ..
  · exact execThreadHardStop_keepsThreads (hs := hs) ..
  · exact execThreadResume_keepsThreads (hs := hs) ..
  · exact execThreadRegisterWrite_keepsThreads (hs := hs) ..
  · exact execScrub_keepsThreads (hs := hs) ..
  · exact execPower_keepsThreads (hs := hs) ..
  · exact execThermalThrottle_keepsThreads (hs := hs) ..
  · exact execThermalShutdown_keepsThreads (hs := hs) ..
  · exact execColdReset_keepsThreads (hs := hs) ..
  · exact execAdd_keepsThreads (hs := hs) ..
  · exact execSub_keepsThreads (hs := hs) ..
  · exact execAnd_keepsThreads (hs := hs) ..
  · exact execOr_keepsThreads (hs := hs) ..
  · exact execXor_keepsThreads (hs := hs) ..
  · exact execShl_keepsThreads (hs := hs) ..
  · exact execShr_keepsThreads (hs := hs) ..
  · exact execSar_keepsThreads (hs := hs) ..
  · exact execMul_keepsThreads (hs := hs) ..
  · exact execMulh_keepsThreads (hs := hs) ..
  · exact execMulhn_keepsThreads (hs := hs) ..
  · exact execDiv_keepsThreads (hs := hs) ..
  · exact execDivn_keepsThreads (hs := hs) ..
  · exact execRem_keepsThreads (hs := hs) ..
  · exact execRemn_keepsThreads (hs := hs) ..
  · exact execMin_keepsThreads (hs := hs) ..
  · exact execMax_keepsThreads (hs := hs) ..
  · exact execMinn_keepsThreads (hs := hs) ..
  · exact execMaxn_keepsThreads (hs := hs) ..
  · exact execSlt_keepsThreads (hs := hs) ..
  · exact execSltn_keepsThreads (hs := hs) ..
  · exact execAddi_keepsThreads (hs := hs) ..
  · exact execAndi_keepsThreads (hs := hs) ..
  · exact execOri_keepsThreads (hs := hs) ..
  · exact execXori_keepsThreads (hs := hs) ..
  · exact execShli_keepsThreads (hs := hs) ..
  · exact execShri_keepsThreads (hs := hs) ..
  · exact execSari_keepsThreads (hs := hs) ..
  · exact execLui_keepsThreads (hs := hs) ..
  · exact execAuip_keepsThreads (hs := hs) ..
  · exact execJal_keepsThreads (hs := hs) ..
  · exact execJalr_keepsThreads (hs := hs) ..
  · exact execBeq_keepsThreads (hs := hs) ..
  · exact execBne_keepsThreads (hs := hs) ..
  · exact execBlt_keepsThreads (hs := hs) ..
  · exact execBge_keepsThreads (hs := hs) ..
  · exact execBltn_keepsThreads (hs := hs) ..
  · exact execBgen_keepsThreads (hs := hs) ..
  · exact execLd8_keepsThreads (hs := hs) ..
  · exact execLd8n_keepsThreads (hs := hs) ..
  · exact execLd16_keepsThreads (hs := hs) ..
  · exact execLd16n_keepsThreads (hs := hs) ..
  · exact execLd32_keepsThreads (hs := hs) ..
  · exact execLd32n_keepsThreads (hs := hs) ..
  · exact execLd64_keepsThreads (hs := hs) ..
  · exact execSt8_keepsThreads (hs := hs) ..
  · exact execSt16_keepsThreads (hs := hs) ..
  · exact execSt32_keepsThreads (hs := hs) ..
  · exact execSt64_keepsThreads (hs := hs) ..
  · exact execAmoadd_keepsThreads (hs := hs) ..
  · exact execAmoand_keepsThreads (hs := hs) ..
  · exact execAmoor_keepsThreads (hs := hs) ..
  · exact execAmoxor_keepsThreads (hs := hs) ..
  · exact execAmoswp_keepsThreads (hs := hs) ..
  · exact execAmomin_keepsThreads (hs := hs) ..
  · exact execAmomax_keepsThreads (hs := hs) ..
  · exact execAmocas_keepsThreads (hs := hs) ..
  · exact execAmoinc_keepsThreads (hs := hs) ..
  · exact execFence_keepsThreads (hs := hs) ..
  · exact execTrap_keepsThreads (hs := hs) ..
  · exact execNop_keepsThreads (hs := hs) ..
  · exact execHalt_keepsThreads (hs := hs) ..
  · exact execEret_keepsThreads (hs := hs) ..
  · exact execWfe_keepsThreads (hs := hs) ..
  · exact execSev_keepsThreads (hs := hs) ..
  · exact execCsrrd_keepsThreads (hs := hs) ..
  · exact execCsrwr_keepsThreads (hs := hs) ..
  · exact execCsrset_keepsThreads (hs := hs) ..
  · exact execCsrclr_keepsThreads (hs := hs) ..
  · exact execGload_keepsThreads (hs := hs) ..
  · exact execGfree_keepsThreads (hs := hs) ..
  · exact execGlaunch_keepsThreads (hs := hs) ..
  · exact execGkill_keepsThreads (hs := hs) ..
  · exact execInject_keepsThreads (hs := hs) ..
  · exact execPurge_keepsThreads (hs := hs) ..
  · exact execMsread_keepsThreads (hs := hs) ..
  · exact execClread_keepsThreads (hs := hs) ..
  · exact execFreeze_keepsThreads (hs := hs) ..
  · exact execThaw_keepsThreads (hs := hs) ..
  · exact execSavec_keepsThreads (hs := hs) ..
  · exact execRestc_keepsThreads (hs := hs) ..
  · exact execSbind_keepsThreads (hs := hs) ..
  · exact execSstart_keepsThreads (hs := hs) ..
  · exact execSbar_keepsThreads (hs := hs) ..
  · exact execCpyq_keepsThreads (hs := hs) ..
  · exact execCpywait_keepsThreads (hs := hs) ..
  · exact execBararm_keepsThreads (hs := hs) ..
  · exact execBararrive_keepsThreads (hs := hs) ..
  · exact execBarwait_keepsThreads (hs := hs) ..
  · exact execChopen_keepsThreads (hs := hs) ..
  · exact execChwr_keepsThreads (hs := hs) ..
  · exact execChrd_keepsThreads (hs := hs) ..
  · exact execChtry_keepsThreads (hs := hs) ..
  · exact execChclose_keepsThreads (hs := hs) ..
  · exact execTwset_keepsThreads (hs := hs) ..
  · exact execTwclr_keepsThreads (hs := hs) ..
  · exact execTime_keepsThreads (hs := hs) ..
  · exact execCrgno_keepsThreads (hs := hs) ..
  · exact execCrgnc_keepsThreads (hs := hs) ..
  · exact execQset_keepsThreads (hs := hs) ..
  · exact execQget_keepsThreads (hs := hs) ..
  · exact execIllegalInstruction_keepsThreads (hs := hs) ..
  · exact execFetchFault_keepsThreads (hs := hs) ..
  · exact execWriteAcknowledgement_keepsThreads (hs := hs) ..

theorem runTurn_keepsThreads (u s) (hs : State.ThreadsOk s) : onNext State.ThreadsOk (runTurn u s) := by
  unfold runTurn
  split
  · trivial
  · split
    · split
      · next x s' h1 =>
          change State.ThreadsOk _
          have k := fun hs => Touches.carry h1 (issueOf_keepsThreads (hs := hs) ..)
          exact k hs
      · next x i s' h1 =>
          refine exec_keepsThreads (hs := ?_) ..
          have k := fun hs => Touches.carry h1 (issueOf_keepsThreads (hs := hs) ..)
          exact k hs
    · split
      · exact exec_keepsThreads (hs := hs) ..
      · exact hs
    · exact worldTurn_keepsThreads (hs := hs) ..

theorem step_keepsThreads (s) (hs : State.ThreadsOk s) : onNext State.ThreadsOk (step s) := by
  unfold step
  exact runTurn_keepsThreads (hs := ((takeTurn_touches ..).threads (by decide) hs)) ..

/-- Settles O59: every operation that a turn may run changes a thread only in ways that keep it in order, and issue
appends a load or a store only where there is room. -/
theorem turnsKeepThreads : Obligations.TurnsKeepThreads := by
  unfold Obligations.TurnsKeepThreads
  intro s t k us _ hs ht
  have h := step_keepsThreads s ⟨hs⟩
  rw [ht] at h
  exact h.order

end Sys2Proof.Machine
end

section
/-!
PROOFS. Proofs/Turns.lean: what a turn runs, and the state at reset (spec/10 R220, R225; spec/20 R413).
-/
namespace Sys2Proof.Machine

/-! ### A turn whose word cannot be read -/

/-- T0 is about to fetch from memory a word with two wrong bits. -/
def badFetch : State :=
  { placeWord State.reset (tableBytes 0) with
    ecc := [(0x200, .double)]
    agenda := [.issue ⟨0, 0, 0⟩] }

/-- How many banks have counted a read after a step. -/
def countingBanks : Out → Nat
  | .next t => t.bankModes.length
  | _ => 0

theorem badFetch_counts : countingBanks (step badFetch) = 1 := by decide +kernel

/-- Refutes O2: in badFetch the word has an error that its bank finds, so the turn's fetch fault keeps the bank's count of
that read, where the statement runs the fault from the state without it. -/
theorem not_stepRunsDecoded : ¬ Obligations.StepRunsDecoded := by
  intro h
  have hs := ((h.1 badFetch ⟨0, 0, 0⟩ ⟨0, 0, 0⟩ [] rfl rfl (by decide +kernel)).2 (by decide +kernel)).2.1 .dataError
    (by decide +kernel)
  have hn := badFetch_counts
  rw [hs] at hn
  exact absurd hn (by decide +kernel)

/-! ### Reset -/

/-- Settles O58: every table of the reset state is empty, so every entry is its reset entry. -/
theorem resetState : Obligations.ResetState := by
  refine ⟨fun t => ⟨rfl, rfl, fun r => ?_⟩, fun a => rfl, fun e n => rfl, fun p => ⟨rfl, rfl, rfl⟩, fun p => ⟨rfl, rfl, ?_⟩,
    fun p d k => ⟨rfl, rfl⟩, fun e => rfl, fun i => rfl, fun k => ⟨rfl, rfl⟩, fun b => rfl, fun k => ⟨rfl, rfl⟩,
    ⟨rfl, rfl, rfl⟩, fun k => ?_⟩
  · show readReg {} r = 0
    decide +revert
  · intro k hk
    have e : getPart State.reset (p, k) = {} := if_neg hk
    rw [e]
    exact ⟨rfl, rfl⟩
  · exact Thread.inOrder_reset

end Sys2Proof.Machine
end

section
/-!
PROOFS. Proofs/Returns.lean: loads, stores, reports and results that come back to their thread (spec/10 R226, R227, R231;
spec/11 R235, R263).
-/
namespace Sys2Proof.Machine

/-! ### Values and scoreboard bits -/

theorem sext_eq_toInt (w v : Nat) : sext w v = (BitVec.ofNat w v).toInt := by
  rw [BitVec.toInt_eq_toNat_cond, BitVec.toNat_ofNat]
  unfold sext
  dsimp only
  cases w with
  | zero => simp [Nat.mod_one]
  | succ w =>
    have hp : 2 ^ (w + 1) = 2 * 2 ^ w := Nat.pow_succ'
    have hl : v % 2 ^ (w + 1) < 2 ^ (w + 1) := Nat.mod_lt _ (Nat.two_pow_pos _)
    rw [Nat.add_sub_cancel]
    by_cases h : 2 ^ w ≤ v % 2 ^ (w + 1)
    · rw [if_pos h, if_neg (by omega)]
      push_cast
      rfl
    · rw [if_neg h, if_pos (by omega)]

theorem loadValue_eq (ld : Load) (bs : List Byte) : loadValue ld bs =
    if ld.sext then BitVec.ofInt 64 (BitVec.ofNat (8 * ld.size) (leNat bs)).toInt else BitVec.ofNat 64 (leNat bs) := by
  unfold loadValue wordOfInt
  rw [sext_eq_toInt]
  rfl

theorem getLsbD_sbClear (th : Thread) (r : RegNo) (q : Nat) :
    (sbClear th r).sb.getLsbD q = (th.sb.getLsbD q && decide (q ≠ r.toNat)) := by
  unfold sbClear
  have hr : r.toNat < 32 := r.isLt
  by_cases hq : q < 32
  · by_cases h : q = r.toNat
    · subst h; simp [hq]
    · simp [hq, h]
  · have h1 : th.sb.getLsbD q = false := BitVec.getLsbD_of_ge _ _ (by omega)
    simp [h1]

/-! ### Loads and stores -/

/-- A thread that has got the answer of a load. -/
def loadReturned (n : Nat) (ld : Load) (r : Req) (th : Thread) : Thread :=
  let th := { th with loads := th.loads.filter (·.id != n), stores := th.stores.filter (·.id != n) }
  let th := if ld.acq then clearAhead th else th
  if ld.squashed then { th with lsq := true }
  else if r.bad ∨ r.denied then
    sbClear { th with errs := th.errs ++ [{ rd := some ld.rd, va := ld.va, level := ld.level,
                                            cause := if r.denied then 0x0005 else 0x000A }] } ld.rd
  else sbClear (writeReg th ld.rd (loadValue ld r.data)) ld.rd

theorem exec_loadReturn {s : State} {t : Tid} {n : Nat} {ld : Load} {r : Req}
    (hl : (getThr s t).loads.find? (·.id = n) = some ld) (ha : answerOf s (.load t n) = some r) :
    exec (.loadReturn t n) s = .next (modThr (dropReq s r.id) t (loadReturned n ld r)) := by
  show execLoadReturn t n s = _
  simp only [execLoadReturn, hl, ha]
  rfl

theorem dropReq_eq (s : State) (i : Nat) : dropReq s i = { s with reqs := s.reqs.filter fun q => decide (q.id ≠ i) } := by
  unfold dropReq
  have e : (fun q : Req => q.id != i) = fun q => decide (q.id ≠ i) := by
    funext q
    exact (decide_not (p := q.id = i)).symm
  rw [e]

/-- The parts of a thread that every answer of a load changes alike. -/
theorem loadReturned_common (n : Nat) (ld : Load) (r : Req) (th : Thread) :
    (loadReturned n ld r th).loads = th.loads.filter (·.id != n) ∧ (loadReturned n ld r th).stores = th.stores.filter (·.id != n) ∧
    (loadReturned n ld r th).pc = th.pc ∧ (loadReturned n ld r th).ahead = if ld.acq then [] else th.ahead := by
  unfold loadReturned
  extract_lets th1 th2
  have h2 : th2.loads = th.loads.filter (·.id != n) ∧ th2.stores = th.stores.filter (·.id != n) ∧ th2.pc = th.pc ∧
      th2.ahead = if ld.acq then [] else th.ahead := by
    unfold th2
    split
    · exact ⟨rfl, rfl, rfl, rfl⟩
    · exact ⟨rfl, rfl, rfl, rfl⟩
  split
  · exact h2
  · split
    · exact h2
    · rw [writeReg_eq]; exact h2

/-- What a squashed load, a failed one and a sound one leave in their thread. -/
theorem loadReturned_squashed {n : Nat} {ld : Load} {r : Req} {th : Thread} (h : ld.squashed = true) :
    (loadReturned n ld r th).lsq = true ∧ (loadReturned n ld r th).s = th.s ∧ (loadReturned n ld r th).sb = th.sb ∧
    (loadReturned n ld r th).errs = th.errs := by
  unfold loadReturned
  rw [h]
  cases ld.acq <;> exact ⟨rfl, rfl, rfl, rfl⟩

theorem loadReturned_kept {n : Nat} {ld : Load} {r : Req} {th : Thread} (h : ld.squashed = false) :
    (∀ q, (loadReturned n ld r th).sb.getLsbD q = (th.sb.getLsbD q && decide (q ≠ ld.rd.toNat))) ∧
    (loadReturned n ld r th).lsq = th.lsq := by
  unfold loadReturned
  extract_lets th1 th2
  have h2 : th2.sb = th.sb ∧ th2.lsq = th.lsq := by
    unfold th2
    cases ld.acq <;> exact ⟨rfl, rfl⟩
  obtain ⟨hsb, hlsq⟩ := h2
  rw [h, if_neg Bool.false_ne_true, ← hsb, ← hlsq]
  split
  · exact ⟨getLsbD_sbClear _ _, rfl⟩
  · rw [writeReg_eq]; exact ⟨getLsbD_sbClear _ _, rfl⟩

theorem loadReturned_failed {n : Nat} {ld : Load} {r : Req} {th : Thread} (h : ld.squashed = false)
    (hr : r.bad = true ∨ r.denied = true) : (loadReturned n ld r th).s = th.s ∧
    (loadReturned n ld r th).errs = th.errs ++
      [{ rd := some ld.rd, va := ld.va, level := ld.level, cause := if r.denied then 0x0005 else 0x000A }] := by
  unfold loadReturned
  rw [h, if_neg Bool.false_ne_true, if_pos hr]
  cases ld.acq <;> exact ⟨rfl, rfl⟩

theorem loadReturned_sound {n : Nat} {ld : Load} {r : Req} {th : Thread} (h : ld.squashed = false) (hb : r.bad = false)
    (hd : r.denied = false) : (loadReturned n ld r th).errs = th.errs ∧
    readReg (loadReturned n ld r th) ld.rd = (if ld.rd = 0 then 0 else loadValue ld r.data) ∧
    ∀ q, q ≠ ld.rd → readReg (loadReturned n ld r th) q = readReg th q := by
  unfold loadReturned
  extract_lets th1 th2
  have h2 : th2.errs = th.errs ∧ th2.s = th.s := by
    unfold th2
    cases ld.acq <;> exact ⟨rfl, rfl⟩
  obtain ⟨he, hs⟩ := h2
  rw [h, if_neg Bool.false_ne_true, if_neg (by rw [hb, hd]; simp)]
  refine ⟨?_, (readReg_congr _ rfl).trans (readReg_writeReg _ _ _), fun q hq => ?_⟩
  · rw [writeReg_eq]; exact he
  · exact (readReg_congr q rfl).trans ((readReg_writeReg_other _ _ hq).trans (readReg_congr q hs))

theorem exec_writeAcknowledgement {s : State} {t : Tid} {n : Nat} {r : Req} (h : answerOf s (.store t n) = some r) :
    exec (.writeAcknowledgement t n) s =
      .next (modThr (dropReq s r.id) t fun th => { storeErr th n r with stores := th.stores.filter (·.id != n) }) := by
  show execWriteAcknowledgement t n s = _
  simp only [execWriteAcknowledgement, h]

theorem storeErr_accepted {th : Thread} {n : Nat} {r : Req} (h : r.denied = false) : storeErr th n r = th := by
  unfold storeErr
  rw [h]
  cases th.stores.find? (·.id = n) <;> rfl

theorem storeErr_denied {th : Thread} {n : Nat} {r : Req} {st : StoreOut} (h : r.denied = true)
    (hs : th.stores.find? (·.id = n) = some st) :
    storeErr th n r = { th with errs := th.errs ++ [{ va := st.va, cause := 0x0005 }] } := by
  unfold storeErr
  rw [hs]
  exact if_pos h

/-! ### The deferred error of a load -/

/-- An instruction before which the only deferred error of a thread is raised. -/
theorem raisesError_of {th : Thread} {i : Instr} {e : DefErr} (he : th.errs = [e])
    (hi : i = .halt ∨ i = .wfe ∨ (∃ sc, i = .fence sc) ∨ (∃ f ∈ amoForms, ∃ a b c o, i = f.1 a b c o) ∨
      (∃ l r, regsOf i = some l ∧ e.rd = some r ∧ r ∈ l)) : raisesError th i = true := by
  unfold raisesError
  rw [he]
  rcases hi with rfl | rfl | ⟨sc, rfl⟩ | ⟨f, hf, a, b, c, o, rfl⟩ | ⟨l, r, hl, hr, hm⟩
  · rfl
  · rfl
  · rfl
  · simp only [amoForms, List.mem_cons, List.not_mem_nil, or_false] at hf
    rcases hf with rfl | rfl | rfl | rfl | rfl | rfl | rfl | rfl | rfl <;> rfl
  · have hn : ([e].any fun e => e.rd.any ((regsOf i).getD []).contains) = true := by
      simp [hl, hr, hm]
    rw [hn]
    split <;> rfl

theorem errFirst_single {th : Thread} {i : Instr} {e : DefErr} (he : th.errs = [e]) : errFirst th i = th := by
  have h : ∀ p : DefErr → Bool, [e].filter p ++ [e].filter (fun e => !p e) = [e] := by
    intro p
    cases h : p e <;> simp [h]
  unfold errFirst
  extract_lets named
  rw [he, h named, ← he]

/-- The error of a load outside every level is the trap of R221 at its instruction. -/
theorem loadErrorTrap_outside {s : State} {t : Tid} {e : DefErr} (he : (getThr s t).errs = [e]) (hl : e.level = 0) :
    loadErrorTrap s t = syncTrapRaw (modThr s t fun th => { th with errs := [] }) t { cause := e.cause, tval := e.va }
      (getThr s t).pc (getThr s t).tvec := by
  have hn : ¬(e.cause = 0x000A ∧ 0 < e.level ∧ e.level ≤ (getThr s t).levels.length) := by
    rw [hl]
    exact fun h => absurd h.2.1 (Nat.lt_irrefl 0)
  unfold loadErrorTrap
  dsimp only
  rw [he]
  exact if_neg hn

/-- A change that leaves the threads alone keeps each of them. -/
theorem Touches.getThr {l : List Field} {s t : State} (h : Touches l s t) (hl : l.contains .threads = false) (k : Tid) :
    getThr t k = getThr s k := by
  have e : t.threads = s.threads := h.same .threads (by simpa using hl)
  unfold Machine.getThr
  rw [e]

theorem getThr_enterTrap (s : State) (t k : Tid) (tr : TrapInfo) (epc handler : Word) :
    getThr (enterTrap s t tr epc handler) k = getThr (modThr s t fun th => trapEntry th tr epc handler) k :=
  (traceClass_touches ..).getThr (by decide) k

/-- What a synchronous trap leaves in its thread, and in the others. -/
theorem syncTrapRaw_thread (u : State) (t : Tid) (tr : TrapInfo) (e h : Word) :
    getThr (syncTrapRaw u t tr e h) t =
      if (getThr u t).ht then { getThr u t with halted := true, wait := none } else trapEntry (getThr u t) tr e h := by
  unfold syncTrapRaw
  split
  · exact getThr_modThr ..
  · rw [getThr_enterTrap, getThr_modThr]

theorem syncTrapRaw_other (u : State) {t k : Tid} (tr : TrapInfo) (e h : Word) (hk : k ≠ t) :
    getThr (syncTrapRaw u t tr e h) k = getThr u k := by
  unfold syncTrapRaw
  split
  · exact getThr_modThr_other _ _ hk
  · rw [getThr_enterTrap, getThr_modThr_other _ _ hk]

/-- A change that leaves the memories alone changes no byte. -/
theorem Touches.sameBytes {l : List Field} {s t : State} (h : Touches l s t)
    (hl : (l.contains .hbm || l.contains .l0 || l.contains .hostMem) = false) : SameBytes s t := by
  simp only [Bool.or_eq_false_iff] at hl
  obtain ⟨⟨h1, h2⟩, h3⟩ := hl
  have e1 : t.hbm = s.hbm := h.same .hbm (by simpa using h1)
  have e2 : t.l0 = s.l0 := h.same .l0 (by simpa using h2)
  have e3 : t.hostMem = s.hostMem := h.same .hostMem (by simpa using h3)
  exact fun a => ⟨congrArg (memGet · a) e1, congrArg (memGet · a) e2, congrArg (memGet · a) e3⟩

theorem exec_loadDataError {s : State} {t : Tid} {w : IWord} {i : Instr} {e : DefErr} (hm : mayIssue (getThr s t) = true)
    (hw : nextWord s t = .ok w) (hd : decode w = .ok i) (hh : hazard (getThr s t) i = false)
    (hr : raisesError (getThr s t) i = true) (he : (getThr s t).errs = [e]) (hl : e.level = 0) :
    exec (.loadDataError t) s = .next (syncTrapRaw (modThr (modThr s t (errFirst · i)) t fun th => { th with errs := [] }) t
      { cause := e.cause, tval := e.va } (getThr s t).pc (getThr s t).tvec) := by
  have h1 : getThr (modThr s t (errFirst · i)) t = getThr s t := by rw [getThr_modThr, errFirst_single he]
  have h := loadErrorTrap_outside (s := modThr s t (errFirst · i)) (t := t) (e := e) (by rw [h1, he]) hl
  rw [h1] at h
  rw [← h]
  show execLoadDataError t s = _
  simp only [execLoadDataError, hm, hw, hd, hh, hr, Bool.not_true, Bool.not_false, Bool.and_self, Bool.false_eq_true, if_false,
    if_true]

/-- Settles O26: each answer is applied to its thread as its kind says, and the deferred error is raised where it must be. -/
theorem loadsReturn : Obligations.LoadsReturn := by
  unfold Obligations.LoadsReturn
  refine ⟨fun s t n r => ⟨fun ld hl ha => ?_, fun ha => ?_⟩, fun s t w i e hm hw hd hh he hl hi => ?_⟩
  · refine ⟨_, exec_loadReturn hl ha, dropReq_eq s r.id ▸ modThr_onlyThread _ _ _, ?_⟩
    rw [getThr_modThr]
    obtain ⟨h1, h2, h3, h4⟩ := loadReturned_common n ld r (getThr s t)
    refine ⟨h1, h2, h3, h4, loadReturned_squashed, fun hq => ?_⟩
    obtain ⟨hsb, hlsq⟩ := loadReturned_kept (n := n) (r := r) (th := getThr s t) hq
    refine ⟨hsb, hlsq, loadReturned_failed hq, fun hb hn => ?_⟩
    have h := loadReturned_sound (n := n) (th := getThr s t) hq hb hn
    rwa [loadValue_eq] at h
  · refine ⟨_, exec_writeAcknowledgement ha, dropReq_eq s r.id ▸ modThr_onlyThread _ _ _, fun hn => ?_, fun st hn hs => ?_⟩
    · rw [getThr_modThr, storeErr_accepted hn]
      rfl
    · rw [getThr_modThr]
      exact congrArg (fun th : Thread => { th with stores := (getThr s t).stores.filter (·.id != n) }) (storeErr_denied hn hs)
  · have hr := raisesError_of he hi
    have hx := exec_loadDataError hm hw hd hh hr he hl
    have hu : getThr (modThr (modThr s t (errFirst · i)) t fun th => { th with errs := [] }) t =
        { getThr s t with errs := [] } := by
      rw [getThr_modThr, getThr_modThr, errFirst_single he]
    have ht := syncTrapRaw_thread (modThr (modThr s t (errFirst · i)) t fun th => { th with errs := [] }) t
      { cause := e.cause, tval := e.va } (getThr s t).pc (getThr s t).tvec
    rw [hu] at ht
    refine ⟨_, hx, ?_, fun h => ?_, fun h => ?_, fun k hk => ?_, ?_⟩
    · rw [ht]; split <;> rfl
    · rw [ht, if_neg (by rw [h]; exact Bool.false_ne_true)]; rfl
    · rw [ht, if_pos h]
    · rw [syncTrapRaw_other _ _ _ _ hk, getThr_modThr_other _ _ hk, getThr_modThr_other _ _ hk]
    · exact ((syncTrapRaw_touches ..).after (l := [.threads, .traces]) (by decide) ((modThr_touches ..).after (by decide)
        ((modThr_touches ..).mono (by decide)))).sameBytes (by decide)

/-! ### Reports -/

/-- No earlier report of the same engine waits for the same thread. -/
theorem none_earlier {l : List Report} {r : Report} (h : ∀ q ∈ l, ¬(q.dest = r.dest ∧ q.src = r.src)) :
    (l.any fun q => q.dest = r.dest ∧ q.src = r.src) = false :=
  List.any_eq_false.2 fun q hq hc => h q hq (of_decide_eq_true hc)

theorem exec_pendingReportArrival {s : State} {n : Nat} {r : Report} (hr : s.reports[n]? = some r)
    (hf : ∀ q ∈ s.reports.take n, ¬(q.dest = r.dest ∧ q.src = r.src)) :
    exec (.pendingReportArrival n) s = .next (if 16 ≤ (getThr s r.dest).pend.length then s
      else { modThr s r.dest (fun th => { th with pend := th.pend ++ [r] }) with reports := s.reports.eraseIdx n }) := by
  show execPendingReportArrival n s = _
  simp only [execPendingReportArrival, hr, none_earlier hf, Bool.false_eq_true, false_or]
  rfl

/-- The trap of a report. -/
def reportTrap (r : Report) : TrapInfo :=
  { cause := r.cause, async := true, tval := r.tval, tinfo := r.tinfo, tcoord := r.tcoord, lid := r.lid, held := r.held,
    tagged := r.tagged }

theorem exec_asyncTrapEntry {s : State} {t : Tid} {r : Report} {rest : List Report} (hp : (getThr s t).pend = r :: rest)
    (ha : (getThr s t).ae = true) (hh : (getThr s t).ht = false) (hl : (getThr s t).halted = false)
    (hs : (getThr s t).stopped = false) (he : (getThr s t).errs = []) (hpc : (getThr s t).pc.toNat % 4 = 0) :
    exec (.asyncTrapEntry t) s = .next (enterTrap (modThr s t fun th => { th with pend := rest }) t
      (reportTrap r) (getThr s t).pc (getThr s t).tvec) := by
  show execAsyncTrapEntry t s = _
  simp only [execAsyncTrapEntry, hp, ha, hh, hl, hs, he, hpc, Bool.not_true, Bool.or_self, ne_eq, not_true_eq_false, decide_false,
    Bool.false_eq_true, if_false, List.isEmpty_nil]
  rfl

theorem exec_asyncTrapEntry_masked {s : State} {t : Tid} (h : (getThr s t).ae = false ∨ (getThr s t).ht = true) :
    exec (.asyncTrapEntry t) s = .next s := by
  show execAsyncTrapEntry t s = _
  unfold execAsyncTrapEntry
  dsimp only
  split
  · rfl
  · rw [if_pos]
    rcases h with h | h <;> rw [h] <;> simp

/-! ### Results of async instructions -/

theorem exec_asyncCompletion_ready {s : State} {t : Tid} {n : Nat} {a : Async} {v : Word}
    (ha : (getThr s t).asyncs[n]? = some a) (hw : a.wait = .ready v) :
    exec (.asyncCompletion t n) s = .next (landAsync s t n a v) := by
  show execAsyncCompletion t n s = _
  simp only [execAsyncCompletion, ha, hw, settleAsync]

theorem getThr_landAsync (s : State) (t : Tid) (n : Nat) (a : Async) (v : Word) : getThr (landAsync s t n a v) t =
    let th := clearAhead { getThr s t with asyncs := (getThr s t).asyncs.eraseIdx n }
    if a.squashed then { th with lsq := true } else sbClear (writeReg th a.rd v) a.rd := getThr_modThr ..

/-! ### The end of a blocking wait -/

/-- The state in which the blocking instruction of thread t is tried again. -/
def retried (s : State) (t : Tid) : State := modThr { s with cur := t } t fun th => { th with wait := none }

theorem exec_blockingWaitEnd {s u : State} {t : Tid} {i : Instr} (hw : (getThr s t).wait = some i)
    (hh : (getThr s t).halted = false) (hs : (getThr s t).stopped = false) (hu : tryBlocked i (retried s t) = some u) :
    exec (.blockingWaitEnd t) s = .next u := by
  show execBlockingWaitEnd t s = _
  unfold retried at hu
  simp only [execBlockingWaitEnd, hw, hh, hs, hu, Bool.false_eq_true, or_self, if_false]

theorem curThr_retried (s : State) (t : Tid) : curThr (retried s t) = { getThr s t with wait := none } := getThr_modThr ..

theorem rs_retried (s : State) (t : Tid) (r : RegNo) : rs (retried s t) r = readReg (getThr s t) r := by
  unfold rs
  rw [curThr_retried]
  rfl

theorem barArg_retried (s : State) (t : Tid) (v : Nat) : barArg (retried s t) v = barArg { s with cur := t } v := by
  have h : curPart (retried s t) = curPart { s with cur := t } := by
    unfold curPart
    rw [curThr_retried]
    rfl
  unfold barArg
  rw [h]
  rfl

/-- What the end of a blocking wait leaves: rd written, the ahead-fetched words dropped, the thread past its instruction. -/
theorem finish_retried (s : State) (t : Tid) (rd : RegNo) (v : Word) :
    let u := finish (modCur (retried s t) clearAhead) rd v
    (getThr u t).wait = none ∧ (getThr u t).pc = (getThr s t).pc + 4 ∧
    readReg (getThr u t) rd = (if rd = 0 then 0 else v) ∧
    (∀ q, q ≠ rd → readReg (getThr u t) q = readReg (getThr s t) q) ∧ (∀ k, k ≠ t → getThr u k = getThr s k) ∧
    SameBytes s u := by
  intro u
  have hu : getThr u t = advance (writeReg (clearAhead { getThr s t with wait := none }) rd v) :=
    (getThr_modThr ..).trans (congrArg (fun th => advance (writeReg th rd v))
      ((getThr_modThr ..).trans (congrArg clearAhead (curThr_retried s t))))
  refine ⟨?_, ?_, ?_, fun q hq => ?_, fun k hk => ?_, ?_⟩
  · rw [hu, writeReg_eq]; rfl
  · rw [hu, writeReg_eq]; rfl
  · rw [hu]; exact (readReg_congr rd rfl).trans (readReg_writeReg _ _ _)
  · rw [hu]; exact (readReg_congr q rfl).trans ((readReg_writeReg_other _ _ hq).trans (readReg_congr q rfl))
  · exact (getThr_modThr_other _ _ hk).trans ((getThr_modThr_other _ _ hk).trans (getThr_modThr_other _ _ hk))
  · exact fun a => ⟨rfl, rfl, rfl⟩

theorem tryBarwait_ends {s : State} {rd rs1 rs2 : RegNo} {k : Nat × Nat × Nat} (hk : barArg s (rs s rs1).toNat = .ok k)
    (h2 : (rs s rs2).toNat < 2) (ha : (getBar s k).armed = true) (hp : (getBar s k).phase ≠ (rs s rs2).getLsbD 0) :
    tryBarwait rd rs1 rs2 s = some (finish (modCur s clearAhead) rd (okWord (b2n (getBar s k).phase))) := by
  unfold tryBarwait
  rw [hk]
  dsimp only
  rw [if_neg (by omega), ha, if_neg (by simp), if_pos hp]

theorem tryCpywait_ends {s : State} {rd rs1 rs2 : RegNo} {x : Tile} (hx : getTile s (packetTile s.cur.pkg (rs s rs1).toNat) = x)
    (hv : (rs s rs1).toNat < 2 ^ 18) (hg : (curThr s).gone = false) (h0 : x.state ≠ 0) (hp : x.part = curPart s)
    (hm : (rs s rd).toNat * 2 ^ 64 + (rs s rs2).toNat < 2 ^ tileChunks x)
    (hc : BitVec.ofNat 128 ((rs s rd).toNat * 2 ^ 64 + (rs s rs2).toNat) &&& ~~~x.cmap = 0) :
    tryCpywait rd rs1 rs2 s = some (finish (modCur s clearAhead) rd (okWord 0)) := by
  unfold tryCpywait
  extract_lets v m t
  have ht : t = x := hx
  clear_value t
  subst ht
  rw [if_neg (Nat.not_le.2 hv), if_neg (by rw [hg]; simp [h0]), if_neg (by simp [hp]), if_neg (Nat.not_le.2 hm), if_pos hc]

theorem packetTile_of_lt {pkg v : Nat} (h : v < 2 ^ 18) :
    packetTile pkg v = { pkg := pkg, die := v / 2 ^ 16, handle := v % 2 ^ 16 } := by
  unfold packetTile bits
  congr 1
  · omega
  · simp

/-- No masked chunk bit is missing. -/
theorem mask_within {m : Nat} {c : BitVec 128} (h : ∀ k, k < 128 → m.testBit k = true → c.getLsbD k = true) :
    BitVec.ofNat 128 m &&& ~~~c = 0 := by
  apply BitVec.eq_of_getLsbD_eq
  intro k hk
  rw [BitVec.getLsbD_and, BitVec.getLsbD_not, BitVec.getLsbD_ofNat]
  cases hm : m.testBit k with
  | false => simp
  | true => simp [h k hk hm]

theorem causeWord_report {r : Report} {ae : Bool} (h : ae = true) :
    causeWord (reportTrap r) ae =
      BitVec.ofNat 64 (r.cause + 2 ^ 16 + (if holdsWork r.held then 2 ^ 17 else 0) + 2 ^ 18) := by
  unfold causeWord reportTrap
  rw [h]
  cases holdsWork r.held <;> rfl

/-- Settles O27: each arrival, entry and completion answers the effect of its instruction on its thread. -/
theorem reportsAndCompletions : Obligations.ReportsAndCompletions := by
  unfold Obligations.ReportsAndCompletions
  intro s t th
  refine ⟨fun n r hr hd hf => ?_, fun r rest hp ha hh hl hs he hpc => ?_, exec_asyncTrapEntry_masked,
    fun n a v ha hw => ?_, fun rd rs1 rs2 hh hs => ⟨fun hw k hk h2 ha hp => ?_, fun hw hg hv h0 hp hm hc => ?_⟩⟩
  · subst hd
    have hx := exec_pendingReportArrival hr hf
    have hm := modThr_onlyThread s r.dest fun th => { th with pend := th.pend ++ [r] }
    have hr := getThr_modThr s r.dest fun th => { th with pend := th.pend ++ [r] }
    exact ⟨fun h => ⟨_, hx.trans (congrArg _ (if_neg (Nat.not_le.2 h))), hr, rfl, hm.2⟩,
      fun h => hx.trans (congrArg _ (if_pos h))⟩
  · refine ⟨_, exec_asyncTrapEntry hp ha hh hl hs he hpc, fun k hk => ?_, ?_, ?_⟩
    · rw [getThr_enterTrap, getThr_modThr_other _ _ hk, getThr_modThr_other _ _ hk]
    · exact ((enterTrap_touches ..).after (l := [.threads, .traces]) (by decide)
        ((modThr_touches ..).mono (by decide))).sameBytes (by decide)
    · rw [getThr_enterTrap, getThr_modThr, getThr_modThr]
      exact congrArg (fun c => { trapEntry { th with pend := rest } (reportTrap r) th.pc th.tvec with cause := c })
        (causeWord_report ha)
  · refine ⟨_, exec_asyncCompletion_ready ha hw, modThr_onlyThread _ _ _, ?_⟩
    rw [getThr_landAsync]
    dsimp only
    cases hq : a.squashed with
    | true => exact ⟨rfl, rfl, fun _ => ⟨rfl, rfl, rfl⟩, fun h => absurd h.symm Bool.false_ne_true⟩
    | false =>
      rw [if_neg Bool.false_ne_true]
      refine ⟨?_, ?_, fun h => absurd h Bool.false_ne_true, fun _ => ⟨fun q => ?_, ?_, fun q hq => ?_⟩⟩
      · rw [writeReg_eq]; rfl
      · rw [writeReg_eq]; rfl
      · rw [getLsbD_sbClear, writeReg_eq]; rfl
      · exact (readReg_congr _ rfl).trans (readReg_writeReg _ _ _)
      · exact (readReg_congr q rfl).trans ((readReg_writeReg_other _ _ hq).trans (readReg_congr q rfl))
  · have hx := exec_blockingWaitEnd hw hh hs (tryBarwait_ends (rd := rd) (rs1 := rs1) (rs2 := rs2) (k := k) (s := retried s t)
      (by rw [rs_retried, barArg_retried]; exact hk) (by rw [rs_retried]; exact h2) ha (by rw [rs_retried]; exact hp))
    have hv : okWord (b2n (getBar (retried s t) k).phase) = if (getBar s k).phase = true then 1 else 0 := by
      show okWord (b2n (getBar s k).phase) = _
      cases (getBar s k).phase <;> rfl
    rw [hv] at hx
    exact ⟨_, hx, finish_retried s t rd _⟩
  · have hpart : curPart (retried s t) = th.part := by
      unfold curPart
      rw [curThr_retried]
    exact ⟨_, exec_blockingWaitEnd hw hh hs (tryCpywait_ends (s := retried s t) rfl (by rw [rs_retried]; exact hv)
      (by rw [curThr_retried]; exact hg) (by rw [rs_retried, packetTile_of_lt hv]; exact h0)
      (by rw [rs_retried, packetTile_of_lt hv, hpart]; exact hp)
      (by rw [rs_retried, rs_retried, rs_retried, packetTile_of_lt hv]; exact hm)
      (by rw [rs_retried, rs_retried, rs_retried, packetTile_of_lt hv]; exact mask_within hc)), finish_retried s t rd _⟩

end Sys2Proof.Machine
end

section
/-!
PROOFS. Proofs/Arrivals.lean: what a token that arrives leaves in its row (spec/01 R23 to R28).
-/
namespace Sys2Proof.Machine

/-! ### A row kept in backing with no tokens -/

/-- The DUP that the token below reaches. -/
def backedDup : Op where
  word := BitVec.ofNat 256 (0x03 * 2 ^ 248 + 2 ^ 226 + 2 ^ 223)
  eng := ⟨0, 0, 0, 0⟩
  cons := [{ dst := { eng := ⟨0, 0, 0, 0⟩, slot := 1 } }]

/-- A signal for the DUP's left position. -/
def backedToken : Token where
  dst := { eng := ⟨0, 0, 0, 0⟩ }
  src := { eng := ⟨0, 0, 0, 0⟩, slot := 2 }
  kind := 3
  path := pathInPackage ⟨0, 0, 0, 0⟩ ⟨0, 0, 0, 0⟩

/-- Graph 0 holds the DUP, whose row 0 stands in backing with no token in it, and the token is under way. -/
def emptyBacked : State where
  graphs := [((0, 0), { reloc := [(0, 0, 0)], ops := [backedDup] })]
  pageOn := [((0, 0, 0), true)]
  engines := [(⟨0, 0, 0, 0⟩, { rows := [{ backed := true }] })]
  inFlight := [backedToken]

/-- The DUP in its graph. -/
def backedDupRef : OpRef where
  key := (0, 0)
  g := { reloc := [(0, 0, 0)], ops := [backedDup] }
  i := 0
  op := backedDup

theorem emptyBacked_gate : gate emptyBacked ⟨0, 0, 0, 0⟩ (walked backedToken) = .row backedDupRef emptyBacked := (rfl)

/-- Whether the row 0 of slot 0 is in backing after an instruction. -/
def backedAfter : Out → Option Bool
  | .next u => (findRow (getEng u ⟨0, 0, 0, 0⟩) 0 0).map fun q => q.backed
  | _ => none

theorem emptyBacked_stays : backedAfter (exec (.tokenArrival ⟨0, 0, 0, 0⟩ 0) emptyBacked) = some true := by decide +kernel

/-- A backed row whose physical row is free comes back into it. -/
theorem makeRoom_of_free {s : State} {e : Eng} {slot vrow : Nat} {q : Row} (ho : occupant (getEng s e) vrow = none)
    (hq : findRow (getEng s e) slot vrow = some q) (hb : q.backed = true) : makeRoom s e slot vrow = .ok (refillRow s e q) := by
  unfold makeRoom
  simp only [ho, hq, hb, if_true]

/-- Refutes O28: the refill of a row that holds no token removes it, so the token of emptyBacked joins the row as it stood before, which
is marked as backed. -/
theorem not_tokenArrives : ¬ Obligations.TokenArrives := by
  intro h
  have ha := h emptyBacked ⟨0, 0, 0, 0⟩ 0 backedToken backedDupRef rfl (by simp) rfl (by decide +kernel) (by decide +kernel) rfl rfl rfl
    (by decide) emptyBacked_gate (by decide +kernel) (by decide +kernel)
  obtain ⟨-, joins⟩ := ha.2.2 (by decide +kernel) (by decide +kernel)
  obtain ⟨u, hu, -, -, -, x, hx, -, hb, -⟩ := (joins (by decide +kernel) (by decide +kernel)).1 _ (makeRoom_of_free rfl rfl rfl)
  have hs := emptyBacked_stays
  rw [hu] at hs
  have hx' : findRow (getEng u ⟨0, 0, 0, 0⟩) 0 0 = some x := hx
  rw [show backedAfter (.next u) = some x.backed from congrArg (Option.map Row.backed) hx', hb] at hs
  exact absurd hs (by decide)

end Sys2Proof.Machine
end

section
/-!
PROOFS. Proofs/Colours.lean: graphs, regions and colours, and what an update leaves in a live count (spec/01 R17 to R22).
-/
namespace Sys2Proof.Machine

/-! ### Graphs and regions -/

theorem getGraph_modGraph (s : State) (k : Nat × Nat) (f : Graph → Graph) :
    getGraph (modGraph s k f) k = (getGraph s k).map f := by
  unfold modGraph
  split
  · next g hg => rw [getGraph_setGraph, hg]; rfl
  · next hg => rw [hg]; rfl

theorem getGraph_modGraph_other (s : State) {k j : Nat × Nat} (f : Graph → Graph) (h : j ≠ k) :
    getGraph (modGraph s k f) j = getGraph s j := by
  unfold modGraph
  split
  · exact getGraph_setGraph_other s _ h
  · rfl

theorem Touches.getGraph {l : List Field} {s t : State} (h : Touches l s t) (hl : l.contains .graphs = false) (k : Nat × Nat) :
    getGraph t k = getGraph s k := by
  have e : t.graphs = s.graphs := h.same .graphs (by simpa using hl)
  unfold Machine.getGraph
  rw [e]

theorem Touches.getRegion {l : List Field} {s t : State} (h : Touches l s t) (hl : l.contains .graphs = false) (k : ColKey) :
    getRegion t k = getRegion s k := by
  unfold Machine.getRegion
  rw [h.getGraph hl]

theorem getRegion_modRegion (s : State) (k : ColKey) (f : Region → Region) :
    getRegion (modRegion s k.pkg k.graph k.region f) k = (getRegion s k).map f := by
  unfold getRegion modRegion
  rw [getGraph_modGraph]
  cases getGraph s (k.pkg, k.graph) with
  | none => rfl
  | some g =>
    show (g.regions.modify k.region f)[k.region]? = _
    rw [List.getElem?_modify_eq]
    rfl

/-! ### Colour records -/

theorem colourIs_iff {s : State} {k : ColKey} {c : Colour} :
    ColourIs s k c ↔ ∃ r, getRegion s k = some r ∧ r.recs[k.colour]? = some c := by
  unfold ColourIs
  exact Option.bind_eq_some_iff

theorem ColourIs.getCol {s : State} {k : ColKey} {c : Colour} (h : ColourIs s k c) : getCol s k = c := by
  unfold Machine.getCol
  rw [show ((getRegion s k).bind fun r => r.recs[k.colour]?) = some c from h]
  rfl

theorem ColourIs.touches {l : List Field} {s t : State} {k : ColKey} {c : Colour} (hc : ColourIs s k c) (h : Touches l s t)
    (hl : l.contains .graphs = false) : ColourIs t k c := by
  unfold ColourIs
  rw [h.getRegion hl]
  exact hc

/-- A change of a colour's region that rewrites its record. -/
theorem ColourIs.modRegion {s : State} {k : ColKey} {c : Colour} (h : ColourIs s k c) {f : Region → Region} {g : Colour → Colour}
    (hf : ∀ r, (f r).recs = lmod k.colour g r.recs) : ColourIs (modRegion s k.pkg k.graph k.region f) k (g c) := by
  obtain ⟨r, hr, hc⟩ := colourIs_iff.1 h
  refine colourIs_iff.2 ⟨f r, by rw [getRegion_modRegion, hr]; rfl, ?_⟩
  rw [hf]
  show (r.recs.modify k.colour g)[k.colour]? = _
  rw [List.getElem?_modify_eq, hc]
  rfl

theorem ColourIs.modCol {s : State} {k : ColKey} {c : Colour} (h : ColourIs s k c) (g : Colour → Colour) :
    ColourIs (modCol s k g) k (g c) := h.modRegion fun _ => rfl

/-! ### Returning a colour -/

/-- A colour that is not due stays. -/
theorem settle_stays (n : Nat) {s : State} {k : ColKey} {c : Colour} (hc : ColourIs s k c)
    (h : (c.busy && c.closed && decide (c.live = 0)) = false) : settle n s k = s := by
  cases n with
  | zero => rfl
  | succ n =>
    unfold settle
    extract_lets c'
    rw [if_neg]
    rw [show c' = c from hc.getCol, h]
    decide

/-- A colour that is due, balanced and holds nothing goes back to its region's list with its record zeroed. -/
theorem settle_returns (n : Nat) {s : State} {k : ColKey} {c : Colour} (hc : ColourIs s k c)
    (h : (c.busy && c.closed && decide (c.live = 0)) = true) (hb : c.pbal = 0) (hcl : c.closer = none) (hh : c.hold = none) :
    ColourIs (settle (n + 1) s k) k {} ∧
      (getRegion (settle (n + 1) s k) k).map (·.free) = (getRegion s k).map fun r => r.free ++ [k.colour] := by
  unfold settle
  extract_lets c' home part s1 s2 s3 s4
  have ec : c' = c := hc.getCol
  have e1 : s1 = s := by unfold s1; rw [ec, hb]; rfl
  have e2 : s2 = s1 := by unfold s2; rw [ec, hcl]
  rw [if_pos (by rw [ec]; exact h), ec, hh]
  have hs3 : ∀ w, Touches [.launches] s3 w → ColourIs w k {} ∧
      (getRegion w k).map (·.free) = (getRegion s k).map fun r => r.free ++ [k.colour] := by
    intro w hw
    have h3 : ColourIs s3 k {} := by
      unfold s3
      rw [e2, e1]
      exact hc.modRegion (g := fun _ => {}) fun _ => rfl
    refine ⟨h3.touches hw (by decide), ?_⟩
    rw [hw.getRegion (by decide)]
    unfold s3
    rw [getRegion_modRegion, e2, e1, Option.map_map]
    rfl
  show ColourIs s4 k {} ∧ _
  unfold s4
  split
  · exact hs3 _ (rootReturned_touches ..)
  · exact hs3 _ .rfl

/-- A drop that leaves the colour where it is. -/
theorem dropLive_stays {s : State} {k : ColKey} {c : Colour} (hc : ColourIs s k c)
    (h : c.busy = false ∨ c.closed = false ∨ c.live - 1 ≠ 0) : ColourIs (dropLive s k) k { c with live := c.live - 1 } := by
  have hm := hc.modCol fun c => { c with live := c.live - 1 }
  have hs : dropLive s k = modCol s k fun c => { c with live := c.live - 1 } :=
    settle_stays settleFuel hm (by rcases h with h | h | h <;> simp [h])
  rw [hs]
  exact hm

/-- A drop of the last unit of a closed colour. -/
theorem dropLive_returns {s : State} {k : ColKey} {c : Colour} (hc : ColourIs s k c) (hb : c.busy = true) (hcl : c.closed = true)
    (hl : c.live = 1) (hp : c.pbal = 0) (hr : c.closer = none) (hh : c.hold = none) : ColourIs (dropLive s k) k {} ∧
      (getRegion (dropLive s k) k).map (·.free) = (getRegion s k).map fun r => r.free ++ [k.colour] := by
  have hm := hc.modCol fun c => { c with live := c.live - 1 }
  obtain ⟨h1, h2⟩ := settle_returns 65535 hm (by simp [hb, hcl, hl]) hp hr hh
  refine ⟨h1, h2.trans ?_⟩
  unfold modCol
  rw [getRegion_modRegion, Option.map_map]
  rfl

/-! ### Updates -/

/-- The colour of an update that is taken from the list. -/
theorem ColourIs.taken {s : State} {k : ColKey} {c : Colour} (h : ColourIs s k c) (n : Nat) :
    ColourIs { s with updates := s.updates.eraseIdx n } k c := h

theorem balOut_zero (s : State) (k : ColKey) : balOut s k 0 = false := rfl

/-- An update of no steering balance at a colour whose count is at its greatest. -/
theorem exec_increment_waits {s : State} {n : Nat} {u : LiveUpdate} {c : Colour} (hu : s.updates[n]? = some u) (hi : u.inc = true)
    (hc : ColourIs s u.key c) (hl : c.live = 2 ^ 24 - 1) : exec (.liveCountUpdate n) s = .next s := by
  have hr : liveRoom s u.key = false := by unfold liveRoom; rw [hc.getCol, hl]; rfl
  show execLiveCountUpdate n s = _
  simp only [execLiveCountUpdate, hu, hi, hr, Bool.not_false, if_true]

/-- An increment releases its token. -/
theorem exec_increment {s : State} {n : Nat} {u : LiveUpdate} {c : Colour} {t : Token} (hu : s.updates[n]? = some u)
    (hi : u.inc = true) (hp : u.pb = 0) (hc : ColourIs s u.key c) (hl : c.live < 2 ^ 24 - 1) (ht : u.tok = some t)
    (hf : (s.updates.take n).any (samePairUpd t) = false) : exec (.liveCountUpdate n) s = .next (touch
      { holdLive { s with updates := s.updates.eraseIdx n } u.key with inFlight := s.inFlight ++ [t] } u.key.pkg u.lid) := by
  have hr : liveRoom s u.key = true := by unfold liveRoom; rw [hc.getCol]; exact decide_eq_true hl
  have he : (holdLive { s with updates := s.updates.eraseIdx n } u.key).inFlight = s.inFlight :=
    (holdLive_touches _ u.key).same .inFlight (by decide)
  show execLiveCountUpdate n s = _
  simp only [execLiveCountUpdate, hu, hi, hr, hp, ht, hf, balOut_zero, addBal, he, Bool.not_true, Bool.false_eq_true, if_true, if_false]

/-- A decrement waits for the increments of its firing. -/
theorem exec_decrement_waits {s : State} {n : Nat} {u : LiveUpdate} (hu : s.updates[n]? = some u) (hi : u.inc = false)
    (h : ∃ v ∈ s.updates, v.firing = u.firing ∧ v.inc = true) : exec (.liveCountUpdate n) s = .next s := by
  have ha : (s.updates.any fun v => v.firing = u.firing ∧ v.inc) = true := by simpa using h
  show execLiveCountUpdate n s = _
  simp only [execLiveCountUpdate, hu, hi, ha, Bool.false_eq_true, if_true, if_false]

/-- A decrement lowers its colour's count. -/
theorem exec_decrement {s : State} {n : Nat} {u : LiveUpdate} (hu : s.updates[n]? = some u) (hi : u.inc = false) (hp : u.pb = 0)
    (h : ∀ v ∈ s.updates, v.firing = u.firing → v.inc = false) :
    exec (.liveCountUpdate n) s = .next (dropLive { s with updates := s.updates.eraseIdx n } u.key) := by
  have ha : (s.updates.any fun v => v.firing = u.firing ∧ v.inc) = false := by simpa using h
  show execLiveCountUpdate n s = _
  simp only [execLiveCountUpdate, hu, hi, ha, hp, balOut_zero, addBal, Bool.false_eq_true, if_true, if_false]

/-- What the release of a token may change. -/
theorem release_touches (s : State) (l : List Token) (pkg lid : Nat) :
    Touches [.inFlight, .launches] s (touch { s with inFlight := l } pkg lid) :=
  .trans (.put rfl) ((touch_touches _ pkg lid).mono (by decide))

/-- Settles O29: an update's four outcomes are those of exec_increment_waits, exec_increment, exec_decrement_waits and
exec_decrement, whose drop either leaves the colour or returns it. -/
theorem liveCounts : Obligations.LiveCounts := by
  intro s n u c hu hp hc
  refine ⟨fun hi hl => exec_increment_waits hu hi hc hl, fun hi hl t ht hf => ?_, fun hi h => exec_decrement_waits hu hi h,
    fun hi h => ⟨fun hs => ?_, fun hb hcl hl hpb hr hh => ?_⟩⟩
  · have h1 := holdLive_touches { s with updates := s.updates.eraseIdx n } u.key
    have h2 := release_touches (holdLive { s with updates := s.updates.eraseIdx n } u.key) (s.inFlight ++ [t]) u.key.pkg u.lid
    have h12 := Touches.after (l := [.graphs, .inFlight, .launches]) h2 (by decide) (h1.mono (by decide))
    have hm := (hc.taken n).modCol fun c => { c with live := c.live + 1 }
    have hi2 := (touch_touches { holdLive { s with updates := s.updates.eraseIdx n } u.key with inFlight := s.inFlight ++ [t] }
      u.key.pkg u.lid).same .inFlight (by decide)
    exact ⟨_, exec_increment hu hi hp hc hl ht (List.any_eq_false.2 fun v hv => by rw [hf v hv]; decide),
      Eq.trans (h2.same .updates (by decide)) (h1.same .updates (by decide)), hi2, hm.touches h2 (by decide),
      Eq.trans (h2.same .threads (by decide)) (h1.same .threads (by decide)),
      h12.sameBytes (by decide)⟩
  all_goals
    have hx := exec_decrement hu hi hp h
    have hd := dropLive_touches { s with updates := s.updates.eraseIdx n } u.key
  · exact ⟨_, hx, hd.same .updates (by decide), dropLive_stays (hc.taken n) hs, hd.same .inFlight (by decide),
      hd.same .threads (by decide), hd.sameBytes (by decide)⟩
  · obtain ⟨h1, h2⟩ := dropLive_returns (hc.taken n) hb hcl hl hpb hr hh
    exact ⟨_, hx, hd.same .updates (by decide), h1, h2, hd.same .threads (by decide), hd.sameBytes (by decide)⟩

end Sys2Proof.Machine
end

section
/-!
PROOFS. Proofs/Arbiters.lean: the engines and their slots, and which activation a cycle selects (spec/12 R284 to R286).
-/
namespace Sys2Proof.Machine

/-! ### Engines and their slots -/

theorem Touches.getEng {l : List Field} {s t : State} (h : Touches l s t) (hl : l.contains .engines = false) (e : Eng) :
    getEng t e = getEng s e := by
  have k : t.engines = s.engines := h.same .engines (by simpa using hl)
  unfold Machine.getEng
  rw [k]

@[simp] theorem getEng_modEng (s : State) (e : Eng) (f : Engine → Engine) : getEng (modEng s e f) e = f (getEng s e) :=
  getEng_setEng s e _

theorem getEng_modEng_other (s : State) {e k : Eng} (f : Engine → Engine) (h : k ≠ e) : getEng (modEng s e f) k = getEng s k :=
  getEng_setEng_other s _ h

theorem tget_tmod_same {κ α : Type} [DecidableEq κ] (d : α) (k : κ) (f : α → α) (t : Tbl κ α) :
    tget d k (tmod d k f t) = f (tget d k t) := tget_tset_same ..

theorem tget_tmod_other {κ α : Type} [DecidableEq κ] (d : α) {k j : κ} (f : α → α) (t : Tbl κ α) (h : j ≠ k) :
    tget d j (tmod d k f t) = tget d j t := tget_tset_other _ _ _ h

/-- An operator that an engine finds in a slot stands there. -/
theorem findOp_spec {s : State} {e : Eng} {slot : Nat} {r : OpRef} (h : findOp s e slot = some r) :
    r.op.eng = e ∧ r.op.slot = slot := by
  unfold findOp at h
  obtain ⟨k, -, hk⟩ := List.exists_of_findSome?_eq_some h
  split at hk
  · cases hk
  · split at hk
    · next i hi =>
      obtain ⟨o, ho, rfl⟩ := Option.map_eq_some_iff.1 hk
      obtain ⟨hlt, hp, -⟩ := List.findIdx?_eq_some_iff_getElem.1 hi
      rw [List.getElem?_eq_getElem hlt] at ho
      cases ho
      exact of_decide_eq_true hp
    · cases hk

theorem Touches.findOp {l : List Field} {s t : State} (h : Touches l s t) (hl : l.contains .graphs = false) (e : Eng) (slot : Nat) :
    findOp t e slot = findOp s e slot := by
  have k : t.graphs = s.graphs := h.same .graphs (by simpa using hl)
  unfold Machine.findOp
  rw [k]

/-! ### A cycle counts the occupancy -/

/-- Two slot records differ in their occupancy alone. -/
def SlotDyn.SameButOcc (c d : SlotDyn) : Prop := d = { c with occ := d.occ }

theorem SlotDyn.SameButOcc.trans {a b c : SlotDyn} (h : a.SameButOcc b) (k : b.SameButOcc c) : a.SameButOcc c := by
  unfold SlotDyn.SameButOcc at *
  rw [k, h]

theorem occupy_sameButOcc (ks : List Nat) (t : Tbl Nat SlotDyn) (j : Nat) : (tget {} j t).SameButOcc
    (tget {} j (ks.foldl (fun t k => tmod {} k (fun d : SlotDyn => { d with occ := d.occ + 1 }) t) t)) := by
  induction ks generalizing t with
  | nil => rfl
  | cons k ks ih =>
    refine .trans ?_ (ih _)
    by_cases h : j = k
    · subst h; rw [tget_tmod_same]; rfl
    · rw [tget_tmod_other _ _ _ h]; rfl

/-- The state in which a cycle of engine e looks for an activation. -/
def counted (s : State) (e : Eng) : State :=
  addOcc (modEng s e fun x => { x with cycles := x.cycles + 1, epoch := x.epoch + 1 }) e

theorem counted_touches (s : State) (e : Eng) : Touches [.engines] s (counted s e) :=
  .trans (modEng_touches ..) (addOcc_touches ..)

theorem getEng_counted_other (s : State) {e k : Eng} (h : k ≠ e) : getEng (counted s e) k = getEng s k :=
  (getEng_setEng_other _ _ h).trans (getEng_modEng_other _ _ h)

/-- A cycle changes its engine's counters and the occupancy of its slots. -/
theorem getEng_counted (s : State) (e : Eng) : ∃ slots, getEng (counted s e) e =
      { getEng s e with cycles := (getEng s e).cycles + 1, epoch := (getEng s e).epoch + 1, slots := slots } ∧
    ∀ j, (tget {} j (getEng s e).slots).SameButOcc (tget {} j slots) := by
  unfold counted addOcc
  extract_lets x live ks
  have hx : x = { getEng s e with cycles := (getEng s e).cycles + 1, epoch := (getEng s e).epoch + 1 } := getEng_modEng ..
  exact ⟨_, by rw [getEng_setEng, hx], fun j => occupy_sameButOcc ..⟩

theorem unitTakes_counted (s : State) {e : Eng} {r : OpRef} (h : r.op.eng = e) :
    unitTakes (counted s e) r = unitTakes s r := by
  obtain ⟨sl, he, -⟩ := getEng_counted s e
  have hx : (counted s e).xfers = s.xfers := (counted_touches s e).same .xfers (by decide)
  have hi : getIsland (counted s e) e = getIsland s e := by
    unfold getIsland
    rw [show (counted s e).islands = s.islands from (counted_touches s e).same .islands (by decide)]
  unfold unitTakes
  simp only [h, he, hx, hi, (counted_touches s e).findOp (by decide)]

theorem candidates_counted (s : State) (e : Eng) : candidates (counted s e) e = candidates s e := by
  obtain ⟨sl, he, -⟩ := getEng_counted s e
  unfold candidates
  simp only [he, (counted_touches s e).findOp (by decide)]
  refine List.filterMap_congr fun p _ => ?_
  split
  · rfl
  · rw [show findRow { getEng s e with cycles := (getEng s e).cycles + 1, epoch := (getEng s e).epoch + 1, slots := sl } p.1.slot
      p.1.vrow = findRow (getEng s e) p.1.slot p.1.vrow from rfl]
    split
    · next r q hr hq => rw [unitTakes_counted s (findOp_spec hr).1]
    · rfl

/-! ### The operator of greatest credit -/

theorem bestSlot_spec : ∀ l : List (Nat × Int), l ≠ [] → ∃ b, bestSlot l = some b ∧ b ∈ l ∧
    ∀ p ∈ l, p.2 < b.2 ∨ (p.2 = b.2 ∧ b.1 ≤ p.1)
  | [], h => absurd rfl h
  | [(k, c)], _ => ⟨(k, c), rfl, by simp, by simp⟩
  | (k, c) :: q :: l, _ => by
    obtain ⟨⟨k', c'⟩, hb, hm, ho⟩ := bestSlot_spec (q :: l) (by simp)
    rw [bestSlot, hb]
    dsimp only
    split
    · next h =>
      refine ⟨_, rfl, List.mem_cons_self, fun p hp => ?_⟩
      rcases List.mem_cons.1 hp with rfl | hp
      · exact .inr ⟨rfl, Nat.le_refl _⟩
      · have hp := ho p hp
        dsimp only at hp ⊢
        omega
    · next h =>
      refine ⟨_, rfl, List.mem_cons_of_mem _ hm, fun p hp => ?_⟩
      rcases List.mem_cons.1 hp with rfl | hp
      · dsimp only
        omega
      · exact ho p hp

/-- The credits that a cycle writes, when the credit of each entry is a function of its slot. -/
theorem credits_written {F : Nat → Int} {j : Nat} : ∀ (cr : List (Nat × Int)) (t : Tbl Nat SlotDyn), (∀ p ∈ cr, p.2 = F p.1) →
    (j ∈ cr.map (·.1) ∨ (tget {} j t).credit = F j) →
    (tget {} j (cr.foldl (fun t p => tmod {} p.1 (fun d : SlotDyn => { d with credit := p.2 }) t) t)).credit = F j
  | [], t, _, h => h.resolve_left List.not_mem_nil
  | p :: cr, t, hF, h => by
    refine credits_written cr _ (fun q hq => hF q (List.mem_cons_of_mem _ hq)) ?_
    by_cases hj : j = p.1
    · subst hj
      exact .inr (by rw [tget_tmod_same]; exact hF p List.mem_cons_self)
    · rw [tget_tmod_other _ _ _ hj]
      exact h.imp (fun hm => (List.mem_cons.1 hm).resolve_left hj) id

/-! ### One cycle -/

/-- The weight of a candidate's slot. -/
def weightOf (x : Engine) (p : OpRef × Act) : Nat := (tget {} p.2.slot x.slots).weight

/-- Its credit with its weight added. -/
def scoreOf (x : Engine) (p : OpRef × Act) : Int := (tget {} p.2.slot x.slots).credit + (weightOf x p : Int)

/-- The class that a cycle serves, and the new urgent count. -/
def classOf (x : Engine) (c : List (OpRef × Act)) : Bool × Nat :=
  chooseClass (!(c.filter fun p => opPrio p.1.op).isEmpty) (!(c.filter fun p => !opPrio p.1.op).isEmpty) x.u

/-- The candidates of that class. -/
def ofClass (x : Engine) (c : List (OpRef × Act)) : List (OpRef × Act) :=
  if (classOf x c).1 then c.filter fun p => opPrio p.1.op else c.filter fun p => !opPrio p.1.op

/-- The slots after a cycle: the credits of the class, and then the chosen slot's. -/
def writeCredits (cr : List (Nat × Int)) (k : Nat) (c : Int) (t : Tbl Nat SlotDyn) : Tbl Nat SlotDyn :=
  tmod {} k (fun d : SlotDyn => { d with credit := c })
    (cr.foldl (fun t p => tmod {} p.1 (fun d : SlotDyn => { d with credit := p.2 }) t) t)

/-- The choice among the candidates of engine e (R284, R285). -/
def pick (s : State) (e : Eng) : State :=
  let x := getEng s e
  let c := candidates s e
  let o := ofClass x c
  let cr := o.map fun p => (p.2.slot, scoreOf x p)
  match bestSlot cr with
  | none => s
  | some (k, best) =>
    let slots := writeCredits cr k (best - (lsum (o.map (weightOf x)) : Int)) x.slots
    let s := setEng s e { x with u := (classOf x c).2, slots := slots }
    match o.find? fun p => p.2.slot = k with
    | some (r, a) => selectAct s r a
    | none => s

theorem exec_arbiterSelect_over {s : State} {e : Eng} (h : 1024 ≤ (getEng (reevalAll s) e).epoch) :
    exec (.arbiterSelect e) s = .next (reevalAll s) := congrArg Host.Outcome.next (if_pos h)

theorem exec_arbiterSelect {s : State} {e : Eng} (h : (getEng (reevalAll s) e).epoch < 1024) :
    exec (.arbiterSelect e) s = .next (pick (counted (reevalAll s) e) e) :=
  congrArg Host.Outcome.next (if_neg (Nat.not_le.2 h))

theorem SlotDyn.SameButOcc.credit {c d : SlotDyn} (h : c.SameButOcc d) : d.credit = c.credit := by rw [h]
theorem SlotDyn.SameButOcc.weight {c d : SlotDyn} (h : c.SameButOcc d) : d.weight = c.weight := by rw [h]

theorem weightOf_congr {x y : Engine} (h : ∀ j, (tget {} j x.slots).SameButOcc (tget {} j y.slots)) : weightOf y = weightOf x :=
  funext fun p => (h p.2.slot).weight

theorem scoreOf_congr {x y : Engine} (h : ∀ j, (tget {} j x.slots).SameButOcc (tget {} j y.slots)) : scoreOf y = scoreOf x :=
  funext fun p => by unfold scoreOf; rw [weightOf_congr h, (h p.2.slot).credit]

/-- A class that has a candidate is served. -/
theorem ofClass_ne_nil {x : Engine} {c : List (OpRef × Act)} (h : c ≠ []) : ofClass x c ≠ [] := by
  unfold ofClass classOf chooseClass
  cases hu : (c.filter fun p => opPrio p.1.op).isEmpty with
  | true =>
    simp only [Bool.not_true, Bool.not_false, if_true, Bool.false_eq_true, if_false]
    intro hn
    refine h (List.eq_nil_iff_forall_not_mem.2 fun p hp => ?_)
    rw [List.isEmpty_iff] at hu
    have h1 := List.filter_eq_nil_iff.1 hu p hp
    have h2 := List.filter_eq_nil_iff.1 hn p hp
    cases hq : opPrio p.1.op <;> simp [hq] at h1 h2
  | false =>
    cases hn : (c.filter fun p => !opPrio p.1.op).isEmpty with
    | true => simpa using List.isEmpty_eq_false_iff.1 hu
    | false =>
      simp only [Bool.not_false, Bool.not_true, Bool.false_eq_true, if_false]
      have hu := List.isEmpty_eq_false_iff.1 hu
      have hn := List.isEmpty_eq_false_iff.1 hn
      split <;> split
      all_goals assumption

theorem classOf_congr {x y : Engine} (h : y.u = x.u) : classOf y = classOf x := by
  unfold classOf
  rw [h]

theorem ofClass_congr {x y : Engine} (h : y.u = x.u) : ofClass y = ofClass x := by
  unfold ofClass
  rw [classOf_congr h]

/-- The bank that an activation is bound to when it is selected (R150). -/
def boundAct (s : State) (e : Eng) (r : OpRef) (a : Act) : Act :=
  if opKind r.op = 0x11 then { a with bank := some ((getIsland s e).act != (getIsland s e).swp) } else a

/-- An activation's binding. -/
theorem bound_spec {s s1 : State} {r : OpRef} {a b : Act}
    (h : (if opKind r.op = 0x11 then bindBank s r.op.eng a else (a, s)) = (b, s1)) :
    b = boundAct s r.op.eng r a ∧ Touches [.islands] s s1 := by
  unfold boundAct
  split at h
  · next hk =>
    refine ⟨?_, Touches.of_snd h (bindBank_touches ..)⟩
    unfold bindBank at h
    extract_lets i at h
    rw [if_pos hk]
    have hb := congrArg Prod.fst h
    rw [← show _ = b from hb]
    cases hs : i.swp with
    | true => rw [if_pos rfl, Bool.bne_true]
    | false => rw [if_neg Bool.false_ne_true, Bool.bne_false]
  · next hk => rw [if_neg hk]; cases h; exact ⟨rfl, .rfl⟩

/-- What a selection changes in its engine. -/
theorem getEng_selectAct (s : State) (r : OpRef) (a : Act) : getEng (selectAct s r a) r.op.eng =
    let x := { getEng s r.op.eng with ready := (getEng s r.op.eng).ready.erase a }
    if isFlowKind (opKind r.op) then { x with flow := x.flow ++ [boundAct s r.op.eng r a] }
    else { x with unit := x.unit ++ [boundAct s r.op.eng r a] } := by
  unfold selectAct
  extract_lets e
  split
  next b s1 hb =>
  obtain ⟨rfl, h1⟩ := bound_spec hb
  rw [getEng_modEng, h1.getEng (by decide)]

theorem getEng_selectAct_other (s : State) {r : OpRef} (a : Act) {k : Eng} (h : k ≠ r.op.eng) :
    getEng (selectAct s r a) k = getEng s k := by
  unfold selectAct
  extract_lets e
  split
  next b s1 hb =>
  rw [getEng_modEng_other _ _ h]
  exact (bound_spec hb).2.getEng (by decide) k

/-- A cycle with no candidate selects nothing. -/
theorem pick_none {s : State} {e : Eng} (h : candidates s e = []) : pick s e = s := by
  unfold pick ofClass
  simp only [h, List.filter_nil, ite_self, List.map_nil, bestSlot]

/-- The state in which the chosen activation is moved to its unit. -/
def credited (s : State) (e : Eng) (slots : Tbl Nat SlotDyn) : State :=
  setEng s e { getEng s e with u := (classOf (getEng s e) (candidates s e)).2, slots := slots }

/-- A cycle with candidates selects one whose credit none exceeds, the lowest slot of equals. -/
theorem pick_some {s : State} {e : Eng} (h : candidates s e ≠ []) : ∃ r a slots, let x := getEng s e
    let o := ofClass x (candidates s e)
    (r, a) ∈ o ∧ (∀ p ∈ o, scoreOf x p < scoreOf x (r, a) ∨ (scoreOf x p = scoreOf x (r, a) ∧ a.slot ≤ p.2.slot)) ∧
    pick s e = selectAct (credited s e slots) r a ∧
    ∀ p ∈ o, (tget {} p.2.slot slots).credit = scoreOf x p - if p.2.slot = a.slot then (lsum (o.map (weightOf x)) : Int) else 0 := by
  dsimp only
  generalize hx : getEng s e = x
  generalize ho : ofClass x (candidates s e) = o
  have hne : o ≠ [] := ho ▸ ofClass_ne_nil h
  obtain ⟨⟨k, best⟩, hb, hm, hmax⟩ := bestSlot_spec (o.map fun p => (p.2.slot, scoreOf x p)) (by simpa using hne)
  obtain ⟨p, hp, hpk⟩ := List.mem_map.1 hm
  have hscore : ∀ q : OpRef × Act, q.2.slot = k → scoreOf x q = best := fun q hq => by
    have e1 : q.2.slot = p.2.slot := hq.trans (congrArg Prod.fst hpk).symm
    refine Eq.trans ?_ (congrArg Prod.snd hpk)
    unfold scoreOf weightOf
    rw [e1]
  obtain ⟨⟨r, a⟩, hf⟩ := Option.isSome_iff_exists.1 (List.find?_isSome.2 ⟨p, hp, decide_eq_true (congrArg Prod.fst hpk)⟩ :
    (o.find? fun p => p.2.slot = k).isSome)
  have hak : a.slot = k := by simpa using List.find?_some hf
  have hbest : scoreOf x (r, a) = best := hscore (r, a) hak
  refine ⟨r, a, writeCredits (o.map fun p => (p.2.slot, scoreOf x p)) k (best - (lsum (o.map (weightOf x)) : Int)) x.slots,
    List.mem_of_find?_eq_some hf, fun q hq => ?_, ?_, fun q hq => ?_⟩
  · have := hmax _ (List.mem_map_of_mem hq)
    rw [hbest, hak]
    exact this
  · unfold pick
    simp only [hx, ho, hb, hf]
    unfold credited
    rw [hx]
  · unfold writeCredits
    by_cases hqk : q.2.slot = k
    · rw [if_pos (hqk.trans hak.symm), hqk, tget_tmod_same, hscore q hqk]
    · rw [if_neg (fun hc => hqk (hc.trans hak)), tget_tmod_other _ _ _ hqk, sub_zero]
      refine credits_written (F := fun j => (tget {} j x.slots).credit + ((tget {} j x.slots).weight : Int)) _ _ ?_ (.inl ?_)
      · rintro _ hp
        obtain ⟨p, -, rfl⟩ := List.mem_map.1 hp
        rfl
      · rw [List.map_map]
        exact List.mem_map_of_mem hq

theorem lsum_eq_sum (l : List Nat) : lsum l = l.sum := List.sum_eq_foldl.symm

theorem pick_touches (s : State) (e : Eng) : Touches [.engines, .islands] s (pick s e) := by
  by_cases h : candidates s e = []
  · rw [pick_none h]; exact .rfl
  · obtain ⟨r, a, slots, -, -, hp, -⟩ := pick_some h
    rw [hp]
    exact (selectAct_touches ..).after (by decide) ((setEng_touches ..).mono (by decide))

/-- A chosen activation belongs to an operator of its engine. -/
theorem eng_of_candidate {s : State} {e : Eng} {p : OpRef × Act} (h : p ∈ candidates s e) : p.1.op.eng = e := by
  unfold candidates at h
  obtain ⟨q, -, hq⟩ := List.mem_filterMap.1 h
  dsimp only at hq
  split at hq
  · cases hq
  · split at hq
    · next r w hr _ =>
      split at hq
      · cases hq; exact (findOp_spec hr).1
      · cases hq
    · cases hq

theorem mem_of_ofClass {x : Engine} {c : List (OpRef × Act)} {p : OpRef × Act} (h : p ∈ ofClass x c) : p ∈ c := by
  unfold ofClass at h
  split at h <;> exact List.mem_of_mem_filter h

/-- What a choice leaves in its engine. -/
theorem getEng_pick {s : State} {e : Eng} (h : candidates s e ≠ []) : ∃ r a, let x := getEng s e
    let o := ofClass x (candidates s e)
    (r, a) ∈ o ∧ (∀ p ∈ o, scoreOf x p < scoreOf x (r, a) ∨ (scoreOf x p = scoreOf x (r, a) ∧ a.slot ≤ p.2.slot)) ∧
    ∃ slots, (∀ p ∈ o, (tget {} p.2.slot slots).credit =
        scoreOf x p - if p.2.slot = a.slot then (lsum (o.map (weightOf x)) : Int) else 0) ∧
      getEng (pick s e) e =
        let y := { x with u := (classOf x (candidates s e)).2, slots := slots, ready := x.ready.erase a }
        if isFlowKind (opKind r.op) then { y with flow := x.flow ++ [boundAct s e r a] }
        else { y with unit := x.unit ++ [boundAct s e r a] } := by
  obtain ⟨r, a, slots, hm, hmax, hp, hcr⟩ := pick_some h
  have he : r.op.eng = e := eng_of_candidate (mem_of_ofClass hm)
  refine ⟨r, a, hm, hmax, slots, hcr, ?_⟩
  have hs := getEng_selectAct (credited s e slots) r a
  have hi : getIsland (credited s e slots) e = getIsland s e := rfl
  unfold boundAct at hs ⊢
  rw [hp]
  rw [he, show getEng (credited s e slots) e = _ from getEng_setEng .., hi] at hs
  exact hs

/-- A choice leaves the rows and the counters. -/
theorem getEng_pick_keeps (s : State) (e : Eng) : (getEng (pick s e) e).cycles = (getEng s e).cycles ∧
    (getEng (pick s e) e).epoch = (getEng s e).epoch ∧ (getEng (pick s e) e).rows = (getEng s e).rows := by
  by_cases h : candidates s e = []
  · rw [pick_none h]; exact ⟨rfl, rfl, rfl⟩
  · obtain ⟨r, a, -, -, slots, -, hp⟩ := getEng_pick h
    rw [hp]
    dsimp only
    split <;> exact ⟨rfl, rfl, rfl⟩

theorem getEng_pick_other {s : State} {e k : Eng} (h : k ≠ e) : getEng (pick s e) k = getEng s k := by
  by_cases hc : candidates s e = []
  · rw [pick_none hc]
  · obtain ⟨r, a, slots, hm, -, hp, -⟩ := pick_some hc
    have he : r.op.eng = e := eng_of_candidate (mem_of_ofClass hm)
    rw [hp, getEng_selectAct_other _ _ (by rwa [he])]
    exact getEng_setEng_other _ _ h

/-! ### New weights -/

/-- What the end of an epoch leaves in a slot. -/
def reweigh (s : State) (e : Eng) (k : Nat) (d : SlotDyn) : SlotDyn :=
  match findOp s e k with
  | some r => { d with weight := effWeight (opShare r.op) d.occ, occ := 0 }
  | none => { d with occ := 0 }

theorem exec_arbiterReweight {s : State} {e : Eng} (h : 1024 ≤ (getEng s e).epoch) : exec (.arbiterReweight e) s =
    .next (setEng s e { getEng s e with epoch := 0, slots := tmap (reweigh s e) (getEng s e).slots }) :=
  congrArg Host.Outcome.next (if_neg (Nat.not_lt.2 h))

theorem reweigh_spec (s : State) (e : Eng) (k : Nat) (d : SlotDyn) : (reweigh s e k d).occ = 0 ∧
    (reweigh s e k d).credit = d.credit ∧ ∀ r, findOp s e k = some r →
      (reweigh s e k d).weight = opShare r.op * (1 + min 7 (Nat.log2 (1 + d.occ / 1024))) := by
  unfold reweigh
  cases hr : findOp s e k with
  | none => exact ⟨rfl, rfl, fun r hc => nomatch hc⟩
  | some r => exact ⟨rfl, rfl, fun r' hc => by cases hc; rfl⟩

/-- Settles O30: a cycle counts, and what it picks is pick_some's choice, in the engine as getEng_counted leaves it. -/
theorem arbiterSelects : Obligations.ArbiterSelects := by
  refine ⟨fun s e => ⟨exec_arbiterSelect_over, fun he => ?_⟩, fun u => ⟨rfl, rfl, fun hu => ?_, rfl⟩, fun s e => ⟨fun h => ?_, fun h => ?_⟩⟩
  · generalize hv : reevalAll s = v at *
    obtain ⟨sl, hx, hocc⟩ := getEng_counted v e
    have hc := candidates_counted v e
    have ht : Touches [.engines, .allocWait, .launches, .tiles, .chans, .partitions, .quotas, .reports, .traces, .nextId, .islands] s
        (pick (counted v e) e) :=
      (pick_touches ..).after (by decide) ((counted_touches ..).after (by decide) (hv ▸ (reevalAll_touches s).mono (by decide)))
    have hother : ∀ k, k ≠ e → getEng (pick (counted v e) e) k = getEng v k := fun k hk =>
      (getEng_pick_other hk).trans (getEng_counted_other v hk)
    have hw := weightOf_congr (y := getEng (counted v e) e) (by rw [hx]; exact hocc)
    have hsc := scoreOf_congr (y := getEng (counted v e) e) (by rw [hx]; exact hocc)
    have hisl : ∀ r a, boundAct (counted v e) e r a = boundAct v e r a := fun r a => by
      unfold boundAct getIsland
      rw [show (counted v e).islands = v.islands from (counted_touches v e).same .islands (by decide)]
    obtain ⟨hcy, hep, hrow⟩ := getEng_pick_keeps (counted v e) e
    rw [hx] at hcy hep hrow
    have hu : (getEng (counted v e) e).u = (getEng v e).u := by rw [hx]
    refine ⟨_, hv ▸ exec_arbiterSelect (hv ▸ he), hcy, hep, hrow, ht.same .threads (by decide), ht.sameBytes (by decide), hother,
      fun hn => ?_, fun hn => ?_⟩
    · rw [pick_none (hc.trans hn), hx]; exact ⟨rfl, rfl, rfl⟩
    · obtain ⟨r, a, hm, hmax, slots, hcr, hp⟩ := getEng_pick (s := counted v e) (by rwa [hc])
      simp only [hc, hw, hsc, hisl, classOf_congr hu, ofClass_congr hu, lsum_eq_sum] at hm hmax hcr hp
      simp only [hx] at hp
      refine ⟨r, a, hm, hmax, ?_⟩
      rw [hp]
      by_cases hk : opKind r.op ≤ 0x0F
      · rw [if_pos (show isFlowKind (opKind r.op) = true from decide_eq_true hk)]
        refine ⟨rfl, rfl, hcr, fun _ => ⟨?_, rfl⟩, fun hc => absurd hc (Nat.not_lt.2 hk)⟩
        unfold boundAct
        rw [if_neg (by omega)]
      · rw [if_neg (fun h : isFlowKind (opKind r.op) = true => hk (of_decide_eq_true h))]
        exact ⟨rfl, rfl, hcr, fun hc => absurd hc hk, fun _ => ⟨rfl, rfl⟩⟩
  · exact (if_neg (by simp)).trans ((if_neg (by simp)).trans (if_neg (by omega)))
  · exact congrArg Host.Outcome.next (if_pos h)
  · exact ⟨_, exec_arbiterReweight h, congrArg Engine.epoch (getEng_setEng ..), rfl, fun k hk => getEng_setEng_other _ _ hk,
      fun k d hd => ⟨_, by rw [getEng_setEng, tfind_tmap, hd]; rfl, reweigh_spec s e k d⟩⟩

end Sys2Proof.Machine
end

section
/-!
PROOFS. Proofs/Firings.lean: what emissions, consumptions and a firing of the flow unit leave (spec/01 R21, spec/05 R112).
-/
namespace Sys2Proof.Machine

/-! ### Changes that keep a part of every graph -/

/-- Two states' graphs agree on what p takes from them. -/
def SameIn {α : Type} (p : Graph → α) (s t : State) : Prop := ∀ k, (getGraph t k).map p = (getGraph s k).map p

section
variable {α : Type} {p : Graph → α} {s t u : State}

theorem SameIn.refl : SameIn p s s := fun _ => rfl

theorem SameIn.trans (h : SameIn p s t) (k : SameIn p t u) : SameIn p s u := fun x => (k x).trans (h x)

theorem Touches.sameIn {l : List Field} (h : Touches l s t) (hl : l.contains .graphs = false) : SameIn p s t :=
  fun k => by rw [h.getGraph hl]

theorem SameIn.modGraph (s : State) (k : Nat × Nat) {f : Graph → Graph} (hf : ∀ g, p (f g) = p g) :
    SameIn p s (modGraph s k f) := fun j => by
  by_cases h : j = k
  · subst h
    rw [getGraph_modGraph, Option.map_map]
    congr 1
    exact funext hf
  · rw [getGraph_modGraph_other s f h]

theorem SameIn.modInst (s : State) (key : Nat × Nat) (rec row : Nat) (f : Inst → Inst)
    (hf : ∀ g c, p { g with conts := c } = p g) : SameIn p s (modInst s key rec row f) := .modGraph s key fun _ => hf _ _

theorem SameIn.foldl {β : Type} {f : State → β → State} (h : ∀ u b, SameIn p u (f u b)) :
    ∀ (l : List β) (s : State), SameIn p s (l.foldl f s)
  | [], _ => .refl
  | b :: l, s => (h s b).trans (foldl h l (f s b))

theorem addPend_sameIn (s : State) (r : OpRef) (tag : Word) (up : Bool) (hp : ∀ g c, p { g with conts := c } = p g) :
    SameIn p s (addPend s r tag up) := .foldl (fun _ _ => .modInst _ _ _ _ _ hp) _ _

theorem consumeTok_sameIn (r : OpRef) (fid : Nat) (retire : Bool) (s : State) (x : Token)
    (hp : ∀ g c, p { g with conts := c } = p g) : SameIn p s (consumeTok r fid retire s x) := by
  unfold consumeTok
  extract_lets s1 steer s2 s3
  have h2 : Touches [.updates] s1 s2 := .put rfl
  have h3 : Touches [.updates, .launches] s1 s3 := (touch_touches ..).after (by decide) (h2.mono (by decide))
  refine (addPend_sameIn s r x.tag false hp).trans (Touches.sameIn (t := _) (l := [.updates, .launches, .retires]) ?_ (by decide))
  split
  · exact .trans (h3.mono (by decide)) (.put rfl)
  · exact h3.mono (by decide)

theorem consumeToks_sameIn (s : State) (r : OpRef) (fid : Nat) (retire : Bool) (toks : List Token)
    (hp : ∀ g c, p { g with conts := c } = p g) : SameIn p s (consumeToks s r fid retire toks) :=
  .foldl (fun _ _ => consumeTok_sameIn _ _ _ _ _ hp) _ _

theorem emitTok_sameIn (r : OpRef) (fid : Nat) (at_ : Word) (s : State) (x : Token)
    (hp : ∀ g c, p { g with conts := c } = p g) : SameIn p s (emitTok r fid at_ s x) := by
  unfold emitTok
  split
  · exact .refl
  · extract_lets s1
    have h1 : Touches [.tiles] s s1 := by
      unfold s1
      split
      · exact modTile_touches ..
      · exact .rfl
    refine .trans (h1.sameIn (by decide)) ?_
    split
    · exact (addPend_sameIn s1 _ x.tag true hp).trans (Touches.sameIn (l := [.updates]) (.put rfl) (by decide))
    · exact Touches.sameIn (l := [.inFlight]) (.put rfl) (by decide)

theorem emitToks_sameIn (s : State) (r : OpRef) (fid : Nat) (at_ : Word) (toks : List Token)
    (hp : ∀ g c, p { g with conts := c } = p g) : SameIn p s (emitToks s r fid at_ toks) :=
  .foldl (fun _ _ => emitTok_sameIn _ _ _ _ _ hp) _ _

end

/-! ### The updates of emissions and consumptions -/

/-- A token's consumer depends on the operators of its graph alone. -/
theorem consumerOfTok_congr {s t : State} (h : SameIn Graph.ops s t) (r : OpRef) (x : Token) :
    (consumerOfTok t r x).map (fun c => (c.i, c.op)) = (consumerOfTok s r x).map fun c => (c.i, c.op) := by
  have hk := h r.key
  unfold consumerOfTok
  cases hs : getGraph s r.key with
  | none =>
    cases ht : getGraph t r.key with
    | none => rfl
    | some g' => rw [hs, ht] at hk; cases hk
  | some g =>
    cases ht : getGraph t r.key with
    | none => rw [hs, ht] at hk; cases hk
    | some g' =>
      rw [hs, ht] at hk
      have ho : g'.ops = g.ops := Option.some_inj.1 hk
      show ((opAtCoord g' x.dst).bind fun i => opRef r.key g' i).map _ = ((opAtCoord g x.dst).bind fun i => opRef r.key g i).map _
      unfold opAtCoord opRef
      rw [ho]
      cases g.ops.findIdx? fun o => o.eng = x.dst.eng ∧ o.slot = x.dst.slot with
      | none => rfl
      | some i => simp only [Option.bind_some, Option.map_map]; rfl

theorem consumerOfTok_isSome_congr {s t : State} (h : SameIn Graph.ops s t) (r : OpRef) (x : Token) :
    (consumerOfTok t r x).isSome = (consumerOfTok s r x).isSome := by
  have hc := congrArg Option.isSome (consumerOfTok_congr h r x)
  rwa [Option.isSome_map, Option.isSome_map] at hc

theorem risesFor_congr {s t : State} (h : SameIn Graph.ops s t) (r : OpRef) (fid : Nat) : risesFor t r fid = risesFor s r fid := by
  funext x
  have hc := congrArg (Option.map Prod.snd) (consumerOfTok_congr h r x)
  rw [Option.map_map, Option.map_map] at hc
  unfold risesFor
  rw [show (consumerOfTok t r x).map (·.op) = (consumerOfTok s r x).map (·.op) from hc]

theorem Emits.congr {s t : State} (h : SameIn Graph.ops s t) {r : OpRef} {at_ : Word} {out : List Token} (he : Emits s r at_ out) :
    Emits t r at_ out := ⟨he.1, fun x hx => (consumerOfTok_isSome_congr h r x).trans (he.2 x hx)⟩

theorem emitTok_updates {s : State} {r : OpRef} {at_ : Word} {x : Token} (fid : Nat) (hu : unwindingAt r at_ = false)
    (hc : (consumerOfTok s r x).isSome = true) : (emitTok r fid at_ s x).updates = s.updates ++ [risesFor s r fid x] := by
  obtain ⟨c, hc⟩ := Option.isSome_iff_exists.1 hc
  unfold emitTok
  rw [if_neg (by rw [hu]; exact Bool.false_ne_true)]
  extract_lets s1
  have h1 : Touches [.tiles] s s1 := by
    unfold s1
    split
    · exact modTile_touches ..
    · exact .rfl
  have hg : ((getGraph s1 r.key).bind fun g => (opAtCoord g x.dst).bind fun i => opRef r.key g i) = some c := by
    rw [h1.getGraph (by decide)]; exact hc
  rw [hg]
  have hup : (addPend s1 c x.tag true).updates = s.updates :=
    Eq.trans ((addPend_touches s1 c x.tag true).same .updates (by decide)) (h1.same .updates (by decide))
  unfold risesFor
  rw [hc]
  exact congrArg (· ++ _) hup

theorem emitToks_updates {r : OpRef} {at_ : Word} (fid : Nat) : ∀ (out : List Token) {s : State}, Emits s r at_ out →
    (emitToks s r fid at_ out).updates = s.updates ++ out.map (risesFor s r fid)
  | [], s, _ => (List.append_nil _).symm
  | x :: out, s, h => by
    have hs : SameIn Graph.ops s (emitTok r fid at_ s x) := emitTok_sameIn _ _ _ _ _ fun _ _ => rfl
    have ih := emitToks_updates fid out (Emits.congr hs ⟨h.1, fun y hy => h.2 y (List.mem_cons_of_mem _ hy)⟩)
    refine ih.trans ?_
    rw [emitTok_updates fid h.1 (h.2 x List.mem_cons_self), risesFor_congr hs, List.append_assoc]
    rfl

theorem consumeTok_updates (r : OpRef) (fid : Nat) (retire : Bool) (s : State) (x : Token) :
    (consumeTok r fid retire s x).updates = s.updates ++ [fallsFor r fid x] := by
  have ha : (addPend s r x.tag false).updates = s.updates := (addPend_touches s r x.tag false).same .updates (by decide)
  unfold consumeTok
  extract_lets s1 steer s2 s3
  have h2 : s2.updates = s.updates ++ [fallsFor r fid x] := congrArg (· ++ _) ha
  have h3 : s3.updates = s2.updates := (touch_touches s2 _ _).same .updates (by decide)
  split
  · exact h3.trans h2
  · exact h3.trans h2

theorem consumeToks_updates (r : OpRef) (fid : Nat) (retire : Bool) : ∀ (toks : List Token) (s : State),
    (consumeToks s r fid retire toks).updates = s.updates ++ toks.map (fallsFor r fid)
  | [], s => (List.append_nil _).symm
  | x :: toks, s => by
    refine (consumeToks_updates r fid retire toks _).trans ?_
    rw [consumeTok_updates, List.append_assoc]
    rfl

/-! ### The flow unit -/

/-- A firing found at a place of an engine's flow unit belongs to that engine. -/
theorem firing_spec {s : State} {e : Eng} {n kind : Nat} {f : Firing} (h : firing s e n kind = some f) :
    f.r.op.eng = e ∧ opKind f.r.op = kind ∧ f.act ∈ (getEng s e).flow ∧ findOp s e f.act.slot = some f.r ∧
      findRow (getEng s e) f.act.slot f.act.vrow = some f.q ∧ consumes f.r.op f.q = some f.toks := by
  unfold firing at h
  extract_lets x at h
  split at h
  · cases h
  · next a ha =>
    split at h
    · next r q hr hq =>
      split at h
      · next hk =>
        obtain ⟨ts, hts, rfl⟩ := Option.map_eq_some_iff.1 h
        exact ⟨(findOp_spec hr).1, hk.1, List.mem_of_getElem? ha, hr, hq, hts⟩
      · cases h
    · cases h

/-- What is kept of every engine while rows and ready activations change. -/
def Engine.rest (x : Engine) : List Act × List Act × List SetAside × Tbl (Nat × Nat) EntryRec := (x.flow, x.unit, x.fault, x.entries)

/-- Every engine keeps its flow unit, its other unit's queue, its fault record and its entry records. -/
structure EngRest (s t : State) : Prop where
  rest : ∀ e, (getEng t e).rest = (getEng s e).rest

namespace EngRest

theorem refl {s : State} : EngRest s s := ⟨fun _ => rfl⟩

theorem trans {s t u : State} (h : EngRest s t) (k : EngRest t u) : EngRest s u := ⟨fun e => (k.rest e).trans (h.rest e)⟩

theorem setEng {s : State} {e : Eng} {x : Engine} (hx : x.rest = (getEng s e).rest) : EngRest s (setEng s e x) :=
  ⟨fun k => by
    by_cases h : k = e
    · subst h; rw [getEng_setEng, hx]
    · rw [getEng_setEng_other _ _ h]⟩

theorem modEng {s : State} {e : Eng} {f : Engine → Engine} (hf : ∀ x, (f x).rest = x.rest) : EngRest s (modEng s e f) :=
  setEng (hf _)

theorem flow {s t : State} (h : EngRest s t) (e : Eng) : (getEng t e).flow = (getEng s e).flow := congrArg (·.1) (h.rest e)
theorem fault {s t : State} (h : EngRest s t) (e : Eng) : (getEng t e).fault = (getEng s e).fault :=
  congrArg (·.2.2.1) (h.rest e)
theorem entries {s t : State} (h : EngRest s t) (e : Eng) : (getEng t e).entries = (getEng s e).entries :=
  congrArg (·.2.2.2) (h.rest e)

end EngRest

theorem Touches.engRest {l : List Field} {s t : State} (h : Touches l s t) (hl : l.contains .engines = false) : EngRest s t :=
  ⟨fun e => by rw [h.getEng hl]⟩

theorem rest_putRow (x : Engine) (q : Row) : (putRow x q).rest = x.rest := by
  unfold putRow
  extract_lets rest
  split <;> rfl

theorem unback_engRest (s : State) (e : Eng) (vrow : Nat) : EngRest s (unback s e vrow) := by
  unfold unback
  extract_lets x
  split
  · exact .refl
  · next b _ =>
    extract_lets b' s1
    have h1 : EngRest s s1 := .setEng rfl
    split
    · exact h1.trans (Touches.engRest (l := [.partitions, .quotas]) ((modPool_touches ..).after (by decide)
        ((uncharge_touches ..).mono (by decide))) (by decide))
    · exact .setEng rfl

theorem clearRow_engRest (s : State) (e : Eng) (slot vrow : Nat) : EngRest s (clearRow s e slot vrow) :=
  (unback_engRest s e vrow).trans (.modEng fun _ => rfl)

theorem takeOps_engRest (s : State) (f : Firing) : EngRest s (takeOps s f) := by
  unfold takeOps
  extract_lets e has x q
  split
  · exact clearRow_engRest ..
  · exact .modEng fun x => rest_putRow x q

theorem recordWait_engRest (s : State) (r : OpRef) (q : Row) : EngRest s (recordWait s r q) := by
  unfold recordWait
  split
  · exact .modEng fun _ => rfl
  · exact .refl

theorem joinReady_engRest (s : State) (r : OpRef) (q : Row) (owner : Nat) (dests : List TileId) :
    EngRest s (joinReady s r q owner dests) := by
  unfold joinReady
  refine .trans ?_ ((touch_touches ..).engRest (by decide))
  exact .modEng fun _ => rfl

theorem considerRow_engRest (s : State) (r : OpRef) (vrow : Nat) : EngRest s (considerRow s r vrow) := by
  unfold considerRow
  extract_lets e
  split
  · exact .refl
  · next q _ =>
    split
    · exact .refl
    · extract_lets s1
      refine (recordWait_engRest s r q).trans ?_
      extract_lets
      split
      next i s2 hf =>
      split
      · exact (beginWait_touches ..).engRest (by decide)
      · split
        · next u ds hr =>
          have hr := Touches.carry hr (readyNow_touches ..)
          exact ((Touches.of_snd hf (fresh_touches ..)).engRest (by decide)).trans
            ((Touches.engRest hr (by decide)).trans (joinReady_engRest ..))
        · exact (beginWait_touches ..).engRest (by decide)
        · exact (beginWait_touches ..).engRest (by decide)

theorem countFiring_engRest (s : State) (r : OpRef) (tag : Word) (lid wait : Nat) : EngRest s (countFiring s r tag lid wait) := by
  unfold countFiring
  extract_lets s1
  have h1 : EngRest s s1 := .modEng fun _ => rfl
  split
  · exact h1.trans ((stageTrace_touches ..).engRest (by decide))
  · exact h1

theorem leaveFlow_eng (s : State) (f : Firing) : let e := f.r.op.eng
    (getEng (leaveFlow s f) e).flow = (getEng s e).flow.erase f.act ∧ (getEng (leaveFlow s f) e).fault = (getEng s e).fault ∧
      (getEng (leaveFlow s f) e).entries = (getEng s e).entries := by
  unfold leaveFlow
  extract_lets e s1
  have h : EngRest s1 (considerRow (takeOps s1 f) f.r f.q.vrow) := (takeOps_engRest s1 f).trans (considerRow_engRest ..)
  have h1 : getEng s1 e = { getEng s e with flow := (getEng s e).flow.erase f.act } := getEng_modEng ..
  exact ⟨(h.flow e).trans (congrArg Engine.flow h1), by rw [h.fault e, h1], by rw [h.entries e, h1]⟩

theorem leaveFlow_sameIn {α : Type} {p : Graph → α} (s : State) (f : Firing) : SameIn p s (leaveFlow s f) :=
  (leaveFlow_touches s f).sameIn (by decide)

/-- A firing emits and consumes, and its activation leaves the flow unit. -/
theorem fire_spec {s : State} {f : Firing} {out : List Token} (fid : Nat) (retire : Bool) (h : Emits s f.r f.q.tag out) :
    Fired s (fire s f fid out retire) f fid out := by
  unfold Fired
  have ht := fire_touches s f fid out retire
  refine ⟨?_, ?_, ht.same .threads (by decide), ht.sameBytes (by decide)⟩
  all_goals
    unfold fire
    extract_lets s1 s2
    have h1 : Touches [.engines, .traces] s s1 := countFiring_touches ..
  · have hs : SameIn Graph.ops s s1 := h1.sameIn (by decide)
    refine Eq.trans ((leaveFlow_touches s2 f).same .updates (by decide)) ?_
    unfold s2
    rw [consumeToks_updates, emitToks_updates fid out (h.congr hs), risesFor_congr hs]
    rw [show s1.updates = s.updates from h1.same .updates (by decide)]
  · have h2 : EngRest s s2 := by
      refine EngRest.trans (countFiring_engRest s f.r f.q.tag f.q.lid (waitOf f.r.op f.q)) ?_
      exact ((emitToks_touches ..).engRest (by decide)).trans ((consumeToks_touches ..).engRest (by decide))
    rw [(leaveFlow_eng s2 f).1, h2.flow]

/-- A firing keeps the regions and the operators of every graph. -/
theorem fire_sameIn {α : Type} {p : Graph → α} (s : State) (f : Firing) (fid : Nat) (out : List Token) (retire : Bool)
    (hp : ∀ g c, p { g with conts := c } = p g) : SameIn p s (fire s f fid out retire) := by
  unfold fire
  extract_lets s1 s2
  have h1 : SameIn p s s1 := (countFiring_touches ..).sameIn (by decide)
  exact h1.trans (((emitToks_sameIn _ _ _ _ _ hp).trans (consumeToks_sameIn _ _ _ _ _ hp)).trans (leaveFlow_sameIn s2 f))

theorem fire_entries (s : State) (f : Firing) (fid : Nat) (out : List Token) (retire : Bool) :
    (getEng (fire s f fid out retire) f.r.op.eng).entries = (getEng s f.r.op.eng).entries := by
  unfold fire
  extract_lets s1 s2
  have h2 : EngRest s s2 := by
    refine EngRest.trans (countFiring_engRest s f.r f.q.tag f.q.lid (waitOf f.r.op f.q)) ?_
    exact ((emitToks_touches ..).engRest (by decide)).trans ((consumeToks_touches ..).engRest (by decide))
  rw [(leaveFlow_eng s2 f).2.2, h2.entries]

/-- What a state shares with the one that a firing starts from. -/
structure FiresLike (s t : State) : Prop where
  updates : t.updates = s.updates
  flow : ∀ e, (getEng t e).flow = (getEng s e).flow
  threads : t.threads = s.threads
  bytes : SameBytes s t
  ops : SameIn Graph.ops s t

theorem Touches.firesLike {l : List Field} {s t : State} (h : Touches l s t) (hl : (l.contains .updates || l.contains .engines ||
    l.contains .threads || l.contains .hbm || l.contains .l0 || l.contains .hostMem) = false) (ho : SameIn Graph.ops s t) :
    FiresLike s t := by
  simp only [Bool.or_eq_false_iff] at hl
  obtain ⟨⟨⟨⟨⟨h1, h2⟩, h3⟩, h4⟩, h5⟩, h6⟩ := hl
  exact ⟨h.same .updates (by simpa using h1), fun e => by rw [h.getEng h2], h.same .threads (by simpa using h3),
    h.sameBytes (by simp only [h4, h5, h6, Bool.or_self]), ho⟩

theorem SameBytes.trans {s t u : State} (h : SameBytes s t) (k : SameBytes t u) : SameBytes s u := fun a =>
  ⟨(k a).1.trans (h a).1, (k a).2.1.trans (h a).2.1, (k a).2.2.trans (h a).2.2⟩

/-- A firing from a state that shares what matters with s has fired from s. -/
theorem FiresLike.fired {s t u : State} {f : Firing} {fid : Nat} {out : List Token} (h : FiresLike s t) (k : Fired t u f fid out) :
    Fired s u f fid out := by
  obtain ⟨k1, k2, k3, k4⟩ := k
  exact ⟨by rw [k1, h.updates, risesFor_congr h.ops], by rw [k2, h.flow], k3.trans h.threads, h.bytes.trans k4⟩

/-! ### Faults of the flow unit -/

theorem raiseAt_reports (s : State) (c : Coord) (part lid cause tval : Nat) (tag : Word) (held : Held) :
    ∃ rep, (raiseAt s c part lid cause tval tag held).reports = s.reports ++ [rep] ∧ rep.cause = cause ∧
      rep.tval = BitVec.ofNat 64 tval ∧ rep.tinfo = tag := ⟨_, rfl, rfl, rfl, rfl⟩

/-- An operator fault sets its tokens aside and raises its report. -/
theorem opFault_spec (s : State) (r : OpRef) (vrow : Nat) (toks : List Token) (cause tval : Nat) :
    (getEng (opFault s r vrow toks cause tval) r.op.eng).fault = (getEng s r.op.eng).fault ++
        toks.map (fun k => { tok := k, slot := r.op.slot, vrow := vrow, why := 2 }) ∧
      ∃ rep, (opFault s r vrow toks cause tval).reports = s.reports ++ [rep] ∧ rep.cause = cause ∧
        rep.tval = BitVec.ofNat 64 tval := by
  unfold opFault
  extract_lets lid tag
  refine ⟨?_, ?_⟩
  · rw [(raiseAt_touches ..).getEng (by decide), (noteFault_touches ..).getEng (by decide)]
    exact congrArg Engine.fault (getEng_modEng ..)
  · have h2 : (noteFault (setAsideToks s r.op.eng r.op.slot vrow 2 toks) r.key.1 lid 3).reports = s.reports :=
      Eq.trans ((noteFault_touches ..).same .reports (by decide)) ((setAsideToks_touches ..).same .reports (by decide))
    exact ⟨_, congrArg (· ++ [_]) h2, rfl, rfl⟩

/-- A kind that needs nothing beyond its tokens: readiness asks for no place and no destination. -/
def plainKind (k : Nat) : Bool := decide (k ≤ 0x0F) && decide (k ≠ 0x0E)

theorem kindReady_plain {s : State} {r : OpRef} {q : Row} (h : plainKind (opKind r.op) = true) :
    kindReady s r q = .inr true := by
  unfold plainKind at h
  simp only [Bool.and_eq_true, decide_eq_true_eq] at h
  unfold kindReady
  dsimp only
  split
  any_goals omega
  rfl

theorem wanted_plain {s : State} {r : OpRef} {q : Row} (h : opKind r.op ≤ 0x0F) : wanted s r q = some [] := by
  unfold wanted
  dsimp only
  split
  any_goals omega
  rfl

theorem readyNow_plain {s : State} {r : OpRef} {q : Row} {owner : Nat} (h : plainKind (opKind r.op) = true) :
    readyNow s r q owner = .yes s [] := by
  have hk : opKind r.op ≤ 0x0F := by
    unfold plainKind at h
    simp only [Bool.and_eq_true, decide_eq_true_eq] at h
    exact h.1
  unfold readyNow
  rw [kindReady_plain h, wanted_plain hk]
  rfl

/-- A row of such a kind joins the ready activations with no report. -/
theorem considerRow_reports {s : State} {r : OpRef} {vrow : Nat} (h : plainKind (opKind r.op) = true) :
    (considerRow s r vrow).reports = s.reports := by
  have hk : ¬(opKind r.op = 0x1B ∨ opKind r.op = 0x1C) := by
    unfold plainKind at h
    simp only [Bool.and_eq_true, decide_eq_true_eq] at h
    omega
  unfold considerRow
  extract_lets e
  split
  · rfl
  · next q _ =>
    split
    · rfl
    · extract_lets s1
      have h1 : s1.reports = s.reports := (recordWait_touches s r q).same .reports (by decide)
      split
      next i s2 hf =>
      have h2 : s2.reports = s1.reports := (Touches.of_snd hf (fresh_touches s1)).same .reports (by decide)
      rw [if_neg (fun hc => hk hc.1), readyNow_plain h]
      exact Eq.trans ((joinReady_touches ..).same .reports (by decide)) (h2.trans h1)

/-- A faulting firing of such a kind sets its tokens aside, reports and changes nothing else that the fault names. -/
theorem faultFire_spec {i : Instr} {s : State} {f : Firing} {cause tval : Nat} (hk : plainKind (opKind f.r.op) = true)
    (hx : exec i s = .next (faultFire s f cause tval)) : FaultsOp i s f cause tval := by
  intro hroom
  have hf : faultFire s f cause tval = leaveFlow (opFault s f.r f.q.vrow f.toks cause tval) f := by
    unfold faultFire
    rw [hroom]
    rfl
  have ho := opFault_touches s f.r f.q.vrow f.toks cause tval
  have hl := leaveFlow_touches (opFault s f.r f.q.vrow f.toks cause tval) f
  obtain ⟨h1, rep, h2, hc, ht⟩ := opFault_spec s f.r f.q.vrow f.toks cause tval
  have hr : (leaveFlow (opFault s f.r f.q.vrow f.toks cause tval) f).reports = (opFault s f.r f.q.vrow f.toks cause tval).reports := by
    unfold leaveFlow
    extract_lets s1
    rw [considerRow_reports hk]
    exact Eq.trans ((takeOps_touches ..).same .reports (by decide)) ((modEng_touches ..).same .reports (by decide))
  refine ⟨_, hf ▸ hx, Eq.trans (hl.same .updates (by decide)) (ho.same .updates (by decide)), ?_, ⟨rep, hr.trans h2, hc, ht⟩,
    Eq.trans (hl.same .threads (by decide)) (ho.same .threads (by decide)),
    SameBytes.trans (ho.sameBytes (by decide)) (hl.sameBytes (by decide))⟩
  rw [(leaveFlow_eng _ f).2.1, h1]

end Sys2Proof.Machine
end

section
/-!
PROOFS. Proofs/LoopsAndCalls.lean: ENTER, NEXT, EXIT, CALL and RET (spec/05 R118, R123 to R125).
-/
namespace Sys2Proof.Machine

/-! ### Regions -/

theorem getRegion_modRegion_any (s : State) (p gr rg : Nat) (f : Region → Region) (j : ColKey) :
    getRegion (modRegion s p gr rg f) j =
      if j.pkg = p ∧ j.graph = gr ∧ j.region = rg then (getRegion s j).map f else getRegion s j := by
  split
  · next h =>
    obtain ⟨rfl, rfl, rfl⟩ := h
    exact getRegion_modRegion s j f
  · next h =>
    unfold getRegion modRegion
    by_cases hk : (j.pkg, j.graph) = (p, gr)
    · obtain ⟨rfl, rfl⟩ := Prod.mk.inj hk
      have hr : rg ≠ j.region := fun hr => h ⟨rfl, rfl, hr.symm⟩
      rw [getGraph_modGraph]
      cases getGraph s (j.pkg, j.graph) with
      | none => rfl
      | some g =>
        show (g.regions.modify rg f)[j.region]? = _
        rw [List.getElem?_modify_ne _ _ hr]
        rfl
    · rw [getGraph_modGraph_other _ _ hk]

/-- What a change of a region keeps of it, it keeps of every region. -/
theorem modRegion_keeps {α : Type} {p : Region → α} (s : State) (pkg gr rg : Nat) {f : Region → Region}
    (hf : ∀ r, p (f r) = p r) (j : ColKey) : (getRegion (modRegion s pkg gr rg f) j).map p = (getRegion s j).map p := by
  rw [getRegion_modRegion_any]
  split
  · rw [Option.map_map]
    congr 1
    exact funext hf
  · rfl

theorem SameIn.getRegion {s t : State} (h : SameIn Graph.regions s t) (k : ColKey) : getRegion t k = getRegion s k := by
  have hk := h (k.pkg, k.graph)
  unfold Machine.getRegion
  cases hs : getGraph s (k.pkg, k.graph) with
  | none =>
    cases ht : getGraph t (k.pkg, k.graph) with
    | none => rfl
    | some g' => rw [hs, ht] at hk; cases hk
  | some g =>
    cases ht : getGraph t (k.pkg, k.graph) with
    | none => rw [hs, ht] at hk; cases hk
    | some g' =>
      rw [hs, ht] at hk
      have ho : g'.regions = g.regions := Option.some_inj.1 hk
      exact congrArg (·[k.region]?) ho

theorem SameIn.getCol {s t : State} (h : SameIn Graph.regions s t) (k : ColKey) : getCol t k = getCol s k := by
  unfold Machine.getCol
  rw [h.getRegion]

theorem SameIn.colourIs {s t : State} (h : SameIn Graph.regions s t) {k : ColKey} {c : Colour} (hc : ColourIs s k c) :
    ColourIs t k c := by
  unfold ColourIs
  rw [h.getRegion]
  exact hc

theorem modRegion_sameIn {α : Type} {p : Graph → α} (s : State) (pkg gr rg : Nat) (f : Region → Region)
    (hp : ∀ g r, p { g with regions := r } = p g) : SameIn p s (modRegion s pkg gr rg f) := .modGraph s _ fun g => hp g _

theorem modCol_sameIn {α : Type} {p : Graph → α} (s : State) (k : ColKey) (f : Colour → Colour)
    (hp : ∀ g r, p { g with regions := r } = p g) : SameIn p s (modCol s k f) := modRegion_sameIn s _ _ _ _ hp

/-- A change of one record leaves the others. -/
theorem ColourIs.modRegion_other {s : State} {j : ColKey} {c : Colour} (h : ColourIs s j c) {p gr rg n : Nat} {g : Colour → Colour}
    {f : Region → Region} (hf : ∀ r, (f r).recs = lmod n g r.recs)
    (hn : ¬(j.pkg = p ∧ j.graph = gr ∧ j.region = rg ∧ j.colour = n)) : ColourIs (Machine.modRegion s p gr rg f) j c := by
  obtain ⟨r, hr, hc⟩ := colourIs_iff.1 h
  rw [colourIs_iff, getRegion_modRegion_any]
  split
  · next hk =>
    refine ⟨f r, by rw [hr]; rfl, ?_⟩
    rw [hf]
    show (r.recs.modify n g)[j.colour]? = _
    rw [List.getElem?_modify_ne _ _ fun hj => hn ⟨hk.1, hk.2.1, hk.2.2, hj.symm⟩]
    exact hc
  · exact ⟨r, hr, hc⟩

/-- Two records differ in their live count alone. -/
def Colour.SameButLive (c d : Colour) : Prop := d = { c with live := d.live }

/-- A unit of live on some colour changes no more of any other than its live count. -/
theorem ColourIs.holdLive {s : State} {j : ColKey} {c : Colour} (h : ColourIs s j c) (k : ColKey) :
    ∃ d, ColourIs (holdLive s k) j d ∧ c.SameButLive d := by
  by_cases hk : j.pkg = k.pkg ∧ j.graph = k.graph ∧ j.region = k.region ∧ j.colour = k.colour
  · have e : j = k := by
      obtain ⟨h1, h2, h3, h4⟩ := hk
      cases j; cases k; cases h1; cases h2; cases h3; cases h4; rfl
    subst e
    exact ⟨_, h.modCol _, rfl⟩
  · exact ⟨c, h.modRegion_other (g := fun c => { c with live := c.live + 1 }) (fun _ => rfl) hk, rfl⟩

/-! ### Draws -/

/-- A region whose draws have been served. -/
def noDraws (s : State) (f : Firing) (region : Nat) : State :=
  modRegion s f.r.key.1 f.r.key.2 region fun r => { r with draws := [] }

/-- A region whose head colour x is busy and holds a colour, which counts a unit. -/
def headDrawn (s : State) (f : Firing) (region : Nat) (hold : ColKey) (x : Nat) (rest : List Nat) : State :=
  holdLive (modRegion s f.r.key.1 f.r.key.2 region fun r =>
    { r with free := rest, head := (r.head + 1) % Nat.max 1 r.cap,
             recs := lmod x (fun _ => { busy := true, closed := false, hold := some hold, lid := f.q.lid }) r.recs }) hold

/-- The region of a draw. -/
def Firing.drawKey (f : Firing) (region : Nat) : ColKey := { pkg := f.r.key.1, graph := f.r.key.2, region := region }

theorem noDraws_colourIs {s : State} {j : ColKey} {c : Colour} (h : ColourIs s j c) (f : Firing) (region : Nat) :
    ColourIs (noDraws s f region) j c := by
  unfold ColourIs noDraws
  rw [getRegion_modRegion_any]
  split
  · rw [← h]
    unfold ColourIs at h
    cases getRegion s j <;> rfl
  · exact h

theorem noDraws_free (s : State) (f : Firing) (region : Nat) (j : ColKey) :
    (getRegion (noDraws s f region) j).map (·.free) = (getRegion s j).map (·.free) := by
  unfold noDraws
  exact modRegion_keeps _ _ _ _ (fun _ => by rfl) j

/-- What a draw from the head of a region's list leaves. -/
structure Drawn (s u : State) (f : Firing) (region x : Nat) (rest : List Nat) : Prop where
  touches : Touches [.graphs, .traces] s u
  ops : SameIn Graph.ops s u
  free : (getRegion u (f.drawKey region)).map (·.free) = some rest
  links : ∀ j, (getRegion u j).map (·.links) = (getRegion s j).map (·.links)
  width : ∀ j, (getRegion u j).map (·.width) = (getRegion s j).map (·.width)
  others : ∀ j c, ColourIs s j c → ¬(j.region = region ∧ j.colour = x) → ∃ d, ColourIs u j d ∧ c.SameButLive d

theorem headDrawn_spec {s : State} {f : Firing} {region : Nat} {hold : ColKey} {x : Nat} {rest : List Nat}
    (hf : (getRegion s (f.drawKey region)).map (·.free) = some (x :: rest)) :
    Drawn s (headDrawn (noDraws s f region) f region hold x rest) f region x rest := by
  have keeps : ∀ {α : Type} {p : Region → α}, (∀ r d, p { r with draws := d } = p r) →
      (∀ r fr h c, p { r with free := fr, head := h, recs := c } = p r) → (∀ r c, p { r with recs := c } = p r) →
      ∀ j, (getRegion (headDrawn (noDraws s f region) f region hold x rest) j).map p = (getRegion s j).map p := by
    intro α p h1 h2 h3 j
    unfold headDrawn
    refine (modRegion_keeps _ _ _ _ (fun r => h3 r _) j).trans ?_
    exact (modRegion_keeps _ _ _ _ (fun r => h2 r _ _ _) j).trans (modRegion_keeps _ _ _ _ (fun r => h1 r _) j)
  refine ⟨?_, ?_, ?_, keeps (fun _ _ => rfl) (fun _ _ _ _ => rfl) fun _ _ => rfl,
    keeps (fun _ _ => rfl) (fun _ _ _ _ => rfl) fun _ _ => rfl, fun j c hc hj => ?_⟩
  · exact (holdLive_touches ..).after (by decide) ((modRegion_touches ..).after (by decide) ((modRegion_touches ..).mono (by decide)))
  · exact ((modRegion_sameIn s _ _ _ _ fun _ _ => rfl).trans (modRegion_sameIn _ _ _ _ _ fun _ _ => rfl)).trans
      (modCol_sameIn _ hold _ fun _ _ => rfl)
  · unfold headDrawn
    refine (modRegion_keeps (p := (·.free)) _ _ _ _ (fun _ => by rfl) _).trans ?_
    have h1 := (noDraws_free s f region _).trans hf
    rw [getRegion_modRegion_any, if_pos ⟨rfl, rfl, rfl⟩]
    cases hg : getRegion (noDraws s f region) (f.drawKey region) with
    | none => rw [hg] at h1; cases h1
    | some r => rfl
  · exact ((noDraws_colourIs hc f region).modRegion_other
      (g := fun _ => { busy := true, closed := false, hold := some hold, lid := f.q.lid }) (fun _ => rfl)
      fun h => hj ⟨h.2.2.1, h.2.2.2⟩).holdLive hold

/-- A draw that is first in its region's turn takes the head of the region's list. -/
theorem tryDraw_head {s : State} {f : Firing} {region : Nat} {hold : ColKey} {x : Nat} {rest : List Nat}
    (hf : (getRegion s (f.drawKey region)).map (·.free) = some (x :: rest))
    (hd : (getRegion s (f.drawKey region)).map (·.draws) = some []) :
    ∃ u, tryDraw s f region hold = .inl (x, u) ∧ Drawn s u f region x rest := by
  have hs := headDrawn_spec (hold := hold) hf
  have hfree := (noDraws_free s f region _).trans hf
  have hdraw : drawColour (noDraws s f region) f.r.key.1 f.r.key.2 region f.q.lid (some hold) false =
      some (x, headDrawn (noDraws s f region) f region hold x rest) := by
    unfold drawColour
    rw [show ({ pkg := f.r.key.1, graph := f.r.key.2, region := region } : ColKey) = f.drawKey region from rfl, hfree]
    rfl
  unfold tryDraw
  rw [show ({ pkg := f.r.key.1, graph := f.r.key.2, region := region } : ColKey) = f.drawKey region from rfl, hd]
  extract_lets e mine ds put wait
  rw [if_pos (show ((ds.head?).map mine).getD true = true from rfl)]
  have hput : drawColour (put s (ds.filter fun d => !mine d)) f.r.key.1 f.r.key.2 region f.q.lid (some hold) false = _ := hdraw
  rw [hput]
  refine ⟨_, rfl, ?_⟩
  split
  · have ht := stageTrace_touches (headDrawn (noDraws s f region) f region hold x rest) e.pkg e.die f.r.g.part f.q.tag
      (x + region * 256) (coordNat (opCoord f.r.op)) f.q.lid 0x02
    refine ⟨ht.after (by decide) hs.touches, hs.ops.trans (ht.sameIn (by decide)), ?_, fun j => ?_, fun j => ?_, fun j c hc hj => ?_⟩
    · rw [ht.getRegion (by decide)]; exact hs.free
    · rw [ht.getRegion (by decide)]; exact hs.links j
    · rw [ht.getRegion (by decide)]; exact hs.width j
    · obtain ⟨d, h1, h2⟩ := hs.others j c hc hj
      exact ⟨d, h1.touches ht (by decide), h2⟩
  · exact hs

theorem Drawn.firesLike {s u : State} {f : Firing} {region x : Nat} {rest : List Nat} (h : Drawn s u f region x rest) :
    FiresLike s u := h.touches.firesLike (by decide) h.ops

theorem Drawn.nextId {s u : State} {f : Firing} {region x : Nat} {rest : List Nat} (h : Drawn s u f region x rest) :
    u.nextId = s.nextId := h.touches.same .nextId (by decide)

theorem FiresLike.refl {s : State} : FiresLike s s := ⟨rfl, fun _ => rfl, rfl, fun _ => ⟨rfl, rfl, rfl⟩, .refl⟩

theorem FiresLike.trans {s t u : State} (h : FiresLike s t) (k : FiresLike t u) : FiresLike s u :=
  ⟨k.updates.trans h.updates, fun e => (k.flow e).trans (h.flow e), k.threads.trans h.threads, h.bytes.trans k.bytes, h.ops.trans k.ops⟩

/-! ### Firings under the next name -/

/-- A firing under the next name. -/
def fireNext (s : State) (f : Firing) (out : List Token) : State := fire (fresh s).2 f (fresh s).1 out true

theorem fireNext_fired {s u : State} {f : Firing} {out : List Token} (h : FiresLike s u) (hn : u.nextId = s.nextId)
    (he : Emits s f.r f.q.tag out) : Fired s (fireNext u f out) f s.nextId out := by
  have hb : FiresLike u (fresh u).2 := (fresh_touches u).firesLike (by decide) ((fresh_touches u).sameIn (by decide))
  have hf : Fired (fresh u).2 (fireNext u f out) f (fresh u).1 out :=
    fire_spec _ true (he.congr (h.ops.trans hb.ops))
  have := h.fired (hb.fired hf)
  rwa [show (fresh u).1 = s.nextId from hn] at this

theorem fireNext_regions (s : State) (f : Firing) (out : List Token) : SameIn Graph.regions s (fireNext s f out) :=
  SameIn.trans ((fresh_touches s).sameIn (by decide)) (fire_sameIn _ f _ out true fun _ _ => rfl)

theorem countEntry_fired {s u : State} {f : Firing} {fid : Nat} {out : List Token} (h : Fired s u f fid out) (e : Eng)
    (key : Nat × Nat) (value count size : Nat) : Fired s (countEntry u e key value count size) f fid out := by
  obtain ⟨h1, h2, h3, h4⟩ := h
  have ht := countEntry_touches u e key value count size
  refine ⟨Eq.trans (ht.same .updates (by decide)) h1, Eq.trans ?_ h2, Eq.trans (ht.same .threads (by decide)) h3,
    h4.trans (ht.sameBytes (by decide))⟩
  unfold countEntry
  by_cases he : f.r.op.eng = e
  · rw [he, getEng_modEng]
  · rw [getEng_modEng_other _ _ he]

theorem countEntry_counted (s : State) (e : Eng) (key : Nat × Nat) (value count size : Nat) :
    tfind key (getEng (countEntry s e key value count size) e).entries =
      if count + 1 = size then none else some { value := value, count := count + 1 } := by
  unfold countEntry
  rw [getEng_modEng]
  dsimp only
  split
  · exact tfind_tdel_same ..
  · exact tfind_tset_same ..

/-- Whether a token may gain references depends on its kind and its tile, not on its tag. -/
theorem refsRoom_retag (s : State) (r : OpRef) (port : Nat) (t : Token) (tag : Word) :
    refsRoom s (toPort r port { t with tag := tag }) = refsRoom s (toPort r port t) := by
  unfold refsRoom toPort
  simp only [List.all_map, List.filter_map, List.length_map]
  rfl

/-! ### ENTER -/

/-- An ENTER that fires under a colour. -/
def enterFires (s : State) (f : Firing) (e : Eng) (c count : Nat) : State :=
  let o := f.r.op
  let t := leftTok f
  let grp := groupOf f.r.g o 7 0
  countEntry (fireNext s f (toPort f.r 0 { t with tag := setField t.tag (opDepth o + 1) c })) e
    (lowSlot grp, tagField t.tag (opDepth o)) c count grp.length

section
variable {s : State} {e : Eng} {n : Nat} {f : Firing} (hf : firing s e n 0x04 = some f)
include hf

theorem exec_enter_again {x : EntryRec} (hr : refsRoom s (toPort f.r 0 (leftTok f)) = true)
    (hx : tfind (lowSlot (groupOf f.r.g f.r.op 7 0), tagField (leftTok f).tag (opDepth f.r.op)) (getEng s e).entries = some x) :
    exec (.enterOp e n) s = .next (enterFires s f e x.value x.count) := by
  show execEnterOp e n s = _
  simp only [execEnterOp, hf, hr, hx, Bool.not_true, Bool.false_eq_true, if_false]
  rfl

theorem exec_enter_waits
    (hx : tfind (lowSlot (groupOf f.r.g f.r.op 7 0), tagField (leftTok f).tag (opDepth f.r.op)) (getEng s e).entries = none)
    (hg : groupDraws s e f.r.key (bits (opCfg f.r.op 0) 7 0) f.q.slot (groupOf f.r.g f.r.op 7 0) (leftTok f).tag
      (opDepth f.r.op) = true) : exec (.enterOp e n) s = .next s := by
  show execEnterOp e n s = _
  simp only [execEnterOp, hf, hx, hg, true_or, if_true, ite_self]

theorem exec_enter_draws {c : Nat} {u : State} (hr : refsRoom s (toPort f.r 0 (leftTok f)) = true)
    (hx : tfind (lowSlot (groupOf f.r.g f.r.op 7 0), tagField (leftTok f).tag (opDepth f.r.op)) (getEng s e).entries = none)
    (hg : groupDraws s e f.r.key (bits (opCfg f.r.op 0) 7 0) f.q.slot (groupOf f.r.g f.r.op 7 0) (leftTok f).tag
      (opDepth f.r.op) = false) (hl : liveRoom s (colKeyAt f.r.key f.r.op (leftTok f).tag) = true)
    (hd : tryDraw s f (bits (opCfg f.r.op 0) 7 0) (colKeyAt f.r.key f.r.op (leftTok f).tag) = .inl (c, u)) :
    exec (.enterOp e n) s = .next (enterFires u f e c 0) := by
  show execEnterOp e n s = _
  simp only [execEnterOp, hf, hr, hx, hg, hl, hd, Bool.not_true, Bool.false_eq_true, or_self, if_false]
  rfl

end

/-- An ENTER that fires from a state like s has fired and counted its member. -/
theorem enterFires_spec {s u : State} {f : Firing} {e : Eng} {c : Nat} (count : Nat) (h : FiresLike s u) (hn : u.nextId = s.nextId)
    (he : Emits s f.r f.q.tag (toPort f.r 0 { leftTok f with tag := setField (leftTok f).tag (opDepth f.r.op + 1) c })) :
    Fired s (enterFires u f e c count) f s.nextId
      (toPort f.r 0 { leftTok f with tag := setField (leftTok f).tag (opDepth f.r.op + 1) c }) :=
  countEntry_fired (fireNext_fired h hn he) ..

theorem enterFires_regions (s : State) (f : Firing) (e : Eng) (c count : Nat) : SameIn Graph.regions s (enterFires s f e c count) :=
  (fireNext_regions s f _).trans ((countEntry_touches ..).sameIn (by decide))

/-! ### Closing a colour -/

theorem closeColour_firesLike (s : State) (k : ColKey) (b : Option (Eng × Nat)) : FiresLike s (closeColour s k b) :=
  (closeColour_touches s k b).firesLike (by decide) (modCol_sameIn s k _ fun _ _ => rfl)

/-- What a closing leaves in its colour. -/
theorem closeColour_colourIs {s : State} {k : ColKey} {c : Colour} (h : ColourIs s k c) {w : Nat}
    (hw : (getRegion s k).map (·.width) = some w) (b : Option (Eng × Nat)) : ∃ d, ColourIs (closeColour s k b) k d ∧
      d.closes = c.closes + 1 ∧ d.closed = (c.closed || decide (c.closes + 1 = w)) ∧ d.succ = c.succ ∧ d.succv = c.succv := by
  unfold closeColour
  extract_lets w'
  have e : w' = w := by unfold w'; rw [hw]; rfl
  exact ⟨_, h.modCol _, rfl, by rw [e], rfl, rfl⟩

/-- A firing that closes its colour first. -/
def fireClosing (s : State) (f : Firing) (k : ColKey) (b : Option (Eng × Nat)) (out : List Token) : State :=
  fire (closeColour (fresh s).2 k b) f (fresh s).1 out true

theorem fireClosing_fired {s u : State} {f : Firing} {out : List Token} (k : ColKey) (b : Option (Eng × Nat)) (h : FiresLike s u)
    (hn : u.nextId = s.nextId) (he : Emits s f.r f.q.tag out) : Fired s (fireClosing u f k b out) f s.nextId out := by
  have hb : FiresLike u (fresh u).2 := (fresh_touches u).firesLike (by decide) ((fresh_touches u).sameIn (by decide))
  have hc := closeColour_firesLike (fresh u).2 k b
  have hf := fire_spec (s := closeColour (fresh u).2 k b) (f := f) (fresh u).1 true (he.congr (h.ops.trans (hb.ops.trans hc.ops)))
  rw [← hn]
  exact h.fired (hb.fired (hc.fired hf))

theorem fireClosing_colourIs {s : State} {f : Firing} {out : List Token} {k : ColKey} {c : Colour} (h : ColourIs s k c) {w : Nat}
    (hw : (getRegion s k).map (·.width) = some w) (b : Option (Eng × Nat)) : ∃ d, ColourIs (fireClosing s f k b out) k d ∧
      d.closes = c.closes + 1 ∧ d.closed = (c.closed || decide (c.closes + 1 = w)) ∧ d.succ = c.succ ∧ d.succv = c.succv := by
  obtain ⟨d, hd, h2⟩ := closeColour_colourIs (s := (fresh s).2) (h.touches (fresh_touches s) (by decide))
    (by rw [(fresh_touches s).getRegion (by decide)]; exact hw) b
  exact ⟨d, (fire_sameIn (p := Graph.regions) (closeColour (fresh s).2 k b) f (fresh s).1 out true fun _ _ => rfl).colourIs hd, h2⟩

theorem fireClosing_free (s : State) (f : Firing) (k : ColKey) (b : Option (Eng × Nat)) (out : List Token) (j : ColKey) :
    (getRegion (fireClosing s f k b out) j).map (·.free) = (getRegion s j).map (·.free) := by
  unfold fireClosing
  rw [(fire_sameIn (p := Graph.regions) _ _ _ _ _ fun _ _ => rfl).getRegion]
  unfold closeColour
  extract_lets w
  refine (modRegion_keeps (p := (·.free)) _ _ _ _ (fun _ => by rfl) j).trans ?_
  rw [(fresh_touches s).getRegion (by decide)]

/-! ### NEXT and EXIT -/

/-- The operator that a closing is traced for. -/
def closerOf (f : Firing) : Option (Eng × Nat) := if opTrc f.r.op then some (f.r.op.eng, f.r.op.slot) else none

/-- A NEXT that fires with a successor. -/
def nextFires (s : State) (f : Firing) (x : Nat) : State :=
  fireClosing s f (colKeyAt f.r.key f.r.op (leftTok f).tag) (closerOf f)
    (toPort f.r 0 { leftTok f with tag := setField (leftTok f).tag (opDepth f.r.op) x })

section
variable {s : State} {e : Eng} {n : Nat} {f : Firing} {k : ColKey} {c : Colour} (hf : firing s e n 0x05 = some f)
  (hk : colKeyAt f.r.key f.r.op (leftTok f).tag = k) (hc : getCol s k = c)
include hf hk hc

theorem exec_next_idle (hb : c.busy = false) : exec (.nextOp e n) s = .next (faultFire s f 0x0105 (colTval k)) := by
  show execNextOp e n s = _
  simp only [execNextOp, hf, hk, hc, hb, Bool.not_false, if_true]

theorem exec_next_over (hb : c.busy = true) (hcl : 0 < c.closes) (hv : c.succv = false) (hs : c.spnd = false) :
    exec (.nextOp e n) s = .next (faultFire s f 0x0106 (colTval k)) := by
  show execNextOp e n s = _
  simp only [execNextOp, hf, hk, hc, hb, hcl, hv, hs, Bool.not_true, Bool.not_false, Bool.false_eq_true, if_true, if_false, and_self]

theorem exec_next_again (hb : c.busy = true) (hv : c.succv = true) (hr : refsRoom s (toPort f.r 0 (leftTok f)) = true) :
    exec (.nextOp e n) s = .next (nextFires s f c.succ) := by
  show execNextOp e n s = _
  simp only [execNextOp, hf, hk, hc, hb, hv, hr, Bool.not_true, Bool.false_eq_true, if_true, if_false, and_false, false_and]
  unfold nextFires
  rw [hk]
  rfl

theorem exec_next_draws {x : Nat} {u : State} (hb : c.busy = true) (hv : c.succv = false) (hs : c.spnd = false)
    (hcl : c.closes = 0) (hr : refsRoom s (toPort f.r 0 (leftTok f)) = true)
    (hl : liveRoom s (enclosing f.r.key f.r.g (opRid f.r.op) (leftTok f).tag (opDepth f.r.op)) = true)
    (hd : tryDraw s f (opRid f.r.op) (enclosing f.r.key f.r.g (opRid f.r.op) (leftTok f).tag (opDepth f.r.op)) = .inl (x, u)) :
    exec (.nextOp e n) s = .next (nextFires (modCol u k fun c => { c with succ := x, succv := true, spnd := false }) f x) := by
  show execNextOp e n s = _
  simp only [execNextOp, hf, hk, hc, hb, hv, hs, hcl, hr, hl, hd, Bool.not_true, Bool.false_eq_true, if_false, false_and, or_self,
    Nat.lt_irrefl]
  unfold nextFires
  rw [hk]
  rfl

end

section
variable {s : State} {e : Eng} {n : Nat} {f : Firing} {k : ColKey} {c : Colour} (hf : firing s e n 0x06 = some f)
  (hk : colKeyAt f.r.key f.r.op (leftTok f).tag = k) (hc : getCol s k = c)
include hf hk hc

theorem exec_exit_idle (hb : c.busy = false) : exec (.exitOp e n) s = .next (faultFire s f 0x0105 (colTval k)) := by
  show execExitOp e n s = _
  simp only [execExitOp, hf, hk, hc, hb, Bool.not_false, if_true]

theorem exec_exit_continued (hb : c.busy = true) (hs : c.succv = true ∨ c.spnd = true) :
    exec (.exitOp e n) s = .next (faultFire s f 0x0106 (colTval k)) := by
  show execExitOp e n s = _
  simp only [execExitOp, hf, hk, hc, hb, hs, Bool.not_true, Bool.false_eq_true, if_true, if_false]

theorem exec_exit_fires (hb : c.busy = true) (hv : c.succv = false) (hs : c.spnd = false)
    (hr : refsRoom s (toPort f.r 0 { leftTok f with tag := setField (leftTok f).tag (opDepth f.r.op) 0 }) = true) :
    exec (.exitOp e n) s = .next (fireClosing s f k (closerOf f)
      (toPort f.r 0 { leftTok f with tag := setField (leftTok f).tag (opDepth f.r.op) 0 })) := by
  show execExitOp e n s = _
  simp only [execExitOp, hf, hk, hc, hb, hv, hs, hr, Bool.not_true, Bool.false_eq_true, if_false, or_self]
  rfl

end

/-- What a closing firing leaves in its colour, as the getters see it. -/
theorem fireClosing_closes {s s0 : State} {f : Firing} {out : List Token} {k : ColKey} {c c0 : Colour} (h : ColourIs s k c)
    (hc : c.closes = c0.closes ∧ c.closed = c0.closed) {w : Nat} (b : Option (Eng × Nat))
    (hw : (getRegion s k).map (·.width) = (getRegion s0 k).map (·.width)) (hw0 : (getRegion s0 k).map (·.width) = some w) :
    (getCol (fireClosing s f k b out) k).closes = c0.closes + 1 ∧
      (getCol (fireClosing s f k b out) k).closed = (c0.closed || decide (c0.closes + 1 = w)) := by
  obtain ⟨d, hd, h1, h2, -⟩ := fireClosing_colourIs (out := out) h (hw.trans hw0) b (f := f)
  rw [hd.getCol, h1, h2, hc.1, hc.2]
  exact ⟨rfl, rfl⟩

/-- Settles O32: ENTER by exec_enter_again, exec_enter_waits and exec_enter_draws, NEXT and EXIT by their equations; what a
firing, a draw and a closing leave is said by their own lemmas. -/
theorem loopOperators : Obligations.LoopOperators := by
  intro s e n f
  extract_lets o t d k c' closes
  refine ⟨fun hf => ⟨fun x hx hr he => ?_, fun hx hg => exec_enter_waits hf hx hg, fun hx hg hr hl x rest hfree hdraw he => ?_⟩,
    fun hf => ⟨fun hb => ?_, fun hb hcl hv hs => ?_, fun hb hv hr he => ?_, fun hb hv hs hcl hr hl hcol x rest hfree hdraw hne he => ?_⟩,
    fun hf => ⟨fun hb => ?_, fun hb hs => ?_, fun hb hv hs hr he => ?_⟩⟩
  · exact ⟨_, exec_enter_again hf hr hx, enterFires_spec _ .refl rfl he, countEntry_counted ..⟩
  · obtain ⟨u, hd, hu⟩ := tryDraw_head (hold := colKeyAt f.r.key f.r.op (leftTok f).tag) hfree hdraw
    refine ⟨_, exec_enter_draws hf hr hx hg hl hd, enterFires_spec _ hu.firesLike hu.nextId he, countEntry_counted .., ?_⟩
    rw [(enterFires_regions _ _ _ _ _).getRegion]
    exact hu.free
  · exact faultFire_spec (by rw [(firing_spec hf).2.1]; rfl) (exec_next_idle hf rfl rfl hb)
  · exact faultFire_spec (by rw [(firing_spec hf).2.1]; rfl) (exec_next_over hf rfl rfl hb hcl hv hs)
  · exact ⟨_, exec_next_again hf rfl rfl hb hv hr, fun w hw hc => fireClosing_closes hc ⟨rfl, rfl⟩ _ rfl hw,
      fireClosing_fired _ _ .refl rfl he⟩
  · obtain ⟨u, hd, hu⟩ := tryDraw_head (hold := enclosing f.r.key f.r.g (opRid f.r.op) (leftTok f).tag (opDepth f.r.op)) hfree hdraw
    obtain ⟨d, hdc, hdl⟩ := hu.others _ c' hcol fun h => hne h.2.symm
    have hm := hdc.modCol fun c => { c with succ := x, succv := true, spnd := false }
    have hw : ∀ j, (getRegion (modCol u (colKeyAt f.r.key f.r.op (leftTok f).tag) fun c => { c with succ := x, succv := true, spnd := false }) j).map
        (·.width) = (getRegion s j).map (·.width) := fun j => (modRegion_keeps _ _ _ _ (fun _ => by rfl) j).trans (hu.width j)
    have hcd : d.closes = c'.closes ∧ d.closed = c'.closed := by rw [hdl]; exact ⟨rfl, rfl⟩
    refine ⟨_, exec_next_draws hf rfl rfl hb hv hs hcl hr hl hd, fun w hw0 _ => fireClosing_closes hm hcd _ (hw _) hw0,
      fireClosing_fired _ _ (hu.firesLike.trans ((modCol_touches ..).firesLike (by decide) (modCol_sameIn _ _ _ fun _ _ => rfl)))
        (Eq.trans ((modCol_touches ..).same .nextId (by decide)) hu.nextId) he, ?_⟩
    obtain ⟨w, hw1⟩ : ∃ w, (getRegion s (colKeyAt f.r.key f.r.op (leftTok f).tag)).map (·.width) = some w := by
      obtain ⟨r, hr, -⟩ := colourIs_iff.1 hcol
      exact ⟨r.width, by rw [hr]; rfl⟩
    obtain ⟨d2, hd2, -, -, h3, h4⟩ := fireClosing_colourIs (f := f) (out := toPort f.r 0
      { leftTok f with tag := setField (leftTok f).tag (opDepth f.r.op) x }) hm ((hw _).trans hw1) (closerOf f)
    refine ⟨?_, ?_, ?_⟩
    · unfold nextFires; rw [hd2.getCol, h3]
    · unfold nextFires; rw [hd2.getCol, h4]
    · unfold nextFires
      rw [fireClosing_free]
      exact (modRegion_keeps (p := (·.free)) _ _ _ _ (fun _ => by rfl) _).trans hu.free
  · exact faultFire_spec (by rw [(firing_spec hf).2.1]; rfl) (exec_exit_idle hf rfl rfl hb)
  · exact faultFire_spec (by rw [(firing_spec hf).2.1]; rfl) (exec_exit_continued hf rfl rfl hb hs)
  · exact ⟨_, exec_exit_fires hf rfl rfl hb hv hs hr, fun w hw hc => fireClosing_closes hc ⟨rfl, rfl⟩ _ rfl hw,
      fireClosing_fired _ _ .refl rfl he⟩

/-! ### CALL -/

/-- The entry of the linkage slot that a lead CALL writes. -/
def linkOf (f : Firing) : Linkage :=
  { tag := (leftTok f).tag
    dest := (List.range (bits (opCfg f.r.op 0) 23 22 + 1)).map fun j => bits (opCfg f.r.op 0) (22 * j + 45) (22 * j + 24) }

/-- The lead member of a call site stores its caller. -/
def linkCall (s : State) (f : Firing) (x : Nat) : State :=
  if bits (opCfg f.r.op 0) 11 8 = 0 then
    modRegion s f.r.key.1 f.r.key.2 (bits (opCfg f.r.op 0) 7 0) fun r => { r with links := tset x (linkOf f) r.links }
  else s

/-- The tag of a called context. -/
def calledTok (f : Firing) (x : Nat) : Token :=
  { leftTok f with tag := BitVec.ofNat 64 ((bits (opCfg f.r.op 0) 7 0 * 256 + x) * 2 ^ 48) }

/-- The entry record of a call site. -/
def callKey (f : Firing) : Nat × Nat := (lowSlot (groupOf f.r.g f.r.op 21 16), tagField (leftTok f).tag (opDepth f.r.op))

/-- A CALL that fires under a context. -/
def callFires (s : State) (f : Firing) (e : Eng) (x count : Nat) : State :=
  countEntry (fireNext (linkCall s f x) f (toPort f.r 0 (calledTok f x))) e (callKey f) x count (bits (opCfg f.r.op 0) 15 12 + 1)

section
variable {s : State} {e : Eng} {n : Nat} {f : Firing} (hf : firing s e n 0x07 = some f)
include hf

theorem exec_call_again {x : EntryRec} (hr : refsRoom s (toPort f.r 0 (leftTok f)) = true)
    (hx : tfind (callKey f) (getEng s e).entries = some x) : exec (.callOp e n) s = .next (callFires s f e x.value x.count) := by
  unfold callKey at hx
  show execCallOp e n s = _
  simp only [execCallOp, hf, hr, hx, Bool.not_true, Bool.false_eq_true, if_false]
  rfl

theorem exec_call_waits (hx : tfind (callKey f) (getEng s e).entries = none)
    (hg : groupDraws s e f.r.key (bits (opCfg f.r.op 0) 7 0) f.q.slot (groupOf f.r.g f.r.op 21 16) (leftTok f).tag
      (opDepth f.r.op) = true) : exec (.callOp e n) s = .next s := by
  unfold callKey at hx
  show execCallOp e n s = _
  simp only [execCallOp, hf, hx, hg, true_or, if_true, ite_self]

theorem exec_call_draws {c : Nat} {u : State} (hr : refsRoom s (toPort f.r 0 (leftTok f)) = true)
    (hx : tfind (callKey f) (getEng s e).entries = none)
    (hg : groupDraws s e f.r.key (bits (opCfg f.r.op 0) 7 0) f.q.slot (groupOf f.r.g f.r.op 21 16) (leftTok f).tag
      (opDepth f.r.op) = false) (hl : liveRoom s (colKeyAt f.r.key f.r.op (leftTok f).tag) = true)
    (hd : tryDraw s f (bits (opCfg f.r.op 0) 7 0) (colKeyAt f.r.key f.r.op (leftTok f).tag) = .inl (c, u)) :
    exec (.callOp e n) s = .next (callFires u f e c 0) := by
  unfold callKey at hx
  show execCallOp e n s = _
  simp only [execCallOp, hf, hr, hx, hg, hl, hd, Bool.not_true, Bool.false_eq_true, or_self, if_false]
  rfl

end

theorem linkCall_touches (s : State) (f : Firing) (x : Nat) : Touches [.graphs] s (linkCall s f x) := by
  unfold linkCall
  split
  · exact modRegion_touches ..
  · exact .rfl

theorem linkCall_ops (s : State) (f : Firing) (x : Nat) : SameIn Graph.ops s (linkCall s f x) := by
  unfold linkCall
  split
  · exact modRegion_sameIn s _ _ _ _ fun _ _ => rfl
  · exact .refl

theorem callFires_spec {s u : State} {f : Firing} {e : Eng} {x : Nat} (count : Nat) (h : FiresLike s u) (hn : u.nextId = s.nextId)
    (he : Emits s f.r f.q.tag (toPort f.r 0 (calledTok f x))) :
    Fired s (callFires u f e x count) f s.nextId (toPort f.r 0 (calledTok f x)) := by
  have hl := linkCall_touches u f x
  exact countEntry_fired (fireNext_fired (h.trans (hl.firesLike (by decide) (linkCall_ops u f x)))
    (Eq.trans (hl.same .nextId (by decide)) hn) he) ..

theorem callFires_regions (s : State) (f : Firing) (e : Eng) (x count : Nat) :
    SameIn Graph.regions (linkCall s f x) (callFires s f e x count) :=
  (fireNext_regions _ f _).trans ((countEntry_touches ..).sameIn (by decide))

theorem callFires_free (s : State) (f : Firing) (e : Eng) (x count : Nat) (j : ColKey) :
    (getRegion (callFires s f e x count) j).map (·.free) = (getRegion s j).map (·.free) := by
  rw [(callFires_regions s f e x count).getRegion]
  unfold linkCall
  split
  · exact modRegion_keeps _ _ _ _ (fun _ => by rfl) j
  · rfl

/-- A lead CALL's entry stands in the linkage slot; another member leaves the slots. -/
theorem callFires_linked {s : State} {f : Firing} (e : Eng) (x count : Nat)
    (hg : (getRegion s (f.drawKey (bits (opCfg f.r.op 0) 7 0))).isSome = true) :
    if bits (opCfg f.r.op 0) 11 8 = 0 then
      ((getRegion (callFires s f e x count) (f.drawKey (bits (opCfg f.r.op 0) 7 0))).bind fun r => tfind x r.links) = some (linkOf f)
    else (getRegion (callFires s f e x count) (f.drawKey (bits (opCfg f.r.op 0) 7 0))).map (·.links) =
      (getRegion s (f.drawKey (bits (opCfg f.r.op 0) 7 0))).map (·.links) := by
  obtain ⟨g, hg⟩ := Option.isSome_iff_exists.1 hg
  rw [(callFires_regions s f e x count).getRegion]
  unfold linkCall
  split
  · rw [getRegion_modRegion_any, if_pos ⟨rfl, rfl, rfl⟩, hg]
    exact tfind_tset_same ..
  · rfl

/-! ### RET -/

section
variable {s : State} {e : Eng} {n : Nat} {f : Firing} {k : ColKey} (hf : firing s e n 0x08 = some f)
  (hk : colKeyAt f.r.key f.r.op (leftTok f).tag = k)
include hf hk

theorem exec_ret_idle (hb : (getCol s k).busy = false) : exec (.retOp e n) s = .next (faultFire s f 0x0105 (colTval k)) := by
  show execRetOp e n s = _
  simp only [execRetOp, hf, hk, hb, Bool.not_false, if_true]

theorem exec_ret_waits (hb : (getCol s k).busy = true) (hl : ((getRegion s k).bind fun r => tfind k.colour r.links) = none) :
    exec (.retOp e n) s = .next s := by
  show execRetOp e n s = _
  simp only [execRetOp, hf, hk, hb, hl, Bool.not_true, Bool.false_eq_true, if_false]

theorem exec_ret_fires {l : Linkage} {x : Nat} (hb : (getCol s k).busy = true)
    (hl : ((getRegion s k).bind fun r => tfind k.colour r.links) = some l) (hd : l.dest[bits (opCfg f.r.op 0) 1 0]? = some x)
    (hr : refsRoom s [addressed f.r (entryCoord f.r.key.1 f.r.g x) { leftTok f with tag := l.tag }] = true) :
    exec (.retOp e n) s = .next (fireClosing s f k (closerOf f)
      [addressed f.r (entryCoord f.r.key.1 f.r.g x) { leftTok f with tag := l.tag }]) := by
  show execRetOp e n s = _
  simp only [execRetOp, hf, hk, hb, hl, hd, hr, Option.map_some, Option.toList_some, Bool.not_true, Bool.false_eq_true, if_false]
  rfl

end

/-- Settles O33: CALL by exec_call_again, exec_call_waits and exec_call_draws, RET by its equations. -/
theorem callOperators : Obligations.CallOperators := by
  intro s e n f
  refine ⟨fun hf => ⟨fun x hx hr hg he => ?_, fun hx hg => exec_call_waits hf hx hg, fun hx hg' hr hl x rest hfree hdraw he => ?_⟩,
    fun hf => ⟨fun hb => ?_, fun hb hl => exec_ret_waits hf rfl hb hl, fun l x hb hl hd hr he => ?_⟩⟩
  · exact ⟨_, exec_call_again hf hr hx, callFires_spec _ .refl rfl he, countEntry_counted .., callFires_linked e x.value x.count hg⟩
  · obtain ⟨u, hd, hu⟩ := tryDraw_head (hold := colKeyAt f.r.key f.r.op (leftTok f).tag) hfree hdraw
    have hg : (getRegion u (f.drawKey (bits (opCfg f.r.op 0) 7 0))).isSome = true := by
      rw [← Option.isSome_map (f := (·.free)), hu.free]; rfl
    have hlk := callFires_linked e x 0 hg
    rw [hu.links] at hlk
    exact ⟨_, exec_call_draws hf hr hx hg' hl hd, callFires_spec _ hu.firesLike hu.nextId he, countEntry_counted .., hlk,
      (callFires_free ..).trans hu.free⟩
  · exact faultFire_spec (by rw [(firing_spec hf).2.1]; rfl) (exec_ret_idle hf rfl hb)
  · exact ⟨_, exec_ret_fires hf rfl hb hl hd hr, fireClosing_fired _ _ .refl rfl he,
      fun w hw hc => fireClosing_closes hc ⟨rfl, rfl⟩ _ rfl hw⟩

end Sys2Proof.Machine
end

section
/-!
PROOFS. Proofs/Sources.lean: SOURCEs that fire for an injection (spec/05 R120, R121).
-/
namespace Sys2Proof.Machine

/-- The token that a SOURCE emits. -/
def emittedTok (s : State) (r : OpRef) (x : SourceFire) : Token :=
  withShape s (sourceTok r x (((getLaunch s (x.pkg, x.lid)).map (·.record.agid)).getD 0))

/-- A SOURCE that emits a token. -/
def sourceEmits (s : State) (n : Nat) (r : OpRef) (x : SourceFire) (out : List Token) : State :=
  touch (sourceDone (emitToks (countFiring { s with sources := s.sources.eraseIdx n } r x.tag x.lid 0) r x.id x.tag out) r x)
    x.pkg x.lid

section
variable {s : State} {e : Eng} {n : Nat} {x : SourceFire} {r : OpRef} (hx : s.sources[n]? = some x)
  (hr : ((getGraph s (x.pkg, x.graph)).bind fun g => opRef (x.pkg, x.graph) g x.op) = some r) (he : r.op.eng = e)
  (hrun : running r.g = true)
include hx hr he hrun

theorem exec_source_emits {t : Token} (ht : emittedTok s r x = t) (hfull : t.kind = 1 → (getTile s (tokTile t)).state = 3)
    (hroom : refsRoom s (toAllPorts r t) = true) : exec (.source e n) s = .next (sourceEmits s n r x (toAllPorts r t)) := by
  unfold emittedTok at ht
  have hf : ¬(t.kind = 1 ∧ (getTile s (tokTile t)).state ≠ 3) := fun h => h.2 (hfull h.1)
  show execSource e n s = _
  simp only [execSource, hx, hr, he, hrun, ht, hroom, if_neg hf, Bool.not_true, Bool.false_eq_true, ne_eq, not_true_eq_false, or_self,
    if_false]
  rfl

theorem exec_source_refused {t : Token} (ht : emittedTok s r x = t) (hk : t.kind = 1) (hs : (getTile s (tokTile t)).state ≠ 3) :
    exec (.source e n) s = .next (raiseAt (noteFault { s with sources := s.sources.eraseIdx n } x.pkg x.lid 3) (opCoord r.op) r.g.part
      x.lid 0x0109 ((tokTile t).handle + (tokTile t).die * 2 ^ 16) x.tag) := by
  unfold emittedTok at ht
  show execSource e n s = _
  simp only [execSource, hx, hr, he, hrun, ht, if_pos (And.intro hk hs), Bool.not_true, Bool.false_eq_true, ne_eq, not_true_eq_false,
    or_self, if_false]

end

/-- The release of an injection's unit follows the increments of its SOURCE. -/
theorem sourceEmits_spec {s : State} {r : OpRef} {x : SourceFire} {out : List Token} (n : Nat) (ha : x.atLaunch = false)
    (he : Emits s r x.tag out) : let u := sourceEmits s n r x out
    u.sources = s.sources.eraseIdx n ∧ u.threads = s.threads ∧ SameBytes s u ∧
      u.updates = s.updates ++ out.map (risesFor s r x.id) ++
        [{ firing := x.id, key := colKeyAt r.key r.op x.tag, inc := false, lid := x.lid }] := by
  let s1 := countFiring { s with sources := s.sources.eraseIdx n } r x.tag x.lid 0
  let s2 := emitToks s1 r x.id x.tag out
  have hd : sourceDone s2 r x = releaseUnit s2 x.id (colKeyAt r.key r.op x.tag) x.lid := by
    unfold sourceDone
    rw [ha]
    rfl
  have h1 : Touches [.engines, .traces] { s with sources := s.sources.eraseIdx n } s1 := countFiring_touches ..
  have h2 : Touches [.inFlight, .updates, .graphs, .tiles] s1 s2 := emitToks_touches ..
  have h3 : Touches [.updates, .launches] s2 (sourceEmits s n r x out) := by
    show Touches _ s2 (touch (sourceDone s2 r x) x.pkg x.lid)
    rw [hd]
    exact (touch_touches ..).after (by decide) ((releaseUnit_touches ..).mono (by decide))
  have h := (h3.after (l := [.engines, .traces, .inFlight, .updates, .graphs, .tiles, .launches]) (by decide)
    (h2.after (by decide) (h1.mono (by decide))))
  have ho : SameIn Graph.ops s s1 := h1.sameIn (p := Graph.ops) (by decide)
  refine ⟨h.same .sources (by decide), h.same .threads (by decide), h.sameBytes (by decide), ?_⟩
  have hu2 : s2.updates = s1.updates ++ out.map (risesFor s1 r x.id) := emitToks_updates x.id out (he.congr ho)
  have hu1 : s1.updates = s.updates := h1.same .updates (by decide)
  show (touch (sourceDone s2 r x) x.pkg x.lid).updates = _
  rw [hd, ← hu1, ← risesFor_congr ho, ← hu2]
  exact (touch_touches ..).same .updates (by decide)

/-! ### The token of a SOURCE -/

/-- What every token of a SOURCE carries. -/
def sourceBase (s : State) (r : OpRef) (x : SourceFire) : Token :=
  { tag := x.tag, lid := x.lid, part := r.g.part, src := opCoord r.op
    agid := ((getLaunch s (x.pkg, x.lid)).map (·.record.agid)).getD 0 }

section
variable {s : State} {r : OpRef} {x : SourceFire}

theorem emittedTok_signal (h : bits (opCfg r.op 0) 255 252 = 0) : emittedTok s r x = { sourceBase s r x with kind := 3 } := by
  unfold emittedTok sourceTok
  simp only [h]
  rfl

theorem emittedTok_scalar (h : bits (opCfg r.op 0) 255 252 = 1) {w : Nat}
    (hw : (x.value.map (·.toNat)).getD (bits (opCfg r.op 0) 63 0) = w) :
    emittedTok s r x = { sourceBase s r x with kind := 2, opw := BitVec.ofNat 128 w, residue := residueOf (leBytes 8 w) } := by
  unfold emittedTok sourceTok
  simp only [h, hw]
  rfl

/-- The tile that an injected value names. -/
def valueTile (r : OpRef) (w : Word) : TileId := { pkg := r.key.1, die := bits w.toNat 17 16, handle := bits w.toNat 15 0 }

/-- A tile token's operand word names its tile. -/
theorem tokTile_opw (t : Token) {id : TileId} (hp : t.src.eng.pkg = id.pkg) (hd : id.die < 4) (hh : id.handle < 2 ^ 16)
    (h : t.opw = BitVec.ofNat 128 (id.handle + id.die * 2 ^ 16)) : tokTile t = id := by
  unfold tokTile bits
  rw [h, BitVec.toNat_ofNat, hp]
  obtain ⟨p, d, k⟩ := id
  dsimp only at hd hh ⊢
  have e1 : (k + d * 2 ^ 16) % 2 ^ 128 / 2 ^ 16 % 2 ^ (17 + 1 - 16) = d := by omega
  have e2 : (k + d * 2 ^ 16) % 2 ^ 128 / 2 ^ 0 % 2 ^ (15 + 1 - 0) = k := by omega
  rw [e1, e2]

theorem bits_lt (v hi lo : Nat) : bits v hi lo < 2 ^ (hi + 1 - lo) := Nat.mod_lt _ (Nat.two_pow_pos _)

/-- The token of the tile that an injected value names. -/
def fullTok (s : State) (r : OpRef) (x : SourceFire) (w : Word) : Token :=
  let y := getTile s (valueTile r w)
  { sourceBase s r x with kind := 1, opw := tileOpw (valueTile r w) y.rows y.cols y.fmt 0 }

theorem emittedTok_tile (h : bits (opCfg r.op 0) 255 252 = 2) (hp : r.op.eng.pkg = r.key.1) {w : Word} (hw : x.value = some w) :
    emittedTok s r x = fullTok s r x w := by
  let t : Token := { sourceBase s r x with kind := 1, opw := BitVec.ofNat 128 ((valueTile r w).handle + (valueTile r w).die * 2 ^ 16) }
  have ht : tokTile t = valueTile r w := tokTile_opw t hp (bits_lt _ 17 16) (bits_lt _ 15 0) rfl
  have hs : sourceTok r x (((getLaunch s (x.pkg, x.lid)).map (·.record.agid)).getD 0) = t := by
    unfold sourceTok
    simp only [h, hw]
    rfl
  unfold emittedTok
  rw [hs]
  unfold withShape
  rw [if_pos rfl, ht]
  rfl

end

/-- A tile token of a tile with a shape names it. -/
theorem tokTile_tileOpw (t : Token) {id : TileId} (hp : t.src.eng.pkg = id.pkg) (hd : id.die < 4) (hh : id.handle < 2 ^ 16)
    {rows cols fmt mode : Nat} (h : t.opw = tileOpw id rows cols fmt mode) : tokTile t = id := by
  unfold tileOpw at h
  unfold tokTile bits
  rw [h, BitVec.toNat_ofNat, hp]
  obtain ⟨p, d, k⟩ := id
  dsimp only at hd hh ⊢
  generalize rows - 1 = a, cols - 1 = b
  have e1 : (k + d * 2 ^ 16 + a * 2 ^ 32 + b * 2 ^ 40 + fmt * 2 ^ 48 + mode * 2 ^ 52) % 2 ^ 128 / 2 ^ 16 % 2 ^ (17 + 1 - 16) = d := by
    omega
  have e2 : (k + d * 2 ^ 16 + a * 2 ^ 32 + b * 2 ^ 40 + fmt * 2 ^ 48 + mode * 2 ^ 52) % 2 ^ 128 / 2 ^ 0 % 2 ^ (15 + 1 - 0) = k := by
    omega
  rw [e1, e2]

/-- Settles O34: the token of each mode is computed by an emittedTok lemma, and exec_source_emits and exec_source_refused say what
becomes of it. -/
theorem sourceFires : Obligations.SourceFires := by
  intro s e n x r hx hr he hrun ha v base fires
  have hkey : r.key = (x.pkg, x.graph) := by
    obtain ⟨g, -, hg⟩ := Option.bind_eq_some_iff.1 hr
    obtain ⟨o, -, rfl⟩ := Option.map_eq_some_iff.1 hg
    rfl
  have go : ∀ t : Token, emittedTok s r x = t → (t.kind = 1 → (getTile s (tokTile t)).state = 3) → fires t :=
    fun t ht hf hroom hem => ⟨_, exec_source_emits hx hr he hrun ht hf hroom, sourceEmits_spec n ha hem⟩
  have h63 : bits v 63 0 = v % 2 ^ 64 := by unfold bits; rw [Nat.pow_zero, Nat.div_one]
  refine ⟨fun h => go _ (emittedTok_signal h) (fun hc => nomatch hc), fun h hv => ?_, fun h w hv => ?_, fun h' hp w hv => ⟨fun hs => ?_, fun hs => ?_⟩⟩
  · exact go _ (emittedTok_scalar h (by rw [hv]; exact h63)) (fun hc => nomatch hc)
  · exact go _ (emittedTok_scalar h (by rw [hv]; rfl)) (fun hc => nomatch hc)
  · refine go _ (emittedTok_tile h' hp hv) fun _ => ?_
    rw [tokTile_tileOpw _ (id := valueTile r w) hp (bits_lt _ 17 16) (bits_lt _ 15 0) rfl]
    exact hs
  · have hid := tokTile_tileOpw (fullTok s r x w) (id := valueTile r w) hp (bits_lt _ 17 16) (bits_lt _ 15 0) rfl
    have hn := noteFault_touches { s with sources := s.sources.eraseIdx n } x.pkg x.lid 3
    have hu := raiseAt_touches (noteFault { s with sources := s.sources.eraseIdx n } x.pkg x.lid 3) (opCoord r.op) r.g.part x.lid 0x0109
      ((tokTile (fullTok s r x w)).handle + (tokTile (fullTok s r x w)).die * 2 ^ 16) x.tag .none
    have h := hu.after (l := [.reports, .launches]) (by decide) (hn.mono (by decide))
    refine ⟨_, exec_source_refused hx hr he hrun (emittedTok_tile h' hp hv) rfl (by rw [hid]; exact hs), h.same .sources (by decide),
      h.same .inFlight (by decide), ⟨_, congrArg (· ++ [_]) (hn.same .reports (by decide)), rfl, ?_⟩, h.same .updates (by decide),
      h.same .threads (by decide), h.sameBytes (by decide)⟩
    rw [hid]
    rfl

end Sys2Proof.Machine
end

section
/-!
PROOFS. Proofs/Containment.lean: containments and their pending member tokens, COPEN, CCLOSE and a held containment (spec/05 R132 to R135).
-/
namespace Sys2Proof.Machine

/-! ### Instances of a graph -/

/-- A graph with one containment changed. -/
def Graph.modInst (g : Graph) (rec row : Nat) (f : Inst → Inst) : Graph :=
  { g with conts := lmod rec (fun c => { c with insts := tmod {} row f c.insts }) g.conts }

theorem getGraph_modInst (s : State) (key : Nat × Nat) (rec row : Nat) (f : Inst → Inst) :
    getGraph (modInst s key rec row f) key = (getGraph s key).map fun g => g.modInst rec row f := getGraph_modGraph ..

theorem Graph.modInst_length (g : Graph) (rec row : Nat) (f : Inst → Inst) : (g.modInst rec row f).conts.length = g.conts.length :=
  List.length_modify ..

theorem getInst_modInst (g : Graph) {rec : Nat} (row : Nat) (f : Inst → Inst) (h : rec < g.conts.length) :
    getInst (g.modInst rec row f) rec row = f (getInst g rec row) := by
  unfold getInst Graph.modInst
  dsimp only [lmod]
  rw [List.getElem?_modify_eq, List.getElem?_eq_getElem h]
  exact tget_tmod_same ..

theorem getInst_modInst_other (g : Graph) {rec row a b : Nat} (f : Inst → Inst) (h : ¬(a = rec ∧ b = row)) :
    getInst (g.modInst rec row f) a b = getInst g a b := by
  unfold getInst Graph.modInst
  dsimp only [lmod]
  by_cases ha : a = rec
  · subst ha
    have hb : b ≠ row := fun hb => h ⟨rfl, hb⟩
    rw [List.getElem?_modify_eq]
    cases g.conts[a]? with
    | none => rfl
    | some c => exact tget_tmod_other _ _ _ hb
  · rw [List.getElem?_modify_ne _ _ fun hr => ha hr.symm]

/-! ### Counting pending member tokens -/

/-- Two containments differ in pend alone. -/
def Inst.SameButPend (x y : Inst) : Prop := y = { x with pend := y.pend }

theorem Inst.SameButPend.trans {x y z : Inst} (h : x.SameButPend y) (k : y.SameButPend z) : x.SameButPend z := by
  unfold Inst.SameButPend at *
  rw [k, h]

/-- A graph whose containments of a list have each been counted. -/
def Graph.pend (g : Graph) (l : List (Nat × Nat)) (up : Bool) : Graph :=
  l.foldl (fun g x => g.modInst x.1 x.2 fun i => { i with pend := if up then i.pend + 1 else i.pend - 1 }) g

theorem getGraph_addPend (s : State) (r : OpRef) (tag : Word) (up : Bool) :
    getGraph (addPend s r tag up) r.key = (getGraph s r.key).map fun g => g.pend (instancesOf r tag) up := by
  unfold addPend
  induction instancesOf r tag generalizing s with
  | nil => exact (Option.map_id' ..).symm
  | cons x l ih =>
    rw [List.foldl_cons, ih, getGraph_modInst, Option.map_map]
    rfl

theorem getGraph_addPend_other (s : State) {r : OpRef} (tag : Word) (up : Bool) {key : Nat × Nat} (h : key ≠ r.key) :
    getGraph (addPend s r tag up) key = getGraph s key := by
  unfold addPend
  induction instancesOf r tag generalizing s with
  | nil => rfl
  | cons x l ih => rw [List.foldl_cons, ih]; exact getGraph_modGraph_other _ _ h

theorem Graph.pend_length (g : Graph) (l : List (Nat × Nat)) (up : Bool) : (g.pend l up).conts.length = g.conts.length := by
  induction l generalizing g with
  | nil => rfl
  | cons x l ih => exact (ih _).trans (g.modInst_length _ _ _)

/-- A containment counts as often as it is listed. -/
theorem getInst_pend (g : Graph) (l : List (Nat × Nat)) (up : Bool) {a b : Nat} (h : a < g.conts.length) :
    getInst (g.pend l up) a b = { getInst g a b with
      pend := if up then (getInst g a b).pend + l.count (a, b) else (getInst g a b).pend - l.count (a, b) } := by
  induction l generalizing g with
  | nil => cases up <;> rfl
  | cons x l ih =>
    have hx := ih (g.modInst x.1 x.2 fun i => { i with pend := if up then i.pend + 1 else i.pend - 1 })
      (by rw [Graph.modInst_length]; exact h)
    refine hx.trans ?_
    by_cases hab : x = (a, b)
    · subst hab
      rw [getInst_modInst _ _ _ h, List.count_cons_self]
      cases up with
      | true => simp only [if_true, Nat.add_assoc, Nat.add_comm 1]
      | false => simp only [Bool.false_eq_true, if_false, Nat.sub_sub, Nat.add_comm 1]
    · rw [getInst_modInst_other _ _ fun hc => hab (Prod.ext hc.1.symm hc.2.symm), List.count_cons_of_ne hab]

/-! ### How often a containment is listed -/

theorem count_flatMap_above {α β : Type} [BEq β] [LawfulBEq β] {f : α × Nat → List β} {b : β} {k : Nat} :
    ∀ (l : List α) (n : Nat), k < n → (∀ a i, i ≠ k → (f (a, i)).count b = 0) → ((l.zipIdx n).flatMap f).count b = 0
  | [], _, _, _ => rfl
  | a :: l, n, hn, h => by
    rw [List.zipIdx_cons, List.flatMap_cons, List.count_append, h a n (by omega), count_flatMap_above l (n + 1) (by omega) h]

/-- What only one place of a list can contribute is what that place contributes. -/
theorem count_flatMap_zipIdx {α β : Type} [BEq β] [LawfulBEq β] {f : α × Nat → List β} {b : β} {k : Nat} {c : α} :
    ∀ (l : List α) (n j : Nat), k = n + j → l[j]? = some c → (∀ a i, i ≠ k → (f (a, i)).count b = 0) →
      ((l.zipIdx n).flatMap f).count b = (f (c, k)).count b
  | [], _, _, _, hc, _ => nomatch hc
  | a :: l, n, 0, hk, hc, h => by
    obtain rfl : a = c := by simpa using hc
    rw [List.zipIdx_cons, List.flatMap_cons, List.count_append, count_flatMap_above l (n + 1) (by omega) h, hk]
    rfl
  | a :: l, n, j + 1, hk, hc, h => by
    rw [List.zipIdx_cons, List.flatMap_cons, List.count_append, h a n (by omega), Nat.zero_add]
    exact count_flatMap_zipIdx l (n + 1) j (by omega) (by simpa using hc) h

/-- A key of a table without repetitions is listed once when its entry passes. -/
theorem count_keys {α : Type} {p : Nat × α → Bool} {k : Nat} : ∀ (t : Tbl Nat α), (t.map (·.1)).Nodup →
    ((t.filter p).map (·.1)).count k = match tfind k t with
      | some v => if p (k, v) then 1 else 0
      | none => 0
  | [], _ => rfl
  | (j, v) :: t, h => by
    obtain ⟨hj, ht⟩ := List.nodup_cons.1 (show (j :: t.map (·.1)).Nodup from h)
    have ih := count_keys (p := p) (k := k) t ht
    rw [List.filter_cons, tfind]
    by_cases hk : j = k
    · subst hk
      have hn : ((t.filter p).map (·.1)).count j = 0 :=
        List.count_eq_zero.2 fun hm => hj ((List.filter_sublist.map _).subset hm)
      rw [if_pos rfl]
      dsimp only
      split
      · rw [List.map_cons, List.count_cons_self, hn]
      · exact hn
    · rw [if_neg hk]
      split
      · rw [List.map_cons, List.count_cons_of_ne hk, ih]
      · exact ih

/-- How often a member's tag lists a containment. -/
theorem count_instancesOf {r : OpRef} {tag : Word} {a b : Nat} {c : Cont} (hc : r.g.conts[a]? = some c)
    (hn : (c.insts.map (·.1)).Nodup) : (instancesOf r tag).count (a, b) = match tfind b c.insts with
      | some x => if c.members.contains r.i && (decide (x.state ≠ 0) &&
          tagAgrees x.key tag (((r.g.ops[c.copen]?).map opDepth).getD 0)) then 1 else 0
      | none => 0 := by
  unfold instancesOf
  rw [count_flatMap_zipIdx r.g.conts 0 a (Nat.zero_add a).symm hc fun c' i hi => ?_]
  · dsimp only
    have hm : ∀ l : List (Nat × Inst), (l.map fun x => (a, x.1)).count (a, b) = (l.map (·.1)).count b := fun l => by
      rw [show (l.map fun x => (a, x.1)) = (l.map (·.1)).map fun k => (a, k) by rw [List.map_map]; rfl]
      exact List.count_map_of_injective _ (fun k => (a, k)) (fun x y h => (Prod.mk.inj h).2) b
    split
    · next hmem =>
      rw [hm, count_keys c.insts hn]
      cases tfind b c.insts with
      | none => rfl
      | some x => simp only [hmem, Bool.true_and]
    · next hmem =>
      cases tfind b c.insts with
      | none => rfl
      | some x => simp only [hmem, Bool.false_and, Bool.false_eq_true, if_false, List.count_nil]
  · refine List.count_eq_zero.2 fun hm => hi ?_
    split at hm
    · obtain ⟨x, -, hx⟩ := List.mem_map.1 hm
      exact (Prod.mk.inj hx).1
    · exact absurd hm List.not_mem_nil

/-! ### Emissions and consumptions under an open containment -/

theorem getGraph_emitTok {s : State} {r : OpRef} {at_ : Word} {x : Token} (fid : Nat) (hu : unwindingAt r at_ = false)
    {c : OpRef} (hc : consumerOfTok s r x = some c) :
    getGraph (emitTok r fid at_ s x) r.key = (getGraph s r.key).map fun g => g.pend (instancesOf c x.tag) true := by
  have hk : c.key = r.key := by
    obtain ⟨g, -, hg⟩ := Option.bind_eq_some_iff.1 hc
    obtain ⟨i, -, hi⟩ := Option.bind_eq_some_iff.1 hg
    obtain ⟨o, -, rfl⟩ := Option.map_eq_some_iff.1 hi
    rfl
  unfold emitTok
  rw [if_neg (by rw [hu]; exact Bool.false_ne_true)]
  extract_lets s1
  have h1 : Touches [.tiles] s s1 := by
    unfold s1
    split
    · exact modTile_touches ..
    · exact .rfl
  have hg : ((getGraph s1 r.key).bind fun g => (opAtCoord g x.dst).bind fun i => opRef r.key g i) = some c := by
    rw [h1.getGraph (by decide)]; exact hc
  rw [hg]
  have ha := getGraph_addPend s1 c x.tag true
  rw [hk, h1.getGraph (by decide)] at ha
  exact ha

theorem getGraph_consumeTok (r : OpRef) (fid : Nat) (retire : Bool) (s : State) (x : Token) :
    getGraph (consumeTok r fid retire s x) r.key = (getGraph s r.key).map fun g => g.pend (instancesOf r x.tag) false := by
  rw [← getGraph_addPend]
  unfold consumeTok
  extract_lets s1 steer s2 s3
  have h2 : Touches [.updates, .launches] s1 s3 := (touch_touches ..).after (by decide) (.put rfl)
  have h3 : Touches [.updates, .launches, .retires] s1 (if (retire && decide (x.kind = 1)) = true then
      { s3 with retires := s3.retires ++ [{ tile := tokTile x }] } else s3) := by
    split
    · exact .trans (h2.mono (by decide)) (.put rfl)
    · exact h2.mono (by decide)
  exact h3.getGraph (by decide) r.key

/-- A graph's containment is as it was but for its pending tokens, and the graph has as many records. -/
structure Kept (a b : Nat) (g h : Graph) : Prop where
  length : h.conts.length = g.conts.length
  inst : (getInst g a b).SameButPend (getInst h a b)

theorem Kept.trans {a b : Nat} {g h k : Graph} (x : Kept a b g h) (y : Kept a b h k) : Kept a b g k :=
  ⟨y.length.trans x.length, x.inst.trans y.inst⟩

theorem Kept.pend {a b : Nat} {g : Graph} (h : a < g.conts.length) (l : List (Nat × Nat)) (up : Bool) : Kept a b g (g.pend l up) :=
  ⟨g.pend_length l up, by unfold Inst.SameButPend; rw [getInst_pend g l up h]⟩

/-- Emissions of an activation change no more of a containment than its pending tokens. -/
theorem emitToks_kept {r : OpRef} {at_ : Word} (fid : Nat) {a b : Nat} : ∀ (out : List Token) {s : State} {g : Graph},
    Emits s r at_ out → getGraph s r.key = some g → a < g.conts.length →
      ∃ h, getGraph (emitToks s r fid at_ out) r.key = some h ∧ Kept a b g h
  | [], _, g, _, hg, _ => ⟨g, hg, rfl, rfl⟩
  | x :: out, s, g, he, hg, ha => by
    obtain ⟨c, hc⟩ := Option.isSome_iff_exists.1 (he.2 x List.mem_cons_self)
    have hs : SameIn Graph.ops s (emitTok r fid at_ s x) := emitTok_sameIn _ _ _ _ _ fun _ _ => rfl
    have h1 := getGraph_emitTok fid he.1 hc
    rw [hg] at h1
    have k1 := Kept.pend (b := b) ha (instancesOf c x.tag) true
    obtain ⟨h, h2, k2⟩ := emitToks_kept fid (b := b) out (Emits.congr hs ⟨he.1, fun y hy => he.2 y (List.mem_cons_of_mem _ hy)⟩) h1
      (by rw [k1.length]; exact ha)
    exact ⟨h, h2, k1.trans k2⟩

theorem consumeToks_kept (r : OpRef) (fid : Nat) (retire : Bool) {a b : Nat} : ∀ (toks : List Token) {s : State} {g : Graph},
    getGraph s r.key = some g → a < g.conts.length → ∃ h, getGraph (consumeToks s r fid retire toks) r.key = some h ∧ Kept a b g h
  | [], _, g, hg, _ => ⟨g, hg, rfl, rfl⟩
  | x :: toks, s, g, hg, ha => by
    have h1 := getGraph_consumeTok r fid retire s x
    rw [hg] at h1
    have k1 := Kept.pend (b := b) ha (instancesOf r x.tag) false
    obtain ⟨h, h2, k2⟩ := consumeToks_kept r fid retire (b := b) toks h1 (by rw [k1.length]; exact ha)
    exact ⟨h, h2, k1.trans k2⟩

/-- Consumptions whose operator does not list a containment leave its pending tokens. -/
theorem consumeToks_pend (r : OpRef) (fid : Nat) (retire : Bool) {a b : Nat} : ∀ (toks : List Token) {s : State} {g : Graph},
    (∀ x ∈ toks, (instancesOf r x.tag).count (a, b) = 0) → getGraph s r.key = some g → a < g.conts.length →
      ∃ h, getGraph (consumeToks s r fid retire toks) r.key = some h ∧ (getInst h a b).pend = (getInst g a b).pend
  | [], _, g, _, hg, _ => ⟨g, hg, rfl⟩
  | x :: toks, s, g, hc, hg, ha => by
    have h1 := getGraph_consumeTok r fid retire s x
    rw [hg] at h1
    obtain ⟨h, h2, k2⟩ := consumeToks_pend r fid retire toks (fun y hy => hc y (List.mem_cons_of_mem _ hy)) h1
      (by rw [Graph.pend_length]; exact ha)
    refine ⟨h, h2, k2.trans ?_⟩
    rw [getInst_pend g _ _ ha, hc x List.mem_cons_self]
    rfl

/-! ### The count at an opening -/

/-- Graph g is like one whose record a was c, and holds a containment in row b that is not idle and has a key. -/
structure Opened (ops : List Op) (c : Cont) (a b : Nat) (key : Word) (g : Graph) : Prop where
  ops_eq : g.ops = ops
  cont : ∃ c' x, g.conts[a]? = some c' ∧ c'.copen = c.copen ∧ c'.members = c.members ∧ (c'.insts.map (·.1)).Nodup ∧
    tfind b c'.insts = some x ∧ x.state ≠ 0 ∧ x.key = key

/-- The keys of a table after a write. -/
theorem keys_tset {α : Type} (k : Nat) (v : α) : ∀ t : Tbl Nat α,
    (tset k v t).map (·.1) = if k ∈ t.map (·.1) then t.map (·.1) else t.map (·.1) ++ [k]
  | [] => rfl
  | (j, w) :: t => by
    unfold tset
    by_cases h : j = k
    · subst h; simp
    · have ih := keys_tset k v t
      rw [if_neg h, List.map_cons, ih]
      by_cases hm : k ∈ t.map (·.1)
      · rw [if_pos hm]
        exact (if_pos (List.mem_cons_of_mem _ hm)).symm
      · rw [if_neg hm]
        exact (if_neg fun hc => (List.mem_cons.1 hc).elim (fun e => h e.symm) hm).symm

theorem nodup_tset {α : Type} {k : Nat} {v : α} {t : Tbl Nat α} (h : (t.map (·.1)).Nodup) : ((tset k v t).map (·.1)).Nodup := by
  rw [keys_tset]
  split
  · exact h
  · next hm => exact List.nodup_append.2 ⟨h, List.nodup_singleton _, fun x hx y hy => by
      rw [List.mem_singleton.1 hy]; exact fun hc => hm (hc ▸ hx)⟩

/-- A change of pending tokens anywhere keeps the opening. -/
theorem Opened.modInst {ops : List Op} {c : Cont} {a b : Nat} {key : Word} {g : Graph} (h : Opened ops c a b key g) (rec row : Nat)
    {f : Inst → Inst} (hf : ∀ x : Inst, x.SameButPend (f x)) : Opened ops c a b key (g.modInst rec row f) := by
  obtain ⟨ho, c', x, hc, h1, h2, h3, h4, h5, h6⟩ := h
  refine ⟨ho, ?_⟩
  by_cases ha : a = rec
  · subst ha
    refine ⟨{ c' with insts := tmod {} row f c'.insts }, if b = row then f x else x, ?_, h1, h2, nodup_tset h3, ?_, ?_⟩
    · show (g.conts.modify a _)[a]? = _
      rw [List.getElem?_modify_eq, hc]
      rfl
    · by_cases hb : b = row
      · subst hb
        rw [if_pos rfl]
        refine (tfind_tset_same ..).trans ?_
        unfold tget
        rw [h4]
        rfl
      · rw [if_neg hb]
        exact (tfind_tset_other _ _ hb).trans h4
    · split
      · rw [hf x]; exact ⟨h5, h6⟩
      · exact ⟨h5, h6⟩
  · refine ⟨c', x, ?_, h1, h2, h3, h4, h5, h6⟩
    show (g.conts.modify rec _)[a]? = _
    rw [List.getElem?_modify_ne _ _ fun hr => ha hr.symm]
    exact hc

theorem Opened.pend {ops : List Op} {c : Cont} {a b : Nat} {key : Word} {g : Graph} (h : Opened ops c a b key g)
    (l : List (Nat × Nat)) (up : Bool) : Opened ops c a b key (g.pend l up) := by
  induction l generalizing g with
  | nil => exact h
  | cons x l ih => exact ih (h.modInst _ _ fun _ => rfl)

/-- Each emitted member token under the key counts once. -/
theorem emitToks_pend {r : OpRef} {at_ : Word} (fid : Nat) {ops : List Op} {c : Cont} {o : Op} (ho : ops[c.copen]? = some o)
    {a b : Nat} {key : Word} : ∀ (out : List Token) {s : State} {g : Graph}, Emits s r at_ out → getGraph s r.key = some g →
      Opened ops c a b key g → ∃ h, getGraph (emitToks s r fid at_ out) r.key = some h ∧ (getInst h a b).pend =
        (getInst g a b).pend + out.countP fun y =>
          (consumerOfTok s r y).any (fun o => c.members.contains o.i) && tagAgrees key y.tag (opDepth o)
  | [], _, g, _, hg, _ => ⟨g, hg, rfl⟩
  | x :: out, s, g, he, hg, hop => by
    obtain ⟨q, hq⟩ := Option.isSome_iff_exists.1 (he.2 x List.mem_cons_self)
    have hs : SameIn Graph.ops s (emitTok r fid at_ s x) := emitTok_sameIn _ _ _ _ _ fun _ _ => rfl
    have h1 := getGraph_emitTok fid he.1 hq
    rw [hg] at h1
    obtain ⟨h, h2, k2⟩ := emitToks_pend fid ho out (Emits.congr hs ⟨he.1, fun y hy => he.2 y (List.mem_cons_of_mem _ hy)⟩) h1
      (hop.pend _ _)
    refine ⟨h, h2, k2.trans ?_⟩
    obtain ⟨hops, c', y, hc', hcop, hmem, hnd, hfind, hst, hkey⟩ := hop
    have ha : a < g.conts.length := (List.getElem?_eq_some_iff.1 hc').1
    have hqg : q.g = g := by
      have hq' := hq
      unfold consumerOfTok at hq'
      rw [hg, Option.bind_some] at hq'
      obtain ⟨i, -, hi⟩ := Option.bind_eq_some_iff.1 hq'
      obtain ⟨o', -, rfl⟩ := Option.map_eq_some_iff.1 hi
      rfl
    have hcount : (instancesOf q x.tag).count (a, b) = if (c.members.contains q.i && tagAgrees key x.tag (opDepth o)) = true then 1
        else 0 := by
      rw [count_instancesOf (by rw [hqg]; exact hc') hnd, hfind, hmem, hqg, hops, hcop, ho]
      simp only [hkey, Option.map_some, Option.getD_some, hst, ne_eq, not_false_eq_true, decide_true, Bool.true_and]
    rw [getInst_pend g _ _ ha, hcount, List.countP_cons, hq]
    have hcongr : ∀ z, (consumerOfTok (emitTok r fid at_ s x) r z).any (fun o => c.members.contains o.i) =
        (consumerOfTok s r z).any fun o => c.members.contains o.i := fun z => by
      have hz := congrArg (fun w => Option.any (fun p : Nat × Op => c.members.contains p.1) w) (consumerOfTok_congr hs r z)
      simpa [Option.any_map] using hz
    simp only [hcongr, Option.any_some, if_true]
    omega

/-! ### COPEN and CCLOSE -/

theorem fire_kept {s : State} {f : Firing} {out : List Token} (fid : Nat) (retire : Bool) {a b : Nat} {g : Graph}
    (he : Emits s f.r f.q.tag out) (hg : getGraph s f.r.key = some g) (ha : a < g.conts.length) :
    ∃ h, getGraph (fire s f fid out retire) f.r.key = some h ∧ Kept a b g h := by
  unfold fire
  extract_lets s1 s2
  have h1 : Touches [.engines, .traces] s s1 := countFiring_touches ..
  obtain ⟨g2, h2, k2⟩ := emitToks_kept fid (b := b) out (he.congr (h1.sameIn (by decide))) ((h1.getGraph (by decide) _).trans hg) ha
  obtain ⟨g3, h3, k3⟩ := consumeToks_kept f.r fid retire (b := b) f.toks h2 (by rw [k2.length]; exact ha)
  exact ⟨g3, ((leaveFlow_touches s2 f).getGraph (by decide) _).trans h3, k2.trans k3⟩

/-- A firing counts each emitted member token of a containment that its operator's graph does not list as open. -/
theorem fire_pend {s : State} {f : Firing} {out : List Token} (fid : Nat) (retire : Bool) {a b : Nat} {g : Graph} {ops : List Op}
    {c : Cont} {o : Op} {key : Word} (he : Emits s f.r f.q.tag out) (hg : getGraph s f.r.key = some g)
    (ho : ops[c.copen]? = some o) (hop : Opened ops c a b key g) (hc : ∀ x ∈ f.toks, (instancesOf f.r x.tag).count (a, b) = 0) :
    ∃ h, getGraph (fire s f fid out retire) f.r.key = some h ∧ (getInst h a b).pend = (getInst g a b).pend + out.countP fun y =>
      (consumerOfTok s f.r y).any (fun o => c.members.contains o.i) && tagAgrees key y.tag (opDepth o) := by
  have ha : a < g.conts.length := by
    obtain ⟨c', -, hc', -⟩ := hop.cont
    exact (List.getElem?_eq_some_iff.1 hc').1
  unfold fire
  extract_lets s1 s2
  have h1 : Touches [.engines, .traces] s s1 := countFiring_touches ..
  have he1 := he.congr (h1.sameIn (by decide))
  have hg1 := (h1.getGraph (by decide) f.r.key).trans hg
  obtain ⟨g2, h2, k2⟩ := emitToks_pend fid ho out he1 hg1 hop
  obtain ⟨g2', h2', k2'⟩ := emitToks_kept fid (b := b) out he1 hg1 ha
  obtain rfl : g2 = g2' := Option.some_inj.1 (h2.symm.trans h2')
  obtain ⟨g3, h3, k3⟩ := consumeToks_pend f.r fid retire f.toks hc h2 (by rw [k2'.length]; exact ha)
  refine ⟨g3, ((leaveFlow_touches s2 f).getGraph (by decide) _).trans h3, k3.trans (k2.trans ?_)⟩
  have hcons : ∀ y, consumerOfTok s1 f.r y = consumerOfTok s f.r y := fun y => by
    unfold consumerOfTok; rw [h1.getGraph (by decide)]
  simp only [hcons]

/-- What a COPEN writes into a containment. -/
def openedInst (s : State) (f : Firing) (rec : Nat) : Inst :=
  { key := (leftTok f).tag, kl := f.q.l, kr := f.q.r, state := 1, lid := (leftTok f).lid, pend := memberToks s f.r rec (leftTok f).tag }

/-- A COPEN's containment is open, and its colour holds a unit. -/
def openInst (s : State) (f : Firing) (rec row : Nat) : State :=
  holdLive (modInst s f.r.key rec row fun _ => openedInst s f rec) (colKeyAt f.r.key f.r.op (leftTok f).tag)

/-- The containment that a COPEN or a CCLOSE names. -/
def Firing.inst (f : Firing) : Nat × Nat := instAt f.r.g (bits (opCfg f.r.op 0) 15 0) (leftTok f).tag

section
variable {s : State} {e : Eng} {n : Nat} {f : Firing} (hf : firing s e n 0x0D = some f)
include hf

theorem exec_copen_fault (hs : (getInst f.r.g f.inst.1 f.inst.2).state ≠ 0) :
    exec (.copen e n) s = .next (faultFire s f 0x0108 f.inst.1) := by
  unfold Firing.inst at hs
  show execCopen e n s = _
  simp only [execCopen, hf, if_pos hs]
  rfl

theorem exec_copen_opens (hs : (getInst f.r.g f.inst.1 f.inst.2).state = 0) (hr : refsRoom s (bothPorts f.r f.q.l f.q.r) = true)
    (hl : liveRoom s (colKeyAt f.r.key f.r.op (leftTok f).tag) = true) : exec (.copen e n) s =
      .next (fire (fresh (openInst s f f.inst.1 f.inst.2)).2 f (fresh (openInst s f f.inst.1 f.inst.2)).1
        (bothPorts f.r f.q.l f.q.r) false) := by
  unfold Firing.inst at hs
  show execCopen e n s = _
  simp only [execCopen, hf, hs, hr, hl, ne_eq, not_true_eq_false, Bool.not_true, Bool.false_eq_true, or_self, if_false]
  rfl

end

/-- A CCLOSE's firing, with the kept references retired and the containment empty. -/
def closedInst (s : State) (f : Firing) : State :=
  let x := getInst f.r.g f.inst.1 f.inst.2
  modInst (retireKept (retireKept (fire (fresh s).2 f (fresh s).1 (bothPorts f.r f.q.l f.q.r) true) x.kl) x.kr) f.r.key f.inst.1 f.inst.2
    fun _ => {}

section
variable {s : State} {e : Eng} {n : Nat} {f : Firing} (hf : firing s e n 0x0E = some f)
include hf

theorem exec_cclose_waits (h : (getInst f.r.g f.inst.1 f.inst.2).state ≠ 1 ∨ (getInst f.r.g f.inst.1 f.inst.2).pend ≠ 0) :
    exec (.cclose e n) s = .next s := by
  unfold Firing.inst at h
  show execCclose e n s = _
  simp only [execCclose, hf]
  rw [if_pos (h.imp_right .inl)]

theorem exec_cclose_closes (h1 : (getInst f.r.g f.inst.1 f.inst.2).state = 1) (h2 : (getInst f.r.g f.inst.1 f.inst.2).pend = 0)
    (hr : refsRoom s (bothPorts f.r f.q.l f.q.r) = true) {o : Op}
    (ho : ((f.r.g.conts[f.inst.1]?).bind fun c => f.r.g.ops[c.copen]?) = some o) : exec (.cclose e n) s =
      .next (releaseUnit (closedInst s f) (fresh s).1 (colKeyAt f.r.key o (getInst f.r.g f.inst.1 f.inst.2).key) (leftTok f).lid) := by
  unfold Firing.inst at h1 h2 ho
  show execCclose e n s = _
  simp only [execCclose, hf, h1, h2, hr, ho, ne_eq, not_true_eq_false, Bool.not_true, Bool.false_eq_true, or_self, if_false]
  rfl

end

/-- Poison of either token is copied into both emitted. -/
theorem bothPorts_eq (f : Firing) : bothPorts f.r f.q.l f.q.r =
    (f.q.l.map fun t => toPort f.r 0 { t with poison := (f.q.l.any (·.poison) || f.q.r.any (·.poison) : Bool) }).getD [] ++
      (f.q.r.map fun t => toPort f.r 1 { t with poison := (f.q.l.any (·.poison) || f.q.r.any (·.poison) : Bool) }).getD [] := by
  unfold bothPorts
  cases f.q.l <;> cases f.q.r <;> rfl

theorem openInst_firesLike (s : State) (f : Firing) (rec row : Nat) : FiresLike s (openInst s f rec row) :=
  Touches.firesLike (l := [.graphs]) ((holdLive_touches ..).after (by decide) ((modInst_touches ..).mono (by decide))) (by decide)
    ((SameIn.modInst _ _ _ _ _ fun _ _ => rfl).trans (modCol_sameIn _ _ _ fun _ _ => rfl))

/-- The graph of an opening has the containment written. -/
theorem getGraph_openInst {s : State} {f : Firing} {g : Graph} (rec row : Nat) (hg : getGraph s f.r.key = some g) :
    ∃ h, getGraph (openInst s f rec row) f.r.key = some h ∧ h.ops = g.ops ∧
      h.conts = (g.modInst rec row fun _ => openedInst s f rec).conts := by
  have h := modCol_sameIn (p := fun g : Graph => (g.ops, g.conts)) (modInst s f.r.key rec row fun _ => openedInst s f rec)
    (colKeyAt f.r.key f.r.op (leftTok f).tag) (fun c => { c with live := c.live + 1 }) (fun _ _ => rfl) f.r.key
  rw [getGraph_modInst, hg] at h
  obtain ⟨h', h1, h2⟩ := Option.map_eq_some_iff.1 h
  exact ⟨h', h1, congrArg Prod.fst h2, congrArg Prod.snd h2⟩

theorem getInst_congr {g h : Graph} (e : h.conts = g.conts) (a b : Nat) : getInst h a b = getInst g a b := by
  unfold getInst
  rw [e]

theorem Kept.fields {a b : Nat} {g h : Graph} (k : Kept a b g h) : (getInst h a b).state = (getInst g a b).state ∧
    (getInst h a b).key = (getInst g a b).key ∧ (getInst h a b).kl = (getInst g a b).kl ∧
      (getInst h a b).kr = (getInst g a b).kr := by
  rw [k.inst]
  exact ⟨rfl, rfl, rfl, rfl⟩

/-- A containment that is idle is not listed for any tag. -/
theorem count_idle {r : OpRef} {tag : Word} {a b : Nat} {c : Cont} (hc : r.g.conts[a]? = some c) (hn : (c.insts.map (·.1)).Nodup)
    (hs : (getInst r.g a b).state = 0) : (instancesOf r tag).count (a, b) = 0 := by
  rw [count_instancesOf hc hn]
  unfold getInst tget at hs
  rw [hc] at hs
  cases hf : tfind b c.insts with
  | none => rfl
  | some x =>
    have hx : x.state = 0 := by simpa [hf] using hs
    simp [hx]

/-- What the opening of a containment leaves. -/
theorem copen_opens {s : State} {e : Eng} {n : Nat} {f : Firing} (hf : firing s e n 0x0D = some f)
    (hg : getGraph s f.r.key = some f.r.g) (hlt : f.inst.1 < f.r.g.conts.length)
    (hs : (getInst f.r.g f.inst.1 f.inst.2).state = 0) (hr : refsRoom s (bothPorts f.r f.q.l f.q.r) = true)
    (hl : liveRoom s (colKeyAt f.r.key f.r.op (leftTok f).tag) = true) (he : Emits s f.r f.q.tag (bothPorts f.r f.q.l f.q.r)) :
    ∃ u, exec (.copen e n) s = .next u ∧ Fired s u f s.nextId (bothPorts f.r f.q.l f.q.r) ∧
      (∀ c, ColourIs s (colKeyAt f.r.key f.r.op (leftTok f).tag) c →
        ColourIs u (colKeyAt f.r.key f.r.op (leftTok f).tag) { c with live := c.live + 1 }) ∧
      ∃ g, getGraph u f.r.key = some g ∧ (getInst g f.inst.1 f.inst.2).state = 1 ∧
        (getInst g f.inst.1 f.inst.2).key = (leftTok f).tag ∧ (getInst g f.inst.1 f.inst.2).kl = f.q.l ∧
        (getInst g f.inst.1 f.inst.2).kr = f.q.r ∧
        ∀ c, f.r.g.conts[f.inst.1]? = some c → f.r.g.ops[c.copen]? = some f.r.op → (c.insts.map (·.1)).Nodup →
          (getInst g f.inst.1 f.inst.2).pend = memberToks s f.r f.inst.1 (leftTok f).tag +
            (bothPorts f.r f.q.l f.q.r).countP fun y =>
              (consumerOfTok s f.r y).any (fun o => c.members.contains o.i) && tagAgrees (leftTok f).tag y.tag (opDepth f.r.op) := by
  have hx := exec_copen_opens hf hs hr hl
  generalize f.inst = k at *
  have hu : FiresLike s (openInst s f k.1 k.2) := openInst_firesLike s f k.1 k.2
  have hb : FiresLike (openInst s f k.1 k.2) (fresh (openInst s f k.1 k.2)).2 :=
    (fresh_touches _).firesLike (by decide) ((fresh_touches _).sameIn (by decide))
  have hsf := hu.trans hb
  have hid : (fresh (openInst s f k.1 k.2)).1 = s.nextId :=
    Touches.same (l := [.graphs]) ((holdLive_touches ..).after (by decide) ((modInst_touches ..).mono (by decide))) .nextId (by decide)
  have he' : Emits (fresh (openInst s f k.1 k.2)).2 f.r f.q.tag (bothPorts f.r f.q.l f.q.r) := he.congr hsf.ops
  obtain ⟨g1, hg1, hops, hconts⟩ := getGraph_openInst k.1 k.2 hg
  have hg2 : getGraph (fresh (openInst s f k.1 k.2)).2 f.r.key = some g1 := ((fresh_touches _).getGraph (by decide) _).trans hg1
  have hlt1 : k.1 < g1.conts.length := by rw [hconts, Graph.modInst_length]; exact hlt
  have hi1 : getInst g1 k.1 k.2 = openedInst s f k.1 := (getInst_congr hconts _ _).trans (getInst_modInst _ _ _ hlt)
  obtain ⟨g3, hg3, k3⟩ := fire_kept (fresh (openInst s f k.1 k.2)).1 false (b := k.2) he' hg2 hlt1
  obtain ⟨f1, f2, f3, f4⟩ := k3.fields
  rw [hi1] at f1 f2 f3 f4
  refine ⟨_, hx, ?_, fun c hc => ?_, g3, hg3, f1, f2, f3, f4, fun c hc ho hn => ?_⟩
  · rw [← hid]
    exact hsf.fired (fire_spec _ false he')
  · refine (fire_sameIn (p := Graph.regions) _ f _ _ false fun _ _ => rfl).colourIs ?_
    refine ColourIs.touches ?_ (fresh_touches _) (by decide)
    exact ((SameIn.modInst (p := Graph.regions) s _ _ _ _ fun _ _ => rfl).colourIs hc).modCol _
  · have hop : Opened g1.ops c k.1 k.2 (leftTok f).tag g1 := by
      refine ⟨rfl, { c with insts := tmod {} k.2 (fun _ => openedInst s f k.1) c.insts }, openedInst s f k.1, ?_, rfl, rfl, nodup_tset hn,
        tfind_tset_same .., ?_, rfl⟩
      · rw [hconts]
        show (f.r.g.conts.modify k.1 _)[k.1]? = _
        rw [List.getElem?_modify_eq, hc]
        rfl
      · show (1 : Nat) ≠ 0
        decide
    obtain ⟨g4, hg4, hp⟩ := fire_pend (fresh (openInst s f k.1 k.2)).1 false he' hg2 (o := f.r.op) (by rw [hops]; exact ho) hop
      fun x _ => count_idle hc hn hs
    obtain rfl : g3 = g4 := Option.some_inj.1 (hg3.symm.trans hg4)
    rw [hp, hi1]
    congr 2
    funext y
    have hy := congrArg (fun w => Option.any (fun p : Nat × Op => c.members.contains p.1) w) (consumerOfTok_congr hsf.ops f.r y)
    rw [show (consumerOfTok (fresh (openInst s f k.1 k.2)).2 f.r y).any (fun o => c.members.contains o.i) =
      (consumerOfTok s f.r y).any fun o => c.members.contains o.i by simpa [Option.any_map] using hy]

/-- What the closing of a containment leaves. -/
theorem cclose_closes {s : State} {e : Eng} {n : Nat} {f : Firing} (hf : firing s e n 0x0E = some f)
    (hg : getGraph s f.r.key = some f.r.g) (hlt : f.inst.1 < f.r.g.conts.length) {o : Op}
    (ho : ((f.r.g.conts[f.inst.1]?).bind fun c => f.r.g.ops[c.copen]?) = some o)
    (h1 : (getInst f.r.g f.inst.1 f.inst.2).state = 1) (h2 : (getInst f.r.g f.inst.1 f.inst.2).pend = 0)
    (hr : refsRoom s (bothPorts f.r f.q.l f.q.r) = true) (he : Emits s f.r f.q.tag (bothPorts f.r f.q.l f.q.r)) :
    ∃ u, exec (.cclose e n) s = .next u ∧
      u.updates = s.updates ++ (bothPorts f.r f.q.l f.q.r).map (risesFor s f.r s.nextId) ++ f.toks.map (fallsFor f.r s.nextId) ++
        [{ firing := s.nextId, key := colKeyAt f.r.key o (getInst f.r.g f.inst.1 f.inst.2).key, inc := false, lid := (leftTok f).lid }] ∧
      u.threads = s.threads ∧ SameBytes s u ∧ ∃ g, getGraph u f.r.key = some g ∧ getInst g f.inst.1 f.inst.2 = {} := by
  have hb : FiresLike s (fresh s).2 := (fresh_touches s).firesLike (by decide) ((fresh_touches s).sameIn (by decide))
  have he' : Emits (fresh s).2 f.r f.q.tag (bothPorts f.r f.q.l f.q.r) := he.congr hb.ops
  let w := fire (fresh s).2 f (fresh s).1 (bothPorts f.r f.q.l f.q.r) true
  obtain ⟨u1, -, u3, u4⟩ : Fired s w f s.nextId _ := hb.fired (fire_spec _ true he')
  obtain ⟨g1, hg1, k1⟩ := fire_kept (fresh s).1 true (b := f.inst.2) he' (((fresh_touches s).getGraph (by decide) _).trans hg) hlt
  let w2 := retireKept (retireKept w (getInst f.r.g f.inst.1 f.inst.2).kl) (getInst f.r.g f.inst.1 f.inst.2).kr
  have hw2 : Touches [.retires] w w2 := (retireKept_touches ..).after (by decide) (retireKept_touches ..)
  have hc : Touches [.retires, .graphs] w (closedInst s f) := (modInst_touches w2 ..).after (by decide) (hw2.mono (by decide))
  have hr' : Touches [.updates] (closedInst s f) (releaseUnit (closedInst s f) (fresh s).1
      (colKeyAt f.r.key o (getInst f.r.g f.inst.1 f.inst.2).key) (leftTok f).lid) := releaseUnit_touches ..
  have hcu : (closedInst s f).updates = w.updates := hc.same .updates (by decide)
  have hct : (closedInst s f).threads = w.threads := hc.same .threads (by decide)
  refine ⟨_, exec_cclose_closes hf h1 h2 hr ho, ?_, Eq.trans (hr'.same .threads (by decide)) (hct.trans u3),
    u4.trans ((hc.sameBytes (by decide)).trans (hr'.sameBytes (by decide))), g1.modInst f.inst.1 f.inst.2 fun _ => {}, ?_,
    getInst_modInst _ _ _ (by rw [k1.length]; exact hlt)⟩
  · rw [← u1, ← hcu]
    rfl
  · rw [hr'.getGraph (by decide)]
    refine (getGraph_modInst w2 f.r.key _ _ _).trans ?_
    rw [hw2.getGraph (by decide), hg1]
    rfl

/-! ### A held containment -/

/-- No colour is held under none. -/
theorem heldUnder_nil (all : List (ColKey × Colour)) (n : Nat) : heldUnder all n [] = [] := by
  cases n with
  | zero => rfl
  | succ n =>
    unfold heldUnder
    extract_lets more
    have hm : more.isEmpty = true := by
      rw [List.isEmpty_iff]
      refine List.map_eq_nil_iff.2 (List.filter_eq_nil_iff.2 fun c _ hc => ?_)
      cases hh : c.2.hold <;> simp [hh] at hc
    rw [if_pos hm]

/-- A sweep that removes nothing. -/
theorem sweep_nothing {w : Sweep} (s : State) (hr : ∀ e q, w.row e q = false) (ht : ∀ t, w.tok t = false) :
    Touches [.engines, .wheels] s (sweep w s).1 := by
  have he : ∀ (v : State × Nat) e, Touches [.engines] v.1 (sweepEng w v e).1 := fun v e => by
    have h1 : (getEng v.1 e).rows.filter (w.row e) = [] := List.filter_eq_nil_iff.2 fun q _ => by rw [hr]; exact Bool.false_ne_true
    unfold sweepEng
    rw [h1]
    extract_lets r x ts keep s1
    have hts : ts = [] := by
      unfold ts
      rw [List.filter_eq_nil_iff.2 fun a _ => by rw [ht]; exact Bool.false_ne_true, List.filter_eq_nil_iff.2 fun a _ => by
        rw [ht]; exact Bool.false_ne_true, List.filter_eq_nil_iff.2 fun a _ => by rw [ht]; exact Bool.false_ne_true]
      rfl
    rw [hts]
    exact setEng_touches ..
  unfold sweep
  extract_lets r
  exact (sweepTimers_touches ..).after (by decide) ((Touches.foldl_fst he _ (s, 0)).mono (by decide))

theorem dropInsts_nothing (s : State) (key : Nat × Nat) (g : Graph) {hit : Op → Inst → Bool} (h : ∀ o x, hit o x = false) :
    dropInsts s key g hit = s := by
  unfold dropInsts
  have hi : ∀ (l : List (Nat × Inst)) (o : Op) (c : Nat) (u : State), l.foldl (fun s x => if x.2.state ≠ 0 ∧ hit o x.2 = true then
      modInst (retireKept (retireKept s x.2.kl) x.2.kr) key c x.1 fun _ => {} else s) u = u := fun l o c u => by
    induction l with
    | nil => rfl
    | cons x l ih => rw [List.foldl_cons, if_neg fun hc => Bool.false_ne_true ((h o x.2).symm.trans hc.2)]; exact ih
  induction g.conts.zipIdx with
  | nil => rfl
  | cons c l ih =>
    rw [List.foldl_cons]
    split
    · exact ih
    · rw [hi]; exact ih

/-- A purge of no colours. -/
theorem purgeCols_nil (s : State) (key : Nat × Nat) (g : Graph) (lid : Nat) :
    Touches [.engines, .wheels, .updates] s (purgeCols s key g [] lid).1 := by
  unfold purgeCols
  rw [heldUnder_nil]
  extract_lets cols r s1 s2 s3 holds
  have h1 : s1 = r.1 := dropInsts_nothing _ _ _ fun _ _ => rfl
  have hr : Touches [.engines, .wheels] s r.1 := by
    refine sweep_nothing s (fun e q => ?_) fun t => ?_
    · unfold colSweep
      dsimp only
      split <;> simp [cols]
    · unfold colSweep tokIn
      dsimp only
      split <;> simp [cols]
  have h2 : Touches [.engines, .wheels] s s2 := (dropEntries_touches s1 key g []).after (by decide) (h1 ▸ hr)
  exact Touches.trans (h2.mono (by decide)) (.put rfl)

section
variable {s : State} {pkg gr rec row : Nat} {g : Graph} {c : Cont} {o : Op} (hg : getGraph s (pkg, gr) = some g)
  (hc : g.conts[rec]? = some c) (ho : g.ops[c.copen]? = some o)
include hg hc ho

theorem exec_held_no (hs : (getInst g rec row).state ≠ 2) : exec (.containmentHeld pkg gr rec row) s = .next s := by
  show execContainmentHeld pkg gr rec row s = _
  simp only [execContainmentHeld, hg, hc, ho, Option.bind_some, hs, if_false, Option.getD_some, ne_eq, not_false_eq_true, true_or,
    if_true]

variable (hs : (getInst g rec row).state = 2) {h : Graph} (hw : getGraph (sweepInst s pkg gr rec row) (pkg, gr) = some h)
include hs hw

theorem exec_held_waits (hp : (getInst h rec row).pend ≠ 0) :
    exec (.containmentHeld pkg gr rec row) s = .next (sweepInst s pkg gr rec row) := by
  show execContainmentHeld pkg gr rec row s = _
  simp only [execContainmentHeld, hg, hc, ho, Option.bind_some, hs, if_true, hw, Option.getD_some, hp, ne_eq, not_false_eq_true, or_true]

/-- The swept state in which the containment is held. -/
def heldState (w : State) (pkg gr rec row : Nat) (h : Graph) : State :=
  modInst (purgeCols w (pkg, gr) h [] (getInst h rec row).lid).1 (pkg, gr) rec row fun i => { i with state := 3 }

omit hg hc ho hs hw in
theorem heldState_spec {w : State} (hw : getGraph w (pkg, gr) = some h) (hlt : rec < h.conts.length) :
    (heldState w pkg gr rec row h).reports = w.reports ∧ ∃ h', getGraph (heldState w pkg gr rec row h) (pkg, gr) = some h' ∧
      (getInst h' rec row).state = 3 := by
  have hp := purgeCols_nil w (pkg, gr) h (getInst h rec row).lid
  refine ⟨Eq.trans ((modInst_touches ..).same .reports (by decide)) (hp.same .reports (by decide)), h.modInst rec row fun i => { i with state := 3 },
    ?_, by rw [getInst_modInst _ _ _ hlt]⟩
  unfold heldState
  rw [getGraph_modInst, hp.getGraph (by decide), hw]
  rfl

theorem exec_held (hst : (getInst h rec row).state = 2) (hp : (getInst h rec row).pend = 0)
    (hb : ∀ y ∈ busyCols pkg gr h, y.2.hold ≠ some (colKeyAt (pkg, gr) o (getInst h rec row).key)) :
    exec (.containmentHeld pkg gr rec row) s = .next (raise (heldState (sweepInst s pkg gr rec row) pkg gr rec row h)
      { dest := reportTo (heldState (sweepInst s pkg gr rec row) pkg gr rec row h) pkg o.eng.die h.part (getInst h rec row).lid
        cause := 0x0207
        tval := BitVec.ofNat 64 (rec % 2 ^ 16 + (getInst h rec row).tries * 2 ^ 16)
        tinfo := (getInst h rec row).key
        tcoord := coordNat (getInst h rec row).bad
        lid := (getInst h rec row).lid
        src := o.eng }) := by
  have hk : ((busyCols pkg gr h).filter fun y => decide (y.2.hold = some (colKeyAt (pkg, gr) o (getInst h rec row).key)) &&
      memberDrew (sweepInst s pkg gr rec row) h c y.1) = [] :=
    List.filter_eq_nil_iff.2 fun y hy hc => hb y hy (of_decide_eq_true (Bool.and_eq_true_iff.1 hc).1)
  show execContainmentHeld pkg gr rec row s = _
  simp only [execContainmentHeld, hg, hc, ho, Option.bind_some, hs, if_true, hw, Option.getD_some, hst, hp, hk, ne_eq, not_true_eq_false,
    or_self, if_false, List.map_nil, heldUnder_nil, List.isEmpty_nil, Bool.not_true, Bool.false_and, Bool.false_eq_true]
  rfl

end

/-- Settles O35: copen_opens and cclose_closes say what an opening and a closing leave, exec_held_no, exec_held_waits and exec_held what
becomes of a containment that unwinds. -/
theorem containmentOperators : Obligations.ContainmentOperators := by
  intro s e n f
  extract_lets t v k x bad out
  have hout : bothPorts f.r f.q.l f.q.r = out := bothPorts_eq f
  clear_value out
  subst hout
  refine ⟨fun hf hg hlt => ⟨fun hs => ?_, fun hs hr hl he => copen_opens hf hg hlt hs hr hl he⟩, fun hf hg hlt =>
    ⟨fun h => exec_cclose_waits hf h, fun o ho h1 h2 hr he => cclose_closes hf hg hlt ho h1 h2 hr he⟩, fun pkg gr rec row g c o hg hc ho => ?_⟩
  · exact faultFire_spec (by rw [(firing_spec hf).2.1]; rfl) (exec_copen_fault hf hs)
  · refine ⟨exec_held_no hg hc ho, fun hs h hw hst => ⟨exec_held_waits hg hc ho hs hw, fun hp hb => ?_⟩⟩
    have hlt : rec < h.conts.length := by
      refine Nat.lt_of_not_le fun hle => ?_
      unfold getInst at hst
      rw [List.getElem?_eq_none hle] at hst
      exact absurd (show (0 : Nat) = 2 from hst) (by decide)
    obtain ⟨hr, h', h1, h2⟩ := heldState_spec (row := row) hw hlt
    exact ⟨_, exec_held hg hc ho hs hw hst hp hb, ⟨h', h1, h2⟩, _, congrArg (· ++ [_]) hr, rfl, rfl, rfl⟩

end Sys2Proof.Machine
end

section
/-!
PROOFS. Proofs/Rows.lean: the rows of an engine, and how a physical row comes to hold a virtual row (spec/01 R23 to R25).
-/
namespace Sys2Proof.Machine

/-! ### The rows of an engine -/

/-- The row that a list of rows holds for a slot and a virtual row. -/
theorem findRow_congr {x y : Engine} (h : y.rows = x.rows) (slot vrow : Nat) : findRow y slot vrow = findRow x slot vrow := by
  unfold findRow
  rw [h]

theorem findRow_spec {x : Engine} {slot vrow : Nat} {q : Row} (h : findRow x slot vrow = some q) :
    q.slot = slot ∧ q.vrow = vrow := by
  unfold findRow at h
  simpa using List.find?_some h

theorem findRow_filter_other {x : Engine} {a b slot vrow : Nat} (h : ¬(slot = a ∧ vrow = b)) :
    findRow { x with rows := x.rows.filter fun q => !(decide (q.slot = a) && decide (q.vrow = b)) } slot vrow =
      findRow x slot vrow := by
  unfold findRow
  rw [List.find?_filter]
  congr 1
  funext q
  by_cases hq : q.slot = slot ∧ q.vrow = vrow
  · obtain ⟨rfl, rfl⟩ := hq
    have hn : ¬(q.slot = a ∧ q.vrow = b) := h
    simpa [imp_iff_not_or] using hn
  · simp [hq]

theorem findRow_append (x : Engine) (l : List Row) (slot vrow : Nat) :
    findRow { x with rows := x.rows ++ l } slot vrow =
      (findRow x slot vrow).or (l.find? fun q => q.slot = slot ∧ q.vrow = vrow) := by
  unfold findRow
  exact List.find?_append

/-- Writing a row leaves every other row. -/
theorem findRow_putRow_other {x : Engine} {r : Row} {slot vrow : Nat} (h : ¬(slot = r.slot ∧ vrow = r.vrow)) :
    findRow (putRow x r) slot vrow = findRow x slot vrow := by
  have hf := findRow_filter_other (x := x) h
  unfold putRow
  extract_lets rest
  split
  · exact hf
  · have ha := findRow_append { x with rows := rest } [r] slot vrow
    have hn : ([r].find? fun q => q.slot = slot ∧ q.vrow = vrow) = none := by
      rw [List.find?_singleton]
      refine if_neg fun hc => h ?_
      obtain ⟨h1, h2⟩ := of_decide_eq_true hc
      exact ⟨h1.symm, h2.symm⟩
    rw [hn, Option.or_none] at ha
    exact ha.trans hf

/-- A row that holds something is found where it was written; an empty one is gone. -/
theorem findRow_putRow (x : Engine) (r : Row) :
    findRow (putRow x r) r.slot r.vrow = if (rowToks r).isEmpty && r.trig.isNone then none else some r := by
  have hnone : findRow { x with rows := x.rows.filter fun q => !(decide (q.slot = r.slot) && decide (q.vrow = r.vrow)) } r.slot
      r.vrow = none := by
    unfold findRow
    rw [List.find?_eq_none]
    intro q hq hc
    have h := of_decide_eq_true hc
    have hp := (List.mem_filter.1 hq).2
    simp [h.1, h.2] at hp
  unfold putRow
  extract_lets rest
  split
  · exact hnone
  · have ha := findRow_append { x with rows := rest } [r] r.slot r.vrow
    rw [hnone, Option.none_or] at ha
    refine ha.trans ?_
    rw [List.find?_singleton]
    exact if_pos (by simp)

theorem findRow_dropRow (x : Engine) (slot vrow : Nat) : findRow (dropRow x slot vrow) slot vrow = none := by
  unfold findRow dropRow
  rw [List.find?_eq_none]
  intro q hq hc
  have h := of_decide_eq_true hc
  have hp := (List.mem_filter.1 hq).2
  simp [h.1, h.2] at hp

/-! ### Changes that keep the rows -/

/-- A row but for the hold of a stop entry (R391). -/
def Row.unheld (q : Row) : Row := { q with stopHeld := false }

/-- Every row is as it was, but for holds of stop entries. -/
structure RowsKept (s t : State) : Prop where
  rows : ∀ e slot vrow, (findRow (getEng t e) slot vrow).map Row.unheld = (findRow (getEng s e) slot vrow).map Row.unheld

theorem RowsKept.refl {s : State} : RowsKept s s := ⟨fun _ _ _ => rfl⟩

theorem RowsKept.trans {s t u : State} (h : RowsKept s t) (k : RowsKept t u) : RowsKept s u :=
  ⟨fun e slot vrow => (k.rows e slot vrow).trans (h.rows e slot vrow)⟩

theorem Touches.rowsKept {l : List Field} {s t : State} (h : Touches l s t) (hl : l.contains .engines = false) :
    RowsKept s t := ⟨fun e _ _ => by rw [h.getEng hl e]⟩

theorem RowsKept.foldl {α : Type} {f : State → α → State} (h : ∀ u a, RowsKept u (f u a)) :
    ∀ (as : List α) (s : State), RowsKept s (as.foldl f s)
  | [], _ => .refl
  | a :: as, s => (h s a).trans (foldl h as (f s a))

/-- A stop entry marks the row that it holds. -/
theorem RowsKept.mark (s : State) (e : Eng) {f : Row → Row} (hk : ∀ q, (f q).slot = q.slot ∧ (f q).vrow = q.vrow)
    (hf : ∀ q, (f q).unheld = q.unheld) :
    RowsKept s (modEng s e fun x : Engine => { x with rows := x.rows.map f }) := by
  refine ⟨fun k slot vrow => ?_⟩
  by_cases h : k = e
  · subst h
    rw [getEng_modEng]
    unfold findRow
    rw [List.find?_map]
    have e1 : ((fun q : Row => decide (q.slot = slot ∧ q.vrow = vrow)) ∘ f) =
        fun q => decide (q.slot = slot ∧ q.vrow = vrow) := by
      funext q
      obtain ⟨h1, h2⟩ := hk q
      simp only [Function.comp_apply, h1, h2]
    rw [e1, Option.map_map]
    congr 1
    exact funext hf
  · rw [getEng_modEng_other _ _ h]

theorem stopEntry_rowsKept (r : OpRef) (t : Token) (vrow : Nat) (s : State) (k : Nat) :
    RowsKept s (stopEntry r t vrow s k) := by
  unfold stopEntry
  extract_lets key v n w s1 c s2
  split
  · exact .refl
  · split
    · exact (setStop_touches ..).rowsKept (by decide)
    · have h1 : RowsKept s s1 := (setStop_touches ..).rowsKept (by decide)
      split
      · exact h1.trans ((stageTrace_touches ..).rowsKept (by decide))
      · have h2 : RowsKept s1 s2 := by
          refine .mark s1 r.op.eng (fun q => ?_) fun q => ?_
          · split <;> exact ⟨rfl, rfl⟩
          · split <;> rfl
        exact (h1.trans h2).trans (.trans ((modGraph_touches ..).rowsKept (by decide)) ((raiseTok_touches ..).rowsKept (by decide)))

theorem applyStops_rowsKept (s : State) (r : OpRef) (t : Token) (vrow : Nat) : RowsKept s (applyStops s r t vrow) :=
  .foldl (fun _ _ => stopEntry_rowsKept ..) _ _

/-- A token that no stop entry matches leaves the stop table and all else. -/
theorem applyStops_none {s : State} {r : OpRef} {t : Token} (vrow : Nat)
    (h : ∀ k, k < 64 → stopMatches (getStop s (r.key.1, k)) r t = false) : applyStops s r t vrow = s := by
  unfold applyStops
  have hl : ∀ l : List Nat, (∀ k ∈ l, k < 64) → l.foldl (stopEntry r t vrow) s = s := fun l => by
    induction l with
    | nil => exact fun _ => rfl
    | cons k l ih =>
      intro hk
      have e : stopEntry r t vrow s k = s := by
        unfold stopEntry
        exact if_pos (by rw [h k (hk k List.mem_cons_self)]; rfl)
      rw [List.foldl_cons, e]
      exact ih fun j hj => hk j (List.mem_cons_of_mem _ hj)
  exact hl _ fun k hk => List.mem_range.1 hk

/-! ### Room in a physical row -/

/-- Every engine has the rows that it had. -/
structure SameRows (s t : State) : Prop where
  rows : ∀ e, (getEng t e).rows = (getEng s e).rows

theorem SameRows.trans {s t u : State} (h : SameRows s t) (k : SameRows t u) : SameRows s u :=
  ⟨fun e => (k.rows e).trans (h.rows e)⟩

theorem Touches.sameRows {l : List Field} {s t : State} (h : Touches l s t) (hl : l.contains .engines = false) : SameRows s t :=
  ⟨fun e => by rw [h.getEng hl e]⟩

theorem SameRows.setEng {s : State} {e : Eng} {x : Engine} (h : x.rows = (getEng s e).rows) : SameRows s (setEng s e x) :=
  ⟨fun k => by
    by_cases hk : k = e
    · subst hk; rw [getEng_setEng, h]
    · rw [getEng_setEng_other _ _ hk]⟩

theorem SameRows.findRow {s t : State} (h : SameRows s t) (e : Eng) (slot vrow : Nat) :
    findRow (getEng t e) slot vrow = findRow (getEng s e) slot vrow := findRow_congr (h.rows e) slot vrow

theorem modSlot_sameRows (s : State) (e : Eng) (slot : Nat) (f : SlotDyn → SlotDyn) : SameRows s (modSlot s e slot f) :=
  .setEng rfl

theorem unback_sameRows (s : State) (e : Eng) (vrow : Nat) : SameRows s (unback s e vrow) := by
  unfold unback
  extract_lets x
  split
  · exact ⟨fun _ => rfl⟩
  · next b _ =>
    extract_lets b' s1
    have h1 : SameRows s s1 := .setEng rfl
    split
    · exact h1.trans (.trans ((uncharge_touches ..).sameRows (by decide)) ((modPool_touches ..).sameRows (by decide)))
    · exact .setEng rfl

theorem countFiring_sameRows (s : State) (r : OpRef) (tag : Word) (lid wait : Nat) : SameRows s (countFiring s r tag lid wait) := by
  unfold countFiring
  extract_lets s1
  have h1 : SameRows s s1 := modSlot_sameRows ..
  split
  · exact h1.trans ((stageTrace_touches ..).sameRows (by decide))
  · exact h1

theorem findRow_clearRow (s : State) (e : Eng) (slot vrow : Nat) :
    findRow (getEng (clearRow s e slot vrow) e) slot vrow = none := by
  unfold clearRow
  rw [getEng_modEng]
  exact findRow_dropRow ..

/-- A row that comes back from backing is found where it was, unless it holds nothing. -/
theorem findRow_refillRow (s : State) (e : Eng) (q : Row) :
    findRow (getEng (refillRow s e q) e) q.slot q.vrow =
      if (rowToks q).isEmpty && q.trig.isNone then none else some { q with backed := false } := by
  unfold refillRow
  extract_lets s1 s2
  have h2 : findRow (getEng s2 e) q.slot q.vrow =
      if (rowToks q).isEmpty && q.trig.isNone then none else some { q with backed := false } := by
    rw [(modSlot_sameRows s1 e q.slot _).findRow]
    unfold s1
    rw [getEng_modEng]
    exact (findRow_congr rfl _ _).trans (findRow_putRow _ { q with backed := false })
  clear_value s2
  split
  · split
    · rw [(stageTrace_touches ..).getEng (by decide)]; exact h2
    · exact h2
  · exact h2

/-- A spill of another row leaves a row. -/
theorem findRow_spillRow {s v : State} {e : Eng} {o : Row} {slot vrow : Nat} (h : spillRow s e o = .ok v)
    (hn : ¬(slot = o.slot ∧ vrow = o.vrow)) : findRow (getEng v e) slot vrow = findRow (getEng s e) slot vrow := by
  unfold spillRow at h
  extract_lets x t into p s1 at h
  have hinto : ∀ u bs, getEng u e = getEng s e → findRow (getEng (into u bs) e) slot vrow = findRow (getEng s e) slot vrow :=
    fun u bs hu => by
    unfold into
    extract_lets s1 s2
    have h2 : findRow (getEng s2 e) slot vrow = findRow (getEng s e) slot vrow := by
      rw [(modSlot_sameRows s1 e o.slot _).findRow]
      unfold s1
      rw [getEng_modEng, hu]
      exact (findRow_congr rfl _ _).trans (findRow_putRow_other (r := { o with backed := true }) hn)
    clear_value s2
    split
    · split
      · rw [(stageTrace_touches ..).getEng (by decide)]; exact h2
      · exact h2
    · exact h2
  clear_value into
  split at h
  · cases h; exact hinto s _ rfl
  · split at h
    · cases h
    · split at h
      · cases h
      · cases h
        refine hinto s1 _ ?_
        exact Touches.getEng (l := [.partitions, .quotas]) ((modPool_touches ..).after (by decide) ((charge_touches ..).mono (by decide)))
          (by decide) e

/-- A row that holds something is there once its physical row holds it. -/
theorem findRow_makeRoom {s v : State} {e : Eng} {slot vrow : Nat} (h : makeRoom s e slot vrow = .ok v) :
    (findRow (getEng s e) slot vrow = none → findRow (getEng v e) slot vrow = none) ∧
      ∀ q, findRow (getEng s e) slot vrow = some q → ((rowToks q).isEmpty && q.trig.isNone) = false →
        ∃ b, findRow (getEng v e) slot vrow = some { q with backed := b } := by
  unfold makeRoom at h
  extract_lets refill at h
  have hrefill : ∀ u, findRow (getEng u e) slot vrow = findRow (getEng s e) slot vrow →
      (findRow (getEng s e) slot vrow = none → findRow (getEng (refill u) e) slot vrow = none) ∧
      ∀ q, findRow (getEng s e) slot vrow = some q → ((rowToks q).isEmpty && q.trig.isNone) = false →
        ∃ b, findRow (getEng (refill u) e) slot vrow = some { q with backed := b } := fun u hu => by
    refine ⟨fun hn => ?_, fun q hq hne => ?_⟩
    · unfold refill
      rw [hu, hn]
      exact hu.trans hn
    · unfold refill
      rw [hu, hq]
      dsimp only
      split
      · have hr := findRow_refillRow u e q
        rw [hne, if_neg Bool.false_ne_true] at hr
        refine ⟨false, Eq.trans ?_ hr⟩
        rw [(findRow_spec hq).1, (findRow_spec hq).2]
      · exact ⟨q.backed, hu.trans hq⟩
  split at h
  · cases h; exact hrefill s rfl
  · next o ho =>
    split at h
    · next u hu =>
      cases h
      refine hrefill u (findRow_spillRow hu fun hc => ?_)
      have := List.find?_some ho
      simp only [Bool.and_eq_true, decide_eq_true_eq] at this
      exact this.2 hc.2.symm
    · next hx => exact absurd h (hx v)

end Sys2Proof.Machine
end

section
/-!
PROOFS. Proofs/Timers.lean: TIMER and TRIGGER, and the entries of a die's wheel (spec/05 R128, R129, R136; spec/12 R288).
-/
namespace Sys2Proof.Machine

/-! ### Wheels -/

theorem Touches.getWheel {l : List Field} {s t : State} (h : Touches l s t) (hl : l.contains .wheels = false) (k : Nat × Nat) :
    getWheel t k = getWheel s k := by
  have e : t.wheels = s.wheels := h.same .wheels (by simpa using hl)
  unfold Machine.getWheel
  rw [e]

theorem Touches.getPkg {l : List Field} {s t : State} (h : Touches l s t) (hl : l.contains .packages = false) (k : Nat) :
    getPkg t k = getPkg s k := by
  have e : t.packages = s.packages := h.same .packages (by simpa using hl)
  unfold Machine.getPkg
  rw [e]

theorem getWheel_modWheel (s : State) (k : Nat × Nat) (f : Wheel → Wheel) : getWheel (modWheel s k f) k = f (getWheel s k) :=
  tget_tset_same ..

/-- An entry comes last in its wheel. -/
theorem addTimer_ents (s : State) (pkg die due : Nat) (handle : Option Nat) (w : TimerWhat) :
    ∃ x, (getWheel (addTimer s pkg die due handle w) (pkg, die)).ents = (getWheel s (pkg, die)).ents ++ [x] ∧ x.due = due ∧
      x.bound = boundOf (getPkg s pkg).time due ∧ x.what = w ∧ x.fire = false :=
  ⟨_, congrArg Wheel.ents (getWheel_modWheel ..), rfl, rfl, rfl, rfl⟩

theorem dropEnt_ents (s : State) (pkg die : Nat) (t : TimerEnt) : (getWheel (dropEnt s pkg die t) (pkg, die)).ents =
    (getWheel s (pkg, die)).ents.filter fun u => decide (u.order ≠ t.order) := congrArg Wheel.ents (getWheel_modWheel ..)

/-! ### TIMER -/

/-- When a TIMER's token is due. -/
def timerDue (f : Firing) : Nat :=
  if bit (opCfg f.r.op 0) 0 then min (f.q.dtime + (leftTok f).opw.toNat % 2 ^ 64) (2 ^ 64 - 1) else (leftTok f).opw.toNat % 2 ^ 64

theorem tokScalar_eq (t : Token) : tokScalar t = t.opw.toNat % 2 ^ 64 := by
  unfold tokScalar bits
  rw [Nat.pow_zero, Nat.div_one]

theorem exec_timer {s : State} {e : Eng} {n : Nat} {f : Firing} (hf : firing s e n 0x0F = some f) : exec (.timer e n) s =
    .next (addTimer (touch (leaveFlow (countFiring s f.r f.q.tag f.q.lid 0) f) e.pkg (leftTok f).lid) e.pkg e.die (timerDue f) none
      (.timer e (leftTok f))) := by
  show execTimer e n s = _
  simp only [execTimer, hf, tokScalar_eq]
  rfl

theorem timer_enters {s : State} {e : Eng} {n : Nat} {f : Firing} (hf : firing s e n 0x0F = some f) :
    ∃ u, exec (.timer e n) s = .next u ∧ u.updates = s.updates ∧ u.threads = s.threads ∧ SameBytes s u ∧
      (getEng u e).flow = (getEng s e).flow.erase f.act ∧
      ∃ x, (getWheel u (e.pkg, e.die)).ents = (getWheel s (e.pkg, e.die)).ents ++ [x] ∧ x.due = timerDue f ∧
        x.bound = boundOf (getPkg s e.pkg).time (timerDue f) ∧ x.what = .timer e (leftTok f) ∧ x.fire = false := by
  let s1 := countFiring s f.r f.q.tag f.q.lid 0
  let s3 := touch (leaveFlow s1 f) e.pkg (leftTok f).lid
  have h1 : Touches [.engines, .traces] s s1 := countFiring_touches ..
  have hl := leaveFlow_touches s1 f
  have ht := touch_touches (leaveFlow s1 f) e.pkg (leftTok f).lid
  have h3 := ht.after (by decide) (hl.after (by decide) (h1.mono (m := [.engines, .allocWait, .launches, .tiles, .chans, .partitions,
    .quotas, .reports, .traces, .nextId]) (by decide)))
  have ha := addTimer_touches s3 e.pkg e.die (timerDue f) none (.timer e (leftTok f))
  obtain ⟨x, hx, hd, hb, hw, hfi⟩ := addTimer_ents s3 e.pkg e.die (timerDue f) none (.timer e (leftTok f))
  refine ⟨_, exec_timer hf, Eq.trans (ha.same .updates (by decide)) (h3.same .updates (by decide)),
    Eq.trans (ha.same .threads (by decide)) (h3.same .threads (by decide)), (h3.sameBytes (by decide)).trans (ha.sameBytes (by decide)), ?_,
    x, hx.trans (by rw [h3.getWheel (by decide)]), hd, hb.trans (by rw [h3.getPkg (by decide)]), hw, hfi⟩
  rw [ha.getEng (by decide), ht.getEng (by decide), ← (firing_spec hf).1, (leaveFlow_eng s1 f).1,
    (countFiring_engRest s f.r f.q.tag f.q.lid 0).flow]

theorem exec_timerExpiry {s : State} {pkg die n : Nat} {x : TimerEnt} {e : Eng} {t : Token} {r : OpRef}
    (hd : dueEnt s pkg die n = some x) (hw : x.what = .timer e t) (hr : findOp s e t.dst.slot = some r) :
    exec (.timerExpiry pkg die n) s = .next (consumeToks (emitToks (fresh (dropEnt s pkg die x)).2 r (fresh (dropEnt s pkg die x)).1 t.tag
      (toPort r 0 { t with kind := 3, opw := 0, residue := 0 })) r (fresh (dropEnt s pkg die x)).1 true [t]) := by
  show execTimerExpiry pkg die n s = _
  simp only [execTimerExpiry, hd, hw, hr]

/-- A due entry emits, its token is consumed and the entry leaves. -/
theorem timer_expires {s : State} {pkg die n : Nat} {x : TimerEnt} {e : Eng} {t : Token} {r : OpRef}
    (hd : dueEnt s pkg die n = some x) (hw : x.what = .timer e t) (hr : findOp s e t.dst.slot = some r)
    (he : Emits s r t.tag (toPort r 0 { t with kind := 3, opw := 0, residue := 0 })) :
    ∃ u, exec (.timerExpiry pkg die n) s = .next u ∧
      u.updates = s.updates ++ (toPort r 0 { t with kind := 3, opw := 0, residue := 0 }).map (risesFor s r s.nextId) ++
        [fallsFor r s.nextId t] ∧
      (getWheel u (pkg, die)).ents = (getWheel s (pkg, die)).ents.filter (fun y => decide (y.order ≠ x.order)) ∧
      u.threads = s.threads ∧ SameBytes s u := by
  let s1 := (fresh (dropEnt s pkg die x)).2
  let s2 := emitToks s1 r (fresh (dropEnt s pkg die x)).1 t.tag (toPort r 0 { t with kind := 3, opw := 0, residue := 0 })
  have hdr := dropEnt_touches s pkg die x
  have hfr := fresh_touches (dropEnt s pkg die x)
  have h1 : Touches [.wheels, .nextId] s s1 := hfr.after (by decide) (hdr.mono (by decide))
  have hid : (fresh (dropEnt s pkg die x)).1 = s.nextId := hdr.same .nextId (by decide)
  have ho : SameIn Graph.ops s s1 := h1.sameIn (by decide)
  have h2 : Touches [.inFlight, .updates, .graphs, .tiles] s1 s2 := emitToks_touches ..
  have h3 := consumeToks_touches s2 r (fresh (dropEnt s pkg die x)).1 true [t]
  have h := h3.after (by decide) (h2.after (by decide) (h1.mono (m := [.wheels, .nextId, .inFlight, .updates, .graphs, .tiles, .launches, .retires]) (by decide)))
  refine ⟨_, exec_timerExpiry hd hw hr, ?_, ?_, h.same .threads (by decide), h.sameBytes (by decide)⟩
  · rw [consumeToks_updates, emitToks_updates _ _ (he.congr ho), risesFor_congr ho, hid]
    rw [show s1.updates = s.updates from h1.same .updates (by decide)]
    rfl
  · rw [h3.getWheel (by decide), h2.getWheel (by decide), hfr.getWheel (by decide)]
    exact dropEnt_ents ..

/-! ### TRIGGER -/

/-- What a TRIGGER emits. -/
def trigOut (r : OpRef) (x : Trig) (t : Token) : List Token :=
  let c := x.counters.getD 0 0 + x.counters.getD 1 0 * 2 ^ 32
  toPort r 0 (if bit (opCfg r.op 0) 180 then { t with kind := 2, opw := BitVec.ofNat 128 c, residue := residueOf (leBytes 8 c) }
    else { t with kind := 3, opw := 0, residue := 0 })

/-- The state of a TRIGGER that fires: its emissions, its row cleared, its deadlines gone. -/
def trigFires (s : State) (r : OpRef) (vrow : Nat) (q : Row) (x : Trig) : State :=
  let s1 := emitToks (countFiring (fresh s).2 r q.tag q.lid 0) r (fresh s).1 q.tag (trigOut r x (q.l.getD {}))
  releaseUnit (modWheel (clearRow s1 r.op.eng r.op.slot vrow) (r.op.eng.pkg, r.op.eng.die) fun w =>
    { w with ents := w.ents.filter fun u => decide (u.what ≠ .trigger r.op.eng r.op.slot vrow) }) (fresh s).1
      (colKeyAt r.key r.op q.tag) q.lid

section
variable {s : State} {r : OpRef} {vrow : Nat} {q : Row} {x : Trig} (hq : findRow (getEng s r.op.eng) r.op.slot vrow = some q)
  (hx : q.trig = some x)
include hq hx

theorem evalTrigger_stays (h : q.stopHeld = true ∨ trigHolds (opCfg r.op 0) x (getPkg s r.op.eng.pkg).time = false) :
    evalTrigger s r vrow = s := by
  unfold evalTrigger
  simp only [hq, hx]
  exact if_pos (h.imp_right fun h => by rw [h]; rfl)

theorem evalTrigger_fires (hs : q.stopHeld = false) (h : trigHolds (opCfg r.op 0) x (getPkg s r.op.eng.pkg).time = true) :
    evalTrigger s r vrow = trigFires s r vrow q x := by
  unfold evalTrigger trigFires trigOut
  simp only [hq, hx, hs, h, Bool.not_true, Bool.false_eq_true, or_self, if_false, List.getD_eq_getElem?_getD]

end

/-- What a TRIGGER that fires leaves. -/
theorem trigFires_spec {s : State} {r : OpRef} {q : Row} {x : Trig} (vrow : Nat)
    (he : Emits s r q.tag (trigOut r x (q.l.getD {}))) :
    (trigFires s r vrow q x).updates = s.updates ++ (trigOut r x (q.l.getD {})).map (risesFor s r s.nextId) ++
        [{ firing := s.nextId, key := colKeyAt r.key r.op q.tag, inc := false, lid := q.lid }] ∧
      findRow (getEng (trigFires s r vrow q x) r.op.eng) r.op.slot vrow = none ∧
      Touches [.engines, .inFlight, .updates, .graphs, .tiles, .partitions, .quotas, .wheels, .traces, .nextId] s
        (trigFires s r vrow q x) := by
  unfold trigFires
  extract_lets s1
  let s0 := countFiring (fresh s).2 r q.tag q.lid 0
  have h0 : Touches [.nextId, .engines, .traces] s s0 := (countFiring_touches ..).after (by decide) ((fresh_touches s).mono (by decide))
  have ho : SameIn Graph.ops s s0 := h0.sameIn (by decide)
  have h1 : Touches [.inFlight, .updates, .graphs, .tiles] s0 s1 := emitToks_touches ..
  have h2 := clearRow_touches s1 r.op.eng r.op.slot vrow
  refine ⟨?_, ?_, ?_⟩
  · have hu1 : s1.updates = s.updates ++ (trigOut r x (q.l.getD {})).map (risesFor s r s.nextId) := by
      rw [← risesFor_congr ho, ← show s0.updates = s.updates from h0.same .updates (by decide)]
      exact emitToks_updates (fresh s).1 _ (he.congr ho)
    rw [← hu1]
    refine congrArg (· ++ _) (Eq.trans ((modWheel_touches ..).same .updates (by decide)) (h2.same .updates (by decide)))
  · rw [(releaseUnit_touches ..).getEng (by decide), (modWheel_touches ..).getEng (by decide)]
    exact findRow_clearRow ..
  · refine (releaseUnit_touches ..).after (by decide) ((modWheel_touches ..).after (by decide) (h2.after (by decide) (h1.after (by decide)
      (h0.mono (by decide)))))

/-! ### An arrival at a TRIGGER -/

/-- A TRIGGER's row with an arrival counted. -/
def Row.counting (q : Row) (t : Token) : Row :=
  { q with trig := q.trig.map (countArrival · t), l := q.l.map (fun u => { u with poison := u.poison || t.poison }) }

/-- The state in which the row has counted an arrival. -/
def rowCounts (s : State) (r : OpRef) (q : Row) (t : Token) : State := modEng s r.op.eng fun x => putRow x (q.counting t)

/-- The state in which the arrival has been consumed and the stop table has seen it. -/
def trigConsumes (s : State) (r : OpRef) (q : Row) (t : Token) (vrow : Nat) : State :=
  applyStops (consumeTok r (fresh (rowCounts s r q t)).1 true (fresh (rowCounts s r q t)).2 t) r t vrow

/-- The row of the first arrival of a round. -/
def armedRow (r : OpRef) (t : Token) (vrow : Nat) (deadline : Option Nat) : Row :=
  { vrow := vrow, slot := r.op.slot, lid := t.lid, tag := t.tag, l := some t, trig := some { deadline := deadline } }

/-- The deadline of a round that starts now. -/
def roundDeadline (r : OpRef) (now : Nat) : Option Nat :=
  if bits (opCfg r.op 0) 159 128 = 0 then none else some (now + bits (opCfg r.op 0) 159 128)

/-- The state in which a round starts: its row holds a unit of live, and its deadline is entered. -/
def roundStarts (s : State) (r : OpRef) (t : Token) (vrow : Nat) : State :=
  match roundDeadline r (getPkg s r.op.eng.pkg).time with
  | some d => addTimer (holdLive s (colKeyAt r.key r.op t.tag)) r.op.eng.pkg r.op.eng.die d none (.trigger r.op.eng r.op.slot vrow)
  | none => holdLive s (colKeyAt r.key r.op t.tag)

section
variable {s v : State} {r : OpRef} {t : Token} (hu : unwindDiscards r t = false) (hk : kindOk r.op t.dst.pos t.kind = true)
  (hm : makeRoom s r.op.eng r.op.slot (vrowOf r.op t.tag) = .ok v)
include hu hk hm

theorem meetTrigger_again {q : Row} (hq : findRow (getEng v r.op.eng) r.op.slot (vrowOf r.op t.tag) = some q) :
    meetTrigger s r t = .inl (evalTrigger (trigConsumes v r q t (vrowOf r.op t.tag)) r (vrowOf r.op t.tag)) := by
  unfold meetTrigger
  simp only [hu, hk, hm, hq, Bool.not_true, Bool.false_eq_true, if_false]
  rfl

theorem meetTrigger_first (hq : findRow (getEng v r.op.eng) r.op.slot (vrowOf r.op t.tag) = none) :
    meetTrigger s r t = .inl (evalTrigger (trigConsumes (roundStarts v r t (vrowOf r.op t.tag)) r
      (armedRow r t (vrowOf r.op t.tag) (roundDeadline r (getPkg v r.op.eng.pkg).time)) t (vrowOf r.op t.tag)) r (vrowOf r.op t.tag)) := by
  unfold meetTrigger
  simp only [hu, hk, hm, hq, Bool.not_true, Bool.false_eq_true, if_false]
  rfl

end

/-- The arrival of a token that has come to its row, with none before it. -/
theorem arrive_meets {s u : State} {e : Eng} {n : Nat} {t0 : Token} {r : OpRef} {trig : Bool} (hn : s.inFlight[n]? = some t0)
    (hp : ∀ u ∈ s.inFlight.take n, samePair (walked t0) u = false) (hi : (getEng s e).ingress = [])
    (hc : mustCross (walked t0) = false) (hg : crossGrants s (tokFrom (walked t0)) e (walked t0).part = true)
    (he : (walked t0).dst.eng = e) (hgate : gate s e (walked t0) = .row r s) (hk : decide (opKind r.op = 0x0B) = trig)
    (hr : arrivalRoom s r (walked t0) = true) (hm : meet s r (walked t0) = .inl u) :
    arrive trig e n s = { u with inFlight := u.inFlight.eraseIdx n } := by
  have h1 : (s.inFlight.take n).any (samePair (walked t0)) = false := List.any_eq_false.2 fun x hx => by rw [hp x hx]; decide
  have h2 : goesFirst s e (walked t0) (unpinned (getEng s e)) = false := by
    unfold goesFirst unpinned
    rw [hi, List.drop_nil]
    rfl
  unfold arrive
  rw [hn]
  show arriveFlight trig s e n t0 = _
  simp only [arriveFlight, h1, h2, hc, he, hg, hgate, hk, hr, hi, hm, Bool.not_true, Bool.false_eq_true, or_self, if_false, ne_eq,
    not_true_eq_false, List.isEmpty_nil, and_false]

theorem countArrival_eq (x : Trig) (t : Token) : countArrival x t =
    let k := if t.kind = 2 then t.opw.toNat / 2 ^ 32 % 4 else 0
    let m := if t.kind = 2 then t.opw.toNat % 2 ^ 32 else 1
    { x with counters := x.counters.modify k fun c => min (c + m) (2 ^ 32 - 1) } := by
  unfold countArrival lmod
  have h1 : bits (tokScalar t) 33 32 = t.opw.toNat / 2 ^ 32 % 4 := by
    rw [tokScalar_eq]
    unfold bits
    omega
  have h2 : bits (tokScalar t) 31 0 = t.opw.toNat % 2 ^ 32 := by
    rw [tokScalar_eq]
    unfold bits
    omega
  simp only [h1, h2]
  rfl

/-- What consuming an arrival leaves: its decrement, and the row as it has counted it but for the hold of a stop entry. -/
theorem trigConsumes_spec (s : State) {r : OpRef} {q : Row} {x : Trig} (t : Token) (hs : q.slot = r.op.slot)
    (hx : q.trig = some x) : let u := trigConsumes s r q t q.vrow
    u.updates = s.updates ++ [fallsFor r s.nextId t] ∧
      (∃ w, findRow (getEng u r.op.eng) r.op.slot q.vrow = some w ∧ w.trig = some (countArrival x t)) ∧
      SameIn Graph.regions s u ∧
      Touches [.updates, .launches, .retires, .nextId, .engines, .graphs, .reports, .stops, .traces] s u := by
  let s1 := rowCounts s r q t
  let s2 := consumeTok r (fresh s1).1 true (fresh s1).2 t
  have h1 : Touches [.engines] s s1 := modEng_touches ..
  have hf := fresh_touches s1
  have h2 : Touches [.updates, .graphs, .launches, .retires] (fresh s1).2 s2 := consumeTok_touches ..
  have h3 := applyStops_touches s2 r t q.vrow
  have hrow : findRow (getEng s1 r.op.eng) r.op.slot q.vrow = some (q.counting t) := by
    have hp := findRow_putRow (getEng s r.op.eng) (q.counting t)
    rw [show (q.counting t).trig.isNone = false by unfold Row.counting; rw [hx]; rfl, Bool.and_false, if_neg Bool.false_ne_true] at hp
    unfold s1 rowCounts
    rw [getEng_modEng, ← hs]
    exact hp
  have hrow2 : findRow (getEng s2 r.op.eng) r.op.slot q.vrow = some (q.counting t) := by
    rw [h2.getEng (by decide), hf.getEng (by decide)]
    exact hrow
  refine ⟨?_, ?_, ?_, ?_⟩
  · have hu1 : s1.updates = s.updates := h1.same .updates (by decide)
    have hn1 : s1.nextId = s.nextId := h1.same .nextId (by decide)
    refine Eq.trans (h3.same .updates (by decide)) ((consumeTok_updates ..).trans ?_)
    rw [show (fresh s1).2.updates = s.updates from hu1, show (fresh s1).1 = s.nextId from hn1]
  · have hk := (applyStops_rowsKept s2 r t q.vrow).rows r.op.eng r.op.slot q.vrow
    rw [hrow2] at hk
    obtain ⟨w, hw, hwe⟩ := Option.map_eq_some_iff.1 hk
    refine ⟨w, hw, ?_⟩
    have := congrArg Row.trig hwe
    refine Eq.trans this ?_
    show q.trig.map (countArrival · t) = _
    rw [hx]
    rfl
  · have hk : SameIn Graph.regions s2 (applyStops s2 r t q.vrow) := by
      refine .foldl (fun u k => ?_) _ _
      unfold stopEntry
      extract_lets key v n w u1 c u2
      have hu1 : SameIn Graph.regions u u1 := (setStop_touches ..).sameIn (by decide)
      split
      · exact .refl
      · split
        · exact (setStop_touches ..).sameIn (by decide)
        · split
          · exact hu1.trans ((stageTrace_touches ..).sameIn (by decide))
          · have hu2 : SameIn Graph.regions u1 u2 := (modEng_touches ..).sameIn (by decide)
            refine (hu1.trans hu2).trans (.trans ?_ ((raiseTok_touches ..).sameIn (by decide)))
            exact SameIn.modGraph u2 r.key fun _ => rfl
    exact (h1.sameIn (by decide)).trans ((hf.sameIn (by decide)).trans ((consumeTok_sameIn _ _ _ _ _ fun _ _ => rfl).trans hk))
  · exact h3.after (by decide) (h2.after (by decide) (hf.after (by decide) (h1.mono (by decide))))

/-- The row as it stands when no stop entry matches the arrival. -/
theorem trigConsumes_row {s : State} {r : OpRef} {q : Row} {x : Trig} {t : Token} (hs : q.slot = r.op.slot) (hx : q.trig = some x)
    (hst : ∀ k, k < 64 → stopMatches (getStop s (r.key.1, k)) r t = false) :
    findRow (getEng (trigConsumes s r q t q.vrow) r.op.eng) r.op.slot q.vrow = some (q.counting t) ∧
      SameIn Graph.ops s (trigConsumes s r q t q.vrow) ∧ (trigConsumes s r q t q.vrow).nextId = s.nextId + 1 := by
  let s1 := rowCounts s r q t
  let s2 := consumeTok r (fresh s1).1 true (fresh s1).2 t
  have h1 : Touches [.engines] s s1 := modEng_touches ..
  have hf := fresh_touches s1
  have h2 : Touches [.updates, .graphs, .launches, .retires] (fresh s1).2 s2 := consumeTok_touches ..
  have hstop : s2.stops = s.stops := Eq.trans (h2.same .stops (by decide)) (Eq.trans (hf.same .stops (by decide)) (h1.same .stops (by decide)))
  have he : trigConsumes s r q t q.vrow = s2 := applyStops_none _ fun k hk => by
    unfold getStop
    rw [hstop]
    exact hst k hk
  have hrow : findRow (getEng s1 r.op.eng) r.op.slot q.vrow = some (q.counting t) := by
    have hp := findRow_putRow (getEng s r.op.eng) (q.counting t)
    rw [show (q.counting t).trig.isNone = false by unfold Row.counting; rw [hx]; rfl, Bool.and_false, if_neg Bool.false_ne_true] at hp
    unfold s1 rowCounts
    rw [getEng_modEng, ← hs]
    exact hp
  rw [he]
  refine ⟨?_, ?_, Eq.trans (h2.same .nextId (by decide)) (congrArg (· + 1) (h1.same .nextId (by decide)))⟩
  · rw [h2.getEng (by decide), hf.getEng (by decide)]
    exact hrow
  · exact (h1.sameIn (by decide)).trans ((hf.sameIn (by decide)).trans (consumeTok_sameIn _ _ _ _ _ fun _ _ => rfl))

/-- Emissions that each have a consumer leave the tokens under way. -/
theorem emitToks_inFlight {r : OpRef} {at_ : Word} (fid : Nat) : ∀ (out : List Token) {s : State}, Emits s r at_ out →
    (emitToks s r fid at_ out).inFlight = s.inFlight
  | [], _, _ => rfl
  | x :: out, s, h => by
    have hs : SameIn Graph.ops s (emitTok r fid at_ s x) := emitTok_sameIn _ _ _ _ _ fun _ _ => rfl
    refine (emitToks_inFlight fid out (Emits.congr hs ⟨h.1, fun y hy => h.2 y (List.mem_cons_of_mem _ hy)⟩)).trans ?_
    obtain ⟨c, hc⟩ := Option.isSome_iff_exists.1 (h.2 x List.mem_cons_self)
    unfold emitTok
    rw [if_neg (by rw [h.1]; exact Bool.false_ne_true)]
    extract_lets s1
    have h1 : Touches [.tiles] s s1 := by
      unfold s1
      split
      · exact modTile_touches ..
      · exact .rfl
    have hg : ((getGraph s1 r.key).bind fun g => (opAtCoord g x.dst).bind fun i => opRef r.key g i) = some c := by
      rw [h1.getGraph (by decide)]; exact hc
    rw [hg]
    exact Eq.trans ((addPend_touches s1 c x.tag true).same .inFlight (by decide)) (h1.same .inFlight (by decide))

theorem trigFires_inFlight {s : State} {r : OpRef} {q : Row} {x : Trig} (vrow : Nat)
    (he : Emits s r q.tag (trigOut r x (q.l.getD {}))) : (trigFires s r vrow q x).inFlight = s.inFlight := by
  unfold trigFires
  extract_lets s1
  let s0 := countFiring (fresh s).2 r q.tag q.lid 0
  have h0 : Touches [.nextId, .engines, .traces] s s0 := (countFiring_touches ..).after (by decide) ((fresh_touches s).mono (by decide))
  have h1 : s1.inFlight = s0.inFlight := emitToks_inFlight _ _ (he.congr (h0.sameIn (by decide)))
  have h2 : Touches [.engines, .partitions, .quotas, .wheels, .updates] s1 (releaseUnit (modWheel (clearRow s1 r.op.eng r.op.slot vrow)
      (r.op.eng.pkg, r.op.eng.die) fun w => { w with ents := w.ents.filter fun u => decide (u.what ≠ .trigger r.op.eng r.op.slot vrow) })
      (fresh s).1 (colKeyAt r.key r.op q.tag) q.lid) :=
    (releaseUnit_touches ..).after (by decide) ((modWheel_touches ..).after (by decide) ((clearRow_touches ..).mono (by decide)))
  exact Eq.trans (h2.same .inFlight (by decide)) (h1.trans (h0.same .inFlight (by decide)))

/-- What the start of a round leaves. -/
theorem roundStarts_spec (s : State) (r : OpRef) (t : Token) (vrow : Nat) : let u := roundStarts s r t vrow
    Touches [.graphs, .wheels, .nextId] s u ∧
      u.nextId = (if bits (opCfg r.op 0) 159 128 = 0 then s.nextId else s.nextId + 1) ∧
      (∀ c, ColourIs s (colKeyAt r.key r.op t.tag) c → ColourIs u (colKeyAt r.key r.op t.tag) { c with live := c.live + 1 }) ∧
      (getWheel u (r.op.eng.pkg, r.op.eng.die)).ents.length = (getWheel s (r.op.eng.pkg, r.op.eng.die)).ents.length +
        (if bits (opCfg r.op 0) 159 128 = 0 then 0 else 1) := by
  have hh := holdLive_touches s (colKeyAt r.key r.op t.tag)
  have hc : ∀ c, ColourIs s (colKeyAt r.key r.op t.tag) c →
      ColourIs (holdLive s (colKeyAt r.key r.op t.tag)) (colKeyAt r.key r.op t.tag) { c with live := c.live + 1 } :=
    fun c h => h.modCol fun c => { c with live := c.live + 1 }
  unfold roundStarts roundDeadline
  by_cases hd : bits (opCfg r.op 0) 159 128 = 0
  · simp only [if_pos hd]
    exact ⟨hh.mono (by decide), hh.same .nextId (by decide), hc, by rw [hh.getWheel (by decide)]; rfl⟩
  · simp only [if_neg hd]
    have ha := addTimer_touches (holdLive s (colKeyAt r.key r.op t.tag)) r.op.eng.pkg r.op.eng.die
      ((getPkg s r.op.eng.pkg).time + bits (opCfg r.op 0) 159 128) none (.trigger r.op.eng r.op.slot vrow)
    obtain ⟨x, hx, -⟩ := addTimer_ents (holdLive s (colKeyAt r.key r.op t.tag)) r.op.eng.pkg r.op.eng.die
      ((getPkg s r.op.eng.pkg).time + bits (opCfg r.op 0) 159 128) none (.trigger r.op.eng r.op.slot vrow)
    refine ⟨ha.after (by decide) (hh.mono (by decide)), congrArg (· + 1) (hh.same .nextId (by decide)),
      fun c h => (hc c h).touches ha (by decide), ?_⟩
    rw [hx, List.length_append, hh.getWheel (by decide)]
    rfl

theorem makeRoom_ok_touches {s v : State} {e : Eng} {slot vrow : Nat} (h : makeRoom s e slot vrow = .ok v) :
    Touches [.engines, .partitions, .quotas, .traces] s v := by
  have h2 := makeRoom_touches s e slot vrow
  rw [h] at h2
  exact h2

/-- The first arrival of a round, at whose count no term holds. -/
theorem trigger_arms {s v : State} {r : OpRef} {t : Token} (hu : unwindDiscards r t = false)
    (hk : kindOk r.op t.dst.pos t.kind = true) (hm : makeRoom s r.op.eng r.op.slot (vrowOf r.op t.tag) = .ok v)
    (hq : findRow (getEng s r.op.eng) r.op.slot (vrowOf r.op t.tag) = none)
    (hh : trigHolds (opCfg r.op 0) (countArrival { deadline := roundDeadline r (getPkg s r.op.eng.pkg).time } t)
      (getPkg s r.op.eng.pkg).time = false) :
    ∃ u, meetTrigger s r t = .inl u ∧ u.inFlight = s.inFlight ∧ u.threads = s.threads ∧ SameBytes s u ∧
      u.updates = s.updates ++ [fallsFor r (if bits (opCfg r.op 0) 159 128 = 0 then s.nextId else s.nextId + 1) t] ∧
      (∃ w, findRow (getEng u r.op.eng) r.op.slot (vrowOf r.op t.tag) = some w ∧
        w.trig = some (countArrival { deadline := roundDeadline r (getPkg s r.op.eng.pkg).time } t)) ∧
      (∀ c, ColourIs s (colKeyAt r.key r.op t.tag) c → ColourIs u (colKeyAt r.key r.op t.tag) { c with live := c.live + 1 }) ∧
      (getWheel u (r.op.eng.pkg, r.op.eng.die)).ents.length = (getWheel s (r.op.eng.pkg, r.op.eng.die)).ents.length +
        (if bits (opCfg r.op 0) 159 128 = 0 then 0 else 1) := by
  have hv := makeRoom_ok_touches hm
  have hx := meetTrigger_first hu hk hm ((findRow_makeRoom hm).1 hq)
  rw [hv.getPkg (by decide)] at hx
  obtain ⟨h1, hid, hcol, hlen⟩ := roundStarts_spec v r t (vrowOf r.op t.tag)
  generalize hw : roundStarts v r t (vrowOf r.op t.tag) = w at h1 hid hcol hlen hx
  obtain ⟨h2, ⟨y, hy, hyt⟩, h3, h4⟩ := trigConsumes_spec w (r := r)
    (q := armedRow r t (vrowOf r.op t.tag) (roundDeadline r (getPkg s r.op.eng.pkg).time)) t rfl rfl
  rw [show (armedRow r t (vrowOf r.op t.tag) (roundDeadline r (getPkg s r.op.eng.pkg).time)).vrow = vrowOf r.op t.tag from rfl]
    at h2 hy h3 h4
  have h := h4.after (l := [.updates, .launches, .retires, .nextId, .engines, .graphs, .reports, .stops, .traces, .wheels, .partitions, .quotas])
    (by decide) (h1.after (by decide) (hv.mono (by decide)))
  rw [evalTrigger_stays hy hyt (.inr (by rw [h.getPkg (by decide)]; exact hh))] at hx
  have hvn : v.nextId = s.nextId := hv.same .nextId (by decide)
  have hvu : w.updates = s.updates := Eq.trans (h1.same .updates (by decide)) (hv.same .updates (by decide))
  refine ⟨_, hx, h.same .inFlight (by decide), h.same .threads (by decide), h.sameBytes (by decide), ?_, ⟨y, hy, hyt⟩,
    fun c hc => h3.colourIs (hcol c (hc.touches hv (by decide))), ?_⟩
  · rw [h2, hvu, hid, hvn]
  · rw [h4.getWheel (by decide), hlen, hv.getWheel (by decide)]

/-- A later arrival of a round. -/
theorem trigger_counts {s v : State} {r : OpRef} {t : Token} {q : Row} {x : Trig} (hu : unwindDiscards r t = false)
    (hk : kindOk r.op t.dst.pos t.kind = true) (hm : makeRoom s r.op.eng r.op.slot (vrowOf r.op t.tag) = .ok v)
    (hq : findRow (getEng s r.op.eng) r.op.slot (vrowOf r.op t.tag) = some q) (hx : q.trig = some x) :
    (trigHolds (opCfg r.op 0) (countArrival x t) (getPkg s r.op.eng.pkg).time = false → ∃ u, meetTrigger s r t = .inl u ∧
      u.inFlight = s.inFlight ∧ u.threads = s.threads ∧ SameBytes s u ∧ u.updates = s.updates ++ [fallsFor r s.nextId t] ∧
      ∃ w, findRow (getEng u r.op.eng) r.op.slot (vrowOf r.op t.tag) = some w ∧ w.trig = some (countArrival x t)) ∧
    (trigHolds (opCfg r.op 0) (countArrival x t) (getPkg s r.op.eng.pkg).time = true → q.stopHeld = false →
      (∀ k, k < 64 → stopMatches (getStop s (r.key.1, k)) r t = false) →
      Emits s r q.tag (trigOut r (countArrival x t) ((q.counting t).l.getD {})) → ∃ u, meetTrigger s r t = .inl u ∧
      u.inFlight = s.inFlight ∧ u.threads = s.threads ∧ SameBytes s u ∧
      u.updates = s.updates ++ [fallsFor r s.nextId t] ++
        (trigOut r (countArrival x t) ((q.counting t).l.getD {})).map (risesFor s r (s.nextId + 1)) ++
        [{ firing := s.nextId + 1, key := colKeyAt r.key r.op q.tag, inc := false, lid := q.lid }] ∧
      findRow (getEng u r.op.eng) r.op.slot (vrowOf r.op t.tag) = none) := by
  have hv := makeRoom_ok_touches hm
  obtain ⟨hs, hvr⟩ := findRow_spec hq
  obtain ⟨p, hb, hps, hpv, hpx, hpt, hlid, hpl, hph⟩ : ∃ p : Row,
      findRow (getEng v r.op.eng) r.op.slot (vrowOf r.op t.tag) = some p ∧ p.slot = r.op.slot ∧
        p.vrow = vrowOf r.op t.tag ∧ p.trig = some x ∧ p.tag = q.tag ∧ p.lid = q.lid ∧ p.l = q.l ∧ p.stopHeld = q.stopHeld := by
    obtain ⟨b, hb⟩ := (findRow_makeRoom hm).2 q hq (by rw [hx]; exact Bool.and_false _)
    exact ⟨_, hb, hs, hvr, hx, rfl, rfl, rfl, rfl⟩
  have hmt := meetTrigger_again hu hk hm hb
  obtain ⟨h2, ⟨y, hy, hyt⟩, h3, h4⟩ := trigConsumes_spec v t hps hpx
  rw [hpv] at h2 hy h3 h4
  have hvn : v.nextId = s.nextId := hv.same .nextId (by decide)
  have hvu : v.updates = s.updates := hv.same .updates (by decide)
  have h := h4.after (l := [.updates, .launches, .retires, .nextId, .engines, .graphs, .reports, .stops, .traces, .partitions,
    .quotas]) (by decide) (hv.mono (by decide))
  refine ⟨fun hh => ?_, fun hh hsh hst he => ?_⟩
  · rw [evalTrigger_stays hy hyt (.inr (by rw [h.getPkg (by decide)]; exact hh))] at hmt
    exact ⟨_, hmt, h.same .inFlight (by decide), h.same .threads (by decide), h.sameBytes (by decide), by rw [h2, hvu, hvn],
      y, hy, hyt⟩
  · have hstop : ∀ k, k < 64 → stopMatches (getStop v (r.key.1, k)) r t = false := fun k hk => by
      unfold getStop
      rw [show v.stops = s.stops from hv.same .stops (by decide)]
      exact hst k hk
    obtain ⟨hrow, hops, hid⟩ := trigConsumes_row hps hpx hstop
    rw [hpv] at hrow hops hid
    have hct : (p.counting t).trig = some (countArrival x t) := congrArg (Option.map (countArrival · t)) hpx
    rw [evalTrigger_fires hrow hct (hph.trans hsh) (by rw [h.getPkg (by decide)]; exact hh)] at hmt
    have hout : (p.counting t).l = (q.counting t).l := congrArg (Option.map _) hpl
    have hso := (hv.sameIn (by decide)).trans hops
    have he' : Emits (trigConsumes v r p t (vrowOf r.op t.tag)) r (p.counting t).tag
        (trigOut r (countArrival x t) ((p.counting t).l.getD {})) := by
      rw [show (p.counting t).tag = q.tag from hpt, hout]
      exact he.congr hso
    obtain ⟨f1, f2, f3⟩ := trigFires_spec (vrowOf r.op t.tag) he'
    refine ⟨_, hmt, (trigFires_inFlight _ he').trans (h.same .inFlight (by decide)),
      Eq.trans (f3.same .threads (by decide)) (h.same .threads (by decide)),
      (h.sameBytes (by decide)).trans (f3.sameBytes (by decide)), ?_, f2⟩
    rw [f1, h2, hvu, hvn, hid, hvn, risesFor_congr hso, hout, show (p.counting t).tag = q.tag from hpt,
      show (p.counting t).lid = q.lid from hlid]

/-! ### A deadline at a TRIGGER -/

theorem exec_triggerDeadline {s : State} {r : OpRef} {vrow m : Nat} {ent : TimerEnt}
    (hm : (getWheel s (r.op.eng.pkg, r.op.eng.die)).ents.findIdx?
      (fun u => decide (u.what = .trigger r.op.eng r.op.slot vrow) && u.fire) = some m)
    (hd : dueEnt s r.op.eng.pkg r.op.eng.die m = some ent) (hr : findOp s r.op.eng r.op.slot = some r) :
    exec (.triggerDeadline r.op.eng r.op.slot vrow) s =
      .next (evalTrigger (dropEnt s r.op.eng.pkg r.op.eng.die ent) r vrow) := by
  show execTriggerDeadline r.op.eng r.op.slot vrow s = _
  simp only [execTriggerDeadline, hm, hd, hr]

/-- What a deadline does at its row. -/
theorem deadline_evaluates {s : State} {r : OpRef} {vrow m : Nat} {ent : TimerEnt} {q : Row} {x : Trig}
    (hq : findRow (getEng s r.op.eng) r.op.slot vrow = some q) (hx : q.trig = some x)
    (hm : (getWheel s (r.op.eng.pkg, r.op.eng.die)).ents.findIdx?
      (fun u => decide (u.what = .trigger r.op.eng r.op.slot vrow) && u.fire) = some m)
    (hd : dueEnt s r.op.eng.pkg r.op.eng.die m = some ent) (hr : findOp s r.op.eng r.op.slot = some r) :
    (q.stopHeld = true ∨ trigHolds (opCfg r.op 0) x (getPkg s r.op.eng.pkg).time = false →
      ∃ u, exec (.triggerDeadline r.op.eng r.op.slot vrow) s = .next u ∧ (getEng u r.op.eng).rows = (getEng s r.op.eng).rows ∧
        u.updates = s.updates ∧ u.threads = s.threads ∧ SameBytes s u) ∧
    (trigHolds (opCfg r.op 0) x (getPkg s r.op.eng.pkg).time = true → q.stopHeld = false →
      Emits s r q.tag (trigOut r x (q.l.getD {})) →
      ∃ u, exec (.triggerDeadline r.op.eng r.op.slot vrow) s = .next u ∧
        findRow (getEng u r.op.eng) r.op.slot vrow = none ∧ u.threads = s.threads ∧ SameBytes s u ∧
        u.updates = s.updates ++ (trigOut r x (q.l.getD {})).map (risesFor s r s.nextId) ++
          [{ firing := s.nextId, key := colKeyAt r.key r.op q.tag, inc := false, lid := q.lid }]) := by
  have hw := dropEnt_touches s r.op.eng.pkg r.op.eng.die ent
  have hi := exec_triggerDeadline hm hd hr
  generalize dropEnt s r.op.eng.pkg r.op.eng.die ent = v at hw hi
  have hq' : findRow (getEng v r.op.eng) r.op.slot vrow = some q := by rw [hw.getEng (by decide)]; exact hq
  refine ⟨fun h => ⟨v, ?_, by rw [hw.getEng (by decide)], hw.same .updates (by decide), hw.same .threads (by decide),
    hw.sameBytes (by decide)⟩, fun h hh he => ?_⟩
  · rw [hi, evalTrigger_stays hq' hx (h.imp_right fun h => by rw [hw.getPkg (by decide)]; exact h)]
  · rw [evalTrigger_fires hq' hx hh (by rw [hw.getPkg (by decide)]; exact h)] at hi
    have ho : SameIn Graph.ops s v := hw.sameIn (by decide)
    obtain ⟨f1, f2, f3⟩ := trigFires_spec vrow (he.congr ho)
    refine ⟨_, hi, f2, Eq.trans (f3.same .threads (by decide)) (hw.same .threads (by decide)),
      (hw.sameBytes (by decide)).trans (f3.sameBytes (by decide)), ?_⟩
    rw [f1, risesFor_congr ho, show v.updates = s.updates from hw.same .updates (by decide),
      show v.nextId = s.nextId from hw.same .nextId (by decide)]

/-- The step in which a token reaches a TRIGGER with nothing before it. -/
theorem exec_triggerArrival {s u : State} {n : Nat} {t0 : Token} {r : OpRef} (hn : s.inFlight[n]? = some t0)
    (hp : ∀ u ∈ s.inFlight.take n, samePair (walked t0) u = false) (hi : (getEng s r.op.eng).ingress = [])
    (hc : mustCross (walked t0) = false) (hg : crossGrants s (tokFrom (walked t0)) r.op.eng (walked t0).part = true)
    (he : (walked t0).dst.eng = r.op.eng) (hgate : gate s r.op.eng (walked t0) = .row r s) (hk : opKind r.op = 0x0B)
    (hr : arrivalRoom s r (walked t0) = true) (hm : meetTrigger s r (walked t0) = .inl u) :
    exec (.triggerArrival r.op.eng n) s = .next { u with inFlight := u.inFlight.eraseIdx n } := by
  have h : meet s r (walked t0) = .inl u := by
    unfold meet
    rw [if_pos hk]
    exact hm
  show Host.Outcome.next (arrive true r.op.eng n s) = _
  rw [arrive_meets hn hp hi hc hg he hgate (decide_eq_true hk) hr h]

/-- Settles O36: a TIMER's token goes into its wheel and leaves it as a signal; what an arrival or a deadline does at a
TRIGGER turns on whether a term of the condition holds and on whether a stop entry holds the row. -/
theorem timersAndTriggers : Obligations.TimersAndTriggers := by
  refine ⟨fun s e n f => ⟨fun hf he => by subst he; exact timer_enters hf, fun pkg die x t r hd hw hr he => timer_expires hd hw hr he⟩,
    fun s e r vrow he => ?_⟩
  subst he
  extract_lets cfg now counted emits frees
  have hcount : ∀ x t, counted x t = countArrival x t := fun x t => (countArrival_eq x t).symm
  refine ⟨fun n t0 => ?_, fun q x m ent hq hx hm hd hr => ?_⟩
  · intro t hn hp hi hc hg he hgate hk hr hu hkind hvr v hm arrives
    subst hvr
    have arrivesBy : ∀ {u : State} {P : State → Prop}, meetTrigger s r t = .inl u → u.inFlight = s.inFlight →
        u.threads = s.threads → SameBytes s u → P { u with inFlight := u.inFlight.eraseIdx n } → arrives P :=
      fun {u P} h1 h2 h3 h4 h5 => ⟨_, exec_triggerArrival hn hp hi hc hg he hgate hk hr h1, congrArg (·.eraseIdx n) h2, h3, h4, h5⟩
    refine ⟨fun hq => ?_, fun q x hq hx => ?_⟩
    · intro y hh
      obtain ⟨u, h1, h2, h3, h4, h5, h6, h7, h8⟩ := trigger_arms hu hkind hm hq (by rw [← hcount]; exact hh)
      refine arrivesBy h1 h2 h3 h4 ⟨h5, ?_, h7, h8⟩
      rw [show y = _ from hcount _ t]
      exact h6
    · intro y out
      have hy : y = countArrival x t := hcount x t
      obtain ⟨h1, h2⟩ := trigger_counts hu hkind hm hq hx
      refine ⟨fun hh => ?_, fun hh hs hst he => ?_⟩
      · obtain ⟨u, a1, a2, a3, a4, a5, a6⟩ := h1 (hy ▸ hh)
        exact arrivesBy a1 a2 a3 a4 ⟨a5, hy ▸ a6⟩
      · have ho : out = trigOut r (countArrival x t) ((q.counting t).l.getD {}) := congrArg (fun y => emits y _) hy
        obtain ⟨u, a1, a2, a3, a4, a5, a6⟩ := h2 (hy ▸ hh) hs hst (ho ▸ he)
        exact arrivesBy a1 a2 a3 a4 ⟨ho ▸ a5, a6⟩
  · intro out
    obtain ⟨h1, h2⟩ := deadline_evaluates hq hx hm hd hr
    exact ⟨fun h => h1 (.inr h), fun _ h => h1 (.inl h), h2⟩

end Sys2Proof.Machine
end

section
/-!
PROOFS. Proofs/Graphs.lean: GLOAD and GFREE, and the refusals of a graph's image (spec/11 R238, R239).
-/
namespace Sys2Proof.Machine

/-! ### Status words -/

/-- A result word that says failure. -/
def FailWord (w : Word) : Prop := 2 ^ 63 ≤ w.toNat

theorem errWord_fails {code : Nat} (detail : Nat) (h : code < 2 ^ 15) : FailWord (errWord code detail) := by
  unfold FailWord errWord
  rw [BitVec.toNat_ofNat]
  omega

theorem okWord_toNat {h : Nat} (hh : h < 256) : (okWord h).toNat = h := by
  unfold okWord
  rw [BitVec.toNat_ofNat]
  omega

theorem okWord_of_fails {w : Word} {h : Nat} (hw : FailWord w) (hh : h < 256) : w ≠ okWord h := by
  rintro rfl
  have h1 := okWord_toNat hh
  unfold FailWord at hw
  omega

/-- Every word that a check refuses with says failure. -/
def RefusesWith (o : Option Word) : Prop := ∀ w, o = some w → FailWord w

theorem RefusesWith.none : RefusesWith none := fun _ h => nomatch h

theorem RefusesWith.some {w : Word} (h : FailWord w) : RefusesWith (some w) := fun _ e => Option.some.inj e ▸ h

theorem RefusesWith.refuseIf {w : Word} (c : Bool) (h : FailWord w) : RefusesWith (refuseIf c w) := by
  unfold Machine.refuseIf
  split
  · exact .some h
  · exact .none

theorem RefusesWith.findSome {α : Type} {l : List α} {f : α → Option Word} (h : ∀ x, RefusesWith (f x)) :
    RefusesWith (l.findSome? f) := fun w e => by
  obtain ⟨x, -, hx⟩ := List.exists_of_findSome?_eq_some e
  exact h x w hx

theorem RefusesWith.orElse {o : Option Word} {f : Unit → Option Word} (h : RefusesWith o) (hf : RefusesWith (f ())) :
    RefusesWith (o.orElse f) := by
  cases o with
  | none => exact hf
  | some w => exact h

theorem RefusesWith.firstErr {l : List (Option Word)} (h : ∀ o ∈ l, RefusesWith o) : RefusesWith (firstErr l) := fun w e => by
  obtain ⟨o, ho, hw⟩ := List.exists_of_findSome?_eq_some e
  exact h o ho w hw

theorem recRefuse_fails (sec idx : Nat) : FailWord (recRefuse sec idx) := errWord_fails _ (by decide)

theorem entRefuse_fails (e : Ent) : FailWord e.refuse := errWord_fails _ (by decide)

/-! ### The checks of a graph -/

theorem descRefuse_refuses (i : Image) (o : Nat) : RefusesWith (descRefuse i o) := by
  unfold descRefuse
  extract_lets
  split
  · exact .some (recRefuse_fails ..)
  · exact .refuseIf _ (recRefuse_fails ..)

theorem loopBad_refuses (rs : List Region) (es : List Ent) (k : Nat) : RefusesWith (loopBad rs es k) := by
  unfold loopBad
  extract_lets r all
  clear_value all
  split
  · exact .none
  · split
    · exact .some (recRefuse_fails ..)
    · exact .refuseIf _ (entRefuse_fails _)

theorem shapeRefuse_refuses (es : List Ent) (sh : List (Nat × Shape × Bool)) : RefusesWith (shapeRefuse es sh) := by
  unfold shapeRefuse
  refine .findSome fun p => ?_
  split
  · exact .some (recRefuse_fails ..)
  · exact .refuseIf _ (recRefuse_fails ..)

theorem contRefuse_refuses (es : List Ent) (ms : List (Nat × Nat × List Nat)) : RefusesWith (contRefuse es ms) := by
  unfold contRefuse
  refine .findSome fun m => .orElse (fun w h => ?_) (.findSome fun k => ?_)
  · obtain ⟨x, -, hx⟩ := Option.bind_eq_some_iff.1 h
    obtain ⟨e, -, rfl⟩ := Option.map_eq_some_iff.1 hx
    exact entRefuse_fails e
  · split
    · exact .refuseIf _ (entRefuse_fails _)
    · exact .none

theorem fmtRefuse_refuses (ps : List (TRec × List Nat)) (es : List Ent) : RefusesWith (fmtRefuse ps es) := by
  unfold fmtRefuse
  refine .findSome fun c => .findSome fun pos => .findSome fun p => ?_
  split
  · exact .refuseIf _ (errWord_fails _ (by decide))
  · exact .none

theorem graphRefuse_refuses (i : Image) (o : Nat) : RefusesWith (graphRefuse i o) := by
  unfold graphRefuse
  split
  · next w hw => exact .some (descRefuse_refuses i o w hw)
  · extract_lets d es rs ts cs ps ms
    refine .firstErr fun x hx => ?_
    simp only [List.mem_cons, List.not_mem_nil, or_false] at hx
    rcases hx with rfl | rfl | rfl | rfl | rfl | rfl | rfl | rfl | rfl
    · exact .findSome fun _ => .refuseIf _ (entRefuse_fails _)
    · exact .findSome fun _ => .orElse (.refuseIf _ (recRefuse_fails ..)) (loopBad_refuses _ _ _)
    · exact .findSome fun _ => .refuseIf _ (entRefuse_fails _)
    · exact shapeRefuse_refuses _ _
    · exact .findSome fun _ => .refuseIf _ (recRefuse_fails ..)
    · exact .findSome fun _ => .refuseIf _ (recRefuse_fails ..)
    · exact .findSome fun _ => .refuseIf _ (recRefuse_fails ..)
    · exact contRefuse_refuses _ _
    · exact fmtRefuse_refuses _ _

theorem openChans_refuses (pkg die part agid h : Nat) (cs : List (ChanRec × Nat)) (s : State) (l : List (Nat × Nat)) (w : Word)
    (hw : openChans pkg die part agid h cs s l = .error w) : FailWord w := by
  induction cs generalizing s l with
  | nil => cases hw
  | cons c cs ih =>
    rw [openChans_cons] at hw
    split at hw
    · split at hw
      · cases hw
        exact recRefuse_fails ..
      · exact ih _ _ hw
    · split at hw
      · exact ih _ _ hw
      · cases hw
        exact errWord_fails _ (by decide)

/-! ### The handle of a loaded graph -/

/-- A handle names a graph. -/
def Names (s : State) (k : Nat × Nat) : Prop := (getGraph s k).isSome = true

theorem Names.modGraph {s : State} {k : Nat × Nat} (h : Names s k) (f : Graph → Graph) : Names (modGraph s k f) k := by
  unfold Names
  rw [getGraph_modGraph, Option.isSome_map]
  exact h

theorem Names.touches {l : List Field} {s t : State} {k : Nat × Nat} (h : Names s k) (ht : Touches l s t)
    (hl : l.contains .graphs = false) : Names t k := by
  unfold Names
  rw [ht.getGraph hl]
  exact h

theorem reserveLines_names {key : Nat × Nat} (ks : List Nat) {s t : State} (h : Names s key) (e : reserveLines s key ks = some t) :
    Names t key := by
  induction ks generalizing s with
  | nil => cases e; exact h
  | cons k ks ih =>
    rw [reserveLines_cons] at e
    split at e
    · exact ih h e
    · split at e
      · exact ih h e
      · extract_lets n others at e
        split at e
        · cases e
        · exact ih (h.modGraph _) e

/-- A result that a GLOAD ends with: a handle that it names is free before and names a graph after. -/
def LoadsHandle (s : State) (pkg : Nat) (x : State × Word) : Prop :=
  ∀ h, h < 256 → x.2 = okWord h → getGraph s (pkg, h) = none ∧ Names x.1 (pkg, h)

theorem LoadsHandle.failed {s u : State} {pkg : Nat} {w : Word} (hw : FailWord w) : LoadsHandle s pkg (u, w) :=
  fun _ hh e => absurd e (okWord_of_fails hw hh)

theorem freeHandle_spec {s : State} {pkg h : Nat} (hf : freeHandle s pkg = some h) : h < 256 ∧ getGraph s (pkg, h) = none := by
  unfold freeHandle leastBelow at hf
  have h1 := List.mem_of_find?_eq_some hf
  have h2 := List.find?_some hf
  exact ⟨List.mem_range.1 h1, Option.isNone_iff_eq_none.1 h2⟩

theorem commitGraph_loads (s0 : State) (pkg part agid : Nat) (ibase : Word) (i : Image) (o : Nat)
    (reloc : List (Nat × Nat × Nat)) : LoadsHandle s0 pkg (commitGraph s0 pkg part agid ibase i o reloc) := by
  have full : FailWord (errWord 0x03) := errWord_fails _ (by decide)
  unfold commitGraph
  extract_lets d es rs ts cs ps _ g0
  split
  · next h _ _ s recs hfree _ _ _ =>
    obtain ⟨hlt, hnone⟩ := freeHandle_spec hfree
    extract_lets
    split
    · exact .failed full
    · next s1 hr =>
      have h1 : Names s1 (pkg, h) := reserveLines_names _ (by unfold Names; rw [getGraph_setGraph]; rfl) hr
      split
      · next w hw => exact .failed (openChans_refuses _ _ _ _ _ _ _ _ _ hw)
      · next s2 ks hc =>
        have hc := Touches.carry hc (openChans_touches ..)
        have h2 : Names s2 (pkg, h) := h1.touches hc (by decide)
        extract_lets s3
        have h3 : Names s3 (pkg, h) := h2.modGraph _
        split
        · exact .failed full
        · split
          · exact .failed full
          · next s4 hi =>
            have hi := Touches.carry hi (initTiles_touches ..)
            have h4 : Names s4 (pkg, h) := h3.touches hi (by decide)
            split
            · exact .failed (errWord_fails _ (by decide))
            · intro k hk e
              have hkh : h = k := by rw [← okWord_toNat hlt, ← okWord_toNat hk]; exact congrArg BitVec.toNat e
              subst hkh
              exact ⟨hnone, (h4.touches (freshSlots_touches ..) (by decide)).touches (powerPages_touches ..) (by decide)⟩
  · exact .failed full

theorem getGraph_forgetRoom_none (s : State) (pkg : Nat) (k : Nat × Nat) (h : getGraph (forgetRoom s pkg) k = none) :
    getGraph s k = none := by
  unfold getGraph forgetRoom at h
  rw [tfind_tmap] at h
  exact Option.map_eq_none_iff.1 h

theorem loadGraph_loads {s u : State} {pkg part agid : Nat} {ibase : Word} {i : Image} {o : Nat} {w : Word}
    (hl : loadGraph s pkg part agid ibase i o = .done u w) : LoadsHandle s pkg (u, w) := by
  unfold loadGraph at hl
  split at hl
  · next w hw =>
    cases hl
    exact .failed (graphRefuse_refuses i o w hw)
  · extract_lets d at hl
    split at hl
    · next r _ =>
      cases hl
      intro h hh e
      obtain ⟨h1, h2⟩ := commitGraph_loads (forgetRoom s pkg) pkg part agid ibase i o r h hh e
      exact ⟨getGraph_forgetRoom_none s pkg _ h1, h2⟩
    · split at hl
      · cases hl
      · cases hl
        exact .failed (errWord_fails _ (by decide))

/-! ### The two instructions -/

theorem exec_gload {s : State} {rd rs1 : RegNo} (hr : AsyncRoom s) (hq : Quiet s) {dp hp ps : List (Target × Nat)}
    {w1 : List Byte} {w2 : State} (hdp : opRange s .read (rs s rs1) 64 = .ok dp)
    (hhp : opRange s .read (curThr s).ibase 128 = .ok hp) (hd : (readPieces s dp).2.1 = false)
    (hh : readPieces s hp = (w1, false, w2)) (hhr : headerRefuse w1 (getPkg s s.cur.pkg).stepping = none)
    (hle : (curThr s).ibase.toNat ≤ (rs s rs1).toNat)
    (hps : opRange s .read (curThr s).ibase (imageBytes (headerSecs w1)) = .ok ps) :
    let im : Image := { bs := (readPieces s ps).1, secs := headerSecs w1 }
    let o := (rs s rs1).toNat - (curThr s).ibase.toNat
    descRefuse im o = none → (readParts s (curThr s).ibase (imageReads im o)).1 = false → exec (.gload rd rs1) s =
      .next (match loadGraph s s.cur.pkg (curThr s).part (curThr s).agid (curThr s).ibase im o with
        | .moving u => u
        | .done u w => asyncDone (readParts u (curThr s).ibase (imageReads im o)).2 rd w) := by
  intro im o hdr hrp
  show execGload rd rs1 s = _
  have hdp' : opRange s .read (readReg (curThr s) rs1) 64 = .ok dp := hdp
  have hle' : ¬(readReg (curThr s) rs1).toNat < (curThr s).ibase.toNat := Nat.not_lt.2 hle
  have hdr' : descRefuse { bs := (readPieces s ps).1, secs := headerSecs w1 } ((readReg (curThr s) rs1).toNat - (curThr s).ibase.toNat) = none := hdr
  have hrp' : (readParts s (curThr s).ibase (imageReads { bs := (readPieces s ps).1, secs := headerSecs w1 }
    ((readReg (curThr s) rs1).toNat - (curThr s).ibase.toNat))).1 = false := hrp
  simp only [execGload, asyncFull_of_room hr, devWaits_of_quiet hq, hdp', hhp, hd, hh, hhr, hps, hle', hdr', hrp', Bool.false_eq_true,
    or_self, if_false]
  rfl

theorem exec_gfree_error {s : State} {rd rs1 : RegNo} {w : Word} (hr : AsyncRoom s)
    (hg : graphArg s (rs s rs1).toNat = .error w) : exec (.gfree rd rs1) s = .next (asyncDone s rd w) := by
  show execGfree rd rs1 s = _
  simp only [execGfree, asyncFull_of_room hr, hg, Bool.false_eq_true, if_false]

theorem exec_gfree {s : State} {rd rs1 : RegNo} {g : Graph} (hr : AsyncRoom s) (hg : graphArg s (rs s rs1).toNat = .ok g)
    (hm : g.moveTo = none) : exec (.gfree rd rs1) s =
      .next (if hasLaunch s s.cur.pkg (rs s rs1).toNat = true ∧ (!(g.frozen && g.saved)) = true then asyncDone s rd (errWord 0x05)
        else if pinnedBusy s g = true then s
        else asyncDone (reevalAll (unloadGraph s s.cur.pkg (rs s rs1).toNat g)) rd (okWord 0)) := by
  show execGfree rd rs1 s = _
  simp only [execGfree, asyncFull_of_room hr, hg, hm, Bool.false_eq_true, if_false, Option.isSome_none]

/-- The handle of an unloaded graph names none. -/
theorem getGraph_unloadGraph (s : State) (pkg h : Nat) (g : Graph) : getGraph (unloadGraph s pkg h g) (pkg, h) = none := by
  unfold unloadGraph
  extract_lets
  rw [(powerPages_touches ..).getGraph (by decide)]
  exact tfind_tdel_same ..

/-- Settles O17: a load's handle is the least free one, and every failure's word has its top bit set; GFREE takes its
outcomes in turn. -/
theorem graphLoadAndFree : Obligations.GraphLoadAndFree := by
  intro s rd rs1 hr
  refine ⟨fun hq dp hp ps w1 w2 hdp hhp hd hh hhr hle hps hdr hrp => ?_, fun g hg hm => ?_, fun w hg => asyncDone_issues (exec_gfree_error hr hg)⟩
  · have hx := exec_gload (rd := rd) hr hq hdp hhp hd hh hhr hle hps hdr hrp
    refine ⟨fun u w hl => ⟨asyncDone_issues (hx.trans (by rw [hl])), loadGraph_loads hl⟩, fun u hl => hx.trans (by rw [hl])⟩
  · have hx := exec_gfree (rd := rd) hr hg hm
    refine ⟨fun hl hf => asyncDone_issues (hx.trans (next_if_pos ⟨hl, by rw [hf]; rfl⟩)), fun h => ?_⟩
    have hno : ¬(hasLaunch s s.cur.pkg (rs s rs1).toNat = true ∧ (!(g.frozen && g.saved)) = true) := by
      rcases h with h | h <;> simp [h]
    refine ⟨fun hb => hx.trans ((next_if_neg hno).trans (next_if_pos hb)), fun hb => ⟨asyncDone_issues (hx.trans ((next_if_neg hno).trans
      (next_if_neg (by rw [hb]; decide)))), getGraph_unloadGraph ..⟩⟩

end Sys2Proof.Machine
end

section
/-!
PROOFS. Proofs/PageSets.lean: FREEZE, THAW, SAVEC and RESTC (spec/11 R245 to R247).
-/
namespace Sys2Proof.Machine

theorem graphArg_ok {s : State} {v : Nat} {g : Graph} (h : graphArg s v = .ok g) : getGraph s (s.cur.pkg, v) = some g := by
  unfold graphArg at h
  split at h
  · cases h
  · split at h
    · cases h
    · next hg =>
      split at h
      · cases h
      · cases h
        exact hg

theorem settleFreeze_none {s : State} {k : Nat × Nat} {g : Graph} (hg : getGraph s k = some g) (hf : g.freezing = false) :
    settleFreeze s k = s := by
  unfold settleFreeze
  rw [hg]
  simp only [hf, Bool.false_and, Bool.false_eq_true, if_false]

/-! ### FREEZE and THAW -/

theorem exec_freeze {s : State} {rd rs1 : RegNo} {g : Graph} (hr : AsyncRoom s) (hm : moving s (rs s rs1).toNat = false)
    (hg : graphArg s (rs s rs1).toNat = .ok g) : exec (.freeze rd rs1) s =
      .next (if g.frozen = true then asyncDone s rd (okWord 0)
        else asyncIssue (setGraph s (s.cur.pkg, (rs s rs1).toNat) { g with freezing := true }) rd (.freeze (rs s rs1).toNat)) := by
  show execFreeze rd rs1 s = _
  simp only [execFreeze, asyncFull_of_room hr, hm, hg, Bool.false_eq_true, or_self, if_false]

theorem exec_thaw {s : State} {rd rs1 : RegNo} {g : Graph} (hg : graphArg s (rs s rs1).toNat = .ok g)
    (hf : g.freezing = false) : exec (.thaw rd rs1) s =
      .next (if g.frozen = true then finish (thaw s (s.cur.pkg, (rs s rs1).toNat) g) rd (okWord 0)
        else finish s rd (errWord 0x05)) := by
  show execThaw rd rs1 s = _
  simp only [execThaw, hg, settleFreeze_none (graphArg_ok hg) hf, graphArg_ok hg]

/-! ### SAVEC -/

/-- What SAVEC does with a set that is not freezing. -/
def savecOut (s : State) (rd rs2 : RegNo) (key : Nat × Nat) (g : Graph) (d : SaveData) : State :=
  if (!(savedBad d).isEmpty) = true then asyncDone s rd (errWord 0x09)
  else if (rs s rd).toNat < (saveImage s d).length then asyncDone s rd (errWord 0x03)
  else if devWaits s = true then s
  else match opRange s .write (rs s rs2) (saveImage s d).length with
    | .error x => opTrap s x
    | .ok ps => asyncDone (setGraph (writePieces s (saveImage s d) ps) key { g with saved := true }) rd
        (okWord (saveImage s d).length)

theorem exec_savec {s : State} {rd rs1 rs2 : RegNo} {g : Graph} (hr : AsyncRoom s) (hm : moving s (rs s rs1).toNat = false)
    (hg : graphArg s (rs s rs1).toNat = .ok g) (hf : g.freezing = false) : exec (.savec rd rs1 rs2) s =
      .next (if (!g.frozen) = true then asyncDone s rd (errWord 0x05)
        else if (!setQuiet s (s.cur.pkg, (rs s rs1).toNat) g) = true then s
        else savecOut s rd rs2 (s.cur.pkg, (rs s rs1).toNat) g (saveSet s (s.cur.pkg, (rs s rs1).toNat) g)) := by
  show execSavec rd rs1 rs2 s = _
  simp only [execSavec, asyncFull_of_room hr, hm, hg, settleFreeze_none (graphArg_ok hg) hf, graphArg_ok hg, Bool.false_eq_true, or_self,
    if_false]
  rfl

theorem exec_savec_quiet {s : State} {rd rs1 rs2 : RegNo} {g : Graph} (hr : AsyncRoom s)
    (hm : moving s (rs s rs1).toNat = false) (hg : graphArg s (rs s rs1).toNat = .ok g) (hf : g.freezing = false)
    (hz : g.frozen = true) (hq : setQuiet s (s.cur.pkg, (rs s rs1).toNat) g = true) : exec (.savec rd rs1 rs2) s =
      .next (savecOut s rd rs2 (s.cur.pkg, (rs s rs1).toNat) g (saveSet s (s.cur.pkg, (rs s rs1).toNat) g)) := by
  rw [exec_savec hr hm hg hf, if_neg (by rw [hz]; decide), if_neg (by rw [hq]; decide)]

section
variable {s : State} {rd rs2 : RegNo} {key : Nat × Nat} {g : Graph} {d : SaveData}

theorem savecOut_bad (h : savedBad d ≠ []) : savecOut s rd rs2 key g d = asyncDone s rd (errWord 0x09) :=
  if_pos (by rw [List.isEmpty_eq_false_iff.2 h]; rfl)

theorem savecOut_sound (h : savedBad d = []) : savecOut s rd rs2 key g d =
    if (rs s rd).toNat < (saveImage s d).length then asyncDone s rd (errWord 0x03)
    else if devWaits s = true then s
    else match opRange s .write (rs s rs2) (saveImage s d).length with
      | .error x => opTrap s x
      | .ok ps => asyncDone (setGraph (writePieces s (saveImage s d) ps) key { g with saved := true }) rd
          (okWord (saveImage s d).length) :=
  if_neg (by rw [h]; decide)

theorem savecOut_waits (h : savedBad d = []) (hl : (saveImage s d).length ≤ (rs s rd).toNat) (hq : ¬Quiet s) :
    savecOut s rd rs2 key g d = s := by
  rw [savecOut_sound h, if_neg (Nat.not_lt.2 hl), if_pos ((devWaits_iff s).2 hq)]

theorem savecOut_writes {ps : List (Target × Nat)} (h : savedBad d = []) (hl : (saveImage s d).length ≤ (rs s rd).toNat)
    (hq : Quiet s) (hp : opRange s .write (rs s rs2) (saveImage s d).length = .ok ps) : savecOut s rd rs2 key g d =
      asyncDone (setGraph (writePieces s (saveImage s d) ps) key { g with saved := true }) rd
        (okWord (saveImage s d).length) := by
  rw [savecOut_sound h, if_neg (Nat.not_lt.2 hl), if_neg (by rw [devWaits_of_quiet hq]; decide), hp]

end

/-! ### RESTC -/

/-- What RESTC does with the data of a checked image. -/
def restcOut (s : State) (rd : RegNo) (d : SaveData) : State :=
  match place s s.graphs s.cur.pkg d.graph.part d.graph.nd d.graph.prows d.graph.pcols with
  | some r => match restoreImage (forgetRoom s s.cur.pkg) d r with
    | .error w => asyncDone (forgetRoom s s.cur.pkg) rd w
    | .ok (t, h) => match pageError (forgetRoom s s.cur.pkg) (relocPages s.cur.pkg d.graph r) with
      | some s => asyncDone s rd (errWord 0x09)
      | none => asyncDone t rd (okWord h)
  | none => match compactFor s s.cur.pkg d.graph.part d.graph.nd d.graph.prows d.graph.pcols with
    | some s => s
    | none => asyncDone (forgetRoom s s.cur.pkg) rd (errWord 0x03)

section
variable {s : State} {d : SaveData} (rd : RegNo)

theorem restcOut_full (hp : place s s.graphs s.cur.pkg d.graph.part d.graph.nd d.graph.prows d.graph.pcols = none)
    (hc : compactFor s s.cur.pkg d.graph.part d.graph.nd d.graph.prows d.graph.pcols = none) :
    restcOut s rd d = asyncDone (forgetRoom s s.cur.pkg) rd (errWord 0x03) := by
  unfold restcOut
  rw [hp, hc]

variable {r : List (Nat × Nat × Nat)}
  (hp : place s s.graphs s.cur.pkg d.graph.part d.graph.nd d.graph.prows d.graph.pcols = some r)
include hp

theorem restcOut_fails {w : Word} (hi : restoreImage (forgetRoom s s.cur.pkg) d r = .error w) :
    restcOut s rd d = asyncDone (forgetRoom s s.cur.pkg) rd w := by
  unfold restcOut
  simp only [hp, hi]

variable {x : State} {n : Nat} (hi : restoreImage (forgetRoom s s.cur.pkg) d r = .ok (x, n))
include hi

theorem restcOut_placed (hb : pageError (forgetRoom s s.cur.pkg) (relocPages s.cur.pkg d.graph r) = none) :
    restcOut s rd d = asyncDone x rd (okWord n) := by
  unfold restcOut
  simp only [hp, hi, hb]

theorem restcOut_badPage {y : State} (hb : pageError (forgetRoom s s.cur.pkg) (relocPages s.cur.pkg d.graph r) = some y) :
    restcOut s rd d = asyncDone y rd (errWord 0x09) := by
  unfold restcOut
  simp only [hp, hi, hb]

end

theorem exec_restc {s u : State} {rd rs1 : RegNo} {hp ps : List (Target × Nat)} {bs : List Byte} (hr : AsyncRoom s)
    (hq : Quiet s) (h1 : opRange s .read (rs s rs1) 128 = .ok hp)
    (h2 : opRange s .read (rs s rs1) (max 128 (field (readPieces s hp).1 16 8)) = .ok ps)
    (h3 : readPieces s ps = (bs, false, u)) : exec (.restc rd rs1) s =
      .next (match imageCheck u bs with
        | .error w => asyncDone u rd w
        | .ok d => restcOut u rd d) := by
  show execRestc rd rs1 s = _
  have h2' : opRange s .read (rs s rs1) (Nat.max 128 (field (readPieces s hp).1 16 8)) = .ok ps := h2
  simp only [execRestc, asyncFull_of_room hr, devWaits_of_quiet hq, h1, h2', h3, Bool.false_eq_true, or_self, if_false]
  rfl

theorem restoreSet_names {s t : State} {d : SaveData} {key : Nat × Nat} {reloc : List (Nat × Nat × Nat)}
    (h : restoreSet s d key reloc = some t) : Names t key := by
  unfold restoreSet at h
  extract_lets g m0 at h
  split at h
  · cases h
  · extract_lets m g1 at h
    split at h
    · cases h
    · next s1 h1 =>
      have n1 : Names s1 key := reserveLines_names _ (by unfold Names; rw [getGraph_setGraph]; rfl) h1
      extract_lets m1 at h
      split at h
      · cases h
      · next s2 h2 =>
        have h2 := Touches.carry h2 (restoreTiles_touches ..)
        obtain ⟨s3, h3, rfl⟩ := Option.map_eq_some_iff.1 h
        have h3 := Touches.carry h3 (restoreEngs_touches ..)
        have n2 := (n1.touches (restoreLines_touches m1 d s1) (by decide)).touches h2 (by decide)
        have n3 := (n2.touches h3 (by decide)).touches (restoreRest_touches m1 d s3) (by decide)
        exact (n3.touches (endsTo_touches ..) (by decide)).touches (powerPages_touches ..) (by decide)

theorem restoreImage_names {s x : State} {d : SaveData} {reloc : List (Nat × Nat × Nat)} {n : Nat}
    (h : restoreImage s d reloc = .ok (x, n)) : Names x (s.cur.pkg, n) := by
  unfold restoreImage at h
  extract_lets pkg die0 at h
  split at h
  · cases h
  · split at h
    · cases h
    · next h1 =>
      have n1 := restoreSet_names h1
      split at h
      · cases h
      · next s2 ks hc =>
        have h2 := Touches.carry hc (openChans_touches ..)
        cases h
        exact (n1.touches h2 (by decide)).modGraph _

theorem pageError_eq {s t : State} {ps : List (Nat × Nat × Nat)} (h : pageError s ps = some t) :
    t = { s with badPages := t.badPages } := by
  unfold pageError at h
  split at h
  · cases h; rfl
  · cases h

/-- Settles O21: each instruction takes its outcomes in turn; a restored set's handle is the key under which it was
placed. -/
theorem pageSetInstructions : Obligations.PageSetInstructions := by
  intro s rd rs1 rs2 h key
  refine ⟨fun hr hm g hg => ?_, fun g hg hf => ?_, fun hr hq hp ps bs u h1 h2 h3 => ?_⟩
  · have hz := exec_freeze (rd := rd) hr hm hg
    refine ⟨fun hf => asyncDone_issues (hz.trans (next_if_pos hf)),
      fun hf => asyncIssue_issues (hz.trans (next_if_neg (by rw [hf]; decide))),
      fun hf hn => asyncDone_issues ((exec_savec hr hm hg hf).trans (next_if_pos (by rw [hn]; rfl))),
      fun hf hn hsq => ?_⟩
    intro d bs
    have hx := exec_savec_quiet (rd := rd) (rs2 := rs2) hr hm hg hf hn hsq
    exact ⟨fun hb => asyncDone_issues (hx.trans (congrArg _ (savecOut_bad hb))),
      fun hb hl => asyncDone_issues (hx.trans (congrArg _ ((savecOut_sound hb).trans (if_pos hl)))),
      fun hb hl hq => hx.trans (congrArg _ (savecOut_waits hb hl hq)),
      fun ps hb hl hq hp => asyncDone_issues (hx.trans (congrArg _ (savecOut_writes hb hl hq hp)))⟩
  · have hx := exec_thaw (rd := rd) hg hf
    exact ⟨fun hz => finish_gives (hx.trans (next_if_pos hz)) rfl,
      fun hz => finish_gives (hx.trans (next_if_neg (by rw [hz]; decide))) rfl⟩
  · have hx := exec_restc (rd := rd) hr hq h1 h2 h3
    have hcur : u.cur = s.cur := by
      have h := (readPieces_touches s ps).same .cur (by decide)
      rw [h3] at h
      exact h
    rw [show s.cur.pkg = u.cur.pkg from by rw [hcur]]
    refine ⟨fun e he => asyncDone_issues (hx.trans (by rw [he])), fun d hd => ?_⟩
    have ho : exec (.restc rd rs1) s = .next (restcOut u rd d) := hx.trans (by rw [hd])
    refine ⟨fun r hr => ⟨fun x n hi => ⟨fun hb => ⟨?_, restoreImage_names (s := forgetRoom u _) hi⟩, fun y hb => ⟨?_, pageError_eq hb⟩⟩,
      fun e hi => ?_⟩, fun hn hc => ?_⟩
    · exact asyncDone_issues (ho.trans (congrArg _ (restcOut_placed rd hr hi hb)))
    · exact asyncDone_issues (ho.trans (congrArg _ (restcOut_badPage rd hr hi hb)))
    · exact asyncDone_issues (ho.trans (congrArg _ (restcOut_fails rd hr hi)))
    · exact asyncDone_issues (ho.trans (congrArg _ (restcOut_full rd hn hc)))

end Sys2Proof.Machine
end

section
/-!
PROOFS. Proofs/Sectors.lean: an owner performs a request: what a read, a write and an atomic leave (spec/10 R229;
spec/13 R300; spec/17 R375).
-/
namespace Sys2Proof.Machine

/-! ### Bytes of a doubleword -/

theorem leBytes_length (n v : Nat) : (leBytes n v).length = n := by
  induction n generalizing v with
  | zero => rfl
  | succ n ih => exact congrArg (· + 1) (ih _)

theorem leBytes_leNat (bs : List Byte) : leBytes bs.length (leNat bs) = bs := by
  induction bs with
  | nil => rfl
  | cons b bs ih =>
    have h1 : (b.toNat + 256 * leNat bs) / 256 = leNat bs := by have := b.isLt; omega
    have h2 : BitVec.ofNat 8 (b.toNat + 256 * leNat bs) = b := by
      apply BitVec.eq_of_toNat_eq
      rw [BitVec.toNat_ofNat]
      have := b.isLt
      omega
    show BitVec.ofNat 8 (b.toNat + 256 * leNat bs) :: leBytes bs.length ((b.toNat + 256 * leNat bs) / 256) = b :: bs
    rw [h1, h2, ih]

theorem leNat_lt (bs : List Byte) : leNat bs < 256 ^ bs.length := by
  induction bs with
  | nil => exact Nat.one_pos
  | cons b bs ih =>
    have hb := b.isLt
    show b.toNat + 256 * leNat bs < 256 ^ (bs.length + 1)
    rw [Nat.pow_succ]
    omega

/-- The bytes of the word of eight bytes are the bytes. -/
theorem leBytes_leWord {bs : List Byte} (h : bs.length = 8) : leBytes 8 (leWord bs).toNat = bs := by
  have hl := leNat_lt bs
  rw [h] at hl
  unfold leWord
  rw [BitVec.toNat_ofNat, Nat.mod_eq_of_lt (by simpa using hl)]
  have := leBytes_leNat bs
  rwa [h] at this

theorem memRead_length (m : Memory) (x n : Nat) : (memRead m x n).length = n := by
  unfold memRead
  rw [List.length_map, List.length_range]

/-! ### What stands in HBM -/

theorem StoresHbm.after {s t u : State} {a : Nat} {bs : List Byte} (h : StoresHbm s t a bs) (hu : SameBytes t u) :
    StoresHbm s u a bs := by
  obtain ⟨h1, h2, h3⟩ := h
  exact ⟨fun k hk => (hu _).1.trans (h1 k hk), fun x hx => (hu _).1.trans (h2 x hx),
    fun x => ⟨(hu x).2.1.trans (h3 x).1, (hu x).2.2.trans (h3 x).2⟩⟩

theorem StoresHbm.before {s t u : State} {a : Nat} {bs : List Byte} (hs : SameBytes s t) (h : StoresHbm t u a bs) :
    StoresHbm s u a bs := by
  obtain ⟨h1, h2, h3⟩ := h
  exact ⟨h1, fun x hx => (h2 x hx).trans (hs _).1, fun x => ⟨(h3 x).1.trans (hs x).2.1, (h3 x).2.trans (hs x).2.2⟩⟩

/-- Bytes that already stand there. -/
theorem StoresHbm.standing {s t : State} (h : SameBytes s t) (a n : Nat) : StoresHbm s t a (memRead s.hbm a n) := by
  refine ⟨fun k hk => (h _).1.trans ?_, fun x _ => (h _).1, fun x => (h x).2⟩
  simp only [memRead, List.getElem_map, List.getElem_range]

theorem writeHbm_hbm (s : State) (g : Nat) (bs : List Byte) : (writeHbm s g bs).hbm = memWrite s.hbm g bs := by
  unfold writeHbm
  extract_lets n s'
  have h : Touches [.ecc, .eccL0, .bankModes] s s' := .foldl (fun u a => (eccWrite_touches ..).mono (by decide)) _ _
  exact congrArg (memWrite · g bs) (h.same .hbm (by decide))

theorem writeHbm_stores {s : State} (hs : s.MemOk) (g : Nat) (bs : List Byte) : StoresHbm s (writeHbm s g bs) g bs := by
  have ht := writeHbm_touches s g bs
  refine ⟨fun k hk => ?_, fun x hx => ?_, fun x => ⟨?_, ?_⟩⟩
  · rw [writeHbm_hbm]
    exact memGet_memWrite_same hs.1 hk
  · rw [writeHbm_hbm]
    exact memGet_memWrite_other _ _ _ hx
  · rw [show (writeHbm s g bs).l0 = s.l0 from ht.same .l0 (by decide)]
  · rw [show (writeHbm s g bs).hostMem = s.hostMem from ht.same .hostMem (by decide)]

/-! ### Performing a request -/

/-- What an atomic stores is the result of its operation, and it stores nothing only when that is the old value. -/
theorem amoValue_result (op : Nat) (old v c : Word) : (amoValue op old v c).1 = atomicResult op old v c ∧
    ((amoValue op old v c).2 = false → atomicResult op old v c = old) := by
  unfold amoValue atomicResult
  split
  · exact ⟨rfl, fun h => nomatch h⟩
  · exact ⟨rfl, fun h => nomatch h⟩
  · exact ⟨rfl, fun h => nomatch h⟩
  · exact ⟨rfl, fun h => nomatch h⟩
  · exact ⟨rfl, fun h => nomatch h⟩
  · refine ⟨?_, fun h => nomatch h⟩
    show minS old v = _
    simp only [minS, BitVec.slt_iff_toInt_lt]
  · refine ⟨?_, fun h => nomatch h⟩
    show maxS old v = _
    simp only [maxS, BitVec.slt_iff_toInt_lt]
  · by_cases h : old = c
    · rw [if_pos h, if_pos h]
      exact ⟨rfl, fun hv => by simpa using hv⟩
    · rw [if_neg h, if_neg h]
      exact ⟨rfl, fun _ => rfl⟩
  · simp only [BitVec.ult_iff_toNat_lt]
    split
    · exact ⟨rfl, fun h => nomatch h⟩
    · exact ⟨rfl, fun _ => rfl⟩

section
variable {s : State} {r : Req} (hh : r.host = false)
include hh

theorem performReq_denied (h : rangeOk s r.part r.pa = false) : performReq s r = ({ r with denied := true, st := .done }, s) := by
  unfold performReq
  simp only [hh, h, Bool.false_eq_true, if_false, Bool.not_false, if_true]

variable (ho : rangeOk s r.part r.pa = true)
include ho

theorem performReq_read (h : r.op = .read) : performReq s r =
    ({ r with data := memRead s.hbm r.pa r.len, bad := (wordsOf r.pa r.len).any (eccBad s false), st := .done },
      (readHbm s r.pa r.len).2.2) := by
  unfold performReq
  simp only [hh, ho, h, Bool.false_eq_true, if_false, Bool.not_true]
  rfl

theorem performReq_write {d : List Byte} (h : r.op = .write d false) :
    performReq s r = ({ r with st := .done }, writeHbm s r.pa d) := by
  unfold performReq
  simp only [hh, ho, h, Bool.false_eq_true, if_false, Bool.not_true]

theorem performReq_atomic {op : Nat} {v c : Word} (hs : s.MemOk) (h : r.op = .atomic op v c)
    (hb : (wordsOf r.pa 8).any (eccBad s false) = false) :
    (performReq s r).1 = { r with data := memRead s.hbm r.pa 8, bad := false, st := .done } ∧
      StoresHbm s (performReq s r).2 r.pa (leBytes 8 (atomicResult op (leWord (memRead s.hbm r.pa 8)) v c).toNat) ∧
      Touches [.hbm, .ecc, .eccL0, .bankModes] s (performReq s r).2 := by
  have hr := readHbm_touches s r.pa 8
  obtain ⟨hv, hk⟩ := amoValue_result op (leWord (memRead s.hbm r.pa 8)) v c
  have e : performReq s r = ({ r with data := memRead s.hbm r.pa 8, bad := (wordsOf r.pa 8).any (eccBad s false), st := .done },
      if (wordsOf r.pa 8).any (eccBad s false) || !(amoValue op (leWord (memRead s.hbm r.pa 8)) v c).2 then
        (readHbm s r.pa 8).2.2
      else writeHbm (readHbm s r.pa 8).2.2 r.pa (leBytes 8 (amoValue op (leWord (memRead s.hbm r.pa 8)) v c).1.toNat)) := by
    unfold performReq
    simp only [hh, ho, h, Bool.false_eq_true, if_false, Bool.not_true]
    rfl
  rw [e, hb, hv]
  refine ⟨rfl, ?_, ?_⟩
  · cases hc : (amoValue op (leWord (memRead s.hbm r.pa 8)) v c).2 with
    | true => exact .before (hr.sameBytes (by decide)) (writeHbm_stores (hr.memOk (by decide) hs) ..)
    | false =>
      rw [hk hc, leBytes_leWord (memRead_length ..)]
      exact .standing (hr.sameBytes (by decide)) ..
  · dsimp only
    split
    · exact hr.mono (by decide)
    · exact (writeHbm_touches ..).after (by decide) (hr.mono (by decide))

end

/-! ### A sector access at its owner -/

theorem answerReq_reqs (s : State) (r : Req) :
    (answerReq s r).reqs = s.reqs.map fun x => if x.id = r.id then r else x :=
  (leaveOwner_touches (putReq s r) r).same .reqs (by decide)

/-- The slots that a sector access needs at its owner. -/
def sectorSlots (s : State) (e : Eng) (r : Req) : Bool :=
  slotGrants s e r.part && crossGrants s (reqSrc e.pkg (reqDie r.from_) r.from_) e r.part

section
variable {s : State} {e : Eng} {n : Nat} {r : Req} (hf : s.reqs.find? (·.id = n) = some r) (hq : r.st = .queued)
  (hw : reqWaits s r = false) (hh : r.host = false) (he : r.owner = e)
include hf hq hw hh he

theorem exec_hbmSectorAccess : exec (.hbmSectorAccess e n) s = .next (if sectorSlots s e r = false then s
      else if hbmWatch s e r = true then raise (putReq s { r with st := .held })
        { dest := reqReport s r, cause := 0x020C, tval := BitVec.ofNat 64 (r.pa / 64 * 64),
          tcoord := coordNat { eng := e }, lid := r.lid, held := .request r.id, src := e }
      else answerReq (performReq s r).2 (performReq s r).1) := by
  show execHbmSectorAccess e n s = _
  have hc : (slotGrants s e r.part = false ∨ crossGrants s (reqSrc e.pkg (reqDie r.from_) r.from_) e r.part = false) ↔
      sectorSlots s e r = false := by
    unfold sectorSlots
    rw [Bool.and_eq_false_iff]
  simp only [execHbmSectorAccess, hf, hq, hw, hh, he, ne_eq, not_true_eq_false, Bool.false_eq_true, or_self, if_false, false_or,
    Bool.not_eq_true', hc]

/-- A request that is performed: what holds of its answer and of the state that it leaves. -/
theorem sectorAccess_answers {q : Req} {u : State} {P : State → Prop} (hs : sectorSlots s e r = true)
    (hn : hbmWatch s e r = false) (hp : performReq s r = (q, u)) (hid : q.id = r.id)
    (hP : ∀ t, SameBytes u t → P t) : ∃ t, exec (.hbmSectorAccess e n) s = .next t ∧
      (t.reqs = s.reqs.map (fun x => if x.id = r.id then q else x) ∧ t.threads = s.threads) ∧ P t := by
  have hx := exec_hbmSectorAccess hf hq hw hh he
  rw [if_neg (by rw [hs]; decide), if_neg (by rw [hn]; decide), hp] at hx
  have hu := performReq_touches s r
  rw [hp] at hu
  have ha := answerReq_touches u q
  refine ⟨_, hx, ⟨(answerReq_reqs u q).trans ?_, Eq.trans (ha.same .threads (by decide)) (hu.same .threads (by decide))⟩,
    hP _ (ha.sameBytes (by decide))⟩
  rw [hid]
  exact congrArg _ (hu.same .reqs (by decide))

end

/-- Settles O37: the outcomes of the access in the order of its checks; what is stored is what its one write stores. -/
theorem hbmSectorAccess : Obligations.HbmSectorAccess := by
  intro s e n r hm hf hq hw hh he i ends slots
  have hx := exec_hbmSectorAccess hf hq hw hh he
  refine ⟨fun hs => hx.trans (next_if_pos hs), fun hs hn => ⟨fun ho => ?_, fun ho => ⟨fun hop => ?_, fun d hop => ?_,
    fun op v c hop hb => ?_⟩⟩, fun hs hn => ?_⟩
  · obtain ⟨t, h1, h2, h3⟩ := sectorAccess_answers (P := SameBytes s) hf hq hw hh he hs hn (performReq_denied hh ho) rfl
      fun t h => h
    exact ⟨t, h1, h2, h3⟩
  · obtain ⟨t, h1, h2, h3⟩ := sectorAccess_answers (P := SameBytes s) hf hq hw hh he hs hn (performReq_read hh ho hop) rfl
      fun t h => ((readHbm_touches ..).sameBytes (by decide)).trans h
    exact ⟨t, h1, h3, h2⟩
  · exact sectorAccess_answers hf hq hw hh he hs hn (performReq_write hh ho hop) rfl
      fun t h => (writeHbm_stores hm ..).after h
  · obtain ⟨h1, h2, -⟩ := performReq_atomic hh ho hm hop hb
    exact sectorAccess_answers hf hq hw hh he hs hn (Prod.ext h1 rfl) rfl fun t h => h2.after h
  · exact ⟨_, hx.trans ((next_if_neg (by rw [show sectorSlots s e r = true from hs]; decide)).trans (next_if_pos hn)),
      fun a => ⟨rfl, rfl, rfl⟩, ⟨rfl, rfl⟩, _, rfl, rfl, rfl, rfl⟩

end Sys2Proof.Machine
end

section
/-!
PROOFS. Proofs/Remote.lean: requests of other packages at their owner, and their answers (spec/17 R363, R376).
-/
namespace Sys2Proof.Machine

/-! ### Packets that go out and come in -/

theorem takePkt_packets (s : State) (e : Eng) (p : Pkt) :
    ∃ q, (takePkt s e p).packets = s.packets ++ [q] ∧ q.hdr.dst = p.hdr.dst ∧ q.body = p.body := ⟨_, rfl, rfl, rfl⟩

/-- A packet for which its engine has room is sent. -/
theorem sendPkt_room {s : State} {e : Eng} {p : Pkt} (h : straitRoom s e p = true) :
    ∃ q, (sendPkt s e p).packets = s.packets ++ [q] ∧ q.hdr.dst = p.hdr.dst ∧ q.body = p.body := by
  let s1 := (fresh { s with exits := tset (p.hdr.src.eng, p.hdr.dst.eng.pkg) e.page s.exits }).2
  have e : sendPkt s e p = takePkt s1 e { p with id := s.nextId } := if_pos h
  rw [e]
  exact takePkt_packets s1 _ _

theorem straitRoom_congr {s t : State} (h : t.straits = s.straits) (e : Eng) (p : Pkt) : straitRoom t e p = straitRoom s e p := by
  unfold straitRoom getStrait
  rw [h]

theorem inboxAt_inside {s : State} {n : Nat} {p : Pkt} (h : s.inbox[n]? = some p) (hw : waitsInside p = true) :
    inboxAt s n = some p := by
  unfold inboxAt
  rw [h]
  exact if_pos (by show (waitsInside p || _) = true; rw [hw]; rfl)

theorem inboxAt_first {s : State} {n : Nat} {p : Pkt} (h : s.inbox[n]? = some p)
    (hb : ∀ x ∈ s.inbox.take n, waitsInside x = true ∨ x.hdr.src.eng ≠ p.hdr.src.eng ∨ x.hdr.dst.eng ≠ p.hdr.dst.eng) :
    inboxAt s n = some p := by
  have ha : (s.inbox.take n).any (fun q => decide (q.hdr.src.eng = p.hdr.src.eng) &&
      decide (q.hdr.dst.eng = p.hdr.dst.eng) && !waitsInside q) = false := List.any_eq_false.2 fun x hx => by
    rcases hb x hx with h | h | h <;> simp [h]
  unfold inboxAt
  rw [h]
  exact if_pos (by simp only [ha, Bool.not_false, Bool.or_true])

/-! ### The owner -/

/-- A request of another package that its owner may perform now: no report of the owner's filter is out for it, and none is due. -/
structure MayPerform (s : State) (p : Pkt) (r : Req) : Prop where
  here : r.owner.pkg = p.hdr.dst.eng.pkg
  slot : slotGrants s r.owner r.part = true
  crossed : crossGrants s { p.src with pkg := r.owner.pkg } r.owner r.part = true
  clear : reqWaits s { r with unfiltered := false } = false
  unheld : ∀ q, s.reqs.find? (·.id = r.id) = some q → q.st ≠ .held ∧ q.unfiltered = false
  unwatched : hbmWatch s r.owner { r with unfiltered := false } = false
  live : (getPart s (r.owner.pkg, r.part)).flr = 0
  inHbm : r.host = false
  inRange : rangeOk s r.part r.pa = true

/-- The header of the answer to a request. -/
def answerHdr (p : Pkt) (r : Req) : Token :=
  { dst := p.hdr.src, src := { eng := r.owner }, kind := 3, lid := r.lid, part := r.part, vc := 2,
    opw := BitVec.ofNat 128 p.hdr.seq }

/-- The answer to a request that its owner has performed. -/
def answerPkt (s : State) (p : Pkt) (r x : Req) : Pkt :=
  { hdr := answerHdr p r, body := .readResponse r.id (wholeSector s r x.data) x.bad x.denied }

section
variable {s : State} {n : Nat} {p : Pkt} {r : Req} (h : MayPerform s p r)
include h

/-- What the owner does with the request that it performs. -/
theorem performRemote_performs (answer : Bool) : performRemote s n p r answer =
    let x := performReq s { r with unfiltered := false }
    if answer = true then
      match (egress s r.owner p.hdr.src.eng.pkg).filter (straitRoom s · (answerPkt s p { r with unfiltered := false } x.1)) with
      | some e => sendPkt (dropInbox x.2 n) e (answerPkt s p { r with unfiltered := false } x.1)
      | none => s
    else answerReq (dropInbox x.2 n) x.1 := by
  obtain ⟨h1, h2, h3, h4, h5, h6, h7, -, -⟩ := h
  have hu : ((s.reqs.find? (·.id = r.id)).map (·.unfiltered)).getD false = false := by
    cases hq : s.reqs.find? (·.id = r.id) with
    | none => rfl
    | some q => exact (h5 q hq).2
  have hst : (s.reqs.find? (·.id = r.id)).map (·.st) ≠ some .held := by
    cases hq : s.reqs.find? (·.id = r.id) with
    | none => exact fun e => nomatch e
    | some q => exact fun e => (h5 q hq).1 (Option.some.inj e)
  have hne : ¬r.owner.pkg ≠ p.hdr.dst.eng.pkg := not_not_intro h1
  unfold performRemote
  simp only [hu, hne, h2, h3, h4, h6, h7, hst, Bool.not_true, Bool.false_eq_true, or_self, if_false, if_true]
  rfl

/-- A request whose answer has no engine with room is not performed. -/
theorem performRemote_noRoom {out : Pkt} (ho : answerPkt s p r (performReq s { r with unfiltered := false }).1 = out)
    (hn : ∀ e, egress s r.owner p.hdr.src.eng.pkg = some e → straitRoom s e out = false) :
    performRemote s n p r true = s := by
  subst ho
  have hf : (egress s r.owner p.hdr.src.eng.pkg).filter
      (straitRoom s · (answerPkt s p { r with unfiltered := false } (performReq s { r with unfiltered := false }).1)) = none := by
    rw [Option.filter_eq_none_iff]
    intro e he
    rw [Bool.not_eq_true]
    exact hn e he
  rw [performRemote_performs h true]
  simp only [hf, if_true]

/-- A request whose answer has an engine with room is performed and its answer sent. -/
theorem performRemote_answers {out : Pkt} {e : Eng} {P : State → Prop}
    (ho : answerPkt s p r (performReq s { r with unfiltered := false }).1 = out)
    (he : egress s r.owner p.hdr.src.eng.pkg = some e) (hr : straitRoom s e out = true)
    (hP : ∀ t, SameBytes (performReq s { r with unfiltered := false }).2 t → P t) :
    (performRemote s n p r true).inbox = s.inbox.eraseIdx n ∧ (performRemote s n p r true).threads = s.threads ∧
      P (performRemote s n p r true) ∧
      ∃ q, (performRemote s n p r true).packets = s.packets ++ [q] ∧ q.hdr.dst = p.hdr.src ∧ q.body = out.body := by
  subst ho
  have hf : (egress s r.owner p.hdr.src.eng.pkg).filter
      (straitRoom s · (answerPkt s p { r with unfiltered := false } (performReq s { r with unfiltered := false }).1)) = some e := by
    rw [he]
    exact if_pos hr
  rw [performRemote_performs h true]
  simp only [hf, if_true]
  have hx := performReq_touches s { r with unfiltered := false }
  generalize performReq s { r with unfiltered := false } = x at *
  have hd := dropInbox_touches x.2 n
  have hs := sendPkt_touches (dropInbox x.2 n) e (answerPkt s p { r with unfiltered := false } x.1)
  have hroom : straitRoom (dropInbox x.2 n) e (answerPkt s p { r with unfiltered := false } x.1) = true :=
    (straitRoom_congr (t := dropInbox x.2 n) (hx.same .straits (by decide)) e _).trans hr
  obtain ⟨q, hq, hqd, hqb⟩ := sendPkt_room hroom
  refine ⟨Eq.trans (hs.same .inbox (by decide)) (congrArg (·.eraseIdx n) (hx.same .inbox (by decide))),
    Eq.trans (hs.same .threads (by decide)) (hx.same .threads (by decide)),
    hP _ ((hd.sameBytes (by decide)).trans (hs.sameBytes (by decide))), q, hq.trans ?_, hqd, hqb⟩
  exact congrArg (· ++ [q]) (hx.same .packets (by decide))

end

theorem exec_hbmRead {s : State} {n : Nat} {p : Pkt} {r : Req} (hn : s.inbox[n]? = some p) (hb : p.body = .hbmRead r) :
    exec (.hbmRead n) s = .next (performRemote s n p r true) := by
  have hi : inboxAt s n = some p := inboxAt_inside hn (by unfold waitsInside isHbmReq; rw [hb]; rfl)
  show execHbmRead n s = _
  simp only [execHbmRead, hi, hb]

theorem exec_hbmWrite {s : State} {n : Nat} {p : Pkt} {r : Req} (hn : s.inbox[n]? = some p) (hb : p.body = .hbmWrite r) :
    exec (.hbmWrite n) s = .next (performRemote s n p r false) := by
  have hi : inboxAt s n = some p := inboxAt_inside hn (by unfold waitsInside isHbmReq; rw [hb]; rfl)
  show execHbmWrite n s = _
  simp only [execHbmWrite, hi, hb]

theorem exec_hbmAtomic {s : State} {n : Nat} {p : Pkt} {r : Req} (hn : s.inbox[n]? = some p) (hb : p.body = .hbmAtomic r) :
    exec (.hbmAtomic n) s = .next (performRemote s n p r true) := by
  have hi : inboxAt s n = some p := inboxAt_inside hn (by unfold waitsInside isHbmReq; rw [hb]; rfl)
  show execHbmAtomic n s = _
  simp only [execHbmAtomic, hi, hb]

/-- A write of another package is performed and its request ends. -/
theorem performRemote_writes {s : State} {n : Nat} {p : Pkt} {r : Req} {d : List Byte} (h : MayPerform s p r) (hm : s.MemOk)
    (hop : r.op = .write d false) : (performRemote s n p r false).inbox = s.inbox.eraseIdx n ∧
      StoresHbm s (performRemote s n p r false) r.pa d ∧ (performRemote s n p r false).threads = s.threads ∧
      (performRemote s n p r false).reqs =
        s.reqs.map fun x => if x.id = r.id then { r with unfiltered := false, st := .done } else x := by
  rw [performRemote_performs h false, performReq_write (r := { r with unfiltered := false }) h.inHbm h.inRange hop]
  have hw := writeHbm_touches s r.pa d
  have ha := answerReq_touches (dropInbox (writeHbm s r.pa d) n) { r with unfiltered := false, st := .done }
  have hd := dropInbox_touches (writeHbm s r.pa d) n
  refine ⟨Eq.trans (ha.same .inbox (by decide)) (congrArg (·.eraseIdx n) (hw.same .inbox (by decide))),
    (writeHbm_stores hm ..).after ((hd.sameBytes (by decide)).trans (ha.sameBytes (by decide))),
    Eq.trans (ha.same .threads (by decide)) (hw.same .threads (by decide)), (answerReq_reqs ..).trans ?_⟩
  exact congrArg _ (hw.same .reqs (by decide))

theorem exec_readResponse {s : State} {n k : Nat} {p : Pkt} {d : List Byte} {bad den : Bool} {q : Req}
    (hi : inboxAt s n = some p) (hb : p.body = .readResponse k d bad den) (hq : s.reqs.find? (·.id = k) = some q) :
    exec (.readResponse n) s = .next (answerReq (dropInbox s n)
      { q with st := .done, data := if q.op = .read then (d.drop (q.pa % 64)).take q.len else d, bad := bad, denied := den }) := by
  have hd : ofSector q d = if q.op = .read then (d.drop (q.pa % 64)).take q.len else d := by
    unfold ofSector
    split
    · next h => rw [if_pos h]
    · next h => rw [if_neg h]
  have hq' : (dropInbox s n).reqs.find? (·.id = k) = some q := hq
  show execReadResponse n s = _
  simp only [execReadResponse, hi, hb, hq', hd]

/-- Settles O38: what the owner performs is what it would perform for a local request; the answer's bytes are those of its
sector. -/
theorem remoteRequests : Obligations.RemoteRequests := by
  intro s n p r hm hn
  refine ⟨fun h1 h2 h3 h4 h5 h6 h7 h8 h9 => ?_, fun k d bad den q hb hq hfirst => ?_⟩
  · have h : MayPerform s p r := ⟨h1, h2, h3, h4, h5, h6, h7, h8, h9⟩
    intro sector hdr answers
    refine ⟨fun hb hop => ?_, fun d hb hop => ⟨_, exec_hbmWrite hn hb, performRemote_writes h hm hop⟩, fun op v c hb hop he => ?_⟩
    · have hx := exec_hbmRead hn hb
      have hp := performReq_read (s := s) (r := { r with unfiltered := false }) h8 h9 hop
      have ho : answerPkt s p r (performReq s { r with unfiltered := false }).1 =
          { hdr := hdr, body := .readResponse r.id sector ((wordsOf r.pa r.len).any (eccBad s false)) r.denied } := by
        rw [hp]
        unfold answerPkt wholeSector
        rw [hop]
        rfl
      refine ⟨fun hno => hx.trans (congrArg _ (performRemote_noRoom h ho hno)), fun e he hr =>
        ⟨_, hx, performRemote_answers (P := SameBytes s) h ho he hr fun t ht => ?_⟩⟩
      rw [hp] at ht
      exact ((readHbm_touches ..).sameBytes (by decide)).trans ht
    · have hx := exec_hbmAtomic hn hb
      obtain ⟨hp, hs, -⟩ := performReq_atomic (s := s) (r := { r with unfiltered := false }) h8 h9 hm hop he
      have ho : answerPkt s p r (performReq s { r with unfiltered := false }).1 =
          { hdr := hdr, body := .readResponse r.id (memRead s.hbm r.pa 8) false r.denied } := by
        rw [hp]
        unfold answerPkt wholeSector
        rw [hop]
        rfl
      exact ⟨fun hno => hx.trans (congrArg _ (performRemote_noRoom h ho hno)), fun e he hr =>
        ⟨_, hx, performRemote_answers h ho he hr fun t ht => hs.after ht⟩⟩
  · intro got
    have hid : q.id = k := by simpa using List.find?_some hq
    have ha := answerReq_touches (dropInbox s n) { q with st := .done, data := got, bad := bad, denied := den }
    refine ⟨_, exec_readResponse (inboxAt_first hn hfirst) hb hq, ha.same .inbox (by decide),
      ((dropInbox_touches s n).sameBytes (by decide)).trans (ha.sameBytes (by decide)), ha.same .threads (by decide), ?_⟩
    rw [← hid]
    exact answerReq_reqs ..

end Sys2Proof.Machine
end

section
/-!
PROOFS. Proofs/Walks.lean: page walks at the owners of their entries, and the slots that the engines grant (spec/16 R348 to
R359).
-/
namespace Sys2Proof.Machine

/-! ### One level of a walk -/

section
variable {s : State} {w : Walk} {g : Nat} (n : Nat)

theorem walkEntry_in (h : w.table + vaIndex (w.vpage * 8192) w.lvl * 8 < hbmSize) :
    walkEntry w = some (gpa w.pkg (w.table + vaIndex (w.vpage * 8192) w.lvl * 8)) := if_neg (Nat.not_le.2 h)

theorem walkEntry_out (h : hbmSize ≤ w.table + vaIndex (w.vpage * 8192) w.lvl * 8) : walkEntry w = none := if_pos h

theorem walkOn_outside (h : walkEntry w = none) : walkOn s w (n + 1) = (s, { w with fault := 3 }, none) := by
  unfold walkOn
  rw [h]

variable (h : walkEntry w = some g)
include h

theorem walkOn_noSlot (hg : walkGrants s (ownerOf g) w.part = false) : walkOn s w (n + 1) = (s, w, none) := by
  unfold walkOn
  simp only [h, hg, Bool.not_false, if_true]

variable (hg : walkGrants s (ownerOf g) w.part = true)
include hg

theorem walkOn_bad (hb : (wordsOf g 8).any (eccBad s false) = true) :
    (walkOn s w (n + 1)).2 = ({ w with fault := 2 }, none) := by
  have hx : (readHbm s g 8).2.1 = true := hb
  unfold walkOn
  simp only [h, hg, hx, Bool.not_true, Bool.false_eq_true, if_false, if_true]

variable (hb : (wordsOf g 8).any (eccBad s false) = false)
include hb

/-- What a walk does with a sound entry in a slot. -/
theorem walkOn_reads : walkOn s w (n + 1) =
    let v := (readHbm s g 8).2.2; let e := leNat (memRead s.hbm g 8)
    if bit e 0 = false then (v, { w with fault := 1 }, none)
    else if pteBad w.lvl e = true then (v, { w with fault := 2 }, none)
    else if bit e 1 = true then (v, w, some (e, 13 + 10 * w.lvl))
    else walkOn v { w with lvl := w.lvl - 1, table := bits e 43 13 * 2 ^ 13 } n := by
  have hx : (readHbm s g 8).2.1 = false := hb
  have hd : (readHbm s g 8).1 = memRead s.hbm g 8 := rfl
  conv => lhs; unfold walkOn
  simp only [h, hg, hx, hd, Bool.not_true, Bool.false_eq_true, if_false, Bool.not_eq_true']

end

/-- A table entry that is not wrong does not stand in a table of level 0. -/
theorem lvl_pos_of_table {lvl e : Nat} (hp : pteBad lvl e = false) (h1 : bit e 1 = false) : 0 < lvl := by
  refine Nat.pos_of_ne_zero fun h => ?_
  subst h
  simp [pteBad, h1] at hp

theorem walkGrants_congr {s t : State} {l : List Field} (h : Touches l s t)
    (hl : ∀ f ∈ [Field.slotTabs, .packages, .partitions], f ∉ l) (e : Eng) (part : Nat) :
    walkGrants t e part = walkGrants s e part := by
  have h1 : t.slotTabs = s.slotTabs := h.same .slotTabs (hl _ (by decide))
  have h2 : t.packages = s.packages := h.same .packages (hl _ (by decide))
  have h3 : t.partitions = s.partitions := h.same .partitions (hl _ (by decide))
  unfold walkGrants slotGrants slotEntry granted getSlotTab getPkg getPart
  rw [h1, h2, h3]

/-! ### PAGE_WALK -/

theorem map_replace_self {α : Type} [DecidableEq α] (l : List α) (x : α) : l.map (fun y => if y = x then x else y) = l := by
  conv => rhs; rw [← List.map_id l]
  refine List.map_congr_left fun y _ => ?_
  split
  · next h => exact h.symm
  · rfl

/-- The walk of a page that engine e waits for. -/
def isWalk (e : Eng) (part vpage : Nat) (w : Walk) : Bool := walkFor w e part vpage && w.engs.contains e

section
variable {s : State} {e : Eng} {part vpage : Nat}

theorem exec_pageWalk_none (h : ∀ w ∈ walkers s e.pkg e.die, isWalk e part vpage w = false) :
    exec (.pageWalk e part vpage) s = .next s := by
  have hf : (walkers s e.pkg e.die).find? (isWalk e part vpage) = none :=
    List.find?_eq_none.2 fun w hw => by rw [h w hw]; decide
  show execPageWalk e part vpage s = _
  unfold execPageWalk
  rw [show ((walkers s e.pkg e.die).find? fun w => walkFor w e part vpage && w.engs.contains e) = none from hf]

variable {w : Walk} (hf : (walkers s e.pkg e.die).find? (isWalk e part vpage) = some w)
include hf

theorem walk_spec : w.pkg = e.pkg ∧ w.part = part ∧ w.vpage = vpage := by
  have h := List.find?_some hf
  simp only [isWalk, walkFor, Bool.and_eq_true, decide_eq_true_eq] at h
  exact ⟨h.1.1.1.1, h.1.1.2, h.1.2⟩

theorem exec_pageWalk {v : State} {w' : Walk} {x : Option (Nat × Nat)} (hw : walkOn s w (w.lvl + 1) = (v, w', x)) :
    exec (.pageWalk e part vpage) s = .next (match (motive := Option (Nat × Nat) → State) x with
      | some (ent, sz) => { v with walks := v.walks.filter (· ≠ w), tlb := fillTlb v.tlb w ent sz }
      | none => { v with walks := v.walks.map fun y => if y = w then w' else y }) := by
  show execPageWalk e part vpage s = _
  unfold execPageWalk
  rw [show ((walkers s e.pkg e.die).find? fun w => walkFor w e part vpage && w.engs.contains e) = some w from hf]
  simp only [hw] <;> rfl

theorem pageWalk_waits (hw : walkOn s w (w.lvl + 1) = (s, w, none)) : exec (.pageWalk e part vpage) s = .next s := by
  rw [exec_pageWalk hf hw]
  simp only [map_replace_self]

/-- A walk that has come to no leaf: it stands where it is now. -/
theorem pageWalk_becomes {w' : Walk} (hw : (walkOn s w (w.lvl + 1)).2 = (w', none)) :
    ∃ u, exec (.pageWalk e part vpage) s = .next u ∧ u.walks = s.walks.map (fun y => if y = w then w' else y) ∧
      u.tlb = s.tlb ∧ u.threads = s.threads ∧ SameBytes s u := by
  have ht := walkOn_touches s w (w.lvl + 1)
  have hx := exec_pageWalk hf (v := (walkOn s w (w.lvl + 1)).1) (w' := w') (x := none) (Prod.ext rfl hw)
  refine ⟨_, hx, ?_, ht.same .tlb (by decide), ht.same .threads (by decide), ht.sameBytes (by decide)⟩
  exact congrArg (List.map _) (ht.same .walks (by decide))

end

/-! ### The TLBs -/

/-- The entry of a leaf at an engine. -/
def leafEnt (w : Walk) (ent sz : Nat) (k : Eng) : TlbEnt :=
  { eng := k, part := w.part, vpage := w.vpage, bits := sz, ent := BitVec.ofNat 64 ent }

/-- An entry of a page in an engine's TLB. -/
def entFor (k : Eng) (part vpage : Nat) (t : TlbEnt) : Bool :=
  decide (t.eng = k) && decide (t.part = part) && decide (t.vpage = vpage)

theorem fillTlb_cons (t : List TlbEnt) (w : Walk) (ent sz : Nat) (k : Eng) (ks : List Eng) :
    fillTlb t { w with engs := k :: ks } ent sz =
      fillTlb (leafEnt w ent sz k :: t.filter fun y => !entFor k w.part w.vpage y) { w with engs := ks } ent sz := rfl

/-- A filled entry is found, and one that was there before stays found. -/
theorem find_fillTlb (w : Walk) (ent sz : Nat) (k : Eng) (ks : List Eng) (t : List TlbEnt)
    (h : k ∈ ks ∨ t.find? (entFor k w.part w.vpage) = some (leafEnt w ent sz k)) :
    (fillTlb t { w with engs := ks } ent sz).find? (entFor k w.part w.vpage) = some (leafEnt w ent sz k) := by
  induction ks generalizing t with
  | nil => exact h.resolve_left (List.not_mem_nil)
  | cons j ks ih =>
    rw [fillTlb_cons]
    refine ih _ ?_
    by_cases hj : j = k
    · subst hj
      refine .inr (List.find?_cons_of_pos ?_)
      simp [entFor, leafEnt]
    · refine (h.imp (fun h => (List.mem_cons.1 h).resolve_left (Ne.symm hj)) fun h => ?_)
      rw [List.find?_cons_of_neg (by simp [entFor, leafEnt, hj]), List.find?_filter]
      refine Eq.trans (congrArg (t.find? ·) (funext fun y => ?_)) h
      by_cases hy : y.eng = k
      · simp [entFor, hy, Ne.symm hj]
      · simp [entFor, hy]

/-- Entries of other pages and other engines stay as they are. -/
theorem mem_fillTlb (w : Walk) (ent sz : Nat) (ks : List Eng) (t : List TlbEnt) {y : TlbEnt}
    (h : y.eng ∉ ks ∨ y.part ≠ w.part ∨ y.vpage ≠ w.vpage) : y ∈ fillTlb t { w with engs := ks } ent sz ↔ y ∈ t := by
  induction ks generalizing t with
  | nil => exact Iff.rfl
  | cons j ks ih =>
    rw [fillTlb_cons, ih _ (h.imp_left fun h hy => h (List.mem_cons_of_mem _ hy)), List.mem_cons, List.mem_filter]
    have hne : entFor j w.part w.vpage y = false := by
      rcases h with h | h | h
      · have : y.eng ≠ j := fun e => h (e ▸ List.mem_cons_self)
        simp [entFor, this]
      · simp [entFor, h]
      · simp [entFor, h]
    have hnl : y ≠ leafEnt w ent sz j := by
      rintro rfl
      simp [entFor, leafEnt] at hne
    simp [hne, hnl]

/-- A walk that has come to a leaf: its engines have the leaf's entry, and the walk is over. -/
theorem pageWalk_leaf {s v : State} {e : Eng} {part vpage ent sz : Nat} {w : Walk}
    (hf : (walkers s e.pkg e.die).find? (isWalk e part vpage) = some w)
    (hw : walkOn s w (w.lvl + 1) = (v, w, some (ent, sz))) : ∃ u, exec (.pageWalk e part vpage) s = .next u ∧
      u.walks = s.walks.filter (fun y => decide (y ≠ w)) ∧ u.threads = s.threads ∧ SameBytes s u ∧
      (∀ k ∈ w.engs, u.tlb.find? (fun t => decide (t.eng = k) && decide (t.part = part) && decide (t.vpage = vpage)) =
        some { eng := k, part := part, vpage := vpage, bits := sz, ent := BitVec.ofNat 64 ent }) ∧
      ∀ t, (t.eng ∉ w.engs ∨ t.part ≠ part ∨ t.vpage ≠ vpage) → (t ∈ u.tlb ↔ t ∈ s.tlb) := by
  have hv := walkOn_touches s w (w.lvl + 1)
  rw [hw] at hv
  obtain ⟨-, rfl, rfl⟩ := walk_spec hf
  refine ⟨_, exec_pageWalk hf hw, congrArg (List.filter _) (hv.same .walks (by decide)), hv.same .threads (by decide),
    hv.sameBytes (by decide), fun k hk => find_fillTlb w ent sz k w.engs _ (.inl hk), fun t ht => ?_⟩
  rw [← show v.tlb = s.tlb from hv.same .tlb (by decide)]
  exact mem_fillTlb w ent sz w.engs _ ht

/-! ### SLOT_BOUNDARY -/

theorem tset_self {κ α : Type} [DecidableEq κ] {k : κ} {v : α} {t : Tbl κ α} (h : tfind k t = some v) : tset k v t = t := by
  induction t with
  | nil => cases h
  | cons x t ih =>
    obtain ⟨j, y⟩ := x
    unfold tfind at h
    unfold tset
    split at h
    · next hj => cases h; rw [if_pos hj, hj]
    · next hj => rw [if_neg hj, ih h]

/-- Writing back the entry of an engine whose slot is under way changes nothing. -/
theorem setSlotTab_self {s : State} {e : Eng} (h : (getSlotTab s e).slot ≠ 0) : setSlotTab s e (getSlotTab s e) = s := by
  have hf : tfind e s.slotTabs = some (getSlotTab s e) := by
    unfold getSlotTab tget at h ⊢
    cases hx : tfind e s.slotTabs with
    | none => rw [hx] at h; exact absurd rfl h
    | some v => rfl
  unfold setSlotTab
  rw [tset_self hf]

/-- The grant of the slot under way, by its entry. -/
def slotGrant (s : State) (e : Eng) (t : SlotTab) (now ent : Nat) : Grant :=
  if now % 32 = 0 then grantOf s e t ent else lateGrant ent

/-- The table with the slot under way granted. -/
def grantedTab (s : State) (e : Eng) (t : SlotTab) (now : Nat) : SlotTab :=
  let ent := tget 0x40 (now / 32 % 256) t.tab
  { t with slot := now / 32 + 1, grant := slotGrant s e t now ent, last := match slotGrant s e t now ent with
      | .part p => if ent / 64 = 1 then p else t.last
      | _ => t.last }

theorem exec_slotBoundary (s : State) (e : Eng) : exec (.slotBoundary e) s =
    .next (if (!hasSlots e) = true then s
      else if (dueTab (getSlotTab s e) ((getPkg s e.pkg).time / 32 / 256)).slot = (getPkg s e.pkg).time / 32 + 1 then
        setSlotTab s e (dueTab (getSlotTab s e) ((getPkg s e.pkg).time / 32 / 256))
      else setSlotTab s e (grantedTab s e (dueTab (getSlotTab s e) ((getPkg s e.pkg).time / 32 / 256)) (getPkg s e.pkg).time)) :=
  rfl

theorem dueTab_none {t : SlotTab} (h : t.pending = none) (k : Nat) : dueTab t k = t := by
  unfold dueTab
  rw [h]

theorem dueTab_due {t : SlotTab} {x : Tbl Nat Nat} {k : Nat} (h : t.pending = some x) (hk : t.pendingFrame ≤ k) :
    dueTab t k = { t with tab := x, pending := none } := by
  unfold dueTab
  rw [h]
  exact if_pos hk

section
variable {s : State} {e : Eng} {t : SlotTab} {now ent : Nat}

theorem slotGrant_own (h : ent / 64 = 0) (hb : bit ent 5 = false ∨ now % 32 = 0 ∧ (readyParts s e).contains (ent % 32) = true) :
    slotGrant s e t now ent = .part (ent % 32) := by
  unfold slotGrant grantOf lateGrant
  rcases hb with hb | ⟨hn, hb⟩
  · simp only [h, hb, Bool.false_and, Bool.false_eq_true, if_false, ite_self]
  · rw [if_pos hn]
    simp only [h, hb, Bool.not_true, Bool.and_false, Bool.false_eq_true, if_false]

theorem slotGrant_use (h : ent / 64 = 2) : (ent % 32 = 0 → slotGrant s e t now ent = .scrub) ∧
    (ent % 32 = 1 → slotGrant s e t now ent = .trace) ∧ (ent % 32 = 2 → slotGrant s e t now ent = .walk) := by
  unfold slotGrant grantOf lateGrant
  refine ⟨fun hu => ?_, fun hu => ?_, fun hu => ?_⟩ <;> simp only [h, hu, ite_self]

theorem slotGrant_late (hn : now % 32 ≠ 0) (h : ent / 64 = 1 ∨ ent / 64 = 0 ∧ bit ent 5 = true) :
    slotGrant s e t now ent = .none := by
  unfold slotGrant lateGrant
  rw [if_neg hn]
  rcases h with h | ⟨h, hb⟩
  · simp only [h]
  · simp only [h, hb, if_true]

theorem slotGrant_open (hn : now % 32 = 0) (h : ent / 64 = 1) : slotGrant s e t now ent = openTurn s e t.last none := by
  unfold slotGrant grantOf
  rw [if_pos hn]
  simp only [h]

end

theorem openTurn_empty {s : State} {e : Eng} (h : readyParts s e = []) (last : Nat) : openTurn s e last none = .none := by
  have hn : ((List.range 32).map fun k => (last + 1 + k) % 32).find? (fun p => ([] : List Nat).contains p) = none :=
    List.find?_eq_none.2 fun p _ => by simp
  unfold openTurn
  simp only [h, List.filter_nil, hn]

/-- The only partition with something ready has the open slot. -/
theorem openTurn_only {s : State} {e : Eng} {p : Nat} (hp : p < 32) (hm : p ∈ readyParts s e)
    (ho : ∀ q ∈ readyParts s e, q = p) (hf : (getPart s (e.pkg, p)).flr = 0) (last : Nat) : openTurn s e last none = .part p := by
  unfold openTurn
  extract_lets r
  have hr : ∀ q, r.contains q = true ↔ q = p := fun q => by
    rw [List.contains_iff_mem, List.mem_filter]
    refine ⟨fun h => ho q h.1, ?_⟩
    rintro rfl
    exact ⟨hm, by rw [hf]; rfl⟩
  have hmem : p ∈ (List.range 32).map fun k => (last + 1 + k) % 32 :=
    List.mem_map.2 ⟨(p + 32 - (last + 1) % 32) % 32, List.mem_range.2 (Nat.mod_lt _ (by decide)), by omega⟩
  cases hx : ((List.range 32).map fun k => (last + 1 + k) % 32).find? fun p => r.contains p with
  | none => exact absurd ((hr p).2 rfl) (by simpa using List.find?_eq_none.1 hx p hmem)
  | some q => rw [(hr q).1 (List.find?_some hx)]

/-- Settles O39: a walk's read is one level of `walkOn`; a boundary's grant is that of the entry of its slot. -/
theorem walksAndSlots : Obligations.WalksAndSlots := by
  intro s e part vpage
  refine ⟨?_, ?_⟩
  · intro mine becomes
    refine ⟨fun h => exec_pageWalk_none h, fun w hw => ?_⟩
    obtain ⟨hpkg, hpart, hpage⟩ := walk_spec hw
    intro a g ent grants
    have ha : a = w.table + vaIndex (w.vpage * 8192) w.lvl * 8 := by rw [hpage]
    have hin : a < hbmSize → walkEntry w = some g := fun h => by
      rw [walkEntry_in (ha ▸ h), hpkg, ← ha]
    have hgr : walkGrants s (ownerOf g) w.part = grants := by rw [hpart]; rfl
    refine ⟨fun h => ?_, fun h hg => ?_, fun h hg hb => ?_, fun h hg hb => ?_⟩
    · exact pageWalk_becomes hw (by rw [walkOn_outside _ (walkEntry_out (ha ▸ h))])
    · exact pageWalk_waits hw (walkOn_noSlot _ (hin h) (hgr.trans hg))
    · exact pageWalk_becomes hw (walkOn_bad _ (hin h) (hgr.trans hg) hb)
    · have hr := walkOn_reads w.lvl (hin h) (hgr.trans hg) hb
      refine ⟨fun h0 => ?_, fun h0 hp => ?_, fun h0 hp h1 => ?_, fun h0 hp h1 => ?_⟩
      · exact pageWalk_becomes hw (by rw [hr]; exact congrArg Prod.snd (if_pos h0))
      · exact pageWalk_becomes hw (by
          rw [hr]
          exact congrArg Prod.snd ((if_neg (by rw [h0]; decide)).trans (if_pos hp)))
      · have hl := hr.trans ((if_neg (by rw [h0]; decide)).trans ((if_neg (by rw [hp]; decide)).trans (if_pos h1)))
        exact pageWalk_leaf hw hl
      · intro t b hbl hw1 hw2
        obtain ⟨n, hn⟩ : ∃ n, w.lvl = n + 1 := ⟨w.lvl - 1, by have := lvl_pos_of_table hp h1; omega⟩
        have hl := hr.trans ((if_neg (by rw [h0]; decide)).trans ((if_neg (by rw [hp]; decide)).trans
          (if_neg (by rw [h1]; decide))))
        refine pageWalk_becomes hw ?_
        have he : walkEntry { w with lvl := w.lvl - 1, table := t } = some (gpa e.pkg b) := by
          rw [walkEntry_in (w := { w with lvl := w.lvl - 1, table := t }) (by rw [hpage]; exact hbl)]
          show some (gpa w.pkg (t + vaIndex (w.vpage * 8192) (w.lvl - 1) * 8)) = _
          rw [hpkg, hpage]
        have hng : walkGrants (readHbm s g 8).2.2 (ownerOf (gpa e.pkg b)) w.part = false := by
          rw [walkGrants_congr (readHbm_touches s g 8) (by decide), hpart]
          unfold walkGrants
          rw [hw1, hw2]
          rfl
        have hz : ∀ m, m = n + 1 → (walkOn (readHbm s g 8).2.2 { w with lvl := w.lvl - 1, table := t } m).2 =
            ({ w with lvl := w.lvl - 1, table := t }, none) := fun m hm => by rw [hm, walkOn_noSlot n he hng]
        rw [hl]
        exact hz _ hn
  · intro now n t
    have hx := exec_slotBoundary s e
    refine ⟨fun h => ?_, fun hs hh hp => ?_, fun x hh hp hf => ?_⟩
    · by_cases hh : hasSlots e = false
      · exact hx.trans (next_if_pos (by rw [hh]; rfl))
      · obtain ⟨hs, hp⟩ := h.resolve_left hh
        rw [dueTab_none hp] at hx
        rw [hx, if_neg (by simpa using hh), if_pos hs, setSlotTab_self (by rw [hs]; exact Nat.succ_ne_zero _)]
    · rw [dueTab_none hp, if_neg (by rw [hh]; decide), if_neg hs] at hx
      refine ⟨_, hx, rfl, fun k hk => tget_tset_other _ _ _ hk, ?_⟩
      rw [getSlotTab_setSlotTab]
      refine ⟨rfl, rfl, ?_⟩
      intro ent
      refine ⟨fun h hb => slotGrant_own h (.inl hb), fun hn h _ hb => slotGrant_own h (.inr ⟨hn, hb⟩), fun h => (slotGrant_use h).1,
        fun h => (slotGrant_use h).2.1, fun h => (slotGrant_use h).2.2, fun h hr => ?_, fun h hb hn => slotGrant_late hn (.inr ⟨h, hb⟩),
        fun p hn h hlt hm ho hfl => ?_⟩
      · by_cases hn : now % 32 = 0
        · exact (slotGrant_open hn h).trans (openTurn_empty (hr.resolve_right (not_not_intro hn)) _)
        · exact slotGrant_late hn (.inl h)
      · have hg := (slotGrant_open (t := t) hn h).trans (openTurn_only hlt hm ho hfl _)
        refine ⟨hg, ?_⟩
        show (match slotGrant s e t now ent with
          | .part p => if ent / 64 = 1 then p else t.last
          | _ => t.last) = p
        rw [hg]
        exact if_pos h
    · rw [dueTab_due hp hf, if_neg (by rw [hh]; decide)] at hx
      refine ⟨_, hx, ?_⟩
      split
      · rw [getSlotTab_setSlotTab]
        exact ⟨rfl, rfl⟩
      · rw [getSlotTab_setSlotTab]
        exact ⟨rfl, rfl⟩

end Sys2Proof.Machine
end

section
/-!
PROOFS. Proofs/Chunks.lean: requests at a memory tile, chunk writes, tile reads and bursts (spec/01 R32, R33; spec/02 R64;
spec/13 R298).
-/
namespace Sys2Proof.Machine

theorem Touches.getTile {l : List Field} {s t : State} (h : Touches l s t) (hl : l.contains .tiles = false) (k : TileId) :
    getTile t k = getTile s k := by
  have e : t.tiles = s.tiles := h.same .tiles (by simpa using hl)
  unfold Machine.getTile
  rw [e]

/-! ### A memory tile -/

theorem writeUnit_l0 (s : State) (a : Nat) (bs : List Byte) : (writeUnit s true a bs).l0 = memWrite s.l0 a bs ∧
    Touches [.l0, .ecc, .eccL0, .bankModes] s (writeUnit s true a bs) := by
  unfold writeUnit
  rw [if_pos rfl]
  extract_lets n s'
  have h : Touches [.ecc, .eccL0, .bankModes] s s' := .foldl (fun u a => (eccWrite_touches ..).mono (by decide)) _ _
  exact ⟨congrArg (memWrite · a bs) (h.same .l0 (by decide)), .trans (h.mono (by decide)) (.put rfl)⟩

/-- The state in which a memory tile has performed a request of a chunk write. -/
def requestDone (s : State) (e : Eng) (m : MemTile) (r : MtReq) : State :=
  let u := writeUnit (setMemTile s e m) true (l0Addr e.pkg e.die e.page (e.elem - 12) r.bank (r.unit * 64)) r.data
  { u with chunkWrites := u.chunkWrites.map fun w => if w.id = r.cw then { w with left := w.left - 1 } else w }

theorem portQueue_single {m : MemTile} {r : MtReq} (h : m.queue = [r]) (p : Nat) :
    (portQueue m p).head? = if r.port = p then some r else none := by
  unfold portQueue
  rw [h, List.filter_cons]
  by_cases hp : r.port = p
  · simp [hp]
  · simp [hp]

/-- The one request of a memory tile is performed. -/
theorem exec_memoryTileRequest {s : State} {e : Eng} {r : MtReq} (h : (getMemTile s e).queue = [r]) (hp : r.port < 8)
    (hc : s.chunkWrites.any (fun w => w.id = r.cw) = true) : exec (.memoryTileRequest e r.bank) s =
      .next (requestDone s e { queue := [], last := tset r.bank r.port (getMemTile s e).last } r) := by
  have hf : ((List.range 8).map fun k => (tget 0 r.bank (getMemTile s e).last + 1 + k) % 8).find?
      (fun p => (((portQueue (getMemTile s e) p).head?).map fun q => decide (q.bank = r.bank)).getD false) = some r.port := by
    have hs : ∀ p, (((portQueue (getMemTile s e) p).head?).map fun q => decide (q.bank = r.bank)).getD false = true ↔
        p = r.port := fun p => by
      rw [portQueue_single h]
      by_cases hpr : r.port = p
      · simp [hpr]
      · simp [hpr, Ne.symm hpr]
    generalize tget 0 r.bank (getMemTile s e).last = last
    have hmem : r.port ∈ (List.range 8).map fun k => (last + 1 + k) % 8 :=
      List.mem_map.2 ⟨(r.port + 8 - (last + 1) % 8) % 8, List.mem_range.2 (Nat.mod_lt _ (by decide)), by omega⟩
    cases hx : ((List.range 8).map fun k => (last + 1 + k) % 8).find?
        fun p => (((portQueue (getMemTile s e) p).head?).map fun q => decide (q.bank = r.bank)).getD false with
    | none => exact absurd ((hs r.port).2 rfl) (List.find?_eq_none.1 hx _ hmem)
    | some p =>
      have hx := List.find?_some hx
      rw [(hs p).1 hx]
  have hh : (portQueue (getMemTile s e) r.port).head? = some r := by rw [portQueue_single h, if_pos rfl]
  have he : [r].erase r = [] := by simp
  have hc' : (setMemTile s e { queue := [], last := tset r.bank r.port (getMemTile s e).last }).chunkWrites.any
    (fun w => w.id = r.cw) = true := hc
  show execMemoryTileRequest e r.bank s = _
  simp only [execMemoryTileRequest, hf, hh, h, he, hc', if_true]
  rfl

/-- What a performed request leaves. -/
theorem requestDone_spec {s : State} (hm : s.MemOk) (e : Eng) (m : MemTile) (r : MtReq) : let t := requestDone s e m r
    getMemTile t e = m ∧
      (let a := l0Addr e.pkg e.die e.page (e.elem - 12) r.bank (r.unit * 64)
       (∀ k (h : k < r.data.length), memGet t.l0 (a + k) = r.data[k]) ∧
       (∀ x, x < a ∨ a + r.data.length ≤ x → memGet t.l0 x = memGet s.l0 x)) ∧
      t.hbm = s.hbm ∧ t.hostMem = s.hostMem ∧ t.threads = s.threads ∧
      t.chunkWrites = s.chunkWrites.map fun w => if w.id = r.cw then { w with left := w.left - 1 } else w := by
  intro t
  obtain ⟨h0, ht⟩ := writeUnit_l0 (setMemTile s e m) (l0Addr e.pkg e.die e.page (e.elem - 12) r.bank (r.unit * 64)) r.data
  have hl : t.l0 = memWrite s.l0 (l0Addr e.pkg e.die e.page (e.elem - 12) r.bank (r.unit * 64)) r.data := h0
  refine ⟨?_, ⟨fun k hk => ?_, fun x hx => ?_⟩, ht.same .hbm (by decide), ht.same .hostMem (by decide),
    ht.same .threads (by decide), congrArg (List.map _) (ht.same .chunkWrites (by decide))⟩
  · have : t.memTiles = (setMemTile s e m).memTiles := ht.same .memTiles (by decide)
    unfold getMemTile
    rw [this]
    exact getMemTile_setMemTile ..
  · rw [hl]
    exact memGet_memWrite_same hm.2.1 hk
  · rw [hl]
    exact memGet_memWrite_other _ _ _ hx

/-! ### A chunk write -/

theorem watchPassed_nil (s : State) (who : Nat) : watchPassed s who [] = s := by
  unfold watchPassed
  have h : (s.watchHolds.filter fun h => decide (h.who ≠ who) || !([] : List Nat).contains h.sector) = s.watchHolds :=
    List.filter_eq_self.2 fun h _ => by simp
  rw [h]

/-- No filter holds a chunk of a scratchpad tile. -/
theorem chunkGate_l0 {s : State} {id : TileId} (h : (getTile s id).level = false) (c who lid : Nat) (acc : Acc) :
    chunkGate s id c who lid acc = none := by
  unfold chunkGate chunkSectors
  simp only [h, Bool.not_false, if_true]
  rfl

theorem l1Grants_l0 {s : State} {id : TileId} (h : (getTile s id).level = false) (c : Nat) : l1Grants s id c = true := by
  unfold l1Grants chunkOwners
  simp only [h, Bool.not_false, if_true]
  rfl

theorem exec_chunkWriteComplete_l0 {s : State} {n : Nat} {w : ChunkWrite} (hn : s.chunkWrites[n]? = some w) (hw : w.left = 0)
    (hl : (getTile s w.tile).level = false) : exec (.chunkWriteComplete n) s =
      .next (chunkDone { s with chunkWrites := s.chunkWrites.eraseIdx n } w.tile w.chunk) := by
  have hs : chunkSectors (getTile s w.tile) w.chunk = [] := by
    unfold chunkSectors
    rw [hl]
    rfl
  show execChunkWriteComplete n s = _
  simp only [execChunkWriteComplete, hn, hw, l1Grants_l0 hl, chunkGate_l0 hl, hl, hs, watchPassed_nil, Bool.not_true,
    Bool.false_eq_true, ne_eq, not_true_eq_false, or_self, if_false]

theorem exec_chunkWriteComplete_waits {s : State} {n : Nat} {w : ChunkWrite} (hn : s.chunkWrites[n]? = some w)
    (h : w.left ≠ 0 ∨ l1Grants s w.tile w.chunk = false) : exec (.chunkWriteComplete n) s = .next s := by
  show execChunkWriteComplete n s = _
  unfold execChunkWriteComplete
  simp only [hn]
  exact congrArg _ (if_pos (h.imp_right fun h => by rw [h]; rfl))

theorem getTile_chunkDone (s : State) (id : TileId) (c : Nat) : getTile (chunkDone s id c) id =
    (let x := getTile s id; let m := x.cmap ||| BitVec.twoPow 128 c
     if x.state = 2 then { x with cmap := m, state := if m = BitVec.ofNat 128 (2 ^ tileChunks x - 1) then 3 else 2 } else x) ∧
    ∀ j, j ≠ id → getTile (chunkDone s id c) j = getTile s j := by
  unfold chunkDone
  by_cases h : (getTile s id).state = 2
  · simp only [h, ne_eq, not_true_eq_false, if_false, if_true]
    exact ⟨getTile_setTile .., fun j hj => getTile_setTile_other _ _ hj⟩
  · simp only [h, ne_eq, not_false_eq_true, if_true, if_false]
    exact ⟨trivial, fun _ _ => trivial⟩

/-! ### A tile read that ends -/

theorem exec_tileReadRetire {s : State} (n : Nat) (ha : s.allocWait = []) : exec (.tileReadRetire n) s = .next (retireStep s n) := by
  have h : (retireStep s n).allocWait = [] :=
    Eq.trans ((retireStep_touches s n).same .allocWait (by decide)) ha
  show Host.Outcome.next (reevalAll (retireStep s n)) = _
  unfold reevalAll
  rw [h]
  rfl

section
variable {s : State} {n : Nat} {r : Retire} (hn : s.retires[n]? = some r)
include hn

theorem retireStep_lowers (hl : r.last = false) (h : (getTile s r.tile).refs - 1 ≠ 0 ∨ (getTile s r.tile).pinned = true ∨
    ((getTile s r.tile).state ≠ 2 ∧ (getTile s r.tile).state ≠ 3)) : retireStep s n =
      setTile { s with retires := s.retires.eraseIdx n } r.tile
        { getTile s r.tile with refs := (getTile s r.tile).refs - 1 } := by
  unfold retireStep
  simp only [hn]
  rw [if_neg (by rw [hl]; decide)]
  refine if_neg fun ⟨h1, h2, h3⟩ => ?_
  have h2 : (getTile s r.tile).pinned = false := Bool.not_eq_true' _ ▸ h2
  rcases h with h | h | ⟨h4, h5⟩
  · exact h h1
  · rw [h2] at h; exact Bool.false_ne_true h
  · exact h3.elim h4 h5

theorem retireStep_drains (hl : r.last = false) (h1 : (getTile s r.tile).refs - 1 = 0) (h2 : (getTile s r.tile).pinned = false)
    (h3 : (getTile s r.tile).state = 2 ∨ (getTile s r.tile).state = 3) : retireStep s n =
      { setTile { s with retires := s.retires.eraseIdx n } r.tile { getTile s r.tile with refs := 0, state := 4 } with
        retires := s.retires.eraseIdx n ++ [{ r with last := true }] } := by
  unfold retireStep
  simp only [hn]
  rw [if_neg (by rw [hl]; decide)]
  have hd : (getTile { s with retires := s.retires.eraseIdx n } r.tile).refs - 1 = 0 := h1
  rw [hd]
  exact if_pos ⟨rfl, (congrArg (!·) h2 : (!(getTile s r.tile).pinned) = !false), h3⟩

theorem retireStep_frees (hl : r.last = true) (h1 : (getTile s r.tile).state = 4)
    (h2 : ∀ w ∈ s.chunkWrites, w.tile ≠ r.tile) : retireStep s n =
      freeTile { s with retires := s.retires.eraseIdx n } r.tile := by
  have hc : s.chunkWrites.any (fun w => decide (w.tile = r.tile)) = false :=
    List.any_eq_false.2 fun w hw => by simpa using h2 w hw
  unfold retireStep
  simp only [hn, hl, if_true]
  exact if_pos ⟨h1, by rw [hc]; rfl⟩

end

theorem freeTile_spec (s : State) (id : TileId) : getTile (freeTile s id) id = {} ∧
    (freeTile s id).retires = s.retires.filter fun y => decide (y.tile ≠ id) := by
  unfold freeTile
  extract_lets s1 s2
  refine ⟨?_, ?_⟩
  · show tget ({} : Tile) id (tdel id _) = _
    unfold tget
    rw [tfind_tdel_same]
    rfl
  · refine congrArg (List.filter _) ?_
    exact Eq.trans ((unmake_touches s1 id).same .retires (by decide)) rfl

/-! ### A burst -/

section
variable {s : State} {e : Eng} {input chunk : Nat} {u : Run} {r : OpRef} {t : Token}

/-- The state in which the burst has arrived. -/
def burstArrived (s : State) (e : Eng) (chunk : Nat) (u : Run) (t : Token) : State :=
  watchPassed (clearData s e chunk) u.act.id (chunkSectors (getTile s (tokTile t)) chunk)

theorem burstArrived_touches (s : State) (e : Eng) (chunk : Nat) (u : Run) (t : Token) :
    Touches [.engines, .watchHolds] s (burstArrived s e chunk u t) :=
  (watchPassed_touches ..).after (by decide) ((clearData_touches ..).mono (by decide))

theorem burstArrived_eng (s : State) (e : Eng) (chunk : Nat) (u : Run) (t : Token) :
    (getEng (burstArrived s e chunk u t) e).run = (getEng s e).run ∧
      (getEng (burstArrived s e chunk u t) e).wload = (getEng s e).wload ∧
      (getEng (burstArrived s e chunk u t) e).fault = (getEng s e).fault := by
  unfold burstArrived
  rw [(watchPassed_touches ..).getEng (by decide)]
  unfold clearData
  rw [getEng_modEng]
  exact ⟨rfl, rfl, rfl⟩

variable (hu : (runs (getEng s e)).find? (awaits s e input chunk) = some u) (hr : findOp s e u.act.slot = some r)
  (ht : (u.toks.find? fun t => t.dst.pos = input ∧ t.kind = 1) = some t)
  (hb : (burstOf s (tokTile t) (tokMode t) input chunk).2 = false)
  (hg : chunkGate s (tokTile t) chunk u.act.id t.lid .read = none) (hd : (getEng s e).dataErr = none)
include hu hr ht hb hg hd

/-- A sound burst joins its activation, or ends it with a fault. -/
theorem exec_burstReceive : exec (.burstReceive e input chunk) s = .next
    (if burstBad (tokMode t) (tokFmt t) (tokChunks t) chunk (burstOf s (tokTile t) (tokMode t) input chunk).1.words = true then
      faultRun (burstArrived s e chunk u t) e r u 0x010A ((tokTile t).handle + chunk * 2 ^ 16)
    else modAct (countBurst (burstArrived s e chunk u t) (tokTile t) chunk) e u.act
      fun u => { u with recv := u.recv ++ [(burstOf s (tokTile t) (tokMode t) input chunk).1] }) := by
  show execBurstReceive e input chunk s = _
  simp only [execBurstReceive, hu, hr, ht, hg, hd, hb, noisyBurst, Bool.false_eq_true, if_false]
  rfl

end

theorem runs_modAct (s : State) (e : Eng) (a : Act) (f : Run → Run) : runs (getEng (modAct s e a f) e) =
    (runs (getEng s e)).map fun w => if w.act = a then f w else w := by
  unfold modAct runs
  rw [getEng_modEng, List.map_append]
  cases (getEng s e).run <;> cases (getEng s e).wload <;> rfl

theorem runs_congr {x y : Engine} (h1 : y.run = x.run) (h2 : y.wload = x.wload) : runs y = runs x := by
  unfold runs
  rw [h1, h2]

theorem option_toList_filter {α : Type} (o : Option α) (p : α → Bool) : (o.filter p).toList = o.toList.filter p := by
  cases o with
  | none => rfl
  | some x => cases h : p x <;> simp [h]

/-- An activation with no destination that stops: it leaves its unit, and nothing but islands and its engine has changed. -/
theorem abortRun_noDests (s : State) (e : Eng) {u : Run} (h : u.dests = []) :
    Touches [.islands, .engines] s (abortRun s e u) ∧
      runs (getEng (abortRun s e u) e) = (runs (getEng s e)).filter fun w => decide (w.act ≠ u.act) := by
  unfold abortRun
  extract_lets s1 s2
  have h0 : freeDests s u.dests = s := by rw [h]; rfl
  have h1 : Touches [.islands] s s1 := by
    unfold s1
    rw [h0]
    exact releaseBank_touches ..
  have h2 : Touches [.islands] s s2 := by
    unfold s2
    split
    · exact h1.trans (modIsland_touches ..)
    · exact h1
  refine ⟨(dropRun_touches ..).after (by decide) (h2.mono (by decide)), ?_⟩
  unfold dropRun
  rw [getEng_modEng]
  unfold runs
  rw [option_toList_filter, option_toList_filter, ← List.filter_append, h2.getEng (by decide)]

theorem runs_opFault (s : State) (r : OpRef) (vrow : Nat) (toks : List Token) (cause tval : Nat) (e : Eng) :
    runs (getEng (opFault s r vrow toks cause tval) e) = runs (getEng s e) := by
  unfold opFault
  extract_lets lid tag
  rw [(raiseAt_touches ..).getEng (by decide), (noteFault_touches ..).getEng (by decide)]
  unfold setAsideToks
  by_cases h : e = r.op.eng
  · subst h
    rw [getEng_modEng]
    exact runs_congr rfl rfl
  · rw [getEng_modEng_other _ _ h]

/-- The fault of an activation in progress with no destination. -/
theorem faultRun_noDests {s : State} {e : Eng} {r : OpRef} {u : Run} (hd : u.dests = [])
    (hf : faultRoom s e u.toks.length = true) (cause tval : Nat) :
    runs (getEng (faultRun s e r u cause tval) e) = (runs (getEng s e)).filter (fun w => decide (w.act ≠ u.act)) ∧
      SameBytes s (faultRun s e r u cause tval) ∧ ∃ rep, (faultRun s e r u cause tval).reports = s.reports ++ [rep] ∧
        rep.cause = cause ∧ rep.tval = BitVec.ofNat 64 tval := by
  unfold faultRun
  rw [if_neg (by rw [hf]; decide)]
  obtain ⟨ha, hr⟩ := abortRun_noDests s e hd
  generalize abortRun s e u = v at ha hr
  have ho := opFault_touches v r u.act.vrow u.toks cause tval
  obtain ⟨-, rep, hp, hc, hv⟩ := opFault_spec v r u.act.vrow u.toks cause tval
  refine ⟨(runs_opFault ..).trans hr, (ha.sameBytes (by decide)).trans (ho.sameBytes (by decide)), rep, ?_, hc, hv⟩
  · rw [hp, show v.reports = s.reports from ha.same .reports (by decide)]

/-- Settles O40: a memory tile with one request, a chunk write, a read that retires and a burst, each by what its step does
with the tile it names. -/
theorem chunkSteps : Obligations.ChunkSteps := by
  refine ⟨⟨fun s e r hm hq hp hl hc => ?_, fun s n w hn => ⟨exec_chunkWriteComplete_waits hn, fun hw hl => ?_⟩,
    fun s n r hn ha => ?_⟩, fun s e input chunk u r t hu hr ht => ?_⟩
  · obtain ⟨h1, ⟨h2, h3⟩, h4, h5, h6, h7⟩ := requestDone_spec hm e
      { queue := [], last := tset r.bank r.port (getMemTile s e).last } r
    exact ⟨_, exec_memoryTileRequest hq hp hc, congrArg MemTile.queue h1, h2, h3, h4, h5, h6, h7⟩
  · have ht := chunkDone_touches { s with chunkWrites := s.chunkWrites.eraseIdx n } w.tile w.chunk
    obtain ⟨h1, h2⟩ := getTile_chunkDone { s with chunkWrites := s.chunkWrites.eraseIdx n } w.tile w.chunk
    exact ⟨_, exec_chunkWriteComplete_l0 hn hw hl, ht.same .chunkWrites (by decide), ht.sameBytes (by decide),
      ht.same .threads (by decide), h2, h1⟩
  · refine ⟨_, exec_tileReadRetire n ha, (retireStep_touches s n).sameBytes (by decide), ?_⟩
    refine ⟨fun hl h => ?_, fun hl h1 h2 h3 => ?_, fun hl h1 h2 => ?_⟩
    · rw [retireStep_lowers hn hl h]
      exact ⟨getTile_setTile .., rfl, rfl⟩
    · rw [retireStep_drains hn hl h1 h2 h3]
      exact ⟨getTile_setTile .., rfl, rfl⟩
    · rw [retireStep_frees hn hl h1 h2]
      exact freeTile_spec ..
  · intro b hb hg hd
    have hx := exec_burstReceive hu hr ht hb hg hd
    have ha := burstArrived_touches s e chunk u t
    obtain ⟨h1, h2, h3⟩ := burstArrived_eng s e chunk u t
    refine ⟨fun hk => ?_, fun hk hf hds => ?_⟩
    · have hc := countBurst_touches (burstArrived s e chunk u t) (tokTile t) chunk
      refine ⟨_, hx.trans (next_if_neg (by rw [hk]; decide)), ?_, ?_, ?_⟩
      · rw [runs_modAct, hc.getEng (by decide), runs_congr h1 h2]
      · exact Eq.trans ((modAct_touches ..).same .threads (by decide))
          (Eq.trans (hc.same .threads (by decide)) (ha.same .threads (by decide)))
      · exact ((ha.sameBytes (by decide)).trans (hc.sameBytes (by decide))).trans ((modAct_touches ..).sameBytes (by decide))
    · have hroom : faultRoom (burstArrived s e chunk u t) e u.toks.length = true := by
        unfold faultRoom
        rw [h3]
        exact hf
      obtain ⟨f1, f2, rep, f3, f4, f5⟩ := faultRun_noDests (r := r) hds hroom 0x010A ((tokTile t).handle + chunk * 2 ^ 16)
      refine ⟨_, hx.trans (next_if_pos hk), f1.trans (by rw [runs_congr h1 h2]), (ha.sameBytes (by decide)).trans f2, rep, ?_, f4, f5⟩
      rw [f3, show (burstArrived s e chunk u t).reports = s.reports from ha.same .reports (by decide)]

end Sys2Proof.Machine
end

section
/-!
PROOFS. Proofs/Compute.lean: how a compute activation starts, faults before its start, writes its image and ends (spec/06
R137, R141, R142).
-/
namespace Sys2Proof.Machine

/-! ### What the engines keep -/

/-- What p reads of an engine is the same for every engine of s and t. -/
def EngSame {α : Type} (p : Engine → α) (s t : State) : Prop := ∀ e, p (getEng t e) = p (getEng s e)

namespace EngSame

variable {α : Type} {p : Engine → α}

theorem refl (s : State) : EngSame p s s := fun _ => rfl

theorem trans {s t u : State} (h : EngSame p s t) (k : EngSame p t u) : EngSame p s u := fun e => Eq.trans (k e) (h e)

theorem modEng {f : Engine → Engine} (hf : ∀ x, p (f x) = p x) (s : State) (e : Eng) : EngSame p s (modEng s e f) := fun j => by
  by_cases h : j = e
  · subst h
    rw [getEng_modEng]
    exact hf _
  · rw [getEng_modEng_other _ _ h]

end EngSame

theorem Touches.engSame {α : Type} {p : Engine → α} {l : List Field} {s t : State} (h : Touches l s t)
    (hl : l.contains .engines = false) : EngSame p s t := fun e => by rw [h.getEng hl]

/-- What a start is about: the activations of the units, the queue of the unit and the fault record. -/
def Engine.work (x : Engine) : Option Run × Option Run × List Act × List SetAside := (x.run, x.wload, x.unit, x.fault)

theorem unback_engSame {α : Type} {p : Engine → α} (hp : ∀ x b, p { x with blocks := b } = p x) (s : State) (e : Eng) (vrow : Nat) :
    EngSame p s (unback s e vrow) := by
  have hset : ∀ (s : State) (b : List BBlock), EngSame p s (setEng s e { getEng s e with blocks := b }) := fun s b =>
    EngSame.modEng (f := fun x => { x with blocks := b }) (fun x => hp x b) s e
  unfold unback
  extract_lets x
  split
  · exact .refl s
  · extract_lets b'
    split
    · refine (hset s _).trans (((uncharge_touches ..).engSame (by decide)).trans ((modPool_touches ..).engSame (by decide)))
    · exact hset s _

theorem clearRow_engSame {α : Type} {p : Engine → α} (hp : ∀ x b, p { x with blocks := b } = p x)
    (hr : ∀ x q, p { x with rows := q } = p x) (s : State) (e : Eng) (slot vrow : Nat) : EngSame p s (clearRow s e slot vrow) :=
  (unback_engSame hp s e vrow).trans (EngSame.modEng (fun x => hr x _) _ _)

theorem countFiring_engSame {α : Type} {p : Engine → α} (hp : ∀ x l, p { x with slots := l } = p x) (s : State) (r : OpRef)
    (tag : Word) (lid wait : Nat) : EngSame p s (countFiring s r tag lid wait) := by
  unfold countFiring
  extract_lets s1
  have h1 : EngSame p s s1 := EngSame.modEng (fun x => hp x _) _ _
  split
  · exact h1.trans ((stageTrace_touches ..).engSame (by decide))
  · exact h1

/-! ### Starts -/

theorem starting_spec {s : State} {e : Eng} {kind : Nat} {f : Start} (h : starting s e kind = some f) :
    f.r.op.eng = e ∧ opKind f.r.op = kind ∧ unitRun (getEng s e) kind = none := by
  unfold starting at h
  extract_lets x at h
  split at h
  · cases h
  · next hn =>
    split at h
    · cases h
    · split at h
      · next r q hr hq =>
        split at h
        · next hk =>
          obtain ⟨ts, -, rfl⟩ := Option.map_eq_some_iff.1 h
          exact ⟨(findOp_spec hr).1, hk.1, by simpa using hn⟩
        · cases h
      · cases h

/-- The activation that runs when a start has succeeded. -/
def startedRun (f : Start) (run : Run) : Run := { run with act := f.act, toks := f.toks, dests := f.act.dests }

theorem takeStart_work (s : State) (f : Start) : let x := getEng (takeStart s f) f.r.op.eng; let y := getEng s f.r.op.eng
    x.work = (y.run, y.wload, y.unit.erase f.act, y.fault) := by
  intro x y
  refine Eq.trans (clearRow_engSame (p := Engine.work) (fun _ _ => rfl) (fun _ _ => rfl) _ _ _ _ _) ?_
  rw [getEng_modEng]
  rfl

section
variable {s : State} {f : Start} (hp : f.toks.any (·.poison) = false) (hm : ∀ t ∈ f.toks, scalarMismatch t = none)
include hp hm

theorem startRun_clean (run : Run) : startRun s f none run =
    touch (modEng (countFiring (takeStart s f) f.r f.q.tag f.q.lid (waitOf f.r.op f.q)) f.r.op.eng fun x =>
      if opKind f.r.op = 0x12 then { x with wload := some (startedRun f run) } else { x with run := some (startedRun f run) })
        f.r.op.eng.pkg f.q.lid := by
  have h1 : (f.toks.any fun t => (scalarMismatch t).isSome) = false := List.any_eq_false.2 fun t ht => by rw [hm t ht]; decide
  have h2 : f.toks.findSome? scalarMismatch = none := List.findSome?_eq_none_iff.2 hm
  unfold startRun
  simp only [hp, h1, h2, Option.isSome_none, Bool.or_self, Bool.false_and, Bool.false_eq_true, if_false]
  rfl

/-- What a start leaves. -/
theorem startRun_starts (run : Run) : let t := startRun s f none run
    unitRun (getEng t f.r.op.eng) (opKind f.r.op) = some (startedRun f run) ∧
      (getEng t f.r.op.eng).unit = (getEng s f.r.op.eng).unit.erase f.act ∧
      Touches [.engines, .traces, .launches, .partitions, .quotas] s t := by
  intro t
  have ht : t = _ := startRun_clean hp hm run
  have hk := takeStart_work s f
  have hc := countFiring_engSame (p := Engine.work) (fun _ _ => rfl) (takeStart s f) f.r f.q.tag f.q.lid (waitOf f.r.op f.q) f.r.op.eng
  have hu := (congrArg (·.2.2.1) (hc.trans hk) : (getEng (countFiring (takeStart s f) f.r f.q.tag f.q.lid (waitOf f.r.op f.q))
    f.r.op.eng).unit = _)
  rw [ht]
  refine ⟨?_, ?_, ?_⟩
  · rw [(touch_touches ..).getEng (by decide), getEng_modEng]
    unfold unitRun
    split <;> rfl
  · rw [(touch_touches ..).getEng (by decide), getEng_modEng]
    split <;> exact hu
  · exact (touch_touches ..).after (by decide) ((modEng_touches ..).after (by decide) ((countFiring_touches ..).after (by decide)
      ((takeStart_touches s f).mono (by decide))))

/-- A fault in place of a start. -/
theorem startRun_fault_eq {c v : Nat} (run : Run) (hr : faultRoom s f.r.op.eng f.toks.length = true) (hd : f.act.dests = []) :
    startRun s f (some (c, v)) run =
      opFault (releaseBank (takeStart s f) f.r.op.eng f.act) f.r f.q.vrow f.toks c v := by
  have h1 : (f.toks.any fun t => (scalarMismatch t).isSome) = false := List.any_eq_false.2 fun t ht => by rw [hm t ht]; decide
  have h2 : f.toks.findSome? scalarMismatch = none := List.findSome?_eq_none_iff.2 hm
  have h3 : freeDests (takeStart s f) f.act.dests = takeStart s f := by rw [hd]; rfl
  unfold startRun
  simp only [hp, h1, h2, h3, hr, Option.isSome_some, Bool.or_true, Bool.true_and, Bool.not_true, Bool.false_eq_true, if_false]

/-- What a fault in place of a start leaves. -/
theorem startRun_faults {c v : Nat} (run : Run) (hr : faultRoom s f.r.op.eng f.toks.length = true) (hd : f.act.dests = []) :
    let t := startRun s f (some (c, v)) run
    (getEng t f.r.op.eng).fault = (getEng s f.r.op.eng).fault ++
        f.toks.map (fun k => { tok := k, slot := f.r.op.slot, vrow := f.q.vrow, why := 2 }) ∧
      (∃ rep, t.reports = s.reports ++ [rep] ∧ rep.cause = c) ∧ t.updates = s.updates ∧ SameBytes s t := by
  have e := startRun_fault_eq hp hm run hr hd (c := c) (v := v)
  intro t
  rw [show t = _ from e]
  have hb := releaseBank_touches (takeStart s f) f.r.op.eng f.act
  have ht := takeStart_touches s f
  have hw : (getEng (takeStart s f) f.r.op.eng).fault = (getEng s f.r.op.eng).fault := congrArg (·.2.2.2) (takeStart_work s f)
  generalize releaseBank (takeStart s f) f.r.op.eng f.act = w at hb
  obtain ⟨h4, rep, h5, h6, -⟩ := opFault_spec w f.r f.q.vrow f.toks c v
  have ho := opFault_touches w f.r f.q.vrow f.toks c v
  refine ⟨?_, ⟨rep, ?_, h6⟩, ?_, ?_⟩
  · rw [h4, hb.getEng (by decide), hw]
  · rw [h5, show w.reports = s.reports from Eq.trans (hb.same .reports (by decide)) (ht.same .reports (by decide))]
  · exact Eq.trans (ho.same .updates (by decide)) (Eq.trans (hb.same .updates (by decide)) (ht.same .updates (by decide)))
  · exact ((ht.sameBytes (by decide)).trans (hb.sameBytes (by decide))).trans (ho.sameBytes (by decide))

variable {i : Instr} {e : Eng} {kind : Nat} (hs : starting s e kind = some f)
include hs

theorem startsRun_of {fault : Option (Nat × Nat)} (hf : fault = none) (hx : exec i s = .next (startRun s f fault {})) :
    StartsRun i s e f := by
  obtain ⟨rfl, -, -⟩ := starting_spec hs
  subst hf
  obtain ⟨h1, h2, h3⟩ := startRun_starts (s := s) hp hm {}
  exact ⟨_, hx, h1, h2, h3.same .threads (by decide), h3.sameBytes (by decide)⟩

theorem faultsStart_of {fault : Option (Nat × Nat)} {c v : Nat} (hr : faultRoom s e f.toks.length = true)
    (hd : f.act.dests = []) (hf : fault = some (c, v)) (hx : exec i s = .next (startRun s f fault {})) :
    FaultsStart i s e f c := by
  obtain ⟨rfl, -, -⟩ := starting_spec hs
  subst hf
  exact ⟨_, hx, startRun_faults hp hm {} hr hd⟩

end

/-! ### The course of an activation -/

theorem runningAct_spec {s : State} {e : Eng} {kind : Nat} {r : OpRef} {u : Run} (h : runningAct s e kind = some (r, u)) :
    unitRun (getEng s e) kind = some u ∧ findOp s e u.act.slot = some r ∧ opKind r.op = kind ∧ r.op.eng = e := by
  unfold runningAct at h
  split at h
  · cases h
  · next v hv =>
    split at h
    · next w hw =>
      split at h
      · next hk =>
        cases h
        exact ⟨hv, hw, hk.1, (findOp_spec hw).1⟩
      · cases h
    · cases h

theorem runningAct_none {s : State} {e : Eng} {kind : Nat} (h : unitRun (getEng s e) kind = none) : runningAct s e kind = none := by
  unfold runningAct
  rw [h]

section
variable {s : State} {e : Eng} {kind mode : Nat} {fault : State → Start → Option (Nat × Nat)} {work : State → OpRef → Run → State}

theorem course_starts {f : Start} (h : starting s e kind = some f) :
    course s e kind mode fault work = startRun s f (fault s f) {} := by
  unfold course
  rw [runningAct_none (starting_spec h).2.2, h]

variable {r : OpRef} {u : Run} (h : runningAct s e kind = some (r, u))
include h

theorem course_works (hp : u.phase = 0) (ha : allReceived u = true) (hm : runMismatch s u = none) :
    course s e kind mode fault work = work s r u := by
  unfold course checked
  simp only [h, hp, ha, hm, ne_eq, not_true_eq_false, Bool.not_true, Bool.false_eq_true, if_false]

theorem course_emits (hp : u.phase ≠ 0) : course s e kind mode fault work = emitTile s e r u mode := by
  unfold course
  rw [h]
  exact if_pos hp

end

end Sys2Proof.Machine
end

section
/-!
PROOFS. Proofs/Shapers.lean: GATHER, REPEAT, SWIN, TRANSP and CONV: their starts and the faults in place of a start (spec/06
R155 to R160).
-/
namespace Sys2Proof.Machine

/-! ### Format faults -/

section
variable {t : Token} {fmt : Nat}

theorem formatAt_odd (h : tokFmt t ≠ fmt ∨ tokMode t = 1) : formatAt t fmt true = some (0x010B, tokFmt t) :=
  if_pos (h.imp_right fun h => ⟨rfl, h⟩)

theorem formatAt_reserved (h : tokFmt t = fmt ∧ 1 < tokMode t) : formatAt t fmt true = some (0x010A, (tokTile t).handle) := by
  have hn : ¬(tokFmt t ≠ fmt ∨ (true = true ∧ tokMode t = 1)) := fun hc => hc.elim (· h.1) fun hc => by have := h.2; omega
  exact (if_neg hn).trans (if_pos h.2)

theorem formatAt_plain (h : tokFmt t = fmt ∧ tokMode t = 0) : formatAt t fmt true = none := by
  have hn : ¬(tokFmt t ≠ fmt ∨ (true = true ∧ tokMode t = 1)) := fun hc => hc.elim (· h.1) fun hc => by have := h.2; omega
  exact (if_neg hn).trans (if_neg (by have := h.2; omega))

end

/-! ### The faults of each kind -/

/-- The fault that keeps a GATHER from starting. -/
def gatherFault (s : State) (f : Start) : Option (Nat × Nat) :=
  (formatAt (f.q.l.getD {}) (opType f.r.op) true).orElse fun _ =>
    if tokFmt (f.q.r.getD {}) ≠ 0x8 ∧ tokFmt (f.q.r.getD {}) ≠ 0xA ∧ tokFmt (f.q.r.getD {}) ≠ 0xB then
      some (0x010B, tokFmt (f.q.r.getD {}))
    else (formatAt (f.q.r.getD {}) (tokFmt (f.q.r.getD {})) true).orElse fun _ => shapeFault s f

/-- The fault that keeps a REPEAT from starting. -/
def repeatFault (s : State) (f : Start) : Option (Nat × Nat) :=
  (formatAt (f.q.l.getD {}) (opType f.r.op) true).orElse fun _ =>
    if tokScalar (f.q.r.getD {}) < 1 ∨ 128 < tokScalar (f.q.r.getD {}) then some (0x010C, 0) else shapeFault s f

/-- The fault that keeps a SWIN on e from starting: its row is out of order, of another shape, or too long for the delay line. -/
def swinFault (e : Eng) (s : State) (f : Start) : Option (Nat × Nat) :=
  let l := f.q.l.getD {}
  let c := opCfg f.r.op 0
  let x := tokScalar (f.q.r.getD {})
  let d := tget {} f.r.op.slot (getEng s e).slots
  (formatAt l (opType f.r.op) true).orElse fun _ =>
    if x ≠ d.q ∨ bits c 59 44 + 1 ≤ x ∨ tokRows l ≠ 1 ∨ (x ≠ 0 ∧ tokCols l ≠ d.cols0) ∨
        2 ^ (bits c 62 60 + 12) < swinDepth c * tokBytes l then some (0x010C, 0)
    else shapeFault s f

/-- The fault that keeps a TRANSP from starting. -/
def transpFault (s : State) (f : Start) : Option (Nat × Nat) :=
  (formatAt (f.q.l.getD {}) (opType f.r.op) true).orElse fun _ => shapeFault s f

theorem shapeFault_cause {s : State} {f : Start} (h : shapeFault s f ≠ none) : ∃ v, shapeFault s f = some (0x010C, v) := by
  unfold shapeFault at h ⊢
  split
  · exact ⟨_, rfl⟩
  · next hw =>
    rw [hw] at h
    dsimp only at h ⊢
    split
    · next hl => exact absurd (if_pos hl) h
    · exact ⟨_, rfl⟩

section
variable {s : State} {e : Eng} {f : Start}

theorem exec_gather_start (h : starting s e 0x13 = some f) : exec (.gather e) s = .next (startRun s f (gatherFault s f) {}) :=
  congrArg _ (course_starts h)

theorem exec_repeatOp_start (h : starting s e 0x14 = some f) :
    exec (.repeatOp e) s = .next (startRun s f (repeatFault s f) {}) := congrArg _ (course_starts h)

theorem exec_swin_start (h : starting s e 0x15 = some f) : exec (.swin e) s = .next (startRun s f (swinFault e s f) {}) :=
  congrArg _ (course_starts h)

theorem exec_transp_start (h : starting s e 0x16 = some f) : exec (.transp e) s = .next (startRun s f (transpFault s f) {}) :=
  congrArg _ (course_starts h)

theorem exec_conv_start (h : starting s e 0x17 = some f) : exec (.conv e) s = .next (startRun s f (shapeFault s f) {}) :=
  congrArg _ (course_starts h)

/-- A fault of the left tile's format comes first for every shaper. -/
theorem shaperFault_format {x : Nat × Nat} (h : formatAt (f.q.l.getD {}) (opType f.r.op) true = some x) :
    gatherFault s f = some x ∧ repeatFault s f = some x ∧ swinFault e s f = some x ∧ transpFault s f = some x := by
  unfold gatherFault repeatFault swinFault transpFault
  simp only [h]
  exact ⟨rfl, rfl, rfl, rfl⟩

/-- What keeps each shaper from starting when its left tile has the format. -/
theorem shaperFault_plain (h : formatAt (f.q.l.getD {}) (opType f.r.op) true = none) :
    gatherFault s f = (if tokFmt (f.q.r.getD {}) ≠ 0x8 ∧ tokFmt (f.q.r.getD {}) ≠ 0xA ∧ tokFmt (f.q.r.getD {}) ≠ 0xB then
      some (0x010B, tokFmt (f.q.r.getD {}))
    else (formatAt (f.q.r.getD {}) (tokFmt (f.q.r.getD {})) true).orElse fun _ => shapeFault s f) ∧
    repeatFault s f = (if tokScalar (f.q.r.getD {}) < 1 ∨ 128 < tokScalar (f.q.r.getD {}) then some (0x010C, 0)
      else shapeFault s f) ∧ transpFault s f = shapeFault s f := by
  unfold gatherFault repeatFault transpFault
  simp only [h]
  exact ⟨rfl, rfl, rfl⟩

/-- A SWIN whose row is in order. -/
theorem swinFault_plain (h : formatAt (f.q.l.getD {}) (opType f.r.op) true = none) :
    let l := f.q.l.getD {}
    let c := opCfg f.r.op 0
    let x := tokScalar (f.q.r.getD {})
    let d := tget {} f.r.op.slot (getEng s e).slots
    let row := x = d.q ∧ x < bits c 59 44 + 1 ∧ tokRows l = 1 ∧ (x = 0 ∨ tokCols l = d.cols0) ∧
      swinDepth c * tokBytes l ≤ 2 ^ (bits c 62 60 + 12)
    (row → swinFault e s f = shapeFault s f) ∧ (¬row → swinFault e s f = some (0x010C, 0)) := by
  intro l c x d row
  have hr : row ↔ ¬(x ≠ d.q ∨ bits c 59 44 + 1 ≤ x ∨ tokRows l ≠ 1 ∨ (x ≠ 0 ∧ tokCols l ≠ d.cols0) ∨
      2 ^ (bits c 62 60 + 12) < swinDepth c * tokBytes l) := by
    simp only [not_or, not_and, not_not, Nat.not_le, Nat.not_lt, row]
    exact and_congr_right' (and_congr_right' (and_congr_right' (and_congr_left' or_iff_not_imp_left)))
  have hf : swinFault e s f = if x ≠ d.q ∨ bits c 59 44 + 1 ≤ x ∨ tokRows l ≠ 1 ∨ (x ≠ 0 ∧ tokCols l ≠ d.cols0) ∨
      2 ^ (bits c 62 60 + 12) < swinDepth c * tokBytes l then some (0x010C, 0) else shapeFault s f := by
    unfold swinFault
    simp only [h]
    rfl
  exact ⟨fun h => hf.trans (if_neg (hr.1 h)), fun h => hf.trans (if_pos (not_not.1 fun hn => h (hr.2 hn)))⟩

end

/-- Settles O41: the fault that keeps each kind from starting is its format's, then its shape's; with none it starts. -/
theorem shapersStart : Obligations.ShapersStart := by
  intro s e f hr hp hm l r odd plain reserved index d c row
  refine ⟨fun p hpm hs hd => ⟨fun ho => ?_, fun ho => ?_⟩, fun hs hl hsh => ?_, fun hs hl => ⟨fun hi h0 hsh => ?_,
    fun hi hd => ?_, fun hi h1 hd => ?_⟩, fun hs hl => ⟨fun h1 h2 hsh => ?_, fun hc hd => ?_⟩,
    fun hs hl => ⟨fun hrow hsh => ?_, fun hrow hd => ?_⟩, fun hs => ⟨fun hsh => ?_, fun hsh hd => ?_⟩⟩
  · obtain ⟨h1, h2, h3, h4⟩ := shaperFault_format (s := s) (e := e) (formatAt_odd ho)
    simp only [List.mem_cons, List.not_mem_nil, or_false] at hpm
    rcases hpm with rfl | rfl | rfl | rfl
    · exact faultsStart_of hp hm hs hr hd h1 (exec_gather_start hs)
    · exact faultsStart_of hp hm hs hr hd h2 (exec_repeatOp_start hs)
    · exact faultsStart_of hp hm hs hr hd h3 (exec_swin_start hs)
    · exact faultsStart_of hp hm hs hr hd h4 (exec_transp_start hs)
  · obtain ⟨h1, h2, h3, h4⟩ := shaperFault_format (s := s) (e := e) (formatAt_reserved ho)
    simp only [List.mem_cons, List.not_mem_nil, or_false] at hpm
    rcases hpm with rfl | rfl | rfl | rfl
    · exact faultsStart_of hp hm hs hr hd h1 (exec_gather_start hs)
    · exact faultsStart_of hp hm hs hr hd h2 (exec_repeatOp_start hs)
    · exact faultsStart_of hp hm hs hr hd h3 (exec_swin_start hs)
    · exact faultsStart_of hp hm hs hr hd h4 (exec_transp_start hs)
  · exact startsRun_of hp hm hs ((shaperFault_plain (formatAt_plain hl)).2.2.trans hsh) (exec_transp_start hs)
  · have hn : ¬(tokFmt r ≠ 0x8 ∧ tokFmt r ≠ 0xA ∧ tokFmt r ≠ 0xB) := fun ⟨h1, h2, h3⟩ => hi.elim h1 (·.elim h2 h3)
    refine startsRun_of hp hm hs ((shaperFault_plain (formatAt_plain hl)).1.trans ((if_neg hn).trans ?_)) (exec_gather_start hs)
    rw [formatAt_plain ⟨rfl, h0⟩]
    exact hsh
  · have hg := (shaperFault_plain (s := s) (formatAt_plain hl)).1
    by_cases hn : tokFmt r ≠ 0x8 ∧ tokFmt r ≠ 0xA ∧ tokFmt r ≠ 0xB
    · exact faultsStart_of hp hm hs hr hd (hg.trans (if_pos hn)) (exec_gather_start hs)
    · have h1 : tokMode r = 1 := hi.resolve_left fun hi => hn ⟨fun h => hi (.inl h), fun h => hi (.inr (.inl h)),
        fun h => hi (.inr (.inr h))⟩
      refine faultsStart_of hp hm hs hr hd (v := tokFmt r) (hg.trans ((if_neg hn).trans ?_)) (exec_gather_start hs)
      rw [formatAt_odd (.inr h1)]
      rfl
  · have hn : ¬(tokFmt r ≠ 0x8 ∧ tokFmt r ≠ 0xA ∧ tokFmt r ≠ 0xB) := fun ⟨h1, h2, h3⟩ => hi.elim h1 (·.elim h2 h3)
    refine faultsStart_of hp hm hs hr hd (v := (tokTile r).handle)
      ((shaperFault_plain (formatAt_plain hl)).1.trans ((if_neg hn).trans ?_)) (exec_gather_start hs)
    rw [formatAt_reserved ⟨rfl, h1⟩]
    rfl
  · exact startsRun_of hp hm hs ((shaperFault_plain (formatAt_plain hl)).2.1.trans ((if_neg fun hc => hc.elim (Nat.not_lt.2 h1) (Nat.not_lt.2 h2)).trans hsh))
      (exec_repeatOp_start hs)
  · exact faultsStart_of hp hm hs hr hd ((shaperFault_plain (formatAt_plain hl)).2.1.trans (if_pos hc)) (exec_repeatOp_start hs)
  · exact startsRun_of hp hm hs (((swinFault_plain (formatAt_plain hl)).1 hrow).trans hsh) (exec_swin_start hs)
  · exact faultsStart_of hp hm hs hr hd ((swinFault_plain (formatAt_plain hl)).2 hrow) (exec_swin_start hs)
  · exact startsRun_of hp hm hs hsh (exec_conv_start hs)
  · obtain ⟨v, hv⟩ := shapeFault_cause hsh
    exact faultsStart_of hp hm hs hr hd hv (exec_conv_start hs)

end Sys2Proof.Machine
end

section
/-!
PROOFS. Proofs/ShapersWork.lean: what a compute activation does when its work is done and when its destination is FULL (spec/06
R141, R155 to R160).
-/
namespace Sys2Proof.Machine

/-! ### The image is written -/

theorem beginChunk_chunkWrites (s : State) (id : TileId) (c port lid : Nat) (by_ : Coord) (tag : Word) (data scale : List Byte) :
    ∃ w : ChunkWrite, (beginChunk s id c port lid by_ tag data scale).chunkWrites = s.chunkWrites ++ [w] ∧ w.chunk = c ∧
      w.tile = id := by
  let t := getTile s id
  let v := if t.state = 1 then modTile (fresh s).2 id fun t => { t with state := 2, owner := 0 } else (fresh s).2
  have hv : v.chunkWrites = s.chunkWrites := by
    unfold v
    split <;> rfl
  by_cases hl : t.level = true
  · refine ⟨{ tile := id, chunk := c, data := data, scale := scale, id := s.nextId, lid := lid, by_ := by_, tag := tag },
      ?_, rfl, rfl⟩
    rw [← hv]
    exact congrArg State.chunkWrites (if_pos hl)
  · refine ⟨{ tile := id
              chunk := c
              left := (units64 data).length + (units64 scale).length
              id := s.nextId
              lid := lid
              by_ := by_
              tag := tag }, ?_, rfl, rfl⟩
    rw [← hv]
    refine (congrArg State.chunkWrites (if_neg hl)).trans ?_
    show v.chunkWrites ++ [_] = _
    rw [List.length_append, List.length_map, List.length_map, List.length_zipIdx, List.length_zipIdx]

/-- An image's chunk writes: one for each chunk of the tile in order. -/
theorem beginImage_chunkWrites (s : State) (id : TileId) (port lid : Nat) (by_ : Coord) (tag : Word) (img : List Byte)
    (scale : Nat → List Byte) : ∃ ws : List ChunkWrite,
      (beginImage s id port lid by_ tag img scale).chunkWrites = s.chunkWrites ++ ws ∧
        ws.map (·.chunk) = List.range (tileChunks (getTile s id)) ∧ ∀ w ∈ ws, w.tile = id := by
  have h : ∀ (cs : List Nat) (s : State), ∃ ws : List ChunkWrite,
      (cs.foldl (fun s c => beginChunk s id c port lid by_ tag (chunkOf img c) (scale c)) s).chunkWrites = s.chunkWrites ++ ws ∧
        ws.map (·.chunk) = cs ∧ ∀ w ∈ ws, w.tile = id := by
    intro cs
    induction cs with
    | nil => exact fun s => ⟨[], (List.append_nil _).symm, rfl, fun _ h => nomatch h⟩
    | cons c cs ih =>
      intro s
      obtain ⟨w, hw, hc, ht⟩ := beginChunk_chunkWrites s id c port lid by_ tag (chunkOf img c) (scale c)
      obtain ⟨ws, h1, h2, h3⟩ := ih (beginChunk s id c port lid by_ tag (chunkOf img c) (scale c))
      refine ⟨w :: ws, ?_, by rw [List.map_cons, hc, h2], List.forall_mem_cons.2 ⟨ht, h3⟩⟩
      rw [List.foldl_cons, h1, hw, List.append_assoc, List.singleton_append]
  exact h _ s

/-- A slot of an engine that changes. -/
theorem slot_modSlot (s : State) (e : Eng) (slot : Nat) (f : SlotDyn → SlotDyn) :
    tget {} slot (getEng (modSlot s e slot f) e).slots = f (tget {} slot (getEng s e).slots) := by
  unfold modSlot
  rw [getEng_modEng]
  exact tget_tmod_same ..

/-- An activation whose destination refuses no chunk: its image is on its way to the tile. -/
theorem writeOut_spec {s : State} {e : Eng} {u : Run} {id : TileId} (r : OpRef) (img : List Byte) (scale : Nat → List Byte)
    (flags : Nat) (extra : Option Token) (hu : (getEng s e).run = some u) (hi : imageRefused s id = none) :
    let t := writeOut s e r u id img scale flags extra
    (getEng t e).run = some { u with phase := 1, resid := [residueOf img], extra := extra } ∧
      (∃ ws, t.chunkWrites = s.chunkWrites ++ ws ∧ ws.map (·.chunk) = List.range (tileChunks (getTile s id)) ∧
        ∀ w ∈ ws, w.tile = id) ∧
      (let d := tget {} r.op.slot (getEng s e).slots
       tget {} r.op.slot (getEng t e).slots = { d with flags := d.flags ||| flags }) ∧
      Touches [.engines, .tiles, .chunkWrites, .memTiles, .nextId] s t := by
  intro t
  let b := baseTok u
  let s1 := beginImage s id (writePort (opKind r.op)) b.lid (opCoord r.op) b.tag img scale
  have ht : t = modRun (setFlags s1 e r.op.slot flags) e fun u =>
      { u with phase := 1, resid := [residueOf img], extra := extra } := by
    unfold t writeOut
    simp only [hi]
    rfl
  have h1 := beginImage_touches s id (writePort (opKind r.op)) b.lid (opCoord r.op) b.tag img scale
  have hf := setFlags_touches s1 e r.op.slot flags
  have hm := modRun_touches (setFlags s1 e r.op.slot flags) e fun u =>
      { u with phase := 1, resid := [residueOf img], extra := extra }
  have he : getEng s1 e = getEng s e := h1.getEng (by decide) e
  rw [ht]
  refine ⟨?_, ?_, ?_, hm.after (by decide) (hf.after (by decide) (h1.mono (by decide)))⟩
  · have hr : (getEng (setFlags s1 e r.op.slot flags) e).run = some u := by
      unfold setFlags modSlot
      rw [getEng_modEng, he]
      exact hu
    unfold modRun
    rw [getEng_modEng]
    exact congrArg (Option.map _) hr
  · obtain ⟨ws, hw, hc, hid⟩ := beginImage_chunkWrites s id (writePort (opKind r.op)) b.lid (opCoord r.op) b.tag img scale
    exact ⟨ws, Eq.trans (hm.same .chunkWrites (by decide)) (Eq.trans (hf.same .chunkWrites (by decide)) hw), hc, hid⟩
  · unfold modRun
    rw [getEng_modEng]
    refine (slot_modSlot s1 e r.op.slot _).trans ?_
    rw [he]

theorem writesOut_of {i : Instr} {s : State} {e : Eng} {r : OpRef} {u : Run} {id : TileId} {img : List Byte}
    {scale : Nat → List Byte} {flags : Nat} {extra : Option Token} (hu : (getEng s e).run = some u)
    (hx : exec i s = .next (writeOut s e r u id img scale flags extra)) : WritesOut i s e r u id img flags extra := fun hi => by
  obtain ⟨h1, h2, h3, h4⟩ := writeOut_spec r img scale flags extra hu hi
  exact ⟨_, hx, h1, h2, congrArg SlotDyn.flags h3, h4.same .threads (by decide), h4.sameBytes (by decide)⟩

/-! ### The activation ends -/

theorem consumeTok_retires (r : OpRef) (fid : Nat) (s : State) (x : Token) : (consumeTok r fid true s x).retires =
    s.retires ++ ([x].filter fun k => decide (k.kind = 1)).map (fun k => { tile := tokTile k }) := by
  have ha : (addPend s r x.tag false).retires = s.retires := (addPend_touches s r x.tag false).same .retires (by decide)
  unfold consumeTok
  extract_lets s1 steer s2 s3
  have h3 : s3.retires = s.retires := Eq.trans ((touch_touches ..).same .retires (by decide)) ha
  by_cases hk : x.kind = 1
  · rw [if_pos (by simp [hk]), List.filter_cons_of_pos (by simp [hk])]
    exact congrArg (· ++ [_]) h3
  · rw [if_neg (by simp [hk]), List.filter_cons_of_neg (by simp [hk])]
    exact h3.trans (List.append_nil _).symm

theorem consumeToks_retires (r : OpRef) (fid : Nat) (toks : List Token) (s : State) : (consumeToks s r fid true toks).retires =
    s.retires ++ (toks.filter fun k => decide (k.kind = 1)).map (fun k => { tile := tokTile k }) := by
  induction toks generalizing s with
  | nil => exact (List.append_nil _).symm
  | cons x toks ih =>
    have h : x :: toks = [x] ++ toks := rfl
    refine (ih (consumeTok r fid true s x)).trans ?_
    rw [consumeTok_retires, h, List.filter_append, List.map_append, List.append_assoc]

/-- An activation that ends: its tokens leave, its inputs are consumed and its unit is idle. -/
theorem endRun_spec {s : State} {e : Eng} {r : OpRef} {u : Run} {out : List Token} (hr : refsRoom s out = true)
    (he : out = [] ∨ Emits s r ((u.toks.head?.map (·.tag)).getD 0) out) : let t := endRun s e r u out
    t.updates = s.updates ++ out.map (risesFor s r u.act.id) ++ u.toks.map (fallsFor r u.act.id) ∧
      t.retires = s.retires ++ (u.toks.filter fun k => decide (k.kind = 1)).map (fun k => { tile := tokTile k }) ∧
      getEng t e = { getEng s e with run := (getEng s e).run.filter (fun v => decide (v.act ≠ u.act))
                                     wload := (getEng s e).wload.filter (fun v => decide (v.act ≠ u.act)) } ∧
      Touches [.engines, .inFlight, .updates, .graphs, .launches, .tiles, .retires] s t := by
  intro t
  have hd := dropRun_touches s e u
  have ho : SameIn Graph.ops s (dropRun s e u) := hd.sameIn (by decide)
  have hm := emitToks_touches (dropRun s e u) r u.act.id ((u.toks.head?.map (·.tag)).getD 0) out
  have ht : t = consumeToks (emitToks (dropRun s e u) r u.act.id ((u.toks.head?.map (·.tag)).getD 0) out) r u.act.id true u.toks :=
    if_neg (by rw [hr]; decide)
  rw [ht]
  have hc := consumeToks_touches (emitToks (dropRun s e u) r u.act.id ((u.toks.head?.map (·.tag)).getD 0) out) r u.act.id true u.toks
  refine ⟨?_, ?_, ?_, hc.after (by decide) (hm.after (by decide) (hd.mono (by decide)))⟩
  · rw [consumeToks_updates]
    rcases he with rfl | he
    · rw [List.map_nil, List.append_nil]
      rfl
    · rw [emitToks_updates _ _ (he.congr ho), risesFor_congr ho]
      rfl
  · rw [consumeToks_retires, show (emitToks (dropRun s e u) r u.act.id ((u.toks.head?.map (·.tag)).getD 0) out).retires = s.retires from
      Eq.trans (hm.same .retires (by decide)) (hd.same .retires (by decide))]
  · rw [hc.getEng (by decide), hm.getEng (by decide)]
    exact getEng_modEng ..

theorem filter_act {o : Option Run} {u : Run} (h : o = some u) : o.filter (fun v => decide (v.act ≠ u.act)) = none := by
  subst h
  simp

theorem endsRun_of {i : Instr} {s : State} {e : Eng} {kind : Nat} {r : OpRef} {u : Run} {out : List Token}
    (ha : runningAct s e kind = some (r, u)) (hx : exec i s = .next (endRun s e r u out)) :
    EndsRun i s e r u u.act.id out := fun hr he => by
  obtain ⟨hu, -, hk, -⟩ := runningAct_spec ha
  obtain ⟨h1, h2, h3, h4⟩ := endRun_spec (e := e) hr (.inr he)
  refine ⟨_, hx, ?_, h1, h2, h4.same .threads (by decide), h4.sameBytes (by decide)⟩
  rw [h3, hk]
  unfold unitRun at hu ⊢
  split
  · next h => rw [if_pos h] at hu; exact filter_act hu
  · next h => rw [if_neg h] at hu; exact filter_act hu

theorem emitTile_full {s : State} {e : Eng} {r : OpRef} {u : Run} {id : TileId} {ds : List TileId} {mode : Nat}
    (hd : u.dests = id :: ds) (hf : tileFull s id = true) : emitTile s e r u mode =
      endRun s e r u (toPort r 0 (tileTok s u id mode ((u.resid.head?).getD 0)) ++ (u.extra.map (toPort r 1)).getD []) := by
  unfold emitTile
  rw [hd]
  exact if_neg (by rw [hf]; decide)

/-! ### The work of each kind -/

section
variable {s : State} {e : Eng} {r : OpRef} {u : Run} {id : TileId} {ds : List TileId}

/-- The work of an activation that has its inputs and whose residues match. -/
structure Works (s : State) (e : Eng) (kind : Nat) (r : OpRef) (u : Run) : Prop where
  running : runningAct s e kind = some (r, u)
  phase : u.phase = 0
  received : allReceived u = true
  sound : runMismatch s u = none

theorem Works.run {kind : Nat} (h : Works s e kind r u) (hk : kind ≠ 0x12) : (getEng s e).run = some u := by
  have hu := (runningAct_spec h.running).1
  unfold unitRun at hu
  rwa [if_neg hk] at hu

theorem Works.course {kind mode : Nat} {fault : State → Start → Option (Nat × Nat)} {work : State → OpRef → Run → State}
    (h : Works s e kind r u) : course s e kind mode fault work = work s r u :=
  course_works h.running h.phase h.received h.sound

variable (hd : u.dests = id :: ds)
include hd

theorem exec_gather_work (h : Works s e 0x13 r u) : exec (.gather e) s =
    let l := inputTok u 0
    let x := inputTok u 1
    let o := gatherOut (tokFmt l) (tokRows l) (tokCols l) (tokFmt x) (tokRows x * tokCols x) (inputImg u 0) (inputImg u 1)
    .next (writeOut s e r u id o.1 (plainAreas s id) o.2 none) := by
  refine (congrArg Host.Outcome.next h.course).trans ?_
  simp only [hd]

theorem exec_repeatOp_work (h : Works s e 0x14 r u) : exec (.repeatOp e) s =
    let l := inputTok u 0
    .next (writeOut s e r u id (repeatOut (tokFmt l) (tokRows l) (tokCols l) (tokScalar (inputTok u 1)) (bit (opCfg r.op 0) 32)
      (bit (opCfg r.op 0) 33) (inputImg u 0)) (plainAreas s id) 0 none) := by
  refine (congrArg Host.Outcome.next h.course).trans ?_
  simp only [hd]

theorem exec_transp_work (h : Works s e 0x16 r u) : exec (.transp e) s =
    let l := inputTok u 0
    .next (writeOut s e r u id (transpOut (tokFmt l) (tokRows l) (tokCols l) (inputImg u 0)) (plainAreas s id) 0 none) := by
  refine (congrArg Host.Outcome.next h.course).trans ?_
  simp only [hd]

theorem exec_conv_work (h : Works s e 0x17 r u) : ∃ area, exec (.conv e) s =
    .next (writeOut s e r u id (convOut u (opCfg r.op 0) (opType r.op)).1 area (convOut u (opCfg r.op 0) (opType r.op)).2.2
      none) := by
  refine ⟨if bit (opCfg r.op 0) 36 then
      blockArea (getTile s id) (bits (opCfg r.op 0) 39 37) (convOut u (opCfg r.op 0) (opType r.op)).2.1
    else plainAreas s id, (congrArg Host.Outcome.next h.course).trans ?_⟩
  simp only [hd]

end

theorem exec_conv_emits {s : State} {e : Eng} {r : OpRef} {u : Run} (h : runningAct s e 0x17 = some (r, u)) (h0 : u.phase ≠ 0) :
    exec (.conv e) s = .next (emitTile s e r u (b2n (bit (opCfg r.op 0) 36))) := by
  obtain ⟨hu, hr, -, -⟩ := runningAct_spec h
  have hu : (getEng s e).run = some u := hu
  show execConv e s = _
  unfold execConv
  simp only [hu, hr]
  exact congrArg _ (course_emits h h0)

/-! ### SWIN's delay line -/

theorem writeLine_touches_l0 (s : State) (o : Op) (b : Nat) (bs : List Byte) :
    Touches [.l0, .ecc, .eccL0, .bankModes] s (writeLine s o b bs) :=
  .foldl (fun _ _ => (writeUnit_l0 ..).2) _ _

/-- What a SWIN's work has done before it looks at the window: the row is in the line and the next row is expected. -/
def swinLined (s : State) (e : Eng) (r : OpRef) (u : Run) : State :=
  let c := opCfg r.op 0
  let l := inputTok u 0
  let x := tokScalar (inputTok u 1)
  modSlot (writeLine s r.op (x % swinDepth c * tokBytes l) (inputImg u 0)) e r.op.slot fun d =>
    { d with q := (x + 1) % (bits c 59 44 + 1), cols0 := if x = 0 then tokCols l else d.cols0 }

section
variable {s : State} {e : Eng} {r : OpRef} {u : Run} (h : Works s e 0x15 r u)
include h

theorem exec_swin_row (hd : u.dests = []) : exec (.swin e) s = .next (endRun (swinLined s e r u) e r u []) := by
  refine (congrArg Host.Outcome.next h.course).trans ?_
  simp only [hd]
  rfl

theorem exec_swin_window {id : TileId} {ds : List TileId} {y : Nat} (hd : u.dests = id :: ds)
    (hy : winStart (opCfg r.op 0) (tokScalar (inputTok u 1)) = some y) :
    let as_ := windowAddrs r.op (opCfg r.op 0) y (tokBytes (inputTok u 0))
    (as_.map (· / 8)).dedup.any (eccBad (swinLined s e r u) true) = false → exec (.swin e) s =
      .next (writeOut (countWords (swinLined s e r u) true as_) e r u id (as_.map (memGet (swinLined s e r u).l0))
        (plainAreas (swinLined s e r u) id) 0 (if opNout r.op = 2 then some (scalarTok u y) else none)) := by
  intro as_ hb
  refine (congrArg Host.Outcome.next h.course).trans ?_
  simp only [hd, hy]
  exact congrArg _ (if_neg fun hc => Bool.false_ne_true (hb.symm.trans hc))

end

/-- Settles O42: each kind's work ends in `writeOut` of its image, a SWIN's after its row is in the line; a FULL destination
ends the activation. -/
theorem shapersWork : Obligations.ShapersWork := by
  intro s e r u l x img c works line moved
  have hw : ∀ {k : Nat}, works k → Works s e k r u := fun ⟨h1, h2, h3, h4⟩ => ⟨h1, h2, h3, h4⟩
  have hl := writeLine_touches_l0 s r.op (tokScalar x % swinDepth c * tokBytes l) img
  have hs := modSlot_touches line e r.op.slot fun d =>
    { d with q := (tokScalar x + 1) % (bits c 59 44 + 1), cols0 := if tokScalar x = 0 then tokCols l else d.cols0 }
  have hv : Touches [.engines, .l0, .ecc, .eccL0, .bankModes] s (swinLined s e r u) := hs.after (by decide) (hl.mono (by decide))
  have hq : (tget {} r.op.slot (getEng (swinLined s e r u) e).slots).q = (tokScalar x + 1) % (bits c 59 44 + 1) :=
    congrArg SlotDyn.q (slot_modSlot ..)
  have hmoved : ∀ {t : State} {fs : List Field}, Touches fs (swinLined s e r u) t → Field.threads ∉ fs → Field.l0 ∉ fs →
      Field.hbm ∉ fs → Field.hostMem ∉ fs →
      (tget {} r.op.slot (getEng t e).slots).q = (tget {} r.op.slot (getEng (swinLined s e r u) e).slots).q → moved t := by
    intro t fs ht h1 h2 h3 h4 h5
    refine ⟨Eq.trans (ht.same .threads h1) (hv.same .threads (by decide)), fun a => ⟨?_, ?_, ?_⟩, h5.trans hq⟩
    · rw [show t.l0 = line.l0 from Eq.trans (ht.same .l0 h2) (hs.same .l0 (by decide))]
    · rw [show t.hbm = s.hbm from Eq.trans (ht.same .hbm h3) (hv.same .hbm (by decide))]
    · rw [show t.hostMem = s.hostMem from Eq.trans (ht.same .hostMem h4) (hv.same .hostMem (by decide))]
  refine ⟨fun id ds hd => ⟨fun h => ?_, fun h => ?_, fun h => ?_, fun h => ?_, fun y h hy hi => ?_, fun p hp ha h0 hf => ?_⟩,
    fun h hd => ?_⟩
  · exact writesOut_of ((hw h).run (by decide)) (exec_gather_work hd (hw h))
  · exact writesOut_of ((hw h).run (by decide)) (exec_repeatOp_work hd (hw h))
  · exact writesOut_of ((hw h).run (by decide)) (exec_transp_work hd (hw h))
  · obtain ⟨area, hx⟩ := exec_conv_work hd (hw h)
    exact writesOut_of ((hw h).run (by decide)) hx
  · intro as_ hb
    have hx := exec_swin_window (hw h) hd hy hb
    have hc := countWords_touches (swinLined s e r u) true as_
    have hcv : getTile (countWords (swinLined s e r u) true as_) id = getTile s id := by
      rw [hc.getTile (by decide), hv.getTile (by decide)]
    have hrun : (getEng (countWords (swinLined s e r u) true as_) e).run = some u := by
      rw [hc.getEng (by decide)]
      have : (getEng (swinLined s e r u) e).run = (getEng line e).run := by
        unfold swinLined modSlot
        rw [getEng_modEng]
      rw [this, hl.getEng (by decide)]
      exact (hw h).run (by decide)
    have hi' : imageRefused (countWords (swinLined s e r u) true as_) id = none := by
      unfold imageRefused
      rw [hcv]
      exact hi
    obtain ⟨h1, ⟨ws, h2, h3, h4⟩, h5, h6⟩ := writeOut_spec r (as_.map (memGet (swinLined s e r u).l0))
      (plainAreas (swinLined s e r u) id) 0 (if opNout r.op = 2 then some (scalarTok u y) else none) hrun hi'
    have hall := h6.after (l := [.engines, .tiles, .chunkWrites, .memTiles, .nextId, .bankModes]) (by decide) (hc.mono (by decide))
    refine ⟨_, hx, hmoved hall (by decide) (by decide) (by decide) (by decide) ?_, h1, ws, ?_, by rw [h3, hcv], h4⟩
    · rw [congrArg SlotDyn.q h5, hc.getEng (by decide)]
    · rw [h2, show (countWords (swinLined s e r u) true as_).chunkWrites = s.chunkWrites from
        Eq.trans (hc.same .chunkWrites (by decide)) (hv.same .chunkWrites (by decide))]
  · simp only [List.mem_cons, List.not_mem_nil, or_false] at hp
    rcases hp with rfl | rfl | rfl | rfl | rfl
    · exact endsRun_of ha (congrArg _ ((course_emits ha h0).trans (emitTile_full hd hf)))
    · exact endsRun_of ha (congrArg _ ((course_emits ha h0).trans (emitTile_full hd hf)))
    · exact endsRun_of ha (congrArg _ ((course_emits ha h0).trans (emitTile_full hd hf)))
    · exact endsRun_of ha (congrArg _ ((course_emits ha h0).trans (emitTile_full hd hf)))
    · exact endsRun_of ha ((exec_conv_emits ha h0).trans (congrArg _ (emitTile_full hd hf)))
  · obtain ⟨h1, -, h3, h4⟩ := endRun_spec (s := swinLined s e r u) (e := e) (r := r) (u := u) (out := []) rfl (.inl rfl)
    have hrun : (getEng (swinLined s e r u) e).run = some u := by
      have : (getEng (swinLined s e r u) e).run = (getEng line e).run := by
        unfold swinLined modSlot
        rw [getEng_modEng]
      rw [this, hl.getEng (by decide)]
      exact (hw h).run (by decide)
    refine ⟨_, exec_swin_row (hw h) hd, by rw [h3]; exact filter_act hrun,
      hmoved h4 (by decide) (by decide) (by decide) (by decide) (by rw [h3]), ?_⟩
    rw [h1, show (swinLined s e r u).updates = s.updates from hv.same .updates (by decide)]
    simp

end Sys2Proof.Machine
end

section
/-!
PROOFS. Proofs/Images.lean: the bytes that GATHER, REPEAT and TRANSP write (spec/06 R156, R157, R159).
-/
namespace Sys2Proof.Machine

/-! ### Images made of pieces of one length -/

theorem flatMap_length_of {α β : Type} {f : α → List β} {n : Nat} {l : List α} (h : ∀ x ∈ l, (f x).length = n) :
    (l.flatMap f).length = l.length * n := by
  induction l with
  | nil => rw [List.flatMap_nil, List.length_nil, List.length_nil, Nat.zero_mul]
  | cons x l ih =>
    rw [List.flatMap_cons, List.length_append, h x List.mem_cons_self, ih fun y hy => h y (List.mem_cons_of_mem _ hy),
      List.length_cons, Nat.succ_mul, Nat.add_comm]

/-- Piece k of a list of pieces of n elements. -/
theorem flatMap_piece {α β : Type} {f : α → List β} {n : Nat} {l : List α} (h : ∀ x ∈ l, (f x).length = n) {k : Nat}
    (hk : k < l.length) : ((l.flatMap f).drop (k * n)).take n = f l[k] := by
  induction l generalizing k with
  | nil => exact absurd hk (Nat.not_lt_zero _)
  | cons x l ih =>
    have hx := h x List.mem_cons_self
    rw [List.flatMap_cons]
    cases k with
    | zero => rw [Nat.zero_mul, List.drop_zero, List.take_left' hx]; rfl
    | succ k =>
      have hd : (k + 1) * n = (f x).length + k * n := by rw [hx, Nat.succ_mul, Nat.add_comm]
      rw [hd, List.drop_length_add_append]
      exact ih (fun y hy => h y (List.mem_cons_of_mem _ hy)) (Nat.lt_of_succ_lt_succ hk)

theorem range_piece {β : Type} {f : Nat → List β} {n m k : Nat} (h : ∀ i < m, (f i).length = n) (hk : k < m) :
    (((List.range m).flatMap f).drop (k * n)).take n = f k := by
  have hp := flatMap_piece (fun i hi => h i (List.mem_range.1 hi)) (by rw [List.length_range]; exact hk)
  rwa [List.getElem_range] at hp

/-- Element (a, b) of an image of rows of elements. -/
theorem range_element {β : Type} {f : Nat → Nat → List β} {n m w a b : Nat} (h : ∀ i < m, ∀ j < w, (f i j).length = n)
    (ha : a < m) (hb : b < w) :
    (((List.range m).flatMap fun i => (List.range w).flatMap (f i)).drop ((a * w + b) * n)).take n = f a b := by
  have hrow : ∀ i < m, ((List.range w).flatMap (f i)).length = w * n := fun i hi => by
    rw [flatMap_length_of fun j hj => h i hi j (List.mem_range.1 hj), List.length_range]
  have hp := range_piece hrow ha
  have hle : b * n + n ≤ w * n := by rw [← Nat.succ_mul]; exact Nat.mul_le_mul_right _ hb
  have hq := range_piece (h a ha) hb
  rw [← hp, List.drop_take, List.drop_drop, List.take_take, Nat.min_eq_left (Nat.le_sub_of_add_le (by omega))] at hq
  rw [← hq, Nat.add_mul, Nat.mul_assoc]

/-- An element that lies in its image has all its bytes. -/
theorem imgElem_length {img : List Byte} {n i : Nat} (h : (i + 1) * n ≤ img.length) : (imgElem img n i).length = n := by
  unfold imgElem
  rw [List.length_take, List.length_drop]
  rw [Nat.succ_mul] at h
  omega

theorem elem_in_image {h w n i j : Nat} {img : List Byte} (hl : img.length = h * w * n) (hi : i < h) (hj : j < w) :
    (i * w + j + 1) * n ≤ img.length := by
  rw [hl]
  refine Nat.mul_le_mul_right _ ?_
  calc i * w + j + 1 ≤ i * w + w := by omega
    _ = (i + 1) * w := (Nat.succ_mul i w).symm
    _ ≤ h * w := Nat.mul_le_mul_right _ hi

/-! ### TRANSP and REPEAT -/

theorem transpOut_element {fmt h w : Nat} {img : List Byte} (hl : img.length = h * w * elemBytes fmt) {i j : Nat} (hi : i < h)
    (hj : j < w) : imgElem (transpOut fmt h w img) (elemBytes fmt) (j * h + i) = imgElem img (elemBytes fmt) (i * w + j) :=
  range_element (f := fun j i => imgElem img (elemBytes fmt) (i * w + j))
    (fun _ hj _ hi => imgElem_length (elem_in_image hl hi hj)) hj hi

/-- The row that an output row of REPEAT takes. -/
theorem repeatRow_lt {c h i : Nat} (each : Bool) (hi : i < c * h) : (if each then i / c else i % h) < h := by
  cases each with
  | true => exact Nat.div_lt_of_lt_mul hi
  | false => exact Nat.mod_lt _ (Nat.pos_of_ne_zero fun h0 => by subst h0; exact absurd hi (Nat.not_lt_zero _))

theorem repeatOut_element {fmt h w c : Nat} {each : Bool} {img : List Byte} (hl : img.length = h * w * elemBytes fmt) {i j : Nat}
    (hi : i < c * h) (hj : j < w) : imgElem (repeatOut fmt h w c false each img) (elemBytes fmt) (i * w + j) =
      imgElem img (elemBytes fmt) ((if each then i / c else i % h) * w + j) :=
  range_element (f := fun i j => imgElem img (elemBytes fmt) ((if each then i / c else i % h) * w + j))
    (fun _ hi _ hj => imgElem_length (elem_in_image hl (repeatRow_lt each hi) hj)) hi hj

/-! ### GATHER -/

/-- The bytes of row i of a GATHER's output, and the flag it raises. -/
def gatherRow (fmt rows cols ifmt : Nat) (tab idx : List Byte) (i : Nat) : List Byte × Nat :=
  match gatherIdx ifmt idx i with
  | none => (absentBytes fmt cols, 0)
  | some k => if k < 0 ∨ (rows : Int) ≤ k then (absentBytes fmt cols, fInvalid) else (imgRow tab cols (elemBytes fmt) k.toNat, 0)

/-- GATHER's output is its rows one after the other; its flags hold those of every row. -/
theorem gatherOut_rows (fmt rows cols ifmt n : Nat) (tab idx : List Byte) :
    (gatherOut fmt rows cols ifmt n tab idx).1 = (List.range n).flatMap (fun i => (gatherRow fmt rows cols ifmt tab idx i).1) ∧
      ∀ i < n, (gatherRow fmt rows cols ifmt tab idx i).2 = fInvalid → (gatherOut fmt rows cols ifmt n tab idx).2 &&& fInvalid ≠ 0 := by
  have hstep : ∀ (o : List Byte × Nat) i, (match gatherIdx ifmt idx i with
      | none => (o.1 ++ absentBytes fmt cols, o.2)
      | some k => if k < 0 ∨ (rows : Int) ≤ k then (o.1 ++ absentBytes fmt cols, o.2 ||| fInvalid)
        else (o.1 ++ imgRow tab cols (elemBytes fmt) k.toNat, o.2)) =
      (o.1 ++ (gatherRow fmt rows cols ifmt tab idx i).1, o.2 ||| (gatherRow fmt rows cols ifmt tab idx i).2) := by
    intro o i
    unfold gatherRow
    cases gatherIdx ifmt idx i with
    | none => simp
    | some k =>
      dsimp only
      split
      · rfl
      · simp
  have hg : ∀ n, gatherOut fmt rows cols ifmt n tab idx = (List.range n).foldl (fun o i =>
      (o.1 ++ (gatherRow fmt rows cols ifmt tab idx i).1, o.2 ||| (gatherRow fmt rows cols ifmt tab idx i).2)) ([], 0) := fun n => by
    unfold gatherOut
    exact congrArg (fun f => (List.range n).foldl f ([], 0)) (funext fun o => funext fun i => hstep o i)
  have hs : ∀ n, gatherOut fmt rows cols ifmt (n + 1) tab idx =
      ((gatherOut fmt rows cols ifmt n tab idx).1 ++ (gatherRow fmt rows cols ifmt tab idx n).1,
        (gatherOut fmt rows cols ifmt n tab idx).2 ||| (gatherRow fmt rows cols ifmt tab idx n).2) := fun n => by
    rw [hg, hg, List.range_succ, List.foldl_append]
    rfl
  induction n with
  | zero => exact ⟨rfl, fun i hi => absurd hi (Nat.not_lt_zero _)⟩
  | succ n ih =>
    obtain ⟨h1, h2⟩ := ih
    rw [hs]
    refine ⟨?_, fun i hi hf => ?_⟩
    · rw [h1, List.range_succ, List.flatMap_append, List.flatMap_singleton]
    · show ((gatherOut fmt rows cols ifmt n tab idx).2 ||| _) &&& fInvalid ≠ 0
      rw [Nat.and_or_distrib_right]
      by_cases hin : i = n
      · subst hin
        rw [hf, Nat.and_self]
        exact fun h => absurd (Nat.or_eq_zero_iff.1 h).2 (by decide)
      · exact fun h => h2 i (by omega) hf (Nat.or_eq_zero_iff.1 h).1

theorem absentBytes_length (fmt n : Nat) : (absentBytes fmt n).length = n * elemBytes fmt := by
  unfold absentBytes
  rw [flatMap_length_of fun _ _ => leBytes_length .., List.length_range]

theorem imgRow_length {rows cols n k : Nat} {tab : List Byte} (hl : tab.length = rows * cols * n) (hk : k < rows) :
    (imgRow tab cols n k).length = cols * n := by
  have h : k * cols * n + cols * n ≤ rows * cols * n := by
    rw [← Nat.add_mul, ← Nat.succ_mul]
    exact Nat.mul_le_mul_right _ (Nat.mul_le_mul_right _ hk)
  unfold imgRow
  rw [List.length_take, List.length_drop, hl]
  omega

theorem gatherRow_length {fmt rows cols ifmt : Nat} {tab idx : List Byte} (hl : tab.length = rows * cols * elemBytes fmt) (i : Nat) :
    (gatherRow fmt rows cols ifmt tab idx i).1.length = cols * elemBytes fmt := by
  unfold gatherRow
  split
  · exact absentBytes_length ..
  · next k _ =>
    split
    · exact absentBytes_length ..
    · exact imgRow_length hl (by omega)

/-- Settles O43: an image is a list of pieces of one length, so a place in it is a piece. -/
theorem shaperImages : Obligations.ShaperImages := by
  refine ⟨fun fmt h w img hl i j hi hj => transpOut_element hl hi hj, fun fmt h w c each img hl i j hi hj => repeatOut_element hl hi hj,
    fun fmt rows cols ifmt n tab idx hl i hi => ?_⟩
  intro out
  obtain ⟨h1, h2⟩ := gatherOut_rows fmt rows cols ifmt n tab idx
  have hp : (out.drop (i * cols * elemBytes fmt)).take (cols * elemBytes fmt) = (gatherRow fmt rows cols ifmt tab idx i).1 := by
    have h := range_piece (f := fun i => (gatherRow fmt rows cols ifmt tab idx i).1) (fun i _ => gatherRow_length hl i) hi
    rwa [← h1, ← Nat.mul_assoc] at h
  refine ⟨fun k hk hlt => ?_, fun k hk ho => ⟨?_, h2 i hi ?_⟩⟩
  · have hn : ¬((k : Int) < 0 ∨ (rows : Int) ≤ k) := by omega
    have hk' : gatherIdx ifmt idx i = some (k : Int) := hk
    rw [hp]
    unfold gatherRow
    simp only [hk', if_neg hn]
    rfl
  · rw [hp]
    unfold gatherRow
    simp only [hk, if_pos ho]
  · unfold gatherRow
    simp only [hk, if_pos ho]

end Sys2Proof.Machine
end

section
/-!
PROOFS. Proofs/Array.lean: WLOAD and MMUL on an island (spec/06 R149 to R153; spec/18 R381).
-/
namespace Sys2Proof.Machine

theorem Touches.getIsland {l : List Field} {s t : State} (h : Touches l s t) (hl : l.contains .islands = false) (k : Eng) :
    getIsland t k = getIsland s k := by
  have e : t.islands = s.islands := h.same .islands (by simpa using hl)
  unfold Machine.getIsland
  rw [e]

theorem getIsland_modIsland (s : State) (e : Eng) (f : Island → Island) : getIsland (modIsland s e f) e = f (getIsland s e) :=
  tget_tset_same ..

/-- A fault leaves the units of every engine. -/
theorem opFault_engSame {α : Type} {p : Engine → α} (hp : ∀ x l, p { x with fault := l } = p x) (s : State) (r : OpRef)
    (vrow : Nat) (toks : List Token) (cause tval : Nat) : EngSame p s (opFault s r vrow toks cause tval) := by
  unfold opFault
  extract_lets lid tag
  have h1 : EngSame p s (setAsideToks s r.op.eng r.op.slot vrow 2 toks) := EngSame.modEng (fun x => hp x _) _ _
  exact h1.trans (((noteFault_touches ..).engSame (by decide)).trans ((raiseAt_touches ..).engSame (by decide)))

/-! ### Banks -/

theorem bankOf_setBank (i : Island) (b : Bool) (w : WBank) : bankOf (setBank i b w) b = w := by
  cases b <;> rfl

theorem swapDue_acc (i : Island) : (swapDue i).acc = i.acc ∧ (swapDue i).acls = i.acls ∧
    ∀ b, bankOf (swapDue i) b = bankOf i b := by
  unfold swapDue
  split
  · exact ⟨rfl, rfl, fun b => by cases b <;> rfl⟩
  · exact ⟨rfl, rfl, fun _ => rfl⟩

theorem releaseBank_acc (s : State) (e : Eng) (a : Act) : (getIsland (releaseBank s e a) e).acc = (getIsland s e).acc ∧
    (getIsland (releaseBank s e a) e).acls = (getIsland s e).acls := by
  unfold releaseBank
  split
  · exact ⟨rfl, rfl⟩
  · rw [getIsland_modIsland, (swapDue_acc _).1, (swapDue_acc _).2.1]
    split
    · exact ⟨rfl, rfl⟩
    · exact ⟨rfl, rfl⟩

/-! ### WLOAD -/

theorem exec_wload_start {s : State} {e : Eng} {f : Start} (h : starting s e 0x12 = some f) : exec (.wload e) s =
    .next (match (getEng (startRun s f (wloadFault f) {}) e).wload with
      | some _ => modIsland (startRun s f (wloadFault f) {}) e fun i =>
          { setBank i (!i.act) { bankOf i (!i.act) with valid := false } with load := true }
      | none => startRun s f (wloadFault f) {}) := by
  show execWload e s = _
  unfold execWload
  rw [runningAct_none (starting_spec h).2.2, h] <;> rfl

section
variable {s : State} {e : Eng} {f : Start} (hs : starting s e 0x12 = some f) (hp : f.toks.any (·.poison) = false)
  (hm : ∀ t ∈ f.toks, scalarMismatch t = none)
include hs hp hm

/-- A WLOAD without a fault starts, and its bank is no longer valid. -/
theorem wload_starts (hf : wloadFault f = none) : StartsRun (.wload e) s e f ∧ ∃ t, exec (.wload e) s = .next t ∧
    (getIsland t e).load = true ∧ (bankOf (getIsland t e) (!(getIsland s e).act)).valid = false := by
  have hx := exec_wload_start hs
  obtain ⟨rfl, hk, -⟩ := starting_spec hs
  obtain ⟨h1, h2, h3⟩ := startRun_starts hp hm (s := s) {}
  rw [hf] at hx
  have hw : (getEng (startRun s f none {}) f.r.op.eng).wload = some (startedRun f {}) := by
    rw [hk] at h1
    exact h1
  rw [hw] at hx
  have hi := modIsland_touches (startRun s f none {}) f.r.op.eng fun i =>
    { setBank i (!i.act) { bankOf i (!i.act) with valid := false } with load := true }
  refine ⟨⟨_, hx, ?_, ?_, Eq.trans (hi.same .threads (by decide)) (h3.same .threads (by decide)),
    (h3.sameBytes (by decide)).trans (hi.sameBytes (by decide))⟩, _, hx, ?_, ?_⟩
  · rw [hi.getEng (by decide)]; exact h1
  · rw [hi.getEng (by decide)]; exact h2
  · rw [getIsland_modIsland]
  · rw [getIsland_modIsland, h3.getIsland (by decide)]
    show (bankOf (setBank _ (!(getIsland s f.r.op.eng).act) _) (!(getIsland s f.r.op.eng).act)).valid = false
    rw [bankOf_setBank]

theorem wload_faults {c v : Nat} (hr : faultRoom s e f.toks.length = true) (hd : f.act.dests = [])
    (hf : wloadFault f = some (c, v)) : FaultsStart (.wload e) s e f c := by
  have hx := exec_wload_start hs
  obtain ⟨rfl, hk, hn⟩ := starting_spec hs
  rw [hf] at hx
  have hw : (getEng (startRun s f (some (c, v)) {}) f.r.op.eng).wload = none := by
    rw [startRun_fault_eq hp hm {} hr hd]
    refine Eq.trans (opFault_engSame (p := Engine.wload) (fun _ _ => rfl) _ _ _ _ _ _ _) ?_
    rw [(releaseBank_touches ..).getEng (by decide)]
    exact (congrArg (·.2.1) (takeStart_work s f)).trans hn
  rw [hw] at hx
  exact ⟨_, hx, startRun_faults hp hm {} hr hd⟩

end

/-- The bank that a WLOAD writes. -/
def loadedBank (u : Run) : WBank :=
  let l := inputTok u 0
  { valid := true, fmt := tokFmt l, k := tokCols l, n := tokRows l, sc := decide (tokMode l = 1), data := inputImg u 0,
    bursts := u.recv }

/-- The island when a WLOAD has written its bank. -/
def loadedIsland (u : Run) (i : Island) : Island := swapDue { setBank i (!i.act) (loadedBank u) with swp := true, load := false }

theorem loadedIsland_spec (u : Run) (i : Island) : (loadedIsland u i).load = false ∧
    (loadedIsland u i).swp = decide (i.bact ≠ 0) ∧ (loadedIsland u i).act = (if i.bact = 0 then !i.act else i.act) ∧
    bankOf (loadedIsland u i) (!i.act) = loadedBank u := by
  have hb : (setBank i (!i.act) (loadedBank u)).bact = i.bact ∧ (setBank i (!i.act) (loadedBank u)).act = i.act := by
    unfold setBank
    split <;> exact ⟨rfl, rfl⟩
  have hs : bankOf (loadedIsland u i) (!i.act) = loadedBank u := by
    refine ((swapDue_acc _).2.2 _).trans ?_
    show bankOf (setBank i (!i.act) (loadedBank u)) (!i.act) = _
    exact bankOf_setBank ..
  obtain ⟨h1, h2⟩ := hb
  unfold loadedIsland swapDue at *
  by_cases h : i.bact = 0
  · rw [if_pos ⟨rfl, h1.trans h⟩]
    exact ⟨rfl, by simp [h], by rw [if_pos h]; exact congrArg (!·) h2, by rw [if_pos ⟨rfl, h1.trans h⟩] at hs; exact hs⟩
  · have hn : ¬(true = true ∧ (setBank i (!i.act) (loadedBank u)).bact = 0) := fun hc => h (h1.symm.trans hc.2)
    rw [if_neg hn]
    exact ⟨rfl, by simp [h], by rw [if_neg h]; exact h2, by rw [if_neg hn] at hs; exact hs⟩

theorem exec_wload_ends {s : State} {e : Eng} {r : OpRef} {u : Run} (h : runningAct s e 0x12 = some (r, u))
    (ha : allReceived u = true) (hm : runMismatch s u = none) : exec (.wload e) s =
      .next (endRun (modIsland s e (loadedIsland u)) e r u (if opNout r.op = 1 then toPort r 0 (signalTok u) else [])) := by
  show execWload e s = _
  simp only [execWload, h, ha, checked, hm, Bool.not_true, Bool.false_eq_true, if_false]
  rfl

/-- An activation that ends from a state that differs in what an end does not look at. -/
theorem endsRun_after {i : Instr} {s v : State} {e : Eng} {l : List Field} {r : OpRef} {u w : Run} {out : List Token}
    (hk : unitRun (getEng v e) (opKind r.op) = some w) (hw : w.act.id = u.act.id) (ht : w.toks = u.toks)
    (hv : Touches l s v) (hl : ∀ f ∈ [Field.tiles, .graphs, .updates, .retires, .threads, .hbm, .l0, .hostMem], f ∉ l)
    (hx : exec i s = .next (endRun v e r w out)) : EndsRun i s e r u u.act.id out := fun hr he => by
  have ho : SameIn Graph.ops s v := hv.sameIn (by simpa using hl .graphs (by decide))
  have hr' : refsRoom v out = true := by
    unfold refsRoom at hr ⊢
    simpa only [hv.getTile (by simpa using hl .tiles (by decide))] using hr
  obtain ⟨h1, h2, h3, h4⟩ := endRun_spec (s := v) (e := e) (r := r) (u := w) hr' (.inr (by rw [ht]; exact he.congr ho))
  rw [ht, hw, risesFor_congr ho, show v.updates = s.updates from hv.same .updates (hl _ (by decide))] at h1
  rw [ht, show v.retires = s.retires from hv.same .retires (hl _ (by decide))] at h2
  refine ⟨_, hx, ?_, h1, h2, Eq.trans (h4.same .threads (by decide)) (hv.same .threads (hl _ (by decide))), fun a => ⟨?_, ?_, ?_⟩⟩
  · rw [h3]
    unfold unitRun at hk ⊢
    split
    · next h => rw [if_pos h] at hk; exact filter_act hk
    · next h => rw [if_neg h] at hk; exact filter_act hk
  · rw [show (endRun v e r w out).hbm = s.hbm from Eq.trans (h4.same .hbm (by decide)) (hv.same .hbm (hl _ (by decide)))]
  · rw [show (endRun v e r w out).l0 = s.l0 from Eq.trans (h4.same .l0 (by decide)) (hv.same .l0 (hl _ (by decide)))]
  · rw [show (endRun v e r w out).hostMem = s.hostMem from
      Eq.trans (h4.same .hostMem (by decide)) (hv.same .hostMem (hl _ (by decide)))]

/-! ### MMUL -/

/-- Without an arithmetic error the mod-3 check finds nothing. -/
theorem addRows_sound (afmt amode rows k base : Nat) (w : WBank) (img : List Byte) (bursts : List Burst)
    (acc : Tbl (Nat × Nat) Lane) : (addRows afmt amode rows k base w img bursts acc none).bad = false := by
  have hadd : ∀ key ps o, o.err = none ∧ o.bad = false → (addAt afmt key ps o).err = none ∧ (addAt afmt key ps o).bad = false := by
    intro key ps o ⟨h1, h2⟩
    have hd : (if (presentProds ps).isEmpty = true then none else (none : Option Int)) = none := ite_self _
    unfold addAt
    simp only [h1, h2, hd, Option.isSome_none, Option.map_none, Option.getD_none, Bool.or_self, Bool.false_eq_true, if_false]
    exact ⟨trivial, trivial⟩
  have hfold : ∀ {α : Type} (f : RowsOut → α → RowsOut), (∀ o x, o.err = none ∧ o.bad = false → (f o x).err = none ∧ (f o x).bad = false) →
      ∀ (l : List α) (o : RowsOut), o.err = none ∧ o.bad = false → (l.foldl f o).err = none ∧ (l.foldl f o).bad = false := by
    intro α f hf l
    induction l with
    | nil => exact fun _ h => h
    | cons x l ih => exact fun o h => ih _ (hf o x h)
  unfold addRows
  exact (hfold _ (fun o i h => hfold _ (fun o j h => hadd _ _ o h) _ o h) _ _ ⟨rfl, rfl⟩).2

theorem exec_mmul_start {s : State} {e : Eng} {f : Start} (h : starting s e 0x11 = some f) :
    exec (.mmul e) s = .next (startRun s f (mmulFault s f) {}) := congrArg _ (course_starts h)

/-- The rows that an MMUL adds. -/
def mmulRows (s : State) (e : Eng) (r : OpRef) (u : Run) (b : Bool) : RowsOut :=
  let l := inputTok u 0
  addRows (tokFmt l) (tokMode l) (tokRows l) (tokCols l) (bits (runCtl r u) 6 0) (bankOf (getIsland s e) b) (inputImg u 0)
    (u.recv.filter (·.input = 0)) (if bit (runCtl r u) 8 then [] else (getIsland s e).acc) (getEng s e).arithErr

/-- The state in which an MMUL has added its rows and given up its bank. -/
def mmulAdded (s : State) (e : Eng) (r : OpRef) (u : Run) (a : RowsOut) : State :=
  modRun (setFlags (releaseBank (setIsland (modEng s e fun x => { x with arithErr := a.err }) e
    { getIsland s e with acc := a.acc, acls := accClass (tokFmt (inputTok u 0)) }) e u.act) e r.op.slot a.fl) e unbound

theorem mmulAdded_spec (s : State) (e : Eng) (r : OpRef) (u : Run) (a : RowsOut) (hu : (getEng s e).run = some u) :
    Touches [.engines, .islands] s (mmulAdded s e r u a) ∧ (getEng (mmulAdded s e r u a) e).run = some (unbound u) ∧
      (getIsland (mmulAdded s e r u a) e).acc = a.acc ∧
      (getIsland (mmulAdded s e r u a) e).acls = accClass (tokFmt (inputTok u 0)) := by
  let s1 := modEng s e fun x => { x with arithErr := a.err }
  let s2 := setIsland s1 e { getIsland s e with acc := a.acc, acls := accClass (tokFmt (inputTok u 0)) }
  let s3 := releaseBank s2 e u.act
  have h1 : Touches [.engines] s s1 := modEng_touches ..
  have h2 : Touches [.islands] s1 s2 := setIsland_touches ..
  have h3 : Touches [.islands] s2 s3 := releaseBank_touches ..
  have h4 := setFlags_touches s3 e r.op.slot a.fl
  have h5 := modRun_touches (setFlags s3 e r.op.slot a.fl) e unbound
  have h32 : Touches [.engines, .islands] s s3 := h3.after (by decide) (h2.after (by decide) (h1.mono (by decide)))
  obtain ⟨ha, hc⟩ := releaseBank_acc s2 e u.act
  have hi : getIsland s2 e = { getIsland s e with acc := a.acc, acls := accClass (tokFmt (inputTok u 0)) } := tget_tset_same ..
  have hr : (getEng s3 e).run = some u := by
    rw [h3.getEng (by decide), h2.getEng (by decide), getEng_modEng]
    exact hu
  refine ⟨h5.after (by decide) (h4.after (by decide) h32), ?_, ?_, ?_⟩
  · unfold mmulAdded modRun
    rw [getEng_modEng]
    have hf : (getEng (setFlags s3 e r.op.slot a.fl) e).run = some u := by
      unfold setFlags modSlot
      rw [getEng_modEng]
      exact hr
    exact congrArg (Option.map unbound) hf
  · refine (congrArg Island.acc ((h5.getIsland (by decide) e).trans (h4.getIsland (by decide) e))).trans (ha.trans ?_)
    rw [hi]
  · refine (congrArg Island.acls ((h5.getIsland (by decide) e).trans (h4.getIsland (by decide) e))).trans (hc.trans ?_)
    rw [hi]

section
variable {s : State} {e : Eng} {r : OpRef} {u : Run} {b : Bool} (h : Works s e 0x11 r u) (hb : u.act.bank = some b)
include h hb

theorem exec_mmul_bad (ha : (mmulRows s e r u b).bad = true) : exec (.mmul e) s = .next (silent3 s e r u) := by
  refine (congrArg Host.Outcome.next h.course).trans ?_
  simp only [hb, Option.getD_some]
  exact congrArg _ (if_pos ha)

theorem exec_mmul_sound (ha : (mmulRows s e r u b).bad = false) (hc : opCtok r.op = false) : exec (.mmul e) s =
    .next (if bit (runCtl r u) 9 = true then match u.dests with
      | id :: _ =>
        let t := getTile (mmulAdded s e r u (mmulRows s e r u b)) id
        let d := drainAcc (accClass (tokFmt (inputTok u 0))) (bits (opCfg r.op 0) 33 32) t.fmt t.rows t.cols (mmulRows s e r u b).acc
        let v := modIsland (mmulAdded s e r u (mmulRows s e r u b)) e fun i => { i with acc := [], acls := 0 }
        writeOut v e r (unbound u) id d.1 (plainAreas v id) d.2 none
      | [] => mmulAdded s e r u (mmulRows s e r u b)
    else endRun (mmulAdded s e r u (mmulRows s e r u b)) e r (unbound u) []) := by
  refine (congrArg Host.Outcome.next h.course).trans ?_
  simp only [hb, Option.getD_some, hc, Bool.false_eq_true, if_false]
  refine congrArg _ ((if_neg fun hc => Bool.false_ne_true (ha.symm.trans hc)).trans ?_)
  rfl

end

theorem silentData_engSame {α : Type} {p : Engine → α} (hp : ∀ x l, p { x with fault := l } = p x) (s : State) (r : OpRef)
    (vrow : Nat) (toks : List Token) (expected found : Nat) : EngSame p s (silentData s r vrow toks expected found) := by
  unfold silentData
  extract_lets tag
  split
  · exact ((fresh_touches s).engSame (by decide)).trans ((unwindInst_touches ..).engSame (by decide))
  · exact opFault_engSame hp _ _ _ _ _ _

/-- An activation with no destination that a mod-3 mismatch ends: its unit is idle and its accumulators are as they were. -/
theorem silent3_spec {s : State} {e : Eng} (r : OpRef) {u : Run} (hr : faultRoom s e u.toks.length = true) (hd : u.dests = [])
    (hu : (getEng s e).run = some u) : let t := silent3 s e r u
    (getEng t e).run = none ∧ (getIsland t e).acc = (getIsland s e).acc ∧ t.inFlight = s.inFlight ∧ SameBytes s t := by
  let s1 := modEng s e fun x => { x with arithErr := none }
  let s2 := releaseBank s1 e u.act
  let s3 := if ((getEng s2 e).wload.map (·.act)) = some u.act then modIsland s2 e fun i => { i with load := false } else s2
  have h1 : Touches [.engines] s s1 := modEng_touches ..
  have h2 : Touches [.islands] s1 s2 := releaseBank_touches ..
  have h3 : Touches [.islands] s2 s3 := by
    unfold s3
    split
    · exact modIsland_touches ..
    · exact .rfl
  have ha : abortRun s1 e u = dropRun s3 e u := by
    unfold abortRun
    rw [show freeDests s1 u.dests = s1 by rw [hd]; rfl]
  have hi : (getIsland s3 e).acc = (getIsland s e).acc := by
    have h : (getIsland s3 e).acc = (getIsland s2 e).acc := by
      unfold s3
      split
      · rw [getIsland_modIsland]
      · rfl
    rw [h, (releaseBank_acc s1 e u.act).1, h1.getIsland (by decide)]
  have hrun : (getEng (dropRun s3 e u) e).run = none := by
    unfold dropRun
    rw [getEng_modEng]
    refine filter_act ?_
    rw [h3.getEng (by decide), h2.getEng (by decide), getEng_modEng]
    exact hu
  have hdr := dropRun_touches s3 e u
  have hx : silent3 s e r u = silentData (dropRun s3 e u) r u.act.vrow u.toks 0xFFFF 0xFFFF := by
    rw [← ha]
    exact if_neg (by rw [hr]; decide)
  intro t
  rw [show t = _ from hx]
  have ht := silentData_touches (dropRun s3 e u) r u.act.vrow u.toks 0xFFFF 0xFFFF
  have h := ht.after (l := [.engines, .updates, .graphs, .launches, .retires, .reports, .nextId, .islands]) (by decide)
    (hdr.after (by decide) (h3.after (by decide) (h2.after (by decide) (h1.mono (by decide)))))
  refine ⟨(silentData_engSame (p := Engine.run) (fun _ _ => rfl) _ _ _ _ _ _ _).trans hrun, ?_, h.same .inFlight (by decide),
    h.sameBytes (by decide)⟩
  rw [ht.getIsland (by decide), hdr.getIsland (by decide), hi]

/-- What an MMUL that drains leaves. -/
theorem mmul_drains {s : State} {e : Eng} {r : OpRef} {u : Run} {b : Bool} (h : Works s e 0x11 r u) (hb : u.act.bank = some b)
    (ha : (mmulRows s e r u b).bad = false) (hc : opCtok r.op = false) (h9 : bit (runCtl r u) 9 = true) {id : TileId}
    {ds : List TileId} (hd : u.dests = id :: ds) (hi : imageRefused s id = none) :
    ∃ t, exec (.mmul e) s = .next t ∧ (getIsland t e).acc = [] ∧ (getIsland t e).acls = 0 ∧ SameBytes s t ∧
      t.threads = s.threads ∧ ((getEng t e).run.map (·.resid)) = some [residueOf (drainAcc (accClass (tokFmt (inputTok u 0)))
        (bits (opCfg r.op 0) 33 32) (getTile s id).fmt (getTile s id).rows (getTile s id).cols (mmulRows s e r u b).acc).1] := by
  have hx := exec_mmul_sound h hb ha hc
  obtain ⟨h1, h2, -, -⟩ := mmulAdded_spec s e r u (mmulRows s e r u b) (h.run (by decide))
  rw [if_pos h9] at hx
  simp only [hd] at hx
  generalize mmulAdded s e r u (mmulRows s e r u b) = v at *
  let w := modIsland v e fun i => { i with acc := [], acls := 0 }
  have hw : Touches [.islands] v w := modIsland_touches ..
  have hv := hw.after (l := [.engines, .islands]) (by decide) (h1.mono (by decide))
  have hrun : (getEng w e).run = some (unbound u) := by rw [hw.getEng (by decide)]; exact h2
  have hid : imageRefused w id = none := by
    unfold imageRefused
    rw [hv.getTile (by decide)]
    exact hi
  rw [h1.getTile (by decide)] at hx
  obtain ⟨w1, -, -, w4⟩ := writeOut_spec r (drainAcc (accClass (tokFmt (inputTok u 0))) (bits (opCfg r.op 0) 33 32)
    (getTile s id).fmt (getTile s id).rows (getTile s id).cols (mmulRows s e r u b).acc).1 (plainAreas w id)
    (drainAcc (accClass (tokFmt (inputTok u 0))) (bits (opCfg r.op 0) 33 32)
    (getTile s id).fmt (getTile s id).rows (getTile s id).cols (mmulRows s e r u b).acc).2 none hrun hid
  refine ⟨_, hx, ?_, ?_, (hv.sameBytes (by decide)).trans (w4.sameBytes (by decide)),
    Eq.trans (w4.same .threads (by decide)) (hv.same .threads (by decide)), by rw [w1]; rfl⟩
  · rw [w4.getIsland (by decide), getIsland_modIsland]
  · rw [w4.getIsland (by decide), getIsland_modIsland]

/-- Settles O44: a WLOAD's island is `loadedIsland`; an MMUL's rows are `mmulRows`, after which it drains, ends or, at a
mismatch, ends with no token. -/
theorem arrayOperators : Obligations.ArrayOperators := by
  intro s e i
  refine ⟨fun f hs hr hp hm => ?_, fun r u h ha hm => ?_, fun f hs hr hp hm => ⟨fun hf => ?_, fun b hb hv hd => ?_⟩,
    fun r u b h h0 ha hm hb he => ?_⟩
  · intro l
    refine ⟨fun h1 h2 => ?_, fun h1 hd => ?_, fun h1 h2 hd => ?_⟩
    · exact wload_starts hs hp hm ((if_neg (not_not_intro h1)).trans (if_neg (Nat.not_lt.2 h2)))
    · exact wload_faults hs hp hm hr hd (if_pos h1)
    · exact wload_faults hs hp hm hr hd ((if_neg (not_not_intro h1)).trans (if_pos h2))
  · have hx := exec_wload_ends h ha hm
    obtain ⟨hu, -, hk, -⟩ := runningAct_spec h
    have hv := modIsland_touches s e (loadedIsland u)
    obtain ⟨i1, i2, i3, i4⟩ := loadedIsland_spec u (getIsland s e)
    have hi : getIsland (endRun (modIsland s e (loadedIsland u)) e r u
        (if opNout r.op = 1 then toPort r 0 (signalTok u) else [])) e = loadedIsland u (getIsland s e) := by
      rw [(endRun_touches ..).getIsland (by decide), getIsland_modIsland]
    refine ⟨endsRun_after (w := u) (by rw [hv.getEng (by decide), hk]; exact hu) rfl rfl hv (by decide) hx, _, hx, ?_⟩
    rw [hi]
    exact ⟨i1, i2, i3, i4⟩
  · exact startsRun_of hp hm hs hf (exec_mmul_start hs)
  · have he := (starting_spec hs).1
    subst he
    refine faultsStart_of hp hm hs hr hd (v := b2n b) ?_ (exec_mmul_start hs)
    unfold mmulFault
    simp only [hb, Option.getD_some]
    exact if_pos (by rw [hv]; rfl)
  · have hw : Works s e 0x11 r u := ⟨h, h0, ha, hm⟩
    intro l ctl a
    refine ⟨fun hn => ?_, fun hbad hc h9 => ?_, fun id ds hbad hc h9 hd hi => mmul_drains hw hb hbad hc h9 hd hi,
      fun hbad hr hd => ⟨_, exec_mmul_bad hw hb hbad, silent3_spec r hr hd (hw.run (by decide))⟩⟩
    · show (mmulRows s e r u b).bad = false
      unfold mmulRows
      rw [hn]
      exact addRows_sound ..
    · have hx := exec_mmul_sound hw hb hbad hc
      rw [if_neg (by rw [show bit (runCtl r u) 9 = false from h9]; decide)] at hx
      obtain ⟨h1, h2, h3, h4⟩ := mmulAdded_spec s e r u (mmulRows s e r u b) (hw.run (by decide))
      have hk := (runningAct_spec h).2.2.1
      refine ⟨endsRun_after (w := unbound u) (by rw [hk]; exact h2) rfl rfl h1 (by decide) hx, _, hx, ?_, ?_⟩
      · rw [(endRun_touches ..).getIsland (by decide)]; exact h3
      · rw [(endRun_touches ..).getIsland (by decide)]; exact h4

end Sys2Proof.Machine
end

section
/-!
PROOFS. Proofs/Blocks.lean: VBLOCK activations (spec/04 R101; spec/06 R146, R147; spec/08 R181; spec/09 R208 to R210).
-/
namespace Sys2Proof.Machine

theorem Touches.getVTile {l : List Field} {s t : State} (h : Touches l s t) (hl : l.contains .vtiles = false) (k : Eng) :
    getVTile t k = getVTile s k := by
  have e : t.vtiles = s.vtiles := h.same .vtiles (by simpa using hl)
  unfold Machine.getVTile
  rw [e]

theorem getVTile_modVTile (s : State) (e : Eng) (f : VTile → VTile) : getVTile (modVTile s e f) e = f (getVTile s e) :=
  tget_tset_same ..

theorem run_modRun {s : State} {e : Eng} {u : Run} (f : Run → Run) (h : (getEng s e).run = some u) :
    (getEng (modRun s e f) e).run = some (f u) := by
  unfold modRun
  rw [getEng_modEng]
  exact congrArg (Option.map f) h

/-! ### The activation -/

/-- The outputs of an activation before its first step. -/
def emptyOuts (f : Start) : List (List (Option Nat)) :=
  (List.range (opNout f.r.op)).map fun p =>
    let t := tileRecOf f.r.g (destTile f.r (portEntry f.r.op p) (tagField f.q.tag (opDepth f.r.op)))
    List.replicate (((t.map fun t => t.rows * t.cols)).getD 0) none

/-- The slot of a VBLOCK whose block has been validated. -/
def validSlot (s : State) (e : Eng) (f : Start) : State := modSlot s e f.q.slot fun d => { d with validated := true }

/-- The registers outside a block's window, and nothing else of a step. -/
def clearedWindow (b : BlockCtx) (v : VTile) : VTile :=
  { v with regs := v.regs.filter (fun x => !(decide (b.window.1 ≤ x.1) && decide (x.1 ≤ b.window.2)))
           acc := []
           flags := []
           rep := 0 }

theorem vblockFault_validSlot (s : State) (e : Eng) (f : Start) (b : BlockCtx) :
    vblockFault (validSlot s e f) f b = vblockFault s f b := by
  have h := modSlot_touches s e f.q.slot fun d => { d with validated := true }
  unfold vblockFault boundFault
  simp only [show ∀ k, getTile (validSlot s e f) k = getTile s k from h.getTile (by decide)]
  rfl

section
variable {s : State} {e : Eng} {f : Start} (hs : starting s e 0x10 = some f) (hb : (getEng s e).blocked = none)
include hs hb

theorem exec_vblock_legal {run : Run} (hv : (if (tget {} f.q.slot (getEng s e).slots).validated then none
      else firstIllegal (blockCtx s f.r)) = none)
    (hr : (getEng (startRun (validSlot s e f) f (vblockFault (validSlot s e f) f (blockCtx s f.r))
      { steps := blockSteps (blockCtx s f.r), out := emptyOuts f }) e).run = some run) : exec (.vblockActivation e) s =
    .next (modVTile (startRun (validSlot s e f) f (vblockFault (validSlot s e f) f (blockCtx s f.r))
      { steps := blockSteps (blockCtx s f.r), out := emptyOuts f }) e (clearedWindow (blockCtx s f.r))) := by
  show execVblockActivation e s = _
  unfold execVblockActivation
  simp only [hs, hb, hv, Option.isSome_none, Bool.false_eq_true, if_false]
  unfold validSlot emptyOuts at hr
  dsimp only at hr
  rw [hr] <;> rfl

theorem exec_vblock_illegal {k : Nat} (hv : (tget {} f.q.slot (getEng s e).slots).validated = false)
    (hk : firstIllegal (blockCtx s f.r) = some k) : exec (.vblockActivation e) s = .next (blockElement s f k) := by
  show execVblockActivation e s = _
  unfold execVblockActivation
  simp only [hs, hb, hv, hk, Option.isSome_none, Bool.false_eq_true, if_false]

theorem vblock_starts (hp : f.toks.any (·.poison) = false) (hm : ∀ t ∈ f.toks, scalarMismatch t = none)
    (hv : (tget {} f.q.slot (getEng s e).slots).validated = true ∨ firstIllegal (blockCtx s f.r) = none)
    (hf : vblockFault s f (blockCtx s f.r) = none) : ∃ t, exec (.vblockActivation e) s = .next t ∧
      (getEng t e).run = some { act := f.act, toks := f.toks, dests := f.act.dests, steps := blockSteps (blockCtx s f.r)
                                out := emptyOuts f } ∧
      (getEng t e).unit = (getEng s e).unit.erase f.act ∧
      getVTile t e = clearedWindow (blockCtx s f.r) (getVTile s e) ∧ t.threads = s.threads ∧ SameBytes s t := by
  have hv : (if (tget {} f.q.slot (getEng s e).slots).validated then none else firstIllegal (blockCtx s f.r)) = none := by
    rcases hv with h | h
    · rw [if_pos h]
    · rw [h, ite_self]
  have hx := @exec_vblock_legal s e f hs hb
  obtain ⟨rfl, hk, -⟩ := starting_spec hs
  have h0 : Touches [.engines] s (validSlot s f.r.op.eng f) := modSlot_touches ..
  rw [vblockFault_validSlot, hf] at hx
  obtain ⟨h1, h2, h3⟩ := startRun_starts hp hm (s := validSlot s f.r.op.eng f)
    { steps := blockSteps (blockCtx s f.r), out := emptyOuts f }
  rw [hk] at h1
  have h4 := modVTile_touches (startRun (validSlot s f.r.op.eng f) f none
    { steps := blockSteps (blockCtx s f.r), out := emptyOuts f }) f.r.op.eng (clearedWindow (blockCtx s f.r))
  have h5 : Touches [.engines, .traces, .launches, .partitions, .quotas] s _ := h3.after (by decide) (h0.mono (by decide))
  refine ⟨_, hx hv h1, ?_, ?_, ?_, Eq.trans (h4.same .threads (by decide)) (h5.same .threads (by decide)),
    (h5.sameBytes (by decide)).trans (h4.sameBytes (by decide))⟩
  · rw [h4.getEng (by decide)]
    exact h1
  · rw [h4.getEng (by decide), h2]
    unfold validSlot modSlot
    rw [getEng_modEng]
  · rw [getVTile_modVTile, h5.getVTile (by decide)]

theorem vblock_blocks {k : Nat} (hv : (tget {} f.q.slot (getEng s e).slots).validated = false)
    (hk : firstIllegal (blockCtx s f.r) = some k) : ∃ t, exec (.vblockActivation e) s = .next t ∧
      (getEng t e).blocked = some (f.r.op.slot * 128 + k) ∧ (getEng t e).run = none ∧ SameBytes s t := by
  have hx := exec_vblock_illegal hs hb hv hk
  obtain ⟨rfl, -, hn⟩ := starting_spec hs
  have h1 := modEng_touches s f.r.op.eng fun x => { x with blocked := some (f.r.op.slot * 128 + k) }
  have h2 := failBlocked_touches (modEng s f.r.op.eng fun x => { x with blocked := some (f.r.op.slot * 128 + k) })
    ((f.toks.head?).getD {}) f.r.op.eng (f.r.op.slot * 128 + k)
  refine ⟨_, hx, ?_, ?_, (h1.sameBytes (by decide)).trans (h2.sameBytes (by decide))⟩
  · unfold blockElement
    rw [h2.getEng (by decide), getEng_modEng]
  · unfold blockElement
    rw [h2.getEng (by decide), getEng_modEng]
    exact hn

end

/-! ### A step -/

/-- The state that a step's words start from. -/
def stepFrom (s : State) (e : Eng) (u : Run) (c : VCtx) : VStep :=
  { stepStart s e u with
    s := { watchPassed s u.act.id ((boundChunks s c).flatMap fun x => chunkSectors (getTile s x.1) x.2) with
           nextId := s.nextId + 1 } }

/-- What keeping the part of a step that has run leaves. -/
theorem keepStep_spec (e : Eng) (r : OpRef) (u : Run) (v : VStep) : let t := keepStep e r u v
    (getEng t e).run = some { u with loop := u.loop ++ v.loop, out := v.out, arrived := none } ∧
      getVTile t e = v.vt ∧ Touches [.engines, .vtiles] v.s t := by
  intro t
  let s1 := setFlags (setVTile v.s e v.vt) e r.op.slot v.fl
  have h1 : Touches [.engines] (setVTile v.s e v.vt) s1 := setFlags_touches ..
  have h2 := modEng_touches s1 e fun x =>
    { x with arithErr := v.err, run := some { u with loop := u.loop ++ v.loop, out := v.out, arrived := none } }
  refine ⟨?_, ?_, h2.after (by decide) (h1.after (by decide) ((setVTile_touches ..).mono (by decide)))⟩
  · exact congrArg Engine.run (getEng_modEng ..)
  · exact (h2.getVTile (by decide) e).trans ((h1.getVTile (by decide) e).trans (getVTile_setVTile ..))

theorem endStep_spec {s : State} {e : Eng} {u w : Run} (r : OpRef) (hu : (getEng s e).run = some w) : let t := endStep s e r u none
    (getEng t e).run = some { w with step := w.step + 1, loop := w.loop.filter (fun l => decide (w.step < l.step))
                                     word := 0, box := [], brk := none } ∧
      getVTile t e = { getVTile s e with rep := 0 } ∧ Touches [.engines, .vtiles] s t := by
  intro t
  have h1 := modVTile_touches s e fun v => { v with rep := 0 }
  have h2 := modRun_touches (modVTile s e fun v => { v with rep := 0 }) e fun u =>
    { u with step := u.step + 1, loop := u.loop.filter (fun l => decide (u.step < l.step)), word := 0, box := [], brk := none }
  refine ⟨run_modRun _ ?_, (h2.getVTile (by decide) e).trans (getVTile_modVTile ..), h2.after (by decide) (h1.mono (by decide))⟩
  rw [h1.getEng (by decide)]
  exact hu

theorem stopStep_spec {s : State} {e : Eng} {w : Run} (p : Nat × Nat) (v : VStep) (hu : (getEng s e).run = some w) :
    let t := stopStep s e p v
    (getEng t e).run = some { w with word := p.1, box := v.box, brk := v.brk } ∧
      getVTile t e = { getVTile s e with rep := p.2 } ∧ Touches [.engines, .vtiles] s t := by
  intro t
  have h1 := modVTile_touches s e fun t => { t with rep := p.2 }
  have h2 := modRun_touches (modVTile s e fun t => { t with rep := p.2 }) e fun u => { u with word := p.1, box := v.box, brk := v.brk }
  refine ⟨run_modRun _ ?_, (h2.getVTile (by decide) e).trans (getVTile_modVTile ..), h2.after (by decide) (h1.mono (by decide))⟩
  rw [h1.getEng (by decide)]
  exact hu

section
variable {s : State} {e : Eng} {r : OpRef} {u : Run} (h : runningAct s e 0x10 = some (r, u))
include h

theorem vblockStep_run : (getEng s e).run = some u := (runningAct_spec h).1

theorem exec_vblockStep_waits (hw : u.phase ≠ 0 ∨ u.steps ≤ u.step ∨ stepInputs (stepCtx s r u) = false ∨
    boundGrants s (stepCtx s r u) = false) : exec (.vblockStep e) s = .next s := by
  show execVblockStep e s = _
  unfold execVblockStep
  simp only [h]
  exact congrArg _ (if_pos (by simpa using hw))

section
variable (h0 : u.phase = 0) (hl : u.step < u.steps) (hi : stepInputs (stepCtx s r u) = true)
  (ho : boundGrants s (stepCtx s r u) = true)
include h0 hl hi ho

theorem exec_vblockStep_held (hp : portHeld s (stepCtx s r u) = true) : exec (.vblockStep e) s =
    .next (modRun s e fun u => { u with arrived := some (u.arrived.getD s.nextId) }) := by
  show execVblockStep e s = _
  unfold execVblockStep
  simp only [h, h0, hi, ho, hp, Nat.not_le.2 hl, ne_eq, not_true_eq_false, Bool.not_true, Bool.false_eq_true, or_self, if_false, if_true]

theorem exec_vblockStep_runs (hp : portHeld s (stepCtx s r u) = false) (hg : boundGate s (stepCtx s r u) = none) :
    let c := stepCtx s r u
    let p := stepPart (stepRest c.b u.word (getVTile s e).rep) (Config.freeNat s.nextId)
    let v := p.1.foldl (runWord c) (stepFrom s e u c)
    v.bad3 = false → v.bad = false → exec (.vblockStep e) s = .next (match p.2 with
      | some q => stopStep (keepStep e r u v) e q v
      | none => endStep (keepStep e r u v) e r u v.brk) := by
  intro c p v h3 hb
  have hv : v = ((stepPart (stepRest c.b u.word (getVTile s e).rep) (Config.freeNat s.nextId)).1.foldl (runWord c)
    (stepFrom s e u c)) := rfl
  show execVblockStep e s = _
  unfold execVblockStep
  simp only [h, h0, hi, ho, hp, hg, Nat.not_le.2 hl, ne_eq, not_true_eq_false, Bool.not_true, Bool.false_eq_true, or_self, if_false]
  refine congrArg Host.Outcome.next ?_
  refine (if_neg (fun hc => ?_)).trans ((if_neg (fun hc => Bool.false_ne_true (h3.symm.trans hc))).trans
    ((if_neg (fun hc => Bool.false_ne_true (hb.symm.trans hc))).trans rfl))
  have := (Bool.and_eq_true_iff.1 hc).1
  rcases Bool.or_eq_true_iff.1 this with hc | hc
  · exact Bool.false_ne_true (h3.symm.trans hc)
  · exact Bool.false_ne_true (hb.symm.trans hc)

end

/-! ### The end -/

theorem exec_vblockComplete_early (hl : u.step < u.steps) : exec (.vblockComplete e) s = .next s := by
  show execVblockComplete e s = _
  unfold execVblockComplete
  simp only [h]
  exact congrArg _ (if_pos hl)

theorem exec_vblockComplete_writes (hl : u.steps ≤ u.step) (h0 : u.phase = 0) (ha : allReceived u = true)
    (hm : runMismatch s u = none) (hd : ∀ id ∈ u.dests, imageRefused s id = none) :
    let imgs := (destPorts r).map fun p => outImage u (opType r.op) p
    exec (.vblockComplete e) s = .next (modRun ((u.dests.zip imgs).foldl (fun s d =>
      beginImage s d.1 4 (baseTok u).lid (opCoord r.op) (baseTok u).tag d.2 (plainAreas s d.1)) s) e fun u =>
        { u with phase := 1, loop := [], resid := imgs.map residueOf }) := by
  intro imgs
  have hf : (u.dests.findSome? fun id => (imageRefused s id).map fun c => stateTval id c) = none :=
    List.findSome?_eq_none_iff.2 fun id hid => by rw [hd id hid]; rfl
  show execVblockComplete e s = _
  unfold execVblockComplete checked
  simp only [h, h0, ha, hm, hf, Nat.not_lt.2 hl, Bool.not_true, Bool.false_eq_true, if_false, if_true]
  rfl

theorem exec_vblockComplete_emits (hl : u.steps ≤ u.step) (h0 : u.phase ≠ 0) (hf : u.dests.all (tileFull s) = true) :
    exec (.vblockComplete e) s = .next (endRun s e r u
      ((((destPorts r).zip u.dests).zip u.resid).flatMap (fun d => toPort r d.1.1 (tileTok s u d.1.2 0 d.2)) ++
        if hasCompletion (blockCtx s r) then toPort r (opNout r.op - 1) (signalTok u) else [])) := by
  show execVblockComplete e s = _
  unfold execVblockComplete
  simp only [h, h0, hf, Nat.not_lt.2 hl, Bool.not_true, Bool.false_eq_true, if_false]

end

/-- A chunk that is begun leaves every tile's shape. -/
theorem beginChunk_tileChunks (s : State) (id : TileId) (c port lid : Nat) (by_ : Coord) (tag : Word) (data scale : List Byte)
    (k : TileId) : tileChunks (getTile (beginChunk s id c port lid by_ tag data scale) k) = tileChunks (getTile s k) := by
  have hmod : ∀ (s : State) (f : Tile → Tile), (∀ t, tileChunks (f t) = tileChunks t) →
      tileChunks (getTile (modTile s id f) k) = tileChunks (getTile s k) := by
    intro s f hf
    by_cases h : k = id
    · subst h
      exact (congrArg tileChunks (tget_tset_same ..)).trans (hf _)
    · exact congrArg tileChunks (tget_tset_other _ _ _ h)
  let v := if (getTile s id).state = 1 then modTile (fresh s).2 id fun t => { t with state := 2, owner := 0 } else (fresh s).2
  have hv : tileChunks (getTile v k) = tileChunks (getTile s k) := by
    unfold v
    split
    · exact hmod (fresh s).2 _ fun _ => rfl
    · rfl
  refine Eq.trans ?_ hv
  by_cases hl : (getTile s id).level = true
  · exact (congrArg (fun s : State => tileChunks (getTile s k)) (if_pos hl)).trans rfl
  · exact (congrArg (fun s : State => tileChunks (getTile s k)) (if_neg hl)).trans rfl

theorem beginImage_tileChunks (s : State) (id : TileId) (port lid : Nat) (by_ : Coord) (tag : Word) (img : List Byte)
    (scale : Nat → List Byte) (k : TileId) :
    tileChunks (getTile (beginImage s id port lid by_ tag img scale) k) = tileChunks (getTile s k) := by
  have h : ∀ (cs : List Nat) (s : State), tileChunks (getTile
      (cs.foldl (fun s c => beginChunk s id c port lid by_ tag (chunkOf img c) (scale c)) s) k) = tileChunks (getTile s k) := by
    intro cs
    induction cs with
    | nil => exact fun _ => rfl
    | cons c cs ih => exact fun s => (ih _).trans (beginChunk_tileChunks ..)
  exact h _ s

/-- The images of several destinations: one chunk write for each chunk of each, in order. -/
theorem beginImages_chunkWrites (port lid : Nat) (by_ : Coord) (tag : Word) (ds : List (TileId × List Byte)) (s : State) :
    ∃ ws : List ChunkWrite, (ds.foldl (fun s d => beginImage s d.1 port lid by_ tag d.2 (plainAreas s d.1)) s).chunkWrites =
      s.chunkWrites ++ ws ∧ ws.map (fun w => (w.tile, w.chunk)) =
        ds.flatMap fun d => (List.range (tileChunks (getTile s d.1))).map fun c => (d.1, c) := by
  induction ds generalizing s with
  | nil => exact ⟨[], (List.append_nil _).symm, rfl⟩
  | cons d ds ih =>
    obtain ⟨ws, h1, h2, h3⟩ := beginImage_chunkWrites s d.1 port lid by_ tag d.2 (plainAreas s d.1)
    obtain ⟨vs, h4, h5⟩ := ih (beginImage s d.1 port lid by_ tag d.2 (plainAreas s d.1))
    refine ⟨ws ++ vs, ?_, ?_⟩
    · rw [List.foldl_cons, h4, h1, List.append_assoc]
    · rw [List.map_append, h5, List.flatMap_cons, ← h2, List.map_map]
      simp only [beginImage_tileChunks]
      refine congrArg (· ++ _) (List.map_congr_left fun w hw => ?_)
      exact congrArg (·, w.chunk) (h3 w hw)

/-- The images of several destinations touch what one does. -/
theorem beginImages_touches (port lid : Nat) (by_ : Coord) (tag : Word) (ds : List (TileId × List Byte)) (s : State) :
    Touches [.tiles, .chunkWrites, .memTiles, .nextId] s
      (ds.foldl (fun s d => beginImage s d.1 port lid by_ tag d.2 (plainAreas s d.1)) s) :=
  .foldl (f := fun s (d : TileId × List Byte) => beginImage s d.1 port lid by_ tag d.2 (plainAreas s d.1))
    (fun s d => (beginImage_touches s d.1 port lid by_ tag d.2 (plainAreas s d.1)).mono (by decide)) _ _

/-! ### The order of a step -/

/-- A step's words run in ascending stage, then slot, then repeat. -/
theorem stepOrder_sorted (b : BlockCtx) : (stepOrder b).Pairwise fun i j => bwStage (b.word i.1) < bwStage (b.word j.1) ∨
    (bwStage (b.word i.1) = bwStage (b.word j.1) ∧ (i.1 < j.1 ∨ (i.1 = j.1 ∧ i.2 < j.2))) := by
  unfold stepOrder
  refine List.pairwise_flatMap.2 ⟨fun st _ => List.pairwise_flatMap.2 ⟨fun k _ => ?_, ?_⟩, ?_⟩
  · exact List.pairwise_map.2 (List.pairwise_lt_range.imp fun h => .inr ⟨rfl, .inr ⟨rfl, h⟩⟩)
  · refine ((List.pairwise_lt_range (n := b.words.length)).filter _).imp_of_mem fun {k l} hk hl hlt x hx y hy => ?_
    obtain ⟨i, -, rfl⟩ := List.mem_map.1 hx
    obtain ⟨j, -, rfl⟩ := List.mem_map.1 hy
    have hk := of_decide_eq_true (List.mem_filter.1 hk).2
    have hl := of_decide_eq_true (List.mem_filter.1 hl).2
    exact .inr ⟨hk.trans hl.symm, .inl hlt⟩
  · refine (List.pairwise_lt_range (n := 6)).imp fun {k l} hlt x hx y hy => ?_
    have stage : ∀ {st : Nat} {x : Nat × Nat}, x ∈ (((List.range b.words.length).filter fun k => decide (bwStage (b.word k) = st)).flatMap
        fun k => (List.range (repeats b k)).map fun i => (k, i)) → bwStage (b.word x.1) = st := by
      intro st x hx
      obtain ⟨k, hk, hx⟩ := List.mem_flatMap.1 hx
      obtain ⟨i, -, rfl⟩ := List.mem_map.1 hx
      exact of_decide_eq_true (List.mem_filter.1 hk).2
    exact .inl (by rw [stage hx, stage hy]; exact hlt)

theorem mem_stepOrder (b : BlockCtx) (p : Nat × Nat) :
    p ∈ stepOrder b ↔ p.1 < b.words.length ∧ bwStage (b.word p.1) < 6 ∧ p.2 < repeats b p.1 := by
  obtain ⟨k, i⟩ := p
  unfold stepOrder
  simp only [List.mem_flatMap, List.mem_map, List.mem_filter, List.mem_range, decide_eq_true_eq, Prod.mk.injEq]
  constructor
  · rintro ⟨st, hst, k', ⟨hk, rfl⟩, i', hi, rfl, rfl⟩
    exact ⟨hk, hst, hi⟩
  · rintro ⟨hk, hst, hi⟩
    exact ⟨_, hst, k, ⟨hk, rfl⟩, i, hi, rfl, rfl⟩

/-! ### Stage registers -/

/-- The number whose digits of w bits are those of f. -/
def packed (w : Nat) (f : Nat → Nat) (n : Nat) : Nat := (List.range n).foldl (fun a j => a + f j % 2 ^ w * 2 ^ (w * j)) 0

theorem packed_succ (w : Nat) (f : Nat → Nat) (n : Nat) : packed w f (n + 1) = packed w f n + f n % 2 ^ w * 2 ^ (w * n) := by
  unfold packed
  rw [List.range_succ, List.foldl_append, List.foldl_cons, List.foldl_nil]

theorem packed_lt (w : Nat) (f : Nat → Nat) (n : Nat) : packed w f n < 2 ^ (w * n) := by
  induction n with
  | zero => exact Nat.one_pos
  | succ n ih =>
    rw [packed_succ]
    calc packed w f n + f n % 2 ^ w * 2 ^ (w * n) < 2 ^ (w * n) + f n % 2 ^ w * 2 ^ (w * n) := Nat.add_lt_add_right ih _
      _ = (f n % 2 ^ w + 1) * 2 ^ (w * n) := by rw [Nat.add_mul, Nat.one_mul, Nat.add_comm]
      _ ≤ 2 ^ w * 2 ^ (w * n) := Nat.mul_le_mul_right _ (Nat.mod_lt _ (Nat.two_pow_pos w))
      _ = 2 ^ (w * (n + 1)) := by rw [← pow_add, Nat.mul_succ, Nat.add_comm]

theorem packed_digit (w : Nat) (f : Nat → Nat) {n j : Nat} (h : j < n) : packed w f n / 2 ^ (w * j) % 2 ^ w = f j % 2 ^ w := by
  induction n with
  | zero => exact absurd h (Nat.not_lt_zero _)
  | succ n ih =>
    rw [packed_succ]
    rcases Nat.lt_succ_iff_lt_or_eq.1 h with hlt | rfl
    · have e : 2 ^ (w * n) = 2 ^ (w * j) * (2 ^ w * 2 ^ (w * (n - j - 1))) := by
        rw [← pow_add, ← pow_add]
        congr 1
        obtain ⟨d, rfl⟩ := Nat.exists_eq_add_of_lt hlt
        rw [show j + d + 1 - j - 1 = d by omega]
        ring
      rw [e, Nat.mul_left_comm, Nat.add_mul_div_left _ _ (Nat.two_pow_pos _), Nat.mul_left_comm, Nat.add_mul_mod_self_left]
      exact ih hlt
    · rw [Nat.add_mul_div_right _ _ (Nat.two_pow_pos _), Nat.div_eq_of_lt (packed_lt w f j), Nat.zero_add, Nat.mod_mod]

theorem elemBits_pos (t : Nat) : 0 < elemBits t := by
  unfold elemBits elemBytes
  split <;> decide

theorem regElems_eq (c : VCtx) (v : VStep) (k : Nat) : regElems c v k =
    c.js.map fun j => (tget 0 k v.vt.regs).toNat / 2 ^ (c.b.w * j) % 2 ^ c.b.w := by
  unfold regElems bits
  refine List.map_congr_left fun j _ => ?_
  have := elemBits_pos c.b.typ
  rw [show c.b.w * j + c.b.w - 1 + 1 - c.b.w * j = c.b.w by unfold BlockCtx.w; omega]

theorem vAt_map_range (f : Nat → Nat) {n j : Nat} (h : j < n) : vAt ((List.range n).map f) j = f j := by
  unfold vAt
  rw [List.getElem?_map, List.getElem?_range h]
  rfl

/-- A register that is written: the enabled elements are the new ones, the others stay. -/
theorem regElems_putReg (c : VCtx) (en : List Bool) (k : Nat) (x : List Nat) (v : VStep) : regElems c (putReg c en k x v) k =
    c.js.map fun j => if onAt en j then vAt x j % 2 ^ c.b.w else vAt (regElems c v k) j := by
  have hput : tget 0 k (putReg c en k x v).vt.regs =
      BitVec.ofNat 512 (packed c.b.w (fun j => if onAt en j then vAt x j else vAt (regElems c v k) j) c.b.n) := tget_tset_same ..
  rw [regElems_eq, hput]
  refine List.map_congr_left fun j hj => ?_
  have hj : j < c.b.n := List.mem_range.1 hj
  have hn : c.b.w * c.b.n ≤ 512 := Nat.mul_div_le 512 _
  rw [BitVec.toNat_ofNat, Nat.mod_eq_of_lt (Nat.lt_of_lt_of_le (packed_lt _ _ _) (Nat.pow_le_pow_right (by decide) hn)),
    packed_digit _ _ hj]
  split
  · rfl
  · refine Nat.mod_eq_of_lt ?_
    rw [regElems_eq, show c.js = List.range c.b.n from rfl, vAt_map_range _ hj]
    exact Nat.mod_lt _ (Nat.two_pow_pos _)

/-- VWR that no REP prefixes writes the register that it names. -/
theorem runWord_vwr {c : VCtx} {slot : Nat} (v : VStep) (h : bwOp (c.b.word slot) = 0x109)
    (hr : slot = 0 ∨ bwOp (c.b.word (slot - 1)) ≠ 0x10B) : runWord c v (slot, 0) =
      putReg c (enabledAt c v slot) (bits (bwAux (c.b.word slot)) 20 16) (operand c v slot 0) v := by
  have hn : repWord c.b slot = none := by
    have hp : bwOp (if slot = 0 then 0 else c.b.word (slot - 1)) ≠ 0x10B := by
      by_cases h0 : slot = 0
      · rw [if_pos h0]
        decide
      · rw [if_neg h0]
        exact hr.resolve_left h0
    exact if_neg hp
  unfold runWord
  simp only [h]
  unfold runRegs runReg
  simp only [h, hn]
  rfl

/-- Settles O45: a start is `startRun` on a validated slot, a step is the fold of its words kept by `keepStep`, the order of a
step follows its three nested ranges, and a written register holds the digits of `packed`. -/
theorem vectorBlocks : Obligations.VectorBlocks := by
  intro s e
  refine ⟨fun f hs hb hr hp hm => ⟨fun hv hf => ?_, fun k hv hk => vblock_blocks hs hb hv hk⟩, fun r u h => ?_,
    fun b => ⟨stepOrder_sorted b, mem_stepOrder b⟩, fun c v slot ho hr => ?_⟩
  · obtain ⟨t, h1, h2, h3, h4, h5, h6⟩ := vblock_starts hs hb hp hm hv hf
    exact ⟨t, h1, ⟨_, h2⟩, h3, h4, h5, h6⟩
  · refine ⟨fun hw => exec_vblockStep_waits h hw, fun h0 hl hi ho hp => ?_, fun h0 hl hi ho hp hg => ?_,
      fun hl => exec_vblockComplete_early h hl, fun hl h0 ha hm hd => ?_,
      fun hl h0 hf => endsRun_of h (exec_vblockComplete_emits h hl h0 hf)⟩
    · have ht := modRun_touches s e fun u => { u with arrived := some (u.arrived.getD s.nextId) }
      exact ⟨_, exec_vblockStep_held h h0 hl hi ho hp, run_modRun _ (vblockStep_run h), ht.getVTile (by decide) e,
        ht.same .threads (by decide), ht.sameBytes (by decide)⟩
    · intro p s0 v h3 hb
      have hx := exec_vblockStep_runs h h0 hl hi ho hp hg h3 hb
      obtain ⟨k1, k2, k3⟩ := keepStep_spec e r u v
      refine ⟨fun hn hk => ?_, fun q hq => ?_⟩
      · have hx : exec (.vblockStep e) s = .next (endStep (keepStep e r u v) e r u v.brk) := by
          refine hx.trans (congrArg _ ?_)
          rw [show (stepPart (stepRest (stepCtx s r u).b u.word (getVTile s e).rep) (Config.freeNat s.nextId)).2 = none from hn] <;> rfl
        rw [hk] at hx
        obtain ⟨e1, e2, e3⟩ := endStep_spec r k1
        have ht := e3.after (by decide) k3
        exact ⟨_, hx, by rw [e2, k2], e1, ht.same .threads (by decide), ht.same .hbm (by decide), ht.same .l0 (by decide),
          ht.same .hostMem (by decide)⟩
      · have hx : exec (.vblockStep e) s = .next (stopStep (keepStep e r u v) e q v) := by
          refine hx.trans (congrArg _ ?_)
          rw [show (stepPart (stepRest (stepCtx s r u).b u.word (getVTile s e).rep) (Config.freeNat s.nextId)).2 = some q from hq] <;> rfl
        obtain ⟨e1, e2, e3⟩ := stopStep_spec q v k1
        have ht := e3.after (by decide) k3
        exact ⟨_, hx, by rw [e2, k2], e1, ht.same .threads (by decide), ht.same .hbm (by decide), ht.same .l0 (by decide),
          ht.same .hostMem (by decide)⟩
    · intro imgs
      have hx := exec_vblockComplete_writes h hl h0 ha hm hd
      have h1 := beginImages_touches 4 (baseTok u).lid (opCoord r.op) (baseTok u).tag (u.dests.zip imgs) s
      obtain ⟨ws, h2, h3⟩ := beginImages_chunkWrites 4 (baseTok u).lid (opCoord r.op) (baseTok u).tag (u.dests.zip imgs) s
      have h4 := modRun_touches ((u.dests.zip imgs).foldl (fun s d =>
        beginImage s d.1 4 (baseTok u).lid (opCoord r.op) (baseTok u).tag d.2 (plainAreas s d.1)) s) e fun u =>
          { u with phase := 1, loop := [], resid := imgs.map residueOf }
      refine ⟨_, hx, run_modRun _ ?_, ⟨ws, Eq.trans (h4.same .chunkWrites (by decide)) h2, h3⟩,
        Eq.trans (h4.same .threads (by decide)) (h1.same .threads (by decide)), (h1.sameBytes (by decide)).trans (h4.sameBytes (by decide))⟩
      rw [h1.getEng (by decide)]
      exact vblockStep_run h
  · intro a
    rw [runWord_vwr v ho hr]
    exact ⟨regElems_putReg .., fun k hk => tget_tset_other _ _ _ hk⟩

end Sys2Proof.Machine
end

section
/-!
PROOFS. Proofs/Transfers.lean: HLOAD and HSTORE (spec/07 R162 to R168).
-/
namespace Sys2Proof.Machine

/-! ### Requests of a transfer -/

theorem issueReq_local {s : State} {pkg die : Nat} {r : Req} (h : r.host = true ∨ r.owner.pkg = pkg) :
    (issueReq s pkg die r).reqs = s.reqs ++ [r] := congrArg State.reqs (if_pos (by simpa using h))

/-- Requests that stay on their package stand at the end, each under a name of its own. -/
theorem issueAll_reqs {e : Eng} : ∀ (rs : List Req) (s : State), (∀ r ∈ rs, r.host = true ∨ r.owner.pkg = e.pkg) →
    ∃ qs, (issueAll s e rs).reqs = s.reqs ++ qs ∧
      ∀ {β : Type} (f : Req → β), (∀ r i, f { r with id := i } = f r) → qs.map f = rs.map f
  | [], s, _ => ⟨[], (List.append_nil _).symm, fun _ _ => rfl⟩
  | r :: rs, s, h => by
    obtain ⟨hr, hrs⟩ := List.forall_mem_cons.1 h
    have hi := issueReq_local (s := (fresh s).2) (pkg := e.pkg) (die := e.die) (r := { r with id := (fresh s).1 }) hr
    obtain ⟨qs, h1, h2⟩ := issueAll_reqs rs (issueReq (fresh s).2 e.pkg e.die { r with id := (fresh s).1 }) hrs
    refine ⟨{ r with id := (fresh s).1 } :: qs, ?_, fun f hf => by rw [List.map_cons, List.map_cons, h2 f hf, hf]⟩
    refine h1.trans ?_
    rw [hi, List.append_assoc]
    rfl

/-- A transfer that starts leaves its unit. -/
theorem beginXfer_unit (s : State) (f : Start) : (getEng (beginXfer s f) f.r.op.eng).unit = (getEng s f.r.op.eng).unit.erase f.act := by
  have hc := countFiring_engSame (p := Engine.work) (fun _ _ => rfl) (takeStart s f) f.r f.q.tag f.q.lid (waitOf f.r.op f.q) f.r.op.eng
  unfold beginXfer
  rw [(touch_touches ..).getEng (by decide)]
  exact congrArg (·.2.2.1) (hc.trans (takeStart_work s f))

theorem newStamp_unit (s : State) (e k : Eng) : (getEng (newStamp s e).2 k).unit = (getEng s k).unit :=
  EngSame.modEng (p := Engine.unit) (f := fun x => { x with stamps := (x.stamps + 1) % 2 ^ 16 }) (fun _ => rfl) s e k

theorem xferAt_spec {s : State} {e : Eng} {n kind : Nat} {f : Start} (h : xferAt s e n kind = some f) :
    f.r.op.eng = e ∧ opKind f.r.op = kind ∧ n < (getEng s e).unit.length := by
  unfold xferAt at h
  extract_lets x at h
  split at h
  · cases h
  · next a ha =>
    split at h
    · next r q hr hq =>
      split at h
      · next hk =>
        obtain ⟨ts, -, rfl⟩ := Option.map_eq_some_iff.1 h
        exact ⟨(findOp_spec hr).1, hk.1, (List.getElem?_eq_some_iff.1 ha).1⟩
      · cases h
    · cases h

/-- The walk that a miss asks for. -/
theorem noteMiss_walk (s : State) (e : Eng) (part va : Nat) (tag : Word) (slot lid : Nat) :
    let u := noteMiss s e part va tag slot lid
    u = { s with walks := u.walks } ∧ ∃ w ∈ u.walks, w.fault = 0 ∧ walkFor w e part (va / 8192) = true ∧ e ∈ w.engs := by
  intro u
  let on := fun w : Walk => w.fault == 0 && walkFor w e part (va / 8192)
  by_cases h : s.walks.any on = true
  · have hu : u = _ := if_pos h
    rw [hu]
    refine ⟨rfl, ?_⟩
    obtain ⟨w, hw, ho⟩ := List.any_eq_true.1 h
    refine ⟨_, List.mem_map.2 ⟨w, hw, rfl⟩, ?_⟩
    obtain ⟨h1, h2⟩ := Bool.and_eq_true_iff.1 ho
    have h1 : w.fault = 0 := eq_of_beq h1
    split
    · exact ⟨h1, h2, List.mem_append_right _ (List.mem_singleton.2 rfl)⟩
    · next hn =>
      refine ⟨h1, h2, ?_⟩
      by_contra hm
      exact hn (by simpa [h1, h2] using hm)
  · have hu : u = _ := if_neg h
    rw [hu]
    exact ⟨rfl, _, List.mem_append_right _ (List.mem_singleton.2 rfl), rfl, by simp [walkFor], List.mem_singleton.2 rfl⟩

theorem freeDests_alone {s : State} (ds : List TileId) (h : s.allocWait = []) :
    Touches [.threads, .tiles, .chunkWrites, .retires, .quotas] s (freeDests s ds) := by
  unfold freeDests
  extract_lets own
  split
  · exact .rfl
  · have hf : Touches [.threads, .tiles, .chunkWrites, .retires, .quotas] s (own.foldl freeTile s) :=
      .foldl (fun s id => freeTile_touches s id) _ _
    have ha : (own.foldl freeTile s).allocWait = [] := Eq.trans (hf.same .allocWait (by decide)) h
    unfold reevalAll
    rw [ha]
    exact hf

/-- A transfer that faults before its start, where nothing waits for a tile. -/
theorem failStart_faults {s : State} {f : Start} {x : XErr} (h0 : x.1 ≠ 0) (h1 : x.1 ≠ 0x0111)
    (hr : faultRoom s f.r.op.eng f.toks.length = true) (ha : s.allocWait = []) : let t := failStart s f x
    (getEng t f.r.op.eng).fault = (getEng s f.r.op.eng).fault ++
        f.toks.map (fun k => { tok := k, slot := f.r.op.slot, vrow := f.q.vrow, why := 2 }) ∧
      (∃ rep, t.reports = s.reports ++ [rep] ∧ rep.cause = x.1) ∧ t.updates = s.updates ∧ SameBytes s t := by
  intro t
  let w := dropWalk s f.r.op.eng f.r.g.part x.2
  let v := freeDests (takeStart w f) f.act.dests
  have ht : t = opFault v f.r f.q.vrow f.toks x.1 x.2 :=
    (if_neg h0).trans ((if_neg h1).trans (if_neg (by rw [hr]; decide)))
  have hw : Touches [.walks] s w := dropWalk_touches ..
  have hs := takeStart_touches w f
  have hv := freeDests_alone f.act.dests 
    (Eq.trans (hs.same .allocWait (by decide)) (Eq.trans (hw.same .allocWait (by decide)) ha))
  have hall : Touches [.walks, .engines, .partitions, .quotas, .threads, .tiles, .chunkWrites, .retires] s v :=
    hv.after (by decide) ((hs.after (l := [.walks, .engines, .partitions, .quotas]) (by decide) (hw.mono (by decide))).mono (by decide))
  have ho := opFault_touches v f.r f.q.vrow f.toks x.1 x.2
  obtain ⟨e1, rep, e2, e3, -⟩ := opFault_spec v f.r f.q.vrow f.toks x.1 x.2
  rw [ht]
  refine ⟨?_, ⟨rep, ?_, e3⟩, ?_, (hall.sameBytes (by decide)).trans (ho.sameBytes (by decide))⟩
  · rw [e1, hv.getEng (by decide)]
    exact congrArg (· ++ _) ((congrArg (·.2.2.2) (takeStart_work w f)).trans (congrArg Engine.fault (hw.getEng (by decide) _)))
  · rw [e2, show v.reports = s.reports from hall.same .reports (by decide)]
  · exact Eq.trans (ho.same .updates (by decide)) (hall.same .updates (by decide))

/-! ### HLOAD starts -/

theorem sectorReads_len (ps : List Piece) : ∀ p ∈ sectorReads ps, p.len = 64 := by
  have h : ∀ (l : List (Nat × Piece)) (o : List Piece), (∀ p ∈ o, p.len = 64) →
      ∀ p ∈ l.foldl (fun o p => if o.any (inSector p.2) then o else o ++ [{ p.2 with addr := p.2.addr / 64 * 64, len := 64 }]) o,
        p.len = 64 := by
    intro l
    induction l with
    | nil => exact fun _ h => h
    | cons q l ih =>
      intro o ho
      refine ih _ ?_
      dsimp only
      split
      · exact ho
      · exact List.forall_mem_append.2 ⟨ho, List.forall_mem_singleton.2 rfl⟩
  exact h _ [] fun _ h => nomatch h

/-- The state in which a transfer has entered its ranges and started. -/
def xferEntered (s : State) (e : Eng) (f : Start) (ps : List Piece) (x : Xfer) : State :=
  let t := (fresh (newStamp s e).2).2
  { t with ranges := t.ranges ++ rangesOf false f.q.lid e (newStamp s e).1 s.nextId ps, xfers := t.xfers ++ [x] }

theorem xferEntered_spec (s : State) (f : Start) (ps : List Piece) (x : Xfer) :
    let e := f.r.op.eng
    let t := beginXfer (xferEntered s e f ps x) f
    t.ranges = s.ranges ++ rangesOf false f.q.lid e (newStamp s e).1 s.nextId ps ∧ t.xfers = s.xfers ++ [x] ∧
      (getEng t e).unit = (getEng s e).unit.erase f.act ∧
      Touches [.engines, .launches, .partitions, .quotas, .traces, .ranges, .xfers, .nextId] s t := by
  intro e t
  have hn : Touches [.engines, .ranges, .xfers, .nextId] s (newStamp s e).2 := (newStamp_touches s e).mono (by decide)
  have h0 : Touches [.engines, .ranges, .xfers, .nextId] s (xferEntered s e f ps x) := hn.trans (.put rfl)
  have h1 := beginXfer_touches (xferEntered s e f ps x) f
  refine ⟨h1.same .ranges (by decide), h1.same .xfers (by decide), ?_, h1.after (by decide) (h0.mono (by decide))⟩
  rw [beginXfer_unit]
  exact congrArg (·.erase f.act) (newStamp_unit s e e)

/-- The transfer of a load that starts. -/
def loadOf (s : State) (e : Eng) (f : Start) (id : TileId) (ps : List Piece) (ws : List Nat) : Xfer :=
  { id := s.nextId, eng := e, slot := f.q.slot, vrow := f.q.vrow, lid := f.q.lid, tok := (f.toks.head?).getD {}
    tok2 := f.toks[1]?, dest := some id, pieces := ps, left := (sectorReads ps).length, words := ws }

section
variable {s : State} {e : Eng} {n : Nat} {f : Start} {i : Nat} {id : TileId} {ds : List TileId}
  (hx : xferAt s e n 0x18 = some f) (hp : f.toks.any (·.poison) = false) (hb : scalarBad s f = none)
  (hi : patIndex (opCfg f.r.op 0) (frameOf f) (tokScalar (f.q.l.getD {})) = some i) (hd : f.act.dests = id :: ds)
  (hh : patBs (opCfg f.r.op 0) = true → headersReady s e f.r.g.part (getTile s id).fmt .op false (tileChunks (getTile s id))
    (patBase (opCfg f.r.op 0) i) = true)
  {rs : List (Nat × Nat)} {ws : List Nat} (hrs : xferRuns s e f.r.g.part (opCfg f.r.op 0) i (getTile s id).rows
    (getTile s id).cols (getTile s id).fmt .op none = .ok (rs, ws))
include hx hp hb hi hd hh hrs

theorem exec_hload_fails {x : XErr} (hps : runsToPieces s e f.r.g.part .op .read rs = .error x) :
    exec (.hload e n) s = .next (failStart s f x) := by
  have hh : ¬(patBs (opCfg f.r.op 0) = true ∧ (!headersReady s e f.r.g.part (getTile s id).fmt .op false (tileChunks (getTile s id))
    (patBase (opCfg f.r.op 0) i)) = true) := fun hc => by rw [hh hc.1] at hc; exact absurd hc.2 (by decide)
  show execHload e n s = _
  unfold execHload
  simp only [hx, hp, hb, hi, hd, hh, hrs, hps, Bool.false_eq_true, if_false]

theorem exec_hload_starts {ps : List Piece} (hps : runsToPieces s e f.r.g.part .op .read rs = .ok ps)
    (hr : rangeRoom s (rangesOf false f.q.lid e (newStamp s e).1 s.nextId ps) = true) : exec (.hload e n) s =
      .next (issueAll (beginXfer (xferEntered s e f ps (loadOf s e f id ps ws)) f) e ((sectorReads ps).map fun p =>
        sectorReq p .read f.r.g.part f.q.lid (.hload e s.nextId 0) (some (newStamp s e).1))) := by
  have hh : ¬(patBs (opCfg f.r.op 0) = true ∧ (!headersReady s e f.r.g.part (getTile s id).fmt .op false (tileChunks (getTile s id))
    (patBase (opCfg f.r.op 0) i)) = true) := fun hc => by rw [hh hc.1] at hc; exact absurd hc.2 (by decide)
  show execHload e n s = _
  unfold execHload
  simp only [hx, hp, hb, hi, hd, hh, hrs, hps, Bool.false_eq_true, if_false]
  refine congrArg Host.Outcome.next ((if_neg fun hc => ?_).trans ?_)
  · exact Bool.false_ne_true (((congrArg (!·) hr).symm.trans hc))
  · unfold loadOf
    simp only [List.length_map]
    rfl

end

/-- The requests of a load name the sectors that it reads. -/
theorem sectorReq_read {ps : List Piece} {part lid : Nat} {from_ : ReqFrom} {st : Option Stamp} :
    ((sectorReads ps).map fun p => sectorReq p .read part lid from_ st).map (fun q => (q.host, q.pa, q.len, q.op, q.from_, q.st)) =
      (sectorReads ps).map fun p => (p.host, p.addr, 64, .read, from_, .queued) := by
  rw [List.map_map]
  refine List.map_congr_left fun p hp => ?_
  have hl := sectorReads_len ps p hp
  unfold sectorReq
  cases hh : p.host <;> simp [mkReq, hl, hh]

theorem sectorReq_local {p : Piece} {op : ReqOp} {part lid : Nat} {from_ : ReqFrom} {st : Option Stamp} {pkg : Nat}
    (h : p.host = true ∨ (ownerOf p.addr).pkg = pkg) : (sectorReq p op part lid from_ st).host = true ∨
      (sectorReq p op part lid from_ st).owner.pkg = pkg := by
  unfold sectorReq
  cases hh : p.host
  · exact .inr (h.resolve_left (by rw [hh]; decide))
  · exact .inl rfl

/-! ### Sectors return -/

theorem find_map_id {x : Nat} {y z : Xfer} {l : List Xfer} (h : l.find? (fun w => decide (w.id = x)) = some y) (hz : z.id = x) :
    (l.map fun w => if w.id = x then z else w).find? (fun w => decide (w.id = x)) = some z := by
  induction l with
  | nil => cases h
  | cons w l ih =>
    by_cases hw : w.id = x
    · rw [List.map_cons, if_pos hw, List.find?_cons_of_pos (by simpa using hz)]
    · rw [List.map_cons, if_neg hw, List.find?_cons_of_neg (by simpa using hw)]
      rw [List.find?_cons_of_neg (by simpa using hw)] at h
      exact ih h

/-- The chunk writes that a load begins. -/
theorem loadBegin_chunkWrites (r : OpRef) (z : Xfer) (id : TileId) : ∀ (cs : List Nat) (s : State), ∃ ws : List ChunkWrite,
    (cs.foldl (fun s k => loadBegin s r z id k) s).chunkWrites = s.chunkWrites ++ ws ∧ ws.map (·.chunk) = cs ∧
      ∀ w ∈ ws, w.tile = id
  | [], s => ⟨[], (List.append_nil _).symm, rfl, fun _ h => nomatch h⟩
  | c :: cs, s => by
    obtain ⟨w, h1, h2, h3⟩ := beginChunk_chunkWrites s id c 4 z.lid (opCoord r.op) z.tok.tag (loadChunk z (getTile s id) c).1
      (if isScaled (getTile s id).fmt then scaleArea (loadChunk z (getTile s id) c).2 else [])
    obtain ⟨ws, h4, h5, h6⟩ := loadBegin_chunkWrites r z id cs (loadBegin s r z id c)
    refine ⟨w :: ws, ?_, by rw [List.map_cons, h2, h5], List.forall_mem_cons.2 ⟨h3, h6⟩⟩
    refine h4.trans ?_
    rw [show (loadBegin s r z id c).chunkWrites = _ from h1, List.append_assoc, List.singleton_append]

/-- The state when a sound sector has joined its load. -/
def sectorJoined (s : State) (r : OpRef) (y z : Xfer) (id : TileId) (q : Req) (go : List Nat) : State :=
  modXfer (go.foldl (fun s k => loadBegin s r z id k) (dropReq s q.id)) y.id fun _ => { z with begun := z.begun ++ go }

theorem sectorJoined_touches (s : State) (r : OpRef) (y z : Xfer) (id : TileId) (q : Req) (go : List Nat) :
    Touches [.reqs, .tiles, .chunkWrites, .memTiles, .nextId, .xfers] s (sectorJoined s r y z id q go) :=
  (modXfer_touches ..).after (by decide) (Touches.after (m := [.tiles, .chunkWrites, .memTiles, .nextId])
    (.foldl (f := fun s k => loadBegin s r z id k) (fun s k => loadBegin_touches s r z id k) _ _) (by decide)
    ((dropReq_touches s q.id).mono (by decide)))

theorem loadDone_spec (s : State) (r : OpRef) (x : Xfer) {done : List Token}
    (hd : done = if opCtok r.op then toPort r (opNout r.op - 1) { x.tok with kind := 3, opw := 0, residue := 0, poison := x.poison }
      else []) (he : x.ctok = false → Emits s r x.tok.tag done) : let t := loadDone s r x
    t.updates = s.updates ++ (if x.ctok = false then done.map (risesFor s r x.id) else []) ∧
      t.xfers = if x.ctok then s.xfers else s.xfers.map fun y => if y.id = x.id then { y with ctok := true } else y := by
  intro t
  cases hc : x.ctok
  · have ht : t = emitToks (modXfer s x.id fun y => { y with ctok := true }) r x.id x.tok.tag done := by
      unfold t loadDone
      rw [hc, hd]
      rfl
    have hm : SameIn Graph.ops s (modXfer s x.id fun y => { y with ctok := true }) := (modXfer_touches ..).sameIn (by decide)
    rw [ht]
    refine ⟨?_, (emitToks_touches ..).same .xfers (by decide)⟩
    rw [emitToks_updates _ _ ((he hc).congr hm), risesFor_congr hm]
    rfl
  · have ht : t = s := if_pos hc
    rw [ht]
    exact ⟨(List.append_nil _).symm, rfl⟩

section
variable {s : State} {e : Eng} {n x off : Nat} {r : OpRef} {q : Req} {y : Xfer} {id : TileId}
  (hq : s.reqs.find? (fun q => decide (q.id = n) && decide (q.st = .done)) = some q) (hf : q.from_ = .hload e x off)
  (hy : s.xfers.find? (fun y => decide (y.id = x)) = some y) (hr : findOp s e y.slot = some r) (hn : y.failed = false)
  (hd : q.denied = false) (hb : q.bad = false) (hi : y.dest = some id)
include hq hf hy hr hn hd hb hi

theorem exec_hloadSectorReturn {go : List Nat} (hg : loadReady (gotSector y (getTile s id) q) (getTile s id) = go)
    (hok : ∀ c ∈ go, chunkRefused (getTile s id) c = false) : exec (.hloadSectorReturn e n) s = .next
      (if (gotSector y (getTile s id) q).left = 0 then
        loadDone (sectorJoined s r y (gotSector y (getTile s id) q) id q go) r
          { gotSector y (getTile s id) q with begun := (gotSector y (getTile s id) q).begun ++ go }
      else sectorJoined s r y (gotSector y (getTile s id) q) id q go) := by
  have hgo : go.find? (chunkRefused (getTile s id)) = none := List.find?_eq_none.2 fun c hc => by rw [hok c hc]; decide
  show execHloadSectorReturn e n s = _
  unfold execHloadSectorReturn
  simp only [hq, hf, hy, Option.map_some, Option.getD_some, hr, if_true]
  unfold sectorBack
  simp only [hn, hd, hb, hi, Bool.false_eq_true, false_and, or_self, if_false,
    show getTile (dropReq s q.id) id = getTile s id from rfl, hg, hgo]
  rfl

theorem hloadSectorReturn_joins : let z := gotSector y (getTile s id) q
    let go := loadReady z (getTile s id)
    (∀ c ∈ go, chunkRefused (getTile s id) c = false) →
    let done := if opCtok r.op then
      toPort r (opNout r.op - 1) { y.tok with kind := 3, opw := 0, residue := 0, poison := z.poison } else []
    (z.left = 0 → y.ctok = false → Emits s r y.tok.tag done) →
    ∃ u ws, exec (.hloadSectorReturn e n) s = .next u ∧ u.reqs = s.reqs.filter (fun r => r.id != q.id) ∧
      u.xfers.find? (fun y => decide (y.id = x)) =
        some { z with begun := z.begun ++ go, ctok := (y.ctok || decide (z.left = 0) : Bool) } ∧
      u.chunkWrites = s.chunkWrites ++ ws ∧ ws.map (·.chunk) = go ∧ (∀ w ∈ ws, w.tile = id) ∧
      u.updates = s.updates ++ (if z.left = 0 ∧ y.ctok = false then done.map (risesFor s r x) else []) ∧
      u.threads = s.threads ∧ SameBytes s u := by
  intro z go hok done he
  have hx := exec_hloadSectorReturn hq hf hy hr hn hd hb hi rfl hok
  have hid : y.id = x := of_decide_eq_true (by have h := List.find?_some hy; exact h)
  let w := sectorJoined s r y z id q go
  let z' : Xfer := { z with begun := z.begun ++ go }
  have hw : Touches [.reqs, .tiles, .chunkWrites, .memTiles, .nextId, .xfers] s w := sectorJoined_touches ..
  obtain ⟨ws, h1, h2, h3⟩ := loadBegin_chunkWrites r z id go (dropReq s q.id)
  have hfold : Touches [.tiles, .chunkWrites, .memTiles, .nextId] (dropReq s q.id)
      (go.foldl (fun s k => loadBegin s r z id k) (dropReq s q.id)) :=
    .foldl (f := fun s k => loadBegin s r z id k) (fun s k => loadBegin_touches s r z id k) _ _
  have hreqs : w.reqs = s.reqs.filter (fun r => r.id != q.id) := hfold.same .reqs (by decide)
  have hxf : w.xfers = s.xfers.map fun w => if w.id = x then z' else w := by
    unfold w sectorJoined modXfer
    rw [hid]
    exact congrArg (List.map _) (hfold.same .xfers (by decide))
  have hfind : w.xfers.find? (fun y => decide (y.id = x)) = some z' := by
    rw [hxf]
    exact find_map_id hy hid
  have hz : z.ctok = y.ctok := rfl
  by_cases h0 : z.left = 0
  · have hx : exec (.hloadSectorReturn e n) s = .next (loadDone w r z') := hx.trans (next_if_pos h0)
    have hl := loadDone_touches w r z'
    have hm : SameIn Graph.ops s w := hw.sameIn (by decide)
    obtain ⟨l1, l2⟩ := loadDone_spec w r z' (done := done) rfl fun hc => (he h0 hc).congr hm
    refine ⟨_, ws, hx, Eq.trans (hl.same .reqs (by decide)) hreqs, ?_, Eq.trans (hl.same .chunkWrites (by decide)) h1, h2, h3, ?_,
      Eq.trans (hl.same .threads (by decide)) (hw.same .threads (by decide)), (hw.sameBytes (by decide)).trans (hl.sameBytes (by decide))⟩
    · rw [l2]
      cases hc : z'.ctok
      · have : (w.xfers.map fun y => if y.id = z'.id then { y with ctok := true } else y) =
            s.xfers.map fun w => if w.id = x then { z' with ctok := true } else w := by
          rw [hxf, List.map_map]
          refine List.map_congr_left fun v _ => ?_
          by_cases hv : v.id = x
          · simp [hv, hid, z', z, gotSector]
          · simp [hv, hid, z', z, gotSector]
        rw [if_neg (by decide), this]
        refine (find_map_id (z := { z' with ctok := true }) hy hid).trans ?_
        simp [z', h0]
      · rw [if_pos rfl, hfind]
        have hyc : y.ctok = true := hc
        simp [z', h0, hyc, hz]
    · rw [l1, show w.updates = s.updates from hw.same .updates (by decide), risesFor_congr hm]
      have : z'.id = x := hid
      rw [this]
      simp only [h0, true_and]
      rfl
  · have hx : exec (.hloadSectorReturn e n) s = .next w := hx.trans (next_if_neg h0)
    refine ⟨w, ws, hx, hreqs, ?_, h1, h2, h3, ?_, hw.same .threads (by decide), hw.sameBytes (by decide)⟩
    · rw [hfind]
      simp [z', h0, hz]
    · rw [if_neg fun hc => h0 hc.1, List.append_nil]
      exact hw.same .updates (by decide)

end

end Sys2Proof.Machine
end

section
/-!
PROOFS. Proofs/Stores.lean: the end of an HLOAD, and HSTORE (spec/07 R165, R166).
-/
namespace Sys2Proof.Machine

/-! ### The end of a load -/

theorem exec_hloadSectorReturn_end {s : State} {e : Eng} {n : Nat} {x : Xfer} {r : OpRef} {id : TileId}
    (hq : s.reqs.find? (fun q => decide (q.id = n) && decide (q.st = .done)) = none)
    (hx : s.xfers.find? (fun y => decide (y.id = n) && decide (y.eng = e) && !y.store && decide (y.left = 0)) = some x)
    (hr : findOp s e x.slot = some r) (hi : x.dest = some id) :
    exec (.hloadSectorReturn e n) s = .next (if tileFull s id then finishLoad s r x id else s) := by
  show execHloadSectorReturn e n s = _
  unfold execHloadSectorReturn
  simp only [hq, hx, hr, hi]

/-- Tokens that leave, and then those that are consumed. -/
theorem emitConsume_spec {s v : State} {l : List Field} (hv : Touches l s v) (hg : Field.graphs ∉ l) (hu : Field.updates ∉ l)
    {r : OpRef} {fid : Nat} {at_ : Word} {out toks : List Token} (retire : Bool) (he : Emits s r at_ out) :
    let t := consumeToks (emitToks v r fid at_ out) r fid retire toks
    t.updates = s.updates ++ out.map (risesFor s r fid) ++ toks.map (fallsFor r fid) ∧
      Touches [.inFlight, .updates, .graphs, .tiles, .launches, .retires] v t := by
  intro t
  have hs : SameIn Graph.ops s v := hv.sameIn (by simpa using hg)
  refine ⟨?_, (consumeToks_touches ..).after (by decide) ((emitToks_touches ..).mono (by decide))⟩
  rw [show t.updates = _ from consumeToks_updates .., emitToks_updates _ _ (he.congr hs), risesFor_congr hs,
    show v.updates = s.updates from hv.same .updates hu]

theorem dropXfer_xfers (s : State) (x : Xfer) : (dropXfer s x).xfers = s.xfers.filter fun y => decide (y.id ≠ x.id) := rfl

theorem finishLoad_emits {s : State} {r : OpRef} {x : Xfer} {id : TileId} :
    let t := getTile s id
    let img := (List.range (tileChunks t)).flatMap fun c => (loadChunk x t c).1
    let out := toPort r 0 { x.tok with kind := 1, poison := x.poison, residue := residueOf img,
                                       opw := tileOpw id t.rows t.cols t.fmt (loadMode x t) }
    refsRoom s out = true → finishLoad s r x id =
      consumeToks (emitToks (dropXfer s x) r x.id x.tok.tag out) r x.id true (xferToks x) := fun h => if_neg (by rw [h]; decide)

/-! ### HSTORE starts -/

section
variable {s : State} {e : Eng} {n : Nat} {f : Start} {i : Nat}
  (hx : xferAt s e n 0x19 = some f) (hp : f.toks.any (·.poison) = false) (hb : scalarBad s f = none)
  (hfmt : tokFmt (f.q.l.getD {}) = opType f.r.op)
  (hm : tokMode (f.q.l.getD {}) = 0 ∨ (tokMode (f.q.l.getD {}) = 1 ∧ patBs (opCfg f.r.op 0) = true))
  (hi : patIndex (opCfg f.r.op 0) (frameOf f) (tokScalar (f.q.r.getD {})) = some i)
include hx hp hb hfmt hm hi

theorem exec_hstore_start : exec (.hstore e n) s = .next
    (if tokMode (f.q.l.getD {}) = 1 ∧ (!tokReadable s (f.q.l.getD {})) = true then s
    else match xferRuns s e f.r.g.part (opCfg f.r.op 0) i (tokRows (f.q.l.getD {})) (tokCols (f.q.l.getD {}))
        (tokFmt (f.q.l.getD {})) .op (some (tokWords s (f.q.l.getD {}))) with
      | .error x => failStart s f x
      | .ok (rs, ws) => match runsToPieces s e f.r.g.part .op .write rs with
        | .error x => failStart s f x
        | .ok ps =>
          if !rangeRoom s (rangesOf false f.q.lid e (newStamp s e).1 s.nextId ps) then s
          else beginXfer (xferEntered s e f ps { id := s.nextId, eng := e, slot := f.q.slot, vrow := f.q.vrow, lid := f.q.lid
                                                 tok := f.q.l.getD {}, tok2 := f.q.r, store := true, pieces := ps
                                                 words := ws, todo := List.range (tokChunks (f.q.l.getD {})) }) f) := by
  have h1 : ¬ 1 < tokMode (f.q.l.getD {}) := by rcases hm with h | h <;> omega
  have h2 : ¬(tokFmt (f.q.l.getD {}) ≠ opType f.r.op ∨ (tokMode (f.q.l.getD {}) ≠ 0 ∧ (!patBs (opCfg f.r.op 0)) = true)) := by
    rintro (h | ⟨h, hpat⟩)
    · exact h hfmt
    · rcases hm with h' | ⟨-, h'⟩
      · exact h h'
      · rw [h'] at hpat
        exact absurd hpat (by decide)
  show execHstore e n s = _
  unfold execHstore
  simp only [(xferAt_spec hx).2.2, if_true, hx]
  unfold startStore
  simp only [hp, hb, h1, h2, hi, Bool.false_eq_true, false_and, if_false]
  rfl

end

/-! ### A chunk of a store -/

/-- The state in which a chunk of a store is read. -/
def storeReading (s : State) (e : Eng) (x : Xfer) (c : Nat) : State :=
  countBurst (clearData (watchPassed s x.id (chunkSectors (getTile s (tokTile x.tok)) c)) e c) (tokTile x.tok) c

theorem storeReading_touches (s : State) (e : Eng) (x : Xfer) (c : Nat) :
    Touches [.watchHolds, .engines, .bankModes] s (storeReading s e x c) :=
  (countBurst_touches ..).after (by decide) ((clearData_touches ..).after (by decide) ((watchPassed_touches ..).mono (by decide)))

/-- The store when a chunk's burst has been read. -/
def storeTook (x : Xfer) (c : Nat) (b : Burst) : Xfer :=
  { x with todo := x.todo.erase c, resid := (x.resid + residueOf b.data) % 65535, sum := (x.sum + b.sum) % 65535 }

/-- The residue that a store's is held against. -/
def storeWant (s : State) (x : Xfer) (y : Xfer) : Nat := if chunkChecked s x.tok then y.sum else x.tok.residue

/-- A sound chunk of a store is read. -/
theorem readStore_sound {v : State} {r : OpRef} {x : Xfer} {c : Nat} (hd : (getEng v x.eng).dataErr = none)
    (hb : (burstOf v (tokTile x.tok) (tokMode x.tok) 0 c).2 = false)
    (hbad : burstBad (tokMode x.tok) (tokFmt x.tok) (tokChunks x.tok) c (burstOf v (tokTile x.tok) (tokMode x.tok) 0 c).1.words =
      false) : let b := (burstOf v (tokTile x.tok) (tokMode x.tok) 0 c).1
    let y := storeTook x c b
    let w := countBurst (clearData v x.eng c) (tokTile x.tok) c
    let want := storeWant w x y
    readStore v r x c =
      if y.todo.isEmpty = true ∧ (!y.poison) = true ∧ (!residueEq want y.resid) = true then haltStore w x (2, want, y.resid)
      else
        let bs := if y.words.isEmpty then b.data else joinBurst (tokFmt x.tok) b.words b.data
        let st := (w.ranges.find? fun z => decide (z.id = x.id)).map (·.stamp)
        let u := issueAll (modXfer w x.id fun _ => y) x.eng (storeWrites y r.g.part st c bs)
        if y.todo.isEmpty then storeRead u y else u := by
  intro b y w want
  unfold readStore
  simp only [hd, hb, hbad, noisyBurst, Bool.false_eq_true, false_and, and_false, if_false, Bool.or_false]
  rfl

section
variable {s : State} {e : Eng} {n : Nat} {x : Xfer} {r : OpRef} {c : Nat} (hn : (getEng s e).unit.length ≤ n)
  (hx : (s.xfers.filter fun x => decide (x.eng = e) && x.store)[(n - (getEng s e).unit.length) / 128]? = some x)
  (hr : findOp s e x.slot = some r) (hc : (n - (getEng s e).unit.length) % 128 = c)
include hn hx hr hc

theorem exec_hstore_waits (hw : x.todo.contains c = false ∨ chunkReadable s x.tok c = false) : exec (.hstore e n) s = .next s := by
  show execHstore e n s = _
  unfold execHstore
  simp only [Nat.not_lt.2 hn, if_false, hx, hr, hc]
  exact next_if_pos (by simpa using hw)

variable (ht : x.todo.contains c = true) (hk : chunkReadable s x.tok c = true)
  (hg : chunkGate s (tokTile x.tok) c x.id x.lid .read = none) (hd : (getEng s e).dataErr = none)
  (hb : (burstOf s (tokTile x.tok) (tokMode x.tok) 0 c).2 = false)
  (hbad : burstBad (tokMode x.tok) (tokFmt x.tok) (tokChunks x.tok) c (burstOf s (tokTile x.tok) (tokMode x.tok) 0 c).1.words = false)
include ht hk hg hd hb hbad

theorem exec_hstore_chunk : let b := (burstOf s (tokTile x.tok) (tokMode x.tok) 0 c).1
    let y := storeTook x c b
    let want := storeWant s x y
    let w := storeReading s e x c
    exec (.hstore e n) s = .next
      (if y.todo.isEmpty = true ∧ (!y.poison) = true ∧ (!residueEq want y.resid) = true then haltStore w x (2, want, y.resid)
      else
        let bs := if y.words.isEmpty then b.data else joinBurst (tokFmt x.tok) b.words b.data
        let st := (w.ranges.find? fun z => decide (z.id = x.id)).map (·.stamp)
        let v := issueAll (modXfer w x.id fun _ => y) e (storeWrites y r.g.part st c bs)
        if y.todo.isEmpty then storeRead v y else v) := by
  have he : x.eng = e := (of_decide_eq_true (Bool.and_eq_true_iff.1
    ((List.mem_filter.1 (List.mem_of_getElem? hx)).2)).1)
  intro b y want w
  subst he
  have hw : storeWant w x y = want := by
    unfold want storeWant chunkChecked
    rw [(storeReading_touches s x.eng x c).getTile (by decide)]
  show execHstore x.eng n s = _
  unfold execHstore
  simp only [Nat.not_lt.2 hn, if_false, hx, hr, hc, ht, hk, hg, Bool.not_true, Bool.false_eq_true, or_self]
  refine (congrArg Host.Outcome.next (readStore_sound (r := r) (v := watchPassed s x.id (chunkSectors (getTile s (tokTile x.tok)) c))
    (x := x) (c := c) hd hb hbad)).trans ?_
  rw [← hw]
  rfl

end

/-- The runs of a sector's written bytes begin in the sector. -/
theorem sectorRuns_addr (counts : Nat → Bool) (ws : List (Nat × List Byte)) (sec : Nat) :
    ∀ w ∈ sectorRuns counts ws sec, ∃ b, b < 64 ∧ w.1 = sec * 64 + b := by
  have h : ∀ (ks : List Nat) (o : List (Nat × List Byte)), (∀ k ∈ ks, k < 64) → (∀ w ∈ o, ∃ b, b < 64 ∧ w.1 = sec * 64 + b) →
      ∀ w ∈ ks.foldl (fun (o : List (Nat × List Byte)) k =>
        let a := sec * 64 + k
        match if counts a then lastByte ws a else none with
        | none => o
        | some b => match o with
          | (x, bs) :: l => if x + bs.length = a then (x, bs ++ [b]) :: l else (a, [b]) :: o
          | [] => [(a, [b])]) o, ∃ b, b < 64 ∧ w.1 = sec * 64 + b := by
    intro ks
    induction ks with
    | nil => exact fun _ _ h => h
    | cons k ks ih =>
      intro o hk ho
      refine ih _ (fun j hj => hk j (List.mem_cons_of_mem _ hj)) ?_
      have hk := hk k List.mem_cons_self
      dsimp only
      split
      · exact ho
      · split
        · obtain ⟨h1, h2⟩ := List.forall_mem_cons.1 ho
          split
          · exact List.forall_mem_cons.2 ⟨h1, h2⟩
          · exact List.forall_mem_cons.2 ⟨⟨k, hk, rfl⟩, ho⟩
        · exact List.forall_mem_singleton.2 ⟨k, hk, rfl⟩
  intro w hw
  exact h (List.range 64) [] (fun k hk => List.mem_range.1 hk) (fun _ h => nomatch h) w (List.mem_reverse.1 hw)

/-- The requests of a store's chunk. -/
theorem storeWrites_issue {x : Xfer} {c : Nat} {bs : List Byte} {s : State} {e : Eng} {part : Nat} {st : Option Stamp}
    (he : x.eng = e) : let p := storeChunk x c
    let ps := slicePieces x.pieces p.1 p.2
    let own := fun a : Nat => decide (p.1 ≤ lastOffset x.pieces a) && decide (lastOffset x.pieces a < p.1 + p.2)
    (∀ k ∈ sectorsOf ps, ∀ b, b < 64 → (ownerOf (k * 64 + b)).pkg = e.pkg) →
    ∃ qs, (issueAll s e (storeWrites x part st c bs)).reqs = s.reqs ++ qs ∧
      qs.map (fun q => (q.pa, q.op, q.from_)) = (sectorsOf ps).flatMap fun k =>
        (sectorRuns own (withBytes ps bs) k).map fun w => (w.1, .write w.2 x.poison, .hstore e x.id) := by
  intro p ps own hown
  have hl : ∀ r ∈ storeWrites x part st c bs, r.host = true ∨ r.owner.pkg = e.pkg := by
    intro r hr
    obtain ⟨k, hk, hr⟩ := List.mem_flatMap.1 hr
    obtain ⟨w, hw, rfl⟩ := List.mem_map.1 hr
    obtain ⟨b, hb, hwb⟩ := sectorRuns_addr _ _ _ w hw
    refine .inr ?_
    show (ownerOf w.1).pkg = e.pkg
    rw [hwb]
    exact hown k hk b hb
  obtain ⟨qs, h1, h2⟩ := issueAll_reqs (e := e) _ s hl
  refine ⟨qs, h1, ?_⟩
  rw [h2 (fun q => (q.pa, q.op, q.from_)) fun _ _ => rfl]
  unfold storeWrites
  rw [List.map_flatMap]
  refine List.flatMap_congr fun k _ => ?_
  rw [List.map_map, he]
  rfl

/-! ### The end of a store -/

/-- Tokens that are consumed without a retirement leave the retirements. -/
theorem consumeToks_keeps (r : OpRef) (fid : Nat) (toks : List Token) (s : State) :
    (consumeToks s r fid false toks).retires = s.retires := by
  induction toks generalizing s with
  | nil => rfl
  | cons x toks ih =>
    refine (ih _).trans ?_
    have ha : (addPend s r x.tag false).retires = s.retires := (addPend_touches s r x.tag false).same .retires (by decide)
    unfold consumeTok
    extract_lets s1 steer s2 s3
    rw [if_neg (by simp)]
    exact Eq.trans ((touch_touches ..).same .retires (by decide)) ha

theorem exec_hstoreComplete {s : State} {e : Eng} {n : Nat} {x : Xfer} {r : OpRef}
    (hx : s.xfers.find? (fun y => decide (y.id = n) && decide (y.eng = e) && y.store) = some x)
    (hr : findOp s e x.slot = some r) : exec (.hstoreComplete e n) s = .next
    (if (!x.todo.isEmpty || (s.reqs.filter (ofStore e n)).any fun q => decide (q.st ≠ .done)) = true then s
    else
      let out := if opCtok r.op then toPort r (opNout r.op - 1) { x.tok with kind := 3, opw := 0, residue := 0 } else []
      let s' := dropXfer { s with reqs := s.reqs.filter fun q => !ofStore e n q } x
      let room := faultRoom s e (xferToks x).length
      match x.stop, (s.reqs.filter (ofStore e n)).find? (·.denied) with
      | some (0, cause, v), _ => if !room then s else opFault s' r x.vrow (xferToks x) cause v
      | some (1, _, _), _ => if !room then s else poisonConsumed s' r x.vrow (xferToks x)
      | some (_, want, found), _ => if !room then s else silentData s' r x.vrow (xferToks x) want found
      | none, some q => if !room then s else spendStore (opFault s' r x.vrow (xferToks x) 0x0110 q.va) x
      | none, none => consumeToks (emitToks s' r x.id x.tok.tag out) r x.id false (xferToks x)) := by
  show execHstoreComplete e n s = _
  unfold execHstoreComplete
  simp only [hx, hr] <;> rfl

/-- What a store that ends in a fault leaves. -/
theorem storeFaults_spec {s : State} {e : Eng} {n : Nat} {x : Xfer} (r : OpRef) (cause v : Nat) (hid : x.id = n) :
    let t := opFault (dropXfer { s with reqs := s.reqs.filter fun q => !ofStore e n q } x) r x.vrow (xferToks x) cause v
    t.updates = s.updates ∧ t.xfers = s.xfers.filter (fun y => decide (y.id ≠ n)) ∧ t.threads = s.threads ∧ SameBytes s t ∧
      ∃ rep, t.reports = s.reports ++ [rep] ∧ rep.cause = cause ∧ rep.tval = BitVec.ofNat 64 v := by
  intro t
  have h0 : Touches [.reqs, .ranges, .xfers] s (dropXfer { s with reqs := s.reqs.filter fun q => !ofStore e n q } x) := .put rfl
  have h1 := opFault_touches (dropXfer { s with reqs := s.reqs.filter fun q => !ofStore e n q } x) r x.vrow (xferToks x) cause v
  obtain ⟨-, rep, h2, h3, h4⟩ := opFault_spec (dropXfer { s with reqs := s.reqs.filter fun q => !ofStore e n q } x) r x.vrow
    (xferToks x) cause v
  refine ⟨Eq.trans (h1.same .updates (by decide)) (h0.same .updates (by decide)), ?_,
    Eq.trans (h1.same .threads (by decide)) (h0.same .threads (by decide)), (h0.sameBytes (by decide)).trans (h1.sameBytes (by decide)),
    rep, h2, h3, h4⟩
  rw [show t.xfers = _ from h1.same .xfers (by decide), ← hid]
  rfl

section
variable {s : State} {e : Eng} {n : Nat} {x : Xfer} {r : OpRef}
  (hx : s.xfers.find? (fun y => decide (y.id = n) && decide (y.eng = e) && y.store) = some x) (hr : findOp s e x.slot = some r)
include hx hr

theorem hstoreComplete_waits (hw : x.todo ≠ [] ∨ s.reqs.any (fun q => ofStore e n q && decide (q.st ≠ .done)) = true) :
    exec (.hstoreComplete e n) s = .next s := by
  refine (exec_hstoreComplete hx hr).trans (next_if_pos ?_)
  rcases hw with h | h
  · have : x.todo.isEmpty = false := by simpa using h
    rw [this]
    rfl
  · rw [List.any_filter, h, Bool.or_true]

variable (ht : x.todo = []) (ha : s.reqs.all (fun q => !ofStore e n q || decide (q.st = .done)) = true)
include ht ha

theorem exec_hstoreComplete_ends : exec (.hstoreComplete e n) s = .next
    (let out := if opCtok r.op then toPort r (opNout r.op - 1) { x.tok with kind := 3, opw := 0, residue := 0 } else []
      let s' := dropXfer { s with reqs := s.reqs.filter fun q => !ofStore e n q } x
      let room := faultRoom s e (xferToks x).length
      match x.stop, (s.reqs.filter (ofStore e n)).find? (·.denied) with
      | some (0, cause, v), _ => if !room then s else opFault s' r x.vrow (xferToks x) cause v
      | some (1, _, _), _ => if !room then s else poisonConsumed s' r x.vrow (xferToks x)
      | some (_, want, found), _ => if !room then s else silentData s' r x.vrow (xferToks x) want found
      | none, some q => if !room then s else spendStore (opFault s' r x.vrow (xferToks x) 0x0110 q.va) x
      | none, none => consumeToks (emitToks s' r x.id x.tok.tag out) r x.id false (xferToks x)) := by
  have hany : ((s.reqs.filter (ofStore e n)).any fun q => decide (q.st ≠ .done)) = false := by
    rw [List.any_filter, List.any_eq_false]
    intro q hq
    have h := List.all_eq_true.1 ha q hq
    cases h1 : ofStore e n q
    · exact Bool.false_ne_true
    · rw [h1] at h
      have h : q.st = .done := by simpa using h
      simp [h]
  exact (exec_hstoreComplete hx hr).trans (next_if_neg (by rw [ht, hany]; decide))

theorem hstoreComplete_emits (hs : x.stop = none) (hd : s.reqs.any (fun q => ofStore e n q && q.denied) = false) :
    exec (.hstoreComplete e n) s = .next (consumeToks
      (emitToks (dropXfer { s with reqs := s.reqs.filter fun q => !ofStore e n q } x) r x.id x.tok.tag
        (if opCtok r.op then toPort r (opNout r.op - 1) { x.tok with kind := 3, opw := 0, residue := 0 } else []))
      r x.id false (xferToks x)) := by
  have hn : (s.reqs.filter (ofStore e n)).find? (·.denied) = none := by
    refine List.find?_eq_none.2 fun q hq hc => ?_
    obtain ⟨h1, h2⟩ := List.mem_filter.1 hq
    have h := List.any_eq_false.1 hd q h1
    rw [h2, hc] at h
    exact h rfl
  refine (exec_hstoreComplete_ends hx hr ht ha).trans ?_
  simp only [hs, hn]

theorem hstoreComplete_stops {cause v : Nat} (hs : x.stop = some (0, cause, v)) (hf : faultRoom s e (xferToks x).length = true) :
    exec (.hstoreComplete e n) s = .next (opFault (dropXfer { s with reqs := s.reqs.filter fun q => !ofStore e n q } x) r
      x.vrow (xferToks x) cause v) := by
  refine (exec_hstoreComplete_ends hx hr ht ha).trans ?_
  simp only [hs, hf, Bool.not_true, Bool.false_eq_true, if_false]

theorem hstoreComplete_refused {q : Req} (hs : x.stop = none) (hq : (s.reqs.filter (ofStore e n)).find? (·.denied) = some q)
    (hf : faultRoom s e (xferToks x).length = true) : exec (.hstoreComplete e n) s = .next (spendStore
      (opFault (dropXfer { s with reqs := s.reqs.filter fun q => !ofStore e n q } x) r x.vrow (xferToks x) 0x0110 q.va) x) := by
  refine (exec_hstoreComplete_ends hx hr ht ha).trans ?_
  simp only [hs, hq, hf, Bool.not_true, Bool.false_eq_true, if_false]

end

theorem storeRead_spec (s : State) (x : Xfer) : (storeRead s x).reqs = s.reqs ∧ (storeRead s x).xfers = s.xfers ∧
    (storeRead s x).retires = s.retires ++ [{ tile := tokTile x.tok }] ∧ Touches [.retires, .ranges] s (storeRead s x) :=
  ⟨rfl, rfl, rfl, .put rfl⟩

/-- Settles O46: a start enters its transfer through `xferEntered`, a returned sector joins through `sectorJoined`, a store's chunk
is read by `readStore`, and both ends emit and consume as `emitConsume_spec` says. -/
theorem hbmTransfers : Obligations.HbmTransfers := by
  intro s e n st
  refine ⟨fun f i id ds hx hp hb hi hd => ?_, fun q x y off r id hq hf hy hr hn hd hb hi =>
    hloadSectorReturn_joins hq hf hy hr hn hd hb hi, fun x r id hq hx hr hi => ?_, fun f i hx hp hb => ?_, fun x r => ?_,
    fun x r hx hr => ?_⟩
  · intro t hh rs ws hrs
    obtain ⟨he, -, -⟩ := xferAt_spec hx
    refine ⟨fun ps hps => ?_, fun x hps h0 => ?_, fun x hps h0 h1 hr ha => ?_⟩
    · intro rg hrg
      have hex := exec_hload_starts hx hp hb hi hd hh hrs hps hrg
      obtain ⟨h1, h2, h3, h4⟩ := xferEntered_spec s f ps (loadOf s e f id ps ws)
      rw [he] at h1 h2 h3 h4
      have hq := issueAll_touches (beginXfer (xferEntered s e f ps (loadOf s e f id ps ws)) f) e ((sectorReads ps).map fun p =>
        sectorReq p .read f.r.g.part f.q.lid (.hload e s.nextId 0) (some (newStamp s e).1))
      refine ⟨_, hex, Eq.trans (hq.same .ranges (by decide)) h1, Eq.trans (hq.same .xfers (by decide)) h2, ?_,
        Eq.trans (hq.same .threads (by decide)) (h4.same .threads (by decide)), (h4.sameBytes (by decide)).trans (hq.sameBytes (by decide)),
        fun hl => ?_⟩
      · rw [hq.getEng (by decide)]
        exact h3
      · obtain ⟨qs, g1, g2⟩ := issueAll_reqs (e := e) _ (beginXfer (xferEntered s e f ps (loadOf s e f id ps ws)) f)
          (List.forall_mem_map.2 fun p hp => sectorReq_local (op := .read) (part := f.r.g.part) (lid := f.q.lid)
            (from_ := .hload e s.nextId 0) (st := some (newStamp s e).1) (hl p hp))
        refine ⟨qs, ?_, ?_⟩
        · rw [g1, show (beginXfer (xferEntered s e f ps (loadOf s e f id ps ws)) f).reqs = s.reqs from h4.same .reqs (by decide)]
        · rw [g2 (fun q => (q.host, q.pa, q.len, q.op, q.from_, q.st)) fun _ _ => rfl]
          exact sectorReq_read
    · have hex := exec_hload_fails hx hp hb hi hd hh hrs hps
      subst he
      have hf : failStart s f x = noteMiss s f.r.op.eng f.r.g.part x.2 f.q.tag f.q.slot f.q.lid := if_pos h0
      rw [hf] at hex
      exact ⟨_, hex, noteMiss_walk ..⟩
    · have hex := exec_hload_fails hx hp hb hi hd hh hrs hps
      subst he
      exact ⟨_, hex, failStart_faults h0 h1 hr ha⟩
  · have hex := exec_hloadSectorReturn_end hq hx hr hi
    refine ⟨fun ht => hex.trans (next_if_neg (by rw [ht]; decide)), fun ht => ?_⟩
    intro t img out hro he
    have hid : x.id = n := by
      have h := List.find?_some hx
      simp only [Bool.and_eq_true, decide_eq_true_eq] at h
      exact h.1.1.1
    have h0 := dropXfer_touches s x
    obtain ⟨h1, h2⟩ := emitConsume_spec (fid := x.id) (toks := xferToks x) h0 (by decide) (by decide) true he
    refine ⟨_, (hex.trans (next_if_pos ht)).trans (congrArg _ (finishLoad_emits hro)), ?_, ?_,
      Eq.trans (h2.same .threads (by decide)) (h0.same .threads (by decide)), (h0.sameBytes (by decide)).trans (h2.sameBytes (by decide))⟩
    · rw [← hid]
      exact h1
    · rw [← hid]
      exact h2.same .xfers (by decide)
  · intro c t hfmt hm hi
    have hex := exec_hstore_start hx hp hb hfmt hm hi
    obtain ⟨he, -, -⟩ := xferAt_spec hx
    refine ⟨fun h1 h2 => hex.trans (next_if_pos ⟨h1, by rw [h2]; rfl⟩), fun hrd rs ws ps hrs hps hrg => ?_⟩
    rw [if_neg fun hc => absurd hc.2 (by rw [hrd hc.1]; decide), hrs] at hex
    dsimp only at hex
    rw [hps] at hex
    have hex := hex.trans (next_if_neg (by rw [hrg]; decide))
    obtain ⟨h1, h2, h3, h4⟩ := xferEntered_spec s f ps { id := s.nextId, eng := e, slot := f.q.slot, vrow := f.q.vrow
                                                         lid := f.q.lid, tok := t, tok2 := f.q.r, store := true, pieces := ps
                                                         words := ws, todo := List.range (tokChunks t) }
    rw [he] at h1 h2 h3 h4
    exact ⟨_, hex, h1, h2, h4.same .reqs (by decide), h4.same .retires (by decide), h3, h4.same .threads (by decide),
      h4.sameBytes (by decide)⟩
  · intro k c hn hx hr
    refine ⟨fun hw => exec_hstore_waits hn hx hr rfl hw, fun ht hk hg hd => ?_⟩
    intro t b hb hbad y want moved
    have hex := exec_hstore_chunk hn hx hr rfl ht hk hg hd hb hbad
    have hw := storeReading_touches s e x c
    have he : x.eng = e := (of_decide_eq_true (Bool.and_eq_true_iff.1 ((List.mem_filter.1 (List.mem_of_getElem? hx)).2)).1)
    refine ⟨fun h1 h2 h3 => ?_, fun hgo => ?_⟩
    · have hc : y.todo.isEmpty = true ∧ (!y.poison) = true ∧ (!residueEq want y.resid) = true :=
        ⟨by rw [h1]; rfl, by rw [show y.poison = false from h2]; rfl, by rw [h3]; rfl⟩
      have hm := haltStore_touches (storeReading s e x c) x (2, want, y.resid)
      refine ⟨_, hex.trans (next_if_pos hc), Eq.trans (hm.same .reqs (by decide)) (hw.same .reqs (by decide)),
        Eq.trans (hm.same .retires (by decide)) (hw.same .retires (by decide)), ?_,
        Eq.trans (hm.same .threads (by decide)) (hw.same .threads (by decide)), (hw.sameBytes (by decide)).trans (hm.sameBytes (by decide))⟩
      exact congrArg (List.map _) (hw.same .xfers (by decide))
    · have hc : ¬(y.todo.isEmpty = true ∧ (!y.poison) = true ∧ (!residueEq want y.resid) = true) := by
        rintro ⟨c1, c2, c3⟩
        rcases hgo with h | h | h
        · exact h (List.isEmpty_iff.1 c1)
        · rw [show y.poison = true from h] at c2
          exact absurd c2 (by decide)
        · rw [h] at c3
          exact absurd c3 (by decide)
      have hex := hex.trans (next_if_neg hc)
      intro p ps bs own hown
      let w := storeReading s e x c
      let sta := (w.ranges.find? fun z => decide (z.id = x.id)).map (·.stamp)
      let v := modXfer w x.id fun _ => y
      have hv : Touches [.watchHolds, .engines, .bankModes, .xfers] s v := (modXfer_touches ..).after (by decide) (hw.mono (by decide))
      have hi := issueAll_touches v e (storeWrites y r.g.part sta c bs)
      obtain ⟨qs, g1, g2⟩ := storeWrites_issue (x := y) (c := c) (bs := bs) (s := v) (part := r.g.part) (st := sta) he hown
      have hxf : (issueAll v e (storeWrites y r.g.part sta c bs)).xfers = s.xfers.map (fun w => if w.id = x.id then y else w) :=
        Eq.trans (hi.same .xfers (by decide)) (congrArg (List.map _) (hw.same .xfers (by decide)))
      have hrq : (issueAll v e (storeWrites y r.g.part sta c bs)).reqs = s.reqs ++ qs := by
        rw [g1, show v.reqs = s.reqs from hv.same .reqs (by decide)]
      have hre : (issueAll v e (storeWrites y r.g.part sta c bs)).retires = s.retires :=
        Eq.trans (hi.same .retires (by decide)) (hv.same .retires (by decide))
      have hth : (issueAll v e (storeWrites y r.g.part sta c bs)).threads = s.threads :=
        Eq.trans (hi.same .threads (by decide)) (hv.same .threads (by decide))
      have hby : SameBytes s (issueAll v e (storeWrites y r.g.part sta c bs)) :=
        (hv.sameBytes (by decide)).trans (hi.sameBytes (by decide))
      by_cases hl : y.todo = []
      · obtain ⟨r1, r2, r3, r4⟩ := storeRead_spec (issueAll v e (storeWrites y r.g.part sta c bs)) y
        refine ⟨_, qs, hex.trans (next_if_pos (List.isEmpty_iff.2 hl)), ⟨r2.trans hxf,
          Eq.trans (r4.same .threads (by decide)) hth, hby.trans (r4.sameBytes (by decide))⟩, r1.trans hrq, g2, ?_⟩
        refine r3.trans ?_
        rw [hre, if_pos hl]
      · refine ⟨_, qs, hex.trans (next_if_neg fun hc => hl (List.isEmpty_iff.1 hc)), ⟨hxf, hth, hby⟩, hrq, g2, ?_⟩
        exact hre.trans (by rw [if_neg hl, List.append_nil])
  · intro faults
    have hid : x.id = n := by
      have h := List.find?_some hx
      simp only [Bool.and_eq_true, decide_eq_true_eq] at h
      exact h.1.1
    subst hid
    refine ⟨fun hw => hstoreComplete_waits hx hr hw, fun ht ha => ⟨fun hs hd => ?_, fun cause v hs hf => ?_, fun q hs hq hf => ?_⟩⟩
    · intro out he
      have h0 : Touches [.reqs, .ranges, .xfers] s (dropXfer { s with reqs := s.reqs.filter fun q => !ofStore e x.id q } x) := .put rfl
      obtain ⟨h1, -⟩ := emitConsume_spec (fid := x.id) (toks := xferToks x) h0 (by decide) (by decide) false he
      have hm := emitToks_touches (dropXfer { s with reqs := s.reqs.filter fun q => !ofStore e x.id q } x) r x.id x.tok.tag out
      have hc := consumeToks_touches (emitToks (dropXfer { s with reqs := s.reqs.filter fun q => !ofStore e x.id q } x) r x.id
        x.tok.tag out) r x.id false (xferToks x)
      have hall := hc.after (l := [.inFlight, .updates, .graphs, .tiles, .launches, .retires]) (by decide) (hm.mono (by decide))
      refine ⟨_, hstoreComplete_emits hx hr ht ha hs hd, ?_, hall.same .reqs (by decide), ?_, ?_,
        Eq.trans (hall.same .threads (by decide)) (h0.same .threads (by decide)),
        (h0.sameBytes (by decide)).trans (hall.sameBytes (by decide))⟩
      · exact h1
      · exact hall.same .xfers (by decide)
      · rw [consumeToks_keeps]
        exact Eq.trans (hm.same .retires (by decide)) (h0.same .retires (by decide))
    · obtain ⟨h1, h2, h3, h4, h5⟩ := storeFaults_spec (s := s) (e := e) r cause v rfl
      exact ⟨_, hstoreComplete_stops hx hr ht ha hs hf, h1, h2, h3, h4, h5⟩
    · obtain ⟨h1, h2, h3, h4, rep, h5, h6⟩ := storeFaults_spec (s := s) (e := e) r 0x0110 q.va rfl
      have hp := spendStore_touches (opFault (dropXfer { s with reqs := s.reqs.filter fun q => !ofStore e x.id q } x) r x.vrow
        (xferToks x) 0x0110 q.va) x
      exact ⟨_, hstoreComplete_refused hx hr ht ha hs hq hf, Eq.trans (hp.same .updates (by decide)) h1,
        Eq.trans (hp.same .xfers (by decide)) h2, Eq.trans (hp.same .threads (by decide)) h3, h4.trans (hp.sameBytes (by decide)),
        rep, Eq.trans (hp.same .reports (by decide)) h5, h6⟩

end Sys2Proof.Machine
end

section
/-!
PROOFS. Proofs/CopyNames.lean: copies of one name (spec/11 R250).
-/
namespace Sys2Proof.Machine

/-- A copy of the copy engine of die 0 of package 0, with one chunk of no bytes left to read. -/
def namesake (lid : Nat) : CopyJob := { eng := copyEng 0 0, left := [0], lid := lid }

/-- Two copies of one name, of launches 1 and 2, of which the engine finds the first. -/
def namesakes : State := { copies := [namesake 1, namesake 2] }

/-- The launches of the copies after an instruction. -/
def copyLids : Out → List Nat
  | .next u => u.copies.map (·.lid)
  | _ => []

theorem namesakes_stay : copyLids (exec (.copyChunkAck 0 0 0 0) namesakes) = [1, 2] := by decide +kernel

/-- Refutes O47: a chunk whose reads are issued changes each copy of its name in place, so the second of `namesakes` keeps its
launch, where the statement has both become the first one's next state. Nothing in the statement says that names are unique. -/
theorem not_copyOperators : ¬ Obligations.CopyOperators := by
  intro h
  obtain ⟨-, chunks, -⟩ := h namesakes ⟨by decide, by decide, by decide⟩
  obtain ⟨-, reads, -⟩ := chunks 0 0 0 0 (namesake 1) (by decide +kernel) rfl (by decide)
  obtain ⟨u, qs, hu, hc, -⟩ := ((reads (by decide +kernel) (by decide +kernel)).1 [] false rfl).1 (by decide +kernel)
    (fun p hp => absurd hp (by rw [show sectorReads (endPieces (namesake 1) (namesake 1).src 0) = [] from rfl]; exact List.not_mem_nil))
  have hs := namesakes_stay
  rw [hu] at hs
  have hl : u.copies.map (·.lid) = [1, 1] := by rw [hc]; rfl
  exact absurd (hl.symm.trans hs) (by decide)

end Sys2Proof.Machine
end

section
/-!
PROOFS. Proofs/Records.lean: records that take their place in a channel and land there (spec/14 R322, R323; spec/17 R364).
-/
namespace Sys2Proof.Machine

theorem Touches.getChan {l : List Field} {s t : State} (h : Touches l s t) (hl : l.contains .chans = false) (k : ChanKey) :
    getChan t k = getChan s k := by
  have e : t.chans = s.chans := h.same .chans (by simpa using hl)
  unfold Machine.getChan
  rw [e]

theorem getChan_modChan (s : State) (k : ChanKey) (f : Chan → Chan) : getChan (modChan s k f) k = f (getChan s k) :=
  tget_tset_same ..

theorem getChan_modChan_other {s : State} {k j : ChanKey} (f : Chan → Chan) (h : j ≠ k) : getChan (modChan s k f) j = getChan s j :=
  tget_tset_other _ _ _ h

/-! ### Places -/

/-- What a place that is found leaves of its channel: the records, their numbers and where they lie. -/
def Chan.order (c : Chan) : List Rec × Nat × Nat × Nat × Nat × Nat × Nat :=
  (c.recs, c.wrec, c.rlog, c.rpage, c.rmt, c.roff, c.part)

/-- A channel has changed, in what its order does not show. -/
def SameOrder (s : State) (k : ChanKey) (v : State) : Prop :=
  (getChan v k).order = (getChan s k).order ∧ ∀ j, j ≠ k → getChan v j = getChan s j

theorem SameOrder.setChan {s u : State} {k : ChanKey} {c : Chan} (hu : ∀ j, getChan u j = getChan s j)
    (hc : c.order = (getChan s k).order) : SameOrder s k (setChan u k c) :=
  ⟨(congrArg Chan.order (getChan_setChan ..)).trans hc, fun j h => (getChan_setChan_other _ _ h).trans (hu j)⟩

theorem tailSeg_order (c : Chan) (g : Nat) : (tailSeg c g).order = c.order := by
  unfold tailSeg
  extract_lets d
  have h : d.order = c.order := by
    unfold d
    split <;> rfl
  exact h

theorem writePlace_order (s : State) (k : ChanKey) : (writePlace s k).All (SameOrder s k) := by
  unfold writePlace
  extract_lets c c'
  split
  · exact SameOrder.setChan (fun _ => rfl) rfl
  · split
    · exact SameOrder.setChan (fun _ => rfl) rfl
    · split
      · exact SameOrder.setChan (fun _ => rfl) (tailSeg_order ..)
      · split
        · trivial
        · split
          · trivial
          · trivial
          · next g u h =>
            have hg := Touches.carry h (poolAlloc_touches s k c)
            have hg : Touches _ s u := hg
            exact SameOrder.setChan (fun j => hg.getChan (by decide) j) (tailSeg_order ..)

/-- A place in the ring changes nothing but the channel. -/
theorem writePlace_ring {s v : State} {k : ChanKey} {pos : Nat} (h : writePlace s k = .ok none pos v) : Touches [.chans] s v := by
  unfold writePlace at h
  extract_lets c c' at h
  split at h
  · obtain ⟨-, -, rfl⟩ := Placed.ok.inj h
    exact setChan_touches ..
  · split at h
    · cases h
    · split at h
      · cases h
      · split at h
        · cases h
        · split at h
          · cases h
          · cases h
          · cases h

/-! ### Records land -/

/-- A record when a packet's bytes have landed, of a record that is sent in parts ps. -/
def landedWith (ps : List Nat) (r : Rec) (chunk : Nat) : Rec :=
  { r with landed := chunk :: r.landed, ready := ps.all (chunk :: r.landed).contains }

/-- The parts of a record that land one after another. -/
theorem foldl_landedWith (ps : List Nat) : ∀ (cs : List Nat) (r : Rec), let q := cs.foldl (landedWith ps) r
    q.seg = r.seg ∧ q.pos = r.pos ∧ q.residue = r.residue ∧ q.ordinal = r.ordinal ∧ q.landed = cs.reverse ++ r.landed ∧
      (cs ≠ [] → q.ready = ps.all (cs.reverse ++ r.landed).contains)
  | [], _ => ⟨rfl, rfl, rfl, rfl, rfl, fun h => absurd rfl h⟩
  | c :: cs, r => by
    obtain ⟨h1, h2, h3, h4, h5, h6⟩ := foldl_landedWith ps cs (landedWith ps r c)
    have happ : cs.reverse ++ c :: r.landed = (c :: cs).reverse ++ r.landed := by
      rw [List.reverse_cons, List.append_assoc, List.singleton_append]
    refine ⟨h1, h2, h3, h4, h5.trans happ, fun _ => ?_⟩
    cases cs with
    | nil => rfl
    | cons d ds => exact (h6 (List.cons_ne_nil _ _)).trans (by rw [← happ]; rfl)

theorem find_last {l : List Rec} {r : Rec} {ord : Nat} (hl : ∀ q ∈ l, q.ordinal ≠ ord) (hr : r.ordinal = ord) :
    (l ++ [r]).find? (fun q => decide (q.ordinal = ord)) = some r := by
  rw [List.find?_append, List.find?_eq_none.2 fun q hq => by simpa using hl q hq]
  simp [hr]

theorem map_last {l : List Rec} {r : Rec} {ord : Nat} (f : Rec → Rec) (hl : ∀ q ∈ l, q.ordinal ≠ ord) (hr : r.ordinal = ord) :
    (l ++ [r]).map (fun q => if q.ordinal ≠ ord then q else f q) = l ++ [f r] := by
  rw [List.map_append, List.map_singleton, if_neg (by simpa using hr)]
  exact congrArg (· ++ _) ((List.map_congr_left fun q hq => if_pos (hl q hq)).trans (List.map_id _))

/-- A channel when a part of the record with an ordinal has landed. -/
def landedChan (ord chunk : Nat) (c : Chan) : Chan :=
  { c with recs := c.recs.map fun q => if q.ordinal ≠ ord then q else landedWith (recParts c) q chunk }

/-- A record that a part lands in: every other record and channel is as before. -/
theorem landPart_spec {s : State} {k : ChanKey} {ord chunk : Nat} {bs : List Byte} {r : Rec}
    (h : (getChan s k).recs.find? (·.ordinal = ord) = some r) : let u := landPart s k ord chunk bs
    getChan u k = landedChan ord chunk (getChan s k) ∧ (∀ j, j ≠ k → getChan u j = getChan s j) ∧
      u.l0 = (writeRecBytes s k r (512 * chunk) bs).l0 ∧ u.hbm = (writeRecBytes s k r (512 * chunk) bs).hbm := by
  intro u
  have hu : u = modChan (writeRecBytes s k r (512 * chunk) bs) k (landedChan ord chunk) := by
    unfold u landPart
    rw [h] <;> rfl
  have hw := writeRecBytes_touches s k r (512 * chunk) bs
  rw [hu]
  refine ⟨?_, fun j hj => ?_, rfl, rfl⟩
  · rw [getChan_modChan, hw.getChan (by decide)]
  · rw [getChan_modChan_other _ hj, hw.getChan (by decide)]

/-- The last record of a channel lands in several parts. -/
theorem landParts_recs {k : ChanKey} {ord : Nat} {l : List Rec} (f : Nat → List Byte) (hl : ∀ q ∈ l, q.ordinal ≠ ord) :
    ∀ (cs : List Nat) (s : State) (r : Rec), (getChan s k).recs = l ++ [r] → r.ordinal = ord →
      let u := cs.foldl (fun s c => landPart s k ord c (f c)) s
      getChan u k = { getChan s k with recs := l ++ [cs.foldl (landedWith (recParts (getChan s k))) r] }
  | [], s, r, h, _ => by
    show getChan s k = _
    rw [List.foldl_nil, ← h]
  | c :: cs, s, r, h, hr => by
    have hf : (getChan s k).recs.find? (·.ordinal = ord) = some r := by rw [h]; exact find_last hl hr
    obtain ⟨h1, -⟩ := landPart_spec (chunk := c) (bs := f c) hf
    unfold landedChan at h1
    rw [h, map_last _ hl hr] at h1
    refine (landParts_recs f hl cs (landPart s k ord c (f c)) (landedWith (recParts (getChan s k)) r c) (by rw [h1]) hr).trans ?_
    rw [h1]
    rfl

theorem recBytes_pos (c : Chan) : 0 < recBytes c := Nat.two_pow_pos _

theorem recParts_ne (c : Chan) : recParts c ≠ [] := by
  unfold recParts cdiv
  have h := recBytes_pos c
  have : 1 ≤ (recBytes c + 4096 - 1) / 4096 := by omega
  intro hc
  have := congrArg List.length hc
  simp at this
  omega

/-- The record that enters a channel. -/
def enteredRec (c : Chan) (seg : Option Nat) (pos residue : Nat) (poison : Bool) (lid : Nat) : Rec :=
  { seg := seg, pos := pos, residue := residue, poison := poison, ordinal := c.wrec, lid := lid }

theorem reserveRec_chan (s : State) (k : ChanKey) (seg : Option Nat) (pos residue : Nat) (poison : Bool) (lid : Nat) :
    let c := getChan s k; let u := reserveRec s k seg pos residue poison lid
    getChan u k = { c with recs := c.recs ++ [enteredRec c seg pos residue poison lid], wrec := (c.wrec + 1) % 2 ^ 32
                           sent := (if unplaced c = 0 then (c.wrec + 1) % 2 ^ 32 else c.sent), full := false } ∧
      ∀ j, j ≠ k → getChan u j = getChan s j :=
  ⟨getChan_modChan .., fun _ h => getChan_modChan_other _ h⟩

/-- A record enters a channel and its bytes land at once. -/
theorem landRec_recs {s : State} {k : ChanKey} (seg : Option Nat) (pos residue : Nat) (poison : Bool) (lid : Nat) (bs : List Byte)
    (hl : ∀ q ∈ (getChan s k).recs, q.ordinal ≠ (getChan s k).wrec) :
    let u := landRec (reserveRec s k seg pos residue poison lid) k (getChan s k).wrec bs
    ∃ q, (getChan u k).recs = (getChan s k).recs ++ [q] ∧ q.ready = true ∧ q.residue = residue ∧ q.seg = seg ∧ q.pos = pos := by
  intro u
  obtain ⟨h1, -⟩ := reserveRec_chan s k seg pos residue poison lid
  let c := getChan (reserveRec s k seg pos residue poison lid) k
  have hp : recParts c = recParts (getChan s k) := by unfold c; rw [h1]; rfl
  obtain ⟨e1, e2, e3, -, e5, e6⟩ := foldl_landedWith (recParts c) (recParts c) (enteredRec (getChan s k) seg pos residue poison lid)
  refine ⟨_, congrArg Chan.recs (landParts_recs (fun c => (bs.drop (512 * c)).take 4096) hl _ _ _ (by rw [h1]) rfl), ?_, e3, e1, e2⟩
  rw [e6 (recParts_ne _)]
  simp [enteredRec]

/-! ### Where a small record of the ring lies -/

/-- Within a block that divides 64 the place in the unit grows by one with each byte. -/
theorem block_in_unit {b m p i : Nat} (hm : 64 = b * m) (hb : 0 < b) (hi : i < b) :
    (p * b + i) / 64 = p * b / 64 ∧ (p * b + i) % 64 = p * b % 64 + i := by
  have h1 : (p * b + i) / 64 = p * b / 64 := by
    rw [hm, ← Nat.div_div_eq_div_mul, ← Nat.div_div_eq_div_mul, Nat.mul_comm p b, Nat.mul_add_div hb, Nat.div_eq_of_lt hi,
      Nat.mul_div_cancel_left _ hb, Nat.add_zero]
  have e1 := Nat.div_add_mod (p * b + i) 64
  have e2 := Nat.div_add_mod (p * b) 64
  rw [h1] at e1
  exact ⟨h1, by omega⟩

/-- A record of at most 64 bytes divides a unit. -/
theorem recBytes_small {c : Chan} (hc : c.rlog ≤ 2) : ∃ m, 64 = recBytes c * m := by
  unfold recBytes
  have : c.rlog = 0 ∨ c.rlog = 1 ∨ c.rlog = 2 := by omega
  rcases this with h | h | h <;> rw [h]
  · exact ⟨4, rfl⟩
  · exact ⟨2, rfl⟩
  · exact ⟨1, rfl⟩

/-- The bytes of a record that fits in a unit follow one another. -/
theorem recAddr_small {s : State} {k : ChanKey} {c : Chan} {r : Rec} {i : Nat} (hs : r.seg = none) (hc : c.rlog ≤ 2)
    (hi : i < recBytes c) : recAddr s k c r i = recAddr s k c r 0 + i := by
  obtain ⟨m, hm⟩ := recBytes_small hc
  obtain ⟨h1, h2⟩ := block_in_unit (p := r.pos) hm (recBytes_pos c) hi
  unfold recAddr l0ByteAddr l0Addr
  simp only [hs, Nat.add_zero]
  rw [h1, h2]
  omega

end Sys2Proof.Machine
end

section
/-!
PROOFS. Proofs/ChannelUnits.lean: CHW and CHR in a strait engine's unit (spec/07 R173, R174).
-/
namespace Sys2Proof.Machine

/-! ### Activations that end at once, and that go back to their row -/

theorem fireXfer_spec {s v : State} (hv : Touches [.chans, .partitions, .quotas, .traces, .hbm, .l0, .ecc, .eccL0, .bankModes, .watchHolds] s v)
    {f : Start} {out : List Token} (he : Emits s f.r f.q.tag out) : let u := fireXfer v f out
    u.updates = s.updates ++ out.map (risesFor s f.r s.nextId) ++ f.toks.map (fallsFor f.r s.nextId) ∧
      (getEng u f.r.op.eng).unit = (getEng s f.r.op.eng).unit.erase f.act := by
  intro u
  have hb := beginXfer_touches v f
  have hn := fresh_touches (beginXfer v f)
  have hid : (fresh (beginXfer v f)).1 = s.nextId := Eq.trans (hb.same .nextId (by decide)) (hv.same .nextId (by decide))
  have h0 : Touches [.chans, .partitions, .quotas, .traces, .hbm, .l0, .ecc, .eccL0, .bankModes, .watchHolds, .engines, .launches,
      .nextId] s (fresh (beginXfer v f)).2 := (hv.mono (by decide)).trans ((hb.mono (by decide)).trans (hn.mono (by decide)))
  obtain ⟨h1, h2⟩ := emitConsume_spec (fid := s.nextId) (toks := f.toks) h0 (by decide) (by decide) true he
  have hu : u = consumeToks (emitToks (fresh (beginXfer v f)).2 f.r s.nextId f.q.tag out) f.r s.nextId true f.toks := by
    rw [← hid]
    rfl
  rw [hu]
  refine ⟨h1, ?_⟩
  rw [h2.getEng (by decide), hn.getEng (by decide), beginXfer_unit, hv.getEng (by decide)]

theorem markFull_recs (s : State) (r : OpRef) (j : ChanKey) : (getChan (markFull s r) j).recs = (getChan s j).recs := by
  have hm : ∀ k : ChanKey, (getChan (modChan s k fun c => { c with full := true }) j).recs = (getChan s j).recs := fun k => by
    by_cases h : j = k
    · subst h
      rw [getChan_modChan]
    · rw [getChan_modChan_other _ h]
  unfold markFull
  split
  · split
    · extract_lets full
      split
      · exact hm _
      · rfl
    · rfl
  · rfl

/-- What an activation that goes back to its row leaves. -/
structure WaitsInRow (s u : State) (e : Eng) (f : Start) : Prop where
  updates : u.updates = s.updates
  recs : ∀ j, (getChan u j).recs = (getChan s j).recs
  unit : (getEng u e).unit = (getEng s e).unit.erase f.act
  threads : u.threads = s.threads
  bytes : SameBytes s u

theorem backToRow_waits (s : State) (f : Start) : WaitsInRow s (backToRow s f none) f.r.op.eng f := by
  have ht := backToRow_touches s f none
  refine ⟨ht.same .updates (by decide), fun j => ?_, ?_, ht.same .threads (by decide), ht.sameBytes (by decide)⟩
  · unfold backToRow beginWait
    refine (markFull_recs _ _ j).trans ?_
    rw [(touch_touches ..).getChan (by decide)]
    rfl
  · unfold backToRow
    rw [(beginWait_touches ..).getEng (by decide), getEng_modEng]

theorem refsRoom_signals {s : State} {r : OpRef} {port : Nat} {t : Token} (h : t.kind ≠ 1) : refsRoom s (toPort r port t) = true := by
  unfold refsRoom
  refine List.all_eq_true.2 fun x hx => ?_
  obtain ⟨c, -, rfl⟩ := List.mem_map.1 hx
  have : (addressed r c.dst t).kind ≠ 1 := h
  simp [this]

/-- An activation in progress that ends. -/
theorem endXUnit_spec {s : State} {r : OpRef} {x : XUnit} {out : List Token} (hr : refsRoom s out = true)
    (he : Emits s r x.tok.tag out) (retire : Bool) : let u := endXUnit s r x out retire
    u.updates = s.updates ++ out.map (risesFor s r x.id) ++ (xunitToks x).map (fallsFor r x.id) ∧
      u.xunits = s.xunits.filter (fun y => decide (y.id ≠ x.id)) ∧ u.threads = s.threads ∧ SameBytes s u := by
  intro u
  have hu : u = consumeToks (emitToks (dropXUnit s x.id) r x.id x.tok.tag out) r x.id retire (xunitToks x) := if_neg (by rw [hr]; decide)
  have h0 : Touches [.xunits] s (dropXUnit s x.id) := .put rfl
  obtain ⟨h1, h2⟩ := emitConsume_spec (fid := x.id) (toks := xunitToks x) h0 (by decide) (by decide) retire he
  rw [hu]
  exact ⟨h1, h2.same .xunits (by decide), Eq.trans (h2.same .threads (by decide)) (h0.same .threads (by decide)),
    (h0.sameBytes (by decide)).trans (h2.sameBytes (by decide))⟩

/-! ### CHW -/

section
variable {s : State} {e : Eng} {n : Nat} {f : Start} {k : ChanKey} {bs : List Byte} (hroom : xunitRoom s e = true)
  (hx : xunitAt s e n 0x1C = none) (hf : xferAt s e n 0x1C = some f) (hp : ((f.toks.head?).getD {}).poison = false)
  (hk : ((f.toks.head?).getD {}).kind ≠ 1) (hm : mismatch s ((f.toks.head?).getD {}) [] = none)
  (hw : chanOfWriter s (opCoord f.r.op) = some k) (h1 : (getChan s k).state = 1)
  (hb : recordOf ((f.toks.head?).getD {}) [] (recBytes (getChan s k)) = some bs)
include hroom hx hf hp hk hm hw h1 hb

theorem exec_chw_writes : exec (.chw e n) s = .next (writeRecord s f k bs) := by
  show execChw e n s = _
  unfold execChw
  simp only [hx, hf, hroom, hp, hk, hm, hw, h1, hb, Bool.not_true, Bool.false_eq_true, ne_eq, not_true_eq_false, if_false]

theorem chw_sends {v : State} (hfar : k.1 ≠ e.pkg) (hc : 0 < creditOf s k)
    (hv : sendRecord s (opCoord f.r.op) ((f.toks.head?).getD {}) k (recFmt ((f.toks.head?).getD {})) bs = some v) :
    ∃ u x, exec (.chw e n) s = .next u ∧ u.xunits = s.xunits ++ [x] ∧ x.sent = some (k, (getChan s k).sent) ∧ u.packets = v.packets ∧
      (getChan u k).sent = ((getChan s k).sent + 1) % 2 ^ 32 ∧ (getEng u e).unit = (getEng s e).unit.erase f.act ∧
      u.updates = s.updates ∧ u.threads = s.threads ∧ SameBytes s u := by
  have hex := exec_chw_writes hroom hx hf hp hk hm hw h1 hb
  obtain ⟨rfl, -, -⟩ := xferAt_spec hf
  have hs := sendRecord_touches s (opCoord f.r.op) ((f.toks.head?).getD {}) k (recFmt ((f.toks.head?).getD {})) bs
  rw [hv] at hs
  have hs : Touches [.chans, .packets, .inbox, .straits, .exits, .nextId] s v := hs
  have hsent : (getChan v k).sent = ((getChan s k).sent + 1) % 2 ^ 32 := by
    unfold sendRecord at hv
    extract_lets ps s1 at hv
    have h : (getChan s1 k).sent = ((getChan s k).sent + 1) % 2 ^ 32 := congrArg Chan.sent (getChan_modChan ..)
    rw [if_neg (show k.1 ≠ (opCoord f.r.op).eng.pkg from hfar)] at hv
    obtain ⟨o, -, rfl⟩ := Option.map_eq_some_iff.1 hv
    have ht : Touches [.packets, .straits, .exits, .nextId] s1 (ps.foldl (fun s p => sendPkt s o p) s1) :=
      .foldl (fun s p => sendPkt_touches s o p) _ _
    rw [ht.getChan (by decide)]
    exact h
  have hbx := beginXfer_touches v f
  let x : XUnit := { toXUnit f (fresh (beginXfer v f)).1 with phase := 1, sent := some (k, (getChan s k).sent) }
  let u : State := { (fresh (beginXfer v f)).2 with xunits := (fresh (beginXfer v f)).2.xunits ++ [x] }
  have hu : Touches [.nextId, .xunits] (beginXfer v f) u := .put rfl
  have hw : writeRecord s f k bs = u := by
    unfold writeRecord writeRemote
    rw [if_neg hfar, if_neg (Nat.pos_iff_ne_zero.1 hc), hv]
    simp only [hk, if_false]
    rfl
  rw [hw] at hex
  refine ⟨u, x, hex, ?_, rfl, hbx.same .packets (by decide), ?_, ?_, ?_, ?_, ?_⟩
  · exact congrArg (· ++ [x]) (Eq.trans (hbx.same .xunits (by decide)) (hs.same .xunits (by decide)))
  · rw [hu.getChan (by decide), hbx.getChan (by decide)]
    exact hsent
  · rw [hu.getEng (by decide), beginXfer_unit, hs.getEng (by decide)]
  · exact Eq.trans (hu.same .updates (by decide)) (Eq.trans (hbx.same .updates (by decide)) (hs.same .updates (by decide)))
  · exact Eq.trans (hu.same .threads (by decide)) (Eq.trans (hbx.same .threads (by decide)) (hs.same .threads (by decide)))
  · exact (hs.sameBytes (by decide)).trans ((hbx.sameBytes (by decide)).trans (hu.sameBytes (by decide)))

theorem chw_without_credit (hfar : k.1 ≠ e.pkg) (hc : creditOf s k = 0) : ∃ u, exec (.chw e n) s = .next u ∧ WaitsInRow s u e f := by
  have hex := exec_chw_writes hroom hx hf hp hk hm hw h1 hb
  obtain ⟨rfl, -, -⟩ := xferAt_spec hf
  refine ⟨_, hex, ?_⟩
  unfold writeRecord writeRemote
  rw [if_neg hfar, if_pos hc]
  exact backToRow_waits s f

theorem chw_full (hnear : k.1 = e.pkg) (hc : writePlace s k = .full) : ∃ u, exec (.chw e n) s = .next u ∧ WaitsInRow s u e f := by
  have hex := exec_chw_writes hroom hx hf hp hk hm hw h1 hb
  obtain ⟨rfl, -, -⟩ := xferAt_spec hf
  refine ⟨_, hex, ?_⟩
  unfold writeRecord writeLocal
  rw [if_pos hnear, hc]
  exact backToRow_waits s f

/-- The state in which a CHW's record has landed in its own package. -/
def chwLanded (s v : State) (f : Start) (k : ChanKey) (seg : Option Nat) (pos : Nat) (bs : List Byte) : State :=
  let v := watchPassed v f.act.id (recSectors s k (getChan s k) { seg := seg, pos := pos })
  landRec (reserveRec v k seg pos (residueOf bs) false f.q.lid) k (getChan v k).wrec bs

theorem exec_chw_lands {seg : Option Nat} {pos : Nat} {v : State} (hnear : k.1 = e.pkg) (hc : writePlace s k = .ok seg pos v)
    (hg : recGrants s k { seg := seg, pos := pos } = true)
    (hgate : recGate s e.pkg k { seg := seg, pos := pos } f.act.id f.q.lid .write = none) : exec (.chw e n) s =
      .next (fireXfer (chwLanded s v f k seg pos bs) f (toPort f.r 0 (signalFrom ((f.toks.head?).getD {})))) := by
  have hex := exec_chw_writes hroom hx hf hp hk hm hw h1 hb
  obtain ⟨rfl, -, -⟩ := xferAt_spec hf
  refine hex.trans (congrArg _ ?_)
  unfold writeRecord writeLocal
  rw [if_pos hnear, hc]
  simp only [hg, hgate, hk, Bool.not_true, Bool.false_eq_true, if_false]
  rfl

end

theorem recordOf_length {t : Token} {n : Nat} {bs : List Byte} (hk : t.kind ≠ 1) (hn : 8 ≤ n) (h : recordOf t [] n = some bs) :
    bs.length = n := by
  unfold recordOf at h
  rw [if_neg hk] at h
  obtain rfl := Option.some.inj h
  rw [List.length_append, List.length_replicate, leBytes_length]
  omega

/-- A record of the ring lies where its channel's ring and its position say. -/
theorem recAddr_ring {s t : State} {k : ChanKey} {c d : Chan} {r q : Rec} (i : Nat) (hr : r.seg = none) (hq : q.seg = none)
    (hp : q.pos = r.pos) (h : d.order.2.2 = c.order.2.2) : recAddr t k d q i = recAddr s k c r i := by
  have h1 : d.rlog = c.rlog := congrArg (·.1) h
  have h2 : d.rpage = c.rpage := congrArg (·.2.1) h
  have h3 : d.rmt = c.rmt := congrArg (·.2.2.1) h
  have h4 : d.roff = c.roff := congrArg (·.2.2.2.1) h
  unfold recAddr ringMt recBytes
  simp only [hr, hq, hp, h1, h2, h3, h4]

/-- A small record of the ring is written at its place, and nothing else. -/
theorem landRec_small {w : State} {k : ChanKey} {ord : Nat} {bs : List Byte} {r : Rec} {l : List Rec}
    (hl : ∀ q ∈ l, q.ordinal ≠ ord) (hr : (getChan w k).recs = l ++ [r]) (ho : r.ordinal = ord) (hs : r.seg = none)
    (hc : (getChan w k).rlog ≤ 2) (hb : bs.length = recBytes (getChan w k)) :
    (landRec w k ord bs).l0 = memWrite w.l0 (recAddr w k (getChan w k) r 0) bs ∧ (landRec w k ord bs).hbm = w.hbm := by
  have hsz : recBytes (getChan w k) ≤ 64 := by
    obtain ⟨m, hm⟩ := recBytes_small hc
    exact Nat.le_of_dvd (by decide) ⟨m, hm⟩
  have hpos := recBytes_pos (getChan w k)
  have hparts : recParts (getChan w k) = [0] := by
    unfold recParts
    rw [show cdiv (recBytes (getChan w k)) 4096 = 1 by unfold cdiv; omega]
    rfl
  have hfind : (getChan w k).recs.find? (·.ordinal = ord) = some r := by rw [hr]; exact find_last hl ho
  obtain ⟨-, -, h1, h2⟩ := landPart_spec (chunk := 0) (bs := (bs.drop (512 * 0)).take 4096) hfind
  have hland : landRec w k ord bs = landPart w k ord 0 ((bs.drop (512 * 0)).take 4096) := by
    unfold landRec
    rw [hparts]
    rfl
  have hbs : (bs.drop (512 * 0)).take 4096 = bs := List.take_of_length_le (by simp; omega)
  rw [hland, h1, h2, hbs]
  have hw : writeRecBytes w k r (512 * 0) bs = writeUnit w true (recAddr w k (getChan w k) r 0) bs := by
    have hone : cdiv (recBytes (getChan w k)) (recBytes (getChan w k)) = 1 := by
      unfold cdiv
      exact Nat.div_eq_of_lt_le (by omega) (by omega)
    unfold writeRecBytes
    extract_lets c p
    have hp : p = recBytes c := Nat.min_eq_right hsz
    rw [hp, hb, hone, hs]
    show writeUnit w true (recAddr w k c r (512 * 0 + recBytes c * 0)) ((bs.drop (recBytes c * 0)).take (recBytes c)) = _
    rw [List.take_of_length_le (by rw [Nat.mul_zero, List.drop_zero, hb])]
    simp only [Nat.mul_zero, List.drop_zero]
    rfl
  obtain ⟨u1, u2⟩ := writeUnit_l0 w (recAddr w k (getChan w k) r 0) bs
  rw [hw]
  exact ⟨u1, u2.same .hbm (by decide)⟩

/-- What a CHW's record that has landed leaves: the channel ends with it, and a small one of the ring has its bytes there. -/
theorem chwLanded_spec {s v : State} {f : Start} {k : ChanKey} {seg : Option Nat} {pos : Nat} {bs : List Byte} (hm : s.MemOk)
    (hc : writePlace s k = .ok seg pos v) (hl : (getChan s k).recs.all (fun q => decide (q.ordinal ≠ (getChan s k).wrec)) = true)
    (hb : bs.length = recBytes (getChan s k)) : let u := chwLanded s v f k seg pos bs
    Touches [.chans, .partitions, .quotas, .traces, .hbm, .l0, .ecc, .eccL0, .bankModes, .watchHolds] s u ∧
    ∃ q, (getChan u k).recs = (getChan s k).recs ++ [q] ∧ q.ready = true ∧ q.residue = residueOf bs ∧ q.seg = seg ∧ q.pos = pos ∧
      (seg = none → (getChan s k).rlog ≤ 2 →
        (∀ i (h : i < bs.length), memGet u.l0 (recAddr s k (getChan s k) q i) = bs[i]) ∧ u.hbm = s.hbm ∧
        ∀ a, (∀ i, i < bs.length → a ≠ recAddr s k (getChan s k) q i) → memGet u.l0 a = memGet s.l0 a) := by
  intro u
  have hv := writePlace_touches s k
  rw [hc] at hv
  have hv : Touches [.chans, .partitions, .quotas, .traces] s v := hv
  have ho := writePlace_order s k
  rw [hc] at ho
  obtain ⟨ho, -⟩ : SameOrder s k v := ho
  let w := watchPassed v f.act.id (recSectors s k (getChan s k) { seg := seg, pos := pos })
  have hw : Touches [.watchHolds] v w := watchPassed_touches ..
  have hcw : getChan w k = getChan v k := hw.getChan (by decide) k
  have h1 : (getChan w k).recs = (getChan s k).recs := by rw [hcw]; exact congrArg (·.1) ho
  have h2 : (getChan w k).wrec = (getChan s k).wrec := by rw [hcw]; exact congrArg (·.2.1) ho
  have hne : ∀ q ∈ (getChan w k).recs, q.ordinal ≠ (getChan w k).wrec := by
    rw [h1, h2]
    exact fun q hq => of_decide_eq_true (List.all_eq_true.1 hl q hq)
  let x := reserveRec w k seg pos (residueOf bs) false f.q.lid
  obtain ⟨hx, -⟩ := reserveRec_chan w k seg pos (residueOf bs) false f.q.lid
  have hr := reserveRec_touches w k seg pos (residueOf bs) false f.q.lid
  have hland := landRec_touches x k (getChan w k).wrec bs
  have hx0 : Touches [.chans, .partitions, .quotas, .traces, .watchHolds] s x :=
    (hv.mono (by decide)).trans ((hw.mono (by decide)).trans (hr.mono (by decide)))
  obtain ⟨q, q1, q2, q3, q4, q5⟩ := landRec_recs seg pos (residueOf bs) false f.q.lid bs hne
  refine ⟨(hx0.mono (by decide)).trans (hland.mono (by decide)), q, by rw [← h1]; exact q1, q2, q3, q4, q5, fun hs hlog => ?_⟩
  have hlogx : (getChan x k).rlog = (getChan s k).rlog := by
    rw [hx]
    exact (congrArg Chan.rlog hcw).trans (congrArg (·.2.2.1) ho)
  have hbx : bs.length = recBytes (getChan x k) := by
    rw [hb]
    unfold recBytes
    rw [hlogx]
  have hsmall := landRec_small (w := x) (ord := (getChan w k).wrec) (r := enteredRec (getChan w k) seg pos (residueOf bs) false f.q.lid) hne
    (by rw [hx]) rfl hs (by rw [hlogx]; exact hlog) hbx
  obtain ⟨g1, g2⟩ := hsmall
  have hbase : recAddr x k (getChan x k) (enteredRec (getChan w k) seg pos (residueOf bs) false f.q.lid) 0 =
      recAddr s k (getChan s k) q 0 := by
    refine (recAddr_ring (s := s) (t := x) (c := getChan s k) (d := getChan x k) (r := q) 0 (q4.trans hs) hs q5.symm ?_)
    rw [hx]
    have ho' : (getChan w k).order = (getChan s k).order := by rw [hcw]; exact ho
    exact congrArg (·.2.2) ho'
  have hl0 : u.l0 = memWrite s.l0 (recAddr s k (getChan s k) q 0) bs := by
    refine g1.trans ?_
    rw [hbase, show x.l0 = s.l0 from hx0.same .l0 (by decide)]
  have hstep : ∀ i, i < bs.length → recAddr s k (getChan s k) q i = recAddr s k (getChan s k) q 0 + i := fun i hi =>
    recAddr_small (q4.trans hs) hlog (by rw [← hb]; exact hi)
  refine ⟨fun i hi => ?_, Eq.trans g2 (hx0.same .hbm (by decide)), fun a ha => ?_⟩
  · rw [hl0, hstep i hi]
    exact memGet_memWrite_same hm.2.1 hi
  · rw [hl0]
    refine memGet_memWrite_other _ _ _ ?_
    by_contra hn
    have hlt : a - recAddr s k (getChan s k) q 0 < bs.length := by omega
    exact ha _ hlt (by rw [hstep _ hlt]; omega)

end Sys2Proof.Machine
end

section
/-!
PROOFS. Proofs/ChannelReads.lean: CHR and DISPATCH in a strait engine's unit, credits, and packets that land (spec/07 R174 to R176;
spec/14 R325; spec/17 R363, R364).
-/
namespace Sys2Proof.Machine

/-! ### CHR -/

/-- The state in which a reader has taken a record. -/
def chrTook (s : State) (f : Start) (k : ChanKey) (q : Rec) : State :=
  takeRec (watchPassed (countRec s k q) f.act.id (recSectors s k (getChan s k) q)) k

theorem chrTook_touches (s : State) (f : Start) (k : ChanKey) (q : Rec) :
    Touches [.bankModes, .watchHolds, .chans] s (chrTook s f k q) :=
  (takeRec_touches ..).after (by decide) ((watchPassed_touches ..).after (by decide) ((countRec_touches ..).mono (by decide)))

theorem chrTook_chan (s : State) (f : Start) (k : ChanKey) (q : Rec) : getChan (chrTook s f k q) k = readTake (getChan s k) := by
  unfold chrTook takeRec
  rw [getChan_modChan, (watchPassed_touches ..).getChan (by decide), (countRec_touches ..).getChan (by decide)]

theorem freeDests_nil (s : State) : freeDests s [] = s := rfl

section
variable {s : State} {e : Eng} {n : Nat} {f : Start} {k : ChanKey} (hroom : xunitRoom s e = true) (hx : xunitAt s e n 0x1B = none)
  (hf : xferAt s e n 0x1B = some f) (hp : f.toks.any (·.poison) = false) (hb : scalarBad s f = none)
  (hk : chanOfReader s (opCoord f.r.op) = some k)
include hroom hx hf hp hb hk

theorem exec_chr_reads : exec (.chr e n) s = .next (match headRec (getChan s k) with
    | some q => chrTake s f k q
    | none => if (getChan s k).recs.isEmpty = true ∧ (getChan s k).state = 2 then
        if opNout f.r.op = 2 then
          fireXfer (freeDests s f.act.dests) f (toPort f.r 1 (signalFrom ((f.toks.head?).getD {})))
        else failStart s f (0x0113, chanId k)
      else backToRow (freeDests s f.act.dests) f none) := by
  show execChr e n s = _
  unfold execChr
  simp only [hx, hf, hroom, hp, hb, hk, Bool.not_true, Bool.false_eq_true, if_false] <;> rfl

section
variable {q : Rec} (hq : headRec (getChan s k) = some q) (hg : recGrants s k q = true)
  (hgate : recGate s e.pkg k q f.act.id f.q.lid .read = none) (hbit : bit (opCfg f.r.op 0) 64 = true) (hqp : q.poison = false)
  (hd : (readRecBytes s k q).2 = false) (hres : residueEq q.residue (residueOf (readRecBytes s k q).1) = true)
include hq hg hgate hbit hqp hd hres

theorem exec_chr_scalar {out : Option Eng} (ho : (if k.1 ≠ e.pkg then (egress s ⟨k.1, k.2.1, 0, 25⟩ e.pkg).filter (straitRoom s · {})
      else none) = out) (hfar : k.1 ≠ e.pkg → out.isSome = true) : exec (.chr e n) s =
    .next (chrScalar (chrTook s f k q) f k (readRecBytes s k q).1 out) := by
  have hex := exec_chr_reads hroom hx hf hp hb hk
  obtain ⟨rfl, -, -⟩ := xferAt_spec hf
  rw [hq] at hex
  refine hex.trans (congrArg _ ?_)
  have hno : ¬(decide (k.1 ≠ f.r.op.eng.pkg) = true ∧ out.isNone = true) := fun hc => by
    have := hfar (of_decide_eq_true hc.1)
    rw [Option.isSome_iff_exists] at this
    obtain ⟨o, rfl⟩ := this
    exact Bool.false_ne_true hc.2
  have ho' : (if decide (k.1 ≠ f.r.op.eng.pkg) = true then (egress s ⟨k.1, k.2.1, 0, 25⟩ f.r.op.eng.pkg).filter (straitRoom s · {})
      else none) = out := by simpa using ho
  unfold chrTake
  simp only [ho', hg, hgate, hbit, hqp, hd, hres, hno, Bool.not_true, Bool.false_eq_true, or_self, if_false, Bool.or_self, if_true]
  rfl

theorem chr_far {o : Eng} (hfar : k.1 ≠ e.pkg) (he : egress s ⟨k.1, k.2.1, 0, 25⟩ e.pkg = some o) (hr : straitRoom s o {} = true) :
    ∃ u x, exec (.chr e n) s = .next u ∧ u.xunits = s.xunits ++ [x] ∧ x.phase = 2 ∧ getChan u k = readTake (getChan s k) ∧
      Leaves s u o { hdr := { dst := opCoord f.r.op }, body := .readResponse x.id ((readRecBytes s k q).1.take 64) false false } ∧
      u.updates = s.updates ∧ u.threads = s.threads ∧ SameBytes s u := by
  have hex := exec_chr_scalar hroom hx hf hp hb hk hq hg hgate hbit hqp hd hres (out := some o)
    (by rw [if_pos hfar, he, Option.filter_some, if_pos hr]) fun _ => rfl
  have ht := chrTook_touches s f k q
  have hbx := beginXfer_touches (chrTook s f k q) f
  let x : XUnit := { toXUnit f (fresh (beginXfer (chrTook s f k q) f)).1 with phase := 2 }
  let v : State := { (fresh (beginXfer (chrTook s f k q) f)).2 with xunits := (fresh (beginXfer (chrTook s f k q) f)).2.xunits ++ [x] }
  have hv : Touches [.bankModes, .watchHolds, .chans, .engines, .launches, .partitions, .quotas, .traces, .nextId, .xunits] s v :=
    (ht.mono (by decide)).trans ((hbx.mono (by decide)).trans (.put rfl))
  let p : Pkt := scalarPkt ⟨k.1, k.2.1, 0, 25⟩ (opCoord f.r.op) ((f.toks.head?).getD {}) x.id (readRecBytes s k q).1
  have hs := sendPkt_touches v o p
  obtain ⟨-, hl⟩ := sendPkt_eq v o p
  have hex : exec (.chr e n) s = .next (sendPkt v o p) := hex
  refine ⟨_, x, hex, Eq.trans (hs.same .xunits (by decide)) ?_, rfl, ?_, ?_,
    Eq.trans (hs.same .updates (by decide)) (hv.same .updates (by decide)),
    Eq.trans (hs.same .threads (by decide)) (hv.same .threads (by decide)), (hv.sameBytes (by decide)).trans (hs.sameBytes (by decide))⟩
  · exact congrArg (· ++ [x]) (Eq.trans (hbx.same .xunits (by decide)) (ht.same .xunits (by decide)))
  · rw [hs.getChan (by decide)]
    refine Eq.trans ?_ (chrTook_chan s f k q)
    exact hbx.getChan (by decide) k
  · have hst : v.straits = s.straits := hv.same .straits (by decide)
    obtain ⟨z, h1, h2, h3⟩ := hl
    refine ⟨z, h1, h2, ?_⟩
    rw [straitRoom_congr hst, show v.packets = s.packets from hv.same .packets (by decide)] at h3
    unfold getStrait at h3 ⊢
    rw [hst] at h3
    exact h3

theorem chr_near (hnear : k.1 = e.pkg) : let d := readRecBytes s k q
    let out := toPort f.r 0 { (f.toks.head?).getD {} with
      kind := 2, opw := BitVec.ofNat 128 (leNat (d.1.take 8)), residue := residueOf (d.1.take 8), poison := false }
    Emits s f.r f.q.tag out → ∃ u, exec (.chr e n) s = .next u ∧
      u.updates = s.updates ++ out.map (risesFor s f.r s.nextId) ++ f.toks.map (fallsFor f.r s.nextId) ∧
      (getEng u e).unit = (getEng s e).unit.erase f.act ∧ u.threads = s.threads ∧ SameBytes s u ∧
      getChan u k = readTake (getChan s k) := by
  intro d out he
  have hex := exec_chr_scalar hroom hx hf hp hb hk hq hg hgate hbit hqp hd hres (out := none)
    (if_neg fun hc => hc hnear) fun hc => absurd hnear hc
  obtain ⟨rfl, -, -⟩ := xferAt_spec hf
  have ht := chrTook_touches s f k q
  have hu := fireXfer_touches (chrTook s f k q) f out
  obtain ⟨h1, h2⟩ := fireXfer_spec (ht.mono (by decide)) he
  refine ⟨_, hex, h1, h2, Eq.trans (hu.same .threads (by decide)) (ht.same .threads (by decide)),
    (ht.sameBytes (by decide)).trans (hu.sameBytes (by decide)), ?_⟩
  exact (hu.getChan (by decide) k).trans (chrTook_chan s f k q)

end

variable (hq : headRec (getChan s k) = none) (hd : f.act.dests = [])
include hq hd

theorem chr_ends (hr : (getChan s k).recs = []) (h2 : (getChan s k).state = 2) (hn : opNout f.r.op = 2)
    (he : Emits s f.r f.q.tag (toPort f.r 1 (signalFrom ((f.toks.head?).getD {})))) :
    let out := toPort f.r 1 (signalFrom ((f.toks.head?).getD {}))
    ∃ u, exec (.chr e n) s = .next u ∧
      u.updates = s.updates ++ out.map (risesFor s f.r s.nextId) ++ f.toks.map (fallsFor f.r s.nextId) ∧
      (getEng u e).unit = (getEng s e).unit.erase f.act ∧ u.threads = s.threads ∧ SameBytes s u := by
  intro out
  have hex := exec_chr_reads hroom hx hf hp hb hk
  rw [hq, hd, freeDests_nil] at hex
  dsimp only at hex
  rw [if_pos ⟨by rw [hr]; rfl, h2⟩, if_pos hn] at hex
  obtain ⟨rfl, -, -⟩ := xferAt_spec hf
  have hu := fireXfer_touches s f out
  obtain ⟨h1, h2⟩ := fireXfer_spec .rfl he
  exact ⟨_, hex, h1, h2, hu.same .threads (by decide), hu.sameBytes (by decide)⟩

theorem chr_waits (h1 : (getChan s k).state = 1) : ∃ u, exec (.chr e n) s = .next u ∧ WaitsInRow s u e f := by
  have hex := exec_chr_reads hroom hx hf hp hb hk
  rw [hq, hd, freeDests_nil] at hex
  dsimp only at hex
  rw [if_neg fun hc => absurd (h1.symm.trans hc.2) (by decide)] at hex
  obtain ⟨rfl, -, -⟩ := xferAt_spec hf
  exact ⟨_, hex, backToRow_waits s f⟩

end

/-! ### DISPATCH -/

theorem find_modXUnit {s : State} {x : XUnit} {id : Nat} (g : XUnit → XUnit) (hg : ∀ y, (g y).id = y.id)
    (h : s.xunits.find? (fun y => decide (y.id = id)) = some x) :
    (modXUnit s id g).xunits.find? (fun y => decide (y.id = id)) = some (g x) := by
  have hx : x.id = id := of_decide_eq_true (by have := List.find?_some h; exact this)
  have key : ∀ l : List XUnit, l.find? (fun y => decide (y.id = id)) = some x →
      (l.map fun y => if y.id = id then g y else y).find? (fun y => decide (y.id = id)) = some (g x) := by
    intro l
    induction l with
    | nil => exact fun h => nomatch h
    | cons y l ih =>
      intro h
      by_cases hy : y.id = id
      · rw [List.find?_cons_of_pos (by simpa using hy)] at h
        obtain rfl := Option.some.inj h
        rw [List.map_cons, if_pos hy, List.find?_cons_of_pos (by simp [hg, hy])]
      · rw [List.find?_cons_of_neg (by simpa using hy)] at h
        rw [List.map_cons, if_neg hy, List.find?_cons_of_neg (by simpa using hy)]
        exact ih h
  exact key _ h

/-- A DISPATCH that has placed or passed over a row. -/
theorem rowDone_advances {s : State} {x : XUnit} (rep : Nat) (d : Option Nat)
    (h : s.xunits.find? (fun y => decide (y.id = x.id)) = some x) : ∃ y, (rowDone s x rep d).xunits.find?
      (fun y => decide (y.id = x.id)) = some y ∧ y.row = x.row + 1 ∧ y.report = x.report ++ [rep] :=
  ⟨_, find_modXUnit _ (fun _ => rfl) h, rfl, rfl⟩

section
variable {s : State} {e : Eng} {n : Nat} {r : OpRef} {x : XUnit} {ks : List ChanKey} (hx : xunitAt s e n 0x1D = some (r, x))
  (hb : dispatchBehind s x = false) (h0 : x.phase = 0) (hr : x.row < tokRows x.tok) (hk : dispatchChans s r.op = some ks)
include hx hb h0 hr hk

theorem exec_dispatch_row : exec (.dispatch e n) s = .next (dispatchRow s r x ks) := by
  show execDispatch e n s = _
  unfold execDispatch
  simp only [hx, hb, h0, hk, Nat.not_le.2 hr, Bool.false_eq_true, if_false, if_true]

end

theorem creditAt {s : State} {ks : List ChanKey} {m : Nat} {k : ChanKey} (h : ks[m]? = some k) :
    ((ks[m]?).map (heldCredit s)).getD 0 = heldCredit s k := by
  rw [h]
  rfl

/-- A row that goes to a channel of its own package as a record of one packet. -/
theorem placeRow_goes {s : State} {r : OpRef} {x : XUnit} {ks : List ChanKey} {m : Nat} {k : ChanKey} (bs : List Byte) (fb : Bool)
    (hk : ks[m]? = some k) (hn : k.1 = r.op.eng.pkg) (hp : recParts (getChan s k) = [0])
    (hx : s.xunits.find? (fun y => decide (y.id = x.id)) = some x) : let u := placeRow s r x ks bs m fb
    ∃ p, (∃ y, u.xunits.find? (fun y => decide (y.id = x.id)) = some y ∧ y.row = x.row + 1 ∧
        y.report = x.report ++ [m + 256 * b2n fb]) ∧ u.inbox = s.inbox ++ [p] ∧ p.hdr.residue = residueOf bs ∧
      p.body = .channelWrite k.2.1 k.2.2 (getChan s k).sent (getChan s k).rlog 0 (tokFmt x.tok) (bs.take 4096) ∧
      (getChan u k).sent = ((getChan s k).sent + 1) % 2 ^ 32 ∧
      (getChan u k).credit = (if heldCredit s k = noLimit then noLimit else heldCredit s k - 1) ∧
      u.threads = s.threads ∧ SameBytes s u := by
  intro u
  let src := opCoord r.op
  let s1 := modChan s k fun c => { c with sent := (c.sent + 1) % 2 ^ 32 }
  let p0 : Pkt := { hdr := { x.tok with
                      dst := { eng := ⟨k.1, k.2.1, 0, 25⟩ }, src := src, kind := 4, vc := 2, residue := residueOf bs
                      opw := BitVec.ofNat 128 (k.2.2 + k.2.1 * 2 ^ 12 + (getChan s k).rlog * 2 ^ 14 + (getChan s k).sent * 2 ^ 18) }
                    body := .channelWrite k.2.1 k.2.2 (getChan s k).sent (getChan s k).rlog 0 (tokFmt x.tok) (bs.take 4096) }
  let s2 := landLocal s1 p0
  let s3 := modChan s2 k fun c => { c with credit := if heldCredit s k = noLimit then noLimit else heldCredit s k - 1 }
  have hs : sendRecord s src x.tok k (tokFmt x.tok) bs = some s2 := by
    have hps : recordPkts s src x.tok k (getChan s k).sent (tokFmt x.tok) bs = [p0] := congrArg (List.map _) hp
    unfold sendRecord
    rw [hps, if_pos (show k.1 = src.eng.pkg from hn)]
    rfl
  have hu : u = rowDone s3 x (m + 256 * b2n fb) (some m) := by
    unfold u placeRow
    simp only [hk]
    rw [hs]
  have h1 : Touches [.chans] s s1 := modChan_touches ..
  have h2 : Touches [.inbox, .nextId] s1 s2 := landLocal_touches ..
  have h3 : Touches [.chans] s2 s3 := modChan_touches ..
  have h4 := rowDone_touches s3 x (m + 256 * b2n fb) (some m)
  have hall : Touches [.chans, .inbox, .nextId] s s3 := (h1.mono (by decide)).trans ((h2.mono (by decide)).trans (h3.mono (by decide)))
  rw [hu]
  refine ⟨{ p0 with id := (fresh s1).1 }, rowDone_advances _ _ ?_, ?_, rfl, rfl, ?_, ?_,
    Eq.trans (h4.same .threads (by decide)) (hall.same .threads (by decide)), (hall.sameBytes (by decide)).trans (h4.sameBytes (by decide))⟩
  · rw [show s3.xunits = s.xunits from hall.same .xunits (by decide)]
    exact hx
  · exact Eq.trans (h4.same .inbox (by decide)) rfl
  · rw [h4.getChan (by decide), getChan_modChan, h2.getChan (by decide), getChan_modChan]
  · rw [h4.getChan (by decide), getChan_modChan]

end Sys2Proof.Machine
end

section
/-!
PROOFS. Proofs/PacketsLand.lean: DISPATCH starts, credits, and packets of records and chunks that land (spec/07 R175; spec/14 R325;
spec/17 R363, R364).
-/
namespace Sys2Proof.Machine

theorem exec_dispatch_starts {s : State} {e : Eng} {n : Nat} {f : Start} {a route : List Byte} (hroom : xunitRoom s e = true)
    (hx : xunitAt s e n 0x1D = none) (hf : xferAt s e n 0x1D = some f) (hp : f.toks.any (·.poison) = false)
    (ha : readTileTok s (f.q.l.getD {}) f.act.id = .img a) (hr : readTileTok s (f.q.r.getD {}) f.act.id = .img route)
    (hd : dispatchFault s f route = none) : ∃ u x, exec (.dispatch e n) s = .next u ∧ u.xunits = s.xunits ++ [x] ∧ x.row = 0 ∧
      x.phase = 0 ∧ x.report = [] ∧ x.img = a ∧ x.route = route ∧ x.dest = f.act.dests ∧
      (getEng u e).unit = (getEng s e).unit.erase f.act ∧ u.threads = s.threads ∧ SameBytes s u := by
  obtain ⟨rfl, -, -⟩ := xferAt_spec hf
  let v := tokRead (tokRead s (f.q.l.getD {}) f.act.id) (f.q.r.getD {}) f.act.id
  have hv : Touches [.bankModes, .watchHolds] s v := (tokRead_touches s (f.q.l.getD {}) f.act.id).trans (tokRead_touches ..)
  have hb := beginXfer_touches v f
  let x : XUnit := { toXUnit f (fresh (beginXfer v f)).1 with
    img := a, route := route, counts := List.replicate (bits (opCfg f.r.op 0) 5 0 + 1) 0 }
  let u : State := { (fresh (beginXfer v f)).2 with xunits := (fresh (beginXfer v f)).2.xunits ++ [x] }
  have hu : Touches [.nextId, .xunits] (beginXfer v f) u := .put rfl
  have hex : exec (.dispatch f.r.op.eng n) s = .next u := by
    show execDispatch f.r.op.eng n s = _
    unfold execDispatch
    simp only [hx, hf, hroom, hp, ha, hr, hd, Bool.not_true, Bool.false_eq_true, if_false]
    rfl
  refine ⟨u, x, hex, ?_, rfl, rfl, rfl, rfl, rfl, rfl, ?_, ?_, ?_⟩
  · exact congrArg (· ++ [x]) (Eq.trans (hb.same .xunits (by decide)) (hv.same .xunits (by decide)))
  · rw [hu.getEng (by decide), beginXfer_unit, hv.getEng (by decide)]
  · exact Eq.trans (hu.same .threads (by decide)) (Eq.trans (hb.same .threads (by decide)) (hv.same .threads (by decide)))
  · exact (hv.sameBytes (by decide)).trans ((hb.sameBytes (by decide)).trans (hu.sameBytes (by decide)))

/-! ### Credits -/

theorem exec_credit_sends {s : State} {pkg die i l : Nat} {d : Coord} (h1 : (getChan s (pkg, die, i)).state = 1)
    (hw : (getChan s (pkg, die, i)).wep = .op d l) (hc : (getChan s (pkg, die, i)).credit < creditOf s (pkg, die, i)) :
    exec (.dispatchCreditUpdate pkg die i) s = .next (setChan s (pkg, die, i) { getChan s (pkg, die, i) with
      credit := creditOf s (pkg, die, i) }) := by
  show execDispatchCreditUpdate pkg die i s = _
  unfold execDispatchCreditUpdate
  simp only [h1, hw, hc, decide_true, Bool.and_self, if_true]

theorem exec_credit_stays {s : State} {pkg die i : Nat} (hc : creditOf s (pkg, die, i) ≤ (getChan s (pkg, die, i)).credit) :
    exec (.dispatchCreditUpdate pkg die i) s = .next s := by
  show execDispatchCreditUpdate pkg die i s = _
  unfold execDispatchCreditUpdate
  simp only [Nat.not_lt.2 hc, decide_false, Bool.and_false, Bool.false_eq_true, if_false]

/-! ### Packets of records -/

/-- The state in which a packet's bytes have landed in a record. -/
def packetLanded (s : State) (n : Nat) (p : Pkt) (k : ChanKey) (ord chunk : Nat) (bs : List Byte) (q : Rec) : State :=
  landPart (watchPassed (dropInbox s n) p.id (recSectors s k (getChan s k) q)) k ord chunk bs

theorem packetLanded_spec {s : State} {n : Nat} {p : Pkt} {k : ChanKey} {ord chunk : Nat} {bs : List Byte} {q : Rec}
    (hq : (getChan s k).recs.find? (·.ordinal = ord) = some q) : let u := packetLanded s n p k ord chunk bs q
    u.inbox = s.inbox.eraseIdx n ∧ u.threads = s.threads ∧ (∀ j, j ≠ k → getChan u j = getChan s j) ∧
      getChan u k = landedChan ord chunk (getChan s k) := by
  intro u
  let v := watchPassed (dropInbox s n) p.id (recSectors s k (getChan s k) q)
  have hv : Touches [.inbox, .watchHolds] s v := .put rfl
  have hu := landPart_touches v k ord chunk bs
  have hq' : (getChan v k).recs.find? (·.ordinal = ord) = some q := hq
  obtain ⟨h1, h2, -, -⟩ := landPart_spec (chunk := chunk) (bs := bs) hq'
  exact ⟨Eq.trans (hu.same .inbox (by decide)) rfl, Eq.trans (hu.same .threads (by decide)) (hv.same .threads (by decide)),
    fun j hj => (h2 j hj).trans (hv.getChan (by decide) j), h1⟩

theorem landWrite_lands {s : State} {n : Nat} {p : Pkt} {k : ChanKey} {ord chunk : Nat} {bs : List Byte} {q : Rec}
    (hq : (getChan s k).recs.find? (·.ordinal = ord) = some q) (hg : recGrants s k q = true)
    (hgate : recGate s p.hdr.src.eng.pkg k q p.id p.hdr.lid .write = none) :
    landWrite s n p k ord chunk bs = packetLanded s n p k ord chunk bs q := by
  unfold landWrite
  simp only [hq, hg, hgate, Bool.not_true, Bool.false_eq_true, if_false]
  rfl

theorem landedChan_recs (ord chunk : Nat) (c : Chan) : (landedChan ord chunk c).recs = c.recs.map fun q =>
    if q.ordinal = ord then { q with landed := chunk :: q.landed, ready := (recParts c).all (chunk :: q.landed).contains } else q := by
  unfold landedChan landedWith
  refine List.map_congr_left fun q _ => ?_
  simp only [ne_eq, ite_not]

/-- A record of the ring lies in no sector, so no slot and no filter holds it. -/
theorem ring_passes (s : State) (home : Nat) (k : ChanKey) {r : Rec} (who lid : Nat) (acc : Acc) (h : r.seg = none) :
    recGrants s k r = true ∧ recGate s home k r who lid acc = none := by
  have hn : ∀ c, recSectors s k c r = [] := fun c => by
    unfold recSectors
    rw [h]
    rfl
  unfold recGrants recGate
  dsimp only
  rw [hn]
  exact ⟨rfl, rfl⟩

section
variable {s : State} {n : Nat} {p : Pkt} {die i ord rl ch fmt : Nat} {bs : List Byte} (hi : inboxAt s n = some p)
  (hb : p.body = .channelWrite die i ord rl ch fmt bs) (hh : p.held = false)
include hi hb hh

theorem exec_channelWrite : exec (.channelWrite n) s = .next (let k : ChanKey := (p.hdr.dst.eng.pkg, die, i)
    if placed (getChan s k) ord then landWrite s n p k ord ch bs
    else if (getChan s k).state = 0 ∨ !sentByWriter (getChan s k) p then dropInbox s n
    else if ord ≠ (getChan s k).wrec then s
    else placeWrite s n p k ord ch bs) := by
  show execChannelWrite n s = _
  unfold execChannelWrite
  simp only [hi, hb, hh, Bool.false_eq_true, if_false]

theorem channelWrite_places {pos : Nat} {v : State} (hpl : placed (getChan s (p.hdr.dst.eng.pkg, die, i)) ord = false)
    (h0 : (getChan s (p.hdr.dst.eng.pkg, die, i)).state ≠ 0) (hw : sentByWriter (getChan s (p.hdr.dst.eng.pkg, die, i)) p = true)
    (ho : ord = (getChan s (p.hdr.dst.eng.pkg, die, i)).wrec)
    (hv : writePlace s (p.hdr.dst.eng.pkg, die, i) = .ok none pos v)
    (hl : (getChan s (p.hdr.dst.eng.pkg, die, i)).recs.all
      (fun q => decide (q.ordinal ≠ (getChan s (p.hdr.dst.eng.pkg, die, i)).wrec)) = true) :
    let k : ChanKey := (p.hdr.dst.eng.pkg, die, i); let c := getChan s k
    ∃ u q, exec (.channelWrite n) s = .next u ∧
      (u.inbox = s.inbox.eraseIdx n ∧ u.threads = s.threads ∧ ∀ j, j ≠ k → getChan u j = getChan s j) ∧
      (getChan u k).recs = c.recs ++ [q] ∧ q.seg = none ∧ q.pos = pos ∧ q.ordinal = ord ∧ q.residue = p.hdr.residue ∧
      q.landed = [ch] ∧ q.ready = (recParts c).all [ch].contains := by
  intro k c
  have hex : exec (.channelWrite n) s = .next (placeWrite s n p k ord ch bs) := by
    refine (exec_channelWrite hi hb hh).trans (congrArg _ ?_)
    dsimp only
    rw [hpl, if_neg (by decide), if_neg (by rw [hw]; simpa using h0), if_neg (not_not.2 ho)]
  have hord := writePlace_order s k
  rw [hv] at hord
  obtain ⟨ho1, ho2⟩ : SameOrder s k v := hord
  have hvt := writePlace_ring hv
  let w := reserveRec v k none pos p.hdr.residue false p.hdr.lid
  obtain ⟨w1, w2⟩ := reserveRec_chan v k none pos p.hdr.residue false p.hdr.lid
  have hwt := reserveRec_touches v k none pos p.hdr.residue false p.hdr.lid
  let r0 := enteredRec (getChan v k) none pos p.hdr.residue false p.hdr.lid
  have hrecs : (getChan w k).recs = c.recs ++ [r0] := by
    rw [w1]
    exact congrArg (· ++ [r0]) (congrArg (·.1) ho1)
  have hr0 : r0.ordinal = ord := (congrArg (·.2.1) ho1).trans ho.symm
  have hne : ∀ q ∈ c.recs, q.ordinal ≠ ord := fun q hq => by
    rw [ho]
    exact of_decide_eq_true (List.all_eq_true.1 hl q hq)
  have hfind : (getChan w k).recs.find? (·.ordinal = ord) = some r0 := by rw [hrecs]; exact find_last hne hr0
  obtain ⟨hg, hgate⟩ := ring_passes w p.hdr.src.eng.pkg k (r := r0) p.id p.hdr.lid .write rfl
  have hplace : placeWrite s n p k ord ch bs = packetLanded w n p k ord ch bs r0 := by
    unfold placeWrite
    rw [hv]
    exact landWrite_lands hfind hg hgate
  obtain ⟨u1, u2, u3, u4⟩ := packetLanded_spec (n := n) (p := p) (chunk := ch) (bs := bs) hfind
  have hparts : recParts (getChan w k) = recParts c := by
    unfold recParts recBytes
    rw [w1]
    have : (getChan v k).rlog = c.rlog := congrArg (·.2.2.1) ho1
    show List.map _ (List.range (cdiv (2 ^ ((getChan v k).rlog + 4)) 4096)) = _
    rw [this]
  refine ⟨_, landedWith (recParts c) r0 ch, hex.trans (congrArg _ hplace), ⟨?_, ?_, fun j hj => ?_⟩, ?_, rfl, rfl, hr0, rfl, rfl, rfl⟩
  · rw [u1, show w.inbox = s.inbox from Eq.trans (hwt.same .inbox (by decide)) (hvt.same .inbox (by decide))]
  · rw [u2, show w.threads = s.threads from Eq.trans (hwt.same .threads (by decide)) (hvt.same .threads (by decide))]
  · rw [u3 j hj, w2 j hj, ho2 j hj]
  · rw [u4]
    unfold landedChan
    rw [hrecs, hparts]
    exact map_last _ hne hr0

end

/-! ### Packets of chunks -/

section
variable {s : State} {n : Nat} {p : Pkt} {id : TileId} {l : Nat} {b : Burst} (hi : inboxAt s n = some p)
  (hb : p.body = .chunkWrite id l [b])
include hi hb

theorem exec_chunkWrite : exec (.chunkWrite n) s = .next (landChunk p id (dropInbox s n) b) := by
  show execChunkWrite n s = _
  unfold execChunkWrite
  simp only [hi, hb]
  rfl

theorem chunkWrite_begins (h0 : (getTile s id).state ≠ 0) (hc : b.chunk < tileChunks (getTile s id))
    (hr : chunkRefused (getTile s id) b.chunk = false) : ∃ u w, exec (.chunkWrite n) s = .next u ∧
      u.inbox = s.inbox.eraseIdx n ∧ u.chunkWrites = s.chunkWrites ++ [w] ∧ w.tile = id ∧ w.chunk = b.chunk ∧
      u.threads = s.threads ∧ SameBytes s u := by
  let data := b.data.take (Nat.min 512 (tileBytes (getTile s id) - 512 * b.chunk))
  let scale := if isScaled (getTile s id).fmt then scaleArea b.words else []
  have hd : Touches [.inbox] s (dropInbox s n) := .put rfl
  have ht := beginChunk_touches (dropInbox s n) id b.chunk 4 p.hdr.lid p.hdr.src p.hdr.tag data scale
  obtain ⟨w, h1, h2, h3⟩ := beginChunk_chunkWrites (dropInbox s n) id b.chunk 4 p.hdr.lid p.hdr.src p.hdr.tag data scale
  have hl : landChunk p id (dropInbox s n) b = beginChunk (dropInbox s n) id b.chunk 4 p.hdr.lid p.hdr.src p.hdr.tag data scale :=
    if_neg (by
      rintro (h | h | h)
      · exact h0 h
      · exact absurd hc (Nat.not_lt.2 h)
      · exact Bool.false_ne_true (hr.symm.trans h))
  exact ⟨_, w, (exec_chunkWrite hi hb).trans (congrArg _ hl), Eq.trans (ht.same .inbox (by decide)) rfl, h1, h3, h2,
    Eq.trans (ht.same .threads (by decide)) rfl, (hd.sameBytes (by decide)).trans (ht.sameBytes (by decide))⟩

theorem chunkWrite_refused (h : (getTile s id).state = 0 ∨ tileChunks (getTile s id) ≤ b.chunk ∨
    chunkRefused (getTile s id) b.chunk = true) : ∃ u rep, exec (.chunkWrite n) s = .next u ∧ u.inbox = s.inbox.eraseIdx n ∧
      u.chunkWrites = s.chunkWrites ∧ u.reports = s.reports ++ [rep] ∧ rep.cause = 0x0109 ∧
      rep.tval = BitVec.ofNat 64 (id.handle + id.die * 2 ^ 16 + b.chunk * 2 ^ 18) := by
  have hl : landChunk p id (dropInbox s n) b =
      raiseTok (dropInbox s n) p.hdr p.hdr.dst 0x0109 (id.handle + id.die * 2 ^ 16 + b.chunk * 2 ^ 18) := if_pos h
  have ht := raiseTok_touches (dropInbox s n) p.hdr p.hdr.dst 0x0109 (id.handle + id.die * 2 ^ 16 + b.chunk * 2 ^ 18) .none
  exact ⟨_, _, (exec_chunkWrite hi hb).trans (congrArg _ hl), Eq.trans (ht.same .inbox (by decide)) rfl,
    ht.same .chunkWrites (by decide), rfl, rfl, rfl⟩

end

end Sys2Proof.Machine
end

section
/-!
PROOFS. Proofs/ChannelOperators.lean: the channel operators together (spec/07 R173 to R176; spec/14 R322 to R325).
-/
namespace Sys2Proof.Machine

/-- A CHW whose record is on its way to another package. -/
theorem exec_chw_sent {s : State} {e : Eng} {n : Nat} {r : OpRef} {x : XUnit} {k : ChanKey} {ord : Nat}
    (hx : xunitAt s e n 0x1C = some (r, x)) (hs : x.sent = some (k, ord)) : exec (.chw e n) s =
      .next (if recLanded s k ord then endXUnit s r x (toPort r 0 (signalFrom x.tok)) true else s) := by
  show execChw e n s = _
  unfold execChw
  simp only [hx, hs]

/-- A CHW whose record finds a place in its own package. -/
theorem chw_lands {s v : State} {e : Eng} {n : Nat} {f : Start} {k : ChanKey} {bs : List Byte} {seg : Option Nat} {pos : Nat}
    (hmem : s.MemOk) (hf : xferAt s e n 0x1C = some f) (hk : ((f.toks.head?).getD {}).kind ≠ 1)
    (hb : recordOf ((f.toks.head?).getD {}) [] (recBytes (getChan s k)) = some bs)
    (hc : writePlace s k = .ok seg pos v) (he : Emits s f.r f.q.tag (toPort f.r 0 (signalFrom ((f.toks.head?).getD {}))))
    (hl : (getChan s k).recs.all (fun q => decide (q.ordinal ≠ (getChan s k).wrec)) = true)
    (hex : exec (.chw e n) s =
      .next (fireXfer (chwLanded s v f k seg pos bs) f (toPort f.r 0 (signalFrom ((f.toks.head?).getD {}))))) :
    let c := getChan s k; let out := toPort f.r 0 (signalFrom ((f.toks.head?).getD {}))
    ∃ u q, exec (.chw e n) s = .next u ∧
      (u.updates = s.updates ++ out.map (risesFor s f.r s.nextId) ++ f.toks.map (fallsFor f.r s.nextId) ∧
        (getEng u e).unit = (getEng s e).unit.erase f.act ∧ u.threads = s.threads) ∧
      (getChan u k).recs = c.recs ++ [q] ∧ q.ready = true ∧ q.residue = residueOf bs ∧ q.seg = seg ∧ q.pos = pos ∧
      (seg = none → c.rlog ≤ 2 →
        (∀ i (h : i < bs.length), memGet u.l0 (recAddr s k c q i) = bs[i]) ∧ u.hbm = s.hbm ∧
        ∀ a, (∀ i, i < bs.length → a ≠ recAddr s k c q i) → memGet u.l0 a = memGet s.l0 a) := by
  intro c out
  obtain ⟨rfl, -, -⟩ := xferAt_spec hf
  have hlen : bs.length = recBytes c := recordOf_length hk (by
    unfold recBytes
    exact Nat.le_trans (by decide) (Nat.pow_le_pow_right (by decide) (Nat.le_add_left 4 _))) hb
  obtain ⟨ht, q, h1, h2, h3, h4, h5, h6⟩ := chwLanded_spec (f := f) hmem hc hl hlen
  have hu := fireXfer_touches (chwLanded s v f k seg pos bs) f out
  obtain ⟨g1, g2⟩ := fireXfer_spec ht he
  refine ⟨_, q, hex, ⟨g1, g2, Eq.trans (hu.same .threads (by decide)) (ht.same .threads (by decide))⟩, ?_, h2, h3, h4, h5,
    fun hs hlog => ?_⟩
  · rw [hu.getChan (by decide)]
    exact h1
  · obtain ⟨m1, m2, m3⟩ := h6 hs hlog
    rw [show (fireXfer (chwLanded s v f k seg pos bs) f out).l0 = (chwLanded s v f k seg pos bs).l0 from hu.same .l0 (by decide)]
    exact ⟨m1, Eq.trans (hu.same .hbm (by decide)) m2, m3⟩

section
variable {s : State} {e : Eng} {n : Nat} {r : OpRef} {x : XUnit} {ks : List ChanKey} (hx : xunitAt s e n 0x1D = some (r, x))
  (hb : dispatchBehind s x = false) (h0 : x.phase = 0) (hr : x.row < tokRows x.tok) (hk : dispatchChans s r.op = some ks)
include hx hb h0 hr hk

/-- The choice of a row, as its route names it. -/
def rowChoice (x : XUnit) (m : Nat) : Option Int :=
  routeAt (tokFmt (x.tok2.getD {})) (tokCols (x.tok2.getD {})) x.route x.row m

theorem exec_dispatch_absent (hc : rowChoice x 0 = none) : exec (.dispatch e n) s = .next (rowDone s x 0xFFFF none) := by
  refine (exec_dispatch_row hx hb h0 hr hk).trans (congrArg _ ?_)
  unfold rowChoice at hc
  unfold dispatchRow
  simp only [hc]

variable {m : Nat} {k : ChanKey} (hc : rowChoice x 0 = some (m : Int)) (hm : ks[m]? = some k)
include hc hm

theorem exec_dispatch_first (hp : 0 < heldCredit s k) : exec (.dispatch e n) s =
    .next (placeRow s r x ks (imgRow x.img (tokCols x.tok) (elemBytes (tokFmt x.tok)) x.row) m false) := by
  refine (exec_dispatch_row hx hb h0 hr hk).trans (congrArg _ ?_)
  unfold rowChoice at hc
  unfold dispatchRow
  simp only [hc, creditAt hm, if_pos hp, Int.toNat_natCast]

variable (hz : heldCredit s k = 0)
include hz

theorem exec_dispatch_alone (hd : rowChoice x 1 = none) : exec (.dispatch e n) s = .next s := by
  refine (exec_dispatch_row hx hb h0 hr hk).trans (congrArg _ ?_)
  unfold rowChoice at hc hd
  unfold dispatchRow
  simp only [hc, hd, Int.toNat_natCast, creditAt hm, hz, Nat.lt_irrefl, if_false]

variable {d : Nat} {j : ChanKey} (hd : rowChoice x 1 = some (d : Int)) (hj : ks[d]? = some j)
include hd hj

theorem exec_dispatch_neither (hp : heldCredit s j = 0) : exec (.dispatch e n) s = .next s := by
  refine (exec_dispatch_row hx hb h0 hr hk).trans (congrArg _ ?_)
  unfold rowChoice at hc hd
  unfold dispatchRow
  simp only [hc, hd, Int.toNat_natCast, creditAt hm, creditAt hj, hz, hp, Nat.lt_irrefl, if_false]

theorem exec_dispatch_second (hp : 0 < heldCredit s j) : exec (.dispatch e n) s =
    .next (placeRow s r x ks (imgRow x.img (tokCols x.tok) (elemBytes (tokFmt x.tok)) x.row) d true) := by
  refine (exec_dispatch_row hx hb h0 hr hk).trans (congrArg _ ?_)
  unfold rowChoice at hc hd
  unfold dispatchRow
  simp only [hc, hd, creditAt hm, creditAt hj, hz, if_pos hp, Nat.lt_irrefl, if_false, Int.toNat_natCast]

end

/-- Settles O48: a record enters through `reserveRec` and lands through `landPart` alike for a CHW and a packet; a reader takes it by
`readTake`; a DISPATCH row is placed by `placeRow`. -/
theorem channelOperators : Obligations.ChannelOperators := by
  intro s hmem
  refine ⟨fun e n hroom => ?_, fun pkg die i => ⟨fun d l => exec_credit_sends, exec_credit_stays⟩, fun n p hn hfirst => ?_⟩
  · intro ends waits
    refine ⟨fun f k bs hx hf => ?_, fun r x k ord hx hs => ?_, fun f k hx hf hp hb hk => ?_, fun r x ks hx hb h0 hr hk heng => ?_,
      fun f a route => exec_dispatch_starts hroom⟩
    · intro t c out hp hk hm hw h1 hb
      have toWaits : ∀ {u}, WaitsInRow s u e f → waits u f := fun h => ⟨h.updates, h.recs, h.unit, h.threads, h.bytes⟩
      refine ⟨fun v hfar hc hv => chw_sends hroom hx hf hp hk hm hw h1 hb hfar hc hv, fun hfar hc => ?_,
        fun seg pos v hnear hc he hl hg hgate => ?_, fun hnear hc => ?_⟩
      · obtain ⟨u, hu, h⟩ := chw_without_credit hroom hx hf hp hk hm hw h1 hb hfar hc
        exact ⟨u, hu, toWaits h⟩
      · exact chw_lands hmem hf hk hb hc he hl (exec_chw_lands hroom hx hf hp hk hm hw h1 hb hnear hc hg hgate)
      · obtain ⟨u, hu, h⟩ := chw_full hroom hx hf hp hk hm hw h1 hb hnear hc
        exact ⟨u, hu, toWaits h⟩
    · intro out
      have hex := exec_chw_sent hx hs
      refine ⟨fun h => hex.trans (next_if_neg (by rw [h]; decide)), fun h he => ?_⟩
      exact ⟨_, hex.trans (next_if_pos h), endXUnit_spec (refsRoom_signals (t := signalFrom x.tok) (by decide : (3 : Nat) ≠ 1)) he true⟩
    · intro t
      refine ⟨fun q o hfar hq hg hgate hbit hqp he hr hd hres => chr_far hroom hx hf hp hb hk hq hg hgate hbit hqp hd hres hfar he hr,
        fun q hnear hq hg hgate hbit hqp hd hres he => ?_, fun hq hd => ⟨fun hr h2 hno he => ?_, fun h1 => ?_⟩⟩
      · obtain ⟨u, h1, h2, h3, h4, h5, h6⟩ := chr_near hroom hx hf hp hb hk hq hg hgate hbit hqp hd hres hnear he
        exact ⟨u, h1, ⟨h2, h3, h4⟩, h5, h6⟩
      · obtain ⟨u, h1, h2, h3, h4, h5⟩ := chr_ends hroom hx hf hp hb hk hq hd hr h2 hno he
        exact ⟨u, h1, ⟨h2, h3, h4⟩, h5⟩
      · obtain ⟨u, hu, h⟩ := chr_waits hroom hx hf hp hb hk hq hd h1
        exact ⟨u, hu, h.updates, h.recs, h.unit, h.threads, h.bytes⟩
    · intro t choice bs advanced goes hfind
      refine ⟨fun hc => ⟨_, exec_dispatch_absent hx hb h0 hr hk hc, rowDone_advances _ _ hfind, rfl⟩, fun m k hc hm =>
        ⟨fun hp hnear hparts => ?_, fun hz hd => exec_dispatch_alone hx hb h0 hr hk hc hm hz hd, fun d j hz hd hj =>
          ⟨fun hp => exec_dispatch_neither hx hb h0 hr hk hc hm hz hd hj hp, fun hp hnear hparts => ?_⟩⟩⟩
      · obtain ⟨p, ⟨y, h1⟩, h2⟩ := placeRow_goes (r := r) bs false hm (by rw [heng]; exact hnear) hparts hfind
        exact ⟨_, p, exec_dispatch_first hx hb h0 hr hk hc hm hp, ⟨y, h1⟩, h2⟩
      · obtain ⟨p, ⟨y, h1⟩, h2⟩ := placeRow_goes (r := r) bs true hj (by rw [heng]; exact hnear) hparts hfind
        exact ⟨_, p, exec_dispatch_second hx hb h0 hr hk hc hm hz hd hj hp, ⟨y, h1⟩, h2⟩
  · have hi := inboxAt_first hn hfirst
    refine ⟨fun die i ord rl ch fmt bs hb hh => ?_, fun id l b hb => ?_⟩
    · intro k c taken
      have hex := exec_channelWrite hi hb hh
      refine ⟨fun q hpl hq hg hgate => ?_, fun hpl h0 hw => ⟨fun ho => ?_, fun ho hv => ?_, fun pos v ho hv hl =>
        channelWrite_places hi hb hh hpl h0 hw ho hv hl⟩⟩
      · obtain ⟨h1, h2, h3, h4⟩ := packetLanded_spec (n := n) (p := p) (chunk := ch) (bs := bs) hq
        refine ⟨_, hex.trans ((next_if_pos hpl).trans (congrArg _ (landWrite_lands hq hg hgate))), ⟨h1, h2, h3⟩, ?_⟩
        rw [h4]
        exact landedChan_recs ..
      · refine hex.trans ((next_if_neg (by rw [hpl]; decide)).trans ((next_if_neg ?_).trans (next_if_pos ho)))
        rw [hw]
        simpa using h0
      · refine hex.trans ((next_if_neg (by rw [hpl]; decide)).trans ((next_if_neg ?_).trans ((next_if_neg (not_not.2 ho)).trans ?_)))
        · rw [hw]
          simpa using h0
        · unfold placeWrite
          rw [hv] <;> rfl
    · exact ⟨chunkWrite_begins hi hb, chunkWrite_refused hi hb⟩

end Sys2Proof.Machine
end

section
/-!
PROOFS. Proofs/Reduce.lean: REDUCE contributions and rounds (spec/07 R178, R179; spec/17 R376).
-/
namespace Sys2Proof.Machine

theorem Touches.getGroup {l : List Field} {s t : State} (h : Touches l s t) (hl : l.contains .groups = false) (k : Nat × Nat) :
    getGroup t k = getGroup s k := by
  have e : t.groups = s.groups := h.same .groups (by simpa using hl)
  unfold Machine.getGroup
  rw [e]

theorem getGroup_modGroup (s : State) (k : Nat × Nat) (f : RGroup → RGroup) : getGroup (modGroup s k f) k = f (getGroup s k) :=
  tget_tset_same ..

theorem getGroup_modGroup_other {s : State} {k j : Nat × Nat} (f : RGroup → RGroup) (h : j ≠ k) :
    getGroup (modGroup s k f) j = getGroup s j := tget_tset_other _ _ _ h

/-! ### Contributions -/

theorem sendAll_touches_packets (src : Eng) (p : Nat → Pkt) : ∀ (qs : List Nat) (s v : State), sendAll s src p qs = some v →
    Touches [.packets, .straits, .exits, .nextId] s v
  | [], s, v, h => by
    obtain rfl := Option.some.inj h
    exact .rfl
  | q :: qs, s, v, h => by
    obtain ⟨o, -, ho⟩ := Option.bind_eq_some_iff.1 h
    exact (sendPkt_touches s o (p q)).trans (sendAll_touches_packets src p qs _ v ho)

/-- What a contribution that leaves has done: the group of its package holds it, and its packets are on their way. -/
theorem sendContrib_spec {s v : State} {o : Op} {t : Token} {g : Nat} {c : Contrib} (h : sendContrib s o t g c = some v) :
    (getGroup v (o.eng.pkg, g)).contribs = (getGroup s (o.eng.pkg, g)).contribs ++ [c] ∧
      Touches [.packets, .straits, .exits, .nextId, .groups] s v ∧ (groupPeers s o.eng.pkg g = [] → v.packets = s.packets) ∧
      ∀ q k, groupPeers s o.eng.pkg g = [q] → egress s o.eng q = some k → straitRoom s k { body := .reduce g c } = true →
        ∃ p, v.packets = s.packets ++ [p] ∧ p.body = .reduce g c ∧ p.hdr.dst.eng = ⟨q, 0, 0, 25⟩ := by
  unfold sendContrib at h
  extract_lets hdr at h
  obtain ⟨w, hw, rfl⟩ := Option.map_eq_some_iff.1 h
  have ht := sendAll_touches_packets _ _ _ _ _ hw
  have hg : Touches [.groups] w (addContrib w o.eng.pkg g c) := .put rfl
  refine ⟨?_, (ht.mono (by decide)).trans (hg.mono (by decide)), fun hp => ?_, fun q k hp he hr => ?_⟩
  · unfold addContrib
    rw [getGroup_modGroup, ht.getGroup (by decide)]
  · rw [hp] at hw
    obtain rfl := Option.some.inj hw
    rfl
  · rw [hp] at hw
    unfold sendAll at hw
    rw [he, Option.filter_some, if_pos (show straitRoom s k { hdr := { hdr with dst := { eng := ⟨q, 0, 0, 25⟩ } }, body := .reduce g c } = true
      from hr), Option.bind_some] at hw
    obtain rfl := Option.some.inj hw
    obtain ⟨p, h1, h2, h3⟩ := sendPkt_room (s := s) (e := k)
      (p := { hdr := { hdr with dst := { eng := ⟨q, 0, 0, 25⟩ } }, body := .reduce g c }) hr
    exact ⟨p, h1, h3, congrArg Coord.eng h2⟩

section
variable {s : State} {e : Eng} {n : Nat} {f : Start} {img : List Byte} (hroom : xunitRoom s e = true)
  (hx : xunitAt s e n 0x1E = none) (hf : xferAt s e n 0x1E = some f) (hp : (f.q.l.getD {}).poison = false)
  (hfmt : tokFmt (f.q.l.getD {}) = opType f.r.op) (hd : f.act.dests ≠ [])
  (htw : contributesTwice s e.pkg (bits (opCfg f.r.op 0) 39 32) (f.q.l.getD {}).tag = false)
  (hr : readTileTok s (f.q.l.getD {}) f.act.id = .img img)
include hroom hx hf hp hfmt hd htw hr

/-- The contribution of a REDUCE activation. -/
def contribOf (s : State) (e : Eng) (f : Start) (img : List Byte) : Contrib :=
  let t := f.q.l.getD {}
  { rank := (getGroup s (e.pkg, bits (opCfg f.r.op 0) 39 32)).rank, tag := t.tag, rows := tokRows t, cols := tokCols t
    fmt := tokFmt t, op := bits (opCfg f.r.op 0) 41 40, data := img }

theorem exec_reduce_start : exec (.reduce e n) s =
    .next (match sendContrib s f.r.op (f.q.l.getD {}) (bits (opCfg f.r.op 0) 39 32) (contribOf s e f img) with
      | none => s
      | some v =>
        let w := fresh (beginXfer (tokRead v (f.q.l.getD {}) f.act.id) f)
        { w.2 with xunits := w.2.xunits ++ [{ toXUnit f w.1 with reduce := some (bits (opCfg f.r.op 0) 39 32) }] }) := by
  have hde : f.act.dests.isEmpty = false := by simpa using hd
  show execReduce e n s = _
  unfold execReduce
  simp only [hx, hf, hroom, hp, hfmt, hde, htw, hr, Bool.not_true, Bool.false_eq_true, ne_eq, not_true_eq_false, if_false]
  unfold contribOf
  simp only [hfmt] <;> rfl

theorem reduce_contributes {v : State}
    (hv : sendContrib s f.r.op (f.q.l.getD {}) (bits (opCfg f.r.op 0) 39 32) (contribOf s e f img) = some v) :
    let g := bits (opCfg f.r.op 0) 39 32
    ∃ u x, exec (.reduce e n) s = .next u ∧ u.xunits = s.xunits ++ [x] ∧ x.reduce = some g ∧ x.phase = 0 ∧
      (getGroup u (e.pkg, g)).contribs = (getGroup s (e.pkg, g)).contribs ++ [contribOf s e f img] ∧ u.packets = v.packets ∧
      u.threads = s.threads ∧ SameBytes s u ∧ (groupPeers s e.pkg g = [] → u.packets = s.packets) ∧
      ∀ q k, groupPeers s e.pkg g = [q] → egress s e q = some k → straitRoom s k { body := .reduce g (contribOf s e f img) } = true →
        ∃ p, u.packets = s.packets ++ [p] ∧ p.body = .reduce g (contribOf s e f img) ∧ p.hdr.dst.eng = ⟨q, 0, 0, 25⟩ := by
  intro g
  have hex := exec_reduce_start hroom hx hf hp hfmt hd htw hr
  rw [hv] at hex
  obtain ⟨rfl, -, -⟩ := xferAt_spec hf
  obtain ⟨h1, h2, h3, h4⟩ := sendContrib_spec hv
  have hr := tokRead_touches v (f.q.l.getD {}) f.act.id
  have hb := beginXfer_touches (tokRead v (f.q.l.getD {}) f.act.id) f
  let w := fresh (beginXfer (tokRead v (f.q.l.getD {}) f.act.id) f)
  let x : XUnit := { toXUnit f w.1 with reduce := some g }
  let u : State := { w.2 with xunits := w.2.xunits ++ [x] }
  have hu : Touches [.bankModes, .watchHolds, .engines, .launches, .partitions, .quotas, .traces, .nextId, .xunits] v u :=
    (hr.mono (by decide)).trans ((hb.mono (by decide)).trans (.put rfl))
  have hpk : u.packets = v.packets := hu.same .packets (by decide)
  refine ⟨u, x, hex, ?_, rfl, rfl, ?_, hpk, Eq.trans (hu.same .threads (by decide)) (h2.same .threads (by decide)),
    (h2.sameBytes (by decide)).trans (hu.sameBytes (by decide)), fun hn => hpk.trans (h3 hn), fun q k hq he hs => ?_⟩
  · exact congrArg (· ++ [x]) (Eq.trans (hb.same .xunits (by decide)) (Eq.trans (hr.same .xunits (by decide)) (h2.same .xunits (by decide))))
  · rw [hu.getGroup (by decide)]
    exact h1
  · obtain ⟨p, p1, p2⟩ := h4 q k hq he hs
    exact ⟨p, hpk.trans p1, p2⟩

end

theorem exec_reduce_ends {s : State} {e : Eng} {n : Nat} {r : OpRef} {x : XUnit} {id : TileId} {ds : List TileId}
    (hx : xunitAt s e n 0x1E = some (r, x)) (hd : x.dest = id :: ds) : exec (.reduce e n) s =
      .next (if x.phase = 1 ∧ tileFull s id = true then
        endXUnit s r x (toPort r 0 (xunitTile s x id ((x.counts.head?).getD 0))) true else s) := by
  show execReduce e n s = _
  unfold execReduce
  simp only [hx, hd]

/-! ### Rounds -/

theorem reduceAt_missing {s : State} {pkg g : Nat} {tag : Word} (h : fullRound s pkg g tag = none) : reduceAt g tag s pkg = s := by
  unfold reduceAt
  rw [h]

theorem foldl_reduceAt_missing {g : Nat} {tag : Word} {s : State} (ps : List Nat) (h : ∀ p ∈ ps, fullRound s p g tag = none) :
    ps.foldl (reduceAt g tag) s = s := by
  induction ps with
  | nil => rfl
  | cons p ps ih =>
    rw [List.foldl_cons, reduceAt_missing (h p List.mem_cons_self)]
    exact ih fun q hq => h q (List.mem_cons_of_mem _ hq)

/-- The round of one member among several of which no other has one. -/
theorem foldl_reduceAt_one {g : Nat} {tag : Word} {s : State} {ps : List Nat} {q : Nat} (hq : q ∈ ps) (hn : ps.Nodup)
    (h : ∀ p ∈ ps, p ≠ q → fullRound s p g tag = none)
    (hu : ∀ p, p ≠ q → fullRound (reduceAt g tag s q) p g tag = fullRound s p g tag) :
    ps.foldl (reduceAt g tag) s = reduceAt g tag s q := by
  obtain ⟨a, b, rfl⟩ := List.append_of_mem hq
  have hmid := List.nodup_middle.1 hn
  have ha : ∀ p ∈ a, p ≠ q := fun p hp he => (List.nodup_cons.1 hmid).1 (he ▸ List.mem_append_left _ hp)
  have hb : ∀ p ∈ b, p ≠ q := fun p hp he => (List.nodup_cons.1 hmid).1 (he ▸ List.mem_append_right _ hp)
  rw [List.foldl_append, foldl_reduceAt_missing a fun p hp => h p (List.mem_append_left _ hp) (ha p hp), List.foldl_cons]
  refine foldl_reduceAt_missing b fun p hp => ?_
  rw [hu p (hb p hp)]
  exact h p (List.mem_append_right _ (List.mem_cons_of_mem _ hp)) (hb p hp)

/-- A member that ends its round with a result. -/
theorem reduceMember_writes {s : State} {x : XUnit} {r : OpRef} {id : TileId} {ds : List TileId} {cs : List Contrib}
    (hr : findOp s x.eng x.slot = some r) (hd : x.dest = id :: ds) (ha : contribsAgree cs = true) (hi : imageRefused s id = none) :
    let u := reduceMember cs s x
    (∃ ws, u.chunkWrites = s.chunkWrites ++ ws ∧ ws.map (·.chunk) = List.range (tileChunks (getTile s id)) ∧ ∀ w ∈ ws, w.tile = id) ∧
      u.xunits = s.xunits.map (fun y => if y.id = x.id then
        { y with phase := 1, counts := [residueOf (reduceResult cs).1] } else y) ∧
      Touches [.engines, .tiles, .chunkWrites, .memTiles, .nextId, .xunits] s u := by
  intro u
  let s1 := setFlags s x.eng x.slot (reduceResult cs).2
  let s2 := beginImage s1 id 4 x.lid (opCoord r.op) x.tok.tag (reduceResult cs).1 (plainScale (getTile s id))
  have hu : u = modXUnit s2 x.id fun u => { u with phase := 1, counts := [residueOf (reduceResult cs).1] } := by
    unfold u reduceMember
    simp only [hr, hd, ha, hi, if_true]
    rfl
  have h1 : Touches [.engines] s s1 := setFlags_touches ..
  have h2 := beginImage_touches s1 id 4 x.lid (opCoord r.op) x.tok.tag (reduceResult cs).1 (plainScale (getTile s id))
  obtain ⟨ws, w1, w2, w3⟩ := beginImage_chunkWrites s1 id 4 x.lid (opCoord r.op) x.tok.tag (reduceResult cs).1 (plainScale (getTile s id))
  rw [hu]
  refine ⟨⟨ws, ?_, by rw [w2, h1.getTile (by decide)], w3⟩, ?_,
    (h1.mono (by decide)).trans ((h2.mono (by decide)).trans ((modXUnit_touches ..).mono (by decide)))⟩
  · exact w1.trans (congrArg (· ++ ws) (h1.same .chunkWrites (by decide)))
  · exact congrArg (List.map _) (Eq.trans (h2.same .xunits (by decide)) (h1.same .xunits (by decide)))

section
variable {s : State} {g q : Nat} {tag : Word} {cs : List Contrib} {x : XUnit} {r : OpRef} {id : TileId} {ds : List TileId}
  (hfull : fullRound s q g tag = some cs)
  (hone : (s.xunits.filter fun u => decide (u.eng.pkg = q) && decide (u.reduce = some g) && decide (u.tok.tag = tag) &&
    decide (u.phase = 0)) = [x])
  (hroom : faultRoom s x.eng 1 = true) (hr : findOp s x.eng x.slot = some r) (hd : x.dest = id :: ds) (ha : contribsAgree cs = true)
  (hi : imageRefused s id = none)
include hfull hone hroom hr hd ha hi

theorem reduceAt_ends : let u := reduceAt g tag s q
    (∃ ws, (getGroup u (q, g)).contribs = (getGroup s (q, g)).contribs.filter (fun c => decide (c.tag ≠ tag)) ∧
      u.chunkWrites = s.chunkWrites ++ ws ∧ ws.map (·.chunk) = List.range (tileChunks (getTile s id)) ∧
      (∀ w ∈ ws, w.tile = id) ∧ u.xunits = s.xunits.map (fun y => if y.id = x.id then
        { y with phase := 1, counts := [residueOf (reduceResult cs).1] } else y) ∧
      u.threads = s.threads ∧ SameBytes s u) ∧ ∀ p, p ≠ q → fullRound u p g tag = fullRound s p g tag := by
  intro u
  let s1 := modGroup s (q, g) fun x => { x with contribs := x.contribs.filter fun c => decide (c.tag ≠ tag) }
  have h1 : Touches [.groups] s s1 := .put rfl
  have hu : u = reduceMember cs s1 x := by
    unfold u reduceAt
    simp only [hfull, hone]
    refine (if_neg ?_).trans rfl
    simp [hroom]
  obtain ⟨⟨ws, w1, w2, w3⟩, w4, w5⟩ := reduceMember_writes (s := s1) hr hd ha hi
  rw [hu]
  refine ⟨⟨ws, ?_, w1, w2, w3, w4, Eq.trans (w5.same .threads (by decide)) (h1.same .threads (by decide)),
    (h1.sameBytes (by decide)).trans (w5.sameBytes (by decide))⟩, fun p hp => ?_⟩
  · rw [w5.getGroup (by decide), getGroup_modGroup]
  · unfold fullRound
    rw [w5.getGroup (by decide), getGroup_modGroup_other _ fun h => hp (congrArg Prod.fst h)]

end

/-- Settles O49: a contribution goes out through `sendContrib`, a round is `reduceAt` of the one member whose package holds every
contribution, and a packet of the inbox joins its group. -/
theorem reductions : Obligations.Reductions := by
  intro s
  refine ⟨fun e n f img hroom hx hf => ?_, fun e n r x id ds hx hd => ?_, fun g tag => ⟨fun h => ?_, fun q cs x r id ds => ?_⟩,
    fun n p g c hn hb hfirst => ?_⟩
  · intro t c0 g c hp hfmt hd htw hr
    refine ⟨fun v hv => reduce_contributes hroom hx hf hp hfmt hd htw hr hv, fun hv => ?_⟩
    have hex := exec_reduce_start hroom hx hf hp hfmt hd htw hr
    rw [show sendContrib s f.r.op (f.q.l.getD {}) (bits (opCfg f.r.op 0) 39 32) (contribOf s e f img) = none from hv] at hex
    exact hex
  · have hex := exec_reduce_ends hx hd
    refine ⟨fun h => hex.trans (next_if_neg fun hc => Bool.false_ne_true (h.symm.trans hc.2)), fun h h1 => ?_⟩
    intro out hr he
    exact ⟨_, hex.trans (next_if_pos ⟨h1, h⟩), endXUnit_spec hr he true⟩
  · refine congrArg Host.Outcome.next (foldl_reduceAt_missing _ fun p hp => ?_)
    obtain ⟨y, hy, rfl⟩ := List.mem_map.1 hp
    obtain ⟨hy, hc⟩ := List.mem_filter.1 hy
    exact h y hy (of_decide_eq_true (Bool.and_eq_true_iff.1 hc).1)
  · intro members hq hn hother hfull hone hroom hr hd ha hi
    obtain ⟨⟨ws, h1⟩, h2⟩ := reduceAt_ends hfull hone hroom hr hd ha hi
    exact ⟨_, ws, congrArg Host.Outcome.next (foldl_reduceAt_one hq hn hother h2), h1⟩
  · have hi := inboxAt_first hn hfirst
    have hex : exec (.reduceContribution n) s = .next (addContrib (dropInbox s n) p.hdr.dst.eng.pkg g c) := by
      show execReduceContribution n s = _
      unfold execReduceContribution
      simp only [hi, hb]
    have ht : Touches [.inbox, .groups] s (addContrib (dropInbox s n) p.hdr.dst.eng.pkg g c) := .put rfl
    exact ⟨_, hex, rfl, ht.same .threads (by decide), ht.sameBytes (by decide), by
      unfold addContrib; rw [getGroup_modGroup]; rfl, fun k hk => getGroup_modGroup_other _ hk⟩

end Sys2Proof.Machine
end

section
/-!
PROOFS. Proofs/SchedReads.lean: what translation and reads depend on, and what the counts of a read leave to them (spec/16 R348
to R353; spec/18 R385, R386).
-/
namespace Sys2Proof.Machine

/-- Two states give every translation and every read the same outcome. -/
structure SeesAlike (s t : State) : Prop where
  hbm : t.hbm = s.hbm
  host : t.hostMem = s.hostMem
  tlb : t.tlb = s.tlb
  walks : t.walks = s.walks
  parts : t.partitions = s.partitions
  pkgs : t.packages = s.packages
  bad : ∀ w, eccBad t false w = eccBad s false w

/-- The banks that have been converted are the same (R386). -/
structure SameConverted (s t : State) : Prop where
  mode : ∀ b, (getMode t b).mode = 2 ↔ (getMode s b).mode = 2

theorem SameConverted.of_modes {s t : State} (h : t.bankModes = s.bankModes) : SameConverted s t := ⟨fun b => by
  unfold getMode
  rw [h]⟩

theorem SameConverted.trans {s t u : State} (h : SameConverted s t) (k : SameConverted t u) : SameConverted s u :=
  ⟨fun b => (k.mode b).trans (h.mode b)⟩

theorem eccBad_congr {s t : State} (he : t.ecc = s.ecc) (hm : SameConverted s t) (w : Nat) :
    eccBad t false w = eccBad s false w := by
  have e : eccOf t false w = eccOf s false w := by
    show tget .sound w t.ecc = tget .sound w s.ecc
    rw [he]
  unfold eccBad eccFix
  rw [e, show decide ((getMode t (wordBank false w)).mode = 2) = decide ((getMode s (wordBank false w)).mode = 2) from
    decide_eq_decide.2 (hm.mode _)]

theorem Touches.seesAlike {l : List Field} {s t : State} (h : Touches l s t)
    (hl : [Field.hbm, .hostMem, .tlb, .walks, .partitions, .packages, .ecc].all (fun f => !l.contains f) = true)
    (hm : SameConverted s t) : SeesAlike s t := by
  have n : ∀ f ∈ [Field.hbm, .hostMem, .tlb, .walks, .partitions, .packages, .ecc], f ∉ l := by simpa using hl
  exact ⟨h.same .hbm (n _ (by decide)), h.same .hostMem (n _ (by decide)), h.same .tlb (n _ (by decide)),
    h.same .walks (n _ (by decide)), h.same .partitions (n _ (by decide)), h.same .packages (n _ (by decide)),
    fun w => eccBad_congr (h.same .ecc (n _ (by decide))) hm w⟩

theorem SeesAlike.rfl {s : State} : SeesAlike s s := ⟨Eq.refl _, Eq.refl _, Eq.refl _, Eq.refl _, Eq.refl _, Eq.refl _, fun _ => Eq.refl _⟩

theorem SeesAlike.trans {s t u : State} (h : SeesAlike s t) (k : SeesAlike t u) : SeesAlike s u :=
  ⟨k.hbm.trans h.hbm, k.host.trans h.host, k.tlb.trans h.tlb, k.walks.trans h.walks, k.parts.trans h.parts,
    k.pkgs.trans h.pkgs, fun w => (k.bad w).trans (h.bad w)⟩

section
variable {s t : State} (h : SeesAlike s t)
include h

theorem SeesAlike.getPart (k : Nat × Nat) : Machine.getPart t k = Machine.getPart s k := by
  unfold Machine.getPart
  rw [h.parts]

theorem SeesAlike.getPkg (k : Nat) : Machine.getPkg t k = Machine.getPkg s k := by
  unfold Machine.getPkg
  rw [h.pkgs]

theorem SeesAlike.anyBad (ws : List Nat) : ws.any (eccBad t false) = ws.any (eccBad s false) :=
  congrArg ws.any (funext h.bad)

theorem SeesAlike.walkFrom (pkg va : Nat) : ∀ lvl a, walkFrom t pkg va lvl a = walkFrom s pkg va lvl a
  | 0, a => by
    unfold Machine.walkFrom
    simp only [h.hbm, h.anyBad]
  | l + 1, a => by
    unfold Machine.walkFrom
    simp only [h.hbm, h.anyBad, SeesAlike.walkFrom pkg va l]

theorem SeesAlike.leafOf (e : Eng) (part va : Nat) : leafOf t e part va = leafOf s e part va := by
  unfold Machine.leafOf
  rw [h.tlb, h.walks, h.getPart, h.walkFrom]

theorem SeesAlike.sameDomain (p q : Nat) : sameDomain t p q = sameDomain s p q := by
  unfold Machine.sameDomain
  rw [h.getPkg, h.getPkg]

theorem SeesAlike.rangeOk (part g : Nat) : rangeOk t part g = rangeOk s part g := by
  unfold Machine.rangeOk
  rw [h.getPart]

theorem SeesAlike.translateOpen (e : Eng) (part : Nat) (ag : Agent) (acc : Acc) (va : Nat) :
    translateOpen t e part ag acc va = translateOpen s e part ag acc va := by
  unfold Machine.translateOpen windowOk
  rw [h.leafOf, h.getPart]
  simp only [h.sameDomain, h.rangeOk]

theorem SeesAlike.translate (e : Eng) (part : Nat) (ag : Agent) (acc : Acc) (va : Nat) :
    translate t e part ag acc va = translate s e part ag acc va := by
  unfold Machine.translate
  rw [h.translateOpen, h.getPart]

theorem SeesAlike.badByte (part g n : Nat) : badByte t part g n = badByte s part g n := by
  unfold Machine.badByte
  simp only [h.rangeOk, h.getPart]

theorem SeesAlike.translateAll (e : Eng) (part : Nat) (ag : Agent) (acc : Acc) :
    ∀ ps, translateAll t e part ag acc ps = translateAll s e part ag acc ps
  | [] => Eq.refl _
  | (va, n) :: ps => by
    unfold Machine.translateAll
    simp only [h.translate, h.badByte, SeesAlike.translateAll e part ag acc ps]

theorem SeesAlike.translateRange (e : Eng) (part : Nat) (ag : Agent) (acc : Acc) (va n : Nat) :
    translateRange t e part ag acc va n = translateRange s e part ag acc va n := h.translateAll ..

end

/-! ### The counts of a read -/

theorem SameConverted.modMode {s : State} {b : BankId} {f : BankMode → BankMode} (h : ∀ m, (f m).mode = 2 ↔ m.mode = 2) :
    SameConverted s (modMode s b f) := by
  refine ⟨fun c => ?_⟩
  by_cases hc : c = b
  · subst hc
    rw [show getMode (Machine.modMode s c f) c = f (getMode s c) from tget_tset_same ..]
    exact h _
  · rw [show getMode (Machine.modMode s b f) c = getMode s c from tget_tset_other _ _ _ hc]

theorem eccRead_converted (s : State) (l0 : Bool) (w : Nat) : SameConverted s (eccRead s l0 w) := by
  unfold eccRead
  split
  · unfold bankCorrected
    refine .modMode fun m => ?_
    dsimp only
    split
    · rename_i hc
      obtain ⟨h0, -⟩ := hc
      simp [toPending, show m.mode = 0 from h0]
    · exact Iff.rfl
  · split
    · exact .modMode fun m => Iff.rfl
    · exact .of_modes rfl

theorem foldl_converted {α : Type} {f : State → α → State} (hf : ∀ s a, SameConverted s (f s a)) :
    ∀ (l : List α) (s : State), SameConverted s (l.foldl f s)
  | [], _ => .of_modes rfl
  | a :: l, s => (hf s a).trans (foldl_converted hf l (f s a))

theorem readHbm_converted (s : State) (g n : Nat) : SameConverted s (readHbm s g n).2.2 :=
  foldl_converted (fun s w => eccRead_converted s false w) _ s

theorem readPieces_converted : ∀ (ps : List (Target × Nat)) (s : State), SameConverted s (readPieces s ps).2.2
  | [], _ => .of_modes rfl
  | (.hbm g, n) :: ps, s => (readHbm_converted s g n).trans (readPieces_converted ps _)
  | (.host _, _) :: ps, s => readPieces_converted ps s
  | (.fault _, _) :: ps, s => readPieces_converted ps s

theorem noteWalk_converted (pkg part va : Nat) : ∀ (lvl : Nat) (s : State) (a : Nat),
    SameConverted s (noteWalk s pkg part va lvl a) := by
  intro lvl s a
  fun_induction noteWalk s pkg part va lvl a with
  | case1 => exact .of_modes rfl
  | case2 =>
    exact (readHbm_converted ..).trans (.of_modes ((logError_touches ..).same .bankModes (by decide)))
  | case3 => exact readHbm_converted ..
  | case4 => exact readHbm_converted ..
  | case5 _ _ _ _ _ _ _ _ _ ih => exact (readHbm_converted ..).trans ih

theorem coreWalks_converted (pkg part : Nat) : ∀ (ps : List (Nat × Nat)) (s : State), SameConverted s (coreWalks s pkg part ps)
  | [], _ => .of_modes rfl
  | p :: ps, s => by
    unfold coreWalks
    dsimp only
    have h := noteWalk_converted pkg part p.1 3 s (getPart s (pkg, part)).root
    split
    · exact .of_modes rfl
    · split
      · exact h
      · exact h.trans (coreWalks_converted pkg part ps _)

theorem coreReads_seesAlike (s : State) (pkg part va n : Nat) : SeesAlike s (coreReads s pkg part va n) := by
  refine (coreReads_touches ..).seesAlike (by decide) ?_
  unfold coreReads
  dsimp only
  have h := coreWalks_converted pkg part (pagePieces va n) s
  split
  · exact h.trans (readPieces_converted ..)
  · exact h

/-! ### The scheduler's reads -/

theorem SeesAlike.readPieces {s t : State} (h : SeesAlike s t) : ∀ ps, (readPieces t ps).1 = (readPieces s ps).1 := by
  suffices hs : ∀ (ps : List (Target × Nat)) (s t : State), t.hbm = s.hbm → t.hostMem = s.hostMem →
      (Machine.readPieces t ps).1 = (Machine.readPieces s ps).1 from fun ps => hs ps s t h.hbm h.host
  intro ps
  induction ps with
  | nil => exact fun _ _ _ _ => Eq.refl _
  | cons p ps ih =>
    intro s t hb hh
    obtain ⟨tgt, n⟩ := p
    cases tgt with
    | fault f => exact ih s t hb hh
    | host a =>
      show memRead t.hostMem a n ++ _ = memRead s.hostMem a n ++ _
      rw [hh, ih s t hb hh]
    | hbm g =>
      have e : ∀ u : State, (readHbm u g n).2.2.hbm = u.hbm ∧ (readHbm u g n).2.2.hostMem = u.hostMem := fun u =>
        ⟨(readHbm_touches ..).same .hbm (by decide), (readHbm_touches ..).same .hostMem (by decide)⟩
      obtain ⟨e1, e2⟩ := e s
      obtain ⟨e3, e4⟩ := e t
      show memRead t.hbm g n ++ _ = memRead s.hbm g n ++ _
      rw [hb, ih (readHbm s g n).2.2 (readHbm t g n).2.2 (e3.trans (hb.trans e1.symm)) (e4.trans (hh.trans e2.symm))]

theorem SeesAlike.schedRead {s t : State} (h : SeesAlike s t) (pkg part va n : Nat) :
    schedRead t pkg part va n = schedRead s pkg part va n := by
  unfold Machine.schedRead
  rw [h.translateRange]
  split
  · exact congrArg some (h.readPieces _)
  · exact Eq.refl _

end Sys2Proof.Machine
end

section
/-!
PROOFS. Proofs/LaunchOrder.lean: launch records enter the window, their events are polled, and the heads stand in start order
(spec/12 R275 to R278).
-/
namespace Sys2Proof.Machine

/-! ### Lists in order -/

section
variable {α : Type} {le : α → α → Bool}

theorem mem_putIn {a x : α} : ∀ {l : List α}, a ∈ putIn le x l ↔ a = x ∨ a ∈ l
  | [] => by simp [putIn]
  | y :: l => by
    unfold putIn
    split
    · exact List.mem_cons
    · rw [List.mem_cons, mem_putIn, List.mem_cons]
      tauto

theorem mem_sortBy {a : α} : ∀ {l : List α}, a ∈ sortBy le l ↔ a ∈ l
  | [] => Iff.rfl
  | x :: l => by
    show a ∈ putIn le x (sortBy le l) ↔ _
    rw [mem_putIn, mem_sortBy, List.mem_cons]

variable {P : α → Prop} (htotal : ∀ a b, P a → P b → le a b = false → le b a = true)
  (htrans : ∀ a b c, P a → P b → P c → le a b = true → le b c = true → le a c = true)
include htotal htrans

theorem putIn_pairwise {x : α} (hx : P x) : ∀ {l : List α}, (∀ a ∈ l, P a) → l.Pairwise (fun a b => le a b = true) →
    (putIn le x l).Pairwise (fun a b => le a b = true)
  | [], _, _ => List.pairwise_singleton ..
  | y :: l, hl, hp => by
    obtain ⟨hy, hlP⟩ := List.forall_mem_cons.1 hl
    obtain ⟨h1, h2⟩ := List.pairwise_cons.1 hp
    unfold putIn
    split
    · rename_i h
      refine List.pairwise_cons.2 ⟨fun z hz => ?_, hp⟩
      rcases List.mem_cons.1 hz with rfl | hz
      · exact h
      · exact htrans x y z hx hy (hlP z hz) h (h1 z hz)
    · rename_i h
      refine List.pairwise_cons.2 ⟨fun z hz => ?_, putIn_pairwise hx hlP h2⟩
      rcases mem_putIn.1 hz with rfl | hz
      · exact htotal z y hx hy (eq_false_of_ne_true h)
      · exact h1 z hz

theorem sortBy_pairwise : ∀ {l : List α}, (∀ a ∈ l, P a) → (sortBy le l).Pairwise (fun a b => le a b = true)
  | [], _ => List.Pairwise.nil
  | x :: l, hl => by
    obtain ⟨hx, hlP⟩ := List.forall_mem_cons.1 hl
    exact putIn_pairwise htotal htrans hx (fun a ha => hlP a (mem_sortBy.1 ha)) (sortBy_pairwise hlP)

end

/-! ### Start order (R278) -/

theorem eligible_nonempty {s : State} {pkg q : Nat} {ms : List (Nat × Launch)} (h : eligible s pkg q = some ms) : ms ≠ [] := by
  unfold eligible at h
  extract_lets g at h
  split at h
  · rename_i hc
    obtain ⟨-, hne, -⟩ := hc
    obtain rfl := Option.some.inj h
    intro e
    rw [e] at hne
    simp at hne
  · cases h

theorem mem_startOrder {s : State} {pkg : Nat} {h : Nat × List (Nat × Launch)} :
    h ∈ startOrder s pkg ↔ h.1 < 32 ∧ eligible s pkg h.1 = some h.2 := by
  obtain ⟨q, ms⟩ := h
  unfold startOrder
  rw [mem_sortBy]
  simp

theorem headBefore_cons (q p : Nat) (x y : Nat × Launch) (xs ys : List (Nat × Launch)) :
    headBefore (q, x :: xs) (p, y :: ys) = true ↔ y.2.record.prio < x.2.record.prio ∨ (y.2.record.prio = x.2.record.prio ∧
      (x.2.order < y.2.order ∨ (x.2.order = y.2.order ∧ q < p))) := by
  simp [headBefore]

theorem startOrder_pairwise (s : State) (pkg : Nat) :
    (startOrder s pkg).Pairwise (fun a b => headBefore b a = false) := by
  have hp : (startOrder s pkg).Pairwise (fun a b => (!headBefore b a) = true) := by
    refine sortBy_pairwise (P := fun h => h.2 ≠ []) (fun a b ha hb h => ?_) (fun a b c ha hb hc h k => ?_) fun a ha => ?_
    · obtain ⟨qa, ma⟩ := a
      obtain ⟨qb, mb⟩ := b
      obtain ⟨x, xs, rfl⟩ := List.exists_cons_of_ne_nil ha
      obtain ⟨y, ys, rfl⟩ := List.exists_cons_of_ne_nil hb
      rw [Bool.not_eq_false', headBefore_cons] at h
      rw [Bool.not_eq_true', ← Bool.not_eq_true, headBefore_cons]
      omega
    · obtain ⟨qa, ma⟩ := a
      obtain ⟨qb, mb⟩ := b
      obtain ⟨qc, mc⟩ := c
      obtain ⟨x, xs, rfl⟩ := List.exists_cons_of_ne_nil ha
      obtain ⟨y, ys, rfl⟩ := List.exists_cons_of_ne_nil hb
      obtain ⟨z, zs, rfl⟩ := List.exists_cons_of_ne_nil hc
      rw [Bool.not_eq_true', ← Bool.not_eq_true, headBefore_cons] at h k ⊢
      omega
    · obtain ⟨q, -, hq⟩ := List.mem_filterMap.1 ha
      obtain ⟨ms, hms, rfl⟩ := Option.map_eq_some_iff.1 hq
      exact eligible_nonempty hms
  exact hp.imp fun h => Bool.not_eq_true' _ ▸ h

/-! ### Polling (R277) -/

theorem Touches.getLaunch {l : List Field} {s t : State} (h : Touches l s t) (hl : l.contains .launches = false) (k : Nat × Nat) :
    getLaunch t k = getLaunch s k := by
  have e : t.launches = s.launches := h.same .launches (by simpa using hl)
  unfold Machine.getLaunch
  rw [e]

theorem Touches.getLaunchQ {l : List Field} {s t : State} (h : Touches l s t) (hl : l.contains .launchQs = false) (k : Nat × Nat) :
    getLaunchQ t k = getLaunchQ s k := by
  have e : t.launchQs = s.launchQs := h.same .launchQs (by simpa using hl)
  unfold Machine.getLaunchQ
  rw [e]

theorem headGang_live {s : State} {pkg q : Nat} {m : Nat × Launch} (h : m ∈ (headGang s pkg q).1) :
    getLaunch s (pkg, m.1) = some m.2 := by
  have hw : m ∈ windowOf s pkg q := by
    unfold headGang at h
    dsimp only at h
    split at h
    · exact List.mem_of_mem_take h
    · exact h
  obtain ⟨w, -, hw⟩ := List.mem_filterMap.1 hw
  obtain ⟨l, hl, rfl⟩ := Option.map_eq_some_iff.1 hw
  exact hl

theorem eligible_eq {s : State} {pkg q : Nat} {ms : List (Nat × Launch)} (h : eligible s pkg q = some ms) :
    ms = (headGang s pkg q).1 := by
  unfold eligible at h
  extract_lets g at h
  split at h
  · exact (Option.some.inj h).symm
  · cases h

theorem SeesAlike.eventMet {s t : State} (h : SeesAlike s t) (pkg : Nat) (l : Launch) (k : Nat) :
    eventMet t pkg l k = eventMet s pkg l k := by
  unfold Machine.eventMet
  rw [h.schedRead]

/-- A member with its events polled. -/
def polled (s : State) (pkg : Nat) (m : Nat × Launch) : Launch :=
  { m.2 with waitOk := (List.range m.2.record.nwait).all fun k => (eventMet s pkg m.2 k).getD true }

/-- The poll of one member. -/
def pollOne (pkg : Nat) (s : State) (m : Nat × Launch) : State :=
  setLaunch ((m.2.record.wait.take m.2.record.nwait).foldl (fun s va => coreReads s pkg m.2.part va.toNat 8) s) (pkg, m.1)
    (polled s pkg m)

theorem exec_launchEventPoll (s : State) (pkg q : Nat) :
    exec (.launchEventPoll pkg q) s = .next ((headGang s pkg q).1.foldl (pollOne pkg) s) := rfl

theorem foldl_seesAlike {α : Type} {f : State → α → State} (hf : ∀ s a, SeesAlike s (f s a)) :
    ∀ (l : List α) (s : State), SeesAlike s (l.foldl f s)
  | [], _ => .rfl
  | a :: l, s => (hf s a).trans (foldl_seesAlike hf l (f s a))

theorem pollOne_touches (pkg : Nat) (s : State) (m : Nat × Launch) : Touches [.engines, .bankModes, .launches] s (pollOne pkg s m) :=
  ((Touches.foldl (fun _ _ => coreReads_touches ..) _ _).mono (by decide)).trans (.put rfl)

theorem pollOne_seesAlike (pkg : Nat) (s : State) (m : Nat × Launch) : SeesAlike s (pollOne pkg s m) :=
  (foldl_seesAlike (fun u (va : Word) => coreReads_seesAlike u pkg m.2.part va.toNat 8) _ s).trans
    ((Touches.put rfl : Touches [.launches] _ _).seesAlike (by decide) (.of_modes rfl))

theorem getLaunch_pollOne (pkg : Nat) (s : State) (m : Nat × Launch) :
    getLaunch (pollOne pkg s m) (pkg, m.1) = some (polled s pkg m) := getLaunch_setLaunch ..

theorem getLaunch_pollOne_other {pkg : Nat} {s : State} {m : Nat × Launch} {k : Nat × Nat} (h : k ≠ (pkg, m.1)) :
    getLaunch (pollOne pkg s m) k = getLaunch s k :=
  (getLaunch_setLaunch_other _ _ h).trans
    ((Touches.foldl (fun _ _ => coreReads_touches ..) _ _ : Touches [.engines, .bankModes] _ _).getLaunch (by decide) k)

theorem SeesAlike.polled {s t : State} (h : SeesAlike s t) (pkg : Nat) (m : Nat × Launch) : polled t pkg m = polled s pkg m := by
  unfold Machine.polled
  simp only [h.eventMet]

theorem pollAll_launches {pkg : Nat} : ∀ (ms : List (Nat × Launch)) (s : State),
    (∀ m ∈ ms, ∀ m' ∈ ms, m.1 = m'.1 → m = m') →
    (∀ k, (∀ m ∈ ms, k ≠ (pkg, m.1)) → getLaunch (ms.foldl (pollOne pkg) s) k = getLaunch s k) ∧
      ∀ m ∈ ms, getLaunch (ms.foldl (pollOne pkg) s) (pkg, m.1) = some (polled s pkg m)
  | [], s, _ => ⟨fun _ _ => rfl, fun _ h => absurd h List.not_mem_nil⟩
  | x :: ms, s, hu => by
    obtain ⟨h1, h2⟩ := pollAll_launches ms (pollOne pkg s x)
      fun m hm m' hm' => hu m (List.mem_cons_of_mem _ hm) m' (List.mem_cons_of_mem _ hm')
    have hsee := pollOne_seesAlike pkg s x
    refine ⟨fun k hk => ?_, fun m hm => ?_⟩
    · obtain ⟨hx, hms⟩ := List.forall_mem_cons.1 hk
      exact (h1 k hms).trans (getLaunch_pollOne_other hx)
    · by_cases hin : m ∈ ms
      · exact (h2 m hin).trans (congrArg some (hsee.polled ..))
      · obtain rfl : m = x := (List.mem_cons.1 hm).resolve_right hin
        refine (h1 _ fun m' hm' e => hin ?_).trans (getLaunch_pollOne ..)
        rw [hu m hm m' (List.mem_cons_of_mem _ hm') (Prod.ext_iff.1 e).2]
        exact hm'

theorem eventPoll_spec (s : State) (pkg q : Nat) : ∃ t, exec (.launchEventPoll pkg q) s = .next t ∧ t.threads = s.threads ∧
    SameBytes s t ∧ (∀ k, (∀ m ∈ (headGang s pkg q).1, k ≠ (pkg, m.1)) → getLaunch t k = getLaunch s k) ∧
    ∀ m ∈ (headGang s pkg q).1, getLaunch t (pkg, m.1) = some (polled s pkg m) := by
  have ht : Touches [.engines, .bankModes, .launches] s ((headGang s pkg q).1.foldl (pollOne pkg) s) :=
    .foldl (fun _ _ => pollOne_touches ..) _ _
  obtain ⟨h1, h2⟩ := pollAll_launches (pkg := pkg) (headGang s pkg q).1 s fun m hm m' hm' e => Prod.ext e <|
    Option.some.inj ((headGang_live hm).symm.trans ((congrArg (fun n => getLaunch s (pkg, n)) e).trans (headGang_live hm')))
  exact ⟨_, exec_launchEventPoll .., ht.same .threads (by decide), ht.sameBytes (by decide), h1, h2⟩

/-! ### Accepting (R278) -/

section
variable {s : State} {pkg q lid : Nat} {ri b : List Byte} (hset : (getLaunchQ s (pkg, q)).set = true)
  (hw : (getLaunchQ s (pkg, q)).window.length < 16) (hflr : (getPart s (pkg, (getLaunchQ s (pkg, q)).part)).flr = 0)
  (hri : schedRead s pkg (getLaunchQ s (pkg, q)).part ((getLaunchQ s (pkg, q)).base.toNat + 8) 8 = some ri)
  (hlid : leastBelow 4096 (fun l => decide (l ≠ 0) && (getLaunch s (pkg, l)).isNone) = some lid)

/-- The address of the record at a read index. -/
def recordAt (lq : LaunchQ) (r : Nat) : Nat := lq.base.toNat + 64 + 64 * (r % 2 ^ lq.log2)

/-- The state with the scheduler's reads of a queue's read index and record counted. -/
def acceptReads (s : State) (pkg : Nat) (lq : LaunchQ) (r : Nat) : State :=
  coreReads (coreReads s pkg lq.part (lq.base.toNat + 8) 8) pkg lq.part (recordAt lq r) 64

/-- The launch of an accepted record. -/
def acceptedLaunch (b : List Byte) (lq : LaunchQ) (q order : Nat) : Launch :=
  { record := recOfBytes b, part := lq.part, queue := q, order := order, waitOk := decide ((recOfBytes b).nwait = 0) }

/-- The record of a read index has been accepted in v under a LID. -/
def accepted (v : State) (pkg q lid : Nat) (b : List Byte) (lq : LaunchQ) (r : Nat) : State :=
  answerLaunch (setLaunchQ (setLaunch (fresh v).2 (pkg, lid) (acceptedLaunch b lq q (fresh v).1)) (pkg, q)
    { lq with window := lq.window ++ [(r, lid)] }) pkg q r lid

theorem acceptReads_touches (s : State) (pkg : Nat) (lq : LaunchQ) (r : Nat) :
    Touches [.engines, .bankModes] s (acceptReads s pkg lq r) := (coreReads_touches ..).trans (coreReads_touches ..)

include hset hw hflr hri hlid

theorem exec_launchAccept : exec (.launchAccept pkg q) s = .next
    (match schedRead (acceptReads s pkg (getLaunchQ s (pkg, q)) (leNat ri)) pkg (getLaunchQ s (pkg, q)).part
        (recordAt (getLaunchQ s (pkg, q)) (leNat ri)) 64 with
      | none => acceptReads s pkg (getLaunchQ s (pkg, q)) (leNat ri)
      | some b =>
        if field b 56 8 ≠ (leNat ri + 1) % 2 ^ 64 then acceptReads s pkg (getLaunchQ s (pkg, q)) (leNat ri)
        else match schedWrite (acceptReads s pkg (getLaunchQ s (pkg, q)) (leNat ri)) pkg (getLaunchQ s (pkg, q)).part
            ((getLaunchQ s (pkg, q)).base.toNat + 8) (leBytes 8 ((leNat ri + 1) % 2 ^ 64)) with
          | none => acceptReads s pkg (getLaunchQ s (pkg, q)) (leNat ri)
          | some v => accepted v pkg q lid b (getLaunchQ s (pkg, q)) (leNat ri)) := by
  show execLaunchAccept pkg q s = _
  unfold execLaunchAccept
  have hn : ¬ (!(getLaunchQ s (pkg, q)).set ∨ 16 ≤ (getLaunchQ s (pkg, q)).window.length ∨
      (getPart s (pkg, (getLaunchQ s (pkg, q)).part)).flr ≠ 0) := by
    rw [hset, hflr]
    simpa using hw
  refine (congrArg Host.Outcome.next (if_neg hn)).trans ?_
  rw [hri, hlid]
  rfl

end

theorem asyncs_answerLaunch (s : State) (pkg q idx lid : Nat) (k : Tid) : (getThr (answerLaunch s pkg q idx lid) k).asyncs =
    (getThr s k).asyncs.map fun a =>
      if k.pkg = pkg ∧ a.wait = .launch q idx then { a with wait := .ready (okWord lid) } else a := by
  unfold answerLaunch getThr tget
  rw [tfind_tmap]
  cases tfind k s.threads with
  | none => rfl
  | some th =>
    show (if k.pkg ≠ pkg then th else _).asyncs = _
    by_cases hk : k.pkg = pkg
    · rw [if_neg (not_not_intro hk)]
      exact List.map_congr_left fun a _ => by simp only [hk, true_and]
    · rw [if_pos hk]
      simp only [hk, false_and, if_false, List.map_id']
      rfl

theorem accepted_spec {s v : State} {pkg q lid r : Nat} {b : List Byte} {lq : LaunchQ}
    (hv : Touches [.engines, .hbm, .hostMem, .ecc, .eccL0, .bankModes] s v) :
    let t := accepted v pkg q lid b lq r
    t.hbm = v.hbm ∧ t.hostMem = v.hostMem ∧ t.l0 = s.l0 ∧
      (∃ l, getLaunch t (pkg, lid) = some l ∧ l.record = recOfBytes b ∧ l.part = lq.part ∧ l.queue = q ∧ l.state = 0 ∧
        l.waitOk = decide ((recOfBytes b).nwait = 0)) ∧
      (∀ k, k ≠ (pkg, lid) → getLaunch t k = getLaunch s k) ∧
      (getLaunchQ t (pkg, q)).window = lq.window ++ [(r, lid)] ∧
      ∀ k, (getThr t k).asyncs = (getThr s k).asyncs.map fun a =>
        if k.pkg = pkg ∧ a.wait = .launch q r then { a with wait := .ready (okWord lid) } else a := by
  intro t
  refine ⟨rfl, rfl, hv.same .l0 (by decide), ⟨acceptedLaunch b lq q (fresh v).1, getLaunch_setLaunch .., rfl, rfl, rfl, rfl, rfl⟩,
    fun k hk => ?_, congrArg LaunchQ.window (getLaunchQ_setLaunchQ ..), fun k => ?_⟩
  · exact (getLaunch_setLaunch_other _ _ hk).trans (hv.getLaunch (by decide) k)
  · exact (asyncs_answerLaunch ..).trans (congrArg (fun th : Thread => th.asyncs.map _) (hv.getThr (by decide) k))

end Sys2Proof.Machine
end

section
/-!
PROOFS. Proofs/LaunchRuns.lean: launches start, fail and complete (spec/12 R278 to R281).
-/
namespace Sys2Proof.Machine

/-! ### A gang of one that fails (R278, R281) -/

theorem leaveWindow_left (s : State) (pkg q : Nat) (m : Nat × Launch) :
    ∀ w ∈ (getLaunchQ (leaveWindow s pkg q [m]) (pkg, q)).window, w.2 ≠ m.1 := by
  intro w hw
  unfold leaveWindow modLaunchQ at hw
  rw [getLaunchQ_setLaunchQ] at hw
  have h := (List.mem_filter.1 hw).2
  simpa using h

theorem startGang_fails {s : State} {pkg q c : Nat} {m : Nat × Launch} (hf : (getLaunchQ s (pkg, q)).failing = false)
    (hc : memberCode s pkg m.2 = some c) : startGang s pkg q [m] = some (failMember pkg c (leaveWindow s pkg q [m]) m) := by
  unfold startGang
  rw [if_neg (by simp [hf])]
  simp only [List.findSome?_cons, hc]
  rfl

theorem failMember_spec (pkg c : Nat) (s : State) (m : Nat × Launch) : ∃ rep,
    getLaunch (failMember pkg c s m) (pkg, m.1) = some { m.2 with state := 2, status := failWord m.1 0 c } ∧
      (failMember pkg c s m).reports = s.reports ++ [rep] ∧ rep.cause = 0x0205 ∧ rep.tval = failWord m.1 0 c := by
  unfold failMember
  exact ⟨_, getLaunch_setLaunch .., rfl, rfl, rfl⟩

/-! ### A gang of one that starts (R120, R278, R279) -/

theorem foldl_sources (x : Nat → SourceFire) : ∀ (is : List Nat) (s : State),
    (is.foldl (fun s i => { s with sources := s.sources ++ [x i] }) s).sources = s.sources ++ is.map x ∧
      Touches [.sources] s (is.foldl (fun s i => { s with sources := s.sources ++ [x i] }) s)
  | [], s => ⟨(List.append_nil _).symm, .rfl⟩
  | i :: is, s => by
    obtain ⟨h1, h2⟩ := foldl_sources x is { s with sources := s.sources ++ [x i] }
    exact ⟨h1.trans (List.append_assoc s.sources [x i] (is.map x)), .trans (.put rfl) h2⟩

/-- The launch SOURCEs of a graph (R120). -/
def launchSources (g : Graph) : List Nat :=
  (List.range g.ops.length).filter fun i => (g.ops[i]?).any fun o => decide (opKind o = 0x01) && bit (opCfg o 0) 251

/-- A launch that has started, alone in its gang. -/
def startedLaunch (l : Launch) (n k time : Nat) : Launch :=
  { l with gang := [n], srcLeft := k, unitHeld := true, activity := true, sampled := time }

/-- A launch SOURCE is asked to fire. -/
def launchFire (pkg n f : Nat) (l : Launch) (i : Nat) : SourceFire :=
  { pkg := pkg, graph := l.record.graph, op := i, lid := n, tag := BitVec.ofNat 64 (l.root.getD 0 * 2 ^ 48), atLaunch := true,
    id := f }

/-- What the firing of a member asks of its SOURCEs. -/
theorem fireMember_spec {s : State} {pkg : Nat} {m : Nat × Launch} {g : Graph} {l : Launch}
    (hg : getGraph s (pkg, m.2.record.graph) = some g) (hl : getLaunch s (pkg, m.1) = some l) (hsrc : launchSources g ≠ []) :
    getLaunch (fireMember pkg [m.1] s m) (pkg, m.1) =
        some (startedLaunch l m.1 (launchSources g).length (getPkg s pkg).time) ∧
      getBreak (fireMember pkg [m.1] s m) (pkg, m.1) = (getPart s (pkg, l.part)).brk ∧
      (fireMember pkg [m.1] s m).sources.map (fun x => (x.graph, x.op, x.lid, x.atLaunch)) =
        s.sources.map (fun x => (x.graph, x.op, x.lid, x.atLaunch)) ++
          (launchSources g).map fun i => (l.record.graph, i, m.1, true) := by
  have he : (launchSources g).isEmpty = false := by simpa using hsrc
  unfold fireMember
  rw [hg, hl]
  dsimp only
  rw [show List.filter _ (List.range g.ops.length) = launchSources g from rfl, he, Bool.not_false]
  obtain ⟨h1, h2⟩ := foldl_sources
    (launchFire pkg m.1 (fresh (setLaunch s (pkg, m.1) (startedLaunch l m.1 (launchSources g).length (getPkg s pkg).time))).1 l)
    (launchSources g) (setBreak (fresh (setLaunch s (pkg, m.1) (startedLaunch l m.1 (launchSources g).length
      (getPkg s pkg).time))).2 (pkg, m.1) (getPart s (pkg, l.part)).brk)
  refine ⟨?_, ?_, ?_⟩
  · exact ((traceClass_touches ..).getLaunch (by decide) _).trans ((h2.getLaunch (by decide) _).trans (getLaunch_setLaunch ..))
  · refine (congrArg (tget false (pkg, m.1)) ((traceClass_touches ..).same .breaks (by decide))).trans ?_
    exact (congrArg (tget false (pkg, m.1)) (h2.same .breaks (by decide))).trans (getBreak_setBreak ..)
  · refine (congrArg (List.map _) (Eq.trans ((traceClass_touches ..).same .sources (by decide)) h1)).trans ?_
    rw [List.map_append, List.map_map]
    rfl

theorem getGraph_modRegion_ops (s : State) (pkg graph region : Nat) (f : Region → Region) (k : Nat × Nat) :
    (getGraph (modRegion s pkg graph region f) k).map (·.ops) = (getGraph s k).map (·.ops) := by
  unfold modRegion
  by_cases hk : k = (pkg, graph)
  · subst hk
    rw [getGraph_modGraph, Option.map_map]
    rfl
  · rw [getGraph_modGraph_other _ _ hk]

/-- The drawing of a root leaves a launch with its root and every graph with its operators. -/
theorem drawRoot_spec {v w : State} {pkg : Nat} {m : Nat × Launch} {l : Launch} (h : drawRoot pkg v m = some w)
    (hl : getLaunch v (pkg, m.1) = some l) :
    (∃ c, getLaunch w (pkg, m.1) = some { l with state := 1, root := some c, unitHeld := true }) ∧
      ∀ k, (getGraph w k).map (·.ops) = (getGraph v k).map (·.ops) := by
  unfold drawRoot at h
  obtain ⟨x, hx, rfl⟩ := Option.map_eq_some_iff.1 h
  have ht : Touches [.graphs] v x.2 := by
    have := drawColour_touches v pkg m.2.record.graph 0 m.1 none true
    rw [hx] at this
    exact this
  have hlx : getLaunch x.2 (pkg, m.1) = some l := (ht.getLaunch (by decide) _).trans hl
  have hmod : modLaunch x.2 (pkg, m.1) (fun l => { l with state := 1, root := some x.1, unitHeld := true }) =
      setLaunch x.2 (pkg, m.1) { l with state := 1, root := some x.1, unitHeld := true } := by
    unfold modLaunch
    rw [hlx]
  rw [hmod]
  refine ⟨⟨x.1, ((holdLive_touches ..).getLaunch (by decide) _).trans (getLaunch_setLaunch ..)⟩, fun k => ?_⟩
  unfold holdLive modCol
  rw [getGraph_modRegion_ops, (Touches.put rfl : Touches [.launches] _ _).getGraph (by decide)]
  unfold drawColour at hx
  split at hx
  · obtain rfl := Option.some.inj hx
    exact getGraph_modRegion_ops ..
  · cases hx

theorem startGang_starts {s v w : State} {pkg q : Nat} {m : Nat × Launch} (hf : (getLaunchQ s (pkg, q)).failing = false)
    (hc : memberCode s pkg m.2 = none) (hv : resolveMember pkg s m = .ok v) (hw : drawRoot pkg v m = some w) :
    startGang s pkg q [m] = some (fireMember pkg [m.1] (leaveWindow w pkg q [m]) m) := by
  have hr : [m].foldl (fun (x : Except Nat State) m => x.bind fun s => resolveMember pkg s m) (.ok s) = .ok v := hv
  have hd : drawRoots pkg [m] v = some w := by
    unfold drawRoots
    rw [hw]
    rfl
  unfold startGang
  rw [if_neg (by simp [hf])]
  simp only [List.findSome?_cons, hc, List.findSome?_nil, hr, hd]
  rfl

theorem exec_launchStart_of {s t : State} {pkg q : Nat} {ms : List (Nat × Launch)} {pre post : List (Nat × List (Nat × Launch))}
    (ho : startOrder s pkg = pre ++ (q, ms) :: post) (hpre : ∀ h ∈ pre, startGang s pkg h.1 h.2 = none)
    (h : startGang s pkg q ms = some t) : exec (.launchStart pkg) s = .next t := by
  show execLaunchStart pkg s = _
  unfold execLaunchStart
  rw [ho, List.findSome?_append, List.findSome?_eq_none_iff.2 hpre, List.findSome?_cons, h]
  rfl

theorem exec_launchStart_held {s : State} {pkg : Nat} (h : ∀ h ∈ startOrder s pkg, startGang s pkg h.1 h.2 = none) :
    exec (.launchStart pkg) s = .next s := by
  show execLaunchStart pkg s = _
  unfold execLaunchStart
  rw [List.findSome?_eq_none_iff.2 h]
  rfl

theorem launchFails {s : State} {pkg q c : Nat} {m : Nat × Launch} {pre post : List (Nat × List (Nat × Launch))}
    (ho : startOrder s pkg = pre ++ (q, [m]) :: post) (hpre : ∀ h ∈ pre, startGang s pkg h.1 h.2 = none)
    (hf : (getLaunchQ s (pkg, q)).failing = false) (hc : memberCode s pkg m.2 = some c) :
    ∃ t rep, exec (.launchStart pkg) s = .next t ∧
      getLaunch t (pkg, m.1) = some { m.2 with state := 2, status := failWord m.1 0 c } ∧
      (∀ w ∈ (getLaunchQ t (pkg, q)).window, w.2 ≠ m.1) ∧ t.sources = s.sources ∧ t.reports = s.reports ++ [rep] ∧
      rep.cause = 0x0205 ∧ rep.tval = failWord m.1 0 c ∧ t.threads = s.threads ∧ SameBytes s t := by
  have hq : Touches [.launchQs] s (leaveWindow s pkg q [m]) := leaveWindow_touches ..
  have hm := failMember_touches pkg c (leaveWindow s pkg q [m]) m
  obtain ⟨rep, h1, h2, h3, h4⟩ := failMember_spec pkg c (leaveWindow s pkg q [m]) m
  have ht : Touches [.launches, .reports, .launchQs] s (failMember pkg c (leaveWindow s pkg q [m]) m) :=
    (hq.mono (by decide)).trans (hm.mono (by decide))
  exact ⟨_, rep, exec_launchStart_of ho hpre (startGang_fails hf hc), h1,
    (hm.getLaunchQ (by decide) (pkg, q)).symm ▸ leaveWindow_left s pkg q m, ht.same .sources (by decide),
    h2.trans (congrArg (· ++ [rep]) (hq.same .reports (by decide))), h3, h4, ht.same .threads (by decide),
    ht.sameBytes (by decide)⟩

theorem launchStarts {s v w : State} {pkg q : Nat} {m : Nat × Launch} {l : Launch} {g : Graph}
    {pre post : List (Nat × List (Nat × Launch))}
    (ho : startOrder s pkg = pre ++ (q, [m]) :: post) (hpre : ∀ h ∈ pre, startGang s pkg h.1 h.2 = none)
    (hf : (getLaunchQ s (pkg, q)).failing = false) (hc : memberCode s pkg m.2 = none)
    (hg : getGraph s (pkg, m.2.record.graph) = some g) (hv : resolveMember pkg s m = .ok v)
    (hl : getLaunch v (pkg, m.1) = some l) (hw : drawRoot pkg v m = some w) (hsrc : launchSources g ≠ []) :
    ∃ t c, exec (.launchStart pkg) s = .next t ∧
      getLaunch t (pkg, m.1) = some { l with state := 1, root := some c, unitHeld := true, gang := [m.1],
                                             srcLeft := (launchSources g).length, activity := true,
                                             sampled := (getPkg s pkg).time } ∧
      getBreak t (pkg, m.1) = (getPart s (pkg, l.part)).brk ∧
      (∀ x ∈ (getLaunchQ t (pkg, q)).window, x.2 ≠ m.1) ∧
      t.sources.map (fun x => (x.graph, x.op, x.lid, x.atLaunch)) =
        s.sources.map (fun x => (x.graph, x.op, x.lid, x.atLaunch)) ++
          (launchSources g).map (fun i => (l.record.graph, i, m.1, true)) ∧ t.threads = s.threads ∧ SameBytes s t := by
  have hrv : Touches [.launches, .chans, .groups, .reports] s v := by
    have h := resolveMember_touches pkg s m
    rw [hv] at h
    exact h
  have hdw : Touches [.graphs, .launches] v w := by
    have h := drawRoot_touches pkg v m
    rw [hw] at h
    exact h
  have hq : Touches [.launchQs] w (leaveWindow w pkg q [m]) := leaveWindow_touches ..
  have hu : Touches [.launches, .chans, .groups, .reports, .graphs, .launchQs] s (leaveWindow w pkg q [m]) :=
    ((hrv.mono (by decide)).trans (hdw.mono (by decide))).trans (hq.mono (by decide))
  obtain ⟨⟨c, hlw⟩, hops⟩ := drawRoot_spec hw hl
  have hgu : (getGraph (leaveWindow w pkg q [m]) (pkg, m.2.record.graph)).map (·.ops) = some g.ops := by
    rw [hq.getGraph (by decide), hops, hrv.getGraph (by decide), hg]
    rfl
  obtain ⟨g', hg', hgo⟩ := Option.map_eq_some_iff.1 hgu
  have hsame : launchSources g' = launchSources g := by
    unfold launchSources
    rw [hgo]
  obtain ⟨h1, h2, h3⟩ := fireMember_spec hg' ((hq.getLaunch (by decide) _).trans hlw) (hsame ▸ hsrc)
  rw [hsame] at h1 h3
  have hm := fireMember_touches pkg [m.1] (leaveWindow w pkg q [m]) m
  have ht : Touches [.launches, .chans, .groups, .reports, .graphs, .launchQs, .updates, .breaks, .sources, .traces, .nextId] s
      (fireMember pkg [m.1] (leaveWindow w pkg q [m]) m) := (hu.mono (by decide)).trans (hm.mono (by decide))
  refine ⟨_, c, exec_launchStart_of ho hpre (startGang_starts hf hc hv hw), ?_, ?_,
    (hm.getLaunchQ (by decide) (pkg, q)).symm ▸ leaveWindow_left w pkg q m, ?_, ht.same .threads (by decide),
    ht.sameBytes (by decide)⟩
  · rw [h1, hu.getPkg (by decide)]
    rfl
  · rw [h2]
    exact congrArg (fun p : Partition => p.brk) (congrArg (tget _ (pkg, l.part)) (hu.same .partitions (by decide)))
  · rw [h3]
    exact congrArg (fun x : List SourceFire => x.map _ ++ _) (hu.same .sources (by decide))

/-! ### Completion (R281) -/

/-- The thread of a launch's trap is told, where it is the partition's. -/
def tellTrap (s : State) (pkg : Nat) (l : Launch) : State :=
  if (getThr s (trapThread pkg l.record)).part = l.part then setEvent s (trapThread pkg l.record) else s

/-- The LID of a launch is freed. -/
def freeLid (s : State) (pkg n : Nat) (l : Launch) : State :=
  { s with launches := tdel (pkg, n) s.launches,
           launchQs := tmap (fun k q => if k.1 = pkg then leaveQueue l n q else q) s.launchQs }

theorem tellTrap_touches (s : State) (pkg : Nat) (l : Launch) : Touches [.threads] s (tellTrap s pkg l) := by
  unfold tellTrap
  split
  · exact .put rfl
  · exact .rfl

theorem getThr_tellTrap (s : State) (pkg : Nat) (l : Launch) :
    ((getThr s (trapThread pkg l.record)).part = l.part → getThr (tellTrap s pkg l) (trapThread pkg l.record) =
      { getThr s (trapThread pkg l.record) with event := true }) ∧
      ∀ h, h ≠ trapThread pkg l.record → getThr (tellTrap s pkg l) h = getThr s h := by
  refine ⟨fun h => ?_, fun h hne => ?_⟩
  · unfold tellTrap
    rw [if_pos h]
    exact getThr_modThr ..
  · unfold tellTrap
    split
    · exact getThr_modThr_other _ _ hne
    · rfl

theorem freeLid_touches (s : State) (pkg n : Nat) (l : Launch) : Touches [.launches, .launchQs] s (freeLid s pkg n l) := .put rfl

theorem tfind_tdel_other {κ α : Type} [DecidableEq κ] {k j : κ} (t : Tbl κ α) (h : j ≠ k) : tfind j (tdel k t) = tfind j t :=
  (tfind_filter (fun x => x != k) j t).trans (if_pos (by simpa using h))

theorem getLaunch_freeLid (s : State) (pkg n : Nat) (l : Launch) : getLaunch (freeLid s pkg n l) (pkg, n) = none ∧
    ∀ k, k ≠ (pkg, n) → getLaunch (freeLid s pkg n l) k = getLaunch s k :=
  ⟨tfind_tdel_same .., fun _ hk => tfind_tdel_other s.launches hk⟩

theorem freeLid_window (s : State) (pkg n : Nat) (l : Launch) (k : Nat × Nat) (hk : k.1 = pkg) :
    ∀ w ∈ (getLaunchQ (freeLid s pkg n l) k).window, w.2 ≠ n := by
  have e : getLaunchQ (freeLid s pkg n l) k = ((tfind k s.launchQs).map (leaveQueue l n)).getD {} := by
    unfold getLaunchQ tget
    rw [show (freeLid s pkg n l).launchQs = tmap (fun k q => if k.1 = pkg then leaveQueue l n q else q) s.launchQs from rfl,
      tfind_tmap]
    cases tfind k s.launchQs with
    | none => rfl
    | some q => exact if_pos hk
  rw [e]
  cases tfind k s.launchQs with
  | none => exact fun w hw => absurd hw List.not_mem_nil
  | some q =>
    intro w hw
    simpa using (List.mem_filter.1 hw).2

theorem finishLaunch_eq {s : State} {pkg n : Nat} {l : Launch} (hl : getLaunch s (pkg, n) = some l) (ha : s.allocWait = []) :
    finishLaunch s pkg n = freeLid (tellTrap (signalEvent (detachLaunch s pkg n) pkg l) pkg l) pkg n l := by
  have h1 : Touches [.chans, .groups, .hbm, .ecc, .eccL0, .bankModes] s (signalEvent (detachLaunch s pkg n) pkg l) :=
    ((detachLaunch_touches ..).mono (by decide)).trans ((signalEvent_touches ..).mono (by decide))
  have h2 : (freeLid (tellTrap (signalEvent (detachLaunch s pkg n) pkg l) pkg l) pkg n l).allocWait = [] :=
    Eq.trans ((freeLid_touches ..).same .allocWait (by decide)) (Eq.trans ((tellTrap_touches ..).same .allocWait (by decide))
      (Eq.trans (h1.same .allocWait (by decide)) ha))
  unfold finishLaunch
  rw [hl]
  show reevalAll (freeLid (tellTrap (signalEvent (detachLaunch s pkg n) pkg l) pkg l) pkg n l) = _
  unfold reevalAll
  rw [h2]
  rfl

theorem signalEvent_silent {s : State} {pkg : Nat} {l : Launch} (h : l.record.sv = false) : signalEvent s pkg l = s := by
  unfold signalEvent
  rw [h]
  rfl

theorem memRead_memWrite_apart (m : Memory) (x y n : Nat) (bs : List Byte) (h : y + n ≤ x ∨ x + bs.length ≤ y) :
    memRead (memWrite m x bs) y n = memRead m y n :=
  List.map_congr_left fun k hk => memGet_memWrite_other _ _ _ (by have := List.mem_range.1 hk; omega)

/-- The signal event of a launch: its counter has advanced and its status stands beside it. -/
theorem signalEvent_spec {s : State} {pkg g : Nat} {l : Launch} (hs : s.MemOk) (h : l.record.sv = true)
    (hg : translateOpen s (qmEng pkg 0) l.part .op .atomic l.record.sig.toNat = .hbm g) :
    memRead (signalEvent s pkg l).hbm (g + 8) 8 = leBytes 8 l.status.toNat ∧
      memRead (signalEvent s pkg l).hbm g 8 = leBytes 8 ((leNat (memRead s.hbm g 8) + 1) % 2 ^ 64) ∧
      ∀ x, x < g ∨ g + 16 ≤ x → memGet (signalEvent s pkg l).hbm x = memGet s.hbm x := by
  obtain ⟨hwf, -⟩ := hs
  have e : (signalEvent s pkg l).hbm = memWrite (memWrite s.hbm (g + 8) (leBytes 8 l.status.toNat)) g
      (leBytes 8 ((leNat (memRead s.hbm g 8) + 1) % 2 ^ 64)) := by
    unfold signalEvent
    rw [h, Bool.not_true]
    simp only [Bool.false_eq_true, if_false, hg]
    rw [writeHbm_hbm, writeHbm_hbm, memRead_memWrite_apart _ _ _ _ _ (Or.inl (Nat.le_refl _))]
  have hlen : ∀ v, (leBytes 8 v).length = 8 := leBytes_length 8
  rw [e]
  refine ⟨?_, ?_, fun x hx => ?_⟩
  · rw [memRead_memWrite_apart _ _ _ _ _ (by rw [hlen]; omega), memRead_memWrite hwf (Nat.le_of_eq (hlen _).symm),
      List.take_of_length_le (Nat.le_of_eq (hlen _))]
  · rw [memRead_memWrite (memWrite_wf _ _ hwf) (Nat.le_of_eq (hlen _).symm), List.take_of_length_le (Nat.le_of_eq (hlen _))]
  · rw [memGet_memWrite_other _ _ _ (by rw [hlen]; omega), memGet_memWrite_other _ _ _ (by rw [hlen]; omega)]

theorem exec_launchComplete_waits {s : State} {pkg n : Nat} {l : Launch} (hl : getLaunch s (pkg, n) = some l)
    (h : l.state ≠ 2 ∨ l.killed = true ∨ writesPending s pkg n = true ∨ workPending s pkg n = true) :
    exec (.launchComplete pkg n) s = .next s := by
  show execLaunchComplete pkg n s = _
  unfold execLaunchComplete
  rw [hl]
  exact congrArg Host.Outcome.next (if_pos h)

theorem launchCompletes {s : State} {pkg n : Nat} {l : Launch} (hl : getLaunch s (pkg, n) = some l)
    (h2 : l.state = 2) (hk : l.killed = false) (hwr : writesPending s pkg n = false) (hwk : workPending s pkg n = false)
    (ha : s.allocWait = []) :
    ∃ t, exec (.launchComplete pkg n) s = .next t ∧ getLaunch t (pkg, n) = none ∧
      (∀ k, k ≠ (pkg, n) → getLaunch t k = getLaunch s k) ∧
      (∀ k, k.1 = pkg → ∀ w ∈ (getLaunchQ t k).window, w.2 ≠ n) ∧
      ((getThr s (trapThread pkg l.record)).part = l.part →
        getThr t (trapThread pkg l.record) = { getThr s (trapThread pkg l.record) with event := true }) ∧
      (∀ h, h ≠ trapThread pkg l.record → getThr t h = getThr s h) ∧ (l.record.sv = false → SameBytes s t) ∧
      ∀ g, s.MemOk → l.record.sv = true →
        translateOpen s (qmEng pkg 0) l.part .op .atomic l.record.sig.toNat = .hbm g →
        memRead t.hbm (g + 8) 8 = leBytes 8 l.status.toNat ∧
        memRead t.hbm g 8 = leBytes 8 ((leNat (memRead s.hbm g 8) + 1) % 2 ^ 64) ∧
        ∀ x, x < g ∨ g + 16 ≤ x → memGet t.hbm x = memGet s.hbm x := by
  obtain ⟨u, hu, hex⟩ : ∃ u, Touches [.traces] s u ∧ exec (.launchComplete pkg n) s = .next (finishLaunch u pkg n) := by
    refine ⟨_, traceClass_touches s pkg ((((getGraph s (pkg, l.record.graph)).bind fun g => g.reloc.head?).map (·.1)).getD 0)
      l.part 1 0 l.status.toNat 0 n 0x08, ?_⟩
    show execLaunchComplete pkg n s = _
    unfold execLaunchComplete
    rw [hl]
    exact congrArg Host.Outcome.next (if_neg (by simp [h2, hk, hwr, hwk]))
  have hdet : Touches [.traces, .chans, .groups] s (detachLaunch u pkg n) :=
    (hu.mono (by decide)).trans ((detachLaunch_touches u pkg n).mono (by decide))
  have hsig : Touches [.traces, .chans, .groups, .hbm, .ecc, .eccL0, .bankModes] s (signalEvent (detachLaunch u pkg n) pkg l) :=
    (hdet.mono (by decide)).trans ((signalEvent_touches ..).mono (by decide))
  have hend : Touches [.threads, .launches, .launchQs] (signalEvent (detachLaunch u pkg n) pkg l)
      (freeLid (tellTrap (signalEvent (detachLaunch u pkg n) pkg l) pkg l) pkg n l) :=
    ((tellTrap_touches ..).mono (by decide)).trans ((freeLid_touches ..).mono (by decide))
  obtain ⟨hnone, hother⟩ := getLaunch_freeLid (tellTrap (signalEvent (detachLaunch u pkg n) pkg l) pkg l) pkg n l
  obtain ⟨htold, hrest⟩ := getThr_tellTrap (signalEvent (detachLaunch u pkg n) pkg l) pkg l
  refine ⟨_, hex.trans (congrArg Host.Outcome.next (finishLaunch_eq ((hu.getLaunch (by decide) _).trans hl)
    (Eq.trans (hu.same .allocWait (by decide)) ha))), hnone, fun k hk => ?_, freeLid_window _ _ _ _, fun hp => ?_, fun h hne => ?_,
    fun hsv => ?_, fun g hs hsv htr => ?_⟩
  · exact (hother k hk).trans (((tellTrap_touches ..).getLaunch (by decide) k).trans (hsig.getLaunch (by decide) k))
  · rw [hsig.getThr (by decide)] at htold
    exact ((freeLid_touches ..).getThr (by decide) _).trans (htold hp)
  · exact ((freeLid_touches ..).getThr (by decide) _).trans ((hrest h hne).trans (hsig.getThr (by decide) h))
  · rw [signalEvent_silent hsv] at hend ⊢
    exact SameBytes.trans (hdet.sameBytes (by decide)) (hend.sameBytes (by decide))
  · have hsee : SeesAlike s (detachLaunch u pkg n) := hdet.seesAlike (by decide) (.of_modes (hdet.same .bankModes (by decide)))
    have h := signalEvent_spec (hdet.memOk (by decide) hs) hsv ((hsee.translateOpen ..).trans htr)
    rw [hsee.hbm] at h
    rw [hend.same .hbm (by decide)]
    exact h

/-- Settles O50: the poll of a gang leaves each member's events as the state before gives them, for a read changes no code that
can be corrected. -/
theorem launchSteps : Obligations.LaunchSteps := by
  unfold Obligations.LaunchSteps
  intro s pkg q
  refine ⟨?_, ?_, fun h => mem_startOrder, startOrder_pairwise s pkg, exec_launchStart_held, ?_, ?_⟩
  · intro lq at_ ri lid b hset hw hflr hri hlid r rec_ s' hb
    have hex := exec_launchAccept hset hw hflr hri hlid
    have ht : Touches [.engines, .bankModes] s s' := acceptReads_touches s pkg lq r
    rw [show schedRead (acceptReads s pkg lq r) pkg lq.part (recordAt lq r) 64 = some b from hb] at hex
    refine ⟨fun hseal => ⟨hex.trans (congrArg Host.Outcome.next (if_pos hseal)), ht.sameBytes (by decide),
      ht.same .threads (by decide)⟩, fun v hseal hv => ⟨accepted v pkg q lid b lq r, ?_, ?_⟩⟩
    · refine hex.trans (congrArg Host.Outcome.next ((if_neg (not_not_intro hseal)).trans ?_))
      rw [show schedWrite (acceptReads s pkg lq r) pkg lq.part (lq.base.toNat + 8) (leBytes 8 ((r + 1) % 2 ^ 64)) = some v from hv]
    · have hw := schedWrite_touches s' pkg lq.part at_ (leBytes 8 ((r + 1) % 2 ^ 64))
      rw [hv] at hw
      exact accepted_spec ((ht.mono (by decide)).trans (Touches.mono hw (by decide)))
  · exact eventPoll_spec s pkg q
  · intro m pre post ho hpre hf
    refine ⟨fun c hc => launchFails ho hpre hf hc, ?_⟩
    intro g v w l hc hg hv hl hw src hsrc
    exact launchStarts ho hpre hf hc hg hv hl hw hsrc
  · intro n l hl
    exact ⟨exec_launchComplete_waits hl, fun h2 hk hwr hwk ha => launchCompletes hl h2 hk hwr hwk ha⟩

end Sys2Proof.Machine
end

section
/-!
PROOFS. Proofs/StreamCmds.lean: stream commands begin, take their circuit and move their bytes (spec/11 R249; spec/13 R298;
spec/17 R361, R365).
-/
namespace Sys2Proof.Machine

/-! ### Command slots -/

theorem Touches.getPort {l : List Field} {s t : State} (h : Touches l s t) (hl : l.contains .streams = false) (k : Eng × Nat) :
    getPort t k = getPort s k := by
  have e : t.streams = s.streams := h.same .streams (by simpa using hl)
  unfold Machine.getPort
  rw [e]

theorem Touches.cmdAt {l : List Field} {s t : State} (h : Touches l s t) (hl : l.contains .streams = false) (k : Eng × Nat)
    (n : Nat) : cmdAt t k n = cmdAt s k n := by
  unfold Machine.cmdAt
  rw [h.getPort hl]

theorem getPort_modPort_same (s : State) (k : Eng × Nat) (f : StreamPort → StreamPort) : getPort (modPort s k f) k = f (getPort s k) :=
  tget_tset_same ..

theorem getPort_modPort_other {s : State} {k j : Eng × Nat} (f : StreamPort → StreamPort) (h : j ≠ k) :
    getPort (modPort s k f) j = getPort s j := tget_tset_other _ _ _ h

theorem cmdAt_setCmd (s : State) (k : Eng × Nat) (n : Nat) (c : StreamCmd) : cmdAt (setCmd s k n c) k n = some c := by
  unfold cmdAt setCmd
  rw [getPort_modPort_same]
  exact tfind_tset_same ..

theorem cmdAt_setCmd_other {s : State} {k j : Eng × Nat} {n m : Nat} (c : StreamCmd) (h : (j, m) ≠ (k, n)) :
    cmdAt (setCmd s k n c) j m = cmdAt s j m := by
  unfold cmdAt setCmd
  by_cases hj : j = k
  · subst hj
    rw [getPort_modPort_same]
    exact tfind_tset_other _ _ fun e => h (e ▸ rfl)
  · rw [getPort_modPort_other _ hj]

theorem cmdAt_dropCmd (s : State) (k : Eng × Nat) (n id : Nat) : cmdAt (dropCmd s k n id) k n = none := by
  show tfind n (getPort (modPort s k fun p => { p with slots := tdel n p.slots }) k).slots = none
  rw [getPort_modPort_same]
  exact tfind_tdel_same ..

theorem cmdAt_dropCmd_other {s : State} {k j : Eng × Nat} {n m : Nat} (id : Nat) (h : (j, m) ≠ (k, n)) :
    cmdAt (dropCmd s k n id) j m = cmdAt s j m := by
  show tfind m (getPort (modPort s k fun p => { p with slots := tdel n p.slots }) j).slots = tfind m (getPort s j).slots
  by_cases hj : j = k
  · subst hj
    rw [getPort_modPort_same]
    exact tfind_tdel_other _ fun e => h (e ▸ rfl)
  · rw [getPort_modPort_other _ hj]

/-! ### Circuits (R365) -/

theorem tfind_takeLanes {pkg id : Nat} {k : Nat × Nat × Nat × Nat} {v : Nat} : ∀ (ls : List (Nat × Nat))
    (t : Tbl (Nat × Nat × Nat × Nat) Nat), tfind k t = some v → tfind k (takeLanes pkg id ls t) = some v
  | [], _, h => h
  | l :: ls, t, h => by
    unfold takeLanes
    split
    · exact tfind_takeLanes ls t h
    · split
      · exact h
      · rename_i n hn
        refine tfind_takeLanes ls _ ((tfind_tset_other id t fun e => ?_).trans h)
        have hfree : (tfind (pkg, l.1, l.2, n) t).isNone = true :=
          List.find?_some (p := fun k => (tfind (pkg, l.1, l.2, k) t).isNone) (l := List.range 8) hn
        rw [← e, h] at hfree
        cases hfree

section
variable {s : State} {e : Eng} {port slot : Nat} {c : StreamCmd} (hc : cmdAt s (e, port) slot = some c)
include hc

theorem exec_streamCommandBegin_waits (h : c.phase ≠ (if c.consumes then 1 else 2) ∨ c.held = true ∨
    mayBegin (getPort s (e, port)) e c = false) : exec (.streamCommandBegin e port slot) s = .next s := by
  show execStreamCommandBegin e port slot s = _
  unfold execStreamCommandBegin
  simp only [hc]
  exact congrArg Host.Outcome.next (if_pos (by simpa using h))

theorem exec_streamCircuitSetup_waits (h : c.phase ≠ 1 ∨ c.consumes = true ∨ mayBegin (getPort s (e, port)) e c = false) :
    exec (.streamCircuitSetup e port slot) s = .next s := by
  show execStreamCircuitSetup e port slot s = _
  unfold execStreamCircuitSetup
  simp only [hc]
  exact congrArg Host.Outcome.next (if_pos (by simpa using h))

theorem exec_streamCommandComplete_waits (h : c.phase ≠ 3 ∨ c.held = true ∨ c.consumes = true) :
    exec (.streamCommandComplete e port slot) s = .next s := by
  show execStreamCommandComplete e port slot s = _
  unfold execStreamCommandComplete
  simp only [hc]
  exact congrArg Host.Outcome.next (if_pos h)

/-! ### Beginning (R249) -/

section
variable (hp : c.phase = (if c.consumes then 1 else 2)) (hh : c.held = false) (hm : mayBegin (getPort s (e, port)) e c = true)
include hp hh hm

theorem exec_streamCommandBegin : exec (.streamCommandBegin e port slot) s =
    .next (if e.elem ≠ 24 then
        if (getTile s (cmdTile e c)).state = 0 ∨ !cmdInTile s e c then
          failCmd s (e, port) slot c (0x0109, stateTval (cmdTile e c) 0)
        else setCmd s (e, port) slot { c with phase := 3 }
      else match cmdPieces s e c with
        | .error x => failCmd s (e, port) slot c x
        | .ok _ => setCmd s (e, port) slot { c with phase := 3 }) := by
  show execStreamCommandBegin e port slot s = _
  unfold execStreamCommandBegin
  simp only [hc]
  exact congrArg Host.Outcome.next (if_neg (by simp [hp, hh, hm]))

theorem streamBegins_tile (he : e.elem ≠ 24) (ht : (getTile s (cmdTile e c)).state ≠ 0) (hi : cmdInTile s e c = true) :
    exec (.streamCommandBegin e port slot) s = .next (setCmd s (e, port) slot { c with phase := 3 }) :=
  (exec_streamCommandBegin hc hp hh hm).trans (congrArg Host.Outcome.next ((if_pos he).trans (if_neg (by simp [ht, hi]))))

theorem streamBegins_hbm {ps : List Piece} (he : e.elem = 24) (hps : cmdPieces s e c = .ok ps) :
    exec (.streamCommandBegin e port slot) s = .next (setCmd s (e, port) slot { c with phase := 3 }) := by
  refine (exec_streamCommandBegin hc hp hh hm).trans (congrArg Host.Outcome.next ((if_neg (not_not_intro he)).trans ?_))
  rw [hps]

theorem streamBegin_drops (he : e.elem ≠ 24) (h : (getTile s (cmdTile e c)).state = 0 ∨ cmdInTile s e c = false) :
    ∃ t rep, exec (.streamCommandBegin e port slot) s = .next t ∧ cmdAt t (e, port) slot = none ∧
      t.reports = s.reports ++ [rep] ∧ rep.cause = 0x0109 ∧ t.threads = s.threads ∧ SameBytes s t := by
  have hex := (exec_streamCommandBegin hc hp hh hm).trans
    (congrArg Host.Outcome.next ((if_pos he).trans (if_pos (by simpa using h))))
  have hf : failCmd s (e, port) slot c (0x0109, stateTval (cmdTile e c) 0) =
      raiseCmd (dropCmd (dropWalk s e c.part (stateTval (cmdTile e c) 0)) (e, port) slot c.id) (e, port) c 0x0109
        (stateTval (cmdTile e c) 0) .none := rfl
  have ht : Touches [.walks, .reqs, .streams, .lanes] s (dropCmd (dropWalk s e c.part (stateTval (cmdTile e c) 0)) (e, port) slot c.id) :=
    ((dropWalk_touches ..).mono (by decide)).trans ((dropCmd_touches ..).mono (by decide))
  have hr := raiseCmd_touches (dropCmd (dropWalk s e c.part (stateTval (cmdTile e c) 0)) (e, port) slot c.id) (e, port) c 0x0109
    (stateTval (cmdTile e c) 0) .none
  rw [hf] at hex
  exact ⟨_, _, hex, (hr.cmdAt (by decide) _ _).trans (cmdAt_dropCmd ..), rfl, rfl,
    Eq.trans (hr.same .threads (by decide)) (ht.same .threads (by decide)),
    SameBytes.trans (ht.sameBytes (by decide)) (hr.sameBytes (by decide))⟩

end

/-! ### The circuit of a producing command (R365) -/

section
variable {q : Eng × Nat} (hp : c.phase = 1) (hcons : c.consumes = false) (hm : mayBegin (getPort s (e, port)) e c = true)
  (hq : portOf e.pkg c.peer = some q)
include hp hcons hm hq

theorem exec_streamCircuitSetup : exec (.streamCircuitSetup e port slot) s = .next
    (if (routeLinks e q.1).all (hasLane (takeLanes e.pkg c.id (routeLinks e q.1) s.lanes) e.pkg c.id) then
      setCmd { s with lanes := takeLanes e.pkg c.id (routeLinks e q.1) s.lanes } (e, port) slot { c with phase := 2 }
    else { s with lanes := takeLanes e.pkg c.id (routeLinks e q.1) s.lanes }) := by
  show execStreamCircuitSetup e port slot s = _
  unfold execStreamCircuitSetup
  simp only [hc]
  refine congrArg Host.Outcome.next ((if_neg (by simp [hp, hcons, hm])).trans ?_)
  simp only [hq]

end

/-! ### Taking bursts -/

section
variable (hp : c.phase = 3) (hh : c.held = false) (hcons : c.consumes = false)
include hp hh hcons

theorem exec_streamCommandComplete : exec (.streamCommandComplete e port slot) s = .next
    (match c.burst with
      | none => takeBurst s (e, port) slot c
      | some b => moveBurst s (e, port) slot c b) := by
  show execStreamCommandComplete e port slot s = _
  unfold execStreamCommandComplete
  simp only [hc]
  exact congrArg Host.Outcome.next (if_neg (by simp [hp, hh, hcons]))

theorem exec_stream_takes (hb : c.burst = none) :
    exec (.streamCommandComplete e port slot) s = .next (takeBurst s (e, port) slot c) := by
  rw [exec_streamCommandComplete hc hp hh hcons, hb]

theorem exec_stream_moves {b : BurstRun} (hb : c.burst = some b) :
    exec (.streamCommandComplete e port slot) s = .next (moveBurst s (e, port) slot c b) := by
  rw [exec_streamCommandComplete hc hp hh hcons, hb]

end

end

/-- The burst that a producing command takes with a consuming one. -/
def nextBurst (q : Eng × Nat) (m : Nat) (c d : StreamCmd) : BurstRun :=
  { port := q, slot := m, peer := d.id, n := min 512 (min (cmdLen c - c.moved) (cmdLen d - d.moved)) }

section
variable {s : State} {k q : Eng × Nat} {slot m : Nat} {c d : StreamCmd} (hq : portOf k.1.pkg c.peer = some q)
include hq

theorem takeBurst_alone (h : consumerOf s k.1.pkg q k = none) : takeBurst s k slot c = s := by
  unfold takeBurst
  rw [hq, Option.bind_some, h]
  rfl

variable (hd : consumerOf s k.1.pkg q k = some (m, d))
include hd

theorem takeBurst_tile {bs : List Byte} {u : State} (he : k.1.elem ≠ 24)
    (hr : cmdRead s k.1 c (nextBurst q m c d).n = .ok (some (bs, u))) :
    takeBurst s k slot c = setCmd u k slot { c with burst := some { nextBurst q m c d with data := some bs } } := by
  unfold takeBurst
  rw [hq, Option.bind_some, hd]
  refine (if_neg he).trans ?_
  rw [show cmdRead s k.1 c (Nat.min 512 (Nat.min (cmdLen c - c.moved) (cmdLen d - d.moved))) = .ok (some (bs, u)) from hr]
  rfl

theorem takeBurst_hbm {ps : List Piece} (he : k.1.elem = 24) (hps : cmdPieces s k.1 c = .ok ps) :
    takeBurst s k slot c = issueAll (setCmd s k slot { c with burst := some { nextBurst q m c d with
        pieces := slicePieces ps c.moved (nextBurst q m c d).n } }) k.1
      ((sectorReads (slicePieces ps c.moved (nextBurst q m c d).n)).map fun p =>
        sectorReq p .read c.part c.lid (.stream k.1 c.id) none) := by
  unfold takeBurst
  rw [hq, Option.bind_some, hd]
  refine (if_pos he).trans ?_
  rw [hps]
  rfl

end

/-- The requests of a burst have gone out behind a change of the command. -/
theorem issueAll_after_setCmd {s : State} {k : Eng × Nat} {n : Nat} {c : StreamCmd} {e : Eng} {rs : List Req}
    (h : ∀ r ∈ rs, r.host = true ∨ r.owner.pkg = e.pkg) :
    ∃ qs, (issueAll (setCmd s k n c) e rs).reqs = s.reqs ++ qs ∧ cmdAt (issueAll (setCmd s k n c) e rs) k n = some c ∧
      (issueAll (setCmd s k n c) e rs).threads = s.threads ∧ SameBytes s (issueAll (setCmd s k n c) e rs) ∧
      ∀ {β : Type} (f : Req → β), (∀ r i, f { r with id := i } = f r) → qs.map f = rs.map f := by
  have h1 : Touches [.streams] s (setCmd s k n c) := setCmd_touches ..
  have h2 := issueAll_touches (setCmd s k n c) e rs
  obtain ⟨qs, hq, hf⟩ := issueAll_reqs (e := e) rs (setCmd s k n c) h
  exact ⟨qs, Eq.trans hq (congrArg (· ++ qs) (h1.same .reqs (by decide))),
    (h2.cmdAt (by decide) k n).trans (cmdAt_setCmd ..),
    Eq.trans (h2.same .threads (by decide)) (h1.same .threads (by decide)),
    SameBytes.trans (h1.sameBytes (by decide)) (h2.sameBytes (by decide)), hf⟩

/-! ### Both commands go on -/

/-- A command after a burst of m bytes. -/
def cmdAfter (c : StreamCmd) (m : Nat) : Option StreamCmd :=
  if cmdLen c ≤ c.moved + m then none else some { c with moved := c.moved + m, burst := none }

theorem stepCmd_cmdAt (s : State) (k : Eng × Nat) (n : Nat) (c : StreamCmd) (m : Nat) :
    cmdAt (stepCmd s k n c m) k n = cmdAfter c m ∧
      ∀ j i, (j, i) ≠ (k, n) → cmdAt (stepCmd s k n c m) j i = cmdAt s j i := by
  have hlen : cmdLen { c with moved := c.moved + m, burst := none } = cmdLen c := rfl
  unfold stepCmd cmdAfter
  dsimp only
  rw [hlen]
  split
  · refine ⟨((setEvent_touches ..).cmdAt (by decide) _ _).trans (cmdAt_dropCmd ..), fun j i hne => ?_⟩
    refine ((setEvent_touches ..).cmdAt (by decide) _ _).trans ((cmdAt_dropCmd_other _ hne).trans ?_)
    split
    · exact (cmdChunks_touches ..).cmdAt (by decide) _ _
    · rfl
  · exact ⟨cmdAt_setCmd .., fun j i hne => cmdAt_setCmd_other _ hne⟩

/-- The end of a command tells the thread that started it. -/
theorem endCmd_thr {s u : State} (k : Eng × Nat) (n : Nat) (c : StreamCmd) (hu : ∀ h, getThr u h = getThr s h) :
    (getThr (endCmd u k n c) c.by_).event = true ∧ (∀ h, h ≠ c.by_ → getThr (endCmd u k n c) h = getThr s h) ∧
      ∀ h, (getThr s h).event = true → (getThr (endCmd u k n c) h).event = true := by
  have hv : ∀ h, getThr (dropCmd u k n c.id) h = getThr s h := fun h =>
    ((dropCmd_touches ..).getThr (by decide) h).trans (hu h)
  have hby : (getThr (endCmd u k n c) c.by_).event = true := congrArg Thread.event (getThr_modThr ..)
  have hother : ∀ h, h ≠ c.by_ → getThr (endCmd u k n c) h = getThr s h :=
    fun h hne => (getThr_modThr_other _ _ hne).trans (hv h)
  refine ⟨hby, hother, fun h he => ?_⟩
  by_cases hb : h = c.by_
  · rw [hb]
    exact hby
  · rw [hother h hb]
    exact he

theorem stepCmd_thr (s : State) (k : Eng × Nat) (n : Nat) (c : StreamCmd) (m : Nat) :
    (cmdLen c ≤ c.moved + m → (getThr (stepCmd s k n c m) c.by_).event = true) ∧
      (∀ h, h ≠ c.by_ → getThr (stepCmd s k n c m) h = getThr s h) ∧
      ∀ h, (getThr s h).event = true → (getThr (stepCmd s k n c m) h).event = true := by
  have hlen : cmdLen { c with moved := c.moved + m, burst := none } = cmdLen c := rfl
  unfold stepCmd
  dsimp only
  rw [hlen]
  split
  · obtain ⟨h1, h2, h3⟩ := endCmd_thr (s := s) k n { c with moved := c.moved + m, burst := none }
      (u := if c.consumes then cmdChunks s k.1 { c with moved := c.moved + m, burst := none } else s) fun h => by
        split
        · exact (cmdChunks_touches ..).getThr (by decide) h
        · rfl
    exact ⟨fun _ => h1, h2, h3⟩
  · rename_i hn
    have ht : ∀ h, getThr (setCmd s k n { c with moved := c.moved + m, burst := none }) h = getThr s h :=
      fun h => (setCmd_touches ..).getThr (by decide) h
    exact ⟨fun h => absurd h hn, fun h _ => ht h, fun h he => (congrArg Thread.event (ht h)).trans he⟩

/-- Both commands of an accepted burst have gone on, in a state with the threads of s. -/
theorem stepBoth_spec {s u : State} {k : Eng × Nat} {n : Nat} {c d : StreamCmd} {b : BurstRun} (hne : (k, n) ≠ (b.port, b.slot))
    (hu : ∀ h, getThr u h = getThr s h) :
    (stepBoth u k n c b d).hbm = u.hbm ∧ (stepBoth u k n c b d).l0 = u.l0 ∧ (stepBoth u k n c b d).hostMem = u.hostMem ∧
      cmdAt (stepBoth u k n c b d) k n = cmdAfter c b.n ∧ cmdAt (stepBoth u k n c b d) b.port b.slot = cmdAfter d b.n ∧
      (cmdLen c ≤ c.moved + b.n → (getThr (stepBoth u k n c b d) c.by_).event = true) ∧
      (cmdLen d ≤ d.moved + b.n → (getThr (stepBoth u k n c b d) d.by_).event = true) ∧
      ∀ h, h ≠ c.by_ → h ≠ d.by_ → getThr (stepBoth u k n c b d) h = getThr s h := by
  have ht := stepBoth_touches u k n c b d
  obtain ⟨hc1, -⟩ := stepCmd_cmdAt u k n c b.n
  obtain ⟨hd1, hd2⟩ := stepCmd_cmdAt (stepCmd u k n c b.n) b.port b.slot d b.n
  obtain ⟨ec, ec', -⟩ := stepCmd_thr u k n c b.n
  obtain ⟨ed, ed', edk⟩ := stepCmd_thr (stepCmd u k n c b.n) b.port b.slot d b.n
  exact ⟨ht.same .hbm (by decide), ht.same .l0 (by decide), ht.same .hostMem (by decide), (hd2 k n hne).trans hc1, hd1,
    fun h => edk _ (ec h), ed, fun h h1 h2 => (ed' h h2).trans ((ec' h h1).trans (hu h))⟩

/-! ### A burst under way -/

section
variable {s : State} {k : Eng × Nat} {n : Nat} {c d : StreamCmd} {b : BurstRun} (hd : cmdAt s b.port b.slot = some d)
  (hid : d.id = b.peer) (hh : d.held = false)
include hd hid hh

theorem moveBurst_reads (hb : b.data = none) : moveBurst s k n c b =
    if s.reqs.any (fun q => ofCmd k.1 c.id q && decide (q.st ≠ .done)) then s else gotBurst s k n c b := by
  unfold moveBurst
  simp only [hd, Option.filter_some, hid, decide_true, if_true, hh, Bool.false_eq_true, if_false, hb]

theorem moveBurst_puts {bs : List Byte} (hb : b.data = some bs) (hw : b.writing = false) :
    moveBurst s k n c b = putBurst s k n c b bs d := by
  unfold moveBurst
  simp only [hd, Option.filter_some, hid, decide_true, if_true, hh, Bool.false_eq_true, if_false, hb, hw, Bool.not_false]

theorem moveBurst_writes {bs : List Byte} (hb : b.data = some bs) (hw : b.writing = true) : moveBurst s k n c b =
    if s.reqs.any (fun q => ofCmd b.port.1 d.id q && decide (q.st ≠ .done)) then s else ackBurst s k n c b d := by
  unfold moveBurst
  simp only [hd, Option.filter_some, hid, decide_true, if_true, hh, Bool.false_eq_true, if_false, hb, hw, Bool.not_true]

end

theorem any_open {s : State} {e : Eng} {id : Nat} :
    s.reqs.any (fun q => ofCmd e id q && decide (q.st ≠ .done)) = true ↔ ∃ q ∈ s.reqs.filter (ofCmd e id), q.st ≠ .done := by
  simp only [List.any_eq_true, Bool.and_eq_true, decide_eq_true_eq, List.mem_filter]
  exact ⟨fun ⟨q, h1, h2, h3⟩ => ⟨q, ⟨h1, h2⟩, h3⟩, fun ⟨q, ⟨h1, h2⟩, h3⟩ => ⟨q, h1, h2, h3⟩⟩

/-- The bytes of a burst whose sectors have all returned sound are there. -/
theorem gotBurst_spec {s : State} {k : Eng × Nat} {n : Nat} {c : StreamCmd} {b : BurstRun}
    (h : ∀ q ∈ s.reqs.filter (ofCmd k.1 c.id), q.st = .done ∧ q.denied = false ∧ q.bad = false) :
    (gotBurst s k n c b).reqs = s.reqs.filter (fun q => !ofCmd k.1 c.id q) ∧ (gotBurst s k n c b).threads = s.threads ∧
      SameBytes s (gotBurst s k n c b) ∧ cmdAt (gotBurst s k n c b) k n = some { c with burst := some { b with
        data := some ((sectorParts b.pieces).flatMap fun p => partBytes (s.reqs.filter (ofCmd k.1 c.id)) p.2) } } := by
  have h1 : (s.reqs.filter (ofCmd k.1 c.id)).find? (·.denied) = none :=
    List.find?_eq_none.2 fun q hq => by simp [(h q hq).2.1]
  have h2 : (s.reqs.filter (ofCmd k.1 c.id)).find? (·.bad) = none :=
    List.find?_eq_none.2 fun q hq => by simp [(h q hq).2.2]
  unfold gotBurst
  simp only [h1, h2]
  exact ⟨rfl, rfl, fun _ => ⟨rfl, rfl, rfl⟩, cmdAt_setCmd ..⟩

/-- The writes of a burst have been performed and none has been refused. -/
theorem ackBurst_accepts {s : State} {k : Eng × Nat} {n : Nat} {c d : StreamCmd} {b : BurstRun}
    (h : ∀ q ∈ s.reqs.filter (ofCmd b.port.1 d.id), q.st = .done ∧ q.denied = false) :
    ackBurst s k n c b d = stepBoth { s with reqs := s.reqs.filter fun q => !ofCmd b.port.1 d.id q } k n c b d := by
  have h1 : s.reqs.find? (fun q => ofCmd b.port.1 d.id q && q.denied) = none := List.find?_eq_none.2 fun q hq hc => by
    obtain ⟨ho, hd⟩ := Bool.and_eq_true_iff.1 hc
    exact Bool.false_ne_true ((h q (List.mem_filter.2 ⟨hq, ho⟩)).2.symm.trans hd)
  unfold ackBurst
  rw [h1]

/-- Settles O51: a begin is decided by the command and its tile, a taken burst is `takeBurst`'s, and a burst that lands moves both
commands on or ends them. -/
theorem streamSteps : Obligations.StreamSteps := by
  unfold Obligations.StreamSteps
  intro s e port slot c hs hc
  refine ⟨exec_streamCommandBegin_waits hc, fun hp hh hm => ⟨streamBegins_tile hc hp hh hm, fun ps => streamBegins_hbm hc hp hh hm,
    streamBegin_drops hc hp hh hm⟩, exec_streamCircuitSetup_waits hc, ?_, fun ls t k v => tfind_takeLanes ls t,
    exec_streamCommandComplete_waits hc, ?_, ?_⟩
  · intro q hp hcons hm hq l
    have hex := exec_streamCircuitSetup hc hp hcons hm hq
    refine ⟨fun ⟨x, hx, hl⟩ => hex.trans (congrArg Host.Outcome.next (if_neg fun h => ?_)),
      fun h => hex.trans (congrArg Host.Outcome.next (if_pos (List.all_eq_true.2 h)))⟩
    exact Bool.false_ne_true (hl.symm.trans (List.all_eq_true.1 h x hx))
  · intro q hp hh hcons hb hq
    have hex := exec_stream_takes hc hp hh hcons hb
    refine ⟨fun hn => hex.trans (congrArg Host.Outcome.next (takeBurst_alone (k := (e, port)) hq hn)), ?_⟩
    intro m d hd n b
    refine ⟨fun bs u he hr => hex.trans (congrArg Host.Outcome.next (takeBurst_tile (k := (e, port)) hq hd he hr)), ?_⟩
    intro ps he hps ps' hloc
    obtain ⟨qs, h1, h2, h3, h4, h5⟩ := issueAll_after_setCmd (s := s) (k := (e, port)) (n := slot)
      (c := { c with burst := some { b with pieces := ps' } }) (e := e)
      (rs := (sectorReads ps').map fun p => sectorReq p .read c.part c.lid (.stream e c.id) none)
      (List.forall_mem_map.2 fun p hp => sectorReq_local (hloc p hp))
    refine ⟨_, qs, hex.trans (congrArg Host.Outcome.next (takeBurst_hbm (k := (e, port)) hq hd he hps)), h1, h2, h3, h4, ?_⟩
    refine (h5 _ fun _ _ => rfl).trans ?_
    have hr := congrArg (List.map fun x : Bool × Nat × Nat × ReqOp × ReqFrom × ReqSt => (x.1, x.2.1, x.2.2.1, x.2.2.2.1, x.2.2.2.2.1))
      (sectorReq_read (ps := ps') (part := c.part) (lid := c.lid) (from_ := .stream e c.id) (st := none))
    simp only [List.map_map] at hr ⊢
    exact hr
  · intro b d hp hh hcons hb hd hid hdh hdc mine theirs fin went
    have hex := exec_stream_moves hc hp hh hcons hb
    have hne : ((e, port), slot) ≠ (b.port, b.slot) := by
      intro h
      obtain ⟨h1, h2⟩ := Prod.ext_iff.1 h
      rw [show b.port = (e, port) from h1.symm, show b.slot = slot from h2.symm, hc] at hd
      rw [← Option.some.inj hd, hcons] at hdc
      cases hdc
    have hwent : ∀ u v : State, exec (.streamCommandComplete e port slot) s = .next (stepBoth v (e, port) slot c b d) →
        (∀ h, getThr v h = getThr s h) → v.hbm = u.hbm → v.l0 = u.l0 → v.hostMem = u.hostMem → went u := by
      intro u v hx hv h1 h2 h3
      obtain ⟨a1, a2, a3, a4, a5, a6, a7, a8⟩ := stepBoth_spec (d := d) (c := c) (u := v) hne hv
      exact ⟨_, hx, a1.trans h1, a2.trans h2, a3.trans h3, a4, a5, a6, a7, a8⟩
    refine ⟨fun hn ho => ?_, fun hn hall => ?_, fun bs u hbs hw he hwr => ?_, ?_, fun bs hbs hw => ⟨fun ho => ?_, fun hall => ?_⟩⟩
    · exact hex.trans (congrArg Host.Outcome.next ((moveBurst_reads hd hid hdh hn).trans (if_pos (any_open.2 ho))))
    · obtain ⟨h1, h2, h3, h4⟩ := gotBurst_spec (n := slot) (b := b) (k := (e, port)) hall
      exact ⟨_, hex.trans (congrArg Host.Outcome.next ((moveBurst_reads hd hid hdh hn).trans
        (if_neg fun ho => by
          obtain ⟨q, hq, hne⟩ := any_open.1 ho
          exact hne (hall q hq).1))), h1, h2, h3, h4⟩
    · have ht : Touches [.tiles, .hbm, .l0, .ecc, .eccL0, .bankModes] s u := by
        have h := cmdWrite_touches s b.port.1 d bs
        rw [hwr] at h
        exact h
      refine hwent u u (hex.trans (congrArg Host.Outcome.next ((moveBurst_puts hd hid hdh hbs hw).trans ?_)))
        (ht.getThr (by decide)) rfl rfl rfl
      unfold putBurst
      rw [if_neg he, hwr]
    · intro bs ps hbs hw he hps ws hloc
      obtain ⟨qs, h1, h2, h3, h4, h5⟩ := issueAll_after_setCmd (s := s) (k := (e, port)) (n := slot)
        (c := { c with burst := some { b with writing := true } }) (e := b.port.1)
        (rs := ws.map fun p => sectorReq p.2 (.write ((bs.drop p.1).take p.2.len) false) d.part d.lid (.stream b.port.1 d.id) none)
        (List.forall_mem_map.2 fun p hp => sectorReq_local (hloc p hp))
      refine ⟨_, qs, hex.trans (congrArg Host.Outcome.next ((moveBurst_puts hd hid hdh hbs hw).trans ?_)), h1, h2, h3, h4, ?_⟩
      · unfold putBurst
        rw [if_pos he, hps]
      · refine (h5 _ fun _ _ => rfl).trans ?_
        rw [List.map_map]
        refine List.map_congr_left fun p _ => ?_
        unfold sectorReq
        dsimp only [Function.comp]
        cases p.2.host <;> rfl
    · exact hex.trans (congrArg Host.Outcome.next ((moveBurst_writes hd hid hdh hbs hw).trans (if_pos (any_open.2 ho))))
    · refine hwent s { s with reqs := s.reqs.filter fun q => !ofCmd b.port.1 d.id q } (hex.trans (congrArg Host.Outcome.next
        ((moveBurst_writes hd hid hdh hbs hw).trans ((if_neg fun ho => ?_).trans (ackBurst_accepts hall)))))
        (fun _ => rfl) rfl rfl rfl
      obtain ⟨q, hq, hne⟩ := any_open.1 ho
      exact hne (hall q hq).1

end Sys2Proof.Machine
end

section
/-!
PROOFS. Proofs/Time.lean: device time, timers, planned moves and the quiescence monitors (spec/11 R258; spec/12 R274, R288 to
R290; spec/14 R328; spec/15 R338 to R340).
-/
namespace Sys2Proof.Machine

/-! ### Device time (R290) -/

theorem foldl_min_le : ∀ (l : List Nat) (b : Nat), l.foldl Nat.min b ≤ b ∧ ∀ x ∈ l, l.foldl Nat.min b ≤ x
  | [], b => ⟨Nat.le_refl b, fun _ h => absurd h List.not_mem_nil⟩
  | y :: l, b => by
    obtain ⟨h1, h2⟩ := foldl_min_le l (Nat.min b y)
    refine ⟨Nat.le_trans h1 (Nat.min_le_left b y), fun x hx => ?_⟩
    rcases List.mem_cons.1 hx with rfl | hx
    · exact Nat.le_trans h1 (Nat.min_le_right b x)
    · exact h2 x hx

theorem le_foldl_min {a : Nat} : ∀ (l : List Nat) (b : Nat), a ≤ b → (∀ x ∈ l, a ≤ x) → a ≤ l.foldl Nat.min b
  | [], _, h, _ => h
  | y :: l, b, h, hl => by
    obtain ⟨hy, hl⟩ := List.forall_mem_cons.1 hl
    exact le_foldl_min l (Nat.min b y) (Nat.le_min.2 ⟨h, hy⟩) hl

/-- A package's device time is t. -/
def atTime (s : State) (pkg t : Nat) : State := modPkg s pkg fun p => { p with time := t }

/-- The first time that device time does not pass. -/
def firstStop (s : State) (pkg : Nat) : Nat := (timeStops s pkg).foldl Nat.min (2 ^ 64 - 1)

theorem exec_deviceTimeStep {s : State} {pkg ns t : Nat} (h : ns ≤ 10 ^ 6)
    (ht : max (getPkg s pkg).time (min ((getPkg s pkg).time + ns) (firstStop s pkg)) = t) :
    exec (.deviceTimeStep pkg ns) s = .next (atTime s pkg t) := by
  subst ht
  exact congrArg Host.Outcome.next (if_neg (Nat.not_lt.2 h))

theorem deviceTime_runs {s : State} {pkg ns : Nat} (h : ns ≤ 10 ^ 6) (hb : (getPkg s pkg).time + ns < 2 ^ 64)
    (hx : ∀ x ∈ timeStops s pkg, (getPkg s pkg).time + ns ≤ x) :
    exec (.deviceTimeStep pkg ns) s = .next (atTime s pkg ((getPkg s pkg).time + ns)) := by
  refine exec_deviceTimeStep h ?_
  have hl : (getPkg s pkg).time + ns ≤ firstStop s pkg := le_foldl_min _ _ (by omega) hx
  omega

theorem deviceTime_stops {s : State} {pkg ns x : Nat} (h : ns ≤ 10 ^ 6) (hx : x ∈ timeStops s pkg) (h1 : (getPkg s pkg).time ≤ x)
    (h2 : x ≤ (getPkg s pkg).time + ns) (h3 : x < 2 ^ 64) (hy : ∀ y ∈ timeStops s pkg, x ≤ y) :
    exec (.deviceTimeStep pkg ns) s = .next (atTime s pkg x) := by
  refine exec_deviceTimeStep h ?_
  have hl : firstStop s pkg = x := Nat.le_antisymm ((foldl_min_le _ _).2 x hx) (le_foldl_min _ _ (by omega) hy)
  omega

theorem deviceTime_stands {s : State} {pkg ns x : Nat} (h : ns ≤ 10 ^ 6) (hx : x ∈ timeStops s pkg) (h1 : x ≤ (getPkg s pkg).time) :
    exec (.deviceTimeStep pkg ns) s = .next (atTime s pkg (getPkg s pkg).time) := by
  refine exec_deviceTimeStep h ?_
  have hl : firstStop s pkg ≤ x := (foldl_min_le _ _).2 x hx
  omega

theorem deviceTime_jumps {s : State} {pkg ns : Nat} (h : 10 ^ 6 < ns) : ∃ t, exec (.deviceTimeStep pkg ns) s = .next t ∧
    t = { s with packages := t.packages, wheels := t.wheels } ∧
    (getPkg t pkg).time = Nat.min ((getPkg s pkg).time + ns) (2 ^ 64 - 1) ∧ (∀ p, p ≠ pkg → getPkg t p = getPkg s p) ∧
    ∀ k w, tfind k s.wheels = some w → tfind k t.wheels = some (if k.1 = pkg then { w with ents := w.ents.map fun x =>
      if x.fire then x else { x with bound := boundOf (Nat.min ((getPkg s pkg).time + ns) (2 ^ 64 - 1)) x.due } } else w) := by
  refine ⟨_, congrArg Host.Outcome.next (if_pos h), rfl, ?_, fun p hp => ?_, fun k w hw => ?_⟩
  · exact congrArg (fun p : Package => p.time) (tget_tset_same ({} : Package) pkg _ s.packages)
  · exact tget_tset_other ({} : Package) _ s.packages hp
  · refine (tfind_tmap (fun (k : Nat × Nat) w => if k.1 = pkg then
      reboundEnts (Nat.min ((getPkg s pkg).time + ns) (2 ^ 64 - 1)) w else w) k s.wheels).trans ?_
    rw [hw]
    rfl

/-! ### Wheels (R288, R289) -/

theorem exec_timerWheelBoundary_past {s : State} {pkg die : Nat}
    (h : (getPkg s pkg).time / 10 * 10 ≤ (getWheel s (pkg, die)).boundary) : exec (.timerWheelBoundary pkg die) s = .next s :=
  congrArg Host.Outcome.next (if_pos h)

theorem timerWheelBoundary_fires {s : State} {pkg die : Nat} (h : (getWheel s (pkg, die)).boundary < (getPkg s pkg).time / 10 * 10) :
    ∃ t, exec (.timerWheelBoundary pkg die) s = .next t ∧ t = { s with wheels := t.wheels } ∧
      (∀ k, k ≠ (pkg, die) → getWheel t k = getWheel s k) ∧ (getWheel t (pkg, die)).boundary = (getPkg s pkg).time / 10 * 10 ∧
      (getWheel t (pkg, die)).ents = (getWheel s (pkg, die)).ents.map fun x =>
        if x.bound ≤ (getPkg s pkg).time / 10 * 10 then { x with fire := true, far := false } else x :=
  ⟨_, congrArg Host.Outcome.next (if_neg (Nat.not_le.2 h)), rfl, fun _ hk => getWheel_setWheel_other _ _ hk,
    congrArg Wheel.boundary (getWheel_setWheel ..), congrArg Wheel.ents (getWheel_setWheel ..)⟩

theorem farListMove_moves (s : State) (pkg die : Nat) : ∃ t, exec (.farListMove pkg die) s = .next t ∧
    t = { s with wheels := t.wheels } ∧ (∀ k, k ≠ (pkg, die) → getWheel t k = getWheel s k) ∧
    (getWheel t (pkg, die)).ents = (getWheel s (pkg, die)).ents.map fun x =>
      if x.due ≤ (getPkg s pkg).time + wheelSpan then { x with far := false } else x :=
  ⟨_, rfl, rfl, fun _ hk => getWheel_setWheel_other _ _ hk, congrArg Wheel.ents (getWheel_setWheel ..)⟩

/-! ### TWSET_EXPIRY (R258) -/

theorem exec_twsetExpiry_none {s : State} {pkg die n : Nat} (h : dueEnt s pkg die n = none) :
    exec (.twsetExpiry pkg die n) s = .next s := by
  show execTwsetExpiry pkg die n s = _
  unfold execTwsetExpiry
  rw [h]

/-- The state in which a due injection is tried. -/
def twsetTry (s : State) (pkg die : Nat) (x : TimerEnt) (d : InjDesc) : Nat × State :=
  fresh (touchTwset (dropEnt s pkg die x) pkg (some d))

theorem twsetTry_touches (s : State) (pkg die : Nat) (x : TimerEnt) (d : InjDesc) :
    Touches [.wheels, .launches, .nextId] s (twsetTry s pkg die x d).2 :=
  (((dropEnt_touches ..).mono (by decide)).trans ((touchTwset_touches ..).mono (by decide))).trans
    ((fresh_touches ..).mono (by decide))

/-- The report of an injection that fails when it is due. -/
def twsetReport (pkg die : Nat) (k : Tid) (w : Word) (d : InjDesc) : Report :=
  { dest := k, cause := 0x0210, tval := w, tinfo := d.tag, tcoord := coordNat { eng := ccEng pkg die }, lid := d.lid
    src := ccEng pkg die }

section
variable {s : State} {pkg die n : Nat} {x : TimerEnt} {k : Tid} (hx : dueEnt s pkg die n = some x)
include hx

theorem twsetExpiry_tells (hw : x.what = .twset k none) : ∃ t, exec (.twsetExpiry pkg die n) s = .next t ∧
    getThr t k = { getThr s k with event := true } ∧ (∀ j, j ≠ k → getThr t j = getThr s j) ∧ SameBytes s t ∧
    (getWheel t (pkg, die)).ents = (getWheel s (pkg, die)).ents.filter fun y => decide (y.order ≠ x.order) := by
  have hex : exec (.twsetExpiry pkg die n) s = .next (setEvent (dropEnt s pkg die x) k) := by
    show execTwsetExpiry pkg die n s = _
    unfold execTwsetExpiry
    simp only [hx, hw]
  have hd : Touches [.wheels] s (dropEnt s pkg die x) := dropEnt_touches ..
  have he : Touches [.threads] (dropEnt s pkg die x) (setEvent (dropEnt s pkg die x) k) := setEvent_touches ..
  refine ⟨_, hex, (getThr_modThr ..).trans ?_, fun j hj => (getThr_modThr_other _ _ hj).trans (hd.getThr (by decide) j),
    SameBytes.trans (hd.sameBytes (by decide)) (he.sameBytes (by decide)), ?_⟩
  · rw [hd.getThr (by decide)]
  · rw [he.getWheel (by decide), dropEnt_ents]

variable {d : InjDesc} (hw : x.what = .twset k (some d))
include hw

theorem exec_twsetExpiry_injects : exec (.twsetExpiry pkg die n) s = .next
    (match inject (twsetTry s pkg die x d).2 pkg (getThr (twsetTry s pkg die x d).2 k).part d (twsetTry s pkg die x d).1 with
      | .ok v => if injectFull (twsetTry s pkg die x d).2 pkg d then s else v
      | .error w => raise (twsetTry s pkg die x d).2 (twsetReport pkg die k w d)) := by
  show execTwsetExpiry pkg die n s = _
  unfold execTwsetExpiry
  simp only [hx, hw] <;> rfl

theorem twsetExpiry_reports {w : Word}
    (hi : inject (twsetTry s pkg die x d).2 pkg (getThr (twsetTry s pkg die x d).2 k).part d (twsetTry s pkg die x d).1 = .error w) :
    ∃ t rep, exec (.twsetExpiry pkg die n) s = .next t ∧
      t.reports = s.reports ++ [rep] ∧ rep.cause = 0x0210 ∧ rep.tval = w ∧ rep.dest = k ∧
      rep.tcoord = coordNat { eng := ccEng pkg die } ∧ t.threads = s.threads := by
  have ht := twsetTry_touches s pkg die x d
  have hex := exec_twsetExpiry_injects hx hw
  rw [hi] at hex
  exact ⟨_, _, hex, congrArg (· ++ _) (ht.same .reports (by decide)), rfl, rfl, rfl, rfl, ht.same .threads (by decide)⟩

end

/-! ### Planned moves (R274) -/

/-- A graph's pages, and that no move of it is planned. -/
def Resides (s : State) (key : Nat × Nat) (r : List (Nat × Nat × Nat)) : Prop :=
  (getGraph s key).map (fun x => (x.reloc, x.moveTo)) = some (r, none)

theorem Resides.touches {l : List Field} {s t : State} {key : Nat × Nat} {r : List (Nat × Nat × Nat)} (h : Resides s key r)
    (ht : Touches l s t) (hl : l.contains .graphs = false) : Resides t key r := by
  unfold Resides
  rw [ht.getGraph hl]
  exact h

theorem reserveLines_resides {key : Nat × Nat} {r : List (Nat × Nat × Nat)} : ∀ (ks : List Nat) {s t : State}, Resides s key r →
    reserveLines s key ks = some t → Resides t key r
  | [], _, _, h, e => Option.some.inj e ▸ h
  | k :: ks, s, t, h, e => by
    rw [reserveLines_cons] at e
    split at e
    · exact reserveLines_resides ks h e
    · split at e
      · exact reserveLines_resides ks h e
      · extract_lets n others at e
        split at e
        · cases e
        · refine reserveLines_resides ks ?_ e
          unfold Resides
          rw [getGraph_modGraph, Option.map_map]
          exact h

theorem restoreSet_resides {s t : State} {d : SaveData} {key : Nat × Nat} {reloc : List (Nat × Nat × Nat)}
    (h : restoreSet s d key reloc = some t) : Resides t key reloc := by
  unfold restoreSet at h
  extract_lets g m0 at h
  split at h
  · cases h
  · extract_lets m g1 at h
    split at h
    · cases h
    · next s1 h1 =>
      have n1 : Resides s1 key reloc := reserveLines_resides _ (by unfold Resides; rw [getGraph_setGraph]; rfl) h1
      extract_lets m1 at h
      split at h
      · cases h
      · next s2 h2 =>
        have h2 := Touches.carry h2 (restoreTiles_touches ..)
        obtain ⟨s3, h3, rfl⟩ := Option.map_eq_some_iff.1 h
        have h3 := Touches.carry h3 (restoreEngs_touches ..)
        have n2 := (n1.touches (restoreLines_touches m1 d s1) (by decide)).touches h2 (by decide)
        have n3 := (n2.touches h3 (by decide)).touches (restoreRest_touches m1 d s3) (by decide)
        exact (n3.touches (endsTo_touches ..) (by decide)).touches (powerPages_touches ..) (by decide)

theorem exec_pageSetMove_waits {s : State} {pkg h : Nat} (hw : (planned s pkg).any (fun p => decide (p.1.2 = h)) = false ∨
    ∃ p ∈ planned s pkg, atRest s p.1 p.2.1 = false) : exec (.pageSetMove pkg h) s = .next s := by
  refine congrArg Host.Outcome.next (if_pos ?_)
  rcases hw with hn | ⟨p, hp, hr⟩
  · exact .inl (by rw [hn]; rfl)
  · refine .inr ?_
    rw [Bool.not_eq_true', List.all_eq_false]
    exact ⟨p, hp, by rw [hr]; decide⟩

theorem exec_pageSetMove_one {s : State} {pkg h : Nat} {k : Nat × Nat} {g : Graph} {r : List (Nat × Nat × Nat)}
    (hp : planned s pkg = [(k, g, r)]) (hk : k.2 = h) (hr : atRest s k g = true) : exec (.pageSetMove pkg h) s = .next
      (match restoreSet (liftSet s k g) (saveSet s k g) k r with
        | none => modGraph s k fun g => { g with moveTo := none, noRoom := true }
        | some v => v) := by
  show execPageSetMove pkg h s = _
  unfold execPageSetMove
  have hc : ¬ (!((planned s pkg).any fun p => decide (p.1.2 = h)) ∨ !((planned s pkg).all fun p => atRest s p.1 p.2.1)) := by
    simp [hp, hk, hr]
  refine congrArg Host.Outcome.next ((if_neg hc).trans ?_)
  rw [hp]
  show (match restoreMoved [(saveSet s k g, r)] (liftSet s k g) with
    | some s => s
    | none => _) = _
  unfold restoreMoved
  dsimp only
  rw [show (saveSet s k g).key = k from rfl]
  cases restoreSet (liftSet s k g) (saveSet s k g) k r <;> rfl

/-! ### Samples (R338) -/

theorem getLaunch_modLaunch (s : State) (k : Nat × Nat) (f : Launch → Launch) :
    getLaunch (modLaunch s k f) k = (getLaunch s k).map f := by
  unfold modLaunch
  split
  · next l h =>
    rw [getLaunch_setLaunch, h]
    rfl
  · next h =>
    rw [h]
    rfl

theorem getLaunch_modLaunch_some {s : State} {j k : Nat × Nat} (f : Launch → Launch) (h : (getLaunch s j).isSome) :
    (getLaunch (modLaunch s k f) j).isSome := by
  by_cases hj : j = k
  · subst hj
    rw [getLaunch_modLaunch, Option.isSome_map]
    exact h
  · unfold modLaunch
    split
    · rw [getLaunch_setLaunch_other _ _ hj]
      exact h
    · exact h

theorem endEpisode_live {s : State} {pkg lid : Nat} {j : Nat × Nat} (h : (getLaunch s j).isSome) :
    (getLaunch (endEpisode s pkg lid) j).isSome := by
  unfold endEpisode
  generalize gangOf s pkg lid = ms
  induction ms generalizing s with
  | nil => exact h
  | cons m ms ih => exact ih (getLaunch_modLaunch_some _ h)

section
variable {s : State} {pkg n : Nat} {l : Launch} {second : Bool} (hl : getLaunch s (pkg, n) = some l)
include hl

theorem exec_qmSample_waits (h : l.state ≠ 1 ∨ launchFrozen s pkg l = true ∨ l.half ≠ second ∨
    (getPkg s pkg).time < l.sampled + 1000) : exec (.qmSample pkg n second) s = .next s := by
  show execQmSample pkg n second s = _
  unfold execQmSample
  rw [hl]
  exact congrArg Host.Outcome.next (if_pos h)

/-- What the second pass keeps. -/
def sampleKept (s : State) (pkg : Nat) (quiet : Bool) (l : Launch) : Launch :=
  { l with pass1 := false, half := false, sampled := (getPkg s pkg).time,
           quiet := if quiet then some (l.quiet.getD (getPkg s pkg).time) else none }

theorem exec_qmSample (h1 : l.state = 1) (h2 : launchFrozen s pkg l = false) (h3 : l.half = second)
    (h4 : l.sampled + 1000 ≤ (getPkg s pkg).time) : exec (.qmSample pkg n second) s = .next
      (let u := if l.activity then endEpisode s pkg n else s
       if !second then modLaunch u (pkg, n) fun l => { l with pass1 := countsZero s pkg n, activity := false, half := true }
       else modLaunch u (pkg, n) (sampleKept u pkg (l.pass1 && countsZero s pkg n && !l.activity))) := by
  show execQmSample pkg n second s = _
  unfold execQmSample
  rw [hl]
  exact congrArg Host.Outcome.next (if_neg (by simp [h1, h2, h3, h4]))

theorem modLaunch_of (f : Launch → Launch) : modLaunch s (pkg, n) f = setLaunch s (pkg, n) (f l) := by
  unfold modLaunch
  rw [hl]

theorem qmSample_spec (h1 : l.state = 1) (h2 : launchFrozen s pkg l = false) (h3 : l.half = second)
    (h4 : l.sampled + 1000 ≤ (getPkg s pkg).time) :
    (l.activity = false → second = false → exec (.qmSample pkg n second) s =
      .next (setLaunch s (pkg, n) { l with pass1 := countsZero s pkg n, activity := false, half := true })) ∧
    (l.activity = false → second = true → exec (.qmSample pkg n second) s = .next (setLaunch s (pkg, n) { l with
      pass1 := false, half := false, sampled := (getPkg s pkg).time,
      quiet := if l.pass1 && countsZero s pkg n then some (l.quiet.getD (getPkg s pkg).time) else none })) ∧
    (l.activity = true → second = true → ∃ t, exec (.qmSample pkg n second) s = .next t ∧
      (getLaunch t (pkg, n)).map (fun x => (x.quiet, x.sampled)) = some (none, (getPkg s pkg).time)) := by
  have hex := exec_qmSample hl h1 h2 h3 h4
  refine ⟨fun ha hs => ?_, fun ha hs => ?_, fun ha hs => ⟨_, hex, ?_⟩⟩
  · subst hs
    rw [hex, ha]
    exact congrArg Host.Outcome.next
      (modLaunch_of hl fun l => { l with pass1 := countsZero s pkg n, activity := false, half := true })
  · subst hs
    rw [hex, ha, Bool.not_false, Bool.and_true]
    refine congrArg Host.Outcome.next ((modLaunch_of hl (sampleKept s pkg (l.pass1 && countsZero s pkg n))).trans ?_)
    rw [sampleKept, ha]
  · subst hs
    have ht : Touches [.launches] s (endEpisode s pkg n) := endEpisode_touches ..
    obtain ⟨x, hx⟩ := Option.isSome_iff_exists.1 (endEpisode_live (pkg := pkg) (lid := n) (Option.isSome_of_eq_some hl))
    simp only [ha, if_true, Bool.not_true, Bool.false_eq_true, if_false, Bool.and_false, getLaunch_modLaunch, hx]
    exact congrArg (fun p : Package => some (none, p.time)) (ht.getPkg (by decide) pkg)

end

/-! ### The end of a window (R328, R339, R340) -/

/-- A monitor keeps the report of a member under a number. -/
def keepReport (s : State) (pkg : Nat) (m : Nat × Launch) (i : Nat) : State :=
  let es := reportEntries s pkg m.1
  { s with
    qmReports := tset (pkg, homeDie s pkg m.2, i) { entries := es.take 1024, more := decide (1024 < es.length), lid := m.1 }
      s.qmReports }

/-- The DEADLOCK report of a member under a number (R340). -/
def deadlockReport (s : State) (pkg : Nat) (m : Nat × Launch) (i : Nat) : Report :=
  let die := homeDie s pkg m.2
  let es := reportEntries s pkg m.1
  { dest := trapThread pkg m.2.record, cause := 0x0203, tcoord := coordNat { eng := qmEng pkg die }, lid := m.1
    tval := BitVec.ofNat 64 (i + die * 2 ^ 8 + (es.take 1024).length * 2 ^ 16 + b2n (decide (1024 < es.length)) * 2 ^ 32)
    held := .report pkg die i, src := qmEng pkg die }

theorem raiseDeadlock_spec {s : State} {pkg i : Nat} {m : Nat × Launch}
    (hi : leastBelow 64 (fun i => (tfind (pkg, homeDie s pkg m.2, i) s.qmReports).isNone) = some i) :
    ∃ t rep, raiseDeadlock pkg s m = some t ∧ t.reports = s.reports ++ [rep] ∧ rep.cause = 0x0203 ∧
      rep.dest = trapThread pkg m.2.record ∧ rep.lid = m.1 ∧
      (tfind (pkg, homeDie s pkg m.2, i) t.qmReports).map (·.entries) = some ((reportEntries s pkg m.1).take 1024) ∧
      Touches [.qmReports, .launches, .reports] s t := by
  have hk : Touches [.qmReports] s (keepReport s pkg m i) := .put rfl
  have hm := modLaunch_touches (keepReport s pkg m i) (pkg, m.1) fun l => { l with episode := true }
  have ht : Touches [.qmReports, .launches] s (modLaunch (keepReport s pkg m i) (pkg, m.1) fun l => { l with episode := true }) :=
    (hk.mono (by decide)).trans (hm.mono (by decide))
  refine ⟨raise (modLaunch (keepReport s pkg m i) (pkg, m.1) fun l => { l with episode := true }) (deadlockReport s pkg m i), _, ?_,
    congrArg (· ++ _) (ht.same .reports (by decide)), rfl, rfl, rfl, ?_, (ht.mono (by decide)).trans (.put rfl)⟩
  · unfold raiseDeadlock
    dsimp only
    rw [hi]
    rfl
  · exact (congrArg (fun t => (tfind (pkg, homeDie s pkg m.2, i) t).map (·.entries)) (hm.same .qmReports (by decide))).trans
      (congrArg (Option.map _) (tfind_tset_same ..))

/-- The judging of a gang of one whose channels are not full. -/
theorem judge_quiet {s : State} {pkg : Nat} {m : Nat × Launch} (h : fullChans s pkg [m.1] = []) : judge s pkg [m] =
    if [m].any (fun m => m.2.episode) then s else (raiseAll pkg [m] s).getD s := by
  have he : (sortBy (detectOrder s) (fullChans s pkg ([m].map (·.1)))).isEmpty = true := by
    rw [show [m].map (·.1) = [m.1] from rfl, h]
    rfl
  exact if_pos he

/-- The judging of a gang of one that waits on one full channel, which grows. -/
theorem judge_grows {s u : State} {pkg : Nat} {m : Nat × Launch} {k : ChanKey} (h : fullChans s pkg [m.1] = [k])
    (hu : growFirst s [k] = some u) :
    judge s pkg [m] = modLaunch u (pkg, m.1) fun l => { l with quiet := some (getPkg u pkg).time } := by
  have hs : sortBy (detectOrder s) (fullChans s pkg ([m].map (·.1))) = [k] := by
    rw [show [m].map (·.1) = [m.1] from rfl, h]
    rfl
  unfold judge
  simp only [hs, List.isEmpty_cons, Bool.false_eq_true, if_false, hu]
  rfl

section
variable {s : State} {pkg n : Nat} {m : Nat × Launch} (hg : windowGang s pkg n = [m])
include hg

theorem exec_qmWindowEnd_waits (h : windowPassed s pkg m.2 = false ∨ launchFrozen s pkg m.2 = true) :
    exec (.qmWindowEnd pkg n) s = .next s := by
  show execQmWindowEnd pkg n s = _
  unfold execQmWindowEnd
  rw [hg]
  exact congrArg Host.Outcome.next (if_neg (by rcases h with h | h <;> simp [windowEnds, h]))

variable (hp : windowPassed s pkg m.2 = true) (hf : launchFrozen s pkg m.2 = false)
include hp hf

theorem exec_qmWindowEnd : exec (.qmWindowEnd pkg n) s = .next (judge s pkg [m]) := by
  show execQmWindowEnd pkg n s = _
  unfold execQmWindowEnd
  rw [hg]
  exact congrArg Host.Outcome.next (if_pos (by simp [windowEnds, hp, hf]))

theorem qmWindowEnd_done (hfull : fullChans s pkg [m.1] = []) (he : m.2.episode = true) :
    exec (.qmWindowEnd pkg n) s = .next s := by
  refine (exec_qmWindowEnd hg hp hf).trans (congrArg Host.Outcome.next ?_)
  rw [judge_quiet hfull, if_pos (by simp [he])]

theorem qmWindowEnd_deadlock {i : Nat} (hfull : fullChans s pkg [m.1] = []) (he : m.2.episode = false)
    (hi : leastBelow 64 (fun i => (tfind (pkg, homeDie s pkg m.2, i) s.qmReports).isNone) = some i) :
    ∃ t rep, exec (.qmWindowEnd pkg n) s = .next t ∧ t.reports = s.reports ++ [rep] ∧ rep.cause = 0x0203 ∧
      rep.dest = trapThread pkg m.2.record ∧ rep.lid = m.1 ∧
      (tfind (pkg, homeDie s pkg m.2, i) t.qmReports).map (·.entries) = some ((reportEntries s pkg m.1).take 1024) ∧
      t.threads = s.threads ∧ SameBytes s t := by
  obtain ⟨t, rep, h0, h1, h2, h3, h4, h5, ht⟩ := raiseDeadlock_spec hi
  have hj : judge s pkg [m] = t := by
    rw [judge_quiet hfull, if_neg (by simp [he])]
    unfold raiseAll
    rw [h0]
    rfl
  exact ⟨t, rep, (exec_qmWindowEnd hg hp hf).trans (congrArg Host.Outcome.next hj), h1, h2, h3, h4, h5,
    ht.same .threads (by decide), ht.sameBytes (by decide)⟩

theorem qmWindowEnd_grows {k : ChanKey} {j : Nat} {v : State} (hfull : fullChans s pkg [m.1] = [k])
    (hc : (getChan s k).nseg < (getChan s k).cap) (ha : poolAlloc s k (getChan s k) = .ok j v) :
    ∃ t, exec (.qmWindowEnd pkg n) s = .next t ∧
      (getChan t k).nseg = (getChan s k).nseg + 1 ∧ (getChan t k).recs = (getChan s k).recs ∧ t.reports = s.reports ∧
      t.threads = s.threads ∧ SameBytes s t := by
  have hv : Touches [.partitions, .quotas, .traces] s v := by
    have h := poolAlloc_touches s k (getChan s k)
    rw [ha] at h
    exact h
  have hgrow : growFirst s [k] = some (modChan v k fun c =>
      { sparePush { c with nseg := c.nseg + 1 } j with gcount := sat16 c.gcount, full := false }) := by
    unfold growFirst
    dsimp only
    rw [if_neg (Nat.not_le.2 hc), ha]
  have hchan : getChan v k = getChan s k := hv.getChan (by decide) k
  have hmod : Touches [.chans] v (modChan v k fun c =>
      { sparePush { c with nseg := c.nseg + 1 } j with gcount := sat16 c.gcount, full := false }) := modChan_touches ..
  generalize hu : modChan v k (fun c =>
      { sparePush { c with nseg := c.nseg + 1 } j with gcount := sat16 c.gcount, full := false }) = u at hgrow hmod
  have hjudge := judge_grows hfull hgrow
  have hlast := modLaunch_touches u (pkg, m.1) fun l => { l with quiet := some (getPkg u pkg).time }
  have ht : Touches [.partitions, .quotas, .traces, .chans, .launches] s
      (modLaunch u (pkg, m.1) fun l => { l with quiet := some (getPkg u pkg).time }) :=
    ((hv.mono (by decide)).trans (hmod.mono (by decide))).trans (hlast.mono (by decide))
  have hk : getChan (modLaunch u (pkg, m.1) fun l => { l with quiet := some (getPkg u pkg).time }) k =
      { sparePush { getChan s k with nseg := (getChan s k).nseg + 1 } j with gcount := sat16 (getChan s k).gcount, full := false } := by
    rw [hlast.getChan (by decide), ← hu, getChan_modChan, hchan]
  refine ⟨_, (exec_qmWindowEnd hg hp hf).trans (congrArg Host.Outcome.next hjudge), ?_, ?_, ht.same .reports (by decide),
    ht.same .threads (by decide), ht.sameBytes (by decide)⟩
  · rw [hk]
    rfl
  · rw [hk]
    rfl

end

/-- Settles O52: time stops at the least of its stops; a due TWSET, a planned move, a sample and a window's end each come to the
outcome of their one check. -/
theorem timeSteps : Obligations.TimeSteps := by
  unfold Obligations.TimeSteps
  intro s pkg die
  refine ⟨⟨fun ns => deviceTime_runs, fun ns x => deviceTime_stops, fun ns x h hx h1 _ => deviceTime_stands h hx h1,
      fun ns => deviceTime_jumps⟩,
    ⟨exec_timerWheelBoundary_past, timerWheelBoundary_fires, farListMove_moves s pkg die⟩,
    fun n => ⟨exec_twsetExpiry_none, fun x k => twsetExpiry_tells, ?_⟩,
    fun h => ⟨fun hn => exec_pageSetMove_waits (.inl hn), fun p hp hr => exec_pageSetMove_waits (.inr ⟨p, hp, hr⟩), ?_⟩,
    fun n l hl second => ⟨exec_qmSample_waits hl, qmSample_spec hl⟩,
    fun n m hg => ⟨exec_qmWindowEnd_waits hg, fun hp hf => ⟨qmWindowEnd_done hg hp hf, fun i => qmWindowEnd_deadlock hg hp hf,
      fun k j v => qmWindowEnd_grows hg hp hf⟩⟩⟩
  · intro x k d v hx hw f u
    have hex := exec_twsetExpiry_injects hx hw
    refine ⟨fun hi hfull => ?_, fun hi hfull => ?_, fun w hi => twsetExpiry_reports hx hw hi⟩
    · rw [hex, show inject (twsetTry s pkg die x d).2 pkg (getThr (twsetTry s pkg die x d).2 k).part d (twsetTry s pkg die x d).1 =
        .ok v from hi]
      exact congrArg Host.Outcome.next (if_neg fun hc => Bool.false_ne_true (hfull.symm.trans hc))
    · rw [hex, show inject (twsetTry s pkg die x d).2 pkg (getThr (twsetTry s pkg die x d).2 k).part d (twsetTry s pkg die x d).1 =
        .ok v from hi]
      exact congrArg Host.Outcome.next (if_pos hfull)
  · intro k g r hp hk hr
    have hex := exec_pageSetMove_one hp hk hr
    refine ⟨fun v hv => ?_, fun hv => ?_⟩
    · rw [hv] at hex
      exact ⟨hex, restoreSet_resides hv⟩
    · rw [hv] at hex
      exact hex

end Sys2Proof.Machine
end

section
/-!
PROOFS. Proofs/Links.lean: flits, link death, milestones and resent packets (spec/17 R362, R366 to R370).
-/
namespace Sys2Proof.Machine

/-! ### Strait engines -/

theorem Touches.getStrait {l : List Field} {s t : State} (h : Touches l s t) (hl : l.contains .straits = false) (e : Eng) :
    getStrait t e = getStrait s e := by
  have k : t.straits = s.straits := h.same .straits (by simpa using hl)
  unfold Machine.getStrait
  rw [k]

theorem getStrait_modStrait (s : State) (e : Eng) (f : Strait → Strait) : getStrait (modStrait s e f) e = f (getStrait s e) :=
  tget_tset_same ..

theorem getStrait_modStrait_other {s : State} {e g : Eng} (f : Strait → Strait) (h : g ≠ e) :
    getStrait (modStrait s e f) g = getStrait s g := tget_tset_other _ _ _ h

/-! ### Flits (R362) -/

theorem incoming_spec {s : State} {e : Eng} {n : Nat} {p : Pkt} (h : incoming s e = some (n, p)) : s.packets[n]? = some p := by
  unfold incoming at h
  obtain ⟨m, -, hm⟩ := Option.bind_eq_some_iff.1 h
  obtain ⟨q, hq, e⟩ := Option.map_eq_some_iff.1 hm
  obtain ⟨rfl, rfl⟩ := Prod.ext_iff.1 e
  exact hq

/-- A flit that arrives as it was sent holds its checks. -/
theorem flitGood_sent (p : Pkt) : flitGood p (flitOf p p.flits ^^^ 0) = true := by
  rw [show flitOf p p.flits ^^^ 0 = flitOf p p.flits from BitVec.xor_zero]
  unfold flitGood
  cases h : p.flits with
  | zero =>
    rw [show flitOf p 0 = headerFlit (packetHeader p) from rfl, headerFlit_good]
    simp
  | succ k => simp

theorem exec_linkFlitReceive_none {s : State} {e : Eng} (h : incoming s e = none ∨ 9 ≤ (getStrait s e).resends ∨
    (getStrait s e).dead = true) (x : BitVec 512) : exec (.linkFlitReceive e x) s = .next s := by
  show execLinkFlitReceive e x s = _
  unfold execLinkFlitReceive
  cases hi : incoming s e with
  | none => rfl
  | some np =>
    rw [hi] at h
    exact congrArg Host.Outcome.next (if_pos (h.resolve_left (by simp)))

/-- Flit n of the fabric has been accepted at an engine. -/
def tookFlit (s : State) (e : Eng) (n : Nat) : State :=
  modStrait { s with packets := lmod n (fun p => { p with flits := p.flits + 1 }) s.packets } e fun st => { st with resends := 0 }

theorem exec_linkFlitReceive {s : State} {e : Eng} {n : Nat} {p : Pkt} (hi : incoming s e = some (n, p))
    (hr : (getStrait s e).resends < 9) (hd : (getStrait s e).dead = false) (x : BitVec 512) :
    exec (.linkFlitReceive e x) s = .next (if flitGood p (flitOf p p.flits ^^^ x) then tookFlit s e n
      else modStrait s e fun st => { st with resends := st.resends + 1 }) := by
  show execLinkFlitReceive e x s = _
  unfold execLinkFlitReceive
  rw [hi]
  exact congrArg Host.Outcome.next (if_neg (by simp [hd, Nat.not_le.2 hr]))

theorem tookFlit_spec {s : State} {e : Eng} {n : Nat} {p : Pkt} (hp : s.packets[n]? = some p) :
    (tookFlit s e n).packets.length = s.packets.length ∧ (tookFlit s e n).packets[n]? = some { p with flits := p.flits + 1 } ∧
      (∀ k, k ≠ n → (tookFlit s e n).packets[k]? = s.packets[k]?) ∧
      getStrait (tookFlit s e n) e = { getStrait s e with resends := 0 } ∧
      (∀ g, g ≠ e → getStrait (tookFlit s e n) g = getStrait s g) ∧ (tookFlit s e n).threads = s.threads ∧
      SameBytes s (tookFlit s e n) := by
  have hpk : (tookFlit s e n).packets = s.packets.modify n fun p => { p with flits := p.flits + 1 } := rfl
  refine ⟨by rw [hpk, List.length_modify], ?_, fun k hk => ?_, getStrait_modStrait .., fun g hg => getStrait_modStrait_other _ hg,
    rfl, fun _ => ⟨rfl, rfl, rfl⟩⟩
  · rw [hpk, List.getElem?_modify, hp]
    simp
  · rw [hpk, List.getElem?_modify]
    simp [Ne.symm hk]

/-! ### Dead links (R362, R368) -/

theorem exec_linkDeath_waits {s : State} {e : Eng} {lost : Bool}
    (h : (lost = false ∧ (getStrait s e).resends ≤ 8) ∨ (getStrait s e).dead = true) : exec (.linkDeath e lost) s = .next s :=
  congrArg Host.Outcome.next (if_pos (by simpa using h))

section
variable {s : State} {e : Eng} {lost : Bool} (hl : lost = true ∨ 8 < (getStrait s e).resends) (hd : (getStrait s e).dead = false)
include hl hd

theorem exec_linkDeath : exec (.linkDeath e lost) s = .next
    (if e.elem ≠ 25 then modPkg s e.pkg fun k => { k with pkgFault := true }
     else match cablePeer s e with
      | none => killEnd s e
      | some f =>
        killEnd (killEnd { s with packets := s.packets.filter fun p =>
          !(p.link && (decide (p.at_ = e) || decide (p.at_ = f))) } e) f) := by
  show execLinkDeath e lost s = _
  unfold execLinkDeath
  refine congrArg Host.Outcome.next (if_neg ?_)
  rintro (⟨h1, h2⟩ | h)
  · rcases hl with rfl | hl
    · exact absurd h1 (by decide)
    · omega
  · exact Bool.false_ne_true (hd.symm.trans h)

theorem linkDeath_strait (he : e.elem ≠ 25) :
    exec (.linkDeath e lost) s = .next (modPkg s e.pkg fun k => { k with pkgFault := true }) :=
  (exec_linkDeath hl hd).trans (congrArg Host.Outcome.next (if_pos he))

theorem linkDeath_cable {f : Eng} (he : e.elem = 25) (hf : cablePeer s e = some f) : ∃ t, exec (.linkDeath e lost) s = .next t ∧
    (getStrait t e).dead = true ∧ (getStrait t f).dead = true ∧ (getStrait t e).notified = true ∧ (getStrait t f).notified = true ∧
    (∀ g, g ≠ e → g ≠ f → getStrait t g = getStrait s g) ∧
    t.packets = s.packets.filter (fun p => !(p.link && (decide (p.at_ = e) || decide (p.at_ = f)))) ∧
    t.threads = s.threads ∧ SameBytes s t := by
  have hex := (exec_linkDeath hl hd).trans (congrArg Host.Outcome.next (if_neg (not_not_intro he)))
  rw [hf] at hex
  have hself : ∀ (u : State) (g : Eng), (getStrait (killEnd u g) g).dead = true ∧ (getStrait (killEnd u g) g).notified = true :=
    fun u g => ⟨congrArg Strait.dead (getStrait_modStrait ..), congrArg Strait.notified (getStrait_modStrait ..)⟩
  have hother : ∀ (u : State) {g h : Eng}, h ≠ g → getStrait (killEnd u g) h = getStrait u h :=
    fun u _ _ hne => getStrait_modStrait_other _ hne
  have hfirst : ∀ u : State, (getStrait (killEnd (killEnd u e) f) e).dead = true ∧
      (getStrait (killEnd (killEnd u e) f) e).notified = true := fun u => by
    by_cases hef : e = f
    · subst hef
      exact hself ..
    · rw [hother _ hef]
      exact hself ..
  exact ⟨_, hex, (hfirst _).1, (hself ..).1, (hfirst _).2, (hself ..).2, fun g h1 h2 => (hother _ h2).trans (hother _ h1), rfl, rfl,
    fun _ => ⟨rfl, rfl, rfl⟩⟩

end

/-! ### Milestones (R368) -/

section
variable {s : State} {pkg d : Nat} (hdom : (getPkg s pkg).routeDom = some d)
include hdom

theorem exec_milestoneChange_waits (h : (domainPkgs s d).any (· < pkg) = true ∨ changeDue s (domainPkgs s d) = false) :
    exec (.milestoneChange pkg) s = .next s := by
  show execMilestoneChange pkg s = _
  unfold execMilestoneChange
  rw [hdom]
  exact congrArg Host.Outcome.next (if_pos (by simpa using h))

/-- The notices of an engine of some packages have been taken. -/
def unnoticed (ps : List Nat) (e : Eng) (st : Strait) : Strait :=
  if ps.contains e.pkg then { st with notified := false, fresh := false } else st

/-- The notices of a domain's engines have been taken. -/
def noticed (s : State) (ps : List Nat) : State := { s with straits := tmap (unnoticed ps) s.straits }

/-- A package of a route domain moves to a milestone. -/
def toMilestone (d m : Nat) (q : Package) : Package := if q.routeDom = some d then { q with milestone := m } else q

/-- Every package of a route domain is at a milestone. -/
def movedTo (s : State) (d m : Nat) : State := { s with packages := tmap (fun _ => toMilestone d m) s.packages }

theorem exec_milestoneChange {k : Nat} (h1 : (domainPkgs s d).any (· < pkg) = false) (h2 : changeDue s (domainPkgs s d) = true)
    (hk : [1, 2, 3].find? (fun k => setAvoids s (domainPkgs s d) (((getPkg s pkg).milestone + k) % 4)) = some k) :
    exec (.milestoneChange pkg) s =
      .next (movedTo (noticed s (domainPkgs s d)) d (((getPkg s pkg).milestone + k) % 65536)) := by
  show execMilestoneChange pkg s = _
  unfold execMilestoneChange
  rw [hdom]
  refine congrArg Host.Outcome.next ((if_neg ?_).trans ?_)
  · simp [h1, h2]
  · dsimp only
    rw [hk]
    rfl

end

theorem getPkg_movedTo (s : State) (d m p : Nat) : getPkg (movedTo s d m) p =
    toMilestone d m (getPkg s p) := by
  unfold getPkg tget movedTo
  rw [tfind_tmap]
  cases tfind p s.packages with
  | none => rfl
  | some q => rfl

theorem changeDue_noticed (s : State) (ps : List Nat) (d m : Nat) : changeDue (movedTo (noticed s ps) d m) ps = false := by
  unfold changeDue
  rw [List.any_eq_false]
  intro x hx
  obtain ⟨y, -, rfl⟩ := List.mem_map.1 (show x ∈ tmap (unnoticed ps) s.straits from hx)
  dsimp only [unnoticed]
  split
  · simp
  · next h =>
    rw [eq_false_of_ne_true h]
    simp

/-! ### Resent packets (R369) -/

theorem modPkg_touches_packages (s : State) (k : Nat) (f : Package → Package) : Touches [.packages] s (modPkg s k f) := .put rfl

/-- The packet that an engine sends again. -/
def resentPkt (st : Strait) (e : Eng) (r : Retry) : Pkt :=
  let pn := (pathNum st e.pkg r.pkt.hdr.dst.eng.pkg st.milestone).getD (0, 0)
  { r.pkt with
    hdr := { r.pkt.hdr with rply := true, milestone := st.milestone, path := pn.2 }
    at_ := portEng e pn.1
    link := false }

/-- What it keeps of it then. -/
def resentRetry (s : State) (e : Eng) (r : Retry) : Retry :=
  { pkt := resentPkt (getStrait s e) e r, sent := (getPkg s e.pkg).time, resends := r.resends + 1 }

/-- The retry buffer with a packet sent again. -/
def resentList (s : State) (e : Eng) (r : Retry) : List Retry :=
  (getStrait s e).retry.map fun x => if x.pkt.id = r.pkt.id then resentRetry s e r else x

theorem resend_spec {s : State} {e : Eng} {id : Nat} {r : Retry}
    (h : (getStrait s e).retry.find? (fun x => decide (x.pkt.id = id)) = some r) :
    (resend s e id).packets = s.packets ++ [resentPkt (getStrait s e) e r] ∧
      getStrait (resend s e id) e = { getStrait s e with
        retry := resentList s e r, exhausted := (getStrait s e).exhausted || decide (8 ≤ r.resends) } := by
  have hid : r.pkt.id = id := of_decide_eq_true (List.find?_some (p := fun x : Retry => decide (x.pkt.id = id)) h)
  subst hid
  unfold resend
  dsimp only
  rw [h]
  dsimp only
  by_cases hw : 8 ≤ r.resends
  · rw [if_pos (decide_eq_true hw)]
    exact ⟨rfl, getStrait_setStrait ..⟩
  · rw [if_neg (by simpa using hw)]
    exact ⟨rfl, getStrait_setStrait ..⟩

/-- What tells an engine's kept packets apart, and their sequence numbers. -/
def Retry.key (r : Retry) : Nat × Nat := (r.pkt.id, r.pkt.hdr.seq)

theorem resentList_length (s : State) (e : Eng) (r : Retry) : (resentList s e r).length = (getStrait s e).retry.length :=
  List.length_map ..

theorem eq_of_id {l : List Retry} (hl : (l.map fun x => x.pkt.id).Nodup) {x y : Retry} (hx : x ∈ l) (hy : y ∈ l)
    (h : x.pkt.id = y.pkt.id) : x = y := List.inj_on_of_nodup_map hl hx hy h

theorem resentList_keys {s : State} {e : Eng} {r : Retry} (hr : r ∈ (getStrait s e).retry)
    (hl : ((getStrait s e).retry.map fun x => x.pkt.id).Nodup) :
    (resentList s e r).map Retry.key = (getStrait s e).retry.map Retry.key := by
  unfold resentList
  rw [List.map_map]
  refine List.map_congr_left fun x hx => ?_
  dsimp only [Function.comp]
  split
  · next h =>
    rw [eq_of_id hl hx hr h]
    rfl
  · rfl

theorem resendIds_spec {e : Eng} {m : Nat} : ∀ (ks : List (Nat × Nat)) (s : State),
    (∀ k ∈ ks, k ∈ (getStrait s e).retry.map Retry.key) → (((getStrait s e).retry.map Retry.key).map (·.1)).Nodup →
    (getStrait s e).milestone = m →
    ∃ ps, ((ks.map (·.1)).foldl (fun s i => resend s e i) s).packets = s.packets ++ ps ∧ ps.map (·.hdr.seq) = ks.map (·.2) ∧
      ps.all (fun p => p.hdr.rply && decide (p.hdr.milestone = m)) = true
  | [], s, _, _, _ => ⟨[], (List.append_nil _).symm, rfl, rfl⟩
  | k :: ks, s, hk, hn, hm => by
    obtain ⟨hk1, hks⟩ := List.forall_mem_cons.1 hk
    obtain ⟨r, hr, rfl⟩ := List.mem_map.1 hk1
    have hids : ((getStrait s e).retry.map fun x => x.pkt.id).Nodup := by
      rw [List.map_map] at hn
      exact hn
    have hfind : (getStrait s e).retry.find? (fun x => decide (x.pkt.id = r.pkt.id)) = some r := by
      cases hf : (getStrait s e).retry.find? (fun x => decide (x.pkt.id = r.pkt.id)) with
      | none => exact absurd (decide_eq_true rfl) (List.find?_eq_none.1 hf r hr)
      | some x =>
        have hx : x.pkt.id = r.pkt.id := of_decide_eq_true
          (List.find?_some (p := fun x : Retry => decide (x.pkt.id = r.pkt.id)) hf)
        rw [eq_of_id hids (List.mem_of_find?_eq_some hf) hr hx]
    obtain ⟨h1, h2⟩ := resend_spec hfind
    have hkeys : (getStrait (resend s e r.pkt.id) e).retry.map Retry.key = (getStrait s e).retry.map Retry.key := by
      rw [h2]
      exact resentList_keys hr hids
    obtain ⟨ps, h3, h4, h5⟩ := resendIds_spec (m := m) ks (resend s e r.pkt.id) (fun k hk => hkeys.symm ▸ hks k hk)
      (hkeys.symm ▸ hn) (by rw [h2]; exact hm)
    refine ⟨resentPkt (getStrait s e) e r :: ps, ?_, ?_, ?_⟩
    · refine h3.trans ?_
      rw [h1, List.append_assoc]
      rfl
    · rw [List.map_cons, h4]
      rfl
    · rw [List.all_cons, h5, Bool.and_true]
      show (true && decide ((getStrait s e).milestone = m)) = true
      rw [hm]
      simp

/-! ### Adoption (R368, R369) -/

/-- An engine has taken a newer milestone into use. -/
def adopted (s : State) (e : Eng) (m : Nat) : State :=
  let st := getStrait s e
  setStrait s e { st with milestone := m, table := mergeRoutes st.table st.newTable, newTable := [] }

/-- The trace records of an adoption. -/
def traceAdoption (s : State) (e : Eng) (m : Nat) : State :=
  (List.range 32).foldl (fun s p => traceClass s e.pkg e.die p 3 0 m (coordNat { eng := e }) 0 0x0A) s

theorem traceAdoption_touches (s : State) (e : Eng) (m : Nat) : Touches [.traces] s (traceAdoption s e m) :=
  .foldl (fun _ _ => traceClass_touches ..) _ _

theorem adoptMilestone_older {s : State} {e : Eng} {m : Nat} (h : older (getStrait s e).milestone m = true) :
    adoptMilestone s e m = resendAll (traceAdoption (adopted s e m) e m) e := by
  unfold adoptMilestone
  exact if_neg (by rw [h]; decide)

theorem adoptMilestone_same {s : State} {e : Eng} {m : Nat} (h : older (getStrait s e).milestone m = false) :
    adoptMilestone s e m = s := by
  unfold adoptMilestone
  exact if_pos (by rw [h]; rfl)

theorem getStrait_traceAdoption (s : State) (e : Eng) (m : Nat) : getStrait (traceAdoption (adopted s e m) e m) e =
    { getStrait s e with
      milestone := m, table := mergeRoutes (getStrait s e).table (getStrait s e).newTable, newTable := [] } :=
  ((traceAdoption_touches ..).getStrait (by decide) e).trans (getStrait_setStrait ..)

theorem adopted_touches (s : State) (e : Eng) (m : Nat) : Touches [.straits, .traces] s (traceAdoption (adopted s e m) e m) :=
  (Touches.trans (l := [.straits, .traces]) (.put rfl) ((traceAdoption_touches ..).mono (by decide)))

theorem resendAll_none {s : State} {e : Eng} (h : (getStrait s e).retry = []) : resendAll s e = s := by
  unfold resendAll
  rw [h]
  rfl

theorem resendAll_keys (s : State) (e : Eng) : resendAll s e =
    (((getStrait s e).retry.map Retry.key).map (·.1)).foldl (fun s i => resend s e i) s := by
  unfold resendAll
  rw [List.map_map]
  rfl

section
variable {s : State} {e : Eng} {m : Nat} (ho : older (getStrait s e).milestone m = true)
include ho

theorem adoptMilestone_alone (hr : (getStrait s e).retry = []) :
    getStrait (adoptMilestone s e m) e = { getStrait s e with
      milestone := m, table := mergeRoutes (getStrait s e).table (getStrait s e).newTable, newTable := [] } ∧
    (∀ g, g ≠ e → getStrait (adoptMilestone s e m) g = getStrait s g) ∧ Touches [.straits, .traces] s (adoptMilestone s e m) := by
  have hst := getStrait_traceAdoption s e m
  rw [adoptMilestone_older ho, resendAll_none (hst ▸ hr)]
  exact ⟨hst, fun g hg => ((traceAdoption_touches ..).getStrait (by decide) g).trans (getStrait_setStrait_other _ _ hg),
    adopted_touches s e m⟩

theorem adoptMilestone_resends (hn : ((getStrait s e).retry.map fun x => x.pkt.id).Nodup) :
    ∃ ps, (adoptMilestone s e m).packets = s.packets ++ ps ∧ ps.map (·.hdr.seq) = (getStrait s e).retry.map (·.pkt.hdr.seq) ∧
      ps.all (fun p => p.hdr.rply && decide (p.hdr.milestone = m)) = true := by
  have hst := getStrait_traceAdoption s e m
  have ht := adopted_touches s e m
  have hkeys : (getStrait (traceAdoption (adopted s e m) e m) e).retry = (getStrait s e).retry := by rw [hst]
  rw [adoptMilestone_older ho, resendAll_keys, hkeys]
  generalize traceAdoption (adopted s e m) e m = u at hst ht hkeys
  obtain ⟨ps, h1, h2, h3⟩ := resendIds_spec (m := m) (e := e) ((getStrait s e).retry.map Retry.key) u
    (fun k hk => by rw [hkeys]; exact hk) (by rw [hkeys, List.map_map]; exact hn) (by rw [hst])
  refine ⟨ps, h1.trans (congrArg (· ++ ps) (ht.same .packets (by decide))), ?_, h3⟩
  rw [h2, List.map_map]
  rfl

end

section
variable {s : State} {e : Eng} {d : Nat} (hd : (getPkg s e.pkg).routeDom = some d)
include hd

theorem exec_milestoneAdopt : exec (.milestoneAdopt e) s = .next (adoptMilestone s e (getPkg s e.pkg).milestone) :=
  congrArg Host.Outcome.next (if_neg (by simp [hd]))

variable (ho : older (getStrait s e).milestone (getPkg s e.pkg).milestone = true)
include ho

theorem milestoneAdopt_alone (hr : (getStrait s e).retry = []) : ∃ t, exec (.milestoneAdopt e) s = .next t ∧
    getStrait t e = { getStrait s e with
      milestone := (getPkg s e.pkg).milestone, table := mergeRoutes (getStrait s e).table (getStrait s e).newTable
      newTable := [] } ∧
    (∀ g, g ≠ e → getStrait t g = getStrait s g) ∧ t.packets = s.packets ∧ t.threads = s.threads ∧ SameBytes s t := by
  obtain ⟨h1, h2, ht⟩ := adoptMilestone_alone ho hr
  exact ⟨_, exec_milestoneAdopt hd, h1, h2, ht.same .packets (by decide), ht.same .threads (by decide), ht.sameBytes (by decide)⟩

theorem milestoneAdopt_resends (hn : ((getStrait s e).retry.map fun x => x.pkt.id).Nodup) :
    ∃ t ps, exec (.milestoneAdopt e) s = .next t ∧
      t.packets = s.packets ++ ps ∧ ps.map (·.hdr.seq) = (getStrait s e).retry.map (·.pkt.hdr.seq) ∧
      ps.all (fun p => p.hdr.rply && decide (p.hdr.milestone = (getPkg s e.pkg).milestone)) = true ∧
      t.threads = s.threads ∧ SameBytes s t := by
  obtain ⟨ps, h1, h2, h3⟩ := adoptMilestone_resends ho hn
  have ht := adoptMilestone_touches s e (getPkg s e.pkg).milestone
  exact ⟨_, ps, exec_milestoneAdopt hd, h1, h2, h3, ht.same .threads (by decide), ht.sameBytes (by decide)⟩

end

end Sys2Proof.Machine
end

section
/-!
PROOFS. Proofs/Packets.lean: packets on their way, terminal engines and retry buffers (spec/17 R367, R369 to R371).
-/
namespace Sys2Proof.Machine

/-! ### Moves and drops -/

/-- The packet at place n has become q, and nothing else has changed. -/
theorem putPkt_spec {s : State} {n : Nat} {p : Pkt} (hp : s.packets[n]? = some p) (q : Pkt) :
    putPkt s n q = { s with packets := (putPkt s n q).packets } ∧ (putPkt s n q).packets[n]? = some q ∧
      (putPkt s n q).packets.length = s.packets.length ∧ ∀ k, k ≠ n → (putPkt s n q).packets[k]? = s.packets[k]? := by
  have hpk : (putPkt s n q).packets = s.packets.modify n fun _ => q := rfl
  refine ⟨rfl, ?_, by rw [hpk, List.length_modify], fun k hk => ?_⟩
  · rw [hpk, List.getElem?_modify, hp]
    simp
  · rw [hpk, List.getElem?_modify]
    simp [Ne.symm hk]

/-- A misrouted packet is discarded and reported. -/
theorem misroute_spec (s : State) (n : Nat) (p : Pkt) : ∃ rep, (misroute s n p).packets = s.packets.eraseIdx n ∧
    (misroute s n p).reports = s.reports ++ [rep] ∧ rep.cause = 0x0209 ∧ rep.tval = BitVec.ofNat 64 (p.hdr.path % 4096) ∧
    rep.dest = faultThread s p.at_.pkg p.at_.die p.hdr.part ∧ Touches [.packets, .reports] s (misroute s n p) :=
  ⟨_, rfl, rfl, rfl, rfl, rfl, misroute_touches s n p⟩

theorem misroute_inbox (s : State) (n : Nat) (p : Pkt) : (misroute s n p).inbox = s.inbox ∧ (misroute s n p).inFlight = s.inFlight :=
  ⟨rfl, rfl⟩

/-- The answer of an engine to a packet of another package. -/
theorem sendAnswer_spec {s : State} {e : Eng} {p : Pkt} (hpk : e.pkg ≠ p.src.pkg)
    (hr : pathNum (getStrait s e) e.pkg p.src.pkg (getStrait s e).milestone ≠ none) (nack : Bool) :
    ∃ q, (sendAnswer s e p nack).packets = s.packets ++ [q] ∧ q.body = .answer p.hdr.seq nack ∧ q.hdr.dst.eng = p.src ∧
      q.hdr.vc = 3 ∧ q.src = e ∧ q.link = false ∧ Touches [.packets, .nextId] s (sendAnswer s e p nack) := by
  obtain ⟨⟨port, pn⟩, hp⟩ := Option.ne_none_iff_exists'.1 hr
  unfold sendAnswer
  dsimp only
  rw [if_neg hpk, hp]
  exact ⟨_, rfl, rfl, rfl, rfl, rfl, rfl, .put rfl⟩

theorem sendAnswer_inside {s : State} {e : Eng} {p : Pkt} (hpk : e.pkg = p.src.pkg) (nack : Bool) :
    sendAnswer s e p nack = landAnswer s p.src p.hdr.dst.eng.pkg p.hdr.seq nack := if_pos hpk

/-! ### Packets that leave or arrive (R367, R370) -/

section
variable {s : State} {n : Nat} {p : Pkt} (hp : s.packets[n]? = some p) (hat : atTerminal p = false)
include hp hat

theorem exec_packetArrival : exec (.packetArrival n) s = .next
    (if !p.link then leaveEngine s n p else if p.flits < pktFlits p then s else arriveEngine s n p) := by
  show execPacketArrival n s = _
  unfold execPacketArrival
  rw [hp]
  exact congrArg Host.Outcome.next (if_neg fun h => Bool.false_ne_true (hat.symm.trans h))

theorem exec_packet_leaves (hl : p.link = false) : exec (.packetArrival n) s = .next (leaveEngine s n p) :=
  (exec_packetArrival hp hat).trans (congrArg Host.Outcome.next (if_pos (by rw [hl]; rfl)))

theorem exec_packet_waits (hl : p.link = true) (hf : p.flits < pktFlits p) : exec (.packetArrival n) s = .next s :=
  (exec_packetArrival hp hat).trans (congrArg Host.Outcome.next ((if_neg (by rw [hl]; decide)).trans (if_pos hf)))

theorem exec_packet_arrives (hl : p.link = true) (hf : pktFlits p ≤ p.flits) :
    exec (.packetArrival n) s = .next (arriveEngine s n p) :=
  (exec_packetArrival hp hat).trans (congrArg Host.Outcome.next
    ((if_neg (by rw [hl]; decide)).trans (if_neg (Nat.not_lt.2 hf))))

/-- A stale packet is dropped where it is (R370). -/
theorem exec_packet_stale (h : p.link = false ∨ pktFlits p ≤ p.flits ∧ p.hdr.hops < 64)
    (ho : older p.hdr.milestone (getStrait s p.at_).milestone = true) :
    exec (.packetArrival n) s = .next (staleDrop s n p) := by
  cases hl : p.link with
  | false =>
    refine (exec_packet_leaves hp hat hl).trans (congrArg Host.Outcome.next ?_)
    exact if_pos ho
  | true =>
    obtain ⟨hf, hh⟩ := h.resolve_left (by rw [hl]; decide)
    refine (exec_packet_arrives hp hat hl hf).trans (congrArg Host.Outcome.next ?_)
    unfold arriveEngine
    exact (if_neg (Nat.not_le.2 hh)).trans (if_pos ho)

end

theorem packet_misrouted {s : State} {n : Nat} {p : Pkt} (hex : exec (.packetArrival n) s = .next (misroute s n p)) :
    ∃ t rep, exec (.packetArrival n) s = .next t ∧ t.packets = s.packets.eraseIdx n ∧
      t.reports = s.reports ++ [rep] ∧ rep.cause = 0x0209 ∧ rep.tval = BitVec.ofNat 64 (p.hdr.path % 4096) ∧
      rep.dest = faultThread s p.at_.pkg p.at_.die p.hdr.part ∧ t.threads = s.threads ∧ SameBytes s t := by
  obtain ⟨rep, h1, h2, h3, h4, h5, ht⟩ := misroute_spec s n p
  exact ⟨_, rep, hex, h1, h2, h3, h4, h5, ht.same .threads (by decide), ht.sameBytes (by decide)⟩


/-- The checks of an arriving packet have passed and no milestone is newer. -/
theorem arriveEngine_eq {s : State} {n : Nat} {p : Pkt} (hh : p.hdr.hops < 64)
    (ho : older p.hdr.milestone (getStrait s p.at_).milestone = false)
    (hn : older (getStrait s p.at_).milestone p.hdr.milestone = false) : arriveEngine s n p =
    match onRoute s p.at_ p with
    | none => misroute s n p
    | some port =>
      if p.at_.pkg = p.hdr.dst.eng.pkg then
        match p.body with
        | .answer seq nack => landAnswer (dropPkt s n) p.hdr.dst.eng p.hdr.opw.toNat seq nack
        | _ => putPkt s n { p with
            at_ := terminalOf p, link := false, hdr := addHops p.hdr (switchesBetween p.at_ (terminalOf p)) }
      else putPkt s n { p with
        at_ := portEng p.at_ port, link := false, hdr := addHops p.hdr (switchesBetween p.at_ (portEng p.at_ port)) } := by
  unfold arriveEngine
  dsimp only
  rw [if_neg (Nat.not_le.2 hh), if_neg (fun h => Bool.false_ne_true (ho.symm.trans h)), adoptMilestone_same hn] <;> rfl

theorem resendIds_milestone {e : Eng} : ∀ (is : List Nat) (s : State),
    (getStrait (is.foldl (fun s i => resend s e i) s) e).milestone = (getStrait s e).milestone
  | [], _ => rfl
  | i :: is, s => by
    refine (resendIds_milestone is (resend s e i)).trans ?_
    cases h : (getStrait s e).retry.find? (fun x => decide (x.pkt.id = i)) with
    | none =>
      unfold resend
      dsimp only
      rw [h]
    | some r => rw [(resend_spec h).2]

theorem adoptMilestone_milestone {s : State} {e : Eng} {m : Nat} (ho : older (getStrait s e).milestone m = true) :
    (getStrait (adoptMilestone s e m) e).milestone = m := by
  rw [adoptMilestone_older ho]
  unfold resendAll
  rw [resendIds_milestone, getStrait_traceAdoption]

/-- An arriving packet brings its milestone to the engine. -/
theorem arriveEngine_adopts {s : State} {n : Nat} {p : Pkt} (hh : p.hdr.hops < 64)
    (ho : older p.hdr.milestone (getStrait s p.at_).milestone = false)
    (hn : older (getStrait s p.at_).milestone p.hdr.milestone = true) :
    (getStrait (arriveEngine s n p) p.at_).milestone = p.hdr.milestone := by
  have hm := adoptMilestone_milestone hn
  unfold arriveEngine
  dsimp only
  rw [if_neg (Nat.not_le.2 hh), if_neg (fun h => Bool.false_ne_true (ho.symm.trans h))]
  generalize adoptMilestone s p.at_ p.hdr.milestone = u at hm
  split
  · exact (congrArg Strait.milestone ((misroute_touches ..).getStrait (by decide) _)).trans hm
  · split
    · split
      · exact (congrArg Strait.milestone ((landAnswer_touches ..).getStrait (by decide) _)).trans hm
      · exact hm
    · exact hm

/-! ### Terminal engines (R371) -/

theorem passOn_token {s : State} {p : Pkt} (h : p.body = .token) : passOn s p =
    { s with inFlight := s.inFlight ++ [addHops p.hdr (switchesBetween (terminalOf p) p.hdr.dst.eng)] } := by
  unfold passOn
  dsimp only
  rw [h]

/-- A packet with the hops of its way over the package's switches. -/
def atHome (p : Pkt) : Pkt := { p with hdr := addHops p.hdr (switchesBetween (terminalOf p) p.hdr.dst.eng) }

theorem passOn_other {s : State} {p : Pkt} (h : p.body ≠ .token) (hh : (atHome p).hdr.hops < 64) :
    (headerBad p = false → passOn s p = { s with inbox := s.inbox ++ [{ atHome p with body := arriveReq s p.body }] }) ∧
      (headerBad p = true → ∃ rep, passOn s p = raise s rep ∧ rep.cause = 0x0103) := by
  have hb : headerBad (atHome p) = headerBad p := rfl
  have he : passOn s p = if 64 ≤ (atHome p).hdr.hops then reportMisroute s p.hdr.dst.eng (atHome p)
      else if headerBad (atHome p) then
        raise s { dest := reportFor s (pktHome (atHome p)) p.hdr.dst.eng (atHome p).hdr.part (atHome p).hdr.lid, cause := 0x0103,
                  tval := BitVec.ofNat 64 ((atHome p).hdr.kind % 16 + 16), tinfo := (atHome p).hdr.tag,
                  tcoord := coordNat { eng := p.hdr.dst.eng }, lid := (atHome p).hdr.lid, src := p.hdr.dst.eng }
      else { s with inbox := s.inbox ++ [{ atHome p with body := arriveReq s p.body }] } := by
    obtain ⟨hdr, body, src, at_, link, flits, id, held⟩ := p
    cases body with
    | token => exact absurd rfl h
    | _ => rfl
  rw [he, if_neg (Nat.not_le.2 hh), hb]
  exact ⟨fun h => if_neg fun hc => Bool.false_ne_true (h.symm.trans hc), fun h => ⟨_, if_pos h, rfl⟩⟩

/-- The only packet of a window, the next of its pair, is passed on and nothing after it. -/
theorem passInOrder_single {s : State} {p : Pkt} {w : Terminal} (hs : p.hdr.seq = w.e) (hw : w.win = []) :
    passInOrder 256 s { w with win := p :: w.win } = (passOn s p, { e := (w.e + 1) % 2 ^ 32, win := [] }) := by
  unfold passInOrder
  simp only [hw, List.find?_cons, hs, decide_true, List.filter_cons, ne_eq, not_true_eq_false, decide_false, List.filter_nil,
    Bool.false_eq_true, if_false]
  unfold passInOrder
  rfl

section
variable {s : State} {n : Nat} {p : Pkt} (hp : s.packets[n]? = some p) (hat : atTerminal p = true)
  (ho : older p.hdr.milestone (getStrait s (terminalOf p)).milestone = false)
  (hn : older (getStrait s (terminalOf p)).milestone p.hdr.milestone = false)
include hp hat ho hn

theorem exec_terminalAccept : exec (.terminalAccept n) s = .next
    (if 64 ≤ p.hdr.hops ∨ (onRoute s (terminalOf p) p).isNone then misroute s n p
     else
      let t : Terminal := tget {} (p.src, p.hdr.dst.eng.pkg) (getStrait (dropPkt s n) (terminalOf p)).term
      let k := (p.hdr.seq + 2 ^ 32 - t.e) % 2 ^ 32
      if 2 ^ 31 ≤ k ∨ t.win.any (fun q => q.hdr.seq = p.hdr.seq) then sendAnswer (dropPkt s n) (terminalOf p) p false
      else if 256 ≤ k then dropPkt s n
      else
        let x := passInOrder 256 (sendAnswer (dropPkt s n) (terminalOf p) p false) { t with win := p :: t.win }
        modStrait x.1 (terminalOf p) fun st => { st with term := tset (p.src, p.hdr.dst.eng.pkg) x.2 st.term }) := by
  show execTerminalAccept n s = _
  unfold execTerminalAccept
  rw [hp]
  dsimp only
  rw [if_neg (by rw [hat]; decide), if_neg (fun h => Bool.false_ne_true (ho.symm.trans h)), adoptMilestone_same hn]

theorem terminal_misroutes (h : 64 ≤ p.hdr.hops ∨ onRoute s (terminalOf p) p = none) :
    ∃ t rep, exec (.terminalAccept n) s = .next t ∧
      t.packets = s.packets.eraseIdx n ∧ t.reports = s.reports ++ [rep] ∧ rep.cause = 0x0209 ∧ t.inbox = s.inbox ∧
      t.inFlight = s.inFlight ∧ t.threads = s.threads ∧ SameBytes s t := by
  obtain ⟨rep, h1, h2, h3, -, -, ht⟩ := misroute_spec s n p
  exact ⟨_, rep, (exec_terminalAccept hp hat ho hn).trans (congrArg Host.Outcome.next (if_pos (by simpa using h))), h1, h2, h3,
    ht.same .inbox (by decide), ht.same .inFlight (by decide), ht.same .threads (by decide), ht.sameBytes (by decide)⟩

variable (hh : p.hdr.hops < 64) (hr : onRoute s (terminalOf p) p ≠ none)
include hh hr

theorem exec_terminalAccept_checked : exec (.terminalAccept n) s = .next
    (let t : Terminal := tget {} (p.src, p.hdr.dst.eng.pkg) (getStrait s (terminalOf p)).term
     let k := (p.hdr.seq + 2 ^ 32 - t.e) % 2 ^ 32
     if 2 ^ 31 ≤ k ∨ t.win.any (fun q => q.hdr.seq = p.hdr.seq) then sendAnswer (dropPkt s n) (terminalOf p) p false
     else if 256 ≤ k then dropPkt s n
     else
      let x := passInOrder 256 (sendAnswer (dropPkt s n) (terminalOf p) p false) { t with win := p :: t.win }
      modStrait x.1 (terminalOf p) fun st => { st with term := tset (p.src, p.hdr.dst.eng.pkg) x.2 st.term }) := by
  refine (exec_terminalAccept hp hat ho hn).trans (congrArg Host.Outcome.next (if_neg ?_))
  rintro (h | h)
  · omega
  · exact hr (Option.isNone_iff_eq_none.1 h)

theorem terminal_ignores {w : Terminal} (hw : tget {} (p.src, p.hdr.dst.eng.pkg) (getStrait s (terminalOf p)).term = w)
    (h1 : 256 ≤ (p.hdr.seq + 2 ^ 32 - w.e) % 2 ^ 32) (h2 : (p.hdr.seq + 2 ^ 32 - w.e) % 2 ^ 32 < 2 ^ 31)
    (h3 : w.win.any (fun q => decide (q.hdr.seq = p.hdr.seq)) = false) :
    exec (.terminalAccept n) s = .next { s with packets := s.packets.eraseIdx n } := by
  have hex := exec_terminalAccept_checked hp hat ho hn hh hr
  dsimp only at hex
  rw [hw] at hex
  refine hex.trans (congrArg Host.Outcome.next ((if_neg ?_).trans (if_pos h1)))
  rintro (h | h)
  · omega
  · exact Bool.false_ne_true (h3.symm.trans h)

variable (hpk : (terminalOf p).pkg ≠ p.src.pkg)
  (hpath : pathNum (getStrait s (terminalOf p)) (terminalOf p).pkg p.src.pkg (getStrait s (terminalOf p)).milestone ≠ none)
include hpk hpath

theorem terminal_again {w : Terminal} (hw : tget {} (p.src, p.hdr.dst.eng.pkg) (getStrait s (terminalOf p)).term = w)
    (h1 : 2 ^ 31 ≤ (p.hdr.seq + 2 ^ 32 - w.e) % 2 ^ 32) : ∃ t, exec (.terminalAccept n) s = .next t ∧
      ((∃ q, t.packets = s.packets.eraseIdx n ++ [q] ∧ q.body = .answer p.hdr.seq false ∧
        q.hdr.dst.eng = p.src ∧ q.hdr.vc = 3 ∧ q.src = terminalOf p ∧ q.link = false) ∧ t.threads = s.threads ∧ SameBytes s t) ∧
      t.inFlight = s.inFlight ∧ t.inbox = s.inbox := by
  have hex := exec_terminalAccept_checked hp hat ho hn hh hr
  dsimp only at hex
  rw [hw] at hex
  obtain ⟨q, e1, e2, e3, e4, e5, e6, ht⟩ := sendAnswer_spec (s := dropPkt s n) (e := terminalOf p) (p := p) hpk hpath false
  exact ⟨_, hex.trans (congrArg Host.Outcome.next (if_pos (.inl h1))), ⟨⟨q, e1, e2, e3, e4, e5, e6⟩, ht.same .threads (by decide),
    ht.sameBytes (by decide)⟩, ht.same .inFlight (by decide), ht.same .inbox (by decide)⟩

/-- The state in which the next packet of a pair has been acknowledged. -/
def ackedState (s : State) (n : Nat) (p : Pkt) : State := sendAnswer (dropPkt s n) (terminalOf p) p false

theorem terminal_accepts {w : Terminal} (hw : tget {} (p.src, p.hdr.dst.eng.pkg) (getStrait s (terminalOf p)).term = w)
    (hs : p.hdr.seq = w.e) (hwin : w.win = []) :
    ∃ t, exec (.terminalAccept n) s = .next t ∧
      ((∃ q, t.packets = s.packets.eraseIdx n ++ [q] ∧ q.body = .answer p.hdr.seq false ∧
        q.hdr.dst.eng = p.src ∧ q.hdr.vc = 3 ∧ q.src = terminalOf p ∧ q.link = false) ∧ t.threads = s.threads ∧ SameBytes s t) ∧
      tget {} (p.src, p.hdr.dst.eng.pkg) (getStrait t (terminalOf p)).term = { e := (w.e + 1) % 2 ^ 32, win := [] } ∧
      ∃ u, u.inFlight = s.inFlight ∧ u.inbox = s.inbox ∧ u.reports = s.reports ∧ Touches [.straits] (passOn u p) t := by
  have hex := exec_terminalAccept_checked hp hat ho hn hh hr
  dsimp only at hex
  rw [hw] at hex
  obtain ⟨q, e1, e2, e3, e4, e5, e6, ht⟩ := sendAnswer_spec (s := dropPkt s n) (e := terminalOf p) (p := p) hpk hpath false
  have hk : (p.hdr.seq + 2 ^ 32 - w.e) % 2 ^ 32 = 0 := by
    rw [hs, Nat.add_sub_cancel_left, Nat.mod_self]
  have hnot : ¬ (2 ^ 31 ≤ (p.hdr.seq + 2 ^ 32 - w.e) % 2 ^ 32 ∨ w.win.any (fun q => decide (q.hdr.seq = p.hdr.seq)) = true) := by
    rw [hk, hwin]
    simp
  have hnot' : ¬ 256 ≤ (p.hdr.seq + 2 ^ 32 - w.e) % 2 ^ 32 := by
    rw [hk]
    decide
  rw [if_neg hnot, if_neg hnot', passInOrder_single hs hwin] at hex
  generalize hu : sendAnswer (dropPkt s n) (terminalOf p) p false = u at hex e1 ht
  have hpass := passOn_touches u p
  have hmod : Touches [.straits] (passOn u p) (modStrait (passOn u p) (terminalOf p) fun st =>
      { st with term := tset (p.src, p.hdr.dst.eng.pkg) { e := (w.e + 1) % 2 ^ 32, win := [] } st.term }) := modStrait_touches ..
  have hall : Touches [.packets, .nextId, .inFlight, .inbox, .reports, .straits] (dropPkt s n)
      (modStrait (passOn u p) (terminalOf p) fun st =>
        { st with term := tset (p.src, p.hdr.dst.eng.pkg) { e := (w.e + 1) % 2 ^ 32, win := [] } st.term }) :=
    ((ht.mono (by decide)).trans (hpass.mono (by decide))).trans (hmod.mono (by decide))
  refine ⟨_, hex, ⟨⟨q, ?_, e2, e3, e4, e5, e6⟩, hall.same .threads (by decide), hall.sameBytes (by decide)⟩, ?_,
    u, ht.same .inFlight (by decide), ht.same .inbox (by decide), ht.same .reports (by decide), hmod⟩
  · exact Eq.trans (hmod.same .packets (by decide)) (Eq.trans (hpass.same .packets (by decide)) e1)
  · rw [getStrait_modStrait]
    exact tget_tset_same ..

end

/-! ### Retry buffers (R369) -/

theorem admitPkts_packets : ∀ (n : Nat) (s : State) (e : Eng), ∃ ps, (admitPkts n s e).packets = s.packets ++ ps
  | 0, s, _ => ⟨[], (List.append_nil _).symm⟩
  | n + 1, s, e => by
    unfold admitPkts
    dsimp only
    split
    · exact ⟨[], (List.append_nil _).symm⟩
    · next p ps _ =>
      split
      · obtain ⟨qs, hq⟩ := admitPkts_packets n (takePkt (setStrait s e { getStrait s e with waiting := ps }) e p) e
        exact ⟨_ :: qs, hq.trans (List.append_assoc s.packets [_] qs)⟩
      · exact ⟨[], (List.append_nil _).symm⟩

theorem takePkt_sent (s : State) (e : Eng) (p : Pkt) : ∃ q, (takePkt s e p).packets = s.packets ++ [q] ∧ q.body = p.body ∧
    q.hdr.dst = p.hdr.dst ∧ q.src = e := ⟨_, rfl, rfl, rfl, rfl⟩

/-- The first packet that waits is taken where there is room. -/
theorem admitPkts_first {s : State} {e : Eng} {p : Pkt} {ps : List Pkt} (n : Nat) (hw : (getStrait s e).waiting = p :: ps)
    (hroom : retryRoom (getStrait s e) p = true) : ∃ q, (admitPkts (n + 1) s e).packets[s.packets.length]? = some q ∧
      q.body = p.body ∧ q.hdr.dst = p.hdr.dst ∧ q.src = e := by
  obtain ⟨q, h1, h2, h3, h4⟩ := takePkt_sent (setStrait s e { getStrait s e with waiting := ps }) e p
  obtain ⟨qs, hq⟩ := admitPkts_packets n (takePkt (setStrait s e { getStrait s e with waiting := ps }) e p) e
  refine ⟨q, ?_, h2, h3, h4⟩
  unfold admitPkts
  dsimp only
  rw [hw]
  dsimp only
  rw [if_pos hroom, hq, h1, List.append_assoc]
  exact (List.getElem?_append_right (Nat.le_refl _)).trans (by rw [show (setStrait s e _).packets = s.packets from rfl, Nat.sub_self]; rfl)

/-- An acknowledged packet leaves its engine's retry buffer. -/
def ackTaken (s : State) (n : Nat) (a : Answer) (r : Retry) : State :=
  modStrait { s with acks := s.acks.eraseIdx n } a.dest fun st =>
    { st with retry := st.retry.filter fun x => decide (x.pkt.id ≠ r.pkt.id) }

theorem exec_ackReceive {s : State} {n : Nat} {a : Answer} {r : Retry} (ha : s.acks[n]? = some a) (hr : answered s a = some r) :
    exec (.ackReceive n) s =
      .next (admitPkts (getStrait (ackTaken s n a r) a.dest).waiting.length (ackTaken s n a r) a.dest) := by
  show execAckReceive n s = _
  unfold execAckReceive
  rw [ha]
  dsimp only
  rw [show answered { s with acks := s.acks.eraseIdx n } a = some r from hr]
  rfl

theorem getStrait_ackTaken (s : State) (n : Nat) (a : Answer) (r : Retry) : getStrait (ackTaken s n a r) a.dest =
    { getStrait s a.dest with retry := (getStrait s a.dest).retry.filter fun x => decide (x.pkt.id ≠ r.pkt.id) } :=
  getStrait_modStrait ..

theorem ackTaken_touches (s : State) (n : Nat) (a : Answer) (r : Retry) : Touches [.acks, .straits] s (ackTaken s n a r) := .put rfl

theorem ackReceive_spec {s : State} {n : Nat} {a : Answer} {r : Retry} (ha : s.acks[n]? = some a) (hr : answered s a = some r) :
    ∃ t, exec (.ackReceive n) s = .next t ∧ t.acks = s.acks.eraseIdx n ∧ t.threads = s.threads ∧ SameBytes s t ∧
      ((getStrait s a.dest).waiting = [] → (getStrait t a.dest).retry =
        (getStrait s a.dest).retry.filter (fun x => decide (x.pkt.id ≠ r.pkt.id)) ∧ t.packets = s.packets) ∧
      ∀ p ps, (getStrait s a.dest).waiting = p :: ps →
        retryRoom { getStrait s a.dest with
          retry := (getStrait s a.dest).retry.filter (fun x => decide (x.pkt.id ≠ r.pkt.id)) } p = true →
        ∃ q, t.packets[s.packets.length]? = some q ∧ q.body = p.body ∧ q.hdr.dst = p.hdr.dst ∧ q.src = a.dest := by
  have hst := getStrait_ackTaken s n a r
  have ht := ackTaken_touches s n a r
  have hadm := admitPkts_touches (getStrait (ackTaken s n a r) a.dest).waiting.length (ackTaken s n a r) a.dest
  refine ⟨_, exec_ackReceive ha hr, hadm.same .acks (by decide), Eq.trans (hadm.same .threads (by decide)) (ht.same .threads (by decide)),
    SameBytes.trans (ht.sameBytes (by decide)) (hadm.sameBytes (by decide)), fun hw => ?_, fun p ps hw hroom => ?_⟩
  · rw [hst, show ({ getStrait s a.dest with retry := _ } : Strait).waiting = [] from hw]
    exact ⟨by rw [List.length_nil]; exact congrArg Strait.retry hst, rfl⟩
  · rw [hst, show ({ getStrait s a.dest with retry := _ } : Strait).waiting = p :: ps from hw, List.length_cons]
    exact admitPkts_first ps.length ((congrArg Strait.waiting hst).trans hw) (by rw [hst]; exact hroom)

/-- A kept packet has been sent again. -/
theorem resend_again {s : State} {e : Eng} {r : Retry}
    (h : (getStrait s e).retry.find? (fun x => decide (x.pkt.id = r.pkt.id)) = some r) :
    (∃ p, (resend s e r.pkt.id).packets = s.packets ++ [p] ∧ p.hdr.rply = true ∧ p.hdr.seq = r.pkt.hdr.seq ∧
        p.body = r.pkt.body ∧ p.hdr.milestone = (getStrait s e).milestone ∧ p.link = false) ∧
      (getStrait (resend s e r.pkt.id) e).retry.length = (getStrait s e).retry.length := by
  obtain ⟨h1, h2⟩ := resend_spec h
  refine ⟨⟨_, h1, rfl, rfl, rfl, rfl, rfl⟩, ?_⟩
  rw [h2]
  exact resentList_length s e r

theorem exec_nackReceive {s : State} {n : Nat} {a : Answer} {r : Retry} (ha : s.nacks[n]? = some a) (hr : answered s a = some r) :
    exec (.nackReceive n) s = .next (resend { s with nacks := s.nacks.eraseIdx n } a.dest r.pkt.id) := by
  show execNackReceive n s = _
  unfold execNackReceive
  rw [ha]
  dsimp only
  rw [show answered { s with nacks := s.nacks.eraseIdx n } a = some r from hr]

theorem exec_retryTimeout {s : State} {e : Eng} {n : Nat} {r : Retry} (hr : (getStrait s e).retry[n]? = some r) :
    exec (.retryTimeout e n) s =
      .next (if r.sent + 16000 ≤ (getPkg s e.pkg).time then resend s e r.pkt.id else s) := by
  show execRetryTimeout e n s = _
  unfold execRetryTimeout
  rw [hr]

/-- Settles O53: each step on a link or a packet is an equation that its checks select, and what it leaves of the packets is
`putPkt_spec`, `misroute_spec` or `sendAnswer_spec`. -/
theorem linksAndPackets : Obligations.LinksAndPackets := by
  unfold Obligations.LinksAndPackets
  intro s
  refine ⟨?_, ?_, ?_, ?_, ?_, ?_, ?_, ?_⟩
  · intro e
    refine ⟨exec_linkFlitReceive_none, fun n p hi hr hd => ?_⟩
    intro took
    have hex := exec_linkFlitReceive hi hr hd
    have htook : took (tookFlit s e n) := tookFlit_spec (incoming_spec hi)
    refine ⟨⟨_, (hex 0).trans (congrArg Host.Outcome.next (if_pos (flitGood_sent p))), htook⟩, fun x => ⟨fun hg => ?_, fun hb => ?_⟩⟩
    · exact ⟨_, (hex x).trans (congrArg Host.Outcome.next (if_pos hg)), htook⟩
    · exact (hex x).trans (congrArg Host.Outcome.next (if_neg fun h => Bool.false_ne_true (hb.symm.trans h)))
  · intro e
    exact ⟨fun h => exec_linkDeath_waits (.inl ⟨rfl, h⟩), fun lost h => exec_linkDeath_waits (.inr h),
      fun lost hl hd => ⟨linkDeath_strait hl hd, fun f => linkDeath_cable hl hd⟩⟩
  · intro pkg d hdom ps m
    refine ⟨exec_milestoneChange_waits hdom, fun k h1 h2 hk => ⟨_, exec_milestoneChange hdom h1 h2 hk, fun p hp => ?_, fun p hp => ?_,
      changeDue_noticed .., rfl, fun _ => ⟨rfl, rfl, rfl⟩⟩⟩
    · rw [getPkg_movedTo]
      exact congrArg Package.milestone (if_pos hp)
    · rw [getPkg_movedTo]
      exact if_neg hp
  · intro e d hd st m
    refine ⟨fun ho => ?_, milestoneAdopt_alone hd, milestoneAdopt_resends hd⟩
    rw [exec_milestoneAdopt hd, adoptMilestone_same ho]
  · intro n p hp hat st moves lost
    have hput : ∀ q, exec (.packetArrival n) s = .next (putPkt s n q) → moves q := fun q h => by
      obtain ⟨h1, h2, h3, h4⟩ := putPkt_spec hp q
      exact ⟨_, h, h1, h2, h3, h4⟩
    refine ⟨fun hl ho => ?_, fun hc ho => ?_, exec_packet_waits hp hat, fun hl hf hh => packet_misrouted ?_, fun hl hf hh ho => ?_⟩
    · have hex := exec_packet_leaves hp hat hl
      refine ⟨fun h => hex.trans (congrArg Host.Outcome.next ?_), fun f hd hg hf ho' => hput _ (hex.trans (congrArg Host.Outcome.next ?_))⟩
      · unfold leaveEngine
        exact (if_neg fun hc => Bool.false_ne_true (ho.symm.trans hc)).trans (if_pos (by simpa using h))
      · unfold leaveEngine
        dsimp only
        rw [if_neg (fun hc => Bool.false_ne_true (ho.symm.trans hc)), if_neg (by
          rw [show (getStrait s p.at_).dead = false from hd, hg]
          decide), hf]
        exact if_neg fun hc => Bool.false_ne_true (ho'.symm.trans hc)
    · have hex := exec_packet_stale hp hat hc ho
      refine ⟨fun h => hex.trans (congrArg Host.Outcome.next (if_pos ?_)), fun ha hl => ?_⟩
      · simpa [and_comm] using h
      · have hstale : staleDrop s n p = sendAnswer (dropPkt s n) p.at_ p true := if_neg (by
          rcases hl with hl | hl <;> simp [ha, hl])
        refine ⟨fun hpk => hex.trans (congrArg Host.Outcome.next (hstale.trans (sendAnswer_inside hpk true))), fun hpk hr => ?_⟩
        obtain ⟨q, e1, e2, e3, e4, -, -, ht⟩ := sendAnswer_spec (s := dropPkt s n) (e := p.at_) (p := p) hpk hr true
        exact ⟨_, q, hex.trans (congrArg Host.Outcome.next hstale), e1, e2, e3, e4, ht.same .threads (by decide),
          ht.sameBytes (by decide)⟩
    · exact (exec_packet_arrives hp hat hl hf).trans (congrArg Host.Outcome.next (if_pos hh))
    · have hex := exec_packet_arrives hp hat hl hf
      refine ⟨fun hn => ⟨_, hex, arriveEngine_adopts hh ho hn⟩, fun hn => ?_⟩
      rw [arriveEngine_eq hh ho hn] at hex
      refine ⟨fun hr => packet_misrouted (by rw [hex, hr]), fun port hport => ?_⟩
      have hr : onRoute s p.at_ p = some port := by
        unfold onRoute
        rw [show pathNum (getStrait s p.at_) p.src.pkg p.hdr.dst.eng.pkg p.hdr.milestone = some (port, p.hdr.path) from hport]
        exact if_pos rfl
      rw [hr] at hex
      refine ⟨fun seq nack hpk hb => ?_, ?_⟩
      · rw [hex]
        dsimp only
        rw [if_pos hpk, hb]
        rfl
      · intro hc f
        refine hput _ ?_
        rw [hex]
        dsimp only
        by_cases hpk : p.at_.pkg = p.hdr.dst.eng.pkg
        · have ha := hc.resolve_left (not_not_intro hpk)
          rw [if_pos hpk, show f = terminalOf p from if_pos hpk]
          split
          · next h => exact absurd ha (by unfold isAnswer; rw [h]; exact Bool.true_eq_false_eq_False)
          · rfl
        · rw [if_neg hpk, show f = portEng p.at_ port from if_neg hpk]
  · intro n p hp hat e st key w k acked ho hn
    refine ⟨terminal_misroutes hp hat ho hn, fun hh hr => ⟨fun hpk hpath => ⟨fun hs hwin => ?_, fun h1 => ?_⟩, fun h1 h2 h3 => ?_⟩⟩
    · obtain ⟨t, h1, h2, h3, u, u1, u2, u3, ht⟩ := terminal_accepts hp hat ho hn hh hr hpk hpath rfl hs hwin
      refine ⟨t, h1, h2, h3, fun hb => ?_, fun hb hbad hhop => ?_, fun hb hbad hhop => ?_⟩
      · have hpass := passOn_token (s := u) hb
        rw [ht.same .inFlight (by decide), ht.same .inbox (by decide), hpass]
        exact ⟨congrArg (· ++ _) u1, u2⟩
      · have hpass := (passOn_other (s := u) hb hhop).1 hbad
        rw [ht.same .inFlight (by decide), ht.same .inbox (by decide), hpass]
        exact ⟨⟨u, congrArg (· ++ _) u2⟩, u1⟩
      · obtain ⟨rep, hpass, hcause⟩ := (passOn_other (s := u) hb hhop).2 hbad
        refine ⟨rep, ?_⟩
        rw [ht.same .inFlight (by decide), ht.same .inbox (by decide), ht.same .reports (by decide), hpass]
        exact ⟨congrArg (· ++ _) u3, hcause, u2, u1⟩
    · exact terminal_again hp hat ho hn hh hr hpk hpath rfl h1
    · exact terminal_ignores hp hat ho hn hh hr rfl h1 h2 h3
  · intro n a r ha hr left
    exact ackReceive_spec ha hr
  · intro e r hr again
    have hag : ∀ u : State, u.packets = s.packets → u.straits = s.straits → u.threads = s.threads → SameBytes s u →
        again (resend u e r.pkt.id) := by
      intro u h1 h2 h3 h4
      have hst : getStrait u e = getStrait s e := congrArg (tget ({} : Strait) e) h2
      have hre := resend_touches u e r.pkt.id
      obtain ⟨⟨p, e1, e2, e3, e4, e5, e6⟩, hlen⟩ := resend_again (s := u) (e := e) (r := r) (by rw [hst]; exact hr)
      exact ⟨⟨p, e1.trans (congrArg (· ++ [p]) h1), e2, e3, e4, hst ▸ e5, e6⟩, hst ▸ hlen,
        Eq.trans (hre.same .threads (by decide)) h3, SameBytes.trans h4 (hre.sameBytes (by decide))⟩
    refine ⟨fun n a ha he hans => ?_, fun n hn => ?_⟩
    · subst he
      refine ⟨_, exec_nackReceive ha hans, (resend_touches ..).same .nacks (by decide), ?_⟩
      exact hag { s with nacks := s.nacks.eraseIdx n } rfl rfl rfl fun _ => ⟨rfl, rfl, rfl⟩
    · have hex := exec_retryTimeout hn
      exact ⟨fun h => hex.trans (congrArg Host.Outcome.next (if_neg (Nat.not_le.2 h))),
        fun h => ⟨_, hex.trans (congrArg Host.Outcome.next (if_pos h)), hag s rfl rfl rfl fun _ => ⟨rfl, rfl, rfl⟩⟩⟩

end Sys2Proof.Machine
end

section
/-!
PROOFS. Proofs/HostFn.lean: PCIe functions, the command rings and the completion of commands (spec/20 R403 to R407).
-/
namespace Sys2Proof.Machine

/-! ### Functions -/

theorem Touches.getFn {l : List Field} {s t : State} (h : Touches l s t) (hl : l.contains .fns = false) (k : Nat × Nat) :
    getFn t k = getFn s k := by
  have e : t.fns = s.fns := h.same .fns (by simpa using hl)
  unfold Machine.getFn
  rw [e]

theorem getFn_modFn (s : State) (k : Nat × Nat) (f : Fn → Fn) : getFn (modFn s k f) k = f (getFn s k) := tget_tset_same ..

/-! ### BAR0 and BAR2 (R403, R404) -/

section
variable {s : State} {pkg fn : Nat} (h : fnOpen s pkg fn = false)
include h

theorem fnClosed_spec : exec (.zbell pkg fn) s = .next s ∧ (∀ v, exec (.zringWrite pkg fn v) s = .next s) ∧
    (∀ off v, exec (.registerWrite pkg fn off v) s = .next s) ∧ ∀ off a, exec (.bar2Access pkg fn off a) s = .next s := by
  refine ⟨congrArg Host.Outcome.next (if_neg ?_), fun v => congrArg Host.Outcome.next (if_pos ?_),
    fun off v => congrArg Host.Outcome.next (if_neg ?_), fun off a => congrArg Host.Outcome.next (if_pos ?_)⟩
  · rw [h]
    decide
  · rw [h]
    rfl
  · rintro ⟨-, hc⟩
    exact Bool.false_ne_true (h.symm.trans hc)
  · rw [h]
    rfl

end

section
variable {s : State} {pkg fn : Nat} (h : fnOpen s pkg fn = true)
include h

theorem exec_zbell : exec (.zbell pkg fn) s = .next (modFn s (pkg, fn) fun f => { f with bell := true }) :=
  congrArg Host.Outcome.next (if_pos h)

theorem exec_registerWrite_zvec (v : Word) :
    exec (.registerWrite pkg fn 0x020 v) s = .next (modFn s (pkg, fn) fun f => { f with zvec := v &&& 0x3F#64 }) :=
  congrArg Host.Outcome.next (if_pos ⟨rfl, h⟩)

omit h in
theorem exec_registerWrite_other {off : Nat} (ho : off ≠ 0x020) (v : Word) : exec (.registerWrite pkg fn off v) s = .next s :=
  congrArg Host.Outcome.next (if_neg fun hc => ho hc.1)

theorem exec_zringWrite (v : Word) : exec (.zringWrite pkg fn v) s = .next (setFn s (pkg, fn)
    (if (getFn s (pkg, fn)).cmds.isEmpty then
      { getFn s (pkg, fn) with zring := v &&& 0xFFFFFFFFFFFFF00F#64, zringNext := none }
    else { getFn s (pkg, fn) with zringNext := some (v &&& 0xFFFFFFFFFFFFF00F#64) })) :=
  congrArg Host.Outcome.next (if_neg (by rw [h]; decide))

/-- The host has an answer to its access. -/
def replied (s : State) (pkg fn : Nat) (a : Option (List Byte)) : State := modFn s (pkg, fn) fun f => { f with answer := a }

omit h in
theorem replied_answer (s : State) (pkg fn : Nat) (a : Option (List Byte)) :
    (getFn (replied s pkg fn a) (pkg, fn)).answer = a := congrArg Fn.answer (getFn_modFn ..)

omit h in
theorem replied_touches (s : State) (pkg fn : Nat) (a : Option (List Byte)) : Touches [.fns] s (replied s pkg fn a) := .put rfl

theorem exec_bar2Read (off n : Nat) : exec (.bar2Access pkg fn off (.read n)) s = .next
    (let w := coreWalks s pkg fn (pagePieces off n)
     match translateRange w (qmEng pkg 0) fn .op .read off n with
     | .error _ => replied w pkg fn none
     | .ok ps =>
        let r := readPieces w ps
        if r.2.1 then let f := freeBytes r.2.2 n; replied f.2 pkg fn (some f.1) else replied r.2.2 pkg fn (some r.1)) := by
  show execBar2Access pkg fn off (.read n) s = _
  unfold execBar2Access
  refine congrArg Host.Outcome.next ((if_neg (by rw [h]; decide)).trans ?_)
  rfl

theorem exec_bar2Write (off : Nat) (d : List Byte) : exec (.bar2Access pkg fn off (.write d)) s = .next
    (let w := coreWalks s pkg fn (pagePieces off d.length)
     match translateRange w (qmEng pkg 0) fn .op .write off d.length with
     | .error _ => replied w pkg fn none
     | .ok ps => replied (writePieces w d ps) pkg fn (some [])) := by
  show execBar2Access pkg fn off (.write d) s = _
  unfold execBar2Access
  refine congrArg Host.Outcome.next ((if_neg (by rw [h]; decide)).trans ?_)
  rfl

theorem bar2Read_refused {off n : Nat} {x : XFault × Nat}
    (hx : translateRange (coreWalks s pkg fn (pagePieces off n)) (qmEng pkg 0) fn .op .read off n = .error x) :
    ∃ t, exec (.bar2Access pkg fn off (.read n)) s = .next t ∧ (getFn t (pkg, fn)).answer = none ∧ SameBytes s t := by
  have hex := exec_bar2Read h off n
  dsimp only at hex
  rw [hx] at hex
  exact ⟨_, hex, replied_answer .., SameBytes.trans ((coreWalks_touches ..).sameBytes (by decide))
    ((replied_touches ..).sameBytes (by decide))⟩

theorem bar2Read_answered {off n : Nat} {ps : List (Target × Nat)} {bs : List Byte} {u : State}
    (hx : translateRange (coreWalks s pkg fn (pagePieces off n)) (qmEng pkg 0) fn .op .read off n = .ok ps)
    (hr : readPieces (coreWalks s pkg fn (pagePieces off n)) ps = (bs, false, u)) :
    ∃ t, exec (.bar2Access pkg fn off (.read n)) s = .next t ∧ (getFn t (pkg, fn)).answer = some bs ∧ SameBytes s t := by
  have hex := exec_bar2Read h off n
  dsimp only at hex
  rw [hx] at hex
  dsimp only at hex
  rw [hr] at hex
  have hu : Touches [.bankModes] (coreWalks s pkg fn (pagePieces off n)) u := by
    have k := readPieces_touches (coreWalks s pkg fn (pagePieces off n)) ps
    rw [hr] at k
    exact k
  exact ⟨_, hex.trans (congrArg Host.Outcome.next (if_neg (show ¬ false = true by decide))), replied_answer ..,
    SameBytes.trans ((coreWalks_touches ..).sameBytes (by decide)) (SameBytes.trans (hu.sameBytes (by decide))
      ((replied_touches ..).sameBytes (by decide)))⟩

theorem bar2Write_stores {off g : Nat} {d : List Byte} (hs : s.MemOk)
    (hx : translateRange (coreWalks s pkg fn (pagePieces off d.length)) (qmEng pkg 0) fn .op .write off d.length =
      .ok [(.hbm g, d.length)]) :
    ∃ t, exec (.bar2Access pkg fn off (.write d)) s = .next t ∧ StoresHbm s t g d ∧ (getFn t (pkg, fn)).answer = some [] := by
  have hex := exec_bar2Write h off d
  dsimp only at hex
  rw [hx] at hex
  have hw : Touches [.engines, .bankModes] s (coreWalks s pkg fn (pagePieces off d.length)) := coreWalks_touches ..
  have hst := writeHbm_stores (hw.memOk (by decide) hs) g d
  refine ⟨_, hex, ?_, replied_answer ..⟩
  show StoresHbm s (replied (writeHbm _ g (d.take d.length)) pkg fn (some [])) g d
  rw [List.take_length]
  exact (hst.after ((replied_touches ..).sameBytes (by decide))).before (hw.sameBytes (by decide))

end

/-! ### The ring (R405) -/

theorem exec_zcmdRingPoll_waits {s : State} {pkg fn : Nat} (h : (getFn s (pkg, fn)).cmds ≠ [] ∨ fnEnabled s pkg fn = false) :
    exec (.zcmdRingPoll pkg fn) s = .next s := by
  refine congrArg Host.Outcome.next (if_pos ?_)
  rcases h with h | h
  · exact .inr (by simpa using h)
  · exact .inl (by rw [h]; rfl)

/-- The depth of a function's ring. -/
def ringDepth (s : State) (pkg fn : Nat) : Nat := 2 ^ (2 + Nat.min 6 ((getFn s (pkg, fn)).zring.toNat % 16))

/-- The address of the command record at a read index. -/
def cmdAddr (s : State) (pkg fn r : Nat) : Nat := ringBase s pkg fn + 64 + 64 * (r % ringDepth s pkg fn)

/-- The state with the service core's reads of a ring's read index and record counted. -/
def pollReads (s : State) (pkg fn r : Nat) : State :=
  svcReads (svcReads s pkg fn (ringBase s pkg fn + 8) 8) pkg fn (cmdAddr s pkg fn r) 64

section
variable {s : State} {pkg fn : Nat} {ri b : List Byte} (hc : (getFn s (pkg, fn)).cmds = []) (he : fnEnabled s pkg fn = true)
  (hri : svcRead s pkg fn (ringBase s pkg fn + 8) 8 = some ri)
  (hb : svcRead (pollReads s pkg fn (leNat ri)) pkg fn (cmdAddr s pkg fn (leNat ri)) 64 = some b)
include hc he hri hb

theorem exec_zcmdRingPoll : exec (.zcmdRingPoll pkg fn) s = .next
    (if field b 56 8 ≠ (leNat ri + 1) % 2 ^ 64 then
      modFn (pollReads s pkg fn (leNat ri)) (pkg, fn) fun f => { f with bell := false }
    else match svcWrite (pollReads s pkg fn (leNat ri)) pkg fn (ringBase s pkg fn + 8) (leBytes 8 ((leNat ri + 1) % 2 ^ 64)) with
      | none => pollReads s pkg fn (leNat ri)
      | some v =>
        let c := cmdOf b (leNat ri % ringDepth s pkg fn)
        let s := modFn v (pkg, fn) fun f => { f with cmds := [c] }
        if knownOps.contains c.op then s else complete s pkg fn c (errWord 0x02) []) := by
  show execZcmdRingPoll pkg fn s = _
  unfold execZcmdRingPoll
  have hn : ¬ (!fnEnabled s pkg fn ∨ !(getFn s (pkg, fn)).cmds.isEmpty) := by simp [he, hc]
  refine congrArg Host.Outcome.next ((if_neg hn).trans ?_)
  dsimp only
  rw [hri]
  dsimp only
  rw [show svcRead (svcReads (svcReads s pkg fn (ringBase s pkg fn + 8) 8) pkg fn (ringBase s pkg fn + 64 + 64 * (leNat ri %
    2 ^ (2 + Nat.min 6 ((getFn s (pkg, fn)).zring.toNat % 16)))) 64) pkg fn (ringBase s pkg fn + 64 + 64 * (leNat ri %
    2 ^ (2 + Nat.min 6 ((getFn s (pkg, fn)).zring.toNat % 16)))) 64 = some b from hb]
  rfl

theorem exec_zcmdRingPoll_unsealed (h : field b 56 8 ≠ (leNat ri + 1) % 2 ^ 64) : exec (.zcmdRingPoll pkg fn) s =
    .next (modFn (pollReads s pkg fn (leNat ri)) (pkg, fn) fun f => { f with bell := false }) :=
  (exec_zcmdRingPoll hc he hri hb).trans (congrArg Host.Outcome.next (if_pos h))

theorem zcmdRingPoll_takes {v : State} (h : field b 56 8 = (leNat ri + 1) % 2 ^ 64)
    (hv : svcWrite (pollReads s pkg fn (leNat ri)) pkg fn (ringBase s pkg fn + 8) (leBytes 8 ((leNat ri + 1) % 2 ^ 64)) = some v)
    (hk : knownOps.contains (field b 0 2) = true) : ∃ t, exec (.zcmdRingPoll pkg fn) s = .next t ∧
      (getFn t (pkg, fn)).cmds = [cmdOf b (leNat ri % ringDepth s pkg fn)] ∧ t.hbm = v.hbm ∧ t.hostMem = v.hostMem ∧
      t.threads = s.threads := by
  have hex := (exec_zcmdRingPoll hc he hri hb).trans (congrArg Host.Outcome.next (if_neg (not_not_intro h)))
  rw [hv] at hex
  have h1 : Touches [.engines, .bankModes] s (pollReads s pkg fn (leNat ri)) :=
    (svcReads_touches ..).trans (svcReads_touches ..)
  have h2 := svcWrite_touches (pollReads s pkg fn (leNat ri)) pkg fn (ringBase s pkg fn + 8) (leBytes 8 ((leNat ri + 1) % 2 ^ 64))
  rw [hv] at h2
  refine ⟨_, hex.trans (congrArg Host.Outcome.next (if_pos hk)), congrArg Fn.cmds (getFn_modFn ..), rfl, rfl, ?_⟩
  exact Eq.trans (Touches.same h2 .threads (by decide)) (h1.same .threads (by decide))

end

/-! ### Commands (R406) -/

/-- Each command that one step performs runs at the head of its function's ring. -/
theorem cmdForms_run {p : Nat × (Nat → Nat → Instr)} (hp : p ∈ cmdForms) (s : State) (pkg fn : Nat) :
    ∃ f, exec (p.2 pkg fn) s = .next (runOp s pkg fn p.1 f) := by
  revert p
  simp only [cmdForms, List.forall_mem_cons]
  exact ⟨⟨_, rfl⟩, ⟨_, rfl⟩, ⟨_, rfl⟩, ⟨_, rfl⟩, ⟨_, rfl⟩, ⟨_, rfl⟩, ⟨_, rfl⟩, ⟨_, rfl⟩, ⟨_, rfl⟩, ⟨_, rfl⟩, ⟨_, rfl⟩, ⟨_, rfl⟩,
    ⟨_, rfl⟩, ⟨_, rfl⟩, ⟨_, rfl⟩, ⟨_, rfl⟩, ⟨_, rfl⟩, ⟨_, rfl⟩, ⟨_, rfl⟩, ⟨_, rfl⟩, fun _ h => absurd h List.not_mem_nil⟩

section
variable {s : State} {pkg fn op : Nat} {c : Cmd} {cs : List Cmd} (hc : (getFn s (pkg, fn)).cmds = c :: cs) (f : Cmd → Answered)
include hc

theorem runOp_other (h : c.op ≠ op) : runOp s pkg fn op f = s := by
  unfold runOp runCmd
  rw [hc]
  exact if_pos (by simpa using h)

theorem runOp_refused {w : Word} (h : c.op = op) (hr : cmdRefusal fn c = some w) :
    runOp s pkg fn op f = complete s pkg fn c w [] := by
  unfold runOp runCmd
  rw [hc]
  refine (if_neg (by simpa using h)).trans ?_
  rw [hr]

end

/-- A command at the head of its function's ring takes its own effect. -/
theorem runOp_heads {s : State} {pkg fn op : Nat} {c : Cmd} (h : Heads s pkg fn op c) (f : Cmd → Answered) :
    runOp s pkg fn op f = match f c with
      | .wait s => s
      | .done w d s => complete s pkg fn c w d := by
  obtain ⟨⟨cs, hc⟩, hr, hop⟩ := h
  unfold runOp runCmd
  rw [hc]
  refine (if_neg (by simpa using hop)).trans ?_
  rw [hr] <;> rfl

/-! ### Completion (R406) -/

/-- What a completion changes of its function. -/
def completedFn (f : Fn) : Fn :=
  { f with
    cmds := f.cmds.tail
    zring := f.zringNext.getD f.zring
    zringNext := none
    vectors := if f.zvec.getLsbD 5 then f.vectors ++ [f.zvec.toNat % 32] else f.vectors }

/-- The 16 bytes of a completion. -/
def doneBytes (c : Cmd) (w : Word) : List Byte := leBytes 8 w.toNat ++ leBytes 8 c.cookie

theorem doneBytes_length (c : Cmd) (w : Word) : (doneBytes c w).length = 16 := by
  unfold doneBytes
  rw [List.length_append, leBytes_length, leBytes_length]

/-- The result word and the state after the data of a completion went to its buffer. -/
def dataWritten (s : State) (pkg fn : Nat) (c : Cmd) (w : Word) (data : List Byte) : Word × State :=
  if data.isEmpty ∨ c.buf = 0 then (w, s)
  else match svcWrite s pkg fn c.buf.toNat data with
    | some s => (w, s)
    | none => (if c.op = 0x12 then w else errWord 0x02, s)

theorem dataWritten_nil (s : State) (pkg fn : Nat) (c : Cmd) (w : Word) : dataWritten s pkg fn c w [] = (w, s) :=
  if_pos (Or.inl rfl)

theorem complete_eq (s : State) (pkg fn : Nat) (c : Cmd) (w : Word) (data : List Byte) : complete s pkg fn c w data =
    let x := dataWritten s pkg fn c w data
    modFn ((svcWrite x.2 pkg fn c.done.toNat (doneBytes c x.1)).getD x.2) (pkg, fn) completedFn := rfl

/-- A completion whose data is stored leaves its word at its place. -/
theorem complete_of_written {s u v : State} {pkg fn : Nat} {c : Cmd} {w : Word} {data : List Byte}
    (hd : dataWritten s pkg fn c w data = (w, u)) (hv : svcWrite u pkg fn c.done.toNat (doneBytes c w) = some v) :
    complete s pkg fn c w data = modFn v (pkg, fn) completedFn := by
  rw [complete_eq, hd]
  dsimp only
  rw [hv]
  rfl

/-- A write of the service core to one range of the partition's memory. -/
theorem svcWrite_hbm {s : State} {pkg fn va g : Nat} {bs : List Byte} (hw : windowOk s pkg fn (ringBase s pkg fn) = true)
    (ht : translateRange s (qmEng pkg 0) fn .copy .write va bs.length = .ok [(.hbm g, bs.length)]) :
    svcWrite s pkg fn va bs = some (writeHbm s g bs) := by
  unfold svcWrite svcPieces
  rw [if_pos hw, ht]
  show some (writeHbm s g (bs.take bs.length)) = _
  rw [List.take_length]

theorem completed_stores {s v : State} {pkg fn g : Nat} {bs : List Byte} (hst : StoresHbm s v g bs)
    (hfn : getFn v (pkg, fn) = getFn s (pkg, fn)) :
    StoresHbm s (modFn v (pkg, fn) completedFn) g bs ∧
      (getFn (modFn v (pkg, fn) completedFn) (pkg, fn)).cmds = (getFn s (pkg, fn)).cmds.tail := by
  refine ⟨hst.after (Touches.sameBytes (l := [.fns]) (.put rfl) (by decide)), ?_⟩
  rw [getFn_modFn, hfn]
  rfl

theorem complete_stores {s : State} {pkg fn g : Nat} {c : Cmd} {w : Word} (hs : s.MemOk)
    (hw : windowOk s pkg fn (ringBase s pkg fn) = true)
    (ht : translateRange s (qmEng pkg 0) fn .copy .write c.done.toNat 16 = .ok [(.hbm g, 16)]) :
    StoresHbm s (complete s pkg fn c w []) g (doneBytes c w) ∧
      (getFn (complete s pkg fn c w []) (pkg, fn)).cmds = (getFn s (pkg, fn)).cmds.tail := by
  rw [complete_of_written (dataWritten_nil ..) (svcWrite_hbm hw (by rw [doneBytes_length]; exact ht))]
  exact completed_stores (writeHbm_stores hs g _) ((writeHbm_touches ..).getFn (by decide) _)

/-- A write of the service core to host memory. -/
theorem svcWrite_host {s : State} {pkg fn : Nat} (hw : windowOk s pkg fn (ringBase s pkg fn) = false) (va : Nat) (bs : List Byte) :
    svcWrite s pkg fn va bs = some { s with hostMem := memWrite s.hostMem va bs } := by
  unfold svcWrite svcPieces
  rw [if_neg (by rw [hw]; decide)]
  show some { s with hostMem := memWrite s.hostMem va (bs.take bs.length) } = _
  rw [List.take_length]

/-- Where the data of a completion goes in host memory. -/
def withData (m : Memory) (c : Cmd) (data : List Byte) : Memory :=
  if data = [] ∨ c.buf = 0 then m else memWrite m c.buf.toNat data

theorem withData_none {m : Memory} {c : Cmd} {data : List Byte} (h : data = [] ∨ c.buf = 0) : withData m c data = m := if_pos h

theorem withData_some {m : Memory} {c : Cmd} {data : List Byte} (hd : data ≠ []) (hb : c.buf ≠ 0) :
    withData m c data = memWrite m c.buf.toNat data := if_neg (not_or.2 ⟨hd, hb⟩)

theorem withData_wf {m : Memory} (h : m.wf = true) (c : Cmd) (data : List Byte) : (withData m c data).wf = true := by
  unfold withData
  split
  · exact h
  · exact memWrite_wf _ _ h

theorem dataWritten_host {s : State} {pkg fn : Nat} (c : Cmd) (w : Word) (data : List Byte)
    (hw : windowOk s pkg fn (ringBase s pkg fn) = false) :
    dataWritten s pkg fn c w data = (w, { s with hostMem := withData s.hostMem c data }) := by
  unfold dataWritten
  by_cases h : data = [] ∨ c.buf = 0
  · rw [withData_none h]
    exact if_pos (h.imp_left List.isEmpty_iff.2)
  · obtain ⟨hd, hb⟩ := not_or.1 h
    rw [withData_some hd hb, if_neg (not_or.2 ⟨fun hc => hd (List.isEmpty_iff.1 hc), hb⟩), svcWrite_host hw]

/-- The memory of the host after a completion. -/
def completedMem (m : Memory) (c : Cmd) (w : Word) (data : List Byte) : Memory :=
  memWrite (withData m c data) c.done.toNat (doneBytes c w)

theorem complete_host {s : State} {pkg fn : Nat} (c : Cmd) (w : Word) (data : List Byte)
    (hw : windowOk s pkg fn (ringBase s pkg fn) = false) : complete s pkg fn c w data =
      modFn { s with hostMem := completedMem s.hostMem c w data } (pkg, fn) completedFn :=
  complete_of_written (dataWritten_host c w data hw) (svcWrite_host (by exact hw) ..)

theorem completedMem_spec {m : Memory} (hm : m.wf = true) (c : Cmd) (w : Word) (data : List Byte)
    (hap : data ≠ [] → c.buf ≠ 0 → c.buf.toNat + data.length ≤ c.done.toNat ∨ c.done.toNat + 16 ≤ c.buf.toNat) :
    memRead (completedMem m c w data) c.done.toNat 16 = doneBytes c w ∧
      (data ≠ [] → c.buf ≠ 0 → memRead (completedMem m c w data) c.buf.toNat data.length = data) ∧
      ∀ a, a < c.done.toNat ∨ c.done.toNat + 16 ≤ a →
        (data = [] ∨ c.buf = 0 ∨ a < c.buf.toNat ∨ c.buf.toNat + data.length ≤ a) →
        memGet (completedMem m c w data) a = memGet m a := by
  have hlen := doneBytes_length c w
  unfold completedMem
  generalize doneBytes c w = bs at hlen
  refine ⟨?_, fun hd hb => ?_, fun a h1 h2 => ?_⟩
  · rw [memRead_memWrite (withData_wf hm c data) (Nat.le_of_eq hlen.symm), List.take_of_length_le (Nat.le_of_eq hlen)]
  · have h := hap hd hb
    rw [memRead_memWrite_apart _ _ _ _ _ (by rw [hlen]; omega), withData_some hd hb,
      memRead_memWrite hm (Nat.le_refl _), List.take_length]
  · rw [memGet_memWrite_other _ _ _ (by rw [hlen]; exact h1)]
    by_cases h : data = [] ∨ c.buf = 0
    · rw [withData_none h]
    · obtain ⟨hd, hb⟩ := not_or.1 h
      rw [withData_some hd hb]
      exact memGet_memWrite_other _ _ _ ((h2.resolve_left hd).resolve_left hb)

theorem completed_host (s : State) (m : Memory) (k : Nat × Nat) :
    let t := modFn { s with hostMem := m } k completedFn
    t.hostMem = m ∧ t.hbm = s.hbm ∧ t.l0 = s.l0 ∧ t.threads = s.threads ∧ getFn t k = completedFn (getFn s k) :=
  ⟨rfl, rfl, rfl, rfl, getFn_modFn ..⟩

/-- Settles O54: a closed function changes nothing, an open one takes its write; a command runs at the head of its ring, and
its completion is one write of the data and one of the word and cookie. -/
theorem hostCommands : Obligations.HostCommands := by
  unfold Obligations.HostCommands
  intro s pkg fn
  refine ⟨fnClosed_spec, fun h => ⟨exec_zbell h, exec_registerWrite_zvec h, fun off v ho => exec_registerWrite_other ho v,
    exec_zringWrite h, fun off n => ⟨fun x => bar2Read_refused h, fun ps bs u => bar2Read_answered h⟩,
    fun off d g => bar2Write_stores h⟩, ⟨exec_zcmdRingPoll_waits, ?_⟩, ?_, ?_, ?_⟩
  · intro ri b hc he hri r u hb
    exact ⟨exec_zcmdRingPoll_unsealed hc he hri hb, fun v => zcmdRingPoll_takes hc he hri hb⟩
  · intro c cs hc p hp
    obtain ⟨f, hf⟩ := cmdForms_run hp s pkg fn
    exact ⟨fun h => hf.trans (congrArg Host.Outcome.next (runOp_other hc f h)),
      fun w h hr => hf.trans (congrArg Host.Outcome.next (runOp_refused hc f h hr))⟩
  · intro c w g hs hw ht
    exact complete_stores hs hw ht
  · intro c w data hs hw d b t f hap
    have he : t = modFn { s with hostMem := completedMem s.hostMem c w data } (pkg, fn) completedFn := complete_host c w data hw
    obtain ⟨h1, h2, h3⟩ := completedMem_spec hs.2.2 c w data hap
    obtain ⟨e1, e2, e3, e4, e5⟩ := completed_host s (completedMem s.hostMem c w data) (pkg, fn)
    rw [← he] at e1 e2 e3 e4 e5
    rw [e1, e2, e3, e4, e5]
    exact ⟨h1, h2, h3, rfl, rfl, rfl, rfl, rfl⟩

end Sys2Proof.Machine
end

section
/-!
PROOFS. Proofs/Partitions.lean: partition commands, function-level reset and its scrub (spec/16 R348 to R358; spec/20 R408).
-/
namespace Sys2Proof.Machine

/-! ### Commands that end -/

section
variable {i : Instr} {s u : State} {pkg fn op : Nat} {c : Cmd} {f : Cmd → Answered}

/-- A command that comes to a result ends with it. -/
theorem Heads.ends (h : Heads s pkg fn op c) (hi : exec i s = .next (runOp s pkg fn op f)) {w : Word} {d : List Byte}
    (hf : f c = .done w d u) : Ends i s u pkg fn c w d := by
  unfold Ends
  rw [hi, runOp_heads h, hf]

/-- A command that waits leaves the ring. -/
theorem Heads.waits (h : Heads s pkg fn op c) (hi : exec i s = .next (runOp s pkg fn op f)) (hf : f c = .wait u) :
    exec i s = .next u := by
  rw [hi, runOp_heads h, hf]

end

theorem onPart_live {s : State} {pkg p : Nat} (h : p ≤ 31) (hf : (getPart s (pkg, p)).flr = 0)
    (hl : (getPart s (pkg, p)).live = true) (f : Partition → Answered) : onPart s pkg p f = f (getPart s (pkg, p)) := by
  unfold onPart inFlr
  rw [if_neg (Nat.not_lt.2 h), hf, hl]
  rfl

theorem reevalAll_setPart_idle {s : State} (h : s.allocWait = []) (k : Nat × Nat) (q : Partition) :
    reevalAll (setPart s k q) = setPart s k q := by
  unfold reevalAll
  rw [show (setPart s k q).allocWait = [] from h]
  rfl

/-! ### PCREATE, ASPACE, FAULTS, POOLS, LQSET and CQSET (R349, R354, R408) -/

section
variable {s : State} {pkg fn : Nat} {c : Cmd}

theorem pcreate_new (h : Heads s pkg fn 0x10 c) (h1 : 1 ≤ arg c 8 1) (h31 : arg c 8 1 ≤ 31)
    (hf : (getPart s (pkg, arg c 8 1)).flr = 0) (hl : (getPart s (pkg, arg c 8 1)).live = false) :
    Ends (.pcreate pkg fn) s (setPart s (pkg, arg c 8 1) { live := true }) pkg fn c (okWord 0) [] :=
  h.ends rfl ((if_neg (by omega)).trans ((if_neg (by simp [inFlr, hf])).trans (if_neg (by simp [hl]))))

theorem pcreate_exists (h : Heads s pkg fn 0x10 c) (h1 : 1 ≤ arg c 8 1) (h31 : arg c 8 1 ≤ 31)
    (hf : (getPart s (pkg, arg c 8 1)).flr = 0) (hl : (getPart s (pkg, arg c 8 1)).live = true) :
    Ends (.pcreate pkg fn) s s pkg fn c (errWord 0x05) [] :=
  h.ends rfl ((if_neg (by omega)).trans ((if_neg (by simp [inFlr, hf])).trans (if_pos hl)))

section
variable (h31 : arg c 8 1 ≤ 31) (hf : (getPart s (pkg, arg c 8 1)).flr = 0) (hl : (getPart s (pkg, arg c 8 1)).live = true)
include h31 hf hl

theorem aspace_sets (h : Heads s pkg fn 0x14 c) (h1 : arg c 16 8 % 4096 = 0) (h2 : arg c 16 8 < hbmSize)
    (h3 : arg c 24 4 ≤ arg c 28 4) (h4 : arg c 28 4 ≤ 2 ^ 19) :
    Ends (.aspace pkg fn) s (setPart s (pkg, arg c 8 1) { getPart s (pkg, arg c 8 1) with
      root := arg c 16 8, vbase := arg c 24 4 * 2 ^ 33, vlimit := arg c 28 4 * 2 ^ 33 }) pkg fn c (okWord 0) [] := by
  refine h.ends rfl ((onPart_live h31 hf hl _).trans (if_neg ?_))
  rintro (h | h | h | h)
  · exact h h1
  · exact Nat.not_le.2 h2 h
  · exact Nat.not_lt.2 h3 h
  · exact Nat.not_lt.2 h4 h

theorem faults_sets (h : Heads s pkg fn 0x16 c) (h1 : arg c 9 1 ≤ 3) (h2 : arg c 10 1 ≤ 3) (h3 : 2 ≤ arg c 12 4)
    (h4 : arg c 12 4 ≤ 1000) (h5 : arg c 16 1 ≤ 1) :
    Ends (.faults pkg fn) s (setPart s (pkg, arg c 8 1) { getPart s (pkg, arg c 8 1) with
      faultThr := tset (arg c 9 1) (arg c 10 1) (getPart s (pkg, arg c 8 1)).faultThr, windowUs := arg c 12 4,
      brk := decide (arg c 16 1 = 1) }) pkg fn c (okWord 0) [] := by
  refine h.ends rfl ((onPart_live h31 hf hl _).trans (if_neg ?_))
  omega

theorem pools_sets (h : Heads s pkg fn 0x15 c) (h1 : 1 ≤ arg c 9 1) (h3 : arg c 9 1 ≤ 3) (hw : s.allocWait = [])
    (hin : insideOne (getPart s (pkg, arg c 8 1)).ranges (arg c 16 8) (arg c 24 4 * 65536 + arg c 28 4 * 1024) = true)
    (hsh : poolShrinks (tget {} (arg c 9 1) (getPart s (pkg, arg c 8 1)).pools) (arg c 16 8) (arg c 24 4) (arg c 28 4) = false) :
    Ends (.pools pkg fn) s (setPart s (pkg, arg c 8 1) { getPart s (pkg, arg c 8 1) with
      pools := tset (arg c 9 1) { tget {} (arg c 9 1) (getPart s (pkg, arg c 8 1)).pools with
        segBase := arg c 16 8, segs := arg c 24 4, blocks := arg c 28 4 } (getPart s (pkg, arg c 8 1)).pools })
      pkg fn c (okWord 0) [] := by
  have h0 : arg c 9 1 ≠ 0 := by omega
  refine h.ends rfl ((onPart_live h31 hf hl _).trans ((if_neg ?_).trans ((if_neg ?_).trans ?_)))
  · rintro (h | ⟨-, h⟩ | ⟨h, -⟩)
    · omega
    · exact absurd hin (by simpa using h)
    · exact h0 h
  · rintro (h | ⟨h, -⟩)
    · exact Bool.false_ne_true (hsh.symm.trans h)
    · exact h0 h
  · exact (congrArg (fun q => cmdDone (reevalAll (setPart s (pkg, arg c 8 1) q))) (if_neg h0)).trans
      (congrArg (Answered.done (okWord 0) []) (reevalAll_setPart_idle hw ..))

theorem lqset_sets (h : Heads s pkg fn 0x28 c) {k : Nat} {v : State} (h1 : arg c 9 1 ≤ 7) (h2 : 2 ≤ arg c 24 1)
    (h3 : arg c 24 1 ≤ 12) (h4 : arg c 16 8 % 8 = 0) (hq : queueOf s pkg (arg c 8 1) (arg c 9 1) = none)
    (hk : leastBelow 32 (fun k => !(getLaunchQ s (pkg, k)).set) = some k)
    (hv : schedWrite s pkg (arg c 8 1) (arg c 16 8) (List.replicate 16 0) = some v) :
    Ends (.lqset pkg fn) s (modLaunchQ v (pkg, k) fun x => { x with
      set := true, base := BitVec.ofNat 64 (arg c 16 8), log2 := arg c 24 1, part := arg c 8 1, num := arg c 9 1 })
      pkg fn c (okWord 0) [] := by
  refine h.ends rfl ((onPart_live h31 hf hl _).trans ((if_neg (by omega)).trans ?_))
  rw [hq, hv]
  dsimp only
  rw [hk]
  rfl

theorem cqset_sets (h : Heads s pkg fn 0x29 c) {ps : List Piece} (h1 : arg c 9 1 ≤ 3) (h2 : arg c 10 1 ≤ 15)
    (h3 : arg c 11 1 ≤ 3) (h4 : 2 ≤ arg c 24 1) (h5 : arg c 24 1 ≤ 12) (h6 : arg c 16 8 % 8 = 0)
    (hp : runsToPieces s (qmEng pkg (arg c 9 1)) (arg c 8 1) .copy .write [(arg c 16 8, 16)] = .ok ps) :
    Ends (.cqset pkg fn) s (setCopyQ (writeCopy s ps (List.replicate 16 0)) (pkg, arg c 9 1, arg c 10 1)
      { set := true, base := BitVec.ofNat 64 (arg c 16 8), log2 := arg c 24 1, part := arg c 8 1, faultThr := arg c 11 1 })
      pkg fn c (okWord 0) [] := by
  refine h.ends rfl ((onPart_live h31 hf hl _).trans ((if_neg (by omega)).trans ?_))
  rw [hp]
  rfl

end
end

/-! ### PGRANT (R354) -/

/-- A grant gives its threads to a partition. -/
def giveThread (pkg die dst : Nat) (s : State) (t : Nat) : State :=
  modThr s ⟨pkg, die, t⟩ fun th => { th with part := dst, agid := 0 }

theorem giveThread_keeps {pkg die dst : Nat} {s : State} {k : Tid} (h : (getThr s k).part = dst) (t : Nat) :
    (getThr (giveThread pkg die dst s t) k).part = dst := by
  by_cases hk : k = ⟨pkg, die, t⟩
  · subst hk
    exact congrArg Thread.part (getThr_modThr ..)
  · rw [giveThread, getThr_modThr_other _ _ hk]
    exact h

theorem giveThreads_keep {pkg die dst : Nat} {k : Tid} (ts : List Nat) : ∀ {s : State}, (getThr s k).part = dst →
    (getThr (ts.foldl (giveThread pkg die dst) s) k).part = dst := by
  induction ts with
  | nil => exact id
  | cons t ts ih => exact fun h => ih (giveThread_keeps h t)

theorem giveThreads_part {pkg die dst t : Nat} {ts : List Nat} (h : t ∈ ts) (s : State) :
    (getThr (ts.foldl (giveThread pkg die dst) s) ⟨pkg, die, t⟩).part = dst := by
  induction ts generalizing s with
  | nil => exact absurd h List.not_mem_nil
  | cons x ts ih =>
    rcases List.mem_cons.1 h with rfl | h
    · exact giveThreads_keep ts (congrArg Thread.part (getThr_modThr ..))
    · exact ih h _

theorem tget_foldl_tset_keeps {κ α : Type} [DecidableEq κ] {d v : α} {k : κ} (f : Nat → κ) (gs : List Nat) :
    ∀ {t : Tbl κ α}, tget d k t = v → tget d k (gs.foldl (fun t g => tset (f g) v t) t) = v := by
  induction gs with
  | nil => exact id
  | cons g gs ih =>
    intro t h
    refine ih (t := tset (f g) v t) ?_
    by_cases hk : k = f g
    · rw [hk, tget_tset_same]
    · rw [tget_tset_other _ _ _ hk, h]

theorem tget_foldl_tset {κ α : Type} [DecidableEq κ] {d v : α} (f : Nat → κ) {g : Nat} {gs : List Nat} (h : g ∈ gs)
    (t : Tbl κ α) : tget d (f g) (gs.foldl (fun t g => tset (f g) v t) t) = v := by
  induction gs generalizing t with
  | nil => exact absurd h List.not_mem_nil
  | cons x gs ih =>
    rcases List.mem_cons.1 h with rfl | h
    · exact tget_foldl_tset_keeps f gs (tget_tset_same ..)
    · exact ih h _

/-- The state with the pages and barriers of a grant moved. -/
def movePages (s : State) (pkg dst die : Nat) (pages : List Nat) (bf bn : Nat) : State :=
  { s with
    pageOwner := pages.foldl (fun t g => tset (pkg, die, g) dst t) s.pageOwner
    barRuns := if bn = 0 then s.barRuns else (pkg, die, bf, bn, dst) :: s.barRuns }

theorem moveGrant_noHbm (s : State) (pkg src dst die : Nat) (pages ths : List Nat) (bf bn hb : Nat) :
    moveGrant s pkg src dst die pages ths bf bn hb 0 = ths.foldl (giveThread pkg die dst) (movePages s pkg dst die pages bf bn) := by
  unfold moveGrant
  exact if_pos rfl

theorem giveThreads_touches (pkg die dst : Nat) (ths : List Nat) (s : State) :
    Touches [.threads] s (ths.foldl (giveThread pkg die dst) s) :=
  Touches.foldl (fun _ _ => .put rfl) ..

section
variable (s : State) (pkg src dst die : Nat) (pages ths : List Nat) (bf bn hb : Nat)

theorem moveGrant_pages {g : Nat} (h : g ∈ pages) :
    pageOwnerOf (moveGrant s pkg src dst die pages ths bf bn hb 0) pkg die g = dst := by
  rw [moveGrant_noHbm]
  unfold pageOwnerOf
  rw [(giveThreads_touches ..).same .pageOwner (by decide)]
  exact tget_foldl_tset (fun g => (pkg, die, g)) h _

theorem moveGrant_threads {t : Nat} (h : t ∈ ths) :
    (getThr (moveGrant s pkg src dst die pages ths bf bn hb 0) ⟨pkg, die, t⟩).part = dst := by
  rw [moveGrant_noHbm]
  exact giveThreads_part h _

theorem moveGrant_bars {k : Nat} (h1 : bf ≤ k) (h2 : k < bf + bn) :
    barOwner (moveGrant s pkg src dst die pages ths bf bn hb 0) pkg die k = dst := by
  rw [moveGrant_noHbm]
  unfold barOwner
  rw [(giveThreads_touches ..).same .barRuns (by decide)]
  unfold movePages
  dsimp only
  rw [if_neg (by omega), List.find?_cons_of_pos (by simp [h1, h2])]

theorem moveGrant_ranges (k : Nat × Nat) :
    getPart (moveGrant s pkg src dst die pages ths bf bn hb 0) k = getPart s k := by
  rw [moveGrant_noHbm]
  unfold getPart
  rw [(giveThreads_touches ..).same .partitions (by decide)]
  rfl

end

theorem pgrant_moves {s : State} {pkg fn : Nat} {c : Cmd} (h31 : arg c 8 1 ≤ 31) (hf : (getPart s (pkg, arg c 8 1)).flr = 0)
    (hl : (getPart s (pkg, arg c 8 1)).live = true) (h : Heads s pkg fn 0x13 c) :
    let src := if arg c 36 1 = 1 then arg c 8 1 else 0; let dst := if arg c 36 1 = 1 then 0 else arg c 8 1
    let pages := bitsOf 16 (arg c 10 2); let ths := bitsOf 4 (arg c 12 1)
    1 ≤ arg c 8 1 → arg c 9 1 ≤ 3 → arg c 36 1 ≤ 1 → arg c 12 1 ≤ 15 → arg c 24 8 % 2 ^ 23 = 0 →
      arg c 16 4 + arg c 20 4 ≤ 4096 → arg c 32 4 = 0 →
      (List.range (arg c 20 4)).any (fun k => decide (barOwner s pkg (arg c 9 1) (arg c 16 4 + k) ≠ src)) = false →
      grantBusy s pkg src (arg c 9 1) pages ths (arg c 16 4) (arg c 20 4) (arg c 24 8) 0 = false →
      (getPart s (pkg, src)).ranges.length ≤ 12 → (getPart s (pkg, dst)).ranges.length ≤ 12 →
      Ends (.pgrant pkg fn) s (moveGrant s pkg src dst (arg c 9 1) pages ths (arg c 16 4) (arg c 20 4) (arg c 24 8) 0)
        pkg fn c (okWord 0) [] := by
  intro src dst pages ths h1 h2 h3 h4 h5 h6 h7 hb hg hs hd
  have hn : arg c 32 4 * 2 ^ 23 = 0 := by rw [h7]; rfl
  refine h.ends rfl ((onPart_live h31 hf hl _).trans ((if_neg ?_).trans ((if_neg ?_).trans ?_)))
  · rintro (h | h | h | h | h | h)
    · omega
    · omega
    · omega
    · omega
    · exact h h5
    · omega
  · exact fun hc => Bool.false_ne_true (hb.symm.trans hc)
  · rw [hn]
    refine (if_neg (fun hc => Bool.false_ne_true (hg.symm.trans hc))).trans (if_neg ?_)
    rw [moveGrant_ranges, moveGrant_ranges]
    rintro (h | h)
    · exact Nat.not_lt.2 hs h
    · exact Nat.not_lt.2 hd h

/-! ### SLOTS (R357, R358) -/

/-- The slot table of the bytes of a buffer, the first of them for slot n. -/
def slotTable (n : Nat) (b : List Byte) : Tbl Nat Nat :=
  ((b.zipIdx n).filter fun x => x.1.toNat ≠ 0x40).map fun x => (x.2, x.1.toNat)

theorem slotTable_cons (n : Nat) (x : Byte) (b : List Byte) : slotTable n (x :: b) =
    if x.toNat = 0x40 then slotTable (n + 1) b else (n, x.toNat) :: slotTable (n + 1) b := by
  unfold slotTable
  rw [List.zipIdx_cons]
  by_cases h : x.toNat = 0x40
  · rw [List.filter_cons_of_neg (by simp [h]), if_pos h]
  · rw [List.filter_cons_of_pos (by simp [h]), if_neg h, List.map_cons]

theorem slotTable_below {n k : Nat} (h : k < n) (b : List Byte) : tfind k (slotTable n b) = none := by
  induction b generalizing n with
  | nil => rfl
  | cons x b ih =>
    have hr := ih (Nat.lt_succ_of_lt h)
    rw [slotTable_cons]
    split
    · exact hr
    · exact (if_neg (Nat.ne_of_gt h)).trans hr

theorem slotTable_get (b : List Byte) (n k : Nat) (h : k < b.length) : tget 0x40 (n + k) (slotTable n b) = b[k].toNat := by
  induction b generalizing n k with
  | nil => exact absurd h (Nat.not_lt_zero k)
  | cons x b ih =>
    rw [slotTable_cons]
    cases k with
    | zero =>
      split
      · next hx =>
        unfold tget
        rw [Nat.add_zero, slotTable_below (Nat.lt_succ_self n), List.getElem_cons_zero, hx]
        rfl
      · exact congrArg (Option.getD · 0x40) (if_pos rfl)
    | succ k =>
      have hr := ih (n + 1) k (Nat.lt_of_succ_lt_succ h)
      rw [show n + 1 + k = n + (k + 1) by omega] at hr
      split
      · exact hr
      · refine Eq.trans ?_ hr
        exact congrArg (Option.getD · 0x40) (if_neg (by omega))

section
variable {s : State} {pkg fn : Nat} {c : Cmd} {b : List Byte} (h : Heads s pkg fn 0x20 c) (h1 : arg c 8 1 ≤ 3)
  (h2 : hasSlots ⟨pkg, arg c 8 1, arg c 10 1, arg c 9 1⟩ = true) (h3 : engExists ⟨pkg, arg c 8 1, arg c 10 1, arg c 9 1⟩ = true)
  (h4 : c.buf ≠ 0) (hb : svcRead (svcReads s pkg fn c.buf.toNat 256) pkg fn c.buf.toNat 256 = some b)
include h h1 h2 h3 h4 hb

omit h hb in
theorem slots_args : ¬ (3 < arg c 8 1 ∨ (!hasSlots ⟨pkg, arg c 8 1, arg c 10 1, arg c 9 1⟩) = true ∨
    (!engExists ⟨pkg, arg c 8 1, arg c 10 1, arg c 9 1⟩) = true ∨ c.buf = 0) := by
  rw [h2, h3]
  rintro (h | h | h | h)
  · omega
  · exact Bool.false_ne_true h
  · exact Bool.false_ne_true h
  · exact h4 h

theorem slots_refused (hx : b.any (fun x => !slotEntryOk x.toNat) = true) :
    Ends (.slots pkg fn) s (svcReads s pkg fn c.buf.toNat 256) pkg fn c (errWord 0x02) [] := by
  refine h.ends rfl ((if_neg (slots_args h1 h2 h3 h4)).trans ?_)
  dsimp only
  rw [hb]
  exact if_pos hx

theorem slots_sets (hx : b.any (fun x => !slotEntryOk x.toNat) = false) :
    Ends (.slots pkg fn) s (modSlotTab (svcReads s pkg fn c.buf.toNat 256) ⟨pkg, arg c 8 1, arg c 10 1, arg c 9 1⟩ fun t =>
      { dueTab t ((getPkg (svcReads s pkg fn c.buf.toNat 256) pkg).time / 8192) with
        pending := some (slotTable 0 b)
        pendingFrame := (getPkg (svcReads s pkg fn c.buf.toNat 256) pkg).time / 8192 + 1 }) pkg fn c (okWord 0) [] := by
  refine h.ends rfl ((if_neg (slots_args h1 h2 h3 h4)).trans ?_)
  dsimp only
  rw [hb]
  exact if_neg fun hc => Bool.false_ne_true (hx.symm.trans hc)

end

/-! ### Function-level reset (R355, R356) -/

theorem flrBegin_part (s : State) (pkg p code : Nat) : getPart (flrBegin s pkg p code) (pkg, p) =
    { getPart s (pkg, p) with flr := code, drain := (getPart (flrBegin s pkg p code) (pkg, p)).drain } := by
  unfold flrBegin modPart
  dsimp only
  rw [getPart_setPart]

section
variable {s : State} {pkg fn : Nat} {c : Cmd}

theorem flr_foreign (h : Heads s pkg fn 0x12 c) (h1 : fn ≠ 0) (h2 : arg c 8 1 ≠ fn) :
    Ends (.flr pkg fn) s s pkg fn c (errWord 0x0A) [] := h.ends rfl (if_pos ⟨h1, h2⟩)

section
variable (h1 : 1 ≤ arg c 8 1) (h31 : arg c 8 1 ≤ 31) (hl : (getPart s (pkg, arg c 8 1)).live = true)
include h1 h31 hl

section
variable (h : Heads s pkg fn 0x12 c) (hfn : fn = 0 ∨ arg c 8 1 = fn)
include h hfn

theorem flr_begins (hf : (getPart s (pkg, arg c 8 1)).flr = 0) :
    exec (.flr pkg fn) s = .next (flrKill (flrBegin s pkg (arg c 8 1) 1) pkg (arg c 8 1)) :=
  h.waits rfl ((if_neg (by omega)).trans ((if_neg (by omega)).trans ((if_neg (by simp [hl])).trans (if_pos hf))))

theorem flr_drains (hf : (getPart s (pkg, arg c 8 1)).flr = 1)
    (hd : flrDrained (flrKill s pkg (arg c 8 1)) pkg (arg c 8 1) = false) :
    exec (.flr pkg fn) s = .next (flrKill s pkg (arg c 8 1)) :=
  h.waits rfl ((if_neg (by omega)).trans ((if_neg (by omega)).trans ((if_neg (by simp [hl])).trans
    ((if_neg (by omega)).trans (if_pos (.inr (by simp [hd])))))))

theorem flr_finishes (hf : (getPart s (pkg, arg c 8 1)).flr = 1)
    (hd : flrDrained (flrKill s pkg (arg c 8 1)) pkg (arg c 8 1) = true) :
    Ends (.flr pkg fn) s (completeJoined (flrFinish (flrKill s pkg (arg c 8 1)) pkg (arg c 8 1)) pkg (arg c 8 1) fn
      (drainReport (getPart s (pkg, arg c 8 1)))) pkg fn c (okWord 0) (drainReport (getPart s (pkg, arg c 8 1))) :=
  h.ends rfl ((if_neg (by omega)).trans ((if_neg (by omega)).trans ((if_neg (by simp [hl])).trans
    ((if_neg (by omega)).trans (if_neg (by simp [hd, hf]))))))

end

section
variable (h : Heads s pkg fn 0x11 c)
include h

theorem pdestroy_begins (hf : (getPart s (pkg, arg c 8 1)).flr = 0) :
    exec (.pdestroy pkg fn) s = .next (flrKill (flrBegin s pkg (arg c 8 1) 2) pkg (arg c 8 1)) :=
  h.waits rfl ((if_neg (by omega)).trans ((if_neg (by simp [hl])).trans (if_pos hf)))

theorem pdestroy_drains (hf : (getPart s (pkg, arg c 8 1)).flr = 2)
    (hd : flrDrained (flrKill s pkg (arg c 8 1)) pkg (arg c 8 1) = false) :
    exec (.pdestroy pkg fn) s = .next (flrKill s pkg (arg c 8 1)) :=
  h.waits rfl ((if_neg (by omega)).trans ((if_neg (by simp [hl])).trans
    ((if_neg (by omega)).trans (if_pos (.inr (by simp [hd]))))))

theorem pdestroy_finishes (hf : (getPart s (pkg, arg c 8 1)).flr = 2)
    (hd : flrDrained (flrKill s pkg (arg c 8 1)) pkg (arg c 8 1) = true) :
    Ends (.pdestroy pkg fn) s (dissolve (completeJoined (flrFinish (flrKill s pkg (arg c 8 1)) pkg (arg c 8 1)) pkg (arg c 8 1) fn
      (drainReport (getPart s (pkg, arg c 8 1)))) pkg (arg c 8 1)) pkg fn c (okWord 0) [] :=
  h.ends rfl ((if_neg (by omega)).trans ((if_neg (by simp [hl])).trans
    ((if_neg (by omega)).trans (if_neg (by simp [hd, hf])))))

end
end
end

/-! ### The scrub -/

theorem getThr_scrubThreads {s : State} {pkg p : Nat} {k : Tid} (hk : k.pkg = pkg) (hp : (getThr s k).part = p) :
    getThr (scrubThreads s pkg p) k =
      if (tfind k s.threads).isSome then { part := p, agid := (getThr s k).agid } else {} := by
  show (tfind k (tmap (fun t th => if decide (t.pkg = pkg) && decide ((getThr s t).part = p) then scrubThread th else th)
    s.threads)).getD {} = _
  rw [tfind_tmap]
  cases hf : tfind k s.threads with
  | none => rfl
  | some th =>
    have ht : getThr s k = th := by
      unfold getThr tget
      rw [hf]
      rfl
    have hm : (decide (k.pkg = pkg) && decide ((getThr s k).part = p)) = true := by simp [hk, hp]
    show (if (decide (k.pkg = pkg) && decide ((getThr s k).part = p)) = true then scrubThread th else th) = _
    rw [if_pos hm, ht, ← hp, ht]
    rfl

theorem scrubThreads_tlb (s : State) (pkg p : Nat) : ∀ t ∈ (scrubThreads s pkg p).tlb, t.eng.pkg = pkg → t.part ≠ p := by
  intro t ht hpkg hp
  have h := (List.mem_filter.1 ht).2
  simp [hpkg, hp] at h

theorem scrubThreads_quota (s : State) (pkg p a : Nat) : getQuota (scrubThreads s pkg p) (pkg, p, a) = {} := by
  show (tfind (pkg, p, a) (s.quotas.filter fun q => !(decide (q.1.1 = pkg) && decide (q.1.2.1 = p)))).getD {} = _
  rw [tfind_filter (fun k : Nat × Nat × Nat => !(decide (k.1 = pkg) && decide (k.2.1 = p)))]
  simp

theorem memGet_filter (p : Nat → Bool) {a : Nat} (h : p a = false) (m : Memory) : memGet (m.filter fun c => p c.1) a = 0 := by
  induction m with
  | nil => rfl
  | cons c m ih =>
    by_cases hc : p c.1 = true
    · rw [List.filter_cons_of_pos (p := fun c : Host.Cell => p c.1) hc]
      have hne : a ≠ c.1 := fun he => Bool.false_ne_true ((he ▸ h).symm.trans hc)
      exact (if_neg hne).trans ih
    · rw [List.filter_cons_of_neg (p := fun c : Host.Cell => p c.1) hc]
      exact ih

theorem scrubPages_l0 {s : State} {pkg p a : Nat} (h1 : (l0Page a).1 = pkg)
    (h2 : pageOwnerOf s pkg (l0Page a).2.1 (l0Page a).2.2 = p) : memGet (scrubPages s pkg p).l0 a = 0 := by
  refine memGet_filter (fun a => !(decide ((l0Page a).1 = pkg) && pageOf s pkg p (l0Page a).2.1 (l0Page a).2.2)) ?_ _
  simp [h1, h2, pageOf]

theorem mem_keys_tset {κ α : Type} [DecidableEq κ] {k j : κ} {v : α} {t : Tbl κ α} (h : j ∈ (tset k v t).map (·.1)) :
    j = k ∨ j ∈ t.map (·.1) := by
  induction t with
  | nil => exact .inl (List.mem_singleton.1 h)
  | cons e t ih =>
    by_cases he : e.1 = k
    · rw [show tset k v (e :: t) = (k, v) :: t from if_pos he] at h
      rcases List.mem_cons.1 h with h | h
      · exact .inl h
      · exact .inr (List.mem_cons_of_mem _ h)
    · rw [show tset k v (e :: t) = e :: tset k v t from if_neg he] at h
      rcases List.mem_cons.1 h with h | h
      · exact .inr (h ▸ List.mem_cons_self)
      · exact (ih h).imp_right (List.mem_cons_of_mem _)

theorem dissolve_gone (s : State) {pkg p : Nat} (h : p ≠ 0) : (pkg, p) ∉ (dissolve s pkg p).partitions.map (·.1) := by
  intro hc
  rcases mem_keys_tset (t := tdel (pkg, p) s.partitions) hc with he | hm
  · exact h (congrArg Prod.snd he)
  · obtain ⟨e, he, hk⟩ := List.mem_map.1 hm
    exact absurd hk (by simpa using (List.mem_filter.1 he).2)

/-- Settles O55: a command whose checks pass ends from the state that it sets; a grant moves pages, threads and barriers one by one, and
the scrub filters or maps each table of the partition. -/
theorem partitionCommands : Obligations.PartitionCommands := by
  unfold Obligations.PartitionCommands
  intro s pkg fn c p q
  refine ⟨fun h h1 h31 hf => ⟨pcreate_new h h1 h31 hf, pcreate_exists h h1 h31 hf⟩,
    fun h31 hf hl => ⟨aspace_sets h31 hf hl, faults_sets h31 hf hl, ?_, ?_, ?_, ?_⟩, ?_, flr_foreign,
    fun h1 h31 hl => ⟨fun h hfn => ⟨fun hf => ⟨flr_begins h1 h31 hl h hfn hf, flrBegin_part ..⟩, ?_⟩, fun h =>
      ⟨pdestroy_begins h1 h31 hl h, pdestroy_drains h1 h31 hl h, pdestroy_finishes h1 h31 hl h⟩⟩, fun p =>
    ⟨fun k => getThr_scrubThreads, scrubThreads_tlb s pkg p, scrubThreads_quota s pkg p, fun a => scrubPages_l0,
      dissolve_gone s⟩⟩
  · exact fun h h1 h3 hw => pools_sets h31 hf hl h h1 h3 hw
  · exact fun k v h => lqset_sets h31 hf hl h
  · exact fun ps h h1 h2 h3 h4 h5 h6 hp => cqset_sets h31 hf hl h h1 h2 h3 h4 h5 h6 hp
  · intro h src dst die pages ths bf bn h1 h2 h3 h4 h5 h6 h7 hb hg hs hd
    exact ⟨_, pgrant_moves h31 hf hl h h1 h2 h3 h4 h5 h6 h7 hb hg hs hd, fun g hg => moveGrant_pages _ _ _ _ _ _ _ _ _ _ hg,
      fun t ht => moveGrant_threads _ _ _ _ _ _ _ _ _ _ ht, fun k h1 h2 => moveGrant_bars _ _ _ _ _ _ _ _ _ _ h1 h2,
      (moveGrant_touches ..).sameBytes (by decide)⟩
  · intro h e r b h1 h2 h3 h4 hb hn
    refine ⟨slots_refused h h1 h2 h3 h4 hb, fun hx => ⟨_, slotTable 0 b, slots_sets h h1 h2 h3 h4 hb hx, ?_, rfl,
      fun k hk => ?_⟩⟩
    · exact tget_tset_same ..
    · have hg := slotTable_get b 0 k hk
      rw [Nat.zero_add] at hg
      exact hg
  · exact ⟨flr_drains h1 h31 hl h hfn, flr_finishes h1 h31 hl h hfn⟩

end Sys2Proof.Machine
end

section
/-!
PROOFS. Proofs/Commands.lean: firmware, identity and debug commands (spec/16 R353; spec/17 R366, R368; spec/19 R390 to R401;
spec/20 R408 to R412).
-/
namespace Sys2Proof.Machine

/-! ### Commands whose step depends on an argument -/

section
variable {s : State} {pkg fn op : Nat} {c : Cmd} (h : Heads s pkg fn op c)
include h

theorem Heads.runCmd_eq {mine : Cmd → Bool} (hm : mine c = true) (f : Cmd → Answered) :
    runCmd s pkg fn mine f = match f c with
      | .wait s => s
      | .done w d s => complete s pkg fn c w d := by
  obtain ⟨⟨cs, hc⟩, hr, -⟩ := h
  unfold runCmd
  rw [hc]
  refine (if_neg (by simpa using hm)).trans ?_
  rw [hr] <;> rfl

end

section
variable {i : Instr} {s u : State} {pkg fn : Nat} {c : Cmd} {mine : Nat → Bool} {f : Cmd → Answered} {w : Word} {d : List Byte}

section
variable (h : Heads s pkg fn 0x41 c) (hd : arg c 9 1 ≤ 3) (hi : exec i s = .next (runDbg s pkg fn mine f))
  (hm : mine (arg c 8 1) = true)
include h hd hi hm

theorem Heads.dbgSet (hf : f c = .done w d u) : Ends i s u pkg fn c w d := by
  unfold Ends
  rw [hi, runDbg, h.runCmd_eq (by simp [h.2.2, hm]), if_neg (Nat.not_lt.2 hd), hf]

theorem Heads.dbgWaits (hf : f c = .wait u) : exec i s = .next u := by
  rw [hi, runDbg, h.runCmd_eq (by simp [h.2.2, hm]), if_neg (Nat.not_lt.2 hd), hf]

end

variable {g : Cmd → Tid → Answered} (h : Heads s pkg fn 0x42 c) (h1 : arg c 8 1 ≤ 3) (h2 : arg c 9 1 ≤ 3) (h3 : arg c 10 1 ≤ 3)
  (hi : exec i s = .next (runThr s pkg fn mine g)) (hm : mine (arg c 10 1) = true)
include h h1 h2 h3 hi hm

/-- A command to a thread of another partition is refused. -/
theorem Heads.thrRefused (hn : fn ≠ 0) (hp : (getThr s (cmdTid pkg c)).part ≠ fn) : Ends i s s pkg fn c (errWord 0x0A) [] := by
  unfold Ends
  rw [hi, runThr, h.runCmd_eq (by simp [h.2.2, hm])]
  have e : ¬ (3 < (cmdTid pkg c).die ∨ 3 < (cmdTid pkg c).thr ∨ 3 < arg c 10 1) := by
    show ¬ (3 < arg c 8 1 ∨ 3 < arg c 9 1 ∨ 3 < arg c 10 1)
    omega
  dsimp only
  rw [if_neg e, if_pos ⟨hn, hp⟩]
  rfl

variable (hp : fn = 0 ∨ (getThr s (cmdTid pkg c)).part = fn)
include hp

theorem Heads.runThr_eq : exec i s = .next (match g c (cmdTid pkg c) with
    | .wait s => s
    | .done w d s => complete s pkg fn c w d) := by
  have e : ¬ (3 < (cmdTid pkg c).die ∨ 3 < (cmdTid pkg c).thr ∨ 3 < arg c 10 1) := by
    show ¬ (3 < arg c 8 1 ∨ 3 < arg c 9 1 ∨ 3 < arg c 10 1)
    omega
  have e2 : ¬ (fn ≠ 0 ∧ (getThr s (cmdTid pkg c)).part ≠ fn) := fun hc => hp.elim hc.1 hc.2
  rw [hi, runThr, h.runCmd_eq (by simp [h.2.2, hm])]
  dsimp only
  rw [if_neg e, if_neg e2]

theorem Heads.thrEnds (hf : g c (cmdTid pkg c) = .done w d u) : Ends i s u pkg fn c w d := by
  unfold Ends
  rw [h.runThr_eq h1 h2 h3 hi hm hp, hf]

theorem Heads.thrWaits (hf : g c (cmdTid pkg c) = .wait u) : exec i s = .next u := by
  rw [h.runThr_eq h1 h2 h3 hi hm hp, hf]

end

/-! ### Firmware, routes, groups (R366, R368, R408 to R412) -/

section
variable {s : State} {pkg fn : Nat} {c : Cmd}

section
variable {b : List Byte} (h : Heads s pkg fn 0x03 c)
  (hb : bufBytes (bufReads s pkg fn c (arg c 8 4)) pkg fn c (arg c 8 4) = some b)
include h hb

theorem fwstage_stages (hv : Config.patchValid pkg b = true) : Ends (.fwstage pkg fn) s
    (modPkg (bufReads s pkg fn c (arg c 8 4)) pkg fun k => { k with staged := some b }) pkg fn c (okWord 0) [] := by
  refine h.ends rfl ?_
  dsimp only
  rw [hb]
  exact if_neg (by rw [hv]; decide)

theorem fwstage_refused (hv : Config.patchValid pkg b = false) :
    Ends (.fwstage pkg fn) s (bufReads s pkg fn c (arg c 8 4)) pkg fn c (errWord 0x05) [] := by
  refine h.ends rfl ?_
  dsimp only
  rw [hb]
  exact if_pos (by rw [hv]; decide)

end

/-- A route of a ROUTES command goes to its engine. -/
def putRoute (pkg : Nat) (s : State) (r : Nat × Nat × Route) : State :=
  modStrait s ⟨pkg, r.1 % 4, r.2.1 % 8, 25⟩ fun st =>
    { st with newTable := mergeRoutes st.newTable [routeEntry r.2.2], fresh := true }

theorem putRoute_table (pkg : Nat) (s : State) (r : Nat × Nat × Route) (e : Eng) :
    (getStrait (putRoute pkg s r) e).table = (getStrait s e).table := by
  by_cases he : e = ⟨pkg, r.1 % 4, r.2.1 % 8, 25⟩
  · subst he
    unfold putRoute
    rw [getStrait_modStrait]
  · unfold putRoute
    rw [getStrait_modStrait_other _ he]

theorem putRoute_newTable (pkg : Nat) (s : State) (r : Nat × Nat × Route) :
    (getStrait (putRoute pkg s r) ⟨pkg, r.1 % 4, r.2.1 % 8, 25⟩).newTable =
      mergeRoutes (getStrait s ⟨pkg, r.1 % 4, r.2.1 % 8, 25⟩).newTable [routeEntry r.2.2] := by
  unfold putRoute
  rw [getStrait_modStrait]

theorem putRoutes_spec (pkg : Nat) (rs : List (Nat × Nat × Route)) : ∀ s : State,
    rs.foldl (putRoute pkg) s = { s with straits := (rs.foldl (putRoute pkg) s).straits } ∧
      ∀ e, (getStrait (rs.foldl (putRoute pkg) s) e).table = (getStrait s e).table := by
  induction rs with
  | nil => exact fun s => ⟨rfl, fun _ => rfl⟩
  | cons r rs ih => exact fun s => ⟨(ih (putRoute pkg s r)).1, fun e => ((ih (putRoute pkg s r)).2 e).trans (putRoute_table ..)⟩

theorem routes_sets (h : Heads s pkg fn 0x30 c) {b : List Byte} {rs : List (Nat × Nat × Route)}
    (hb : bufBytes (bufReads s pkg fn c (Config.bufSize 0x30 (arg c 8 4))) pkg fn c (Config.bufSize 0x30 (arg c 8 4)) = some b)
    (hr : Config.readRoutes b (arg c 8 4) = some rs) : Ends (.routes pkg fn) s
      (rs.foldl (putRoute pkg) (bufReads s pkg fn c (Config.bufSize 0x30 (arg c 8 4)))) pkg fn c (okWord 0) [] := by
  refine h.ends rfl ?_
  dsimp only
  rw [hb, Option.bind_some, hr]
  rfl

theorem routes_refused (h : Heads s pkg fn 0x30 c)
    (hr : (bufBytes (bufReads s pkg fn c (Config.bufSize 0x30 (arg c 8 4))) pkg fn c (Config.bufSize 0x30 (arg c 8 4))).bind
      (fun b => Config.readRoutes b (arg c 8 4)) = none) : Ends (.routes pkg fn) s
      (bufReads s pkg fn c (Config.bufSize 0x30 (arg c 8 4))) pkg fn c (errWord 0x02) [] := by
  refine h.ends rfl ?_
  dsimp only
  rw [hr]
  rfl

section
variable (h : Heads s pkg fn 0x32 c) (h1 : 2 ≤ arg c 12 2) (h2 : arg c 12 2 ≤ 1024) (h3 : arg c 10 2 < arg c 12 2)
include h h1 h2 h3

theorem rgroup_binds {b : List Byte} (hb : bufBytes (bufReads s pkg fn c (Config.bufSize 0x32 (arg c 12 2))) pkg fn c
    (Config.bufSize 0x32 (arg c 12 2)) = some b) : Ends (.rgroup pkg fn) s
      (modGroup (bufReads s pkg fn c (Config.bufSize 0x32 (arg c 12 2))) (pkg, arg c 8 1) fun g =>
        { g with bound := true, rank := arg c 10 2, n := arg c 12 2, links := Config.readLinks b }) pkg fn c (okWord 0) [] := by
  refine h.ends rfl ((if_neg (by omega)).trans ?_)
  dsimp only
  rw [hb]
  rfl

theorem rgroup_refused (hb : bufBytes (bufReads s pkg fn c (Config.bufSize 0x32 (arg c 12 2))) pkg fn c
    (Config.bufSize 0x32 (arg c 12 2)) = none) : Ends (.rgroup pkg fn) s
      (bufReads s pkg fn c (Config.bufSize 0x32 (arg c 12 2))) pkg fn c (errWord 0x02) [] := by
  refine h.ends rfl ((if_neg (by omega)).trans ?_)
  dsimp only
  rw [hb]
  rfl

end
end

/-! ### MSTONE (R368) -/

/-- Of the packages' entries, at most the exhausted bit of one has changed. -/
def OnlyExhausted (pkg : Nat) (s t : State) : Prop :=
  getPkg t pkg = { getPkg s pkg with exhausted := (getPkg t pkg).exhausted } ∧ ∀ x, x ≠ pkg → getPkg t x = getPkg s x

theorem OnlyExhausted.of_same {pkg : Nat} {s t : State} (h : t.packages = s.packages) : OnlyExhausted pkg s t := by
  have e : ∀ x, getPkg t x = getPkg s x := fun x => by
    unfold getPkg
    rw [h]
  exact ⟨by rw [e], fun x _ => e x⟩

theorem OnlyExhausted.trans {pkg : Nat} {s t u : State} (h1 : OnlyExhausted pkg s t) (h2 : OnlyExhausted pkg t u) :
    OnlyExhausted pkg s u := by
  refine ⟨?_, fun x hx => (h2.2 x hx).trans (h1.2 x hx)⟩
  rw [h2.1, h1.1]

theorem OnlyExhausted.foldl {α : Type} {pkg : Nat} {f : State → α → State} (hf : ∀ s a, OnlyExhausted pkg s (f s a)) :
    ∀ (l : List α) (s : State), OnlyExhausted pkg s (l.foldl f s)
  | [], _ => .of_same rfl
  | a :: l, s => (hf s a).trans (OnlyExhausted.foldl hf l (f s a))

theorem OnlyExhausted.mark (pkg : Nat) (s : State) : OnlyExhausted pkg s (modPkg s pkg fun k => { k with exhausted := true }) := by
  unfold modPkg
  exact ⟨by rw [getPkg_setPkg], fun x hx => getPkg_setPkg_other _ _ hx⟩

theorem resend_onlyExhausted (s : State) (e : Eng) (id : Nat) : OnlyExhausted e.pkg s (resend s e id) := by
  unfold resend
  dsimp only
  split
  · exact .of_same rfl
  · refine .trans (t := if _ then modPkg (setStrait s e _) e.pkg fun k => { k with exhausted := true } else setStrait s e _) ?_
      (.of_same rfl)
    split
    · exact .trans (.of_same rfl) (.mark ..)
    · exact .of_same rfl

theorem joinMilestone_onlyExhausted (s : State) (e : Eng) (m : Nat) : OnlyExhausted e.pkg s (joinMilestone s e m) := by
  unfold joinMilestone
  dsimp only
  split
  · exact .of_same rfl
  · exact .trans (.of_same rfl) (OnlyExhausted.foldl (fun s i => resend_onlyExhausted s e i) ..)

/-- The state that a MSTONE leaves: the package in its domains, and its engines at their milestone. -/
def joined (s : State) (pkg d l m : Nat) : State :=
  (List.range 32).foldl (fun s k => joinMilestone s ⟨pkg, k / 8, k % 8, 25⟩ m)
    (modPkg s pkg fun k => { k with routeDom := some d, lsDom := some l, milestone := m })

theorem joined_touches (s : State) (pkg d l m : Nat) : Touches [.packets, .straits, .packages] s (joined s pkg d l m) :=
  .trans (.put rfl) (.foldl (fun _ _ => joinMilestone_touches ..) ..)

theorem joined_packages (s : State) (pkg d l : Nat) :
    let u := joined s pkg d l (getPkg s pkg).milestone
    getPkg u pkg = { getPkg s pkg with routeDom := some d, lsDom := some l, exhausted := (getPkg u pkg).exhausted } ∧
      ∀ x, x ≠ pkg → getPkg u x = getPkg s x := by
  intro u
  have h : OnlyExhausted pkg (modPkg s pkg fun k =>
      { k with routeDom := some d, lsDom := some l, milestone := (getPkg s pkg).milestone }) u :=
    .foldl (fun s k => joinMilestone_onlyExhausted s ⟨pkg, k / 8, k % 8, 25⟩ _) ..
  refine ⟨h.1.trans ?_, fun x hx => (h.2 x hx).trans (getPkg_setPkg_other _ _ hx)⟩
  unfold modPkg
  rw [getPkg_setPkg]

theorem mstone_joins {s : State} {pkg fn : Nat} {c : Cmd} (h : Heads s pkg fn 0x31 c)
    (ho : ∀ x ∈ s.packages, x.1 ≠ pkg → x.2.lsDom ≠ some (arg c 12 4)) (hd : domainMilestone s pkg (arg c 8 4) = none) :
    Ends (.mstone pkg fn) s (joined s pkg (arg c 8 4) (arg c 12 4) (getPkg s pkg).milestone) pkg fn c (okWord 0) [] := by
  have e : (s.packages.filter fun k => decide (k.1 ≠ pkg) && decide (k.2.lsDom = some (arg c 12 4))) = [] :=
    List.filter_eq_nil_iff.2 fun x hx => by simpa using ho x hx
  refine h.ends rfl ?_
  dsimp only
  rw [e, hd]
  exact (if_neg Bool.false_ne_true).trans (if_neg (by decide))

/-! ### TLBINV, SCRUB, POWER, READ (R353, R387, R402, R414) -/

section
variable {s : State} {pkg fn : Nat} {c : Cmd}

theorem tlbinv_foreign (h : Heads s pkg fn 0x34 c) (h1 : fn ≠ 0) (h2 : arg c 16 1 ≠ fn) :
    Ends (.tlbinv pkg fn) s s pkg fn c (errWord 0x0A) [] := h.ends rfl (if_pos ⟨h1, h2⟩)

/-- The state without the TLB entries and the walks of a page of a partition. -/
def forgotten (s : State) (pkg p v : Nat) : State :=
  { s with
    tlb := s.tlb.filter fun t => !tlbHit pkg (some p) (some v) t
    walks := s.walks.filter fun w => !walkHit pkg (some p) (some v) w }

section
variable (h : Heads s pkg fn 0x34 c) (h1 : arg c 16 1 ≤ 31) (h2 : arg c 17 1 = 0) (h3 : fn = 0 ∨ arg c 16 1 = fn)
  (h4 : (getPart s (pkg, arg c 16 1)).flr = 0)
include h1 h2 h3 h4

theorem tlbinv_args : ¬ (fn ≠ 0 ∧ arg c 16 1 ≠ fn) ∧ ¬ (31 < arg c 16 1 ∨ 1 < arg c 17 1) ∧
    ¬ inFlr s pkg (arg c 16 1) = true :=
  ⟨fun hc => h3.elim hc.1 hc.2, by omega, by simp [inFlr, h4]⟩

include h

theorem tlbinv_waits (ht : throughTlb (forgotten s pkg (arg c 16 1) (arg c 8 8)) pkg (some (arg c 16 1)) (some (arg c 8 8)) = true) :
    exec (.tlbinv pkg fn) s = .next (forgotten s pkg (arg c 16 1) (arg c 8 8)) := by
  obtain ⟨n1, n2, n3⟩ := tlbinv_args h1 h2 h3 h4
  refine h.waits rfl ((if_neg n1).trans ((if_neg n2).trans ((if_neg n3).trans ?_)))
  dsimp only
  rw [h2]
  exact if_pos ht

theorem tlbinv_ends (ht : throughTlb (forgotten s pkg (arg c 16 1) (arg c 8 8)) pkg (some (arg c 16 1)) (some (arg c 8 8)) = false) :
    Ends (.tlbinv pkg fn) s (forgotten s pkg (arg c 16 1) (arg c 8 8)) pkg fn c (okWord 0) [] := by
  obtain ⟨n1, n2, n3⟩ := tlbinv_args h1 h2 h3 h4
  refine h.ends rfl ((if_neg n1).trans ((if_neg n2).trans ((if_neg n3).trans ?_)))
  dsimp only
  rw [h2]
  exact if_neg fun hc => Bool.false_ne_true (ht.symm.trans hc)

end

/-- The state with the scrub's settings of a command. -/
def scrubSet (s : State) (pkg : Nat) (c : Cmd) : State :=
  modPkg s pkg fun k =>
    { k with threshold := arg c 8 2, windowMs := arg c 12 4, mtPassMs := arg c 16 4, hbmPassMin := arg c 20 4 }

theorem scrub_sets (h : Heads s pkg fn 0x50 c) (h1 : 1 ≤ arg c 8 2) (h2 : 1 ≤ arg c 12 4) (h3 : arg c 12 4 ≤ 1000000) :
    Ends (.scrub pkg fn) s ((countedBanks (scrubSet s pkg c) pkg).foldl pendIfDue (scrubSet s pkg c)) pkg fn c (okWord 0) [] :=
  h.ends rfl (if_neg (by omega))

theorem pendIfDue_all_touches (bs : List BankId) (s : State) : Touches [.bankModes] s (bs.foldl pendIfDue s) :=
  .foldl (fun _ _ => pendIfDue_touches ..) ..

theorem power_sets (h : Heads s pkg fn 0x58 c) (h1 : 1200 ≤ arg c 8 2) (h2 : arg c 8 2 ≤ 3400) :
    Ends (.power pkg fn) s (modPkg s pkg fun x => { x with limit := arg c 8 2 }) pkg fn c (okWord 0) [] :=
  h.ends rfl (if_neg (by omega))

theorem power_refused (h : Heads s pkg fn 0x58 c) (h1 : arg c 8 2 < 1200 ∨ 3400 < arg c 8 2) :
    Ends (.power pkg fn) s s pkg fn c (errWord 0x02) [] := h.ends rfl (if_pos h1)

section
variable (h : Heads s pkg fn 0x40 c) (hd : arg c 9 1 ≤ 3)
include hd

theorem readAnswer_obj {o : Option Nat} {bs : List Byte}
    (hr : readObj s pkg fn (arg c 8 1) (arg c 9 1) (arg c 12 4) c = .obj o bs) :
    readAnswer s pkg fn c = if fn ≠ 0 ∧ o ≠ some fn then .error 0x0A else .ok bs := by
  unfold readAnswer
  dsimp only
  rw [if_neg (Nat.not_lt.2 hd), hr]

include h

theorem read_own {o : Option Nat} {bs : List Byte} (hr : readObj s pkg fn (arg c 8 1) (arg c 9 1) (arg c 12 4) c = .obj o bs)
    (ho : fn = 0 ∨ o = some fn) :
    ((readPart c).any (inFlr s pkg) = false → Ends (.readObject pkg fn) s s pkg fn c (okWord 0) bs) ∧
      ((readPart c).any (inFlr s pkg) = true → exec (.readObject pkg fn) s = .next s) := by
  have ha := (readAnswer_obj hd hr).trans (if_neg fun hc => ho.elim hc.1 hc.2)
  refine ⟨fun hf => h.ends rfl ?_, fun hf => h.waits rfl ?_⟩
  · rw [ha]
    exact if_neg fun hc => Bool.false_ne_true (hf.symm.trans hc)
  · rw [ha]
    exact if_pos hf

theorem read_foreign {o : Option Nat} {bs : List Byte}
    (hr : readObj s pkg fn (arg c 8 1) (arg c 9 1) (arg c 12 4) c = .obj o bs) (h1 : fn ≠ 0) (h2 : o ≠ some fn) :
    Ends (.readObject pkg fn) s s pkg fn c (errWord 0x0A) [] := by
  refine h.ends rfl ?_
  rw [readAnswer_obj hd hr, if_pos ⟨h1, h2⟩]
  rfl

theorem read_missing (hr : readObj s pkg fn (arg c 8 1) (arg c 9 1) (arg c 12 4) c = .missing) (h0 : fn = 0) :
    Ends (.readObject pkg fn) s s pkg fn c (errWord 0x04) [] := by
  have ha : readAnswer s pkg fn c = .error 0x04 := by
    unfold readAnswer
    dsimp only
    rw [if_neg (Nat.not_lt.2 hd), hr]
    exact congrArg Except.error (if_neg fun hc => hc.1 h0)
  refine h.ends rfl ?_
  rw [ha]
  rfl

end
end

end Sys2Proof.Machine
end

section
/-!
PROOFS. Proofs/DebugCommands.lean: DBGSET and THREAD (spec/19 R390 to R401; spec/15 R347; spec/20 R408, R409).
-/
namespace Sys2Proof.Machine

section
variable {s : State} {pkg fn : Nat} {c : Cmd}

/-! ### DBGSET (R390 to R401) -/

section
variable (h : Heads s pkg fn 0x41 c) (hd : arg c 9 1 ≤ 3)
include h hd

theorem dbgsetStopEntry_sets {b : List Byte} (h0 : arg c 8 1 = 0) (h1 : arg c 12 4 % 4 = 0) (h2 : arg c 12 4 < 256)
    (hb : bufBytes (bufReads s pkg fn c 32) pkg fn c 32 = some b) (hv : stopEntryOk (leNat b) = true) (hf : fn = 0) :
    Ends (.dbgsetStopEntry pkg fn) s (setStop (bufReads s pkg fn c 32) (pkg, arg c 12 4 / 4)
      (BitVec.ofNat 256 (leNat b) &&& ~~~2#256)) pkg fn c (okWord 0) [] := by
  refine h.dbgSet hd rfl (by rw [h0]; rfl) ((if_neg (by omega)).trans ?_)
  dsimp only
  rw [hb]
  exact (if_neg (by rw [hv]; decide)).trans (if_neg fun hc => hc.1 hf)

section
variable (h0 : arg c 8 1 = 1) (h1 : arg c 12 4 % 4 = 1) (h2 : arg c 12 4 < 128) (hf : fn = 0 ∨ arg c 12 4 / 4 = fn)
include h0 h1 h2 hf

theorem dbgsetTrace_waits (hr : (getPart s (pkg, arg c 12 4 / 4)).flr ≠ 0) : exec (.dbgsetTrace pkg fn) s = .next s :=
  h.dbgWaits hd rfl (by rw [h0]; rfl) ((if_neg (by omega)).trans ((if_neg fun hc => hf.elim hc.1 hc.2).trans
    (if_pos (by simpa [inFlr] using hr))))

/-- The trace configuration that a command's buffer holds. -/
def readCfg (s : State) (pkg fn : Nat) (c : Cmd) : Option (Nat × Nat × Bool × Nat) :=
  (bufBytes (bufReads s pkg fn c (Config.bufSize 1 0)) pkg fn c (Config.bufSize 1 0)).bind Config.readTrace

section
variable (hr : (getPart s (pkg, arg c 12 4 / 4)).flr = 0)
include hr

theorem dbgsetTrace_sets {t : Nat × Nat × Bool × Nat} (ht : readCfg s pkg fn c = some t)
    (hk : traceOk (bufReads s pkg fn c (Config.bufSize 1 0)) (arg c 12 4 / 4) t.1 t.2.1 = true) :
    Ends (.dbgsetTrace pkg fn) s (setTraceCfg (bufReads s pkg fn c (Config.bufSize 1 0)) (pkg, arg c 9 1, arg c 12 4 / 4)
      { base := t.1, size := t.2.1, stopFull := t.2.2.1, mask := t.2.2.2 }) pkg fn c (okWord 0) [] := by
  refine h.dbgSet hd rfl (by rw [h0]; rfl) ((if_neg (by omega)).trans ((if_neg fun hc => hf.elim hc.1 hc.2).trans
    ((if_neg (by simp [inFlr, hr])).trans ?_)))
  unfold readCfg at ht
  dsimp only
  rw [ht]
  exact if_neg (by rw [hk]; decide)

theorem dbgsetTrace_refused (ht : ∀ t, readCfg s pkg fn c = some t →
    traceOk (bufReads s pkg fn c (Config.bufSize 1 0)) (arg c 12 4 / 4) t.1 t.2.1 = false) :
    Ends (.dbgsetTrace pkg fn) s (bufReads s pkg fn c (Config.bufSize 1 0)) pkg fn c (errWord 0x02) [] := by
  refine h.dbgSet hd rfl (by rw [h0]; rfl) ((if_neg (by omega)).trans ((if_neg fun hc => hf.elim hc.1 hc.2).trans
    ((if_neg (by simp [inFlr, hr])).trans ?_)))
  unfold readCfg at ht
  dsimp only
  cases hx : (bufBytes (bufReads s pkg fn c (Config.bufSize 1 0)) pkg fn c (Config.bufSize 1 0)).bind Config.readTrace with
  | none => rfl
  | some t => exact if_pos (by rw [ht t hx]; rfl)

end
end

/-- The engine whose filter an index names. -/
def watchEng (pkg : Nat) (c : Cmd) : Eng := ⟨pkg, arg c 9 1, bits (arg c 12 4) 10 7, bits (arg c 12 4) 6 2⟩

section
variable (h0 : arg c 8 1 = 2) (h1 : arg c 12 4 % 4 = 2) (h2 : arg c 12 4 < 2048)
  (h3 : (watchEng pkg c).elem = 28 ∨ (watchEng pkg c).elem = 24) (h4 : engExists (watchEng pkg c) = true)

section
include h1 h2 h3 h4
omit h hd

theorem watch_args : ¬ (arg c 12 4 % 4 ≠ 2 ∨ 2048 ≤ arg c 12 4 ∨ ((watchEng pkg c).elem ≠ 28 ∧ (watchEng pkg c).elem ≠ 24) ∨
    (!engExists (watchEng pkg c)) = true) := by
  rw [h4]
  rintro (h | h | h | h)
  · exact h h1
  · omega
  · exact h3.elim h.1 h.2
  · exact Bool.false_ne_true h

end

include h0 h1 h2 h3 h4

theorem dbgsetWatch_foreign (hf : fn ≠ 0) : Ends (.dbgsetWatch pkg fn) s s pkg fn c (errWord 0x0A) [] :=
  h.dbgSet hd rfl (by rw [h0]; rfl) ((if_neg (watch_args h1 h2 h3 h4)).trans (if_pos hf))

variable (hf : fn = 0)
include hf

theorem dbgsetWatch_sets {b : List Byte} {w : Watch} (hb : bufBytes (bufReads s pkg fn c (Config.bufSize 2 0)) pkg fn c
    (Config.bufSize 2 0) = some b) (hw : Config.readWatch b = some w) : Ends (.dbgsetWatch pkg fn) s
      (setWatch (bufReads s pkg fn c (Config.bufSize 2 0)) (watchEng pkg c) w) pkg fn c (okWord 0) [] := by
  refine h.dbgSet hd rfl (by rw [h0]; rfl) ((if_neg (watch_args h1 h2 h3 h4)).trans ((if_neg (not_not_intro hf)).trans ?_))
  dsimp only
  rw [hb, Option.bind_some, hw]
  rfl

theorem dbgsetWatch_refused (hb : (bufBytes (bufReads s pkg fn c (Config.bufSize 2 0)) pkg fn c (Config.bufSize 2 0)).bind
    Config.readWatch = none) : Ends (.dbgsetWatch pkg fn) s (bufReads s pkg fn c (Config.bufSize 2 0)) pkg fn c
      (errWord 0x02) [] := by
  refine h.dbgSet hd rfl (by rw [h0]; rfl) ((if_neg (watch_args h1 h2 h3 h4)).trans ((if_neg (not_not_intro hf)).trans ?_))
  dsimp only
  rw [hb]
  rfl

end

theorem dbgsetBreakBit_sets {b : List Byte} (h0 : arg c 8 1 = 3) (h1 : arg c 12 4 % 4 = 3) (h2 : arg c 12 4 < 2 ^ 14)
    (hf : fn = 0 ∨ (getLaunch s (pkg, arg c 12 4 / 4)).map (·.part) = some fn)
    (hb : bufBytes (bufReads s pkg fn c 1) pkg fn c 1 = some b) : Ends (.dbgsetBreakBit pkg fn) s
      (setBreak (bufReads s pkg fn c 1) (pkg, arg c 12 4 / 4) (bit (leNat b) 0)) pkg fn c (okWord 0) [] := by
  refine h.dbgSet hd rfl (by rw [h0]; rfl) ((if_neg (by omega)).trans ((if_neg fun hc => hf.elim hc.1 hc.2).trans ?_))
  dsimp only
  rw [hb]
  rfl

/-- The state with the profile record of a command's operator slot zero. -/
def profileCleared (s : State) (pkg : Nat) (c : Cmd) : State :=
  modEng s (selEng pkg (arg c 9 1) (arg c 12 4)) fun x =>
    { x with slots := tmod {} (bits (arg c 12 4) 5 0) (clearProfile 31) x.slots }

theorem dbgsetProfileClear_clears {r : OpRef} (h0 : arg c 8 1 = 4) (h1 : arg c 12 4 < 2 ^ 15)
    (hr : findOp s (selEng pkg (arg c 9 1) (arg c 12 4)) (bits (arg c 12 4) 5 0) = some r) (hf : fn = 0 ∨ r.g.part = fn)
    (hb : c.buf = 0) : Ends (.dbgsetProfileClear pkg fn) s (profileCleared s pkg c) pkg fn c (okWord 0) [] := by
  refine h.dbgSet hd rfl (by rw [h0]; rfl) ((if_neg (by omega)).trans ?_)
  have hbr : bufReads s pkg fn c 8 = s := if_pos hb
  have hn : leNat (leBytes 8 31) = 31 := by decide
  dsimp only
  rw [hr]
  dsimp only
  rw [if_neg fun hc => hf.elim hc.1 hc.2, hbr, if_pos hb]
  dsimp only
  rw [hn]
  rfl

omit h hd in
theorem profileCleared_slot : tget {} (bits (arg c 12 4) 5 0) (getEng (profileCleared s pkg c) (selEng pkg (arg c 9 1) (arg c 12 4))).slots =
    clearProfile 31 (tget {} (bits (arg c 12 4) 5 0) (getEng s (selEng pkg (arg c 9 1) (arg c 12 4))).slots) := by
  unfold profileCleared
  rw [getEng_modEng]
  exact tget_tmod_same ..

omit h hd in
theorem clearProfile_all (x : SlotDyn) : (clearProfile 31 x).fires = 0 ∧ (clearProfile 31 x).refills = 0 ∧
    (clearProfile 31 x).spills = 0 ∧ (clearProfile 31 x).flags = 0 ∧ (clearProfile 31 x).bins = List.replicate 16 0 :=
  ⟨rfl, rfl, rfl, rfl, rfl⟩

theorem dbgsetLogEntry_frees (h0 : arg c 8 1 = 5) (h1 : arg c 10 1 = 24 ∨ arg c 10 1 = 27)
    (h2 : engExists ⟨pkg, arg c 9 1, arg c 11 1, arg c 10 1⟩ = true) (h3 : arg c 12 4 < 64) (hf : fn = 0) :
    Ends (.dbgsetLogEntry pkg fn) s (modEng s ⟨pkg, arg c 9 1, arg c 11 1, arg c 10 1⟩ fun x =>
      { x with log := tdel (arg c 12 4) x.log }) pkg fn c (okWord 0) [] := by
  refine h.dbgSet hd rfl (by rw [h0]; rfl) ((if_neg ?_).trans (if_neg fun hc => hc.1 hf))
  rw [h2]
  rintro (h | h | h)
  · exact h1.elim h.1 h.2
  · exact Bool.false_ne_true h
  · omega

end

/-! ### THREAD (R347, R394, R409) -/

section
variable (h : Heads s pkg fn 0x42 c) (h1 : arg c 8 1 ≤ 3) (h2 : arg c 9 1 ≤ 3)
include h h1 h2

theorem thread_foreign {o : Nat} (h3 : o ≤ 3) (ho : arg c 10 1 = o) (hn : fn ≠ 0)
    (hp : (getThr s (cmdTid pkg c)).part ≠ fn) :
    Ends (([.threadNormalStop pkg fn, .threadHardStop pkg fn, .threadResume pkg fn, .threadRegisterWrite pkg fn] :
      List Instr).getD o (.threadResume pkg fn)) s s pkg fn c (errWord 0x0A) [] := by
  subst ho
  have hs : arg c 10 1 = 0 ∨ arg c 10 1 = 1 ∨ arg c 10 1 = 2 ∨ arg c 10 1 = 3 := by omega
  rcases hs with e | e | e | e
  · rw [e]
    exact h.thrRefused h1 h2 h3 rfl (by rw [e]; rfl) hn hp
  · rw [e]
    exact h.thrRefused h1 h2 h3 rfl (by rw [e]; rfl) hn hp
  · rw [e]
    exact h.thrRefused h1 h2 h3 rfl (by rw [e]; rfl) hn hp
  · rw [e]
    exact h.thrRefused h1 h2 h3 rfl (by rw [e]; rfl) hn hp

variable (hp : fn = 0 ∨ (getThr s (cmdTid pkg c)).part = fn)
include hp

theorem threadNormalStop_stops (ho : arg c 10 1 = 0) (hl : (getThr s (cmdTid pkg c)).loads = [])
    (ha : (getThr s (cmdTid pkg c)).asyncs = []) : Ends (.threadNormalStop pkg fn) s (setThr s (cmdTid pkg c)
      { getThr s (cmdTid pkg c) with stopped := true, stopping := false, wait := none }) pkg fn c (okWord 0) [] :=
  h.thrEnds h1 h2 (by omega) rfl (by rw [ho]; rfl) hp (if_pos ⟨by rw [hl]; rfl, by rw [ha]; rfl⟩)

theorem threadNormalStop_waits (ho : arg c 10 1 = 0)
    (hl : (getThr s (cmdTid pkg c)).loads ≠ [] ∨ (getThr s (cmdTid pkg c)).asyncs ≠ []) :
    exec (.threadNormalStop pkg fn) s =
      .next (setThr s (cmdTid pkg c) { getThr s (cmdTid pkg c) with stopping := true, wait := none }) := by
  refine h.thrWaits h1 h2 (by omega) rfl (by rw [ho]; rfl) hp (if_neg ?_)
  rintro ⟨ha, hb⟩
  exact hl.elim (fun n => n (List.isEmpty_iff.1 ha)) fun n => n (List.isEmpty_iff.1 hb)

theorem threadHardStop_stops (ho : arg c 10 1 = 1) : Ends (.threadHardStop pkg fn) s (setThr s (cmdTid pkg c)
    { getThr s (cmdTid pkg c) with stopped := true, hard := true, stopping := false, wait := none }) pkg fn c (okWord 0) [] :=
  h.thrEnds h1 h2 (by omega) rfl (by rw [ho]; rfl) hp rfl

theorem threadResume_resumes (ho : arg c 10 1 = 2) : Ends (.threadResume pkg fn) s (setThr s (cmdTid pkg c)
    { getThr s (cmdTid pkg c) with halted := false, stopped := false, hard := false, stopping := false }) pkg fn c (okWord 0) [] :=
  h.thrEnds h1 h2 (by omega) rfl (by rw [ho]; rfl) hp rfl

section
variable (ho : arg c 10 1 = 3)
include ho

theorem threadRegisterWrite_runs (hh : (getThr s (cmdTid pkg c)).halted = false)
    (hs : (getThr s (cmdTid pkg c)).stopped = false) : Ends (.threadRegisterWrite pkg fn) s s pkg fn c (errWord 0x05) [] :=
  h.thrEnds h1 h2 (by omega) rfl (by rw [ho]; rfl) hp (if_pos (by simp [hh, hs]))

variable (hs : (getThr s (cmdTid pkg c)).halted = true ∨ (getThr s (cmdTid pkg c)).stopped = true)
include hs

theorem threadRegisterWrite_reg (hr1 : 1 ≤ arg c 24 4) (hr2 : arg c 24 4 ≤ 31) : Ends (.threadRegisterWrite pkg fn) s
    (setThr s (cmdTid pkg c) (pokeReg (getThr s (cmdTid pkg c)) (BitVec.ofNat 5 (arg c 24 4)) (BitVec.ofNat 64 (arg c 16 8))))
      pkg fn c (okWord 0) [] := by
  refine h.thrEnds h1 h2 (by omega) rfl (by rw [ho]; rfl) hp ((if_neg ?_).trans (if_pos ⟨hr1, hr2⟩))
  rcases hs with e | e <;> simp [e]

theorem threadRegisterWrite_pc (hr : arg c 24 4 = 0x2000) : Ends (.threadRegisterWrite pkg fn) s
    (setThr s (cmdTid pkg c) { getThr s (cmdTid pkg c) with pc := BitVec.ofNat 64 (arg c 16 8) &&& ~~~3#64 })
      pkg fn c (okWord 0) [] := by
  refine h.thrEnds h1 h2 (by omega) rfl (by rw [ho]; rfl) hp ((if_neg ?_).trans ((if_neg (by omega)).trans
    ((if_neg ?_).trans (if_pos hr))))
  · rcases hs with e | e <;> simp [e]
  · rw [hr]
    decide

end
end
end

theorem readReg_pokeReg {th : Thread} {r : RegNo} (hr : r ≠ 0) (v : Word) : readReg (pokeReg th r v) r = v := by
  refine (readReg_congr r rfl).trans ((readReg_writeReg _ r v).trans ?_)
  exact if_neg hr

theorem regNo_ne_zero {r : Nat} (h1 : 1 ≤ r) (h2 : r ≤ 31) : BitVec.ofNat 5 r ≠ 0 := by
  bv_omega

/-! ### The commands together -/

section
variable {s : State} {pkg fn : Nat} {c : Cmd}

theorem routes_comes (h : Heads s pkg fn 0x30 c) : let n := Config.bufSize 0x30 (arg c 8 4); let v := bufReads s pkg fn c n
    ∃ u w, Ends (.routes pkg fn) s u pkg fn c w [] ∧
      ∀ b rs, bufBytes v pkg fn c n = some b → Config.readRoutes b (arg c 8 4) = some rs →
        w = okWord 0 ∧ u = { v with straits := u.straits } ∧ (∀ e, (getStrait u e).table = (getStrait s e).table) ∧
        ∀ r, rs = [r] → let e : Eng := ⟨pkg, r.1 % 4, r.2.1 % 8, 25⟩
          (getStrait u e).newTable = mergeRoutes (getStrait s e).newTable [routeEntry r.2.2] := by
  intro n v
  have hv (e : Eng) : getStrait v e = getStrait s e := (bufReads_touches ..).getStrait (by decide) e
  cases hx : (bufBytes v pkg fn c n).bind (fun b => Config.readRoutes b (arg c 8 4)) with
  | none =>
    refine ⟨_, _, routes_refused h hx, fun b rs hb hr => ?_⟩
    rw [hb, Option.bind_some, hr] at hx
    cases hx
  | some rs =>
    obtain ⟨b, hb, hr⟩ := Option.bind_eq_some_iff.1 hx
    obtain ⟨hu, ht⟩ := putRoutes_spec pkg rs v
    refine ⟨_, _, routes_sets h hb hr, fun b' rs' hb' hr' => ⟨rfl, hu, fun e => (ht e).trans (congrArg _ (hv e)), ?_⟩⟩
    cases hb.symm.trans hb'
    cases hr.symm.trans hr'
    rintro r rfl e
    refine (putRoute_newTable pkg v r).trans ?_
    rw [hv]

theorem rgroup_comes (h : Heads s pkg fn 0x32 c) (h1 : 2 ≤ arg c 12 4) (h2 : arg c 12 4 ≤ 1024) (h3 : arg c 10 2 < arg c 12 4)
    (h4 : arg c 12 2 = arg c 12 4) : let n := Config.bufSize 0x32 (arg c 12 2); let r := bufReads s pkg fn c n
    ∃ u w, Ends (.rgroup pkg fn) s u pkg fn c w [] ∧ ∀ b, bufBytes r pkg fn c n = some b → w = okWord 0 ∧
      u = modGroup r (pkg, arg c 8 1) fun g =>
        { g with bound := true, rank := arg c 10 2, n := arg c 12 4, links := Config.readLinks b } := by
  intro n r
  rw [← h4] at h1 h2 h3 ⊢
  cases hb : bufBytes r pkg fn c n with
  | none => exact ⟨_, _, rgroup_refused h h1 h2 h3 hb, fun b hc => by cases hc⟩
  | some b =>
    refine ⟨_, _, rgroup_binds h h1 h2 h3 hb, fun b' hc => ?_⟩
    cases hc
    exact ⟨rfl, rfl⟩

section
variable (h : Heads s pkg fn 0x41 c) (hd : arg c 9 1 ≤ 3)
include h hd

theorem dbgsetTrace_comes (h0 : arg c 8 1 = 1) (h1 : arg c 12 4 % 4 = 1) (h2 : arg c 12 4 < 128)
    (hf : fn = 0 ∨ arg c 12 4 / 4 = fn) (hr : (getPart s (pkg, arg c 12 4 / 4)).flr = 0) :
    let r := bufReads s pkg fn c (Config.bufSize 1 0)
    ∃ u w, Ends (.dbgsetTrace pkg fn) s u pkg fn c w [] ∧
      ∀ b t, bufBytes r pkg fn c (Config.bufSize 1 0) = some b → Config.readTrace b = some t →
        traceOk r (arg c 12 4 / 4) t.1 t.2.1 = true → w = okWord 0 ∧ u = setTraceCfg r (pkg, arg c 9 1, arg c 12 4 / 4)
          { base := t.1, size := t.2.1, stopFull := t.2.2.1, mask := t.2.2.2 } := by
  intro r
  by_cases hx : ∃ t, readCfg s pkg fn c = some t ∧ traceOk r (arg c 12 4 / 4) t.1 t.2.1 = true
  · obtain ⟨t, ht, hk⟩ := hx
    refine ⟨_, _, dbgsetTrace_sets h hd h0 h1 h2 hf hr ht hk, fun b t' hb hr' hk' => ?_⟩
    have he : readCfg s pkg fn c = some t' := by
      unfold readCfg
      rw [hb, Option.bind_some, hr']
    cases ht.symm.trans he
    exact ⟨rfl, rfl⟩
  · refine ⟨_, _, dbgsetTrace_refused h hd h0 h1 h2 hf hr fun t ht => ?_, fun b t hb hr' hk' => absurd ⟨t, ?_, hk'⟩ hx⟩
    · exact Bool.eq_false_iff.2 fun hk => hx ⟨t, ht, hk⟩
    · unfold readCfg
      rw [hb, Option.bind_some, hr']

theorem dbgsetWatch_comes (h0 : arg c 8 1 = 2) (h1 : arg c 12 4 % 4 = 2) (h2 : arg c 12 4 < 2048)
    (h3 : (watchEng pkg c).elem = 28 ∨ (watchEng pkg c).elem = 24) (h4 : engExists (watchEng pkg c) = true) (hf : fn = 0) :
    let r := bufReads s pkg fn c (Config.bufSize 2 0)
    ∃ u x, Ends (.dbgsetWatch pkg fn) s u pkg fn c x [] ∧
      ∀ b w, bufBytes r pkg fn c (Config.bufSize 2 0) = some b → Config.readWatch b = some w →
        x = okWord 0 ∧ u = setWatch r (watchEng pkg c) w := by
  intro r
  cases hx : (bufBytes r pkg fn c (Config.bufSize 2 0)).bind Config.readWatch with
  | none =>
    refine ⟨_, _, dbgsetWatch_refused h hd h0 h1 h2 h3 h4 hf hx, fun b w hb hw => ?_⟩
    rw [hb, Option.bind_some, hw] at hx
    cases hx
  | some w =>
    obtain ⟨b, hb, hw⟩ := Option.bind_eq_some_iff.1 hx
    refine ⟨_, _, dbgsetWatch_sets h hd h0 h1 h2 h3 h4 hf hb hw, fun b' w' hb' hw' => ?_⟩
    cases hb.symm.trans hb'
    cases hw.symm.trans hw'
    exact ⟨rfl, rfl⟩

theorem dbgsetProfileClear_comes {r : OpRef} (h0 : arg c 8 1 = 4) (h1 : arg c 12 4 < 2 ^ 15)
    (hr : findOp s (selEng pkg (arg c 9 1) (arg c 12 4)) (bits (arg c 12 4) 5 0) = some r) (hf : fn = 0 ∨ r.g.part = fn)
    (hb : c.buf = 0) : ∃ u, Ends (.dbgsetProfileClear pkg fn) s u pkg fn c (okWord 0) [] ∧
      let d := tget {} (bits (arg c 12 4) 5 0) (getEng u (selEng pkg (arg c 9 1) (arg c 12 4))).slots
      d.fires = 0 ∧ d.refills = 0 ∧ d.spills = 0 ∧ d.flags = 0 ∧ d.bins = List.replicate 16 0 ∧ SameBytes s u := by
  refine ⟨_, dbgsetProfileClear_clears h hd h0 h1 hr hf hb, ?_⟩
  dsimp only
  rw [profileCleared_slot]
  obtain ⟨e1, e2, e3, e4, e5⟩ := clearProfile_all (tget {} (bits (arg c 12 4) 5 0)
    (getEng s (selEng pkg (arg c 9 1) (arg c 12 4))).slots)
  exact ⟨e1, e2, e3, e4, e5, Touches.sameBytes (l := [.engines]) (.put rfl) (by decide)⟩

end

theorem scrub_comes (h : Heads s pkg fn 0x50 c) (h1 : 1 ≤ arg c 8 2) (h2 : 1 ≤ arg c 12 4) (h3 : arg c 12 4 ≤ 1000000) :
    ∃ u, Ends (.scrub pkg fn) s u pkg fn c (okWord 0) [] ∧ getPkg u pkg = { getPkg s pkg with
      threshold := arg c 8 2, windowMs := arg c 12 4, mtPassMs := arg c 16 4, hbmPassMin := arg c 20 4 } ∧
      SameBytes s u ∧ u.threads = s.threads := by
  have ht := pendIfDue_all_touches (countedBanks (scrubSet s pkg c) pkg) (scrubSet s pkg c)
  refine ⟨_, scrub_sets h h1 h2 h3, (ht.getPkg (by decide) pkg).trans (getPkg_setPkg ..), ?_, ht.same .threads (by decide)⟩
  exact SameBytes.trans (Touches.sameBytes (l := [.packages]) (.put rfl) (by decide)) (ht.sameBytes (by decide))

end

/-- Settles O56: each command ends from the state that its arguments and buffer give, by `Heads.ends`, `Heads.dbgSet` and
`Heads.thrEnds`; a MSTONE changes no other package, since a resend marks its own package alone. -/
theorem firmwareAndDebugCommands : Obligations.FirmwareAndDebugCommands := by
  unfold Obligations.FirmwareAndDebugCommands
  intro s pkg fn c die k
  refine ⟨fun h => h.ends rfl rfl, fun h => h.ends rfl rfl, ?_, routes_comes, ?_, rgroup_comes, tlbinv_foreign, ?_,
    scrub_comes, fun h => ⟨power_sets h, power_refused h⟩, ?_, ?_, ?_⟩
  case refine_1 =>
    intro b r h hb
    exact ⟨fwstage_stages h hb, fwstage_refused h hb⟩
  case refine_2 =>
    intro h ho hd
    obtain ⟨h1, h2⟩ := joined_packages s pkg (arg c 8 4) k
    have ht := joined_touches s pkg (arg c 8 4) k (getPkg s pkg).milestone
    exact ⟨_, mstone_joins h ho hd, h1, h2, ht.sameBytes (by decide), ht.same .threads (by decide)⟩
  case refine_3 =>
    intro p h h1 h2 h3 h4 left u
    exact ⟨tlbinv_waits h h1 h2 h3 h4, tlbinv_ends h h1 h2 h3 h4⟩
  case refine_4 =>
    intro h hd
    exact ⟨fun o bs hr => ⟨read_own h hd hr, read_foreign h hd hr⟩, read_missing h hd⟩
  case refine_5 =>
    intro h hd
    refine ⟨?_, ?_, ?_, ?_, fun r => dbgsetProfileClear_comes h hd, ?_⟩
    · intro b r h0 h1 h2 hb hv hf
      exact dbgsetStopEntry_sets h hd h0 h1 h2 hb hv hf
    · intro h0 h1 h2 hf r
      exact ⟨dbgsetTrace_waits h hd h0 h1 h2 hf, dbgsetTrace_comes h hd h0 h1 h2 hf⟩
    · intro e h0 h1 h2 h3 h4
      exact ⟨dbgsetWatch_foreign h hd h0 h1 h2 h3 h4, dbgsetWatch_comes h hd h0 h1 h2 h3 h4⟩
    · intro b r h0 h1 h2 hf hb u
      exact ⟨dbgsetBreakBit_sets h hd h0 h1 h2 hf hb, tget_tset_same ..⟩
    · intro e h0 h1 h2 h3 hf
      exact dbgsetLogEntry_frees h hd h0 h1 h2 h3 hf
  case refine_6 =>
    intro t th h h1 h2
    refine ⟨fun o h3 ho hn hp => thread_foreign h h1 h2 h3 ho hn hp, fun hp => ⟨fun ho =>
      ⟨threadNormalStop_stops h h1 h2 hp ho, threadNormalStop_waits h h1 h2 hp ho⟩, threadHardStop_stops h h1 h2 hp,
      threadResume_resumes h h1 h2 hp, ?_⟩⟩
    intro ho v r
    refine ⟨threadRegisterWrite_runs h h1 h2 hp ho, fun hs => ⟨fun hr1 hr2 => ?_, threadRegisterWrite_pc h h1 h2 hp ho hs⟩⟩
    refine ⟨_, threadRegisterWrite_reg h h1 h2 hp ho hs hr1 hr2, ?_, fun x hx => getThr_setThr_other _ _ hx⟩
    rw [show t = cmdTid pkg c from rfl, getThr_setThr]
    exact readReg_pokeReg (regNo_ne_zero hr1 hr2) v

end Sys2Proof.Machine
end

section
/-!
PROOFS. Proofs/Upkeep.lean: clock gates, scrubs, error windows, the trace unit, power and the cold reset (spec/17 R373;
spec/18 R385 to R387; spec/19 R395; spec/20 R413, R414).
-/
namespace Sys2Proof.Machine

/-! ### Clock gates and power gates (R373) -/

section
variable {s : State} {e : Eng}

theorem elementClockGate_busy (h : elementIdle s e = false) : exec (.elementClockGate e) s = .next s :=
  congrArg Host.Outcome.next (if_neg fun hc => Bool.false_ne_true (h.symm.trans hc.1))

theorem elementClockGate_gates (h : elementIdle s e = true) (he : engExists e = true) :
    exec (.elementClockGate e) s = .next (modEng s e fun x => { x with gated := true }) :=
  congrArg Host.Outcome.next (if_pos ⟨h, he⟩)

theorem elementWake_ends (h : (getEng s e).waking = true) :
    exec (.elementWake e) s = .next (modEng s e fun x => { x with waking := false }) :=
  congrArg Host.Outcome.next (if_pos h)

/-- A token has reached an element. -/
def reachedBy (s : State) (e : Eng) : Bool := s.inFlight.any fun t => decide (t.dst.eng = e) && !mustCross t

section
variable (h : (getEng s e).waking = false)
include h

theorem elementWake_waits (hr : reachedBy s e = false) : exec (.elementWake e) s = .next s :=
  congrArg Host.Outcome.next ((if_neg fun hc => Bool.false_ne_true (h.symm.trans hc)).trans
    (if_pos (show (!reachedBy s e) = true by rw [hr]; rfl)))

theorem elementWake_wakes (hr : reachedBy s e = true) (hp : onPage e = false ∨ pagePowered s e = true)
    (hg : (getEng s e).gated = true) :
    exec (.elementWake e) s = .next (modEng s e fun x => { x with gated := false, waking := true }) := by
  refine congrArg Host.Outcome.next ((if_neg fun hc => Bool.false_ne_true (h.symm.trans hc)).trans
    ((if_neg (show ¬ (!reachedBy s e) = true by rw [hr]; decide)).trans ((if_neg ?_).trans (if_pos hg))))
  rintro ⟨h1, h2⟩
  rcases hp with hp | hp
  · exact Bool.false_ne_true (hp.symm.trans h1)
  · rw [hp] at h2
    exact Bool.false_ne_true h2

end
end

section
variable {s : State} {pkg die page : Nat}

theorem pagePowerGate_noSet (h : setOfPage s ⟨pkg, die, page, 0⟩ = none) : exec (.pagePowerGate pkg die page) s = .next s :=
  congrArg Host.Outcome.next (if_pos (.inr (.inr (by rw [h]; rfl))))

theorem pagePowerGate_gates (h : (setOfPage s ⟨pkg, die, page, 0⟩).isSome = true)
    (he : ∀ x ∈ s.engines, x.1.pkg = pkg → x.1.die = die → x.1.page = page → onPage x.1 = true →
      x.2.rows.all (·.backed) = true ∧ x.2.ready = [] ∧ x.2.flow = [] ∧ x.2.unit = [] ∧ runs x.2 = [])
    (ht : ∀ t ∈ s.tiles, t.1.pkg = pkg → t.1.die = die → t.1.handle / 4096 = page → t.2.state ≠ 2 ∧ t.2.state ≠ 4) :
    exec (.pagePowerGate pkg die page) s = .next { s with pageOn := tset (pkg, die, page) false s.pageOn } := by
  refine congrArg Host.Outcome.next (if_neg ?_)
  rintro (hb | hb | hb)
  · obtain ⟨x, hx, hc⟩ := List.any_eq_true.1 hb
    simp only [Bool.and_eq_true, decide_eq_true_eq] at hc
    obtain ⟨⟨⟨⟨h1, h2⟩, h3⟩, h4⟩, h5⟩ := hc
    obtain ⟨e1, e2, e3, e4, e5⟩ := he x hx h1 h2 h3 h4
    rw [e1, e2, e3, e4, e5] at h5
    exact Bool.false_ne_true h5
  · obtain ⟨x, hx, hc⟩ := List.any_eq_true.1 hb
    simp only [Bool.and_eq_true, Bool.or_eq_true, decide_eq_true_eq] at hc
    obtain ⟨⟨⟨h1, h2⟩, h3⟩, h4⟩ := hc
    obtain ⟨e1, e2⟩ := ht x hx h1 h2 h3
    exact h4.elim e1 e2
  · rw [Option.isNone_iff_eq_none] at hb
    rw [hb] at h
    exact Bool.false_ne_true h

end

/-! ### Codes and their counts (R385 to R387) -/

theorem Touches.getMode {l : List Field} {s t : State} (h : Touches l s t) (hl : l.contains .bankModes = false) (k : BankId) :
    getMode t k = getMode s k := by
  have e : t.bankModes = s.bankModes := h.same .bankModes (by simpa using hl)
  unfold Machine.getMode
  rw [e]

theorem getMode_modMode (s : State) (b : BankId) (f : BankMode → BankMode) : getMode (modMode s b f) b = f (getMode s b) :=
  tget_tset_same ..

theorem eccOf_congr {s t : State} (h1 : t.ecc = s.ecc) (h2 : t.eccL0 = s.eccL0) (l0 : Bool) (w : Nat) :
    eccOf t l0 w = eccOf s l0 w := by
  unfold eccOf
  rw [h1, h2]

theorem eccOf_setEcc (s : State) (l0 : Bool) (w : Nat) (e : Ecc) : eccOf (setEcc s l0 w e) l0 w = e := by
  have hk : ∀ t : Tbl Nat Ecc, tget .sound w (if e = .sound then tdel w t else tset w e t) = e := fun t => by
    split
    · next he =>
      unfold tget
      rw [tfind_tdel_same, he]
      rfl
    · exact tget_tset_same ..
  cases l0 with
  | true => exact hk _
  | false => exact hk _

theorem eccOf_setEcc_hbm_other (s : State) {w x : Nat} (e : Ecc) (h : x ≠ w) :
    eccOf (setEcc s false w e) false x = eccOf s false x := by
  show tget .sound x (if e = .sound then tdel w s.ecc else tset w e s.ecc) = tget .sound x s.ecc
  split
  · unfold tget
    rw [tfind_tdel_other _ h]
  · exact tget_tset_other _ _ _ h

theorem poison_keeps (ws : List Nat) : ∀ {s : State} {x : Nat}, eccOf s false x = .poison →
    eccOf (ws.foldl (fun s w => setEcc s false w .poison) s) false x = .poison := by
  induction ws with
  | nil => exact id
  | cons w ws ih =>
    intro s x h
    refine ih (s := setEcc s false w .poison) ?_
    by_cases hx : x = w
    · rw [hx, eccOf_setEcc]
    · rw [eccOf_setEcc_hbm_other _ _ hx, h]

theorem poison_all {ws : List Nat} {x : Nat} (h : x ∈ ws) (s : State) :
    eccOf (ws.foldl (fun s w => setEcc s false w .poison) s) false x = .poison := by
  induction ws generalizing s with
  | nil => exact absurd h List.not_mem_nil
  | cons w ws ih =>
    rcases List.mem_cons.1 h with rfl | h
    · exact poison_keeps ws (eccOf_setEcc ..)
    · exact ih h _

theorem poisonHbm_ecc {g n x : Nat} (h : x ∈ wordsOf g n) (s : State) : eccOf (poisonHbm s g n) false x = .poison := poison_all h s

theorem bankCorrected_ccount (s : State) (b : BankId) :
    (getMode (bankCorrected s b) b).ccount = sat16 (getMode s b).ccount := by
  unfold bankCorrected
  dsimp only
  rw [getMode_modMode]
  split
  · rfl
  · rfl

theorem pendIfDue_ccount (s : State) (b : BankId) : (getMode (pendIfDue s b) b).ccount = (getMode s b).ccount := by
  unfold pendIfDue
  dsimp only
  rw [getMode_modMode]
  split
  · rfl
  · rfl

/-! ### Scrubs (R387) -/

section
variable {s : State} {b : BankId} {k w : Nat}

theorem scrubRead_none (h : scrubWord b k = none) : exec (.scrubRead b k) s = .next s := by
  show execScrubRead b k s = _
  unfold execScrubRead
  rw [h]

theorem eccFix_single {l0 : Bool} (h : eccOf s l0 w = .single) : eccFix s l0 w = true := by
  unfold eccFix
  rw [h]

theorem scrubRead_l0 (h : scrubWord b k = some (true, w)) (he : eccOf s true w = .single) :
    exec (.scrubRead b k) s = .next (setEcc (bankCorrected s (l0BankOf (w * 8))) true w .sound) := by
  have hf := eccFix_single he
  have hr : eccRead s true w = bankCorrected s (l0BankOf (w * 8)) := if_pos hf
  show execScrubRead b k s = _
  unfold execScrubRead
  rw [h, ← hr]
  exact congrArg Host.Outcome.next ((if_neg (by simp)).trans (if_pos hf))

theorem scrubRead_corrects (h : scrubWord b k = some (true, w)) (he : eccOf s true w = .single) :
    ∃ t, exec (.scrubRead b k) s = .next t ∧ eccOf t true w = .sound ∧
      (getMode t (l0BankOf (w * 8))).ccount = sat16 (getMode s (l0BankOf (w * 8))).ccount ∧ SameBytes s t ∧
      t.threads = s.threads := by
  have h1 := bankCorrected_touches s (l0BankOf (w * 8))
  have h2 := setEcc_touches (bankCorrected s (l0BankOf (w * 8))) true w .sound
  refine ⟨_, scrubRead_l0 h he, eccOf_setEcc .., ?_, SameBytes.trans (h1.sameBytes (by decide)) (h2.sameBytes (by decide)),
    Eq.trans (h2.same .threads (by decide)) (h1.same .threads (by decide))⟩
  rw [h2.getMode (by decide), bankCorrected_ccount]

section
variable (h : scrubWord b k = some (false, w))
include h

theorem scrubRead_noSlot (hg : granted s (ownerOf (w * 8)) .scrub = false) : exec (.scrubRead b k) s = .next s := by
  show execScrubRead b k s = _
  unfold execScrubRead
  rw [h]
  exact congrArg Host.Outcome.next (if_pos (by rw [hg]; decide))

variable (hg : granted s (ownerOf (w * 8)) .scrub = true) (he : eccOf s false w = .double)
  (hm : (getMode s (hbmBankOf (w * 8))).mode ≠ 2)
include hg he hm

theorem exec_scrubRead_double : exec (.scrubRead b k) s = .next
    (logError (poisonHbm (bankUncorrected s (hbmBankOf (w * 8))) (w * 8 / 64 * 64) 64) (ownerOf (w * 8))
      { sector := w * 8 / 64 % 2 ^ 46, part := rangeOwner (bankUncorrected s (hbmBankOf (w * 8))) (w * 8) }) := by
  have hf : ¬ eccFix s false w = true := by
    unfold eccFix
    rw [he]
    simpa [wordBank] using hm
  have hr : eccRead s false w = bankUncorrected s (hbmBankOf (w * 8)) := (if_neg hf).trans (if_pos (.inl he))
  show execScrubRead b k s = _
  unfold execScrubRead
  rw [h, ← hr]
  exact congrArg Host.Outcome.next ((if_neg (by rw [hg]; decide)).trans ((if_neg hf).trans
    ((if_pos (.inl he)).trans (if_neg Bool.false_ne_true))))

theorem scrubRead_poisons : ∃ t, exec (.scrubRead b k) s = .next t ∧
    (∀ x ∈ wordsOf (w * 8 / 64 * 64) 64, eccOf t false x = .poison) ∧ SameBytes s t ∧
    (getMode t (hbmBankOf (w * 8))).ucount = sat16 (getMode s (hbmBankOf (w * 8))).ucount := by
  have h1 : Touches [.bankModes] s (bankUncorrected s (hbmBankOf (w * 8))) := .put rfl
  have h2 := poisonHbm_touches (bankUncorrected s (hbmBankOf (w * 8))) (w * 8 / 64 * 64) 64
  have h3 := logError_touches (poisonHbm (bankUncorrected s (hbmBankOf (w * 8))) (w * 8 / 64 * 64) 64) (ownerOf (w * 8))
    { sector := w * 8 / 64 % 2 ^ 46, part := rangeOwner (bankUncorrected s (hbmBankOf (w * 8))) (w * 8) }
  refine ⟨_, exec_scrubRead_double h hg he hm, fun x hx => ?_, SameBytes.trans (h1.sameBytes (by decide))
    (SameBytes.trans (h2.sameBytes (by decide)) (h3.sameBytes (by decide))), ?_⟩
  · rw [eccOf_congr (h3.same .ecc (by decide)) (h3.same .eccL0 (by decide)), poisonHbm_ecc hx]
  · rw [h3.getMode (by decide), h2.getMode (by decide)]
    exact congrArg BankMode.ucount (getMode_modMode ..)

end
end

/-! ### Windows and conversions (R386) -/

section
variable {s : State} {b : BankId}

theorem eccWindowExpiry_early
    (h : (getPkg s (bankPkg b)).time < (getMode s b).wstart + (getPkg s (bankPkg b)).windowMs * 10 ^ 6) :
    exec (.eccWindowExpiry b) s = .next s := congrArg Host.Outcome.next (if_pos h)

theorem exec_eccWindowExpiry
    (h : (getMode s b).wstart + (getPkg s (bankPkg b)).windowMs * 10 ^ 6 ≤ (getPkg s (bankPkg b)).time) :
    exec (.eccWindowExpiry b) s = .next (modMode (pendIfDue s b) b fun m =>
      { m with wcount := 0, wstart := (getPkg s (bankPkg b)).time }) :=
  congrArg Host.Outcome.next (if_neg (Nat.not_lt.2 h))

theorem eccWindowExpiry_ends
    (h : (getMode s b).wstart + (getPkg s (bankPkg b)).windowMs * 10 ^ 6 ≤ (getPkg s (bankPkg b)).time) :
    ∃ t, exec (.eccWindowExpiry b) s = .next t ∧ (getMode t b).wcount = 0 ∧
      (getMode t b).wstart = (getPkg s (bankPkg b)).time ∧ (getMode t b).ccount = (getMode s b).ccount ∧ SameBytes s t := by
  refine ⟨_, exec_eccWindowExpiry h, congrArg BankMode.wcount (getMode_modMode ..),
    congrArg BankMode.wstart (getMode_modMode ..), (congrArg BankMode.ccount (getMode_modMode ..)).trans (pendIfDue_ccount s b),
    SameBytes.trans ((pendIfDue_touches s b).sameBytes (by decide)) (Touches.sameBytes (l := [.bankModes]) (.put rfl) (by decide))⟩

theorem bankConversion_waits (h : (getMode s b).mode ≠ 1 ∨ eighthFree s b = false) : exec (.bankConversion b) s = .next s :=
  congrArg Host.Outcome.next (if_pos (h.imp_right fun he => by rw [he]; rfl))

theorem bankConversion_converts (h1 : (getMode s b).mode = 1) (h2 : eighthFree s b = true) (h3 : badWords s b = []) :
    exec (.bankConversion b) s = .next (setMode s b { getMode s b with mode := 2 }) := by
  refine congrArg Host.Outcome.next ((if_neg ?_).trans ?_)
  · rw [h2]
    exact fun hc => hc.elim (fun n => n h1) (by decide)
  · rw [h3]
    rfl

end

/-! ### The trace unit (R395) -/

section
variable {s : State} {pkg die part : Nat}

/-- A trace buffer with a record fewer staged and a new write index. -/
def tracedCfg (c : TraceCfg) (xs : List (BitVec 256)) (wi : Nat) : TraceCfg := { c with staged := xs, wi := wi }

theorem traced_spec (hm : s.MemOk) (k : Nat × Nat × Nat) (a : Nat) (bs : List Byte) (c : TraceCfg) :
    StoresHbm s (setTraceCfg (writeHbm s a bs) k c) a bs ∧ (setTraceCfg (writeHbm s a bs) k c).threads = s.threads :=
  ⟨(writeHbm_stores hm a bs).after (Touches.sameBytes (l := [.traces]) (.put rfl) (by decide)),
    (writeHbm_touches s a bs).same .threads (by decide)⟩

theorem traceWrite_none (h : (getTraceCfg s (pkg, die, part)).staged = []) : exec (.traceWrite pkg die part) s = .next s := by
  show execTraceWrite pkg die part s = _
  unfold execTraceWrite
  dsimp only
  rw [h]

variable {x : BitVec 256} {xs : List (BitVec 256)} {c : TraceCfg} (hc : getTraceCfg s (pkg, die, part) = c)
  (h : c.staged = x :: xs) (h0 : c.size ≠ 0)
include hc h h0

theorem exec_traceWrite : exec (.traceWrite pkg die part) s = .next
    (if c.stopFull ∧ traceRoom c ≤ c.wi then
      setTraceCfg s (pkg, die, part) { c with staged := xs, lost := (c.lost + 1) % 2 ^ 32 }
    else if !granted s (ownerOf (c.base + 32 * (c.wi % traceRoom c))) .trace then s
    else setTraceCfg (writeHbm s (c.base + 32 * (c.wi % traceRoom c)) (leBytes 32 x.toNat)) (pkg, die, part)
      { c with staged := xs, wi := if c.stopFull then c.wi + 1 else (c.wi + 1) % traceRoom c }) := by
  show execTraceWrite pkg die part s = _
  unfold execTraceWrite
  dsimp only
  rw [hc, h]
  exact congrArg Host.Outcome.next (if_neg h0)

theorem traceWrite_full (hs : c.stopFull = true) (hn : traceRoom c ≤ c.wi) : exec (.traceWrite pkg die part) s =
    .next (setTraceCfg s (pkg, die, part) { c with staged := xs, lost := (c.lost + 1) % 2 ^ 32 }) :=
  (exec_traceWrite hc h h0).trans (congrArg Host.Outcome.next (if_pos ⟨hs, hn⟩))

variable (hs : c.stopFull = false)
include hs

theorem traceWrite_noSlot (hg : granted s (ownerOf (c.base + 32 * (c.wi % traceRoom c))) .trace = false) :
    exec (.traceWrite pkg die part) s = .next s :=
  (exec_traceWrite hc h h0).trans (congrArg Host.Outcome.next ((if_neg fun hx => Bool.false_ne_true (hs.symm.trans hx.1)).trans
    (if_pos (by rw [hg]; rfl))))

theorem traceWrite_stores (hg : granted s (ownerOf (c.base + 32 * (c.wi % traceRoom c))) .trace = true) (hm : s.MemOk) :
    ∃ t, exec (.traceWrite pkg die part) s = .next t ∧
      StoresHbm s t (c.base + 32 * (c.wi % traceRoom c)) (leBytes 32 x.toNat) ∧
      getTraceCfg t (pkg, die, part) = { c with staged := xs, wi := (c.wi + 1) % traceRoom c } ∧ t.threads = s.threads := by
  have hex := (exec_traceWrite hc h h0).trans (congrArg Host.Outcome.next
    ((if_neg fun hx => Bool.false_ne_true (hs.symm.trans hx.1)).trans (if_neg (by rw [hg]; decide))))
  exact ⟨_, hex, traced_spec hm (pkg, die, part) _ _ _ |>.1, (getTraceCfg_setTraceCfg ..).trans (congrArg (tracedCfg c xs)
    (if_neg fun hx => Bool.false_ne_true (hs.symm.trans hx))), traced_spec hm (pkg, die, part) _ _ _ |>.2⟩

end

/-! ### Power and cooling (R414) -/

section
variable {s : State} {pkg : Nat}

theorem thermalThrottle_under (h1 : (getPkg s pkg).powerW ≤ (getPkg s pkg).limit) (h2 : (getPkg s pkg).tempC < 95) :
    exec (.thermalThrottle pkg true) s = .next s :=
  congrArg Host.Outcome.next ((if_pos rfl).trans (if_pos ⟨h1, h2⟩))

theorem thermalThrottle_over (h : (getPkg s pkg).limit < (getPkg s pkg).powerW ∨ 95 ≤ (getPkg s pkg).tempC) :
    exec (.thermalThrottle pkg true) s = .next (setPkg s pkg { getPkg s pkg with
      clock := Nat.max 5 ((getPkg s pkg).clock - 5), throttle := true }) :=
  congrArg Host.Outcome.next ((if_pos rfl).trans (if_neg fun hc => h.elim (Nat.not_lt.2 hc.1) (Nat.not_le.2 hc.2)))

theorem thermalThrottle_stays (h : (getPkg s pkg).limit ≤ (getPkg s pkg).powerW ∨ 90 ≤ (getPkg s pkg).tempC) :
    exec (.thermalThrottle pkg false) s = .next s :=
  congrArg Host.Outcome.next ((if_neg Bool.false_ne_true).trans (if_pos (h.imp_right .inl)))

theorem thermalThrottle_raises (h1 : (getPkg s pkg).powerW < (getPkg s pkg).limit) (h2 : (getPkg s pkg).tempC < 90)
    (h3 : (getPkg s pkg).clock < 100) : exec (.thermalThrottle pkg false) s = .next (setPkg s pkg { getPkg s pkg with
      clock := Nat.min 100 ((getPkg s pkg).clock + 5), throttle := decide ((getPkg s pkg).clock + 5 < 100) }) :=
  congrArg Host.Outcome.next ((if_neg Bool.false_ne_true).trans
    (if_neg fun hc => hc.elim (Nat.not_le.2 h1) fun hc => hc.elim (Nat.not_le.2 h2) (Nat.not_le.2 h3)))

end

/-! ### What a package loses (R413, R414) -/

theorem memGet_filter_kept (p : Nat → Bool) {a : Nat} (h : p a = true) (m : Memory) :
    memGet (m.filter fun c => p c.1) a = memGet m a := by
  induction m with
  | nil => rfl
  | cons c m ih =>
    by_cases hc : p c.1 = true
    · rw [List.filter_cons_of_pos (p := fun c : Host.Cell => p c.1) hc]
      by_cases ha : a = c.1
      · exact (if_pos ha).trans (if_pos ha).symm
      · exact (if_neg ha).trans (ih.trans (if_neg ha).symm)
    · rw [List.filter_cons_of_neg (p := fun c : Host.Cell => p c.1) hc]
      have ha : a ≠ c.1 := fun he => hc (he ▸ h)
      exact ih.trans (if_neg ha).symm

/-- The state of a package is lost, and the rest of the machine keeps its own. -/
structure Lost (s t : State) (pkg : Nat) : Prop where
  threads : t.threads = (clearPkg s pkg).threads
  hbm : t.hbm = (clearPkg s pkg).hbm
  l0 : t.l0 = (clearPkg s pkg).l0
  graphs : t.graphs = (clearPkg s pkg).graphs
  hostMem : t.hostMem = s.hostMem

theorem getThr_clearPkg (s : State) (pkg : Nat) (k : Tid) :
    getThr (clearPkg s pkg) k = if k.pkg = pkg then {} else getThr s k := by
  show (tfind k (s.threads.filter fun x => decide (x.1.pkg ≠ pkg))).getD {} = _
  rw [tfind_filter (fun k : Tid => decide (k.pkg ≠ pkg))]
  by_cases h : k.pkg = pkg
  · rw [if_neg (by simpa using h), if_pos h]
    rfl
  · rw [if_pos (by simpa using h), if_neg h]
    rfl

section
variable {s t : State} {pkg : Nat} (h : Lost s t pkg)
include h

theorem Lost.getThr (k : Tid) : getThr t k = if k.pkg = pkg then {} else getThr s k := by
  rw [← getThr_clearPkg]
  unfold Machine.getThr
  rw [h.threads]

theorem Lost.spec : (∀ h, h.pkg = pkg → Machine.getThr t h = {}) ∧ (∀ a, gpaPkg a = pkg → memGet t.hbm a = 0) ∧
    (∀ a, gpaPkg a ≠ pkg → memGet t.hbm a = memGet s.hbm a) ∧ (∀ a, (l0Page a).1 = pkg → memGet t.l0 a = 0) ∧
    (∀ g, getGraph t (pkg, g) = none) ∧ (∀ h, h.pkg ≠ pkg → Machine.getThr t h = Machine.getThr s h) ∧ t.hostMem = s.hostMem := by
  refine ⟨fun k hk => (h.getThr k).trans (if_pos hk), fun a ha => ?_, fun a ha => ?_, fun a ha => ?_, fun g => ?_,
    fun k hk => (h.getThr k).trans (if_neg hk), h.hostMem⟩
  · rw [h.hbm]
    exact memGet_filter (fun a => decide (gpaPkg a ≠ pkg)) (by simpa using ha) _
  · rw [h.hbm]
    exact memGet_filter_kept (fun a => decide (gpaPkg a ≠ pkg)) (by simpa using ha) _
  · rw [h.l0]
    exact memGet_filter (fun a => decide ((l0Page a).1 ≠ pkg)) (by simpa using ha) _
  · unfold getGraph
    rw [h.graphs]
    exact (tfind_filter (fun k : Nat × Nat => decide (k.1 ≠ pkg)) (pkg, g) s.graphs).trans (if_neg (by simp))

end

theorem getPart_clearPkg (s : State) (pkg k : Nat) :
    getPart (clearPkg s pkg) (pkg, k) = if k = 0 then { live := true, ranges := [(0, hbmSize)] } else {} := by
  show (tfind (pkg, k) (s.partitions.filter fun x => decide (x.1.1 ≠ pkg))).getD _ = _
  rw [tfind_filter (fun k : Nat × Nat => decide (k.1 ≠ pkg)), if_neg (by simp)]
  rfl

/-- The entry of a package that has shut down. -/
def offPkg (k : Package) : Package :=
  { off := true, faultLine := true, powerW := k.powerW, tempC := k.tempC, inputV := k.inputV, staged := k.staged,
    stepping := k.stepping }

/-- The entry of a package after a cold reset. -/
def coldPkg (s : State) (pkg : Nat) (k : Package) : Package :=
  { powerW := k.powerW, tempC := k.tempC, inputV := k.inputV, staged := k.staged.filter (Config.patchValid pkg),
    patch := k.staged.filter (Config.patchValid pkg), stepping := k.stepping, pkgFault := !Config.straitsTrain s.freeCount }

section
variable {s : State} {pkg : Nat}

theorem thermalShutdown_stays (h1 : (getPkg s pkg).tempC < 110) (h2 : 48 ≤ (getPkg s pkg).inputV)
    (h3 : (getPkg s pkg).inputV ≤ 58) : exec (.thermalShutdown pkg) s = .next s :=
  congrArg Host.Outcome.next (if_pos ⟨h1, h2, h3⟩)

theorem thermalShutdown_stops
    (h : 110 ≤ (getPkg s pkg).tempC ∨ (getPkg s pkg).inputV < 48 ∨ 58 < (getPkg s pkg).inputV) :
    exec (.thermalShutdown pkg) s = .next (setPkg (clearPkg s pkg) pkg (offPkg (getPkg s pkg))) :=
  congrArg Host.Outcome.next (if_neg (by omega))

theorem coldReset_noInput (h : (getPkg s pkg).inputV < 48 ∨ 58 < (getPkg s pkg).inputV) : exec (.coldReset pkg) s = .next s :=
  congrArg Host.Outcome.next (if_pos h)

theorem coldReset_resets (h1 : 48 ≤ (getPkg s pkg).inputV) (h2 : (getPkg s pkg).inputV ≤ 58) : exec (.coldReset pkg) s =
    .next (freeStep (setPkg (clearPkg s pkg) pkg (coldPkg s pkg (getPkg s pkg)))) :=
  congrArg Host.Outcome.next (if_neg (by omega))

theorem setPkg_lost (s : State) (pkg : Nat) (k : Package) : Lost s (setPkg (clearPkg s pkg) pkg k) pkg := ⟨rfl, rfl, rfl, rfl, rfl⟩

theorem freeStep_lost (s : State) (pkg : Nat) (k : Package) : Lost s (freeStep (setPkg (clearPkg s pkg) pkg k)) pkg :=
  ⟨rfl, rfl, rfl, rfl, rfl⟩

/-- The state after a cold reset: the package's partitions are those of reset, its patch a valid one or none. -/
theorem coldReset_package (s : State) (pkg : Nat) :
    let t := freeStep (setPkg (clearPkg s pkg) pkg (coldPkg s pkg (getPkg s pkg)))
    getPkg t pkg = coldPkg s pkg (getPkg s pkg) ∧
      ∀ h, (getPart t (pkg, 0)).live = true ∧ (h ≠ 0 → (getPart t (pkg, h)).live = false) := by
  have hp (k : Nat) : getPart (freeStep (setPkg (clearPkg s pkg) pkg (coldPkg s pkg (getPkg s pkg)))) (pkg, k) =
    if k = 0 then { live := true, ranges := [(0, hbmSize)] } else {} := getPart_clearPkg s pkg k
  refine ⟨getPkg_setPkg .., fun k => ⟨?_, fun hk => ?_⟩⟩
  · exact congrArg Partition.live (hp 0)
  · exact (congrArg Partition.live ((hp k).trans (if_neg hk)))

theorem coldPkg_patch (s : State) (pkg : Nat) (k : Package) :
    (coldPkg s pkg k).patch = none ∨ ∃ b, (coldPkg s pkg k).patch = some b ∧ Config.patchValid pkg b = true := by
  cases h : (coldPkg s pkg k).patch with
  | none => exact .inl rfl
  | some b => exact .inr ⟨b, rfl, (Option.filter_eq_some_iff.1 h).2⟩

end

/-- Settles O57: each event is an equation that its condition selects; a shutdown and a cold reset keep of every table the entries of
the other packages (`Lost.spec`). -/
theorem packageUpkeep : Obligations.PackageUpkeep := by
  unfold Obligations.PackageUpkeep
  intro s
  refine ⟨fun e => ⟨elementClockGate_busy, elementClockGate_gates, elementWake_ends, elementWake_waits, elementWake_wakes⟩,
    fun pkg die page => ⟨pagePowerGate_noSet, pagePowerGate_gates⟩, fun b k => ⟨scrubRead_none, fun w => scrubRead_corrects,
      fun w h => ⟨scrubRead_noSlot h, scrubRead_poisons h⟩⟩,
    fun b => ⟨eccWindowExpiry_early, eccWindowExpiry_ends, bankConversion_waits, bankConversion_converts⟩, ?_, ?_⟩
  · intro pkg die part c n a
    exact ⟨traceWrite_none, fun x xs h h0 => ⟨traceWrite_full rfl h h0, traceWrite_noSlot rfl h h0, traceWrite_stores rfl h h0⟩⟩
  · intro pkg k
    refine ⟨thermalThrottle_under, thermalThrottle_over, thermalThrottle_stays, thermalThrottle_raises, ?_⟩
    intro lost
    refine ⟨thermalShutdown_stays, fun h => ⟨_, thermalShutdown_stops h, (setPkg_lost ..).spec, ?_, ?_⟩, coldReset_noInput,
      fun h1 h2 => ?_⟩
    · rw [getPkg_setPkg]
      rfl
    · rw [getPkg_setPkg]
      rfl
    · obtain ⟨hk, hp⟩ := coldReset_package s pkg
      refine ⟨_, coldReset_resets h1 h2, (freeStep_lost ..).spec, ?_⟩
      rw [hk]
      exact ⟨rfl, rfl, rfl, rfl, coldPkg_patch .., hp⟩

end Sys2Proof.Machine
end
